-- ==== Sys2Proof/Word.lean ====
section
/-! DEFINITION. The words of the model: bytes and the two register widths (R16). -/

namespace Sys2Proof

/-- One byte of memory, of a frame or of a request's data. -/
abbrev Byte := BitVec 8

/-- A 32-bit register word (R16). -/
abbrev Word := BitVec 32

/-- A 64-bit register or field. -/
abbrev Word64 := BitVec 64

end Sys2Proof
end

