-- ==== Sys2Proof/Machine/Units.lean ====
section
/-! DEFINITION. The units of one block and their numbers: islands (R23), power domains (R493), firmware cores, request
kinds, hints and requesters. -/

namespace Sys2Proof.Machine

/-- The locally clocked islands (R23). -/
inductive Island where
  | pc (p : Fin 64)
  | slice (s : Fin 16)
  | bme (b : Fin 32)
  | hostPort (n : Fin 16)
  | firmware
  | remote
  | d2d (east : Bool)
  | sensor
  deriving DecidableEq, Repr

/-- Number of an island in the tables of this model: PCs, slices, BMEs, host ports, firmware, remote, west, east; the
sensor and management island is 132. -/
def Island.index : Island → Nat
  | .pc p => p
  | .slice s => 64 + s
  | .bme b => 80 + b
  | .hostPort n => 112 + n
  | .firmware => 128
  | .remote => 129
  | .d2d false => 130
  | .d2d true => 131
  | .sensor => 132

/-- Index of the power domain an island lies in (R23, R493); the firmware island's is the liaison core's, the one its
emulated registers need. -/
def Island.domain : Island → Nat
  | .pc p => p
  | .slice s => 96 + s
  | .bme b => 64 + b
  | .hostPort n => 116 + n / 4
  | .firmware => 115
  | .remote => 120
  | .d2d false => 121
  | .d2d true => 122
  | .sensor => 123

/-- The four firmware cores (R23), in the order of FW_CORE_CTRL.RESET_CORE. -/
inductive Core where
  | scheduler | upkeep | steward | liaison
  deriving DecidableEq, Repr

/-- Number of a core: domain 112 + k (R493). -/
def Core.index : Core → Fin 4
  | .scheduler => 0
  | .upkeep => 1
  | .steward => 2
  | .liaison => 3

/-- State of a power domain as THERM_DOM_STATE_w codes it (R494). -/
inductive DomState where
  | off | staging | on | isolated
  deriving DecidableEq, Repr

/-- Code of a domain state (R494). -/
def DomState.code : DomState → Nat
  | .off => 0
  | .staging => 1
  | .on => 2
  | .isolated => 3

/-- The domain state of a code (R494). -/
def DomState.ofCode : Nat → DomState
  | 0 => .off
  | 1 => .staging
  | 2 => .on
  | _ => .isolated

/-- Operations of a request; `reserved` stands for OP 0x5 to 0xF (R50). -/
inductive HostOp where
  | read | write | atomic | reduceInto | clean | reserved
  deriving DecidableEq, Repr

/-- HPn_REQ_OP (R50). -/
def HostOp.ofCode : Nat → HostOp
  | 0 => .read
  | 1 => .write
  | 2 => .atomic
  | 3 => .reduceInto
  | 4 => .clean
  | _ => .reserved

/-- Cache hints (R50). -/
inductive Hint where
  | normal | stream | keep | last
  deriving DecidableEq, Repr

/-- HPn_REQ_HINT (R50). -/
def Hint.ofCode : Nat → Hint
  | 0 => .normal
  | 1 => .stream
  | 2 => .keep
  | _ => .last

/-- Requesters of the request crossbar (R190). -/
inductive Src where
  | host (n : Fin 16)
  | firmware
  | remote
  | d2d (east : Bool)
  | bme (b : Fin 32)
  deriving DecidableEq, Repr

/-- Crossbar port number of a requester, the tie order of R190. -/
def Src.port : Src → Nat
  | .host n => n
  | .firmware => 16
  | .remote => 17
  | .d2d false => 18
  | .d2d true => 19
  | .bme b => 20 + b

/-- The island of a requester, whose copy of package time its timestamps read (R27). -/
def Src.island : Src → Island
  | .host n => .hostPort n
  | .firmware => .firmware
  | .remote => .remote
  | .d2d east => .d2d east
  | .bme b => .bme b

/-- Size in bytes of a SIZE code; none for the reserved codes (R50). -/
def sizeOfCode : Nat → Option Nat
  | 0 => some 8
  | 1 => some 16
  | 2 => some 32
  | 3 => some 64
  | 4 => some 128
  | 5 => some 256
  | _ => none

/-- The timing registers of a PC (R105, R177). -/
inductive TimReg where
  | row | col | turn | refresh
  deriving DecidableEq, Repr

/-- Status codes (R311). -/
inductive Status where
  | ok | partialData
  | badRequest | badOpcode | badLength | lengthExceeds | badSequence | badParameter | badTable | badBagList
  | indexOutOfRange | outOfLocalRange | exceedsEngine | tableNotRemote | replyTooLarge | oversizeForGate
  | absent | reductionTableFull | reductionOpen | overcount | retryCongested
  | poisoned | sliceFenced | cancelled | thermalShutdown | timedOut | notifyFailed
  | deferredEmergency | contentsLost | stackUnsupported | strapInvalid
  deriving DecidableEq, Repr

/-- The code of a status (R311). -/
def Status.code : Status → Nat
  | .ok => 0x00 | .partialData => 0x01
  | .badRequest => 0x10 | .badOpcode => 0x11 | .badLength => 0x12 | .lengthExceeds => 0x13 | .badSequence => 0x14
  | .badParameter => 0x15 | .badTable => 0x16 | .badBagList => 0x17 | .indexOutOfRange => 0x18
  | .outOfLocalRange => 0x19 | .exceedsEngine => 0x1A | .tableNotRemote => 0x1B | .replyTooLarge => 0x1C
  | .oversizeForGate => 0x1D
  | .absent => 0x20 | .reductionTableFull => 0x21 | .reductionOpen => 0x22 | .overcount => 0x23
  | .retryCongested => 0x24
  | .poisoned => 0x30 | .sliceFenced => 0x31 | .cancelled => 0x32 | .thermalShutdown => 0x33 | .timedOut => 0x34
  | .notifyFailed => 0x35
  | .deferredEmergency => 0x40 | .contentsLost => 0x41 | .stackUnsupported => 0x42 | .strapInvalid => 0x43

/-- Every status, for reading a code back. -/
def Status.all : List Status :=
  [.ok, .partialData, .badRequest, .badOpcode, .badLength, .lengthExceeds, .badSequence, .badParameter, .badTable,
   .badBagList, .indexOutOfRange, .outOfLocalRange, .exceedsEngine, .tableNotRemote, .replyTooLarge, .oversizeForGate,
   .absent, .reductionTableFull, .reductionOpen, .overcount, .retryCongested, .poisoned, .sliceFenced, .cancelled,
   .thermalShutdown, .timedOut, .notifyFailed, .deferredEmergency, .contentsLost, .stackUnsupported, .strapInvalid]

/-- The status of a code; an unlisted code is reserved (R311). -/
def Status.ofCode (c : Nat) : Option Status := Status.all.find? fun st => st.code = c

end Sys2Proof.Machine
end

