-- ==== Sys2Proof/Machine/InTypes.lean ====
section
/-! DEFINITION. What rows of the table bring in from outside the block and the spec lays out no bytes for: the contents
of a repair section (R426) and the outcome of a training run on the stack's lanes (R409 to R411). -/

namespace Sys2Proof.Machine

/-- The contents of a REPAIR section (R426). The spec lists them and lays out no bytes. -/
structure RepairInfo where
  held : BitVec 64
  reserve : BitVec 5
  unlaced : BitVec 64
  retired : BitVec 256
  /-- Entry and word in the format of PC_REDIR_e. -/
  redirs : List (Fin 16 × BitVec 64)
  /-- Per PC, register words: 0 to 37 PC_DLY_DQ_k, 38 to 57 PC_DLY_CA_k, 58 PC_VREF, 59 PC_LANE_MAP, 60 guard band. -/
  lanes : List (Fin 64 × Fin 61 × BitVec 32)
  deriving DecidableEq, Repr

/-- A lane's part in a sweep: bit i set when the lane passes setting i, of 128 delay steps or 64 reference steps (R410). -/
abbrev Passes := BitVec 128

/-- The sweep of one lane in one layer group. -/
structure LaneRun where
  pc : Fin 64
  kind : Fin 5
  group : Fin 4
  lane : Fin 38
  passes : Passes
  deriving DecidableEq, Repr

/-- What one training attempt at one data rate measures (R409 to R412). Kinds: 0 receive delay, 1 transmit delay,
2 RD_VREF, 3 WR_VREF, 4 command/address delay. -/
structure TrainRun where
  /-- Sweeps by kind of every lane in every layer group that `lanes` does not list. -/
  usual : List Passes
  lanes : List LaneRun
  /-- PCs with a failed strobe or clock lane. -/
  strobe : BitVec 64
  /-- PCs whose confirmation shows an error, with a lane that shows it. -/
  confirm : List (Fin 64 × Fin 38)
  /-- PC_TIM_ROW, PC_TIM_COL, PC_TIM_TURN and PC_TIM_REF for the rate as derived from the stack's identification (R104);
  empty for the default set. -/
  timing : List (BitVec 32)
  /-- INTERVAL as firmware derives it for the stack (R175); none where the value in force suits it. -/
  interval : Option (BitVec 13)
  deriving DecidableEq, Repr

/-- Results of one kind's floor probes: bit l set when lane l fails at centre − floor, and at centre + floor (R417). -/
structure FloorProbe where
  low : BitVec 38
  high : BitVec 38
  deriving DecidableEq, Repr

/-- What the margin engine posts of a truing window (R417): lanes whose reference read fails, the floor probes of the
receive delay, the transmit delay, RD_VREF and the command/address delay, and the lanes that fail one step outside the
tracked edge and at the edge. -/
structure Probes where
  reference : BitVec 38
  rx : FloorProbe
  tx : FloorProbe
  vref : FloorProbe
  ca : FloorProbe
  outside : BitVec 38
  atEdge : BitVec 38
  deriving DecidableEq, Repr

/-- What the bytes of a ledger leave unsaid at replay (R426): the PC and index of each entry of ROW_HEALTH, whose 8 bytes do not
name them, and what PLAN holds beside the horizons: pending pre-emptive requests (ranks) and the last retention results (rank,
row × 16 + bank number, RET_MS, service day). -/
structure LedgerInfo where
  places : List (Fin 64 × Fin 2048)
  requests : List (BitVec 8)
  results : List (BitVec 8 × BitVec 19 × BitVec 7 × BitVec 16)
  deriving DecidableEq, Repr

/-- A row that fails a hold of the memory test (R168). -/
structure MemFail where
  rank : BitVec 8
  bg : Fin 4
  bank : Fin 4
  row : BitVec 15
  hold : Fin 4
  deriving DecidableEq, Repr

end Sys2Proof.Machine
end

