-- ==== Sys2Proof/Machine/Bits.lean ====
section
/-! DEFINITION. Helpers over bits, bytes and sparse tables, used by every family. -/

namespace Sys2Proof.Machine

/-- Bits [lo + width − 1 : lo] of a number (R14). -/
def natBits (x lo width : Nat) : Nat := x / 2 ^ lo % 2 ^ width

/-- `x` with bits [lo + width − 1 : lo] replaced by the low bits of `v`. -/
def natSetBits (x lo width v : Nat) : Nat :=
  x - natBits x lo width * 2 ^ lo + v % 2 ^ width * 2 ^ lo

/-- The two's-complement value of the low `width` bits of `x` (R13). -/
def signedOf (width x : Nat) : Int :=
  let y := x % 2 ^ width
  if y < 2 ^ (width - 1) then (y : Int) else (y : Int) - (2 ^ width : Nat)

/-- An integer as a two's-complement field of `width` bits. -/
def fieldOfInt (width : Nat) (v : Int) : Nat := (v % ((2 ^ width : Nat) : Int)).toNat

/-- Little-endian bytes as a number (R14). -/
def leNat : List Byte → Nat
  | [] => 0
  | b :: bs => b.toNat + 256 * leNat bs

/-- The low `n` bytes of a number, little-endian (R14). -/
def leBytes : Nat → Nat → List Byte
  | 0, _ => []
  | n + 1, x => BitVec.ofNat 8 (x % 256) :: leBytes n (x / 256)

/-- The number of ones in the low `n` bits of `x`. -/
def onesBelow : Nat → Nat → Nat
  | 0, _ => 0
  | n + 1, x => x % 2 + onesBelow n (x / 2)

/-- `n` copies of zero. -/
def zeros (n : Nat) : List Byte := List.replicate n 0

/-- The elements of `l` from `i` on, `n` of them, padded with `d`. -/
def slicePad {α : Type} (d : α) (l : List α) (i n : Nat) : List α :=
  (List.range n).map fun k => l.getD (i + k) d

/-- `n` bytes of `l` from `i` on, padded with zero. -/
def sliceBytes (l : List Byte) (i n : Nat) : List Byte := slicePad 0 l i n

/-- `l` with the bytes from `i` on replaced by `v`; nothing is lengthened. -/
def patch {α : Type} (l : List α) (i : Nat) (v : List α) : List α :=
  l.zipIdx.map fun (x, k) => if i ≤ k then v.getD (k - i) x else x

/-- The first `n` numbers, for a walk over units. -/
abbrev upto (n : Nat) : List Nat := List.range n

/-- One step of the 32-bit Galois LFSR of x^32 + x^22 + x^2 + x + 1 (R272). DESIGN CHOICE: it shifts right, the bit
shifted out feeding bits 31, 21, 1 and 0. -/
def lfsrStep (x : Nat) : Nat := (x / 2) ^^^ (if x % 2 = 1 then 0x80200003 else 0)

/-- A seed as an LFSR takes it: zero is replaced by 1 (R272, R519). -/
def lfsrSeed (x : Nat) : Nat := if x % 2 ^ 32 = 0 then 1 else x % 2 ^ 32

/-- `n` steps of the LFSR. -/
def lfsrRun : Nat → Nat → Nat
  | 0, x => x
  | n + 1, x => lfsrRun n (lfsrStep x)

/-! ### Sparse tables: (key, value) pairs, keys strictly rising, no entry equal to the value an unlisted key has -/

/-- The value of a key; an unlisted key has the value `d` gives it. -/
def cget {α : Type} (d : Nat → α) : List (Nat × α) → Nat → α
  | [], a => d a
  | (k, v) :: r, a => if k = a then v else cget d r a

/-- Insert a key that is not listed, keeping the keys rising. -/
def cins {α : Type} (a : Nat) (v : α) : List (Nat × α) → List (Nat × α)
  | [] => [(a, v)]
  | (k, w) :: r => if a < k then (a, v) :: (k, w) :: r else (k, w) :: cins a v r

/-- Remove a key. -/
def cdel {α : Type} (a : Nat) (m : List (Nat × α)) : List (Nat × α) := m.filter fun e => e.1 ≠ a

/-- Set the value of a key; a value equal to the unlisted one removes the entry, so equal tables are equal lists. -/
def cset {α : Type} [DecidableEq α] (d : Nat → α) (m : List (Nat × α)) (a : Nat) (v : α) : List (Nat × α) :=
  if v = d a then cdel a m else cins a v (cdel a m)

/-- The canonical form of a table: keys strictly rising, no entry equal to the unlisted value. -/
def cwf {α : Type} [DecidableEq α] (d : Nat → α) : List (Nat × α) → Bool
  | [] => true
  | (k, v) :: r => decide (v ≠ d k) && r.all (fun e => decide (k < e.1)) && cwf d r

end Sys2Proof.Machine
end

