-- ==== Sys2Proof/Machine/AddressMap.lean ====
section
/-! DEFINITION. Address map and lacing (03): from a package byte address to a physical location of the stack, and the
home slice of a line (R181, R207). All functions take the register values they depend on. -/

namespace Sys2Proof.Machine

/-- A physical location of one 64 B burst: rank, bank group, bank, row and column (R92, R100). -/
structure Loc where
  rank : Nat
  bg : Nat
  bank : Nat
  row : Nat
  col : Nat
  deriving DecidableEq, Repr

/-- Bytes of one rank: 384 MiB (R92). -/
def rankBytes : Nat := 402653184

/-- Rows of a bank (R92). -/
def rowsPerBank : Nat := 24576

/-- The PC of a rank (R83). -/
def Loc.pc (l : Loc) : Nat := l.rank % 64

/-- The physical layer group of a rank (R83). -/
def Loc.group (l : Loc) : Nat := l.rank / 64

/-- Bank number within a PC: k = j × 16 + bank group × 4 + bank (R152). -/
def Loc.bankIx (l : Loc) : Nat := l.group * 16 + l.bg * 4 + l.bank

/-- Whether two bursts lie in the same row of the same bank. -/
def Loc.sameRow (a b : Loc) : Bool := a.rank = b.rank ∧ a.bg = b.bg ∧ a.bank = b.bank ∧ a.row = b.row

/-- The unit of a burst within its rank: row × 16 + bank group × 4 + bank (R449). -/
def Loc.unit (l : Loc) : Nat := l.row * 16 + l.bg * 4 + l.bank

/-- Number of a burst among all bursts of a stack, the key of the model's stack memory. -/
def Loc.burst (l : Loc) : Nat := ((l.rank * rowsPerBank + l.row) * 16 + l.bg * 4 + l.bank) * 16 + l.col

/-- Whether a location exists in a stack of `groups` layer groups (R83, R92). -/
def Loc.exists (l : Loc) (groups : Nat) : Bool :=
  l.rank < 64 * groups ∧ l.bg < 4 ∧ l.bank < 4 ∧ l.row < rowsPerBank ∧ l.col < 16

/-- Where the ingress sends an address (R28, R81). -/
inductive Route where
  | hole
  | own (l : Nat)
  | other (n : Nat)
  deriving DecidableEq, Repr

/-- Granule exponent s of a GRANULE code; the reserved code 0b11 is replaced at range assignment and counts as its
reset value (R88, R90). -/
def granuleBits : Nat → Nat
  | 0 => 8
  | 1 => 10
  | _ => 12

/-- The logical PC of a local offset (R88). -/
def lacePc (pattern s l : Nat) : Nat :=
  let g := natBits l s 6
  match pattern with
  | 0 => g
  | 1 => g ^^^ natBits l 20 6
  | _ =>
    let f := natBits l 20 12 ^^^ natBits l 32 5
    g ^^^ natBits f 0 6 ^^^ natBits f 6 6

/-- The PC's share W of a local offset (R89). -/
def laceShare (s l : Nat) : Nat := l / 2 ^ (s + 6) * 2 ^ s + l % 2 ^ s

/-- Bank group, bank and column of O[13:6] in an order (R93). -/
def orderFields (order o : Nat) : Nat × Nat × Nat :=
  let a := natBits o 6 2
  let b := natBits o 8 2
  let c := natBits o 10 2
  let d := natBits o 12 2
  match order with
  | 0 => (d, c, b * 4 + a)
  | 1 => (a, b, d * 4 + c)
  | 2 => (b, c, d * 4 + a)
  | _ => (d, a, c * 4 + b)

/-- The PCs whose top-group rank is not held, in increasing order (R94). -/
def unheldPcs (held : Nat) : List Nat := (upto 64).filter fun p => !held.testBit p

/-- The physical location of a local offset before any redirect: lacing, order and top-group packing (R88 to R94). -/
def decodeLocal (pattern granule order groups held l : Nat) : Loc × Nat :=
  let s := granuleBits granule
  let q := lacePc pattern s l
  let w := laceShare s l
  let j := w / rankBytes
  let o := w % rankBytes
  let (bg, ba, col) := orderFields order o
  let row := o / 2 ^ 14
  let h := onesBelow 64 held
  if j + 1 = groups ∧ 0 < h then
    let u := q * (64 - h) + row / 384
    let p := (unheldPcs held).getD (u / 64) 0
    ({ rank := j * 64 + p, bg := bg, bank := ba, row := u % 64 * 384 + row % 384, col := col }, o % 64)
  else ({ rank := j * 64 + q, bg := bg, bank := ba, row := row, col := col }, o % 64)

/-- Home slice of an address: the exclusive or of its nibbles from bit 7 up (R181). -/
def homeSlice (a : Nat) : Nat :=
  natBits a 7 4 ^^^ natBits a 11 4 ^^^ natBits a 15 4 ^^^ natBits a 19 4 ^^^ natBits a 23 4 ^^^ natBits a 27 4 ^^^
    natBits a 31 4 ^^^ natBits a 35 2

/-- The slice that holds a line when the slices of `fenced` are fenced (R207); the home slice when none is left. -/
def lineSlice (fenced a : Nat) : Nat :=
  let h := homeSlice a
  if fenced.testBit h then
    let free := (upto 16).filter fun s => !fenced.testBit s
    free.getD (natBits a 7 30 % free.length) h
  else h

/-- Set of a line within its slice (R181). -/
def lineSet (a : Nat) : Nat := natBits a 11 26 % 3072

/-- Tag of a line: X div 3,072 and a[10:7] (R181). -/
def lineTag (a : Nat) : Nat × Nat := (natBits a 11 26 / 3072, natBits a 7 4)

/-- Line number a[36:7] of an address; set and tag determine it (R181). -/
def lineNo (a : Nat) : Nat := natBits a 7 30

end Sys2Proof.Machine
end

