-- ==== Sys2Proof/Machine/MemTypes.lean ====
section
/-! DEFINITION. State types of the three memory paths: host ports, slices, pannier, PC controllers and the stack
(chapters 01, 02, 04 to 07). -/

namespace Sys2Proof.Machine

/-! ### Requests -/

/-- A request as it travels to a slice: at most one 128 B line of a host-port, firmware, remote, die-to-die or BME
request (R28, R50, R194). `id` joins the parts of one request, `part` is the number of the line part within it. -/
structure Req where
  id : Nat
  part : Nat
  src : Src
  op : HostOp
  addr : Nat
  size : Nat
  hint : Hint
  discard : Bool
  urgent : Bool
  attr : Nat
  cls : Nat
  data : List Byte
  strb : List Bool
  /-- A BME prefetch (R186). -/
  prefetch : Bool
  /-- COUNT of a contribution: ATTR[15:8] at a host port, the 24-bit field of a remote or BME one (R194, R202). -/
  count : Nat
  /-- Deckle of a contribution, binary32 (R202). -/
  deckle : Nat
  /-- The requester takes the value where it issues the request; the response carries nothing it waits for. -/
  quiet : Bool := false
  /-- Part of a request that covers some element with only some of its strobes: no element of any of its lines is touched
  (R195). -/
  torn : Bool := false
  deriving DecidableEq, Repr

/-- An outstanding request of a host port with its reserved response space (R29, R52, R54). -/
structure HostTxn where
  id : Nat
  port : Fin 16
  tag : Nat
  op : HostOp
  addr : Nat
  size : Nat
  hint : Hint
  discard : Bool
  urgent : Bool
  attr : Nat
  /-- Write-data beats still to come; the request leaves the port once it is 0 (R53). -/
  beatsLeft : Nat
  /-- True while beats are accepted and discarded up to WD_LAST (reserved SIZE, R50). -/
  discardBeats : Bool
  /-- A strobe was set outside the request's range (R53). -/
  strobeOut : Bool
  data : List Byte
  strb : List Bool
  /-- True once the request, or its immediate completion, has left the port. -/
  sent : Bool
  /-- Line parts whose responses are outstanding. -/
  partsLeft : Nat
  status : Status
  hasData : Bool
  rsp : List Byte
  /-- True once the whole response is in the reserved response buffer. -/
  ready : Bool
  /-- Response beats already transferred. -/
  beatsOut : Nat
  deriving DecidableEq, Repr

/-- A response beat at a host port (R54). -/
structure RspBeat where
  tag : Nat
  status : Status
  hasData : Bool
  data : List Byte
  last : Bool
  deriving DecidableEq, Repr

/-- A host port: `isolated` ports answer nothing until re-powered (R54). -/
structure HostPort where
  reqReady : Bool
  txns : List HostTxn
  out : List RspBeat
  deriving DecidableEq, Repr

/-! ### The shared cache (07) -/

/-- One 64 B sector of a line (R180). -/
structure Sector where
  valid : Bool
  dirty : Bool
  poison : Bool
  data : List Byte
  deriving DecidableEq, Repr

/-- One way of a set (R180): `line` is a[36:7], which determines set and tag (R181); `base` is the package address of
the line. -/
structure Line where
  used : Bool
  line : Nat
  base : Nat
  ret : Nat
  lo : Sector
  hi : Sector
  /-- A drop that waits for RELEASE, and whether it discards the dirty bytes (R187, R188). -/
  deferDrop : Bool
  deferDiscard : Bool
  deriving DecidableEq, Repr

/-- What holds a miss entry (R31, R192). -/
inductive MissKind where
  | fill
  | readThrough
  | writeThrough
  | pannier
  | waiting
  deriving DecidableEq, Repr

/-- A miss entry, also a line lock (R31, R36, R192): the request in service, the 64 B sectors it still waits for, the
sectors that came back, and the requests waiting behind it in input-queue order. -/
structure Miss where
  line : Nat
  kind : MissKind
  current : Option Req
  sectorsLeft : List Nat
  got : List (Nat × Bool × List Byte)
  narrowLeft : Nat
  /-- The line was newly allocated for the request in service (R185). -/
  fresh : Bool
  queue : List Req
  /-- A narrow LAST request has gone on to the half-pannier while the line is partly there: the line is dropped once the lock is
  released; true where its dirty bytes are lost (R187, R188). -/
  drop : Option Bool := none
  deriving DecidableEq, Repr

/-- A reduction entry (R201). `m` and `d` are binary32 words. -/
structure RedEntry where
  line : Nat
  func : Nat
  format : Nat
  count : Nat
  expected : Nat
  m : Nat
  d : Nat
  complete : Bool
  deriving DecidableEq, Repr

/-- The fence of a slice (R208): idle, draining since a time, or fenced. -/
inductive FenceState where
  | none
  | draining (since : Nat)
  | fenced
  deriving DecidableEq, Repr

/-- One cache slice (R36, R180 to R208). Ways are keyed by set × 16 + way; an unlisted way is invalid. -/
structure Slice where
  input : List Req
  misses : List Miss
  ways : List (Nat × Line)
  reds : List RedEntry
  fence : FenceState
  /-- Events since the last CACHE_STATUS_REPORT (R209). -/
  overcount : Bool
  tableFull : Bool
  /-- The slice answers; one that does not takes no step and loses what it holds when it is fenced (R208, R462). -/
  alive : Bool
  /-- Times of the uncorrectable errors of its data array within the last second (R462). -/
  errs : List Nat
  /-- CLEAN_RANGE sweep in progress: next set, and the range it covers (R304). -/
  sweep : Option (Nat × Nat × Nat × Bool × Bool)
  deriving DecidableEq, Repr

/-! ### Accesses to the stack (04) -/

/-- Who an access belongs to, that is where its data or its completion goes. -/
inductive Owner where
  | fill (slice : Fin 16) (line sector : Nat)
  | readThrough (slice : Fin 16) (line sector : Nat)
  | writeBack (slice : Fin 16) (line : Nat)
  | writeThrough (slice : Fin 16) (line : Nat)
  /-- A burst of an entry of the half-pannier of PC `home`. -/
  | pannier (home : Fin 64) (entry burst : Nat)
  | bme (b : Fin 32) (tag : Nat)
  | copyRead (entry : Nat)
  | copyWrite (entry : Nat)
  | margin
  | scrub
  | debug
  | mergeRead (write : Nat)
  /-- The copy of a mirrored write that goes to FROM; the one to TO carries the write's owner (R450). -/
  | mirror
  deriving DecidableEq, Repr

/-- One 64 B access (R100). `addr` is the package address of its burst where it carries one (R100, R444). -/
structure Access where
  id : Nat
  cls : Nat
  loc : Loc
  addr : Option Nat
  write : Bool
  data : List Byte
  mask : List Bool
  /-- The burst is written poisoned (R437). -/
  poison : Bool
  owner : Owner
  deriving DecidableEq, Repr

/-- An entry of the intake pool; the list is in order of pool entry, oldest first (R134). -/
structure PoolEntry where
  acc : Access
  /-- Controller cycle of pool entry (R131). -/
  at_ : Nat
  /-- Number in order of pool entry at this PC (R134). -/
  no : Nat
  /-- Position within its run, if it belongs to one (R148). -/
  run : Option Nat
  deriving DecidableEq, Repr

/-- A read-queue entry (R100, R111). -/
structure RqEntry where
  acc : Access
  /-- Pool-entry cycle and number, the age it returns to when a run withdraws it (R149). -/
  poolAt : Nat
  poolNo : Nat
  grantAt : Nat
  issuedAt : Option Nat
  /-- Cycle by which its data has arrived, RL + 2 after its command (R122, R125). -/
  dataAt : Nat
  run : Option Nat
  /-- The 72 bytes of the burst, captured when the read command issues (R113). -/
  image : List Byte
  deriving DecidableEq, Repr

/-- A write-queue entry; `merging` is the MERGE state (R114). -/
structure WqEntry where
  acc : Access
  grantAt : Nat
  issuedAt : Option Nat
  /-- Cycle in which its last data beat has been driven, WL + 2 after its command (R107, R125). -/
  endAt : Nat
  merging : Bool
  /-- The accesses that lie in it, its own and those merged into it: owner and class (R112, R147, R148). -/
  from_ : List (Owner × Nat)
  /-- A write of a replay whose retry failed: its burst enters the known-bad list (R440). -/
  retryFailed : Bool
  deriving DecidableEq, Repr

/-- A read served from the write queue: its data leaves 3 cycles after its grant (R111). -/
structure Forward where
  acc : Access
  grantAt : Nat
  data : List Byte
  bad : Bool
  deriving DecidableEq, Repr

/-- Why the refresh engine holds a bank (R153, R160). -/
inductive Claim where
  | none
  | refresh
  | targeted (row : Nat)
  deriving DecidableEq, Repr

/-- One bank as the controller tracks it (R104, R109, R153). Times are controller cycles. -/
structure Bank where
  row : Option Nat
  actAt : Option Nat
  preAt : Option Nat
  rdAt : Option Nat
  wrAt : Option Nat
  wrEndAt : Option Nat
  lastColAt : Nat
  /-- Column commands the open row has served while an older access to the bank waited for another row (R109). -/
  hits : Nat
  claim : Claim
  /-- First cycle at which the bank is available again (TRFCPB or TRP). -/
  readyAt : Nat
  /-- Refreshes owed after a truing window, three bits (R124). -/
  owed : Nat
  /-- The per-bank refresh of the present claim has issued. -/
  refreshing : Bool
  deriving DecidableEq, Repr

/-- A run of the copier or the margin engine (R148, R149). -/
structure Run where
  write : Bool
  loc : Loc
  len : Nat
  suspended : Bool
  /-- Accesses of the run whose completion has come back. -/
  done : Nat
  /-- Number of accesses put into the pool. -/
  submitted : Nat
  progress : Nat
  startAt : Nat
  deriving DecidableEq, Repr

/-- A narrow request in a pannier entry (R118, R119). -/
structure Narrow where
  req : Req
  slice : Fin 16
  burst : Nat
  offset : Nat
  deriving DecidableEq, Repr

/-- A row entry of a half-pannier (R35, R118 to R121). -/
structure PanEntry where
  id : Nat
  loc : Loc
  openAt : Nat
  /-- The window has closed (R35); `placed` once its bursts are in the intake pool (R119). -/
  closed : Bool
  placed : Bool
  reqs : List Narrow
  /-- Columns of the entry's bursts, in burst order. -/
  bursts : List Nat
  /-- Bursts still to complete after the window closed. -/
  left : List Nat
  deriving DecidableEq, Repr

/-- An entry of the row health table (R161). -/
structure RowEntry where
  valid : Bool
  cls : Nat
  layer : Nat
  bg : Nat
  bank : Nat
  row : Nat
  ceCount : Nat
  retMs : Nat
  lastEvent : Nat
  deriving DecidableEq, Repr

/-- A queued check-code event of the row health table (R163). -/
structure RowEvent where
  loc : Loc
  uncorrectable : Bool
  time : Nat
  deriving DecidableEq, Repr

/-- A truing window of a PC (R122, R416 to R419). -/
structure Truing where
  at_ : Nat
  expedited : Bool
  opened : Bool
  posted : Bool
  done : Bool
  timedOut : Bool
  /-- Number of the window, and its probe results once posted (R416, R417). -/
  no : Nat
  /-- The first of its 8 reference bursts, once the window is open (R417). -/
  place : Option Loc
  /-- PC_TIM_ROW and PC_TIM_COL as they stood at T: they rule the commands of the window (R125). -/
  timing : BitVec 32 × BitVec 32
  probes : Option Probes
  /-- Delays in force at T, restored when DONE does not arrive (R418): (register offset, word). -/
  saved : List (Nat × BitVec 32)
  deriving DecidableEq, Repr

/-- The validity marker of a PC (R387). -/
inductive Marker where
  | none
  | markW
  | markC0
  | markC1
  | invalid
  deriving DecidableEq, Repr

/-- A column command that was driven: its cycle, whether it is a write, and its access with the data written (R439). -/
structure Driven where
  at_ : Nat
  write : Bool
  acc : Access
  deriving DecidableEq, Repr

/-- A replay (R439, R440): its commands in their original order, those still to be issued again, whether the banks are still
being precharged, and whether the retry has failed and its writes are written once more with the poison code. -/
structure Replay where
  items : List Driven
  left : List Driven
  closing : Bool
  failed : Bool
  deriving DecidableEq, Repr

/-- One PC controller island (04 to 06, 16, 17). -/
structure Pc where
  /-- The controller cycle in progress, or about to begin (R99). -/
  cycle : Nat
  /-- Tenths of cycles that the clock has given and no cycle has used, as they stood at `dueAt` in raw time (R99). -/
  due : Nat
  dueAt : Nat
  granted : Bool
  pool : List PoolEntry
  poolNext : Nat
  rq : List RqEntry
  wq : List WqEntry
  /-- Reads served from the write queue whose data has not left yet, and the write queue as it stood at the start of the cycle
  in progress (R111). -/
  fwd : List Forward
  wqStart : List WqEntry
  /-- Slot state (R130, R131, R135, R136, R145): the cycle in which the slot in progress began, the cycle of the last
  grant, the slot's admission, none where it was not evaluated, and BG_HOLD as the slot took it. -/
  slotAt : Nat
  lastGrant : Option Nat
  slotDone : Bool
  slotAdmitted : Option Bool
  bgHold : Bool
  starve : Nat
  thermAcc : Nat
  debugAcc : Option Access
  run6 : Option Run
  run7 : Option Run
  /-- Start cycle of the last class-6 run at this PC (R452). -/
  lastRun6 : Option Nat
  writeMode : Bool
  modeWrites : Nat
  modeIdle : Bool
  modeRead : Bool
  banks : Vector Bank 64
  acts : List (Nat × Nat)
  /-- The last read command: cycle and bank (R107). -/
  lastRd : Option (Nat × Nat)
  /-- Banks whose refreshes, postponed by a truing window, issue before any other command (R124). -/
  owing : List Nat
  /-- Banks that the refresh engine has claimed, in the order of the claims (R153, R160). -/
  claimed : List Nat
  /-- Column commands driven in the last 64 cycles, newest first, and the replay in progress (R439). -/
  recent : List Driven
  replay : Option Replay
  pan : List PanEntry
  panNext : Nat
  /-- Row health partition: entry index to entry, unlisted entries invalid (R161); event queue (R163). -/
  rowh : List (Nat × RowEntry)
  events : List RowEvent
  tick : Nat
  lateTicks : List Nat
  stopped : Bool
  truing : Option Truing
  /-- A second window, armed for after that one (R416, R421). -/
  truingNext : Option Truing
  marker : Marker
  /-- Corrected bursts per lane in the present one-second window, and the limit it runs with (R435). -/
  laneCe : Vector Nat 36
  ceWindow : Nat
  ceLimit : Nat
  ceNext : Nat
  laneSuspect : List Nat
  knownBad : List Nat
  clockLost : Bool
  deriving DecidableEq, Repr

/-- What a redirect entry's copier channel is doing with the unit at WM (R449, R451). -/
inductive CopyPhase where
  | idle | reading | writing
  deriving DecidableEq, Repr

/-- The copier channel of a redirect entry (R448 to R453): the bursts read (column, bad, data), the writes that have
entered TO's write queue, and how often the present unit has been copied. `started` is true from the grant of the first
read of the unit. `loss` notes a burst that entered FROM's known-bad list meanwhile (R503). -/
structure CopyChan where
  phase : CopyPhase
  started : Bool
  got : List (Nat × Bool × List Byte)
  written : Nat
  copies : Nat
  deriving DecidableEq, Repr

/-- The stack-wide refresh rate as the sensor and management island sets it (R156): `warm` is what the last valid
reading left, `stale` means no valid reading for 10 ms or a broken input. -/
structure RefreshCtl where
  warm : Bool
  stale : Bool
  deriving DecidableEq, Repr

/-- A retention test of a rank (R168): its hold by number, the stack reading at its start, whether the hold is running, and
the rows that have failed so far, which no later hold tests. -/
structure RetTest where
  rank : Nat
  hold : Nat
  temp : Int
  startAt : Nat
  holding : Bool
  failed : List (Fin 4 × Fin 4 × BitVec 15)
  deriving DecidableEq, Repr

/-- The stack on the block: its contents by burst (R92, R433) and what it is (R3). Cell key: burst number × 128 + byte;
bytes 0 to 63 are data, 64 to 71 the check word. -/
structure Stack where
  cells : List Host.Cell
  /-- Ranks whose contents are undefined, and the bursts written since. -/
  undef : List Nat
  known : List Nat
  /-- Refresh of the stack by the refresh engines has been started: by the last step of a training, or by a self-refresh exit
  (R172, R409). -/
  refreshed : Bool
  /-- Height of the stack bonded to the block, 12 or 16 when supported (R3). -/
  height : Nat
  deriving DecidableEq, Repr

end Sys2Proof.Machine
end

