-- ==== Sys2Proof/Machine/CoreTypes.lean ====
section
/-! DEFINITION. State types of the pins, the clocks, power staging, the management port and the paths between units
(chapters 01, 02, 15, 21), and of what units hand to firmware. -/

namespace Sys2Proof.Machine

/-- The straps as sampled at the release of PORST_N (R44). -/
structure Straps where
  chainHead : Bool
  wMode : Nat
  eMode : Nat
  snsUse : BitVec 8
  snsKind : BitVec 8
  deriving DecidableEq, Repr

/-- The levels of the pins that the spec's steps read or drive (02). -/
structure Pins where
  porstN : Bool
  vddOk : Bool
  dieWrstReqN : Bool
  dieWrstAck : Bool
  dieRstN : Bool
  stgReq : Bool
  stgNum : Nat
  stgAck : Bool
  memResetN : Bool
  memCattrip : Bool
  computeOffReq : Bool
  computeOffAck : Bool
  colThrOn : Bool
  colThr : Nat
  chainERdy : Bool
  deriving DecidableEq, Repr

/-- Package time in ns as the sensor and management island keeps it, and the local copy of every other island, by
`Island.index` (R27). -/
structure Clocks where
  pkg : Nat
  locals : Vector Nat 132
  /-- Package time at the release of the last reset or the last load, and the time from that release to that load, for
  READY_MS (R404). -/
  releasedAt : Nat
  elapsed : Nat
  /-- Nanoseconds since PORST_N was last released, counted by the oscillators: no load or slew of package time touches them
  (R99, R321). -/
  raw : Nat
  deriving DecidableEq, Repr

/-- Power staging and islands (R49, R393, R394, R494). -/
structure Power where
  /-- Islands out of reset, by `Island.index`. -/
  up : Vector Bool 133
  /-- The sensor and management domain's ramp has begun (R393). -/
  sensorRamp : Bool
  nextStage : Nat
  stageReqAt : Option Nat
  /-- Handshake phases passed: the acknowledgement has risen, and has fallen again (R49). -/
  acked : Bool
  seqStopped : Bool
  seqDone : Bool
  /-- Time of the last stage's end, from which the head starts enumeration (R371). -/
  seqDoneAt : Nat
  /-- The return in progress is a warm one, in which no stage runs (R402). -/
  warm : Bool
  /-- Single domain being re-powered, those already re-powered since the last reset, and when (R494). -/
  repower : Option Nat
  repowered : List (Nat × Nat)
  /-- When a domain was isolated. -/
  isolatedAt : List (Nat × Nat)
  /-- Warm-reset notice in progress (R46), and the oscillator time of its decision (R47). -/
  quiesced : Bool
  noticeAt : Option Nat
  /-- The exit scrub that a warm return owes at ledger replay, and that the return is one from a clock loss (R173, R402). -/
  scrubDue : Bool
  clockLoss : Bool
  /-- Supplies out of regulation: domains, and rails 124 to 126 (R491). -/
  badSupply : List Nat
  /-- A reserved die-to-die mode strap was sampled: STRAP_INVALID is reported (R44). -/
  strapInvalid : Bool
  /-- A warm-reset notice waits for the column's restart (R501). -/
  noticeHeld : Bool
  /-- Slices that have failed, and whether the instance has (R462, R463). -/
  sliceFailed : List Nat
  failed : Bool
  deriving DecidableEq, Repr

/-- An emulated access that the liaison core has not answered (R319, R496). -/
structure EmuAccess where
  write : Bool
  off : Nat
  value : Word
  since : Nat
  deriving DecidableEq, Repr

/-- The management port (R56): the last completion, the access in progress, the held low words (R524) and the
high-word latches (R16), both by register offset. -/
structure MgtPort where
  doneCount : Nat
  rdata : Word
  err : Bool
  waiting : Option EmuAccess
  hold : List (Nat × Word)
  latch : List (Nat × Word)
  deriving DecidableEq, Repr

/-- Data of a 64 B read on its way to its owner. -/
structure Ret64 where
  owner : Owner
  loc : Loc
  data : List Byte
  bad : Bool
  deriving DecidableEq, Repr

/-- The response to one line part of a request that no host port made. -/
structure Completion where
  req : Req
  status : Status
  data : List Byte
  /-- Package time of the response. -/
  at_ : Nat
  deriving DecidableEq, Repr

/-- The paths between the requesters, the slices and the PCs (R28, R36). -/
structure Paths where
  nextId : Nat
  ports : Vector HostPort 16
  /-- The request crossbar, in order of sending. -/
  reqXbar : List Req
  /-- The memory crossbar: PC and access; PC and narrow request for a half-pannier. -/
  memXbar : List (Nat × Access)
  panXbar : List (Nat × Narrow)
  rets : List Ret64
  /-- Responses to requesters other than host ports. -/
  done : List Completion
  /-- Requests held at their ingress while their slice is being fenced (R208). -/
  fenceWait : List Req
  slices : Vector Slice 16
  deriving DecidableEq, Repr

/-- A record waiting for the liaison core (R333, R529). -/
structure LogItem where
  code : Nat
  args : List Nat
  time : Nat
  deriving DecidableEq, Repr

/-- What hardware units have reported to firmware and firmware has not taken up yet. -/
structure Inbox where
  log : List LogItem
  /-- Repair causes: rank and CAUSE (R445). -/
  causes : List (Nat × Nat)
  /-- Completion notices of the slices: address of the line (R204). -/
  notices : List Nat
  /-- Lines whose reduction entries were lost with an unanswered slice (R208). -/
  lostLines : List Nat
  /-- Parity events per rank: rank and time (R442). -/
  parity : List (Nat × Nat)
  /-- Unlacing requests: PC and reason (R445, R457). -/
  unlace : List Nat
  deriving DecidableEq, Repr

end Sys2Proof.Machine
end

