-- ==== Sys2Proof/Machine/PkgTypes.lean ====
section
/-! DEFINITION. State types of the die-to-die ring, the chain, the package (14), the firmware island (12) and request
tagging (20). -/

namespace Sys2Proof.Machine

/-! ### Ring and chain (R369 to R392) -/

/-- What the captain hands to its successor (R382): the telemetry, range reports, budgets, deferred requests, phases and
marker results it keeps. -/
structure CaptainState where
  telemetry : List (Nat × Nat × List Byte)
  reports : List (Nat × List Byte)
  budgets : List (Nat × Nat)
  deferred : List (Nat × Nat × Nat × Nat)
  phases : List (Nat × Nat)
  marks : List (Nat × Nat)
  deriving DecidableEq, Repr

/-- A control message on the ring (R375). The spec lays out two of them, telemetry and range reports (R384, R528); the
others carry what their rule says they carry. -/
inductive Ctl where
  /-- Eligibility of an instance (R380). -/
  | eligible (inst : Nat) (yes : Bool)
  /-- Heartbeat: epoch, captain, deputy if any (R381). -/
  | heartbeat (epoch captain : Nat) (deputy : Option Nat)
  | telemetry (bytes : List Byte)
  | rangeReport (bytes : List Byte)
  /-- Package time alignment has completed (R378). -/
  | locked
  /-- Captain's state to a successor, and its acknowledgement (R382). -/
  | handover (epoch captain successor : Nat) (cause : Nat) (state : CaptainState)
  | handoverAck (epoch captain : Nat)
  /-- Captain's commands: range of an instance, column budget, hall identity (R80, R383, R385). -/
  | setRange (inst base ranks : Nat) (valid : Bool)
  | setBudget (inst watts : Nat)
  | setHall (inst id size : Nat) (dirs : List Nat)
  /-- A stoker's rebinding request and the captain's answer (R446). -/
  | rebindRequest (inst rank cause : Nat)
  | rebindAnswer (inst rank : Nat) (approved : Bool)
  /-- An instance has aligned its package time; one asks its neighbour for a timestamp; the answer (R378). -/
  | aligned (inst : Nat)
  | timeAsk (inst : Nat)
  | timeTold (inst time : Nat)
  /-- RESULT of the marker check of an instance, for the captain (R389). -/
  | markResult (inst result : Nat)
  /-- A link of the ring has come into or gone out of service; link i joins instances i and i + 1. -/
  | link (i : Nat) (up : Bool)
  deriving DecidableEq, Repr

/-- What a flit carries (R374 to R376). -/
inductive Body where
  | request (r : Req)
  | response (id part : Nat) (addr : Nat) (st : Status) (data : List Byte)
  /-- An Aqair frame in transit, towards a sub-port of the target instance or its receive side (R348, R349). -/
  | frame (bytes : List Byte) (sub : Option Nat)
  | ctl (c : Ctl)
  deriving DecidableEq, Repr

/-- One unit of ring traffic: virtual channel (0 REQ, 1 RSP, 2 ESC), source and destination instance. -/
structure Flit where
  vc : Nat
  src : Nat
  dst : Nat
  body : Body
  /-- Time since which it waits at this instance. -/
  since : Nat
  /-- Port and channel whose receive buffer it holds here, for traffic in transit. -/
  came : Option (Bool × Nat) := none
  deriving DecidableEq, Repr

/-- 256 B flits that a unit of traffic takes (R375); a frame takes as many as its bytes need. -/
def Body.flits : Body → Nat
  | .frame b _ => (b.length + 255) / 256
  | _ => 1

/-- A module of a die-to-die port (R64, R464, R465). -/
structure D2dModule where
  /-- Failed lanes: 0 to 63 TXD, 64 to 67 TXRD, 68 TXCK_P, 69 TXCK_N, 70 TXCKRD, 71 TXVLD, 72 TXVLDRD, 73 TXTRK,
  74 TXTRKRD, 75 SBTXD, 76 SBTXCK, 77 SBTXDRD, 78 SBTXCKRD (R63, R64). -/
  failed : List Nat
  retrainFrom : Option Nat
  inService : Bool
  /-- Times of the injected CRC errors of the last millisecond (R465, R468). -/
  crc : List Nat
  deriving DecidableEq, Repr

/-- A die-to-die port (R36, R63 to R65, R375). -/
structure D2dPort where
  trainFrom : Option Nat
  trained : Bool
  /-- A mismatch took the port out of service (R372). -/
  refused : Bool
  credits : Vector Nat 3
  /-- Traffic waiting for the port, oldest first, and the flits sent, oldest first. -/
  waiting : List Flit
  sent : List Flit
  /-- Own requests sent through the port whose response has not returned (R377). -/
  outstanding : List Req
  /-- Requests in transit sent through the port whose response has not passed back (R377). -/
  transit : List Flit
  /-- Instance number sent to the neighbour as the link last trained (R372). -/
  numberSent : Option Nat
  /-- Since when the head of the ESC channel has stood at the earliest (R392). -/
  headSince : Nat
  mods : Vector D2dModule 2
  /-- Credits returned to the far side so far, per channel. -/
  returned : Vector Nat 3
  deriving DecidableEq, Repr

/-- A request of another instance in service here (R28): the local number and where its response goes. -/
structure Served where
  id : Nat
  origin : Nat
  originId : Nat
  deriving DecidableEq, Repr

/-- The ring as this instance sees it (R374). -/
structure Ring where
  west : D2dPort
  east : D2dPort
  /-- Links known to be in service, by the lower number of their ends. -/
  links : List Nat
  served : List Served
  /-- Control messages delivered here and not taken up yet. -/
  inbox : List (Nat × Ctl)
  /-- Requests forwarded and dropped by rule, for the port counters (R377, R392). -/
  dropped : Nat
  deriving DecidableEq, Repr

/-- The chain pins of this instance (R69 to R71, R369 to R371). Words are 32-bit. -/
structure Chain where
  /-- Words waiting for CHAIN_E_RDY, and words driven downstream and upstream, oldest first. -/
  waitE : List Word
  outE : List Word
  outW : List Word
  /-- Words taken here: true when they came from upstream (downstream words). -/
  taken : List (Bool × Word)
  /-- ENUM waits for CHAIN_E_RDY since this time (R371 step 3). -/
  enumSince : Option Nat
  /-- Head: time of its ENUM, until LAST has come. -/
  headSince : Option Nat
  sizeSent : Bool
  /-- Control messages arriving by RELAY words: downstream ones, and upstream ones by source (R369). -/
  relayDown : List Nat
  relayUp : List (Nat × List Nat)
  /-- Words that the downstream instance still takes before it lowers CHAIN_E_RDY; none while it keeps it high (R71). -/
  room : Option Nat
  deriving DecidableEq, Repr

/-- A handover the captain has begun (R382). -/
structure Handover where
  successor : Nat
  since : Nat
  cause : Nat
  deriving DecidableEq, Repr

/-- What the steward core keeps of the package (R378 to R386, R446). -/
structure Package where
  epoch : Nat
  elected : Bool
  /-- Eligibility heard, by instance, and since when each has been eligible (R380, R382). -/
  heard : List (Nat × Bool)
  eligibleSince : List (Nat × Nat)
  electionSince : Option Nat
  heartbeatAt : Nat
  sentAt : Nat
  handover : Option Handover
  /-- Last telemetry of each instance and when it came (R384, R386). -/
  telemetry : List (Nat × Nat × List Byte)
  reports : List (Nat × List Byte)
  telemetryAt : Nat
  relayAt : Nat
  balanceAt : Nat
  /-- Budgets the captain has set, in whole W (R385). -/
  budgets : List (Nat × Nat)
  /-- Deferred rebinding requests: instance, rank, cause, time (R446). -/
  deferred : List (Nat × Nat × Nat × Nat)
  /-- Phases reported by RESULT words of STATUS, by instance (R395, R396). -/
  phases : List (Nat × Nat)
  goAt : Option Nat
  trainSent : Bool
  d2dSent : Bool
  /-- TRAIN_D2D or RETRAIN_D2D whose RESULT is due: code, ports named (bit 0 west, bit 1 east), since (R396, R400). -/
  d2dCmd : Option (Nat × Nat × Nat)
  /-- Captain elected at start-up, to which the first range report goes (R528). -/
  reported : Bool
  ranged : Bool
  /-- Instances known to have aligned, a correction still to slew in ns, last alignment (R378). -/
  aligned : List Nat
  slew : Int
  alignAt : Nat
  /-- Since when this instance has been captain, from which telemetry is awaited (R386). -/
  captainAt : Nat
  /-- Head: instances that had reported GO when TRAIN_STACK went out (R395). -/
  commanded : List Nat
  /-- The instance takes no range (R87). -/
  noRange : Bool
  /-- A heartbeat of the captain has come (R528); some instance has been out of the ring's reach since the last range report
  (R386); marker results by instance (R389). -/
  beatHeard : Bool
  cutOff : Bool
  marks : List (Nat × Nat)
  /-- When a heartbeat or relayed message of an instance last came over the chain (R379, R386). -/
  chainHeard : List (Nat × Nat)
  deriving DecidableEq, Repr

/-! ### Firmware (12) -/

/-- One firmware core (R312, R324). -/
structure FwCore where
  /-- Released and not halted. -/
  run : Bool
  /-- Time of a reset whose recheck is outstanding. -/
  resetAt : Option Nat
  wdogFrom : Nat
  /-- Time-out in ms that the count under way runs to. -/
  wdogMs : Nat
  /-- Start address taken last. -/
  pc : Nat
  entry : Nat
  recovery : Nat
  sectionLen : Nat
  digest : Nat
  sram : List (Nat × Byte)
  deriving DecidableEq, Repr

/-- A staged image under verification or verified (R328). -/
structure Staged where
  image : List Byte
  digest : Nat
  deriving DecidableEq, Repr

/-- The firmware island (12). Registers hold STATE, AUTH_RESULT and the like. -/
structure Fw where
  cores : Vector FwCore 4
  /-- Bytes received since START, the data phase and the boot ROM's checks (R316). -/
  image : List Byte
  dataPhase : Bool
  checking : Bool
  /-- Times of resets of single cores (R326). -/
  resets : List Nat
  /-- Time of the last reload of the host-loss timer while it runs (R321). -/
  hostTimer : Option Nat
  orderlyAt : Option Nat
  staged : Option Staged
  /-- The emergency signal has been low since this time (R329). -/
  calmSince : Option Nat
  /-- Cores are halted for an activation that has committed at this time (R329). -/
  commitAt : Option Nat
  /-- The activation has been decided and the captain hands captaincy over first (R329 step 4). -/
  handed : Bool
  fetching : Bool
  /-- Records waiting for the ring (R333), and those lost to a full buffer. -/
  logWait : List (List Byte)
  /-- Trace records gathered, with the time of the first, and the trace numbers (R334). -/
  trace : List (List Byte)
  traceAt : Nat
  traceSeq : Nat
  traceSlot : Nat
  /-- Firmware's picture of the unit-state registers: offset and word (R332). -/
  picture : List (Nat × Word)
  deriving DecidableEq, Repr

/-! ### Request tagging (R519 to R521) -/

/-- A tagged request: its number, port, fields and the times of the stages it has passed. -/
structure TagRec where
  id : Nat
  port : Nat
  op : Nat
  hint : Nat
  addr : Nat
  cls : Nat
  path : Nat
  pc : Nat
  slice : Nat
  status : Nat
  stamps : List (Nat × Nat)
  deriving DecidableEq, Repr

/-- Tagging: the LFSR of each ingress by port number, tagged requests in flight and records waiting to be written. -/
structure Tagging where
  lfsr : Vector Nat 52
  live : List TagRec
  wait : List (List Byte)
  deriving DecidableEq, Repr

end Sys2Proof.Machine
end

