-- ==== Sys2Proof/Syntax.lean ====
section
/-! DEFINITION. The commands: one constructor per row of spec/opcode_table.json, in the order of the table. The table gives
no row any bits, so the operands are the model's: the numbers of the units a row speaks of, the values written or
measured, and what the row brings in from outside the block. -/

namespace Sys2Proof

open Machine

/-- A command to the block. -/
inductive Instr where
  /-- REGISTER_WRITE, R17. -/
  | registerWrite (off : BitVec 24) (v events : Word)
  /-- LOW_WORD_READ, R16. -/
  | lowWordRead (off : BitVec 24)
  /-- LOW_WORD_WRITE, R524. -/
  | lowWordWrite (off : BitVec 24) (v : Word)
  /-- HIGH_WORD_WRITE, R524. -/
  | highWordWrite (off : BitVec 24) (v : Word)
  /-- EMULATED_ACCESS, R319. -/
  | emulatedAccess (write : Bool) (off : BitVec 24) (v : Word)
  /-- EMULATED_ACCESS_TIMEOUT, R496. -/
  | emulatedAccessTimeout
  /-- PORST_N_ASSERT, R45. -/
  | porstNAssert
  /-- PORST_N_RELEASE, R393. -/
  | porstNRelease (head : Bool) (west east : BitVec 2) (use kind : BitVec 8)
  /-- VDD_OK_FALL, R45. -/
  | vddOkFall
  /-- SENSOR_ISLAND_RESET_RELEASE, R393. -/
  | sensorIslandResetRelease
  /-- POWER_STAGE_REQUEST, R49. -/
  | powerStageRequest
  /-- PWR_STG_ACK_RISE, R49. -/
  | pwrStgAckRise
  /-- PWR_STG_ACK_FALL, R49. -/
  | pwrStgAckFall
  /-- STAGE_TIMEOUT, R394. -/
  | stageTimeout
  /-- ISLAND_RESET_RELEASE, R394. -/
  | islandResetRelease (i : Island)
  /-- DIE_WRST_REQ_FALL, R46. -/
  | dieWrstReqFall
  /-- DIE_WRST_REQ_RISE, R48. -/
  | dieWrstReqRise
  /-- DIE_RST_N_ASSERT, R47; `behind` are the PCs that had not written their marker. -/
  | dieRstNAssert (behind : BitVec 64)
  /-- WARM_RETURN, R402. -/
  | warmReturn (repair : Option RepairInfo)
  /-- CLOCK_LOSS, R388. -/
  | clockLoss (p : Fin 64) (cut oscBad : Bool)
  /-- LOCAL_TIME_CORRECTION, R27. -/
  | localTimeCorrection (i : Island)
  /-- OSCILLATOR_COMPENSATION, R490. -/
  | oscillatorCompensation
  /-- HOST_REQUEST, R28. -/
  | hostRequest (p : Fin 16) (addr : BitVec 52) (op : BitVec 4) (size : BitVec 3) (hint : BitVec 2) (discard urgent : Bool) (tag : BitVec 7) (attr : BitVec 16)
  /-- HOST_WRITE_DATA_BEAT, R53. -/
  | hostWriteDataBeat (p : Fin 16) (data : List Byte) (strb : List Bool) (last : Bool)
  /-- HOST_RESPONSE_BEAT, R54. -/
  | hostResponseBeat (p : Fin 16) (tag : BitVec 7)
  /-- HOST_READ, R185. -/
  | hostRead (sl : Fin 16)
  /-- HOST_WRITE, R185. -/
  | hostWrite (sl : Fin 16)
  /-- CLEAN, R189. -/
  | clean (sl : Fin 16)
  /-- ATOMIC_ADD, R196. -/
  | atomicAdd (sl : Fin 16)
  /-- ATOMIC_MIN, R196. -/
  | atomicMin (sl : Fin 16)
  /-- ATOMIC_MAX, R196. -/
  | atomicMax (sl : Fin 16)
  /-- ATOMIC_SWAP, R196. -/
  | atomicSwap (sl : Fin 16)
  /-- ATOMIC_CAS, R197. -/
  | atomicCas (sl : Fin 16)
  /-- REDUCE_CONTRIBUTION, R202. -/
  | reduceContribution (sl : Fin 16)
  /-- REDUCE_ARM, R203. -/
  | reduceArm (sl : Fin 16)
  /-- REDUCE_QUERY, R205. -/
  | reduceQuery (sl : Fin 16)
  /-- REDUCE_RELEASE, R205. -/
  | reduceRelease (sl : Fin 16)
  /-- SLICE_INPUT, R190. -/
  | sliceInput (sl : Fin 16)
  /-- MISS_ENTRY_RELEASE, R192. -/
  | missEntryRelease (sl : Fin 16)
  /-- FILL_RETURN, R31. -/
  | fillReturn (sl : Fin 16)
  /-- PANNIER_REQUEST, R118. -/
  | pannierRequest (p : Fin 64)
  /-- PANNIER_WINDOW_CLOSE, R35. -/
  | pannierWindowClose (p : Fin 64)
  /-- PANNIER_ENTRY_FREE, R120. -/
  | pannierEntryFree (p : Fin 64)
  /-- INTAKE_ACCESS, R100. -/
  | intakeAccess (p : Fin 64)
  /-- SLOT_GRANT, R135. -/
  | slotGrant (p : Fin 64)
  /-- SLOT_ADVANCE, R130. -/
  | slotAdvance (p : Fin 64)
  /-- COMMAND_SELECT, R109. -/
  | commandSelect (p : Fin 64)
  /-- READ_DATA_RETURN, R434. -/
  | readDataReturn (p : Fin 64) (err : List Byte)
  /-- MERGE_READ_RETURN, R114. -/
  | mergeReadReturn (p : Fin 64) (err : List Byte)
  /-- WRITE_DATA_DRIVEN, R100. -/
  | writeDataDriven (p : Fin 64)
  /-- TIMING_REGISTER_WRITE, R105. -/
  | timingRegisterWrite (p : Fin 64) (r : TimReg) (v : Word)
  /-- PC_DRAIN_WRITE, R106. -/
  | pcDrainWrite (p : Fin 64) (v : Word)
  /-- SLOT_ARM, R140. -/
  | slotArm (p : Fin 64) (v : Word)
  /-- SLOT_DISARM, R143. -/
  | slotDisarm (p : Fin 64) (v : Word)
  /-- STARVE_N_WRITE, R136. -/
  | starveNWrite (p : Fin 64) (v : Word)
  /-- SLOT_SHIFT, R142. -/
  | slotShift (p : Fin 64)
  /-- SLOT_CLASS_PRIO_WRITE, R138. -/
  | slotClassPrioWrite (v : Word)
  /-- DEBUG_MEMORY_ACCESS, R147. -/
  | debugMemoryAccess (rank : BitVec 8) (bg bank : BitVec 2) (row : BitVec 15) (col : BitVec 4) (write : Bool) (data : List Byte)
  /-- RUN_SUBMIT, R148. -/
  | runSubmit (p : Fin 64) (copier : Option (Fin 16)) (write : Bool) (group bg bank : Fin 4) (row : BitVec 15) (col : BitVec 4) (len : BitVec 5) (data : List (List Byte))
  /-- RUN_RESUME, R149. -/
  | runResume (p : Fin 64) (cls7 : Bool)
  /-- REFRESH_DUE, R153. -/
  | refreshDue (p k : Fin 64)
  /-- REFRESH_COMPLETE, R153. -/
  | refreshComplete (p k : Fin 64)
  /-- TARGETED_REFRESH_TICK, R159. -/
  | targetedRefreshTick (p : Fin 64)
  /-- REFRESH_RATE_CHANGE, R157. -/
  | refreshRateChange (p : Fin 64)
  /-- STACK_TEMPERATURE_READ, R156. -/
  | stackTemperatureRead (v : BitVec 12) (ok : Bool)
  /-- MEM_CATTRIP_RISE, R62. -/
  | memCattripRise
  /-- ROW_HEALTH_EVENT, R163. -/
  | rowHealthEvent (p : Fin 64)
  /-- ROW_HEALTH_FW_WRITE, R162; `unit` is BG × 4 + BANK, `tie` the same cycle as a row event (R164). -/
  | rowHealthFwWrite (p : Fin 64) (i : Fin 2048) (valid : Bool) (cls : Fin 6) (retMs : BitVec 7) (layer : Fin 4) (unit : Fin 16)
    (row : BitVec 15) (tie : Bool)
  /-- ROW_CLASSIFY, R166. -/
  | rowClassify (p : Fin 64) (layer bg bank : Fin 4) (row : BitVec 15) (test : Option (Fin 4 × BitVec 10))
  /-- RETENTION_TEST, R168. -/
  | retentionTest (p : Fin 64) (layer : Fin 4) (hold : Fin 4)
  /-- RETENTION_HOLD_EXPIRY, R168. -/
  | retentionHoldExpiry (rank : BitVec 8) (failed : List (Fin 4 × Fin 4 × BitVec 15))
  /-- REF_INHIBIT_WRITE, R170. -/
  | refInhibitWrite (p : Fin 64) (group : BitVec 4)
  /-- EXIT_SCRUB_COMPLETE, R172. -/
  | exitScrubComplete (p : Fin 64) (errs : List (Nat × List Byte)) (fails : List MemFail)
  /-- PC_REF_CTRL_WRITE, R175; `events` as in REGISTER_WRITE (R18). -/
  | pcRefCtrlWrite (v events : Word)
  /-- PC_REF_TEMP_WRITE, R176. -/
  | pcRefTempWrite (v : Word)
  /-- PC_LACE_WRITE, R90. -/
  | pcLaceWrite (v : Word)
  /-- CACHE_CTRL_WRITE, R184. -/
  | cacheCtrlWrite (v : Word)
  /-- SLICE_FENCE, R208. -/
  | sliceFence (sl : Fin 16)
  /-- SLICE_FENCE_TIMEOUT, R208. -/
  | sliceFenceTimeout (sl : Fin 16)
  /-- SLICE_FENCE_COMPLETE, R208. -/
  | sliceFenceComplete (sl : Fin 16)
  /-- CACHE_STATUS_REPORT, R209. -/
  | cacheStatusReport (sl : Fin 16)
  /-- DOORBELL, R285. -/
  | doorbell (q : Fin 64) (tail : Word)
  /-- QUEUE_ENABLE, R287. -/
  | queueEnable (q : Fin 64) (v : Word)
  /-- QUEUE_RESET, R308. -/
  | queueReset (q : Fin 64) (v : Word)
  /-- QUEUE_IRQ_ACK, R310. -/
  | queueIrqAck (q : Fin 64) (ack : Word)
  /-- PACKET_FETCH, R288. -/
  | packetFetch
  /-- PACKET_INTAKE, R292. -/
  | packetIntake
  /-- PACKET_START, R293. -/
  | packetStart (q : Fin 64)
  /-- REPLY_WRITE, R291. -/
  | replyWrite
  /-- NOP, R298. -/
  | nop
  /-- FENCE, R298. -/
  | fence
  /-- SIGNATURE, R299. -/
  | signature
  /-- SCALE_ADD, R237. -/
  | scaleAdd
  /-- MUL, R237. -/
  | mul
  /-- RELU, R237. -/
  | relu
  /-- CONVERT, R237. -/
  | convert
  /-- ROW_QUANTISE, R238. -/
  | rowQuantise
  /-- ROW_UPDATE, R239. -/
  | rowUpdate
  /-- PRESS_PROJECT, R245. -/
  | pressProject
  /-- PRESS_GRAM, R245. -/
  | pressGram
  /-- CLEAN_RANGE, R304. -/
  | cleanRange
  /-- CLEAN_SWEEP_SET, R304. -/
  | cleanSweepSet (sl : Fin 16)
  /-- COLLECTIVE, R305. -/
  | collective
  /-- COMPLETION_NOTICE, R305. -/
  | completionNotice
  /-- COLLECTIVE_TIMEOUT, R306. -/
  | collectiveTimeout
  /-- CANCEL, R307. -/
  | cancel
  /-- BAG_DEAL, R220. -/
  | bagDeal
  /-- FETCH_ORDER, R220. -/
  | fetchOrder (b : Fin 32)
  /-- ROW_PART_ARRIVAL, R221. -/
  | rowPartArrival (b : Fin 32)
  /-- BAG_COMMIT, R222. -/
  | bagCommit
  /-- SPINE_STAGE, R223. -/
  | spineStage (k : Fin 5)
  /-- BAG_FINISH, R225. -/
  | bagFinish
  /-- BAG_PREFETCH, R227. -/
  | bagPrefetch
  /-- BME_FAIL, R461. -/
  | bmeFail (b : Fin 32) (cond : BitVec 2)
  /-- BME_PROGRESS_TIMEOUT, R461. -/
  | bmeProgressTimeout (b : Fin 32)
  /-- PRESS_PASS, R248. -/
  | pressPass (b : Fin 32)
  /-- TILE_SWAP, R249. -/
  | tileSwap (b : Fin 32)
  /-- JOB_COMMIT, R251. -/
  | jobCommit
  /-- DRAIN_COMPLETE, R251. -/
  | drainComplete (b : Fin 32)
  /-- FW_LOAD_START, R316. -/
  | fwLoadStart
  /-- FW_LOAD_DATA, R316. -/
  | fwLoadData (v : Word)
  /-- FW_LOAD_COMMIT, R316. -/
  | fwLoadCommit
  /-- AUTHENTICATION_DONE, R315. -/
  | authenticationDone
  /-- CORES_IN_SERVICE, R317. -/
  | coresInService
  /-- HEARTBEAT, R321. -/
  | heartbeat
  /-- HOST_TIMEOUT_WRITE, R321. -/
  | hostTimeoutWrite (ms : BitVec 16)
  /-- HOST_LOSS_EXPIRY, R322. -/
  | hostLossExpiry
  /-- ATTACH, R323. -/
  | attach (v : Word)
  /-- WATCHDOG_EXPIRY, R324. -/
  | watchdogExpiry (k : Fin 4)
  /-- CORE_TRAP, R324. -/
  | coreTrap (k : Fin 4)
  /-- RESET_CORE, R324. -/
  | resetCore (mask : BitVec 4)
  /-- CORE_RESTART, R324. -/
  | coreRestart (k : Fin 4) (damage : List (BitVec 18 × Byte))
  /-- RESET_ALL, R327. -/
  | resetAll (orderly : Bool)
  /-- ORDERLY_RESET_DONE, R327. -/
  | orderlyResetDone
  /-- WDOG_CFG_WRITE, R324. -/
  | wdogCfgWrite (ms : BitVec 7)
  /-- STAGE_VERIFY, R328. -/
  | stageVerify (len : BitVec 20)
  /-- STAGE_VERIFY_DONE, R328. -/
  | stageVerifyDone
  /-- STAGE_ACTIVATE, R329. -/
  | stageActivate (len : BitVec 20)
  /-- ACTIVATION_COMMIT_POINT, R329. -/
  | activationCommitPoint
  /-- ACTIVATION_RETRY, R329. -/
  | activationRetry
  /-- ACTIVATION_LOAD_DONE, R330. -/
  | activationLoadDone
  /-- STAGE_CANCEL, R330. -/
  | stageCancel (len : BitVec 20)
  /-- CENSUS, R332. -/
  | census
  /-- LOG_RECORD, R333. -/
  | logRecord
  /-- TRACE_POINT, R334. -/
  | tracePoint (point : BitVec 16) (core : Fin 4) (arg : Word)
  /-- TRACE_FLUSH, R334. -/
  | traceFlush
  /-- REMOTE_FRAME_RECEIVE, R342. -/
  | remoteFrameReceive (n : Fin 8) (b : List Byte) (err : Bool)
  /-- REORDER_TIMEOUT, R342. -/
  | reorderTimeout
  /-- REMOTE_REQUEST_CHECK, R343. -/
  | remoteRequestCheck
  /-- REMOTE_READ, R344. -/
  | remoteRead
  /-- REMOTE_WRITE, R344. -/
  | remoteWrite
  /-- REMOTE_ATOMIC, R338. -/
  | remoteAtomic
  /-- REMOTE_REDUCE_INTO, R338. -/
  | remoteReduceInto
  /-- REMOTE_SIGNATURE, R235. -/
  | remoteSignature
  /-- REMOTE_REPLY, R344. -/
  | remoteReply
  /-- ACK_RECEIVE, R361. -/
  | ackReceive (n : Fin 8)
  /-- ACK_TIMER_EXPIRY, R361. -/
  | ackTimerExpiry
  /-- CREDIT_RECEIVE, R346. -/
  | creditReceive (n : Fin 8)
  /-- CREDIT_RETURN_TIMER, R346. -/
  | creditReturnTimer (n : Fin 8)
  /-- SUBPORT_FRAME_START, R353. -/
  | subportFrameStart (n : Fin 8)
  /-- FRAME_SENT, R66. -/
  | frameSent (n : Fin 8)
  /-- GATE_REFUSAL, R359. -/
  | gateRefusal (n : Fin 8)
  /-- GATE_ENTRY_ADVANCE, R357. -/
  | gateEntryAdvance (n : Fin 8)
  /-- GATE_ARM, R357. -/
  | gateArm (n : Fin 8) (v : Word)
  /-- GATE_DISARM, R357. -/
  | gateDisarm (n : Fin 8) (v : Word)
  /-- GATE_SHIFT, R357. -/
  | gateShift (n : Fin 8)
  /-- SHAPER_RECONFIGURE, R356. -/
  | shaperReconfigure (n c : Fin 8) (limit : Bool) (v : Word)
  /-- PARTNER_COMMIT, R340. -/
  | partnerCommit (v : Word)
  /-- PARTNER_ENTRY_READ, R339. -/
  | partnerEntryRead
  /-- COLLECTIVE_NOTIFY, R362. -/
  | collectiveNotify
  /-- SLOWDOWN_SEND, R363. -/
  | slowdownSend
  /-- NOTICE_RECEIVE, R365. -/
  | noticeReceive
  /-- SLOWDOWN_HOLD_EXPIRY, R364. -/
  | slowdownHoldExpiry
  /-- RMT_LINK_DOWN, R367. -/
  | rmtLinkDown (n : Fin 8)
  /-- RMT_LINK_UP, R346. -/
  | rmtLinkUp (n : Fin 8)
  /-- HISTOGRAM_SAMPLE, R368. -/
  | histogramSample
  /-- HISTOGRAM_CLEAR, R368. -/
  | histogramClear (v : Word)
  /-- HISTOGRAM_BUCKET_READ, R368. -/
  | histogramBucketRead
  /-- ENUM, R371. -/
  | enum
  /-- ENUM_LAST_TIMEOUT, R371. -/
  | enumLastTimeout
  /-- ENUM_HEAD_TIMEOUT, R371. -/
  | enumHeadTimeout
  /-- LAST, R371. -/
  | last
  /-- SIZE, R371. -/
  | size
  /-- TIME_ZERO, R378. -/
  | timeZero
  /-- REJOIN, R373. -/
  | rejoin
  /-- CHAIN_WORD_RECEIVE, R70. -/
  | chainWordReceive (down : Bool) (w : Word) (parity stop : Bool)
  /-- BEAT, R381. -/
  | beat
  /-- RELAY, R370. -/
  | relay
  /-- CMD_STATUS, R400. -/
  | cmdStatus
  /-- TRAIN_STACK, R409. -/
  | trainStack (height : BitVec 8) (temp : BitVec 12) (ok : Bool) (info : Option RepairInfo) (attempts : List TrainRun)
  /-- TRAIN_D2D, R396. -/
  | trainD2d
  /-- RETRAIN_D2D, R400. -/
  | retrainD2d
  /-- CMD_MEMTEST, R398. -/
  | cmdMemtest (fails : List MemFail)
  /-- RESET_CORES, R400. -/
  | resetCores
  /-- RESERVED_CHAIN_COMMAND, R400. -/
  | reservedChainCommand
  /-- RESULT, R400. -/
  | result
  /-- D2D_TRAIN_EXCHANGE, R372. -/
  | d2dTrainExchange (east : Bool) (n : BitVec 4) (failed : BitVec 79 × BitVec 79)
  /-- D2D_TRAIN_TIMEOUT, R396. -/
  | d2dTrainTimeout (east : Bool)
  /-- D2D_FLIT_RECEIVE, R375. -/
  | d2dFlitReceive (east : Bool) (f : Flit)
  /-- D2D_CREDIT_RETURN, R375. -/
  | d2dCreditReturn (east : Bool) (vc : Fin 3) (n : BitVec 8)
  /-- ESC_SWITCH, R376. -/
  | escSwitch (east : Bool)
  /-- D2D_LINK_DOWN, R377. -/
  | d2dLinkDown (east : Bool)
  /-- D2D_RETRAIN, R465. -/
  | d2dRetrain (east : Bool) (m : Fin 2)
  /-- TIME_ALIGN, R378. -/
  | timeAlign (east : Bool) (nb : BitVec 64) (rtt : BitVec 32)
  /-- ELECTION, R380. -/
  | election
  /-- ELECTION_TIMEOUT, R380. -/
  | electionTimeout
  /-- HEARTBEAT_SEND, R381. -/
  | heartbeatSend
  /-- CAPTAIN_HEARTBEAT_RECEIVE, R380. -/
  | captainHeartbeatReceive
  /-- CAPTAIN_SILENCE_EXPIRY, R381. -/
  | captainSilenceExpiry
  /-- HANDOVER, R382. -/
  | handover
  /-- HANDOVER_ACK, R382. -/
  | handoverAck
  /-- HANDOVER_TIMEOUT, R382. -/
  | handoverTimeout
  /-- TELEMETRY_SEND, R384. -/
  | telemetrySend
  /-- TELEMETRY_RECEIVE, R384. -/
  | telemetryReceive
  /-- BUDGET_BALANCE, R385. -/
  | budgetBalance
  /-- INSTANCE_LOST, R386. -/
  | instanceLost (k : Fin 16)
  /-- RANGE_REPORT, R528. -/
  | rangeReport (snapshot : List (Fin 16 × BitVec 64))
  /-- RANGE_ASSIGNMENT, R80. -/
  | rangeAssignment
  /-- INSTANCE_REJOIN, R386. -/
  | instanceRejoin (k : Fin 16)
  /-- STALL_WATCHDOG, R392. -/
  | stallWatchdog (port : Fin 10) (fwd1 : Bool)
  /-- GO, R395. -/
  | go (v : Word)
  /-- GO_WAIT_EXPIRY, R395. -/
  | goWaitExpiry
  /-- LEDGER_PORT_WRITE, R397. -/
  | ledgerPortWrite (v : Word)
  /-- LEDGER_CLEAR, R397. -/
  | ledgerClear (len : BitVec 24)
  /-- LEDGER_REPLAY, R397. -/
  | ledgerReplay (len : BitVec 24) (info : Option LedgerInfo) (repair : Option RepairInfo) (fails : List MemFail)
  /-- PHASE_FAULT, R399. -/
  | phaseFault
  /-- THERMAL_RESTART, R404. -/
  | thermalRestart
  /-- TRAINING_WAIT_TEMPERATURE, R414. -/
  | trainingWaitTemperature (attempts : List TrainRun)
  /-- DELAY_REGISTER_WRITE, R407. -/
  | delayRegisterWrite (p : Fin 64) (i : Fin 60) (v : Word)
  /-- TRUING_ARM, R416. -/
  | truingArm (p : Fin 64) (expedited : Bool)
  /-- TRUING_WINDOW_OPEN, R122. -/
  | truingWindowOpen (p : Fin 64)
  /-- TRUING_PROBES_POSTED, R417. -/
  | truingProbesPosted (p : Fin 64) (r : Probes)
  /-- TRUING_DONE, R419. -/
  | truingDone (p : Fin 64) (confirm : Option (Fin 38))
  /-- TRUING_DONE_TIMEOUT, R418. -/
  | truingDoneTimeout (p : Fin 64)
  /-- TRUING_WINDOW_END, R122. -/
  | truingWindowEnd (p : Fin 64)
  /-- LANE_CE_WINDOW, R435. -/
  | laneCeWindow (p : Fin 64)
  /-- MONITOR_READ, R425. -/
  | monitorRead (f : List (BitVec 32))
  /-- HISTORY_POINT, R427. -/
  | historyPoint
  /-- LEDGER_SNAPSHOT, R429. -/
  | ledgerSnapshot
  /-- SNAPSHOT_PERIOD_EXPIRY, R429. -/
  | snapshotPeriodExpiry
  /-- SNAP, R429. -/
  | snap (v : Word)
  /-- FW_TRUE_CFG_WRITE, R435. -/
  | fwTrueCfgWrite (v : Word)
  /-- CA_PARITY_ERROR, R439. -/
  | caParityError (p : Fin 64) (group : Fin 4)
  /-- REPAIR_CAUSE, R445. -/
  | repairCause
  /-- MOVE_APPROVAL, R446. -/
  | moveApproval (others : BitVec 8)
  /-- MOVE_START, R447. -/
  | moveStart
  /-- COPIER_RUN, R452. -/
  | copierRun (e : Fin 16)
  /-- WM_ADVANCE, R449. -/
  | wmAdvance (e : Fin 16)
  /-- MOVE_BIND, R454. -/
  | moveBind (e : Fin 16)
  /-- UNLACE, R457. -/
  | unlace
  /-- UNLACE_COMPLETE, R457. -/
  | unlaceComplete (p : Fin 64)
  /-- SLICE_FAIL, R462. -/
  | sliceFail (sl : Fin 16) (cond : Fin 4) (addr : BitVec 52)
  /-- INSTANCE_FAIL, R463. -/
  | instanceFail (crossbar : Bool)
  /-- PARITY_INJECTION, R470. -/
  | parityInjection (v : Word)
  /-- D2D_INJECTION, R468. -/
  | d2dInjection (east : Bool) (v : Word)
  /-- REMOTE_INJECTION, R469. -/
  | remoteInjection (n : Fin 8) (v : Word)
  /-- SENSOR_CONVERSION, R72; `ends` are the voltages in µV at the lowest and the highest current. -/
  | sensorConversion (n : Fin 8) (ends : BitVec 22 × BitVec 22) (v : BitVec 12)
  /-- LOCAL_SENSOR_READ, R471. -/
  | localSensorRead (k : Fin 24) (v : BitVec 12)
  /-- SENSOR_STALE, R474. -/
  | sensorStale (i : Fin 33)
  /-- ZONE_READING, R479. -/
  | zoneReading (z : Fin 6)
  /-- POWER_WINDOW_END, R480. -/
  | powerWindowEnd (mem : BitVec 16)
  /-- COL_THR_CODE_STEP, R75. -/
  | colThrCodeStep
  /-- THRESHOLD_WRITE, R478. -/
  | thresholdWrite (k : Fin 27) (v : Word)
  /-- COMPUTE_POWER_WRITE, R484. -/
  | computePowerWrite (v : Word)
  /-- COMPUTE_REPORT_STALE, R484. -/
  | computeReportStale
  /-- THERMAL_SHUTDOWN, R488. -/
  | thermalShutdown
  /-- COMPUTE_OFF_ACK_RISE, R77. -/
  | computeOffAckRise
  /-- COMPUTE_OFF_LATE, R77. -/
  | computeOffLate
  /-- RESTART_HOLD_EXPIRY, R489. -/
  | restartHoldExpiry
  /-- SUPPLY_FAULT, R492. -/
  | supplyFault (d : Fin 127)
  /-- DOMAIN_REPOWER, R494. -/
  | domainRepower (d : Fin 124)
  /-- CNT_RUN, R514. -/
  | cntRun (run : BitVec 4)
  /-- CNT_CLEAR, R514. -/
  | cntClear (units : BitVec 4)
  /-- CNT_SNAP, R514. -/
  | cntSnap
  /-- COUNTER_CAPTURE, R513. -/
  | counterCapture
  /-- COUNTER_EVENT, R510. -/
  | counterEvent (u : Fin 4) (e : BitVec 10) (src : BitVec 7) (qty : BitVec 32)
  /-- COUNTER_DUMP, R516. -/
  | counterDump
  /-- SAMPLE_RECORD, R521. -/
  | sampleRecord
  /-- SUPPLY_BACK_IN_REGULATION, R491. -/
  | supplyBackInRegulation (d : Fin 127)
  /-- MEM_CATTRIP_FALL, R489. -/
  | memCattripFall
  /-- CHAIN_E_RDY_RISE, R71. -/
  | chainERdyRise
  /-- D2D_RETRAIN_END, R465. -/
  | d2dRetrainEnd (east : Bool) (m : Fin 2) (failed : Option (BitVec 79))
  /-- ENUMERATION_START, R371. -/
  | enumerationStart
  deriving DecidableEq, Repr

end Sys2Proof
end

