-- ==== Sys2Proof/Machine/Operands.lean ====
section
/-! DEFINITION. Operand forms: the twelve number formats, the accumulators, every rounding, scales and the arithmetic of
deckles (10), and the element arithmetic of the atomic unit (R194 to R196). A value is exact: sign, magnitude m and
exponent e stand for (−1)^neg × m × 2^e. -/

namespace Sys2Proof.Machine

/-- A decoded number. -/
inductive Val where
  | nan
  | inf (neg : Bool)
  | fin (neg : Bool) (m : Nat) (e : Int)
  deriving DecidableEq, Repr

/-- Plus zero. -/
def Val.zero : Val := .fin false 0 0

/-- The number n. -/
def Val.ofNat (n : Nat) : Val := .fin false n 0

/-- Roundings: to nearest with ties to even (R268), toward plus infinity (R275), and stochastic with the drawn 16 bits
(R271). -/
inductive Rnd where
  | nearest
  | up
  | stochastic (r : Nat)
  deriving DecidableEq, Repr

/-- Number of significant bits of m. -/
def bitLen (m : Nat) : Nat := if m = 0 then 0 else Nat.log2 m + 1

/-- m × 2^k for a k that may be negative, where no one is lost. -/
def shiftInt (m : Nat) (k : Int) : Nat := if 0 ≤ k then m * 2 ^ k.toNat else m / 2 ^ (-k).toNat

/-- Round m × 2^e to `p` significant bits with no place below 2^emin: the rounded magnitude and its exponent. -/
def roundMag (mode : Rnd) (neg : Bool) (p : Nat) (emin : Int) (m : Nat) (e : Int) : Nat × Int :=
  let q := max (e + (bitLen m : Int) - (p : Int)) emin
  if m = 0 ∨ q ≤ e then (m, e)
  else
    let sh := (q - e).toNat
    let t := m / 2 ^ sh
    let r := m % 2 ^ sh
    let away : Bool :=
      match mode with
      | .nearest => decide (2 ^ (sh - 1) < r) || (decide (r = 2 ^ (sh - 1)) && decide (t % 2 = 1))
      | .up => !neg && decide (r ≠ 0)
      | .stochastic x =>
        decide (2 ^ 16 ≤ (if 16 ≤ sh then r / 2 ^ (sh - 16) else r * 2 ^ (16 - sh)) + x)
    ((if away then t + 1 else t), q)

/-- Round a value to `p` bits with least place 2^emin; special values stay. -/
def Val.round (mode : Rnd) (p : Nat) (emin : Int) : Val → Val
  | .fin n m e => let (m', e') := roundMag mode n p emin m e; .fin n m' e'
  | v => v

/-- The accumulators of the engines (R266). -/
inductive Acc where
  | acc32 | acc64
  deriving DecidableEq, Repr

/-- Significand bits of an accumulator (R266). -/
def Acc.p : Acc → Nat
  | .acc32 => 24
  | .acc64 => 53

/-- Round to nearest into an accumulator, whose exponents run from −16,382 (R266). -/
def Acc.round (a : Acc) (v : Val) : Val := v.round .nearest a.p (-16382 - (a.p : Int) + 1)

/-! ### Exact arithmetic -/

/-- Negation. -/
def Val.neg : Val → Val
  | .nan => .nan
  | .inf n => .inf !n
  | .fin n m e => .fin (!n) m e

/-- Magnitude. -/
def Val.abs : Val → Val
  | .nan => .nan
  | .inf _ => .inf false
  | .fin _ m e => .fin false m e

/-- The exact sum (R268 rounds it afterwards); an exact zero of unlike signs is +0, invalid sums are NaN. -/
def Val.add : Val → Val → Val
  | .nan, _ => .nan
  | _, .nan => .nan
  | .inf a, .inf b => if a = b then .inf a else .nan
  | .inf a, _ => .inf a
  | _, .inf b => .inf b
  | .fin a m e, .fin b n f =>
    let g := min e f
    let x := (m * 2 ^ (e - g).toNat : Nat)
    let y := (n * 2 ^ (f - g).toNat : Nat)
    if a = b then .fin a (x + y) g
    else if x = y then .fin false 0 g
    else if y < x then .fin a (x - y) g
    else .fin b (y - x) g

/-- The exact product; zero times infinity is NaN. -/
def Val.mul : Val → Val → Val
  | .nan, _ => .nan
  | _, .nan => .nan
  | .inf a, .inf b => .inf (a != b)
  | .inf a, .fin b n _ => if n = 0 then .nan else .inf (a != b)
  | .fin a m _, .inf b => if m = 0 then .nan else .inf (a != b)
  | .fin a m e, .fin b n f => .fin (a != b) (m * n) (e + f)

/-- The product with a power of two. -/
def Val.scale (v : Val) (k : Int) : Val :=
  match v with
  | .fin n m e => .fin n m (e + k)
  | x => x

/-- The quotient by a positive whole number, rounded once into `p` bits in a mode. -/
def Val.divNat (mode : Rnd) (p : Nat) (emin : Int) (v : Val) (n : Nat) : Val :=
  match v with
  | .fin s m e =>
    let k := p + bitLen n + 2
    let q := m * 2 ^ k / n
    let st := if m * 2 ^ k % n = 0 then 0 else 1
    (Val.fin s (2 * q + st) (e - (k : Int) - 1)).round mode p emin
  | x => x

/-- Whether a ≤ b as numbers, −0 below +0; false with a NaN (R196). -/
def Val.le : Val → Val → Bool
  | .nan, _ => false
  | _, .nan => false
  | .inf true, _ => true
  | _, .inf false => true
  | .inf false, _ => false
  | _, .inf true => false
  | .fin a m e, .fin b n f =>
    let g := min e f
    let x := (m * 2 ^ (e - g).toNat : Nat)
    let y := (n * 2 ^ (f - g).toNat : Nat)
    match a, b with
    | true, false => true
    | false, true => false
    | false, false => decide (x ≤ y)
    | true, true => decide (y ≤ x)

/-- The greater of two values, NaN when either is (R196, R217). -/
def Val.max (a b : Val) : Val := if a = .nan ∨ b = .nan then .nan else if a.le b then b else a

/-- The smaller of two values, NaN when either is (R196). -/
def Val.min (a b : Val) : Val := if a = .nan ∨ b = .nan then .nan else if a.le b then a else b

/-- Whether a value is zero. -/
def Val.isZero : Val → Bool
  | .fin _ m _ => m = 0
  | _ => false

/-- Whether a value is finite. -/
def Val.isFinite : Val → Bool
  | .fin _ _ _ => true
  | _ => false

/-! ### IEEE-shaped encodings (R259 to R261, R268, R269) -/

/-- Shape of a binary encoding: exponent bits, mantissa bits, bias. -/
structure Shape where
  eb : Nat
  mb : Nat
  bias : Nat
  deriving DecidableEq, Repr

def Shape.b64 : Shape := ⟨11, 52, 1023⟩
def Shape.b32 : Shape := ⟨8, 23, 127⟩
def Shape.b16 : Shape := ⟨5, 10, 15⟩
def Shape.bf16 : Shape := ⟨8, 7, 127⟩
def Shape.e4m3 : Shape := ⟨4, 3, 7⟩
def Shape.e5m2 : Shape := ⟨5, 2, 15⟩
def Shape.e3m2 : Shape := ⟨3, 2, 3⟩
def Shape.e2m1 : Shape := ⟨2, 1, 1⟩

/-- Bits of an encoding. -/
def Shape.bits (s : Shape) : Nat := 1 + s.eb + s.mb

/-- Exponent of the smallest subnormal. -/
def Shape.emin (s : Shape) : Int := 1 - (s.bias : Int) - (s.mb : Int)

/-- How the top exponent code reads: as infinity and NaN, as E4M3 has it, or as ordinary numbers. -/
inductive Top where
  | ieee | e4m3 | plain
  deriving DecidableEq, Repr

/-- Decode an encoding (R260, R261). -/
def Shape.decode (s : Shape) (top : Top) (x : Nat) : Val :=
  let neg := x.testBit (s.eb + s.mb)
  let e := natBits x s.mb s.eb
  let f := natBits x 0 s.mb
  let num : Val := if e = 0 then .fin neg f s.emin else .fin neg (2 ^ s.mb + f) (s.emin + (e : Int) - 1)
  match top with
  | .ieee => if e = 2 ^ s.eb - 1 then (if f = 0 then .inf neg else .nan) else num
  | .e4m3 => if e = 15 ∧ f = 7 then .nan else num
  | .plain => num

/-- The bits of a sign. -/
def Shape.signBit (s : Shape) (neg : Bool) : Nat := if neg then 2 ^ (s.eb + s.mb) else 0

/-- The encoding, without its sign, of a magnitude that is already rounded to the shape. -/
def Shape.pack (s : Shape) (m : Nat) (e : Int) : Nat :=
  if m = 0 then 0
  else
    let top := e + (bitLen m : Int) - 1
    if top < 1 - (s.bias : Int) then shiftInt m (e - s.emin)
    else (top + (s.bias : Int)).toNat * 2 ^ s.mb +
      (shiftInt m ((s.mb : Int) + 1 - (bitLen m : Int)) - 2 ^ s.mb)

/-- The code of the largest finite magnitude. -/
def Shape.maxCode (s : Shape) (top : Top) : Nat :=
  match top with
  | .ieee => (2 ^ s.eb - 1) * 2 ^ s.mb - 1
  | .e4m3 => 0x7E
  | .plain => 2 ^ (s.eb + s.mb) - 1

/-- Encode a value with one rounding: formats with infinity overflow to it, the others saturate (R268, R269). -/
def Shape.encode (s : Shape) (top : Top) (mode : Rnd) (v : Val) : Nat :=
  match v with
  | .nan =>
    match top with
    | .ieee => (2 ^ s.eb - 1) * 2 ^ s.mb + 2 ^ (s.mb - 1)
    | .e4m3 => 0x7F
    | .plain => 0
  | .inf n =>
    match top with
    | .ieee => s.signBit n + (2 ^ s.eb - 1) * 2 ^ s.mb
    | .e4m3 => 0x7F
    | .plain => s.signBit n + s.maxCode .plain
  | .fin n m e =>
    let (m', e') := roundMag mode n (s.mb + 1) s.emin m e
    let c := s.pack m' e'
    if c ≤ s.maxCode top then s.signBit n + c
    else
      match top with
      | .ieee => s.signBit n + (2 ^ s.eb - 1) * 2 ^ s.mb
      | _ => s.signBit n + s.maxCode top

/-! ### The twelve formats (R258 to R265) -/

/-- The number formats (R258). -/
inductive Format where
  | binary64 | binary32 | binary16 | bfloat16 | e4m3 | e5m2 | mxfp8 | mxfp6 | mxfp4 | mxint8 | int8r | int4r
  deriving DecidableEq, Repr

/-- The format of a code; reserved codes give none (R258). -/
def Format.ofCode : Nat → Option Format
  | 0x00 => some .binary64 | 0x01 => some .binary32 | 0x02 => some .binary16 | 0x03 => some .bfloat16
  | 0x04 => some .e4m3 | 0x05 => some .e5m2 | 0x06 => some .mxfp8 | 0x07 => some .mxfp6 | 0x08 => some .mxfp4
  | 0x09 => some .mxint8 | 0x0A => some .int8r | 0x0B => some .int4r
  | _ => none

/-- Bits per element (R259). -/
def Format.bits : Format → Nat
  | .binary64 => 64 | .binary32 => 32 | .binary16 => 16 | .bfloat16 => 16 | .e4m3 => 8 | .e5m2 => 8 | .mxfp8 => 8
  | .mxfp6 => 6 | .mxfp4 => 4 | .mxint8 => 8 | .int8r => 8 | .int4r => 4

/-- Shape of a floating element and how its top code reads; integers have none (R259). -/
def Format.shape : Format → Option (Shape × Top)
  | .binary64 => some (.b64, .ieee) | .binary32 => some (.b32, .ieee) | .binary16 => some (.b16, .ieee)
  | .bfloat16 => some (.bf16, .ieee) | .e4m3 => some (.e4m3, .e4m3) | .e5m2 => some (.e5m2, .ieee)
  | .mxfp8 => some (.e4m3, .e4m3) | .mxfp6 => some (.e3m2, .plain) | .mxfp4 => some (.e2m1, .plain)
  | .mxint8 => none | .int8r => none | .int4r => none

/-- Elements per scale byte: 32, a whole row, or no scale (R258). -/
inductive ScaleKind where
  | none | block | row
  deriving DecidableEq, Repr

/-- Where a format keeps its scales (R258). -/
def Format.scaleKind : Format → ScaleKind
  | .mxfp8 => .block | .mxfp6 => .block | .mxfp4 => .block | .mxint8 => .block
  | .int8r => .row | .int4r => .row
  | _ => .none

/-- The scale exponent of an E8M0 byte; none for NaN (R262). -/
def scaleExp (b : Nat) : Option Int := if b = 255 then none else some ((b : Int) - 127)

/-- The value of an element code before its scale (R259, R262). -/
def Format.element (f : Format) (code : Nat) : Val :=
  match f.shape with
  | some (s, top) => s.decode top code
  | none =>
    let q := signedOf f.bits code
    .fin (decide (q < 0)) q.natAbs (if f = .mxint8 then -6 else 0)

/-- A scaled element (R262). -/
def Format.decode (f : Format) (code scale : Nat) : Val :=
  match f.scaleKind with
  | .none => f.element code
  | _ =>
    match scaleExp scale with
    | none => .nan
    | some k => (f.element code).scale k

/-- Bytes of the element area of a row of `dim` elements (R263). -/
def Format.area (f : Format) (dim : Nat) : Nat := (f.bits * dim + 7) / 8

/-- Scale bytes of a row (R263). -/
def Format.scales (f : Format) (dim : Nat) : Nat :=
  match f.scaleKind with
  | .none => 0
  | .block => (dim + 31) / 32
  | .row => 1

/-- Row bytes (R263). -/
def Format.rowBytes (f : Format) (dim : Nat) : Nat := f.area dim + f.scales dim

/-- Element `k` of a row of `dim` elements (R263). -/
def Format.rowElem (f : Format) (dim : Nat) (row : List Byte) (k : Nat) : Val :=
  let code := natBits (leNat (sliceBytes row (f.bits * k / 8) 9)) (f.bits * k % 8) f.bits
  let sc := match f.scaleKind with
    | .none => 0
    | .block => (row.getD (f.area dim + k / 32) 0).toNat
    | .row => (row.getD (f.area dim) 0).toNat
  f.decode code sc

/-- All elements of a row (R263). -/
def Format.decodeRow (f : Format) (dim : Nat) (row : List Byte) : List Val := (upto dim).map (f.rowElem dim row)

/-- floor(log2 a) of a finite positive value. -/
def floorLog2 (m : Nat) (e : Int) : Int := e + (bitLen m : Int) - 1

/-- Whether m × 2^e ≤ n × 2^f. -/
def magLe (m : Nat) (e : Int) (n : Nat) (f : Int) : Bool :=
  let g := min e f
  decide (m * 2 ^ (e - g).toNat ≤ n * 2 ^ (f - g).toNat)

/-- The scale exponent for a largest magnitude m × 2^e, clamped to −127 … 127 (R270). -/
def Format.scaleFor (f : Format) (m : Nat) (e : Int) : Int :=
  let k := floorLog2 m e
  let r : Int := match f with
    | .mxfp8 => k - 8
    | .mxfp6 => k - 4
    | .mxfp4 => k - 2
    | .mxint8 => k
    | .int8r => if magLe m e 127 (k - 6) then k - 6 else k - 5
    | .int4r => if magLe m e 7 (k - 2) then k - 2 else k - 1
    | _ => 0
  if m = 0 then 0 else max (-127) (min 127 r)

/-- The largest magnitude of a list; NaN or infinity when one is met. -/
def maxMag (l : List Val) : Val := l.foldl (fun a v => if a.isFinite then (if v.isFinite then a.max v.abs else v) else a) .zero

/-- An integer element code, rounded and limited (R270). -/
def intCode (bits lim : Nat) (mode : Rnd) (v : Val) : Nat :=
  match v with
  | .fin n m e =>
    let (m', e') := roundMag mode n (bitLen m + e.natAbs + 1) 0 m e
    let q := Nat.min lim (shiftInt m' e')
    fieldOfInt bits (if n then -(q : Int) else (q : Int))
  | _ => 0

/-- The element code of a value under a scale exponent (R269, R270). -/
def Format.elementCode (f : Format) (mode : Rnd) (k : Int) (v : Val) : Nat :=
  match f with
  | .mxint8 => intCode 8 127 mode (v.scale (6 - k))
  | .int8r => intCode 8 127 mode (v.scale (-k))
  | .int4r => intCode 4 7 mode (v.scale (-k))
  | .mxfp8 => Shape.e4m3.encode .e4m3 mode (v.scale (-k))
  | .mxfp6 => Shape.e3m2.encode .plain mode (v.scale (-k))
  | .mxfp4 => Shape.e2m1.encode .plain mode (v.scale (-k))
  | g => match g.shape with
    | some (s, top) => s.encode top mode v
    | none => 0

/-- The scale byte and the element codes of one block or row (R269, R270): a NaN or infinity makes the scale NaN and
every element zero. -/
def Format.encodeBlock (f : Format) (mode : Nat → Rnd) (first : Nat) (l : List Val) : Nat × List Nat :=
  match f.scaleKind with
  | .none => (0, l.zipIdx.map fun (v, i) => f.elementCode (mode (first + i)) 0 v)
  | _ =>
    match maxMag l with
    | .fin _ m e =>
      let k := f.scaleFor m e
      ((k + 127).toNat, l.zipIdx.map fun (v, i) => if m = 0 then 0 else f.elementCode (mode (first + i)) k v)
    | _ => (255, l.map fun _ => 0)

/-- Split a list in pieces of `n`. -/
def chunks {α : Type} (n : Nat) (l : List α) : List (List α) :=
  (upto ((l.length + n - 1) / n)).map fun i => (l.drop (i * n)).take n

/-- A row encoded in a format: element codes as a little-endian bit string, then the scale bytes (R263). -/
def Format.encodeRow (f : Format) (mode : Nat → Rnd) (l : List Val) : List Byte :=
  let blocks : List (List Val) := match f.scaleKind with
    | .block => chunks 32 l
    | _ => [l]
  let enc := blocks.zipIdx.map fun (b, i) => f.encodeBlock mode (32 * i) b
  let codes := enc.flatMap (·.2)
  let bits := codes.zipIdx.foldl (fun acc (c, i) => acc + c * 2 ^ (f.bits * i)) 0
  leBytes (f.area l.length) bits ++ (if f.scales l.length = 0 then [] else enc.map fun x => BitVec.ofNat 8 x.1)

/-! ### Deckles (R274 to R278): binary32 with every operation rounded upward (R275) -/

/-- Round up into binary32, overflowing to infinity; a positive bound never becomes zero (R275). -/
def up32 (v : Val) : Val := Shape.b32.decode .ieee (Shape.b32.encode .ieee .up v)

/-- A sum rounded upward. -/
def addUp (a b : Val) : Val := up32 (a.add b)

/-- A product rounded upward; zero times infinity is infinity, since the bound is then unknown. -/
def mulUp (a b : Val) : Val := match up32 (a.mul b) with
  | .nan => .inf false
  | v => v

/-- γ_k = k × u / (1 − k × u) with u = 2^−pu, infinity when k × u ≥ 1 (R275). -/
def gammaUp (k pu : Nat) : Val :=
  if 2 ^ pu ≤ k then .inf false
  else Val.divNat .up 24 (-149) (.fin false k 0) (2 ^ pu - k)

/-- A unit roundoff 2^−p. -/
def unitRoundoff (p : Nat) : Val := .fin false 1 (-(p : Int))

/-- A binary32 deckle word, rounded upward (R275). -/
def deckleWord (v : Val) : Nat := match v with
  | .nan => 0x7F800000
  | x => Shape.b32.encode .ieee .up x

/-- The value of a binary32 word. -/
def ofB32 (x : Nat) : Val := Shape.b32.decode .ieee x

/-- A per-element deckle, binary16 rounded upward (R275). -/
def deckleHalf (v : Val) : Nat := match v with
  | .nan => 0x7C00
  | x => Shape.b16.encode .ieee .up x

/-- Precision p of a format's element (R259); the integer formats have none. -/
def Format.prec (f : Format) : Nat := match f.shape with
  | some (s, _) => s.mb + 1
  | none => 0

/-- The largest finite value of a format under a scale exponent (R259). -/
def Format.largest (f : Format) (k : Int) : Val :=
  match f with
  | .mxint8 => .fin false 127 (k - 6)
  | .int8r => .fin false 127 k
  | .int4r => .fin false 7 k
  | g => match g.shape with
    | some (s, top) => (s.decode top (s.maxCode top)).scale (if g.scaleKind = .none then 0 else k)
    | none => .zero

/-- The conversion charge κ_f(x) under a scale exponent, doubled places when stochastic (R276); the rounding decides whether
the result is an infinity. For the integer formats the last place is the step. -/
def kappa (f : Format) (k : Int) (r : Rnd) (x : Val) : Val :=
  match x with
  | .fin _ m e =>
    let top := f.largest k
    let two : Int := match r with
      | .stochastic _ => 1
      | _ => 0
    match f.shape with
    | none => .fin false 1 ((if f = .mxint8 then k - 6 else k) - 1 + two)
    | some (s, t) =>
      let sc : Int := if f.scaleKind = .none then 0 else k
      let u : Val := (unitRoundoff (s.mb + 1)).scale two
      let code := s.encode t r ((Val.fin false m e).scale (-sc))
      if t = .ieee ∧ s.maxCode t < code then .inf false
      else if t ≠ .ieee ∧ !((Val.fin false m e).le top) then addUp (up32 ((Val.fin false m e).add top.neg)) (mulUp u top)
      else if m = 0 ∨ floorLog2 m (e - sc) < 1 - (s.bias : Int) then .fin false 1 (s.emin + sc - 1 + two)
      else mulUp u (.fin false m e)
  | _ => .inf false

/-! ### The atomic unit (R194 to R196) -/

/-- Element formats of atomics and reductions (R194). -/
inductive AtomFormat where
  | int32 | int64 | binary32 | binary16 | bfloat16
  deriving DecidableEq, Repr

/-- The element format of a FORMAT code (R194). -/
def AtomFormat.ofCode : Nat → Option AtomFormat
  | 0 => some .int32 | 1 => some .int64 | 2 => some .binary32 | 3 => some .binary16 | 4 => some .bfloat16
  | _ => none

/-- Bytes of an element (R194). -/
def AtomFormat.bytes : AtomFormat → Nat
  | .int32 => 4 | .int64 => 8 | .binary32 => 4 | .binary16 => 2 | .bfloat16 => 2

/-- Shape of a floating element format. -/
def AtomFormat.shape : AtomFormat → Option Shape
  | .binary32 => some .b32 | .binary16 => some .b16 | .bfloat16 => some .bf16
  | _ => none

/-- Element operations of the atomic unit (R194). -/
inductive AtomFunc where
  | add | min | max | swap
  deriving DecidableEq, Repr

/-- FUNC codes of the element operations (R194). -/
def AtomFunc.ofCode : Nat → Option AtomFunc
  | 0 => some .add | 1 => some .min | 2 => some .max | 3 => some .swap
  | _ => none

/-- One element of a line (R196): the old element, the request's element, the new element. -/
def atomElement (fn : AtomFunc) (fmt : AtomFormat) (isUnsigned : Bool) (old x : Nat) : Nat :=
  match fn with
  | .swap => x
  | _ =>
    match fmt.shape with
    | none =>
      let w := 8 * fmt.bytes
      let less : Bool := if isUnsigned then decide (old < x) else decide (signedOf w old < signedOf w x)
      match fn with
      | .add => (old + x) % 2 ^ w
      | .min => if less then old else x
      | _ => if less then x else old
    | some s =>
      let a := s.decode .ieee old
      let b := s.decode .ieee x
      s.encode .ieee .nearest (match fn with
        | .add => a.add b
        | .min => a.min b
        | _ => a.max b)

/-- Largest magnitude of the elements of a contribution, as binary32 rounded upward (R201, R202). -/
def contributionMag (fmt : AtomFormat) (data : List Byte) (strb : List Bool) : Val :=
  let n := fmt.bytes
  (upto (data.length / n)).foldl (fun acc i =>
    if strb.getD (i * n) false then
      let x := leNat (sliceBytes data (i * n) n)
      let v := match fmt.shape with
        | some s => (s.decode .ieee x).abs
        | none => Val.ofNat (signedOf (8 * n) x).natAbs
      up32 (match v with
        | .nan => .inf false
        | y => acc.max y)
    else acc) .zero

/-- Each element of `n` bytes of an area has all its strobes set or all clear (R195). -/
def strobesWhole (size n : Nat) (strb : List Bool) : Bool :=
  (upto (size / n)).all fun i =>
    ((upto n).all fun k => strb.getD (i * n + k) false) || ((upto n).all fun k => !strb.getD (i * n + k) false)

end Sys2Proof.Machine
end

