-- ==== Sys2Proof/Config.lean ====
section
/-! DEFINITION. What one block's make fixes and the values the spec leaves open. Each free value is opaque: no proof can
see what it is, and a statement that holds holds for every value of it. -/

namespace Sys2Proof

/-- Byte `i` of a burst whose contents the spec calls undefined (R98, R398), at the n-th use of a free value. -/
opaque Config.undefinedByte : Nat → Nat → BitVec 8

/-- A value the spec does not state, at the n-th use of a free value; a narrower one takes its low bits. -/
opaque Config.openValue : Nat → BitVec 64

/-- The nominal setting on which a sweep of a kind is centred: a delay in 1/64 UI, or a reference in 0.25 % (R410: no figure is
stated). Kinds: 0 receive delay, 1 transmit delay, 2 RD_VREF, 3 WR_VREF, 4 command/address delay. -/
opaque Config.nominal : Nat → BitVec 10

/-- The bytes of a ledger section that the spec lists the contents of and lays out no bytes for, 1 REPAIR and 5 PLAN, from its
contents in the order of the list (R426). -/
opaque Config.sectionLayout : Nat → List Nat → List (BitVec 8)

/-- What firmware reads from the bytes of a repair section (R426: no layout is stated): held mask, reserve count, unlaced-PC mask,
retired ranks, redirects by entry, and lane registers by PC and index. -/
opaque Config.repairReading : List (BitVec 8) → BitVec 64 × BitVec 5 × BitVec 64 × BitVec 256 ×
  List (Fin 16 × BitVec 64) × List (Fin 64 × Fin 61 × BitVec 32)

/-- What firmware reads from the bytes of PLAN beside the horizons (R426: no layout is stated): pending pre-emptive requests by
rank, and retention results by rank, row × 16 + bank number, RET_MS and service day. -/
opaque Config.planReading : List (BitVec 8) → List (BitVec 8) × List (BitVec 8 × BitVec 19 × BitVec 7 × BitVec 16)

/-- The low bits of the log codes for CONTENTS_LOST (R389) and for a repair cause without a further effect (R445): the spec lists
none for them, so that they are codes of a build, from 0x8000 upward. -/
opaque Config.contentsLostCode : BitVec 15
opaque Config.idleCauseCode : BitVec 15

/-- The temperature, in 0.25 °C, that a conversion of a thermistor (true) or a diode finds with another BETA or IDEALITY than
that of reset, from its end voltages and what it finds with that of reset (R472: no formula is given). -/
opaque Config.trimmedReading : Bool → Nat → BitVec 22 → BitVec 22 → BitVec 12 → BitVec 12

/-- The SHA-384 digest of the image key that the make fixes in the boot ROM (R315). -/
opaque Config.romKeyDigest : BitVec 384

/-- The silicon stepping of ID_BLOCK (R6: per stepping). -/
opaque Config.stepping : BitVec 4

/-- The serial identity that the bonded stack reports on its IEEE 1500 port (R426). -/
opaque Config.stackId : BitVec 64

end Sys2Proof
end

