-- ==== Sys2Proof/Machine/CheckCode.lean ====
section
/-! DEFINITION. The check code of a burst (R433), its decode outcomes (R434), the poison value (R436) and the markers
(R387). Symbols are numbers below 2^16, elements of GF(2^16) with polynomial x^16 + x^12 + x^3 + x + 1.
DESIGN CHOICE: symbol k is the coefficient of x^(35 − k); R433 fixes the roots and the check symbols, not the order. -/

namespace Sys2Proof.Machine

/-- Multiplication by α (R433). -/
def gfDouble (a : Nat) : Nat := if a < 0x8000 then 2 * a else (2 * a) ^^^ 0x1100B

/-- Multiplication in GF(2^16), over the low `n` bits of `b`. -/
def gfMulN : Nat → Nat → Nat → Nat
  | 0, _, _ => 0
  | n + 1, a, b => (if b % 2 = 1 then a else 0) ^^^ gfMulN n (gfDouble a) (b / 2)

/-- Multiplication in GF(2^16) (R433). -/
def gfMul (a b : Nat) : Nat := gfMulN 16 a b

/-- α^n (R433). -/
def gfPow : Nat → Nat
  | 0 => 1
  | n + 1 => gfDouble (gfPow n)

/-- Data symbol k: bit k mod 8 of bytes k div 8, 4 + k div 8, … in beat order (R433). -/
def dataSymbol (d : List Byte) (k : Nat) : Nat :=
  (upto 16).foldl (fun acc b => acc + (if (d.getD (4 * b + k / 8) 0).getLsbD (k % 8) then 2 ^ b else 0)) 0

/-- The data symbols of a burst (R433). -/
def dataSymbols (d : List Byte) : List Nat := (upto 32).map (dataSymbol d)

/-- Byte i of a burst from its data symbols (R433). -/
def byteOfSymbols (sy : List Nat) (i : Nat) : Byte :=
  BitVec.ofNat 8 ((upto 8).foldl (fun acc t => acc + (if (sy.getD (i % 4 * 8 + t) 0).testBit (i / 4) then 2 ^ t else 0)) 0)

/-- The 64 bytes of a burst from its data symbols (R433). -/
def bytesOfSymbols (sy : List Nat) : List Byte := (upto 64).map (byteOfSymbols sy)

/-- One step of the division by the generator x^4 + 15x^3 + 54x^2 + 120x + 64, whose roots are α^0 to α^3. -/
def rsStep (r : Nat × Nat × Nat × Nat) (d : Nat) : Nat × Nat × Nat × Nat :=
  let f := d ^^^ r.1
  (r.2.1 ^^^ gfMul f 15, r.2.2.1 ^^^ gfMul f 54, r.2.2.2 ^^^ gfMul f 120, gfMul f 64)

/-- The four check symbols 32 to 35 of a list of data symbols (R433). -/
def rsCheck (sy : List Nat) : List Nat :=
  let r := sy.foldl rsStep (0, 0, 0, 0)
  [r.1, r.2.1, r.2.2.1, r.2.2.2]

/-- Check symbols as the 64-bit check word: symbol c in bits [16c + 15 : 16c] (R433). -/
def checkWordOf (c : List Nat) : Nat :=
  c.getD 0 0 + 2 ^ 16 * c.getD 1 0 + 2 ^ 32 * c.getD 2 0 + 2 ^ 48 * c.getD 3 0

/-- Check symbols of a check word (R433). -/
def checkSymbols (w : Nat) : List Nat := (upto 4).map fun c => natBits w (16 * c) 16

/-- The true check word of 64 data bytes (R433). -/
def checkWord (d : List Byte) : Nat := checkWordOf (rsCheck (dataSymbols d))

/-- The poison value P (R436). -/
def poisonValue : Nat := 0x50533C9669A5C30F

/-- The syndrome S_i of a 36-symbol word. -/
def rsSyndrome (i : Nat) (sy : List Nat) : Nat := sy.foldl (fun acc c => gfMul acc (gfPow i) ^^^ c) 0

/-- The four syndromes (R434). -/
def rsSyndromes (sy : List Nat) : List Nat := (upto 4).map fun i => rsSyndrome i sy

/-- The syndromes of an error `e` in symbol k alone. -/
def oneSymbolSyndromes (k e : Nat) : List Nat := (upto 4).map fun i => gfMul e (gfPow (i * (35 - k)))

/-- Outcome of a read in the check-code unit (R434). -/
inductive Decode where
  | clean
  | corrected (lane : Nat) (data : List Byte)
  | poisoned
  | uncorrectable
  deriving DecidableEq, Repr

/-- The outcome of a burst of 64 data bytes and its check word as read (R434). -/
def decodeBurst (d : List Byte) (w : Nat) : Decode :=
  let sy := dataSymbols d ++ checkSymbols w
  let syn := rsSyndromes sy
  if syn = [0, 0, 0, 0] then .clean
  else
    match (upto 36).find? fun k => oneSymbolSyndromes k (syn.getD 0 0) = syn with
    | some k => .corrected k (bytesOfSymbols ((dataSymbols d).set k ((dataSymbols d).getD k 0 ^^^ syn.getD 0 0)))
    | none =>
      if syn = rsSyndromes (List.replicate 32 0 ++ checkSymbols poisonValue) then .poisoned else .uncorrectable

end Sys2Proof.Machine
end

