-- ==== Sys2Proof/Machine/AgeTypes.lean ====
section
/-! DEFINITION. State types of margins and ageing (16), moves (17), the thermal guard and the supply monitors (18) and
the counters (20). -/

namespace Sys2Proof.Machine

/-! ### Margins and ageing (R410, R424 to R432) -/

/-- Tracked edges of one lane, kind and layer group of a PC; none: no passing run (R410, R419). Kinds: 0 receive delay,
1 transmit delay, 2 RD_VREF, 3 WR_VREF, 4 command/address delay. -/
structure Edge where
  pc : Nat
  kind : Nat
  group : Nat
  lane : Nat
  run : Option (Nat × Nat)
  deriving DecidableEq, Repr

/-- What the margin engines have measured: edges, and by kind those of every lane and group that `edges` does not list;
empty before the first sweep (R410). -/
structure Margins where
  usual : List (Option (Nat × Nat))
  edges : List Edge
  deriving DecidableEq, Repr

/-- A history point of a rank (R426, R427). -/
structure Point where
  rank : Nat
  day : Nat
  tm : Nat
  vm : Nat
  tLane : Nat
  vLane : Nat
  deriving DecidableEq, Repr

/-- A ledger snapshot under way (R429): its generation, step (1 header zeroed, 2 sections written, 3 header written),
number of the write in flight, header and sections, and the entries it records as BOUND (R454). -/
structure Snap where
  gen : Nat
  step : Nat
  id : Nat
  header : List Byte
  body : List Byte
  bound : List Nat
  deriving DecidableEq, Repr

/-- What the upkeep and steward cores keep of repair and ageing. -/
structure Ageing where
  /-- Repair buffer of FW_LEDGER_PORT (R397), and the section taken from it (R428). -/
  ledger : List Byte
  repair : Option RepairInfo
  /-- Stack training has been commanded, its result is out, and its data rate code (R409, R413). -/
  trained : Bool
  rate : Nat
  /-- Training waits for the temperature (R414). -/
  waiting : Bool
  /-- PCs unlaced at training (R412). -/
  unlacedAt : List Nat
  /-- Seconds of service at a package time (R426). -/
  service : Nat
  serviceAt : Nat
  points : List Point
  /-- Service day of the newest history point of this start. -/
  pointDay : Option Nat
  baselines : List Nat
  /-- Retention results of weak rows (R426, R432): rank, row × 16 + bank number, RET_MS, service day. -/
  results : List (Nat × Nat × Nat × Nat)
  /-- Margins last tracked that lay below their floor: rank (R424). -/
  crossed : List Nat
  /-- Ranks whose pre-emptive rebinding has been requested (R432). -/
  preempt : List Nat
  /-- Lanes to swap by projection in the next window of their PC (R432): PC, lane (64 and above: command/address lane),
  rank; and the ranks for which that has happened. -/
  swap : List (Nat × Nat × Nat)
  swapped : List Nat
  /-- Guard band of each PC (R432). -/
  guards : Vector Nat 64
  /-- A repair event since the newest snapshot, and time of that snapshot (R429). -/
  eventAt : Option Nat
  snapAt : Option Nat
  wantSnap : Bool
  /-- A periodic snapshot is due; the snapshot under way (R429); SYNCED entries that a complete snapshot records as BOUND
  (R454). -/
  periodDue : Bool
  snap : Option Snap
  recorded : List Nat
  /-- Truing window number to arm next, per PC, and the PCs asked for an expedited window (R416, R421). -/
  windows : Vector Nat 64
  expedite : List Nat
  /-- Causes of the last second: rank and time (R458); requests that await approval: rank, cause (R446); moves to start:
  rank, cause (R447); causes on targets, for when their entry is BOUND: rank, cause (R455). -/
  causeAt : List (Nat × Nat)
  asked : List (Nat × Nat)
  starting : List (Nat × Nat)
  later : List (Nat × Nat)
  /-- Last MEMTEST result: ranks that failed. -/
  failedRanks : List Nat
  deriving DecidableEq, Repr

/-! ### The thermal guard (18) -/

/-- A temperature sensor beside its THERM_SNS_READ_i register (R474). -/
structure Sensor where
  /-- Oscillator time of the last valid reading, or since when one is awaited (R474, R490). -/
  readAt : Option Nat
  /-- Valid readings in a row. -/
  streak : Nat
  /-- A remote input: time of its last conversion, and the current that its next one drives through a thermistor: 1 µA,
  10 µA, 100 µA or 1 mA (R72). -/
  convAt : Option Nat
  drive : Fin 4
  deriving DecidableEq, Repr

/-- A zone beside its THERM_ZONE_READ_z register (R479). -/
structure Zone where
  setAt : Nat
  /-- A sensor of the zone has a new reading that has not been evaluated. -/
  fresh : Bool
  /-- Down values of the readings of the last dwell time: time, value. -/
  downs : List (Nat × Nat)
  deriving DecidableEq, Repr

/-- The thermal guard. -/
structure Thermal where
  /-- Remote inputs 0 to 7, local sensors 8 to 31, the stack readout 32. -/
  sensors : Vector Sensor 33
  zones : Vector Zone 6
  /-- Start of the restart hold while it runs (R489). -/
  holdFrom : Option Nat
  /-- Time of COMPUTE_OFF_REQ while its acknowledgement is awaited (R77). -/
  offAt : Option Nat
  /-- Oscillator time of the last compute report (R484, R490). -/
  reportAt : Nat
  /-- Powers of the windows since P_STEP last changed, newest first, in 1/16 W (R480). -/
  windows : List Nat
  /-- Time of the last change of the throttle outputs (R75). -/
  colAt : Nat
  /-- The guard has decided a shutdown that has not begun (R487), or a restart that is under way (R404). -/
  due : Bool
  restarting : Bool
  /-- Number of the last power window, and whether its compute report was stale (R484). -/
  windowNo : Nat
  stale : Bool
  deriving DecidableEq, Repr

/-! ### Counters (20) -/

/-- A pending action of CNT_CTRL at its time T (R514). -/
inductive CntAct where
  | run (units : Nat)
  | clear (units : Nat)
  | snap
  deriving DecidableEq, Repr

/-- The counter units. -/
structure Counters where
  /-- Counting since, per unit. -/
  since : Vector (Option Nat) 4
  /-- Actions waiting for their time, oldest first. -/
  acts : List (Nat × CntAct)
  /-- Snapshot: the 32 counters and the 4 cycle counters (R514). -/
  snap : List Nat
  /-- Captures skipped since the last record, requests of the writes of the last record, time of the last capture. -/
  missed : Nat
  dumpIds : List Nat
  dumpAt : Nat
  /-- Requests of the sample records being written (R521). -/
  tagIds : List Nat
  deriving DecidableEq, Repr

end Sys2Proof.Machine
end

