-- ==== Sys2Proof/Machine/EngTypes.lean ====
section
/-! DEFINITION. State types of the command queues (11), the bag sequencer and the beside-memory engines (08), and the
press (09). -/

namespace Sys2Proof.Machine

/-! ### Packets (R283 to R293) -/

/-- Where a packet stands: fetched and not yet checked, taken, handed to its engine, or completed with its status,
detail, deckle word and end time. -/
inductive PkStage where
  | fetched
  | taken
  | running
  | done (st : Status) (detail deckle : Nat)
  deriving DecidableEq, Repr

/-- A packet in flight (R289, R293). -/
structure Packet where
  queue : Fin 64
  index : Nat
  bytes : List Byte
  stage : PkStage
  /-- Order in which the scheduler core took it. -/
  taken : Nat
  cancelled : Bool
  /-- Its engine has taken it up. -/
  loaded : Bool
  start : Nat
  stop : Nat
  /-- Numbers of the reads that fetch it (R288). -/
  reads : List Nat
  /-- Numbers of the writes that must complete before its reply (R291). -/
  writes : List Nat
  deriving DecidableEq, Repr

/-- Numbers that name a packet. -/
abbrev Pk := Nat × Nat

/-- Key of a packet. -/
def Packet.key (p : Packet) : Pk := (p.queue, p.index)

/-- A CLEAN_RANGE in progress (R304). -/
structure CleanOp where
  pk : Pk
  addr : Nat
  bytes : Nat
  drop : Bool
  discard : Bool
  count : Nat
  deriving DecidableEq, Repr

/-- Phases of a COLLECTIVE (R305). -/
inductive CollPhase where
  | arming | waiting | notifying
  deriving DecidableEq, Repr

/-- A COLLECTIVE in progress (R305, R306). -/
structure Coll where
  pk : Pk
  func : Nat
  format : Nat
  release : Bool
  lines : Nat
  expected : Nat
  timeoutUs : Nat
  addr : Nat
  notifyFirst : Nat
  notifyCount : Nat
  phase : CollPhase
  /-- Lines armed, and the ARM outstanding. -/
  armed : Nat
  arm : Option Nat
  armedAt : Nat
  overcount : Option Nat
  complete : List Nat
  deckle : Nat
  /-- Partners whose completion frame is still to be sent, those awaiting acknowledgement, and the first that failed. -/
  toNotify : List Nat
  awaiting : List Nat
  failed : Option Nat
  deriving DecidableEq, Repr

/-- The scheduler core (R292 to R294, R305). -/
structure Sched where
  packets : List Packet
  takenSeq : Nat
  fetches : Nat
  /-- Queue fetched last, for the round robin among equal priorities (R294). -/
  lastQueue : Nat
  /-- Doorbells not yet fully fetched: queue, TAIL, time (R294). -/
  announced : List (Nat × Nat × Nat)
  /-- Reply writes outstanding: number and packet (R288). -/
  replies : List (Nat × Pk)
  clean : Option CleanOp
  colls : List Coll
  /-- Abort notices of collectives that a thermal shutdown ended: partner, ADDR, LINES, TAG (R362). -/
  aborts : List (Nat × Nat × Nat × Nat)
  deriving DecidableEq, Repr

/-! ### Tables and bags (R212 to R226) -/

/-- A table descriptor as read at intake (R212). -/
structure Desc where
  base : Nat
  rows : Nat
  first : Nat
  stride : Nat
  dim : Nat
  format : Format
  direct : Bool
  remoteOk : Bool
  deriving DecidableEq, Repr

/-- Pooling modes (R217). -/
inductive Pool where
  | sum | mean | weighted | max
  deriving DecidableEq, Repr

/-- The row parts of a bag that one fetch order names (R214, R220): the BME role that owns them, the package address of
their row, the weight, their 64 B blocks by number within the row, the number of the first read once one has been issued,
how many of the blocks have been asked for, and the blocks that came back: number, status, data. -/
structure Part where
  role : Nat
  row : Nat
  weight : Nat
  blocks : List Nat
  issued : Option Nat
  asked : Nat
  got : List (Nat × Status × List Byte)
  deriving DecidableEq, Repr

/-- One element of a partial vector: its value, none while empty, and the sum of magnitudes (R223, R275). -/
structure Elem where
  v : Option Val
  s : Val
  deriving DecidableEq, Repr

/-- A bag in the sequencer (R216, R222, R223). `left` are the parts still to be added; `sums` holds the partial vectors by
BME role; `stage` counts the spine stages still to run. -/
structure Bag where
  no : Nat
  terms : Nat
  left : List Part
  sums : List (Nat × List Elem)
  /-- Elements marked by a faulty part, and the status (R229). -/
  marks : List Nat
  mark : Option Status
  stage : Nat
  deriving DecidableEq, Repr

/-- A finished bag whose writes are on their way (R225, R226): its number, the numbers of its writes, its deckle, and its
status when it holds a mark. -/
structure Written where
  no : Nat
  ids : List Nat
  deckle : Val
  mark : Option Status
  deriving DecidableEq, Repr

/-- A signature in the sequencer (R215): of a packet, or one remote bag under the number of its remote request. -/
structure SigOp where
  pk : Pk
  remote : Option Nat
  table : Desc
  mode : Pool
  out : Format
  hint : Hint
  bags : Nat
  /-- Offsets, then indices and weights of the positions from OFFSETS[0] on. -/
  offsets : List Nat
  indices : List Nat
  weights : List Nat
  indexAddr : Nat
  weightAddr : Nat
  outAddr : Nat
  pitch : Nat
  deckleAddr : Option Nat
  edeckleAddr : Option Nat
  /-- Bags to carry out: BAGS, or the bags committed when the signature was ended (R228). -/
  limit : Nat
  /-- Bags dealt, prefetched and committed, each from bag 0 on; and bags to gather again after a BME failed, in order
  (R232). -/
  next : Nat
  prefetched : Nat
  committed : Nat
  redo : List Nat
  gather : List Bag
  spine : List Bag
  writing : List Written
  stop : Option Status
  /-- Of the bags whose writes have completed: the lowest with a mark and its status (R229), and the largest deckle. -/
  mark : Option (Nat × Status)
  deckle : Val
  deriving DecidableEq, Repr

/-- An element-wise or row operation (R236 to R241). `next` counts blocks of y, rows or positions done. -/
structure EwOp where
  pk : Pk
  op : Nat
  stochastic : Bool
  hint : Hint
  xf : Format
  yf : Format
  count : Nat
  alpha : Nat
  beta : Nat
  xAddr : Nat
  yAddr : Nat
  /-- Source table, or the table of a ROW_UPDATE, and destination table. -/
  src : Option Desc
  dst : Option Desc
  firstRow : Nat
  indices : List Nat
  gradAddr : Nat
  gradPitch : Nat
  next : Nat
  total : Nat
  mark : Option (Nat × Status)
  deckle : Val
  lfsr : Vector Nat 32
  deriving DecidableEq, Repr

/-- A job of the press (R250): its number, its BME, accumulator bank, passes fed, the rows and columns its masks enable,
its operand reads with the positions each reaches, and the positions an unusable operand reached, with the status (R256). A
position is accumulator row × 32 + column. -/
structure Job where
  no : Nat
  bme : Nat
  bank : Nat
  pass : Nat
  passes : Nat
  rows : List Bool
  cols : List Bool
  reads : List (Nat × List Nat)
  marks : List Nat
  mark : Option Status
  deriving DecidableEq, Repr

/-- A press operation (R245). -/
structure PressOp where
  pk : Pk
  project : Bool
  fa : Format
  fb : Format
  out : Format
  hint : Hint
  m : Nat
  n : Nat
  k : Nat
  feat : Nat
  aAddr : Nat
  aPitch : Nat
  bAddr : Nat
  bPitch : Nat
  samplePitch : Nat
  maskAddr : Nat
  layout : Nat
  outAddr : Nat
  outPitch : Nat
  deckleAddr : Option Nat
  edeckleAddr : Option Nat
  jobs : Nat
  /-- Jobs to carry out: all, or those committed when the operation was ended. -/
  limit : Nat
  /-- The dealing list; jobs begun per position of it; jobs to run again after a BME failed (R254, R256). -/
  deal : List Nat
  begun : List (Nat × Nat)
  redo : List Nat
  /-- Jobs running or waiting for their commit, and jobs draining. -/
  active : List Job
  draining : List Job
  committed : Nat
  /-- Largest bound of each row of Y in each column tile that has an enabled position of it: row, tile and bound (R253, R257). -/
  rowMax : List (Nat × Nat × Val)
  stop : Option Status
  /-- Committed jobs that hold a mark, and the largest bound of each committed job (R256, R257). -/
  marked : List (Nat × Status)
  deckles : List (Nat × Val)
  deriving DecidableEq, Repr

/-- A host operation in the sequencer (R211). -/
inductive EngOp where
  | sig (o : SigOp)
  | ew (o : EwOp)
  | press (o : PressOp)
  deriving DecidableEq, Repr

/-- One block of an operand row as the press has read it (R248): the status of its reads, its T elements, and the numbers of
the reads. -/
structure Operand where
  st : Status
  vals : List Val
  ids : List Nat
  deriving DecidableEq, Repr

/-- The press of one BME (R242, R249): both accumulator banks by position row × 32 + column, sum and magnitude sum; both tile
banks; the feed queue, which holds the first vectors of the pass whose tile is loaded; and the passes in the array, oldest
first, each with its tag and its job. -/
structure Press where
  banks : Vector (List (Nat × (Val × Val))) 2
  tiles : Vector (List Operand) 2
  /-- Job and pass of the tile that the loader has written into the shadow bank. -/
  loaded : Option (Nat × Nat)
  feed : List Operand
  inArray : List (Nat × Nat)
  /-- Tag of the next pass, modulo 16; its parity selects the tile bank. -/
  nextTag : Nat
  deriving DecidableEq, Repr

/-- The bag sequencer (R211, R235). -/
structure Sequencer where
  ops : List EngOp
  remoteQueue : List SigOp
  remoteRun : List SigOp
  remoteTurn : Bool
  /-- Answers to remote bags for the remote port: request number, status, deckle word, payload (R235). -/
  answers : List (Nat × Status × Nat × List Byte)
  presses : Vector Press 32
  /-- When each BME last made progress, for its failure (R461). -/
  progress : List (Nat × Nat)
  deriving DecidableEq, Repr

end Sys2Proof.Machine
end

