-- ==== Sys2Proof/Machine/RegTable.lean ====
section
/-! DEFINITION. The register map of 21_register_map.md (R522 to R527): every register's offset, its fields and one row
of `regTable` per register, with its reset value, its RW and W1C bits and its home island, from the field tables of
chapters 00 to 21. -/

namespace Sys2Proof.Machine

/-- The island a register of the map lies in (R522); `pc` and `bme` take the register's unit number, `d2d` the side. -/
inductive Home where
  | sensor | pc | bme | remote | d2d | liaison
  deriving DecidableEq, Repr

/-- One row of the register map: offsets `base + i*s1 + j*s2` for `i < n1`, `j < n2`; `wide` marks a 64-bit register
(R524), `emu` a firmware-emulated one (R319), `rw` and `w1c` are its writable and its write-one-to-clear bits (R17). -/
structure RegRow where
  base : Nat
  n1 : Nat
  s1 : Nat
  n2 : Nat
  s2 : Nat
  wide : Bool
  emu : Bool
  home : Home
  reset : Nat
  rw : Nat
  w1c : Nat
  deriving DecidableEq, Repr

/-- A bit field of a register: its lowest bit and its width (R14). -/
structure Fld where
  lo : Nat
  width : Nat
  deriving DecidableEq, Repr

/-- ID_BLOCK, R6. -/
def Reg.ID_BLOCK : Nat := 0x0
def Fld.ID_BLOCK_FAMILY : Fld := ⟨20, 12⟩
def Fld.ID_BLOCK_PRODUCT : Fld := ⟨12, 8⟩
def Fld.ID_BLOCK_MAJOR : Fld := ⟨8, 4⟩
def Fld.ID_BLOCK_MINOR : Fld := ⟨4, 4⟩
def Fld.ID_BLOCK_STEPPING : Fld := ⟨0, 4⟩
/-- ID_CONFIG, R6. -/
def Reg.ID_CONFIG : Nat := 0x4
def Fld.ID_CONFIG_ENUMERATED : Fld := ⟨31, 1⟩
def Fld.ID_CONFIG_CHAIN_HEAD : Fld := ⟨20, 1⟩
def Fld.ID_CONFIG_DIE : Fld := ⟨16, 3⟩
def Fld.ID_CONFIG_INSTANCE : Fld := ⟨12, 4⟩
def Fld.ID_CONFIG_LAYER_GROUPS : Fld := ⟨8, 4⟩
def Fld.ID_CONFIG_STACK_HEIGHT : Fld := ⟨0, 8⟩
/-- ID_IRQ_SOURCES, R527. -/
def Reg.ID_IRQ_SOURCES : Nat := 0x8
def Fld.ID_IRQ_SOURCES_LINES : Fld := ⟨16, 8⟩
def Fld.ID_IRQ_SOURCES_SUPPLY : Fld := ⟨10, 1⟩
def Fld.ID_IRQ_SOURCES_SNS : Fld := ⟨9, 1⟩
def Fld.ID_IRQ_SOURCES_CRIT : Fld := ⟨8, 1⟩
def Fld.ID_IRQ_SOURCES_WARN : Fld := ⟨7, 1⟩
def Fld.ID_IRQ_SOURCES_CNT : Fld := ⟨6, 1⟩
def Fld.ID_IRQ_SOURCES_LINK : Fld := ⟨5, 1⟩
def Fld.ID_IRQ_SOURCES_REPAIR : Fld := ⟨4, 1⟩
def Fld.ID_IRQ_SOURCES_CA : Fld := ⟨3, 1⟩
def Fld.ID_IRQ_SOURCES_UE : Fld := ⟨2, 1⟩
def Fld.ID_IRQ_SOURCES_CE : Fld := ⟨1, 1⟩
def Fld.ID_IRQ_SOURCES_QUEUE : Fld := ⟨0, 1⟩
/-- PC_RANGE, R79. -/
def Reg.PC_RANGE (i : Nat) : Nat := 0x10 + i * 0x4
def Fld.PC_RANGE_VALID : Fld := ⟨31, 1⟩
def Fld.PC_RANGE_BASE : Fld := ⟨9, 15⟩
def Fld.PC_RANGE_RANKS : Fld := ⟨0, 9⟩
/-- PC_LACE, R90. -/
def Reg.PC_LACE : Nat := 0x50
def Fld.PC_LACE_LOCK : Fld := ⟨31, 1⟩
def Fld.PC_LACE_RESERVE : Fld := ⟨8, 5⟩
def Fld.PC_LACE_ORDER : Fld := ⟨4, 2⟩
def Fld.PC_LACE_GRANULE : Fld := ⟨2, 2⟩
def Fld.PC_LACE_PATTERN : Fld := ⟨0, 2⟩
/-- PC_HELD_MASK, R84. -/
def Reg.PC_HELD_MASK : Nat := 0x58
def Fld.PC_HELD_MASK_HELD : Fld := ⟨0, 64⟩
/-- PC_REF_CTRL, R175. -/
def Reg.PC_REF_CTRL : Nat := 0x60
def Fld.PC_REF_CTRL_FORCE_DOUBLE : Fld := ⟨31, 1⟩
def Fld.PC_REF_CTRL_REF_CLAMPED : Fld := ⟨30, 1⟩
def Fld.PC_REF_CTRL_REF_WRITE_REFUSED : Fld := ⟨29, 1⟩
def Fld.PC_REF_CTRL_INTERVAL : Fld := ⟨0, 13⟩
/-- PC_REF_TEMP, R176. -/
def Reg.PC_REF_TEMP : Nat := 0x64
def Fld.PC_REF_TEMP_DOUBLE_TEMP : Fld := ⟨16, 10⟩
def Fld.PC_REF_TEMP_BASE_TEMP : Fld := ⟨0, 10⟩
/-- SLOT_CLASS_PRIO, R137. -/
def Reg.SLOT_CLASS_PRIO : Nat := 0x68
def Fld.SLOT_CLASS_PRIO_PRIO7 : Fld := ⟨28, 4⟩
def Fld.SLOT_CLASS_PRIO_PRIO6 : Fld := ⟨24, 4⟩
def Fld.SLOT_CLASS_PRIO_PRIO5 : Fld := ⟨20, 4⟩
def Fld.SLOT_CLASS_PRIO_PRIO4 : Fld := ⟨16, 4⟩
def Fld.SLOT_CLASS_PRIO_PRIO3 : Fld := ⟨12, 4⟩
def Fld.SLOT_CLASS_PRIO_PRIO2 : Fld := ⟨8, 4⟩
def Fld.SLOT_CLASS_PRIO_PRIO1 : Fld := ⟨4, 4⟩
def Fld.SLOT_CLASS_PRIO_PRIO0 : Fld := ⟨0, 4⟩
/-- PC_MARK_STATUS, R392. -/
def Reg.PC_MARK_STATUS : Nat := 0x6c
def Fld.PC_MARK_STATUS_RESULT : Fld := ⟨30, 2⟩
def Fld.PC_MARK_STATUS_MISSING : Fld := ⟨0, 7⟩
/-- PC_ERR_SUMMARY, R470. -/
def Reg.PC_ERR_SUMMARY : Nat := 0x70
def Fld.PC_ERR_SUMMARY_PCS : Fld := ⟨0, 64⟩
/-- PC_REPAIR_EVENT, R470. -/
def Reg.PC_REPAIR_EVENT : Nat := 0x78
def Fld.PC_REPAIR_EVENT_MOVE_STARTED : Fld := ⟨31, 1⟩
def Fld.PC_REPAIR_EVENT_MOVE_BOUND : Fld := ⟨30, 1⟩
def Fld.PC_REPAIR_EVENT_UNLACE_STARTED : Fld := ⟨29, 1⟩
def Fld.PC_REPAIR_EVENT_UNLACED : Fld := ⟨28, 1⟩
def Fld.PC_REPAIR_EVENT_RESERVE_EXHAUSTED : Fld := ⟨27, 1⟩
def Fld.PC_REPAIR_EVENT_BME_FAIL : Fld := ⟨26, 1⟩
def Fld.PC_REPAIR_EVENT_SLICE_FAIL : Fld := ⟨25, 1⟩
def Fld.PC_REPAIR_EVENT_INSTANCE_FAIL : Fld := ⟨24, 1⟩
/-- PC_ERR_IRQ, R470. -/
def Reg.PC_ERR_IRQ : Nat := 0x7c
def Fld.PC_ERR_IRQ_CE_EN : Fld := ⟨31, 1⟩
def Fld.PC_ERR_IRQ_CE_LINE : Fld := ⟨28, 3⟩
def Fld.PC_ERR_IRQ_UE_EN : Fld := ⟨27, 1⟩
def Fld.PC_ERR_IRQ_UE_LINE : Fld := ⟨24, 3⟩
def Fld.PC_ERR_IRQ_CA_EN : Fld := ⟨23, 1⟩
def Fld.PC_ERR_IRQ_CA_LINE : Fld := ⟨20, 3⟩
def Fld.PC_ERR_IRQ_REPAIR_EN : Fld := ⟨19, 1⟩
def Fld.PC_ERR_IRQ_REPAIR_LINE : Fld := ⟨16, 3⟩
def Fld.PC_ERR_IRQ_LINK_EN : Fld := ⟨15, 1⟩
def Fld.PC_ERR_IRQ_LINK_LINE : Fld := ⟨12, 3⟩
/-- PC_FEC_INFO, R470. -/
def Reg.PC_FEC_INFO : Nat := 0x80
def Fld.PC_FEC_INFO_VALID : Fld := ⟨31, 1⟩
def Fld.PC_FEC_INFO_PHYS : Fld := ⟨30, 1⟩
def Fld.PC_FEC_INFO_KIND : Fld := ⟨27, 3⟩
def Fld.PC_FEC_INFO_UNIT : Fld := ⟨8, 8⟩
def Fld.PC_FEC_INFO_LOST : Fld := ⟨0, 8⟩
/-- PC_FEC_ADDR, R470. -/
def Reg.PC_FEC_ADDR : Nat := 0x88
def Fld.PC_FEC_ADDR_ADDR : Fld := ⟨0, 52⟩
/-- PC_FEC_TIME, R470. -/
def Reg.PC_FEC_TIME : Nat := 0x90
def Fld.PC_FEC_TIME_TIME : Fld := ⟨0, 64⟩
/-- PC_COPY_CFG, R470. -/
def Reg.PC_COPY_CFG : Nat := 0x98
def Fld.PC_COPY_CFG_RATE : Fld := ⟨0, 3⟩
/-- PC_INJ, R470. -/
def Reg.PC_INJ : Nat := 0x9c
def Fld.PC_INJ_ENABLE : Fld := ⟨31, 1⟩
def Fld.PC_INJ_PC : Fld := ⟨25, 6⟩
def Fld.PC_INJ_RATE : Fld := ⟨20, 5⟩
def Fld.PC_INJ_ANY_GROUP : Fld := ⟨19, 1⟩
def Fld.PC_INJ_GROUP : Fld := ⟨17, 2⟩
def Fld.PC_INJ_INJECTED : Fld := ⟨0, 16⟩
/-- PC_UNLACING, R470. -/
def Reg.PC_UNLACING : Nat := 0xa0
def Fld.PC_UNLACING_PCS : Fld := ⟨0, 64⟩
/-- PC_UNLACED, R470. -/
def Reg.PC_UNLACED : Nat := 0xa8
def Fld.PC_UNLACED_PCS : Fld := ⟨0, 64⟩
/-- PC_ROWH_INDEX, R179. -/
def Reg.PC_ROWH_INDEX : Nat := 0xb0
/-- PC_ROWH_DATA, R179. -/
def Reg.PC_ROWH_DATA : Nat := 0xb8
/-- PC_REDIR, R470. -/
def Reg.PC_REDIR (i : Nat) : Nat := 0x100 + i * 0x8
def Fld.PC_REDIR_VALID : Fld := ⟨63, 1⟩
def Fld.PC_REDIR_STATE : Fld := ⟨60, 3⟩
def Fld.PC_REDIR_CAUSE : Fld := ⟨56, 4⟩
def Fld.PC_REDIR_ORIGIN : Fld := ⟨48, 8⟩
def Fld.PC_REDIR_FROM : Fld := ⟨40, 8⟩
def Fld.PC_REDIR_TO : Fld := ⟨32, 8⟩
def Fld.PC_REDIR_REDO : Fld := ⟨19, 1⟩
def Fld.PC_REDIR_WM : Fld := ⟨0, 19⟩
/-- PC_RANK_STATE, R470. -/
def Reg.PC_RANK_STATE (i : Nat) : Nat := 0x180 + i * 0x4
/-- PC_TIM_ROW, R106. -/
def Reg.PC_TIM_ROW (i : Nat) : Nat := 0x100000 + i * 0x1000
def Fld.PC_TIM_ROW_TRAS : Fld := ⟨25, 7⟩
def Fld.PC_TIM_ROW_TRP : Fld := ⟨19, 6⟩
def Fld.PC_TIM_ROW_TRCD : Fld := ⟨13, 6⟩
def Fld.PC_TIM_ROW_TFAW : Fld := ⟨7, 6⟩
def Fld.PC_TIM_ROW_TRRDL : Fld := ⟨3, 4⟩
def Fld.PC_TIM_ROW_TRRDS : Fld := ⟨0, 3⟩
/-- PC_TIM_COL, R106. -/
def Reg.PC_TIM_COL (i : Nat) : Nat := 0x100004 + i * 0x1000
def Fld.PC_TIM_COL_RL : Fld := ⟨24, 6⟩
def Fld.PC_TIM_COL_WL : Fld := ⟨19, 5⟩
def Fld.PC_TIM_COL_TCCDS : Fld := ⟨16, 3⟩
def Fld.PC_TIM_COL_TCCDL : Fld := ⟨13, 3⟩
def Fld.PC_TIM_COL_TWR : Fld := ⟨7, 6⟩
def Fld.PC_TIM_COL_TRTP : Fld := ⟨3, 4⟩
/-- PC_TIM_TURN, R106. -/
def Reg.PC_TIM_TURN (i : Nat) : Nat := 0x100008 + i * 0x1000
def Fld.PC_TIM_TURN_TRTW : Fld := ⟨16, 5⟩
def Fld.PC_TIM_TURN_TWTRS : Fld := ⟨11, 5⟩
def Fld.PC_TIM_TURN_TWTRL : Fld := ⟨6, 5⟩
/-- PC_TIM_REF, R177. -/
def Reg.PC_TIM_REF (i : Nat) : Nat := 0x10000c + i * 0x1000
def Fld.PC_TIM_REF_TXS : Fld := ⟨12, 10⟩
def Fld.PC_TIM_REF_TRFCPB : Fld := ⟨0, 9⟩
/-- PC_ROWPOL, R110. -/
def Reg.PC_ROWPOL (i : Nat) : Nat := 0x100010 + i * 0x1000
def Fld.PC_ROWPOL_AGE_CAP : Fld := ⟨24, 8⟩
def Fld.PC_ROWPOL_IDLE_CLOSE : Fld := ⟨16, 8⟩
def Fld.PC_ROWPOL_HIT_CAP : Fld := ⟨8, 5⟩
def Fld.PC_ROWPOL_URGENT_FIRST : Fld := ⟨0, 1⟩
/-- PC_DRAIN, R115. -/
def Reg.PC_DRAIN (i : Nat) : Nat := 0x100014 + i * 0x1000
def Fld.PC_DRAIN_HIGH : Fld := ⟨24, 6⟩
def Fld.PC_DRAIN_LOW : Fld := ⟨18, 6⟩
def Fld.PC_DRAIN_MIN_BATCH : Fld := ⟨12, 6⟩
def Fld.PC_DRAIN_WAGE : Fld := ⟨1, 11⟩
def Fld.PC_DRAIN_IDLE_DRAIN : Fld := ⟨0, 1⟩
/-- PC_PANNIER, R117. -/
def Reg.PC_PANNIER (i : Nat) : Nat := 0x100018 + i * 0x1000
def Fld.PC_PANNIER_WINDOW : Fld := ⟨0, 12⟩
/-- PC_SCHED_STATUS, R129. -/
def Reg.PC_SCHED_STATUS (i : Nat) : Nat := 0x10001c + i * 0x1000
def Fld.PC_SCHED_STATUS_TIMING_CLAMPED : Fld := ⟨31, 1⟩
def Fld.PC_SCHED_STATUS_TIM_WRITE_REFUSED : Fld := ⟨30, 1⟩
def Fld.PC_SCHED_STATUS_TRUING : Fld := ⟨25, 1⟩
def Fld.PC_SCHED_STATUS_WRITE_MODE : Fld := ⟨24, 1⟩
def Fld.PC_SCHED_STATUS_RQ_DEPTH : Fld := ⟨16, 7⟩
def Fld.PC_SCHED_STATUS_WQ_DEPTH : Fld := ⟨8, 6⟩
def Fld.PC_SCHED_STATUS_PAN_USED : Fld := ⟨0, 6⟩
/-- PC_REF_INHIBIT, R178. -/
def Reg.PC_REF_INHIBIT (i : Nat) : Nat := 0x100020 + i * 0x1000
def Fld.PC_REF_INHIBIT_GROUP : Fld := ⟨0, 4⟩
/-- PC_REF_STATUS, R178. -/
def Reg.PC_REF_STATUS (i : Nat) : Nat := 0x100024 + i * 0x1000
def Fld.PC_REF_STATUS_REF_INHIBIT_REFUSED : Fld := ⟨31, 1⟩
def Fld.PC_REF_STATUS_ROWH_FULL : Fld := ⟨30, 1⟩
def Fld.PC_REF_STATUS_ROWH_EVENTS_LOST : Fld := ⟨29, 1⟩
def Fld.PC_REF_STATUS_SELF_REFRESH : Fld := ⟨26, 1⟩
def Fld.PC_REF_STATUS_SCRUB : Fld := ⟨25, 1⟩
def Fld.PC_REF_STATUS_DOUBLED : Fld := ⟨24, 1⟩
def Fld.PC_REF_STATUS_INHIBITED : Fld := ⟨20, 4⟩
def Fld.PC_REF_STATUS_ROWH_USED : Fld := ⟨0, 12⟩
/-- PC_ECC_STATUS, R470. -/
def Reg.PC_ECC_STATUS (i : Nat) : Nat := 0x100028 + i * 0x1000
def Fld.PC_ECC_STATUS_UE : Fld := ⟨31, 1⟩
def Fld.PC_ECC_STATUS_CE : Fld := ⟨30, 1⟩
def Fld.PC_ECC_STATUS_CA_ERR : Fld := ⟨29, 1⟩
def Fld.PC_ECC_STATUS_CA_FAIL : Fld := ⟨28, 1⟩
def Fld.PC_ECC_STATUS_POISON_READ : Fld := ⟨27, 1⟩
def Fld.PC_ECC_STATUS_KB_OVERFLOW : Fld := ⟨26, 1⟩
def Fld.PC_ECC_STATUS_KB_USED : Fld := ⟨16, 7⟩
def Fld.PC_ECC_STATUS_LAST_CE_LANE : Fld := ⟨0, 6⟩
/-- PC_TRUE_STATUS, R432. -/
def Reg.PC_TRUE_STATUS (i : Nat) : Nat := 0x10002c + i * 0x1000
def Fld.PC_TRUE_STATUS_TRUE_FAILED : Fld := ⟨31, 1⟩
def Fld.PC_TRUE_STATUS_DLY_WRITE_REFUSED : Fld := ⟨30, 1⟩
def Fld.PC_TRUE_STATUS_LANE_SUSPECT : Fld := ⟨29, 1⟩
def Fld.PC_TRUE_STATUS_SKIPPED : Fld := ⟨16, 8⟩
def Fld.PC_TRUE_STATUS_WINDOWS : Fld := ⟨0, 16⟩
/-- PC_VREF, R432. -/
def Reg.PC_VREF (i : Nat) : Nat := 0x100030 + i * 0x1000
def Fld.PC_VREF_CA_VREF : Fld := ⟨16, 8⟩
def Fld.PC_VREF_WR_VREF : Fld := ⟨8, 8⟩
def Fld.PC_VREF_RD_VREF : Fld := ⟨0, 8⟩
/-- PC_LANE_MAP, R432. -/
def Reg.PC_LANE_MAP (i : Nat) : Nat := 0x100034 + i * 0x1000
def Fld.PC_LANE_MAP_SDQ1_FOR : Fld := ⟨24, 6⟩
def Fld.PC_LANE_MAP_SDQ0_FOR : Fld := ⟨16, 6⟩
def Fld.PC_LANE_MAP_SCA_FOR : Fld := ⟨8, 5⟩
/-- PC_MRG_SEL, R432. -/
def Reg.PC_MRG_SEL (i : Nat) : Nat := 0x100038 + i * 0x1000
def Fld.PC_MRG_SEL_KIND : Fld := ⟨8, 3⟩
def Fld.PC_MRG_SEL_GROUP : Fld := ⟨6, 2⟩
def Fld.PC_MRG_SEL_LANE : Fld := ⟨0, 6⟩
/-- PC_MRG_DATA, R432. -/
def Reg.PC_MRG_DATA (i : Nat) : Nat := 0x10003c + i * 0x1000
def Fld.PC_MRG_DATA_VALID : Fld := ⟨31, 1⟩
def Fld.PC_MRG_DATA_HIGH : Fld := ⟨16, 10⟩
def Fld.PC_MRG_DATA_LOW : Fld := ⟨0, 10⟩
/-- SLOT_CTRL, R144. -/
def Reg.SLOT_CTRL (i : Nat) : Nat := 0x100040 + i * 0x1000
def Fld.SLOT_CTRL_ARM : Fld := ⟨31, 1⟩
def Fld.SLOT_CTRL_DISARM : Fld := ⟨30, 1⟩
def Fld.SLOT_CTRL_STARVE_N : Fld := ⟨0, 7⟩
/-- SLOT_STATUS, R144. -/
def Reg.SLOT_STATUS (i : Nat) : Nat := 0x100044 + i * 0x1000
def Fld.SLOT_STATUS_SHIFT_LATE : Fld := ⟨31, 1⟩
def Fld.SLOT_STATUS_ARMED_WRITE_REFUSED : Fld := ⟨30, 1⟩
def Fld.SLOT_STATUS_BAD_SLOT_CODE : Fld := ⟨29, 1⟩
def Fld.SLOT_STATUS_STARVE_N_CLAMPED : Fld := ⟨28, 1⟩
def Fld.SLOT_STATUS_BG_HOLD : Fld := ⟨27, 1⟩
def Fld.SLOT_STATUS_ADMIT : Fld := ⟨22, 5⟩
def Fld.SLOT_STATUS_ARMED : Fld := ⟨17, 1⟩
def Fld.SLOT_STATUS_ACTIVE_BANK : Fld := ⟨16, 1⟩
def Fld.SLOT_STATUS_SHIFT_COUNT : Fld := ⟨8, 8⟩
def Fld.SLOT_STATUS_SLOT : Fld := ⟨0, 8⟩
/-- SLOT_SHIFT_TIME, R144. -/
def Reg.SLOT_SHIFT_TIME (i : Nat) : Nat := 0x100048 + i * 0x1000
def Fld.SLOT_SHIFT_TIME_TIME : Fld := ⟨0, 64⟩
/-- SLOT_RUN, R149. -/
def Reg.SLOT_RUN (i : Nat) : Nat := 0x100050 + i * 0x1000
def Fld.SLOT_RUN_RUN7_ACTIVE : Fld := ⟨15, 1⟩
def Fld.SLOT_RUN_RUN7_SUSPENDED : Fld := ⟨14, 1⟩
def Fld.SLOT_RUN_RUN7_PROGRESS : Fld := ⟨8, 5⟩
def Fld.SLOT_RUN_RUN6_ACTIVE : Fld := ⟨7, 1⟩
def Fld.SLOT_RUN_RUN6_SUSPENDED : Fld := ⟨6, 1⟩
def Fld.SLOT_RUN_RUN6_PROGRESS : Fld := ⟨0, 5⟩
/-- SLOT_SHADOW, R133. -/
def Reg.SLOT_SHADOW (i : Nat) (j : Nat) : Nat := 0x100100 + i * 0x1000 + j * 4
/-- SLOT_ACTIVE, R133. -/
def Reg.SLOT_ACTIVE (i : Nat) (j : Nat) : Nat := 0x100180 + i * 0x1000 + j * 4
/-- PC_DLY_DQ, R432. -/
def Reg.PC_DLY_DQ (i : Nat) (j : Nat) : Nat := 0x100200 + i * 0x1000 + j * 4
def Fld.PC_DLY_DQ_RX_DLY : Fld := ⟨16, 10⟩
def Fld.PC_DLY_DQ_TX_DLY : Fld := ⟨0, 10⟩
/-- PC_DLY_CA, R432. -/
def Reg.PC_DLY_CA (i : Nat) (j : Nat) : Nat := 0x100300 + i * 0x1000 + j * 4
def Fld.PC_DLY_CA_CA_DLY : Fld := ⟨0, 10⟩
/-- CACHE_CTRL, R208. -/
def Reg.CACHE_CTRL : Nat := 0x140000
def Fld.CACHE_CTRL_KEEP_WAYS : Fld := ⟨0, 5⟩
/-- CACHE_FENCE, R208. -/
def Reg.CACHE_FENCE : Nat := 0x140004
def Fld.CACHE_FENCE_PENDING : Fld := ⟨16, 16⟩
def Fld.CACHE_FENCE_FENCED : Fld := ⟨0, 16⟩
/-- CACHE_STATUS, R209. -/
def Reg.CACHE_STATUS (i : Nat) : Nat := 0x140040 + i * 0x4
def Fld.CACHE_STATUS_DIRTY_LOST : Fld := ⟨31, 1⟩
def Fld.CACHE_STATUS_RED_OVERCOUNT : Fld := ⟨30, 1⟩
def Fld.CACHE_STATUS_RED_TABLE_FULL : Fld := ⟨29, 1⟩
def Fld.CACHE_STATUS_RED_OPEN : Fld := ⟨16, 9⟩
def Fld.CACHE_STATUS_DIRTY_LINES : Fld := ⟨0, 16⟩
/-- BME_TDT_BASE, R241. -/
def Reg.BME_TDT_BASE : Nat := 0x150000
def Fld.BME_TDT_BASE_BASE : Fld := ⟨5, 47⟩
/-- BME_TDT_SIZE, R241. -/
def Reg.BME_TDT_SIZE : Nat := 0x150008
def Fld.BME_TDT_SIZE_ENTRIES : Fld := ⟨0, 13⟩
/-- BME_CTRL, R241. -/
def Reg.BME_CTRL : Nat := 0x15000c
def Fld.BME_CTRL_RUNAHEAD : Fld := ⟨0, 4⟩
/-- BME_FAILED, R241. -/
def Reg.BME_FAILED : Nat := 0x150010
def Fld.BME_FAILED_FAILED : Fld := ⟨0, 32⟩
/-- BME_SEQ_STATUS, R241. -/
def Reg.BME_SEQ_STATUS : Nat := 0x150014
def Fld.BME_SEQ_STATUS_BUSY : Fld := ⟨31, 1⟩
def Fld.BME_SEQ_STATUS_REMOTE_QUEUED : Fld := ⟨16, 7⟩
def Fld.BME_SEQ_STATUS_IN_SPINE : Fld := ⟨8, 4⟩
def Fld.BME_SEQ_STATUS_GATHERING : Fld := ⟨0, 3⟩
/-- PRESS_MODE, R257. -/
def Reg.PRESS_MODE : Nat := 0x150018
def Fld.PRESS_MODE_EIGHT_BIT : Fld := ⟨2, 1⟩
def Fld.PRESS_MODE_OP : Fld := ⟨0, 2⟩
/-- PRESS_STATUS, R257. -/
def Reg.PRESS_STATUS (i : Nat) : Nat := 0x150080 + i * 0x4
def Fld.PRESS_STATUS_BUSY : Fld := ⟨31, 1⟩
def Fld.PRESS_STATUS_ACC_BANK : Fld := ⟨30, 1⟩
def Fld.PRESS_STATUS_DRAINING : Fld := ⟨29, 1⟩
def Fld.PRESS_STATUS_TAG : Fld := ⟨24, 4⟩
def Fld.PRESS_STATUS_JOBS : Fld := ⟨0, 24⟩
/-- RMT_HALL_ID, R368. -/
def Reg.RMT_HALL_ID : Nat := 0x160000
def Fld.RMT_HALL_ID_X : Fld := ⟨24, 8⟩
def Fld.RMT_HALL_ID_Y : Fld := ⟨16, 8⟩
def Fld.RMT_HALL_ID_Z : Fld := ⟨8, 8⟩
/-- RMT_HALL_SIZE, R368. -/
def Reg.RMT_HALL_SIZE : Nat := 0x160004
def Fld.RMT_HALL_SIZE_X : Fld := ⟨24, 8⟩
def Fld.RMT_HALL_SIZE_Y : Fld := ⟨16, 8⟩
def Fld.RMT_HALL_SIZE_Z : Fld := ⟨8, 8⟩
/-- RMT_PORT_CFG, R368. -/
def Reg.RMT_PORT_CFG : Nat := 0x160008
def Fld.RMT_PORT_CFG_HOPS : Fld := ⟨24, 8⟩
def Fld.RMT_PORT_CFG_RETRIES : Fld := ⟨20, 4⟩
def Fld.RMT_PORT_CFG_ACK_US : Fld := ⟨12, 8⟩
def Fld.RMT_PORT_CFG_REORDER_US : Fld := ⟨4, 8⟩
/-- RMT_SLOW_CFG, R368. -/
def Reg.RMT_SLOW_CFG : Nat := 0x16000c
def Fld.RMT_SLOW_CFG_SLOW_REPEAT_US : Fld := ⟨8, 8⟩
def Fld.RMT_SLOW_CFG_SLOW_HOLD_US : Fld := ⟨0, 8⟩
/-- RMT_ERR_STATUS, R368. -/
def Reg.RMT_ERR_STATUS : Nat := 0x160010
def Fld.RMT_ERR_STATUS_RX_UNKNOWN : Fld := ⟨31, 1⟩
def Fld.RMT_ERR_STATUS_RX_GAP : Fld := ⟨30, 1⟩
def Fld.RMT_ERR_STATUS_FWD_TTL : Fld := ⟨29, 1⟩
def Fld.RMT_ERR_STATUS_FWD_NO_ROUTE : Fld := ⟨28, 1⟩
def Fld.RMT_ERR_STATUS_PT_BUSY : Fld := ⟨27, 1⟩
def Fld.RMT_ERR_STATUS_PT_DUPLICATE : Fld := ⟨26, 1⟩
/-- RMT_PT_INDEX, R368. -/
def Reg.RMT_PT_INDEX : Nat := 0x160014
def Fld.RMT_PT_INDEX_ENTRY : Fld := ⟨0, 13⟩
/-- RMT_NOTICE_RING, R368. -/
def Reg.RMT_NOTICE_RING : Nat := 0x160018
def Fld.RMT_NOTICE_RING_BASE : Fld := ⟨12, 40⟩
def Fld.RMT_NOTICE_RING_ENABLE : Fld := ⟨5, 1⟩
def Fld.RMT_NOTICE_RING_LOG2 : Fld := ⟨0, 5⟩
/-- RMT_NOTICE_SEQ, R368. -/
def Reg.RMT_NOTICE_SEQ : Nat := 0x160020
def Fld.RMT_NOTICE_SEQ_NEXT : Fld := ⟨0, 32⟩
/-- RMT_HIST_SEL, R368. -/
def Reg.RMT_HIST_SEL : Nat := 0x160024
def Fld.RMT_HIST_SEL_CLEAR : Fld := ⟨31, 1⟩
def Fld.RMT_HIST_SEL_KIND : Fld := ⟨30, 1⟩
def Fld.RMT_HIST_SEL_CLASS_Q : Fld := ⟨29, 1⟩
def Fld.RMT_HIST_SEL_INDEX : Fld := ⟨0, 13⟩
/-- RMT_DIR, R368. -/
def Reg.RMT_DIR (i : Nat) : Nat := 0x160030 + i * 0x4
/-- RMT_PT_DATA, R368. -/
def Reg.RMT_PT_DATA (i : Nat) : Nat := 0x160050 + i * 0x4
def Fld.RMT_PT_DATA_DATA : Fld := ⟨0, 32⟩
/-- RMT_HIST_DATA, R368. -/
def Reg.RMT_HIST_DATA (i : Nat) : Nat := 0x160080 + i * 0x4
def Fld.RMT_HIST_DATA_SAMPLES : Fld := ⟨0, 32⟩
/-- RMT_SUBPORT_CFG, R368. -/
def Reg.RMT_SUBPORT_CFG (i : Nat) : Nat := 0x170000 + i * 0x1000
def Fld.RMT_SUBPORT_CFG_OVH_EN : Fld := ⟨31, 1⟩
def Fld.RMT_SUBPORT_CFG_OVERHEAD : Fld := ⟨24, 6⟩
/-- RMT_SUBPORT_STATUS, R368. -/
def Reg.RMT_SUBPORT_STATUS (i : Nat) : Nat := 0x170004 + i * 0x1000
def Fld.RMT_SUBPORT_STATUS_OVERSIZE_FOR_GATE : Fld := ⟨31, 1⟩
def Fld.RMT_SUBPORT_STATUS_RX_ERROR : Fld := ⟨30, 1⟩
def Fld.RMT_SUBPORT_STATUS_LINK_UP : Fld := ⟨0, 1⟩
/-- RMT_GATE_CTRL, R368. -/
def Reg.RMT_GATE_CTRL (i : Nat) : Nat := 0x170008 + i * 0x1000
def Fld.RMT_GATE_CTRL_ARM : Fld := ⟨31, 1⟩
def Fld.RMT_GATE_CTRL_DISARM : Fld := ⟨30, 1⟩
def Fld.RMT_GATE_CTRL_SHADOW_LEN : Fld := ⟨0, 9⟩
/-- RMT_GATE_STATUS, R368. -/
def Reg.RMT_GATE_STATUS (i : Nat) : Nat := 0x17000c + i * 0x1000
def Fld.RMT_GATE_STATUS_SHIFT_LATE : Fld := ⟨31, 1⟩
def Fld.RMT_GATE_STATUS_ARMED_WRITE_REFUSED : Fld := ⟨30, 1⟩
def Fld.RMT_GATE_STATUS_BAD_GATE_ENTRY : Fld := ⟨29, 1⟩
def Fld.RMT_GATE_STATUS_ACTIVE_LEN : Fld := ⟨17, 9⟩
def Fld.RMT_GATE_STATUS_ARMED : Fld := ⟨16, 1⟩
def Fld.RMT_GATE_STATUS_SHIFT_COUNT : Fld := ⟨8, 8⟩
def Fld.RMT_GATE_STATUS_ENTRY : Fld := ⟨0, 8⟩
/-- RMT_GATE_SHIFT_TIME, R368. -/
def Reg.RMT_GATE_SHIFT_TIME (i : Nat) : Nat := 0x170010 + i * 0x1000
def Fld.RMT_GATE_SHIFT_TIME_TIME : Fld := ⟨0, 64⟩
/-- RMT_INJ, R470. -/
def Reg.RMT_INJ (i : Nat) : Nat := 0x170018 + i * 0x1000
def Fld.RMT_INJ_ENABLE : Fld := ⟨31, 1⟩
def Fld.RMT_INJ_KIND : Fld := ⟨29, 2⟩
def Fld.RMT_INJ_DIR : Fld := ⟨28, 1⟩
def Fld.RMT_INJ_RATE : Fld := ⟨23, 5⟩
def Fld.RMT_INJ_CLASSES : Fld := ⟨15, 8⟩
def Fld.RMT_INJ_REFUSED : Fld := ⟨14, 1⟩
def Fld.RMT_INJ_INJECTED : Fld := ⟨0, 14⟩
/-- RMT_SHAPER_SLOPE, R368. -/
def Reg.RMT_SHAPER_SLOPE (i : Nat) (j : Nat) : Nat := 0x170040 + i * 0x1000 + j * 4
def Fld.RMT_SHAPER_SLOPE_SEND_SLOPE : Fld := ⟨16, 16⟩
def Fld.RMT_SHAPER_SLOPE_IDLE_SLOPE : Fld := ⟨0, 16⟩
/-- RMT_SHAPER_LIMIT, R368. -/
def Reg.RMT_SHAPER_LIMIT (i : Nat) (j : Nat) : Nat := 0x170060 + i * 0x1000 + j * 4
def Fld.RMT_SHAPER_LIMIT_ENABLE : Fld := ⟨31, 1⟩
def Fld.RMT_SHAPER_LIMIT_RESET_FULL : Fld := ⟨30, 1⟩
def Fld.RMT_SHAPER_LIMIT_HI_CREDIT : Fld := ⟨15, 15⟩
def Fld.RMT_SHAPER_LIMIT_LO_CREDIT : Fld := ⟨0, 15⟩
/-- RMT_SHAPER_CREDIT, R368. -/
def Reg.RMT_SHAPER_CREDIT (i : Nat) (j : Nat) : Nat := 0x170080 + i * 0x1000 + j * 4
def Fld.RMT_SHAPER_CREDIT_CREDIT : Fld := ⟨0, 32⟩
/-- RMT_GATE_SHADOW, R368. -/
def Reg.RMT_GATE_SHADOW (i : Nat) (j : Nat) : Nat := 0x170400 + i * 0x1000 + j * 4
def Fld.RMT_GATE_SHADOW_GATES : Fld := ⟨24, 8⟩
def Fld.RMT_GATE_SHADOW_DURATION : Fld := ⟨0, 24⟩
/-- RMT_GATE_ACTIVE, R368. -/
def Reg.RMT_GATE_ACTIVE (i : Nat) (j : Nat) : Nat := 0x170800 + i * 0x1000 + j * 4
def Fld.RMT_GATE_ACTIVE_GATES : Fld := ⟨24, 8⟩
def Fld.RMT_GATE_ACTIVE_DURATION : Fld := ⟨0, 24⟩
/-- D2D_RING_STATUS, R392. -/
def Reg.D2D_RING_STATUS : Nat := 0x180000
def Fld.D2D_RING_STATUS_CLOSED : Fld := ⟨31, 1⟩
def Fld.D2D_RING_STATUS_WEST_UP : Fld := ⟨30, 1⟩
def Fld.D2D_RING_STATUS_EAST_UP : Fld := ⟨29, 1⟩
def Fld.D2D_RING_STATUS_COUNT : Fld := ⟨24, 5⟩
def Fld.D2D_RING_STATUS_LAST : Fld := ⟨23, 1⟩
def Fld.D2D_RING_STATUS_RING_MISMATCH : Fld := ⟨22, 1⟩
def Fld.D2D_RING_STATUS_ENUM_FAULT : Fld := ⟨21, 1⟩
def Fld.D2D_RING_STATUS_STALL_RETURN : Fld := ⟨20, 1⟩
def Fld.D2D_RING_STATUS_BAD_WORDS : Fld := ⟨8, 8⟩
/-- D2D_TIME_STATUS, R392. -/
def Reg.D2D_TIME_STATUS : Nat := 0x180004
def Fld.D2D_TIME_STATUS_LOCKED : Fld := ⟨31, 1⟩
def Fld.D2D_TIME_STATUS_LAST_CORR : Fld := ⟨0, 16⟩
/-- D2D_TIME, R392. -/
def Reg.D2D_TIME : Nat := 0x180008
def Fld.D2D_TIME_TIME : Fld := ⟨0, 64⟩
/-- D2D_STALL_CFG, R392. -/
def Reg.D2D_STALL_CFG : Nat := 0x180010
def Fld.D2D_STALL_CFG_US : Fld := ⟨0, 16⟩
/-- D2D_LANE_STATUS, R470. -/
def Reg.D2D_LANE_STATUS (i : Nat) : Nat := 0x180014 + i * 0x4
/-- D2D_INJ, R470. -/
def Reg.D2D_INJ (i : Nat) : Nat := 0x18001c + i * 0x4
def Fld.D2D_INJ_ENABLE : Fld := ⟨31, 1⟩
def Fld.D2D_INJ_KIND : Fld := ⟨29, 2⟩
def Fld.D2D_INJ_MODULE : Fld := ⟨28, 1⟩
def Fld.D2D_INJ_LANE : Fld := ⟨22, 6⟩
def Fld.D2D_INJ_RATE : Fld := ⟨17, 5⟩
def Fld.D2D_INJ_REFUSED : Fld := ⟨16, 1⟩
def Fld.D2D_INJ_INJECTED : Fld := ⟨0, 16⟩
/-- THERM_STATUS, R494. -/
def Reg.THERM_STATUS : Nat := 0x190000
def Fld.THERM_STATUS_CRIT_EVENT : Fld := ⟨31, 1⟩
def Fld.THERM_STATUS_COMPUTE_OFF_LATE : Fld := ⟨30, 1⟩
def Fld.THERM_STATUS_SNS_BROKEN : Fld := ⟨29, 1⟩
def Fld.THERM_STATUS_WARN : Fld := ⟨28, 1⟩
def Fld.THERM_STATUS_THR_REFUSED : Fld := ⟨27, 1⟩
def Fld.THERM_STATUS_COMPUTE_STALE : Fld := ⟨26, 1⟩
def Fld.THERM_STATUS_SHUTDOWN : Fld := ⟨19, 1⟩
def Fld.THERM_STATUS_RESTART_HOLD : Fld := ⟨18, 1⟩
def Fld.THERM_STATUS_LOW_HOLD : Fld := ⟨17, 1⟩
def Fld.THERM_STATUS_CRIT_CAUSE : Fld := ⟨12, 4⟩
def Fld.THERM_STATUS_P_STEP : Fld := ⟨8, 4⟩
def Fld.THERM_STATUS_T_STEP : Fld := ⟨4, 4⟩
def Fld.THERM_STATUS_STEP : Fld := ⟨0, 4⟩
/-- THERM_PWR_STATUS, R494. -/
def Reg.THERM_PWR_STATUS : Nat := 0x190004
def Fld.THERM_PWR_STATUS_STAGE_TIMEOUT : Fld := ⟨31, 1⟩
def Fld.THERM_PWR_STATUS_SUPPLY_FAULT : Fld := ⟨30, 1⟩
def Fld.THERM_PWR_STATUS_REPOWER_BUSY : Fld := ⟨21, 1⟩
def Fld.THERM_PWR_STATUS_STAGED : Fld := ⟨20, 1⟩
def Fld.THERM_PWR_STATUS_STAGE : Fld := ⟨16, 4⟩
def Fld.THERM_PWR_STATUS_FAULT_GROUP : Fld := ⟨0, 4⟩
/-- THERM_LOW, R494. -/
def Reg.THERM_LOW : Nat := 0x190008
def Fld.THERM_LOW_LOW_TRAIN : Fld := ⟨10, 10⟩
def Fld.THERM_LOW_LOW_STOP : Fld := ⟨0, 10⟩
/-- THERM_GUARD_CFG, R494. -/
def Reg.THERM_GUARD_CFG : Nat := 0x19000c
def Fld.THERM_GUARD_CFG_RESTART_HOLD_MS : Fld := ⟨20, 12⟩
def Fld.THERM_GUARD_CFG_DWELL_MS : Fld := ⟨8, 6⟩
def Fld.THERM_GUARD_CFG_HYST : Fld := ⟨0, 6⟩
/-- THERM_BUDGET, R494. -/
def Reg.THERM_BUDGET : Nat := 0x190010
def Fld.THERM_BUDGET_MEM_W : Fld := ⟨16, 8⟩
def Fld.THERM_BUDGET_STEP_FRAC : Fld := ⟨8, 8⟩
def Fld.THERM_BUDGET_BUDGET_W : Fld := ⟨0, 8⟩
/-- THERM_ADMIT, R494. -/
def Reg.THERM_ADMIT (i : Nat) : Nat := 0x190014 + i * 0x4
def Fld.THERM_ADMIT_HI2 : Fld := ⟨24, 5⟩
def Fld.THERM_ADMIT_HI1 : Fld := ⟨16, 5⟩
def Fld.THERM_ADMIT_LO1 : Fld := ⟨8, 5⟩
def Fld.THERM_ADMIT_LO0 : Fld := ⟨0, 5⟩
/-- THERM_COMPUTE_W, R494. -/
def Reg.THERM_COMPUTE_W : Nat := 0x19001c
def Fld.THERM_COMPUTE_W_POWER : Fld := ⟨0, 16⟩
/-- THERM_POWER, R494. -/
def Reg.THERM_POWER : Nat := 0x190020
def Fld.THERM_POWER_COLUMN : Fld := ⟨16, 16⟩
def Fld.THERM_POWER_MEM : Fld := ⟨0, 16⟩
/-- THERM_IRQ, R526. -/
def Reg.THERM_IRQ : Nat := 0x190024
def Fld.THERM_IRQ_WARN_EN : Fld := ⟨31, 1⟩
def Fld.THERM_IRQ_WARN_LINE : Fld := ⟨28, 3⟩
def Fld.THERM_IRQ_CRIT_EN : Fld := ⟨27, 1⟩
def Fld.THERM_IRQ_CRIT_LINE : Fld := ⟨24, 3⟩
def Fld.THERM_IRQ_SNS_EN : Fld := ⟨23, 1⟩
def Fld.THERM_IRQ_SNS_LINE : Fld := ⟨20, 3⟩
def Fld.THERM_IRQ_SUPPLY_EN : Fld := ⟨19, 1⟩
def Fld.THERM_IRQ_SUPPLY_LINE : Fld := ⟨16, 3⟩
/-- THERM_SNS_CFG, R494. -/
def Reg.THERM_SNS_CFG (i : Nat) : Nat := 0x190040 + i * 0x4
def Fld.THERM_SNS_CFG_ZONE : Fld := ⟨30, 2⟩
def Fld.THERM_SNS_CFG_BETA : Fld := ⟨17, 13⟩
def Fld.THERM_SNS_CFG_IDEALITY : Fld := ⟨8, 9⟩
def Fld.THERM_SNS_CFG_OFFSET : Fld := ⟨0, 8⟩
/-- THERM_SNS_READ, R494. -/
def Reg.THERM_SNS_READ (i : Nat) : Nat := 0x190080 + i * 0x4
def Fld.THERM_SNS_READ_VALID : Fld := ⟨31, 1⟩
def Fld.THERM_SNS_READ_BROKEN : Fld := ⟨30, 1⟩
def Fld.THERM_SNS_READ_CAUSE : Fld := ⟨28, 2⟩
def Fld.THERM_SNS_READ_TEMP : Fld := ⟨0, 10⟩
/-- THERM_ZONE_READ, R494. -/
def Reg.THERM_ZONE_READ (i : Nat) : Nat := 0x190140 + i * 0x4
def Fld.THERM_ZONE_READ_USED : Fld := ⟨31, 1⟩
def Fld.THERM_ZONE_READ_ALL_BROKEN : Fld := ⟨30, 1⟩
def Fld.THERM_ZONE_READ_ZSTEP : Fld := ⟨26, 4⟩
def Fld.THERM_ZONE_READ_BROKEN : Fld := ⟨21, 5⟩
def Fld.THERM_ZONE_READ_SENSORS : Fld := ⟨16, 5⟩
def Fld.THERM_ZONE_READ_READING : Fld := ⟨0, 10⟩
/-- THERM_ZTHR, R494. -/
def Reg.THERM_ZTHR (i : Nat) (j : Nat) : Nat := 0x190180 + i * 0x10 + j * 4
def Fld.THERM_ZTHR_HI : Fld := ⟨20, 10⟩
def Fld.THERM_ZTHR_MID : Fld := ⟨10, 10⟩
def Fld.THERM_ZTHR_LO : Fld := ⟨0, 10⟩
/-- THERM_DOM_STATE, R494. -/
def Reg.THERM_DOM_STATE (i : Nat) : Nat := 0x190200 + i * 0x4
/-- CNT_CTRL, R521. -/
def Reg.CNT_CTRL : Nat := 0x1a0000
def Fld.CNT_CTRL_SNAP : Fld := ⟨31, 1⟩
def Fld.CNT_CTRL_SNAP_DONE : Fld := ⟨30, 1⟩
def Fld.CNT_CTRL_VIEW : Fld := ⟨29, 1⟩
def Fld.CNT_CTRL_CLEAR : Fld := ⟨20, 4⟩
def Fld.CNT_CTRL_RUN : Fld := ⟨16, 4⟩
def Fld.CNT_CTRL_IRQ_EN : Fld := ⟨15, 1⟩
def Fld.CNT_CTRL_IRQ_LINE : Fld := ⟨12, 3⟩
/-- CNT_STATUS, R521. -/
def Reg.CNT_STATUS : Nat := 0x1a0004
/-- CNT_DUMP_CFG, R521. -/
def Reg.CNT_DUMP_CFG : Nat := 0x1a0008
def Fld.CNT_DUMP_CFG_DUMP_FAULT : Fld := ⟨31, 1⟩
def Fld.CNT_DUMP_CFG_TAG_FAULT : Fld := ⟨30, 1⟩
def Fld.CNT_DUMP_CFG_INTERVAL : Fld := ⟨0, 20⟩
/-- CNT_TAG_CFG, R521. -/
def Reg.CNT_TAG_CFG : Nat := 0x1a000c
def Fld.CNT_TAG_CFG_ENABLE : Fld := ⟨31, 1⟩
def Fld.CNT_TAG_CFG_K : Fld := ⟨26, 5⟩
def Fld.CNT_TAG_CFG_SOURCES : Fld := ⟨16, 4⟩
def Fld.CNT_TAG_CFG_SEED : Fld := ⟨0, 16⟩
/-- CNT_DUMP_RING, R521. -/
def Reg.CNT_DUMP_RING : Nat := 0x1a0010
def Fld.CNT_DUMP_RING_BASE : Fld := ⟨12, 40⟩
def Fld.CNT_DUMP_RING_ENABLE : Fld := ⟨5, 1⟩
def Fld.CNT_DUMP_RING_LOG2 : Fld := ⟨0, 5⟩
/-- CNT_DUMP_SEQ, R521. -/
def Reg.CNT_DUMP_SEQ : Nat := 0x1a0018
def Fld.CNT_DUMP_SEQ_NEXT : Fld := ⟨0, 32⟩
/-- CNT_TAG_SEQ, R521. -/
def Reg.CNT_TAG_SEQ : Nat := 0x1a001c
def Fld.CNT_TAG_SEQ_NEXT : Fld := ⟨0, 32⟩
/-- CNT_TAG_RING, R521. -/
def Reg.CNT_TAG_RING : Nat := 0x1a0020
def Fld.CNT_TAG_RING_BASE : Fld := ⟨12, 40⟩
def Fld.CNT_TAG_RING_ENABLE : Fld := ⟨5, 1⟩
def Fld.CNT_TAG_RING_LOG2 : Fld := ⟨0, 5⟩
/-- CNT_CYCLES, R521. -/
def Reg.CNT_CYCLES (i : Nat) : Nat := 0x1a0040 + i * 0x8
/-- CNT_SEL, R521. -/
def Reg.CNT_SEL (i : Nat) (j : Nat) : Nat := 0x1a0100 + i * 0x20 + j * 4
def Fld.CNT_SEL_CHAIN_IN : Fld := ⟨31, 1⟩
def Fld.CNT_SEL_SRC : Fld := ⟨16, 7⟩
def Fld.CNT_SEL_EVENT : Fld := ⟨0, 10⟩
/-- CNT_VAL, R521. -/
def Reg.CNT_VAL (i : Nat) (j : Nat) : Nat := 0x1a0200 + i * 0x40 + j * 8
/-- FW_VERSION, R7. -/
def Reg.FW_VERSION : Nat := 0xff0000
def Fld.FW_VERSION_MAJOR : Fld := ⟨24, 8⟩
def Fld.FW_VERSION_MINOR : Fld := ⟨16, 8⟩
def Fld.FW_VERSION_BUILD : Fld := ⟨0, 16⟩
/-- FW_ATTACH, R334. -/
def Reg.FW_ATTACH : Nat := 0xff0004
def Fld.FW_ATTACH_VERSION : Fld := ⟨0, 32⟩
/-- FW_STAGE_CTRL, R334. -/
def Reg.FW_STAGE_CTRL : Nat := 0xff0008
def Fld.FW_STAGE_CTRL_VERIFY : Fld := ⟨31, 1⟩
def Fld.FW_STAGE_CTRL_ACTIVATE : Fld := ⟨30, 1⟩
def Fld.FW_STAGE_CTRL_CANCEL : Fld := ⟨29, 1⟩
def Fld.FW_STAGE_CTRL_LEN : Fld := ⟨0, 20⟩
/-- FW_STAGE_STATUS, R334. -/
def Reg.FW_STAGE_STATUS : Nat := 0xff000c
def Fld.FW_STAGE_STATUS_STAGE_STATE : Fld := ⟨28, 4⟩
def Fld.FW_STAGE_STATUS_STATUS : Fld := ⟨8, 8⟩
def Fld.FW_STAGE_STATUS_REASON : Fld := ⟨0, 8⟩
/-- FW_STAGE_ADDR, R334. -/
def Reg.FW_STAGE_ADDR : Nat := 0xff0010
def Fld.FW_STAGE_ADDR_BASE : Fld := ⟨12, 40⟩
/-- FW_LOG_RING, R334. -/
def Reg.FW_LOG_RING : Nat := 0xff0018
def Fld.FW_LOG_RING_BASE : Fld := ⟨12, 40⟩
def Fld.FW_LOG_RING_ENABLE : Fld := ⟨5, 1⟩
def Fld.FW_LOG_RING_LOG2 : Fld := ⟨0, 5⟩
/-- FW_LOG_SEQ, R334. -/
def Reg.FW_LOG_SEQ : Nat := 0xff0020
def Fld.FW_LOG_SEQ_NEXT : Fld := ⟨0, 32⟩
/-- FW_TRACE_MASK, R334. -/
def Reg.FW_TRACE_MASK : Nat := 0xff0024
def Fld.FW_TRACE_MASK_GROUPS : Fld := ⟨0, 32⟩
/-- FW_TRACE_RING, R334. -/
def Reg.FW_TRACE_RING : Nat := 0xff0028
def Fld.FW_TRACE_RING_BASE : Fld := ⟨12, 40⟩
def Fld.FW_TRACE_RING_ENABLE : Fld := ⟨5, 1⟩
def Fld.FW_TRACE_RING_LOG2 : Fld := ⟨0, 5⟩
/-- FW_ADDR_ORIGIN, R79. -/
def Reg.FW_ADDR_ORIGIN : Nat := 0xff0100
def Fld.FW_ADDR_ORIGIN_ORIGIN : Fld := ⟨0, 11⟩
/-- FW_ROWH_POLICY, R166. -/
def Reg.FW_ROWH_POLICY : Nat := 0xff0104
def Fld.FW_ROWH_POLICY_CE_STEP : Fld := ⟨8, 8⟩
def Fld.FW_ROWH_POLICY_CE_WEAK : Fld := ⟨0, 8⟩
/-- FW_REPAIR_CFG, R470. -/
def Reg.FW_REPAIR_CFG : Nat := 0xff0108
def Fld.FW_REPAIR_CFG_PKG_PLANNED : Fld := ⟨16, 8⟩
def Fld.FW_REPAIR_CFG_RESERVE_KEEP : Fld := ⟨8, 8⟩
def Fld.FW_REPAIR_CFG_CA_RANK_LIMIT : Fld := ⟨0, 8⟩
/-- FW_PKG_STATUS, R392. -/
def Reg.FW_PKG_STATUS : Nat := 0xff0110
def Fld.FW_PKG_STATUS_CAPTAIN : Fld := ⟨28, 4⟩
def Fld.FW_PKG_STATUS_DEPUTY : Fld := ⟨24, 4⟩
def Fld.FW_PKG_STATUS_ROLE : Fld := ⟨22, 2⟩
def Fld.FW_PKG_STATUS_DEPUTY_VALID : Fld := ⟨21, 1⟩
def Fld.FW_PKG_STATUS_EPOCH : Fld := ⟨0, 16⟩
/-- FW_PKG_PRESENT, R392. -/
def Reg.FW_PKG_PRESENT : Nat := 0xff0114
def Fld.FW_PKG_PRESENT_LOST : Fld := ⟨16, 16⟩
def Fld.FW_PKG_PRESENT_PRESENT : Fld := ⟨0, 16⟩
/-- FW_PKG_BUDGET, R392. -/
def Reg.FW_PKG_BUDGET : Nat := 0xff0118
def Fld.FW_PKG_BUDGET_MODE : Fld := ⟨31, 1⟩
def Fld.FW_PKG_BUDGET_PKG_W : Fld := ⟨16, 12⟩
def Fld.FW_PKG_BUDGET_MAX_W : Fld := ⟨8, 8⟩
def Fld.FW_PKG_BUDGET_MIN_W : Fld := ⟨0, 8⟩
/-- FW_PKG_HALL, R392. -/
def Reg.FW_PKG_HALL : Nat := 0xff011c
def Fld.FW_PKG_HALL_X : Fld := ⟨24, 8⟩
def Fld.FW_PKG_HALL_Y : Fld := ⟨16, 8⟩
def Fld.FW_PKG_HALL_Z : Fld := ⟨8, 8⟩
/-- FW_PKG_TORUS, R404. -/
def Reg.FW_PKG_TORUS : Nat := 0xff0120
def Fld.FW_PKG_TORUS_SX : Fld := ⟨24, 8⟩
def Fld.FW_PKG_TORUS_SY : Fld := ⟨16, 8⟩
def Fld.FW_PKG_TORUS_SZ : Fld := ⟨8, 8⟩
/-- FW_PKG_DIR, R404. -/
def Reg.FW_PKG_DIR (i : Nat) : Nat := 0xff0124 + i * 0x4
/-- FW_BOOT_CTRL, R404. -/
def Reg.FW_BOOT_CTRL : Nat := 0xff0140
def Fld.FW_BOOT_CTRL_GO : Fld := ⟨31, 1⟩
def Fld.FW_BOOT_CTRL_MEMTEST : Fld := ⟨30, 1⟩
def Fld.FW_BOOT_CTRL_LEDGER : Fld := ⟨29, 1⟩
def Fld.FW_BOOT_CTRL_RATE : Fld := ⟨26, 3⟩
def Fld.FW_BOOT_CTRL_GO_WAIT_MS : Fld := ⟨0, 16⟩
/-- FW_BOOT_STATUS, R404. -/
def Reg.FW_BOOT_STATUS : Nat := 0xff0144
def Fld.FW_BOOT_STATUS_PHASE : Fld := ⟨28, 4⟩
def Fld.FW_BOOT_STATUS_FAULT_CAUSE : Fld := ⟨24, 4⟩
def Fld.FW_BOOT_STATUS_WARM : Fld := ⟨23, 1⟩
def Fld.FW_BOOT_STATUS_LEDGER_REJECTED : Fld := ⟨22, 1⟩
def Fld.FW_BOOT_STATUS_LEFT_OUT : Fld := ⟨21, 1⟩
def Fld.FW_BOOT_STATUS_READY_MS : Fld := ⟨0, 16⟩
/-- FW_LEDGER_PORT, R404. -/
def Reg.FW_LEDGER_PORT : Nat := 0xff0148
def Fld.FW_LEDGER_PORT_DATA : Fld := ⟨0, 32⟩
/-- FW_LEDGER_CTRL, R404. -/
def Reg.FW_LEDGER_CTRL : Nat := 0xff014c
def Fld.FW_LEDGER_CTRL_CLEAR : Fld := ⟨31, 1⟩
def Fld.FW_LEDGER_CTRL_REPLAY : Fld := ⟨30, 1⟩
def Fld.FW_LEDGER_CTRL_LEN : Fld := ⟨0, 24⟩
/-- FW_LEDGER_ADDR, R404. -/
def Reg.FW_LEDGER_ADDR : Nat := 0xff0150
def Fld.FW_LEDGER_ADDR_BASE : Fld := ⟨12, 40⟩
/-- FW_TRUE_CFG, R432. -/
def Reg.FW_TRUE_CFG : Nat := 0xff0160
def Fld.FW_TRUE_CFG_ENABLE : Fld := ⟨31, 1⟩
def Fld.FW_TRUE_CFG_EXPEDITE : Fld := ⟨30, 1⟩
def Fld.FW_TRUE_CFG_LANE_CE_LIMIT : Fld := ⟨16, 8⟩
def Fld.FW_TRUE_CFG_PERIOD_MS : Fld := ⟨0, 16⟩
/-- FW_MARGIN_CFG, R432. -/
def Reg.FW_MARGIN_CFG : Nat := 0xff0164
def Fld.FW_MARGIN_CFG_TFLOOR : Fld := ⟨24, 8⟩
def Fld.FW_MARGIN_CFG_VFLOOR : Fld := ⟨16, 8⟩
def Fld.FW_MARGIN_CFG_HORIZON_D : Fld := ⟨0, 16⟩
/-- FW_AGEING_CFG, R432. -/
def Reg.FW_AGEING_CFG : Nat := 0xff0168
def Fld.FW_AGEING_CFG_PREEMPT : Fld := ⟨16, 1⟩
def Fld.FW_AGEING_CFG_GUARD_MAX : Fld := ⟨8, 8⟩
def Fld.FW_AGEING_CFG_REC_DAYS : Fld := ⟨0, 8⟩
/-- FW_AGEING_STATUS, R432. -/
def Reg.FW_AGEING_STATUS : Nat := 0xff016c
def Fld.FW_AGEING_STATUS_HORIZON_D : Fld := ⟨16, 16⟩
def Fld.FW_AGEING_STATUS_WORST_RANK : Fld := ⟨8, 8⟩
def Fld.FW_AGEING_STATUS_GUARD : Fld := ⟨4, 4⟩
/-- FW_AGEING_DRIFT, R432. -/
def Reg.FW_AGEING_DRIFT : Nat := 0xff0170
def Fld.FW_AGEING_DRIFT_D : Fld := ⟨0, 16⟩
/-- FW_LEDGER_XCTRL, R432. -/
def Reg.FW_LEDGER_XCTRL : Nat := 0xff0174
def Fld.FW_LEDGER_XCTRL_SNAP : Fld := ⟨31, 1⟩
def Fld.FW_LEDGER_XCTRL_ENABLE : Fld := ⟨30, 1⟩
def Fld.FW_LEDGER_XCTRL_PERIOD_MIN : Fld := ⟨0, 16⟩
/-- FW_LEDGER_EXPORT, R432. -/
def Reg.FW_LEDGER_EXPORT : Nat := 0xff0178
def Fld.FW_LEDGER_EXPORT_BASE : Fld := ⟨12, 40⟩
/-- FW_LEDGER_XSTATUS, R432. -/
def Reg.FW_LEDGER_XSTATUS : Nat := 0xff0180
def Fld.FW_LEDGER_XSTATUS_GEN : Fld := ⟨0, 32⟩
/-- FW_QCFG, R311. -/
def Reg.FW_QCFG (i : Nat) : Nat := 0xff1000 + i * 0x40
def Fld.FW_QCFG_ENABLE : Fld := ⟨31, 1⟩
def Fld.FW_QCFG_RESET : Fld := ⟨30, 1⟩
def Fld.FW_QCFG_LOG2_ENTRIES : Fld := ⟨16, 5⟩
def Fld.FW_QCFG_IRQ_LINE : Fld := ⟨8, 3⟩
def Fld.FW_QCFG_PRIO : Fld := ⟨4, 2⟩
/-- FW_QDB, R311. -/
def Reg.FW_QDB (i : Nat) : Nat := 0xff1004 + i * 0x40
def Fld.FW_QDB_TAIL : Fld := ⟨0, 32⟩
/-- FW_QHEAD, R311. -/
def Reg.FW_QHEAD (i : Nat) : Nat := 0xff1008 + i * 0x40
def Fld.FW_QHEAD_COUNT : Fld := ⟨0, 32⟩
/-- FW_QDONE, R311. -/
def Reg.FW_QDONE (i : Nat) : Nat := 0xff100c + i * 0x40
def Fld.FW_QDONE_COUNT : Fld := ⟨0, 32⟩
/-- FW_QSTATUS, R311. -/
def Reg.FW_QSTATUS (i : Nat) : Nat := 0xff1010 + i * 0x40
def Fld.FW_QSTATUS_STATE : Fld := ⟨30, 2⟩
def Fld.FW_QSTATUS_HALT_CAUSE : Fld := ⟨27, 3⟩
def Fld.FW_QSTATUS_INFLIGHT : Fld := ⟨0, 5⟩
/-- FW_QRING, R311. -/
def Reg.FW_QRING (i : Nat) : Nat := 0xff1018 + i * 0x40
def Fld.FW_QRING_BASE : Fld := ⟨12, 40⟩
/-- FW_QREPLY, R311. -/
def Reg.FW_QREPLY (i : Nat) : Nat := 0xff1020 + i * 0x40
def Fld.FW_QREPLY_BASE : Fld := ⟨12, 40⟩
/-- FW_QIRQ, R311. -/
def Reg.FW_QIRQ (i : Nat) : Nat := 0xff1028 + i * 0x40
def Fld.FW_QIRQ_ACK : Fld := ⟨32, 32⟩
def Fld.FW_QIRQ_COUNT : Fld := ⟨0, 32⟩
/-- FW_STATUS, R334. -/
def Reg.FW_STATUS : Nat := 0xffff00
def Fld.FW_STATUS_STATE : Fld := ⟨28, 4⟩
def Fld.FW_STATUS_DEGRADED : Fld := ⟨27, 1⟩
def Fld.FW_STATUS_CORE_HALTED : Fld := ⟨20, 4⟩
def Fld.FW_STATUS_RESETS : Fld := ⟨8, 8⟩
def Fld.FW_STATUS_AUTH_RESULT : Fld := ⟨0, 8⟩
/-- FW_CORE_CTRL, R334. -/
def Reg.FW_CORE_CTRL : Nat := 0xffff04
def Fld.FW_CORE_CTRL_RESET_ALL : Fld := ⟨31, 1⟩
def Fld.FW_CORE_CTRL_ORDERLY : Fld := ⟨30, 1⟩
def Fld.FW_CORE_CTRL_RESET_CORE : Fld := ⟨0, 4⟩
/-- FW_HEARTBEAT, R334. -/
def Reg.FW_HEARTBEAT : Nat := 0xffff08
def Fld.FW_HEARTBEAT_BEAT : Fld := ⟨0, 32⟩
/-- FW_HOST_TIMEOUT, R334. -/
def Reg.FW_HOST_TIMEOUT : Nat := 0xffff0c
def Fld.FW_HOST_TIMEOUT_MS : Fld := ⟨0, 16⟩
/-- FW_WDOG_CFG, R334. -/
def Reg.FW_WDOG_CFG : Nat := 0xffff10
def Fld.FW_WDOG_CFG_MS : Fld := ⟨0, 7⟩
/-- FW_LOAD_CTRL, R334. -/
def Reg.FW_LOAD_CTRL : Nat := 0xffff14
def Fld.FW_LOAD_CTRL_START : Fld := ⟨31, 1⟩
def Fld.FW_LOAD_CTRL_COMMIT : Fld := ⟨30, 1⟩
def Fld.FW_LOAD_CTRL_LOADED : Fld := ⟨0, 20⟩
/-- FW_LOAD_DATA, R334. -/
def Reg.FW_LOAD_DATA : Nat := 0xffff18
def Fld.FW_LOAD_DATA_DATA : Fld := ⟨0, 32⟩
/-- FW_HW_STATUS, R334. -/
def Reg.FW_HW_STATUS : Nat := 0xffff1c
def Fld.FW_HW_STATUS_CENSUS_MISMATCH : Fld := ⟨31, 1⟩
def Fld.FW_HW_STATUS_LOAD_OVERRUN : Fld := ⟨30, 1⟩
def Fld.FW_HW_STATUS_LOAD_REFUSED : Fld := ⟨29, 1⟩
def Fld.FW_HW_STATUS_ACTIVATION_FAILED : Fld := ⟨28, 1⟩
/-- FW_DIGEST, R334. -/
def Reg.FW_DIGEST : Nat := 0xffff20
def Fld.FW_DIGEST_DIGEST : Fld := ⟨0, 64⟩

/-- Region 0x00_0000, identification and memory registers. -/
def regIdRows : List RegRow := [
  ⟨0x0, 1, 0x8, 1, 8, false, false, .sensor, 0xa312320, 0x0, 0x0⟩,
  ⟨0x4, 1, 0x8, 1, 8, false, false, .sensor, 0x0, 0x0, 0x0⟩,
  ⟨0x8, 1, 0x8, 1, 8, false, false, .sensor, 0x0, 0x0, 0x0⟩,
  ⟨0x10, 16, 0x4, 1, 8, false, false, .sensor, 0x0, 0x0, 0x0⟩,
  ⟨0x50, 1, 0x8, 1, 8, false, false, .sensor, 0x40a, 0x1f3f, 0x0⟩,
  ⟨0x58, 1, 0x8, 1, 8, true, false, .sensor, 0x0, 0x0, 0x0⟩,
  ⟨0x60, 1, 0x8, 1, 8, false, false, .sensor, 0xf3c, 0x80001fff, 0x60000000⟩,
  ⟨0x64, 1, 0x8, 1, 8, false, false, .sensor, 0x154014c, 0x3ff03ff, 0x0⟩,
  ⟨0x68, 1, 0x8, 1, 8, false, false, .sensor, 0x23a889ae, 0xffffffff, 0x0⟩,
  ⟨0x6c, 1, 0x8, 1, 8, false, false, .sensor, 0x0, 0x0, 0x0⟩,
  ⟨0x70, 1, 0x8, 1, 8, true, false, .sensor, 0x0, 0x0, 0x0⟩,
  ⟨0x78, 1, 0x8, 1, 8, false, false, .sensor, 0x0, 0x0, 0xff000000⟩,
  ⟨0x7c, 1, 0x8, 1, 8, false, false, .sensor, 0x8088000, 0xfffff000, 0x0⟩,
  ⟨0x80, 1, 0x8, 1, 8, false, false, .sensor, 0x0, 0x0, 0x80000000⟩,
  ⟨0x88, 1, 0x8, 1, 8, true, false, .sensor, 0x0, 0x0, 0x0⟩,
  ⟨0x90, 1, 0x8, 1, 8, true, false, .sensor, 0x0, 0x0, 0x0⟩,
  ⟨0x98, 1, 0x8, 1, 8, false, false, .sensor, 0x5, 0x7, 0x0⟩,
  ⟨0x9c, 1, 0x8, 1, 8, false, false, .sensor, 0x0, 0xfffe0000, 0x0⟩,
  ⟨0xa0, 1, 0x8, 1, 8, true, false, .sensor, 0x0, 0x0, 0x0⟩,
  ⟨0xa8, 1, 0x8, 1, 8, true, false, .sensor, 0x0, 0x0, 0x0⟩,
  ⟨0xb0, 1, 0x8, 1, 8, false, false, .sensor, 0x0, 0x1ffff, 0x0⟩,
  ⟨0xb8, 1, 0x8, 1, 8, true, false, .sensor, 0x0, 0x0, 0x0⟩,
  ⟨0x100, 16, 0x8, 1, 8, true, false, .sensor, 0x0, 0x0, 0x0⟩,
  ⟨0x180, 32, 0x4, 1, 8, false, false, .sensor, 0x0, 0x0, 0x0⟩]

/-- Region 0x10_0000, the per-PC blocks. -/
def regPcRows : List RegRow := [
  ⟨0x100000, 64, 0x1000, 1, 4096, false, false, .pc, 0x6ab2c934, 0xffffffff, 0x0⟩,
  ⟨0x100004, 64, 0x1000, 1, 4096, false, false, .pc, 0x18624c30, 0x3ffffff8, 0x0⟩,
  ⟨0x100008, 64, 0x1000, 1, 4096, false, false, .pc, 0x103300, 0x1fffc0, 0x0⟩,
  ⟨0x10000c, 64, 0x1000, 1, 4096, false, false, .pc, 0x2580dc, 0x3ff1ff, 0x0⟩,
  ⟨0x100010, 64, 0x1000, 1, 4096, false, false, .pc, 0x40201001, 0xffff1f01, 0x0⟩,
  ⟨0x100014, 64, 0x1000, 1, 4096, false, false, .pc, 0x20208101, 0x3fffffff, 0x0⟩,
  ⟨0x100018, 64, 0x1000, 1, 4096, false, false, .pc, 0x140, 0xfff, 0x0⟩,
  ⟨0x10001c, 64, 0x1000, 1, 4096, false, false, .pc, 0x0, 0x0, 0xc0000000⟩,
  ⟨0x100020, 64, 0x1000, 1, 4096, false, false, .pc, 0x0, 0x0, 0x0⟩,
  ⟨0x100024, 64, 0x1000, 1, 4096, false, false, .pc, 0x1000000, 0x0, 0xe0000000⟩,
  ⟨0x100028, 64, 0x1000, 1, 4096, false, false, .pc, 0x0, 0x0, 0xfc000000⟩,
  ⟨0x10002c, 64, 0x1000, 1, 4096, false, false, .pc, 0x0, 0x0, 0xe0000000⟩,
  ⟨0x100030, 64, 0x1000, 1, 4096, false, false, .pc, 0xc8c8c8, 0x0, 0x0⟩,
  ⟨0x100034, 64, 0x1000, 1, 4096, false, false, .pc, 0x3f3f1f00, 0x0, 0x0⟩,
  ⟨0x100038, 64, 0x1000, 1, 4096, false, false, .pc, 0x0, 0x7ff, 0x0⟩,
  ⟨0x10003c, 64, 0x1000, 1, 4096, false, false, .pc, 0x0, 0x0, 0x0⟩,
  ⟨0x100040, 64, 0x1000, 1, 4096, false, false, .pc, 0x10, 0x7f, 0x0⟩,
  ⟨0x100044, 64, 0x1000, 1, 4096, false, false, .pc, 0x4000000, 0x0, 0xf0000000⟩,
  ⟨0x100048, 64, 0x1000, 1, 4096, true, false, .pc, 0x0, 0xffffffffffffffff, 0x0⟩,
  ⟨0x100050, 64, 0x1000, 1, 4096, false, false, .pc, 0x0, 0x0, 0x0⟩,
  ⟨0x100100, 64, 0x1000, 32, 4, false, false, .pc, 0x88888888, 0xffffffff, 0x0⟩,
  ⟨0x100180, 64, 0x1000, 32, 4, false, false, .pc, 0x88888888, 0x0, 0x0⟩,
  ⟨0x100200, 64, 0x1000, 38, 4, false, false, .pc, 0x0, 0x0, 0x0⟩,
  ⟨0x100300, 64, 0x1000, 20, 4, false, false, .pc, 0x0, 0x0, 0x0⟩]

/-- Region 0x14_0000, the cache. -/
def regCacheRows : List RegRow := [
  ⟨0x140000, 1, 0x8, 1, 8, false, false, .sensor, 0xc, 0x1f, 0x0⟩,
  ⟨0x140004, 1, 0x8, 1, 8, false, false, .sensor, 0x0, 0x0, 0x0⟩,
  ⟨0x140040, 16, 0x4, 1, 8, false, false, .sensor, 0x0, 0x0, 0xe0000000⟩]

/-- Region 0x15_0000, the BMEs and the press. -/
def regBmeRows : List RegRow := [
  ⟨0x150000, 1, 0x8, 1, 8, true, false, .sensor, 0x0, 0xfffffffffffe0, 0x0⟩,
  ⟨0x150008, 1, 0x8, 1, 8, false, false, .sensor, 0x0, 0x1fff, 0x0⟩,
  ⟨0x15000c, 1, 0x8, 1, 8, false, false, .sensor, 0x8, 0xf, 0x0⟩,
  ⟨0x150010, 1, 0x8, 1, 8, false, false, .sensor, 0x0, 0x0, 0x0⟩,
  ⟨0x150014, 1, 0x8, 1, 8, false, false, .sensor, 0x0, 0x0, 0x0⟩,
  ⟨0x150018, 1, 0x8, 1, 8, false, false, .sensor, 0x0, 0x0, 0x0⟩,
  ⟨0x150080, 32, 0x4, 1, 8, false, false, .bme, 0x0, 0x0, 0x0⟩]

/-- Region 0x16_0000, the remote port. -/
def regRmtRows : List RegRow := [
  ⟨0x160000, 1, 0x8, 1, 8, false, false, .remote, 0x0, 0x0, 0x0⟩,
  ⟨0x160004, 1, 0x8, 1, 8, false, false, .remote, 0x0, 0x0, 0x0⟩,
  ⟨0x160008, 1, 0x8, 1, 8, false, false, .remote, 0x203320a0, 0xfffffff0, 0x0⟩,
  ⟨0x16000c, 1, 0x8, 1, 8, false, false, .remote, 0x32c8, 0xffff, 0x0⟩,
  ⟨0x160010, 1, 0x8, 1, 8, false, false, .remote, 0x0, 0x0, 0xfc000000⟩,
  ⟨0x160014, 1, 0x8, 1, 8, false, false, .remote, 0x0, 0x1fff, 0x0⟩,
  ⟨0x160018, 1, 0x8, 1, 8, true, false, .remote, 0x0, 0xffffffffff03f, 0x0⟩,
  ⟨0x160020, 1, 0x8, 1, 8, false, false, .remote, 0x0, 0x0, 0x0⟩,
  ⟨0x160024, 1, 0x8, 1, 8, false, false, .remote, 0x0, 0x60001fff, 0x0⟩,
  ⟨0x160030, 6, 0x4, 1, 8, false, false, .remote, 0x0, 0x0, 0x0⟩,
  ⟨0x160050, 4, 0x4, 1, 8, false, false, .remote, 0x0, 0xffffffff, 0x0⟩,
  ⟨0x160080, 16, 0x4, 1, 8, false, false, .remote, 0x0, 0x0, 0x0⟩]

/-- Region 0x17_0000, the sub-port blocks. -/
def regSubRows : List RegRow := [
  ⟨0x170000, 8, 0x1000, 1, 4096, false, false, .remote, 0x0, 0xbf000000, 0x0⟩,
  ⟨0x170004, 8, 0x1000, 1, 4096, false, false, .remote, 0x0, 0x0, 0xc0000000⟩,
  ⟨0x170008, 8, 0x1000, 1, 4096, false, false, .remote, 0x0, 0x1ff, 0x0⟩,
  ⟨0x17000c, 8, 0x1000, 1, 4096, false, false, .remote, 0x0, 0x0, 0xe0000000⟩,
  ⟨0x170010, 8, 0x1000, 1, 4096, true, false, .remote, 0x0, 0xffffffffffffffff, 0x0⟩,
  ⟨0x170018, 8, 0x1000, 1, 4096, false, false, .remote, 0x7f8000, 0xffff8000, 0x4000⟩,
  ⟨0x170040, 8, 0x1000, 8, 4, false, false, .remote, 0x0, 0xffffffff, 0x0⟩,
  ⟨0x170060, 8, 0x1000, 8, 4, false, false, .remote, 0x0, 0xffffffff, 0x0⟩,
  ⟨0x170080, 8, 0x1000, 8, 4, false, false, .remote, 0x0, 0x0, 0x0⟩,
  ⟨0x170400, 8, 0x1000, 256, 4, false, false, .remote, 0xff000000, 0xffffffff, 0x0⟩,
  ⟨0x170800, 8, 0x1000, 256, 4, false, false, .remote, 0xff000000, 0x0, 0x0⟩]

/-- Region 0x18_0000, the die-to-die ports and package time. -/
def regD2dRows : List RegRow := [
  ⟨0x180000, 1, 0x8, 1, 8, false, false, .sensor, 0x0, 0x0, 0x700000⟩,
  ⟨0x180004, 1, 0x8, 1, 8, false, false, .sensor, 0x0, 0x0, 0x0⟩,
  ⟨0x180008, 1, 0x8, 1, 8, true, false, .sensor, 0x0, 0x0, 0x0⟩,
  ⟨0x180010, 1, 0x8, 1, 8, false, false, .sensor, 0x64, 0xffff, 0x0⟩,
  ⟨0x180014, 2, 0x4, 1, 8, false, false, .d2d, 0x0, 0x0, 0x4000400⟩,
  ⟨0x18001c, 2, 0x4, 1, 8, false, false, .d2d, 0x0, 0xfffe0000, 0x10000⟩]

/-- Region 0x19_0000, thermal and power. -/
def regThermRows : List RegRow := [
  ⟨0x190000, 1, 0x8, 1, 8, false, false, .sensor, 0x0, 0x0, 0xfc000000⟩,
  ⟨0x190004, 1, 0x8, 1, 8, false, false, .sensor, 0x0, 0x0, 0xc0000000⟩,
  ⟨0x190008, 1, 0x8, 1, 8, false, false, .sensor, 0x3b0, 0xfffff, 0x0⟩,
  ⟨0x19000c, 1, 0x8, 1, 8, false, false, .sensor, 0x6400a08, 0xfff03f3f, 0x0⟩,
  ⟨0x190010, 1, 0x8, 1, 8, false, false, .sensor, 0x284b78, 0xffffff, 0x0⟩,
  ⟨0x190014, 2, 0x4, 1, 8, false, false, .sensor, 0x0, 0x1f1f1f1f, 0x0⟩,
  ⟨0x19001c, 1, 0x8, 1, 8, false, false, .sensor, 0x0, 0xffff, 0x0⟩,
  ⟨0x190020, 1, 0x8, 1, 8, false, false, .sensor, 0x0, 0x0, 0x0⟩,
  ⟨0x190024, 1, 0x8, 1, 8, false, false, .sensor, 0x8880000, 0xffff0000, 0x0⟩,
  ⟨0x190040, 8, 0x4, 1, 8, false, false, .sensor, 0x1edc2100, 0xffffffff, 0x0⟩,
  ⟨0x190080, 33, 0x4, 1, 8, false, false, .sensor, 0x0, 0x0, 0x0⟩,
  ⟨0x190140, 6, 0x4, 1, 8, false, false, .sensor, 0x0, 0x0, 0x0⟩,
  ⟨0x190180, 6, 0x10, 4, 4, false, false, .sensor, 0x0, 0x3fffffff, 0x0⟩,
  ⟨0x190200, 8, 0x4, 1, 8, false, false, .sensor, 0x0, 0x0, 0x0⟩]

/-- Region 0x1A_0000, the counters. -/
def regCntRows : List RegRow := [
  ⟨0x1a0000, 1, 0x8, 1, 8, false, false, .sensor, 0x0, 0x200ff000, 0x0⟩,
  ⟨0x1a0004, 1, 0x8, 1, 8, false, false, .sensor, 0x0, 0x0, 0xffffffff⟩,
  ⟨0x1a0008, 1, 0x8, 1, 8, false, false, .sensor, 0x3e8, 0xfffff, 0xc0000000⟩,
  ⟨0x1a000c, 1, 0x8, 1, 8, false, false, .sensor, 0x280f0001, 0xfc0fffff, 0x0⟩,
  ⟨0x1a0010, 1, 0x8, 1, 8, true, false, .sensor, 0x0, 0xffffffffff03f, 0x0⟩,
  ⟨0x1a0018, 1, 0x8, 1, 8, false, false, .sensor, 0x0, 0x0, 0x0⟩,
  ⟨0x1a001c, 1, 0x8, 1, 8, false, false, .sensor, 0x0, 0x0, 0x0⟩,
  ⟨0x1a0020, 1, 0x8, 1, 8, true, false, .sensor, 0x0, 0xffffffffff03f, 0x0⟩,
  ⟨0x1a0040, 4, 0x8, 1, 8, true, false, .sensor, 0x0, 0x0, 0x0⟩,
  ⟨0x1a0100, 4, 0x20, 8, 4, false, false, .sensor, 0x7f0000, 0x807f03ff, 0x0⟩,
  ⟨0x1a0200, 4, 0x40, 8, 8, true, false, .sensor, 0x0, 0x0, 0x0⟩]

/-- Region 0xFF_0000, the host window (R525). -/
def regFwRows : List RegRow := [
  ⟨0xff0000, 1, 0x8, 1, 8, false, true, .liaison, 0x0, 0x0, 0x0⟩,
  ⟨0xff0004, 1, 0x8, 1, 8, false, true, .liaison, 0x0, 0xffffffff, 0x0⟩,
  ⟨0xff0008, 1, 0x8, 1, 8, false, true, .liaison, 0x0, 0xe00fffff, 0x0⟩,
  ⟨0xff000c, 1, 0x8, 1, 8, false, true, .liaison, 0x0, 0x0, 0x0⟩,
  ⟨0xff0010, 1, 0x8, 1, 8, true, true, .liaison, 0x0, 0xffffffffff000, 0x0⟩,
  ⟨0xff0018, 1, 0x8, 1, 8, true, true, .liaison, 0x0, 0xffffffffff03f, 0x0⟩,
  ⟨0xff0020, 1, 0x8, 1, 8, false, true, .liaison, 0x0, 0x0, 0x0⟩,
  ⟨0xff0024, 1, 0x8, 1, 8, false, true, .liaison, 0x0, 0xffffffff, 0x0⟩,
  ⟨0xff0028, 1, 0x8, 1, 8, true, true, .liaison, 0x0, 0xffffffffff03f, 0x0⟩,
  ⟨0xff0100, 1, 0x8, 1, 8, false, true, .liaison, 0x0, 0x7ff, 0x0⟩,
  ⟨0xff0104, 1, 0x8, 1, 8, false, true, .liaison, 0x1004, 0xffff, 0x0⟩,
  ⟨0xff0108, 1, 0x8, 1, 8, false, true, .liaison, 0x40104, 0xffffff, 0x0⟩,
  ⟨0xff0110, 1, 0x8, 1, 8, false, true, .liaison, 0x0, 0x0, 0x0⟩,
  ⟨0xff0114, 1, 0x8, 1, 8, false, true, .liaison, 0x0, 0x0, 0x0⟩,
  ⟨0xff0118, 1, 0x8, 1, 8, false, true, .liaison, 0x8000a03c, 0x8fffffff, 0x0⟩,
  ⟨0xff011c, 1, 0x8, 1, 8, false, true, .liaison, 0x0, 0xffffff00, 0x0⟩,
  ⟨0xff0120, 1, 0x8, 1, 8, false, true, .liaison, 0x1010100, 0xffffff00, 0x0⟩,
  ⟨0xff0124, 6, 0x4, 1, 8, false, true, .liaison, 0x0, 0xffffffff, 0x0⟩,
  ⟨0xff0140, 1, 0x8, 1, 8, false, true, .liaison, 0x3e8, 0xfc00ffff, 0x0⟩,
  ⟨0xff0144, 1, 0x8, 1, 8, false, true, .liaison, 0x0, 0x0, 0x0⟩,
  ⟨0xff0148, 1, 0x8, 1, 8, false, true, .liaison, 0x0, 0xffffffff, 0x0⟩,
  ⟨0xff014c, 1, 0x8, 1, 8, false, true, .liaison, 0x0, 0xc0ffffff, 0x0⟩,
  ⟨0xff0150, 1, 0x8, 1, 8, true, true, .liaison, 0x0, 0xffffffffff000, 0x0⟩,
  ⟨0xff0160, 1, 0x8, 1, 8, false, true, .liaison, 0xc0100800, 0xc0ffffff, 0x0⟩,
  ⟨0xff0164, 1, 0x8, 1, 8, false, true, .liaison, 0x808005a, 0xffffffff, 0x0⟩,
  ⟨0xff0168, 1, 0x8, 1, 8, false, true, .liaison, 0x10407, 0x1ffff, 0x0⟩,
  ⟨0xff016c, 1, 0x8, 1, 8, false, true, .liaison, 0xffff0000, 0x0, 0x0⟩,
  ⟨0xff0170, 1, 0x8, 1, 8, false, true, .liaison, 0x0, 0x0, 0x0⟩,
  ⟨0xff0174, 1, 0x8, 1, 8, false, true, .liaison, 0xa, 0xc000ffff, 0x0⟩,
  ⟨0xff0178, 1, 0x8, 1, 8, true, true, .liaison, 0x0, 0xffffffffff000, 0x0⟩,
  ⟨0xff0180, 1, 0x8, 1, 8, false, true, .liaison, 0x0, 0x0, 0x0⟩,
  ⟨0xff1000, 64, 0x40, 1, 64, false, true, .liaison, 0x0, 0xc01f0730, 0x0⟩,
  ⟨0xff1004, 64, 0x40, 1, 64, false, true, .liaison, 0x0, 0xffffffff, 0x0⟩,
  ⟨0xff1008, 64, 0x40, 1, 64, false, true, .liaison, 0x0, 0x0, 0x0⟩,
  ⟨0xff100c, 64, 0x40, 1, 64, false, true, .liaison, 0x0, 0x0, 0x0⟩,
  ⟨0xff1010, 64, 0x40, 1, 64, false, true, .liaison, 0x0, 0x0, 0x0⟩,
  ⟨0xff1018, 64, 0x40, 1, 64, true, true, .liaison, 0x0, 0xffffffffff000, 0x0⟩,
  ⟨0xff1020, 64, 0x40, 1, 64, true, true, .liaison, 0x0, 0xffffffffff000, 0x0⟩,
  ⟨0xff1028, 64, 0x40, 1, 64, true, true, .liaison, 0x0, 0xffffffff00000000, 0x0⟩,
  ⟨0xffff00, 1, 0x8, 1, 8, false, false, .sensor, 0x0, 0x0, 0x0⟩,
  ⟨0xffff04, 1, 0x8, 1, 8, false, false, .sensor, 0x0, 0x0, 0x0⟩,
  ⟨0xffff08, 1, 0x8, 1, 8, false, false, .sensor, 0x0, 0x0, 0x0⟩,
  ⟨0xffff0c, 1, 0x8, 1, 8, false, false, .sensor, 0x1f4, 0xffff, 0x0⟩,
  ⟨0xffff10, 1, 0x8, 1, 8, false, false, .sensor, 0xa, 0x7f, 0x0⟩,
  ⟨0xffff14, 1, 0x8, 1, 8, false, false, .sensor, 0x0, 0x0, 0x0⟩,
  ⟨0xffff18, 1, 0x8, 1, 8, false, false, .sensor, 0x0, 0x0, 0x0⟩,
  ⟨0xffff1c, 1, 0x8, 1, 8, false, false, .sensor, 0x0, 0x0, 0xf0000000⟩,
  ⟨0xffff20, 1, 0x8, 1, 8, true, false, .sensor, 0x0, 0x0, 0x0⟩]

/-- The whole register map. -/
def regTable : List RegRow :=
  regIdRows ++ regPcRows ++ regCacheRows ++ regBmeRows ++ regRmtRows ++ regSubRows ++ regD2dRows ++ regThermRows ++ regCntRows ++ regFwRows

/-- Where offset `off` falls in a row: the indices `i` and `j` and whether it is the high word of a 64-bit register. -/
def RegRow.locate (r : RegRow) (off : Nat) : Option (Nat × Nat × Bool) :=
  if off < r.base then none
  else
    let d := off - r.base
    let i := d / r.s1
    let j := d % r.s1 / r.s2
    let q := d % r.s1 % r.s2
    if i < r.n1 ∧ j < r.n2 then
      if q = 0 then some (i, j, false)
      else if q = 4 ∧ r.wide then some (i, j, true) else none
    else none

/-- The row that lists an offset and the place of the offset in it; none for an unmapped offset (R522). -/
def regFind (off : Nat) : List RegRow → Option (RegRow × Nat × Nat × Bool)
  | [] => none
  | r :: rs =>
    match r.locate off with
    | some (i, j, h) => some (r, i, j, h)
    | none => regFind off rs

/-- The region an offset lies in, so that a lookup reads one region's rows only (R522). -/
def regRegion (off : Nat) : List RegRow :=
  if off < 0x1000 then regIdRows
  else if off < 0x140000 then regPcRows
  else if off < 0x150000 then regCacheRows
  else if off < 0x160000 then regBmeRows
  else if off < 0x170000 then regRmtRows
  else if off < 0x180000 then regSubRows
  else if off < 0x190000 then regD2dRows
  else if off < 0x1a0000 then regThermRows
  else if off < 0x1b0000 then regCntRows
  else regFwRows

/-- The row of an offset (R522). -/
def regLookup (off : Nat) : Option (RegRow × Nat × Nat × Bool) := regFind off (regRegion off)

/-- The default thresholds of a zone, in units of 0.25 °C (18, default thresholds; field layout of THERM_ZTHR, R494):
word `a` of zone `z` as (HI, MID, LO). -/
def zthrReset (z a : Nat) : Nat :=
  let step (base n : Nat) : Nat := base + 8 * (n - 1)
  let w (hi mid lo : Nat) : Nat := hi * 2 ^ 20 + mid * 2 ^ 10 + lo
  let t (warn s1 crit restart hot : Nat) : Nat :=
    match a with
    | 0 => w (step s1 2) (step s1 1) warn
    | 1 => w (step s1 5) (step s1 4) (step s1 3)
    | 2 => w (step s1 8) (step s1 7) (step s1 6)
    | _ => w hot restart crit
  match z with
  | 0 => t 340 352 420 340 408
  | 1 => t 380 400 480 380 456
  | _ => t 360 380 460 360 436

/-- The reset value of the 32-bit word at an offset; the rows whose reset value differs between their registers are
computed here (THERM_ADMIT, THERM_ZTHR: R494). An unmapped offset reads zero (R57). -/
def regReset (off : Nat) : BitVec 32 :=
  match regLookup off with
  | none => 0
  | some (r, i, j, hi) =>
    if r.base = Reg.THERM_ADMIT 0 then (if i = 0 then 0x0A0C0E10 else 0x02040608)
    else if r.base = Reg.THERM_ZTHR 0 0 then BitVec.ofNat 32 (zthrReset i j)
    else if hi then BitVec.ofNat 32 (r.reset / 2 ^ 32) else BitVec.ofNat 32 r.reset

end Sys2Proof.Machine
end

