-- ==== Sys2Proof/Machine/RmtTypes.lean ====
section
/-! DEFINITION. State types of the remote port (13). -/

namespace Sys2Proof.Machine

/-- An Aqair frame: the fields of its 64-byte header and its payload (R336). -/
structure Frame where
  opcode : Nat
  ackReq : Bool
  retrans : Bool
  dl : Bool
  payBytes : Nat
  cls : Nat
  /-- 0 REQ, 1 RSP, 2 FWD0, 3 FWD1. -/
  vc : Nat
  hops : Nat
  status : Nat
  hint : Nat
  discard : Bool
  src : Nat
  dst : Nat
  seq : Nat
  tag : Nat
  addr : Nat
  attr : Nat
  count : Nat
  deckle : Nat
  detail : Nat
  time : Nat
  /-- Credits returned for REQ, RSP, FWD0 and FWD1. -/
  credit : List Nat
  payload : List Byte
  deriving DecidableEq, Repr

/-- A received frame in a receive buffer: its sub-port, none when no credit is to return there, its arrival, and the
partner that sent it (R342, R346). -/
structure RxFrame where
  frame : Frame
  sub : Option (Fin 8)
  /-- Source of its events in the ports unit: its sub-port, or the die-to-die port it came through, 8 west, 9 east
  (R509). -/
  via : Nat
  at_ : Nat
  partner : Nat
  deriving DecidableEq, Repr

/-- A frame in a transmit queue (R351): `key` is its partner, 8192 for a forward queue, 8193 for a control frame; `coll`
names the COLLECTIVE that it notifies for. -/
structure Tx where
  key : Nat
  cls : Nat
  frame : Frame
  at_ : Nat
  reply : Bool
  coll : Option (Nat × Nat)
  deriving DecidableEq, Repr

/-- A credit shaper (R355, R356): the words of slope and limit in force, the credit in 1/65,536 byte, and whether a write
waits for the next frame boundary. -/
structure Shaper where
  slope : BitVec 32
  limit : BitVec 32
  credit : Int
  pending : Bool
  deriving DecidableEq, Repr

/-- A sub-port (R66 to R68, R346 to R358). -/
structure SubPort where
  /-- Queued frames in order of queueing, and pending control frames. -/
  tx : List Tx
  ctl : List Frame
  ctlAt : Option Nat
  sending : Option Tx
  startAt : Nat
  busy : Nat
  /-- Class charged for the counted time from `startAt` on; none for a control frame (R355). -/
  charged : Option Nat
  /-- DRR: deficit of each queue by class × 16384 + key, the pointer of each class and whether it has just been moved. -/
  deficit : List (Nat × Nat)
  ptr : Vector Nat 8
  reached : Vector Bool 8
  /-- Credits held for the far side, credits to be returned to it and since when, per virtual channel. -/
  credit : Vector Nat 4
  owed : Vector Nat 4
  owedAt : Option Nat
  /-- Received credit returns and acknowledgements (source, SEQ) not taken up yet. -/
  creditIn : List (List Nat)
  acksIn : List (Nat × Nat)
  shapers : Vector Shaper 8
  shapedAt : Nat
  /-- Start of the gate entry in progress (R357), and the classes held until their gate next opens (R358). -/
  entryAt : Nat
  gateHeld : Vector Bool 8
  /-- Beats in the receive FIFO between the pins and the island, as they stood at a time; the island takes one per ns
  (R23). -/
  rxBeats : Nat
  rxBeatsAt : Nat
  /-- Since when the heads of the forwarded frames on FWD0 and FWD1 have stood at the earliest, those to be sent and those in the
  receive buffer (R346, R392). -/
  fwdAt : Nat × Nat
  rxFwdAt : Nat × Nat
  /-- Injection (R469): a received frame held for reordering and whether it ended with RX_ERR, a frame to transmit after the
  next one and whether that one has started, and whether the frame on the wire is dropped. -/
  rxHeld : Option (List Byte × Bool)
  txHeld : Option (Tx × Bool)
  txDrop : Bool
  /-- Frames sent, oldest first. -/
  out : List Frame
  deriving DecidableEq, Repr

/-- A taken request (R343 to R345): its number at the crossbar once issued, the 256 B requests it takes there, and the
reply bytes reserved. -/
structure RmtReq where
  rx : RxFrame
  checked : Bool
  issued : Option Nat
  pieces : Nat
  reserve : Nat
  deriving DecidableEq, Repr

/-- An originated frame that awaits its ACK (R361): its timer runs since `from_` with `left` ns to go, or is stopped. -/
structure AckWait where
  partner : Nat
  frame : Frame
  coll : Option (Nat × Nat)
  retries : Nat
  left : Nat
  from_ : Option Nat
  deriving DecidableEq, Repr

/-- Counts that rules of the remote port name and no register or event shows: frames of discarded queues (R340), sequence
numbers skipped as lost (R342), late acknowledgements (R361), and notices without a record (R365, R366). -/
structure Tally where
  discarded : Nat
  lost : Nat
  lateAcks : Nat
  unrecorded : Nat
  deriving DecidableEq, Repr

/-- The remote port (13). -/
structure Rmt where
  subs : Vector SubPort 8
  /-- Partner table: entry number to its 128 bits (R339); the entry and the histogram latched by a read. -/
  pt : List (Nat × Nat)
  ptLatch : Nat
  /-- Reorder store (R342), taken requests, taken notices, and frames that wait for a forward queue with its sub-port. -/
  held : List RxFrame
  reqs : List RmtReq
  notices : List RxFrame
  fwd : List (RxFrame × Fin 8)
  /-- Frames for another instance that wait until space is reserved there: the instance, and the sub-port if not for its
  receive side (R376). -/
  ringWait : List (RxFrame × Nat × Option Nat)
  acks : List AckWait
  /-- Notice records held during a shutdown (R366), and notice writes under way with the frame each acknowledges (R365). -/
  noticeHeld : List (List Byte)
  noticeAcks : List (Nat × Nat × Nat)
  /-- Partners whose slowdown notice is in force, and when it came (R364). -/
  slowed : List (Nat × Nat)
  /-- Step and time of the last slowdown notices sent (R363). -/
  slowStep : Nat
  slowAt : Nat
  /-- Partners that had a notice of the throttle in force, and those that the last notice still has to reach (R363). -/
  slowTo : List Nat
  slowDue : List Nat
  /-- Histogram counters by (kind × 16384 + class bit × 8192 + index) × 16 + bucket (R368). -/
  hist : List (Nat × Nat)
  histLatch : List Nat
  histNext : Nat
  tally : Tally
  deriving DecidableEq, Repr

end Sys2Proof.Machine
end

