-- ==== Sys2Proof/Machine/State.lean ====
section
/-! DEFINITION. The state of the block, the reasons a step stops, and the state at reset. -/

namespace Sys2Proof.Machine

/-- Why a command stops with a fault. The spec gives every command an effect: no command stops, and there is no reason. -/
inductive Fault where
  deriving DecidableEq, Repr

/-- Why a command is refused. -/
inductive Refusal where
  /-- Raised by the dispatch for a row of the table that has no meaning yet. Safe. -/
  | notModelled (mnemonic : String)
  deriving DecidableEq, Repr

structure State where
  /-- Commands waiting, first in, first out. -/
  pending : List Instr
  /-- The model's own field: how many free values have been taken; the argument of the opaque values of Config. -/
  free : Nat
  /-- Every register of the register map (R522): (offset, word), an unlisted offset holds its reset value. -/
  regs : List (Nat × BitVec 32)
  mgt : MgtPort
  straps : Straps
  pins : Pins
  clk : Clocks
  pwr : Power
  paths : Paths
  pcs : Vector Pc 64
  /-- Copier channels, one per redirect entry (R448). -/
  copiers : Vector CopyChan 16
  stack : Stack
  refresh : RefreshCtl
  tests : List RetTest
  inbox : Inbox
  ring : Ring
  chain : Chain
  pkg : Package
  fw : Fw
  sched : Sched
  seq : Sequencer
  tags : Tagging
  rmt : Rmt
  /-- Edges the margin engines track (R410), and what firmware keeps of ageing and repair (16, 17). -/
  margins : Margins
  age : Ageing
  therm : Thermal
  cnt : Counters
  /-- LFSR of each injector (R467): the parity injector, the west and east port, and sub-ports 0 to 7. -/
  inj : Vector Nat 11
  deriving DecidableEq, Repr

/-- A bank after reset: closed, nothing pending. -/
def Bank.init : Bank :=
  { row := none, actAt := none, preAt := none, rdAt := none, wrAt := none, wrEndAt := none, lastColAt := 0, hits := 0,
    claim := .none, readyAt := 0, owed := 0, refreshing := false }

/-- A PC controller after its island's reset. -/
def Pc.init : Pc :=
  { cycle := 0, due := 10, dueAt := 0, granted := false, pool := [], poolNext := 0, rq := [], wq := [], fwd := [],
    wqStart := [], slotAt := 0, lastGrant := none, slotDone := false, slotAdmitted := none, bgHold := false, starve := 0,
    thermAcc := 0, debugAcc := none, run6 := none, run7 := none, lastRun6 := none, writeMode := false, modeWrites := 0,
    modeIdle := false, modeRead := false, banks := Vector.replicate 64 Bank.init, acts := [], lastRd := none,
    owing := [], claimed := [], recent := [], replay := none, pan := [], panNext := 0, rowh := [], events := [], tick := 0, lateTicks := [],
    stopped := false, truing := none, truingNext := none, marker := .none, laneCe := Vector.replicate 36 0, ceWindow := 0,
    ceLimit := 16, ceNext := 16, laneSuspect := [], knownBad := [], clockLost := false }

/-- An idle copier channel. -/
def CopyChan.init : CopyChan := { phase := .idle, started := false, got := [], written := 0, copies := 0 }

/-- An invalid way (R180). -/
def Line.init : Line :=
  { used := false, line := 0, base := 0, ret := 0,
    lo := { valid := false, dirty := false, poison := false, data := [] },
    hi := { valid := false, dirty := false, poison := false, data := [] }, deferDrop := false, deferDiscard := false }

/-- A slice after its island's reset: no line, nothing waiting. -/
def Slice.init : Slice :=
  { input := [], misses := [], ways := [], reds := [], fence := .none, overcount := false, tableFull := false,
    alive := true, errs := [], sweep := none }

/-- A host port after its island's reset. -/
def HostPort.init : HostPort := { reqReady := false, txns := [], out := [] }

/-- The paths with nothing in them. -/
def Paths.init : Paths :=
  { nextId := 0, ports := Vector.replicate 16 HostPort.init, reqXbar := [], memXbar := [], panXbar := [], rets := [],
    done := [], fenceWait := [], slices := Vector.replicate 16 Slice.init }

/-- A die-to-die port after its island's reset: no credit until the link trains. -/
def D2dPort.init : D2dPort :=
  { trainFrom := none, trained := false, refused := false, credits := Vector.replicate 3 0, waiting := [], sent := [],
    outstanding := [], transit := [], numberSent := none,
    headSince := 0,
    mods := Vector.replicate 2 { failed := [], retrainFrom := none, inService := false, crc := [] },
    returned := Vector.replicate 3 0 }

/-- The ring before any link is in service. -/
def Ring.init : Ring :=
  { west := D2dPort.init, east := D2dPort.init, links := [], served := [], inbox := [], dropped := 0 }

/-- The chain with nothing sent or taken. -/
def Chain.init : Chain :=
  { waitE := [], outE := [], outW := [], taken := [], enumSince := none, headSince := none, sizeSent := false,
    relayDown := [], relayUp := [], room := none }

/-- The package before an election. -/
def Package.init : Package :=
  { epoch := 0, elected := false, heard := [], eligibleSince := [], electionSince := none, heartbeatAt := 0, sentAt := 0,
    handover := none, telemetry := [], reports := [], telemetryAt := 0, relayAt := 0, balanceAt := 0, budgets := [], deferred := [],
    phases := [], goAt := none, trainSent := false, d2dSent := false, d2dCmd := none,
    reported := false, ranged := false, aligned := [], slew := 0, alignAt := 0,
    captainAt := 0, commanded := [], noRange := false, beatHeard := false, cutOff := false, marks := [],
    chainHeard := [] }

/-- A firmware core before a load. -/
def FwCore.init : FwCore :=
  { run := false, resetAt := none, wdogFrom := 0, wdogMs := 10, pc := 0, entry := 0, recovery := 0, sectionLen := 0,
    digest := 0, sram := [] }

/-- The firmware island before a load. -/
def Fw.init : Fw :=
  { cores := Vector.replicate 4 FwCore.init, image := [], dataPhase := false, checking := false, resets := [],
    hostTimer := none, orderlyAt := none, staged := none, calmSince := none, commitAt := none, handed := false, fetching := true,
    logWait := [], trace := [], traceAt := 0, traceSeq := 0, traceSlot := 0, picture := [] }

/-- The scheduler core with nothing in flight. -/
def Sched.init : Sched :=
  { packets := [], takenSeq := 0, fetches := 0, lastQueue := 63, announced := [], replies := [], clean := none,
    colls := [], aborts := [] }

/-- The bag sequencer and the presses with nothing in progress. -/
def Sequencer.init : Sequencer :=
  { ops := [], remoteQueue := [], remoteRun := [], remoteTurn := false, answers := [],
    presses := Vector.replicate 32 { banks := Vector.replicate 2 [], tiles := Vector.replicate 2 [], loaded := none, feed := [], inArray := [], nextTag := 0 }, progress := [] }

/-- No tag. -/
def Tagging.init : Tagging := { lfsr := Vector.replicate 52 0, live := [], wait := [] }

/-- A sub-port after its island's reset: no link, no credit, every gate open (R346, R357). -/
def SubPort.init : SubPort :=
  { tx := [], ctl := [], ctlAt := none, sending := none, startAt := 0, busy := 0, charged := none, deficit := [],
    ptr := Vector.replicate 8 0, reached := Vector.replicate 8 true, credit := Vector.replicate 4 0,
    owed := Vector.replicate 4 0, owedAt := none, creditIn := [], acksIn := [],
    shapers := Vector.replicate 8 { slope := 0, limit := 0, credit := 0, pending := false }, shapedAt := 0, entryAt := 0,
    gateHeld := Vector.replicate 8 false, rxBeats := 0, rxBeatsAt := 0, fwdAt := (0, 0), rxFwdAt := (0, 0),
    rxHeld := none, txHeld := none, txDrop := false, out := [] }

/-- The remote port after its island's reset. -/
def Rmt.init : Rmt :=
  { subs := Vector.replicate 8 SubPort.init, pt := [], ptLatch := 0, held := [], reqs := [], notices := [], fwd := [], ringWait := [],
    acks := [], noticeHeld := [], noticeAcks := [], slowed := [], slowStep := 0, slowAt := 0, slowTo := [], slowDue := [], hist := [],
    histLatch := [], histNext := 0, tally := { discarded := 0, lost := 0, lateAcks := 0, unrecorded := 0 } }

/-- Ageing and repair before a start. -/
def Ageing.init : Ageing :=
  { ledger := [], repair := none, trained := false, rate := 0, waiting := false, unlacedAt := [], service := 0,
    serviceAt := 0, points := [], pointDay := none, baselines := [], results := [], crossed := [], preempt := [],
    swap := [], swapped := [], guards := Vector.replicate 64 0, eventAt := none, snapAt := none, wantSnap := false,
    periodDue := false,
    snap := none, recorded := [], windows := Vector.replicate 64 0, expedite := [], causeAt := [], asked := [],
    starting := [], later := [], failedRanks := [] }

/-- The thermal guard before any reading. -/
def Thermal.init : Thermal :=
  { sensors := Vector.replicate 33 { readAt := none, streak := 0, convAt := none, drive := 0 },
    zones := Vector.replicate 6 { setAt := 0, fresh := false, downs := [] }, holdFrom := none, offAt := none, reportAt := 0,
    windows := [], colAt := 0, due := false, restarting := false, windowNo := 0, stale := false }

/-- The counters stopped and at zero. -/
def Counters.init : Counters :=
  { since := Vector.replicate 4 none, acts := [], snap := List.replicate 36 0, missed := 0, dumpIds := [], dumpAt := 0, tagIds := [] }

/-- The state while PORST_N is low (R45): every island in reset, every domain off, every register at its reset value. -/
def State.reset : State :=
  { pending := [], free := 0, regs := [],
    mgt := { doneCount := 0, rdata := 0, err := false, waiting := none, hold := [], latch := [] },
    straps := { chainHead := false, wMode := 0, eMode := 0, snsUse := 0, snsKind := 0 },
    pins := { porstN := false, vddOk := true, dieWrstReqN := true, dieWrstAck := false, dieRstN := true,
              stgReq := false, stgNum := 0, stgAck := false, memResetN := false, memCattrip := false,
              computeOffReq := false, computeOffAck := false, colThrOn := false, colThr := 0, chainERdy := false },
    clk := { pkg := 0, locals := Vector.replicate 132 0, releasedAt := 0, elapsed := 0, raw := 0 },
    pwr := { up := Vector.replicate 133 false, sensorRamp := false, nextStage := 0, stageReqAt := none, acked := false,
             seqStopped := false, seqDone := false, seqDoneAt := 0, warm := false, repower := none, repowered := [], isolatedAt := [],
             quiesced := false, noticeAt := none, scrubDue := false, clockLoss := false, badSupply := [], strapInvalid := false, noticeHeld := false, sliceFailed := [], failed := false },
    paths := Paths.init, pcs := Vector.replicate 64 Pc.init,
    copiers := Vector.replicate 16 CopyChan.init,
    stack := { cells := [], undef := List.range 256, known := [], refreshed := false, height := 16 },
    refresh := { warm := true, stale := false }, tests := [],
    inbox := { log := [], causes := [], notices := [], lostLines := [], parity := [], unlace := [] },
    ring := Ring.init, chain := Chain.init, pkg := Package.init, fw := Fw.init, sched := Sched.init,
    seq := Sequencer.init, tags := Tagging.init, rmt := Rmt.init,
    margins := { usual := [], edges := [] },
    age := Ageing.init, therm := Thermal.init, cnt := Counters.init, inj := Vector.replicate 11 1 }

end Sys2Proof.Machine
end

