-- ==== Sys2Proof/Machine/Ops.lean ====
section
/-! DEFINITION. The named operations over the state that every family shares: registers, islands, time, the stack's
contents, the address decode, responses to requesters, and what is reported to firmware. -/

namespace Sys2Proof.Machine

/-- What a step answers. -/
abbrev Out := Host.Outcome State Fault Refusal

/-! ### Registers (R14, R17, R522) -/

/-- The 32-bit word a register holds. -/
def State.rd (s : State) (off : Nat) : Word := cget regReset s.regs off

/-- Set a register's word; nothing else changes. -/
def State.wr (s : State) (off : Nat) (v : Word) : State := { s with regs := cset regReset s.regs off v }

/-- The 64 bits of a wide register (R524). -/
def State.rd64 (s : State) (off : Nat) : Nat := (s.rd off).toNat + 2 ^ 32 * (s.rd (off + 4)).toNat

/-- Set both words of a wide register. -/
def State.wr64 (s : State) (off v : Nat) : State :=
  (s.wr off (BitVec.ofNat 32 v)).wr (off + 4) (BitVec.ofNat 32 (v / 2 ^ 32))

/-- A field of a 32-bit register. -/
def State.gf (s : State) (off : Nat) (f : Fld) : Nat := natBits (s.rd off).toNat f.lo f.width

/-- A one-bit field as a truth value. -/
def State.bit (s : State) (off : Nat) (f : Fld) : Bool := s.gf off f = 1

/-- Set a field of a 32-bit register. -/
def State.sf (s : State) (off : Nat) (f : Fld) (v : Nat) : State :=
  s.wr off (BitVec.ofNat 32 (natSetBits (s.rd off).toNat f.lo f.width v))

/-- A field of a wide register. -/
def State.gf64 (s : State) (off : Nat) (f : Fld) : Nat := natBits (s.rd64 off) f.lo f.width

/-- Set a field of a wide register. -/
def State.sf64 (s : State) (off : Nat) (f : Fld) (v : Nat) : State := s.wr64 off (natSetBits (s.rd64 off) f.lo f.width v)

/-- Set a status bit. -/
def State.raise (s : State) (off : Nat) (f : Fld) : State := s.sf off f 1

/-- Set a status bit when a condition holds. -/
def State.raiseIf (s : State) (c : Bool) (off : Nat) (f : Fld) : State := if c then s.raise off f else s

/-- Add to a counting field that wraps at its width. -/
def State.bump (s : State) (off : Nat) (f : Fld) : State := s.sf off f (s.gf off f + 1)

/-- Add to a counting field that saturates. -/
def State.bumpSat (s : State) (off : Nat) (f : Fld) : State :=
  s.sf off f (min (2 ^ f.width - 1) (s.gf off f + 1))

/-- Registers of the offsets named take their reset values; what the management port holds of them, a low word written or
a high word latched, goes with them (R16, R522, R524). -/
def State.resetRegs (s : State) (drop : Nat → Bool) : State :=
  { s with regs := s.regs.filter fun e => !drop e.1,
           mgt := { s.mgt with hold := s.mgt.hold.filter fun e => !drop e.1, latch := s.mgt.latch.filter fun e => !drop e.1 } }

/-! ### Events of the performance counters (R509 to R512) -/

/-- The counter unit of a number. -/
def unitFin (u : Nat) : Fin 4 := Fin.ofNat 4 u

/-- Event numbers of a unit (R512). -/
def eventListed (u e : Nat) : Bool :=
  let within (l : List (Nat × Nat)) : Bool := l.any fun r => decide (r.1 ≤ e ∧ e ≤ r.2)
  match u with
  | 0 => within [(0x001, 0x001), (0x010, 0x01C), (0x020, 0x029), (0x030, 0x032), (0x040, 0x044), (0x050, 0x057),
                 (0x060, 0x067), (0x080, 0x08B)]
  | 1 => within [(0x001, 0x001), (0x010, 0x01F), (0x020, 0x023), (0x030, 0x035), (0x040, 0x042), (0x050, 0x050),
                 (0x060, 0x060), (0x070, 0x072)]
  | 2 => within [(0x001, 0x001), (0x010, 0x017), (0x020, 0x025), (0x040, 0x044)]
  | _ => within [(0x001, 0x001), (0x010, 0x017), (0x020, 0x027), (0x030, 0x032), (0x040, 0x044), (0x050, 0x050)]

/-- Events without a source, which ignore SRC. -/
def eventNoSource (u e : Nat) : Bool :=
  (u = 0 && (decide (e = 0x057) || decide (0x080 ≤ e ∧ e ≤ 0x08B))) || (u = 1 && decide (0x070 ≤ e ∧ e ≤ 0x072))

/-- Number of sources of a unit for an event (R509). -/
def eventSources (u e : Nat) : Nat :=
  match u with
  | 0 => 64
  | 1 => 16
  | 2 => if 0x040 ≤ e ∧ e ≤ 0x044 then 64 else 32
  | _ => 10

/-- Selection fields of counter n of unit u. -/
def State.cntSel (s : State) (u n : Nat) (f : Fld) : Nat := s.gf (Reg.CNT_SEL u n) f

/-- Counter n of unit u counts the wraps of counter n − 1 (R511). -/
def State.chained (s : State) (u n : Nat) : Bool := decide (0 < n) && decide (s.cntSel u n Fld.CNT_SEL_CHAIN_IN = 1)

/-- Counter n of unit u selects an event of a source (R510). -/
def State.cntMatches (s : State) (u n e src : Nat) : Bool :=
  let sel := s.cntSel u n Fld.CNT_SEL_SRC
  decide (s.cntSel u n Fld.CNT_SEL_EVENT = e) && eventListed u e &&
    (eventNoSource u e || (decide (src < eventSources u e) && (decide (sel = 0x7F) || decide (sel = src))))

/-- Add to a counter: it wraps modulo 2^48 and sets its bit in CNT_STATUS at a wrap; the answer is the number of wraps. -/
def State.addCounter (s : State) (u n qty : Nat) : State × Nat :=
  let x := s.rd64 (Reg.CNT_VAL u n) + qty
  let t := s.wr64 (Reg.CNT_VAL u n) (x % 2 ^ 48)
  (if 2 ^ 48 ≤ x then t.wr Reg.CNT_STATUS (t.rd Reg.CNT_STATUS ||| BitVec.ofNat 32 (2 ^ (8 * u + n))) else t, x / 2 ^ 48)

/-- One event in a unit: each counter adds the quantity it selects, or the wraps of the one before (R510, R511). -/
def State.countEvent (s : State) (u e src qty : Nat) : State :=
  ((upto 8).foldl (fun (a : State × Nat) n =>
    let add := if a.1.chained u n then a.2 else if a.1.cntMatches u n e src then qty else 0
    a.1.addCounter u n add) (s, 0)).1

/-- An event of a unit happens: a unit that counts counts it (R509, R510). -/
def State.countIn (s : State) (u : Fin 4) (e src qty : Nat) : State :=
  if (s.cnt.since[u]).isSome then s.countEvent u e src qty else s

/-- An event of the ports unit (R512). -/
def State.countPort (s : State) (e src : Nat) : State := s.countIn 3 e src 1

/-! ### Islands, domains and time -/

/-- Whether an island is out of reset. -/
def State.up (s : State) (i : Island) : Bool := s.pwr.up.toList.getD i.index false

/-- State of a power domain (R493, THERM_DOM_STATE_w). -/
def State.dom (s : State) (d : Nat) : DomState :=
  DomState.ofCode (natBits (s.rd (Reg.THERM_DOM_STATE (d / 16))).toNat (2 * (d % 16)) 2)

/-- Set the state of a power domain. -/
def State.setDom (s : State) (d : Nat) (v : DomState) : State :=
  s.wr (Reg.THERM_DOM_STATE (d / 16))
    (BitVec.ofNat 32 (natSetBits (s.rd (Reg.THERM_DOM_STATE (d / 16))).toNat (2 * (d % 16)) 2 v.code))

/-- An island in service: out of reset with its domain ON (R523). The firmware island spans the four core domains; its
registers answer while it is out of reset, so that a reset of all cores can re-power a core's domain (R492, R494). -/
def State.live (s : State) (i : Island) : Bool := s.up i && (decide (i = .firmware) || decide (s.dom i.domain = .on))

/-- The local package time of an island; the sensor and management island keeps the copy itself (R27). -/
def State.now (s : State) (i : Island) : Nat :=
  match i with
  | .sensor => s.clk.pkg
  | j => s.clk.locals.toList.getD j.index 0

/-- Take a step only while an island is in service; otherwise nothing happens. -/
def State.onLive (s : State) (i : Island) (t : State) : State := if s.live i then t else s

/-- The management port takes an access: the sensor and management island is out of reset and no access is in progress
(R56, R523). -/
def State.mgtReady (s : State) : Bool := s.up .sensor && s.mgt.waiting.isNone

/-- Complete an access at the management port (R56, R57). -/
def State.mgtDone (s : State) (err : Bool) (rdata : Word) : State :=
  { s with mgt := { s.mgt with doneCount := s.mgt.doneCount + 1, err := err, rdata := rdata, waiting := none } }

/-- A management write of a hardware register whose home is island `i` and whose effect is `t`: no access is taken
before the port is ready; out of service it completes with MGT_ERR (R56, R523). -/
def State.mgtWrite (s : State) (i : Island) (t : State) : State :=
  if s.mgtReady then (if s.live i then t.mgtDone false 0 else s.mgtDone true 0) else s

/-- STATE of FW_STATUS (12). -/
def State.fwState (s : State) : Nat := s.gf Reg.FW_STATUS Fld.FW_STATUS_STATE

/-- A firmware core executes: released, not in reset, not halted (R324). -/
def State.coreRuns (s : State) (k : Core) : Bool := s.fw.cores[k.index].run && s.fw.cores[k.index].resetAt.isNone

/-- Firmware serves: STATE is RUNNING or FREEWHEEL and the core runs (R319). -/
def State.fwRuns (s : State) (k : Core) : Bool :=
  s.live .firmware && (decide (s.fwState = 4) || decide (s.fwState = 5)) && s.coreRuns k

/-- Take a step of a firmware core only while it runs. -/
def State.onCore (s : State) (k : Core) (t : State) : State := if s.fwRuns k then t else s

/-- Take a step of the upkeep core at a PC island in service (R162, R168, R312). -/
def State.onUpkeep (s : State) (p : Fin 64) (t : State) : State := s.onCore .upkeep (s.onLive (.pc p) t)

/-- A management write of an emulated register (R319, R57): answered by the liaison core while it runs, held while the
instance is ACTIVATING or the liaison core alone is in reset, else completed with MGT_ERR. `err` is a write that the
liaison core answers with MGT_ERR, its effect being `t`. -/
def State.emuAccess (s : State) (off : Nat) (v : Word) (err : Bool) (t : State) : State :=
  if !s.mgtReady then s
  else if !s.live .firmware then s.mgtDone true 0
  else if s.fwRuns .liaison then t.mgtDone err 0
  else if 4 ≤ s.fwState then
    { s with mgt := { s.mgt with waiting := some { write := true, off := off, value := v, since := s.clk.pkg } } }
  else s.mgtDone true 0

/-- The same; `none` is a write that the liaison core answers with MGT_ERR and that has no effect. -/
def State.emuWrite (s : State) (off : Nat) (v : Word) (t : Option State) : State := s.emuAccess off v t.isNone (t.getD s)

/-- Firmware knows of a change of a unit-state register, by its own request or because it acts on it: its picture of the
unit follows (R332). -/
def State.known (s : State) (r : Nat) : State :=
  { s with fw := { s.fw with picture := s.fw.picture.map fun e => if e.1 = r then (r, s.rd r) else e } }

/-- Firmware switches a domain off or on and notes it in its own picture of the unit (R332). -/
def State.fwDom (s : State) (d : Nat) (v : DomState) : State := (s.setDom d v).known (Reg.THERM_DOM_STATE (d / 16))

/-- Take a step only when its stated occasion is present; otherwise nothing happens. -/
def State.when (s : State) (c : Bool) (t : State) : State := if c then t else s

/-- One of the model's free values has been used. -/
def State.tick (s : State) : State := { s with free := s.free + 1 }

/-- One draw of an injector (R467): whether it injects, and its LFSR afterwards. One-shot when RATE is 0. -/
def injDraw (rate lfsr : Nat) : Bool × Nat :=
  if rate = 0 then (true, lfsr)
  else
    let x := lfsrStep lfsr
    (decide (x % 2 ^ rate = 0), x)

/-! ### Units -/

/-- Change one PC controller. -/
def State.modPc (s : State) (p : Fin 64) (f : Pc → Pc) : State := { s with pcs := s.pcs.set p (f s.pcs[p]) }

/-- The PC of a number. -/
def pcFin (n : Nat) : Fin 64 := Fin.ofNat 64 n

/-- The slice of a number. -/
def sliceFin (n : Nat) : Fin 16 := Fin.ofNat 16 n

/-- Change one slice. -/
def State.modSlice (s : State) (i : Fin 16) (f : Slice → Slice) : State :=
  { s with paths := { s.paths with slices := s.paths.slices.set i (f s.paths.slices[i]) } }

/-- Change one host port. -/
def State.modPort (s : State) (n : Fin 16) (f : HostPort → HostPort) : State :=
  { s with paths := { s.paths with ports := s.paths.ports.set n (f s.paths.ports[n]) } }

/-- Change the paths. -/
def State.modPaths (s : State) (f : Paths → Paths) : State := { s with paths := f s.paths }

/-- Change the inbox of firmware. -/
def State.modInbox (s : State) (f : Inbox → Inbox) : State := { s with inbox := f s.inbox }

/-- Change the pins. -/
def State.modPins (s : State) (f : Pins → Pins) : State := { s with pins := f s.pins }

/-- Change the power state. -/
def State.modPwr (s : State) (f : Power → Power) : State := { s with pwr := f s.pwr }

/-- Change a bank. -/
def Pc.modBank (c : Pc) (k : Nat) (f : Bank → Bank) : Pc :=
  { c with banks := c.banks.set (Fin.ofNat 64 k) (f c.banks[Fin.ofNat 64 k]) }

/-- A bank by its number k (R152). -/
def Pc.bankOf (c : Pc) (k : Nat) : Bank := c.banks[Fin.ofNat 64 k]

/-- Report a record to the liaison core, with the time of the firmware island, which records it (R27, R333, R529). -/
def State.logRec (s : State) (code : Nat) (args : List Nat) : State :=
  s.modInbox fun b => { b with log := b.log ++ [{ code := code, args := args, time := s.now .firmware }] }

/-- ID_BLOCK as it reads: with the silicon stepping (R6). -/
def State.blockId (s : State) : Nat := (s.rd Reg.ID_BLOCK).toNat + Config.stepping.toNat

/-- Raise a repair cause on a rank (R445). -/
def State.cause (s : State) (rank c : Nat) : State :=
  s.modInbox fun b => { b with causes := b.causes ++ [(rank, c)] }

/-- Change two parts of one PC's registers only when a condition holds. -/
def State.iff (s : State) (c : Bool) (f : State → State) : State := if c then f s else s

/-! ### The stack's contents (R92, R433) -/

/-- Key of byte `i` of a burst in the model's stack memory. -/
def cellKey (l : Loc) (i : Nat) : Nat := l.burst * 128 + i

/-- What a byte of the stack that nothing has written reads as. DESIGN CHOICE: zero. -/
def cellReset (_ : Nat) : Byte := 0

/-- One byte of the stack's memory, contents and check words alike. -/
def Stack.byte (k : Stack) (l : Loc) (i : Nat) : Byte := cget cellReset k.cells (cellKey l i)

/-- Whether a location lies in a layer group that the bonded stack does not have (R83). -/
def Stack.absent (k : Stack) (l : Loc) : Bool := decide (16 * k.height ≤ l.rank)

/-- Whether the contents of a burst are undefined (R98, R398), as they are wherever the stack has nothing. DESIGN CHOICE: log
entry 106, a write there is lost. -/
def Stack.isUndef (k : Stack) (l : Loc) : Bool := k.absent l || (k.undef.contains l.rank && !k.known.contains l.burst)

/-- The 72 bytes of a burst as the stack returns them; an undefined burst returns free bytes. -/
def Stack.readBurst (k : Stack) (n : Nat) (l : Loc) : List Byte :=
  (upto 72).map fun i => if k.isUndef l then Config.undefinedByte n i else k.byte l i

/-- Write consecutive cells. -/
def writeCells (m : List Host.Cell) (key : Nat) : List Byte → List Host.Cell
  | [] => m
  | b :: bs => writeCells (cset cellReset m key b) (key + 1) bs

/-- Write the 72 bytes of a burst. -/
def Stack.writeBurst (k : Stack) (l : Loc) (bytes : List Byte) : Stack :=
  { k with cells := writeCells k.cells (cellKey l 0) bytes,
           known := if k.undef.contains l.rank then l.burst :: k.known.filter (· ≠ l.burst) else k.known }

/-- The 72 bytes of a burst with its true check word, or with the poison code (R433, R436). -/
def codedBurst (data : List Byte) (poison : Bool) : List Byte :=
  let d := sliceBytes data 0 64
  d ++ leBytes 8 (if poison then checkWord d ^^^ poisonValue else checkWord d)

/-- Write a burst to the stack. -/
def State.putBurst (s : State) (l : Loc) (data : List Byte) (poison : Bool) : State :=
  { s with stack := s.stack.writeBurst l (codedBurst data poison) }

/-- Outcome of the check-code unit on 72 bytes as read (R434). -/
def decodeImage (b : List Byte) : Decode := decodeBurst (sliceBytes b 0 64) (leNat (sliceBytes b 64 8))

/-- The data a decode leaves: the bytes read, the corrected bytes, or zeros (R434, R438). -/
def decodedData (b : List Byte) : List Byte :=
  match decodeImage b with
  | .clean => sliceBytes b 0 64
  | .corrected _ d => d
  | .poisoned => zeros 64
  | .uncorrectable => zeros 64

/-! ### Address decode (R28, R81 to R94) -/

/-- This instance's number (R6). -/
def State.self (s : State) : Nat := s.gf Reg.ID_CONFIG Fld.ID_CONFIG_INSTANCE

/-- Layer groups of the stack (R6, R83). -/
def State.groups (s : State) : Nat := s.gf Reg.ID_CONFIG Fld.ID_CONFIG_LAYER_GROUPS

/-- Where a 52-bit package address leads (R28, R81). The slot number of an address in the package's block is its
number of the owning instance (R80). -/
def State.route (s : State) (a : Nat) : Route :=
  let n := natBits a 37 4
  let l := natBits a 0 37
  let r := Reg.PC_RANGE n
  if s.bit r Fld.PC_RANGE_VALID ∧ s.gf r Fld.PC_RANGE_BASE = natBits a 37 15 ∧
      l < s.gf r Fld.PC_RANGE_RANKS * rankBytes then
    if n = s.self then .own l else .other n
  else .hole

/-- The physical location of a local offset before any redirect, and the byte in its burst (R88 to R94, R96). -/
def State.locate (s : State) (l : Nat) : Loc × Nat :=
  decodeLocal (s.gf Reg.PC_LACE Fld.PC_LACE_PATTERN) (s.gf Reg.PC_LACE Fld.PC_LACE_GRANULE)
    (s.gf Reg.PC_LACE Fld.PC_LACE_ORDER) s.groups (s.rd64 Reg.PC_HELD_MASK) l

/-- Slices fenced at present (R208). -/
def State.fenced (s : State) : Nat := s.gf Reg.CACHE_FENCE Fld.CACHE_FENCE_FENCED

/-- The slice of an address of this instance's range (R181, R207). -/
def State.sliceOf (s : State) (a : Nat) : Fin 16 := sliceFin (lineSlice s.fenced a)

/-- A thermal shutdown of the column is in force (R488). -/
def State.shutdown (s : State) : Bool := s.bit Reg.THERM_STATUS Fld.THERM_STATUS_SHUTDOWN

/-! ### The die-to-die ring (R28, R374 to R377) -/

/-- Instances of the package (R371). -/
def State.count (s : State) : Nat := s.gf Reg.D2D_RING_STATUS Fld.D2D_RING_STATUS_COUNT

/-- A die-to-die port is in service. -/
def State.portUp (s : State) (east : Bool) : Bool :=
  if east then s.bit Reg.D2D_RING_STATUS Fld.D2D_RING_STATUS_EAST_UP
  else s.bit Reg.D2D_RING_STATUS Fld.D2D_RING_STATUS_WEST_UP

/-- A die-to-die port. -/
def State.port (s : State) (east : Bool) : D2dPort := if east then s.ring.east else s.ring.west

/-- Change a die-to-die port. -/
def State.modD2d (s : State) (east : Bool) (f : D2dPort → D2dPort) : State :=
  { s with ring := if east then { s.ring with east := f s.ring.east } else { s.ring with west := f s.ring.west } }

/-- Change the ring. -/
def State.modRing (s : State) (f : Ring → Ring) : State := { s with ring := f s.ring }

/-- A link of the ring is known to be in service; an instance knows its own two from its ports. -/
def State.linkUp (s : State) (i : Nat) : Bool :=
  if i = s.self then s.portUp true
  else if (i + 1) % max 1 s.count = s.self then s.portUp false
  else s.ring.links.contains i

/-- Hops from here to instance `j` in a direction, when every link on the way is in service. -/
def State.hops (s : State) (east : Bool) (j : Nat) : Option Nat :=
  let n := max 1 s.count
  let h := if east then (j + n - s.self) % n else (s.self + n - j) % n
  let ok := (upto h).all fun k => s.linkUp (if east then (s.self + k) % n else (s.self + n - 1 - k) % n)
  if j < n ∧ ok then some h else none

/-- The port towards instance `j`: fewer hops, east on a tie, the only one when one reaches it (R28, R374). -/
def State.towards (s : State) (j : Nat) : Option Bool :=
  match s.hops true j, s.hops false j with
  | some e, some w => some (decide (e ≤ w))
  | some _, none => some true
  | none, some _ => some false
  | none, none => none

/-- Send what waits for a port, in order within each channel, while its credit lasts; control messages have reserved
space and always go (R375). -/
def pump : List Flit → Vector Nat 3 → List Nat → List Flit × List Flit × Vector Nat 3
  | [], c, _ => ([], [], c)
  | f :: fs, c, stopped =>
    let v := Fin.ofNat 3 f.vc
    let free : Bool := match f.body with
      | .ctl _ => true
      | _ => false
    if !free ∧ (stopped.contains f.vc ∨ c.get v < f.body.flits) then
      let (w, o, d) := pump fs c (f.vc :: stopped)
      (f :: w, o, d)
    else
      let (w, o, d) := pump fs (if free then c else c.set v (c.get v - f.body.flits)) stopped
      (w, f :: o, d)

/-- Mode strap of a die-to-die port: 1 for the UCIe link, 2 for the on-die link (R44). -/
def State.portMode (s : State) (east : Bool) : Nat := if east then s.straps.eMode else s.straps.wMode

/-- Number of a die-to-die port: 0 west, 1 east. -/
def portNo (east : Bool) : Nat := if east then 1 else 0

/-- The retrain counter of module m in D2D_LANE_STATUS_x. -/
def laneRetrains (m : Nat) : Fld := ⟨16 * m, 8⟩

/-- A module of a UCIe link in service begins the standard's retrain sequence (R465). -/
def State.startRetrain (s : State) (east : Bool) (m : Fin 2) : State :=
  let d := (s.port east).mods[m]
  if s.portMode east = 1 ∧ s.portUp east ∧ d.inService ∧ d.retrainFrom.isNone then
    (s.modD2d east fun p =>
      { p with mods := p.mods.set m { p.mods[m] with retrainFrom := some s.clk.pkg, crc := [] } }).bumpSat
      (Reg.D2D_LANE_STATUS (portNo east)) (laneRetrains m)
  else s

/-- A flit CRC error of a module: the eighth within 1 ms begins its retrain (R465). -/
def State.crcError (s : State) (east : Bool) (m : Fin 2) : State :=
  let l := ((s.port east).mods[m].crc.filter fun t => decide (s.clk.pkg < t + 1000000)) ++ [s.clk.pkg]
  let t := s.modD2d east fun p => { p with mods := p.mods.set m { p.mods[m] with crc := l } }
  if 8 ≤ l.length then t.startRetrain east m else t

/-- What an injected fault does as a real one: the adapter replays, and a corrupted flit is a CRC error of the module that the
injector names (R467, R468, R512). -/
def State.injectedFault (s : State) (east : Bool) : State :=
  let r := Reg.D2D_INJ (portNo east)
  let t := (s.countPort 0x042 (8 + portNo east)).countPort 0x050 (8 + portNo east)
  if s.gf r Fld.D2D_INJ_KIND = 1 then t.crcError east (Fin.ofNat 2 (s.gf r Fld.D2D_INJ_MODULE)) else t

/-- The injector of a port draws for a flit of 256 B it sends; replay makes the fault good and no flit is lost (R467,
R468). -/
def State.injectFlit (s : State) (east : Bool) : State :=
  let r := Reg.D2D_INJ (portNo east)
  if s.bit r Fld.D2D_INJ_ENABLE ∧ s.portMode east = 1 then
    let k : Fin 11 := Fin.ofNat 11 (1 + portNo east)
    let rate := s.gf r Fld.D2D_INJ_RATE
    let (hit, x) := injDraw rate s.inj[k]
    let t := { s with inj := s.inj.set k x }
    if hit then
      let t := (t.bumpSat r Fld.D2D_INJ_INJECTED).injectedFault east
      if rate = 0 then t.sf r Fld.D2D_INJ_ENABLE 0 else t
    else t
  else s

/-- Return the credits of traffic whose receive buffer space has become free (R375). -/
def State.returnCredit (s : State) (came : Option (Bool × Nat)) (flits : Nat) : State :=
  match came with
  | some (e, v) =>
    let k : Fin 3 := Fin.ofNat 3 v
    s.modD2d e fun p => { p with returned := p.returned.set k (p.returned[k] + flits) }
  | none => s

/-- A request of another instance in transit. -/
def Flit.passing (self : Nat) (f : Flit) : Bool := decide (f.src ≠ self) && match f.body with
  | .request _ => true
  | _ => false

/-- Send what a port can send. -/
def State.pumpPort (s : State) (east : Bool) : State :=
  let (w, o, c) := pump (s.port east).waiting (s.port east).credits []
  let t := s.modD2d east fun p =>
    { p with waiting := w, sent := p.sent ++ o, credits := c, transit := p.transit ++ o.filter (Flit.passing s.self),
             headSince := if o.any fun f => f.vc = 2 then s.clk.pkg else p.headSince }
  o.foldl (fun t f =>
    ((upto f.body.flits).foldl (fun (u : State) _ => u.injectFlit east) t).returnCredit f.came f.body.flits) t

/-- Put traffic on a port. -/
def State.onPort (s : State) (east : Bool) (f : Flit) : State :=
  (s.modD2d east fun p => { p with waiting := p.waiting ++ [f] }).pumpPort east

/-- Send a control message to another instance; one that no port reaches is lost (R375). -/
def State.sendCtl (s : State) (dst : Nat) (c : Ctl) : State :=
  match s.towards dst with
  | some e => s.onPort e { vc := 1, src := s.self, dst := dst, body := .ctl c, since := s.clk.pkg }
  | none => s

/-- Broadcast a control message to every other instance (R375). -/
def State.broadcast (s : State) (c : Ctl) : State :=
  (upto s.count).foldl (fun t j => if j = s.self then t else t.sendCtl j c) s

/-! ### Request tagging (R519, R520) -/

/-- A tagged request passes a stage; only its first passage counts, a request sent over the ring passes none of 2 to 8,
and one that reached no slice leaves none (R520). -/
def State.stamp (s : State) (id stage time : Nat) : State :=
  let passed (t : TagRec) (k : Nat) : Bool := t.stamps.any fun x => x.1 = k
  { s with tags := { s.tags with live := s.tags.live.map fun t =>
      if t.id = id && !(passed t stage) && !(t.path = 5 && 2 ≤ stage) && (stage ≠ 8 || passed t 2) then
        { t with stamps := t.stamps ++ [(stage, time)] } else t } }

/-- The request that an access serves, as far as a slice or a half-pannier knows it (R520). -/
def State.ownerReq (s : State) (o : Owner) : Option Nat :=
  let ofSlice (sl : Fin 16) (ln : Nat) : Option Nat :=
    (s.paths.slices[sl].misses.find? fun m => m.line = ln).bind fun m => m.current.map (·.id)
  match o with
  | .fill sl ln _ => ofSlice sl ln
  | .readThrough sl ln _ => ofSlice sl ln
  | .writeThrough sl ln => ofSlice sl ln
  | .pannier h e _ => ((s.pcs[h].pan.find? fun x => x.id = e).bind fun x => x.reqs.head?).map (·.req.id)
  | _ => none

/-- The request of an access passes a stage at a PC (R520). -/
def State.stampAccess (s : State) (p : Fin 64) (o : Owner) (stage : Nat) : State :=
  match s.ownerReq o with
  | some id =>
    let t := s.stamp id stage (s.now (.pc p))
    { t with tags := { t.tags with live := t.tags.live.map fun x => if x.id = id then { x with pc := p } else x } }
  | none => s

/-- Change the record of a tagged request. -/
def State.modTag (s : State) (id : Nat) (f : TagRec → TagRec) : State :=
  { s with tags := { s.tags with live := s.tags.live.map fun t => if t.id = id then f t else t } }

/-- The narrow operations that are on their way to a half-pannier or held in one, in the order they will act on a burst
(R118, R119). -/
def State.narrows (s : State) : List Narrow :=
  (s.pcs.toList.flatMap fun c => c.pan.flatMap fun e => e.reqs.filter fun n => !e.closed || e.left.contains n.burst) ++
    s.paths.panXbar.map (·.2)

/-- The requests of this instance's requesters that are still on their way, and those of other instances in its slices. -/
def State.requests (s : State) : List Req :=
  s.paths.reqXbar ++ s.paths.fenceWait ++
    (s.paths.slices.toList.flatMap fun x => x.input ++ x.misses.flatMap fun m => m.current.toList ++ m.queue) ++
    s.narrows.map (·.req) ++ s.ring.west.outstanding ++ s.ring.east.outstanding

/-- A request for which the test holds is still on its way. -/
def State.travels (s : State) (hit : Req → Bool) : Bool := s.requests.any hit

/-- A request of this number is still on its way. -/
def State.inFlight (s : State) (id : Nat) : Bool := s.travels fun r => r.id = id

/-- A finished tagged request becomes a sample record of 64 bytes once its last beat has gone (R520, R521). -/
def TagRec.bytes (t : TagRec) (seq : Nat) : List Byte :=
  let at_ (k : Nat) : Option Nat := (t.stamps.find? fun x => x.1 = k).map (·.2)
  let t0 := (at_ 0).getD 0
  leBytes 8 t0 ++ ((upto 9).flatMap fun k => leBytes 4 (match at_ (k + 1) with
    | some x => x - t0
    | none => 0xFFFFFFFF)) ++
    leBytes 2 t.port ++ leBytes 1 (t.op % 16 + t.hint % 4 * 16) ++ leBytes 1 t.path ++ leBytes 1 t.status ++
    leBytes 1 t.cls ++ leBytes 1 t.pc ++ leBytes 1 t.slice ++ leBytes 4 seq ++ leBytes 8 t.addr

/-- The last response beat of a request has transferred: its record, if it has one, waits in the buffer of 64; a full
buffer drops it, which counts as event 0x072 (R521). -/
def State.endTag (s : State) (id time : Nat) (st : Status) : State :=
  match s.tags.live.find? fun t => t.id = id with
  | none => s
  | some t =>
    let r := { t with status := st.code, stamps := t.stamps ++ [(9, time)] }
    let seq := (s.rd Reg.CNT_TAG_SEQ).toNat
    let u := { s with tags := { s.tags with
      live := s.tags.live.filter (fun x => x.id ≠ id),
      wait := if s.tags.wait.length < 64 then s.tags.wait ++ [r.bytes seq] else s.tags.wait } }
    let u := u.wr Reg.CNT_TAG_SEQ (BitVec.ofNat 32 (seq + 1))
    if s.tags.wait.length < 64 then u else u.countIn 1 0x072 0 1

/-! ### Responses -/

/-- Merge the response of one line part into a host port's transaction (R54). The first part that is not OK gives the
status; the response is ready once no part is outstanding. -/
def HostTxn.part (t : HostTxn) (addr : Nat) (st : Status) (data : List Byte) : HostTxn :=
  { t with partsLeft := t.partsLeft - 1, ready := t.partsLeft ≤ 1,
           status := if t.status = .ok then st else t.status,
           rsp := patch t.rsp (addr - t.addr) data,
           hasData := t.hasData || !data.isEmpty }

/-- A failure that can overtake a READ on its way: its slice falls silent, the column shuts down, or its instance fails or goes
(R208, R463, R488). -/
def Status.overtakes (st : Status) : Bool := decide (st = .sliceFenced ∨ st = .thermalShutdown ∨ st = .absent)

/-- Answer one line part of a request to its requester (R54, R193). A request that came over the ring is answered over
the ring (R376). -/
def State.complete (s : State) (r : Req) (st : Status) (data : List Byte) : State :=
  let s := s.stamp r.id 8 (s.now (.slice (s.sliceOf r.addr)))
  match r.src with
  | .host n =>
    s.modPort n fun h => { h with txns := h.txns.map fun t => if t.id = r.id then t.part r.addr st data else t }
  | .d2d _ =>
    match s.ring.served.find? fun x => x.id = r.id with
    | none => s
    | some x =>
      let t := s.modRing fun g => { g with served := g.served.filter fun y => y.id ≠ r.id }
      let f : Flit := { vc := 1, src := s.self, dst := x.origin, since := s.clk.pkg,
                        body := .response x.originId r.part r.addr st data }
      match t.towards x.origin with
      | some e => t.onPort e f
      | none => t.modRing fun g => { g with dropped := g.dropped + 1 }
  | _ =>
    let now := s.now r.src.island
    let t := if s.travels fun x => x.id = r.id ∧ x.part ≠ r.part then s else s.endTag r.id now st
    if r.quiet ∧ !st.overtakes then t
    else t.modPaths fun x => { x with done := x.done ++ [{ req := r, status := st, data := data, at_ := now }] }

/-- Take the next unique number. -/
def State.freshId (s : State) : Nat := s.paths.nextId

/-- Use up `n` numbers. -/
def State.skipIds (s : State) (n : Nat) : State := s.modPaths fun x => { x with nextId := x.nextId + n }

/-- An ingress draws for a request it has accepted and begins its record when the draw tags it; one chosen while 16 are in
flight is not tagged and counts as event 0x071 (R519). -/
def State.draw (s : State) (port kind : Nat) (rec : TagRec) : State :=
  if s.bit Reg.CNT_TAG_CFG Fld.CNT_TAG_CFG_ENABLE ∧ (s.gf Reg.CNT_TAG_CFG Fld.CNT_TAG_CFG_SOURCES).testBit kind then
    let i : Fin 52 := Fin.ofNat 52 port
    let x := lfsrStep s.tags.lfsr[i]
    let hit : Bool := x % 2 ^ s.gf Reg.CNT_TAG_CFG Fld.CNT_TAG_CFG_K = 0
    let room : Bool := s.tags.live.length < 16
    let t := { s with tags := { s.tags with lfsr := s.tags.lfsr.set i x,
                                            live := if hit && room then s.tags.live ++ [rec] else s.tags.live } }
    if hit && !room then t.countIn 1 0x071 0 1 else t
  else s

/-- Kind of a requester in CNT_TAG_CFG.SOURCES; a host port draws as it accepts a request, and a request of another
instance was drawn for there (R519). -/
def Src.kind : Src → Option Nat
  | .firmware => some 1
  | .remote => some 2
  | .bme _ => some 3
  | _ => none

/-- Code of an operation in a sample record (R50, R521). -/
def HostOp.code : HostOp → Nat
  | .read => 0
  | .write => 1
  | .atomic => 2
  | .reduceInto => 3
  | .clean => 4
  | .reserved => 15

/-- Code of a hint (R50). -/
def Hint.code : Hint → Nat
  | .normal => 0
  | .stream => 1
  | .keep => 2
  | .last => 3

/-- The draw for the first line of a request of the block's own requesters (R519). -/
def State.drawFor (s : State) (r : Req) : State :=
  match r.src.kind with
  | some k =>
    if r.part = 0 ∧ r.src.port < 52 then
      s.draw r.src.port k
        { id := r.id, port := r.src.port, op := r.op.code, hint := r.hint.code, addr := r.addr, cls := r.cls, path := 0,
          pc := 255, slice := 255, status := 0, stamps := [(0, s.now r.src.island)] }
    else s
  | none => s

/-! ### Ingress (R28, R51, R208) -/

/-- A write of a BME: committed or dealt work, which its engine completes whatever ends its operation (R228, R241, R256).
DEDUCED: log entry 81, over a thermal shutdown it waits at the ingress. -/
def Req.kept (r : Req) : Bool := decide (r.op = .write) && match r.src with
  | .bme _ => true
  | _ => false

/-- A request at its requester's ingress, already well formed: to its slice, to the ring, or completed with ABSENT or
THERMAL_SHUTDOWN (R28, R51), all of them with ABSENT once the instance has failed (R463); one bound for a slice with
PENDING set waits (R208), and so does a BME's write during a shutdown. -/
def State.ingress (s : State) (r : Req) : State :=
  let s := (s.drawFor r).stamp r.id 1 (s.now r.src.island)
  if s.pwr.failed then s.complete r .absent [] else
  match s.route r.addr with
  | .hole => s.complete r .absent []
  | .own _ =>
    if s.shutdown then (if r.kept then s.modPaths fun x => { x with fenceWait := x.fenceWait ++ [r] }
      else s.complete r .thermalShutdown [])
    else if (s.gf Reg.CACHE_FENCE Fld.CACHE_FENCE_PENDING).testBit (s.sliceOf r.addr) then
      s.modPaths fun x => { x with fenceWait := x.fenceWait ++ [r] }
    else s.modPaths fun x => { x with reqXbar := x.reqXbar ++ [r] }
  | .other n =>
    match s.towards n with
    | none => s.complete r .absent []
    | some e =>
      let s := s.modTag r.id fun t => { t with path := 5 }
      (s.modD2d e fun p => { p with outstanding := p.outstanding ++ [r] }).onPort e
        { vc := 0, src := s.self, dst := n, body := .request r, since := s.clk.pkg }

/-- Send an access to a PC over the memory crossbar. -/
def State.sendAccess (s : State) (a : Access) : State :=
  { s with paths := { s.paths with memXbar := s.paths.memXbar ++ [(a.loc.pc, { a with id := s.paths.nextId })],
                                   nextId := s.paths.nextId + 1 } }

end Sys2Proof.Machine
end

