-- ==== Sys2Proof/Machine/Errors.lean ====
section
/-! DEFINITION. Error status shared by several families: the first-error capture (R444), the check-code unit's effects of
a read (R434, R435, R438, R441), row health events (R163) and redirect entries (R448). -/

namespace Sys2Proof.Machine

/-- Kinds of a first-error capture (PC_FEC_INFO.KIND, R470). -/
inductive FecKind where
  | uncorrectable | failedRetry | parity | sliceArray | bme | d2d | subport | kbOverflow
  deriving DecidableEq, Repr

/-- KIND code (R470). -/
def FecKind.code : FecKind → Nat
  | .uncorrectable => 0 | .failedRetry => 1 | .parity => 2 | .sliceArray => 3
  | .bme => 4 | .d2d => 5 | .subport => 6 | .kbOverflow => 7

/-- A physical location as PC_FEC_ADDR holds it with PHYS = 1 (R470). -/
def Loc.fecAddr (l : Loc) : Nat :=
  l.col + 2 ^ 4 * l.row + 2 ^ 19 * l.bank + 2 ^ 21 * l.bg + 2 ^ 23 * l.rank

/-- Load the first-error capture, or count the event as lost while it is frozen (R444). -/
def State.fec (s : State) (k : FecKind) (phys : Bool) (unit addr : Nat) : State :=
  if s.bit Reg.PC_FEC_INFO Fld.PC_FEC_INFO_VALID then s.bumpSat Reg.PC_FEC_INFO Fld.PC_FEC_INFO_LOST
  else
    ((s.wr Reg.PC_FEC_INFO
        (BitVec.ofNat 32 (2 ^ 31 + (if phys then 2 ^ 30 else 0) + k.code * 2 ^ 27 + unit % 256 * 2 ^ 8))).wr64
      Reg.PC_FEC_ADDR (addr % 2 ^ 52)).wr64 Reg.PC_FEC_TIME s.clk.pkg

/-- The capture of an access: its package address where it carries one, else its physical location (R444). -/
def State.fecAccess (s : State) (k : FecKind) (a : Access) : State :=
  match a.addr with
  | some x => s.fec k false a.loc.pc (x / 64 * 64)
  | none => s.fec k true a.loc.pc a.loc.fecAddr

/-- Queue a check-code event for the row health table; a full queue drops it (R163). -/
def State.rowEvent (s : State) (l : Loc) (ue : Bool) : State :=
  let p := pcFin l.pc
  if s.pcs[p].events.length < 16 then
    s.modPc p fun c => { c with events := c.events ++ [{ loc := l, uncorrectable := ue, time := s.now (.pc p) }] }
  else s.raise (Reg.PC_REF_STATUS p) Fld.PC_REF_STATUS_ROWH_EVENTS_LOST

/-- States of a redirect entry (R448, PC_REDIR.STATE). -/
inductive MoveState where
  | queued | copying | synced | bound
  deriving DecidableEq, Repr

/-- STATE code of a redirect entry. -/
def MoveState.code : MoveState → Nat
  | .queued => 0 | .copying => 1 | .synced => 2 | .bound => 3

/-- The state of a STATE code. -/
def MoveState.ofCode : Nat → MoveState
  | 0 => .queued | 1 => .copying | 2 => .synced | _ => .bound

/-- One entry of the redirect table, read out of PC_REDIR_e (R448). -/
structure Redir where
  valid : Bool
  state : MoveState
  cause : Nat
  origin : Nat
  src : Nat
  dst : Nat
  redo : Bool
  wm : Nat
  deriving DecidableEq, Repr

/-- Read redirect entry `e` (PC_REDIR_e, R470). -/
def State.redir (s : State) (e : Nat) : Redir :=
  let x := s.rd64 (Reg.PC_REDIR e)
  { valid := x.testBit 63, state := .ofCode (natBits x 60 3), cause := natBits x 56 4, origin := natBits x 48 8,
    src := natBits x 40 8, dst := natBits x 32 8, redo := x.testBit 19, wm := natBits x 0 19 }

/-- The 64 bits of a redirect entry (R470). -/
def Redir.word (r : Redir) : Nat :=
  (if r.valid then 2 ^ 63 else 0) + r.state.code * 2 ^ 60 + r.cause % 16 * 2 ^ 56 + r.origin % 256 * 2 ^ 48 +
    r.src % 256 * 2 ^ 40 + r.dst % 256 * 2 ^ 32 + (if r.redo then 2 ^ 19 else 0) + r.wm % 2 ^ 19

/-- Write redirect entry `e`. -/
def State.setRedir (s : State) (e : Nat) (r : Redir) : State := s.wr64 (Reg.PC_REDIR e) r.word

/-- Units of a rank (R449). -/
def rankUnits : Nat := 393216

/-- State of a rank (PC_RANK_STATE, R470). -/
def State.rankState (s : State) (r : Nat) : Nat := natBits (s.rd (Reg.PC_RANK_STATE (r / 8))).toNat (4 * (r % 8)) 4

/-- Set the state of a rank. -/
def State.setRank (s : State) (r v : Nat) : State :=
  s.wr (Reg.PC_RANK_STATE (r / 8)) (BitVec.ofNat 32 (natSetBits (s.rd (Reg.PC_RANK_STATE (r / 8))).toNat (4 * (r % 8)) 4 v))

/-- The redirect entry that carries a rank now as FROM, if any. -/
def State.redirOf (s : State) (rank : Nat) : Option Nat :=
  (upto 16).find? fun e => (s.redir e).valid && decide ((s.redir e).src = rank)

/-- The redirect entry that carries the contents of a rank of the range now, wherever they are (R448, R455). -/
def State.originOf (s : State) (rank : Nat) : Option Nat :=
  (upto 16).find? fun e => (s.redir e).valid && decide ((s.redir e).origin = rank)

/-- A write that the redirect stage has sent from a location of FROM to TO has a copy at FROM: the move is not BOUND (R450). -/
def State.mirrored (s : State) (fr dst : Loc) : Bool :=
  decide (fr.rank ≠ dst.rank) &&
    (match s.redirOf fr.rank with
     | some e => decide ((s.redir e).state ≠ .bound)
     | none => (s.originOf fr.rank).isNone)

/-- The location a redirect entry leads to. -/
def Redir.to (r : Redir) (l : Loc) : Loc := { l with rank := r.dst }

/-- A burst of FROM that becomes known bad while its unit is being copied is copied again, as after a write (R451,
R503). -/
def State.redoFor (s : State) (l : Loc) : State :=
  match s.redirOf l.rank with
  | some e =>
    let r := s.redir e
    if r.state = .copying ∧ l.unit = r.wm ∧ s.copiers[Fin.ofNat 16 e].started then s.setRedir e { r with redo := true } else s
  | none => s

/-- The arguments of a known-bad record that name its burst (17, log codes of the chapter). -/
def Loc.kbArgs (l : Loc) (p : Nat) : List Nat := [p, l.rank, l.row * 16 + l.bg * 4 + l.bank + l.col * 2 ^ 28]

/-- Add a burst to its PC's known-bad list of 64, or set KB_OVERFLOW (R441); firmware logs either as record 0x0072. -/
def State.kbAdd (s : State) (l : Loc) (addr : Option Nat) : State :=
  let p := pcFin l.pc
  if s.pcs[p].knownBad.contains l.burst then s
  else if s.pcs[p].knownBad.length < 64 then
    ((s.redoFor l).modPc p fun c => { c with knownBad := c.knownBad ++ [l.burst] }).logRec 0x0072 (l.kbArgs p ++ [0])
  else
    let t := s.raise (Reg.PC_ECC_STATUS p) Fld.PC_ECC_STATUS_KB_OVERFLOW
    let u := match addr with
      | some x => t.fec .kbOverflow false p (x / 64 * 64)
      | none => t.fec .kbOverflow true p l.fecAddr
    u.logRec 0x0072 (l.kbArgs p ++ [1])

/-- Free a known-bad entry after a completed write of all 64 bytes (R441). -/
def State.kbFree (s : State) (l : Loc) : State :=
  s.modPc (pcFin l.pc) fun c => { c with knownBad := c.knownBad.filter (· ≠ l.burst) }

/-- Count a corrected burst of a lane; at the limit LANE_SUSPECT is set and the lane reported (R421, R435). -/
def State.laneCount (s : State) (p : Fin 64) (lane : Nat) : State :=
  let c := s.pcs[p]
  let n := c.laneCe.toList.getD lane 0 + 1
  let t := s.modPc p fun c => { c with laneCe := c.laneCe.set (Fin.ofNat 36 lane) n }
  let hit : Bool := n = c.ceLimit
  (t.raiseIf hit (Reg.PC_TRUE_STATUS p) Fld.PC_TRUE_STATUS_LANE_SUSPECT).modPc p fun c =>
    { c with laneSuspect := if hit then c.laneSuspect ++ [lane] else c.laneSuspect }

/-- Who reads decides what an uncorrectable read starts: a requester's starts cause 1 (R445), a copier's, scrub's or
margin engine's read starts none (R172, R453). -/
def Owner.isRequester : Owner → Bool
  | .copyRead _ => false
  | .copyWrite _ => false
  | .margin => false
  | .scrub => false
  | _ => true

/-- The lane of the package that carries a lane of the code at a PC: the spare MEM_p_SDQ[0] or [1], numbered 36 and 37, when
PC_LANE_MAP gives it the lane (R435). DEDUCED: log entry 85, LAST_CE_LANE ranges over 0–37 and the code has 36 lanes. -/
def State.physLane (s : State) (p : Fin 64) (lane : Nat) : Nat :=
  if s.gf (Reg.PC_LANE_MAP p) Fld.PC_LANE_MAP_SDQ0_FOR = lane then 36
  else if s.gf (Reg.PC_LANE_MAP p) Fld.PC_LANE_MAP_SDQ1_FOR = lane then 37
  else lane

/-- The effects of one decoded read besides its data (R434, R438, R441). -/
def State.readEffects (s : State) (a : Access) (d : Decode) : State :=
  let p := pcFin a.loc.pc
  let ecc := Reg.PC_ECC_STATUS p
  match d with
  | .clean => s
  | .corrected lane _ =>
    (((s.raise ecc Fld.PC_ECC_STATUS_CE).sf ecc Fld.PC_ECC_STATUS_LAST_CE_LANE (s.physLane p lane)).laneCount p
      lane).rowEvent a.loc false
  | .poisoned => s.raise ecc Fld.PC_ECC_STATUS_POISON_READ
  | .uncorrectable =>
    let t := (((s.raise ecc Fld.PC_ECC_STATUS_UE).rowEvent a.loc true).kbAdd a.loc a.addr).fecAccess .uncorrectable a
    if a.owner.isRequester then t.cause a.loc.rank 1 else t

/-- A repair event, which a ledger snapshot follows within 1 s (R429). -/
def State.repairEvent (s : State) : State :=
  { s with age := { s.age with eventAt := some (s.age.eventAt.getD s.clk.pkg) } }

/-- Seconds of service and the service day (R426). -/
def State.serviceNow (s : State) : Nat := s.age.service + (s.clk.pkg - s.age.serviceAt) / 1000000000
def State.serviceDay (s : State) : Nat := s.serviceNow / 86400

/-- Routing of an access to rank FROM at FROM's PC (R450): whether it enters here, whether a copy goes to TO, and
whether it sets REDO (R451). The copier's own accesses go where they are sent. -/
def redirRoute (r : Redir) (a : Access) (copierStarted : Bool) : Bool × Bool × Bool :=
  let u := a.loc.unit
  match r.state with
  | .queued => (true, false, false)
  | .copying =>
    if u < r.wm then (a.write, true, false)
    else if u = r.wm then (true, false, a.write && copierStarted)
    else (true, false, false)
  | .synced => (a.write, true, false)
  | .bound => (false, true, false)

end Sys2Proof.Machine
end

