-- ==== Sys2Proof/Machine/PcOps.lean ====
section
/-! DEFINITION. The PC controller's queues, timing and data paths (04, 05): what the commands of Pc.lean are made of. -/

namespace Sys2Proof.Machine

/-! ### The controller clock (R99) -/

/-- Tenths of controller cycles per nanosecond at a rate code: one eighth of the data rate chosen at training (R99). -/
def cycleTenths (rate : Nat) : Nat := 16 - 2 * min 4 rate

/-- Tenths of cycles that the clock of PC `p` has given and no cycle has used (R99). -/
def State.cyclesDue (s : State) (p : Fin 64) : Nat :=
  s.pcs[p].due + (s.clk.raw - s.pcs[p].dueAt) * cycleTenths s.age.rate

/-- The cycle that PC `p` counts has begun. -/
def State.cycleRuns (s : State) (p : Fin 64) : Bool := decide (10 ≤ s.cyclesDue p)

/-- Settle the cycles given so far, before the rate changes or the clock stops. -/
def State.settleCycles (s : State) (p : Fin 64) : State :=
  s.modPc p fun c => { c with due := s.cyclesDue p, dueAt := s.clk.raw }

/-! ### Timing (R104 to R107) -/

/-- A timing parameter that has been met: no event yet, or `n` cycles since it. -/
def since (cycle : Nat) (ev : Option Nat) (n : Nat) : Bool :=
  match ev with
  | none => true
  | some t => t + n ≤ cycle

/-- Two banks of one bank group: same layer group and bank-group number (R104). -/
def sameGroup (k m : Nat) : Bool := k / 4 = m / 4

/-- The floor of TRTW, RL − WL + 4 (R107). -/
def trtwFloor (s : State) (p : Nat) : Nat :=
  s.gf (Reg.PC_TIM_COL p) Fld.PC_TIM_COL_RL + 4 - s.gf (Reg.PC_TIM_COL p) Fld.PC_TIM_COL_WL

/-- The read-to-write spacing in force (R107). -/
def trtwOf (s : State) (p : Nat) : Nat := max (s.gf (Reg.PC_TIM_TURN p) Fld.PC_TIM_TURN_TRTW) (trtwFloor s p)

/-- Whether a refresh, an activate or a targeted activate of bank `k` meets TRRDL, TRRDS and TFAW (R109). -/
def actSpacing (s : State) (p : Nat) (c : Pc) (k : Nat) : Bool :=
  (c.acts.all fun (t, m) =>
      t + (if sameGroup k m then s.gf (Reg.PC_TIM_ROW p) Fld.PC_TIM_ROW_TRRDL
           else s.gf (Reg.PC_TIM_ROW p) Fld.PC_TIM_ROW_TRRDS) ≤ c.cycle) &&
    decide ((c.acts.filter fun (t, _) => c.cycle < t + s.gf (Reg.PC_TIM_ROW p) Fld.PC_TIM_ROW_TFAW).length < 4)

/-- Whether an open bank may be precharged by the words `row` of PC_TIM_ROW and `col` of PC_TIM_COL: TRAS, TRTP and TWR met
(R109). -/
def Bank.mayClose (b : Bank) (cycle : Nat) (row col : Word) : Bool :=
  since cycle b.actAt (natBits row.toNat Fld.PC_TIM_ROW_TRAS.lo Fld.PC_TIM_ROW_TRAS.width) &&
    since cycle b.rdAt (natBits col.toNat Fld.PC_TIM_COL_TRTP.lo Fld.PC_TIM_COL_TRTP.width) &&
    since cycle b.wrEndAt (natBits col.toNat Fld.PC_TIM_COL_TWR.lo Fld.PC_TIM_COL_TWR.width)

/-- Whether an open bank may be precharged by the timing in force (R109). -/
def mayPrecharge (s : State) (p : Nat) (c : Pc) (b : Bank) : Bool :=
  b.mayClose c.cycle (s.rd (Reg.PC_TIM_ROW p)) (s.rd (Reg.PC_TIM_COL p))

/-- Whether a closed bank may be activated: TRP met, bank available, activate spacing met (R109, R153). -/
def mayActivate (s : State) (p : Nat) (c : Pc) (k : Nat) : Bool :=
  let b := c.bankOf k
  b.row.isNone && decide (b.readyAt ≤ c.cycle) &&
    since c.cycle b.preAt (s.gf (Reg.PC_TIM_ROW p) Fld.PC_TIM_ROW_TRP) && actSpacing s p c k

/-- Whether a column command to bank `k` meets the spacings from the earlier ones to bank `m`: TCCDL or TCCDS from one of
its own kind, TWTRL or TWTRS from the end of write data (R104, R107). -/
def columnSpacing (s : State) (p : Nat) (c : Pc) (k : Nat) (write : Bool) (m : Nat) : Bool :=
  let same := sameGroup k m
  let ccd := if same then s.gf (Reg.PC_TIM_COL p) Fld.PC_TIM_COL_TCCDL else s.gf (Reg.PC_TIM_COL p) Fld.PC_TIM_COL_TCCDS
  let wtr :=
    if same then s.gf (Reg.PC_TIM_TURN p) Fld.PC_TIM_TURN_TWTRL else s.gf (Reg.PC_TIM_TURN p) Fld.PC_TIM_TURN_TWTRS
  let b := c.bankOf m
  if write then since c.cycle b.wrAt ccd else since c.cycle b.rdAt ccd && since c.cycle b.wrEndAt wtr

/-- Whether a column command meets TRCD, TCCDS, TCCDL, TWTRS, TWTRL and TRTW (R104, R107, R115). -/
def mayColumn (s : State) (p : Nat) (c : Pc) (k : Nat) (write : Bool) : Bool :=
  since c.cycle (c.bankOf k).actAt (s.gf (Reg.PC_TIM_ROW p) Fld.PC_TIM_ROW_TRCD) &&
    (!write || since c.cycle (c.lastRd.map (·.1)) (trtwOf s p)) &&
    (upto 64).all (columnSpacing s p c k write)

/-! ### Queue occupancy (R36, R100, R101, R119, R148) -/

/-- Whether an access belongs to a run of the copier or the margin engine (R148). -/
def Owner.inRun (o : Owner) : Bool :=
  match o with
  | .copyRead _ => true
  | .copyWrite _ => true
  | .margin => true
  | _ => false

/-- Places the intake pool holds for a class: its entries, and the accesses of runs that are granted but whose column
command has not issued, a write that was merged into an entry included (R148). DESIGN CHOICE: log entry 96, an access of a
run that needs no column command, because its read is served from the write queue or its burst is known bad, frees its
place at its grant. -/
def Pc.held (c : Pc) (cls : Nat) : Nat :=
  (c.pool.filter fun e => e.acc.cls = cls).length +
    (c.rq.filter fun e => e.acc.cls = cls ∧ e.run.isSome ∧ e.issuedAt.isNone).length +
    (((c.wq.filter fun e => e.issuedAt.isNone).flatMap (·.from_)).filter fun f => f.1.inRun ∧ f.2 = cls).length

/-- Entries of the shared part of the pool in use: those of each class beyond its 8 reserved ones (R36, R37). -/
def Pc.sharedUsed (c : Pc) : Nat := ((upto 8).map fun k => c.held k - 8).sum

/-- Whether the pool has room for an access of a class (R36). -/
def Pc.hasRoom (c : Pc) (cls : Nat) : Bool := c.held cls < 8 || c.sharedUsed < 1280

/-- Whether a pannier burst holds a narrow write, and so becomes a write of all 64 bytes: its entry stands in the half-pannier
of its home PC, wherever the redirect stage has sent the burst (R119, R450). -/
def State.burstWrites (s : State) (o : Owner) : Bool :=
  match o with
  | .pannier h e b => s.pcs[h].pan.any fun x => x.id = e ∧ x.reqs.any fun n => n.burst = b ∧ n.req.op ≠ .read
  | _ => false

/-- Write-queue entries in use, with one kept for every pannier burst that has been granted and will write (R101, R119).
DESIGN CHOICE: log entry 75, the spec does not say what a pannier write does when the write queue is full, so its grant
keeps the entry it will need, and a write can be ineligible while the queue has a free entry. -/
def State.wqUsed (s : State) (p : Fin 64) : Nat :=
  let c := s.pcs[p]
  c.wq.length + (c.rq.filter fun e => s.burstWrites e.acc.owner).length +
    (c.fwd.filter fun e => s.burstWrites e.acc.owner).length

/-- A write mask that covers all 64 bytes (R114). -/
def fullMask (m : List Bool) : Bool := m.all id

/-- Whether the target queue of an access has a free entry (R101); a partial write needs both queues (R114), and so
does a pannier burst that will write (R119). -/
def State.queueFree (s : State) (p : Fin 64) (a : Access) : Bool :=
  let room : Bool := decide (s.pcs[p].rq.length < 64)
  if a.write then decide (s.wqUsed p < 48) && (fullMask a.mask || room)
  else room && (!s.burstWrites a.owner || decide (s.wqUsed p < 48))

/-- Whether an access of a run may be granted: its run is not suspended (R149). -/
def Pc.runAllows (c : Pc) (e : PoolEntry) : Bool :=
  e.run.isNone ||
    (if e.acc.cls = 6 then (c.run6.map fun r => !r.suspended).getD true
     else (c.run7.map fun r => !r.suspended).getD true)

/-- Two accesses of which the younger waits for the older one's grant: the same burst (R134), or bursts of one entry of a
half-pannier, which are granted in burst order (R119). -/
def Access.behind (a older : Access) : Bool :=
  decide (a.loc.burst = older.loc.burst) ||
    (match a.owner, older.owner with
     | .pannier h e _, .pannier h' e' _ => decide (h = h') && decide (e = e')
     | _, _ => false)

/-- Whether an owner is a burst of entry `e` of the half-pannier of PC `h`. -/
def Owner.ofEntry (o : Owner) (h : Fin 64) (e : Nat) : Bool :=
  match o with
  | .pannier h' e' _ => decide (h = h') && decide (e = e')
  | _ => false

/-- A pannier burst at PC `p` waits for an entry of its row that was allocated before its own: until the last burst of that one
has completed and its last write has issued (R118). -/
def State.rowWaits (s : State) (p : Fin 64) (a : Access) : Bool :=
  match a.owner with
  | .pannier h e _ =>
    match s.pcs[h].pan.find? fun x => x.id = e with
    | none => false
    | some x =>
      (s.pcs[h].pan.any fun y => y.id < e ∧ y.loc.sameRow x.loc ∧ (!y.placed ∨ !y.left.isEmpty)) ||
        s.pcs[p].wq.any fun w => w.issuedAt.isNone ∧ w.acc.loc.sameRow a.loc ∧ w.from_.any fun f =>
          match f.1 with
          | .pannier h' e' _ => decide (h' = h) && decide (e' < e)
          | _ => false
  | _ => false

/-- The eligible accesses among those of the pool of PC `p`, oldest first: a grant follows pool entry by at least 2 cycles
(R131, R134). -/
def eligibleFrom (s : State) (p : Fin 64) : List Access → List PoolEntry → List PoolEntry
  | _, [] => []
  | older, e :: r =>
    let rest := eligibleFrom s p (e.acc :: older) r
    if e.at_ + 2 ≤ s.pcs[p].cycle ∧ s.queueFree p e.acc ∧ !(older.any e.acc.behind) ∧ s.pcs[p].runAllows e ∧
        !s.rowWaits p e.acc then e :: rest else rest

/-- The eligible accesses of the pool of PC `p` (R134). -/
def State.grantable (s : State) (p : Fin 64) : List PoolEntry := eligibleFrom s p [] s.pcs[p].pool

/-! ### The arbiter's choice (R132 to R138, R145) -/

/-- Owner code of a slot in the active table (R133). -/
def State.slotOwner (s : State) (p slot : Nat) : Nat :=
  natBits (s.rd (Reg.SLOT_ACTIVE p (slot / 8))).toNat (4 * (slot % 8)) 4

/-- Live priority of a class (R137). -/
def State.classPrio (s : State) (cls : Nat) : Nat := natBits (s.rd Reg.SLOT_CLASS_PRIO).toNat (4 * cls) 4

/-- The eligible access of highest priority, oldest among equals (R135). -/
def bestByPrio (s : State) : List PoolEntry → Option PoolEntry
  | [] => none
  | e :: r =>
    match bestByPrio s r with
    | none => some e
    | some f => if s.classPrio e.acc.cls < s.classPrio f.acc.cls then some f else some e

/-- The access the arbiter grants in this cycle, if any (R135): an owned slot grants only where its first cycle evaluated
and admitted it, and BG_HOLD counts as the slot took it (R145). -/
def arbiterPick (s : State) (p : Fin 64) : Option PoolEntry :=
  let c := s.pcs[p]
  let el := s.grantable p
  let owner := s.slotOwner p (s.gf (Reg.SLOT_STATUS p) Fld.SLOT_STATUS_SLOT)
  let n := s.gf (Reg.SLOT_CTRL p) Fld.SLOT_CTRL_STARVE_N
  if owner < 8 ∧ c.slotAdmitted ≠ some true then none
  else
    let own := if owner < 8 then el.find? fun e => e.acc.cls = owner else none
    let pick := own.or (if c.bgHold then none else bestByPrio s el)
    match pick with
    | none => none
    | some e => if n ≤ c.starve + 1 then el.head? else some e

/-! ### Data to its owner -/

/-- Release one narrow request's hold on its line lock (R31). -/
def Miss.narrowDone (m : Miss) : Miss :=
  if m.narrowLeft ≤ 1 then { m with narrowLeft := 0, kind := .waiting, current := none }
  else { m with narrowLeft := m.narrowLeft - 1 }

/-- Keep a miss entry that locks its line, holds a request or has a drop to carry out. -/
def keepMiss (m : Miss) : Bool := !(decide (m.kind = .waiting) && m.queue.isEmpty && m.drop.isNone)

/-- The reduction entry of a line (R201). -/
def Slice.red (x : Slice) (ln : Nat) : Option RedEntry := x.reds.find? fun e => e.line = ln

/-- Status of a READ by the line's reduction entry: PARTIAL while it is OPEN (R205). -/
def Slice.readStatus (x : Slice) (ln : Nat) : Status :=
  match x.red ln with
  | some e => if e.complete then .ok else .partialData
  | none => .ok

/-- A narrow request completes: its slice is told and the lock goes when it was the last (R31, R120). A read's status is that
of its line (R205); a slice that no longer answers completes it with SLICE_FENCED (R208). -/
def State.narrowDone (s : State) (n : Narrow) (st : Status) (data : List Byte) : State :=
  let x := s.paths.slices[n.slice]
  let st' : Status := if !x.alive then .sliceFenced
    else if n.req.op = .read ∧ st = .ok then x.readStatus (lineNo n.req.addr) else st
  (s.complete n.req st' (if x.alive then data else [])).modSlice n.slice fun sl =>
    { sl with misses := (sl.misses.map fun m =>
        if m.line = lineNo n.req.addr ∧ m.kind = .pannier then m.narrowDone else m).filter keepMiss }

/-- Bytes selected by a mask taken from `new`, the others from `old` (R112, R114). -/
def mergeBytes (old new : List Byte) (mask : List Bool) : List Byte :=
  (upto 64).map fun i => if mask.getD i false then new.getD i 0 else old.getD i 0

/-- The union of two byte masks. -/
def orMask (a b : List Bool) : List Bool := (upto 64).map fun i => a.getD i false || b.getD i false

/-- An access of the debug port (R147). -/
def Access.isDebug (a : Access) : Bool := decide (a.owner = .debug)

/-- A write-queue entry for a write granted in cycle `g` (R100, R114). -/
def Access.wqEntry (a : Access) (g : Nat) (merging : Bool) : WqEntry :=
  { acc := a, grantAt := g, issuedAt := none, endAt := 0, merging := merging, from_ := [(a.owner, a.cls)],
    retryFailed := false }

/-- Put a write granted in cycle `g` into the write queue: it merges into an unissued entry of its location, else it takes an
entry at the place of its grant (R102, R112). -/
def Pc.enterWrite (c : Pc) (a : Access) (g : Nat) : Pc :=
  if c.wq.any fun w => w.issuedAt.isNone ∧ w.acc.loc = a.loc then
    { c with wq := c.wq.map fun w =>
        if w.issuedAt.isNone ∧ w.acc.loc = a.loc then
          { w with from_ := w.from_ ++ [(a.owner, a.cls)],
                   acc := { w.acc with data := mergeBytes w.acc.data a.data a.mask, mask := orMask w.acc.mask a.mask,
                                       poison := if fullMask a.mask then a.poison else w.acc.poison || a.poison } }
        else w }
  else
    { c with wq := (c.wq.filter fun w => w.grantAt ≤ g) ++ [a.wqEntry g false] ++ c.wq.filter fun w => g < w.grantAt }

/-- Apply the narrow operations of a burst in order: the image after them, and what each narrow request returns
(R119). -/
def applyNarrow : List Narrow → List Byte → List Byte × List (Narrow × List Byte)
  | [], img => (img, [])
  | n :: r, img =>
    if n.req.op = .read then
      let (i, out) := applyNarrow r img
      (i, (n, sliceBytes img n.offset n.req.size) :: out)
    else
      let wr := (upto 64).map fun k =>
        if n.offset ≤ k ∧ n.req.strb.getD (k - n.offset) false then n.req.data.getD (k - n.offset) 0 else img.getD k 0
      let (i, out) := applyNarrow r wr
      (i, (n, []) :: out)

/-- The bytes of a burst that the narrow writes cover together (R120). -/
def narrowMask (l : List Narrow) : List Bool :=
  (upto 64).map fun k => l.any fun n =>
    n.req.op ≠ .read ∧ n.offset ≤ k ∧ n.req.strb.getD (k - n.offset) false

/-- Put an access into the pool list of PC `p`, as its youngest entry (R100, R131, R134). -/
def Pc.enterPool (c : Pc) (a : Access) : Pc :=
  { c with pool := c.pool ++ [{ acc := a, at_ := c.cycle, no := c.poolNext,
                                run := if a.owner.inRun then some a.loc.col else none }],
           poolNext := c.poolNext + 1 }

/-- A pannier burst granted in cycle `g` has its read at PC `p`: its narrow operations are applied, its reads answered, and a
burst with a write enters the write queue as a full write of that grant (R102, R119, R120). Of a burst that the redirect
stage sent to TO's PC below WM, or SYNCED, FROM's copy of the write enters FROM's pool (R450). -/
def State.pannierBurst (s : State) (p home : Fin 64) (a : Access) (entry burst g : Nat) (data : List Byte) (bad : Bool) :
    State :=
  match s.pcs[home].pan.find? fun x => x.id = entry with
  | none => s
  | some x =>
    let ns := x.reqs.filter fun n => n.burst = burst
    let (img, outs) := applyNarrow ns data
    let hasW := ns.any fun n => n.req.op ≠ .read
    let cover := fullMask (narrowMask ns)
    let wr : Access := { a with write := true, data := img, mask := List.replicate 64 true, poison := bad && !cover }
    let t := s.modPc home fun c =>
      { c with pan := c.pan.map fun y => if y.id = entry then { y with left := y.left.filter (· ≠ burst) } else y }
    let t := if hasW then t.modPc p fun c => c.enterWrite wr g else t
    let t := if hasW ∧ s.mirrored x.loc a.loc then
        (t.skipIds 1).modPc home fun c =>
          c.enterPool { wr with id := t.paths.nextId, loc := { wr.loc with rank := x.loc.rank }, owner := .mirror } else t
    outs.foldl (fun t (n, d) =>
      if n.req.op = .read then t.narrowDone n (if bad then .poisoned else .ok) (if bad then zeros n.req.size else d)
      else t.narrowDone n .ok []) t

/-- An access of a run has completed; the run ends with its last one (R148). -/
def Pc.runDone (c : Pc) (cls : Nat) : Pc :=
  let step (r : Option Run) : Option Run :=
    match r with
    | none => none
    | some x => if x.len ≤ x.done + 1 then none else some { x with done := x.done + 1 }
  if cls = 6 then { c with run6 := step c.run6 } else { c with run7 := step c.run7 }

/-- Data of a read granted in cycle `g` reaches its owner: a pannier burst, or the return path to a slice, a BME, the copier,
the margin engine, the scrub or the debug port (R100, R103). -/
def State.deliver (s : State) (p : Fin 64) (a : Access) (g : Nat) (data : List Byte) (bad : Bool) : State :=
  match a.owner with
  | .pannier h e b => s.pannierBurst p h a e b g data bad
  | o =>
    let t := s.modPaths fun x =>
      { x with rets := x.rets ++ [{ owner := o, loc := a.loc, data := if bad then zeros 64 else data, bad := bad }] }
    if o.inRun then t.modPc p fun c => c.runDone a.cls else t

/-- The verified data of a merge read completes a MERGE entry, and the reads that wait for it are served from it
(R114). -/
def State.settleMerge (s : State) (p : Fin 64) (wid : Nat) (data : List Byte) (bad : Bool) : State :=
  match s.pcs[p].wq.find? fun w => w.acc.id = wid with
  | none => s
  | some w =>
    let img := mergeBytes data w.acc.data w.acc.mask
    let pz := w.acc.poison || (bad && !fullMask w.acc.mask)
    let waits := s.pcs[p].rq.filter fun r => r.issuedAt.isNone ∧ r.acc.loc = w.acc.loc ∧ w.grantAt < r.grantAt
    let t := s.modPc p fun c =>
      { c with wq := c.wq.map fun v =>
                 if v.acc.id = wid then
                   { v with merging := false,
                            acc := { v.acc with data := img, mask := List.replicate 64 true, poison := pz } }
                 else v,
               rq := c.rq.filter fun r => !waits.contains r }
    waits.foldl (fun t r => t.deliver p r.acc r.grantAt img pz) t

/-! ### Grants (R100, R111, R112, R114, R441) -/

/-- The youngest write-queue entry of a location as the queue stood at the start of the grant cycle: one freed in this cycle
still matches, and what this cycle has put into the queue does not show (R111). An entry whose merge has completed in this
cycle counts as it stands now (R114). -/
def Pc.matching (c : Pc) (l : Loc) : Option WqEntry :=
  (c.wqStart.filter fun w => w.acc.loc = l).getLast?.map fun w =>
    if w.merging then (c.wq.find? fun v => v.acc.id = w.acc.id).getD w else w

/-- Grant a read: it is served from the youngest matching write-queue entry, waits for one in the MERGE state, is
answered from the known-bad list, or takes a read-queue entry (R111, R114, R441). DESIGN CHOICE: log entry 97, a read that
is served from the write queue holds no read-queue entry for its 3 cycles. -/
def State.grantRead (s : State) (p : Fin 64) (e : PoolEntry) : State :=
  let c := s.pcs[p]
  let entry : RqEntry :=
    { acc := e.acc, poolAt := e.at_, poolNo := e.no, grantAt := c.cycle, issuedAt := none, dataAt := 0, run := e.run,
      image := [] }
  match c.matching e.acc.loc with
  | some w =>
    s.modPc p fun c =>
      if w.merging then { c with rq := c.rq ++ [entry] }
      else { c with fwd := c.fwd ++ [{ acc := e.acc, grantAt := c.cycle, data := w.acc.data, bad := w.acc.poison }] }
  | none =>
    if c.knownBad.contains e.acc.loc.burst then
      (s.raise (Reg.PC_ECC_STATUS p) Fld.PC_ECC_STATUS_POISON_READ).deliver p e.acc c.cycle (zeros 64) true
    else s.modPc p fun c => { c with rq := c.rq ++ [entry] }

/-- A read's data, or the known-bad list's answer, reaches who waits for it: a MERGE entry of the queue, or its owner (R100,
R114). -/
def State.serveRead (s : State) (p : Fin 64) (a : Access) (g : Nat) (data : List Byte) (bad : Bool) : State :=
  match a.owner with
  | .mergeRead w => s.settleMerge p w data bad
  | _ => s.deliver p a g data bad

/-- Grant a write: it merges into an unissued entry of its location (R112), and a partial one takes an entry in the MERGE state
with a merge read, which is granted like any read: served from an issued entry of its location, answered from the known-bad
list, or queued (R111, R114, R441). -/
def State.grantWrite (s : State) (p : Fin 64) (e : PoolEntry) : State :=
  let c := s.pcs[p]
  if fullMask e.acc.mask ∨ (c.wq.any fun w => w.issuedAt.isNone ∧ w.acc.loc = e.acc.loc) then
    s.modPc p fun c => c.enterWrite e.acc c.cycle
  else
    let read : Access := { e.acc with write := false, owner := .mergeRead e.acc.id }
    let t := s.modPc p fun c => { c with wq := c.wq ++ [e.acc.wqEntry c.cycle true] }
    match c.matching e.acc.loc with
    | some w => t.modPc p fun c =>
        { c with fwd := c.fwd ++ [{ acc := read, grantAt := c.cycle, data := w.acc.data, bad := w.acc.poison }] }
    | none =>
      if c.knownBad.contains e.acc.loc.burst then
        (t.raise (Reg.PC_ECC_STATUS p) Fld.PC_ECC_STATUS_POISON_READ).settleMerge p e.acc.id (zeros 64) true
      else t.modPc p fun c =>
        { c with rq := c.rq ++ [{ acc := read, poolAt := e.at_, poolNo := e.no, grantAt := c.cycle, issuedAt := none,
                                  dataAt := 0, run := none, image := [] }] }

/-- Record the grant of one access of a run in its PROGRESS (R148). -/
def Pc.runProgress (c : Pc) (cls : Nat) (f : Nat → Nat) : Pc :=
  if cls = 6 then { c with run6 := c.run6.map fun r => { r with progress := f r.progress } }
  else { c with run7 := c.run7.map fun r => { r with progress := f r.progress } }

/-- Change one copier channel. -/
def State.modCopier (s : State) (e : Nat) (f : CopyChan → CopyChan) : State :=
  let i : Fin 16 := Fin.ofNat 16 e
  { s with copiers := s.copiers.set i (f s.copiers[i]) }

/-- Make a grant: the access leaves the pool for its queue (R100). -/
def State.grant (s : State) (p : Fin 64) (e : PoolEntry) : State :=
  let t := (s.stampAccess p e.acc.owner 5).modPc p fun c =>
    let c := { c with pool := c.pool.filter fun x => x.acc.id ≠ e.acc.id, granted := true, slotDone := true,
                      lastGrant := some c.cycle,
                      modeRead := c.modeRead || !e.acc.write }
    if e.run.isSome then c.runProgress e.acc.cls (· + 1) else c
  let u := if e.acc.write then t.grantWrite p e else t.grantRead p e
  match e.acc.owner with
  | .copyRead i => u.modCopier i fun c => { c with started := true }
  | .copyWrite i => u.modCopier i fun c => { c with written := c.written + 1 }
  | _ => u

/-- Suspend the run of a class: its granted, unissued reads return to their places in the pool, its ungranted accesses
become ineligible (R149). -/
def Pc.suspend (c : Pc) (cls : Nat) : Pc :=
  let back := c.rq.filter fun r => r.acc.cls = cls ∧ r.run.isSome ∧ r.issuedAt.isNone
  let es := back.map fun r => ({ acc := r.acc, at_ := r.poolAt, no := r.poolNo, run := r.run } : PoolEntry)
  let ins (l : List PoolEntry) (e : PoolEntry) : List PoolEntry :=
    (l.filter fun x => x.no < e.no) ++ [e] ++ l.filter fun x => e.no < x.no
  let c := { c with rq := c.rq.filter fun r => !(decide (r.acc.cls = cls) && r.run.isSome && r.issuedAt.isNone),
                    pool := es.foldl ins c.pool }
  let mark (r : Run) : Run := { r with suspended := true, progress := r.progress - back.length }
  if cls = 6 then { c with run6 := c.run6.map mark } else { c with run7 := c.run7.map mark }

/-- Suspend the runs whose bank is claimed, or both when a debug access becomes pending (R149). -/
def Pc.suspendRuns (c : Pc) (bank : Option Nat) : Pc :=
  let hit (r : Option Run) : Bool :=
    match r with
    | none => false
    | some x => (bank.map fun k => decide (x.loc.bankIx = k)).getD true
  let c := if hit c.run6 then c.suspend 6 else c
  if hit c.run7 then c.suspend 7 else c

/-! ### Claims of the refresh engine (R124, R153, R154, R160) -/

/-- The engine claims bank `k`: open pannier windows on it close and runs on it are suspended (R154). -/
def Pc.claimBank (c : Pc) (k : Nat) (cl : Claim) : Pc :=
  let shut (x : PanEntry) : PanEntry := if x.loc.bankIx = k then { x with closed := true } else x
  let c1 : Pc := c.modBank k fun b => { b with claim := cl, refreshing := false }
  let c2 : Pc := { c1 with pan := c1.pan.map shut, claimed := c1.claimed.filter (· ≠ k) ++ [k] }
  c2.suspendRuns (some k)

/-- An invalid entry of the row health table (R161). -/
def RowEntry.none : RowEntry :=
  { valid := false, cls := 0, layer := 0, bg := 0, bank := 0, row := 0, ceCount := 0, retMs := 0, lastEvent := 0 }

/-- Entry `i` of a PC's partition (R161). -/
def Pc.rowEntry (c : Pc) (i : Nat) : RowEntry := cget (fun _ => RowEntry.none) c.rowh i

/-- Bank number of an entry's row (R152). -/
def RowEntry.bankIx (e : RowEntry) : Nat := e.layer * 16 + e.bg * 4 + e.bank

/-- A free bank that owes a refresh is claimed for it at once (R124). -/
def Pc.nextClaim (c : Pc) (k : Nat) : Pc :=
  if (c.bankOf k).claim = .none ∧ 0 < (c.bankOf k).owed then
    (c.modBank k fun b => { b with owed := b.owed - 1 }).claimBank k .refresh
  else c

/-- The postponed targeted refreshes, in the order of their ticks, claim each its bank where that is free; an entry that is no
longer valid asks for none (R160). -/
def Pc.lateClaims (c : Pc) : Pc :=
  c.lateTicks.foldl (fun d i =>
    let e := d.rowEntry i
    let b := d.bankOf e.bankIx
    let taken : Pc := { d with lateTicks := d.lateTicks.erase i }
    if !e.valid then taken
    else if b.claim = .none ∧ b.owed = 0 then taken.claimBank e.bankIx (.targeted e.row)
    else d) c

/-- The engine's claims that follow when banks become free: the refreshes owed, and once those postponed by a truing window have
issued, the postponed targeted refreshes (R124, R160). -/
def Pc.engineClaims (c : Pc) : Pc :=
  let d := (upto 64).foldl Pc.nextClaim c
  if d.owing.isEmpty then d.lateClaims else d

/-! ### Command selection (R108 to R110, R113, R115) -/

/-- Every access of the two queues whose column command has not issued, with its grant cycle (R109). -/
def Pc.queued (c : Pc) : List (Access × Nat) :=
  ((c.rq.filter fun r => r.issuedAt.isNone).map fun r => (r.acc, r.grantAt)) ++
    (c.wq.filter fun w => w.issuedAt.isNone).map fun w => (w.acc, w.grantAt)

/-- Whether an access to bank `k`, granted before `g`, waits for another row than the open one. -/
def Pc.waitsOther (c : Pc) (k g : Nat) : Bool :=
  c.queued.any fun (a, h) => decide (a.loc.bankIx = k) && decide ((c.bankOf k).row ≠ some a.loc.row) && decide (h < g)

/-- Accesses of the read or the write queue that a column command can serve, oldest first: access, grant cycle. A write in
the MERGE state and a read that waits for one are not ready (R114). -/
def Pc.unissued (c : Pc) (write : Bool) : List (Access × Nat) :=
  if write then (c.wq.filter fun w => w.issuedAt.isNone ∧ !w.merging).map fun w => (w.acc, w.grantAt)
  else (c.rq.filter fun r => r.issuedAt.isNone ∧
      !(c.wq.any fun w => w.merging ∧ w.acc.loc = r.acc.loc ∧ w.grantAt < r.grantAt)).map fun r => (r.acc, r.grantAt)

/-- Whether a candidate granted at `g` to the open row of bank `k` is capped: the row has served HIT_CAP column commands
while an older access to the bank waits for another row (R109). -/
def Pc.capped (c : Pc) (cap k g : Nat) : Bool := decide (cap ≤ (c.bankOf k).hits) && c.waitsOther k g

/-- Whether an access is a burst of a half-pannier. -/
def Owner.isPannier (o : Owner) : Bool :=
  match o with
  | .pannier _ _ _ => true
  | _ => false

/-- Whether the window of an entry is open in a cycle: not closed and not expired (R35, R117, R118). -/
def PanEntry.isOpen (x : PanEntry) (cycle window : Nat) : Bool :=
  !x.closed && (decide (cycle < x.openAt + window) || decide (window = 0 ∧ cycle = x.openAt))

/-- The accesses of pannier bursts at a PC that still need their row open, whichever PC holds their entry: those waiting for
their grant or their command, and those whose write is still to come (R119, R450). -/
def panAccesses (s : State) (c : Pc) : List Access :=
  ((c.pool.map (·.acc)) ++ ((c.rq.filter fun r => r.issuedAt.isNone || s.burstWrites r.acc.owner).map (·.acc)) ++
    ((c.fwd.filter fun f => s.burstWrites f.acc.owner).map (·.acc))).filter fun a => a.owner.isPannier

/-- Whether the open row of bank `k` is held for a pannier entry that still needs it: an entry of this PC whose window is over
and whose bursts are not yet in the pool, or a burst at this PC up to its last command, one with a write being read first
and then written (R109, R119). -/
def pannierHeld (s : State) (p : Nat) (c : Pc) (k : Nat) : Bool :=
  let needs (l : Loc) : Bool := decide (l.bankIx = k) && decide ((c.bankOf k).row = some l.row)
  (c.pan.any fun x => !x.placed && !x.isOpen c.cycle (s.gf (Reg.PC_PANNIER p) Fld.PC_PANNIER_WINDOW) && needs x.loc) ||
    (panAccesses s c).any fun a => needs a.loc

/-- Whether bank `k` is closable (R109). -/
def Pc.closable (s : State) (p : Nat) (c : Pc) (k : Nat) : Bool :=
  let b := c.bankOf k
  let queued := c.queued.filter fun (a, _) => a.loc.bankIx = k
  let rp := Reg.PC_ROWPOL p
  b.row.isSome && decide (b.claim = .none) && mayPrecharge s p c b &&
    (queued.all fun (a, _) => decide (b.row ≠ some a.loc.row)) && !pannierHeld s p c k &&
    (!queued.isEmpty || decide (b.lastColAt + s.gf rp Fld.PC_ROWPOL_IDLE_CLOSE ≤ c.cycle))

/-- Precharge bank `k`; a targeted refresh ends with its precharge (R160). -/
def Pc.precharge (c : Pc) (k : Nat) : Pc :=
  c.modBank k fun b =>
    { b with row := none, preAt := some c.cycle, hits := 0,
             claim := match b.claim with
               | .targeted r => if b.refreshing then .none else .targeted r
               | x => x,
             refreshing := match b.claim with
               | .targeted _ => false
               | _ => b.refreshing }

/-- Activate a row of bank `k`. -/
def Pc.activate (c : Pc) (k row : Nat) : Pc :=
  { c.modBank k (fun b => { b with row := some row, actAt := some c.cycle, hits := 0, lastColAt := c.cycle,
                                   refreshing := decide (b.claim ≠ .none) }) with
    acts := (c.cycle, k) :: c.acts.take 7 }

/-- The refresh engine's command in this cycle, for the bank claimed first that can have one: precharge, per-bank refresh, or
the activate of a targeted refresh, which waits while refreshes that a truing window postponed have not issued (R124, R153,
R160). -/
def engineStep (s : State) (p : Nat) (c : Pc) : Option Pc :=
  c.claimed.findSome? fun k =>
    let b := c.bankOf k
    match b.claim with
    | .none => none
    | .refresh =>
      if b.refreshing then none
      else if b.row.isSome then (if mayPrecharge s p c b then some (c.precharge k) else none)
      else if mayActivate s p c k then
        let done := c.cycle + s.gf (Reg.PC_TIM_REF p) Fld.PC_TIM_REF_TRFCPB
        let c' := c.modBank k fun b => { b with refreshing := true, readyAt := done }
        some { c' with acts := (c.cycle, k) :: c.acts.take 7 }
      else none
    | .targeted r =>
      if b.refreshing then (if mayPrecharge s p c b then some (c.precharge k) else none)
      else if !c.owing.isEmpty then none
      else if b.row.isSome then (if mayPrecharge s p c b then some (c.precharge k) else none)
      else if mayActivate s p c k then some (c.activate k r) else none

/-- The oldest-waiting closable bank (R109). DESIGN CHOICE: log entry 24, the rule does not say what a bank's waiting counts
from; the model counts it from the bank's last column command, and takes the lowest bank number among equals. -/
def oldestClosable (s : State) (p : Nat) (c : Pc) : Option Nat :=
  ((upto 64).filter fun k => c.closable s p k).foldl
    (fun best k => match best with
      | none => some k
      | some m => if (c.bankOf k).lastColAt < (c.bankOf m).lastColAt then some k else some m) none

/-- The oldest queued access of a mode whose closed bank may be activated (R109). -/
def oldestActivate (s : State) (p : Nat) (c : Pc) (write : Bool) : Option Access :=
  ((c.unissued write).find? fun (a, _) =>
    decide ((c.bankOf a.loc.bankIx).claim = .none) && mayActivate s p c a.loc.bankIx).map (·.1)

/-- A refresh that a truing window has postponed has not issued yet on bank `k` (R124). -/
def Pc.owes (c : Pc) (k : Nat) : Bool :=
  decide (0 < (c.bankOf k).owed) || (decide ((c.bankOf k).claim = .refresh) && !(c.bankOf k).refreshing)

/-- The row-bus command of this cycle (R109); refreshes postponed by a truing window issue before any other command
(R124). -/
def rowCommand (s : State) (p : Nat) (c : Pc) : Pc :=
  match engineStep s p c with
  | some d => d
  | none =>
    if !c.owing.isEmpty then c
    else match oldestClosable s p c with
    | some k => c.precharge k
    | none =>
      match (oldestActivate s p c c.writeMode).or (oldestActivate s p c !c.writeMode) with
      | some a => c.activate a.loc.bankIx a.loc.row
      | none => c

/-- Candidates for a column command in the current mode (R109, R113). -/
def columnCandidates (s : State) (p : Nat) (c : Pc) : List (Access × Nat) :=
  (c.unissued c.writeMode).filter fun (a, g) =>
    let b := c.bankOf a.loc.bankIx
    decide (b.row = some a.loc.row) && decide (b.claim = .none) && mayColumn s p c a.loc.bankIx c.writeMode &&
      (!c.writeMode || !(c.rq.any fun r => r.issuedAt.isNone ∧ r.acc.loc = a.loc ∧ r.grantAt < g))

/-- The column command of this cycle (R109). -/
def columnPick (s : State) (p : Nat) (c : Pc) : Option Access :=
  let rp := Reg.PC_ROWPOL p
  let cs := columnCandidates s p c
  let aged := cs.find? fun (_, g) => g + s.gf rp Fld.PC_ROWPOL_AGE_CAP * 8 ≤ c.cycle
  let urgent := if s.bit rp Fld.PC_ROWPOL_URGENT_FIRST then cs.find? fun (a, _) => a.cls = 0 else none
  let free := cs.find? fun (a, g) => !c.capped (s.gf rp Fld.PC_ROWPOL_HIT_CAP) a.loc.bankIx g
  if !c.owing.isEmpty then none else ((aged.or urgent).or free).map (·.1)

/-- Enter or leave write mode (R115). DESIGN CHOICE: log entry 98, a class-0 read counts as queued until its read-queue entry
is freed. -/
def drainMode (s : State) (p : Nat) (c : Pc) : Pc :=
  let d := Reg.PC_DRAIN p
  let old := c.wq.any fun w => w.grantAt + s.gf d Fld.PC_DRAIN_WAGE * 16 ≤ c.cycle
  if c.writeMode then
    let leave : Bool :=
      c.wq.isEmpty || (decide (c.wq.length ≤ s.gf d Fld.PC_DRAIN_LOW) && !old) ||
        (s.bit (Reg.PC_ROWPOL p) Fld.PC_ROWPOL_URGENT_FIRST && (c.rq.any fun r => r.acc.cls = 0) &&
          decide (s.gf d Fld.PC_DRAIN_MIN_BATCH ≤ c.modeWrites)) ||
        (c.modeIdle && c.modeRead)
    if leave then { c with writeMode := false, modeIdle := false } else c
  else
    let hard : Bool := decide (s.gf d Fld.PC_DRAIN_HIGH ≤ c.wq.length) || old
    let idle : Bool := s.bit d Fld.PC_DRAIN_IDLE_DRAIN && c.rq.isEmpty && !c.wq.isEmpty
    if hard || idle then { c with writeMode := true, modeWrites := 0, modeIdle := !hard, modeRead := false } else c

/-- Cycles from a read command to the end of its data, and from a write command to the end of its data (R107, R122). -/
def readBeats (s : State) (p : Nat) : Nat := s.gf (Reg.PC_TIM_COL p) Fld.PC_TIM_COL_RL + 2
def writeBeats (s : State) (p : Nat) : Nat := s.gf (Reg.PC_TIM_COL p) Fld.PC_TIM_COL_WL + 2

/-- The read command of an entry issues now: the data is captured, and RL as it stands gives the cycle of its arrival
(R113, R125). -/
def RqEntry.issue (r : RqEntry) (s : State) (p cycle : Nat) : RqEntry :=
  { r with issuedAt := some cycle, dataAt := cycle + readBeats s p, image := s.stack.readBurst s.free r.acc.loc }

/-- The write command of an entry issues now: WL as it stands gives the end of its data (R107, R125). -/
def WqEntry.issue (w : WqEntry) (s : State) (p cycle : Nat) : WqEntry :=
  { w with issuedAt := some cycle, endAt := cycle + writeBeats s p }

/-- Issue a column command: the read captures the stack's contents, the access's times are set (R113). -/
def Pc.issue (c : Pc) (s : State) (p : Nat) (write : Bool) (a : Access) : Pc :=
  let k := a.loc.bankIx
  let grantAt := ((c.queued.find? fun x => x.1.id = a.id).map (·.2)).getD 0
  let hits := (c.bankOf k).hits + (if c.waitsOther k grantAt then 1 else 0)
  let c := { c with recent := (Driven.mk c.cycle write a :: c.recent).take 64 }
  if write then
    { c.modBank k (fun b => { b with hits := hits, lastColAt := c.cycle, wrAt := some c.cycle,
                                     wrEndAt := some (c.cycle + writeBeats s p) }) with
      wq := c.wq.map fun w => if w.acc.id = a.id ∧ w.issuedAt.isNone then w.issue s p c.cycle else w,
      modeWrites := c.modeWrites + 1 }
  else
    { c.modBank k (fun b => { b with hits := hits, lastColAt := c.cycle, rdAt := some c.cycle }) with
      rq := c.rq.map fun r => if r.acc.id = a.id ∧ r.issuedAt.isNone then r.issue s p c.cycle else r,
      lastRd := some (c.cycle, k) }

/-- A truing window stands at PC `p`: from the moment the island's local copy reaches T (R122). -/
def State.inWindow (s : State) (p : Fin 64) : Bool :=
  match s.pcs[p].truing with
  | some w => w.opened || decide (w.at_ ≤ s.now (.pc p))
  | none => false

/-- Whether the controller drives its own commands now: not in a truing window or in self-refresh (R122, R171). -/
def State.commandsRun (s : State) (p : Fin 64) : Bool :=
  !s.inWindow p && !s.pcs[p].clockLost && !s.bit (Reg.PC_REF_STATUS p) Fld.PC_REF_STATUS_SELF_REFRESH

/-- Precharge one open bank, the lowest that TRAS, TRTP and TWR allow by the words `row` and `col` (R109, R122, R439). -/
def Pc.closeOne (c : Pc) (row col : Word) : Pc :=
  match (upto 64).find? fun k => (c.bankOf k).row.isSome && (c.bankOf k).mayClose c.cycle row col with
  | some k => c.precharge k
  | none => c

/-- The row-bus command of a cycle of a truing window: open banks are precharged, one per cycle, by the timing at T, for values
written in the window hold from the first command after it (R122, R125). -/
def windowCommand (s : State) (p : Nat) (c : Pc) : Pc :=
  match c.truing with
  | some w => if w.opened then c.closeOne w.timing.1 w.timing.2
              else c.closeOne (s.rd (Reg.PC_TIM_ROW p)) (s.rd (Reg.PC_TIM_COL p))
  | none => c

/-- Precharge every open bank. -/
def Pc.closeAll (c : Pc) : Pc := (upto 64).foldl (fun c k => if (c.bankOf k).row.isSome then c.precharge k else c) c

/-- The controller cycle in progress ends (R99, R111, R124). -/
def Pc.endCycle (c : Pc) (due raw : Nat) : Pc :=
  { c with cycle := c.cycle + 1, due := due - 10, dueAt := raw, wqStart := c.wq, owing := c.owing.filter c.owes }

/-- Reads served from the write queue leave the controller 3 cycles after their grant (R111). -/
def State.forwardDue (s : State) (p : Fin 64) : State :=
  let gone (f : Forward) : Bool := decide (f.grantAt + 3 ≤ s.pcs[p].cycle)
  (s.pcs[p].fwd.filter gone).foldl (fun t f => t.serveRead p f.acc f.grantAt f.data f.bad)
    (s.modPc p fun c => { c with fwd := c.fwd.filter fun f => !gone f })

/-- Whether grants are made now: commands run, no replay is in progress, admission is not stopped and no exit scrub runs (R46,
R122, R172, R439, R488). The low-temperature hold reaches the arbiter as BG_HOLD and ADMIT alone (R485). -/
def State.grantsRun (s : State) (p : Fin 64) : Bool :=
  s.commandsRun p && s.pcs[p].replay.isNone && !s.pcs[p].stopped &&
    !s.bit (Reg.PC_REF_STATUS p) Fld.PC_REF_STATUS_SCRUB

/-! ### Command/address parity (R439, R440, R442, R470) -/

/-- A parity event counts for its rank; at CA_RANK_LIMIT or more within one second, or after a failed retry, the rank is a cause,
and events on two ranks of one PC ask for an expedited window (R442). -/
def State.countParity (s : State) (rank : Nat) (failed : Bool) : State :=
  let now := s.clk.pkg
  let l := (s.inbox.parity.filter fun e => decide (now ≤ e.2 + 1000000000)) ++ [(rank, now)]
  let n := (l.filter fun e => e.1 = rank).length
  let t := s.modInbox fun b => { b with parity := l }
  let limit := s.gf Reg.FW_REPAIR_CFG Fld.FW_REPAIR_CFG_CA_RANK_LIMIT
  let t := if failed ∨ limit ≤ n then t.cause rank 2 else t
  if (l.any fun e => e.1 % 64 = rank % 64 ∧ e.1 ≠ rank) ∧ !t.age.expedite.contains (rank % 64) then
    { t with age := { t.age with expedite := t.age.expedite ++ [rank % 64] } }
  else t

/-- The entry of a driven read or write still waits in its queue. -/
def Pc.holds (c : Pc) (d : Driven) : Bool :=
  if d.write then c.wq.any fun w => decide (w.acc.id = d.acc.id)
  else c.rq.any fun r => decide (r.acc.id = d.acc.id) && decide (r.acc.owner = d.acc.owner)

/-- The entries of a list of driven commands return to the state before their command; what a first attempt has read is
discarded (R439). -/
def Pc.unissue (c : Pc) (items : List Driven) : Pc :=
  let mine (write : Bool) (a : Access) : Bool :=
    items.any fun d => d.write == write && decide (d.acc.id = a.id) && decide (d.acc.owner = a.owner)
  { c with rq := c.rq.map fun r => if mine false r.acc then { r with issuedAt := none, image := [] } else r,
           wq := c.wq.map fun w => if mine true w.acc then { w with issuedAt := none } else w }

/-- A replay of the commands of the last 64 controller cycles begins, in their original order: every bank is precharged first
(R439). -/
def Pc.startReplay (c : Pc) : Pc :=
  let items := (c.recent.filter fun d => c.cycle ≤ d.at_ + 64).reverse
  { c.unissue items with replay := some { items := items, left := items, closing := true, failed := false } }

/-- The retry has failed: the reads of the replay that still wait complete poisoned, and its writes are written once more with
the poison code and enter the known-bad list (R440). -/
def State.failRetry (s : State) (p : Fin 64) (x : Replay) : State :=
  let c := s.pcs[p]
  let reads := c.rq.filter fun r => x.items.any fun d =>
    !d.write && decide (d.acc.id = r.acc.id) && decide (d.acc.owner = r.acc.owner)
  let writes := (x.items.filter (·.write)).map fun d => { d with acc := { d.acc with poison := true } }
  let t := s.raise (Reg.PC_ECC_STATUS p) Fld.PC_ECC_STATUS_CA_FAIL
  let t := match x.items with
    | d :: _ => t.fec .failedRetry true p d.acc.loc.fecAddr
    | [] => t.fec .failedRetry false p 0
  let t := t.modPc p fun c =>
    let c := c.unissue x.items
    { c with rq := c.rq.filter fun r => !reads.any fun q => decide (q.acc.id = r.acc.id) && decide (q.acc.owner = r.acc.owner),
             wq := c.wq.map fun w => if writes.any fun d => decide (d.acc.id = w.acc.id) then
                { w with retryFailed := true, acc := { w.acc with poison := true } } else w,
             replay := some { items := writes, left := writes, closing := true, failed := true } }
  reads.foldl (fun t r => t.serveRead p r.acc r.grantAt (zeros 64) true) t

/-- The stack has signalled a parity error on a command to a rank: a replay begins, or the one in progress has failed (R439,
R440). DESIGN CHOICE: log entry 58, a signal while the poisoned writes of a failed retry are being written only counts. -/
def State.caParity (s : State) (p : Fin 64) (group : Nat) : State :=
  let t := (s.raise (Reg.PC_ECC_STATUS p) Fld.PC_ECC_STATUS_CA_ERR).fec .parity false p 0
  match s.pcs[p].replay with
  | none => (t.modPc p Pc.startReplay).countParity (group * 64 + p) false
  | some x =>
    if x.failed then t.countParity (group * 64 + p) false else (t.failRetry p x).countParity (group * 64 + p) true

/-- A write whose data the first attempt had already driven is written again, with the poison code and an entry of the known-bad
list where the retry has failed; a read that had already returned is only driven again, its data discarded (R439, R440). -/
def State.redrive (s : State) (d : Driven) (failed : Bool) : State :=
  if d.write then
    let t := s.putBurst d.acc.loc d.acc.data d.acc.poison
    if failed then t.kbAdd d.acc.loc d.acc.addr else t
  else s

/-- A replay is brought to its end at once, where the queues are drained: what is left of it is driven (R439, R440). -/
def State.finishReplay (s : State) (p : Fin 64) : State :=
  match s.pcs[p].replay with
  | none => s
  | some x =>
    let c := s.pcs[p]
    (x.left.filter fun d => !c.holds d).foldl (fun t d => t.redrive d x.failed)
      (s.modPc p fun c => { c with replay := none })

/-- The row-bus command of a cycle of a replay: the refresh engine's (R155), else, once every bank has been precharged, the
precharge or the activate that a bank needs for the first command left for it (R439). -/
def replayRow (s : State) (p : Nat) (c : Pc) (x : Replay) : Pc :=
  match engineStep s p c with
  | some d => d
  | none =>
    if x.closing then c.closeOne (s.rd (Reg.PC_TIM_ROW p)) (s.rd (Reg.PC_TIM_COL p))
    else
      let first (k : Nat) : Option Driven := x.left.find? fun d => d.acc.loc.bankIx = k
      let wants (k : Nat) : Option Pc :=
        match first k with
        | none => none
        | some d =>
          let b := c.bankOf k
          if b.claim ≠ .none ∨ b.row = some d.acc.loc.row then none
          else if b.row.isSome then (if mayPrecharge s p c b then some (c.precharge k) else none)
          else if mayActivate s p c k then some (c.activate k d.acc.loc.row) else none
      ((x.left.map fun d => d.acc.loc.bankIx).findSome? wants).getD c

/-- The column command of a cycle of a replay: the first one left, once its row is open and its timing is met (R439). -/
def replayColumn (s : State) (p : Nat) (c : Pc) (x : Replay) : Option Driven :=
  (if x.closing then none else x.left.head?).filter fun d =>
    let b := c.bankOf d.acc.loc.bankIx
    decide (b.row = some d.acc.loc.row) && decide (b.claim = .none) && mayColumn s p c d.acc.loc.bankIx d.write

/-- Where a replay stands after a cycle: every bank closed once, then the commands left; it is over with the last one
(R439). -/
def Replay.after (x : Replay) (c : Pc) (took : Bool) : Option Replay :=
  let left := if took then x.left.drop 1 else x.left
  let closing := x.closing && (upto 64).any fun k => (c.bankOf k).row.isSome
  if !closing && left.isEmpty then none else some { x with left := left, closing := closing }

/-- The parity injector draws for a command to a layer group of PC `p` (R467, R470). -/
def State.parityDraw (s : State) (p : Fin 64) (group : Nat) : Bool × State :=
  let r := Reg.PC_INJ
  if s.bit r Fld.PC_INJ_ENABLE ∧ s.gf r Fld.PC_INJ_PC = p.val ∧
      (s.bit r Fld.PC_INJ_ANY_GROUP ∨ s.gf r Fld.PC_INJ_GROUP = group) then
    let rate := s.gf r Fld.PC_INJ_RATE
    let (hit, x) := injDraw rate s.inj[(0 : Fin 11)]
    let t := { s with inj := s.inj.set (0 : Fin 11) x }
    if hit then
      let t := t.bumpSat r Fld.PC_INJ_INJECTED
      (true, if rate = 0 then t.sf r Fld.PC_INJ_ENABLE 0 else t)
    else (false, t)
  else (false, s)

/-- Draws for a list of commands: the layer group of the first one hit. -/
def State.parityDraws (s : State) (p : Fin 64) (groups : List Nat) : Option Nat × State :=
  groups.foldl (fun (a : Option Nat × State) g =>
    let (hit, t) := a.2.parityDraw p g
    (a.1.or (if hit then some g else none), t)) (none, s)

/-- Parity injection on the commands of a cycle, those of a truing window and of a replay included; a hit in a replay fails the
retry (R440, R470). -/
def State.injectParity (s : State) (p : Fin 64) (groups : List Nat) : State :=
  match s.parityDraws p groups with
  | (none, t) => t
  | (some g, t) => t.caParity p g

end Sys2Proof.Machine
end

