-- ==== Sys2Proof/Machine/Pc.lean ====
section
/-! DEFINITION. Meanings of the pseudo-channel controller and slot-table rows (04, 05). -/

namespace Sys2Proof.Machine

/-! ### Intake (R36, R100, R450) -/

/-- The physical location of a package address of this range, after the redirects that are installed at the sending
ports (R94, R454). -/
def State.physLoc (s : State) (addr : Nat) : Loc :=
  let l := (s.locate (natBits addr 0 37)).1
  match s.originOf l.rank with
  | some e => if (s.redir e).state = .bound then (s.redir e).to l else { l with rank := (s.redir e).src }
  | none => l

/-- A burst of a write-through has entered its pool: the slice's request completes with its last one, and the line
lock goes (R189, R193). -/
def State.wroteThrough (s : State) (sl : Fin 16) (line : Nat) : State :=
  match s.paths.slices[sl].misses.find? fun m => m.line = line ∧ m.kind = .writeThrough with
  | none => s
  | some m =>
    if m.sectorsLeft.length ≤ 1 then
      let t := s.modSlice sl fun x => { x with misses := (x.misses.map fun y =>
        if y.line = line then { y with sectorsLeft := [], kind := .waiting, current := none } else y).filter keepMiss }
      match m.current with
      | some r => t.complete r .ok []
      | none => t
    else s.modSlice sl fun x => { x with misses := x.misses.map fun y =>
        if y.line = line then { y with sectorsLeft := y.sectorsLeft.drop 1 } else y }

/-- A write-back of a line, sent by any slice that has held it, has not entered a pool yet (R189). -/
def State.wbWaits (s : State) (line : Nat) : Bool :=
  s.paths.memXbar.any fun e => match e.2.owner with
    | .writeBack _ ln => decide (ln = line)
    | _ => false

/-- A write-back has entered its pool: a CLEAN that waits for the line's write-backs, in the slice that holds the line now,
completes with the last one (R189). -/
def State.wroteBack (s : State) (line : Nat) : State :=
  let waits (m : Miss) : Bool :=
    decide (m.line = line ∧ m.kind = .writeThrough) && m.current.any fun r => decide (r.op = .clean)
  if s.wbWaits line then s
  else match (upto 16).find? fun i => s.paths.slices[sliceFin i].misses.any waits with
    | some i => s.wroteThrough (sliceFin i) line
    | none => s

/-- Put an access into the pool of PC `p` (R100, R131). -/
def State.poolPush (s : State) (p : Fin 64) (a : Access) : State :=
  let t := (s.stampAccess p a.owner 4).modPc p fun c => c.enterPool a
  match a.owner with
  | .writeThrough sl line => t.wroteThrough sl line
  | .writeBack _ line => t.wroteBack line
  | _ => t

/-- An access arrives at PC `p`: the redirect stage routes it here, to TO or to both (R450), or on to the rank that a
second move copies from (R455), and it enters the pool.
Accesses of the copier and the margin engine, and a mirrored write's copy, go where they were sent. A pannier burst that
goes to TO writes FROM's copy once its image stands (State.pannierBurst). -/
def State.arrive (s : State) (p : Fin 64) (a : Access) : State :=
  if a.owner.inRun ∨ a.owner = .mirror then s.poolPush p a
  else
    match s.redirOf a.loc.rank with
    | none =>
      match s.originOf a.loc.rank with
      | some e =>
        let r := s.redir e
        let tgt := if r.state = .bound then r.dst else r.src
        s.modPaths fun x => { x with memXbar := x.memXbar ++ [(tgt % 64, { a with loc := { a.loc with rank := tgt } })] }
      | none => s.poolPush p a
    | some e =>
      let r := s.redir e
      let a' := { a with write := a.write || s.burstWrites a.owner }
      let (here, there, redo) := redirRoute r a' (s.copiers[Fin.ofNat 16 e].started)
      let s1 := if redo then s.setRedir e { r with redo := true } else s
      let fwd := { a with loc := r.to a.loc }
      if here && there && a.write then
        (s1.poolPush p { a with owner := .mirror }).modPaths fun x =>
          { x with memXbar := x.memXbar ++ [(r.dst % 64, fwd)] }
      else if there then s1.modPaths fun x => { x with memXbar := x.memXbar ++ [(r.dst % 64, fwd)] }
      else s1.poolPush p a

/-- A write to the unit at WM, a pannier burst that will write included, is held at the redirect stage after four copies of the
unit (R451). -/
def State.heldByCopies (s : State) (a : Access) : Bool :=
  match s.redirOf a.loc.rank with
  | none => false
  | some e => (a.write || s.burstWrites a.owner) && !a.owner.inRun && decide (a.owner ≠ .mirror) && decide ((s.redir e).state = .copying) &&
      decide (a.loc.unit = (s.redir e).wm) && decide (4 ≤ s.copiers[Fin.ofNat 16 e].copies)

/-- Two accesses that enter a pool in their order: of one burst, or of one run (R134, R148). -/
def Access.follows (a earlier : Access) : Bool :=
  decide (a.loc.burst = earlier.loc.burst) || (a.owner.inRun && earlier.owner.inRun && decide (a.cls = earlier.cls))

/-- The first access for PC `p` on the memory crossbar that its pool can take, no earlier one that it follows waiting. -/
def firstIntake (s : State) (p : Fin 64) : List Access → List (Nat × Access) → Option Access
  | _, [] => none
  | seen, (q, a) :: r =>
    if q = p.val then
      if s.pcs[p].hasRoom a.cls ∧ !(seen.any a.follows) ∧ !s.heldByCopies a then some a
      else firstIntake s p (a :: seen) r
    else firstIntake s p seen r

/-- INTAKE_ACCESS: the next access for PC `p` leaves the memory crossbar and enters the intake pool (R100, R450). -/
def intake (p : Fin 64) (s : State) : State :=
  match firstIntake s p [] s.paths.memXbar with
  | none => s
  | some a => (s.modPaths fun x => { x with memXbar := x.memXbar.filter fun e => e.2.id ≠ a.id }).arrive p a

def execIntakeAccess (p : Fin 64) (s : State) : Out := .next (s.onLive (.pc p) (intake p s))

/-! ### The slot arbiter (R130 to R136, R145, R147) -/

/-- The thermal admission of an owned slot (R145). -/
def Pc.admits (c : Pc) (rate : Nat) : Pc :=
  if 16 ≤ c.thermAcc + rate then { c with slotAdmitted := some true, thermAcc := c.thermAcc + rate - 16 }
  else { c with slotAdmitted := some false, thermAcc := c.thermAcc + rate }

/-- The slot in progress is owned by a class (R132). -/
def State.slotOwned (s : State) (p : Fin 64) : Bool :=
  decide (s.slotOwner p (s.gf (Reg.SLOT_STATUS p) Fld.SLOT_STATUS_SLOT) < 8)

/-- The first cycle of a slot: BG_HOLD and ADMIT apply from it, and an owned slot is evaluated in it, unless a truing window
is open or a debug access is pending (R135, R145). -/
def State.beginSlot (s : State) (p : Fin 64) : State :=
  let st := Reg.SLOT_STATUS p
  s.modPc p fun c =>
    let c := { c with slotDone := false, slotAdmitted := none, bgHold := s.bit st Fld.SLOT_STATUS_BG_HOLD }
    if s.slotOwned p && !s.inWindow p && c.debugAcc.isNone then c.admits (s.gf st Fld.SLOT_STATUS_ADMIT) else c

/-- The slot arbiter may grant in the cycle in progress: the slot's two cycles are not over, and neither the slot nor the
cycle has made a grant (R102, R130, R131, R135). -/
def Pc.mayGrant (c : Pc) : Bool := decide (c.cycle < c.slotAt + 2) && !c.slotDone && decide (c.lastGrant ≠ some c.cycle)

/-- Grant the pending debug access if its queue has room; it does not advance the starvation counter (R147). -/
def State.grantDebug (s : State) (p : Fin 64) (a : Access) : State :=
  if s.queueFree p a then
    (s.modPc p fun c => { c with debugAcc := none }).grant p
      { acc := a, at_ := s.pcs[p].cycle, no := 0, run := none }
  else s

/-- One decision of the arbiter of PC `p` (R135). -/
def slotGrant (p : Fin 64) (s : State) : State :=
  if s.cycleRuns p && s.grantsRun p && s.pcs[p].mayGrant then
    match s.pcs[p].debugAcc with
    | some a => s.grantDebug p a
    | none =>
      match arbiterPick s p with
      | none => s
      | some e =>
        (s.grant p e).modPc p fun c =>
          { c with starve := (c.starve + 1) % s.gf (Reg.SLOT_CTRL p) Fld.SLOT_CTRL_STARVE_N }
  else s

/-- SLOT_GRANT (R135). -/
def execSlotGrant (p : Fin 64) (s : State) : Out := .next (s.onLive (.pc p) (slotGrant p s))

/-- SLOT_ADVANCE: 2 cycles after the slot in progress began, the slot pointer moves on and wraps from 255 to 0, whatever
else happens (R130). -/
def slotAdvance (p : Fin 64) (s : State) : State :=
  if s.cycleRuns p ∧ s.pcs[p].slotAt + 2 ≤ s.pcs[p].cycle then
    ((s.bump (Reg.SLOT_STATUS p) Fld.SLOT_STATUS_SLOT).modPc p fun c => { c with slotAt := c.slotAt + 2 }).beginSlot p
  else s

def execSlotAdvance (p : Fin 64) (s : State) : Out := .next (s.onLive (.pc p) (slotAdvance p s))

/-! ### Command selection (R109, R113, R115) -/

/-- Layer group of the bank that a row-bus command has changed. -/
def Pc.rowGroup (c d : Pc) : List Nat := ((upto 64).find? fun k => decide (c.bankOf k ≠ d.bankOf k)).toList.map (· / 16)

/-- The controller at PC `p` ends its cycle with the state `c` that the cycle's commands leave (R99). -/
def State.closeCycle (s : State) (p : Fin 64) (c : Pc) : State :=
  s.modPc p fun _ => c.endCycle (s.cyclesDue p) s.clk.raw

/-- One controller cycle of a replay: the next command in the original order, at an entry that waits for it or once more for
one already completed (R439, R440). -/
def replayCycle (p : Fin 64) (x : Replay) (s : State) : State :=
  let c1 := s.pcs[p]
  let c2 := replayRow s p c1 x
  let row := c1.rowGroup c2
  match replayColumn s p c1 x with
  | none => (s.closeCycle p { c2 with replay := x.after c2 false }).injectParity p row
  | some d =>
    let t := s.closeCycle p { c2.issue s p d.write d.acc with replay := x.after c2 true }
    let t := if c1.holds d then t.iff (!d.write && s.stack.isUndef d.acc.loc) State.tick else t.redrive d x.failed
    t.injectParity p (row ++ [d.acc.loc.group])

/-- One controller cycle's commands outside a truing window and a replay (R108, R109, R115). -/
def normalCycle (p : Fin 64) (s : State) : State :=
  let c1 := drainMode s p s.pcs[p].engineClaims
  let c2 := rowCommand s p c1
  let row := c1.rowGroup c2
  match columnPick s p c1 with
  | none => (s.closeCycle p c2).injectParity p row
  | some a =>
    let t := (s.stampAccess p a.owner 6).closeCycle p (c2.issue s p c1.writeMode a)
    (t.iff (s.stack.isUndef a.loc) State.tick).injectParity p (row ++ [a.loc.group])

/-- One controller cycle's commands: a truing window's, a replay's or those of the selection, none in self-refresh (R109, R122,
R171, R439). -/
def cycleCommands (p : Fin 64) (s : State) : State :=
  if s.commandsRun p then
    match s.pcs[p].replay with
    | some x => replayCycle p x s
    | none => normalCycle p s
  else if s.inWindow p then
    let c := windowCommand s p s.pcs[p]
    (s.closeCycle p c).injectParity p (s.pcs[p].rowGroup c)
  else s.closeCycle p s.pcs[p]

/-- COMMAND_SELECT: once the clock has given a cycle, its commands are driven, forwarded data leaves and the next cycle is
counted (R99, R109, R111). -/
def commandSelect (p : Fin 64) (s : State) : State :=
  if s.cycleRuns p then (cycleCommands p s).forwardDue p else s

/-- COMMAND_SELECT (R109). -/
def execCommandSelect (p : Fin 64) (s : State) : Out := .next (s.onLive (.pc p) (commandSelect p s))

/-! ### Completion (R100, R103, R114, R434) -/

/-- A burst as it arrives: the stack's 72 bytes with the lane errors of the transfer, bit by bit. -/
def withErrors (img err : List Byte) : List Byte := (upto 72).map fun i => img.getD i 0 ^^^ err.getD i 0

/-- Cycles that a burst spends in the check-code unit (R103, R434). -/
def Decode.cycles : Decode → Nat
  | .clean => 2
  | .corrected _ _ => 6
  | .poisoned => 2
  | .uncorrectable => 6

/-- An entry is the merge read of a partial write (R114). -/
def RqEntry.isMerge (r : RqEntry) : Bool := match r.acc.owner with
  | .mergeRead _ => true
  | _ => false

/-- The issued read whose data arrives first (R103). -/
def Pc.firstArrival (c : Pc) : Option RqEntry :=
  (c.rq.filter fun r => r.issuedAt.isSome).foldl (fun best r => match best with
    | none => some r
    | some b => if r.dataAt < b.dataAt then some r else some b) none

/-- The read that leaves now: reads leave in the order their data arrives, each once it has passed the check-code unit with
the lane errors `err` (R103). -/
def firstReturn (s : State) (p : Fin 64) (merge : Bool) (err : List Byte) : Option RqEntry :=
  s.pcs[p].firstArrival.filter fun r =>
    decide (r.isMerge = merge) && decide (r.dataAt + (decodeImage (withErrors r.image err)).cycles ≤ s.pcs[p].cycle)

/-- The read-queue entry is freed once its data has passed the check-code unit (R101), with the unit's effects (R434). -/
def State.readPassed (s : State) (p : Fin 64) (r : RqEntry) (err : List Byte) : State :=
  (s.modPc p fun c => { c with rq := c.rq.filter fun x => !(decide (x.acc.id = r.acc.id) && decide (x.acc.owner = r.acc.owner)) }).readEffects
    r.acc (decodeImage (withErrors r.image err))

/-- Whether decoded data is unusable. -/
def Decode.bad : Decode → Bool
  | .clean => false
  | .corrected _ _ => false
  | .poisoned => true
  | .uncorrectable => true

/-- READ_DATA_RETURN: the oldest read whose data is due passes the check code and goes to its owner. `err` holds the
bits the lanes changed (R103, R434). -/
def readDataReturn (p : Fin 64) (err : List Byte) (s : State) : State :=
  match firstReturn s p false err with
  | none => s
  | some r =>
    let d := decodeImage (withErrors r.image err)
    ((s.stampAccess p r.acc.owner 7).readPassed p r err).deliver p r.acc r.grantAt (decodedData (withErrors r.image err)) d.bad

def execReadDataReturn (p : Fin 64) (err : List Byte) (s : State) : Out :=
  .next (s.onLive (.pc p) (readDataReturn p err s))

/-- MERGE_READ_RETURN: the merge read of a partial write returns and the entry becomes a full write (R114). -/
def mergeReadReturn (p : Fin 64) (err : List Byte) (s : State) : State :=
  match firstReturn s p true err with
  | none => s
  | some r =>
    let d := decodeImage (withErrors r.image err)
    match r.acc.owner with
    | .mergeRead w => (s.readPassed p r err).settleMerge p w (decodedData (withErrors r.image err)) d.bad
    | _ => s

def execMergeReadReturn (p : Fin 64) (err : List Byte) (s : State) : Out :=
  .next (s.onLive (.pc p) (mergeReadReturn p err s))

/-- The issued write whose last data beat is driven, oldest command first (R100, R107). -/
def firstDriven (s : State) (p : Fin 64) : Option WqEntry :=
  (s.pcs[p].wq.filter fun w => w.issuedAt.isSome && decide (w.endAt ≤ s.pcs[p].cycle)).foldl (fun best w => match best with
    | none => some w
    | some b => if w.endAt < b.endAt then some w else some b) none

/-- WRITE_DATA_DRIVEN: the burst is written with its check code or poisoned, the entry is freed (R100, R101, R436), and
a write of all 64 bytes frees the burst's known-bad entry (R441); a write whose retry failed enters it (R440). -/
def writeDataDriven (p : Fin 64) (s : State) : State :=
  match firstDriven s p with
  | none => s
  | some w =>
    let t := ((s.stampAccess p w.acc.owner 7).modPc p fun c =>
      { c with wq := c.wq.filter fun x => x.acc.id ≠ w.acc.id }).putBurst w.acc.loc w.acc.data w.acc.poison
    let t := if w.retryFailed then t.kbAdd w.acc.loc w.acc.addr else t.kbFree w.acc.loc
    t.modPc p fun c => ((w.from_.filter fun f => f.1.inRun).map (·.2)).foldl Pc.runDone c

def execWriteDataDriven (p : Fin 64) (s : State) : Out := .next (s.onLive (.pc p) (writeDataDriven p s))

/-! ### The half-pannier (R35, R117 to R121) -/

/-- Add a narrow request to an entry (R118); an URGENT host-port read closes the window (R35). DESIGN CHOICE: log entry 99, the
burst order of an entry (R119) is the order in which its bursts joined it. -/
def PanEntry.join (x : PanEntry) (n : Narrow) : PanEntry :=
  { x with reqs := x.reqs ++ [n], bursts := if x.bursts.contains n.burst then x.bursts else x.bursts ++ [n.burst],
           closed := x.closed || (n.req.urgent && decide (n.req.op = .read)) }

/-- Whether an entry has room for a request: fewer than 32 requests and its burst held or fewer than 8 (R35, R121). -/
def PanEntry.hasRoom (x : PanEntry) (burst : Nat) : Bool :=
  decide (x.reqs.length < 32) && (x.bursts.contains burst || decide (x.bursts.length < 8))

/-- The effect of the first narrow request at half-pannier `p` (R118, R121, R32). -/
def panJoin (c : Pc) (window : Nat) (l : Loc) (n : Narrow) : Pc × Bool :=
  match c.pan.find? fun x => x.isOpen c.cycle window && x.loc.sameRow l with
  | some x =>
    if x.hasRoom n.burst then
      ({ c with pan := c.pan.map fun y => if y.id = x.id then y.join n else y }, true)
    else
      let shut := { c with pan := c.pan.map fun y => if y.id = x.id then { y with closed := true } else y }
      if shut.pan.length < 32 then (addEntry shut, true) else (shut, false)
  | none => if c.pan.length < 32 then (addEntry c, true) else (c, false)
where
  addEntry (c : Pc) : Pc :=
    let e : PanEntry := { id := c.panNext, loc := l, openAt := c.cycle, closed := false, placed := false, reqs := [],
                          bursts := [], left := [] }
    { c with pan := c.pan ++ [e.join n], panNext := c.panNext + 1 }

/-- The first of the requests that half-pannier `p` can take, with the entries after it; those before it wait in their
slices for a free entry and hold up none that matches an open one (R32, R118). -/
def panTake (s : State) (p : Fin 64) (c : Pc) : List Narrow → Pc × Option Narrow
  | [] => (c, none)
  | n :: r =>
    let (c', taken) := panJoin c (s.gf (Reg.PC_PANNIER p) Fld.PC_PANNIER_WINDOW) (s.physLoc n.req.addr) n
    if taken then (c', some n) else panTake s p c' r

/-- PANNIER_REQUEST: the first narrow request for PC `p` that can joins an open entry or allocates one; the others wait
(R118, R32). -/
def pannierRequest (p : Fin 64) (s : State) : State :=
  match panTake s p s.pcs[p] ((s.paths.panXbar.filter fun x => x.1 = p.val).map (·.2)) with
  | (c, none) => s.modPc p fun _ => c
  | (c, some n) =>
    (((s.stamp n.req.id 4 (s.now (.pc p))).modTag n.req.id fun t => { t with pc := p }).modPc p fun _ => c).modPaths fun x =>
      { x with panXbar := x.panXbar.erase (p.val, n) }

def execPannierRequest (p : Fin 64) (s : State) : Out := .next (s.onLive (.pc p) (pannierRequest p s))

/-- The access of one burst of an entry (R119). -/
def PanEntry.access (x : PanEntry) (p : Fin 64) (id col : Nat) : Access :=
  { id := id, cls := 4, loc := { x.loc with col := col },
    addr := (x.reqs.find? fun n => n.burst = col).map fun n => n.req.addr / 64 * 64, write := false, data := [],
    mask := [], poison := false, owner := .pannier p x.id col }

/-- An entry whose window is over may place its bursts: no entry of its row that was allocated before it still has to (R118), and
the redirect stage holds none of them (R451). -/
def State.mayPlace (s : State) (p : Fin 64) (x : PanEntry) : Bool :=
  let c := s.pcs[p]
  !x.placed && (x.closed || decide (x.openAt + s.gf (Reg.PC_PANNIER p) Fld.PC_PANNIER_WINDOW ≤ c.cycle)) &&
    !(c.pan.any fun y => decide (y.id < x.id) && y.loc.sameRow x.loc && !y.placed) &&
    x.bursts.all fun col => !s.heldByCopies (x.access p 0 col)

/-- PANNIER_WINDOW_CLOSE: the oldest entry whose window has closed and whose bursts may go on places them into the pool as
class-4 accesses, in burst order (R35, R118, R119); a window may expire in a truing window (R123). -/
def pannierWindowClose (p : Fin 64) (s : State) : State :=
  let c := s.pcs[p]
  match c.pan.find? (s.mayPlace p) with
  | none => s
  | some x =>
    if c.held 4 + x.bursts.length ≤ 8 ∨ c.sharedUsed + x.bursts.length ≤ 1280 then
      let t := s.modPc p fun c => { c with pan := c.pan.map fun y =>
        if y.id = x.id then { y with closed := true, placed := true, left := y.bursts } else y }
      x.bursts.foldl (fun t col => (t.skipIds 1).arrive p (x.access p t.paths.nextId col)) t
    else s

def execPannierWindowClose (p : Fin 64) (s : State) : Out := .next (s.onLive (.pc p) (pannierWindowClose p s))

/-- PANNIER_ENTRY_FREE: an entry whose last burst has completed is freed (R120). -/
def pannierEntryFree (p : Fin 64) (s : State) : State :=
  match s.pcs[p].pan.find? fun x => x.placed && x.left.isEmpty with
  | none => s
  | some x => s.modPc p fun c => { c with pan := c.pan.filter fun y => y.id ≠ x.id }

def execPannierEntryFree (p : Fin 64) (s : State) : Out := .next (s.onLive (.pc p) (pannierEntryFree p s))

/-! ### Register writes of the controller (R105 to R107, R136, R138, R140 to R143) -/

/-- Legal ranges of the fields of a register: field, least and greatest value (R106). -/
abbrev Ranges := List (Fld × Nat × Nat)

/-- A register word with each ranged field at the nearer limit of its range, reserved bits zero (R15, R106). -/
def clampWord (r : Ranges) (v : Nat) : Nat :=
  r.foldl (fun acc (f, lo, hi) => acc + 2 ^ f.lo * max lo (min hi (natBits v f.lo f.width))) 0

/-- Whether some field lies outside its range (R106). -/
def outOfRange (r : Ranges) (v : Nat) : Bool :=
  r.any fun (f, lo, hi) => decide (natBits v f.lo f.width < lo) || decide (hi < natBits v f.lo f.width)

/-- The four timing registers of a PC (R105, R177). -/
def TimReg.offset : TimReg → Nat → Nat
  | .row => Reg.PC_TIM_ROW
  | .col => Reg.PC_TIM_COL
  | .turn => Reg.PC_TIM_TURN
  | .refresh => Reg.PC_TIM_REF

/-- Legal ranges of the timing registers (R106, R177). -/
def TimReg.ranges : TimReg → Ranges
  | .row => [(Fld.PC_TIM_ROW_TRAS, 16, 127), (Fld.PC_TIM_ROW_TRP, 8, 63), (Fld.PC_TIM_ROW_TRCD, 8, 63),
      (Fld.PC_TIM_ROW_TFAW, 8, 63), (Fld.PC_TIM_ROW_TRRDL, 2, 15), (Fld.PC_TIM_ROW_TRRDS, 2, 7)]
  | .col => [(Fld.PC_TIM_COL_RL, 8, 63), (Fld.PC_TIM_COL_WL, 4, 31), (Fld.PC_TIM_COL_TCCDS, 2, 7),
      (Fld.PC_TIM_COL_TCCDL, 2, 7), (Fld.PC_TIM_COL_TWR, 8, 63), (Fld.PC_TIM_COL_TRTP, 2, 15)]
  | .turn => [(Fld.PC_TIM_TURN_TRTW, 2, 31), (Fld.PC_TIM_TURN_TWTRS, 2, 31), (Fld.PC_TIM_TURN_TWTRL, 2, 31)]
  | .refresh => [(Fld.PC_TIM_REF_TXS, 64, 1023), (Fld.PC_TIM_REF_TRFCPB, 64, 511)]

/-- A write of a timing register (R105, R106, R107, R177). -/
def timingWrite (p : Fin 64) (r : TimReg) (v : Word) (s : State) : State :=
  let st := Reg.PC_SCHED_STATUS p
  if s.pcs[p].granted ∧ !s.bit st Fld.PC_SCHED_STATUS_TRUING then s.raise st Fld.PC_SCHED_STATUS_TIM_WRITE_REFUSED
  else
    let t := s.wr (r.offset p) (BitVec.ofNat 32 (clampWord r.ranges v.toNat))
    let low := decide (r = .col ∨ r = .turn) && decide (t.gf (Reg.PC_TIM_TURN p) Fld.PC_TIM_TURN_TRTW < trtwFloor t p)
    t.raiseIf (outOfRange r.ranges v.toNat || low) st Fld.PC_SCHED_STATUS_TIMING_CLAMPED

/-- TIMING_REGISTER_WRITE (R105). -/
def execTimingRegisterWrite (p : Fin 64) (r : TimReg) (v : Word) (s : State) : Out :=
  .next (s.mgtWrite (.pc p) (timingWrite p r v s))

/-- Legal ranges of PC_DRAIN (R115). -/
def drainRanges : Ranges :=
  [(Fld.PC_DRAIN_HIGH, 1, 48), (Fld.PC_DRAIN_LOW, 0, 47), (Fld.PC_DRAIN_MIN_BATCH, 1, 48), (Fld.PC_DRAIN_WAGE, 1, 2047),
   (Fld.PC_DRAIN_IDLE_DRAIN, 0, 1)]

/-- A write of PC_DRAIN: fields clamped, LOW kept below HIGH (R106). -/
def drainWrite (p : Fin 64) (v : Word) (s : State) : State :=
  let c := clampWord drainRanges v.toNat
  let high := natBits c 24 6
  let low := natBits c 18 6
  let w := if high ≤ low then natSetBits c 18 6 (high - 1) else c
  (s.wr (Reg.PC_DRAIN p) (BitVec.ofNat 32 w)).raiseIf (outOfRange drainRanges v.toNat || decide (high ≤ low))
    (Reg.PC_SCHED_STATUS p) Fld.PC_SCHED_STATUS_TIMING_CLAMPED

/-- PC_DRAIN_WRITE (R106). -/
def execPcDrainWrite (p : Fin 64) (v : Word) (s : State) : Out := .next (s.mgtWrite (.pc p) (drainWrite p v s))

/-- Whether the shadow bank of a PC holds a reserved owner code (R140). -/
def State.badShadow (s : State) (p : Nat) : Bool :=
  (upto 32).any fun w => (upto 8).any fun i => decide (8 < natBits (s.rd (Reg.SLOT_SHADOW p w)).toNat (4 * i) 4)

/-- A write of SLOT_CTRL: DISARM first, then ARM, both judged by ARMED before the write, then STARVE_N (R136, R140,
R141, R143). -/
def slotCtrlWrite (p : Fin 64) (v : Word) (s : State) : State :=
  let st := Reg.SLOT_STATUS p
  let armed := s.bit st Fld.SLOT_STATUS_ARMED
  let arm := v.getLsbD 31
  let disarm := v.getLsbD 30
  let late := decide (s.rd64 (Reg.SLOT_SHIFT_TIME p) < s.now (.pc p) + 1000)
  let n := natBits v.toNat 0 7
  let s1 := if disarm && armed then s.sf st Fld.SLOT_STATUS_ARMED 0 else s
  let s2 :=
    if arm then
      if armed then s1.raise st Fld.SLOT_STATUS_ARMED_WRITE_REFUSED
      else if late then s1.raise st Fld.SLOT_STATUS_SHIFT_LATE
      else (s1.sf st Fld.SLOT_STATUS_ARMED 1).raiseIf (s.badShadow p) st Fld.SLOT_STATUS_BAD_SLOT_CODE
    else s1
  (s2.sf (Reg.SLOT_CTRL p) Fld.SLOT_CTRL_STARVE_N (max 4 (min 64 n))).raiseIf (decide (n < 4) || decide (64 < n)) st
    Fld.SLOT_STATUS_STARVE_N_CLAMPED

/-- SLOT_ARM: a write of SLOT_CTRL with ARM = 1 (R140, R141). -/
def execSlotArm (p : Fin 64) (v : Word) (s : State) : Out :=
  .next (s.mgtWrite (.pc p) (slotCtrlWrite p (v ||| 0x80000000#32) s))

/-- SLOT_DISARM: a write of SLOT_CTRL with DISARM = 1 and ARM = 0 (R143). -/
def execSlotDisarm (p : Fin 64) (v : Word) (s : State) : Out :=
  .next (s.mgtWrite (.pc p) (slotCtrlWrite p ((v ||| 0x40000000#32) &&& 0x7FFFFFFF#32) s))

/-- STARVE_N_WRITE: a write of SLOT_CTRL with neither ARM nor DISARM (R136). -/
def execStarveNWrite (p : Fin 64) (v : Word) (s : State) : Out :=
  .next (s.mgtWrite (.pc p) (slotCtrlWrite p (v &&& 0x3FFFFFFF#32) s))

/-- Swap one word of the two banks of a slot table (R142). -/
def swapWord (p : Fin 64) (s : State) (w : Nat) : State :=
  (s.wr (Reg.SLOT_ACTIVE p w) (s.rd (Reg.SLOT_SHADOW p w))).wr (Reg.SLOT_SHADOW p w) (s.rd (Reg.SLOT_ACTIVE p w))

/-- The armed shift takes place: the banks swap, slot 0 begins, ARMED falls and SHIFT_COUNT increments (R142). -/
def slotShift (p : Fin 64) (s : State) : State :=
  let st := Reg.SLOT_STATUS p
  if s.bit st Fld.SLOT_STATUS_ARMED ∧ s.rd64 (Reg.SLOT_SHIFT_TIME p) ≤ s.now (.pc p) then
    let t := (upto 32).foldl (swapWord p) s
    (((((t.sf st Fld.SLOT_STATUS_ARMED 0).bump st Fld.SLOT_STATUS_SHIFT_COUNT).sf st Fld.SLOT_STATUS_ACTIVE_BANK
      (1 - s.gf st Fld.SLOT_STATUS_ACTIVE_BANK)).sf st Fld.SLOT_STATUS_SLOT 0).modPc p fun c =>
        { c with slotAt := c.cycle }).beginSlot p
  else s

/-- SLOT_SHIFT (R142). -/
def execSlotShift (p : Fin 64) (s : State) : Out := .next (s.onLive (.pc p) (slotShift p s))

/-- SLOT_CLASS_PRIO_WRITE: the new live priorities, which every PC arbiter uses (R137, R138). -/
def execSlotClassPrioWrite (v : Word) (s : State) : Out :=
  .next (s.mgtWrite .sensor (s.wr Reg.SLOT_CLASS_PRIO v))

/-! ### Debug accesses and runs (R147 to R149) -/

/-- A debug access becomes pending at its PC, and the runs there are suspended (R147, R149). DESIGN CHOICE: log entry 77, the
spec does not say what a second debug access does while one is pending at the PC; the model drops it. A row number beyond
those of R92 names no row. -/
def debugAccess (l : Loc) (write : Bool) (data : List Byte) (s : State) : State :=
  let p := pcFin l.pc
  if s.pcs[p].debugAcc.isSome ∨ rowsPerBank ≤ l.row then s
  else
    (s.skipIds 1).modPc p fun c =>
      { c.suspendRuns none with
        debugAcc := some { id := s.paths.nextId, cls := 1, loc := l, addr := none, write := write, data := data,
                           mask := List.replicate 64 true, poison := false, owner := .debug } }

/-- DEBUG_MEMORY_ACCESS (R147). DESIGN CHOICE: log entry 106, an access to a rank that the stack does not have takes its course
like any other; what it reads is undefined and what it writes is lost. -/
def execDebugMemoryAccess (rank : BitVec 8) (bg bank : BitVec 2) (row : BitVec 15) (col : BitVec 4) (write : Bool)
    (data : List Byte) (s : State) : Out :=
  let l : Loc := { rank := rank.toNat, bg := bg.toNat, bank := bank.toNat, row := row.toNat, col := col.toNat }
  .next (s.onLive (.pc (pcFin l.pc)) (debugAccess l write data s))

/-- Put a run on its way to a PC: its accesses follow each other over the memory crossbar (R148). DESIGN CHOICE: log entry
78, a run submitted while its bank is claimed or a debug access is pending starts unsuspended; the spec names only the
moment at which the claim or the access begins. -/
def State.submitRun (s : State) (p : Fin 64) (cls : Nat) (owner : Owner) (write : Bool) (l : Loc) (len : Nat)
    (data : List (Bool × List Byte)) : State :=
  let run : Run := { write := write, loc := l, len := len, suspended := false, done := 0, submitted := len,
                     progress := 0, startAt := s.pcs[p].cycle }
  let t := s.modPc p fun c =>
    if cls = 6 then { c with run6 := some run, lastRun6 := some c.cycle } else { c with run7 := some run }
  (upto len).foldl (fun t i =>
    let d := data.getD i (false, zeros 64)
    t.sendAccess { id := 0, cls := cls, loc := { l with col := l.col + i }, addr := none, write := write, data := d.2,
                   mask := List.replicate 64 true, poison := d.1, owner := owner }) t

/-- RUN_SUBMIT: a run of up to 16 accesses of class 6 or 7 on consecutive bursts of one row; a PC holds one run per
class (R148). -/
def runSubmit (p : Fin 64) (copier : Option (Fin 16)) (write : Bool) (l : Loc) (len : Nat)
    (data : List (Bool × List Byte)) (s : State) : State :=
  let c := s.pcs[p]
  let free := match copier with | some _ => c.run6.isNone | none => c.run7.isNone
  let fits := decide (0 < len ∧ len ≤ 16 ∧ l.col + len ≤ 16 ∧ l.pc = p.val)
  if free && fits then
    match copier with
    | some e => s.submitRun p 6 (if write then .copyWrite e else .copyRead e) write l len data
    | none => s.submitRun p 7 .margin write l len data
  else s

def execRunSubmit (p : Fin 64) (copier : Option (Fin 16)) (write : Bool) (group bg bank : Fin 4) (row : BitVec 15)
    (col : BitVec 4) (len : BitVec 5) (data : List (List Byte)) (s : State) : Out :=
  .next (s.onLive (.pc p) (runSubmit p copier write
    { rank := group * 64 + p, bg := bg, bank := bank, row := row.toNat, col := col.toNat } len.toNat
    (data.map fun d => (false, d)) s))

/-- A debug access at the PC has not completed: it is pending, queued or its data has not left (R149). -/
def Pc.debugBusy (c : Pc) : Bool :=
  c.debugAcc.isSome || (c.rq.any fun r => r.acc.isDebug) || (c.wq.any fun w => w.from_.any fun f => decide (f.1 = .debug)) || c.fwd.any fun f => f.acc.isDebug

/-- RUN_RESUME: a suspended run goes on from PROGRESS once its bank is free and the debug access has completed (R149). -/
def runResume (p : Fin 64) (cls7 : Bool) (s : State) : State :=
  s.modPc p fun c =>
    let go (r : Run) : Run :=
      if (c.bankOf r.loc.bankIx).claim = .none ∧ !c.debugBusy then { r with suspended := false } else r
    if cls7 then { c with run7 := c.run7.map go } else { c with run6 := c.run6.map go }

def execRunResume (p : Fin 64) (cls7 : Bool) (s : State) : Out := .next (s.onLive (.pc p) (runResume p cls7 s))

end Sys2Proof.Machine
end

