-- ==== Sys2Proof/Machine/CacheOps.lean ====
section
/-! DEFINITION. What the slices of the shared cache do to lines (07): ways and victims, hits, drops, write-backs, fills,
and the line operations of reads, writes, cleans, atomics and reductions. -/

namespace Sys2Proof.Machine

/-! ### Ways, sectors and victims (R180 to R184) -/

/-- Set of a line number (R181). -/
def setOfLine (ln : Nat) : Nat := ln / 16 % 3072

/-- A way of a slice by key set × 16 + way. -/
def Slice.way (x : Slice) (key : Nat) : Line := cget (fun _ => Line.init) x.ways key

/-- Write a way. -/
def Slice.setWay (x : Slice) (key : Nat) (l : Line) : Slice := { x with ways := cset (fun _ => Line.init) x.ways key l }

/-- The keys of a set's ways. -/
def setKeys (st : Nat) : List Nat := (upto 16).map fun w => st * 16 + w

/-- The way that holds a line (R181). -/
def Slice.find (x : Slice) (ln : Nat) : Option Nat :=
  (setKeys (setOfLine ln)).find? fun k => (x.way k).used ∧ (x.way k).line = ln

/-- Whether a line is pinned: locked by a miss entry, under a reduction entry or with an atomic pending (R182). -/
def Slice.pinned (x : Slice) (ln : Nat) : Bool :=
  (x.misses.any fun m => m.line = ln ∧ m.kind ≠ .waiting) || (x.red ln).isSome

/-- A sector of a line. -/
def Line.sector (l : Line) (i : Nat) : Sector := if i = 0 then l.lo else l.hi

/-- Replace a sector. -/
def Line.setSector (l : Line) (i : Nat) (x : Sector) : Line := if i = 0 then { l with lo := x } else { l with hi := x }

/-- Whether a line has a dirty sector. -/
def Line.isDirty (l : Line) : Bool := (l.lo.valid && l.lo.dirty) || (l.hi.valid && l.hi.dirty)

/-- The 128 bytes of a line; bytes of an invalid sector read zero. -/
def Line.bytes (l : Line) : List Byte := sliceBytes l.lo.data 0 64 ++ sliceBytes l.hi.data 0 64

/-- Lower RET of the unpinned ways of a set whose RET is 1 or 2 (R183). -/
def Slice.age (x : Slice) (st : Nat) : Slice :=
  (setKeys st).foldl (fun y k =>
    let l := y.way k
    if l.used ∧ !x.pinned l.line ∧ (l.ret = 1 ∨ l.ret = 2) then y.setWay k { l with ret := l.ret - 1 } else y) x

/-- The victim way of a set after at most `n` rounds of ageing, with the slice as the choice leaves it (R183). -/
def victimN : Nat → Slice → Nat → Option (Nat × Slice)
  | 0, _, _ => none
  | n + 1, x, st =>
    let keys := setKeys st
    let free := keys.filter fun k => !(x.way k).used || !x.pinned (x.way k).line
    match free.find? fun k => !(x.way k).used with
    | some k => some (k, x)
    | none =>
      match free.find? fun k => (x.way k).ret = 0 with
      | some k => some (k, x)
      | none =>
        if free.isEmpty then none
        else if free.all fun k => (x.way k).ret = 3 then free.head?.map fun k => (k, x)
        else victimN n (x.age st) st

/-- The victim of a set; none when every way is pinned (R183). -/
def Slice.victim (x : Slice) (st : Nat) : Option (Nat × Slice) := victimN 4 x st

/-- RET = 3 for a KEEP fill or hit, under the limit of KEEP_WAYS (R184). -/
def keepRet (x : Slice) (key keepWays : Nat) : Nat :=
  let n := ((setKeys (key / 16)).filter fun k => k ≠ key ∧ (x.way k).used ∧ (x.way k).ret = 3).length
  if (x.way key).ret = 3 ∨ n < keepWays then 3 else 2

/-! ### Accesses of a slice (R34, R183, R189, R437) -/

/-- Class of a write of a request's data: remote traffic keeps class 5, every other write is class 2 (R34). -/
def writeClass (r : Req) : Nat := if r.cls = 5 then 5 else 2

/-- Send one sector of a line to its PC. -/
def State.sendSector (s : State) (base i cls : Nat) (data : List Byte) (mask : List Bool) (poison : Bool) (o : Owner) :
    State :=
  s.sendAccess { id := 0, cls := cls, loc := s.physLoc (base + 64 * i), addr := some (base + 64 * i), write := true,
                 data := data, mask := mask, poison := poison, owner := o }

/-- Ask a PC for one sector of a line. -/
def State.askSector (s : State) (base i cls : Nat) (o : Owner) : State :=
  s.sendAccess { id := 0, cls := cls, loc := s.physLoc (base + 64 * i), addr := some (base + 64 * i), write := false,
                 data := [], mask := [], poison := false, owner := o }

/-- Write back the dirty sectors of a line as class-2 accesses; a poisoned sector is written poisoned (R183, R437). -/
def State.writeBackLine (s : State) (l : Line) (o : Owner) : State :=
  (upto 2).foldl (fun t i =>
    let x := l.sector i
    if x.valid ∧ x.dirty then t.sendSector l.base i 2 x.data (List.replicate 64 true) x.poison o else t) s

/-- The sectors that a write-back of a line sends. -/
def Line.dirtySectors (l : Line) : List Nat := (upto 2).filter fun i => (l.sector i).valid && (l.sector i).dirty

/-- A line with both sectors clean. -/
def Line.cleaned (l : Line) : Line := { l with lo := { l.lo with dirty := false }, hi := { l.hi with dirty := false } }

/-- Lines of a slice with write-backs that have not entered a pool yet (R36, R189). -/
def State.wbLines (s : State) (sl : Fin 16) : List Nat :=
  s.paths.memXbar.filterMap fun e => match e.2.owner with
    | .writeBack x ln => if x = sl then some ln else none
    | _ => none

/-- Entries of the write-back buffer in use (R36). -/
def State.wbUsed (s : State) (sl : Fin 16) : Nat := (s.wbLines sl).eraseDups.length

/-- The miss entries of a slice and its write-back buffer hold what a step leaves in them (R36). -/
def State.sliceFits (t : State) (sl : Fin 16) : Bool :=
  decide (t.paths.slices[sl].misses.length ≤ 256) && decide (t.wbUsed sl ≤ 64)

/-- A step of a slice that its miss entries or its write-back buffer have no room for waits (R36, R192). -/
def State.ifFits (s : State) (sl : Fin 16) (t : State) : State := if t.sliceFits sl then t else s

/-- A drop of a line waits for the release of its reduction entry; the first one decides whether the dirty bytes are lost
(R187, R188). -/
def Line.deferred (l : Line) (discard : Bool) : Line :=
  if l.deferDrop then l else { l with deferDrop := true, deferDiscard := discard }

/-- Drop a way: a dirty line is written back unless it is discarded; a line with a reduction entry is dropped at its
RELEASE (R185, R187, R188). -/
def State.dropWay (s : State) (sl : Fin 16) (key : Nat) (discard : Bool) : State :=
  let x := s.paths.slices[sl]
  let l := x.way key
  if (x.red l.line).isSome then s.modSlice sl fun y => y.setWay key (l.deferred discard)
  else
    let t := if discard then s else s.writeBackLine l (.writeBack sl l.line)
    t.modSlice sl fun y => y.setWay key Line.init

/-! ### What a request needs (R185, R195) -/

/-- The request's first byte within its line. -/
def Req.offset (r : Req) : Nat := r.addr % 128

/-- The sectors a request touches. -/
def Req.touched (r : Req) : List Nat :=
  (upto 2).filter fun i => decide (r.offset < 64 * (i + 1)) && decide (64 * i < r.offset + r.size)

/-- Strobe of byte `b` of the line (R53). -/
def Req.strobe (r : Req) (b : Nat) : Bool :=
  decide (r.offset ≤ b) && decide (b < r.offset + r.size) && r.strb.getD (b - r.offset) false

/-- A write covers a sector entirely, with every strobe set (R185). -/
def Req.covers (r : Req) (i : Nat) : Bool := (upto 64).all fun k => r.strobe (64 * i + k)

/-- The sectors whose contents an operation needs (R185, R199). -/
def Req.needs (r : Req) : List Nat :=
  match r.op with
  | .write => r.touched.filter fun i => !r.covers i
  | .clean => []
  | _ => r.touched

/-- A narrow request: 8, 16 or 32 B (R30). -/
def Req.narrow (r : Req) : Bool := r.size ≤ 32

/-- FUNC and FORMAT of an atomic or a reduction (R194). -/
def Req.func (r : Req) : Nat := natBits r.attr 0 4
def Req.format (r : Req) : Nat := natBits r.attr 4 4

/-- Contributions that a REDUCE_INTO carries (R194, R202). -/
def Req.contributions (r : Req) : Nat := r.count

/-- Whether an ATOMIC is malformed (R194, R195, R197). -/
def Req.badAtomic (r : Req) : Bool :=
  if r.func = 4 then decide (r.format ≠ 1) || decide (r.size ≠ 16) || !(r.strb.all fun b => b) || decide (r.strb.length < 16)
  else
    match AtomFunc.ofCode r.func, AtomFormat.ofCode r.format with
    | some _, some f => r.torn || !strobesWhole r.size f.bytes r.strb
    | _, _ => true

/-- Whether a REDUCE_INTO is malformed whatever the line holds (R194, R202, R203, R205). DESIGN CHOICE: log entry 80, an ARM
or a QUERY of a SIZE other than 16. -/
def Req.badReduce (r : Req) : Bool :=
  match r.func with
  | 8 => decide (r.size ≠ 16) || (AtomFormat.ofCode r.format).isNone || decide (2 < natBits r.attr 8 4)
  | 9 => decide (r.size ≠ 16)
  | 10 => false
  | f => decide (2 < f) || decide (r.contributions = 0) || (match AtomFormat.ofCode r.format with
      | some g => r.torn || !strobesWhole r.size g.bytes r.strb
      | none => true)

/-! ### Line operations -/

/-- RET after a hit or a fresh fill (R185, R186). DESIGN CHOICE: log entry 102, a line that is there without the sector asked for
takes RET as a hit and the path of a miss; R185 names neither. -/
def nextRet (x : Slice) (key keepWays : Nat) (r : Req) (fresh : Bool) : Nat :=
  let l := x.way key
  let plain : Bool := r.op = .read ∨ r.op = .write
  if r.prefetch then (if fresh then 0 else l.ret)
  else
    match r.hint with
    | .normal => if fresh && plain then 1 else max l.ret 2
    | .stream => if fresh then 0 else l.ret
    | .keep => keepRet x key keepWays
    | .last => l.ret

/-- Bytes of a line with a request's strobed bytes in place. -/
def Req.merged (r : Req) (l : Line) : List Byte :=
  l.bytes.zipIdx.map fun (b, i) => if r.strobe i then r.data.getD (i - r.offset) 0 else b

/-- The line after bytes have been written into the touched sectors: valid and dirty; a wholly covered sector loses its
poison (R185, R200). -/
def Line.written (l : Line) (r : Req) (bytes : List Byte) (clear : Bool) : Line :=
  r.touched.foldl (fun l i =>
    let x := l.sector i
    l.setSector i { valid := true, dirty := true, poison := x.poison && !(clear && r.covers i),
                    data := sliceBytes bytes (64 * i) 64 }) l

/-- A request touches a poisoned sector. -/
def Line.poisonedFor (l : Line) (r : Req) : Bool := r.touched.any fun i => (l.sector i).valid && (l.sector i).poison

/-- KEEP_WAYS (R184). -/
def State.keepWays (s : State) : Nat := s.gf Reg.CACHE_CTRL Fld.CACHE_CTRL_KEEP_WAYS

/-- Set RET of a way as the request's hint asks (R185). -/
def State.touchRet (s : State) (sl : Fin 16) (key : Nat) (r : Req) (fresh : Bool) : State :=
  s.modSlice sl fun x => x.setWay key { x.way key with ret := nextRet x key s.keepWays r fresh }

/-- Drop after an operation with hint LAST (R185); DISCARD acts on READ and CLEAN alone (R187). -/
def State.dropIfLast (s : State) (sl : Fin 16) (key : Nat) (r : Req) : State :=
  if r.hint = .last ∧ !r.prefetch then s.dropWay sl key (r.discard && decide (r.op = .read)) else s

/-- A READ of a line whose sectors are there (R185, R205, R438). -/
def State.lineRead (s : State) (sl : Fin 16) (key : Nat) (r : Req) (fresh : Bool) : State :=
  let x := s.paths.slices[sl]
  let l := x.way key
  let t := (s.touchRet sl key r fresh).dropIfLast sl key r
  if r.prefetch then t
  else if l.poisonedFor r then t.complete r .poisoned (zeros r.size)
  else t.complete r (x.readStatus l.line) (sliceBytes l.bytes r.offset r.size)

/-- A WRITE of a line that is there (R185, R205). -/
def State.lineWrite (s : State) (sl : Fin 16) (key : Nat) (r : Req) (fresh : Bool) : State :=
  let l := s.paths.slices[sl].way key
  if (s.paths.slices[sl].red l.line).isSome then s.complete r .reductionOpen []
  else
    let l' := l.written r (r.merged l) true
    let t := (s.modSlice sl fun x => x.setWay key l').touchRet sl key r fresh
    let t := if r.hint = .stream then
        (t.writeBackLine l' (.writeBack sl l.line)).modSlice sl fun x => x.setWay key (x.way key).cleaned
      else t.dropIfLast sl key r
    t.complete r .ok []

/-- Old values that an ATOMIC returns: zero in untouched elements (R198). -/
def atomOld (r : Req) (n : Nat) (old : List Byte) : List Byte :=
  (upto r.size).map fun i => if r.strb.getD (i / n * n) false then old.getD i 0 else 0

/-- The bytes of a request's area after its element operation (R195, R196). -/
def atomBytes (fn : AtomFunc) (fmt : AtomFormat) (isUnsigned : Bool) (r : Req) (old : List Byte) : List Byte :=
  let n := fmt.bytes
  (upto (r.size / n)).flatMap fun i =>
    let o := sliceBytes old (i * n) n
    if r.strb.getD (i * n) false then
      leBytes n (atomElement fn fmt isUnsigned (leNat o) (leNat (sliceBytes r.data (i * n) n)))
    else o

/-- An element operation on a line as one indivisible action (R195, R196, R198, R200, R205). -/
def State.lineAtomic (s : State) (sl : Fin 16) (key : Nat) (fn : AtomFunc) (r : Req) (fresh : Bool) : State :=
  let x := s.paths.slices[sl]
  let l := x.way key
  match AtomFormat.ofCode r.format with
  | none => s.complete r .badRequest []
  | some fmt =>
    if (x.red l.line).isSome then s.complete r .reductionOpen []
    else if l.poisonedFor r then s.complete r .poisoned []
    else
      let old := sliceBytes l.bytes r.offset r.size
      let new := atomBytes fn fmt (r.attr.testBit 9) r old
      let l' := l.written r (patch l.bytes r.offset new) false
      let fetch : Bool := r.attr.testBit 8 || decide (fn = .swap)
      let t := (((s.modSlice sl fun x => x.setWay key l').touchRet sl key r fresh).dropIfLast sl key r)
      t.complete r .ok (if fetch then atomOld r fmt.bytes old else [])

/-- A CAS on a line (R197). -/
def State.lineCas (s : State) (sl : Fin 16) (key : Nat) (r : Req) (fresh : Bool) : State :=
  let x := s.paths.slices[sl]
  let l := x.way key
  if (x.red l.line).isSome then s.complete r .reductionOpen []
  else if l.poisonedFor r then s.complete r .poisoned []
  else
    let hi : Nat := if r.attr.testBit 10 then 8 else 0
    let old := sliceBytes l.bytes (r.offset + hi) 8
    let hit : Bool := old = sliceBytes r.data 0 8
    let l' := if hit then l.written r (patch l.bytes (r.offset + hi) (sliceBytes r.data 8 8)) false else l
    let t := (((s.modSlice sl fun x => x.setWay key l').touchRet sl key r fresh).dropIfLast sl key r)
    t.complete r .ok (zeros hi ++ old ++ zeros (8 - hi))

/-- Replace or add a line's reduction entry. -/
def Slice.setRed (x : Slice) (e : RedEntry) : Slice :=
  { x with reds := e :: x.reds.filter fun y => y.line ≠ e.line }

/-- Room for one more reduction entry: the table's 256 and the 8 lines of a set (R201). -/
def Slice.redRoom (x : Slice) (ln : Nat) : Bool :=
  decide (x.reds.length < 256) && decide ((x.reds.filter fun e => setOfLine e.line = setOfLine ln).length < 8)

/-- The slice tells the scheduler core that a line's reduction is complete (R204). -/
def State.notice (s : State) (base : Nat) : State := s.modInbox fun b => { b with notices := b.notices ++ [base] }

/-- A contribution to a line (R202, R204). DESIGN CHOICE: log entry 103, a contribution that meets a poisoned sector and also a
full table, another FUNC or FORMAT, or an overcount ends with the latter's status. -/
def State.lineContribute (s : State) (sl : Fin 16) (key : Nat) (r : Req) (fresh : Bool) : State :=
  let x := s.paths.slices[sl]
  let l := x.way key
  let n := r.contributions
  let ovr (t : State) : State := (t.modSlice sl fun y => { y with overcount := true }).complete r .overcount []
  match AtomFunc.ofCode r.func, AtomFormat.ofCode r.format with
  | some fn, some fmt =>
    let e := (x.red l.line).getD { line := l.line, func := r.func, format := r.format, count := 0, expected := 0, m := 0,
                                   d := 0, complete := false }
    if (x.red l.line).isNone ∧ !x.redRoom l.line then
      (s.modSlice sl fun y => { y with tableFull := true }).complete r .reductionTableFull []
    else if e.func ≠ r.func ∨ e.format ≠ r.format then s.complete r .badRequest []
    else if e.complete then ovr s
    else if (0 < e.expected ∧ e.expected < e.count + n) ∨ 16777215 < e.count + n then ovr s
    else if l.poisonedFor r then s.complete r .poisoned []
    else
      let old := sliceBytes l.bytes r.offset r.size
      let l' := l.written r (patch l.bytes r.offset (atomBytes fn fmt false r old)) false
      let done : Bool := e.count + n = e.expected
      let e' : RedEntry := { e with count := e.count + n, complete := done,
                                    m := deckleWord (addUp (ofB32 e.m) (contributionMag fmt r.data r.strb)),
                                    d := deckleWord (addUp (ofB32 e.d) (ofB32 r.deckle)) }
      let t := ((s.modSlice sl fun y => (y.setWay key l').setRed e').touchRet sl key r fresh).dropIfLast sl key r
      (if done then t.notice l.base else t).complete r .ok []
  | _, _ => s.complete r .badRequest []

/-- An ARM of a line's entry (R203). DESIGN CHOICE: log entry 80, an EXPECTED of 0 or above 16,777,215, for which the spec
gives no status. -/
def State.lineArm (s : State) (sl : Fin 16) (key : Nat) (r : Req) (fresh : Bool) : State :=
  let x := s.paths.slices[sl]
  let l := x.way key
  let fn := natBits r.attr 8 4
  let e := (x.red l.line).getD { line := l.line, func := fn, format := r.format, count := 0, expected := 0, m := 0,
                                 d := 0, complete := false }
  let exp := leNat (sliceBytes r.data 0 4)
  if (x.red l.line).isNone ∧ !x.redRoom l.line then
    (s.modSlice sl fun y => { y with tableFull := true }).complete r .reductionTableFull []
  else if 0 < e.expected ∨ e.func ≠ fn ∨ e.format ≠ r.format ∨ exp = 0 ∨ 16777215 < exp then
    s.complete r .badRequest []
  else if l.poisonedFor r then s.complete r .poisoned []
  else
    let done : Bool := exp ≤ e.count
    let ovr : Bool := exp < e.count
    let t := (s.modSlice sl fun y =>
        { y.setRed { e with expected := exp, complete := done } with overcount := y.overcount || ovr }).touchRet sl key r
        fresh
    let t := t.dropIfLast sl key r
    (if done then t.notice l.base else t).complete r (if ovr then .overcount else .ok) []

/-- The 16 bytes a QUERY returns (R205). -/
def RedEntry.bytes (e : RedEntry) : List Byte :=
  leBytes 4 (e.count + (if e.complete then 2 ^ 31 else 0)) ++ leBytes 4 e.expected ++ leBytes 4 e.m ++ leBytes 4 e.d

/-- What the hint of a QUERY or a RELEASE does to a line that is there (R185, R188). -/
def State.hintOnly (s : State) (sl : Fin 16) (r : Req) : State :=
  match s.paths.slices[sl].find (lineNo r.addr) with
  | some k => (s.touchRet sl k r false).dropIfLast sl k r
  | none => s

/-- A sector that a request touches is there and poisoned (R200). -/
def Slice.poisons (x : Slice) (r : Req) : Bool := (x.find (lineNo r.addr)).any fun k => (x.way k).poisonedFor r

/-- A QUERY (R200, R205). -/
def State.lineQuery (s : State) (sl : Fin 16) (r : Req) : State :=
  let x := s.paths.slices[sl]
  match x.red (lineNo r.addr) with
  | none => s.complete r .badRequest []
  | some e => if x.poisons r then s.complete r .poisoned [] else (s.hintOnly sl r).complete r .ok e.bytes

/-- A RELEASE frees the entry, carries out a deferred drop, and then does what its own hint asks (R185, R188, R200, R205). -/
def State.lineRelease (s : State) (sl : Fin 16) (r : Req) : State :=
  let ln := lineNo r.addr
  let x := s.paths.slices[sl]
  match x.red ln with
  | none => s.complete r .badRequest []
  | some _ =>
    if x.poisons r then s.complete r .poisoned []
    else
      let t := s.modSlice sl fun x => { x with reds := x.reds.filter fun e => e.line ≠ ln }
      let t := match t.paths.slices[sl].find ln with
        | some k =>
          let l := t.paths.slices[sl].way k
          if l.deferDrop then t.dropWay sl k l.deferDiscard else t
        | none => t
      (t.hintOnly sl r).complete r .ok []

/-- The operation of a request on a line that is there with all it needs. -/
def State.lineOp (s : State) (sl : Fin 16) (key : Nat) (r : Req) (fresh : Bool) : State :=
  match r.op with
  | .read => s.lineRead sl key r fresh
  | .write => s.lineWrite sl key r fresh
  | .atomic =>
    if r.func = 4 then s.lineCas sl key r fresh
    else match AtomFunc.ofCode r.func with
      | some fn => s.lineAtomic sl key fn r fresh
      | none => s.complete r .badRequest []
  | .reduceInto =>
    if r.func = 8 then s.lineArm sl key r fresh else s.lineContribute sl key r fresh
  | _ => s.complete r .badRequest []

/-! ### Misses (R30, R31, R185, R192) -/

/-- Add a miss entry. -/
def State.addMiss (s : State) (sl : Fin 16) (m : Miss) : State :=
  s.modSlice sl fun x => { x with misses := x.misses ++ [m] }

/-- A miss entry of a line in a state, with the request in service. -/
def Miss.mk' (ln : Nat) (k : MissKind) (r : Option Req) (left : List Nat) (fresh : Bool) (q : List Req) : Miss :=
  { line := ln, kind := k, current := r, sectorsLeft := left, got := [], narrowLeft := 0, fresh := fresh, queue := q }

/-- A request that cannot proceed waits in the miss entry of its line (R192). -/
def State.park (s : State) (sl : Fin 16) (r : Req) : State :=
  s.addMiss sl (Miss.mk' (lineNo r.addr) .waiting none [] false [r])

/-- Send a narrow request to the half-pannier of its line's PC, under a line lock (R30, R31, R32). -/
def State.toPannier (s : State) (sl : Fin 16) (r : Req) : State :=
  let l := s.physLoc r.addr
  let n : Narrow := { req := r, slice := sl, burst := l.col, offset := r.addr % 64 }
  s.modPaths fun x => { x with panXbar := x.panXbar ++ [(l.pc, n)] }

/-- Package address of a request's line. -/
def Req.base (r : Req) : Nat := r.addr / 128 * 128

/-- Read the missing sectors through the slice without allocating (R30, R185). -/
def State.readThrough (s : State) (sl : Fin 16) (r : Req) (missing : List Nat) : State :=
  let ln := lineNo r.addr
  missing.foldl (fun t i => t.askSector r.base i r.cls (.readThrough sl ln i))
    (s.addMiss sl (Miss.mk' ln .readThrough (some r) missing false []))

/-- Write through the slice: sectors that are in the cache are merged and written whole, the others go with their
strobes as they are (R30, R114, R185). -/
def State.writeThrough (s : State) (sl : Fin 16) (r : Req) : State :=
  let ln := lineNo r.addr
  let t := s.addMiss sl (Miss.mk' ln .writeThrough (some r) r.touched false [])
  let held : Option Line := (t.paths.slices[sl].find ln).map fun k => t.paths.slices[sl].way k
  let t := r.touched.foldl (fun t i =>
    match held with
    | some l =>
      if (l.sector i).valid then
        t.sendSector r.base i (writeClass r) (sliceBytes (r.merged l) (64 * i) 64) (List.replicate 64 true)
          ((l.sector i).poison && !r.covers i) (.writeThrough sl ln)
      else t.sendSector r.base i (writeClass r) (sliceBytes (r.merged Line.init) (64 * i) 64)
        ((upto 64).map fun k => r.strobe (64 * i + k)) false (.writeThrough sl ln)
    | none => t.sendSector r.base i (writeClass r) (sliceBytes (r.merged Line.init) (64 * i) 64)
        ((upto 64).map fun k => r.strobe (64 * i + k)) false (.writeThrough sl ln)) t
  match t.paths.slices[sl].find ln, held with
  | some k, some l => t.modSlice sl fun x => x.setWay k (r.touched.foldl (fun y i =>
      if (l.sector i).valid then
        y.setSector i { valid := true, dirty := false, poison := (l.sector i).poison && !r.covers i,
                        data := sliceBytes (r.merged l) (64 * i) 64 }
      else y) l)
  | _, _ => t

/-- Allocate a way for a line, writing a dirty victim back; none when every way is pinned (R183). -/
def State.allocate (s : State) (sl : Fin 16) (r : Req) : Option (Nat × State) :=
  match s.paths.slices[sl].victim (setOfLine (lineNo r.addr)) with
  | none => none
  | some (k, x) =>
    let old := x.way k
    let t := s.modSlice sl fun _ => x.setWay k { Line.init with used := true, line := lineNo r.addr, base := r.base }
    some (k, if old.used then t.writeBackLine old (.writeBack sl old.line) else t)

/-- Atomic operations waiting for fills (atomic pending table, R36, R192). -/
def Slice.atomics (x : Slice) : Nat :=
  (x.misses.filter fun m => match m.current with
    | some r => decide (r.op = .atomic ∨ r.op = .reduceInto)
    | none => false).length

/-- Fill the missing sectors of way `key`, then operate; with nothing missing the operation follows at once (R185,
R199). -/
def State.fillThenOp (s : State) (sl : Fin 16) (key : Nat) (r : Req) (missing : List Nat) (fresh : Bool) : State :=
  if missing.isEmpty then s.lineOp sl key r fresh
  else
    let ln := lineNo r.addr
    missing.foldl (fun t i => t.askSector r.base i r.cls (.fill sl ln i))
      (s.addMiss sl (Miss.mk' ln .fill (some r) missing fresh []))

/-- One way as the CLEAN column of R185 has it: clean or dropped, written back unless DISCARD; with a reduction entry the
drop waits for its release (R187, R188, R205). -/
def State.cleanWay (s : State) (sl : Fin 16) (key : Nat) (drop discard : Bool) : State :=
  let x := s.paths.slices[sl]
  let l := x.way key
  if drop ∧ (discard ∨ (x.red l.line).isNone) then s.dropWay sl key discard
  else (s.writeBackLine l (.writeBack sl l.line)).modSlice sl fun y =>
    y.setWay key (if drop then l.cleaned.deferred false else l.cleaned)

/-- A CLEAN of a line (R187, R189, R205): it answers once every write-back of the line, earlier ones among them, has entered
its pool; until then the line is locked. -/
def State.lineClean (s : State) (sl : Fin 16) (r : Req) : State :=
  let ln := lineNo r.addr
  let t := match s.paths.slices[sl].find ln with
    | none => s
    | some k => s.cleanWay sl k (decide (r.hint = Hint.last)) r.discard
  if t.wbWaits ln then t.addMiss sl (Miss.mk' ln .writeThrough (some r) [] false [])
  else t.complete r .ok []

/-- The drop that a narrow request with hint LAST asks for once its line lock is released, and whether it discards (R187,
R188). -/
def Req.dropAfter (r : Req) : Option Bool :=
  if r.hint = .last then some (r.discard && decide (r.op = .read)) else none

/-- A request whose line no miss entry holds (R30, R185, R192, R194). -/
def State.serve (s : State) (sl : Fin 16) (r : Req) : State :=
  let x := s.paths.slices[sl]
  let ln := lineNo r.addr
  let key := x.find ln
  let missing := match key with
    | some k => r.needs.filter fun i => !((x.way k).sector i).valid
    | none => r.needs
  let here : Bool := key.isSome && missing.isEmpty
  let isAtom : Bool := r.op = .atomic ∨ r.op = .reduceInto
  if r.op = .clean then s.lineClean sl r
  else if r.op = .atomic ∧ r.badAtomic then s.complete r .badRequest []
  else if r.op = .reduceInto ∧ r.badReduce then s.complete r .badRequest []
  else if r.op = .reduceInto ∧ r.func = 9 then s.lineQuery sl r
  else if r.op = .reduceInto ∧ r.func = 10 then s.lineRelease sl r
  else if (r.op = .write ∨ r.op = .atomic) ∧ (x.red ln).isSome then s.complete r .reductionOpen []
  else if here ∧ (r.op ≠ .write ∨ r.hint ≠ .stream ∨ (r.touched.all fun i =>
      match key with | some k => ((x.way k).sector i).valid | none => false)) then
    match key with
    | some k => s.lineOp sl k r false
    | none => s
  else if !isAtom ∧ !r.prefetch ∧ r.narrow ∧ (r.hint = .stream ∨ r.hint = .last) then
    (s.addMiss sl { Miss.mk' ln .pannier none [] false [] with
      narrowLeft := 1, drop := if key.isSome then r.dropAfter else none }).toPannier sl r
  else if r.op = .read ∧ r.hint = .stream then s.readThrough sl r missing
  else if r.op = .write ∧ r.hint = .stream then s.writeThrough sl r
  else if isAtom ∧ 64 ≤ x.atomics then s.park sl r
  else
    match key with
    | some k => s.fillThenOp sl k r missing false
    | none =>
      match s.allocate sl r with
      | none => s.park sl r
      | some (k, t) => t.fillThenOp sl k r missing true

/-- A request has the path of a miss although its line may be there: no sector it touches is valid (R30, R185). -/
def Slice.absent (x : Slice) (r : Req) : Bool :=
  match x.find (lineNo r.addr) with
  | some k => r.touched.all fun i => !((x.way k).sector i).valid
  | none => true

/-- A request meets the miss entry of its line: it waits behind it, or follows earlier narrow requests to the same
pannier entry (R31, R192). One whose sector the cache holds, and a WRITE to a line with a reduction entry, are no pannier
requests and wait (R30, R193, R205). -/
def State.meetMiss (s : State) (sl : Fin 16) (m : Miss) (r : Req) : State :=
  let x := s.paths.slices[sl]
  let passes : Bool := x.absent r && (decide (r.op = .read) || (decide (r.op = .write) && (x.red m.line).isNone))
  if m.kind = .pannier ∧ m.queue.isEmpty ∧ passes ∧ !r.prefetch ∧ r.narrow ∧ (r.hint = .stream ∨ r.hint = .last) then
    (s.modSlice sl fun x => { x with misses := x.misses.map fun y =>
      if y.line = m.line then
        { y with narrowLeft := y.narrowLeft + 1,
                 drop := y.drop.or (if (x.find m.line).isSome then r.dropAfter else none) } else y }).toPannier sl r
  else s.modSlice sl fun x => { x with misses := x.misses.map fun y =>
      if y.line = m.line then { y with queue := y.queue ++ [r] } else y }

/-- A request leaves the input queue and is served, or waits in its line's miss entry (R191, R192). -/
def State.dispatchReq (s : State) (sl : Fin 16) (r : Req) : State :=
  match s.paths.slices[sl].misses.find? fun m => m.line = lineNo r.addr with
  | some m => s.meetMiss sl m r
  | none => s.serve sl r

/-- The path a tagged request took in its slice (R30, R521). -/
def State.tagPath (s : State) (sl : Fin 16) (r : Req) : State :=
  let k : Nat := match s.paths.slices[sl].misses.find? fun m => m.line = lineNo r.addr with
    | none => 0
    | some m => match m.kind with
      | .fill => 1
      | .readThrough => 2
      | .writeThrough => 2
      | .pannier => 3
      | .waiting => 0
  s.modTag r.id fun t => { t with path := k }

/-- Take the head of a slice's input queue when it is a request of the kind asked for; while it would leave more than the miss
entries or the write-back buffer hold, the queue stops (R36, R191, R192). -/
def State.takeHead (s : State) (sl : Fin 16) (p : Req → Bool) : State :=
  match s.paths.slices[sl].input with
  | [] => s
  | r :: rest =>
    if p r then
      let u := (s.stamp r.id 3 (s.now (.slice sl))).modTag r.id fun t => { t with slice := sl, cls := r.cls }
      s.ifFits sl (((u.modSlice sl fun x => { x with input := rest }).dispatchReq sl r).tagPath sl r)
    else s

end Sys2Proof.Machine
end

