-- ==== Sys2Proof/Machine/Cache.lean ====
section
/-! DEFINITION. Meanings of the shared-cache rows (07). -/

namespace Sys2Proof.Machine

/-- The slice answers: its island is in service, and it has not fallen silent (R208, R462). -/
def State.answers (s : State) (sl : Fin 16) : Bool := s.live (.slice sl) && s.paths.slices[sl].alive

/-- Take a step of a slice only while it answers. -/
def State.onSlice (s : State) (sl : Fin 16) (t : State) : State := if s.answers sl then t else s

/-! ### Requests at the head of a slice's input queue (R185 to R205) -/

/-- A READ reaches its slice (R185). -/
def execHostRead (sl : Fin 16) (s : State) : Out :=
  .next (s.onSlice sl (s.takeHead sl fun r => decide (r.op = .read)))

/-- A WRITE reaches its slice (R185). -/
def execHostWrite (sl : Fin 16) (s : State) : Out :=
  .next (s.onSlice sl (s.takeHead sl fun r => decide (r.op = .write)))

/-- A CLEAN reaches its slice (R187, R189). -/
def execClean (sl : Fin 16) (s : State) : Out :=
  .next (s.onSlice sl (s.takeHead sl fun r => decide (r.op = .clean ∨ r.op = .reserved)))

/-- An ATOMIC whose FUNC is `f`. -/
def Req.isAtomic (f : Nat) (r : Req) : Bool := decide (r.op = .atomic ∧ r.func = f)

/-- An ATOMIC ADD (R196). An ATOMIC of a reserved FUNC completes with BAD_REQUEST by the same row (R194). -/
def execAtomicAdd (sl : Fin 16) (s : State) : Out :=
  .next (s.onSlice sl (s.takeHead sl fun r => Req.isAtomic 0 r || decide (r.op = .atomic ∧ 4 < r.func)))

/-- An ATOMIC MIN (R196). -/
def execAtomicMin (sl : Fin 16) (s : State) : Out :=
  .next (s.onSlice sl (s.takeHead sl (Req.isAtomic 1)))

/-- An ATOMIC MAX (R196). -/
def execAtomicMax (sl : Fin 16) (s : State) : Out :=
  .next (s.onSlice sl (s.takeHead sl (Req.isAtomic 2)))

/-- An ATOMIC SWAP (R196). -/
def execAtomicSwap (sl : Fin 16) (s : State) : Out :=
  .next (s.onSlice sl (s.takeHead sl (Req.isAtomic 3)))

/-- A CAS (R197). -/
def execAtomicCas (sl : Fin 16) (s : State) : Out :=
  .next (s.onSlice sl (s.takeHead sl (Req.isAtomic 4)))

/-- A REDUCE_INTO whose FUNC is `f`. -/
def Req.isReduce (f : Nat) (r : Req) : Bool := decide (r.op = .reduceInto ∧ r.func = f)

/-- A contribution (R202); a REDUCE_INTO of a reserved FUNC completes with BAD_REQUEST by the same row (R194). -/
def execReduceContribution (sl : Fin 16) (s : State) : Out :=
  .next (s.onSlice sl
    (s.takeHead sl fun r => decide (r.op = .reduceInto) && !(Req.isReduce 8 r || Req.isReduce 9 r || Req.isReduce 10 r)))

/-- An ARM (R203). -/
def execReduceArm (sl : Fin 16) (s : State) : Out :=
  .next (s.onSlice sl (s.takeHead sl (Req.isReduce 8)))

/-- A QUERY (R205). -/
def execReduceQuery (sl : Fin 16) (s : State) : Out :=
  .next (s.onSlice sl (s.takeHead sl (Req.isReduce 9)))

/-- A RELEASE (R205). -/
def execReduceRelease (sl : Fin 16) (s : State) : Out :=
  .next (s.onSlice sl (s.takeHead sl (Req.isReduce 10)))

/-! ### Input, waiting requests and returns (R31, R190, R192) -/

/-- The first request of the crossbar for a slice in crossbar-port order, earliest sent first within a port (R190). -/
def firstForSlice (s : State) (sl : Fin 16) : Option Req :=
  ((s.paths.reqXbar.filter fun r => s.sliceOf r.addr = sl).foldl (fun (b : Option Req) r =>
    match b with
    | none => some r
    | some x => if r.src.port < x.src.port then some r else some x) none)

/-- Take the first request of the crossbar for a slice into its input queue of 128, unless no miss entry is free (R36, R190,
R192). -/
def State.takeInput (s : State) (sl : Fin 16) : State :=
  match firstForSlice s sl with
  | none => s
  | some r =>
    if s.paths.slices[sl].input.length < 128 ∧ s.paths.slices[sl].misses.length < 256 then
      ((s.stamp r.id 2 (s.now (.slice sl))).modPaths fun x => { x with reqXbar := x.reqXbar.erase r }).modSlice sl fun y =>
        { y with input := y.input ++ [r] }
    else s

/-- A slice takes at most two requests in a cycle (R190). -/
def execSliceInput (sl : Fin 16) (s : State) : Out :=
  .next (s.onSlice sl ((s.takeInput sl).takeInput sl))

/-- Requests that still wait for a line stand behind the one that proceeded, in input-queue order (R192). -/
def State.reattach (s : State) (sl : Fin 16) (ln : Nat) (rest : List Req) : State :=
  if rest.isEmpty then s
  else if s.paths.slices[sl].misses.any fun m => m.line = ln then
    s.modSlice sl fun x => { x with misses := x.misses.map fun m =>
      if m.line = ln then { m with queue := m.queue ++ rest } else m }
  else s.addMiss sl (Miss.mk' ln .waiting none [] false rest)

/-- Carry out the drop that waited for the release of a line lock (R188). -/
def State.dropReleased (s : State) (sl : Fin 16) (m : Miss) : State :=
  match m.drop, s.paths.slices[sl].find m.line with
  | some discard, some k => s.dropWay sl k discard
  | _, _ => s

/-- A miss entry that nothing locks: a drop that waited for the lock's release is carried out, and the oldest request that waits in
it proceeds (R188, R192). -/
def missRelease (sl : Fin 16) (s : State) : State :=
  match s.paths.slices[sl].misses.find? fun m => m.kind = .waiting ∧ (!m.queue.isEmpty ∨ m.drop.isSome) with
  | none => s
  | some m =>
    let t := (s.modSlice sl fun x => { x with misses := x.misses.filter fun y => y.line ≠ m.line }).dropReleased sl m
    match m.queue with
    | [] => s.ifFits sl t
    | r :: rest =>
      s.ifFits sl (((t.serve sl r).tagPath sl r).reattach sl m.line rest)

def execMissEntryRelease (sl : Fin 16) (s : State) : Out := .next (s.onSlice sl (missRelease sl s))

/-- The line lock of a miss entry goes; requests that wait in it stay (R31, R192). -/
def State.unlock (s : State) (sl : Fin 16) (ln : Nat) : State :=
  s.modSlice sl fun x => { x with misses := (x.misses.map fun m =>
    if m.line = ln then { m with kind := .waiting, current := none, sectorsLeft := [], got := [] } else m).filter keepMiss }

/-- A fill's data enters its sector; with the last one the request in service operates on the line (R31, R185, R437). -/
def State.fillSector (s : State) (sl : Fin 16) (m : Miss) (i : Nat) (d : Ret64) : State :=
  match s.paths.slices[sl].find m.line with
  | none => s.unlock sl m.line
  | some k =>
    let left := m.sectorsLeft.filter (· ≠ i)
    let t := s.modSlice sl fun x =>
      { x.setWay k ((x.way k).setSector i { valid := true, dirty := false, poison := d.bad,
                                            data := sliceBytes d.data 0 64 })
        with misses := x.misses.map fun y => if y.line = m.line then { y with sectorsLeft := left } else y }
    match m.current, left with
    | some r, [] => (t.unlock sl m.line).lineOp sl k r m.fresh
    | _, _ => t

/-- The bytes of a line as a read-through returns them: what the cache holds, and what came back (R30). -/
def throughBytes (held : Option Line) (got : List (Nat × Bool × List Byte)) : List Byte :=
  (upto 2).flatMap fun i =>
    match held with
    | some l =>
      if (l.sector i).valid then sliceBytes (l.sector i).data 0 64
      else sliceBytes (((got.find? fun g => g.1 = i).map fun g => g.2.2).getD []) 0 64
    | none => sliceBytes (((got.find? fun g => g.1 = i).map fun g => g.2.2).getD []) 0 64

/-- Read-through data comes back; with the last sector the read completes and the lock goes (R30, R31, R438). -/
def State.throughSector (s : State) (sl : Fin 16) (m : Miss) (i : Nat) (d : Ret64) : State :=
  let left := m.sectorsLeft.filter (· ≠ i)
  let got := m.got ++ [(i, d.bad, d.data)]
  let x := s.paths.slices[sl]
  let held : Option Line := (x.find m.line).map x.way
  match m.current, left with
  | some r, [] =>
    let bad : Bool := got.any (fun g => g.2.1) || (match held with
      | some l => l.poisonedFor r
      | none => false)
    (s.unlock sl m.line).complete r (if bad then .poisoned else x.readStatus m.line)
      (if bad then zeros r.size else sliceBytes (throughBytes held got) r.offset r.size)
  | _, _ => s.modSlice sl fun x => { x with misses := x.misses.map fun y =>
      if y.line = m.line then { y with sectorsLeft := left, got := got } else y }

/-- Whether returned data belongs to a slice, with its line and sector. -/
def Owner.ofSlice (o : Owner) (sl : Fin 16) : Option (Nat × Nat) :=
  match o with
  | .fill x ln i => if x = sl then some (ln, i) else none
  | .readThrough x ln i => if x = sl then some (ln, i) else none
  | _ => none

/-- The first data returned to a slice is taken up (R31). -/
def fillReturn (sl : Fin 16) (s : State) : State :=
  match s.paths.rets.find? fun d => (d.owner.ofSlice sl).isSome with
  | none => s
  | some d =>
    let t := s.modPaths fun x => { x with rets := x.rets.erase d }
    match d.owner.ofSlice sl with
    | none => t
    | some (ln, i) =>
      match t.paths.slices[sl].misses.find? fun m => m.line = ln ∧ (m.kind = .fill ∨ m.kind = .readThrough) with
      | none => t
      | some m => s.ifFits sl (if m.kind = .fill then t.fillSector sl m i d else t.throughSector sl m i d)

def execFillReturn (sl : Fin 16) (s : State) : Out := .next (s.onSlice sl (fillReturn sl s))

/-! ### Registers and fences (R184, R207 to R209) -/

/-- A write of CACHE_CTRL stores the nearer limit of KEEP_WAYS (R184). -/
def cacheCtrlWrite (v : Word) (s : State) : State :=
  s.sf Reg.CACHE_CTRL Fld.CACHE_CTRL_KEEP_WAYS (min 16 (max 1 (natBits v.toNat 0 5)))

/-- CACHE_CTRL_WRITE (R184). -/
def execCacheCtrlWrite (v : Word) (s : State) : Out := .next (s.mgtWrite .sensor (cacheCtrlWrite v s))

/-- PENDING of CACHE_FENCE. -/
def State.fencePending (s : State) : Nat := s.gf Reg.CACHE_FENCE Fld.CACHE_FENCE_PENDING

/-- A slice holds no request: none in the crossbar for it, none queued, none in a miss entry (R208). -/
def State.sliceIdle (s : State) (sl : Fin 16) : Bool :=
  (firstForSlice s sl).isNone && s.paths.slices[sl].input.isEmpty && s.paths.slices[sl].misses.isEmpty

/-- A line lies in a range of addresses. -/
def inRange (addr bytes base : Nat) : Bool := decide (addr / 128 * 128 ≤ base ∧ base < addr + bytes)

/-- Clean or drop ways as a sweep does, and count the lines written back or dropped for its packet (R185, R188, R304). -/
def State.sweepWays (s : State) (sl : Fin 16) (keys : List Nat) (drop discard : Bool) : State :=
  let x := s.paths.slices[sl]
  let counts (k : Nat) : Bool :=
    let free : Bool := (x.red (x.way k).line).isNone
    (drop && free) || ((x.way k).isDirty && !(drop && discard))
  let t := keys.foldl (fun t k => t.cleanWay sl k drop discard) s
  { t with sched := { t.sched with clean := t.sched.clean.map fun c => { c with count := c.count + (keys.filter counts).length } } }

/-- The lines of a sweep at some places of a slice, one after another while the write-back buffer has room; and the set of the
first that has to wait (R36, R304). -/
def State.sweepRoom (s : State) (sl : Fin 16) (drop discard : Bool) : List Nat → State × Option Nat
  | [] => (s, none)
  | k :: rest =>
    let u := s.sweepWays sl [k] drop discard
    if u.wbUsed sl ≤ 64 then u.sweepRoom sl drop discard rest else (s, some (k / 16))

/-- The rest of a slice's sweep before its lines go, as far as the write-back buffer has room for it: a full one holds the sweep
at its set (R36, R208, R304). -/
def State.endSweep (s : State) (sl : Fin 16) : State :=
  let x := s.paths.slices[sl]
  match x.sweep with
  | none => s
  | some (st, addr, bytes, drop, discard) =>
    let keys := ((x.ways.map (·.1)).filter fun k => st * 16 ≤ k && (x.way k).used && inRange addr bytes (x.way k).base)
    let (t, at_) := s.sweepRoom sl drop discard keys
    t.modSlice sl fun y => { y with sweep := at_.map fun n => (n, addr, bytes, drop, discard) }

/-- Put a line with a reduction entry into its slice under a mapping; with no way to take it there, or no line with it, the
entry alone moves, and the line's bytes are written back (R208; log entry 19). -/
def State.moveRed (s : State) (e : RedEntry) (l : Option Line) (fenced : Nat) : State :=
  let tgt := sliceFin (lineSlice fenced (128 * e.line))
  let t := s.modSlice tgt fun x => x.setRed e
  match l with
  | none => t
  | some l =>
    match t.paths.slices[tgt].victim (setOfLine l.line) with
    | none => t.writeBackLine l (.writeBack tgt l.line)
    | some (k, x) =>
      let old := x.way k
      let u := t.modSlice tgt fun _ => x.setWay k l
      if old.used then u.writeBackLine old (.writeBack tgt old.line) else u

/-- A line leaves a slice: with a reduction entry it goes to its slice under a mapping, otherwise it is written back where it
is dirty (R208). -/
def State.moveLine (s : State) (sl : Fin 16) (fenced ln : Nat) : State :=
  let x := s.paths.slices[sl]
  let l := (x.find ln).map x.way
  let t := s.modSlice sl fun y =>
    { y with ways := y.ways.filter fun e => e.2.line ≠ ln, reds := y.reds.filter fun e => e.line ≠ ln }
  match x.red ln, l with
  | some e, _ => t.moveRed e l fenced
  | none, some l => t.writeBackLine l (.writeBack sl ln)
  | none, none => t

/-- The lines that a slice holds, in its ways or its reduction table. -/
def Slice.lines (x : Slice) : List Nat := ((x.ways.map fun e => e.2.line) ++ x.reds.map fun e => e.line).eraseDups

/-- Chosen lines leave a slice, each one as long as every write-back buffer has room for it (R36). -/
def State.moveOut (s : State) (sl : Fin 16) (fenced : Nat) (goes : Nat → Bool) : State :=
  (s.paths.slices[sl].lines.filter goes).foldl (fun t ln =>
    let u := t.moveLine sl fenced ln
    if (upto 16).all fun i => decide (u.wbUsed (sliceFin i) ≤ 64) then u else t) s

/-- A slice that answers and holds no request writes back every dirty line and moves its reduction entries; empty, it is
fenced (R208 step 2). -/
def State.fenceDrain (s : State) (sl : Fin 16) : State :=
  match s.paths.slices[sl].fence with
  | .draining _ =>
    if s.answers sl ∧ s.sliceIdle sl then
      let t := s.endSweep sl
      let u := if t.paths.slices[sl].sweep.isSome then t else t.moveOut sl (s.fenced ||| 2 ^ sl.val) fun _ => true
      if u.paths.slices[sl].sweep.isNone ∧ u.paths.slices[sl].lines.isEmpty then
        let v := u.modSlice sl fun y => { y with fence := .fenced }
        (v.sf (Reg.CACHE_STATUS sl) Fld.CACHE_STATUS_RED_OPEN 0).sf (Reg.CACHE_STATUS sl) Fld.CACHE_STATUS_DIRTY_LINES 0
      else u
    else s
  | _ => s

/-- Firmware begins the fence of a slice (R207, R208 step 1). -/
def sliceFence (sl : Fin 16) (s : State) : State :=
  if s.fenced.testBit sl ∨ s.fencePending.testBit sl ∨ 4 ≤ onesBelow 16 (s.fenced ||| s.fencePending) then s
  else
    let t := s.sf Reg.CACHE_FENCE Fld.CACHE_FENCE_PENDING (s.fencePending ||| 2 ^ sl.val)
    (t.modSlice sl fun x => { x with fence := .draining s.clk.pkg }).fenceDrain sl

def execSliceFence (sl : Fin 16) (s : State) : Out := .next (s.onLive .firmware (sliceFence sl s))

/-- Every request a slice holds, in the order of its miss entries and its queue (R208). -/
def Slice.heldReqs (x : Slice) : List Req :=
  (x.misses.flatMap fun m => m.current.toList ++ m.queue) ++ x.input

/-- A slice has not answered for 1 ms: its requests complete with SLICE_FENCED and its contents are lost (R208 step 3). Its
narrow requests at a half-pannier do so as they return from there. -/
def sliceFenceTimeout (sl : Fin 16) (s : State) : State :=
  let x := s.paths.slices[sl]
  match x.fence with
  | .draining t0 =>
    if !s.answers sl ∧ t0 + 1000000 ≤ s.clk.pkg then
      let mine := s.paths.reqXbar.filter fun r => s.sliceOf r.addr = sl
      let t := (x.heldReqs ++ mine).foldl (fun t r => t.complete r .sliceFenced []) s
      let t := t.modPaths fun y => { y with reqXbar := y.reqXbar.filter (fun r => s.sliceOf r.addr ≠ sl),
                                            rets := y.rets.filter fun d => (d.owner.ofSlice sl).isNone }
      let t := t.modInbox fun b => { b with lostLines := b.lostLines ++ x.reds.map fun e => e.line * 128 }
      let t := t.modSlice sl fun y =>
        { y with input := [], misses := [], ways := [], reds := [], fence := .fenced, alive := false, sweep := none }
      t.raiseIf (decide (s.gf (Reg.CACHE_STATUS sl) Fld.CACHE_STATUS_DIRTY_LINES ≠ 0)) (Reg.CACHE_STATUS sl)
        Fld.CACHE_STATUS_DIRTY_LOST
    else s
  | _ => s

def execSliceFenceTimeout (sl : Fin 16) (s : State) : Out := .next (s.onLive .firmware (sliceFenceTimeout sl s))

/-- The slice of an address differs under two mappings. -/
def strays (old new addr : Nat) : Bool := decide (sliceFin (lineSlice old addr) ≠ sliceFin (lineSlice new addr))

/-- A request for a line that another mapping puts elsewhere is queued or in service in an unfenced slice. -/
def State.straying (s : State) (sl : Fin 16) (new : Nat) : Bool :=
  (upto 16).any fun i => decide (i ≠ sl.val) &&
    s.paths.slices[sliceFin i].heldReqs.any fun r => strays s.fenced new r.addr

/-- Lines of slices fenced earlier leave the substitutes they had for those they have under a new mapping, so that a line
stays where R207 says it is held (log entry 19). -/
def State.rehouse (s : State) (old new : Nat) : State :=
  (upto 16).foldl (fun t i => t.moveOut (sliceFin i) new fun ln => strays old new (128 * ln)) s

/-- Every line is where a mapping has it. -/
def State.housed (s : State) (new : Nat) : Bool :=
  (upto 16).all fun i => s.paths.slices[sliceFin i].lines.all fun ln => decide (sliceFin (lineSlice new (128 * ln)) = sliceFin i)

/-- The requests that no longer wait at their ingresses leave them in the order they were decoded: none during a thermal
shutdown, and none that is bound for a slice with PENDING set (R208). -/
def State.leaveIngress (s : State) : State :=
  if s.shutdown then s
  else
    let held (r : Req) : Bool := s.fencePending.testBit (s.sliceOf r.addr)
    s.modPaths fun x =>
      { x with reqXbar := x.reqXbar ++ x.fenceWait.filter fun r => !held r, fenceWait := x.fenceWait.filter held }

/-- Firmware sets FENCED, clears PENDING, switches the slice's domain off, and the waiting requests leave their ingresses
in the order they were decoded (R208 step 4, R462). -/
def sliceFenceComplete (sl : Fin 16) (s : State) : State :=
  let t := s.fenceDrain sl
  if t.paths.slices[sl].fence = .fenced ∧ t.fencePending.testBit sl ∧ !t.straying sl (t.fenced ||| 2 ^ sl.val) then
    let p := t.fencePending ^^^ 2 ^ sl.val
    let f := t.fenced ||| 2 ^ sl.val
    let t := t.rehouse t.fenced f
    if !t.housed f then t else
    let u := ((t.sf Reg.CACHE_FENCE Fld.CACHE_FENCE_PENDING p).sf Reg.CACHE_FENCE Fld.CACHE_FENCE_FENCED f).fwDom
      (96 + sl) .off
    u.leaveIngress
  else t

def execSliceFenceComplete (sl : Fin 16) (s : State) : Out := .next (s.onLive .firmware (sliceFenceComplete sl s))

/-- Dirty lines of a slice (R209, R388). -/
def Slice.dirtyLines (x : Slice) : Nat := (x.ways.filter fun e => e.2.isDirty).length

/-- A slice reports its counts and events to the sensor and management island; after its fence it reports nothing more
(R209). -/
def cacheStatusReport (sl : Fin 16) (s : State) : State :=
  let x := s.paths.slices[sl]
  let r := Reg.CACHE_STATUS sl
  if x.fence = .fenced then s else
  let t := (s.sf r Fld.CACHE_STATUS_DIRTY_LINES (min 65535 x.dirtyLines)).sf r
    Fld.CACHE_STATUS_RED_OPEN x.reds.length
  ((t.raiseIf x.overcount r Fld.CACHE_STATUS_RED_OVERCOUNT).raiseIf x.tableFull r
    Fld.CACHE_STATUS_RED_TABLE_FULL).modSlice sl fun y => { y with overcount := false, tableFull := false }

def execCacheStatusReport (sl : Fin 16) (s : State) : Out := .next (s.onSlice sl (cacheStatusReport sl s))

end Sys2Proof.Machine
end

