-- ==== Sys2Proof/Machine/Refresh.lean ====
section
/-! DEFINITION. Meanings of the refresh and row-health rows (06). -/

namespace Sys2Proof.Machine

/-! ### The schedule (R151 to R155) -/

/-- The base refresh interval I in ns (R151). -/
def State.interval (s : State) : Nat := s.gf Reg.PC_REF_CTRL Fld.PC_REF_CTRL_INTERVAL

/-- Whether a PC runs the doubled rate (R157). -/
def State.doubled (s : State) (p : Nat) : Bool := s.bit (Reg.PC_REF_STATUS p) Fld.PC_REF_STATUS_DOUBLED

/-- The interval of the rate in force at a PC (R157). -/
def State.intervalOf (s : State) (p : Nat) : Nat := if s.doubled p then s.interval / 2 else s.interval

/-- Banks of a PC (R152). -/
def State.banksN (s : State) : Nat := 16 * s.groups

/-- The PC offset o_p, always from the base interval (R152, R157). -/
def State.refreshOffset (s : State) (p : Nat) : Nat := p * s.interval / (64 * s.banksN)

/-- Where local time stands in an interval of `i` ns at PC `p` (R152). -/
def State.refreshPhase (s : State) (p : Fin 64) (i : Nat) : Nat :=
  (s.now (.pc p) + s.interval - s.refreshOffset p) % i

/-- Whether bank `k` falls due now (R152, R157). -/
def State.isDue (s : State) (p : Fin 64) (k : Nat) : Bool :=
  decide (k < s.banksN) && decide (0 < s.intervalOf p) &&
    decide (s.refreshPhase p (s.intervalOf p) = k * s.intervalOf p / s.banksN)

/-- Whether refresh of a layer group is inhibited (R168, R178). -/
def State.inhibited (s : State) (p group : Nat) : Bool := (s.gf (Reg.PC_REF_INHIBIT p) Fld.PC_REF_INHIBIT_GROUP).testBit group

/-- Whether the refresh engine of a PC acts now: refresh of the stack has started, and the PC is not in self-refresh (R171, R174,
R409). -/
def State.engineRuns (s : State) (p : Fin 64) : Bool :=
  decide (0 < s.groups) && s.stack.refreshed && !s.bit (Reg.PC_REF_STATUS p) Fld.PC_REF_STATUS_SELF_REFRESH

/-- One more refresh owed, three bits (R124). -/
def Bank.owe (b : Bank) : Bank := { b with owed := min 7 (b.owed + 1) }

/-- REFRESH_DUE: bank `k` falls due and the engine claims it; over a truing window, or while the bank is claimed, the
refresh is owed (R124, R153, R155). -/
def refreshDue (p : Fin 64) (k : Fin 64) (s : State) : State :=
  if s.engineRuns p ∧ s.isDue p k ∧ !s.inhibited p (k / 16) then
    s.modPc p fun c =>
      if s.inWindow p ∨ (c.bankOf k).claim ≠ .none then c.modBank k Bank.owe else c.claimBank k .refresh
  else s

def execRefreshDue (p k : Fin 64) (s : State) : Out := .next (s.onLive (.pc p) (refreshDue p k s))

/-- Targeted-refresh count m of a row class (R161). -/
def classCount : Nat → Nat
  | 1 => 2
  | 2 => 4
  | 3 => 8
  | 4 => 8
  | _ => 0

/-- Write entry `i` of a PC's partition. -/
def Pc.setRow (c : Pc) (i : Nat) (e : RowEntry) : Pc := { c with rowh := cset (fun _ => RowEntry.none) c.rowh i e }

/-- REFRESH_COMPLETE: TRFCPB after its refresh command the bank becomes available again (R153); owed refreshes and
postponed targeted ones follow (R124, R160). -/
def refreshComplete (p : Fin 64) (k : Fin 64) (s : State) : State :=
  s.modPc p fun c =>
    if s.inWindow p then c
    else
      let b := c.bankOf k
      let c1 := if b.claim = .refresh ∧ b.refreshing ∧ b.readyAt ≤ c.cycle then
          c.modBank k fun b => { b with claim := .none, refreshing := false } else c
      c1.engineClaims

def execRefreshComplete (p k : Fin 64) (s : State) : Out := .next (s.onLive (.pc p) (refreshComplete p k s))

/-- Whether a targeted tick falls now (R159). -/
def State.isTick (s : State) (p : Fin 64) : Bool :=
  let i := s.intervalOf p
  let f := s.refreshPhase p i
  decide (f = i / 4) || decide (f = 3 * i / 4)

/-- TARGETED_REFRESH_TICK: the engine visits one entry and refreshes its row if its class and the sweep call for it
(R159); over a truing window or on a busy bank it is postponed (R160), in self-refresh it is dropped (R171). -/
def targetedTick (p : Fin 64) (s : State) : State :=
  if s.isTick p then
    let run := s.engineRuns p
    s.modPc p fun c =>
      let i := c.tick % 2048
      let e := c.rowEntry i
      let m := classCount e.cls
      let c1 := { c with tick := c.tick + 1 }
      if run ∧ e.valid ∧ 2 ≤ m ∧ c.tick / 2048 % 8 % (8 / m) = 0 ∧ !s.inhibited p e.layer then
        if s.inWindow p ∨ !c.owing.isEmpty ∨ (c.bankOf e.bankIx).claim ≠ .none ∨
            c.cycle < (c.bankOf e.bankIx).readyAt then
          { c1 with lateTicks := c1.lateTicks ++ [i] }
        else c1.claimBank e.bankIx (.targeted e.row)
      else c1
  else s

def execTargetedRefreshTick (p : Fin 64) (s : State) : Out := .next (s.onLive (.pc p) (targetedTick p s))

/-! ### The rate (R156, R157) -/

/-- The stack-wide rate: doubled by the readings, by FORCE_DOUBLE or by the lack of readings (R156). -/
def State.wantDoubled (s : State) : Bool :=
  s.refresh.warm || s.refresh.stale || s.bit Reg.PC_REF_CTRL Fld.PC_REF_CTRL_FORCE_DOUBLE

/-- REFRESH_RATE_CHANGE: a PC adopts the rate at its next base boundary (R157). -/
def refreshRateChange (p : Fin 64) (s : State) : State :=
  if s.refreshPhase p s.interval = 0 then
    s.sf (Reg.PC_REF_STATUS p) Fld.PC_REF_STATUS_DOUBLED (if s.wantDoubled then 1 else 0)
  else s

def execRefreshRateChange (p : Fin 64) (s : State) : Out := .next (s.onLive (.pc p) (refreshRateChange p s))

/-- The rate that a valid stack reading leaves, in units of 0.25 °C; between the thresholds the rate in force stays,
whatever had set it (R156). -/
def State.rateFromReading (s : State) (r : Int) : State :=
  { s with refresh := { warm := if (s.gf Reg.PC_REF_TEMP Fld.PC_REF_TEMP_DOUBLE_TEMP : Int) ≤ r then true
                                else if r < (s.gf Reg.PC_REF_TEMP Fld.PC_REF_TEMP_BASE_TEMP : Int) then false
                                else s.wantDoubled,
                        stale := false } }

/-! ### The row health table (R161 to R167) -/

/-- Bits [53:30] of a package time (R161). -/
def eventTime (t : Nat) : Nat := natBits t 30 24

/-- Whether an entry names the row of a burst. -/
def RowEntry.names (e : RowEntry) (l : Loc) : Bool :=
  e.valid && decide (e.layer = l.group) && decide (e.bg = l.bg) && decide (e.bank = l.bank) && decide (e.row = l.row)

/-- The entry of a row in its PC's partition. -/
def Pc.rowIndex (c : Pc) (l : Loc) : Option Nat := (c.rowh.find? fun e => e.2.names l).map (·.1)

/-- The lowest-numbered invalid entry (R163). -/
def Pc.freeRow (c : Pc) : Option Nat := (upto 2048).find? fun i => !(c.rowEntry i).valid

/-- The WATCH entry with the lowest count, lowest index among equals (R163). -/
def Pc.weakestWatch (c : Pc) : Option (Nat × RowEntry) :=
  (c.rowh.filter fun e => e.2.valid ∧ e.2.cls = 0).foldl
    (fun best e => match best with
      | none => some e
      | some b => if e.2.ceCount < b.2.ceCount then some e else some b) none

/-- A new entry for a row, WATCH with one event, or BAD (R163). -/
def newRow (l : Loc) (ue : Bool) (t : Nat) : RowEntry :=
  { valid := true, cls := if ue then 4 else 0, layer := l.group, bg := l.bg, bank := l.bank, row := l.row, ceCount := 1,
    retMs := 0, lastEvent := eventTime t }

/-- One more event on an entry; an uncorrectable one makes it BAD unless it is RETIRED (R163). -/
def RowEntry.hit (e : RowEntry) (ue : Bool) (t : Nat) : RowEntry :=
  { e with ceCount := min 255 (e.ceCount + 1), lastEvent := eventTime t,
           cls := if ue ∧ e.cls ≠ 5 then 4 else e.cls }

/-- ROW_HEALTH_EVENT: the oldest queued event updates or allocates an entry, or is dropped with ROWH_FULL (R163). -/
def rowHealthEvent (p : Fin 64) (s : State) : State :=
  let c := s.pcs[p]
  match c.events with
  | [] => s
  | ev :: rest =>
    let put (i : Nat) (e : RowEntry) : State :=
      (s.modPc p fun c => { c.setRow i e with events := rest }).iff ev.uncorrectable State.repairEvent
    match c.rowIndex ev.loc with
    | some i => put i ((c.rowEntry i).hit ev.uncorrectable ev.time)
    | none =>
      match c.freeRow with
      | some i => put i (newRow ev.loc ev.uncorrectable ev.time)
      | none =>
        match c.weakestWatch with
        | some (i, w) =>
          if w.ceCount < 1 then put i (newRow ev.loc ev.uncorrectable ev.time)
          else (s.modPc p fun c => { c with events := rest }).raise (Reg.PC_REF_STATUS p) Fld.PC_REF_STATUS_ROWH_FULL
        | none => (s.modPc p fun c => { c with events := rest }).raise (Reg.PC_REF_STATUS p) Fld.PC_REF_STATUS_ROWH_FULL

def execRowHealthEvent (p : Fin 64) (s : State) : Out := .next (s.onLive (.pc p) (rowHealthEvent p s))

/-- What a firmware write leaves of an entry: CE_COUNT and LAST_EVENT stay unless VALID is cleared (R162); a write that
would take BAD to anything but RETIRED, by CLASS or by VALID, is ignored (R164). DESIGN CHOICE: log entry 15, a cleared
VALID leaves every field of the entry zero. -/
def RowEntry.fwWrite (e : RowEntry) (valid : Bool) (cls retMs : Nat) (l : Loc) : RowEntry :=
  if e.valid ∧ e.cls = 4 ∧ (!valid ∨ (cls ≠ 4 ∧ cls ≠ 5)) then e
  else if !valid then RowEntry.none
  else if e.valid then { e with cls := cls, retMs := retMs }
  else { valid := true, cls := cls, layer := l.group, bg := l.bg, bank := l.bank, row := l.row, ceCount := 0,
         retMs := retMs, lastEvent := 0 }

/-- The oldest queued event of a PC is an uncorrectable read that makes entry `i` BAD (R163). -/
def Pc.badEvent (c : Pc) (i : Nat) : Bool :=
  match c.events with
  | [] => false
  | ev :: _ => ev.uncorrectable && decide (c.rowIndex ev.loc = some i) && decide ((c.rowEntry i).cls ≠ 5)

/-- ROW_HEALTH_FW_WRITE (R162, R164): the row is the one a newly valid entry names. `tie` says that the PC's oldest queued
event is decided in the same cycle; where that event makes the entry BAD, BAD stands, and of the write only the retention
result of a valid entry is left. A class set to BAD is a repair event (R429). -/
def rowFwWrite (p : Fin 64) (i : Fin 2048) (valid : Bool) (cls : Fin 6) (retMs : BitVec 7) (l : Loc) (tie : Bool)
    (s : State) : State :=
  if tie ∧ s.pcs[p].badEvent i then
    (rowHealthEvent p s).iff valid fun t => t.modPc p fun c => c.setRow i ((c.rowEntry i).fwWrite true 4 retMs.toNat l)
  else
    let new := (s.pcs[p].rowEntry i).fwWrite valid cls retMs.toNat l
    let bad : Bool := new.valid && decide (new.cls = 4) && decide ((s.pcs[p].rowEntry i).cls ≠ 4)
    let t := (s.modPc p fun c => c.setRow i new).iff bad State.repairEvent
    if tie then rowHealthEvent p t else t

def execRowHealthFwWrite (p : Fin 64) (i : Fin 2048) (valid : Bool) (cls : Fin 6) (retMs : BitVec 7)
    (layer : Fin 4) (unit : Fin 16) (row : BitVec 15) (tie : Bool) (s : State) : Out :=
  .next (s.onUpkeep p (rowFwWrite p i valid cls retMs
    { rank := layer * 64 + p, bg := unit / 4, bank := unit % 4, row := row.toNat, col := 0 } tie s))

/-- RET_MS of a failed hold: the greatest n up to 127 with n^40 ≤ H^40 × 2^(T − 340), T in 0.25 °C (R165). -/
def retentionMs (hold : Nat) (temp : Int) : Nat :=
  ((upto 128).filter fun n =>
    if (340 : Int) ≤ temp then decide (n ^ 40 ≤ hold ^ 40 * 2 ^ (temp - 340).toNat)
    else decide (n ^ 40 * 2 ^ (340 - temp).toNat ≤ hold ^ 40)).getLast?.getD 0

/-- Class of a retention result; none for 64 ms or more (R165). -/
def retentionClass (ms : Nat) : Option Nat :=
  if 64 ≤ ms then none else if 32 ≤ ms then some 1 else if 16 ≤ ms then some 2 else if 8 ≤ ms then some 3 else some 4

/-- Class from corrected errors: WEAK2 at CE_WEAK, one class more per CE_STEP, up to WEAK8, never lowered (R166). -/
def ceClass (weak step : Nat) (e : RowEntry) : Nat :=
  if e.cls ≤ 3 ∧ weak ≤ e.ceCount then max e.cls (min 3 (1 + (e.ceCount - weak) / max 1 step)) else e.cls

/-- Firmware gives a row a class and a retention result: in its entry, an invalid one or a WATCH one, else it asks for
rebinding of the rank with cause 5 (R167). DESIGN CHOICE: log entry 25, of the WATCH entries the one with the lowest
CE_COUNT is taken over, the lowest index among equals. -/
def State.setRowClass (s : State) (l : Loc) (cls retMs : Nat) : State :=
  let p := pcFin l.pc
  let c := s.pcs[p]
  match (c.rowIndex l).or (c.freeRow.or (c.weakestWatch.map (·.1))) with
  | some i =>
    let old := if (c.rowEntry i).names l then c.rowEntry i else RowEntry.none
    s.modPc p fun c => c.setRow i (old.fwWrite true cls retMs l)
  | none => s.cause l.rank 5

/-- A row that needs no class: its entry is freed unless its count keeps it as WATCH (R165). -/
def State.clearRowClass (s : State) (l : Loc) (retMs : Nat) : State :=
  let p := pcFin l.pc
  match s.pcs[p].rowIndex l with
  | none => s
  | some i =>
    s.modPc p fun c => c.setRow i ((c.rowEntry i).fwWrite (decide (0 < (c.rowEntry i).ceCount)) 0 retMs l)

/-- The lower of a new retention result and its straight-line projection HORIZON_D days ahead, from an earlier result
that PLAN holds (R432). -/
def State.projectedMs (s : State) (l : Loc) (ms : Nat) : Nat :=
  match s.age.results.find? fun r => r.1 = l.rank ∧ r.2.1 = l.unit with
  | some (_, _, old, day) =>
    if day < s.serviceDay then
      let h : Int := s.gf Reg.FW_MARGIN_CFG Fld.FW_MARGIN_CFG_HORIZON_D
      min ms ((ms : Int) + ((ms : Int) - old) * h / ((s.serviceDay : Int) - day)).toNat
    else ms
  | none => ms

/-- Keep the last retention result of a weak row (R426). -/
def State.keepResult (s : State) (l : Loc) (ms : Nat) (weak : Bool) : State :=
  let rest := s.age.results.filter fun r => !(decide (r.1 = l.rank) && decide (r.2.1 = l.unit))
  { s with age := { s.age with results := if weak then rest ++ [(l.rank, l.unit, ms, s.serviceDay)] else rest } }

/-- The retention result of a row after a failed hold: the shortest hold it has failed (R165). -/
def State.shortestMs (s : State) (l : Loc) (raw : Nat) : Nat :=
  let c := s.pcs[pcFin l.pc]
  match c.rowIndex l with
  | some i => if (c.rowEntry i).retMs = 0 then raw else min raw (c.rowEntry i).retMs
  | none => raw

/-- Classification of one row from a failed hold: RET_MS is the scaled hold, the class follows the projection (R165, R167,
R432). -/
def State.classifyHold (s : State) (l : Loc) (hold : Nat) (temp : Int) : State :=
  let raw := s.shortestMs l (retentionMs hold temp)
  match retentionClass (s.projectedMs l raw) with
  | none => (s.keepResult l raw false).clearRowClass l raw
  | some c => ((s.keepResult l raw true).setRowClass l c raw).iff (decide (c = 4)) fun t => (t.cause l.rank 4).repairEvent

/-- Classification of one row from its corrected errors (R166). -/
def State.classifyCe (s : State) (l : Loc) : State :=
  let p := pcFin l.pc
  match s.pcs[p].rowIndex l with
  | none => s
  | some i =>
    let weak := s.gf Reg.FW_ROWH_POLICY Fld.FW_ROWH_POLICY_CE_WEAK
    let step := s.gf Reg.FW_ROWH_POLICY Fld.FW_ROWH_POLICY_CE_STEP
    s.modPc p fun c => c.setRow i { c.rowEntry i with cls := ceClass weak step (c.rowEntry i) }

/-- The holds of a retention test in ms, in order (R168). -/
def holdMs : Fin 4 → Nat
  | 0 => 64
  | 1 => 128
  | 2 => 256
  | 3 => 512

/-- ROW_CLASSIFY: from a failed hold at a temperature, or from the corrected-error count (R165, R166, R167). -/
def rowClassify (l : Loc) (test : Option (Fin 4 × BitVec 10)) (s : State) : State :=
  match test with
  | some (h, t) => s.classifyHold l (holdMs h) (signedOf 10 t.toNat)
  | none => s.classifyCe l

def execRowClassify (p : Fin 64) (layer bg bank : Fin 4) (row : BitVec 15) (test : Option (Fin 4 × BitVec 10))
    (s : State) : Out :=
  .next (s.onUpkeep p (rowClassify
    { rank := layer * 64 + p, bg := bg, bank := bank, row := row.toNat, col := 0 } test s))

/-! ### Retention tests and inhibits (R168 to R170, R178) -/

/-- Whether the block refuses an inhibit of a rank: it lies in the range, which one that is moving or RETIRED_UNBOUND still
does (R459), or is a bound target (R170); the memory test of a start comes before the range is served (R169). -/
def State.inhibitRefused (s : State) (rank : Nat) : Bool :=
  decide (s.gf Reg.FW_BOOT_STATUS Fld.FW_BOOT_STATUS_PHASE ≠ 7) && [0, 1, 3, 7].contains (s.rankState rank)

/-- Firmware writes PC_REF_INHIBIT: refused bits stay 0 and set REF_INHIBIT_REFUSED; PC_REF_STATUS shows a copy (R170,
R178). -/
def State.writeInhibit (s : State) (p : Fin 64) (g : Nat) : State :=
  let bad := (upto 4).filter fun j => g.testBit j && s.inhibitRefused (j * 64 + p)
  let ok := bad.foldl (fun acc j => natSetBits acc j 1 0) g
  ((s.sf (Reg.PC_REF_INHIBIT p) Fld.PC_REF_INHIBIT_GROUP ok).sf (Reg.PC_REF_STATUS p) Fld.PC_REF_STATUS_INHIBITED
    ok).raiseIf (!bad.isEmpty) (Reg.PC_REF_STATUS p) Fld.PC_REF_STATUS_REF_INHIBIT_REFUSED

/-- REF_INHIBIT_WRITE (R170, R178). -/
def execRefInhibitWrite (p : Fin 64) (group : BitVec 4) (s : State) : Out :=
  .next (s.onUpkeep p (s.writeInhibit p group.toNat))

/-- The contents of a rank become undefined. -/
def State.loseRank (s : State) (rank : Nat) : State :=
  { s with stack := { s.stack with undef := rank :: s.stack.undef.filter (· ≠ rank),
                                   known := s.stack.known.filter fun b => b / (rowsPerBank * 256) ≠ rank } }

/-- The stack reading, while it is valid. -/
def State.stackTemp (s : State) : Option Int :=
  let r := Reg.THERM_SNS_READ 32
  if s.bit r Fld.THERM_SNS_READ_VALID && !s.bit r Fld.THERM_SNS_READ_BROKEN then
    some (signedOf 10 (s.gf r Fld.THERM_SNS_READ_TEMP))
  else none

/-- The stack reading at which a retention test may run: 45 °C to 85 °C (R168). -/
def State.testTemp (s : State) : Option Int := s.stackTemp.filter fun t => decide (180 ≤ t) && decide (t ≤ 340)

/-- The test of a rank, waiting for its hold or between two holds. -/
def State.testOf (s : State) (rank : Nat) : Option RetTest := s.tests.find? fun x => x.rank = rank

/-- A rank that may be tested now: a reserve rank, or any rank in the memory test of a start (R169). -/
def State.testable (s : State) (rank : Nat) : Bool :=
  decide (s.gf Reg.FW_BOOT_STATUS Fld.FW_BOOT_STATUS_PHASE = 7) || decide (s.rankState rank = 4) ||
    decide (s.rankState rank = 5)

/-- The hold that a test of a rank takes next: the shortest, or the one after the hold that has ended (R168). -/
def State.holdInOrder (s : State) (rank hold : Nat) : Bool :=
  decide (hold = 0) || (s.testOf rank).any fun x => !x.holding && decide (hold = x.hold + 1)

/-- RETENTION_TEST: firmware writes a pattern into every row of the rank, inhibits refresh of its layer group and starts
the hold, only while the stack reading lies between 45 °C and 85 °C (R168, R169). The pattern is not stated: what the
rank holds afterwards is free (log entry 25). -/
def retentionTest (rank : Nat) (hold : Nat) (s : State) : State :=
  let p := pcFin rank
  match s.testTemp with
  | some temp =>
    if s.testable rank ∧ !s.inhibitRefused rank ∧ s.holdInOrder rank hold then
      let failed := if hold = 0 then [] else ((s.testOf rank).map (·.failed)).getD []
      let t := (s.loseRank rank).iff (decide (s.rankState rank = 4)) fun t => t.setRank rank 5
      { t.writeInhibit p (t.gf (Reg.PC_REF_INHIBIT p) Fld.PC_REF_INHIBIT_GROUP ||| 2 ^ (rank / 64)) with
        tests := { rank := rank, hold := hold, temp := temp, startAt := t.now .firmware, holding := true,
                   failed := failed } :: t.tests.filter fun x => x.rank ≠ rank }
    else s
  | none => s

def execRetentionTest (p : Fin 64) (layer : Fin 4) (hold : Fin 4) (s : State) : Out :=
  .next (s.onUpkeep p (retentionTest (layer * 64 + p) hold s))

/-- Refresh of a rank's layer group is enabled again and the rank is free. -/
def State.freeRank (s : State) (rank : Nat) : State :=
  let p := pcFin rank
  let g := natSetBits (s.gf (Reg.PC_REF_INHIBIT p) Fld.PC_REF_INHIBIT_GROUP) (rank / 64) 1 0
  (s.writeInhibit p g).iff (decide (s.rankState rank = 5)) (fun t => t.setRank rank 4)

/-- The end of a retention test of a rank, its result discarded (R170). -/
def State.endTest (s : State) (rank : Nat) : State :=
  { s.freeRank rank with tests := s.tests.filter fun x => x.rank ≠ rank }

/-- Rows that a hold has tested and failed: those of `failed` that passed every earlier hold (R168). -/
def RetTest.newly (x : RetTest) (failed : List (Fin 4 × Fin 4 × BitVec 15)) : List (Fin 4 × Fin 4 × BitVec 15) :=
  failed.filter fun r => !x.failed.contains r

/-- RETENTION_HOLD_EXPIRY: the hold is over, the rows still under test are read back, refresh is re-enabled and the rows
that failed are classified (R165, R168). -/
def retentionExpiry (rank : Nat) (failed : List (Fin 4 × Fin 4 × BitVec 15)) (s : State) : State :=
  match s.testOf rank with
  | none => s
  | some x =>
    if x.holding ∧ x.startAt + holdMs (Fin.ofNat 4 x.hold) * 1000000 ≤ s.now .firmware then
      let t := (x.newly failed).foldl (fun t (bg, bank, row) =>
        t.classifyHold { rank := rank, bg := bg, bank := bank, row := row.toNat, col := 0 } (holdMs (Fin.ofNat 4 x.hold))
          x.temp) (s.freeRank rank)
      { t with tests := (if x.hold = 3 then [] else [{ x with holding := false, failed := x.failed ++ x.newly failed }]) ++
                 s.tests.filter fun y => y.rank ≠ rank }
    else s

def execRetentionHoldExpiry (rank : BitVec 8) (failed : List (Fin 4 × Fin 4 × BitVec 15)) (s : State) : Out :=
  .next (s.onUpkeep (pcFin rank.toNat) (retentionExpiry rank.toNat failed s))

/-! ### Self-refresh (R171 to R173) -/

/-- Self-refresh entry of a PC: owed refreshes issue, every bank is precharged, the ranks enter self-refresh (R171). An exit
scrub under way ends; the next exit starts one again (R172). -/
def State.selfRefreshEnter (s : State) (p : Fin 64) : State :=
  ((s.modPc p fun c =>
    { c with banks := c.banks.map fun b =>
        { b with row := none, preAt := some c.cycle, hits := 0, claim := .none, owed := 0, refreshing := false },
             owing := [] }).raise
    (Reg.PC_REF_STATUS p) Fld.PC_REF_STATUS_SELF_REFRESH).sf (Reg.PC_REF_STATUS p) Fld.PC_REF_STATUS_SCRUB 0

/-- Refresh of the stack by the refresh engines starts (R172, R409). -/
def State.startRefresh (s : State) : State := { s with stack := { s.stack with refreshed := true } }

/-- A PC leaves self-refresh: its first command waits TXS (R172 steps 1 to 3). -/
def State.leaveSelfRefresh (s : State) (p : Fin 64) : State :=
  let txs := s.gf (Reg.PC_TIM_REF p) Fld.PC_TIM_REF_TXS
  (s.startRefresh.modPc p fun c => { c with banks := c.banks.map fun b => { b with readyAt := c.cycle + txs } }).sf
    (Reg.PC_REF_STATUS p) Fld.PC_REF_STATUS_SELF_REFRESH 0

/-- Self-refresh exit of a PC whose contents stand: the exit scrub starts (R172). -/
def State.selfRefreshExit (s : State) (p : Fin 64) : State :=
  (s.leaveSelfRefresh p).raise (Reg.PC_REF_STATUS p) Fld.PC_REF_STATUS_SCRUB

/-- Admission at a PC is open: no thermal shutdown, no warm-reset notice, no self-refresh and no exit scrub (R46, R172,
R488). -/
def State.mayAdmit (s : State) (p : Fin 64) : Bool :=
  !s.shutdown && !s.pwr.quiesced && !s.bit (Reg.PC_REF_STATUS p) Fld.PC_REF_STATUS_SELF_REFRESH &&
    !s.bit (Reg.PC_REF_STATUS p) Fld.PC_REF_STATUS_SCRUB

/-- Admission at PC `p` resumes where nothing stops it. -/
def State.resumePc (s : State) (p : Fin 64) : State :=
  s.iff (s.mayAdmit p) fun t => t.modPc p fun c => { c with stopped := false }

/-- The scrub of one burst: a corrected burst is written back corrected, an uncorrectable one is written poisoned with
the effects of such a read (R172, R437). `err` holds the bits that decayed. -/
def State.scrubBurst (s : State) (l : Loc) (err : List Byte) : State :=
  let img := withErrors (s.stack.readBurst s.free l) err
  let a : Access := { id := 0, cls := 7, loc := l, addr := none, write := false, data := [], mask := [], poison := false,
                      owner := .scrub }
  let d := decodeImage img
  let t := (s.readEffects a d).iff (s.stack.isUndef l) State.tick
  match d with
  | .clean => t
  | .corrected _ x => t.putBurst l x false
  | .poisoned => t
  | .uncorrectable => t.putBurst l (zeros 64) true

/-- The bursts of the rows that the exit scrub reads: valid rows of class WEAK2 to BAD (R172). -/
def Pc.scrubBursts (c : Pc) (p : Nat) : List Loc :=
  (c.rowh.filter fun e => e.2.valid ∧ 1 ≤ e.2.cls ∧ e.2.cls ≤ 4).flatMap fun e =>
    (upto 16).map fun col => { rank := e.2.layer * 64 + p, bg := e.2.bg, bank := e.2.bank, row := e.2.row, col := col }

/-- Every queued check-code event of a PC updates the row health table, oldest first (R163); at most `n`. -/
def State.takeEvents (p : Fin 64) : Nat → State → State
  | 0, s => s
  | n + 1, s => State.takeEvents p n (rowHealthEvent p s)

/-- EXIT_SCRUB_COMPLETE: the exit scrub of a PC has read every burst of its weak and bad rows, each burst's event reaching
the row health table before the next burst is read, and admission resumes (R163, R172). `errs` names the bursts, by
number, whose cells decayed. -/
def exitScrub (p : Fin 64) (errs : List (Nat × List Byte)) (s : State) : State :=
  if s.bit (Reg.PC_REF_STATUS p) Fld.PC_REF_STATUS_SCRUB ∧
      !s.bit (Reg.PC_REF_STATUS p) Fld.PC_REF_STATUS_SELF_REFRESH then
    (((s.pcs[p].scrubBursts p).foldl (fun t l =>
      State.takeEvents p 16 (t.scrubBurst l (((errs.find? fun e => e.1 = l.burst).map (·.2)).getD [])))
      (State.takeEvents p 16 s)).sf (Reg.PC_REF_STATUS p) Fld.PC_REF_STATUS_SCRUB 0).resumePc p
  else s


/-! ### Instance-wide registers (R90, R158, R175, R176) -/

/-- A value for INTERVAL: rounded down to even, at the nearer limit with REF_CLAMPED, refused under LOCK when it would
change INTERVAL (R158, R175, R176). -/
def State.storeInterval (s : State) (raw : Nat) : State :=
  let r := Reg.PC_REF_CTRL
  let i := max 1000 (min 3900 (raw / 2 * 2))
  if s.bit Reg.PC_LACE Fld.PC_LACE_LOCK && decide (i ≠ s.interval) then s.raise r Fld.PC_REF_CTRL_REF_WRITE_REFUSED
  else (s.sf r Fld.PC_REF_CTRL_INTERVAL i).raiseIf (decide (raw < 1000) || decide (3900 < raw / 2 * 2)) r
    Fld.PC_REF_CTRL_REF_CLAMPED

/-- A write of PC_REF_CTRL (R158, R175, R176); `events` are the W1C bits that new events set in the same cycle (R18). -/
def refCtrlWrite (v events : Word) (s : State) : State :=
  let r := Reg.PC_REF_CTRL
  let left (k : Nat) : Nat := if events.getLsbD k ∨ (s.rd r).getLsbD k ∧ !v.getLsbD k then 1 else 0
  let s1 := s.sf r Fld.PC_REF_CTRL_FORCE_DOUBLE (natBits v.toNat 31 1)
  let s2 := (s1.sf r Fld.PC_REF_CTRL_REF_CLAMPED (left 30)).sf r Fld.PC_REF_CTRL_REF_WRITE_REFUSED (left 29)
  s2.storeInterval (natBits v.toNat 0 13)

/-- PC_REF_CTRL_WRITE (R175). -/
def execPcRefCtrlWrite (v events : Word) (s : State) : Out := .next (s.mgtWrite .sensor (refCtrlWrite v events s))

/-- A write of PC_REF_TEMP: thresholds, which are two's complement (R13), at the nearer limit, BASE_TEMP at least 4 below
DOUBLE_TEMP (R176). -/
def refTempWrite (v : Word) (s : State) : State :=
  let d := signedOf 10 (natBits v.toNat 16 10)
  let b := signedOf 10 (natBits v.toNat 0 10)
  let d' := max 200 (min 340 d)
  let b' := min (max 180 (min 336 b)) (d' - 4)
  (s.wr Reg.PC_REF_TEMP (BitVec.ofNat 32 (d'.toNat * 2 ^ 16 + b'.toNat))).raiseIf (decide (d ≠ d') || decide (b ≠ b'))
    Reg.PC_REF_CTRL Fld.PC_REF_CTRL_REF_CLAMPED

/-- PC_REF_TEMP_WRITE (R176). -/
def execPcRefTempWrite (v : Word) (s : State) : Out := .next (s.mgtWrite .sensor (refTempWrite v s))

/-- A write of PC_LACE, ignored while LOCK is 1 (R90). -/
def laceWrite (v : Word) (s : State) : State :=
  if s.bit Reg.PC_LACE Fld.PC_LACE_LOCK then s else s.wr Reg.PC_LACE (v &&& 0x1F3F#32)

/-- PC_LACE_WRITE (R90). -/
def execPcLaceWrite (v : Word) (s : State) : Out := .next (s.mgtWrite .sensor (laceWrite v s))

end Sys2Proof.Machine
end

