-- ==== Sys2Proof/Machine/Coherent.lean ====
section
/-! DEFINITION. Package memory as one step of an engine or of firmware reads it, the writes that such a step issues, and
the draining of everything that waits for the stack. -/

namespace Sys2Proof.Machine

/-! ### Reading package memory -/

/-- The location from which a read of an address is served now, redirects included (R450). -/
def State.readLoc (s : State) (addr : Nat) : Loc :=
  let l := (s.locate (natBits addr 0 37)).1
  match s.originOf l.rank with
  | none => l
  | some e =>
    let l := { l with rank := (s.redir e).src }
    let a : Access := { id := 0, cls := 1, loc := l, addr := some addr, write := false, data := [], mask := [],
                        poison := false, owner := .debug }
    let (here, _, _) := redirRoute (s.redir e) a false
    if here then l else (s.redir e).to l

/-- Writes to a burst that a PC holds or that are on their way to it, oldest first. -/
def State.pendingWrites (s : State) (l : Loc) : List Access :=
  let c := s.pcs[pcFin l.pc]
  ((c.wq.map (·.acc)) ++ ((c.pool.map (·.acc)).filter (·.write)) ++
    ((s.paths.memXbar.filter fun e => e.1 = l.pc ∧ e.2.write).map (·.2))).filter fun a => a.loc = l

/-- One write applied to a burst's data and its unusable mark (R114, R437). -/
def applyWrite (v : List Byte × Bool) (a : Access) : List Byte × Bool :=
  if fullMask a.mask then (sliceBytes a.data 0 64, a.poison)
  else (mergeBytes v.1 a.data a.mask, v.2 || a.poison)

/-- A burst after every write that has left the slices for it; the flag is set where a read of it would be poisoned. -/
def State.burstView (s : State) (l : Loc) : List Byte × Bool :=
  let img := s.stack.readBurst s.free l
  let bad : Bool := match decodeImage img with
    | .clean => false
    | .corrected _ _ => false
    | _ => true
  (s.pendingWrites l).foldl applyWrite (decodedData img, bad || s.pcs[pcFin l.pc].knownBad.contains l.burst)

/-- The narrow operations on a 64 B burst of an address that are on their way to a half-pannier or held in one, in the order
they will act (R118, R119). -/
def State.pendingNarrow (s : State) (addr : Nat) : List Narrow :=
  s.narrows.filter fun n => n.req.addr / 64 = addr / 64

/-- The 64 B of an address after everything that has left the slices for them, and whether a read of them would be
poisoned. -/
def State.sectorView (s : State) (addr : Nat) : List Byte × Bool :=
  let v := s.burstView (s.readLoc addr)
  let ns := s.pendingNarrow addr
  ((applyNarrow ns v.1).1, v.2 && !fullMask (narrowMask ns))

/-- Requests to a line that wait in its slice, at its ingress or on the crossbar, in the order they will act (R191). -/
def State.lineQueue (s : State) (addr : Nat) : List Req :=
  let x := s.paths.slices[s.sliceOf addr]
  let ln := lineNo addr
  (((x.misses.filter fun m => m.line = ln).flatMap fun m => m.current.toList ++ m.queue) ++ x.input ++ s.paths.reqXbar ++
    s.paths.fenceWait).filter fun r => lineNo r.addr = ln

/-- The line of an address with both sectors there, in its slice, unlocked: what a request that has waited for its line finds
(R191). -/
def State.readied (s : State) (addr : Nat) : State :=
  let sl := s.sliceOf addr
  let ln := lineNo addr
  let base := addr / 128 * 128
  let x := s.paths.slices[sl]
  let key := (x.find ln).getD (setOfLine ln * 16)
  let l : Line := if (x.find ln).isSome then x.way key else { Line.init with used := true, line := ln, base := base }
  let fill (i : Nat) : Sector :=
    if (l.sector i).valid then l.sector i
    else
      let v := s.sectorView (base + 64 * i)
      { valid := true, dirty := false, poison := v.2, data := v.1 }
  s.modSlice sl fun y =>
    { y.setWay key { l with lo := fill 0, hi := fill 1 } with misses := y.misses.filter fun m => m.line ≠ ln }

/-- The state in which every request ahead on a line has acted, its slice answering (R191). A slice that has fallen silent
loses what it holds (R208). -/
def State.caughtUp (s : State) (addr : Nat) : State :=
  let sl := s.sliceOf addr
  if s.answers sl then ((s.lineQueue addr).foldl (fun t r => (t.readied addr).serve sl r) s).readied addr
  else (s.modSlice sl fun x => { x with ways := [], reds := [], misses := [] }).readied addr

/-- A line as a READ that is sent now will find it: 128 bytes, whether each sector is unusable, and the status its reduction
entry gives the READ (R191, R205). -/
def State.lineView (s : State) (addr : Nat) : List Byte × Bool × Bool × Status :=
  let x := (s.caughtUp addr).paths.slices[s.sliceOf addr]
  let l : Line := match x.find (lineNo addr) with
    | some k => x.way k
    | none => Line.init
  (l.bytes, l.lo.poison, l.hi.poison, x.readStatus (lineNo addr))

/-- Status of reading an address range before its data is looked at: that of this instance's ingress (R28, R51, R463), or
SLICE_FENCED where the request would enter a slice that has fallen silent and wait there (R208). -/
def State.reach (s : State) (addr len : Nat) : Status :=
  let one (a : Nat) : Status := if s.pwr.failed then .absent else match s.route a with
    | .hole => .absent
    | .own _ =>
      if s.shutdown then .thermalShutdown
      else if s.paths.slices[s.sliceOf a].alive || (s.gf Reg.CACHE_FENCE Fld.CACHE_FENCE_PENDING).testBit (s.sliceOf a) then .ok
      else .sliceFenced
    | .other n => if (s.towards n).isNone then .absent else .ok
  ((upto ((addr % 128 + len + 127) / 128)).map fun k => one (addr / 128 * 128 + 128 * k)).foldl
    (fun b x => if b = .ok then x else b) .ok

/-- Read `len` bytes of package memory: status and bytes, as a READ sent now will return them. An unusable sector makes it
POISONED, an OPEN reduction entry PARTIAL (R205, R438). The bytes of another instance's range are not in this block: they
are free values. -/
def State.peek (s : State) (addr len : Nat) : Status × List Byte :=
  match s.reach addr len with
  | .ok =>
    let lines := (upto ((addr % 128 + len + 127) / 128)).map fun k =>
      let a := addr / 128 * 128 + 128 * k
      match s.route a with
      | .own _ => s.lineView a
      | _ => ((upto 128).map fun i => Config.undefinedByte s.free (a + i), false, false, .ok)
    let bytes := sliceBytes (lines.flatMap (·.1)) (addr % 128) len
    let bad : Bool := lines.zipIdx.any fun (v, k) =>
      (v.2.1 && decide (addr % 128 < 128 * k + 64) && decide (128 * k < addr % 128 + len)) ||
        (v.2.2.1 && decide (addr % 128 < 128 * k + 128) && decide (128 * k + 64 < addr % 128 + len))
    if bad then (.poisoned, zeros len)
    else (lines.foldl (fun b v => if b = .ok then v.2.2.2 else b) .ok, bytes)
  | st => (st, zeros len)

/-- A read whose bytes may be free values uses one up. -/
def State.usedPeek (s : State) : State := s.tick

/-- The whole of `[addr, addr + len)` lies in this instance's own range (R80). -/
def State.inOwn (s : State) (addr len : Nat) : Bool :=
  let r := Reg.PC_RANGE s.self
  s.bit r Fld.PC_RANGE_VALID && decide (s.gf r Fld.PC_RANGE_BASE = natBits addr 37 15) && decide (addr < 2 ^ 52) &&
    decide (natBits addr 0 37 + len ≤ s.gf r Fld.PC_RANGE_RANKS * rankBytes)

/-! ### Writing package memory -/

/-- The smallest aligned piece of 8 to 128 bytes of a line that holds its bytes from `lo` to `hi`: offset and size (R50). -/
def pieceOf (lo hi : Nat) : Nat × Nat :=
  match [8, 16, 32, 64].find? fun n => lo / n = hi / n with
  | some n => (lo / n * n, n)
  | none => (0, 128)

/-- Requests that write the given bytes from `addr` on, one per line that has a byte to write and no larger than those bytes
need, with the hint and class given (R30, R34, R191); `none` leaves its byte as it is. -/
def writeReqs (id : Nat) (src : Src) (hint : Hint) (cls addr : Nat) (data : List (Option Byte)) : List Req :=
  (upto ((addr % 128 + data.length + 127) / 128)).filterMap fun k =>
    let base := addr / 128 * 128 + 128 * k
    let byte (i : Nat) : Option Byte := if addr ≤ base + i then (data[base + i - addr]?).join else none
    let set := (upto 128).filter fun i => (byte i).isSome
    match set.head?, set.getLast? with
    | some lo, some hi =>
      let (o, n) := pieceOf lo hi
      some { id := id, part := k, src := src, op := .write, addr := base + o, size := n, hint := hint, discard := false,
             urgent := false, attr := 0, cls := cls, prefetch := false, count := 0, deckle := 0,
             data := (upto n).map fun i => (byte (o + i)).getD 0, strb := (upto n).map fun i => (byte (o + i)).isSome : Req }
    | _, _ => none

/-- Issue writes of chosen bytes; they share the next unique number. -/
def State.issueBytes (s : State) (src : Src) (hint : Hint) (cls addr : Nat) (data : List (Option Byte)) : State :=
  (writeReqs s.freshId src hint cls addr data).foldl (fun t r => t.ingress r) (s.skipIds 1)

/-- Issue the writes of a step; they share the next unique number. -/
def State.issueWrite (s : State) (src : Src) (hint : Hint) (cls addr : Nat) (data : List Byte) : State :=
  s.issueBytes src hint cls addr (data.map some)

/-- The aligned units of `unit` bytes that a range touches. -/
def unitsOf (unit addr len : Nat) : List Nat :=
  (upto ((addr % unit + len + unit - 1) / unit)).map fun k => addr / unit * unit + unit * k

/-- A READ request whose value the requester has taken as it issued it: it acts on the cache and the stack as any READ of
its hint and class, and only a failure that overtakes it comes back (log entry 18). -/
def quietRead (id part : Nat) (src : Src) (hint : Hint) (cls addr size : Nat) : Req :=
  { id := id, part := part, src := src, op := .read, addr := addr, size := size, hint := hint, discard := false,
    urgent := false, attr := 0, cls := cls, data := [], strb := [], prefetch := false, count := 0, deckle := 0,
    quiet := true }

/-- Take up the completions of a request number. -/
def State.dropDone (s : State) (id : Nat) : State :=
  s.modPaths fun x => { x with done := x.done.filter fun c => c.req.id ≠ id }

/-- Read `len` bytes as an engine or firmware reads them: status and bytes as a read that enters the slices now sees
them, and the READ requests of `unit` bytes each on their way; what the ingress refuses at once is in the status. DESIGN
CHOICE: log entry 104, the space reserved for their responses (R29) has no size in the spec and never runs out. -/
def State.fetch (s : State) (src : Src) (hint : Hint) (cls unit addr len : Nat) : (Status × List Byte) × State :=
  let rs := (unitsOf unit addr len).zipIdx.map fun (a, k) => quietRead s.freshId k src hint cls a unit
  (s.peek addr len, (rs.foldl (fun t r => t.ingress r) (s.skipIds 1).usedPeek).dropDone s.freshId)

/-- First status other than OK among the completions of a request number, else OK. -/
def State.doneStatus (s : State) (id : Nat) : Status :=
  ((s.paths.done.filter fun c => c.req.id = id).map (·.status)).foldl (fun b x => if b = .ok then x else b) .ok

/-! ### Draining (R46) -/

/-- Write to the stack what a PC's queue and pool hold, oldest first; accesses of runs stay (R46 step 3, R501). -/
def State.drainWrites (s : State) (p : Fin 64) : State :=
  let c := s.pcs[p]
  let s := s.finishReplay p
  let ws := c.wq.map (·.acc) ++ (c.pool.map (·.acc)).filter fun a => a.write ∧ !a.owner.inRun
  let s := ws.foldl (fun t a =>
    let img := t.stack.readBurst t.free a.loc
    let bad : Bool := match decodeImage img with
      | .clean => false
      | .corrected _ _ => false
      | _ => true
    let v := applyWrite (decodedData img, bad) a
    ((t.iff (t.stack.isUndef a.loc && !fullMask a.mask) State.tick).putBurst a.loc v.1 v.2).iff (fullMask a.mask)
      fun t => t.kbFree a.loc) s
  s.modPc p fun c =>
    { c with wq := [], wqStart := [], pool := c.pool.filter fun e => !e.acc.write || e.acc.owner.inRun,
             rq := c.rq.filter fun r => match r.acc.owner with
               | .mergeRead _ => false
               | _ => true }

/-- Complete the reads that PC `p` has been granted, without lane errors: those served from the write queue, the merge reads,
which serve the reads that wait for them (R114), then the others (R46 step 3). -/
def State.drainReads (s : State) (p : Fin 64) : State :=
  let fs := s.pcs[p].fwd
  let merge (r : RqEntry) : Bool := match r.acc.owner with
    | .mergeRead _ => true
    | _ => false
  let s := fs.foldl (fun t f => t.serveRead p f.acc f.grantAt f.data f.bad) (s.modPc p fun c => { c with fwd := [] })
  let serve (t : State) (r : RqEntry) : State :=
    let img := if r.issuedAt.isSome then r.image else t.stack.readBurst t.free r.acc.loc
    let d := decodeImage img
    ((t.iff (r.issuedAt.isNone && t.stack.isUndef r.acc.loc) State.tick).readEffects r.acc d).serveRead p r.acc r.grantAt
      (decodedData img) d.bad
  let t := (s.pcs[p].rq.filter merge).foldl serve (s.modPc p fun c => { c with rq := c.rq.filter fun r => !merge r })
  t.pcs[p].rq.foldl serve (t.modPc p fun c => { c with rq := [] })

/-- Accesses on the memory crossbar that write enter their pools; two rounds take the copies a redirect stage sends on
(R450). -/
def State.landWrites (s : State) : State :=
  let round (t : State) : State :=
    let ws := t.paths.memXbar.filter fun e => e.2.write ∧ !e.2.owner.inRun
    let u := t.modPaths fun x => { x with memXbar := x.memXbar.filter fun e => !e.2.write || e.2.owner.inRun }
    ws.foldl (fun v e => v.arrive (pcFin e.1) e.2) u
  round (round s)

/-- Everything that waits to be written reaches the stack, and granted reads complete. -/
def State.drainAll (s : State) : State :=
  (upto 64).foldl (fun t p => (t.drainReads (pcFin p)).drainWrites (pcFin p)) s.landWrites

/-- Every dirty line of every slice is written back and clean (R46 step 4). -/
def State.cleanAll (s : State) : State :=
  (upto 16).foldl (fun t i =>
    let sl := sliceFin i
    let x := t.paths.slices[sl]
    let u := x.ways.foldl (fun t e => t.writeBackLine e.2 (.writeBack sl e.2.line)) t
    u.modSlice sl fun y => { y with ways := y.ways.map fun e => (e.1, e.2.cleaned) }) s

end Sys2Proof.Machine
end

