-- ==== Sys2Proof/Machine/Reset.lean ====
section
/-! DEFINITION. Meanings of the rows on resets, power stages, warm die resets, clock loss and local time (02, 14, 15). -/

namespace Sys2Proof.Machine

/-! ### Cold reset (R45, R401) -/

/-- Everything at its reset value; the levels of input pins, the stack's height and the model's own fields stay, and the
stack's contents are undefined (R401). COMPUTE_OFF_ACK falls with COMPUTE_OFF_REQ (log entry 21). -/
def State.cold (s : State) : State :=
  { State.reset with
    pending := s.pending, free := s.free,
    pins := { State.reset.pins with vddOk := s.pins.vddOk, dieWrstReqN := s.pins.dieWrstReqN, dieRstN := s.pins.dieRstN,
                                    stgAck := s.pins.stgAck, memCattrip := s.pins.memCattrip,
                                    chainERdy := s.pins.chainERdy },
    stack := { cells := [], undef := upto 256, known := [], refreshed := false, height := s.stack.height } }

/-- PORST_N_ASSERT (R45). -/
def execPorstNAssert (s : State) : Out := .next s.cold

/-- VDD_OK_FALL (R45): every island is held in reset while VDD_OK is low. -/
def vddOkFall (s : State) : State :=
  s.cold.modPins fun p => { p with vddOk := false, porstN := s.pins.porstN }

def execVddOkFall (s : State) : Out := .next (vddOkFall s)

/-- PORST_N_RELEASE: the straps are sampled, a reserved die-to-die mode counts as unused and reports STRAP_INVALID, and
the sensor and management domain ramps up (R44, R393). DESIGN CHOICE: log entry 69, the spec names no register, status or
log code for STRAP_INVALID; the model keeps it as a flag of its own. -/
def porstNRelease (head : Bool) (west east : BitVec 2) (use kind : BitVec 8) (s : State) : State :=
  if s.pins.porstN then s
  else
    let mode (m : BitVec 2) : Nat := if m.toNat = 3 then 0 else m.toNat
    let t := (s.modPins fun p => { p with porstN := true, vddOk := true }).modPwr fun w =>
      { w with sensorRamp := true, strapInvalid := decide (west.toNat = 3) || decide (east.toNat = 3) }
    { t.setDom 123 .staging with
      straps := { chainHead := head, wMode := mode west, eMode := mode east, snsUse := use, snsKind := kind },
      clk := { s.clk with releasedAt := s.clk.pkg } }

def execPorstNRelease (head : Bool) (west east : BitVec 2) (use kind : BitVec 8) (s : State) : Out :=
  .next (porstNRelease head west east use kind s)

/-- Let an island out of reset; its local time follows the package time (R27). -/
def State.release (s : State) (i : Island) : State :=
  let t := s.modPwr fun w => { w with up := w.up.set (Fin.ofNat 133 i.index) true }
  let u := if i = .sensor then t
    else { t with clk := { t.clk with locals := t.clk.locals.set (Fin.ofNat 132 i.index) t.clk.pkg } }
  match i with
  | .hostPort n => u.modPort n fun h => { h with reqReady := true }
  | .pc p => u.modPc p fun c => { c with due := 10, dueAt := s.clk.raw }
  | _ => u

/-! ### Power stages (R49, R393, R394) -/

/-- A die-to-die port is strapped to a link (R44). -/
def State.strapped (s : State) (east : Bool) : Bool :=
  let m := if east then s.straps.eMode else s.straps.wMode
  m = 1 || m = 2

/-- The domains of a stage (R393, R493). -/
def State.stageDomains (s : State) (n : Nat) : List Nat :=
  match n with
  | 0 => [112, 113, 114, 115]
  | 1 => [116, 117, 118, 119]
  | 2 => (upto 8).map (96 + ·)
  | 3 => (upto 8).map (104 + ·)
  | 4 => upto 16
  | 5 => (upto 16).map (16 + ·)
  | 6 => (upto 16).map (32 + ·)
  | 7 => (upto 16).map (48 + ·)
  | 8 => (upto 16).map (64 + ·)
  | 9 => (upto 16).map (80 + ·)
  | 10 => [120]
  | 11 => (if s.strapped false then [121] else []) ++ (if s.strapped true then [122] else [])
  | _ => s.pwr.repower.toList

/-- The islands of a domain (R23). -/
def domainIslands (d : Nat) : List Island :=
  if d < 64 then [.pc (pcFin d)]
  else if d < 96 then [.bme (Fin.ofNat 32 (d - 64))]
  else if d < 112 then [.slice (sliceFin (d - 96))]
  else if d = 115 then [.firmware]
  else if d < 116 then []
  else if d < 120 then (upto 4).map fun k => .hostPort (Fin.ofNat 16 (4 * (d - 116) + k))
  else if d = 120 then [.remote]
  else if d = 121 then [.d2d false]
  else if d = 122 then [.d2d true]
  else [.sensor]

/-- Every island of the domains that are ON is out of reset (R394). -/
def State.released (s : State) : Bool :=
  (upto 124).all fun d => decide (s.dom d ≠ .on) || (domainIslands d).all s.up

/-- The emergency signal: a throttle step, thermal shutdown or restart hold, a supply out of regulation, a domain
re-power handshake (R329). -/
def State.emergency (s : State) : Bool :=
  decide (s.gf Reg.THERM_STATUS Fld.THERM_STATUS_STEP ≠ 0) || s.shutdown ||
    s.bit Reg.THERM_STATUS Fld.THERM_STATUS_RESTART_HOLD || !s.pwr.badSupply.isEmpty ||
    s.bit Reg.THERM_PWR_STATUS Fld.THERM_PWR_STATUS_REPOWER_BUSY

/-- Keep the time since which the emergency signal has been low (R329). -/
def State.calm (s : State) : State :=
  if s.emergency then { s with fw := { s.fw with calmSince := none } }
  else if s.fw.calmSince.isNone then { s with fw := { s.fw with calmSince := some s.clk.pkg } }
  else s

/-- A stage-15 re-power has ended: firmware, which requested it, knows the domain's state, and the emergency signal may fall
(R329, R332). -/
def State.repowerEnd (s : State) (d : Nat) : State :=
  ((s.sf Reg.THERM_PWR_STATUS Fld.THERM_PWR_STATUS_REPOWER_BUSY 0).known (Reg.THERM_DOM_STATE (d / 16))).calm

/-- The re-power of an isolated domain is free to start: none since the last cold or warm reset, no stage and no other
re-power in progress (R494). -/
def State.repowerFree (s : State) (d : Nat) : Bool :=
  decide (s.dom d = .isolated) && !(s.pwr.repowered.any fun e => decide (e.1 = d)) && s.pwr.repower.isNone &&
    s.pwr.stageReqAt.isNone && !s.pins.stgAck

/-- The re-power of stage 15 begins; its handshake follows as POWER_STAGE_REQUEST (R494). -/
def State.beginRepower (s : State) (d : Nat) : State :=
  ((s.modPwr fun w => { w with repower := some d, repowered := w.repowered ++ [(d, s.clk.pkg)] }).raise
    Reg.THERM_PWR_STATUS Fld.THERM_PWR_STATUS_REPOWER_BUSY).calm

/-- The first step of a reset of all cores: the power sequencer re-powers the isolated domains of firmware cores, one after the
other (R494). -/
def State.repowerCores (s : State) : State :=
  match ((upto 4).map (112 + ·)).find? s.repowerFree with
  | some d => s.beginRepower d
  | none => s

/-- Put domains into a state. -/
def State.setDoms (s : State) (ds : List Nat) (v : DomState) : State := ds.foldl (fun t d => t.setDom d v) s

/-- The stage to run next: 11 is skipped when neither die-to-die port is strapped (R393). -/
def State.stageNow (s : State) : Option Nat :=
  if s.pwr.repower.isSome then some 15
  else if s.pwr.nextStage < 11 then some s.pwr.nextStage
  else if s.pwr.nextStage = 11 ∧ (s.strapped false || s.strapped true) then some 11
  else none

/-- POWER_STAGE_REQUEST: no stage starts before the previous handshake has completed and its islands are released
(R49, R394). With no stage left the sequence is done. -/
def powerStageRequest (s : State) : State :=
  if s.pwr.stageReqAt.isSome ∨ s.pins.stgAck ∨ !s.released then s
  else
    match s.stageNow with
    | some n =>
      if n ≠ 15 ∧ (s.pwr.seqStopped ∨ s.pwr.seqDone) then s
      else
        ((s.setDoms (s.stageDomains n) .staging).modPins fun p => { p with stgReq := true, stgNum := n }).modPwr fun w =>
          { w with stageReqAt := some s.clk.pkg, acked := false }
    | none =>
      if s.pwr.seqStopped ∨ s.pwr.seqDone then s
      else s.modPwr fun w => { w with seqDone := true, seqDoneAt := s.clk.pkg }

def execPowerStageRequest (s : State) : Out := .next (s.onLive .sensor (powerStageRequest s))

/-- PWR_STG_ACK_RISE: the request falls and the stage's domains are ON; each island leaves reset at its own step (R49,
R394). -/
def stageAckRise (s : State) : State :=
  let t := s.modPins fun p => { p with stgAck := true }
  if s.pwr.stageReqAt.isSome ∧ !s.pwr.acked then
    ((t.setDoms (s.stageDomains s.pins.stgNum) .on).modPins fun p => { p with stgReq := false }).modPwr fun w =>
      { w with acked := true }
  else t

def execPwrStgAckRise (s : State) : Out := .next (if s.up .sensor then stageAckRise s else s.modPins fun p => { p with stgAck := true })

/-- PWR_STG_ACK_FALL completes the handshake and allows the next stage (R49). -/
def stageAckFall (s : State) : State :=
  let t := s.modPins fun p => { p with stgAck := false }
  if s.pwr.stageReqAt.isSome ∧ s.pwr.acked then
    let u := t.modPwr fun w =>
      { w with stageReqAt := none, acked := false, nextStage := if s.pins.stgNum = 15 then w.nextStage else w.nextStage + 1,
               repower := if s.pins.stgNum = 15 then none else w.repower }
    let d := s.pwr.repower.getD 0
    if s.pins.stgNum = 15 then (u.repowerEnd d).iff (decide (d < 116)) State.repowerCores
    else u.sf Reg.THERM_PWR_STATUS Fld.THERM_PWR_STATUS_STAGE s.pins.stgNum
  else t

def execPwrStgAckFall (s : State) : Out := .next (if s.up .sensor then stageAckFall s else s.modPins fun p => { p with stgAck := false })

/-- STAGE_TIMEOUT: no acknowledgement 1 ms after the request; the stage's domains stay off and the sequence stops
(R394). -/
def stageTimeout (s : State) : State :=
  match s.pwr.stageReqAt with
  | none => s
  | some t0 =>
    if !s.pwr.acked ∧ t0 + 1000000 ≤ s.clk.pkg then
      let after : DomState := if s.pins.stgNum = 15 then .isolated else .off
      let t := s.setDoms (s.stageDomains s.pins.stgNum) after
      let t := if s.pins.stgNum = 15 then t.repowerEnd (s.pwr.repower.getD 0) else t
      let t := ((t.modPins fun p => { p with stgReq := false }).modPwr fun w =>
        { w with stageReqAt := none, seqStopped := w.seqStopped || decide (s.pins.stgNum ≠ 15),
                 repower := none }).raise Reg.THERM_PWR_STATUS Fld.THERM_PWR_STATUS_STAGE_TIMEOUT
      t.iff (decide (s.pins.stgNum = 15 ∧ s.pwr.repower.getD 0 < 116)) State.repowerCores
    else s

def execStageTimeout (s : State) : Out := .next (s.onLive .sensor (stageTimeout s))

/-- Begin to train a port: one that is strapped to a link and in service (R44, R396). -/
def State.trainPort (s : State) (east : Bool) : State :=
  if s.strapped east ∧ s.live (.d2d east) ∧ !s.portUp east then
    s.modD2d east fun p => { p with trainFrom := some s.clk.pkg, refused := false }
  else s

/-- The re-power of a die-to-die domain is followed by the retraining of its port (R492). DEDUCED: log entry 93, it begins with
the release of the port's island; the neighbour's part is the neighbour's. -/
def State.retrainRepowered (s : State) (i : Island) : State :=
  match i with
  | .d2d e => if s.pwr.repowered.any fun x => decide (x.1 = i.domain) then s.trainPort e else s
  | _ => s

/-- ISLAND_RESET_RELEASE: an island whose domain is ON leaves reset once its PLL has locked (R45, R394). -/
def islandRelease (i : Island) (s : State) : State :=
  if s.dom i.domain = .on ∧ !s.up i ∧ i ≠ .sensor ∧ s.pins.porstN ∧ s.pins.vddOk ∧ s.pins.dieRstN then
    (s.release i).retrainRepowered i
  else s

def execIslandResetRelease (i : Island) (s : State) : Out := .next (s.onLive .sensor (islandRelease i s))

/-! ### Warm die reset (R46 to R48, R387, R501) -/

/-- Marker values (R387). -/
def markWValue : Nat := 0x4D57A5C30F961E2D
def markC0Value : Nat := 0x4D435A3CF069E1D2
def markC1Value : Nat := 0x4D43A5C30F96D21E

/-- The value of a marker, 0 for a true code. -/
def Marker.value : Marker → Nat
  | .markW => markWValue
  | .markC0 => markC0Value
  | .markC1 => markC1Value
  | _ => 0

/-- The marker burst of PC `p`: column 0 of row 0, bank 0, bank group 0 of layer group 0, or the next column that is not
poisoned (R387). -/
def State.markerLoc (s : State) (p : Fin 64) : Loc :=
  let at_ (c : Nat) : Loc := { rank := p, bg := 0, bank := 0, row := 0, col := c }
  at_ (((upto 16).find? fun c => decodeImage (s.stack.readBurst s.free (at_ c)) ≠ .poisoned).getD 0)

/-- The marker a burst's stored check bits spell over its data, if any (R387). -/
def markerOf (img : List Byte) : Marker :=
  let x := checkWord (sliceBytes img 0 64) ^^^ leNat (sliceBytes img 64 8)
  if x = markWValue then .markW else if x = markC0Value then .markC0 else if x = markC1Value then .markC1 else .invalid

/-- Write PC `p`'s marker burst with the data it holds and the marker's check bits (R387). The controller's live copy of
the burst is its current data. -/
def State.writeMarker (s : State) (p : Fin 64) (m : Marker) : State :=
  let l := s.markerLoc p
  let d := sliceBytes (s.stack.readBurst s.free l) 0 64
  ({ s.iff (s.stack.isUndef l) State.tick with
      stack := s.stack.writeBurst l (d ++ leBytes 8 (checkWord d ^^^ m.value)) }).modPc p fun c => { c with marker := m }

/-- The marker burst that stands on the stack: the first column that spells a marker. A PC that took the reset before it was
in self-refresh leaves none (R47): a burst whose contents are undefined spells no marker. -/
def State.findMarker (s : State) (p : Fin 64) : Option (Loc × Marker) :=
  (upto 16).findSome? fun c =>
    let l : Loc := { rank := p, bg := 0, bank := 0, row := 0, col := c }
    if s.stack.isUndef l then none else match markerOf (s.stack.readBurst s.free l) with
    | .invalid => none
    | m => some (l, m)

/-- PHASE of the start-up (FW_BOOT_STATUS). -/
def State.phase (s : State) : Nat := s.gf Reg.FW_BOOT_STATUS Fld.FW_BOOT_STATUS_PHASE

/-- PCs in service: their island is out of reset with its domain ON. -/
def State.livePcs (s : State) : List (Fin 64) := ((upto 64).map pcFin).filter fun p => s.live (.pc p)

/-- PCs in service that have kept their clock: the stack behind another one stays in self-refresh until DIE_RST_N, with the
marker that its clock loss wrote (R388). -/
def State.clockedPcs (s : State) : List (Fin 64) := s.livePcs.filter fun p => !s.pcs[p].clockLost

/-- Steps 1 to 7 of R46. A notice before PHASE RANGED writes no marker (R402). Runs of the copier are abandoned where
they stand (R501). -/
def State.warmNotice (s : State) : State :=
  let t := (s.modPwr fun w => { w with quiesced := true, noticeHeld := false, noticeAt := some s.clk.raw })
  let t := { t with pcs := t.pcs.map fun (c : Pc) => { c with stopped := true } }
  let t := (t.drainAll.cleanAll).drainAll
  let ranged : Bool := 5 ≤ s.phase ∧ s.phase ≤ 8
  let t := if ranged then s.clockedPcs.foldl (fun t p => t.writeMarker p .markW) t else t
  let t := s.clockedPcs.foldl (fun t p => t.selfRefreshEnter p) t
  t.modPins fun p => { p with dieWrstAck := true }

/-- The sensor and management island decides that DIE_WRST_REQ_N is low: the notice runs at once, or waits while
COMPUTE_OFF_REQ is high (R46, R501). -/
def State.decideNotice (s : State) : State :=
  if s.pins.dieWrstAck then s
  else if s.pins.computeOffReq then s.modPwr fun w => { w with noticeHeld := true }
  else s.warmNotice

/-- DIE_WRST_REQ_FALL (R46). -/
def dieWrstReqFall (s : State) : State :=
  let t := s.modPins fun p => { p with dieWrstReqN := false }
  if s.pins.dieWrstReqN then t.decideNotice else t

def execDieWrstReqFall (s : State) : Out :=
  .next (if s.live .sensor then dieWrstReqFall s else s.modPins fun p => { p with dieWrstReqN := false })

/-- The sensor and management island leaves reset: from now on every sensor's reading is awaited (R474, R476), and a notice
that already stands is decided as the island begins to look at the pin (R46). -/
def State.sensorStarts (s : State) : State :=
  let await (x : Sensor) : Sensor := { x with readAt := some s.clk.raw }
  let t := s.release .sensor
  let t : State := { t with therm := { t.therm with sensors := t.therm.sensors.map await } }
  if s.pins.dieWrstReqN then t else t.decideNotice

/-- SENSOR_ISLAND_RESET_RELEASE: 20 µs of ramp and 15 µs of PLL lock after PORST_N (R393). -/
def sensorRelease (s : State) : State :=
  if s.pwr.sensorRamp ∧ s.pins.porstN ∧ s.pins.vddOk ∧ !s.up .sensor ∧ s.clk.releasedAt + 35000 ≤ s.clk.pkg then
    ((s.setDom 123 .on).modPwr fun w => { w with sensorRamp := false }).sensorStarts
  else s

def execSensorIslandResetRelease (s : State) : Out := .next (sensorRelease s)

/-- The steps of R48: self-refresh ends, the markers are invalidated, DIE_WRST_ACK falls, and admission resumes at each PC
once its exit scrub is over (R172). During a thermal shutdown the stack stays in self-refresh for the guard, and in PHASE
FAULT for good (R399, R488). -/
def State.withdrawNotice (s : State) : State :=
  let t := if s.shutdown ∨ s.phase = 9 then s else s.clockedPcs.foldl (fun t p => t.selfRefreshExit p) s
  let t := s.clockedPcs.foldl (fun t p =>
    match t.findMarker p with
    | some (l, _) =>
      let d := sliceBytes (t.stack.readBurst t.free l) 0 64
      (t.putBurst l d false).modPc p fun c => { c with marker := .invalid }
    | none => t) t
  let t := (t.modPins fun p => { p with dieWrstAck := false }).modPwr fun w => { w with quiesced := false, noticeAt := none }
  (upto 64).foldl (fun t n => t.resumePc (pcFin n)) t

/-- A notice that waited for the column's restart runs now; if DIE_WRST_REQ_N has returned high meanwhile, the steps of R48
follow it (R48, R501). -/
def State.resumeNotice (s : State) : State :=
  if s.pwr.noticeHeld then
    let t := s.warmNotice
    if s.pins.dieWrstReqN then t.withdrawNotice else t
  else s

/-- DIE_WRST_REQ_RISE: R48 at once while DIE_WRST_ACK is high; a notice that is still held finishes first. -/
def dieWrstReqRise (s : State) : State :=
  let t := s.modPins fun p => { p with dieWrstReqN := true }
  if s.pins.dieWrstAck ∧ s.pins.dieRstN then t.withdrawNotice else t

def execDieWrstReqRise (s : State) : Out :=
  .next (if s.live .sensor then dieWrstReqRise s else s.modPins fun p => { p with dieWrstReqN := true })

/-- The sequence of R46 may still be under way: it takes at most 50 µs from its decision, and the model's step takes none. -/
def State.noticeRuns (s : State) : Bool := s.pwr.noticeAt.any fun t => decide (s.clk.raw ≤ t + 50000)

/-- DIE_RST_N_ASSERT: every island and register is reset; straps, power state of the domains and the stack stay (R47,
R401). The contents behind a PC that was not in self-refresh are no longer refreshed: they are undefined. `behind` names the
PCs that had not written their marker when DIE_RST_N was decided, while the sequence of R46 was under way: each takes the reset
at once and leaves no valid marker (R47, R495). -/
def dieRstNAssert (behind : BitVec 64) (s : State) : State :=
  let kept (p : Fin 64) : Bool := s.bit (Reg.PC_REF_STATUS p) Fld.PC_REF_STATUS_SELF_REFRESH &&
    !(behind.getLsbD p && s.noticeRuns && !s.pcs[p].clockLost)
  let doms := (upto 124).map fun d => (d, s.dom d)
  let t : State := { State.reset with
    pending := s.pending, free := s.free, straps := s.straps, stack := { s.stack with refreshed := false },
    pins := { s.pins with dieRstN := false, dieWrstAck := false, stgReq := false, stgNum := 0, computeOffReq := false,
                          computeOffAck := false, colThrOn := false, colThr := 0 },
    clk := { State.reset.clk with pkg := 0 },
    pwr := { State.reset.pwr with seqDone := s.pwr.seqDone, seqStopped := s.pwr.seqStopped, warm := true,
                                  strapInvalid := s.pwr.strapInvalid, nextStage := s.pwr.nextStage,
                                  clockLoss := s.pcs.any fun (c : Pc) => c.clockLost } }
  let t := doms.foldl (fun t (d, v) => if v = .on then t.setDom d .on else if v = .isolated then t.setDom d .isolated else t) t
  (upto 64).foldl (fun t n =>
    let p := pcFin n
    if kept p then (t.raise (Reg.PC_REF_STATUS p) Fld.PC_REF_STATUS_SELF_REFRESH).modPc p fun c =>
        { c with marker := s.pcs[p].marker, stopped := true }
    else (upto 4).foldl (fun t g => t.loseRank (g * 64 + n)) t) t

def execDieRstNAssert (behind : BitVec 64) (s : State) : Out :=
  .next (if s.pins.porstN ∧ s.pins.vddOk then dieRstNAssert behind s else s)

/-! ### Clock loss (R388) -/

/-- The cache's all-clean level, a hardware signal: DIRTY_LINES is 0 in every slice (R388). A slice counts its own lines; of
one that reports no more, the last count stands (R209). -/
def State.allClean (s : State) : Bool :=
  (upto 16).all fun i =>
    let x := s.paths.slices[sliceFin i]
    if x.fence = .fenced ∨ !x.alive then decide (s.gf (Reg.CACHE_STATUS i) Fld.CACHE_STATUS_DIRTY_LINES = 0)
    else decide (x.dirtyLines = 0)

/-- CLOCK_LOSS: reads in flight are abandoned, a write burst whose data has begun completes, every bank is precharged,
MARK_C0 or MARK_C1 is written unless the loss cut a write burst or the ring oscillator left its trimmed range, and the
PC enters self-refresh (R388). Its unissued queue entries are lost with it. -/
def clockLoss (p : Fin 64) (cut oscBad : Bool) (s : State) : State :=
  if s.pcs[p].clockLost then s
  else
    let c := s.pcs[p]
    let begun := c.wq.filter fun w => w.issuedAt.isSome && decide (w.endAt ≤ c.cycle + 2)
    let t := if cut then s else begun.foldl (fun t w => t.putBurst w.acc.loc w.acc.data w.acc.poison) s
    let t := t.modPc p fun c => { c with rq := [], wq := [], fwd := [], wqStart := [], replay := none, clockLost := true, stopped := true }
    let t := if cut ∨ oscBad ∨ !s.pins.vddOk then t
      else t.writeMarker p (if s.allClean then .markC0 else .markC1)
    t.selfRefreshEnter p

def execClockLoss (p : Fin 64) (cut oscBad : Bool) (s : State) : Out :=
  .next (s.onLive (.pc p) (clockLoss p cut oscBad s))

/-! ### Local time (R27) -/

/-- LOCAL_TIME_CORRECTION: an island's copy is corrected from the sensor and management island's (R27). -/
def localTime (i : Island) (s : State) : State :=
  if i = .sensor then s
  else { s with clk := { s.clk with locals := s.clk.locals.set (Fin.ofNat 132 i.index) s.clk.pkg } }

def execLocalTimeCorrection (i : Island) (s : State) : Out := .next (s.onLive i (localTime i s))

end Sys2Proof.Machine
end

