-- ==== Sys2Proof/Machine/PkgOps.lean ====
section
/-! DEFINITION. Operations on the chain, the phase of the start-up, the roles of the package and the state that firmware
keeps of it (14, 15), shared by the firmware and package families. -/

namespace Sys2Proof.Machine

/-! ### Rings of records (R333) -/

/-- Slots of a ring whose register has the format of FW_LOG_RING, and its base. -/
def State.ringSlots (s : State) (reg : Nat) : Nat := 2 ^ s.gf64 reg Fld.FW_LOG_RING_LOG2
def State.ringBase (s : State) (reg : Nat) : Nat := s.gf64 reg Fld.FW_LOG_RING_BASE * 4096
def State.ringOn (s : State) (reg : Nat) : Bool := decide (s.gf64 reg Fld.FW_LOG_RING_ENABLE = 1)

/-- Records can be written to a ring now. -/
def State.ringOpen (s : State) (reg : Nat) : Bool := s.ringOn reg && !s.shutdown

/-- Write record `n` of a ring (R333). -/
def State.ringWrite (s : State) (src : Src) (reg n : Nat) (b : List Byte) : State :=
  s.issueWrite src .normal 1 (s.ringBase reg + b.length * (n % s.ringSlots reg)) b

/-! ### Chain words (R69 to R71, R369, R370) -/

/-- Change the chain. -/
def State.modChain (s : State) (f : Chain → Chain) : State := { s with chain := f s.chain }

/-- Change what the steward core keeps of the package. -/
def State.modPkg (s : State) (f : Package → Package) : State := { s with pkg := f s.pkg }

/-- Change the firmware island. -/
def State.modFw (s : State) (f : Fw → Fw) : State := { s with fw := f s.fw }

/-- The data bits of a chain word (R369). -/
def chainWord (kind : Nat) (bcast : Bool) (inst arg : Nat) : Word :=
  BitVec.ofNat 32 (kind % 16 * 2 ^ 28 + (if bcast then 2 ^ 27 else 0) + inst % 16 * 2 ^ 23 + arg % 2 ^ 23)

/-- Fields of a chain word (R369). -/
def cwKind (w : Word) : Nat := natBits w.toNat 28 4
def cwBcast (w : Word) : Bool := w.toNat.testBit 27
def cwInst (w : Word) : Nat := natBits w.toNat 23 4
def cwArg (w : Word) : Nat := natBits w.toNat 0 23

/-- Start the waiting downstream words while CHAIN_E_RDY is high; the receiver lowers it with the last word it can take
(R71). -/
def State.chainPump (s : State) : State :=
  if s.pins.chainERdy then
    match s.chain.room with
    | none => s.modChain fun c => { c with outE := c.outE ++ c.waitE, waitE := [] }
    | some k =>
      let n := s.chain.waitE.length
      (s.modChain fun c => { c with outE := c.outE ++ c.waitE.take k, waitE := c.waitE.drop k, room := some (k - n) }).modPins
        fun p => { p with chainERdy := decide (n < k) }
  else s

/-- Send a word downstream (R71). -/
def State.chainDown (s : State) (w : Word) : State := (s.modChain fun c => { c with waitE := c.waitE ++ [w] }).chainPump

/-- Send a word upstream; the head sends nothing upstream (R69). -/
def State.chainUp (s : State) (w : Word) : State :=
  if s.straps.chainHead then s else s.modChain fun c => { c with outW := c.outW ++ [w] }

/-! ### The phase of the start-up (R395, R399, R400) -/

/-- Result of the chain command STATUS (R400). -/
def State.statusResult (s : State) : Nat :=
  s.phase + s.gf Reg.FW_BOOT_STATUS Fld.FW_BOOT_STATUS_FAULT_CAUSE * 16 + s.fwState * 256

/-- The phase goes upstream as RESULT of STATUS; the head keeps its own (R395). -/
def State.reportPhase (s : State) : State :=
  if s.straps.chainHead then
    s.modPkg fun p => { p with phases := cset (fun _ => 0) p.phases s.self s.statusResult }
  else s.chainUp (chainWord 7 false s.self (1 * 2 ^ 16 + s.statusResult))

/-- Enter a phase; after GO every change is reported (R395). -/
def State.setPhase (s : State) (p : Nat) : State :=
  let t := s.sf Reg.FW_BOOT_STATUS Fld.FW_BOOT_STATUS_PHASE p
  if s.pkg.goAt.isSome then t.reportPhase else t

/-- Enter PHASE FAULT with a cause (R399). -/
def State.bootFault (s : State) (cause : Nat) : State :=
  (s.sf Reg.FW_BOOT_STATUS Fld.FW_BOOT_STATUS_FAULT_CAUSE cause).setPhase 9

/-- An instance that stops in PHASE FAULT keeps its stack in self-refresh (R399). -/
def State.faultStop (s : State) (cause : Nat) : State :=
  s.livePcs.foldl (fun t p => t.selfRefreshEnter p) (s.bootFault cause)

/-- PCs whose stack may leave self-refresh: those with a clock, outside PHASE FAULT (R388, R399). -/
def State.wakingPcs (s : State) : List (Fin 64) := if s.phase = 9 then [] else s.clockedPcs

/-! ### Captain and deputy (R379 to R382) -/

/-- ROLE: 0 stoker, 1 deputy, 2 captain. -/
def State.role (s : State) : Nat := s.gf Reg.FW_PKG_STATUS Fld.FW_PKG_STATUS_ROLE

/-- This instance is captain. -/
def State.isCaptain (s : State) : Bool := s.pkg.elected && decide (s.role = 2)

/-- Captain and deputy in force. -/
def State.captain (s : State) : Nat := s.gf Reg.FW_PKG_STATUS Fld.FW_PKG_STATUS_CAPTAIN
def State.deputy (s : State) : Option Nat :=
  if s.bit Reg.FW_PKG_STATUS Fld.FW_PKG_STATUS_DEPUTY_VALID then some (s.gf Reg.FW_PKG_STATUS Fld.FW_PKG_STATUS_DEPUTY)
  else none

/-- Show captain, deputy, role and epoch. -/
def State.setRoles (s : State) (captain : Nat) (deputy : Option Nat) (epoch : Nat) : State :=
  let r := Reg.FW_PKG_STATUS
  let t := (s.sf r Fld.FW_PKG_STATUS_CAPTAIN captain).sf r Fld.FW_PKG_STATUS_DEPUTY (deputy.getD 0)
  let t := (t.sf r Fld.FW_PKG_STATUS_DEPUTY_VALID (if deputy.isSome then 1 else 0)).sf r Fld.FW_PKG_STATUS_EPOCH epoch
  let role := if captain = s.self then 2 else if deputy = some s.self then 1 else 0
  (t.sf r Fld.FW_PKG_STATUS_ROLE role).modPkg fun p =>
    { p with epoch := epoch, elected := true, captainAt := if s.isCaptain then p.captainAt else s.clk.pkg }

/-- This instance is eligible for captain or deputy (R379). -/
def State.eligible (s : State) : Bool :=
  s.bit Reg.ID_CONFIG Fld.ID_CONFIG_ENUMERATED && s.fwRuns .steward && !s.bit Reg.FW_STATUS Fld.FW_STATUS_DEGRADED &&
    s.pins.dieWrstReqN

/-- The state of a captain (R382, R383). -/
def Package.captaincy (p : Package) : CaptainState :=
  { telemetry := p.telemetry, reports := p.reports, budgets := p.budgets, deferred := p.deferred, phases := p.phases,
    marks := p.marks }

/-- A successor takes the state of the captain before it (R382). -/
def Package.takeCaptaincy (p : Package) (c : CaptainState) : Package :=
  { p with telemetry := c.telemetry, reports := c.reports, budgets := c.budgets, deferred := c.deferred, phases := c.phases,
           marks := c.marks }

/-- The captain sends its state to a successor (R382). -/
def State.startHandover (s : State) (successor cause : Nat) : State :=
  if s.pkg.handover.isSome then s
  else (s.sendCtl successor (.handover s.pkg.epoch s.self successor cause s.pkg.captaincy)).modPkg fun p =>
    { p with handover := some { successor := successor, since := s.clk.pkg, cause := cause } }

/-! ### Admission limits -/

/-- ADMIT of a throttle step: 16 outside throttle, else the field of THERM_ADMIT (R482). -/
def State.admitOf (s : State) (step : Nat) : Nat :=
  if step = 0 then 16 else natBits (s.rd (Reg.THERM_ADMIT ((step - 1) / 4))).toNat (8 * ((step - 1) % 4)) 5

end Sys2Proof.Machine
end

