-- ==== Sys2Proof/Machine/RmtOps.lean ====
section
/-! DEFINITION. Operations of the remote port: frames, the partner table, credits, gates, shapers, deficit round robin
and the transmit queues (13). -/

namespace Sys2Proof.Machine

/-! ### Frames (R335, R336) -/

/-- A frame read from its bytes (R336). -/
def Frame.ofBytes (b : List Byte) : Frame :=
  let n (i k : Nat) : Nat := leNat (sliceBytes b i k)
  let f1 := n 1 1
  let cr := n 56 8
  { opcode := n 0 1, ackReq := f1.testBit 0, retrans := f1.testBit 1, dl := f1.testBit 2, payBytes := natBits (n 2 2) 0 13,
    cls := natBits (n 4 1) 0 3, vc := natBits (n 4 1) 4 2, hops := n 5 1, status := n 6 1, hint := natBits (n 7 1) 0 2,
    discard := (n 7 1).testBit 2, src := n 8 4, dst := n 12 4, seq := n 16 3, tag := n 20 4, addr := natBits (n 24 8) 0 52,
    attr := n 32 2, count := n 36 3, deckle := n 40 4, detail := n 44 4, time := n 48 8,
    credit := [natBits cr 0 14, natBits cr 14 14, natBits cr 28 14, natBits cr 42 14], payload := b.drop 64 }

/-- The bytes of a frame; reserved bytes are zero (R336). -/
def Frame.bytes (f : Frame) : List Byte :=
  let bit (c : Bool) (k : Nat) : Nat := if c then 2 ^ k else 0
  let cr := (upto 4).foldl (fun a i => a + f.credit.getD i 0 % 2 ^ 14 * 2 ^ (14 * i)) 0
  leBytes 1 f.opcode ++ leBytes 1 (bit f.ackReq 0 + bit f.retrans 1 + bit f.dl 2) ++ leBytes 2 (f.payBytes % 8192) ++
    leBytes 1 (f.cls % 8 + f.vc % 4 * 16) ++ leBytes 1 f.hops ++ leBytes 1 f.status ++
    leBytes 1 (f.hint % 4 + bit f.discard 2) ++ leBytes 4 f.src ++ leBytes 4 f.dst ++ leBytes 3 f.seq ++ leBytes 1 0 ++
    leBytes 4 f.tag ++ leBytes 8 f.addr ++ leBytes 2 f.attr ++ leBytes 2 0 ++ leBytes 3 f.count ++ leBytes 1 0 ++
    leBytes 4 f.deckle ++ leBytes 4 f.detail ++ leBytes 8 f.time ++ leBytes 8 cr ++ f.payload

/-- Bytes of a frame, and the credits it takes, in units of 64 B (R346). -/
def Frame.len (f : Frame) : Nat := 64 + f.payload.length
def Frame.units (f : Frame) : Nat := (f.len + 63) / 64

/-- ACK and CREDIT are control frames (R337). -/
def Frame.control (f : Frame) : Bool := f.opcode = 0x13 || f.opcode = 0x14

/-- Endpoint identity of this instance (R335). -/
def State.endpoint (s : State) : Nat := (s.rd Reg.RMT_HALL_ID).toNat / 256 * 256 + s.self

/-- A frame that the block originates or answers with, without payload (R336, R348). -/
def State.newFrame (s : State) (opcode dst cls vc : Nat) : Frame :=
  { opcode := opcode, ackReq := false, retrans := false, dl := false, payBytes := 0, cls := cls, vc := vc,
    hops := s.gf Reg.RMT_PORT_CFG Fld.RMT_PORT_CFG_HOPS, status := 0, hint := 0, discard := false, src := s.endpoint,
    dst := dst, seq := 0, tag := 0, addr := 0, attr := 0, count := 0, deckle := 0, detail := 0, time := s.now .remote,
    credit := [], payload := [] }

/-! ### The port's state -/

/-- Change the remote port, and one of its sub-ports. -/
def State.modRmt (s : State) (f : Rmt → Rmt) : State := { s with rmt := f s.rmt }
def State.modSub (s : State) (n : Fin 8) (f : SubPort → SubPort) : State :=
  s.modRmt fun r => { r with subs := r.subs.set n (f r.subs[n]) }
def State.sub (s : State) (n : Fin 8) : SubPort := s.rmt.subs[n]
def subFin (n : Nat) : Fin 8 := Fin.ofNat 8 n

/-- LINK_UP of a sub-port, as synchronised. -/
def State.rmtUp (s : State) (n : Nat) : Bool := s.bit (Reg.RMT_SUBPORT_STATUS n) Fld.RMT_SUBPORT_STATUS_LINK_UP

/-! ### The partner table (R339) -/

/-- Reset value of an entry: QUANTUM 4,224. -/
def ptReset (_ : Nat) : Nat := 4224 * 2 ^ 96

/-- An entry of the partner table and its fields. -/
def State.ptEntry (s : State) (p : Nat) : Nat := cget ptReset s.rmt.pt p
def State.ptValid (s : State) (p : Nat) : Bool := (s.ptEntry p).testBit 127
def State.ptEndpoint (s : State) (p : Nat) : Nat := natBits (s.ptEntry p) 0 32
def State.ptClass (s : State) (p : Nat) : Nat := natBits (s.ptEntry p) 120 3
def State.ptHome (s : State) (p : Nat) : Nat := natBits (s.ptEntry p) 112 3
def State.ptAlt (s : State) (p : Nat) : Nat := natBits (s.ptEntry p) 116 3
def State.ptAltValid (s : State) (p : Nat) : Bool := (s.ptEntry p).testBit 119
def State.ptOnAlt (s : State) (p : Nat) : Bool := (s.ptEntry p).testBit 115
def State.ptQuantum (s : State) (p : Nat) : Nat := natBits (s.ptEntry p) 96 16
def State.ptTxSeq (s : State) (p : Nat) : Nat := natBits (s.ptEntry p) 72 24
def State.ptRxSeq (s : State) (p : Nat) : Nat := natBits (s.ptEntry p) 48 24

/-- Set an entry, or a field of one. -/
def State.ptPut (s : State) (p v : Nat) : State := s.modRmt fun r => { r with pt := cset ptReset r.pt p v }
def State.ptSet (s : State) (p lo width v : Nat) : State := s.ptPut p (natSetBits (s.ptEntry p) lo width v)

/-- The partner of an endpoint: the lowest VALID entry that names it (R340, R341). -/
def State.partnerOf (s : State) (ep : Nat) : Option Nat :=
  ((s.rmt.pt.map (·.1)).find? fun p => s.ptValid p && decide (s.ptEndpoint p = ep))

/-- The sub-port that a partner's frames use now (R367). -/
def State.ptSub (s : State) (p : Nat) : Fin 8 := subFin (if s.ptOnAlt p then s.ptAlt p else s.ptHome p)

/-- The next TX_SEQ of a partner, and the state in which it is taken. -/
def State.takeSeq (s : State) (p : Nat) : Nat × State := (s.ptTxSeq p, s.ptSet p 72 24 (s.ptTxSeq p + 1))

/-! ### Credit (R346) -/

/-- One of two times changed: that of FWD1 or of FWD0. -/
def setFwdAt (vc now : Nat) (t : Nat × Nat) : Nat × Nat := if vc = 3 then (t.1, now) else if vc = 2 then (now, t.2) else t

/-- Space of a received frame is freed: its credits are owed to the sender of the link (R346), and another frame heads its
forward buffer (R392). -/
def State.freeRx (s : State) (x : RxFrame) : State :=
  match x.sub with
  | none => s
  | some n =>
    let v : Fin 4 := Fin.ofNat 4 x.frame.vc
    s.modSub n fun p => { p with rxFwdAt := setFwdAt v (s.now .remote) p.rxFwdAt, owed := p.owed.set v (p.owed[v] + x.frame.units),
                                 owedAt := some (p.owedAt.getD (s.now .remote)) }

/-- A control frame waits for a sub-port (R347). -/
def State.control (s : State) (n : Fin 8) (f : Frame) : State := s.modSub n fun p => { p with ctl := p.ctl ++ [f] }

/-- An ACK towards a partner (R360). -/
def State.sendAck (s : State) (p seq : Nat) : State :=
  s.control (s.ptSub p) { s.newFrame 0x13 (s.ptEndpoint p) (s.ptClass p) 1 with seq := seq }

/-! ### Gates (R357 to R359) -/

/-- ACTIVE_LEN, and the entry of an active list: mask and duration. -/
def State.gateLen (s : State) (n : Nat) : Nat := s.gf (Reg.RMT_GATE_STATUS n) Fld.RMT_GATE_STATUS_ACTIVE_LEN
def State.gateEntry (s : State) (n e : Nat) : Nat × Nat :=
  (s.gf (Reg.RMT_GATE_ACTIVE n e) Fld.RMT_GATE_ACTIVE_GATES, s.gf (Reg.RMT_GATE_ACTIVE n e) Fld.RMT_GATE_ACTIVE_DURATION)

/-- The active list; entries of duration 0 are skipped, and a list with nothing left keeps every gate open. -/
def State.gateList (s : State) (n : Nat) : List (Nat × Nat) :=
  ((upto (s.gateLen n)).map (s.gateEntry n)).filter fun e => e.2 ≠ 0

/-- Entry in progress. -/
def State.gateAt (s : State) (n : Nat) : Nat := s.gf (Reg.RMT_GATE_STATUS n) Fld.RMT_GATE_STATUS_ENTRY

/-- A class's gate is open. -/
def State.gateOpen (s : State) (n c : Nat) : Bool :=
  (s.gateList n).isEmpty || (s.gateEntry n (s.gateAt n)).1.testBit c

/-- The list from the entry after the present one on, once round. -/
def State.gateAfter (s : State) (n : Nat) : List (Nat × Nat) :=
  let k := s.gateLen n
  ((upto k).map fun i => s.gateEntry n ((s.gateAt n + 1 + i) % k)).filter fun e => e.2 ≠ 0

/-- Total duration of the leading entries that keep a class open. -/
def openRun (c : Nat) : List (Nat × Nat) → Nat
  | [] => 0
  | (m, d) :: r => if m.testBit c then d + openRun c r else 0

/-- A class's remaining window; none while no entry closes its gate (R358). -/
def State.remaining (s : State) (n : Fin 8) (c : Nat) : Option Nat :=
  if (s.gateList n).all fun e => e.1.testBit c then none
  else if !s.gateOpen n c then some 0
  else
    let (_, d) := s.gateEntry n (s.gateAt n)
    some ((s.sub n).entryAt + d - s.now .remote + openRun c (s.gateAfter n))

/-- A class's longest window; none when it is unbounded (R359). -/
def State.longest (s : State) (n c : Nat) : Option Nat :=
  let l := s.gateList n
  if l.all fun e => e.1.testBit c then none
  else some ((upto l.length).foldl (fun m i => max m (openRun c (l.drop i ++ l.take i))) 0)

/-- A time fits a window. -/
def fits (t : Nat) (w : Option Nat) : Bool := match w with
  | none => true
  | some x => decide (t ≤ x)

/-! ### Counted length and shapers (R352, R355, R356) -/

/-- Counted length L and counted time T of a frame at a sub-port (R352). -/
def State.counted (s : State) (n : Nat) (f : Frame) : Nat :=
  f.len + (if s.bit (Reg.RMT_SUBPORT_CFG n) Fld.RMT_SUBPORT_CFG_OVH_EN
    then s.gf (Reg.RMT_SUBPORT_CFG n) Fld.RMT_SUBPORT_CFG_OVERHEAD else 0)
def State.countedTime (s : State) (n : Nat) (f : Frame) : Nat := (s.counted n f + 127) / 128

/-- Slopes, limits and ENABLE of a shaper in force, credit in 1/65,536 byte. -/
def Shaper.idle (h : Shaper) : Nat := natBits h.slope.toNat 0 16 * 128
def Shaper.send (h : Shaper) : Nat := natBits h.slope.toNat 16 16 * 128
def Shaper.hi (h : Shaper) : Int := (natBits h.limit.toNat 15 15 : Nat) * 64 * 65536
def Shaper.lo (h : Shaper) : Int := -((natBits h.limit.toNat 0 15 : Nat) * 64 * 65536 : Int)
def Shaper.enabled (h : Shaper) : Bool := h.limit.toNat.testBit 31

/-- One class's credit over a time in which nothing changed at its sub-port: `sent` ns went to the counted time of a frame of
the class, and for `other` ns the sub-port sent no frame of it (R355). -/
def Shaper.run (h : Shaper) (sent other : Nat) (waits openGate : Bool) : Shaper :=
  if !openGate then h
  else
    let clamp (c : Int) : Int := max h.lo (min h.hi c)
    let c := clamp (h.credit - (sent * h.send : Nat))
    let c := if waits then clamp (c + (other * h.idle : Nat)) else c
    { h with credit := if !waits ∧ 0 < c then 0 else c }

/-- Bring the shapers of a sub-port up to a time: each frame of a class is charged for its counted time, which can end after
its last beat, and before it where TX_READY stalls the frame; the class gains no credit until the frame is sent (R352,
R355). -/
def State.settleTo (s : State) (n : Fin 8) (now : Nat) : State :=
  let p := s.sub n
  let dt := now - p.shapedAt
  let wire := min now (p.startAt + p.busy) - max p.shapedAt p.startAt
  let sent (c : Nat) : Nat := if p.charged = some c then wire else 0
  let shapers := Vector.ofFn fun c : Fin 8 =>
    let other := if p.charged = some c.val ∧ p.sending.isSome then 0 else dt - sent c
    p.shapers[c].run (sent c) other (p.tx.any fun x => x.cls = c.val) (s.gateOpen n c)
  s.modSub n fun q => { q with shapers := shapers, shapedAt := max p.shapedAt now }

/-- Writes of slope and limit that wait take effect at a frame boundary and reset the credit (R356). -/
def State.applyShapers (s : State) (n : Fin 8) : State :=
  let shapers := Vector.ofFn fun c : Fin 8 =>
    let h := (s.sub n).shapers[c]
    if h.pending then
      let g : Shaper := { slope := s.rd (Reg.RMT_SHAPER_SLOPE n c), limit := s.rd (Reg.RMT_SHAPER_LIMIT n c), credit := 0,
                          pending := false }
      { g with credit := if g.limit.toNat.testBit 30 then g.hi else 0 }
    else h
  s.modSub n fun q => { q with shapers := shapers }

/-- A sub-port is idle at a time: no frame on the wire, and the counted time of the last one over (R352, R356). -/
def SubPort.idleAt (p : SubPort) (now : Nat) : Bool := p.sending.isNone && decide (p.startAt + p.busy ≤ now)

/-- Bring the shapers of a sub-port up to the present time, a write that waited for the frame boundary taking effect there;
called before anything they depend on changes (R355, R356). -/
def State.settleSub (s : State) (n : Fin 8) : State :=
  let p := s.sub n
  let now := s.now .remote
  if p.idleAt now then ((s.settleTo n (max p.shapedAt (p.startAt + p.busy))).applyShapers n).settleTo n now
  else s.settleTo n now

/-- Credit in whole bytes, two's complement (RMT_SHAPER_CREDIT). -/
def State.shaperCredit (s : State) (n c : Nat) : Word :=
  BitVec.ofInt 32 (((s.settleSub (subFin n)).sub (subFin n)).shapers[subFin c].credit / 65536)

/-! ### Transmit queues (R345, R351, R359) -/

/-- Bytes of a sub-port's transmit buffer in use: queued frames and reserved replies (R345, R351). -/
def State.txUsed (s : State) (n : Fin 8) : Nat :=
  ((s.sub n).tx.map fun x => x.frame.len).sum +
    ((s.rmt.reqs.filter fun r => r.issued.isSome ∧ s.ptSub r.rx.partner = n).map (·.reserve)).sum

/-- A frame of some bytes finds room in the transmit buffer of 128 KiB. -/
def State.txRoom (s : State) (n : Fin 8) (bytes : Nat) : Bool := decide (s.txUsed n + bytes ≤ 131072)

/-- An originated frame ends unacknowledged: its COLLECTIVE notes the first partner that failed (R305, R361, R362). -/
def State.ackFailed (s : State) (partner : Nat) (coll : Option (Nat × Nat)) : State :=
  match coll with
  | none => s
  | some k =>
    { s with sched := { s.sched with colls := s.sched.colls.map fun c =>
        if c.pk = k then { c with awaiting := c.awaiting.filter (· ≠ partner), failed := some (c.failed.getD partner) }
        else c } }

/-- A frame is longer than its class's longest window (R359). -/
def State.oversize (s : State) (n : Fin 8) (x : Tx) : Bool := !fits (s.countedTime n x.frame) (s.longest n x.cls)

/-- What a refused frame leaves in its place, and the state, which counts the refusal: a reply becomes a header-only reply with
OVERSIZE_FOR_GATE, or nothing when that does not fit either; an originated frame ends unacknowledged; a forwarded frame
is dropped (R359). -/
def State.refuseTx (s : State) (n : Fin 8) (x : Tx) : List Tx × State :=
  let t := (s.raise (Reg.RMT_SUBPORT_STATUS n) Fld.RMT_SUBPORT_STATUS_OVERSIZE_FOR_GATE).countPort 0x016 n
  if x.reply then
    let y := { x with frame := { x.frame with payload := [], payBytes := 0, status := Status.oversizeForGate.code } }
    (if s.oversize n y then [] else [y], t)
  else
    ([], (if x.key < 8192 then t.ackFailed x.key x.coll else t).modRmt fun r =>
      { r with acks := r.acks.filter fun a => a.partner ≠ x.key ∨ a.frame.seq ≠ x.frame.seq })

/-- Put a frame at the end of its queue, or refuse it (R351, R359). -/
def State.enqueue (s : State) (n : Fin 8) (x : Tx) : State :=
  let s := s.settleSub n
  let (l, t) := if s.oversize n x then s.refuseTx n x else ([x], s)
  t.modSub n fun p => { p with tx := p.tx ++ l }

/-- Queue a reply to a partner with its next SEQ (R337, R344, R351). -/
def State.reply (s : State) (p : Nat) (req : Frame) (st : Status) (detail deckle : Nat) (payload : List Byte) : State :=
  let (q, t) := s.takeSeq p
  let f := { t.newFrame (req.opcode % 128 + 128) req.src req.cls 1 with
    tag := req.tag, addr := req.addr, seq := q, status := st.code, detail := detail, deckle := deckle,
    payBytes := payload.length, payload := payload }
  t.enqueue (t.ptSub p) { key := p, cls := req.cls, frame := f, at_ := t.now .remote, reply := true, coll := none }

/-- Queue an originated frame to a partner with its next SEQ (R351, R360). -/
def State.originate (s : State) (p : Nat) (ackReq : Bool) (coll : Option (Nat × Nat)) (f : Frame) : State :=
  let (q, t) := s.takeSeq p
  let c := t.ptClass p
  t.enqueue (t.ptSub p) { key := p, cls := c, frame := { f with seq := q, ackReq := ackReq, cls := c, vc := 0 },
                          at_ := t.now .remote, reply := false, coll := coll }

/-! ### Deficit round robin (R354) -/

/-- Keys of the non-empty queues of a class, in increasing order: partners, then the forward queue. -/
def SubPort.keys (p : SubPort) (c : Nat) : List Nat :=
  ((p.tx.filter fun x => x.cls = c).map (·.key)).foldl (fun l k => if l.contains k then l else (l.filter (· < k)) ++ [k] ++
    l.filter (k < ·)) []

/-- Head frame of a queue. -/
def SubPort.head (p : SubPort) (c key : Nat) : Option Tx := p.tx.find? fun x => x.cls = c ∧ x.key = key

/-- A frame with ACK_REQ that would be the 513th outstanding waits at the head of its queue (R361). -/
def State.ackBlocked (s : State) (x : Tx) : Bool :=
  x.frame.ackReq && decide (512 ≤ s.rmt.acks.length) &&
    !(s.rmt.acks.any fun a => a.partner = x.key ∧ a.frame.seq = x.frame.seq)

/-- The queue that deficit round robin serves: its key and the deficits with its head frame paid for (R354). -/
def drr (len quantum : Nat → Nat) (blocked : Nat → Bool) (keys : List Nat) (c : Nat) :
    Nat → Nat → Bool → List (Nat × Nat) → Option (Nat × List (Nat × Nat))
  | 0, _, _, _ => none
  | fuel + 1, ptr, reached, def' =>
    match (keys.find? fun k => decide (ptr ≤ k)).or keys.head? with
    | none => none
    | some q =>
      let next := q + 1
      if blocked q then drr len quantum blocked keys c fuel next true def'
      else
        let i := c * 16384 + q
        let d := cget (fun _ => 0) def' i + (if reached ∨ q ≠ ptr then quantum q else 0)
        if len q ≤ d then some (q, cset (fun _ => 0) def' i (d - len q))
        else drr len quantum blocked keys c fuel next true (cset (fun _ => 0) def' i d)

/-- The head frame that deficit round robin would send of a class, with the deficits after it (R354). -/
def State.drrPick (s : State) (n : Fin 8) (c : Fin 8) : Option (Tx × List (Nat × Nat)) :=
  let p := s.sub n
  let keys := p.keys c
  let head (k : Nat) : Option Tx := p.head c k
  let len (k : Nat) : Nat := ((head k).map fun x => s.counted n x.frame).getD 0
  let quantum (k : Nat) : Nat := if k < 8192 then s.ptQuantum k else 4224
  let blocked (k : Nat) : Bool := (head k).any s.ackBlocked
  match drr len quantum blocked keys c (70 * (keys.length + 1)) p.ptr[c] p.reached[c] p.deficit with
  | none => none
  | some (k, def') => (head k).map fun x => (x, def')

/-- The frame that a class would send now, with the deficits after it (R353, R354, R358). -/
def State.classPick (s : State) (n : Fin 8) (c : Fin 8) : Option (Tx × List (Nat × Nat)) :=
  let p := s.sub n
  let h := p.shapers[c]
  if !s.gateOpen n c ∨ (h.enabled ∧ h.credit < 0) ∨ p.gateHeld[c] then none
  else (s.drrPick n c).filter fun x => decide (x.1.frame.units ≤ p.credit[Fin.ofNat 4 x.1.frame.vc])

/-- A free sub-port looks at every class: one whose head frame exceeds its remaining window is held until its gate next opens
(R358). -/
def State.holdClasses (s : State) (n : Fin 8) : State :=
  let long (c : Fin 8) : Bool := s.gateOpen n c &&
    (s.drrPick n c).any fun x => !fits (s.countedTime n x.1.frame) (s.remaining n c)
  s.modSub n fun p => { p with gateHeld := Vector.ofFn fun c : Fin 8 => p.gateHeld[c] || long c }

/-- The gates of a sub-port have changed from `old` to those in force: classes whose gate opens are held no longer (R358). -/
def State.openGates (s : State) (n : Fin 8) (old : Fin 8 → Bool) : State :=
  s.modSub n fun p => { p with gateHeld := Vector.ofFn fun c : Fin 8 => p.gateHeld[c] && (old c || !s.gateOpen n c) }

/-- The first element of a list removed. -/
def dropFirst {α : Type} (f : α → Bool) : List α → List α
  | [] => []
  | x :: r => if f x then r else x :: dropFirst f r

/-- The head of the forwarded frames to be sent on virtual channel 2 (FWD0) or 3 (FWD1) has moved (R392). -/
def SubPort.headMoved (p : SubPort) (vc now : Nat) : SubPort := { p with fwdAt := setFwdAt vc now p.fwdAt }

/-- Take a frame that deficit round robin chose out of its queue: the pointer stays on a queue with more to send (R354). -/
def SubPort.taken (p : SubPort) (x : Tx) (c : Fin 8) (def' : List (Nat × Nat)) : SubPort :=
  let tx := dropFirst (fun y => decide (y.cls = c.val ∧ y.key = x.key)) p.tx
  let more := tx.any fun y => y.cls = c.val ∧ y.key = x.key
  { p with tx := tx, deficit := if more then def' else cset (fun _ => 0) def' (c.val * 16384 + x.key) 0,
           ptr := p.ptr.set c (if more then x.key else x.key + 1), reached := p.reached.set c (!more) }

/-! ### ALT (R367) -/

/-- Partners on ALT whose HOME is up and whose ALT queue is empty use HOME again (R367). -/
def State.settleAlt (s : State) : State :=
  (s.rmt.pt.map (·.1)).foldl (fun t p =>
    if t.ptOnAlt p ∧ t.rmtUp (t.ptHome p) ∧
        !((t.sub (subFin (t.ptAlt p))).tx.any fun x => x.key = p) ∧
        !((t.sub (subFin (t.ptAlt p))).sending.any fun x => x.key = p) then t.ptSet p 115 1 0
    else t) s

/-! ### Forwarding (R348 to R350) -/

/-- Coordinates of an endpoint by dimension, 0 X to 2 Z. -/
def coord (ep d : Nat) : Nat := natBits ep (24 - 8 * d) 8

/-- The step of dimension order towards a destination: dimension, whether +, whether it crosses the dateline (R349, R350). -/
def State.hallStep (s : State) (dst : Nat) : Option (Nat × Bool × Bool) :=
  let own := (s.rd Reg.RMT_HALL_ID).toNat
  ((upto 3).find? fun d => coord dst d ≠ coord own d).map fun d =>
    let size := max 1 (coord (s.rd Reg.RMT_HALL_SIZE).toNat d)
    let o := coord own d
    let plus : Bool := 2 * ((coord dst d + size - o % size) % size) ≤ size
    (d, plus, if plus then decide (o + 1 = size) else decide (o = 0))

/-- The valid links of a direction: instance and sub-port. -/
def State.dirLinks (s : State) (d : Nat) : List (Nat × Nat) :=
  let w := (s.rd (Reg.RMT_DIR d)).toNat
  ((upto 4).filter fun j => w.testBit (8 * j + 7)).map fun j => (natBits w (8 * j + 3) 4, natBits w (8 * j) 3)

/-- The dimension of the link that a frame came in on, if it is the link of a direction. -/
def State.arrivalDim (s : State) (sub : Option (Fin 8)) : Option Nat :=
  match sub with
  | none => none
  | some n => ((upto 6).find? fun d => (s.dirLinks d).contains (s.self, n.val)).map (· / 2)

/-- Bytes of forwarded frames in a transmit buffer: at most 32 KiB (R351). -/
def State.fwdUsed (s : State) (n : Fin 8) : Nat := (((s.sub n).tx.filter fun x => x.key = 8192).map fun x => x.frame.len).sum

/-- A received frame whose frame has been rewritten to be forwarded; `partner` keeps the channel whose credit it holds. -/
def RxFrame.held (x : RxFrame) : RxFrame := { x with frame := { x.frame with vc := x.partner } }

/-- Send a frame over the ring on the forward-escape channel, by the line route, once space for it is reserved at the other
instance, after older frames to the same place; a frame that no port takes is dropped and counted (R348, R376). DESIGN CHOICE:
log entry 49, whether the space is reserved is a free value of each attempt. -/
def State.ringFrame (s : State) (x : RxFrame) (dst : Nat × Option Nat) : State :=
  let east : Bool := s.self < dst.1
  if (s.hops east dst.1).isNone then (s.modRing fun g => { g with dropped := g.dropped + 1 }).freeRx x.held
  else if (s.rmt.ringWait.any fun e => decide (e.2 = dst)) ∨ (Config.openValue s.free).toNat % 2 = 0 then
    s.tick.modRmt fun r => { r with ringWait := r.ringWait ++ [(x, dst)] }
  else
    (s.tick.onPort east { vc := 2, src := s.self, dst := dst.1, body := .frame x.frame.bytes dst.2,
                          since := s.clk.pkg }).freeRx x.held

/-- Frames that wait for reserved space at other instances, oldest first (R376). -/
def State.pumpRing (s : State) : State :=
  s.rmt.ringWait.foldl (fun t e => t.ringFrame e.1 e.2) (s.modRmt fun r => { r with ringWait := [] })

/-- Forwarded frames that wait enter their queues as space allows, oldest first (R351). -/
def State.pumpFwd (s : State) : State :=
  s.rmt.fwd.foldl (fun t e =>
    if t.fwdUsed e.2 + e.1.frame.len ≤ 32768 ∧ t.txRoom e.2 e.1.frame.len then
      ((t.enqueue e.2 { key := 8192, cls := e.1.frame.cls, frame := e.1.frame, at_ := t.now .remote, reply := false,
                        coll := none }).freeRx e.1.held)
    else t.modRmt fun r => { r with fwd := r.fwd ++ [e] }) (s.modRmt fun r => { r with fwd := [] })

/-- A frame for a sub-port's forward queue; `partner` keeps the channel whose credit the frame holds. -/
def State.toForward (s : State) (n : Fin 8) (x : RxFrame) : State :=
  (s.modRmt fun r => { r with fwd := r.fwd ++ [(x, n)] }).pumpFwd

/-- A frame in transit to another package (R348 to R350). -/
def State.forward (s : State) (x : RxFrame) : State :=
  let f := x.frame
  if f.hops = 0 then ((s.raise Reg.RMT_ERR_STATUS Fld.RMT_ERR_STATUS_FWD_TTL).countPort 0x025 x.via).freeRx x
  else
    match s.hallStep f.dst with
    | none => s.freeRx x
    | some (d, plus, cross) =>
      let links := s.dirLinks (2 * d + (if plus then 0 else 1))
      let pick := (coord f.dst 0 ^^^ coord f.dst 1 ^^^ coord f.dst 2 ^^^ f.dst % 16) % max 1 links.length
      match links[pick]? with
      | none => ((s.raise Reg.RMT_ERR_STATUS Fld.RMT_ERR_STATUS_FWD_NO_ROUTE).countPort 0x026 x.via).freeRx x
      | some (inst, sub) =>
        let turn : Bool := f.vc < 2 || (match s.arrivalDim x.sub with
          | some e => decide (e ≠ d)
          | none => false)
        let dl : Bool := cross || (f.dl && !turn)
        let g := { f with hops := f.hops - 1, dl := dl, vc := if dl then 3 else 2 }
        if inst = s.self then s.toForward (subFin sub) { x with frame := g, partner := f.vc }
        else s.ringFrame { x with frame := g, partner := f.vc } (inst, some sub)

/-! ### Receiving (R342, R366) -/

/-- COLLECTIVE_DONE, COLLECTIVE_ABORT and SLOWDOWN (R365). -/
def Frame.isNotice (f : Frame) : Bool := decide (0x10 ≤ f.opcode ∧ f.opcode ≤ 0x12)

/-- Distance of a frame's SEQ from the partner's RX_SEQ (R342). -/
def State.seqAhead (s : State) (p seq : Nat) : Nat := (seq + 2 ^ 24 - s.ptRxSeq p) % 2 ^ 24

/-- A COLLECTIVE_DONE or COLLECTIVE_ABORT that finds the notice buffer full during a shutdown is not taken (R366). -/
def State.noticeFull (s : State) (f : Frame) : Bool :=
  s.shutdown && decide (f.opcode = 0x10 ∨ f.opcode = 0x11) &&
    decide (256 ≤ s.rmt.noticeHeld.length + s.rmt.notices.length)

/-- Take the frame that is next in its partner's order; false when it is not taken (R342, R360). -/
def State.takeFrame (s : State) (x : RxFrame) : Bool × State :=
  if s.noticeFull x.frame then (false, s)
  else
    let t := s.ptSet x.partner 48 24 (x.frame.seq + 1)
    if x.frame.isNotice then (true, t.modRmt fun r => { r with notices := r.notices ++ [x] })
    else
      let u := t.modRmt fun r => { r with reqs := r.reqs ++
        [{ rx := x, checked := false, issued := none, pieces := 0, reserve := 0 }] }
      (true, if x.frame.ackReq then u.sendAck x.partner x.frame.seq else u)

/-- Held frames of a partner that have become next are taken in SEQ order; one that is not taken is not kept (R342,
R366). -/
def State.takeHeld : Nat → Nat → State → State
  | 0, _, s => s
  | n + 1, p, s =>
    match s.rmt.held.find? fun x => x.partner = p ∧ x.frame.seq = s.ptRxSeq p with
    | none => s
    | some x =>
      let (ok, t) := s.takeFrame x
      let t := t.modRmt fun r => { r with held := dropFirst (fun y => decide (y = x)) r.held }
      if ok then State.takeHeld n p t else t.freeRx x

/-- A sequenced frame for this instance (R341, R342). -/
def State.receive (s : State) (x : RxFrame) : State :=
  match s.partnerOf x.frame.src with
  | none => ((s.raise Reg.RMT_ERR_STATUS Fld.RMT_ERR_STATUS_RX_UNKNOWN).countPort 0x021 x.via).freeRx x
  | some p =>
    let x := { x with partner := p }
    let d := s.seqAhead p x.frame.seq
    if d = 0 then
      let (ok, t) := s.takeFrame x
      if ok then State.takeHeld 64 p t else t.freeRx x
    else if d ≤ 255 then
      if s.rmt.held.any fun y => y.partner = p ∧ y.frame.seq = x.frame.seq then (s.countPort 0x022 x.via).freeRx x
      else if s.rmt.held.length < 64 then s.modRmt fun r => { r with held := r.held ++ [x] }
      else (s.countPort 0x024 x.via).freeRx x
    else if 2 ^ 23 ≤ d then
      ((if x.frame.ackReq then s.sendAck p x.frame.seq else s).countPort 0x022 x.via).freeRx x
    else (s.countPort 0x023 x.via).freeRx x

/-- A whole frame at this instance, from a sub-port or over the ring: by its DST (R348). A control frame is consumed
(R337). -/
def State.route' (s : State) (x : RxFrame) : State :=
  let f := x.frame
  let own := s.endpoint
  if f.dst / 256 = own / 256 ∧ f.dst % 16 = own % 16 then s.receive x
  else if f.dst / 256 = own / 256 then s.ringFrame { x with partner := f.vc } (f.dst % 16, none)
  else s.forward x

/-- A frame that came over the ring (R348, R349): towards a sub-port, or as though received here. -/
def State.frameFromRing (s : State) (east : Bool) (bytes : List Byte) (sub : Option Nat) : State :=
  let x : RxFrame := { frame := Frame.ofBytes bytes, sub := none, via := if east then 9 else 8, at_ := s.now .remote, partner := 0 }
  match sub with
  | some n => s.toForward (subFin n) x
  | none => s.route' x

end Sys2Proof.Machine
end

