-- ==== Sys2Proof/Machine/Chain.lean ====
section
/-! DEFINITION. Meanings of the rows on the chain: words, enumeration, package size and the load of package time (14:
R369 to R373, R378). -/

namespace Sys2Proof.Machine

/-! ### Words -/

/-- The number of an instance's die. -/
def State.die (s : State) : Nat := s.gf Reg.ID_CONFIG Fld.ID_CONFIG_DIE

/-- An instance is enumerated. -/
def State.enumerated (s : State) : Bool := s.bit Reg.ID_CONFIG Fld.ID_CONFIG_ENUMERATED

/-- The oldest taken word of a kind and direction, and the state without it. -/
def State.takeWord (s : State) (down : Bool) (f : Word → Bool) : Option (Word × State) :=
  let hit (x : Bool × Word) : Bool := decide (x.1 = down) && f x.2
  (s.chain.taken.find? hit).map fun x => (x.2, s.modChain fun c => { c with taken := dropFirst hit c.taken })

/-- The oldest taken word of a kind. -/
def State.takeKind (s : State) (down : Bool) (kind : Nat) : Option (Word × State) :=
  s.takeWord down fun w => decide (cwKind w = kind)

/-- Kinds of words by direction (R369). -/
def kindDown : List Nat := [1, 3, 4, 6, 8, 9]
def kindUp : List Nat := [2, 5, 7, 8, 9]

/-- Even parity over the data bits of a word (R70). -/
def evenParity (w : Word) : Bool := ((upto 32).filter fun i => w.toNat.testBit i).length % 2 = 1

/-- A word is for this instance: a broadcast or addressed one, an ENUM, a heartbeat or relayed message that passes, a REJOIN, a
RESULT that passes, and at the head every upstream word (R370, R373, R395, R400). DEDUCED: log entry 47, every instance on the
way reads a RESULT, since it may become captain. -/
def State.wordMine (s : State) (down : Bool) (w : Word) : Bool :=
  let k := cwKind w
  if down then kindDown.contains k && (cwBcast w || decide (cwInst w = s.self) || decide (k = 1))
  else kindUp.contains k && (decide (k = 5) || decide (k = 8) || decide (k = 9) || s.straps.chainHead ||
    decide (k = 7))

/-- A word goes on: a downstream word that is broadcast or addressed to another instance, every upstream word towards the
head; an ENUM is answered where it arrives (R370, R371, R373). -/
def wordOn (self : Nat) (down : Bool) (w : Word) : Bool :=
  !down || (decide (cwKind w ≠ 1) && (cwBcast w || decide (cwInst w ≠ self)))

/-- CHAIN_WORD_RECEIVE: a word with bad parity, a low stop bit or a reserved KIND is discarded and counted; the head's
west inputs are ignored (R69, R70, R369, R370). -/
def chainReceive (down : Bool) (w : Word) (parity stop : Bool) (s : State) : State :=
  if down ∧ s.straps.chainHead then s
  else if parity ≠ evenParity w ∨ !stop ∨ !(kindDown ++ kindUp).contains (cwKind w) then
    s.bumpSat Reg.D2D_RING_STATUS Fld.D2D_RING_STATUS_BAD_WORDS
  else
    let t := if wordOn s.self down w then (if down then s.chainDown w else s.chainUp w) else s
    if s.wordMine down w then t.modChain fun c => { c with taken := c.taken ++ [(down, w)] } else t

def execChainWordReceive (down : Bool) (w : Word) (parity stop : Bool) (s : State) : Out :=
  .next (s.onLive .sensor (chainReceive down w parity stop s))

/-! ### Enumeration (R371, R373) -/

/-- Numbers in an ENUM word. -/
def enumWord (inst die : Nat) : Word := chainWord 1 false (inst + 1) (inst % 16 + die % 8 * 16)

/-- Send ENUM with the own numbers once CHAIN_E_RDY is high; the head's wait for LAST begins (R371 steps 3 and 4). -/
def State.sendEnum (s : State) : State :=
  if s.pins.chainERdy then
    (s.modChain fun c => { c with
      enumSince := none, headSince := if s.straps.chainHead ∧ !c.sizeSent then some s.clk.pkg else c.headSince }).chainDown
      (enumWord s.self s.die)
  else s.modChain fun c => { c with enumSince := some s.clk.pkg }

/-- Set ENUM_FAULT. -/
def State.enumFault (s : State) : State := s.raise Reg.D2D_RING_STATUS Fld.D2D_RING_STATUS_ENUM_FAULT

/-- This instance takes part in enumeration: every stage has completed (R394). -/
def State.takesPart (s : State) : Bool := s.pwr.seqDone && !s.pwr.seqStopped

/-- Take numbers. -/
def State.setNumbers (s : State) (inst die : Nat) : State :=
  ((s.sf Reg.ID_CONFIG Fld.ID_CONFIG_INSTANCE inst).sf Reg.ID_CONFIG Fld.ID_CONFIG_DIE die).raise Reg.ID_CONFIG
    Fld.ID_CONFIG_ENUMERATED

/-- ENUMERATION_START: on the head, 1 ms after its last stage or on return from reset (R371 step 1, R373). -/
def enumStart (s : State) : State :=
  if s.straps.chainHead ∧ s.takesPart ∧ !s.enumerated ∧ (s.pwr.warm ∨ s.pwr.seqDoneAt + 1000000 ≤ s.clk.pkg) then
    ((s.setNumbers 0 0).modChain fun c => { c with headSince := none, sizeSent := false }).sendEnum
  else s

def execEnumerationStart (s : State) : Out := .next (s.onLive .sensor (enumStart s))

/-- ENUM: an instance takes its numbers, or a running one checks them, and the next instance is told (R371, R373). -/
def enum (s : State) : State :=
  if !s.takesPart ∨ s.straps.chainHead then s
  else
    match s.takeKind true 1 with
    | none => s
    | some (w, t) =>
      let n := natBits (cwArg w) 0 4 + 1
      let d := natBits (cwArg w) 4 3 + (if s.straps.wMode = 2 then 0 else 1)
      if s.enumerated then (if n = s.self then t.sendEnum else t.enumFault)
      else if 15 < n ∨ 7 < d then t.enumFault
      else (t.setNumbers n d).sendEnum

def execEnum (s : State) : Out := .next (s.onLive .sensor (enum s))

/-- Load the package time; the time since the release of reset keeps counting (R378). -/
def State.setTime (s : State) (t : Nat) : State :=
  { s with clk := { s.clk with pkg := t, elapsed := s.clk.elapsed + (s.clk.pkg - s.clk.releasedAt), releasedAt := t } }

/-- Load the package time at TIME_ZERO: instance h takes h × 1,440 ns. Once LOCKED the copies stand (R378). -/
def State.timeZero (s : State) : State :=
  if s.bit Reg.D2D_TIME_STATUS Fld.D2D_TIME_STATUS_LOCKED then s else s.setTime (s.self * 1440)

/-- The head learns the number of instances, records it and broadcasts SIZE and TIME_ZERO; after a fault it sends no SIZE
(R371 step 4, R399). -/
def State.headLast (s : State) (n : Nat) : State :=
  let t := s.modChain fun c => { c with headSince := none }
  if s.bit Reg.D2D_RING_STATUS Fld.D2D_RING_STATUS_ENUM_FAULT then t
  else
    let t := (t.sf Reg.D2D_RING_STATUS Fld.D2D_RING_STATUS_COUNT n).modChain fun c => { c with sizeSent := true }
    ((t.chainDown (chainWord 3 true 0 n)).chainDown (chainWord 4 true 0 0)).timeZero

/-- CHAIN_E_RDY has risen: the receiver takes a word at least. The number of words with which it lowers the wire again is a
free value; the table has no row for the fall (log entry 89). -/
def State.rdyHigh (s : State) : State :=
  ((s.modPins fun p => { p with chainERdy := true }).modChain fun c =>
    { c with room := some (max 1 (Config.openValue s.free).toNat) }).tick

/-- CHAIN_E_RDY_RISE: a sender that holds a word may start it; an ENUM under its 1 ms goes out (R71, R371 step 3). -/
def chainRdyRise (s : State) : State :=
  let t := s.rdyHigh
  if s.chain.enumSince.isSome then t.sendEnum else t.chainPump

def execChainERdyRise (s : State) : Out :=
  .next (if s.live .sensor then chainRdyRise s else s.rdyHigh)

/-- ENUM_LAST_TIMEOUT: CHAIN_E_RDY has not risen within 1 ms; the instance is the last, a head alone the whole package
(R371 step 3, R69). -/
def enumLastTimeout (s : State) : State :=
  match s.chain.enumSince with
  | some t0 =>
    if t0 + 1000000 ≤ s.clk.pkg then
      let t := (s.modChain fun c => { c with enumSince := none }).raise Reg.D2D_RING_STATUS Fld.D2D_RING_STATUS_LAST
      if s.straps.chainHead then t.headLast 1 else t.chainUp (chainWord 2 false s.self (s.self + 1))
    else s
  | none => s

def execEnumLastTimeout (s : State) : Out := .next (s.onLive .sensor (enumLastTimeout s))

/-- ENUM_HEAD_TIMEOUT (R371). -/
def enumHeadTimeout (s : State) : State :=
  match s.chain.headSince with
  | some t0 =>
    if t0 + 10000000 ≤ s.clk.pkg then (s.modChain fun c => { c with headSince := none }).enumFault else s
  | none => s

def execEnumHeadTimeout (s : State) : Out := .next (s.onLive .sensor (enumHeadTimeout s))

/-- LAST at the head (R371 step 4); that of instances which have come back tells a running head, which broadcasts SIZE and
TIME_ZERO for them again (R373). -/
def lastWord (s : State) : State :=
  match s.takeKind false 2 with
  | some (w, t) => if s.straps.chainHead ∧ s.enumerated then t.headLast (natBits (cwArg w) 0 5) else t
  | none => s

def execLast (s : State) : Out := .next (s.onLive .sensor (lastWord s))

/-- SIZE (R371 step 4). -/
def sizeWord (s : State) : State :=
  match s.takeKind true 3 with
  | some (w, t) => t.sf Reg.D2D_RING_STATUS Fld.D2D_RING_STATUS_COUNT (natBits (cwArg w) 0 5)
  | none => s

def execSize (s : State) : Out := .next (s.onLive .sensor (sizeWord s))

/-- TIME_ZERO (R378 step 1). -/
def execTimeZero (s : State) : Out :=
  .next (s.onLive .sensor (match s.takeKind true 4 with
    | some (_, t) => t.timeZero
    | none => s))

/-- REJOIN: a downstream instance's REJOIN is answered with ENUM, which an instance that runs checks and hands on; otherwise
an instance that returns from a die reset and has no number yet sends its own (R373). -/
def rejoin (s : State) : State :=
  match s.takeKind false 5 with
  | some (_, t) => if s.enumerated then t.chainDown (enumWord s.self s.die) else t
  | none =>
    if s.pwr.warm ∧ s.takesPart ∧ !s.enumerated ∧ !s.straps.chainHead then s.chainUp (chainWord 5 false 0 0) else s

def execRejoin (s : State) : Out := .next (s.onLive .sensor (rejoin s))

end Sys2Proof.Machine
end

