-- ==== Sys2Proof/Machine/D2d.lean ====
section
/-! DEFINITION. Meanings of the rows on the die-to-die ports: training, traffic, link down, lane repair and the stall
watchdog (14: R372 to R377, R392; 17: R465, R466). -/

namespace Sys2Proof.Machine

/-! ### Lanes (R465, R466) -/

/-- A field of module m in D2D_LANE_STATUS_x. -/
def laneState (m : Nat) : Fld := ⟨16 * m + 14, 2⟩
def laneUsed (m : Nat) : Fld := ⟨16 * m + 11, 3⟩
def laneDegraded (m : Nat) : Fld := ⟨16 * m + 10, 1⟩

/-- Change a module. -/
def State.modModule (s : State) (east : Bool) (m : Fin 2) (f : D2dModule → D2dModule) : State :=
  s.modD2d east fun p => { p with mods := p.mods.set m (f p.mods[m]) }

/-- A group of lanes beside the data lanes, and its redundant lane: clock, valid, track, sideband data and sideband clock
(R63). -/
def spareGroups : List (List Nat × Nat) := [([68, 69], 70), ([71], 72), ([73], 74), ([75], 77), ([76], 78)]

/-- Lanes of a group that have failed. -/
def lost (failed : List Nat) (l : List Nat) : Nat := (l.filter failed.contains).length

/-- A group carries on: at most one lane has failed for the redundant lane that is sound. -/
def groupWorks (failed : List Nat) (g : List Nat × Nat) : Bool :=
  decide (lost failed g.1 + lost failed [g.2] ≤ 1)

/-- State and redundant lanes in use of a module with these failed lanes: the sound ones of the four redundant data lanes,
then the half without a failed lane; out when no half is free of them, or when a lane of another group and its redundant
lane have failed (R64, R465). RD_USED counts redundant data lanes. -/
def laneOutcome (failed : List Nat) : Nat × Nat :=
  let data := failed.filter (· < 64)
  let spares := 4 - lost failed [64, 65, 66, 67]
  let used := min spares data.length
  if !spareGroups.all (groupWorks failed) then (3, used)
  else if data.length ≤ spares then
    (if data.isEmpty && spareGroups.all (fun g => lost failed g.1 = 0) then 0 else 1, used)
  else if data.all (· < 32) ∨ data.all (32 ≤ ·) then (2, used)
  else (3, used)

/-- A module's outcome with its failed lanes: FULL on the on-die link (R466); out when a training or a retrain has failed. -/
def State.moduleOutcome (s : State) (east : Bool) (sound : Bool) (failed : List Nat) : Nat × Nat :=
  if s.portMode east = 2 then (0, 0) else if sound then laneOutcome failed else (3, (laneOutcome failed).2)

/-- A training or retrain of a module ends with these lanes known to have failed: its state and redundant lanes in
D2D_LANE_STATUS_x; entry to HALF or OUT sets DEGRADED, is captured and logs 0x0079 (R64, R444, R465, R466). -/
def State.endLanes (s : State) (east : Bool) (m : Fin 2) (sound : Bool) (failed : List Nat) : State :=
  let o := s.moduleOutcome east sound failed
  let r := Reg.D2D_LANE_STATUS (portNo east)
  let t := (s.modModule east m fun d =>
    { d with retrainFrom := none, failed := failed, inService := decide (o.1 ≠ 3) }).sf r (laneState m) o.1
  let t := t.sf r (laneUsed m) o.2
  if 2 ≤ o.1 ∧ s.gf r (laneState m) ≠ o.1 then
    ((t.raise r (laneDegraded m)).fec .d2d false (portNo east) 0).logRec 0x0079 [portNo east, m, o.1]
  else t

/-- Both modules of a port are out of service (R465). -/
def State.modulesOut (s : State) (east : Bool) : Bool := (s.port east).mods.toList.all fun d => !d.inService

/-! ### The shape of the ring (R372, R377) -/

/-- Number of the link at a port: link i joins instances i and i + 1. -/
def State.linkNo (s : State) (east : Bool) : Nat :=
  if east then s.self else (s.self + max 1 s.count - 1) % max 1 s.count

/-- Show whether the ring is closed: every link is in service (R372, R377). -/
def State.shapeRing (s : State) : State :=
  let n := s.count
  let closed : Bool := 2 ≤ n ∧ (upto n).all s.linkUp
  s.sf Reg.D2D_RING_STATUS Fld.D2D_RING_STATUS_CLOSED (if closed then 1 else 0)

/-- Note a link of the ring, and that an instance is out of the ring's reach (R386). -/
def State.setLink (s : State) (i : Nat) (up : Bool) : State :=
  let t := (s.modRing fun g => { g with links := (if up then [i] else []) ++ g.links.filter (· ≠ i) }).shapeRing
  if (upto t.count).all fun j => decide (j = t.self) || (t.towards j).isSome then t
  else t.modPkg fun p => { p with cutOff := true }

/-- Field of a port in D2D_RING_STATUS. -/
def upFld (east : Bool) : Fld := if east then Fld.D2D_RING_STATUS_EAST_UP else Fld.D2D_RING_STATUS_WEST_UP

/-! ### Dropping and rerouting (R377, R392) -/

/-- A request in transit completes at its requester with a status, in place of being delivered (R377, R392). -/
def State.refuseRing (s : State) (f : Flit) (st : Status) : State :=
  match f.body with
  | .request r =>
    match s.towards f.src with
    | some e => s.onPort e { vc := 1, src := s.self, dst := f.src, since := s.clk.pkg,
                             body := .response r.id r.part r.addr st [] }
    | none => s.modRing fun g => { g with dropped := g.dropped + 1 }
  | _ => s.modRing fun g => { g with dropped := g.dropped + 1 }

/-- Traffic for another port: ESC by the line route, the rest where a path leads (R376, R377). -/
def State.reroute (s : State) (f : Flit) : State :=
  let way : Option Bool := if f.vc = 2 then ((s.hops (s.self < f.dst) f.dst).map fun _ => decide (s.self < f.dst))
    else s.towards f.dst
  match way with
  | some e => s.onPort e f
  | none => (s.refuseRing f .absent).returnCredit f.came f.body.flits

/-- A unit of traffic that has not been sent through a lost port: a request of this instance takes the other port when that
reaches its destination, or completes with ABSENT; other traffic is rerouted (R377). -/
def State.sendAgain (s : State) (f : Flit) : State :=
  match f.body with
  | .request r =>
    if f.src ≠ s.self then s.reroute f
    else match s.towards f.dst with
      | some e => (s.modD2d e fun p => { p with outstanding := p.outstanding ++ [r] }).onPort e f
      | none => s.complete r .absent []
  | _ => s.reroute f

/-- The request of this instance that a unit of traffic carries. -/
def Flit.ownRequest (self : Nat) (f : Flit) : Option Req :=
  match f.body with
  | .request r => if f.src = self then some r else none
  | _ => none

/-- A port's link is down: requests sent through it whose response is outstanding complete with ABSENT, those of other instances
by a response to them, what waits for it takes the other port, or completes with ABSENT, or is dropped and counted (R377). -/
def State.linkDown (s : State) (east : Bool) : State :=
  let p := s.port east
  let unsent := p.waiting.filterMap (Flit.ownRequest s.self)
  let t := (s.sf Reg.D2D_RING_STATUS (upFld east) 0).modD2d east fun q =>
    { q with trained := false, trainFrom := none, credits := Vector.replicate 3 0, waiting := [], outstanding := [],
             transit := [], mods := q.mods.map fun (m : D2dModule) => { m with retrainFrom := none } }
  let t := t.setLink (s.linkNo east) false
  let t := (p.outstanding.filter fun r => !unsent.contains r).foldl (fun t r => t.complete r .absent []) t
  let t := p.transit.foldl (fun t f => t.refuseRing f .absent) t
  let t := p.waiting.foldl State.sendAgain t
  t.pumpRing.broadcast (.link (s.linkNo east) false)

/-- D2D_LINK_DOWN: while no announced retrain of the port runs (R377, R465); the event is captured (R444). -/
def d2dLinkDown (east : Bool) (s : State) : State :=
  let busy : Bool := (s.port east).mods.toList.any fun m => match m.retrainFrom with
    | some t0 => decide (s.clk.pkg < t0 + 1000000)
    | none => false
  if s.portUp east ∧ !busy then (s.linkDown east).fec .d2d false (portNo east) 0 else s

def execD2dLinkDown (east : Bool) (s : State) : Out := .next (s.onLive .sensor (d2dLinkDown east s))

/-! ### Training (R372, R396, R400) -/

/-- The number that the neighbour at a port must report (R372). -/
def State.expected (s : State) (east : Bool) : Nat :=
  if east then (if s.self + 1 = s.count then 0 else s.self + 1)
  else if s.self = 0 then s.count - 1 else s.self - 1

/-- Send the RESULT of TRAIN_D2D or RETRAIN_D2D once every port named has trained or has been given up (R400). -/
def State.answerD2d (s : State) : State :=
  match s.pkg.d2dCmd with
  | some (code, ports, _) =>
    let busy (east : Bool) : Bool := ports.testBit (portNo east) && (s.port east).trainFrom.isSome
    if busy false || busy true then s
    else
      let r := (if s.portUp false then 1 else 0) + (if s.portUp true then 2 else 0)
      (s.chainUp (chainWord 7 false s.self (code * 65536 + r))).modPkg fun p => { p with d2dCmd := none }
  | none => s

/-- Credits of a newly trained port: the far side's REQ, RSP less the 2 KiB for control messages, and ESC buffers, in
flits of 256 B (R375). -/
def fullCredit : Vector Nat 3 := #v[128, 120, 64]

/-- Package alignment has completed at this instance (R378). -/
def State.locked (s : State) : Bool := s.bit Reg.D2D_TIME_STATUS Fld.D2D_TIME_STATUS_LOCKED

/-- Lanes of a module that a training finds failed: a repair of injected faults stays while injection is enabled (R468). -/
def State.trainedLanes (s : State) (east : Bool) (m : Fin 2) (found : BitVec 79) : List Nat :=
  let kept := s.bit (Reg.D2D_INJ (portNo east)) Fld.D2D_INJ_ENABLE
  (upto 79).filter fun i => found.toNat.testBit i || (kept && (s.port east).mods[m].failed.contains i)

/-- A port whose neighbour has reported the right number comes into service with the lanes that its training found; what is
known of the links goes to the others (R372, R374), and that this instance is aligned, so that a neighbour back from a die reset
can align again. -/
def State.portIn (s : State) (east : Bool) : State :=
  let t := (s.sf Reg.D2D_RING_STATUS (upFld east) 1).modD2d east fun p =>
    { p with trainFrom := none, trained := true, credits := fullCredit, returned := Vector.replicate 3 0 }
  let t := t.setLink (s.linkNo east) true
  let t := (upto s.count).foldl (fun u i => if t.linkUp i then u.broadcast (.link i true) else u) t
  (if s.locked then t.broadcast (.aligned s.self) else t).pumpRing

/-- Clear the modules of a port that begins to carry traffic again. -/
def State.freshModules (s : State) (east : Bool) : State :=
  s.modD2d east fun p =>
    { p with mods := p.mods.map fun (m : D2dModule) => { m with retrainFrom := none, inService := true, crc := [] } }

/-- D2D_TRAIN_EXCHANGE: the port has trained, with the lanes of its two modules that have failed, and the instance numbers are
exchanged (R64, R372). With both modules out the port does not train. -/
def d2dExchange (east : Bool) (n : BitVec 4) (failed : BitVec 79 × BitVec 79) (s : State) : State :=
  if (s.port east).trainFrom.isNone then s
  else
    let (l0, l1) := (s.trainedLanes east 0 failed.1, s.trainedLanes east 1 failed.2)
    let s := s.freshModules east
    let s := (s.endLanes east 0 true l0).endLanes east 1 true l1
    if s.modulesOut east then (s.modD2d east fun p => { p with trainFrom := none }).answerD2d
    else
      let s := s.modD2d east fun p => { p with numberSent := some s.self }
      if n.toNat = s.expected east then (s.portIn east).answerD2d
      else
        ((s.modD2d east fun p => { p with trainFrom := none, refused := true }).raise Reg.D2D_RING_STATUS
          Fld.D2D_RING_STATUS_RING_MISMATCH).answerD2d

def execD2dTrainExchange (east : Bool) (n : BitVec 4) (failed : BitVec 79 × BitVec 79) (s : State) : Out :=
  .next (s.onLive (.d2d east) (d2dExchange east n failed s))

/-- D2D_TRAIN_TIMEOUT: 30 ms after TRAIN_D2D a port that has not trained is taken out of service (R396). -/
def d2dTrainTimeout (east : Bool) (s : State) : State :=
  match (s.port east).trainFrom with
  | some t0 =>
    if t0 + 30000000 ≤ s.clk.pkg then (s.modD2d east fun p => { p with trainFrom := none }).answerD2d else s
  | none => s

def execD2dTrainTimeout (east : Bool) (s : State) : Out := .next (s.onLive .sensor (d2dTrainTimeout east s))

/-! ### Retraining a module (R465, R466) -/

/-- D2D_RETRAIN: eight CRC errors within 1 ms retrain a module of a UCIe link (R465). -/
def d2dRetrain (east : Bool) (m : Fin 2) (s : State) : State := s.startRetrain east m

def execD2dRetrain (east : Bool) (m : Fin 2) (s : State) : Out := .next (s.onLive (.d2d east) (d2dRetrain east m s))

/-- The lane that an armed CORRUPT injection shows as failed (R468). -/
def State.corruptLane (s : State) (east : Bool) (m : Nat) : List Nat :=
  let r := Reg.D2D_INJ (portNo east)
  if s.bit r Fld.D2D_INJ_ENABLE ∧ s.gf r Fld.D2D_INJ_KIND = 1 ∧ s.gf r Fld.D2D_INJ_MODULE = m then
    [s.gf r Fld.D2D_INJ_LANE]
  else []

/-- D2D_RETRAIN_END: the retrain has identified failed lanes, or has not succeeded within 1 ms and the module is out;
with both modules out the link is down (R465, R466). -/
def d2dRetrainEnd (east : Bool) (m : Fin 2) (failed : Option (BitVec 79)) (s : State) : State :=
  let d := (s.port east).mods[m]
  if d.retrainFrom.isNone then s
  else
    let lanes := match failed with
      | some v => ((upto 79).filter fun i => v.toNat.testBit i || d.failed.contains i ||
          (s.corruptLane east m).contains i)
      | none => d.failed
    let t := s.endLanes east m failed.isSome lanes
    if t.modulesOut east then t.linkDown east else t

def execD2dRetrainEnd (east : Bool) (m : Fin 2) (failed : Option (BitVec 79)) (s : State) : Out :=
  .next (s.onLive (.d2d east) (d2dRetrainEnd east m failed s))

/-! ### Traffic (R28, R374 to R376) -/

/-- A field of PC_LACE in use: a reserved encoding, or RESERVE above 16, takes its reset value (R90). -/
def laceInUse (v : Word) : Word :=
  let x := v.toNat
  let x := if natBits x 0 2 = 3 then natSetBits x 0 2 2 else x
  let x := if natBits x 2 2 = 3 then natSetBits x 2 2 2 else x
  BitVec.ofNat 32 (if 16 < natBits x 8 5 then natSetBits x 8 5 4 else x)

/-- Range assignment on one instance: PC_LACE is put in order and locked, and the phase is RANGED (R90, R96). -/
def State.ranged (s : State) : State :=
  let v := s.rd Reg.PC_LACE
  let w := laceInUse v
  let t := if v = w then s else (s.wr Reg.PC_LACE w).logRec 0x0040 [Reg.PC_LACE, v.toNat, w.toNat]
  (t.raise Reg.PC_LACE Fld.PC_LACE_LOCK).setPhase 5

/-- Note one address range of the package (R79, R386): an instance that loses VALID counts as lost.
An instance in PHASE ELECTION whose own range comes takes it up with it (R90, R96). -/
def State.applyRange (s : State) (inst base ranks : Nat) (valid : Bool) : State :=
  let r := Reg.PC_RANGE inst
  let was := s.bit r Fld.PC_RANGE_VALID
  let t := ((s.sf r Fld.PC_RANGE_BASE base).sf r Fld.PC_RANGE_RANKS ranks).sf r Fld.PC_RANGE_VALID (if valid then 1 else 0)
  let p := t.gf Reg.FW_PKG_PRESENT Fld.FW_PKG_PRESENT_PRESENT
  let t := t.sf Reg.FW_PKG_PRESENT Fld.FW_PKG_PRESENT_PRESENT (natSetBits p inst 1 (if valid then 1 else 0))
  if was ∧ !valid then
    t.sf Reg.FW_PKG_PRESENT Fld.FW_PKG_PRESENT_LOST (t.gf Reg.FW_PKG_PRESENT Fld.FW_PKG_PRESENT_LOST ||| 2 ^ inst)
  else if inst = t.self ∧ valid ∧ t.phase = 4 ∧ !t.bit Reg.PC_LACE Fld.PC_LACE_LOCK then t.ranged
  else t

/-- Write the hall identity (R383, R405). -/
def State.applyHall (s : State) (id size : Nat) (dirs : List Nat) : State :=
  let t := (s.wr Reg.RMT_HALL_ID (BitVec.ofNat 32 id)).wr Reg.RMT_HALL_SIZE (BitVec.ofNat 32 size)
  (upto 6).foldl (fun t d => t.wr (Reg.RMT_DIR d) (BitVec.ofNat 32 (dirs.getD d 0))) t

/-- The captain's column budget, kept within the field's range (R385). -/
def State.setBudget (s : State) (w : Nat) : State :=
  s.sf Reg.THERM_BUDGET Fld.THERM_BUDGET_BUDGET_W (max 20 (min 255 w))

/-- A captain's command acts through this instance's firmware (R383); another message stays for its own row. -/
def State.obey (s : State) (c : Ctl) : Option State :=
  match c with
  | .setRange i b r v => some (s.applyRange i b r v)
  | .setBudget i w => some (if i = s.self then s.setBudget w else s)
  | .setHall _ i z d => some (s.applyHall i z d)
  | _ => none

/-- Carry out the captain's commands that have arrived, while the steward core runs. -/
def State.obeyAll (s : State) : State :=
  if s.fwRuns .steward then
    s.ring.inbox.foldl (fun t e => match t.obey e.2 with
      | some u => u
      | none => t.modRing fun g => { g with inbox := g.inbox ++ [e] }) (s.modRing fun g => { g with inbox := [] })
  else s

/-- Instance `i` has aligned. Once the package is locked the head tells so to an instance that aligns after its return, and the
others name themselves to a head that has returned. DESIGN CHOICE: log entry 83. -/
def State.hearAligned (s : State) (i : Nat) : State :=
  let t := s.modPkg fun p => { p with aligned := if p.aligned.contains i then p.aligned else i :: p.aligned }
  if !s.locked then t else if s.straps.chainHead then t.sendCtl i .locked else t.sendCtl 0 (.aligned s.self)

/-- A control message arrives (R375). -/
def State.hearCtl (s : State) (src : Nat) (c : Ctl) : State :=
  match c with
  | .link i up => s.setLink i up
  | .locked => s.raise Reg.D2D_TIME_STATUS Fld.D2D_TIME_STATUS_LOCKED
  | .aligned i => s.hearAligned i
  | .timeAsk i => s.sendCtl i (.timeTold s.self s.clk.pkg)
  | .timeTold _ _ => s
  | .markResult i r => s.modPkg fun p => { p with marks := cset (fun _ => 0) p.marks i r }
  | c => (s.modRing fun g => { g with inbox := g.inbox ++ [(src, c)] }).obeyAll

/-- A response comes back for a request sent over the ring: it completes at its requester (R28, R376). -/
def State.ringResponse (s : State) (id part : Nat) (st : Status) (data : List Byte) : State :=
  let hit (r : Req) : Bool := r.id = id ∧ r.part = part
  match (s.ring.west.outstanding ++ s.ring.east.outstanding).find? hit with
  | some r =>
    let drop (p : D2dPort) : D2dPort := { p with outstanding := p.outstanding.filter fun x => !hit x }
    (((s.modD2d false drop).modD2d true drop)).complete r st data
  | none => s

/-- Deliver traffic at its destination. -/
def State.deliverFlit (s : State) (east : Bool) (f : Flit) : State :=
  match f.body with
  | .request r =>
    let id := s.freshId
    let t := (s.skipIds 1).modRing fun g =>
      { g with served := g.served ++ [{ id := id, origin := f.src, originId := r.id }] }
    t.ingress { r with id := id, src := .d2d east, prefetch := false, quiet := false }
  | .response id part _ st data => s.ringResponse id part st data
  | .frame b sub => if s.live .remote then s.frameFromRing east b sub else s.modRing fun g => { g with dropped := g.dropped + 1 }
  | .ctl c => s.hearCtl f.src c

/-- The response to a request in transit passes back (R377). -/
def State.noteResponse (s : State) (f : Flit) : State :=
  let answers (q : Flit) : Bool := match f.body, q.body with
    | .response id part _ _ _, .request r => decide (q.src = f.dst ∧ q.dst = f.src ∧ r.id = id ∧ r.part = part)
    | _, _ => false
  let clear (p : D2dPort) : D2dPort := { p with transit := p.transit.filter fun q => !answers q }
  (s.modD2d false clear).modD2d true clear

/-- D2D_FLIT_RECEIVE: traffic for this instance is delivered and its credit returned; traffic in transit goes on in its
direction, on ESC by the line route (R374 to R376). -/
def d2dReceive (east : Bool) (f : Flit) (s : State) : State :=
  if !s.portUp east then s
  else if f.dst = s.self then
    let ctl : Bool := match f.body with
      | .ctl _ => true
      | _ => false
    (if ctl then s else s.returnCredit (some (east, f.vc)) f.body.flits).deliverFlit east f
  else
    let came : Option (Bool × Nat) := match f.body with
      | .ctl _ => none
      | _ => some (east, f.vc)
    let g := { f with since := s.clk.pkg, came := came }
    let out : Bool := if f.vc = 2 then decide (s.self < f.dst) else !east
    let s := s.noteResponse f
    if (s.hops out f.dst).isSome then s.onPort out g else s.reroute g

def execD2dFlitReceive (east : Bool) (f : Flit) (s : State) : Out :=
  .next (s.onLive (.d2d east) (d2dReceive east f s))

/-- D2D_CREDIT_RETURN: the far side's buffer bounds the credits held (R375). -/
def d2dCredit (east : Bool) (vc : Fin 3) (n : BitVec 8) (s : State) : State :=
  if s.portUp east then
    ((s.modD2d east fun p => { p with credits := p.credits.set vc (min fullCredit[vc] (p.credits[vc] + n.toNat)) }).pumpPort
      east).pumpRing
  else s

def execD2dCreditReturn (east : Bool) (vc : Fin 3) (n : BitVec 8) (s : State) : Out :=
  .next (s.onLive (.d2d east) (d2dCredit east vc n s))

/-- ESC_SWITCH: the oldest flit in transit on a channel that has waited 1 µs without credit moves to ESC, by the line route
(R376). -/
def escSwitch (east : Bool) (s : State) : State :=
  let l := (s.port east).waiting
  let stuck (v : Nat) : Option Flit :=
    (l.find? fun f => decide (f.vc = v) && f.came.isSome).filter fun f => decide (f.since + 1000 ≤ s.clk.pkg) &&
      (s.hops (s.self < f.dst) f.dst).isSome
  match (stuck 0).or (stuck 1) with
  | some f =>
    (s.modD2d east fun p => { p with waiting := dropFirst (fun g => decide (g = f)) p.waiting }).onPort (s.self < f.dst)
      { f with vc := 2, since := s.clk.pkg }
  | none => s

def execEscSwitch (east : Bool) (s : State) : Out := .next (s.onLive (.d2d east) (escSwitch east s))

/-! ### The stall watchdog (R392) -/

/-- A forwarded frame is returned: a request gets a header-only reply with RETRY_CONGESTED, anything else is dropped and
counted (R392). `via` is the port whose buffer held it. -/
def State.returnFrame (s : State) (via : Nat) (f : Frame) : State :=
  if 1 ≤ f.opcode ∧ f.opcode ≤ 5 then
    match s.partnerOf f.src with
    | some p => s.reply p f .retryCongested 0 0 []
    | none =>
      let r := { s.newFrame (f.opcode + 128) f.src f.cls 1 with
        src := f.dst, tag := f.tag, addr := f.addr, status := Status.retryCongested.code }
      s.route' { frame := r, sub := none, via := via, at_ := s.now .remote, partner := 0 }
  else (s.modRing fun g => { g with dropped := g.dropped + 1 }).countPort 0x027 via

/-- What every stall return does: STALL_RETURN and record 0x0056. -/
def State.stallNote (s : State) (port ch : Nat) : State :=
  (s.raise Reg.D2D_RING_STATUS Fld.D2D_RING_STATUS_STALL_RETURN).logRec 0x0056 [port, ch]

/-- The stall time in ns. -/
def State.stallNs (s : State) : Nat := s.gf Reg.D2D_STALL_CFG Fld.D2D_STALL_CFG_US * 1000

/-- The ESC buffer of a die-to-die port (R392). -/
def State.stallEsc (s : State) (east : Bool) : State :=
  match (s.port east).waiting.find? fun f => f.vc = 2 with
  | some f =>
    if max f.since (s.port east).headSince + s.stallNs ≤ s.clk.pkg then
      let t := s.modD2d east fun p =>
        { p with waiting := dropFirst (fun g => decide (g = f)) p.waiting, headSince := s.clk.pkg }
      let t := t.returnCredit f.came f.body.flits
      let t := match f.body with
        | .frame b _ => t.returnFrame (if east then 9 else 8) (Frame.ofBytes b)
        | _ => t.refuseRing f .retryCongested
      t.stallNote (portNo east) 2
    else s
  | none => s

/-- The time of FWD0 or of FWD1. -/
def fwdTime (vc : Nat) (t : Nat × Nat) : Nat := if vc = 3 then t.2 else t.1

/-- A received frame holds space of a forward buffer of this sub-port (R346). -/
def RxFrame.fills (x : RxFrame) (n : Fin 8) (vc : Nat) : Bool := decide (x.sub = some n ∧ x.held.frame.vc = vc)

/-- The oldest of some received frames. -/
def oldestRx : List RxFrame → Option RxFrame
  | [] => none
  | x :: r => match oldestRx r with
    | some y => if y.at_ < x.at_ then some y else some x
    | none => some x

/-- Received frames in a forward buffer of a sub-port: those that wait for a forward queue and those that wait for space at
another instance (R346, R376). -/
def State.fwdHeld (s : State) (n : Fin 8) (vc : Nat) : List RxFrame :=
  ((s.rmt.fwd.map (·.1)) ++ (s.rmt.ringWait.map (·.1))).filter fun x => x.fills n vc

/-- The frames to be sent that a sub-port forwards (R392): 2 FWD0, 3 FWD1. -/
def State.stallSent (s : State) (n : Fin 8) (vc : Nat) : Option State :=
  let p := s.sub n
  let now := s.now .remote
  ((p.tx.find? fun x => x.key = 8192 ∧ x.frame.vc = vc).filter fun x =>
    decide (max x.at_ (fwdTime vc p.fwdAt) + s.stallNs ≤ now)).map fun x =>
      let t := s.modSub n fun p => { p.headMoved vc now with tx := dropFirst (fun y => decide (y = x)) p.tx }
      ((t.returnFrame n x.frame).pumpFwd).stallNote (2 + n) vc

/-- The receive buffer of a sub-port's forwarded frames (R346, R392). -/
def State.stallHeld (s : State) (n : Fin 8) (vc : Nat) : State :=
  match oldestRx (s.fwdHeld n vc) with
  | some x =>
    if max x.at_ (fwdTime vc (s.sub n).rxFwdAt) + s.stallNs ≤ s.now .remote then
      let t := s.modRmt fun r => { r with fwd := dropFirst (fun e => decide (e.1 = x)) r.fwd,
                                          ringWait := dropFirst (fun e => decide (e.1 = x)) r.ringWait }
      (((t.freeRx x.held).returnFrame n x.frame).pumpFwd.pumpRing).stallNote (2 + n) vc
    else s
  | none => s

/-- A forward buffer of a sub-port (R392): 2 FWD0, 3 FWD1. -/
def State.stallFwd (s : State) (n : Fin 8) (vc : Nat) : State :=
  match s.stallSent n vc with
  | some t => t
  | none => s.stallHeld n vc

/-- STALL_WATCHDOG: ports 0 west, 1 east, 2 to 9 sub-ports 0 to 7 (R392). -/
def stallWatchdog (port : Fin 10) (fwd1 : Bool) (s : State) : State :=
  if port.val < 2 then s.stallEsc (decide (port.val = 1))
  else s.stallFwd (subFin (port - 2)) (if fwd1 then 3 else 2)

def execStallWatchdog (port : Fin 10) (fwd1 : Bool) (s : State) : Out :=
  .next (s.onLive .sensor (stallWatchdog port fwd1 s))

/-! ### Package time (R378) -/

/-- Show and broadcast LOCKED once every instance has aligned: the head, which is the reference unless it has returned from a
die reset (R378 step 2). -/
def State.lockTime (s : State) : State :=
  let reference : Bool := !s.pwr.warm || decide (s.count ≤ 1)
  if s.straps.chainHead ∧ 1 ≤ s.count ∧ !s.locked ∧
      ((upto s.count).all fun i => (decide (i = 0) && reference) || s.pkg.aligned.contains i) then
    (s.raise Reg.D2D_TIME_STATUS Fld.D2D_TIME_STATUS_LOCKED).broadcast .locked
  else s

/-- This instance steps to the time of its neighbour at a port: from instance 1 on to the west one, after that has aligned. A
head that has returned from a die reset steps to a neighbour that is aligned, the west one if that link is up (R378). DESIGN
CHOICE: log entry 83. -/
def State.mayStep (s : State) (east : Bool) : Bool :=
  let nb := s.expected east
  if s.self = 0 then s.pwr.warm && decide (east = !s.portUp false) && s.pkg.aligned.contains nb
  else !east && (decide (s.self = 1) || s.pkg.aligned.contains nb)

/-- TIME_ALIGN with the neighbour's time and the measured round trip in ns: a step before LOCKED, afterwards a slew that
later ticks carry out (R378). -/
def State.align (s : State) (east : Bool) (nb : BitVec 64) (rtt : BitVec 32) : State :=
  let t := s.lockTime
  let target : Nat := nb.toNat + rtt.toNat / 2
  let corr : Int := (target : Int) - s.clk.pkg
  let shown (u : State) : State := u.sf Reg.D2D_TIME_STATUS Fld.D2D_TIME_STATUS_LAST_CORR (corr % 65536).toNat
  if !s.portUp east ∨ (t.locked ∧ !s.locked) then t
  else if !s.locked then
    if !s.mayStep east then t
    else
      let u := (shown (s.setTime target)).modPkg fun p => { p with alignAt := target, aligned := s.self :: p.aligned }
      u.broadcast (.aligned s.self)
  else if east = !s.portUp false ∧ s.pkg.alignAt + 1000000 ≤ s.clk.pkg then
    (shown s).modPkg fun p => { p with slew := corr, alignAt := s.clk.pkg }
  else t

/-- The neighbour at a port is asked for its timestamp over RSP (R375, R378). -/
def State.askTime (s : State) (east : Bool) : State :=
  if s.portUp east then s.sendCtl (s.expected east) (.timeAsk s.self) else s

/-- TIME_ALIGN: an exchange of timestamps with the neighbour at a port ends, and the next one is asked for (R378). DEDUCED: log
entry 83, the answer's time and the measured round trip are the command's operands. -/
def timeAlign (east : Bool) (nb : BitVec 64) (rtt : BitVec 32) (s : State) : State :=
  (s.askTime east).align east nb rtt

def execTimeAlign (east : Bool) (nb : BitVec 64) (rtt : BitVec 32) (s : State) : Out :=
  .next (s.onLive .sensor (timeAlign east nb rtt s))

end Sys2Proof.Machine
end

