-- ==== Sys2Proof/Machine/Crypto.lean ====
section
/-! DEFINITION. SHA-384 (FIPS 180-4) and the verification of an ECDSA P-384 signature (FIPS 186-5), which the boot ROM and
the hash and signature unit apply to an image (R314, R315). The two functions are those of the named standards; the spec
gives no other description of them. -/

namespace Sys2Proof.Machine

/-! ### SHA-384 -/

/-- The largest root of `k` bits, above the bits of `r` fixed already, whose `n`-th power does not exceed `x`. -/
def rootBits (n x : Nat) : Nat → Nat → Nat
  | 0, r => r
  | k + 1, r => rootBits n x k (if (r + 2 ^ k) ^ n ≤ x then r + 2 ^ k else r)

/-- The first 64 bits of the fractional part of the `n`-th root of a number below 512 (FIPS 180-4, 4.2.3 and 5.3.4). -/
def rootFraction (n p : Nat) : Word64 := BitVec.ofNat 64 (rootBits n (p * 2 ^ (64 * n)) 69 0)

/-- The first 80 primes: those up to 409. -/
def smallPrimes : List Nat := (upto 410).filter fun p => decide (2 ≤ p) && (upto p).all fun d => d < 2 || p % d != 0

/-- The round constants: cube roots of the first 80 primes. -/
def shaConstants : List Word64 := smallPrimes.map (rootFraction 3)

/-- The initial hash value of SHA-384: square roots of the ninth to sixteenth primes. -/
def shaStart : List Word64 := ((smallPrimes.drop 8).take 8).map (rootFraction 2)

/-- Big-endian bytes as a number. -/
def beNat (b : List Byte) : Nat := b.foldl (fun a x => a * 256 + x.toNat) 0

/-- A number as `n` big-endian bytes. -/
def beBytes (n x : Nat) : List Byte := (leBytes n x).reverse

/-- The exclusive or of a word turned right by each of the distances. -/
def turned (x : Word64) (by_ : List Nat) : Word64 := by_.foldl (fun y n => y ^^^ x.rotateRight n) 0

/-- The working variables as two windows of four words, newest first: a to d, and e to h. -/
structure ShaVars where
  upper : List Word64
  lower : List Word64
  deriving DecidableEq, Repr

/-- Word `i` of a window. -/
def shaWord (w : List Word64) (i : Nat) : Word64 := w.getD i 0

/-- One round with the sum of its constant and its schedule word: each window takes in one new word. -/
def ShaVars.round (v : ShaVars) (kw : Word64) : ShaVars :=
  let e := shaWord v.lower 0
  let choice := (e &&& (shaWord v.lower 1 ^^^ shaWord v.lower 2)) ^^^ shaWord v.lower 2
  let a := shaWord v.upper 0
  let most := (a &&& (shaWord v.upper 1 ||| shaWord v.upper 2)) ||| (shaWord v.upper 1 &&& shaWord v.upper 2)
  let mix := kw + shaWord v.lower 3 + choice + turned e [14, 18, 41]
  { upper := (mix + most + turned a [28, 34, 39]) :: v.upper.take 3, lower := (shaWord v.upper 3 + mix) :: v.lower.take 3 }

/-- The schedule word 16 places after the oldest word of a window of 16. -/
def nextWord (w : List Word64) : Word64 :=
  (turned (shaWord w 14) [19, 61] ^^^ shaWord w 14 >>> 6) + shaWord w 9 + (turned (shaWord w 1) [1, 8] ^^^ shaWord w 1 >>> 7) + shaWord w 0

/-- The rounds of a block over the constants left, with the 16 schedule words in force, oldest first. -/
def shaRounds : List Word64 → List Word64 → ShaVars → ShaVars
  | [], _, v => v
  | k :: ks, w, v => shaRounds ks (w.tail ++ [nextWord w]) (v.round (k + shaWord w 0))

/-- The 16 words of a block of 128 bytes. -/
def shaBlock (b : List Byte) : List Word64 :=
  (upto 16).map fun i => BitVec.ofNat 64 (beNat (sliceBytes b (8 * i) 8))

/-- The hash value after a padded message's blocks, each adding its rounds' result word by word. -/
def shaBlocks : Nat → List Byte → List Word64 → List Word64
  | 0, _, h => h
  | n + 1, b, h =>
    let v := shaRounds shaConstants (shaBlock (b.take 128)) { upper := h.take 4, lower := h.drop 4 }
    shaBlocks n (b.drop 128) (h.zipWith (· + ·) (v.upper ++ v.lower))

/-- The padding of a message: a one, zeros, and its length in bits. -/
def shaPad (m : List Byte) : List Byte :=
  m ++ [0x80] ++ zeros ((239 - m.length % 128) % 128) ++ beBytes 16 (8 * m.length)

/-- The SHA-384 digest of a message as a 384-bit number, first byte highest: the first six words of its hash value. -/
def sha384 (m : List Byte) : Nat :=
  let p := shaPad m
  ((shaBlocks (p.length / 128) p shaStart).take 6).foldl (fun x w => x * 2 ^ 64 + w.toNat) 0

/-! ### P-384 -/

/-- The field prime, the order of the base point, the curve's coefficient b, and the base point (SP 800-186). -/
def p384P : Nat := 2 ^ 384 - 2 ^ 128 - 2 ^ 96 + 2 ^ 32 - 1
def p384N : Nat :=
  0xffffffffffffffffffffffffffffffffffffffffffffffffc7634d81f4372ddf581a0db248b0a77aecec196accc52973
def p384B : Nat :=
  0xb3312fa7e23ee7e4988e056be3f82d19181d9c6efe8141120314088f5013875ac656398d8a2ed19d2a85c8edd3ec2aef
def p384X : Nat :=
  0xaa87ca22be8b05378eb1c71ef320ad746e1d3b628ba79b9859f741e082542a385502f25dbf55296c3a545e3872760ab7
def p384Y : Nat :=
  0x3617de4a96262c6f5d9e98bf9292dc29f8f41dbd289a147ce9da3113b5f0b8c00a60b1ce1d7e819d7a431d7c90ea0e5f

/-- x^e mod m over the `n` low bits of e. -/
def powMod : Nat → Nat → Nat → Nat → Nat
  | 0, _, _, m => 1 % m
  | n + 1, x, e, m =>
    let y := powMod n (x * x % m) (e / 2) m
    if e % 2 = 1 then y * x % m else y

/-- The inverse modulo a prime. -/
def invMod (x m : Nat) : Nat := powMod 384 (x % m) (m - 2) m

/-- A point in Jacobian coordinates; z = 0 is the point at infinity. -/
structure EcPoint where
  x : Nat
  y : Nat
  z : Nat
  deriving DecidableEq, Repr

/-- a − b modulo the field prime. -/
def subP (a b : Nat) : Nat := (a + p384P - b % p384P) % p384P

/-- The point at infinity. -/
def EcPoint.inf : EcPoint := { x := 1, y := 1, z := 0 }

/-- Double a point of y² = x³ − 3x + b. -/
def EcPoint.double (p : EcPoint) : EcPoint :=
  if p.z = 0 ∨ p.y = 0 then EcPoint.inf
  else
    let zz := p.z * p.z % p384P
    let yy := p.y * p.y % p384P
    let s := 4 * p.x * yy % p384P
    let m := 3 * (subP p.x zz) * (p.x + zz) % p384P
    let x := subP (m * m % p384P) (2 * s)
    { x := x, y := subP (m * subP s x % p384P) (8 * yy * yy), z := 2 * p.y * p.z % p384P }

/-- Add two points. -/
def EcPoint.add (p q : EcPoint) : EcPoint :=
  if p.z = 0 then q
  else if q.z = 0 then p
  else
    let z1 := p.z * p.z % p384P
    let z2 := q.z * q.z % p384P
    let u1 := p.x * z2 % p384P
    let u2 := q.x * z1 % p384P
    let s1 := p.y * z2 * q.z % p384P
    let s2 := q.y * z1 * p.z % p384P
    let h := subP u2 u1
    let r := subP s2 s1
    if h = 0 then (if r = 0 then p.double else EcPoint.inf)
    else
      let hh := h * h % p384P
      let hhh := h * hh % p384P
      let v := u1 * hh % p384P
      let x := subP (subP (r * r % p384P) hhh) (2 * v)
      { x := x, y := subP (r * subP v x % p384P) (s1 * hhh), z := p.z * q.z * h % p384P }

/-- k × P over the `n` low bits of k. -/
def EcPoint.mul : Nat → Nat → EcPoint → EcPoint
  | 0, _, _ => EcPoint.inf
  | n + 1, k, p =>
    let q := EcPoint.mul n (k / 2) p.double
    if k % 2 = 1 then q.add p else q

/-- A public key lies on the curve. -/
def onCurve (x y : Nat) : Bool :=
  decide (x < p384P ∧ y < p384P ∧ y * y % p384P = subP ((x * x % p384P * x + p384B) % p384P) (3 * x))

/-- The ECDSA P-384 signature (r, s) verifies over a digest under the key (x, y). -/
def ecdsaVerify (digest r s x y : Nat) : Bool :=
  decide (0 < r ∧ r < p384N ∧ 0 < s ∧ s < p384N) && onCurve x y &&
    (let w := invMod s p384N
     let p := (EcPoint.mul 384 (digest * w % p384N) { x := p384X, y := p384Y, z := 1 }).add
       (EcPoint.mul 384 (r * w % p384N) { x := x, y := y, z := 1 })
     p.z ≠ 0 && (let zi := invMod p.z p384P
                 decide (p.x * (zi * zi % p384P) % p384P % p384N = r)))

end Sys2Proof.Machine
end

