-- ==== Sys2Proof/Machine/EngOps.lean ====
section
/-! DEFINITION. Operations that the command queues and the engines share: packets and their completion, table
descriptors, the beside-memory engines in service, and the end of an operation (08, 09, 11). -/

namespace Sys2Proof.Machine

/-! ### Packets (R289 to R293) -/

/-- Change the scheduler core's state. -/
def State.modSched (s : State) (f : Sched → Sched) : State := { s with sched := f s.sched }

/-- Change the bag sequencer. -/
def State.modSeq (s : State) (f : Sequencer → Sequencer) : State := { s with seq := f s.seq }

/-- `n` bytes of a packet from byte `i` on, as a number. -/
def Packet.nat (p : Packet) (i n : Nat) : Nat := leNat (sliceBytes p.bytes i n)

/-- An address field of a packet (R297). -/
def Packet.addr (p : Packet) (i : Nat) : Nat := natBits (p.nat i 8) 0 52

def Packet.opcode (p : Packet) : Nat := p.nat 0 1
def Packet.fenceBefore (p : Packet) : Bool := (p.nat 1 1).testBit 0
def Packet.irq (p : Packet) : Bool := (p.nat 1 1).testBit 1
def Packet.length (p : Packet) : Nat := p.nat 2 2
def Packet.tag (p : Packet) : Nat := p.nat 4 4
def Packet.seq (p : Packet) : Nat := p.nat 8 4

/-- A packet has completed. -/
def Packet.isDone (p : Packet) : Bool := match p.stage with
  | .done _ _ _ => true
  | _ => false

/-- The packet of a key. -/
def State.packet (s : State) (k : Pk) : Option Packet := s.sched.packets.find? fun p => p.key = k

/-- Change the packet of a key. -/
def State.modPk (s : State) (k : Pk) (f : Packet → Packet) : State :=
  s.modSched fun c => { c with packets := c.packets.map fun p => if p.key = k then f p else p }

/-- A packet completes; END is now, and START too unless an engine has taken the packet up (R290, R291). -/
def State.finish (s : State) (k : Pk) (st : Status) (detail deckle : Nat) : State :=
  let t := s.now .firmware
  s.modPk k fun p => { p with stage := .done st detail deckle, stop := t, start := if p.loaded then p.start else t }

/-- An engine has taken the packet up. -/
def State.loadPk (s : State) (k : Pk) : State := s.modPk k fun p => { p with loaded := true }

/-- A packet that an engine has not refused completes. -/
def State.complete' (s : State) (k : Pk) (st : Status) (detail deckle : Nat) : State :=
  (s.loadPk k).finish k st detail deckle

/-- Class of a fill for a write of the block's own requesters (R34). -/
def fillClass : Src → Nat
  | .bme _ => 3
  | .remote => 5
  | _ => 1

/-- Issue a write of a packet and note its number for the reply (R291). -/
def State.pkWrite (s : State) (k : Pk) (src : Src) (hint : Hint) (addr : Nat) (data : List (Option Byte)) : State :=
  (s.issueBytes src hint (fillClass src) addr data).modPk k fun p => { p with writes := p.writes ++ [s.freshId] }

/-- Every write of a packet has completed (R291). -/
def State.settled (s : State) (p : Packet) : Bool := p.writes.all fun i => !s.inFlight i

/-- The first running packet of an opcode that its engine has not taken up. -/
def State.waitingPk (s : State) (p : Packet → Bool) : Option Packet :=
  s.sched.packets.find? fun k => decide (k.stage = .running) && !k.loaded && p k

/-! ### Beside-memory engines (R210, R220, R231) -/

/-- BME n is healthy. -/
def State.bmeOk (s : State) (n : Nat) : Bool := !(s.gf Reg.BME_FAILED Fld.BME_FAILED_FAILED).testBit n

/-- The BME that carries out BME n's work: itself, or its substitute (R231). -/
def State.bmeOf (s : State) (n : Nat) : Option (Fin 32) :=
  if s.bmeOk n then some (Fin.ofNat 32 n)
  else ([1, 2, 4, 8, 16].map fun k => n ^^^ k).find? (fun m => s.bmeOk m) |>.map (Fin.ofNat 32)

/-- Some failed BME has no healthy substitute (R231). -/
def State.noSubstitute (s : State) : Bool := (upto 32).any fun n => (s.bmeOf n).isNone

/-- The dealing list: the healthy BMEs in increasing order (R220). -/
def State.dealList (s : State) : List Nat := (upto 32).filter fun n => s.bmeOk n

/-- The BME role of a 64 B block: the channel of its logical PC (R214). -/
def State.roleOf (s : State) (addr : Nat) : Nat :=
  lacePc (s.gf Reg.PC_LACE Fld.PC_LACE_PATTERN) (granuleBits (s.gf Reg.PC_LACE Fld.PC_LACE_GRANULE))
    (natBits addr 0 37) / 2

/-- BME b has made progress (R461). -/
def State.progressed (s : State) (b : Fin 32) : State :=
  let t := s.now (.bme b)
  s.modSeq fun q => { q with progress := cset (fun _ => 0) q.progress b t }

/-! ### Areas -/

/-- An area of package memory: `count` pieces of `len` bytes, `pitch` apart, the first at `addr`. -/
structure Area where
  addr : Nat
  pitch : Nat
  count : Nat
  len : Nat
  deriving DecidableEq, Repr

/-- A byte range as an area. -/
def Area.flat (addr len : Nat) : Area := { addr := addr, pitch := 0, count := 1, len := len }

/-- Bytes from the first of an area to the last. -/
def Area.extent (a : Area) : Nat := if a.count = 0 ∨ a.len = 0 then 0 else a.pitch * (a.count - 1) + a.len

/-- The piece of an area that ends first after `lo`. -/
def Area.pieceAfter (a : Area) (lo : Nat) : Nat := if lo < a.addr + a.len then 0 else (lo - a.addr - a.len) / a.pitch + 1

/-- A piece of an area shares a byte with the `n` bytes from `lo` on. -/
def Area.meets (a : Area) (lo n : Nat) : Bool :=
  let p := a.addr + a.pitch * a.pieceAfter lo
  decide (0 < n ∧ 0 < a.len ∧ a.pieceAfter lo < a.count ∧ p < lo + n ∧ lo < p + a.len)

/-- Two areas share a byte. The bytes between the pieces of an area are no part of it. -/
def overlap (a b : Area) : Bool :=
  let each (x y : Area) : Bool := (upto x.count).any fun i => y.meets (x.addr + x.pitch * i) x.len
  decide (a.addr < b.addr + b.extent ∧ b.addr < a.addr + a.extent) && if a.count ≤ b.count then each a b else each b a

/-- A multiple of 64 at or above `x`. -/
def up64 (x : Nat) : Nat := (x + 63) / 64 * 64

/-- The first parameter of a list of parameter numbers and areas that lies partly outside the own range. -/
def State.outside (s : State) (l : List (Nat × Area)) : Option Nat :=
  (l.find? fun e => decide (0 < e.2.extent) && !s.inOwn e.2.addr e.2.extent).map (·.1)

/-- The first written area that overlaps a read area or an earlier written one; parameter numbers with the areas. -/
def firstOverlap (reads : List Area) : List (Nat × Area) → Option Nat
  | [] => none
  | (n, a) :: r => if reads.any (overlap a) then some n else firstOverlap (a :: reads) r

/-! ### Table descriptors (R212, R213) -/

/-- The fields of a descriptor's 32 bytes; none when VALID is 0 or FORMAT is reserved. -/
def descOf (b : List Byte) : Option Desc :=
  let n (i k : Nat) : Nat := leNat (sliceBytes b i k)
  let flags := n 23 1
  match Format.ofCode (n 22 1) with
  | none => none
  | some f =>
    if flags.testBit 0 then
      some { base := natBits (n 0 8) 0 52, rows := n 8 4, first := n 12 4, stride := n 16 4, dim := n 20 2, format := f,
             direct := flags.testBit 1, remoteOk := flags.testBit 2 }
    else none

/-- A descriptor keeps the limits of R212 and R213, its rows in the own range. -/
def State.descUsable (s : State) (d : Desc) : Bool :=
  decide (d.base % 64 = 0 ∧ 1 ≤ d.rows ∧ d.first + d.rows ≤ 2 ^ 32 ∧ d.stride % 64 = 0 ∧ 64 ≤ d.stride ∧
    d.stride ≤ 1048576 ∧ 1 ≤ d.dim ∧ d.dim ≤ 2048) &&
  decide (d.format.rowBytes d.dim ≤ 8192 ∧ d.format.rowBytes d.dim ≤ d.stride) &&
  (decide (d.dim ≤ 1024) || decide (d.format ≠ .binary32 ∧ d.format ≠ .binary64)) &&
  s.inOwn d.base (d.stride * (d.rows - 1) + d.format.rowBytes d.dim)

/-- The area of `n` rows of a table from row `r` on. -/
def Desc.rowArea (d : Desc) (r n : Nat) : Area :=
  { addr := d.base + r * d.stride, pitch := d.stride, count := n, len := d.format.rowBytes d.dim }

/-- The area of a table's rows. -/
def Desc.area (d : Desc) : Area := d.rowArea 0 d.rows

/-- Read the descriptor of table `t` once, as an operation is taken in (R212); none when it is unusable. DESIGN CHOICE: log entry
101, the read has owner class 3, that of a BME's reads; R34 names none for it. -/
def State.readDesc (s : State) (t : Nat) : Option Desc × State :=
  let a := s.gf64 Reg.BME_TDT_BASE Fld.BME_TDT_BASE_BASE * 32 + 32 * t
  if s.gf Reg.BME_TDT_SIZE Fld.BME_TDT_SIZE_ENTRIES ≤ t ∨ !s.inOwn a 32 then (none, s)
  else
    let ((st, b), u) := s.fetch .firmware .normal 3 64 a 32
    match st, descOf b with
    | .ok, some d => (if u.descUsable d then some d else none, u)
    | _, _ => (none, u)

/-- Package address of row r of a table (R213). -/
def Desc.rowAddr (d : Desc) (r : Nat) : Nat := d.base + r * d.stride

/-! ### The end of an operation (R228, R241, R256) -/

/-- Bounds and deckles: the larger of two. -/
def worse (a b : Val) : Val := match a, b with
  | .nan, _ => .inf false
  | _, .nan => .inf false
  | x, y => x.max y

/-- A write of a finished bag is still on its way (R226). -/
def State.unwritten (s : State) (w : Written) : Bool := w.ids.any fun i => s.inFlight i

/-- The lower-numbered of two marks (R229, R256). -/
def lowerMark (a b : Option (Nat × Status)) : Option (Nat × Status) :=
  match a, b with
  | some x, some y => if x.1 ≤ y.1 then some x else some y
  | none, m => m
  | m, none => m

/-- A bag whose writes have completed counts in the reply (R225, R229). -/
def SigOp.count (o : SigOp) (w : Written) : SigOp :=
  { o with deckle := worse o.deckle w.deckle, mark := lowerMark o.mark (w.mark.map fun st => (w.no, st)) }

/-- A signature with what its completed writes add to the reply. -/
def State.settleSig (s : State) (o : SigOp) : SigOp :=
  (o.writing.filter fun w => !s.unwritten w).foldl SigOp.count { o with writing := o.writing.filter s.unwritten }

/-- Nothing of a signature is left to deal, to gather, to combine or to write. -/
def SigOp.over (o : SigOp) : Bool :=
  decide (o.limit ≤ o.next) && o.redo.isEmpty && o.gather.isEmpty && o.spine.isEmpty && o.writing.isEmpty

/-- Replace a signature in the sequencer. -/
def State.putSig (s : State) (o : SigOp) : State :=
  match o.remote with
  | none => s.modSeq fun q => { q with ops := q.ops.map fun e => match e with
      | .sig x => if x.pk = o.pk then .sig o else e
      | _ => e }
  | some r => s.modSeq fun q => { q with remoteRun := q.remoteRun.map fun x => if x.remote = some r then o else x }

/-- A host signature whose last write has completed completes: with the status that ended it and its committed bags, with
its lowest marked bag, or with OK and BAGS (R228, R229, R299). A remote bag is answered through the remote port. -/
def State.sigEnd (s : State) (o' : SigOp) : State :=
  let o := s.settleSig o'
  if o'.remote.isSome then s
  else if !o.over then s.putSig o
  else
    let t := s.modSeq fun q => { q with ops := q.ops.filter fun e => match e with
      | .sig x => decide (x.pk ≠ o.pk)
      | _ => true }
    match o.stop, o.mark with
    | some st, _ => t.complete' o.pk st o.committed (deckleWord o.deckle)
    | none, some (b, st) => t.complete' o.pk st b (deckleWord o.deckle)
    | none, none => t.complete' o.pk .ok o.bags (deckleWord o.deckle)

/-- Every signature in the sequencer takes note of its completed writes. -/
def State.settleOps (s : State) : State :=
  s.seq.ops.foldl (fun t e => match e with
    | .sig o => t.sigEnd o
    | _ => t) s

/-- The lowest-numbered job that holds a mark, and the largest bound of the committed jobs (R256, R257). -/
def PressOp.mark (o : PressOp) : Option (Nat × Status) := o.marked.foldl (fun m x => lowerMark m (some x)) none
def PressOp.deckle (o : PressOp) : Val := o.deckles.foldl (fun m x => worse m x.2) .zero

/-- A press operation that has nothing left to do completes (R256, R297). -/
def State.pressEnd (s : State) (o : PressOp) : State :=
  if o.committed < o.limit ∨ !o.draining.isEmpty ∨ !o.redo.isEmpty ∨ !o.active.isEmpty then s
  else
    let t := s.modSeq fun q => { q with ops := q.ops.filter fun e => match e with
      | .press x => decide (x.pk ≠ o.pk)
      | _ => true }
    match o.stop, o.mark with
    | some st, _ => t.complete' o.pk st o.committed (deckleWord o.deckle)
    | none, some (j, st) => t.complete' o.pk st j (deckleWord o.deckle)
    | none, none => t.complete' o.pk .ok o.committed (deckleWord o.deckle)

/-- An element-wise operation leaves the sequencer with a status and the work it has completed (R241). -/
def State.ewEnd (s : State) (o : EwOp) (st : Status) (detail : Nat) : State :=
  (s.modSeq fun q => { q with ops := q.ops.filter fun e => match e with
    | .ew x => decide (x.pk ≠ o.pk)
    | _ => true }).complete' o.pk st detail (deckleWord o.deckle)

/-- Replace a press operation in the sequencer. -/
def State.putPress (s : State) (o : PressOp) : State :=
  s.modSeq fun q => { q with ops := q.ops.map fun e => match e with
    | .press x => if x.pk = o.pk then .press o else e
    | _ => e }

/-- Replace an element-wise operation in the sequencer. -/
def State.putEw (s : State) (o : EwOp) : State :=
  s.modSeq fun q => { q with ops := q.ops.map fun e => match e with
    | .ew x => if x.pk = o.pk then .ew o else e
    | _ => e }

/-- A press drops the passes of abandoned jobs, and a tile loaded for one (R256). -/
def Press.abandon (jobs : List Nat) (p : Press) : Press :=
  let lost : Bool := p.loaded.any fun x => jobs.contains x.1
  { p with inArray := p.inArray.filter (fun x => !jobs.contains x.2), loaded := if lost then none else p.loaded,
           feed := if lost then [] else p.feed }

/-- Key of an operation. -/
def EngOp.pk : EngOp → Pk
  | .sig o => o.pk
  | .ew o => o.pk
  | .press o => o.pk

/-- What a shutdown leaves of committed bags or jobs that a BME's failure has set back to their first read: they are worked on
again once the column has restarted, for their writes complete (R228, R230, R232, R256). DEDUCED: log entry 81. -/
def State.setBack (s : State) (e : EngOp) : State :=
  match e with
  | .sig o =>
    let back := o.gather.filter fun b => b.no < o.committed
    if back.isEmpty then s
    else s.putSig { o with gather := o.gather.filter (fun b => !(b.no < o.committed)), redo := back.map (·.no) ++ o.redo }
  | .press o =>
    let back := (o.active.filter fun j => j.no < o.committed).map (·.no)
    if back.isEmpty then s
    else (s.modSeq fun q => { q with presses := q.presses.map (Press.abandon back) }).putPress
      { o with active := o.active.filter (fun j => !(j.no < o.committed)), redo := back ++ o.redo }
  | .ew _ => s

/-- End an operation in the sequencer: uncommitted bags or jobs are abandoned, committed ones go on to their last write;
an element-wise operation has completed every block it has dealt (R228, R241, R256). -/
def State.endOp (s : State) (e : EngOp) (st : Status) : State :=
  match e with
  | .sig o =>
    if o.stop.isSome then s
    else
      let o' := { o with stop := some st, limit := o.committed, gather := o.gather.filter (fun b => b.no < o.committed),
                         redo := o.redo.filter (· < o.committed), next := min o.next o.committed }
      (s.putSig o').sigEnd o'
  | .press o =>
    if o.stop.isSome then s
    else
      let o' := { o with stop := some st, limit := o.committed, active := o.active.filter fun j => j.no < o.committed,
                         redo := o.redo.filter fun j => j < o.committed }
      let gone := o.active.filter fun j => !(j.no < o.committed)
      let t := s.modSeq fun q => { q with presses := q.presses.map (Press.abandon (gone.map (·.no))) }
      (t.putPress o').pressEnd o'
  | .ew o => s.ewEnd o st o.next

end Sys2Proof.Machine
end

