-- ==== Sys2Proof/Machine/Queue.lean ====
section
/-! DEFINITION. Meanings of the rows on command queues and on the packets that the scheduler core carries out itself
(11: R283 to R311). -/

namespace Sys2Proof.Machine

/-! ### Queues (R283 to R287, R308, R310) -/

/-- The queue of a number. -/
def qFin (n : Nat) : Fin 64 := Fin.ofNat 64 n

/-- STATE of a queue. -/
def State.qState (s : State) (q : Fin 64) : Nat := s.gf (Reg.FW_QSTATUS q) Fld.FW_QSTATUS_STATE

/-- Slots of a queue's rings, E (R283). -/
def State.qSlots (s : State) (q : Fin 64) : Nat := 2 ^ s.gf (Reg.FW_QCFG q) Fld.FW_QCFG_LOG2_ENTRIES

/-- HEAD of a queue. -/
def State.qHead (s : State) (q : Fin 64) : Nat := (s.rd (Reg.FW_QHEAD q)).toNat

/-- TAIL of a queue, the last one accepted. -/
def State.qTail (s : State) (q : Fin 64) : Nat := (s.rd (Reg.FW_QDB q)).toNat

/-- Base of the command ring or of the reply ring (R283). -/
def State.qBase (s : State) (reg : Nat) : Nat := natBits (s.rd64 reg) 12 40 * 4096

/-- Set STATE and HALT_CAUSE. -/
def State.qSet (s : State) (q : Fin 64) (st cause : Nat) : State :=
  (s.sf (Reg.FW_QSTATUS q) Fld.FW_QSTATUS_STATE st).sf (Reg.FW_QSTATUS q) Fld.FW_QSTATUS_HALT_CAUSE cause

/-- A running queue halts (R286, R288, R292). -/
def State.qHalt (s : State) (q : Fin 64) (cause : Nat) : State := if s.qState q = 1 then s.qSet q 2 cause else s

/-- The indices of a queue count from zero again (R287, R308). -/
def State.qZero (s : State) (q : Fin 64) : State :=
  let t := ((s.wr (Reg.FW_QHEAD q) 0).wr (Reg.FW_QDB q) 0).wr (Reg.FW_QDONE q) 0
  t.modSched fun c => { c with announced := c.announced.filter fun a => a.1 ≠ q }

/-- The distance from index `a` to index `b`, modulo 2^32. -/
def ahead (a b : Nat) : Nat := (b + 2 ^ 32 - a % 2 ^ 32) % 2 ^ 32

/-- A TAIL as the liaison core decides it (R285, R286); none, that is MGT_ERR, in FREEWHEEL (R322). -/
def doorbell (q : Fin 64) (tail : Word) (s : State) : Option State :=
  if s.fwState = 5 then none
  else some (
    if s.qState q ≠ 1 then s
    else if s.qSlots q < ahead (s.qHead q) tail.toNat ∨ 2 ^ 31 ≤ ahead (s.qTail q) tail.toNat then s.qHalt q 2
    else if tail.toNat = s.qTail q then s
    else (s.wr (Reg.FW_QDB q) tail).modSched fun c =>
      { c with announced := c.announced ++ [(q.val, tail.toNat, s.now .firmware)] })

/-- DOORBELL (R285). -/
def execDoorbell (q : Fin 64) (tail : Word) (s : State) : Out :=
  .next (s.emuWrite (Reg.FW_QDB q) tail (doorbell q tail s))

/-- The configuration check of an enable (R287): rings in the own range, 4 to 16 for LOG2_ENTRIES. -/
def State.qConfigOk (s : State) (q : Fin 64) : Bool :=
  let l := s.gf (Reg.FW_QCFG q) Fld.FW_QCFG_LOG2_ENTRIES
  decide (4 ≤ l ∧ l ≤ 16) && s.inOwn (s.qBase (Reg.FW_QRING q)) (256 * 2 ^ l) &&
    s.inOwn (s.qBase (Reg.FW_QREPLY q)) (32 * 2 ^ l)

/-- A queue whose reset has nothing left to wait for is DISABLED (R308). -/
def State.qResetEnd (s : State) (q : Fin 64) : State :=
  if s.qState q = 3 ∧ !(s.sched.packets.any fun p => p.queue = q) then
    let t := ((s.qZero q).qSet q 0 0).sf (Reg.FW_QCFG q) Fld.FW_QCFG_RESET 0
    t.wr64 (Reg.FW_QIRQ q) 0
  else s

/-- A COLLECTIVE leaves the scheduler core with a status and detail (R305, R306). -/
def State.collEnd (s : State) (k : Pk) (st : Status) (detail deckle : Nat) : State :=
  (s.modSched fun c => { c with colls := c.colls.filter fun x => x.pk ≠ k }).complete' k st detail deckle

/-- A COLLECTIVE ends before every line is complete. Its deckle is +0 when its format is exact or no line was armed (R290);
else the spec states none (R281), so a free value is used. -/
def State.collStop (s : State) (c : Coll) (st : Status) (detail : Nat) : State :=
  let exact : Bool := ((AtomFormat.ofCode c.format).bind AtomFormat.shape).isNone
  if c.phase = .notifying then s.collEnd c.pk st detail c.deckle
  else if exact ∨ (c.armed = 0 ∧ c.arm.isNone) then s.collEnd c.pk st detail 0
  else s.tick.collEnd c.pk st detail ((Config.openValue s.free).toNat % 2 ^ 32)

/-- End a running packet that no engine has taken up; a NOP has START = END (R291). -/
def State.endHeld (s : State) (p : Packet) (st : Status) : State :=
  if p.opcode = 0 then s.finish p.key st 0 0 else s.complete' p.key st 0 0

/-- End a running packet (R307, R308): its engine ends it by its own rule, and what no engine has taken up completes at
once. -/
def State.endRunning (s : State) (p : Packet) (st : Status) : State :=
  let t := s.modPk p.key fun x => { x with cancelled := true }
  match t.seq.ops.find? fun o => o.pk = p.key with
  | some o => t.endOp o st
  | none =>
    match t.sched.colls.find? fun c => c.pk = p.key with
    | some c => t.collStop c st c.complete.length
    | none =>
      match t.sched.clean with
      | some c =>
        if c.pk = p.key then
          let u := (t.modSched fun x => { x with clean := none }).modPaths fun x =>
            { x with slices := x.slices.map fun y => { y with sweep := none } }
          u.complete' p.key st (min c.count (2 ^ 32 - 1)) 0
        else t.endHeld p st
      | none => t.endHeld p st

/-- RESET of a queue (R308). -/
def State.qReset (s : State) (q : Fin 64) : State :=
  let t := (s.qSet q 3 (s.gf (Reg.FW_QSTATUS q) Fld.FW_QSTATUS_HALT_CAUSE)).sf (Reg.FW_QCFG q) Fld.FW_QCFG_ENABLE 0
  let t := t.sf (Reg.FW_QCFG q) Fld.FW_QCFG_RESET 1
  let t := t.modSched fun c => { c with packets := c.packets.filter fun p =>
    !(decide (p.queue = q) && (decide (p.stage = .fetched) || decide (p.stage = .taken))) }
  let t := (t.sched.packets.filter fun p => p.queue = q ∧ p.stage = .running).foldl
    (fun t p => t.endRunning p .cancelled) t
  t.qResetEnd q

/-- A write of FW_QCFG_q (R287, R308). -/
def State.qcfg (s : State) (q : Fin 64) (v : Word) : State :=
  let r := Reg.FW_QCFG q
  let on := s.bit r Fld.FW_QCFG_ENABLE
  let keep := natSetBits (natSetBits (v.toNat &&& 0xC01F0730) 31 1 (s.gf r Fld.FW_QCFG_ENABLE)) 30 1
    (s.gf r Fld.FW_QCFG_RESET)
  let t := if on then s else s.wr r (BitVec.ofNat 32 keep)
  if v.toNat.testBit 30 then (if s.qState q = 3 then t else t.qReset q)
  else if v.toNat.testBit 31 ∧ !on ∧ s.qState q = 0 then
    let u := (t.sf r Fld.FW_QCFG_ENABLE 1).qZero q
    if u.qConfigOk q then u.qSet q 1 0 else u.qSet q 2 3
  else t

/-- QUEUE_ENABLE: a write of FW_QCFG_q with ENABLE = 1 and RESET = 0, the other bits as given. -/
def execQueueEnable (q : Fin 64) (v : Word) (s : State) : Out :=
  let w : Word := BitVec.ofNat 32 (natSetBits (natSetBits v.toNat 31 1 1) 30 1 0)
  .next (s.emuWrite (Reg.FW_QCFG q) w (some (s.qcfg q w)))

/-- QUEUE_RESET: a write of FW_QCFG_q with RESET = 1, the other bits as given. -/
def execQueueReset (q : Fin 64) (v : Word) (s : State) : Out :=
  let w : Word := BitVec.ofNat 32 (natSetBits v.toNat 30 1 1)
  .next (s.emuWrite (Reg.FW_QCFG q) w (some (s.qcfg q w)))

/-- QUEUE_IRQ_ACK: the driver writes ACK (R310). -/
def execQueueIrqAck (q : Fin 64) (ack : Word) (s : State) : Out :=
  .next (s.emuWrite (Reg.FW_QIRQ q + 4) ack (some (s.sf64 (Reg.FW_QIRQ q) Fld.FW_QIRQ_ACK ack.toNat)))

/-! ### Fetch and intake (R288, R292 to R294, R297) -/

/-- The scheduler core works and fetches: RUNNING, not held for an activation, no thermal shutdown (R296, R322, R329). -/
def State.fetches (s : State) : Bool :=
  s.fwRuns .scheduler && decide (s.fwState = 4) && s.fw.fetching && !s.shutdown

/-- A queue has a packet to fetch and an in-flight place for it (R293). -/
def State.fetchable (s : State) (q : Fin 64) : Bool :=
  decide (s.qState q = 1) && decide (s.qHead q ≠ s.qTail q) &&
    decide ((s.sched.packets.filter fun p => p.queue = q).length < 16)

/-- The announcement that covers a queue's next packet: its time (R294). -/
def State.announcedAt (s : State) (q : Fin 64) : Nat :=
  match s.sched.announced.find? fun a => a.1 = q.val ∧ ahead (s.qHead q) a.2.1 ≠ 0 with
  | some a => a.2.2
  | none => s.now .firmware

/-- The best of some queues by a measure, the earliest listed among equals. -/
def leastBy (f : Fin 64 → Nat) : List (Fin 64) → Option (Fin 64)
  | [] => none
  | q :: r =>
    match leastBy f r with
    | none => some q
    | some p => if f q ≤ f p then some q else some p

/-- The queue of the next fetch (R294). -/
def State.nextQueue (s : State) : Option (Fin 64) :=
  let ready := ((upto 64).map qFin).filter fun q => s.fetchable q
  if (s.sched.fetches + 1) % 8 = 0 then leastBy s.announcedAt ready
  else
    let after := ((upto 64).map fun k => qFin (s.sched.lastQueue + 1 + k)).filter fun q => s.fetchable q
    leastBy (fun q => 3 - s.gf (Reg.FW_QCFG q) Fld.FW_QCFG_PRIO) after

/-- A packet in flight as it is fetched. -/
def Packet.new (q : Fin 64) (i : Nat) (b : List Byte) : Packet :=
  { queue := q, index := i, bytes := b, stage := .fetched, taken := 0, cancelled := false, loaded := false, start := 0,
    stop := 0, reads := [], writes := [] }

/-- Fetch the packet at HEAD of a queue (R284, R288). -/
def State.fetchFrom (s : State) (q : Fin 64) : State :=
  let i := s.qHead q
  let a := s.qBase (Reg.FW_QRING q) + 256 * (i % s.qSlots q)
  let ((st, b), t) := s.fetch .firmware .last 1 128 a 128
  let t := t.modSched fun c => { c with fetches := c.fetches + 1, lastQueue := q }
  if st ≠ .ok then t.qHalt q 4
  else
    let n := leNat (sliceBytes b 2 2)
    let ((st', b'), u) := if 16 < n ∧ n ≤ 32 then t.fetch .firmware .last 1 128 (a + 128) 128 else ((.ok, []), t)
    if st' ≠ .ok then u.qHalt q 4
    else
      let h := (i + 1) % 2 ^ 32
      (u.wr (Reg.FW_QHEAD q) (BitVec.ofNat 32 h)).modSched fun c =>
        { c with packets := c.packets ++ [{ Packet.new q i (b ++ b') with
                   reads := (upto (u.freshId - s.freshId)).map (s.freshId + ·) }],
                 announced := c.announced.filter fun x => x.1 ≠ q ∨ x.2.1 ≠ h }

/-- PACKET_FETCH: one packet at a time is between its fetch and its checks (R292). -/
def packetFetch (s : State) : State :=
  if s.fetches ∧ s.sched.packets.length < 256 ∧ !(s.sched.packets.any fun p => p.stage = .fetched) then
    match s.nextQueue with
    | some q => s.fetchFrom q
    | none => s
  else s

def execPacketFetch (s : State) : Out := .next (packetFetch s)

/-- Minimum LENGTH of an opcode; none for a reserved one (R297). -/
def Packet.minLength (p : Packet) : Option Nat :=
  match p.opcode with
  | 0 => some 4
  | 1 => some 4
  | 2 => some 9
  | 3 => some (if p.nat 12 1 % 16 = 5 then 7 else 6)
  | 4 => some 12
  | 5 => some 12
  | 6 => some 4
  | 7 => some 5
  | 8 => some 4
  | _ => none

/-- A count of zero makes the packet a no-op (R297). -/
def Packet.isNoop (p : Packet) : Bool :=
  match p.opcode with
  | 2 => p.nat 16 3 = 0
  | 3 =>
    let op := p.nat 12 1 % 16
    if op < 4 then p.nat 16 4 = 0 else if op = 4 then p.nat 24 4 = 0 else if op = 5 then p.nat 20 4 = 0 else false
  | 4 => p.nat 16 3 = 0 || natBits (p.nat 20 4) 0 17 = 0 || natBits (p.nat 24 4) 0 17 = 0
  | 5 => p.nat 16 3 = 0 || natBits (p.nat 24 4) 0 17 = 0
  | 6 => natBits (p.nat 24 8) 0 38 = 0
  | 7 => natBits (p.nat 14 2) 0 9 = 0
  | _ => false

/-- The header checks in their order (R292): status and detail of a refusal. -/
def Packet.headerRefusal (p : Packet) : Option (Status × Nat) :=
  if p.seq ≠ p.index then some (.badSequence, p.index)
  else
    match p.minLength with
    | none => some (.badOpcode, p.opcode)
    | some m =>
      if 32 < p.length then some (.lengthExceeds, p.length)
      else if p.length < 4 ∨ p.length < m then some (.badLength, p.length)
      else none

/-- A fetch that completes with a status other than OK halts its queue, and the packet is not taken: HEAD names it again
(R288). -/
def State.fetchFailed (s : State) (p : Packet) : State :=
  ((s.qHalt p.queue 4).wr (Reg.FW_QHEAD p.queue) (BitVec.ofNat 32 p.index)).modSched fun c =>
    { c with packets := c.packets.filter fun x => x.key ≠ p.key }

/-- PACKET_INTAKE: once its fetch has completed, the packet is taken, and refused, completed as a no-op, or left waiting for
its start (R288, R292, R297). -/
def packetIntake (s' : State) : State :=
  match s'.sched.packets.find? fun p => p.stage = .fetched with
  | none => s'
  | some p =>
    let bad : Bool := p.reads.any fun i => s'.doneStatus i ≠ .ok
    let s := p.reads.foldl (fun t i => t.dropDone i) s'
    if s'.travels fun r => p.reads.contains r.id then s'
    else if bad then s.fetchFailed p
    else
    let t := (s.modPk p.key fun x => { x with stage := .taken, taken := s.sched.takenSeq }).modSched fun c =>
      { c with takenSeq := c.takenSeq + 1 }
    match p.headerRefusal with
    | some (st, d) => (t.iff (decide (st = .badSequence)) fun u => u.qHalt p.queue 1).finish p.key st d 0
    | none => if p.isNoop then t.finish p.key .ok 0 0 else t

def execPacketIntake (s : State) : Out := .next (s.onCore .scheduler (packetIntake s))

/-! ### Start (R293, R307, R309) -/

/-- A packet has completed: it is done and all its writes have (R291). -/
def State.completed (s : State) (p : Packet) : Bool := p.isDone && s.settled p

/-- Packets of the same queue that were fetched before. -/
def State.earlier (s : State) (p : Packet) : List Packet :=
  s.sched.packets.filter fun x => x.queue = p.queue ∧ ahead x.index p.index ≠ 0 ∧ ahead x.index p.index < 2 ^ 31

/-- The packet at the front of a queue's start order (R307). -/
def State.front (s : State) (q : Fin 64) : Option Packet :=
  s.sched.packets.find? fun p => p.queue = q ∧ p.stage = .taken ∧ p.opcode ≠ 8

/-- An operation of the sequencer has left gathering (R211). -/
def EngOp.left : EngOp → Bool
  | .sig o => decide (o.limit ≤ o.next) && o.redo.isEmpty && o.gather.isEmpty
  | .press o => decide (o.limit ≤ o.committed) && o.active.isEmpty && o.redo.isEmpty
  | .ew _ => false

/-- The engine of an opcode can take a packet: the sequencer one operation at a time (R211), the sweep one range at a
time. -/
def State.engineFree (s : State) (opcode : Nat) : Bool :=
  if 2 ≤ opcode ∧ opcode ≤ 5 then
    (s.seq.ops.all EngOp.left) && (s.waitingPk fun p => decide (2 ≤ p.opcode ∧ p.opcode ≤ 5)).isNone
  else if opcode = 6 then s.sched.clean.isNone && (s.waitingPk fun p => decide (p.opcode = 6)).isNone
  else true

/-- PACKET_START of queue q (R293, R298, R307, R309). -/
def packetStart (q : Fin 64) (s : State) : State :=
  match s.front q with
  | none => s
  | some p =>
    if p.cancelled then s.finish p.key .cancelled 0 0
    else
      let before := s.earlier p
      let fenced : Bool := before.any fun x => x.opcode = 1 ∧ !s.completed x
      let held : Bool := p.fenceBefore && before.any fun x => !s.completed x
      if fenced ∨ held ∨ !s.engineFree p.opcode ∨ s.shutdown then s
      else s.modPk p.key fun x => { x with stage := .running, start := s.now .firmware }

def execPacketStart (q : Fin 64) (s : State) : Out := .next (s.onCore .scheduler (packetStart q s))

/-! ### Replies (R288, R290, R291, R310) -/

/-- The 32 bytes of a reply (R290). -/
def Packet.reply (p : Packet) (log2 stop : Nat) : List Byte :=
  match p.stage with
  | .done st d k =>
    leBytes 4 p.tag ++ leBytes 1 st.code ++ leBytes 1 p.opcode ++ leBytes 2 (1 - p.index / 2 ^ log2 % 2) ++ leBytes 4 d ++
      leBytes 4 k ++ leBytes 8 p.start ++ leBytes 8 stop
  | _ => []

/-- END of a packet: when its last write completed; when it completed if it wrote nothing, or is a COLLECTIVE, whose lines
are not its writes (R290, R291). -/
def State.lastWrite (s : State) (p : Packet) : Nat :=
  match (s.paths.done.filter fun c => p.writes.contains c.req.id).map (·.at_) with
  | [] => p.stop
  | l => l.foldl max (if p.opcode = 7 then p.stop else 0)

/-- A reply write has completed: FW_QDONE and FW_QIRQ count it, or its error halts the queue (R288, R310). -/
def State.replyDone (s : State) (id : Nat) (k : Pk) : State :=
  let q := qFin k.1
  let st := s.doneStatus id
  let irq : Bool := (s.packet k).any Packet.irq
  let t := (s.dropDone id).modSched fun c =>
    { c with replies := c.replies.filter fun r => r.1 ≠ id, packets := c.packets.filter fun p => p.key ≠ k }
  let t := if st ≠ .ok then t.qHalt q 4
    else (t.bump (Reg.FW_QDONE q) Fld.FW_QDONE_COUNT).iff irq fun u =>
      u.sf64 (Reg.FW_QIRQ q) Fld.FW_QIRQ_COUNT (u.gf64 (Reg.FW_QIRQ q) Fld.FW_QIRQ_COUNT + 1)
  t.qResetEnd q

/-- Write the reply of a completed packet (R284, R291). -/
def State.sendReply (s : State) (p : Packet) : State :=
  let q := p.queue
  let a := s.qBase (Reg.FW_QREPLY q) + 32 * (p.index % s.qSlots q)
  let b := p.reply (s.gf (Reg.FW_QCFG q) Fld.FW_QCFG_LOG2_ENTRIES) (s.lastWrite p)
  let t := p.writes.foldl (fun t i => t.dropDone i) s
  (t.issueWrite .firmware .normal 1 a b).modSched fun c => { c with replies := c.replies ++ [(t.freshId, p.key)] }

/-- REPLY_WRITE: a reply whose write has completed is counted; otherwise the oldest completed packet's reply is written
(R288, R291, R310). No reply is written during a thermal shutdown (R296). -/
def replyWrite (s' : State) : State :=
  let s := s'.settleOps
  match s.sched.replies.find? fun r => !s.inFlight r.1 with
  | some (i, k) => s.replyDone i k
  | none =>
    if s.shutdown then s
    else
      match s.sched.packets.find? fun p => s.completed p ∧ !(s.sched.replies.any fun r => r.2 = p.key) with
      | some p => s.sendReply p
      | none => s

def execReplyWrite (s : State) : Out := .next (s.onCore .scheduler (replyWrite s))

/-! ### NOP and FENCE (R298) -/

/-- NOP: the first running NOP completes (R298). -/
def nopPacket (s : State) : State :=
  match s.waitingPk fun p => p.opcode = 0 with
  | some p => s.finish p.key .ok 0 0
  | none => s

def execNop (s : State) : Out := .next (s.onCore .scheduler (nopPacket s))

/-- What a FENCE waits for has completed (R298). -/
def State.fenceMet (s : State) (p : Packet) : Bool :=
  ((s.earlier p).all fun x => s.completed x) &&
    (!(p.nat 12 1).testBit 0 || (s.sched.packets.filter fun x => x.stage ≠ .fetched ∧ x.taken < p.taken ∧ x.key ≠ p.key).all
      fun x => s.completed x)

/-- One FENCE goes on by a step if it can: it is refused, completes, or issues its write (R298). -/
def State.fenceStep (s : State) (p : Packet) : Option State :=
  if p.opcode ≠ 1 ∨ p.stage ≠ .running then none
  else
    let write : Bool := (p.nat 12 1).testBit 1
    let a := p.addr 16
    if write ∧ a % 8 ≠ 0 then some (s.finish p.key .badParameter 3 0)
    else if !s.fenceMet p then none
    else if !write then some (s.complete' p.key .ok 0 0)
    else
      match p.writes with
      | [] => some ((s.pkWrite p.key .firmware .normal a ((sliceBytes p.bytes 24 8).map some)).loadPk p.key)
      | i :: _ => if s.inFlight i then none else some (s.complete' p.key (s.doneStatus i) 0 0)

/-- FENCE: the first FENCE that can go on does (R298). -/
def fencePacket (s : State) : State := (s.sched.packets.findSome? fun p => s.fenceStep p).getD s

def execFence (s : State) : Out := .next (s.onCore .scheduler (fencePacket s))

/-! ### CLEAN_RANGE (R303, R304) -/

/-- The refusals of a CLEAN_RANGE (R303). -/
def State.cleanRefusal (s : State) (addr bytes : Nat) : Option (Status × Nat) :=
  if 2 ^ 37 < bytes then some (.badParameter, 4)
  else if !s.inOwn addr 1 then some (.outOfLocalRange, 3)
  else if !s.inOwn addr bytes then some (.outOfLocalRange, 4)
  else none

/-- CLEAN_RANGE: a waiting packet's sweep starts in every unfenced slice; a sweep whose last write-back has entered its
pool completes the packet (R304). -/
def cleanRange (s : State) : State :=
  match s.sched.clean with
  | some c =>
    let sweeping : Bool := s.paths.slices.toList.any fun x => x.sweep.isSome
    let writing : Bool := s.paths.memXbar.any fun e => match e.2.owner, e.2.addr with
      | .writeBack _ _, some a => inRange c.addr c.bytes (a / 128 * 128)
      | _, _ => false
    if sweeping ∨ writing then s
    else (s.modSched fun x => { x with clean := none }).complete' c.pk .ok (min c.count (2 ^ 32 - 1)) 0
  | none =>
    match s.waitingPk fun p => p.opcode = 6 with
    | none => s
    | some p =>
      let hint := p.nat 12 1 % 4
      let drop : Bool := hint = 3
      let discard : Bool := drop && (p.nat 12 1).testBit 2
      let addr := p.addr 16
      let bytes := natBits (p.nat 24 8) 0 38
      match s.cleanRefusal addr bytes with
      | some (st, d) => s.finish p.key st d 0
      | none =>
        let t := (s.loadPk p.key).modSched fun x =>
          { x with clean := some { pk := p.key, addr := addr, bytes := bytes, drop := drop, discard := discard, count := 0 } }
        (upto 16).foldl (fun t i => if t.fenced.testBit i then t
          else t.modSlice (sliceFin i) fun x => { x with sweep := some (0, addr, bytes, drop, discard) }) t

def execCleanRange (s : State) : Out := .next (s.onCore .scheduler (cleanRange s))

/-- CLEAN_SWEEP_SET: the next set of a slice's sweep; requests that entered the input queue before are served first, and a
full write-back buffer holds the sweep (R304). -/
def cleanSweepSet (sl : Fin 16) (s : State) : State :=
  let x := s.paths.slices[sl]
  match x.sweep with
  | none => s
  | some (st, addr, bytes, drop, discard) =>
    let keys := (setKeys st).filter fun k => (x.way k).used && inRange addr bytes (x.way k).base
    let dirty := keys.filter fun k => (x.way k).isDirty
    let inSet (a : Nat) : Bool := setOfLine (lineNo a) = st ∧ inRange addr bytes (a / 128 * 128)
    let busy : Bool := (x.input.any fun r => inSet r.addr) || x.misses.any fun m =>
      (m.current.any fun r => inSet r.addr) || m.queue.any (fun r => inSet r.addr) ||
        keys.any fun k => (x.way k).line = m.line
    if busy ∨ (!(drop && discard) ∧ 64 < s.wbUsed sl + dirty.length) then s
    else
      (s.sweepWays sl keys drop discard).modSlice sl fun y =>
        { y with sweep := if st + 1 < 3072 then some (st + 1, addr, bytes, drop, discard) else none }

def execCleanSweepSet (sl : Fin 16) (s : State) : Out := .next (s.onSlice sl (cleanSweepSet sl s))

/-! ### COLLECTIVE (R305, R306) -/

/-- The refusals of a COLLECTIVE (R305). -/
def State.collRefusal (s : State) (p : Packet) : Option (Status × Nat) :=
  let lines := natBits (p.nat 14 2) 0 9
  let first := natBits (p.nat 32 2) 0 13
  let n := natBits (p.nat 34 2) 0 7
  if 3 ≤ p.nat 12 1 % 16 then some (.badParameter, 1)
  else if (AtomFormat.ofCode (p.nat 12 1 / 16)).isNone then some (.badParameter, 2)
  else if 256 < lines then some (.badParameter, 4)
  else if p.nat 16 3 = 0 then some (.badParameter, 5)
  else if p.addr 24 % 128 ≠ 0 then some (.badParameter, 7)
  else if 64 < n ∨ 8192 < first + n then some (.badParameter, 9)
  else if !s.inOwn (p.addr 24) (128 * lines) then some (.outOfLocalRange, 7)
  else none

/-- Take a COLLECTIVE up (R305). -/
def Packet.coll (p : Packet) : Coll :=
  { pk := p.key, func := p.nat 12 1 % 16, format := p.nat 12 1 / 16, release := (p.nat 13 1).testBit 0,
    lines := natBits (p.nat 14 2) 0 9, expected := p.nat 16 3, timeoutUs := p.nat 20 4, addr := p.addr 24,
    notifyFirst := natBits (p.nat 32 2) 0 13, notifyCount := natBits (p.nat 34 2) 0 7, phase := .arming, armed := 0,
    arm := none, armedAt := 0, overcount := none, complete := [], deckle := 0, toNotify := [], awaiting := [],
    failed := none }

/-- Replace a COLLECTIVE. -/
def State.putColl (s : State) (c : Coll) : State :=
  s.modSched fun x => { x with colls := x.colls.map fun y => if y.pk = c.pk then c else y }

/-- A reduction request of the scheduler core on a line (R203, R205). -/
def redReq (id part addr attr : Nat) (data : List Byte) : Req :=
  { id := id, part := part, src := .firmware, op := .reduceInto, addr := addr, size := 16, hint := .normal,
    discard := false, urgent := false, attr := attr, cls := 1, data := data, strb := List.replicate 16 true,
    prefetch := false, count := 0, deckle := 0 }

/-- The certified bound B of a complete entry (R280); infinity when the entry has gone before it could be read. -/
def redBound (c : Coll) (e : Option RedEntry) : Val :=
  match e with
  | none => .inf false
  | some r =>
    match (AtomFormat.ofCode c.format).bind AtomFormat.shape with
    | none => .zero
    | some sh =>
      if c.func = 0 then addUp (ofB32 r.d) (mulUp (gammaUp (r.count - 1) (sh.mb + 1)) (ofB32 r.m)) else ofB32 r.d

/-- Every line of a COLLECTIVE is COMPLETE: its entries are released if asked, and its partners are to be notified
(R305). -/
def State.collComplete (s : State) (c : Coll) : State :=
  let c' := { c with phase := .notifying, toNotify := (upto c.notifyCount).map fun k => c.notifyFirst + k }
  let t := s.putColl c'
  if c.release then
    ((upto c.lines).foldl (fun t l => t.ingress (redReq s.freshId l (c.addr + 128 * l) 10 (zeros 16)))
      (t.skipIds 1)).modPk c.pk fun p => { p with writes := p.writes ++ [s.freshId] }
  else t

/-- The arming of a COLLECTIVE goes on by a step: the outstanding ARM's answer, then the next ARM or the end of arming
(R305). -/
def State.collArm (s : State) (c : Coll) : Option State :=
  match c.arm with
  | some i =>
    if s.inFlight i then none
    else
      let st := s.doneStatus i
      let t := s.dropDone i
      if st = .ok ∨ st = .overcount then
        let ovr := if st = .overcount ∧ c.overcount.isNone then some c.armed else c.overcount
        some (t.putColl { c with arm := none, armed := c.armed + 1, overcount := ovr })
      else some (t.collStop { c with arm := none } st c.armed)
  | none =>
    if c.armed < c.lines then
      let r := redReq s.freshId 0 (c.addr + 128 * c.armed) (8 + c.format * 16 + c.func * 256) (leBytes 4 c.expected ++ zeros 12)
      some (((s.putColl { c with arm := some s.freshId }).skipIds 1).ingress r)
    else
      let c' := { c with phase := .waiting, armedAt := s.now .firmware }
      let t := s.putColl c'
      some (if c.complete.length = c.lines then t.collComplete c' else t)

/-- A COLLECTIVE whose partners have all acknowledged or failed completes (R305). A write of its own that is still
under way holds only the reply. -/
def State.collReply (s : State) (c : Coll) : Option State :=
  if c.toNotify.isEmpty ∧ c.awaiting.isEmpty then
    some (match c.overcount, c.failed with
      | some l, _ => s.collEnd c.pk .overcount l c.deckle
      | none, some p => s.collEnd c.pk .notifyFailed p c.deckle
      | none, none => s.collEnd c.pk .ok c.lines c.deckle)
  else none

/-- The lowest line of a COLLECTIVE whose entry was lost with a slice that did not answer (R208). -/
def State.collLost (s : State) (c : Coll) : Option Nat :=
  (upto c.lines).find? fun l => decide (l ∉ c.complete) &&
    s.inbox.lostLines.contains (natBits (c.addr + 128 * l) 0 37)

/-- One COLLECTIVE goes on by a step if it can. -/
def State.collStep (s : State) (c : Coll) : Option State :=
  match c.phase with
  | .notifying => s.collReply c
  | .arming =>
    match s.collLost c with
    | some l => some (s.collStop c .sliceFenced l)
    | none => s.collArm c
  | .waiting =>
    match s.collLost c with
    | some l => some (s.collStop c .sliceFenced l)
    | none => none

/-- COLLECTIVE: a waiting packet is checked and taken up, or the first COLLECTIVE that can go on does (R305). -/
def collective (s : State) : State :=
  match s.waitingPk fun p => p.opcode = 7 with
  | some p =>
    match s.collRefusal p with
    | some (st, d) => s.finish p.key st d 0
    | none =>
      let c := p.coll
      ((s.loadPk p.key).modSched fun x => { x with colls := x.colls ++ [c] }).modInbox fun b =>
        { b with lostLines := b.lostLines.filter fun l => !inRange (natBits c.addr 0 37) (128 * c.lines) l }
  | none => (s.sched.colls.findSome? fun c => s.collStep c).getD s

def execCollective (s : State) : Out := .next (s.onCore .scheduler (collective s))

/-- COMPLETION_NOTICE: the scheduler core takes up the oldest notice (R204, R281, R305). -/
def completionNotice (s : State) : State :=
  match s.inbox.notices with
  | [] => s
  | a :: rest =>
    let t := s.modInbox fun b => { b with notices := rest }
    let line (c : Coll) : Nat := (a - c.addr) / 128
    match t.sched.colls.find? fun c => c.phase ≠ .notifying ∧ c.addr ≤ a ∧ line c < c.lines ∧ line c ∉ c.complete with
    | none => t
    | some c =>
      let b := redBound c (t.paths.slices[t.sliceOf a].red (lineNo a))
      let c' := { c with complete := line c :: c.complete, deckle := deckleWord (worse (ofB32 c.deckle) b) }
      let u := t.putColl c'
      if c.phase = .waiting ∧ c'.complete.length = c.lines then u.collComplete c' else u

def execCompletionNotice (s : State) : Out := .next (s.onCore .scheduler (completionNotice s))

/-- COLLECTIVE_TIMEOUT: TIMEOUT µs from the last arm have passed (R306). -/
def collectiveTimeout (s : State) : State :=
  match s.sched.colls.find? fun c => c.phase = .waiting ∧ c.timeoutUs ≠ 0 ∧
      c.armedAt + c.timeoutUs * 1000 ≤ s.now .firmware with
  | some c => s.collStop c .timedOut c.complete.length
  | none => s

def execCollectiveTimeout (s : State) : Out := .next (s.onCore .scheduler (collectiveTimeout s))

/-- A thermal shutdown ends the collectives that are arming or waiting; the partners of a waiting one are to receive an
abort (R306, R362). -/
def State.shutColls (s : State) : State :=
  (s.sched.colls.filter fun c => c.phase ≠ .notifying).foldl (fun t c =>
    let tag := match t.packet c.pk with
      | some p => p.tag
      | none => 0
    let u := t.collStop c .thermalShutdown c.complete.length
    if c.phase = .waiting then u.modSched fun x =>
      { x with aborts := x.aborts ++ (upto c.notifyCount).map fun k => (c.notifyFirst + k, c.addr, c.lines, tag) }
    else u) s

/-! ### CANCEL (R307) -/

/-- The packet that a CANCEL names: the oldest one taken with its tag whose reply has not been written and that no CANCEL has
cancelled (R307). -/
def State.cancelTarget (s : State) (p : Packet) : Option Packet :=
  (s.sched.packets.filter fun x => x.queue.val = p.nat 12 1 % 64 ∧ x.tag = p.nat 16 4 ∧ x.key ≠ p.key ∧
    x.stage ≠ .fetched ∧ !x.cancelled).foldl (fun b x => match b with
      | some y => if x.taken < y.taken then some x else some y
      | none => some x) none

/-- CANCEL: the first taken CANCEL acts; a packet that has completed is no target any more (R307). -/
def cancelPacket (s : State) : State :=
  match s.sched.packets.find? fun p => p.opcode = 8 ∧ p.stage = .taken with
  | none => s
  | some p =>
    if p.cancelled then s.finish p.key .cancelled 0 0
    else
      match s.cancelTarget p with
      | none => s.finish p.key .ok 0 0
      | some x =>
        if x.isDone then s.finish p.key .ok 0 0
        else
        let t := if x.stage = .running then s.endRunning x .cancelled
          else s.modPk x.key fun y => { y with cancelled := true }
        t.finish p.key .ok 1 0

def execCancel (s : State) : Out := .next (s.onCore .scheduler (cancelPacket s))

end Sys2Proof.Machine
end

