-- ==== Sys2Proof/Machine/Firmware.lean ====
section
/-! DEFINITION. Meanings of the rows on the firmware island: load, authentication, heartbeat, watchdogs, resets, staged
activation, census, log and trace (12: R312 to R334, R529). -/

namespace Sys2Proof.Machine

/-- Set STATE of FW_STATUS. -/
def State.setFw (s : State) (n : Nat) : State := s.sf Reg.FW_STATUS Fld.FW_STATUS_STATE n

/-- Change one firmware core. -/
def State.modCore (s : State) (k : Fin 4) (f : FwCore → FwCore) : State :=
  s.modFw fun w => { w with cores := w.cores.set k (f w.cores[k]) }

/-- Change every firmware core. -/
def State.modCores (s : State) (f : FwCore → FwCore) : State := s.modFw fun w => { w with cores := w.cores.map f }

/-- Package time in the firmware island. -/
def State.fwNow (s : State) : Nat := s.now .firmware

/-! ### The image (R314, R315) -/

/-- A 32-bit header field of an image. -/
def imgWord (img : List Byte) (i : Nat) : Nat := leNat (sliceBytes img i 4)

/-- OFFSET, LENGTH, ENTRY and RECOVERY of the section of core k. -/
def imgOffset (img : List Byte) (k : Nat) : Nat := imgWord img (16 + 16 * k)
def imgLength (img : List Byte) (k : Nat) : Nat := imgWord img (20 + 16 * k)
def imgEntry (img : List Byte) (k : Nat) : Nat := imgWord img (24 + 16 * k)
def imgRecovery (img : List Byte) (k : Nat) : Nat := imgWord img (28 + 16 * k)

/-- VERSION and TOTAL_BYTES. -/
def imgVersion (img : List Byte) : Nat := imgWord img 8
def imgTotal (img : List Byte) : Nat := imgWord img 12

/-- The bytes of the section of core k. -/
def imgSection (img : List Byte) (k : Nat) : List Byte := sliceBytes img (imgOffset img k) (imgLength img k)

/-- Check 1 of R315. -/
def imgHeaderOk (img : List Byte) : Bool :=
  decide (imgWord img 0 = 0x4B425A31 ∧ leNat (sliceBytes img 4 2) = 1 ∧ leNat (sliceBytes img 6 2) = 512)

/-- Check 2 of R315: the limits of R314, each section between the header and the signature, no overlap. -/
def imgLayoutOk (img : List Byte) (loaded : Nat) : Bool :=
  let total := imgTotal img
  decide (total % 4 = 0 ∧ total = loaded ∧ total ≤ 787040) &&
    ((upto 4).all fun k =>
      let o := imgOffset img k
      let n := imgLength img k
      decide (o % 64 = 0 ∧ 512 ≤ o ∧ 64 ≤ n ∧ n ≤ 196608 ∧ n % 64 = 0 ∧ o + n + 96 ≤ total) &&
        ((upto k).all fun j => !overlap (.flat o n) (.flat (imgOffset img j) (imgLength img j))))

/-- The digest of check 5: over everything but the signature. -/
def imgDigest (img : List Byte) (loaded : Nat) : Nat := sha384 (sliceBytes img 0 (loaded - 96))

/-- AUTH_RESULT: the first check of R315 that fails, or 1. -/
def State.authCheck (s : State) (img : List Byte) (loaded : Nat) : Nat :=
  if !imgHeaderOk img then 2
  else if !imgLayoutOk img loaded then 3
  else if imgVersion img / 2 ^ 24 ≠ s.gf Reg.ID_BLOCK Fld.ID_BLOCK_MAJOR ∨
      natBits (imgVersion img) 16 8 ≠ s.gf Reg.ID_BLOCK Fld.ID_BLOCK_MINOR then 4
  else if sha384 (sliceBytes img 80 96) ≠ Config.romKeyDigest.toNat then 5
  else if !ecdsaVerify (imgDigest img loaded) (beNat (sliceBytes img (loaded - 96) 48))
      (beNat (sliceBytes img (loaded - 48) 48)) (beNat (sliceBytes img 80 48)) (beNat (sliceBytes img 128 48)) then 6
  else 1

/-- The first 8 bytes of a digest, read as a little-endian number (R315). -/
def digestHead (d : Nat) : Nat := leNat ((beBytes 48 d).take 8)

/-- Bytes of an SRAM from address `i` on. -/
def sramWrite (m : List (Nat × Byte)) (i : Nat) : List Byte → List (Nat × Byte)
  | [] => m
  | b :: r => sramWrite (cset cellReset m i b) (i + 1) r

/-- The section of core k as its SRAM holds it, and its digest (R324). -/
def FwCore.section (c : FwCore) : List Byte := (upto c.sectionLen).map fun i => cget cellReset c.sram i

/-- Take the fields that the boot ROM records of an image, per core. -/
def FwCore.record (img : List Byte) (k : Nat) (c : FwCore) : FwCore :=
  { c with entry := imgEntry img k, recovery := imgRecovery img k, sectionLen := imgLength img k,
           digest := sha384 (imgSection img k) }

/-- The corrected count of the firmware island's ring oscillator, on which its timers run (R321, R324, R490). -/
def State.ticks (s : State) : Nat := s.clk.raw

/-- A core whose domain is ON starts at an address, and its watchdog counts from now to the time-out then in force (R324). -/
def State.startCore (s : State) (k : Fin 4) (pc : Nat) : State :=
  if s.dom (112 + k) ≠ .on then s
  else
    s.modCore k fun c => { c with run := true, resetAt := none, pc := pc, wdogFrom := s.ticks,
                                  wdogMs := s.gf Reg.FW_WDOG_CFG Fld.FW_WDOG_CFG_MS }

/-! ### Loading (R316, R317) -/

/-- FW_LOAD_START: a write of FW_LOAD_CTRL with START (R316). -/
def fwLoadStart (s : State) : State :=
  if s.fwState = 0 ∨ s.fwState = 2 then
    ((s.modCores fun c => { c with run := false, sram := [] }).modFw fun w =>
      { w with image := [], dataPhase := true, checking := false }).setFw 1
      |>.sf Reg.FW_LOAD_CTRL Fld.FW_LOAD_CTRL_LOADED 0
  else s.raise Reg.FW_HW_STATUS Fld.FW_HW_STATUS_LOAD_REFUSED

def execFwLoadStart (s : State) : Out := .next (s.mgtWrite .sensor (fwLoadStart s))

/-- The core whose section holds image byte `i`, and the address in its SRAM; the header is there before any section
byte (R314, R316). -/
def imgPlace (img : List Byte) (i : Nat) : Option (Fin 4 × Nat) :=
  ((upto 4).find? fun k => decide (imgOffset img k ≤ i ∧ i < imgOffset img k + imgLength img k) &&
    decide (i - imgOffset img k < 262144)).map fun k => (Fin.ofNat 4 k, i - imgOffset img k)

/-- FW_LOAD_DATA (R316). -/
def fwLoadData (v : Word) (s : State) : State :=
  let n := s.fw.image.length
  if s.fw.dataPhase ∧ n + 4 ≤ 787040 then
    let img := s.fw.image ++ leBytes 4 v.toNat
    let t := s.modFw fun w => { w with image := img }
    let t := (upto 4).foldl (fun t j =>
      match (if n + j < 512 then none else imgPlace img (n + j)) with
      | some (k, a) => t.modCore k fun c => { c with sram := cset cellReset c.sram a (img.getD (n + j) 0) }
      | none => t) t
    t.sf Reg.FW_LOAD_CTRL Fld.FW_LOAD_CTRL_LOADED (n + 4)
  else s.raise Reg.FW_HW_STATUS Fld.FW_HW_STATUS_LOAD_OVERRUN

def execFwLoadData (v : Word) (s : State) : Out := .next (s.mgtWrite .sensor (fwLoadData v s))

/-- FW_LOAD_COMMIT (R316). -/
def fwLoadCommit (s : State) : State :=
  if s.fw.dataPhase then s.modFw fun w => { w with dataPhase := false, checking := true }
  else s.raise Reg.FW_HW_STATUS Fld.FW_HW_STATUS_LOAD_REFUSED

def execFwLoadCommit (s : State) : Out := .next (s.mgtWrite .sensor (fwLoadCommit s))

/-- AUTHENTICATION_DONE (R315, R316). -/
def authDone (s : State) : State :=
  if !s.fw.checking then s
  else
    let img := s.fw.image
    let n := img.length
    let code := s.authCheck img n
    let t := (s.modFw fun w => { w with checking := false }).sf Reg.FW_STATUS Fld.FW_STATUS_AUTH_RESULT code
    if code = 1 then
      let t := (upto 4).foldl (fun t k =>
        (t.modCore (Fin.ofNat 4 k) (FwCore.record img k)).startCore (Fin.ofNat 4 k) (imgEntry img k)) t
      let t := (t.modFw fun w => { w with resets := [] }).wr64 Reg.FW_DIGEST (digestHead (imgDigest img n))
      ((t.sf Reg.FW_STATUS Fld.FW_STATUS_RESETS 0).wr Reg.FW_LOG_SEQ 0).setFw 3
    else (t.modCores fun c => { c with run := false, sram := [] }).setFw 2

def execAuthenticationDone (s : State) : Out := .next (s.onLive .firmware (authDone s))

/-! ### The census's registers (R332) -/

/-- Unit states that hardware sets by itself and firmware pictures: register, low bit, width, unit number. Sub-ports,
die-to-die modules, power domains and failed BMEs. The other registers of R332 (the PC states, the held mask, the redirect
table and CACHE_FENCE) are written by firmware alone: a change that it has requested counts as in agreement, so its view of
them is the hardware's. -/
def censusUnits : List (Nat × Nat × Nat × Nat) :=
  ((upto 8).map fun n => (Reg.RMT_SUBPORT_STATUS n, 0, 1, n)) ++
  ((upto 4).map fun m => (Reg.D2D_LANE_STATUS (m / 2), 16 * (m % 2) + 14, 2, m)) ++
  ((upto 124).map fun d => (Reg.THERM_DOM_STATE (d / 16), 2 * (d % 16), 2, d)) ++
  ((upto 32).map fun b => (Reg.BME_FAILED, b, 1, b))

/-- Firmware takes its picture of the units from the hardware. -/
def State.takePicture (s : State) : State :=
  s.modFw fun w => { w with picture := ((censusUnits.map (·.1)).eraseDups).map fun r => (r, s.rd r) }

/-- CENSUS: every unit whose hardware state differs from firmware's picture is adopted and logged; the spec gives no code
of a unit kind, so ARG0 is a free value (R332). -/
def census (s : State) : State :=
  let view (r : Nat) : Nat := (((s.fw.picture.find? fun e => e.1 = r).map (·.2)).getD (s.rd r)).toNat
  let diff := censusUnits.filter fun u => natBits (view u.1) u.2.1 u.2.2.1 ≠ natBits (s.rd u.1).toNat u.2.1 u.2.2.1
  let t := diff.foldl (fun t u =>
    (t.logRec 0x0030 [(Config.openValue t.free).toNat % 2 ^ 32, u.2.2.2, natBits (view u.1) u.2.1 u.2.2.1,
      natBits (s.rd u.1).toNat u.2.1 u.2.2.1]).tick) s
  (t.raiseIf (!diff.isEmpty) Reg.FW_HW_STATUS Fld.FW_HW_STATUS_CENSUS_MISMATCH).takePicture

def execCensus (s : State) : Out := .next (s.onCore .steward (census s))

/-! ### Service (R317, R321 to R323) -/

/-- CORES_IN_SERVICE: STATE becomes RUNNING. A locked lacing means that training and ranges stand and the start resumes
(R403); an enumeration fault ends it (R399). LANE_CE_LIMIT goes to every PC (R435). -/
def coresInService (s : State) : State :=
  if s.fwState = 3 ∧ s.fw.cores.all (fun c => c.run && c.resetAt.isNone) then
    let v := imgVersion s.fw.image
    let t := (s.setFw 4).wr Reg.FW_VERSION (BitVec.ofNat 32 v)
    let t := (t.modFw fun w => { w with hostTimer := some s.ticks, image := [] }).takePicture
    let t := { t with pcs := t.pcs.map fun (c : Pc) => { c with ceNext := t.gf Reg.FW_TRUE_CFG Fld.FW_TRUE_CFG_LANE_CE_LIMIT } }
    let t := t.logRec 0x0001 [v, 0]
    let resume := s.bit Reg.PC_LACE Fld.PC_LACE_LOCK
    let t := t.raiseIf (resume || s.pwr.warm) Reg.FW_BOOT_STATUS Fld.FW_BOOT_STATUS_WARM
    if s.bit Reg.D2D_RING_STATUS Fld.D2D_RING_STATUS_ENUM_FAULT ∧ !resume then t.faultStop 1
    else t.setPhase (if resume then 5 else 1)
  else s

def execCoresInService (s : State) : Out := .next (s.onLive .firmware (coresInService s))

/-- Reload the host-loss timer; it runs in RUNNING and through an activation begun there (R321, R505). -/
def State.reloadTimer (s : State) : State :=
  if s.fwState = 4 ∨ (s.fwState = 6 ∧ s.fw.hostTimer.isSome) then s.modFw fun w => { w with hostTimer := some s.ticks } else s

/-- HEARTBEAT (R321). -/
def execHeartbeat (s : State) : Out := .next (s.mgtWrite .sensor s.reloadTimer)

/-- HOST_TIMEOUT_WRITE (R321). -/
def hostTimeout (ms : BitVec 16) (s : State) : State :=
  (s.sf Reg.FW_HOST_TIMEOUT Fld.FW_HOST_TIMEOUT_MS ms.toNat).reloadTimer

def execHostTimeoutWrite (ms : BitVec 16) (s : State) : Out := .next (s.mgtWrite .sensor (hostTimeout ms s))

/-- HOST_LOSS_EXPIRY (R321, R322). -/
def hostLossExpiry (s : State) : State :=
  let ms := s.gf Reg.FW_HOST_TIMEOUT Fld.FW_HOST_TIMEOUT_MS
  match s.fw.hostTimer with
  | some t0 =>
    if s.fwState = 4 ∧ ms ≠ 0 ∧ t0 + ms * 1000000 ≤ s.ticks then
      ((s.setFw 5).modFw fun w => { w with hostTimer := none }).logRec 0x0010 [s.sched.packets.length]
    else s
  | none => s

def execHostLossExpiry (s : State) : Out := .next (s.onLive .firmware (hostLossExpiry s))

/-- ATTACH (R323): accepted when the word is the running VERSION. -/
def attach (v : Word) (s : State) : State :=
  let run := s.rd Reg.FW_VERSION
  if v = run then
    if s.fwState = 5 then (((s.wr Reg.FW_ATTACH v).setFw 4).reloadTimer).logRec 0x0011 [v.toNat]
    else (s.wr Reg.FW_ATTACH v).logRec 0x0011 [v.toNat]
  else s.logRec 0x0012 [v.toNat, run.toNat]

/-- An attach with another word completes with MGT_ERR (R323). -/
def attachErr (v : Word) (s : State) : Bool := decide (v ≠ s.rd Reg.FW_VERSION)

def execAttach (v : Word) (s : State) : Out := .next (s.emuAccess Reg.FW_ATTACH v (attachErr v s) (attach v s))

/-! ### Resets of cores (R324 to R327) -/

/-- The scheduler core is reset: the bag sequencer cancels every running operation and the replies will say so (R325). -/
def State.schedulerReset (s : State) : State :=
  (s.sched.packets.filter fun p => p.stage = .running).foldl (fun t p => t.endRunning p .cancelled) s

/-- The upkeep core is reset: PC_REF_INHIBIT is cleared at every PC; truing windows and the copier keep their hardware
(R325, R170). -/
def State.upkeepReset (s : State) : State := (upto 64).foldl (fun t p => t.writeInhibit (pcFin p) 0) s

/-- The liaison core is reset: records not yet written are lost and SEQ shows the gap (R325, R333). -/
def State.liaisonReset (s : State) : State :=
  let t := s.wr Reg.FW_LOG_SEQ (s.rd Reg.FW_LOG_SEQ + BitVec.ofNat 32 s.inbox.log.length)
  (t.modInbox fun b => { b with log := [] }).modFw fun w => { w with logWait := [], trace := [] }

/-- Effects on other units of a reset of one core (R325). -/
def State.coreResetEffects (s : State) (k : Fin 4) : State :=
  if k = 0 then s.schedulerReset else if k = 1 then s.upkeepReset else if k = 3 then s.liaisonReset else s

/-- Reset one core alone, by cause: 0 watchdog, 1 trap, 2 driver (R324 to R326). -/
def State.resetCore (s : State) (k : Fin 4) (cause : Nat) : State :=
  let c := s.fw.cores[k]
  if !c.run ∨ c.resetAt.isSome ∨ s.fwState < 3 ∨ s.fwState = 6 then s
  else
    let now := s.fwNow
    let recent := (s.fw.resets.filter fun t => now ≤ t + 1000000000) ++ [now]
    let t := ((s.coreResetEffects k).modCore k fun c => { c with resetAt := some now }).modFw fun w =>
      { w with resets := recent }
    let t := (t.bumpSat Reg.FW_STATUS Fld.FW_STATUS_RESETS).logRec 0x0002 [k.val, cause]
    if 3 ≤ recent.length then
      (t.raise Reg.FW_STATUS Fld.FW_STATUS_DEGRADED).logRec 0x0003 [recent.length]
    else t

/-- WATCHDOG_EXPIRY: a core has let its count run out; it has counted at least the time-out that held when
the core started, since then (R324). DESIGN
CHOICE: log entry 82, the restarts of the count are the program's own and no row shows them. -/
def watchdogExpiry (k : Fin 4) (s : State) : State :=
  if s.fw.cores[k].wdogFrom + s.fw.cores[k].wdogMs * 1000000 ≤ s.ticks then s.resetCore k 0 else s

def execWatchdogExpiry (k : Fin 4) (s : State) : Out := .next (s.onLive .firmware (watchdogExpiry k s))

/-- CORE_TRAP (R324). -/
def execCoreTrap (k : Fin 4) (s : State) : Out := .next (s.onLive .firmware (s.resetCore k 1))

/-- RESET_CORE: a write of FW_CORE_CTRL that names cores (R324). -/
def resetNamed (mask : BitVec 4) (s : State) : State :=
  (upto 4).foldl (fun t k => if mask.toNat.testBit k then t.resetCore (Fin.ofNat 4 k) 2 else t) s

def execResetCore (mask : BitVec 4) (s : State) : Out := .next (s.mgtWrite .sensor (resetNamed mask s))

/-- CORE_RESTART: the boot ROM rehashes the section as the SRAM now holds it, `damage` being bytes that the fault has
changed (R324). -/
def coreRestart (k : Fin 4) (damage : List (BitVec 18 × Byte)) (s : State) : State :=
  let c := s.fw.cores[k]
  if c.run ∧ c.resetAt.isSome then
    let sram := damage.foldl (fun m e => cset cellReset m e.1.toNat e.2) c.sram
    let t := s.modCore k fun c => { c with sram := sram }
    if sha384 ({ c with sram := sram }).section = c.digest then t.startCore k c.recovery
    else
      let t := t.modCore k fun c => { c with run := false, resetAt := none }
      let h := t.gf Reg.FW_STATUS Fld.FW_STATUS_CORE_HALTED ||| 2 ^ k.val
      let now := s.fwNow
      (((t.sf Reg.FW_STATUS Fld.FW_STATUS_CORE_HALTED h).raise Reg.FW_STATUS Fld.FW_STATUS_DEGRADED).logRec 0x0002
        [k.val, 3]).logRec 0x0003 [(s.fw.resets.filter fun t => now ≤ t + 1000000000).length]
  else s

def execCoreRestart (k : Fin 4) (damage : List (BitVec 18 × Byte)) (s : State) : Out :=
  .next (s.onLive .firmware (coreRestart k damage s))

/-- An operation of the sequencer whose packet is forgotten: it keeps running under a key that no packet has. -/
def EngOp.detach (n : Nat) : EngOp → EngOp
  | .sig o => .sig { o with pk := (64 + n, o.pk.2) }
  | .ew o => .ew { o with pk := (64 + n, o.pk.2) }
  | .press o => .press { o with pk := (64 + n, o.pk.2) }

/-- The bag sequencer cancels every operation and no reply follows (R327). -/
def State.cancelAll (s : State) : State :=
  let t := s.modSeq fun q => { q with ops := q.ops.zipIdx.map fun (o, j) => o.detach (s.freshId + j) }
  let t := t.skipIds s.seq.ops.length
  t.seq.ops.foldl (fun t o => t.endOp o .cancelled) t

/-- Emulated registers lie below the firmware control block (R318). -/
def emulatedOff (off : Nat) : Bool := decide (0xff0000 ≤ off ∧ off < 0xffff00)

/-- All cores are reset (R327), with the re-power of isolated firmware core domains as its first step (R494): SRAMs and
emulated registers are cleared, STATE is NO_IMAGE, and no core is halted or the instance degraded (R326); every other hardware
register keeps its value. -/
def State.resetAll (s : State) : State :=
  let t := s.cancelAll.upkeepReset
  let t := t.modPaths fun x => { x with slices := x.slices.map fun y => { y with sweep := none } }
  let t := ((t.resetRegs emulatedOff).sf Reg.FW_STATUS Fld.FW_STATUS_DEGRADED 0).sf Reg.FW_STATUS
    Fld.FW_STATUS_CORE_HALTED 0
  let t : State := { t.setFw 0 with
    fw := { Fw.init with calmSince := s.fw.calmSince }, sched := Sched.init, pkg := Package.init,
    inbox := State.reset.inbox, tests := [], age := { Ageing.init with rate := s.age.rate, guards := s.age.guards } }
  t.repowerCores

/-- RESET_ALL: a write of FW_CORE_CTRL with RESET_ALL (R327). After its commit nothing stops an activation (R329). -/
def resetAllCores (orderly : Bool) (s : State) : State :=
  if s.fwState = 6 then s
  else if orderly then
    let t := if s.fwRuns .scheduler then
        (upto 64).foldl (fun t q =>
          let q := qFin q
          if t.bit (Reg.FW_QCFG q) Fld.FW_QCFG_ENABLE ∧ t.qState q ≠ 3 then t.qReset q else t) s
      else s
    t.modFw fun w => { w with orderlyAt := some s.fwNow }
  else s.resetAll

def execResetAll (orderly : Bool) (s : State) : Out := .next (s.mgtWrite .sensor (resetAllCores orderly s))

/-- ORDERLY_RESET_DONE: every queue is DISABLED, or 10 ms have passed (R327); an activation that has committed comes first
(R329). -/
def orderlyResetDone (s : State) : State :=
  match s.fw.orderlyAt with
  | some t0 =>
    if (((upto 64).all fun q => decide (s.qState (qFin q) = 0)) ∨ t0 + 10000000 ≤ s.fwNow) ∧ s.fwState ≠ 6 then s.resetAll else s
  | none => s

def execOrderlyResetDone (s : State) : Out := .next (s.onLive .firmware (orderlyResetDone s))

/-- WDOG_CFG_WRITE: a value outside 1 to 100 stores the nearer limit (R324). -/
def wdogCfg (ms : BitVec 7) (s : State) : State := s.sf Reg.FW_WDOG_CFG Fld.FW_WDOG_CFG_MS (max 1 (min 100 ms.toNat))

def execWdogCfgWrite (ms : BitVec 7) (s : State) : Out := .next (s.mgtWrite .sensor (wdogCfg ms s))

/-! ### Staged update and activation (R328 to R330) -/

/-- STAGE_STATE. -/
def State.stageState (s : State) : Nat := s.gf Reg.FW_STAGE_STATUS Fld.FW_STAGE_STATUS_STAGE_STATE

/-- Set STAGE_STATE, STATUS and REASON. -/
def State.setStage (s : State) (st status reason : Nat) : State :=
  ((s.sf Reg.FW_STAGE_STATUS Fld.FW_STAGE_STATUS_STAGE_STATE st).sf Reg.FW_STAGE_STATUS Fld.FW_STAGE_STATUS_STATUS
    status).sf Reg.FW_STAGE_STATUS Fld.FW_STAGE_STATUS_REASON reason

/-- Start of the staging area. -/
def State.stageBase (s : State) : Nat := s.gf64 Reg.FW_STAGE_ADDR Fld.FW_STAGE_ADDR_BASE * 4096

/-- A length rounded up to 4 KiB. -/
def up4k (n : Nat) : Nat := (n + 4095) / 4096 * 4096

/-- The word that a write of FW_STAGE_CTRL stores. -/
def stageWord (bit : Nat) (len : BitVec 20) : Word := BitVec.ofNat 32 (2 ^ bit + len.toNat)

/-- The staging area's length (R328). -/
def State.stageLen (s : State) : Nat := s.gf Reg.FW_STAGE_CTRL Fld.FW_STAGE_CTRL_LEN

/-- STAGE_VERIFY (R328): begun from NONE, VERIFIED or REJECTED. -/
def State.verifyStage (s : State) : State :=
  if s.stageState = 0 ∨ s.stageState = 2 ∨ s.stageState = 3 then
    let t := s.modFw fun w => { w with staged := none }
    if t.inOwn t.stageBase (up4k t.stageLen + 65536) then t.setStage 1 0 0
    else (t.setStage 3 0 7).logRec 0x0021 [7]
  else s

def stageVerify (len : BitVec 20) (s : State) : State := (s.wr Reg.FW_STAGE_CTRL (stageWord 31 len)).verifyStage

def execStageVerify (len : BitVec 20) (s : State) : Out :=
  .next (s.emuWrite Reg.FW_STAGE_CTRL (stageWord 31 len) (some (stageVerify len s)))

/-- STAGE_VERIFY_DONE: the liaison core reads the image and applies R315 (R328). A byte that cannot be read counts as
zero. -/
def stageVerifyDone (s : State) : State :=
  if s.stageState = 1 then
    let len := s.gf Reg.FW_STAGE_CTRL Fld.FW_STAGE_CTRL_LEN
    let ((_, img), t) := s.fetch .firmware .normal 1 128 s.stageBase len
    let code := t.authCheck img len
    if code = 1 then
      ((t.setStage 2 0 0).modFw fun w => { w with staged := some { image := img, digest := imgDigest img len } }).logRec
        0x0020 [0]
    else (t.setStage 3 0 code).logRec 0x0021 [code]
  else s

def execStageVerifyDone (s : State) : Out := .next (s.onCore .liaison (stageVerifyDone s))

/-- STAGE_ACTIVATE (R329 step 1). -/
def State.activateStage (s : State) : State :=
  if s.stageState = 2 then (s.setStage 4 0 0).modFw fun w => { w with fetching := false, handed := false } else s

def stageActivate (len : BitVec 20) (s : State) : State := (s.wr Reg.FW_STAGE_CTRL (stageWord 30 len)).activateStage

def execStageActivate (len : BitVec 20) (s : State) : Out :=
  .next (s.emuWrite Reg.FW_STAGE_CTRL (stageWord 30 len) (some (stageActivate len s)))

/-- The activation commits: the hand-over record goes behind the image, STATE becomes ACTIVATING and the cores halt
(R329 step 4). The record's bytes are not stated. -/
def State.commitActivation (s : State) (img : List Byte) : State :=
  let rec' := (upto 65536).map fun i => BitVec.ofNat 8 (Config.openValue (s.free * 65536 + i)).toNat
  let t := (s.issueWrite .firmware .normal 1 (s.stageBase + up4k img.length) rec').tick
  ((t.setFw 6).modCores fun c => { c with run := false }).modFw fun w => { w with commitAt := some s.fwNow, handed := false }

/-- ACTIVATION_COMMIT_POINT (R329 steps 2 to 4). A captain with a deputy hands captaincy over before the commit. -/
def commitPoint (s : State) : State :=
  match s.fw.staged with
  | some g =>
    if s.stageState = 4 ∧ s.sched.packets.isEmpty ∧ s.fw.commitAt.isNone then
      if s.fw.handed then (if s.pkg.handover.isSome then s else s.commitActivation g.image)
      else if s.emergency then
        (((s.setStage 5 0x40 0).modFw fun w => { w with fetching := true }).logRec 0x0022 [0x40]).calm
      else
        match s.isCaptain, s.deputy with
        | true, some d => (s.startHandover d 0).modFw fun w => { w with handed := true }
        | _, _ => s.commitActivation g.image
    else s
  | none => s

def execActivationCommitPoint (s : State) : Out := .next (s.onCore .scheduler (commitPoint s))

/-- ACTIVATION_RETRY: the emergency signal has been low for 100 ms (R329 step 3). -/
def activationRetry (s : State) : State :=
  match s.fw.calmSince with
  | some t0 =>
    if s.stageState = 5 ∧ !s.emergency ∧ t0 + 100000000 ≤ s.clk.pkg then
      (s.setStage 4 0x40 0).modFw fun w => { w with fetching := false, handed := false }
    else s
  | none => s

def execActivationRetry (s : State) : Out := .next (s.onCore .scheduler (activationRetry s))

/-- ACTIVATION_LOAD_DONE: the loader copies the sections, rehashes, and starts the cores at RECOVERY_k with a census, or
the activation has failed (R329 step 5, R330). The host-loss timer keeps its state, and an expired one leads to FREEWHEEL
(R505). -/
def activationLoadDone (s : State) : State :=
  match s.fw.commitAt, s.fw.staged with
  | some _, some g =>
    let n := g.image.length
    let ((_, img), t) := s.fetch .firmware .normal 1 128 s.stageBase n
    if imgDigest img n = g.digest then
      let t := (upto 4).foldl (fun t k =>
        let i : Fin 4 := Fin.ofNat 4 k
        (t.modCore i fun c => { FwCore.record img k c with sram := sramWrite [] 0 (imgSection img k) }).startCore i
          (imgRecovery img k)) t
      let v := imgVersion img
      let ms := s.gf Reg.FW_HOST_TIMEOUT Fld.FW_HOST_TIMEOUT_MS
      let lost : Bool := match s.fw.hostTimer with
        | some t0 => decide (ms ≠ 0 ∧ t0 + ms * 1000000 ≤ s.ticks)
        | none => true
      let t := ((t.setFw (if lost then 5 else 4)).wr Reg.FW_VERSION (BitVec.ofNat 32 v)).wr64 Reg.FW_DIGEST
        (digestHead g.digest)
      let t := (t.setStage 0 0 0).modFw fun w =>
        { w with commitAt := none, staged := none, fetching := true, hostTimer := if lost then none else w.hostTimer }
      ((census t).logRec 0x0023 [v]).logRec 0x0001 [v, 1]
    else (t.resetAll).raise Reg.FW_HW_STATUS Fld.FW_HW_STATUS_ACTIVATION_FAILED
  | _, _ => s

def execActivationLoadDone (s : State) : Out := .next (s.onLive .firmware (activationLoadDone s))

/-- STAGE_CANCEL: withdraws a staged image in VERIFIED, WAITING and DEFERRED, before the commit point (R330). -/
def State.cancelStage (s : State) : State :=
  if (s.stageState = 2 ∨ s.stageState = 4 ∨ s.stageState = 5) ∧ !s.fw.handed then
    (s.setStage 0 0x32 0).modFw fun w => { w with fetching := true, staged := none }
  else s

def stageCancel (len : BitVec 20) (s : State) : State := (s.wr Reg.FW_STAGE_CTRL (stageWord 29 len)).cancelStage

def execStageCancel (len : BitVec 20) (s : State) : Out :=
  .next (s.emuWrite Reg.FW_STAGE_CTRL (stageWord 29 len) (some (stageCancel len s)))

/-! ### Log and trace (R333, R334, R529) -/

/-- Severity of a log code. -/
def logSeverity (code : Nat) : Nat :=
  if code ∈ [0x0062, 0x0068] then 0
  else if code ∈ [0x0001, 0x0011, 0x0020, 0x0023, 0x0050, 0x0052, 0x0054, 0x0060, 0x0065, 0x0071, 0x007A] then 1
  else if code ∈ [0x0010, 0x0012, 0x0021, 0x0022, 0x0030, 0x0040, 0x0051, 0x0056, 0x0063, 0x0066, 0x0067] then 2
  else if code ∈ [0x0070, 0x0074, 0x0079] then 2
  else if code = 0x0078 then 4
  else 3

/-- CORE of a log code (R529). -/
def logCore (code : Nat) : Nat :=
  if code = 0x0001 ∨ (0x0010 ≤ code ∧ code ≤ 0x0012) ∨ (0x0020 ≤ code ∧ code ≤ 0x0023) then 3
  else if code = 0x0040 ∨ (0x0060 ≤ code ∧ code ≤ 0x0069) ∨ (0x0070 ≤ code ∧ code ≤ 0x0075) then 1
  else 2

/-- The 32 bytes of a log record (R333). -/
def LogItem.bytes (x : LogItem) (seq : Nat) : List Byte :=
  leBytes 8 x.time ++ leBytes 2 x.code ++ leBytes 1 (logSeverity x.code + 64 * logCore x.code) ++ leBytes 1 0 ++
    leBytes 4 seq ++ (upto 4).flatMap fun k => leBytes 4 (x.args.getD k 0)

/-- SEQ of the next log record to be written: the oldest waiting one's, or the next number (R333). -/
def State.logSeq (s : State) : Nat :=
  match s.fw.logWait with
  | b :: _ => leNat (sliceBytes b 12 4)
  | [] => (s.rd Reg.FW_LOG_SEQ).toNat

/-- Write every waiting log record, in SEQ order (R333). -/
def State.flushLog (s : State) : State :=
  if s.ringOpen Reg.FW_LOG_RING then
    (s.fw.logWait.foldl (fun t b => t.ringWrite .firmware Reg.FW_LOG_RING (leNat (sliceBytes b 12 4)) b) s).modFw fun w =>
      { w with logWait := [] }
  else s

/-- LOG_RECORD: waiting records are written when the ring is open, then the oldest reported record is numbered and
written or buffered; a full buffer of 256 drops its oldest (R333). -/
def logRecord (s : State) : State :=
  let t := s.flushLog
  match t.inbox.log with
  | x :: r =>
    let n := (t.rd Reg.FW_LOG_SEQ).toNat
    let b := x.bytes n
    let u := (t.modInbox fun i => { i with log := r }).wr Reg.FW_LOG_SEQ (BitVec.ofNat 32 (n + 1))
    if u.ringOpen Reg.FW_LOG_RING then u.ringWrite .firmware Reg.FW_LOG_RING n b
    else
      let l := u.fw.logWait ++ [b]
      u.modFw fun w => { w with logWait := l.drop (l.length - 256) }
  | [] => t

def execLogRecord (s : State) : Out := .next (s.onCore .liaison (logRecord s))

/-- TRACE_POINT: gathered when its group is enabled; dropped when 16 are gathered already (R334). -/
def tracePoint (point : BitVec 16) (core : Fin 4) (arg : Word) (s : State) : State :=
  if (s.rd Reg.FW_TRACE_MASK).toNat.testBit (natBits point.toNat 11 5) then
    let b := leBytes 8 s.fwNow ++ leBytes 2 point.toNat ++ leBytes 1 (64 * core.val) ++ leBytes 1 s.fw.traceSeq ++
      leBytes 4 arg.toNat
    s.modFw fun w =>
      { w with trace := if w.trace.length < 16 then w.trace ++ [b] else w.trace,
               traceAt := if w.trace.isEmpty then s.fwNow else w.traceAt,
               traceSeq := (w.traceSeq + 1) % 256 }
  else s

def execTracePoint (point : BitVec 16) (core : Fin 4) (arg : Word) (s : State) : Out :=
  .next (s.onCore .liaison (tracePoint point core arg s))

/-- TRACE_FLUSH: one gathered write, full or 10 µs old; at the ring's end it is split (R334). -/
def traceFlush (s : State) : State :=
  let l := s.fw.trace
  let full : Bool := l.length = 16
  if !l.isEmpty ∧ s.ringOpen Reg.FW_TRACE_RING ∧ (full ∨ s.fw.traceAt + 10000 ≤ s.fwNow) then
    let n := s.ringSlots Reg.FW_TRACE_RING
    let a := s.fw.traceSlot % n
    let base := s.ringBase Reg.FW_TRACE_RING
    let t := s.issueWrite .firmware .normal 1 (base + 16 * a) (l.take (n - a)).flatten
    let t := t.issueWrite .firmware .normal 1 base (l.drop (n - a)).flatten
    t.modFw fun w => { w with trace := [], traceSlot := (a + l.length) % n }
  else s

def execTraceFlush (s : State) : Out := .next (s.onCore .liaison (traceFlush s))

end Sys2Proof.Machine
end

