-- ==== Sys2Proof/Machine/Thermal.lean ====
section
/-! DEFINITION. Meanings of the rows on temperature sensors, zones, throttle steps, column power and the thermal guard
(18: R471 to R490; 15: R404). -/

namespace Sys2Proof.Machine

/-- Change the thermal guard. -/
def State.modTherm (s : State) (f : Thermal → Thermal) : State := { s with therm := f s.therm }
def State.modSensor (s : State) (i : Fin 33) (f : Sensor → Sensor) : State :=
  s.modTherm fun t => { t with sensors := t.sensors.set i (f t.sensors[i]) }
def State.modZone (s : State) (z : Fin 6) (f : Zone → Zone) : State :=
  s.modTherm fun t => { t with zones := t.zones.set z (f t.zones[z]) }
def zoneFin (z : Nat) : Fin 6 := Fin.ofNat 6 z
def sensorFin (i : Nat) : Fin 33 := Fin.ofNat 33 i

/-! ### Zones and sensors (R471) -/

/-- A remote input is used (R44, R74). -/
def State.inputUsed (s : State) (n : Nat) : Bool := s.straps.snsUse.toNat.testBit n

/-- The zone of a sensor: remote inputs 0 to 7, local sensors 8 to 31, the stack readout 32. -/
def State.zoneOf (s : State) (i : Nat) : Nat :=
  if i < 8 then 2 + s.gf (Reg.THERM_SNS_CFG i) Fld.THERM_SNS_CFG_ZONE else if i < 32 then 1 else 0

/-- The sensors assigned to a zone. -/
def State.zoneSensors (s : State) (z : Nat) : List Nat :=
  (upto 33).filter fun i => (decide (8 ≤ i) || s.inputUsed i) && decide (s.zoneOf i = z)

/-- A zone is used (R471). -/
def State.zoneUsed (s : State) (z : Nat) : Bool := !(s.zoneSensors z).isEmpty

/-- The k-th threshold of a zone: 0 WARN, 1 to 8 STEP1 to STEP8, 9 CRITICAL, 10 RESTART, 11 HOT_SUB (R477). -/
def State.threshold (s : State) (z k : Nat) : Int := signedOf 10 (natBits (s.rd (Reg.THERM_ZTHR z (k / 3))).toNat (10 * (k % 3)) 10)

/-- LOW_STOP and LOW_TRAIN (R477). -/
def State.lowStop (s : State) : Int := signedOf 10 (s.gf Reg.THERM_LOW Fld.THERM_LOW_LOW_STOP)
def State.lowTrain (s : State) : Int := signedOf 10 (s.gf Reg.THERM_LOW Fld.THERM_LOW_LOW_TRAIN)

/-- HYST. -/
def State.hyst (s : State) : Int := s.gf Reg.THERM_GUARD_CFG Fld.THERM_GUARD_CFG_HYST

/-- A sensor is broken, and has had a valid reading. -/
def State.snsBroken (s : State) (i : Nat) : Bool := s.bit (Reg.THERM_SNS_READ i) Fld.THERM_SNS_READ_BROKEN
def State.snsValid (s : State) (i : Nat) : Bool := s.bit (Reg.THERM_SNS_READ i) Fld.THERM_SNS_READ_VALID

/-- What a sensor contributes to its zone: HOT_SUB while broken, else its last valid reading (R473, R474). -/
def State.snsValue (s : State) (i : Nat) : Option Int :=
  if s.snsBroken i then some (s.threshold (s.zoneOf i) 11)
  else if s.snsValid i then some (signedOf 10 (s.gf (Reg.THERM_SNS_READ i) Fld.THERM_SNS_READ_TEMP))
  else none

/-- The zone reading: the highest of its sensors (R473). -/
def State.zoneReading (s : State) (z : Nat) : Option Int :=
  ((s.zoneSensors z).filterMap s.snsValue).foldl (fun m v => match m with
    | none => some v
    | some x => some (max x v)) none

/-- Every sensor of a zone is broken (R475). -/
def State.allBroken (s : State) (z : Nat) : Bool := s.zoneUsed z && (s.zoneSensors z).all s.snsBroken

/-- The used zones that have been read. -/
def State.readZones (s : State) : List (Nat × Int) :=
  (upto 6).filterMap fun z => if s.zoneUsed z then (s.zoneReading z).map fun r => (z, r) else none

/-- Every used zone that has been read reads at or above LOW_TRAIN, and no shutdown is in force (R414). -/
def State.trainWarm (s : State) : Bool := s.readZones.all fun e => decide (s.lowTrain ≤ e.2)

/-- A temperature as a 10-bit field holds it, at the nearer limit beyond its range. -/
def temp10 (v : Int) : Nat := (max (-512) (min 511 v) % 1024).toNat

/-! ### Sensors (R72 to R74, R474, R476) -/

/-- A reading of a sensor, or none with its CAUSE. The third valid reading in a row ends the broken state (R474). -/
def State.sensorRead (s : State) (i : Nat) (v : Option Int) (cause : Nat) : State :=
  let r := Reg.THERM_SNS_READ i
  let t := s.modZone (zoneFin (s.zoneOf i)) fun z => { z with fresh := true }
  match v.filter fun x => decide (-160 ≤ x ∧ x ≤ 600) with
  | some x =>
    let n := s.therm.sensors[sensorFin i].streak + 1
    let t := t.modSensor (sensorFin i) fun y => { y with readAt := some s.clk.raw, streak := n }
    let t := (t.raise r Fld.THERM_SNS_READ_VALID).sf r Fld.THERM_SNS_READ_TEMP (temp10 x)
    if s.snsBroken i ∧ 3 ≤ n then (t.sf r Fld.THERM_SNS_READ_BROKEN 0).sf r Fld.THERM_SNS_READ_CAUSE 0 else t
  | none =>
    let c := if v.isSome then 2 else cause
    let t := t.modSensor (sensorFin i) fun x => { x with streak := 0 }
    let t := (t.raise r Fld.THERM_SNS_READ_BROKEN).sf r Fld.THERM_SNS_READ_CAUSE c
    t.raiseIf (!s.snsBroken i) Reg.THERM_STATUS Fld.THERM_STATUS_SNS_BROKEN

/-- A remote input is a thermistor (R72). -/
def State.isThermistor (s : State) (n : Nat) : Bool := s.straps.snsKind.toNat.testBit n

/-- Current of a thermistor's next conversion, by the voltage in µV at this one's: the next lower one above 0.9 V, the next
higher one below 0.09 V (R72). -/
def nextDrive (d : Fin 4) (uv : Nat) : Fin 4 :=
  if 900000 < uv then Fin.ofNat 4 (d.val - 1) else if uv < 90000 then Fin.ofNat 4 (min 3 (d.val + 1)) else d

/-- CAUSE of a broken input: 0 open, above 1.0 V at its lowest current, 1 short, below 20 mV at its highest. A diode shows
both currents in each conversion, a thermistor the one it is driven with (R72, R73). -/
def brokenCause (thermistor : Bool) (d : Fin 4) (low high : Nat) : Option Nat :=
  if 1000000 < low ∧ (!thermistor ∨ d = 0) then some 0
  else if (if thermistor then low else high) < 20000 ∧ (!thermistor ∨ d = 3) then some 1
  else none

/-- The trim of a remote input that its conversion uses: BETA of a thermistor, IDEALITY of a diode (R72, R472). -/
def State.snsTrim (s : State) (n : Nat) : Nat :=
  s.gf (Reg.THERM_SNS_CFG n) (if s.isThermistor n then Fld.THERM_SNS_CFG_BETA else Fld.THERM_SNS_CFG_IDEALITY)

/-- The temperature that a conversion finds with the input's trim: `v` with the trim of reset, another one with another trim,
for which the spec gives no formula (R472). DESIGN CHOICE: log entry 51. -/
def State.trimmed (s : State) (n : Nat) (low high : BitVec 22) (v : BitVec 12) : Int :=
  if s.snsTrim n = (if s.isThermistor n then 3950 else 33) then v.toInt
  else (Config.trimmedReading (s.isThermistor n) (s.snsTrim n) low high v).toInt

/-- SENSOR_CONVERSION: a used remote input is converted, once every 500 µs (R72, R73). `low` is the voltage in µV at a
diode's 8 µA or at the current that drives a thermistor, `high` that at a diode's 128 µA, `v` the temperature that the
conversion finds from the voltages with the trim of reset, within the error that R72 allows. -/
def sensorConversion (n : Fin 8) (low high : BitVec 22) (v : BitVec 12) (s : State) : State :=
  let x := s.therm.sensors[sensorFin n]
  let due : Bool := match x.convAt with
    | some t => decide (t + 500000 ≤ s.clk.pkg)
    | none => true
  if !s.inputUsed n ∨ !due then s
  else
    let t := s.modSensor (sensorFin n) fun x =>
      { x with convAt := some s.clk.pkg, drive := if s.isThermistor n then nextDrive x.drive low.toNat else x.drive }
    match brokenCause (s.isThermistor n) x.drive low.toNat high.toNat with
    | some c => t.sensorRead n none c
    | none => t.sensorRead n (some (s.trimmed n low high v + signedOf 8 (s.gf (Reg.THERM_SNS_CFG n) Fld.THERM_SNS_CFG_OFFSET))) 2

def execSensorConversion (n : Fin 8) (ends : BitVec 22 × BitVec 22) (v : BitVec 12) (s : State) : Out :=
  .next (s.onLive .sensor (sensorConversion n ends.1 ends.2 v s))

/-- LOCAL_SENSOR_READ (R471). -/
def execLocalSensorRead (k : Fin 24) (v : BitVec 12) (s : State) : Out :=
  .next (s.onLive .sensor (s.sensorRead (8 + k) (some v.toInt) 2))

/-- A stack reading: a failed transfer check breaks the sensor and doubles the refresh rate (R156, R474, R475). Until the
first valid reading, or 10 ms without one, the stack zone is not yet read and cannot break. DEDUCED: log entry 86. -/
def State.stackReading (s : State) (v : BitVec 12) (ok : Bool) : State :=
  let valid : Bool := ok ∧ -160 ≤ v.toInt ∧ v.toInt ≤ 600
  let t := s.sensorRead 32 (if ok then some v.toInt else none) 2
  if !valid ∧ !s.snsValid 32 ∧ !s.snsBroken 32 then s
  else if t.snsBroken 32 then { t with refresh := { t.refresh with stale := true } } else t.rateFromReading v.toInt

/-- The stack is read once every 1 ms (R62). -/
def State.stackReadDue (s : State) : Bool :=
  match s.therm.sensors[sensorFin 32].convAt with
  | some t => decide (t + 1000000 ≤ s.clk.raw)
  | none => true

/-- The block reads the stack temperature (R62). -/
def State.readStack (s : State) (v : BitVec 12) (ok : Bool) : State :=
  (s.modSensor (sensorFin 32) fun x => { x with convAt := some s.clk.raw }).stackReading v ok

/-- STACK_TEMPERATURE_READ: once the stack zone has started, every 1 ms (R62, R156, R476). -/
def execStackTemperatureRead (v : BitVec 12) (ok : Bool) (s : State) : Out :=
  .next (s.onLive .sensor (s.when (s.pins.memResetN && s.stackReadDue) (s.readStack v ok)))

/-- SENSOR_STALE: no valid reading for 10 ms of corrected oscillator time; the stack zone counts from the release of
MEM_RESET_N, or of the island on a warm return (R474, R476, R490). -/
def sensorStale (i : Fin 33) (s : State) : State :=
  let silent : Bool := match s.therm.sensors[i].readAt with
    | some t => decide (t + 10000000 ≤ s.clk.raw)
    | none => false
  let counts : Bool := if i.val < 8 then s.inputUsed i else if i.val < 32 then true else s.pins.memResetN
  if counts && silent && !s.snsBroken i then
    let t := s.sensorRead i none 3
    if i.val = 32 then { t with refresh := { t.refresh with stale := true } } else t
  else s

def execSensorStale (i : Fin 33) (s : State) : Out := .next (s.onLive .sensor (sensorStale i s))

/-- OSCILLATOR_COMPENSATION corrects analogue frequencies and a converter reference; no state that the spec gives the
block changes (R490). -/
def execOscillatorCompensation (s : State) : Out := .next s

/-! ### The step in force (R75, R481, R482, R485) -/

/-- Step in force. -/
def State.stepNow (s : State) : Nat := s.gf Reg.THERM_STATUS Fld.THERM_STATUS_STEP

/-- COL_THR codes of steps 1 to 8 (R75). -/
def colCodes : List Nat := [0, 1, 3, 2, 6, 7, 5, 4]

/-- The step that the throttle outputs show, 0 for none. -/
def Pins.colStep (p : Pins) : Nat := if p.colThrOn then colCodes.findIdx (· = p.colThr) + 1 else 0

/-- The step that the throttle outputs move towards: step 8 in a shutdown, none in the low-temperature hold (R481, R485,
R488). -/
def State.colTarget (s : State) : Nat :=
  if s.shutdown then 8 else if s.bit Reg.THERM_STATUS Fld.THERM_STATUS_LOW_HOLD then 0 else s.stepNow

/-- The throttle outputs move one code towards their target, at least 40 ns after their last change (R75). -/
def State.colMove (s : State) : State :=
  let now := s.pins.colStep
  let tgt := s.colTarget
  if now ≠ tgt ∧ s.therm.colAt + 40 ≤ s.clk.pkg then
    let k := if now < tgt then now + 1 else now - 1
    (s.modPins fun p => { p with colThrOn := decide (0 < k), colThr := colCodes.getD (k - 1) 0 }).modTherm fun t =>
      { t with colAt := s.clk.pkg }
  else s

/-- COL_THR_CODE_STEP (R75). -/
def execColThrCodeStep (s : State) : Out := .next (s.onLive .sensor s.colMove)

/-- Drive the step in force to the arbiters of all PCs, and start the outputs towards it (R481, R482, R485). -/
def State.applyStep (s : State) : State :=
  let step := max (s.gf Reg.THERM_STATUS Fld.THERM_STATUS_T_STEP) (s.gf Reg.THERM_STATUS Fld.THERM_STATUS_P_STEP)
  let t := s.sf Reg.THERM_STATUS Fld.THERM_STATUS_STEP step
  let hold := t.bit Reg.THERM_STATUS Fld.THERM_STATUS_LOW_HOLD
  let t := (upto 64).foldl (fun t p =>
    (t.sf (Reg.SLOT_STATUS p) Fld.SLOT_STATUS_BG_HOLD (if hold ∨ 0 < step then 1 else 0)).sf (Reg.SLOT_STATUS p)
      Fld.SLOT_STATUS_ADMIT (if hold then 0 else t.admitOf step)) t
  t.calm.colMove

/-- Set the zone step of a zone. -/
def State.setZstep (s : State) (z k : Nat) : State :=
  (s.sf (Reg.THERM_ZONE_READ z) Fld.THERM_ZONE_READ_ZSTEP k).modZone (zoneFin z) fun x => { x with setAt := s.clk.pkg }

/-- T_STEP is the highest zone step of the used zones (R471, R479). -/
def State.setTstep (s : State) : State :=
  s.sf Reg.THERM_STATUS Fld.THERM_STATUS_T_STEP
    (((upto 6).filter s.zoneUsed).foldl (fun m z => max m (s.gf (Reg.THERM_ZONE_READ z) Fld.THERM_ZONE_READ_ZSTEP)) 0)

/-- What THERM_ZONE_READ_z reads: a zone without a sensor shows nothing, another one how many it has (R471). -/
def State.zoneWord (s : State) (z w : Nat) : Nat :=
  if s.zoneUsed z then natSetBits (natSetBits w 31 1 1) 16 5 (s.zoneSensors z).length else 0

/-- After a change of the assignment of the remote inputs: a zone that has lost its last sensor carries no step, no reading
and no history, and T_STEP is that of the others (R471, R479). -/
def State.rezone (s : State) : State :=
  ((upto 6).foldl (fun (t : State) z =>
    if t.zoneUsed z then t
    else (t.wr (Reg.THERM_ZONE_READ z) 0).modZone (zoneFin z) fun _ => { setAt := 0, fresh := false, downs := [] }) s).setTstep

/-- The highest step whose threshold, lowered by `h`, a reading reaches. -/
def State.stepFor (s : State) (z : Nat) (r h : Int) : Nat :=
  (upto 8).foldl (fun m k => if s.threshold z (k + 1) - h ≤ r then k + 1 else m) 0

/-- DWELL_MS in ns. -/
def State.dwell (s : State) : Nat := s.gf Reg.THERM_GUARD_CFG Fld.THERM_GUARD_CFG_DWELL_MS * 1000000

/-- The zone step after a new reading (R479). -/
def State.zoneStep (s : State) (z : Nat) (r : Int) : State :=
  let now := s.clk.pkg
  let cur := s.gf (Reg.THERM_ZONE_READ z) Fld.THERM_ZONE_READ_ZSTEP
  let up := s.stepFor z r 0
  let down := s.stepFor z r s.hyst
  let x := s.therm.zones[zoneFin z]
  let downs := (x.downs.filter fun d => decide (now ≤ d.1 + s.dwell)) ++ [(now, down)]
  let t := s.modZone (zoneFin z) fun y => { y with downs := downs }
  if cur < up then t.setZstep z up
  else if x.setAt + s.dwell ≤ now ∧ downs.all fun d => decide (d.2 < cur) then
    t.setZstep z (downs.foldl (fun m d => max m d.2) 0)
  else t

/-! ### The guard (R485 to R489) -/

/-- The guard decides a shutdown; the first cause decided is kept (R487). During a shutdown and its restart hold a cause has
no further effect; one that comes after the hold's expiry is evaluated after it (R489). DESIGN CHOICE: log entry 90, such a
decision ends the restart under way. -/
def State.critical (s : State) (cause : Nat) : State :=
  if (s.shutdown ∧ !s.therm.restarting) ∨ s.therm.due then s
  else
    ((s.sf Reg.THERM_STATUS Fld.THERM_STATUS_CRIT_CAUSE cause).raise Reg.THERM_STATUS
      Fld.THERM_STATUS_CRIT_EVENT).modTherm fun t => { t with due := true }

/-- The conditions of the restart hold: every reading of every used zone below RESTART, none all broken, MEM_CATTRIP low, every
supply in regulation (R489). A zone that has not been read has no reading that could break it (R476). -/
def State.calmColumn (s : State) : Bool :=
  ((upto 6).all fun z => !s.zoneUsed z || (!s.allBroken z && (match s.zoneReading z with
    | some r => decide (r < s.threshold z 10)
    | none => true))) && !s.pins.memCattrip && s.pwr.badSupply.isEmpty

/-- Start, keep or break the restart hold (R489). -/
def State.holdEval (s : State) : State :=
  if !s.shutdown ∨ s.therm.restarting then s
  else if s.calmColumn then
    (s.modTherm fun t => { t with holdFrom := some (t.holdFrom.getD s.clk.pkg) }).raise Reg.THERM_STATUS
      Fld.THERM_STATUS_RESTART_HOLD
  else (s.modTherm fun t => { t with holdFrom := none }).sf Reg.THERM_STATUS Fld.THERM_STATUS_RESTART_HOLD 0

/-- The low-temperature hold (R485). -/
def State.lowEval (s : State) : State :=
  let zs := s.readZones
  if zs.any fun e => decide (e.2 < s.lowStop) then s.raise Reg.THERM_STATUS Fld.THERM_STATUS_LOW_HOLD
  else if zs.all fun e => decide (s.lowStop + s.hyst ≤ e.2) then s.sf Reg.THERM_STATUS Fld.THERM_STATUS_LOW_HOLD 0
  else s

/-- Show a zone in THERM_ZONE_READ_z. -/
def State.showZone (s : State) (z : Nat) (r : Int) : State :=
  let l := s.zoneSensors z
  let g := Reg.THERM_ZONE_READ z
  let t := (s.raise g Fld.THERM_ZONE_READ_USED).sf g Fld.THERM_ZONE_READ_ALL_BROKEN (if s.allBroken z then 1 else 0)
  ((t.sf g Fld.THERM_ZONE_READ_BROKEN (l.filter s.snsBroken).length).sf g Fld.THERM_ZONE_READ_SENSORS l.length).sf g
    Fld.THERM_ZONE_READ_READING (temp10 r)

/-- ZONE_READING: a new reading of a used zone changes its step, the step in force, the holds, and is checked by the
guard (R477, R479, R481, R485, R487, R489). The readings of a shutdown break or keep its restart hold. -/
def zoneReadingRow (z : Fin 6) (s : State) : State :=
  match s.zoneReading z with
  | some r =>
    if s.therm.zones[z].fresh then
      let t := (s.modZone z fun x => { x with fresh := false }).showZone z r
      let t := t.raiseIf (decide (t.threshold z 0 ≤ r)) Reg.THERM_STATUS Fld.THERM_STATUS_WARN
      let t := (t.zoneStep z r).setTstep
      let t := if t.allBroken z then t.critical 3 else if t.threshold z 9 ≤ r then t.critical 1 else t
      (t.holdEval.lowEval).applyStep
    else s
  | none => s

def execZoneReading (z : Fin 6) (s : State) : Out := .next (s.onLive .sensor (zoneReadingRow z s))

/-- MEM_CATTRIP_RISE acts on the guard at once (R62, R487). -/
def execMemCattripRise (s : State) : Out :=
  let t := s.modPins fun p => { p with memCattrip := true }
  .next (if s.live .sensor ∧ !s.pins.memCattrip then (t.critical 2).holdEval else t)

/-- MEM_CATTRIP_FALL (R489). -/
def execMemCattripFall (s : State) : Out :=
  let t := s.modPins fun p => { p with memCattrip := false }
  .next (if s.live .sensor then t.holdEval else t)

/-- A request that holds a miss entry waits for accesses that no PC has granted. -/
def State.ungranted (s : State) (sl : Fin 16) (ln : Nat) : Bool :=
  let mine (o : Owner) : Bool := match o with
    | .fill x l _ => decide (x = sl ∧ l = ln)
    | .readThrough x l _ => decide (x = sl ∧ l = ln)
    | .writeThrough x l => decide (x = sl ∧ l = ln)
    | _ => false
  (s.pcs.toList.any fun c => c.pool.any fun e => mine e.acc.owner) || (s.paths.memXbar.any fun e => mine e.2.owner)

/-- Requests that a thermal shutdown finds ungranted complete with THERMAL_SHUTDOWN; the writes of BMEs, which their engines
complete all the same, wait at the ingress for the restart, before those found there already (R228, R241, R488). DEDUCED: log
entry 81. -/
def State.shutReqs (s : State) (l : List Req) : State :=
  (l.filter fun r => !r.kept && !r.prefetch).foldl (fun t r => t.complete r .thermalShutdown [])
    (s.modPaths fun x => { x with fenceWait := l.filter Req.kept ++ x.fenceWait })

/-- The requests of a slice that have not been granted (R488 step 1). A lock whose request waits at a half-pannier goes with
it. -/
def State.shutSlice (s : State) (sl : Fin 16) : State :=
  let x := s.paths.slices[sl]
  let gone (m : Miss) : Bool := s.ungranted sl m.line || decide (m.kind = .pannier) || decide (m.kind = .waiting)
  let reqs := x.input ++ x.misses.flatMap fun m => (if gone m then m.current.toList else []) ++ m.queue
  let t := s.modSlice sl fun y =>
    { y with input := [], misses := (y.misses.filter fun m => !gone m).map fun m => { m with queue := [] } }
  t.shutReqs reqs

/-- What becomes of an ungranted access: those of requests, runs and direct reads go; a write-back, and the write of a
CLEAN, stays for the restart, for the cache keeps its lines (R452, R488). -/
def State.shutAccess (s : State) (a : Access) : Option Access :=
  match a.owner with
  | .fill _ _ _ => none
  | .readThrough _ _ _ => none
  | .pannier _ _ _ => if a.write then some a else none
  | .bme _ _ => none
  | .copyRead _ => none
  | .copyWrite _ => none
  | .margin => none
  | .writeThrough sl ln =>
    match (s.paths.slices[sl].misses.find? fun m => m.line = ln).bind (·.current) with
    | some r => if r.op = .clean then some { a with owner := .writeBack sl ln } else none
    | none => some { a with owner := .writeBack sl ln }
  | _ => some a

/-- Narrow requests of a PC's half-pannier that wait for an ungranted burst complete with THERMAL_SHUTDOWN (R488). -/
def State.shutPannier (s : State) (p : Fin 64) : State :=
  let c := s.pcs[p]
  let waits (x : PanEntry) : Bool := !x.placed || s.pcs.toList.any fun d => d.pool.any fun e =>
    e.acc.owner.ofEntry p x.id && x.left.contains e.acc.loc.col
  let t := s.modPc p fun c => { c with pan := c.pan.filter fun x => !waits x }
  (c.pan.filter waits).foldl (fun t x => t.shutReqs ((x.reqs.filter fun n => !x.closed || x.left.contains n.burst).map (·.req))) t

/-- The 8 bursts that begin at a location. -/
def Loc.eight (l : Loc) : List Loc := (upto 8).map fun k => { l with col := l.col + k }

/-- The reference bursts stand in the stack with their verified data when the buses are released, whatever the probes have written
meanwhile: a window changes no contents, and a lane error in a reference burst is gone (R124, R417). Bursts that hold no
stated contents stay as they are. -/
def State.keepReference (s : State) (w : Truing) : State :=
  match w.place with
  | none => s
  | some l => l.eight.foldl (fun t x =>
      let img := s.stack.readBurst s.free x
      match decodeImage img with
      | .corrected _ _ => if s.stack.isUndef x then t else t.putBurst x (decodedData img) false
      | _ => t) s

/-- Put an armed window among those of a PC: the earlier of two comes first (R416, R421). -/
def Pc.arm (c : Pc) (w : Truing) : Pc :=
  match c.truing with
  | none => { c with truing := some w }
  | some v => if v.opened ∨ v.at_ ≤ w.at_ then { c with truingNext := some w }
    else { c with truing := some w, truingNext := some v }

/-- The first window of a PC is over; the one armed for after it is next (R416). -/
def Pc.disarm (c : Pc) : Pc := { c with truing := c.truingNext, truingNext := none }

/-- Bring back the delays in force at T (R418). -/
def State.restoreDelays (s : State) (w : Truing) : State := w.saved.foldl (fun t e => t.wr e.1 e.2) s

/-- A truing window that has opened ends at once; without DONE the delays in force at T come back (R124, R418). -/
def State.endWindow (s : State) (p : Fin 64) : State :=
  match s.pcs[p].truing with
  | some w =>
    if w.opened then
      let t := (if w.done then s else s.restoreDelays w).keepReference w
      ((t.modPc p Pc.disarm).sf (Reg.PC_SCHED_STATUS p) Fld.PC_SCHED_STATUS_TRUING 0).bump
        (Reg.PC_TRUE_STATUS p) Fld.PC_TRUE_STATUS_WINDOWS
    else s
  | none => s

/-- Granted bursts of a PC complete: its queued reads and writes (R488 step 3). -/
def State.finishGranted (s : State) (p : Fin 64) : State :=
  let pool := s.pcs[p].pool
  let t := ((s.drainReads p).modPc p fun c => { c with pool := [] }).drainWrites p
  t.modPc p fun c => { c with pool := pool }

/-- A remote bag that has not committed is answered with THERMAL_SHUTDOWN; a committed one goes on (R228, R230, R343). -/
def State.shutBags (s : State) : State :=
  let ends (o : SigOp) : Bool := decide (o.committed = 0)
  s.modSeq fun q =>
    { q with remoteQueue := [], remoteRun := q.remoteRun.filter fun o => !ends o,
             answers := q.answers ++ (q.remoteQueue ++ q.remoteRun.filter ends).filterMap fun o =>
               o.remote.map fun r => (r, .thermalShutdown, 0, []) }

/-- A started packet that its engine has not taken up ends with THERMAL_SHUTDOWN, as what the engine holds does (R296). -/
def State.shutPackets (s : State) : State :=
  (s.sched.packets.filter fun p => decide (p.stage = .running) && !p.loaded && decide (2 ≤ p.opcode ∧ p.opcode ≤ 5)).foldl
    (fun t p => t.complete' p.key .thermalShutdown 0 0) s

/-- Accesses on the memory crossbar and in the intake pools that a shutdown finds ungranted, and the runs they belong to
(R488 step 1); `keep` says what becomes of each access. -/
def State.shutPools (s : State) (keep : Access → Option Access) : State :=
  let keepEntry := fun (e : PoolEntry) => (keep e.acc).map fun a => ({ e with acc := a } : PoolEntry)
  let t : State := { s with
    pcs := s.pcs.map fun (c : Pc) => { c with run6 := none, run7 := none, pool := c.pool.filterMap keepEntry },
    copiers := s.copiers.map fun (_ : CopyChan) => CopyChan.init }
  t.modPaths fun x => { x with memXbar := x.memXbar.filterMap fun e => (keep e.2).map fun a => (e.1, a) }

/-- Requests of the own range that no PC has granted, wherever they wait (R488 step 1). -/
def State.shutUngranted (s : State) : State :=
  let waiting := s.paths.reqXbar ++ s.paths.fenceWait
  let t := (s.modPaths fun x => { x with reqXbar := [], fenceWait := [] }).shutReqs waiting
  let t := (upto 16).foldl (fun t i => t.shutSlice (sliceFin i)) t
  let t := (t.modPaths fun x => { x with panXbar := [] }).shutReqs (t.paths.panXbar.map (·.2.req))
  (upto 64).foldl (fun t p => t.shutPannier (pcFin p)) t

/-- Work of the engines ends with THERMAL_SHUTDOWN (R230, R241, R256, R296, R499). -/
def State.shutEngines (s : State) : State :=
  let s := s.seq.ops.foldl State.setBack s
  ((s.seq.ops.foldl (fun (t : State) o => t.endOp o .thermalShutdown) s).shutBags.shutPackets).shutColls

/-- THERMAL_SHUTDOWN: the steps of R488 after the guard's decision: ungranted work ends; COMPUTE_OFF_REQ rises and truing
windows end; granted bursts complete and the stack enters self-refresh. -/
def thermalShutdown (s : State) : State :=
  if !s.therm.due then s
  else
    let t := (s.raise Reg.THERM_STATUS Fld.THERM_STATUS_SHUTDOWN).modTherm fun x =>
      { x with due := false, offAt := some s.clk.pkg, holdFrom := none, restarting := false }
    let t : State := { t with pcs := t.pcs.map fun (c : Pc) => { c with stopped := true } }
    let t := (t.shutUngranted.shutPools s.shutAccess).shutEngines
    let t := t.modPins fun p => { p with computeOffReq := true }
    let t := (upto 64).foldl (fun t p => t.endWindow (pcFin p)) t
    let t := s.livePcs.foldl (fun t p => (t.finishGranted p).selfRefreshEnter p) t
    t.holdEval.calm.colMove

def execThermalShutdown (s : State) : Out := .next (s.onLive .sensor (thermalShutdown s))

/-- COMPUTE_OFF_ACK_RISE (R77). -/
def execComputeOffAckRise (s : State) : Out :=
  let t := s.modPins fun p => { p with computeOffAck := true }
  .next (if s.live .sensor then t.modTherm fun x => { x with offAt := none } else t)

/-- COMPUTE_OFF_LATE (R77). -/
def computeOffLate (s : State) : State :=
  match s.therm.offAt with
  | some t0 =>
    if t0 + 1000000 ≤ s.clk.pkg ∧ !s.pins.computeOffAck then
      (s.modTherm fun x => { x with offAt := none }).raise Reg.THERM_STATUS Fld.THERM_STATUS_COMPUTE_OFF_LATE
    else s
  | none => s

def execComputeOffLate (s : State) : Out := .next (s.onLive .sensor (computeOffLate s))

/-- RESTART_HOLD_EXPIRY: the guard decides the restart, every used zone step is 8, and the stack leaves self-refresh for
its exit scrub (R404 step 1, R489). DESIGN CHOICE: log entry 70, so it does while DIE_WRST_ACK is high. -/
def restartExpiry (s : State) : State :=
  match s.therm.holdFrom with
  | some t0 =>
    if s.shutdown ∧ t0 + s.gf Reg.THERM_GUARD_CFG Fld.THERM_GUARD_CFG_RESTART_HOLD_MS * 1000000 ≤ s.clk.pkg then
      let t := (s.modTherm fun x => { x with holdFrom := none, restarting := true }).sf Reg.THERM_STATUS
        Fld.THERM_STATUS_RESTART_HOLD 0
      let t := (upto 6).foldl (fun t z => if t.zoneUsed z then t.setZstep z 8 else t) t
      s.wakingPcs.foldl (fun t p => t.selfRefreshExit p) t.setTstep
    else s
  | none => s

def execRestartHoldExpiry (s : State) : Out := .next (s.onLive .sensor (restartExpiry s))

/-- THERMAL_RESTART: once every PC has scrubbed, COMPUTE_OFF_REQ falls and admission resumes at step 8; a warm-reset
notice that waited begins now (R404, R501). The integrator lowers COMPUTE_OFF_ACK once the footprint runs again, and the table
has no row for that fall (R77). DESIGN CHOICE: log entry 21, it falls with COMPUTE_OFF_REQ. -/
def thermalRestart (s : State) : State :=
  let scrubbed := s.livePcs.all fun p => !s.bit (Reg.PC_REF_STATUS p) Fld.PC_REF_STATUS_SCRUB
  if s.shutdown ∧ s.therm.restarting ∧ !s.therm.due ∧ scrubbed then
    let t := (s.sf Reg.THERM_STATUS Fld.THERM_STATUS_SHUTDOWN 0).modTherm fun x => { x with restarting := false, offAt := none }
    let t := t.modPins fun p => { p with computeOffReq := false, computeOffAck := false }
    let t := (upto 64).foldl (fun t n => t.resumePc (pcFin n)) t
    let t := t.applyStep
    t.leaveIngress.resumeNotice
  else s

def execThermalRestart (s : State) : Out := .next (s.onLive .sensor (thermalRestart s))

/-! ### Column power (R480, R483, R484) -/

/-- L_s in 1/16,000 W: B × (1 − s × F) (R480). -/
def State.limitOf (s : State) (step : Nat) : Nat :=
  16 * s.gf Reg.THERM_BUDGET Fld.THERM_BUDGET_BUDGET_W * (1000 - step * s.gf Reg.THERM_BUDGET Fld.THERM_BUDGET_STEP_FRAC)

/-- C_s in 1/16 W, rounded down (R483). -/
def State.computeLimit (s : State) (step : Nat) : Nat :=
  (s.limitOf step - 16000 * s.gf Reg.THERM_BUDGET Fld.THERM_BUDGET_MEM_W) / 1000

/-- The compute report is stale: 10 ms of corrected oscillator time have passed since it was written (R484, R490). -/
def State.reportStale (s : State) : Bool := decide (s.therm.reportAt + 10000000 ≤ s.clk.raw)

/-- P_STEP. -/
def State.pStep (s : State) : Nat := s.gf Reg.THERM_STATUS Fld.THERM_STATUS_P_STEP

/-- POWER_WINDOW_END with the memory power of the window, in 1/16 W (R480, R484). -/
def powerWindow (mem : BitVec 16) (s : State) : State :=
  let no := s.clk.pkg / 100000
  if no ≤ s.therm.windowNo then s
  else
    let c := if s.reportStale then s.computeLimit s.stepNow else s.gf Reg.THERM_COMPUTE_W Fld.THERM_COMPUTE_W_POWER
    let p := min 65535 (mem.toNat + c)
    let t := (s.sf Reg.THERM_POWER Fld.THERM_POWER_COLUMN p).sf Reg.THERM_POWER Fld.THERM_POWER_MEM mem.toNat
    let k := s.pStep
    let half := 8 * s.gf Reg.THERM_BUDGET Fld.THERM_BUDGET_BUDGET_W * s.gf Reg.THERM_BUDGET Fld.THERM_BUDGET_STEP_FRAC
    let ws := (p :: s.therm.windows).take 10
    let low : Bool := ws.length = 10 ∧ ws.all fun w => decide (1000 * w ≤ s.limitOf k + half)
    let (k', ws') := if s.limitOf k < 1000 * p ∧ k < 8 then (k + 1, []) else if 0 < k ∧ low then (k - 1, []) else (k, ws)
    ((t.modTherm fun x => { x with windowNo := no, windows := ws' }).sf Reg.THERM_STATUS Fld.THERM_STATUS_P_STEP k').applyStep

def execPowerWindowEnd (mem : BitVec 16) (s : State) : Out := .next (s.onLive .sensor (powerWindow mem s))

/-- COMPUTE_POWER_WRITE (R484). -/
def computePower (v : Word) (s : State) : State :=
  (s.sf Reg.THERM_COMPUTE_W Fld.THERM_COMPUTE_W_POWER (natBits v.toNat 0 16)).modTherm fun t =>
    { t with reportAt := s.clk.raw, stale := false }

def execComputePowerWrite (v : Word) (s : State) : Out := .next (s.mgtWrite .sensor (computePower v s))

/-- COMPUTE_REPORT_STALE (R484). -/
def computeStale (s : State) : State :=
  if s.reportStale ∧ !s.therm.stale then
    (s.raise Reg.THERM_STATUS Fld.THERM_STATUS_COMPUTE_STALE).modTherm fun t => { t with stale := true }
  else s

def execComputeReportStale (s : State) : Out := .next (s.onLive .sensor (computeStale s))

/-! ### Thresholds (R477, R478, R482) -/

/-- Upper limit of CRITICAL: 110 °C for the stack, else 125 °C. -/
def critLimit (z : Nat) : Int := if z = 0 then 440 else 500

/-- The thresholds of every used zone keep their order (R478). -/
def State.thresholdsOk (s : State) : Bool :=
  (upto 6).all fun z => !s.zoneUsed z ||
    (decide (s.threshold z 0 ≤ s.threshold z 1) && ((upto 8).all fun k => decide (s.threshold z (k + 1) < s.threshold z (k + 2))) &&
      decide (s.threshold z 9 ≤ critLimit z) && decide (s.threshold z 10 ≤ s.threshold z 1 - s.hyst) &&
      decide (s.lowStop < s.lowTrain) && decide (s.lowTrain < s.threshold z 10))

/-- ADMIT_1 to ADMIT_8 do not increase with the step (R482). -/
def State.admitOk (s : State) : Bool := (upto 7).all fun k => decide (s.admitOf (k + 2) ≤ s.admitOf (k + 1))

/-- Writable bits of the words a threshold write names: 0 to 23 THERM_ZTHR_z_a, 24 THERM_LOW, 25 and 26 THERM_ADMIT. -/
def thrReg (k : Nat) : Nat × Nat :=
  if k < 24 then (Reg.THERM_ZTHR (k / 4) (k % 4), 0x3FFFFFFF)
  else if k = 24 then (Reg.THERM_LOW, 0xFFFFF) else (Reg.THERM_ADMIT (k - 25), 0x1F1F1F1F)

/-- A write that keeps every order takes effect; another is ignored and sets THR_REFUSED (R478, R482). -/
def State.orderedWrite (s : State) (off : Nat) (v : Word) : State :=
  let t := s.wr off v
  if t.thresholdsOk && t.admitOk then t else s.raise Reg.THERM_STATUS Fld.THERM_STATUS_THR_REFUSED

/-- THRESHOLD_WRITE (R478). -/
def execThresholdWrite (k : Fin 27) (v : Word) (s : State) : Out :=
  let (off, mask) := thrReg k
  .next (s.mgtWrite .sensor (s.orderedWrite off (v &&& BitVec.ofNat 32 mask)))

end Sys2Proof.Machine
end

