-- ==== Sys2Proof/Machine/Training.lean ====
section
/-! DEFINITION. Meanings of the rows on training, delays, margins and truing windows (16: R406 to R424; 04: R122 to R125). -/

namespace Sys2Proof.Machine

/-- Change what firmware keeps of ageing and repair. -/
def State.modAge (s : State) (f : Ageing → Ageing) : State := { s with age := f s.age }

/-! ### Delay registers (R406, R407) -/

/-- The delay, reference and lane-map registers of a PC by index: 0 to 37 PC_DLY_DQ_k, 38 to 57 PC_DLY_CA_k, 58 PC_VREF,
59 PC_LANE_MAP. -/
def dlyReg (p i : Nat) : Nat :=
  if i < 38 then Reg.PC_DLY_DQ p i else if i < 58 then Reg.PC_DLY_CA p (i - 38)
  else if i = 58 then Reg.PC_VREF p else Reg.PC_LANE_MAP p

/-- Bits of these registers that are not reserved. -/
def dlyMask (i : Nat) : Word :=
  if i < 38 then 0x03FF03FF#32 else if i < 58 then 0x3FF#32 else if i = 58 then 0xFFFFFF#32 else 0x3F3F1F00#32

/-- The words of a PC's delay, reference and lane-map registers. -/
def State.delays (s : State) (p : Nat) : List (Nat × Word) := (upto 60).map fun i => (dlyReg p i, s.rd (dlyReg p i))

/-- The kinds of edges: 0 receive delay, 1 transmit delay, 2 RD_VREF, 3 WR_VREF, 4 command/address delay. The centre of
a lane in a kind, as its register holds it. -/
def State.centre (s : State) (p kind lane : Nat) : Nat :=
  match kind with
  | 0 => s.gf (Reg.PC_DLY_DQ p lane) Fld.PC_DLY_DQ_RX_DLY
  | 1 => s.gf (Reg.PC_DLY_DQ p lane) Fld.PC_DLY_DQ_TX_DLY
  | 2 => s.gf (Reg.PC_VREF p) Fld.PC_VREF_RD_VREF
  | 3 => s.gf (Reg.PC_VREF p) Fld.PC_VREF_WR_VREF
  | _ => s.gf (Reg.PC_DLY_CA p lane) Fld.PC_DLY_CA_CA_DLY

/-- Set a centre. -/
def State.setCentre (s : State) (p kind lane v : Nat) : State :=
  match kind with
  | 0 => s.sf (Reg.PC_DLY_DQ p lane) Fld.PC_DLY_DQ_RX_DLY v
  | 1 => s.sf (Reg.PC_DLY_DQ p lane) Fld.PC_DLY_DQ_TX_DLY v
  | 2 => s.sf (Reg.PC_VREF p) Fld.PC_VREF_RD_VREF v
  | 3 => s.sf (Reg.PC_VREF p) Fld.PC_VREF_WR_VREF v
  | _ => s.sf (Reg.PC_DLY_CA p lane) Fld.PC_DLY_CA_CA_DLY v

/-- Largest value of a kind: a delay of 10 bits or a reference of 8. -/
def kindMax (kind : Nat) : Nat := if kind = 2 ∨ kind = 3 then 255 else 1023

/-- Firmware writes a delay, reference or lane-map register: before the PC's first grant, or in a truing window before
1,300 ns (R407, R418). -/
def delayWrite (p : Fin 64) (i : Nat) (v : Word) (s : State) : State :=
  let late : Bool := match s.pcs[p].truing with
    | some w => w.opened && decide (w.at_ + 1300 ≤ s.now (.pc p))
    | none => false
  if (!s.pcs[p].granted ∨ s.bit (Reg.PC_SCHED_STATUS p) Fld.PC_SCHED_STATUS_TRUING) ∧ !late then
    s.wr (dlyReg p i) (v &&& dlyMask i)
  else s.raise (Reg.PC_TRUE_STATUS p) Fld.PC_TRUE_STATUS_DLY_WRITE_REFUSED

/-- DELAY_REGISTER_WRITE (R407). -/
def execDelayRegisterWrite (p : Fin 64) (i : Fin 60) (v : Word) (s : State) : Out :=
  .next (s.onLive (.pc p) (delayWrite p i v s))

/-! ### Edges and margins (R410, R411, R424) -/

/-- The measured edges of a lane in a kind and layer group. -/
def State.edge (s : State) (p kind group lane : Nat) : Option (Nat × Nat) :=
  match s.margins.edges.find? fun e => e.pc = p ∧ e.kind = kind ∧ e.group = group ∧ e.lane = lane with
  | some e => e.run
  | none => (s.margins.usual[kind]?).getD none

/-- Set the edges of a lane in a kind and layer group. -/
def State.setEdge (s : State) (p kind group lane : Nat) (run : Option (Nat × Nat)) : State :=
  let rest := s.margins.edges.filter fun e => !(decide (e.pc = p) && decide (e.kind = kind) && decide (e.group = group) &&
    decide (e.lane = lane))
  { s with margins := { s.margins with
      edges := { pc := p, kind := kind, group := group, lane := lane, run := run } :: rest } }

/-- Highest low edge and lowest high edge of some runs; none when a run is missing. -/
def runBounds (l : List (Option (Nat × Nat))) : Option (Nat × Nat) :=
  l.foldl (fun a e => match a, e with
    | some (lo, hi), some (x, y) => some (max lo x, min hi y)
    | _, _ => none) (some (0, 1023))

/-- The centre of some runs: floor((L + H) / 2) (R411). -/
def runCentre (l : List (Option (Nat × Nat))) : Option Nat := (runBounds l).map fun b => (b.1 + b.2) / 2

/-- The margin of a run about a centre (R411). -/
def runMargin (c : Nat) (e : Nat × Nat) : Int := min ((c : Int) - e.1) ((e.2 : Int) - c)

/-- Lane carried by a spare of a PC, if it is in use: 0 and 1 MEM_p_SDQ, 2 MEM_p_SCA (R406, PC_LANE_MAP). -/
def State.spareFor (s : State) (p spare : Nat) : Option Nat :=
  let r := Reg.PC_LANE_MAP p
  match spare with
  | 0 => some (s.gf r Fld.PC_LANE_MAP_SDQ0_FOR) |>.filter (· ≠ 63)
  | 1 => some (s.gf r Fld.PC_LANE_MAP_SDQ1_FOR) |>.filter (· ≠ 63)
  | _ => some (s.gf r Fld.PC_LANE_MAP_SCA_FOR) |>.filter (· ≠ 31)

/-- Put a lane on a spare. -/
def State.setSpare (s : State) (p spare lane : Nat) : State :=
  let r := Reg.PC_LANE_MAP p
  match spare with
  | 0 => s.sf r Fld.PC_LANE_MAP_SDQ0_FOR lane
  | 1 => s.sf r Fld.PC_LANE_MAP_SDQ1_FOR lane
  | _ => s.sf r Fld.PC_LANE_MAP_SCA_FOR lane

/-- Data-group and command/address lanes in service: those that no spare carries, and the spares in use. -/
def State.dqLanes (s : State) (p : Nat) : List Nat :=
  let f := (s.spareFor p 0).toList ++ (s.spareFor p 1).toList
  ((upto 36).filter fun k => !f.contains k) ++ (if (s.spareFor p 0).isSome then [36] else []) ++
    (if (s.spareFor p 1).isSome then [37] else [])
def State.caLanes (s : State) (p : Nat) : List Nat :=
  ((upto 19).filter fun k => s.spareFor p 2 ≠ some k) ++ (if (s.spareFor p 2).isSome then [19] else [])

/-- The lowest free spare for data-group lanes, or for command/address lanes (R412, R419). -/
def State.freeSpare (s : State) (p : Nat) (ca : Bool) : Option Nat :=
  (if ca then [2] else [0, 1]).find? fun k => (s.spareFor p k).isNone

/-- Timing or voltage floor of a kind (FW_MARGIN_CFG). -/
def State.floorOf (s : State) (kind : Nat) : Nat :=
  if kind = 2 ∨ kind = 3 then s.gf Reg.FW_MARGIN_CFG Fld.FW_MARGIN_CFG_VFLOOR
  else s.gf Reg.FW_MARGIN_CFG Fld.FW_MARGIN_CFG_TFLOOR

/-- The smallest margin among lanes of some kinds in a layer group, with its lane; saturating at 0 and 255. A
command/address lane counts from 64. -/
def State.smallest (s : State) (p group : Nat) (l : List (Nat × Nat)) : Nat × Nat :=
  l.foldl (fun best e =>
    let m : Int := match s.edge p e.1 group e.2 with
      | some run => runMargin (s.centre p e.1 e.2) run
      | none => 0
    let m := min 255 m.toNat
    if m < best.1 then (m, if e.1 = 4 then 64 + e.2 else e.2) else best) (255, 255)

/-- tm and vm of a rank with their worst lanes (R424). -/
def State.tmOf (s : State) (rank : Nat) : Nat × Nat :=
  let p := rank % 64
  let dq := s.dqLanes p
  s.smallest p (rank / 64) ((dq.map fun k => (0, k)) ++ (dq.map fun k => (1, k)) ++ (s.caLanes p).map fun k => (4, k))
def State.vmOf (s : State) (rank : Nat) : Nat × Nat :=
  s.smallest (rank % 64) (rank / 64) ((s.dqLanes (rank % 64)).map fun k => (2, k))

/-- A rank is in service: in range, moving, or a target that carries data (PC_RANK_STATE). -/
def State.inService (s : State) (rank : Nat) : Bool := [0, 1, 3, 7].contains (s.rankState rank)

/-- A rank that has crossed its floor becomes a repair cause, once (R424). -/
def State.crossing (s : State) (rank : Nat) : State :=
  let low : Bool := (s.tmOf rank).1 < s.floorOf 0 ∨ (s.vmOf rank).1 < s.floorOf 2
  if low ∧ s.inService rank ∧ !s.age.crossed.contains rank then
    ((s.modAge fun a => { a with crossed := rank :: a.crossed }).cause rank 6).repairEvent
  else if !low then s.modAge fun a => { a with crossed := a.crossed.filter (· ≠ rank) } else s

/-! ### The repair section (R397, R428) -/

/-- CRC-32C, bit by bit. PRESUMED: Castagnoli's polynomial, reflected, with all ones before and after. -/
def crcByte (c : Nat) (b : Byte) : Nat :=
  (upto 8).foldl (fun c _ => c / 2 ^^^ (if c % 2 = 1 then 0x82F63B78 else 0)) (c ^^^ b.toNat)
def crc32c (l : List Byte) : Nat := (l.foldl crcByte 0xFFFFFFFF) ^^^ 0xFFFFFFFF

/-- Why firmware rejects a repair buffer: ARG1 of record 0x0069, none when it is accepted (R426, R428). -/
def repairFault (b : List Byte) (stack : Nat) : Option Nat :=
  let n (i k : Nat) : Nat := leNat (sliceBytes b i k)
  let len := n 68 4
  if n 0 4 ≠ 0x4C474B42 ∨ n 60 4 ≠ crc32c (sliceBytes b 0 60) then some 0
  else if n 4 2 ≠ 1 then some 3
  else if n 8 8 ≠ stack then some 2
  else if b.length < 80 + len ∨ n 64 1 ≠ 1 ∨ n 72 4 ≠ crc32c (sliceBytes b 80 len) then some 1
  else none

/-- What firmware reads from the bytes of a repair section, a free value (R426). -/
def RepairInfo.reading (b : List Byte) : RepairInfo :=
  let x := Config.repairReading b
  { held := x.1, reserve := x.2.1, unlaced := x.2.2.1, retired := x.2.2.2.1, redirs := x.2.2.2.2.1, lanes := x.2.2.2.2.2 }

/-- Take the repair section up, or reject it (R397, R428). `info` is what its bytes say, free where the command does not give
it. -/
def State.takeRepair (s : State) (info : Option RepairInfo) : State :=
  if !s.bit Reg.FW_BOOT_CTRL Fld.FW_BOOT_CTRL_LEDGER ∨ s.age.repair.isSome ∨
      s.bit Reg.FW_BOOT_STATUS Fld.FW_BOOT_STATUS_LEDGER_REJECTED then s
  else
    match repairFault s.age.ledger Config.stackId.toNat with
    | none => s.modAge fun a => { a with repair := some (info.getD (RepairInfo.reading a.ledger)) }
    | some k => (s.raise Reg.FW_BOOT_STATUS Fld.FW_BOOT_STATUS_LEDGER_REJECTED).logRec 0x0069 [1, k]

/-- Write the delays, references, lane maps and guard bands of the repair section (R415). -/
def State.restoreLanes (s : State) : State :=
  match s.age.repair with
  | some i => i.lanes.foldl (fun t (p, k, w) =>
      if k.val = 60 then t.modAge fun a => { a with guards := a.guards.set p (w.toNat % 16) }
      else t.wr (dlyReg p k) (w &&& dlyMask k)) s
  | none => s

/-! ### Bring-up training (R409 to R415) -/

/-- Settings of a sweep: 128 delay steps, or 64 reference steps (R410). -/
def sweepSteps (kind : Nat) : Nat := if kind = 2 ∨ kind = 3 then 64 else 128

/-- The first and last of the longest run of set bits among the `n` lowest, the first such run among equals (R410). -/
def longestRun (n w : Nat) : Option (Nat × Nat) :=
  ((upto n).foldl (fun (a : Option (Nat × Nat) × Option Nat) i =>
    if w.testBit i then
      let from_ := a.2.getD i
      (match a.1 with
        | some (lo, hi) => if hi - lo < i - from_ then some (from_, i) else some (lo, hi)
        | none => some (from_, i), some from_)
    else (a.1, none)) (none, none)).1

/-- The setting with which a sweep centred on `c` begins: consecutive settings that exist. -/
def sweepFrom (kind c : Nat) : Nat := min (kindMax kind + 1 - sweepSteps kind) (c - sweepSteps kind / 2)

/-- Index of the register that holds a lane's centre in a kind. -/
def centreReg (kind lane : Nat) : Nat := if kind < 2 then lane else if kind = 4 then 38 + lane else 58

/-- The setting on which the sweep of a lane is centred: that of the repair section, or the nominal one (R410, R415). -/
def State.sweepCentre (s : State) (p kind lane : Nat) : Nat :=
  let known := (s.age.repair.map fun i => i.lanes).getD []
  match known.find? fun e => decide (e.1.val = p ∧ e.2.1.val = centreReg kind lane) with
  | some (_, _, w) => match kind with
    | 0 => natBits w.toNat 16 10
    | 2 => natBits w.toNat 0 8
    | 3 => natBits w.toNat 8 8
    | _ => natBits w.toNat 0 10
  | none => (Config.nominal kind).toNat

/-- The edges that a lane's sweep finds about a centre (R410). -/
def runAbout (kind c : Nat) (w : Passes) : Option (Nat × Nat) :=
  (longestRun (sweepSteps kind) w.toNat).map fun e => (sweepFrom kind c + e.1, sweepFrom kind c + e.2)

/-- What a lane passes in a sweep. -/
def TrainRun.passes (r : TrainRun) (p kind group lane : Nat) : Passes :=
  match r.lanes.find? fun l => l.pc.val = p ∧ l.kind.val = kind ∧ l.group.val = group ∧ l.lane.val = lane with
  | some l => l.passes
  | none => r.usual.getD kind 0

/-- The edges of a lane in every layer group. -/
def State.runs (s : State) (r : TrainRun) (p kind lane : Nat) : List (Option (Nat × Nat)) :=
  (upto s.groups).map fun j => runAbout kind (s.sweepCentre p kind lane) (r.passes p kind j lane)

/-- The centre of a reference, which every lane of the PC shares: over the lanes that have a run in every group. -/
def State.vrefCentre (s : State) (r : TrainRun) (p kind : Nat) : Option Nat :=
  runCentre (((upto 38).filter fun k => (runBounds (s.runs r p kind k)).isSome).flatMap fun k => s.runs r p kind k)

/-- Write the centres of a PC (R411). -/
def State.writeCentres (s : State) (r : TrainRun) (p : Nat) : State :=
  let put (t : State) (kind lane : Nat) (c : Option Nat) : State := match c with
    | some v => t.setCentre p kind lane v
    | none => t
  let t := (upto 38).foldl (fun t k => put (put t 0 k (runCentre (s.runs r p 0 k))) 1 k (runCentre (s.runs r p 1 k))) s
  let t := (upto 20).foldl (fun t k => put t 4 k (runCentre (s.runs r p 4 k))) t
  put (put t 2 0 (s.vrefCentre r p 2)) 3 0 (s.vrefCentre r p 3)

/-- A lane fails training: a margin below its floor, or no passing run (R411). -/
def State.laneFails (s : State) (r : TrainRun) (p : Nat) (ca : Bool) (lane : Nat) : Bool :=
  (if ca then [4] else [0, 1, 2, 3]).any fun kind => (s.runs r p kind lane).any fun e => match e with
    | some run => decide (runMargin (s.centre p kind lane) run < s.floorOf kind)
    | none => true

/-- Give the failed lanes of a kind free spares in increasing number (R412). -/
def State.assignSpares (s : State) (p : Nat) (ca : Bool) (failed : List Nat) : State × Option Nat :=
  failed.foldl (fun (t, bad) lane => match t.freeSpare p ca with
    | some k => (t.setSpare p k lane, bad)
    | none => (t, bad.or (some lane))) (s, none)

/-- Train one PC: its centres, its spares, and the failed lane for which it would be unlaced, 255 for a strobe or clock
(R411, R412). -/
def State.trainPc (s : State) (r : TrainRun) (p : Nat) : State × Option Nat :=
  let t := s.writeCentres r p
  let (t, badDq) := t.assignSpares p false ((t.dqLanes p).filter fun k => k < 36 ∧ t.laneFails r p false k)
  let (t, badCa) := t.assignSpares p true ((t.caLanes p).filter fun k => k < 19 ∧ t.laneFails r p true k)
  let used := ((t.dqLanes p).filter fun k => 36 ≤ k ∧ t.laneFails r p false k) ++
    (t.caLanes p).filter fun k => k = 19 ∧ t.laneFails r p true k
  let confirm := (r.confirm.find? fun e => e.1.val = p).map fun e => e.2.val
  let strobe := if r.strobe.toNat.testBit p then some 255 else none
  (t, (((badDq.or badCa).or used.head?).or strobe).or confirm)

/-- Kinds and lanes of the register with an index. -/
def regKinds (i : Nat) : List (Nat × Nat) :=
  if i < 38 then [(0, i), (1, i)] else if i < 58 then [(4, i - 38)]
  else if i = 58 then (upto 38).flatMap fun k => [(2, k), (3, k)] else []

/-- What the sweeps of a training measure: the edges of each lane listed, of each whose sweep is centred on the repair section's
setting, and by kind of the others (R410, R415). -/
def State.sweepMargins (s : State) (r : TrainRun) : Margins :=
  let edge (p kind group lane : Nat) : Edge :=
    { pc := p, kind := kind, group := group, lane := lane,
      run := runAbout kind (s.sweepCentre p kind lane) (r.passes p kind group lane) }
  { usual := r.usual.zipIdx.map fun (w, kind) => runAbout kind (Config.nominal kind).toNat w,
    edges := (r.lanes.map fun l => edge l.pc l.kind l.group l.lane) ++
      ((s.age.repair.map fun i => i.lanes).getD []).flatMap fun e =>
        (regKinds e.2.1).flatMap fun k => (upto s.groups).map fun j => edge e.1 k.1 j k.2 }

/-- Train every PC that is in service at one rate. -/
def State.trainAll (s : State) (r : TrainRun) : State × List (Nat × Nat) :=
  let t := { s with margins := s.sweepMargins r }
  s.livePcs.foldl (fun (a : State × List (Nat × Nat)) (p : Fin 64) =>
    let x := a.1.trainPc r p.val
    (x.1, a.2 ++ x.2.toList.map fun k => (p.val, k))) (t, [])

/-- Add a guard band to TRCD, TRP and TWR of a PC (R432): a write of its timing registers, which keeps to the limits of the fields
and sets TIMING_CLAMPED as any write does (R106, R107). -/
def State.addGuard (s : State) (p g : Nat) : State :=
  let fs := [(Reg.PC_TIM_ROW p, Fld.PC_TIM_ROW_TRCD), (Reg.PC_TIM_ROW p, Fld.PC_TIM_ROW_TRP),
    (Reg.PC_TIM_COL p, Fld.PC_TIM_COL_TWR)]
  let t := fs.foldl (fun t e => t.sf e.1 e.2 (min 63 (t.gf e.1 e.2 + g))) s
  let low : Bool := decide (t.gf (Reg.PC_TIM_TURN p) Fld.PC_TIM_TURN_TRTW < trtwFloor t p)
  t.raiseIf (decide (0 < g) && (low || fs.any fun e => decide (63 < s.gf e.1 e.2 + g))) (Reg.PC_SCHED_STATUS p)
    Fld.PC_SCHED_STATUS_TIMING_CLAMPED

/-- Write the timing registers of a PC, each as any write of it (R105 to R107, R177), with its guard band (R104, R409). -/
def State.writeTiming (s : State) (r : TrainRun) (p : Fin 64) : State :=
  let regs : List TimReg := [.row, .col, .turn, .refresh]
  let t := regs.zipIdx.foldl (fun t (o, k) => timingWrite p o (r.timing.getD k (regReset (o.offset p))) t) s
  t.addGuard p (s.age.guards[p])

/-- Reserve count of PC_LACE; above 16 it counts as its reset value (R90). -/
def State.reserveCount (s : State) : Nat :=
  let k := s.gf Reg.PC_LACE Fld.PC_LACE_RESERVE
  if 16 < k then 4 else k

/-- Train at a rate, and at the next lower one while more ranks would be unlaced than the reserve holds; 6.4 GT/s is
kept (R413). Attempts are those at the rates 0 to 4. -/
def State.trainRates (s : State) (attempts : List TrainRun) : Nat → Nat → State × List (Nat × Nat) × Nat × TrainRun
  | fuel, rate =>
    let r := attempts.getD rate { usual := [], lanes := [], strobe := 0, confirm := [], timing := [],
                                    interval := none }
    let (t, bad) := s.trainAll r
    match fuel with
    | 0 => (t, bad, rate, r)
    | n + 1 => if s.reserveCount < bad.length * s.groups then s.trainRates attempts n (rate + 1) else (t, bad, rate, r)

/-- The RESULT of TRAIN_STACK: the stack's height and the PCs unlaced at training (R400). -/
def State.trainResult (s : State) : State :=
  let h := s.gf Reg.ID_CONFIG Fld.ID_CONFIG_STACK_HEIGHT
  s.chainUp (chainWord 7 false s.self (2 * 65536 + h + 256 * s.age.unlacedAt.length))

/-- The sweeps of a training, its registers, the start of refresh, logs and RESULT (R409 to R413). -/
def State.sweeps (s : State) (attempts : List TrainRun) : State :=
  let first := s.gf Reg.FW_BOOT_CTRL Fld.FW_BOOT_CTRL_RATE
  let first := if 4 < first then 0 else first
  let (t, bad, rate, r) := s.restoreLanes.trainRates attempts (4 - first) first
  let t := s.livePcs.foldl (fun t p => t.writeTiming r p) t
  let t := t.startRefresh
  let t := match r.interval with
    | some i => t.storeInterval i.toNat
    | none => t
  let t := t.sf Reg.FW_AGEING_STATUS Fld.FW_AGEING_STATUS_GUARD (t.age.guards.toList.foldl max 0)
  let t := bad.foldl (fun t e => t.logRec 0x0061 [e.1, e.2]) t
  let t := (upto 64).foldl (fun t n => t.settleCycles (pcFin n)) t
  let t := (t.logRec 0x0060 [rate, 0, bad.length]).modAge fun a =>
    { a with trained := true, waiting := false, rate := rate, unlacedAt := bad.map (·.1) }
  t.trainResult.setPhase 3

/-- The sweeps start once every used zone reads at or above LOW_TRAIN, outside a shutdown; else training waits and logs it
once (R414). -/
def State.sweepsOrWait (s : State) (attempts : List TrainRun) : State :=
  if s.trainWarm ∧ !s.shutdown then s.sweeps attempts
  else if s.age.waiting then s
  else (s.logRec 0x0060 [s.gf Reg.FW_BOOT_CTRL Fld.FW_BOOT_CTRL_RATE, 1, 0]).modAge fun a => { a with waiting := true }

/-! ### The marker check (R389, R402) -/

/-- The PCs that the marker check reads: all but those that the repair section calls unlaced. -/
def State.checkedPcs (s : State) : List (Fin 64) :=
  ((upto 64).map pcFin).filter fun p => !((s.age.repair.map fun i => i.unlaced.toNat.testBit p).getD false)

/-- On return from DIE_RST_N every PC leaves self-refresh, and every checked PC reads its marker and restores the true
code (R389, R402). No scrub runs here: the row health table is empty until replay, which owes it but after a clock loss whose
contents are lost (R173). CONTENTS_LOST is logged and, with the range report, reported to the captain. -/
def State.checkMarkers (s : State) : State :=
  let r := Reg.PC_MARK_STATUS
  if s.gf r Fld.PC_MARK_STATUS_RESULT ≠ 0 then s
  else
    let t := s.livePcs.foldl (fun t p => (t.leaveSelfRefresh p).resumePc p) s.restoreLanes
    let ps := s.checkedPcs
    let found := ps.map fun p => (p, t.findMarker p)
    let missing := (found.filter fun e => e.2.isNone).length
    let t := found.foldl (fun t e => match e.2 with
      | some (l, _) => (t.putBurst l (sliceBytes (t.stack.readBurst t.free l) 0 64) false).modPc e.1 fun c =>
          { c with marker := .invalid }
      | none => t) t
    let dirty : Bool := found.any fun e => match e.2 with
      | some (_, .markC1) => true
      | _ => false
    let result := if 0 < missing then 3 else if dirty then 2 else 1
    let t := (t.sf r Fld.PC_MARK_STATUS_RESULT result).sf r Fld.PC_MARK_STATUS_MISSING missing
    let t := t.modPwr fun w => { w with scrubDue := !(decide (result = 3) && w.clockLoss) }
    if result = 3 then
      ((upto 256).foldl (fun t k => t.loseRank k) t).logRec (0x8000 + Config.contentsLostCode.toNat) [missing]
    else t

/-! ### TRAIN_STACK (R3, R400, R409) -/

/-- An unsupported stack: PHASE FAULT, and the stack stays in self-refresh; the command is answered (R3, R399, R400). -/
def State.unsupported (s : State) : State :=
  (s.faultStop 2).trainResult

/-- The oldest taken CMD word with a code. -/
def State.takeCmd (s : State) (code : Nat) : Option (Nat × State) :=
  (s.takeWord true fun w => decide (cwKind w = 6) && decide (natBits (cwArg w) 16 7 = code)).map fun x =>
    (natBits (cwArg x.1) 0 16, x.2)

/-- The identification step: MEM_RESET_N is released, the stack names itself and gives its first reading; then, on a warm
return, the markers are checked, and the sweeps follow (R402, R409, R414, R476). `height` is 12 or 16 core dies of 48 Gb,
or anything else for an unsupported stack. -/
def State.identify (s : State) (height : Nat) (temp : BitVec 12) (ok : Bool) (info : Option RepairInfo)
    (attempts : List TrainRun) : State :=
  let t := (s.setPhase 2).modPins fun p => { p with memResetN := true }
  let t := (t.modSensor 32 fun x => { x with readAt := some s.clk.raw, streak := 0 }).readStack temp ok
  let t := { t with stack := { t.stack with height := height } }
  if height = 12 ∨ height = 16 then
    let t := (t.sf Reg.ID_CONFIG Fld.ID_CONFIG_STACK_HEIGHT height).sf Reg.ID_CONFIG Fld.ID_CONFIG_LAYER_GROUPS (height / 4)
    let t := t.takeRepair info
    (if s.pwr.warm then t.checkMarkers else t).sweepsOrWait attempts
  else t.unsupported

/-- TRAIN_STACK: an instance that has not had its GO is left out and answers nothing; one that has trained already, or stands in
PHASE FAULT, only answers (R395, R399, R400, R409). -/
def trainStack (height : BitVec 8) (temp : BitVec 12) (ok : Bool) (info : Option RepairInfo) (attempts : List TrainRun)
    (s : State) : State :=
  match s.takeCmd 2 with
  | some (_, t) =>
    if s.count = 0 then t
    else if s.pkg.goAt.isNone then t.raise Reg.FW_BOOT_STATUS Fld.FW_BOOT_STATUS_LEFT_OUT
    else if s.phase = 9 ∨ s.age.trained then t.trainResult
    else t.identify height.toNat temp ok info attempts
  | none => s

def execTrainStack (height : BitVec 8) (temp : BitVec 12) (ok : Bool) (info : Option RepairInfo)
    (attempts : List TrainRun) (s : State) : Out :=
  .next (s.onCore .upkeep (trainStack height temp ok info attempts s))

/-- TRAINING_WAIT_TEMPERATURE: training that waits goes on once it is warm enough (R414). -/
def execTrainingWaitTemperature (attempts : List TrainRun) (s : State) : Out :=
  .next (s.onCore .upkeep (s.when s.age.waiting (s.sweepsOrWait attempts)))

/-! ### Truing windows (R416 to R423) -/

/-- P in ns. -/
def State.truePeriod (s : State) : Nat := s.gf Reg.FW_TRUE_CFG Fld.FW_TRUE_CFG_PERIOD_MS * 1000000

/-- T of window w on PC p (R416). -/
def State.windowTime (s : State) (p w : Nat) : Nat :=
  w * s.truePeriod + p * s.truePeriod / 64 + s.self * s.truePeriod / 1024

/-- Number every PC's next window: the first that can still be armed. -/
def State.startWindows (s : State) : State :=
  s.modAge fun a => { a with windows := Vector.ofFn fun (p : Fin 64) =>
    let w := s.clk.pkg / max 1 s.truePeriod
    ((List.range 3).map (w + ·)).find? (fun k => decide (s.clk.pkg + 100000 ≤ s.windowTime p k)) |>.getD w }

/-- A PC is not trued: fenced, unlaced or unlacing, failed, or without a rank in service (R420, R422, R423). -/
def State.notTrued (s : State) (p : Fin 64) : Bool :=
  !s.live (.pc p) || (s.rd64 Reg.PC_UNLACING).testBit p || (s.rd64 Reg.PC_UNLACED).testBit p ||
    s.bit (Reg.PC_TRUE_STATUS p) Fld.PC_TRUE_STATUS_TRUE_FAILED || s.inbox.unlace.contains p ||
    !((upto s.groups).any fun j => s.inService (j * 64 + p))

/-- Why a window would be skipped: ARG1 of record 0x0065 (R414, R423). -/
def State.skipReason (s : State) (p : Fin 64) : Option Nat :=
  if s.notTrued p then some 2 else if s.shutdown then some 1 else if !s.trainWarm then some 0 else none

/-- Count a skipped window (R416). -/
def State.skipWindow (s : State) (p : Fin 64) (reason : Nat) : State :=
  (s.bumpSat (Reg.PC_TRUE_STATUS p) Fld.PC_TRUE_STATUS_SKIPPED).logRec 0x0065 [p, reason]

/-- The truing row of window w on G layer groups: its layer group, its bank as bank group × 4 + bank, and its row number
(R417). -/
def truingRow (w g : Nat) : Nat × Nat × Nat :=
  let g := max 1 g
  (w % g, w / g % 16, w / (16 * g) % 24576)

/-- The first burst of a half of a row, by its layer group, bank and row number (R417). -/
def halfAt (p : Nat) (x : Nat × Nat × Nat) (high : Bool) : Loc :=
  { rank := x.1 * 64 + p, bg := x.2.1 / 4, bank := x.2.1 % 4, row := x.2.2 % rowsPerBank, col := if high then 8 else 0 }

/-- Whether one of the 8 bursts that begin at a location is poisoned (R417, R436). -/
def State.halfPoisoned (s : State) (l : Loc) : Bool :=
  l.eight.any fun x => decide (decodeImage (s.stack.readBurst s.free x) = .poisoned)

/-- The reference bursts of a window: bursts 0 to 7 of its row, else 8 to 15, else those of the next row that has a half without
poison (R417). -/
def State.referenceAt (s : State) (p : Nat) (x : Nat × Nat × Nat) : Nat → Option Loc
  | 0 => none
  | n + 1 =>
    if !s.halfPoisoned (halfAt p x false) then some (halfAt p x false)
    else if !s.halfPoisoned (halfAt p x true) then some (halfAt p x true)
    else s.referenceAt p (x.1, x.2.1, (x.2.2 + 1) % rowsPerBank) n

/-- Arm a window in its PC island (R416). -/
def State.armWindow (s : State) (p : Fin 64) (t : Nat) (expedited : Bool) : State :=
  s.modPc p fun c => c.arm { at_ := t, expedited := expedited, opened := false, posted := false, done := false,
                             timedOut := false, no := s.age.windows[p], place := none, timing := (0, 0),
                             probes := none, saved := [] }

/-- A scheduled window is armed between 1 ms and 100 µs before its T; one whose arming time has passed is skipped
(R416). -/
def State.armScheduled (s : State) (p : Fin 64) : State :=
  let at_ := s.windowTime p s.age.windows[p]
  let t := s.modAge fun a => { a with windows := a.windows.set p (a.windows[p] + 1) }
  if s.clk.pkg + 1000000 < at_ then s
  else if at_ < s.clk.pkg + 100000 then t.skipWindow p 3
  else if s.pcs[p].truingNext.isSome then s
  else
    match s.skipReason p with
    | some k => t.skipWindow p k
    | none => { t with pcs := (s.armWindow p at_ false).pcs }

/-- Times near `t` at which windows of the stack are scheduled. -/
def State.windowTimes (s : State) (t : Nat) : List Nat :=
  let w := t / max 1 s.truePeriod
  (upto 64).flatMap fun p => [w - 1, w, w + 1].map fun k => s.windowTime p k

/-- The first time at least 10 µs ahead that lies at least 2 ms from any scheduled window of the stack (R421). -/
def State.expediteTime (s : State) : Option Nat :=
  let t0 := s.clk.pkg + 10000
  let l := s.windowTimes t0
  let free (x : Nat) : Bool := decide (t0 ≤ x) && l.all fun y => decide (y + 2000000 ≤ x ∨ x + 2000000 ≤ y)
  ((t0 :: l.map (· + 2000000)).filter free).min?

/-- An expedited window is armed and has not opened. -/
def Pc.expediteArmed (c : Pc) : Bool := (c.truing.toList ++ c.truingNext.toList).any fun w => w.expedited && !w.opened

/-- An expedited window of a PC with a suspect lane or parity events on two ranks (R421, R442). While one is armed, or two
windows stand, the request waits. -/
def State.armExpedited (s : State) (p : Fin 64) : State :=
  if s.pcs[p].expediteArmed ∨ s.pcs[p].truingNext.isSome then s
  else if !s.pcs[p].laneSuspect.isEmpty ∨ s.age.expedite.contains p.val then
    let t := (s.modPc p fun c => { c with laneSuspect := [] }).modAge fun a =>
      { a with expedite := a.expedite.filter (· ≠ p.val) }
    if !s.bit Reg.FW_TRUE_CFG Fld.FW_TRUE_CFG_EXPEDITE then t
    else
      match s.skipReason p, s.expediteTime with
      | some k, _ => t.skipWindow p k
      | none, some x => t.armWindow p x true
      | none, none => t
  else s

/-- TRUING_ARM, from READY onward while ENABLE is 1 (R416, R421). -/
def truingArm (p : Fin 64) (expedited : Bool) (s : State) : State :=
  if s.phase ≠ 8 ∨ !s.bit Reg.FW_TRUE_CFG Fld.FW_TRUE_CFG_ENABLE then s
  else if expedited then s.armExpedited p else s.armScheduled p

def execTruingArm (p : Fin 64) (expedited : Bool) (s : State) : Out :=
  .next (s.onCore .upkeep (truingArm p expedited s))

/-- TRUING_WINDOW_OPEN: at T grants and column commands stop, the cycles that follow close the rows, and TRUING is 1 (R122).
A shutdown forbids the window (R414). -/
def truingOpen (p : Fin 64) (s : State) : State :=
  match s.pcs[p].truing with
  | some w =>
    if w.opened ∨ s.now (.pc p) < w.at_ then s
    else if s.shutdown then (s.modPc p Pc.disarm).skipWindow p 1
    else
      (s.modPc p fun c =>
        { c with truing := some { w with opened := true, saved := s.delays p,
                                         place := s.referenceAt p (truingRow w.no s.groups) rowsPerBank,
                                         timing := (s.rd (Reg.PC_TIM_ROW p), s.rd (Reg.PC_TIM_COL p)) } }).raise
        (Reg.PC_SCHED_STATUS p) Fld.PC_SCHED_STATUS_TRUING
  | none => s

def execTruingWindowOpen (p : Fin 64) (s : State) : Out := .next (s.onLive (.pc p) (truingOpen p s))

/-- TRUING_PROBES_POSTED, 1,000 ns after T (R417). -/
def probesPosted (p : Fin 64) (r : Probes) (s : State) : State :=
  match s.pcs[p].truing with
  | some w =>
    if w.opened ∧ !w.posted ∧ w.at_ + 1000 ≤ s.now (.pc p) then
      s.modPc p fun c => { c with truing := some { w with posted := true, probes := some r } }
    else s
  | none => s

def execTruingProbesPosted (p : Fin 64) (r : Probes) (s : State) : Out := .next (s.onLive (.pc p) (probesPosted p r s))

/-- The floor probes of a kind of those a window probes. -/
def Probes.floor (r : Probes) (kind : Nat) : FloorProbe :=
  match kind with
  | 0 => r.rx
  | 1 => r.tx
  | 2 => r.vref
  | _ => r.ca

/-- Kinds of a lane's floor probes. -/
def laneKinds (ca : Bool) : List Nat := if ca then [4] else [0, 1, 2]

/-- Row 1 of the outcome table: both floor probes of a kind fail, or the reference read fails (R419). -/
def Probes.laneFailed (r : Probes) (ca : Bool) (lane : Nat) : Bool :=
  (!ca && r.reference.toNat.testBit lane) || (laneKinds ca).any fun k =>
    (r.floor k).low.toNat.testBit lane && (r.floor k).high.toNat.testBit lane

/-- Row 2: the kinds of which one floor probe fails, and whether it is the high one. -/
def Probes.oneSide (r : Probes) (ca : Bool) (lane : Nat) : List (Nat × Bool) :=
  (laneKinds ca).filterMap fun k =>
    if (r.floor k).low.toNat.testBit lane then some (k, false)
    else if (r.floor k).high.toNat.testBit lane then some (k, true) else none

/-- The tracked edge of window w on G layer groups: its kind, whether it is the high one, and its layer group (R417). -/
def trackedEdge (w g : Nat) : Nat × Bool × Nat :=
  let e := w / max 1 g % 8
  ((if e / 2 = 3 then 4 else e / 2), decide (e % 2 = 1), w % max 1 g)

/-- Move one side of a run. -/
def moveEdge (run : Nat × Nat) (high : Bool) (v : Nat) : Nat × Nat := if high then (run.1, v) else (v, run.2)

/-- Row 2 of the outcome table for one kind of a lane: the centre moves one step away from the failing side, and the edge
on that side is set to centre ± (floor − 1) (R419). The centre of RD_VREF, which the lanes of the PC share, is left to
`shareCentre`. -/
def State.stepCentre (s : State) (p lane group kind : Nat) (high : Bool) : State :=
  let c := s.centre p kind lane
  let f := s.floorOf kind - 1
  let run := (s.edge p kind group lane).getD (c - f, min (kindMax kind) (c + f))
  let t := s.setEdge p kind group lane (some (moveEdge run high (if high then min (kindMax kind) (c + f) else c - f)))
  if kind = 2 then t else t.setCentre p kind lane (if high then c - 1 else min (kindMax kind) (c + 1))

/-- The centre of lanes as their edges give it (R411), written where it differs. -/
def State.recompute (s : State) (p kind lane : Nat) (lanes : List Nat) : State :=
  match runCentre (lanes.flatMap fun k => (upto s.groups).map fun j => s.edge p kind j k) with
  | some c => if c = s.centre p kind lane then s else s.setCentre p kind lane c
  | none => s

/-- Row 3: the tracked edge moves outward or inward, and the centre is recomputed (R411, R419); that of RD_VREF in
`shareCentre`. -/
def State.trackEdge (s : State) (r : Probes) (p w : Nat) (ca : Bool) (lane : Nat) : State :=
  let (kind, high, group) := trackedEdge w s.groups
  if decide (kind = 4) ≠ ca then s
  else
    match s.edge p kind group lane with
    | none => s
    | some run =>
      let v := if high then run.2 else run.1
      let out := if high then min (kindMax kind) (v + 1) else v - 1
      let inn := if high then v - 1 else v + 1
      let v' := if !r.outside.toNat.testBit lane then out else if r.atEdge.toNat.testBit lane then inn else v
      let t := s.setEdge p kind group lane (some (moveEdge run high v'))
      if kind = 2 then t else t.recompute p kind lane [lane]

/-- RD_VREF, one centre for every data-group lane of the PC, moves once in a window: one step away from the failing side of
the lanes in service that fail one of its floor probes, else to where their edges put it when it is the tracked kind
(R411, R419). DESIGN CHOICE: log entry 105, of lanes that fail on opposite sides the lowest decides. -/
def State.shareCentre (s : State) (r : Probes) (p w : Nat) : State :=
  let lanes := (s.dqLanes p).filter fun k => !r.laneFailed false k
  let c := s.centre p 2 0
  match (lanes.flatMap fun k => (r.oneSide false k).filter fun e => e.1 = 2).head? with
  | some (_, high) => s.setCentre p 2 0 (if high then c - 1 else min (kindMax 2) (c + 1))
  | none => if (trackedEdge w s.groups).1 = 2 then s.recompute p 2 0 (s.dqLanes p) else s

/-- Replace a lane by a spare (R419). -/
def State.swapLane (s : State) (p lane spare : Nat) (projected : Bool) : State :=
  ((s.setSpare p spare lane).logRec 0x0063 [p, lane, spare, if projected then 1 else 0]).repairEvent

/-- Rows 2 and 3 of the outcome table for one lane (R419). -/
def State.recentre (s : State) (r : Probes) (p w : Nat) (ca : Bool) (lane : Nat) : State :=
  match r.oneSide ca lane with
  | [] => s.trackEdge r p w ca lane
  | l => l.foldl (fun t (k, high) => t.stepCentre p lane (w % max 1 s.groups) k high) s

/-- The outcome of a window for one lane; the state, and the lane for which the window has failed (R419, R420). A spare in
use that fails has no other. -/
def State.laneOutcome (s : State) (r : Probes) (p w : Nat) (ca : Bool) (lane : Nat) : State × Option Nat :=
  if r.laneFailed ca lane then
    match (if lane < (if ca then 19 else 36) then s.freeSpare p ca else none) with
    | some k => (s.swapLane p lane k false, none)
    | none => (s, some lane)
  else (s.recentre r p w ca lane, none)

/-- Unused spares carry a copy of another lane and are tracked like lanes in service; one that fails is in no use
(R408). -/
def State.trackSpares (s : State) (r : Probes) (p w : Nat) : State :=
  (upto 3).foldl (fun t k =>
    let ca : Bool := k = 2
    let lane := if ca then 19 else 36 + k
    if (t.spareFor p k).isSome || r.laneFailed ca lane then t else t.recentre r p w ca lane) s

/-- A strobe or a clock has failed: every lane of a strobe group of 19, or every command/address setting (R420). -/
def Probes.strobeFailed (r : Probes) (ca : List Nat) : Bool :=
  ((upto 19).all fun k => r.laneFailed false k) || ((upto 19).all fun k => r.laneFailed false (19 + k)) ||
    ca.all fun k => r.laneFailed true k

/-- The outcome of one more lane of a window. -/
def decideLane (r : Probes) (p w : Nat) (ca : Bool) (a : State × Option Nat) (lane : Nat) : State × Option Nat :=
  let o := a.1.laneOutcome r p w ca lane
  (o.1, a.2.or o.2)

/-- All outcomes of a window. -/
def State.decideLanes (s : State) (r : Probes) (p w : Nat) : State × Option Nat :=
  let strobe := if r.strobeFailed (s.caLanes p) then some 255 else none
  let a := (s.dqLanes p).foldl (decideLane r p w false) (s, strobe)
  let b := (s.caLanes p).foldl (decideLane r p w true) a
  ((b.1.shareCentre r p w).trackSpares r p w, b.2)

/-- Lanes that projection replaces in this window, each by one spare (R432). -/
def State.swapProjected (s : State) (p : Nat) : State :=
  let mine := s.age.swap.filter fun e => e.1 = p
  let t := s.modAge fun a => { a with swap := a.swap.filter fun e => e.1 ≠ p, swapped := a.swapped ++ mine.map (·.2.2) }
  mine.foldl (fun t e =>
    let ca : Bool := 64 ≤ e.2.1
    let serving := if ca then t.caLanes p else t.dqLanes p
    match t.freeSpare p ca with
    | some k => if serving.contains (e.2.1 % 64) then t.swapLane p (e.2.1 % 64) k true else t
    | none => t) t

/-- A window has failed to re-centre the PC: the unlacing request and record 0x0064; the delays of the last passing
confirmation stay (R420). -/
def State.truingFailed (s : State) (p : Fin 64) (lane : Nat) : State :=
  ((s.raise (Reg.PC_TRUE_STATUS p) Fld.PC_TRUE_STATUS_TRUE_FAILED).logRec 0x0064 [p, lane]).modInbox fun b =>
    { b with unlace := b.unlace ++ [p.val] }

/-- Guard band in force, which each PC adds to its timing at its next window (R432). -/
def State.guardInForce (s : State) : Nat := s.gf Reg.FW_AGEING_STATUS Fld.FW_AGEING_STATUS_GUARD

/-- TRUING_DONE: the upkeep core writes the delays its outcomes give, and the confirmation shows them right or names a
lane that fails (R417 to R420). -/
def truingDone (p : Fin 64) (confirm : Option (Fin 38)) (s : State) : State :=
  match s.pcs[p].truing with
  | some w =>
    match w.probes with
    | some r =>
      if w.opened ∧ !w.done ∧ !w.timedOut ∧ s.now (.pc p) < w.at_ + 1300 then
        let (t, bad) := s.decideLanes r p w.no
        let t := t.swapProjected p
        let moved := ((s.delays p).zip (t.delays p)).filter fun e => e.1 ≠ e.2
        let done (u : State) : State := u.modPc p fun c => { c with truing := some { w with done := true } }
        match bad.or (confirm.map (·.val)) with
        | some lane => done (s.truingFailed p lane)
        | none =>
          let g := s.guardInForce
          let t := if s.age.guards[p] < g then
              (t.addGuard p (g - s.age.guards[p])).modAge fun a => { a with guards := a.guards.set p g } else t
          let t := if moved.isEmpty then t else t.logRec 0x0062 [p, moved.length]
          done ((upto s.groups).foldl (fun u j => u.crossing (j * 64 + p)) t)
      else s
    | none => s
  | none => s

def execTruingDone (p : Fin 64) (confirm : Option (Fin 38)) (s : State) : Out :=
  .next (s.onCore .upkeep (truingDone p confirm s))

/-- TRUING_DONE_TIMEOUT (R418). -/
def truingDoneTimeout (p : Fin 64) (s : State) : State :=
  match s.pcs[p].truing with
  | some w =>
    if w.opened ∧ !w.done ∧ !w.timedOut ∧ w.at_ + 1300 ≤ s.now (.pc p) then
      (s.restoreDelays w).modPc p fun c => { c with truing := some { w with timedOut := true } }
    else s
  | none => s

def execTruingDoneTimeout (p : Fin 64) (s : State) : Out := .next (s.onLive (.pc p) (truingDoneTimeout p s))

/-- The controller takes the buses back with every row closed; the banks that owe a refresh come before anything else
(R122, R124). -/
def Pc.windowOver (c : Pc) : Pc :=
  let c := c.closeAll.disarm
  ({ c with owing := (upto 64).filter c.owes } : Pc).engineClaims

/-- TRUING_WINDOW_END: 1,600 ns after T (R122, R124). -/
def truingEnd (p : Fin 64) (s : State) : State :=
  match s.pcs[p].truing with
  | some w =>
    if w.opened ∧ w.at_ + 1600 ≤ s.now (.pc p) then
      let t := (if w.done ∨ w.timedOut then s else s.restoreDelays w).keepReference w
      ((t.modPc p Pc.windowOver).sf (Reg.PC_SCHED_STATUS p) Fld.PC_SCHED_STATUS_TRUING 0).bump (Reg.PC_TRUE_STATUS p) Fld.PC_TRUE_STATUS_WINDOWS
    else s
  | none => s

def execTruingWindowEnd (p : Fin 64) (s : State) : Out := .next (s.onLive (.pc p) (truingEnd p s))

/-! ### Lanes with corrected errors and the configuration (R421, R435) -/

/-- LANE_CE_WINDOW: a new one-second window starts with the limit last written (R435). -/
def laneCeWindow (p : Fin 64) (s : State) : State :=
  let k := s.now (.pc p) / 1000000000
  if s.pcs[p].ceWindow < k then
    s.modPc p fun c => { c with ceWindow := k, laneCe := Vector.replicate 36 0, ceLimit := c.ceNext }
  else s

def execLaneCeWindow (p : Fin 64) (s : State) : Out := .next (s.onLive (.pc p) (laneCeWindow p s))

/-- What a write of FW_TRUE_CFG leaves: each field at the nearer limit of its range. -/
def trueCfgWord (v : Word) : Word :=
  let n := v.toNat
  BitVec.ofNat 32 (natBits n 30 2 * 2 ^ 30 + max 1 (natBits n 16 8) * 2 ^ 16 + max 256 (natBits n 0 16))

/-- FW_TRUE_CFG_WRITE: firmware copies LANE_CE_LIMIT into every PC, and the schedule goes on with the period written, or from
now on when windows are enabled again (R416, R435). -/
def trueCfg (v : Word) (s : State) : State :=
  let t := s.wr Reg.FW_TRUE_CFG (trueCfgWord v)
  let n := t.gf Reg.FW_TRUE_CFG Fld.FW_TRUE_CFG_LANE_CE_LIMIT
  let t := { t with pcs := t.pcs.map fun (c : Pc) => { c with ceNext := n } }
  let same : Bool := decide (s.truePeriod = t.truePeriod) && (s.bit Reg.FW_TRUE_CFG Fld.FW_TRUE_CFG_ENABLE || !v.getLsbD 31)
  if same then t else t.startWindows

def execFwTrueCfgWrite (v : Word) (s : State) : Out := .next (s.emuWrite Reg.FW_TRUE_CFG v (some (trueCfg v s)))

end Sys2Proof.Machine
end

