-- ==== Sys2Proof/Machine/Ledger.lean ====
section
/-! DEFINITION. Meanings of the rows on process monitors, margin history, re-planning and ledger snapshots (16: R425 to
R432). -/

namespace Sys2Proof.Machine

/-! ### Process monitors (R425) -/

/-- Sort by insertion. -/
def insertBy {α : Type} (le : α → α → Bool) (x : α) : List α → List α
  | [] => [x]
  | y :: r => if le x y then x :: y :: r else y :: insertBy le x r
def sortBy {α : Type} (le : α → α → Bool) : List α → List α
  | [] => []
  | x :: r => insertBy le x (sortBy le r)

/-- The drift D in 0.01 % from readings and baselines: the median of the 48 values 1 − f / f0, which is the mean of the two
in the middle, rounded down; a negative one counts as 0 (R425). -/
def driftOf (f f0 : List Nat) : Nat :=
  let d : List (Int × Nat) := (f.zip f0).map fun (a, b) => ((b : Int) - a, max 1 b)
  let l := sortBy (fun (x y : Int × Nat) => decide (x.1 * y.2 ≤ y.1 * x.2)) d
  let a := l.getD ((l.length - 1) / 2) (0, 1)
  let b := l.getD (l.length / 2) (0, 1)
  ((a.1 * b.2 + b.1 * a.2) * 5000 / ((a.2 : Int) * b.2)).toNat

/-- D. -/
def State.drift (s : State) : Nat := s.gf Reg.FW_AGEING_DRIFT Fld.FW_AGEING_DRIFT_D

/-- MONITOR_READ: the 48 frequencies in kHz, corrected to 25 °C. Without baselines they become the baselines (R425). -/
def monitorRead (f : List (BitVec 32)) (s : State) : State :=
  let f := f.map (·.toNat)
  if s.age.baselines.isEmpty then
    (s.modAge fun a => { a with baselines := f }).sf Reg.FW_AGEING_DRIFT Fld.FW_AGEING_DRIFT_D 0
  else s.sf Reg.FW_AGEING_DRIFT Fld.FW_AGEING_DRIFT_D (min 65535 (driftOf f s.age.baselines))

def execMonitorRead (f : List (BitVec 32)) (s : State) : Out := .next (s.onCore .steward (monitorRead f s))

/-! ### Projection (R431) -/

/-- The horizon of points (day, margin) against a floor, oldest first, none for unbounded (R431). -/
def horizonOf (l : List (Nat × Nat)) (floor today : Nat) : Option Nat :=
  let l := l.filter fun e => today ≤ e.1 + 180
  let xs := l.map fun e => (e.1 : Int)
  let ys := l.map fun e => (e.2 : Int)
  let n : Int := l.length
  let first := xs.headD 0
  let last := xs.getLastD 0
  if n < 4 ∨ last - first < 21 then none
  else
    let sx := xs.sum
    let sy := ys.sum
    let sxx := n * (xs.map fun x => x * x).sum - sx * sx
    let sxy := n * ((xs.zip ys).map fun e => e.1 * e.2).sum - sx * sy
    if 0 ≤ sxy then none
    else some (((sy - n * floor) * sxx + sxy * (n * last - sx)) / (n * (-sxy))).toNat

/-- The horizon of a rank: the smaller of those of tm and vm, and whether vm sets it; 65,535 for unbounded. -/
def State.horizon (s : State) (rank : Nat) : Nat × Bool :=
  let l := s.age.points.filter fun p => p.rank = rank
  let t := min 65535 ((horizonOf (l.map fun p => (p.day, p.tm)) (s.floorOf 0) s.serviceDay).getD 65535)
  let v := min 65535 ((horizonOf (l.map fun p => (p.day, p.vm)) (s.floorOf 2) s.serviceDay).getD 65535)
  if v < t then (v, true) else (t, false)

/-- Ranks of the stack, and those in service. -/
def State.ranks (s : State) : List Nat := upto (64 * s.groups)
def State.serviceRanks (s : State) : List Nat := s.ranks.filter s.inService

/-- Show the shortest horizon of the ranks in service (R431). -/
def State.showHorizon (s : State) : State :=
  let best := s.serviceRanks.foldl (fun (m : Nat × Nat) r => let h := (s.horizon r).1; if h < m.1 then (h, r) else m) (65535, 0)
  (s.sf Reg.FW_AGEING_STATUS Fld.FW_AGEING_STATUS_HORIZON_D best.1).sf Reg.FW_AGEING_STATUS
    Fld.FW_AGEING_STATUS_WORST_RANK best.2

/-! ### Re-planning (R432) -/

/-- HORIZON_D of FW_MARGIN_CFG. -/
def State.horizonD (s : State) : Nat := s.gf Reg.FW_MARGIN_CFG Fld.FW_MARGIN_CFG_HORIZON_D

/-- The worst lane of a rank by the margin that sets its horizon. -/
def State.worstLane (s : State) (rank : Nat) (v : Bool) : Nat :=
  match (s.age.points.filter fun p => p.rank = rank).getLast? with
  | some p => if v then p.vLane else p.tLane
  | none => 255

/-- Rows 1 and 2 for one rank: a free spare replaces its worst lane in the next window, and where none is free, the lane is
itself a spare, or the horizon is still short after that, rebinding is requested. -/
def State.planRank (s : State) (rank : Nat) : State :=
  let (h, v) := s.horizon rank
  if s.horizonD ≤ h then s
  else
    let p := rank % 64
    let lane := s.worstLane rank v
    if s.age.swap.any fun e => e.2.2 = rank then s
    else if (s.freeSpare p (decide (64 ≤ lane ∧ lane < 84))).isSome ∧ (lane < 36 ∨ 64 ≤ lane ∧ lane < 83) ∧ !s.age.swapped.contains rank then
      s.modAge fun a => { a with swap := a.swap ++ [(p, lane, rank)] }
    else if s.bit Reg.FW_AGEING_CFG Fld.FW_AGEING_CFG_PREEMPT ∧ !s.age.preempt.contains rank then
      (s.modAge fun a => { a with preempt := a.preempt ++ [rank] }).logRec 0x0066 [rank, h]
    else s

/-- Row 3: new pre-emptive requests raise cause 7, or the unlacing of a PC all of whose ranks in service are requested. -/
def State.planRequests (s : State) (before : List Nat) : State :=
  let fresh := s.age.preempt.filter fun r => !before.contains r
  let whole (p : Nat) : Bool := (s.serviceRanks.filter fun r => r % 64 = p).all s.age.preempt.contains
  let t := ((fresh.map (· % 64)).eraseDups.filter whole).foldl (fun t p =>
    t.modInbox fun b => { b with unlace := b.unlace ++ [p] }) s
  (fresh.filter fun r => !whole (r % 64)).foldl (fun t r => t.cause r 7) t

/-- Row 4: the guard band rises with the drift, up to GUARD_MAX; each PC takes it at its next window. -/
def State.planGuard (s : State) : State :=
  let g := min (s.gf Reg.FW_AGEING_CFG Fld.FW_AGEING_CFG_GUARD_MAX) (s.drift / 100)
  if s.guardInForce < g then
    (s.sf Reg.FW_AGEING_STATUS Fld.FW_AGEING_STATUS_GUARD g).logRec 0x0067 [g, s.drift]
  else s

/-- Row 6: a WATCH row without an error for 180 service days is freed; LAST_EVENT counts 2^30 ns in 24 bits (R161). -/
def freeWatch (now : Nat) (e : RowEntry) : RowEntry :=
  if e.valid ∧ e.cls = 0 ∧ 180 * 86400 * 1000000000 ≤ (eventTime now + 2 ^ 24 - e.lastEvent) % 2 ^ 24 * 2 ^ 30 then RowEntry.none
  else e

def State.planRows (s : State) : State :=
  { s with pcs := s.pcs.map fun (c : Pc) =>
      { c with rowh := (c.rowh.map fun e => (e.1, freeWatch s.clk.pkg e.2)).filter fun e => e.2 ≠ RowEntry.none } }

/-- Re-planning, after each history point and after replay (R432). -/
def State.replan (s : State) : State :=
  let t := s.serviceRanks.foldl (fun t r => t.planRank r) s
  ((t.planRequests s.age.preempt).planGuard.planRows).showHorizon

/-! ### History (R427) -/

/-- Append a point to a rank's record of 32. -/
def addPoint (l : List Point) (p : Point) : List Point :=
  let mine := l.filter fun x => x.rank = p.rank
  (l.filter fun x => x.rank ≠ p.rank) ++ mine.drop (mine.length - 31) ++ [p]

/-- One history point of every rank. -/
def State.appendPoints (s : State) : State :=
  let day := s.serviceDay
  let pts := s.ranks.map fun r =>
    let t := s.tmOf r
    let v := s.vmOf r
    ({ rank := r, day := day, tm := t.1, vm := v.1, tLane := t.2, vLane := v.2 } : Point)
  s.modAge fun a => { a with points := pts.foldl addPoint a.points, pointDay := some day }

/-- HISTORY_POINT: at each start, and every REC_DAYS service days (R427). -/
def historyPoint (s : State) : State :=
  let due : Bool := match s.age.pointDay with
    | none => true
    | some d => decide (d + s.gf Reg.FW_AGEING_CFG Fld.FW_AGEING_CFG_REC_DAYS ≤ s.serviceDay)
  if due ∧ s.phase = 8 then s.appendPoints.replan else s

def execHistoryPoint (s : State) : Out := .next (s.onCore .upkeep (historyPoint s))

/-! ### The ledger's bytes (R426) -/

/-- A section with its header, padded to a multiple of 64 bytes. -/
def sectionBytes (id : Nat) (b : List Byte) : List Byte :=
  let h := leBytes 1 id ++ zeros 3 ++ leBytes 4 b.length ++ leBytes 4 (crc32c b) ++ zeros 4
  h ++ b ++ zeros ((64 - (16 + b.length) % 64) % 64)

/-- The 64 bits of a row health entry (R161). -/
def RowEntry.word (e : RowEntry) : Nat :=
  (if e.valid then 2 ^ 63 else 0) + e.cls * 2 ^ 60 + e.layer * 2 ^ 58 + e.bg * 2 ^ 56 + e.bank * 2 ^ 54 + e.row * 2 ^ 39 +
    e.ceCount * 2 ^ 31 + e.retMs * 2 ^ 24 + e.lastEvent

/-- The entry of 64 bits (R161). -/
def RowEntry.ofWord (x : Nat) : RowEntry :=
  { valid := x.testBit 63, cls := natBits x 60 3, layer := natBits x 58 2, bg := natBits x 56 2, bank := natBits x 54 2,
    row := natBits x 39 15, ceCount := natBits x 31 8, retMs := natBits x 24 7, lastEvent := natBits x 0 24 }

/-- Service day of a row's last event, from its age. -/
def State.eventDay (s : State) (e : RowEntry) : Nat :=
  (s.serviceNow - (eventTime s.clk.pkg + 2 ^ 24 - e.lastEvent) % 2 ^ 24 * 2 ^ 30 / 1000000000) / 86400

/-- ROW_HEALTH: every valid entry in index order. -/
def State.rowSection (s : State) : List Byte :=
  s.pcs.toList.flatMap fun c => c.rowh.flatMap fun e =>
    if e.2.valid then leBytes 8 ({ e.2 with lastEvent := s.eventDay e.2 }).word else []

/-- A history point (R426). -/
def Point.bytes (p : Point) : List Byte :=
  leBytes 8 (p.day + p.tm * 2 ^ 16 + p.vm * 2 ^ 24 + p.tLane * 2 ^ 32 + p.vLane * 2 ^ 40)

/-- MARGIN: 32 points for each rank; the spec does not state the bytes of a point that a record does not hold yet. -/
def State.marginSection (s : State) : List Byte :=
  s.ranks.flatMap fun r =>
    let l := s.age.points.filter fun p => p.rank = r
    (l.flatMap Point.bytes) ++ (upto (256 - 8 * l.length)).map fun i => Config.undefinedByte s.free (256 * r + i)

/-- DRIFT: the baselines and the last D, in 4 bytes each. -/
def State.driftSection (s : State) : List Byte := s.age.baselines.flatMap (leBytes 4) ++ leBytes 4 s.drift

/-- What REPAIR holds, in the order of R426: held mask, reserve count, unlaced-PC mask, retired ranks, redirects with their
watermarks, and per PC the lane map, the delays, PC_VREF and the guard band. -/
def State.repairContents (s : State) : List Nat :=
  let retired := s.ranks.foldl (fun m r => if s.rankState r = 2 ∨ s.rankState r = 3 then natSetBits m r 1 1 else m) 0
  [s.rd64 Reg.PC_HELD_MASK, s.reserveCount, s.rd64 Reg.PC_UNLACED, retired] ++ ((upto 16).map fun e => s.rd64 (Reg.PC_REDIR e)) ++
    (upto 64).flatMap fun p => (s.delays p).map (fun e => e.2.toNat) ++ [s.age.guards[pcFin p]]

/-- What PLAN holds, in the order of R426: the guard band in force, the horizon of each rank, the pending pre-emptive requests, and
the last retention results. -/
def State.planContents (s : State) : List Nat :=
  [s.guardInForce] ++ (s.ranks.map fun r => (s.horizon r).1) ++ s.age.preempt ++
    s.age.results.flatMap fun e => [e.1, e.2.1, e.2.2.1, e.2.2.2]

/-- The whole ledger after its header; the layout of REPAIR and PLAN is free (R426). -/
def State.ledgerBody (s : State) : List Byte :=
  sectionBytes 1 (Config.sectionLayout 1 s.repairContents) ++ sectionBytes 2 s.rowSection ++ sectionBytes 3 s.marginSection ++ sectionBytes 4 s.driftSection ++
    sectionBytes 5 (Config.sectionLayout 5 s.planContents)

/-- The ledger header (R426). -/
def State.ledgerHeader (s : State) (gen : Nat) (body : List Byte) : List Byte :=
  let h := leBytes 4 0x4C474B42 ++ leBytes 2 1 ++ leBytes 2 5 ++ leBytes 8 Config.stackId.toNat ++ leBytes 4 gen ++
    leBytes 4 ((64 + body.length) / 64) ++ leBytes 8 s.serviceNow ++ leBytes 4 s.blockId ++ zeros 24
  h ++ leBytes 4 (crc32c h)

/-! ### Snapshots (R429, R454) -/

/-- The export is on, and its area lies in the own range. -/
def State.exportOn (s : State) : Bool := s.bit Reg.FW_LEDGER_XCTRL Fld.FW_LEDGER_XCTRL_ENABLE
def State.exportBase (s : State) : Nat := s.gf64 Reg.FW_LEDGER_EXPORT Fld.FW_LEDGER_EXPORT_BASE * 4096
def exportSize : Nat := 8388608

/-- Entries in SYNCED that no complete snapshot records as BOUND yet (R454). -/
def State.syncedEntries (s : State) : List Nat :=
  (upto 16).filter fun e => (s.redir e).valid && decide ((s.redir e).state = .synced) && !s.age.recorded.contains e

/-- A snapshot is due: on SNAP and for R454 at once, else at most one in 10 s. -/
def State.snapDue (s : State) : Bool :=
  s.age.wantSnap || !s.syncedEntries.isEmpty ||
    ((s.age.eventAt.isSome || s.age.periodDue) && (match s.age.snapAt with
      | some t => decide (t + 10000000000 ≤ s.clk.pkg)
      | none => true))

/-- Generation of the next snapshot: after the newest complete one and the one that the driver presented. -/
def State.nextGen (s : State) : Nat :=
  max (s.rd Reg.FW_LEDGER_XSTATUS).toNat (if s.age.ledger.length < 64 then 0 else leNat (sliceBytes s.age.ledger 16 4)) + 1

/-- Start of the half that a generation goes to. -/
def State.halfBase (s : State) (gen : Nat) : Nat := s.exportBase + 4194304 * (gen % 2)

/-- Issue one write of a snapshot with hint NORMAL; what it writes to a PC is class 2 (R34). -/
def State.snapWrite (s : State) (x : Snap) (off : Nat) (b : List Byte) : State :=
  (s.issueWrite .firmware .normal 1 (s.halfBase x.gen + off) b).modAge fun a =>
    { a with snap := some { x with step := x.step + 1, id := s.freshId } }

/-- LEDGER_SNAPSHOT: the next of a snapshot's steps, each after the one before has completed: header zeroed, sections,
header, and GEN. A write that fails ends the attempt (R429). -/
def ledgerSnapshot (s : State) : State :=
  match s.age.snap with
  | none =>
    if s.exportOn ∧ s.inOwn s.exportBase exportSize ∧ s.snapDue ∧ s.phase = 8 then
      let body := s.ledgerBody
      let gen := s.nextGen
      let x : Snap :=
        { gen := gen, step := 0, id := 0, header := s.ledgerHeader gen body, body := body, bound := s.syncedEntries }
      (s.tick.modAge fun a => { a with eventAt := none, wantSnap := false, periodDue := false }).snapWrite x 0 (zeros 64)
    else s
  | some x =>
    if s.inFlight x.id then s
    else
      let t := s.dropDone x.id
      if s.doneStatus x.id ≠ .ok then t.modAge fun a => { a with snap := none, periodDue := true }
      else
        match x.step with
        | 1 => t.snapWrite x 64 x.body
        | 2 => t.snapWrite x 0 x.header
        | _ =>
          ((t.wr Reg.FW_LEDGER_XSTATUS (BitVec.ofNat 32 x.gen)).modAge fun a =>
            { a with snap := none, snapAt := some s.clk.pkg, recorded := a.recorded ++ x.bound }).logRec
              0x0068 [x.gen, (64 + x.body.length) / 64]

def execLedgerSnapshot (s : State) : Out := .next (s.onCore .upkeep (ledgerSnapshot s))

/-- SNAPSHOT_PERIOD_EXPIRY (R429). -/
def snapshotPeriod (s : State) : State :=
  let from_ := s.age.snapAt.getD s.age.serviceAt
  if s.exportOn ∧ from_ + s.gf Reg.FW_LEDGER_XCTRL Fld.FW_LEDGER_XCTRL_PERIOD_MIN * 60000000000 ≤ s.clk.pkg then
    s.modAge fun a => { a with periodDue := true }
  else s

def execSnapshotPeriodExpiry (s : State) : Out := .next (s.onCore .upkeep (snapshotPeriod s))

/-- What a write of FW_LEDGER_XCTRL leaves: PERIOD_MIN at least 1. -/
def xctrlWord (v : Word) : Word :=
  BitVec.ofNat 32 (natBits v.toNat 30 2 * 2 ^ 30 + max 1 (natBits v.toNat 0 16))

/-- SNAP: a write of FW_LEDGER_XCTRL with SNAP = 1 (R429). -/
def snap (w : Word) (s : State) : State :=
  (s.wr Reg.FW_LEDGER_XCTRL (xctrlWord w)).modAge fun a => { a with wantSnap := true }

def execSnap (v : Word) (s : State) : Out :=
  let w := v ||| 0x80000000#32
  .next (s.emuWrite Reg.FW_LEDGER_XCTRL w (some (snap w s)))

end Sys2Proof.Machine
end

