-- ==== Sys2Proof/Machine/Repair.lean ====
section
/-! DEFINITION. Meanings of the rows on command/address parity, repair causes, rebinding, unlacing, failures of slices and
of the instance, and fault injection (17: R439 to R470). -/

namespace Sys2Proof.Machine

/-- CA_PARITY_ERROR: the stack signals an error on a command to a layer group; during a replay it is the second signal (R439,
R440). -/
def execCaParityError (p : Fin 64) (group : Fin 4) (s : State) : Out :=
  .next (s.onLive (.pc p) (s.caParity p group))

/-! ### Ranks of a PC -/

/-- Ranks of PC `p` in increasing layer group. -/
def State.ranksOf (s : State) (p : Nat) : List Nat := (upto s.groups).map fun g => g * 64 + p

/-- PC `p` is unlacing or unlaced. -/
def State.leaving (s : State) (p : Nat) : Bool := (s.rd64 Reg.PC_UNLACING).testBit p || (s.rd64 Reg.PC_UNLACED).testBit p

/-! ### Causes and approval (R445, R446, R458) -/

/-- A move of a rank has been asked for or waits to start. -/
def State.moveAsked (s : State) (rank : Nat) : Bool :=
  s.age.asked.any (fun e => decide (e.1 = rank)) || s.age.starting.any fun e => decide (e.1 = rank)

/-- Ask the captain for a planned move (R446). -/
def State.askMove (s : State) (rank cause : Nat) : State :=
  let t := s.modAge fun a => { a with asked := a.asked ++ [(rank, cause)] }
  if t.isCaptain ∨ t.count ≤ 1 then t.modRing fun g => { g with inbox := g.inbox ++ [(t.self, .rebindRequest t.self rank cause)] }
  else t.sendCtl t.captain (.rebindRequest t.self rank cause)

/-- Causes 1 to 3 start at once, causes 4 to 7 are asked for (R445). -/
def State.wantMove (s : State) (rank cause : Nat) : State :=
  if s.moveAsked rank then s
  else if cause ≤ 3 then s.modAge fun a => { a with starting := a.starting ++ [(rank, cause)] }
  else s.askMove rank cause

/-- A cause on every data rank of a PC within one second unlaces the PC in place of separate moves (R458). -/
def State.wholePc (s : State) (p : Nat) : Bool :=
  (s.ranksOf p).any s.inService && ((s.ranksOf p).filter s.inService).all fun r => s.age.causeAt.any fun e => decide (e.1 = r)

/-- One cause on a rank (R445): on a target it waits until its entry is BOUND (R455), on a rank that is moving or retired
it is logged and has no further effect. DEDUCED: log entry 59, its record is one of the build's own. -/
def State.takeCause (s : State) (rank cause : Nat) : State :=
  let st := s.rankState rank
  if st = 6 then s.modAge fun a => { a with later := a.later ++ [(rank, cause)] }
  else if st = 0 ∨ st = 7 then
    let t := s.modAge fun a => { a with
      causeAt := (a.causeAt.filter fun e => decide (e.1 ≠ rank ∧ s.clk.pkg ≤ e.2 + 1000000000)) ++ [(rank, s.clk.pkg)] }
    let p := rank % 64
    if t.leaving p ∨ t.inbox.unlace.contains p then t
    else if t.wholePc p then
      (t.modInbox fun b => { b with unlace := b.unlace ++ [p] }).modAge fun a =>
        { a with asked := a.asked.filter fun e => e.1 % 64 ≠ p, starting := a.starting.filter fun e => e.1 % 64 ≠ p }
    else t.wantMove rank cause
  else s.iff (decide (1 ≤ st ∧ st ≤ 3)) fun t => t.logRec (0x8000 + Config.idleCauseCode.toNat) [rank, cause]

/-- REPAIR_CAUSE: the upkeep core takes up the oldest cause. -/
def repairCause (s : State) : State :=
  match s.inbox.causes with
  | (r, c) :: l => (s.modInbox fun b => { b with causes := l }).takeCause r c
  | [] => s

def execRepairCause (s : State) : Out := .next (s.onCore .upkeep (repairCause s))

/-- Moves of this instance in COPYING or SYNCED. -/
def State.movesRunning (s : State) : Nat :=
  ((upto 16).filter fun e => (s.redir e).valid && (decide ((s.redir e).state = .copying) || decide ((s.redir e).state = .synced))).length

/-- Free reserve ranks of an instance: its own, or what its last telemetry says (R384). -/
def State.freeReserve (s : State) (inst : Nat) : Nat :=
  if inst = s.self then (s.ranks.filter fun r => decide (s.rankState r = 4)).length
  else match s.pkg.telemetry.find? fun e => e.1 = inst with
    | some e => (e.2.2.getD 12 0).toNat
    | none => 0

/-- Answer one request: approve it, or defer it and log why (R446). `others` is the number of moves in COPYING or SYNCED
on the other instances; `given` lists the instances whose requests the captain has approved just before, which count as
moves in progress and take a reserve rank each. -/
def State.approve (s : State) (others : Nat) (given : List Nat) (inst rank cause : Nat) : Bool × State :=
  let limit := s.movesRunning + others + given.length < s.gf Reg.FW_REPAIR_CFG Fld.FW_REPAIR_CFG_PKG_PLANNED
  let keep := s.gf Reg.FW_REPAIR_CFG Fld.FW_REPAIR_CFG_RESERVE_KEEP + 1 + (given.filter (· = inst)).length ≤ s.freeReserve inst
  if limit ∧ keep then
    (true,
      if inst = s.self then s.modRing fun g => { g with inbox := g.inbox ++ [(s.self, .rebindAnswer inst rank true)] }
      else s.sendCtl inst (.rebindAnswer inst rank true))
  else
    (false, (s.modPkg fun p => { p with deferred := p.deferred ++ [(inst, rank, cause, s.clk.pkg)] }).logRec 0x007A
      [rank, if limit then 1 else 0])

/-- Answer the requests in turn. -/
def State.approveAll (s : State) (others : Nat) : List (Nat × Nat × Nat) → List Nat → State
  | [], _ => s
  | (inst, rank, cause) :: l, given =>
    let r := s.approve others given inst rank cause
    r.2.approveAll others l (if r.1 then inst :: given else given)

/-- MOVE_APPROVAL: the captain takes up the requests that have arrived, and those deferred 1 ms ago or more. -/
def moveApproval (others : BitVec 8) (s : State) : State :=
  if s.isCaptain ∨ s.count ≤ 1 then
    let asks := s.ring.inbox.filterMap fun e => match e.2 with
      | .rebindRequest i r c => some (i, r, c)
      | _ => none
    let due := s.pkg.deferred.filter fun e => e.2.2.2 + 1000000 ≤ s.clk.pkg
    let t := (s.modRing fun g => { g with inbox := g.inbox.filter fun e => match e.2 with
      | .rebindRequest _ _ _ => false
      | _ => true }).modPkg fun p => { p with deferred := p.deferred.filter fun e => s.clk.pkg < e.2.2.2 + 1000000 }
    t.approveAll others.toNat (asks ++ due.map fun e => (e.1, e.2.1, e.2.2.1)) []
  else s

def execMoveApproval (others : BitVec 8) (s : State) : Out := .next (s.onCore .steward (moveApproval others s))

/-! ### Starting a move (R447, R448, R459) -/

/-- The target of a move from a rank, and the state with it free: the lowest free reserve rank on another PC that stays,
else one under retention test (R170, R447). -/
def State.pickTarget (s : State) (src : Nat) : Option (Nat × State) :=
  let ok (st r : Nat) : Bool := decide (s.rankState r = st) && decide (r % 64 ≠ src % 64) && !s.leaving (r % 64)
  match s.ranks.find? (ok 4) with
  | some r => some (r, s)
  | none => (s.ranks.find? (ok 5)).map fun r => (r, s.endTest r)

/-- A move finds no target (R459). -/
def State.exhausted (s : State) (rank : Nat) : State :=
  ((s.setRank rank 3).raise Reg.PC_REPAIR_EVENT Fld.PC_REPAIR_EVENT_RESERVE_EXHAUSTED).logRec 0x0075 [rank]

/-- Entries in COPYING. -/
def State.copying (s : State) : Nat :=
  ((upto 16).filter fun e => (s.redir e).valid && decide ((s.redir e).state = .copying)).length

/-- An entry takes one of the four channels and enters COPYING, or stays QUEUED (R448). -/
def State.enterCopying (s : State) (e : Nat) : State :=
  let r := s.redir e
  if s.copying < 4 then
    let t := (s.setRedir e { r with state := .copying, redo := false, wm := 0 }).modCopier e fun _ => CopyChan.init
    ((t.raise Reg.PC_REPAIR_EVENT Fld.PC_REPAIR_EVENT_MOVE_STARTED).logRec 0x0070 [e, r.src, r.dst, r.cause]).repairEvent
  else s

/-- Begin a move of a rank: its entry, its target and the rank states. A second move uses the entry of the first (R455). -/
def State.startMove (s : State) (rank cause : Nat) : State :=
  let second := (upto 16).find? fun e =>
    (s.redir e).valid && decide ((s.redir e).dst = rank) && decide ((s.redir e).state = .bound)
  match (second.or ((upto 16).find? fun e => !(s.redir e).valid)) with
  | none => s.modAge fun a => { a with starting := a.starting ++ [(rank, cause)] }
  | some e =>
    match s.pickTarget rank with
    | none => s.exhausted rank
    | some (tgt, t) =>
      let origin := if second.isSome then (s.redir e).origin else rank
      let r : Redir := { valid := true, state := .queued, cause := cause, origin := origin, src := rank, dst := tgt,
                         redo := false, wm := 0 }
      ((((t.setRedir e r).setRank rank 1).setRank tgt 6).modAge fun a =>
        { a with recorded := a.recorded.filter (· ≠ e) }).enterCopying e

/-- Take the captain's approvals that have come back. -/
def State.takeAnswers (s : State) : State :=
  s.ring.inbox.foldl (fun t e => match e.2 with
    | .rebindAnswer _ r true => t.modAge fun a =>
        { a with starting := a.starting ++ a.asked.filter (fun x => x.1 = r), asked := a.asked.filter fun x => x.1 ≠ r }
    | .rebindAnswer _ _ false => t
    | c => t.modRing fun g => { g with inbox := g.inbox ++ [(e.1, c)] }) (s.modRing fun g => { g with inbox := [] })

/-- The lowest QUEUED entry while a channel is free for it (R448). -/
def State.nextQueued (s : State) : Option Nat :=
  ((upto 16).find? fun e => (s.redir e).valid && decide ((s.redir e).state = .queued)).filter fun _ => decide (s.copying < 4)

/-- MOVE_START: a QUEUED entry takes a free channel, else the oldest move that may start chooses its target. -/
def moveStart (s : State) : State :=
  let t := s.takeAnswers
  match t.nextQueued, t.age.starting with
  | some e, _ => t.enterCopying e
  | none, (r, c) :: l =>
    let t := t.modAge fun a => { a with starting := l }
    if t.rankState r = 0 ∨ t.rankState r = 7 then t.startMove r c else t
  | none, [] => t

def execMoveStart (s : State) : Out := .next (s.onCore .upkeep (moveStart s))

/-! ### The copier (R449 to R453) -/

/-- Start of unit `u` of a rank. -/
def unitLoc (rank u : Nat) : Loc := { rank := rank, bg := u / 4 % 4, bank := u % 4, row := u / 16, col := 0 }

/-- A class-6 run may start at a PC: none there, and the RATE interval over (R452). -/
def State.runFree (s : State) (p : Fin 64) : Bool :=
  let c := s.pcs[p]
  let rate := max 1 (s.gf Reg.PC_COPY_CFG Fld.PC_COPY_CFG_RATE)
  c.run6.isNone && (match c.lastRun6 with
    | some t => decide (t * rate + 3200 ≤ c.cycle * rate)
    | none => true)

/-- The data of a unit as the copier writes it: a burst of FROM's known-bad list and one read badly are poisoned (R453). -/
def State.unitData (s : State) (l : Loc) (got : List (Nat × Bool × List Byte)) : List (Bool × List Byte) :=
  (upto 16).map fun k =>
    let b : Loc := { l with col := k }
    match got.find? fun g => g.1 = k with
    | some g => (g.2.1 || s.pcs[pcFin l.pc].knownBad.contains b.burst, g.2.2)
    | none => (true, zeros 64)

/-- Bursts of a read run that have come back to channel `e` move into it. -/
def State.collect (s : State) (e : Fin 16) : State :=
  let mine (x : Ret64) : Bool := decide (x.owner = .copyRead e)
  let got := (s.paths.rets.filter mine).map fun x => (x.loc.col, x.bad, x.data)
  (s.modPaths fun p => { p with rets := p.rets.filter fun x => !mine x }).modCopier e fun c =>
    { c with got := c.got ++ got }

/-- COPIER_RUN: the channel of an entry in COPYING starts its next run: the read of the unit at WM, or the write of what
the read brought. It starts none while the upkeep core does not run (R325). -/
def copierRun (e : Fin 16) (s : State) : State :=
  let r := s.redir e
  if !r.valid ∨ r.state ≠ .copying ∨ s.shutdown ∨ s.pwr.quiesced ∨ !s.fwRuns .upkeep ∨ rankUnits ≤ r.wm then s
  else
    let t := s.collect e
    let c := t.copiers[e]
    let from_ := unitLoc r.src r.wm
    let tgt := unitLoc r.dst r.wm
    match c.phase with
    | .idle =>
      if t.runFree (pcFin r.src) then
        (t.submitRun (pcFin r.src) 6 (.copyRead e) false from_ 16 []).modCopier e fun c => { c with phase := .reading, got := [] }
      else t
    | .reading =>
      if c.got.length = 16 ∧ t.runFree (pcFin r.dst) then
        (t.submitRun (pcFin r.dst) 6 (.copyWrite e) true tgt 16 (t.unitData from_ c.got)).modCopier e fun c =>
          { c with phase := .writing, written := 0 }
      else t
    | .writing => t

def execCopierRun (e : Fin 16) (s : State) : Out :=
  .next (s.onLive (.pc (pcFin (s.redir e).src)) (copierRun e s))

/-- WM_ADVANCE: the last write of the unit has entered TO's write queue: WM advances, or the unit is copied again when REDO
is set; at the end of the rank the entry is SYNCED (R449, R451, R454). -/
def wmAdvance (e : Fin 16) (s : State) : State :=
  let r := s.redir e
  let c := s.copiers[e]
  if r.valid ∧ r.state = .copying ∧ c.phase = .writing ∧ 16 ≤ c.written then
    if r.redo then
      (s.setRedir e { r with redo := false }).modCopier e fun c => { CopyChan.init with copies := c.copies + 1 }
    else
      (s.setRedir e { r with wm := r.wm + 1, state := if r.wm + 1 = rankUnits then .synced else .copying }).modCopier e
        fun _ => CopyChan.init
  else s

def execWmAdvance (e : Fin 16) (s : State) : Out :=
  .next (s.onLive (.pc (pcFin (s.redir e).src)) (wmAdvance e s))

/-- MOVE_BIND: once a snapshot records it, or at once without an export, a SYNCED entry becomes BOUND: FROM is RETIRED with
its row entries and its known-bad bursts, TO is BOUND_TARGET, and causes met meanwhile on TO start (R441, R454, R455). -/
def moveBind (e : Fin 16) (s : State) : State :=
  let r := s.redir e
  if r.valid ∧ r.state = .synced ∧ (!s.exportOn ∨ s.age.recorded.contains e.val) then
    let t := ((s.setRedir e { r with state := .bound }).setRank r.src 2).setRank r.dst 7
    let t := t.modPc (pcFin r.src) fun c =>
      { c with knownBad := c.knownBad.filter (fun b => b / (rowsPerBank * 256) ≠ r.src),
               rowh := c.rowh.map fun x => if x.2.valid ∧ x.2.layer = r.src / 64 then (x.1, { x.2 with cls := 5 }) else x }
    let t := ((t.raise Reg.PC_REPAIR_EVENT Fld.PC_REPAIR_EVENT_MOVE_BOUND).logRec 0x0071 [e, r.src, r.dst]).repairEvent
    let due := t.age.later.filter fun x => x.1 = r.dst
    let t := t.modAge fun a => { a with later := a.later.filter (fun x => x.1 ≠ r.dst),
                                        recorded := a.recorded.filter (· ≠ e.val) }
    due.foldl (fun t x => t.wantMove x.1 x.2) t
  else s

def execMoveBind (e : Fin 16) (s : State) : Out := .next (s.onCore .upkeep (moveBind e s))

/-! ### Unlacing (R455, R457) -/

/-- The accesses of an abandoned copy of channel `e` are dropped. -/
def State.dropCopy (s : State) (e : Fin 16) : State :=
  let mine (o : Owner) : Bool := decide (o = .copyRead e) || decide (o = .copyWrite e)
  let r := s.redir e
  let clear (t : State) (p : Fin 64) : State := t.modPc p fun c =>
    { c with pool := c.pool.filter (fun x => !mine x.acc.owner), rq := c.rq.filter (fun x => !mine x.acc.owner),
             fwd := c.fwd.filter (fun x => !mine x.acc.owner),
             wq := c.wq.map (fun x => { x with from_ := x.from_.filter fun f => !mine f.1 }),
             run6 := if c.pool.any (fun x => mine x.acc.owner) || c.rq.any (fun x => mine x.acc.owner) ||
                        c.fwd.any (fun x => mine x.acc.owner) || c.wq.any (fun x => x.from_.any fun f => mine f.1) then none else c.run6 }
  let t := s.modPaths fun x => { x with memXbar := x.memXbar.filter (fun y => !mine y.2.owner),
                                        rets := x.rets.filter fun y => !mine y.owner }
  (clear (clear t (pcFin r.src)) (pcFin r.dst)).modCopier e fun _ => CopyChan.init

/-- An entry whose TO lies on a PC that unlaces returns to QUEUED with WM = 0 and a new target; the old TO becomes
UNUSABLE (R455). Without a target a first move ends, its rank staying in place; a second one leaves the entry BOUND to the rank
that it was to leave, which stays in place (R459). -/
def State.requeue (s : State) (e : Fin 16) : State :=
  let r := s.redir e
  let t := (s.dropCopy e).setRank r.dst 8
  let t := t.modAge fun a => { a with recorded := a.recorded.filter (· ≠ e.val), later := a.later.filter fun x => x.1 ≠ r.dst }
  match t.pickTarget r.src with
  | some (tgt, u) => (u.setRedir e { r with state := .queued, redo := false, wm := 0, dst := tgt }).setRank tgt 6
  | none =>
    (t.setRedir e (if r.origin = r.src then { r with valid := false }
      else { r with state := .bound, redo := false, wm := rankUnits, src := r.origin, dst := r.src })).exhausted r.src

/-- UNLACE: steps 1 to 3 for the PC asked for first; a BOUND entry's rank moves before the in-range ranks (R457). -/
def unlace (s : State) : State :=
  match s.inbox.unlace with
  | [] => s
  | p :: l =>
    let t := s.modInbox fun b => { b with unlace := l }
    if t.leaving p then t
    else
      let t := t.wr64 Reg.PC_UNLACING (t.rd64 Reg.PC_UNLACING ||| 2 ^ p)
      let t := ((t.raise Reg.PC_REPAIR_EVENT Fld.PC_REPAIR_EVENT_UNLACE_STARTED).logRec 0x0073 [p, 3]).repairEvent
      let free := (t.ranksOf p).filter fun r => decide (t.rankState r = 4 ∨ t.rankState r = 5)
      let t := free.foldl (fun t r => (t.endTest r).setRank r 8) t
      let back := ((upto 16).map (Fin.ofNat 16)).filter fun e =>
        (t.redir e.val).valid && decide ((t.redir e.val).state ≠ .bound) && decide ((t.redir e.val).dst % 64 = p)
      let t := back.foldl (fun t e => t.requeue e) t
      let bound := (t.ranksOf p).filter fun r => decide (t.rankState r = 7)
      let data := (t.ranksOf p).filter fun r => decide (t.rankState r = 0)
      let t := t.modAge fun a => { a with asked := a.asked.filter fun x => x.1 % 64 ≠ p,
                                          starting := a.starting.filter fun x => x.1 % 64 ≠ p }
      t.modAge fun a => { a with starting := a.starting ++ (bound ++ data).map fun r => (r, 3) }

def execUnlace (s : State) : Out := .next (s.onCore .upkeep (unlace s))

/-- UNLACE_COMPLETE: steps 4 and 5, once no rank on the PC carries data (R457, R459). -/
def unlaceComplete (p : Fin 64) (s : State) : State :=
  let busy := (s.ranksOf p).any fun r => [0, 1, 3, 6, 7].contains (s.rankState r)
  if (s.rd64 Reg.PC_UNLACING).testBit p ∧ !busy then
    let t := s.wr64 Reg.PC_UNLACING (s.rd64 Reg.PC_UNLACING ^^^ 2 ^ p.val)
    let t := t.wr64 Reg.PC_UNLACED (t.rd64 Reg.PC_UNLACED ||| 2 ^ p.val)
    let t := (t.raise Reg.PC_REPAIR_EVENT Fld.PC_REPAIR_EVENT_UNLACED).logRec 0x0074 [p]
    (t.fwDom p .off).modPwr fun w => { w with up := w.up.set (Fin.ofNat 133 (Island.pc p).index) false }
  else s

def execUnlaceComplete (p : Fin 64) (s : State) : Out := .next (s.onCore .upkeep (unlaceComplete p s))

/-! ### Failures (R462, R463) -/

/-- The slice has failed: status, log, the capture of a tag error, and the fence. `cond` is the condition of R462. -/
def State.sliceFails (s : State) (sl : Fin 16) (cond : Nat) : State :=
  let t := (s.raise Reg.PC_REPAIR_EVENT Fld.PC_REPAIR_EVENT_SLICE_FAIL).logRec 0x0077 [sl, cond]
  let t := if cond = 0 then t.fec .sliceArray false sl 0 else t
  sliceFence sl (t.modPwr fun w => { w with sliceFailed := w.sliceFailed ++ [sl.val] })

/-- A slice that gives no answer stops taking steps (condition 2 of R462). -/
def State.silent (s : State) (sl : Fin 16) (cond : Nat) : State :=
  if cond = 2 then s.modSlice sl fun x => { x with alive := false } else s

/-- Errors of a slice's data array in the last second, one of now among them (R462). -/
def State.dataErrors (s : State) (sl : Fin 16) : List Nat :=
  (s.paths.slices[sl].errs.filter fun t => decide (s.clk.pkg ≤ t + 1000000000)) ++ [s.clk.pkg]

/-- An uncorrectable error of a slice's data array at a package address: it poisons the sector that holds it and is captured
with the address of its line (R444, R462). -/
def State.dataError (s : State) (sl : Fin 16) (addr : Nat) : State :=
  let hit (x : Slice) : Slice := match x.find (lineNo addr) with
    | some k =>
      let i := addr / 64 % 2
      x.setWay k ((x.way k).setSector i { (x.way k).sector i with poison := true })
    | none => x
  (s.modSlice sl fun x => { hit x with errs := s.dataErrors sl }).fec .sliceArray false sl (addr / 128 * 128)

/-- SLICE_FAIL: a slice that has not failed before fails; one that gives no answer falls silent, before its fence or in it.
Each error of the data array poisons its sector, and the fifth within one second fails the slice (R462). DESIGN CHOICE: log
entry 87, the table has no other row for such an error, so condition 1 brings one at `addr`. -/
def execSliceFail (sl : Fin 16) (cond : Fin 4) (addr : BitVec 52) (s : State) : Out :=
  .next (s.onLive (.slice sl)
    (if s.pwr.sliceFailed.contains sl.val then
       (s.silent sl cond).when (decide (cond = 1)) ((s.silent sl cond).dataError sl addr.toNat)
     else if cond = 1 then
       let t := s.dataError sl addr.toNat
       t.when (decide (4 < (s.dataErrors sl).length)) (t.sliceFails sl 1)
     else (s.silent sl cond).sliceFails sl cond))

/-- The instance fails: DEGRADED, INSTANCE_FAIL, and every request at its ingresses completes with ABSENT (R463). -/
def State.instanceFails (s : State) (crossbar : Bool) : State :=
  let t := (s.modPwr fun w => { w with failed := true }).raise Reg.FW_STATUS Fld.FW_STATUS_DEGRADED
  let t := (t.raise Reg.PC_REPAIR_EVENT Fld.PC_REPAIR_EVENT_INSTANCE_FAIL).logRec 0x0078 [if crossbar then 1 else 0]
  let held := t.paths.reqXbar ++ t.paths.fenceWait
  held.foldl (fun t r => t.complete r .absent []) (t.modPaths fun x => { x with reqXbar := [], fenceWait := [] })

/-- INSTANCE_FAIL: a crossbar check error, or a fifth failed slice. -/
def execInstanceFail (crossbar : Bool) (s : State) : Out :=
  .next (s.onCore .upkeep (if !s.pwr.failed ∧ (crossbar ∨ 5 ≤ s.pwr.sliceFailed.length) then s.instanceFails crossbar else s))

/-! ### Fault injection (R467 to R470) -/

/-- A RATE as stored: above 20 it is 20 (R467). -/
def injRate (v : Word) (lo : Nat) : Nat := min 20 (natBits v.toNat lo 5)

/-- What a write of an injector leaves: the counter and the reserved bits keep their value, RATE is clamped; a refused
write does not arm (R468, R469). -/
def injWord (old v : Word) (rw : Nat) (rateLo : Nat) (refused : Bool) : Word :=
  let x := natSetBits (old.toNat &&& (2 ^ 32 - 1 - rw) ||| v.toNat &&& rw) rateLo 5 (injRate v rateLo)
  BitVec.ofNat 32 (if refused then natSetBits x 31 1 0 else x)

/-- PARITY_INJECTION: a write of PC_INJ (R470). -/
def parityInjection (v : Word) (s : State) : State :=
  s.wr Reg.PC_INJ (injWord (s.rd Reg.PC_INJ) v 0xFFFE0000 20 false)

def execParityInjection (v : Word) (s : State) : Out := .next (s.mgtWrite .sensor (parityInjection v s))

/-- D2D_INJECTION: a write of D2D_INJ_x. A reserved KIND or a port that is no UCIe link refuses (R468). -/
def d2dInjection (east : Bool) (v : Word) (s : State) : State :=
  let r := Reg.D2D_INJ (portNo east)
  let refused : Bool := v.toNat.testBit 31 ∧ (natBits v.toNat 29 2 = 3 ∨ s.portMode east ≠ 1)
  let t := s.wr r (injWord (s.rd r) v 0xFFFE0000 17 refused)
  let t := if v.toNat.testBit 16 then t.sf r Fld.D2D_INJ_REFUSED 0 else t
  t.raiseIf refused r Fld.D2D_INJ_REFUSED

def execD2dInjection (east : Bool) (v : Word) (s : State) : Out := .next (s.mgtWrite (.d2d east) (d2dInjection east v s))

/-- REMOTE_INJECTION: a write of RMT_INJ_n. A reserved KIND, or CORRUPT of transmitted frames, refuses (R469). -/
def remoteInjection (n : Fin 8) (v : Word) (s : State) : State :=
  let r := Reg.RMT_INJ n
  let kind := natBits v.toNat 29 2
  let refused : Bool := v.toNat.testBit 31 ∧ (kind = 3 ∨ (kind = 1 ∧ v.toNat.testBit 28))
  let t := s.wr r (injWord (s.rd r) v 0xFFFF8000 23 refused)
  let t := if v.toNat.testBit 14 then t.sf r Fld.RMT_INJ_REFUSED 0 else t
  t.raiseIf refused r Fld.RMT_INJ_REFUSED

def execRemoteInjection (n : Fin 8) (v : Word) (s : State) : Out := .next (s.mgtWrite .remote (remoteInjection n v s))

end Sys2Proof.Machine
end

