-- ==== Sys2Proof/Machine/Captain.lean ====
section
/-! DEFINITION. Meanings of the rows on chain commands, captaincy, telemetry, budgets and ranges (03, 14, 15: R80, R85 to
R87, R370, R379 to R386, R395, R396, R400, R405, R460, R528). -/

namespace Sys2Proof.Machine

/-! ### Who is eligible (R379, R380) -/

/-- Note what is known of an instance's eligibility, and since when it has been eligible without a break. -/
def State.noteEligible (s : State) (i : Nat) (yes : Bool) : State :=
  s.modPkg fun p =>
    { p with heard := (p.heard.filter fun e => e.1 ≠ i) ++ [(i, yes)],
             eligibleSince := if !yes then p.eligibleSince.filter fun e => e.1 ≠ i
               else if p.eligibleSince.any fun e => e.1 = i then p.eligibleSince
               else p.eligibleSince ++ [(i, s.clk.pkg)] }

/-- A message of an instance has come over the chain. -/
def State.heardChain (s : State) (i : Nat) : State :=
  s.modPkg fun p => { p with chainHeard := (p.chainHeard.filter fun e => e.1 ≠ i) ++ [(i, s.clk.pkg)] }

/-- An instance is reachable from here: over the ring, or over the chain, on which it has been heard within two periods of its
telemetry (R379, R384). DESIGN CHOICE: log entry 84. -/
def State.reaches (s : State) (i : Nat) : Bool :=
  (s.towards i).isSome || s.pkg.chainHeard.any fun e => e.1 = i && decide (s.clk.pkg < e.2 + 2000000)

/-- Instances that this one knows to be eligible, in increasing number (R379). -/
def State.eligibles (s : State) : List Nat :=
  (upto s.count).filter fun i =>
    if i = s.self then s.eligible else s.reaches i && s.pkg.heard.any fun e => e.1 = i ∧ e.2

/-- The lowest eligible instance other than `c`: the deputy of captain `c`. -/
def State.deputyOf (s : State) (c : Nat) : Option Nat := s.eligibles.find? (· ≠ c)

/-! ### What the captain does for an instance that the ring does not reach (R386, R395, R400) -/

/-- Phase that an instance has reported, none before its GO. -/
def State.phaseOf (s : State) (i : Nat) : Option Nat := (s.pkg.phases.find? fun e => e.1 = i).map fun e => e.2 % 16

/-- Send a command to one instance further down the chain. -/
def State.command (s : State) (i code arg : Nat) : State := s.chainDown (chainWord 6 false i (code * 65536 + arg))

/-- What the captain does in service for an instance further down the chain that the ring does not reach: one that reports
PHASE CONFIG is told to train its stack, one that reports PHASE D2D is brought up together with its neighbours, and a later
one and its neighbours retrain the ports that join them (R386, R395, R400). DEDUCED: log entry 84. -/
def State.captainDuty (s : State) (i : Nat) : State :=
  let ph := (s.phaseOf i).getD 0
  let bring (code : Nat) : State :=
    let t := s.command i code 3
    let t := if i = s.self + 1 then t.trainPort true else t.command (i - 1) code 2
    if i + 1 < s.count then t.command (i + 1) code 1 else if s.self = 0 then t.trainPort false else t
  if !s.isCaptain ∨ i ≤ s.self ∨ (s.towards i).isSome then s
  else if ph = 1 then s.command i 2 0
  else if ph = 3 then bring 3
  else if 4 ≤ ph ∧ ph ≤ 8 then bring 4
  else s

/-! ### Heartbeats (R381) -/

/-- Send a heartbeat on the ring and as a BEAT word in both directions of the chain. -/
def State.sendBeat (s : State) : State :=
  let arg := s.self + s.pkg.epoch % 65536 * 16
  let t := s.broadcast (.heartbeat s.pkg.epoch s.self s.deputy)
  ((t.chainDown (chainWord 8 true s.self arg)).chainUp (chainWord 8 false s.self arg)).modPkg fun p =>
    { p with sentAt := s.clk.pkg, heartbeatAt := s.clk.pkg }

/-- The hall identity of this instance goes to every instance (R383, R405). -/
def State.sendHall (s : State) : State :=
  let id := (s.rd Reg.FW_PKG_HALL).toNat
  let size := (s.rd Reg.FW_PKG_TORUS).toNat
  let dirs := (upto 6).map fun d => (s.rd (Reg.FW_PKG_DIR d)).toNat
  (s.applyHall id size dirs).broadcast (.setHall s.self id size dirs)

/-- Requests that await approval go to a new captain (R446). -/
def State.askAgain (s : State) : State :=
  s.age.asked.foldl (fun t e =>
    if t.isCaptain then t.modRing fun g => { g with inbox := g.inbox ++ [(t.self, .rebindRequest t.self e.1 e.2)] }
    else t.sendCtl t.captain (.rebindRequest t.self e.1 e.2)) s

/-- This instance becomes captain and begins heartbeats (R380 to R382), and does what it owes to the instances that the ring does
not reach (R386, R395). Budgets that an earlier captaincy wrote are no longer those last written (R385). -/
def State.becomeCaptain (s : State) (epoch : Nat) : State :=
  let t := s.modPkg fun p => { p with beatHeard := true, budgets := if s.isCaptain then p.budgets else [] }
  let t := (((t.setRoles s.self (t.deputyOf s.self) epoch).sendBeat).sendHall).askAgain
  (upto s.count).foldl State.captainDuty t

/-- Adopt a heartbeat: the highest epoch, among equal ones the lowest captain (R380). A handover under way has an end when
another captain's heartbeat is adopted (R382). -/
def State.adopt (s : State) (epoch captain : Nat) (deputy : Option Nat) : State :=
  if !s.pkg.elected ∨ s.pkg.epoch < epoch ∨ (s.pkg.epoch = epoch ∧ captain ≤ s.captain) then
    let fresh : Bool := !s.pkg.elected || decide (captain ≠ s.captain)
    let t := (s.setRoles captain deputy epoch).modPkg fun p =>
      { p with heartbeatAt := s.clk.pkg, beatHeard := true, handover := if captain = s.self then p.handover else none }
    if fresh then t.askAgain else t
  else s

/-! ### Chain commands (R395, R396, R400) -/

/-- RESULT word of this instance (R400). -/
def State.result (s : State) (code r : Nat) : State := s.chainUp (chainWord 7 false s.self (code * 65536 + r % 65536))

/-- CMD_STATUS. -/
def cmdStatus (s : State) : State :=
  match s.takeCmd 1 with
  | some (_, t) => t.result 1 t.statusResult
  | none => s

def execCmdStatus (s : State) : Out := .next (s.onCore .steward (cmdStatus s))

/-- The ports that a command names, one after the other. -/
def namedPorts (arg : Nat) : List Bool := (if arg.testBit 0 then [false] else []) ++ if arg.testBit 1 then [true] else []

/-- TRAIN_D2D: the named ports train; an instance that was left out receives no command until the captain has trained its stack
(R395, R396). -/
def trainD2d (s : State) : State :=
  match s.takeCmd 3 with
  | some (a, t) =>
    if t.pkg.goAt.isNone ∨ (t.bit Reg.FW_BOOT_STATUS Fld.FW_BOOT_STATUS_LEFT_OUT ∧ !t.age.trained) then t
    else
      let t := t.modPkg fun p => { p with d2dCmd := some (3, a % 4, s.clk.pkg) }
      ((namedPorts a).foldl (fun t e => t.trainPort e) t).answerD2d
  | none => s

def execTrainD2d (s : State) : Out := .next (s.onCore .steward (trainD2d s))

/-- RETRAIN_D2D: a port in service is first taken down (R400). -/
def retrainD2d (s : State) : State :=
  match s.takeCmd 4 with
  | some (a, t) =>
    let t := t.modPkg fun p => { p with d2dCmd := some (4, a % 4, s.clk.pkg) }
    ((namedPorts a).foldl (fun t e => (if t.portUp e then t.linkDown e else t).trainPort e) t).answerD2d
  | none => s

def execRetrainD2d (s : State) : Out := .next (s.onCore .steward (retrainD2d s))

/-- RESET_CORES: the result goes out first, then the cores are reset as under R327. -/
def resetCores (s : State) : State :=
  match s.takeCmd 6 with
  | some (a, t) => resetAllCores (a.testBit 0) (t.result 6 0)
  | none => s

def execResetCores (s : State) : Out := .next (s.onCore .steward (resetCores s))

/-- RESERVED_CHAIN_COMMAND. -/
def reservedCommand (s : State) : State :=
  match s.takeWord true fun w => decide (cwKind w = 6) && !(decide (1 ≤ natBits (cwArg w) 16 7) && decide (natBits (cwArg w) 16 7 ≤ 6)) with
  | some (w, t) => t.result (natBits (cwArg w) 16 7) 0xFFFF
  | none => s

def execReservedChainCommand (s : State) : Out := .next (s.onCore .steward (reservedCommand s))

/-- The head broadcasts a command and takes it itself. -/
def State.headCommand (s : State) (code arg : Nat) : State :=
  let w := chainWord 6 true 0 (code * 65536 + arg)
  (s.chainDown w).modChain fun c => { c with taken := c.taken ++ [(true, w)] }

/-- The head broadcasts TRAIN_STACK (R395). -/
def State.sendTrainStack (s : State) : State :=
  (s.headCommand 2 0).modPkg fun p => { p with trainSent := true, commanded := p.phases.map (·.1) }

/-- The chain is numbered without a fault (R371, R399). -/
def State.numbered (s : State) : Bool := decide (1 ≤ s.count) && !s.bit Reg.D2D_RING_STATUS Fld.D2D_RING_STATUS_ENUM_FAULT

/-- What the head does once phases are known and the chain is numbered: TRAIN_STACK when every instance has reported GO,
TRAIN_D2D when every instance that was commanded has reported PHASE D2D or FAULT (R395, R396). -/
def State.headDuty (s : State) : State :=
  if !s.straps.chainHead ∨ s.pkg.goAt.isNone ∨ !s.numbered then s
  else if !s.pkg.trainSent then
    if (upto s.count).all fun i => (s.phaseOf i).isSome then s.sendTrainStack else s
  else if !s.pkg.d2dSent ∧ s.pkg.commanded.all fun i => decide (3 ≤ (s.phaseOf i).getD 0) then
    (s.headCommand 3 3).modPkg fun p => { p with d2dSent := true }
  else s

/-- RESULT: every instance keeps the phases that pass it, and the head and the captain act on those that STATUS reports; other
results have nothing to start. -/
def resultWord (s : State) : State :=
  match s.takeKind false 7 with
  | some (w, t) =>
    if natBits (cwArg w) 16 7 = 1 then
      (t.modPkg fun p =>
        { p with phases := (p.phases.filter fun e => e.1 ≠ cwInst w) ++ [(cwInst w, natBits (cwArg w) 0 16)] }).headDuty.captainDuty
          (cwInst w)
    else t.headDuty
  | none => s.headDuty

def execResult (s : State) : Out := .next (s.onCore .steward (resultWord s))

/-! ### BEAT and RELAY (R370, R381) -/

/-- The epoch nearest to the one known here whose low 16 bits are `low`. -/
def nearEpoch (known low : Nat) : Nat :=
  let base := known / 65536 * 65536 + low
  if known + 32768 < base ∧ 65536 ≤ base then base - 65536 else if base + 32768 < known then base + 65536 else base

/-- BEAT: a heartbeat that came on the chain, which names no deputy. -/
def beat (s : State) : State :=
  match (s.takeKind true 8).or (s.takeKind false 8) with
  | some (w, t) =>
    let captain := natBits (cwArg w) 0 4
    let t := t.heardChain captain
    let epoch := nearEpoch t.pkg.epoch (natBits (cwArg w) 4 16)
    let deputy := if t.pkg.elected ∧ t.captain = captain ∧ t.pkg.epoch = epoch then t.deputy else t.deputyOf captain
    t.adopt epoch captain deputy
  | none => s

def execBeat (s : State) : Out := .next (s.onCore .steward (beat s))

/-- Bytes of a message of 16-bit parts. -/
def relayBytes (l : List Nat) : List Byte := l.flatMap fun x => leBytes 2 x

/-- A control message that came whole over the chain: telemetry or a range report, by its TYPE (R384, R528). -/
def State.relayed (s : State) (parts : List Nat) : State :=
  let b := relayBytes parts
  let src := (b.getD 0 0).toNat
  let c : Option Ctl := if b.length ≠ 64 then none
    else if b.getD 3 0 = 0 then some (.telemetry b) else if b.getD 3 0 = 1 then some (.rangeReport b) else none
  match c with
  | some c => (s.modRing fun g => { g with inbox := g.inbox ++ [(src, c)] }).heardChain src
  | none => s

/-- Parts of a message after one more word: a first word begins anew. -/
def relayParts (old : List Nat) (w : Word) : List Nat :=
  (if (cwArg w).testBit 22 then [] else old) ++ [natBits (cwArg w) 0 16]

/-- RELAY: the next word of a control message. Messages that pass upstream are taken by the captain and the deputy. -/
def relay (s : State) : State :=
  match s.takeKind true 9 with
  | some (w, t) =>
    let parts := relayParts t.chain.relayDown w
    if (cwArg w).testBit 21 then (t.modChain fun c => { c with relayDown := [] }).relayed parts
    else t.modChain fun c => { c with relayDown := parts }
  | none =>
    match s.takeKind false 9 with
    | some (w, t) =>
      let i := cwInst w
      let parts := relayParts ((t.chain.relayUp.find? fun e => e.1 = i).map (·.2) |>.getD []) w
      let t := t.modChain fun c => { c with relayUp := c.relayUp.filter fun e => e.1 ≠ i }
      if (cwArg w).testBit 21 then (if t.role = 0 then t else t.relayed parts)
      else t.modChain fun c => { c with relayUp := c.relayUp ++ [(i, parts)] }
    | none => s

def execRelay (s : State) : Out := .next (s.onCore .steward (relay s))

/-- Send a 64-byte message as RELAY words towards an instance (R369, R370). -/
def State.sendRelay (s : State) (dst : Nat) (b : List Byte) : State :=
  (upto 32).foldl (fun t k =>
    let arg := (if k = 0 then 2 ^ 22 else 0) + (if k = 31 then 2 ^ 21 else 0) + leNat (sliceBytes b (2 * k) 2)
    if s.self < dst then t.chainDown (chainWord 9 false dst arg) else t.chainUp (chainWord 9 false s.self arg)) s

/-! ### Election (R380) -/

/-- Take what others have said of their eligibility. -/
def State.takeEligibility (s : State) : State :=
  s.ring.inbox.foldl (fun t e => match e.2 with
    | .eligible i y => t.noteEligible i y
    | c => t.modRing fun g => { g with inbox := g.inbox ++ [(e.1, c)] }) (s.modRing fun g => { g with inbox := [] })

/-- Choose captain and deputy at epoch 1. DESIGN CHOICE: log entry 73, where no instance is eligible nobody becomes captain,
the one instance of a package included (R5, R326, R379). -/
def State.choose (s : State) : State :=
  match s.eligibles with
  | [] => s
  | c :: _ =>
    let d := s.deputyOf c
    let t := (s.modPkg fun p => { p with electionSince := none, heartbeatAt := s.clk.pkg }).logRec 0x0050 [c, d.getD 0, 1]
    if c = s.self then t.becomeCaptain 1 else t.setRoles c d 1

/-- Instances that have been heard from, this one with its own broadcast. -/
def State.allHeard (s : State) : Bool := (upto s.count).all fun i => decide (i = s.self) || s.pkg.heard.any fun e => e.1 = i

/-- ELECTION: after the alignment the instance enters PHASE ELECTION and broadcasts its eligibility; once it has heard from
all it chooses. An instance alone in its package that has lost its captaincy with a reset of its cores takes it again. -/
def election (s : State) : State :=
  let t := s.takeEligibility
  if t.pkg.elected then t
  else if t.pkg.electionSince.isSome then (if t.allHeard then t.choose else t)
  else if (t.phase = 3 ∨ t.phase = 9) ∧ (t.bit Reg.D2D_TIME_STATUS Fld.D2D_TIME_STATUS_LOCKED ∨ t.count ≤ 1) then
    let t := (((if t.phase = 3 then t.setPhase 4 else t)).modPkg fun p => { p with electionSince := some s.clk.pkg }).broadcast (.eligible t.self t.eligible)
    if t.allHeard then t.choose else t
  else if t.count ≤ 1 ∧ 5 ≤ t.phase ∧ t.phase ≤ 8 then t.choose
  else t

def execElection (s : State) : Out := .next (s.onCore .steward (election s))

/-- ELECTION_TIMEOUT. -/
def electionTimeout (s : State) : State :=
  match s.pkg.electionSince with
  | some t0 => if t0 + 100000 ≤ s.clk.pkg ∧ !s.pkg.elected then s.takeEligibility.choose else s
  | none => s

def execElectionTimeout (s : State) : Out := .next (s.onCore .steward (electionTimeout s))

/-! ### Heartbeats, silence and handover (R381, R382) -/

/-- HEARTBEAT_SEND, every 10 µs; the deputy is the lowest eligible instance but the captain. -/
def heartbeatSend (s : State) : State :=
  if s.isCaptain ∧ s.pkg.sentAt + 10000 ≤ s.clk.pkg then (s.setRoles s.self (s.deputyOf s.self) s.pkg.epoch).sendBeat else s

def execHeartbeatSend (s : State) : Out := .next (s.onCore .steward (heartbeatSend s))

/-- CAPTAIN_HEARTBEAT_RECEIVE: the oldest heartbeat that has come on the ring. -/
def heartbeatReceive (s : State) : State :=
  let hit (e : Nat × Ctl) : Bool := match e.2 with
    | .heartbeat _ _ _ => true
    | _ => false
  match s.ring.inbox.find? hit with
  | some (_, .heartbeat ep c d) => (s.modRing fun g => { g with inbox := dropFirst hit g.inbox }).adopt ep c d
  | _ => s

def execCaptainHeartbeatReceive (s : State) : Out := .next (s.onCore .steward (heartbeatReceive s))

/-- Rank of this instance: 1 for the deputy, then the other eligible instances in increasing number. -/
def State.rankOf (s : State) : Nat :=
  if s.deputy = some s.self then 1
  else 2 + ((s.eligibles.filter fun i => decide (i ≠ s.captain) && decide (s.deputy ≠ some i)).findIdx (· = s.self))

/-- The captain and the instances that should have taken over before this one have been silent: what came from them over the
chain no longer shows that the chain reaches them. -/
def State.forgetSilent (s : State) : State :=
  let kept := s.pkg.chainHeard.filter (fun e => decide (e.1 ≠ s.captain) && decide (s.deputy ≠ some e.1) && decide (s.self ≤ e.1))
  s.modPkg fun p => { p with chainHeard := kept }

/-- CAPTAIN_SILENCE_EXPIRY. -/
def silenceExpiry (s : State) : State :=
  if s.pkg.elected ∧ !s.isCaptain ∧ s.eligible ∧ s.pkg.heartbeatAt + 50000 * s.rankOf ≤ s.clk.pkg then
    (s.forgetSilent.logRec 0x0051 [s.self, s.captain, s.pkg.epoch + 1]).becomeCaptain (s.pkg.epoch + 1)
  else s

def execCaptainSilenceExpiry (s : State) : Out := .next (s.onCore .steward (silenceExpiry s))

/-- Instances on this instance's die: itself and a neighbour joined by an on-die link (R44). -/
def State.sameDie (s : State) (i : Nat) : Bool :=
  decide (i = s.self) || (s.straps.eMode = 2 && decide (i = s.self + 1)) || (s.straps.wMode = 2 && decide (i + 1 = s.self))

/-- HANDOVER: before a die reset to the lowest eligible instance on another die, or to a lower-numbered instance that has
been eligible for 100 ms (R382). -/
def handover (s : State) : State :=
  if !s.isCaptain ∨ s.pkg.handover.isSome then s
  else
    let other := s.eligibles.find? fun i => !s.sameDie i
    let lower := (upto s.self).find? fun i => s.eligibles.contains i &&
      (s.pkg.eligibleSince.any fun e => decide (e.1 = i ∧ e.2 + 100000000 ≤ s.clk.pkg))
    match s.pins.dieWrstReqN, other, lower with
    | false, some i, _ => s.startHandover i 1
    | true, _, some i => s.startHandover i 2
    | _, _, _ => s

def execHandover (s : State) : Out := .next (s.onCore .steward (handover s))

/-- HANDOVER_ACK: the successor takes the captain's state, acknowledges and begins heartbeats at epoch + 1; the old captain,
on the acknowledgement, stops (R382). -/
def handoverAck (s : State) : State :=
  let hit (e : Nat × Ctl) : Bool := match e.2 with
    | .handover _ _ _ _ _ => true
    | .handoverAck _ _ => true
    | _ => false
  match s.ring.inbox.find? hit with
  | some (_, .handover ep c succ cause state) =>
    let t := s.modRing fun g => { g with inbox := dropFirst hit g.inbox }
    if succ = t.self ∧ t.eligible ∧ t.pkg.epoch ≤ ep then
      (((t.becomeCaptain (ep + 1)).modPkg fun p => p.takeCaptaincy state).sendCtl c (.handoverAck (ep + 1) t.self)).logRec 0x0052 [t.self, cause, ep + 1]
    else t
  | some (_, .handoverAck ep c) =>
    let t := s.modRing fun g => { g with inbox := dropFirst hit g.inbox }
    if t.pkg.handover.isSome then (t.modPkg fun p => { p with handover := none }).adopt ep c (t.deputyOf c) else t
  | _ => s

def execHandoverAck (s : State) : Out := .next (s.onCore .steward (handoverAck s))

/-- HANDOVER_TIMEOUT: the captain keeps captaincy and logs that (R382). -/
def handoverTimeout (s : State) : State :=
  match s.pkg.handover with
  | some h =>
    if h.since + 20000 ≤ s.clk.pkg then
      (s.modPkg fun p => { p with handover := none }).logRec 0x0052 [s.self, h.cause, s.pkg.epoch]
    else s
  | none => s

def execHandoverTimeout (s : State) : Out := .next (s.onCore .steward (handoverTimeout s))

/-! ### Telemetry (R384) -/

/-- The hottest zone reading, 0 before any reading. -/
def State.hottest (s : State) : Int :=
  match s.readZones with
  | [] => 0
  | e :: l => l.foldl (fun m x => max m x.2) e.2

/-- The 64 bytes of a telemetry message. -/
def State.telemetryBytes (s : State) : List Byte :=
  let yes (b : Bool) (k : Nat) : Nat := if b then 2 ^ k else 0
  leBytes 1 s.self ++
  leBytes 1 (s.fwState + yes (s.bit Reg.FW_STATUS Fld.FW_STATUS_DEGRADED) 4 + yes s.shutdown 5 + yes s.eligible 6) ++
  leBytes 1 s.stepNow ++ leBytes 1 0 ++
  leBytes 2 (s.gf Reg.THERM_POWER Fld.THERM_POWER_COLUMN) ++
  leBytes 2 (16 * s.gf Reg.THERM_BUDGET Fld.THERM_BUDGET_BUDGET_W) ++
  leBytes 2 (fieldOfInt 16 ((s.snsValue 32).getD 0)) ++ leBytes 2 (fieldOfInt 16 s.hottest) ++
  leBytes 1 (s.freeReserve s.self) ++ leBytes 1 s.age.asked.length ++
  leBytes 2 (s.gf Reg.FW_AGEING_STATUS Fld.FW_AGEING_STATUS_HORIZON_D) ++ leBytes 8 (s.now .firmware) ++ zeros 40

/-- A message for the captain or the deputy: over the ring when it reaches, else over the chain if the chain may be used
now. -/
def State.report (s : State) (dst : Nat) (c : Ctl) (b : List Byte) (ring chain : Bool) : State :=
  if dst = s.self then s
  else if (s.towards dst).isSome then (if ring then s.sendCtl dst c else s)
  else if chain then s.sendRelay dst b else s

/-- TELEMETRY_SEND: every 100 µs on the ring, every 1 ms on the chain. DEDUCED: log entry 94, an instance that has failed
sends none, so that the captain clears its VALID (R386, R463). -/
def telemetrySend (s : State) : State :=
  if !s.pkg.elected ∨ s.isCaptain ∨ s.pwr.failed then s
  else
    let ring : Bool := s.pkg.telemetryAt + 100000 ≤ s.clk.pkg
    let chain : Bool := s.pkg.relayAt + 1000000 ≤ s.clk.pkg
    let b := s.telemetryBytes
    let t := (s.captain :: s.deputy.toList).foldl (fun t d => t.report d (.telemetry b) b ring chain) s
    t.modPkg fun p => { p with telemetryAt := if ring then s.clk.pkg else p.telemetryAt,
                               relayAt := if chain then s.clk.pkg else p.relayAt }

def execTelemetrySend (s : State) : Out := .next (s.onCore .steward (telemetrySend s))

/-- TELEMETRY_RECEIVE: the captain or the deputy keeps the oldest message that has come. -/
def telemetryReceive (s : State) : State :=
  let hit (e : Nat × Ctl) : Bool := match e.2 with
    | .telemetry _ => true
    | _ => false
  match s.ring.inbox.find? hit with
  | some (_, .telemetry b) =>
    let t := s.modRing fun g => { g with inbox := dropFirst hit g.inbox }
    if t.role = 0 then t
    else
      let i := (b.getD 0 0).toNat
      (t.modPkg fun p => { p with telemetry := (p.telemetry.filter fun e => e.1 ≠ i) ++ [(i, s.clk.pkg, b)] }).noteEligible i
        ((b.getD 1 0).toNat.testBit 6)
  | _ => s

def execTelemetryReceive (s : State) : Out := .next (s.onCore .steward (telemetryReceive s))

/-! ### Budgets (R385) -/

/-- Instances that hold VALID. -/
def State.present (s : State) : List Nat := (upto s.count).filter fun i => s.bit (Reg.PC_RANGE i) Fld.PC_RANGE_VALID

/-- Budget in W, power used in 1/16 W and step of a column, from its telemetry or this instance's own registers. -/
def State.columnOf (s : State) (i : Nat) : Nat × Nat × Nat :=
  let b := if i = s.self then s.telemetryBytes else ((s.pkg.telemetry.find? fun e => e.1 = i).map fun e => e.2.2).getD (zeros 64)
  let was := (s.pkg.budgets.find? fun e => e.1 = i).map (·.2)
  (was.getD (leNat (sliceBytes b 6 2) / 16), leNat (sliceBytes b 4 2), (b.getD 2 0).toNat)

/-- The budgets of R385 in whole W, for columns given by budget, power used and step. Powers are computed in 1/1,600 W, in
which every term but the last division is whole. -/
def balance (pkgW minW maxW : Nat) (cols : List (Nat × Nat × Nat)) : List Nat :=
  let n := cols.length
  let p := if pkgW = 0 then 120 * n else pkgW
  if p < n * minW then cols.map fun _ => p / n
  else
    let clampW (x : Nat) : Nat := max (1600 * minW) (min (1600 * maxW) x)
    let want := cols.map fun c => clampW (if 0 < c.2.2 then c.1 * 1840 else c.2.1 * 110 + 8000)
    let total := want.sum
    let d := total - 1600 * n * minW
    let share (w : Nat) : Nat :=
      if 1600 * p < total then (1600 * minW * d + (w - 1600 * minW) * (1600 * (p - n * minW))) / d / 1600 else w / 1600
    (cols.zip want).map fun e => min (share e.2) (e.1.1 + 10)

/-- BUDGET_BALANCE. -/
def budgetBalance (s : State) : State :=
  if s.isCaptain ∧ s.bit Reg.FW_PKG_BUDGET Fld.FW_PKG_BUDGET_MODE ∧ s.pkg.balanceAt + 1000000 ≤ s.clk.pkg then
    let l := s.present
    let b := balance (s.gf Reg.FW_PKG_BUDGET Fld.FW_PKG_BUDGET_PKG_W) (s.gf Reg.FW_PKG_BUDGET Fld.FW_PKG_BUDGET_MIN_W)
      (s.gf Reg.FW_PKG_BUDGET Fld.FW_PKG_BUDGET_MAX_W) (l.map s.columnOf)
    let t := s.modPkg fun p => { p with balanceAt := s.clk.pkg, budgets := l.zip b }
    (l.zip b).foldl (fun t e => if e.1 = t.self then t.setBudget e.2 else t.sendCtl e.1 (.setBudget e.1 e.2)) t
  else s

def execBudgetBalance (s : State) : Out := .next (s.onCore .steward (budgetBalance s))

/-! ### Loss of an instance (R386) -/

/-- Why instance `k` is lost, if it is: 0 no ring path, 1 telemetry missing for 300 µs. The captain loses itself only when it has
failed (R463). DEDUCED: log entry 94. -/
def State.lossOf (s : State) (k : Nat) : Option Nat :=
  if k = s.self then (if s.pwr.failed then some 1 else none) else
  let last := max s.pkg.captainAt (((s.pkg.telemetry.find? fun e => e.1 = k).map fun e => e.2.1).getD 0)
  if (s.towards k).isNone then some 0 else if last + 300000 ≤ s.clk.pkg then some 1 else none

/-- Set one range of the table on every instance. -/
def State.setRange (s : State) (i base ranks : Nat) (valid : Bool) : State :=
  (s.applyRange i base ranks valid).broadcast (.setRange i base ranks valid)

/-- INSTANCE_LOST: VALID is cleared everywhere, the run of its eligibility ends, and the captain commands it over the chain
(R382, R386). -/
def instanceLost (k : Fin 16) (s : State) : State :=
  let r := Reg.PC_RANGE k
  match s.lossOf k with
  | some c =>
    if s.isCaptain ∧ s.bit r Fld.PC_RANGE_VALID then
      let t := (s.setRange k (s.gf r Fld.PC_RANGE_BASE) (s.gf r Fld.PC_RANGE_RANKS) false).modPkg fun p =>
        { p with reports := p.reports.filter fun e => e.1 ≠ k.val }
      ((t.noteEligible k false).captainDuty k).logRec 0x0053 [k, c]
    else s
  | none => s

def execInstanceLost (k : Fin 16) (s : State) : Out := .next (s.onCore .steward (instanceLost k s))

/-! ### The held mask (R85 to R87, R460) -/

/-- The next PC from `p` on, wrapping, that is neither held nor unlaced (R85). -/
def nextFree (mask unlaced p : Nat) : Nat :=
  (((upto 64).map fun k => (p + k) % 64).find? fun q => !mask.testBit q && !unlaced.testBit q).getD p

/-- A mask of PC numbers. -/
def maskOf (l : List Nat) : Nat := l.foldl (fun m p => m ||| 2 ^ (p % 64)) 0

/-- The mask of a start without a ledger (R85): the reserve ranks' PCs that are not unlaced, and for each other one the next
higher PC that is neither held, by the reserve ranks' own PCs or as such a replacement, nor unlaced. -/
def defaultMask (k unlaced : Nat) : Nat :=
  let own := (upto k).map fun i => 64 * i / k
  (own.filter fun p => unlaced.testBit p).foldl (fun m p => m ||| 2 ^ nextFree m unlaced (p + 1))
    (maskOf (own.filter fun p => !unlaced.testBit p))

/-- The top-group rank of a PC. -/
def State.topRank (s : State) (p : Nat) : Nat := 64 * (s.groups - 1) + p % 64

/-- A half of the export area: its GEN when its header holds (R429). -/
def State.halfGen (s : State) (half : Nat) : Option Nat :=
  let base := s.gf64 Reg.FW_LEDGER_EXPORT Fld.FW_LEDGER_EXPORT_BASE * 4096 + 4194304 * half
  match s.peek base 64 with
  | (.ok, b) =>
    let n (i k : Nat) : Nat := leNat (sliceBytes b i k)
    if n 0 4 = 0x4C474B42 ∧ n 4 2 = 1 ∧ n 60 4 = crc32c (sliceBytes b 0 60) then some (n 16 4) else none
  | _ => none

/-- The newest complete snapshot of the export area is newer than the presented repair section (R456). -/
def State.snapshotNewer (s : State) : Bool :=
  s.bit Reg.FW_LEDGER_XCTRL Fld.FW_LEDGER_XCTRL_ENABLE &&
    ((s.halfGen 0).toList ++ (s.halfGen 1).toList).any fun g => decide (leNat (sliceBytes s.age.ledger 16 4) < g)

/-- The redirects that a start replays: those of the repair section, or on a warm return with the contents kept those of the
newest complete snapshot when it is newer, `snapshot` as firmware reads them there (R456). -/
def State.redirsOf (s : State) (i : RepairInfo) (snapshot : List (Fin 16 × BitVec 64)) : List (Fin 16 × BitVec 64) :=
  if s.gf Reg.PC_MARK_STATUS Fld.PC_MARK_STATUS_RESULT = 1 ∧ s.snapshotNewer then snapshot else i.redirs

/-- Hold one more rank: a retired rank of the top group itself, else the lowest healthy top-group rank, to which the retired
rank is redirected. Without one the instance takes no range (R86, R87). DESIGN CHOICE: log entry 74, neither does it where
none of the 16 redirect entries is free; and a rank that is itself a held bound target, which stays in place, adds no held rank,
its origin's redirect still pointing at it. The contents of a rank that so takes another place, or stays as it was, are undefined
(R459). -/
def State.holdFor (s : State) (rank : Nat) : State :=
  let held := s.rd64 Reg.PC_HELD_MASK
  let s := s.loseRank rank
  if rank / 64 + 1 = s.groups then (s.wr64 Reg.PC_HELD_MASK (held ||| 2 ^ (rank % 64))).setRank rank 2
  else
    let entry := (upto 16).find? fun e => !(s.redir e).valid
    let spare := (upto 64).find? fun p => !held.testBit p && !s.leaving p && decide (s.rankState (s.topRank p) = 0)
    match entry, spare with
    | some e, some p =>
      let r : Redir := { valid := true, state := .bound, cause := 3, origin := rank, src := rank, dst := s.topRank p,
                         redo := false, wm := rankUnits }
      let t := (s.loseRank (s.topRank p)).setRedir e r
      ((t.wr64 Reg.PC_HELD_MASK (held ||| 2 ^ p)).setRank rank 2).setRank (s.topRank p) 7
    | _, _ => (s.setRank rank 3).modPkg fun p => { p with noRange := true }

/-- Bind a data rank of a PC unlaced at training with no copy, or hold it (R460). -/
def State.bindAway (s : State) (rank : Nat) : State :=
  let old := (upto 16).find? fun e => (s.redir e).valid && decide ((s.redir e).dst = rank)
  let entry := old.or ((upto 16).find? fun e => !(s.redir e).valid)
  match entry, s.pickTarget rank with
  | some e, some (tgt, t) =>
    let origin := if old.isSome then (s.redir e).origin else rank
    let r : Redir := { valid := true, state := .bound, cause := 3, origin := origin, src := rank, dst := tgt,
                       redo := false, wm := rankUnits }
    ((t.setRedir e r).setRank rank 2).setRank tgt 7
  | _, _ => s.holdFor rank

/-- A redirect of the repair section: BOUND as it was; a move under way goes on from its watermark where the contents were
kept, and is BOUND with no copy where they are lost (R86, R456, R502). The rank that a second move started from stays retired
(R455). -/
def State.replayRedir (s : State) (e : Nat) (w : Nat) : State :=
  let r := s.wr64 (Reg.PC_REDIR e) w
  let x := r.redir e
  let r := if x.valid ∧ x.origin ≠ x.src then r.setRank x.origin 2 else r
  if !x.valid then s
  else if x.state = .bound then (r.setRank x.src 2).setRank x.dst 7
  else if s.gf Reg.PC_MARK_STATUS Fld.PC_MARK_STATUS_RESULT = 1 ∨ s.gf Reg.PC_MARK_STATUS Fld.PC_MARK_STATUS_RESULT = 2 then
    ((r.setRedir e { x with state := if rankUnits ≤ x.wm then .synced else .copying, redo := false }).setRank x.src 1).setRank
      x.dst 6
  else ((r.setRedir e { x with state := .bound, redo := false, wm := rankUnits }).setRank x.src 2).setRank x.dst 7

/-- The rank states of a mask before any redirect: IN_RANGE, the held ones RESERVE_FREE, those on an unlaced PC UNUSABLE,
the rest NOT_PRESENT. -/
def State.freshRanks (s : State) (mask : Nat) : State :=
  (upto 256).foldl (fun t r =>
    let top : Bool := r / 64 + 1 = s.groups ∧ mask.testBit (r % 64)
    t.setRank r (if s.groups ≤ r / 64 then 9 else if top then (if s.leaving (r % 64) then 8 else 4) else 0)) s

/-- Form PC_HELD_MASK, the rank states and the redirects from training and the ledger (R84 to R87, R456, R460). Of the ranks retired
without a reserve rank those of the top group are held first, so that none of them serves as a healthy one. DESIGN CHOICE: log
entry 74, they are taken in increasing number. -/
def State.formMask (s : State) (snapshot : List (Fin 16 × BitVec 64)) : State :=
  let lost := maskOf s.age.unlacedAt
  let unlaced := lost ||| ((s.age.repair.map fun i => i.unlaced.toNat).getD 0)
  let mask := (s.age.repair.map fun i => i.held.toNat).getD (defaultMask s.reserveCount lost)
  let t := (s.wr64 Reg.PC_UNLACED unlaced).wr64 Reg.PC_HELD_MASK mask
  let t := t.freshRanks mask
  let t : State := match s.age.repair with
    | some i => (s.redirsOf i snapshot).foldl (fun (t : State) e => t.replayRedir e.1 e.2.toNat) t
    | none => t
  let retired := (s.age.repair.map fun i => i.retired.toNat).getD 0
  let alone := (upto (64 * s.groups)).filter fun r => retired.testBit r && decide (t.rankState r ≠ 2)
  let top (r : Nat) : Bool := decide (r / 64 + 1 = s.groups)
  let t := (alone.filter top ++ alone.filter fun r => !top r).foldl (fun t r => t.holdFor r) t
  let data := (upto (64 * s.groups)).filter fun r => lost.testBit (r % 64) && decide (t.rankState r = 0 ∨ t.rankState r = 7)
  data.foldl (fun t r => t.bindAway r) t

/-! ### Range reports and assignment (R80, R386, R528) -/

/-- The 64 bytes of a range report. -/
def State.reportBytes (s : State) : List Byte :=
  let none_ : Bool := s.pkg.noRange || decide (s.phase = 9)
  let ranks := 64 * s.groups - onesBelow 64 (s.rd64 Reg.PC_HELD_MASK)
  leBytes 1 s.self ++ leBytes 1 (if none_ then 1 else 0) ++ leBytes 1 0 ++ leBytes 1 1 ++ leBytes 2 ranks ++
    leBytes 1 s.groups ++ leBytes 1 0 ++ leBytes 8 (s.rd64 Reg.PC_HELD_MASK) ++ leBytes 8 (s.now .firmware) ++ zeros 40

/-- Keep a range report. -/
def State.keepReport (s : State) (b : List Byte) : State :=
  let i := (b.getD 0 0).toNat
  s.modPkg fun p => { p with reports := (p.reports.filter fun e => e.1 ≠ i) ++ [(i, b)] }

/-- Take the range reports that have come. -/
def State.takeReports (s : State) : State :=
  s.ring.inbox.foldl (fun t e => match e.2 with
    | .rangeReport b => t.keepReport b
    | c => t.modRing fun g => { g with inbox := g.inbox ++ [(e.1, c)] }) (s.modRing fun g => { g with inbox := [] })

/-- RESULT of the marker check of this instance. -/
def State.markOf (s : State) : Nat := s.gf Reg.PC_MARK_STATUS Fld.PC_MARK_STATUS_RESULT

/-- Send the range report to the captain and the deputy, and after a warm return the RESULT of the marker check (R389, R528).
DEDUCED: log entry 95, a control message on the ring carries RESULT. -/
def State.sendReport (s : State) : State :=
  let b := s.reportBytes
  let whom := s.captain :: s.deputy.toList
  let t := whom.foldl (fun t d => t.report d (.rangeReport b) b true true) s
  let t := if s.pwr.warm then
      (whom.foldl (fun t d => if d = s.self then t else t.sendCtl d (.markResult s.self s.markOf)) t).modPkg fun p =>
        { p with marks := cset (fun _ => 0) p.marks s.self s.markOf }
    else t
  (if t.isCaptain then t.keepReport b else t).modPkg fun p => { p with reported := true, cutOff := false }

/-- RANGE_REPORT: at range assignment, once the captain's first heartbeat has come, the instance forms its held mask and reports;
again before it rejoins, whether it lost its own VALID with a reset or was cut off and the ring reaches the captain again. The
mask stands once PC_LACE is locked (R85, R386, R528). `snapshot` names the redirects of the newest complete snapshot in the export
area, whose REPAIR section the spec lays out no bytes for (R456). -/
def rangeReport (snapshot : List (Fin 16 × BitVec 64)) (s : State) : State :=
  let locked := s.bit Reg.PC_LACE Fld.PC_LACE_LOCK
  let out := !s.bit (Reg.PC_RANGE s.self) Fld.PC_RANGE_VALID
  let back := s.pkg.cutOff && (decide (s.captain = s.self) || (s.towards s.captain).isSome)
  if !s.pkg.elected ∨ !s.pkg.beatHeard then s
  else if s.phase = 9 then (if s.pkg.reported then s else s.sendReport)
  else if s.phase = 4 ∧ !locked ∧ (!s.pkg.reported ∨ out) then
    (if s.pkg.reported then s else s.formMask snapshot).sendReport
  else if 5 ≤ s.phase ∧ s.phase ≤ 8 ∧ (out ∨ !s.pkg.reported ∨ back) then s.sendReport
  else s

def execRangeReport (snapshot : List (Fin 16 × BitVec 64)) (s : State) : Out :=
  .next (s.onCore .upkeep (rangeReport snapshot s))

/-- The ranges by the reports: base, ranks and validity of an instance (R80, R528). -/
def State.assignOne (s : State) (i : Nat) : State :=
  let base := s.gf Reg.FW_ADDR_ORIGIN Fld.FW_ADDR_ORIGIN_ORIGIN * 16 + i
  match s.pkg.reports.find? fun e => e.1 = i with
  | some (_, b) =>
    let ranks := leNat (sliceBytes b 4 2)
    let held := onesBelow 64 (leNat (sliceBytes b 8 8))
    if (b.getD 1 0).toNat.testBit 0 then s.setRange i base 0 false
    else
      let t := s.setRange i base ranks true
      if t.reserveCount < held then t.logRec 0x0055 [i, held - t.reserveCount, ranks] else t
  | none => s.setRange i base 0 false

/-- An instance is ready for its range: it has reported PHASE ELECTION and given its range report, or reported that it takes no
range (R396, R399, R528). -/
def State.rangeReady (s : State) (i : Nat) : Bool :=
  s.pkg.reports.any fun e => decide (e.1 = i) &&
    ((e.2.getD 1 0).toNat.testBit 0 || decide ((if i = s.self then some s.phase else s.phaseOf i) = some 4))

/-- The captain's part: it waits for every eligible instance, and sets the ranges and the hall identity
everywhere (R80, R396, R405, R528). -/
def State.assignRanges (s : State) : State :=
  let t := s.takeReports
  if t.isCaptain ∧ !t.pkg.ranged ∧ t.phase = 4 ∧ t.eligibles.all t.rangeReady then
    (((upto t.count).foldl (fun t i => t.assignOne i) t).sendHall).modPkg fun p => { p with ranged := true }
  else t

/-- RANGE_ASSIGNMENT: the captain's part, then each instance's own once its range has come. -/
def rangeAssignment (s : State) : State :=
  let t := s.assignRanges
  if t.phase = 4 ∧ t.bit (Reg.PC_RANGE t.self) Fld.PC_RANGE_VALID ∧ !t.bit Reg.PC_LACE Fld.PC_LACE_LOCK then t.ranged else t

def execRangeAssignment (s : State) : Out := .next (s.onCore .steward (rangeAssignment s))

/-- INSTANCE_REJOIN: an instance without VALID that the ring reaches and that has reported again gets its range once more;
every instance takes the whole table, the entries that are not VALID included, and the hall identity (R79, R386, R405). -/
def instanceRejoin (k : Fin 16) (s : State) : State :=
  let t := s.takeReports
  match t.pkg.reports.find? fun e => e.1 = k.val with
  | some (_, b) =>
    if t.isCaptain ∧ 5 ≤ t.phase ∧ t.phase ≤ 8 ∧ k.val ≠ t.self ∧ !t.bit (Reg.PC_RANGE k) Fld.PC_RANGE_VALID ∧ (t.towards k).isSome ∧
        !(b.getD 1 0).toNat.testBit 0 then
      let mark := ((t.pkg.marks.find? fun e => e.1 = k.val).map (·.2)).getD 0
      let t := ((t.assignOne k).logRec 0x0054 [k, mark]).sendHall
      (upto t.count).foldl (fun t i => t.setRange i (t.gf (Reg.PC_RANGE i) Fld.PC_RANGE_BASE) (t.gf (Reg.PC_RANGE i)
        Fld.PC_RANGE_RANKS) (t.bit (Reg.PC_RANGE i) Fld.PC_RANGE_VALID)) t
    else t
  | none => t

def execInstanceRejoin (k : Fin 16) (s : State) : Out := .next (s.onCore .steward (instanceRejoin k s))

end Sys2Proof.Machine
end

