-- ==== Sys2Proof/Machine/Boot.lean ====
section
/-! DEFINITION. Meanings of the rows on the driver's part of a start, the ledger's replay, the memory test, PHASE FAULT and the
warm return (06, 14, 15: R172, R389, R395 to R403). -/

namespace Sys2Proof.Machine

/-! ### GO (R395) -/

/-- What a write of FW_BOOT_CTRL leaves (R15). -/
def bootWord (v : Word) : Word := v &&& 0xFC00FFFF#32

/-- GO: a write of FW_BOOT_CTRL with GO = 1; the instance reports its phase upstream, the head keeps its own. -/
def go (v : Word) (s : State) : State :=
  let t := s.wr Reg.FW_BOOT_CTRL (bootWord (v ||| 0x80000000#32))
  if s.pkg.goAt.isSome then t
  else ((t.modPkg fun p => { p with goAt := some s.clk.pkg }).reportPhase).headDuty

def execGo (v : Word) (s : State) : Out :=
  .next (s.emuWrite Reg.FW_BOOT_CTRL (v ||| 0x80000000#32) (some (go v s)))

/-- GO_WAIT_EXPIRY at the head. -/
def goWaitExpiry (s : State) : State :=
  match s.pkg.goAt with
  | some t0 =>
    let ms := s.gf Reg.FW_BOOT_CTRL Fld.FW_BOOT_CTRL_GO_WAIT_MS
    if s.straps.chainHead ∧ s.numbered ∧ !s.pkg.trainSent ∧ t0 + ms * 1000000 ≤ s.clk.pkg then s.sendTrainStack else s
  | none => s

def execGoWaitExpiry (s : State) : Out := .next (s.onCore .steward (goWaitExpiry s))

/-! ### The repair buffer (R397) -/

/-- LEDGER_PORT_WRITE: 4 bytes more, up to 64 KiB. -/
def ledgerPort (v : Word) (s : State) : State :=
  if s.age.ledger.length + 4 ≤ 65536 then s.modAge fun a => { a with ledger := a.ledger ++ leBytes 4 v.toNat } else s

def execLedgerPortWrite (v : Word) (s : State) : Out := .next (s.emuWrite Reg.FW_LEDGER_PORT v (some (ledgerPort v s)))

/-- LEDGER_CLEAR: a write of FW_LEDGER_CTRL with CLEAR = 1. -/
def ledgerClear (w : Word) (s : State) : State := (s.wr Reg.FW_LEDGER_CTRL w).modAge fun a => { a with ledger := [] }

def execLedgerClear (len : BitVec 24) (s : State) : Out :=
  let w : Word := BitVec.ofNat 32 (2 ^ 31 + len.toNat)
  .next (s.emuWrite Reg.FW_LEDGER_CTRL w (some (ledgerClear w s)))

/-! ### The memory test (R169, R398, R400) -/

/-- The ranks that a memory test takes: every rank that the stack has before READY, reserve ranks in service (R169). -/
def State.memTestRanks (s : State) : List Nat :=
  if s.phase = 8 then s.ranks.filter fun r => decide (s.rankState r = 4 ∨ s.rankState r = 5) else s.ranks

/-- The retention tests of the ranks that may be tested: the contents are undefined afterwards, failed rows are classified, and a
rank with a BAD row has failed (R169, R398). DESIGN CHOICE: log entry 64, outside 45 °C to 85 °C (R168) no hold counts: no row is
classified. -/
def State.memTest (s : State) (fails : List MemFail) : State :=
  let loc (f : MemFail) : Loc := { rank := f.rank.toNat, bg := f.bg, bank := f.bank, row := f.row.toNat, col := 0 }
  let ranks := s.memTestRanks
  let t := ranks.foldl (fun t r => t.loseRank r) s
  let mine := fails.filter fun f => (loc f).exists s.groups && ranks.contains f.rank.toNat
  let t := match s.testTemp with
    | some temp => mine.foldl (fun (t : State) f => t.classifyHold (loc f) (holdMs f.hold) temp) t
    | none => t
  let bad (r : Nat) : Bool := t.pcs[pcFin r].rowh.any fun e => e.2.valid && decide (e.2.cls = 4) && decide (e.2.layer = r / 64)
  t.modAge fun a => { a with failedRanks := ranks.filter bad }

/-- CMD_MEMTEST (R400). -/
def cmdMemtest (fails : List MemFail) (s : State) : State :=
  match s.takeCmd 5 with
  | some (_, t) =>
    let t := t.memTest fails
    t.result 5 t.age.failedRanks.length
  | none => s

def execCmdMemtest (fails : List MemFail) (s : State) : Out := .next (s.onCore .upkeep (cmdMemtest fails s))

/-! ### Replay and READY (R172, R173, R397, R398, R428) -/

/-- PHASE READY: READY_MS counts from the release of reset, service time and truing windows begin. -/
def State.becomeReady (s : State) : State :=
  let ms := min 65535 ((s.clk.elapsed + (s.clk.pkg - s.clk.releasedAt)) / 1000000)
  (((s.sf Reg.FW_BOOT_STATUS Fld.FW_BOOT_STATUS_READY_MS ms).modAge fun a => { a with serviceAt := s.clk.pkg }).startWindows).setPhase 8

/-- An exit scrub is still under way at a PC. -/
def State.scrubbing (s : State) : Bool := s.livePcs.any fun (p : Fin 64) => s.bit (Reg.PC_REF_STATUS p) Fld.PC_REF_STATUS_SCRUB

/-- The end of a replay, after the exit scrub: the memory test if it is asked for, and READY (R173, R398). -/
def State.endReplay (s : State) (fails : List MemFail) : State :=
  (if s.bit Reg.FW_BOOT_CTRL Fld.FW_BOOT_CTRL_MEMTEST then (s.setPhase 7).memTest fails else s).becomeReady

/-- EXIT_SCRUB_COMPLETE (R172); the last one after a replay ends it (R173), with the outcome of a memory test. -/
def execExitScrubComplete (p : Fin 64) (errs : List (Nat × List Byte)) (fails : List MemFail) (s : State) : Out :=
  let t := exitScrub p errs s
  .next (s.onLive (.pc p) (if t.phase = 6 ∧ t.fwRuns .upkeep ∧ !t.scrubbing then t.endReplay fails else t))

/-- The sections of a ledger from an offset on: ID, whether the CRC holds, and the bytes; each begins at a multiple of 64 bytes
(R426). -/
def ledgerSections (b : List Byte) : Nat → Nat → List (Nat × Bool × List Byte)
  | 0, _ => []
  | n + 1, off =>
    let len := leNat (sliceBytes b (off + 4) 4)
    let body := sliceBytes b (off + 16) len
    if b.length < off + 16 + len then []
    else (leNat (sliceBytes b off 1), decide (leNat (sliceBytes b (off + 8) 4) = crc32c body), body) ::
      ledgerSections b n ((off + 16 + len + 63) / 64 * 64)

/-- Take up a section of a ledger; one that fails its CRC is discarded alone and logged, one that is not there leaves its part of
the record to start afresh (R428). -/
def State.part (s : State) (l : List (Nat × Bool × List Byte)) (id : Nat) (f : List Byte → State → State) : State :=
  match l.find? fun e => e.1 = id with
  | some (_, true, b) => f b s
  | some (_, false, _) => s.logRec 0x0069 [id, 1]
  | none => s

/-- Words of `k` bytes, little-endian. -/
def leWords (k : Nat) (b : List Byte) : List Nat := (upto (b.length / max 1 k)).map fun i => leNat (sliceBytes b (k * i) k)

/-- A history point of MARGIN (R426). -/
def Point.ofWord (rank x : Nat) : Point :=
  { rank := rank, day := natBits x 0 16, tm := natBits x 16 8, vm := natBits x 24 8, tLane := natBits x 32 8,
    vLane := natBits x 40 8 }

/-- A row health entry as the ledger holds it, with the service day of its last event in place of LAST_EVENT: the event lies as
many days back as it did (R426). DEDUCED: log entry 50. -/
def RowEntry.replayed (e : RowEntry) (service now : Nat) : RowEntry :=
  let age := (service - e.lastEvent * 86400) * 1000000000 / 2 ^ 30
  { e with lastEvent := (eventTime now + 2 ^ 24 - age % 2 ^ 24) % 2 ^ 24 }

/-- PC and index of entry `k` of ROW_HEALTH: as given, else free values, since the entry names neither (R426). -/
def State.placeOf (s : State) (places : List (Fin 64 × Fin 2048)) (k : Nat) : Fin 64 × Fin 2048 :=
  places.getD k
    (pcFin ((Config.openValue (s.free + 2 * k)).toNat % 64), Fin.ofNat 2048 (Config.openValue (s.free + 2 * k + 1)).toNat)

/-- What replay takes from the bytes of a ledger whose header holds: row health, history, baselines with the last D, the plan and
the service time (R397, R426). A rank's record in MARGIN holds 32 points; DEDUCED: log entry 50, a point of eight zero bytes or
past the ledger's points is none. -/
def State.replay (s : State) (b : List Byte) (info : Option LedgerInfo) : State :=
  let service := leNat (sliceBytes b 24 8)
  let l := ledgerSections b (leNat (sliceBytes b 6 2)) 64
  let t := { s with pcs := s.pcs.map fun (c : Pc) => { c with rowh := [] }, free := s.free + 2 * b.length }
  let t := t.part l 2 fun b t => (leWords 8 b).zipIdx.foldl (fun (t : State) e =>
    let at_ := s.placeOf ((info.map fun x => x.places).getD []) e.2
    t.modPc at_.1 fun c => c.setRow at_.2 ((RowEntry.ofWord e.1).replayed service s.clk.pkg)) t
  let t := t.part l 3 fun b t => t.modAge fun a =>
    { a with points := ((leWords 8 b).zipIdx.filter fun e => e.1 ≠ 0).map fun e => Point.ofWord (e.2 / 32) e.1 }
  let t := t.part l 4 fun b t => (t.modAge fun a => { a with baselines := (leWords 4 b).take 48 }).sf Reg.FW_AGEING_DRIFT
    Fld.FW_AGEING_DRIFT_D (min 65535 ((leWords 4 b).getD 48 0))
  let t := t.part l 5 fun b t =>
    let x := (info.map fun x => (x.requests, x.results)).getD (Config.planReading b)
    t.modAge fun a =>
      { a with results := x.2.map fun e => (e.1.toNat, e.2.1.toNat, e.2.2.1.toNat, e.2.2.2.toNat),
               preempt := x.1.map (·.toNat) }
  t.modAge fun a => { a with service := service }

/-- The bytes of a ledger begin with a header that holds: MAGIC, LAYOUT and its CRC (R426). -/
def ledgerHeaderOk (b : List Byte) : Bool :=
  decide (64 ≤ b.length ∧ leNat (sliceBytes b 0 4) = 0x4C474B42 ∧ leNat (sliceBytes b 4 2) = 1 ∧
    leNat (sliceBytes b 60 4) = crc32c (sliceBytes b 0 60))

/-- The exit scrub that a warm return owes starts (R173, R402). -/
def State.startScrub (s : State) : State :=
  if s.pwr.scrubDue then
    (s.livePcs.foldl (fun t (p : Fin 64) => t.raise (Reg.PC_REF_STATUS p) Fld.PC_REF_STATUS_SCRUB) s).modPwr fun w =>
      { w with scrubDue := false }
  else s

/-- The ledger that REPLAY names, read with class-1 reads: what stands in memory there (R397). -/
def State.readLedger (s : State) (len : Nat) : Option (List Byte) × State :=
  let base := s.gf64 Reg.FW_LEDGER_ADDR Fld.FW_LEDGER_ADDR_BASE * 4096
  if 0 < len ∧ s.inOwn base (64 * len) then
    let ((st, b), t) := s.fetch .firmware .normal 1 128 base (64 * len)
    (if st = .ok then some b else none, t)
  else (none, s)

/-- The start of a replay (R397). In PHASE RANGED the ledger is read and taken up, then READY follows, after the exit scrub of a
warm return and the memory test. `info` is what the ledger's bytes leave unsaid, `repair` what the repair buffer's say on a
resume, both free where the command does not give them, `fails` the outcome of the memory test. -/
def State.startReplay (s : State) (len : BitVec 24) (info : Option LedgerInfo) (repair : Option RepairInfo)
    (fails : List MemFail) : State :=
  if s.phase ≠ 5 then s
  else
    let (ledger, t) := ((s.setPhase 6).takeRepair repair).readLedger len.toNat
    let t := match ledger with
      | some b => if ledgerHeaderOk b then t.replay b info else t.logRec 0x0069 [0, 0]
      | none => t
    let t := t.sf Reg.FW_AGEING_STATUS Fld.FW_AGEING_STATUS_GUARD (t.age.guards.toList.foldl max 0)
    let t := ((t.modAge fun a => { a with serviceAt := s.clk.pkg }).replan).startScrub
    if t.scrubbing then t else t.endReplay fails

/-- LEDGER_REPLAY: a write of FW_LEDGER_CTRL with REPLAY = 1 (R397). -/
def ledgerReplay (len : BitVec 24) (info : Option LedgerInfo) (repair : Option RepairInfo) (fails : List MemFail)
    (s : State) : State :=
  (s.wr Reg.FW_LEDGER_CTRL (BitVec.ofNat 32 (2 ^ 30 + len.toNat))).startReplay len info repair fails

def execLedgerReplay (len : BitVec 24) (info : Option LedgerInfo) (repair : Option RepairInfo) (fails : List MemFail)
    (s : State) : Out :=
  .next (s.emuWrite Reg.FW_LEDGER_CTRL (BitVec.ofNat 32 (2 ^ 30 + len.toNat)) (some (ledgerReplay len info repair fails s)))

/-! ### PHASE FAULT (R399) -/

/-- An instance knows of an enumeration fault by its own bit, or because no SIZE has come while the head may still send
one. -/
def State.enumFailed (s : State) : Bool :=
  s.bit Reg.D2D_RING_STATUS Fld.D2D_RING_STATUS_ENUM_FAULT ||
    (decide (s.count = 0) && s.pwr.seqDone && decide (s.pwr.seqDoneAt + 11000000 ≤ s.clk.pkg))

/-- PHASE_FAULT: the cause that holds, if any; the stack is kept in self-refresh. -/
def phaseFault (s : State) : State :=
  if s.phase = 1 ∧ s.enumFailed then s.faultStop 1
  else if s.phase = 4 ∧ s.pkg.noRange ∧ s.pkg.reported then s.faultStop 3
  else s

def execPhaseFault (s : State) : Out := .next (s.onCore .steward (phaseFault s))

/-! ### The warm return (R389, R402) -/

/-- WARM_RETURN: DIE_RST_N rises and the sensor and management island leaves reset, no stage running; later, after GO, the
PCs leave self-refresh with the delays of the repair section and check their markers. -/
def warmReturn (repair : Option RepairInfo) (s : State) : State :=
  if !s.pins.porstN ∨ !s.pins.vddOk then s
  else if !s.pins.dieRstN then
    ((s.modPins fun p => { p with dieRstN := true }).modPwr fun w => { w with seqDoneAt := s.clk.pkg }).sensorStarts
  else if s.pwr.warm ∧ s.fwRuns .upkeep ∧ s.pkg.goAt.isSome ∧ s.phase ≤ 2 then (s.takeRepair repair).checkMarkers
  else s

def execWarmReturn (repair : Option RepairInfo) (s : State) : Out := .next (warmReturn repair s)

end Sys2Proof.Machine
end

