-- ==== Sys2Proof/Machine/Counters.lean ====
section
/-! DEFINITION. Meanings of the rows on the performance counters, their captures, dumps and sample records (20: R509 to
R521). -/

namespace Sys2Proof.Machine

/-- Change the counters' bookkeeping. -/
def State.modCnt (s : State) (f : Counters → Counters) : State := { s with cnt := f s.cnt }

/-! ### Cycles (R509) -/

/-- Cycles of a unit's reference clock in a time in ns: the PC controller clock of the trained rate, 2.0 GHz, or 1.0 GHz. -/
def State.cyclesIn (s : State) (u ns : Nat) : Nat :=
  if u = 0 then ns * (16 - 2 * min 4 s.age.rate) / 10 else if u = 3 then ns else 2 * ns

/-- CNT_CYCLES_u at a time. -/
def State.cyclesAt (s : State) (u t : Nat) : Nat :=
  (s.rd64 (Reg.CNT_CYCLES u) + (match s.cnt.since[unitFin u] with
    | some t0 => s.cyclesIn u (t - t0)
    | none => 0)) % 2 ^ 64

/-! ### Events (R510 to R512) -/

/-- COUNTER_EVENT: an event of a unit that counts. The events that rules of the remote port count (R67, R341, R342, R348,
R349, R359) are counted where they happen; the row brings every other one (log entry 65). -/
def counterEvent (u : Fin 4) (e : BitVec 10) (src : BitVec 7) (qty : BitVec 32) (s : State) : State :=
  s.countIn u e.toNat src.toNat qty.toNat

def execCounterEvent (u : Fin 4) (e : BitVec 10) (src : BitVec 7) (qty : BitVec 32) (s : State) : Out :=
  .next (s.onLive .sensor (counterEvent u e src qty s))

/-! ### CNT_CTRL (R513, R514) -/

/-- The time of the actions of a write: the first multiple of 1,024 ns at least 500 ns ahead. -/
def actTime (now : Nat) : Nat := (now + 500 + 1023) / 1024 * 1024

/-- A write of CNT_CTRL: the fields are stored, and the actions wait for their time. -/
def State.cntCtrl (s : State) (v : Word) : State :=
  let r := Reg.CNT_CTRL
  let x := v.toNat
  let at_ := actTime s.clk.pkg
  let run : List CntAct := if natBits x 16 4 = s.gf r Fld.CNT_CTRL_RUN then [] else [.run (natBits x 16 4)]
  let clear : List CntAct := if natBits x 20 4 = 0 then [] else [.clear (natBits x 20 4)]
  let snap : List CntAct := if x.testBit 31 then [.snap] else []
  let keep := if x.testBit 31 then 0 else (s.rd r).toNat &&& 2 ^ 30
  (s.wr r (BitVec.ofNat 32 ((x &&& 0x200FF000) + keep))).modCnt fun c =>
    { c with acts := c.acts ++ (snap ++ clear ++ run).map fun a => (at_, a) }

/-- RW fields of CNT_CTRL as they stand. -/
def State.cntFields (s : State) : Nat := (s.rd Reg.CNT_CTRL).toNat &&& 0x200FF000

/-- CNT_RUN: a write of CNT_CTRL with a RUN value. -/
def execCntRun (run : BitVec 4) (s : State) : Out :=
  .next (s.mgtWrite .sensor (s.cntCtrl (BitVec.ofNat 32 (natSetBits s.cntFields 16 4 run.toNat))))

/-- CNT_CLEAR: a write of CNT_CTRL with CLEAR bits. -/
def execCntClear (units : BitVec 4) (s : State) : Out :=
  .next (s.mgtWrite .sensor (s.cntCtrl (BitVec.ofNat 32 (natSetBits s.cntFields 20 4 units.toNat))))

/-- CNT_SNAP: a write of CNT_CTRL with SNAP = 1. -/
def execCntSnap (s : State) : Out :=
  .next (s.mgtWrite .sensor (s.cntCtrl (BitVec.ofNat 32 (natSetBits s.cntFields 31 1 1))))

/-- The 36 values of a capture at a time: the 32 counters, then the 4 cycle counters (R514). -/
def State.capture (s : State) (t : Nat) : List Nat :=
  ((upto 32).map fun k => s.rd64 (Reg.CNT_VAL (k / 8) (k % 8))) ++ (upto 4).map fun u => s.cyclesAt u t

/-- Start or stop units at a time: a start zeroes nothing, at a stop the counters hold. -/
def State.setRun (s : State) (t units : Nat) : State :=
  (upto 4).foldl (fun a u =>
    match a.cnt.since[unitFin u], units.testBit u with
    | none, true => a.modCnt fun c => { c with since := c.since.set (unitFin u) (some t) }
    | some _, false => (a.wr64 (Reg.CNT_CYCLES u) (a.cyclesAt u t)).modCnt fun c => { c with since := c.since.set (unitFin u) none }
    | _, _ => a) s

/-- Zero the counters of units; a unit that runs counts its cycles from that time. -/
def State.clearUnits (s : State) (t units : Nat) : State :=
  ((upto 4).filter fun u => units.testBit u).foldl (fun a u =>
    let a := (upto 8).foldl (fun a n => a.wr64 (Reg.CNT_VAL u n) 0) a
    (a.wr64 (Reg.CNT_CYCLES u) 0).modCnt fun c =>
      { c with since := c.since.set (unitFin u) ((c.since[unitFin u]).map fun _ => t) }) s

/-- Carry out one action at its time. -/
def State.act (s : State) (t : Nat) (a : CntAct) : State :=
  match a with
  | .run u => s.setRun t u
  | .clear u => s.clearUnits t u
  | .snap => (s.modCnt fun c => { c with snap := s.capture t }).raise Reg.CNT_CTRL Fld.CNT_CTRL_SNAP_DONE

/-- COUNTER_CAPTURE: the actions whose time has come; a snapshot holds the interval that ends there, so it is taken before a
clear of the same time. -/
def counterCapture (s : State) : State :=
  let due := s.cnt.acts.filter fun e => e.1 ≤ s.clk.pkg
  due.foldl (fun t e => t.act e.1 e.2) (s.modCnt fun c => { c with acts := c.acts.filter fun e => s.clk.pkg < e.1 })

def execCounterCapture (s : State) : Out := .next (s.onLive .sensor (counterCapture s))

/-! ### Dumps (R516, R518) -/

/-- INTERVAL in ns. -/
def State.dumpNs (s : State) : Nat := s.gf Reg.CNT_DUMP_CFG Fld.CNT_DUMP_CFG_INTERVAL * 1000

/-- A dump record of a capture at a time. -/
def State.dumpBytes (s : State) (t : Nat) : List Byte :=
  let ovf := (s.rd Reg.CNT_STATUS).toNat
  leBytes 8 t ++ leBytes 4 (s.rd Reg.CNT_DUMP_SEQ).toNat ++ leBytes 4 s.cnt.missed ++
    leBytes 1 (s.gf Reg.CNT_CTRL Fld.CNT_CTRL_RUN) ++ leBytes 1 s.self ++ zeros 2 ++ leBytes 4 (s.dumpNs / 1000) ++ zeros 40 ++
    (upto 4).flatMap fun u =>
      leBytes 8 (s.cyclesAt u t) ++ ((upto 8).flatMap fun n => leBytes 8 (s.rd64 (Reg.CNT_VAL u n))) ++
        leBytes 1 (natBits ovf (8 * u) 8) ++ zeros 7

/-- The writes of the last record have all completed. -/
def State.dumpDone (s : State) : Bool := s.cnt.dumpIds.all fun i => !s.inFlight i

/-- Take up the completions of the last record: NEXT counts it, unless one of its writes failed. -/
def State.settleDump (s : State) : State × Bool :=
  if s.cnt.dumpIds.isEmpty then (s, false)
  else
    let bad : Bool := s.cnt.dumpIds.any fun i => decide (s.doneStatus i ≠ .ok)
    let t := s.cnt.dumpIds.foldl (fun t i => t.dropDone i) s
    let t := t.modCnt fun c => { c with dumpIds := [] }
    if bad then (t.raise Reg.CNT_DUMP_CFG Fld.CNT_DUMP_CFG_DUMP_FAULT, true)
    else (t.wr Reg.CNT_DUMP_SEQ (t.rd Reg.CNT_DUMP_SEQ + 1), false)

/-- Write the record of a capture: the lines at 128 and 256 first, the line at 0 last (R516). -/
def State.writeDump (s : State) (t : Nat) : State :=
  let b := s.dumpBytes t
  let r := Reg.CNT_DUMP_RING
  let base := s.ringBase r + 384 * ((s.rd Reg.CNT_DUMP_SEQ).toNat % s.ringSlots r)
  let put (u : State) (k : Nat) : State :=
    (u.issueWrite .firmware .stream 1 (base + 128 * k) (sliceBytes b (128 * k) 128)).modCnt fun c =>
      { c with dumpIds := c.dumpIds ++ [u.freshId] }
  (put (put (put s 1) 2) 0).modCnt fun c => { c with missed := 0 }

/-- COUNTER_DUMP: at a multiple of INTERVAL a capture of all units becomes a record, or is skipped. -/
def counterDump (s : State) : State :=
  let t := s.clk.pkg / max 1 s.dumpNs * max 1 s.dumpNs
  if !s.ringOn Reg.CNT_DUMP_RING ∨ t ≤ s.cnt.dumpAt then s
  else
    let u := s.modCnt fun c => { c with dumpAt := t }
    let skip (u : State) : State := u.modCnt fun c => { c with missed := c.missed + 1 }
    if !u.dumpDone then skip u
    else
      let (u, failed) := u.settleDump
      if failed ∨ u.shutdown then skip u else u.writeDump t

def execCounterDump (s : State) : Out := .next (s.onLive .sensor (counterDump s))

/-! ### Sample records (R521) -/

/-- Take up the completions of written sample records. -/
def State.settleTags (s : State) : State :=
  let ovr := s.cnt.tagIds.filter fun i => !s.inFlight i
  let bad : Bool := ovr.any fun i => decide (s.doneStatus i ≠ .ok)
  let t := ovr.foldl (fun t i => t.dropDone i) s
  (t.modCnt fun c => { c with tagIds := c.tagIds.filter fun i => s.inFlight i }).raiseIf bad Reg.CNT_DUMP_CFG
    Fld.CNT_DUMP_CFG_TAG_FAULT

/-- SAMPLE_RECORD: the oldest waiting record is written, unless the column is shut down. -/
def sampleRecord (s : State) : State :=
  let t := s.settleTags
  match t.tags.wait with
  | b :: l =>
    if t.ringOpen Reg.CNT_TAG_RING then
      let r := Reg.CNT_TAG_RING
      let at_ := t.ringBase r + 64 * (leNat (sliceBytes b 52 4) % t.ringSlots r)
      let u := { t with tags := { t.tags with wait := l } }
      (u.issueWrite .firmware .stream 1 at_ b).modCnt fun c => { c with tagIds := c.tagIds ++ [u.freshId] }
    else t
  | [] => t

def execSampleRecord (s : State) : Out := .next (s.onLive .sensor (sampleRecord s))

end Sys2Proof.Machine
end

