-- ==== Sys2Proof/Machine/Signature.lean ====
section
/-! DEFINITION. Meanings of the rows on signatures: intake check, dealing, gathering, the spine, finishing, prefetch and
the failure of a beside-memory engine (08: R210 to R235; R461). -/

namespace Sys2Proof.Machine

/-! ### Reads of the BMEs -/

/-- READs of 64 B units by the BMEs at given places of the dealing list: place and address of each (R219, R220). DESIGN
CHOICE: log entry 104, the space reserved for their responses (R29) has no size in the spec and never runs out. -/
def State.dealReads (s : State) (hint : Hint) (units : List (Nat × Nat)) : State :=
  let l := s.dealList
  let rs := units.zipIdx.map fun ((k, a), i) =>
    quietRead s.freshId i (.bme (Fin.ofNat 32 (l.getD (k % max 1 l.length) 0))) hint 3 a 64
  (rs.foldl (fun t r => t.ingress r) (s.skipIds 1).usedPeek).dropDone s.freshId

/-- The 64 B lines of a range, each with the place of its BME: its number counted from the line of `base` (R220). -/
def dealtUnits (base addr len : Nat) : List (Nat × Nat) := (unitsOf 64 addr len).map fun a => (a / 64 - base / 64, a)

/-- Read `len` bytes by lines that the dealing list shares (R219). -/
def State.bmeFetch (s : State) (hint : Hint) (addr len : Nat) : (Status × List Byte) × State :=
  (s.peek addr len, s.dealReads hint (dealtUnits addr addr len))

/-- Little-endian 32-bit words. -/
def words32 (b : List Byte) : List Nat := (upto (b.length / 4)).map fun i => leNat (sliceBytes b (4 * i) 4)

/-! ### Intake check (R217 to R219) -/

/-- Pooling modes by code (R217). -/
def Pool.ofCode : Nat → Option Pool
  | 0 => some .sum
  | 1 => some .mean
  | 2 => some .weighted
  | 3 => some .max
  | _ => none

/-- Output formats of a signature (R215). -/
def outFormat (c : Nat) : Option Format := if c < 4 then Format.ofCode c else none

/-- Combinations that MAX accepts (R218). -/
def maxAllowed (out table : Format) : Bool :=
  match out with
  | .binary64 => true
  | .binary32 => decide (table ≠ .binary64)
  | o => decide (o = table)

/-- The accumulator of a signature on a table format (R217, R267). -/
def accOf (f : Format) : Acc := if f = .binary64 ∨ f = .binary32 then .acc64 else .acc32

/-- First bag whose end offset decreases or spans more than 268,435,456 (R216). -/
def badOffset (offs : List Nat) : Option Nat :=
  (upto (offs.length - 1)).find? fun b =>
    decide (offs.getD (b + 1) 0 < offs.getD b 0 ∨ 268435456 < offs.getD (b + 1) 0 - offs.getD 0 0)

/-- The parameters of a SIGNATURE packet (R299). -/
structure SigParams where
  table : Nat
  mode : Nat
  out : Nat
  hint : Hint
  bags : Nat
  offs : Nat
  inds : Nat
  wts : Nat
  outAddr : Nat
  pitch : Nat
  deck : Option Nat
  edeck : Option Nat
  deriving DecidableEq, Repr

/-- The parameters of a packet (R299). -/
def Packet.sigParams (p : Packet) : SigParams :=
  let f := p.nat 15 1
  { table := p.nat 12 2, mode := f % 16, out := p.nat 14 1, hint := Hint.ofCode (natBits f 4 2), bags := p.nat 16 3,
    offs := p.addr 24, inds := p.addr 32, wts := p.addr 40, outAddr := p.addr 48, pitch := p.nat 20 4,
    deck := if f.testBit 6 then some (p.addr 56) else none, edeck := if f.testBit 7 then some (p.addr 64) else none }

/-- Row 2 of R219: the lowest parameter that is reserved, misaligned or too small, or a combination MAX refuses. -/
def SigParams.bad (a : SigParams) (d : Desc) : Option Nat :=
  match Pool.ofCode a.mode, outFormat a.out with
  | none, _ => some 2
  | _, none => some 3
  | some m, some o =>
    if m = .max ∧ !maxAllowed o d.format then some 3
    else if a.offs % 4 ≠ 0 then some 6
    else if a.inds % 4 ≠ 0 then some 7
    else if m = .weighted ∧ a.wts % 4 ≠ 0 then some 8
    else if a.outAddr % 64 ≠ 0 then some 9
    else if a.pitch % 64 ≠ 0 ∨ a.pitch < d.dim * (o.bits / 8) then some 10
    else if a.deck.any fun x => x % 4 ≠ 0 then some 11
    else if a.edeck.any fun x => x % 64 ≠ 0 then some 12
    else none

/-- The areas a signature writes, with their parameter numbers (R219 row 4). -/
def SigParams.writes (a : SigParams) (d : Desc) : List (Nat × Area) :=
  let o := (outFormat a.out).getD .binary32
  [(9, { addr := a.outAddr, pitch := a.pitch, count := a.bags, len := d.dim * (o.bits / 8) })] ++
    (a.deck.toList.map fun x => (11, .flat x (4 * a.bags))) ++
    (a.edeck.toList.map fun x => (12, { addr := x, pitch := up64 (2 * d.dim), count := a.bags, len := 2 * d.dim }))

/-- The index and weight arrays of a signature with these offsets. -/
def SigParams.arrays (a : SigParams) (first last : Nat) : List (Nat × Area) :=
  [(7, .flat (a.inds + 4 * first) (4 * (last - first)))] ++
    (if a.mode = 2 then [(8, .flat (a.wts + 4 * first) (4 * (last - first)))] else [])

/-- A signature of the packet `k` once its check has passed. -/
def SigParams.op (a : SigParams) (k : Pk) (d : Desc) (offs inds : List Nat) : SigOp :=
  { pk := k, remote := none, table := d, mode := (Pool.ofCode a.mode).getD .sum, out := (outFormat a.out).getD .binary32,
    hint := a.hint, bags := a.bags, offsets := offs, indices := inds, weights := [], indexAddr := a.inds,
    weightAddr := a.wts, outAddr := a.outAddr, pitch := a.pitch, deckleAddr := a.deck, edeckleAddr := a.edeck,
    limit := a.bags, next := 0, prefetched := 0, committed := 0, redo := [], gather := [], spine := [], writing := [],
    stop := none, mark := none, deckle := .zero }

/-- Rows 3 to 7 of R219, then the signature enters the sequencer. A read of an array that is not OK refuses the
signature with the read's status. -/
def State.sigArrays (s : State) (k : Pk) (a : SigParams) (d : Desc) : State :=
  match s.outside [(6, .flat a.offs (4 * (a.bags + 1)))] with
  | some n => s.finish k .outOfLocalRange n 0
  | none =>
    let ((st, ob), t) := s.bmeFetch .normal a.offs (4 * (a.bags + 1))
    let offs := words32 ob
    let first := offs.getD 0 0
    let arr := a.arrays first (offs.getD a.bags 0)
    if st ≠ .ok then t.finish k st 0 0
    else
      match t.outside (arr ++ a.writes d) with
      | some n => t.finish k .outOfLocalRange n 0
      | none =>
        match firstOverlap (d.area :: .flat a.offs (4 * (a.bags + 1)) :: arr.map (·.2)) (a.writes d) with
        | some n => t.finish k .badParameter n 0
        | none =>
          if t.noSubstitute then t.finish k .exceedsEngine 0 0
          else
            match badOffset offs with
            | some b => t.finish k .badBagList b 0
            | none =>
              let n := offs.getD a.bags 0 - first
              let ((st1, ib), u) := t.bmeFetch .normal (a.inds + 4 * first) (4 * n)
              let inds := words32 ib
              if st1 ≠ .ok then u.finish k st1 0 0
              else
                match (upto n).find? fun i => decide (inds.getD i 0 < d.first ∨ d.first + d.rows ≤ inds.getD i 0) with
                | some i => u.finish k .indexOutOfRange (first + i) 0
                | none =>
                  (u.modSeq fun q => { q with ops := q.ops ++ [.sig (a.op k d offs inds)] }).loadPk k

/-- SIGNATURE: the intake check of a waiting packet (R219). -/
def signature (s : State) : State :=
  match s.waitingPk fun p => p.opcode = 2 with
  | none => s
  | some p =>
    let a := p.sigParams
    match s.readDesc a.table with
    | (none, t) => t.finish p.key .badTable a.table 0
    | (some d, t) =>
      match a.bad d with
      | some n => t.finish p.key .badParameter n 0
      | none => t.sigArrays p.key a d

def execSignature (s : State) : Out := .next (s.onLive .firmware (signature s))

/-! ### Dealing (R214, R220, R235) -/

/-- Bag b's positions as places in the stored arrays: first and number (R216). -/
def SigOp.span (o : SigOp) (b : Nat) : Nat × Nat :=
  let f := o.offsets.getD 0 0
  (o.offsets.getD b 0 - f, o.offsets.getD (b + 1) 0 - o.offsets.getD b 0)

/-- The parts of one position: one per 64 B block of the row, or the whole row in a scaled format (R214). -/
def State.partsOf (s : State) (d : Desc) (index weight : Nat) : List Part :=
  let row := d.rowAddr (index - d.first)
  let n := (d.format.rowBytes d.dim + 63) / 64
  let one (bl : List Nat) : Part :=
    { role := s.roleOf (row + 64 * bl.headD 0), row := row, weight := weight, blocks := bl, issued := none, asked := 0, got := [] }
  if d.format.scaleKind = .none then (upto n).map fun j => one [j] else [one (upto n)]

/-- Bag b of a signature with every part ordered, the weights given by place within the bag. -/
def State.dealt (s : State) (o : SigOp) (b : Nat) (weights : List Nat) (mark : Option Status) : Bag :=
  let (i, n) := o.span b
  { no := b, terms := n, sums := [], stage := 5, mark := mark,
    marks := if mark.isSome then upto o.table.dim else [],
    left := (upto n).flatMap fun j => s.partsOf o.table (o.indices.getD (i + j) 0) (weights.getD j 0) }

/-- Bags gathering, and committed bags in the spine or being written (R222, R226). -/
def Sequencer.sigs (q : Sequencer) : List SigOp :=
  (q.ops.filterMap fun e => match e with
    | .sig o => some o
    | _ => none) ++ q.remoteRun
def State.gathering (s : State) : Nat := (s.seq.sigs.map fun o => o.gather.length).sum
def State.inSpine (s : State) : Nat := (s.seq.sigs.map fun o => o.spine.length + (o.writing.filter s.unwritten).length).sum

/-- BMEs that a new bag gives work restart the time their progress counts from. -/
def State.ordered (s : State) (b : Bag) : State :=
  let busy := s.seq.sigs.flatMap fun o => o.gather.flatMap fun g => g.left.map (·.role)
  ((b.left.map (·.role)).eraseDups.filter fun r => !busy.contains r).foldl (fun t r => match t.bmeOf r with
    | some x => t.modSeq fun q => { q with progress := cset (fun _ => 0) q.progress x t.clk.pkg }
    | none => t) s

/-- The index lines of bag b, each with the place of the BME that reads it (R220). -/
def SigOp.indexUnits (o : SigOp) (b : Nat) : List (Nat × Nat) :=
  let (i, n) := o.span b
  let f := o.indexAddr + 4 * o.offsets.getD 0 0
  if n = 0 then [] else dealtUnits f (f + 4 * i) (4 * n)

/-- The lines of the weights that match one index line of bag b (R220). -/
def SigOp.weightUnits (o : SigOp) (b : Nat) (u : Nat × Nat) : List (Nat × Nat) :=
  let (i, n) := o.span b
  let f := o.indexAddr + 4 * o.offsets.getD 0 0
  let lo := max u.2 (f + 4 * i)
  let hi := min (u.2 + 64) (f + 4 * (i + n))
  (unitsOf 64 (o.weightAddr + (lo - o.indexAddr)) (hi - lo)).map fun a => (u.1, a)

/-- Deal a bag of a host signature: the BMEs read its index lines with hint LAST, unless they did so ahead (R227), and the
matching weights (R220). -/
def State.dealHost (s : State) (o : SigOp) : State :=
  let b := o.redo.headD o.next
  let (i, n) := o.span b
  let t := if o.redo.isEmpty ∧ b < o.prefetched then s else s.dealReads .last (o.indexUnits b)
  let weighed : Bool := o.mode = .weighted ∧ n ≠ 0
  let (st, wb) := if weighed then t.peek (o.weightAddr + 4 * (o.offsets.getD 0 0 + i)) (4 * n) else (.ok, [])
  let u := if weighed then t.dealReads .last ((o.indexUnits b).flatMap (o.weightUnits b)) else t
  let g := u.dealt o b (words32 wb) (if st = .ok then none else some st)
  (u.ordered g).putSig { o with redo := o.redo.drop 1, next := if o.redo.isEmpty then o.next + 1 else o.next,
                                gather := o.gather ++ [g] }

/-- Take the next remote bag (R235). -/
def State.dealRemote (s : State) (o : SigOp) : State :=
  let b := s.dealt o 0 o.weights none
  (s.ordered b).modSeq fun q =>
    { q with remoteQueue := q.remoteQueue.drop 1, remoteRun := q.remoteRun ++ [{ o with next := 1, gather := [b] }] }

/-- BAG_DEAL: the next bag, alternately of the host operation and of the remote queue while both wait, at most four
gathering at once (R220, R222, R235); none during a thermal shutdown (R230). -/
def bagDeal (s : State) : State :=
  if 4 ≤ s.gathering ∨ s.shutdown then s
  else
    let host := (s.seq.ops.filterMap fun e => match e with
      | .sig o => if o.next < o.limit ∨ !o.redo.isEmpty then some o else none
      | _ => none).head?
    match host, s.seq.remoteQueue.head? with
    | none, none => s
    | some o, none => (s.dealHost o).modSeq fun q => { q with remoteTurn := true }
    | none, some r => (s.dealRemote r).modSeq fun q => { q with remoteTurn := false }
    | some o, some r =>
      if s.seq.remoteTurn then (s.dealRemote r).modSeq fun q => { q with remoteTurn := false }
      else (s.dealHost o).modSeq fun q => { q with remoteTurn := true }

def execBagDeal (s : State) : Out := .next (s.onLive .firmware (bagDeal s))

/-! ### Fetch orders (R221, R231) -/

/-- A block takes the direct path at BME b: its physical PC lies on b's channel, or on that of a failed BME for which b
substitutes (R221). -/
def State.directAt (s : State) (d : Desc) (b : Fin 32) (addr : Nat) : Bool :=
  let c := (s.readLoc addr).pc / 2
  d.direct && (decide (c = b.val) || (!s.bmeOk c && decide (s.bmeOf c = some b)))

/-- Direct reads of BME b that have not returned: its direct read tracker (R36). DESIGN CHOICE: log entry 100, an entry is freed
when its data leaves the PC. -/
def State.directReads (s : State) (b : Fin 32) : List Access :=
  let mine (a : Access) : Bool := match a.owner with
    | .bme x _ => decide (x = b)
    | _ => false
  ((s.paths.memXbar.map (·.2)) ++ s.pcs.toList.flatMap fun c =>
    c.pool.map (·.acc) ++ c.rq.map (·.acc) ++ c.fwd.map (·.acc)).filter mine

/-- Entries of BME b's row staging buffer that are taken: data that has come back for a part not yet added, and space
reserved for what is on its way (R29, R36). -/
def State.staged (s : State) (b : Fin 32) : Nat :=
  let mine (o : Owner) : Bool := match o with
    | .bme x _ => decide (x = b)
    | _ => false
  let row (r : Req) : Bool := decide (r.src = .bme b ∧ r.op = .read) && !r.quiet && !r.prefetch
  let come (p : Part) : Nat := if s.bmeOf p.role = some b then p.got.length else 0
  (s.directReads b).length + (s.paths.rets.filter fun r => mine r.owner).length + (s.requests.filter row).length +
    (s.paths.done.filter fun c => row c.req).length +
    (s.seq.sigs.map fun o => (o.gather.map fun g => (g.left.map come).sum).sum).sum

/-- BME b has room for the data of one more block: in the staging buffer, and on the direct path in its tracker of 128, of
which 64 for each PC (R29, R36). -/
def State.rowRoom (s : State) (d : Desc) (b : Fin 32) (addr : Nat) : Bool :=
  let l := s.directReads b
  decide (s.staged b < 1024) && (!s.directAt d b addr ||
    (decide (l.length < 128) && decide ((l.filter fun a => a.loc.pc = (s.physLoc addr).pc).length < 64)))

/-- BME b reads one block under a number (R221). -/
def State.readBlock (s : State) (d : Desc) (b : Fin 32) (addr id : Nat) : State :=
  if s.directAt d b addr then
    s.sendAccess { id := 0, cls := 3, loc := s.physLoc addr, addr := some addr, write := false, data := [], mask := [],
                   poison := false, owner := .bme b id }
  else s.ingress { quietRead id 0 (.bme b) .last 3 addr 64 with quiet := false }

/-- Read blocks of a row in order while there is room; `k` of the order's blocks, whose first read has the number `base`,
have been asked for before. -/
def State.readBlocks (s : State) (d : Desc) (b : Fin 32) (row base k : Nat) : List Nat → Nat × State
  | [] => (k, s)
  | j :: r =>
    if s.rowRoom d b (row + 64 * j) then (s.readBlock d b (row + 64 * j) (base + k)).readBlocks d b row base (k + 1) r
    else (k, s)

/-- A part that BME b has not yet asked for whole. -/
def State.wants (s : State) (b : Fin 32) (p : Part) : Bool :=
  decide (p.asked < p.blocks.length) && decide (s.bmeOf p.role = some b)

/-- Change the first element of a list for which a test holds. -/
def modFirst {α : Type} (test : α → Bool) (f : α → α) : List α → List α
  | [] => []
  | x :: r => if test x then f x :: r else x :: modFirst test f r

/-- FETCH_ORDER at BME b: the oldest order it has not asked for whole, as far as it has room (R29, R36, R220, R221). -/
def fetchOrder (b : Fin 32) (s : State) : State :=
  let next (g : Bag) : Option Part := g.left.find? (s.wants b)
  match s.seq.sigs.findSome? fun o => (o.gather.findSome? next).map fun p => (o, p) with
  | none => s
  | some (o, p) =>
    let base := p.issued.getD s.freshId
    let (k, t) := (if p.issued.isNone then s.skipIds p.blocks.length else s).readBlocks o.table b p.row base p.asked
      (p.blocks.drop p.asked)
    if k = p.asked then s
    else
      let step (g : Bag) : Bag :=
        { g with left := modFirst (s.wants b) (fun q => { q with issued := some base, asked := k }) g.left }
      (t.putSig { o with gather := modFirst (fun g => (next g).isSome) step o.gather }).progressed b

def execFetchOrder (b : Fin 32) (s : State) : Out := .next (s.onLive (.bme b) (fetchOrder b s))

/-! ### Arrival (R217, R221, R223, R229, R275) -/

/-- An empty place of an accumulator bank. -/
def Elem.empty : Elem := { v := none, s := .zero }

/-- Add one decoded element into its place (R217, R223); `w` is the weight. -/
def Elem.addTerm (mode : Pool) (acc : Acc) (w : Val) (e : Elem) (x : Val) : Elem :=
  match mode with
  | .max => { e with v := some (match e.v with
      | some y => y.max x
      | none => x) }
  | .weighted =>
    let p := w.mul x
    { v := some (acc.round ((e.v.getD .zero).add p)), s := addUp e.s (up32 p.abs) }
  | _ => { v := some (acc.round ((e.v.getD .zero).add x)), s := addUp e.s (up32 x.abs) }

/-- The elements that a part holds: number of the first, and their values, from the data of its blocks in order. -/
def Part.values (p : Part) (d : Desc) : Nat × List Val :=
  let data := p.blocks.flatMap fun j => ((p.got.find? fun g => g.1 = j).map fun g => sliceBytes g.2.2 0 64).getD (zeros 64)
  if d.format.scaleKind = .none then
    let per := 512 / d.format.bits
    let first := p.blocks.headD 0 * per
    let x := leNat data
    (first, (upto (min per (d.dim - first))).map fun k => d.format.decode (natBits x (d.format.bits * k) d.format.bits) 0)
  else (0, d.format.decodeRow d.dim data)

/-- The partial vector of a role. -/
def Bag.sum (g : Bag) (dim role : Nat) : List Elem :=
  ((g.sums.find? fun e => e.1 = role).map (·.2)).getD (List.replicate dim Elem.empty)

/-- Replace the partial vector of a role. -/
def Bag.setSum (g : Bag) (role : Nat) (v : List Elem) : Bag :=
  { g with sums := (role, v) :: g.sums.filter fun e => e.1 ≠ role }

/-- The 64 B blocks of a row that hold a byte of element k, of its bits or of its scale (R214, R263). -/
def Desc.blocksOf (d : Desc) (k : Nat) : List Nat :=
  let f := d.format
  [f.bits * k / 512, (f.bits * k + f.bits - 1) / 512] ++ (match f.scaleKind with
    | .none => []
    | .block => [(f.area d.dim + k / 32) / 64]
    | .row => [f.area d.dim / 64])

/-- Add the parts of an order whose data has all come back; the elements of a part that came back unusable are marked
(R221, R229). -/
def Bag.add (g : Bag) (o : SigOp) (p : Part) : Bag :=
  let (first, vals) := p.values o.table
  let bad := p.got.filter fun x => x.2.1 ≠ .ok
  let hurt (k : Nat) : Bool := (o.table.blocksOf k).any fun j => bad.any fun x => x.1 = j
  let w := ofB32 p.weight
  let old := g.sum o.table.dim p.role
  let g' : Bag := { g with marks := (((upto vals.length).map fun k => first + k).filter hurt) ++ g.marks,
                           mark := g.mark <|> bad.head?.map (·.2.1) }
  g'.setSum p.role (old.zipIdx.map fun (e, k) =>
    if first ≤ k ∧ k < first + vals.length ∧ !(hurt k) then
      e.addTerm o.mode (accOf o.table.format) w (vals.getD (k - first) .zero)
    else e)

/-- One arrival at a bag: number of the read, status, data; a part that is then complete is added. -/
def Bag.take (g : Bag) (o : SigOp) (tag : Nat) (st : Status) (data : List Byte) : Option Bag :=
  match g.left.find? fun p => p.issued.any fun i => decide (i ≤ tag ∧ tag < i + p.blocks.length) with
  | none => none
  | some p =>
    let j := p.blocks.getD (tag - p.issued.getD 0) 0
    let p' := { p with got := (j, st, data) :: p.got }
    if p'.got.length = p.blocks.length then
      some ({ g with left := g.left.filter fun x => x.issued ≠ p.issued }.add o p')
    else some { g with left := g.left.map fun x => if x.issued = p.issued then p' else x }

/-- One arrival over the bags of a signature. -/
def takeBags (o : SigOp) (tag : Nat) (st : Status) (data : List Byte) : List Bag → Option (List Bag)
  | [] => none
  | g :: r =>
    match g.take o tag st data with
    | some g' => some (g' :: r)
    | none => (takeBags o tag st data r).map fun x => g :: x

/-- Data of a read reaches its bag; what belongs to an abandoned bag is dropped (R228). -/
def State.arrived (s : State) (tag : Nat) (st : Status) (data : List Byte) : State :=
  match s.seq.sigs.findSome? fun o => (takeBags o tag st data o.gather).map fun g => (o, g) with
  | some (o, g) => s.putSig { o with gather := g }
  | none => s

/-- ROW_PART_ARRIVAL at BME b: the first data on its direct path, else on its cache path (R221); the failure of a read of another
kind stays for its engine. -/
def rowPartArrival (b : Fin 32) (s : State) : State :=
  let tagOf (o : Owner) : Option Nat := match o with
    | .bme x t => if x = b then some t else none
    | _ => none
  match s.paths.rets.find? fun r => (tagOf r.owner).isSome with
  | some r =>
    let t := s.modPaths fun x => { x with rets := x.rets.erase r }
    (t.arrived ((tagOf r.owner).getD 0) (if r.bad then .poisoned else .ok) r.data).progressed b
  | none =>
    match s.paths.done.find? fun c => c.req.src = .bme b ∧ c.req.op = .read ∧ !c.req.quiet with
    | some c =>
      let t := s.modPaths fun x => { x with done := x.done.erase c }
      (t.arrived c.req.id c.status c.data).progressed b
    | none => s

def execRowPartArrival (b : Fin 32) (s : State) : Out := .next (s.onLive (.bme b) (rowPartArrival b s))

/-! ### Commit and spine (R222 to R226) -/

/-- BAG_COMMIT: the oldest gathering bag of the first signature whose parts have all been added; at most eight committed
bags hold banks, those being written among them (R222, R226). -/
def bagCommit (s : State) : State :=
  match s.seq.sigs.find? fun o => o.gather.head?.any fun g => g.left.isEmpty with
  | some o =>
    match o.gather with
    | g :: r =>
      if 8 ≤ s.inSpine then s
      else (s.putSig { o with gather := r, spine := o.spine ++ [g], committed := max o.committed (g.no + 1) }).modSeq fun q =>
        { q with progress := (upto 32).foldl (fun m b => cset (fun _ => 0) m b s.clk.pkg) q.progress }
    | [] => s
  | none => s

def execBagCommit (s : State) : Out := .next (s.onLive .firmware (bagCommit s))

/-- Combine an element kept with the one received (R223, R224). -/
def Elem.combine (mode : Pool) (acc : Acc) (a b : Elem) : Elem :=
  match mode with
  | .max => { a with v := match a.v, b.v with
      | some x, some y => some (x.max y)
      | x, none => x
      | none, y => y }
  | _ => { v := some (acc.round ((a.v.getD .zero).add (b.v.getD .zero))), s := addUp a.s b.s }

/-- Stage k of the spine on one bag: role n keeps the blocks whose bits from k up equal its own (R223). -/
def Bag.spineStage (g : Bag) (o : SigOp) (k : Nat) : Bag :=
  let dim := o.table.dim
  let blk := (dim + 31) / 32
  let roles := (upto 32).filter fun n => g.sums.any fun e => e.1 = n ∨ e.1 = n ^^^ 2 ^ k
  { g with stage := k, sums := roles.map fun n =>
      let a := g.sum dim n
      let b := g.sum dim (n ^^^ 2 ^ k)
      (n, (a.zip b).zipIdx.map fun (x, e) =>
        if e / blk / 2 ^ k = n / 2 ^ k then x.1.combine o.mode (accOf o.table.format) x.2 else Elem.empty) }

/-- The first bag of a list at a stage, changed. -/
def stageBag (o : SigOp) (k : Nat) : List Bag → Option (List Bag)
  | [] => none
  | g :: r => if g.stage = k + 1 then some (g.spineStage o k :: r) else (stageBag o k r).map fun x => g :: x

/-- SPINE_STAGE of dimension k: the oldest committed bag that has come to it (R223, R226). -/
def spineStage (k : Fin 5) (s : State) : State :=
  match s.seq.sigs.findSome? fun o => (stageBag o k o.spine).map fun l => (o, l) with
  | some (o, l) => (s.putSig { o with spine := l }).modSeq fun q =>
      { q with progress := (upto 32).foldl (fun m b => cset (fun _ => 0) m b s.clk.pkg) q.progress }
  | none => s

def execSpineStage (k : Fin 5) (s : State) : Out := .next (s.onLive .firmware (spineStage k s))

/-! ### Finishing (R225, R229, R277, R278) -/

/-- Element e after the spine: it lies at the role of its block (R223). -/
def Bag.final (g : Bag) (dim e : Nat) : Elem := (g.sum dim (e / ((dim + 31) / 32))).getD e Elem.empty

/-- A format's code and its decoded value. -/
def Format.write (f : Format) (v : Val) : Nat × Val :=
  let c := f.elementCode .nearest 0 v
  (c, f.decode c 0)

/-- Code and bound of one element of a pooled vector (R225, R277). -/
def SigOp.finishElem (o : SigOp) (g : Bag) (e : Nat) : Nat × Val :=
  if g.terms = 0 then (o.out.elementCode .nearest 0 .zero, .zero)
  else if g.marks.contains e then (o.out.elementCode .nearest 0 .nan, .inf false)
  else
    let x := g.final o.table.dim e
    let acc := accOf o.table.format
    let n := g.terms
    let v := x.v.getD .zero
    let y := if o.mode = .mean then v.divNat .nearest acc.p (-16382 - (acc.p : Int) + 1) n else v
    let (code, written) := o.out.write y
    let k := kappa o.out 0 .nearest y
    let b := match o.mode with
      | .max => .zero
      | .sum => addUp (mulUp (gammaUp (n - 1) acc.p) x.s) k
      | .weighted => addUp (mulUp (gammaUp n acc.p) x.s) k
      | .mean =>
        let q := (mulUp (gammaUp (n - 1) acc.p) x.s).divNat .up 24 (-149) n
        let mu := if n = 2 ^ Nat.log2 n then .zero else mulUp (unitRoundoff acc.p) (up32 y.abs)
        addUp (addUp q mu) k
    (code, if written.isFinite then b else .inf false)

/-- A finished bag: the bytes of its vector, of its per-element deckles, and its deckle (R225). -/
def SigOp.finish (o : SigOp) (g : Bag) : List Byte × List Byte × Val :=
  let l := (upto o.table.dim).map (o.finishElem g)
  (l.flatMap fun x => leBytes (o.out.bits / 8) x.1, l.flatMap fun x => leBytes 2 (deckleHalf x.2),
    l.foldl (fun m x => worse m x.2) .zero)

/-- The writes of a finished bag: the role that makes each, its address and its bytes. Each BME writes its block, then come
the deckles (R225). -/
def SigOp.outputs (o : SigOp) (g : Bag) : List (Nat × Nat × List Byte) :=
  let (v, ed, d) := o.finish g
  let sz := o.out.bits / 8
  let blk := (o.table.dim + 31) / 32
  (((upto 32).filter fun m => m * blk < o.table.dim).flatMap fun m =>
    (m, o.outAddr + g.no * o.pitch + m * blk * sz, (v.drop (m * blk * sz)).take (blk * sz)) ::
      o.edeckleAddr.toList.map fun a =>
        (m, a + g.no * up64 (2 * o.table.dim) + m * blk * 2, (ed.drop (m * blk * 2)).take (blk * 2))) ++
    o.deckleAddr.toList.map fun a => (0, a + 4 * g.no, leBytes 4 (deckleWord d))

/-- Issue the writes of a finished bag; their numbers, with what they write back to the reply. -/
def State.bagWrites (s : State) (o : SigOp) (g : Bag) : Written × State :=
  (o.outputs g).foldl (fun (acc : Written × State) x =>
    let (w, t) := acc
    ({ w with ids := w.ids ++ [t.freshId] },
      t.pkWrite o.pk (.bme ((t.bmeOf x.1).getD (Fin.ofNat 32 x.1))) o.hint x.2.1 (x.2.2.map some)))
    ({ no := g.no, ids := [], deckle := (o.finish g).2.2, mark := g.mark }, s)

/-- Write a bag of a host signature (R225). -/
def State.finishHost (s : State) (o : SigOp) (g : Bag) : State :=
  let (w, t) := s.bagWrites o g
  t.sigEnd { o with spine := o.spine.filter (fun x => x.no ≠ g.no), writing := o.writing ++ [w] }

/-- Hand a remote bag's vector to the remote port (R234, R235). -/
def State.finishRemote (s : State) (o : SigOp) (g : Bag) (r : Nat) : State :=
  let (v, ed, d) := o.finish g
  let payload := if o.edeckleAddr.isSome then v ++ zeros (up64 v.length - v.length) ++ ed else v
  s.modSeq fun q =>
    { q with remoteRun := q.remoteRun.filter fun x => x.remote ≠ some r,
             answers := q.answers ++ [(r, g.mark.getD .ok, deckleWord d, payload)] }

/-- BAG_FINISH: the oldest bag that has passed every stage (R225). -/
def bagFinish (s : State) : State :=
  let s := s.settleOps
  match s.seq.sigs.findSome? fun o => (o.spine.find? fun g => g.stage = 0).map fun g => (o, g) with
  | some (o, g) => match o.remote with
    | none => s.finishHost o g
    | some r => s.finishRemote o g r
  | none => s

def execBagFinish (s : State) : Out := .next (s.onLive .firmware (bagFinish s))

/-! ### Run-ahead (R186, R227) -/

/-- Prefetches of a BME on their way. -/
def State.prefetches (s : State) (b : Fin 32) : Nat :=
  let n (l : List Req) : Nat := (l.filter fun r => r.prefetch ∧ r.src = .bme b).length
  n s.paths.reqXbar + n s.paths.fenceWait +
    (s.paths.slices.toList.map fun x => n x.input + (x.misses.map fun m => n (m.current.toList ++ m.queue)).sum).sum

/-- BAG_PREFETCH: the dealing BMEs read the index lines of the next run-ahead bag, and prefetches go out for its cache-path
parts, at most 64 outstanding at a BME (R227). -/
def bagPrefetch (s : State) : State :=
  let ahead := s.gf Reg.BME_CTRL Fld.BME_CTRL_RUNAHEAD
  match s.seq.sigs.find? fun o => o.remote.isNone ∧ max o.next o.prefetched < min o.limit (o.next + ahead) with
  | none => s
  | some o =>
    let b := max o.next o.prefetched
    let (i, n) := o.span b
    let reads := (upto n).flatMap fun j => (s.partsOf o.table (o.indices.getD (i + j) 0) 0).flatMap fun p =>
      p.blocks.map fun k => (p.role, p.row + 64 * k)
    reads.foldl (fun t (role, a) =>
      match t.bmeOf role with
      | some x =>
        if t.directAt o.table x a ∨ 64 ≤ t.prefetches x then t
        else (t.skipIds 1).ingress { quietRead t.freshId 0 (.bme x) .last 3 a 64 with prefetch := true }
      | none => t) ((s.putSig { o with prefetched := b + 1 }).dealReads .last (o.indexUnits b))

def execBagPrefetch (s : State) : Out := .next (s.onLive .firmware (bagPrefetch s))

/-! ### Failure of a BME (R231, R232, R256, R461) -/

/-- A signature gathers again every bag that it has dealt and whose writes have not all completed (R232). -/
def State.restartSig (s : State) (o' : SigOp) : State :=
  let o := s.settleSig o'
  let again := o.redo ++ (o.gather ++ o.spine).map (·.no) ++ o.writing.map (·.no)
  s.putSig { o with redo := (again.foldl (fun m b => cset (fun _ => 0) m b 1) []).map (·.1), gather := [], spine := [], writing := [] }

/-- Jobs of a failed BME whose drain has not completed run again from the first pass, and what a first run has marked counts no
more (R256). -/
def State.restartPress (s : State) (o : PressOp) (b : Fin 32) : State :=
  let mine := ((o.active ++ o.draining).filter fun j => j.bme = b.val).map (·.no)
  (s.putPress { o with active := o.active.filter (fun j => j.bme ≠ b.val), draining := o.draining.filter (fun j => j.bme ≠ b.val),
                       redo := o.redo ++ mine, marked := o.marked.filter fun m => !mine.contains m.1 }).modSeq fun q =>
    { q with presses := q.presses.set b (q.presses[b].abandon mine) }

/-- BME b fails under a condition of R461: its bit is set, the failure is captured (R444), its domain goes off, and its
work goes to its substitute. -/
def bmeFail (b : Fin 32) (cond : Nat) (s : State) : State :=
  if !s.bmeOk b then s
  else
    let bits := s.gf Reg.BME_FAILED Fld.BME_FAILED_FAILED ||| 2 ^ b.val
    let t := (s.sf Reg.BME_FAILED Fld.BME_FAILED_FAILED bits).known Reg.BME_FAILED |>.raise Reg.PC_REPAIR_EVENT Fld.PC_REPAIR_EVENT_BME_FAIL
    let t := (((t.fec .bme false b 0).fwDom (64 + b) .off).logRec 0x0076 [b, cond]).modPwr fun w =>
      { w with up := w.up.set (Fin.ofNat 133 (Island.bme b).index) false }
    let t := t.seq.ops.foldl (fun t e => match e with
      | .sig o => t.restartSig o
      | .press o => t.restartPress o b
      | .ew _ => t) t
    t.modSeq fun q => { q with remoteRun := [], remoteQueue :=
      (q.remoteRun.map fun o => { o with next := 0, gather := [], spine := [], committed := 0 }) ++ q.remoteQueue }

def execBmeFail (b : Fin 32) (cond : BitVec 2) (s : State) : Out := .next (s.onLive (.bme b) (bmeFail b cond.toNat s))

/-- BME b has work that has stood for 100 µs: an ordered part, or a committed bag in the spine (R461). -/
def State.bmeStuck (s : State) (b : Fin 32) : Bool :=
  let parts : Bool := s.seq.sigs.any fun o => o.gather.any fun g => g.left.any fun p => s.bmeOf p.role = some b
  let spine : Bool := s.seq.sigs.any fun o => o.spine.any fun g => g.stage ≠ 0
  (parts || spine) && decide (cget (fun _ => 0) s.seq.progress b + 100000 ≤ s.clk.pkg)

/-- BME_PROGRESS_TIMEOUT (R461). -/
def bmeProgressTimeout (b : Fin 32) (s : State) : State := if s.bmeStuck b then bmeFail b 2 s else s

def execBmeProgressTimeout (b : Fin 32) (s : State) : Out := .next (s.onLive .firmware (bmeProgressTimeout b s))

end Sys2Proof.Machine
end

