-- ==== Sys2Proof/Machine/Elementwise.lean ====
section
/-! DEFINITION. Meanings of the element-wise and row operations (08: R236 to R241; 11: R300, R301; 10: R269 to R272,
R276, R277). -/

namespace Sys2Proof.Machine

/-! ### Intake (R219, R241, R300, R301) -/

/-- OP of an ELEMENTWISE packet. -/
def Packet.ewOp (p : Packet) : Nat := p.nat 12 1 % 16

/-- Formats of SCALE_ADD, MUL and RELU (R236). -/
def Format.isPlain (f : Format) : Bool := f = .binary64 ∨ f = .binary32 ∨ f = .binary16 ∨ f = .bfloat16

/-- Source formats of ROW_QUANTISE, and formats of the rows of ROW_UPDATE (R236). -/
def Format.quantisable (f : Format) : Bool := f = .binary32 ∨ f = .binary16 ∨ f = .bfloat16
def Format.updatable (f : Format) : Bool := f.quantisable ∨ f = .e4m3 ∨ f = .e5m2

/-- Elements of one 64 B block of an operand of operations 0 to 3 (R264). -/
def Format.perBlock (f : Format) : Nat := if f.scaleKind = .none then 512 / f.bits else 32

/-- 64 B blocks of `n` elements (R264). -/
def Format.blocks (f : Format) (n : Nat) : Nat := (n + f.perBlock - 1) / f.perBlock

/-- Bytes of `n` elements of an operand of operations 0 to 3 (R264). -/
def Format.extent (f : Format) (n : Nat) : Nat := if f.scaleKind = .none then n * f.bits / 8 else 64 * f.blocks n

/-- An operation with nothing in it yet. -/
def Packet.ewNew (p : Packet) : EwOp :=
  { pk := p.key, op := p.ewOp, stochastic := (p.nat 12 1).testBit 4, hint := Hint.ofCode (natBits (p.nat 12 1) 5 2),
    xf := .binary32, yf := .binary32, count := 0, alpha := 0, beta := 0, xAddr := 0, yAddr := 0, src := none, dst := none,
    firstRow := 0, indices := [], gradAddr := 0, gradPitch := 0, next := 0, total := 0, mark := none, deckle := .zero,
    lfsr := Vector.replicate 32 1 }

/-- The LFSR of each BME from SEED (R272). -/
def seedAll (seed : Nat) : Vector Nat 32 := Vector.ofFn fun c : Fin 32 => lfsrSeed (seed ^^^ c.val * 2 ^ 24)

/-- An operation whose check has passed enters the sequencer. -/
def State.ewStart (s : State) (o : EwOp) : State := (s.modSeq fun q => { q with ops := q.ops ++ [.ew o] }).loadPk o.pk

/-- Operations 0 to 3 (R237, R300). -/
def State.ewBlocks (s : State) (p : Packet) : State :=
  let n := p.nat 16 4
  let x := p.addr 32
  let y := p.addr 40
  match Format.ofCode (p.nat 13 1), Format.ofCode (p.nat 14 1) with
  | none, _ => s.finish p.key .badParameter 4 0
  | _, none => s.finish p.key .badParameter 5 0
  | some f, some g =>
    let ok (h : Format) : Bool := decide (p.ewOp = 3) || h.isPlain
    if !ok f then s.finish p.key .badParameter 4 0
    else if !ok g then s.finish p.key .badParameter 5 0
    else if x % 64 ≠ 0 then s.finish p.key .badParameter 9 0
    else if y % 64 ≠ 0 then s.finish p.key .badParameter 10 0
    else
      match s.outside [(9, .flat x (f.extent n)), (10, .flat y (g.extent n))] with
      | some k => s.finish p.key .outOfLocalRange k 0
      | none =>
        if x ≠ y ∧ overlap (.flat x (f.extent n)) (.flat y (g.extent n)) then s.finish p.key .badParameter 10 0
        else if s.noSubstitute then s.finish p.key .exceedsEngine 0 0
        else s.ewStart { p.ewNew with xf := f, yf := g, count := n, alpha := p.nat 20 4, beta := p.nat 24 4, xAddr := x,
                                      yAddr := y, total := g.blocks n }

/-- ROW_QUANTISE (R238, R301). -/
def State.ewQuantise (s : State) (p : Packet) : State :=
  let a := p.nat 16 2
  let b := p.nat 18 2
  let first := p.nat 20 4
  let n := p.nat 24 4
  let (da, s) := s.readDesc a
  let (db, s) := s.readDesc b
  match da, db with
  | none, _ => s.finish p.key .badTable a 0
  | _, none => s.finish p.key .badTable b 0
  | some x, some y =>
    if !x.format.quantisable then s.finish p.key .badTable a 0
    else if y.format.scaleKind = .none ∨ x.dim ≠ y.dim ∨ x.rows ≠ y.rows then s.finish p.key .badTable b 0
    else if first + n ≤ x.rows ∧ overlap (x.rowArea first n) (y.rowArea first n) then s.finish p.key .badParameter 7 0
    else if s.noSubstitute then s.finish p.key .exceedsEngine 0 0
    else if x.rows < first + n then s.finish p.key .indexOutOfRange first 0
    else s.ewStart { p.ewNew with src := some x, dst := some y, firstRow := first, total := n,
                                  lfsr := seedAll (p.nat 28 4) }

/-- ROW_UPDATE (R239, R301). -/
def State.ewUpdate (s : State) (p : Packet) : State :=
  let t := p.nat 16 2
  let n := p.nat 20 4
  let ia := p.addr 32
  let ga := p.addr 40
  let gp := p.nat 48 4
  let (d?, s) := s.readDesc t
  match d? with
  | none => s.finish p.key .badTable t 0
  | some d =>
    let gf := p.nat 18 1
    let size := if gf = 1 then 4 else 2
    if !d.format.updatable then s.finish p.key .badTable t 0
    else if gf ≠ 1 ∧ gf ≠ 2 then s.finish p.key .badParameter 7 0
    else if 268435456 < n then s.finish p.key .badParameter 8 0
    else if ia % 4 ≠ 0 then s.finish p.key .badParameter 11 0
    else if ga % 64 ≠ 0 then s.finish p.key .badParameter 12 0
    else if gp % 64 ≠ 0 ∨ gp < d.dim * size then s.finish p.key .badParameter 13 0
    else
      let ind := Area.flat ia (4 * n)
      let grad : Area := { addr := ga, pitch := gp, count := n, len := d.dim * size }
      match s.outside [(11, ind), (12, grad)] with
      | some k => s.finish p.key .outOfLocalRange k 0
      | none =>
        if overlap d.area ind ∨ overlap d.area grad then s.finish p.key .badParameter 6 0
        else if s.noSubstitute then s.finish p.key .exceedsEngine 0 0
        else
          let ((st, ib), u) := s.bmeFetch .normal ia (4 * n)
          let inds := words32 ib
          if st ≠ .ok then u.finish p.key st 0 0
          else
            match (upto n).find? fun i => decide (inds.getD i 0 < d.first ∨ d.first + d.rows ≤ inds.getD i 0) with
            | some i => u.finish p.key .indexOutOfRange i 0
            | none => u.ewStart { p.ewNew with
                src := some d, xf := if gf = 1 then .binary32 else .binary16, yf := d.format, count := n,
                alpha := p.nat 24 4, indices := inds, gradAddr := ga, gradPitch := gp, total := n,
                lfsr := seedAll (p.nat 28 4) }

/-- The intake check of a waiting ELEMENTWISE packet; a reserved OP is refused (R236). -/
def State.ewIntake (s : State) (p : Packet) : State :=
  if p.ewOp < 4 then s.ewBlocks p
  else if p.ewOp = 4 then s.ewQuantise p
  else if p.ewOp = 5 then s.ewUpdate p
  else s.finish p.key .badParameter 1 0

/-! ### Rounding and bounds -/

/-- The numbers that `n` elements draw from an LFSR in turn, and its state afterwards (R272). -/
def draws : Nat → Nat → List Nat × Nat
  | 0, x => ([], x)
  | n + 1, x =>
    let y := lfsrRun 16 x
    let (l, z) := draws n y
    (y % 65536 :: l, z)

/-- The rounding of element k of a list of draws; to nearest without them. -/
def rounding (l : List Nat) (k : Nat) : Rnd := match l[k]? with
  | some r => .stochastic r
  | none => .nearest

/-- The error of a written value, exactly, rounded upward; infinite for a result that is not finite (R275, R277). -/
def exactError (x y : Val) : Val := if y.isFinite then up32 (x.add y.neg).abs else .inf false

/-- What one step of an operation has left: the largest bound, and the first mark. -/
def EwOp.after (o : EwOp) (bound : Val) (bad : Option Status) : EwOp :=
  { o with next := o.next + 1, deckle := worse o.deckle bound,
           mark := match o.mark with
             | some m => some m
             | none => bad.map fun st => (o.next, st) }

/-- The operation goes on, or completes after its last step (R297, R300). -/
def State.ewNext (s : State) (o : EwOp) : State :=
  if o.next < o.total then s.putEw o
  else match o.mark with
    | some (i, st) => s.ewEnd o st i
    | none => s.ewEnd o .ok o.total

/-! ### Operations 0 to 3, one 64 B block of y (R237) -/

/-- Read elements [i, i + n) of an operand (R264). -/
def State.readElems (s : State) (b : Fin 32) (f : Format) (addr i n : Nat) : (Status × List Val) × State :=
  if f.scaleKind = .none then
    let ((st, d), t) := s.fetch (.bme b) .normal 3 64 (addr + i * f.bits / 8) (n * f.bits / 8)
    ((st, f.decodeRow n d), t)
  else
    -- Block k holds elements 32k on; a short last row has its own layout (R264).
    let ((st, d), t) := s.fetch (.bme b) .normal 3 64 (addr + i / 32 * 64) (64 * ((i % 32 + n + 31) / 32))
    ((st, (upto n).map fun k =>
      let j := i % 32 + k
      f.rowElem 32 (sliceBytes d (j / 32 * 64) 64) (j % 32)), t)

/-- The same in a scaled format whose last row of the operand may be short. -/
def State.readOperand (s : State) (b : Fin 32) (f : Format) (addr total i n : Nat) : (Status × List Val) × State :=
  if f.scaleKind = .none ∨ (i + n) / 32 * 32 + 32 ≤ total ∨ total % 32 = 0 then s.readElems b f addr i n
  else
    let ((st, d), t) := s.fetch (.bme b) .normal 3 64 (addr + i / 32 * 64) (64 * ((i % 32 + n + 31) / 32))
    ((st, (upto n).map fun k =>
      let j := i % 32 + k
      let blk := i / 32 + j / 32
      f.rowElem (min 32 (total - 32 * blk)) (sliceBytes d (j / 32 * 64) 64) (j % 32)), t)

/-- The value and its bound before conversion: α × x + β × y, x × y, max(x, +0) or x (R236, R277). -/
def EwOp.value (o : EwOp) (acc : Acc) (x y : Val) : Val × Option Val :=
  match o.op with
  | 0 =>
    let ax := (ofB32 o.alpha).mul x
    let bY := (ofB32 o.beta).mul y
    (acc.round (ax.add (acc.round bY)),
      some (mulUp (gammaUp 2 acc.p) (addUp (up32 ax.abs) (up32 bY.abs))))
  | 1 => (acc.round (x.mul y), some (mulUp (unitRoundoff acc.p) (up32 (x.mul y).abs)))
  | 2 => (x.max .zero, none)
  | _ => (x, none)

/-- Written bytes of a block of y, and its largest bound (R268 to R270, R277). -/
def EwOp.encode (o : EwOp) (vals : List (Val × Option Val)) : List Byte × Val :=
  let f := o.yf
  let bytes := f.encodeRow (fun _ => .nearest) (vals.map (·.1))
  let out := f.decodeRow vals.length bytes
  let bounds := (vals.zip out).map fun (v, w) =>
    match v.2 with
    | some b => if w.isFinite then addUp b (kappa f 0 .nearest v.1) else .inf false
    | none => exactError v.1 w
  (if f.scaleKind = .none then bytes else sliceBytes bytes 0 64, bounds.foldl worse .zero)

/-- One 64 B block of y. An unusable operand marks the block; what is then written is not stated: free bytes. -/
def State.ewBlock (s : State) (o : EwOp) : State :=
  let i := o.next * o.yf.perBlock
  let n := min o.yf.perBlock (o.count - i)
  let y := o.yAddr + 64 * o.next
  match s.bmeOf (s.roleOf y) with
  | none => s
  | some b =>
    let acc : Acc := if o.xf = .binary64 ∨ o.yf = .binary64 then .acc64 else .acc32
    let ((sx, xs), t) := s.readOperand b o.xf o.xAddr o.count i n
    let ((sy, ys), t) := if o.op < 2 then t.readOperand b o.yf o.yAddr o.count i n else ((.ok, []), t)
    let bad : Option Status := if sx ≠ .ok then some sx else if sy ≠ .ok then some sy else none
    let vals := (upto n).map fun k => o.value acc (xs.getD k .zero) (ys.getD k .zero)
    let (bytes, bound) := o.encode vals
    match bad with
    | none => ((t.pkWrite o.pk (.bme b) o.hint y (bytes.map some)).ewNext (o.after bound none))
    | some st =>
      let free := (upto bytes.length).map fun k => some (BitVec.ofNat 8 ((Config.openValue (t.free * 64 + k)).toNat))
      ((t.tick.pkWrite o.pk (.bme b) o.hint y free).ewNext (o.after (.inf false) (some st)))

/-! ### ROW_QUANTISE, one row (R238, R240, R270, R271) -/

/-- One row. -/
def State.ewQuantRow (s : State) (o : EwOp) : State :=
  match o.src, o.dst with
  | some x, some y =>
    let r := o.firstRow + o.next
    let out := y.rowAddr r
    match s.bmeOf (s.roleOf out) with
    | none => s
    | some b =>
      let ((st, d), t) := s.fetch (.bme b) .normal 3 64 (x.rowAddr r) (x.format.rowBytes x.dim)
      let vals := x.format.decodeRow x.dim d
      let (l, z) := if o.stochastic then draws x.dim o.lfsr[b] else ([], o.lfsr[b])
      let bytes := y.format.encodeRow (rounding l) vals
      let back := y.format.decodeRow y.dim bytes
      let bound := (vals.zip back).foldl (fun m (v, w) => worse m (exactError v w)) .zero
      let o' := { o with lfsr := o.lfsr.set b z }
      if st = .ok then (t.pkWrite o.pk (.bme b) o.hint out (bytes.map some)).ewNext (o'.after bound none)
      else
        let free := (upto bytes.length).map fun k => some (BitVec.ofNat 8 ((Config.openValue (t.free * 8192 + k)).toNat))
        (t.tick.pkWrite o.pk (.bme b) o.hint out free).ewNext (o'.after (.inf false) (some st))
  | _, _ => s

/-! ### ROW_UPDATE, one position (R239, R240, R277) -/

/-- The request's line meets the range. -/
def meetsLines (addr len a : Nat) : Bool := decide (addr / 128 * 128 ≤ a / 128 * 128 ∧ a / 128 * 128 < addr + len)

/-- A write of a BME to the lines of a range is still on its way. -/
def State.bmeWriting (s : State) (addr len : Nat) : Bool := s.travels fun r => r.kept && meetsLines addr len r.addr

/-- One row part of a position: the row elements from `e` on, `n` of them, at the BME of its block. -/
def State.ewPart (s : State) (o : EwOp) (d : Desc) (row gr e n : Nat) : State × EwOp × Val × Option Status :=
  let f := d.format
  let a := row + e * f.bits / 8
  match s.bmeOf (s.roleOf a) with
  | none => (s, o, .zero, none)
  | some b =>
    let ((s1, rb), t) := s.fetch (.bme b) .stream 3 64 a (n * f.bits / 8)
    let ((s2, gb), t) := t.fetch (.bme b) .normal 3 64 (gr + e * o.xf.bits / 8) (n * o.xf.bits / 8)
    let xs := f.decodeRow n rb
    let gs := o.xf.decodeRow n gb
    let sums := (xs.zip gs).map fun (x, g) => Acc.acc32.round (x.add ((ofB32 o.alpha).mul g))
    let (l, z) := if o.stochastic then draws n o.lfsr[b] else ([], o.lfsr[b])
    let codes := sums.zipIdx.map fun (v, k) => f.elementCode (rounding l k) 0 v
    let bound := (sums.zip codes).zipIdx.foldl (fun m ((v, c), k) =>
      worse m (if (f.decode c 0).isFinite then addUp (mulUp (unitRoundoff 24) (up32 v.abs)) (kappa f 0 (rounding l k) v)
        else .inf false)) .zero
    let o' := { o with lfsr := o.lfsr.set b z }
    let bytes := codes.flatMap fun c => leBytes (f.bits / 8) c
    if s1 = .ok ∧ s2 = .ok then (t.pkWrite o.pk (.bme b) .stream a (bytes.map some), o', bound, none)
    else
      let free := (upto bytes.length).map fun k => some (BitVec.ofNat 8 ((Config.openValue (t.free * 64 + k)).toNat))
      (t.tick.pkWrite o.pk (.bme b) .stream a free, o', .inf false, some (if s1 = .ok then s2 else s1))

/-- One position: every part of its row. It waits for an earlier write to the row (R239). -/
def State.ewPosition (s : State) (o : EwOp) : State :=
  match o.src with
  | none => s
  | some d =>
    let row := d.rowAddr (o.indices.getD o.next 0 - d.first)
    let bytes := d.format.rowBytes d.dim
    let per := 512 / d.format.bits
    let stalled : Bool := (unitsOf 64 row bytes).any fun a => (s.bmeOf (s.roleOf a)).isNone
    if stalled ∨ s.bmeWriting row bytes then s
    else
      let (t, o', bound, bad) := (upto ((d.dim + per - 1) / per)).foldl (fun (acc : State × EwOp × Val × Option Status) j =>
        let (t, q, m, w) := acc
        let (t', q', b, w') := t.ewPart q d row (o.gradAddr + o.next * o.gradPitch) (j * per) (min per (d.dim - j * per))
        (t', q', worse m b, w <|> w')) (s, o, .zero, none)
      t.ewNext (o'.after bound bad)

/-! ### The rows of the table -/

/-- One step of the ELEMENTWISE operation `op`: its waiting packet is checked, or its next block, row or position is
carried out. -/
def ewStep (mine : Nat → Bool) (step : State → EwOp → State) (s : State) : State :=
  match s.waitingPk fun p => decide (p.opcode = 3) && mine p.ewOp with
  | some p => s.ewIntake p
  | none =>
    match s.seq.ops.findSome? fun e => match e with
      | .ew o => if mine o.op then some o else none
      | _ => none with
    | some o => if s.shutdown then s else step s o
    | none => s

/-- SCALE_ADD, OP 0; a reserved OP is refused by the same row. -/
def execScaleAdd (s : State) : Out :=
  .next (s.onLive .firmware (ewStep (fun k => decide (k = 0 ∨ 5 < k)) State.ewBlock s))
/-- MUL, OP 1. -/
def execMul (s : State) : Out := .next (s.onLive .firmware (ewStep (fun k => decide (k = 1)) State.ewBlock s))
/-- RELU, OP 2. -/
def execRelu (s : State) : Out := .next (s.onLive .firmware (ewStep (fun k => decide (k = 2)) State.ewBlock s))
/-- CONVERT, OP 3. -/
def execConvert (s : State) : Out := .next (s.onLive .firmware (ewStep (fun k => decide (k = 3)) State.ewBlock s))
/-- ROW_QUANTISE, OP 4. -/
def execRowQuantise (s : State) : Out := .next (s.onLive .firmware (ewStep (fun k => decide (k = 4)) State.ewQuantRow s))
/-- ROW_UPDATE, OP 5. -/
def execRowUpdate (s : State) : Out := .next (s.onLive .firmware (ewStep (fun k => decide (k = 5)) State.ewPosition s))

end Sys2Proof.Machine
end

