-- ==== Sys2Proof/Machine/HostPort.lean ====
section
/-! DEFINITION. Meanings of the host-port rows (02: R50 to R55) with the checks of the ingress (R28, R51). -/

namespace Sys2Proof.Machine

/-- A request carries write data by its OP (R52, R53). -/
def HostOp.writes : HostOp → Bool
  | .write => true
  | .atomic => true
  | .reduceInto => true
  | _ => false

/-- Requests that occupy the read or the write request queue of a port (R52). -/
def HostPort.queued (h : HostPort) (writes : Bool) : Nat :=
  (h.txns.filter fun t => t.op.writes = writes).length

/-- The line parts of a request: package address and offset within the request. -/
def lineParts (addr size : Nat) : List (Nat × Nat) :=
  if size ≤ 128 then [(addr, 0)] else [(addr, 0), (addr + 128, 128)]

/-- Class of a host-port request's fill (R34). -/
def hostClass (op : HostOp) (urgent : Bool) : Nat := if op = .read ∧ urgent then 0 else 1

/-- The immediate answer of the ingress, if it gives one (R50, R51): the checks keep this order. -/
def State.hostRefusal (s : State) (t : HostTxn) (sizeOk : Bool) : Option Status :=
  if t.op = .reserved ∨ !sizeOk then some .badRequest
  else if t.addr % t.size ≠ 0 then some .badRequest
  else if t.strobeOut then some .badRequest
  else match s.route t.addr with
    | .hole => some .absent
    | .own _ => if s.shutdown then some .thermalShutdown else none
    | .other n => if (s.towards n).isNone then some .absent else none

/-- An ATOMIC or a contribution covers some element with only some of its strobes, in any of its lines (R195). -/
def HostTxn.torn (t : HostTxn) : Bool :=
  match AtomFormat.ofCode (natBits t.attr 4 4) with
  | none => false
  | some f => decide (t.op = .atomic ∨ t.op = .reduceInto) && decide (natBits t.attr 0 4 < 4) &&
      !strobesWhole t.size f.bytes t.strb

/-- The requests of one transaction as they enter the request crossbar, one per line (R50, R53). -/
def HostTxn.parts (t : HostTxn) : List Req :=
  (lineParts t.addr t.size).map fun (a, o) =>
    { id := t.id, part := o / 128, src := .host t.port, op := t.op, addr := a, size := min t.size 128,
      hint := t.hint, discard := t.discard && decide (t.hint = .last), urgent := t.urgent && decide (t.op = .read),
      attr := t.attr, cls := hostClass t.op t.urgent, data := (t.data.drop o).take 128, strb := (t.strb.drop o).take 128,
      prefetch := false, count := natBits t.attr 8 8, deckle := 0, torn := t.torn }

/-- The request leaves its port: refused at once, or sent towards its slice or the ring (R28, R50, R51). -/
def State.launch (s : State) (t : HostTxn) (sizeOk : Bool) : State :=
  let mark (f : HostTxn → HostTxn) : State :=
    s.modPort t.port fun h => { h with txns := h.txns.map fun x => if x.id = t.id then f x else x }
  match s.hostRefusal t sizeOk with
  | some st =>
    (mark fun x => { x with sent := true, ready := true, status := st }).modTag t.id fun r => { r with path := 6 }
  | none =>
    t.parts.foldl (fun u r => u.ingress r)
      (mark fun x => { x with sent := true, partsLeft := t.parts.length, rsp := zeros t.size })

/-- A transaction touches a line that an earlier unsent one of its port also touches (R53). DESIGN CHOICE: log entry 72, an
earlier write of a reserved SIZE, which has no range, counts as touching the line of its address. -/
def blockedBy (earlier : List HostTxn) (t : HostTxn) : Bool :=
  earlier.any fun e => !e.sent && ((lineParts e.addr e.size).any fun (a, _) =>
    (lineParts t.addr t.size).any fun (b, _) => a / 128 = b / 128)

/-- The first request of a port that may leave it: its data complete, nothing earlier to its line waiting (R53). -/
def firstLaunch : List HostTxn → List HostTxn → Option HostTxn
  | _, [] => none
  | earlier, t :: ts =>
    if !t.sent ∧ t.beatsLeft = 0 ∧ !t.discardBeats ∧ !blockedBy earlier t then some t
    else firstLaunch (earlier ++ [t]) ts

/-- Every request of a port that may leave it leaves it (R53); at most `n`. -/
def State.launchAll : Nat → Fin 16 → State → State
  | 0, _, s => s
  | n + 1, p, s =>
    match firstLaunch [] s.paths.ports[p].txns with
    | none => s
    | some t => State.launchAll n p (s.launch t (decide (t.size ≠ 0)))

/-- Admission at the host ports is stopped by a warm-reset notice (R46). -/
def State.portReady (s : State) (p : Fin 16) : Bool := s.paths.ports[p].reqReady && !s.pwr.quiesced

/-- HOST_REQUEST: a request transfers at a port whose queue for it has room (R28, R50 to R53). -/
def hostRequest (p : Fin 16) (addr : BitVec 52) (op : BitVec 4) (size : BitVec 3) (hint : BitVec 2)
    (discard urgent : Bool) (tag : BitVec 7) (attr : BitVec 16) (s : State) : State :=
  let o := HostOp.ofCode op.toNat
  let sz := (sizeOfCode size.toNat).getD 0
  if s.portReady p ∧ s.paths.ports[p].queued o.writes < 64 then
    let beats := if !o.writes then 0 else if sz = 256 then 2 else 1
    let t : HostTxn :=
      { id := s.paths.nextId, port := p, tag := tag.toNat, op := o, addr := addr.toNat, size := sz,
        hint := Hint.ofCode hint.toNat, discard := discard, urgent := urgent, attr := attr.toNat,
        beatsLeft := if sz = 0 then 0 else beats, discardBeats := o.writes && decide (sz = 0), strobeOut := false, data := [], strb := [],
        sent := false, partsLeft := 0, status := .ok, hasData := false, rsp := [], ready := false, beatsOut := 0 }
    let tr : TagRec :=
      { id := t.id, port := p, op := op.toNat, hint := hint.toNat, addr := addr.toNat, cls := hostClass o urgent, path := 0,
        pc := 255, slice := 255, status := 0, stamps := [(0, s.now (.hostPort p))] }
    let u := (s.draw p 0 tr).modPort p fun h => { h with txns := h.txns ++ [t] }
    State.launchAll 128 p (u.skipIds 1)
  else s

def execHostRequest (p : Fin 16) (addr : BitVec 52) (op : BitVec 4) (size : BitVec 3) (hint : BitVec 2)
    (discard urgent : Bool) (tag : BitVec 7) (attr : BitVec 16) (s : State) : Out :=
  .next (s.onLive (.hostPort p) (hostRequest p addr op size hint discard urgent tag attr s))

/-- The bytes and strobes that a beat gives a request: byte b of the request is at lane (address + b) mod 128; a strobe
outside the request's range shows beyond its size (R53). -/
def HostTxn.takeBeat (t : HostTxn) (data : List Byte) (strb : List Bool) : HostTxn :=
  let n := min t.size 128
  let lane := t.addr % 128
  let inside := (upto n).map fun b => strb.getD ((lane + b) % 128) false
  let outside : Bool := (upto 128).any fun l => strb.getD l false && !((upto n).any fun b => (lane + b) % 128 = l)
  { t with beatsLeft := t.beatsLeft - 1, strobeOut := t.strobeOut || outside, strb := t.strb ++ inside,
           data := t.data ++ (upto n).map fun b => data.getD ((lane + b) % 128) 0 }

/-- HOST_WRITE_DATA_BEAT: the beat goes to the oldest request whose data is incomplete (R50, R53). -/
def hostWriteDataBeat (p : Fin 16) (data : List Byte) (strb : List Bool) (last : Bool) (s : State) : State :=
  match s.paths.ports[p].txns.find? fun t => t.discardBeats || decide (0 < t.beatsLeft) with
  | none => s
  | some t =>
    let t' := if t.discardBeats then { t with discardBeats := !last } else t.takeBeat data strb
    State.launchAll 128 p (s.modPort p fun h => { h with txns := h.txns.map fun x => if x.id = t.id then t' else x })

def execHostWriteDataBeat (p : Fin 16) (data : List Byte) (strb : List Bool) (last : Bool) (s : State) : Out :=
  .next (s.onLive (.hostPort p) (hostWriteDataBeat p data strb last s))

/-- A response takes two beats for 256 B of data, else one (R54). -/
def HostTxn.beats (t : HostTxn) : Nat := if t.hasData ∧ 128 < t.rsp.length then 2 else 1

/-- The response whose beat transfers next: the one that has begun, for the beats of a response are consecutive, else the
oldest ready one of the tag (R54). -/
def HostPort.answering (h : HostPort) (tag : Nat) : Option HostTxn :=
  match h.txns.find? fun t => t.ready && decide (0 < t.beatsOut) with
  | some t => some t
  | none => h.txns.find? fun t => t.ready && decide (t.tag = tag)

/-- HOST_RESPONSE_BEAT: the next beat of a response transfers, `tag` choosing among those that have not begun; the last beat
frees the tag and the reserved space (R29, R52, R54, R55). -/
def hostResponseBeat (p : Fin 16) (tag : BitVec 7) (s : State) : State :=
  match s.paths.ports[p].answering tag.toNat with
  | none => s
  | some t =>
    let last : Bool := t.beats ≤ t.beatsOut + 1
    let beat : RspBeat :=
      { tag := t.tag, status := t.status, hasData := t.hasData, last := last,
        data := if t.hasData then (t.rsp.drop (128 * t.beatsOut)).take 128 else [] }
    let u := s.modPort p fun h =>
      { h with out := h.out ++ [beat],
               txns := if last then h.txns.filter fun x => x.id ≠ t.id
                 else h.txns.map fun x => if x.id = t.id then { x with beatsOut := x.beatsOut + 1 } else x }
    if last then u.endTag t.id (u.now (.hostPort p)) t.status else u

def execHostResponseBeat (p : Fin 16) (tag : BitVec 7) (s : State) : Out :=
  .next (s.onLive (.hostPort p) (hostResponseBeat p tag s))

end Sys2Proof.Machine
end

