-- ==== Sys2Proof/Machine/Flags.lean ====
section
/-! DEFINITION. The interrupt sources and the levels of the IRQ lines (R58, R310, R470, R521, R526, R527). -/

namespace Sys2Proof.Machine

/-- Some PC has one of the bits of PC_ECC_STATUS_p set. -/
def State.anyEcc (s : State) (fs : List Fld) : Bool :=
  (upto 64).any fun p => fs.any fun f => s.bit (Reg.PC_ECC_STATUS p) f

/-- PC_ERR_SUMMARY: bit p is 1 while a W1C bit of PC_ECC_STATUS_p is set (R470). -/
def State.errSummary (s : State) : Nat :=
  (upto 64).foldl (fun a p => if (s.rd (Reg.PC_ECC_STATUS p)).toNat / 2 ^ 26 = 0 then a else a + 2 ^ p) 0

/-- A queue source is pending while COUNT differs from ACK (R310). -/
def State.queuePending (s : State) (q : Nat) : Bool :=
  decide (s.gf64 (Reg.FW_QIRQ q) Fld.FW_QIRQ_COUNT ≠ s.gf64 (Reg.FW_QIRQ q) Fld.FW_QIRQ_ACK)

/-- A source of the hardware: its bit in ID_IRQ_SOURCES, whether it is pending and its line (R470, R521, R526). -/
def State.hwSources (s : State) : List (Nat × Bool × Nat) :=
  let e := Reg.PC_ERR_IRQ
  let t := Reg.THERM_IRQ
  let th := Reg.THERM_STATUS
  [(1, s.bit e Fld.PC_ERR_IRQ_CE_EN && s.anyEcc [Fld.PC_ECC_STATUS_CE], s.gf e Fld.PC_ERR_IRQ_CE_LINE),
   (2, s.bit e Fld.PC_ERR_IRQ_UE_EN &&
     s.anyEcc [Fld.PC_ECC_STATUS_UE, Fld.PC_ECC_STATUS_CA_FAIL, Fld.PC_ECC_STATUS_KB_OVERFLOW], s.gf e Fld.PC_ERR_IRQ_UE_LINE),
   (3, s.bit e Fld.PC_ERR_IRQ_CA_EN && s.anyEcc [Fld.PC_ECC_STATUS_CA_ERR], s.gf e Fld.PC_ERR_IRQ_CA_LINE),
   (4, s.bit e Fld.PC_ERR_IRQ_REPAIR_EN && decide (s.rd Reg.PC_REPAIR_EVENT ≠ 0), s.gf e Fld.PC_ERR_IRQ_REPAIR_LINE),
   (5, s.bit e Fld.PC_ERR_IRQ_LINK_EN &&
     ((upto 2).any fun x => decide ((s.rd (Reg.D2D_LANE_STATUS x)).toNat &&& 0x04000400 ≠ 0)), s.gf e Fld.PC_ERR_IRQ_LINK_LINE),
   (6, s.bit Reg.CNT_CTRL Fld.CNT_CTRL_IRQ_EN && decide (s.rd Reg.CNT_STATUS ≠ 0), s.gf Reg.CNT_CTRL Fld.CNT_CTRL_IRQ_LINE),
   (7, s.bit t Fld.THERM_IRQ_WARN_EN && s.bit th Fld.THERM_STATUS_WARN, s.gf t Fld.THERM_IRQ_WARN_LINE),
   (8, s.bit t Fld.THERM_IRQ_CRIT_EN && s.bit th Fld.THERM_STATUS_CRIT_EVENT, s.gf t Fld.THERM_IRQ_CRIT_LINE),
   (9, s.bit t Fld.THERM_IRQ_SNS_EN && s.bit th Fld.THERM_STATUS_SNS_BROKEN, s.gf t Fld.THERM_IRQ_SNS_LINE),
   (10, s.bit t Fld.THERM_IRQ_SUPPLY_EN && s.bit Reg.THERM_PWR_STATUS Fld.THERM_PWR_STATUS_SUPPLY_FAULT,
     s.gf t Fld.THERM_IRQ_SUPPLY_LINE)]

/-- Every source: the hardware's and the 64 queues, which share bit 0 (R310, R527). -/
def State.sources (s : State) : List (Nat × Bool × Nat) :=
  s.hwSources ++ (upto 64).map fun q => (0, s.queuePending q, s.gf (Reg.FW_QCFG q) Fld.FW_QCFG_IRQ_LINE)

/-- Level of IRQ line `n`: high while any source mapped to it is pending (R58). -/
def State.irqLine (s : State) (n : Nat) : Bool := s.sources.any fun x => x.2.1 && decide (x.2.2 = n)

/-- ID_IRQ_SOURCES (R527). -/
def State.irqSources (s : State) : Nat :=
  ((upto 11).foldl (fun a k => if s.sources.any fun x => x.2.1 && decide (x.1 = k) then a + 2 ^ k else a) 0) +
    (upto 8).foldl (fun a n => if s.irqLine n then a + 2 ^ (16 + n) else a) 0

end Sys2Proof.Machine
end

