-- ==== Sys2Proof/Machine/Press.lean ====
section
/-! DEFINITION. Meanings of the press rows: intake, passes, swaps, commits and drains (09: R242 to R257; 11: R302). -/

namespace Sys2Proof.Machine

/-! ### Intake (R243, R245, R255) -/

/-- The 8-bit rate class of an input format; none for a format the press refuses (R243). -/
def Format.eightBit : Format → Option Bool
  | .binary64 => none
  | .binary32 => none
  | .binary16 => some false
  | .bfloat16 => some false
  | _ => some true

/-- Output formats of the press (R245). -/
def pressOut (c : Nat) : Option Format := if c = 1 ∨ c = 2 ∨ c = 3 then Format.ofCode c else none

/-- Values written per sample in a layout of FEAT features (R245). -/
def layoutCount (layout feat : Nat) : Nat :=
  match layout with
  | 0 => feat * feat
  | 1 => feat * (feat - 1) / 2
  | _ => feat * (feat + 1) / 2

/-- Place of pair (i, j) in a layout; none when the layout does not write it (R245). -/
def layoutIndex (layout feat i j : Nat) : Option Nat :=
  match layout with
  | 0 => some (i * feat + j)
  | 1 => if i < j then some (i * feat - i * (i + 1) / 2 + (j - i - 1)) else none
  | _ => if i ≤ j then some (i * feat - i * (i - 1) / 2 + (j - i)) else none

/-- The parameters of a press packet as an operation (R302). -/
def Packet.press (p : Packet) (fa fb out : Format) (deal : List Nat) : PressOp :=
  let f := p.nat 15 1
  let project : Bool := p.opcode = 4
  let m := p.nat 16 3
  let n := natBits (p.nat 20 4) 0 17
  let jobs := if project then (m + 255) / 256 * ((n + 31) / 32) else (m + 7) / 8
  { pk := p.key, project := project, fa := fa, fb := fb, out := out, hint := Hint.ofCode (natBits f 0 2), m := m, n := n,
    k := natBits (p.nat 24 4) 0 17, feat := natBits (p.nat 28 1) 0 6, aAddr := p.addr 32, aPitch := p.nat 40 4,
    bAddr := p.addr 48, bPitch := p.nat 44 4, samplePitch := p.nat 56 4, maskAddr := p.addr 64, layout := natBits f 2 2,
    outAddr := p.addr 72, outPitch := p.nat 60 4, deckleAddr := if f.testBit 4 then some (p.addr 80) else none,
    edeckleAddr := if f.testBit 5 then some (p.addr 88) else none, jobs := jobs, limit := jobs, deal := deal, begun := [],
    redo := [], active := [], draining := [], committed := 0, rowMax := [], stop := none, marked := [], deckles := [] }

/-- Elements of one output row, or of one sample's output. -/
def PressOp.outCount (o : PressOp) : Nat := if o.project then o.n else layoutCount o.layout o.feat

/-- Bytes of an output element. -/
def PressOp.outSize (o : PressOp) : Nat := o.out.bits / 8

/-- First byte of the column mask (R245). -/
def PressOp.colMask (o : PressOp) : Nat := up64 (o.maskAddr + (o.m + 7) / 8)

/-- Row 1 of R255 beyond the formats: the lowest parameter that breaks a limit or an alignment. -/
def PressOp.bad (o : PressOp) : Option Nat :=
  if o.project ∧ 65536 < o.n then some 6
  else if 65536 < o.k then some 7
  else if !o.project ∧ (o.feat = 0 ∨ 32 < o.feat) then some 8
  else if o.aAddr % 64 ≠ 0 ∨ o.aPitch % 64 ≠ 0 ∨ o.aPitch < o.fa.rowBytes o.k then some 9
  else if o.project ∧ (o.bAddr % 64 ≠ 0 ∨ o.bPitch % 64 ≠ 0 ∨ o.bPitch < o.fb.rowBytes o.k) then some 10
  else if !o.project ∧ o.samplePitch % 64 ≠ 0 then some 11
  else if !o.project ∧ o.layout = 3 then some 13
  else if o.outAddr % 64 ≠ 0 ∨ o.outPitch % 64 ≠ 0 ∨ o.outPitch < o.outCount * o.outSize then some 14
  else if o.deckleAddr.any fun x => x % 4 ≠ 0 then some 15
  else if o.edeckleAddr.any fun x => x % 64 ≠ 0 then some 16
  else none

/-- The areas a press operation reads, with their parameter numbers. -/
def PressOp.reads (o : PressOp) : List (Nat × Area) :=
  let row := o.fa.rowBytes o.k
  let mask : List (Nat × Area) :=
    if o.maskAddr = 0 then []
    else if o.project then [(12, .flat o.maskAddr ((o.m + 7) / 8)), (12, .flat o.colMask ((o.n + 7) / 8))]
    else [(12, .flat o.maskAddr (4 * o.m))]
  (if o.project then
    [(9, { addr := o.aAddr, pitch := o.aPitch, count := o.m, len := row }),
     (10, { addr := o.bAddr, pitch := o.bPitch, count := o.n, len := o.fb.rowBytes o.k })]
   else (upto o.feat).map fun i =>
    (9, { addr := o.aAddr + i * o.aPitch, pitch := o.samplePitch, count := o.m, len := row })) ++ mask

/-- The areas it writes. -/
def PressOp.writes (o : PressOp) : List (Nat × Area) :=
  [(14, { addr := o.outAddr, pitch := o.outPitch, count := o.m, len := o.outCount * o.outSize })] ++
    (o.deckleAddr.toList.map fun a => (15, .flat a (4 * o.m))) ++
    (o.edeckleAddr.toList.map fun a =>
      (16, { addr := a, pitch := up64 (2 * o.outCount), count := o.m, len := 2 * o.outCount }))

/-- Rows 2 to 4 of R255, then the operation enters the sequencer. -/
def State.pressAreas (s : State) (o : PressOp) : State :=
  match s.outside (o.reads ++ o.writes) with
  | some n => s.finish o.pk .outOfLocalRange n 0
  | none =>
    match firstOverlap (o.reads.map (·.2)) o.writes with
    | some n => s.finish o.pk .badParameter n 0
    | none =>
      if s.noSubstitute then s.finish o.pk .exceedsEngine 0 0
      else (s.modSeq fun q => { q with ops := q.ops ++ [.press o] }).loadPk o.pk

/-- The intake check of a press packet (R255). -/
def State.pressIntake (s : State) (p : Packet) : State :=
  let a := (Format.ofCode (p.nat 12 1)).bind fun f => f.eightBit.map fun c => (f, c)
  let b := if p.opcode = 4 then (Format.ofCode (p.nat 13 1)).bind fun f => f.eightBit.map fun c => (f, c) else a
  match a, b, pressOut (p.nat 14 1) with
  | none, _, _ => s.finish p.key .badParameter 1 0
  | _, none, _ => s.finish p.key .badParameter 2 0
  | some (fa, ca), some (fb, cb), out =>
    if ca ≠ cb then s.finish p.key .badParameter 2 0
    else
      match out with
      | none => s.finish p.key .badParameter 3 0
      | some f =>
        let o := p.press fa fb f s.dealList
        match o.bad with
        | some n => s.finish p.key .badParameter n 0
        | none => s.pressAreas o

/-- The intake of a waiting packet of an opcode. -/
def pressPacket (opcode : Nat) (s : State) : State :=
  match s.waitingPk fun p => p.opcode = opcode with
  | some p => s.pressIntake p
  | none => s

def execPressProject (s : State) : Out := .next (s.onLive .firmware (pressPacket 4 s))
def execPressGram (s : State) : Out := .next (s.onLive .firmware (pressPacket 5 s))

/-! ### Jobs (R250, R253, R254) -/

/-- Elements of a tile row, T (R243). -/
def PressOp.tile (o : PressOp) : Nat := if o.fa.eightBit = some true then 64 else 32

/-- Blocks of the summed dimension. -/
def PressOp.blocks (o : PressOp) : Nat := (o.k + o.tile - 1) / o.tile

/-- Samples of a Gram job (R250). -/
def PressOp.group (o : PressOp) (job : Nat) : Nat := min 8 (o.m - 8 * job)

/-- Column tiles of a projection. -/
def PressOp.colTiles (o : PressOp) : Nat := (o.n + 31) / 32

/-- Passes of a job (R250). -/
def PressOp.passesOf (o : PressOp) (job : Nat) : Nat := if o.project then o.blocks else o.blocks * o.group job

/-- The bits of a mask: status and bits, all set without a mask. -/
def State.maskBits (s : State) (b : Fin 32) (use : Bool) (addr first n : Nat) : (Status × List Bool) × State :=
  if !use ∨ n = 0 then ((.ok, List.replicate n true), s)
  else
    let ((st, d), t) := s.fetch (.bme b) .normal 3 64 (addr + first / 8) ((first % 8 + n + 7) / 8)
    let x := leNat d
    ((st, (upto n).map fun i => decide (st ≠ .ok) || x.testBit (first % 8 + i)), t)

/-- Begin a job at BME b in an accumulator bank; a mask that cannot be read marks every position of the job. -/
def State.newJob (s : State) (o : PressOp) (b : Fin 32) (bank no : Nat) : Job × State :=
  let use : Bool := o.maskAddr ≠ 0
  let (st, rows, cols, t) : Status × List Bool × List Bool × State :=
    if o.project then
      let r := no / o.colTiles * 256
      let c := no % o.colTiles * 32
      let ((s1, rm), t) := s.maskBits b use o.maskAddr r (min 256 (o.m - r))
      let ((s2, cm), t) := t.maskBits b use o.colMask c (min 32 (o.n - c))
      (if s1 = .ok then s2 else s1, rm, cm, t)
    else
      (upto (o.group no)).foldl (fun (acc : Status × List Bool × List Bool × State) g =>
        let (st, l, _, t) := acc
        let ((s1, bits), t) := t.maskBits b use (o.maskAddr + 4 * (8 * no + g)) 0 o.feat
        (if st = .ok then s1 else st, l ++ bits ++ List.replicate (32 - o.feat) false, [], t)) (.ok, [], [], s)
  let ids := (upto (t.freshId - s.freshId)).map (s.freshId + ·)
  ({ no := no, bme := b, bank := bank, pass := 0, passes := o.passesOf no, rows := rows, cols := cols,
     reads := ids.map fun i => (i, upto 8192), marks := if st = .ok then [] else upto 8192,
     mark := if st = .ok then none else some st }, t)

/-- Position (row, column) of a job's bank is enabled (R253). -/
def Job.enabled (j : Job) (project : Bool) (row col : Nat) : Bool :=
  if project then j.rows.getD row false && j.cols.getD col false
  else j.rows.getD row false && j.rows.getD (row / 32 * 32 + col) false

/-- The enabled positions of a job. -/
def Job.positions (j : Job) (project : Bool) : List Nat :=
  (upto (32 * j.rows.length)).filter fun x => j.enabled project (x / 32) (x % 32)

/-! ### Passes (R242, R244, R246, R248, R257) -/

/-- A bfloat16 magnitude, rounded upward (R242). -/
def upBf16 (v : Val) : Val := Shape.bf16.decode .ieee (Shape.bf16.encode .ieee .up v)

/-- Add the products of one cycle into a position's sum with one rounding, and their magnitudes into its magnitude sum, which
is rounded upward (R242, R244). -/
def macCycle (a : Val × Val) (ps : List Val) : Val × Val :=
  (Acc.acc32.round (ps.foldl Val.add a.1), upBf16 ((ps.map Val.abs).foldl Val.add a.2))

/-- Add the products of a tile row in feed order, `per` of them in each cycle (R244, R248, R257). -/
def macRow (per : Nat) (x v : List Val) (a : Val × Val) : Val × Val :=
  let ps := (x.zip v).map fun (p, q) => p.mul q
  (upto ((ps.length + per - 1) / per)).foldl (fun a k => macCycle a ((ps.drop (per * k)).take per)) a

/-- Products of one cycle at a position: a whole tile row where a vector meets it, one column or two of a Gram tile (R243,
R248). -/
def PressOp.perCycle (o : PressOp) : Nat := if o.project then o.tile else o.tile / 32

/-- What a masked row leaves in its place: zeros, and nothing is read (R253). -/
def Operand.masked (t : Nat) : Operand := { st := .ok, vals := List.replicate t .zero, ids := [] }

/-- One tile row: block `blk` of an operand row, elements beyond K zero (R246, R263, R264). -/
def State.tileRow (s : State) (b : Fin 32) (f : Format) (row k t blk : Nat) : Operand × State :=
  let e := blk * t
  let n := min t (k - e)
  let ((s1, d), u) := s.fetch (.bme b) .normal 3 64 (row + e * f.bits / 8) ((n * f.bits + 7) / 8)
  let x := leNat d
  let code (i : Nat) : Nat := natBits x (f.bits * i) f.bits
  let pad := List.replicate (t - n) Val.zero
  match f.scaleKind with
  | .none => ({ st := s1, vals := ((upto n).map fun i => f.decode (code i) 0) ++ pad, ids := [s.freshId] }, u)
  | kind =>
    let (off, len) := if kind = .row then (0, 1) else (e / 32, (n + 31) / 32)
    let ((s2, sc), v) := u.fetch (.bme b) .normal 3 64 (row + f.area k + off) len
    let scale (i : Nat) : Nat := (sc.getD (if kind = .row then 0 else i / 32) 0).toNat
    ({ st := if s1 = .ok then s2 else s1, vals := ((upto n).map fun i => f.decode (code i) (scale i)) ++ pad,
       ids := [s.freshId, u.freshId] }, v)

/-- Several tile rows; a masked one is not read. -/
def State.tileRows (s : State) (b : Fin 32) (f : Format) (k t blk : Nat) : List (Bool × Nat) → List Operand × State
  | [] => ([], s)
  | (on, row) :: r =>
    let (x, u) := if on then s.tileRow b f row k t blk else (.masked t, s)
    let (l, v) := u.tileRows b f k t blk r
    (x :: l, v)

/-- What an unlisted accumulator position holds. -/
def accZero (_ : Nat) : Val × Val := (.zero, .zero)

/-- Samples whose passes a Gram job takes in turn; the block of the summed dimension that the next pass takes; and the bank
row its first tile row or vector adds into (R248, R250). -/
def PressOp.slots (o : PressOp) (j : Job) : Nat := if o.project then 1 else max 1 (o.group j.no)
def PressOp.blockOf (o : PressOp) (j : Job) : Nat := j.pass / o.slots j
def PressOp.slotRow (o : PressOp) (j : Job) : Nat := if o.project then 0 else 32 * (j.pass % o.slots j)

/-- The rows of a job's next tile, enabled or masked: of V, or the features of a sample (R248). -/
def PressOp.tileOf (o : PressOp) (j : Job) : List (Bool × Nat) :=
  if o.project then j.cols.zipIdx.map fun (on, i) => (on, o.bAddr + (j.no % o.colTiles * 32 + i) * o.bPitch)
  else
    let base := o.aAddr + (8 * j.no + j.pass % o.slots j) * o.samplePitch
    (upto 32).map fun i => (j.rows.getD (o.slotRow j + i) false, base + i * o.aPitch)

/-- The vectors of X that a job's next pass feeds; none in Gram mode, where the tile feeds itself (R248). -/
def PressOp.vectors (o : PressOp) (j : Job) : List (Bool × Nat) :=
  if o.project then j.rows.zipIdx.map fun (on, i) => (on, o.aAddr + (j.no / o.colTiles * 256 + i) * o.aPitch) else []

/-- The loader writes the tile of a job's next pass into the shadow bank, which the parity of the pass's tag selects, and the
first 64 of its vectors wait in the feed queue (R242, R249). -/
def State.loadPass (s : State) (o : PressOp) (j : Job) : State :=
  let b := Fin.ofNat 32 j.bme
  let (tile, t) := s.tileRows b (if o.project then o.fb else o.fa) o.k o.tile (o.blockOf j) (o.tileOf j)
  let (first, u) := t.tileRows b o.fa o.k o.tile (o.blockOf j) ((o.vectors j).take 64)
  u.modSeq fun q =>
    let p := q.presses[b]
    { q with presses := q.presses.set b { p with tiles := p.tiles.set (Fin.ofNat 2 p.nextTag) tile,
                                                 loaded := some (j.no, j.pass), feed := first } }

/-- The tile of a job's next pass is in the shadow bank. -/
def State.isLoaded (s : State) (j : Job) : Bool := s.seq.presses[Fin.ofNat 32 j.bme].loaded = some (j.no, j.pass)

/-- Enabled positions of a job that operand row i on one side reaches: vector or tile row `i` with its bank row, or the
column of tile row `i`. -/
def reaches (mine : List Nat) (r0 : Nat) (rows : Bool) (i : Nat) : List Nat :=
  mine.filter fun x => if rows then x / 32 = r0 + i else x % 32 = i

/-- What the next pass of a job brings to it: the vectors, the tile and the bank row of the first vector. Its reads, and the
positions that unusable operands reach, are noted (R250, R256). -/
def Job.fed (j : Job) (o : PressOp) (xs tile : List Operand) (r0 : Nat) : Job :=
  let mine := (j.positions o.project).filter fun x => r0 ≤ x / 32 ∧ x / 32 < r0 + xs.length
  let sides := (xs.zipIdx.map fun (a, i) => (a, reaches mine r0 true i)) ++
    tile.zipIdx.map fun (a, i) => (a, reaches mine r0 false i)
  let bad := sides.filter fun x => decide (x.1.st ≠ .ok) && !x.2.isEmpty
  { j with pass := j.pass + 1, reads := j.reads ++ sides.flatMap fun x => x.1.ids.map fun i => (i, x.2),
           marks := bad.flatMap (·.2) ++ j.marks, mark := j.mark <|> bad.head?.map (·.1.st) }

/-- The accumulator bank after a pass: the first pass of a job clears the enabled positions, and each then takes the products
of its vector and its tile row (R244, R248, R250). -/
def PressOp.accumulate (o : PressOp) (j : Job) (xs tile : List Operand) (r0 : Nat) (m : List (Nat × (Val × Val))) :
    List (Nat × (Val × Val)) :=
  let all := j.positions o.project
  let clean := if j.pass = 0 then all.foldl (fun m x => cset accZero m x (.zero, .zero)) m else m
  (all.filter fun x => r0 ≤ x / 32 ∧ x / 32 < r0 + xs.length).foldl (fun m x =>
    let side (l : List Operand) (i : Nat) : List Val := (l.getD i (.masked o.tile)).vals
    cset accZero m x (macRow o.perCycle (side xs (x / 32 - r0)) (side tile (x % 32)) (cget accZero m x))) clean

/-- Feed the next pass of a job, whose tile is loaded: the job as it goes on, and the state with the accumulator bank updated
(R248 to R250). -/
def State.feedPass (s : State) (o : PressOp) (j : Job) : Job × State :=
  let b := Fin.ofNat 32 j.bme
  let k := Fin.ofNat 2 j.bank
  let (rest, t) := s.tileRows b o.fa o.k o.tile (o.blockOf j) ((o.vectors j).drop 64)
  let p := t.seq.presses[b]
  let tile := p.tiles[Fin.ofNat 2 p.nextTag]
  let xs := if o.project then p.feed ++ rest else tile
  let r0 := o.slotRow j
  let p' : Press := { p with banks := p.banks.set k (o.accumulate j xs tile r0 p.banks[k]), loaded := none, feed := [],
                             inArray := p.inArray ++ [(p.nextTag, j.no)], nextTag := (p.nextTag + 1) % 16 }
  let u := t.modSeq fun q => { q with presses := q.presses.set b p' }
  (j.fed o xs tile r0, u.sf (Reg.PRESS_STATUS b) Fld.PRESS_STATUS_TAG p.nextTag)

/-- Banks of BME b that a job holds. -/
def State.banksHeld (s : State) (b : Fin 32) : List Nat :=
  s.seq.ops.flatMap fun e => match e with
    | .press o => ((o.active ++ o.draining).filter fun j => j.bme = b.val).map (·.bank)
    | _ => []

/-- The next job of BME b: the lowest to run again, or the next of the dealing positions it serves (R254, R256); with the
operation's record of it. -/
def State.nextJob (s : State) (o : PressOp) (b : Fin 32) : Option (Nat × PressOp) :=
  let h := o.deal.length
  let serves (pos : Nat) : Bool := s.bmeOf (o.deal.getD pos 0) = some b
  let again := (o.redo.filter fun j => serves (j % max 1 h)).min?
  let fresh := (((upto h).filter serves).map fun pos => (pos + h * cget (fun _ => 0) o.begun pos, pos)).filter fun x =>
    x.1 < o.limit
  let first := fresh.foldl (fun (m : Option (Nat × Nat)) x => match m with
    | some y => if x.1 < y.1 then some x else some y
    | none => some x) none
  let begin' (x : Nat × Nat) : PressOp :=
    { o with begun := cset (fun _ => 0) o.begun x.2 (cget (fun _ => 0) o.begun x.2 + 1) }
  match again, first with
  | none, none => none
  | some j, none => some (j, { o with redo := o.redo.erase j })
  | none, some x => some (x.1, begin' x)
  | some j, some x => if j < x.1 then some (j, { o with redo := o.redo.erase j }) else some (x.1, begin' x)

/-- The press operations in order. -/
def Sequencer.pressOps (q : Sequencer) : List PressOp := q.ops.filterMap fun e => match e with
  | .press o => some o
  | _ => none

/-- The pass that BME b runs next: of its oldest job with passes to feed, or the first pass of its next job, which then begins
in a free bank (R250, R251, R254). -/
def State.pressNext (s : State) (b : Fin 32) : Option (PressOp × Job × State) :=
  match s.seq.pressOps.findSome? fun o => (o.active.find? fun j => j.bme = b.val ∧ j.pass < j.passes).map fun j => (o, j) with
  | some (o, j) => some (o, j, s)
  | none =>
    match (upto 2).find? fun k => !(s.banksHeld b).contains k with
    | none => none
    | some bank =>
      (s.seq.pressOps.findSome? fun o => s.nextJob o b).map fun (no, o) =>
        let (j, t) := s.newJob o b bank no
        let o' := { o with active := o.active ++ [j] }
        (o', j, t.putPress o')

/-- PRESS_PASS at BME b: its next pass runs, from the tile in the shadow bank, which the loader writes now if it has not done
so; at most two passes are in the array (R248 to R251). -/
def pressPass (b : Fin 32) (s : State) : State :=
  if 2 ≤ s.seq.presses[b].inArray.length ∨ s.shutdown then s
  else
    match s.pressNext b with
    | none => s
    | some (o, j, t) =>
      let (j', u) := (if t.isLoaded j then t else t.loadPass o j).feedPass o j
      u.putPress { o with active := o.active.map fun x => if x.no = j.no then j' else x }

def execPressPass (b : Fin 32) (s : State) : Out := .next (s.onLive (.bme b) (pressPass b s))

/-- The bank of a pass that has left the array is the shadow, and the loader writes the tile of the next pass into it
(R249). -/
def State.loadNext (s : State) (b : Fin 32) : State :=
  if s.shutdown then s
  else
    match s.pressNext b with
    | none => s
    | some (o, j, t) => if t.isLoaded j then t else t.loadPass o j

/-- TILE_SWAP at BME b: the oldest pass has left the array and the tile banks swap (R249). -/
def tileSwap (b : Fin 32) (s : State) : State :=
  if s.seq.presses[b].inArray.isEmpty then s
  else (s.modSeq fun q =>
    { q with presses := q.presses.set b { q.presses[b] with inArray := q.presses[b].inArray.drop 1 } }).loadNext b

def execTileSwap (b : Fin 32) (s : State) : Out := .next (s.onLive (.bme b) (tileSwap b s))

/-! ### Commit and drain (R251, R253, R256, R257) -/

/-- Code and bound of a position of a job (R251, R257, R277). -/
def State.pressElem (s : State) (o : PressOp) (j : Job) (x : Nat) : Nat × Val :=
  if j.marks.contains x then (o.out.elementCode .nearest 0 .nan, .inf false)
  else
    let (y, g) := cget accZero s.seq.presses[Fin.ofNat 32 j.bme].banks[Fin.ofNat 2 j.bank] x
    let (code, w) := o.out.write y
    let c := mulUp (gammaUp (o.blocks * o.tile - 1) 24) g
    let k := if o.out = .binary32 then c else addUp c (kappa o.out 0 .nearest y)
    (code, if w.isFinite then k else .inf false)

/-- The positions of one output row or sample in order of their place, and the bank position of each. -/
def PressOp.places (o : PressOp) (j : Job) (i : Nat) : List (Option Nat) :=
  if o.project then (upto (min 32 (o.n - j.no % o.colTiles * 32))).map fun c =>
    if j.enabled true i c then some (i * 32 + c) else none
  else
    let pairs := (upto o.feat).flatMap fun a => (upto o.feat).filterMap fun c =>
      (layoutIndex o.layout o.feat a c).map fun _ => (a, c)
    pairs.map fun (a, c) => if j.enabled false (32 * i + a) c then some ((32 * i + a) * 32 + c) else none

/-- Write one output row or sample of a job: outputs and per-element deckles of its enabled positions; its largest bound,
if it has an enabled position (R251, R253). -/
def State.drainRow (s : State) (o : PressOp) (j : Job) (i : Nat) : State × Option Val :=
  let row := if o.project then j.no / o.colTiles * 256 + i else 8 * j.no + i
  let col := if o.project then j.no % o.colTiles * 32 else 0
  let el := (o.places j i).map fun x => x.map (s.pressElem o j)
  let bytes := el.flatMap fun x => match x with
    | some (c, _) => (leBytes o.outSize c).map some
    | none => List.replicate o.outSize none
  let src : Src := .bme (Fin.ofNat 32 j.bme)
  let t := s.pkWrite o.pk src o.hint (o.outAddr + row * o.outPitch + col * o.outSize) bytes
  let t := match o.edeckleAddr with
    | none => t
    | some a => t.pkWrite o.pk src o.hint (a + row * up64 (2 * o.outCount) + col * 2) (el.flatMap fun x => match x with
        | some (_, d) => (leBytes 2 (deckleHalf d)).map some
        | none => [none, none])
  (t, (el.filterMap id).foldl (fun (m : Option Val) x => some (worse (m.getD .zero) x.2)) none)

/-- Write the deckle word of a row or sample. -/
def State.deckleRow (s : State) (o : PressOp) (j : Job) (row : Nat) (d : Val) : State :=
  match o.deckleAddr with
  | none => s
  | some a => s.pkWrite o.pk (.bme (Fin.ofNat 32 j.bme)) o.hint (a + 4 * row) ((leBytes 4 (deckleWord d)).map some)

/-- Record the bound of a row of Y in a column tile, in place of what an earlier run of the job has left; its deckle word is
written by the row's last column tile (R245, R256, R257). -/
def State.rowBound (s : State) (o : PressOp) (j : Job) (i : Nat) (d : Val) : State × PressOp :=
  if !o.project then (s.deckleRow o j (8 * j.no + i) d, o)
  else
    let row := j.no / o.colTiles * 256 + i
    let tile := j.no % o.colTiles
    (s, { o with rowMax := (row, tile, d) :: o.rowMax.filter fun e => !(decide (e.1 = row) && decide (e.2.1 = tile)) })

/-- Largest bound of a row of Y over its column tiles; none for a row without an enabled position (R253, R257). -/
def PressOp.rowDeckle (o : PressOp) (row : Nat) : Option Val :=
  (o.rowMax.filter fun e => e.1 = row).foldl (fun m e => some (worse (m.getD .zero) e.2.2)) none

/-- With a projection's last column tile, and with a tile of the band that is run again after it, the deckle word of each of its
rows that has an enabled position; the others keep their bytes (R253, R256, R257). -/
def State.bandDeckles (s : State) (o : PressOp) (j : Job) : State :=
  let band := j.no / o.colTiles
  let last := band * o.colTiles + o.colTiles - 1
  if o.project ∧ (j.no = last ∨ last < o.committed) then
    (upto 256).foldl (fun t i => match o.rowDeckle (band * 256 + i) with
      | some d => t.deckleRow o j (band * 256 + i) d
      | none => t) s
  else s

/-- One row of a job's bank drains: with an enabled position it has a bound, which joins the job's deckle (R251, R253). -/
def State.drainNext (j : Job) (acc : State × PressOp × Val) (i : Nat) : State × PressOp × Val :=
  let r := acc.1.drainRow acc.2.1 j i
  match r.2 with
  | some b =>
    let q := r.1.rowBound acc.2.1 j i b
    (q.1, q.2, worse acc.2.2 b)
  | none => (r.1, acc.2.1, acc.2.2)

/-- The rows of a job's bank drain in turn (R251). -/
def State.drainBank (s : State) (o : PressOp) (j : Job) : State × PressOp × Val :=
  (upto (if o.project then j.rows.length else o.group j.no)).foldl (State.drainNext j) (s, o, .zero)

/-- Commit a job: its bank drains (R251). -/
def State.commitJob (s : State) (o : PressOp) (j : Job) : State :=
  let (t, o, d) := s.drainBank o j
  let t := t.bandDeckles o j
  let t := t.bump (Reg.PRESS_STATUS j.bme) Fld.PRESS_STATUS_JOBS
  t.putPress { o with active := o.active.filter (fun x => x.no ≠ j.no), draining := o.draining ++ [j],
                      committed := max o.committed (j.no + 1),
                      deckles := (j.no, d) :: o.deckles.filter (fun e => e.1 ≠ j.no),
                      marked := j.mark.toList.map (fun st => (j.no, st)) ++ o.marked.filter fun e => e.1 ≠ j.no }

/-- An operand read that completes with SLICE_FENCED marks the positions it reaches (R208, R256). -/
def State.fencedReads (s : State) (j : Job) : Job :=
  let bad := j.reads.filter fun r => s.doneStatus r.1 ≠ .ok
  { j with reads := [], marks := bad.flatMap (·.2) ++ j.marks, mark := j.mark <|> bad.head?.map fun r => s.doneStatus r.1 }

/-- A job whose reads have completed and whose last pass has left the array. -/
def State.jobReady (s : State) (o : PressOp) (j : Job) : Bool :=
  decide (j.pass = j.passes ∧ j.no ≤ o.committed) && !((s.seq.presses[Fin.ofNat 32 j.bme].inArray.map (·.2)).contains j.no) &&
    !(s.travels fun r => j.reads.any fun x => x.1 = r.id)

/-- JOB_COMMIT: the job whose last pass has left the array and whose lower-numbered jobs have committed (R251). -/
def jobCommit (s : State) : State :=
  match s.seq.pressOps.findSome? fun o => (o.active.find? (s.jobReady o)).map fun j => (o, j) with
  | some (o, j) => (j.reads.foldl (fun t r => t.dropDone r.1) s).commitJob o (s.fencedReads j)
  | none => s

def execJobCommit (s : State) : Out := .next (s.onLive .firmware (jobCommit s))

/-- DRAIN_COMPLETE at BME b: the bank of its oldest draining job is free (R251). -/
def drainComplete (b : Fin 32) (s : State) : State :=
  match s.seq.pressOps.findSome? fun o => (o.draining.find? fun j => j.bme = b.val).map fun j => (o, j) with
  | some (o, j) =>
    let o' := { o with draining := o.draining.filter fun x => x.no ≠ j.no }
    (s.putPress o').pressEnd o'
  | none => s

def execDrainComplete (b : Fin 32) (s : State) : Out := .next (s.onLive (.bme b) (drainComplete b s))

end Sys2Proof.Machine
end

