-- ==== Sys2Proof/Machine/Remote.lean ====
section
/-! DEFINITION. Meanings of the rows on the remote port (13: R335 to R368; R500). -/

namespace Sys2Proof.Machine

/-! ### Receiving frames (R67, R342, R348, R469) -/

/-- The bytes of a received frame: discarded and counted under R67, a control frame, or routed by DST (R337, R346, R348). -/
def State.rxBytes (s : State) (n : Fin 8) (b : List Byte) (err : Bool) : State :=
  let x : RxFrame := { frame := Frame.ofBytes b, sub := some n, via := n, at_ := s.now .remote, partner := 0 }
  if err ∨ 4160 < b.length ∨ b.length < 64 then
    let t := ((s.raise (Reg.RMT_SUBPORT_STATUS n) Fld.RMT_SUBPORT_STATUS_RX_ERROR).countPort 0x020 n).fec .subport false n 0
    if 64 ≤ b.length ∧ b.length ≤ 4160 ∧ !x.frame.control then t.freeRx x else t
  else
    let f := x.frame
    let t := s.modSub n fun p =>
      { p with creditIn := if f.credit.all fun c => c = 0 then p.creditIn else p.creditIn ++ [f.credit],
               acksIn := if f.opcode = 0x13 then p.acksIn ++ [(f.src, f.seq)] else p.acksIn }
    if f.control then t else t.route' x

/-- What an injector does to an item (R468, R469). -/
inductive Inject where
  | none | drop | corrupt | reorder
  deriving DecidableEq, Repr

/-- The kind that a KIND code names. -/
def Inject.ofCode : Nat → Inject
  | 0 => .drop
  | 1 => .corrupt
  | 2 => .reorder
  | _ => .none

/-- The injector of a sub-port looks at a frame of a class in a direction (R467, R469). -/
def State.rmtInject (s : State) (n : Fin 8) (tx : Bool) (cls : Nat) : Inject × State :=
  let r := Reg.RMT_INJ n
  let i : Fin 11 := Fin.ofNat 11 (3 + n)
  if s.bit r Fld.RMT_INJ_ENABLE ∧ s.bit r Fld.RMT_INJ_DIR = tx ∧ (s.gf r Fld.RMT_INJ_CLASSES).testBit cls then
    let rate := s.gf r Fld.RMT_INJ_RATE
    let (hit, x) := injDraw rate s.inj[i]
    let t := { s with inj := s.inj.set i x }
    if hit then
      (Inject.ofCode (s.gf r Fld.RMT_INJ_KIND),
        (t.bumpSat r Fld.RMT_INJ_INJECTED).iff (decide (rate = 0)) fun u => u.sf r Fld.RMT_INJ_ENABLE 0)
    else (.none, t)
  else (.none, s)

/-- Beats in the receive FIFO of a sub-port now (R23). -/
def SubPort.rxLevel (p : SubPort) (now : Nat) : Nat := p.rxBeats - (now - p.rxBeatsAt)

/-- RMT_n_RX_READY: low while 6 or more beats of the receive FIFO are occupied, high while the link is down (R23, R68). -/
def State.rxReady (s : State) (n : Fin 8) : Bool :=
  !s.rmtUp n || decide ((s.sub n).rxLevel (s.now .remote) < 6)

/-- The last beat of a frame of some bytes has passed the pins: the FIFO was below 6 beats when it took it (R23). -/
def SubPort.takeBeats (p : SubPort) (now bytes : Nat) : SubPort :=
  { p with rxBeats := min 6 (p.rxLevel now + (bytes + 127) / 128), rxBeatsAt := now }

/-- REMOTE_FRAME_RECEIVE: a whole frame arrives; `err` is RX_ERR or a missing EOF (R67). A frame held for reordering
follows the next one (R469). While RX_READY is low its last beat does not transfer, and nothing happens (R23, R42). -/
def frameReceive (n : Fin 8) (b : List Byte) (err : Bool) (s : State) : State :=
  if !s.rmtUp n ∨ !s.rxReady n then s
  else
    let s := s.modSub n fun p => p.takeBeats (s.now .remote) b.length
    let f := Frame.ofBytes b
    let (k, t) := if 64 ≤ b.length ∧ !f.control then s.rmtInject n false f.cls else (.none, s)
    let held := (t.sub n).rxHeld
    let x : RxFrame := { frame := f, sub := some n, via := n, at_ := t.now .remote, partner := 0 }
    let u := match k with
      | .drop => t.freeRx x
      | .corrupt => t.rxBytes n b true
      | .reorder => if held.isNone then t.modSub n fun p => { p with rxHeld := some (b, err) } else t.rxBytes n b err
      | .none => t.rxBytes n b err
    match held with
    | some h => (u.modSub n fun p => { p with rxHeld := none }).rxBytes n h.1 h.2
    | none => u

def execRemoteFrameReceive (n : Fin 8) (b : List Byte) (err : Bool) (s : State) : Out :=
  .next (s.onLive .remote (frameReceive n b err s))

/-- REORDER_TIMEOUT: the oldest frame held behind a gap has waited REORDER_US; RX_SEQ skips to the lowest held SEQ
(R342). -/
def reorderTimeout (s : State) : State :=
  let wait := s.gf Reg.RMT_PORT_CFG Fld.RMT_PORT_CFG_REORDER_US * 1000
  match s.rmt.held.find? fun x => decide (x.at_ + wait ≤ s.now .remote) with
  | none => s
  | some x =>
    let p := x.partner
    let d := (s.rmt.held.filter fun y => y.partner = p).foldl (fun m y => min m (s.seqAhead p y.frame.seq)) (2 ^ 24)
    let t := (s.ptSet p 48 24 (s.ptRxSeq p + d)).raiseIf (decide (0 < d)) Reg.RMT_ERR_STATUS Fld.RMT_ERR_STATUS_RX_GAP
    State.takeHeld 64 p (t.modRmt fun r => { r with tally := { r.tally with lost := r.tally.lost + d } })

def execReorderTimeout (s : State) : Out := .next (s.onLive .remote (reorderTimeout s))

/-! ### Requests (R338, R343 to R345) -/

/-- A length that R338 allows for a READ or WRITE. -/
def rwLength (n : Nat) : Bool :=
  n ∈ [8, 16, 32, 64, 128, 256] || (decide (256 < n ∧ n ≤ 4096) && decide (n % 256 = 0))

/-- The rules of R338 for a READ or WRITE of `n` bytes. -/
def rwRefusal (addr n : Nat) : Option Status :=
  if !rwLength n then some .badLength
  else if addr % min n 256 ≠ 0 then some .badRequest
  else none

/-- The rules of R338 for an ATOMIC (R194 to R197). -/
def Frame.atomicRefusal (f : Frame) : Option Status :=
  let fn := natBits f.attr 0 4
  let n := f.payBytes
  if n ∉ [8, 16, 32, 64, 128, 256] ∨ (fn = 4 ∧ n ≠ 16) then some .badLength
  else if f.addr % n ≠ 0 ∨ 4 < fn ∨ (AtomFormat.ofCode (natBits f.attr 4 4)).isNone ∨
      (fn = 4 ∧ natBits f.attr 4 4 ≠ 1) then some .badRequest
  else none

/-- The rules of R338 for a REDUCE_INTO. An element that a contribution covers in part breaks R195. -/
def Frame.reduceRefusal (f : Frame) : Option Status :=
  let fn := natBits f.attr 0 4
  let n := f.payBytes
  if 8 ≤ fn ∧ fn ≤ 10 then
    if n ≠ 16 then some .badLength else if f.addr % 16 ≠ 0 then some .badRequest else none
  else if f.count = 0 then some .badLength
  else if !(decide (8 ≤ n ∧ n ≤ 128) || (decide (n % 128 = 0) && decide (128 ≤ n ∧ n ≤ 4096))) then some .badLength
  else
    match AtomFormat.ofCode (natBits f.attr 4 4) with
    | none => some .badRequest
    | some g =>
      if 2 < fn ∨ (n ≤ 128 ∧ 128 < f.addr % 128 + n) ∨ (128 < n ∧ f.addr % 128 ≠ 0) ∨ f.addr % g.bytes ≠ 0 ∨
          n % g.bytes ≠ 0 then some .badRequest
      else none

/-- TABLE, MODE, OUT_FORMAT, WANT_EDECKLES and the term count of a SIGNATURE (R338). -/
def Frame.sigField (f : Frame) (i k : Nat) : Nat := leNat (sliceBytes f.payload i k)

/-- The rules of R338 for a SIGNATURE. -/
def Frame.sigRefusal (f : Frame) : Option Status :=
  let n := f.sigField 4 2
  if f.payBytes = 32 + (if f.sigField 2 1 % 16 = 2 then 8 else 4) * n then none else some .badLength

/-- Checks 1 to 4 of R343. -/
def State.requestRefusal (s : State) (x : RxFrame) : Option Status :=
  let f := x.frame
  let e := s.ptEntry x.partner
  let perm : Bool := if f.opcode = 1 then e.testBit 124 else if f.opcode = 5 then e.testBit 126 else e.testBit 125
  if f.opcode < 1 ∨ 5 < f.opcode then some .badOpcode
  else if !perm then some .badRequest
  else if f.payload.length ≠ f.payBytes ∨ (f.opcode = 1 ∧ f.payBytes ≠ 0) then some .badLength
  else
    let r := if f.opcode = 1 then rwRefusal f.addr f.count
      else if f.opcode = 2 then rwRefusal f.addr f.payBytes
      else if f.opcode = 3 then f.atomicRefusal
      else if f.opcode = 4 then f.reduceRefusal
      else f.sigRefusal
    match r with
    | some st => some st
    | none => if s.shutdown then some .thermalShutdown else none

/-- Forget a taken request. -/
def State.dropReq (s : State) (r : RmtReq) : State :=
  s.modRmt fun q => { q with reqs := dropFirst (fun y => decide (y = r)) q.reqs }

/-- Answer a taken request at once with a header-only reply; its receive space is freed (R343). -/
def State.answerReq (s : State) (r : RmtReq) (st : Status) (detail : Nat) : State :=
  ((s.dropReq r).reply r.rx.partner r.rx.frame st detail 0 []).freeRx r.rx

/-- REMOTE_REQUEST_CHECK: the oldest taken request that has not been checked (R343); the reply of a failed one needs room
in the transmit buffer (R345). -/
def requestCheck (s : State) : State :=
  match s.rmt.reqs.find? fun r => !r.checked with
  | none => s
  | some r =>
    match s.requestRefusal r.rx with
    | none => s.modRmt fun q => { q with reqs := q.reqs.map fun y => if y = r then { y with checked := true } else y }
    | some st => if s.txRoom (s.ptSub r.rx.partner) 64 then s.answerReq r st 0 else s

def execRemoteRequestCheck (s : State) : Out := .next (s.onLive .remote (requestCheck s))

/-- The oldest request of an opcode that may be issued: earlier requests of its partner have been (R344). -/
def nextReq (op : Nat) : List Nat → List RmtReq → Option RmtReq
  | _, [] => none
  | busy, r :: rs =>
    if r.issued.isSome then nextReq op busy rs
    else if r.checked ∧ r.rx.frame.opcode = op ∧ !busy.contains r.rx.partner then some r
    else nextReq op (r.rx.partner :: busy) rs

/-- Requests held in the crossbar (R345). -/
def State.rmtHeld (s : State) : Nat :=
  ((s.rmt.reqs.filter fun r => r.issued.any fun i => s.inFlight i).map (·.pieces)).sum

/-- The request has been issued under a number; its receive space is freed (R345). -/
def State.markIssued (s : State) (r : RmtReq) (id pieces reserve : Nat) : State :=
  (s.modRmt fun q => { q with reqs := q.reqs.map fun y =>
    if y = r then { y with issued := some id, pieces := pieces, reserve := reserve } else y }).freeRx r.rx

/-- The line parts of `n` bytes from `addr` on: address, offset and size. -/
def frameParts (addr n : Nat) : List (Nat × Nat × Nat) :=
  if n ≤ 128 then [(addr, 0, n)] else (upto (n / 128)).map fun k => (addr + 128 * k, 128 * k, 128)

/-- The crossbar requests of a remote request (R344). -/
def Frame.reqs (f : Frame) (id n : Nat) (op : HostOp) : List Req :=
  (frameParts f.addr n).zipIdx.map fun ((a, o, m), k) =>
    { id := id, part := k, src := .remote, op := op, addr := a, size := m, hint := Hint.ofCode f.hint,
      discard := f.discard && decide (f.hint = 3), urgent := false, attr := f.attr, cls := 5,
      data := if op = .read then [] else sliceBytes f.payload o m, strb := List.replicate m true, prefetch := false,
      count := f.count, deckle := f.deckle }

/-- Issue the next request of an opcode of `n` bytes with a reply payload of `m`, when the crossbar and the transmit
buffer have room (R344, R345). -/
def State.issueReq (s : State) (op : Nat) (hop : HostOp) (n m : Frame → Nat) : State :=
  match nextReq op [] s.rmt.reqs with
  | none => s
  | some r =>
    let f := r.rx.frame
    let pieces := (n f + 255) / 256
    if s.rmtHeld + pieces ≤ 1024 ∧ s.txRoom (s.ptSub r.rx.partner) (64 + m f) then
      let id := s.freshId
      (f.reqs id (n f) hop).foldl (fun t q => t.ingress q) ((s.skipIds 1).markIssued r id pieces (64 + m f))
    else s

/-- The old values of an ATOMIC come back when it fetches (R198). -/
def Frame.fetches (f : Frame) : Bool := f.attr.testBit 8 || decide (natBits f.attr 0 4 = 3 ∨ natBits f.attr 0 4 = 4)

/-- Payload bytes of a request's reply (R337). -/
def Frame.replyBytes (f : Frame) : Nat :=
  if f.opcode = 1 then f.count
  else if f.opcode = 3 then (if f.fetches then f.payBytes else 0)
  else if f.opcode = 4 then (if natBits f.attr 0 4 = 9 then 16 else 0)
  else 0

/-- REMOTE_READ (R344). -/
def execRemoteRead (s : State) : Out := .next (s.onLive .remote (s.issueReq 1 .read (·.count) Frame.replyBytes))

/-- REMOTE_WRITE (R344). -/
def execRemoteWrite (s : State) : Out := .next (s.onLive .remote (s.issueReq 2 .write (·.payBytes) Frame.replyBytes))

/-- REMOTE_ATOMIC (R338). -/
def execRemoteAtomic (s : State) : Out := .next (s.onLive .remote (s.issueReq 3 .atomic (·.payBytes) Frame.replyBytes))

/-- REMOTE_REDUCE_INTO: one contribution per line, or one ARM, QUERY or RELEASE (R338). -/
def execRemoteReduceInto (s : State) : Out :=
  .next (s.onLive .remote (s.issueReq 4 .reduceInto (·.payBytes) Frame.replyBytes))

/-- The checks of R234 and R235 on a bag whose table is usable: status and detail, or the signature and its reply bytes. -/
def State.remoteBag (s : State) (f : Frame) (d : Desc) (id : Nat) : (Status × Nat) ⊕ (SigOp × Nat) :=
  let n := f.sigField 4 2
  let mode := f.sigField 2 1 % 16
  let want := (f.sigField 2 1).testBit 7
  let inds := (upto n).map fun i => f.sigField (32 + 4 * i) 4
  let wts := if mode = 2 then (upto n).map fun i => f.sigField (32 + 4 * n + 4 * i) 4 else []
  if !d.remoteOk then .inl (.tableNotRemote, 0)
  else
    match Pool.ofCode mode, outFormat (f.sigField 3 1) with
    | none, _ => .inl (.badParameter, 2)
    | _, none => .inl (.badParameter, 3)
    | some m, some o =>
      let bytes := d.dim * (o.bits / 8)
      let total := if want then up64 bytes + 2 * d.dim else bytes
      if m = .max ∧ !maxAllowed o d.format then .inl (.badParameter, 3)
      else if s.noSubstitute then .inl (.exceedsEngine, 0)
      else
        match (upto n).find? fun i => decide (inds.getD i 0 < d.first ∨ d.first + d.rows ≤ inds.getD i 0) with
        | some i => .inl (.indexOutOfRange, i)
        | none =>
          if 4096 < total then .inl (.replyTooLarge, 0)
          else .inr ({ pk := (64, id), remote := some id, table := d, mode := m, out := o, hint := .last, bags := 1,
                       offsets := [0, n], indices := inds, weights := wts, indexAddr := 0, weightAddr := 0, outAddr := 0,
                       pitch := 0, deckleAddr := none, edeckleAddr := if want then some 0 else none, limit := 1, next := 0,
                       prefetched := 1, committed := 0, redo := [], gather := [], spine := [], writing := [],
                       stop := none, mark := none, deckle := .zero }, total)

/-- REMOTE_SIGNATURE: the next bag is checked and queued, or refused; a full queue of 64 answers RETRY_CONGESTED (R234,
R235). -/
def remoteSignature (s : State) : State :=
  match nextReq 5 [] s.rmt.reqs with
  | none => s
  | some r =>
    let f := r.rx.frame
    let id := s.freshId
    let tb := f.sigField 0 2
    if !s.txRoom (s.ptSub r.rx.partner) 4160 then s
    else
      match s.readDesc tb with
      | (none, t) => t.answerReq r .badTable tb
      | (some d, t) =>
        match t.remoteBag f d id with
        | .inl (st, det) => t.answerReq r st det
        | .inr (o, total) =>
          if 64 ≤ t.seq.remoteQueue.length then t.answerReq r .retryCongested 0
          else ((t.skipIds 1).modSeq fun q => { q with remoteQueue := q.remoteQueue ++ [o] }).markIssued r id 0 (64 + total)

def execRemoteSignature (s : State) : Out := .next (s.onLive .remote (remoteSignature s))

/-- Status and data of a request whose parts have completed: the first status other than OK in address order, and zeros
for a 256 B request that has one (R344). -/
def State.gatherReq (s : State) (r : RmtReq) (id : Nat) : Status × List Byte :=
  let f := r.rx.frame
  let n := f.replyBytes
  let parts := frameParts f.addr (if f.opcode = 1 then f.count else f.payBytes)
  let got (k : Nat) : Option Completion := s.paths.done.find? fun c => c.req.id = id ∧ c.req.part = k
  let st (k : Nat) : Status := ((got k).map (·.status)).getD .ok
  let all := (upto parts.length).map st
  let good (k : Nat) : Bool := decide (st (k / 2 * 2) = .ok) && decide (st (k / 2 * 2 + 1) = .ok)
  let data := parts.zipIdx.flatMap fun ((_, _, m), k) =>
    if good k then sliceBytes (((got k).map (·.data)).getD []) 0 m else zeros m
  (all.foldl (fun b x => if b = .ok then x else b) .ok, sliceBytes data 0 n)

/-- REMOTE_REPLY: the first request whose parts have all completed is answered (R344). -/
def remoteReply (s : State) : State :=
  let fin (r : RmtReq) : Bool := match r.issued with
    | none => false
    | some i => if r.rx.frame.opcode = 5 then s.seq.answers.any fun a => a.1 = i else !s.inFlight i
  match s.rmt.reqs.find? fin with
  | none => s
  | some r =>
    let id := r.issued.getD 0
    let t := s.dropReq r
    if r.rx.frame.opcode = 5 then
      match s.seq.answers.find? fun a => a.1 = id with
      | some (_, st, dk, pay) =>
        (t.modSeq fun q => { q with answers := q.answers.filter fun a => a.1 ≠ id }).reply r.rx.partner r.rx.frame st 0 dk pay
      | none => s
    else
      let (st, data) := s.gatherReq r id
      (t.dropDone id).reply r.rx.partner r.rx.frame st 0 0 data

def execRemoteReply (s : State) : Out := .next (s.onLive .remote (remoteReply s))

/-! ### Acknowledgements (R360, R361, R364) -/

/-- A COLLECTIVE's partner has acknowledged (R305, R362). -/
def State.ackGood (s : State) (partner : Nat) (coll : Option (Nat × Nat)) : State :=
  match coll with
  | none => s
  | some k => s.modSched fun x => { x with colls := x.colls.map fun c =>
      if c.pk = k then { c with awaiting := c.awaiting.filter (· ≠ partner) } else c }

/-- ACK_RECEIVE: the oldest ACK received at a sub-port (R361); one of a frame that has ended is counted as late and ignored. -/
def ackReceive (n : Fin 8) (s : State) : State :=
  match (s.sub n).acksIn with
  | [] => s
  | (src, seq) :: rest =>
    let t := s.modSub n fun p => { p with acksIn := rest }
    match t.partnerOf src with
    | none => t
    | some p =>
      match t.rmt.acks.find? fun a => a.partner = p ∧ a.frame.seq = seq with
      | none => t.modRmt fun r => { r with tally := { r.tally with lateAcks := r.tally.lateAcks + 1 } }
      | some a => (t.modRmt fun r => { r with acks := r.acks.filter fun y => y ≠ a }).ackGood p a.coll

def execAckReceive (n : Fin 8) (s : State) : Out := .next (s.onLive .remote (ackReceive n s))

/-- ACK_TIMER_EXPIRY: the first timer that has run out: another retransmission with the same SEQ, or the end (R361). -/
def ackTimerExpiry (s : State) : State :=
  let now := s.now .remote
  match s.rmt.acks.find? fun a => a.from_.any fun t => decide (t + a.left ≤ now) with
  | none => s
  | some a =>
    if a.retries < s.gf Reg.RMT_PORT_CFG Fld.RMT_PORT_CFG_RETRIES then
      let b := { a with retries := a.retries + 1, left := 0, from_ := none }
      (s.modRmt fun r => { r with acks := r.acks.map fun y => if y = a then b else y }).enqueue (s.ptSub a.partner)
        { key := a.partner, cls := a.frame.cls, frame := { a.frame with retrans := true }, at_ := now, reply := false,
          coll := a.coll }
    else (s.modRmt fun r => { r with acks := r.acks.filter fun y => y ≠ a }).ackFailed a.partner a.coll

def execAckTimerExpiry (s : State) : Out := .next (s.onLive .remote (ackTimerExpiry s))

/-! ### Credit (R346) -/

/-- CREDIT_RECEIVE: the oldest return received at a sub-port. -/
def creditReceive (n : Fin 8) (s : State) : State :=
  match (s.sub n).creditIn with
  | [] => s
  | c :: rest => s.modSub n fun p =>
      { p with creditIn := rest, credit := Vector.ofFn fun v : Fin 4 => p.credit[v] + c.getD v 0 }

def execCreditReceive (n : Fin 8) (s : State) : Out := .next (s.onLive .remote (creditReceive n s))

/-- A CREDIT frame waits for a sub-port; what it returns is filled in as it starts (R346). -/
def State.sendCredit (s : State) (n : Fin 8) : State := s.control n (s.newFrame 0x14 0 0 0)

/-- CREDIT_RETURN_TIMER: credits have been owed for 1 µs and no frame has gone out. -/
def creditReturnTimer (n : Fin 8) (s : State) : State :=
  match (s.sub n).owedAt with
  | none => s
  | some t0 =>
    if t0 + 1000 ≤ s.now .remote ∧ !((s.sub n).ctl.any fun f => f.opcode = 0x14) then s.sendCredit n else s

def execCreditReturnTimer (n : Fin 8) (s : State) : Out := .next (s.onLive .remote (creditReturnTimer n s))

/-! ### Sending (R66, R347, R353, R361, R469) -/

/-- A frame starts on a sub-port: it carries the credits owed and takes the credits of its channel (R346, R352). -/
def State.startTx (s : State) (n : Fin 8) (x : Tx) : State :=
  let s := s.settleSub n
  let now := s.now .remote
  let ctl : Bool := x.key = 8193
  let v : Fin 4 := Fin.ofNat 4 x.frame.vc
  let t := s.modSub n fun p =>
    { p with sending := some { x with frame := { x.frame with credit := p.owed.toList } },
             owed := Vector.replicate 4 0, owedAt := none, startAt := now,
             busy := if ctl then 1 else s.countedTime n x.frame, charged := if ctl then none else some x.cls,
             credit := if ctl then p.credit else p.credit.set v (p.credit[v] - x.frame.units),
             ctlAt := if ctl then some now else p.ctlAt }
  if x.frame.ackReq ∧ !(t.rmt.acks.any fun a => a.partner = x.key ∧ a.frame.seq = x.frame.seq) ∧ !x.frame.retrans then
    t.modRmt fun r => { r with acks := r.acks ++
      [{ partner := x.key, frame := x.frame, coll := x.coll, retries := 0, left := 0, from_ := none }] }
  else t

/-- A chosen frame passes the injector of transmitted frames (R469). -/
def State.launchTx (s : State) (n : Fin 8) (x : Tx) : State :=
  let (k, t) := s.rmtInject n true x.cls
  match k with
  | .drop => (t.startTx n x).modSub n fun p => { p with txDrop := true }
  | .reorder => if (t.sub n).txHeld.isNone then t.modSub n fun p => { p with txHeld := some (x, false) } else t.startTx n x
  | _ => t.startTx n x

/-- The highest eligible class and its frame (R353). -/
def State.bestClass (s : State) (n : Fin 8) : Option (Fin 8 × Tx × List (Nat × Nat)) :=
  (upto 8).findSome? fun i => (s.classPick n (subFin (7 - i))).map fun x => (subFin (7 - i), x)

/-- The frame that injection has put after the one sent last, once it has the credits of its channel and fits in its class's
window (R346, R358, R469). -/
def State.swappedTx (s : State) (n : Fin 8) : Option Tx :=
  match (s.sub n).txHeld with
  | some (h, true) => if h.frame.units ≤ (s.sub n).credit[Fin.ofNat 4 h.frame.vc] ∧
      fits (s.countedTime n h.frame) (s.remaining n h.cls) then some h else none
  | _ => none

/-- The frame that injection has swapped with the last one starts, else the choice among queued frames (R353, R469). -/
def State.startData (s : State) (n : Fin 8) : State :=
  match s.swappedTx n, s.bestClass n with
  | some h, _ => (s.startTx n h).modSub n fun p => { p with txHeld := none }
  | none, some (c, x, d) =>
    let held := (s.sub n).txHeld
    let now := s.now .remote
    let t := s.modSub n fun p => (if x.key = 8192 then p.headMoved x.frame.vc now else p).taken x c d
    match held with
    | some h => (t.startTx n x).modSub n fun p => { p with txHeld := some (h.1, true) }
    | none => t.launchTx n x
  | none, none => s

/-- SUBPORT_FRAME_START (R347, R353): a free sub-port whose link is up starts a control frame, at most one in 32 ns, or
the choice of the highest eligible class. A frame swapped by injection follows the one that passed it. -/
def frameStart (n : Fin 8) (s : State) : State :=
  let p := s.sub n
  let now := s.now .remote
  if !s.rmtUp n ∨ p.sending.isSome ∨ now < p.startAt + p.busy then s
  else
    let s := (s.settleSub n).holdClasses n
    match p.ctl with
    | f :: rest =>
      if p.ctlAt.all fun t => decide (t + 32 ≤ now) then
        (s.modSub n fun p => { p with ctl := rest }).startTx n
          { key := 8193, cls := 0, frame := f, at_ := now, reply := false, coll := none }
      else s.startData n
    | [] => s.startData n

def execSubportFrameStart (n : Fin 8) (s : State) : Out := .next (s.onLive .remote (frameStart n s))

/-- Timers towards a partner are paused while its notice is in force (R361, R364). -/
def State.isSlowed (s : State) (p : Nat) : Bool := s.rmt.slowed.any fun e => e.1 = p

/-- FRAME_SENT: the EOF beat transfers, a beat of 128 B per ns after the start; an acknowledgement timer starts, and a
frame boundary passes (R66, R346, R356, R361). -/
def frameSent (n : Fin 8) (s : State) : State :=
  let p := s.sub n
  match p.sending with
  | none => s
  | some x =>
    let now := s.now .remote
    if !s.rmtUp n ∨ now < p.startAt + (x.frame.len + 127) / 128 then s
    else
      let s := s.settleSub n
      let t := s.modSub n fun q =>
        { q with sending := none, txDrop := false, out := if q.txDrop then q.out else q.out ++ [x.frame] }
      let left := s.gf Reg.RMT_PORT_CFG Fld.RMT_PORT_CFG_ACK_US * 1000
      let t := if x.frame.ackReq then t.modRmt fun r => { r with acks := r.acks.map fun a =>
          if a.partner = x.key ∧ a.frame.seq = x.frame.seq then
            { a with left := left, from_ := if s.isSlowed a.partner then none else some now }
          else a }
        else t
      ((t.settleSub n).pumpFwd).settleAlt

def execFrameSent (n : Fin 8) (s : State) : Out := .next (s.onLive .remote (frameSent n s))

/-! ### Gates (R357, R359) -/

/-- GATE_REFUSAL: the first head frame that is longer than its class's longest window is refused (R359). -/
def gateRefusal (n : Fin 8) (s : State) : State :=
  let p := s.sub n
  match ((upto 8).flatMap fun c => (p.keys c).filterMap fun k => p.head c k).find? fun x => s.oversize n x with
  | none => s
  | some x =>
    let s := s.settleSub n
    let (l, t) := s.refuseTx n x
    let u := t.modSub n fun q =>
      { (if x.key = 8192 then q.headMoved x.frame.vc (s.now .remote) else q) with
        tx := q.tx.flatMap fun y => if y = x then l else [y] }
    u.pumpFwd.settleAlt

def execGateRefusal (n : Fin 8) (s : State) : Out := .next (s.onLive .remote (gateRefusal n s))

/-- The next entry of an active list with a duration, from entry `e` on. -/
def State.gateNext (s : State) (n e : Nat) : Nat :=
  let k := max 1 (s.gateLen n)
  ((((upto k).map fun i => (e + i) % k).find? fun i => (s.gateEntry n i).2 ≠ 0)).getD 0

/-- GATE_ENTRY_ADVANCE: the duration of the entry in progress is over (R357). -/
def gateAdvance (n : Fin 8) (s : State) : State :=
  let d := (s.gateEntry n (s.gateAt n)).2
  let at_ := (s.sub n).entryAt
  if (s.gateList n).isEmpty ∨ s.now .remote < at_ + d then s
  else
    (((s.settleSub n).sf (Reg.RMT_GATE_STATUS n) Fld.RMT_GATE_STATUS_ENTRY (s.gateNext n (s.gateAt n + 1))).modSub n fun p =>
      { p with entryAt := at_ + d }).openGates n fun c => s.gateOpen n c

def execGateEntryAdvance (n : Fin 8) (s : State) : Out := .next (s.onLive .remote (gateAdvance n s))

/-- An armed shadow list holds a duration of 0 (R357). -/
def State.badGates (s : State) (n : Nat) : Bool :=
  (upto (s.gf (Reg.RMT_GATE_CTRL n) Fld.RMT_GATE_CTRL_SHADOW_LEN)).any fun e =>
    s.gf (Reg.RMT_GATE_SHADOW n e) Fld.RMT_GATE_SHADOW_DURATION = 0

/-- A write of RMT_GATE_CTRL_n: DISARM first, then ARM by R140 and R141, and SHADOW_LEN, which is ignored with
ARMED_WRITE_REFUSED while a shift is armed, and stays with the rest where arming comes too late (R357). -/
def gateCtrlWrite (n : Fin 8) (v : Word) (s : State) : State :=
  let st := Reg.RMT_GATE_STATUS n
  let armed := s.bit st Fld.RMT_GATE_STATUS_ARMED
  let arm := v.getLsbD 31
  let len := min 256 (natBits v.toNat 0 9)
  if armed then
    (s.raise st Fld.RMT_GATE_STATUS_ARMED_WRITE_REFUSED).iff (v.getLsbD 30) fun t => t.sf st Fld.RMT_GATE_STATUS_ARMED 0
  else if arm ∧ s.rd64 (Reg.RMT_GATE_SHIFT_TIME n) < s.now .remote + 1000 then
    s.raise st Fld.RMT_GATE_STATUS_SHIFT_LATE
  else
    let t := s.sf (Reg.RMT_GATE_CTRL n) Fld.RMT_GATE_CTRL_SHADOW_LEN len
    if !arm then t
    else (t.sf st Fld.RMT_GATE_STATUS_ARMED 1).raiseIf (t.badGates n) st Fld.RMT_GATE_STATUS_BAD_GATE_ENTRY

/-- GATE_ARM: a write of RMT_GATE_CTRL_n with ARM = 1. -/
def execGateArm (n : Fin 8) (v : Word) (s : State) : Out :=
  .next (s.mgtWrite .remote (gateCtrlWrite n (v ||| 0x80000000#32) s))

/-- GATE_DISARM: a write of RMT_GATE_CTRL_n with DISARM = 1 and ARM = 0. -/
def execGateDisarm (n : Fin 8) (v : Word) (s : State) : Out :=
  .next (s.mgtWrite .remote (gateCtrlWrite n ((v ||| 0x40000000#32) &&& 0x7FFFFFFF#32) s))

/-- GATE_SHIFT: at TIME the lists and their lengths swap and entry 0 begins (R142, R357). -/
def gateShift (n : Fin 8) (s : State) : State :=
  let st := Reg.RMT_GATE_STATUS n
  let now := s.now .remote
  if s.bit st Fld.RMT_GATE_STATUS_ARMED ∧ s.rd64 (Reg.RMT_GATE_SHIFT_TIME n) ≤ now then
    let s := s.settleSub n
    let t := (upto 256).foldl (fun t e =>
      (t.wr (Reg.RMT_GATE_ACTIVE n e) (s.rd (Reg.RMT_GATE_SHADOW n e))).wr (Reg.RMT_GATE_SHADOW n e)
        (s.rd (Reg.RMT_GATE_ACTIVE n e))) s
    let t := (t.sf st Fld.RMT_GATE_STATUS_ACTIVE_LEN (s.gf (Reg.RMT_GATE_CTRL n) Fld.RMT_GATE_CTRL_SHADOW_LEN)).sf
      (Reg.RMT_GATE_CTRL n) Fld.RMT_GATE_CTRL_SHADOW_LEN (s.gateLen n)
    let t := (t.sf st Fld.RMT_GATE_STATUS_ARMED 0).bump st Fld.RMT_GATE_STATUS_SHIFT_COUNT
    ((t.sf st Fld.RMT_GATE_STATUS_ENTRY (t.gateNext n 0)).modSub n fun p => { p with entryAt := now }).openGates n fun _ => false
  else s

def execGateShift (n : Fin 8) (s : State) : Out := .next (s.onLive .remote (gateShift n s))

/-! ### Shapers (R356) -/

/-- SHAPER_RECONFIGURE: a write of a class's slope, or of its limit; it takes effect at once when the sub-port is idle, and at its
next frame boundary otherwise. -/
def shaperWrite (n c : Fin 8) (limit : Bool) (v : Word) (s : State) : State :=
  let s := s.settleSub n
  let t := (s.wr (if limit then Reg.RMT_SHAPER_LIMIT n c else Reg.RMT_SHAPER_SLOPE n c) v).modSub n fun p =>
    { p with shapers := p.shapers.set c { p.shapers[c] with pending := true } }
  t.settleSub n

def execShaperReconfigure (n c : Fin 8) (limit : Bool) (v : Word) (s : State) : Out :=
  .next (s.mgtWrite .remote (shaperWrite n c limit v s))

/-! ### The partner table (R339, R340) -/

/-- The entry that a commit would write: RO fields keep their values and QUANTUM is at least 64 (R339). -/
def State.ptNew (s : State) (p : Nat) (w3 : Word) : Nat :=
  let w (i : Nat) : Nat := (s.rd (Reg.RMT_PT_DATA i)).toNat
  let old := s.ptEntry p
  let hi := (natSetBits (w3.toNat) 19 1 (natBits old 115 1))
  let q := max 64 (natBits hi 0 16)
  let hi := natSetBits hi 0 16 q
  natBits (w 0) 0 32 + natBits old 32 16 * 2 ^ 32 + natBits old 48 48 * 2 ^ 48 + hi * 2 ^ 96

/-- PARTNER_COMMIT: a write of RMT_PT_DATA_3 (R340). The frames of a discarded queue are counted; those of a discarded queue
that notify for a COLLECTIVE end unacknowledged. -/
def partnerCommit (v : Word) (s : State) : State :=
  let p := s.gf Reg.RMT_PT_INDEX Fld.RMT_PT_INDEX_ENTRY
  let s := s.wr (Reg.RMT_PT_DATA 3) v
  let old := s.ptEntry p
  let new := s.ptNew p v
  let mine (x : Tx) : Bool := x.key = p
  let queued : Bool := s.rmt.subs.toList.any fun q => q.tx.any mine
  let moved : Bool := decide (natBits old 112 3 ≠ natBits new 112 3) || decide (natBits old 116 3 ≠ natBits new 116 3) ||
    decide (natBits old 120 3 ≠ natBits new 120 3)
  if moved ∧ queued then s.raise Reg.RMT_ERR_STATUS Fld.RMT_ERR_STATUS_PT_BUSY
  else
    let fresh : Bool := (new.testBit 127 && !old.testBit 127) || decide (natBits new 0 32 ≠ natBits old 0 32)
    let t := s.ptPut p (if fresh then natSetBits (natSetBits new 48 24 0) 72 24 0 else new)
    let t := if old.testBit 127 ∧ !new.testBit 127 then
        let gone := t.rmt.subs.toList.flatMap fun q => q.tx.filter mine
        let u := (upto 8).foldl (fun u n => u.settleSub (subFin n)) t
        let u := u.modRmt fun r =>
          { r with subs := r.subs.map (fun q => { q with tx := q.tx.filter fun x => !mine x }),
                   tally := { r.tally with discarded := r.tally.discarded + gone.length } }
        gone.foldl (fun u x => (u.ackFailed p x.coll).modRmt fun r => { r with acks := r.acks.filter fun a =>
          a.partner ≠ p ∨ a.frame.seq ≠ x.frame.seq }) u
      else t
    let twin : Bool := new.testBit 127 && (t.rmt.pt.map (·.1)).any fun q => decide (q ≠ p) && t.ptValid q &&
      decide (t.ptEndpoint q = natBits new 0 32)
    t.settleAlt.raiseIf twin Reg.RMT_ERR_STATUS Fld.RMT_ERR_STATUS_PT_DUPLICATE

def execPartnerCommit (v : Word) (s : State) : Out := .next (s.mgtWrite .remote (partnerCommit v s))

/-- A management read of a hardware register whose home is island `i`: `t` is its effect, `v` its value (R56, R523). -/
def State.mgtRead (s : State) (i : Island) (t : State) (v : Word) : State :=
  if s.mgtReady then (if s.live i then t.mgtDone false v else s.mgtDone true 0) else s

/-- PARTNER_ENTRY_READ: a read of RMT_PT_DATA_0 latches the whole entry (R339). -/
def execPartnerEntryRead (s : State) : Out :=
  let e := s.ptEntry (s.gf Reg.RMT_PT_INDEX Fld.RMT_PT_INDEX_ENTRY)
  .next (s.mgtRead .remote (s.modRmt fun r => { r with ptLatch := e }) (BitVec.ofNat 32 e))

/-! ### Collectives and slowdown notices (R362 to R366) -/

/-- The first COLLECTIVE with a partner to notify: its DONE frame is queued, or the oldest abort is (R362). A partner that
is not VALID cannot be sent to and fails. -/
def collectiveNotify (s : State) : State :=
  match s.sched.colls.find? fun c => !c.toNotify.isEmpty with
  | some c =>
    let p := c.toNotify.headD 0
    let put (t : State) (f : Coll → Coll) : State :=
      t.modSched fun x => { x with colls := x.colls.map fun y => if y.pk = c.pk then f y else y }
    if !s.ptValid p then put s fun y => { y with toNotify := y.toNotify.drop 1, failed := some (y.failed.getD p) }
    else if !s.txRoom (s.ptSub p) 64 then s
    else
      let tag := ((s.sched.packets.find? fun q => q.key = c.pk).map fun q => leNat (sliceBytes q.bytes 4 4)).getD 0
      let t := put s fun y => { y with toNotify := y.toNotify.drop 1, awaiting := y.awaiting ++ [p] }
      t.originate p true (some c.pk) { t.newFrame 0x10 (t.ptEndpoint p) 0 0 with
        addr := c.addr, count := c.lines, deckle := c.deckle, tag := tag }
  | none =>
    match s.sched.aborts with
    | [] => s
    | (p, a, n, tag) :: rest =>
      let t := s.modSched fun x => { x with aborts := rest }
      if !s.ptValid p then t
      else if !s.txRoom (s.ptSub p) 64 then s
      else t.originate p true none { t.newFrame 0x11 (t.ptEndpoint p) 0 0 with
        addr := a, count := n, tag := tag, status := Status.thermalShutdown.code }

def execCollectiveNotify (s : State) : Out := .next (s.onLive .remote (collectiveNotify s))

/-- DETAIL of a SLOWDOWN: what the column's arbiters receive at the step (R363, R482, R485). -/
def State.slowDetail (s : State) (step : Nat) : Nat :=
  let off : Bool := s.shutdown || s.bit Reg.THERM_STATUS Fld.THERM_STATUS_LOW_HOLD
  let hold : Bool := 0 < step ∨ off
  step + (if off then 0 else s.admitOf step) % 32 * 2 ^ 4 + (if hold then 2 ^ 9 else 0)

/-- Partners that a notice is for: those that each waiting COLLECTIVE notifies, those with SLOW_NOTIFY = 1, and at the end of
a throttle all that had a notice of it (R363). -/
def State.slowPartners (s : State) (step : Nat) : List Nat :=
  let notified := (s.sched.colls.filter fun c => c.phase = .waiting).flatMap fun c =>
    (upto c.notifyCount).map fun k => c.notifyFirst + k
  let asked := (s.rmt.pt.map (·.1)).filter fun p => (s.ptEntry p).testBit 123
  ((notified ++ asked ++ if step = 0 then s.rmt.slowTo else []).eraseDups).filter fun p => s.ptValid p

/-- SLOWDOWN_SEND: at a change of the step in force, or SLOW_REPEAT_US since the last notices while one is, a notice is due to
its partners; one without room in its transmit buffer waits for it (R345, R363). -/
def slowdownSend (s : State) : State :=
  let step := s.gf Reg.THERM_STATUS Fld.THERM_STATUS_STEP
  let now := s.now .remote
  let repeat' : Bool := decide (0 < step) &&
    decide (s.rmt.slowAt + s.gf Reg.RMT_SLOW_CFG Fld.RMT_SLOW_CFG_SLOW_REPEAT_US * 1000 ≤ now)
  let new : Bool := decide (step ≠ s.rmt.slowStep) || repeat'
  let tgt := if new then s.slowPartners step else s.rmt.slowDue.filter fun p => s.ptValid p
  let s := s.modRmt fun r => { r with slowStep := step, slowAt := if new then now else r.slowAt, slowDue := [],
                                      slowTo := if step = 0 then [] else (r.slowTo ++ r.slowDue ++ tgt).eraseDups }
  tgt.foldl (fun t p => if t.txRoom (t.ptSub p) 64 then
      t.originate p false none { t.newFrame 0x12 (t.ptEndpoint p) 0 0 with detail := t.slowDetail step }
    else t.modRmt fun r => { r with slowDue := r.slowDue ++ [p] }) s

def execSlowdownSend (s : State) : Out := .next (s.onLive .remote (slowdownSend s))

/-- The 32 bytes of a notice record (R366). -/
def RxFrame.record (x : RxFrame) : List Byte :=
  leBytes 8 x.at_ ++ leBytes 1 x.frame.opcode ++ leBytes 1 x.frame.status ++ leBytes 2 x.partner ++
    leBytes 4 x.frame.detail ++ leBytes 8 x.frame.addr ++ leBytes 4 x.frame.count ++ leBytes 4 x.frame.deckle

/-- Stop or restart the acknowledgement timers towards a partner at a time; one that has run out by then is not stopped
(R361, R364). -/
def State.pauseAcks (s : State) (p now : Nat) : State :=
  s.modRmt fun r => { r with acks := r.acks.map fun a => match a.from_ with
    | some t => if a.partner = p ∧ now < t + a.left then { a with left := a.left - (now - t), from_ := none } else a
    | none => a }
def State.resumeAcks (s : State) (p now : Nat) : State :=
  s.modRmt fun r => { r with acks := r.acks.map fun a =>
    if a.partner = p ∧ a.from_.isNone ∧ 0 < a.left then { a with from_ := some now } else a }

/-- A slowdown notice from a partner: SLOW_STEP, and a step of 1 to 8 is in force from its arrival (R364). -/
def State.slowFrom (s : State) (p detail at_ : Nat) : State :=
  let step := natBits detail 0 4
  let t := s.ptSet p 40 4 step
  let off (r : Rmt) : List (Nat × Nat) := r.slowed.filter fun e => e.1 ≠ p
  if step = 0 then (t.modRmt fun r => { r with slowed := off r }).resumeAcks p at_
  else if step ≤ 8 then (t.modRmt fun r => { r with slowed := off r ++ [(p, at_)] }).pauseAcks p at_
  else t

/-- Write a notice record; `ack` is what its completion acknowledges (R365). -/
def State.writeNotice (s : State) (b : List Byte) (ack : Option (Nat × Nat)) : State :=
  let n := (s.rd Reg.RMT_NOTICE_SEQ).toNat
  let id := s.freshId
  let t := (s.ringWrite .remote Reg.RMT_NOTICE_RING n b).wr Reg.RMT_NOTICE_SEQ (BitVec.ofNat 32 (n + 1))
  t.modRmt fun r => { r with noticeAcks := r.noticeAcks ++ [(id, ack.getD (8192, 0))] }

/-- NOTICE_RECEIVE: completed notice writes are acknowledged; held records are written once the column has restarted;
then the oldest taken notice is written, held or counted (R364 to R366). -/
def noticeReceive (s : State) : State :=
  let fin := s.rmt.noticeAcks.filter fun e => !s.inFlight e.1
  let s := fin.foldl (fun t e => if e.2.1 < 8192 then (t.dropDone e.1).sendAck e.2.1 e.2.2 else t.dropDone e.1) s
  let s := s.modRmt fun r => { r with noticeAcks := r.noticeAcks.filter fun e => !fin.contains e }
  let s := if s.shutdown then s
    else (s.rmt.noticeHeld.foldl (fun t b => t.writeNotice b none) s).modRmt fun r => { r with noticeHeld := [] }
  match s.rmt.notices with
  | [] => s
  | x :: rest =>
    let f := x.frame
    let t := (s.modRmt fun r => { r with notices := rest }).freeRx x
    let t := if f.opcode = 0x12 then t.slowFrom x.partner f.detail x.at_ else t
    let ack (u : State) : State := if f.ackReq then u.sendAck x.partner f.seq else u
    let noRecord (u : State) : State := u.modRmt fun r =>
      { r with tally := { r.tally with unrecorded := r.tally.unrecorded + 1 } }
    if !t.ringOn Reg.RMT_NOTICE_RING then ack (noRecord t)
    else if t.shutdown then
      if t.rmt.noticeHeld.length < 256 then ack (t.modRmt fun r => { r with noticeHeld := r.noticeHeld ++ [x.record] })
      else noRecord t
    else t.writeNotice x.record (if f.ackReq then some (x.partner, f.seq) else none)

def execNoticeReceive (s : State) : Out := .next (s.onLive .remote (noticeReceive s))

/-- SLOWDOWN_HOLD_EXPIRY: SLOW_HOLD_US without a notice from a partner (R364). -/
def slowdownHoldExpiry (s : State) : State :=
  let hold := s.gf Reg.RMT_SLOW_CFG Fld.RMT_SLOW_CFG_SLOW_HOLD_US * 1000
  match s.rmt.slowed.find? fun e => decide (e.2 + hold ≤ s.now .remote) with
  | none => s
  | some (p, _) => (s.modRmt fun r => { r with slowed := r.slowed.filter fun e => e.1 ≠ p }).resumeAcks p (s.now .remote)

def execSlowdownHoldExpiry (s : State) : Out := .next (s.onLive .remote (slowdownHoldExpiry s))

/-! ### Links (R68, R346, R367) -/

/-- Move a partner's queued frames from its HOME to its ALT (R367). -/
def State.toAlt (s : State) (n : Fin 8) (p : Nat) : State :=
  let m := subFin (s.ptAlt p)
  let mine := (s.sub n).tx.filter fun x => x.key = p
  let t := ((s.settleSub m).modSub n fun q => { q with tx := q.tx.filter fun x => x.key ≠ p }).modSub m fun q =>
    { q with tx := q.tx ++ mine }
  t.ptSet p 115 1 1

/-- RMT_LINK_DOWN: a frame on the wire is not sent and returns to its head, which ends its time at the sub-port, credits held
and received are lost, and partners homed here that have a usable ALT move (R68, R346, R356, R367). Receive space of this
link owes nothing any more. -/
def rmtLinkDown (n : Fin 8) (s : State) : State :=
  if !s.rmtUp n then s
  else
    let s := s.settleSub n
    let t := (s.sf (Reg.RMT_SUBPORT_STATUS n) Fld.RMT_SUBPORT_STATUS_LINK_UP 0).fec .subport false n 0
    let t := t.modSub n fun p =>
      { p with sending := none, txDrop := false, busy := s.now .remote - p.startAt, creditIn := [], credit := Vector.replicate 4 0, owed := Vector.replicate 4 0,
               owedAt := none,
               ctl := match p.sending with
                 | some x => if x.key = 8193 then x.frame :: p.ctl else p.ctl
                 | none => p.ctl,
               tx := match p.sending with
                 | some x => if x.key = 8193 then p.tx else { x with frame := { x.frame with credit := [] } } :: p.tx
                 | none => p.tx }
    let forget (x : RxFrame) : RxFrame := if x.sub = some n then { x with sub := none } else x
    let t := t.modRmt fun r =>
      { r with held := r.held.map forget, notices := r.notices.map forget, fwd := r.fwd.map fun e => (forget e.1, e.2),
               ringWait := r.ringWait.map fun e => (forget e.1, e.2),
               reqs := r.reqs.map fun q => { q with rx := forget q.rx } }
    let t := t.settleSub n
    (t.rmt.pt.map (·.1)).foldl (fun u p =>
      if u.ptValid p ∧ u.ptHome p = n.val ∧ u.ptAltValid p ∧ !u.ptOnAlt p ∧ u.rmtUp (u.ptAlt p) then u.toAlt n p else u) t

def execRmtLinkDown (n : Fin 8) (s : State) : Out := .next (s.onLive .remote (rmtLinkDown n s))

/-- RMT_LINK_UP: the full pools are granted, and partners return to HOME once their ALT queue is empty (R346, R367). -/
def rmtLinkUp (n : Fin 8) (s : State) : State :=
  if s.rmtUp n then s
  else
    let t := ((s.settleSub n).raise (Reg.RMT_SUBPORT_STATUS n) Fld.RMT_SUBPORT_STATUS_LINK_UP).modSub n fun p =>
      { p with owed := #v[1024, 512, 256, 256], owedAt := some (s.now .remote) }
    (t.sendCredit n).settleAlt

def execRmtLinkUp (n : Fin 8) (s : State) : Out := .next (s.onLive .remote (rmtLinkUp n s))

/-! ### Histograms (R368) -/

/-- The bucket of a value. -/
def bucketOf (v : Nat) : Nat := if v = 0 then 0 else min 15 (1 + Nat.log2 (max v 64 / 64))

/-- Depth and head-of-line delay of a list of queued frames, in order, of one queue. -/
def State.depthOf (s : State) (n : Nat) (l : List Tx) : Nat := (l.map fun x => s.counted n x.frame).sum
def State.delayOf (s : State) (l : List Tx) : Nat := match l with
  | x :: _ => s.now .remote - x.at_
  | [] => 0

/-- Add a sample to a histogram; a counter of 32 bits saturates. -/
def histAdd (h : List (Nat × Nat)) (i v : Nat) : List (Nat × Nat) :=
  let k := i * 16 + bucketOf v
  cset (fun _ => 0) h k (min (2 ^ 32 - 1) (cget (fun _ => 0) h k + 1))

/-- The two samples of every queue: histogram and value. -/
def State.samples (s : State) : List (Nat × Nat) :=
  ((upto 8192).flatMap fun p =>
    let n := s.ptSub p
    let l := (s.sub n).tx.filter fun x => x.key = p
    [(p, s.depthOf n l), (16384 + p, s.delayOf l)]) ++
  ((upto 64).flatMap fun i =>
    let n := i / 8
    let l := (s.sub (subFin n)).tx.filter fun x => x.cls = i % 8
    let delay := ((s.sub (subFin n)).keys (i % 8)).foldl (fun m k => max m (s.delayOf (l.filter fun x => x.key = k))) 0
    [(8192 + i, s.depthOf n l), (24576 + i, delay)])

/-- HISTOGRAM_SAMPLE: at each multiple of 4,096 ns. -/
def histogramSample (s : State) : State :=
  let now := s.now .remote
  if now < s.rmt.histNext then s
  else s.modRmt fun r => { r with hist := s.samples.foldl (fun h e => histAdd h e.1 e.2) r.hist,
                                  histNext := (now / 4096 + 1) * 4096 }

def execHistogramSample (s : State) : Out := .next (s.onLive .remote (histogramSample s))

/-- The histogram that RMT_HIST_SEL selects. -/
def State.histSel (s : State) : Nat :=
  s.gf Reg.RMT_HIST_SEL Fld.RMT_HIST_SEL_KIND * 16384 + s.gf Reg.RMT_HIST_SEL Fld.RMT_HIST_SEL_CLASS_Q * 8192 +
    s.gf Reg.RMT_HIST_SEL Fld.RMT_HIST_SEL_INDEX

/-- HISTOGRAM_CLEAR: a write of RMT_HIST_SEL with CLEAR, the selection as written. -/
def histogramClear (v : Word) (s : State) : State :=
  let t := s.wr Reg.RMT_HIST_SEL (BitVec.ofNat 32 (natBits v.toNat 29 2 * 2 ^ 29 + natBits v.toNat 0 13))
  t.modRmt fun r => { r with hist := r.hist.filter fun e => e.1 / 16 ≠ t.histSel }

def execHistogramClear (v : Word) (s : State) : Out := .next (s.mgtWrite .remote (histogramClear v s))

/-- HISTOGRAM_BUCKET_READ: a read of RMT_HIST_DATA_0 latches all 16 buckets. -/
def execHistogramBucketRead (s : State) : Out :=
  let b := (upto 16).map fun k => cget (fun _ => 0) s.rmt.hist (s.histSel * 16 + k)
  .next (s.mgtRead .remote (s.modRmt fun r => { r with histLatch := b }) (BitVec.ofNat 32 (b.headD 0)))

end Sys2Proof.Machine
end

