-- ==== Sys2Proof/Machine/Management.lean ====
section
/-! DEFINITION. Meanings of the management-port rows (02, 12, 21: R14 to R18, R56, R57, R319, R496, R522 to R525): reads of
any register, the holding and committing of 64-bit writes, writes of hardware registers and accesses to emulated ones. -/

namespace Sys2Proof.Machine

/-- Change the management port. -/
def State.modMgt (s : State) (f : MgtPort → MgtPort) : State := { s with mgt := f s.mgt }

/-! ### Reads (R16, R17) -/

/-- The island a row of the map has its home in (R522). -/
def Home.island (h : Home) (unit : Nat) : Island :=
  match h with
  | .sensor => .sensor
  | .pc => .pc (pcFin unit)
  | .bme => .bme (Fin.ofNat 32 unit)
  | .remote => .remote
  | .d2d => .d2d (decide (unit = 1))
  | .liaison => .firmware

/-- The entry that PC_ROWH_INDEX selects; an entry never written reads zero (R179). -/
def State.rowhData (s : State) : Nat :=
  let x := natBits (s.rd Reg.PC_ROWH_INDEX).toNat 0 17
  match (s.pcs[pcFin (x / 2048)]).rowh.find? fun e => e.1 = x % 2048 with
  | some e => e.2.word
  | none => 0

/-- A counter of CNT_VAL or CNT_CYCLES, live or from the snapshot (R514): index 8u + n, or 32 + u. -/
def State.counterRead (s : State) (k : Nat) : Nat :=
  if s.bit Reg.CNT_CTRL Fld.CNT_CTRL_VIEW then s.cnt.snap.getD k 0
  else if k < 32 then s.rd64 (Reg.CNT_VAL (k / 8) (k % 8)) else s.cyclesAt (k - 32) s.clk.pkg

/-- The 64 bits that a wide register reads. -/
def State.read64 (s : State) (r : RegRow) (off i j : Nat) : Nat :=
  if off = Reg.PC_ERR_SUMMARY then s.errSummary
  else if off = Reg.PC_ROWH_DATA then s.rowhData
  else if off = Reg.D2D_TIME then s.clk.pkg
  else if r.base = Reg.CNT_VAL 0 0 then s.counterRead (8 * i + j)
  else if r.base = Reg.CNT_CYCLES 0 then s.counterRead (32 + i)
  else s.rd64 off

/-- Fields of a run in SLOT_RUN (R149). -/
def runBits (r : Option Run) : Nat :=
  match r with
  | some x => 2 ^ 7 + (if x.suspended then 2 ^ 6 else 0) + x.progress % 32
  | none => 0

/-- PRESS_MODE: the press operation in progress (R257). -/
def State.pressMode (s : State) : Nat :=
  match s.seq.ops.findSome? (fun o => match o with
    | .press p => some p
    | _ => none) with
  | some p => (if p.fa.eightBit = some true then 4 else 0) + if p.project then 1 else 2
  | none => 0

/-- PRESS_STATUS_c beside its stored fields: BUSY, ACC_BANK and DRAINING (R257). -/
def State.pressBits (s : State) (c : Nat) : Nat :=
  let jobs (f : PressOp → List Job) : List Job := s.seq.ops.flatMap fun o => match o with
    | .press p => (f p).filter fun j => j.bme = c
    | _ => []
  let a := jobs (·.active)
  let d := jobs (·.draining)
  (if a.isEmpty && d.isEmpty then 0 else 2 ^ 31) + (if (a.headD ⟨0, 0, 0, 0, 0, [], [], [], [], none⟩).bank = 1 then 2 ^ 30 else 0) +
    if d.isEmpty then 0 else 2 ^ 29

/-- BME_SEQ_STATUS (R241). -/
def State.seqStatus (s : State) : Nat :=
  (if s.seq.ops.isEmpty then 0 else 2 ^ 31) + s.seq.remoteQueue.length % 128 * 2 ^ 16 +
    s.inSpine % 16 * 2 ^ 8 + s.gathering % 8

/-- Occupancy of a PC in PC_SCHED_STATUS (R129). -/
def Pc.schedBits (c : Pc) : Nat :=
  (if c.writeMode then 2 ^ 24 else 0) + c.rq.length % 128 * 2 ^ 16 + c.wq.length % 64 * 2 ^ 8 + c.pan.length % 64

/-- PC_MRG_DATA: the edges that PC_MRG_SEL selects (R432). -/
def State.marginRead (s : State) (p : Nat) : Nat :=
  let r := Reg.PC_MRG_SEL p
  match s.edge p (s.gf r Fld.PC_MRG_SEL_KIND) (s.gf r Fld.PC_MRG_SEL_GROUP) (s.gf r Fld.PC_MRG_SEL_LANE) with
  | some (lo, hi) => 2 ^ 31 + hi % 1024 * 2 ^ 16 + lo % 1024
  | none => 0

/-- The 32 bits that a register reads: the word it holds, with the fields that show another piece of state. -/
def State.read32 (s : State) (r : RegRow) (off i j : Nat) : Nat :=
  let w := (s.rd off).toNat
  let pc := s.pcs[pcFin i]
  if off = Reg.ID_BLOCK then s.blockId
  else if off = Reg.ID_CONFIG then natSetBits w 20 1 (if s.straps.chainHead then 1 else 0)
  else if off = Reg.ID_IRQ_SOURCES then s.irqSources
  else if r.base = Reg.PC_SCHED_STATUS 0 then w + pc.schedBits
  else if r.base = Reg.PC_REF_STATUS 0 then natSetBits w 0 12 (pc.rowh.filter fun e => e.2.valid).length
  else if r.base = Reg.PC_ECC_STATUS 0 then natSetBits w 16 7 pc.knownBad.length
  else if r.base = Reg.SLOT_RUN 0 then runBits pc.run6 + runBits pc.run7 * 2 ^ 8
  else if r.base = Reg.PC_MRG_DATA 0 then s.marginRead i
  else if off = Reg.BME_SEQ_STATUS then s.seqStatus
  else if off = Reg.PRESS_MODE then s.pressMode
  else if r.base = Reg.PRESS_STATUS 0 then w + s.pressBits i
  else if r.base = Reg.THERM_ZONE_READ 0 then s.zoneWord i w
  else if r.base = Reg.RMT_PT_DATA 0 then natBits s.rmt.ptLatch (32 * i) 32
  else if r.base = Reg.RMT_HIST_DATA 0 then s.rmt.histLatch.getD i 0
  else if r.base = Reg.RMT_SHAPER_CREDIT 0 0 then (s.shaperCredit i j).toNat
  else if off = Reg.CNT_DUMP_SEQ then
    (if s.cnt.dumpIds.isEmpty ∨ !s.dumpDone then w else s.settleDump.1.rd off |>.toNat)
  else if off = Reg.FW_LOG_SEQ then s.logSeq
  else if r.base = Reg.FW_QSTATUS 0 then
    natSetBits w 0 5 (s.sched.packets.filter fun p => p.queue = i).length
  else if off = Reg.FW_LEDGER_PORT then s.age.ledger.length
  else if off = Reg.FW_PKG_PRESENT then
    natSetBits w 0 16 ((upto 16).foldl (fun a n => if s.bit (Reg.PC_RANGE n) Fld.PC_RANGE_VALID then a + 2 ^ n else a) 0)
  else w

/-- Latch the partner entry that RMT_PT_INDEX selects (R339). -/
def State.latchPartner (s : State) : State :=
  let e := s.ptEntry (s.gf Reg.RMT_PT_INDEX Fld.RMT_PT_INDEX_ENTRY)
  s.modRmt fun r => { r with ptLatch := e }

/-- Latch the 16 buckets of the selected histogram (R368). -/
def State.latchHist (s : State) : State :=
  let b := (upto 16).map fun k => cget (fun _ => 0) s.rmt.hist (s.histSel * 16 + k)
  s.modRmt fun r => { r with histLatch := b }

/-- What a read of an offset that a row lists returns, and the state it leaves: a read of a low word loads the high-word
latch, a read of the high word returns it (R16); the first word of a partner entry and of a histogram latches the rest
(R339, R368). -/
def State.readReg (s : State) (r : RegRow) (off i j : Nat) (high : Bool) : State × Word :=
  if high then (s, cget regReset s.mgt.latch off)
  else if r.wide then
    let x := s.read64 r off i j
    ({ s with mgt := { s.mgt with latch := cset regReset s.mgt.latch (off + 4) (BitVec.ofNat 32 (x / 2 ^ 32)) } },
     BitVec.ofNat 32 x)
  else
    let t := if off = Reg.RMT_PT_DATA 0 then s.latchPartner else if off = Reg.RMT_HIST_DATA 0 then s.latchHist else s
    (t, BitVec.ofNat 32 (t.read32 r off i j))

/-! ### Writes of hardware registers (R15, R17, R18) -/

/-- A number with the bits of a mask cleared. -/
def clearBits (x m : Nat) : Nat := x - (x &&& m)

/-- A word after a write: RW bits take the value, W1C bits written with 1 clear unless an event of the same cycle sets
them, every other bit is kept (R15, R17, R18). -/
def writtenWord (r : RegRow) (high : Bool) (old v events : Nat) : Nat :=
  let cut (m : Nat) : Nat := if high then m / 2 ^ 32 else m % 2 ^ 32
  let rw := cut r.rw
  let w1c := cut r.w1c
  clearBits (old ||| (events &&& w1c)) (rw ||| clearBits (v &&& w1c) events) ||| (v &&& rw)

/-- A field at the nearer limit of a range. -/
def clampFld (w lo width least most : Nat) : Nat := natSetBits w lo width (max least (min most (natBits w lo width)))

/-- A field of a PC's row policy at the nearer limit, with TIMING_CLAMPED (R106, R110). -/
def rowpolRanges : Ranges :=
  [(Fld.PC_ROWPOL_AGE_CAP, 1, 255), (Fld.PC_ROWPOL_IDLE_CLOSE, 0, 255), (Fld.PC_ROWPOL_HIT_CAP, 1, 16),
   (Fld.PC_ROWPOL_URGENT_FIRST, 0, 1)]

def rowpolWrite (p : Nat) (v : Word) (s : State) : State :=
  (s.wr (Reg.PC_ROWPOL p) (BitVec.ofNat 32 (clampWord rowpolRanges v.toNat))).raiseIf (outOfRange rowpolRanges v.toNat)
    (Reg.PC_SCHED_STATUS p) Fld.PC_SCHED_STATUS_TIMING_CLAMPED

/-- A write of a shadow word of a slot table or gate list, ignored while the shift is armed (R141, R357). -/
def armedWrite (armed : Bool) (st : Nat) (refused : Fld) (t s : State) : State := if armed then s.raise st refused else t

/-- A write of CNT_TAG_CFG: K at most 20, the LFSRs load at enable (R519). -/
def tagCfgWrite (w : Nat) (s : State) : State :=
  let c := clampFld w 26 5 0 20
  let was := s.bit Reg.CNT_TAG_CFG Fld.CNT_TAG_CFG_ENABLE
  let t := s.wr Reg.CNT_TAG_CFG (BitVec.ofNat 32 c)
  if c.testBit 31 ∧ !was then
    { t with tags := { t.tags with lfsr := Vector.ofFn fun (p : Fin 52) => lfsrSeed (natBits c 0 16 ^^^ (p.val * 2 ^ 24)) } }
  else t

/-- A write of FW_CORE_CTRL: RESET_ALL, or the cores named (R324, R327). -/
def coreCtrlWrite (v : Nat) (s : State) : State :=
  if v.testBit 31 then resetAllCores (v.testBit 30) s else resetNamed (BitVec.ofNat 4 v) s

/-- A write of FW_LOAD_CTRL: START, then COMMIT (R316). -/
def loadCtrlWrite (v : Nat) (s : State) : State :=
  let t := if v.testBit 31 then fwLoadStart s else s
  if v.testBit 30 then fwLoadCommit t else t

/-- The limits of the fields of registers whose writes store the nearer limit: register, and (lowest bit, width, least,
most) of each field. -/
def limitTable : List (Nat × List (Nat × Nat × Nat × Nat)) :=
  [(Reg.PC_COPY_CFG, [(0, 3, 1, 5)]), (Reg.BME_TDT_SIZE, [(0, 13, 0, 4096)]), (Reg.BME_CTRL, [(0, 4, 0, 8)]),
   (Reg.RMT_PORT_CFG, [(24, 8, 1, 255), (12, 8, 1, 255), (4, 8, 1, 255)]), (Reg.RMT_SLOW_CFG, [(8, 8, 1, 255), (0, 8, 1, 255)]),
   (Reg.D2D_STALL_CFG, [(0, 16, 10, 65535)]), (Reg.THERM_BUDGET, [(8, 8, 10, 110), (0, 8, 20, 255)]),
   (Reg.CNT_DUMP_CFG, [(0, 20, 1, 1000000)]),
   (Reg.FW_MARGIN_CFG, [(24, 8, 1, 255), (16, 8, 1, 255), (0, 16, 1, 65535)]),
   (Reg.FW_AGEING_CFG, [(8, 8, 0, 8), (0, 8, 1, 255)])]

/-- A word with every field of its register at the nearer limit. -/
def limited (off w : Nat) : Nat :=
  match limitTable.find? fun e => e.1 = off with
  | some e => e.2.foldl (fun w f => clampFld w f.1 f.2.1 f.2.2.1 f.2.2.2) w
  | none => w

/-- The effect of a write of a 32-bit hardware register. A register with a row of its own has that row's effect. -/
def State.writeHw (s : State) (r : RegRow) (off i j : Nat) (v events : Word) : State :=
  let p := pcFin i
  let n := subFin i
  let w := writtenWord r false (s.rd off).toNat v.toNat events.toNat
  if r.base = Reg.PC_TIM_ROW 0 then timingWrite p .row v s
  else if r.base = Reg.PC_TIM_COL 0 then timingWrite p .col v s
  else if r.base = Reg.PC_TIM_TURN 0 then timingWrite p .turn v s
  else if r.base = Reg.PC_TIM_REF 0 then timingWrite p .refresh v s
  else if r.base = Reg.PC_ROWPOL 0 then rowpolWrite i v s
  else if r.base = Reg.PC_DRAIN 0 then drainWrite p v s
  else if r.base = Reg.SLOT_CTRL 0 then slotCtrlWrite p v s
  else if r.base = Reg.SLOT_SHADOW 0 0 then
    armedWrite (s.bit (Reg.SLOT_STATUS i) Fld.SLOT_STATUS_ARMED) (Reg.SLOT_STATUS i) Fld.SLOT_STATUS_ARMED_WRITE_REFUSED
      (s.wr off v) s
  else if off = Reg.PC_LACE then laceWrite v s
  else if off = Reg.PC_REF_CTRL then refCtrlWrite v events s
  else if off = Reg.PC_REF_TEMP then refTempWrite v s
  else if off = Reg.PC_INJ then parityInjection v s
  else if off = Reg.PC_FEC_INFO then
    (s.wr off (BitVec.ofNat 32 w)).iff (v.getLsbD 31 && !w.testBit 31) fun t =>
      t.sf off Fld.PC_FEC_INFO_LOST 0
  else if off = Reg.CACHE_CTRL then cacheCtrlWrite v s
  else if off = Reg.RMT_PT_DATA 3 then partnerCommit v s
  else if off = Reg.RMT_HIST_SEL then (if v.getLsbD 31 then histogramClear v s else s.wr off (BitVec.ofNat 32 w))
  else if r.base = Reg.RMT_GATE_CTRL 0 then gateCtrlWrite n v s
  else if r.base = Reg.RMT_GATE_SHADOW 0 0 then
    armedWrite (s.bit (Reg.RMT_GATE_STATUS i) Fld.RMT_GATE_STATUS_ARMED) (Reg.RMT_GATE_STATUS i)
      Fld.RMT_GATE_STATUS_ARMED_WRITE_REFUSED (s.wr off v) s
  else if r.base = Reg.RMT_INJ 0 then remoteInjection n v s
  else if r.base = Reg.RMT_SHAPER_SLOPE 0 0 then shaperWrite n (subFin j) false v s
  else if r.base = Reg.RMT_SHAPER_LIMIT 0 0 then shaperWrite n (subFin j) true v s
  else if r.base = Reg.D2D_INJ 0 then d2dInjection (decide (i = 1)) v s
  else if off = Reg.THERM_COMPUTE_W then computePower v s
  else if off = Reg.THERM_GUARD_CFG then
    s.orderedWrite off (BitVec.ofNat 32 (clampFld (clampFld (clampFld w 20 12 10 4000) 8 6 1 63) 0 6 1 63))
  else if r.base = Reg.THERM_SNS_CFG 0 then (s.orderedWrite off (BitVec.ofNat 32 (clampFld w 17 13 3000 4500))).rezone
  else if off = Reg.THERM_LOW ∨ r.base = Reg.THERM_ADMIT 0 ∨ r.base = Reg.THERM_ZTHR 0 0 then
    s.orderedWrite off (BitVec.ofNat 32 w)
  else if off = Reg.CNT_CTRL then s.cntCtrl v
  else if off = Reg.CNT_TAG_CFG then tagCfgWrite w s
  else if off = Reg.FW_CORE_CTRL then coreCtrlWrite v.toNat s
  else if off = Reg.FW_HEARTBEAT then s.reloadTimer
  else if off = Reg.FW_HOST_TIMEOUT then hostTimeout (BitVec.ofNat 16 v.toNat) s
  else if off = Reg.FW_WDOG_CFG then wdogCfg (BitVec.ofNat 7 v.toNat) s
  else if off = Reg.FW_LOAD_CTRL then loadCtrlWrite v.toNat s
  else if off = Reg.FW_LOAD_DATA then fwLoadData v s
  else s.wr off (BitVec.ofNat 32 (limited off w))

/-! ### 64-bit registers (R524) -/

/-- Hold a low word. -/
def State.holdLow (s : State) (off : Nat) (v : Word) : State :=
  { s with mgt := { s.mgt with hold := (off, v) :: s.mgt.hold.filter fun e => e.1 ≠ off } }

/-- Registers in the format of FW_LOG_RING: LOG2 is kept within 6 to 20 (R333). -/
def ringRegs : List Nat :=
  [Reg.FW_LOG_RING, Reg.FW_TRACE_RING, Reg.RMT_NOTICE_RING, Reg.CNT_DUMP_RING, Reg.CNT_TAG_RING]

/-- The effect of a commit of both words of a 64-bit register with its low word at `off`. A queue's rings cannot change
while it is enabled (R287); a shift time cannot while the shift is armed (R141, R357). -/
def State.commit64 (s : State) (r : RegRow) (off i : Nat) (lo hi : Word) : State :=
  let old := s.rd64 off
  let v := lo.toNat + 2 ^ 32 * hi.toNat
  let x := clearBits old r.rw ||| (v &&& r.rw)
  if r.base = Reg.SLOT_SHIFT_TIME 0 then
    armedWrite (s.bit (Reg.SLOT_STATUS i) Fld.SLOT_STATUS_ARMED) (Reg.SLOT_STATUS i) Fld.SLOT_STATUS_ARMED_WRITE_REFUSED
      (s.wr64 off x) s
  else if r.base = Reg.RMT_GATE_SHIFT_TIME 0 then
    armedWrite (s.bit (Reg.RMT_GATE_STATUS i) Fld.RMT_GATE_STATUS_ARMED) (Reg.RMT_GATE_STATUS i)
      Fld.RMT_GATE_STATUS_ARMED_WRITE_REFUSED (s.wr64 off x) s
  else if r.base = Reg.FW_QRING 0 ∨ r.base = Reg.FW_QREPLY 0 then
    if s.bit (Reg.FW_QCFG i) Fld.FW_QCFG_ENABLE then s else s.wr64 off x
  else if ringRegs.contains off then
    let t := s.wr64 off (clampFld x 0 5 6 20)
    if off = Reg.CNT_DUMP_RING ∧ x.testBit 5 ∧ !old.testBit 5 then t.wr Reg.CNT_DUMP_SEQ 0 else t
  else s.wr64 off x

/-- The low word that a high-word write commits: the held one, which is then held no longer, or the current one (R524). -/
def State.commitHigh (s : State) (r : RegRow) (off i : Nat) (hi : Word) : State :=
  let lo := ((s.mgt.hold.find? fun e => e.1 = off).map (·.2)).getD (s.rd off)
  (s.commit64 r off i lo hi).modMgt fun m => { m with hold := m.hold.filter fun e => e.1 ≠ off }

/-! ### Emulated registers (R57, R319, R323) -/

/-- A write of FW_STAGE_CTRL sets its fields, and each of VERIFY, ACTIVATE and CANCEL that is written as 1 acts (R17, R328 to
R330). DESIGN CHOICE: log entry 71, they act in this order. -/
def stageCtrlWrite (v : Word) (s : State) : State :=
  (((s.wr Reg.FW_STAGE_CTRL (v &&& 0xE00FFFFF#32)).iff (v.getLsbD 31) State.verifyStage).iff (v.getLsbD 30)
    State.activateStage).iff (v.getLsbD 29) State.cancelStage

/-- A write of FW_LEDGER_CTRL sets its fields; CLEAR acts first, then REPLAY (R17, R397). What
the ledger's bytes leave unsaid is free in a replay that is not the row LEDGER_REPLAY (log entry 71). -/
def ledgerCtrlWrite (v : Word) (s : State) : State :=
  ((s.wr Reg.FW_LEDGER_CTRL (v &&& 0xC0FFFFFF#32)).iff (v.getLsbD 31) fun t => t.modAge fun a => { a with ledger := [] }).iff
    (v.getLsbD 30) fun t => t.startReplay (BitVec.ofNat 24 v.toNat) none none []

/-- What the liaison core does with a write of an emulated word: whether it answers with MGT_ERR, and the effect. -/
def State.emuEffect (s : State) (r : RegRow) (off i : Nat) (high : Bool) (v : Word) : Bool × State :=
  if high then (false, s.commitHigh r (off - 4) i v)
  else if r.wide then (false, s.holdLow off v)
  else if off = Reg.FW_ATTACH then (attachErr v s, attach v s)
  else if off = Reg.FW_STAGE_CTRL then (false, stageCtrlWrite v s)
  else if r.base = Reg.FW_QCFG 0 then (false, s.qcfg (qFin i) v)
  else if r.base = Reg.FW_QDB 0 then ((doorbell (qFin i) v s).isNone, (doorbell (qFin i) v s).getD s)
  else if off = Reg.FW_BOOT_CTRL then
    (false, if v.getLsbD 31 then go v s else s.wr off (bootWord v))
  else if off = Reg.FW_LEDGER_PORT then (false, ledgerPort v s)
  else if off = Reg.FW_LEDGER_CTRL then
    (false, ledgerCtrlWrite v s)
  else if off = Reg.FW_LEDGER_XCTRL then
    (false, if v.getLsbD 31 then snap v s else s.wr off (xctrlWord v))
  else if off = Reg.FW_TRUE_CFG then (false, trueCfg v s)
  else (false, s.wr off (BitVec.ofNat 32 (limited off (writtenWord r false (s.rd off).toNat v.toNat 0))))

/-- The answer of the liaison core to an access, as the management bus hub accepts it. -/
def State.emuAnswer (s : State) (r : RegRow) (off i j : Nat) (high write : Bool) (v : Word) : State :=
  if write then
    let (e, t) := s.emuEffect r off i high v
    t.mgtDone e 0
  else
    let (t, x) := s.readReg r off i j high
    t.mgtDone false x

/-- An access to an emulated word: answered while the liaison core serves, waiting while it is in reset or the instance is
ACTIVATING, and by R57 before firmware runs. DESIGN CHOICE: log entry 92, until the firmware island is out of reset a read too
completes with MGT_ERR = 1, as R523 has it for every register, and not with R57's zero. -/
def State.emulated (s : State) (r : RegRow) (off i j : Nat) (high write : Bool) (v : Word) : State :=
  if !s.live .firmware then s.mgtDone true 0
  else if s.fwRuns .liaison then s.emuAnswer r off i j high write v
  else if 4 ≤ s.fwState then
    s.modMgt fun m => { m with waiting := some { write := write, off := off, value := v, since := s.clk.pkg } }
  else s.mgtDone write 0

/-! ### The port (R56, R57) -/

/-- The row, the indices and the word of an offset that the map lists; none for an unmapped or misaligned one. -/
def mapped (off : Nat) : Option (RegRow × Nat × Nat × Bool) := if off % 4 = 0 then regLookup off else none

/-- A write at the management port: refused with MGT_ERR for an unmapped or misaligned offset, and for a register whose
home island is not in service. -/
def State.portWrite (s : State) (off : Nat) (v events : Word) : State :=
  if !s.mgtReady then s
  else match mapped off with
  | none => s.mgtDone true 0
  | some (r, i, j, high) =>
    if r.emu then s.emulated r off i j high true v
    else if !s.live (r.home.island i) then s.mgtDone true 0
    else if high then (s.commitHigh r (off - 4) i v).mgtDone false 0
    else if r.wide then (s.holdLow off v).mgtDone false 0
    else (s.writeHw r off i j v events).mgtDone false 0

/-- A read at the management port. -/
def State.portRead (s : State) (off : Nat) : State :=
  if !s.mgtReady then s
  else match mapped off with
  | none => s.mgtDone true 0
  | some (r, i, j, high) =>
    if r.emu then s.emulated r off i j high false 0
    else if !s.live (r.home.island i) then s.mgtDone true 0
    else
      let (t, x) := s.readReg r off i j high
      t.mgtDone false x

/-- Whether an offset is the low word, or the high word, of a 64-bit register. -/
def wideWord (off : Nat) (high : Bool) : Bool :=
  match mapped off with
  | some (r, _, _, h) => r.wide && (h == high)
  | none => false

/-- Whether an offset is an emulated register's. -/
def emulatedReg (off : Nat) : Bool :=
  match mapped off with
  | some (r, _, _, _) => r.emu
  | none => false

/-- REGISTER_WRITE (R17, R18): `events` are the W1C bits that new events set in the same cycle. Any offset but a word of a
64-bit register and an emulated one. -/
def execRegisterWrite (off : BitVec 24) (v events : Word) (s : State) : Out :=
  .next (s.when (!(wideWord off.toNat false || wideWord off.toNat true || emulatedReg off.toNat)) (s.portWrite off.toNat v events))

/-- LOW_WORD_READ (R16), and the read of any other word (R17, R57), for which the table has no row of its own. -/
def execLowWordRead (off : BitVec 24) (s : State) : Out := .next (s.portRead off.toNat)

/-- LOW_WORD_WRITE (R524). -/
def execLowWordWrite (off : BitVec 24) (v : Word) (s : State) : Out :=
  .next (s.when (wideWord off.toNat false) (s.portWrite off.toNat v 0))

/-- HIGH_WORD_WRITE (R524). -/
def execHighWordWrite (off : BitVec 24) (v : Word) (s : State) : Out :=
  .next (s.when (wideWord off.toNat true) (s.portWrite off.toNat v 0))

/-- EMULATED_ACCESS (R319, R57): a read or a write of an emulated word. While an access waits, the port takes no other, and
the command is the liaison core's answer to the one that waits, which loses against the limit of 100 µs (R496). -/
def emulatedAccess (write : Bool) (off : Nat) (v : Word) (s : State) : State :=
  match s.mgt.waiting with
  | none => s.when (emulatedReg off) (if write then s.portWrite off v 0 else s.portRead off)
  | some w =>
    match mapped w.off with
    | some (r, i, j, high) =>
      if !s.fwRuns .liaison then s
      else if w.since + 100000 ≤ s.clk.pkg then s.mgtDone true 0
      else s.emuAnswer r w.off i j high w.write w.value
    | none => s

def execEmulatedAccess (write : Bool) (off : BitVec 24) (v : Word) (s : State) : Out :=
  .next (s.onLive .sensor (emulatedAccess write off.toNat v s))

/-- EMULATED_ACCESS_TIMEOUT (R57, R496): the access is discarded after 100 µs. -/
def emulatedTimeout (s : State) : State :=
  match s.mgt.waiting with
  | some w => if w.since + 100000 ≤ s.clk.pkg then s.mgtDone true 0 else s
  | none => s

def execEmulatedAccessTimeout (s : State) : Out := .next (s.onLive .sensor (emulatedTimeout s))

end Sys2Proof.Machine
end

