-- ==== Sys2Proof/Machine/Supply.lean ====
section
/-! DEFINITION. Meanings of the rows on the supply monitors and the re-power of a domain (18: R491 to R494). -/

namespace Sys2Proof.Machine

/-- Monitor group of a supply: the power stage of its domain, 12 for the sensor and management domain, 13 to 15 for the
stack's rails, which are supplies 124 to 126 (R393, R491). -/
def supplyGroup (d : Nat) : Nat :=
  if d < 64 then 4 + d / 16
  else if d < 96 then 8 + (d - 64) / 16
  else if d < 112 then 2 + (d - 96) / 8
  else if d < 116 then 0
  else if d < 120 then 1
  else if d = 120 then 10
  else if d < 123 then 11
  else d - 111

/-- A domain is isolated: it carries no clock, and its islands are in reset (R492). -/
def State.isolate (s : State) (d : Nat) : State :=
  (s.setDom d .isolated).modPwr fun w =>
    { w with isolatedAt := (w.isolatedAt.filter fun e => e.1 ≠ d) ++ [(d, s.clk.pkg)], up := (domainIslands d).foldl (fun u i => u.set (Fin.ofNat 133 i.index) false) w.up }

/-- A host port group is isolated: its outputs at their reset values, its requests unanswered (R492). -/
def State.isolatePorts (s : State) (d : Nat) : State :=
  (upto 4).foldl (fun t k => t.modPort (Fin.ofNat 16 (4 * (d - 116) + k)) fun _ => HostPort.init) (s.isolate d)

/-- A register of the remote port's island. -/
def remoteReg (off : Nat) : Bool := decide (0x160000 ≤ off ∧ off < 0x178000)

/-- The remote port is isolated: every sub-port goes down, and the unit starts from its reset state (R367, R492, R494). -/
def State.isolateRemote (s : State) : State :=
  let t := (upto 8).foldl (fun t n => rmtLinkDown (Fin.ofNat 8 n) t) s
  { (t.isolate 120).resetRegs remoteReg with rmt := Rmt.init }

/-- A die-to-die domain is isolated: its link is down, and the port starts from its reset state (R377, R492, R494). -/
def State.isolateD2d (s : State) (east : Bool) : State :=
  let t := s.linkDown east
  let r := portNo east
  ((t.isolate (121 + r)).resetRegs fun o => o = Reg.D2D_LANE_STATUS r ∨ o = Reg.D2D_INJ r).modD2d east fun p =>
    { D2dPort.init with outstanding := p.outstanding }

/-- A firmware core's domain fails: the core halts (R492). -/
def State.haltCore (s : State) (k : Fin 4) : State :=
  let t := (s.setDom (112 + k) .isolated).modFw fun w =>
    { w with cores := w.cores.set k { w.cores[k] with run := false, resetAt := none } }
  let h := t.gf Reg.FW_STATUS Fld.FW_STATUS_CORE_HALTED ||| 2 ^ k.val
  (t.sf Reg.FW_STATUS Fld.FW_STATUS_CORE_HALTED h).raise Reg.FW_STATUS Fld.FW_STATUS_DEGRADED

/-- The consequence of a supply fault (R492). -/
def State.supplyEffect (s : State) (d : Nat) : State :=
  if d < 64 ∨ 124 ≤ d then s.critical 4
  else if d < 96 then bmeFail (Fin.ofNat 32 (d - 64)) 3 s
  else if d < 112 then
    if s.pwr.sliceFailed.contains (d - 96) then s else s.sliceFails (sliceFin (d - 96)) 3
  else if d < 116 then s.haltCore (Fin.ofNat 4 (d - 112))
  else if d < 120 then s.isolatePorts d
  else if d = 120 then s.isolateRemote
  else if d = 121 then s.isolateD2d false
  else if d = 122 then s.isolateD2d true
  else s.livePcs.foldl (fun t p => clockLoss p false false t) s

/-- SUPPLY_FAULT: a supply has left regulation for three samples: a domain that is ON, or a rail of the stack (R491). -/
def supplyFault (d : Fin 127) (s : State) : State :=
  if s.pwr.badSupply.contains d.val ∨ (d.val < 124 ∧ s.dom d ≠ .on) then s
  else
    let t := s.raise Reg.THERM_PWR_STATUS Fld.THERM_PWR_STATUS_SUPPLY_FAULT
    let t := t.sf Reg.THERM_PWR_STATUS Fld.THERM_PWR_STATUS_FAULT_GROUP (supplyGroup d)
    let t := t.modPwr fun w => { w with badSupply := w.badSupply ++ [d.val] }
    ((t.supplyEffect d).calm).holdEval

def execSupplyFault (d : Fin 127) (s : State) : Out := .next (s.onLive .sensor (supplyFault d s))

/-- SUPPLY_BACK_IN_REGULATION (R329, R489, R491). -/
def supplyBack (d : Fin 127) (s : State) : State :=
  ((s.modPwr fun w => { w with badSupply := w.badSupply.filter (· ≠ d.val) }).calm).holdEval

def execSupplyBackInRegulation (d : Fin 127) (s : State) : Out := .next (s.onLive .sensor (supplyBack d s))

/-- A re-power of a domain may start. The steward core re-powers host port groups, the remote port and the die-to-die ports; the
power sequencer a firmware core's domain, at a reset of all cores (R492, R494). -/
def State.mayRepower (s : State) (d : Nat) : Bool :=
  s.repowerFree d &&
    (if d < 116 then decide (112 ≤ d) && decide (s.fwState = 0)
     else decide (d < 123) && s.fwRuns .steward &&
       (decide (120 ≤ d) || s.pwr.isolatedAt.all fun e => decide (e.1 ≠ d ∨ e.2 + 10000000 ≤ s.clk.pkg)))

/-- DOMAIN_REPOWER (R494). -/
def domainRepower (d : Fin 124) (s : State) : State := if s.mayRepower d then s.beginRepower d else s

def execDomainRepower (d : Fin 124) (s : State) : Out := .next (s.onLive .sensor (domainRepower d s))

end Sys2Proof.Machine
end

