-- ==== Sys2Proof/Machine/Dispatch.lean ====
section
/-! DEFINITION. The dispatch: one arm per command, one meaning per arm. -/

namespace Sys2Proof.Machine

def exec (i : Instr) (s : State) : Host.Outcome State Fault Refusal :=
  match i with
  | .registerWrite off v events => Sys2Proof.Machine.execRegisterWrite off v events s
  | .lowWordRead off => Sys2Proof.Machine.execLowWordRead off s
  | .lowWordWrite off v => Sys2Proof.Machine.execLowWordWrite off v s
  | .highWordWrite off v => Sys2Proof.Machine.execHighWordWrite off v s
  | .emulatedAccess write off v => Sys2Proof.Machine.execEmulatedAccess write off v s
  | .emulatedAccessTimeout => Sys2Proof.Machine.execEmulatedAccessTimeout s
  | .porstNAssert => Sys2Proof.Machine.execPorstNAssert s
  | .porstNRelease head west east use kind => Sys2Proof.Machine.execPorstNRelease head west east use kind s
  | .vddOkFall => Sys2Proof.Machine.execVddOkFall s
  | .sensorIslandResetRelease => Sys2Proof.Machine.execSensorIslandResetRelease s
  | .powerStageRequest => Sys2Proof.Machine.execPowerStageRequest s
  | .pwrStgAckRise => Sys2Proof.Machine.execPwrStgAckRise s
  | .pwrStgAckFall => Sys2Proof.Machine.execPwrStgAckFall s
  | .stageTimeout => Sys2Proof.Machine.execStageTimeout s
  | .islandResetRelease j => Sys2Proof.Machine.execIslandResetRelease j s
  | .dieWrstReqFall => Sys2Proof.Machine.execDieWrstReqFall s
  | .dieWrstReqRise => Sys2Proof.Machine.execDieWrstReqRise s
  | .dieRstNAssert behind => Sys2Proof.Machine.execDieRstNAssert behind s
  | .warmReturn repair => Sys2Proof.Machine.execWarmReturn repair s
  | .clockLoss p cut oscBad => Sys2Proof.Machine.execClockLoss p cut oscBad s
  | .localTimeCorrection j => Sys2Proof.Machine.execLocalTimeCorrection j s
  | .oscillatorCompensation => Sys2Proof.Machine.execOscillatorCompensation s
  | .hostRequest p addr op size hint discard urgent tag attr => Sys2Proof.Machine.execHostRequest p addr op size hint discard urgent tag attr s
  | .hostWriteDataBeat p data strb last => Sys2Proof.Machine.execHostWriteDataBeat p data strb last s
  | .hostResponseBeat p tag => Sys2Proof.Machine.execHostResponseBeat p tag s
  | .hostRead sl => Sys2Proof.Machine.execHostRead sl s
  | .hostWrite sl => Sys2Proof.Machine.execHostWrite sl s
  | .clean sl => Sys2Proof.Machine.execClean sl s
  | .atomicAdd sl => Sys2Proof.Machine.execAtomicAdd sl s
  | .atomicMin sl => Sys2Proof.Machine.execAtomicMin sl s
  | .atomicMax sl => Sys2Proof.Machine.execAtomicMax sl s
  | .atomicSwap sl => Sys2Proof.Machine.execAtomicSwap sl s
  | .atomicCas sl => Sys2Proof.Machine.execAtomicCas sl s
  | .reduceContribution sl => Sys2Proof.Machine.execReduceContribution sl s
  | .reduceArm sl => Sys2Proof.Machine.execReduceArm sl s
  | .reduceQuery sl => Sys2Proof.Machine.execReduceQuery sl s
  | .reduceRelease sl => Sys2Proof.Machine.execReduceRelease sl s
  | .sliceInput sl => Sys2Proof.Machine.execSliceInput sl s
  | .missEntryRelease sl => Sys2Proof.Machine.execMissEntryRelease sl s
  | .fillReturn sl => Sys2Proof.Machine.execFillReturn sl s
  | .pannierRequest p => Sys2Proof.Machine.execPannierRequest p s
  | .pannierWindowClose p => Sys2Proof.Machine.execPannierWindowClose p s
  | .pannierEntryFree p => Sys2Proof.Machine.execPannierEntryFree p s
  | .intakeAccess p => Sys2Proof.Machine.execIntakeAccess p s
  | .slotGrant p => Sys2Proof.Machine.execSlotGrant p s
  | .slotAdvance p => Sys2Proof.Machine.execSlotAdvance p s
  | .commandSelect p => Sys2Proof.Machine.execCommandSelect p s
  | .readDataReturn p err => Sys2Proof.Machine.execReadDataReturn p err s
  | .mergeReadReturn p err => Sys2Proof.Machine.execMergeReadReturn p err s
  | .writeDataDriven p => Sys2Proof.Machine.execWriteDataDriven p s
  | .timingRegisterWrite p r v => Sys2Proof.Machine.execTimingRegisterWrite p r v s
  | .pcDrainWrite p v => Sys2Proof.Machine.execPcDrainWrite p v s
  | .slotArm p v => Sys2Proof.Machine.execSlotArm p v s
  | .slotDisarm p v => Sys2Proof.Machine.execSlotDisarm p v s
  | .starveNWrite p v => Sys2Proof.Machine.execStarveNWrite p v s
  | .slotShift p => Sys2Proof.Machine.execSlotShift p s
  | .slotClassPrioWrite v => Sys2Proof.Machine.execSlotClassPrioWrite v s
  | .debugMemoryAccess rank bg bank row col write data => Sys2Proof.Machine.execDebugMemoryAccess rank bg bank row col write data s
  | .runSubmit p copier write group bg bank row col len data => Sys2Proof.Machine.execRunSubmit p copier write group bg bank row col len data s
  | .runResume p cls7 => Sys2Proof.Machine.execRunResume p cls7 s
  | .refreshDue p k => Sys2Proof.Machine.execRefreshDue p k s
  | .refreshComplete p k => Sys2Proof.Machine.execRefreshComplete p k s
  | .targetedRefreshTick p => Sys2Proof.Machine.execTargetedRefreshTick p s
  | .refreshRateChange p => Sys2Proof.Machine.execRefreshRateChange p s
  | .stackTemperatureRead v ok => Sys2Proof.Machine.execStackTemperatureRead v ok s
  | .memCattripRise => Sys2Proof.Machine.execMemCattripRise s
  | .rowHealthEvent p => Sys2Proof.Machine.execRowHealthEvent p s
  | .rowHealthFwWrite p j valid cls retMs layer unit row tie => Sys2Proof.Machine.execRowHealthFwWrite p j valid cls retMs layer unit row tie s
  | .rowClassify p layer bg bank row test => Sys2Proof.Machine.execRowClassify p layer bg bank row test s
  | .retentionTest p layer hold => Sys2Proof.Machine.execRetentionTest p layer hold s
  | .retentionHoldExpiry rank failed => Sys2Proof.Machine.execRetentionHoldExpiry rank failed s
  | .refInhibitWrite p group => Sys2Proof.Machine.execRefInhibitWrite p group s
  | .exitScrubComplete p errs fails => Sys2Proof.Machine.execExitScrubComplete p errs fails s
  | .pcRefCtrlWrite v events => Sys2Proof.Machine.execPcRefCtrlWrite v events s
  | .pcRefTempWrite v => Sys2Proof.Machine.execPcRefTempWrite v s
  | .pcLaceWrite v => Sys2Proof.Machine.execPcLaceWrite v s
  | .cacheCtrlWrite v => Sys2Proof.Machine.execCacheCtrlWrite v s
  | .sliceFence sl => Sys2Proof.Machine.execSliceFence sl s
  | .sliceFenceTimeout sl => Sys2Proof.Machine.execSliceFenceTimeout sl s
  | .sliceFenceComplete sl => Sys2Proof.Machine.execSliceFenceComplete sl s
  | .cacheStatusReport sl => Sys2Proof.Machine.execCacheStatusReport sl s
  | .doorbell q tail => Sys2Proof.Machine.execDoorbell q tail s
  | .queueEnable q v => Sys2Proof.Machine.execQueueEnable q v s
  | .queueReset q v => Sys2Proof.Machine.execQueueReset q v s
  | .queueIrqAck q ack => Sys2Proof.Machine.execQueueIrqAck q ack s
  | .packetFetch => Sys2Proof.Machine.execPacketFetch s
  | .packetIntake => Sys2Proof.Machine.execPacketIntake s
  | .packetStart q => Sys2Proof.Machine.execPacketStart q s
  | .replyWrite => Sys2Proof.Machine.execReplyWrite s
  | .nop => Sys2Proof.Machine.execNop s
  | .fence => Sys2Proof.Machine.execFence s
  | .signature => Sys2Proof.Machine.execSignature s
  | .scaleAdd => Sys2Proof.Machine.execScaleAdd s
  | .mul => Sys2Proof.Machine.execMul s
  | .relu => Sys2Proof.Machine.execRelu s
  | .convert => Sys2Proof.Machine.execConvert s
  | .rowQuantise => Sys2Proof.Machine.execRowQuantise s
  | .rowUpdate => Sys2Proof.Machine.execRowUpdate s
  | .pressProject => Sys2Proof.Machine.execPressProject s
  | .pressGram => Sys2Proof.Machine.execPressGram s
  | .cleanRange => Sys2Proof.Machine.execCleanRange s
  | .cleanSweepSet sl => Sys2Proof.Machine.execCleanSweepSet sl s
  | .collective => Sys2Proof.Machine.execCollective s
  | .completionNotice => Sys2Proof.Machine.execCompletionNotice s
  | .collectiveTimeout => Sys2Proof.Machine.execCollectiveTimeout s
  | .cancel => Sys2Proof.Machine.execCancel s
  | .bagDeal => Sys2Proof.Machine.execBagDeal s
  | .fetchOrder b => Sys2Proof.Machine.execFetchOrder b s
  | .rowPartArrival b => Sys2Proof.Machine.execRowPartArrival b s
  | .bagCommit => Sys2Proof.Machine.execBagCommit s
  | .spineStage k => Sys2Proof.Machine.execSpineStage k s
  | .bagFinish => Sys2Proof.Machine.execBagFinish s
  | .bagPrefetch => Sys2Proof.Machine.execBagPrefetch s
  | .bmeFail b cond => Sys2Proof.Machine.execBmeFail b cond s
  | .bmeProgressTimeout b => Sys2Proof.Machine.execBmeProgressTimeout b s
  | .pressPass b => Sys2Proof.Machine.execPressPass b s
  | .tileSwap b => Sys2Proof.Machine.execTileSwap b s
  | .jobCommit => Sys2Proof.Machine.execJobCommit s
  | .drainComplete b => Sys2Proof.Machine.execDrainComplete b s
  | .fwLoadStart => Sys2Proof.Machine.execFwLoadStart s
  | .fwLoadData v => Sys2Proof.Machine.execFwLoadData v s
  | .fwLoadCommit => Sys2Proof.Machine.execFwLoadCommit s
  | .authenticationDone => Sys2Proof.Machine.execAuthenticationDone s
  | .coresInService => Sys2Proof.Machine.execCoresInService s
  | .heartbeat => Sys2Proof.Machine.execHeartbeat s
  | .hostTimeoutWrite ms => Sys2Proof.Machine.execHostTimeoutWrite ms s
  | .hostLossExpiry => Sys2Proof.Machine.execHostLossExpiry s
  | .attach v => Sys2Proof.Machine.execAttach v s
  | .watchdogExpiry k => Sys2Proof.Machine.execWatchdogExpiry k s
  | .coreTrap k => Sys2Proof.Machine.execCoreTrap k s
  | .resetCore mask => Sys2Proof.Machine.execResetCore mask s
  | .coreRestart k damage => Sys2Proof.Machine.execCoreRestart k damage s
  | .resetAll orderly => Sys2Proof.Machine.execResetAll orderly s
  | .orderlyResetDone => Sys2Proof.Machine.execOrderlyResetDone s
  | .wdogCfgWrite ms => Sys2Proof.Machine.execWdogCfgWrite ms s
  | .stageVerify len => Sys2Proof.Machine.execStageVerify len s
  | .stageVerifyDone => Sys2Proof.Machine.execStageVerifyDone s
  | .stageActivate len => Sys2Proof.Machine.execStageActivate len s
  | .activationCommitPoint => Sys2Proof.Machine.execActivationCommitPoint s
  | .activationRetry => Sys2Proof.Machine.execActivationRetry s
  | .activationLoadDone => Sys2Proof.Machine.execActivationLoadDone s
  | .stageCancel len => Sys2Proof.Machine.execStageCancel len s
  | .census => Sys2Proof.Machine.execCensus s
  | .logRecord => Sys2Proof.Machine.execLogRecord s
  | .tracePoint point core arg => Sys2Proof.Machine.execTracePoint point core arg s
  | .traceFlush => Sys2Proof.Machine.execTraceFlush s
  | .remoteFrameReceive n b err => Sys2Proof.Machine.execRemoteFrameReceive n b err s
  | .reorderTimeout => Sys2Proof.Machine.execReorderTimeout s
  | .remoteRequestCheck => Sys2Proof.Machine.execRemoteRequestCheck s
  | .remoteRead => Sys2Proof.Machine.execRemoteRead s
  | .remoteWrite => Sys2Proof.Machine.execRemoteWrite s
  | .remoteAtomic => Sys2Proof.Machine.execRemoteAtomic s
  | .remoteReduceInto => Sys2Proof.Machine.execRemoteReduceInto s
  | .remoteSignature => Sys2Proof.Machine.execRemoteSignature s
  | .remoteReply => Sys2Proof.Machine.execRemoteReply s
  | .ackReceive n => Sys2Proof.Machine.execAckReceive n s
  | .ackTimerExpiry => Sys2Proof.Machine.execAckTimerExpiry s
  | .creditReceive n => Sys2Proof.Machine.execCreditReceive n s
  | .creditReturnTimer n => Sys2Proof.Machine.execCreditReturnTimer n s
  | .subportFrameStart n => Sys2Proof.Machine.execSubportFrameStart n s
  | .frameSent n => Sys2Proof.Machine.execFrameSent n s
  | .gateRefusal n => Sys2Proof.Machine.execGateRefusal n s
  | .gateEntryAdvance n => Sys2Proof.Machine.execGateEntryAdvance n s
  | .gateArm n v => Sys2Proof.Machine.execGateArm n v s
  | .gateDisarm n v => Sys2Proof.Machine.execGateDisarm n v s
  | .gateShift n => Sys2Proof.Machine.execGateShift n s
  | .shaperReconfigure n c limit v => Sys2Proof.Machine.execShaperReconfigure n c limit v s
  | .partnerCommit v => Sys2Proof.Machine.execPartnerCommit v s
  | .partnerEntryRead => Sys2Proof.Machine.execPartnerEntryRead s
  | .collectiveNotify => Sys2Proof.Machine.execCollectiveNotify s
  | .slowdownSend => Sys2Proof.Machine.execSlowdownSend s
  | .noticeReceive => Sys2Proof.Machine.execNoticeReceive s
  | .slowdownHoldExpiry => Sys2Proof.Machine.execSlowdownHoldExpiry s
  | .rmtLinkDown n => Sys2Proof.Machine.execRmtLinkDown n s
  | .rmtLinkUp n => Sys2Proof.Machine.execRmtLinkUp n s
  | .histogramSample => Sys2Proof.Machine.execHistogramSample s
  | .histogramClear v => Sys2Proof.Machine.execHistogramClear v s
  | .histogramBucketRead => Sys2Proof.Machine.execHistogramBucketRead s
  | .enum => Sys2Proof.Machine.execEnum s
  | .enumLastTimeout => Sys2Proof.Machine.execEnumLastTimeout s
  | .enumHeadTimeout => Sys2Proof.Machine.execEnumHeadTimeout s
  | .last => Sys2Proof.Machine.execLast s
  | .size => Sys2Proof.Machine.execSize s
  | .timeZero => Sys2Proof.Machine.execTimeZero s
  | .rejoin => Sys2Proof.Machine.execRejoin s
  | .chainWordReceive down w parity stop => Sys2Proof.Machine.execChainWordReceive down w parity stop s
  | .beat => Sys2Proof.Machine.execBeat s
  | .relay => Sys2Proof.Machine.execRelay s
  | .cmdStatus => Sys2Proof.Machine.execCmdStatus s
  | .trainStack height temp ok info attempts => Sys2Proof.Machine.execTrainStack height temp ok info attempts s
  | .trainD2d => Sys2Proof.Machine.execTrainD2d s
  | .retrainD2d => Sys2Proof.Machine.execRetrainD2d s
  | .cmdMemtest fails => Sys2Proof.Machine.execCmdMemtest fails s
  | .resetCores => Sys2Proof.Machine.execResetCores s
  | .reservedChainCommand => Sys2Proof.Machine.execReservedChainCommand s
  | .result => Sys2Proof.Machine.execResult s
  | .d2dTrainExchange east n failed => Sys2Proof.Machine.execD2dTrainExchange east n failed s
  | .d2dTrainTimeout east => Sys2Proof.Machine.execD2dTrainTimeout east s
  | .d2dFlitReceive east f => Sys2Proof.Machine.execD2dFlitReceive east f s
  | .d2dCreditReturn east vc n => Sys2Proof.Machine.execD2dCreditReturn east vc n s
  | .escSwitch east => Sys2Proof.Machine.execEscSwitch east s
  | .d2dLinkDown east => Sys2Proof.Machine.execD2dLinkDown east s
  | .d2dRetrain east m => Sys2Proof.Machine.execD2dRetrain east m s
  | .timeAlign east nb rtt => Sys2Proof.Machine.execTimeAlign east nb rtt s
  | .election => Sys2Proof.Machine.execElection s
  | .electionTimeout => Sys2Proof.Machine.execElectionTimeout s
  | .heartbeatSend => Sys2Proof.Machine.execHeartbeatSend s
  | .captainHeartbeatReceive => Sys2Proof.Machine.execCaptainHeartbeatReceive s
  | .captainSilenceExpiry => Sys2Proof.Machine.execCaptainSilenceExpiry s
  | .handover => Sys2Proof.Machine.execHandover s
  | .handoverAck => Sys2Proof.Machine.execHandoverAck s
  | .handoverTimeout => Sys2Proof.Machine.execHandoverTimeout s
  | .telemetrySend => Sys2Proof.Machine.execTelemetrySend s
  | .telemetryReceive => Sys2Proof.Machine.execTelemetryReceive s
  | .budgetBalance => Sys2Proof.Machine.execBudgetBalance s
  | .instanceLost k => Sys2Proof.Machine.execInstanceLost k s
  | .rangeReport snapshot => Sys2Proof.Machine.execRangeReport snapshot s
  | .rangeAssignment => Sys2Proof.Machine.execRangeAssignment s
  | .instanceRejoin k => Sys2Proof.Machine.execInstanceRejoin k s
  | .stallWatchdog port fwd1 => Sys2Proof.Machine.execStallWatchdog port fwd1 s
  | .go v => Sys2Proof.Machine.execGo v s
  | .goWaitExpiry => Sys2Proof.Machine.execGoWaitExpiry s
  | .ledgerPortWrite v => Sys2Proof.Machine.execLedgerPortWrite v s
  | .ledgerClear len => Sys2Proof.Machine.execLedgerClear len s
  | .ledgerReplay len info repair fails => Sys2Proof.Machine.execLedgerReplay len info repair fails s
  | .phaseFault => Sys2Proof.Machine.execPhaseFault s
  | .thermalRestart => Sys2Proof.Machine.execThermalRestart s
  | .trainingWaitTemperature attempts => Sys2Proof.Machine.execTrainingWaitTemperature attempts s
  | .delayRegisterWrite p j v => Sys2Proof.Machine.execDelayRegisterWrite p j v s
  | .truingArm p expedited => Sys2Proof.Machine.execTruingArm p expedited s
  | .truingWindowOpen p => Sys2Proof.Machine.execTruingWindowOpen p s
  | .truingProbesPosted p r => Sys2Proof.Machine.execTruingProbesPosted p r s
  | .truingDone p confirm => Sys2Proof.Machine.execTruingDone p confirm s
  | .truingDoneTimeout p => Sys2Proof.Machine.execTruingDoneTimeout p s
  | .truingWindowEnd p => Sys2Proof.Machine.execTruingWindowEnd p s
  | .laneCeWindow p => Sys2Proof.Machine.execLaneCeWindow p s
  | .monitorRead f => Sys2Proof.Machine.execMonitorRead f s
  | .historyPoint => Sys2Proof.Machine.execHistoryPoint s
  | .ledgerSnapshot => Sys2Proof.Machine.execLedgerSnapshot s
  | .snapshotPeriodExpiry => Sys2Proof.Machine.execSnapshotPeriodExpiry s
  | .snap v => Sys2Proof.Machine.execSnap v s
  | .fwTrueCfgWrite v => Sys2Proof.Machine.execFwTrueCfgWrite v s
  | .caParityError p group => Sys2Proof.Machine.execCaParityError p group s
  | .repairCause => Sys2Proof.Machine.execRepairCause s
  | .moveApproval others => Sys2Proof.Machine.execMoveApproval others s
  | .moveStart => Sys2Proof.Machine.execMoveStart s
  | .copierRun e => Sys2Proof.Machine.execCopierRun e s
  | .wmAdvance e => Sys2Proof.Machine.execWmAdvance e s
  | .moveBind e => Sys2Proof.Machine.execMoveBind e s
  | .unlace => Sys2Proof.Machine.execUnlace s
  | .unlaceComplete p => Sys2Proof.Machine.execUnlaceComplete p s
  | .sliceFail sl cond addr => Sys2Proof.Machine.execSliceFail sl cond addr s
  | .instanceFail crossbar => Sys2Proof.Machine.execInstanceFail crossbar s
  | .parityInjection v => Sys2Proof.Machine.execParityInjection v s
  | .d2dInjection east v => Sys2Proof.Machine.execD2dInjection east v s
  | .remoteInjection n v => Sys2Proof.Machine.execRemoteInjection n v s
  | .sensorConversion n ends v => Sys2Proof.Machine.execSensorConversion n ends v s
  | .localSensorRead k v => Sys2Proof.Machine.execLocalSensorRead k v s
  | .sensorStale j => Sys2Proof.Machine.execSensorStale j s
  | .zoneReading z => Sys2Proof.Machine.execZoneReading z s
  | .powerWindowEnd mem => Sys2Proof.Machine.execPowerWindowEnd mem s
  | .colThrCodeStep => Sys2Proof.Machine.execColThrCodeStep s
  | .thresholdWrite k v => Sys2Proof.Machine.execThresholdWrite k v s
  | .computePowerWrite v => Sys2Proof.Machine.execComputePowerWrite v s
  | .computeReportStale => Sys2Proof.Machine.execComputeReportStale s
  | .thermalShutdown => Sys2Proof.Machine.execThermalShutdown s
  | .computeOffAckRise => Sys2Proof.Machine.execComputeOffAckRise s
  | .computeOffLate => Sys2Proof.Machine.execComputeOffLate s
  | .restartHoldExpiry => Sys2Proof.Machine.execRestartHoldExpiry s
  | .supplyFault d => Sys2Proof.Machine.execSupplyFault d s
  | .domainRepower d => Sys2Proof.Machine.execDomainRepower d s
  | .cntRun run => Sys2Proof.Machine.execCntRun run s
  | .cntClear units => Sys2Proof.Machine.execCntClear units s
  | .cntSnap => Sys2Proof.Machine.execCntSnap s
  | .counterCapture => Sys2Proof.Machine.execCounterCapture s
  | .counterEvent u e src qty => Sys2Proof.Machine.execCounterEvent u e src qty s
  | .counterDump => Sys2Proof.Machine.execCounterDump s
  | .sampleRecord => Sys2Proof.Machine.execSampleRecord s
  | .supplyBackInRegulation d => Sys2Proof.Machine.execSupplyBackInRegulation d s
  | .memCattripFall => Sys2Proof.Machine.execMemCattripFall s
  | .chainERdyRise => Sys2Proof.Machine.execChainERdyRise s
  | .d2dRetrainEnd east m failed => Sys2Proof.Machine.execD2dRetrainEnd east m failed s
  | .enumerationStart => Sys2Proof.Machine.execEnumerationStart s

end Sys2Proof.Machine
end

