-- ==== Sys2Proof/Machine/Tick.lean ====
section
/-! DEFINITION. The passing of time: what a step does while no command waits. -/

namespace Sys2Proof.Machine

/-- How far the sensor and management island's copy of package time moves in the nanosecond that ends at `t` of the
oscillators' count, and what is left of a pending correction: at most 1 ns per µs is slewed, and the copy never moves backward
(R378). -/
def slewStep (t : Nat) (slew : Int) : Nat × Int :=
  if t % 1000 = 0 then
    if 0 < slew then (2, slew - 1) else if slew < 0 then (0, slew + 1) else (1, 0)
  else (1, slew)

/-- One nanosecond passes: package time, every island's local copy and the oscillators' count
advance (R27, R99, R378). DESIGN CHOICE: log entry 2. -/
def State.passTime (s : State) : State :=
  let d := slewStep (s.clk.raw + 1) s.pkg.slew
  { s with clk := { s.clk with pkg := s.clk.pkg + d.1, raw := s.clk.raw + 1, locals := s.clk.locals.map (· + 1) },
           pkg := { s.pkg with slew := d.2 } }

end Sys2Proof.Machine
end

