-- ==== Sys2Proof/Machine/Outputs.lean ====
section
/-! DEFINITION. The output pins of the block with their reset levels, and the levels they have in a state (02: R40, R41, R58,
R68, R69, R71). -/

namespace Sys2Proof.Machine

/-- The output and bidirectional signals of the tables of 02. -/
inductive OutPin where
  | dieWrstAck | pwrStgReq | pwrStgNum
  | hpReqReady (n : Fin 16) | hpWdReady (n : Fin 16) | hpRspValid (n : Fin 16) | hpRspFields (n : Fin 16)
  | mgtReady | mgtDone | mgtRdata | mgtErr | irq | tdo
  | memCkT (p : Fin 64) | memCkC (p : Fin 64) | memCommand (p : Fin 64) | memDq (p : Fin 64) | memCb (p : Fin 64)
  | memSdq (p : Fin 64) | memWdqsT (p : Fin 64) | memWdqsC (p : Fin 64)
  | memResetN | memTestPort
  | d2dModule (east : Bool) (m : Fin 2) | d2dOnDie (east : Bool)
  | rmtTxValid (n : Fin 8) | rmtTxFields (n : Fin 8) | rmtRxReady (n : Fin 8)
  | chainWDo | chainWRdy | chainEClk | chainEDo
  | sns (n : Fin 8)
  | colThrOn | colThr | computeOffReq
  deriving DecidableEq, Repr

/-- What a signal shows: a level (for a bus its value), no drive, the clock's edges, or items whose transfers the rows are. -/
inductive PinLevel where
  | level (v : Nat)
  | highZ
  | input
  | running
  | transfers
  deriving DecidableEq, Repr

/-- The island that drives a signal, by the Clock column (R40) and the islands of R23; the signals without a clock of their
own belong to the sensor and management island. -/
def OutPin.driver : OutPin → Island
  | .hpReqReady n => .hostPort n
  | .hpWdReady n => .hostPort n
  | .hpRspValid n => .hostPort n
  | .hpRspFields n => .hostPort n
  | .memCkT p => .pc p
  | .memCkC p => .pc p
  | .memCommand p => .pc p
  | .memDq p => .pc p
  | .memCb p => .pc p
  | .memSdq p => .pc p
  | .memWdqsT p => .pc p
  | .memWdqsC p => .pc p
  | .d2dModule e _ => .d2d e
  | .d2dOnDie e => .d2d e
  | .rmtTxValid _ => .remote
  | .rmtTxFields _ => .remote
  | .rmtRxReady _ => .remote
  | _ => .sensor

/-- The Reset column (R41). -/
def OutPin.resetLevel : OutPin → PinLevel
  | .tdo => .highZ
  | .memCkC _ => .level 1
  | .memDq _ => .input
  | .memCb _ => .input
  | .memSdq _ => .input
  | .memWdqsC _ => .level 1
  | .chainWDo => .level 1
  | .chainEDo => .level 1
  | .sns _ => .highZ
  | _ => .level 0

/-- A wire that is high or low. -/
def PinLevel.wire (b : Bool) : PinLevel := .level b.toNat

/-- A host port has a request whose write data is still arriving; it takes the beats of the oldest (R53). -/
def HostPort.wantsData (h : HostPort) : Bool := h.txns.any fun t => t.discardBeats || decide (0 < t.beatsLeft)

/-- The level a signal shows while its island is out of reset. The chain head keeps CHAIN_W_RDY and CHAIN_W_DO at their reset
values (R69); another instance takes every word that arrives, so it holds CHAIN_W_RDY high (R71; log entry 79). A die that is
attached to no neighbour on a side leaves that port's signals at rest (R44, R65). -/
def State.driven (s : State) : OutPin → PinLevel
  | .dieWrstAck => .wire s.pins.dieWrstAck
  | .pwrStgReq => .wire s.pins.stgReq
  | .pwrStgNum => .level s.pins.stgNum
  | .hpReqReady n => .wire (s.portReady n)
  | .hpWdReady n => .wire s.paths.ports[n].wantsData
  | .hpRspValid n => .wire (s.paths.ports[n].txns.any (·.ready))
  | .mgtReady => .wire s.mgtReady
  | .mgtRdata => .level s.mgt.rdata.toNat
  | .mgtErr => .wire s.mgt.err
  | .irq => .level ((upto 8).foldl (fun a n => if s.irqLine n then a + 2 ^ n else a) 0)
  | .tdo => .highZ
  | .memCkT _ => .running
  | .memCkC _ => .running
  | .memResetN => .wire s.pins.memResetN
  | .d2dModule e _ => if (if e then s.straps.eMode else s.straps.wMode) = 1 then .transfers else .level 0
  | .d2dOnDie e => if (if e then s.straps.eMode else s.straps.wMode) = 2 then .transfers else .level 0
  | .rmtTxValid n => .wire (s.rmtUp n && (s.sub n).sending.isSome)
  | .rmtRxReady n => .wire (s.rxReady n)
  | .chainWDo => if s.straps.chainHead then .level 1 else .transfers
  | .chainWRdy => .wire (!s.straps.chainHead)
  | .chainEClk => .running
  | .chainEDo => .transfers
  | .colThrOn => .wire s.pins.colThrOn
  | .colThr => .level s.pins.colThr
  | .computeOffReq => .wire s.pins.computeOffReq
  | _ => .transfers

/-- The level of a signal: its reset level from the assertion of PORST_N until its island has left reset (R41). R41 speaks of
PORST_N only. DESIGN CHOICE: log entry 91, a warm die reset shows the same levels, but MEM_RESET_N stays as it is, since the
stack keeps its contents (R47). -/
def State.outLevel (s : State) (p : OutPin) : PinLevel :=
  if s.up p.driver ∨ p = .memResetN then s.driven p else p.resetLevel

end Sys2Proof.Machine
end

