-- ==== Sys2Proof/Safety.lean ====
section
/-! DEFINITION. What counts as a safe state and a safe step, and the words the statements use: a command gives a state, a
command leaves regions of the state and registers as they were. -/

namespace Sys2Proof.Machine

/-- The canonical form of the stack's memory: addresses strictly rising, no entry equal to what an unlisted address
reads as. -/
def Memory.wf (m : List Host.Cell) : Bool := cwf cellReset m

/-- A state whose register table and stack memory are in canonical form, so that equal contents are equal data. -/
def State.Ok (s : State) : Prop := cwf regReset s.regs ∧ Memory.wf s.stack.cells

/-- A step is safe when it neither stops nor refuses. -/
def Safe (o : Out) : Prop := ∃ t, o = .next t

/-- A command answers a next state, of which `P` holds. -/
abbrev Gives (c : Instr) (s : State) (P : State → Prop) : Prop := ∃ t, exec c s = .next t ∧ P t

/-- The regions of the state beside the registers. -/
inductive Region where
  | pending | free | mgt | straps | pins | clk | pwr | paths | pcs | copiers | stack | refresh | tests | inbox
  | ring | chain | pkg | fw | sched | seq | tags | rmt | margins | age | therm | cnt | inj
  deriving DecidableEq, Repr

/-- Two states agree on a region. -/
def State.same (s t : State) : Region → Prop
  | .pending => t.pending = s.pending
  | .free => t.free = s.free
  | .mgt => t.mgt = s.mgt
  | .straps => t.straps = s.straps
  | .pins => t.pins = s.pins
  | .clk => t.clk = s.clk
  | .pwr => t.pwr = s.pwr
  | .paths => t.paths = s.paths
  | .pcs => t.pcs = s.pcs
  | .copiers => t.copiers = s.copiers
  | .stack => t.stack = s.stack
  | .refresh => t.refresh = s.refresh
  | .tests => t.tests = s.tests
  | .inbox => t.inbox = s.inbox
  | .ring => t.ring = s.ring
  | .chain => t.chain = s.chain
  | .pkg => t.pkg = s.pkg
  | .fw => t.fw = s.fw
  | .sched => t.sched = s.sched
  | .seq => t.seq = s.seq
  | .tags => t.tags = s.tags
  | .rmt => t.rmt = s.rmt
  | .margins => t.margins = s.margins
  | .age => t.age = s.age
  | .therm => t.therm = s.therm
  | .cnt => t.cnt = s.cnt
  | .inj => t.inj = s.inj

/-- Every region but those listed is as it was. -/
def Keeps (s t : State) (except : List Region) : Prop := ∀ p, p ∉ except → s.same t p

/-- Every register but those at the offsets listed is as it was. -/
def KeepsRegs (s t : State) (except : List Nat) : Prop := ∀ o, o ∉ except → t.rd o = s.rd o

end Sys2Proof.Machine
end

