-- ==== Sys2Proof/Certificates/Slice0/Obligations.lean ====
section
/-! DEFINITION. The statements for the provers. Every statement about a command says for which states and operands it
answers a next state, what that state holds, and what it leaves as it was. -/

open Sys2Proof Sys2Proof.Machine

/-- Registers that drawing or ending a tagged request writes: CNT_TAG_SEQ, and the counters of the slices unit, which count
the tags refused and the records dropped (R519, R521). -/
  abbrev Sys2Proof.Machine.tagRegs : List Nat :=
    Reg.CNT_TAG_SEQ :: Reg.CNT_STATUS :: (upto 16).map fun i => Reg.CNT_VAL 1 0 + 4 * i

/-- The registers of the ports unit's counters, which count the drops of the remote port and of the ring (R512). -/
  abbrev Sys2Proof.Machine.portRegs : List Nat := Reg.CNT_STATUS :: (upto 16).map fun i => Reg.CNT_VAL 3 0 + 4 * i

/-- The registers that a flit sent may change: what the ring's injectors count and inject, and the retrains that begin
  (R465, R467, R468, R512). -/
  abbrev Sys2Proof.Machine.injRegs : List Nat :=
    [Reg.D2D_INJ 0, Reg.D2D_INJ 1, Reg.D2D_LANE_STATUS 0, Reg.D2D_LANE_STATUS 1] ++ portRegs

/-- The registers that a request on its way may change: the count of sample records, and the counts of the ring's
  injectors (R467, R521). -/
  abbrev Sys2Proof.Machine.pathRegs : List Nat := tagRegs ++ injRegs

/-- The registers of the first-error capture (R444). -/
  abbrev Sys2Proof.Machine.fecRegs : List Nat :=
    [Reg.PC_FEC_INFO, Reg.PC_FEC_ADDR, Reg.PC_FEC_ADDR + 4, Reg.PC_FEC_TIME, Reg.PC_FEC_TIME + 4]

/-- The registers of the rank states (R470). -/
  abbrev Sys2Proof.Machine.rankRegs : List Nat := (upto 32).map Reg.PC_RANK_STATE

/-- The two words of a redirect entry (R470). -/
  abbrev Sys2Proof.Machine.redirRegs (e : Nat) : List Nat := [Reg.PC_REDIR e, Reg.PC_REDIR e + 4]



/-- The registers that show refresh inhibits (R170). -/
  abbrev Sys2Proof.Machine.inhibitRegs : List Nat := (upto 64).flatMap fun p => [Reg.PC_REF_INHIBIT p, Reg.PC_REF_STATUS p]

/-- The words of every redirect entry (R470). -/
  abbrev Sys2Proof.Machine.allRedirs : List Nat := (upto 16).flatMap redirRegs

/-- The registers that the check code of a read of PC `p` may change (R434, R435, R438, R441, R444, R503). -/
  abbrev Sys2Proof.Machine.checkRegs (p : Fin 64) : List Nat :=
    [Reg.PC_ECC_STATUS p, Reg.PC_REF_STATUS p, Reg.PC_TRUE_STATUS p] ++ fecRegs ++ allRedirs

/-- The registers that the accesses finished before a self-refresh may change (R46, R195, R434). -/
  abbrev Sys2Proof.Machine.drainRegs : List Nat :=
    ((upto 64).flatMap fun p => [Reg.PC_ECC_STATUS p, Reg.PC_REF_STATUS p, Reg.PC_TRUE_STATUS p]) ++ fecRegs ++ allRedirs ++ pathRegs

/-- The registers that the ends of the open truing windows may change: status, count and the delays in force at T (R124, R418). -/
  abbrev Sys2Proof.Machine.windowRegs (s : State) : List Nat :=
    (upto 64).flatMap fun p => Reg.PC_SCHED_STATUS p :: Reg.PC_TRUE_STATUS p ::
      (s.pcs[pcFin p].truing.map fun w => w.saved.map (·.1)).getD []

/-- The registers of a queue (R287). -/
  abbrev Sys2Proof.Machine.queueRegs (q : Nat) : List Nat :=
    [Reg.FW_QCFG q, Reg.FW_QDB q, Reg.FW_QHEAD q, Reg.FW_QDONE q, Reg.FW_QSTATUS q, Reg.FW_QIRQ q, Reg.FW_QIRQ q + 4]

/-- The registers of the ranks and ranges of this instance that its firmware forms at phase 4 (R84 to R87). -/
  abbrev Sys2Proof.Machine.heldRegs : List Nat :=
    [Reg.PC_HELD_MASK, Reg.PC_HELD_MASK + 4, Reg.PC_UNLACED, Reg.PC_UNLACED + 4] ++ rankRegs ++ allRedirs ++ inhibitRegs ++ injRegs

/-! ### The queue of commands and idle time -/

/-- A step takes the command at the front of the queue and carries it out on the state with the queue's rest. -/
def Obligations.StepTakesFrontCommand : Prop :=
  ∀ (c : Instr) (rest : List Instr) (s : State),
    step { s with pending := c :: rest } = exec c { s with pending := rest }

/-- With no command waiting a nanosecond passes: with no correction pending, package time and the local copy of every
island advance by 1 and nothing else changes. The model's choice: log entry 2. -/
def Obligations.IdleStepPassesTime : Prop :=
  (∀ s : State, s.pending = [] → s.pkg.slew = 0 →
    ∃ t, step s = .next t ∧ t.clk.pkg = s.clk.pkg + 1 ∧ (∀ i : Fin 132, t.clk.locals[i] = s.clk.locals[i] + 1) ∧ t.pkg
      = s.pkg ∧ t.clk.releasedAt = s.clk.releasedAt ∧ t.clk.elapsed = s.clk.elapsed ∧ Keeps s t [.clk] ∧ KeepsRegs s t
      [])

/-- The sensor and management island's copy of package time never moves backward, and slews by at most 1 ns in a
microsecond of idle steps (R378): a step moves it by 0, 1 or 2 ns, and by other than 1 only where it crosses a whole
microsecond. That an idle step is 1 ns, and when in the microsecond the slew happens, are the model's choices: log
entry 2. -/
def Obligations.SlewIsBounded : Prop :=
  (∀ s : State, s.pending = [] →
    ∃ t, step s = .next t ∧ s.clk.pkg ≤ t.clk.pkg ∧ t.clk.pkg ≤ s.clk.pkg + 2 ∧ ((s.clk.pkg + 1) % 1000 ≠ 0 →
      t.clk.pkg = s.clk.pkg + 1 ∧ t.pkg.slew = s.pkg.slew) ∧ ((s.clk.pkg + 1) % 1000 = 0 → t.pkg.slew.natAbs =
      s.pkg.slew.natAbs - 1))

/-- The state at reset: no command waits, every island is in reset, every power domain is OFF, every register reads
its reset value, PORST_N is low with DIE_WRST_ACK, COMPUTE_OFF_REQ and COL_THR_ON low (R45), and every output has the
level of the Reset column (R41). An empty list of written cells of the stack is the model's choice: log entry 3. -/
def Obligations.ResetState : Prop :=
  State.reset.pending = [] ∧ (∀ i : Island, State.reset.up i = false) ∧ (∀ d, d < 124 → State.reset.dom d = .off) ∧
    (∀ o, State.reset.rd o = regReset o) ∧ State.reset.pins.porstN = false ∧ State.reset.pins.dieWrstAck = false ∧
    State.reset.pins.computeOffReq = false ∧ State.reset.pins.colThrOn = false ∧ State.reset.stack.cells = [] ∧
    (∀ p, State.reset.outLevel p = p.resetLevel) ∧ OutPin.resetLevel .chainWDo = .level 1 ∧ OutPin.resetLevel .chainEDo = .level 1 ∧
    OutPin.resetLevel .tdo = .highZ ∧ OutPin.resetLevel .memResetN = .level 0 ∧ OutPin.resetLevel .dieWrstAck = .level 0 ∧
    (∀ p, OutPin.resetLevel (.memCkC p) = .level 1 ∧ OutPin.resetLevel (.memCkT p) = .level 0 ∧ OutPin.resetLevel (.memDq p) = .input) ∧
    (∀ n, OutPin.resetLevel (.hpReqReady n) = .level 0) ∧ ∀ n, OutPin.resetLevel (.sns n) = .highZ

/-! ### Canonical form -/

/-- Every step that answers a next state keeps the register table and the stack's memory in canonical form: keys
strictly rising and no entry that equals what an unlisted key reads as. -/
def Obligations.StepKeepsCanonicalForm : Prop :=
  (∀ s t : State, s.Ok → step s = .next t →
    t.Ok)

/-- The register table and the stack's memory of the state at reset are in canonical form. -/
def Obligations.ResetIsCanonical : Prop :=
  State.reset.Ok

/-- Registers are told apart: a register reads the word last written to it, every other register reads as before. -/
def Obligations.RegisterReadAfterWrite : Prop :=
  ∀ (s : State) (o a : Nat) (v : Word), (s.wr o v).rd a = if a = o then v else s.rd a

/-! ### Resets and power (02, 15, 18) -/

/-- What every cold reset leaves: every island in reset, every register and every part of the block as at reset, the
  stack's contents undefined; the commands that wait are still there (R45, R401). -/
  def Sys2Proof.Machine.Cold (s t : State) : Prop :=
    (∀ i, t.up i = false) ∧ (∀ l : Loc, l.rank < 256 → t.stack.isUndef l = true) ∧ t.stack.height = s.stack.height ∧
      t.pending = s.pending ∧ t.free = s.free ∧ Keeps State.reset t [.pending, .free, .pins, .stack] ∧
      KeepsRegs State.reset t []

/-- PORST_N_ASSERT and VDD_OK_FALL reset everything; PORST_N_RELEASE samples the straps, a reserved die-to-die mode
counting as unused and reported, and starts the ramp of the sensor and management domain, whose island leaves reset
35 µs later and not before (R44, R45, R393). Forms stated to complete (exec answers next): porstNAssert, vddOkFall,
porstNRelease, sensorIslandResetRelease. -/
def Obligations.ColdResetAndRelease : Prop :=
  (∀ s : State,
    Gives .porstNAssert s fun t =>
      Cold s t ∧ t.pins.porstN = false ∧ t.pins.vddOk = s.pins.vddOk) ∧
  (∀ s : State,
    Gives .vddOkFall s fun t =>
      Cold s t ∧ t.pins.vddOk = false ∧ t.pins.porstN = s.pins.porstN) ∧
  (∀ (s : State) (head : Bool) (west east : BitVec 2) (use kind : BitVec 8), s.pins.porstN = false →
    Gives (.porstNRelease head west east use kind) s fun t =>
      t.pins.porstN = true ∧ t.straps.chainHead = head ∧ t.straps.snsUse = use ∧ t.straps.snsKind = kind ∧
        t.straps.wMode = (if west = 3 then 0 else west.toNat) ∧ t.straps.eMode = (if east = 3 then 0 else east.toNat) ∧
        (t.pwr.strapInvalid = true ↔ west = 3 ∨ east = 3) ∧ t.pwr.up = s.pwr.up ∧ t.dom 123 = .staging ∧ (∀ d, d ≠ 123
        → t.dom d = s.dom d) ∧ t.clk.pkg = s.clk.pkg ∧ t.clk.releasedAt = s.clk.pkg ∧ Keeps s t [.pins, .pwr, .straps,
        .clk] ∧ KeepsRegs s t [Reg.THERM_DOM_STATE 7]) ∧
  (∀ s : State, s.pwr.sensorRamp = true → s.pins.porstN = true → s.pins.vddOk = true → s.up .sensor = false →
     s.clk.releasedAt + 35000 ≤ s.clk.pkg → s.pins.dieWrstReqN = true →
    Gives .sensorIslandResetRelease s fun t =>
      t.up .sensor = true ∧ t.dom 123 = .on ∧ (∀ d, d ≠ 123 → t.dom d = s.dom d) ∧ (∀ i, i ≠ .sensor → t.up i = s.up i)
        ∧ t.pwr.sensorRamp = false ∧ (∀ i : Fin 33, t.therm.sensors[i].readAt = some s.clk.raw) ∧ Keeps s t [.pwr,
        .therm] ∧ KeepsRegs s t [Reg.THERM_DOM_STATE 7]) ∧
  (∀ s : State, s.clk.pkg < s.clk.releasedAt + 35000 →
    Gives .sensorIslandResetRelease s fun t =>
      t = s) ∧
  (∀ s : State, s.pwr.sensorRamp = true → s.pins.porstN = true → s.pins.vddOk = true → s.up .sensor = false →
     s.clk.releasedAt + 35000 ≤ s.clk.pkg → s.pins.dieWrstReqN = false → s.pins.dieWrstAck = false →
     s.pins.computeOffReq = false →
    Gives .sensorIslandResetRelease s fun t =>
      t.up .sensor = true ∧ t.dom 123 = .on ∧ t.pins.dieWrstAck = true ∧ t.pwr.quiesced = true ∧ t.therm.sensors =
        s.therm.sensors.map (fun x => { x with readAt := some s.clk.raw }) ∧ Keeps s t [.free, .inbox, .inj, .paths,
        .pcs, .pins, .pwr, .ring, .stack, .tags, .therm] ∧ KeepsRegs s t (Reg.THERM_DOM_STATE 7 :: drainRegs))

/-- The handshake of a power stage (R49, R393, R394): a request raises PWR_STG_REQ with the stage's number and puts
its domains into STAGING; the acknowledgement's rise drops the request and turns them ON; its fall ends the handshake
and counts the stage; 1 ms without it switches them off again, stops the sequence and sets STAGE_TIMEOUT; then an
island of a domain that is ON leaves reset with the package time as its local time. Forms stated to complete (exec
answers next): powerStageRequest, pwrStgAckRise, pwrStgAckFall, stageTimeout, islandResetRelease. -/
def Obligations.PowerStages : Prop :=
  (∀ (s : State) (n : Nat), s.live .sensor = true → s.pwr.stageReqAt = none → s.pins.stgAck = false → s.released = true
     → s.pwr.repower = none → s.pwr.seqStopped = false → s.pwr.seqDone = false → s.pwr.nextStage = n → n < 11 →
    Gives .powerStageRequest s fun t =>
      t.pins.stgReq = true ∧ t.pins.stgNum = n ∧ t.pwr.stageReqAt = some s.clk.pkg ∧ t.pwr.acked = false ∧ (∀ d ∈
        s.stageDomains n, t.dom d = .staging) ∧ (∀ d, d ∉ s.stageDomains n → t.dom d = s.dom d) ∧ (∀ i, t.up i = s.up
        i) ∧ Keeps s t [.pins, .pwr] ∧ KeepsRegs s t ((upto 8).map Reg.THERM_DOM_STATE)) ∧
  (∀ (s : State) (t0 : Nat), s.up .sensor = true → s.pwr.stageReqAt = some t0 → s.pwr.acked = false → s.pins.stgNum <
     12 →
    Gives .pwrStgAckRise s fun t =>
      t.pins.stgAck = true ∧ t.pins.stgReq = false ∧ t.pwr.acked = true ∧ (∀ d ∈ s.stageDomains s.pins.stgNum, t.dom d
        = .on) ∧ (∀ d, d ∉ s.stageDomains s.pins.stgNum → t.dom d = s.dom d) ∧ (∀ i, t.up i = s.up i) ∧ Keeps s t
        [.pins, .pwr] ∧ KeepsRegs s t ((upto 8).map Reg.THERM_DOM_STATE)) ∧
  (∀ (s : State) (t0 : Nat), s.up .sensor = true → s.pwr.stageReqAt = some t0 → s.pwr.acked = true → s.pins.stgNum < 12
     →
    Gives .pwrStgAckFall s fun t =>
      t.pins.stgAck = false ∧ t.pwr.stageReqAt = none ∧ t.pwr.nextStage = s.pwr.nextStage + 1 ∧ t.gf
        Reg.THERM_PWR_STATUS Fld.THERM_PWR_STATUS_STAGE = s.pins.stgNum ∧ Keeps s t [.pins, .pwr] ∧ KeepsRegs s t
        [Reg.THERM_PWR_STATUS]) ∧
  (∀ (s : State) (t0 : Nat), s.up .sensor = true → s.pwr.stageReqAt = some t0 → s.pwr.acked = true → s.pins.stgNum = 15
     →
    Gives .pwrStgAckFall s fun t =>
      t.pins.stgAck = false ∧ t.pwr.stageReqAt = none ∧ t.pwr.nextStage = s.pwr.nextStage ∧ t.pwr.repower = none ∧ t.gf
        Reg.THERM_PWR_STATUS Fld.THERM_PWR_STATUS_REPOWER_BUSY = 0 ∧ Keeps s t [.fw, .pins, .pwr] ∧ KeepsRegs s t
        [Reg.THERM_PWR_STATUS]) ∧
  (∀ (s : State) (t0 : Nat), s.live .sensor = true → s.pwr.stageReqAt = some t0 → s.pwr.acked = false → t0 + 1000000 ≤
     s.clk.pkg → s.pins.stgNum < 12 →
    Gives .stageTimeout s fun t =>
      t.pins.stgReq = false ∧ t.pwr.stageReqAt = none ∧ t.pwr.seqStopped = true ∧ t.bit Reg.THERM_PWR_STATUS
        Fld.THERM_PWR_STATUS_STAGE_TIMEOUT = true ∧ (∀ d ∈ s.stageDomains s.pins.stgNum, t.dom d = .off) ∧ Keeps s t
        [.pins, .pwr] ∧ KeepsRegs s t (Reg.THERM_PWR_STATUS :: (upto 8).map Reg.THERM_DOM_STATE)) ∧
  (∀ (s : State) (t0 d : Nat), s.live .sensor = true → s.pwr.stageReqAt = some t0 → s.pwr.acked = false → t0 + 1000000
     ≤ s.clk.pkg → s.pins.stgNum = 15 → s.pwr.repower = some d → d < 124 →
    Gives .stageTimeout s fun t =>
      t.pins.stgReq = false ∧ t.pwr.stageReqAt = none ∧ t.pwr.repower = none ∧ t.pwr.seqStopped = s.pwr.seqStopped ∧
        t.dom d = .isolated ∧ (∀ e, e ≠ d → t.dom e = s.dom e) ∧ t.bit Reg.THERM_PWR_STATUS
        Fld.THERM_PWR_STATUS_STAGE_TIMEOUT = true ∧ Keeps s t [.fw, .pins, .pwr] ∧ KeepsRegs s t (Reg.THERM_PWR_STATUS
        :: (upto 8).map Reg.THERM_DOM_STATE)) ∧
  (∀ (s : State) (i : Island), s.live .sensor = true → s.dom i.domain = .on → s.up i = false → i ≠ .sensor →
     s.pins.porstN = true → s.pins.vddOk = true → s.pins.dieRstN = true →
    Gives (.islandResetRelease i) s fun t =>
      t.up i = true ∧ (∀ j, j ≠ i → t.up j = s.up j) ∧ t.now i = s.clk.pkg ∧ t.clk.pkg = s.clk.pkg ∧ (∀ p : Fin 64, i ≠
        .pc p → t.pcs[p] = s.pcs[p]) ∧ (∀ n : Fin 16, i = .hostPort n → t.paths.ports[n].reqReady = true) ∧ (∀ n : Fin
        16, i ≠ .hostPort n → t.paths.ports[n] = s.paths.ports[n]) ∧ Keeps s t [.pwr, .clk, .paths, .pcs] ∧ KeepsRegs s
        t []) ∧
  (∀ (s : State) (n : Nat), s.live .sensor = true → s.pwr.stageReqAt = none → s.pins.stgAck = false → s.released = true
     → s.stageNow = some n → n = 15 ∨ (s.pwr.seqStopped = false ∧ s.pwr.seqDone = false) → (∀ d ∈ s.stageDomains n, d <
     124) →
    Gives .powerStageRequest s fun t =>
      t.pins.stgReq = true ∧ t.pins.stgNum = n ∧ t.pwr.stageReqAt = some s.clk.pkg ∧ t.pwr.acked = false ∧ (∀ d ∈
        s.stageDomains n, t.dom d = .staging) ∧ (∀ d, d ∉ s.stageDomains n → t.dom d = s.dom d) ∧ Keeps s t [.pins,
        .pwr] ∧ KeepsRegs s t ((upto 8).map Reg.THERM_DOM_STATE)) ∧
  (∀ s : State, s.live .sensor = true → s.pwr.stageReqAt = none → s.pins.stgAck = false → s.released = true →
     s.stageNow = none → s.pwr.seqStopped = false → s.pwr.seqDone = false →
    Gives .powerStageRequest s fun t =>
      t.pwr.seqDone = true ∧ t.pwr.seqDoneAt = s.clk.pkg ∧ t.pwr.nextStage = s.pwr.nextStage ∧ Keeps s t [.pwr] ∧
        KeepsRegs s t []) ∧
  (∀ (s : State) (t0 d : Nat), s.up .sensor = true → s.pwr.stageReqAt = some t0 → s.pwr.acked = false → s.pins.stgNum =
     15 → s.pwr.repower = some d → d < 124 →
    Gives .pwrStgAckRise s fun t =>
      t.pins.stgAck = true ∧ t.pins.stgReq = false ∧ t.pwr.acked = true ∧ t.dom d = .on ∧ (∀ e, e ≠ d → t.dom e = s.dom
        e) ∧ Keeps s t [.pins, .pwr] ∧ KeepsRegs s t ((upto 8).map Reg.THERM_DOM_STATE))

/-- The fall of DIE_WRST_REQ_N raises DIE_WRST_ACK with every PC's admission stopped (R46), or is held while
COMPUTE_OFF_REQ is high (R501); a rise before DIE_WRST_ACK has risen leaves the notice as it stands, one with
DIE_WRST_ACK high ends it and resumes admission (R48). DIE_RST_N low puts every island in reset and keeps straps,
domains' power and the stack's cells, and what stands behind a PC that was not in self-refresh, or that the reset met
before it had written its marker, is undefined (R47, R401, R495). A PC that loses its clock loses its queues and
enters self-refresh (R388). An island's local time is corrected from the package time (R27). Forms stated to complete
(exec answers next): dieWrstReqFall, dieWrstReqRise, dieRstNAssert, clockLoss, localTimeCorrection,
oscillatorCompensation. -/
def Obligations.WarmResetAndClockLoss : Prop :=
  (∀ s : State, s.live .sensor = true → s.pins.dieWrstReqN = true → s.pins.dieWrstAck = false → s.pins.computeOffReq =
     true →
    Gives .dieWrstReqFall s fun t =>
      t.pins.dieWrstReqN = false ∧ t.pins.dieWrstAck = false ∧ t.pwr.noticeHeld = true ∧ Keeps s t [.pins, .pwr] ∧
        KeepsRegs s t []) ∧
  (∀ s : State, s.live .sensor = true → s.pins.dieWrstReqN = true → s.pins.dieWrstAck = false → s.pins.computeOffReq =
     false →
    Gives .dieWrstReqFall s fun t =>
      t.pins.dieWrstReqN = false ∧ t.pins.dieWrstAck = true ∧ t.pins.computeOffReq = false ∧ t.pwr.quiesced = true ∧
        Keeps s t [.free, .inbox, .inj, .paths, .pcs, .pins, .pwr, .ring, .stack, .tags] ∧ KeepsRegs s t drainRegs) ∧
  (∀ s : State, s.live .sensor = true → s.pins.dieWrstAck = false →
    Gives .dieWrstReqRise s fun t =>
      t.pins.dieWrstReqN = true ∧ t.pins.dieWrstAck = false ∧ t.pwr.noticeHeld = s.pwr.noticeHeld ∧ Keeps s t [.pins] ∧
        KeepsRegs s t []) ∧
  (∀ s : State, s.live .sensor = true → s.pins.dieWrstAck = true → s.pins.dieRstN = true →
    Gives .dieWrstReqRise s fun t =>
      t.pins.dieWrstReqN = true ∧ t.pins.dieWrstAck = false ∧ t.pwr.quiesced = false ∧ Keeps s t [.pcs, .pins, .pwr,
        .stack] ∧ KeepsRegs s t ((upto 64).map Reg.PC_REF_STATUS)) ∧
  (∀ (s : State) (behind : BitVec 64), s.pins.porstN = true → s.pins.vddOk = true →
    Gives (.dieRstNAssert behind) s fun t =>
      (∀ i, t.up i = false) ∧ t.straps = s.straps ∧ t.stack.cells = s.stack.cells ∧ (∀ (p : Fin 64) (g : Fin 4), s.bit
        (Reg.PC_REF_STATUS p) Fld.PC_REF_STATUS_SELF_REFRESH = false ∨ (behind.getLsbD p = true ∧ s.noticeRuns = true ∧
        s.pcs[p].clockLost = false) → g.val * 64 + p.val ∈ t.stack.undef) ∧ t.pins.dieRstN = false ∧ t.pins.dieWrstAck
        = false ∧ t.clk.pkg = 0 ∧ t.pending = s.pending ∧ (∀ d, d < 124 → (t.dom d = .on ↔ s.dom d = .on)) ∧ Keeps
        State.reset t [.pending, .free, .straps, .stack, .pins, .pwr, .pcs]) ∧
  (∀ (s : State) (p : Fin 64) (cut bad : Bool), s.live (.pc p) = true → s.pcs[p].clockLost = false →
    Gives (.clockLoss p cut bad) s fun t =>
      t.pcs[p].clockLost = true ∧ t.pcs[p].stopped = true ∧ t.pcs[p].rq = [] ∧ t.pcs[p].wq = [] ∧ t.bit
        (Reg.PC_REF_STATUS p) Fld.PC_REF_STATUS_SELF_REFRESH = true ∧ (∀ q, q ≠ p → t.pcs[q] = s.pcs[q]) ∧ Keeps s t
        [.free, .pcs, .stack] ∧ KeepsRegs s t [Reg.PC_REF_STATUS p]) ∧
  (∀ (s : State) (i : Island), s.live i = true → i ≠ .sensor →
    Gives (.localTimeCorrection i) s fun t =>
      t.now i = s.clk.pkg ∧ t.clk.pkg = s.clk.pkg ∧ (∀ j, j ≠ i → t.now j = s.now j) ∧ Keeps s t [.clk] ∧ KeepsRegs s t
        []) ∧
  (∀ s : State,
    Gives .oscillatorCompensation s fun t =>
      t = s)

/-- The register words of the remote port's island. -/
  abbrev Sys2Proof.Machine.remoteRegs : List Nat := (upto 24576).map fun i => 0x160000 + 4 * i

/-- A supply that leaves regulation sets SUPPLY_FAULT with its group and is noted; a firmware core's domain is
isolated and the core halts (R491, R492); a supply back in regulation is no longer noted; the re-power of an isolated
domain raises REPOWER_BUSY and is noted for stage 15 (R494). Forms stated to complete (exec answers next):
supplyFault, supplyBackInRegulation, domainRepower. -/
def Obligations.SupplyFaults : Prop :=
  (∀ (s : State) (d : Fin 127), s.live .sensor = true → d.val ∉ s.pwr.badSupply → 112 ≤ d.val ∧ d.val < 116 → s.dom d =
     .on →
    Gives (.supplyFault d) s fun t =>
      t.bit Reg.THERM_PWR_STATUS Fld.THERM_PWR_STATUS_SUPPLY_FAULT = true ∧ t.gf Reg.THERM_PWR_STATUS
        Fld.THERM_PWR_STATUS_FAULT_GROUP = 0 ∧ t.pwr.badSupply = s.pwr.badSupply ++ [d.val] ∧ t.dom d = .isolated ∧ (∀
        e, e ≠ d.val → t.dom e = s.dom e) ∧ t.bit Reg.FW_STATUS Fld.FW_STATUS_DEGRADED = true ∧ (t.gf Reg.FW_STATUS
        Fld.FW_STATUS_CORE_HALTED).testBit (d.val - 112) = true ∧ Keeps s t [.fw, .pwr, .therm] ∧ KeepsRegs s t
        [Reg.THERM_STATUS, Reg.THERM_PWR_STATUS, Reg.FW_STATUS, Reg.THERM_DOM_STATE 7]) ∧
  (∀ (s : State) (d : Fin 127), s.live .sensor = true → d.val ∉ s.pwr.badSupply → 116 ≤ d.val ∧ d.val < 120 → s.dom d =
     .on →
    Gives (.supplyFault d) s fun t =>
      t.bit Reg.THERM_PWR_STATUS Fld.THERM_PWR_STATUS_SUPPLY_FAULT = true ∧ t.gf Reg.THERM_PWR_STATUS
        Fld.THERM_PWR_STATUS_FAULT_GROUP = 1 ∧ t.pwr.badSupply = s.pwr.badSupply ++ [d.val] ∧ t.dom d = .isolated ∧ (∀
        e, e ≠ d.val → t.dom e = s.dom e) ∧ (∀ n : Fin 16, 116 + n.val / 4 = d.val → t.up (.hostPort n) = false ∧
        t.paths.ports[n] = HostPort.init) ∧ (∀ n : Fin 16, 116 + n.val / 4 ≠ d.val → t.paths.ports[n] =
        s.paths.ports[n]) ∧ Keeps s t [.fw, .paths, .pwr, .therm] ∧ KeepsRegs s t [Reg.THERM_STATUS,
        Reg.THERM_PWR_STATUS, Reg.THERM_DOM_STATE 7]) ∧
  (∀ (s : State) (d : Fin 127), s.live .sensor = true →
    Gives (.supplyBackInRegulation d) s fun t =>
      d.val ∉ t.pwr.badSupply ∧ (∀ e, e ≠ d.val → (e ∈ t.pwr.badSupply ↔ e ∈ s.pwr.badSupply)) ∧ Keeps s t [.fw, .pwr,
        .therm] ∧ KeepsRegs s t [Reg.THERM_STATUS]) ∧
  (∀ (s : State) (d : Fin 124), s.live .sensor = true → s.mayRepower d = true →
    Gives (.domainRepower d) s fun t =>
      t.pwr.repower = some d.val ∧ t.pwr.repowered = s.pwr.repowered ++ [(d.val, s.clk.pkg)] ∧ t.bit
        Reg.THERM_PWR_STATUS Fld.THERM_PWR_STATUS_REPOWER_BUSY = true ∧ (∀ e, t.dom e = s.dom e) ∧ t.fw =
        { s.fw with calmSince := none } ∧ Keeps s t [.pwr, .fw] ∧ KeepsRegs s t [Reg.THERM_PWR_STATUS]) ∧
  (∀ (s : State) (d : Fin 127), s.live .sensor = true → d.val ∉ s.pwr.badSupply → 124 ≤ d.val ∨ s.dom d = .on →
    Gives (.supplyFault d) s fun t =>
      d.val ∈ t.pwr.badSupply ∧ (∀ e ∈ s.pwr.badSupply, e ∈ t.pwr.badSupply) ∧ Keeps s t [.free, .fw, .inbox, .inj,
        .mgt, .paths, .pcs, .pwr, .ring, .rmt, .sched, .seq, .stack, .tags, .therm] ∧ KeepsRegs s t ([Reg.BME_FAILED,
        Reg.CACHE_FENCE, Reg.D2D_RING_STATUS, Reg.FW_STATUS, Reg.PC_REPAIR_EVENT, Reg.THERM_PWR_STATUS,
        Reg.THERM_STATUS] ++ (upto 16).map (fun i => Reg.CACHE_STATUS i) ++ (upto 8).map Reg.THERM_DOM_STATE ++ (upto
        8).map (fun i => Reg.RMT_SUBPORT_STATUS i) ++ (upto 64).map Reg.PC_REF_STATUS ++ fecRegs ++ pathRegs ++ if
        d.val = 120 then remoteRegs else []))

/-! ### Temperature, throttling and power (18) -/

/-- A management access has completed: one more completion, its MGT_ERR, no access waiting (R56, R57). -/
  def Sys2Proof.Machine.Answered (s t : State) (err : Bool) : Prop :=
    t.mgt = { s.mgt with doneCount := s.mgt.doneCount + 1, err := err, rdata := 0, waiting := none }

/-- A reading within −40 °C to +150 °C makes its sensor VALID with that temperature, to which a conversion has added
the OFFSET of its trim (R472); a reading outside, an open or a shorted input, a failed transfer and ten silent
milliseconds make it BROKEN with the cause and set SNS_BROKEN; every reading leaves its zone to be evaluated anew
(R72, R73, R471, R474). A reading of the stack sets the refresh rate, a broken stack sensor doubles it (R156). Forms
stated to complete (exec answers next): sensorConversion, localSensorRead, stackTemperatureRead, sensorStale. -/
def Obligations.SensorReadings : Prop :=
  (∀ (s : State) (n : Fin 8) (low high : BitVec 22) (v : BitVec 12) (x : Int), s.live .sensor = true → s.inputUsed n =
     true → (∀ t0, s.therm.sensors[sensorFin n].convAt = some t0 → t0 + 500000 ≤ s.clk.pkg) → brokenCause
     (s.isThermistor n) s.therm.sensors[sensorFin n].drive low.toNat high.toNat = none → x = s.trimmed n low high v +
     signedOf 8 (s.gf (Reg.THERM_SNS_CFG n) Fld.THERM_SNS_CFG_OFFSET) → -160 ≤ x → x ≤ 600 →
    Gives (.sensorConversion n (low, high) v) s fun t =>
      t.snsValid n = true ∧ t.snsBroken n = (s.snsBroken n && decide (s.therm.sensors[sensorFin n].streak < 2)) ∧ t.gf
        (Reg.THERM_SNS_READ n) Fld.THERM_SNS_READ_TEMP = temp10 x ∧ t.therm.sensors[sensorFin n].readAt = some
        s.clk.raw ∧ t.therm.sensors[sensorFin n].convAt = some s.clk.pkg ∧ t.therm.zones[zoneFin (s.zoneOf n)].fresh =
        true ∧ Keeps s t [.therm] ∧ KeepsRegs s t [Reg.THERM_SNS_READ n]) ∧
  (∀ (s : State) (n : Fin 8) (low high : BitVec 22) (v : BitVec 12) (c : Nat), s.live .sensor = true → s.inputUsed n =
     true → (∀ t0, s.therm.sensors[sensorFin n].convAt = some t0 → t0 + 500000 ≤ s.clk.pkg) → brokenCause
     (s.isThermistor n) s.therm.sensors[sensorFin n].drive low.toNat high.toNat = some c →
    Gives (.sensorConversion n (low, high) v) s fun t =>
      t.snsBroken n = true ∧ t.gf (Reg.THERM_SNS_READ n) Fld.THERM_SNS_READ_CAUSE = c ∧ t.therm.sensors[sensorFin
        n].streak = 0 ∧ t.therm.sensors[sensorFin n].convAt = some s.clk.pkg ∧ t.therm.zones[zoneFin (s.zoneOf
        n)].fresh = true ∧ (s.snsBroken n = false → t.bit Reg.THERM_STATUS Fld.THERM_STATUS_SNS_BROKEN = true) ∧ Keeps
        s t [.therm] ∧ KeepsRegs s t [Reg.THERM_SNS_READ n, Reg.THERM_STATUS]) ∧
  (∀ (s : State) (k : Fin 24) (v : BitVec 12), s.live .sensor = true → -160 ≤ v.toInt → v.toInt ≤ 600 →
    Gives (.localSensorRead k v) s fun t =>
      t.snsValid (8 + k) = true ∧ t.snsBroken (8 + k) = (s.snsBroken (8 + k) && decide (s.therm.sensors[sensorFin (8 +
        k)].streak < 2)) ∧ t.gf (Reg.THERM_SNS_READ (8 + k)) Fld.THERM_SNS_READ_TEMP = temp10 v.toInt ∧
        t.therm.sensors[sensorFin (8 + k)].readAt = some s.clk.raw ∧ t.therm.zones[zoneFin 1].fresh = true ∧ Keeps s t
        [.therm] ∧ KeepsRegs s t [Reg.THERM_SNS_READ (8 + k)]) ∧
  (∀ (s : State) (k : Fin 24) (v : BitVec 12), s.live .sensor = true → v.toInt < -160 ∨ 600 < v.toInt →
    Gives (.localSensorRead k v) s fun t =>
      t.snsBroken (8 + k) = true ∧ t.gf (Reg.THERM_SNS_READ (8 + k)) Fld.THERM_SNS_READ_CAUSE = 2 ∧
        t.therm.zones[zoneFin 1].fresh = true ∧ Keeps s t [.therm] ∧ KeepsRegs s t [Reg.THERM_SNS_READ (8 + k),
        Reg.THERM_STATUS]) ∧
  (∀ (s : State) (v : BitVec 12), s.live .sensor = true → s.pins.memResetN = true → s.stackReadDue = true →
     (s.snsBroken 32 = true → 2 ≤ s.therm.sensors[sensorFin 32].streak) → -160 ≤ v.toInt → v.toInt ≤ 600 →
    Gives (.stackTemperatureRead v true) s fun t =>
      t.snsValid 32 = true ∧ t.snsBroken 32 = false ∧ t.gf (Reg.THERM_SNS_READ 32) Fld.THERM_SNS_READ_TEMP = temp10
        v.toInt ∧ t.refresh.stale = false ∧ ((s.gf Reg.PC_REF_TEMP Fld.PC_REF_TEMP_DOUBLE_TEMP : Int) ≤ v.toInt →
        t.refresh.warm = true) ∧ (v.toInt < (s.gf Reg.PC_REF_TEMP Fld.PC_REF_TEMP_DOUBLE_TEMP : Int) → v.toInt < (s.gf
        Reg.PC_REF_TEMP Fld.PC_REF_TEMP_BASE_TEMP : Int) → t.refresh.warm = false) ∧ Keeps s t [.therm, .refresh] ∧
        KeepsRegs s t [Reg.THERM_SNS_READ 32]) ∧
  (∀ (s : State) (v : BitVec 12), s.live .sensor = true → s.pins.memResetN = true → s.stackReadDue = true → s.snsValid
     32 = true ∨ s.snsBroken 32 = true →
    Gives (.stackTemperatureRead v false) s fun t =>
      t.snsBroken 32 = true ∧ t.refresh.stale = true ∧ t.refresh.warm = s.refresh.warm ∧ Keeps s t [.therm, .refresh] ∧
        KeepsRegs s t [Reg.THERM_SNS_READ 32, Reg.THERM_STATUS]) ∧
  (∀ (s : State) (k : Fin 24) (t0 : Nat), s.live .sensor = true → s.snsBroken (8 + k) = false →
     s.therm.sensors[sensorFin (8 + k)].readAt = some t0 → t0 + 10000000 ≤ s.clk.raw →
    Gives (.sensorStale (sensorFin (8 + k))) s fun t =>
      t.snsBroken (8 + k) = true ∧ t.gf (Reg.THERM_SNS_READ (8 + k)) Fld.THERM_SNS_READ_CAUSE = 3 ∧ t.bit
        Reg.THERM_STATUS Fld.THERM_STATUS_SNS_BROKEN = true ∧ Keeps s t [.therm] ∧ KeepsRegs s t [Reg.THERM_SNS_READ (8
        + k), Reg.THERM_STATUS]) ∧
  (∀ (s : State) (v : BitVec 12), s.live .sensor = true → s.pins.memResetN = true → s.stackReadDue = true → s.snsValid
     32 = false → s.snsBroken 32 = false →
    Gives (.stackTemperatureRead v false) s fun t =>
      t.therm = { s.therm with sensors := t.therm.sensors } ∧ (∀ n, n ≠ sensorFin 32 → t.therm.sensors[n] =
        s.therm.sensors[n]) ∧ t.stackReadDue = false ∧ Keeps s t [.therm] ∧ KeepsRegs s t []) ∧
  (∀ (s : State) (v : BitVec 12) (ok : Bool), s.pins.memResetN = false ∨ s.stackReadDue = false →
    Gives (.stackTemperatureRead v ok) s fun t =>
      t = s) ∧
  (∀ (s : State) (n : Fin 8) (t0 : Nat), s.live .sensor = true → s.inputUsed n = true → s.snsBroken n = false →
     s.therm.sensors[sensorFin n].readAt = some t0 → t0 + 10000000 ≤ s.clk.raw →
    Gives (.sensorStale (sensorFin n)) s fun t =>
      t.snsBroken n = true ∧ t.gf (Reg.THERM_SNS_READ n) Fld.THERM_SNS_READ_CAUSE = 3 ∧ t.bit Reg.THERM_STATUS
        Fld.THERM_STATUS_SNS_BROKEN = true ∧ t.therm.zones[zoneFin (s.zoneOf n)].fresh = true ∧ Keeps s t [.therm] ∧
        KeepsRegs s t [Reg.THERM_SNS_READ n, Reg.THERM_STATUS]) ∧
  (∀ (s : State) (t0 : Nat), s.live .sensor = true → s.pins.memResetN = true → s.snsBroken 32 = false →
     s.therm.sensors[sensorFin 32].readAt = some t0 → t0 + 10000000 ≤ s.clk.raw →
    Gives (.sensorStale 32) s fun t =>
      t.snsBroken 32 = true ∧ t.gf (Reg.THERM_SNS_READ 32) Fld.THERM_SNS_READ_CAUSE = 3 ∧ t.refresh.stale = true ∧
        t.refresh.warm = s.refresh.warm ∧ Keeps s t [.therm, .refresh] ∧ KeepsRegs s t [Reg.THERM_SNS_READ 32,
        Reg.THERM_STATUS])

/-- A zone reading that reaches a higher step's threshold raises the zone step to it at once (R479); a zone of which
every sensor is broken, or a reading at CRITICAL, decides a shutdown (R487). A power window whose column power
exceeds L_s raises P_STEP by one, and P_STEP never leaves 0 to 8 by one (R480). The throttle outputs move one code
towards the step in force (R75). Forms stated to complete (exec answers next): zoneReading, powerWindowEnd,
colThrCodeStep. -/
def Obligations.ZoneSteps : Prop :=
  (∀ (s : State) (z : Fin 6) (r : Int), s.live .sensor = true → s.zoneReading z = some r → s.therm.zones[z].fresh =
     true → s.gf (Reg.THERM_ZONE_READ z) Fld.THERM_ZONE_READ_ZSTEP < s.stepFor z r 0 →
    Gives (.zoneReading z) s fun t =>
      t.gf (Reg.THERM_ZONE_READ z) Fld.THERM_ZONE_READ_ZSTEP = s.stepFor z r 0 ∧ t.gf (Reg.THERM_ZONE_READ z)
        Fld.THERM_ZONE_READ_READING = temp10 r ∧ s.stepFor z r 0 ≤ t.gf Reg.THERM_STATUS Fld.THERM_STATUS_T_STEP ∧
        t.therm.zones[z].fresh = false ∧ t.therm.zones[z].setAt = s.clk.pkg ∧ Keeps s t [.fw, .pins, .therm] ∧
        KeepsRegs s t (Reg.THERM_STATUS :: Reg.THERM_ZONE_READ z :: (upto 64).map Reg.SLOT_STATUS)) ∧
  (∀ (s : State) (z : Fin 6) (r : Int), s.live .sensor = true → s.zoneReading z = some r → s.therm.zones[z].fresh =
     true → s.allBroken z = true ∨ s.threshold z 9 ≤ r → s.shutdown = false → s.therm.due = false →
    Gives (.zoneReading z) s fun t =>
      t.therm.due = true ∧ t.bit Reg.THERM_STATUS Fld.THERM_STATUS_CRIT_EVENT = true ∧ t.gf Reg.THERM_STATUS
        Fld.THERM_STATUS_CRIT_CAUSE = (if s.allBroken z then 3 else 1) ∧ Keeps s t [.fw, .pins, .therm] ∧ KeepsRegs s t
        (Reg.THERM_STATUS :: Reg.THERM_ZONE_READ z :: (upto 64).map Reg.SLOT_STATUS)) ∧
  (∀ (s : State) (mem : BitVec 16), s.live .sensor = true → s.therm.windowNo < s.clk.pkg / 100000 → s.reportStale =
     false → s.pStep < 8 → s.limitOf s.pStep < 1000 * min 65535 (mem.toNat + s.gf Reg.THERM_COMPUTE_W
     Fld.THERM_COMPUTE_W_POWER) →
    Gives (.powerWindowEnd mem) s fun t =>
      t.pStep = s.pStep + 1 ∧ t.therm.windows = [] ∧ t.therm.windowNo = s.clk.pkg / 100000 ∧ t.gf Reg.THERM_POWER
        Fld.THERM_POWER_MEM = mem.toNat ∧ t.gf Reg.THERM_POWER Fld.THERM_POWER_COLUMN = min 65535 (mem.toNat + s.gf
        Reg.THERM_COMPUTE_W Fld.THERM_COMPUTE_W_POWER) ∧ t.stepNow = max (s.gf Reg.THERM_STATUS
        Fld.THERM_STATUS_T_STEP) (s.pStep + 1) ∧ Keeps s t [.fw, .pins, .therm] ∧ KeepsRegs s t (Reg.THERM_STATUS ::
        Reg.THERM_POWER :: (upto 64).map Reg.SLOT_STATUS)) ∧
  (∀ s : State, s.live .sensor = true → s.pins.colStep ≠ s.colTarget → s.therm.colAt + 40 ≤ s.clk.pkg → s.pins.colStep
     ≤ 8 → s.colTarget ≤ 8 →
    Gives .colThrCodeStep s fun t =>
      t.pins.colStep = (if s.pins.colStep < s.colTarget then s.pins.colStep + 1 else s.pins.colStep - 1) ∧
        t.therm.colAt = s.clk.pkg ∧ t.pins.computeOffReq = s.pins.computeOffReq ∧ Keeps s t [.pins, .therm] ∧ KeepsRegs
        s t []) ∧
  (∀ (s : State) (z : Fin 6) (r : Int), s.live .sensor = true → s.zoneReading z = some r → s.therm.zones[z].fresh =
     true →
    Gives (.zoneReading z) s fun t =>
      t.gf (Reg.THERM_ZONE_READ z) Fld.THERM_ZONE_READ_READING = temp10 r ∧ t.bit (Reg.THERM_ZONE_READ z)
        Fld.THERM_ZONE_READ_USED = true ∧ t.therm.zones[z].fresh = false ∧ s.stepFor z r 0 ≤ t.gf (Reg.THERM_ZONE_READ
        z) Fld.THERM_ZONE_READ_ZSTEP ∧ (∀ y, y ≠ z → t.therm.zones[y] = s.therm.zones[y]) ∧ Keeps s t [.fw, .pins,
        .therm] ∧ KeepsRegs s t (Reg.THERM_STATUS :: Reg.THERM_ZONE_READ z :: (upto 64).map Reg.SLOT_STATUS)) ∧
  (∀ (s : State) (mem : BitVec 16), s.live .sensor = true → s.therm.windowNo < s.clk.pkg / 100000 →
    Gives (.powerWindowEnd mem) s fun t =>
      t.gf Reg.THERM_POWER Fld.THERM_POWER_MEM = mem.toNat ∧ t.therm.windowNo = s.clk.pkg / 100000 ∧ t.pStep ≤ s.pStep
        + 1 ∧ s.pStep ≤ t.pStep + 1 ∧ (s.pStep ≤ 8 → t.pStep ≤ 8) ∧ Keeps s t [.fw, .pins, .therm] ∧ KeepsRegs s t
        (Reg.THERM_STATUS :: Reg.THERM_POWER :: (upto 64).map Reg.SLOT_STATUS))

/-- A threshold write that keeps every order takes effect, another is ignored and sets THR_REFUSED (R478, R482); a
write of THERM_COMPUTE_W is a compute report (R484), which is stale after 10 ms. Forms stated to complete (exec
answers next): thresholdWrite, computePowerWrite, computeReportStale. -/
def Obligations.ThermalRegisters : Prop :=
  (∀ (s : State) (k : Fin 27) (v : Word), s.mgtReady = true → s.live .sensor = true → (s.wr (thrReg k).1 (v &&&
     BitVec.ofNat 32 (thrReg k).2)).thresholdsOk = true → (s.wr (thrReg k).1 (v &&& BitVec.ofNat 32 (thrReg
     k).2)).admitOk = true →
    Gives (.thresholdWrite k v) s fun t =>
      t.rd (thrReg k).1 = v &&& BitVec.ofNat 32 (thrReg k).2 ∧ Answered s t false ∧ Keeps s t [.mgt] ∧ KeepsRegs s t
        [(thrReg k).1]) ∧
  (∀ (s : State) (k : Fin 27) (v : Word), s.mgtReady = true → s.live .sensor = true → (s.wr (thrReg k).1 (v &&&
     BitVec.ofNat 32 (thrReg k).2)).thresholdsOk = false →
    Gives (.thresholdWrite k v) s fun t =>
      t.bit Reg.THERM_STATUS Fld.THERM_STATUS_THR_REFUSED = true ∧ Answered s t false ∧ Keeps s t [.mgt] ∧ KeepsRegs s
        t [Reg.THERM_STATUS]) ∧
  (∀ (s : State) (v : Word), s.mgtReady = true → s.live .sensor = true →
    Gives (.computePowerWrite v) s fun t =>
      t.gf Reg.THERM_COMPUTE_W Fld.THERM_COMPUTE_W_POWER = v.toNat % 65536 ∧ t.therm.reportAt = s.clk.raw ∧
        t.therm.stale = false ∧ Answered s t false ∧ Keeps s t [.mgt, .therm] ∧ KeepsRegs s t [Reg.THERM_COMPUTE_W]) ∧
  (∀ s : State, s.live .sensor = true → s.therm.reportAt + 10000000 ≤ s.clk.raw → s.therm.stale = false →
    Gives .computeReportStale s fun t =>
      t.bit Reg.THERM_STATUS Fld.THERM_STATUS_COMPUTE_STALE = true ∧ t.therm.stale = true ∧ Keeps s t [.therm] ∧
        KeepsRegs s t [Reg.THERM_STATUS]) ∧
  (∀ (s : State) (k : Fin 27) (v : Word), s.mgtReady = true → s.live .sensor = true → (s.wr (thrReg k).1 (v &&&
     BitVec.ofNat 32 (thrReg k).2)).admitOk = false →
    Gives (.thresholdWrite k v) s fun t =>
      t.bit Reg.THERM_STATUS Fld.THERM_STATUS_THR_REFUSED = true ∧ Answered s t false ∧ Keeps s t [.mgt] ∧ KeepsRegs s
        t [Reg.THERM_STATUS])

/-- Nothing waits at the crossbars, the slices and the PCs, and no operation, collective or truing window runs. -/
  def Sys2Proof.Machine.Quiet (s : State) : Prop :=
    s.paths = Paths.init ∧ s.seq.ops = [] ∧ s.seq.remoteQueue = [] ∧ s.seq.remoteRun = [] ∧ s.sched.packets = [] ∧
      s.sched.colls = [] ∧
      (∀ p : Fin 64, s.pcs[p].pan = [] ∧ s.pcs[p].pool = [] ∧ s.pcs[p].rq = [] ∧ s.pcs[p].wq = [] ∧
        s.pcs[p].truing = none)

/-- MEM_CATTRIP decides a shutdown at once with CRIT_CAUSE 2 (R62, R487). The shutdown raises COMPUTE_OFF_REQ, stops
admission and puts the stack into self-refresh (R488); COMPUTE_OFF_ACK 1 ms late sets COMPUTE_OFF_LATE (R77). The
restart hold's end decides the restart and leaves self-refresh for the exit scrub, after which COMPUTE_OFF_REQ falls,
but for a new cause decided meanwhile (R404, R489); that COMPUTE_OFF_ACK falls with it is the model's choice: log
entry 21. Forms stated to complete (exec answers next): memCattripRise, memCattripFall, thermalShutdown,
computeOffAckRise, computeOffLate, restartHoldExpiry, thermalRestart. -/
def Obligations.ThermalShutdownAndRestart : Prop :=
  (∀ s : State, s.live .sensor = true → s.pins.memCattrip = false → s.shutdown = false → s.therm.due = false →
    Gives .memCattripRise s fun t =>
      t.pins.memCattrip = true ∧ t.therm.due = true ∧ t.bit Reg.THERM_STATUS Fld.THERM_STATUS_CRIT_EVENT = true ∧ t.gf
        Reg.THERM_STATUS Fld.THERM_STATUS_CRIT_CAUSE = 2 ∧ Keeps s t [.pins, .therm] ∧ KeepsRegs s t
        [Reg.THERM_STATUS]) ∧
  (∀ s : State, s.shutdown = false →
    Gives .memCattripFall s fun t =>
      t.pins.memCattrip = false ∧ Keeps s t [.pins] ∧ KeepsRegs s t []) ∧
  (∀ s : State, s.live .sensor = true → s.therm.due = true →
    Gives .thermalShutdown s fun t =>
      t.pins.computeOffReq = true ∧ t.therm.due = false ∧ t.therm.restarting = false ∧ t.therm.offAt = some s.clk.pkg ∧
        Keeps s t [.copiers, .free, .fw, .inbox, .inj, .paths, .pcs, .pins, .ring, .sched, .seq, .stack, .tags, .therm]
        ∧ KeepsRegs s t (Reg.THERM_STATUS :: windowRegs s ++ drainRegs)) ∧
  (∀ s : State, s.live .sensor = true → s.therm.due = true → Quiet s →
    Gives .thermalShutdown s fun t =>
      t.shutdown = true ∧ (∀ p : Fin 64, t.pcs[p].stopped = true) ∧ (∀ p : Fin 64, s.live (.pc p) = true → t.bit
        (Reg.PC_REF_STATUS p) Fld.PC_REF_STATUS_SELF_REFRESH = true) ∧ Keeps s t [.copiers, .fw, .pcs, .pins, .therm] ∧
        KeepsRegs s t (Reg.THERM_STATUS :: windowRegs s ++ (upto 64).map Reg.PC_REF_STATUS)) ∧
  (∀ s : State, s.live .sensor = true →
    Gives .computeOffAckRise s fun t =>
      t.pins.computeOffAck = true ∧ t.therm.offAt = none ∧ Keeps s t [.pins, .therm] ∧ KeepsRegs s t []) ∧
  (∀ (s : State) (t0 : Nat), s.live .sensor = true → s.therm.offAt = some t0 → t0 + 1000000 ≤ s.clk.pkg →
     s.pins.computeOffAck = false →
    Gives .computeOffLate s fun t =>
      t.bit Reg.THERM_STATUS Fld.THERM_STATUS_COMPUTE_OFF_LATE = true ∧ t.therm.offAt = none ∧ Keeps s t [.therm] ∧
        KeepsRegs s t [Reg.THERM_STATUS]) ∧
  (∀ (s : State) (t0 : Nat), s.live .sensor = true → s.therm.holdFrom = some t0 → s.shutdown = true → t0 + s.gf
     Reg.THERM_GUARD_CFG Fld.THERM_GUARD_CFG_RESTART_HOLD_MS * 1000000 ≤ s.clk.pkg →
    Gives .restartHoldExpiry s fun t =>
      t.therm.holdFrom = none ∧ t.therm.restarting = true ∧ t.bit Reg.THERM_STATUS Fld.THERM_STATUS_RESTART_HOLD =
        false ∧ (∀ p : Fin 64, s.live (.pc p) = true → t.bit (Reg.PC_REF_STATUS p) Fld.PC_REF_STATUS_SCRUB = true ∧
        t.bit (Reg.PC_REF_STATUS p) Fld.PC_REF_STATUS_SELF_REFRESH = false) ∧ t.stack =
        { s.stack with refreshed := t.stack.refreshed } ∧ Keeps s t [.pcs, .therm, .stack] ∧ KeepsRegs s t
        (Reg.THERM_STATUS :: (upto 6).map (fun z => Reg.THERM_ZONE_READ z) ++ (upto 64).map Reg.PC_REF_STATUS)) ∧
  (∀ s : State, s.live .sensor = true → s.shutdown = true → s.therm.restarting = true ∧ s.therm.due = false →
     s.pwr.noticeHeld = false → s.pwr.quiesced = false → (s.livePcs.all fun p => !s.bit (Reg.PC_REF_STATUS p)
     Fld.PC_REF_STATUS_SCRUB) = true →
    Gives .thermalRestart s fun t =>
      t.shutdown = false ∧ t.therm.restarting = false ∧ t.therm.offAt = none ∧ t.pins.computeOffReq = false ∧
        t.pins.computeOffAck = false ∧ (∀ p : Fin 64, s.bit (Reg.PC_REF_STATUS p) Fld.PC_REF_STATUS_SELF_REFRESH =
        false → s.bit (Reg.PC_REF_STATUS p) Fld.PC_REF_STATUS_SCRUB = false → t.pcs[p].stopped = false) ∧ Keeps s t
        [.fw, .paths, .pcs, .pins, .therm] ∧ KeepsRegs s t (Reg.THERM_STATUS :: (upto 64).map Reg.SLOT_STATUS)) ∧
  (∀ s : State, s.live .sensor = true → s.pins.memCattrip = false →
    Gives .memCattripRise s fun t =>
      t.pins.memCattrip = true ∧ (s.shutdown = true → s.therm.restarting = false → t.therm.holdFrom = none ∧ t.bit
        Reg.THERM_STATUS Fld.THERM_STATUS_RESTART_HOLD = false) ∧ Keeps s t [.pins, .therm] ∧ KeepsRegs s t
        [Reg.THERM_STATUS]) ∧
  (∀ s : State, s.live .sensor = true →
    Gives .memCattripFall s fun t =>
      t.pins.memCattrip = false ∧ Keeps s t [.pins, .therm] ∧ KeepsRegs s t [Reg.THERM_STATUS]) ∧
  (∀ s : State, s.live .sensor = true → s.shutdown = true → s.therm.restarting = true ∧ s.therm.due = false →
     (s.livePcs.all fun p => !s.bit (Reg.PC_REF_STATUS p) Fld.PC_REF_STATUS_SCRUB) = true →
    Gives .thermalRestart s fun t =>
      t.therm.restarting = false ∧ t.therm.offAt = none ∧ t.pins.computeOffReq = false ∧ Keeps s t [.free, .fw, .inbox,
        .inj, .paths, .pcs, .pins, .pwr, .ring, .stack, .tags, .therm] ∧ KeepsRegs s t (Reg.THERM_STATUS :: (upto
        64).map Reg.SLOT_STATUS ++ drainRegs)) ∧
  (∀ s : State, s.shutdown = false ∨ s.therm.restarting = false ∨ s.therm.due = true →
    Gives .thermalRestart s fun t =>
      t = s)

/-! ### Refresh and row health (06) -/

/-- A bank that falls due is claimed, or owes one more refresh over a truing window or while it is claimed (R124,
R153); TRFCPB later it is free again. A targeted tick advances the sweep and claims the bank of a weak row that is
due (R159), and postpones it over a truing window (R160). A PC adopts the rate in force at its base boundary (R157).
Forms stated to complete (exec answers next): refreshDue, refreshComplete, targetedRefreshTick, refreshRateChange. -/
def Obligations.RefreshSchedule : Prop :=
  (∀ (s : State) (p : Fin 64) (k : Fin 64), s.live (.pc p) = true → s.engineRuns p = true → s.isDue p k = true →
     s.inhibited p (k / 16) = false → s.inWindow p = false → (s.pcs[p].bankOf k).claim = .none →
    Gives (.refreshDue p k) s fun t =>
      (t.pcs[p].bankOf k).claim = .refresh ∧ (t.pcs[p].bankOf k).refreshing = false ∧ (∀ j : Fin 64, j ≠ k →
        t.pcs[p].bankOf j = s.pcs[p].bankOf j) ∧ (t.pcs[p].pan.all fun x => decide (x.loc.bankIx ≠ k.val) || x.closed)
        = true ∧ (∀ q, q ≠ p → t.pcs[q] = s.pcs[q]) ∧ Keeps s t [.pcs] ∧ KeepsRegs s t []) ∧
  (∀ (s : State) (p : Fin 64) (k : Fin 64), s.live (.pc p) = true → s.engineRuns p = true → s.isDue p k = true →
     s.inhibited p (k / 16) = false → s.inWindow p = true ∨ (s.pcs[p].bankOf k).claim ≠ .none →
    Gives (.refreshDue p k) s fun t =>
      (t.pcs[p].bankOf k).owed = min 7 ((s.pcs[p].bankOf k).owed + 1) ∧ (t.pcs[p].bankOf k).claim = (s.pcs[p].bankOf
        k).claim ∧ (∀ q, q ≠ p → t.pcs[q] = s.pcs[q]) ∧ Keeps s t [.pcs] ∧ KeepsRegs s t []) ∧
  (∀ (s : State) (p : Fin 64) (k : Fin 64), s.live (.pc p) = true → s.inWindow p = false → (s.pcs[p].bankOf k).claim =
     .refresh → (s.pcs[p].bankOf k).refreshing = true → (s.pcs[p].bankOf k).readyAt ≤ s.pcs[p].cycle → (s.pcs[p].bankOf
     k).owed = 0 → s.pcs[p].lateTicks = [] →
    Gives (.refreshComplete p k) s fun t =>
      (t.pcs[p].bankOf k).claim = .none ∧ (t.pcs[p].bankOf k).refreshing = false ∧ (∀ j : Fin 64, j ≠ k →
        t.pcs[p].bankOf j = s.pcs[p].bankOf j) ∧ (∀ q, q ≠ p → t.pcs[q] = s.pcs[q]) ∧ Keeps s t [.pcs] ∧ KeepsRegs s t
        []) ∧
  (∀ (s : State) (p : Fin 64), s.live (.pc p) = true → s.isTick p = true → s.engineRuns p = true → s.inWindow p = false
     → (s.pcs[p].rowEntry (s.pcs[p].tick % 2048)).valid = true → (s.pcs[p].rowEntry (s.pcs[p].tick % 2048)).cls = 4 →
     s.inhibited p (s.pcs[p].rowEntry (s.pcs[p].tick % 2048)).layer = false → (s.pcs[p].bankOf (s.pcs[p].rowEntry
     (s.pcs[p].tick % 2048)).bankIx).claim = .none → (s.pcs[p].bankOf (s.pcs[p].rowEntry (s.pcs[p].tick %
     2048)).bankIx).readyAt ≤ s.pcs[p].cycle → s.pcs[p].owing = [] →
    Gives (.targetedRefreshTick p) s fun t =>
      t.pcs[p].tick = s.pcs[p].tick + 1 ∧ (t.pcs[p].bankOf (s.pcs[p].rowEntry (s.pcs[p].tick % 2048)).bankIx).claim =
        .targeted (s.pcs[p].rowEntry (s.pcs[p].tick % 2048)).row ∧ t.pcs[p].lateTicks = s.pcs[p].lateTicks ∧ (∀ q, q ≠
        p → t.pcs[q] = s.pcs[q]) ∧ Keeps s t [.pcs] ∧ KeepsRegs s t []) ∧
  (∀ (s : State) (p : Fin 64), s.live (.pc p) = true → s.isTick p = true → s.engineRuns p = true → s.inWindow p = true
     → (s.pcs[p].rowEntry (s.pcs[p].tick % 2048)).valid = true → (s.pcs[p].rowEntry (s.pcs[p].tick % 2048)).cls = 4 →
     s.inhibited p (s.pcs[p].rowEntry (s.pcs[p].tick % 2048)).layer = false →
    Gives (.targetedRefreshTick p) s fun t =>
      t.pcs[p].tick = s.pcs[p].tick + 1 ∧ t.pcs[p].lateTicks = s.pcs[p].lateTicks ++ [s.pcs[p].tick % 2048] ∧
        t.pcs[p].banks = s.pcs[p].banks ∧ (∀ q, q ≠ p → t.pcs[q] = s.pcs[q]) ∧ Keeps s t [.pcs] ∧ KeepsRegs s t []) ∧
  (∀ (s : State) (p : Fin 64), s.live (.pc p) = true → s.refreshPhase p s.interval = 0 →
    Gives (.refreshRateChange p) s fun t =>
      t.doubled p = s.wantDoubled ∧ (∀ q : Nat, q ≠ p → q < 64 → t.doubled q = s.doubled q) ∧ Keeps s t [] ∧ KeepsRegs
        s t [Reg.PC_REF_STATUS p]) ∧
  (∀ (s : State) (p : Fin 64) (k : Fin 64), s.live (.pc p) = true → s.inWindow p = false → (s.pcs[p].bankOf k).claim =
     .refresh → (s.pcs[p].bankOf k).refreshing = true → (s.pcs[p].bankOf k).readyAt ≤ s.pcs[p].cycle → 0 <
     (s.pcs[p].bankOf k).owed →
    Gives (.refreshComplete p k) s fun t =>
      (t.pcs[p].bankOf k).claim = .refresh ∧ (t.pcs[p].bankOf k).refreshing = false ∧ (t.pcs[p].bankOf k).owed =
        (s.pcs[p].bankOf k).owed - 1 ∧ (∀ j : Fin 64, j ≠ k → t.pcs[p].bankOf j = s.pcs[p].bankOf j) ∧ (∀ q, q ≠ p →
        t.pcs[q] = s.pcs[q]) ∧ Keeps s t [.pcs] ∧ KeepsRegs s t []) ∧
  (∀ (s : State) (p : Fin 64) (k : Fin 64), s.live (.pc p) = true → s.inWindow p = false → (s.pcs[p].bankOf k).claim =
     .refresh → (s.pcs[p].bankOf k).refreshing = true → (s.pcs[p].bankOf k).readyAt ≤ s.pcs[p].cycle →
    Gives (.refreshComplete p k) s fun t =>
      (t.pcs[p].bankOf k).refreshing = false ∧ (∀ j : Fin 64, j ≠ k → t.pcs[p].bankOf j = s.pcs[p].bankOf j) ∧ (∀ q, q
        ≠ p → t.pcs[q] = s.pcs[q]) ∧ Keeps s t [.pcs] ∧ KeepsRegs s t []) ∧
  (∀ (s : State) (p : Fin 64), s.live (.pc p) = true → s.isTick p = true →
    Gives (.targetedRefreshTick p) s fun t =>
      t.pcs[p].tick = s.pcs[p].tick + 1 ∧ (∀ x ∈ t.pcs[p].lateTicks, x ∈ s.pcs[p].lateTicks ∨ x = s.pcs[p].tick % 2048)
        ∧ t.pcs[p].rowh = s.pcs[p].rowh ∧ (∀ q, q ≠ p → t.pcs[q] = s.pcs[q]) ∧ Keeps s t [.pcs] ∧ KeepsRegs s t [])

/-- INTERVAL is clamped to 1000 to 3900 ns and kept even, a clamped write sets REF_CLAMPED, and while PC_LACE.LOCK is
1 a change of INTERVAL is refused, and a flag that an event sets in the cycle of the write stays (R18, R158, R175);
PC_REF_TEMP keeps its thresholds in their ranges with BASE_TEMP 4 below DOUBLE_TEMP (R176); PC_LACE takes a write
only while LOCK is 0 (R90). Forms stated to complete (exec answers next): pcRefCtrlWrite, pcRefTempWrite,
pcLaceWrite. -/
def Obligations.RefreshRegisters : Prop :=
  (∀ (s : State) (v events : Word), s.mgtReady = true → s.live .sensor = true → s.bit Reg.PC_LACE Fld.PC_LACE_LOCK =
     false →
    Gives (.pcRefCtrlWrite v events) s fun t =>
      t.interval = max 1000 (min 3900 (v.toNat % 8192 / 2 * 2)) ∧ t.bit Reg.PC_REF_CTRL Fld.PC_REF_CTRL_FORCE_DOUBLE =
        v.getLsbD 31 ∧ (v.toNat % 8192 < 1000 ∨ 3901 < v.toNat % 8192 ∨ events.getLsbD 30 = true → t.bit
        Reg.PC_REF_CTRL Fld.PC_REF_CTRL_REF_CLAMPED = true) ∧ Answered s t false ∧ Keeps s t [.mgt] ∧ KeepsRegs s t
        [Reg.PC_REF_CTRL]) ∧
  (∀ (s : State) (v events : Word), s.mgtReady = true → s.live .sensor = true → s.bit Reg.PC_LACE Fld.PC_LACE_LOCK =
     true → max 1000 (min 3900 (v.toNat % 8192 / 2 * 2)) ≠ s.interval →
    Gives (.pcRefCtrlWrite v events) s fun t =>
      t.interval = s.interval ∧ t.bit Reg.PC_REF_CTRL Fld.PC_REF_CTRL_REF_WRITE_REFUSED = true ∧ t.bit Reg.PC_REF_CTRL
        Fld.PC_REF_CTRL_FORCE_DOUBLE = v.getLsbD 31 ∧ Answered s t false ∧ Keeps s t [.mgt] ∧ KeepsRegs s t
        [Reg.PC_REF_CTRL]) ∧
  (∀ (s : State) (v : Word), s.mgtReady = true → s.live .sensor = true →
    Gives (.pcRefTempWrite v) s fun t =>
      200 ≤ t.gf Reg.PC_REF_TEMP Fld.PC_REF_TEMP_DOUBLE_TEMP ∧ t.gf Reg.PC_REF_TEMP Fld.PC_REF_TEMP_DOUBLE_TEMP ≤ 340 ∧
        t.gf Reg.PC_REF_TEMP Fld.PC_REF_TEMP_BASE_TEMP + 4 ≤ t.gf Reg.PC_REF_TEMP Fld.PC_REF_TEMP_DOUBLE_TEMP ∧ (200 ≤
        v.toNat / 65536 % 1024 ∧ v.toNat / 65536 % 1024 ≤ 340 ∧ 180 ≤ v.toNat % 1024 ∧ v.toNat % 1024 + 4 ≤ v.toNat /
        65536 % 1024 → t.gf Reg.PC_REF_TEMP Fld.PC_REF_TEMP_DOUBLE_TEMP = v.toNat / 65536 % 1024 ∧ t.gf Reg.PC_REF_TEMP
        Fld.PC_REF_TEMP_BASE_TEMP = v.toNat % 1024 ∧ t.rd Reg.PC_REF_CTRL = s.rd Reg.PC_REF_CTRL) ∧ Answered s t false
        ∧ Keeps s t [.mgt] ∧ KeepsRegs s t [Reg.PC_REF_TEMP, Reg.PC_REF_CTRL]) ∧
  (∀ (s : State) (v : Word), s.mgtReady = true → s.live .sensor = true → s.bit Reg.PC_LACE Fld.PC_LACE_LOCK = false →
    Gives (.pcLaceWrite v) s fun t =>
      t.rd Reg.PC_LACE = v &&& 0x1F3F#32 ∧ Answered s t false ∧ Keeps s t [.mgt] ∧ KeepsRegs s t [Reg.PC_LACE]) ∧
  (∀ (s : State) (v : Word), s.mgtReady = true → s.live .sensor = true → s.bit Reg.PC_LACE Fld.PC_LACE_LOCK = true →
    Gives (.pcLaceWrite v) s fun t =>
      Answered s t false ∧ Keeps s t [.mgt] ∧ KeepsRegs s t [])

/-- The first burst of a row of PC `p`. -/
  def Sys2Proof.Machine.rowLoc (p : Fin 64) (layer bg bank : Fin 4) (row : BitVec 15) : Loc :=
    { rank := layer * 64 + p, bg := bg, bank := bank, row := row.toNat, col := 0 }

/-- An event of a row in the table adds one to its count, at most 255, and an uncorrectable one makes the row BAD
unless it is RETIRED; another row takes the lowest invalid entry, as WATCH or BAD (R163). Firmware's write keeps the
count while VALID stays, and does not change a BAD row but for RETIRED (R162, R164). A row is given its class from
its count (R166), or from a failed hold, with cause 4 for a BAD row (R165, R167). Forms stated to complete (exec
answers next): rowHealthEvent, rowHealthFwWrite, rowClassify. -/
def Obligations.RowHealth : Prop :=
  (∀ (s : State) (p : Fin 64) (ev : RowEvent) (rest : List RowEvent) (i : Nat), s.live (.pc p) = true → s.pcs[p].events
     = ev :: rest → s.pcs[p].rowIndex ev.loc = some i →
    Gives (.rowHealthEvent p) s fun t =>
      (t.pcs[p].rowEntry i).ceCount = min 255 ((s.pcs[p].rowEntry i).ceCount + 1) ∧ (t.pcs[p].rowEntry i).cls = (if
        ev.uncorrectable ∧ (s.pcs[p].rowEntry i).cls ≠ 5 then 4 else (s.pcs[p].rowEntry i).cls) ∧ (∀ j, j ≠ i →
        t.pcs[p].rowEntry j = s.pcs[p].rowEntry j) ∧ t.pcs[p].events = rest ∧ (∀ q, q ≠ p → t.pcs[q] = s.pcs[q]) ∧
        Keeps s t [.age, .pcs] ∧ KeepsRegs s t []) ∧
  (∀ (s : State) (p : Fin 64) (ev : RowEvent) (rest : List RowEvent) (i : Nat), s.live (.pc p) = true → s.pcs[p].events
     = ev :: rest → s.pcs[p].rowIndex ev.loc = none → s.pcs[p].freeRow = some i →
    Gives (.rowHealthEvent p) s fun t =>
      t.pcs[p].rowEntry i = newRow ev.loc ev.uncorrectable ev.time ∧ (∀ j, j ≠ i → t.pcs[p].rowEntry j =
        s.pcs[p].rowEntry j) ∧ t.pcs[p].events = rest ∧ (∀ q, q ≠ p → t.pcs[q] = s.pcs[q]) ∧ Keeps s t [.age, .pcs] ∧
        KeepsRegs s t []) ∧
  (∀ (s : State) (p : Fin 64) (i : Fin 2048) (valid : Bool) (cls : Fin 6) (ms : BitVec 7) (layer : Fin 4) (unit : Fin
     16) (row : BitVec 15), s.fwRuns .upkeep = true → s.live (.pc p) = true →
    Gives (.rowHealthFwWrite p i valid cls ms layer unit row false) s fun t =>
      ((s.pcs[p].rowEntry i).valid = true ∧ (s.pcs[p].rowEntry i).cls = 4 ∧ (valid = false ∨ cls.val < 4) →
        t.pcs[p].rowEntry i = s.pcs[p].rowEntry i) ∧ (¬((s.pcs[p].rowEntry i).valid = true ∧ (s.pcs[p].rowEntry i).cls
        = 4 ∧ (valid = false ∨ cls.val < 4)) → valid = false → t.pcs[p].rowEntry i = RowEntry.none) ∧
        (¬((s.pcs[p].rowEntry i).valid = true ∧ (s.pcs[p].rowEntry i).cls = 4 ∧ (valid = false ∨ cls.val < 4)) → valid
        = true → (t.pcs[p].rowEntry i).valid = true ∧ (t.pcs[p].rowEntry i).retMs = ms.toNat ∧ (t.pcs[p].rowEntry
        i).cls = cls.val) ∧ (valid = true → (s.pcs[p].rowEntry i).valid = true → (t.pcs[p].rowEntry i).ceCount =
        (s.pcs[p].rowEntry i).ceCount ∧ (t.pcs[p].rowEntry i).lastEvent = (s.pcs[p].rowEntry i).lastEvent ∧
        (t.pcs[p].rowEntry i).row = (s.pcs[p].rowEntry i).row) ∧ (valid = true → cls = 4 → (s.pcs[p].rowEntry i).cls ≠
        4 → t.age.eventAt.isSome = true) ∧ (∀ j, j ≠ i.val → t.pcs[p].rowEntry j = s.pcs[p].rowEntry j) ∧ (∀ q, q ≠ p →
        t.pcs[q] = s.pcs[q]) ∧ Keeps s t [.age, .pcs] ∧ KeepsRegs s t []) ∧
  (∀ (s : State) (p : Fin 64) (layer bg bank : Fin 4) (row : BitVec 15) (i : Nat), s.fwRuns .upkeep = true → s.live
     (.pc p) = true → s.pcs[p].rowIndex (rowLoc p layer bg bank row) = some i →
    Gives (.rowClassify p layer bg bank row none) s fun t =>
      (t.pcs[p].rowEntry i).cls = ceClass (s.gf Reg.FW_ROWH_POLICY Fld.FW_ROWH_POLICY_CE_WEAK) (s.gf Reg.FW_ROWH_POLICY
        Fld.FW_ROWH_POLICY_CE_STEP) (s.pcs[p].rowEntry i) ∧ (t.pcs[p].rowEntry i).ceCount = (s.pcs[p].rowEntry
        i).ceCount ∧ (t.pcs[p].rowEntry i).row = (s.pcs[p].rowEntry i).row ∧ (∀ j, j ≠ i → t.pcs[p].rowEntry j =
        s.pcs[p].rowEntry j) ∧ (∀ q, q ≠ p → t.pcs[q] = s.pcs[q]) ∧ Keeps s t [.pcs] ∧ KeepsRegs s t []) ∧
  (∀ (s : State) (p : Fin 64) (layer bg bank : Fin 4) (row : BitVec 15) (h : Fin 4) (temp : BitVec 10), s.fwRuns
     .upkeep = true → s.live (.pc p) = true → s.projectedMs (rowLoc p layer bg bank row) (s.shortestMs (rowLoc p layer
     bg bank row) (retentionMs (holdMs h) (signedOf 10 temp.toNat))) < 8 →
    Gives (.rowClassify p layer bg bank row (some (h, temp))) s fun t =>
      (layer.val * 64 + p.val, 4) ∈ t.inbox.causes ∧ (∀ q, q ≠ p → t.pcs[q] = s.pcs[q]) ∧ Keeps s t [.age, .inbox,
        .pcs] ∧ KeepsRegs s t []) ∧
  (∀ (s : State) (p : Fin 64) (i : Fin 2048) (valid : Bool) (cls : Fin 6) (ms : BitVec 7) (layer : Fin 4) (unit : Fin
     16) (row : BitVec 15) (ev : RowEvent) (rest : List RowEvent), s.fwRuns .upkeep = true → s.live (.pc p) = true →
     s.pcs[p].events = ev :: rest → ev.uncorrectable = true → s.pcs[p].rowIndex ev.loc = some i.val →
     (s.pcs[p].rowEntry i).cls ≠ 5 →
    Gives (.rowHealthFwWrite p i valid cls ms layer unit row true) s fun t =>
      (t.pcs[p].rowEntry i).cls = 4 ∧ (t.pcs[p].rowEntry i).row = (s.pcs[p].rowEntry i).row ∧ t.pcs[p].events = rest ∧
        (∀ j, j ≠ i.val → t.pcs[p].rowEntry j = s.pcs[p].rowEntry j) ∧ (∀ q, q ≠ p → t.pcs[q] = s.pcs[q]) ∧ Keeps s t
        [.age, .pcs] ∧ KeepsRegs s t [Reg.PC_REF_STATUS p]) ∧
  (∀ (s : State) (p : Fin 64) (layer bg bank : Fin 4) (row : BitVec 15) (h : Fin 4) (temp : BitVec 10) (i c : Nat),
     s.fwRuns .upkeep = true → s.live (.pc p) = true → retentionClass (s.projectedMs (rowLoc p layer bg bank row)
     (s.shortestMs (rowLoc p layer bg bank row) (retentionMs (holdMs h) (signedOf 10 temp.toNat)))) = some c →
     s.pcs[p].rowIndex (rowLoc p layer bg bank row) = some i → (s.pcs[p].rowEntry i).cls ≠ 4 →
    Gives (.rowClassify p layer bg bank row (some (h, temp))) s fun t =>
      (t.pcs[p].rowEntry i).cls = c ∧ (t.pcs[p].rowEntry i).retMs = s.shortestMs (rowLoc p layer bg bank row)
        (retentionMs (holdMs h) (signedOf 10 temp.toNat)) ∧ (t.pcs[p].rowEntry i).ceCount = (s.pcs[p].rowEntry
        i).ceCount ∧ (∀ j, j ≠ i → t.pcs[p].rowEntry j = s.pcs[p].rowEntry j) ∧ (∀ q, q ≠ p → t.pcs[q] = s.pcs[q]) ∧
        Keeps s t [.age, .inbox, .pcs] ∧ KeepsRegs s t [])

/-- Firmware's inhibit of a layer group takes effect unless the rank carries data of the range, then it is refused
with REF_INHIBIT_REFUSED (R170, R178). A retention test leaves its rank undefined and inhibited until its hold is
over (R168). The exit scrub ends with SCRUB cleared and admission resumed where nothing else holds it (R172). Forms
stated to complete (exec answers next): refInhibitWrite, retentionTest, retentionHoldExpiry, exitScrubComplete. -/
def Obligations.RetentionTests : Prop :=
  (∀ (s : State) (p : Fin 64) (g : BitVec 4), s.fwRuns .upkeep = true → s.live (.pc p) = true → (∀ j : Fin 4, g.getLsbD
     j = true → s.inhibitRefused (j.val * 64 + p.val) = false) →
    Gives (.refInhibitWrite p g) s fun t =>
      (∀ j : Nat, j < 4 → t.inhibited p j = g.getLsbD j) ∧ t.gf (Reg.PC_REF_STATUS p) Fld.PC_REF_STATUS_INHIBITED =
        g.toNat ∧ Keeps s t [] ∧ KeepsRegs s t [Reg.PC_REF_INHIBIT p, Reg.PC_REF_STATUS p]) ∧
  (∀ (s : State) (p : Fin 64) (g : BitVec 4) (j : Fin 4), s.fwRuns .upkeep = true → s.live (.pc p) = true → g.getLsbD j
     = true → s.inhibitRefused (j.val * 64 + p.val) = true →
    Gives (.refInhibitWrite p g) s fun t =>
      t.inhibited p j = false ∧ t.bit (Reg.PC_REF_STATUS p) Fld.PC_REF_STATUS_REF_INHIBIT_REFUSED = true ∧ Keeps s t []
        ∧ KeepsRegs s t [Reg.PC_REF_INHIBIT p, Reg.PC_REF_STATUS p]) ∧
  (∀ (s : State) (p : Fin 64) (layer hold : Fin 4) (temp : Int) (r : Nat), s.fwRuns .upkeep = true → s.live (.pc p) =
     true → r = layer.val * 64 + p.val → s.testTemp = some temp → s.rankState r = 4 → s.holdInOrder r hold = true →
    Gives (.retentionTest p layer hold) s fun t =>
      r ∈ t.stack.undef ∧ t.inhibited p layer = true ∧ t.rankState r = 5 ∧ (∃ x ∈ t.tests, x.rank = r ∧ x.hold =
        hold.val ∧ x.temp = temp ∧ x.holding = true ∧ x.startAt = s.now .firmware) ∧ t.stack.cells = s.stack.cells ∧
        Keeps s t [.stack, .tests] ∧ KeepsRegs s t [Reg.PC_RANK_STATE (r / 8), Reg.PC_REF_INHIBIT p, Reg.PC_REF_STATUS
        p]) ∧
  (∀ (s : State) (rank : BitVec 8) (x : RetTest), s.fwRuns .upkeep = true → s.live (.pc (pcFin rank.toNat)) = true →
     s.testOf rank.toNat = some x → x.holding = true → x.startAt + holdMs (Fin.ofNat 4 x.hold) * 1000000 ≤ s.now
     .firmware → s.rankState rank.toNat = 5 →
    Gives (.retentionHoldExpiry rank []) s fun t =>
      t.inhibited (pcFin rank.toNat) (rank.toNat / 64) = false ∧ t.rankState rank.toNat = 4 ∧ (∀ y ∈ t.tests, y.rank =
        rank.toNat → y.holding = false ∧ y.hold = x.hold) ∧ (x.hold = 3 → ∀ y ∈ t.tests, y.rank ≠ rank.toNat) ∧ Keeps s
        t [.tests] ∧ KeepsRegs s t [Reg.PC_RANK_STATE (rank.toNat / 8), Reg.PC_REF_INHIBIT (pcFin rank.toNat),
        Reg.PC_REF_STATUS (pcFin rank.toNat)]) ∧
  (∀ (s : State) (p : Fin 64) (errs : List (Nat × List Byte)) (fails : List MemFail), s.live (.pc p) = true → s.phase ≠
     6 → s.bit (Reg.PC_REF_STATUS p) Fld.PC_REF_STATUS_SCRUB = true → s.bit (Reg.PC_REF_STATUS p)
     Fld.PC_REF_STATUS_SELF_REFRESH = false → s.pcs[p].scrubBursts p = [] → s.pcs[p].events = [] →
    Gives (.exitScrubComplete p errs fails) s fun t =>
      t.bit (Reg.PC_REF_STATUS p) Fld.PC_REF_STATUS_SCRUB = false ∧ (s.shutdown = false → s.pwr.quiesced = false →
        t.pcs[p].stopped = false) ∧ (∀ q, q ≠ p → t.pcs[q] = s.pcs[q]) ∧ Keeps s t [.pcs] ∧ KeepsRegs s t
        [Reg.PC_REF_STATUS p]) ∧
  (∀ (s : State) (p : Fin 64) (errs : List (Nat × List Byte)) (fails : List MemFail), s.live (.pc p) = true → s.phase ≠
     6 → s.bit (Reg.PC_REF_STATUS p) Fld.PC_REF_STATUS_SCRUB = true → s.bit (Reg.PC_REF_STATUS p)
     Fld.PC_REF_STATUS_SELF_REFRESH = false →
    Gives (.exitScrubComplete p errs fails) s fun t =>
      t.bit (Reg.PC_REF_STATUS p) Fld.PC_REF_STATUS_SCRUB = false ∧ (∀ q, q ≠ p → t.pcs[q].rowh = s.pcs[q].rowh) ∧
        Keeps s t [.age, .free, .inbox, .pcs, .stack] ∧ KeepsRegs s t (checkRegs p)) ∧
  (∀ (s : State) (p : Fin 64) (layer hold : Fin 4) (temp : Int) (r : Nat), s.fwRuns .upkeep = true → s.live (.pc p) =
     true → r = layer.val * 64 + p.val → s.testTemp = some temp → s.testable r = true → s.inhibitRefused r = false →
     s.holdInOrder r hold = true →
    Gives (.retentionTest p layer hold) s fun t =>
      r ∈ t.stack.undef ∧ (∃ x ∈ t.tests, x.rank = r ∧ x.hold = hold.val ∧ x.temp = temp ∧ x.holding = true ∧ x.startAt
        = s.now .firmware) ∧ t.stack.cells = s.stack.cells ∧ Keeps s t [.stack, .tests] ∧ KeepsRegs s t
        [Reg.PC_RANK_STATE (r / 8), Reg.PC_REF_INHIBIT p, Reg.PC_REF_STATUS p]) ∧
  (∀ (s : State) (rank : BitVec 8) (failed : List (Fin 4 × Fin 4 × BitVec 15)) (x : RetTest), s.fwRuns .upkeep = true →
     s.live (.pc (pcFin rank.toNat)) = true → s.testOf rank.toNat = some x → x.holding = true → x.startAt + holdMs
     (Fin.ofNat 4 x.hold) * 1000000 ≤ s.now .firmware →
    Gives (.retentionHoldExpiry rank failed) s fun t =>
      (∀ y ∈ t.tests, y.rank = rank.toNat → y.holding = false ∧ y.hold = x.hold ∧ y.failed = x.failed ++ x.newly
        failed) ∧ (∀ y ∈ s.tests, y.rank ≠ rank.toNat → y ∈ t.tests) ∧ Keeps s t [.age, .inbox, .pcs, .tests] ∧
        KeepsRegs s t [Reg.PC_RANK_STATE (rank.toNat / 8), Reg.PC_REF_INHIBIT (pcFin rank.toNat), Reg.PC_REF_STATUS
        (pcFin rank.toNat)])

/-! ### The PC controllers (04, 05) -/

/-- An access that no redirect concerns enters the pool of its PC (R100, R131); the arbiter's choice leaves the pool
for the read queue or the write queue and advances the starvation counter (R135), but a pending debug access goes
first and does not advance it (R147); the column command captures a read's burst (R113); its data, when the check
code finds it clean, goes to its owner unchanged, and zeros marked bad when it is poisoned (R434); a write is driven
with its check code, changes its own burst and no other, and frees the burst's known-bad entry (R100, R441). Forms
stated to complete (exec answers next): intakeAccess, slotGrant, slotAdvance, commandSelect, readDataReturn,
mergeReadReturn, writeDataDriven. -/
def Obligations.AccessPath : Prop :=
  (∀ (s : State) (p : Fin 64) (a : Access), s.live (.pc p) = true → firstIntake s p [] s.paths.memXbar = some a →
     a.owner = .debug → s.redirOf a.loc.rank = none → s.originOf a.loc.rank = none →
    Gives (.intakeAccess p) s fun t =>
      t.pcs[p].pool = s.pcs[p].pool ++ [PoolEntry.mk a s.pcs[p].cycle s.pcs[p].poolNext none] ∧ t.paths.memXbar =
        s.paths.memXbar.filter (fun e => e.2.id ≠ a.id) ∧ t.pcs[p].poolNext = s.pcs[p].poolNext + 1 ∧ t.pcs[p].rq =
        s.pcs[p].rq ∧ t.pcs[p].wq = s.pcs[p].wq ∧ (∀ q, q ≠ p → t.pcs[q] = s.pcs[q]) ∧ Keeps s t [.paths, .pcs] ∧
        KeepsRegs s t []) ∧
  (∀ (s : State) (p : Fin 64) (e : PoolEntry), s.live (.pc p) = true → s.cycleRuns p = true → s.grantsRun p = true →
     s.pcs[p].mayGrant = true → s.pcs[p].debugAcc = none → arbiterPick s p = some e → e.acc.write = false → e.acc.owner
     = .debug → e.run = none → s.pcs[p].matching e.acc.loc = none → s.pcs[p].knownBad.contains e.acc.loc.burst = false
     →
    Gives (.slotGrant p) s fun t =>
      t.pcs[p].pool = s.pcs[p].pool.filter (fun x => x.acc.id ≠ e.acc.id) ∧ t.pcs[p].rq = s.pcs[p].rq ++ [RqEntry.mk
        e.acc e.at_ e.no s.pcs[p].cycle none 0 none []] ∧ t.pcs[p].wq = s.pcs[p].wq ∧ t.pcs[p].slotDone = true ∧
        t.pcs[p].lastGrant = some s.pcs[p].cycle ∧ t.pcs[p].starve = (s.pcs[p].starve + 1) % s.gf (Reg.SLOT_CTRL p)
        Fld.SLOT_CTRL_STARVE_N ∧ (∀ q, q ≠ p → t.pcs[q] = s.pcs[q]) ∧ Keeps s t [.pcs] ∧ KeepsRegs s t []) ∧
  (∀ (s : State) (p : Fin 64) (e : PoolEntry), s.live (.pc p) = true → s.cycleRuns p = true → s.grantsRun p = true →
     s.pcs[p].mayGrant = true → s.pcs[p].debugAcc = none → arbiterPick s p = some e → e.acc.write = true → fullMask
     e.acc.mask = true → e.acc.owner = .debug → e.run = none → (s.pcs[p].wq.all fun w => decide (w.acc.loc ≠ e.acc.loc)
     || w.issuedAt.isSome) = true → (∀ w ∈ s.pcs[p].wq, w.grantAt ≤ s.pcs[p].cycle) →
    Gives (.slotGrant p) s fun t =>
      t.pcs[p].pool = s.pcs[p].pool.filter (fun x => x.acc.id ≠ e.acc.id) ∧ t.pcs[p].wq = s.pcs[p].wq ++ [e.acc.wqEntry
        s.pcs[p].cycle false] ∧ t.pcs[p].rq = s.pcs[p].rq ∧ (∀ q, q ≠ p → t.pcs[q] = s.pcs[q]) ∧ Keeps s t [.pcs] ∧
        KeepsRegs s t []) ∧
  (∀ (s : State) (p : Fin 64), s.live (.pc p) = true → s.cycleRuns p = true → s.pcs[p].slotAt + 2 ≤ s.pcs[p].cycle →
    Gives (.slotAdvance p) s fun t =>
      t.gf (Reg.SLOT_STATUS p) Fld.SLOT_STATUS_SLOT = (s.gf (Reg.SLOT_STATUS p) Fld.SLOT_STATUS_SLOT + 1) % 256 ∧
        t.pcs[p].slotAt = s.pcs[p].slotAt + 2 ∧ t.pcs[p].slotDone = false ∧ t.pcs[p].bgHold = s.bit (Reg.SLOT_STATUS p)
        Fld.SLOT_STATUS_BG_HOLD ∧ (∀ q, q ≠ p → t.pcs[q] = s.pcs[q]) ∧ Keeps s t [.pcs] ∧ KeepsRegs s t
        [Reg.SLOT_STATUS p]) ∧
  (∀ (s : State) (p : Fin 64), s.live (.pc p) = true → s.cycleRuns p = true → s.commandsRun p = false → s.inWindow p =
     false → s.pcs[p].fwd = [] →
    Gives (.commandSelect p) s fun t =>
      t.pcs[p].cycle = s.pcs[p].cycle + 1 ∧ t.pcs[p].banks = s.pcs[p].banks ∧ t.pcs[p].rq = s.pcs[p].rq ∧ t.pcs[p].wq =
        s.pcs[p].wq ∧ (∀ q, q ≠ p → t.pcs[q] = s.pcs[q]) ∧ Keeps s t [.pcs] ∧ KeepsRegs s t []) ∧
  (∀ (s : State) (p : Fin 64) (a : Access), s.live (.pc p) = true → s.cycleRuns p = true → s.commandsRun p = true →
     s.pcs[p].fwd = [] → s.pcs[p].replay = none → s.bit Reg.PC_INJ Fld.PC_INJ_ENABLE = false → (drainMode s p
     s.pcs[p].engineClaims).writeMode = false → columnPick s p (drainMode s p s.pcs[p].engineClaims) = some a → a.owner
     = .debug →
    Gives (.commandSelect p) s fun t =>
      t.pcs[p].cycle = s.pcs[p].cycle + 1 ∧ t.pcs[p].lastRd = some (s.pcs[p].cycle, a.loc.bankIx) ∧ (∀ r ∈ s.pcs[p].rq,
        ¬(r.acc.id = a.id ∧ r.issuedAt = none) ∨ RqEntry.mk r.acc r.poolAt r.poolNo r.grantAt (some s.pcs[p].cycle)
        (s.pcs[p].cycle + readBeats s p) r.run (s.stack.readBurst s.free r.acc.loc) ∈ t.pcs[p].rq) ∧ t.stack = s.stack
        ∧ (∀ q, q ≠ p → t.pcs[q] = s.pcs[q]) ∧ Keeps s t [.pcs, .free] ∧ KeepsRegs s t []) ∧
  (∀ (s : State) (p : Fin 64) (r : RqEntry) (err : List Byte), s.live (.pc p) = true → firstReturn s p false err = some
     r → r.acc.owner = .debug → decodeImage (withErrors r.image err) = .clean →
    Gives (.readDataReturn p err) s fun t =>
      t.paths.rets = s.paths.rets ++ [Ret64.mk r.acc.owner r.acc.loc (sliceBytes (withErrors r.image err) 0 64) false]
        ∧ (∀ x ∈ t.pcs[p].rq, x ∈ s.pcs[p].rq ∧ (x.acc.id ≠ r.acc.id ∨ x.acc.owner ≠ r.acc.owner)) ∧ (∀ q, q ≠ p →
        t.pcs[q] = s.pcs[q]) ∧ Keeps s t [.paths, .pcs] ∧ KeepsRegs s t []) ∧
  (∀ (s : State) (p : Fin 64) (r : RqEntry) (err : List Byte), s.live (.pc p) = true → firstReturn s p false err = some
     r → r.acc.owner = .debug → decodeImage (withErrors r.image err) = .poisoned →
    Gives (.readDataReturn p err) s fun t =>
      t.paths.rets = s.paths.rets ++ [Ret64.mk r.acc.owner r.acc.loc (zeros 64) true] ∧ t.bit (Reg.PC_ECC_STATUS
        r.acc.loc.pc) Fld.PC_ECC_STATUS_POISON_READ = true ∧ (∀ q, q ≠ p → t.pcs[q] = s.pcs[q]) ∧ Keeps s t [.paths,
        .pcs] ∧ KeepsRegs s t [Reg.PC_ECC_STATUS (pcFin r.acc.loc.pc)]) ∧
  (∀ (s : State) (p : Fin 64) (r : RqEntry) (err : List Byte) (n : Nat) (w : WqEntry), s.live (.pc p) = true →
     firstReturn s p true err = some r → r.acc.owner = .mergeRead n → decodeImage (withErrors r.image err) = .clean →
     (s.pcs[p].wq.find? fun w => w.acc.id = n) = some w → (s.pcs[p].rq.all fun x => decide (x.acc.loc ≠ w.acc.loc) ||
     x.issuedAt.isSome) = true →
    Gives (.mergeReadReturn p err) s fun t =>
      (∀ v ∈ t.pcs[p].wq, v.acc.id = n → v.merging = false ∧ v.acc.data = mergeBytes (sliceBytes (withErrors r.image
        err) 0 64) w.acc.data w.acc.mask ∧ fullMask v.acc.mask = true ∧ v.acc.poison = w.acc.poison) ∧ (∀ v ∈
        t.pcs[p].wq, v.acc.id ≠ n → v ∈ s.pcs[p].wq) ∧ (∀ q, q ≠ p → t.pcs[q] = s.pcs[q]) ∧ Keeps s t [.pcs] ∧
        KeepsRegs s t []) ∧
  (∀ (s : State) (p : Fin 64) (w : WqEntry), s.live (.pc p) = true → firstDriven s p = some w → w.retryFailed = false →
     w.acc.owner = .debug →
    Gives (.writeDataDriven p) s fun t =>
      (∀ i, i < 72 → t.stack.byte w.acc.loc i = (codedBurst w.acc.data w.acc.poison).getD i 0) ∧ t.stack.isUndef
        w.acc.loc = s.stack.absent w.acc.loc ∧ (∀ (l : Loc) i, i < 128 → l.burst ≠ w.acc.loc.burst → t.stack.byte l i =
        s.stack.byte l i) ∧ (∀ l : Loc, l.burst ≠ w.acc.loc.burst → t.stack.isUndef l = s.stack.isUndef l) ∧
        t.pcs[p].wq = s.pcs[p].wq.filter (fun x => x.acc.id ≠ w.acc.id) ∧ t.pcs[pcFin w.acc.loc.pc].knownBad.contains
        w.acc.loc.burst = false ∧ Keeps s t [.pcs, .stack] ∧ KeepsRegs s t []) ∧
  (∀ (s : State) (p : Fin 64) (a : Access), s.live (.pc p) = true → firstIntake s p [] s.paths.memXbar = some a →
     a.owner.inRun = true ∨ (s.redirOf a.loc.rank = none ∧ s.originOf a.loc.rank = none) →
    Gives (.intakeAccess p) s fun t =>
      t.pcs[p].pool = s.pcs[p].pool ++ [PoolEntry.mk a s.pcs[p].cycle s.pcs[p].poolNext (if a.owner.inRun = true then
        some a.loc.col else none)] ∧ (∀ e ∈ t.paths.memXbar, e ∈ s.paths.memXbar ∧ e.2.id ≠ a.id) ∧ (∀ q, q ≠ p →
        t.pcs[q] = s.pcs[q]) ∧ Keeps s t [.inj, .paths, .pcs, .ring, .tags] ∧ KeepsRegs s t pathRegs) ∧
  (∀ (s : State) (p : Fin 64) (e : PoolEntry), s.live (.pc p) = true → s.cycleRuns p = true → s.grantsRun p = true →
     s.pcs[p].mayGrant = true → s.pcs[p].debugAcc = none → arbiterPick s p = some e →
    Gives (.slotGrant p) s fun t =>
      (∀ x ∈ s.pcs[p].pool, x.acc.id ≠ e.acc.id → x ∈ t.pcs[p].pool) ∧ (∀ x ∈ t.pcs[p].pool, (x ∈ s.pcs[p].pool ∧
        x.acc.id ≠ e.acc.id) ∨ x.acc.owner = .mirror) ∧ t.pcs[p].granted = true ∧ t.pcs[p].slotDone = true ∧
        t.pcs[p].lastGrant = some s.pcs[p].cycle ∧ t.pcs[p].starve = (s.pcs[p].starve + 1) % s.gf (Reg.SLOT_CTRL p)
        Fld.SLOT_CTRL_STARVE_N ∧ Keeps s t [.copiers, .inj, .paths, .pcs, .ring, .tags] ∧ KeepsRegs s t
        (Reg.PC_ECC_STATUS p :: pathRegs)) ∧
  (∀ (s : State) (p : Fin 64) (a : Access), s.live (.pc p) = true → s.cycleRuns p = true → s.grantsRun p = true →
     s.pcs[p].mayGrant = true → s.pcs[p].debugAcc = some a → s.queueFree p a = true →
    Gives (.slotGrant p) s fun t =>
      t.pcs[p].debugAcc = none ∧ t.pcs[p].granted = true ∧ t.pcs[p].slotDone = true ∧ t.pcs[p].starve = s.pcs[p].starve
        ∧ Keeps s t [.copiers, .inj, .paths, .pcs, .ring, .tags] ∧ KeepsRegs s t (Reg.PC_ECC_STATUS p :: pathRegs)) ∧
  (∀ (s : State) (p : Fin 64), s.live (.pc p) = true → s.cycleRuns p = true →
    Gives (.commandSelect p) s fun t =>
      t.pcs[p].cycle = s.pcs[p].cycle + 1 ∧ t.pcs[p].due = s.cyclesDue p - 10 ∧ t.pcs[p].dueAt = s.clk.raw ∧
        (s.pcs[p].replay = none → t.stack = s.stack) ∧ Keeps s t [.age, .free, .inbox, .inj, .paths, .pcs, .ring,
        .stack, .tags] ∧ KeepsRegs s t (Reg.PC_ECC_STATUS p :: Reg.PC_INJ :: fecRegs ++ allRedirs ++ pathRegs)) ∧
  (∀ (s : State) (p : Fin 64) (r : RqEntry) (err : List Byte), s.live (.pc p) = true → firstReturn s p false err = some
     r →
    Gives (.readDataReturn p err) s fun t =>
      (∀ x ∈ t.pcs[p].rq, x ∈ s.pcs[p].rq ∧ (x.acc.id ≠ r.acc.id ∨ x.acc.owner ≠ r.acc.owner)) ∧ t.stack = s.stack ∧
        Keeps s t [.inbox, .inj, .paths, .pcs, .ring, .tags] ∧ KeepsRegs s t (checkRegs p ++ pathRegs)) ∧
  (∀ (s : State) (p : Fin 64) (r : RqEntry) (err : List Byte) (n : Nat) (w : WqEntry), s.live (.pc p) = true →
     firstReturn s p true err = some r → r.acc.owner = .mergeRead n → (s.pcs[p].wq.find? fun w => w.acc.id = n) = some
     w →
    Gives (.mergeReadReturn p err) s fun t =>
      (∀ x ∈ t.pcs[p].rq, x ∈ s.pcs[p].rq ∧ (x.acc.id ≠ r.acc.id ∨ x.acc.owner ≠ r.acc.owner)) ∧ t.stack = s.stack ∧
        Keeps s t [.inbox, .inj, .paths, .pcs, .ring, .tags] ∧ KeepsRegs s t (checkRegs p ++ pathRegs)) ∧
  (∀ (s : State) (p : Fin 64) (w : WqEntry), s.live (.pc p) = true → firstDriven s p = some w →
    Gives (.writeDataDriven p) s fun t =>
      (∀ i, i < 72 → t.stack.byte w.acc.loc i = (codedBurst w.acc.data w.acc.poison).getD i 0) ∧ t.stack.isUndef
        w.acc.loc = s.stack.absent w.acc.loc ∧ (∀ (l : Loc) i, i < 128 → l.burst ≠ w.acc.loc.burst → t.stack.byte l i =
        s.stack.byte l i) ∧ t.pcs[p].wq = s.pcs[p].wq.filter (fun x => x.acc.id ≠ w.acc.id) ∧ Keeps s t [.inbox, .pcs,
        .stack, .tags] ∧ KeepsRegs s t (Reg.PC_ECC_STATUS p :: fecRegs ++ allRedirs))

/-- A narrow request of a row with no open entry allocates one (R118); a closed entry places its bursts into the
pool, one access of class 4 each (R119); an entry whose last burst has completed is freed (R120). Forms stated to
complete (exec answers next): pannierRequest, pannierWindowClose, pannierEntryFree. -/
def Obligations.PannierPath : Prop :=
  (∀ (s : State) (p : Fin 64) (n : Narrow), s.live (.pc p) = true → (s.paths.panXbar.find? fun x => x.1 = p.val) = some
     (p.val, n) → s.pcs[p].pan = [] →
    Gives (.pannierRequest p) s fun t =>
      t.pcs[p].pan.map (fun x => (x.loc, x.reqs, x.bursts, x.openAt, x.placed)) = [(s.physLoc n.req.addr, [n],
        [n.burst], s.pcs[p].cycle, false)] ∧ t.paths.panXbar = s.paths.panXbar.erase (p.val, n) ∧ (∀ q, q ≠ p →
        t.pcs[q] = s.pcs[q]) ∧ Keeps s t [.paths, .pcs, .tags] ∧ KeepsRegs s t []) ∧
  (∀ (s : State) (p : Fin 64) (x : PanEntry) (col : Nat), s.live (.pc p) = true → s.pcs[p].pan = [x] → x.placed = false
     → x.closed = true → x.bursts = [col] → s.pcs[p].held 4 < 8 → x.loc.rank % 64 = p.val → s.redirOf x.loc.rank = none
     → s.originOf x.loc.rank = none → s.tags.live = [] →
    Gives (.pannierWindowClose p) s fun t =>
      t.pcs[p].pool.length = s.pcs[p].pool.length + 1 ∧ t.pcs[p].pool.getLast?.map (fun e => (e.acc.cls, e.acc.loc,
        e.acc.owner, e.at_)) = some (4, Loc.mk x.loc.rank x.loc.bg x.loc.bank x.loc.row col, Owner.pannier p x.id col,
        s.pcs[p].cycle) ∧ (∀ y ∈ t.pcs[p].pan, y.placed = true ∧ y.left = [col]) ∧ (∀ q, q ≠ p → t.pcs[q] = s.pcs[q]) ∧
        Keeps s t [.paths, .pcs, .tags] ∧ KeepsRegs s t []) ∧
  (∀ (s : State) (p : Fin 64) (x : PanEntry), s.live (.pc p) = true → (s.pcs[p].pan.find? fun y => y.placed &&
     y.left.isEmpty) = some x →
    Gives (.pannierEntryFree p) s fun t =>
      t.pcs[p].pan = s.pcs[p].pan.filter (fun y => y.id ≠ x.id) ∧ t.pcs[p].pool = s.pcs[p].pool ∧ (∀ q, q ≠ p →
        t.pcs[q] = s.pcs[q]) ∧ Keeps s t [.pcs] ∧ KeepsRegs s t []) ∧
  (∀ (s : State) (p : Fin 64) (n : Narrow), s.live (.pc p) = true → (s.paths.panXbar.find? fun x => x.1 = p.val) = some
     (p.val, n) → s.pcs[p].pan.length < 32 →
    Gives (.pannierRequest p) s fun t =>
      (∃ x ∈ t.pcs[p].pan, n ∈ x.reqs ∧ n.burst ∈ x.bursts) ∧ t.paths.panXbar = s.paths.panXbar.erase (p.val, n) ∧ (∀
        q, q ≠ p → t.pcs[q] = s.pcs[q]) ∧ Keeps s t [.paths, .pcs, .tags] ∧ KeepsRegs s t []) ∧
  (∀ (s : State) (p : Fin 64) (x : PanEntry), s.live (.pc p) = true → (s.pcs[p].pan.find? fun y => !y.placed &&
     (y.closed || decide (y.openAt + s.gf (Reg.PC_PANNIER p) Fld.PC_PANNIER_WINDOW ≤ s.pcs[p].cycle))) = some x →
     s.pcs[p].held 4 + x.bursts.length ≤ 8 →
    Gives (.pannierWindowClose p) s fun t =>
      (∀ y ∈ t.pcs[p].pan, y.id = x.id → y.closed = true ∧ y.placed = true ∧ y.left = y.bursts) ∧ t.pcs[p].pan.map
        (·.id) = s.pcs[p].pan.map (·.id) ∧ Keeps s t [.inj, .paths, .pcs, .ring, .tags] ∧ KeepsRegs s t (allRedirs ++
        pathRegs))

/-- A timing register takes a write clamped field by field while the PC has granted nothing or a truing window is
open, and refuses it otherwise (R105, R106); PC_DRAIN keeps LOW below HIGH (R106); ARM arms a shift that is 1 µs
away, is refused while ARMED and late otherwise (R140, R141), DISARM disarms it (R143), and STARVE_N is kept within 4
to 64 (R136). Forms stated to complete (exec answers next): timingRegisterWrite, pcDrainWrite, slotArm, slotDisarm,
starveNWrite, slotClassPrioWrite. -/
def Obligations.ControllerRegisters : Prop :=
  (∀ (s : State) (p : Fin 64) (r : TimReg) (v : Word), s.mgtReady = true → s.live (.pc p) = true → s.pcs[p].granted =
     false →
    Gives (.timingRegisterWrite p r v) s fun t =>
      t.rd (r.offset p) = BitVec.ofNat 32 (clampWord r.ranges v.toNat) ∧ Answered s t false ∧ Keeps s t [.mgt] ∧
        (outOfRange r.ranges v.toNat = true → t.bit (Reg.PC_SCHED_STATUS p) Fld.PC_SCHED_STATUS_TIMING_CLAMPED = true)
        ∧ KeepsRegs s t [r.offset p, Reg.PC_SCHED_STATUS p]) ∧
  (∀ (s : State) (p : Fin 64) (r : TimReg) (v : Word), s.mgtReady = true → s.live (.pc p) = true → s.pcs[p].granted =
     true → s.bit (Reg.PC_SCHED_STATUS p) Fld.PC_SCHED_STATUS_TRUING = false →
    Gives (.timingRegisterWrite p r v) s fun t =>
      t.rd (r.offset p) = s.rd (r.offset p) ∧ t.bit (Reg.PC_SCHED_STATUS p) Fld.PC_SCHED_STATUS_TIM_WRITE_REFUSED =
        true ∧ Answered s t false ∧ Keeps s t [.mgt] ∧ KeepsRegs s t [Reg.PC_SCHED_STATUS p]) ∧
  (∀ (s : State) (p : Fin 64) (v : Word), s.mgtReady = true → s.live (.pc p) = true →
    Gives (.pcDrainWrite p v) s fun t =>
      t.gf (Reg.PC_DRAIN p) Fld.PC_DRAIN_LOW < t.gf (Reg.PC_DRAIN p) Fld.PC_DRAIN_HIGH ∧ t.gf (Reg.PC_DRAIN p)
        Fld.PC_DRAIN_HIGH = max 1 (min 48 (v.toNat / 2 ^ 24 % 64)) ∧ t.gf (Reg.PC_DRAIN p) Fld.PC_DRAIN_MIN_BATCH =
        max 1 (min 48 (v.toNat / 2 ^ 12 % 64)) ∧ Answered s t false ∧ Keeps s t [.mgt] ∧ KeepsRegs s t [Reg.PC_DRAIN
        p, Reg.PC_SCHED_STATUS p]) ∧
  (∀ (s : State) (p : Fin 64) (v : Word), s.mgtReady = true → s.live (.pc p) = true → s.bit (Reg.SLOT_STATUS p)
     Fld.SLOT_STATUS_ARMED = false → s.now (.pc p) + 1000 ≤ s.rd64 (Reg.SLOT_SHIFT_TIME p) →
    Gives (.slotArm p v) s fun t =>
      t.bit (Reg.SLOT_STATUS p) Fld.SLOT_STATUS_ARMED = true ∧ (s.badShadow p = true → t.bit (Reg.SLOT_STATUS p)
        Fld.SLOT_STATUS_BAD_SLOT_CODE = true) ∧ t.gf (Reg.SLOT_CTRL p) Fld.SLOT_CTRL_STARVE_N = max 4 (min 64 (v.toNat
        % 128)) ∧ Answered s t false ∧ Keeps s t [.mgt] ∧ KeepsRegs s t [Reg.SLOT_STATUS p, Reg.SLOT_CTRL p]) ∧
  (∀ (s : State) (p : Fin 64) (v : Word), s.mgtReady = true → s.live (.pc p) = true → s.bit (Reg.SLOT_STATUS p)
     Fld.SLOT_STATUS_ARMED = false → s.rd64 (Reg.SLOT_SHIFT_TIME p) < s.now (.pc p) + 1000 →
    Gives (.slotArm p v) s fun t =>
      t.bit (Reg.SLOT_STATUS p) Fld.SLOT_STATUS_ARMED = false ∧ t.bit (Reg.SLOT_STATUS p) Fld.SLOT_STATUS_SHIFT_LATE =
        true ∧ Answered s t false ∧ Keeps s t [.mgt] ∧ KeepsRegs s t [Reg.SLOT_STATUS p, Reg.SLOT_CTRL p]) ∧
  (∀ (s : State) (p : Fin 64) (v : Word), s.mgtReady = true → s.live (.pc p) = true →
    Gives (.slotDisarm p v) s fun t =>
      t.bit (Reg.SLOT_STATUS p) Fld.SLOT_STATUS_ARMED = false ∧ t.gf (Reg.SLOT_CTRL p) Fld.SLOT_CTRL_STARVE_N = max 4
        (min 64 (v.toNat % 128)) ∧ Answered s t false ∧ Keeps s t [.mgt] ∧ KeepsRegs s t [Reg.SLOT_STATUS p,
        Reg.SLOT_CTRL p]) ∧
  (∀ (s : State) (p : Fin 64) (v : Word), s.mgtReady = true → s.live (.pc p) = true →
    Gives (.starveNWrite p v) s fun t =>
      t.gf (Reg.SLOT_CTRL p) Fld.SLOT_CTRL_STARVE_N = max 4 (min 64 (v.toNat % 128)) ∧ t.bit (Reg.SLOT_STATUS p)
        Fld.SLOT_STATUS_ARMED = s.bit (Reg.SLOT_STATUS p) Fld.SLOT_STATUS_ARMED ∧ (v.toNat % 128 < 4 ∨ 64 < v.toNat %
        128 → t.bit (Reg.SLOT_STATUS p) Fld.SLOT_STATUS_STARVE_N_CLAMPED = true) ∧ Answered s t false ∧ Keeps s t
        [.mgt] ∧ KeepsRegs s t [Reg.SLOT_STATUS p, Reg.SLOT_CTRL p]) ∧
  (∀ (s : State) (v : Word), s.mgtReady = true → s.live .sensor = true →
    Gives (.slotClassPrioWrite v) s fun t =>
      t.rd Reg.SLOT_CLASS_PRIO = v ∧ (∀ cls, cls < 8 → t.classPrio cls = v.toNat / 2 ^ (4 * cls) % 16) ∧ Answered s t
        false ∧ Keeps s t [.mgt] ∧ KeepsRegs s t [Reg.SLOT_CLASS_PRIO])

/-- When SHIFT_TIME has come the armed shift swaps the active and the shadow bank word by word, slot 0 begins, ARMED
falls and SHIFT_COUNT increments modulo its width; nothing of another PC changes (R142). Forms stated to complete
(exec answers next): slotShift. -/
def Obligations.SlotShift : Prop :=
  (∀ (s : State) (p : Fin 64), s.live (.pc p) = true → s.bit (Reg.SLOT_STATUS p) Fld.SLOT_STATUS_ARMED = true → s.rd64
     (Reg.SLOT_SHIFT_TIME p) ≤ s.now (.pc p) →
    Gives (.slotShift p) s fun t =>
      (∀ w, w < 32 → t.rd (Reg.SLOT_ACTIVE p w) = s.rd (Reg.SLOT_SHADOW p w) ∧ t.rd (Reg.SLOT_SHADOW p w) = s.rd
        (Reg.SLOT_ACTIVE p w)) ∧ t.bit (Reg.SLOT_STATUS p) Fld.SLOT_STATUS_ARMED = false ∧ t.gf (Reg.SLOT_STATUS p)
        Fld.SLOT_STATUS_SLOT = 0 ∧ t.gf (Reg.SLOT_STATUS p) Fld.SLOT_STATUS_SHIFT_COUNT = (s.gf (Reg.SLOT_STATUS p)
        Fld.SLOT_STATUS_SHIFT_COUNT + 1) % 2 ^ Fld.SLOT_STATUS_SHIFT_COUNT.width ∧ t.gf (Reg.SLOT_STATUS p)
        Fld.SLOT_STATUS_ACTIVE_BANK = 1 - s.gf (Reg.SLOT_STATUS p) Fld.SLOT_STATUS_ACTIVE_BANK ∧ (∀ q, q ≠ p →
        t.pcs[q] = s.pcs[q]) ∧ Keeps s t [.pcs] ∧ (∀ o, (o < 0x100000 + 4096 * p.val ∨ 0x100000 + 4096 * p.val + 4096
        ≤ o) → t.rd o = s.rd o))

/-- A debug access becomes pending at its PC (R147); one that names no row of a bank (R92), meets an island in reset
or another debug access changes nothing, the last by the model's choice: log entry 77. A run puts its accesses on
consecutive bursts of its row on their way and is held as the run of its class (R148); a suspended run goes on once
its bank is free and no debug access is pending (R149). Forms stated to complete (exec answers next):
debugMemoryAccess, runSubmit, runResume. -/
def Obligations.DebugAndRuns : Prop :=
  (∀ (s : State) (rank : BitVec 8) (bg bank : BitVec 2) (row : BitVec 15) (col : BitVec 4) (write : Bool) (data : List
     Byte), row.toNat < rowsPerBank → s.live (.pc (pcFin (rank.toNat % 64))) = true → s.pcs[pcFin (rank.toNat %
     64)].debugAcc = none →
    Gives (.debugMemoryAccess rank bg bank row col write data) s fun t =>
      t.pcs[pcFin (rank.toNat % 64)].debugAcc.map (fun a => (a.loc, a.write, a.data, a.owner)) = some (Loc.mk
        rank.toNat bg.toNat bank.toNat row.toNat col.toNat, write, data, Owner.debug) ∧ (∀ q, q ≠ pcFin (rank.toNat %
        64) → t.pcs[q] = s.pcs[q]) ∧ Keeps s t [.paths, .pcs] ∧ KeepsRegs s t []) ∧
  (∀ (s : State) (rank : BitVec 8) (bg bank : BitVec 2) (row : BitVec 15) (col : BitVec 4) (write : Bool) (data : List
     Byte), rowsPerBank ≤ row.toNat ∨ s.live (.pc (pcFin (rank.toNat % 64))) = false ∨ s.pcs[pcFin (rank.toNat %
     64)].debugAcc ≠ none →
    Gives (.debugMemoryAccess rank bg bank row col write data) s fun t =>
      t = s) ∧
  (∀ (s : State) (p : Fin 64) (e : Fin 16) (write : Bool) (group bg bank : Fin 4) (row : BitVec 15) (col : BitVec 4)
     (len : BitVec 5) (data : List (List Byte)), s.live (.pc p) = true → s.pcs[p].run6 = none → 0 < len.toNat →
     col.toNat + len.toNat ≤ 16 →
    Gives (.runSubmit p (some e) write group bg bank row col len data) s fun t =>
      t.pcs[p].run6.map (fun r => (r.len, r.write, r.suspended, r.done, r.loc)) = some (len.toNat, write, false, 0,
        Loc.mk (group.val * 64 + p.val) bg bank row.toNat col.toNat) ∧ t.paths.memXbar.length = s.paths.memXbar.length
        + len.toNat ∧ (∀ k : Nat, k < len.toNat → (t.paths.memXbar.any fun a => decide (a.1 = p.val ∧ a.2.write = write
        ∧ a.2.cls = 6 ∧ a.2.loc = Loc.mk (group.val * 64 + p.val) bg bank row.toNat (col.toNat + k))) = true) ∧ (∀ q, q
        ≠ p → t.pcs[q] = s.pcs[q]) ∧ Keeps s t [.paths, .pcs] ∧ KeepsRegs s t []) ∧
  (∀ (s : State) (p : Fin 64) (r : Run), s.live (.pc p) = true → s.pcs[p].run6 = some r → (s.pcs[p].bankOf
     r.loc.bankIx).claim = .none → s.pcs[p].debugBusy = false →
    Gives (.runResume p false) s fun t =>
      t.pcs[p].run6.map (fun x => (x.suspended, x.progress, x.loc, x.len)) = some (false, r.progress, r.loc, r.len) ∧
        t.pcs[p].run7 = s.pcs[p].run7 ∧ (∀ q, q ≠ p → t.pcs[q] = s.pcs[q]) ∧ Keeps s t [.pcs] ∧ KeepsRegs s t []) ∧
  (∀ (s : State) (p : Fin 64) (write : Bool) (group bg bank : Fin 4) (row : BitVec 15) (col : BitVec 4) (len : BitVec
     5) (data : List (List Byte)), s.live (.pc p) = true → s.pcs[p].run7 = none → 0 < len.toNat → col.toNat + len.toNat
     ≤ 16 →
    Gives (.runSubmit p none write group bg bank row col len data) s fun t =>
      t.pcs[p].run7.map (fun r => (r.len, r.write, r.suspended, r.done, r.loc)) = some (len.toNat, write, false, 0,
        Loc.mk (group.val * 64 + p.val) bg bank row.toNat col.toNat) ∧ t.paths.memXbar.length = s.paths.memXbar.length
        + len.toNat ∧ (∀ a ∈ t.paths.memXbar, a ∈ s.paths.memXbar ∨ (a.1 = p.val ∧ a.2.cls = 7 ∧ a.2.write = write)) ∧
        (∀ q, q ≠ p → t.pcs[q] = s.pcs[q]) ∧ Keeps s t [.paths, .pcs] ∧ KeepsRegs s t []) ∧
  (∀ (s : State) (p : Fin 64) (r : Run), s.live (.pc p) = true → s.pcs[p].run7 = some r → (s.pcs[p].bankOf
     r.loc.bankIx).claim = .none → s.pcs[p].debugBusy = false →
    Gives (.runResume p true) s fun t =>
      t.pcs[p].run7.map (fun x => (x.suspended, x.progress, x.loc, x.len)) = some (false, r.progress, r.loc, r.len) ∧
        t.pcs[p].run6 = s.pcs[p].run6 ∧ (∀ q, q ≠ p → t.pcs[q] = s.pcs[q]) ∧ Keeps s t [.pcs] ∧ KeepsRegs s t [])

/-! ### Host ports (02) -/

/-- A well-formed READ of this instance's range leaves its port for its slice (R28, R53); one to a hole is answered
ABSENT and one with a reserved SIZE BAD_REQUEST, at once (R50, R51); a WRITE waits for its data and leaves with it
(R53); a response beat gives status and data and its last beat frees the tag (R54). With 64 requests queued nothing
is taken (R52). Forms stated to complete (exec answers next): hostRequest, hostWriteDataBeat, hostResponseBeat. -/
def Obligations.HostPortTraffic : Prop :=
  (∀ (s : State) (n : Fin 16) (addr : BitVec 52) (size : BitVec 3) (hint : BitVec 2) (disc urg : Bool) (tag : BitVec 7)
     (attr : BitVec 16) (sz l : Nat), s.live (.hostPort n) = true → s.portReady n = true → s.paths.ports[n].txns = [] →
     sizeOfCode size.toNat = some sz → sz ≤ 128 → addr.toNat % sz = 0 → s.route addr.toNat = .own l → s.shutdown =
     false → s.pwr.failed = false → (s.gf Reg.CACHE_FENCE Fld.CACHE_FENCE_PENDING).testBit (s.sliceOf addr.toNat) =
     false →
    Gives (.hostRequest n addr 0 size hint disc urg tag attr) s fun t =>
      t.paths.reqXbar.length = s.paths.reqXbar.length + 1 ∧ t.paths.reqXbar.getLast?.map (fun r => (r.src, r.op,
        r.addr, r.size, r.hint, r.cls)) = some (Src.host n, HostOp.read, addr.toNat, sz, Hint.ofCode hint.toNat, if urg
        then 0 else 1) ∧ t.paths.ports[n].txns.map (fun x => (x.tag, x.sent, x.partsLeft, x.ready)) = [(tag.toNat,
        true, 1, false)] ∧ (∀ m, m ≠ n → t.paths.ports[m] = s.paths.ports[m]) ∧ t.paths.slices = s.paths.slices ∧ Keeps
        s t [.paths, .tags] ∧ KeepsRegs s t tagRegs) ∧
  (∀ (s : State) (n : Fin 16) (addr : BitVec 52) (size : BitVec 3) (hint : BitVec 2) (disc urg : Bool) (tag : BitVec 7)
     (attr : BitVec 16) (sz : Nat), s.live (.hostPort n) = true → s.portReady n = true → s.paths.ports[n].txns = [] →
     sizeOfCode size.toNat = some sz → addr.toNat % sz = 0 → s.route addr.toNat = .hole →
    Gives (.hostRequest n addr 0 size hint disc urg tag attr) s fun t =>
      t.paths.reqXbar = s.paths.reqXbar ∧ t.paths.ports[n].txns.map (fun x => (x.tag, x.ready, x.status, x.hasData)) =
        [(tag.toNat, true, Status.absent, false)] ∧ (∀ m, m ≠ n → t.paths.ports[m] = s.paths.ports[m]) ∧ Keeps s t
        [.paths, .tags] ∧ KeepsRegs s t tagRegs) ∧
  (∀ (s : State) (n : Fin 16) (addr : BitVec 52) (size : BitVec 3) (hint : BitVec 2) (disc urg : Bool) (tag : BitVec 7)
     (attr : BitVec 16), s.live (.hostPort n) = true → s.portReady n = true → s.paths.ports[n].txns = [] → sizeOfCode
     size.toNat = none →
    Gives (.hostRequest n addr 0 size hint disc urg tag attr) s fun t =>
      t.paths.reqXbar = s.paths.reqXbar ∧ t.paths.ports[n].txns.map (fun x => (x.tag, x.ready, x.status)) =
        [(tag.toNat, true, Status.badRequest)] ∧ (∀ m, m ≠ n → t.paths.ports[m] = s.paths.ports[m]) ∧ Keeps s t
        [.paths, .tags] ∧ KeepsRegs s t tagRegs) ∧
  (∀ (s : State) (n : Fin 16) (addr : BitVec 52) (size : BitVec 3) (hint : BitVec 2) (disc urg : Bool) (tag : BitVec 7)
     (attr : BitVec 16) (sz : Nat), s.live (.hostPort n) = true → s.portReady n = true → s.paths.ports[n].txns = [] →
     sizeOfCode size.toNat = some sz →
    Gives (.hostRequest n addr 1 size hint disc urg tag attr) s fun t =>
      t.paths.reqXbar = s.paths.reqXbar ∧ t.paths.ports[n].txns.map (fun x => (x.tag, x.op, x.addr, x.size,
        x.beatsLeft, x.sent)) = [(tag.toNat, HostOp.write, addr.toNat, sz, if sz = 256 then 2 else 1, false)] ∧ (∀ m, m
        ≠ n → t.paths.ports[m] = s.paths.ports[m]) ∧ Keeps s t [.paths, .tags] ∧ KeepsRegs s t tagRegs) ∧
  (∀ (s : State) (n : Fin 16) (addr : BitVec 52) (op : BitVec 4) (size : BitVec 3) (hint : BitVec 2) (disc urg : Bool)
     (tag : BitVec 7) (attr : BitVec 16), 64 ≤ s.paths.ports[n].queued (HostOp.ofCode op.toNat).writes →
    Gives (.hostRequest n addr op size hint disc urg tag attr) s fun t =>
      t = s) ∧
  (∀ (s : State) (n : Fin 16) (x : HostTxn) (data : List Byte) (strb : List Bool) (last : Bool) (l : Nat), s.live
     (.hostPort n) = true → s.paths.ports[n].txns = [x] → x.port = n → x.op = .write → x.size = 128 → x.addr % 128 = 0
     → x.beatsLeft = 1 → x.discardBeats = false → x.strobeOut = false → x.data = [] → x.strb = [] → x.sent = false →
     data.length = 128 → strb.length = 128 → s.route x.addr = .own l → s.shutdown = false → s.pwr.failed = false →
     (s.gf Reg.CACHE_FENCE Fld.CACHE_FENCE_PENDING).testBit (s.sliceOf x.addr) = false →
    Gives (.hostWriteDataBeat n data strb last) s fun t =>
      t.paths.reqXbar.length = s.paths.reqXbar.length + 1 ∧ t.paths.reqXbar.getLast?.map (fun r => (r.src, r.op,
        r.addr, r.size, r.data, r.strb)) = some (Src.host n, HostOp.write, x.addr, 128, data, strb) ∧
        t.paths.ports[n].txns.map (fun y => (y.tag, y.sent, y.partsLeft)) = [(x.tag, true, 1)] ∧ (∀ m, m ≠ n →
        t.paths.ports[m] = s.paths.ports[m]) ∧ Keeps s t [.paths, .tags] ∧ KeepsRegs s t []) ∧
  (∀ (s : State) (n : Fin 16) (x : HostTxn) (tag : BitVec 7), s.live (.hostPort n) = true → s.paths.ports[n].answering
     tag.toNat = some x → x.beats ≤ x.beatsOut + 1 → s.tags.live = [] →
    Gives (.hostResponseBeat n tag) s fun t =>
      t.paths.ports[n].out = s.paths.ports[n].out ++ [RspBeat.mk x.tag x.status x.hasData (if x.hasData then
        (x.rsp.drop (128 * x.beatsOut)).take 128 else []) true] ∧ t.paths.ports[n].txns = s.paths.ports[n].txns.filter
        (fun y => y.id ≠ x.id) ∧ (∀ m, m ≠ n → t.paths.ports[m] = s.paths.ports[m]) ∧ Keeps s t [.paths] ∧ KeepsRegs s
        t []) ∧
  (∀ (s : State) (n : Fin 16) (addr : BitVec 52) (op : BitVec 4) (size : BitVec 3) (hint : BitVec 2) (disc urg : Bool)
     (tag : BitVec 7) (attr : BitVec 16), s.live (.hostPort n) = true → s.portReady n = true → s.paths.ports[n].queued
     (HostOp.ofCode op.toNat).writes < 64 →
    Gives (.hostRequest n addr op size hint disc urg tag attr) s fun t =>
      (∃ x ∈ t.paths.ports[n].txns, x.tag = tag.toNat ∧ x.op = HostOp.ofCode op.toNat ∧ x.addr = addr.toNat ∧ x.size =
        (sizeOfCode size.toNat).getD 0) ∧ t.paths.ports[n].txns.length = s.paths.ports[n].txns.length + 1 ∧
        t.paths.slices = s.paths.slices ∧ Keeps s t [.inj, .paths, .ring, .tags] ∧ KeepsRegs s t pathRegs) ∧
  (∀ (s : State) (n : Fin 16) (x : HostTxn) (data : List Byte) (strb : List Bool) (last : Bool), s.live (.hostPort n) =
     true → (s.paths.ports[n].txns.find? fun y => y.discardBeats || decide (0 < y.beatsLeft)) = some x →
    Gives (.hostWriteDataBeat n data strb last) s fun t =>
      (∃ y ∈ t.paths.ports[n].txns, y.id = x.id ∧ (x.discardBeats = true → y.discardBeats = !last) ∧ (x.discardBeats =
        false → y.beatsLeft = x.beatsLeft - 1 ∧ y.data.length = x.data.length + min x.size 128)) ∧
        t.paths.ports[n].txns.length = s.paths.ports[n].txns.length ∧ t.paths.slices = s.paths.slices ∧ Keeps s t
        [.inj, .paths, .ring, .tags] ∧ KeepsRegs s t pathRegs) ∧
  (∀ (s : State) (n : Fin 16) (x : HostTxn) (tag : BitVec 7), s.live (.hostPort n) = true → s.paths.ports[n].answering
     tag.toNat = some x →
    Gives (.hostResponseBeat n tag) s fun t =>
      t.paths.ports[n].out = s.paths.ports[n].out ++ [RspBeat.mk x.tag x.status x.hasData (if x.hasData then
        (x.rsp.drop (128 * x.beatsOut)).take 128 else []) (decide (x.beats ≤ x.beatsOut + 1))] ∧ (x.beatsOut + 1 <
        x.beats → t.paths.ports[n].txns = s.paths.ports[n].txns.map (fun y => if y.id = x.id then
        { y with beatsOut := y.beatsOut + 1 } else y)) ∧ (∀ m, m ≠ n → t.paths.ports[m] = s.paths.ports[m]) ∧ Keeps s t
        [.paths, .tags] ∧ KeepsRegs s t tagRegs)

/-! ### The shared cache (07) -/

/-- The request `r` stands at the head of a slice's input queue, no line is locked, and way `k` holds its line with both
  sectors there and neither poisoned. -/
  abbrev Sys2Proof.Machine.AtHead (s : State) (sl : Fin 16) (r : Req) (rest : List Req) (k : Nat) : Prop :=
    s.answers sl = true ∧ s.paths.slices[sl].input = r :: rest ∧ s.paths.slices[sl].misses = [] ∧ s.wbLines sl = [] ∧
      s.paths.slices[sl].find (lineNo r.addr) = some k ∧ (s.paths.slices[sl].way k).lo.valid = true ∧
      (s.paths.slices[sl].way k).hi.valid = true ∧ (s.paths.slices[sl].way k).lo.poison = false ∧
      (s.paths.slices[sl].way k).hi.poison = false

/-- The request `r` stands at the head of a slice's input queue, and the slice has room for what its service leaves in the
  miss entries and in the write-back buffer (R36, R192). -/
  abbrev Sys2Proof.Machine.HeadFits (s : State) (sl : Fin 16) (r : Req) (rest : List Req) : Prop :=
    s.answers sl = true ∧ s.paths.slices[sl].input = r :: rest ∧
      ((((((s.stamp r.id 3 (s.now (.slice sl))).modTag r.id fun t => { t with slice := sl, cls := r.cls }).modSlice sl
        fun x => { x with input := rest }).dispatchReq sl r).tagPath sl r).sliceFits sl) = true

/-- The transaction of a host port's request takes up the answer to one of its parts; no other port changes (R54). -/
  abbrev Sys2Proof.Machine.Answers (s t : State) (n : Fin 16) (r : Req) (st : Status) (data : List Byte) : Prop :=
    t.paths.ports[n].txns = s.paths.ports[n].txns.map (fun x => if x.id = r.id then x.part r.addr st data else x) ∧
      t.paths.ports[n].out = s.paths.ports[n].out ∧ ∀ m, m ≠ n → t.paths.ports[m] = s.paths.ports[m]

/-- The 128 bytes of way `k` of a slice. -/
  def Sys2Proof.Machine.lineOf (s : State) (sl : Fin 16) (k : Nat) : List Byte := (s.paths.slices[sl].way k).bytes

/-- A READ of a line that is there answers its bytes and changes none (R185); a WRITE puts its strobed bytes into the
line, leaves every other byte and makes the sectors it touches dirty (R185), but is refused under a reduction entry
(R205); a CLEAN of a clean line answers at once and leaves it, of a dirty one sends its dirty sectors and leaves it
clean (R189). Forms stated to complete (exec answers next): hostRead, hostWrite, clean. -/
def Obligations.CacheReadsAndWrites : Prop :=
  (∀ (s : State) (sl n : Fin 16) (r : Req) (rest : List Req) (k : Nat), AtHead s sl r rest k → r.op = .read → r.src =
     .host n → r.hint = .normal → r.prefetch = false → s.paths.slices[sl].red (lineNo r.addr) = none →
    Gives (.hostRead sl) s fun t =>
      Answers s t n r .ok (sliceBytes (lineOf s sl k) r.offset r.size) ∧ lineOf t sl k = lineOf s sl k ∧
        t.paths.slices[sl].input = rest ∧ t.paths.slices[sl].misses = [] ∧ t.paths.memXbar = s.paths.memXbar ∧ (∀ x, x
        ≠ sl → t.paths.slices[x] = s.paths.slices[x]) ∧ Keeps s t [.paths, .tags] ∧ KeepsRegs s t []) ∧
  (∀ (s : State) (sl n : Fin 16) (r : Req) (rest : List Req) (k : Nat), AtHead s sl r rest k → r.op = .write → r.src =
     .host n → r.hint = .normal → r.prefetch = false → s.paths.slices[sl].red (lineNo r.addr) = none →
    Gives (.hostWrite sl) s fun t =>
      Answers s t n r .ok [] ∧ (∀ i, i < 128 → (lineOf t sl k).getD i 0 = if r.strobe i then r.data.getD (i - r.offset)
        0 else (lineOf s sl k).getD i 0) ∧ (∀ i ∈ r.touched, ((t.paths.slices[sl].way k).sector i).dirty = true) ∧
        t.paths.slices[sl].input = rest ∧ t.paths.memXbar = s.paths.memXbar ∧ (∀ x, x ≠ sl → t.paths.slices[x] =
        s.paths.slices[x]) ∧ Keeps s t [.paths, .tags] ∧ KeepsRegs s t []) ∧
  (∀ (s : State) (sl n : Fin 16) (r : Req) (rest : List Req) (k : Nat) (e : RedEntry), AtHead s sl r rest k → r.op =
     .write → r.src = .host n → s.paths.slices[sl].red (lineNo r.addr) = some e →
    Gives (.hostWrite sl) s fun t =>
      Answers s t n r .reductionOpen [] ∧ t.paths.slices[sl].ways = s.paths.slices[sl].ways ∧ t.paths.slices[sl].reds =
        s.paths.slices[sl].reds ∧ t.paths.slices[sl].input = rest ∧ Keeps s t [.paths, .tags] ∧ KeepsRegs s t []) ∧
  (∀ (s : State) (sl n : Fin 16) (r : Req) (rest : List Req) (k : Nat), AtHead s sl r rest k → r.op = .clean → r.src =
     .host n → r.hint = .normal → (s.paths.slices[sl].way k).isDirty = false →
    Gives (.clean sl) s fun t =>
      Answers s t n r .ok [] ∧ lineOf t sl k = lineOf s sl k ∧ t.paths.memXbar = s.paths.memXbar ∧
        t.paths.slices[sl].input = rest ∧ t.paths.slices[sl].misses = [] ∧ Keeps s t [.paths, .tags] ∧ KeepsRegs s t
        []) ∧
  (∀ (s : State) (sl n : Fin 16) (r : Req) (rest : List Req) (k : Nat), AtHead s sl r rest k → r.op = .clean → r.src =
     .host n → r.hint = .normal → (s.paths.slices[sl].way k).isDirty = true →
    Gives (.clean sl) s fun t =>
      t.paths.ports = s.paths.ports ∧ lineOf t sl k = lineOf s sl k ∧ (t.paths.slices[sl].way k).isDirty = false ∧
        t.paths.memXbar.length = s.paths.memXbar.length + (s.paths.slices[sl].way k).dirtySectors.length ∧
        t.paths.slices[sl].misses.map (fun m => (m.line, m.kind, m.current)) = [(lineNo r.addr, MissKind.writeThrough,
        some r)] ∧ t.paths.slices[sl].input = rest ∧ Keeps s t [.paths, .tags] ∧ KeepsRegs s t []) ∧
  (∀ (s : State) (sl : Fin 16) (r : Req) (rest : List Req), HeadFits s sl r rest → r.op = .read →
    Gives (.hostRead sl) s fun t =>
      t.paths.slices[sl].input = rest ∧ Keeps s t [.inbox, .inj, .paths, .ring, .tags] ∧ KeepsRegs s t pathRegs) ∧
  (∀ (s : State) (sl : Fin 16) (r : Req) (rest : List Req), HeadFits s sl r rest → r.op = .write →
    Gives (.hostWrite sl) s fun t =>
      t.paths.slices[sl].input = rest ∧ Keeps s t [.inbox, .inj, .paths, .ring, .tags] ∧ KeepsRegs s t pathRegs) ∧
  (∀ (s : State) (sl : Fin 16) (r : Req) (rest : List Req), HeadFits s sl r rest → r.op = .clean →
    Gives (.clean sl) s fun t =>
      t.paths.slices[sl].input = rest ∧ Keeps s t [.inbox, .inj, .paths, .ring, .tags] ∧ KeepsRegs s t pathRegs)

/-- The sectors' data after the bytes of a request's area have been replaced. -/
  def Sys2Proof.Machine.areaSet (s : State) (sl : Fin 16) (k off : Nat) (r : Req) (new : List Byte) : List Byte × List Byte :=
    (((s.paths.slices[sl].way k).written r (patch (lineOf s sl k) off new) false).lo.data,
      ((s.paths.slices[sl].way k).written r (patch (lineOf s sl k) off new) false).hi.data)

/-- ADD, MIN and MAX replace each strobed element of the line by their result, SWAP by the request's element, and
answer the old elements where asked (R195, R196, R198); CAS replaces its 8 bytes when they equal the compare value,
and answers the old ones (R197). Forms stated to complete (exec answers next): atomicAdd, atomicMin, atomicMax,
atomicSwap, atomicCas. -/
def Obligations.CacheAtomics : Prop :=
  (∀ (s : State) (sl n : Fin 16) (r : Req) (rest : List Req) (k : Nat) (fmt : AtomFormat), AtHead s sl r rest k → r.op
     = .atomic → r.func = 0 → r.src = .host n → r.hint = .normal → r.prefetch = false → r.badAtomic = false →
     AtomFormat.ofCode r.format = some fmt → s.paths.slices[sl].red (lineNo r.addr) = none →
    Gives (.atomicAdd sl) s fun t =>
      ((t.paths.slices[sl].way k).lo.data, (t.paths.slices[sl].way k).hi.data) = areaSet s sl k r.offset r (atomBytes
        .add fmt (r.attr.testBit 9) r (sliceBytes (lineOf s sl k) r.offset r.size)) ∧ Answers s t n r .ok (if
        r.attr.testBit 8 then atomOld r fmt.bytes (sliceBytes (lineOf s sl k) r.offset r.size) else []) ∧
        t.paths.slices[sl].input = rest ∧ (∀ x, x ≠ sl → t.paths.slices[x] = s.paths.slices[x]) ∧ Keeps s t [.paths,
        .tags] ∧ KeepsRegs s t []) ∧
  (∀ (s : State) (sl n : Fin 16) (r : Req) (rest : List Req) (k : Nat) (fmt : AtomFormat), AtHead s sl r rest k → r.op
     = .atomic → r.func = 1 → r.src = .host n → r.hint = .normal → r.prefetch = false → r.badAtomic = false →
     AtomFormat.ofCode r.format = some fmt → s.paths.slices[sl].red (lineNo r.addr) = none →
    Gives (.atomicMin sl) s fun t =>
      ((t.paths.slices[sl].way k).lo.data, (t.paths.slices[sl].way k).hi.data) = areaSet s sl k r.offset r (atomBytes
        .min fmt (r.attr.testBit 9) r (sliceBytes (lineOf s sl k) r.offset r.size)) ∧ Answers s t n r .ok (if
        r.attr.testBit 8 then atomOld r fmt.bytes (sliceBytes (lineOf s sl k) r.offset r.size) else []) ∧
        t.paths.slices[sl].input = rest ∧ (∀ x, x ≠ sl → t.paths.slices[x] = s.paths.slices[x]) ∧ Keeps s t [.paths,
        .tags] ∧ KeepsRegs s t []) ∧
  (∀ (s : State) (sl n : Fin 16) (r : Req) (rest : List Req) (k : Nat) (fmt : AtomFormat), AtHead s sl r rest k → r.op
     = .atomic → r.func = 2 → r.src = .host n → r.hint = .normal → r.prefetch = false → r.badAtomic = false →
     AtomFormat.ofCode r.format = some fmt → s.paths.slices[sl].red (lineNo r.addr) = none →
    Gives (.atomicMax sl) s fun t =>
      ((t.paths.slices[sl].way k).lo.data, (t.paths.slices[sl].way k).hi.data) = areaSet s sl k r.offset r (atomBytes
        .max fmt (r.attr.testBit 9) r (sliceBytes (lineOf s sl k) r.offset r.size)) ∧ Answers s t n r .ok (if
        r.attr.testBit 8 then atomOld r fmt.bytes (sliceBytes (lineOf s sl k) r.offset r.size) else []) ∧
        t.paths.slices[sl].input = rest ∧ (∀ x, x ≠ sl → t.paths.slices[x] = s.paths.slices[x]) ∧ Keeps s t [.paths,
        .tags] ∧ KeepsRegs s t []) ∧
  (∀ (s : State) (sl n : Fin 16) (r : Req) (rest : List Req) (k : Nat) (fmt : AtomFormat), AtHead s sl r rest k → r.op
     = .atomic → r.func = 3 → r.src = .host n → r.hint = .normal → r.prefetch = false → r.badAtomic = false →
     AtomFormat.ofCode r.format = some fmt → s.paths.slices[sl].red (lineNo r.addr) = none →
    Gives (.atomicSwap sl) s fun t =>
      ((t.paths.slices[sl].way k).lo.data, (t.paths.slices[sl].way k).hi.data) = areaSet s sl k r.offset r (atomBytes
        .swap fmt (r.attr.testBit 9) r (sliceBytes (lineOf s sl k) r.offset r.size)) ∧ Answers s t n r .ok (atomOld r
        fmt.bytes (sliceBytes (lineOf s sl k) r.offset r.size)) ∧ t.paths.slices[sl].input = rest ∧ (∀ x, x ≠ sl →
        t.paths.slices[x] = s.paths.slices[x]) ∧ Keeps s t [.paths, .tags] ∧ KeepsRegs s t []) ∧
  (∀ (s : State) (sl n : Fin 16) (r : Req) (rest : List Req) (k : Nat), AtHead s sl r rest k → r.op = .atomic → r.func
     = 4 → r.src = .host n → r.hint = .normal → r.prefetch = false → r.badAtomic = false → r.attr.testBit 10 = false →
     s.paths.slices[sl].red (lineNo r.addr) = none →
    Gives (.atomicCas sl) s fun t =>
      (sliceBytes (lineOf s sl k) r.offset 8 = sliceBytes r.data 0 8 → ((t.paths.slices[sl].way k).lo.data,
        (t.paths.slices[sl].way k).hi.data) = areaSet s sl k r.offset r (sliceBytes r.data 8 8)) ∧ (sliceBytes (lineOf
        s sl k) r.offset 8 ≠ sliceBytes r.data 0 8 → lineOf t sl k = lineOf s sl k) ∧ Answers s t n r .ok (sliceBytes
        (lineOf s sl k) r.offset 8 ++ zeros 8) ∧ t.paths.slices[sl].input = rest ∧ (∀ x, x ≠ sl → t.paths.slices[x] =
        s.paths.slices[x]) ∧ Keeps s t [.paths, .tags] ∧ KeepsRegs s t []) ∧
  (∀ (s : State) (sl : Fin 16) (r : Req) (rest : List Req), HeadFits s sl r rest → r.op = .atomic → r.func = 0 →
    Gives (.atomicAdd sl) s fun t =>
      t.paths.slices[sl].input = rest ∧ Keeps s t [.inbox, .inj, .paths, .ring, .tags] ∧ KeepsRegs s t pathRegs) ∧
  (∀ (s : State) (sl : Fin 16) (r : Req) (rest : List Req), HeadFits s sl r rest → r.op = .atomic → r.func = 1 →
    Gives (.atomicMin sl) s fun t =>
      t.paths.slices[sl].input = rest ∧ Keeps s t [.inbox, .inj, .paths, .ring, .tags] ∧ KeepsRegs s t pathRegs) ∧
  (∀ (s : State) (sl : Fin 16) (r : Req) (rest : List Req), HeadFits s sl r rest → r.op = .atomic → r.func = 2 →
    Gives (.atomicMax sl) s fun t =>
      t.paths.slices[sl].input = rest ∧ Keeps s t [.inbox, .inj, .paths, .ring, .tags] ∧ KeepsRegs s t pathRegs) ∧
  (∀ (s : State) (sl : Fin 16) (r : Req) (rest : List Req), HeadFits s sl r rest → r.op = .atomic → r.func = 3 →
    Gives (.atomicSwap sl) s fun t =>
      t.paths.slices[sl].input = rest ∧ Keeps s t [.inbox, .inj, .paths, .ring, .tags] ∧ KeepsRegs s t pathRegs) ∧
  (∀ (s : State) (sl : Fin 16) (r : Req) (rest : List Req), HeadFits s sl r rest → r.op = .atomic → r.func = 4 →
    Gives (.atomicCas sl) s fun t =>
      t.paths.slices[sl].input = rest ∧ Keeps s t [.inbox, .inj, .paths, .ring, .tags] ∧ KeepsRegs s t pathRegs)

/-- A first contribution to a line opens its entry with its COUNT and combines its elements into the line (R202); ARM
sets EXPECTED (R203); the contribution that reaches EXPECTED completes the entry with a notice to the scheduler core
(R204); QUERY answers the entry and changes nothing; RELEASE frees it (R205). Forms stated to complete (exec answers
next): reduceContribution, reduceArm, reduceQuery, reduceRelease. -/
def Obligations.CacheReductions : Prop :=
  (∀ (s : State) (sl n : Fin 16) (r : Req) (rest : List Req) (k : Nat) (fn : AtomFunc) (fmt : AtomFormat), AtHead s sl
     r rest k → r.op = .reduceInto → AtomFunc.ofCode r.func = some fn → AtomFormat.ofCode r.format = some fmt → r.src =
     .host n → r.hint = .normal → r.prefetch = false → r.badReduce = false → r.contributions ≤ 255 →
     (s.paths.slices[sl].way k).line = lineNo r.addr → s.paths.slices[sl].red (lineNo r.addr) = none →
     s.paths.slices[sl].redRoom (lineNo r.addr) = true →
    Gives (.reduceContribution sl) s fun t =>
      (t.paths.slices[sl].red (lineNo r.addr)).map (fun e => (e.func, e.format, e.count, e.expected, e.complete)) =
        some (r.func, r.format, r.contributions, 0, false) ∧ ((t.paths.slices[sl].way k).lo.data,
        (t.paths.slices[sl].way k).hi.data) = areaSet s sl k r.offset r (atomBytes fn fmt false r (sliceBytes (lineOf s
        sl k) r.offset r.size)) ∧ Answers s t n r .ok [] ∧ t.paths.slices[sl].input = rest ∧ t.inbox = s.inbox ∧ (∀ x,
        x ≠ sl → t.paths.slices[x] = s.paths.slices[x]) ∧ Keeps s t [.paths, .tags] ∧ KeepsRegs s t []) ∧
  (∀ (s : State) (sl n : Fin 16) (r : Req) (rest : List Req) (k : Nat) (fn : AtomFunc) (fmt : AtomFormat) (e :
     RedEntry), AtHead s sl r rest k → r.op = .reduceInto → AtomFunc.ofCode r.func = some fn → AtomFormat.ofCode
     r.format = some fmt → r.src = .host n → r.hint = .normal → r.prefetch = false → r.badReduce = false →
     (s.paths.slices[sl].way k).line = lineNo r.addr → s.paths.slices[sl].red (lineNo r.addr) = some e → e.line =
     lineNo r.addr → e.func = r.func → e.format = r.format → e.complete = false → e.count + r.contributions =
     e.expected → e.expected ≤ 16777215 →
    Gives (.reduceContribution sl) s fun t =>
      (t.paths.slices[sl].red (lineNo r.addr)).map (fun x => (x.count, x.expected, x.complete)) = some (e.expected,
        e.expected, true) ∧ t.inbox.notices = s.inbox.notices ++ [(s.paths.slices[sl].way k).base] ∧ Answers s t n r
        .ok [] ∧ t.paths.slices[sl].input = rest ∧ Keeps s t [.inbox, .paths, .tags] ∧ KeepsRegs s t []) ∧
  (∀ (s : State) (sl n : Fin 16) (r : Req) (rest : List Req) (k : Nat), AtHead s sl r rest k → r.op = .reduceInto →
     r.func = 8 → r.src = .host n → r.hint = .normal → r.prefetch = false → r.badReduce = false →
     (s.paths.slices[sl].way k).line = lineNo r.addr → s.paths.slices[sl].red (lineNo r.addr) = none →
     s.paths.slices[sl].redRoom (lineNo r.addr) = true → 0 < leNat (sliceBytes r.data 0 4) → leNat (sliceBytes r.data 0
     4) ≤ 16777215 →
    Gives (.reduceArm sl) s fun t =>
      (t.paths.slices[sl].red (lineNo r.addr)).map (fun e => (e.func, e.format, e.count, e.expected, e.complete)) =
        some (natBits r.attr 8 4, r.format, 0, leNat (sliceBytes r.data 0 4), false) ∧ lineOf t sl k = lineOf s sl k ∧
        Answers s t n r .ok [] ∧ t.paths.slices[sl].input = rest ∧ Keeps s t [.paths, .tags] ∧ KeepsRegs s t []) ∧
  (∀ (s : State) (sl n : Fin 16) (r : Req) (rest : List Req) (k : Nat) (e : RedEntry), AtHead s sl r rest k → r.op =
     .reduceInto → r.func = 9 → r.size = 16 → r.src = .host n → s.paths.slices[sl].red (lineNo r.addr) = some e →
    Gives (.reduceQuery sl) s fun t =>
      Answers s t n r .ok e.bytes ∧ t.paths.slices[sl].reds = s.paths.slices[sl].reds ∧ lineOf t sl k = lineOf s sl k ∧
        t.paths.slices[sl].input = rest ∧ Keeps s t [.paths, .tags] ∧ KeepsRegs s t []) ∧
  (∀ (s : State) (sl n : Fin 16) (r : Req) (rest : List Req) (k : Nat) (e : RedEntry), AtHead s sl r rest k → r.op =
     .reduceInto → r.func = 10 → r.src = .host n → (s.paths.slices[sl].way k).deferDrop = false → r.hint ≠ .last →
     s.paths.slices[sl].red (lineNo r.addr) = some e →
    Gives (.reduceRelease sl) s fun t =>
      Answers s t n r .ok [] ∧ t.paths.slices[sl].red (lineNo r.addr) = none ∧ (∀ x ∈ s.paths.slices[sl].reds, x.line =
        lineNo r.addr ∨ x ∈ t.paths.slices[sl].reds) ∧ lineOf t sl k = lineOf s sl k ∧ (t.paths.slices[sl].way k).used
        = (s.paths.slices[sl].way k).used ∧ t.paths.slices[sl].input = rest ∧ Keeps s t [.paths, .tags] ∧ KeepsRegs s t
        []) ∧
  (∀ (s : State) (sl : Fin 16) (r : Req) (rest : List Req), HeadFits s sl r rest → r.op = .reduceInto → r.func < 8 →
    Gives (.reduceContribution sl) s fun t =>
      t.paths.slices[sl].input = rest ∧ Keeps s t [.inbox, .inj, .paths, .ring, .tags] ∧ KeepsRegs s t pathRegs) ∧
  (∀ (s : State) (sl : Fin 16) (r : Req) (rest : List Req), HeadFits s sl r rest → r.op = .reduceInto → r.func = 8 →
    Gives (.reduceArm sl) s fun t =>
      t.paths.slices[sl].input = rest ∧ Keeps s t [.inbox, .inj, .paths, .ring, .tags] ∧ KeepsRegs s t pathRegs) ∧
  (∀ (s : State) (sl : Fin 16) (r : Req) (rest : List Req), HeadFits s sl r rest → r.op = .reduceInto → r.func = 9 →
    Gives (.reduceQuery sl) s fun t =>
      t.paths.slices[sl].input = rest ∧ Keeps s t [.inbox, .inj, .paths, .ring, .tags] ∧ KeepsRegs s t pathRegs) ∧
  (∀ (s : State) (sl : Fin 16) (r : Req) (rest : List Req), HeadFits s sl r rest → r.op = .reduceInto → r.func = 10 →
    Gives (.reduceRelease sl) s fun t =>
      t.paths.slices[sl].input = rest ∧ Keeps s t [.inbox, .inj, .paths, .ring, .tags] ∧ KeepsRegs s t pathRegs)

/-- A slice takes the crossbar's request for it into its input queue (R190); a request that waited for its line
proceeds once nothing locks it (R192); the fill's data completes the request that waits for it (R31); a fence begins
with PENDING, loses an unanswering slice after 1 ms, and ends with FENCED and the slice's domain off (R208); a status
report shows the open entries and the dirty lines (R209). Forms stated to complete (exec answers next): sliceInput,
missEntryRelease, fillReturn, cacheCtrlWrite, sliceFence, sliceFenceTimeout, sliceFenceComplete, cacheStatusReport. -/
def Obligations.CacheQueues : Prop :=
  (∀ (s : State) (sl : Fin 16) (r : Req), s.answers sl = true → s.paths.reqXbar = [r] → s.sliceOf r.addr = sl →
     s.paths.slices[sl].input.length < 128 → s.paths.slices[sl].misses.length < 256 →
    Gives (.sliceInput sl) s fun t =>
      t.paths.slices[sl].input = s.paths.slices[sl].input ++ [r] ∧ t.paths.reqXbar = [] ∧ t.paths.slices[sl].ways =
        s.paths.slices[sl].ways ∧ (∀ x, x ≠ sl → t.paths.slices[x] = s.paths.slices[x]) ∧ Keeps s t [.paths, .tags] ∧
        KeepsRegs s t []) ∧
  (∀ (s : State) (sl n : Fin 16) (r : Req) (m : Miss) (k : Nat), s.answers sl = true → s.wbLines sl = [] →
     s.paths.slices[sl].misses = [m] → m.kind = .waiting → m.queue = [r] → m.line = lineNo r.addr → r.op = .read →
     r.src = .host n → r.hint = .normal → r.prefetch = false → s.paths.slices[sl].find (lineNo r.addr) = some k →
     (s.paths.slices[sl].way k).lo.valid = true → (s.paths.slices[sl].way k).hi.valid = true → (s.paths.slices[sl].way
     k).lo.poison = false → (s.paths.slices[sl].way k).hi.poison = false → s.paths.slices[sl].red (lineNo r.addr) =
     none →
    Gives (.missEntryRelease sl) s fun t =>
      Answers s t n r .ok (sliceBytes (lineOf s sl k) r.offset r.size) ∧ t.paths.slices[sl].misses = [] ∧ lineOf t sl k
        = lineOf s sl k ∧ t.paths.slices[sl].input = s.paths.slices[sl].input ∧ Keeps s t [.paths, .tags] ∧ KeepsRegs s
        t []) ∧
  (∀ (s : State) (sl n : Fin 16) (r : Req) (m : Miss) (k i : Nat) (d : Ret64), s.answers sl = true → s.wbLines sl = []
     → s.paths.rets = [d] → d.owner = .fill sl m.line i → d.bad = false → s.paths.slices[sl].misses = [m] → m.kind =
     .fill → m.current = some r → m.queue = [] → m.sectorsLeft = [i] → s.paths.slices[sl].find m.line = some k → r.op =
     .read → r.src = .host n → r.hint = .normal → r.prefetch = false → r.touched = [i] → i < 2 →
     s.paths.slices[sl].reds = [] →
    Gives (.fillReturn sl) s fun t =>
      Answers s t n r .ok (sliceBytes (lineOf t sl k) r.offset r.size) ∧ sliceBytes (lineOf t sl k) (64 * i) 64 =
        sliceBytes d.data 0 64 ∧ ((t.paths.slices[sl].way k).sector i).valid = true ∧ ((t.paths.slices[sl].way
        k).sector i).dirty = false ∧ t.paths.slices[sl].misses = [] ∧ t.paths.rets = [] ∧ (∀ x, x ≠ sl →
        t.paths.slices[x] = s.paths.slices[x]) ∧ Keeps s t [.paths, .tags] ∧ KeepsRegs s t []) ∧
  (∀ (s : State) (v : Word), s.mgtReady = true → s.live .sensor = true →
    Gives (.cacheCtrlWrite v) s fun t =>
      t.gf Reg.CACHE_CTRL Fld.CACHE_CTRL_KEEP_WAYS = min 16 (max 1 (v.toNat % 32)) ∧ Answered s t false ∧ Keeps s t
        [.mgt] ∧ KeepsRegs s t [Reg.CACHE_CTRL]) ∧
  (∀ (s : State) (sl : Fin 16), s.live .firmware = true → s.fenced.testBit sl = false → s.fencePending.testBit sl =
     false → onesBelow 16 (s.fenced ||| s.fencePending) < 4 → s.sliceIdle sl = false →
    Gives (.sliceFence sl) s fun t =>
      t.fencePending.testBit sl = true ∧ t.paths.slices[sl].fence = .draining s.clk.pkg ∧ t.fenced = s.fenced ∧
        t.paths.slices[sl].input = s.paths.slices[sl].input ∧ t.paths.slices[sl].ways = s.paths.slices[sl].ways ∧ (∀ x,
        x ≠ sl → t.paths.slices[x] = s.paths.slices[x]) ∧ Keeps s t [.paths] ∧ KeepsRegs s t [Reg.CACHE_FENCE]) ∧
  (∀ (s : State) (sl : Fin 16), s.live .firmware = true → 4 ≤ onesBelow 16 (s.fenced ||| s.fencePending) →
    Gives (.sliceFence sl) s fun t =>
      t = s) ∧
  (∀ (s : State) (sl : Fin 16) (t0 : Nat), s.live .firmware = true → s.answers sl = false → s.paths.slices[sl].fence =
     .draining t0 → t0 + 1000000 ≤ s.clk.pkg →
    Gives (.sliceFenceTimeout sl) s fun t =>
      t.paths.slices[sl].fence = .fenced ∧ t.paths.slices[sl].alive = false ∧ t.paths.slices[sl].input = [] ∧
        t.paths.slices[sl].misses = [] ∧ t.paths.slices[sl].ways = [] ∧ t.paths.slices[sl].reds = [] ∧ (∀ r ∈
        t.paths.reqXbar, r ∈ s.paths.reqXbar ∧ s.sliceOf r.addr ≠ sl) ∧ t.inbox.lostLines = s.inbox.lostLines ++
        s.paths.slices[sl].reds.map (fun e => e.line * 128) ∧ (∀ x, x ≠ sl → t.paths.slices[x] = s.paths.slices[x]) ∧
        Keeps s t [.inbox, .inj, .paths, .ring, .tags] ∧ KeepsRegs s t (Reg.CACHE_STATUS sl :: pathRegs)) ∧
  (∀ (s : State) (sl : Fin 16), s.live .firmware = true → s.paths.slices[sl].fence = .fenced → s.fencePending.testBit
     sl = true → s.straying sl (s.fenced ||| 2 ^ sl.val) = false → s.housed (s.fenced ||| 2 ^ sl.val) = true → (∀ (i :
     Fin 16) (ln : Nat), ln ∈ s.paths.slices[i].lines → strays s.fenced (s.fenced ||| 2 ^ sl.val) (128 * ln) = false) →
    Gives (.sliceFenceComplete sl) s fun t =>
      t.fenced.testBit sl = true ∧ t.fencePending.testBit sl = false ∧ t.dom (96 + sl) = .off ∧ (∀ d, d ≠ 96 + sl.val →
        t.dom d = s.dom d) ∧ t.paths.slices = s.paths.slices ∧ Keeps s t [.fw, .paths] ∧ KeepsRegs s t
        [Reg.CACHE_FENCE, Reg.THERM_DOM_STATE 6]) ∧
  (∀ (s : State) (sl : Fin 16), s.answers sl = true → s.paths.slices[sl].fence ≠ .fenced →
     s.paths.slices[sl].reds.length < 512 →
    Gives (.cacheStatusReport sl) s fun t =>
      t.gf (Reg.CACHE_STATUS sl) Fld.CACHE_STATUS_RED_OPEN = s.paths.slices[sl].reds.length ∧ t.gf (Reg.CACHE_STATUS
        sl) Fld.CACHE_STATUS_DIRTY_LINES = min 65535 (s.paths.slices[sl].ways.filter fun e => e.2.isDirty).length ∧
        (s.paths.slices[sl].overcount = true → t.bit (Reg.CACHE_STATUS sl) Fld.CACHE_STATUS_RED_OVERCOUNT = true) ∧
        (s.paths.slices[sl].tableFull = true → t.bit (Reg.CACHE_STATUS sl) Fld.CACHE_STATUS_RED_TABLE_FULL = true) ∧
        t.paths.slices[sl].ways = s.paths.slices[sl].ways ∧ t.paths.slices[sl].reds = s.paths.slices[sl].reds ∧ (∀ x, x
        ≠ sl → t.paths.slices[x] = s.paths.slices[x]) ∧ Keeps s t [.paths] ∧ KeepsRegs s t [Reg.CACHE_STATUS sl]) ∧
  (∀ (s : State) (sl : Fin 16) (r : Req), s.answers sl = true → firstForSlice s sl = some r →
     s.paths.slices[sl].input.length < 128 → s.paths.slices[sl].misses.length < 256 →
    Gives (.sliceInput sl) s fun t =>
      (s.paths.slices[sl].input ++ [r]) <+: t.paths.slices[sl].input ∧ t.paths.slices[sl].input.length ≤
        s.paths.slices[sl].input.length + 2 ∧ t.paths.slices[sl].ways = s.paths.slices[sl].ways ∧ (∀ x, x ≠ sl →
        t.paths.slices[x] = s.paths.slices[x]) ∧ Keeps s t [.paths, .tags] ∧ KeepsRegs s t []) ∧
  (∀ (s : State) (sl : Fin 16) (m : Miss) (r : Req) (rest : List Req), s.answers sl = true →
     (s.paths.slices[sl].misses.find? fun m => m.kind = .waiting ∧ !m.queue.isEmpty) = some m → m.queue = r :: rest →
     (((((s.modSlice sl fun x => { x with misses := x.misses.filter fun y => y.line ≠ m.line }).serve sl r).tagPath sl
     r).reattach sl m.line rest).sliceFits sl) = true →
    Gives (.missEntryRelease sl) s fun t =>
      t = (((s.modSlice sl fun x => { x with misses := x.misses.filter fun y => y.line ≠ m.line }).serve sl r).tagPath
        sl r).reattach sl m.line rest ∧ t.paths.slices[sl].input = s.paths.slices[sl].input ∧ Keeps s t [.inbox, .inj,
        .paths, .ring, .tags] ∧ KeepsRegs s t pathRegs) ∧
  (∀ (s : State) (sl : Fin 16) (m : Miss) (d : Ret64) (ln i : Nat), s.answers sl = true → (s.paths.rets.find? fun d =>
     (d.owner.ofSlice sl).isSome) = some d → d.owner.ofSlice sl = some (ln, i) → (s.paths.slices[sl].misses.find? fun m
     => m.line = ln ∧ (m.kind = .fill ∨ m.kind = .readThrough)) = some m → ((if m.kind = .fill then (s.modPaths fun x
     => { x with rets := x.rets.erase d }).fillSector sl m i d else (s.modPaths fun x =>
     { x with rets := x.rets.erase d }).throughSector sl m i d).sliceFits sl) = true →
    Gives (.fillReturn sl) s fun t =>
      t.paths.rets = s.paths.rets.erase d ∧ t.paths.slices[sl].input = s.paths.slices[sl].input ∧ Keeps s t [.inbox,
        .inj, .paths, .ring, .tags] ∧ KeepsRegs s t pathRegs) ∧
  (∀ (s : State) (sl : Fin 16), s.live .firmware = true → s.fenced.testBit sl = false → s.fencePending.testBit sl =
     false → onesBelow 16 (s.fenced ||| s.fencePending) < 4 →
    Gives (.sliceFence sl) s fun t =>
      t.fencePending.testBit sl = true ∧ t.fenced = s.fenced ∧ (t.paths.slices[sl].fence = .draining s.clk.pkg ∨
        t.paths.slices[sl].fence = .fenced) ∧ Keeps s t [.paths, .sched] ∧ KeepsRegs s t [Reg.CACHE_FENCE,
        Reg.CACHE_STATUS sl]) ∧
  (∀ (s : State) (sl : Fin 16), s.live .firmware = true → s.paths.slices[sl].fence = .fenced → s.fencePending.testBit
     sl = true → s.straying sl (s.fenced ||| 2 ^ sl.val) = false → (s.rehouse s.fenced (s.fenced ||| 2 ^
     sl.val)).housed (s.fenced ||| 2 ^ sl.val) = true →
    Gives (.sliceFenceComplete sl) s fun t =>
      t.fenced.testBit sl = true ∧ t.fencePending.testBit sl = false ∧ t.dom (96 + sl) = .off ∧ Keeps s t [.fw, .paths]
        ∧ KeepsRegs s t [Reg.CACHE_FENCE, Reg.CACHE_STATUS sl, Reg.THERM_DOM_STATE ((96 + sl.val) / 16)])

/-! ### The management port, GO and the ledger -/

/-- An offset that the map does not list completes with MGT_ERR and changes no register, and so does one whose home
island is out of reset or not ON (R57, R523); a hardware register takes the RW bits of what is written (R17, R241); a
read of a low word returns it and latches the high word of the same state, a read of the high word returns the latch
(R16); a low word written is held, and the high word's write commits both (R524); an emulated register reads while
the liaison core runs, waits while it is in reset, and completes with MGT_ERR before firmware runs and after 100 µs
(R57, R319, R496). Forms stated to complete (exec answers next): registerWrite, lowWordRead, lowWordWrite,
highWordWrite, emulatedAccess, emulatedAccessTimeout. -/
def Obligations.ManagementAccesses : Prop :=
  (∀ (s : State) (off : BitVec 24) (v : Word) (events : Word), s.mgtReady = true → mapped off.toNat = none →
    Gives (.registerWrite off v events) s fun t =>
      Answered s t true ∧ Keeps s t [.mgt] ∧ KeepsRegs s t []) ∧
  (∀ (s : State) (off : BitVec 24) (v : Word) (events : Word) (r : RegRow) (i j : Nat), s.mgtReady = true → mapped
     off.toNat = some (r, i, j, false) → r.wide = false → r.emu = false → s.live (r.home.island i) = false →
    Gives (.registerWrite off v events) s fun t =>
      Answered s t true ∧ Keeps s t [.mgt] ∧ KeepsRegs s t []) ∧
  (∀ (s : State) (v : Word) (events : Word), s.mgtReady = true → s.live .sensor = true →
    Gives (.registerWrite (BitVec.ofNat 24 Reg.BME_TDT_SIZE) v events) s fun t =>
      t.gf Reg.BME_TDT_SIZE Fld.BME_TDT_SIZE_ENTRIES = min 4096 (v.toNat % 8192) ∧ Answered s t false ∧ Keeps s t
        [.mgt] ∧ KeepsRegs s t [Reg.BME_TDT_SIZE]) ∧
  (∀ s : State, s.mgtReady = true → s.live .sensor = true →
    Gives (.lowWordRead (BitVec.ofNat 24 Reg.D2D_TIME)) s fun t =>
      t.mgt.rdata.toNat = s.clk.pkg % 2 ^ 32 ∧ (cget regReset t.mgt.latch (Reg.D2D_TIME + 4)).toNat = s.clk.pkg / 2 ^
        32 % 2 ^ 32 ∧ t.mgt.err = false ∧ t.mgt.doneCount = s.mgt.doneCount + 1 ∧ Keeps s t [.mgt] ∧ KeepsRegs s t [])
        ∧
  (∀ s : State, s.mgtReady = true → s.live .sensor = true →
    Gives (.lowWordRead (BitVec.ofNat 24 (Reg.D2D_TIME + 4))) s fun t =>
      t.mgt.rdata = cget regReset s.mgt.latch (Reg.D2D_TIME + 4) ∧ t.mgt.latch = s.mgt.latch ∧ t.mgt.err = false ∧
        t.mgt.doneCount = s.mgt.doneCount + 1 ∧ Keeps s t [.mgt] ∧ KeepsRegs s t []) ∧
  (∀ (s : State) (p : Fin 64) (v : Word), s.mgtReady = true → s.live (.pc p) = true →
    Gives (.lowWordWrite (BitVec.ofNat 24 (Reg.SLOT_SHIFT_TIME p)) v) s fun t =>
      (Reg.SLOT_SHIFT_TIME p, v) ∈ t.mgt.hold ∧ t.mgt.err = false ∧ t.mgt.doneCount = s.mgt.doneCount + 1 ∧ Keeps s t
        [.mgt] ∧ KeepsRegs s t []) ∧
  (∀ (s : State) (p : Fin 64) (v : Word) (lo : Word) (rest : List (Nat × Word)), s.mgtReady = true → s.live (.pc p) =
     true → s.bit (Reg.SLOT_STATUS p) Fld.SLOT_STATUS_ARMED = false → s.mgt.hold = (Reg.SLOT_SHIFT_TIME p, lo) :: rest
     →
    Gives (.highWordWrite (BitVec.ofNat 24 (Reg.SLOT_SHIFT_TIME p + 4)) v) s fun t =>
      t.rd (Reg.SLOT_SHIFT_TIME p) = lo ∧ t.rd (Reg.SLOT_SHIFT_TIME p + 4) = v ∧ (∀ e ∈ t.mgt.hold, e.1 ≠
        Reg.SLOT_SHIFT_TIME p) ∧ t.mgt.err = false ∧ Keeps s t [.mgt] ∧ KeepsRegs s t [Reg.SLOT_SHIFT_TIME p,
        Reg.SLOT_SHIFT_TIME p + 4]) ∧
  (∀ (s : State) (v : Word), s.live .sensor = true → s.mgt.waiting = none → s.fwRuns .liaison = true →
    Gives (.emulatedAccess false (BitVec.ofNat 24 Reg.FW_AGEING_CFG) v) s fun t =>
      t.mgt.rdata = s.rd Reg.FW_AGEING_CFG ∧ t.mgt.err = false ∧ t.mgt.doneCount = s.mgt.doneCount + 1 ∧ t.mgt.waiting
        = none ∧ Keeps s t [.mgt] ∧ KeepsRegs s t []) ∧
  (∀ (s : State) (v : Word) (write : Bool), s.live .sensor = true → s.mgt.waiting = none → s.live .firmware = true →
     s.fwRuns .liaison = false → 4 ≤ s.fwState →
    Gives (.emulatedAccess write (BitVec.ofNat 24 Reg.FW_AGEING_CFG) v) s fun t =>
      t.mgt.waiting.isSome = true ∧ t.mgt.doneCount = s.mgt.doneCount ∧ Keeps s t [.mgt] ∧ KeepsRegs s t []) ∧
  (∀ (s : State) (v : Word) (write : Bool), s.live .sensor = true → s.mgt.waiting = none → s.fwRuns .liaison = false →
     s.fwState < 4 →
    Gives (.emulatedAccess write (BitVec.ofNat 24 Reg.FW_AGEING_CFG) v) s fun t =>
      t.mgt.rdata = 0 ∧ t.mgt.doneCount = s.mgt.doneCount + 1 ∧ (write = true → t.mgt.err = true) ∧ Keeps s t [.mgt] ∧
        KeepsRegs s t []) ∧
  (∀ (s : State) (w : EmuAccess), s.live .sensor = true → s.mgt.waiting = some w → w.since + 100000 ≤ s.clk.pkg →
    Gives .emulatedAccessTimeout s fun t =>
      Answered s t true ∧ Keeps s t [.mgt] ∧ KeepsRegs s t []) ∧
  (∀ (s : State) (off : BitVec 24) (v : Word) (events : Word) (r : RegRow) (i j : Nat), s.mgtReady = true → mapped
     off.toNat = some (r, i, j, false) → r.wide = false → r.emu = false → s.live (r.home.island i) = true →
    Gives (.registerWrite off v events) s fun t =>
      t = (s.writeHw r off.toNat i j v events).mgtDone false 0) ∧
  (∀ (s : State) (off : BitVec 24) (v : Word) (events : Word) (r : RegRow) (i j : Nat), s.mgtReady = true → mapped
     off.toNat = some (r, i, j, false) → off.toNat ∈ limitTable.map (·.1) → r.emu = false → s.live (r.home.island i) =
     true →
    Gives (.registerWrite off v events) s fun t =>
      t.rd off.toNat = BitVec.ofNat 32 (limited off.toNat (writtenWord r false (s.rd off.toNat).toNat v.toNat
        events.toNat)) ∧ Answered s t false ∧ Keeps s t [.mgt] ∧ KeepsRegs s t [off.toNat]) ∧
  (∀ (s : State) (p : Fin 64) (v : Word) (events : Word) (b : Bool), s.mgtReady = true → s.live (.pc p) = true → b =
     s.bit (Reg.PC_SCHED_STATUS p) Fld.PC_SCHED_STATUS_TIMING_CLAMPED →
    Gives (.registerWrite (BitVec.ofNat 24 (Reg.PC_SCHED_STATUS p)) v events) s fun t =>
      t.bit (Reg.PC_SCHED_STATUS p) Fld.PC_SCHED_STATUS_TIMING_CLAMPED = (events.getLsbD 31 || (b && !v.getLsbD 31)) ∧
        Answered s t false ∧ Keeps s t [.mgt] ∧ KeepsRegs s t [Reg.PC_SCHED_STATUS p]) ∧
  (∀ (s : State) (off : BitVec 24) (r : RegRow) (i j : Nat), s.mgtReady = true → mapped off.toNat = some (r, i, j,
     false) → r.wide = false → r.emu = false → s.live (r.home.island i) = true → off.toNat ≠ Reg.RMT_PT_DATA 0 →
     off.toNat ≠ Reg.RMT_HIST_DATA 0 →
    Gives (.lowWordRead off) s fun t =>
      t.mgt.rdata = BitVec.ofNat 32 (s.read32 r off.toNat i j) ∧ t.mgt.latch = s.mgt.latch ∧ t.mgt.err = false ∧
        t.mgt.doneCount = s.mgt.doneCount + 1 ∧ Keeps s t [.mgt] ∧ KeepsRegs s t []) ∧
  (∀ (s : State) (off : BitVec 24) (r : RegRow) (i j : Nat), s.mgtReady = true → mapped off.toNat = some (r, i, j,
     false) → r.wide = true → r.emu = false → s.live (r.home.island i) = true →
    Gives (.lowWordRead off) s fun t =>
      t.mgt.rdata = BitVec.ofNat 32 (s.read64 r off.toNat i j) ∧ cget regReset t.mgt.latch (off.toNat + 4) =
        BitVec.ofNat 32 (s.read64 r off.toNat i j / 2 ^ 32) ∧ t.mgt.err = false ∧ t.mgt.doneCount = s.mgt.doneCount + 1
        ∧ Keeps s t [.mgt] ∧ KeepsRegs s t []) ∧
  (∀ (s : State) (off : BitVec 24) (v : Word) (r : RegRow) (i j : Nat), s.mgtReady = true → mapped off.toNat = some (r,
     i, j, false) → r.wide = true → r.emu = false → s.live (r.home.island i) = true →
    Gives (.lowWordWrite off v) s fun t =>
      t.mgt.hold = (off.toNat, v) :: s.mgt.hold.filter (fun e => e.1 ≠ off.toNat) ∧ t.mgt.err = false ∧ t.mgt.doneCount
        = s.mgt.doneCount + 1 ∧ Keeps s t [.mgt] ∧ KeepsRegs s t []) ∧
  (∀ (s : State) (off : BitVec 24) (v : Word) (r : RegRow) (i j : Nat) (lo : Word) (rest : List (Nat × Word)),
     s.mgtReady = true → mapped off.toNat = some (r, i, j, true) → r.emu = false → s.live (r.home.island i) = true →
     r.base ≠ Reg.SLOT_SHIFT_TIME 0 → r.base ≠ Reg.RMT_GATE_SHIFT_TIME 0 → off.toNat - 4 ∉ ringRegs → s.mgt.hold =
     (off.toNat - 4, lo) :: rest →
    Gives (.highWordWrite off v) s fun t =>
      t.rd64 (off.toNat - 4) = clearBits (s.rd64 (off.toNat - 4)) r.rw ||| ((lo.toNat + 2 ^ 32 * v.toNat) &&& r.rw) ∧
        (∀ e ∈ t.mgt.hold, e.1 ≠ off.toNat - 4) ∧ t.mgt.err = false ∧ t.mgt.doneCount = s.mgt.doneCount + 1 ∧ Keeps s t
        [.mgt] ∧ KeepsRegs s t [off.toNat - 4, off.toNat]) ∧
  (∀ (s : State) (off : BitVec 24) (v : Word) (r : RegRow) (i j : Nat), s.mgtReady = true → s.live .sensor = true →
     s.fwRuns .liaison = true → mapped off.toNat = some (r, i, j, false) → r.emu = true → r.wide = false → off.toNat ≠
     Reg.RMT_PT_DATA 0 → off.toNat ≠ Reg.RMT_HIST_DATA 0 →
    Gives (.emulatedAccess false off v) s fun t =>
      t.mgt.rdata = BitVec.ofNat 32 (s.read32 r off.toNat i j) ∧ t.mgt.err = false ∧ t.mgt.doneCount = s.mgt.doneCount
        + 1 ∧ t.mgt.waiting = none ∧ Keeps s t [.mgt] ∧ KeepsRegs s t []) ∧
  (∀ (s : State) (off : BitVec 24) (v : Word) (r : RegRow) (i j : Nat), s.mgtReady = true → s.live .sensor = true →
     s.fwRuns .liaison = true → mapped off.toNat = some (r, i, j, false) → off.toNat ∈ [Reg.FW_MARGIN_CFG,
     Reg.FW_AGEING_CFG] →
    Gives (.emulatedAccess true off v) s fun t =>
      t.rd off.toNat = BitVec.ofNat 32 (limited off.toNat (writtenWord r false (s.rd off.toNat).toNat v.toNat 0)) ∧
        Answered s t false ∧ Keeps s t [.mgt] ∧ KeepsRegs s t [off.toNat])

/-- The driver's write of an emulated register reaches the liaison core and is answered without error (R319). -/
  abbrev Sys2Proof.Machine.Reached (s : State) : Prop := s.mgtReady = true ∧ s.fwRuns .liaison = true

/-- GO is kept with the time of its first write and GO_WAIT_MS as written (log entry 11), and the head sends
TRAIN_STACK when the wait expires (R395); the ledger port appends 4 bytes up to 64 KiB and CLEAR empties the buffer
(R397); REPLAY outside PHASE RANGED only stores the length; in PHASE RANGED after a cold start with neither ledger
nor memory test it leads to READY (R398, R173); a memory test leaves every rank's contents undefined and returns the
number of failed ranks (R398, R400); a failed enumeration is PHASE FAULT with cause 1 (R399); the warm return raises
DIE_RST_N and releases the sensor and management island alone (R402). Forms stated to complete (exec answers next):
go, goWaitExpiry, ledgerPortWrite, ledgerClear, ledgerReplay, cmdMemtest, phaseFault, warmReturn. -/
def Obligations.BootAndReplay : Prop :=
  (∀ (s : State) (v : Word), Reached s → s.straps.chainHead = false → s.pkg.goAt = none →
    Gives (.go v) s fun t =>
      t.pkg.goAt = some s.clk.pkg ∧ t.bit Reg.FW_BOOT_CTRL Fld.FW_BOOT_CTRL_GO = true ∧ t.gf Reg.FW_BOOT_CTRL
        Fld.FW_BOOT_CTRL_GO_WAIT_MS = v.toNat % 65536 ∧ t.chain.outW.map cwKind = s.chain.outW.map cwKind ++ [7] ∧
        Answered s t false ∧ Keeps s t [.mgt, .pkg, .chain] ∧ KeepsRegs s t [Reg.FW_BOOT_CTRL]) ∧
  (∀ (s : State) (v : Word), Reached s → s.pkg.goAt.isSome = true →
    Gives (.go v) s fun t =>
      t.pkg = s.pkg ∧ t.chain = s.chain ∧ Answered s t false ∧ Keeps s t [.mgt] ∧ KeepsRegs s t [Reg.FW_BOOT_CTRL]) ∧
  (∀ (s : State) (t0 : Nat), s.fwRuns .steward = true → s.straps.chainHead = true → s.numbered = true → s.pkg.trainSent
     = false → s.pkg.goAt = some t0 → t0 + s.gf Reg.FW_BOOT_CTRL Fld.FW_BOOT_CTRL_GO_WAIT_MS * 1000000 ≤ s.clk.pkg →
    Gives .goWaitExpiry s fun t =>
      t.pkg.trainSent = true ∧ t.pkg.commanded = s.pkg.phases.map (·.1) ∧ Keeps s t [.pkg, .chain, .pins] ∧ KeepsRegs s
        t []) ∧
  (∀ (s : State) (v : Word), Reached s →
    Gives (.ledgerPortWrite v) s fun t =>
      t.age.ledger = (if s.age.ledger.length + 4 ≤ 65536 then s.age.ledger ++ leBytes 4 v.toNat else s.age.ledger) ∧
        Answered s t false ∧ Keeps s t [.mgt, .age] ∧ KeepsRegs s t []) ∧
  (∀ (s : State) (len : BitVec 24), Reached s →
    Gives (.ledgerClear len) s fun t =>
      t.age.ledger = [] ∧ Answered s t false ∧ Keeps s t [.mgt, .age] ∧ KeepsRegs s t [Reg.FW_LEDGER_CTRL]) ∧
  (∀ (s : State) (len : BitVec 24) (info : Option LedgerInfo) (repair : Option RepairInfo) (fails : List MemFail),
     Reached s → s.phase ≠ 5 →
    Gives (.ledgerReplay len info repair fails) s fun t =>
      natBits (t.rd Reg.FW_LEDGER_CTRL).toNat 0 24 = len.toNat ∧ Answered s t false ∧ Keeps s t [.mgt] ∧ KeepsRegs s t
        [Reg.FW_LEDGER_CTRL]) ∧
  (∀ (s : State) (info : Option LedgerInfo) (repair : Option RepairInfo) (fails : List MemFail), Reached s → s.phase =
     5 → s.bit Reg.FW_BOOT_CTRL Fld.FW_BOOT_CTRL_LEDGER = false → s.bit Reg.FW_BOOT_CTRL Fld.FW_BOOT_CTRL_MEMTEST =
     false → s.gf Reg.PC_MARK_STATUS Fld.PC_MARK_STATUS_RESULT = 0 → s.scrubbing = false →
    Gives (.ledgerReplay 0 info repair fails) s fun t =>
      t.phase = 8 ∧ t.age.serviceAt = s.clk.pkg ∧ Answered s t false ∧ t.stack = s.stack ∧ t.paths = s.paths ∧ Keeps s
        t [.mgt, .age, .chain, .inbox, .pcs, .pkg] ∧ KeepsRegs s t [Reg.FW_AGEING_STATUS, Reg.FW_BOOT_STATUS,
        Reg.FW_LEDGER_CTRL]) ∧
  (∀ (s : State) (w : Word), s.fwRuns .upkeep = true → s.chain.taken = [(true, w)] → cwKind w = 6 → natBits (cwArg w)
     16 7 = 5 → s.straps.chainHead = false →
    Gives (.cmdMemtest []) s fun t =>
      (∀ l : Loc, l.rank ∈ s.ranks → s.phase ≠ 8 ∨ s.rankState l.rank = 4 ∨ s.rankState l.rank = 5 → t.stack.isUndef l
        = true) ∧ (∀ l : Loc, s.phase = 8 ∧ s.rankState l.rank ≠ 4 ∧ s.rankState l.rank ≠ 5 → t.stack.isUndef l =
        s.stack.isUndef l) ∧ t.chain.taken = [] ∧ t.chain.outW = s.chain.outW ++ [chainWord 7 false s.self (5 * 65536 +
        t.age.failedRanks.length % 65536)] ∧ t.stack.cells = s.stack.cells ∧ Keeps s t [.age, .chain, .stack] ∧
        KeepsRegs s t []) ∧
  (∀ s : State, s.fwRuns .steward = true → s.phase = 1 → s.enumFailed = true → s.pkg.goAt = none →
    Gives .phaseFault s fun t =>
      t.phase = 9 ∧ t.gf Reg.FW_BOOT_STATUS Fld.FW_BOOT_STATUS_FAULT_CAUSE = 1 ∧ (∀ p ∈ s.livePcs, t.bit
        (Reg.PC_REF_STATUS p) Fld.PC_REF_STATUS_SELF_REFRESH = true) ∧ Keeps s t [.pcs, .stack] ∧ KeepsRegs s t
        (Reg.FW_BOOT_STATUS :: (upto 64).map Reg.PC_REF_STATUS)) ∧
  (∀ (s : State) (repair : Option RepairInfo), s.pins.porstN = true → s.pins.vddOk = true → s.pins.dieRstN = false →
     s.pins.dieWrstReqN = true →
    Gives (.warmReturn repair) s fun t =>
      t.pins.dieRstN = true ∧ t.up .sensor = true ∧ (∀ i, i ≠ .sensor → t.up i = s.up i) ∧ t.pwr.seqDoneAt = s.clk.pkg
        ∧ t.therm = { s.therm with sensors := s.therm.sensors.map fun x => { x with readAt := some s.clk.raw } } ∧
        Keeps s t [.pins, .pwr, .therm] ∧ KeepsRegs s t []) ∧
  (∀ (s : State) (v : Word), Reached s →
    Gives (.go v) s fun t =>
      t.pkg.goAt = some (s.pkg.goAt.getD s.clk.pkg) ∧ t.bit Reg.FW_BOOT_CTRL Fld.FW_BOOT_CTRL_GO = true ∧ Answered s t
        false ∧ Keeps s t [.mgt, .pkg, .chain, .pins] ∧ KeepsRegs s t [Reg.FW_BOOT_CTRL]) ∧
  (∀ (s : State) (len : BitVec 24) (info : Option LedgerInfo) (repair : Option RepairInfo) (fails : List MemFail),
     Reached s → s.phase = 5 →
    Gives (.ledgerReplay len info repair fails) s fun t =>
      (t.phase = 6 ∨ t.phase = 8) ∧ natBits (t.rd Reg.FW_LEDGER_CTRL).toNat 0 24 = len.toNat ∧ Answered s t false ∧
        Keeps s t [.free, .mgt, .paths, .pcs, .stack, .inbox, .ring, .chain, .pkg, .tags, .age, .inj] ∧ KeepsRegs s t
        ([Reg.FW_AGEING_STATUS, Reg.FW_BOOT_STATUS, Reg.FW_LEDGER_CTRL] ++ (upto 64).map Reg.PC_REF_STATUS ++
        pathRegs)) ∧
  (∀ (s : State) (fails : List MemFail), s.fwRuns .upkeep = true → (s.takeCmd 5).isSome = true →
    Gives (.cmdMemtest fails) s fun t =>
      (∀ l : Loc, l.rank ∈ s.ranks → s.phase ≠ 8 ∨ s.rankState l.rank = 4 ∨ s.rankState l.rank = 5 → t.stack.isUndef l
        = true) ∧ (∀ l : Loc, s.phase = 8 ∧ s.rankState l.rank ≠ 4 ∧ s.rankState l.rank ≠ 5 → t.stack.isUndef l =
        s.stack.isUndef l) ∧ t.chain.taken.length + 1 = s.chain.taken.length ∧ t.stack.cells = s.stack.cells ∧ Keeps s
        t [.pcs, .stack, .inbox, .chain, .age] ∧ KeepsRegs s t []) ∧
  (∀ s : State, s.fwRuns .steward = true → s.phase = 4 → s.pkg.noRange = true → s.pkg.reported = true →
    Gives .phaseFault s fun t =>
      t.phase = 9 ∧ t.gf Reg.FW_BOOT_STATUS Fld.FW_BOOT_STATUS_FAULT_CAUSE = 3 ∧ (∀ p ∈ s.livePcs, t.bit
        (Reg.PC_REF_STATUS p) Fld.PC_REF_STATUS_SELF_REFRESH = true))

/-! ### Command queues (11) -/

/-- The packet of key `k` has completed, now, with its status, detail and deckle word; no other packet changes
  (R290). -/
  abbrev Sys2Proof.Machine.Completes (s t : State) (k : Pk) (st : Status) (detail deckle : Nat) : Prop :=
    (∀ x ∈ t.sched.packets, x.key = k → x.stage = .done st detail deckle ∧ x.stop = s.now .firmware) ∧
      t.sched.packets.map Packet.key = s.sched.packets.map Packet.key ∧
      t.sched.packets.filter (fun x => x.key ≠ k) = s.sched.packets.filter (fun x => x.key ≠ k)

/-- A ring's own line: the address lies in this instance's range, nothing keeps a request to it from its slice. -/
  abbrev Sys2Proof.Machine.OwnLine (s : State) (a : Nat) : Prop :=
    s.route (a / 128 * 128) = .own (natBits (a / 128 * 128) 0 37) ∧ s.shutdown = false ∧ s.pwr.failed = false ∧
      (s.gf Reg.CACHE_FENCE Fld.CACHE_FENCE_PENDING).testBit (s.sliceOf (a / 128 * 128)) = false

/-- A piece of a line in the own range: nothing keeps a request to it from its slice. -/
  abbrev Sys2Proof.Machine.OwnAt (s : State) (a : Nat) : Prop :=
    s.route a = .own (natBits a 0 37) ∧ s.shutdown = false ∧ s.pwr.failed = false ∧
      (s.gf Reg.CACHE_FENCE Fld.CACHE_FENCE_PENDING).testBit (s.sliceOf a) = false

/-- A doorbell with at most E packets ahead of HEAD is TAIL and announces the packets (R285), one beyond it halts the
queue with OVERRUN (R286), and one in FREEWHEEL completes with MGT_ERR (R322). An enable with rings in the own range
makes the queue RUNNING with its indices at zero, one with LOG2_ENTRIES below 4 halts it with BAD_CONFIG (R287). A
reset of a queue with nothing in flight leaves it DISABLED with its indices and FW_QIRQ at zero (R308). ACK is stored
beside COUNT (R310). Forms stated to complete (exec answers next): doorbell, queueEnable, queueReset, queueIrqAck. -/
def Obligations.QueueControl : Prop :=
  (∀ (s : State) (q : Fin 64) (tail : Word), Reached s → s.fwState = 4 → s.qState q = 1 → ahead (s.qHead q) tail.toNat
     ≤ s.qSlots q → ahead (s.qTail q) tail.toNat < 2 ^ 31 → tail.toNat ≠ s.qTail q →
    Gives (.doorbell q tail) s fun t =>
      t.rd (Reg.FW_QDB q) = tail ∧ t.sched.announced = s.sched.announced ++ [(q.val, tail.toNat, s.now .firmware)] ∧
        t.sched.packets = s.sched.packets ∧ Answered s t false ∧ Keeps s t [.mgt, .sched] ∧ KeepsRegs s t [Reg.FW_QDB
        q]) ∧
  (∀ (s : State) (q : Fin 64) (tail : Word), Reached s → s.fwState = 4 → s.qState q = 1 → s.qSlots q < ahead (s.qHead
     q) tail.toNat →
    Gives (.doorbell q tail) s fun t =>
      t.qState q = 2 ∧ t.gf (Reg.FW_QSTATUS q) Fld.FW_QSTATUS_HALT_CAUSE = 2 ∧ Answered s t false ∧ Keeps s t [.mgt] ∧
        KeepsRegs s t [Reg.FW_QSTATUS q]) ∧
  (∀ (s : State) (q : Fin 64) (tail : Word), Reached s → s.fwState = 5 →
    Gives (.doorbell q tail) s fun t =>
      Answered s t true ∧ Keeps s t [.mgt] ∧ KeepsRegs s t []) ∧
  (∀ (s : State) (q : Fin 64) (v : Word), Reached s → s.bit (Reg.FW_QCFG q) Fld.FW_QCFG_ENABLE = false → s.qState q = 0
     → 4 ≤ natBits v.toNat Fld.FW_QCFG_LOG2_ENTRIES.lo Fld.FW_QCFG_LOG2_ENTRIES.width → natBits v.toNat
     Fld.FW_QCFG_LOG2_ENTRIES.lo Fld.FW_QCFG_LOG2_ENTRIES.width ≤ 16 → s.inOwn (s.qBase (Reg.FW_QRING q)) (256 * 2 ^
     natBits v.toNat Fld.FW_QCFG_LOG2_ENTRIES.lo Fld.FW_QCFG_LOG2_ENTRIES.width) = true → s.inOwn (s.qBase
     (Reg.FW_QREPLY q)) (32 * 2 ^ natBits v.toNat Fld.FW_QCFG_LOG2_ENTRIES.lo Fld.FW_QCFG_LOG2_ENTRIES.width) = true →
    Gives (.queueEnable q v) s fun t =>
      t.qState q = 1 ∧ t.bit (Reg.FW_QCFG q) Fld.FW_QCFG_ENABLE = true ∧ t.qHead q = 0 ∧ t.qTail q = 0 ∧ t.rd
        (Reg.FW_QDONE q) = 0 ∧ (∀ a ∈ t.sched.announced, a.1 ≠ q.val) ∧ t.sched.packets = s.sched.packets ∧ Answered s
        t false ∧ Keeps s t [.mgt, .sched] ∧ KeepsRegs s t [Reg.FW_QCFG q, Reg.FW_QHEAD q, Reg.FW_QDB q, Reg.FW_QDONE
        q, Reg.FW_QSTATUS q]) ∧
  (∀ (s : State) (q : Fin 64) (v : Word), Reached s → s.bit (Reg.FW_QCFG q) Fld.FW_QCFG_ENABLE = false → s.qState q = 0
     → natBits v.toNat Fld.FW_QCFG_LOG2_ENTRIES.lo Fld.FW_QCFG_LOG2_ENTRIES.width < 4 →
    Gives (.queueEnable q v) s fun t =>
      t.qState q = 2 ∧ t.gf (Reg.FW_QSTATUS q) Fld.FW_QSTATUS_HALT_CAUSE = 3 ∧ Answered s t false ∧ Keeps s t [.mgt,
        .sched] ∧ KeepsRegs s t [Reg.FW_QCFG q, Reg.FW_QHEAD q, Reg.FW_QDB q, Reg.FW_QDONE q, Reg.FW_QSTATUS q]) ∧
  (∀ (s : State) (q : Fin 64) (v : Word), Reached s → s.qState q ≠ 3 → (∀ x ∈ s.sched.packets, x.queue ≠ q) →
    Gives (.queueReset q v) s fun t =>
      t.qState q = 0 ∧ t.gf (Reg.FW_QSTATUS q) Fld.FW_QSTATUS_HALT_CAUSE = 0 ∧ t.bit (Reg.FW_QCFG q) Fld.FW_QCFG_ENABLE
        = false ∧ t.bit (Reg.FW_QCFG q) Fld.FW_QCFG_RESET = false ∧ t.qHead q = 0 ∧ t.qTail q = 0 ∧ t.rd (Reg.FW_QDONE
        q) = 0 ∧ t.rd64 (Reg.FW_QIRQ q) = 0 ∧ t.sched.packets = s.sched.packets ∧ Answered s t false ∧ Keeps s t [.mgt,
        .sched] ∧ KeepsRegs s t [Reg.FW_QCFG q, Reg.FW_QHEAD q, Reg.FW_QDB q, Reg.FW_QDONE q, Reg.FW_QSTATUS q,
        Reg.FW_QIRQ q, Reg.FW_QIRQ q + 4]) ∧
  (∀ (s : State) (q : Fin 64) (ack : Word), Reached s →
    Gives (.queueIrqAck q ack) s fun t =>
      t.gf64 (Reg.FW_QIRQ q) Fld.FW_QIRQ_ACK = ack.toNat ∧ t.gf64 (Reg.FW_QIRQ q) Fld.FW_QIRQ_COUNT = s.gf64
        (Reg.FW_QIRQ q) Fld.FW_QIRQ_COUNT ∧ Answered s t false ∧ Keeps s t [.mgt] ∧ KeepsRegs s t [Reg.FW_QIRQ q,
        Reg.FW_QIRQ q + 4]) ∧
  (∀ (s : State) (q : Fin 64) (v : Word), Reached s → s.qState q ≠ 3 →
    Gives (.queueReset q v) s fun t =>
      (t.qState q = 0 ∨ t.qState q = 3) ∧ t.bit (Reg.FW_QCFG q) Fld.FW_QCFG_ENABLE = false ∧ (∀ x ∈ t.sched.packets,
        x.queue = q → x.stage ≠ .fetched ∧ x.stage ≠ .taken) ∧ Answered s t false ∧ Keeps s t [.free, .mgt, .paths,
        .sched, .seq] ∧ KeepsRegs s t (queueRegs q))

/-- The chosen queue's packet at HEAD is read from its slot and HEAD moves on; an unreadable slot halts the queue
(R288). Intake takes the packet, or refuses a wrong sequence number with BAD_SEQUENCE and halts the queue (R292). The
front packet of a queue starts unless an uncompleted FENCE stands before it (R298, R309). NOP and a FENCE whose
packets have completed complete OK, a misaligned FENCE write is refused, and an aligned one is issued and completes
the FENCE with its status (R298). A completed packet's reply is written at its own index (R284, R291), counts in
FW_QDONE once written, and in FW_QIRQ if IRQ is set (R310). Forms stated to complete (exec answers next):
packetFetch, packetIntake, packetStart, replyWrite, nop, fence. -/
def Obligations.PacketsThroughAQueue : Prop :=
  (∀ (s : State) (q : Fin 64), s.fetches = true → s.sched.packets.length < 256 → (∀ x ∈ s.sched.packets, x.stage ≠
     .fetched) → s.nextQueue = some q → OwnLine s (s.qBase (Reg.FW_QRING q) + 256 * (s.qHead q % s.qSlots q)) → (s.peek
     (s.qBase (Reg.FW_QRING q) + 256 * (s.qHead q % s.qSlots q)) 128).1 = .ok → leNat (sliceBytes (s.peek (s.qBase
     (Reg.FW_QRING q) + 256 * (s.qHead q % s.qSlots q)) 128).2 2 2) ≤ 16 →
    Gives .packetFetch s fun t =>
      t.sched.packets = s.sched.packets ++
        [{ Packet.new q (s.qHead q) (s.peek (s.qBase (Reg.FW_QRING q) + 256 * (s.qHead q % s.qSlots q)) 128).2 with
            reads := [s.freshId] }] ∧ t.qHead q = (s.qHead q + 1) % 2 ^ 32 ∧ t.sched.lastQueue = q ∧ t.sched.fetches =
        s.sched.fetches + 1 ∧ Keeps s t [.free, .paths, .sched, .tags] ∧ KeepsRegs s t (Reg.FW_QHEAD q :: tagRegs)) ∧
  (∀ (s : State) (q : Fin 64), s.fetches = true → s.sched.packets.length < 256 → (∀ x ∈ s.sched.packets, x.stage ≠
     .fetched) → s.nextQueue = some q → OwnLine s (s.qBase (Reg.FW_QRING q) + 256 * (s.qHead q % s.qSlots q)) → (s.peek
     (s.qBase (Reg.FW_QRING q) + 256 * (s.qHead q % s.qSlots q)) 128).1 ≠ .ok →
    Gives .packetFetch s fun t =>
      t.qState q = 2 ∧ t.gf (Reg.FW_QSTATUS q) Fld.FW_QSTATUS_HALT_CAUSE = 4 ∧ t.sched.packets = s.sched.packets ∧
        Keeps s t [.free, .paths, .sched, .tags] ∧ KeepsRegs s t (Reg.FW_QSTATUS q :: tagRegs)) ∧
  (∀ (s : State) (p : Packet), s.fwRuns .scheduler = true → s.sched.packets.find? (fun x => x.stage = .fetched) = some
     p → (p.reads.all fun i => s.doneStatus i = .ok) = true → s.travels (fun r => p.reads.contains r.id) = false →
     p.headerRefusal = none → p.isNoop = false →
    Gives .packetIntake s fun t =>
      t.sched.packets = s.sched.packets.map (fun x => if x.key = p.key then
        { x with stage := .taken, taken := s.sched.takenSeq } else x) ∧ t.sched.takenSeq = s.sched.takenSeq + 1 ∧
        t.paths.reqXbar = s.paths.reqXbar ∧ Keeps s t [.sched, .paths] ∧ KeepsRegs s t []) ∧
  (∀ (s : State) (p : Packet), s.fwRuns .scheduler = true → s.sched.packets.find? (fun x => x.stage = .fetched) = some
     p → (p.reads.all fun i => s.doneStatus i = .ok) = true → s.travels (fun r => p.reads.contains r.id) = false →
     p.seq ≠ p.index → s.qState p.queue = 1 →
    Gives .packetIntake s fun t =>
      Completes s t p.key .badSequence p.index 0 ∧ t.qState p.queue = 2 ∧ t.gf (Reg.FW_QSTATUS p.queue)
        Fld.FW_QSTATUS_HALT_CAUSE = 1 ∧ Keeps s t [.sched, .paths] ∧ KeepsRegs s t [Reg.FW_QSTATUS p.queue]) ∧
  (∀ (s : State) (q : Fin 64) (p : Packet), s.fwRuns .scheduler = true → s.front q = some p → p.cancelled = false →
     (p.fenceBefore = true → ∀ x ∈ s.earlier p, s.completed x = true) → (∀ x ∈ s.earlier p, x.opcode = 1 → s.completed
     x = true) → s.engineFree p.opcode = true → s.shutdown = false →
    Gives (.packetStart q) s fun t =>
      t.sched.packets = s.sched.packets.map (fun x => if x.key = p.key then
        { x with stage := .running, start := s.now .firmware } else x) ∧ Keeps s t [.sched] ∧ KeepsRegs s t []) ∧
  (∀ (s : State) (q : Fin 64) (p x : Packet), s.fwRuns .scheduler = true → s.front q = some p → p.cancelled = false → x
     ∈ s.earlier p → x.opcode = 1 → s.completed x = false →
    Gives (.packetStart q) s fun t =>
      t = s) ∧
  (∀ (s : State) (p : Packet), s.fwRuns .scheduler = true → s.shutdown = false → s.settleOps = s →
     s.sched.replies.find? (fun r => !s.inFlight r.1) = none → s.sched.packets.find? (fun x => s.completed x ∧
     !(s.sched.replies.any fun r => r.2 = x.key)) = some p → OwnAt s (s.qBase (Reg.FW_QREPLY p.queue) + 32 * (p.index %
     s.qSlots p.queue)) →
    Gives .replyWrite s fun t =>
      t.sched.replies = s.sched.replies ++ [(s.freshId, p.key)] ∧ t.sched.packets = s.sched.packets ∧ t.paths.reqXbar =
        s.paths.reqXbar ++ writeReqs s.freshId .firmware .normal 1 (s.qBase (Reg.FW_QREPLY p.queue) + 32 * (p.index %
        s.qSlots p.queue)) ((p.reply (s.gf (Reg.FW_QCFG p.queue) Fld.FW_QCFG_LOG2_ENTRIES) (s.lastWrite p)).map some) ∧
        Keeps s t [.paths, .sched, .tags] ∧ KeepsRegs s t tagRegs) ∧
  (∀ (s : State) (i : Nat) (k : Pk), s.fwRuns .scheduler = true → s.settleOps = s → s.sched.replies.find? (fun r =>
     !s.inFlight r.1) = some (i, k) → s.doneStatus i = .ok → s.qState (qFin k.1) ≠ 3 →
    Gives .replyWrite s fun t =>
      t.gf (Reg.FW_QDONE (qFin k.1)) Fld.FW_QDONE_COUNT = (s.gf (Reg.FW_QDONE (qFin k.1)) Fld.FW_QDONE_COUNT + 1) % 2 ^
        32 ∧ ((s.packet k).any Packet.irq = true → t.gf64 (Reg.FW_QIRQ (qFin k.1)) Fld.FW_QIRQ_COUNT = (s.gf64
        (Reg.FW_QIRQ (qFin k.1)) Fld.FW_QIRQ_COUNT + 1) % 2 ^ 32) ∧ ((s.packet k).any Packet.irq = false → t.rd64
        (Reg.FW_QIRQ (qFin k.1)) = s.rd64 (Reg.FW_QIRQ (qFin k.1))) ∧ t.sched.packets = s.sched.packets.filter (fun x
        => x.key ≠ k) ∧ Keeps s t [.paths, .sched] ∧ KeepsRegs s t [Reg.FW_QDONE (qFin k.1), Reg.FW_QIRQ (qFin k.1),
        Reg.FW_QIRQ (qFin k.1) + 4]) ∧
  (∀ (s : State) (p : Packet), s.fwRuns .scheduler = true → s.waitingPk (fun x => x.opcode = 0) = some p →
    Gives .nop s fun t =>
      Completes s t p.key .ok 0 0 ∧ Keeps s t [.sched] ∧ KeepsRegs s t []) ∧
  (∀ (s : State) (p : Packet), s.fwRuns .scheduler = true → p ∈ s.sched.packets → p.opcode = 1 → p.stage = .running →
     (∀ x ∈ s.sched.packets, x.opcode = 1 → x.stage = .running → x = p) → (p.nat 12 1).testBit 1 = false → s.fenceMet p
     = true →
    Gives .fence s fun t =>
      Completes s t p.key .ok 0 0 ∧ Keeps s t [.sched] ∧ KeepsRegs s t []) ∧
  (∀ (s : State) (p : Packet), s.fwRuns .scheduler = true → p ∈ s.sched.packets → p.opcode = 1 → p.stage = .running →
     (∀ x ∈ s.sched.packets, x.opcode = 1 → x.stage = .running → x = p) → (p.nat 12 1).testBit 1 = true → p.addr 16 % 8
     ≠ 0 →
    Gives .fence s fun t =>
      Completes s t p.key .badParameter 3 0 ∧ t.paths = s.paths ∧ Keeps s t [.sched] ∧ KeepsRegs s t []) ∧
  (∀ (s : State) (p : Packet), s.fwRuns .scheduler = true → s.sched.packets.find? (fun x => x.stage = .fetched) = some
     p → (p.reads.any fun i => s.doneStatus i ≠ .ok) = true → s.travels (fun r => p.reads.contains r.id) = false →
     s.qState p.queue = 1 →
    Gives .packetIntake s fun t =>
      t.qState p.queue = 2 ∧ t.gf (Reg.FW_QSTATUS p.queue) Fld.FW_QSTATUS_HALT_CAUSE = 4 ∧ t.rd (Reg.FW_QHEAD p.queue)
        = BitVec.ofNat 32 p.index ∧ t.sched.packets = s.sched.packets.filter (fun x => x.key ≠ p.key) ∧ Keeps s t
        [.sched, .paths] ∧ KeepsRegs s t [Reg.FW_QSTATUS p.queue, Reg.FW_QHEAD p.queue]) ∧
  (∀ (s : State) (p : Packet), s.fwRuns .scheduler = true → p ∈ s.sched.packets → p.opcode = 1 → p.stage = .running →
     (∀ x ∈ s.sched.packets, x.opcode = 1 → x.stage = .running → x = p) → (p.nat 12 1).testBit 1 = true → p.addr 16 % 8
     = 0 → s.fenceMet p = true → p.writes = [] → OwnAt s (p.addr 16) →
    Gives .fence s fun t =>
      t.paths.reqXbar = s.paths.reqXbar ++ writeReqs s.freshId .firmware .normal 1 (p.addr 16) ((sliceBytes p.bytes 24
        8).map some) ∧ (∀ x ∈ t.sched.packets, x.key = p.key → x.stage = .running ∧ x.writes = [s.freshId]) ∧ Keeps s t
        [.paths, .sched, .tags] ∧ KeepsRegs s t tagRegs) ∧
  (∀ (s : State) (p : Packet) (i : Nat), s.fwRuns .scheduler = true → p ∈ s.sched.packets → p.opcode = 1 → p.stage =
     .running → (∀ x ∈ s.sched.packets, x.opcode = 1 → x.stage = .running → x = p) → (p.nat 12 1).testBit 1 = true →
     p.addr 16 % 8 = 0 → s.fenceMet p = true → p.writes = [i] → s.inFlight i = false →
    Gives .fence s fun t =>
      Completes s t p.key (s.doneStatus i) 0 0 ∧ Keeps s t [.sched] ∧ KeepsRegs s t [])

/-- A CLEAN_RANGE in the own range starts its sweep at set 0 of every slice that is not fenced, a set's dirty lines
in the range are written back and stay, and the packet completes with the count of lines (R304). A COLLECTIVE is
taken up; the notice of its last line leads to the notification of its partners, after which it completes with its
lines and deckle (R305); its timeout ends it with TIMED_OUT and the lines complete so far, its deckle being a free
value, and 0 for a format that has none (R306). CANCEL completes with 0 where nothing answers to its queue and tag or
what answers is done, else with 1 and the packet cancelled (R307). Forms stated to complete (exec answers next):
cleanRange, cleanSweepSet, collective, completionNotice, collectiveTimeout, cancel. -/
def Obligations.CleansCollectivesAndCancel : Prop :=
  (∀ (s : State) (p : Packet), s.fwRuns .scheduler = true → s.sched.clean = none → s.waitingPk (fun x => x.opcode = 6)
     = some p → s.cleanRefusal (p.addr 16) (natBits (p.nat 24 8) 0 38) = none →
    Gives .cleanRange s fun t =>
      t.sched.clean.map (fun c => (c.pk, c.addr, c.bytes, c.count)) = some (p.key, p.addr 16, natBits (p.nat 24 8) 0
        38, 0) ∧ (∀ sl : Fin 16, s.fenced.testBit sl = false → t.paths.slices[sl].sweep.map (fun x => (x.1, x.2.1,
        x.2.2.1)) = some (0, p.addr 16, natBits (p.nat 24 8) 0 38)) ∧ (∀ sl : Fin 16, s.fenced.testBit sl = true →
        t.paths.slices[sl] = s.paths.slices[sl]) ∧ (∀ sl : Fin 16, t.paths.slices[sl].ways = s.paths.slices[sl].ways) ∧
        Keeps s t [.paths, .sched] ∧ KeepsRegs s t []) ∧
  (∀ (s : State) (c : CleanOp), s.fwRuns .scheduler = true → s.sched.clean = some c → (∀ sl : Fin 16,
     s.paths.slices[sl].sweep = none) → s.paths.memXbar = [] →
    Gives .cleanRange s fun t =>
      Completes s t c.pk .ok (min c.count (2 ^ 32 - 1)) 0 ∧ t.sched.clean = none ∧ Keeps s t [.sched] ∧ KeepsRegs s t
        []) ∧
  (∀ (s : State) (sl : Fin 16) (k st addr bytes : Nat), s.answers sl = true → s.paths.slices[sl].sweep = some (st,
     addr, bytes, false, false) → s.paths.slices[sl].input = [] → s.paths.slices[sl].misses = [] → (setKeys st).filter
     (fun j => (s.paths.slices[sl].way j).used && inRange addr bytes (s.paths.slices[sl].way j).base) = [k] →
     (s.paths.slices[sl].way k).isDirty = true → s.wbUsed sl < 64 →
    Gives (.cleanSweepSet sl) s fun t =>
      (t.paths.slices[sl].way k).isDirty = false ∧ lineOf t sl k = lineOf s sl k ∧ t.paths.memXbar.length =
        s.paths.memXbar.length + (s.paths.slices[sl].way k).dirtySectors.length ∧ t.sched.clean.map (·.count) =
        s.sched.clean.map (fun c => c.count + 1) ∧ t.paths.slices[sl].sweep.map (·.1) = (if st + 1 < 3072 then some (st
        + 1) else none) ∧ (∀ x, x ≠ sl → t.paths.slices[x] = s.paths.slices[x]) ∧ Keeps s t [.paths, .sched] ∧
        KeepsRegs s t []) ∧
  (∀ (s : State) (p : Packet), s.fwRuns .scheduler = true → s.waitingPk (fun x => x.opcode = 7) = some p →
     s.collRefusal p = none →
    Gives .collective s fun t =>
      t.sched.colls = s.sched.colls ++ [p.coll] ∧ t.sched.packets = s.sched.packets.map (fun x => if x.key = p.key then
        { x with loaded := true } else x) ∧ t.inbox.notices = s.inbox.notices ∧ Keeps s t [.inbox, .sched] ∧ KeepsRegs
        s t []) ∧
  (∀ (s : State) (c : Coll) (rest : List Coll), s.fwRuns .scheduler = true → s.waitingPk (fun x => x.opcode = 7) = none
     → s.sched.colls = c :: rest → c.phase = .notifying → c.toNotify = [] → c.awaiting = [] → c.overcount = none →
     c.failed = none →
    Gives .collective s fun t =>
      Completes s t c.pk .ok c.lines c.deckle ∧ t.sched.colls = rest.filter (fun x => x.pk ≠ c.pk) ∧ Keeps s t [.sched]
        ∧ KeepsRegs s t []) ∧
  (∀ (s : State) (c : Coll) (a : Nat) (rest : List Nat), s.fwRuns .scheduler = true → s.inbox.notices = a :: rest →
     s.sched.colls = [c] → c.phase = .waiting → c.addr ≤ a → (a - c.addr) / 128 < c.lines → (a - c.addr) / 128 ∉
     c.complete → c.complete.length + 1 = c.lines → c.release = false →
    Gives .completionNotice s fun t =>
      t.inbox.notices = rest ∧ t.sched.colls.map (fun x => (x.pk, x.phase, x.complete, x.toNotify)) = [(c.pk,
        .notifying, (a - c.addr) / 128 :: c.complete, (upto c.notifyCount).map fun j => c.notifyFirst + j)] ∧
        t.sched.packets = s.sched.packets ∧ Keeps s t [.inbox, .sched] ∧ KeepsRegs s t []) ∧
  (∀ (s : State) (c : Coll), s.fwRuns .scheduler = true → s.sched.colls = [c] → c.phase = .waiting → c.timeoutUs ≠ 0 →
     ((AtomFormat.ofCode c.format).bind AtomFormat.shape).isSome = true → (0 < c.armed ∨ c.arm.isSome = true) →
     c.armedAt + c.timeoutUs * 1000 ≤ s.now .firmware →
    Gives .collectiveTimeout s fun t =>
      Completes s t c.pk .timedOut c.complete.length ((Config.openValue s.free).toNat % 2 ^ 32) ∧ t.sched.colls = [] ∧
        t.free = s.free + 1 ∧ Keeps s t [.free, .sched] ∧ KeepsRegs s t []) ∧
  (∀ (s : State) (p : Packet), s.fwRuns .scheduler = true → s.sched.packets.find? (fun x => x.opcode = 8 ∧ x.stage =
     .taken) = some p → p.cancelled = false → s.cancelTarget p = none →
    Gives .cancel s fun t =>
      Completes s t p.key .ok 0 0 ∧ Keeps s t [.sched] ∧ KeepsRegs s t []) ∧
  (∀ (s : State) (p x : Packet), s.fwRuns .scheduler = true → s.sched.packets.find? (fun y => y.opcode = 8 ∧ y.stage =
     .taken) = some p → p.cancelled = false → s.cancelTarget p = some x → x.stage = .taken →
    Gives .cancel s fun t =>
      (∀ y ∈ t.sched.packets, (y.key = p.key → y.stage = .done .ok 1 0) ∧ (y.key = x.key → y.cancelled = true)) ∧
        t.sched.packets.map Packet.key = s.sched.packets.map Packet.key ∧ t.sched.packets.filter (fun y => y.key ≠
        p.key ∧ y.key ≠ x.key) = s.sched.packets.filter (fun y => y.key ≠ p.key ∧ y.key ≠ x.key) ∧ Keeps s t [.sched] ∧
        KeepsRegs s t []) ∧
  (∀ (s : State) (c : Coll), s.fwRuns .scheduler = true → s.sched.colls.find? (fun c => c.phase = .waiting ∧
     c.timeoutUs ≠ 0 ∧ c.armedAt + c.timeoutUs * 1000 ≤ s.now .firmware) = some c → ((AtomFormat.ofCode c.format).bind
     AtomFormat.shape).isNone = true →
    Gives .collectiveTimeout s fun t =>
      Completes s t c.pk .timedOut c.complete.length 0 ∧ t.sched.colls = s.sched.colls.filter (fun x => x.pk ≠ c.pk) ∧
        Keeps s t [.sched] ∧ KeepsRegs s t []) ∧
  (∀ (s : State) (sl : Fin 16) (st addr bytes : Nat) (drop discard : Bool), s.answers sl = true →
     s.paths.slices[sl].sweep = some (st, addr, bytes, drop, discard) → (∀ r ∈ s.paths.slices[sl].input, ¬ (setOfLine
     (lineNo r.addr) = st ∧ inRange addr bytes (r.addr / 128 * 128) = true)) → s.paths.slices[sl].misses = [] →
     s.wbUsed sl + 16 ≤ 64 →
    Gives (.cleanSweepSet sl) s fun t =>
      t.paths.slices[sl].sweep = (if st + 1 < 3072 then some (st + 1, addr, bytes, drop, discard) else none) ∧
        t.paths.slices[sl].input = s.paths.slices[sl].input ∧ (∀ x, x ≠ sl → t.paths.slices[x] = s.paths.slices[x]) ∧
        t.sched.packets = s.sched.packets ∧ Keeps s t [.paths, .sched] ∧ KeepsRegs s t []) ∧
  (∀ (s : State) (c : Coll) (rest : List Coll), s.fwRuns .scheduler = true → s.waitingPk (fun x => x.opcode = 7) = none
     → s.sched.colls = c :: rest → c.phase = .arming → s.collLost c = none → c.arm = none → c.armed < c.lines → OwnAt s
     (c.addr + 128 * c.armed) →
    Gives .collective s fun t =>
      t.paths.reqXbar = s.paths.reqXbar ++ [redReq s.freshId 0 (c.addr + 128 * c.armed) (8 + c.format * 16 + c.func *
        256) (leBytes 4 c.expected ++ zeros 12)] ∧ t.sched.colls.head? = some { c with arm := some s.freshId } ∧
        t.sched.packets = s.sched.packets ∧ Keeps s t [.paths, .sched, .tags] ∧ KeepsRegs s t tagRegs) ∧
  (∀ (s : State) (c : Coll) (a : Nat) (rest : List Nat), s.fwRuns .scheduler = true → s.inbox.notices = a :: rest →
     s.sched.colls.find? (fun c => c.phase ≠ .notifying ∧ c.addr ≤ a ∧ (a - c.addr) / 128 < c.lines ∧ (a - c.addr) /
     128 ∉ c.complete) = some c → (c.phase = .waiting → c.complete.length + 1 < c.lines) →
    Gives .completionNotice s fun t =>
      t.inbox.notices = rest ∧ (∀ x ∈ t.sched.colls, x.pk = c.pk → x.complete = (a - c.addr) / 128 :: c.complete ∧
        x.phase = c.phase) ∧ t.sched.packets = s.sched.packets ∧ Keeps s t [.inbox, .sched] ∧ KeepsRegs s t []) ∧
  (∀ (s : State) (p x : Packet), s.fwRuns .scheduler = true → s.sched.packets.find? (fun y => y.opcode = 8 ∧ y.stage =
     .taken) = some p → p.cancelled = false → s.cancelTarget p = some x → x.isDone = true →
    Gives .cancel s fun t =>
      Completes s t p.key .ok 0 0 ∧ Keeps s t [.sched] ∧ KeepsRegs s t []) ∧
  (∀ (s : State) (p x : Packet), s.fwRuns .scheduler = true → s.sched.packets.find? (fun y => y.opcode = 8 ∧ y.stage =
     .taken) = some p → p.cancelled = false → s.cancelTarget p = some x → x.stage = .running → s.seq.ops.all (fun o =>
     o.pk ≠ x.key) = true → s.sched.colls.all (fun c => c.pk ≠ x.key) = true → (∀ c, s.sched.clean = some c → c.pk ≠
     x.key) →
    Gives .cancel s fun t =>
      (∀ y ∈ t.sched.packets, (y.key = p.key → y.stage = .done .ok 1 0) ∧ (y.key = x.key → y.cancelled = true ∧ y.stage
        = .done .cancelled 0 0)) ∧ t.sched.packets.map Packet.key = s.sched.packets.map Packet.key ∧ Keeps s t [.sched]
        ∧ KeepsRegs s t [])

/-! ### Signatures, element-wise operations and the press (08, 09) -/

/-- What a request on its way may change: unique numbers and tags, the paths, and, for another instance, the ring with
  its injectors (R28, R467, R519). -/
  abbrev Sys2Proof.Machine.pathRegions : List Region := [.free, .inj, .paths, .ring, .tags]

/-- The operation of a packet has entered the sequencer, and its engine has taken the packet up (R211). -/
  abbrev Sys2Proof.Machine.TakenUp (s t : State) (k : Pk) (o : EngOp) : Prop :=
    t.seq.ops = s.seq.ops ++ [o] ∧
      t.sched.packets = s.sched.packets.map fun x => if x.key = k then { x with loaded := true } else x

/-- The element-wise operations in the sequencer. -/
  def Sys2Proof.Machine.Sequencer.ewOps (q : Sequencer) : List EwOp :=
    q.ops.filterMap fun e =>
      match e with
      | .ew o => some o
      | _ => none

/-- One signature of the host is in the sequencer, and no remote bag is being gathered. -/
  abbrev Sys2Proof.Machine.OneSig (s : State) (o : SigOp) : Prop :=
    s.seq.ops = [.sig o] ∧ s.seq.remoteRun = [] ∧ o.remote = none

/-- A table number beyond the descriptor table is refused with BAD_TABLE (R219); a signature that passes the check
enters the sequencer with its offsets and indices (R211, R219). A deal orders every part of the next bag (R214,
R220); the next remote bag is taken when no host signature waits (R235). A fetch order off the direct path is a read
with hint LAST and class 3 (R221); arrived data is added to its bag; a bag with every part added commits while fewer
than eight hold banks (R222, R226); run-ahead sends prefetches only and moves on by one bag (R227). Forms stated to
complete (exec answers next): signature, bagDeal, fetchOrder, rowPartArrival, bagPrefetch, bagCommit. -/
def Obligations.SignatureIntakeAndGather : Prop :=
  (∀ (s : State) (p : Packet), s.live .firmware = true → s.waitingPk (fun x => x.opcode = 2) = some p → s.gf
     Reg.BME_TDT_SIZE Fld.BME_TDT_SIZE_ENTRIES ≤ p.nat 12 2 →
    Gives .signature s fun t =>
      Completes s t p.key .badTable (p.nat 12 2) 0 ∧ t.seq = s.seq ∧ Keeps s t [.sched] ∧ KeepsRegs s t []) ∧
  (∀ (s : State) (p : Packet) (d0 : Desc) (u v w : State) (ob ib : List Byte), s.live .firmware = true → s.waitingPk
     (fun x => x.opcode = 2) = some p → s.readDesc p.sigParams.table = (some d0, u) → p.sigParams.bad d0 = none →
     u.outside [(6, .flat p.sigParams.offs (4 * (p.sigParams.bags + 1)))] = none → u.bmeFetch .normal p.sigParams.offs
     (4 * (p.sigParams.bags + 1)) = ((.ok, ob), v) → v.outside (p.sigParams.arrays ((words32 ob).getD 0 0) ((words32
     ob).getD p.sigParams.bags 0) ++ p.sigParams.writes d0) = none → firstOverlap (d0.area :: .flat p.sigParams.offs (4
     * (p.sigParams.bags + 1)) :: (p.sigParams.arrays ((words32 ob).getD 0 0) ((words32 ob).getD p.sigParams.bags
     0)).map (·.2)) (p.sigParams.writes d0) = none → v.noSubstitute = false → badOffset (words32 ob) = none →
     v.bmeFetch .normal (p.sigParams.inds + 4 * (words32 ob).getD 0 0) (4 * ((words32 ob).getD p.sigParams.bags 0 -
     (words32 ob).getD 0 0)) = ((.ok, ib), w) → (∀ i, i < (words32 ob).getD p.sigParams.bags 0 - (words32 ob).getD 0 0
     → d0.first ≤ (words32 ib).getD i 0 ∧ (words32 ib).getD i 0 < d0.first + d0.rows) →
    Gives .signature s fun t =>
      TakenUp s t p.key (.sig (p.sigParams.op p.key d0 (words32 ob) (words32 ib))) ∧ t.paths.slices = s.paths.slices ∧
        Keeps s t ([.sched, .seq] ++ pathRegions) ∧ KeepsRegs s t pathRegs) ∧
  (∀ (s : State) (o : SigOp), s.live .firmware = true → OneSig s o → s.seq.remoteQueue = [] → o.gather.length < 4 ∧
     s.shutdown = false → (o.next < o.limit ∨ o.redo ≠ []) → o.mode ≠ .weighted →
    Gives .bagDeal s fun t =>
      t.seq.ops = [.sig { o with
            redo := o.redo.drop 1, next := if o.redo.isEmpty then o.next + 1 else o.next,
            gather := o.gather ++ [s.dealt o (o.redo.headD o.next) [] none] }] ∧ Keeps s t (.seq :: pathRegions) ∧
        KeepsRegs s t pathRegs) ∧
  (∀ (s : State) (r : SigOp) (rest : List SigOp), s.live .firmware = true → s.seq.ops = [] → s.seq.remoteRun = [] →
     s.seq.remoteQueue = r :: rest ∧ s.shutdown = false →
    Gives .bagDeal s fun t =>
      t.seq.remoteQueue = rest ∧ t.seq.remoteRun = [{ r with next := 1, gather := [s.dealt r 0 r.weights none] }] ∧
        t.seq.ops = [] ∧ Keeps s t [.seq] ∧ KeepsRegs s t []) ∧
  (∀ (s : State) (b : Fin 32) (o : SigOp) (g : Bag) (p : Part) (rest : List Part) (j l : Nat), s.live (.bme b) = true →
     OneSig s o → o.gather = [g] → g.left = p :: rest → p.issued = none → p.asked = 0 → s.rowRoom o.table b (p.row + 64
     * j) = true → p.blocks = [j] → s.bmeOf p.role = some b → o.table.direct = false → s.route (p.row + 64 * j) = .own
     l → s.shutdown = false → s.pwr.failed = false → (s.gf Reg.CACHE_FENCE Fld.CACHE_FENCE_PENDING).testBit (s.sliceOf
     (p.row + 64 * j)) = false →
    Gives (.fetchOrder b) s fun t =>
      t.paths.reqXbar = s.paths.reqXbar ++
        [{ quietRead s.freshId 0 (.bme b) .last 3 (p.row + 64 * j) 64 with quiet := false }] ∧ t.seq.ops = [.sig
        { o with gather := [{ g with left := { p with issued := some s.freshId, asked := 1 } :: rest }] }] ∧ Keeps s t
        [.paths, .seq, .tags] ∧ KeepsRegs s t tagRegs) ∧
  (∀ (s : State) (b : Fin 32) (o : SigOp) (g : Bag) (p : Part) (c : Completion) (j : Nat), s.live (.bme b) = true →
     s.paths.rets = [] → s.paths.done = [c] → c.req.src = .bme b → c.req.op = .read → OneSig s o → o.gather = [g] →
     g.left = [p] → p.issued = some c.req.id → p.blocks = [j] → p.got = [] →
    Gives (.rowPartArrival b) s fun t =>
      t.paths.done = [] ∧ t.seq.ops = [.sig
        { o with gather := [{ g with left := [] }.add o { p with got := [(j, c.status, c.data)] }] }] ∧ Keeps s t
        [.paths, .seq] ∧ KeepsRegs s t []) ∧
  (∀ (s : State) (o : SigOp), s.live .firmware = true → OneSig s o → max o.next o.prefetched < min o.limit (o.next +
     s.gf Reg.BME_CTRL Fld.BME_CTRL_RUNAHEAD) →
    Gives .bagPrefetch s fun t =>
      t.seq.ops = [.sig { o with prefetched := max o.next o.prefetched + 1 }] ∧ (∀ r ∈ t.paths.reqXbar, r ∈
        s.paths.reqXbar ∨ r.op = .read ∧ (r.prefetch = true ∨ r.quiet = true)) ∧ t.paths.slices = s.paths.slices ∧
        Keeps s t (.seq :: pathRegions) ∧ KeepsRegs s t pathRegs) ∧
  (∀ (s : State) (o : SigOp) (g : Bag) (rest : List Bag), s.live .firmware = true → OneSig s o → o.gather = g :: rest →
     g.left = [] → s.inSpine < 8 →
    Gives .bagCommit s fun t =>
      t.seq.ops = [.sig { o with gather := rest, spine := o.spine ++ [g], committed := max o.committed (g.no + 1) }] ∧
        Keeps s t [.seq] ∧ KeepsRegs s t [])

/-- A spine stage works on the oldest bag that has come to it (R223, R226). A finished bag of a host signature leaves
the spine with its writes issued, and is kept with its deckle until they complete (R225, R226); one of a remote
request is handed to the remote port with its status and deckle (R235). A failed engine sets its bit of BME_FAILED,
is captured and logged, and its domain goes off (R231, R461); the progress timeout fails an engine that is stuck and
does nothing to another. Forms stated to complete (exec answers next): spineStage, bagFinish, bmeFail,
bmeProgressTimeout. -/
def Obligations.SpineFinishAndFailure : Prop :=
  (∀ (s : State) (k : Fin 5) (o : SigOp) (g : Bag) (rest : List Bag), s.live .firmware = true → OneSig s o → o.spine =
     g :: rest → g.stage = k + 1 →
    Gives (.spineStage k) s fun t =>
      t.seq.ops = [.sig { o with spine := g.spineStage o k :: rest }] ∧ Keeps s t [.seq] ∧ KeepsRegs s t []) ∧
  (∀ (s u : State) (o : SigOp) (g : Bag) (w : Written), s.live .firmware = true → OneSig s o → o.spine = [g] → g.stage
     = 0 → o.writing = [] → s.settleOps = s → s.bagWrites o g = (w, u) → u.unwritten w = true →
    Gives .bagFinish s fun t =>
      t.seq.sigs = [{ o with spine := [], writing := [w] }] ∧ w.no = g.no ∧ w.deckle = (o.finish g).2.2 ∧ t.paths =
        u.paths ∧ t.sched = u.sched ∧ Keeps s t ([.sched, .seq] ++ pathRegions) ∧ KeepsRegs s t pathRegs) ∧
  (∀ (s : State) (o : SigOp) (g : Bag) (r : Nat), s.live .firmware = true → s.seq.ops = [] → s.seq.remoteRun = [o] →
     o.remote = some r → o.spine = [g] → g.stage = 0 → o.edeckleAddr = none →
    Gives .bagFinish s fun t =>
      t.seq.answers = s.seq.answers ++ [(r, g.mark.getD .ok, deckleWord (o.finish g).2.2, (o.finish g).1)] ∧
        t.seq.remoteRun = [] ∧ Keeps s t [.seq] ∧ KeepsRegs s t []) ∧
  (∀ (s : State) (b : Fin 32) (cond : BitVec 2), s.live (.bme b) = true → s.bmeOk b = true →
    Gives (.bmeFail b cond) s fun t =>
      t.bmeOk b = false ∧ (∀ m : Fin 32, m ≠ b → t.bmeOk m = s.bmeOk m) ∧ t.bit Reg.PC_REPAIR_EVENT
        Fld.PC_REPAIR_EVENT_BME_FAIL = true ∧ t.dom (64 + b) = .off ∧ t.up (.bme b) = false ∧ t.inbox.log.map (fun r =>
        (r.code, r.args)) = s.inbox.log.map (fun r => (r.code, r.args)) ++ [(0x0076, [b.val, cond.toNat])] ∧ Keeps s t
        [.fw, .inbox, .pwr, .seq] ∧ KeepsRegs s t (fecRegs ++ [Reg.BME_FAILED, Reg.PC_REPAIR_EVENT, Reg.THERM_DOM_STATE
        ((64 + b) / 16)])) ∧
  (∀ (s : State) (b : Fin 32), s.live .firmware = true → s.bmeStuck b = true → s.bmeOk b = true →
    Gives (.bmeProgressTimeout b) s fun t =>
      t.bmeOk b = false ∧ t.dom (64 + b) = .off ∧ t.inbox.log.map (fun r => (r.code, r.args)) = s.inbox.log.map (fun r
        => (r.code, r.args)) ++ [(0x0076, [b.val, 2])] ∧ Keeps s t [.fw, .inbox, .pwr, .seq] ∧ KeepsRegs s t (fecRegs
        ++ [Reg.BME_FAILED, Reg.PC_REPAIR_EVENT, Reg.THERM_DOM_STATE ((64 + b) / 16)])) ∧
  (∀ (s : State) (b : Fin 32), s.live .firmware = true → s.bmeStuck b = false →
    Gives (.bmeProgressTimeout b) s fun t =>
      t = s) ∧
  (∀ (s : State) (o : SigOp), s.live .firmware = true → OneSig s o → o.writing = [] → o.over = true → o.stop = none →
     o.mark = none →
    Gives .bagFinish s fun t =>
      Completes s t o.pk .ok o.bags (deckleWord o.deckle) ∧ t.seq.ops = [] ∧ Keeps s t [.sched, .seq] ∧ KeepsRegs s t
        [])

/-- An ELEMENTWISE packet of operation 0 to 3 that passes its check enters the sequencer with its count of 64 B
blocks of y (R237, R300). One step reads a block of x, and of y where the operation takes one, writes the block of y
that the operation gives, and moves on with the larger bound (R236, R237, R277); the last one completes with OK and
the count of blocks. ROW_QUANTISE goes row by row (R238), ROW_UPDATE position by position (R239). Forms stated to
complete (exec answers next): scaleAdd, mul, relu, convert, rowQuantise, rowUpdate. -/
def Obligations.ElementwiseSteps : Prop :=
  (∀ (s : State) (p : Packet) (f g : Format), s.live .firmware = true → s.waitingPk (fun x => decide (x.opcode = 3) &&
     decide (x.ewOp = 0 ∨ 5 < x.ewOp)) = some p → p.ewOp = 0 → Format.ofCode (p.nat 13 1) = some f → Format.ofCode
     (p.nat 14 1) = some g → f.isPlain = true → g.isPlain = true → p.addr 32 % 64 = 0 → p.addr 40 % 64 = 0 → s.outside
     [(9, .flat (p.addr 32) (f.extent (p.nat 16 4))), (10, .flat (p.addr 40) (g.extent (p.nat 16 4)))] = none → p.addr
     32 = p.addr 40 ∨ overlap (.flat (p.addr 32) (f.extent (p.nat 16 4))) (.flat (p.addr 40) (g.extent (p.nat 16 4))) =
     false → s.noSubstitute = false →
    Gives .scaleAdd s fun t =>
      TakenUp s t p.key (.ew { p.ewNew with
            xf := f, yf := g, count := p.nat 16 4, alpha := p.nat 20 4, beta := p.nat 24 4, xAddr := p.addr 32,
            yAddr := p.addr 40, total := g.blocks (p.nat 16 4) }) ∧ Keeps s t [.sched, .seq] ∧ KeepsRegs s t []) ∧
  (∀ (s : State) (o : EwOp) (u w : State) (xs ys : List Val) (b : Fin 32) (acc : Acc) (i n : Nat), s.live .firmware =
     true → s.shutdown = false → s.waitingPk (fun x => decide (x.opcode = 3) && decide (x.ewOp = 0 ∨ 5 < x.ewOp)) =
     none → s.seq.ops = [.ew o] → o.op = 0 → acc = (if o.xf = .binary64 ∨ o.yf = .binary64 then Acc.acc64 else
     Acc.acc32) → i = o.next * o.yf.perBlock → n = min o.yf.perBlock (o.count - i) → s.bmeOf (s.roleOf (o.yAddr + 64 *
     o.next)) = some b → s.readOperand b o.xf o.xAddr o.count i n = ((.ok, xs), u) → u.readOperand b o.yf o.yAddr
     o.count i n = ((.ok, ys), w) →
    Gives .scaleAdd s fun t =>
      t.paths = (w.issueBytes (.bme b) o.hint 3 (o.yAddr + 64 * o.next) ((o.encode ((upto n).map fun k => o.value acc
        (xs.getD k .zero) (ys.getD k .zero))).1.map some)).paths ∧ (o.next + 1 < o.total → t.seq.ops = [.ew (o.after
        (o.encode ((upto n).map fun k => o.value acc (xs.getD k .zero) (ys.getD k .zero))).2 none)]) ∧ (o.total ≤
        o.next + 1 → o.mark = none → t.seq.ops = [] ∧ ∀ x ∈ t.sched.packets, x.key = o.pk → x.stage = .done .ok o.total
        (deckleWord (worse o.deckle (o.encode ((upto n).map fun k => o.value acc (xs.getD k .zero) (ys.getD k
        .zero))).2))) ∧ Keeps s t ([.sched, .seq] ++ pathRegions) ∧ KeepsRegs s t pathRegs) ∧
  (∀ (s : State) (o : EwOp) (u w : State) (xs ys : List Val) (b : Fin 32) (acc : Acc) (i n : Nat), s.live .firmware =
     true → s.shutdown = false → s.waitingPk (fun x => decide (x.opcode = 3) && decide (x.ewOp = 1)) = none → s.seq.ops
     = [.ew o] → o.op = 1 → acc = (if o.xf = .binary64 ∨ o.yf = .binary64 then Acc.acc64 else Acc.acc32) → i = o.next *
     o.yf.perBlock → n = min o.yf.perBlock (o.count - i) → s.bmeOf (s.roleOf (o.yAddr + 64 * o.next)) = some b →
     s.readOperand b o.xf o.xAddr o.count i n = ((.ok, xs), u) → u.readOperand b o.yf o.yAddr o.count i n = ((.ok, ys),
     w) →
    Gives .mul s fun t =>
      t.paths = (w.issueBytes (.bme b) o.hint 3 (o.yAddr + 64 * o.next) ((o.encode ((upto n).map fun k => o.value acc
        (xs.getD k .zero) (ys.getD k .zero))).1.map some)).paths ∧ (o.next + 1 < o.total → t.seq.ops = [.ew (o.after
        (o.encode ((upto n).map fun k => o.value acc (xs.getD k .zero) (ys.getD k .zero))).2 none)]) ∧ (o.total ≤
        o.next + 1 → o.mark = none → t.seq.ops = [] ∧ ∀ x ∈ t.sched.packets, x.key = o.pk → x.stage = .done .ok o.total
        (deckleWord (worse o.deckle (o.encode ((upto n).map fun k => o.value acc (xs.getD k .zero) (ys.getD k
        .zero))).2))) ∧ Keeps s t ([.sched, .seq] ++ pathRegions) ∧ KeepsRegs s t pathRegs) ∧
  (∀ (s : State) (o : EwOp) (u : State) (xs : List Val) (b : Fin 32) (acc : Acc) (i n : Nat), s.live .firmware = true →
     s.shutdown = false → s.waitingPk (fun x => decide (x.opcode = 3) && decide (x.ewOp = 2)) = none → s.seq.ops = [.ew
     o] → o.op = 2 → acc = (if o.xf = .binary64 ∨ o.yf = .binary64 then Acc.acc64 else Acc.acc32) → i = o.next *
     o.yf.perBlock → n = min o.yf.perBlock (o.count - i) → s.bmeOf (s.roleOf (o.yAddr + 64 * o.next)) = some b →
     s.readOperand b o.xf o.xAddr o.count i n = ((.ok, xs), u) →
    Gives .relu s fun t =>
      t.paths = (u.issueBytes (.bme b) o.hint 3 (o.yAddr + 64 * o.next) ((o.encode ((upto n).map fun k => o.value acc
        (xs.getD k .zero) .zero)).1.map some)).paths ∧ (o.next + 1 < o.total → t.seq.ops = [.ew (o.after (o.encode
        ((upto n).map fun k => o.value acc (xs.getD k .zero) .zero)).2 none)]) ∧ (o.total ≤ o.next + 1 → o.mark = none
        → t.seq.ops = [] ∧ ∀ x ∈ t.sched.packets, x.key = o.pk → x.stage = .done .ok o.total (deckleWord (worse
        o.deckle (o.encode ((upto n).map fun k => o.value acc (xs.getD k .zero) .zero)).2))) ∧ Keeps s t ([.sched,
        .seq] ++ pathRegions) ∧ KeepsRegs s t pathRegs) ∧
  (∀ (s : State) (o : EwOp) (u : State) (xs : List Val) (b : Fin 32) (acc : Acc) (i n : Nat), s.live .firmware = true →
     s.shutdown = false → s.waitingPk (fun x => decide (x.opcode = 3) && decide (x.ewOp = 3)) = none → s.seq.ops = [.ew
     o] → o.op = 3 → acc = (if o.xf = .binary64 ∨ o.yf = .binary64 then Acc.acc64 else Acc.acc32) → i = o.next *
     o.yf.perBlock → n = min o.yf.perBlock (o.count - i) → s.bmeOf (s.roleOf (o.yAddr + 64 * o.next)) = some b →
     s.readOperand b o.xf o.xAddr o.count i n = ((.ok, xs), u) →
    Gives .convert s fun t =>
      t.paths = (u.issueBytes (.bme b) o.hint 3 (o.yAddr + 64 * o.next) ((o.encode ((upto n).map fun k => o.value acc
        (xs.getD k .zero) .zero)).1.map some)).paths ∧ (o.next + 1 < o.total → t.seq.ops = [.ew (o.after (o.encode
        ((upto n).map fun k => o.value acc (xs.getD k .zero) .zero)).2 none)]) ∧ (o.total ≤ o.next + 1 → o.mark = none
        → t.seq.ops = [] ∧ ∀ x ∈ t.sched.packets, x.key = o.pk → x.stage = .done .ok o.total (deckleWord (worse
        o.deckle (o.encode ((upto n).map fun k => o.value acc (xs.getD k .zero) .zero)).2))) ∧ Keeps s t ([.sched,
        .seq] ++ pathRegions) ∧ KeepsRegs s t pathRegs) ∧
  (∀ (s : State) (o : EwOp) (x y : Desc) (b : Fin 32) (d : List Byte) (u : State) (l : List Nat) (z : Nat), s.live
     .firmware = true → s.shutdown = false → s.waitingPk (fun q => decide (q.opcode = 3) && decide (q.ewOp = 4)) = none
     → s.seq.ops = [.ew o] → o.op = 4 → o.src = some x → o.dst = some y → s.bmeOf (s.roleOf (y.rowAddr (o.firstRow +
     o.next))) = some b → s.fetch (.bme b) .normal 3 64 (x.rowAddr (o.firstRow + o.next)) (x.format.rowBytes x.dim) =
     ((.ok, d), u) → (l, z) = (if o.stochastic = true then draws x.dim o.lfsr[b] else ([], o.lfsr[b])) → o.next + 1 <
     o.total →
    Gives .rowQuantise s fun t =>
      t.paths = (u.issueBytes (.bme b) o.hint 3 (y.rowAddr (o.firstRow + o.next)) ((y.format.encodeRow (rounding l)
        (x.format.decodeRow x.dim d)).map some)).paths ∧ t.seq.ewOps.map (fun q => (q.next, q.lfsr)) = [(o.next + 1,
        o.lfsr.set b z)] ∧ Keeps s t ([.sched, .seq] ++ pathRegions) ∧ KeepsRegs s t pathRegs) ∧
  (∀ (s : State) (o q : EwOp) (d0 : Desc) (u : State) (bound : Val) (row per : Nat), s.live .firmware = true →
     s.shutdown = false → s.waitingPk (fun x => decide (x.opcode = 3) && decide (x.ewOp = 5)) = none → s.seq.ops = [.ew
     o] → o.op = 5 → o.src = some d0 → row = d0.rowAddr (o.indices.getD o.next 0 - d0.first) → per = 512 /
     d0.format.bits → 0 < d0.dim ∧ d0.dim ≤ per → (∀ a ∈ unitsOf 64 row (d0.format.rowBytes d0.dim), (s.bmeOf (s.roleOf
     a)).isSome = true) → s.bmeWriting row (d0.format.rowBytes d0.dim) = false → s.ewPart o d0 row (o.gradAddr + o.next
     * o.gradPitch) 0 d0.dim = (u, q, bound, none) → o.next + 1 < o.total →
    Gives .rowUpdate s fun t =>
      t.paths = u.paths ∧ t.seq.ops = [.ew (q.after (worse .zero bound) none)] ∧ Keeps s t ([.sched, .seq] ++
        pathRegions) ∧ KeepsRegs s t pathRegs) ∧
  (∀ (s : State) (p : Packet) (f g : Format), s.live .firmware = true → s.waitingPk (fun x => decide (x.opcode = 3) &&
     decide (x.ewOp = 1)) = some p → p.ewOp = 1 → Format.ofCode (p.nat 13 1) = some f → Format.ofCode (p.nat 14 1) =
     some g → f.isPlain = true → g.isPlain = true → p.addr 32 % 64 = 0 → p.addr 40 % 64 = 0 → s.outside [(9, .flat
     (p.addr 32) (f.extent (p.nat 16 4))), (10, .flat (p.addr 40) (g.extent (p.nat 16 4)))] = none → p.addr 32 = p.addr
     40 ∨ overlap (.flat (p.addr 32) (f.extent (p.nat 16 4))) (.flat (p.addr 40) (g.extent (p.nat 16 4))) = false →
     s.noSubstitute = false →
    Gives .mul s fun t =>
      TakenUp s t p.key (.ew { p.ewNew with
            xf := f, yf := g, count := p.nat 16 4, alpha := p.nat 20 4, beta := p.nat 24 4, xAddr := p.addr 32,
            yAddr := p.addr 40, total := g.blocks (p.nat 16 4) }) ∧ Keeps s t [.sched, .seq] ∧ KeepsRegs s t []) ∧
  (∀ (s : State) (p : Packet) (f g : Format), s.live .firmware = true → s.waitingPk (fun x => decide (x.opcode = 3) &&
     decide (x.ewOp = 2)) = some p → p.ewOp = 2 → Format.ofCode (p.nat 13 1) = some f → Format.ofCode (p.nat 14 1) =
     some g → f.isPlain = true → g.isPlain = true → p.addr 32 % 64 = 0 → p.addr 40 % 64 = 0 → s.outside [(9, .flat
     (p.addr 32) (f.extent (p.nat 16 4))), (10, .flat (p.addr 40) (g.extent (p.nat 16 4)))] = none → p.addr 32 = p.addr
     40 ∨ overlap (.flat (p.addr 32) (f.extent (p.nat 16 4))) (.flat (p.addr 40) (g.extent (p.nat 16 4))) = false →
     s.noSubstitute = false →
    Gives .relu s fun t =>
      TakenUp s t p.key (.ew { p.ewNew with
            xf := f, yf := g, count := p.nat 16 4, alpha := p.nat 20 4, beta := p.nat 24 4, xAddr := p.addr 32,
            yAddr := p.addr 40, total := g.blocks (p.nat 16 4) }) ∧ Keeps s t [.sched, .seq] ∧ KeepsRegs s t []) ∧
  (∀ (s : State) (p : Packet) (f g : Format), s.live .firmware = true → s.waitingPk (fun x => decide (x.opcode = 3) &&
     decide (x.ewOp = 3)) = some p → p.ewOp = 3 → Format.ofCode (p.nat 13 1) = some f → Format.ofCode (p.nat 14 1) =
     some g → p.addr 32 % 64 = 0 → p.addr 40 % 64 = 0 → s.outside [(9, .flat (p.addr 32) (f.extent (p.nat 16 4))), (10,
     .flat (p.addr 40) (g.extent (p.nat 16 4)))] = none → p.addr 32 = p.addr 40 ∨ overlap (.flat (p.addr 32) (f.extent
     (p.nat 16 4))) (.flat (p.addr 40) (g.extent (p.nat 16 4))) = false → s.noSubstitute = false →
    Gives .convert s fun t =>
      TakenUp s t p.key (.ew { p.ewNew with
            xf := f, yf := g, count := p.nat 16 4, alpha := p.nat 20 4, beta := p.nat 24 4, xAddr := p.addr 32,
            yAddr := p.addr 40, total := g.blocks (p.nat 16 4) }) ∧ Keeps s t [.sched, .seq] ∧ KeepsRegs s t []) ∧
  (∀ (s : State) (o : EwOp) (u : State) (st : Status) (xs : List Val) (b : Fin 32) (acc : Acc) (i n : Nat), s.live
     .firmware = true → s.shutdown = false → s.waitingPk (fun x => decide (x.opcode = 3) && decide (x.ewOp = 3)) = none
     → s.seq.ops = [.ew o] → o.op = 3 → acc = (if o.xf = .binary64 ∨ o.yf = .binary64 then Acc.acc64 else Acc.acc32) →
     i = o.next * o.yf.perBlock → n = min o.yf.perBlock (o.count - i) → s.bmeOf (s.roleOf (o.yAddr + 64 * o.next)) =
     some b → s.readOperand b o.xf o.xAddr o.count i n = ((st, xs), u) → st ≠ .ok → o.next + 1 < o.total →
    Gives .convert s fun t =>
      t.seq.ops = [.ew (o.after (.inf false) (some st))] ∧ t.free = u.free + 1 ∧ Keeps s t ([.sched, .seq] ++
        pathRegions) ∧ KeepsRegs s t pathRegs)

/-- A press packet that passes the checks of R255 enters the sequencer. A pass of the oldest job with passes left
enters the array under the next tag (R248, R249); a tile swap takes the oldest pass out (R249). A job whose last pass
has left the array and whose lower-numbered jobs have committed commits and drains (R251); at the end of the last
drain the operation completes with its committed jobs (R256, R302). Forms stated to complete (exec answers next):
pressProject, pressGram, pressPass, tileSwap, jobCommit, drainComplete. -/
def Obligations.PressSteps : Prop :=
  (∀ (s : State) (p : Packet) (fa fb f : Format) (c : Bool) (o : PressOp), s.live .firmware = true → s.waitingPk (fun x
     => x.opcode = 4) = some p → Format.ofCode (p.nat 12 1) = some fa → Format.ofCode (p.nat 13 1) = some fb →
     fa.eightBit = some c → fb.eightBit = some c → pressOut (p.nat 14 1) = some f → o = p.press fa fb f s.dealList →
     o.bad = none → s.outside (o.reads ++ o.writes) = none → firstOverlap (o.reads.map (·.2)) o.writes = none →
     s.noSubstitute = false →
    Gives .pressProject s fun t =>
      TakenUp s t p.key (.press o) ∧ Keeps s t [.sched, .seq] ∧ KeepsRegs s t []) ∧
  (∀ (s : State) (p : Packet) (fa f : Format) (c : Bool) (o : PressOp), s.live .firmware = true → s.waitingPk (fun x =>
     x.opcode = 5) = some p → Format.ofCode (p.nat 12 1) = some fa → fa.eightBit = some c → pressOut (p.nat 14 1) =
     some f → o = p.press fa fa f s.dealList → o.bad = none → s.outside (o.reads ++ o.writes) = none → firstOverlap
     (o.reads.map (·.2)) o.writes = none → s.noSubstitute = false →
    Gives .pressGram s fun t =>
      TakenUp s t p.key (.press o) ∧ Keeps s t [.sched, .seq] ∧ KeepsRegs s t []) ∧
  (∀ (s u : State) (b : Fin 32) (o : PressOp) (j : Job), s.live (.bme b) = true → s.shutdown = false → s.seq.ops =
     [.press o] → o.active = [j] → j.bme = b → j.pass < j.passes → s.seq.presses[b].inArray.length < 2 → u = (if
     s.isLoaded j then s else s.loadPass o j) →
    Gives (.pressPass b) s fun t =>
      t.seq.ops = [.press { o with active := [(u.feedPass o j).1] }] ∧ (u.feedPass o j).1.pass = j.pass + 1 ∧
        t.seq.presses[b].inArray = s.seq.presses[b].inArray ++ [(s.seq.presses[b].nextTag, j.no)] ∧
        t.seq.presses[b].nextTag = (s.seq.presses[b].nextTag + 1) % 16 ∧ t.gf (Reg.PRESS_STATUS b) Fld.PRESS_STATUS_TAG
        = s.seq.presses[b].nextTag % 16 ∧ (∀ c : Fin 32, c ≠ b → t.seq.presses[c] = s.seq.presses[c]) ∧ Keeps s t (.seq
        :: pathRegions) ∧ KeepsRegs s t (Reg.PRESS_STATUS b :: pathRegs)) ∧
  (∀ (s : State) (b : Fin 32), s.live (.bme b) = true →
    Gives (.tileSwap b) s fun t =>
      t.seq.presses[b].inArray = s.seq.presses[b].inArray.drop 1 ∧ t.seq.presses[b].banks = s.seq.presses[b].banks ∧ (∀
        c : Fin 32, c ≠ b → t.seq.presses[c] = s.seq.presses[c]) ∧ (s.pressNext b = none → t.seq.ops = s.seq.ops) ∧
        Keeps s t (.seq :: pathRegions) ∧ KeepsRegs s t pathRegs) ∧
  (∀ (s : State) (o : PressOp) (j : Job), s.live .firmware = true → s.seq.ops = [.press o] → o.active = [j] →
     s.jobReady o j = true →
    Gives .jobCommit s fun t =>
      t.seq.pressOps.map (fun x => (x.active, x.draining, x.committed)) = [([], o.draining ++ [s.fencedReads j], max
        o.committed (j.no + 1))] ∧ t.gf (Reg.PRESS_STATUS j.bme) Fld.PRESS_STATUS_JOBS = (s.gf (Reg.PRESS_STATUS j.bme)
        Fld.PRESS_STATUS_JOBS + 1) % 2 ^ Fld.PRESS_STATUS_JOBS.width ∧ Keeps s t ([.sched, .seq] ++ pathRegions) ∧
        KeepsRegs s t (Reg.PRESS_STATUS j.bme :: pathRegs)) ∧
  (∀ (s : State) (b : Fin 32) (o : PressOp) (j : Job), s.live (.bme b) = true → s.seq.ops = [.press o] →
     o.draining.find? (fun x => x.bme = b.val) = some j → (o.committed < o.limit ∨ o.redo ≠ [] ∨ o.active ≠ []) →
    Gives (.drainComplete b) s fun t =>
      t.seq.ops = [.press { o with draining := o.draining.filter (fun x => x.no ≠ j.no) }] ∧ t.sched = s.sched ∧ Keeps
        s t [.seq] ∧ KeepsRegs s t []) ∧
  (∀ (s : State) (b : Fin 32) (o : PressOp) (j : Job), s.live (.bme b) = true → s.seq.ops = [.press o] → o.draining =
     [j] → j.bme = b → o.limit ≤ o.committed → o.redo = [] → o.active = [] → o.stop = none → o.mark = none →
    Gives (.drainComplete b) s fun t =>
      t.seq.ops = [] ∧ (∀ x ∈ t.sched.packets, x.key = o.pk → x.stage = .done .ok o.committed (deckleWord o.deckle)) ∧
        Keeps s t [.sched, .seq] ∧ KeepsRegs s t []) ∧
  (∀ (s u : State) (b : Fin 32) (o : PressOp) (j : Job), s.live (.bme b) = true → s.shutdown = false →
     s.seq.presses[b].inArray.length < 2 → s.pressNext b = some (o, j, u) →
    Gives (.pressPass b) s fun t =>
      t.seq.presses[b].inArray = s.seq.presses[b].inArray ++ [(s.seq.presses[b].nextTag, j.no)] ∧
        t.seq.presses[b].nextTag = (s.seq.presses[b].nextTag + 1) % 16 ∧ t.gf (Reg.PRESS_STATUS b) Fld.PRESS_STATUS_TAG
        = s.seq.presses[b].nextTag % 16 ∧ (∀ c : Fin 32, c ≠ b → t.seq.presses[c] = s.seq.presses[c]) ∧ Keeps s t (.seq
        :: pathRegions) ∧ KeepsRegs s t (Reg.PRESS_STATUS b :: pathRegs))

/-! ### The firmware island (12) -/

/-- The driver's write of a hardware register of the sensor and management island is taken (R56, R523). -/
  abbrev Sys2Proof.Machine.Taken (s : State) : Prop := s.mgtReady = true ∧ s.live .sensor = true

/-- The management port once what it holds of the emulated registers has gone with them (R16, R327). -/
  abbrev Sys2Proof.Machine.MgtPort.emptied (x : MgtPort) : MgtPort :=
    { x with hold := x.hold.filter (fun e => !emulatedOff e.1), latch := x.latch.filter fun e => !emulatedOff e.1 }

/-- These records, with their codes and arguments, have been reported to the log now (R333, R529). -/
  abbrev Sys2Proof.Machine.Logged (s t : State) (l : List (Nat × List Nat)) : Prop :=
    t.inbox.log = s.inbox.log ++ l.map fun x => LogItem.mk x.1 x.2 (s.now .firmware)

/-- START begins a load in NO_IMAGE and after a rejection and is refused otherwise; a data word is appended in the
data phase and counted, and is an overrun outside it; COMMIT ends the data phase (R316). The checks of R315 decide
AUTH_RESULT: with the last passed every core with power starts at its entry, else the SRAMs are cleared. With all
cores running the instance is RUNNING, its host-loss timer runs, and its start-up begins (R317, R321). Forms stated
to complete (exec answers next): fwLoadStart, fwLoadData, fwLoadCommit, authenticationDone, coresInService. -/
def Obligations.FirmwareLoadAndStart : Prop :=
  (∀ s : State, Taken s → s.fwState = 0 ∨ s.fwState = 2 →
    Gives .fwLoadStart s fun t =>
      t.fwState = 1 ∧ t.fw.dataPhase = true ∧ t.fw.checking = false ∧ t.fw.image = [] ∧ t.gf Reg.FW_LOAD_CTRL
        Fld.FW_LOAD_CTRL_LOADED = 0 ∧ (∀ k : Fin 4, t.fw.cores[k].run = false ∧ t.fw.cores[k].sram = []) ∧ Answered s t
        false ∧ Keeps s t [.mgt, .fw] ∧ KeepsRegs s t [Reg.FW_STATUS, Reg.FW_LOAD_CTRL]) ∧
  (∀ s : State, Taken s → s.fwState ≠ 0 ∧ s.fwState ≠ 2 →
    Gives .fwLoadStart s fun t =>
      t.bit Reg.FW_HW_STATUS Fld.FW_HW_STATUS_LOAD_REFUSED = true ∧ Answered s t false ∧ Keeps s t [.mgt] ∧ KeepsRegs s
        t [Reg.FW_HW_STATUS]) ∧
  (∀ (s : State) (v : Word), Taken s → s.fw.dataPhase = true → s.fw.image.length + 4 ≤ 787040 →
    Gives (.fwLoadData v) s fun t =>
      t.fw.image = s.fw.image ++ leBytes 4 v.toNat ∧ t.gf Reg.FW_LOAD_CTRL Fld.FW_LOAD_CTRL_LOADED = s.fw.image.length
        + 4 ∧ Answered s t false ∧ Keeps s t [.mgt, .fw] ∧ KeepsRegs s t [Reg.FW_LOAD_CTRL]) ∧
  (∀ (s : State) (v : Word), Taken s → s.fw.dataPhase = false →
    Gives (.fwLoadData v) s fun t =>
      t.bit Reg.FW_HW_STATUS Fld.FW_HW_STATUS_LOAD_OVERRUN = true ∧ Answered s t false ∧ Keeps s t [.mgt] ∧ KeepsRegs s
        t [Reg.FW_HW_STATUS]) ∧
  (∀ s : State, Taken s → s.fw.dataPhase = true →
    Gives .fwLoadCommit s fun t =>
      t.fw = { s.fw with dataPhase := false, checking := true } ∧ Answered s t false ∧ Keeps s t [.mgt, .fw] ∧
        KeepsRegs s t []) ∧
  (∀ s : State, s.live .firmware = true → s.fw.checking = true →
    Gives .authenticationDone s fun t =>
      t.gf Reg.FW_STATUS Fld.FW_STATUS_AUTH_RESULT = s.authCheck s.fw.image s.fw.image.length ∧ t.fw.checking = false ∧
        (s.authCheck s.fw.image s.fw.image.length = 1 → t.fwState = 3 ∧ ∀ k : Fin 4, s.dom (112 + k) = .on →
        t.fw.cores[k].run = true ∧ t.fw.cores[k].pc = imgEntry s.fw.image k) ∧ (s.authCheck s.fw.image
        s.fw.image.length ≠ 1 → t.fwState = 2 ∧ ∀ k : Fin 4, t.fw.cores[k].run = false ∧ t.fw.cores[k].sram = []) ∧
        Keeps s t [.fw] ∧ KeepsRegs s t [Reg.FW_STATUS, Reg.FW_DIGEST, Reg.FW_DIGEST + 4, Reg.FW_LOG_SEQ]) ∧
  (∀ s : State, s.live .firmware = true → s.fwState = 3 → (∀ k : Fin 4, s.fw.cores[k].run = true ∧
     s.fw.cores[k].resetAt = none) → s.bit Reg.PC_LACE Fld.PC_LACE_LOCK = false → s.bit Reg.D2D_RING_STATUS
     Fld.D2D_RING_STATUS_ENUM_FAULT = false → s.pkg.goAt = none →
    Gives .coresInService s fun t =>
      t.fwState = 4 ∧ t.rd Reg.FW_VERSION = BitVec.ofNat 32 (imgVersion s.fw.image) ∧ t.phase = 1 ∧ t.fw.hostTimer =
        some s.clk.raw ∧ t.fw.cores = s.fw.cores ∧ Logged s t [(0x0001, [imgVersion s.fw.image, 0])] ∧ Keeps s t [.fw,
        .inbox, .pcs] ∧ KeepsRegs s t [Reg.FW_STATUS, Reg.FW_VERSION, Reg.FW_BOOT_STATUS]) ∧
  (∀ s : State, s.live .firmware = true → s.fwState = 3 → (∀ k : Fin 4, s.fw.cores[k].run = true ∧
     s.fw.cores[k].resetAt = none) →
    Gives .coresInService s fun t =>
      t.fwState = 4 ∧ t.rd Reg.FW_VERSION = BitVec.ofNat 32 (imgVersion s.fw.image) ∧ (s.bit Reg.PC_LACE
        Fld.PC_LACE_LOCK = true → t.phase = 5) ∧ t.fw.hostTimer = some s.clk.raw ∧ t.fw.cores = s.fw.cores ∧ Logged s t
        [(0x0001, [imgVersion s.fw.image, 0])] ∧ Keeps s t [.chain, .fw, .inbox, .pcs, .pkg] ∧ KeepsRegs s t
        [Reg.FW_STATUS, Reg.FW_VERSION, Reg.FW_BOOT_STATUS])

/-- A heartbeat reloads the host-loss timer; when it expires the instance goes to FREEWHEEL (R321, R322). An attach
with the running version resumes and is logged, another is logged and completes with MGT_ERR (R323). A census without
a difference changes no register; a difference sets CENSUS_MISMATCH and is logged (R332; ARG0, for which the spec
gives no code, is a free value). A record without a ring waits under the next SEQ (R333). A trace point of an enabled
group is gathered under the next trace number, and full or 10 µs old the gathered records are written (R334). Forms
stated to complete (exec answers next): heartbeat, hostTimeoutWrite, hostLossExpiry, attach, census, logRecord,
tracePoint, traceFlush. -/
def Obligations.FirmwareService : Prop :=
  (∀ s : State, Taken s → s.fwState = 4 →
    Gives .heartbeat s fun t =>
      t.fw = { s.fw with hostTimer := some s.clk.raw } ∧ Answered s t false ∧ Keeps s t [.mgt, .fw] ∧ KeepsRegs s t [])
        ∧
  (∀ (s : State) (ms : BitVec 16), Taken s → s.fwState = 4 →
    Gives (.hostTimeoutWrite ms) s fun t =>
      t.gf Reg.FW_HOST_TIMEOUT Fld.FW_HOST_TIMEOUT_MS = ms.toNat ∧ t.fw = { s.fw with hostTimer := some s.clk.raw } ∧
        Answered s t false ∧ Keeps s t [.mgt, .fw] ∧ KeepsRegs s t [Reg.FW_HOST_TIMEOUT]) ∧
  (∀ (s : State) (t0 : Nat), s.live .firmware = true → s.fwState = 4 → s.gf Reg.FW_HOST_TIMEOUT Fld.FW_HOST_TIMEOUT_MS
     ≠ 0 → s.fw.hostTimer = some t0 → t0 + s.gf Reg.FW_HOST_TIMEOUT Fld.FW_HOST_TIMEOUT_MS * 1000000 ≤ s.clk.raw →
    Gives .hostLossExpiry s fun t =>
      t.fwState = 5 ∧ t.fw = { s.fw with hostTimer := none } ∧ Logged s t [(0x0010, [s.sched.packets.length])] ∧ Keeps
        s t [.fw, .inbox] ∧ KeepsRegs s t [Reg.FW_STATUS]) ∧
  (∀ s : State, Reached s → s.fwState = 5 →
    Gives (.attach (s.rd Reg.FW_VERSION)) s fun t =>
      t.fwState = 4 ∧ t.rd Reg.FW_ATTACH = s.rd Reg.FW_VERSION ∧ t.fw = { s.fw with hostTimer := some s.clk.raw } ∧
        Logged s t [(0x0011, [(s.rd Reg.FW_VERSION).toNat])] ∧ Answered s t false ∧ Keeps s t [.mgt, .fw, .inbox] ∧
        KeepsRegs s t [Reg.FW_STATUS, Reg.FW_ATTACH]) ∧
  (∀ (s : State) (v : Word), Reached s → v ≠ s.rd Reg.FW_VERSION →
    Gives (.attach v) s fun t =>
      Logged s t [(0x0012, [v.toNat, (s.rd Reg.FW_VERSION).toNat])] ∧ Answered s t true ∧ Keeps s t [.mgt, .inbox] ∧
        KeepsRegs s t []) ∧
  (∀ s : State, s.fwRuns .steward = true → s.fw.picture = ((censusUnits.map (·.1)).eraseDups).map (fun r => (r, s.rd
     r)) →
    Gives .census s fun t =>
      t.fw = s.fw ∧ t.inbox = s.inbox ∧ Keeps s t [] ∧ KeepsRegs s t []) ∧
  (∀ (s : State) (w : Word), s.fwRuns .steward = true → s.fw.picture = [(Reg.RMT_SUBPORT_STATUS 0, w)] → natBits
     w.toNat 0 1 ≠ natBits (s.rd (Reg.RMT_SUBPORT_STATUS 0)).toNat 0 1 →
    Gives .census s fun t =>
      t.bit Reg.FW_HW_STATUS Fld.FW_HW_STATUS_CENSUS_MISMATCH = true ∧ t.inbox.log.length = s.inbox.log.length + 1 ∧
        t.inbox.log.getLast?.map (fun x => (x.code, x.args.drop 1)) = some (0x0030, [0, natBits w.toNat 0 1, natBits
        (s.rd (Reg.RMT_SUBPORT_STATUS 0)).toNat 0 1]) ∧ t.fw.cores = s.fw.cores ∧ Keeps s t [.free, .fw, .inbox] ∧
        KeepsRegs s t [Reg.FW_HW_STATUS]) ∧
  (∀ (s : State) (x : LogItem) (rest : List LogItem), s.fwRuns .liaison = true → s.ringOpen Reg.FW_LOG_RING = false →
     s.inbox.log = x :: rest → s.fw.logWait.length < 256 →
    Gives .logRecord s fun t =>
      t.inbox.log = rest ∧ t.fw = { s.fw with logWait := s.fw.logWait ++ [x.bytes (s.rd Reg.FW_LOG_SEQ).toNat] } ∧ t.rd
        Reg.FW_LOG_SEQ = s.rd Reg.FW_LOG_SEQ + 1 ∧ Keeps s t [.fw, .inbox] ∧ KeepsRegs s t [Reg.FW_LOG_SEQ]) ∧
  (∀ (s : State) (point : BitVec 16) (core : Fin 4) (arg : Word), s.fwRuns .liaison = true → (s.rd
     Reg.FW_TRACE_MASK).toNat.testBit (natBits point.toNat 11 5) = true → s.fw.trace.length < 16 →
    Gives (.tracePoint point core arg) s fun t =>
      t.fw.trace = s.fw.trace ++ [leBytes 8 s.fwNow ++ leBytes 2 point.toNat ++ leBytes 1 (64 * core.val) ++ leBytes 1
        s.fw.traceSeq ++ leBytes 4 arg.toNat] ∧ t.fw.traceSeq = (s.fw.traceSeq + 1) % 256 ∧ t.fw.cores = s.fw.cores ∧
        Keeps s t [.fw] ∧ KeepsRegs s t []) ∧
  (∀ s : State, s.fwRuns .liaison = true → s.fw.trace ≠ [] → s.ringOpen Reg.FW_TRACE_RING = true → s.fw.trace.length =
     16 ∨ s.fw.traceAt + 10000 ≤ s.fwNow →
    Gives .traceFlush s fun t =>
      t.fw = { s.fw with
            trace := [],
            traceSlot := (s.fw.traceSlot % s.ringSlots Reg.FW_TRACE_RING + s.fw.trace.length) % s.ringSlots
              Reg.FW_TRACE_RING } ∧ Keeps s t (.fw :: pathRegions) ∧ KeepsRegs s t pathRegs) ∧
  (∀ s : State, Reached s → s.fwState = 4 →
    Gives (.attach (s.rd Reg.FW_VERSION)) s fun t =>
      t.rd Reg.FW_ATTACH = s.rd Reg.FW_VERSION ∧ t.fw = s.fw ∧ Logged s t [(0x0011, [(s.rd Reg.FW_VERSION).toNat])] ∧
        Answered s t false ∧ Keeps s t [.mgt, .inbox] ∧ KeepsRegs s t [Reg.FW_ATTACH]) ∧
  (∀ s : State, s.fwRuns .steward = true →
    Gives .census s fun t =>
      t.fw = { s.fw with picture := ((censusUnits.map (·.1)).eraseDups).map (fun r => (r, s.rd r)) } ∧
        (t.inbox.log.length = s.inbox.log.length ∨ t.bit Reg.FW_HW_STATUS Fld.FW_HW_STATUS_CENSUS_MISMATCH = true) ∧
        Keeps s t [.free, .fw, .inbox] ∧ KeepsRegs s t [Reg.FW_HW_STATUS]) ∧
  (∀ (s : State) (x : LogItem) (rest : List LogItem), s.fwRuns .liaison = true → s.ringOpen Reg.FW_LOG_RING = true →
     s.fw.logWait = [] → s.inbox.log = x :: rest →
    Gives .logRecord s fun t =>
      t.inbox.log = rest ∧ t.fw = s.fw ∧ t.rd Reg.FW_LOG_SEQ = s.rd Reg.FW_LOG_SEQ + 1 ∧ Keeps s t (.inbox ::
        pathRegions) ∧ KeepsRegs s t (Reg.FW_LOG_SEQ :: pathRegs)) ∧
  (∀ (s : State) (point : BitVec 16) (core : Fin 4) (arg : Word), (s.rd Reg.FW_TRACE_MASK).toNat.testBit (natBits
     point.toNat 11 5) = false →
    Gives (.tracePoint point core arg) s fun t =>
      t = s)

/-- A watchdog that has run out, a trap and the driver reset a core alone: its reset is timed, counted in RESETS and
logged with its cause, the other cores stay (R324, R325), and a third within a second sets DEGRADED (R326). A core
restarts at RECOVERY when its section still has its digest, else it is halted (R324). RESET_ALL leaves NO_IMAGE with
every emulated register at its reset value (R327); an orderly one waits for the queues, at most 10 ms. Forms stated
to complete (exec answers next): watchdogExpiry, coreTrap, resetCore, coreRestart, resetAll, orderlyResetDone,
wdogCfgWrite. -/
def Obligations.FirmwareResets : Prop :=
  (∀ (s : State) (k : Fin 4), s.live .firmware = true → s.fw.cores[k].run = true → s.fw.cores[k].resetAt = none → 3 ≤
     s.fwState → s.fwState ≠ 6 → s.fw.cores[k].wdogFrom + s.gf Reg.FW_WDOG_CFG Fld.FW_WDOG_CFG_MS * 1000000 ≤ s.clk.raw
     →
    Gives (.watchdogExpiry k) s fun t =>
      t.fw.cores[k].resetAt = some s.fwNow ∧ (∀ j : Fin 4, j ≠ k → t.fw.cores[j] = s.fw.cores[j]) ∧
        t.inbox.log.contains (LogItem.mk 0x0002 [k.val, 0] (s.now .firmware)) = true ∧ s.gf Reg.FW_STATUS
        Fld.FW_STATUS_RESETS ≤ t.gf Reg.FW_STATUS Fld.FW_STATUS_RESETS ∧ (2 ≤ (s.fw.resets.filter fun x => s.fwNow ≤ x
        + 1000000000).length → t.bit Reg.FW_STATUS Fld.FW_STATUS_DEGRADED = true) ∧ t.fwState = s.fwState ∧ Keeps s t
        [.free, .fw, .inbox, .paths, .sched, .seq] ∧ KeepsRegs s t ([Reg.FW_STATUS, Reg.FW_LOG_SEQ] ++ inhibitRegs)) ∧
  (∀ (s : State) (k : Fin 4), s.live .firmware = true → s.fw.cores[k].run = true → s.fw.cores[k].resetAt = none → 3 ≤
     s.fwState → s.fwState ≠ 6 →
    Gives (.coreTrap k) s fun t =>
      t.fw.cores[k].resetAt = some s.fwNow ∧ (∀ j : Fin 4, j ≠ k → t.fw.cores[j] = s.fw.cores[j]) ∧
        t.inbox.log.contains (LogItem.mk 0x0002 [k.val, 1] (s.now .firmware)) = true ∧ s.gf Reg.FW_STATUS
        Fld.FW_STATUS_RESETS ≤ t.gf Reg.FW_STATUS Fld.FW_STATUS_RESETS ∧ (2 ≤ (s.fw.resets.filter fun x => s.fwNow ≤ x
        + 1000000000).length → t.bit Reg.FW_STATUS Fld.FW_STATUS_DEGRADED = true) ∧ t.fwState = s.fwState ∧ Keeps s t
        [.free, .fw, .inbox, .paths, .sched, .seq] ∧ KeepsRegs s t ([Reg.FW_STATUS, Reg.FW_LOG_SEQ] ++ inhibitRegs)) ∧
  (∀ (s : State) (mask : BitVec 4), Taken s → 3 ≤ s.fwState → s.fwState ≠ 6 →
    Gives (.resetCore mask) s fun t =>
      (∀ k : Fin 4, mask.toNat.testBit k = true → s.fw.cores[k].run = true → s.fw.cores[k].resetAt = none →
        t.fw.cores[k].resetAt = some s.fwNow) ∧ (∀ k : Fin 4, mask.toNat.testBit k = false → t.fw.cores[k] =
        s.fw.cores[k]) ∧ Answered s t false ∧ Keeps s t [.mgt, .free, .fw, .inbox, .paths, .sched, .seq] ∧ KeepsRegs s
        t ([Reg.FW_STATUS, Reg.FW_LOG_SEQ] ++ inhibitRegs)) ∧
  (∀ (s : State) (k : Fin 4) (damage : List (BitVec 18 × Byte)) (m : List (Nat × Byte)), s.live .firmware = true →
     s.fw.cores[k].run = true → s.fw.cores[k].resetAt.isSome = true → s.dom (112 + k) = .on → m = damage.foldl (fun m e
     => cset cellReset m e.1.toNat e.2) s.fw.cores[k].sram → sha384 ({ s.fw.cores[k] with sram := m } : FwCore).section
     = s.fw.cores[k].digest →
    Gives (.coreRestart k damage) s fun t =>
      t.fw.cores[k].resetAt = none ∧ t.fw.cores[k].pc = s.fw.cores[k].recovery ∧ t.fw.cores[k].run = true ∧
        t.fw.cores[k].sram = m ∧ t.fw.cores[k].wdogFrom = s.clk.raw ∧ (∀ j : Fin 4, j ≠ k → t.fw.cores[j] =
        s.fw.cores[j]) ∧ Keeps s t [.fw] ∧ KeepsRegs s t []) ∧
  (∀ (s : State) (k : Fin 4) (damage : List (BitVec 18 × Byte)) (m : List (Nat × Byte)), s.live .firmware = true →
     s.fw.cores[k].run = true → s.fw.cores[k].resetAt.isSome = true → m = damage.foldl (fun m e => cset cellReset m
     e.1.toNat e.2) s.fw.cores[k].sram → sha384 ({ s.fw.cores[k] with sram := m } : FwCore).section ≠
     s.fw.cores[k].digest →
    Gives (.coreRestart k damage) s fun t =>
      t.fw.cores[k].run = false ∧ (t.gf Reg.FW_STATUS Fld.FW_STATUS_CORE_HALTED).testBit k = true ∧ t.bit Reg.FW_STATUS
        Fld.FW_STATUS_DEGRADED = true ∧ Logged s t [(0x0002, [k.val, 3]), (0x0003, [(s.fw.resets.filter fun t =>
        s.fwNow ≤ t + 1000000000).length])] ∧ (∀ j : Fin 4, j ≠ k → t.fw.cores[j] = s.fw.cores[j]) ∧ Keeps s t [.fw,
        .inbox] ∧ KeepsRegs s t [Reg.FW_STATUS]) ∧
  (∀ s : State, Taken s → s.fwState ≠ 6 →
    Gives (.resetAll false) s fun t =>
      t.fwState = 0 ∧ (∀ k : Fin 4, t.fw.cores[k].run = false) ∧ t.sched = Sched.init ∧ t.pkg = Package.init ∧ (∀ o,
        emulatedOff o = true → t.rd o = regReset o) ∧ (∀ o, emulatedOff o = false → o ∉ Reg.FW_STATUS ::
        Reg.THERM_PWR_STATUS :: inhibitRegs → t.rd o = s.rd o) ∧ t.mgt =
        { s.mgt.emptied with doneCount := s.mgt.doneCount + 1, err := false, rdata := 0, waiting := none } ∧ ((∀ d, 112
        ≤ d → d < 116 → s.dom d ≠ .isolated) → t.pwr = s.pwr ∧ t.rd Reg.THERM_PWR_STATUS = s.rd Reg.THERM_PWR_STATUS) ∧
        Keeps s t [.mgt, .free, .paths, .seq, .fw, .sched, .pkg, .inbox, .tests, .age, .pwr]) ∧
  (∀ s : State, Taken s → s.fwState ≠ 6 → (∀ q : Fin 64, s.bit (Reg.FW_QCFG q) Fld.FW_QCFG_ENABLE = false) →
    Gives (.resetAll true) s fun t =>
      t.fw = { s.fw with orderlyAt := some s.fwNow } ∧ t.fwState = s.fwState ∧ Answered s t false ∧ Keeps s t [.mgt,
        .fw] ∧ KeepsRegs s t []) ∧
  (∀ (s : State) (t0 : Nat), s.live .firmware = true → s.fw.orderlyAt = some t0 → s.fwState ≠ 6 → ((∀ q : Fin 64,
     s.qState q = 0) ∨ t0 + 10000000 ≤ s.fwNow) →
    Gives .orderlyResetDone s fun t =>
      t.fwState = 0 ∧ (∀ k : Fin 4, t.fw.cores[k].run = false) ∧ t.fw.orderlyAt = none ∧ t.sched = Sched.init ∧ (∀ o,
        emulatedOff o = true → t.rd o = regReset o) ∧ (∀ o, emulatedOff o = false → o ∉ Reg.FW_STATUS ::
        Reg.THERM_PWR_STATUS :: inhibitRegs → t.rd o = s.rd o) ∧ t.mgt = s.mgt.emptied ∧ ((∀ d, 112 ≤ d → d < 116 →
        s.dom d ≠ .isolated) → t.pwr = s.pwr ∧ t.rd Reg.THERM_PWR_STATUS = s.rd Reg.THERM_PWR_STATUS) ∧ Keeps s t
        [.mgt, .free, .paths, .seq, .fw, .sched, .pkg, .inbox, .tests, .age, .pwr]) ∧
  (∀ (s : State) (ms : BitVec 7), Taken s →
    Gives (.wdogCfgWrite ms) s fun t =>
      t.gf Reg.FW_WDOG_CFG Fld.FW_WDOG_CFG_MS = max 1 (min 100 ms.toNat) ∧ Answered s t false ∧ Keeps s t [.mgt] ∧
        KeepsRegs s t [Reg.FW_WDOG_CFG]) ∧
  (∀ s : State, Taken s → s.fwState ≠ 6 →
    Gives (.resetAll true) s fun t =>
      t.fw = { s.fw with orderlyAt := some s.fwNow } ∧ t.fwState = s.fwState ∧ (s.fwRuns .scheduler = true → ∀ q : Fin
        64, t.bit (Reg.FW_QCFG q) Fld.FW_QCFG_ENABLE = false ∨ s.qState q = 3) ∧ Answered s t false ∧ Keeps s t [.free,
        .mgt, .fw, .paths, .sched, .seq] ∧ KeepsRegs s t ((upto 64).flatMap queueRegs))

/-- VERIFY of a staging area in the own range begins the verification, of another is REJECTED with reason 7; its end
gives VERIFIED, or REJECTED with the failed check of R315 (R328). ACTIVATE stops fetching; with nothing in flight the
activation commits and the cores halt, is deferred in an emergency, and waits for the handover of captaincy (R329); a
deferred one is retried after 100 ms of calm. The load starts the cores at RECOVERY when the image still has its
digest, else leaves NO_IMAGE with ACTIVATION_FAILED (R330). CANCEL before the commit withdraws the image. Forms
stated to complete (exec answers next): stageVerify, stageVerifyDone, stageActivate, activationCommitPoint,
activationRetry, activationLoadDone, stageCancel. -/
def Obligations.StagedActivation : Prop :=
  (∀ (s : State) (len : BitVec 20), Reached s → s.stageState ∈ [0, 2, 3] → s.inOwn s.stageBase (up4k len.toNat + 65536)
     = true →
    Gives (.stageVerify len) s fun t =>
      t.stageState = 1 ∧ t.gf Reg.FW_STAGE_CTRL Fld.FW_STAGE_CTRL_LEN = len.toNat ∧ t.fw = { s.fw with staged := none }
        ∧ Answered s t false ∧ Keeps s t [.mgt, .fw] ∧ KeepsRegs s t [Reg.FW_STAGE_CTRL, Reg.FW_STAGE_STATUS]) ∧
  (∀ (s : State) (len : BitVec 20), Reached s → s.stageState ∈ [0, 2, 3] → s.inOwn s.stageBase (up4k len.toNat + 65536)
     = false →
    Gives (.stageVerify len) s fun t =>
      t.stageState = 3 ∧ t.gf Reg.FW_STAGE_STATUS Fld.FW_STAGE_STATUS_REASON = 7 ∧ Logged s t [(0x0021, [7])] ∧
        Answered s t false ∧ Keeps s t [.mgt, .fw, .inbox] ∧ KeepsRegs s t [Reg.FW_STAGE_CTRL, Reg.FW_STAGE_STATUS]) ∧
  (∀ (s : State) (img : List Byte) (st : Status) (u : State), s.fwRuns .liaison = true → s.stageState = 1 → s.fetch
     .firmware .normal 1 128 s.stageBase (s.gf Reg.FW_STAGE_CTRL Fld.FW_STAGE_CTRL_LEN) = ((st, img), u) →
    Gives .stageVerifyDone s fun t =>
      (u.authCheck img (s.gf Reg.FW_STAGE_CTRL Fld.FW_STAGE_CTRL_LEN) = 1 → t.stageState = 2 ∧ t.fw.staged.map
        (·.image) = some img) ∧ (u.authCheck img (s.gf Reg.FW_STAGE_CTRL Fld.FW_STAGE_CTRL_LEN) ≠ 1 → t.stageState = 3
        ∧ t.fw = s.fw ∧ t.gf Reg.FW_STAGE_STATUS Fld.FW_STAGE_STATUS_REASON = u.authCheck img (s.gf Reg.FW_STAGE_CTRL
        Fld.FW_STAGE_CTRL_LEN)) ∧ t.fw.cores = s.fw.cores ∧ Keeps s t ([.fw, .inbox] ++ pathRegions) ∧ KeepsRegs s t
        (Reg.FW_STAGE_STATUS :: pathRegs)) ∧
  (∀ (s : State) (len : BitVec 20), Reached s → s.stageState = 2 →
    Gives (.stageActivate len) s fun t =>
      t.stageState = 4 ∧ t.fw = { s.fw with fetching := false, handed := false } ∧ Answered s t false ∧ Keeps s t
        [.mgt, .fw] ∧ KeepsRegs s t [Reg.FW_STAGE_CTRL, Reg.FW_STAGE_STATUS]) ∧
  (∀ (s : State) (g : Staged), s.fwRuns .scheduler = true → s.fw.staged = some g → s.stageState = 4 → s.sched.packets =
     [] → s.fw.commitAt = none → s.fw.handed = false → s.emergency = false → s.isCaptain = false ∨ s.deputy = none →
    Gives .activationCommitPoint s fun t =>
      t.fwState = 6 ∧ t.fw.commitAt = some s.fwNow ∧ (∀ k : Fin 4, t.fw.cores[k].run = false) ∧ t.fw.staged =
        s.fw.staged ∧ Keeps s t (.fw :: pathRegions) ∧ KeepsRegs s t (Reg.FW_STATUS :: pathRegs)) ∧
  (∀ (s : State) (g : Staged), s.fwRuns .scheduler = true → s.fw.staged = some g → s.stageState = 4 → s.sched.packets =
     [] → s.fw.commitAt = none → s.fw.handed = false → s.emergency = true →
    Gives .activationCommitPoint s fun t =>
      t.stageState = 5 ∧ t.gf Reg.FW_STAGE_STATUS Fld.FW_STAGE_STATUS_STATUS = 0x40 ∧ t.fw.fetching = true ∧ t.fw.cores
        = s.fw.cores ∧ Logged s t [(0x0022, [0x40])] ∧ Keeps s t [.fw, .inbox] ∧ KeepsRegs s t [Reg.FW_STAGE_STATUS]) ∧
  (∀ (s : State) (t0 : Nat), s.fwRuns .scheduler = true → s.fw.calmSince = some t0 → s.stageState = 5 → s.emergency =
     false → t0 + 100000000 ≤ s.clk.pkg →
    Gives .activationRetry s fun t =>
      t.stageState = 4 ∧ t.fw = { s.fw with fetching := false, handed := false } ∧ Keeps s t [.fw] ∧ KeepsRegs s t
        [Reg.FW_STAGE_STATUS]) ∧
  (∀ (s : State) (n t0 : Nat) (g : Staged) (img : List Byte) (st : Status) (u : State), s.live .firmware = true →
     s.fw.commitAt = some n → s.fw.staged = some g → s.fetch .firmware .normal 1 128 s.stageBase g.image.length = ((st,
     img), u) → imgDigest img g.image.length = g.digest → s.fw.hostTimer = some t0 → s.clk.raw < t0 + s.gf
     Reg.FW_HOST_TIMEOUT Fld.FW_HOST_TIMEOUT_MS * 1000000 → s.fw.picture = [] →
    Gives .activationLoadDone s fun t =>
      t.fwState = 4 ∧ t.rd Reg.FW_VERSION = BitVec.ofNat 32 (imgVersion img) ∧ t.stageState = 0 ∧ t.fw.commitAt = none
        ∧ t.fw.staged = none ∧ t.fw.fetching = true ∧ (∀ k : Fin 4, s.dom (112 + k) = .on → t.fw.cores[k].run = true ∧
        t.fw.cores[k].pc = imgRecovery img k) ∧ Logged s t [(0x0023, [imgVersion img]), (0x0001, [imgVersion img, 1])]
        ∧ Keeps s t ([.fw, .inbox] ++ pathRegions) ∧ KeepsRegs s t ([Reg.FW_STATUS, Reg.FW_VERSION, Reg.FW_DIGEST,
        Reg.FW_DIGEST + 4, Reg.FW_STAGE_STATUS] ++ pathRegs)) ∧
  (∀ (s : State) (n : Nat) (g : Staged) (img : List Byte) (st : Status) (u : State), s.live .firmware = true →
     s.fw.commitAt = some n → s.fw.staged = some g → s.fetch .firmware .normal 1 128 s.stageBase g.image.length = ((st,
     img), u) → imgDigest img g.image.length ≠ g.digest →
    Gives .activationLoadDone s fun t =>
      t.fwState = 0 ∧ t.bit Reg.FW_HW_STATUS Fld.FW_HW_STATUS_ACTIVATION_FAILED = true ∧ (∀ k : Fin 4,
        t.fw.cores[k].run = false) ∧ t.fw.staged = none ∧ t.sched = Sched.init ∧ (∀ o, emulatedOff o = true → t.rd o =
        regReset o)) ∧
  (∀ (s : State) (len : BitVec 20), Reached s → s.stageState = 2 ∨ s.stageState = 4 ∨ s.stageState = 5 → s.fw.handed =
     false →
    Gives (.stageCancel len) s fun t =>
      t.stageState = 0 ∧ t.gf Reg.FW_STAGE_STATUS Fld.FW_STAGE_STATUS_STATUS = 0x32 ∧ t.fw =
        { s.fw with fetching := true, staged := none } ∧ Answered s t false ∧ Keeps s t [.mgt, .fw] ∧ KeepsRegs s t
        [Reg.FW_STAGE_CTRL, Reg.FW_STAGE_STATUS]) ∧
  (∀ (s : State) (n : Nat) (g : Staged) (img : List Byte) (st : Status) (u : State), s.live .firmware = true →
     s.fw.commitAt = some n → s.fw.staged = some g → s.fetch .firmware .normal 1 128 s.stageBase g.image.length = ((st,
     img), u) → imgDigest img g.image.length = g.digest →
    Gives .activationLoadDone s fun t =>
      (t.fwState = 4 ∨ t.fwState = 5) ∧ (s.fw.hostTimer = none → t.fwState = 5) ∧ t.rd Reg.FW_VERSION = BitVec.ofNat 32
        (imgVersion img) ∧ t.stageState = 0 ∧ t.fw.commitAt = none ∧ t.fw.staged = none ∧ t.fw.fetching = true ∧ (∀ k :
        Fin 4, s.dom (112 + k) = .on → t.fw.cores[k].run = true ∧ t.fw.cores[k].pc = imgRecovery img k) ∧ Keeps s t
        ([.fw, .inbox] ++ pathRegions) ∧ KeepsRegs s t ([Reg.FW_STATUS, Reg.FW_VERSION, Reg.FW_DIGEST, Reg.FW_DIGEST +
        4, Reg.FW_STAGE_STATUS, Reg.FW_HW_STATUS] ++ pathRegs))

/-! ### The remote port (13) -/

/-- Frame bytes that a sub-port whose link is up receives whole, with a header, no returned credit and no control frame,
  RX_READY is high, and no injector looks at them (R23, R67, R336, R469). -/
  abbrev Sys2Proof.Machine.Arrives (s : State) (n : Fin 8) (b : List Byte) : Prop :=
    s.live .remote = true ∧ s.rmtUp n = true ∧ s.rxReady n = true ∧ 64 ≤ b.length ∧ b.length ≤ 4160 ∧ (Frame.ofBytes b).control = false ∧
      (Frame.ofBytes b).credit = [0, 0, 0, 0] ∧ s.bit (Reg.RMT_INJ n) Fld.RMT_INJ_ENABLE = false ∧ (s.sub n).rxHeld = none

/-- A frame is for this instance (R348). -/
  abbrev Sys2Proof.Machine.ForUs (s : State) (f : Frame) : Prop :=
    f.dst / 256 = s.endpoint / 256 ∧ f.dst % 16 = s.endpoint % 16

/-- The sub-ports once the beats of a frame have entered the receive FIFO of one of them (R23). -/
  abbrev Sys2Proof.Machine.beatsIn (s : State) (n : Fin 8) (b : List Byte) : Vector SubPort 8 :=
    s.rmt.subs.set n ((s.sub n).takeBeats (s.now .remote) b.length)

/-- The status registers of the remote port, and the registers of the ports unit's counters. -/
  abbrev Sys2Proof.Machine.rmtRegs : List Nat :=
    Reg.RMT_ERR_STATUS :: (upto 8).map (fun m => Reg.RMT_SUBPORT_STATUS m) ++ portRegs

/-- A received frame as a receive buffer holds it. -/
  abbrev Sys2Proof.Machine.rxOf (s : State) (n : Fin 8) (b : List Byte) (p : Nat) : RxFrame :=
    { frame := Frame.ofBytes b, sub := some n, via := n, at_ := s.now .remote, partner := p }

/-- A taken request as the port keeps it until it is checked. -/
  abbrev Sys2Proof.Machine.newReq (x : RxFrame) : RmtReq :=
    { rx := x, checked := false, issued := none, pieces := 0, reserve := 0 }

/-- The receive space of a frame is freed: its credits are owed to the far side of its sub-port (R346). -/
  abbrev Sys2Proof.Machine.Freed (s t : State) (n : Fin 8) (f : Frame) : Prop :=
    ∀ v : Fin 4, (t.sub n).owed[v] = (s.sub n).owed[v] + if v.val = f.vc % 4 then f.units else 0

/-- The acknowledgement timer of a wait has run out (R361). -/
  abbrev Sys2Proof.Machine.RanOut (s : State) (a : AckWait) : Prop :=
    (s.rmt.acks.find? fun x => x.from_.any fun t0 => decide (t0 + x.left ≤ s.now .remote)) = some a

/-- A retransmission as the transmit queue holds it (R361). -/
  abbrev Sys2Proof.Machine.againTx (s : State) (a : AckWait) : Tx :=
    { key := a.partner, cls := a.frame.cls, frame := { a.frame with retrans := true }, at_ := s.now .remote,
      reply := false, coll := a.coll }

/-- A frame with an error sets RX_ERROR and is not taken; its space is freed (R67). The next frame of a partner's
order is taken and RX_SEQ moves on; one ahead of a gap is held, a duplicate is acknowledged again when it asks for it
and freed, one out of the window is freed (R342); a source without a partner sets RX_UNKNOWN (R341). When a gap has
stayed open for REORDER_US, RX_SEQ moves to the held frame, which is taken, and RX_GAP is set (R342). A CREDIT frame
is consumed and adds the credit it returns (R337, R346). A CREDIT frame goes out when credit has been owed for 1 µs
(R346). An acknowledgement ends its wait, an expiry sends the frame again or ends it unacknowledged (R361). A frame
in transit with no hop left is freed and sets FWD_TTL (R349). Forms stated to complete (exec answers next):
remoteFrameReceive, creditReceive, creditReturnTimer, reorderTimeout, ackReceive, ackTimerExpiry. -/
def Obligations.RemoteReceiving : Prop :=
  (∀ (s : State) (n : Fin 8) (b : List Byte), Arrives s n b →
    Gives (.remoteFrameReceive n b true) s fun t =>
      t.bit (Reg.RMT_SUBPORT_STATUS n) Fld.RMT_SUBPORT_STATUS_RX_ERROR = true ∧ t.rmt.reqs = s.rmt.reqs ∧ t.rmt.held =
        s.rmt.held ∧ t.rmt.notices = s.rmt.notices ∧ t.rmt.fwd = s.rmt.fwd ∧ t.rmt.pt = s.rmt.pt ∧ Freed s t n
        (Frame.ofBytes b) ∧ Keeps s t [.rmt] ∧ KeepsRegs s t (Reg.RMT_SUBPORT_STATUS n :: fecRegs ++ portRegs)) ∧
  (∀ (s : State) (n : Fin 8) (b : List Byte) (p : Nat), Arrives s n b → ForUs s (Frame.ofBytes b) → s.partnerOf
     (Frame.ofBytes b).src = some p → s.seqAhead p (Frame.ofBytes b).seq = 0 → (Frame.ofBytes b).isNotice = false →
     (Frame.ofBytes b).ackReq = false → (∀ y ∈ s.rmt.held, y.partner ≠ p) →
    Gives (.remoteFrameReceive n b false) s fun t =>
      t.rmt.reqs = s.rmt.reqs ++ [newReq (rxOf s n b p)] ∧ t.ptRxSeq p = (s.ptRxSeq p + 1) % 2 ^ 24 ∧ t.ptTxSeq p =
        s.ptTxSeq p ∧ t.ptEndpoint p = s.ptEndpoint p ∧ (∀ q, q ≠ p → t.ptEntry q = s.ptEntry q) ∧ t.rmt.held =
        s.rmt.held ∧ t.rmt.subs = beatsIn s n b ∧ t.rmt.notices = s.rmt.notices ∧ Keeps s t [.rmt] ∧ KeepsRegs s t [])
        ∧
  (∀ (s : State) (n : Fin 8) (b : List Byte) (p : Nat), Arrives s n b → ForUs s (Frame.ofBytes b) → s.partnerOf
     (Frame.ofBytes b).src = some p → 1 ≤ s.seqAhead p (Frame.ofBytes b).seq ∧ s.seqAhead p (Frame.ofBytes b).seq ≤ 255
     → s.rmt.held.length < 64 → (∀ y ∈ s.rmt.held, y.partner = p → y.frame.seq ≠ (Frame.ofBytes b).seq) →
    Gives (.remoteFrameReceive n b false) s fun t =>
      t.rmt = { s.rmt with subs := beatsIn s n b, held := s.rmt.held ++ [rxOf s n b p] } ∧ Keeps s t [.rmt] ∧ KeepsRegs
        s t []) ∧
  (∀ (s : State) (n : Fin 8) (b : List Byte) (p : Nat), Arrives s n b → ForUs s (Frame.ofBytes b) → s.partnerOf
     (Frame.ofBytes b).src = some p → 2 ^ 23 ≤ s.seqAhead p (Frame.ofBytes b).seq → (Frame.ofBytes b).ackReq = true →
    Gives (.remoteFrameReceive n b false) s fun t =>
      t.rmt.reqs = s.rmt.reqs ∧ t.rmt.held = s.rmt.held ∧ t.rmt.notices = s.rmt.notices ∧ t.rmt.pt = s.rmt.pt ∧ (t.sub
        (s.ptSub p)).ctl = (s.sub (s.ptSub p)).ctl ++
        [{ s.newFrame 0x13 (s.ptEndpoint p) (s.ptClass p) 1 with seq := (Frame.ofBytes b).seq }] ∧ Freed s t n
        (Frame.ofBytes b) ∧ Keeps s t [.rmt] ∧ KeepsRegs s t portRegs) ∧
  (∀ (s : State) (n : Fin 8) (b : List Byte) (p : Nat), Arrives s n b → ForUs s (Frame.ofBytes b) → s.partnerOf
     (Frame.ofBytes b).src = some p → 256 ≤ s.seqAhead p (Frame.ofBytes b).seq ∧ s.seqAhead p (Frame.ofBytes b).seq < 2
     ^ 23 →
    Gives (.remoteFrameReceive n b false) s fun t =>
      t.rmt.reqs = s.rmt.reqs ∧ t.rmt.held = s.rmt.held ∧ t.rmt.notices = s.rmt.notices ∧ t.rmt.pt = s.rmt.pt ∧ Freed s
        t n (Frame.ofBytes b) ∧ Keeps s t [.rmt] ∧ KeepsRegs s t portRegs) ∧
  (∀ (s : State) (n : Fin 8) (b : List Byte), Arrives s n b → ForUs s (Frame.ofBytes b) → s.partnerOf (Frame.ofBytes
     b).src = none →
    Gives (.remoteFrameReceive n b false) s fun t =>
      t.bit Reg.RMT_ERR_STATUS Fld.RMT_ERR_STATUS_RX_UNKNOWN = true ∧ t.rmt.reqs = s.rmt.reqs ∧ t.rmt.held = s.rmt.held
        ∧ t.rmt.pt = s.rmt.pt ∧ Freed s t n (Frame.ofBytes b) ∧ Keeps s t [.rmt] ∧ KeepsRegs s t (Reg.RMT_ERR_STATUS ::
        portRegs)) ∧
  (∀ (s : State) (n : Fin 8) (b : List Byte), Arrives s n b → (Frame.ofBytes b).dst / 256 ≠ s.endpoint / 256 →
     (Frame.ofBytes b).hops = 0 →
    Gives (.remoteFrameReceive n b false) s fun t =>
      t.bit Reg.RMT_ERR_STATUS Fld.RMT_ERR_STATUS_FWD_TTL = true ∧ t.rmt.fwd = s.rmt.fwd ∧ t.rmt.reqs = s.rmt.reqs ∧
        Freed s t n (Frame.ofBytes b) ∧ Keeps s t [.rmt] ∧ KeepsRegs s t (Reg.RMT_ERR_STATUS :: portRegs)) ∧
  (∀ (s : State) (n : Fin 8) (b : List Byte), s.live .remote = true → s.rmtUp n = true ∧ s.rxReady n = true → b.length
     = 64 → (Frame.ofBytes b).opcode = 0x14 → (s.sub n).rxHeld = none → (Frame.ofBytes b).credit.all (fun c => c = 0) =
     false →
    Gives (.remoteFrameReceive n b false) s fun t =>
      t.rmt = { s.rmt with
            subs := s.rmt.subs.set n
              { (s.sub n).takeBeats (s.now .remote) b.length with creditIn := (s.sub n).creditIn ++ [(Frame.ofBytes b).credit] } }
        ∧ Keeps s t [.rmt] ∧ KeepsRegs s t []) ∧
  (∀ (s : State) (n : Fin 8) (c : List Nat) (rest : List (List Nat)), s.live .remote = true → (s.sub n).creditIn = c ::
     rest →
    Gives (.creditReceive n) s fun t =>
      (∀ v : Fin 4, (t.sub n).credit[v] = (s.sub n).credit[v] + c.getD v 0) ∧ (t.sub n).creditIn = rest ∧ (t.sub n).tx
        = (s.sub n).tx ∧ (t.sub n).owed = (s.sub n).owed ∧ (∀ m : Fin 8, m ≠ n → t.sub m = s.sub m) ∧ t.rmt.pt =
        s.rmt.pt ∧ t.rmt.reqs = s.rmt.reqs ∧ Keeps s t [.rmt] ∧ KeepsRegs s t []) ∧
  (∀ (s : State) (n : Fin 8) (t0 : Nat), s.live .remote = true → (s.sub n).owedAt = some t0 → t0 + 1000 ≤ s.now .remote
     → (s.sub n).ctl.any (fun f => f.opcode = 0x14) = false →
    Gives (.creditReturnTimer n) s fun t =>
      t.rmt = { s.rmt with subs := s.rmt.subs.set n { s.sub n with ctl := (s.sub n).ctl ++ [s.newFrame 0x14 0 0 0] } }
        ∧ Keeps s t [.rmt] ∧ KeepsRegs s t []) ∧
  (∀ (s : State) (x : RxFrame), s.live .remote = true → s.rmt.held = [x] → x.at_ + s.gf Reg.RMT_PORT_CFG
     Fld.RMT_PORT_CFG_REORDER_US * 1000 ≤ s.now .remote → 0 < s.seqAhead x.partner x.frame.seq ∧ x.frame.seq < 2 ^ 24 →
     x.frame.isNotice = false ∧ x.frame.ackReq = false →
    Gives .reorderTimeout s fun t =>
      t.rmt.held = [] ∧ t.rmt.reqs = s.rmt.reqs ++ [newReq x] ∧ t.ptRxSeq x.partner = (x.frame.seq + 1) % 2 ^ 24 ∧
        t.bit Reg.RMT_ERR_STATUS Fld.RMT_ERR_STATUS_RX_GAP = true ∧ t.rmt.subs = s.rmt.subs ∧ (∀ q, q ≠ x.partner →
        t.ptEntry q = s.ptEntry q) ∧ Keeps s t [.rmt] ∧ KeepsRegs s t [Reg.RMT_ERR_STATUS]) ∧
  (∀ (s : State) (n : Fin 8) (src seq p : Nat) (rest : List (Nat × Nat)) (a : AckWait), s.live .remote = true → (s.sub
     n).acksIn = (src, seq) :: rest → s.partnerOf src = some p → s.rmt.acks = [a] → a.partner = p ∧ a.frame.seq = seq →
    Gives (.ackReceive n) s fun t =>
      t.rmt.acks = [] ∧ (t.sub n).acksIn = rest ∧ (∀ m : Fin 8, (t.sub m).tx = (s.sub m).tx) ∧ (∀ c ∈ t.sched.colls,
        a.coll = some c.pk → p ∉ c.awaiting) ∧ t.sched.packets = s.sched.packets ∧ t.rmt.pt = s.rmt.pt ∧ Keeps s t
        [.rmt, .sched] ∧ KeepsRegs s t []) ∧
  (∀ (s : State) (a : AckWait) (t0 : Nat), s.live .remote = true → s.rmt.acks = [a] → a.from_ = some t0 → t0 + a.left ≤
     s.now .remote → a.retries < s.gf Reg.RMT_PORT_CFG Fld.RMT_PORT_CFG_RETRIES → s.gateList (s.ptSub a.partner) = [] →
    Gives .ackTimerExpiry s fun t =>
      t.rmt.acks = [{ a with retries := a.retries + 1, left := 0, from_ := none }] ∧ (t.sub (s.ptSub a.partner)).tx =
        (s.sub (s.ptSub a.partner)).tx ++ [{
            key := a.partner, cls := a.frame.cls, frame := { a.frame with retrans := true }, at_ := s.now .remote,
            reply := false, coll := a.coll }] ∧ t.rmt.pt = s.rmt.pt ∧ Keeps s t [.rmt] ∧ KeepsRegs s t []) ∧
  (∀ (s : State) (a : AckWait) (t0 : Nat), s.live .remote = true → s.rmt.acks = [a] → a.from_ = some t0 → t0 + a.left ≤
     s.now .remote → s.gf Reg.RMT_PORT_CFG Fld.RMT_PORT_CFG_RETRIES ≤ a.retries →
    Gives .ackTimerExpiry s fun t =>
      t.rmt = { s.rmt with acks := [] } ∧ (∀ c ∈ t.sched.colls, a.coll = some c.pk → c.failed ≠ none ∧ a.partner ∉
        c.awaiting) ∧ Keeps s t [.rmt, .sched] ∧ KeepsRegs s t []) ∧
  (∀ (s : State) (n : Fin 8) (b : List Byte) (err : Bool), s.live .remote = true → s.rmtUp n = true → s.rxReady n =
     true →
    Gives (.remoteFrameReceive n b err) s fun t =>
      (t.sub n).rxBeats = min 6 ((s.sub n).rxLevel (s.now .remote) + (b.length + 127) / 128) ∧ (t.sub n).rxBeatsAt =
        s.now .remote ∧ (∀ m : Fin 8, m ≠ n → (t.sub m).rxBeats = (s.sub m).rxBeats ∧ (t.sub m).credit = (s.sub
        m).credit) ∧ Keeps s t [.ring, .sched, .rmt, .inj] ∧ KeepsRegs s t ([Reg.RMT_INJ n, Reg.D2D_INJ 0, Reg.D2D_INJ
        1] ++ rmtRegs ++ fecRegs)) ∧
  (∀ (s : State) (n : Fin 8) (b : List Byte) (err : Bool), s.rmtUp n = false ∨ s.rxReady n = false →
    exec (.remoteFrameReceive n b err) s = .next s) ∧
  (∀ (s : State) (x y : RxFrame), s.live .remote = true → (s.rmt.held.find? fun z => decide (z.at_ + s.gf
     Reg.RMT_PORT_CFG Fld.RMT_PORT_CFG_REORDER_US * 1000 ≤ s.now .remote)) = some x → y ∈ s.rmt.held → y.partner =
     x.partner → y.frame.seq < 2 ^ 24 → s.noticeFull y.frame = false → (∀ z ∈ s.rmt.held, z.partner = x.partner →
     s.seqAhead x.partner y.frame.seq ≤ s.seqAhead x.partner z.frame.seq ∧ (z.frame.seq = y.frame.seq → z = y)) →
    Gives .reorderTimeout s fun t =>
      (y.frame.isNotice = true → y ∈ t.rmt.notices) ∧ (y.frame.isNotice = false → newReq y ∈ t.rmt.reqs) ∧ (0 <
        s.seqAhead x.partner y.frame.seq → t.bit Reg.RMT_ERR_STATUS Fld.RMT_ERR_STATUS_RX_GAP = true) ∧
        t.rmt.tally.lost = s.rmt.tally.lost + s.seqAhead x.partner y.frame.seq ∧ (∀ q, q ≠ x.partner → t.ptEntry q =
        s.ptEntry q) ∧ Keeps s t [.rmt] ∧ KeepsRegs s t [Reg.RMT_ERR_STATUS]) ∧
  (∀ (s : State) (n : Fin 8) (src seq p : Nat) (rest : List (Nat × Nat)) (a : AckWait), s.live .remote = true → (s.sub
     n).acksIn = (src, seq) :: rest → s.partnerOf src = some p → (s.rmt.acks.find? fun x => x.partner = p ∧ x.frame.seq
     = seq) = some a →
    Gives (.ackReceive n) s fun t =>
      t.rmt = { s.rmt with
            subs := s.rmt.subs.set n { s.sub n with acksIn := rest }, acks := s.rmt.acks.filter fun x => x ≠ a } ∧ (∀ c
        ∈ t.sched.colls, a.coll = some c.pk → p ∉ c.awaiting) ∧ t.sched.colls.length = s.sched.colls.length ∧
        t.sched.packets = s.sched.packets ∧ Keeps s t [.rmt, .sched] ∧ KeepsRegs s t []) ∧
  (∀ (s : State) (n : Fin 8) (src seq p : Nat) (rest : List (Nat × Nat)), s.live .remote = true → (s.sub n).acksIn =
     (src, seq) :: rest → s.partnerOf src = some p → (s.rmt.acks.find? fun x => x.partner = p ∧ x.frame.seq = seq) =
     none →
    Gives (.ackReceive n) s fun t =>
      t.rmt = { s.rmt with
            subs := s.rmt.subs.set n { s.sub n with acksIn := rest },
            tally := { s.rmt.tally with lateAcks := s.rmt.tally.lateAcks + 1 } } ∧ Keeps s t [.rmt] ∧ KeepsRegs s t [])
        ∧
  (∀ (s : State) (a : AckWait), s.live .remote = true → RanOut s a → a.retries < s.gf Reg.RMT_PORT_CFG
     Fld.RMT_PORT_CFG_RETRIES → s.oversize (s.ptSub a.partner) (againTx s a) = false →
    Gives .ackTimerExpiry s fun t =>
      t.rmt.acks = s.rmt.acks.map (fun y => if y = a then { a with retries := a.retries + 1, left := 0, from_ := none }
        else y) ∧ (t.sub (s.ptSub a.partner)).tx = (s.sub (s.ptSub a.partner)).tx ++ [againTx s a] ∧ t.rmt.pt =
        s.rmt.pt ∧ (∀ m : Fin 8, m ≠ s.ptSub a.partner → t.sub m = s.sub m) ∧ Keeps s t [.rmt] ∧ KeepsRegs s t []) ∧
  (∀ (s : State) (a : AckWait), s.live .remote = true → RanOut s a → s.gf Reg.RMT_PORT_CFG Fld.RMT_PORT_CFG_RETRIES ≤
     a.retries →
    Gives .ackTimerExpiry s fun t =>
      t.rmt = { s.rmt with acks := s.rmt.acks.filter fun y => y ≠ a } ∧ (∀ c ∈ t.sched.colls, a.coll = some c.pk →
        c.failed ≠ none ∧ a.partner ∉ c.awaiting) ∧ Keeps s t [.rmt, .sched] ∧ KeepsRegs s t [])

/-- The frame that answers a request of a partner, with the partner's next SEQ (R337, R344). -/
  abbrev Sys2Proof.Machine.replyOf (s : State) (x : RxFrame) (st : Status) (detail deckle : Nat) (data : List Byte) : Tx :=
    { key := x.partner, cls := x.frame.cls,
      frame := { s.newFrame (x.frame.opcode % 128 + 128) x.frame.src x.frame.cls 1 with
        tag := x.frame.tag, addr := x.frame.addr, seq := s.ptTxSeq x.partner, status := st.code, detail := detail,
        deckle := deckle, payBytes := data.length, payload := data },
      at_ := s.now .remote, reply := true, coll := none }

/-- A reply has been queued at its partner's sub-port, and the partner's TX_SEQ has moved on (R344, R351). -/
  abbrev Sys2Proof.Machine.Replied (s t : State) (x : RxFrame) (y : Tx) : Prop :=
    (t.sub (s.ptSub x.partner)).tx = (s.sub (s.ptSub x.partner)).tx ++ [y] ∧
      t.ptTxSeq x.partner = (s.ptTxSeq x.partner + 1) % 2 ^ 24 ∧ t.ptRxSeq x.partner = s.ptRxSeq x.partner ∧
      (∀ q, q ≠ x.partner → t.ptEntry q = s.ptEntry q)

/-- One checked request of an opcode waits to be issued, and its reply finds room (R344, R345). -/
  abbrev Sys2Proof.Machine.OneReq (s : State) (r : RmtReq) (op reply : Nat) : Prop :=
    s.live .remote = true ∧ s.rmt.reqs = [r] ∧ r.issued = none ∧ r.checked = true ∧ r.rx.frame.opcode = op ∧
      s.txRoom (s.ptSub r.rx.partner) (64 + reply) = true

/-- The requests of a remote request have entered the crossbar under the next number, and it waits for them with the
  reply's space reserved (R344, R345). -/
  abbrev Sys2Proof.Machine.Issued (s t : State) (r : RmtReq) (l : List Req) (pieces reply : Nat) : Prop :=
    t.paths.reqXbar = s.paths.reqXbar ++ l ∧ t.paths.nextId = s.freshId + 1 ∧
      t.rmt.reqs = [{ r with issued := some s.freshId, pieces := pieces, reserve := 64 + reply }] ∧
      t.rmt.pt = s.rmt.pt ∧ t.paths.slices = s.paths.slices ∧ t.paths.ports = s.paths.ports

/-- A checked request is the next of its opcode to be issued: earlier ones of its partner have been, and the crossbar and the
  transmit buffer have room for it (R344, R345). -/
  abbrev Sys2Proof.Machine.NextOf (s : State) (r : RmtReq) (op bytes reply : Nat) : Prop :=
    s.live .remote = true ∧ nextReq op [] s.rmt.reqs = some r ∧ s.rmtHeld + (bytes + 255) / 256 ≤ 1024 ∧
      s.txRoom (s.ptSub r.rx.partner) (64 + reply) = true

/-- A request has been issued under the next number, its reply's space reserved, and the rest of the port is as it was (R344,
  R345). -/
  abbrev Sys2Proof.Machine.Entered (s t : State) (r : RmtReq) (pieces reply : Nat) : Prop :=
    t.rmt.reqs = s.rmt.reqs.map (fun y =>
      if y = r then { y with issued := some s.freshId, pieces := pieces, reserve := 64 + reply } else y) ∧
      t.paths.nextId = s.freshId + 1 ∧ t.rmt.pt = s.rmt.pt ∧ t.rmt.held = s.rmt.held ∧ (∀ m : Fin 8, (t.sub m).tx = (s.sub m).tx) ∧
      Keeps s t (.rmt :: pathRegions) ∧ KeepsRegs s t pathRegs

/-- A checked SIGNATURE is the next to be issued, with room for the longest reply (R234, R345). -/
  abbrev Sys2Proof.Machine.NextSig (s : State) (r : RmtReq) : Prop :=
    s.live .remote = true ∧ nextReq 5 [] s.rmt.reqs = some r ∧ s.txRoom (s.ptSub r.rx.partner) 4160 = true

/-- Every part of an issued request has completed, or the signature it became has its answer (R235, R344). -/
  def Sys2Proof.Machine.State.reqDone (s : State) (r : RmtReq) : Bool :=
    match r.issued with
    | none => false
    | some i => if r.rx.frame.opcode = 5 then s.seq.answers.any fun a => a.1 = i else !s.inFlight i

/-- A request that passes the checks of R343 waits to be issued; one without the permission its opcode needs is
answered with BAD_REQUEST, a read while the column is shut down with THERMAL_SHUTDOWN, header only (R343). A READ or
WRITE, an ATOMIC and a REDUCE_INTO enter the crossbar as parts of class 5 in address order, with the space of the
reply reserved (R344, R345). A SIGNATURE of a table number beyond the table is refused with BAD_TABLE, one that
passes the checks is queued (R234, R235). Once every part has completed the reply carries the first status other than
OK, and zeros in place of data that did not complete with OK (R344). Forms stated to complete (exec answers next):
remoteRequestCheck, remoteRead, remoteWrite, remoteAtomic, remoteReduceInto, remoteSignature, remoteReply. -/
def Obligations.RemoteRequests : Prop :=
  (∀ (s : State) (r : RmtReq), s.live .remote = true → s.rmt.reqs = [r] → r.checked = false → r.rx.frame.opcode = 1 ∧
     r.rx.frame.payload = [] ∧ r.rx.frame.payBytes = 0 → (s.ptEntry r.rx.partner).testBit 124 = true → r.rx.frame.count
     = 64 ∧ r.rx.frame.addr % 64 = 0 → s.shutdown = false →
    Gives .remoteRequestCheck s fun t =>
      t.rmt = { s.rmt with reqs := [{ r with checked := true }] } ∧ Keeps s t [.rmt] ∧ KeepsRegs s t []) ∧
  (∀ (s : State) (r : RmtReq), s.live .remote = true → s.rmt.reqs = [r] → r.checked = false ∧ r.issued = none ∧
     r.rx.sub = none → r.rx.frame.opcode = 2 → (s.ptEntry r.rx.partner).testBit 125 = false → s.txRoom (s.ptSub
     r.rx.partner) 64 = true → s.gateList (s.ptSub r.rx.partner) = [] →
    Gives .remoteRequestCheck s fun t =>
      t.rmt.reqs = [] ∧ Replied s t r.rx (replyOf s r.rx .badRequest 0 0 []) ∧ Keeps s t [.rmt] ∧ KeepsRegs s t []) ∧
  (∀ (s : State) (r : RmtReq), s.live .remote = true → s.rmt.reqs = [r] → r.checked = false ∧ r.issued = none ∧
     r.rx.sub = none → r.rx.frame.opcode = 1 ∧ r.rx.frame.payload = [] ∧ r.rx.frame.payBytes = 0 → (s.ptEntry
     r.rx.partner).testBit 124 = true → r.rx.frame.count = 64 ∧ r.rx.frame.addr % 64 = 0 → s.shutdown = true → s.txRoom
     (s.ptSub r.rx.partner) 64 = true → s.gateList (s.ptSub r.rx.partner) = [] →
    Gives .remoteRequestCheck s fun t =>
      t.rmt.reqs = [] ∧ Replied s t r.rx (replyOf s r.rx .thermalShutdown 0 0 []) ∧ Keeps s t [.rmt] ∧ KeepsRegs s t
        []) ∧
  (∀ (s : State) (r : RmtReq), OneReq s r 1 r.rx.frame.count → (r.rx.frame.count + 255) / 256 ≤ 1024 → s.bit
     Reg.CNT_TAG_CFG Fld.CNT_TAG_CFG_ENABLE = false ∧ s.tags.live = [] → (∀ x ∈ frameParts r.rx.frame.addr
     r.rx.frame.count, s.route x.1 = .own (natBits x.1 0 37) ∧ (s.gf Reg.CACHE_FENCE Fld.CACHE_FENCE_PENDING).testBit
     (s.sliceOf x.1) = false) → s.shutdown = false ∧ s.pwr.failed = false →
    Gives .remoteRead s fun t =>
      Issued s t r (r.rx.frame.reqs s.freshId r.rx.frame.count .read) ((r.rx.frame.count + 255) / 256) r.rx.frame.count
        ∧ Keeps s t [.rmt, .paths] ∧ KeepsRegs s t []) ∧
  (∀ (s : State) (r : RmtReq), OneReq s r 2 0 → (r.rx.frame.payBytes + 255) / 256 ≤ 1024 → s.bit Reg.CNT_TAG_CFG
     Fld.CNT_TAG_CFG_ENABLE = false ∧ s.tags.live = [] → (∀ x ∈ frameParts r.rx.frame.addr r.rx.frame.payBytes, s.route
     x.1 = .own (natBits x.1 0 37) ∧ (s.gf Reg.CACHE_FENCE Fld.CACHE_FENCE_PENDING).testBit (s.sliceOf x.1) = false) →
     s.shutdown = false ∧ s.pwr.failed = false →
    Gives .remoteWrite s fun t =>
      Issued s t r (r.rx.frame.reqs s.freshId r.rx.frame.payBytes .write) ((r.rx.frame.payBytes + 255) / 256) 0 ∧ Keeps
        s t [.rmt, .paths] ∧ KeepsRegs s t []) ∧
  (∀ (s : State) (r : RmtReq), OneReq s r 3 r.rx.frame.replyBytes → (r.rx.frame.payBytes + 255) / 256 ≤ 1024 → s.bit
     Reg.CNT_TAG_CFG Fld.CNT_TAG_CFG_ENABLE = false ∧ s.tags.live = [] → (∀ x ∈ frameParts r.rx.frame.addr
     r.rx.frame.payBytes, s.route x.1 = .own (natBits x.1 0 37) ∧ (s.gf Reg.CACHE_FENCE
     Fld.CACHE_FENCE_PENDING).testBit (s.sliceOf x.1) = false) → s.shutdown = false ∧ s.pwr.failed = false →
    Gives .remoteAtomic s fun t =>
      Issued s t r (r.rx.frame.reqs s.freshId r.rx.frame.payBytes .atomic) ((r.rx.frame.payBytes + 255) / 256) (if
        r.rx.frame.attr.testBit 8 ∨ r.rx.frame.attr % 16 = 3 ∨ r.rx.frame.attr % 16 = 4 then r.rx.frame.payBytes else
        0) ∧ Keeps s t [.rmt, .paths] ∧ KeepsRegs s t []) ∧
  (∀ (s : State) (r : RmtReq), OneReq s r 4 r.rx.frame.replyBytes → (r.rx.frame.payBytes + 255) / 256 ≤ 1024 → s.bit
     Reg.CNT_TAG_CFG Fld.CNT_TAG_CFG_ENABLE = false ∧ s.tags.live = [] → (∀ x ∈ frameParts r.rx.frame.addr
     r.rx.frame.payBytes, s.route x.1 = .own (natBits x.1 0 37) ∧ (s.gf Reg.CACHE_FENCE
     Fld.CACHE_FENCE_PENDING).testBit (s.sliceOf x.1) = false) → s.shutdown = false ∧ s.pwr.failed = false →
    Gives .remoteReduceInto s fun t =>
      Issued s t r (r.rx.frame.reqs s.freshId r.rx.frame.payBytes .reduceInto) ((r.rx.frame.payBytes + 255) / 256) (if
        r.rx.frame.attr % 16 = 9 then 16 else 0) ∧ Keeps s t [.rmt, .paths] ∧ KeepsRegs s t []) ∧
  (∀ (s : State) (r : RmtReq), OneReq s r 5 4096 → s.gf Reg.BME_TDT_SIZE Fld.BME_TDT_SIZE_ENTRIES ≤ r.rx.frame.sigField
     0 2 → r.rx.sub = none → s.gateList (s.ptSub r.rx.partner) = [] →
    Gives .remoteSignature s fun t =>
      t.rmt.reqs = [] ∧ Replied s t r.rx (replyOf s r.rx .badTable (r.rx.frame.sigField 0 2) 0 []) ∧ t.seq = s.seq ∧
        Keeps s t [.rmt] ∧ KeepsRegs s t []) ∧
  (∀ (s : State) (r : RmtReq) (d0 : Desc) (u : State) (o : SigOp) (total : Nat), OneReq s r 5 4096 → s.readDesc
     (r.rx.frame.sigField 0 2) = (some d0, u) → u.remoteBag r.rx.frame d0 s.freshId = .inr (o, total) →
     s.seq.remoteQueue.length < 64 → r.rx.sub = none →
    Gives .remoteSignature s fun t =>
      t.seq.remoteQueue = s.seq.remoteQueue ++ [o] ∧ o.remote = some s.freshId ∧ o.bags = 1 ∧ o.indices.length =
        r.rx.frame.sigField 4 2 ∧ total ≤ 4096 ∧ t.rmt.reqs =
        [{ r with issued := some s.freshId, pieces := 0, reserve := 64 + total }] ∧ t.seq.ops = s.seq.ops ∧ t.rmt.pt =
        s.rmt.pt ∧ Keeps s t ([.rmt, .seq] ++ pathRegions) ∧ KeepsRegs s t pathRegs) ∧
  (∀ (s : State) (r : RmtReq) (e : Nat) (c : Completion), s.live .remote = true → s.rmt.reqs = [r] → r.issued = some e
     → r.rx.frame.opcode = 1 ∧ r.rx.frame.count ≤ 128 → s.inFlight e = false → s.paths.done = [c] → c.req.id = e ∧
     c.req.part = 0 → s.gateList (s.ptSub r.rx.partner) = [] →
    Gives .remoteReply s fun t =>
      t.rmt.reqs = [] ∧ t.paths = { s.paths with done := [] } ∧ Replied s t r.rx (replyOf s r.rx c.status 0 0 (if
        c.status = .ok then sliceBytes c.data 0 r.rx.frame.count else zeros r.rx.frame.count)) ∧ Keeps s t [.rmt,
        .paths] ∧ KeepsRegs s t []) ∧
  (∀ (s : State) (r : RmtReq) (e : Nat) (st : Status) (d : Nat) (pay : List Byte), s.live .remote = true → s.rmt.reqs =
     [r] → r.issued = some e → r.rx.frame.opcode = 5 → s.seq.answers = [(e, st, d, pay)] → s.gateList (s.ptSub
     r.rx.partner) = [] →
    Gives .remoteReply s fun t =>
      t.rmt.reqs = [] ∧ t.seq = { s.seq with answers := [] } ∧ Replied s t r.rx (replyOf s r.rx st 0 d pay) ∧ Keeps s t
        [.rmt, .seq] ∧ KeepsRegs s t []) ∧
  (∀ (s : State) (r : RmtReq), s.live .remote = true → (s.rmt.reqs.find? fun x => !x.checked) = some r →
     s.requestRefusal r.rx = none →
    Gives .remoteRequestCheck s fun t =>
      t.rmt = { s.rmt with reqs := s.rmt.reqs.map fun y => if y = r then { y with checked := true } else y } ∧ Keeps s
        t [.rmt] ∧ KeepsRegs s t []) ∧
  (∀ (s : State) (r : RmtReq) (st : Status), s.live .remote = true → (s.rmt.reqs.find? fun x => !x.checked) = some r →
     s.requestRefusal r.rx = some st → s.txRoom (s.ptSub r.rx.partner) 64 = true → s.oversize (s.ptSub r.rx.partner)
     (replyOf s r.rx st 0 0 []) = false →
    Gives .remoteRequestCheck s fun t =>
      t.rmt.reqs = dropFirst (fun y => decide (y = r)) s.rmt.reqs ∧ Replied s t r.rx (replyOf s r.rx st 0 0 []) ∧ Keeps
        s t [.rmt] ∧ KeepsRegs s t []) ∧
  (∀ (s : State) (r : RmtReq), NextOf s r 1 r.rx.frame.count r.rx.frame.count →
    Gives .remoteRead s fun t =>
      Entered s t r ((r.rx.frame.count + 255) / 256) r.rx.frame.count) ∧
  (∀ (s : State) (r : RmtReq), NextOf s r 2 r.rx.frame.payBytes 0 →
    Gives .remoteWrite s fun t =>
      Entered s t r ((r.rx.frame.payBytes + 255) / 256) 0) ∧
  (∀ (s : State) (r : RmtReq), NextOf s r 3 r.rx.frame.payBytes r.rx.frame.replyBytes →
    Gives .remoteAtomic s fun t =>
      Entered s t r ((r.rx.frame.payBytes + 255) / 256) r.rx.frame.replyBytes) ∧
  (∀ (s : State) (r : RmtReq), NextOf s r 4 r.rx.frame.payBytes r.rx.frame.replyBytes →
    Gives .remoteReduceInto s fun t =>
      Entered s t r ((r.rx.frame.payBytes + 255) / 256) r.rx.frame.replyBytes) ∧
  (∀ (s : State) (r : RmtReq) (d0 : Desc) (u : State) (o : SigOp) (total : Nat), NextSig s r → s.readDesc
     (r.rx.frame.sigField 0 2) = (some d0, u) → u.remoteBag r.rx.frame d0 s.freshId = .inr (o, total) →
     s.seq.remoteQueue.length < 64 →
    Gives .remoteSignature s fun t =>
      t.seq = { s.seq with remoteQueue := s.seq.remoteQueue ++ [o] } ∧ t.rmt.reqs = s.rmt.reqs.map (fun y => if y = r
        then { y with issued := some s.freshId, pieces := 0, reserve := 64 + total } else y) ∧ t.rmt.pt = s.rmt.pt ∧
        Keeps s t ([.rmt, .seq] ++ pathRegions) ∧ KeepsRegs s t pathRegs) ∧
  (∀ (s : State) (r : RmtReq) (d0 : Desc) (u : State) (st : Status) (det : Nat), NextSig s r → s.readDesc
     (r.rx.frame.sigField 0 2) = (some d0, u) → u.remoteBag r.rx.frame d0 s.freshId = .inl (st, det) → s.oversize
     (s.ptSub r.rx.partner) (replyOf s r.rx st det 0 []) = false →
    Gives .remoteSignature s fun t =>
      t.rmt.reqs = dropFirst (fun y => decide (y = r)) s.rmt.reqs ∧ Replied s t r.rx (replyOf s r.rx st det 0 []) ∧
        Keeps s t (.rmt :: pathRegions) ∧ KeepsRegs s t pathRegs) ∧
  (∀ (s : State) (r : RmtReq) (i : Nat), s.live .remote = true → (s.rmt.reqs.find? s.reqDone) = some r → r.issued =
     some i → r.rx.frame.opcode ≠ 5 → s.oversize (s.ptSub r.rx.partner) (replyOf s r.rx (s.gatherReq r i).1 0 0
     (s.gatherReq r i).2) = false →
    Gives .remoteReply s fun t =>
      t.rmt.reqs = dropFirst (fun y => decide (y = r)) s.rmt.reqs ∧ t.paths =
        { s.paths with done := s.paths.done.filter fun c => c.req.id ≠ i } ∧ Replied s t r.rx (replyOf s r.rx
        (s.gatherReq r i).1 0 0 (s.gatherReq r i).2) ∧ Keeps s t [.rmt, .paths] ∧ KeepsRegs s t [])

/-! ### Sending, gates and shapers (13) -/

/-- A sub-port in service that is free to start a frame, with no control frame waiting and no injection (R66, R347, R469). -/
  abbrev Sys2Proof.Machine.FreeSub (s : State) (n : Fin 8) : Prop :=
    s.live .remote = true ∧ s.rmtUp n = true ∧ (s.sub n).sending = none ∧
      (s.sub n).startAt + (s.sub n).busy ≤ s.now .remote ∧ (s.sub n).ctl = [] ∧ (s.sub n).txHeld = none ∧
      s.bit (Reg.RMT_INJ n) Fld.RMT_INJ_ENABLE = false

/-- A partner's head frame that nothing holds back: its class is not held and its shaper is off, it has the credits of its channel, and its queue's
  quantum pays for it (R346, R354, R355). -/
  abbrev Sys2Proof.Machine.MaySend (s : State) (n : Fin 8) (x : Tx) : Prop :=
    x.cls < 8 ∧ x.key < 8192 ∧ x.frame.ackReq = false ∧ (s.sub n).gateHeld[subFin x.cls] = false ∧
      (s.sub n).shapers[subFin x.cls].enabled = false ∧
      x.frame.units ≤ (s.sub n).credit[Fin.ofNat 4 x.frame.vc] ∧ s.counted n x.frame ≤ s.ptQuantum x.key

/-- A data frame is on the wire: it carries the credits owed and has taken those of its channel (R346, R352). -/
  abbrev Sys2Proof.Machine.Started (s t : State) (n : Fin 8) (x : Tx) : Prop :=
    (t.sub n).sending = some { x with frame := { x.frame with credit := (s.sub n).owed.toList } } ∧
      (t.sub n).owed = Vector.replicate 4 0 ∧ (t.sub n).owedAt = none ∧ (t.sub n).startAt = s.now .remote ∧
      (t.sub n).busy = s.countedTime n x.frame ∧
      ∀ v : Fin 4, (t.sub n).credit[v] = (s.sub n).credit[v] - if v.val = x.frame.vc % 4 then x.frame.units else 0

/-- A sub-port that looks at its queues: its shapers brought up to now, and a class whose head frame exceeds its remaining
  window held (R355, R358). -/
  abbrev Sys2Proof.Machine.looking (s : State) (n : Fin 8) : State := (s.settleSub n).holdClasses n

/-- A free sub-port starts the head frame of the highest class that may send, with the credits owed, against the
credits of its channel (R346, R353, R354); a control frame goes first and takes no credit (R347); a class whose gate
is closed is held (R357, R358). When the last beat has gone the frame is out (R66), and the timer of a frame that
asks for an acknowledgement starts, unless its partner has slowed (R361). Forms stated to complete (exec answers
next): subportFrameStart, frameSent. -/
def Obligations.SendingFrames : Prop :=
  (∀ (s : State) (n : Fin 8) (x : Tx), FreeSub s n → MaySend s n x → (s.sub n).tx = [x] → s.gateList n = [] →
    Gives (.subportFrameStart n) s fun t =>
      Started s t n x ∧ (t.sub n).tx = [] ∧ (∀ m : Fin 8, m ≠ n → t.sub m = s.sub m) ∧ t.rmt.pt = s.rmt.pt ∧ t.rmt.acks
        = s.rmt.acks ∧ Keeps s t [.rmt] ∧ KeepsRegs s t []) ∧
  (∀ (s : State) (n : Fin 8) (x y : Tx), FreeSub s n → MaySend s n y → (s.sub n).tx = [x, y] → x.cls < y.cls →
     s.gateList n = [] →
    Gives (.subportFrameStart n) s fun t =>
      Started s t n y ∧ (t.sub n).tx = [x] ∧ (∀ m : Fin 8, m ≠ n → t.sub m = s.sub m) ∧ t.rmt.pt = s.rmt.pt ∧ Keeps s t
        [.rmt] ∧ KeepsRegs s t []) ∧
  (∀ (s : State) (n : Fin 8) (f : Frame) (rest : List Frame), s.live .remote = true → s.rmtUp n = true → (s.sub
     n).sending = none → (s.sub n).startAt + (s.sub n).busy ≤ s.now .remote → (s.sub n).ctl = f :: rest → ((s.sub
     n).ctlAt.all fun t0 => decide (t0 + 32 ≤ s.now .remote)) = true → f.ackReq = false →
    Gives (.subportFrameStart n) s fun t =>
      (t.sub n).sending.map (fun y => (y.key, y.frame)) = some (8193, { f with credit := (s.sub n).owed.toList }) ∧
        (t.sub n).ctl = rest ∧ (t.sub n).ctlAt = some (s.now .remote) ∧ (t.sub n).busy = 1 ∧ (t.sub n).tx = (s.sub
        n).tx ∧ (t.sub n).credit = (s.sub n).credit ∧ (t.sub n).owed = Vector.replicate 4 0 ∧ (∀ m : Fin 8, m ≠ n →
        t.sub m = s.sub m) ∧ Keeps s t [.rmt] ∧ KeepsRegs s t []) ∧
  (∀ (s : State) (n : Fin 8) (x : Tx), FreeSub s n → (s.sub n).tx = [x] → s.gateOpen n x.cls = false →
    Gives (.subportFrameStart n) s fun t =>
      (t.sub n).sending = none ∧ (t.sub n).tx = [x] ∧ (t.sub n).credit = (s.sub n).credit ∧ (∀ m : Fin 8, m ≠ n → t.sub
        m = s.sub m) ∧ Keeps s t [.rmt] ∧ KeepsRegs s t []) ∧
  (∀ (s : State) (n : Fin 8) (x : Tx), s.live .remote = true → s.rmtUp n = true → (s.sub n).sending = some x → (s.sub
     n).startAt + (x.frame.len + 127) / 128 ≤ s.now .remote → (s.sub n).txDrop = false → x.frame.ackReq = false →
     s.rmt.fwd = [] →
    Gives (.frameSent n) s fun t =>
      (t.sub n).out = (s.sub n).out ++ [x.frame] ∧ (t.sub n).sending = none ∧ (t.sub n).tx = (s.sub n).tx ∧ t.rmt.acks
        = s.rmt.acks ∧ t.rmt.reqs = s.rmt.reqs ∧ (∀ m : Fin 8, m ≠ n → t.sub m = s.sub m) ∧ Keeps s t [.rmt] ∧
        KeepsRegs s t []) ∧
  (∀ (s : State) (n : Fin 8) (x : Tx) (a : AckWait), s.live .remote = true → s.rmtUp n = true → (s.sub n).sending =
     some x → (s.sub n).startAt + (x.frame.len + 127) / 128 ≤ s.now .remote → (s.sub n).txDrop = false → x.frame.ackReq
     = true → s.rmt.acks = [a] → a.partner = x.key ∧ a.frame.seq = x.frame.seq → s.rmt.fwd = [] →
    Gives (.frameSent n) s fun t =>
      (t.sub n).out = (s.sub n).out ++ [x.frame] ∧ (t.sub n).sending = none ∧ t.rmt.acks = [{ a with
            left := s.gf Reg.RMT_PORT_CFG Fld.RMT_PORT_CFG_ACK_US * 1000,
            from_ := if s.isSlowed a.partner then none else some (s.now .remote) }] ∧ Keeps s t [.rmt] ∧ KeepsRegs s t
        []) ∧
  (∀ (s : State) (n c : Fin 8) (x : Tx) (d : List (Nat × Nat)), FreeSub s n → (looking s n).bestClass n = some (c, x,
     d) →
    Gives (.subportFrameStart n) s fun t =>
      Started s t n x ∧ (t.sub n).tx = dropFirst (fun y => decide (y.cls = c.val ∧ y.key = x.key)) (s.sub n).tx ∧ (∀ m
        : Fin 8, m ≠ n → t.sub m = s.sub m) ∧ t.rmt.pt = s.rmt.pt ∧ t.rmt.reqs = s.rmt.reqs ∧ (x.frame.ackReq = false →
        t.rmt.acks = s.rmt.acks) ∧ Keeps s t [.rmt] ∧ KeepsRegs s t []) ∧
  (∀ (s : State) (n : Fin 8), FreeSub s n → (looking s n).bestClass n = none →
    Gives (.subportFrameStart n) s fun t =>
      (t.sub n).sending = none ∧ (t.sub n).tx = (s.sub n).tx ∧ (t.sub n).credit = (s.sub n).credit ∧ (∀ m : Fin 8, m ≠
        n → t.sub m = s.sub m) ∧ t.rmt.acks = s.rmt.acks ∧ Keeps s t [.rmt] ∧ KeepsRegs s t []) ∧
  (∀ (s : State) (n : Fin 8) (x : Tx), s.live .remote = true → s.rmtUp n = true → (s.sub n).sending = some x → (s.sub
     n).startAt + (x.frame.len + 127) / 128 ≤ s.now .remote →
    Gives (.frameSent n) s fun t =>
      (t.sub n).out = (if (s.sub n).txDrop then (s.sub n).out else (s.sub n).out ++ [x.frame]) ∧ (t.sub n).sending =
        none ∧ (t.sub n).txDrop = false ∧ t.rmt.reqs = s.rmt.reqs ∧ (s.rmt.fwd = [] → t.rmt.acks = (if x.frame.ackReq
        then s.rmt.acks.map (fun a => if a.partner = x.key ∧ a.frame.seq = x.frame.seq then { a with
            left := s.gf Reg.RMT_PORT_CFG Fld.RMT_PORT_CFG_ACK_US * 1000,
            from_ := if s.isSlowed a.partner then none else some (s.now .remote) } else a) else s.rmt.acks)) ∧ Keeps s
        t [.rmt] ∧ KeepsRegs s t rmtRegs)

/-- The first head frame of a sub-port that is longer than its class's longest window (R359). -/
  abbrev Sys2Proof.Machine.HeadLong (s : State) (n : Fin 8) (x : Tx) : Prop :=
    (((upto 8).flatMap fun c => ((s.sub n).keys c).filterMap fun k => (s.sub n).head c k).find? fun y => s.oversize n y) = some x

/-- A reply cut to its header with OVERSIZE_FOR_GATE (R359). -/
  abbrev Sys2Proof.Machine.shortTx (x : Tx) : Tx :=
    { x with frame := { x.frame with payload := [], payBytes := 0, status := Status.oversizeForGate.code } }

/-- A frame longer than its class's longest window is refused with OVERSIZE_FOR_GATE: a reply shrinks to its header,
an originated frame is dropped (R359). The next entry begins when the present one's duration is over (R357). ARM with
a TIME 1 µs ahead arms the shift with SHADOW_LEN, with an earlier TIME it is late, while armed it is refused; DISARM
ends the arming; at TIME the lists and their lengths swap and SHIFT_COUNT increments (R140, R141, R142, R357). Forms
stated to complete (exec answers next): gateRefusal, gateEntryAdvance, gateArm, gateDisarm, gateShift. -/
def Obligations.GateLists : Prop :=
  (∀ (s : State) (n : Fin 8) (x : Tx), s.live .remote = true → (s.sub n).tx = [x] → x.cls < 8 ∧ x.reply = true →
     s.oversize n x = true → s.oversize n
     { x with frame := { x.frame with payload := [], payBytes := 0, status := Status.oversizeForGate.code } } = false →
    Gives (.gateRefusal n) s fun t =>
      (t.sub n).tx =
        [{ x with frame := { x.frame with payload := [], payBytes := 0, status := Status.oversizeForGate.code } }] ∧
        t.bit (Reg.RMT_SUBPORT_STATUS n) Fld.RMT_SUBPORT_STATUS_OVERSIZE_FOR_GATE = true ∧ t.rmt.acks = s.rmt.acks ∧ (∀
        m : Fin 8, m ≠ n → t.sub m = s.sub m) ∧ Keeps s t [.rmt] ∧ KeepsRegs s t (Reg.RMT_SUBPORT_STATUS n ::
        portRegs)) ∧
  (∀ (s : State) (n : Fin 8) (x : Tx), s.live .remote = true → (s.sub n).tx = [x] → x.cls < 8 ∧ x.reply = false ∧ x.key
     < 8192 ∧ x.coll = none → s.oversize n x = true →
    Gives (.gateRefusal n) s fun t =>
      (t.sub n).tx = [] ∧ t.bit (Reg.RMT_SUBPORT_STATUS n) Fld.RMT_SUBPORT_STATUS_OVERSIZE_FOR_GATE = true ∧ (∀ a ∈
        t.rmt.acks, a.partner ≠ x.key ∨ a.frame.seq ≠ x.frame.seq) ∧ (∀ m : Fin 8, m ≠ n → t.sub m = s.sub m) ∧ Keeps s
        t [.rmt] ∧ KeepsRegs s t (Reg.RMT_SUBPORT_STATUS n :: portRegs)) ∧
  (∀ (s : State) (n : Fin 8), s.live .remote = true → s.gateList n ≠ [] → s.gateLen n ≤ 256 → (s.sub n).entryAt +
     (s.gateEntry n (s.gateAt n)).2 ≤ s.now .remote →
    Gives (.gateEntryAdvance n) s fun t =>
      (t.sub n).entryAt = (s.sub n).entryAt + (s.gateEntry n (s.gateAt n)).2 ∧ t.gateAt n < s.gateLen n ∧ (s.gateEntry
        n (t.gateAt n)).2 ≠ 0 ∧ (s.gateAt n + 1 < s.gateLen n → (s.gateEntry n (s.gateAt n + 1)).2 ≠ 0 → t.gateAt n =
        s.gateAt n + 1) ∧ (∀ c : Fin 8, t.gateOpen n c = true → s.gateOpen n c = false → (t.sub n).gateHeld[c] = false)
        ∧ (t.sub n).tx = (s.sub n).tx ∧ (∀ m : Fin 8, m ≠ n → t.sub m = s.sub m) ∧ Keeps s t [.rmt] ∧ KeepsRegs s t
        [Reg.RMT_GATE_STATUS n]) ∧
  (∀ (s : State) (n : Fin 8) (v : Word), s.mgtReady = true → s.live .remote = true → s.bit (Reg.RMT_GATE_STATUS n)
     Fld.RMT_GATE_STATUS_ARMED = false → s.now .remote + 1000 ≤ s.rd64 (Reg.RMT_GATE_SHIFT_TIME n) →
    Gives (.gateArm n v) s fun t =>
      t.bit (Reg.RMT_GATE_STATUS n) Fld.RMT_GATE_STATUS_ARMED = true ∧ t.gf (Reg.RMT_GATE_CTRL n)
        Fld.RMT_GATE_CTRL_SHADOW_LEN = min 256 (v.toNat % 512) ∧ ((∃ e ∈ upto (min 256 (v.toNat % 512)), s.gf
        (Reg.RMT_GATE_SHADOW n e) Fld.RMT_GATE_SHADOW_DURATION = 0) → t.bit (Reg.RMT_GATE_STATUS n)
        Fld.RMT_GATE_STATUS_BAD_GATE_ENTRY = true) ∧ Answered s t false ∧ Keeps s t [.mgt] ∧ KeepsRegs s t
        [Reg.RMT_GATE_STATUS n, Reg.RMT_GATE_CTRL n]) ∧
  (∀ (s : State) (n : Fin 8) (v : Word), s.mgtReady = true → s.live .remote = true → s.bit (Reg.RMT_GATE_STATUS n)
     Fld.RMT_GATE_STATUS_ARMED = false → s.rd64 (Reg.RMT_GATE_SHIFT_TIME n) < s.now .remote + 1000 →
    Gives (.gateArm n v) s fun t =>
      t.bit (Reg.RMT_GATE_STATUS n) Fld.RMT_GATE_STATUS_ARMED = false ∧ t.bit (Reg.RMT_GATE_STATUS n)
        Fld.RMT_GATE_STATUS_SHIFT_LATE = true ∧ Answered s t false ∧ Keeps s t [.mgt] ∧ KeepsRegs s t
        [Reg.RMT_GATE_STATUS n]) ∧
  (∀ (s : State) (n : Fin 8) (v : Word), s.mgtReady = true → s.live .remote = true → s.bit (Reg.RMT_GATE_STATUS n)
     Fld.RMT_GATE_STATUS_ARMED = true → v.getLsbD 30 = false →
    Gives (.gateArm n v) s fun t =>
      t.bit (Reg.RMT_GATE_STATUS n) Fld.RMT_GATE_STATUS_ARMED = true ∧ t.bit (Reg.RMT_GATE_STATUS n)
        Fld.RMT_GATE_STATUS_ARMED_WRITE_REFUSED = true ∧ Answered s t false ∧ Keeps s t [.mgt] ∧ KeepsRegs s t
        [Reg.RMT_GATE_STATUS n]) ∧
  (∀ (s : State) (n : Fin 8) (v : Word), s.mgtReady = true → s.live .remote = true → s.bit (Reg.RMT_GATE_STATUS n)
     Fld.RMT_GATE_STATUS_ARMED = true →
    Gives (.gateDisarm n v) s fun t =>
      t.bit (Reg.RMT_GATE_STATUS n) Fld.RMT_GATE_STATUS_ARMED = false ∧ t.gf (Reg.RMT_GATE_STATUS n)
        Fld.RMT_GATE_STATUS_SHIFT_COUNT = s.gf (Reg.RMT_GATE_STATUS n) Fld.RMT_GATE_STATUS_SHIFT_COUNT ∧ Answered s t
        false ∧ Keeps s t [.mgt] ∧ KeepsRegs s t [Reg.RMT_GATE_STATUS n]) ∧
  (∀ (s : State) (n : Fin 8), s.live .remote = true → s.bit (Reg.RMT_GATE_STATUS n) Fld.RMT_GATE_STATUS_ARMED = true →
     s.rd64 (Reg.RMT_GATE_SHIFT_TIME n) ≤ s.now .remote → s.gf (Reg.RMT_GATE_CTRL n) Fld.RMT_GATE_CTRL_SHADOW_LEN ≤ 256
     →
    Gives (.gateShift n) s fun t =>
      (∀ e, e < 256 → t.rd (Reg.RMT_GATE_ACTIVE n e) = s.rd (Reg.RMT_GATE_SHADOW n e) ∧ t.rd (Reg.RMT_GATE_SHADOW n e)
        = s.rd (Reg.RMT_GATE_ACTIVE n e)) ∧ t.gateLen n = s.gf (Reg.RMT_GATE_CTRL n) Fld.RMT_GATE_CTRL_SHADOW_LEN ∧
        t.gf (Reg.RMT_GATE_CTRL n) Fld.RMT_GATE_CTRL_SHADOW_LEN = s.gateLen n ∧ t.bit (Reg.RMT_GATE_STATUS n)
        Fld.RMT_GATE_STATUS_ARMED = false ∧ t.gf (Reg.RMT_GATE_STATUS n) Fld.RMT_GATE_STATUS_SHIFT_COUNT = (s.gf
        (Reg.RMT_GATE_STATUS n) Fld.RMT_GATE_STATUS_SHIFT_COUNT + 1) % 256 ∧ (t.gateList n = [] ∨ (t.gateEntry n
        (t.gateAt n)).2 ≠ 0) ∧ (t.sub n).entryAt = s.now .remote ∧ (t.sub n).tx = (s.sub n).tx ∧ (∀ m : Fin 8, m ≠ n →
        t.sub m = s.sub m) ∧ Keeps s t [.rmt] ∧ KeepsRegs s t ([Reg.RMT_GATE_STATUS n, Reg.RMT_GATE_CTRL n] ++ (upto
        256).map (Reg.RMT_GATE_ACTIVE n) ++ (upto 256).map (Reg.RMT_GATE_SHADOW n))) ∧
  (∀ (s : State) (n : Fin 8) (x : Tx), s.live .remote = true → HeadLong s n x →
    Gives (.gateRefusal n) s fun t =>
      (t.sub n).tx = (s.sub n).tx.flatMap (fun y => if y = x then (if x.reply = true ∧ s.oversize n (shortTx x) = false
        then [shortTx x] else []) else [y]) ∧ t.bit (Reg.RMT_SUBPORT_STATUS n) Fld.RMT_SUBPORT_STATUS_OVERSIZE_FOR_GATE
        = true ∧ (x.reply = true → t.rmt.acks = s.rmt.acks) ∧ t.rmt.reqs = s.rmt.reqs ∧ (∀ m : Fin 8, m ≠ n → t.sub m =
        s.sub m) ∧ Keeps s t [.rmt, .sched] ∧ KeepsRegs s t (Reg.RMT_SUBPORT_STATUS n :: portRegs)) ∧
  (∀ (s : State) (n : Fin 8) (v : Word), s.mgtReady = true → s.live .remote = true → s.bit (Reg.RMT_GATE_STATUS n)
     Fld.RMT_GATE_STATUS_ARMED = true → v.getLsbD 30 = true →
    Gives (.gateArm n v) s fun t =>
      t.bit (Reg.RMT_GATE_STATUS n) Fld.RMT_GATE_STATUS_ARMED = false ∧ t.bit (Reg.RMT_GATE_STATUS n)
        Fld.RMT_GATE_STATUS_ARMED_WRITE_REFUSED = true ∧ Answered s t false ∧ Keeps s t [.mgt] ∧ KeepsRegs s t
        [Reg.RMT_GATE_STATUS n]) ∧
  (∀ (s : State) (n : Fin 8) (v : Word), s.mgtReady = true → s.live .remote = true → s.bit (Reg.RMT_GATE_STATUS n)
     Fld.RMT_GATE_STATUS_ARMED = false →
    Gives (.gateDisarm n v) s fun t =>
      t.gf (Reg.RMT_GATE_CTRL n) Fld.RMT_GATE_CTRL_SHADOW_LEN = min 256 (v.toNat % 512) ∧ Answered s t false ∧ Keeps s
        t [.mgt] ∧ KeepsRegs s t [Reg.RMT_GATE_CTRL n])

/-- A shaper as a write in force leaves it: its words, and the credit of RESET_FULL or none, in 1/65,536 byte (R356). -/
  abbrev Sys2Proof.Machine.freshShaper (slope limit : Word) : Shaper :=
    { slope := slope, limit := limit, pending := false,
      credit := if limit.getLsbD 30 then ((limit.toNat / 2 ^ 15 % 2 ^ 15 * 64 * 65536 : Nat) : Int) else 0 }

/-- The same once the rule for a class without a waiting frame has been applied: its positive credit is 0 (R355). -/
  abbrev Sys2Proof.Machine.settledShaper (s : State) (n c : Fin 8) (slope limit : Word) : Shaper :=
    if ((s.sub n).tx.any fun y => y.cls = c.val) = false ∧ s.gateOpen n c = true then { freshShaper slope limit with credit := 0 }
    else freshShaper slope limit

/-- A write of a class's slope or limit takes effect at once when the sub-port is idle, and else at the next frame
boundary; the credit is then HI_CREDIT × 64 when RESET_FULL is 1 and 0 otherwise. Until then the slopes that were in
force go on charging: the write leaves the shaper as the time up to it has made it. Forms stated to complete (exec
answers next): shaperReconfigure, frameSent. -/
def Obligations.ShaperReconfiguration : Prop :=
  (∀ (s : State) (n c : Fin 8) (lim : Bool) (v : Word), s.mgtReady = true → s.live .remote = true → (s.sub n).idleAt
     (s.now .remote) = true →
    Gives (.shaperReconfigure n c lim v) s fun t =>
      t.rd (if lim then Reg.RMT_SHAPER_LIMIT n c else Reg.RMT_SHAPER_SLOPE n c) = v ∧ (t.sub n).shapers[c] = (if lim
        then settledShaper s n c (s.rd (Reg.RMT_SHAPER_SLOPE n c)) v else settledShaper s n c v (s.rd
        (Reg.RMT_SHAPER_LIMIT n c))) ∧ (t.sub n).tx = (s.sub n).tx ∧ (∀ m : Fin 8, m ≠ n → t.sub m = s.sub m) ∧
        Answered s t false ∧ Keeps s t [.mgt, .rmt] ∧ KeepsRegs s t [if lim then Reg.RMT_SHAPER_LIMIT n c else
        Reg.RMT_SHAPER_SLOPE n c]) ∧
  (∀ (s : State) (n c : Fin 8) (lim : Bool) (v : Word), s.mgtReady = true → s.live .remote = true → (s.sub n).idleAt
     (s.now .remote) = false →
    Gives (.shaperReconfigure n c lim v) s fun t =>
      t.rd (if lim then Reg.RMT_SHAPER_LIMIT n c else Reg.RMT_SHAPER_SLOPE n c) = v ∧ (t.sub n).shapers[c] =
        { (s.sub n).shapers[c].run (s.now .remote - (s.sub n).shapedAt) (if (s.sub n).charged = some c.val then min (s.now .remote) ((s.sub n).startAt + (s.sub n).busy) - max (s.sub n).shapedAt (s.sub n).startAt else 0) ((s.sub n).tx.any fun y => y.cls = c.val) (s.gateOpen n c) with
            pending := true } ∧ (t.sub n).shapers[c].slope = (s.sub n).shapers[c].slope ∧ (t.sub n).shapers[c].limit =
        (s.sub n).shapers[c].limit ∧ (t.sub n).sending = (s.sub n).sending ∧ (∀ m : Fin 8, m ≠ n → t.sub m = s.sub m) ∧
        Answered s t false ∧ Keeps s t [.mgt, .rmt] ∧ KeepsRegs s t [if lim then Reg.RMT_SHAPER_LIMIT n c else
        Reg.RMT_SHAPER_SLOPE n c]) ∧
  (∀ (s : State) (n c : Fin 8) (x : Tx), s.live .remote = true → s.rmtUp n = true → (s.sub n).sending = some x → (s.sub
     n).startAt + (x.frame.len + 127) / 128 ≤ s.now .remote → (s.sub n).startAt + (s.sub n).busy ≤ s.now .remote →
     (s.sub n).shapers[c].pending = true → s.rmt.fwd = [] →
    Gives (.frameSent n) s fun t =>
      (t.sub n).sending = none ∧ (t.sub n).shapers[c] = settledShaper s n c (s.rd (Reg.RMT_SHAPER_SLOPE n c)) (s.rd
        (Reg.RMT_SHAPER_LIMIT n c)) ∧ (∀ m : Fin 8, m ≠ n → t.sub m = s.sub m) ∧ Keeps s t [.rmt] ∧ KeepsRegs s t [])

/-! ### Partners, notices, links and histograms (13) -/

/-- The entry that RMT_PT_INDEX selects. -/
  abbrev Sys2Proof.Machine.State.ptIndex (s : State) : Nat := s.gf Reg.RMT_PT_INDEX Fld.RMT_PT_INDEX_ENTRY

/-- HOME, ALT and CLASS of an entry are those of a word of RMT_PT_DATA_3 (R339). -/
  abbrev Sys2Proof.Machine.Placed (s : State) (p : Nat) (v : Word) : Prop :=
    s.ptHome p = v.toNat / 2 ^ 16 % 8 ∧ s.ptAlt p = v.toNat / 2 ^ 20 % 8 ∧ s.ptClass p = v.toNat / 2 ^ 24 % 8

/-- A frame that the instance originates to a partner, as the transmit queue holds it (R351, R360). -/
  abbrev Sys2Proof.Machine.ownTx (s : State) (p : Nat) (ack : Bool) (coll : Option (Nat × Nat)) (f : Frame) : Tx :=
    { key := p, cls := s.ptClass p, at_ := s.now .remote, reply := false, coll := coll,
      frame := { f with dst := s.ptEndpoint p, cls := s.ptClass p, vc := 0, seq := s.ptTxSeq p, ackReq := ack } }

/-- The DONE frame of a COLLECTIVE, and the frame of an abort, before they take a partner's SEQ (R362). -/
  abbrev Sys2Proof.Machine.doneFrame (s : State) (c : Coll) : Frame :=
    { s.newFrame 0x10 0 0 0 with
      addr := c.addr, count := c.lines, deckle := c.deckle
      tag := ((s.sched.packets.find? fun q => q.key = c.pk).map fun q => leNat (sliceBytes q.bytes 4 4)).getD 0 }
  abbrev Sys2Proof.Machine.abortFrame (s : State) (a n tag : Nat) : Frame :=
    { s.newFrame 0x11 0 0 0 with addr := a, count := n, tag := tag, status := Status.thermalShutdown.code }

/-- A commit writes the entry with QUANTUM at least 64 and clears both sequence numbers for a new endpoint; with
frames queued it refuses to move the partner and sets PT_BUSY (R339, R340). A COLLECTIVE's DONE frame goes to its
next partner and awaits its ACK; a partner that is not VALID fails (R360, R362). A change of the step in force goes
to every partner that asks for it (R363). A received notice is acknowledged without a ring, written to the ring and
acknowledged when the write has completed, or held during a shutdown (R365, R366); a slowdown notice is in force
until SLOW_HOLD_US after its arrival have passed (R364). Forms stated to complete (exec answers next): partnerCommit,
partnerEntryRead, collectiveNotify, slowdownSend, noticeReceive, slowdownHoldExpiry. -/
def Obligations.PartnersAndNotices : Prop :=
  (∀ (s : State) (v : Word), s.mgtReady = true → s.live .remote = true → s.rmt.subs.toList.all (fun q => q.tx.all fun x
     => decide (x.key ≠ s.gf Reg.RMT_PT_INDEX Fld.RMT_PT_INDEX_ENTRY)) = true → s.rmt.pt.all (fun e => decide (e.1 =
     s.gf Reg.RMT_PT_INDEX Fld.RMT_PT_INDEX_ENTRY) || decide (s.ptEndpoint e.1 ≠ (s.rd (Reg.RMT_PT_DATA 0)).toNat)) =
     true → v.getLsbD 31 = true → s.ptEndpoint (s.gf Reg.RMT_PT_INDEX Fld.RMT_PT_INDEX_ENTRY) ≠ (s.rd (Reg.RMT_PT_DATA
     0)).toNat →
    Gives (.partnerCommit v) s fun t =>
      t.ptEndpoint (s.gf Reg.RMT_PT_INDEX Fld.RMT_PT_INDEX_ENTRY) = (s.rd (Reg.RMT_PT_DATA 0)).toNat ∧ t.ptValid (s.gf
        Reg.RMT_PT_INDEX Fld.RMT_PT_INDEX_ENTRY) = true ∧ t.ptQuantum (s.gf Reg.RMT_PT_INDEX Fld.RMT_PT_INDEX_ENTRY) =
        max 64 (v.toNat % 65536) ∧ t.ptHome (s.gf Reg.RMT_PT_INDEX Fld.RMT_PT_INDEX_ENTRY) = v.toNat / 2 ^ 16 % 8 ∧
        t.ptAlt (s.gf Reg.RMT_PT_INDEX Fld.RMT_PT_INDEX_ENTRY) = v.toNat / 2 ^ 20 % 8 ∧ t.ptClass (s.gf
        Reg.RMT_PT_INDEX Fld.RMT_PT_INDEX_ENTRY) = v.toNat / 2 ^ 24 % 8 ∧ t.ptTxSeq (s.gf Reg.RMT_PT_INDEX
        Fld.RMT_PT_INDEX_ENTRY) = 0 ∧ t.ptRxSeq (s.gf Reg.RMT_PT_INDEX Fld.RMT_PT_INDEX_ENTRY) = 0 ∧ (s.ptOnAlt (s.gf
        Reg.RMT_PT_INDEX Fld.RMT_PT_INDEX_ENTRY) = false → t.ptOnAlt (s.gf Reg.RMT_PT_INDEX Fld.RMT_PT_INDEX_ENTRY) =
        false) ∧ (∀ q, q ≠ s.gf Reg.RMT_PT_INDEX Fld.RMT_PT_INDEX_ENTRY → s.ptOnAlt q = false → t.ptEntry q = s.ptEntry
        q) ∧ t.rmt.acks = s.rmt.acks ∧ Answered s t false ∧ Keeps s t [.mgt, .rmt] ∧ KeepsRegs s t [Reg.RMT_PT_DATA 3])
        ∧
  (∀ (s : State) (v : Word), s.mgtReady = true → s.live .remote = true → s.rmt.subs.toList.any (fun q => q.tx.any fun x
     => decide (x.key = s.gf Reg.RMT_PT_INDEX Fld.RMT_PT_INDEX_ENTRY)) = true → ¬ Placed s s.ptIndex v →
    Gives (.partnerCommit v) s fun t =>
      t.rmt = s.rmt ∧ t.bit Reg.RMT_ERR_STATUS Fld.RMT_ERR_STATUS_PT_BUSY = true ∧ Answered s t false ∧ Keeps s t
        [.mgt] ∧ KeepsRegs s t [Reg.RMT_PT_DATA 3, Reg.RMT_ERR_STATUS]) ∧
  (∀ s : State, s.mgtReady = true → s.live .remote = true →
    Gives .partnerEntryRead s fun t =>
      t.rmt = { s.rmt with ptLatch := s.ptEntry (s.gf Reg.RMT_PT_INDEX Fld.RMT_PT_INDEX_ENTRY) } ∧ t.mgt = { s.mgt with
            doneCount := s.mgt.doneCount + 1, err := false,
            rdata := BitVec.ofNat 32 (s.ptEntry (s.gf Reg.RMT_PT_INDEX Fld.RMT_PT_INDEX_ENTRY)), waiting := none } ∧
        Keeps s t [.mgt, .rmt] ∧ KeepsRegs s t []) ∧
  (∀ (s : State) (c : Coll) (p : Nat) (rest : List Nat), s.live .remote = true → (s.sched.colls.find? fun y =>
     !y.toNotify.isEmpty) = some c → c.toNotify = p :: rest → s.ptValid p = true → s.txRoom (s.ptSub p) 64 = true →
     s.oversize (s.ptSub p) (ownTx s p true (some c.pk) (doneFrame s c)) = false →
    Gives .collectiveNotify s fun t =>
      (t.sub (s.ptSub p)).tx = (s.sub (s.ptSub p)).tx ++ [ownTx s p true (some c.pk) (doneFrame s c)] ∧ t.sched =
        { s.sched with
            colls := s.sched.colls.map fun y => if y.pk = c.pk then
              { y with toNotify := y.toNotify.drop 1, awaiting := y.awaiting ++ [p] } else y } ∧ t.ptTxSeq p =
        (s.ptTxSeq p + 1) % 2 ^ 24 ∧ (∀ q, q ≠ p → t.ptEntry q = s.ptEntry q) ∧ Keeps s t [.rmt, .sched] ∧ KeepsRegs s
        t []) ∧
  (∀ (s : State) (c : Coll) (p : Nat) (rest : List Nat), s.live .remote = true → (s.sched.colls.find? fun y =>
     !y.toNotify.isEmpty) = some c → c.toNotify = p :: rest → s.ptValid p = false →
    Gives .collectiveNotify s fun t =>
      t.sched = { s.sched with
            colls := s.sched.colls.map fun y => if y.pk = c.pk then
              { y with toNotify := y.toNotify.drop 1, failed := some (y.failed.getD p) } else y } ∧ Keeps s t [.sched]
        ∧ KeepsRegs s t []) ∧
  (∀ (s : State) (p : Nat), s.live .remote = true → s.gf Reg.THERM_STATUS Fld.THERM_STATUS_STEP ≠ s.rmt.slowStep →
     s.sched.colls = [] → s.rmt.pt.map (·.1) = [p] → s.ptValid p = true ∧ (s.ptEntry p).testBit 123 = true → s.txRoom
     (s.ptSub p) 64 = true → s.gateList (s.ptSub p) = [] →
    Gives .slowdownSend s fun t =>
      (t.sub (s.ptSub p)).tx = (s.sub (s.ptSub p)).tx ++ [{
            key := p, cls := s.ptClass p, at_ := s.now .remote, reply := false, coll := none,
            frame :=
              { s.newFrame 0x12 (s.ptEndpoint p) (s.ptClass p) 0 with detail := s.slowDetail (s.gf Reg.THERM_STATUS Fld.THERM_STATUS_STEP), seq := s.ptTxSeq p } }]
        ∧ t.rmt.slowStep = s.gf Reg.THERM_STATUS Fld.THERM_STATUS_STEP ∧ t.rmt.slowAt = s.now .remote ∧ t.ptTxSeq p =
        (s.ptTxSeq p + 1) % 2 ^ 24 ∧ Keeps s t [.rmt] ∧ KeepsRegs s t []) ∧
  (∀ s : State, s.live .remote = true → s.gf Reg.THERM_STATUS Fld.THERM_STATUS_STEP = s.rmt.slowStep → s.rmt.slowStep =
     0 ∨ s.now .remote < s.rmt.slowAt + s.gf Reg.RMT_SLOW_CFG Fld.RMT_SLOW_CFG_SLOW_REPEAT_US * 1000 →
    Gives .slowdownSend s fun t =>
      t = s) ∧
  (∀ (s : State) (x : RxFrame) (rest : List RxFrame), s.live .remote = true → s.rmt.noticeAcks = [] ∧ s.rmt.noticeHeld
     = [] → s.rmt.notices = x :: rest → x.frame.opcode = 0x10 ∧ x.frame.ackReq = true ∧ x.sub = none → s.ringOn
     Reg.RMT_NOTICE_RING = false →
    Gives .noticeReceive s fun t =>
      t.rmt.notices = rest ∧ (t.sub (s.ptSub x.partner)).ctl = (s.sub (s.ptSub x.partner)).ctl ++
        [{ s.newFrame 0x13 (s.ptEndpoint x.partner) (s.ptClass x.partner) 1 with seq := x.frame.seq }] ∧
        t.rmt.noticeHeld = [] ∧ t.rmt.noticeAcks = [] ∧ t.rmt.pt = s.rmt.pt ∧ Keeps s t [.rmt] ∧ KeepsRegs s t []) ∧
  (∀ (s : State) (x : RxFrame) (rest : List RxFrame), s.live .remote = true → s.rmt.noticeAcks = [] ∧ s.rmt.noticeHeld
     = [] → s.rmt.notices = x :: rest → x.frame.opcode = 0x10 ∧ x.frame.ackReq = true ∧ x.sub = none → s.ringOn
     Reg.RMT_NOTICE_RING = true → s.shutdown = false → s.bit Reg.CNT_TAG_CFG Fld.CNT_TAG_CFG_ENABLE = false ∧
     s.tags.live = [] → s.route (s.ringBase Reg.RMT_NOTICE_RING + 32 * ((s.rd Reg.RMT_NOTICE_SEQ).toNat % s.ringSlots
     Reg.RMT_NOTICE_RING)) ≠ .hole →
    Gives .noticeReceive s fun t =>
      t.rmt = { s.rmt with notices := rest, noticeAcks := [(s.freshId, (x.partner, x.frame.seq))] } ∧ t.rd
        Reg.RMT_NOTICE_SEQ = s.rd Reg.RMT_NOTICE_SEQ + 1 ∧ t.paths.nextId = s.freshId + 1 ∧ Keeps s t (.rmt ::
        pathRegions) ∧ KeepsRegs s t (Reg.RMT_NOTICE_SEQ :: pathRegs)) ∧
  (∀ (s : State) (x : RxFrame) (rest : List RxFrame), s.live .remote = true → s.rmt.noticeAcks = [] →
     s.rmt.noticeHeld.length < 256 → s.rmt.notices = x :: rest → x.frame.opcode = 0x10 ∧ x.frame.ackReq = true ∧ x.sub
     = none → s.ringOn Reg.RMT_NOTICE_RING = true → s.shutdown = true →
    Gives .noticeReceive s fun t =>
      t.rmt.notices = rest ∧ t.rmt.noticeHeld = s.rmt.noticeHeld ++ [x.record] ∧ t.rmt.noticeAcks = [] ∧ (t.sub
        (s.ptSub x.partner)).ctl = (s.sub (s.ptSub x.partner)).ctl ++
        [{ s.newFrame 0x13 (s.ptEndpoint x.partner) (s.ptClass x.partner) 1 with seq := x.frame.seq }] ∧ t.rmt.pt =
        s.rmt.pt ∧ Keeps s t [.rmt] ∧ KeepsRegs s t []) ∧
  (∀ (s : State) (e p q : Nat), s.live .remote = true → s.rmt.noticeAcks = [(e, (p, q))] → p < 8192 → s.inFlight e =
     false → s.rmt.notices = [] ∧ s.rmt.noticeHeld = [] →
    Gives .noticeReceive s fun t =>
      t.rmt.noticeAcks = [] ∧ (t.sub (s.ptSub p)).ctl = (s.sub (s.ptSub p)).ctl ++
        [{ s.newFrame 0x13 (s.ptEndpoint p) (s.ptClass p) 1 with seq := q }] ∧ t.paths =
        { s.paths with done := s.paths.done.filter fun c => c.req.id ≠ e } ∧ t.rmt.pt = s.rmt.pt ∧ Keeps s t [.rmt,
        .paths] ∧ KeepsRegs s t []) ∧
  (∀ (s : State) (x : RxFrame) (a : AckWait) (t0 : Nat), s.live .remote = true → s.rmt.noticeAcks = [] ∧
     s.rmt.noticeHeld = [] ∧ s.rmt.slowed = [] → s.rmt.notices = [x] → x.frame.opcode = 0x12 ∧ x.frame.ackReq = false ∧
     x.sub = none → 1 ≤ x.frame.detail % 16 ∧ x.frame.detail % 16 ≤ 8 → s.rmt.acks = [a] → a.partner = x.partner ∧
     a.from_ = some t0 ∧ x.at_ < t0 + a.left → s.ringOn Reg.RMT_NOTICE_RING = false →
    Gives .noticeReceive s fun t =>
      t.rmt.notices = [] ∧ t.rmt.slowed = [(x.partner, x.at_)] ∧ (t.ptEntry x.partner) / 2 ^ 40 % 16 = x.frame.detail %
        16 ∧ t.rmt.acks = [{ a with left := a.left - (x.at_ - t0), from_ := none }] ∧ t.rmt.subs = s.rmt.subs ∧
        t.ptTxSeq x.partner = s.ptTxSeq x.partner ∧ (∀ q, q ≠ x.partner → t.ptEntry q = s.ptEntry q) ∧ Keeps s t [.rmt]
        ∧ KeepsRegs s t []) ∧
  (∀ (s : State) (p t0 : Nat), s.live .remote = true → (s.rmt.slowed.find? fun e => decide (e.2 + s.gf Reg.RMT_SLOW_CFG
     Fld.RMT_SLOW_CFG_SLOW_HOLD_US * 1000 ≤ s.now .remote)) = some (p, t0) →
    Gives .slowdownHoldExpiry s fun t =>
      t.rmt = { s.rmt with
            slowed := s.rmt.slowed.filter (fun e => e.1 ≠ p),
            acks := s.rmt.acks.map fun a => if a.partner = p ∧ a.from_.isNone ∧ 0 < a.left then
              { a with from_ := some (s.now .remote) } else a } ∧ Keeps s t [.rmt] ∧ KeepsRegs s t []) ∧
  (∀ (s : State) (v : Word), s.mgtReady = true → s.live .remote = true → (s.rmt.subs.toList.all (fun q => q.tx.all fun
     x => decide (x.key ≠ s.ptIndex)) = true) ∨ Placed s s.ptIndex v →
    Gives (.partnerCommit v) s fun t =>
      t.ptEndpoint s.ptIndex = (s.rd (Reg.RMT_PT_DATA 0)).toNat ∧ t.ptValid s.ptIndex = v.getLsbD 31 ∧ t.ptQuantum
        s.ptIndex = max 64 (v.toNat % 65536) ∧ Placed t s.ptIndex v ∧ ((v.getLsbD 31 = true ∧ s.ptValid s.ptIndex =
        false) ∨ s.ptEndpoint s.ptIndex ≠ (s.rd (Reg.RMT_PT_DATA 0)).toNat → t.ptTxSeq s.ptIndex = 0 ∧ t.ptRxSeq
        s.ptIndex = 0) ∧ ((v.getLsbD 31 = false ∨ s.ptValid s.ptIndex = true) → s.ptEndpoint s.ptIndex = (s.rd
        (Reg.RMT_PT_DATA 0)).toNat → t.ptTxSeq s.ptIndex = s.ptTxSeq s.ptIndex ∧ t.ptRxSeq s.ptIndex = s.ptRxSeq
        s.ptIndex) ∧ (v.getLsbD 31 = false → s.ptValid s.ptIndex = true → ∀ m : Fin 8, ∀ x ∈ (t.sub m).tx, x.key ≠
        s.ptIndex) ∧ (∀ q, q ≠ s.ptIndex → s.ptOnAlt q = false → t.ptEntry q = s.ptEntry q) ∧ Answered s t false ∧
        Keeps s t [.mgt, .rmt, .sched] ∧ KeepsRegs s t [Reg.RMT_PT_DATA 3, Reg.RMT_ERR_STATUS]) ∧
  (∀ (s : State) (p a n tag : Nat) (rest : List (Nat × Nat × Nat × Nat)), s.live .remote = true → (s.sched.colls.find?
     fun y => !y.toNotify.isEmpty) = none → s.sched.aborts = (p, a, n, tag) :: rest → s.ptValid p = true → s.txRoom
     (s.ptSub p) 64 = true → s.oversize (s.ptSub p) (ownTx s p true none (abortFrame s a n tag)) = false →
    Gives .collectiveNotify s fun t =>
      (t.sub (s.ptSub p)).tx = (s.sub (s.ptSub p)).tx ++ [ownTx s p true none (abortFrame s a n tag)] ∧ t.sched =
        { s.sched with aborts := rest } ∧ t.ptTxSeq p = (s.ptTxSeq p + 1) % 2 ^ 24 ∧ Keeps s t [.rmt, .sched] ∧
        KeepsRegs s t []) ∧
  (∀ s : State, s.live .remote = true → s.gf Reg.THERM_STATUS Fld.THERM_STATUS_STEP ≠ s.rmt.slowStep ∨ (0 <
     s.rmt.slowStep ∧ s.rmt.slowAt + s.gf Reg.RMT_SLOW_CFG Fld.RMT_SLOW_CFG_SLOW_REPEAT_US * 1000 ≤ s.now .remote) →
    Gives .slowdownSend s fun t =>
      t.rmt.slowStep = s.gf Reg.THERM_STATUS Fld.THERM_STATUS_STEP ∧ t.rmt.slowAt = s.now .remote ∧ (∀ m : Fin 8,
        (t.sub m).tx.take (s.sub m).tx.length = (s.sub m).tx) ∧ (∀ m : Fin 8, ∀ x ∈ (t.sub m).tx.drop (s.sub
        m).tx.length, x.frame.opcode = 0x12 ∧ x.frame.detail = s.slowDetail (s.gf Reg.THERM_STATUS
        Fld.THERM_STATUS_STEP)) ∧ t.rmt.reqs = s.rmt.reqs ∧ Keeps s t [.rmt] ∧ KeepsRegs s t rmtRegs) ∧
  (∀ (s : State) (x : RxFrame) (rest : List RxFrame), s.live .remote = true → s.rmt.notices = x :: rest →
    Gives .noticeReceive s fun t =>
      t.rmt.notices = rest ∧ (s.shutdown = false → t.rmt.noticeHeld = []) ∧ (x.frame.opcode = 0x12 → t.ptEntry
        x.partner / 2 ^ 40 % 16 = x.frame.detail % 16) ∧ (∀ q, q ≠ x.partner → t.ptEntry q = s.ptEntry q) ∧ (∀ m : Fin
        8, (t.sub m).tx = (s.sub m).tx) ∧ t.rmt.reqs = s.rmt.reqs ∧ Keeps s t (.rmt :: pathRegions) ∧ KeepsRegs s t
        (Reg.RMT_NOTICE_SEQ :: pathRegs))

/-- When a link falls its frame on the wire goes back to the head, its credits are lost and a partner homed there
with a usable ALT moves its queue (R68, R346, R367); when it rises the full pools are granted with a CREDIT frame,
and a partner whose ALT queue is empty returns (R346, R367). A sample adds one to a bucket of every histogram, a
clear zeroes those of one and a read latches its buckets (R368). Forms stated to complete (exec answers next):
rmtLinkDown, rmtLinkUp, histogramSample, histogramClear, histogramBucketRead. -/
def Obligations.LinksAndHistograms : Prop :=
  (∀ (s : State) (n : Fin 8) (x : Tx), s.live .remote = true → s.rmtUp n = true → (s.sub n).sending = some x → x.key ≠
     8193 → s.rmt.pt = [] →
    Gives (.rmtLinkDown n) s fun t =>
      t.rmtUp n = false ∧ (t.sub n).tx = { x with frame := { x.frame with credit := [] } } :: (s.sub n).tx ∧ (t.sub
        n).sending = none ∧ (t.sub n).credit = Vector.replicate 4 0 ∧ (t.sub n).owed = Vector.replicate 4 0 ∧ (t.sub
        n).ctl = (s.sub n).ctl ∧ t.rmt.reqs.map (·.rx.frame) = s.rmt.reqs.map (·.rx.frame) ∧ (∀ r ∈ t.rmt.reqs,
        r.rx.sub ≠ some n) ∧ (∀ m : Fin 8, m ≠ n → t.sub m = s.sub m) ∧ Keeps s t [.rmt] ∧ KeepsRegs s t
        (Reg.RMT_SUBPORT_STATUS n :: fecRegs)) ∧
  (∀ (s : State) (n : Fin 8) (p : Nat), s.live .remote = true → s.rmtUp n = true → (s.sub n).sending = none →
     s.rmt.pt.map (·.1) = [p] → s.ptValid p = true ∧ s.ptHome p = n ∧ s.ptAltValid p = true ∧ s.ptOnAlt p = false →
     s.ptAlt p ≠ n ∧ s.rmtUp (s.ptAlt p) = true →
    Gives (.rmtLinkDown n) s fun t =>
      t.rmtUp n = false ∧ t.ptOnAlt p = true ∧ t.ptTxSeq p = s.ptTxSeq p ∧ t.ptEndpoint p = s.ptEndpoint p ∧ (t.sub
        n).tx = (s.sub n).tx.filter (fun x => x.key ≠ p) ∧ (t.sub (subFin (s.ptAlt p))).tx = (s.sub (subFin (s.ptAlt
        p))).tx ++ (s.sub n).tx.filter (fun x => x.key = p) ∧ Keeps s t [.rmt] ∧ KeepsRegs s t (Reg.RMT_SUBPORT_STATUS
        n :: fecRegs)) ∧
  (∀ (s : State) (n : Fin 8) (p : Nat), s.live .remote = true → s.rmtUp n = false → s.rmt.pt.map (·.1) = [p] → s.ptHome
     p = n ∧ s.ptOnAlt p = true → (s.sub (subFin (s.ptAlt p))).tx.all (fun x => decide (x.key ≠ p)) = true → (s.sub
     (subFin (s.ptAlt p))).sending = none →
    Gives (.rmtLinkUp n) s fun t =>
      t.rmtUp n = true ∧ (t.sub n).owed = #v[1024, 512, 256, 256] ∧ (t.sub n).owedAt = some (s.now .remote) ∧ (t.sub
        n).ctl = (s.sub n).ctl ++ [s.newFrame 0x14 0 0 0] ∧ (t.sub n).tx = (s.sub n).tx ∧ t.ptOnAlt p = false ∧
        t.ptTxSeq p = s.ptTxSeq p ∧ (∀ m : Fin 8, m ≠ n → t.sub m = s.sub m) ∧ Keeps s t [.rmt] ∧ KeepsRegs s t
        [Reg.RMT_SUBPORT_STATUS n]) ∧
  (∀ (s : State) (p : Nat), s.live .remote = true → s.rmt.histNext ≤ s.now .remote → p < 8192 →
    Gives .histogramSample s fun t =>
      cget (fun _ => 0) t.rmt.hist (p * 16 + bucketOf (s.depthOf (s.ptSub p) ((s.sub (s.ptSub p)).tx.filter fun x =>
        x.key = p))) = min (2 ^ 32 - 1) (cget (fun _ => 0) s.rmt.hist (p * 16 + bucketOf (s.depthOf (s.ptSub p) ((s.sub
        (s.ptSub p)).tx.filter fun x => x.key = p))) + 1) ∧ t.rmt.histNext = (s.now .remote / 4096 + 1) * 4096 ∧
        t.rmt.subs = s.rmt.subs ∧ t.rmt.pt = s.rmt.pt ∧ Keeps s t [.rmt] ∧ KeepsRegs s t []) ∧
  (∀ (s : State) (v : Word), s.mgtReady = true → s.live .remote = true →
    Gives (.histogramClear v) s fun t =>
      t.histSel = v.toNat / 2 ^ 30 % 2 * 16384 + v.toNat / 2 ^ 29 % 2 * 8192 + v.toNat % 8192 ∧ (∀ e, cget (fun _ => 0)
        t.rmt.hist e = if e / 16 = t.histSel then 0 else cget (fun _ => 0) s.rmt.hist e) ∧ t.rmt.subs = s.rmt.subs ∧
        t.rmt.pt = s.rmt.pt ∧ Answered s t false ∧ Keeps s t [.mgt, .rmt] ∧ KeepsRegs s t [Reg.RMT_HIST_SEL]) ∧
  (∀ s : State, s.mgtReady = true → s.live .remote = true →
    Gives .histogramBucketRead s fun t =>
      t.rmt = { s.rmt with histLatch := (upto 16).map fun i => cget (fun _ => 0) s.rmt.hist (s.histSel * 16 + i) } ∧
        t.mgt = { s.mgt with
            doneCount := s.mgt.doneCount + 1, err := false,
            rdata := BitVec.ofNat 32 (cget (fun _ => 0) s.rmt.hist (s.histSel * 16)), waiting := none } ∧ Keeps s t
        [.mgt, .rmt] ∧ KeepsRegs s t []) ∧
  (∀ (s : State) (n : Fin 8), s.live .remote = true → s.rmtUp n = true →
    Gives (.rmtLinkDown n) s fun t =>
      t.rmtUp n = false ∧ (t.sub n).sending = none ∧ (t.sub n).credit = Vector.replicate 4 0 ∧ (t.sub n).owed =
        Vector.replicate 4 0 ∧ (t.sub n).owedAt = none ∧ (t.sub n).creditIn = [] ∧ t.rmt.reqs.map (·.rx.frame) =
        s.rmt.reqs.map (·.rx.frame) ∧ (∀ r ∈ t.rmt.reqs, r.rx.sub ≠ some n) ∧ (∀ q, t.ptTxSeq q = s.ptTxSeq q ∧
        t.ptEndpoint q = s.ptEndpoint q) ∧ Keeps s t [.rmt] ∧ KeepsRegs s t (Reg.RMT_SUBPORT_STATUS n :: fecRegs)) ∧
  (∀ (s : State) (n : Fin 8), s.live .remote = true → s.rmtUp n = false →
    Gives (.rmtLinkUp n) s fun t =>
      t.rmtUp n = true ∧ (t.sub n).owed = #v[1024, 512, 256, 256] ∧ (t.sub n).owedAt = some (s.now .remote) ∧ (t.sub
        n).ctl = (s.sub n).ctl ++ [s.newFrame 0x14 0 0 0] ∧ (t.sub n).tx = (s.sub n).tx ∧ (∀ q, s.ptOnAlt q = false →
        t.ptEntry q = s.ptEntry q) ∧ (∀ m : Fin 8, m ≠ n → t.sub m = s.sub m) ∧ Keeps s t [.rmt] ∧ KeepsRegs s t
        [Reg.RMT_SUBPORT_STATUS n])

/-! ### The chain (14) -/

/-- A chain word that is received whole: its parity bit, its stop bit and its KIND are right (R70, R369). -/
  abbrev Sys2Proof.Machine.Sound (v : Word) (parity stop : Bool) : Prop :=
    parity = evenParity v ∧ stop = true ∧ cwKind v ∈ kindDown ++ kindUp

/-- The chain once words have been handed to its downstream link: while CHAIN_E_RDY is high they start, as far as the receiver
  has room, and the rest wait (R71). -/
  def Sys2Proof.Machine.Chain.sends (c : Chain) (rdy : Bool) (ws : List Word) : Chain :=
    if rdy then
      match c.room with
      | none => { c with outE := c.outE ++ (c.waitE ++ ws), waitE := [] }
      | some k => { c with outE := c.outE ++ (c.waitE ++ ws).take k, waitE := (c.waitE ++ ws).drop k,
                           room := some (k - (c.waitE ++ ws).length) }
    else { c with waitE := c.waitE ++ ws }

/-- CHAIN_E_RDY afterwards: the receiver lowers it with the last word that it has room for (R71). -/
  def Sys2Proof.Machine.Chain.stillRdy (c : Chain) (rdy : Bool) (ws : List Word) : Bool :=
    rdy && c.room.all fun k => decide ((c.waitE ++ ws).length < k)

/-- Words have been handed to the downstream link of a state's chain, which was `c` but for them (R71). -/
  abbrev Sys2Proof.Machine.SentDown (s t : State) (c : Chain) (ws : List Word) : Prop :=
    t.chain = c.sends s.pins.chainERdy ws ∧
      t.pins = { s.pins with chainERdy := c.stillRdy s.pins.chainERdy ws }

/-- The oldest word of a kind that has been taken from a direction, and what stays without it (R370). -/
  abbrev Sys2Proof.Machine.Oldest (s : State) (down : Bool) (k : Nat) (v : Word) : Prop :=
    (s.chain.taken.find? fun x => decide (x.1 = down) && decide (cwKind x.2 = k)) = some (down, v)
  abbrev Sys2Proof.Machine.State.others (s : State) (down : Bool) (k : Nat) : List (Bool × Word) :=
    dropFirst (fun x => decide (x.1 = down) && decide (cwKind x.2 = k)) s.chain.taken

/-- An instance takes part in enumeration (R394). -/
  abbrev Sys2Proof.Machine.TakesPart (s : State) : Prop := s.pwr.seqDone = true ∧ s.pwr.seqStopped = false

/-- The numbers that an ENUM word gives the next instance (R371). -/
  abbrev Sys2Proof.Machine.enumSelf (v : Word) : Nat := cwArg v % 16 + 1
  abbrev Sys2Proof.Machine.enumDie (s : State) (v : Word) : Nat :=
    cwArg v / 16 % 8 + (if s.straps.wMode = 2 then 0 else 1)

/-- A word with bad parity or a low stop bit is discarded and counted (R70). A word for this instance is taken; one
for another goes on, a broadcast does both, each waiting for CHAIN_E_RDY (R71, R370). The head numbers itself, an
instance takes the numbers after its ENUM, a running one answers one with another number with ENUM_FAULT (R371,
R373). The last instance answers with LAST after 1 ms, and the head then broadcasts SIZE and TIME_ZERO, which load
COUNT and the package time (R371, R378); a running head does so again for instances that have come back (R373). Forms
stated to complete (exec answers next): chainWordReceive, enumerationStart, enum, enumLastTimeout, enumHeadTimeout,
last, size, timeZero, rejoin, chainERdyRise. -/
def Obligations.ChainAndEnumeration : Prop :=
  (∀ (s : State) (down parity stop : Bool) (v : Word), s.live .sensor = true → ¬ (down = true ∧ s.straps.chainHead =
     true) → parity ≠ evenParity v ∨ stop = false →
    Gives (.chainWordReceive down v parity stop) s fun t =>
      t.gf Reg.D2D_RING_STATUS Fld.D2D_RING_STATUS_BAD_WORDS = min 255 (s.gf Reg.D2D_RING_STATUS
        Fld.D2D_RING_STATUS_BAD_WORDS + 1) ∧ Keeps s t [] ∧ KeepsRegs s t [Reg.D2D_RING_STATUS]) ∧
  (∀ (s : State) (parity stop : Bool) (v : Word), s.live .sensor = true → s.straps.chainHead = true →
    Gives (.chainWordReceive true v parity stop) s fun t =>
      t = s) ∧
  (∀ (s : State) (parity stop : Bool) (v : Word), s.live .sensor = true ∧ s.straps.chainHead = false → Sound v parity
     stop → cwKind v ∈ [3, 4, 6, 8, 9] ∧ cwBcast v = false ∧ cwInst v = s.self →
    Gives (.chainWordReceive true v parity stop) s fun t =>
      t.chain = { s.chain with taken := s.chain.taken ++ [(true, v)] } ∧ Keeps s t [.chain] ∧ KeepsRegs s t []) ∧
  (∀ (s : State) (parity stop : Bool) (v : Word), s.live .sensor = true ∧ s.straps.chainHead = false → Sound v parity
     stop → cwKind v ∈ [3, 4, 6, 8, 9] ∧ cwBcast v = true →
    Gives (.chainWordReceive true v parity stop) s fun t =>
      SentDown s { t with chain := { t.chain with taken := s.chain.taken } } s.chain [v] ∧ t.chain.taken =
        s.chain.taken ++ [(true, v)] ∧ Keeps s t [.chain, .pins] ∧ KeepsRegs s t []) ∧
  (∀ (s : State) (parity stop : Bool) (v : Word), s.live .sensor = true ∧ s.straps.chainHead = false → Sound v parity
     stop → cwKind v ∈ [3, 4, 6, 8, 9] ∧ cwBcast v = false ∧ cwInst v ≠ s.self →
    Gives (.chainWordReceive true v parity stop) s fun t =>
      SentDown s t s.chain [v] ∧ Keeps s t [.chain, .pins] ∧ KeepsRegs s t []) ∧
  (∀ (s : State) (parity stop : Bool) (v : Word), s.live .sensor = true → Sound v parity stop → cwKind v = 2 →
    Gives (.chainWordReceive false v parity stop) s fun t =>
      t.chain = (if s.straps.chainHead then { s.chain with taken := s.chain.taken ++ [(false, v)] } else
        { s.chain with outW := s.chain.outW ++ [v] }) ∧ Keeps s t [.chain] ∧ KeepsRegs s t []) ∧
  (∀ (s : State) (parity stop : Bool) (v : Word), s.live .sensor = true → Sound v parity stop →
    Gives (.chainWordReceive false v parity stop) s fun t =>
      t.chain = { s.chain with
            outW := (if s.straps.chainHead = true ∨ cwKind v = 5 then s.chain.outW else s.chain.outW ++ [v]),
            taken := (if cwKind v ∈ [5, 8, 9] ∨ cwKind v ∈ [2, 7] ∧ s.straps.chainHead = true ∨ cwKind v = 7 ∧
              s.isCaptain = true then s.chain.taken ++ [(false, v)] else s.chain.taken) } ∧ Keeps s t [.chain] ∧
        KeepsRegs s t []) ∧
  (∀ s : State, s.live .sensor = true ∧ s.straps.chainHead = true → TakesPart s → s.enumerated = false → s.pwr.warm =
     true ∨ s.pwr.seqDoneAt + 1000000 ≤ s.clk.pkg →
    Gives .enumerationStart s fun t =>
      t.self = 0 ∧ t.die = 0 ∧ t.enumerated = true ∧ (s.pins.chainERdy = true → SentDown s t
        { s.chain with headSince := some s.clk.pkg, sizeSent := false, enumSince := none } [chainWord 1 false 1 0]) ∧
        (s.pins.chainERdy = false → t.pins = s.pins ∧ t.chain =
        { s.chain with headSince := none, sizeSent := false, enumSince := some s.clk.pkg }) ∧ Keeps s t [.chain, .pins]
        ∧ KeepsRegs s t [Reg.ID_CONFIG]) ∧
  (∀ s : State, s.enumerated = true ∨ s.straps.chainHead = false →
    Gives .enumerationStart s fun t =>
      t = s) ∧
  (∀ (s : State) (v : Word), s.live .sensor = true ∧ s.straps.chainHead = false → TakesPart s → s.enumerated = false →
     Oldest s true 1 v → enumSelf v ≤ 15 ∧ enumDie s v ≤ 7 →
    Gives .enum s fun t =>
      t.self = enumSelf v ∧ t.die = enumDie s v ∧ t.enumerated = true ∧ (s.pins.chainERdy = true → SentDown s t
        { s.chain with taken := s.others true 1, enumSince := none } [enumWord (enumSelf v) (enumDie s v)]) ∧
        (s.pins.chainERdy = false → t.pins = s.pins ∧ t.chain =
        { s.chain with taken := s.others true 1, enumSince := some s.clk.pkg }) ∧ Keeps s t [.chain, .pins] ∧ KeepsRegs
        s t [Reg.ID_CONFIG]) ∧
  (∀ (s : State) (v : Word), s.live .sensor = true ∧ s.straps.chainHead = false → TakesPart s → Oldest s true 1 v →
     (s.enumerated = true ∧ enumSelf v ≠ s.self) ∨ (s.enumerated = false ∧ (15 < enumSelf v ∨ 7 < enumDie s v)) →
    Gives .enum s fun t =>
      t.bit Reg.D2D_RING_STATUS Fld.D2D_RING_STATUS_ENUM_FAULT = true ∧ t.self = s.self ∧ t.enumerated = s.enumerated ∧
        t.chain = { s.chain with taken := s.others true 1 } ∧ Keeps s t [.chain] ∧ KeepsRegs s t [Reg.D2D_RING_STATUS])
        ∧
  (∀ (s : State) (t0 : Nat), s.live .sensor = true ∧ s.straps.chainHead = false → s.chain.enumSince = some t0 → t0 +
     1000000 ≤ s.clk.pkg →
    Gives .enumLastTimeout s fun t =>
      t.bit Reg.D2D_RING_STATUS Fld.D2D_RING_STATUS_LAST = true ∧ t.chain =
        { s.chain with enumSince := none, outW := s.chain.outW ++ [chainWord 2 false s.self (s.self + 1)] } ∧ Keeps s t
        [.chain] ∧ KeepsRegs s t [Reg.D2D_RING_STATUS]) ∧
  (∀ (s : State) (t0 : Nat), s.live .sensor = true ∧ s.straps.chainHead = true → s.chain.enumSince = some t0 → t0 +
     1000000 ≤ s.clk.pkg → s.bit Reg.D2D_RING_STATUS Fld.D2D_RING_STATUS_ENUM_FAULT = false →
    Gives .enumLastTimeout s fun t =>
      t.bit Reg.D2D_RING_STATUS Fld.D2D_RING_STATUS_LAST = true ∧ t.gf Reg.D2D_RING_STATUS Fld.D2D_RING_STATUS_COUNT =
        1 ∧ SentDown s t { s.chain with enumSince := none, headSince := none, sizeSent := true } [chainWord 3 true 0 1,
        chainWord 4 true 0 0] ∧ t.clk.pkg = (if s.bit Reg.D2D_TIME_STATUS Fld.D2D_TIME_STATUS_LOCKED then s.clk.pkg
        else s.self * 1440) ∧ t.clk.locals = s.clk.locals ∧ Keeps s t [.chain, .clk, .pins] ∧ KeepsRegs s t
        [Reg.D2D_RING_STATUS]) ∧
  (∀ (s : State) (t0 : Nat), s.chain.enumSince = some t0 → s.clk.pkg < t0 + 1000000 →
    Gives .enumLastTimeout s fun t =>
      t = s) ∧
  (∀ (s : State) (t0 : Nat), s.live .sensor = true → s.chain.headSince = some t0 → t0 + 10000000 ≤ s.clk.pkg →
    Gives .enumHeadTimeout s fun t =>
      t.bit Reg.D2D_RING_STATUS Fld.D2D_RING_STATUS_ENUM_FAULT = true ∧ t.chain = { s.chain with headSince := none } ∧
        Keeps s t [.chain] ∧ KeepsRegs s t [Reg.D2D_RING_STATUS]) ∧
  (∀ (s : State) (t0 : Nat), s.chain.headSince = some t0 → s.clk.pkg < t0 + 10000000 →
    Gives .enumHeadTimeout s fun t =>
      t = s) ∧
  (∀ (s : State) (v : Word), s.live .sensor = true → Oldest s false 2 v → s.straps.chainHead = true ∧ s.enumerated =
     true → s.bit Reg.D2D_RING_STATUS Fld.D2D_RING_STATUS_ENUM_FAULT = false →
    Gives .last s fun t =>
      t.gf Reg.D2D_RING_STATUS Fld.D2D_RING_STATUS_COUNT = cwArg v % 32 ∧ SentDown s t
        { s.chain with taken := s.others false 2, headSince := none, sizeSent := true } [chainWord 3 true 0 (cwArg v %
        32), chainWord 4 true 0 0] ∧ t.clk.pkg = (if s.bit Reg.D2D_TIME_STATUS Fld.D2D_TIME_STATUS_LOCKED then
        s.clk.pkg else s.self * 1440) ∧ t.clk.locals = s.clk.locals ∧ Keeps s t [.chain, .clk, .pins] ∧ KeepsRegs s t
        [Reg.D2D_RING_STATUS]) ∧
  (∀ (s : State) (v : Word), s.live .sensor = true → Oldest s false 2 v → s.straps.chainHead = true ∧ s.enumerated =
     true → s.bit Reg.D2D_RING_STATUS Fld.D2D_RING_STATUS_ENUM_FAULT = true →
    Gives .last s fun t =>
      t.chain = { s.chain with taken := s.others false 2, headSince := none } ∧ Keeps s t [.chain] ∧ KeepsRegs s t [])
        ∧
  (∀ (s : State) (v : Word), s.live .sensor = true → Oldest s true 3 v →
    Gives .size s fun t =>
      t.gf Reg.D2D_RING_STATUS Fld.D2D_RING_STATUS_COUNT = cwArg v % 32 ∧ t.chain =
        { s.chain with taken := s.others true 3 } ∧ Keeps s t [.chain] ∧ KeepsRegs s t [Reg.D2D_RING_STATUS]) ∧
  (∀ (s : State) (v : Word), s.live .sensor = true → Oldest s true 4 v →
    Gives .timeZero s fun t =>
      t.clk = (if s.bit Reg.D2D_TIME_STATUS Fld.D2D_TIME_STATUS_LOCKED then s.clk else { s.clk with
            pkg := s.self * 1440, elapsed := s.clk.elapsed + (s.clk.pkg - s.clk.releasedAt),
            releasedAt := s.self * 1440 }) ∧ t.chain = { s.chain with taken := s.others true 4 } ∧ Keeps s t [.chain,
        .clk] ∧ KeepsRegs s t []) ∧
  (∀ (s : State) (v : Word), s.live .sensor = true → Oldest s false 5 v → s.enumerated = true →
    Gives .rejoin s fun t =>
      SentDown s t { s.chain with taken := s.others false 5 } [chainWord 1 false (s.self + 1) (s.self % 16 + s.die % 8
        * 16)] ∧ Keeps s t [.chain, .pins] ∧ KeepsRegs s t []) ∧
  (∀ s : State, s.live .sensor = true ∧ s.straps.chainHead = false → TakesPart s ∧ s.pwr.warm = true → (∀ x ∈
     s.chain.taken, x.1 = true ∨ cwKind x.2 ≠ 5) → s.enumerated = false →
    Gives .rejoin s fun t =>
      t.chain = { s.chain with outW := s.chain.outW ++ [chainWord 5 false 0 0] } ∧ Keeps s t [.chain] ∧ KeepsRegs s t
        []) ∧
  (∀ s : State, s.live .sensor = true → s.chain.enumSince = none →
    Gives .chainERdyRise s fun t =>
      SentDown { s with pins := { s.pins with chainERdy := true } } t
        { s.chain with room := some (max 1 (Config.openValue s.free).toNat) } [] ∧ t.free = s.free + 1 ∧ Keeps s t
        [.pins, .chain, .free] ∧ KeepsRegs s t []) ∧
  (∀ (s : State) (t0 : Nat), s.live .sensor = true → s.chain.enumSince = some t0 →
    Gives .chainERdyRise s fun t =>
      SentDown { s with pins := { s.pins with chainERdy := true } } t { s.chain with
            room := some (max 1 (Config.openValue s.free).toNat), enumSince := none,
            headSince := if s.straps.chainHead = true ∧ s.chain.sizeSent = false then some s.clk.pkg else
              s.chain.headSince } [enumWord s.self s.die] ∧ t.free = s.free + 1 ∧ Keeps s t [.pins, .chain, .free] ∧
        KeepsRegs s t []) ∧
  (∀ (s : State) (parity stop : Bool) (v : Word), s.live .sensor = true ∧ s.straps.chainHead = false → Sound v parity
     stop → cwKind v = 1 →
    Gives (.chainWordReceive true v parity stop) s fun t =>
      t.chain = { s.chain with taken := s.chain.taken ++ [(true, v)] } ∧ Keeps s t [.chain] ∧ KeepsRegs s t []) ∧
  (∀ (s : State) (v : Word), s.live .sensor = true ∧ s.straps.chainHead = false → TakesPart s → s.enumerated = true →
     Oldest s true 1 v → enumSelf v = s.self →
    Gives .enum s fun t =>
      (s.pins.chainERdy = true → SentDown s t { s.chain with taken := s.others true 1, enumSince := none } [enumWord
        s.self s.die]) ∧ (s.pins.chainERdy = false → t.pins = s.pins ∧ t.chain =
        { s.chain with taken := s.others true 1, enumSince := some s.clk.pkg }) ∧ Keeps s t [.chain, .pins] ∧ KeepsRegs
        s t []) ∧
  (∀ (s : State) (t0 : Nat), s.live .sensor = true ∧ s.straps.chainHead = true → s.chain.enumSince = some t0 → t0 +
     1000000 ≤ s.clk.pkg → s.bit Reg.D2D_RING_STATUS Fld.D2D_RING_STATUS_ENUM_FAULT = true →
    Gives .enumLastTimeout s fun t =>
      t.bit Reg.D2D_RING_STATUS Fld.D2D_RING_STATUS_LAST = true ∧ t.chain =
        { s.chain with enumSince := none, headSince := none } ∧ Keeps s t [.chain] ∧ KeepsRegs s t
        [Reg.D2D_RING_STATUS]) ∧
  (∀ s : State, s.live .sensor = false →
    Gives .chainERdyRise s fun t =>
      t.pins = { s.pins with chainERdy := true } ∧ t.chain =
        { s.chain with room := some (max 1 (Config.openValue s.free).toNat) } ∧ t.free = s.free + 1 ∧ Keeps s t [.pins,
        .chain, .free] ∧ KeepsRegs s t []) ∧
  (∀ s : State, s.straps.chainHead = true →
    s.outLevel .chainWDo = .level 1 ∧ s.outLevel .chainWRdy = .level 0)

/-! ### The die-to-die ring (14, 17) -/

/-- Every other instance that a port reaches has been sent a control message (R375). -/
  abbrev Sys2Proof.Machine.Told (t : State) (c : Ctl) : Prop :=
    ∀ j, j < t.count → j ≠ t.self → ∀ e : Bool, t.towards j = some e →
      { vc := 1, src := t.self, dst := j, body := .ctl c, since := t.clk.pkg } ∈ (t.port e).sent

/-- The RESULT word of this instance goes upstream; the head sends none (R69, R400). -/
  abbrev Sys2Proof.Machine.ResultSent (s t : State) (code r : Nat) : Prop :=
    t.chain.outW = if s.straps.chainHead then s.chain.outW else s.chain.outW ++ [chainWord 7 false s.self (code * 65536 + r)]

/-- The lanes of a module that have failed once a retrain has named some (R465, R468). -/
  abbrev Sys2Proof.Machine.badLanes (s : State) (east : Bool) (m : Fin 2) (x : BitVec 79) : List Nat :=
    (upto 79).filter fun i => x.toNat.testBit i || (s.port east).mods[m].failed.contains i || (s.corruptLane east m).contains i

/-- The outcome of a module at the end of a training that finds these lanes failed (R64, R466). -/
  abbrev Sys2Proof.Machine.trainedAs (s : State) (east : Bool) (x : BitVec 79 × BitVec 79) (k : Fin 2) : Nat :=
    (s.moduleOutcome east true (s.trainedLanes east k (if k = 0 then x.1 else x.2))).1

/-- No control message of the captain waits for firmware, which carries its own commands out as they come (R383). -/
  abbrev Sys2Proof.Machine.NoCommands (s : State) : Prop := ∀ e ∈ s.ring.inbox, s.obey e.2 = none

/-- A frame of a forward queue, as the transmit queue of a sub-port holds it (R351). -/
  abbrev Sys2Proof.Machine.fwdTx (s : State) (f : Frame) : Tx :=
    { key := 8192, cls := f.cls, frame := f, at_ := s.now .remote, reply := false, coll := none }

/-- A port whose neighbour reports the right number comes into service with the far side's buffers as credit, its
modules repaired, at half width or out by the lanes that training found bad (R64); another number sets RING_MISMATCH
(R372). Traffic for this instance is delivered, traffic in transit goes on and returns its credit when it has left
(R375, R376). A link down completes what was outstanding with ABSENT and is captured (R377). A module in retraining
counts it; up to four failed lanes are spared, and one that has not come back is out (R465, R466). The package time
steps before LOCKED and slews afterwards, and the next timestamp is asked for (R378). What has stood for US is
returned (R392). Forms stated to complete (exec answers next): d2dTrainExchange, d2dTrainTimeout, d2dFlitReceive,
d2dCreditReturn, escSwitch, d2dLinkDown, d2dRetrain, d2dRetrainEnd, timeAlign, stallWatchdog. -/
def Obligations.RingTrafficAndLinks : Prop :=
  (∀ (s : State) (east : Bool) (m : BitVec 4) (x : BitVec 79 × BitVec 79) (t0 : Nat), s.live (.d2d east) = true →
     (s.port east).trainFrom = some t0 → m.toNat = s.expected east → s.pkg.d2dCmd = none ∧ (s.port east).waiting = [] ∧
     (s.port (!east)).waiting = [] ∧ s.rmt.ringWait = [] → trainedAs s east x 0 ≤ 1 ∧ trainedAs s east x 1 ≤ 1 →
    Gives (.d2dTrainExchange east m x) s fun t =>
      t.portUp east = true ∧ t.portUp (!east) = s.portUp (!east) ∧ (t.port east).credits = #v[128, 120, 64] ∧ (t.port
        east).trained = true ∧ (t.port east).trainFrom = none ∧ (t.port east).outstanding = (s.port east).outstanding ∧
        (t.port east).numberSent = some s.self ∧ (∀ k : Fin 2, (t.port east).mods[k].inService = true ∧ (t.port
        east).mods[k].failed = s.trainedLanes east k (if k = 0 then x.1 else x.2) ∧ t.gf (Reg.D2D_LANE_STATUS (portNo
        east)) (laneState k) = trainedAs s east x k) ∧ (t.bit Reg.D2D_RING_STATUS Fld.D2D_RING_STATUS_CLOSED = true ↔ 2
        ≤ t.count ∧ ∀ i, i < t.count → t.linkUp i = true) ∧ (t.port (!east)).credits = (s.port (!east)).credits ∧
        t.ring.inbox = s.ring.inbox ∧ Keeps s t [.ring, .inj, .pkg] ∧ KeepsRegs s t (Reg.D2D_RING_STATUS :: injRegs)) ∧
  (∀ (s : State) (east : Bool) (m : BitVec 4) (x : BitVec 79 × BitVec 79) (code ports t0 t1 : Nat), s.live (.d2d east)
     = true → (s.port east).trainFrom = some t0 → m.toNat ≠ s.expected east → s.pkg.d2dCmd = some (code, ports, t1) →
     (s.port (!east)).trainFrom = none → trainedAs s east x 0 ≤ 1 ∧ trainedAs s east x 1 ≤ 1 →
    Gives (.d2dTrainExchange east m x) s fun t =>
      t.bit Reg.D2D_RING_STATUS Fld.D2D_RING_STATUS_RING_MISMATCH = true ∧ t.portUp east = s.portUp east ∧ t.port east
        =
        { s.port east with trainFrom := none, refused := true, numberSent := some s.self, mods := (t.port east).mods }
        ∧ t.port (!east) = s.port (!east) ∧ t.pkg = { s.pkg with d2dCmd := none } ∧ ResultSent s t code ((if s.portUp
        false then 1 else 0) + (if s.portUp true then 2 else 0)) ∧ Keeps s t [.ring, .pkg, .chain] ∧ KeepsRegs s t
        [Reg.D2D_RING_STATUS, Reg.D2D_LANE_STATUS (portNo east)]) ∧
  (∀ (s : State) (east : Bool) (code ports t0 t1 : Nat), s.live .sensor = true → (s.port east).trainFrom = some t0 → t0
     + 30000000 ≤ s.clk.pkg → s.pkg.d2dCmd = some (code, ports, t1) → (s.port (!east)).trainFrom = none →
    Gives (.d2dTrainTimeout east) s fun t =>
      t.port east = { s.port east with trainFrom := none } ∧ t.port (!east) = s.port (!east) ∧ t.pkg =
        { s.pkg with d2dCmd := none } ∧ ResultSent s t code ((if s.portUp false then 1 else 0) + (if s.portUp true then
        2 else 0)) ∧ Keeps s t [.ring, .pkg, .chain] ∧ KeepsRegs s t []) ∧
  (∀ (s : State) (east : Bool) (t0 : Nat), (s.port east).trainFrom = some t0 → s.clk.pkg < t0 + 30000000 →
    Gives (.d2dTrainTimeout east) s fun t =>
      t = s) ∧
  (∀ (s : State) (east : Bool) (f : Flit), s.live (.d2d east) = true → s.portUp east = true → f.dst = s.self ∧ f.body =
     .ctl .locked →
    Gives (.d2dFlitReceive east f) s fun t =>
      t.bit Reg.D2D_TIME_STATUS Fld.D2D_TIME_STATUS_LOCKED = true ∧ Keeps s t [] ∧ KeepsRegs s t [Reg.D2D_TIME_STATUS])
        ∧
  (∀ (s : State) (east : Bool) (f : Flit) (b : List Byte), s.live (.d2d east) = true → s.portUp east = true → f.dst =
     s.self ∧ f.body = .ctl (.telemetry b) → NoCommands s →
    Gives (.d2dFlitReceive east f) s fun t =>
      t.ring = { s.ring with inbox := s.ring.inbox ++ [(f.src, .telemetry b)] } ∧ Keeps s t [.ring] ∧ KeepsRegs s t [])
        ∧
  (∀ (s : State) (east : Bool) (f : Flit) (n : Nat), s.live (.d2d east) = true → s.portUp east = true → s.fwRuns
     .steward = true → f.dst = s.self ∧ f.body = .ctl (.setBudget s.self n) → NoCommands s →
    Gives (.d2dFlitReceive east f) s fun t =>
      t.gf Reg.THERM_BUDGET Fld.THERM_BUDGET_BUDGET_W = max 20 (min 255 n) ∧ Keeps s t [] ∧ KeepsRegs s t
        [Reg.THERM_BUDGET]) ∧
  (∀ (s : State) (east : Bool) (f : Flit) (r : Req) (st : Status) (data : List Byte) (i : Fin 16) (a : Nat), s.live
     (.d2d east) = true → s.portUp east = true → f.dst = s.self ∧ f.vc = 1 ∧ f.body = .response r.id r.part a st data →
     s.ring.west.outstanding ++ s.ring.east.outstanding = [r] → r.src = .host i →
    Gives (.d2dFlitReceive east f) s fun t =>
      Answers s t i r st data ∧ t.ring.west.outstanding ++ t.ring.east.outstanding = [] ∧ (t.port east).returned =
        (s.port east).returned.set 1 ((s.port east).returned[1] + 1) ∧ (t.port (!east)).returned = (s.port
        (!east)).returned ∧ t.paths.reqXbar = s.paths.reqXbar ∧ t.paths.slices = s.paths.slices ∧ Keeps s t [.ring,
        .paths, .tags] ∧ KeepsRegs s t []) ∧
  (∀ (s : State) (east : Bool) (f : Flit) (r : Req), s.live (.d2d east) = true → s.portUp east = true → f.dst = s.self
     ∧ f.vc = 0 ∧ f.body = .request r → s.route r.addr = .own (natBits r.addr 0 37) → s.shutdown = false ∧ s.pwr.failed
     = false → (s.gf Reg.CACHE_FENCE Fld.CACHE_FENCE_PENDING).testBit (s.sliceOf r.addr) = false → s.bit
     Reg.CNT_TAG_CFG Fld.CNT_TAG_CFG_ENABLE = false →
    Gives (.d2dFlitReceive east f) s fun t =>
      t.paths.reqXbar = s.paths.reqXbar ++
        [{ r with id := s.freshId, src := .d2d east, prefetch := false, quiet := false }] ∧ t.paths.nextId = s.freshId
        + 1 ∧ t.ring.served = s.ring.served ++ [{ id := s.freshId, origin := f.src, originId := r.id }] ∧ (t.port
        east).returned = (s.port east).returned.set 0 ((s.port east).returned[0] + 1) ∧ t.paths.ports = s.paths.ports ∧
        Keeps s t [.ring, .paths, .tags] ∧ KeepsRegs s t []) ∧
  (∀ (s : State) (east : Bool) (f : Flit) (r : Req), s.live (.d2d east) = true → s.portUp east = true → f.dst ≠ s.self
     ∧ f.vc = 0 ∧ f.body = .request r → s.hops (!east) f.dst ≠ none → (s.port (!east)).waiting = [] ∧ 1 ≤ (s.port
     (!east)).credits[0] →
    Gives (.d2dFlitReceive east f) s fun t =>
      (t.port (!east)).sent = (s.port (!east)).sent ++ [{ f with since := s.clk.pkg, came := some (east, 0) }] ∧
        (t.port (!east)).waiting = [] ∧ (t.port (!east)).credits = (s.port (!east)).credits.set 0 ((s.port
        (!east)).credits[0] - 1) ∧ (t.port east).returned = (s.port east).returned.set 0 ((s.port east).returned[0] +
        1) ∧ (t.port east).sent = (s.port east).sent ∧ t.ring.inbox = s.ring.inbox ∧ Keeps s t [.ring, .inj] ∧
        KeepsRegs s t injRegs) ∧
  (∀ (s : State) (east : Bool) (vc : Fin 3) (m : BitVec 8), s.live (.d2d east) = true → s.portUp east = true → (s.port
     east).waiting = [] ∧ s.rmt.ringWait = [] →
    Gives (.d2dCreditReturn east vc m) s fun t =>
      (t.port east).credits = (s.port east).credits.set vc (min (#v[128, 120, 64])[vc] ((s.port east).credits[vc] +
        m.toNat)) ∧ (t.port east).sent = (s.port east).sent ∧ (t.port east).waiting = [] ∧ t.port (!east) = s.port
        (!east) ∧ Keeps s t [.ring] ∧ KeepsRegs s t []) ∧
  (∀ (s : State) (f : Flit) (east : Bool), s.live (.d2d east) = true → (s.port east).waiting = [f] → f.vc = 0 ∧ f.since
     + 1000 ≤ s.clk.pkg ∧ f.came = some (!east, 0) → s.hops (decide (s.self < f.dst)) f.dst ≠ none → east = decide
     (s.self < f.dst) → f.body.flits ≤ (s.port east).credits[2] →
    Gives (.escSwitch east) s fun t =>
      (t.port east).sent = (s.port east).sent ++ [{ f with vc := 2, since := s.clk.pkg }] ∧ (t.port east).waiting = []
        ∧ (t.port (!east)).sent = (s.port (!east)).sent ∧ (t.port (!east)).returned = (s.port (!east)).returned.set 0
        ((s.port (!east)).returned[0] + f.body.flits) ∧ Keeps s t [.ring, .inj] ∧ KeepsRegs s t injRegs) ∧
  (∀ (s : State) (east : Bool) (r : Req) (i : Fin 16), s.live .sensor = true → s.portUp east = true ∧ s.portUp (!east)
     = false ∧ s.self < s.count → (s.port east).mods.toList.all (fun m => m.retrainFrom.isNone) = true → (s.port
     east).outstanding = [r] ∧ r.src = .host i → (s.port east).waiting = [] ∧ (s.port east).transit = [] ∧
     s.rmt.ringWait = [] → s.bit Reg.PC_FEC_INFO Fld.PC_FEC_INFO_VALID = false →
    Gives (.d2dLinkDown east) s fun t =>
      t.portUp east = false ∧ Answers s t i r .absent [] ∧ (t.port east).outstanding = [] ∧ (t.port east).waiting = []
        ∧ (t.port east).credits = Vector.replicate 3 0 ∧ (t.port east).trained = false ∧ t.port (!east) = s.port
        (!east) ∧ t.bit Reg.PC_FEC_INFO Fld.PC_FEC_INFO_VALID = true ∧ t.paths.slices = s.paths.slices ∧
        t.paths.reqXbar = s.paths.reqXbar ∧ (2 ≤ t.count → t.bit Reg.D2D_RING_STATUS Fld.D2D_RING_STATUS_CLOSED =
        false) ∧ (t.pkg.cutOff = true ∨ s.count ≤ 1) ∧ Keeps s t [.ring, .paths, .tags, .pkg] ∧ KeepsRegs s t
        (Reg.D2D_RING_STATUS :: fecRegs)) ∧
  (∀ (s : State) (east : Bool) (m : Fin 2), s.live (.d2d east) = true → s.portMode east = 1 ∧ s.portUp east = true →
     (s.port east).mods[m].inService = true ∧ (s.port east).mods[m].retrainFrom = none →
    Gives (.d2dRetrain east m) s fun t =>
      (t.port east).mods = (s.port east).mods.set m { (s.port east).mods[m] with retrainFrom := some s.clk.pkg } ∧ t.gf
        (Reg.D2D_LANE_STATUS (portNo east)) (laneRetrains m) = min 255 (s.gf (Reg.D2D_LANE_STATUS (portNo east))
        (laneRetrains m) + 1) ∧ (t.port east).credits = (s.port east).credits ∧ t.port (!east) = s.port (!east) ∧ Keeps
        s t [.ring] ∧ KeepsRegs s t [Reg.D2D_LANE_STATUS (portNo east)]) ∧
  (∀ (s : State) (east : Bool) (m : Fin 2) (x : BitVec 64) (t0 : Nat), s.live (.d2d east) = true → (s.port
     east).mods[m].retrainFrom = some t0 ∧ (s.port east).mods[m].failed = [] → s.bit (Reg.D2D_INJ (portNo east))
     Fld.D2D_INJ_ENABLE = false → 1 ≤ ((upto 64).filter fun i => x.toNat.testBit i).length ∧ ((upto 64).filter fun i =>
     x.toNat.testBit i).length ≤ 4 →
    Gives (.d2dRetrainEnd east m (some (x.zeroExtend 79))) s fun t =>
      (t.port east).mods = (s.port east).mods.set m { (s.port east).mods[m] with
            retrainFrom := none, failed := (upto 64).filter fun i => x.toNat.testBit i, inService := true } ∧ t.gf
        (Reg.D2D_LANE_STATUS (portNo east)) (laneState m) = 1 ∧ t.gf (Reg.D2D_LANE_STATUS (portNo east)) (laneUsed m) =
        ((upto 64).filter fun i => x.toNat.testBit i).length ∧ t.portUp east = s.portUp east ∧ (t.port east).credits =
        (s.port east).credits ∧ t.port (!east) = s.port (!east) ∧ Keeps s t [.ring] ∧ KeepsRegs s t
        [Reg.D2D_LANE_STATUS (portNo east)]) ∧
  (∀ (s : State) (east : Bool) (m : Fin 2) (t0 : Nat), s.live (.d2d east) = true → (s.port east).mods[m].retrainFrom =
     some t0 → (s.port east).mods[1 - m].inService = true → s.gf (Reg.D2D_LANE_STATUS (portNo east)) (laneState m) ≠ 3
     → s.bit Reg.PC_FEC_INFO Fld.PC_FEC_INFO_VALID = false →
    Gives (.d2dRetrainEnd east m none) s fun t =>
      (t.port east).mods[m].inService = false ∧ (t.port east).mods[m].retrainFrom = none ∧ (t.port east).mods[1 - m] =
        (s.port east).mods[1 - m] ∧ t.portUp east = s.portUp east ∧ t.gf (Reg.D2D_LANE_STATUS (portNo east)) (laneState
        m) = 3 ∧ t.gf (Reg.D2D_LANE_STATUS (portNo east)) (laneDegraded m) = 1 ∧ t.bit Reg.PC_FEC_INFO
        Fld.PC_FEC_INFO_VALID = true ∧ Logged s t [(0x0079, [portNo east, m, 3])] ∧ t.port (!east) = s.port (!east) ∧
        Keeps s t [.ring, .inbox] ∧ KeepsRegs s t (Reg.D2D_LANE_STATUS (portNo east) :: fecRegs)) ∧
  (∀ (s : State) (nb : BitVec 64) (rtt : BitVec 32), s.live .sensor = true → s.portUp false = true ∧ s.self ≠ 0 ∧
     (s.self = 1 ∨ s.pkg.aligned.contains (s.expected false) = true) → s.bit Reg.D2D_TIME_STATUS
     Fld.D2D_TIME_STATUS_LOCKED = false →
    Gives (.timeAlign false nb rtt) s fun t =>
      t.clk.pkg = nb.toNat + rtt.toNat / 2 ∧ t.clk.locals = s.clk.locals ∧ t.gf Reg.D2D_TIME_STATUS
        Fld.D2D_TIME_STATUS_LAST_CORR = (((nb.toNat + rtt.toNat / 2 : Nat) - (s.clk.pkg : Int)) % 65536).toNat ∧ t.pkg
        = { s.pkg with alignAt := nb.toNat + rtt.toNat / 2, aligned := s.self :: s.pkg.aligned } ∧ Told t (.aligned
        s.self) ∧ (∀ e, t.towards (s.expected false) = some e → ∃ f ∈ (t.port e).sent, f.body = .ctl (.timeAsk s.self))
        ∧ Keeps s t [.clk, .pkg, .ring, .inj] ∧ KeepsRegs s t (Reg.D2D_TIME_STATUS :: injRegs)) ∧
  (∀ (s : State) (east : Bool) (nb : BitVec 64) (rtt : BitVec 32), s.live .sensor = true → s.portUp east = true → s.bit
     Reg.D2D_TIME_STATUS Fld.D2D_TIME_STATUS_LOCKED = true → east = !s.portUp false ∧ s.pkg.alignAt + 1000000 ≤
     s.clk.pkg →
    Gives (.timeAlign east nb rtt) s fun t =>
      t.pkg = { s.pkg with slew := (nb.toNat + rtt.toNat / 2 : Nat) - (s.clk.pkg : Int), alignAt := s.clk.pkg } ∧ t.gf
        Reg.D2D_TIME_STATUS Fld.D2D_TIME_STATUS_LAST_CORR = (((nb.toNat + rtt.toNat / 2 : Nat) - (s.clk.pkg : Int)) %
        65536).toNat ∧ Keeps s t [.pkg, .ring, .inj] ∧ KeepsRegs s t (Reg.D2D_TIME_STATUS :: injRegs)) ∧
  (∀ (s : State) (east : Bool) (nb : BitVec 64) (rtt : BitVec 32), s.live .sensor = true → s.straps.chainHead = true ∧
     s.self = 0 ∧ 1 ≤ s.count → (∀ i, i < s.count → (i = 0 ∧ s.pwr.warm = false) ∨ s.pkg.aligned.contains i = true) →
     s.bit Reg.D2D_TIME_STATUS Fld.D2D_TIME_STATUS_LOCKED = false →
    Gives (.timeAlign east nb rtt) s fun t =>
      t.bit Reg.D2D_TIME_STATUS Fld.D2D_TIME_STATUS_LOCKED = true ∧ Told t .locked ∧ Keeps s t [.ring, .inj] ∧
        KeepsRegs s t (Reg.D2D_TIME_STATUS :: injRegs)) ∧
  (∀ (s : State) (f : Flit) (r : Req) (cut : Bool), s.live .sensor = true → s.ring.west.waiting = [f] → f.vc = 2 ∧
     f.body = .request r ∧ f.came = none → max f.since s.ring.west.headSince + s.gf Reg.D2D_STALL_CFG
     Fld.D2D_STALL_CFG_US * 1000 ≤ s.clk.pkg → s.towards f.src = some true → s.ring.east.waiting = [] ∧ 1 ≤
     s.ring.east.credits[1] →
    Gives (.stallWatchdog 0 cut) s fun t =>
      t.ring.west.waiting = [] ∧ t.ring.east.sent = s.ring.east.sent ++ [{
            vc := 1, src := s.self, dst := f.src, body := .response r.id r.part r.addr .retryCongested [],
            since := s.clk.pkg }] ∧ t.bit Reg.D2D_RING_STATUS Fld.D2D_RING_STATUS_STALL_RETURN = true ∧ Logged s t
        [(0x0056, [0, 2])] ∧ Keeps s t [.ring, .inj, .inbox] ∧ KeepsRegs s t (Reg.D2D_RING_STATUS :: injRegs)) ∧
  (∀ (s : State) (n : Fin 10) (x : Tx) (cut : Bool), s.live .sensor = true → 2 ≤ n.val → (s.sub (subFin (n.val -
     2))).tx = [x] → x.key = 8192 ∧ x.frame.vc = (if cut then 3 else 2) → x.frame.opcode = 0 ∨ 5 < x.frame.opcode → max
     x.at_ (if cut then (s.sub (subFin (n.val - 2))).fwdAt.2 else (s.sub (subFin (n.val - 2))).fwdAt.1) + s.gf
     Reg.D2D_STALL_CFG Fld.D2D_STALL_CFG_US * 1000 ≤ s.now .remote → s.rmt.fwd = [] →
    Gives (.stallWatchdog n cut) s fun t =>
      (t.sub (subFin (n.val - 2))).tx = [] ∧ t.ring = { s.ring with dropped := s.ring.dropped + 1 } ∧ t.rmt.pt =
        s.rmt.pt ∧ t.bit Reg.D2D_RING_STATUS Fld.D2D_RING_STATUS_STALL_RETURN = true ∧ Logged s t [(0x0056, [n.val, if
        cut then 3 else 2])] ∧ Keeps s t [.rmt, .ring, .inbox] ∧ KeepsRegs s t (Reg.D2D_RING_STATUS :: portRegs)) ∧
  (∀ (s : State) (n : Fin 10) (cut : Bool), s.ring.west.waiting = [] ∧ s.ring.east.waiting = [] ∧ s.rmt.subs.toList.all
     (fun p => p.tx.isEmpty) = true →
    Gives (.stallWatchdog n cut) s fun t =>
      t = s) ∧
  (∀ (s : State) (east : Bool) (m : BitVec 4) (x : BitVec 79 × BitVec 79) (t0 : Nat), s.live (.d2d east) = true →
     (s.port east).trainFrom = some t0 → m.toNat = s.expected east → ¬(trainedAs s east x 0 = 3 ∧ trainedAs s east x 1
     = 3) →
    Gives (.d2dTrainExchange east m x) s fun t =>
      t.portUp east = true ∧ (t.port east).trained = true ∧ (t.port east).trainFrom = none ∧ (∀ k : Fin 2, (t.port
        east).mods[k].inService = decide (trainedAs s east x k ≠ 3)) ∧ (s.self < s.count → 2 ≤ s.count → t.linkUp
        (s.linkNo east) = true) ∧ Keeps s t [.ring, .inj, .pkg, .chain, .inbox, .free, .rmt] ∧ KeepsRegs s t
        (Reg.D2D_RING_STATUS :: fecRegs ++ injRegs)) ∧
  (∀ (s : State) (east : Bool) (m : BitVec 4) (x : BitVec 79 × BitVec 79) (t0 : Nat), s.live (.d2d east) = true →
     (s.port east).trainFrom = some t0 → trainedAs s east x 0 = 3 ∧ trainedAs s east x 1 = 3 →
    Gives (.d2dTrainExchange east m x) s fun t =>
      t.portUp east = s.portUp east ∧ (t.port east).trainFrom = none ∧ (t.port east).trained = (s.port east).trained ∧
        (∀ k : Fin 2, (t.port east).mods[k].inService = false ∧ t.gf (Reg.D2D_LANE_STATUS (portNo east)) (laneState k)
        = 3) ∧ Keeps s t [.ring, .pkg, .chain, .inbox] ∧ KeepsRegs s t (Reg.D2D_LANE_STATUS (portNo east) :: fecRegs))
        ∧
  (∀ (s : State) (east : Bool) (m : BitVec 4) (x : BitVec 79 × BitVec 79) (t0 : Nat), s.live (.d2d east) = true →
     (s.port east).trainFrom = some t0 → m.toNat ≠ s.expected east → ¬(trainedAs s east x 0 = 3 ∧ trainedAs s east x 1
     = 3) →
    Gives (.d2dTrainExchange east m x) s fun t =>
      t.bit Reg.D2D_RING_STATUS Fld.D2D_RING_STATUS_RING_MISMATCH = true ∧ t.portUp east = s.portUp east ∧ t.port east
        =
        { s.port east with trainFrom := none, refused := true, numberSent := some s.self, mods := (t.port east).mods }
        ∧ t.port (!east) = s.port (!east) ∧ Keeps s t [.ring, .pkg, .chain, .inbox] ∧ KeepsRegs s t
        ([Reg.D2D_RING_STATUS, Reg.D2D_LANE_STATUS (portNo east)] ++ fecRegs)) ∧
  (∀ (s : State) (east : Bool) (t0 : Nat), s.live .sensor = true → (s.port east).trainFrom = some t0 → t0 + 30000000 ≤
     s.clk.pkg →
    Gives (.d2dTrainTimeout east) s fun t =>
      t.port east = { s.port east with trainFrom := none } ∧ t.port (!east) = s.port (!east) ∧ Keeps s t [.ring, .pkg,
        .chain] ∧ KeepsRegs s t []) ∧
  (∀ (s : State) (east : Bool) (f : Flit) (i : Nat) (up : Bool), s.live (.d2d east) = true → s.portUp east = true →
     f.dst = s.self ∧ f.body = .ctl (.link i up) →
    Gives (.d2dFlitReceive east f) s fun t =>
      t.ring = { s.ring with links := (if up then [i] else []) ++ s.ring.links.filter (fun x => x ≠ i) } ∧ (t.bit
        Reg.D2D_RING_STATUS Fld.D2D_RING_STATUS_CLOSED = true ↔ 2 ≤ t.count ∧ ∀ k, k < t.count → t.linkUp k = true) ∧
        t.pkg = { s.pkg with cutOff := t.pkg.cutOff } ∧ (t.pkg.cutOff = true ↔ s.pkg.cutOff = true ∨ ∃ j, j < s.count ∧
        j ≠ s.self ∧ t.towards j = none) ∧ Keeps s t [.ring, .pkg] ∧ KeepsRegs s t [Reg.D2D_RING_STATUS]) ∧
  (∀ (s : State) (east : Bool) (f : Flit) (b : List Byte) (n : Nat), s.live (.d2d east) = true ∧ s.live .remote = true
     → s.portUp east = true → f.dst = s.self ∧ f.body = .frame b (some n) → s.rmt.fwd = [] → s.fwdUsed (subFin n) +
     (Frame.ofBytes b).len ≤ 32768 → s.txRoom (subFin n) (Frame.ofBytes b).len = true → s.oversize (subFin n) (fwdTx s
     (Frame.ofBytes b)) = false →
    Gives (.d2dFlitReceive east f) s fun t =>
      (t.sub (subFin n)).tx = (s.sub (subFin n)).tx ++ [fwdTx s (Frame.ofBytes b)] ∧ (t.port east).returned = (s.port
        east).returned.set (Fin.ofNat 3 f.vc) ((s.port east).returned[Fin.ofNat 3 f.vc] + f.body.flits) ∧ t.rmt.fwd =
        [] ∧ (∀ m : Fin 8, m ≠ subFin n → t.sub m = s.sub m) ∧ Keeps s t [.ring, .rmt] ∧ KeepsRegs s t []) ∧
  (∀ (s : State) (east : Bool) (f : Flit), s.portUp east = false →
    Gives (.d2dFlitReceive east f) s fun t =>
      t = s) ∧
  (∀ (s : State) (east : Bool) (f : Flit), s.live (.d2d east) = true → s.portUp east = true → s.ring.inbox = [] →
    Gives (.d2dFlitReceive east f) s fun t =>
      t.ring.inbox.length ≤ 1 ∧ (f.dst ≠ s.self → t.ring.inbox = [] ∧ t.paths = s.paths ∧ KeepsRegs s t injRegs) ∧
        Keeps s t [.paths, .ring, .pkg, .sched, .tags, .rmt, .inj, .free, .inbox, .chain]) ∧
  (∀ (s : State) (east : Bool) (vc : Fin 3) (m : BitVec 8), s.live (.d2d east) = true → s.portUp east = true →
     s.rmt.ringWait = [] →
    Gives (.d2dCreditReturn east vc m) s fun t =>
      (t.port east).sent.length + (t.port east).waiting.length = (s.port east).sent.length + (s.port
        east).waiting.length ∧ (t.port east).sent.take (s.port east).sent.length = (s.port east).sent ∧ (t.port
        (!east)).sent = (s.port (!east)).sent ∧ (t.port (!east)).waiting = (s.port (!east)).waiting ∧ (t.port
        east).credits[vc] ≤ min (#v[128, 120, 64])[vc] ((s.port east).credits[vc] + m.toNat) ∧ Keeps s t [.ring, .inj]
        ∧ KeepsRegs s t injRegs) ∧
  (∀ (s : State) (east : Bool) (f : Flit), s.live (.d2d east) = true → f.vc = 0 ∨ (f.vc = 1 ∧ ∀ g ∈ (s.port
     east).waiting, g.vc ≠ 0) → ((s.port east).waiting.find? fun g => decide (g.vc = f.vc) && g.came.isSome) = some f →
     f.since + 1000 ≤ s.clk.pkg → s.hops (decide (s.self < f.dst)) f.dst ≠ none →
    Gives (.escSwitch east) s fun t =>
      { f with vc := 2, since := s.clk.pkg } ∈ (t.port (decide (s.self < f.dst))).sent ++ (t.port (decide (s.self <
        f.dst))).waiting ∧ t.ring.inbox = s.ring.inbox ∧ Keeps s t [.ring, .inj] ∧ KeepsRegs s t injRegs) ∧
  (∀ (s : State) (east : Bool), s.live .sensor = true → s.portUp east = true → (s.port east).mods.toList.all (fun m =>
     m.retrainFrom.all fun t0 => decide (t0 + 1000000 ≤ s.clk.pkg)) = true →
    Gives (.d2dLinkDown east) s fun t =>
      t.portUp east = false ∧ t.portUp (!east) = s.portUp (!east) ∧ (t.port east).trained = false ∧ (t.port
        east).trainFrom = none ∧ (s.self < s.count → 2 ≤ s.count → t.linkUp (s.linkNo east) = false) ∧ Keeps s t
        [.ring, .paths, .tags, .inj, .pkg, .free, .rmt] ∧ KeepsRegs s t (Reg.D2D_RING_STATUS :: fecRegs ++ pathRegs)) ∧
  (∀ (s : State) (east : Bool) (m : Fin 2) (x : BitVec 79) (t0 : Nat), s.live (.d2d east) = true → (s.port
     east).mods[m].retrainFrom = some t0 →
    Gives (.d2dRetrainEnd east m (some x)) s fun t =>
      (t.port east).mods[m] = { (s.port east).mods[m] with
            retrainFrom := none, failed := badLanes s east m x,
            inService := decide ((laneOutcome (badLanes s east m x)).1 ≠ 3) } ∧ t.gf (Reg.D2D_LANE_STATUS (portNo
        east)) (laneState m) = (laneOutcome (badLanes s east m x)).1 ∧ t.gf (Reg.D2D_LANE_STATUS (portNo east))
        (laneUsed m) = (laneOutcome (badLanes s east m x)).2 ∧ ((laneOutcome (badLanes s east m x)).1 = 3 → (s.port
        east).mods[1 - m].inService = false → t.portUp east = false) ∧ Keeps s t [.ring, .inbox, .paths, .tags, .inj,
        .pkg, .free, .rmt] ∧ KeepsRegs s t ([Reg.D2D_LANE_STATUS (portNo east), Reg.D2D_RING_STATUS] ++ fecRegs ++
        pathRegs)) ∧
  (∀ (s : State) (east : Bool) (m : Fin 2) (t0 : Nat), s.live (.d2d east) = true → (s.port east).mods[m].retrainFrom =
     some t0 → (s.port east).mods[1 - m].inService = false →
    Gives (.d2dRetrainEnd east m none) s fun t =>
      (t.port east).mods[m].inService = false ∧ t.portUp east = false ∧ (t.port east).trained = false ∧ t.gf
        (Reg.D2D_LANE_STATUS (portNo east)) (laneState m) = 3 ∧ Keeps s t [.ring, .inbox, .paths, .tags, .inj, .pkg,
        .free, .rmt] ∧ KeepsRegs s t ([Reg.D2D_LANE_STATUS (portNo east), Reg.D2D_RING_STATUS] ++ fecRegs ++ pathRegs))
        ∧
  (∀ (s : State) (east : Bool) (nb : BitVec 64) (rtt : BitVec 32), s.live .sensor = true → s.straps.chainHead = false →
     s.locked = false → s.portUp east = false →
    Gives (.timeAlign east nb rtt) s fun t =>
      t = s) ∧
  (∀ (s : State) (east : Bool) (nb : BitVec 64) (rtt : BitVec 32), s.live .sensor = true → s.straps.chainHead = false →
     s.locked = false → s.portUp east = true → s.mayStep east = false →
    Gives (.timeAlign east nb rtt) s fun t =>
      t.clk = s.clk ∧ t.ring.inbox = s.ring.inbox ∧ Keeps s t [.ring, .inj] ∧ KeepsRegs s t injRegs) ∧
  (∀ (s : State) (n : Fin 10) (f : Flit) (cut : Bool), s.live .sensor = true → n.val < 2 → ((s.port (decide (n.val =
     1))).waiting.find? fun g => g.vc = 2) = some f → max f.since (s.port (decide (n.val = 1))).headSince + s.gf
     Reg.D2D_STALL_CFG Fld.D2D_STALL_CFG_US * 1000 ≤ s.clk.pkg →
    Gives (.stallWatchdog n cut) s fun t =>
      t.bit Reg.D2D_RING_STATUS Fld.D2D_RING_STATUS_STALL_RETURN = true ∧ Logged s t [(0x0056, [n.val, 2])] ∧ t.paths =
        s.paths ∧ Keeps s t [.ring, .inj, .inbox, .rmt, .sched] ∧ KeepsRegs s t (Reg.D2D_RING_STATUS :: injRegs ++
        rmtRegs)) ∧
  (∀ (s : State) (n : Fin 10) (x : Tx) (cut : Bool), s.live .sensor = true → 2 ≤ n.val → ((s.sub (subFin (n.val -
     2))).tx.find? fun y => y.key = 8192 ∧ y.frame.vc = (if cut then 3 else 2)) = some x → max x.at_ (if cut then
     (s.sub (subFin (n.val - 2))).fwdAt.2 else (s.sub (subFin (n.val - 2))).fwdAt.1) + s.gf Reg.D2D_STALL_CFG
     Fld.D2D_STALL_CFG_US * 1000 ≤ s.now .remote →
    Gives (.stallWatchdog n cut) s fun t =>
      t.bit Reg.D2D_RING_STATUS Fld.D2D_RING_STATUS_STALL_RETURN = true ∧ Logged s t [(0x0056, [n.val, if cut then 3
        else 2])] ∧ t.paths = s.paths ∧ Keeps s t [.ring, .inj, .inbox, .rmt, .sched] ∧ KeepsRegs s t
        (Reg.D2D_RING_STATUS :: injRegs ++ rmtRegs))

/-! ### Chain commands, captain and package (03, 14, 15) -/

/-- A taken word is a command with a code (R400). -/
  abbrev Sys2Proof.Machine.isCommand (code : Nat) (x : Bool × Word) : Bool :=
    decide (x.1 = true) && (decide (cwKind x.2 = 6) && decide (cwArg x.2 / 65536 = code))

/-- The steward core takes up the oldest command with a code, and the words that stay without it (R400). -/
  abbrev Sys2Proof.Machine.Command (s : State) (v : Word) (code : Nat) : Prop :=
    s.fwRuns .steward = true ∧ s.chain.taken.find? (isCommand code) = some (true, v)
  abbrev Sys2Proof.Machine.State.noCommand (s : State) (code : Nat) : List (Bool × Word) :=
    dropFirst (isCommand code) s.chain.taken

/-- A taken command has a code without a meaning (R400). -/
  abbrev Sys2Proof.Machine.reservedWord (x : Bool × Word) : Bool :=
    decide (x.1 = true) && (decide (cwKind x.2 = 6) && !(decide (1 ≤ cwArg x.2 / 65536) && decide (cwArg x.2 / 65536 ≤ 6)))

/-- An instance obeys TRAIN_D2D: its GO has come, and one left out has been trained (R395, R396). -/
  abbrev Sys2Proof.Machine.ObeysTraining (s : State) : Prop :=
    s.pkg.goAt ≠ none ∧ (s.bit Reg.FW_BOOT_STATUS Fld.FW_BOOT_STATUS_LEFT_OUT = false ∨ s.age.trained = true)

/-- A port that a command names is free to train (R44, R396, R400). -/
  abbrev Sys2Proof.Machine.Trains (s : State) (v : Word) (e : Bool) : Prop :=
    (cwArg v).testBit (portNo e) = true ∧ s.strapped e = true ∧ s.live (.d2d e) = true

/-- The captain has no command for an instance: it is not captain, or the instance is not below it, or the ring reaches it
  (R386, R400). -/
  abbrev Sys2Proof.Machine.NoDuty (s : State) (i : Nat) : Prop :=
    s.isCaptain = false ∨ i ≤ s.self ∨ (s.towards i).isSome = true

/-- The phases that RESULT words have reported, with one more (R395). -/
  abbrev Sys2Proof.Machine.State.reported (s : State) (v : Word) : List (Nat × Nat) :=
    (s.pkg.phases.filter fun e => e.1 ≠ cwInst v) ++ [(cwInst v, cwArg v % 65536)]

/-- An instance has been heard over the chain just now. -/
  abbrev Sys2Proof.Machine.State.heardNow (s : State) (i : Nat) : List (Nat × Nat) :=
    (s.pkg.chainHeard.filter fun e => e.1 ≠ i) ++ [(i, s.clk.pkg)]

/-- The parts of a RELAY message after one more word (R369). -/
  abbrev Sys2Proof.Machine.partsWith (old : List Nat) (v : Word) : List Nat :=
    (if (cwArg v).testBit 22 then [] else old) ++ [cwArg v % 65536]

/-- A control message of the ring that a row takes: a heartbeat; a handover or its acknowledgement (R381, R382). -/
  def Sys2Proof.Machine.isBeat (e : Nat × Ctl) : Bool :=
    match e.2 with
    | .heartbeat _ _ _ => true
    | _ => false
  def Sys2Proof.Machine.isHand (e : Nat × Ctl) : Bool :=
    match e.2 with
    | .handover _ _ _ _ _ => true
    | .handoverAck _ _ => true
    | _ => false

/-- A heartbeat with an epoch and a captain is to be adopted: the highest epoch, among equal ones the lowest captain (R380). -/
  abbrev Sys2Proof.Machine.Wins (s : State) (epoch captain : Nat) : Prop :=
    s.pkg.elected = false ∨ s.pkg.epoch < epoch ∨ (s.pkg.epoch = epoch ∧ captain ≤ s.captain)

/-- A heartbeat's captain, deputy and epoch are in force here (R380, R381). -/
  abbrev Sys2Proof.Machine.Adopted (s t : State) (captain : Nat) (deputy : Option Nat) (epoch : Nat) : Prop :=
    t.captain = captain ∧ t.deputy = deputy ∧ t.role = (if captain = s.self then 2 else if deputy = some s.self then 1 else 0) ∧
      t.gf Reg.FW_PKG_STATUS Fld.FW_PKG_STATUS_EPOCH = epoch % 65536 ∧ t.pkg.epoch = epoch ∧ t.pkg.elected = true ∧
      t.pkg.heartbeatAt = s.clk.pkg

/-- A BEAT word of this instance has gone both ways on the chain, upstream but at the head (R69, R381). -/
  abbrev Sys2Proof.Machine.Beaten (s t : State) (epoch : Nat) : Prop :=
    t.chain.outE ++ t.chain.waitE = s.chain.outE ++ s.chain.waitE ++ [chainWord 8 true s.self (s.self + epoch % 65536 * 16)] ∧
      t.chain.outW = (if s.straps.chainHead then s.chain.outW
        else s.chain.outW ++ [chainWord 8 false s.self (s.self + epoch % 65536 * 16)])

/-- The same, with commands after it for instances that the ring does not reach (R386, R395, R400). -/
  abbrev Sys2Proof.Machine.BeatenFirst (s t : State) (epoch : Nat) : Prop :=
    (∃ l : List Word, t.chain.outE ++ t.chain.waitE = s.chain.outE ++ s.chain.waitE ++
        chainWord 8 true s.self (s.self + epoch % 65536 * 16) :: l ∧ ∀ w ∈ l, cwKind w = 6) ∧
      t.chain.outW = (if s.straps.chainHead then s.chain.outW
        else s.chain.outW ++ [chainWord 8 false s.self (s.self + epoch % 65536 * 16)])

/-- This instance is captain at an epoch, has sent its first heartbeat and has given everyone the hall identity (R380 to
  R383). -/
  abbrev Sys2Proof.Machine.Captained (s t : State) (epoch : Nat) : Prop :=
    Adopted s t s.self (s.deputyOf s.self) epoch ∧ t.pkg.sentAt = s.clk.pkg ∧ BeatenFirst s t epoch ∧
      Told t (.heartbeat epoch s.self (s.deputyOf s.self)) ∧
      t.rd Reg.RMT_HALL_ID = s.rd Reg.FW_PKG_HALL ∧ t.rd Reg.RMT_HALL_SIZE = s.rd Reg.FW_PKG_TORUS ∧
      (∀ d, d < 6 → t.rd (Reg.RMT_DIR d) = s.rd (Reg.FW_PKG_DIR d)) ∧
      Told t (.setHall s.self (s.rd Reg.FW_PKG_HALL).toNat (s.rd Reg.FW_PKG_TORUS).toNat ((upto 6).map fun d => (s.rd (Reg.FW_PKG_DIR d)).toNat))

/-- The registers of the roles, and those a new captain writes (R383, R392). -/
  abbrev Sys2Proof.Machine.captainRegs : List Nat :=
    [Reg.FW_PKG_STATUS, Reg.RMT_HALL_ID, Reg.RMT_HALL_SIZE] ++ (upto 6).map Reg.RMT_DIR ++ injRegs

/-- STATUS answers with phase, cause and STATE; TRAIN_D2D trains the ports named after GO, RETRAIN_D2D takes a port
in service down first; RESET_CORES answers and then resets the cores; a code without a meaning answers 0xFFFF (R400).
The head keeps the phases that RESULT words report and sends TRAIN_STACK once every instance has reported (R395).
RELAY words gather a control message of 64 bytes (R369). Forms stated to complete (exec answers next): cmdStatus,
trainD2d, retrainD2d, resetCores, reservedChainCommand, result, relay. -/
def Obligations.ChainCommands : Prop :=
  (∀ (s : State) (v : Word), Command s v 1 →
    Gives .cmdStatus s fun t =>
      ResultSent s t 1 (s.phase + s.gf Reg.FW_BOOT_STATUS Fld.FW_BOOT_STATUS_FAULT_CAUSE * 16 + s.fwState * 256) ∧
        t.chain.taken = s.noCommand 1 ∧ t.chain.outE = s.chain.outE ∧ t.chain.waitE = s.chain.waitE ∧ Keeps s t
        [.chain] ∧ KeepsRegs s t []) ∧
  (∀ (s : State) (v : Word), Command s v 3 → ObeysTraining s → cwArg v % 4 ≠ 0 → (∀ e : Bool, s.strapped e = true ∧
     s.live (.d2d e) = true ∧ s.portUp e = false) →
    Gives .trainD2d s fun t =>
      (∀ e : Bool, t.port e = if (cwArg v).testBit (portNo e) then
        { s.port e with trainFrom := some s.clk.pkg, refused := false } else s.port e) ∧ t.pkg =
        { s.pkg with d2dCmd := some (3, cwArg v % 4, s.clk.pkg) } ∧ t.chain = { s.chain with taken := s.noCommand 3 } ∧
        Keeps s t [.ring, .pkg, .chain] ∧ KeepsRegs s t []) ∧
  (∀ (s : State) (v : Word), Command s v 3 → ¬ObeysTraining s →
    Gives .trainD2d s fun t =>
      t.chain = { s.chain with taken := s.noCommand 3 } ∧ Keeps s t [.chain] ∧ KeepsRegs s t []) ∧
  (∀ (s : State) (v : Word), Command s v 4 → cwArg v % 4 = 2 → s.portUp true = true ∧ s.portUp false = false ∧ s.self <
     s.count → s.strapped true = true ∧ s.live (.d2d true) = true → s.ring.east.waiting = [] ∧ s.ring.east.outstanding
     = [] ∧ s.ring.east.transit = [] ∧ s.rmt.ringWait = [] →
    Gives .retrainD2d s fun t =>
      t.portUp true = false ∧ t.ring.east.trained = false ∧ t.ring.east.trainFrom = some s.clk.pkg ∧
        t.ring.east.credits = Vector.replicate 3 0 ∧ t.ring.west = s.ring.west ∧ t.ring.inbox = s.ring.inbox ∧ t.pkg =
        { s.pkg with d2dCmd := some (4, 2, s.clk.pkg), cutOff := t.pkg.cutOff } ∧ t.chain =
        { s.chain with taken := s.noCommand 4 } ∧ Keeps s t [.ring, .pkg, .chain] ∧ KeepsRegs s t
        [Reg.D2D_RING_STATUS]) ∧
  (∀ (s : State) (v : Word), Command s v 6 → (cwArg v).testBit 0 = false →
    Gives .resetCores s fun t =>
      ResultSent s t 6 0 ∧ t.chain.taken = s.noCommand 6 ∧ t.fwState = 0 ∧ (∀ k : Fin 4, t.fw.cores[k].run = false) ∧
        t.sched = Sched.init ∧ t.pkg = Package.init ∧ t.mgt = s.mgt.emptied ∧ (∀ o, emulatedOff o = true → t.rd o =
        regReset o) ∧ (∀ o, emulatedOff o = false → o ∉ Reg.FW_STATUS :: Reg.THERM_PWR_STATUS :: inhibitRegs → t.rd o =
        s.rd o) ∧ Keeps s t [.chain, .mgt, .free, .paths, .seq, .fw, .sched, .pkg, .inbox, .tests, .age, .pwr]) ∧
  (∀ (s : State) (v : Word), Command s v 6 → (cwArg v).testBit 0 = true → (∀ q : Fin 64, s.bit (Reg.FW_QCFG q)
     Fld.FW_QCFG_ENABLE = false) →
    Gives .resetCores s fun t =>
      ResultSent s t 6 0 ∧ t.chain.taken = s.noCommand 6 ∧ t.fw = { s.fw with orderlyAt := some s.fwNow } ∧ Keeps s t
        [.chain, .fw] ∧ KeepsRegs s t []) ∧
  (∀ (s : State) (v : Word), s.fwRuns .steward = true → (s.chain.taken.find? reservedWord) = some (true, v) →
    Gives .reservedChainCommand s fun t =>
      ResultSent s t (cwArg v / 65536) 0xFFFF ∧ t.chain.taken = dropFirst reservedWord s.chain.taken ∧ t.chain.outE =
        s.chain.outE ∧ Keeps s t [.chain] ∧ KeepsRegs s t []) ∧
  (∀ (s : State) (v : Word), s.fwRuns .steward = true ∧ Oldest s false 7 v ∧ NoDuty s (cwInst v) → cwArg v / 65536 = 1
     → s.pkg.goAt = none →
    Gives .result s fun t =>
      t.pkg = { s.pkg with phases := s.reported v } ∧ t.chain = { s.chain with taken := s.others false 7 } ∧ Keeps s t
        [.pkg, .chain] ∧ KeepsRegs s t []) ∧
  (∀ (s : State) (v : Word), s.fwRuns .steward = true ∧ Oldest s false 7 v ∧ NoDuty s (cwInst v) → cwArg v / 65536 = 1
     → s.straps.chainHead = true ∧ s.pkg.goAt ≠ none ∧ s.pkg.trainSent = false ∧ s.numbered = true → (∀ i, i < s.count
     → i = cwInst v ∨ ∃ e ∈ s.pkg.phases, e.1 = i) →
    Gives .result s fun t =>
      SentDown s { t with chain := { t.chain with taken := s.others false 7 } }
        { s.chain with taken := s.others false 7 } [chainWord 6 true 0 (2 * 65536)] ∧ t.chain.taken = s.others false 7
        ++ [(true, chainWord 6 true 0 (2 * 65536))] ∧ t.pkg.trainSent = true ∧ t.pkg.commanded = t.pkg.phases.map (·.1)
        ∧ t.pkg.phases = s.reported v ∧ Keeps s t [.pkg, .chain, .pins] ∧ KeepsRegs s t []) ∧
  (∀ (s : State) (v : Word), s.fwRuns .steward = true ∧ Oldest s true 9 v → (cwArg v).testBit 21 = false →
    Gives .relay s fun t =>
      t.chain = { s.chain with taken := s.others true 9, relayDown := partsWith s.chain.relayDown v } ∧ Keeps s t
        [.chain] ∧ KeepsRegs s t []) ∧
  (∀ (s : State) (v : Word) (b : List Byte), s.fwRuns .steward = true ∧ Oldest s true 9 v → (cwArg v).testBit 21 = true
     → b = (partsWith s.chain.relayDown v).flatMap (leBytes 2) → b.length = 64 ∧ b.getD 3 0 = 0 →
    Gives .relay s fun t =>
      t.chain = { s.chain with taken := s.others true 9, relayDown := [] } ∧ t.ring =
        { s.ring with inbox := s.ring.inbox ++ [((b.getD 0 0).toNat, .telemetry b)] } ∧ t.pkg =
        { s.pkg with chainHeard := s.heardNow (b.getD 0 0).toNat } ∧ Keeps s t [.chain, .ring, .pkg] ∧ KeepsRegs s t
        []) ∧
  (∀ (s : State) (v : Word), Command s v 3 → ObeysTraining s →
    Gives .trainD2d s fun t =>
      (∀ e : Bool, t.port e = if Trains s v e ∧ s.portUp e = false then
        { s.port e with trainFrom := some s.clk.pkg, refused := false } else s.port e) ∧ t.chain.taken = s.noCommand 3
        ∧ t.chain.outE = s.chain.outE ∧ Keeps s t [.ring, .pkg, .chain] ∧ KeepsRegs s t []) ∧
  (∀ (s : State) (v : Word), Command s v 4 →
    Gives .retrainD2d s fun t =>
      (∀ e : Bool, (cwArg v).testBit (portNo e) = true → t.portUp e = false) ∧ (∀ e : Bool, Trains s v e → (t.port
        e).trainFrom = some s.clk.pkg) ∧ (∀ e : Bool, (cwArg v).testBit (portNo e) = false → t.portUp e = s.portUp e) ∧
        t.chain.taken = s.noCommand 4 ∧ Keeps s t [.ring, .pkg, .chain, .paths, .tags, .inj, .free, .rmt] ∧ KeepsRegs s
        t (Reg.D2D_RING_STATUS :: pathRegs)) ∧
  (∀ (s : State) (v : Word), Command s v 6 → (cwArg v).testBit 0 = true →
    Gives .resetCores s fun t =>
      ResultSent s t 6 0 ∧ t.chain.taken = s.noCommand 6 ∧ t.fw.orderlyAt = some s.fwNow ∧ t.fwState = s.fwState ∧
        t.pkg = s.pkg ∧ Keeps s t [.chain, .free, .fw, .paths, .sched, .seq] ∧ KeepsRegs s t ((upto 64).flatMap
        queueRegs)) ∧
  (∀ (s : State) (v : Word), s.fwRuns .steward = true ∧ Oldest s false 7 v →
    Gives .result s fun t =>
      t.pkg.phases = (if cwArg v / 65536 = 1 then s.reported v else s.pkg.phases) ∧ (t.chain.taken.take (s.others false
        7).length = s.others false 7) ∧ t.chain.outW = s.chain.outW ∧ Keeps s t [.pkg, .chain, .pins, .ring] ∧
        KeepsRegs s t []) ∧
  (∀ (s : State) (v : Word), s.fwRuns .steward = true ∧ Oldest s true 9 v → (cwArg v).testBit 21 = true →
    Gives .relay s fun t =>
      t.chain = { s.chain with taken := s.others true 9, relayDown := [] } ∧ Keeps s t [.chain, .ring, .pkg] ∧
        KeepsRegs s t []) ∧
  (∀ (s : State) (v : Word), s.fwRuns .steward = true ∧ Oldest s false 9 v → (∀ x ∈ s.chain.taken, x.1 = false ∨ cwKind
     x.2 ≠ 9) → (cwArg v).testBit 21 = false →
    Gives .relay s fun t =>
      t.chain = { s.chain with
            taken := s.others false 9,
            relayUp := (s.chain.relayUp.filter fun e => e.1 ≠ cwInst v) ++ [(cwInst v, partsWith
              (((s.chain.relayUp.find? fun e => e.1 = cwInst v).map (·.2)).getD []) v)] } ∧ Keeps s t [.chain] ∧
        KeepsRegs s t []) ∧
  (∀ (s : State) (v : Word) (b : List Byte), s.fwRuns .steward = true ∧ Oldest s false 9 v → (∀ x ∈ s.chain.taken, x.1
     = false ∨ cwKind x.2 ≠ 9) → (cwArg v).testBit 21 = true → b = (partsWith (((s.chain.relayUp.find? fun e => e.1 =
     cwInst v).map (·.2)).getD []) v).flatMap (leBytes 2) → b.length = 64 ∧ b.getD 3 0 = 0 → s.role ≠ 0 →
    Gives .relay s fun t =>
      t.chain = { s.chain with taken := s.others false 9, relayUp := s.chain.relayUp.filter fun e => e.1 ≠ cwInst v } ∧
        t.ring = { s.ring with inbox := s.ring.inbox ++ [((b.getD 0 0).toNat, .telemetry b)] } ∧ t.pkg =
        { s.pkg with chainHeard := s.heardNow (b.getD 0 0).toNat } ∧ Keeps s t [.chain, .ring, .pkg] ∧ KeepsRegs s t
        [])

/-- After the alignment an instance broadcasts its eligibility, and the lowest eligible instance becomes captain, the
next lowest deputy, at epoch 1 (R379, R380). The captain sends heartbeats every 10 µs; one of a higher epoch is
adopted, one of a lower epoch is not (R380, R381). After a silence of 50 µs times its rank an instance takes
captaincy at epoch + 1 (R381). A handover goes to an instance on another die before a warm reset, or to a lower one
that has been eligible for 100 ms, with what the captain keeps; its successor is captain at epoch + 1 with that and
acknowledges; without an answer within 20 µs the captain stays (R382). Forms stated to complete (exec answers next):
election, electionTimeout, heartbeatSend, captainHeartbeatReceive, captainSilenceExpiry, handover, handoverAck,
handoverTimeout, beat. -/
def Obligations.Captaincy : Prop :=
  (∀ s : State, s.fwRuns .steward = true → s.ring.inbox = [] ∧ s.pkg.elected = false ∧ s.pkg.electionSince = none ∧
     s.pkg.heard = [] ∧ s.pkg.goAt = none → s.phase = 3 ∧ s.bit Reg.D2D_TIME_STATUS Fld.D2D_TIME_STATUS_LOCKED = true →
     2 ≤ s.count ∧ s.self < s.count →
    Gives .election s fun t =>
      t.phase = 4 ∧ t.pkg = { s.pkg with electionSince := some s.clk.pkg } ∧ Told t (.eligible s.self s.eligible) ∧
        Keeps s t [.pkg, .ring, .inj] ∧ KeepsRegs s t (Reg.FW_BOOT_STATUS :: injRegs)) ∧
  (∀ (s : State) (t0 : Nat), s.fwRuns .steward = true → s.ring.inbox = [(0, .eligible 0 true)] ∧ s.pkg.elected = false
     ∧ s.pkg.electionSince = some t0 → s.count = 2 ∧ s.self = 1 ∧ s.reaches 0 = true → s.age.asked = [] →
    Gives .election s fun t =>
      Adopted s t 0 (if s.eligible then some 1 else none) 1 ∧ t.pkg.electionSince = none ∧ t.ring =
        { s.ring with inbox := [] } ∧ Logged s t [(0x0050, [0, if s.eligible then 1 else 0, 1])] ∧ Keeps s t [.pkg,
        .ring, .inbox] ∧ KeepsRegs s t [Reg.FW_PKG_STATUS]) ∧
  (∀ (s : State) (t0 : Nat), s.fwRuns .steward = true → s.ring.inbox = [] ∧ s.pkg.elected = false ∧ s.pkg.electionSince
     = some t0 → t0 + 100000 ≤ s.clk.pkg → s.eligibles.head? = some s.self ∧ s.count ≤ 16 →
    Gives .electionTimeout s fun t =>
      Captained s t 1 ∧ t.pkg.electionSince = none ∧ Logged s t [(0x0050, [s.self, (s.deputyOf s.self).getD 0, 1])] ∧
        Keeps s t [.pkg, .ring, .chain, .inj, .inbox, .pins] ∧ KeepsRegs s t captainRegs) ∧
  (∀ (s : State) (t0 : Nat), s.pkg.electionSince = some t0 → s.clk.pkg < t0 + 100000 →
    Gives .electionTimeout s fun t =>
      t = s) ∧
  (∀ s : State, s.fwRuns .steward = true → s.isCaptain = true ∧ s.captain = s.self ∧ s.pkg.sentAt + 10000 ≤ s.clk.pkg →
     s.count ≤ 16 →
    Gives .heartbeatSend s fun t =>
      Adopted s t s.self (s.deputyOf s.self) s.pkg.epoch ∧ t.pkg.sentAt = s.clk.pkg ∧ Beaten s t s.pkg.epoch ∧ Told t
        (.heartbeat s.pkg.epoch s.self (s.deputyOf s.self)) ∧ t.pkg.captainAt = s.pkg.captainAt ∧ Keeps s t [.pkg,
        .ring, .chain, .inj, .pins] ∧ KeepsRegs s t (Reg.FW_PKG_STATUS :: injRegs)) ∧
  (∀ s : State, s.isCaptain = false ∨ s.clk.pkg < s.pkg.sentAt + 10000 →
    Gives .heartbeatSend s fun t =>
      t = s) ∧
  (∀ (s : State) (e k : Nat) (i : Nat) (d' : Option Nat), s.fwRuns .steward = true → s.ring.inbox.find? isBeat = some
     (i, .heartbeat e k d') ∧ s.age.asked = [] → k < 16 ∧ (∀ j ∈ d', j < 16) → Wins s e k →
    Gives .captainHeartbeatReceive s fun t =>
      Adopted s t k d' e ∧ t.ring = { s.ring with inbox := dropFirst isBeat s.ring.inbox } ∧ Keeps s t [.pkg, .ring] ∧
        KeepsRegs s t [Reg.FW_PKG_STATUS]) ∧
  (∀ (s : State) (e k : Nat) (i : Nat) (d' : Option Nat), s.fwRuns .steward = true → s.ring.inbox.find? isBeat = some
     (i, .heartbeat e k d') → s.pkg.elected = true ∧ (e < s.pkg.epoch ∨ (e = s.pkg.epoch ∧ s.captain < k)) →
    Gives .captainHeartbeatReceive s fun t =>
      t.ring = { s.ring with inbox := dropFirst isBeat s.ring.inbox } ∧ Keeps s t [.ring] ∧ KeepsRegs s t []) ∧
  (∀ s : State, s.fwRuns .steward = true → s.pkg.elected = true ∧ s.isCaptain = false ∧ s.eligible = true →
     s.pkg.heartbeatAt + 50000 * s.rankOf ≤ s.clk.pkg → s.count ≤ 16 →
    Gives .captainSilenceExpiry s fun t =>
      Captained s.forgetSilent t (s.pkg.epoch + 1) ∧ Logged s t [(0x0051, [s.self, s.captain, s.pkg.epoch + 1])] ∧
        Keeps s t [.pkg, .ring, .chain, .inj, .inbox, .pins] ∧ KeepsRegs s t captainRegs) ∧
  (∀ s : State, s.clk.pkg < s.pkg.heartbeatAt + 50000 * s.rankOf ∨ s.isCaptain = true ∨ s.eligible = false ∨
     s.pkg.elected = false →
    Gives .captainSilenceExpiry s fun t =>
      t = s) ∧
  (∀ (s : State) (i : Nat) (e : Bool), s.fwRuns .steward = true → s.isCaptain = true ∧ s.pkg.handover = none →
     s.pins.dieWrstReqN = false → s.eligibles.find? (fun j => !s.sameDie j) = some i → s.towards i = some e ∧ (s.port
     e).waiting = [] →
    Gives .handover s fun t =>
      t.pkg = { s.pkg with handover := some { successor := i, since := s.clk.pkg, cause := 1 } } ∧ (t.port e).sent =
        (s.port e).sent ++ [{
            vc := 1, src := s.self, dst := i, body := .ctl (.handover s.pkg.epoch s.self i 1 s.pkg.captaincy),
            since := s.clk.pkg }] ∧ Keeps s t [.pkg, .ring, .inj] ∧ KeepsRegs s t injRegs) ∧
  (∀ s : State, s.isCaptain = false ∨ s.pkg.handover ≠ none →
    Gives .handover s fun t =>
      t = s) ∧
  (∀ (s : State) (ep k i q : Nat) (c : CaptainState) (e : Bool), s.fwRuns .steward = true → s.ring.inbox.find? isHand =
     some (i, .handover ep k s.self q c) ∧ s.eligible = true ∧ s.pkg.epoch ≤ ep ∧ s.age.asked = [] → s.towards k = some
     e ∧ s.count ≤ 16 →
    Gives .handoverAck s fun t =>
      Captained s t (ep + 1) ∧ t.pkg.captaincy = c ∧ t.ring.inbox = dropFirst isHand s.ring.inbox ∧ Logged s t
        [(0x0052, [s.self, q, ep + 1])] ∧ (t.port e).sent.getLast? = some
        { vc := 1, src := s.self, dst := k, body := .ctl (.handoverAck (ep + 1) s.self), since := s.clk.pkg } ∧ Keeps s
        t [.pkg, .ring, .chain, .inj, .inbox, .pins] ∧ KeepsRegs s t captainRegs) ∧
  (∀ (s : State) (ep k i : Nat), s.fwRuns .steward = true → s.ring.inbox.find? isHand = some (i, .handoverAck ep k) ∧
     s.pkg.handover ≠ none ∧ s.age.asked = [] → k < 16 ∧ s.count ≤ 16 → Wins s ep k →
    Gives .handoverAck s fun t =>
      Adopted s t k (s.deputyOf k) ep ∧ t.pkg.handover = none ∧ t.ring =
        { s.ring with inbox := dropFirst isHand s.ring.inbox } ∧ Keeps s t [.pkg, .ring] ∧ KeepsRegs s t
        [Reg.FW_PKG_STATUS]) ∧
  (∀ (s : State) (h : Handover), s.fwRuns .steward = true → s.pkg.handover = some h → h.since + 20000 ≤ s.clk.pkg →
    Gives .handoverTimeout s fun t =>
      t.pkg = { s.pkg with handover := none } ∧ Logged s t [(0x0052, [s.self, h.cause, s.pkg.epoch])] ∧ Keeps s t
        [.pkg, .inbox] ∧ KeepsRegs s t []) ∧
  (∀ (s : State) (h : Handover), s.pkg.handover = some h → s.clk.pkg < h.since + 20000 →
    Gives .handoverTimeout s fun t =>
      t = s) ∧
  (∀ (s : State) (v : Word), s.fwRuns .steward = true ∧ Oldest s true 8 v → s.age.asked = [] ∧ s.count ≤ 16 →
     s.pkg.elected = false ∨ s.pkg.epoch < nearEpoch s.pkg.epoch (cwArg v / 16 % 65536) →
    Gives .beat s fun t =>
      Adopted s t (cwArg v % 16) (s.deputyOf (cwArg v % 16)) (nearEpoch s.pkg.epoch (cwArg v / 16 % 65536)) ∧ t.chain =
        { s.chain with taken := s.others true 8 } ∧ Keeps s t [.pkg, .chain] ∧ KeepsRegs s t [Reg.FW_PKG_STATUS]) ∧
  (∀ s : State, s.fwRuns .steward = true → s.pkg.elected = false ∧ s.pkg.electionSince = none → s.phase = 3 ∨ s.phase =
     9 → s.bit Reg.D2D_TIME_STATUS Fld.D2D_TIME_STATUS_LOCKED = true ∨ s.count ≤ 1 → s.takeEligibility.allHeard = false
     →
    Gives .election s fun t =>
      t.phase = (if s.phase = 3 then 4 else 9) ∧ t.pkg.electionSince = some s.clk.pkg ∧ t.pkg.elected = false ∧
        t.pkg.heard = s.takeEligibility.pkg.heard ∧ t.ring.inbox = s.takeEligibility.ring.inbox ∧ Told t (.eligible
        s.self s.eligible) ∧ Keeps s t [.pkg, .ring, .inj, .chain] ∧ KeepsRegs s t (Reg.FW_BOOT_STATUS :: injRegs)) ∧
  (∀ (s : State) (c : Nat), s.fwRuns .steward = true → s.pkg.elected = false ∧ s.pkg.electionSince ≠ none →
     s.takeEligibility.allHeard = true → s.takeEligibility.eligibles.head? = some c → c ≠ s.self ∧ s.count ≤ 16 →
    Gives .election s fun t =>
      Adopted s t c (s.takeEligibility.deputyOf c) 1 ∧ t.pkg.electionSince = none ∧ t.ring = s.takeEligibility.ring ∧
        Logged s t [(0x0050, [c, (s.takeEligibility.deputyOf c).getD 0, 1])] ∧ Keeps s t [.pkg, .ring, .inbox] ∧
        KeepsRegs s t [Reg.FW_PKG_STATUS]) ∧
  (∀ s : State, s.fwRuns .steward = true → s.pkg.elected = false ∧ s.pkg.electionSince ≠ none →
     s.takeEligibility.allHeard = true → s.takeEligibility.eligibles.head? = some s.self → s.count ≤ 16 →
    Gives .election s fun t =>
      Captained s.takeEligibility t 1 ∧ t.pkg.electionSince = none ∧ Logged s t [(0x0050, [s.self,
        (s.takeEligibility.deputyOf s.self).getD 0, 1])] ∧ Keeps s t [.pkg, .ring, .chain, .inj, .inbox, .pins] ∧
        KeepsRegs s t captainRegs) ∧
  (∀ (s : State) (t0 c : Nat), s.fwRuns .steward = true → s.pkg.elected = false ∧ s.pkg.electionSince = some t0 → t0 +
     100000 ≤ s.clk.pkg → s.takeEligibility.eligibles.head? = some c → c ≠ s.self ∧ s.count ≤ 16 →
    Gives .electionTimeout s fun t =>
      Adopted s t c (s.takeEligibility.deputyOf c) 1 ∧ t.pkg.electionSince = none ∧ t.ring = s.takeEligibility.ring ∧
        Logged s t [(0x0050, [c, (s.takeEligibility.deputyOf c).getD 0, 1])] ∧ Keeps s t [.pkg, .ring, .inbox] ∧
        KeepsRegs s t [Reg.FW_PKG_STATUS]) ∧
  (∀ (s : State) (t0 : Nat), s.fwRuns .steward = true → s.pkg.elected = false ∧ s.pkg.electionSince = some t0 → t0 +
     100000 ≤ s.clk.pkg → s.takeEligibility.eligibles.head? = some s.self → s.count ≤ 16 →
    Gives .electionTimeout s fun t =>
      Captained s.takeEligibility t 1 ∧ t.pkg.electionSince = none ∧ Logged s t [(0x0050, [s.self,
        (s.takeEligibility.deputyOf s.self).getD 0, 1])] ∧ Keeps s t [.pkg, .ring, .chain, .inj, .inbox, .pins] ∧
        KeepsRegs s t captainRegs) ∧
  (∀ (s : State) (e k : Nat) (i : Nat) (d' : Option Nat), s.fwRuns .steward = true → s.ring.inbox.find? isBeat = some
     (i, .heartbeat e k d') → k < 16 ∧ (∀ j ∈ d', j < 16) → Wins s e k →
    Gives .captainHeartbeatReceive s fun t =>
      Adopted s t k d' e ∧ Keeps s t [.pkg, .ring, .inj] ∧ KeepsRegs s t (Reg.FW_PKG_STATUS :: injRegs)) ∧
  (∀ (s : State) (i cause : Nat), s.fwRuns .steward = true → s.isCaptain = true ∧ s.pkg.handover = none →
     (s.pins.dieWrstReqN = false ∧ cause = 1 ∧ s.eligibles.find? (fun j => !s.sameDie j) = some i) ∨
     (s.pins.dieWrstReqN = true ∧ cause = 2 ∧ ((upto s.self).find? fun j => s.eligibles.contains j &&
     (s.pkg.eligibleSince.any fun e => decide (e.1 = j ∧ e.2 + 100000000 ≤ s.clk.pkg))) = some i) →
    Gives .handover s fun t =>
      t.pkg = { s.pkg with handover := some { successor := i, since := s.clk.pkg, cause := cause } } ∧ (∀ e : Bool,
        s.towards i = some e → {
            vc := 1, src := s.self, dst := i, body := .ctl (.handover s.pkg.epoch s.self i cause s.pkg.captaincy),
            since := s.clk.pkg } ∈ (t.port e).sent) ∧ Keeps s t [.pkg, .ring, .inj] ∧ KeepsRegs s t injRegs) ∧
  (∀ (s : State) (v : Word), s.fwRuns .steward = true ∧ Oldest s false 8 v ∧ (∀ x ∈ s.chain.taken, x.1 = false ∨ cwKind
     x.2 ≠ 8) → s.count ≤ 16 → s.pkg.elected = false ∨ s.pkg.epoch < nearEpoch s.pkg.epoch (cwArg v / 16 % 65536) →
    Gives .beat s fun t =>
      Adopted s t (cwArg v % 16) (s.deputyOf (cwArg v % 16)) (nearEpoch s.pkg.epoch (cwArg v / 16 % 65536)) ∧ t.chain =
        { s.chain with taken := s.others false 8 } ∧ Keeps s t [.pkg, .chain, .ring, .inj] ∧ KeepsRegs s t
        (Reg.FW_PKG_STATUS :: injRegs)) ∧
  (∀ (s : State) (v : Word), s.fwRuns .steward = true ∧ Oldest s true 8 v → s.pkg.elected = true ∧ (nearEpoch
     s.pkg.epoch (cwArg v / 16 % 65536) < s.pkg.epoch ∨ (nearEpoch s.pkg.epoch (cwArg v / 16 % 65536) = s.pkg.epoch ∧
     s.captain < cwArg v % 16)) →
    Gives .beat s fun t =>
      t.pkg = { s.pkg with chainHeard := s.heardNow (cwArg v % 16) } ∧ t.chain =
        { s.chain with taken := s.others true 8 } ∧ Keeps s t [.pkg, .chain] ∧ KeepsRegs s t [])

/-! ### Telemetry, budgets and ranges (03, 14) -/

/-- A control message of the ring is telemetry (R384). -/
  def Sys2Proof.Machine.isTelemetry (e : Nat × Ctl) : Bool :=
    match e.2 with
    | .telemetry _ => true
    | _ => false

/-- A control message has gone to an instance that the ring reaches (R375). -/
  abbrev Sys2Proof.Machine.ToldOne (s t : State) (j : Nat) (c : Ctl) : Prop :=
    ∀ e : Bool, s.towards j = some e → { vc := 1, src := s.self, dst := j, body := .ctl c, since := s.clk.pkg } ∈ (t.port e).sent

/-- The arguments of the RELAY words of a message of 64 bytes (R369). -/
  abbrev Sys2Proof.Machine.relayArgs (b : List Byte) : List Nat :=
    (upto 32).map fun k => (if k = 0 then 2 ^ 22 else 0) + (if k = 31 then 2 ^ 21 else 0) + leNat (sliceBytes b (2 * k) 2)

/-- The budgets of R385 for the instances present. -/
  abbrev Sys2Proof.Machine.newBudgets (s : State) : List (Nat × Nat) :=
    s.present.zip (balance (s.gf Reg.FW_PKG_BUDGET Fld.FW_PKG_BUDGET_PKG_W) (s.gf Reg.FW_PKG_BUDGET Fld.FW_PKG_BUDGET_MIN_W)
      (s.gf Reg.FW_PKG_BUDGET Fld.FW_PKG_BUDGET_MAX_W) (s.present.map s.columnOf))

/-- A stoker sends the 64 bytes of R384 to the captain and the deputy every 100 µs on the ring, or as 32 RELAY words
every 1 ms on the chain; that a failed one sends nothing is the model's choice: log entry 94. The captain keeps the
last message of each and what it says of eligibility. Every 1 ms with MODE 1 the captain sets the budgets of R385, a
lone column's being its want within p and the limits, rising by at most 10 W; the worked example of R385 comes out as
given. Forms stated to complete (exec answers next): telemetrySend, telemetryReceive, budgetBalance. -/
def Obligations.TelemetryAndBudgets : Prop :=
  (∀ (s : State) (e : Bool), s.fwRuns .steward = true → s.pkg.elected = true ∧ s.isCaptain = false ∧ s.pwr.failed =
     false ∧ s.captain ≠ s.self ∧ s.deputy = none → s.pkg.telemetryAt + 100000 ≤ s.clk.pkg → s.towards s.captain = some
     e ∧ (s.port e).waiting = [] →
    Gives .telemetrySend s fun t =>
      (t.port e).sent = (s.port e).sent ++
        [{ vc := 1, src := s.self, dst := s.captain, body := .ctl (.telemetry s.telemetryBytes), since := s.clk.pkg }]
        ∧ s.telemetryBytes.length = 64 ∧ s.telemetryBytes.take 1 = leBytes 1 s.self ∧ leNat (sliceBytes
        s.telemetryBytes 4 2) = s.gf Reg.THERM_POWER Fld.THERM_POWER_COLUMN ∧ leNat (sliceBytes s.telemetryBytes 6 2) =
        16 * s.gf Reg.THERM_BUDGET Fld.THERM_BUDGET_BUDGET_W ∧ s.telemetryBytes.getD 3 0 = 0 ∧ (s.telemetryBytes.getD 2
        0).toNat = s.stepNow ∧ leNat (sliceBytes s.telemetryBytes 16 8) = s.now .firmware % 2 ^ 64 ∧ t.pkg.telemetryAt
        = s.clk.pkg ∧ t.pkg.telemetry = s.pkg.telemetry ∧ t.chain = s.chain ∧ Keeps s t [.pkg, .ring, .inj] ∧ KeepsRegs
        s t injRegs) ∧
  (∀ s : State, s.fwRuns .steward = true → s.pkg.elected = true ∧ s.isCaptain = false ∧ s.pwr.failed = false ∧ s.self <
     s.captain ∧ s.deputy = none → s.pkg.relayAt + 1000000 ≤ s.clk.pkg → s.towards s.captain = none →
    Gives .telemetrySend s fun t =>
      t.chain.outE ++ t.chain.waitE = s.chain.outE ++ s.chain.waitE ++ (relayArgs s.telemetryBytes).map (fun k =>
        chainWord 9 false s.captain k) ∧ t.chain.outW = s.chain.outW ∧ t.chain.taken = s.chain.taken ∧ t.pkg.relayAt =
        s.clk.pkg ∧ Keeps s t [.pkg, .chain, .pins] ∧ KeepsRegs s t []) ∧
  (∀ s : State, s.pkg.elected = false ∨ s.isCaptain = true ∨ s.pwr.failed = true →
    Gives .telemetrySend s fun t =>
      t = s) ∧
  (∀ (s : State) (i : Nat) (b : List Byte), s.fwRuns .steward = true → s.ring.inbox.find? isTelemetry = some (i,
     .telemetry b) ∧ s.role ≠ 0 →
    Gives .telemetryReceive s fun t =>
      t.pkg.telemetry = (s.pkg.telemetry.filter fun e => e.1 ≠ (b.getD 0 0).toNat) ++ [((b.getD 0 0).toNat, s.clk.pkg,
        b)] ∧ ((b.getD 0 0).toNat, (b.getD 1 0).toNat.testBit 6) ∈ t.pkg.heard ∧ (∀ e ∈ s.pkg.heard, e.1 ≠ (b.getD 0
        0).toNat → e ∈ t.pkg.heard) ∧ t.pkg.epoch = s.pkg.epoch ∧ t.pkg.budgets = s.pkg.budgets ∧ t.ring =
        { s.ring with inbox := dropFirst isTelemetry s.ring.inbox } ∧ Keeps s t [.pkg, .ring] ∧ KeepsRegs s t []) ∧
  (∀ (s : State) (i : Nat) (b : List Byte), s.fwRuns .steward = true → s.ring.inbox.find? isTelemetry = some (i,
     .telemetry b) ∧ s.role = 0 →
    Gives .telemetryReceive s fun t =>
      t.ring = { s.ring with inbox := dropFirst isTelemetry s.ring.inbox } ∧ Keeps s t [.ring] ∧ KeepsRegs s t []) ∧
  (∀ (s : State) (want p : Nat), s.fwRuns .steward = true → s.isCaptain = true ∧ s.bit Reg.FW_PKG_BUDGET
     Fld.FW_PKG_BUDGET_MODE = true ∧ s.pkg.balanceAt + 1000000 ≤ s.clk.pkg → s.count = 1 ∧ s.self = 0 ∧ s.bit
     (Reg.PC_RANGE 0) Fld.PC_RANGE_VALID = true ∧ s.pkg.budgets = [] → p = (if s.gf Reg.FW_PKG_BUDGET
     Fld.FW_PKG_BUDGET_PKG_W = 0 then 120 else s.gf Reg.FW_PKG_BUDGET Fld.FW_PKG_BUDGET_PKG_W) → want = max (1600 *
     s.gf Reg.FW_PKG_BUDGET Fld.FW_PKG_BUDGET_MIN_W) (min (1600 * s.gf Reg.FW_PKG_BUDGET Fld.FW_PKG_BUDGET_MAX_W) (if 0
     < s.stepNow then s.gf Reg.THERM_BUDGET Fld.THERM_BUDGET_BUDGET_W * 1840 else s.gf Reg.THERM_POWER
     Fld.THERM_POWER_COLUMN * 110 + 8000)) →
    Gives .budgetBalance s fun t =>
      t.pkg = { s.pkg with
            balanceAt := s.clk.pkg,
            budgets := [(0, if p < s.gf Reg.FW_PKG_BUDGET Fld.FW_PKG_BUDGET_MIN_W then p else min (min (want / 1600) p)
              (s.gf Reg.THERM_BUDGET Fld.THERM_BUDGET_BUDGET_W + 10))] } ∧ t.gf Reg.THERM_BUDGET
        Fld.THERM_BUDGET_BUDGET_W = max 20 (min 255 (if p < s.gf Reg.FW_PKG_BUDGET Fld.FW_PKG_BUDGET_MIN_W then p else
        min (min (want / 1600) p) (s.gf Reg.THERM_BUDGET Fld.THERM_BUDGET_BUDGET_W + 10))) ∧ t.gf Reg.THERM_BUDGET
        Fld.THERM_BUDGET_MEM_W = s.gf Reg.THERM_BUDGET Fld.THERM_BUDGET_MEM_W ∧ Keeps s t [.pkg] ∧ KeepsRegs s t
        [Reg.THERM_BUDGET]) ∧
  (∀ s : State, s.isCaptain = false ∨ s.bit Reg.FW_PKG_BUDGET Fld.FW_PKG_BUDGET_MODE = false ∨ s.clk.pkg <
     s.pkg.balanceAt + 1000000 →
    Gives .budgetBalance s fun t =>
      t = s) ∧
  (∀ s : State, s.fwRuns .steward = true → s.pkg.elected = true ∧ s.isCaptain = false ∧ s.pwr.failed = false ∧
     s.captain < s.self ∧ s.deputy = none → s.pkg.relayAt + 1000000 ≤ s.clk.pkg → s.towards s.captain = none →
     s.straps.chainHead = false →
    Gives .telemetrySend s fun t =>
      t.chain =
        { s.chain with outW := s.chain.outW ++ (relayArgs s.telemetryBytes).map (fun k => chainWord 9 false s.self k) }
        ∧ t.pkg.relayAt = s.clk.pkg ∧ Keeps s t [.pkg, .chain] ∧ KeepsRegs s t []) ∧
  (∀ s : State, s.fwRuns .steward = true → s.pkg.elected = true ∧ s.isCaptain = false ∧ s.pwr.failed = false →
    Gives .telemetrySend s fun t =>
      t.pkg = { s.pkg with
            telemetryAt := (if s.pkg.telemetryAt + 100000 ≤ s.clk.pkg then s.clk.pkg else s.pkg.telemetryAt),
            relayAt := (if s.pkg.relayAt + 1000000 ≤ s.clk.pkg then s.clk.pkg else s.pkg.relayAt) } ∧
        (s.pkg.telemetryAt + 100000 ≤ s.clk.pkg → ∀ d ∈ s.captain :: s.deputy.toList, d ≠ s.self → ToldOne s t d
        (.telemetry s.telemetryBytes)) ∧ Keeps s t [.pkg, .ring, .inj, .chain, .pins] ∧ KeepsRegs s t injRegs) ∧
  (∀ s : State, s.fwRuns .steward = true → s.isCaptain = true ∧ s.bit Reg.FW_PKG_BUDGET Fld.FW_PKG_BUDGET_MODE = true ∧
     s.pkg.balanceAt + 1000000 ≤ s.clk.pkg →
    Gives .budgetBalance s fun t =>
      t.pkg = { s.pkg with balanceAt := s.clk.pkg, budgets := newBudgets s } ∧ (∀ e ∈ newBudgets s, e.1 ≠ s.self →
        ToldOne s t e.1 (.setBudget e.1 e.2)) ∧ (∀ e ∈ newBudgets s, e.1 = s.self → t.gf Reg.THERM_BUDGET
        Fld.THERM_BUDGET_BUDGET_W = max 20 (min 255 e.2)) ∧ t.ring.inbox = s.ring.inbox ∧ Keeps s t [.pkg, .ring, .inj]
        ∧ KeepsRegs s t (Reg.THERM_BUDGET :: injRegs))

/-- The report of an instance that the captain has, once it has taken those that have come (R528). -/
  abbrev Sys2Proof.Machine.reportOf (s : State) (i : Nat) : Option (List Byte) :=
    (s.takeReports.pkg.reports.find? fun e => e.1 = i).map (·.2)

/-- At range assignment, once the captain's heartbeat has come, an instance without a ledger holds K PCs evenly
spaced and reports 64 G − h ranks (R84, R85, R528); with a report and PHASE ELECTION from every eligible instance the
captain gives instance i the BASE ORIGIN × 16 + i and the RANKS of its report, and each instance locks PC_LACE (R80,
R90). It clears VALID of an instance that no path reaches or whose telemetry is missing and logs the loss; one that
the ring reaches again gets its range once more (R386). Forms stated to complete (exec answers next): rangeReport,
rangeAssignment, instanceLost, instanceRejoin. -/
def Obligations.RangesAndLoss : Prop :=
  (∀ (s : State) (snap : List (Fin 16 × BitVec 64)) (k : Nat), s.fwRuns .upkeep = true → s.pkg.elected = true ∧
     s.pkg.beatHeard = true ∧ s.pkg.reported = false ∧ s.pkg.noRange = false ∧ s.isCaptain = true ∧ s.captain = s.self
     ∧ s.deputy = none → s.phase = 4 ∧ s.bit Reg.PC_LACE Fld.PC_LACE_LOCK = false ∧ s.groups ≤ 4 → s.age.repair = none
     ∧ s.age.unlacedAt = [] ∧ k = s.gf Reg.PC_LACE Fld.PC_LACE_RESERVE ∧ 1 ≤ k ∧ k ≤ 16 → s.rd64 Reg.PC_UNLACING = 0 →
    Gives (.rangeReport snap) s fun t =>
      (∀ p : Fin 64, (t.rd64 Reg.PC_HELD_MASK).testBit p = decide (∃ i : Fin 16, i.val < k ∧ p.val = 64 * i.val / k)) ∧
        t.rd64 Reg.PC_UNLACED = 0 ∧ (∀ r : Fin 256, t.rankState r = (if s.groups ≤ r.val / 64 then 9 else if r.val / 64
        + 1 = s.groups ∧ (t.rd64 Reg.PC_HELD_MASK).testBit (r.val % 64) then 4 else 0)) ∧ t.pkg.reported = true ∧
        t.pkg.reports = (s.pkg.reports.filter fun e => e.1 ≠ s.self) ++ [(s.self, t.reportBytes)] ∧ leNat (sliceBytes
        t.reportBytes 4 2) = 64 * s.groups - k ∧ leNat (sliceBytes t.reportBytes 8 8) = t.rd64 Reg.PC_HELD_MASK ∧
        t.reportBytes.getD 1 0 = 0 ∧ t.reportBytes.getD 3 0 = 1 ∧ Keeps s t [.pkg] ∧ KeepsRegs s t ([Reg.PC_HELD_MASK,
        Reg.PC_HELD_MASK + 4, Reg.PC_UNLACED, Reg.PC_UNLACED + 4] ++ (upto 32).map Reg.PC_RANK_STATE)) ∧
  (∀ (s : State) (snap : List (Fin 16 × BitVec 64)) (e : Bool), s.fwRuns .upkeep = true → s.pkg.elected = true ∧
     s.pkg.beatHeard = true ∧ s.pwr.warm = false ∧ s.isCaptain = false ∧ s.captain ≠ s.self ∧ s.deputy = none → 5 ≤
     s.phase ∧ s.phase ≤ 8 ∧ s.bit (Reg.PC_RANGE s.self) Fld.PC_RANGE_VALID = false → s.towards s.captain = some e ∧
     (s.port e).waiting = [] →
    Gives (.rangeReport snap) s fun t =>
      (t.port e).sent = (s.port e).sent ++
        [{ vc := 1, src := s.self, dst := s.captain, body := .ctl (.rangeReport s.reportBytes), since := s.clk.pkg }] ∧
        t.pkg = { s.pkg with reported := true, cutOff := false } ∧ Keeps s t [.pkg, .ring, .inj] ∧ KeepsRegs s t
        injRegs) ∧
  (∀ (s : State) (snap : List (Fin 16 × BitVec 64)), s.pkg.elected = false ∨ s.pkg.beatHeard = false →
    Gives (.rangeReport snap) s fun t =>
      t = s) ∧
  (∀ (s : State) (b : List Byte), s.fwRuns .steward = true → s.ring.inbox = [(s.self, .rangeReport b)] ∧ s.isCaptain =
     true ∧ s.pkg.ranged = false ∧ s.pkg.goAt = none → s.phase = 4 ∧ s.count = 1 ∧ s.self = 0 ∧ s.eligible = true ∧
     s.bit (Reg.PC_RANGE 0) Fld.PC_RANGE_VALID = false → (b.getD 0 0).toNat = 0 ∧ (b.getD 1 0).toNat.testBit 0 = false
     ∧ leNat (sliceBytes b 4 2) ≤ 256 → onesBelow 64 (leNat (sliceBytes b 8 8)) ≤ s.reserveCount → laceInUse (s.rd
     Reg.PC_LACE) = s.rd Reg.PC_LACE ∧ s.bit Reg.PC_LACE Fld.PC_LACE_LOCK = false →
    Gives .rangeAssignment s fun t =>
      t.gf (Reg.PC_RANGE 0) Fld.PC_RANGE_BASE = s.gf Reg.FW_ADDR_ORIGIN Fld.FW_ADDR_ORIGIN_ORIGIN * 16 ∧ t.gf
        (Reg.PC_RANGE 0) Fld.PC_RANGE_RANKS = leNat (sliceBytes b 4 2) ∧ t.bit (Reg.PC_RANGE 0) Fld.PC_RANGE_VALID =
        true ∧ (t.gf Reg.FW_PKG_PRESENT Fld.FW_PKG_PRESENT_PRESENT).testBit 0 = true ∧ t.bit Reg.PC_LACE
        Fld.PC_LACE_LOCK = true ∧ t.gf Reg.PC_LACE Fld.PC_LACE_RESERVE = s.gf Reg.PC_LACE Fld.PC_LACE_RESERVE ∧ t.phase
        = 5 ∧ t.pkg.ranged = true ∧ t.rd Reg.RMT_HALL_ID = s.rd Reg.FW_PKG_HALL ∧ t.ring = { s.ring with inbox := [] }
        ∧ Keeps s t [.pkg, .ring] ∧ KeepsRegs s t ([Reg.PC_RANGE 0, Reg.FW_PKG_PRESENT, Reg.PC_LACE,
        Reg.FW_BOOT_STATUS, Reg.RMT_HALL_ID, Reg.RMT_HALL_SIZE] ++ (upto 6).map Reg.RMT_DIR)) ∧
  (∀ s : State, s.fwRuns .steward = true → s.ring.inbox = [] ∧ s.isCaptain = false ∧ s.pkg.goAt = none → s.phase = 4 ∧
     s.bit (Reg.PC_RANGE s.self) Fld.PC_RANGE_VALID = true ∧ s.bit Reg.PC_LACE Fld.PC_LACE_LOCK = false → laceInUse
     (s.rd Reg.PC_LACE) = s.rd Reg.PC_LACE →
    Gives .rangeAssignment s fun t =>
      t.bit Reg.PC_LACE Fld.PC_LACE_LOCK = true ∧ t.phase = 5 ∧ t.gf Reg.PC_LACE Fld.PC_LACE_RESERVE = s.gf Reg.PC_LACE
        Fld.PC_LACE_RESERVE ∧ Keeps s t [] ∧ KeepsRegs s t [Reg.PC_LACE, Reg.FW_BOOT_STATUS]) ∧
  (∀ (s : State) (sl : Fin 16), s.fwRuns .steward = true → s.isCaptain = true ∧ sl.val ≠ s.self ∧ s.bit (Reg.PC_RANGE
     sl) Fld.PC_RANGE_VALID = true → s.towards sl = none →
    Gives (.instanceLost sl) s fun t =>
      t.bit (Reg.PC_RANGE sl) Fld.PC_RANGE_VALID = false ∧ t.gf (Reg.PC_RANGE sl) Fld.PC_RANGE_BASE = s.gf
        (Reg.PC_RANGE sl) Fld.PC_RANGE_BASE ∧ t.gf (Reg.PC_RANGE sl) Fld.PC_RANGE_RANKS = s.gf (Reg.PC_RANGE sl)
        Fld.PC_RANGE_RANKS ∧ (t.gf Reg.FW_PKG_PRESENT Fld.FW_PKG_PRESENT_PRESENT).testBit sl = false ∧ (t.gf
        Reg.FW_PKG_PRESENT Fld.FW_PKG_PRESENT_LOST).testBit sl = true ∧ Told t (.setRange sl (s.gf (Reg.PC_RANGE sl)
        Fld.PC_RANGE_BASE) (s.gf (Reg.PC_RANGE sl) Fld.PC_RANGE_RANKS) false) ∧ Logged s t [(0x0053, [sl.val, 0])] ∧
        t.pkg = { s.pkg with
            reports := s.pkg.reports.filter (fun e => e.1 ≠ sl.val),
            heard := (s.pkg.heard.filter fun e => e.1 ≠ sl.val) ++ [(sl.val, false)],
            eligibleSince := s.pkg.eligibleSince.filter fun e => e.1 ≠ sl.val } ∧ Keeps s t [.pkg, .ring, .inj, .inbox,
        .chain, .pins] ∧ KeepsRegs s t ([Reg.PC_RANGE sl, Reg.FW_PKG_PRESENT] ++ injRegs)) ∧
  (∀ (s : State) (sl : Fin 16), s.isCaptain = false ∨ (sl.val = s.self ∧ s.pwr.failed = false) ∨ s.bit (Reg.PC_RANGE
     sl) Fld.PC_RANGE_VALID = false ∨ s.lossOf sl = none →
    Gives (.instanceLost sl) s fun t =>
      t = s) ∧
  (∀ (s : State) (sl : Fin 16) (b : List Byte), s.fwRuns .steward = true → (s.takeReports.pkg.reports.find? fun e =>
     e.1 = sl.val) = some (sl.val, b) ∧ s.isCaptain = true ∧ sl.val ≠ s.self → 5 ≤ s.phase ∧ s.phase ≤ 8 ∧ s.bit
     (Reg.PC_RANGE sl) Fld.PC_RANGE_VALID = false ∧ s.towards sl ≠ none ∧ s.count ≤ 16 → (b.getD 1 0).toNat.testBit 0 =
     false ∧ leNat (sliceBytes b 4 2) ≤ 256 → onesBelow 64 (leNat (sliceBytes b 8 8)) ≤ s.reserveCount → s.gf
     Reg.FW_ADDR_ORIGIN Fld.FW_ADDR_ORIGIN_ORIGIN < 2047 →
    Gives (.instanceRejoin sl) s fun t =>
      t.bit (Reg.PC_RANGE sl) Fld.PC_RANGE_VALID = true ∧ t.gf (Reg.PC_RANGE sl) Fld.PC_RANGE_BASE = s.gf
        Reg.FW_ADDR_ORIGIN Fld.FW_ADDR_ORIGIN_ORIGIN * 16 + sl.val ∧ t.gf (Reg.PC_RANGE sl) Fld.PC_RANGE_RANKS = leNat
        (sliceBytes b 4 2) ∧ (t.gf Reg.FW_PKG_PRESENT Fld.FW_PKG_PRESENT_PRESENT).testBit sl = true ∧ t.gf
        Reg.FW_PKG_PRESENT Fld.FW_PKG_PRESENT_LOST = s.gf Reg.FW_PKG_PRESENT Fld.FW_PKG_PRESENT_LOST ∧ Told t
        (.setRange sl (s.gf Reg.FW_ADDR_ORIGIN Fld.FW_ADDR_ORIGIN_ORIGIN * 16 + sl.val) (leNat (sliceBytes b 4 2))
        true) ∧ Told t (.setHall s.self (s.rd Reg.FW_PKG_HALL).toNat (s.rd Reg.FW_PKG_TORUS).toNat ((upto 6).map fun d
        => (s.rd (Reg.FW_PKG_DIR d)).toNat)) ∧ (∀ i, i < s.count → i ≠ sl.val → Told t (.setRange i (s.gf (Reg.PC_RANGE
        i) Fld.PC_RANGE_BASE) (s.gf (Reg.PC_RANGE i) Fld.PC_RANGE_RANKS) (s.bit (Reg.PC_RANGE i) Fld.PC_RANGE_VALID)))
        ∧ Logged s t [(0x0054, [sl.val, ((s.pkg.marks.find? fun e => e.1 = sl.val).map (·.2)).getD 0])] ∧ t.ring.inbox
        = s.takeReports.ring.inbox ∧ Keeps s t [.pkg, .ring, .inj, .inbox] ∧ KeepsRegs s t ([Reg.PC_RANGE sl,
        Reg.FW_PKG_PRESENT, Reg.RMT_HALL_ID, Reg.RMT_HALL_SIZE] ++ (upto 6).map Reg.RMT_DIR ++ injRegs)) ∧
  (∀ (s : State) (snap : List (Fin 16 × BitVec 64)), s.fwRuns .upkeep = true → s.pkg.elected = true ∧ s.pkg.beatHeard =
     true → (s.phase = 9 ∧ s.pkg.reported = false) ∨ (s.phase = 4 ∧ s.pkg.reported = true ∧ s.bit Reg.PC_LACE
     Fld.PC_LACE_LOCK = false ∧ s.bit (Reg.PC_RANGE s.self) Fld.PC_RANGE_VALID = false) ∨ (5 ≤ s.phase ∧ s.phase ≤ 8 ∧
     (s.bit (Reg.PC_RANGE s.self) Fld.PC_RANGE_VALID = false ∨ s.pkg.reported = false ∨ (s.pkg.cutOff = true ∧
     (s.captain = s.self ∨ s.towards s.captain ≠ none)))) →
    Gives (.rangeReport snap) s fun t =>
      t.pkg = { s.pkg with
            reported := true, cutOff := false, marks := if s.pwr.warm then t.pkg.marks else s.pkg.marks,
            reports := if s.isCaptain then (s.pkg.reports.filter fun e => e.1 ≠ (s.reportBytes.getD 0 0).toNat) ++
              [((s.reportBytes.getD 0 0).toNat, s.reportBytes)] else s.pkg.reports } ∧ (s.pwr.warm = true → ∀ d ∈
        s.captain :: s.deputy.toList, d ≠ s.self → ToldOne s t d (.markResult s.self s.markOf)) ∧ (∀ d ∈ s.captain ::
        s.deputy.toList, d ≠ s.self → ToldOne s t d (.rangeReport s.reportBytes)) ∧ (s.phase = 9 → s.reportBytes.getD 1
        0 = 1) ∧ Keeps s t [.pkg, .ring, .inj, .chain, .pins] ∧ KeepsRegs s t injRegs) ∧
  (∀ (s : State) (snap : List (Fin 16 × BitVec 64)), s.fwRuns .upkeep = true → s.pkg.elected = true ∧ s.pkg.beatHeard =
     true ∧ s.pkg.reported = false → s.phase = 4 ∧ s.bit Reg.PC_LACE Fld.PC_LACE_LOCK = false →
    Gives (.rangeReport snap) s fun t =>
      t.pkg.reported = true ∧ t.phase = 4 ∧ t.age = s.age ∧ Keeps s t [.pins, .tests, .ring, .chain, .pkg, .inj,
        .stack] ∧ KeepsRegs s t heldRegs) ∧
  (∀ s : State, s.fwRuns .steward = true → s.isCaptain = false ∧ s.phase = 4 ∧ s.bit (Reg.PC_RANGE s.self)
     Fld.PC_RANGE_VALID = true ∧ s.bit Reg.PC_LACE Fld.PC_LACE_LOCK = false →
    Gives .rangeAssignment s fun t =>
      t.rd Reg.PC_LACE = (laceInUse (s.rd Reg.PC_LACE) ||| BitVec.ofNat 32 (2 ^ Fld.PC_LACE_LOCK.lo)) ∧ t.phase = 5 ∧
        t.ring.inbox = s.takeReports.ring.inbox ∧ Keeps s t [.pkg, .ring, .chain, .inbox] ∧ KeepsRegs s t [Reg.PC_LACE,
        Reg.FW_BOOT_STATUS]) ∧
  (∀ s : State, s.fwRuns .steward = true → s.isCaptain = true ∧ s.pkg.ranged = false ∧ s.phase = 4 ∧ s.count ≤ 16 →
     s.gf Reg.FW_ADDR_ORIGIN Fld.FW_ADDR_ORIGIN_ORIGIN < 2047 → (∀ i ∈ s.takeReports.eligibles,
     s.takeReports.rangeReady i = true) →
    Gives .rangeAssignment s fun t =>
      t.pkg.ranged = true ∧ (∀ i, i < s.count → (reportOf s i = none → t.bit (Reg.PC_RANGE i) Fld.PC_RANGE_VALID =
        false) ∧ (∀ b, reportOf s i = some b → leNat (sliceBytes b 4 2) ≤ 256 → t.bit (Reg.PC_RANGE i)
        Fld.PC_RANGE_VALID = !(b.getD 1 0).toNat.testBit 0 ∧ ((b.getD 1 0).toNat.testBit 0 = false → t.gf (Reg.PC_RANGE
        i) Fld.PC_RANGE_BASE = s.gf Reg.FW_ADDR_ORIGIN Fld.FW_ADDR_ORIGIN_ORIGIN * 16 + i ∧ t.gf (Reg.PC_RANGE i)
        Fld.PC_RANGE_RANKS = leNat (sliceBytes b 4 2)))) ∧ t.rd Reg.RMT_HALL_ID = s.rd Reg.FW_PKG_HALL ∧ t.ring.inbox =
        s.takeReports.ring.inbox ∧ Keeps s t [.pkg, .ring, .inj, .inbox, .chain] ∧ KeepsRegs s t ([Reg.FW_PKG_PRESENT,
        Reg.PC_LACE, Reg.FW_BOOT_STATUS, Reg.RMT_HALL_ID, Reg.RMT_HALL_SIZE] ++ (upto 16).map (fun i => Reg.PC_RANGE i)
        ++ (upto 6).map Reg.RMT_DIR ++ injRegs)) ∧
  (∀ (s : State) (sl : Fin 16) (c : Nat), s.fwRuns .steward = true → s.isCaptain = true ∧ s.bit (Reg.PC_RANGE sl)
     Fld.PC_RANGE_VALID = true → s.lossOf sl = some c →
    Gives (.instanceLost sl) s fun t =>
      t.bit (Reg.PC_RANGE sl) Fld.PC_RANGE_VALID = false ∧ (t.gf Reg.FW_PKG_PRESENT Fld.FW_PKG_PRESENT_LOST).testBit sl
        = true ∧ Logged s t [(0x0053, [sl.val, c])] ∧ t.pkg = { s.pkg with
            reports := s.pkg.reports.filter (fun e => e.1 ≠ sl.val),
            heard := (s.pkg.heard.filter fun e => e.1 ≠ sl.val) ++ [(sl.val, false)],
            eligibleSince := s.pkg.eligibleSince.filter fun e => e.1 ≠ sl.val } ∧ Keeps s t [.pkg, .ring, .inj, .inbox,
        .chain, .pins] ∧ KeepsRegs s t ([Reg.PC_RANGE sl, Reg.FW_PKG_PRESENT] ++ injRegs))

/-! ### Monitors, history, snapshots and counters (16, 20) -/

/-- The registers of the cycle counters (R521). -/
  abbrev Sys2Proof.Machine.cycleRegs : List Nat := (upto 8).map fun i => Reg.CNT_CYCLES 0 + 4 * i

/-- The registers of the 32 counters (R521). -/
  abbrev Sys2Proof.Machine.valueRegs : List Nat := (upto 64).map fun i => Reg.CNT_VAL 0 0 + 4 * i

/-- The first readings become the baselines, and a uniform slowing is the drift (R425). Every rank gets a history
point when one is due (R427). A snapshot zeroes its header, writes its sections, then its header, then GEN; a failed
write ends the attempt (R429). Actions of CNT_CTRL take effect at the first multiple of 1,024 ns at least 500 ns
ahead (R513); each counter adds the quantity of the event it selects modulo 2^48 (R510, R511); a dump writes its line
at 0 last, or is skipped (R516). Forms stated to complete (exec answers next): monitorRead, historyPoint,
ledgerSnapshot, snapshotPeriodExpiry, snap, cntRun, cntClear, cntSnap, counterCapture, counterEvent, counterDump,
sampleRecord. -/
def Obligations.HistorySnapshotsCounters : Prop :=
  (∀ (s : State) (f : List (BitVec 32)), s.fwRuns .steward = true → s.age.baselines = [] →
    Gives (.monitorRead f) s fun t =>
      t.age = { s.age with baselines := f.map BitVec.toNat } ∧ t.gf Reg.FW_AGEING_DRIFT Fld.FW_AGEING_DRIFT_D = 0 ∧
        Keeps s t [.age] ∧ KeepsRegs s t [Reg.FW_AGEING_DRIFT]) ∧
  (∀ (s : State) (x : BitVec 32) (y : Nat), s.fwRuns .steward = true → s.age.baselines = List.replicate 48 y ∧ 0 < y →
    Gives (.monitorRead (List.replicate 48 x)) s fun t =>
      t.gf Reg.FW_AGEING_DRIFT Fld.FW_AGEING_DRIFT_D = min 65535 ((y - x.toNat) * 10000 / y) ∧ Keeps s t [] ∧ KeepsRegs
        s t [Reg.FW_AGEING_DRIFT]) ∧
  (∀ s : State, s.fwRuns .upkeep = true → s.age.pointDay.all (fun n => decide (n + s.gf Reg.FW_AGEING_CFG
     Fld.FW_AGEING_CFG_REC_DAYS ≤ s.serviceDay)) = true ∧ s.phase = 8 →
    Gives .historyPoint s fun t =>
      (∀ r, r < 64 * s.groups → (t.age.points.filter fun e => e.rank = r).getLast? = some {
            rank := r, day := s.serviceDay, tm := (s.tmOf r).1, vm := (s.vmOf r).1, tLane := (s.tmOf r).2,
            vLane := (s.vmOf r).2 } ∧ (t.age.points.filter fun e => e.rank = r).length = min 32 ((s.age.points.filter
        fun e => e.rank = r).length + 1)) ∧ t.age.pointDay = some s.serviceDay ∧ t.age.baselines = s.age.baselines ∧
        t.age.guards = s.age.guards ∧ Keeps s t [.age, .inbox, .pcs] ∧ KeepsRegs s t [Reg.FW_AGEING_STATUS]) ∧
  (∀ (s : State) (n : Nat), s.age.pointDay = some n → s.serviceDay < n + s.gf Reg.FW_AGEING_CFG
     Fld.FW_AGEING_CFG_REC_DAYS →
    Gives .historyPoint s fun t =>
      t = s) ∧
  (∀ (s : State), s.fwRuns .upkeep = true → s.age.snap = none ∧ s.exportOn = true ∧ s.inOwn s.exportBase 8388608 = true
     ∧ s.snapDue = true ∧ s.phase = 8 → OwnLine s (s.halfBase s.nextGen) →
    Gives .ledgerSnapshot s fun t =>
      (t.age.snap.map fun x => (x.gen, x.step, x.id)) = some (s.nextGen, 1, s.freshId) ∧ (t.age.snap.map (·.bound)) =
        some s.syncedEntries ∧ t.age.wantSnap = false ∧ t.age.periodDue = false ∧ t.age.eventAt = none ∧
        t.paths.reqXbar = s.paths.reqXbar ++ writeReqs s.freshId .firmware .normal 1 (s.halfBase s.nextGen) ((zeros
        64).map some) ∧ t.rd Reg.FW_LEDGER_XSTATUS = s.rd Reg.FW_LEDGER_XSTATUS ∧ Keeps s t [.age, .paths, .free,
        .tags] ∧ KeepsRegs s t tagRegs) ∧
  (∀ (s : State) (x : Snap), s.fwRuns .upkeep = true → s.age.snap = some x ∧ x.step = 2 ∧ s.inFlight x.id = false ∧
     s.doneStatus x.id = .ok → OwnLine s (s.halfBase x.gen) ∧ x.header.length = 64 →
    Gives .ledgerSnapshot s fun t =>
      t.age.snap = some { x with step := 3, id := s.freshId } ∧ t.paths.reqXbar = s.paths.reqXbar ++ writeReqs
        s.freshId .firmware .normal 1 (s.halfBase x.gen) (x.header.map some) ∧ t.rd Reg.FW_LEDGER_XSTATUS = s.rd
        Reg.FW_LEDGER_XSTATUS ∧ Keeps s t [.age, .paths, .tags] ∧ KeepsRegs s t tagRegs) ∧
  (∀ (s : State) (x : Snap), s.fwRuns .upkeep = true → s.age.snap = some x ∧ x.step = 3 ∧ s.inFlight x.id = false ∧
     s.doneStatus x.id = .ok →
    Gives .ledgerSnapshot s fun t =>
      t.rd Reg.FW_LEDGER_XSTATUS = BitVec.ofNat 32 x.gen ∧ t.age =
        { s.age with snap := none, snapAt := some s.clk.pkg, recorded := s.age.recorded ++ x.bound } ∧ Logged s t
        [(0x0068, [x.gen, (64 + x.body.length) / 64])] ∧ t.paths =
        { s.paths with done := s.paths.done.filter fun e => e.req.id ≠ x.id } ∧ Keeps s t [.age, .paths, .inbox] ∧
        KeepsRegs s t [Reg.FW_LEDGER_XSTATUS]) ∧
  (∀ (s : State) (x : Snap), s.fwRuns .upkeep = true → s.age.snap = some x ∧ s.inFlight x.id = false ∧ s.doneStatus
     x.id ≠ .ok →
    Gives .ledgerSnapshot s fun t =>
      t.age = { s.age with snap := none, periodDue := true } ∧ t.paths =
        { s.paths with done := s.paths.done.filter fun e => e.req.id ≠ x.id } ∧ Keeps s t [.age, .paths] ∧ KeepsRegs s
        t []) ∧
  (∀ (s : State) (t0 : Nat), s.fwRuns .upkeep = true → s.exportOn = true ∧ s.age.snapAt.getD s.age.serviceAt = t0 → t0
     + s.gf Reg.FW_LEDGER_XCTRL Fld.FW_LEDGER_XCTRL_PERIOD_MIN * 60000000000 ≤ s.clk.pkg →
    Gives .snapshotPeriodExpiry s fun t =>
      t.age = { s.age with periodDue := true } ∧ Keeps s t [.age] ∧ KeepsRegs s t []) ∧
  (∀ s : State, s.exportOn = false ∨ s.clk.pkg < s.age.snapAt.getD s.age.serviceAt + s.gf Reg.FW_LEDGER_XCTRL
     Fld.FW_LEDGER_XCTRL_PERIOD_MIN * 60000000000 →
    Gives .snapshotPeriodExpiry s fun t =>
      t = s) ∧
  (∀ (s : State) (v : Word), Reached s →
    Gives (.snap v) s fun t =>
      t.age = { s.age with wantSnap := true } ∧ t.gf Reg.FW_LEDGER_XCTRL Fld.FW_LEDGER_XCTRL_PERIOD_MIN = max 1
        (v.toNat % 65536) ∧ t.bit Reg.FW_LEDGER_XCTRL Fld.FW_LEDGER_XCTRL_ENABLE = v.getLsbD 30 ∧ Answered s t false ∧
        Keeps s t [.mgt, .age] ∧ KeepsRegs s t [Reg.FW_LEDGER_XCTRL]) ∧
  (∀ (s : State) (x : BitVec 4), Taken s →
    Gives (.cntRun x) s fun t =>
      t.cnt = { s.cnt with
            acts := s.cnt.acts ++ if x.toNat = s.gf Reg.CNT_CTRL Fld.CNT_CTRL_RUN then [] else [((s.clk.pkg + 1523) /
              1024 * 1024, .run x.toNat)] } ∧ t.gf Reg.CNT_CTRL Fld.CNT_CTRL_RUN = x.toNat ∧ t.gf Reg.CNT_CTRL
        Fld.CNT_CTRL_SNAP_DONE = s.gf Reg.CNT_CTRL Fld.CNT_CTRL_SNAP_DONE ∧ Answered s t false ∧ Keeps s t [.mgt, .cnt]
        ∧ KeepsRegs s t [Reg.CNT_CTRL]) ∧
  (∀ (s : State) (x : BitVec 4), Taken s → x ≠ 0 →
    Gives (.cntClear x) s fun t =>
      t.cnt = { s.cnt with acts := s.cnt.acts ++ [((s.clk.pkg + 1523) / 1024 * 1024, .clear x.toNat)] } ∧ t.gf
        Reg.CNT_CTRL Fld.CNT_CTRL_RUN = s.gf Reg.CNT_CTRL Fld.CNT_CTRL_RUN ∧ t.gf Reg.CNT_CTRL Fld.CNT_CTRL_CLEAR = 0 ∧
        Answered s t false ∧ Keeps s t [.mgt, .cnt] ∧ KeepsRegs s t [Reg.CNT_CTRL]) ∧
  (∀ s : State, Taken s →
    Gives .cntSnap s fun t =>
      t.cnt = { s.cnt with acts := s.cnt.acts ++ [((s.clk.pkg + 1523) / 1024 * 1024, .snap)] } ∧ t.gf Reg.CNT_CTRL
        Fld.CNT_CTRL_SNAP_DONE = 0 ∧ t.gf Reg.CNT_CTRL Fld.CNT_CTRL_RUN = s.gf Reg.CNT_CTRL Fld.CNT_CTRL_RUN ∧ Answered
        s t false ∧ Keeps s t [.mgt, .cnt] ∧ KeepsRegs s t [Reg.CNT_CTRL]) ∧
  (∀ (s : State) (t0 : Nat) (l : List (Nat × CntAct)), s.live .sensor = true → s.cnt.acts = (t0, .snap) :: l ∧ t0 ≤
     s.clk.pkg → (∀ e ∈ l, s.clk.pkg < e.1) →
    Gives .counterCapture s fun t =>
      t.cnt = { s.cnt with
            acts := l,
            snap := ((upto 32).map fun k => s.rd64 (Reg.CNT_VAL (k / 8) (k % 8))) ++ (upto 4).map fun u => s.cyclesAt u
              t0 } ∧ t.bit Reg.CNT_CTRL Fld.CNT_CTRL_SNAP_DONE = true ∧ Keeps s t [.cnt] ∧ KeepsRegs s t
        [Reg.CNT_CTRL]) ∧
  (∀ (s : State) (t0 n : Nat) (l : List (Nat × CntAct)), s.live .sensor = true → s.cnt.acts = (t0, .clear n) :: l ∧ t0
     ≤ s.clk.pkg → (∀ e ∈ l, s.clk.pkg < e.1) →
    Gives .counterCapture s fun t =>
      (∀ u i, u < 4 → i < 8 → t.rd64 (Reg.CNT_VAL u i) = if n.testBit u then 0 else s.rd64 (Reg.CNT_VAL u i)) ∧ (∀ u :
        Fin 4, t.rd64 (Reg.CNT_CYCLES u) = (if n.testBit u then 0 else s.rd64 (Reg.CNT_CYCLES u)) ∧ t.cnt.since[u] = if
        n.testBit u then s.cnt.since[u].map (fun _ => t0) else s.cnt.since[u]) ∧ t.cnt.snap = s.cnt.snap ∧ t.cnt.acts =
        l ∧ Keeps s t [.cnt] ∧ KeepsRegs s t (cycleRegs ++ valueRegs)) ∧
  (∀ (s : State) (t0 n : Nat) (l : List (Nat × CntAct)), s.live .sensor = true → s.cnt.acts = (t0, .run n) :: l ∧ t0 ≤
     s.clk.pkg → (∀ e ∈ l, s.clk.pkg < e.1) →
    Gives .counterCapture s fun t =>
      (∀ u : Fin 4, t.cnt.since[u] = (if n.testBit u then some (s.cnt.since[u].getD t0) else none) ∧ t.rd64
        (Reg.CNT_CYCLES u) = if n.testBit u = false ∧ s.cnt.since[u] ≠ none then s.cyclesAt u t0 else s.rd64
        (Reg.CNT_CYCLES u)) ∧ (∀ u i, u < 4 → i < 8 → t.rd64 (Reg.CNT_VAL u i) = s.rd64 (Reg.CNT_VAL u i)) ∧ t.cnt.acts
        = l ∧ Keeps s t [.cnt] ∧ KeepsRegs s t cycleRegs) ∧
  (∀ (s : State), (∀ e ∈ s.cnt.acts, s.clk.pkg < e.1) →
    Gives .counterCapture s fun t =>
      t = s) ∧
  (∀ (s : State) (u : Fin 4) (e : BitVec 10) (x : BitVec 7) (v : Word), s.live .sensor = true → s.cnt.since[u] ≠ none →
     (∀ i : Fin 8, s.chained u i = false) →
    Gives (.counterEvent u e x v) s fun t =>
      (∀ i : Fin 8, t.rd64 (Reg.CNT_VAL u i) = (s.rd64 (Reg.CNT_VAL u i) + if s.cntMatches u i e.toNat x.toNat then
        v.toNat else 0) % 2 ^ 48 ∧ ((t.rd Reg.CNT_STATUS).toNat.testBit (8 * u.val + i.val) = ((s.rd
        Reg.CNT_STATUS).toNat.testBit (8 * u.val + i.val) || decide (2 ^ 48 ≤ s.rd64 (Reg.CNT_VAL u i) + if
        s.cntMatches u i e.toNat x.toNat then v.toNat else 0)))) ∧ (∀ w i, w < 4 → i < 8 → w ≠ u.val → t.rd64
        (Reg.CNT_VAL w i) = s.rd64 (Reg.CNT_VAL w i)) ∧ Keeps s t [] ∧ KeepsRegs s t (Reg.CNT_STATUS :: valueRegs)) ∧
  (∀ (s : State) (u : Fin 4) (e : BitVec 10) (x : BitVec 7) (v : Word), s.cnt.since[u] = none →
    Gives (.counterEvent u e x v) s fun t =>
      t = s) ∧
  (∀ (s : State) (a t0 : Nat), s.live .sensor = true → s.ringOn Reg.CNT_DUMP_RING = true ∧ 0 < s.dumpNs ∧ t0 =
     s.clk.pkg / s.dumpNs * s.dumpNs ∧ s.cnt.dumpAt < t0 → s.cnt.dumpIds = [] → a = s.ringBase Reg.CNT_DUMP_RING + 384
     * ((s.rd Reg.CNT_DUMP_SEQ).toNat % s.ringSlots Reg.CNT_DUMP_RING) → OwnLine s a ∧ OwnLine s (a + 128) ∧ OwnLine s
     (a + 256) →
    Gives .counterDump s fun t =>
      t.paths.reqXbar = s.paths.reqXbar ++ writeReqs s.freshId .firmware .stream 1 (a + 128) ((sliceBytes (s.dumpBytes
        t0) 128 128).map some) ++ writeReqs (s.freshId + 1) .firmware .stream 1 (a + 256) ((sliceBytes (s.dumpBytes t0)
        256 128).map some) ++ writeReqs (s.freshId + 2) .firmware .stream 1 a ((sliceBytes (s.dumpBytes t0) 0 128).map
        some) ∧ t.cnt = { s.cnt with dumpAt := t0, missed := 0, dumpIds := [s.freshId, s.freshId + 1, s.freshId + 2] }
        ∧ t.rd Reg.CNT_DUMP_SEQ = s.rd Reg.CNT_DUMP_SEQ ∧ Keeps s t [.cnt, .paths, .tags] ∧ KeepsRegs s t tagRegs) ∧
  (∀ s : State, s.live .sensor = true → s.ringOn Reg.CNT_DUMP_RING = true ∧ 0 < s.dumpNs ∧ s.cnt.dumpAt < s.clk.pkg /
     s.dumpNs * s.dumpNs → s.cnt.dumpIds = [] ∧ s.shutdown = true →
    Gives .counterDump s fun t =>
      t.cnt = { s.cnt with dumpAt := s.clk.pkg / s.dumpNs * s.dumpNs, missed := s.cnt.missed + 1 } ∧ Keeps s t [.cnt] ∧
        KeepsRegs s t []) ∧
  (∀ (s : State) (b : List Byte) (rest : List (List Byte)) (a : Nat), s.live .sensor = true → s.tags.wait = b :: rest ∧
     s.tags.live = [] ∧ s.cnt.tagIds = [] → s.ringOpen Reg.CNT_TAG_RING = true → a = s.ringBase Reg.CNT_TAG_RING + 64 *
     (leNat (sliceBytes b 52 4) % s.ringSlots Reg.CNT_TAG_RING) → OwnLine s a ∧ b.length = 64 →
    Gives .sampleRecord s fun t =>
      t.tags.wait = rest ∧ t.cnt = { s.cnt with tagIds := [s.freshId] } ∧ t.paths.reqXbar = s.paths.reqXbar ++
        writeReqs s.freshId .firmware .stream 1 a (b.map some) ∧ Keeps s t [.cnt, .paths, .tags] ∧ KeepsRegs s t
        tagRegs) ∧
  (∀ s : State, s.live .sensor = true → s.tags.wait = [] ∧ s.cnt.tagIds = [] →
    Gives .sampleRecord s fun t =>
      Keeps s t [] ∧ KeepsRegs s t []) ∧
  (∀ (s : State) (f : List (BitVec 32)), s.fwRuns .steward = true → s.age.baselines ≠ [] →
    Gives (.monitorRead f) s fun t =>
      t.gf Reg.FW_AGEING_DRIFT Fld.FW_AGEING_DRIFT_D = min 65535 (driftOf (f.map BitVec.toNat) s.age.baselines) ∧ Keeps
        s t [] ∧ KeepsRegs s t [Reg.FW_AGEING_DRIFT]) ∧
  (∀ (s : State) (x : Snap), s.fwRuns .upkeep = true → s.age.snap = some x ∧ x.step = 1 ∧ s.inFlight x.id = false ∧
     s.doneStatus x.id = .ok →
    Gives .ledgerSnapshot s fun t =>
      t.age = { s.age with snap := some { x with step := 2, id := s.freshId } } ∧ t.rd Reg.FW_LEDGER_XSTATUS = s.rd
        Reg.FW_LEDGER_XSTATUS ∧ Keeps s t (.age :: pathRegions) ∧ KeepsRegs s t pathRegs) ∧
  (∀ (s : State), s.age.snap = none → s.exportOn = false ∨ s.snapDue = false ∨ s.phase ≠ 8 →
    Gives .ledgerSnapshot s fun t =>
      t = s) ∧
  (∀ s : State, Taken s →
    Gives (.cntClear 0) s fun t =>
      t.cnt = s.cnt ∧ t.gf Reg.CNT_CTRL Fld.CNT_CTRL_RUN = s.gf Reg.CNT_CTRL Fld.CNT_CTRL_RUN ∧ Answered s t false ∧
        Keeps s t [.mgt] ∧ KeepsRegs s t [Reg.CNT_CTRL]) ∧
  (∀ (s : State) (e : BitVec 10) (x : BitVec 7) (v : Word) (u : Fin 4) (q : Nat), s.live .sensor = true →
     s.cnt.since[u] ≠ none → s.chained u 1 = true → q = (if s.cntMatches u 0 e.toNat x.toNat then v.toNat else 0) →
    Gives (.counterEvent u e x v) s fun t =>
      t.rd64 (Reg.CNT_VAL u 0) = (s.rd64 (Reg.CNT_VAL u 0) + q) % 2 ^ 48 ∧ t.rd64 (Reg.CNT_VAL u 1) = (s.rd64
        (Reg.CNT_VAL u 1) + (s.rd64 (Reg.CNT_VAL u 0) + q) / 2 ^ 48) % 2 ^ 48 ∧ Keeps s t [] ∧ KeepsRegs s t
        (Reg.CNT_STATUS :: valueRegs)) ∧
  (∀ s : State, s.live .sensor = true → s.ringOn Reg.CNT_DUMP_RING = true ∧ 0 < s.dumpNs ∧ s.cnt.dumpAt < s.clk.pkg /
     s.dumpNs * s.dumpNs → s.dumpDone = false →
    Gives .counterDump s fun t =>
      t.cnt = { s.cnt with dumpAt := s.clk.pkg / s.dumpNs * s.dumpNs, missed := s.cnt.missed + 1 } ∧ Keeps s t [.cnt] ∧
        KeepsRegs s t []) ∧
  (∀ s : State, s.live .sensor = true → s.ringOn Reg.CNT_DUMP_RING = true ∧ 0 < s.dumpNs ∧ s.cnt.dumpAt < s.clk.pkg /
     s.dumpNs * s.dumpNs → s.cnt.dumpIds ≠ [] ∧ s.dumpDone = true → (∀ i ∈ s.cnt.dumpIds, s.doneStatus i = .ok) →
    Gives .counterDump s fun t =>
      t.rd Reg.CNT_DUMP_SEQ = s.rd Reg.CNT_DUMP_SEQ + 1 ∧ t.bit Reg.CNT_DUMP_CFG Fld.CNT_DUMP_CFG_DUMP_FAULT = s.bit
        Reg.CNT_DUMP_CFG Fld.CNT_DUMP_CFG_DUMP_FAULT ∧ t.cnt.dumpAt = s.clk.pkg / s.dumpNs * s.dumpNs ∧ t.cnt.missed =
        (if s.shutdown then s.cnt.missed + 1 else 0) ∧ Keeps s t (.cnt :: pathRegions) ∧ KeepsRegs s t
        (Reg.CNT_DUMP_SEQ :: pathRegs)) ∧
  (∀ (s : State) (i : Nat), s.live .sensor = true → s.ringOn Reg.CNT_DUMP_RING = true ∧ 0 < s.dumpNs ∧ s.cnt.dumpAt <
     s.clk.pkg / s.dumpNs * s.dumpNs → i ∈ s.cnt.dumpIds ∧ s.dumpDone = true ∧ s.doneStatus i ≠ .ok →
    Gives .counterDump s fun t =>
      t.rd Reg.CNT_DUMP_SEQ = s.rd Reg.CNT_DUMP_SEQ ∧ t.bit Reg.CNT_DUMP_CFG Fld.CNT_DUMP_CFG_DUMP_FAULT = true ∧ t.cnt
        = { s.cnt with dumpAt := s.clk.pkg / s.dumpNs * s.dumpNs, missed := s.cnt.missed + 1, dumpIds := [] } ∧ Keeps s
        t [.cnt, .paths] ∧ KeepsRegs s t [Reg.CNT_DUMP_CFG]) ∧
  (∀ s : State, s.ringOn Reg.CNT_DUMP_RING = false ∨ (0 < s.dumpNs ∧ s.clk.pkg / s.dumpNs * s.dumpNs ≤ s.cnt.dumpAt) →
    Gives .counterDump s fun t =>
      t = s) ∧
  (∀ (s : State) (i : Nat), s.live .sensor = true → s.tags.wait = [] ∧ s.cnt.tagIds = [i] ∧ s.inFlight i = false ∧
     s.doneStatus i ≠ .ok →
    Gives .sampleRecord s fun t =>
      t.bit Reg.CNT_DUMP_CFG Fld.CNT_DUMP_CFG_TAG_FAULT = true ∧ t.cnt = { s.cnt with tagIds := [] } ∧ t.tags.wait = []
        ∧ Keeps s t [.cnt, .paths] ∧ KeepsRegs s t [Reg.CNT_DUMP_CFG]) ∧
  (∀ s : State, s.live .sensor = true → s.cnt.tagIds = [] ∧ s.ringOpen Reg.CNT_TAG_RING = false →
    Gives .sampleRecord s fun t =>
      t.tags = s.tags ∧ Keeps s t [] ∧ KeepsRegs s t []) ∧
  (∀ (s : State) (x : Snap), s.age.snap = some x ∧ s.inFlight x.id = true →
    Gives .ledgerSnapshot s fun t =>
      t = s)

/-! ### Repair (17) -/

/-- Every rank but those listed has the state it had (R470). -/
  abbrev Sys2Proof.Machine.KeepsRanks (s t : State) (except : List Nat) : Prop :=
    ∀ r : Fin 256, r.val ∉ except → t.rankState r = s.rankState r

/-- Burst `i` of unit `u` of a rank (R449). -/
  abbrev Sys2Proof.Machine.unitBurst (rank u i : Nat) : Loc := { rank := rank, bg := u / 4 % 4, bank := u % 4, row := u / 16, col := i }

/-- The 16 accesses of a class-6 run of a channel on a unit of a rank, with their data and poison (R148, R449, R453). -/
  abbrev Sys2Proof.Machine.runAccesses (id rank u : Nat) (write : Bool) (owner : Owner) (d : Nat → Bool × List Byte) : List (Nat × Access) :=
    (upto 16).map fun i => (rank % 64,
      { id := id + i, cls := 6, loc := unitBurst rank u i, addr := none, write := write, data := (d i).2,
        mask := List.replicate 64 true, poison := (d i).1, owner := owner })

/-- The column commands of a controller's last 64 cycles in their original order, oldest first (R439). -/
  abbrev Sys2Proof.Machine.lastCommands (c : Pc) : List Driven := (c.recent.filter fun d => c.cycle ≤ d.at_ + 64).reverse

/-- A replay of some commands that is about to begin (R439, R440). -/
  abbrev Sys2Proof.Machine.begun (l : List Driven) (failed : Bool) : Replay := { items := l, left := l, closing := true, failed := failed }

/-- A driven write once more, with the poison code (R440). -/
  abbrev Sys2Proof.Machine.Driven.poisoned (d : Driven) : Driven := { d with acc := { d.acc with poison := true } }


/-- A cause on a rank is recorded with the time (R445, R458). -/
  abbrev Sys2Proof.Machine.State.causesWith (s : State) (r : Nat) : List (Nat × Nat) :=
    (s.age.causeAt.filter fun e => decide (e.1 ≠ r ∧ s.clk.pkg ≤ e.2 + 1000000000)) ++ [(r, s.clk.pkg)]

/-- A rank may take a cause as a move of its own: data is on it, its PC stays, it is not asked for, and another data rank of its
  PC has had no cause (R445, R458). -/
  abbrev Sys2Proof.Machine.MayMove (s : State) (r j : Nat) : Prop :=
    (s.rankState r = 0 ∨ s.rankState r = 7) ∧ s.leaving (r % 64) = false ∧ s.inbox.unlace.contains (r % 64) = false ∧
      s.moveAsked r = false ∧ j < s.groups ∧ j * 64 + r % 64 ≠ r ∧ s.inService (j * 64 + r % 64) = true ∧
      s.age.causeAt.any (fun e => e.1 = j * 64 + r % 64) = false

/-- A slice has failed for a condition: status, log, and no other slice is touched (R462). -/
  abbrev Sys2Proof.Machine.SliceFailed (s t : State) (sl : Fin 16) (k : Nat) : Prop :=
    t.bit Reg.PC_REPAIR_EVENT Fld.PC_REPAIR_EVENT_SLICE_FAIL = true ∧ Logged s t [(0x0077, [sl.val, k])] ∧
      t.pwr = { s.pwr with sliceFailed := s.pwr.sliceFailed ++ [sl.val] } ∧ ∀ m, m ≠ sl → t.paths.slices[m] = s.paths.slices[m]

/-- A slice has not failed, and one more may be fenced (R207, R462). -/
  abbrev Sys2Proof.Machine.MayFence (s : State) (sl : Fin 16) : Prop :=
    s.pwr.sliceFailed.contains sl.val = false ∧ s.fenced.testBit sl = false ∧ s.fencePending.testBit sl = false ∧
      onesBelow 16 (s.fenced ||| s.fencePending) < 4

/-- A control message of the ring is a request for a move (R446). -/
  def Sys2Proof.Machine.isRebindRequest (e : Nat × Ctl) : Bool :=
    match e.2 with
    | .rebindRequest _ _ _ => true
    | _ => false

/-- A parity signal begins the replay of the commands of the last 64 cycles, during which nothing is granted and each
column command is driven again; a second one completes its reads poisoned, writes its writes again poisoned and is a
cause (R439, R440, R442). Causes 1 to 3 start at once, 4 to 7 ask for approval, and one on a rank that moves or is
retired is logged, its code being the build's (R445, R446). A move takes the lowest free reserve rank on another PC
and enters COPYING on a free channel (R447, R448); the copier reads a unit and writes it, WM advances, and a SYNCED
entry becomes BOUND (R449, R454). An unlaced PC's domain is off once none of its ranks carries data (R457). A failed
slice is fenced, an error of its data array poisons the sector, a failed instance completes its requests with ABSENT
(R462, R463). A write of an injector clamps RATE and keeps its count. Forms stated to complete (exec answers next):
caParityError, repairCause, moveApproval, moveStart, copierRun, wmAdvance, moveBind, unlace, unlaceComplete,
sliceFail, instanceFail, parityInjection, d2dInjection, remoteInjection, slotGrant, commandSelect. -/
def Obligations.RepairAndFailures : Prop :=
  (∀ (s : State) (p : Fin 64) (k : Fin 4) (r : RqEntry) (d : Driven), s.live (.pc p) = true → s.pcs[p].replay = none ∧
     s.pcs[p].rq = [r] ∧ s.pcs[p].wq = [] ∧ s.pcs[p].recent = [d] → d.write = false ∧ d.acc = r.acc ∧ s.pcs[p].cycle ≤
     d.at_ + 64 → s.bit Reg.PC_FEC_INFO Fld.PC_FEC_INFO_VALID = false ∧ s.inbox.parity = [] → s.gf Reg.FW_REPAIR_CFG
     Fld.FW_REPAIR_CFG_CA_RANK_LIMIT ≥ 2 →
    Gives (.caParityError p k) s fun t =>
      t.bit (Reg.PC_ECC_STATUS p) Fld.PC_ECC_STATUS_CA_ERR = true ∧ t.bit Reg.PC_FEC_INFO Fld.PC_FEC_INFO_VALID = true
        ∧ t.pcs[p] =
        { s.pcs[p] with rq := [{ r with issuedAt := none, image := [] }], replay := some (begun [d] false) } ∧ t.inbox
        = { s.inbox with parity := [(k.val * 64 + p.val, s.clk.pkg)] } ∧ (∀ q, q ≠ p → t.pcs[q] = s.pcs[q]) ∧ Keeps s t
        [.pcs, .inbox] ∧ KeepsRegs s t (Reg.PC_ECC_STATUS p :: fecRegs)) ∧
  (∀ (s : State) (p : Fin 64) (k : Fin 4) (w : WqEntry) (d : Driven) (x : Replay), s.live (.pc p) = true →
     s.pcs[p].replay = some x ∧ x.failed = false ∧ x.items = [d] ∧ d.write = true → d.acc.id = w.acc.id ∧ d.acc.owner =
     w.acc.owner ∧ s.pcs[p].rq = [] ∧ s.pcs[p].wq = [w] → s.inbox.parity = [] →
    Gives (.caParityError p k) s fun t =>
      t.bit (Reg.PC_ECC_STATUS p) Fld.PC_ECC_STATUS_CA_ERR = true ∧ t.bit (Reg.PC_ECC_STATUS p)
        Fld.PC_ECC_STATUS_CA_FAIL = true ∧ t.pcs[p] = { s.pcs[p] with
            wq := [{ w with issuedAt := none, retryFailed := true, acc := { w.acc with poison := true } }],
            replay := some (begun [d.poisoned] true) } ∧ t.inbox = { s.inbox with
            parity := [(k.val * 64 + p.val, s.clk.pkg)], causes := s.inbox.causes ++ [(k.val * 64 + p.val, 2)] } ∧ (∀
        q, q ≠ p → t.pcs[q] = s.pcs[q]) ∧ Keeps s t [.pcs, .inbox] ∧ KeepsRegs s t (Reg.PC_ECC_STATUS p :: fecRegs)) ∧
  (∀ (s : State) (r q j : Nat) (l : List (Nat × Nat)), s.fwRuns .upkeep = true → s.inbox.causes = (r, q) :: l ∧ q ≤ 3 →
     MayMove s r j →
    Gives .repairCause s fun t =>
      t.inbox = { s.inbox with causes := l } ∧ t.age =
        { s.age with causeAt := s.causesWith r, starting := s.age.starting ++ [(r, q)] } ∧ Keeps s t [.inbox, .age] ∧
        KeepsRegs s t []) ∧
  (∀ (s : State) (r q j : Nat) (l : List (Nat × Nat)), s.fwRuns .upkeep = true → s.inbox.causes = (r, q) :: l ∧ 4 ≤ q →
     MayMove s r j → s.isCaptain = true ∨ s.count ≤ 1 →
    Gives .repairCause s fun t =>
      t.inbox = { s.inbox with causes := l } ∧ t.age =
        { s.age with causeAt := s.causesWith r, asked := s.age.asked ++ [(r, q)] } ∧ t.ring =
        { s.ring with inbox := s.ring.inbox ++ [(s.self, .rebindRequest s.self r q)] } ∧ Keeps s t [.inbox, .age,
        .ring] ∧ KeepsRegs s t []) ∧
  (∀ (s : State) (r q : Nat) (l : List (Nat × Nat)), s.fwRuns .upkeep = true → s.inbox.causes = (r, q) :: l →
     s.rankState r ≠ 0 ∧ s.rankState r ≠ 7 →
    Gives .repairCause s fun t =>
      t.inbox.causes = l ∧ t.age =
        { s.age with later := if s.rankState r = 6 then s.age.later ++ [(r, q)] else s.age.later } ∧ (s.rankState r = 1
        ∨ s.rankState r = 2 ∨ s.rankState r = 3 → Logged s t [(0x8000 + Config.idleCauseCode.toNat, [r, q])]) ∧ Keeps s
        t [.inbox, .age] ∧ KeepsRegs s t []) ∧
  (∀ (s : State) (r q i : Nat) (x : BitVec 8), s.fwRuns .steward = true → (s.isCaptain = true ∨ s.count ≤ 1) ∧
     s.ring.inbox = [(i, .rebindRequest s.self r q)] ∧ s.pkg.deferred = [] → s.movesRunning + x.toNat < s.gf
     Reg.FW_REPAIR_CFG Fld.FW_REPAIR_CFG_PKG_PLANNED → s.gf Reg.FW_REPAIR_CFG Fld.FW_REPAIR_CFG_RESERVE_KEEP + 1 ≤
     s.freeReserve s.self →
    Gives (.moveApproval x) s fun t =>
      t.ring = { s.ring with inbox := [(s.self, .rebindAnswer s.self r true)] } ∧ Keeps s t [.ring] ∧ KeepsRegs s t [])
        ∧
  (∀ (s : State) (r q i : Nat) (x : BitVec 8), s.fwRuns .steward = true → (s.isCaptain = true ∨ s.count ≤ 1) ∧
     s.ring.inbox = [(i, .rebindRequest s.self r q)] ∧ s.pkg.deferred = [] → s.freeReserve s.self ≤ s.gf
     Reg.FW_REPAIR_CFG Fld.FW_REPAIR_CFG_RESERVE_KEEP →
    Gives (.moveApproval x) s fun t =>
      t.ring = { s.ring with inbox := [] } ∧ t.pkg = { s.pkg with deferred := [(s.self, r, q, s.clk.pkg)] } ∧ Logged s
        t [(0x007A, [r, if s.movesRunning + x.toNat < s.gf Reg.FW_REPAIR_CFG Fld.FW_REPAIR_CFG_PKG_PLANNED then 1 else
        0])] ∧ Keeps s t [.ring, .pkg, .inbox] ∧ KeepsRegs s t []) ∧
  (∀ (s : State) (r q g : Nat) (l : List (Nat × Nat)), s.fwRuns .upkeep = true → s.ring.inbox = [] ∧ s.age.starting =
     (r, q) :: l ∧ r < 256 ∧ q < 16 → s.rankState r = 0 ∧ s.groups ≤ 4 ∧ g < 64 * s.groups → (∀ e, e < 16 → (s.redir
     e).valid = false) → s.rankState g = 4 ∧ g % 64 ≠ r % 64 ∧ s.leaving (g % 64) = false → (∀ h, h < g → ¬
     (s.rankState h = 4 ∧ h % 64 ≠ r % 64 ∧ s.leaving (h % 64) = false)) →
    Gives .moveStart s fun t =>
      t.redir 0 =
        { valid := true, state := .copying, cause := q, origin := r, src := r, dst := g, redo := false, wm := 0 } ∧
        t.rankState r = 1 ∧ t.rankState g = 6 ∧ KeepsRanks s t [r, g] ∧ t.copiers[0] = CopyChan.init ∧ (∀ k : Fin 16, k
        ≠ 0 → t.copiers[k] = s.copiers[k]) ∧ t.bit Reg.PC_REPAIR_EVENT Fld.PC_REPAIR_EVENT_MOVE_STARTED = true ∧ Logged
        s t [(0x0070, [0, r, g, q])] ∧ t.age.starting = l ∧ Keeps s t [.age, .inbox, .copiers] ∧ KeepsRegs s t
        (Reg.PC_REPAIR_EVENT :: redirRegs 0 ++ rankRegs)) ∧
  (∀ (s : State) (r q : Nat) (l : List (Nat × Nat)), s.fwRuns .upkeep = true → s.ring.inbox = [] ∧ s.age.starting = (r,
     q) :: l → s.rankState r = 0 ∧ s.groups ≤ 4 → (∀ e, e < 16 → (s.redir e).valid = false) → (∀ g, g < 256 →
     s.rankState g ≠ 4 ∧ s.rankState g ≠ 5) →
    Gives .moveStart s fun t =>
      t.rankState r = 3 ∧ KeepsRanks s t [r] ∧ t.bit Reg.PC_REPAIR_EVENT Fld.PC_REPAIR_EVENT_RESERVE_EXHAUSTED = true ∧
        Logged s t [(0x0075, [r])] ∧ t.age = { s.age with starting := l } ∧ Keeps s t [.age, .inbox] ∧ KeepsRegs s t
        (Reg.PC_REPAIR_EVENT :: rankRegs)) ∧
  (∀ (s : State) (sl : Fin 16) (r : Redir) (p : Fin 64), r = s.redir sl ∧ p = pcFin r.src ∧ s.live (.pc p) = true →
     r.valid = true ∧ r.state = .copying ∧ r.wm < 393216 ∧ s.shutdown = false ∧ s.pwr.quiesced = false ∧ s.fwRuns
     .upkeep = true → s.copiers[sl].phase = .idle ∧ (s.paths.rets.filter fun x => x.owner = .copyRead sl) = [] ∧
     s.runFree p = true →
    Gives (.copierRun sl) s fun t =>
      t.paths.memXbar = s.paths.memXbar ++ runAccesses s.freshId r.src r.wm false (.copyRead sl) (fun _ => (false,
        zeros 64)) ∧ t.paths.nextId = s.freshId + 16 ∧ t.copiers[sl].phase = .reading ∧ t.copiers[sl].got = [] ∧
        (t.pcs[p].run6.map fun x => (x.write, x.len)) = some (false, 16) ∧ t.pcs[p].lastRun6 = some s.pcs[p].cycle ∧
        t.redir sl = r ∧ (∀ q, q ≠ p → t.pcs[q] = s.pcs[q]) ∧ Keeps s t [.pcs, .paths, .copiers] ∧ KeepsRegs s t []) ∧
  (∀ (s : State) (sl : Fin 16) (r : Redir) (g : Nat → Bool) (f : Nat → List Byte), r = s.redir sl ∧ s.live (.pc (pcFin
     r.src)) = true → r.valid = true ∧ r.state = .copying ∧ r.wm < 393216 ∧ s.shutdown = false ∧ s.pwr.quiesced = false
     ∧ s.fwRuns .upkeep = true → s.copiers[sl].phase = .reading ∧ s.copiers[sl].got = (upto 16).map (fun i => (i, g i,
     f i)) ∧ (s.paths.rets.filter fun x => x.owner = .copyRead sl) = [] ∧ s.runFree (pcFin r.dst) = true →
    Gives (.copierRun sl) s fun t =>
      t.paths.memXbar = s.paths.memXbar ++ runAccesses s.freshId r.dst r.wm true (.copyWrite sl) (fun i => (g i ||
        s.pcs[pcFin r.src].knownBad.contains (unitBurst r.src r.wm i).burst, f i)) ∧ t.paths.nextId = s.freshId + 16 ∧
        t.copiers[sl].phase = .writing ∧ t.copiers[sl].written = 0 ∧ (t.pcs[pcFin r.dst].run6.map fun x => (x.write,
        x.len)) = some (true, 16) ∧ t.redir sl = r ∧ (∀ q, q ≠ pcFin r.dst → t.pcs[q] = s.pcs[q]) ∧ Keeps s t [.pcs,
        .paths, .copiers] ∧ KeepsRegs s t []) ∧
  (∀ (s : State) (sl : Fin 16), (s.redir sl).valid = false ∨ s.shutdown = true ∨ s.fwRuns .upkeep = false →
    Gives (.copierRun sl) s fun t =>
      t = s) ∧
  (∀ (s : State) (sl : Fin 16) (r : Redir), r = s.redir sl ∧ s.live (.pc (pcFin r.src)) = true → r.valid = true ∧
     r.state = .copying ∧ r.wm < 393216 → s.copiers[sl].phase = .writing ∧ 16 ≤ s.copiers[sl].written →
    Gives (.wmAdvance sl) s fun t =>
      t.redir sl = (if r.redo then { r with redo := false } else
        { r with wm := r.wm + 1, state := if r.wm + 1 = 393216 then .synced else .copying }) ∧ t.copiers[sl] =
        { CopyChan.init with copies := if r.redo then s.copiers[sl].copies + 1 else 0 } ∧ (∀ k : Fin 16, k ≠ sl →
        t.copiers[k] = s.copiers[k]) ∧ Keeps s t [.copiers] ∧ KeepsRegs s t (redirRegs sl)) ∧
  (∀ (s : State) (sl : Fin 16) (r : Redir), s.fwRuns .upkeep = true → r = s.redir sl ∧ r.valid = true ∧ r.state =
     .synced ∧ r.src ≠ r.dst → (s.exportOn = false ∨ s.age.recorded.contains sl.val = true) ∧ s.age.later = [] →
    Gives (.moveBind sl) s fun t =>
      t.redir sl = { r with state := .bound } ∧ t.rankState r.src = 2 ∧ t.rankState r.dst = 7 ∧ KeepsRanks s t [r.src,
        r.dst] ∧ t.bit Reg.PC_REPAIR_EVENT Fld.PC_REPAIR_EVENT_MOVE_BOUND = true ∧ Logged s t [(0x0071, [sl.val, r.src,
        r.dst])] ∧ (∀ b ∈ t.pcs[pcFin r.src].knownBad, b / (rowsPerBank * 256) ≠ r.src) ∧ (∀ x ∈ t.pcs[pcFin
        r.src].rowh, x.2.valid = true ∧ x.2.layer = r.src / 64 → x.2.cls = 5) ∧ t.age.recorded = s.age.recorded.filter
        (· ≠ sl.val) ∧ t.age.eventAt = some (s.age.eventAt.getD s.clk.pkg) ∧ (∀ q, q ≠ pcFin r.src → t.pcs[q] =
        s.pcs[q]) ∧ Keeps s t [.pcs, .inbox, .age] ∧ KeepsRegs s t (Reg.PC_REPAIR_EVENT :: redirRegs sl ++ rankRegs)) ∧
  (∀ (s : State) (l : List Nat) (p : Fin 64), s.fwRuns .upkeep = true → s.inbox.unlace = p.val :: l ∧ s.leaving p =
     false → (∀ e, e < 16 → (s.redir e).valid = false) → (∀ j, j < s.groups → s.rankState (j * 64 + p.val) = 0) →
    Gives .unlace s fun t =>
      t.rd64 Reg.PC_UNLACING = s.rd64 Reg.PC_UNLACING ||| 2 ^ p.val ∧ t.inbox.unlace = l ∧ t.bit Reg.PC_REPAIR_EVENT
        Fld.PC_REPAIR_EVENT_UNLACE_STARTED = true ∧ Logged s t [(0x0073, [p.val, 3])] ∧ t.age.starting =
        (s.age.starting.filter fun x => x.1 % 64 ≠ p.val) ++ (upto s.groups).map (fun j => (j * 64 + p.val, 3)) ∧
        t.age.asked = (s.age.asked.filter fun x => x.1 % 64 ≠ p.val) ∧ Keeps s t [.inbox, .age] ∧ KeepsRegs s t
        [Reg.PC_UNLACING, Reg.PC_UNLACING + 4, Reg.PC_REPAIR_EVENT]) ∧
  (∀ (s : State) (p : Fin 64), s.fwRuns .upkeep = true → (s.rd64 Reg.PC_UNLACING).testBit p = true → (∀ j, j < s.groups
     → s.rankState (j * 64 + p.val) ∈ [2, 4, 5, 8, 9]) →
    Gives (.unlaceComplete p) s fun t =>
      (t.rd64 Reg.PC_UNLACING).testBit p = false ∧ t.rd64 Reg.PC_UNLACED = s.rd64 Reg.PC_UNLACED ||| 2 ^ p.val ∧ t.dom
        (Island.domain (.pc p)) = .off ∧ t.up (.pc p) = false ∧ (∀ q, q ≠ p → t.up (.pc q) = s.up (.pc q)) ∧ t.bit
        Reg.PC_REPAIR_EVENT Fld.PC_REPAIR_EVENT_UNLACED = true ∧ Logged s t [(0x0074, [p.val])] ∧ Keeps s t [.pwr, .fw,
        .inbox] ∧ KeepsRegs s t [Reg.PC_UNLACING, Reg.PC_UNLACING + 4, Reg.PC_UNLACED, Reg.PC_UNLACED + 4,
        Reg.PC_REPAIR_EVENT, Reg.THERM_DOM_STATE (p.val / 16)]) ∧
  (∀ (s : State) (sl : Fin 16) (k : Fin 4) (x : BitVec 52), s.live (.slice sl) = true → MayFence s sl ∧ s.sliceIdle sl
     = false ∧ (k = 0 ∨ k = 3) →
    Gives (.sliceFail sl k x) s fun t =>
      SliceFailed s t sl k.val ∧ t.fencePending.testBit sl = true ∧ t.paths.slices[sl] =
        { s.paths.slices[sl] with fence := .draining s.clk.pkg } ∧ Keeps s t [.pwr, .inbox, .paths] ∧ KeepsRegs s t
        (Reg.PC_REPAIR_EVENT :: Reg.CACHE_FENCE :: fecRegs)) ∧
  (∀ (s : State) (sl : Fin 16) (k : Fin 4) (x : BitVec 52), s.pwr.sliceFailed.contains sl.val = true ∧ (k = 0 ∨ k = 3)
     →
    Gives (.sliceFail sl k x) s fun t =>
      t = s) ∧
  (∀ (s : State) (cut : Bool) (r : Req) (i : Fin 16), s.fwRuns .upkeep = true → s.pwr.failed = false ∧ (cut = true ∨ 5
     ≤ s.pwr.sliceFailed.length) → s.paths.reqXbar = [r] ∧ s.paths.fenceWait = [] ∧ r.src = .host i →
    Gives (.instanceFail cut) s fun t =>
      t.pwr = { s.pwr with failed := true } ∧ t.bit Reg.FW_STATUS Fld.FW_STATUS_DEGRADED = true ∧ t.bit
        Reg.PC_REPAIR_EVENT Fld.PC_REPAIR_EVENT_INSTANCE_FAIL = true ∧ Logged s t [(0x0078, [if cut then 1 else 0])] ∧
        Answers s t i r .absent [] ∧ t.paths.reqXbar = [] ∧ t.paths.slices = s.paths.slices ∧ Keeps s t [.pwr, .inbox,
        .paths, .tags] ∧ KeepsRegs s t [Reg.FW_STATUS, Reg.PC_REPAIR_EVENT]) ∧
  (∀ (s : State) (cut : Bool), s.pwr.failed = true ∨ (cut = false ∧ s.pwr.sliceFailed.length < 5) →
    Gives (.instanceFail cut) s fun t =>
      t = s) ∧
  (∀ (s : State) (v : Word), Taken s →
    Gives (.parityInjection v) s fun t =>
      t.gf Reg.PC_INJ Fld.PC_INJ_ENABLE = v.toNat / 2 ^ 31 ∧ t.gf Reg.PC_INJ Fld.PC_INJ_PC = v.toNat / 2 ^ 25 % 64 ∧
        t.gf Reg.PC_INJ Fld.PC_INJ_RATE = min 20 (v.toNat / 2 ^ 20 % 32) ∧ t.gf Reg.PC_INJ Fld.PC_INJ_GROUP = v.toNat /
        2 ^ 17 % 4 ∧ t.gf Reg.PC_INJ Fld.PC_INJ_INJECTED = s.gf Reg.PC_INJ Fld.PC_INJ_INJECTED ∧ Answered s t false ∧
        Keeps s t [.mgt] ∧ KeepsRegs s t [Reg.PC_INJ]) ∧
  (∀ (s : State) (east : Bool) (v : Word), s.mgtReady = true ∧ s.live (.d2d east) = true →
    Gives (.d2dInjection east v) s fun t =>
      t.gf (Reg.D2D_INJ (portNo east)) Fld.D2D_INJ_ENABLE = (if v.toNat / 2 ^ 29 % 4 = 3 ∨ s.portMode east ≠ 1 then 0
        else v.toNat / 2 ^ 31) ∧ t.gf (Reg.D2D_INJ (portNo east)) Fld.D2D_INJ_RATE = min 20 (v.toNat / 2 ^ 17 % 32) ∧
        t.gf (Reg.D2D_INJ (portNo east)) Fld.D2D_INJ_INJECTED = s.gf (Reg.D2D_INJ (portNo east)) Fld.D2D_INJ_INJECTED ∧
        t.bit (Reg.D2D_INJ (portNo east)) Fld.D2D_INJ_REFUSED = (decide (2 ^ 31 ≤ v.toNat ∧ (v.toNat / 2 ^ 29 % 4 = 3 ∨
        s.portMode east ≠ 1)) || (!v.getLsbD 16 && s.bit (Reg.D2D_INJ (portNo east)) Fld.D2D_INJ_REFUSED)) ∧ Answered s
        t false ∧ Keeps s t [.mgt] ∧ KeepsRegs s t [Reg.D2D_INJ (portNo east)]) ∧
  (∀ (s : State) (n : Fin 8) (v : Word), s.mgtReady = true ∧ s.live .remote = true →
    Gives (.remoteInjection n v) s fun t =>
      t.gf (Reg.RMT_INJ n) Fld.RMT_INJ_ENABLE = (if v.toNat / 2 ^ 29 % 4 = 3 ∨ (v.toNat / 2 ^ 29 % 4 = 1 ∧ v.getLsbD 28
        = true) then 0 else v.toNat / 2 ^ 31) ∧ t.gf (Reg.RMT_INJ n) Fld.RMT_INJ_RATE = min 20 (v.toNat / 2 ^ 23 % 32)
        ∧ t.gf (Reg.RMT_INJ n) Fld.RMT_INJ_CLASSES = v.toNat / 2 ^ 15 % 256 ∧ t.gf (Reg.RMT_INJ n) Fld.RMT_INJ_INJECTED
        = s.gf (Reg.RMT_INJ n) Fld.RMT_INJ_INJECTED ∧ Answered s t false ∧ Keeps s t [.mgt] ∧ KeepsRegs s t
        [Reg.RMT_INJ n]) ∧
  (∀ (s : State) (p : Fin 64) (k : Fin 4), s.live (.pc p) = true → s.pcs[p].replay = none →
    Gives (.caParityError p k) s fun t =>
      t.bit (Reg.PC_ECC_STATUS p) Fld.PC_ECC_STATUS_CA_ERR = true ∧ t.bit (Reg.PC_ECC_STATUS p)
        Fld.PC_ECC_STATUS_CA_FAIL = s.bit (Reg.PC_ECC_STATUS p) Fld.PC_ECC_STATUS_CA_FAIL ∧ t.pcs[p] =
        { s.pcs[p] with rq := t.pcs[p].rq, wq := t.pcs[p].wq, replay := some (begun (lastCommands s.pcs[p]) false) } ∧
        t.pcs[p].rq.map (·.acc) = s.pcs[p].rq.map (·.acc) ∧ t.pcs[p].wq.map (·.acc) = s.pcs[p].wq.map (·.acc) ∧ (k.val
        * 64 + p.val, s.clk.pkg) ∈ t.inbox.parity ∧ (∀ q, q ≠ p → t.pcs[q] = s.pcs[q]) ∧ Keeps s t [.pcs, .inbox, .age]
        ∧ KeepsRegs s t (Reg.PC_ECC_STATUS p :: fecRegs)) ∧
  (∀ (s : State) (p : Fin 64) (k : Fin 4) (x : Replay), s.live (.pc p) = true → s.pcs[p].replay = some x ∧ x.failed =
     false → (∀ r ∈ s.pcs[p].rq, ∀ d ∈ x.items, d.acc.id ≠ r.acc.id) →
    Gives (.caParityError p k) s fun t =>
      t.bit (Reg.PC_ECC_STATUS p) Fld.PC_ECC_STATUS_CA_ERR = true ∧ t.bit (Reg.PC_ECC_STATUS p)
        Fld.PC_ECC_STATUS_CA_FAIL = true ∧ t.pcs[p] =
        { s.pcs[p] with wq := t.pcs[p].wq, replay := some (begun ((x.items.filter (·.write)).map (·.poisoned)) true) }
        ∧ (∀ w ∈ t.pcs[p].wq, (∃ d ∈ x.items, d.write = true ∧ d.acc.id = w.acc.id) → w.retryFailed = true ∧
        w.acc.poison = true) ∧ (k.val * 64 + p.val, s.clk.pkg) ∈ t.inbox.parity ∧ (k.val * 64 + p.val, 2) ∈
        t.inbox.causes ∧ (∀ q, q ≠ p → t.pcs[q] = s.pcs[q]) ∧ Keeps s t [.pcs, .inbox, .age] ∧ KeepsRegs s t
        (Reg.PC_ECC_STATUS p :: fecRegs)) ∧
  (∀ (s : State) (p : Fin 64) (k : Fin 4) (r : RqEntry) (b : Fin 32) (tag : Nat) (x : Replay) (d : Driven), s.live (.pc
     p) = true → s.pcs[p].rq = [r] ∧ s.pcs[p].replay = some x ∧ x.failed = false ∧ x.items = [d] ∧ d.write = false ∧
     d.acc = r.acc ∧ r.acc.owner = .bme b tag →
    Gives (.caParityError p k) s fun t =>
      t.bit (Reg.PC_ECC_STATUS p) Fld.PC_ECC_STATUS_CA_FAIL = true ∧ t.pcs[p].rq = [] ∧ t.paths = { s.paths with
            rets := s.paths.rets ++ [{ owner := .bme b tag, loc := r.acc.loc, data := zeros 64, bad := true }] } ∧
        (k.val * 64 + p.val, 2) ∈ t.inbox.causes ∧ (∀ q, q ≠ p → t.pcs[q] = s.pcs[q]) ∧ Keeps s t [.pcs, .paths,
        .inbox, .age] ∧ KeepsRegs s t (Reg.PC_ECC_STATUS p :: fecRegs)) ∧
  (∀ (s : State) (p : Fin 64) (k : Fin 4), s.live (.pc p) = true → (∃ e ∈ s.inbox.parity, s.clk.pkg ≤ e.2 + 1000000000
     ∧ e.1 % 64 = p.val ∧ e.1 ≠ k.val * 64 + p.val) →
    Gives (.caParityError p k) s fun t =>
      p.val ∈ t.age.expedite) ∧
  (∀ (s : State) (p : Fin 64) (k : Fin 4) (x : Replay), s.live (.pc p) = true → s.pcs[p].replay = some x ∧ x.failed =
     true →
    Gives (.caParityError p k) s fun t =>
      t.bit (Reg.PC_ECC_STATUS p) Fld.PC_ECC_STATUS_CA_ERR = true ∧ t.pcs = s.pcs ∧ (k.val * 64 + p.val, s.clk.pkg) ∈
        t.inbox.parity ∧ Keeps s t [.inbox, .age] ∧ KeepsRegs s t (Reg.PC_ECC_STATUS p :: fecRegs)) ∧
  (∀ (s : State) (p : Fin 64), s.pcs[p].replay ≠ none →
    Gives (.slotGrant p) s fun t =>
      t = s) ∧
  (∀ (s : State) (p : Fin 64) (x : Replay) (d : Driven), s.live (.pc p) = true → s.pcs[p].replay = some x ∧ s.cycleRuns
     p = true ∧ s.commandsRun p = true → replayColumn s p s.pcs[p] x = some d ∧ s.pcs[p].holds d = false ∧ s.pcs[p].fwd
     = [] → s.bit Reg.PC_INJ Fld.PC_INJ_ENABLE = false →
    Gives (.commandSelect p) s fun t =>
      t.pcs[p].cycle = s.pcs[p].cycle + 1 ∧ (d.write = true → (∀ i, i < 72 → t.stack.byte d.acc.loc i = (codedBurst
        d.acc.data d.acc.poison).getD i 0) ∧ t.stack.isUndef d.acc.loc = s.stack.absent d.acc.loc) ∧ (∀ (l : Loc) i, i
        < 128 → d.write = false ∨ l.burst ≠ d.acc.loc.burst → t.stack.byte l i = s.stack.byte l i) ∧ (d.write = true ∧
        x.failed = true → s.pcs[pcFin d.acc.loc.pc].knownBad.length < 64 → d.acc.loc.burst ∈ t.pcs[pcFin
        d.acc.loc.pc].knownBad) ∧ (∀ q, q ≠ p → t.pcs[q].rq = s.pcs[q].rq ∧ t.pcs[q].wq = s.pcs[q].wq)) ∧
  (∀ (s : State) (r q j : Nat) (l : List (Nat × Nat)), s.fwRuns .upkeep = true → s.inbox.causes = (r, q) :: l ∧ 4 ≤ q →
     MayMove s r j → s.isCaptain = false ∧ 1 < s.count →
    Gives .repairCause s fun t =>
      t.inbox = { s.inbox with causes := l } ∧ t.age =
        { s.age with causeAt := s.causesWith r, asked := s.age.asked ++ [(r, q)] } ∧ ToldOne s t s.captain
        (.rebindRequest s.self r q) ∧ Keeps s t [.inbox, .age, .ring, .inj] ∧ KeepsRegs s t injRegs) ∧
  (∀ (s : State) (r q : Nat) (l : List (Nat × Nat)), s.fwRuns .upkeep = true → s.inbox.causes = (r, q) :: l →
     s.rankState r = 0 ∨ s.rankState r = 7 → s.leaving (r % 64) = true ∨ s.inbox.unlace.contains (r % 64) = true →
    Gives .repairCause s fun t =>
      t.inbox = { s.inbox with causes := l } ∧ t.age = { s.age with causeAt := s.causesWith r } ∧ Keeps s t [.inbox,
        .age] ∧ KeepsRegs s t []) ∧
  (∀ (s : State) (r q : Nat) (l : List (Nat × Nat)), s.fwRuns .upkeep = true → s.inbox.causes = (r, q) :: l →
     (s.rankState r = 0 ∨ s.rankState r = 7) ∧ r / 64 < s.groups → s.leaving (r % 64) = false ∧ s.inbox.unlace.contains
     (r % 64) = false → (∀ j, j < s.groups → s.inService (j * 64 + r % 64) = true → j * 64 + r % 64 = r ∨ (∃ e ∈
     s.age.causeAt, e.1 = j * 64 + r % 64 ∧ s.clk.pkg ≤ e.2 + 1000000000)) →
    Gives .repairCause s fun t =>
      t.inbox = { s.inbox with causes := l, unlace := s.inbox.unlace ++ [r % 64] } ∧ t.age = { s.age with
            causeAt := s.causesWith r, asked := s.age.asked.filter (fun e => e.1 % 64 ≠ r % 64),
            starting := s.age.starting.filter (fun e => e.1 % 64 ≠ r % 64) } ∧ Keeps s t [.inbox, .age] ∧ KeepsRegs s t
        []) ∧
  (∀ s : State, s.inbox.causes = [] →
    Gives .repairCause s fun t =>
      t = s) ∧
  (∀ (s : State) (r q i j : Nat) (x : BitVec 8), s.fwRuns .steward = true → (s.isCaptain = true ∨ s.count ≤ 1) ∧
     s.ring.inbox = [(i, .rebindRequest j r q)] ∧ s.pkg.deferred = [] ∧ j ≠ s.self → s.movesRunning + x.toNat < s.gf
     Reg.FW_REPAIR_CFG Fld.FW_REPAIR_CFG_PKG_PLANNED → s.gf Reg.FW_REPAIR_CFG Fld.FW_REPAIR_CFG_RESERVE_KEEP + 1 ≤
     s.freeReserve j →
    Gives (.moveApproval x) s fun t =>
      ToldOne s t j (.rebindAnswer j r true) ∧ t.ring.inbox = [] ∧ t.pkg = s.pkg ∧ Keeps s t [.ring, .inj] ∧ KeepsRegs
        s t injRegs) ∧
  (∀ (s : State) (x : BitVec 8), (s.isCaptain = false ∧ 1 < s.count) ∨ (s.ring.inbox.any isRebindRequest = false ∧ (∀ e
     ∈ s.pkg.deferred, s.clk.pkg < e.2.2.2 + 1000000)) →
    Gives (.moveApproval x) s fun t =>
      t = s) ∧
  (∀ (s : State) (e : Fin 16) (r : Redir), s.fwRuns .upkeep = true → s.ring.inbox = [] → r = s.redir e ∧ r.valid = true
     ∧ r.state = .queued → (∀ k, k < e.val → ¬ ((s.redir k).valid = true ∧ (s.redir k).state = .queued)) → s.copying <
     4 →
    Gives .moveStart s fun t =>
      t.redir e = { r with state := .copying, redo := false, wm := 0 } ∧ t.copiers[e] = CopyChan.init ∧ (∀ k : Fin 16,
        k ≠ e → t.copiers[k] = s.copiers[k]) ∧ t.bit Reg.PC_REPAIR_EVENT Fld.PC_REPAIR_EVENT_MOVE_STARTED = true ∧
        t.age.starting = s.age.starting ∧ Logged s t [(0x0070, [e.val, r.src, r.dst, r.cause])] ∧ Keeps s t [.age,
        .inbox, .copiers] ∧ KeepsRegs s t (Reg.PC_REPAIR_EVENT :: redirRegs e)) ∧
  (∀ s : State, s.ring.inbox = [] ∧ s.age.starting = [] → (s.copying = 4 ∨ (∀ k, k < 16 → ¬ ((s.redir k).valid = true ∧
     (s.redir k).state = .queued))) →
    Gives .moveStart s fun t =>
      t = s) ∧
  (∀ (s : State) (r q e g : Nat) (l : List (Nat × Nat)), s.fwRuns .upkeep = true → s.ring.inbox = [] ∧ s.age.starting =
     (r, q) :: l ∧ r < 256 ∧ q < 16 → s.rankState r = 7 ∧ s.groups ≤ 4 ∧ g < 64 * s.groups → e < 16 ∧ (s.redir e).valid
     = true ∧ (s.redir e).dst = r ∧ (s.redir e).state = .bound → (∀ k, k < e → ¬ ((s.redir k).valid = true ∧ (s.redir
     k).dst = r ∧ (s.redir k).state = .bound)) → s.rankState g = 4 ∧ g % 64 ≠ r % 64 ∧ s.leaving (g % 64) = false → (∀
     h, h < g → ¬ (s.rankState h = 4 ∧ h % 64 ≠ r % 64 ∧ s.leaving (h % 64) = false)) → s.copying < 4 → (∀ k, k < 16 →
     ¬ ((s.redir k).valid = true ∧ (s.redir k).state = .queued)) →
    Gives .moveStart s fun t =>
      t.redir e = {
            valid := true, state := .copying, cause := q, origin := (s.redir e).origin, src := r, dst := g,
            redo := false, wm := 0 } ∧ t.rankState r = 1 ∧ t.rankState g = 6 ∧ KeepsRanks s t [r, g] ∧ Logged s t
        [(0x0070, [e, r, g, q])] ∧ t.age.starting = l ∧ Keeps s t [.age, .inbox, .copiers] ∧ KeepsRegs s t
        (Reg.PC_REPAIR_EVENT :: redirRegs e ++ rankRegs)) ∧
  (∀ (s : State) (sl : Fin 16) (r : Redir), r = s.redir sl ∧ s.live (.pc (pcFin r.src)) = true → r.valid = true ∧
     r.state = .copying ∧ r.wm < 393216 ∧ s.shutdown = false ∧ s.pwr.quiesced = false ∧ s.fwRuns .upkeep = true →
     s.copiers[sl].phase = .reading ∧ (s.copiers[sl].got ++ (s.paths.rets.filter fun x => x.owner = .copyRead sl).map
     fun x => (x.loc.col, x.bad, x.data)).length < 16 →
    Gives (.copierRun sl) s fun t =>
      t.copiers[sl] = { s.copiers[sl] with
            got := s.copiers[sl].got ++ (s.paths.rets.filter fun x => x.owner = .copyRead sl).map fun x => (x.loc.col,
              x.bad, x.data) } ∧ t.paths = { s.paths with rets := s.paths.rets.filter fun x => x.owner ≠ .copyRead sl }
        ∧ (∀ k : Fin 16, k ≠ sl → t.copiers[k] = s.copiers[k]) ∧ Keeps s t [.paths, .copiers] ∧ KeepsRegs s t []) ∧
  (∀ (s : State) (sl : Fin 16), (s.redir sl).valid = false ∨ (s.redir sl).state ≠ .copying ∨ s.copiers[sl].phase ≠
     .writing ∨ s.copiers[sl].written < 16 →
    Gives (.wmAdvance sl) s fun t =>
      t = s) ∧
  (∀ (s : State) (sl : Fin 16), (s.redir sl).valid = false ∨ (s.redir sl).state ≠ .synced ∨ (s.exportOn = true ∧
     s.age.recorded.contains sl.val = false) →
    Gives (.moveBind sl) s fun t =>
      t = s) ∧
  (∀ (s : State) (l : List Nat) (p : Fin 64), s.fwRuns .upkeep = true → s.inbox.unlace = p.val :: l ∧ s.leaving p =
     false ∧ s.groups ≤ 4 → (∀ e, e < 16 → (s.redir e).valid = true → (s.redir e).state = .bound ∨ (s.redir e).dst % 64
     ≠ p.val) → (∀ j, j < s.groups → s.rankState (j * 64 + p.val) ≠ 5) →
    Gives .unlace s fun t =>
      t.rd64 Reg.PC_UNLACING = s.rd64 Reg.PC_UNLACING ||| 2 ^ p.val ∧ t.inbox.unlace = l ∧ (∀ j, j < s.groups →
        t.rankState (j * 64 + p.val) = if s.rankState (j * 64 + p.val) = 4 then 8 else s.rankState (j * 64 + p.val)) ∧
        KeepsRanks s t ((upto s.groups).map fun j => j * 64 + p.val) ∧ Logged s t [(0x0073, [p.val, 3])] ∧
        t.age.starting = (s.age.starting.filter fun x => x.1 % 64 ≠ p.val) ++ (((upto s.groups).map fun j => j * 64 +
        p.val).filter (fun r => s.rankState r = 7) ++ ((upto s.groups).map fun j => j * 64 + p.val).filter fun r =>
        s.rankState r = 0).map (fun r => (r, 3)) ∧ t.age.asked = (s.age.asked.filter fun x => x.1 % 64 ≠ p.val) ∧ Keeps
        s t [.inbox, .age, .pcs, .tests] ∧ KeepsRegs s t (Reg.PC_UNLACING :: (Reg.PC_UNLACING + 4) ::
        Reg.PC_REPAIR_EVENT :: Reg.PC_REF_INHIBIT p :: Reg.PC_REF_STATUS p :: rankRegs)) ∧
  (∀ (s : State) (l : List Nat) (p : Fin 64) (e : Fin 16) (r : Redir) (g : Nat), s.fwRuns .upkeep = true →
     s.inbox.unlace = p.val :: l ∧ s.leaving p = false ∧ s.groups ≤ 4 → r = s.redir e ∧ r.valid = true ∧ r.state ≠
     .bound ∧ r.dst % 64 = p.val → (∀ k, k < 16 → k ≠ e.val → (s.redir k).valid = false) → (∀ j, j < s.groups →
     s.rankState (j * 64 + p.val) ≠ 4 ∧ s.rankState (j * 64 + p.val) ≠ 5) → g < 64 * s.groups ∧ s.rankState g = 4 ∧ g %
     64 ≠ r.src % 64 ∧ s.leaving (g % 64) = false → (∀ h, h < g → ¬ (s.rankState h = 4 ∧ h % 64 ≠ r.src % 64 ∧
     s.leaving (h % 64) = false)) →
    Gives .unlace s fun t =>
      t.redir e = { r with state := .queued, redo := false, wm := 0, dst := g } ∧ t.rankState r.dst = 8 ∧ t.rankState g
        = 6 ∧ KeepsRanks s t [r.dst, g] ∧ t.copiers[e] = CopyChan.init ∧ (t.rd64 Reg.PC_UNLACING).testBit p = true ∧
        Keeps s t [.inbox, .age, .pcs, .paths, .copiers] ∧ KeepsRegs s t (Reg.PC_UNLACING :: (Reg.PC_UNLACING + 4) ::
        Reg.PC_REPAIR_EVENT :: redirRegs e ++ rankRegs)) ∧
  (∀ (s : State) (l : List Nat) (p : Nat), s.fwRuns .upkeep = true → s.inbox.unlace = p :: l ∧ s.leaving p = true →
    Gives .unlace s fun t =>
      t.inbox = { s.inbox with unlace := l } ∧ Keeps s t [.inbox] ∧ KeepsRegs s t []) ∧
  (∀ (s : State) (p : Fin 64), (s.rd64 Reg.PC_UNLACING).testBit p = false ∨ (∃ j, j < s.groups ∧ s.rankState (j * 64 +
     p.val) ∈ [0, 1, 3, 6, 7]) →
    Gives (.unlaceComplete p) s fun t =>
      t = s) ∧
  (∀ (s : State) (sl : Fin 16) (x : BitVec 52), s.live (.slice sl) = true → MayFence s sl →
    Gives (.sliceFail sl 2 x) s fun t =>
      SliceFailed s t sl 2 ∧ t.fencePending.testBit sl = true ∧ t.paths.slices[sl] =
        { s.paths.slices[sl] with alive := false, fence := .draining s.clk.pkg } ∧ Keeps s t [.pwr, .inbox, .paths] ∧
        KeepsRegs s t [Reg.PC_REPAIR_EVENT, Reg.CACHE_FENCE]) ∧
  (∀ (s : State) (sl : Fin 16) (x : BitVec 52), s.live (.slice sl) = true → s.pwr.sliceFailed.contains sl.val = true →
    Gives (.sliceFail sl 2 x) s fun t =>
      t.paths.slices[sl] = { s.paths.slices[sl] with alive := false } ∧ (∀ m, m ≠ sl → t.paths.slices[m] =
        s.paths.slices[m]) ∧ Keeps s t [.paths] ∧ KeepsRegs s t []) ∧
  (∀ (s : State) (sl : Fin 16) (x : BitVec 52), s.live (.slice sl) = true → s.pwr.sliceFailed.contains sl.val = true ∨
     (s.dataErrors sl).length ≤ 4 →
    Gives (.sliceFail sl 1 x) s fun t =>
      t.paths.slices[sl].errs = s.dataErrors sl ∧ (∀ w, s.paths.slices[sl].find (lineNo x.toNat) = some w →
        ((t.paths.slices[sl].way w).sector (x.toNat / 64 % 2)).poison = true ∧ lineOf t sl w = lineOf s sl w) ∧ t.bit
        Reg.PC_FEC_INFO Fld.PC_FEC_INFO_VALID = true ∧ t.paths.slices[sl].fence = s.paths.slices[sl].fence ∧ t.pwr =
        s.pwr ∧ (∀ m, m ≠ sl → t.paths.slices[m] = s.paths.slices[m]) ∧ Keeps s t [.paths] ∧ KeepsRegs s t fecRegs) ∧
  (∀ (s : State) (sl : Fin 16) (x : BitVec 52), s.live (.slice sl) = true → MayFence s sl ∧ s.sliceIdle sl = false ∧ 4
     < (s.dataErrors sl).length →
    Gives (.sliceFail sl 1 x) s fun t =>
      SliceFailed s t sl 1 ∧ t.fencePending.testBit sl = true ∧ t.paths.slices[sl].fence = .draining s.clk.pkg ∧
        t.paths.slices[sl].errs = s.dataErrors sl ∧ Keeps s t [.pwr, .inbox, .paths] ∧ KeepsRegs s t
        (Reg.PC_REPAIR_EVENT :: Reg.CACHE_FENCE :: fecRegs)) ∧
  (∀ (s : State) (sl : Fin 16) (k : Fin 4) (x : BitVec 52), s.live (.slice sl) = true → MayFence s sl ∧ s.sliceIdle sl
     = true ∧ s.answers sl = true ∧ (k = 0 ∨ k = 3) → s.paths.slices[sl].ways = [] ∧ s.paths.slices[sl].reds = [] ∧
     s.paths.slices[sl].sweep = none →
    Gives (.sliceFail sl k x) s fun t =>
      SliceFailed s t sl k.val ∧ t.fencePending.testBit sl = true ∧ t.paths.slices[sl] =
        { s.paths.slices[sl] with fence := .fenced } ∧ Keeps s t [.pwr, .inbox, .paths] ∧ KeepsRegs s t
        (Reg.PC_REPAIR_EVENT :: Reg.CACHE_FENCE :: Reg.CACHE_STATUS sl :: fecRegs)) ∧
  (∀ (s : State) (sl : Fin 16) (k : Fin 4) (x : BitVec 52), s.live (.slice sl) = true → s.pwr.sliceFailed.contains
     sl.val = false ∧ (k = 0 ∨ k = 3) → s.fenced.testBit sl = true ∨ s.fencePending.testBit sl = true ∨ 4 ≤ onesBelow
     16 (s.fenced ||| s.fencePending) →
    Gives (.sliceFail sl k x) s fun t =>
      SliceFailed s t sl k.val ∧ t.paths = s.paths ∧ Keeps s t [.pwr, .inbox] ∧ KeepsRegs s t (Reg.PC_REPAIR_EVENT ::
        fecRegs)) ∧
  (∀ (s : State) (cut : Bool), s.fwRuns .upkeep = true → s.pwr.failed = false ∧ (cut = true ∨ 5 ≤
     s.pwr.sliceFailed.length) →
    Gives (.instanceFail cut) s fun t =>
      t.pwr = { s.pwr with failed := true } ∧ t.bit Reg.FW_STATUS Fld.FW_STATUS_DEGRADED = true ∧ t.bit
        Reg.PC_REPAIR_EVENT Fld.PC_REPAIR_EVENT_INSTANCE_FAIL = true ∧ Logged s t [(0x0078, [if cut then 1 else 0])] ∧
        t.paths.reqXbar = [] ∧ t.paths.fenceWait = [] ∧ t.paths.slices = s.paths.slices ∧ Keeps s t (.pwr :: .inbox ::
        pathRegions) ∧ KeepsRegs s t (Reg.FW_STATUS :: Reg.PC_REPAIR_EVENT :: pathRegs))

/-! ### Training and truing (16) -/

/-- A sweep whose longest passing run reaches at least a floor to both sides of its centre (R410, R411). -/
  abbrev Sys2Proof.Machine.Wide (kind : Nat) (w : Passes) (floor : Nat) : Prop :=
    (longestRun (sweepSteps kind) w.toNat).any (fun e => decide (e.1 + 2 * floor ≤ e.2)) = true

/-- The centre of a sweep about the nominal setting: floor((L + H) / 2) of its longest passing run (R410, R411). -/
  abbrev Sys2Proof.Machine.mid (kind : Nat) (w : Passes) : Nat :=
    sweepFrom kind (Config.nominal kind).toNat + ((longestRun (sweepSteps kind) w.toNat).map fun e => (e.1 + e.2) / 2).getD 0


/-- A training run in which every lane shows the same five wide runs: receive and transmit delay, the two references and the
  command/address delay, and nothing fails (R410 to R412). -/
  abbrev Sys2Proof.Machine.EvenRun (s : State) (r : TrainRun) (a b c d e : Passes) : Prop :=
    r = { usual := [a, b, c, d, e], lanes := [], strobe := 0, confirm := [], timing := [], interval := none } ∧
      Wide 0 a (s.floorOf 0) ∧ Wide 1 b (s.floorOf 1) ∧ Wide 2 c (s.floorOf 2) ∧ Wide 3 d (s.floorOf 3) ∧ Wide 4 e (s.floorOf 4)

/-- Every PC in service has its centres and the default timing, no spare more than before, and no lane is lost (R409 to
  R412). -/
  abbrev Sys2Proof.Machine.TrainedTo (s t : State) (a b c d e : Passes) : Prop :=
    (∀ p : Fin 64, s.live (.pc p) = true →
      (∀ k : Fin 38, t.gf (Reg.PC_DLY_DQ p k) Fld.PC_DLY_DQ_RX_DLY = mid 0 a ∧ t.gf (Reg.PC_DLY_DQ p k) Fld.PC_DLY_DQ_TX_DLY = mid 1 b) ∧
      (∀ k : Fin 20, t.gf (Reg.PC_DLY_CA p k) Fld.PC_DLY_CA_CA_DLY = mid 4 e) ∧
      t.gf (Reg.PC_VREF p) Fld.PC_VREF_RD_VREF = mid 2 c ∧ t.gf (Reg.PC_VREF p) Fld.PC_VREF_WR_VREF = mid 3 d ∧
      t.rd (Reg.PC_LANE_MAP p) = s.rd (Reg.PC_LANE_MAP p) ∧ t.rd (Reg.PC_TIM_ROW p) = regReset (Reg.PC_TIM_ROW p)) ∧
    t.age = { s.age with trained := true, waiting := false, rate := 0, unlacedAt := [] } ∧ t.phase = 3 ∧
      Logged s t [(0x0060, [0, 0, 0])]

/-- The registers that a training writes (R406, R409). -/
  abbrev Sys2Proof.Machine.trainRegs : List Nat :=
    [Reg.FW_AGEING_STATUS, Reg.FW_BOOT_STATUS] ++ (upto 64).flatMap fun p =>
      [Reg.PC_TIM_ROW p, Reg.PC_TIM_COL p, Reg.PC_TIM_TURN p, Reg.PC_TIM_REF p, Reg.PC_SCHED_STATUS p] ++ (upto 60).map (dlyReg p)

/-- Every PC keeps what it holds; the cycles of its clock so far are settled before the rate changes (R99). -/
  abbrev Sys2Proof.Machine.CyclesSettled (s t : State) : Prop :=
    ∀ p : Fin 64, t.pcs[p] = { s.pcs[p] with due := s.cyclesDue p, dueAt := s.clk.raw }

/-- No PC has made a grant since its reset, so its timing registers take writes (R106). -/
  abbrev Sys2Proof.Machine.Ungranted (s : State) : Prop := ∀ p : Fin 64, s.pcs[p].granted = false

/-- A window of PC `p` is armed for a time, with its number (R416). -/
  abbrev Sys2Proof.Machine.armed (s : State) (p : Fin 64) (t0 : Nat) (cut : Bool) : Truing :=
    { at_ := t0, expedited := cut, opened := false, posted := false, done := false, timedOut := false, no := s.age.windows[p],
      place := none, timing := (0, 0), probes := none, saved := [] }

/-- A window of PC `p` is skipped for a reason (R416). -/
  abbrev Sys2Proof.Machine.Skipped (s t : State) (p : Fin 64) (k : Nat) : Prop :=
    t.gf (Reg.PC_TRUE_STATUS p) Fld.PC_TRUE_STATUS_SKIPPED =
        min 255 (s.gf (Reg.PC_TRUE_STATUS p) Fld.PC_TRUE_STATUS_SKIPPED + 1) ∧ Logged s t [(0x0065, [p.val, k])]

/-- The oldest taken CMD word of TRAIN_STACK (R395, R400). -/
  abbrev Sys2Proof.Machine.isTrain (x : Bool × Word) : Bool := x.1 && decide (cwKind x.2 = 6) && decide (cwArg x.2 / 65536 % 128 = 2)

/-- A CMD word taken from the captain orders TRAIN_STACK, and the instance has its count from SIZE (R395, R399, R400). -/
  abbrev Sys2Proof.Machine.Ordered (s : State) : Prop := s.chain.taken.any isTrain = true ∧ s.count ≠ 0

/-- A first reading of the stack that is valid and warm enough, and every used zone that has been read is (R414, R476). -/
  abbrev Sys2Proof.Machine.WarmStack (s : State) (x : BitVec 12) : Prop :=
    s.trainWarm = true ∧ s.snsBroken 32 = false ∧ s.lowTrain ≤ x.toInt ∧ -160 ≤ x.toInt ∧ x.toInt ≤ 600 ∧ s.shutdown = false

/-- The training is over and the phase is TRAINED (R395, R409). -/
  abbrev Sys2Proof.Machine.Trained (t : State) : Prop := t.age.trained = true ∧ t.age.waiting = false ∧ t.phase = 3

/-- The registers that a truing window may write at a PC (R418, R419, R432). -/
  abbrev Sys2Proof.Machine.truedRegs (p : Nat) : List Nat :=
    [Reg.PC_TRUE_STATUS p, Reg.PC_SCHED_STATUS p, Reg.PC_TIM_ROW p, Reg.PC_TIM_COL p] ++ (upto 60).map (dlyReg p)

/-- PC `p` takes writes of its delay, reference and lane-map registers (R407, R418). -/
  abbrev Sys2Proof.Machine.DelaysOpen (s : State) (p : Fin 64) : Prop :=
    (s.pcs[p].granted = false ∨ s.bit (Reg.PC_SCHED_STATUS p) Fld.PC_SCHED_STATUS_TRUING = true) ∧
      s.pcs[p].truing.all (fun w => !w.opened || decide (s.now (.pc p) < w.at_ + 1300)) = true

/-- The word that reports a phase upstream (R395, R400). -/
  abbrev Sys2Proof.Machine.phaseWord (s : State) (n : Nat) : Word :=
    chainWord 7 false s.self (65536 + (n + s.gf Reg.FW_BOOT_STATUS Fld.FW_BOOT_STATUS_FAULT_CAUSE * 16 + s.fwState * 256))

/-- No probe but those of the receive delay has failed (R417, R419). -/
  abbrev Sys2Proof.Machine.OnlyRx (r : Probes) (low high : BitVec 38) : Prop :=
    r.rx = { low := low, high := high } ∧ r.tx = { low := 0, high := 0 } ∧ r.vref = { low := 0, high := 0 } ∧ r.ca = { low := 0, high := 0 }

/-- The window of PC `p` has its probes and still lies before 1,300 ns; no guard band or projected swap is due, and no margin
  has been measured (R417, R418, R432). -/
  abbrev Sys2Proof.Machine.Deciding (s : State) (p : Fin 64) (w : Truing) (r : Probes) : Prop :=
    s.fwRuns .upkeep = true ∧ s.pcs[p].truing = some w ∧ w.probes = some r ∧ w.opened = true ∧ w.done = false ∧
      w.timedOut = false ∧ s.now (.pc p) < w.at_ + 1300 ∧ s.guardInForce ≤ s.age.guards[p] ∧ s.age.swap = [] ∧ s.groups ≠ 0

/-- TRAIN_STACK releases MEM_RESET_N, takes the stack's height and first reading, and writes the centres of every
lane; an unsupported stack is PHASE FAULT with cause 2, an instance without GO is left out (R3, R395, R409, R411). A
window is armed between 1 ms and 100 µs before its T, or skipped, and a second one may be armed after it (R416,
R421). One failed floor probe moves the centre one step, a failed lane takes a spare, a failed confirmation sets
TRUE_FAILED (R419, R420). A window ends 1,600 ns after T, and without an outcome the delays are those at T. Forms
stated to complete (exec answers next): trainStack, trainingWaitTemperature, delayRegisterWrite, truingArm,
truingProbesPosted, truingDone, truingWindowEnd, laneCeWindow, fwTrueCfgWrite, truingWindowOpen. -/
def Obligations.TrainingAndTruing : Prop :=
  (∀ (s : State) (v : Word) (a b d' e' g : Passes) (r : TrainRun) (x : BitVec 12) (t0 : Nat), s.fwRuns .upkeep = true →
     s.chain.taken = [(true, v)] ∧ cwKind v = 6 ∧ cwArg v / 65536 = 2 ∧ s.straps.chainHead = false ∧ s.count ≠ 0 →
     s.pkg.goAt = some t0 ∧ s.phase ≠ 9 ∧ s.age.trained = false ∧ s.pwr.warm = false → s.bit Reg.FW_BOOT_CTRL
     Fld.FW_BOOT_CTRL_LEDGER = false ∧ s.age.repair = none ∧ s.gf Reg.FW_BOOT_CTRL Fld.FW_BOOT_CTRL_RATE = 0 → EvenRun
     s r a b d' e' g ∧ s.age.guards = Vector.replicate 64 0 ∧ Ungranted s → WarmStack s x →
    Gives (.trainStack 16 x true none [r]) s fun t =>
      TrainedTo s t a b d' e' g ∧ t.pins = { s.pins with memResetN := true } ∧ t.snsValid 32 = true ∧ t.gf
        Reg.ID_CONFIG Fld.ID_CONFIG_STACK_HEIGHT = 16 ∧ t.groups = 4 ∧ t.stack =
        { s.stack with height := 16, refreshed := true } ∧ t.chain = { s.chain with
            taken := [],
            outW := s.chain.outW ++ [phaseWord s 2, chainWord 7 false s.self (2 * 65536 + 16), phaseWord s 3] } ∧
        CyclesSettled s t ∧ Keeps s t [.pcs, .age, .chain, .inbox, .margins, .pins, .refresh, .stack, .therm] ∧
        KeepsRegs s t (Reg.ID_CONFIG :: Reg.THERM_SNS_READ 32 :: trainRegs)) ∧
  (∀ (s : State) (v : Word) (height : BitVec 8) (x : BitVec 12) (ok : Bool) (info : Option RepairInfo) (l : List
     TrainRun), s.fwRuns .upkeep = true → s.chain.taken = [(true, v)] ∧ cwKind v = 6 ∧ cwArg v / 65536 = 2 ∧ s.count ≠
     0 → s.pkg.goAt = none →
    Gives (.trainStack height x ok info l) s fun t =>
      t.bit Reg.FW_BOOT_STATUS Fld.FW_BOOT_STATUS_LEFT_OUT = true ∧ t.chain = { s.chain with taken := [] } ∧ Keeps s t
        [.chain] ∧ KeepsRegs s t [Reg.FW_BOOT_STATUS]) ∧
  (∀ (s : State) (v : Word) (t0 : Nat) (height : BitVec 8) (x : BitVec 12) (ok : Bool) (info : Option RepairInfo) (l :
     List TrainRun), s.fwRuns .upkeep = true → s.chain.taken = [(true, v)] ∧ cwKind v = 6 ∧ cwArg v / 65536 = 2 ∧
     s.count ≠ 0 → s.pkg.goAt = some t0 ∧ s.phase ≠ 9 ∧ s.age.trained = false → height ≠ 12 ∧ height ≠ 16 →
    Gives (.trainStack height x ok info l) s fun t =>
      t.phase = 9 ∧ t.gf Reg.FW_BOOT_STATUS Fld.FW_BOOT_STATUS_FAULT_CAUSE = 2 ∧ t.pins =
        { s.pins with memResetN := true } ∧ t.age = s.age ∧ t.margins = s.margins ∧ (∀ p : Fin 64, s.live (.pc p) =
        true → t.pcs[p].rq = s.pcs[p].rq) ∧ Keeps s t [.chain, .pcs, .pins, .pkg, .refresh, .stack, .therm] ∧ KeepsRegs
        s t ([Reg.FW_BOOT_STATUS, Reg.THERM_SNS_READ 32, Reg.THERM_STATUS] ++ (upto 64).map Reg.PC_REF_STATUS)) ∧
  (∀ (s : State) (a b d' e' g : Passes) (r : TrainRun) (t0 : Nat), s.fwRuns .upkeep = true → s.age.waiting = true ∧
     s.trainWarm = true ∧ s.shutdown = false → s.age.repair = none ∧ s.gf Reg.FW_BOOT_CTRL Fld.FW_BOOT_CTRL_RATE = 0 ∧
     s.pkg.goAt = some t0 ∧ s.straps.chainHead = false → EvenRun s r a b d' e' g ∧ s.age.guards = Vector.replicate 64 0
     ∧ Ungranted s →
    Gives (.trainingWaitTemperature [r]) s fun t =>
      TrainedTo s t a b d' e' g ∧ t.chain = { s.chain with
            outW := s.chain.outW ++ [chainWord 7 false s.self (2 * 65536 + s.gf Reg.ID_CONFIG
              Fld.ID_CONFIG_STACK_HEIGHT), phaseWord s 3] } ∧ CyclesSettled s t ∧ t.stack =
        { s.stack with refreshed := true } ∧ Keeps s t [.pcs, .age, .chain, .inbox, .margins, .stack] ∧ KeepsRegs s t
        trainRegs) ∧
  (∀ (s : State) (l : List TrainRun), s.age.waiting = false ∨ s.shutdown = true ∨ s.trainWarm = false →
    Gives (.trainingWaitTemperature l) s fun t =>
      t = s) ∧
  (∀ (s : State) (p : Fin 64) (i : Fin 60) (v : Word), s.live (.pc p) = true → s.pcs[p].granted = false ∧
     s.pcs[p].truing = none →
    Gives (.delayRegisterWrite p i v) s fun t =>
      t.rd (dlyReg p i) = v &&& dlyMask i ∧ Keeps s t [] ∧ KeepsRegs s t [dlyReg p i]) ∧
  (∀ (s : State) (p : Fin 64) (n0 n1 : Nat), s.fwRuns .upkeep = true → s.phase = 8 ∧ s.bit Reg.FW_TRUE_CFG
     Fld.FW_TRUE_CFG_ENABLE = true ∧ s.pcs[p].truing = none ∧ s.pcs[p].truingNext = none ∧ s.skipReason p = none → n0 =
     s.gf Reg.FW_TRUE_CFG Fld.FW_TRUE_CFG_PERIOD_MS * 1000000 → n1 = s.age.windows[p] * n0 + p.val * n0 / 64 + s.self *
     n0 / 1024 → s.clk.pkg + 100000 ≤ n1 ∧ n1 ≤ s.clk.pkg + 1000000 →
    Gives (.truingArm p false) s fun t =>
      t.pcs[p] = { s.pcs[p] with truing := some (armed s p n1 false) } ∧ t.age =
        { s.age with windows := s.age.windows.set p (s.age.windows[p] + 1) } ∧ (∀ q, q ≠ p → t.pcs[q] = s.pcs[q]) ∧
        Keeps s t [.pcs, .age] ∧ KeepsRegs s t []) ∧
  (∀ (s : State) (p : Fin 64) (n0 n1 : Nat), s.fwRuns .upkeep = true → s.phase = 8 ∧ s.bit Reg.FW_TRUE_CFG
     Fld.FW_TRUE_CFG_ENABLE = true → n0 = s.gf Reg.FW_TRUE_CFG Fld.FW_TRUE_CFG_PERIOD_MS * 1000000 → n1 =
     s.age.windows[p] * n0 + p.val * n0 / 64 + s.self * n0 / 1024 → n1 < s.clk.pkg + 100000 →
    Gives (.truingArm p false) s fun t =>
      Skipped s t p 3 ∧ t.age = { s.age with windows := s.age.windows.set p (s.age.windows[p] + 1) } ∧ Keeps s t [.age,
        .inbox] ∧ KeepsRegs s t [Reg.PC_TRUE_STATUS p]) ∧
  (∀ (s : State) (p : Fin 64) (n0 : Nat), s.fwRuns .upkeep = true → s.phase = 8 ∧ s.bit Reg.FW_TRUE_CFG
     Fld.FW_TRUE_CFG_ENABLE = true ∧ s.bit Reg.FW_TRUE_CFG Fld.FW_TRUE_CFG_EXPEDITE = true → (s.pcs[p].laneSuspect ≠ []
     ∨ s.age.expedite.contains p.val = true) ∧ s.pcs[p].truing = none ∧ s.pcs[p].truingNext = none ∧ s.skipReason p =
     none ∧ s.expediteTime = some n0 →
    Gives (.truingArm p true) s fun t =>
      t.pcs[p] = { s.pcs[p] with laneSuspect := [], truing := some (armed s p n0 true) } ∧ s.clk.pkg + 10000 ≤ n0 ∧
        t.age = { s.age with expedite := s.age.expedite.filter (· ≠ p.val) } ∧ (∀ q, q ≠ p → t.pcs[q] = s.pcs[q]) ∧
        Keeps s t [.pcs, .age] ∧ KeepsRegs s t []) ∧
  (∀ (s : State) (p : Fin 64) (cut : Bool), s.phase ≠ 8 ∨ s.bit Reg.FW_TRUE_CFG Fld.FW_TRUE_CFG_ENABLE = false →
    Gives (.truingArm p cut) s fun t =>
      t = s) ∧
  (∀ (s : State) (p : Fin 64) (w : Truing) (r : Probes), s.live (.pc p) = true → s.pcs[p].truing = some w ∧ w.opened =
     true ∧ w.posted = false ∧ w.at_ + 1000 ≤ s.now (.pc p) →
    Gives (.truingProbesPosted p r) s fun t =>
      t.pcs[p] = { s.pcs[p] with truing := some { w with posted := true, probes := some r } } ∧ (∀ q, q ≠ p → t.pcs[q]
        = s.pcs[q]) ∧ Keeps s t [.pcs] ∧ KeepsRegs s t []) ∧
  (∀ (s : State) (p : Fin 64) (w : Truing) (r : Probes), Deciding s p w r → r.reference = 0 ∧ OnlyRx r 0 0 → s.margins
     = { usual := [], edges := [] } →
    Gives (.truingDone p none) s fun t =>
      t.pcs[p] = { s.pcs[p] with truing := some { w with done := true } } ∧ (∀ i, i < 60 → t.rd (dlyReg p i) = s.rd
        (dlyReg p i)) ∧ Logged s t [] ∧ t.inbox.unlace = s.inbox.unlace ∧ (∀ q, q ≠ p → t.pcs[q] = s.pcs[q]) ∧ Keeps s
        t [.pcs, .age, .inbox] ∧ KeepsRegs s t []) ∧
  (∀ (s : State) (p : Fin 64) (w : Truing) (r : Probes) (lane : Fin 38), Deciding s p w r → r.reference = 0 ∧ OnlyRx r
     0 0 → s.margins = { usual := [], edges := [] } →
    Gives (.truingDone p (some lane)) s fun t =>
      t.pcs[p] = { s.pcs[p] with truing := some { w with done := true } } ∧ t.bit (Reg.PC_TRUE_STATUS p)
        Fld.PC_TRUE_STATUS_TRUE_FAILED = true ∧ t.inbox.unlace = s.inbox.unlace ++ [p.val] ∧ Logged s t [(0x0064,
        [p.val, lane.val])] ∧ (∀ q, q ≠ p → t.pcs[q] = s.pcs[q]) ∧ Keeps s t [.pcs, .inbox, .age] ∧ KeepsRegs s t
        [Reg.PC_TRUE_STATUS p]) ∧
  (∀ (s : State) (p : Fin 64) (w : Truing) (r : Probes) (lane : Fin 36), Deciding s p w r → r.reference = 0 ∧ OnlyRx r
     (BitVec.ofNat 38 (2 ^ lane.val)) 0 → s.margins = { usual := [], edges := [] } ∧ s.dqLanes p = upto 36 → s.gf
     (Reg.PC_DLY_DQ p lane) Fld.PC_DLY_DQ_RX_DLY < 1023 →
    Gives (.truingDone p none) s fun t =>
      t.gf (Reg.PC_DLY_DQ p lane) Fld.PC_DLY_DQ_RX_DLY = s.gf (Reg.PC_DLY_DQ p lane) Fld.PC_DLY_DQ_RX_DLY + 1 ∧ t.gf
        (Reg.PC_DLY_DQ p lane) Fld.PC_DLY_DQ_TX_DLY = s.gf (Reg.PC_DLY_DQ p lane) Fld.PC_DLY_DQ_TX_DLY ∧ (t.edge p 0
        (w.no % max 1 s.groups) lane).map (·.1) = some (s.gf (Reg.PC_DLY_DQ p lane) Fld.PC_DLY_DQ_RX_DLY - (s.floorOf 0
        - 1)) ∧ Logged s t [(0x0062, [p.val, 1])] ∧ t.pcs[p] = { s.pcs[p] with truing := some { w with done := true } }
        ∧ (∀ q, q ≠ p → t.pcs[q] = s.pcs[q]) ∧ Keeps s t [.pcs, .age, .inbox, .margins] ∧ KeepsRegs s t [Reg.PC_DLY_DQ
        p lane]) ∧
  (∀ (s : State) (p : Fin 64) (w : Truing) (r : Probes) (lane : Fin 36), Deciding s p w r → r.reference = BitVec.ofNat
     38 (2 ^ lane.val) ∧ OnlyRx r 0 0 → s.margins = { usual := [], edges := [] } ∧ s.dqLanes p = upto 36 →
    Gives (.truingDone p none) s fun t =>
      t.gf (Reg.PC_LANE_MAP p) Fld.PC_LANE_MAP_SDQ0_FOR = lane.val ∧ t.gf (Reg.PC_LANE_MAP p) Fld.PC_LANE_MAP_SDQ1_FOR
        = s.gf (Reg.PC_LANE_MAP p) Fld.PC_LANE_MAP_SDQ1_FOR ∧ t.gf (Reg.PC_LANE_MAP p) Fld.PC_LANE_MAP_SCA_FOR = s.gf
        (Reg.PC_LANE_MAP p) Fld.PC_LANE_MAP_SCA_FOR ∧ Logged s t [(0x0063, [p.val, lane.val, 0, 0]), (0x0062, [p.val,
        1])] ∧ t.pcs[p] = { s.pcs[p] with truing := some { w with done := true } } ∧ (∀ q, q ≠ p → t.pcs[q] = s.pcs[q])
        ∧ Keeps s t [.pcs, .age, .inbox] ∧ KeepsRegs s t [Reg.PC_LANE_MAP p]) ∧
  (∀ (s : State) (p : Fin 64) (w : Truing) (r : Probes) (a b : Nat), Deciding s p w r → r.reference = 0 ∧ OnlyRx r 0 0
     ∧ w.no = 0 ∧ 2 ≤ s.groups ∧ s.dqLanes p = upto 36 → s.margins =
     { usual := [], edges := [{ pc := p, kind := 0, group := 0, lane := 3, run := some (a, b) }] } ∧ r.outside.getLsbD
     3 = false →
    Gives (.truingDone p none) s fun t =>
      t.margins = { usual := [], edges := [{ pc := p, kind := 0, group := 0, lane := 3, run := some (a - 1, b) }] } ∧
        (∀ i, i < 60 → t.rd (dlyReg p i) = s.rd (dlyReg p i)) ∧ Keeps s t [.pcs, .age, .inbox, .margins] ∧ KeepsRegs s
        t []) ∧
  (∀ (s : State) (p : Fin 64) (w : Truing), s.live (.pc p) = true → s.pcs[p].truing = some w ∧ w.opened = true ∧
     (w.done = true ∨ w.timedOut = true) ∧ w.at_ + 1600 ≤ s.now (.pc p) →
    Gives (.truingWindowEnd p) s fun t =>
      t.pcs[p].truing = s.pcs[p].truingNext ∧ t.pcs[p].truingNext = none ∧ t.pcs[p].rq = s.pcs[p].rq ∧ t.pcs[p].wq =
        s.pcs[p].wq ∧ (∀ b, b < 64 → (t.pcs[p].bankOf b).row = none) ∧ (∀ i, i < 60 → t.rd (dlyReg p i) = s.rd (dlyReg
        p i)) ∧ t.bit (Reg.PC_SCHED_STATUS p) Fld.PC_SCHED_STATUS_TRUING = false ∧ t.gf (Reg.PC_TRUE_STATUS p)
        Fld.PC_TRUE_STATUS_WINDOWS = (s.gf (Reg.PC_TRUE_STATUS p) Fld.PC_TRUE_STATUS_WINDOWS + 1) % 65536 ∧ (∀ q, q ≠ p
        → t.pcs[q] = s.pcs[q]) ∧ (∀ (l : Loc) i, i < 128 → (∀ m ∈ w.place, ∀ x ∈ m.eight, l.burst ≠ x.burst) →
        t.stack.byte l i = s.stack.byte l i) ∧ (w.place = none → t.stack = s.stack) ∧ Keeps s t [.pcs, .stack] ∧
        KeepsRegs s t [Reg.PC_SCHED_STATUS p, Reg.PC_TRUE_STATUS p]) ∧
  (∀ (s : State) (u : State) (p : Fin 64) (w : Truing), s.live (.pc p) = true → s.pcs[p].truing = some w ∧ w.opened =
     true ∧ w.done = false ∧ w.timedOut = false ∧ w.at_ + 1600 ≤ s.now (.pc p) → w.saved = u.delays p →
    Gives (.truingWindowEnd p) s fun t =>
      t.pcs[p].truing = s.pcs[p].truingNext ∧ (∀ i, i < 60 → t.rd (dlyReg p i) = u.rd (dlyReg p i)) ∧ t.bit
        (Reg.PC_SCHED_STATUS p) Fld.PC_SCHED_STATUS_TRUING = false ∧ (∀ q, q ≠ p → t.pcs[q] = s.pcs[q]) ∧ (∀ (l : Loc)
        i, i < 128 → (∀ m ∈ w.place, ∀ x ∈ m.eight, l.burst ≠ x.burst) → t.stack.byte l i = s.stack.byte l i) ∧
        (w.place = none → t.stack = s.stack) ∧ Keeps s t [.pcs, .stack] ∧ KeepsRegs s t ([Reg.PC_SCHED_STATUS p,
        Reg.PC_TRUE_STATUS p] ++ (upto 60).map (dlyReg p))) ∧
  (∀ (s : State) (p : Fin 64), s.live (.pc p) = true → s.pcs[p].ceWindow < s.now (.pc p) / 1000000000 →
    Gives (.laneCeWindow p) s fun t =>
      t.pcs[p] = { s.pcs[p] with
            ceWindow := s.now (.pc p) / 1000000000, laneCe := Vector.replicate 36 0, ceLimit := s.pcs[p].ceNext } ∧ (∀
        q, q ≠ p → t.pcs[q] = s.pcs[q]) ∧ Keeps s t [.pcs] ∧ KeepsRegs s t []) ∧
  (∀ (s : State) (v : Word), Reached s → s.gf Reg.FW_TRUE_CFG Fld.FW_TRUE_CFG_PERIOD_MS = max 256 (v.toNat % 65536) ∧
     (s.bit Reg.FW_TRUE_CFG Fld.FW_TRUE_CFG_ENABLE = true ∨ v.getLsbD 31 = false) →
    Gives (.fwTrueCfgWrite v) s fun t =>
      t.gf Reg.FW_TRUE_CFG Fld.FW_TRUE_CFG_LANE_CE_LIMIT = max 1 (v.toNat / 2 ^ 16 % 256) ∧ t.gf Reg.FW_TRUE_CFG
        Fld.FW_TRUE_CFG_PERIOD_MS = max 256 (v.toNat % 65536) ∧ t.bit Reg.FW_TRUE_CFG Fld.FW_TRUE_CFG_ENABLE =
        v.getLsbD 31 ∧ (∀ p : Fin 64, t.pcs[p] = { s.pcs[p] with ceNext := max 1 (v.toNat / 2 ^ 16 % 256) }) ∧ Answered
        s t false ∧ Keeps s t [.mgt, .pcs] ∧ KeepsRegs s t [Reg.FW_TRUE_CFG]) ∧
  (∀ (s : State) (height : BitVec 8) (x : BitVec 12) (ok : Bool) (info : Option RepairInfo) (l : List TrainRun),
     s.chain.taken.any isTrain = false →
    Gives (.trainStack height x ok info l) s fun t =>
      t = s) ∧
  (∀ (s : State) (height : BitVec 8) (x : BitVec 12) (ok : Bool) (info : Option RepairInfo) (l : List TrainRun),
     s.fwRuns .upkeep = true → s.count = 0 →
    Gives (.trainStack height x ok info l) s fun t =>
      t.chain = { s.chain with taken := dropFirst isTrain s.chain.taken } ∧ Keeps s t [.chain] ∧ KeepsRegs s t []) ∧
  (∀ (s : State) (height : BitVec 8) (x : BitVec 12) (ok : Bool) (info : Option RepairInfo) (l : List TrainRun),
     s.fwRuns .upkeep = true → Ordered s ∧ s.pkg.goAt ≠ none ∧ (s.phase = 9 ∨ s.age.trained = true) →
     s.straps.chainHead = false →
    Gives (.trainStack height x ok info l) s fun t =>
      t.chain = { s.chain with
            taken := dropFirst isTrain s.chain.taken,
            outW := s.chain.outW ++ [chainWord 7 false s.self (2 * 65536 + s.gf Reg.ID_CONFIG
              Fld.ID_CONFIG_STACK_HEIGHT + 256 * s.age.unlacedAt.length)] } ∧ Keeps s t [.chain] ∧ KeepsRegs s t []) ∧
  (∀ (s : State) (height : BitVec 8) (x : BitVec 12) (l : List TrainRun), s.fwRuns .upkeep = true → Ordered s ∧
     s.pkg.goAt ≠ none ∧ s.phase ≠ 9 ∧ s.age.trained = false ∧ s.pwr.warm = false → s.bit Reg.FW_BOOT_CTRL
     Fld.FW_BOOT_CTRL_LEDGER = false ∧ s.age.repair = none → (height = 12 ∨ height = 16) ∧ WarmStack s x ∧ s.age.guards
     = Vector.replicate 64 0 →
    Gives (.trainStack height x true none l) s fun t =>
      Trained t ∧ t.gf Reg.ID_CONFIG Fld.ID_CONFIG_STACK_HEIGHT = height.toNat ∧ t.groups = height.toNat / 4 ∧ t.pins =
        { s.pins with memResetN := true } ∧ t.stack = { s.stack with height := height.toNat, refreshed := true } ∧
        t.chain.taken = dropFirst isTrain s.chain.taken ∧ CyclesSettled s t ∧ Keeps s t [.pcs, .age, .chain, .pkg,
        .inbox, .margins, .pins, .refresh, .stack, .therm] ∧ KeepsRegs s t (Reg.ID_CONFIG :: Reg.THERM_SNS_READ 32 ::
        Reg.PC_REF_CTRL :: trainRegs)) ∧
  (∀ (s : State) (height : BitVec 8) (x : BitVec 12) (l : List TrainRun), s.fwRuns .upkeep = true → Ordered s ∧
     s.pkg.goAt ≠ none ∧ s.phase ≠ 9 ∧ s.age.trained = false ∧ s.pwr.warm = false → s.bit Reg.FW_BOOT_CTRL
     Fld.FW_BOOT_CTRL_LEDGER = false ∧ s.age.repair = none ∧ s.age.waiting = false → (height = 12 ∨ height = 16) ∧
     s.snsBroken 32 = false ∧ s.zoneUsed 0 = true ∧ x.toInt < s.lowTrain ∧ -160 ≤ x.toInt ∧ x.toInt ≤ 600 →
    Gives (.trainStack height x true none l) s fun t =>
      t.age = { s.age with waiting := true } ∧ t.phase = 2 ∧ Logged s t [(0x0060, [s.gf Reg.FW_BOOT_CTRL
        Fld.FW_BOOT_CTRL_RATE, 1, 0])] ∧ t.margins = s.margins ∧ t.pins = { s.pins with memResetN := true } ∧ Keeps s t
        [.age, .chain, .pkg, .inbox, .pins, .refresh, .stack, .therm] ∧ KeepsRegs s t [Reg.ID_CONFIG,
        Reg.THERM_SNS_READ 32, Reg.FW_BOOT_STATUS]) ∧
  (∀ (s : State) (l : List TrainRun), s.fwRuns .upkeep = true → s.age.waiting = true ∧ s.trainWarm = true ∧ s.shutdown
     = false → s.age.repair = none →
    Gives (.trainingWaitTemperature l) s fun t =>
      Trained t ∧ t.age.guards = s.age.guards ∧ CyclesSettled s t ∧ t.stack = { s.stack with refreshed := true } ∧
        Keeps s t [.pcs, .age, .chain, .pkg, .inbox, .margins, .stack] ∧ KeepsRegs s t (Reg.PC_REF_CTRL :: trainRegs))
        ∧
  (∀ (s : State) (p : Fin 64) (i : Fin 60) (v : Word), s.live (.pc p) = true → DelaysOpen s p →
    Gives (.delayRegisterWrite p i v) s fun t =>
      t.rd (dlyReg p i) = v &&& dlyMask i ∧ Keeps s t [] ∧ KeepsRegs s t [dlyReg p i]) ∧
  (∀ (s : State) (p : Fin 64) (i : Fin 60) (v : Word), s.live (.pc p) = true → s.pcs[p].granted = true ∧ s.bit
     (Reg.PC_SCHED_STATUS p) Fld.PC_SCHED_STATUS_TRUING = false →
    Gives (.delayRegisterWrite p i v) s fun t =>
      t.bit (Reg.PC_TRUE_STATUS p) Fld.PC_TRUE_STATUS_DLY_WRITE_REFUSED = true ∧ (∀ j, j < 60 → t.rd (dlyReg p j) =
        s.rd (dlyReg p j)) ∧ Keeps s t [] ∧ KeepsRegs s t [Reg.PC_TRUE_STATUS p]) ∧
  (∀ (s : State) (p : Fin 64) (k n0 n1 : Nat), s.fwRuns .upkeep = true → s.phase = 8 ∧ s.bit Reg.FW_TRUE_CFG
     Fld.FW_TRUE_CFG_ENABLE = true ∧ s.pcs[p].truingNext = none ∧ s.skipReason p = some k → n0 = s.gf Reg.FW_TRUE_CFG
     Fld.FW_TRUE_CFG_PERIOD_MS * 1000000 → n1 = s.age.windows[p] * n0 + p.val * n0 / 64 + s.self * n0 / 1024 →
     s.clk.pkg + 100000 ≤ n1 ∧ n1 ≤ s.clk.pkg + 1000000 →
    Gives (.truingArm p false) s fun t =>
      Skipped s t p k ∧ t.age = { s.age with windows := s.age.windows.set p (s.age.windows[p] + 1) } ∧ Keeps s t [.age,
        .inbox] ∧ KeepsRegs s t [Reg.PC_TRUE_STATUS p]) ∧
  (∀ (s : State) (p : Fin 64) (n0 n1 : Nat), n0 = s.gf Reg.FW_TRUE_CFG Fld.FW_TRUE_CFG_PERIOD_MS * 1000000 → n1 =
     s.age.windows[p] * n0 + p.val * n0 / 64 + s.self * n0 / 1024 → s.clk.pkg + 1000000 < n1 →
    Gives (.truingArm p false) s fun t =>
      t = s) ∧
  (∀ (s : State) (p : Fin 64) (k : Nat), s.fwRuns .upkeep = true → s.phase = 8 ∧ s.bit Reg.FW_TRUE_CFG
     Fld.FW_TRUE_CFG_ENABLE = true ∧ s.bit Reg.FW_TRUE_CFG Fld.FW_TRUE_CFG_EXPEDITE = true → (s.pcs[p].laneSuspect ≠ []
     ∨ s.age.expedite.contains p.val = true) ∧ s.pcs[p].expediteArmed = false ∧ s.pcs[p].truingNext = none ∧
     s.skipReason p = some k →
    Gives (.truingArm p true) s fun t =>
      Skipped s t p k ∧ t.pcs[p] = { s.pcs[p] with laneSuspect := [] } ∧ t.age =
        { s.age with expedite := s.age.expedite.filter (· ≠ p.val) } ∧ (∀ q, q ≠ p → t.pcs[q] = s.pcs[q]) ∧ Keeps s t
        [.age, .inbox, .pcs] ∧ KeepsRegs s t [Reg.PC_TRUE_STATUS p]) ∧
  (∀ (s : State) (p : Fin 64), s.fwRuns .upkeep = true → s.phase = 8 ∧ s.bit Reg.FW_TRUE_CFG Fld.FW_TRUE_CFG_ENABLE =
     true ∧ s.bit Reg.FW_TRUE_CFG Fld.FW_TRUE_CFG_EXPEDITE = false → s.pcs[p].laneSuspect ≠ [] ∨
     s.age.expedite.contains p.val = true → s.pcs[p].expediteArmed = false ∧ s.pcs[p].truingNext = none →
    Gives (.truingArm p true) s fun t =>
      t.pcs[p] = { s.pcs[p] with laneSuspect := [] } ∧ t.age =
        { s.age with expedite := s.age.expedite.filter (· ≠ p.val) } ∧ (∀ q, q ≠ p → t.pcs[q] = s.pcs[q]) ∧ Keeps s t
        [.age, .pcs] ∧ KeepsRegs s t []) ∧
  (∀ (s : State) (p : Fin 64), s.pcs[p].laneSuspect = [] ∧ s.age.expedite.contains p.val = false →
    Gives (.truingArm p true) s fun t =>
      t = s) ∧
  (∀ (s : State) (p : Fin 64), s.pcs[p].expediteArmed = true ∨ s.pcs[p].truingNext ≠ none →
    Gives (.truingArm p true) s fun t =>
      t = s) ∧
  (∀ (s : State) (p : Fin 64) (w : Truing) (n0 n1 : Nat), s.fwRuns .upkeep = true → s.phase = 8 ∧ s.bit Reg.FW_TRUE_CFG
     Fld.FW_TRUE_CFG_ENABLE = true ∧ s.pcs[p].truing = some w ∧ s.pcs[p].truingNext = none ∧ s.skipReason p = none → n0
     = s.gf Reg.FW_TRUE_CFG Fld.FW_TRUE_CFG_PERIOD_MS * 1000000 → n1 = s.age.windows[p] * n0 + p.val * n0 / 64 + s.self
     * n0 / 1024 → s.clk.pkg + 100000 ≤ n1 ∧ n1 ≤ s.clk.pkg + 1000000 →
    Gives (.truingArm p false) s fun t =>
      t.pcs[p] = { s.pcs[p] with
            truing := some (if w.opened = true ∨ w.at_ ≤ n1 then w else armed s p n1 false),
            truingNext := some (if w.opened = true ∨ w.at_ ≤ n1 then armed s p n1 false else w) } ∧ t.age =
        { s.age with windows := s.age.windows.set p (s.age.windows[p] + 1) } ∧ (∀ q, q ≠ p → t.pcs[q] = s.pcs[q]) ∧
        Keeps s t [.pcs, .age] ∧ KeepsRegs s t []) ∧
  (∀ (s : State) (p : Fin 64) (w : Truing), s.live (.pc p) = true → s.pcs[p].truing = some w ∧ w.opened = false ∧ w.at_
     ≤ s.now (.pc p) ∧ s.shutdown = true →
    Gives (.truingWindowOpen p) s fun t =>
      Skipped s t p 1 ∧ t.pcs[p] = { s.pcs[p] with truing := s.pcs[p].truingNext, truingNext := none } ∧ (∀ q, q ≠ p →
        t.pcs[q] = s.pcs[q]) ∧ Keeps s t [.inbox, .pcs] ∧ KeepsRegs s t [Reg.PC_TRUE_STATUS p]) ∧
  (∀ (s : State) (p : Fin 64), s.pcs[p].truing.all (fun w => w.opened || decide (s.now (.pc p) < w.at_)) = true →
    Gives (.truingWindowOpen p) s fun t =>
      t = s) ∧
  (∀ (s : State) (p : Fin 64) (r : Probes), s.pcs[p].truing.all (fun w => !w.opened || w.posted || decide (s.now (.pc
     p) < w.at_ + 1000)) = true →
    Gives (.truingProbesPosted p r) s fun t =>
      t = s) ∧
  (∀ (s : State) (p : Fin 64) (w : Truing) (r : Probes) (lane : Option (Fin 38)), s.fwRuns .upkeep = true →
     s.pcs[p].truing = some w ∧ w.probes = some r ∧ w.opened = true ∧ w.done = false ∧ w.timedOut = false → s.now (.pc
     p) < w.at_ + 1300 →
    Gives (.truingDone p lane) s fun t =>
      t.pcs[p] = { s.pcs[p] with truing := some { w with done := true } } ∧ (lane ≠ none → t.bit (Reg.PC_TRUE_STATUS p)
        Fld.PC_TRUE_STATUS_TRUE_FAILED = true ∧ t.inbox.unlace = s.inbox.unlace ++ [p.val] ∧ ∀ i, i < 60 → t.rd (dlyReg
        p i) = s.rd (dlyReg p i)) ∧ (∀ q, q ≠ p → t.pcs[q] = s.pcs[q]) ∧ Keeps s t [.pcs, .inbox, .age, .margins] ∧
        KeepsRegs s t (truedRegs p)) ∧
  (∀ (s : State) (p : Fin 64) (w : Truing) (r : Probes) (g : Nat), s.fwRuns .upkeep = true ∧ s.pcs[p].truing = some w ∧
     w.probes = some r ∧ w.opened = true ∧ w.done = false ∧ w.timedOut = false ∧ s.now (.pc p) < w.at_ + 1300 →
     s.age.guards[p] + g = s.guardInForce ∧ 0 < g ∧ s.age.swap = [] → r.reference = 0 ∧ OnlyRx r 0 0 → s.margins =
     { usual := [], edges := [] } →
    Gives (.truingDone p none) s fun t =>
      t.gf (Reg.PC_TIM_ROW p) Fld.PC_TIM_ROW_TRCD = min 63 (s.gf (Reg.PC_TIM_ROW p) Fld.PC_TIM_ROW_TRCD + g) ∧ t.gf
        (Reg.PC_TIM_ROW p) Fld.PC_TIM_ROW_TRP = min 63 (s.gf (Reg.PC_TIM_ROW p) Fld.PC_TIM_ROW_TRP + g) ∧ t.gf
        (Reg.PC_TIM_COL p) Fld.PC_TIM_COL_TWR = min 63 (s.gf (Reg.PC_TIM_COL p) Fld.PC_TIM_COL_TWR + g) ∧ t.age.guards
        = s.age.guards.set p s.guardInForce ∧ Keeps s t [.pcs, .inbox, .age] ∧ KeepsRegs s t [Reg.PC_TIM_ROW p,
        Reg.PC_TIM_COL p, Reg.PC_SCHED_STATUS p]) ∧
  (∀ (s : State) (p : Fin 64) (lane : Option (Fin 38)), s.pcs[p].truing.all (fun w => w.probes.isNone || !w.opened ||
     w.done || w.timedOut || decide (w.at_ + 1300 ≤ s.now (.pc p))) = true →
    Gives (.truingDone p lane) s fun t =>
      t = s) ∧
  (∀ (s : State) (p : Fin 64), s.pcs[p].truing.all (fun w => !w.opened || decide (s.now (.pc p) < w.at_ + 1600)) = true
     →
    Gives (.truingWindowEnd p) s fun t =>
      t = s) ∧
  (∀ (s : State) (p : Fin 64), s.now (.pc p) / 1000000000 ≤ s.pcs[p].ceWindow →
    Gives (.laneCeWindow p) s fun t =>
      t = s) ∧
  (∀ (s : State) (v : Word), Reached s →
    Gives (.fwTrueCfgWrite v) s fun t =>
      t.gf Reg.FW_TRUE_CFG Fld.FW_TRUE_CFG_LANE_CE_LIMIT = max 1 (v.toNat / 2 ^ 16 % 256) ∧ t.gf Reg.FW_TRUE_CFG
        Fld.FW_TRUE_CFG_PERIOD_MS = max 256 (v.toNat % 65536) ∧ t.bit Reg.FW_TRUE_CFG Fld.FW_TRUE_CFG_ENABLE =
        v.getLsbD 31 ∧ (∀ p : Fin 64, t.pcs[p] = { s.pcs[p] with ceNext := max 1 (v.toNat / 2 ^ 16 % 256) }) ∧ (s.gf
        Reg.FW_TRUE_CFG Fld.FW_TRUE_CFG_PERIOD_MS ≠ max 256 (v.toNat % 65536) → ∀ p : Fin 64, t.clk.pkg + 100000 ≤
        t.windowTime p t.age.windows[p]) ∧ Answered s t false ∧ Keeps s t [.mgt, .pcs, .age] ∧ KeepsRegs s t
        [Reg.FW_TRUE_CFG])

/-! ### Rules stated whole -/

/-- DISARM cancels an armed shift: decided first, ARMED is 0, the banks and SHIFT_COUNT are as they were, and the
shift that follows changes nothing. Decided after the shift, DISARM changes neither ARMED, the banks nor SHIFT_COUNT,
which shows the shift. While ARMED is 0, DISARM does nothing that the same write without it would not do. Forms
stated to complete (exec answers next): slotDisarm, slotShift, starveNWrite. -/
def Obligations.DisarmAgainstShift : Prop :=
  (∀ (s : State) (p : Fin 64) (v : Word), s.mgtReady = true → s.live (.pc p) = true → s.bit (Reg.SLOT_STATUS p)
     Fld.SLOT_STATUS_ARMED = true →
    Gives (.slotDisarm p v) s fun t =>
      t.bit (Reg.SLOT_STATUS p) Fld.SLOT_STATUS_ARMED = false ∧ t.gf (Reg.SLOT_STATUS p) Fld.SLOT_STATUS_SHIFT_COUNT =
        s.gf (Reg.SLOT_STATUS p) Fld.SLOT_STATUS_SHIFT_COUNT ∧ t.gf (Reg.SLOT_STATUS p) Fld.SLOT_STATUS_ACTIVE_BANK =
        s.gf (Reg.SLOT_STATUS p) Fld.SLOT_STATUS_ACTIVE_BANK ∧ (∀ w, w < 32 → t.rd (Reg.SLOT_ACTIVE p w) = s.rd
        (Reg.SLOT_ACTIVE p w) ∧ t.rd (Reg.SLOT_SHADOW p w) = s.rd (Reg.SLOT_SHADOW p w)) ∧ (Gives (.slotShift p) t fun
        u => u = t) ∧ Answered s t false ∧ Keeps s t [.mgt] ∧ KeepsRegs s t [Reg.SLOT_STATUS p, Reg.SLOT_CTRL p]) ∧
  (∀ (s : State) (p : Fin 64) (v : Word), s.mgtReady = true → s.live (.pc p) = true → s.bit (Reg.SLOT_STATUS p)
     Fld.SLOT_STATUS_ARMED = true → s.rd64 (Reg.SLOT_SHIFT_TIME p) ≤ s.now (.pc p) →
    Gives (.slotShift p) s fun t =>
      t.bit (Reg.SLOT_STATUS p) Fld.SLOT_STATUS_ARMED = false ∧ (Gives (.slotDisarm p v) t fun u => u.bit
        (Reg.SLOT_STATUS p) Fld.SLOT_STATUS_ARMED = false ∧ u.gf (Reg.SLOT_STATUS p) Fld.SLOT_STATUS_SHIFT_COUNT =
        (s.gf (Reg.SLOT_STATUS p) Fld.SLOT_STATUS_SHIFT_COUNT + 1) % 2 ^ Fld.SLOT_STATUS_SHIFT_COUNT.width ∧ u.gf
        (Reg.SLOT_STATUS p) Fld.SLOT_STATUS_ACTIVE_BANK = 1 - s.gf (Reg.SLOT_STATUS p) Fld.SLOT_STATUS_ACTIVE_BANK ∧
        (∀ w, w < 32 → u.rd (Reg.SLOT_ACTIVE p w) = s.rd (Reg.SLOT_SHADOW p w) ∧ u.rd (Reg.SLOT_SHADOW p w) = s.rd
        (Reg.SLOT_ACTIVE p w)) ∧ Answered t u false ∧ Keeps t u [.mgt] ∧ KeepsRegs t u [Reg.SLOT_STATUS p,
        Reg.SLOT_CTRL p])) ∧
  (∀ (s : State) (p : Fin 64) (v : Word), s.bit (Reg.SLOT_STATUS p) Fld.SLOT_STATUS_ARMED = false →
    Gives (.slotDisarm p v) s fun t =>
      Gives (.starveNWrite p v) s fun u => u = t)

/-- The window keeps every delay, reference and lane-map word in force at T. When DONE has not arrived by 1,300 ns
after T, every one of them is restored; with DONE nothing is. From 1,300 ns until the window ends a write of one of
these registers changes none of them and sets DLY_WRITE_REFUSED. Forms stated to complete (exec answers next):
truingWindowOpen, truingDoneTimeout, delayRegisterWrite. -/
def Obligations.LateTruingResult : Prop :=
  (∀ (s : State) (p : Fin 64) (w : Truing), s.live (.pc p) = true → s.pcs[p].truing = some w → w.opened = false → w.at_
     ≤ s.now (.pc p) → s.shutdown = false →
    Gives (.truingWindowOpen p) s fun t =>
      t.pcs[p].truing = some { w with
            opened := true, saved := s.delays p, place := s.referenceAt p (truingRow w.no s.groups) rowsPerBank,
            timing := (s.rd (Reg.PC_TIM_ROW p), s.rd (Reg.PC_TIM_COL p)) } ∧ (∀ i, i < 60 → t.rd (dlyReg p i) = s.rd
        (dlyReg p i)) ∧ t.bit (Reg.PC_SCHED_STATUS p) Fld.PC_SCHED_STATUS_TRUING = true ∧ (∀ q, q ≠ p → t.pcs[q] =
        s.pcs[q]) ∧ Keeps s t [.pcs] ∧ KeepsRegs s t [Reg.PC_SCHED_STATUS p]) ∧
  (∀ (s : State) (u : State) (p : Fin 64) (w : Truing), s.live (.pc p) = true → s.pcs[p].truing = some w → w.saved =
     u.delays p → w.opened = true ∧ w.done = false ∧ w.timedOut = false → w.at_ + 1300 ≤ s.now (.pc p) →
    Gives (.truingDoneTimeout p) s fun t =>
      (∀ i, i < 60 → t.rd (dlyReg p i) = u.rd (dlyReg p i)) ∧ t.pcs[p].truing = some { w with timedOut := true } ∧ (∀
        q, q ≠ p → t.pcs[q] = s.pcs[q]) ∧ Keeps s t [.pcs] ∧ KeepsRegs s t ((upto 60).map (dlyReg p))) ∧
  (∀ (s : State) (p : Fin 64) (w : Truing), s.live (.pc p) = true → s.pcs[p].truing = some w → w.done = true →
    Gives (.truingDoneTimeout p) s fun t =>
      t = s) ∧
  (∀ (s : State) (p : Fin 64) (w : Truing) (i : Fin 60) (v : Word), s.live (.pc p) = true → s.pcs[p].truing = some w →
     w.opened = true → w.at_ + 1300 ≤ s.now (.pc p) →
    Gives (.delayRegisterWrite p i v) s fun t =>
      (∀ j, j < 60 → t.rd (dlyReg p j) = s.rd (dlyReg p j)) ∧ t.bit (Reg.PC_TRUE_STATUS p)
        Fld.PC_TRUE_STATUS_DLY_WRITE_REFUSED = true ∧ Keeps s t [] ∧ KeepsRegs s t [Reg.PC_TRUE_STATUS p])
end

