-- ==== Sys2Proof/Laws/Canon.lean ====
section
/-! SUPPORT. The canonical form of the sparse tables: every operation on a table keeps it, and what a read after a
write gives. -/

namespace Sys2Proof.Machine

set_option Elab.async false

/-- A walk over a list keeps what each of its steps keeps. -/
theorem foldl_keeps {α β : Type} {P : β → Prop} {f : β → α → β} (hf : ∀ b a, P b → P (f b a)) (l : List α) {b : β}
    (h : P b) : P (l.foldl f b) := by
  induction l generalizing b with
  | nil => exact h
  | cons a l ih => exact ih (hf _ _ h)

theorem foldl_ok {α : Type} {f : State → α → State} (hf : ∀ s a, s.Ok → (f s a).Ok) (l : List α) {s : State}
    (h : s.Ok) : (l.foldl f s).Ok := foldl_keeps hf l h

theorem getD_ok {o : Option State} {s : State} (ho : ∀ x, o = some x → x.Ok) (h : s.Ok) : (o.getD s).Ok := by
  cases o <;> simp_all

theorem findSome_ok {α : Type} {f : α → Option State} (hf : ∀ a x, f a = some x → x.Ok) (l : List α) {s : State}
    (h : s.Ok) : ((l.findSome? f).getD s).Ok :=
  getD_ok (fun x hx => by obtain ⟨a, -, ha⟩ := List.exists_of_findSome?_eq_some hx; exact hf a x ha) h

theorem cins_mem {α : Type} {a : Nat} {v : α} {m : List (Nat × α)} {e : Nat × α} (h : e ∈ cins a v m) :
    e = (a, v) ∨ e ∈ m := by
  induction m <;> grind [cins]

theorem cdel_wf {α : Type} [DecidableEq α] {d : Nat → α} {m : List (Nat × α)} (p : Nat × α → Bool) (h : cwf d m) :
    cwf d (m.filter p) := by
  induction m with
  | nil => rfl
  | cons e m ih => grind [cwf]

theorem cins_wf {α : Type} [DecidableEq α] {d : Nat → α} {m : List (Nat × α)} {a : Nat} {v : α} (hv : v ≠ d a)
    (ha : ∀ e ∈ m, e.1 ≠ a) (h : cwf d m) : cwf d (cins a v m) := by
  induction m with
  | nil => simp [cins, cwf, hv]
  | cons e m ih =>
    obtain ⟨k, w⟩ := e
    simp only [cwf, Bool.and_eq_true, decide_eq_true_eq, List.all_eq_true] at h
    obtain ⟨⟨h1, h2⟩, h3⟩ := h
    have hk : k ≠ a := ha (k, w) (by simp)
    unfold cins
    split
    · simp only [cwf, Bool.and_eq_true, decide_eq_true_eq, List.all_eq_true]
      exact ⟨⟨hv, fun e he => by rcases List.mem_cons.mp he with rfl | he; · assumption
                                 have := h2 e he; omega⟩, ⟨h1, h2⟩, h3⟩
    · simp only [cwf, Bool.and_eq_true, decide_eq_true_eq, List.all_eq_true]
      exact ⟨⟨h1, fun e he => by rcases cins_mem he with rfl | he; · omega
                                 exact h2 e he⟩, ih (fun e he => ha e (List.mem_cons_of_mem _ he)) h3⟩

theorem cset_wf {α : Type} [DecidableEq α] {d : Nat → α} {m : List (Nat × α)} (a : Nat) (v : α) (h : cwf d m) :
    cwf d (cset d m a v) := by
  unfold cset
  split
  · exact cdel_wf _ h
  · exact cins_wf (by assumption) (by grind [cdel]) (cdel_wf _ h)

theorem writeCells_wf {m : List Host.Cell} (k : Nat) (b : List Byte) (h : cwf cellReset m) :
    cwf cellReset (writeCells m k b) := by
  induction b generalizing m k with
  | nil => exact h
  | cons b bs ih => exact ih _ (cset_wf _ _ h)

theorem Stack.writeBurst_wf {k : Stack} (l : Loc) (b : List Byte) (h : cwf cellReset k.cells) :
    cwf cellReset (k.writeBurst l b).cells := writeCells_wf _ _ h

theorem ite_ok {c : Prop} [Decidable c] {x y : State} (hx : x.Ok) (hy : y.Ok) : (if c then x else y).Ok := by
  split <;> assumption

theorem ite_snd_ok {α : Type} {c : Prop} [Decidable c] {x y : α × State} (hx : x.2.Ok) (hy : y.2.Ok) :
    (if c then x else y).2.Ok := by
  split <;> assumption

theorem cget_filter {α : Type} {d : Nat → α} {m : List (Nat × α)} {p : Nat × α → Bool} {b : Nat}
    (h : ∀ v, p (b, v) = true) : cget d (m.filter p) b = cget d m b := by
  induction m <;> grind [cget, List.filter_cons]

theorem cget_cdel {α : Type} {d : Nat → α} {m : List (Nat × α)} {a b : Nat} (h : b ≠ a) :
    cget d (cdel a m) b = cget d m b := cget_filter (by simp [h])

theorem cget_unlisted {α : Type} {d : Nat → α} {m : List (Nat × α)} {b : Nat} (h : ∀ e ∈ m, e.1 ≠ b) :
    cget d m b = d b := by
  induction m <;> grind [cget]

theorem cget_cdel_self {α : Type} {d : Nat → α} {m : List (Nat × α)} {a : Nat} : cget d (cdel a m) a = d a :=
  cget_unlisted (by simp [cdel])

theorem cget_cins {α : Type} {d : Nat → α} {m : List (Nat × α)} {a b : Nat} {v : α} (h : ∀ e ∈ m, e.1 ≠ a) :
    cget d (cins a v m) b = if b = a then v else cget d m b := by
  induction m <;> grind [cget, cins]

/-- A read after a write: the value written at its key, and every other key as before. -/
theorem cget_cset {α : Type} [DecidableEq α] {d : Nat → α} {m : List (Nat × α)} {a b : Nat} {v : α} :
    cget d (cset d m a v) b = if b = a then v else cget d m b := by
  unfold cset
  split
  · by_cases h : b = a
    · subst h; simp [cget_cdel_self, *]
    · simp [cget_cdel h, h]
  · rw [cget_cins (by simp [cdel])]
    split
    · rfl
    · exact cget_cdel (by assumption)

end Sys2Proof.Machine
end

