-- ==== Sys2Proof/Laws/Keeps.lean ====
section
/-! SUPPORT. Agreement with a state outside a list of regions: what updates of one region, walks and choices keep. -/

namespace Sys2Proof.Machine

set_option Elab.async false

theorem Keeps.refl (s : State) (ps : List Region) : Keeps s s ps := fun r _ => by cases r <;> rfl

/-- A walk over a list keeps what each of its steps keeps. -/
theorem foldl_keeps' {α : Type} {s0 : State} {ps : List Region} {f : State → α → State}
    (hf : ∀ s a, Keeps s0 s ps → Keeps s0 (f s a) ps) (l : List α) {s : State} (h : Keeps s0 s ps) :
    Keeps s0 (l.foldl f s) ps := foldl_keeps hf l h

theorem Keeps.set_pending {s0 s : State} {ps : List Region} (h : Keeps s0 s ps) (m : Region.pending ∈ ps) (x) :
    Keeps s0 { s with pending := x } ps := fun r hr => by cases r <;> first | exact absurd m hr | exact h _ hr

theorem Keeps.set_free {s0 s : State} {ps : List Region} (h : Keeps s0 s ps) (m : Region.free ∈ ps) (x) :
    Keeps s0 { s with free := x } ps := fun r hr => by cases r <;> first | exact absurd m hr | exact h _ hr

theorem Keeps.set_regs {s0 s : State} {ps : List Region} (h : Keeps s0 s ps) (x) :
    Keeps s0 { s with regs := x } ps := fun r hr => by cases r <;> exact h _ hr

theorem Keeps.set_mgt {s0 s : State} {ps : List Region} (h : Keeps s0 s ps) (m : Region.mgt ∈ ps) (x) :
    Keeps s0 { s with mgt := x } ps := fun r hr => by cases r <;> first | exact absurd m hr | exact h _ hr

theorem Keeps.set_straps {s0 s : State} {ps : List Region} (h : Keeps s0 s ps) (m : Region.straps ∈ ps) (x) :
    Keeps s0 { s with straps := x } ps := fun r hr => by cases r <;> first | exact absurd m hr | exact h _ hr

theorem Keeps.set_pins {s0 s : State} {ps : List Region} (h : Keeps s0 s ps) (m : Region.pins ∈ ps) (x) :
    Keeps s0 { s with pins := x } ps := fun r hr => by cases r <;> first | exact absurd m hr | exact h _ hr

theorem Keeps.set_clk {s0 s : State} {ps : List Region} (h : Keeps s0 s ps) (m : Region.clk ∈ ps) (x) :
    Keeps s0 { s with clk := x } ps := fun r hr => by cases r <;> first | exact absurd m hr | exact h _ hr

theorem Keeps.set_pwr {s0 s : State} {ps : List Region} (h : Keeps s0 s ps) (m : Region.pwr ∈ ps) (x) :
    Keeps s0 { s with pwr := x } ps := fun r hr => by cases r <;> first | exact absurd m hr | exact h _ hr

theorem Keeps.set_paths {s0 s : State} {ps : List Region} (h : Keeps s0 s ps) (m : Region.paths ∈ ps) (x) :
    Keeps s0 { s with paths := x } ps := fun r hr => by cases r <;> first | exact absurd m hr | exact h _ hr

theorem Keeps.set_pcs {s0 s : State} {ps : List Region} (h : Keeps s0 s ps) (m : Region.pcs ∈ ps) (x) :
    Keeps s0 { s with pcs := x } ps := fun r hr => by cases r <;> first | exact absurd m hr | exact h _ hr

theorem Keeps.set_copiers {s0 s : State} {ps : List Region} (h : Keeps s0 s ps) (m : Region.copiers ∈ ps) (x) :
    Keeps s0 { s with copiers := x } ps := fun r hr => by cases r <;> first | exact absurd m hr | exact h _ hr

theorem Keeps.set_stack {s0 s : State} {ps : List Region} (h : Keeps s0 s ps) (m : Region.stack ∈ ps) (x) :
    Keeps s0 { s with stack := x } ps := fun r hr => by cases r <;> first | exact absurd m hr | exact h _ hr

theorem Keeps.set_refresh {s0 s : State} {ps : List Region} (h : Keeps s0 s ps) (m : Region.refresh ∈ ps) (x) :
    Keeps s0 { s with refresh := x } ps := fun r hr => by cases r <;> first | exact absurd m hr | exact h _ hr

theorem Keeps.set_tests {s0 s : State} {ps : List Region} (h : Keeps s0 s ps) (m : Region.tests ∈ ps) (x) :
    Keeps s0 { s with tests := x } ps := fun r hr => by cases r <;> first | exact absurd m hr | exact h _ hr

theorem Keeps.set_inbox {s0 s : State} {ps : List Region} (h : Keeps s0 s ps) (m : Region.inbox ∈ ps) (x) :
    Keeps s0 { s with inbox := x } ps := fun r hr => by cases r <;> first | exact absurd m hr | exact h _ hr

theorem Keeps.set_ring {s0 s : State} {ps : List Region} (h : Keeps s0 s ps) (m : Region.ring ∈ ps) (x) :
    Keeps s0 { s with ring := x } ps := fun r hr => by cases r <;> first | exact absurd m hr | exact h _ hr

theorem Keeps.set_chain {s0 s : State} {ps : List Region} (h : Keeps s0 s ps) (m : Region.chain ∈ ps) (x) :
    Keeps s0 { s with chain := x } ps := fun r hr => by cases r <;> first | exact absurd m hr | exact h _ hr

theorem Keeps.set_pkg {s0 s : State} {ps : List Region} (h : Keeps s0 s ps) (m : Region.pkg ∈ ps) (x) :
    Keeps s0 { s with pkg := x } ps := fun r hr => by cases r <;> first | exact absurd m hr | exact h _ hr

theorem Keeps.set_fw {s0 s : State} {ps : List Region} (h : Keeps s0 s ps) (m : Region.fw ∈ ps) (x) :
    Keeps s0 { s with fw := x } ps := fun r hr => by cases r <;> first | exact absurd m hr | exact h _ hr

theorem Keeps.set_sched {s0 s : State} {ps : List Region} (h : Keeps s0 s ps) (m : Region.sched ∈ ps) (x) :
    Keeps s0 { s with sched := x } ps := fun r hr => by cases r <;> first | exact absurd m hr | exact h _ hr

theorem Keeps.set_seq {s0 s : State} {ps : List Region} (h : Keeps s0 s ps) (m : Region.seq ∈ ps) (x) :
    Keeps s0 { s with seq := x } ps := fun r hr => by cases r <;> first | exact absurd m hr | exact h _ hr

theorem Keeps.set_tags {s0 s : State} {ps : List Region} (h : Keeps s0 s ps) (m : Region.tags ∈ ps) (x) :
    Keeps s0 { s with tags := x } ps := fun r hr => by cases r <;> first | exact absurd m hr | exact h _ hr

theorem Keeps.set_rmt {s0 s : State} {ps : List Region} (h : Keeps s0 s ps) (m : Region.rmt ∈ ps) (x) :
    Keeps s0 { s with rmt := x } ps := fun r hr => by cases r <;> first | exact absurd m hr | exact h _ hr

theorem Keeps.set_margins {s0 s : State} {ps : List Region} (h : Keeps s0 s ps) (m : Region.margins ∈ ps) (x) :
    Keeps s0 { s with margins := x } ps := fun r hr => by cases r <;> first | exact absurd m hr | exact h _ hr

theorem Keeps.set_age {s0 s : State} {ps : List Region} (h : Keeps s0 s ps) (m : Region.age ∈ ps) (x) :
    Keeps s0 { s with age := x } ps := fun r hr => by cases r <;> first | exact absurd m hr | exact h _ hr

theorem Keeps.set_therm {s0 s : State} {ps : List Region} (h : Keeps s0 s ps) (m : Region.therm ∈ ps) (x) :
    Keeps s0 { s with therm := x } ps := fun r hr => by cases r <;> first | exact absurd m hr | exact h _ hr

theorem Keeps.set_cnt {s0 s : State} {ps : List Region} (h : Keeps s0 s ps) (m : Region.cnt ∈ ps) (x) :
    Keeps s0 { s with cnt := x } ps := fun r hr => by cases r <;> first | exact absurd m hr | exact h _ hr

theorem Keeps.set_inj {s0 s : State} {ps : List Region} (h : Keeps s0 s ps) (m : Region.inj ∈ ps) (x) :
    Keeps s0 { s with inj := x } ps := fun r hr => by cases r <;> first | exact absurd m hr | exact h _ hr

theorem ite_keeps {s0 : State} {ps : List Region} {c : Prop} [Decidable c] {x y : State} (hx : Keeps s0 x ps)
    (hy : Keeps s0 y ps) : Keeps s0 (if c then x else y) ps := by
  split <;> assumption

theorem ite_snd_keeps {s0 : State} {ps : List Region} {α : Type} {c : Prop} [Decidable c] {x y : α × State}
    (hx : Keeps s0 x.2 ps) (hy : Keeps s0 y.2 ps) : Keeps s0 (if c then x else y).2 ps := by
  split <;> assumption

theorem getD_keeps {s0 : State} {ps : List Region} {o : Option State} {s : State} (ho : ∀ x, o = some x → Keeps s0 x ps)
    (h : Keeps s0 s ps) : Keeps s0 (o.getD s) ps := by
  cases o <;> simp_all

theorem findSome_keeps {s0 : State} {ps : List Region} {α : Type} {f : α → Option State}
    (hf : ∀ a x, f a = some x → Keeps s0 x ps) (l : List α) {s : State} (h : Keeps s0 s ps) :
    Keeps s0 ((l.findSome? f).getD s) ps :=
  getD_keeps (fun x hx => by obtain ⟨a, -, ha⟩ := List.exists_of_findSome?_eq_some hx; exact hf a x ha) h

theorem Keeps.set_regs_mgt {s0 s : State} {ps : List Region} (h : Keeps s0 s ps) (m : Region.mgt ∈ ps) (x) (y) :
    Keeps s0 { s with regs := x, mgt := y } ps :=
  fun r hr => by cases r <;> first | exact absurd m hr | exact h _ hr

theorem Keeps.set_pcs_copiers {s0 s : State} {ps : List Region} (h : Keeps s0 s ps) (m : Region.pcs ∈ ps)
    (m' : Region.copiers ∈ ps) (x) (y) : Keeps s0 { s with pcs := x, copiers := y } ps :=
  fun r hr => by cases r <;> first | exact absurd m hr | exact absurd m' hr | exact h _ hr

theorem Keeps.set_pcs_free {s0 s : State} {ps : List Region} (h : Keeps s0 s ps) (m : Region.pcs ∈ ps)
    (m' : Region.free ∈ ps) (x) (y) : Keeps s0 { s with pcs := x, free := y } ps :=
  fun r hr => by cases r <;> first | exact absurd m hr | exact absurd m' hr | exact h _ hr

theorem Keeps.set_straps_clk {s0 s : State} {ps : List Region} (h : Keeps s0 s ps) (m : Region.straps ∈ ps)
    (m' : Region.clk ∈ ps) (x) (y) : Keeps s0 { s with straps := x, clk := y } ps :=
  fun r hr => by cases r <;> first | exact absurd m hr | exact absurd m' hr | exact h _ hr

end Sys2Proof.Machine
end

