-- ==== Sys2Proof/Laws/State.lean ====
section
/-! SUPPORT. What each update of the state leaves as it was, field by field, and what the shared guards do. -/

namespace Sys2Proof.Machine

set_option Elab.async false

/-- What wr leaves as it was. -/
@[simp] theorem State.wr_fields (s : State) (off : Nat) (v : Word) :
    (s.wr off v).pending = s.pending ∧ (s.wr off v).free = s.free ∧ (s.wr off v).mgt = s.mgt ∧
     (s.wr off v).straps = s.straps ∧ (s.wr off v).pins = s.pins ∧ (s.wr off v).clk = s.clk ∧
     (s.wr off v).pwr = s.pwr ∧ (s.wr off v).paths = s.paths ∧ (s.wr off v).pcs = s.pcs ∧
     (s.wr off v).copiers = s.copiers ∧ (s.wr off v).stack = s.stack ∧ (s.wr off v).refresh = s.refresh ∧
     (s.wr off v).tests = s.tests ∧ (s.wr off v).inbox = s.inbox ∧ (s.wr off v).ring = s.ring ∧
     (s.wr off v).chain = s.chain ∧ (s.wr off v).pkg = s.pkg ∧ (s.wr off v).fw = s.fw ∧
     (s.wr off v).sched = s.sched ∧ (s.wr off v).seq = s.seq ∧ (s.wr off v).tags = s.tags ∧
     (s.wr off v).rmt = s.rmt ∧ (s.wr off v).margins = s.margins ∧ (s.wr off v).age = s.age ∧
     (s.wr off v).therm = s.therm ∧ (s.wr off v).cnt = s.cnt ∧ (s.wr off v).inj = s.inj :=
  ⟨rfl, rfl, rfl, rfl, rfl, rfl, rfl, rfl, rfl, rfl, rfl, rfl, rfl, rfl, rfl, rfl, rfl, rfl, rfl, rfl, rfl, rfl,
    rfl, rfl, rfl, rfl, rfl⟩

/-- What resetRegs leaves as it was. -/
@[simp] theorem State.resetRegs_fields (s : State) (drop : Nat → Bool) :
    (s.resetRegs drop).pending = s.pending ∧ (s.resetRegs drop).free = s.free ∧
     (s.resetRegs drop).straps = s.straps ∧ (s.resetRegs drop).pins = s.pins ∧ (s.resetRegs drop).clk = s.clk ∧
     (s.resetRegs drop).pwr = s.pwr ∧ (s.resetRegs drop).paths = s.paths ∧ (s.resetRegs drop).pcs = s.pcs ∧
     (s.resetRegs drop).copiers = s.copiers ∧ (s.resetRegs drop).stack = s.stack ∧
     (s.resetRegs drop).refresh = s.refresh ∧ (s.resetRegs drop).tests = s.tests ∧
     (s.resetRegs drop).inbox = s.inbox ∧ (s.resetRegs drop).ring = s.ring ∧ (s.resetRegs drop).chain = s.chain ∧
     (s.resetRegs drop).pkg = s.pkg ∧ (s.resetRegs drop).fw = s.fw ∧ (s.resetRegs drop).sched = s.sched ∧
     (s.resetRegs drop).seq = s.seq ∧ (s.resetRegs drop).tags = s.tags ∧ (s.resetRegs drop).rmt = s.rmt ∧
     (s.resetRegs drop).margins = s.margins ∧ (s.resetRegs drop).age = s.age ∧ (s.resetRegs drop).therm = s.therm ∧
     (s.resetRegs drop).cnt = s.cnt ∧ (s.resetRegs drop).inj = s.inj :=
  ⟨rfl, rfl, rfl, rfl, rfl, rfl, rfl, rfl, rfl, rfl, rfl, rfl, rfl, rfl, rfl, rfl, rfl, rfl, rfl, rfl, rfl,
    rfl, rfl, rfl, rfl, rfl⟩

/-- What modPc leaves as it was. -/
@[simp] theorem State.modPc_fields (s : State) (p : Fin 64) (f : Pc → Pc) :
    (s.modPc p f).pending = s.pending ∧ (s.modPc p f).free = s.free ∧ (s.modPc p f).regs = s.regs ∧
     (s.modPc p f).mgt = s.mgt ∧ (s.modPc p f).straps = s.straps ∧ (s.modPc p f).pins = s.pins ∧
     (s.modPc p f).clk = s.clk ∧ (s.modPc p f).pwr = s.pwr ∧ (s.modPc p f).paths = s.paths ∧
     (s.modPc p f).copiers = s.copiers ∧ (s.modPc p f).stack = s.stack ∧ (s.modPc p f).refresh = s.refresh ∧
     (s.modPc p f).tests = s.tests ∧ (s.modPc p f).inbox = s.inbox ∧ (s.modPc p f).ring = s.ring ∧
     (s.modPc p f).chain = s.chain ∧ (s.modPc p f).pkg = s.pkg ∧ (s.modPc p f).fw = s.fw ∧
     (s.modPc p f).sched = s.sched ∧ (s.modPc p f).seq = s.seq ∧ (s.modPc p f).tags = s.tags ∧
     (s.modPc p f).rmt = s.rmt ∧ (s.modPc p f).margins = s.margins ∧ (s.modPc p f).age = s.age ∧
     (s.modPc p f).therm = s.therm ∧ (s.modPc p f).cnt = s.cnt ∧ (s.modPc p f).inj = s.inj ∧
     (∀ o, (s.modPc p f).rd o = s.rd o) :=
  ⟨rfl, rfl, rfl, rfl, rfl, rfl, rfl, rfl, rfl, rfl, rfl, rfl, rfl, rfl, rfl, rfl, rfl, rfl, rfl, rfl, rfl, rfl,
    rfl, rfl, rfl, rfl, rfl, fun _ => rfl⟩

/-- What modSlice leaves as it was. -/
@[simp] theorem State.modSlice_fields (s : State) (i : Fin 16) (f : Slice → Slice) :
    (s.modSlice i f).pending = s.pending ∧ (s.modSlice i f).free = s.free ∧ (s.modSlice i f).regs = s.regs ∧
     (s.modSlice i f).mgt = s.mgt ∧ (s.modSlice i f).straps = s.straps ∧ (s.modSlice i f).pins = s.pins ∧
     (s.modSlice i f).clk = s.clk ∧ (s.modSlice i f).pwr = s.pwr ∧ (s.modSlice i f).pcs = s.pcs ∧
     (s.modSlice i f).copiers = s.copiers ∧ (s.modSlice i f).stack = s.stack ∧
     (s.modSlice i f).refresh = s.refresh ∧ (s.modSlice i f).tests = s.tests ∧ (s.modSlice i f).inbox = s.inbox ∧
     (s.modSlice i f).ring = s.ring ∧ (s.modSlice i f).chain = s.chain ∧ (s.modSlice i f).pkg = s.pkg ∧
     (s.modSlice i f).fw = s.fw ∧ (s.modSlice i f).sched = s.sched ∧ (s.modSlice i f).seq = s.seq ∧
     (s.modSlice i f).tags = s.tags ∧ (s.modSlice i f).rmt = s.rmt ∧ (s.modSlice i f).margins = s.margins ∧
     (s.modSlice i f).age = s.age ∧ (s.modSlice i f).therm = s.therm ∧ (s.modSlice i f).cnt = s.cnt ∧
     (s.modSlice i f).inj = s.inj ∧ (∀ o, (s.modSlice i f).rd o = s.rd o) :=
  ⟨rfl, rfl, rfl, rfl, rfl, rfl, rfl, rfl, rfl, rfl, rfl, rfl, rfl, rfl, rfl, rfl, rfl, rfl, rfl, rfl, rfl, rfl,
    rfl, rfl, rfl, rfl, rfl, fun _ => rfl⟩

/-- What modPort leaves as it was. -/
@[simp] theorem State.modPort_fields (s : State) (n : Fin 16) (f : HostPort → HostPort) :
    (s.modPort n f).pending = s.pending ∧ (s.modPort n f).free = s.free ∧ (s.modPort n f).regs = s.regs ∧
     (s.modPort n f).mgt = s.mgt ∧ (s.modPort n f).straps = s.straps ∧ (s.modPort n f).pins = s.pins ∧
     (s.modPort n f).clk = s.clk ∧ (s.modPort n f).pwr = s.pwr ∧ (s.modPort n f).pcs = s.pcs ∧
     (s.modPort n f).copiers = s.copiers ∧ (s.modPort n f).stack = s.stack ∧ (s.modPort n f).refresh = s.refresh ∧
     (s.modPort n f).tests = s.tests ∧ (s.modPort n f).inbox = s.inbox ∧ (s.modPort n f).ring = s.ring ∧
     (s.modPort n f).chain = s.chain ∧ (s.modPort n f).pkg = s.pkg ∧ (s.modPort n f).fw = s.fw ∧
     (s.modPort n f).sched = s.sched ∧ (s.modPort n f).seq = s.seq ∧ (s.modPort n f).tags = s.tags ∧
     (s.modPort n f).rmt = s.rmt ∧ (s.modPort n f).margins = s.margins ∧ (s.modPort n f).age = s.age ∧
     (s.modPort n f).therm = s.therm ∧ (s.modPort n f).cnt = s.cnt ∧ (s.modPort n f).inj = s.inj ∧
     (∀ o, (s.modPort n f).rd o = s.rd o) :=
  ⟨rfl, rfl, rfl, rfl, rfl, rfl, rfl, rfl, rfl, rfl, rfl, rfl, rfl, rfl, rfl, rfl, rfl, rfl, rfl, rfl, rfl, rfl,
    rfl, rfl, rfl, rfl, rfl, fun _ => rfl⟩

/-- What modPaths leaves as it was. -/
@[simp] theorem State.modPaths_fields (s : State) (f : Paths → Paths) :
    (s.modPaths f).pending = s.pending ∧ (s.modPaths f).free = s.free ∧ (s.modPaths f).regs = s.regs ∧
     (s.modPaths f).mgt = s.mgt ∧ (s.modPaths f).straps = s.straps ∧ (s.modPaths f).pins = s.pins ∧
     (s.modPaths f).clk = s.clk ∧ (s.modPaths f).pwr = s.pwr ∧ (s.modPaths f).pcs = s.pcs ∧
     (s.modPaths f).copiers = s.copiers ∧ (s.modPaths f).stack = s.stack ∧ (s.modPaths f).refresh = s.refresh ∧
     (s.modPaths f).tests = s.tests ∧ (s.modPaths f).inbox = s.inbox ∧ (s.modPaths f).ring = s.ring ∧
     (s.modPaths f).chain = s.chain ∧ (s.modPaths f).pkg = s.pkg ∧ (s.modPaths f).fw = s.fw ∧
     (s.modPaths f).sched = s.sched ∧ (s.modPaths f).seq = s.seq ∧ (s.modPaths f).tags = s.tags ∧
     (s.modPaths f).rmt = s.rmt ∧ (s.modPaths f).margins = s.margins ∧ (s.modPaths f).age = s.age ∧
     (s.modPaths f).therm = s.therm ∧ (s.modPaths f).cnt = s.cnt ∧ (s.modPaths f).inj = s.inj ∧
     (s.modPaths f).paths = f s.paths ∧ (∀ o, (s.modPaths f).rd o = s.rd o) :=
  ⟨rfl, rfl, rfl, rfl, rfl, rfl, rfl, rfl, rfl, rfl, rfl, rfl, rfl, rfl, rfl, rfl, rfl, rfl, rfl, rfl, rfl, rfl,
    rfl, rfl, rfl, rfl, rfl, rfl, fun _ => rfl⟩

/-- What modInbox leaves as it was. -/
@[simp] theorem State.modInbox_fields (s : State) (f : Inbox → Inbox) :
    (s.modInbox f).pending = s.pending ∧ (s.modInbox f).free = s.free ∧ (s.modInbox f).regs = s.regs ∧
     (s.modInbox f).mgt = s.mgt ∧ (s.modInbox f).straps = s.straps ∧ (s.modInbox f).pins = s.pins ∧
     (s.modInbox f).clk = s.clk ∧ (s.modInbox f).pwr = s.pwr ∧ (s.modInbox f).paths = s.paths ∧
     (s.modInbox f).pcs = s.pcs ∧ (s.modInbox f).copiers = s.copiers ∧ (s.modInbox f).stack = s.stack ∧
     (s.modInbox f).refresh = s.refresh ∧ (s.modInbox f).tests = s.tests ∧ (s.modInbox f).ring = s.ring ∧
     (s.modInbox f).chain = s.chain ∧ (s.modInbox f).pkg = s.pkg ∧ (s.modInbox f).fw = s.fw ∧
     (s.modInbox f).sched = s.sched ∧ (s.modInbox f).seq = s.seq ∧ (s.modInbox f).tags = s.tags ∧
     (s.modInbox f).rmt = s.rmt ∧ (s.modInbox f).margins = s.margins ∧ (s.modInbox f).age = s.age ∧
     (s.modInbox f).therm = s.therm ∧ (s.modInbox f).cnt = s.cnt ∧ (s.modInbox f).inj = s.inj ∧
     (s.modInbox f).inbox = f s.inbox ∧ (∀ o, (s.modInbox f).rd o = s.rd o) :=
  ⟨rfl, rfl, rfl, rfl, rfl, rfl, rfl, rfl, rfl, rfl, rfl, rfl, rfl, rfl, rfl, rfl, rfl, rfl, rfl, rfl, rfl, rfl,
    rfl, rfl, rfl, rfl, rfl, rfl, fun _ => rfl⟩

/-- What modPins leaves as it was. -/
@[simp] theorem State.modPins_fields (s : State) (f : Pins → Pins) :
    (s.modPins f).pending = s.pending ∧ (s.modPins f).free = s.free ∧ (s.modPins f).regs = s.regs ∧
     (s.modPins f).mgt = s.mgt ∧ (s.modPins f).straps = s.straps ∧ (s.modPins f).clk = s.clk ∧
     (s.modPins f).pwr = s.pwr ∧ (s.modPins f).paths = s.paths ∧ (s.modPins f).pcs = s.pcs ∧
     (s.modPins f).copiers = s.copiers ∧ (s.modPins f).stack = s.stack ∧ (s.modPins f).refresh = s.refresh ∧
     (s.modPins f).tests = s.tests ∧ (s.modPins f).inbox = s.inbox ∧ (s.modPins f).ring = s.ring ∧
     (s.modPins f).chain = s.chain ∧ (s.modPins f).pkg = s.pkg ∧ (s.modPins f).fw = s.fw ∧
     (s.modPins f).sched = s.sched ∧ (s.modPins f).seq = s.seq ∧ (s.modPins f).tags = s.tags ∧
     (s.modPins f).rmt = s.rmt ∧ (s.modPins f).margins = s.margins ∧ (s.modPins f).age = s.age ∧
     (s.modPins f).therm = s.therm ∧ (s.modPins f).cnt = s.cnt ∧ (s.modPins f).inj = s.inj ∧
     (s.modPins f).pins = f s.pins ∧ (∀ o, (s.modPins f).rd o = s.rd o) :=
  ⟨rfl, rfl, rfl, rfl, rfl, rfl, rfl, rfl, rfl, rfl, rfl, rfl, rfl, rfl, rfl, rfl, rfl, rfl, rfl, rfl, rfl, rfl,
    rfl, rfl, rfl, rfl, rfl, rfl, fun _ => rfl⟩

/-- What modPwr leaves as it was. -/
@[simp] theorem State.modPwr_fields (s : State) (f : Power → Power) :
    (s.modPwr f).pending = s.pending ∧ (s.modPwr f).free = s.free ∧ (s.modPwr f).regs = s.regs ∧
     (s.modPwr f).mgt = s.mgt ∧ (s.modPwr f).straps = s.straps ∧ (s.modPwr f).pins = s.pins ∧
     (s.modPwr f).clk = s.clk ∧ (s.modPwr f).paths = s.paths ∧ (s.modPwr f).pcs = s.pcs ∧
     (s.modPwr f).copiers = s.copiers ∧ (s.modPwr f).stack = s.stack ∧ (s.modPwr f).refresh = s.refresh ∧
     (s.modPwr f).tests = s.tests ∧ (s.modPwr f).inbox = s.inbox ∧ (s.modPwr f).ring = s.ring ∧
     (s.modPwr f).chain = s.chain ∧ (s.modPwr f).pkg = s.pkg ∧ (s.modPwr f).fw = s.fw ∧
     (s.modPwr f).sched = s.sched ∧ (s.modPwr f).seq = s.seq ∧ (s.modPwr f).tags = s.tags ∧
     (s.modPwr f).rmt = s.rmt ∧ (s.modPwr f).margins = s.margins ∧ (s.modPwr f).age = s.age ∧
     (s.modPwr f).therm = s.therm ∧ (s.modPwr f).cnt = s.cnt ∧ (s.modPwr f).inj = s.inj ∧
     (s.modPwr f).pwr = f s.pwr ∧ (∀ o, (s.modPwr f).rd o = s.rd o) :=
  ⟨rfl, rfl, rfl, rfl, rfl, rfl, rfl, rfl, rfl, rfl, rfl, rfl, rfl, rfl, rfl, rfl, rfl, rfl, rfl, rfl, rfl, rfl,
    rfl, rfl, rfl, rfl, rfl, rfl, fun _ => rfl⟩

/-- What modRing leaves as it was. -/
@[simp] theorem State.modRing_fields (s : State) (f : Ring → Ring) :
    (s.modRing f).pending = s.pending ∧ (s.modRing f).free = s.free ∧ (s.modRing f).regs = s.regs ∧
     (s.modRing f).mgt = s.mgt ∧ (s.modRing f).straps = s.straps ∧ (s.modRing f).pins = s.pins ∧
     (s.modRing f).clk = s.clk ∧ (s.modRing f).pwr = s.pwr ∧ (s.modRing f).paths = s.paths ∧
     (s.modRing f).pcs = s.pcs ∧ (s.modRing f).copiers = s.copiers ∧ (s.modRing f).stack = s.stack ∧
     (s.modRing f).refresh = s.refresh ∧ (s.modRing f).tests = s.tests ∧ (s.modRing f).inbox = s.inbox ∧
     (s.modRing f).chain = s.chain ∧ (s.modRing f).pkg = s.pkg ∧ (s.modRing f).fw = s.fw ∧
     (s.modRing f).sched = s.sched ∧ (s.modRing f).seq = s.seq ∧ (s.modRing f).tags = s.tags ∧
     (s.modRing f).rmt = s.rmt ∧ (s.modRing f).margins = s.margins ∧ (s.modRing f).age = s.age ∧
     (s.modRing f).therm = s.therm ∧ (s.modRing f).cnt = s.cnt ∧ (s.modRing f).inj = s.inj ∧
     (s.modRing f).ring = f s.ring ∧ (∀ o, (s.modRing f).rd o = s.rd o) :=
  ⟨rfl, rfl, rfl, rfl, rfl, rfl, rfl, rfl, rfl, rfl, rfl, rfl, rfl, rfl, rfl, rfl, rfl, rfl, rfl, rfl, rfl, rfl,
    rfl, rfl, rfl, rfl, rfl, rfl, fun _ => rfl⟩

/-- What modD2d leaves as it was. -/
@[simp] theorem State.modD2d_fields (s : State) (east : Bool) (f : D2dPort → D2dPort) :
    (s.modD2d east f).pending = s.pending ∧ (s.modD2d east f).free = s.free ∧ (s.modD2d east f).regs = s.regs ∧
     (s.modD2d east f).mgt = s.mgt ∧ (s.modD2d east f).straps = s.straps ∧ (s.modD2d east f).pins = s.pins ∧
     (s.modD2d east f).clk = s.clk ∧ (s.modD2d east f).pwr = s.pwr ∧ (s.modD2d east f).paths = s.paths ∧
     (s.modD2d east f).pcs = s.pcs ∧ (s.modD2d east f).copiers = s.copiers ∧ (s.modD2d east f).stack = s.stack ∧
     (s.modD2d east f).refresh = s.refresh ∧ (s.modD2d east f).tests = s.tests ∧ (s.modD2d east f).inbox = s.inbox ∧
     (s.modD2d east f).chain = s.chain ∧ (s.modD2d east f).pkg = s.pkg ∧ (s.modD2d east f).fw = s.fw ∧
     (s.modD2d east f).sched = s.sched ∧ (s.modD2d east f).seq = s.seq ∧ (s.modD2d east f).tags = s.tags ∧
     (s.modD2d east f).rmt = s.rmt ∧ (s.modD2d east f).margins = s.margins ∧ (s.modD2d east f).age = s.age ∧
     (s.modD2d east f).therm = s.therm ∧ (s.modD2d east f).cnt = s.cnt ∧ (s.modD2d east f).inj = s.inj ∧
     (∀ o, (s.modD2d east f).rd o = s.rd o) :=
  ⟨rfl, rfl, rfl, rfl, rfl, rfl, rfl, rfl, rfl, rfl, rfl, rfl, rfl, rfl, rfl, rfl, rfl, rfl, rfl, rfl, rfl, rfl,
    rfl, rfl, rfl, rfl, rfl, fun _ => rfl⟩

/-- What modTag leaves as it was. -/
@[simp] theorem State.modTag_fields (s : State) (id : Nat) (f : TagRec → TagRec) :
    (s.modTag id f).pending = s.pending ∧ (s.modTag id f).free = s.free ∧ (s.modTag id f).regs = s.regs ∧
     (s.modTag id f).mgt = s.mgt ∧ (s.modTag id f).straps = s.straps ∧ (s.modTag id f).pins = s.pins ∧
     (s.modTag id f).clk = s.clk ∧ (s.modTag id f).pwr = s.pwr ∧ (s.modTag id f).paths = s.paths ∧
     (s.modTag id f).pcs = s.pcs ∧ (s.modTag id f).copiers = s.copiers ∧ (s.modTag id f).stack = s.stack ∧
     (s.modTag id f).refresh = s.refresh ∧ (s.modTag id f).tests = s.tests ∧ (s.modTag id f).inbox = s.inbox ∧
     (s.modTag id f).ring = s.ring ∧ (s.modTag id f).chain = s.chain ∧ (s.modTag id f).pkg = s.pkg ∧
     (s.modTag id f).fw = s.fw ∧ (s.modTag id f).sched = s.sched ∧ (s.modTag id f).seq = s.seq ∧
     (s.modTag id f).rmt = s.rmt ∧ (s.modTag id f).margins = s.margins ∧ (s.modTag id f).age = s.age ∧
     (s.modTag id f).therm = s.therm ∧ (s.modTag id f).cnt = s.cnt ∧ (s.modTag id f).inj = s.inj ∧
     (∀ o, (s.modTag id f).rd o = s.rd o) :=
  ⟨rfl, rfl, rfl, rfl, rfl, rfl, rfl, rfl, rfl, rfl, rfl, rfl, rfl, rfl, rfl, rfl, rfl, rfl, rfl, rfl, rfl, rfl,
    rfl, rfl, rfl, rfl, rfl, fun _ => rfl⟩

/-- What stamp leaves as it was. -/
@[simp] theorem State.stamp_fields (s : State) (id : Nat) (stage : Nat) (time : Nat) :
    (s.stamp id stage time).pending = s.pending ∧ (s.stamp id stage time).free = s.free ∧
     (s.stamp id stage time).regs = s.regs ∧ (s.stamp id stage time).mgt = s.mgt ∧
     (s.stamp id stage time).straps = s.straps ∧ (s.stamp id stage time).pins = s.pins ∧
     (s.stamp id stage time).clk = s.clk ∧ (s.stamp id stage time).pwr = s.pwr ∧
     (s.stamp id stage time).paths = s.paths ∧ (s.stamp id stage time).pcs = s.pcs ∧
     (s.stamp id stage time).copiers = s.copiers ∧ (s.stamp id stage time).stack = s.stack ∧
     (s.stamp id stage time).refresh = s.refresh ∧ (s.stamp id stage time).tests = s.tests ∧
     (s.stamp id stage time).inbox = s.inbox ∧ (s.stamp id stage time).ring = s.ring ∧
     (s.stamp id stage time).chain = s.chain ∧ (s.stamp id stage time).pkg = s.pkg ∧
     (s.stamp id stage time).fw = s.fw ∧ (s.stamp id stage time).sched = s.sched ∧
     (s.stamp id stage time).seq = s.seq ∧ (s.stamp id stage time).rmt = s.rmt ∧
     (s.stamp id stage time).margins = s.margins ∧ (s.stamp id stage time).age = s.age ∧
     (s.stamp id stage time).therm = s.therm ∧ (s.stamp id stage time).cnt = s.cnt ∧
     (s.stamp id stage time).inj = s.inj ∧ (∀ o, (s.stamp id stage time).rd o = s.rd o) :=
  ⟨rfl, rfl, rfl, rfl, rfl, rfl, rfl, rfl, rfl, rfl, rfl, rfl, rfl, rfl, rfl, rfl, rfl, rfl, rfl, rfl, rfl, rfl,
    rfl, rfl, rfl, rfl, rfl, fun _ => rfl⟩

/-- What sendAccess leaves as it was. -/
@[simp] theorem State.sendAccess_fields (s : State) (a : Access) :
    (s.sendAccess a).pending = s.pending ∧ (s.sendAccess a).free = s.free ∧ (s.sendAccess a).regs = s.regs ∧
     (s.sendAccess a).mgt = s.mgt ∧ (s.sendAccess a).straps = s.straps ∧ (s.sendAccess a).pins = s.pins ∧
     (s.sendAccess a).clk = s.clk ∧ (s.sendAccess a).pwr = s.pwr ∧ (s.sendAccess a).pcs = s.pcs ∧
     (s.sendAccess a).copiers = s.copiers ∧ (s.sendAccess a).stack = s.stack ∧
     (s.sendAccess a).refresh = s.refresh ∧ (s.sendAccess a).tests = s.tests ∧ (s.sendAccess a).inbox = s.inbox ∧
     (s.sendAccess a).ring = s.ring ∧ (s.sendAccess a).chain = s.chain ∧ (s.sendAccess a).pkg = s.pkg ∧
     (s.sendAccess a).fw = s.fw ∧ (s.sendAccess a).sched = s.sched ∧ (s.sendAccess a).seq = s.seq ∧
     (s.sendAccess a).tags = s.tags ∧ (s.sendAccess a).rmt = s.rmt ∧ (s.sendAccess a).margins = s.margins ∧
     (s.sendAccess a).age = s.age ∧ (s.sendAccess a).therm = s.therm ∧ (s.sendAccess a).cnt = s.cnt ∧
     (s.sendAccess a).inj = s.inj ∧ (∀ o, (s.sendAccess a).rd o = s.rd o) :=
  ⟨rfl, rfl, rfl, rfl, rfl, rfl, rfl, rfl, rfl, rfl, rfl, rfl, rfl, rfl, rfl, rfl, rfl, rfl, rfl, rfl, rfl, rfl,
    rfl, rfl, rfl, rfl, rfl, fun _ => rfl⟩

/-- What tick leaves as it was. -/
@[simp] theorem State.tick_fields (s : State) :
    (s.tick).pending = s.pending ∧ (s.tick).regs = s.regs ∧ (s.tick).mgt = s.mgt ∧ (s.tick).straps = s.straps ∧
     (s.tick).pins = s.pins ∧ (s.tick).clk = s.clk ∧ (s.tick).pwr = s.pwr ∧ (s.tick).paths = s.paths ∧
     (s.tick).pcs = s.pcs ∧ (s.tick).copiers = s.copiers ∧ (s.tick).stack = s.stack ∧ (s.tick).refresh = s.refresh ∧
     (s.tick).tests = s.tests ∧ (s.tick).inbox = s.inbox ∧ (s.tick).ring = s.ring ∧ (s.tick).chain = s.chain ∧
     (s.tick).pkg = s.pkg ∧ (s.tick).fw = s.fw ∧ (s.tick).sched = s.sched ∧ (s.tick).seq = s.seq ∧
     (s.tick).tags = s.tags ∧ (s.tick).rmt = s.rmt ∧ (s.tick).margins = s.margins ∧ (s.tick).age = s.age ∧
     (s.tick).therm = s.therm ∧ (s.tick).cnt = s.cnt ∧ (s.tick).inj = s.inj ∧ (∀ o, (s.tick).rd o = s.rd o) :=
  ⟨rfl, rfl, rfl, rfl, rfl, rfl, rfl, rfl, rfl, rfl, rfl, rfl, rfl, rfl, rfl, rfl, rfl, rfl, rfl, rfl, rfl, rfl,
    rfl, rfl, rfl, rfl, rfl, fun _ => rfl⟩

/-- What mgtDone leaves as it was. -/
@[simp] theorem State.mgtDone_fields (s : State) (err : Bool) (rdata : Word) :
    (s.mgtDone err rdata).pending = s.pending ∧ (s.mgtDone err rdata).free = s.free ∧
     (s.mgtDone err rdata).regs = s.regs ∧ (s.mgtDone err rdata).straps = s.straps ∧
     (s.mgtDone err rdata).pins = s.pins ∧ (s.mgtDone err rdata).clk = s.clk ∧ (s.mgtDone err rdata).pwr = s.pwr ∧
     (s.mgtDone err rdata).paths = s.paths ∧ (s.mgtDone err rdata).pcs = s.pcs ∧
     (s.mgtDone err rdata).copiers = s.copiers ∧ (s.mgtDone err rdata).stack = s.stack ∧
     (s.mgtDone err rdata).refresh = s.refresh ∧ (s.mgtDone err rdata).tests = s.tests ∧
     (s.mgtDone err rdata).inbox = s.inbox ∧ (s.mgtDone err rdata).ring = s.ring ∧
     (s.mgtDone err rdata).chain = s.chain ∧ (s.mgtDone err rdata).pkg = s.pkg ∧ (s.mgtDone err rdata).fw = s.fw ∧
     (s.mgtDone err rdata).sched = s.sched ∧ (s.mgtDone err rdata).seq = s.seq ∧
     (s.mgtDone err rdata).tags = s.tags ∧ (s.mgtDone err rdata).rmt = s.rmt ∧
     (s.mgtDone err rdata).margins = s.margins ∧ (s.mgtDone err rdata).age = s.age ∧
     (s.mgtDone err rdata).therm = s.therm ∧ (s.mgtDone err rdata).cnt = s.cnt ∧ (s.mgtDone err rdata).inj = s.inj ∧
     (∀ o, (s.mgtDone err rdata).rd o = s.rd o) :=
  ⟨rfl, rfl, rfl, rfl, rfl, rfl, rfl, rfl, rfl, rfl, rfl, rfl, rfl, rfl, rfl, rfl, rfl, rfl, rfl, rfl, rfl, rfl,
    rfl, rfl, rfl, rfl, rfl, fun _ => rfl⟩

/-- What putBurst leaves as it was. -/
@[simp] theorem State.putBurst_fields (s : State) (l : Loc) (data : List Byte) (poison : Bool) :
    (s.putBurst l data poison).pending = s.pending ∧ (s.putBurst l data poison).free = s.free ∧
     (s.putBurst l data poison).regs = s.regs ∧ (s.putBurst l data poison).mgt = s.mgt ∧
     (s.putBurst l data poison).straps = s.straps ∧ (s.putBurst l data poison).pins = s.pins ∧
     (s.putBurst l data poison).clk = s.clk ∧ (s.putBurst l data poison).pwr = s.pwr ∧
     (s.putBurst l data poison).paths = s.paths ∧ (s.putBurst l data poison).pcs = s.pcs ∧
     (s.putBurst l data poison).copiers = s.copiers ∧ (s.putBurst l data poison).refresh = s.refresh ∧
     (s.putBurst l data poison).tests = s.tests ∧ (s.putBurst l data poison).inbox = s.inbox ∧
     (s.putBurst l data poison).ring = s.ring ∧ (s.putBurst l data poison).chain = s.chain ∧
     (s.putBurst l data poison).pkg = s.pkg ∧ (s.putBurst l data poison).fw = s.fw ∧
     (s.putBurst l data poison).sched = s.sched ∧ (s.putBurst l data poison).seq = s.seq ∧
     (s.putBurst l data poison).tags = s.tags ∧ (s.putBurst l data poison).rmt = s.rmt ∧
     (s.putBurst l data poison).margins = s.margins ∧ (s.putBurst l data poison).age = s.age ∧
     (s.putBurst l data poison).therm = s.therm ∧ (s.putBurst l data poison).cnt = s.cnt ∧
     (s.putBurst l data poison).inj = s.inj ∧ (∀ o, (s.putBurst l data poison).rd o = s.rd o) :=
  ⟨rfl, rfl, rfl, rfl, rfl, rfl, rfl, rfl, rfl, rfl, rfl, rfl, rfl, rfl, rfl, rfl, rfl, rfl, rfl, rfl, rfl, rfl,
    rfl, rfl, rfl, rfl, rfl, fun _ => rfl⟩

/-- What modSched leaves as it was. -/
@[simp] theorem State.modSched_fields (s : State) (f : Sched → Sched) :
    (s.modSched f).pending = s.pending ∧ (s.modSched f).free = s.free ∧ (s.modSched f).regs = s.regs ∧
     (s.modSched f).mgt = s.mgt ∧ (s.modSched f).straps = s.straps ∧ (s.modSched f).pins = s.pins ∧
     (s.modSched f).clk = s.clk ∧ (s.modSched f).pwr = s.pwr ∧ (s.modSched f).paths = s.paths ∧
     (s.modSched f).pcs = s.pcs ∧ (s.modSched f).copiers = s.copiers ∧ (s.modSched f).stack = s.stack ∧
     (s.modSched f).refresh = s.refresh ∧ (s.modSched f).tests = s.tests ∧ (s.modSched f).inbox = s.inbox ∧
     (s.modSched f).ring = s.ring ∧ (s.modSched f).chain = s.chain ∧ (s.modSched f).pkg = s.pkg ∧
     (s.modSched f).fw = s.fw ∧ (s.modSched f).seq = s.seq ∧ (s.modSched f).tags = s.tags ∧
     (s.modSched f).rmt = s.rmt ∧ (s.modSched f).margins = s.margins ∧ (s.modSched f).age = s.age ∧
     (s.modSched f).therm = s.therm ∧ (s.modSched f).cnt = s.cnt ∧ (s.modSched f).inj = s.inj ∧
     (s.modSched f).sched = f s.sched ∧ (∀ o, (s.modSched f).rd o = s.rd o) :=
  ⟨rfl, rfl, rfl, rfl, rfl, rfl, rfl, rfl, rfl, rfl, rfl, rfl, rfl, rfl, rfl, rfl, rfl, rfl, rfl, rfl, rfl, rfl,
    rfl, rfl, rfl, rfl, rfl, rfl, fun _ => rfl⟩

/-- What modSeq leaves as it was. -/
@[simp] theorem State.modSeq_fields (s : State) (f : Sequencer → Sequencer) :
    (s.modSeq f).pending = s.pending ∧ (s.modSeq f).free = s.free ∧ (s.modSeq f).regs = s.regs ∧
     (s.modSeq f).mgt = s.mgt ∧ (s.modSeq f).straps = s.straps ∧ (s.modSeq f).pins = s.pins ∧
     (s.modSeq f).clk = s.clk ∧ (s.modSeq f).pwr = s.pwr ∧ (s.modSeq f).paths = s.paths ∧ (s.modSeq f).pcs = s.pcs ∧
     (s.modSeq f).copiers = s.copiers ∧ (s.modSeq f).stack = s.stack ∧ (s.modSeq f).refresh = s.refresh ∧
     (s.modSeq f).tests = s.tests ∧ (s.modSeq f).inbox = s.inbox ∧ (s.modSeq f).ring = s.ring ∧
     (s.modSeq f).chain = s.chain ∧ (s.modSeq f).pkg = s.pkg ∧ (s.modSeq f).fw = s.fw ∧
     (s.modSeq f).sched = s.sched ∧ (s.modSeq f).tags = s.tags ∧ (s.modSeq f).rmt = s.rmt ∧
     (s.modSeq f).margins = s.margins ∧ (s.modSeq f).age = s.age ∧ (s.modSeq f).therm = s.therm ∧
     (s.modSeq f).cnt = s.cnt ∧ (s.modSeq f).inj = s.inj ∧ (s.modSeq f).seq = f s.seq ∧
     (∀ o, (s.modSeq f).rd o = s.rd o) :=
  ⟨rfl, rfl, rfl, rfl, rfl, rfl, rfl, rfl, rfl, rfl, rfl, rfl, rfl, rfl, rfl, rfl, rfl, rfl, rfl, rfl, rfl, rfl,
    rfl, rfl, rfl, rfl, rfl, rfl, fun _ => rfl⟩

/-- What modRmt leaves as it was. -/
@[simp] theorem State.modRmt_fields (s : State) (f : Rmt → Rmt) :
    (s.modRmt f).pending = s.pending ∧ (s.modRmt f).free = s.free ∧ (s.modRmt f).regs = s.regs ∧
     (s.modRmt f).mgt = s.mgt ∧ (s.modRmt f).straps = s.straps ∧ (s.modRmt f).pins = s.pins ∧
     (s.modRmt f).clk = s.clk ∧ (s.modRmt f).pwr = s.pwr ∧ (s.modRmt f).paths = s.paths ∧ (s.modRmt f).pcs = s.pcs ∧
     (s.modRmt f).copiers = s.copiers ∧ (s.modRmt f).stack = s.stack ∧ (s.modRmt f).refresh = s.refresh ∧
     (s.modRmt f).tests = s.tests ∧ (s.modRmt f).inbox = s.inbox ∧ (s.modRmt f).ring = s.ring ∧
     (s.modRmt f).chain = s.chain ∧ (s.modRmt f).pkg = s.pkg ∧ (s.modRmt f).fw = s.fw ∧
     (s.modRmt f).sched = s.sched ∧ (s.modRmt f).seq = s.seq ∧ (s.modRmt f).tags = s.tags ∧
     (s.modRmt f).margins = s.margins ∧ (s.modRmt f).age = s.age ∧ (s.modRmt f).therm = s.therm ∧
     (s.modRmt f).cnt = s.cnt ∧ (s.modRmt f).inj = s.inj ∧ (s.modRmt f).rmt = f s.rmt ∧
     (∀ o, (s.modRmt f).rd o = s.rd o) :=
  ⟨rfl, rfl, rfl, rfl, rfl, rfl, rfl, rfl, rfl, rfl, rfl, rfl, rfl, rfl, rfl, rfl, rfl, rfl, rfl, rfl, rfl, rfl,
    rfl, rfl, rfl, rfl, rfl, rfl, fun _ => rfl⟩

/-- What modFw leaves as it was. -/
@[simp] theorem State.modFw_fields (s : State) (f : Fw → Fw) :
    (s.modFw f).pending = s.pending ∧ (s.modFw f).free = s.free ∧ (s.modFw f).regs = s.regs ∧
     (s.modFw f).mgt = s.mgt ∧ (s.modFw f).straps = s.straps ∧ (s.modFw f).pins = s.pins ∧ (s.modFw f).clk = s.clk ∧
     (s.modFw f).pwr = s.pwr ∧ (s.modFw f).paths = s.paths ∧ (s.modFw f).pcs = s.pcs ∧
     (s.modFw f).copiers = s.copiers ∧ (s.modFw f).stack = s.stack ∧ (s.modFw f).refresh = s.refresh ∧
     (s.modFw f).tests = s.tests ∧ (s.modFw f).inbox = s.inbox ∧ (s.modFw f).ring = s.ring ∧
     (s.modFw f).chain = s.chain ∧ (s.modFw f).pkg = s.pkg ∧ (s.modFw f).sched = s.sched ∧ (s.modFw f).seq = s.seq ∧
     (s.modFw f).tags = s.tags ∧ (s.modFw f).rmt = s.rmt ∧ (s.modFw f).margins = s.margins ∧
     (s.modFw f).age = s.age ∧ (s.modFw f).therm = s.therm ∧ (s.modFw f).cnt = s.cnt ∧ (s.modFw f).inj = s.inj ∧
     (s.modFw f).fw = f s.fw ∧ (∀ o, (s.modFw f).rd o = s.rd o) :=
  ⟨rfl, rfl, rfl, rfl, rfl, rfl, rfl, rfl, rfl, rfl, rfl, rfl, rfl, rfl, rfl, rfl, rfl, rfl, rfl, rfl, rfl, rfl,
    rfl, rfl, rfl, rfl, rfl, rfl, fun _ => rfl⟩

/-- What modAge leaves as it was. -/
@[simp] theorem State.modAge_fields (s : State) (f : Ageing → Ageing) :
    (s.modAge f).pending = s.pending ∧ (s.modAge f).free = s.free ∧ (s.modAge f).regs = s.regs ∧
     (s.modAge f).mgt = s.mgt ∧ (s.modAge f).straps = s.straps ∧ (s.modAge f).pins = s.pins ∧
     (s.modAge f).clk = s.clk ∧ (s.modAge f).pwr = s.pwr ∧ (s.modAge f).paths = s.paths ∧ (s.modAge f).pcs = s.pcs ∧
     (s.modAge f).copiers = s.copiers ∧ (s.modAge f).stack = s.stack ∧ (s.modAge f).refresh = s.refresh ∧
     (s.modAge f).tests = s.tests ∧ (s.modAge f).inbox = s.inbox ∧ (s.modAge f).ring = s.ring ∧
     (s.modAge f).chain = s.chain ∧ (s.modAge f).pkg = s.pkg ∧ (s.modAge f).fw = s.fw ∧
     (s.modAge f).sched = s.sched ∧ (s.modAge f).seq = s.seq ∧ (s.modAge f).tags = s.tags ∧
     (s.modAge f).rmt = s.rmt ∧ (s.modAge f).margins = s.margins ∧ (s.modAge f).therm = s.therm ∧
     (s.modAge f).cnt = s.cnt ∧ (s.modAge f).inj = s.inj ∧ (s.modAge f).age = f s.age ∧
     (∀ o, (s.modAge f).rd o = s.rd o) :=
  ⟨rfl, rfl, rfl, rfl, rfl, rfl, rfl, rfl, rfl, rfl, rfl, rfl, rfl, rfl, rfl, rfl, rfl, rfl, rfl, rfl, rfl, rfl,
    rfl, rfl, rfl, rfl, rfl, rfl, fun _ => rfl⟩

/-- What modTherm leaves as it was. -/
@[simp] theorem State.modTherm_fields (s : State) (f : Thermal → Thermal) :
    (s.modTherm f).pending = s.pending ∧ (s.modTherm f).free = s.free ∧ (s.modTherm f).regs = s.regs ∧
     (s.modTherm f).mgt = s.mgt ∧ (s.modTherm f).straps = s.straps ∧ (s.modTherm f).pins = s.pins ∧
     (s.modTherm f).clk = s.clk ∧ (s.modTherm f).pwr = s.pwr ∧ (s.modTherm f).paths = s.paths ∧
     (s.modTherm f).pcs = s.pcs ∧ (s.modTherm f).copiers = s.copiers ∧ (s.modTherm f).stack = s.stack ∧
     (s.modTherm f).refresh = s.refresh ∧ (s.modTherm f).tests = s.tests ∧ (s.modTherm f).inbox = s.inbox ∧
     (s.modTherm f).ring = s.ring ∧ (s.modTherm f).chain = s.chain ∧ (s.modTherm f).pkg = s.pkg ∧
     (s.modTherm f).fw = s.fw ∧ (s.modTherm f).sched = s.sched ∧ (s.modTherm f).seq = s.seq ∧
     (s.modTherm f).tags = s.tags ∧ (s.modTherm f).rmt = s.rmt ∧ (s.modTherm f).margins = s.margins ∧
     (s.modTherm f).age = s.age ∧ (s.modTherm f).cnt = s.cnt ∧ (s.modTherm f).inj = s.inj ∧
     (s.modTherm f).therm = f s.therm ∧ (∀ o, (s.modTherm f).rd o = s.rd o) :=
  ⟨rfl, rfl, rfl, rfl, rfl, rfl, rfl, rfl, rfl, rfl, rfl, rfl, rfl, rfl, rfl, rfl, rfl, rfl, rfl, rfl, rfl, rfl,
    rfl, rfl, rfl, rfl, rfl, rfl, fun _ => rfl⟩

/-- What modCnt leaves as it was. -/
@[simp] theorem State.modCnt_fields (s : State) (f : Counters → Counters) :
    (s.modCnt f).pending = s.pending ∧ (s.modCnt f).free = s.free ∧ (s.modCnt f).regs = s.regs ∧
     (s.modCnt f).mgt = s.mgt ∧ (s.modCnt f).straps = s.straps ∧ (s.modCnt f).pins = s.pins ∧
     (s.modCnt f).clk = s.clk ∧ (s.modCnt f).pwr = s.pwr ∧ (s.modCnt f).paths = s.paths ∧ (s.modCnt f).pcs = s.pcs ∧
     (s.modCnt f).copiers = s.copiers ∧ (s.modCnt f).stack = s.stack ∧ (s.modCnt f).refresh = s.refresh ∧
     (s.modCnt f).tests = s.tests ∧ (s.modCnt f).inbox = s.inbox ∧ (s.modCnt f).ring = s.ring ∧
     (s.modCnt f).chain = s.chain ∧ (s.modCnt f).pkg = s.pkg ∧ (s.modCnt f).fw = s.fw ∧
     (s.modCnt f).sched = s.sched ∧ (s.modCnt f).seq = s.seq ∧ (s.modCnt f).tags = s.tags ∧
     (s.modCnt f).rmt = s.rmt ∧ (s.modCnt f).margins = s.margins ∧ (s.modCnt f).age = s.age ∧
     (s.modCnt f).therm = s.therm ∧ (s.modCnt f).inj = s.inj ∧ (s.modCnt f).cnt = f s.cnt ∧
     (∀ o, (s.modCnt f).rd o = s.rd o) :=
  ⟨rfl, rfl, rfl, rfl, rfl, rfl, rfl, rfl, rfl, rfl, rfl, rfl, rfl, rfl, rfl, rfl, rfl, rfl, rfl, rfl, rfl, rfl,
    rfl, rfl, rfl, rfl, rfl, rfl, fun _ => rfl⟩

/-- What modChain leaves as it was. -/
@[simp] theorem State.modChain_fields (s : State) (f : Chain → Chain) :
    (s.modChain f).pending = s.pending ∧ (s.modChain f).free = s.free ∧ (s.modChain f).regs = s.regs ∧
     (s.modChain f).mgt = s.mgt ∧ (s.modChain f).straps = s.straps ∧ (s.modChain f).pins = s.pins ∧
     (s.modChain f).clk = s.clk ∧ (s.modChain f).pwr = s.pwr ∧ (s.modChain f).paths = s.paths ∧
     (s.modChain f).pcs = s.pcs ∧ (s.modChain f).copiers = s.copiers ∧ (s.modChain f).stack = s.stack ∧
     (s.modChain f).refresh = s.refresh ∧ (s.modChain f).tests = s.tests ∧ (s.modChain f).inbox = s.inbox ∧
     (s.modChain f).ring = s.ring ∧ (s.modChain f).pkg = s.pkg ∧ (s.modChain f).fw = s.fw ∧
     (s.modChain f).sched = s.sched ∧ (s.modChain f).seq = s.seq ∧ (s.modChain f).tags = s.tags ∧
     (s.modChain f).rmt = s.rmt ∧ (s.modChain f).margins = s.margins ∧ (s.modChain f).age = s.age ∧
     (s.modChain f).therm = s.therm ∧ (s.modChain f).cnt = s.cnt ∧ (s.modChain f).inj = s.inj ∧
     (s.modChain f).chain = f s.chain ∧ (∀ o, (s.modChain f).rd o = s.rd o) :=
  ⟨rfl, rfl, rfl, rfl, rfl, rfl, rfl, rfl, rfl, rfl, rfl, rfl, rfl, rfl, rfl, rfl, rfl, rfl, rfl, rfl, rfl, rfl,
    rfl, rfl, rfl, rfl, rfl, rfl, fun _ => rfl⟩

/-- What modPkg leaves as it was. -/
@[simp] theorem State.modPkg_fields (s : State) (f : Package → Package) :
    (s.modPkg f).pending = s.pending ∧ (s.modPkg f).free = s.free ∧ (s.modPkg f).regs = s.regs ∧
     (s.modPkg f).mgt = s.mgt ∧ (s.modPkg f).straps = s.straps ∧ (s.modPkg f).pins = s.pins ∧
     (s.modPkg f).clk = s.clk ∧ (s.modPkg f).pwr = s.pwr ∧ (s.modPkg f).paths = s.paths ∧ (s.modPkg f).pcs = s.pcs ∧
     (s.modPkg f).copiers = s.copiers ∧ (s.modPkg f).stack = s.stack ∧ (s.modPkg f).refresh = s.refresh ∧
     (s.modPkg f).tests = s.tests ∧ (s.modPkg f).inbox = s.inbox ∧ (s.modPkg f).ring = s.ring ∧
     (s.modPkg f).chain = s.chain ∧ (s.modPkg f).fw = s.fw ∧ (s.modPkg f).sched = s.sched ∧
     (s.modPkg f).seq = s.seq ∧ (s.modPkg f).tags = s.tags ∧ (s.modPkg f).rmt = s.rmt ∧
     (s.modPkg f).margins = s.margins ∧ (s.modPkg f).age = s.age ∧ (s.modPkg f).therm = s.therm ∧
     (s.modPkg f).cnt = s.cnt ∧ (s.modPkg f).inj = s.inj ∧ (s.modPkg f).pkg = f s.pkg ∧
     (∀ o, (s.modPkg f).rd o = s.rd o) :=
  ⟨rfl, rfl, rfl, rfl, rfl, rfl, rfl, rfl, rfl, rfl, rfl, rfl, rfl, rfl, rfl, rfl, rfl, rfl, rfl, rfl, rfl, rfl,
    rfl, rfl, rfl, rfl, rfl, rfl, fun _ => rfl⟩

/-- What modMgt leaves as it was. -/
@[simp] theorem State.modMgt_fields (s : State) (f : MgtPort → MgtPort) :
    (s.modMgt f).pending = s.pending ∧ (s.modMgt f).free = s.free ∧ (s.modMgt f).regs = s.regs ∧
     (s.modMgt f).straps = s.straps ∧ (s.modMgt f).pins = s.pins ∧ (s.modMgt f).clk = s.clk ∧
     (s.modMgt f).pwr = s.pwr ∧ (s.modMgt f).paths = s.paths ∧ (s.modMgt f).pcs = s.pcs ∧
     (s.modMgt f).copiers = s.copiers ∧ (s.modMgt f).stack = s.stack ∧ (s.modMgt f).refresh = s.refresh ∧
     (s.modMgt f).tests = s.tests ∧ (s.modMgt f).inbox = s.inbox ∧ (s.modMgt f).ring = s.ring ∧
     (s.modMgt f).chain = s.chain ∧ (s.modMgt f).pkg = s.pkg ∧ (s.modMgt f).fw = s.fw ∧
     (s.modMgt f).sched = s.sched ∧ (s.modMgt f).seq = s.seq ∧ (s.modMgt f).tags = s.tags ∧
     (s.modMgt f).rmt = s.rmt ∧ (s.modMgt f).margins = s.margins ∧ (s.modMgt f).age = s.age ∧
     (s.modMgt f).therm = s.therm ∧ (s.modMgt f).cnt = s.cnt ∧ (s.modMgt f).inj = s.inj ∧
     (s.modMgt f).mgt = f s.mgt ∧ (∀ o, (s.modMgt f).rd o = s.rd o) :=
  ⟨rfl, rfl, rfl, rfl, rfl, rfl, rfl, rfl, rfl, rfl, rfl, rfl, rfl, rfl, rfl, rfl, rfl, rfl, rfl, rfl, rfl, rfl,
    rfl, rfl, rfl, rfl, rfl, rfl, fun _ => rfl⟩

/-- What modCopier leaves as it was. -/
@[simp] theorem State.modCopier_fields (s : State) (e : Nat) (f : CopyChan → CopyChan) :
    (s.modCopier e f).pending = s.pending ∧ (s.modCopier e f).free = s.free ∧ (s.modCopier e f).regs = s.regs ∧
     (s.modCopier e f).mgt = s.mgt ∧ (s.modCopier e f).straps = s.straps ∧ (s.modCopier e f).pins = s.pins ∧
     (s.modCopier e f).clk = s.clk ∧ (s.modCopier e f).pwr = s.pwr ∧ (s.modCopier e f).paths = s.paths ∧
     (s.modCopier e f).pcs = s.pcs ∧ (s.modCopier e f).stack = s.stack ∧ (s.modCopier e f).refresh = s.refresh ∧
     (s.modCopier e f).tests = s.tests ∧ (s.modCopier e f).inbox = s.inbox ∧ (s.modCopier e f).ring = s.ring ∧
     (s.modCopier e f).chain = s.chain ∧ (s.modCopier e f).pkg = s.pkg ∧ (s.modCopier e f).fw = s.fw ∧
     (s.modCopier e f).sched = s.sched ∧ (s.modCopier e f).seq = s.seq ∧ (s.modCopier e f).tags = s.tags ∧
     (s.modCopier e f).rmt = s.rmt ∧ (s.modCopier e f).margins = s.margins ∧ (s.modCopier e f).age = s.age ∧
     (s.modCopier e f).therm = s.therm ∧ (s.modCopier e f).cnt = s.cnt ∧ (s.modCopier e f).inj = s.inj ∧
     (∀ o, (s.modCopier e f).rd o = s.rd o) :=
  ⟨rfl, rfl, rfl, rfl, rfl, rfl, rfl, rfl, rfl, rfl, rfl, rfl, rfl, rfl, rfl, rfl, rfl, rfl, rfl, rfl, rfl, rfl,
    rfl, rfl, rfl, rfl, rfl, fun _ => rfl⟩

/-- What passTime leaves as it was. -/
@[simp] theorem State.passTime_fields (s : State) :
    (s.passTime).pending = s.pending ∧ (s.passTime).free = s.free ∧ (s.passTime).regs = s.regs ∧
     (s.passTime).mgt = s.mgt ∧ (s.passTime).straps = s.straps ∧ (s.passTime).pins = s.pins ∧
     (s.passTime).pwr = s.pwr ∧ (s.passTime).paths = s.paths ∧ (s.passTime).pcs = s.pcs ∧
     (s.passTime).copiers = s.copiers ∧ (s.passTime).stack = s.stack ∧ (s.passTime).refresh = s.refresh ∧
     (s.passTime).tests = s.tests ∧ (s.passTime).inbox = s.inbox ∧ (s.passTime).ring = s.ring ∧
     (s.passTime).chain = s.chain ∧ (s.passTime).fw = s.fw ∧ (s.passTime).sched = s.sched ∧
     (s.passTime).seq = s.seq ∧ (s.passTime).tags = s.tags ∧ (s.passTime).rmt = s.rmt ∧
     (s.passTime).margins = s.margins ∧ (s.passTime).age = s.age ∧ (s.passTime).therm = s.therm ∧
     (s.passTime).cnt = s.cnt ∧ (s.passTime).inj = s.inj ∧ (∀ o, (s.passTime).rd o = s.rd o) :=
  ⟨rfl, rfl, rfl, rfl, rfl, rfl, rfl, rfl, rfl, rfl, rfl, rfl, rfl, rfl, rfl, rfl, rfl, rfl, rfl, rfl, rfl, rfl,
    rfl, rfl, rfl, rfl, fun _ => rfl⟩

/-- What setTime leaves as it was. -/
@[simp] theorem State.setTime_fields (s : State) (t : Nat) :
    (s.setTime t).pending = s.pending ∧ (s.setTime t).free = s.free ∧ (s.setTime t).regs = s.regs ∧
     (s.setTime t).mgt = s.mgt ∧ (s.setTime t).straps = s.straps ∧ (s.setTime t).pins = s.pins ∧
     (s.setTime t).pwr = s.pwr ∧ (s.setTime t).paths = s.paths ∧ (s.setTime t).pcs = s.pcs ∧
     (s.setTime t).copiers = s.copiers ∧ (s.setTime t).stack = s.stack ∧ (s.setTime t).refresh = s.refresh ∧
     (s.setTime t).tests = s.tests ∧ (s.setTime t).inbox = s.inbox ∧ (s.setTime t).ring = s.ring ∧
     (s.setTime t).chain = s.chain ∧ (s.setTime t).pkg = s.pkg ∧ (s.setTime t).fw = s.fw ∧
     (s.setTime t).sched = s.sched ∧ (s.setTime t).seq = s.seq ∧ (s.setTime t).tags = s.tags ∧
     (s.setTime t).rmt = s.rmt ∧ (s.setTime t).margins = s.margins ∧ (s.setTime t).age = s.age ∧
     (s.setTime t).therm = s.therm ∧ (s.setTime t).cnt = s.cnt ∧ (s.setTime t).inj = s.inj ∧
     (∀ o, (s.setTime t).rd o = s.rd o) :=
  ⟨rfl, rfl, rfl, rfl, rfl, rfl, rfl, rfl, rfl, rfl, rfl, rfl, rfl, rfl, rfl, rfl, rfl, rfl, rfl, rfl, rfl, rfl,
    rfl, rfl, rfl, rfl, rfl, fun _ => rfl⟩

/-- What setEdge leaves as it was. -/
@[simp] theorem State.setEdge_fields (s : State) (p : Nat) (kind : Nat) (group : Nat) (lane : Nat) (run : Option (Nat × Nat)) :
    (s.setEdge p kind group lane run).pending = s.pending ∧ (s.setEdge p kind group lane run).free = s.free ∧
     (s.setEdge p kind group lane run).regs = s.regs ∧ (s.setEdge p kind group lane run).mgt = s.mgt ∧
     (s.setEdge p kind group lane run).straps = s.straps ∧ (s.setEdge p kind group lane run).pins = s.pins ∧
     (s.setEdge p kind group lane run).clk = s.clk ∧ (s.setEdge p kind group lane run).pwr = s.pwr ∧
     (s.setEdge p kind group lane run).paths = s.paths ∧ (s.setEdge p kind group lane run).pcs = s.pcs ∧
     (s.setEdge p kind group lane run).copiers = s.copiers ∧ (s.setEdge p kind group lane run).stack = s.stack ∧
     (s.setEdge p kind group lane run).refresh = s.refresh ∧ (s.setEdge p kind group lane run).tests = s.tests ∧
     (s.setEdge p kind group lane run).inbox = s.inbox ∧ (s.setEdge p kind group lane run).ring = s.ring ∧
     (s.setEdge p kind group lane run).chain = s.chain ∧ (s.setEdge p kind group lane run).pkg = s.pkg ∧
     (s.setEdge p kind group lane run).fw = s.fw ∧ (s.setEdge p kind group lane run).sched = s.sched ∧
     (s.setEdge p kind group lane run).seq = s.seq ∧ (s.setEdge p kind group lane run).tags = s.tags ∧
     (s.setEdge p kind group lane run).rmt = s.rmt ∧ (s.setEdge p kind group lane run).age = s.age ∧
     (s.setEdge p kind group lane run).therm = s.therm ∧ (s.setEdge p kind group lane run).cnt = s.cnt ∧
     (s.setEdge p kind group lane run).inj = s.inj ∧ (∀ o, (s.setEdge p kind group lane run).rd o = s.rd o) :=
  ⟨rfl, rfl, rfl, rfl, rfl, rfl, rfl, rfl, rfl, rfl, rfl, rfl, rfl, rfl, rfl, rfl, rfl, rfl, rfl, rfl, rfl, rfl,
    rfl, rfl, rfl, rfl, rfl, fun _ => rfl⟩

/-- What wr64 leaves as it was. -/
@[simp] theorem State.wr64_fields (s : State) (off : Nat) (v : Nat) :
    (s.wr64 off v).pending = s.pending ∧ (s.wr64 off v).free = s.free ∧ (s.wr64 off v).mgt = s.mgt ∧
     (s.wr64 off v).straps = s.straps ∧ (s.wr64 off v).pins = s.pins ∧ (s.wr64 off v).clk = s.clk ∧
     (s.wr64 off v).pwr = s.pwr ∧ (s.wr64 off v).paths = s.paths ∧ (s.wr64 off v).pcs = s.pcs ∧
     (s.wr64 off v).copiers = s.copiers ∧ (s.wr64 off v).stack = s.stack ∧ (s.wr64 off v).refresh = s.refresh ∧
     (s.wr64 off v).tests = s.tests ∧ (s.wr64 off v).inbox = s.inbox ∧ (s.wr64 off v).ring = s.ring ∧
     (s.wr64 off v).chain = s.chain ∧ (s.wr64 off v).pkg = s.pkg ∧ (s.wr64 off v).fw = s.fw ∧
     (s.wr64 off v).sched = s.sched ∧ (s.wr64 off v).seq = s.seq ∧ (s.wr64 off v).tags = s.tags ∧
     (s.wr64 off v).rmt = s.rmt ∧ (s.wr64 off v).margins = s.margins ∧ (s.wr64 off v).age = s.age ∧
     (s.wr64 off v).therm = s.therm ∧ (s.wr64 off v).cnt = s.cnt ∧ (s.wr64 off v).inj = s.inj :=
  ⟨rfl, rfl, rfl, rfl, rfl, rfl, rfl, rfl, rfl, rfl, rfl, rfl, rfl, rfl, rfl, rfl, rfl, rfl, rfl, rfl, rfl, rfl,
    rfl, rfl, rfl, rfl, rfl⟩

/-- What sf leaves as it was. -/
@[simp] theorem State.sf_fields (s : State) (off : Nat) (f : Fld) (v : Nat) :
    (s.sf off f v).pending = s.pending ∧ (s.sf off f v).free = s.free ∧ (s.sf off f v).mgt = s.mgt ∧
     (s.sf off f v).straps = s.straps ∧ (s.sf off f v).pins = s.pins ∧ (s.sf off f v).clk = s.clk ∧
     (s.sf off f v).pwr = s.pwr ∧ (s.sf off f v).paths = s.paths ∧ (s.sf off f v).pcs = s.pcs ∧
     (s.sf off f v).copiers = s.copiers ∧ (s.sf off f v).stack = s.stack ∧ (s.sf off f v).refresh = s.refresh ∧
     (s.sf off f v).tests = s.tests ∧ (s.sf off f v).inbox = s.inbox ∧ (s.sf off f v).ring = s.ring ∧
     (s.sf off f v).chain = s.chain ∧ (s.sf off f v).pkg = s.pkg ∧ (s.sf off f v).fw = s.fw ∧
     (s.sf off f v).sched = s.sched ∧ (s.sf off f v).seq = s.seq ∧ (s.sf off f v).tags = s.tags ∧
     (s.sf off f v).rmt = s.rmt ∧ (s.sf off f v).margins = s.margins ∧ (s.sf off f v).age = s.age ∧
     (s.sf off f v).therm = s.therm ∧ (s.sf off f v).cnt = s.cnt ∧ (s.sf off f v).inj = s.inj :=
  ⟨rfl, rfl, rfl, rfl, rfl, rfl, rfl, rfl, rfl, rfl, rfl, rfl, rfl, rfl, rfl, rfl, rfl, rfl, rfl, rfl, rfl, rfl,
    rfl, rfl, rfl, rfl, rfl⟩

/-- What sf64 leaves as it was. -/
@[simp] theorem State.sf64_fields (s : State) (off : Nat) (f : Fld) (v : Nat) :
    (s.sf64 off f v).pending = s.pending ∧ (s.sf64 off f v).free = s.free ∧ (s.sf64 off f v).mgt = s.mgt ∧
     (s.sf64 off f v).straps = s.straps ∧ (s.sf64 off f v).pins = s.pins ∧ (s.sf64 off f v).clk = s.clk ∧
     (s.sf64 off f v).pwr = s.pwr ∧ (s.sf64 off f v).paths = s.paths ∧ (s.sf64 off f v).pcs = s.pcs ∧
     (s.sf64 off f v).copiers = s.copiers ∧ (s.sf64 off f v).stack = s.stack ∧
     (s.sf64 off f v).refresh = s.refresh ∧ (s.sf64 off f v).tests = s.tests ∧ (s.sf64 off f v).inbox = s.inbox ∧
     (s.sf64 off f v).ring = s.ring ∧ (s.sf64 off f v).chain = s.chain ∧ (s.sf64 off f v).pkg = s.pkg ∧
     (s.sf64 off f v).fw = s.fw ∧ (s.sf64 off f v).sched = s.sched ∧ (s.sf64 off f v).seq = s.seq ∧
     (s.sf64 off f v).tags = s.tags ∧ (s.sf64 off f v).rmt = s.rmt ∧ (s.sf64 off f v).margins = s.margins ∧
     (s.sf64 off f v).age = s.age ∧ (s.sf64 off f v).therm = s.therm ∧ (s.sf64 off f v).cnt = s.cnt ∧
     (s.sf64 off f v).inj = s.inj :=
  ⟨rfl, rfl, rfl, rfl, rfl, rfl, rfl, rfl, rfl, rfl, rfl, rfl, rfl, rfl, rfl, rfl, rfl, rfl, rfl, rfl, rfl, rfl,
    rfl, rfl, rfl, rfl, rfl⟩

/-- What raise leaves as it was. -/
@[simp] theorem State.raise_fields (s : State) (off : Nat) (f : Fld) :
    (s.raise off f).pending = s.pending ∧ (s.raise off f).free = s.free ∧ (s.raise off f).mgt = s.mgt ∧
     (s.raise off f).straps = s.straps ∧ (s.raise off f).pins = s.pins ∧ (s.raise off f).clk = s.clk ∧
     (s.raise off f).pwr = s.pwr ∧ (s.raise off f).paths = s.paths ∧ (s.raise off f).pcs = s.pcs ∧
     (s.raise off f).copiers = s.copiers ∧ (s.raise off f).stack = s.stack ∧ (s.raise off f).refresh = s.refresh ∧
     (s.raise off f).tests = s.tests ∧ (s.raise off f).inbox = s.inbox ∧ (s.raise off f).ring = s.ring ∧
     (s.raise off f).chain = s.chain ∧ (s.raise off f).pkg = s.pkg ∧ (s.raise off f).fw = s.fw ∧
     (s.raise off f).sched = s.sched ∧ (s.raise off f).seq = s.seq ∧ (s.raise off f).tags = s.tags ∧
     (s.raise off f).rmt = s.rmt ∧ (s.raise off f).margins = s.margins ∧ (s.raise off f).age = s.age ∧
     (s.raise off f).therm = s.therm ∧ (s.raise off f).cnt = s.cnt ∧ (s.raise off f).inj = s.inj :=
  ⟨rfl, rfl, rfl, rfl, rfl, rfl, rfl, rfl, rfl, rfl, rfl, rfl, rfl, rfl, rfl, rfl, rfl, rfl, rfl, rfl, rfl, rfl,
    rfl, rfl, rfl, rfl, rfl⟩

/-- What bump leaves as it was. -/
@[simp] theorem State.bump_fields (s : State) (off : Nat) (f : Fld) :
    (s.bump off f).pending = s.pending ∧ (s.bump off f).free = s.free ∧ (s.bump off f).mgt = s.mgt ∧
     (s.bump off f).straps = s.straps ∧ (s.bump off f).pins = s.pins ∧ (s.bump off f).clk = s.clk ∧
     (s.bump off f).pwr = s.pwr ∧ (s.bump off f).paths = s.paths ∧ (s.bump off f).pcs = s.pcs ∧
     (s.bump off f).copiers = s.copiers ∧ (s.bump off f).stack = s.stack ∧ (s.bump off f).refresh = s.refresh ∧
     (s.bump off f).tests = s.tests ∧ (s.bump off f).inbox = s.inbox ∧ (s.bump off f).ring = s.ring ∧
     (s.bump off f).chain = s.chain ∧ (s.bump off f).pkg = s.pkg ∧ (s.bump off f).fw = s.fw ∧
     (s.bump off f).sched = s.sched ∧ (s.bump off f).seq = s.seq ∧ (s.bump off f).tags = s.tags ∧
     (s.bump off f).rmt = s.rmt ∧ (s.bump off f).margins = s.margins ∧ (s.bump off f).age = s.age ∧
     (s.bump off f).therm = s.therm ∧ (s.bump off f).cnt = s.cnt ∧ (s.bump off f).inj = s.inj :=
  ⟨rfl, rfl, rfl, rfl, rfl, rfl, rfl, rfl, rfl, rfl, rfl, rfl, rfl, rfl, rfl, rfl, rfl, rfl, rfl, rfl, rfl, rfl,
    rfl, rfl, rfl, rfl, rfl⟩

/-- What bumpSat leaves as it was. -/
@[simp] theorem State.bumpSat_fields (s : State) (off : Nat) (f : Fld) :
    (s.bumpSat off f).pending = s.pending ∧ (s.bumpSat off f).free = s.free ∧ (s.bumpSat off f).mgt = s.mgt ∧
     (s.bumpSat off f).straps = s.straps ∧ (s.bumpSat off f).pins = s.pins ∧ (s.bumpSat off f).clk = s.clk ∧
     (s.bumpSat off f).pwr = s.pwr ∧ (s.bumpSat off f).paths = s.paths ∧ (s.bumpSat off f).pcs = s.pcs ∧
     (s.bumpSat off f).copiers = s.copiers ∧ (s.bumpSat off f).stack = s.stack ∧
     (s.bumpSat off f).refresh = s.refresh ∧ (s.bumpSat off f).tests = s.tests ∧ (s.bumpSat off f).inbox = s.inbox ∧
     (s.bumpSat off f).ring = s.ring ∧ (s.bumpSat off f).chain = s.chain ∧ (s.bumpSat off f).pkg = s.pkg ∧
     (s.bumpSat off f).fw = s.fw ∧ (s.bumpSat off f).sched = s.sched ∧ (s.bumpSat off f).seq = s.seq ∧
     (s.bumpSat off f).tags = s.tags ∧ (s.bumpSat off f).rmt = s.rmt ∧ (s.bumpSat off f).margins = s.margins ∧
     (s.bumpSat off f).age = s.age ∧ (s.bumpSat off f).therm = s.therm ∧ (s.bumpSat off f).cnt = s.cnt ∧
     (s.bumpSat off f).inj = s.inj :=
  ⟨rfl, rfl, rfl, rfl, rfl, rfl, rfl, rfl, rfl, rfl, rfl, rfl, rfl, rfl, rfl, rfl, rfl, rfl, rfl, rfl, rfl, rfl,
    rfl, rfl, rfl, rfl, rfl⟩

/-- What setDom leaves as it was. -/
@[simp] theorem State.setDom_fields (s : State) (d : Nat) (v : DomState) :
    (s.setDom d v).pending = s.pending ∧ (s.setDom d v).free = s.free ∧ (s.setDom d v).mgt = s.mgt ∧
     (s.setDom d v).straps = s.straps ∧ (s.setDom d v).pins = s.pins ∧ (s.setDom d v).clk = s.clk ∧
     (s.setDom d v).pwr = s.pwr ∧ (s.setDom d v).paths = s.paths ∧ (s.setDom d v).pcs = s.pcs ∧
     (s.setDom d v).copiers = s.copiers ∧ (s.setDom d v).stack = s.stack ∧ (s.setDom d v).refresh = s.refresh ∧
     (s.setDom d v).tests = s.tests ∧ (s.setDom d v).inbox = s.inbox ∧ (s.setDom d v).ring = s.ring ∧
     (s.setDom d v).chain = s.chain ∧ (s.setDom d v).pkg = s.pkg ∧ (s.setDom d v).fw = s.fw ∧
     (s.setDom d v).sched = s.sched ∧ (s.setDom d v).seq = s.seq ∧ (s.setDom d v).tags = s.tags ∧
     (s.setDom d v).rmt = s.rmt ∧ (s.setDom d v).margins = s.margins ∧ (s.setDom d v).age = s.age ∧
     (s.setDom d v).therm = s.therm ∧ (s.setDom d v).cnt = s.cnt ∧ (s.setDom d v).inj = s.inj :=
  ⟨rfl, rfl, rfl, rfl, rfl, rfl, rfl, rfl, rfl, rfl, rfl, rfl, rfl, rfl, rfl, rfl, rfl, rfl, rfl, rfl, rfl, rfl,
    rfl, rfl, rfl, rfl, rfl⟩

/-- What logRec leaves as it was. -/
@[simp] theorem State.logRec_fields (s : State) (code : Nat) (args : List Nat) :
    (s.logRec code args).pending = s.pending ∧ (s.logRec code args).free = s.free ∧
     (s.logRec code args).regs = s.regs ∧ (s.logRec code args).mgt = s.mgt ∧
     (s.logRec code args).straps = s.straps ∧ (s.logRec code args).pins = s.pins ∧
     (s.logRec code args).clk = s.clk ∧ (s.logRec code args).pwr = s.pwr ∧ (s.logRec code args).paths = s.paths ∧
     (s.logRec code args).pcs = s.pcs ∧ (s.logRec code args).copiers = s.copiers ∧
     (s.logRec code args).stack = s.stack ∧ (s.logRec code args).refresh = s.refresh ∧
     (s.logRec code args).tests = s.tests ∧ (s.logRec code args).ring = s.ring ∧
     (s.logRec code args).chain = s.chain ∧ (s.logRec code args).pkg = s.pkg ∧ (s.logRec code args).fw = s.fw ∧
     (s.logRec code args).sched = s.sched ∧ (s.logRec code args).seq = s.seq ∧ (s.logRec code args).tags = s.tags ∧
     (s.logRec code args).rmt = s.rmt ∧ (s.logRec code args).margins = s.margins ∧
     (s.logRec code args).age = s.age ∧ (s.logRec code args).therm = s.therm ∧ (s.logRec code args).cnt = s.cnt ∧
     (s.logRec code args).inj = s.inj ∧ (∀ o, (s.logRec code args).rd o = s.rd o) :=
  ⟨rfl, rfl, rfl, rfl, rfl, rfl, rfl, rfl, rfl, rfl, rfl, rfl, rfl, rfl, rfl, rfl, rfl, rfl, rfl, rfl, rfl, rfl,
    rfl, rfl, rfl, rfl, rfl, fun _ => rfl⟩

/-- What cause leaves as it was. -/
@[simp] theorem State.cause_fields (s : State) (rank : Nat) (c : Nat) :
    (s.cause rank c).pending = s.pending ∧ (s.cause rank c).free = s.free ∧ (s.cause rank c).regs = s.regs ∧
     (s.cause rank c).mgt = s.mgt ∧ (s.cause rank c).straps = s.straps ∧ (s.cause rank c).pins = s.pins ∧
     (s.cause rank c).clk = s.clk ∧ (s.cause rank c).pwr = s.pwr ∧ (s.cause rank c).paths = s.paths ∧
     (s.cause rank c).pcs = s.pcs ∧ (s.cause rank c).copiers = s.copiers ∧ (s.cause rank c).stack = s.stack ∧
     (s.cause rank c).refresh = s.refresh ∧ (s.cause rank c).tests = s.tests ∧ (s.cause rank c).ring = s.ring ∧
     (s.cause rank c).chain = s.chain ∧ (s.cause rank c).pkg = s.pkg ∧ (s.cause rank c).fw = s.fw ∧
     (s.cause rank c).sched = s.sched ∧ (s.cause rank c).seq = s.seq ∧ (s.cause rank c).tags = s.tags ∧
     (s.cause rank c).rmt = s.rmt ∧ (s.cause rank c).margins = s.margins ∧ (s.cause rank c).age = s.age ∧
     (s.cause rank c).therm = s.therm ∧ (s.cause rank c).cnt = s.cnt ∧ (s.cause rank c).inj = s.inj ∧
     (∀ o, (s.cause rank c).rd o = s.rd o) :=
  ⟨rfl, rfl, rfl, rfl, rfl, rfl, rfl, rfl, rfl, rfl, rfl, rfl, rfl, rfl, rfl, rfl, rfl, rfl, rfl, rfl, rfl, rfl,
    rfl, rfl, rfl, rfl, rfl, fun _ => rfl⟩

/-- What skipIds leaves as it was. -/
@[simp] theorem State.skipIds_fields (s : State) (n : Nat) :
    (s.skipIds n).pending = s.pending ∧ (s.skipIds n).free = s.free ∧ (s.skipIds n).regs = s.regs ∧
     (s.skipIds n).mgt = s.mgt ∧ (s.skipIds n).straps = s.straps ∧ (s.skipIds n).pins = s.pins ∧
     (s.skipIds n).clk = s.clk ∧ (s.skipIds n).pwr = s.pwr ∧ (s.skipIds n).pcs = s.pcs ∧
     (s.skipIds n).copiers = s.copiers ∧ (s.skipIds n).stack = s.stack ∧ (s.skipIds n).refresh = s.refresh ∧
     (s.skipIds n).tests = s.tests ∧ (s.skipIds n).inbox = s.inbox ∧ (s.skipIds n).ring = s.ring ∧
     (s.skipIds n).chain = s.chain ∧ (s.skipIds n).pkg = s.pkg ∧ (s.skipIds n).fw = s.fw ∧
     (s.skipIds n).sched = s.sched ∧ (s.skipIds n).seq = s.seq ∧ (s.skipIds n).tags = s.tags ∧
     (s.skipIds n).rmt = s.rmt ∧ (s.skipIds n).margins = s.margins ∧ (s.skipIds n).age = s.age ∧
     (s.skipIds n).therm = s.therm ∧ (s.skipIds n).cnt = s.cnt ∧ (s.skipIds n).inj = s.inj ∧
     (∀ o, (s.skipIds n).rd o = s.rd o) :=
  ⟨rfl, rfl, rfl, rfl, rfl, rfl, rfl, rfl, rfl, rfl, rfl, rfl, rfl, rfl, rfl, rfl, rfl, rfl, rfl, rfl, rfl, rfl,
    rfl, rfl, rfl, rfl, rfl, fun _ => rfl⟩

/-- Changing one PC controller leaves the others. -/
theorem State.pcs_modPc (s : State) (p q : Fin 64) (f : Pc → Pc) :
    (s.modPc p f).pcs[q] = if q = p then f s.pcs[p] else s.pcs[q] := by
  simp only [State.modPc, Fin.getElem_fin, Vector.getElem_set]
  by_cases h : q = p
  · subst h; simp
  · simp [h, Fin.val_ne_of_ne (Ne.symm h)]

/-- Changing one slice leaves the others. -/
theorem State.slices_modSlice (s : State) (p q : Fin 16) (f : Slice → Slice) :
    (s.modSlice p f).paths.slices[q] = if q = p then f s.paths.slices[p] else s.paths.slices[q] := by
  simp only [State.modSlice, Fin.getElem_fin, Vector.getElem_set]
  by_cases h : q = p
  · subst h; simp
  · simp [h, Fin.val_ne_of_ne (Ne.symm h)]

/-- Changing one host port leaves the others. -/
theorem State.ports_modPort (s : State) (p q : Fin 16) (f : HostPort → HostPort) :
    (s.modPort p f).paths.ports[q] = if q = p then f s.paths.ports[p] else s.paths.ports[q] := by
  simp only [State.modPort, Fin.getElem_fin, Vector.getElem_set]
  by_cases h : q = p
  · subst h; simp
  · simp [h, Fin.val_ne_of_ne (Ne.symm h)]

/-- A register reads the word last written to it; every other register reads as before. -/
@[simp] theorem State.rd_wr (s : State) (o : Nat) (v : Word) (a : Nat) :
    (s.wr o v).rd a = if a = o then v else s.rd a := cget_cset

theorem State.rd_wr_self (s : State) (o : Nat) (v : Word) : (s.wr o v).rd o = v := by simp

theorem State.rd_wr_ne (s : State) (o : Nat) (v : Word) {a : Nat} (h : a ≠ o) : (s.wr o v).rd a = s.rd a := by simp [h]

/-- Setting a field of a register leaves every other register as it was. -/
theorem State.rd_sf_ne (s : State) (o : Nat) (f : Fld) (v : Nat) {a : Nat} (h : a ≠ o) : (s.sf o f v).rd a = s.rd a := by
  simp [State.sf, h]

@[simp] theorem State.onLive_true {s : State} {i : Island} {t : State} (h : s.live i = true) : s.onLive i t = t := by
  simp [State.onLive, h]

@[simp] theorem State.onLive_false {s : State} {i : Island} {t : State} (h : s.live i = false) : s.onLive i t = s := by
  simp [State.onLive, h]

@[simp] theorem State.onCore_true {s : State} {k : Core} {t : State} (h : s.fwRuns k = true) : s.onCore k t = t := by
  simp [State.onCore, h]

@[simp] theorem State.onCore_false {s : State} {k : Core} {t : State} (h : s.fwRuns k = false) : s.onCore k t = s := by
  simp [State.onCore, h]

/-- Everything a management write of a hardware register can do (R56, R523). -/
theorem State.mgtWrite_cases (s : State) (i : Island) (t : State) :
    (s.mgtReady = false ∧ s.mgtWrite i t = s) ∨
    (s.mgtReady = true ∧ s.live i = true ∧ s.mgtWrite i t = t.mgtDone false 0) ∨
    (s.mgtReady = true ∧ s.live i = false ∧ s.mgtWrite i t = s.mgtDone true 0) := by
  unfold State.mgtWrite
  cases h : s.mgtReady <;> cases h' : s.live i <;> simp

/-- Everything an emulated write can do (R57, R319). -/
theorem State.emuAccess_cases (s : State) (off : Nat) (v : Word) (err : Bool) (t : State) :
    s.emuAccess off v err t = s ∨ s.emuAccess off v err t = s.mgtDone true 0 ∨
    (s.fwRuns .liaison = true ∧ s.emuAccess off v err t = t.mgtDone err 0) ∨
    (s.fwRuns .liaison = false ∧ s.emuAccess off v err t =
      { s with mgt := { s.mgt with waiting := some { write := true, off := off, value := v, since := s.clk.pkg } } }) := by
  unfold State.emuAccess
  split
  · exact .inl rfl
  · split
    · exact .inr (.inl rfl)
    · split
      · exact .inr (.inr (.inl ⟨by assumption, rfl⟩))
      · split
        · exact .inr (.inr (.inr ⟨by simp_all, rfl⟩))
        · exact .inr (.inl rfl)

theorem State.reset_ok : State.reset.Ok := ⟨rfl, rfl⟩

end Sys2Proof.Machine
end

