-- ==== Sys2Proof/Laws/Ops.lean ====
section
/-! SUPPORT. Two lemmas for every operation of Machine/Ops.lean. `…_ok`: the register table and the stack's memory stay
canonical. `…_keeps`: what agrees with a state outside a list of regions that holds those the operation can change still
agrees afterwards. -/

namespace Sys2Proof.Machine

set_option Elab.async false

theorem State.wr_ok (s : State) (off : Nat) (v : Word) (h_s : s.Ok) : (State.wr s off v).Ok := by
  exact ⟨cset_wf _ _ h_s.1, h_s.2⟩

theorem State.wr_keeps {s0 : State} {ps : List Region} (s : State) (off : Nat) (v : Word) (h_s : Keeps s0 s ps) :
    Keeps s0 (State.wr s off v) ps := by
  unfold State.wr
  grind [foldl_keeps', Keeps.set_regs]

theorem State.wr64_ok (s : State) (off : Nat) (v : Nat) (h_s : s.Ok) : (State.wr64 s off v).Ok := by
  unfold State.wr64
  grind [State.Ok, foldl_ok, State.wr_ok]

theorem State.wr64_keeps {s0 : State} {ps : List Region} (s : State) (off : Nat) (v : Nat) (h_s : Keeps s0 s ps) :
    Keeps s0 (State.wr64 s off v) ps := by
  unfold State.wr64
  grind [foldl_keeps', State.wr_keeps]

theorem State.sf_ok (s : State) (off : Nat) (f : Fld) (v : Nat) (h_s : s.Ok) : (State.sf s off f v).Ok := by
  unfold State.sf
  grind [State.Ok, foldl_ok, State.wr_ok]

theorem State.sf_keeps {s0 : State} {ps : List Region} (s : State) (off : Nat) (f : Fld) (v : Nat) (h_s : Keeps s0 s
    ps) : Keeps s0 (State.sf s off f v) ps := by
  unfold State.sf
  grind [foldl_keeps', State.wr_keeps]

theorem State.sf64_ok (s : State) (off : Nat) (f : Fld) (v : Nat) (h_s : s.Ok) : (State.sf64 s off f v).Ok := by
  unfold State.sf64
  grind [State.Ok, foldl_ok, State.wr64_ok]

theorem State.sf64_keeps {s0 : State} {ps : List Region} (s : State) (off : Nat) (f : Fld) (v : Nat) (h_s : Keeps s0 s
    ps) : Keeps s0 (State.sf64 s off f v) ps := by
  unfold State.sf64
  grind [foldl_keeps', State.wr64_keeps]

theorem State.raise_ok (s : State) (off : Nat) (f : Fld) (h_s : s.Ok) : (State.raise s off f).Ok := by
  unfold State.raise
  grind [State.Ok, foldl_ok, State.sf_ok]

theorem State.raise_keeps {s0 : State} {ps : List Region} (s : State) (off : Nat) (f : Fld) (h_s : Keeps s0 s ps) :
    Keeps s0 (State.raise s off f) ps := by
  unfold State.raise
  grind [foldl_keeps', State.sf_keeps]

theorem State.raiseIf_ok (s : State) (c : Bool) (off : Nat) (f : Fld) (h_s : s.Ok) : (State.raiseIf s c off f).Ok :=
    by
  unfold State.raiseIf
  grind [State.Ok, foldl_ok, State.raise_ok]

theorem State.raiseIf_keeps {s0 : State} {ps : List Region} (s : State) (c : Bool) (off : Nat) (f : Fld) (h_s : Keeps
    s0 s ps) : Keeps s0 (State.raiseIf s c off f) ps := by
  unfold State.raiseIf
  grind [foldl_keeps', State.raise_keeps]

theorem State.bump_ok (s : State) (off : Nat) (f : Fld) (h_s : s.Ok) : (State.bump s off f).Ok := by
  unfold State.bump
  grind [State.Ok, foldl_ok, State.sf_ok]

theorem State.bump_keeps {s0 : State} {ps : List Region} (s : State) (off : Nat) (f : Fld) (h_s : Keeps s0 s ps) :
    Keeps s0 (State.bump s off f) ps := by
  unfold State.bump
  grind [foldl_keeps', State.sf_keeps]

theorem State.bumpSat_ok (s : State) (off : Nat) (f : Fld) (h_s : s.Ok) : (State.bumpSat s off f).Ok := by
  unfold State.bumpSat
  grind [State.Ok, foldl_ok, State.sf_ok]

theorem State.bumpSat_keeps {s0 : State} {ps : List Region} (s : State) (off : Nat) (f : Fld) (h_s : Keeps s0 s ps) :
    Keeps s0 (State.bumpSat s off f) ps := by
  unfold State.bumpSat
  grind [foldl_keeps', State.sf_keeps]

theorem State.resetRegs_ok (s : State) (drop : Nat → Bool) (h_s : s.Ok) : (State.resetRegs s drop).Ok := by
  exact ⟨cdel_wf _ h_s.1, h_s.2⟩

theorem State.resetRegs_keeps {s0 : State} {ps : List Region} (s : State) (drop : Nat → Bool) (h_s : Keeps s0 s ps)
    (m_mgt : Region.mgt ∈ ps) : Keeps s0 (State.resetRegs s drop) ps := by
  unfold State.resetRegs
  grind [foldl_keeps', Keeps.set_regs_mgt]

theorem State.addCounter_ok (s : State) (u : Nat) (n : Nat) (qty : Nat) (h_s : s.Ok) : (State.addCounter s u n
    qty).1.Ok := by
  unfold State.addCounter
  grind [State.Ok, foldl_ok, State.wr_ok, State.wr64_ok]

theorem State.addCounter_keeps {s0 : State} {ps : List Region} (s : State) (u : Nat) (n : Nat) (qty : Nat) (h_s :
    Keeps s0 s ps) : Keeps s0 (State.addCounter s u n qty).1 ps := by
  unfold State.addCounter
  grind [foldl_keeps', State.wr_keeps, State.wr64_keeps]

theorem State.countEvent_ok (s : State) (u : Nat) (e : Nat) (src : Nat) (qty : Nat) (h_s : s.Ok) : (State.countEvent s
    u e src qty).Ok := by
  exact foldl_keeps (P := fun a : State × Nat => a.1.Ok) (fun b g h => State.addCounter_ok _ _ _ _ h) _ h_s

theorem State.countEvent_keeps {s0 : State} {ps : List Region} (s : State) (u : Nat) (e : Nat) (src : Nat) (qty : Nat)
    (h_s : Keeps s0 s ps) : Keeps s0 (State.countEvent s u e src qty) ps := by
  exact foldl_keeps (P := fun a : State × Nat => Keeps s0 a.1 ps) (fun b g h => State.addCounter_keeps _ _ _ _ h) _ h_s

theorem State.countIn_ok (s : State) (u : Fin 4) (e : Nat) (src : Nat) (qty : Nat) (h_s : s.Ok) : (State.countIn s u e
    src qty).Ok := by
  unfold State.countIn
  grind [State.Ok, foldl_ok, State.countEvent_ok]

theorem State.countIn_keeps {s0 : State} {ps : List Region} (s : State) (u : Fin 4) (e : Nat) (src : Nat) (qty : Nat)
    (h_s : Keeps s0 s ps) : Keeps s0 (State.countIn s u e src qty) ps := by
  unfold State.countIn
  grind [foldl_keeps', State.countEvent_keeps]

theorem State.countPort_ok (s : State) (e : Nat) (src : Nat) (h_s : s.Ok) : (State.countPort s e src).Ok := by
  unfold State.countPort
  grind [State.Ok, foldl_ok, State.countIn_ok]

theorem State.countPort_keeps {s0 : State} {ps : List Region} (s : State) (e : Nat) (src : Nat) (h_s : Keeps s0 s ps)
    : Keeps s0 (State.countPort s e src) ps := by
  unfold State.countPort
  grind [foldl_keeps', State.countIn_keeps]

theorem State.setDom_ok (s : State) (d : Nat) (v : DomState) (h_s : s.Ok) : (State.setDom s d v).Ok := by
  unfold State.setDom
  grind [State.Ok, foldl_ok, State.wr_ok]

theorem State.setDom_keeps {s0 : State} {ps : List Region} (s : State) (d : Nat) (v : DomState) (h_s : Keeps s0 s ps)
    : Keeps s0 (State.setDom s d v) ps := by
  unfold State.setDom
  grind [foldl_keeps', State.wr_keeps]

theorem State.onLive_ok (s : State) (i : Island) (t : State) (h_s : s.Ok) (h_t : t.Ok) : (State.onLive s i t).Ok := by
  unfold State.onLive
  grind [State.Ok, foldl_ok]

theorem State.onLive_keeps {s0 : State} {ps : List Region} (s : State) (i : Island) (t : State) (h_s : Keeps s0 s ps)
    (h_t : Keeps s0 t ps) : Keeps s0 (State.onLive s i t) ps := by
  unfold State.onLive
  grind [foldl_keeps']

theorem State.mgtDone_ok (s : State) (err : Bool) (rdata : Word) (h_s : s.Ok) : (State.mgtDone s err rdata).Ok := by
  unfold State.mgtDone
  grind [State.Ok, foldl_ok]

theorem State.mgtDone_keeps {s0 : State} {ps : List Region} (s : State) (err : Bool) (rdata : Word) (h_s : Keeps s0 s
    ps) (m_mgt : Region.mgt ∈ ps) : Keeps s0 (State.mgtDone s err rdata) ps := by
  unfold State.mgtDone
  grind [foldl_keeps', Keeps.set_mgt]

theorem State.mgtWrite_ok (s : State) (i : Island) (t : State) (h_s : s.Ok) (h_t : t.Ok) : (State.mgtWrite s i t).Ok
    := by
  unfold State.mgtWrite
  grind [State.Ok, foldl_ok, State.mgtDone_ok]

theorem State.mgtWrite_keeps {s0 : State} {ps : List Region} (s : State) (i : Island) (t : State) (h_s : Keeps s0 s
    ps) (h_t : Keeps s0 t ps) (m_mgt : Region.mgt ∈ ps) : Keeps s0 (State.mgtWrite s i t) ps := by
  unfold State.mgtWrite
  grind [foldl_keeps', State.mgtDone_keeps]

theorem State.onCore_ok (s : State) (k : Core) (t : State) (h_s : s.Ok) (h_t : t.Ok) : (State.onCore s k t).Ok := by
  unfold State.onCore
  grind [State.Ok, foldl_ok]

theorem State.onCore_keeps {s0 : State} {ps : List Region} (s : State) (k : Core) (t : State) (h_s : Keeps s0 s ps)
    (h_t : Keeps s0 t ps) : Keeps s0 (State.onCore s k t) ps := by
  unfold State.onCore
  grind [foldl_keeps']

theorem State.onUpkeep_ok (s : State) (p : Fin 64) (t : State) (h_s : s.Ok) (h_t : t.Ok) : (State.onUpkeep s p t).Ok
    := by
  unfold State.onUpkeep
  grind [State.Ok, foldl_ok, State.onCore_ok, State.onLive_ok]

theorem State.onUpkeep_keeps {s0 : State} {ps : List Region} (s : State) (p : Fin 64) (t : State) (h_s : Keeps s0 s
    ps) (h_t : Keeps s0 t ps) : Keeps s0 (State.onUpkeep s p t) ps := by
  unfold State.onUpkeep
  grind [foldl_keeps', State.onCore_keeps, State.onLive_keeps]

theorem State.emuAccess_ok (s : State) (off : Nat) (v : Word) (err : Bool) (t : State) (h_s : s.Ok) (h_t : t.Ok) :
    (State.emuAccess s off v err t).Ok := by
  unfold State.emuAccess
  grind [State.Ok, foldl_ok, State.mgtDone_ok]

theorem State.emuAccess_keeps {s0 : State} {ps : List Region} (s : State) (off : Nat) (v : Word) (err : Bool) (t :
    State) (h_s : Keeps s0 s ps) (h_t : Keeps s0 t ps) (m_mgt : Region.mgt ∈ ps) : Keeps s0 (State.emuAccess s off v
    err t) ps := by
  unfold State.emuAccess
  grind [foldl_keeps', State.mgtDone_keeps, Keeps.set_mgt]

theorem State.emuWrite_ok (s : State) (off : Nat) (v : Word) (t : Option State) (h_s : s.Ok) (h_t : ∀ x, t = some x →
    x.Ok) : (State.emuWrite s off v t).Ok := by
  unfold State.emuWrite
  exact State.emuAccess_ok _ _ _ _ _ h_s (getD_ok h_t h_s)

theorem State.emuWrite_keeps {s0 : State} {ps : List Region} (s : State) (off : Nat) (v : Word) (t : Option State)
    (h_s : Keeps s0 s ps) (h_t : ∀ x, t = some x → Keeps s0 x ps) (m_mgt : Region.mgt ∈ ps) :
    Keeps s0 (State.emuWrite s off v t) ps := by
  unfold State.emuWrite
  cases t <;> grind [State.emuAccess_keeps]

theorem State.known_ok (s : State) (r : Nat) (h_s : s.Ok) : (State.known s r).Ok := by
  unfold State.known
  grind [State.Ok, foldl_ok]

theorem State.known_keeps {s0 : State} {ps : List Region} (s : State) (r : Nat) (h_s : Keeps s0 s ps) (m_fw :
    Region.fw ∈ ps) : Keeps s0 (State.known s r) ps := by
  unfold State.known
  grind [foldl_keeps', Keeps.set_fw]

theorem State.fwDom_ok (s : State) (d : Nat) (v : DomState) (h_s : s.Ok) : (State.fwDom s d v).Ok := by
  unfold State.fwDom
  grind [State.Ok, foldl_ok, State.known_ok, State.setDom_ok]

theorem State.fwDom_keeps {s0 : State} {ps : List Region} (s : State) (d : Nat) (v : DomState) (h_s : Keeps s0 s ps)
    (m_fw : Region.fw ∈ ps) : Keeps s0 (State.fwDom s d v) ps := by
  unfold State.fwDom
  grind [foldl_keeps', State.known_keeps, State.setDom_keeps]

theorem State.when_ok (s : State) (c : Bool) (t : State) (h_s : s.Ok) (h_t : t.Ok) : (State.when s c t).Ok := by
  unfold State.when
  grind [State.Ok, foldl_ok]

theorem State.when_keeps {s0 : State} {ps : List Region} (s : State) (c : Bool) (t : State) (h_s : Keeps s0 s ps) (h_t
    : Keeps s0 t ps) : Keeps s0 (State.when s c t) ps := by
  unfold State.when
  grind [foldl_keeps']

theorem State.tick_ok (s : State) (h_s : s.Ok) : (State.tick s).Ok := by
  unfold State.tick
  grind [State.Ok, foldl_ok]

theorem State.tick_keeps {s0 : State} {ps : List Region} (s : State) (h_s : Keeps s0 s ps) (m_free : Region.free ∈ ps)
    : Keeps s0 (State.tick s) ps := by
  unfold State.tick
  grind [foldl_keeps', Keeps.set_free]

theorem State.modPc_ok (s : State) (p : Fin 64) (f : Pc → Pc) (h_s : s.Ok) : (State.modPc s p f).Ok := by
  unfold State.modPc
  grind [State.Ok, foldl_ok]

theorem State.modPc_keeps {s0 : State} {ps : List Region} (s : State) (p : Fin 64) (f : Pc → Pc) (h_s : Keeps s0 s ps)
    (m_pcs : Region.pcs ∈ ps) : Keeps s0 (State.modPc s p f) ps := by
  unfold State.modPc
  grind [foldl_keeps', Keeps.set_pcs]

theorem State.modSlice_ok (s : State) (i : Fin 16) (f : Slice → Slice) (h_s : s.Ok) : (State.modSlice s i f).Ok := by
  unfold State.modSlice
  grind [State.Ok, foldl_ok]

theorem State.modSlice_keeps {s0 : State} {ps : List Region} (s : State) (i : Fin 16) (f : Slice → Slice) (h_s : Keeps
    s0 s ps) (m_paths : Region.paths ∈ ps) : Keeps s0 (State.modSlice s i f) ps := by
  unfold State.modSlice
  grind [foldl_keeps', Keeps.set_paths]

theorem State.modPort_ok (s : State) (n : Fin 16) (f : HostPort → HostPort) (h_s : s.Ok) : (State.modPort s n f).Ok :=
    by
  unfold State.modPort
  grind [State.Ok, foldl_ok]

theorem State.modPort_keeps {s0 : State} {ps : List Region} (s : State) (n : Fin 16) (f : HostPort → HostPort) (h_s :
    Keeps s0 s ps) (m_paths : Region.paths ∈ ps) : Keeps s0 (State.modPort s n f) ps := by
  unfold State.modPort
  grind [foldl_keeps', Keeps.set_paths]

theorem State.modPaths_ok (s : State) (f : Paths → Paths) (h_s : s.Ok) : (State.modPaths s f).Ok := by
  unfold State.modPaths
  grind [State.Ok, foldl_ok]

theorem State.modPaths_keeps {s0 : State} {ps : List Region} (s : State) (f : Paths → Paths) (h_s : Keeps s0 s ps)
    (m_paths : Region.paths ∈ ps) : Keeps s0 (State.modPaths s f) ps := by
  unfold State.modPaths
  grind [foldl_keeps', Keeps.set_paths]

theorem State.modInbox_ok (s : State) (f : Inbox → Inbox) (h_s : s.Ok) : (State.modInbox s f).Ok := by
  unfold State.modInbox
  grind [State.Ok, foldl_ok]

theorem State.modInbox_keeps {s0 : State} {ps : List Region} (s : State) (f : Inbox → Inbox) (h_s : Keeps s0 s ps)
    (m_inbox : Region.inbox ∈ ps) : Keeps s0 (State.modInbox s f) ps := by
  unfold State.modInbox
  grind [foldl_keeps', Keeps.set_inbox]

theorem State.modPins_ok (s : State) (f : Pins → Pins) (h_s : s.Ok) : (State.modPins s f).Ok := by
  unfold State.modPins
  grind [State.Ok, foldl_ok]

theorem State.modPins_keeps {s0 : State} {ps : List Region} (s : State) (f : Pins → Pins) (h_s : Keeps s0 s ps)
    (m_pins : Region.pins ∈ ps) : Keeps s0 (State.modPins s f) ps := by
  unfold State.modPins
  grind [foldl_keeps', Keeps.set_pins]

theorem State.modPwr_ok (s : State) (f : Power → Power) (h_s : s.Ok) : (State.modPwr s f).Ok := by
  unfold State.modPwr
  grind [State.Ok, foldl_ok]

theorem State.modPwr_keeps {s0 : State} {ps : List Region} (s : State) (f : Power → Power) (h_s : Keeps s0 s ps)
    (m_pwr : Region.pwr ∈ ps) : Keeps s0 (State.modPwr s f) ps := by
  unfold State.modPwr
  grind [foldl_keeps', Keeps.set_pwr]

theorem State.logRec_ok (s : State) (code : Nat) (args : List Nat) (h_s : s.Ok) : (State.logRec s code args).Ok := by
  unfold State.logRec
  grind [State.Ok, foldl_ok, State.modInbox_ok]

theorem State.logRec_keeps {s0 : State} {ps : List Region} (s : State) (code : Nat) (args : List Nat) (h_s : Keeps s0
    s ps) (m_inbox : Region.inbox ∈ ps) : Keeps s0 (State.logRec s code args) ps := by
  unfold State.logRec
  grind [foldl_keeps', State.modInbox_keeps]

theorem State.cause_ok (s : State) (rank : Nat) (c : Nat) (h_s : s.Ok) : (State.cause s rank c).Ok := by
  unfold State.cause
  grind [State.Ok, foldl_ok, State.modInbox_ok]

theorem State.cause_keeps {s0 : State} {ps : List Region} (s : State) (rank : Nat) (c : Nat) (h_s : Keeps s0 s ps)
    (m_inbox : Region.inbox ∈ ps) : Keeps s0 (State.cause s rank c) ps := by
  unfold State.cause
  grind [foldl_keeps', State.modInbox_keeps]

theorem State.iff_ok (s : State) (c : Bool) (f : State → State) (h_s : s.Ok) (h_f : ∀ y0, y0.Ok → (f y0).Ok) :
    (State.iff s c f).Ok := by
  unfold State.iff
  grind [State.Ok, foldl_ok]

theorem State.iff_keeps {s0 : State} {ps : List Region} (s : State) (c : Bool) (f : State → State) (h_s : Keeps s0 s
    ps) (h_f : ∀ y0, Keeps s0 y0 ps → Keeps s0 (f y0) ps) : Keeps s0 (State.iff s c f) ps := by
  unfold State.iff
  grind [foldl_keeps']

theorem State.putBurst_ok (s : State) (l : Loc) (data : List Byte) (poison : Bool) (h_s : s.Ok) : (State.putBurst s l
    data poison).Ok := by
  exact ⟨h_s.1, Stack.writeBurst_wf _ _ h_s.2⟩

theorem State.putBurst_keeps {s0 : State} {ps : List Region} (s : State) (l : Loc) (data : List Byte) (poison : Bool)
    (h_s : Keeps s0 s ps) (m_stack : Region.stack ∈ ps) : Keeps s0 (State.putBurst s l data poison) ps := by
  unfold State.putBurst
  grind [foldl_keeps', Keeps.set_stack]

theorem State.modD2d_ok (s : State) (east : Bool) (f : D2dPort → D2dPort) (h_s : s.Ok) : (State.modD2d s east f).Ok :=
    by
  unfold State.modD2d
  grind [State.Ok, foldl_ok]

theorem State.modD2d_keeps {s0 : State} {ps : List Region} (s : State) (east : Bool) (f : D2dPort → D2dPort) (h_s :
    Keeps s0 s ps) (m_ring : Region.ring ∈ ps) : Keeps s0 (State.modD2d s east f) ps := by
  unfold State.modD2d
  grind [foldl_keeps', Keeps.set_ring]

theorem State.modRing_ok (s : State) (f : Ring → Ring) (h_s : s.Ok) : (State.modRing s f).Ok := by
  unfold State.modRing
  grind [State.Ok, foldl_ok]

theorem State.modRing_keeps {s0 : State} {ps : List Region} (s : State) (f : Ring → Ring) (h_s : Keeps s0 s ps)
    (m_ring : Region.ring ∈ ps) : Keeps s0 (State.modRing s f) ps := by
  unfold State.modRing
  grind [foldl_keeps', Keeps.set_ring]

theorem State.startRetrain_ok (s : State) (east : Bool) (m : Fin 2) (h_s : s.Ok) : (State.startRetrain s east m).Ok :=
    by
  unfold State.startRetrain
  grind [State.Ok, foldl_ok, State.bumpSat_ok, State.modD2d_ok]

theorem State.startRetrain_keeps {s0 : State} {ps : List Region} (s : State) (east : Bool) (m : Fin 2) (h_s : Keeps s0
    s ps) (m_ring : Region.ring ∈ ps) : Keeps s0 (State.startRetrain s east m) ps := by
  unfold State.startRetrain
  grind [foldl_keeps', State.bumpSat_keeps, State.modD2d_keeps]

theorem State.crcError_ok (s : State) (east : Bool) (m : Fin 2) (h_s : s.Ok) : (State.crcError s east m).Ok := by
  unfold State.crcError
  grind [State.Ok, foldl_ok, State.modD2d_ok, State.startRetrain_ok]

theorem State.crcError_keeps {s0 : State} {ps : List Region} (s : State) (east : Bool) (m : Fin 2) (h_s : Keeps s0 s
    ps) (m_ring : Region.ring ∈ ps) : Keeps s0 (State.crcError s east m) ps := by
  unfold State.crcError
  grind [foldl_keeps', State.modD2d_keeps, State.startRetrain_keeps]

theorem State.injectedFault_ok (s : State) (east : Bool) (h_s : s.Ok) : (State.injectedFault s east).Ok := by
  unfold State.injectedFault
  grind [State.Ok, foldl_ok, State.countPort_ok, State.crcError_ok]

theorem State.injectedFault_keeps {s0 : State} {ps : List Region} (s : State) (east : Bool) (h_s : Keeps s0 s ps)
    (m_ring : Region.ring ∈ ps) : Keeps s0 (State.injectedFault s east) ps := by
  unfold State.injectedFault
  grind [foldl_keeps', State.countPort_keeps, State.crcError_keeps]

theorem State.injectFlit_ok (s : State) (east : Bool) (h_s : s.Ok) : (State.injectFlit s east).Ok := by
  unfold State.injectFlit
  grind [State.Ok, foldl_ok, State.bumpSat_ok, State.injectedFault_ok, State.sf_ok]

theorem State.injectFlit_keeps {s0 : State} {ps : List Region} (s : State) (east : Bool) (h_s : Keeps s0 s ps) (m_ring
    : Region.ring ∈ ps) (m_inj : Region.inj ∈ ps) : Keeps s0 (State.injectFlit s east) ps := by
  unfold State.injectFlit
  grind [foldl_keeps', State.bumpSat_keeps, State.injectedFault_keeps, State.sf_keeps, Keeps.set_inj]

theorem State.returnCredit_ok (s : State) (came : Option (Bool × Nat)) (flits : Nat) (h_s : s.Ok) :
    (State.returnCredit s came flits).Ok := by
  unfold State.returnCredit
  grind [State.Ok, foldl_ok, State.modD2d_ok]

theorem State.returnCredit_keeps {s0 : State} {ps : List Region} (s : State) (came : Option (Bool × Nat)) (flits :
    Nat) (h_s : Keeps s0 s ps) (m_ring : Region.ring ∈ ps) : Keeps s0 (State.returnCredit s came flits) ps := by
  unfold State.returnCredit
  grind [foldl_keeps', State.modD2d_keeps]

theorem State.pumpPort_ok (s : State) (east : Bool) (h_s : s.Ok) : (State.pumpPort s east).Ok := by
  unfold State.pumpPort
  grind [State.Ok, foldl_ok, State.modD2d_ok, State.returnCredit_ok, State.injectFlit_ok]

theorem State.pumpPort_keeps {s0 : State} {ps : List Region} (s : State) (east : Bool) (h_s : Keeps s0 s ps) (m_ring :
    Region.ring ∈ ps) (m_inj : Region.inj ∈ ps) : Keeps s0 (State.pumpPort s east) ps := by
  unfold State.pumpPort
  grind [foldl_keeps', State.modD2d_keeps, State.returnCredit_keeps, State.injectFlit_keeps]

theorem State.onPort_ok (s : State) (east : Bool) (f : Flit) (h_s : s.Ok) : (State.onPort s east f).Ok := by
  unfold State.onPort
  grind [State.Ok, foldl_ok, State.pumpPort_ok, State.modD2d_ok]

theorem State.onPort_keeps {s0 : State} {ps : List Region} (s : State) (east : Bool) (f : Flit) (h_s : Keeps s0 s ps)
    (m_ring : Region.ring ∈ ps) (m_inj : Region.inj ∈ ps) : Keeps s0 (State.onPort s east f) ps := by
  unfold State.onPort
  grind [foldl_keeps', State.pumpPort_keeps, State.modD2d_keeps]

theorem State.sendCtl_ok (s : State) (dst : Nat) (c : Ctl) (h_s : s.Ok) : (State.sendCtl s dst c).Ok := by
  unfold State.sendCtl
  grind [State.Ok, foldl_ok, State.onPort_ok]

theorem State.sendCtl_keeps {s0 : State} {ps : List Region} (s : State) (dst : Nat) (c : Ctl) (h_s : Keeps s0 s ps)
    (m_ring : Region.ring ∈ ps) (m_inj : Region.inj ∈ ps) : Keeps s0 (State.sendCtl s dst c) ps := by
  unfold State.sendCtl
  grind [foldl_keeps', State.onPort_keeps]

theorem State.broadcast_ok (s : State) (c : Ctl) (h_s : s.Ok) : (State.broadcast s c).Ok := by
  unfold State.broadcast
  grind [State.Ok, foldl_ok, State.sendCtl_ok]

theorem State.broadcast_keeps {s0 : State} {ps : List Region} (s : State) (c : Ctl) (h_s : Keeps s0 s ps) (m_ring :
    Region.ring ∈ ps) (m_inj : Region.inj ∈ ps) : Keeps s0 (State.broadcast s c) ps := by
  unfold State.broadcast
  grind [foldl_keeps', State.sendCtl_keeps]

theorem State.stamp_ok (s : State) (id : Nat) (stage : Nat) (time : Nat) (h_s : s.Ok) : (State.stamp s id stage
    time).Ok := by
  unfold State.stamp
  grind [State.Ok, foldl_ok]

theorem State.stamp_keeps {s0 : State} {ps : List Region} (s : State) (id : Nat) (stage : Nat) (time : Nat) (h_s :
    Keeps s0 s ps) (m_tags : Region.tags ∈ ps) : Keeps s0 (State.stamp s id stage time) ps := by
  unfold State.stamp
  grind [foldl_keeps', Keeps.set_tags]

theorem State.stampAccess_ok (s : State) (p : Fin 64) (o : Owner) (stage : Nat) (h_s : s.Ok) : (State.stampAccess s p
    o stage).Ok := by
  unfold State.stampAccess
  grind [State.Ok, foldl_ok, State.stamp_ok]

theorem State.stampAccess_keeps {s0 : State} {ps : List Region} (s : State) (p : Fin 64) (o : Owner) (stage : Nat)
    (h_s : Keeps s0 s ps) (m_tags : Region.tags ∈ ps) : Keeps s0 (State.stampAccess s p o stage) ps := by
  unfold State.stampAccess
  grind [foldl_keeps', State.stamp_keeps, Keeps.set_tags]

theorem State.modTag_ok (s : State) (id : Nat) (f : TagRec → TagRec) (h_s : s.Ok) : (State.modTag s id f).Ok := by
  unfold State.modTag
  grind [State.Ok, foldl_ok]

theorem State.modTag_keeps {s0 : State} {ps : List Region} (s : State) (id : Nat) (f : TagRec → TagRec) (h_s : Keeps
    s0 s ps) (m_tags : Region.tags ∈ ps) : Keeps s0 (State.modTag s id f) ps := by
  unfold State.modTag
  grind [foldl_keeps', Keeps.set_tags]

theorem State.endTag_ok (s : State) (id : Nat) (time : Nat) (st : Status) (h_s : s.Ok) : (State.endTag s id time
    st).Ok := by
  unfold State.endTag
  grind [State.Ok, foldl_ok, State.countIn_ok, State.wr_ok]

theorem State.endTag_keeps {s0 : State} {ps : List Region} (s : State) (id : Nat) (time : Nat) (st : Status) (h_s :
    Keeps s0 s ps) (m_tags : Region.tags ∈ ps) : Keeps s0 (State.endTag s id time st) ps := by
  unfold State.endTag
  grind [foldl_keeps', State.countIn_keeps, State.wr_keeps, Keeps.set_tags]

theorem State.complete_ok (s : State) (r : Req) (st : Status) (data : List Byte) (h_s : s.Ok) : (State.complete s r st
    data).Ok := by
  unfold State.complete
  grind [State.Ok, foldl_ok, State.stamp_ok, State.modPort_ok, State.modRing_ok, State.onPort_ok, State.endTag_ok,
      State.modPaths_ok]

theorem State.complete_keeps {s0 : State} {ps : List Region} (s : State) (r : Req) (st : Status) (data : List Byte)
    (h_s : Keeps s0 s ps) (m_paths : Region.paths ∈ ps) (m_ring : Region.ring ∈ ps) (m_tags : Region.tags ∈ ps) (m_inj
    : Region.inj ∈ ps) : Keeps s0 (State.complete s r st data) ps := by
  unfold State.complete
  repeat' split
  all_goals grind [foldl_keeps', State.stamp_keeps, State.modPort_keeps, State.modRing_keeps, State.onPort_keeps,
      State.endTag_keeps, State.modPaths_keeps]

theorem State.skipIds_ok (s : State) (n : Nat) (h_s : s.Ok) : (State.skipIds s n).Ok := by
  unfold State.skipIds
  grind [State.Ok, foldl_ok, State.modPaths_ok]

theorem State.skipIds_keeps {s0 : State} {ps : List Region} (s : State) (n : Nat) (h_s : Keeps s0 s ps) (m_paths :
    Region.paths ∈ ps) : Keeps s0 (State.skipIds s n) ps := by
  unfold State.skipIds
  grind [foldl_keeps', State.modPaths_keeps]

theorem State.draw_ok (s : State) (port : Nat) (kind : Nat) (rec : TagRec) (h_s : s.Ok) : (State.draw s port kind
    rec).Ok := by
  unfold State.draw
  grind [State.Ok, foldl_ok, State.countIn_ok]

theorem State.draw_keeps {s0 : State} {ps : List Region} (s : State) (port : Nat) (kind : Nat) (rec : TagRec) (h_s :
    Keeps s0 s ps) (m_tags : Region.tags ∈ ps) : Keeps s0 (State.draw s port kind rec) ps := by
  unfold State.draw
  grind [foldl_keeps', State.countIn_keeps, Keeps.set_tags]

theorem State.drawFor_ok (s : State) (r : Req) (h_s : s.Ok) : (State.drawFor s r).Ok := by
  unfold State.drawFor
  grind [State.Ok, foldl_ok, State.draw_ok]

theorem State.drawFor_keeps {s0 : State} {ps : List Region} (s : State) (r : Req) (h_s : Keeps s0 s ps) (m_tags :
    Region.tags ∈ ps) : Keeps s0 (State.drawFor s r) ps := by
  unfold State.drawFor
  grind [foldl_keeps', State.draw_keeps]

theorem State.ingress_ok (s : State) (r : Req) (h_s : s.Ok) : (State.ingress s r).Ok := by
  unfold State.ingress
  grind [State.Ok, foldl_ok, State.stamp_ok, State.drawFor_ok, State.complete_ok, State.modPaths_ok, State.modTag_ok,
      State.onPort_ok, State.modD2d_ok]

theorem State.ingress_keeps {s0 : State} {ps : List Region} (s : State) (r : Req) (h_s : Keeps s0 s ps) (m_paths :
    Region.paths ∈ ps) (m_ring : Region.ring ∈ ps) (m_tags : Region.tags ∈ ps) (m_inj : Region.inj ∈ ps) : Keeps s0
    (State.ingress s r) ps := by
  unfold State.ingress
  dsimp only
  repeat' first
      | with_reducible assumption
      | with_reducible apply ite_keeps
      | with_reducible refine foldl_keeps' (fun _ _ _ => ?_) _ ?_
      | with_reducible apply State.stamp_keeps
      | with_reducible apply State.drawFor_keeps
      | with_reducible apply State.complete_keeps
      | with_reducible apply State.modPaths_keeps
      | with_reducible apply State.modTag_keeps
      | with_reducible apply State.onPort_keeps
      | with_reducible apply State.modD2d_keeps
      | split

theorem State.sendAccess_ok (s : State) (a : Access) (h_s : s.Ok) : (State.sendAccess s a).Ok := by
  unfold State.sendAccess
  grind [State.Ok, foldl_ok]

theorem State.sendAccess_keeps {s0 : State} {ps : List Region} (s : State) (a : Access) (h_s : Keeps s0 s ps) (m_paths
    : Region.paths ∈ ps) : Keeps s0 (State.sendAccess s a) ps := by
  unfold State.sendAccess
  grind [foldl_keeps', Keeps.set_paths]

end Sys2Proof.Machine
end

