-- ==== Sys2Proof/Laws/Errors.lean ====
section
/-! SUPPORT. Two lemmas for every operation of Machine/Errors.lean. `…_ok`: the register table and the stack's memory stay
canonical. `…_keeps`: what agrees with a state outside a list of regions that holds those the operation can change still
agrees afterwards. -/

namespace Sys2Proof.Machine

set_option Elab.async false

theorem State.fec_ok (s : State) (k : FecKind) (phys : Bool) (unit : Nat) (addr : Nat) (h_s : s.Ok) : (State.fec s k
    phys unit addr).Ok := by
  unfold State.fec
  grind [State.Ok, foldl_ok, State.bumpSat_ok, State.wr64_ok, State.wr_ok]

theorem State.fec_keeps {s0 : State} {ps : List Region} (s : State) (k : FecKind) (phys : Bool) (unit : Nat) (addr :
    Nat) (h_s : Keeps s0 s ps) : Keeps s0 (State.fec s k phys unit addr) ps := by
  unfold State.fec
  grind [foldl_keeps', State.bumpSat_keeps, State.wr64_keeps, State.wr_keeps]

theorem State.fecAccess_ok (s : State) (k : FecKind) (a : Access) (h_s : s.Ok) : (State.fecAccess s k a).Ok := by
  unfold State.fecAccess
  grind [State.Ok, foldl_ok, State.fec_ok]

theorem State.fecAccess_keeps {s0 : State} {ps : List Region} (s : State) (k : FecKind) (a : Access) (h_s : Keeps s0 s
    ps) : Keeps s0 (State.fecAccess s k a) ps := by
  unfold State.fecAccess
  grind [foldl_keeps', State.fec_keeps]

theorem State.rowEvent_ok (s : State) (l : Loc) (ue : Bool) (h_s : s.Ok) : (State.rowEvent s l ue).Ok := by
  unfold State.rowEvent
  grind [State.Ok, foldl_ok, State.modPc_ok, State.raise_ok]

theorem State.rowEvent_keeps {s0 : State} {ps : List Region} (s : State) (l : Loc) (ue : Bool) (h_s : Keeps s0 s ps)
    (m_pcs : Region.pcs ∈ ps) : Keeps s0 (State.rowEvent s l ue) ps := by
  unfold State.rowEvent
  grind [foldl_keeps', State.modPc_keeps, State.raise_keeps]

theorem State.setRedir_ok (s : State) (e : Nat) (r : Redir) (h_s : s.Ok) : (State.setRedir s e r).Ok := by
  unfold State.setRedir
  grind [State.Ok, foldl_ok, State.wr64_ok]

theorem State.setRedir_keeps {s0 : State} {ps : List Region} (s : State) (e : Nat) (r : Redir) (h_s : Keeps s0 s ps) :
    Keeps s0 (State.setRedir s e r) ps := by
  unfold State.setRedir
  grind [foldl_keeps', State.wr64_keeps]

theorem State.setRank_ok (s : State) (r : Nat) (v : Nat) (h_s : s.Ok) : (State.setRank s r v).Ok := by
  unfold State.setRank
  grind [State.Ok, foldl_ok, State.wr_ok]

theorem State.setRank_keeps {s0 : State} {ps : List Region} (s : State) (r : Nat) (v : Nat) (h_s : Keeps s0 s ps) :
    Keeps s0 (State.setRank s r v) ps := by
  unfold State.setRank
  grind [foldl_keeps', State.wr_keeps]

theorem State.redoFor_ok (s : State) (l : Loc) (h_s : s.Ok) : (State.redoFor s l).Ok := by
  unfold State.redoFor
  grind [State.Ok, foldl_ok, State.setRedir_ok]

theorem State.redoFor_keeps {s0 : State} {ps : List Region} (s : State) (l : Loc) (h_s : Keeps s0 s ps) : Keeps s0
    (State.redoFor s l) ps := by
  unfold State.redoFor
  grind [foldl_keeps', State.setRedir_keeps]

theorem State.kbAdd_ok (s : State) (l : Loc) (addr : Option Nat) (h_s : s.Ok) : (State.kbAdd s l addr).Ok := by
  unfold State.kbAdd
  grind [State.Ok, foldl_ok, State.logRec_ok, State.modPc_ok, State.redoFor_ok, State.raise_ok, State.fec_ok]

theorem State.kbAdd_keeps {s0 : State} {ps : List Region} (s : State) (l : Loc) (addr : Option Nat) (h_s : Keeps s0 s
    ps) (m_pcs : Region.pcs ∈ ps) (m_inbox : Region.inbox ∈ ps) : Keeps s0 (State.kbAdd s l addr) ps := by
  unfold State.kbAdd
  grind [foldl_keeps', State.logRec_keeps, State.modPc_keeps, State.redoFor_keeps, State.raise_keeps, State.fec_keeps]

theorem State.kbFree_ok (s : State) (l : Loc) (h_s : s.Ok) : (State.kbFree s l).Ok := by
  unfold State.kbFree
  grind [State.Ok, foldl_ok, State.modPc_ok]

theorem State.kbFree_keeps {s0 : State} {ps : List Region} (s : State) (l : Loc) (h_s : Keeps s0 s ps) (m_pcs :
    Region.pcs ∈ ps) : Keeps s0 (State.kbFree s l) ps := by
  unfold State.kbFree
  grind [foldl_keeps', State.modPc_keeps]

theorem State.laneCount_ok (s : State) (p : Fin 64) (lane : Nat) (h_s : s.Ok) : (State.laneCount s p lane).Ok := by
  unfold State.laneCount
  grind [State.Ok, foldl_ok, State.modPc_ok, State.raiseIf_ok]

theorem State.laneCount_keeps {s0 : State} {ps : List Region} (s : State) (p : Fin 64) (lane : Nat) (h_s : Keeps s0 s
    ps) (m_pcs : Region.pcs ∈ ps) : Keeps s0 (State.laneCount s p lane) ps := by
  unfold State.laneCount
  grind [foldl_keeps', State.modPc_keeps, State.raiseIf_keeps]

theorem State.readEffects_ok (s : State) (a : Access) (d : Decode) (h_s : s.Ok) : (State.readEffects s a d).Ok := by
  unfold State.readEffects
  grind [State.Ok, foldl_ok, State.rowEvent_ok, State.laneCount_ok, State.sf_ok, State.raise_ok, State.fecAccess_ok,
      State.kbAdd_ok, State.cause_ok]

theorem State.readEffects_keeps {s0 : State} {ps : List Region} (s : State) (a : Access) (d : Decode) (h_s : Keeps s0
    s ps) (m_pcs : Region.pcs ∈ ps) (m_inbox : Region.inbox ∈ ps) : Keeps s0 (State.readEffects s a d) ps := by
  unfold State.readEffects
  grind [foldl_keeps', State.rowEvent_keeps, State.laneCount_keeps, State.sf_keeps, State.raise_keeps,
      State.fecAccess_keeps, State.kbAdd_keeps, State.cause_keeps]

theorem State.repairEvent_ok (s : State) (h_s : s.Ok) : (State.repairEvent s).Ok := by
  unfold State.repairEvent
  grind [State.Ok, foldl_ok]

theorem State.repairEvent_keeps {s0 : State} {ps : List Region} (s : State) (h_s : Keeps s0 s ps) (m_age : Region.age
    ∈ ps) : Keeps s0 (State.repairEvent s) ps := by
  unfold State.repairEvent
  grind [foldl_keeps', Keeps.set_age]

end Sys2Proof.Machine
end

