-- ==== Sys2Proof/Laws/PcOps.lean ====
section
/-! SUPPORT. Two lemmas for every operation of Machine/PcOps.lean. `…_ok`: the register table and the stack's memory stay
canonical. `…_keeps`: what agrees with a state outside a list of regions that holds those the operation can change still
agrees afterwards. -/

namespace Sys2Proof.Machine

set_option Elab.async false

theorem State.settleCycles_ok (s : State) (p : Fin 64) (h_s : s.Ok) : (State.settleCycles s p).Ok := by
  unfold State.settleCycles
  grind [State.Ok, foldl_ok, State.modPc_ok]

theorem State.settleCycles_keeps {s0 : State} {ps : List Region} (s : State) (p : Fin 64) (h_s : Keeps s0 s ps) (m_pcs
    : Region.pcs ∈ ps) : Keeps s0 (State.settleCycles s p) ps := by
  unfold State.settleCycles
  grind [foldl_keeps', State.modPc_keeps]

theorem State.narrowDone_ok (s : State) (n : Narrow) (st : Status) (data : List Byte) (h_s : s.Ok) : (State.narrowDone
    s n st data).Ok := by
  unfold State.narrowDone
  grind [State.Ok, foldl_ok, State.modSlice_ok, State.complete_ok]

theorem State.narrowDone_keeps {s0 : State} {ps : List Region} (s : State) (n : Narrow) (st : Status) (data : List
    Byte) (h_s : Keeps s0 s ps) (m_paths : Region.paths ∈ ps) (m_ring : Region.ring ∈ ps) (m_tags : Region.tags ∈ ps)
    (m_inj : Region.inj ∈ ps) : Keeps s0 (State.narrowDone s n st data) ps := by
  unfold State.narrowDone
  grind [foldl_keeps', State.modSlice_keeps, State.complete_keeps]

theorem State.pannierBurst_ok (s : State) (p : Fin 64) (home : Fin 64) (a : Access) (entry : Nat) (burst : Nat) (g :
    Nat) (data : List Byte) (bad : Bool) (h_s : s.Ok) : (State.pannierBurst s p home a entry burst g data bad).Ok :=
    by
  unfold State.pannierBurst
  grind [State.Ok, foldl_ok, State.modPc_ok, State.narrowDone_ok, State.skipIds_ok, State.wr_ok]

theorem State.pannierBurst_keeps {s0 : State} {ps : List Region} (s : State) (p : Fin 64) (home : Fin 64) (a : Access)
    (entry : Nat) (burst : Nat) (g : Nat) (data : List Byte) (bad : Bool) (h_s : Keeps s0 s ps) (m_paths :
    Region.paths ∈ ps) (m_pcs : Region.pcs ∈ ps) (m_ring : Region.ring ∈ ps) (m_tags : Region.tags ∈ ps) (m_inj :
    Region.inj ∈ ps) : Keeps s0 (State.pannierBurst s p home a entry burst g data bad) ps := by
  unfold State.pannierBurst
  grind [foldl_keeps', State.modPc_keeps, State.narrowDone_keeps, State.skipIds_keeps, State.wr_keeps]

theorem State.deliver_ok (s : State) (p : Fin 64) (a : Access) (g : Nat) (data : List Byte) (bad : Bool) (h_s : s.Ok)
    : (State.deliver s p a g data bad).Ok := by
  unfold State.deliver
  grind [State.Ok, foldl_ok, State.modPaths_ok, State.modPc_ok, State.pannierBurst_ok]

theorem State.deliver_keeps {s0 : State} {ps : List Region} (s : State) (p : Fin 64) (a : Access) (g : Nat) (data :
    List Byte) (bad : Bool) (h_s : Keeps s0 s ps) (m_paths : Region.paths ∈ ps) (m_pcs : Region.pcs ∈ ps) (m_ring :
    Region.ring ∈ ps) (m_tags : Region.tags ∈ ps) (m_inj : Region.inj ∈ ps) : Keeps s0 (State.deliver s p a g data
    bad) ps := by
  unfold State.deliver
  grind [foldl_keeps', State.modPaths_keeps, State.modPc_keeps, State.pannierBurst_keeps]

theorem State.settleMerge_ok (s : State) (p : Fin 64) (wid : Nat) (data : List Byte) (bad : Bool) (h_s : s.Ok) :
    (State.settleMerge s p wid data bad).Ok := by
  unfold State.settleMerge
  grind [State.Ok, foldl_ok, State.deliver_ok, State.modPc_ok]

theorem State.settleMerge_keeps {s0 : State} {ps : List Region} (s : State) (p : Fin 64) (wid : Nat) (data : List
    Byte) (bad : Bool) (h_s : Keeps s0 s ps) (m_paths : Region.paths ∈ ps) (m_pcs : Region.pcs ∈ ps) (m_ring :
    Region.ring ∈ ps) (m_tags : Region.tags ∈ ps) (m_inj : Region.inj ∈ ps) : Keeps s0 (State.settleMerge s p wid data
    bad) ps := by
  unfold State.settleMerge
  grind [foldl_keeps', State.deliver_keeps, State.modPc_keeps]

theorem State.grantRead_ok (s : State) (p : Fin 64) (e : PoolEntry) (h_s : s.Ok) : (State.grantRead s p e).Ok := by
  unfold State.grantRead
  grind [State.Ok, foldl_ok, State.deliver_ok, State.modPc_ok, State.raise_ok]

theorem State.grantRead_keeps {s0 : State} {ps : List Region} (s : State) (p : Fin 64) (e : PoolEntry) (h_s : Keeps s0
    s ps) (m_paths : Region.paths ∈ ps) (m_pcs : Region.pcs ∈ ps) (m_ring : Region.ring ∈ ps) (m_tags : Region.tags ∈
    ps) (m_inj : Region.inj ∈ ps) : Keeps s0 (State.grantRead s p e) ps := by
  unfold State.grantRead
  grind [foldl_keeps', State.deliver_keeps, State.modPc_keeps, State.raise_keeps]

theorem State.serveRead_ok (s : State) (p : Fin 64) (a : Access) (g : Nat) (data : List Byte) (bad : Bool) (h_s :
    s.Ok) : (State.serveRead s p a g data bad).Ok := by
  unfold State.serveRead
  grind [State.Ok, foldl_ok, State.deliver_ok, State.settleMerge_ok]

theorem State.serveRead_keeps {s0 : State} {ps : List Region} (s : State) (p : Fin 64) (a : Access) (g : Nat) (data :
    List Byte) (bad : Bool) (h_s : Keeps s0 s ps) (m_paths : Region.paths ∈ ps) (m_pcs : Region.pcs ∈ ps) (m_ring :
    Region.ring ∈ ps) (m_tags : Region.tags ∈ ps) (m_inj : Region.inj ∈ ps) : Keeps s0 (State.serveRead s p a g data
    bad) ps := by
  unfold State.serveRead
  grind [foldl_keeps', State.deliver_keeps, State.settleMerge_keeps]

theorem State.grantWrite_ok (s : State) (p : Fin 64) (e : PoolEntry) (h_s : s.Ok) : (State.grantWrite s p e).Ok := by
  unfold State.grantWrite
  grind [State.Ok, foldl_ok, State.modPc_ok, State.raise_ok, State.settleMerge_ok]

theorem State.grantWrite_keeps {s0 : State} {ps : List Region} (s : State) (p : Fin 64) (e : PoolEntry) (h_s : Keeps
    s0 s ps) (m_paths : Region.paths ∈ ps) (m_pcs : Region.pcs ∈ ps) (m_ring : Region.ring ∈ ps) (m_tags : Region.tags
    ∈ ps) (m_inj : Region.inj ∈ ps) : Keeps s0 (State.grantWrite s p e) ps := by
  unfold State.grantWrite
  grind [foldl_keeps', State.modPc_keeps, State.raise_keeps, State.settleMerge_keeps]

theorem State.modCopier_ok (s : State) (e : Nat) (f : CopyChan → CopyChan) (h_s : s.Ok) : (State.modCopier s e f).Ok
    := by
  unfold State.modCopier
  grind [State.Ok, foldl_ok]

theorem State.modCopier_keeps {s0 : State} {ps : List Region} (s : State) (e : Nat) (f : CopyChan → CopyChan) (h_s :
    Keeps s0 s ps) (m_copiers : Region.copiers ∈ ps) : Keeps s0 (State.modCopier s e f) ps := by
  unfold State.modCopier
  grind [foldl_keeps', Keeps.set_copiers]

theorem State.grant_ok (s : State) (p : Fin 64) (e : PoolEntry) (h_s : s.Ok) : (State.grant s p e).Ok := by
  unfold State.grant
  grind [State.Ok, foldl_ok, State.modPc_ok, State.stampAccess_ok, State.grantWrite_ok, State.grantRead_ok,
      State.modCopier_ok]

theorem State.grant_keeps {s0 : State} {ps : List Region} (s : State) (p : Fin 64) (e : PoolEntry) (h_s : Keeps s0 s
    ps) (m_paths : Region.paths ∈ ps) (m_pcs : Region.pcs ∈ ps) (m_copiers : Region.copiers ∈ ps) (m_ring :
    Region.ring ∈ ps) (m_tags : Region.tags ∈ ps) (m_inj : Region.inj ∈ ps) : Keeps s0 (State.grant s p e) ps := by
  unfold State.grant
  grind [foldl_keeps', State.modPc_keeps, State.stampAccess_keeps, State.grantWrite_keeps, State.grantRead_keeps,
      State.modCopier_keeps]

theorem State.forwardDue_ok (s : State) (p : Fin 64) (h_s : s.Ok) : (State.forwardDue s p).Ok := by
  unfold State.forwardDue
  grind [State.Ok, foldl_ok, State.modPc_ok, State.serveRead_ok]

theorem State.forwardDue_keeps {s0 : State} {ps : List Region} (s : State) (p : Fin 64) (h_s : Keeps s0 s ps) (m_paths
    : Region.paths ∈ ps) (m_pcs : Region.pcs ∈ ps) (m_ring : Region.ring ∈ ps) (m_tags : Region.tags ∈ ps) (m_inj :
    Region.inj ∈ ps) : Keeps s0 (State.forwardDue s p) ps := by
  unfold State.forwardDue
  grind [foldl_keeps', State.modPc_keeps, State.serveRead_keeps]

theorem State.countParity_ok (s : State) (rank : Nat) (failed : Bool) (h_s : s.Ok) : (State.countParity s rank
    failed).Ok := by
  unfold State.countParity
  grind [State.Ok, foldl_ok, State.modInbox_ok, State.cause_ok]

theorem State.countParity_keeps {s0 : State} {ps : List Region} (s : State) (rank : Nat) (failed : Bool) (h_s : Keeps
    s0 s ps) (m_inbox : Region.inbox ∈ ps) (m_age : Region.age ∈ ps) : Keeps s0 (State.countParity s rank failed) ps
    := by
  unfold State.countParity
  grind [foldl_keeps', State.modInbox_keeps, State.cause_keeps, Keeps.set_age]

theorem State.failRetry_ok (s : State) (p : Fin 64) (x : Replay) (h_s : s.Ok) : (State.failRetry s p x).Ok := by
  unfold State.failRetry
  grind [State.Ok, foldl_ok, State.fec_ok, State.modPc_ok, State.raise_ok, State.serveRead_ok]

theorem State.failRetry_keeps {s0 : State} {ps : List Region} (s : State) (p : Fin 64) (x : Replay) (h_s : Keeps s0 s
    ps) (m_paths : Region.paths ∈ ps) (m_pcs : Region.pcs ∈ ps) (m_ring : Region.ring ∈ ps) (m_tags : Region.tags ∈
    ps) (m_inj : Region.inj ∈ ps) : Keeps s0 (State.failRetry s p x) ps := by
  unfold State.failRetry
  grind [foldl_keeps', State.fec_keeps, State.modPc_keeps, State.raise_keeps, State.serveRead_keeps]

theorem State.caParity_ok (s : State) (p : Fin 64) (group : Nat) (h_s : s.Ok) : (State.caParity s p group).Ok := by
  unfold State.caParity
  grind [State.Ok, foldl_ok, State.countParity_ok, State.failRetry_ok, State.fec_ok, State.modPc_ok, State.raise_ok]

theorem State.caParity_keeps {s0 : State} {ps : List Region} (s : State) (p : Fin 64) (group : Nat) (h_s : Keeps s0 s
    ps) (m_paths : Region.paths ∈ ps) (m_pcs : Region.pcs ∈ ps) (m_inbox : Region.inbox ∈ ps) (m_ring : Region.ring ∈
    ps) (m_tags : Region.tags ∈ ps) (m_age : Region.age ∈ ps) (m_inj : Region.inj ∈ ps) : Keeps s0 (State.caParity s p
    group) ps := by
  unfold State.caParity
  grind [foldl_keeps', State.countParity_keeps, State.failRetry_keeps, State.fec_keeps, State.modPc_keeps,
    State.raise_keeps]

theorem State.redrive_ok (s : State) (d : Driven) (failed : Bool) (h_s : s.Ok) : (State.redrive s d failed).Ok := by
  unfold State.redrive
  grind [State.Ok, foldl_ok, State.kbAdd_ok, State.putBurst_ok]

theorem State.redrive_keeps {s0 : State} {ps : List Region} (s : State) (d : Driven) (failed : Bool) (h_s : Keeps s0 s
    ps) (m_pcs : Region.pcs ∈ ps) (m_stack : Region.stack ∈ ps) (m_inbox : Region.inbox ∈ ps) : Keeps s0
    (State.redrive s d failed) ps := by
  unfold State.redrive
  grind [foldl_keeps', State.kbAdd_keeps, State.putBurst_keeps]

theorem State.finishReplay_ok (s : State) (p : Fin 64) (h_s : s.Ok) : (State.finishReplay s p).Ok := by
  unfold State.finishReplay
  grind [State.Ok, foldl_ok, State.modPc_ok, State.redrive_ok]

theorem State.finishReplay_keeps {s0 : State} {ps : List Region} (s : State) (p : Fin 64) (h_s : Keeps s0 s ps) (m_pcs
    : Region.pcs ∈ ps) (m_stack : Region.stack ∈ ps) (m_inbox : Region.inbox ∈ ps) : Keeps s0 (State.finishReplay s p)
    ps := by
  unfold State.finishReplay
  grind [foldl_keeps', State.modPc_keeps, State.redrive_keeps]

theorem State.parityDraw_ok (s : State) (p : Fin 64) (group : Nat) (h_s : s.Ok) : (State.parityDraw s p group).2.Ok :=
    by
  unfold State.parityDraw
  grind [State.Ok, foldl_ok, State.bumpSat_ok, State.sf_ok]

theorem State.parityDraw_keeps {s0 : State} {ps : List Region} (s : State) (p : Fin 64) (group : Nat) (h_s : Keeps s0
    s ps) (m_inj : Region.inj ∈ ps) : Keeps s0 (State.parityDraw s p group).2 ps := by
  unfold State.parityDraw
  grind [foldl_keeps', State.bumpSat_keeps, State.sf_keeps, Keeps.set_inj]

theorem State.parityDraws_ok (s : State) (p : Fin 64) (groups : List Nat) (h_s : s.Ok) : (State.parityDraws s p
    groups).2.Ok := by
  exact foldl_keeps (P := fun a : Option Nat × State => a.2.Ok) (fun b g h => State.parityDraw_ok _ _ _ h) _ h_s

theorem State.parityDraws_keeps {s0 : State} {ps : List Region} (s : State) (p : Fin 64) (groups : List Nat) (h_s :
    Keeps s0 s ps) (m_inj : Region.inj ∈ ps) : Keeps s0 (State.parityDraws s p groups).2 ps := by
  refine foldl_keeps (P := fun a : Option Nat × State => Keeps s0 a.2 ps) (fun b g h => ?_) _ h_s
  exact State.parityDraw_keeps _ _ _ h (by assumption)

theorem State.injectParity_ok (s : State) (p : Fin 64) (groups : List Nat) (h_s : s.Ok) : (State.injectParity s p
    groups).Ok := by
  unfold State.injectParity
  grind [State.Ok, foldl_ok, State.caParity_ok, State.parityDraws_ok]

theorem State.injectParity_keeps {s0 : State} {ps : List Region} (s : State) (p : Fin 64) (groups : List Nat) (h_s :
    Keeps s0 s ps) (m_paths : Region.paths ∈ ps) (m_pcs : Region.pcs ∈ ps) (m_inbox : Region.inbox ∈ ps) (m_ring :
    Region.ring ∈ ps) (m_tags : Region.tags ∈ ps) (m_age : Region.age ∈ ps) (m_inj : Region.inj ∈ ps) : Keeps s0
    (State.injectParity s p groups) ps := by
  unfold State.injectParity
  grind [foldl_keeps', State.caParity_keeps, State.parityDraws_keeps]

end Sys2Proof.Machine
end

