-- ==== Sys2Proof/Laws/Pc.lean ====
section
/-! SUPPORT. Two lemmas for every operation of Machine/Pc.lean. `…_ok`: the register table and the stack's memory stay
canonical. `…_keeps`: what agrees with a state outside a list of regions that holds those the operation can change still
agrees afterwards. -/

namespace Sys2Proof.Machine

set_option Elab.async false

theorem State.wroteThrough_ok (s : State) (sl : Fin 16) (line : Nat) (h_s : s.Ok) : (State.wroteThrough s sl line).Ok
    := by
  unfold State.wroteThrough
  grind [State.Ok, foldl_ok, State.modSlice_ok, State.complete_ok]

theorem State.wroteThrough_keeps {s0 : State} {ps : List Region} (s : State) (sl : Fin 16) (line : Nat) (h_s : Keeps
    s0 s ps) (m_paths : Region.paths ∈ ps) (m_ring : Region.ring ∈ ps) (m_tags : Region.tags ∈ ps) (m_inj : Region.inj
    ∈ ps) : Keeps s0 (State.wroteThrough s sl line) ps := by
  unfold State.wroteThrough
  grind [foldl_keeps', State.modSlice_keeps, State.complete_keeps]

theorem State.wroteBack_ok (s : State) (line : Nat) (h_s : s.Ok) : (State.wroteBack s line).Ok := by
  unfold State.wroteBack
  grind [State.Ok, foldl_ok, State.wroteThrough_ok]

theorem State.wroteBack_keeps {s0 : State} {ps : List Region} (s : State) (line : Nat) (h_s : Keeps s0 s ps) (m_paths
    : Region.paths ∈ ps) (m_ring : Region.ring ∈ ps) (m_tags : Region.tags ∈ ps) (m_inj : Region.inj ∈ ps) : Keeps s0
    (State.wroteBack s line) ps := by
  unfold State.wroteBack
  grind [foldl_keeps', State.wroteThrough_keeps]

theorem State.poolPush_ok (s : State) (p : Fin 64) (a : Access) (h_s : s.Ok) : (State.poolPush s p a).Ok := by
  unfold State.poolPush
  grind [State.Ok, foldl_ok, State.modPc_ok, State.stampAccess_ok, State.wroteBack_ok, State.wroteThrough_ok]

theorem State.poolPush_keeps {s0 : State} {ps : List Region} (s : State) (p : Fin 64) (a : Access) (h_s : Keeps s0 s
    ps) (m_paths : Region.paths ∈ ps) (m_pcs : Region.pcs ∈ ps) (m_ring : Region.ring ∈ ps) (m_tags : Region.tags ∈
    ps) (m_inj : Region.inj ∈ ps) : Keeps s0 (State.poolPush s p a) ps := by
  unfold State.poolPush
  grind [foldl_keeps', State.modPc_keeps, State.stampAccess_keeps, State.wroteBack_keeps, State.wroteThrough_keeps]

theorem State.arrive_ok (s : State) (p : Fin 64) (a : Access) (h_s : s.Ok) : (State.arrive s p a).Ok := by
  unfold State.arrive
  grind [State.Ok, foldl_ok, State.poolPush_ok, State.modPaths_ok, State.setRedir_ok]

theorem State.arrive_keeps {s0 : State} {ps : List Region} (s : State) (p : Fin 64) (a : Access) (h_s : Keeps s0 s ps)
    (m_paths : Region.paths ∈ ps) (m_pcs : Region.pcs ∈ ps) (m_ring : Region.ring ∈ ps) (m_tags : Region.tags ∈ ps)
    (m_inj : Region.inj ∈ ps) : Keeps s0 (State.arrive s p a) ps := by
  unfold State.arrive
  grind [foldl_keeps', State.poolPush_keeps, State.modPaths_keeps, State.setRedir_keeps]

theorem intake_ok (p : Fin 64) (s : State) (h_s : s.Ok) : (intake p s).Ok := by
  unfold intake
  grind [State.Ok, foldl_ok, State.arrive_ok, State.modPaths_ok]

theorem intake_keeps {s0 : State} {ps : List Region} (p : Fin 64) (s : State) (h_s : Keeps s0 s ps) (m_paths :
    Region.paths ∈ ps) (m_pcs : Region.pcs ∈ ps) (m_ring : Region.ring ∈ ps) (m_tags : Region.tags ∈ ps) (m_inj :
    Region.inj ∈ ps) : Keeps s0 (intake p s) ps := by
  unfold intake
  grind [foldl_keeps', State.arrive_keeps, State.modPaths_keeps]

theorem execIntakeAccess_ok (p : Fin 64) (s : State) (h_s : s.Ok) : ∀ x, (execIntakeAccess p s) = .next x → x.Ok := by
  unfold execIntakeAccess
  grind [State.Ok, foldl_ok, State.onLive_ok, intake_ok]

theorem execIntakeAccess_keeps {s0 : State} {ps : List Region} (p : Fin 64) (s : State) (h_s : Keeps s0 s ps) (m_paths
    : Region.paths ∈ ps) (m_pcs : Region.pcs ∈ ps) (m_ring : Region.ring ∈ ps) (m_tags : Region.tags ∈ ps) (m_inj :
    Region.inj ∈ ps) : ∀ x, (execIntakeAccess p s) = .next x → Keeps s0 x ps := by
  unfold execIntakeAccess
  grind [foldl_keeps', State.onLive_keeps, intake_keeps]

theorem State.beginSlot_ok (s : State) (p : Fin 64) (h_s : s.Ok) : (State.beginSlot s p).Ok := by
  unfold State.beginSlot
  grind [State.Ok, foldl_ok, State.modPc_ok]

theorem State.beginSlot_keeps {s0 : State} {ps : List Region} (s : State) (p : Fin 64) (h_s : Keeps s0 s ps) (m_pcs :
    Region.pcs ∈ ps) : Keeps s0 (State.beginSlot s p) ps := by
  unfold State.beginSlot
  grind [foldl_keeps', State.modPc_keeps]

theorem State.grantDebug_ok (s : State) (p : Fin 64) (a : Access) (h_s : s.Ok) : (State.grantDebug s p a).Ok := by
  unfold State.grantDebug
  grind [State.Ok, foldl_ok, State.grant_ok, State.modPc_ok]

theorem State.grantDebug_keeps {s0 : State} {ps : List Region} (s : State) (p : Fin 64) (a : Access) (h_s : Keeps s0 s
    ps) (m_paths : Region.paths ∈ ps) (m_pcs : Region.pcs ∈ ps) (m_copiers : Region.copiers ∈ ps) (m_ring :
    Region.ring ∈ ps) (m_tags : Region.tags ∈ ps) (m_inj : Region.inj ∈ ps) : Keeps s0 (State.grantDebug s p a) ps :=
    by
  unfold State.grantDebug
  grind [foldl_keeps', State.grant_keeps, State.modPc_keeps]

theorem slotGrant_ok (p : Fin 64) (s : State) (h_s : s.Ok) : (slotGrant p s).Ok := by
  unfold slotGrant
  grind [State.Ok, foldl_ok, State.grantDebug_ok, State.modPc_ok, State.grant_ok]

theorem slotGrant_keeps {s0 : State} {ps : List Region} (p : Fin 64) (s : State) (h_s : Keeps s0 s ps) (m_paths :
    Region.paths ∈ ps) (m_pcs : Region.pcs ∈ ps) (m_copiers : Region.copiers ∈ ps) (m_ring : Region.ring ∈ ps) (m_tags
    : Region.tags ∈ ps) (m_inj : Region.inj ∈ ps) : Keeps s0 (slotGrant p s) ps := by
  unfold slotGrant
  grind [foldl_keeps', State.grantDebug_keeps, State.modPc_keeps, State.grant_keeps]

theorem execSlotGrant_ok (p : Fin 64) (s : State) (h_s : s.Ok) : ∀ x, (execSlotGrant p s) = .next x → x.Ok := by
  unfold execSlotGrant
  grind [State.Ok, foldl_ok, State.onLive_ok, slotGrant_ok]

theorem execSlotGrant_keeps {s0 : State} {ps : List Region} (p : Fin 64) (s : State) (h_s : Keeps s0 s ps) (m_paths :
    Region.paths ∈ ps) (m_pcs : Region.pcs ∈ ps) (m_copiers : Region.copiers ∈ ps) (m_ring : Region.ring ∈ ps) (m_tags
    : Region.tags ∈ ps) (m_inj : Region.inj ∈ ps) : ∀ x, (execSlotGrant p s) = .next x → Keeps s0 x ps := by
  unfold execSlotGrant
  grind [foldl_keeps', State.onLive_keeps, slotGrant_keeps]

theorem slotAdvance_ok (p : Fin 64) (s : State) (h_s : s.Ok) : (slotAdvance p s).Ok := by
  unfold slotAdvance
  grind [State.Ok, foldl_ok, State.beginSlot_ok, State.bump_ok, State.modPc_ok]

theorem slotAdvance_keeps {s0 : State} {ps : List Region} (p : Fin 64) (s : State) (h_s : Keeps s0 s ps) (m_pcs :
    Region.pcs ∈ ps) : Keeps s0 (slotAdvance p s) ps := by
  unfold slotAdvance
  grind [foldl_keeps', State.beginSlot_keeps, State.bump_keeps, State.modPc_keeps]

theorem execSlotAdvance_ok (p : Fin 64) (s : State) (h_s : s.Ok) : ∀ x, (execSlotAdvance p s) = .next x → x.Ok := by
  unfold execSlotAdvance
  grind [State.Ok, foldl_ok, State.onLive_ok, slotAdvance_ok]

theorem execSlotAdvance_keeps {s0 : State} {ps : List Region} (p : Fin 64) (s : State) (h_s : Keeps s0 s ps) (m_pcs :
    Region.pcs ∈ ps) : ∀ x, (execSlotAdvance p s) = .next x → Keeps s0 x ps := by
  unfold execSlotAdvance
  grind [foldl_keeps', State.onLive_keeps, slotAdvance_keeps]

theorem State.closeCycle_ok (s : State) (p : Fin 64) (c : Pc) (h_s : s.Ok) : (State.closeCycle s p c).Ok := by
  unfold State.closeCycle
  grind [State.Ok, foldl_ok, State.modPc_ok]

theorem State.closeCycle_keeps {s0 : State} {ps : List Region} (s : State) (p : Fin 64) (c : Pc) (h_s : Keeps s0 s ps)
    (m_pcs : Region.pcs ∈ ps) : Keeps s0 (State.closeCycle s p c) ps := by
  unfold State.closeCycle
  grind [foldl_keeps', State.modPc_keeps]

theorem replayCycle_ok (p : Fin 64) (x : Replay) (s : State) (h_s : s.Ok) : (replayCycle p x s).Ok := by
  unfold replayCycle
  grind [State.Ok, foldl_ok, State.closeCycle_ok, State.iff_ok, State.injectParity_ok, State.redrive_ok, State.tick_ok]

theorem replayCycle_keeps {s0 : State} {ps : List Region} (p : Fin 64) (x : Replay) (s : State) (h_s : Keeps s0 s ps)
    (m_free : Region.free ∈ ps) (m_paths : Region.paths ∈ ps) (m_pcs : Region.pcs ∈ ps) (m_stack : Region.stack ∈ ps)
    (m_inbox : Region.inbox ∈ ps) (m_ring : Region.ring ∈ ps) (m_tags : Region.tags ∈ ps) (m_age : Region.age ∈ ps)
    (m_inj : Region.inj ∈ ps) : Keeps s0 (replayCycle p x s) ps := by
  unfold replayCycle
  grind [foldl_keeps', State.closeCycle_keeps, State.iff_keeps, State.injectParity_keeps, State.redrive_keeps,
    State.tick_keeps]

theorem normalCycle_ok (p : Fin 64) (s : State) (h_s : s.Ok) : (normalCycle p s).Ok := by
  unfold normalCycle
  grind [State.Ok, foldl_ok, State.closeCycle_ok, State.iff_ok, State.injectParity_ok, State.stampAccess_ok,
    State.tick_ok]

theorem normalCycle_keeps {s0 : State} {ps : List Region} (p : Fin 64) (s : State) (h_s : Keeps s0 s ps) (m_free :
    Region.free ∈ ps) (m_paths : Region.paths ∈ ps) (m_pcs : Region.pcs ∈ ps) (m_inbox : Region.inbox ∈ ps) (m_ring :
    Region.ring ∈ ps) (m_tags : Region.tags ∈ ps) (m_age : Region.age ∈ ps) (m_inj : Region.inj ∈ ps) : Keeps s0
    (normalCycle p s) ps := by
  unfold normalCycle
  grind [foldl_keeps', State.closeCycle_keeps, State.iff_keeps, State.injectParity_keeps, State.stampAccess_keeps,
    State.tick_keeps]

theorem cycleCommands_ok (p : Fin 64) (s : State) (h_s : s.Ok) : (cycleCommands p s).Ok := by
  unfold cycleCommands
  grind [State.Ok, foldl_ok, State.closeCycle_ok, State.injectParity_ok, normalCycle_ok, replayCycle_ok]

theorem cycleCommands_keeps {s0 : State} {ps : List Region} (p : Fin 64) (s : State) (h_s : Keeps s0 s ps) (m_free :
    Region.free ∈ ps) (m_paths : Region.paths ∈ ps) (m_pcs : Region.pcs ∈ ps) (m_stack : Region.stack ∈ ps) (m_inbox :
    Region.inbox ∈ ps) (m_ring : Region.ring ∈ ps) (m_tags : Region.tags ∈ ps) (m_age : Region.age ∈ ps) (m_inj :
    Region.inj ∈ ps) : Keeps s0 (cycleCommands p s) ps := by
  unfold cycleCommands
  grind [foldl_keeps', State.closeCycle_keeps, State.injectParity_keeps, normalCycle_keeps, replayCycle_keeps]

theorem commandSelect_ok (p : Fin 64) (s : State) (h_s : s.Ok) : (commandSelect p s).Ok := by
  unfold commandSelect
  grind [State.Ok, foldl_ok, State.forwardDue_ok, cycleCommands_ok]

theorem commandSelect_keeps {s0 : State} {ps : List Region} (p : Fin 64) (s : State) (h_s : Keeps s0 s ps) (m_free :
    Region.free ∈ ps) (m_paths : Region.paths ∈ ps) (m_pcs : Region.pcs ∈ ps) (m_stack : Region.stack ∈ ps) (m_inbox :
    Region.inbox ∈ ps) (m_ring : Region.ring ∈ ps) (m_tags : Region.tags ∈ ps) (m_age : Region.age ∈ ps) (m_inj :
    Region.inj ∈ ps) : Keeps s0 (commandSelect p s) ps := by
  unfold commandSelect
  grind [foldl_keeps', State.forwardDue_keeps, cycleCommands_keeps]

theorem execCommandSelect_ok (p : Fin 64) (s : State) (h_s : s.Ok) : ∀ x, (execCommandSelect p s) = .next x → x.Ok :=
    by
  unfold execCommandSelect
  grind [State.Ok, foldl_ok, State.onLive_ok, commandSelect_ok]

theorem execCommandSelect_keeps {s0 : State} {ps : List Region} (p : Fin 64) (s : State) (h_s : Keeps s0 s ps) (m_free
    : Region.free ∈ ps) (m_paths : Region.paths ∈ ps) (m_pcs : Region.pcs ∈ ps) (m_stack : Region.stack ∈ ps) (m_inbox
    : Region.inbox ∈ ps) (m_ring : Region.ring ∈ ps) (m_tags : Region.tags ∈ ps) (m_age : Region.age ∈ ps) (m_inj :
    Region.inj ∈ ps) : ∀ x, (execCommandSelect p s) = .next x → Keeps s0 x ps := by
  unfold execCommandSelect
  grind [foldl_keeps', State.onLive_keeps, commandSelect_keeps]

theorem State.readPassed_ok (s : State) (p : Fin 64) (r : RqEntry) (err : List Byte) (h_s : s.Ok) : (State.readPassed
    s p r err).Ok := by
  unfold State.readPassed
  grind [State.Ok, foldl_ok, State.readEffects_ok, State.modPc_ok]

theorem State.readPassed_keeps {s0 : State} {ps : List Region} (s : State) (p : Fin 64) (r : RqEntry) (err : List
    Byte) (h_s : Keeps s0 s ps) (m_pcs : Region.pcs ∈ ps) (m_inbox : Region.inbox ∈ ps) : Keeps s0 (State.readPassed s
    p r err) ps := by
  unfold State.readPassed
  grind [foldl_keeps', State.readEffects_keeps, State.modPc_keeps]

theorem readDataReturn_ok (p : Fin 64) (err : List Byte) (s : State) (h_s : s.Ok) : (readDataReturn p err s).Ok := by
  unfold readDataReturn
  grind [State.Ok, foldl_ok, State.deliver_ok, State.readPassed_ok, State.stampAccess_ok]

theorem readDataReturn_keeps {s0 : State} {ps : List Region} (p : Fin 64) (err : List Byte) (s : State) (h_s : Keeps
    s0 s ps) (m_paths : Region.paths ∈ ps) (m_pcs : Region.pcs ∈ ps) (m_inbox : Region.inbox ∈ ps) (m_ring :
    Region.ring ∈ ps) (m_tags : Region.tags ∈ ps) (m_inj : Region.inj ∈ ps) : Keeps s0 (readDataReturn p err s) ps :=
    by
  unfold readDataReturn
  grind [foldl_keeps', State.deliver_keeps, State.readPassed_keeps, State.stampAccess_keeps]

theorem execReadDataReturn_ok (p : Fin 64) (err : List Byte) (s : State) (h_s : s.Ok) : ∀ x, (execReadDataReturn p err
    s) = .next x → x.Ok := by
  unfold execReadDataReturn
  grind [State.Ok, foldl_ok, State.onLive_ok, readDataReturn_ok]

theorem execReadDataReturn_keeps {s0 : State} {ps : List Region} (p : Fin 64) (err : List Byte) (s : State) (h_s :
    Keeps s0 s ps) (m_paths : Region.paths ∈ ps) (m_pcs : Region.pcs ∈ ps) (m_inbox : Region.inbox ∈ ps) (m_ring :
    Region.ring ∈ ps) (m_tags : Region.tags ∈ ps) (m_inj : Region.inj ∈ ps) : ∀ x, (execReadDataReturn p err s) =
    .next x → Keeps s0 x ps := by
  unfold execReadDataReturn
  grind [foldl_keeps', State.onLive_keeps, readDataReturn_keeps]

theorem mergeReadReturn_ok (p : Fin 64) (err : List Byte) (s : State) (h_s : s.Ok) : (mergeReadReturn p err s).Ok :=
    by
  unfold mergeReadReturn
  grind [State.Ok, foldl_ok, State.settleMerge_ok, State.readPassed_ok]

theorem mergeReadReturn_keeps {s0 : State} {ps : List Region} (p : Fin 64) (err : List Byte) (s : State) (h_s : Keeps
    s0 s ps) (m_paths : Region.paths ∈ ps) (m_pcs : Region.pcs ∈ ps) (m_inbox : Region.inbox ∈ ps) (m_ring :
    Region.ring ∈ ps) (m_tags : Region.tags ∈ ps) (m_inj : Region.inj ∈ ps) : Keeps s0 (mergeReadReturn p err s) ps :=
    by
  unfold mergeReadReturn
  grind [foldl_keeps', State.settleMerge_keeps, State.readPassed_keeps]

theorem execMergeReadReturn_ok (p : Fin 64) (err : List Byte) (s : State) (h_s : s.Ok) : ∀ x, (execMergeReadReturn p
    err s) = .next x → x.Ok := by
  unfold execMergeReadReturn
  grind [State.Ok, foldl_ok, State.onLive_ok, mergeReadReturn_ok]

theorem execMergeReadReturn_keeps {s0 : State} {ps : List Region} (p : Fin 64) (err : List Byte) (s : State) (h_s :
    Keeps s0 s ps) (m_paths : Region.paths ∈ ps) (m_pcs : Region.pcs ∈ ps) (m_inbox : Region.inbox ∈ ps) (m_ring :
    Region.ring ∈ ps) (m_tags : Region.tags ∈ ps) (m_inj : Region.inj ∈ ps) : ∀ x, (execMergeReadReturn p err s) =
    .next x → Keeps s0 x ps := by
  unfold execMergeReadReturn
  grind [foldl_keeps', State.onLive_keeps, mergeReadReturn_keeps]

theorem writeDataDriven_ok (p : Fin 64) (s : State) (h_s : s.Ok) : (writeDataDriven p s).Ok := by
  unfold writeDataDriven
  grind [State.Ok, foldl_ok, State.putBurst_ok, State.modPc_ok, State.stampAccess_ok, State.kbAdd_ok, State.kbFree_ok]

theorem writeDataDriven_keeps {s0 : State} {ps : List Region} (p : Fin 64) (s : State) (h_s : Keeps s0 s ps) (m_pcs :
    Region.pcs ∈ ps) (m_stack : Region.stack ∈ ps) (m_inbox : Region.inbox ∈ ps) (m_tags : Region.tags ∈ ps) : Keeps
    s0 (writeDataDriven p s) ps := by
  unfold writeDataDriven
  grind [foldl_keeps', State.putBurst_keeps, State.modPc_keeps, State.stampAccess_keeps, State.kbAdd_keeps,
      State.kbFree_keeps]

theorem execWriteDataDriven_ok (p : Fin 64) (s : State) (h_s : s.Ok) : ∀ x, (execWriteDataDriven p s) = .next x → x.Ok
    := by
  unfold execWriteDataDriven
  grind [State.Ok, foldl_ok, State.onLive_ok, writeDataDriven_ok]

theorem execWriteDataDriven_keeps {s0 : State} {ps : List Region} (p : Fin 64) (s : State) (h_s : Keeps s0 s ps)
    (m_pcs : Region.pcs ∈ ps) (m_stack : Region.stack ∈ ps) (m_inbox : Region.inbox ∈ ps) (m_tags : Region.tags ∈ ps)
    : ∀ x, (execWriteDataDriven p s) = .next x → Keeps s0 x ps := by
  unfold execWriteDataDriven
  grind [foldl_keeps', State.onLive_keeps, writeDataDriven_keeps]

theorem pannierRequest_ok (p : Fin 64) (s : State) (h_s : s.Ok) : (pannierRequest p s).Ok := by
  unfold pannierRequest
  grind [State.Ok, foldl_ok, State.modTag_ok, State.stamp_ok, State.modPaths_ok, State.modPc_ok]

theorem pannierRequest_keeps {s0 : State} {ps : List Region} (p : Fin 64) (s : State) (h_s : Keeps s0 s ps) (m_paths :
    Region.paths ∈ ps) (m_pcs : Region.pcs ∈ ps) (m_tags : Region.tags ∈ ps) : Keeps s0 (pannierRequest p s) ps := by
  unfold pannierRequest
  grind [foldl_keeps', State.modTag_keeps, State.stamp_keeps, State.modPaths_keeps, State.modPc_keeps]

theorem execPannierRequest_ok (p : Fin 64) (s : State) (h_s : s.Ok) : ∀ x, (execPannierRequest p s) = .next x → x.Ok
    := by
  unfold execPannierRequest
  grind [State.Ok, foldl_ok, State.onLive_ok, pannierRequest_ok]

theorem execPannierRequest_keeps {s0 : State} {ps : List Region} (p : Fin 64) (s : State) (h_s : Keeps s0 s ps)
    (m_paths : Region.paths ∈ ps) (m_pcs : Region.pcs ∈ ps) (m_tags : Region.tags ∈ ps) : ∀ x, (execPannierRequest p
    s) = .next x → Keeps s0 x ps := by
  unfold execPannierRequest
  grind [foldl_keeps', State.onLive_keeps, pannierRequest_keeps]

theorem pannierWindowClose_ok (p : Fin 64) (s : State) (h_s : s.Ok) : (pannierWindowClose p s).Ok := by
  unfold pannierWindowClose
  grind [State.Ok, foldl_ok, State.modPc_ok, State.arrive_ok, State.skipIds_ok]

theorem pannierWindowClose_keeps {s0 : State} {ps : List Region} (p : Fin 64) (s : State) (h_s : Keeps s0 s ps)
    (m_paths : Region.paths ∈ ps) (m_pcs : Region.pcs ∈ ps) (m_ring : Region.ring ∈ ps) (m_tags : Region.tags ∈ ps)
    (m_inj : Region.inj ∈ ps) : Keeps s0 (pannierWindowClose p s) ps := by
  unfold pannierWindowClose
  grind [foldl_keeps', State.modPc_keeps, State.arrive_keeps, State.skipIds_keeps]

theorem execPannierWindowClose_ok (p : Fin 64) (s : State) (h_s : s.Ok) : ∀ x, (execPannierWindowClose p s) = .next x
    → x.Ok := by
  unfold execPannierWindowClose
  grind [State.Ok, foldl_ok, State.onLive_ok, pannierWindowClose_ok]

theorem execPannierWindowClose_keeps {s0 : State} {ps : List Region} (p : Fin 64) (s : State) (h_s : Keeps s0 s ps)
    (m_paths : Region.paths ∈ ps) (m_pcs : Region.pcs ∈ ps) (m_ring : Region.ring ∈ ps) (m_tags : Region.tags ∈ ps)
    (m_inj : Region.inj ∈ ps) : ∀ x, (execPannierWindowClose p s) = .next x → Keeps s0 x ps := by
  unfold execPannierWindowClose
  grind [foldl_keeps', State.onLive_keeps, pannierWindowClose_keeps]

theorem pannierEntryFree_ok (p : Fin 64) (s : State) (h_s : s.Ok) : (pannierEntryFree p s).Ok := by
  unfold pannierEntryFree
  grind [State.Ok, foldl_ok, State.modPc_ok]

theorem pannierEntryFree_keeps {s0 : State} {ps : List Region} (p : Fin 64) (s : State) (h_s : Keeps s0 s ps) (m_pcs :
    Region.pcs ∈ ps) : Keeps s0 (pannierEntryFree p s) ps := by
  unfold pannierEntryFree
  grind [foldl_keeps', State.modPc_keeps]

theorem execPannierEntryFree_ok (p : Fin 64) (s : State) (h_s : s.Ok) : ∀ x, (execPannierEntryFree p s) = .next x →
    x.Ok := by
  unfold execPannierEntryFree
  grind [State.Ok, foldl_ok, State.onLive_ok, pannierEntryFree_ok]

theorem execPannierEntryFree_keeps {s0 : State} {ps : List Region} (p : Fin 64) (s : State) (h_s : Keeps s0 s ps)
    (m_pcs : Region.pcs ∈ ps) : ∀ x, (execPannierEntryFree p s) = .next x → Keeps s0 x ps := by
  unfold execPannierEntryFree
  grind [foldl_keeps', State.onLive_keeps, pannierEntryFree_keeps]

theorem timingWrite_ok (p : Fin 64) (r : TimReg) (v : Word) (s : State) (h_s : s.Ok) : (timingWrite p r v s).Ok := by
  unfold timingWrite
  grind [State.Ok, foldl_ok, State.raise_ok, State.wr_ok, State.raiseIf_ok]

theorem timingWrite_keeps {s0 : State} {ps : List Region} (p : Fin 64) (r : TimReg) (v : Word) (s : State) (h_s :
    Keeps s0 s ps) : Keeps s0 (timingWrite p r v s) ps := by
  unfold timingWrite
  grind [foldl_keeps', State.raise_keeps, State.wr_keeps, State.raiseIf_keeps]

theorem execTimingRegisterWrite_ok (p : Fin 64) (r : TimReg) (v : Word) (s : State) (h_s : s.Ok) : ∀ x,
    (execTimingRegisterWrite p r v s) = .next x → x.Ok := by
  unfold execTimingRegisterWrite
  grind [State.Ok, foldl_ok, State.mgtWrite_ok, timingWrite_ok]

theorem execTimingRegisterWrite_keeps {s0 : State} {ps : List Region} (p : Fin 64) (r : TimReg) (v : Word) (s : State)
    (h_s : Keeps s0 s ps) (m_mgt : Region.mgt ∈ ps) : ∀ x, (execTimingRegisterWrite p r v s) = .next x → Keeps s0 x ps
    := by
  unfold execTimingRegisterWrite
  grind [foldl_keeps', State.mgtWrite_keeps, timingWrite_keeps]

theorem drainWrite_ok (p : Fin 64) (v : Word) (s : State) (h_s : s.Ok) : (drainWrite p v s).Ok := by
  unfold drainWrite
  grind [State.Ok, foldl_ok, State.raiseIf_ok, State.wr_ok]

theorem drainWrite_keeps {s0 : State} {ps : List Region} (p : Fin 64) (v : Word) (s : State) (h_s : Keeps s0 s ps) :
    Keeps s0 (drainWrite p v s) ps := by
  unfold drainWrite
  grind [foldl_keeps', State.raiseIf_keeps, State.wr_keeps]

theorem execPcDrainWrite_ok (p : Fin 64) (v : Word) (s : State) (h_s : s.Ok) : ∀ x, (execPcDrainWrite p v s) = .next x
    → x.Ok := by
  unfold execPcDrainWrite
  grind [State.Ok, foldl_ok, State.mgtWrite_ok, drainWrite_ok]

theorem execPcDrainWrite_keeps {s0 : State} {ps : List Region} (p : Fin 64) (v : Word) (s : State) (h_s : Keeps s0 s
    ps) (m_mgt : Region.mgt ∈ ps) : ∀ x, (execPcDrainWrite p v s) = .next x → Keeps s0 x ps := by
  unfold execPcDrainWrite
  grind [foldl_keeps', State.mgtWrite_keeps, drainWrite_keeps]

theorem slotCtrlWrite_ok (p : Fin 64) (v : Word) (s : State) (h_s : s.Ok) : (slotCtrlWrite p v s).Ok := by
  unfold slotCtrlWrite
  grind [State.Ok, foldl_ok, State.sf_ok, State.raise_ok, State.raiseIf_ok]

theorem slotCtrlWrite_keeps {s0 : State} {ps : List Region} (p : Fin 64) (v : Word) (s : State) (h_s : Keeps s0 s ps)
    : Keeps s0 (slotCtrlWrite p v s) ps := by
  unfold slotCtrlWrite
  grind [foldl_keeps', State.sf_keeps, State.raise_keeps, State.raiseIf_keeps]

theorem execSlotArm_ok (p : Fin 64) (v : Word) (s : State) (h_s : s.Ok) : ∀ x, (execSlotArm p v s) = .next x → x.Ok :=
    by
  unfold execSlotArm
  grind [State.Ok, foldl_ok, State.mgtWrite_ok, slotCtrlWrite_ok]

theorem execSlotArm_keeps {s0 : State} {ps : List Region} (p : Fin 64) (v : Word) (s : State) (h_s : Keeps s0 s ps)
    (m_mgt : Region.mgt ∈ ps) : ∀ x, (execSlotArm p v s) = .next x → Keeps s0 x ps := by
  unfold execSlotArm
  grind [foldl_keeps', State.mgtWrite_keeps, slotCtrlWrite_keeps]

theorem execSlotDisarm_ok (p : Fin 64) (v : Word) (s : State) (h_s : s.Ok) : ∀ x, (execSlotDisarm p v s) = .next x →
    x.Ok := by
  unfold execSlotDisarm
  grind [State.Ok, foldl_ok, State.mgtWrite_ok, slotCtrlWrite_ok]

theorem execSlotDisarm_keeps {s0 : State} {ps : List Region} (p : Fin 64) (v : Word) (s : State) (h_s : Keeps s0 s ps)
    (m_mgt : Region.mgt ∈ ps) : ∀ x, (execSlotDisarm p v s) = .next x → Keeps s0 x ps := by
  unfold execSlotDisarm
  grind [foldl_keeps', State.mgtWrite_keeps, slotCtrlWrite_keeps]

theorem execStarveNWrite_ok (p : Fin 64) (v : Word) (s : State) (h_s : s.Ok) : ∀ x, (execStarveNWrite p v s) = .next x
    → x.Ok := by
  unfold execStarveNWrite
  grind [State.Ok, foldl_ok, State.mgtWrite_ok, slotCtrlWrite_ok]

theorem execStarveNWrite_keeps {s0 : State} {ps : List Region} (p : Fin 64) (v : Word) (s : State) (h_s : Keeps s0 s
    ps) (m_mgt : Region.mgt ∈ ps) : ∀ x, (execStarveNWrite p v s) = .next x → Keeps s0 x ps := by
  unfold execStarveNWrite
  grind [foldl_keeps', State.mgtWrite_keeps, slotCtrlWrite_keeps]

theorem swapWord_ok (p : Fin 64) (s : State) (w : Nat) (h_s : s.Ok) : (swapWord p s w).Ok := by
  unfold swapWord
  grind [State.Ok, foldl_ok, State.wr_ok]

theorem swapWord_keeps {s0 : State} {ps : List Region} (p : Fin 64) (s : State) (w : Nat) (h_s : Keeps s0 s ps) :
    Keeps s0 (swapWord p s w) ps := by
  unfold swapWord
  grind [foldl_keeps', State.wr_keeps]

theorem slotShift_ok (p : Fin 64) (s : State) (h_s : s.Ok) : (slotShift p s).Ok := by
  unfold slotShift
  grind [State.Ok, foldl_ok, State.beginSlot_ok, State.bump_ok, State.modPc_ok, State.sf_ok, swapWord_ok]

theorem slotShift_keeps {s0 : State} {ps : List Region} (p : Fin 64) (s : State) (h_s : Keeps s0 s ps) (m_pcs :
    Region.pcs ∈ ps) : Keeps s0 (slotShift p s) ps := by
  unfold slotShift
  grind [foldl_keeps', State.beginSlot_keeps, State.bump_keeps, State.modPc_keeps, State.sf_keeps, swapWord_keeps]

theorem execSlotShift_ok (p : Fin 64) (s : State) (h_s : s.Ok) : ∀ x, (execSlotShift p s) = .next x → x.Ok := by
  unfold execSlotShift
  grind [State.Ok, foldl_ok, State.onLive_ok, slotShift_ok]

theorem execSlotShift_keeps {s0 : State} {ps : List Region} (p : Fin 64) (s : State) (h_s : Keeps s0 s ps) (m_pcs :
    Region.pcs ∈ ps) : ∀ x, (execSlotShift p s) = .next x → Keeps s0 x ps := by
  unfold execSlotShift
  grind [foldl_keeps', State.onLive_keeps, slotShift_keeps]

theorem execSlotClassPrioWrite_ok (v : Word) (s : State) (h_s : s.Ok) : ∀ x, (execSlotClassPrioWrite v s) = .next x →
    x.Ok := by
  unfold execSlotClassPrioWrite
  grind [State.Ok, foldl_ok, State.mgtWrite_ok, State.wr_ok]

theorem execSlotClassPrioWrite_keeps {s0 : State} {ps : List Region} (v : Word) (s : State) (h_s : Keeps s0 s ps)
    (m_mgt : Region.mgt ∈ ps) : ∀ x, (execSlotClassPrioWrite v s) = .next x → Keeps s0 x ps := by
  unfold execSlotClassPrioWrite
  grind [foldl_keeps', State.mgtWrite_keeps, State.wr_keeps]

theorem debugAccess_ok (l : Loc) (write : Bool) (data : List Byte) (s : State) (h_s : s.Ok) : (debugAccess l write
    data s).Ok := by
  unfold debugAccess
  grind [State.Ok, foldl_ok, State.modPc_ok, State.skipIds_ok]

theorem debugAccess_keeps {s0 : State} {ps : List Region} (l : Loc) (write : Bool) (data : List Byte) (s : State) (h_s
    : Keeps s0 s ps) (m_paths : Region.paths ∈ ps) (m_pcs : Region.pcs ∈ ps) : Keeps s0 (debugAccess l write data s)
    ps := by
  unfold debugAccess
  grind [foldl_keeps', State.modPc_keeps, State.skipIds_keeps]

theorem execDebugMemoryAccess_ok (rank : BitVec 8) (bg : BitVec 2) (bank : BitVec 2) (row : BitVec 15) (col : BitVec
    4) (write : Bool) (data : List Byte) (s : State) (h_s : s.Ok) : ∀ x, (execDebugMemoryAccess rank bg bank row col
    write data s) = .next x → x.Ok := by
  unfold execDebugMemoryAccess
  grind [State.Ok, foldl_ok, State.onLive_ok, debugAccess_ok]

theorem execDebugMemoryAccess_keeps {s0 : State} {ps : List Region} (rank : BitVec 8) (bg : BitVec 2) (bank : BitVec
    2) (row : BitVec 15) (col : BitVec 4) (write : Bool) (data : List Byte) (s : State) (h_s : Keeps s0 s ps) (m_paths
    : Region.paths ∈ ps) (m_pcs : Region.pcs ∈ ps) : ∀ x, (execDebugMemoryAccess rank bg bank row col write data s) =
    .next x → Keeps s0 x ps := by
  unfold execDebugMemoryAccess
  grind [foldl_keeps', State.onLive_keeps, debugAccess_keeps]

theorem State.submitRun_ok (s : State) (p : Fin 64) (cls : Nat) (owner : Owner) (write : Bool) (l : Loc) (len : Nat)
    (data : List (Bool × List Byte)) (h_s : s.Ok) : (State.submitRun s p cls owner write l len data).Ok := by
  unfold State.submitRun
  grind [State.Ok, foldl_ok, State.modPc_ok, State.sendAccess_ok]

theorem State.submitRun_keeps {s0 : State} {ps : List Region} (s : State) (p : Fin 64) (cls : Nat) (owner : Owner)
    (write : Bool) (l : Loc) (len : Nat) (data : List (Bool × List Byte)) (h_s : Keeps s0 s ps) (m_paths :
    Region.paths ∈ ps) (m_pcs : Region.pcs ∈ ps) : Keeps s0 (State.submitRun s p cls owner write l len data) ps := by
  unfold State.submitRun
  grind [foldl_keeps', State.modPc_keeps, State.sendAccess_keeps]

theorem runSubmit_ok (p : Fin 64) (copier : Option (Fin 16)) (write : Bool) (l : Loc) (len : Nat) (data : List (Bool ×
    List Byte)) (s : State) (h_s : s.Ok) : (runSubmit p copier write l len data s).Ok := by
  unfold runSubmit
  grind [State.Ok, foldl_ok, State.submitRun_ok]

theorem runSubmit_keeps {s0 : State} {ps : List Region} (p : Fin 64) (copier : Option (Fin 16)) (write : Bool) (l :
    Loc) (len : Nat) (data : List (Bool × List Byte)) (s : State) (h_s : Keeps s0 s ps) (m_paths : Region.paths ∈ ps)
    (m_pcs : Region.pcs ∈ ps) : Keeps s0 (runSubmit p copier write l len data s) ps := by
  unfold runSubmit
  grind [foldl_keeps', State.submitRun_keeps]

theorem execRunSubmit_ok (p : Fin 64) (copier : Option (Fin 16)) (write : Bool) (group : Fin 4) (bg : Fin 4) (bank :
    Fin 4) (row : BitVec 15) (col : BitVec 4) (len : BitVec 5) (data : List (List Byte)) (s : State) (h_s : s.Ok) : ∀
    x, (execRunSubmit p copier write group bg bank row col len data s) = .next x → x.Ok := by
  unfold execRunSubmit
  grind [State.Ok, foldl_ok, State.onLive_ok, runSubmit_ok]

theorem execRunSubmit_keeps {s0 : State} {ps : List Region} (p : Fin 64) (copier : Option (Fin 16)) (write : Bool)
    (group : Fin 4) (bg : Fin 4) (bank : Fin 4) (row : BitVec 15) (col : BitVec 4) (len : BitVec 5) (data : List (List
    Byte)) (s : State) (h_s : Keeps s0 s ps) (m_paths : Region.paths ∈ ps) (m_pcs : Region.pcs ∈ ps) : ∀ x,
    (execRunSubmit p copier write group bg bank row col len data s) = .next x → Keeps s0 x ps := by
  unfold execRunSubmit
  grind [foldl_keeps', State.onLive_keeps, runSubmit_keeps]

theorem runResume_ok (p : Fin 64) (cls7 : Bool) (s : State) (h_s : s.Ok) : (runResume p cls7 s).Ok := by
  unfold runResume
  grind [State.Ok, foldl_ok, State.modPc_ok]

theorem runResume_keeps {s0 : State} {ps : List Region} (p : Fin 64) (cls7 : Bool) (s : State) (h_s : Keeps s0 s ps)
    (m_pcs : Region.pcs ∈ ps) : Keeps s0 (runResume p cls7 s) ps := by
  unfold runResume
  grind [foldl_keeps', State.modPc_keeps]

theorem execRunResume_ok (p : Fin 64) (cls7 : Bool) (s : State) (h_s : s.Ok) : ∀ x, (execRunResume p cls7 s) = .next x
    → x.Ok := by
  unfold execRunResume
  grind [State.Ok, foldl_ok, State.onLive_ok, runResume_ok]

theorem execRunResume_keeps {s0 : State} {ps : List Region} (p : Fin 64) (cls7 : Bool) (s : State) (h_s : Keeps s0 s
    ps) (m_pcs : Region.pcs ∈ ps) : ∀ x, (execRunResume p cls7 s) = .next x → Keeps s0 x ps := by
  unfold execRunResume
  grind [foldl_keeps', State.onLive_keeps, runResume_keeps]

end Sys2Proof.Machine
end

