-- ==== Sys2Proof/Laws/CacheOps.lean ====
section
/-! SUPPORT. Two lemmas for every operation of Machine/CacheOps.lean. `…_ok`: the register table and the stack's memory stay
canonical. `…_keeps`: what agrees with a state outside a list of regions that holds those the operation can change still
agrees afterwards. -/

namespace Sys2Proof.Machine

set_option Elab.async false

theorem State.sendSector_ok (s : State) (base : Nat) (i : Nat) (cls : Nat) (data : List Byte) (mask : List Bool)
    (poison : Bool) (o : Owner) (h_s : s.Ok) : (State.sendSector s base i cls data mask poison o).Ok := by
  unfold State.sendSector
  grind [State.Ok, foldl_ok, State.sendAccess_ok]

theorem State.sendSector_keeps {s0 : State} {ps : List Region} (s : State) (base : Nat) (i : Nat) (cls : Nat) (data :
    List Byte) (mask : List Bool) (poison : Bool) (o : Owner) (h_s : Keeps s0 s ps) (m_paths : Region.paths ∈ ps) :
    Keeps s0 (State.sendSector s base i cls data mask poison o) ps := by
  unfold State.sendSector
  grind [foldl_keeps', State.sendAccess_keeps]

theorem State.askSector_ok (s : State) (base : Nat) (i : Nat) (cls : Nat) (o : Owner) (h_s : s.Ok) : (State.askSector
    s base i cls o).Ok := by
  unfold State.askSector
  grind [State.Ok, foldl_ok, State.sendAccess_ok]

theorem State.askSector_keeps {s0 : State} {ps : List Region} (s : State) (base : Nat) (i : Nat) (cls : Nat) (o :
    Owner) (h_s : Keeps s0 s ps) (m_paths : Region.paths ∈ ps) : Keeps s0 (State.askSector s base i cls o) ps := by
  unfold State.askSector
  grind [foldl_keeps', State.sendAccess_keeps]

theorem State.writeBackLine_ok (s : State) (l : Line) (o : Owner) (h_s : s.Ok) : (State.writeBackLine s l o).Ok := by
  unfold State.writeBackLine
  grind [State.Ok, foldl_ok, State.sendSector_ok]

theorem State.writeBackLine_keeps {s0 : State} {ps : List Region} (s : State) (l : Line) (o : Owner) (h_s : Keeps s0 s
    ps) (m_paths : Region.paths ∈ ps) : Keeps s0 (State.writeBackLine s l o) ps := by
  unfold State.writeBackLine
  grind [foldl_keeps', State.sendSector_keeps]

theorem State.ifFits_ok (s : State) (sl : Fin 16) (t : State) (h_s : s.Ok) (h_t : t.Ok) : (State.ifFits s sl t).Ok :=
    by
  unfold State.ifFits
  grind [State.Ok, foldl_ok]

theorem State.ifFits_keeps {s0 : State} {ps : List Region} (s : State) (sl : Fin 16) (t : State) (h_s : Keeps s0 s ps)
    (h_t : Keeps s0 t ps) : Keeps s0 (State.ifFits s sl t) ps := by
  unfold State.ifFits
  grind [foldl_keeps']

theorem State.dropWay_ok (s : State) (sl : Fin 16) (key : Nat) (discard : Bool) (h_s : s.Ok) : (State.dropWay s sl key
    discard).Ok := by
  unfold State.dropWay
  grind [State.Ok, foldl_ok, State.modSlice_ok, State.writeBackLine_ok]

theorem State.dropWay_keeps {s0 : State} {ps : List Region} (s : State) (sl : Fin 16) (key : Nat) (discard : Bool)
    (h_s : Keeps s0 s ps) (m_paths : Region.paths ∈ ps) : Keeps s0 (State.dropWay s sl key discard) ps := by
  unfold State.dropWay
  grind [foldl_keeps', State.modSlice_keeps, State.writeBackLine_keeps]

theorem State.touchRet_ok (s : State) (sl : Fin 16) (key : Nat) (r : Req) (fresh : Bool) (h_s : s.Ok) :
    (State.touchRet s sl key r fresh).Ok := by
  unfold State.touchRet
  grind [State.Ok, foldl_ok, State.modSlice_ok]

theorem State.touchRet_keeps {s0 : State} {ps : List Region} (s : State) (sl : Fin 16) (key : Nat) (r : Req) (fresh :
    Bool) (h_s : Keeps s0 s ps) (m_paths : Region.paths ∈ ps) : Keeps s0 (State.touchRet s sl key r fresh) ps := by
  unfold State.touchRet
  grind [foldl_keeps', State.modSlice_keeps]

theorem State.dropIfLast_ok (s : State) (sl : Fin 16) (key : Nat) (r : Req) (h_s : s.Ok) : (State.dropIfLast s sl key
    r).Ok := by
  unfold State.dropIfLast
  grind [State.Ok, foldl_ok, State.dropWay_ok]

theorem State.dropIfLast_keeps {s0 : State} {ps : List Region} (s : State) (sl : Fin 16) (key : Nat) (r : Req) (h_s :
    Keeps s0 s ps) (m_paths : Region.paths ∈ ps) : Keeps s0 (State.dropIfLast s sl key r) ps := by
  unfold State.dropIfLast
  grind [foldl_keeps', State.dropWay_keeps]

theorem State.lineRead_ok (s : State) (sl : Fin 16) (key : Nat) (r : Req) (fresh : Bool) (h_s : s.Ok) :
    (State.lineRead s sl key r fresh).Ok := by
  unfold State.lineRead
  grind [State.Ok, foldl_ok, State.dropIfLast_ok, State.touchRet_ok, State.complete_ok]

theorem State.lineRead_keeps {s0 : State} {ps : List Region} (s : State) (sl : Fin 16) (key : Nat) (r : Req) (fresh :
    Bool) (h_s : Keeps s0 s ps) (m_paths : Region.paths ∈ ps) (m_ring : Region.ring ∈ ps) (m_tags : Region.tags ∈ ps)
    (m_inj : Region.inj ∈ ps) : Keeps s0 (State.lineRead s sl key r fresh) ps := by
  unfold State.lineRead
  grind [foldl_keeps', State.dropIfLast_keeps, State.touchRet_keeps, State.complete_keeps]

theorem State.lineWrite_ok (s : State) (sl : Fin 16) (key : Nat) (r : Req) (fresh : Bool) (h_s : s.Ok) :
    (State.lineWrite s sl key r fresh).Ok := by
  unfold State.lineWrite
  grind [State.Ok, foldl_ok, State.complete_ok, State.touchRet_ok, State.modSlice_ok, State.writeBackLine_ok,
      State.dropIfLast_ok]

theorem State.lineWrite_keeps {s0 : State} {ps : List Region} (s : State) (sl : Fin 16) (key : Nat) (r : Req) (fresh :
    Bool) (h_s : Keeps s0 s ps) (m_paths : Region.paths ∈ ps) (m_ring : Region.ring ∈ ps) (m_tags : Region.tags ∈ ps)
    (m_inj : Region.inj ∈ ps) : Keeps s0 (State.lineWrite s sl key r fresh) ps := by
  unfold State.lineWrite
  grind [foldl_keeps', State.complete_keeps, State.touchRet_keeps, State.modSlice_keeps, State.writeBackLine_keeps,
      State.dropIfLast_keeps]

theorem State.lineAtomic_ok (s : State) (sl : Fin 16) (key : Nat) (fn : AtomFunc) (r : Req) (fresh : Bool) (h_s :
    s.Ok) : (State.lineAtomic s sl key fn r fresh).Ok := by
  unfold State.lineAtomic
  grind [State.Ok, foldl_ok, State.complete_ok, State.dropIfLast_ok, State.touchRet_ok, State.modSlice_ok]

theorem State.lineAtomic_keeps {s0 : State} {ps : List Region} (s : State) (sl : Fin 16) (key : Nat) (fn : AtomFunc)
    (r : Req) (fresh : Bool) (h_s : Keeps s0 s ps) (m_paths : Region.paths ∈ ps) (m_ring : Region.ring ∈ ps) (m_tags :
    Region.tags ∈ ps) (m_inj : Region.inj ∈ ps) : Keeps s0 (State.lineAtomic s sl key fn r fresh) ps := by
  unfold State.lineAtomic
  grind [foldl_keeps', State.complete_keeps, State.dropIfLast_keeps, State.touchRet_keeps, State.modSlice_keeps]

theorem State.lineCas_ok (s : State) (sl : Fin 16) (key : Nat) (r : Req) (fresh : Bool) (h_s : s.Ok) : (State.lineCas
    s sl key r fresh).Ok := by
  unfold State.lineCas
  grind [State.Ok, foldl_ok, State.complete_ok, State.dropIfLast_ok, State.touchRet_ok, State.modSlice_ok]

theorem State.lineCas_keeps {s0 : State} {ps : List Region} (s : State) (sl : Fin 16) (key : Nat) (r : Req) (fresh :
    Bool) (h_s : Keeps s0 s ps) (m_paths : Region.paths ∈ ps) (m_ring : Region.ring ∈ ps) (m_tags : Region.tags ∈ ps)
    (m_inj : Region.inj ∈ ps) : Keeps s0 (State.lineCas s sl key r fresh) ps := by
  unfold State.lineCas
  grind [foldl_keeps', State.complete_keeps, State.dropIfLast_keeps, State.touchRet_keeps, State.modSlice_keeps]

theorem State.notice_ok (s : State) (base : Nat) (h_s : s.Ok) : (State.notice s base).Ok := by
  unfold State.notice
  grind [State.Ok, foldl_ok, State.modInbox_ok]

theorem State.notice_keeps {s0 : State} {ps : List Region} (s : State) (base : Nat) (h_s : Keeps s0 s ps) (m_inbox :
    Region.inbox ∈ ps) : Keeps s0 (State.notice s base) ps := by
  unfold State.notice
  grind [foldl_keeps', State.modInbox_keeps]

theorem State.lineContribute_ok (s : State) (sl : Fin 16) (key : Nat) (r : Req) (fresh : Bool) (h_s : s.Ok) :
    (State.lineContribute s sl key r fresh).Ok := by
  unfold State.lineContribute
  grind [State.Ok, foldl_ok, State.complete_ok, State.modSlice_ok, State.dropIfLast_ok, State.touchRet_ok,
      State.notice_ok]

theorem State.lineContribute_keeps {s0 : State} {ps : List Region} (s : State) (sl : Fin 16) (key : Nat) (r : Req)
    (fresh : Bool) (h_s : Keeps s0 s ps) (m_paths : Region.paths ∈ ps) (m_inbox : Region.inbox ∈ ps) (m_ring :
    Region.ring ∈ ps) (m_tags : Region.tags ∈ ps) (m_inj : Region.inj ∈ ps) : Keeps s0 (State.lineContribute s sl key
    r fresh) ps := by
  unfold State.lineContribute
  grind [foldl_keeps', State.complete_keeps, State.modSlice_keeps, State.dropIfLast_keeps, State.touchRet_keeps,
      State.notice_keeps]

theorem State.lineArm_ok (s : State) (sl : Fin 16) (key : Nat) (r : Req) (fresh : Bool) (h_s : s.Ok) : (State.lineArm
    s sl key r fresh).Ok := by
  unfold State.lineArm
  grind [State.Ok, foldl_ok, State.complete_ok, State.modSlice_ok, State.touchRet_ok, State.dropIfLast_ok,
      State.notice_ok]

theorem State.lineArm_keeps {s0 : State} {ps : List Region} (s : State) (sl : Fin 16) (key : Nat) (r : Req) (fresh :
    Bool) (h_s : Keeps s0 s ps) (m_paths : Region.paths ∈ ps) (m_inbox : Region.inbox ∈ ps) (m_ring : Region.ring ∈
    ps) (m_tags : Region.tags ∈ ps) (m_inj : Region.inj ∈ ps) : Keeps s0 (State.lineArm s sl key r fresh) ps := by
  unfold State.lineArm
  grind [foldl_keeps', State.complete_keeps, State.modSlice_keeps, State.touchRet_keeps, State.dropIfLast_keeps,
      State.notice_keeps]

theorem State.hintOnly_ok (s : State) (sl : Fin 16) (r : Req) (h_s : s.Ok) : (State.hintOnly s sl r).Ok := by
  unfold State.hintOnly
  grind [State.Ok, foldl_ok, State.dropIfLast_ok, State.touchRet_ok]

theorem State.hintOnly_keeps {s0 : State} {ps : List Region} (s : State) (sl : Fin 16) (r : Req) (h_s : Keeps s0 s ps)
    (m_paths : Region.paths ∈ ps) : Keeps s0 (State.hintOnly s sl r) ps := by
  unfold State.hintOnly
  grind [foldl_keeps', State.dropIfLast_keeps, State.touchRet_keeps]

theorem State.lineQuery_ok (s : State) (sl : Fin 16) (r : Req) (h_s : s.Ok) : (State.lineQuery s sl r).Ok := by
  unfold State.lineQuery
  grind [State.Ok, foldl_ok, State.complete_ok, State.hintOnly_ok]

theorem State.lineQuery_keeps {s0 : State} {ps : List Region} (s : State) (sl : Fin 16) (r : Req) (h_s : Keeps s0 s
    ps) (m_paths : Region.paths ∈ ps) (m_ring : Region.ring ∈ ps) (m_tags : Region.tags ∈ ps) (m_inj : Region.inj ∈
    ps) : Keeps s0 (State.lineQuery s sl r) ps := by
  unfold State.lineQuery
  grind [foldl_keeps', State.complete_keeps, State.hintOnly_keeps]

theorem State.lineRelease_ok (s : State) (sl : Fin 16) (r : Req) (h_s : s.Ok) : (State.lineRelease s sl r).Ok := by
  unfold State.lineRelease
  grind [State.Ok, foldl_ok, State.complete_ok, State.dropWay_ok, State.hintOnly_ok, State.modSlice_ok]

theorem State.lineRelease_keeps {s0 : State} {ps : List Region} (s : State) (sl : Fin 16) (r : Req) (h_s : Keeps s0 s
    ps) (m_paths : Region.paths ∈ ps) (m_ring : Region.ring ∈ ps) (m_tags : Region.tags ∈ ps) (m_inj : Region.inj ∈
    ps) : Keeps s0 (State.lineRelease s sl r) ps := by
  unfold State.lineRelease
  grind [foldl_keeps', State.complete_keeps, State.dropWay_keeps, State.hintOnly_keeps, State.modSlice_keeps]

theorem State.lineOp_ok (s : State) (sl : Fin 16) (key : Nat) (r : Req) (fresh : Bool) (h_s : s.Ok) : (State.lineOp s
    sl key r fresh).Ok := by
  unfold State.lineOp
  grind [State.Ok, foldl_ok, State.lineRead_ok, State.lineWrite_ok, State.lineCas_ok, State.lineAtomic_ok,
      State.complete_ok, State.lineArm_ok, State.lineContribute_ok]

theorem State.lineOp_keeps {s0 : State} {ps : List Region} (s : State) (sl : Fin 16) (key : Nat) (r : Req) (fresh :
    Bool) (h_s : Keeps s0 s ps) (m_paths : Region.paths ∈ ps) (m_inbox : Region.inbox ∈ ps) (m_ring : Region.ring ∈
    ps) (m_tags : Region.tags ∈ ps) (m_inj : Region.inj ∈ ps) : Keeps s0 (State.lineOp s sl key r fresh) ps := by
  unfold State.lineOp
  grind [foldl_keeps', State.lineRead_keeps, State.lineWrite_keeps, State.lineCas_keeps, State.lineAtomic_keeps,
      State.complete_keeps, State.lineArm_keeps, State.lineContribute_keeps]

theorem State.addMiss_ok (s : State) (sl : Fin 16) (m : Miss) (h_s : s.Ok) : (State.addMiss s sl m).Ok := by
  unfold State.addMiss
  grind [State.Ok, foldl_ok, State.modSlice_ok]

theorem State.addMiss_keeps {s0 : State} {ps : List Region} (s : State) (sl : Fin 16) (m : Miss) (h_s : Keeps s0 s ps)
    (m_paths : Region.paths ∈ ps) : Keeps s0 (State.addMiss s sl m) ps := by
  unfold State.addMiss
  grind [foldl_keeps', State.modSlice_keeps]

theorem State.park_ok (s : State) (sl : Fin 16) (r : Req) (h_s : s.Ok) : (State.park s sl r).Ok := by
  unfold State.park
  grind [State.Ok, foldl_ok, State.addMiss_ok]

theorem State.park_keeps {s0 : State} {ps : List Region} (s : State) (sl : Fin 16) (r : Req) (h_s : Keeps s0 s ps)
    (m_paths : Region.paths ∈ ps) : Keeps s0 (State.park s sl r) ps := by
  unfold State.park
  grind [foldl_keeps', State.addMiss_keeps]

theorem State.toPannier_ok (s : State) (sl : Fin 16) (r : Req) (h_s : s.Ok) : (State.toPannier s sl r).Ok := by
  unfold State.toPannier
  grind [State.Ok, foldl_ok, State.modPaths_ok]

theorem State.toPannier_keeps {s0 : State} {ps : List Region} (s : State) (sl : Fin 16) (r : Req) (h_s : Keeps s0 s
    ps) (m_paths : Region.paths ∈ ps) : Keeps s0 (State.toPannier s sl r) ps := by
  unfold State.toPannier
  grind [foldl_keeps', State.modPaths_keeps]

theorem State.readThrough_ok (s : State) (sl : Fin 16) (r : Req) (missing : List Nat) (h_s : s.Ok) :
    (State.readThrough s sl r missing).Ok := by
  unfold State.readThrough
  grind [State.Ok, foldl_ok, State.askSector_ok, State.addMiss_ok]

theorem State.readThrough_keeps {s0 : State} {ps : List Region} (s : State) (sl : Fin 16) (r : Req) (missing : List
    Nat) (h_s : Keeps s0 s ps) (m_paths : Region.paths ∈ ps) : Keeps s0 (State.readThrough s sl r missing) ps := by
  unfold State.readThrough
  grind [foldl_keeps', State.askSector_keeps, State.addMiss_keeps]

theorem State.writeThrough_ok (s : State) (sl : Fin 16) (r : Req) (h_s : s.Ok) : (State.writeThrough s sl r).Ok := by
  unfold State.writeThrough
  grind [State.Ok, foldl_ok, State.addMiss_ok, State.sendSector_ok, State.modSlice_ok]

theorem State.writeThrough_keeps {s0 : State} {ps : List Region} (s : State) (sl : Fin 16) (r : Req) (h_s : Keeps s0 s
    ps) (m_paths : Region.paths ∈ ps) : Keeps s0 (State.writeThrough s sl r) ps := by
  unfold State.writeThrough
  grind [foldl_keeps', State.addMiss_keeps, State.sendSector_keeps, State.modSlice_keeps]

theorem State.allocate_ok (s : State) (sl : Fin 16) (r : Req) (h_s : s.Ok) : ∀ a b, (State.allocate s sl r) = some (a,
    b) → b.Ok := by
  unfold State.allocate
  grind [State.Ok, foldl_ok, State.modSlice_ok, State.writeBackLine_ok]

theorem State.allocate_keeps {s0 : State} {ps : List Region} (s : State) (sl : Fin 16) (r : Req) (h_s : Keeps s0 s ps)
    (m_paths : Region.paths ∈ ps) : ∀ a b, (State.allocate s sl r) = some (a, b) → Keeps s0 b ps := by
  unfold State.allocate
  grind [foldl_keeps', State.modSlice_keeps, State.writeBackLine_keeps]

theorem State.fillThenOp_ok (s : State) (sl : Fin 16) (key : Nat) (r : Req) (missing : List Nat) (fresh : Bool) (h_s :
    s.Ok) : (State.fillThenOp s sl key r missing fresh).Ok := by
  unfold State.fillThenOp
  grind [State.Ok, foldl_ok, State.lineOp_ok, State.askSector_ok, State.addMiss_ok]

theorem State.fillThenOp_keeps {s0 : State} {ps : List Region} (s : State) (sl : Fin 16) (key : Nat) (r : Req)
    (missing : List Nat) (fresh : Bool) (h_s : Keeps s0 s ps) (m_paths : Region.paths ∈ ps) (m_inbox : Region.inbox ∈
    ps) (m_ring : Region.ring ∈ ps) (m_tags : Region.tags ∈ ps) (m_inj : Region.inj ∈ ps) : Keeps s0 (State.fillThenOp
    s sl key r missing fresh) ps := by
  unfold State.fillThenOp
  grind [foldl_keeps', State.lineOp_keeps, State.askSector_keeps, State.addMiss_keeps]

theorem State.cleanWay_ok (s : State) (sl : Fin 16) (key : Nat) (drop : Bool) (discard : Bool) (h_s : s.Ok) :
    (State.cleanWay s sl key drop discard).Ok := by
  unfold State.cleanWay
  grind [State.Ok, foldl_ok, State.dropWay_ok, State.modSlice_ok, State.writeBackLine_ok]

theorem State.cleanWay_keeps {s0 : State} {ps : List Region} (s : State) (sl : Fin 16) (key : Nat) (drop : Bool)
    (discard : Bool) (h_s : Keeps s0 s ps) (m_paths : Region.paths ∈ ps) : Keeps s0 (State.cleanWay s sl key drop
    discard) ps := by
  unfold State.cleanWay
  grind [foldl_keeps', State.dropWay_keeps, State.modSlice_keeps, State.writeBackLine_keeps]

theorem State.lineClean_ok (s : State) (sl : Fin 16) (r : Req) (h_s : s.Ok) : (State.lineClean s sl r).Ok := by
  unfold State.lineClean
  grind [State.Ok, foldl_ok, State.addMiss_ok, State.cleanWay_ok, State.complete_ok, State.writeThrough_ok]

theorem State.lineClean_keeps {s0 : State} {ps : List Region} (s : State) (sl : Fin 16) (r : Req) (h_s : Keeps s0 s
    ps) (m_paths : Region.paths ∈ ps) (m_ring : Region.ring ∈ ps) (m_tags : Region.tags ∈ ps) (m_inj : Region.inj ∈
    ps) : Keeps s0 (State.lineClean s sl r) ps := by
  unfold State.lineClean
  grind [foldl_keeps', State.addMiss_keeps, State.cleanWay_keeps, State.complete_keeps, State.writeThrough_keeps]

theorem State.serve_ok (s : State) (sl : Fin 16) (r : Req) (h_s : s.Ok) : (State.serve s sl r).Ok := by
  unfold State.serve
  dsimp only
  repeat' first
      | with_reducible assumption
      | with_reducible apply ite_ok
      | with_reducible apply State.lineClean_ok
      | with_reducible apply State.complete_ok
      | with_reducible apply State.lineQuery_ok
      | with_reducible apply State.lineRelease_ok
      | with_reducible apply State.toPannier_ok
      | with_reducible apply State.addMiss_ok
      | with_reducible apply State.readThrough_ok
      | with_reducible apply State.writeThrough_ok
      | with_reducible apply State.park_ok
      | with_reducible apply State.fillThenOp_ok
      | with_reducible apply State.lineOp_ok
      | split
  all_goals grind [State.allocate_ok]

theorem State.serve_keeps {s0 : State} {ps : List Region} (s : State) (sl : Fin 16) (r : Req) (h_s : Keeps s0 s ps)
    (m_paths : Region.paths ∈ ps) (m_inbox : Region.inbox ∈ ps) (m_ring : Region.ring ∈ ps) (m_tags : Region.tags ∈
    ps) (m_inj : Region.inj ∈ ps) : Keeps s0 (State.serve s sl r) ps := by
  unfold State.serve
  dsimp only
  repeat' first
      | with_reducible assumption
      | with_reducible apply ite_keeps
      | with_reducible apply State.lineClean_keeps
      | with_reducible apply State.complete_keeps
      | with_reducible apply State.lineQuery_keeps
      | with_reducible apply State.lineRelease_keeps
      | with_reducible apply State.toPannier_keeps
      | with_reducible apply State.addMiss_keeps
      | with_reducible apply State.readThrough_keeps
      | with_reducible apply State.writeThrough_keeps
      | with_reducible apply State.park_keeps
      | with_reducible apply State.fillThenOp_keeps
      | with_reducible apply State.lineOp_keeps
      | split
  all_goals grind [State.allocate_keeps]

theorem State.meetMiss_ok (s : State) (sl : Fin 16) (m : Miss) (r : Req) (h_s : s.Ok) : (State.meetMiss s sl m r).Ok
    := by
  unfold State.meetMiss
  grind [State.Ok, foldl_ok, State.toPannier_ok, State.modSlice_ok]

theorem State.meetMiss_keeps {s0 : State} {ps : List Region} (s : State) (sl : Fin 16) (m : Miss) (r : Req) (h_s :
    Keeps s0 s ps) (m_paths : Region.paths ∈ ps) : Keeps s0 (State.meetMiss s sl m r) ps := by
  unfold State.meetMiss
  grind [foldl_keeps', State.toPannier_keeps, State.modSlice_keeps]

theorem State.dispatchReq_ok (s : State) (sl : Fin 16) (r : Req) (h_s : s.Ok) : (State.dispatchReq s sl r).Ok := by
  unfold State.dispatchReq
  grind [State.Ok, foldl_ok, State.meetMiss_ok, State.serve_ok]

theorem State.dispatchReq_keeps {s0 : State} {ps : List Region} (s : State) (sl : Fin 16) (r : Req) (h_s : Keeps s0 s
    ps) (m_paths : Region.paths ∈ ps) (m_inbox : Region.inbox ∈ ps) (m_ring : Region.ring ∈ ps) (m_tags : Region.tags
    ∈ ps) (m_inj : Region.inj ∈ ps) : Keeps s0 (State.dispatchReq s sl r) ps := by
  unfold State.dispatchReq
  grind [foldl_keeps', State.meetMiss_keeps, State.serve_keeps]

theorem State.tagPath_ok (s : State) (sl : Fin 16) (r : Req) (h_s : s.Ok) : (State.tagPath s sl r).Ok := by
  unfold State.tagPath
  grind [State.Ok, foldl_ok, State.modTag_ok]

theorem State.tagPath_keeps {s0 : State} {ps : List Region} (s : State) (sl : Fin 16) (r : Req) (h_s : Keeps s0 s ps)
    (m_tags : Region.tags ∈ ps) : Keeps s0 (State.tagPath s sl r) ps := by
  unfold State.tagPath
  grind [foldl_keeps', State.modTag_keeps]

theorem State.takeHead_ok (s : State) (sl : Fin 16) (p : Req → Bool) (h_s : s.Ok) : (State.takeHead s sl p).Ok := by
  unfold State.takeHead
  grind [State.Ok, foldl_ok, State.dispatchReq_ok, State.ifFits_ok, State.modSlice_ok, State.modTag_ok, State.stamp_ok,
    State.tagPath_ok]

theorem State.takeHead_keeps {s0 : State} {ps : List Region} (s : State) (sl : Fin 16) (p : Req → Bool) (h_s : Keeps
    s0 s ps) (m_paths : Region.paths ∈ ps) (m_inbox : Region.inbox ∈ ps) (m_ring : Region.ring ∈ ps) (m_tags :
    Region.tags ∈ ps) (m_inj : Region.inj ∈ ps) : Keeps s0 (State.takeHead s sl p) ps := by
  unfold State.takeHead
  dsimp only
  repeat' first
      | with_reducible assumption
      | with_reducible apply ite_keeps
      | with_reducible refine foldl_keeps' (fun _ _ _ => ?_) _ ?_
      | with_reducible apply State.dispatchReq_keeps
      | with_reducible apply State.ifFits_keeps
      | with_reducible apply State.modSlice_keeps
      | with_reducible apply State.modTag_keeps
      | with_reducible apply State.stamp_keeps
      | with_reducible apply State.tagPath_keeps
      | split

end Sys2Proof.Machine
end

