-- ==== Sys2Proof/Laws/Cache.lean ====
section
/-! SUPPORT. Two lemmas for every operation of Machine/Cache.lean. `…_ok`: the register table and the stack's memory stay
canonical. `…_keeps`: what agrees with a state outside a list of regions that holds those the operation can change still
agrees afterwards. -/

namespace Sys2Proof.Machine

set_option Elab.async false

theorem State.onSlice_ok (s : State) (sl : Fin 16) (t : State) (h_s : s.Ok) (h_t : t.Ok) : (State.onSlice s sl t).Ok
    := by
  unfold State.onSlice
  grind [State.Ok, foldl_ok]

theorem State.onSlice_keeps {s0 : State} {ps : List Region} (s : State) (sl : Fin 16) (t : State) (h_s : Keeps s0 s
    ps) (h_t : Keeps s0 t ps) : Keeps s0 (State.onSlice s sl t) ps := by
  unfold State.onSlice
  grind [foldl_keeps']

theorem execHostRead_ok (sl : Fin 16) (s : State) (h_s : s.Ok) : ∀ x, (execHostRead sl s) = .next x → x.Ok := by
  unfold execHostRead
  grind [State.Ok, foldl_ok, State.onSlice_ok, State.takeHead_ok]

theorem execHostRead_keeps {s0 : State} {ps : List Region} (sl : Fin 16) (s : State) (h_s : Keeps s0 s ps) (m_paths :
    Region.paths ∈ ps) (m_inbox : Region.inbox ∈ ps) (m_ring : Region.ring ∈ ps) (m_tags : Region.tags ∈ ps) (m_inj :
    Region.inj ∈ ps) : ∀ x, (execHostRead sl s) = .next x → Keeps s0 x ps := by
  unfold execHostRead
  grind [foldl_keeps', State.onSlice_keeps, State.takeHead_keeps]

theorem execHostWrite_ok (sl : Fin 16) (s : State) (h_s : s.Ok) : ∀ x, (execHostWrite sl s) = .next x → x.Ok := by
  unfold execHostWrite
  grind [State.Ok, foldl_ok, State.onSlice_ok, State.takeHead_ok]

theorem execHostWrite_keeps {s0 : State} {ps : List Region} (sl : Fin 16) (s : State) (h_s : Keeps s0 s ps) (m_paths :
    Region.paths ∈ ps) (m_inbox : Region.inbox ∈ ps) (m_ring : Region.ring ∈ ps) (m_tags : Region.tags ∈ ps) (m_inj :
    Region.inj ∈ ps) : ∀ x, (execHostWrite sl s) = .next x → Keeps s0 x ps := by
  unfold execHostWrite
  grind [foldl_keeps', State.onSlice_keeps, State.takeHead_keeps]

theorem execClean_ok (sl : Fin 16) (s : State) (h_s : s.Ok) : ∀ x, (execClean sl s) = .next x → x.Ok := by
  unfold execClean
  grind [State.Ok, foldl_ok, State.onSlice_ok, State.takeHead_ok]

theorem execClean_keeps {s0 : State} {ps : List Region} (sl : Fin 16) (s : State) (h_s : Keeps s0 s ps) (m_paths :
    Region.paths ∈ ps) (m_inbox : Region.inbox ∈ ps) (m_ring : Region.ring ∈ ps) (m_tags : Region.tags ∈ ps) (m_inj :
    Region.inj ∈ ps) : ∀ x, (execClean sl s) = .next x → Keeps s0 x ps := by
  unfold execClean
  grind [foldl_keeps', State.onSlice_keeps, State.takeHead_keeps]

theorem execAtomicAdd_ok (sl : Fin 16) (s : State) (h_s : s.Ok) : ∀ x, (execAtomicAdd sl s) = .next x → x.Ok := by
  unfold execAtomicAdd
  grind [State.Ok, foldl_ok, State.onSlice_ok, State.takeHead_ok]

theorem execAtomicAdd_keeps {s0 : State} {ps : List Region} (sl : Fin 16) (s : State) (h_s : Keeps s0 s ps) (m_paths :
    Region.paths ∈ ps) (m_inbox : Region.inbox ∈ ps) (m_ring : Region.ring ∈ ps) (m_tags : Region.tags ∈ ps) (m_inj :
    Region.inj ∈ ps) : ∀ x, (execAtomicAdd sl s) = .next x → Keeps s0 x ps := by
  unfold execAtomicAdd
  grind [foldl_keeps', State.onSlice_keeps, State.takeHead_keeps]

theorem execAtomicMin_ok (sl : Fin 16) (s : State) (h_s : s.Ok) : ∀ x, (execAtomicMin sl s) = .next x → x.Ok := by
  unfold execAtomicMin
  grind [State.Ok, foldl_ok, State.onSlice_ok, State.takeHead_ok]

theorem execAtomicMin_keeps {s0 : State} {ps : List Region} (sl : Fin 16) (s : State) (h_s : Keeps s0 s ps) (m_paths :
    Region.paths ∈ ps) (m_inbox : Region.inbox ∈ ps) (m_ring : Region.ring ∈ ps) (m_tags : Region.tags ∈ ps) (m_inj :
    Region.inj ∈ ps) : ∀ x, (execAtomicMin sl s) = .next x → Keeps s0 x ps := by
  unfold execAtomicMin
  grind [foldl_keeps', State.onSlice_keeps, State.takeHead_keeps]

theorem execAtomicMax_ok (sl : Fin 16) (s : State) (h_s : s.Ok) : ∀ x, (execAtomicMax sl s) = .next x → x.Ok := by
  unfold execAtomicMax
  grind [State.Ok, foldl_ok, State.onSlice_ok, State.takeHead_ok]

theorem execAtomicMax_keeps {s0 : State} {ps : List Region} (sl : Fin 16) (s : State) (h_s : Keeps s0 s ps) (m_paths :
    Region.paths ∈ ps) (m_inbox : Region.inbox ∈ ps) (m_ring : Region.ring ∈ ps) (m_tags : Region.tags ∈ ps) (m_inj :
    Region.inj ∈ ps) : ∀ x, (execAtomicMax sl s) = .next x → Keeps s0 x ps := by
  unfold execAtomicMax
  grind [foldl_keeps', State.onSlice_keeps, State.takeHead_keeps]

theorem execAtomicSwap_ok (sl : Fin 16) (s : State) (h_s : s.Ok) : ∀ x, (execAtomicSwap sl s) = .next x → x.Ok := by
  unfold execAtomicSwap
  grind [State.Ok, foldl_ok, State.onSlice_ok, State.takeHead_ok]

theorem execAtomicSwap_keeps {s0 : State} {ps : List Region} (sl : Fin 16) (s : State) (h_s : Keeps s0 s ps) (m_paths
    : Region.paths ∈ ps) (m_inbox : Region.inbox ∈ ps) (m_ring : Region.ring ∈ ps) (m_tags : Region.tags ∈ ps) (m_inj
    : Region.inj ∈ ps) : ∀ x, (execAtomicSwap sl s) = .next x → Keeps s0 x ps := by
  unfold execAtomicSwap
  grind [foldl_keeps', State.onSlice_keeps, State.takeHead_keeps]

theorem execAtomicCas_ok (sl : Fin 16) (s : State) (h_s : s.Ok) : ∀ x, (execAtomicCas sl s) = .next x → x.Ok := by
  unfold execAtomicCas
  grind [State.Ok, foldl_ok, State.onSlice_ok, State.takeHead_ok]

theorem execAtomicCas_keeps {s0 : State} {ps : List Region} (sl : Fin 16) (s : State) (h_s : Keeps s0 s ps) (m_paths :
    Region.paths ∈ ps) (m_inbox : Region.inbox ∈ ps) (m_ring : Region.ring ∈ ps) (m_tags : Region.tags ∈ ps) (m_inj :
    Region.inj ∈ ps) : ∀ x, (execAtomicCas sl s) = .next x → Keeps s0 x ps := by
  unfold execAtomicCas
  grind [foldl_keeps', State.onSlice_keeps, State.takeHead_keeps]

theorem execReduceContribution_ok (sl : Fin 16) (s : State) (h_s : s.Ok) : ∀ x, (execReduceContribution sl s) = .next
    x → x.Ok := by
  unfold execReduceContribution
  grind [State.Ok, foldl_ok, State.onSlice_ok, State.takeHead_ok]

theorem execReduceContribution_keeps {s0 : State} {ps : List Region} (sl : Fin 16) (s : State) (h_s : Keeps s0 s ps)
    (m_paths : Region.paths ∈ ps) (m_inbox : Region.inbox ∈ ps) (m_ring : Region.ring ∈ ps) (m_tags : Region.tags ∈
    ps) (m_inj : Region.inj ∈ ps) : ∀ x, (execReduceContribution sl s) = .next x → Keeps s0 x ps := by
  unfold execReduceContribution
  grind [foldl_keeps', State.onSlice_keeps, State.takeHead_keeps]

theorem execReduceArm_ok (sl : Fin 16) (s : State) (h_s : s.Ok) : ∀ x, (execReduceArm sl s) = .next x → x.Ok := by
  unfold execReduceArm
  grind [State.Ok, foldl_ok, State.onSlice_ok, State.takeHead_ok]

theorem execReduceArm_keeps {s0 : State} {ps : List Region} (sl : Fin 16) (s : State) (h_s : Keeps s0 s ps) (m_paths :
    Region.paths ∈ ps) (m_inbox : Region.inbox ∈ ps) (m_ring : Region.ring ∈ ps) (m_tags : Region.tags ∈ ps) (m_inj :
    Region.inj ∈ ps) : ∀ x, (execReduceArm sl s) = .next x → Keeps s0 x ps := by
  unfold execReduceArm
  grind [foldl_keeps', State.onSlice_keeps, State.takeHead_keeps]

theorem execReduceQuery_ok (sl : Fin 16) (s : State) (h_s : s.Ok) : ∀ x, (execReduceQuery sl s) = .next x → x.Ok := by
  unfold execReduceQuery
  grind [State.Ok, foldl_ok, State.onSlice_ok, State.takeHead_ok]

theorem execReduceQuery_keeps {s0 : State} {ps : List Region} (sl : Fin 16) (s : State) (h_s : Keeps s0 s ps) (m_paths
    : Region.paths ∈ ps) (m_inbox : Region.inbox ∈ ps) (m_ring : Region.ring ∈ ps) (m_tags : Region.tags ∈ ps) (m_inj
    : Region.inj ∈ ps) : ∀ x, (execReduceQuery sl s) = .next x → Keeps s0 x ps := by
  unfold execReduceQuery
  grind [foldl_keeps', State.onSlice_keeps, State.takeHead_keeps]

theorem execReduceRelease_ok (sl : Fin 16) (s : State) (h_s : s.Ok) : ∀ x, (execReduceRelease sl s) = .next x → x.Ok
    := by
  unfold execReduceRelease
  grind [State.Ok, foldl_ok, State.onSlice_ok, State.takeHead_ok]

theorem execReduceRelease_keeps {s0 : State} {ps : List Region} (sl : Fin 16) (s : State) (h_s : Keeps s0 s ps)
    (m_paths : Region.paths ∈ ps) (m_inbox : Region.inbox ∈ ps) (m_ring : Region.ring ∈ ps) (m_tags : Region.tags ∈
    ps) (m_inj : Region.inj ∈ ps) : ∀ x, (execReduceRelease sl s) = .next x → Keeps s0 x ps := by
  unfold execReduceRelease
  grind [foldl_keeps', State.onSlice_keeps, State.takeHead_keeps]

theorem State.takeInput_ok (s : State) (sl : Fin 16) (h_s : s.Ok) : (State.takeInput s sl).Ok := by
  unfold State.takeInput
  grind [State.Ok, foldl_ok, State.modSlice_ok, State.modPaths_ok, State.stamp_ok]

theorem State.takeInput_keeps {s0 : State} {ps : List Region} (s : State) (sl : Fin 16) (h_s : Keeps s0 s ps) (m_paths
    : Region.paths ∈ ps) (m_tags : Region.tags ∈ ps) : Keeps s0 (State.takeInput s sl) ps := by
  unfold State.takeInput
  grind [foldl_keeps', State.modSlice_keeps, State.modPaths_keeps, State.stamp_keeps]

theorem execSliceInput_ok (sl : Fin 16) (s : State) (h_s : s.Ok) : ∀ x, (execSliceInput sl s) = .next x → x.Ok := by
  unfold execSliceInput
  grind [State.Ok, foldl_ok, State.onSlice_ok, State.takeInput_ok]

theorem execSliceInput_keeps {s0 : State} {ps : List Region} (sl : Fin 16) (s : State) (h_s : Keeps s0 s ps) (m_paths
    : Region.paths ∈ ps) (m_tags : Region.tags ∈ ps) : ∀ x, (execSliceInput sl s) = .next x → Keeps s0 x ps := by
  unfold execSliceInput
  grind [foldl_keeps', State.onSlice_keeps, State.takeInput_keeps]

theorem State.reattach_ok (s : State) (sl : Fin 16) (ln : Nat) (rest : List Req) (h_s : s.Ok) : (State.reattach s sl
    ln rest).Ok := by
  unfold State.reattach
  grind [State.Ok, foldl_ok, State.modSlice_ok, State.addMiss_ok]

theorem State.reattach_keeps {s0 : State} {ps : List Region} (s : State) (sl : Fin 16) (ln : Nat) (rest : List Req)
    (h_s : Keeps s0 s ps) (m_paths : Region.paths ∈ ps) : Keeps s0 (State.reattach s sl ln rest) ps := by
  unfold State.reattach
  grind [foldl_keeps', State.modSlice_keeps, State.addMiss_keeps]

theorem State.dropReleased_ok (s : State) (sl : Fin 16) (m : Miss) (h_s : s.Ok) : (State.dropReleased s sl m).Ok := by
  unfold State.dropReleased
  grind [State.Ok, foldl_ok, State.dropWay_ok]

theorem State.dropReleased_keeps {s0 : State} {ps : List Region} (s : State) (sl : Fin 16) (m : Miss) (h_s : Keeps s0
    s ps) (m_paths : Region.paths ∈ ps) : Keeps s0 (State.dropReleased s sl m) ps := by
  unfold State.dropReleased
  grind [foldl_keeps', State.dropWay_keeps]

theorem missRelease_ok (sl : Fin 16) (s : State) (h_s : s.Ok) : (missRelease sl s).Ok := by
  unfold missRelease
  grind [State.Ok, foldl_ok, State.dropReleased_ok, State.ifFits_ok, State.modSlice_ok, State.reattach_ok,
    State.serve_ok, State.tagPath_ok]

theorem missRelease_keeps {s0 : State} {ps : List Region} (sl : Fin 16) (s : State) (h_s : Keeps s0 s ps) (m_paths :
    Region.paths ∈ ps) (m_inbox : Region.inbox ∈ ps) (m_ring : Region.ring ∈ ps) (m_tags : Region.tags ∈ ps) (m_inj :
    Region.inj ∈ ps) : Keeps s0 (missRelease sl s) ps := by
  unfold missRelease
  dsimp only
  repeat' first
      | with_reducible assumption
      | with_reducible apply ite_keeps
      | with_reducible refine foldl_keeps' (fun _ _ _ => ?_) _ ?_
      | with_reducible apply State.dropReleased_keeps
      | with_reducible apply State.ifFits_keeps
      | with_reducible apply State.modSlice_keeps
      | with_reducible apply State.reattach_keeps
      | with_reducible apply State.serve_keeps
      | with_reducible apply State.tagPath_keeps
      | split

theorem execMissEntryRelease_ok (sl : Fin 16) (s : State) (h_s : s.Ok) : ∀ x, (execMissEntryRelease sl s) = .next x →
    x.Ok := by
  unfold execMissEntryRelease
  grind [State.Ok, foldl_ok, State.onSlice_ok, missRelease_ok]

theorem execMissEntryRelease_keeps {s0 : State} {ps : List Region} (sl : Fin 16) (s : State) (h_s : Keeps s0 s ps)
    (m_paths : Region.paths ∈ ps) (m_inbox : Region.inbox ∈ ps) (m_ring : Region.ring ∈ ps) (m_tags : Region.tags ∈
    ps) (m_inj : Region.inj ∈ ps) : ∀ x, (execMissEntryRelease sl s) = .next x → Keeps s0 x ps := by
  unfold execMissEntryRelease
  grind [foldl_keeps', State.onSlice_keeps, missRelease_keeps]

theorem State.unlock_ok (s : State) (sl : Fin 16) (ln : Nat) (h_s : s.Ok) : (State.unlock s sl ln).Ok := by
  unfold State.unlock
  grind [State.Ok, foldl_ok, State.modSlice_ok]

theorem State.unlock_keeps {s0 : State} {ps : List Region} (s : State) (sl : Fin 16) (ln : Nat) (h_s : Keeps s0 s ps)
    (m_paths : Region.paths ∈ ps) : Keeps s0 (State.unlock s sl ln) ps := by
  unfold State.unlock
  grind [foldl_keeps', State.modSlice_keeps]

theorem State.fillSector_ok (s : State) (sl : Fin 16) (m : Miss) (i : Nat) (d : Ret64) (h_s : s.Ok) :
    (State.fillSector s sl m i d).Ok := by
  unfold State.fillSector
  grind [State.Ok, foldl_ok, State.unlock_ok, State.modSlice_ok, State.lineOp_ok]

theorem State.fillSector_keeps {s0 : State} {ps : List Region} (s : State) (sl : Fin 16) (m : Miss) (i : Nat) (d :
    Ret64) (h_s : Keeps s0 s ps) (m_paths : Region.paths ∈ ps) (m_inbox : Region.inbox ∈ ps) (m_ring : Region.ring ∈
    ps) (m_tags : Region.tags ∈ ps) (m_inj : Region.inj ∈ ps) : Keeps s0 (State.fillSector s sl m i d) ps := by
  unfold State.fillSector
  grind [foldl_keeps', State.unlock_keeps, State.modSlice_keeps, State.lineOp_keeps]

theorem State.throughSector_ok (s : State) (sl : Fin 16) (m : Miss) (i : Nat) (d : Ret64) (h_s : s.Ok) :
    (State.throughSector s sl m i d).Ok := by
  unfold State.throughSector
  grind [State.Ok, foldl_ok, State.complete_ok, State.unlock_ok, State.modSlice_ok]

theorem State.throughSector_keeps {s0 : State} {ps : List Region} (s : State) (sl : Fin 16) (m : Miss) (i : Nat) (d :
    Ret64) (h_s : Keeps s0 s ps) (m_paths : Region.paths ∈ ps) (m_ring : Region.ring ∈ ps) (m_tags : Region.tags ∈ ps)
    (m_inj : Region.inj ∈ ps) : Keeps s0 (State.throughSector s sl m i d) ps := by
  unfold State.throughSector
  grind [foldl_keeps', State.complete_keeps, State.unlock_keeps, State.modSlice_keeps]

theorem fillReturn_ok (sl : Fin 16) (s : State) (h_s : s.Ok) : (fillReturn sl s).Ok := by
  simp only [fillReturn]
  split
  all_goals try split
  all_goals grind [State.Ok, foldl_ok, State.fillSector_ok, State.ifFits_ok, State.modPaths_ok, State.readThrough_ok,
    State.throughSector_ok]

theorem fillReturn_keeps {s0 : State} {ps : List Region} (sl : Fin 16) (s : State) (h_s : Keeps s0 s ps) (m_paths :
    Region.paths ∈ ps) (m_inbox : Region.inbox ∈ ps) (m_ring : Region.ring ∈ ps) (m_tags : Region.tags ∈ ps) (m_inj :
    Region.inj ∈ ps) : Keeps s0 (fillReturn sl s) ps := by
  unfold fillReturn
  repeat' split
  all_goals grind [foldl_keeps', State.fillSector_keeps, State.ifFits_keeps, State.modPaths_keeps, State.readThrough_keeps,
    State.throughSector_keeps]

theorem execFillReturn_ok (sl : Fin 16) (s : State) (h_s : s.Ok) : ∀ x, (execFillReturn sl s) = .next x → x.Ok := by
  unfold execFillReturn
  grind [State.Ok, foldl_ok, State.onSlice_ok, fillReturn_ok]

theorem execFillReturn_keeps {s0 : State} {ps : List Region} (sl : Fin 16) (s : State) (h_s : Keeps s0 s ps) (m_paths
    : Region.paths ∈ ps) (m_inbox : Region.inbox ∈ ps) (m_ring : Region.ring ∈ ps) (m_tags : Region.tags ∈ ps) (m_inj
    : Region.inj ∈ ps) : ∀ x, (execFillReturn sl s) = .next x → Keeps s0 x ps := by
  unfold execFillReturn
  grind [foldl_keeps', State.onSlice_keeps, fillReturn_keeps]

theorem cacheCtrlWrite_ok (v : Word) (s : State) (h_s : s.Ok) : (cacheCtrlWrite v s).Ok := by
  unfold cacheCtrlWrite
  grind [State.Ok, foldl_ok, State.sf_ok]

theorem cacheCtrlWrite_keeps {s0 : State} {ps : List Region} (v : Word) (s : State) (h_s : Keeps s0 s ps) : Keeps s0
    (cacheCtrlWrite v s) ps := by
  unfold cacheCtrlWrite
  grind [foldl_keeps', State.sf_keeps]

theorem execCacheCtrlWrite_ok (v : Word) (s : State) (h_s : s.Ok) : ∀ x, (execCacheCtrlWrite v s) = .next x → x.Ok :=
    by
  unfold execCacheCtrlWrite
  grind [State.Ok, foldl_ok, State.mgtWrite_ok, cacheCtrlWrite_ok]

theorem execCacheCtrlWrite_keeps {s0 : State} {ps : List Region} (v : Word) (s : State) (h_s : Keeps s0 s ps) (m_mgt :
    Region.mgt ∈ ps) : ∀ x, (execCacheCtrlWrite v s) = .next x → Keeps s0 x ps := by
  unfold execCacheCtrlWrite
  grind [foldl_keeps', State.mgtWrite_keeps, cacheCtrlWrite_keeps]

theorem State.sweepWays_ok (s : State) (sl : Fin 16) (keys : List Nat) (drop : Bool) (discard : Bool) (h_s : s.Ok) :
    (State.sweepWays s sl keys drop discard).Ok := by
  unfold State.sweepWays
  grind [State.Ok, foldl_ok, State.cleanWay_ok]

theorem State.sweepWays_keeps {s0 : State} {ps : List Region} (s : State) (sl : Fin 16) (keys : List Nat) (drop :
    Bool) (discard : Bool) (h_s : Keeps s0 s ps) (m_paths : Region.paths ∈ ps) (m_sched : Region.sched ∈ ps) : Keeps
    s0 (State.sweepWays s sl keys drop discard) ps := by
  unfold State.sweepWays
  grind [foldl_keeps', State.cleanWay_keeps, Keeps.set_sched]

theorem State.sweepRoom_ok (s : State) (sl : Fin 16) (drop : Bool) (discard : Bool) (u0 : List Nat) (h_s : s.Ok) :
    (State.sweepRoom s sl drop discard u0).1.Ok := by
  induction u0 generalizing s with
  | nil => unfold State.sweepRoom; grind [State.Ok, foldl_ok, State.sweepWays_ok]
  | cons x l ih => unfold State.sweepRoom; grind [State.Ok, foldl_ok, State.sweepWays_ok]

theorem State.sweepRoom_keeps {s0 : State} {ps : List Region} (s : State) (sl : Fin 16) (drop : Bool) (discard : Bool)
    (u0 : List Nat) (h_s : Keeps s0 s ps) (m_paths : Region.paths ∈ ps) (m_sched : Region.sched ∈ ps) : Keeps s0
    (State.sweepRoom s sl drop discard u0).1 ps := by
  induction u0 generalizing s with
  | nil => unfold State.sweepRoom; grind [foldl_keeps', State.sweepWays_keeps]
  | cons x l ih => unfold State.sweepRoom; grind [foldl_keeps', State.sweepWays_keeps]

theorem State.endSweep_ok (s : State) (sl : Fin 16) (h_s : s.Ok) : (State.endSweep s sl).Ok := by
  unfold State.endSweep
  grind [State.modSlice_ok, State.sweepRoom_ok]

theorem State.endSweep_keeps {s0 : State} {ps : List Region} (s : State) (sl : Fin 16) (h_s : Keeps s0 s ps) (m_paths
    : Region.paths ∈ ps) (m_sched : Region.sched ∈ ps) : Keeps s0 (State.endSweep s sl) ps := by
  unfold State.endSweep
  grind [State.modSlice_keeps, State.sweepRoom_keeps]

theorem State.moveRed_ok (s : State) (e : RedEntry) (l : Option Line) (fenced : Nat) (h_s : s.Ok) : (State.moveRed s e
    l fenced).Ok := by
  unfold State.moveRed
  grind [State.Ok, foldl_ok, State.modSlice_ok, State.writeBackLine_ok]

theorem State.moveRed_keeps {s0 : State} {ps : List Region} (s : State) (e : RedEntry) (l : Option Line) (fenced :
    Nat) (h_s : Keeps s0 s ps) (m_paths : Region.paths ∈ ps) : Keeps s0 (State.moveRed s e l fenced) ps := by
  unfold State.moveRed
  grind [foldl_keeps', State.modSlice_keeps, State.writeBackLine_keeps]

theorem State.moveLine_ok (s : State) (sl : Fin 16) (fenced : Nat) (ln : Nat) (h_s : s.Ok) : (State.moveLine s sl
    fenced ln).Ok := by
  unfold State.moveLine
  grind [State.Ok, foldl_ok, State.modSlice_ok, State.moveRed_ok, State.writeBackLine_ok]

theorem State.moveLine_keeps {s0 : State} {ps : List Region} (s : State) (sl : Fin 16) (fenced : Nat) (ln : Nat) (h_s
    : Keeps s0 s ps) (m_paths : Region.paths ∈ ps) : Keeps s0 (State.moveLine s sl fenced ln) ps := by
  unfold State.moveLine
  grind [foldl_keeps', State.modSlice_keeps, State.moveRed_keeps, State.writeBackLine_keeps]

theorem State.moveOut_ok (s : State) (sl : Fin 16) (fenced : Nat) (goes : Nat → Bool) (h_s : s.Ok) : (State.moveOut s
    sl fenced goes).Ok := by
  unfold State.moveOut
  grind [State.Ok, foldl_ok, State.moveLine_ok]

theorem State.moveOut_keeps {s0 : State} {ps : List Region} (s : State) (sl : Fin 16) (fenced : Nat) (goes : Nat →
    Bool) (h_s : Keeps s0 s ps) (m_paths : Region.paths ∈ ps) : Keeps s0 (State.moveOut s sl fenced goes) ps := by
  unfold State.moveOut
  grind [foldl_keeps', State.moveLine_keeps]

theorem State.fenceDrain_ok (s : State) (sl : Fin 16) (h_s : s.Ok) : (State.fenceDrain s sl).Ok := by
  unfold State.fenceDrain
  grind [State.Ok, foldl_ok, State.endSweep_ok, State.modSlice_ok, State.moveOut_ok, State.sf_ok]

theorem State.fenceDrain_keeps {s0 : State} {ps : List Region} (s : State) (sl : Fin 16) (h_s : Keeps s0 s ps)
    (m_paths : Region.paths ∈ ps) (m_sched : Region.sched ∈ ps) : Keeps s0 (State.fenceDrain s sl) ps := by
  unfold State.fenceDrain
  grind [foldl_keeps', State.endSweep_keeps, State.modSlice_keeps, State.moveOut_keeps, State.sf_keeps]

theorem sliceFence_ok (sl : Fin 16) (s : State) (h_s : s.Ok) : (sliceFence sl s).Ok := by
  unfold sliceFence
  grind [State.Ok, foldl_ok, State.fenceDrain_ok, State.modSlice_ok, State.sf_ok]

theorem sliceFence_keeps {s0 : State} {ps : List Region} (sl : Fin 16) (s : State) (h_s : Keeps s0 s ps) (m_paths :
    Region.paths ∈ ps) (m_sched : Region.sched ∈ ps) : Keeps s0 (sliceFence sl s) ps := by
  unfold sliceFence
  grind [foldl_keeps', State.fenceDrain_keeps, State.modSlice_keeps, State.sf_keeps]

theorem execSliceFence_ok (sl : Fin 16) (s : State) (h_s : s.Ok) : ∀ x, (execSliceFence sl s) = .next x → x.Ok := by
  unfold execSliceFence
  grind [State.Ok, foldl_ok, State.onLive_ok, sliceFence_ok]

theorem execSliceFence_keeps {s0 : State} {ps : List Region} (sl : Fin 16) (s : State) (h_s : Keeps s0 s ps) (m_paths
    : Region.paths ∈ ps) (m_sched : Region.sched ∈ ps) : ∀ x, (execSliceFence sl s) = .next x → Keeps s0 x ps := by
  unfold execSliceFence
  grind [foldl_keeps', State.onLive_keeps, sliceFence_keeps]

theorem sliceFenceTimeout_ok (sl : Fin 16) (s : State) (h_s : s.Ok) : (sliceFenceTimeout sl s).Ok := by
  unfold sliceFenceTimeout
  generalize (1000000 : Nat) = k
  grind [State.Ok, State.complete_ok, State.modPaths_ok, State.modInbox_ok, State.modSlice_ok, State.raiseIf_ok,
      foldl_ok]

theorem sliceFenceTimeout_keeps {s0 : State} {ps : List Region} (sl : Fin 16) (s : State) (h_s : Keeps s0 s ps)
    (m_paths : Region.paths ∈ ps) (m_inbox : Region.inbox ∈ ps) (m_ring : Region.ring ∈ ps) (m_tags : Region.tags ∈
    ps) (m_inj : Region.inj ∈ ps) : Keeps s0 (sliceFenceTimeout sl s) ps := by
  unfold sliceFenceTimeout
  dsimp only
  repeat' first
      | with_reducible assumption
      | with_reducible apply ite_keeps
      | with_reducible refine foldl_keeps' (fun _ _ _ => ?_) _ ?_
      | with_reducible apply State.complete_keeps
      | with_reducible apply State.modPaths_keeps
      | with_reducible apply State.modInbox_keeps
      | with_reducible apply State.modSlice_keeps
      | with_reducible apply State.raiseIf_keeps
      | split

theorem execSliceFenceTimeout_ok (sl : Fin 16) (s : State) (h_s : s.Ok) : ∀ x, (execSliceFenceTimeout sl s) = .next x
    → x.Ok := by
  unfold execSliceFenceTimeout
  grind [State.Ok, foldl_ok, State.onLive_ok, sliceFenceTimeout_ok]

theorem execSliceFenceTimeout_keeps {s0 : State} {ps : List Region} (sl : Fin 16) (s : State) (h_s : Keeps s0 s ps)
    (m_paths : Region.paths ∈ ps) (m_inbox : Region.inbox ∈ ps) (m_ring : Region.ring ∈ ps) (m_tags : Region.tags ∈
    ps) (m_inj : Region.inj ∈ ps) : ∀ x, (execSliceFenceTimeout sl s) = .next x → Keeps s0 x ps := by
  unfold execSliceFenceTimeout
  grind [foldl_keeps', State.onLive_keeps, sliceFenceTimeout_keeps]

theorem State.rehouse_ok (s : State) (old : Nat) (new : Nat) (h_s : s.Ok) : (State.rehouse s old new).Ok := by
  unfold State.rehouse
  grind [State.Ok, foldl_ok, State.moveOut_ok]

theorem State.rehouse_keeps {s0 : State} {ps : List Region} (s : State) (old : Nat) (new : Nat) (h_s : Keeps s0 s ps)
    (m_paths : Region.paths ∈ ps) : Keeps s0 (State.rehouse s old new) ps := by
  unfold State.rehouse
  grind [foldl_keeps', State.moveOut_keeps]

theorem State.leaveIngress_ok (s : State) (h_s : s.Ok) : (State.leaveIngress s).Ok := by
  unfold State.leaveIngress
  grind [State.Ok, foldl_ok, State.modPaths_ok]

theorem State.leaveIngress_keeps {s0 : State} {ps : List Region} (s : State) (h_s : Keeps s0 s ps) (m_paths :
    Region.paths ∈ ps) : Keeps s0 (State.leaveIngress s) ps := by
  unfold State.leaveIngress
  grind [foldl_keeps', State.modPaths_keeps]

theorem sliceFenceComplete_ok (sl : Fin 16) (s : State) (h_s : s.Ok) : (sliceFenceComplete sl s).Ok := by
  unfold sliceFenceComplete
  grind [State.Ok, foldl_ok, State.fenceDrain_ok, State.fwDom_ok, State.leaveIngress_ok, State.rehouse_ok, State.sf_ok]

theorem sliceFenceComplete_keeps {s0 : State} {ps : List Region} (sl : Fin 16) (s : State) (h_s : Keeps s0 s ps)
    (m_paths : Region.paths ∈ ps) (m_fw : Region.fw ∈ ps) (m_sched : Region.sched ∈ ps) : Keeps s0 (sliceFenceComplete
    sl s) ps := by
  unfold sliceFenceComplete
  dsimp only
  repeat' first
      | with_reducible assumption
      | with_reducible apply ite_keeps
      | with_reducible refine foldl_keeps' (fun _ _ _ => ?_) _ ?_
      | with_reducible apply State.fenceDrain_keeps
      | with_reducible apply State.fwDom_keeps
      | with_reducible apply State.leaveIngress_keeps
      | with_reducible apply State.rehouse_keeps
      | with_reducible apply State.sf_keeps
      | split

theorem execSliceFenceComplete_ok (sl : Fin 16) (s : State) (h_s : s.Ok) : ∀ x, (execSliceFenceComplete sl s) = .next
    x → x.Ok := by
  unfold execSliceFenceComplete
  grind [State.Ok, foldl_ok, State.onLive_ok, sliceFenceComplete_ok]

theorem execSliceFenceComplete_keeps {s0 : State} {ps : List Region} (sl : Fin 16) (s : State) (h_s : Keeps s0 s ps)
    (m_paths : Region.paths ∈ ps) (m_fw : Region.fw ∈ ps) (m_sched : Region.sched ∈ ps) : ∀ x, (execSliceFenceComplete
    sl s) = .next x → Keeps s0 x ps := by
  unfold execSliceFenceComplete
  grind [foldl_keeps', State.onLive_keeps, sliceFenceComplete_keeps]

theorem cacheStatusReport_ok (sl : Fin 16) (s : State) (h_s : s.Ok) : (cacheStatusReport sl s).Ok := by
  unfold cacheStatusReport
  grind [State.Ok, foldl_ok, State.sf_ok, State.modSlice_ok, State.raiseIf_ok]

theorem cacheStatusReport_keeps {s0 : State} {ps : List Region} (sl : Fin 16) (s : State) (h_s : Keeps s0 s ps)
    (m_paths : Region.paths ∈ ps) : Keeps s0 (cacheStatusReport sl s) ps := by
  unfold cacheStatusReport
  grind [foldl_keeps', State.sf_keeps, State.modSlice_keeps, State.raiseIf_keeps]

theorem execCacheStatusReport_ok (sl : Fin 16) (s : State) (h_s : s.Ok) : ∀ x, (execCacheStatusReport sl s) = .next x
    → x.Ok := by
  unfold execCacheStatusReport
  grind [State.Ok, foldl_ok, State.onSlice_ok, cacheStatusReport_ok]

theorem execCacheStatusReport_keeps {s0 : State} {ps : List Region} (sl : Fin 16) (s : State) (h_s : Keeps s0 s ps)
    (m_paths : Region.paths ∈ ps) : ∀ x, (execCacheStatusReport sl s) = .next x → Keeps s0 x ps := by
  unfold execCacheStatusReport
  grind [foldl_keeps', State.onSlice_keeps, cacheStatusReport_keeps]

end Sys2Proof.Machine
end

