-- ==== Sys2Proof/Laws/Refresh.lean ====
section
/-! SUPPORT. Two lemmas for every operation of Machine/Refresh.lean. `…_ok`: the register table and the stack's memory stay
canonical. `…_keeps`: what agrees with a state outside a list of regions that holds those the operation can change still
agrees afterwards. -/

namespace Sys2Proof.Machine

set_option Elab.async false

theorem refreshDue_ok (p : Fin 64) (k : Fin 64) (s : State) (h_s : s.Ok) : (refreshDue p k s).Ok := by
  unfold refreshDue
  grind [State.Ok, foldl_ok, State.modPc_ok]

theorem refreshDue_keeps {s0 : State} {ps : List Region} (p : Fin 64) (k : Fin 64) (s : State) (h_s : Keeps s0 s ps)
    (m_pcs : Region.pcs ∈ ps) : Keeps s0 (refreshDue p k s) ps := by
  unfold refreshDue
  grind [foldl_keeps', State.modPc_keeps]

theorem execRefreshDue_ok (p : Fin 64) (k : Fin 64) (s : State) (h_s : s.Ok) : ∀ x, (execRefreshDue p k s) = .next x →
    x.Ok := by
  unfold execRefreshDue
  grind [State.Ok, foldl_ok, State.onLive_ok, refreshDue_ok]

theorem execRefreshDue_keeps {s0 : State} {ps : List Region} (p : Fin 64) (k : Fin 64) (s : State) (h_s : Keeps s0 s
    ps) (m_pcs : Region.pcs ∈ ps) : ∀ x, (execRefreshDue p k s) = .next x → Keeps s0 x ps := by
  unfold execRefreshDue
  grind [foldl_keeps', State.onLive_keeps, refreshDue_keeps]

theorem refreshComplete_ok (p : Fin 64) (k : Fin 64) (s : State) (h_s : s.Ok) : (refreshComplete p k s).Ok := by
  unfold refreshComplete
  grind [State.Ok, foldl_ok, State.modPc_ok]

theorem refreshComplete_keeps {s0 : State} {ps : List Region} (p : Fin 64) (k : Fin 64) (s : State) (h_s : Keeps s0 s
    ps) (m_pcs : Region.pcs ∈ ps) : Keeps s0 (refreshComplete p k s) ps := by
  unfold refreshComplete
  grind [foldl_keeps', State.modPc_keeps]

theorem execRefreshComplete_ok (p : Fin 64) (k : Fin 64) (s : State) (h_s : s.Ok) : ∀ x, (execRefreshComplete p k s) =
    .next x → x.Ok := by
  unfold execRefreshComplete
  grind [State.Ok, foldl_ok, State.onLive_ok, refreshComplete_ok]

theorem execRefreshComplete_keeps {s0 : State} {ps : List Region} (p : Fin 64) (k : Fin 64) (s : State) (h_s : Keeps
    s0 s ps) (m_pcs : Region.pcs ∈ ps) : ∀ x, (execRefreshComplete p k s) = .next x → Keeps s0 x ps := by
  unfold execRefreshComplete
  grind [foldl_keeps', State.onLive_keeps, refreshComplete_keeps]

theorem targetedTick_ok (p : Fin 64) (s : State) (h_s : s.Ok) : (targetedTick p s).Ok := by
  unfold targetedTick
  grind [State.Ok, foldl_ok, State.modPc_ok]

theorem targetedTick_keeps {s0 : State} {ps : List Region} (p : Fin 64) (s : State) (h_s : Keeps s0 s ps) (m_pcs :
    Region.pcs ∈ ps) : Keeps s0 (targetedTick p s) ps := by
  unfold targetedTick
  grind [foldl_keeps', State.modPc_keeps]

theorem execTargetedRefreshTick_ok (p : Fin 64) (s : State) (h_s : s.Ok) : ∀ x, (execTargetedRefreshTick p s) = .next
    x → x.Ok := by
  unfold execTargetedRefreshTick
  grind [State.Ok, foldl_ok, State.onLive_ok, targetedTick_ok]

theorem execTargetedRefreshTick_keeps {s0 : State} {ps : List Region} (p : Fin 64) (s : State) (h_s : Keeps s0 s ps)
    (m_pcs : Region.pcs ∈ ps) : ∀ x, (execTargetedRefreshTick p s) = .next x → Keeps s0 x ps := by
  unfold execTargetedRefreshTick
  grind [foldl_keeps', State.onLive_keeps, targetedTick_keeps]

theorem refreshRateChange_ok (p : Fin 64) (s : State) (h_s : s.Ok) : (refreshRateChange p s).Ok := by
  unfold refreshRateChange
  grind [State.Ok, foldl_ok, State.sf_ok]

theorem refreshRateChange_keeps {s0 : State} {ps : List Region} (p : Fin 64) (s : State) (h_s : Keeps s0 s ps) : Keeps
    s0 (refreshRateChange p s) ps := by
  unfold refreshRateChange
  grind [foldl_keeps', State.sf_keeps]

theorem execRefreshRateChange_ok (p : Fin 64) (s : State) (h_s : s.Ok) : ∀ x, (execRefreshRateChange p s) = .next x →
    x.Ok := by
  unfold execRefreshRateChange
  grind [State.Ok, foldl_ok, State.onLive_ok, refreshRateChange_ok]

theorem execRefreshRateChange_keeps {s0 : State} {ps : List Region} (p : Fin 64) (s : State) (h_s : Keeps s0 s ps) : ∀
    x, (execRefreshRateChange p s) = .next x → Keeps s0 x ps := by
  unfold execRefreshRateChange
  grind [foldl_keeps', State.onLive_keeps, refreshRateChange_keeps]

theorem State.rateFromReading_ok (s : State) (r : Int) (h_s : s.Ok) : (State.rateFromReading s r).Ok := by
  unfold State.rateFromReading
  grind [State.Ok, foldl_ok]

theorem State.rateFromReading_keeps {s0 : State} {ps : List Region} (s : State) (r : Int) (h_s : Keeps s0 s ps)
    (m_refresh : Region.refresh ∈ ps) : Keeps s0 (State.rateFromReading s r) ps := by
  unfold State.rateFromReading
  grind [foldl_keeps', Keeps.set_refresh]

theorem rowHealthEvent_ok (p : Fin 64) (s : State) (h_s : s.Ok) : (rowHealthEvent p s).Ok := by
  unfold rowHealthEvent
  grind [State.Ok, foldl_ok, State.iff_ok, State.modPc_ok, State.repairEvent_ok, State.raise_ok]

theorem rowHealthEvent_keeps {s0 : State} {ps : List Region} (p : Fin 64) (s : State) (h_s : Keeps s0 s ps) (m_pcs :
    Region.pcs ∈ ps) (m_age : Region.age ∈ ps) : Keeps s0 (rowHealthEvent p s) ps := by
  unfold rowHealthEvent
  grind [foldl_keeps', State.iff_keeps, State.modPc_keeps, State.repairEvent_keeps, State.raise_keeps]

theorem execRowHealthEvent_ok (p : Fin 64) (s : State) (h_s : s.Ok) : ∀ x, (execRowHealthEvent p s) = .next x → x.Ok
    := by
  unfold execRowHealthEvent
  grind [State.Ok, foldl_ok, State.onLive_ok, rowHealthEvent_ok]

theorem execRowHealthEvent_keeps {s0 : State} {ps : List Region} (p : Fin 64) (s : State) (h_s : Keeps s0 s ps) (m_pcs
    : Region.pcs ∈ ps) (m_age : Region.age ∈ ps) : ∀ x, (execRowHealthEvent p s) = .next x → Keeps s0 x ps := by
  unfold execRowHealthEvent
  grind [foldl_keeps', State.onLive_keeps, rowHealthEvent_keeps]

theorem rowFwWrite_ok (p : Fin 64) (i : Fin 2048) (valid : Bool) (cls : Fin 6) (retMs : BitVec 7) (l : Loc) (tie :
    Bool) (s : State) (h_s : s.Ok) : (rowFwWrite p i valid cls retMs l tie s).Ok := by
  unfold rowFwWrite
  grind [State.Ok, foldl_ok, State.iff_ok, State.modPc_ok, State.repairEvent_ok, rowHealthEvent_ok]

theorem rowFwWrite_keeps {s0 : State} {ps : List Region} (p : Fin 64) (i : Fin 2048) (valid : Bool) (cls : Fin 6)
    (retMs : BitVec 7) (l : Loc) (tie : Bool) (s : State) (h_s : Keeps s0 s ps) (m_pcs : Region.pcs ∈ ps) (m_age :
    Region.age ∈ ps) : Keeps s0 (rowFwWrite p i valid cls retMs l tie s) ps := by
  unfold rowFwWrite
  grind [foldl_keeps', State.iff_keeps, State.modPc_keeps, State.repairEvent_keeps, rowHealthEvent_keeps]

theorem execRowHealthFwWrite_ok (p : Fin 64) (i : Fin 2048) (valid : Bool) (cls : Fin 6) (retMs : BitVec 7) (layer :
    Fin 4) (unit : Fin 16) (row : BitVec 15) (tie : Bool) (s : State) (h_s : s.Ok) : ∀ x,
    (execRowHealthFwWrite p i valid cls retMs layer unit row tie s) = .next x → x.Ok := by
  unfold execRowHealthFwWrite
  grind [State.Ok, foldl_ok, State.onUpkeep_ok, rowFwWrite_ok]

theorem execRowHealthFwWrite_keeps {s0 : State} {ps : List Region} (p : Fin 64) (i : Fin 2048) (valid : Bool) (cls :
    Fin 6) (retMs : BitVec 7) (layer : Fin 4) (unit : Fin 16) (row : BitVec 15) (tie : Bool) (s : State)
    (h_s : Keeps s0 s ps) (m_pcs : Region.pcs ∈ ps) (m_age : Region.age ∈ ps) : ∀ x, (execRowHealthFwWrite p i valid
    cls retMs layer unit row tie s) = .next x → Keeps s0 x ps := by
  unfold execRowHealthFwWrite
  grind [foldl_keeps', State.onUpkeep_keeps, rowFwWrite_keeps]

theorem State.setRowClass_ok (s : State) (l : Loc) (cls : Nat) (retMs : Nat) (h_s : s.Ok) : (State.setRowClass s l cls
    retMs).Ok := by
  unfold State.setRowClass
  grind [State.Ok, foldl_ok, State.modPc_ok, State.cause_ok]

theorem State.setRowClass_keeps {s0 : State} {ps : List Region} (s : State) (l : Loc) (cls : Nat) (retMs : Nat) (h_s :
    Keeps s0 s ps) (m_pcs : Region.pcs ∈ ps) (m_inbox : Region.inbox ∈ ps) : Keeps s0 (State.setRowClass s l cls
    retMs) ps := by
  unfold State.setRowClass
  grind [foldl_keeps', State.modPc_keeps, State.cause_keeps]

theorem State.clearRowClass_ok (s : State) (l : Loc) (retMs : Nat) (h_s : s.Ok) : (State.clearRowClass s l retMs).Ok
    := by
  unfold State.clearRowClass
  grind [State.Ok, foldl_ok, State.modPc_ok]

theorem State.clearRowClass_keeps {s0 : State} {ps : List Region} (s : State) (l : Loc) (retMs : Nat) (h_s : Keeps s0
    s ps) (m_pcs : Region.pcs ∈ ps) : Keeps s0 (State.clearRowClass s l retMs) ps := by
  unfold State.clearRowClass
  grind [foldl_keeps', State.modPc_keeps]

theorem State.keepResult_ok (s : State) (l : Loc) (ms : Nat) (weak : Bool) (h_s : s.Ok) : (State.keepResult s l ms
    weak).Ok := by
  unfold State.keepResult
  grind [State.Ok, foldl_ok]

theorem State.keepResult_keeps {s0 : State} {ps : List Region} (s : State) (l : Loc) (ms : Nat) (weak : Bool) (h_s :
    Keeps s0 s ps) (m_age : Region.age ∈ ps) : Keeps s0 (State.keepResult s l ms weak) ps := by
  unfold State.keepResult
  grind [foldl_keeps', Keeps.set_age]

theorem State.classifyHold_ok (s : State) (l : Loc) (hold : Nat) (temp : Int) (h_s : s.Ok) : (State.classifyHold s l
    hold temp).Ok := by
  unfold State.classifyHold
  grind [State.Ok, foldl_ok, State.clearRowClass_ok, State.keepResult_ok, State.iff_ok, State.setRowClass_ok,
      State.repairEvent_ok, State.cause_ok]

theorem State.classifyHold_keeps {s0 : State} {ps : List Region} (s : State) (l : Loc) (hold : Nat) (temp : Int) (h_s
    : Keeps s0 s ps) (m_pcs : Region.pcs ∈ ps) (m_inbox : Region.inbox ∈ ps) (m_age : Region.age ∈ ps) : Keeps s0
    (State.classifyHold s l hold temp) ps := by
  unfold State.classifyHold
  grind [foldl_keeps', State.clearRowClass_keeps, State.keepResult_keeps, State.iff_keeps, State.setRowClass_keeps,
      State.repairEvent_keeps, State.cause_keeps]

theorem State.classifyCe_ok (s : State) (l : Loc) (h_s : s.Ok) : (State.classifyCe s l).Ok := by
  unfold State.classifyCe
  grind [State.Ok, foldl_ok, State.modPc_ok]

theorem State.classifyCe_keeps {s0 : State} {ps : List Region} (s : State) (l : Loc) (h_s : Keeps s0 s ps) (m_pcs :
    Region.pcs ∈ ps) : Keeps s0 (State.classifyCe s l) ps := by
  unfold State.classifyCe
  grind [foldl_keeps', State.modPc_keeps]

theorem rowClassify_ok (l : Loc) (test : Option (Fin 4 × BitVec 10)) (s : State) (h_s : s.Ok) : (rowClassify l test
    s).Ok := by
  unfold rowClassify
  grind [State.Ok, foldl_ok, State.classifyHold_ok, State.classifyCe_ok]

theorem rowClassify_keeps {s0 : State} {ps : List Region} (l : Loc) (test : Option (Fin 4 × BitVec 10)) (s : State)
    (h_s : Keeps s0 s ps) (m_pcs : Region.pcs ∈ ps) (m_inbox : Region.inbox ∈ ps) (m_age : Region.age ∈ ps) : Keeps s0
    (rowClassify l test s) ps := by
  unfold rowClassify
  grind [foldl_keeps', State.classifyHold_keeps, State.classifyCe_keeps]

theorem execRowClassify_ok (p : Fin 64) (layer : Fin 4) (bg : Fin 4) (bank : Fin 4) (row : BitVec 15) (test : Option
    (Fin 4 × BitVec 10)) (s : State) (h_s : s.Ok) : ∀ x, (execRowClassify p layer bg bank row test s) = .next x → x.Ok
    := by
  unfold execRowClassify
  grind [State.Ok, foldl_ok, State.onUpkeep_ok, rowClassify_ok]

theorem execRowClassify_keeps {s0 : State} {ps : List Region} (p : Fin 64) (layer : Fin 4) (bg : Fin 4) (bank : Fin 4)
    (row : BitVec 15) (test : Option (Fin 4 × BitVec 10)) (s : State) (h_s : Keeps s0 s ps) (m_pcs : Region.pcs ∈ ps)
    (m_inbox : Region.inbox ∈ ps) (m_age : Region.age ∈ ps) : ∀ x, (execRowClassify p layer bg bank row test s) =
    .next x → Keeps s0 x ps := by
  unfold execRowClassify
  grind [foldl_keeps', State.onUpkeep_keeps, rowClassify_keeps]

theorem State.writeInhibit_ok (s : State) (p : Fin 64) (g : Nat) (h_s : s.Ok) : (State.writeInhibit s p g).Ok := by
  unfold State.writeInhibit
  grind [State.Ok, foldl_ok, State.raiseIf_ok, State.sf_ok]

theorem State.writeInhibit_keeps {s0 : State} {ps : List Region} (s : State) (p : Fin 64) (g : Nat) (h_s : Keeps s0 s
    ps) : Keeps s0 (State.writeInhibit s p g) ps := by
  unfold State.writeInhibit
  grind [foldl_keeps', State.raiseIf_keeps, State.sf_keeps]

theorem execRefInhibitWrite_ok (p : Fin 64) (group : BitVec 4) (s : State) (h_s : s.Ok) : ∀ x, (execRefInhibitWrite p
    group s) = .next x → x.Ok := by
  unfold execRefInhibitWrite
  grind [State.Ok, foldl_ok, State.onUpkeep_ok, State.writeInhibit_ok]

theorem execRefInhibitWrite_keeps {s0 : State} {ps : List Region} (p : Fin 64) (group : BitVec 4) (s : State) (h_s :
    Keeps s0 s ps) : ∀ x, (execRefInhibitWrite p group s) = .next x → Keeps s0 x ps := by
  unfold execRefInhibitWrite
  grind [foldl_keeps', State.onUpkeep_keeps, State.writeInhibit_keeps]

theorem State.loseRank_ok (s : State) (rank : Nat) (h_s : s.Ok) : (State.loseRank s rank).Ok := by
  unfold State.loseRank
  grind [State.Ok, foldl_ok]

theorem State.loseRank_keeps {s0 : State} {ps : List Region} (s : State) (rank : Nat) (h_s : Keeps s0 s ps) (m_stack :
    Region.stack ∈ ps) : Keeps s0 (State.loseRank s rank) ps := by
  unfold State.loseRank
  grind [foldl_keeps', Keeps.set_stack]

theorem retentionTest_ok (rank : Nat) (hold : Nat) (s : State) (h_s : s.Ok) : (retentionTest rank hold s).Ok := by
  unfold retentionTest
  grind [State.Ok, foldl_ok, State.iff_ok, State.loseRank_ok, State.setRank_ok, State.writeInhibit_ok]

theorem retentionTest_keeps {s0 : State} {ps : List Region} (rank : Nat) (hold : Nat) (s : State) (h_s : Keeps s0 s
    ps) (m_stack : Region.stack ∈ ps) (m_tests : Region.tests ∈ ps) : Keeps s0 (retentionTest rank hold s) ps := by
  unfold retentionTest
  grind [foldl_keeps', State.iff_keeps, State.loseRank_keeps, State.setRank_keeps, State.writeInhibit_keeps,
    Keeps.set_tests]

theorem execRetentionTest_ok (p : Fin 64) (layer : Fin 4) (hold : Fin 4) (s : State) (h_s : s.Ok) : ∀ x,
    (execRetentionTest p layer hold s) = .next x → x.Ok := by
  unfold execRetentionTest
  grind [State.Ok, foldl_ok, State.onUpkeep_ok, retentionTest_ok]

theorem execRetentionTest_keeps {s0 : State} {ps : List Region} (p : Fin 64) (layer : Fin 4) (hold : Fin 4) (s : State)
    (h_s : Keeps s0 s ps) (m_stack : Region.stack ∈ ps) (m_tests : Region.tests ∈ ps) : ∀ x, (execRetentionTest p layer
    hold s) = .next x → Keeps s0 x ps := by
  unfold execRetentionTest
  grind [foldl_keeps', State.onUpkeep_keeps, retentionTest_keeps]

theorem State.freeRank_ok (s : State) (rank : Nat) (h_s : s.Ok) : (State.freeRank s rank).Ok := by
  unfold State.freeRank
  grind [State.Ok, foldl_ok, State.iff_ok, State.setRank_ok, State.writeInhibit_ok]

theorem State.freeRank_keeps {s0 : State} {ps : List Region} (s : State) (rank : Nat) (h_s : Keeps s0 s ps) : Keeps s0
    (State.freeRank s rank) ps := by
  unfold State.freeRank
  grind [foldl_keeps', State.iff_keeps, State.setRank_keeps, State.writeInhibit_keeps]

theorem State.endTest_ok (s : State) (rank : Nat) (h_s : s.Ok) : (State.endTest s rank).Ok := by
  unfold State.endTest
  grind [State.Ok, foldl_ok, State.freeRank_ok]

theorem State.endTest_keeps {s0 : State} {ps : List Region} (s : State) (rank : Nat) (h_s : Keeps s0 s ps) (m_tests :
    Region.tests ∈ ps) : Keeps s0 (State.endTest s rank) ps := by
  unfold State.endTest
  grind [foldl_keeps', State.freeRank_keeps, Keeps.set_tests]

theorem retentionExpiry_ok (rank : Nat) (failed : List (Fin 4 × Fin 4 × BitVec 15)) (s : State) (h_s : s.Ok) :
    (retentionExpiry rank failed s).Ok := by
  unfold retentionExpiry
  grind [State.Ok, foldl_ok, State.classifyHold_ok, State.freeRank_ok]

theorem retentionExpiry_keeps {s0 : State} {ps : List Region} (rank : Nat) (failed : List (Fin 4 × Fin 4 × BitVec 15))
    (s : State) (h_s : Keeps s0 s ps) (m_pcs : Region.pcs ∈ ps) (m_tests : Region.tests ∈ ps) (m_inbox : Region.inbox
    ∈ ps) (m_age : Region.age ∈ ps) : Keeps s0 (retentionExpiry rank failed s) ps := by
  unfold retentionExpiry
  grind [foldl_keeps', State.classifyHold_keeps, State.freeRank_keeps, Keeps.set_tests]

theorem execRetentionHoldExpiry_ok (rank : BitVec 8) (failed : List (Fin 4 × Fin 4 × BitVec 15)) (s : State) (h_s :
    s.Ok) : ∀ x, (execRetentionHoldExpiry rank failed s) = .next x → x.Ok := by
  unfold execRetentionHoldExpiry
  grind [State.Ok, foldl_ok, State.onUpkeep_ok, retentionExpiry_ok]

theorem execRetentionHoldExpiry_keeps {s0 : State} {ps : List Region} (rank : BitVec 8) (failed : List (Fin 4 × Fin 4
    × BitVec 15)) (s : State) (h_s : Keeps s0 s ps) (m_pcs : Region.pcs ∈ ps) (m_tests : Region.tests ∈ ps) (m_inbox :
    Region.inbox ∈ ps) (m_age : Region.age ∈ ps) : ∀ x, (execRetentionHoldExpiry rank failed s) = .next x → Keeps s0 x
    ps := by
  unfold execRetentionHoldExpiry
  grind [foldl_keeps', State.onUpkeep_keeps, retentionExpiry_keeps]

theorem State.selfRefreshEnter_ok (s : State) (p : Fin 64) (h_s : s.Ok) : (State.selfRefreshEnter s p).Ok := by
  unfold State.selfRefreshEnter
  grind [State.Ok, foldl_ok, State.modPc_ok, State.raise_ok, State.sf_ok]

theorem State.selfRefreshEnter_keeps {s0 : State} {ps : List Region} (s : State) (p : Fin 64) (h_s : Keeps s0 s ps)
    (m_pcs : Region.pcs ∈ ps) : Keeps s0 (State.selfRefreshEnter s p) ps := by
  unfold State.selfRefreshEnter
  grind [foldl_keeps', State.modPc_keeps, State.raise_keeps, State.sf_keeps]

theorem State.startRefresh_ok (s : State) (h_s : s.Ok) : (State.startRefresh s).Ok := by
  unfold State.startRefresh
  grind [State.Ok, foldl_ok]

theorem State.startRefresh_keeps {s0 : State} {ps : List Region} (s : State) (h_s : Keeps s0 s ps) (m_stack :
    Region.stack ∈ ps) : Keeps s0 (State.startRefresh s) ps := by
  unfold State.startRefresh
  grind [foldl_keeps', Keeps.set_stack]

theorem State.leaveSelfRefresh_ok (s : State) (p : Fin 64) (h_s : s.Ok) : (State.leaveSelfRefresh s p).Ok := by
  unfold State.leaveSelfRefresh
  grind [State.Ok, foldl_ok, State.modPc_ok, State.sf_ok, State.startRefresh_ok]

theorem State.leaveSelfRefresh_keeps {s0 : State} {ps : List Region} (s : State) (p : Fin 64) (h_s : Keeps s0 s ps)
    (m_pcs : Region.pcs ∈ ps) (m_stack : Region.stack ∈ ps) : Keeps s0 (State.leaveSelfRefresh s p) ps := by
  unfold State.leaveSelfRefresh
  grind [foldl_keeps', State.modPc_keeps, State.sf_keeps, State.startRefresh_keeps]

theorem State.selfRefreshExit_ok (s : State) (p : Fin 64) (h_s : s.Ok) : (State.selfRefreshExit s p).Ok := by
  unfold State.selfRefreshExit
  grind [State.Ok, foldl_ok, State.leaveSelfRefresh_ok, State.raise_ok]

theorem State.selfRefreshExit_keeps {s0 : State} {ps : List Region} (s : State) (p : Fin 64) (h_s : Keeps s0 s ps)
    (m_pcs : Region.pcs ∈ ps) (m_stack : Region.stack ∈ ps) : Keeps s0 (State.selfRefreshExit s p) ps := by
  unfold State.selfRefreshExit
  grind [foldl_keeps', State.leaveSelfRefresh_keeps, State.raise_keeps]

theorem State.resumePc_ok (s : State) (p : Fin 64) (h_s : s.Ok) : (State.resumePc s p).Ok := by
  unfold State.resumePc
  grind [State.Ok, foldl_ok, State.iff_ok, State.modPc_ok]

theorem State.resumePc_keeps {s0 : State} {ps : List Region} (s : State) (p : Fin 64) (h_s : Keeps s0 s ps) (m_pcs :
    Region.pcs ∈ ps) : Keeps s0 (State.resumePc s p) ps := by
  unfold State.resumePc
  grind [foldl_keeps', State.iff_keeps, State.modPc_keeps]

theorem State.scrubBurst_ok (s : State) (l : Loc) (err : List Byte) (h_s : s.Ok) : (State.scrubBurst s l err).Ok := by
  unfold State.scrubBurst
  grind [State.Ok, foldl_ok, State.iff_ok, State.readEffects_ok, State.tick_ok, State.putBurst_ok]

theorem State.scrubBurst_keeps {s0 : State} {ps : List Region} (s : State) (l : Loc) (err : List Byte) (h_s : Keeps s0
    s ps) (m_free : Region.free ∈ ps) (m_pcs : Region.pcs ∈ ps) (m_stack : Region.stack ∈ ps) (m_inbox : Region.inbox
    ∈ ps) : Keeps s0 (State.scrubBurst s l err) ps := by
  unfold State.scrubBurst
  grind [foldl_keeps', State.iff_keeps, State.readEffects_keeps, State.tick_keeps, State.putBurst_keeps]

theorem State.takeEvents_ok (p : Fin 64) (u0 : Nat) (u1 : State) (h_u1 : u1.Ok) : (State.takeEvents p u0 u1).Ok := by
  induction u0 generalizing u1 with
  | zero => simpa [State.takeEvents] using h_u1
  | succ n ih => exact ih _ (rowHealthEvent_ok _ _ h_u1)

theorem State.takeEvents_keeps {s0 : State} {ps : List Region} (p : Fin 64) (u0 : Nat) (u1 : State) (h_u1 : Keeps s0
    u1 ps) (m_pcs : Region.pcs ∈ ps) (m_age : Region.age ∈ ps) : Keeps s0 (State.takeEvents p u0 u1) ps := by
  induction u0 generalizing u1 with
  | zero => simpa [State.takeEvents] using h_u1
  | succ n ih => exact ih _ (rowHealthEvent_keeps _ _ h_u1 (by assumption) (by assumption))

theorem exitScrub_ok (p : Fin 64) (errs : List (Nat × List Byte)) (s : State) (h_s : s.Ok) : (exitScrub p errs s).Ok
    := by
  unfold exitScrub
  grind [State.Ok, foldl_ok, State.resumePc_ok, State.scrubBurst_ok, State.sf_ok, State.takeEvents_ok]

theorem exitScrub_keeps {s0 : State} {ps : List Region} (p : Fin 64) (errs : List (Nat × List Byte)) (s : State) (h_s
    : Keeps s0 s ps) (m_free : Region.free ∈ ps) (m_pcs : Region.pcs ∈ ps) (m_stack : Region.stack ∈ ps) (m_inbox :
    Region.inbox ∈ ps) (m_age : Region.age ∈ ps) : Keeps s0 (exitScrub p errs s) ps := by
  unfold exitScrub
  grind [foldl_keeps', State.resumePc_keeps, State.scrubBurst_keeps, State.sf_keeps, State.takeEvents_keeps]

theorem State.storeInterval_ok (s : State) (raw : Nat) (h_s : s.Ok) : (State.storeInterval s raw).Ok := by
  unfold State.storeInterval
  grind [State.Ok, foldl_ok, State.raise_ok, State.raiseIf_ok, State.sf_ok]

theorem State.storeInterval_keeps {s0 : State} {ps : List Region} (s : State) (raw : Nat) (h_s : Keeps s0 s ps) :
    Keeps s0 (State.storeInterval s raw) ps := by
  unfold State.storeInterval
  grind [foldl_keeps', State.raise_keeps, State.raiseIf_keeps, State.sf_keeps]

theorem refCtrlWrite_ok (v : Word) (events : Word) (s : State) (h_s : s.Ok) : (refCtrlWrite v events s).Ok := by
  unfold refCtrlWrite
  grind [State.Ok, foldl_ok, State.sf_ok, State.storeInterval_ok]

theorem refCtrlWrite_keeps {s0 : State} {ps : List Region} (v : Word) (events : Word) (s : State) (h_s : Keeps s0 s
    ps) : Keeps s0 (refCtrlWrite v events s) ps := by
  unfold refCtrlWrite
  grind [foldl_keeps', State.sf_keeps, State.storeInterval_keeps]

theorem execPcRefCtrlWrite_ok (v : Word) (events : Word) (s : State) (h_s : s.Ok) : ∀ x, (execPcRefCtrlWrite v events
    s) = .next x → x.Ok := by
  unfold execPcRefCtrlWrite
  grind [State.Ok, foldl_ok, State.mgtWrite_ok, refCtrlWrite_ok]

theorem execPcRefCtrlWrite_keeps {s0 : State} {ps : List Region} (v : Word) (events : Word) (s : State) (h_s : Keeps
    s0 s ps) (m_mgt : Region.mgt ∈ ps) : ∀ x, (execPcRefCtrlWrite v events s) = .next x → Keeps s0 x ps := by
  unfold execPcRefCtrlWrite
  grind [foldl_keeps', State.mgtWrite_keeps, refCtrlWrite_keeps]

theorem refTempWrite_ok (v : Word) (s : State) (h_s : s.Ok) : (refTempWrite v s).Ok := by
  unfold refTempWrite
  grind [State.Ok, foldl_ok, State.raiseIf_ok, State.wr_ok]

theorem refTempWrite_keeps {s0 : State} {ps : List Region} (v : Word) (s : State) (h_s : Keeps s0 s ps) : Keeps s0
    (refTempWrite v s) ps := by
  unfold refTempWrite
  grind [foldl_keeps', State.raiseIf_keeps, State.wr_keeps]

theorem execPcRefTempWrite_ok (v : Word) (s : State) (h_s : s.Ok) : ∀ x, (execPcRefTempWrite v s) = .next x → x.Ok :=
    by
  unfold execPcRefTempWrite
  grind [State.Ok, foldl_ok, State.mgtWrite_ok, refTempWrite_ok]

theorem execPcRefTempWrite_keeps {s0 : State} {ps : List Region} (v : Word) (s : State) (h_s : Keeps s0 s ps) (m_mgt :
    Region.mgt ∈ ps) : ∀ x, (execPcRefTempWrite v s) = .next x → Keeps s0 x ps := by
  unfold execPcRefTempWrite
  grind [foldl_keeps', State.mgtWrite_keeps, refTempWrite_keeps]

theorem laceWrite_ok (v : Word) (s : State) (h_s : s.Ok) : (laceWrite v s).Ok := by
  unfold laceWrite
  grind [State.Ok, foldl_ok, State.wr_ok]

theorem laceWrite_keeps {s0 : State} {ps : List Region} (v : Word) (s : State) (h_s : Keeps s0 s ps) : Keeps s0
    (laceWrite v s) ps := by
  unfold laceWrite
  grind [foldl_keeps', State.wr_keeps]

theorem execPcLaceWrite_ok (v : Word) (s : State) (h_s : s.Ok) : ∀ x, (execPcLaceWrite v s) = .next x → x.Ok := by
  unfold execPcLaceWrite
  grind [State.Ok, foldl_ok, State.mgtWrite_ok, laceWrite_ok]

theorem execPcLaceWrite_keeps {s0 : State} {ps : List Region} (v : Word) (s : State) (h_s : Keeps s0 s ps) (m_mgt :
    Region.mgt ∈ ps) : ∀ x, (execPcLaceWrite v s) = .next x → Keeps s0 x ps := by
  unfold execPcLaceWrite
  grind [foldl_keeps', State.mgtWrite_keeps, laceWrite_keeps]

end Sys2Proof.Machine
end

