-- ==== Sys2Proof/Laws/Coherent.lean ====
section
/-! SUPPORT. Two lemmas for every operation of Machine/Coherent.lean. `…_ok`: the register table and the stack's memory stay
canonical. `…_keeps`: what agrees with a state outside a list of regions that holds those the operation can change still
agrees afterwards. -/

namespace Sys2Proof.Machine

set_option Elab.async false

theorem State.readied_ok (s : State) (addr : Nat) (h_s : s.Ok) : (State.readied s addr).Ok := by
  unfold State.readied
  grind [State.Ok, foldl_ok, State.modSlice_ok]

theorem State.readied_keeps {s0 : State} {ps : List Region} (s : State) (addr : Nat) (h_s : Keeps s0 s ps) (m_paths :
    Region.paths ∈ ps) : Keeps s0 (State.readied s addr) ps := by
  unfold State.readied
  grind [foldl_keeps', State.modSlice_keeps]

theorem State.caughtUp_ok (s : State) (addr : Nat) (h_s : s.Ok) : (State.caughtUp s addr).Ok := by
  unfold State.caughtUp
  grind [State.Ok, foldl_ok, State.modSlice_ok, State.readied_ok, State.serve_ok]

theorem State.caughtUp_keeps {s0 : State} {ps : List Region} (s : State) (addr : Nat) (h_s : Keeps s0 s ps) (m_paths :
    Region.paths ∈ ps) (m_inbox : Region.inbox ∈ ps) (m_ring : Region.ring ∈ ps) (m_tags : Region.tags ∈ ps) (m_inj :
    Region.inj ∈ ps) : Keeps s0 (State.caughtUp s addr) ps := by
  unfold State.caughtUp
  grind [foldl_keeps', State.modSlice_keeps, State.readied_keeps, State.serve_keeps]

theorem State.usedPeek_ok (s : State) (h_s : s.Ok) : (State.usedPeek s).Ok := by
  unfold State.usedPeek
  grind [State.Ok, foldl_ok, State.tick_ok]

theorem State.usedPeek_keeps {s0 : State} {ps : List Region} (s : State) (h_s : Keeps s0 s ps) (m_free : Region.free ∈
    ps) : Keeps s0 (State.usedPeek s) ps := by
  unfold State.usedPeek
  grind [foldl_keeps', State.tick_keeps]

theorem State.issueBytes_ok (s : State) (src : Src) (hint : Hint) (cls : Nat) (addr : Nat) (data : List (Option Byte))
    (h_s : s.Ok) : (State.issueBytes s src hint cls addr data).Ok := by
  unfold State.issueBytes
  grind [State.Ok, foldl_ok, State.ingress_ok, State.skipIds_ok]

theorem State.issueBytes_keeps {s0 : State} {ps : List Region} (s : State) (src : Src) (hint : Hint) (cls : Nat) (addr
    : Nat) (data : List (Option Byte)) (h_s : Keeps s0 s ps) (m_paths : Region.paths ∈ ps) (m_ring : Region.ring ∈ ps)
    (m_tags : Region.tags ∈ ps) (m_inj : Region.inj ∈ ps) : Keeps s0 (State.issueBytes s src hint cls addr data) ps :=
    by
  unfold State.issueBytes
  grind [foldl_keeps', State.ingress_keeps, State.skipIds_keeps]

theorem State.issueWrite_ok (s : State) (src : Src) (hint : Hint) (cls : Nat) (addr : Nat) (data : List Byte) (h_s :
    s.Ok) : (State.issueWrite s src hint cls addr data).Ok := by
  unfold State.issueWrite
  grind [State.Ok, foldl_ok, State.issueBytes_ok]

theorem State.issueWrite_keeps {s0 : State} {ps : List Region} (s : State) (src : Src) (hint : Hint) (cls : Nat) (addr
    : Nat) (data : List Byte) (h_s : Keeps s0 s ps) (m_paths : Region.paths ∈ ps) (m_ring : Region.ring ∈ ps) (m_tags
    : Region.tags ∈ ps) (m_inj : Region.inj ∈ ps) : Keeps s0 (State.issueWrite s src hint cls addr data) ps := by
  unfold State.issueWrite
  grind [foldl_keeps', State.issueBytes_keeps]

theorem State.dropDone_ok (s : State) (id : Nat) (h_s : s.Ok) : (State.dropDone s id).Ok := by
  unfold State.dropDone
  grind [State.Ok, foldl_ok, State.modPaths_ok]

theorem State.dropDone_keeps {s0 : State} {ps : List Region} (s : State) (id : Nat) (h_s : Keeps s0 s ps) (m_paths :
    Region.paths ∈ ps) : Keeps s0 (State.dropDone s id) ps := by
  unfold State.dropDone
  grind [foldl_keeps', State.modPaths_keeps]

theorem State.fetch_ok (s : State) (src : Src) (hint : Hint) (cls : Nat) (unit : Nat) (addr : Nat) (len : Nat) (h_s :
    s.Ok) : (State.fetch s src hint cls unit addr len).2.Ok := by
  unfold State.fetch
  grind [State.Ok, foldl_ok, State.dropDone_ok, State.ingress_ok, State.skipIds_ok, State.usedPeek_ok]

theorem State.fetch_keeps {s0 : State} {ps : List Region} (s : State) (src : Src) (hint : Hint) (cls : Nat) (unit :
    Nat) (addr : Nat) (len : Nat) (h_s : Keeps s0 s ps) (m_free : Region.free ∈ ps) (m_paths : Region.paths ∈ ps)
    (m_ring : Region.ring ∈ ps) (m_tags : Region.tags ∈ ps) (m_inj : Region.inj ∈ ps) : Keeps s0 (State.fetch s src
    hint cls unit addr len).2 ps := by
  unfold State.fetch
  grind [foldl_keeps', State.dropDone_keeps, State.ingress_keeps, State.skipIds_keeps, State.usedPeek_keeps]

theorem State.drainWrites_ok (s : State) (p : Fin 64) (h_s : s.Ok) : (State.drainWrites s p).Ok := by
  unfold State.drainWrites
  grind [State.Ok, foldl_ok, State.finishReplay_ok, State.iff_ok, State.kbFree_ok, State.modPc_ok, State.putBurst_ok,
    State.tick_ok]

theorem State.drainWrites_keeps {s0 : State} {ps : List Region} (s : State) (p : Fin 64) (h_s : Keeps s0 s ps) (m_free
    : Region.free ∈ ps) (m_pcs : Region.pcs ∈ ps) (m_stack : Region.stack ∈ ps) (m_inbox : Region.inbox ∈ ps) : Keeps
    s0 (State.drainWrites s p) ps := by
  unfold State.drainWrites
  grind [foldl_keeps', State.finishReplay_keeps, State.iff_keeps, State.kbFree_keeps, State.modPc_keeps,
    State.putBurst_keeps, State.tick_keeps]

theorem State.drainReads_ok (s : State) (p : Fin 64) (h_s : s.Ok) : (State.drainReads s p).Ok := by
  unfold State.drainReads
  grind [State.Ok, foldl_ok, State.iff_ok, State.modPc_ok, State.readEffects_ok, State.serve_ok, State.serveRead_ok,
    State.tick_ok]

theorem State.drainReads_keeps {s0 : State} {ps : List Region} (s : State) (p : Fin 64) (h_s : Keeps s0 s ps) (m_free
    : Region.free ∈ ps) (m_paths : Region.paths ∈ ps) (m_pcs : Region.pcs ∈ ps) (m_inbox : Region.inbox ∈ ps) (m_ring
    : Region.ring ∈ ps) (m_tags : Region.tags ∈ ps) (m_inj : Region.inj ∈ ps) : Keeps s0 (State.drainReads s p) ps :=
    by
  unfold State.drainReads
  grind [foldl_keeps', State.iff_keeps, State.modPc_keeps, State.readEffects_keeps, State.serve_keeps,
    State.serveRead_keeps, State.tick_keeps]

theorem State.landWrites_ok (s : State) (h_s : s.Ok) : (State.landWrites s).Ok := by
  unfold State.landWrites
  grind [State.Ok, foldl_ok, State.modPaths_ok, State.arrive_ok]

theorem State.landWrites_keeps {s0 : State} {ps : List Region} (s : State) (h_s : Keeps s0 s ps) (m_paths :
    Region.paths ∈ ps) (m_pcs : Region.pcs ∈ ps) (m_ring : Region.ring ∈ ps) (m_tags : Region.tags ∈ ps) (m_inj :
    Region.inj ∈ ps) : Keeps s0 (State.landWrites s) ps := by
  unfold State.landWrites
  grind [foldl_keeps', State.modPaths_keeps, State.arrive_keeps]

theorem State.drainAll_ok (s : State) (h_s : s.Ok) : (State.drainAll s).Ok := by
  unfold State.drainAll
  grind [State.Ok, foldl_ok, State.drainWrites_ok, State.drainReads_ok, State.landWrites_ok]

theorem State.drainAll_keeps {s0 : State} {ps : List Region} (s : State) (h_s : Keeps s0 s ps) (m_free : Region.free ∈
    ps) (m_paths : Region.paths ∈ ps) (m_pcs : Region.pcs ∈ ps) (m_stack : Region.stack ∈ ps) (m_inbox : Region.inbox
    ∈ ps) (m_ring : Region.ring ∈ ps) (m_tags : Region.tags ∈ ps) (m_inj : Region.inj ∈ ps) : Keeps s0 (State.drainAll
    s) ps := by
  unfold State.drainAll
  grind [foldl_keeps', State.drainWrites_keeps, State.drainReads_keeps, State.landWrites_keeps]

theorem State.cleanAll_ok (s : State) (h_s : s.Ok) : (State.cleanAll s).Ok := by
  unfold State.cleanAll
  grind [State.Ok, foldl_ok, State.writeBackLine_ok, State.modSlice_ok]

theorem State.cleanAll_keeps {s0 : State} {ps : List Region} (s : State) (h_s : Keeps s0 s ps) (m_paths : Region.paths
    ∈ ps) : Keeps s0 (State.cleanAll s) ps := by
  unfold State.cleanAll
  grind [foldl_keeps', State.writeBackLine_keeps, State.modSlice_keeps]

end Sys2Proof.Machine
end

