-- ==== Sys2Proof/Laws/EngOps.lean ====
section
/-! SUPPORT. Two lemmas for every operation of Machine/EngOps.lean. `…_ok`: the register table and the stack's memory stay
canonical. `…_keeps`: what agrees with a state outside a list of regions that holds those the operation can change still
agrees afterwards. -/

namespace Sys2Proof.Machine

set_option Elab.async false

theorem State.modSched_ok (s : State) (f : Sched → Sched) (h_s : s.Ok) : (State.modSched s f).Ok := by
  unfold State.modSched
  grind [State.Ok, foldl_ok]

theorem State.modSched_keeps {s0 : State} {ps : List Region} (s : State) (f : Sched → Sched) (h_s : Keeps s0 s ps)
    (m_sched : Region.sched ∈ ps) : Keeps s0 (State.modSched s f) ps := by
  unfold State.modSched
  grind [foldl_keeps', Keeps.set_sched]

theorem State.modSeq_ok (s : State) (f : Sequencer → Sequencer) (h_s : s.Ok) : (State.modSeq s f).Ok := by
  unfold State.modSeq
  grind [State.Ok, foldl_ok]

theorem State.modSeq_keeps {s0 : State} {ps : List Region} (s : State) (f : Sequencer → Sequencer) (h_s : Keeps s0 s
    ps) (m_seq : Region.seq ∈ ps) : Keeps s0 (State.modSeq s f) ps := by
  unfold State.modSeq
  grind [foldl_keeps', Keeps.set_seq]

theorem State.modPk_ok (s : State) (k : Pk) (f : Packet → Packet) (h_s : s.Ok) : (State.modPk s k f).Ok := by
  unfold State.modPk
  grind [State.Ok, foldl_ok, State.modSched_ok]

theorem State.modPk_keeps {s0 : State} {ps : List Region} (s : State) (k : Pk) (f : Packet → Packet) (h_s : Keeps s0 s
    ps) (m_sched : Region.sched ∈ ps) : Keeps s0 (State.modPk s k f) ps := by
  unfold State.modPk
  grind [foldl_keeps', State.modSched_keeps]

theorem State.finish_ok (s : State) (k : Pk) (st : Status) (detail : Nat) (deckle : Nat) (h_s : s.Ok) : (State.finish
    s k st detail deckle).Ok := by
  unfold State.finish
  grind [State.Ok, foldl_ok, State.modPk_ok]

theorem State.finish_keeps {s0 : State} {ps : List Region} (s : State) (k : Pk) (st : Status) (detail : Nat) (deckle :
    Nat) (h_s : Keeps s0 s ps) (m_sched : Region.sched ∈ ps) : Keeps s0 (State.finish s k st detail deckle) ps := by
  unfold State.finish
  grind [foldl_keeps', State.modPk_keeps]

theorem State.loadPk_ok (s : State) (k : Pk) (h_s : s.Ok) : (State.loadPk s k).Ok := by
  unfold State.loadPk
  grind [State.Ok, foldl_ok, State.modPk_ok]

theorem State.loadPk_keeps {s0 : State} {ps : List Region} (s : State) (k : Pk) (h_s : Keeps s0 s ps) (m_sched :
    Region.sched ∈ ps) : Keeps s0 (State.loadPk s k) ps := by
  unfold State.loadPk
  grind [foldl_keeps', State.modPk_keeps]

theorem State.complete'_ok (s : State) (k : Pk) (st : Status) (detail : Nat) (deckle : Nat) (h_s : s.Ok) :
    (State.complete' s k st detail deckle).Ok := by
  unfold State.complete'
  grind [State.Ok, foldl_ok, State.finish_ok, State.loadPk_ok]

theorem State.complete'_keeps {s0 : State} {ps : List Region} (s : State) (k : Pk) (st : Status) (detail : Nat)
    (deckle : Nat) (h_s : Keeps s0 s ps) (m_sched : Region.sched ∈ ps) : Keeps s0 (State.complete' s k st detail
    deckle) ps := by
  unfold State.complete'
  grind [foldl_keeps', State.finish_keeps, State.loadPk_keeps]

theorem State.pkWrite_ok (s : State) (k : Pk) (src : Src) (hint : Hint) (addr : Nat) (data : List (Option Byte)) (h_s
    : s.Ok) : (State.pkWrite s k src hint addr data).Ok := by
  unfold State.pkWrite
  grind [State.Ok, foldl_ok, State.modPk_ok, State.issueBytes_ok]

theorem State.pkWrite_keeps {s0 : State} {ps : List Region} (s : State) (k : Pk) (src : Src) (hint : Hint) (addr :
    Nat) (data : List (Option Byte)) (h_s : Keeps s0 s ps) (m_paths : Region.paths ∈ ps) (m_ring : Region.ring ∈ ps)
    (m_sched : Region.sched ∈ ps) (m_tags : Region.tags ∈ ps) (m_inj : Region.inj ∈ ps) : Keeps s0 (State.pkWrite s k
    src hint addr data) ps := by
  unfold State.pkWrite
  grind [foldl_keeps', State.modPk_keeps, State.issueBytes_keeps]

theorem State.progressed_ok (s : State) (b : Fin 32) (h_s : s.Ok) : (State.progressed s b).Ok := by
  unfold State.progressed
  grind [State.Ok, foldl_ok, State.modSeq_ok]

theorem State.progressed_keeps {s0 : State} {ps : List Region} (s : State) (b : Fin 32) (h_s : Keeps s0 s ps) (m_seq :
    Region.seq ∈ ps) : Keeps s0 (State.progressed s b) ps := by
  unfold State.progressed
  grind [foldl_keeps', State.modSeq_keeps]

theorem State.readDesc_ok (s : State) (t : Nat) (h_s : s.Ok) : (State.readDesc s t).2.Ok := by
  unfold State.readDesc
  grind [State.Ok, foldl_ok, State.fetch_ok]

theorem State.readDesc_keeps {s0 : State} {ps : List Region} (s : State) (t : Nat) (h_s : Keeps s0 s ps) (m_free :
    Region.free ∈ ps) (m_paths : Region.paths ∈ ps) (m_ring : Region.ring ∈ ps) (m_tags : Region.tags ∈ ps) (m_inj :
    Region.inj ∈ ps) : Keeps s0 (State.readDesc s t).2 ps := by
  unfold State.readDesc
  grind [foldl_keeps', State.fetch_keeps]

theorem State.putSig_ok (s : State) (o : SigOp) (h_s : s.Ok) : (State.putSig s o).Ok := by
  unfold State.putSig
  grind [State.Ok, foldl_ok, State.modSeq_ok]

theorem State.putSig_keeps {s0 : State} {ps : List Region} (s : State) (o : SigOp) (h_s : Keeps s0 s ps) (m_seq :
    Region.seq ∈ ps) : Keeps s0 (State.putSig s o) ps := by
  unfold State.putSig
  grind [foldl_keeps', State.modSeq_keeps]

theorem State.sigEnd_ok (s : State) (o' : SigOp) (h_s : s.Ok) : (State.sigEnd s o').Ok := by
  unfold State.sigEnd
  grind [State.Ok, foldl_ok, State.complete'_ok, State.modSeq_ok, State.putSig_ok]

theorem State.sigEnd_keeps {s0 : State} {ps : List Region} (s : State) (o' : SigOp) (h_s : Keeps s0 s ps) (m_sched :
    Region.sched ∈ ps) (m_seq : Region.seq ∈ ps) : Keeps s0 (State.sigEnd s o') ps := by
  unfold State.sigEnd
  grind [foldl_keeps', State.complete'_keeps, State.modSeq_keeps, State.putSig_keeps]

theorem State.settleOps_ok (s : State) (h_s : s.Ok) : (State.settleOps s).Ok := by
  unfold State.settleOps
  grind [State.Ok, foldl_ok, State.sigEnd_ok]

theorem State.settleOps_keeps {s0 : State} {ps : List Region} (s : State) (h_s : Keeps s0 s ps) (m_sched :
    Region.sched ∈ ps) (m_seq : Region.seq ∈ ps) : Keeps s0 (State.settleOps s) ps := by
  unfold State.settleOps
  grind [foldl_keeps', State.sigEnd_keeps]

theorem State.pressEnd_ok (s : State) (o : PressOp) (h_s : s.Ok) : (State.pressEnd s o).Ok := by
  unfold State.pressEnd
  grind [State.Ok, foldl_ok, State.modSeq_ok, State.complete'_ok]

theorem State.pressEnd_keeps {s0 : State} {ps : List Region} (s : State) (o : PressOp) (h_s : Keeps s0 s ps) (m_sched
    : Region.sched ∈ ps) (m_seq : Region.seq ∈ ps) : Keeps s0 (State.pressEnd s o) ps := by
  unfold State.pressEnd
  grind [foldl_keeps', State.modSeq_keeps, State.complete'_keeps]

theorem State.ewEnd_ok (s : State) (o : EwOp) (st : Status) (detail : Nat) (h_s : s.Ok) : (State.ewEnd s o st
    detail).Ok := by
  unfold State.ewEnd
  grind [State.Ok, foldl_ok, State.complete'_ok, State.modSeq_ok]

theorem State.ewEnd_keeps {s0 : State} {ps : List Region} (s : State) (o : EwOp) (st : Status) (detail : Nat) (h_s :
    Keeps s0 s ps) (m_sched : Region.sched ∈ ps) (m_seq : Region.seq ∈ ps) : Keeps s0 (State.ewEnd s o st detail) ps
    := by
  unfold State.ewEnd
  grind [foldl_keeps', State.complete'_keeps, State.modSeq_keeps]

theorem State.putPress_ok (s : State) (o : PressOp) (h_s : s.Ok) : (State.putPress s o).Ok := by
  unfold State.putPress
  grind [State.Ok, foldl_ok, State.modSeq_ok]

theorem State.putPress_keeps {s0 : State} {ps : List Region} (s : State) (o : PressOp) (h_s : Keeps s0 s ps) (m_seq :
    Region.seq ∈ ps) : Keeps s0 (State.putPress s o) ps := by
  unfold State.putPress
  grind [foldl_keeps', State.modSeq_keeps]

theorem State.putEw_ok (s : State) (o : EwOp) (h_s : s.Ok) : (State.putEw s o).Ok := by
  unfold State.putEw
  grind [State.Ok, foldl_ok, State.modSeq_ok]

theorem State.putEw_keeps {s0 : State} {ps : List Region} (s : State) (o : EwOp) (h_s : Keeps s0 s ps) (m_seq :
    Region.seq ∈ ps) : Keeps s0 (State.putEw s o) ps := by
  unfold State.putEw
  grind [foldl_keeps', State.modSeq_keeps]

theorem State.setBack_ok (s : State) (e : EngOp) (h_s : s.Ok) : (State.setBack s e).Ok := by
  unfold State.setBack
  grind [State.Ok, foldl_ok, State.modSeq_ok, State.putPress_ok, State.putSig_ok]

theorem State.setBack_keeps {s0 : State} {ps : List Region} (s : State) (e : EngOp) (h_s : Keeps s0 s ps) (m_seq :
    Region.seq ∈ ps) : Keeps s0 (State.setBack s e) ps := by
  unfold State.setBack
  grind [foldl_keeps', State.modSeq_keeps, State.putPress_keeps, State.putSig_keeps]

theorem State.endOp_ok (s : State) (e : EngOp) (st : Status) (h_s : s.Ok) : (State.endOp s e st).Ok := by
  unfold State.endOp
  grind [State.Ok, foldl_ok, State.sigEnd_ok, State.putSig_ok, State.modSeq_ok, State.pressEnd_ok, State.putPress_ok,
      State.ewEnd_ok]

theorem State.endOp_keeps {s0 : State} {ps : List Region} (s : State) (e : EngOp) (st : Status) (h_s : Keeps s0 s ps)
    (m_sched : Region.sched ∈ ps) (m_seq : Region.seq ∈ ps) : Keeps s0 (State.endOp s e st) ps := by
  unfold State.endOp
  grind [foldl_keeps', State.sigEnd_keeps, State.putSig_keeps, State.modSeq_keeps, State.pressEnd_keeps,
      State.putPress_keeps, State.ewEnd_keeps]

end Sys2Proof.Machine
end

