-- ==== Sys2Proof/Laws/Queue.lean ====
section
/-! SUPPORT. Two lemmas for every operation of Machine/Queue.lean. `…_ok`: the register table and the stack's memory stay
canonical. `…_keeps`: what agrees with a state outside a list of regions that holds those the operation can change still
agrees afterwards. -/

namespace Sys2Proof.Machine

set_option Elab.async false

theorem State.qSet_ok (s : State) (q : Fin 64) (st : Nat) (cause : Nat) (h_s : s.Ok) : (State.qSet s q st cause).Ok :=
    by
  unfold State.qSet
  grind [State.Ok, foldl_ok, State.sf_ok]

theorem State.qSet_keeps {s0 : State} {ps : List Region} (s : State) (q : Fin 64) (st : Nat) (cause : Nat) (h_s :
    Keeps s0 s ps) : Keeps s0 (State.qSet s q st cause) ps := by
  unfold State.qSet
  grind [foldl_keeps', State.sf_keeps]

theorem State.qHalt_ok (s : State) (q : Fin 64) (cause : Nat) (h_s : s.Ok) : (State.qHalt s q cause).Ok := by
  unfold State.qHalt
  grind [State.Ok, foldl_ok, State.qSet_ok]

theorem State.qHalt_keeps {s0 : State} {ps : List Region} (s : State) (q : Fin 64) (cause : Nat) (h_s : Keeps s0 s ps)
    : Keeps s0 (State.qHalt s q cause) ps := by
  unfold State.qHalt
  grind [foldl_keeps', State.qSet_keeps]

theorem State.qZero_ok (s : State) (q : Fin 64) (h_s : s.Ok) : (State.qZero s q).Ok := by
  unfold State.qZero
  grind [State.Ok, foldl_ok, State.wr_ok, State.modSched_ok]

theorem State.qZero_keeps {s0 : State} {ps : List Region} (s : State) (q : Fin 64) (h_s : Keeps s0 s ps) (m_sched :
    Region.sched ∈ ps) : Keeps s0 (State.qZero s q) ps := by
  unfold State.qZero
  grind [foldl_keeps', State.wr_keeps, State.modSched_keeps]

theorem doorbell_ok (q : Fin 64) (tail : Word) (s : State) (h_s : s.Ok) : ∀ x, (doorbell q tail s) = some x → x.Ok :=
    by
  unfold doorbell
  generalize (2 ^ 31 : Nat) = k
  repeat' split
  all_goals grind [State.Ok, State.qHalt_ok, State.modSched_ok, State.wr_ok]

theorem doorbell_keeps {s0 : State} {ps : List Region} (q : Fin 64) (tail : Word) (s : State) (h_s : Keeps s0 s ps)
    (m_sched : Region.sched ∈ ps) : ∀ x, (doorbell q tail s) = some x → Keeps s0 x ps := by
  intro x hx
  unfold doorbell at hx
  split at hx
  · cases hx
  · simp only [Option.some.injEq] at hx
    subst hx
    refine ite_keeps h_s (ite_keeps ?_ (ite_keeps h_s ?_))
    · exact State.qHalt_keeps _ _ _ h_s
    · exact State.modSched_keeps _ _ (State.wr_keeps _ _ _ h_s) m_sched

theorem execDoorbell_ok (q : Fin 64) (tail : Word) (s : State) (h_s : s.Ok) : ∀ x, (execDoorbell q tail s) = .next x →
    x.Ok := by
  unfold execDoorbell
  grind [State.Ok, foldl_ok, State.emuWrite_ok, doorbell_ok]

theorem execDoorbell_keeps {s0 : State} {ps : List Region} (q : Fin 64) (tail : Word) (s : State) (h_s : Keeps s0 s
    ps) (m_mgt : Region.mgt ∈ ps) (m_sched : Region.sched ∈ ps) : ∀ x, (execDoorbell q tail s) = .next x → Keeps s0 x
    ps := by
  unfold execDoorbell
  grind [foldl_keeps', State.emuWrite_keeps, doorbell_keeps]

theorem State.qResetEnd_ok (s : State) (q : Fin 64) (h_s : s.Ok) : (State.qResetEnd s q).Ok := by
  unfold State.qResetEnd
  grind [State.Ok, foldl_ok, State.sf_ok, State.qSet_ok, State.qZero_ok, State.wr64_ok]

theorem State.qResetEnd_keeps {s0 : State} {ps : List Region} (s : State) (q : Fin 64) (h_s : Keeps s0 s ps) (m_sched
    : Region.sched ∈ ps) : Keeps s0 (State.qResetEnd s q) ps := by
  unfold State.qResetEnd
  grind [foldl_keeps', State.sf_keeps, State.qSet_keeps, State.qZero_keeps, State.wr64_keeps]

theorem State.collEnd_ok (s : State) (k : Pk) (st : Status) (detail : Nat) (deckle : Nat) (h_s : s.Ok) :
    (State.collEnd s k st detail deckle).Ok := by
  unfold State.collEnd
  grind [State.Ok, foldl_ok, State.complete'_ok, State.modSched_ok]

theorem State.collEnd_keeps {s0 : State} {ps : List Region} (s : State) (k : Pk) (st : Status) (detail : Nat) (deckle
    : Nat) (h_s : Keeps s0 s ps) (m_sched : Region.sched ∈ ps) : Keeps s0 (State.collEnd s k st detail deckle) ps :=
    by
  unfold State.collEnd
  grind [foldl_keeps', State.complete'_keeps, State.modSched_keeps]

theorem State.collStop_ok (s : State) (c : Coll) (st : Status) (detail : Nat) (h_s : s.Ok) : (State.collStop s c st
    detail).Ok := by
  unfold State.collStop
  grind [State.Ok, foldl_ok, State.collEnd_ok, State.tick_ok]

theorem State.collStop_keeps {s0 : State} {ps : List Region} (s : State) (c : Coll) (st : Status) (detail : Nat) (h_s
    : Keeps s0 s ps) (m_free : Region.free ∈ ps) (m_sched : Region.sched ∈ ps) : Keeps s0 (State.collStop s c st
    detail) ps := by
  unfold State.collStop
  grind [foldl_keeps', State.collEnd_keeps, State.tick_keeps]

theorem State.endHeld_ok (s : State) (p : Packet) (st : Status) (h_s : s.Ok) : (State.endHeld s p st).Ok := by
  unfold State.endHeld
  grind [State.Ok, foldl_ok, State.finish_ok, State.complete'_ok]

theorem State.endHeld_keeps {s0 : State} {ps : List Region} (s : State) (p : Packet) (st : Status) (h_s : Keeps s0 s
    ps) (m_sched : Region.sched ∈ ps) : Keeps s0 (State.endHeld s p st) ps := by
  unfold State.endHeld
  grind [foldl_keeps', State.finish_keeps, State.complete'_keeps]

theorem State.endRunning_ok (s : State) (p : Packet) (st : Status) (h_s : s.Ok) : (State.endRunning s p st).Ok := by
  unfold State.endRunning
  grind [State.Ok, foldl_ok, State.modPk_ok, State.endOp_ok, State.collStop_ok, State.modPaths_ok, State.modSched_ok,
      State.complete'_ok, State.endHeld_ok]

theorem State.endRunning_keeps {s0 : State} {ps : List Region} (s : State) (p : Packet) (st : Status) (h_s : Keeps s0
    s ps) (m_free : Region.free ∈ ps) (m_paths : Region.paths ∈ ps) (m_sched : Region.sched ∈ ps) (m_seq : Region.seq
    ∈ ps) : Keeps s0 (State.endRunning s p st) ps := by
  unfold State.endRunning
  grind [foldl_keeps', State.modPk_keeps, State.endOp_keeps, State.collStop_keeps, State.modPaths_keeps,
      State.modSched_keeps, State.complete'_keeps, State.endHeld_keeps]

theorem State.qReset_ok (s : State) (q : Fin 64) (h_s : s.Ok) : (State.qReset s q).Ok := by
  unfold State.qReset
  grind [State.Ok, foldl_ok, State.sf_ok, State.qSet_ok, State.modSched_ok, State.endRunning_ok, State.qResetEnd_ok]

theorem State.qReset_keeps {s0 : State} {ps : List Region} (s : State) (q : Fin 64) (h_s : Keeps s0 s ps) (m_free :
    Region.free ∈ ps) (m_paths : Region.paths ∈ ps) (m_sched : Region.sched ∈ ps) (m_seq : Region.seq ∈ ps) : Keeps s0
    (State.qReset s q) ps := by
  unfold State.qReset
  grind [foldl_keeps', State.sf_keeps, State.qSet_keeps, State.modSched_keeps, State.endRunning_keeps,
      State.qResetEnd_keeps]

theorem State.qcfg_ok (s : State) (q : Fin 64) (v : Word) (h_s : s.Ok) : (State.qcfg s q v).Ok := by
  unfold State.qcfg
  grind [State.Ok, foldl_ok, State.wr_ok, State.qReset_ok, State.qZero_ok, State.sf_ok, State.qSet_ok]

theorem State.qcfg_keeps {s0 : State} {ps : List Region} (s : State) (q : Fin 64) (v : Word) (h_s : Keeps s0 s ps)
    (m_free : Region.free ∈ ps) (m_paths : Region.paths ∈ ps) (m_sched : Region.sched ∈ ps) (m_seq : Region.seq ∈ ps)
    : Keeps s0 (State.qcfg s q v) ps := by
  unfold State.qcfg
  grind [foldl_keeps', State.wr_keeps, State.qReset_keeps, State.qZero_keeps, State.sf_keeps, State.qSet_keeps]

theorem execQueueEnable_ok (q : Fin 64) (v : Word) (s : State) (h_s : s.Ok) : ∀ x, (execQueueEnable q v s) = .next x →
    x.Ok := by
  unfold execQueueEnable
  grind [State.Ok, foldl_ok, State.emuWrite_ok, State.qcfg_ok]

theorem execQueueEnable_keeps {s0 : State} {ps : List Region} (q : Fin 64) (v : Word) (s : State) (h_s : Keeps s0 s
    ps) (m_free : Region.free ∈ ps) (m_mgt : Region.mgt ∈ ps) (m_paths : Region.paths ∈ ps) (m_sched : Region.sched ∈
    ps) (m_seq : Region.seq ∈ ps) : ∀ x, (execQueueEnable q v s) = .next x → Keeps s0 x ps := by
  unfold execQueueEnable
  grind [foldl_keeps', State.emuWrite_keeps, State.qcfg_keeps]

theorem execQueueReset_ok (q : Fin 64) (v : Word) (s : State) (h_s : s.Ok) : ∀ x, (execQueueReset q v s) = .next x →
    x.Ok := by
  unfold execQueueReset
  grind [State.Ok, foldl_ok, State.emuWrite_ok, State.qcfg_ok]

theorem execQueueReset_keeps {s0 : State} {ps : List Region} (q : Fin 64) (v : Word) (s : State) (h_s : Keeps s0 s ps)
    (m_free : Region.free ∈ ps) (m_mgt : Region.mgt ∈ ps) (m_paths : Region.paths ∈ ps) (m_sched : Region.sched ∈ ps)
    (m_seq : Region.seq ∈ ps) : ∀ x, (execQueueReset q v s) = .next x → Keeps s0 x ps := by
  unfold execQueueReset
  grind [foldl_keeps', State.emuWrite_keeps, State.qcfg_keeps]

theorem execQueueIrqAck_ok (q : Fin 64) (ack : Word) (s : State) (h_s : s.Ok) : ∀ x, (execQueueIrqAck q ack s) = .next
    x → x.Ok := by
  unfold execQueueIrqAck
  grind [State.Ok, foldl_ok, State.emuWrite_ok, State.sf64_ok]

theorem execQueueIrqAck_keeps {s0 : State} {ps : List Region} (q : Fin 64) (ack : Word) (s : State) (h_s : Keeps s0 s
    ps) (m_mgt : Region.mgt ∈ ps) : ∀ x, (execQueueIrqAck q ack s) = .next x → Keeps s0 x ps := by
  unfold execQueueIrqAck
  grind [foldl_keeps', State.emuWrite_keeps, State.sf64_keeps]

theorem State.fetchFrom_ok (s : State) (q : Fin 64) (h_s : s.Ok) : (State.fetchFrom s q).Ok := by
  unfold State.fetchFrom
  grind [State.Ok, foldl_ok, State.fetch_ok, State.modSched_ok, State.qHalt_ok, State.wr_ok]

theorem State.fetchFrom_keeps {s0 : State} {ps : List Region} (s : State) (q : Fin 64) (h_s : Keeps s0 s ps) (m_free :
    Region.free ∈ ps) (m_paths : Region.paths ∈ ps) (m_ring : Region.ring ∈ ps) (m_sched : Region.sched ∈ ps) (m_tags
    : Region.tags ∈ ps) (m_inj : Region.inj ∈ ps) : Keeps s0 (State.fetchFrom s q) ps := by
  unfold State.fetchFrom
  grind [foldl_keeps', State.fetch_keeps, State.modSched_keeps, State.qHalt_keeps, State.wr_keeps]

theorem packetFetch_ok (s : State) (h_s : s.Ok) : (packetFetch s).Ok := by
  unfold packetFetch
  grind [State.Ok, foldl_ok, State.fetchFrom_ok]

theorem packetFetch_keeps {s0 : State} {ps : List Region} (s : State) (h_s : Keeps s0 s ps) (m_free : Region.free ∈
    ps) (m_paths : Region.paths ∈ ps) (m_ring : Region.ring ∈ ps) (m_sched : Region.sched ∈ ps) (m_tags : Region.tags
    ∈ ps) (m_inj : Region.inj ∈ ps) : Keeps s0 (packetFetch s) ps := by
  unfold packetFetch
  grind [foldl_keeps', State.fetchFrom_keeps]

theorem execPacketFetch_ok (s : State) (h_s : s.Ok) : ∀ x, (execPacketFetch s) = .next x → x.Ok := by
  unfold execPacketFetch
  grind [State.Ok, foldl_ok, packetFetch_ok]

theorem execPacketFetch_keeps {s0 : State} {ps : List Region} (s : State) (h_s : Keeps s0 s ps) (m_free : Region.free
    ∈ ps) (m_paths : Region.paths ∈ ps) (m_ring : Region.ring ∈ ps) (m_sched : Region.sched ∈ ps) (m_tags :
    Region.tags ∈ ps) (m_inj : Region.inj ∈ ps) : ∀ x, (execPacketFetch s) = .next x → Keeps s0 x ps := by
  unfold execPacketFetch
  grind [foldl_keeps', packetFetch_keeps]

theorem State.fetchFailed_ok (s : State) (p : Packet) (h_s : s.Ok) : (State.fetchFailed s p).Ok := by
  unfold State.fetchFailed
  grind [State.Ok, foldl_ok, State.modSched_ok, State.qHalt_ok, State.wr_ok]

theorem State.fetchFailed_keeps {s0 : State} {ps : List Region} (s : State) (p : Packet) (h_s : Keeps s0 s ps)
    (m_sched : Region.sched ∈ ps) : Keeps s0 (State.fetchFailed s p) ps := by
  unfold State.fetchFailed
  grind [foldl_keeps', State.modSched_keeps, State.qHalt_keeps, State.wr_keeps]

theorem packetIntake_ok (s' : State) (h_s' : s'.Ok) : (packetIntake s').Ok := by
  unfold packetIntake
  grind [State.Ok, foldl_ok, State.dropDone_ok, State.fetchFailed_ok, State.finish_ok, State.iff_ok, State.modPk_ok,
    State.modSched_ok, State.qHalt_ok]

theorem packetIntake_keeps {s0 : State} {ps : List Region} (s' : State) (h_s' : Keeps s0 s' ps) (m_paths :
    Region.paths ∈ ps) (m_sched : Region.sched ∈ ps) : Keeps s0 (packetIntake s') ps := by
  unfold packetIntake
  dsimp only
  repeat' first
      | with_reducible assumption
      | with_reducible apply ite_keeps
      | with_reducible refine foldl_keeps' (fun _ _ _ => ?_) _ ?_
      | with_reducible apply State.dropDone_keeps
      | with_reducible apply State.fetchFailed_keeps
      | with_reducible apply State.finish_keeps
      | with_reducible apply State.iff_keeps
      | with_reducible apply State.modPk_keeps
      | with_reducible apply State.modSched_keeps
      | with_reducible apply State.qHalt_keeps
      | split
  all_goals grind [foldl_keeps', State.dropDone_keeps, State.fetchFailed_keeps, State.finish_keeps, State.iff_keeps,
    State.modPk_keeps, State.modSched_keeps, State.qHalt_keeps]

theorem execPacketIntake_ok (s : State) (h_s : s.Ok) : ∀ x, (execPacketIntake s) = .next x → x.Ok := by
  unfold execPacketIntake
  grind [State.Ok, foldl_ok, State.onCore_ok, packetIntake_ok]

theorem execPacketIntake_keeps {s0 : State} {ps : List Region} (s : State) (h_s : Keeps s0 s ps) (m_paths :
    Region.paths ∈ ps) (m_sched : Region.sched ∈ ps) : ∀ x, (execPacketIntake s) = .next x → Keeps s0 x ps := by
  unfold execPacketIntake
  grind [foldl_keeps', State.onCore_keeps, packetIntake_keeps]

theorem packetStart_ok (q : Fin 64) (s : State) (h_s : s.Ok) : (packetStart q s).Ok := by
  unfold packetStart
  grind [State.Ok, foldl_ok, State.finish_ok, State.modPk_ok]

theorem packetStart_keeps {s0 : State} {ps : List Region} (q : Fin 64) (s : State) (h_s : Keeps s0 s ps) (m_sched :
    Region.sched ∈ ps) : Keeps s0 (packetStart q s) ps := by
  unfold packetStart
  grind [foldl_keeps', State.finish_keeps, State.modPk_keeps]

theorem execPacketStart_ok (q : Fin 64) (s : State) (h_s : s.Ok) : ∀ x, (execPacketStart q s) = .next x → x.Ok := by
  unfold execPacketStart
  grind [State.Ok, foldl_ok, State.onCore_ok, packetStart_ok]

theorem execPacketStart_keeps {s0 : State} {ps : List Region} (q : Fin 64) (s : State) (h_s : Keeps s0 s ps) (m_sched
    : Region.sched ∈ ps) : ∀ x, (execPacketStart q s) = .next x → Keeps s0 x ps := by
  unfold execPacketStart
  grind [foldl_keeps', State.onCore_keeps, packetStart_keeps]

theorem State.replyDone_ok (s : State) (id : Nat) (k : Pk) (h_s : s.Ok) : (State.replyDone s id k).Ok := by
  unfold State.replyDone
  grind [State.Ok, foldl_ok, State.modSched_ok, State.dropDone_ok, State.qHalt_ok, State.iff_ok, State.bump_ok,
      State.sf64_ok, State.qResetEnd_ok]

theorem State.replyDone_keeps {s0 : State} {ps : List Region} (s : State) (id : Nat) (k : Pk) (h_s : Keeps s0 s ps)
    (m_paths : Region.paths ∈ ps) (m_sched : Region.sched ∈ ps) : Keeps s0 (State.replyDone s id k) ps := by
  unfold State.replyDone
  grind [foldl_keeps', State.modSched_keeps, State.dropDone_keeps, State.qHalt_keeps, State.iff_keeps,
      State.bump_keeps, State.sf64_keeps, State.qResetEnd_keeps]

theorem State.sendReply_ok (s : State) (p : Packet) (h_s : s.Ok) : (State.sendReply s p).Ok := by
  unfold State.sendReply
  grind [State.Ok, foldl_ok, State.dropDone_ok, State.modSched_ok, State.issueWrite_ok]

theorem State.sendReply_keeps {s0 : State} {ps : List Region} (s : State) (p : Packet) (h_s : Keeps s0 s ps) (m_paths
    : Region.paths ∈ ps) (m_ring : Region.ring ∈ ps) (m_sched : Region.sched ∈ ps) (m_tags : Region.tags ∈ ps) (m_inj
    : Region.inj ∈ ps) : Keeps s0 (State.sendReply s p) ps := by
  unfold State.sendReply
  grind [foldl_keeps', State.dropDone_keeps, State.modSched_keeps, State.issueWrite_keeps]

theorem replyWrite_ok (s' : State) (h_s' : s'.Ok) : (replyWrite s').Ok := by
  simp only [replyWrite]
  split
  all_goals try split
  all_goals grind [State.Ok, foldl_ok, State.replyDone_ok, State.sendReply_ok, State.settleOps_ok]

theorem replyWrite_keeps {s0 : State} {ps : List Region} (s' : State) (h_s' : Keeps s0 s' ps) (m_paths : Region.paths
    ∈ ps) (m_ring : Region.ring ∈ ps) (m_sched : Region.sched ∈ ps) (m_seq : Region.seq ∈ ps) (m_tags : Region.tags ∈
    ps) (m_inj : Region.inj ∈ ps) : Keeps s0 (replyWrite s') ps := by
  unfold replyWrite
  repeat' split
  all_goals grind [foldl_keeps', State.replyDone_keeps, State.sendReply_keeps, State.settleOps_keeps]

theorem execReplyWrite_ok (s : State) (h_s : s.Ok) : ∀ x, (execReplyWrite s) = .next x → x.Ok := by
  unfold execReplyWrite
  grind [State.Ok, foldl_ok, State.onCore_ok, replyWrite_ok]

theorem execReplyWrite_keeps {s0 : State} {ps : List Region} (s : State) (h_s : Keeps s0 s ps) (m_paths : Region.paths
    ∈ ps) (m_ring : Region.ring ∈ ps) (m_sched : Region.sched ∈ ps) (m_seq : Region.seq ∈ ps) (m_tags : Region.tags ∈
    ps) (m_inj : Region.inj ∈ ps) : ∀ x, (execReplyWrite s) = .next x → Keeps s0 x ps := by
  unfold execReplyWrite
  grind [foldl_keeps', State.onCore_keeps, replyWrite_keeps]

theorem nopPacket_ok (s : State) (h_s : s.Ok) : (nopPacket s).Ok := by
  unfold nopPacket
  grind [State.Ok, foldl_ok, State.finish_ok]

theorem nopPacket_keeps {s0 : State} {ps : List Region} (s : State) (h_s : Keeps s0 s ps) (m_sched : Region.sched ∈
    ps) : Keeps s0 (nopPacket s) ps := by
  unfold nopPacket
  grind [foldl_keeps', State.finish_keeps]

theorem execNop_ok (s : State) (h_s : s.Ok) : ∀ x, (execNop s) = .next x → x.Ok := by
  unfold execNop
  grind [State.Ok, foldl_ok, State.onCore_ok, nopPacket_ok]

theorem execNop_keeps {s0 : State} {ps : List Region} (s : State) (h_s : Keeps s0 s ps) (m_sched : Region.sched ∈ ps)
    : ∀ x, (execNop s) = .next x → Keeps s0 x ps := by
  unfold execNop
  grind [foldl_keeps', State.onCore_keeps, nopPacket_keeps]

theorem State.fenceStep_ok (s : State) (p : Packet) (h_s : s.Ok) : ∀ x, (State.fenceStep s p) = some x → x.Ok := by
  unfold State.fenceStep
  grind [State.Ok, foldl_ok, State.finish_ok, State.complete'_ok, State.loadPk_ok, State.pkWrite_ok]

theorem State.fenceStep_keeps {s0 : State} {ps : List Region} (s : State) (p : Packet) (h_s : Keeps s0 s ps) (m_paths
    : Region.paths ∈ ps) (m_ring : Region.ring ∈ ps) (m_sched : Region.sched ∈ ps) (m_tags : Region.tags ∈ ps) (m_inj
    : Region.inj ∈ ps) : ∀ x, (State.fenceStep s p) = some x → Keeps s0 x ps := by
  unfold State.fenceStep
  grind [foldl_keeps', State.finish_keeps, State.complete'_keeps, State.loadPk_keeps, State.pkWrite_keeps]

theorem fencePacket_ok (s : State) (h_s : s.Ok) : (fencePacket s).Ok := by
  exact findSome_ok (fun p => State.fenceStep_ok s p h_s) _ h_s

theorem fencePacket_keeps {s0 : State} {ps : List Region} (s : State) (h_s : Keeps s0 s ps) (m_paths : Region.paths ∈
    ps) (m_ring : Region.ring ∈ ps) (m_sched : Region.sched ∈ ps) (m_tags : Region.tags ∈ ps) (m_inj : Region.inj ∈
    ps) : Keeps s0 (fencePacket s) ps := by
  exact findSome_keeps (fun p => State.fenceStep_keeps s p h_s (by assumption) (by assumption) (by assumption) (by
      assumption) (by assumption)) _ h_s

theorem execFence_ok (s : State) (h_s : s.Ok) : ∀ x, (execFence s) = .next x → x.Ok := by
  unfold execFence
  grind [State.Ok, foldl_ok, State.onCore_ok, fencePacket_ok]

theorem execFence_keeps {s0 : State} {ps : List Region} (s : State) (h_s : Keeps s0 s ps) (m_paths : Region.paths ∈
    ps) (m_ring : Region.ring ∈ ps) (m_sched : Region.sched ∈ ps) (m_tags : Region.tags ∈ ps) (m_inj : Region.inj ∈
    ps) : ∀ x, (execFence s) = .next x → Keeps s0 x ps := by
  unfold execFence
  grind [foldl_keeps', State.onCore_keeps, fencePacket_keeps]

theorem cleanRange_ok (s : State) (h_s : s.Ok) : (cleanRange s).Ok := by
  unfold cleanRange
  grind [State.Ok, foldl_ok, State.complete'_ok, State.modSched_ok, State.finish_ok, State.loadPk_ok,
      State.modSlice_ok]

theorem cleanRange_keeps {s0 : State} {ps : List Region} (s : State) (h_s : Keeps s0 s ps) (m_paths : Region.paths ∈
    ps) (m_sched : Region.sched ∈ ps) : Keeps s0 (cleanRange s) ps := by
  unfold cleanRange
  grind [foldl_keeps', State.complete'_keeps, State.modSched_keeps, State.finish_keeps, State.loadPk_keeps,
      State.modSlice_keeps]

theorem execCleanRange_ok (s : State) (h_s : s.Ok) : ∀ x, (execCleanRange s) = .next x → x.Ok := by
  unfold execCleanRange
  grind [State.Ok, foldl_ok, State.onCore_ok, cleanRange_ok]

theorem execCleanRange_keeps {s0 : State} {ps : List Region} (s : State) (h_s : Keeps s0 s ps) (m_paths : Region.paths
    ∈ ps) (m_sched : Region.sched ∈ ps) : ∀ x, (execCleanRange s) = .next x → Keeps s0 x ps := by
  unfold execCleanRange
  grind [foldl_keeps', State.onCore_keeps, cleanRange_keeps]

theorem cleanSweepSet_ok (sl : Fin 16) (s : State) (h_s : s.Ok) : (cleanSweepSet sl s).Ok := by
  simp only [cleanSweepSet]
  split
  all_goals try split
  all_goals grind [State.Ok, foldl_ok, State.modSlice_ok, State.sweepWays_ok]

theorem cleanSweepSet_keeps {s0 : State} {ps : List Region} (sl : Fin 16) (s : State) (h_s : Keeps s0 s ps) (m_paths :
    Region.paths ∈ ps) (m_sched : Region.sched ∈ ps) : Keeps s0 (cleanSweepSet sl s) ps := by
  unfold cleanSweepSet
  repeat' split
  all_goals grind [foldl_keeps', State.modSlice_keeps, State.sweepWays_keeps]

theorem execCleanSweepSet_ok (sl : Fin 16) (s : State) (h_s : s.Ok) : ∀ x, (execCleanSweepSet sl s) = .next x → x.Ok
    := by
  intro x hx
  simp only [execCleanSweepSet] at hx
  repeat' split at hx
  all_goals grind [State.Ok, foldl_ok, State.onSlice_ok, cleanSweepSet_ok]

theorem execCleanSweepSet_keeps {s0 : State} {ps : List Region} (sl : Fin 16) (s : State) (h_s : Keeps s0 s ps)
    (m_paths : Region.paths ∈ ps) (m_sched : Region.sched ∈ ps) : ∀ x, (execCleanSweepSet sl s) = .next x → Keeps s0 x
    ps := by
  intro x hx
  simp only [execCleanSweepSet] at hx
  repeat' split at hx
  all_goals grind [foldl_keeps', State.onSlice_keeps, cleanSweepSet_keeps]

theorem State.putColl_ok (s : State) (c : Coll) (h_s : s.Ok) : (State.putColl s c).Ok := by
  unfold State.putColl
  grind [State.Ok, foldl_ok, State.modSched_ok]

theorem State.putColl_keeps {s0 : State} {ps : List Region} (s : State) (c : Coll) (h_s : Keeps s0 s ps) (m_sched :
    Region.sched ∈ ps) : Keeps s0 (State.putColl s c) ps := by
  unfold State.putColl
  grind [foldl_keeps', State.modSched_keeps]

theorem State.collComplete_ok (s : State) (c : Coll) (h_s : s.Ok) : (State.collComplete s c).Ok := by
  unfold State.collComplete
  grind [State.Ok, foldl_ok, State.putColl_ok, State.modPk_ok, State.ingress_ok, State.skipIds_ok]

theorem State.collComplete_keeps {s0 : State} {ps : List Region} (s : State) (c : Coll) (h_s : Keeps s0 s ps) (m_paths
    : Region.paths ∈ ps) (m_ring : Region.ring ∈ ps) (m_sched : Region.sched ∈ ps) (m_tags : Region.tags ∈ ps) (m_inj
    : Region.inj ∈ ps) : Keeps s0 (State.collComplete s c) ps := by
  unfold State.collComplete
  grind [foldl_keeps', State.putColl_keeps, State.modPk_keeps, State.ingress_keeps, State.skipIds_keeps]

theorem State.collArm_ok (s : State) (c : Coll) (h_s : s.Ok) : ∀ x, (State.collArm s c) = some x → x.Ok := by
  unfold State.collArm
  grind [State.Ok, foldl_ok, State.dropDone_ok, State.putColl_ok, State.collStop_ok, State.ingress_ok,
      State.skipIds_ok, State.collComplete_ok]

theorem State.collArm_keeps {s0 : State} {ps : List Region} (s : State) (c : Coll) (h_s : Keeps s0 s ps) (m_free :
    Region.free ∈ ps) (m_paths : Region.paths ∈ ps) (m_ring : Region.ring ∈ ps) (m_sched : Region.sched ∈ ps) (m_tags
    : Region.tags ∈ ps) (m_inj : Region.inj ∈ ps) : ∀ x, (State.collArm s c) = some x → Keeps s0 x ps := by
  unfold State.collArm
  grind [foldl_keeps', State.dropDone_keeps, State.putColl_keeps, State.collStop_keeps, State.ingress_keeps,
      State.skipIds_keeps, State.collComplete_keeps]

theorem State.collReply_ok (s : State) (c : Coll) (h_s : s.Ok) : ∀ x, (State.collReply s c) = some x → x.Ok := by
  unfold State.collReply
  grind [State.Ok, foldl_ok, State.collEnd_ok]

theorem State.collReply_keeps {s0 : State} {ps : List Region} (s : State) (c : Coll) (h_s : Keeps s0 s ps) (m_sched :
    Region.sched ∈ ps) : ∀ x, (State.collReply s c) = some x → Keeps s0 x ps := by
  unfold State.collReply
  grind [foldl_keeps', State.collEnd_keeps]

theorem State.collStep_ok (s : State) (c : Coll) (h_s : s.Ok) : ∀ x, (State.collStep s c) = some x → x.Ok := by
  unfold State.collStep
  grind [State.Ok, foldl_ok, State.collReply_ok, State.collStop_ok, State.collArm_ok]

theorem State.collStep_keeps {s0 : State} {ps : List Region} (s : State) (c : Coll) (h_s : Keeps s0 s ps) (m_free :
    Region.free ∈ ps) (m_paths : Region.paths ∈ ps) (m_ring : Region.ring ∈ ps) (m_sched : Region.sched ∈ ps) (m_tags
    : Region.tags ∈ ps) (m_inj : Region.inj ∈ ps) : ∀ x, (State.collStep s c) = some x → Keeps s0 x ps := by
  unfold State.collStep
  grind [foldl_keeps', State.collReply_keeps, State.collStop_keeps, State.collArm_keeps]

theorem collective_ok (s : State) (h_s : s.Ok) : (collective s).Ok := by
  unfold collective
  repeat' split
  any_goals exact findSome_ok (fun c => State.collStep_ok s c h_s) _ h_s
  all_goals grind [State.Ok, State.finish_ok, State.modInbox_ok, State.modSched_ok, State.loadPk_ok,
      State.collStep_ok]

theorem collective_keeps {s0 : State} {ps : List Region} (s : State) (h_s : Keeps s0 s ps) (m_free : Region.free ∈ ps)
    (m_paths : Region.paths ∈ ps) (m_inbox : Region.inbox ∈ ps) (m_ring : Region.ring ∈ ps) (m_sched : Region.sched ∈
    ps) (m_tags : Region.tags ∈ ps) (m_inj : Region.inj ∈ ps) : Keeps s0 (collective s) ps := by
  unfold collective
  split
  · split
    · apply State.finish_keeps <;> assumption
    · apply State.modInbox_keeps <;> first
        | assumption
        | (apply State.modSched_keeps <;> first | assumption | (apply State.loadPk_keeps <;> assumption))
  · exact findSome_keeps (fun c => by apply State.collStep_keeps <;> assumption) _ h_s

theorem execCollective_ok (s : State) (h_s : s.Ok) : ∀ x, (execCollective s) = .next x → x.Ok := by
  unfold execCollective
  grind [State.Ok, foldl_ok, State.onCore_ok, collective_ok]

theorem execCollective_keeps {s0 : State} {ps : List Region} (s : State) (h_s : Keeps s0 s ps) (m_free : Region.free ∈
    ps) (m_paths : Region.paths ∈ ps) (m_inbox : Region.inbox ∈ ps) (m_ring : Region.ring ∈ ps) (m_sched :
    Region.sched ∈ ps) (m_tags : Region.tags ∈ ps) (m_inj : Region.inj ∈ ps) : ∀ x, (execCollective s) = .next x →
    Keeps s0 x ps := by
  unfold execCollective
  grind [foldl_keeps', State.onCore_keeps, collective_keeps]

theorem completionNotice_ok (s : State) (h_s : s.Ok) : (completionNotice s).Ok := by
  unfold completionNotice
  grind [State.Ok, foldl_ok, State.modInbox_ok, State.putColl_ok, State.collComplete_ok]

theorem completionNotice_keeps {s0 : State} {ps : List Region} (s : State) (h_s : Keeps s0 s ps) (m_paths :
    Region.paths ∈ ps) (m_inbox : Region.inbox ∈ ps) (m_ring : Region.ring ∈ ps) (m_sched : Region.sched ∈ ps) (m_tags
    : Region.tags ∈ ps) (m_inj : Region.inj ∈ ps) : Keeps s0 (completionNotice s) ps := by
  unfold completionNotice
  grind [foldl_keeps', State.modInbox_keeps, State.putColl_keeps, State.collComplete_keeps]

theorem execCompletionNotice_ok (s : State) (h_s : s.Ok) : ∀ x, (execCompletionNotice s) = .next x → x.Ok := by
  unfold execCompletionNotice
  grind [State.Ok, foldl_ok, State.onCore_ok, completionNotice_ok]

theorem execCompletionNotice_keeps {s0 : State} {ps : List Region} (s : State) (h_s : Keeps s0 s ps) (m_paths :
    Region.paths ∈ ps) (m_inbox : Region.inbox ∈ ps) (m_ring : Region.ring ∈ ps) (m_sched : Region.sched ∈ ps) (m_tags
    : Region.tags ∈ ps) (m_inj : Region.inj ∈ ps) : ∀ x, (execCompletionNotice s) = .next x → Keeps s0 x ps := by
  unfold execCompletionNotice
  grind [foldl_keeps', State.onCore_keeps, completionNotice_keeps]

theorem collectiveTimeout_ok (s : State) (h_s : s.Ok) : (collectiveTimeout s).Ok := by
  unfold collectiveTimeout
  grind [State.Ok, foldl_ok, State.collStop_ok]

theorem collectiveTimeout_keeps {s0 : State} {ps : List Region} (s : State) (h_s : Keeps s0 s ps) (m_free :
    Region.free ∈ ps) (m_sched : Region.sched ∈ ps) : Keeps s0 (collectiveTimeout s) ps := by
  unfold collectiveTimeout
  grind [foldl_keeps', State.collStop_keeps]

theorem execCollectiveTimeout_ok (s : State) (h_s : s.Ok) : ∀ x, (execCollectiveTimeout s) = .next x → x.Ok := by
  unfold execCollectiveTimeout
  grind [State.Ok, foldl_ok, State.onCore_ok, collectiveTimeout_ok]

theorem execCollectiveTimeout_keeps {s0 : State} {ps : List Region} (s : State) (h_s : Keeps s0 s ps) (m_free :
    Region.free ∈ ps) (m_sched : Region.sched ∈ ps) : ∀ x, (execCollectiveTimeout s) = .next x → Keeps s0 x ps := by
  unfold execCollectiveTimeout
  grind [foldl_keeps', State.onCore_keeps, collectiveTimeout_keeps]

theorem State.shutColls_ok (s : State) (h_s : s.Ok) : (State.shutColls s).Ok := by
  unfold State.shutColls
  grind [State.Ok, foldl_ok, State.collStop_ok, State.modSched_ok]

theorem State.shutColls_keeps {s0 : State} {ps : List Region} (s : State) (h_s : Keeps s0 s ps) (m_free : Region.free
    ∈ ps) (m_sched : Region.sched ∈ ps) : Keeps s0 (State.shutColls s) ps := by
  unfold State.shutColls
  grind [foldl_keeps', State.collStop_keeps, State.modSched_keeps]

theorem cancelPacket_ok (s : State) (h_s : s.Ok) : (cancelPacket s).Ok := by
  unfold cancelPacket
  grind [State.Ok, foldl_ok, State.finish_ok, State.endRunning_ok, State.modPk_ok]

theorem cancelPacket_keeps {s0 : State} {ps : List Region} (s : State) (h_s : Keeps s0 s ps) (m_free : Region.free ∈
    ps) (m_paths : Region.paths ∈ ps) (m_sched : Region.sched ∈ ps) (m_seq : Region.seq ∈ ps) : Keeps s0 (cancelPacket
    s) ps := by
  unfold cancelPacket
  grind [foldl_keeps', State.finish_keeps, State.endRunning_keeps, State.modPk_keeps]

theorem execCancel_ok (s : State) (h_s : s.Ok) : ∀ x, (execCancel s) = .next x → x.Ok := by
  unfold execCancel
  grind [State.Ok, foldl_ok, State.onCore_ok, cancelPacket_ok]

theorem execCancel_keeps {s0 : State} {ps : List Region} (s : State) (h_s : Keeps s0 s ps) (m_free : Region.free ∈ ps)
    (m_paths : Region.paths ∈ ps) (m_sched : Region.sched ∈ ps) (m_seq : Region.seq ∈ ps) : ∀ x, (execCancel s) =
    .next x → Keeps s0 x ps := by
  unfold execCancel
  grind [foldl_keeps', State.onCore_keeps, cancelPacket_keeps]

end Sys2Proof.Machine
end

