-- ==== Sys2Proof/Laws/Reset.lean ====
section
/-! SUPPORT. Two lemmas for every operation of Machine/Reset.lean. `…_ok`: the register table and the stack's memory stay
canonical. `…_keeps`: what agrees with a state outside a list of regions that holds those the operation can change still
agrees afterwards. -/

namespace Sys2Proof.Machine

set_option Elab.async false

theorem State.cold_ok (s : State) (h_s : s.Ok) : (State.cold s).Ok := by
  exact ⟨rfl, rfl⟩

theorem execPorstNAssert_ok (s : State) (h_s : s.Ok) : ∀ x, (execPorstNAssert s) = .next x → x.Ok := by
  unfold execPorstNAssert
  grind [State.Ok, foldl_ok, State.cold_ok]

theorem vddOkFall_ok (s : State) (h_s : s.Ok) : (vddOkFall s).Ok := by
  unfold vddOkFall
  grind [State.Ok, foldl_ok, State.modPins_ok, State.cold_ok]

theorem execVddOkFall_ok (s : State) (h_s : s.Ok) : ∀ x, (execVddOkFall s) = .next x → x.Ok := by
  unfold execVddOkFall
  grind [State.Ok, foldl_ok, vddOkFall_ok]

theorem porstNRelease_ok (head : Bool) (west : BitVec 2) (east : BitVec 2) (use : BitVec 8) (kind : BitVec 8) (s :
    State) (h_s : s.Ok) : (porstNRelease head west east use kind s).Ok := by
  unfold porstNRelease
  grind [State.Ok, foldl_ok, State.modPwr_ok, State.modPins_ok, State.setDom_ok]

theorem porstNRelease_keeps {s0 : State} {ps : List Region} (head : Bool) (west : BitVec 2) (east : BitVec 2) (use :
    BitVec 8) (kind : BitVec 8) (s : State) (h_s : Keeps s0 s ps) (m_straps : Region.straps ∈ ps) (m_pins :
    Region.pins ∈ ps) (m_clk : Region.clk ∈ ps) (m_pwr : Region.pwr ∈ ps) : Keeps s0 (porstNRelease head west east use
    kind s) ps := by
  unfold porstNRelease
  dsimp only
  repeat' first
      | with_reducible assumption
      | with_reducible apply ite_keeps
      | with_reducible refine foldl_keeps' (fun _ _ _ => ?_) _ ?_
      | with_reducible apply State.modPwr_keeps
      | with_reducible apply State.modPins_keeps
      | with_reducible apply State.setDom_keeps
      | with_reducible apply Keeps.set_clk
      | with_reducible apply Keeps.set_straps
      | with_reducible apply Keeps.set_straps_clk
      | split

theorem execPorstNRelease_ok (head : Bool) (west : BitVec 2) (east : BitVec 2) (use : BitVec 8) (kind : BitVec 8) (s :
    State) (h_s : s.Ok) : ∀ x, (execPorstNRelease head west east use kind s) = .next x → x.Ok := by
  unfold execPorstNRelease
  grind [State.Ok, foldl_ok, porstNRelease_ok]

theorem execPorstNRelease_keeps {s0 : State} {ps : List Region} (head : Bool) (west : BitVec 2) (east : BitVec 2) (use
    : BitVec 8) (kind : BitVec 8) (s : State) (h_s : Keeps s0 s ps) (m_straps : Region.straps ∈ ps) (m_pins :
    Region.pins ∈ ps) (m_clk : Region.clk ∈ ps) (m_pwr : Region.pwr ∈ ps) : ∀ x, (execPorstNRelease head west east use
    kind s) = .next x → Keeps s0 x ps := by
  unfold execPorstNRelease
  grind [foldl_keeps', porstNRelease_keeps]

theorem State.release_ok (s : State) (i : Island) (h_s : s.Ok) : (State.release s i).Ok := by
  unfold State.release
  grind [State.Ok, foldl_ok, State.modPc_ok, State.modPort_ok, State.modPwr_ok]

theorem State.release_keeps {s0 : State} {ps : List Region} (s : State) (i : Island) (h_s : Keeps s0 s ps) (m_clk :
    Region.clk ∈ ps) (m_pwr : Region.pwr ∈ ps) (m_paths : Region.paths ∈ ps) (m_pcs : Region.pcs ∈ ps) : Keeps s0
    (State.release s i) ps := by
  unfold State.release
  grind [foldl_keeps', State.modPc_keeps, State.modPort_keeps, State.modPwr_keeps, Keeps.set_clk]

theorem State.calm_ok (s : State) (h_s : s.Ok) : (State.calm s).Ok := by
  unfold State.calm
  grind [State.Ok, foldl_ok]

theorem State.calm_keeps {s0 : State} {ps : List Region} (s : State) (h_s : Keeps s0 s ps) (m_fw : Region.fw ∈ ps) :
    Keeps s0 (State.calm s) ps := by
  unfold State.calm
  grind [foldl_keeps', Keeps.set_fw]

theorem State.repowerEnd_ok (s : State) (d : Nat) (h_s : s.Ok) : (State.repowerEnd s d).Ok := by
  unfold State.repowerEnd
  grind [State.Ok, foldl_ok, State.calm_ok, State.known_ok, State.sf_ok]

theorem State.repowerEnd_keeps {s0 : State} {ps : List Region} (s : State) (d : Nat) (h_s : Keeps s0 s ps) (m_fw :
    Region.fw ∈ ps) : Keeps s0 (State.repowerEnd s d) ps := by
  unfold State.repowerEnd
  grind [foldl_keeps', State.calm_keeps, State.known_keeps, State.sf_keeps]

theorem State.beginRepower_ok (s : State) (d : Nat) (h_s : s.Ok) : (State.beginRepower s d).Ok := by
  unfold State.beginRepower
  grind [State.Ok, foldl_ok, State.calm_ok, State.modPwr_ok, State.raise_ok]

theorem State.beginRepower_keeps {s0 : State} {ps : List Region} (s : State) (d : Nat) (h_s : Keeps s0 s ps) (m_pwr :
    Region.pwr ∈ ps) (m_fw : Region.fw ∈ ps) : Keeps s0 (State.beginRepower s d) ps := by
  unfold State.beginRepower
  grind [foldl_keeps', State.calm_keeps, State.modPwr_keeps, State.raise_keeps]

theorem State.repowerCores_ok (s : State) (h_s : s.Ok) : (State.repowerCores s).Ok := by
  unfold State.repowerCores
  grind [State.Ok, foldl_ok, State.beginRepower_ok]

theorem State.repowerCores_keeps {s0 : State} {ps : List Region} (s : State) (h_s : Keeps s0 s ps) (m_pwr : Region.pwr
    ∈ ps) (m_fw : Region.fw ∈ ps) : Keeps s0 (State.repowerCores s) ps := by
  unfold State.repowerCores
  grind [foldl_keeps', State.beginRepower_keeps]

theorem State.setDoms_ok (s : State) (ds : List Nat) (v : DomState) (h_s : s.Ok) : (State.setDoms s ds v).Ok := by
  unfold State.setDoms
  grind [State.Ok, foldl_ok, State.setDom_ok]

theorem State.setDoms_keeps {s0 : State} {ps : List Region} (s : State) (ds : List Nat) (v : DomState) (h_s : Keeps s0
    s ps) : Keeps s0 (State.setDoms s ds v) ps := by
  unfold State.setDoms
  grind [foldl_keeps', State.setDom_keeps]

theorem powerStageRequest_ok (s : State) (h_s : s.Ok) : (powerStageRequest s).Ok := by
  unfold powerStageRequest
  grind [State.Ok, foldl_ok, State.modPwr_ok, State.modPins_ok, State.setDoms_ok]

theorem powerStageRequest_keeps {s0 : State} {ps : List Region} (s : State) (h_s : Keeps s0 s ps) (m_pins :
    Region.pins ∈ ps) (m_pwr : Region.pwr ∈ ps) : Keeps s0 (powerStageRequest s) ps := by
  unfold powerStageRequest
  grind [foldl_keeps', State.modPwr_keeps, State.modPins_keeps, State.setDoms_keeps]

theorem execPowerStageRequest_ok (s : State) (h_s : s.Ok) : ∀ x, (execPowerStageRequest s) = .next x → x.Ok := by
  unfold execPowerStageRequest
  grind [State.Ok, foldl_ok, State.onLive_ok, powerStageRequest_ok]

theorem execPowerStageRequest_keeps {s0 : State} {ps : List Region} (s : State) (h_s : Keeps s0 s ps) (m_pins :
    Region.pins ∈ ps) (m_pwr : Region.pwr ∈ ps) : ∀ x, (execPowerStageRequest s) = .next x → Keeps s0 x ps := by
  unfold execPowerStageRequest
  grind [foldl_keeps', State.onLive_keeps, powerStageRequest_keeps]

theorem stageAckRise_ok (s : State) (h_s : s.Ok) : (stageAckRise s).Ok := by
  unfold stageAckRise
  grind [State.Ok, foldl_ok, State.modPins_ok, State.modPwr_ok, State.setDoms_ok]

theorem stageAckRise_keeps {s0 : State} {ps : List Region} (s : State) (h_s : Keeps s0 s ps) (m_pins : Region.pins ∈
    ps) (m_pwr : Region.pwr ∈ ps) : Keeps s0 (stageAckRise s) ps := by
  unfold stageAckRise
  grind [foldl_keeps', State.modPins_keeps, State.modPwr_keeps, State.setDoms_keeps]

theorem execPwrStgAckRise_ok (s : State) (h_s : s.Ok) : ∀ x, (execPwrStgAckRise s) = .next x → x.Ok := by
  unfold execPwrStgAckRise
  grind [State.Ok, foldl_ok, stageAckRise_ok, State.modPins_ok]

theorem execPwrStgAckRise_keeps {s0 : State} {ps : List Region} (s : State) (h_s : Keeps s0 s ps) (m_pins :
    Region.pins ∈ ps) (m_pwr : Region.pwr ∈ ps) : ∀ x, (execPwrStgAckRise s) = .next x → Keeps s0 x ps := by
  unfold execPwrStgAckRise
  grind [foldl_keeps', stageAckRise_keeps, State.modPins_keeps]

theorem stageAckFall_ok (s : State) (h_s : s.Ok) : (stageAckFall s).Ok := by
  unfold stageAckFall
  grind [State.Ok, foldl_ok, State.iff_ok, State.modPins_ok, State.modPwr_ok, State.repowerCores_ok,
    State.repowerEnd_ok, State.sf_ok]

theorem stageAckFall_keeps {s0 : State} {ps : List Region} (s : State) (h_s : Keeps s0 s ps) (m_pins : Region.pins ∈
    ps) (m_pwr : Region.pwr ∈ ps) (m_fw : Region.fw ∈ ps) : Keeps s0 (stageAckFall s) ps := by
  unfold stageAckFall
  grind [foldl_keeps', State.iff_keeps, State.modPins_keeps, State.modPwr_keeps, State.repowerCores_keeps,
    State.repowerEnd_keeps, State.sf_keeps]

theorem execPwrStgAckFall_ok (s : State) (h_s : s.Ok) : ∀ x, (execPwrStgAckFall s) = .next x → x.Ok := by
  unfold execPwrStgAckFall
  grind [State.Ok, foldl_ok, State.modPins_ok, stageAckFall_ok]

theorem execPwrStgAckFall_keeps {s0 : State} {ps : List Region} (s : State) (h_s : Keeps s0 s ps) (m_pins :
    Region.pins ∈ ps) (m_pwr : Region.pwr ∈ ps) (m_fw : Region.fw ∈ ps) : ∀ x, (execPwrStgAckFall s) = .next x → Keeps
    s0 x ps := by
  unfold execPwrStgAckFall
  grind [foldl_keeps', State.modPins_keeps, stageAckFall_keeps]

theorem stageTimeout_ok (s : State) (h_s : s.Ok) : (stageTimeout s).Ok := by
  unfold stageTimeout
  grind [State.Ok, foldl_ok, State.iff_ok, State.modPins_ok, State.modPwr_ok, State.raise_ok, State.repowerCores_ok,
    State.repowerEnd_ok, State.setDoms_ok]

theorem stageTimeout_keeps {s0 : State} {ps : List Region} (s : State) (h_s : Keeps s0 s ps) (m_pins : Region.pins ∈
    ps) (m_pwr : Region.pwr ∈ ps) (m_fw : Region.fw ∈ ps) : Keeps s0 (stageTimeout s) ps := by
  unfold stageTimeout
  grind [foldl_keeps', State.iff_keeps, State.modPins_keeps, State.modPwr_keeps, State.raise_keeps,
    State.repowerCores_keeps, State.repowerEnd_keeps, State.setDoms_keeps]

theorem execStageTimeout_ok (s : State) (h_s : s.Ok) : ∀ x, (execStageTimeout s) = .next x → x.Ok := by
  unfold execStageTimeout
  grind [State.Ok, foldl_ok, State.onLive_ok, stageTimeout_ok]

theorem execStageTimeout_keeps {s0 : State} {ps : List Region} (s : State) (h_s : Keeps s0 s ps) (m_pins : Region.pins
    ∈ ps) (m_pwr : Region.pwr ∈ ps) (m_fw : Region.fw ∈ ps) : ∀ x, (execStageTimeout s) = .next x → Keeps s0 x ps :=
    by
  unfold execStageTimeout
  grind [foldl_keeps', State.onLive_keeps, stageTimeout_keeps]

theorem State.trainPort_ok (s : State) (east : Bool) (h_s : s.Ok) : (State.trainPort s east).Ok := by
  unfold State.trainPort
  grind [State.Ok, foldl_ok, State.modD2d_ok]

theorem State.trainPort_keeps {s0 : State} {ps : List Region} (s : State) (east : Bool) (h_s : Keeps s0 s ps) (m_ring
    : Region.ring ∈ ps) : Keeps s0 (State.trainPort s east) ps := by
  unfold State.trainPort
  grind [foldl_keeps', State.modD2d_keeps]

theorem State.retrainRepowered_ok (s : State) (i : Island) (h_s : s.Ok) : (State.retrainRepowered s i).Ok := by
  unfold State.retrainRepowered
  grind [State.Ok, foldl_ok, State.trainPort_ok]

theorem State.retrainRepowered_keeps {s0 : State} {ps : List Region} (s : State) (i : Island) (h_s : Keeps s0 s ps)
    (m_ring : Region.ring ∈ ps) : Keeps s0 (State.retrainRepowered s i) ps := by
  unfold State.retrainRepowered
  grind [foldl_keeps', State.trainPort_keeps]

theorem islandRelease_ok (i : Island) (s : State) (h_s : s.Ok) : (islandRelease i s).Ok := by
  unfold islandRelease
  grind [State.Ok, foldl_ok, State.release_ok, State.retrainRepowered_ok]

theorem islandRelease_keeps {s0 : State} {ps : List Region} (i : Island) (s : State) (h_s : Keeps s0 s ps) (m_clk :
    Region.clk ∈ ps) (m_pwr : Region.pwr ∈ ps) (m_paths : Region.paths ∈ ps) (m_pcs : Region.pcs ∈ ps) (m_ring :
    Region.ring ∈ ps) : Keeps s0 (islandRelease i s) ps := by
  unfold islandRelease
  grind [foldl_keeps', State.release_keeps, State.retrainRepowered_keeps]

theorem execIslandResetRelease_ok (i : Island) (s : State) (h_s : s.Ok) : ∀ x, (execIslandResetRelease i s) = .next x
    → x.Ok := by
  unfold execIslandResetRelease
  grind [State.Ok, foldl_ok, State.onLive_ok, islandRelease_ok]

theorem execIslandResetRelease_keeps {s0 : State} {ps : List Region} (i : Island) (s : State) (h_s : Keeps s0 s ps)
    (m_clk : Region.clk ∈ ps) (m_pwr : Region.pwr ∈ ps) (m_paths : Region.paths ∈ ps) (m_pcs : Region.pcs ∈ ps)
    (m_ring : Region.ring ∈ ps) : ∀ x, (execIslandResetRelease i s) = .next x → Keeps s0 x ps := by
  unfold execIslandResetRelease
  grind [foldl_keeps', State.onLive_keeps, islandRelease_keeps]

theorem State.writeMarker_ok (s : State) (p : Fin 64) (m : Marker) (h_s : s.Ok) : (State.writeMarker s p m).Ok := by
  exact State.modPc_ok _ _ _ ⟨(State.iff_ok _ _ _ h_s fun _ => State.tick_ok _).1, Stack.writeBurst_wf _ _ h_s.2⟩

theorem State.writeMarker_keeps {s0 : State} {ps : List Region} (s : State) (p : Fin 64) (m : Marker) (h_s : Keeps s0
    s ps) (m_free : Region.free ∈ ps) (m_pcs : Region.pcs ∈ ps) (m_stack : Region.stack ∈ ps) : Keeps s0
    (State.writeMarker s p m) ps := by
  unfold State.writeMarker
  grind [foldl_keeps', State.modPc_keeps, State.iff_keeps, State.tick_keeps, Keeps.set_stack]

theorem State.warmNotice_ok (s : State) (h_s : s.Ok) : (State.warmNotice s).Ok := by
  unfold State.warmNotice
  grind [State.Ok, foldl_ok, State.cleanAll_ok, State.drainAll_ok, State.modPins_ok, State.modPwr_ok,
    State.selfRefreshEnter_ok, State.writeMarker_ok]

theorem State.warmNotice_keeps {s0 : State} {ps : List Region} (s : State) (h_s : Keeps s0 s ps) (m_free : Region.free
    ∈ ps) (m_pins : Region.pins ∈ ps) (m_pwr : Region.pwr ∈ ps) (m_paths : Region.paths ∈ ps) (m_pcs : Region.pcs ∈
    ps) (m_stack : Region.stack ∈ ps) (m_inbox : Region.inbox ∈ ps) (m_ring : Region.ring ∈ ps) (m_tags : Region.tags
    ∈ ps) (m_inj : Region.inj ∈ ps) : Keeps s0 (State.warmNotice s) ps := by
  unfold State.warmNotice
  grind [foldl_keeps', State.cleanAll_keeps, State.drainAll_keeps, State.modPins_keeps, State.modPwr_keeps,
    State.selfRefreshEnter_keeps, State.writeMarker_keeps, Keeps.set_pcs]

theorem State.decideNotice_ok (s : State) (h_s : s.Ok) : (State.decideNotice s).Ok := by
  unfold State.decideNotice
  grind [State.Ok, foldl_ok, State.modPwr_ok, State.warmNotice_ok]

theorem State.decideNotice_keeps {s0 : State} {ps : List Region} (s : State) (h_s : Keeps s0 s ps) (m_free :
    Region.free ∈ ps) (m_pins : Region.pins ∈ ps) (m_pwr : Region.pwr ∈ ps) (m_paths : Region.paths ∈ ps) (m_pcs :
    Region.pcs ∈ ps) (m_stack : Region.stack ∈ ps) (m_inbox : Region.inbox ∈ ps) (m_ring : Region.ring ∈ ps) (m_tags :
    Region.tags ∈ ps) (m_inj : Region.inj ∈ ps) : Keeps s0 (State.decideNotice s) ps := by
  unfold State.decideNotice
  grind [foldl_keeps', State.modPwr_keeps, State.warmNotice_keeps]

theorem dieWrstReqFall_ok (s : State) (h_s : s.Ok) : (dieWrstReqFall s).Ok := by
  unfold dieWrstReqFall
  grind [State.Ok, foldl_ok, State.decideNotice_ok, State.modPins_ok]

theorem dieWrstReqFall_keeps {s0 : State} {ps : List Region} (s : State) (h_s : Keeps s0 s ps) (m_free : Region.free ∈
    ps) (m_pins : Region.pins ∈ ps) (m_pwr : Region.pwr ∈ ps) (m_paths : Region.paths ∈ ps) (m_pcs : Region.pcs ∈ ps)
    (m_stack : Region.stack ∈ ps) (m_inbox : Region.inbox ∈ ps) (m_ring : Region.ring ∈ ps) (m_tags : Region.tags ∈
    ps) (m_inj : Region.inj ∈ ps) : Keeps s0 (dieWrstReqFall s) ps := by
  unfold dieWrstReqFall
  grind [foldl_keeps', State.decideNotice_keeps, State.modPins_keeps]

theorem execDieWrstReqFall_ok (s : State) (h_s : s.Ok) : ∀ x, (execDieWrstReqFall s) = .next x → x.Ok := by
  unfold execDieWrstReqFall
  grind [State.Ok, foldl_ok, dieWrstReqFall_ok, State.modPins_ok]

theorem execDieWrstReqFall_keeps {s0 : State} {ps : List Region} (s : State) (h_s : Keeps s0 s ps) (m_free :
    Region.free ∈ ps) (m_pins : Region.pins ∈ ps) (m_pwr : Region.pwr ∈ ps) (m_paths : Region.paths ∈ ps) (m_pcs :
    Region.pcs ∈ ps) (m_stack : Region.stack ∈ ps) (m_inbox : Region.inbox ∈ ps) (m_ring : Region.ring ∈ ps) (m_tags :
    Region.tags ∈ ps) (m_inj : Region.inj ∈ ps) : ∀ x, (execDieWrstReqFall s) = .next x → Keeps s0 x ps := by
  unfold execDieWrstReqFall
  grind [foldl_keeps', dieWrstReqFall_keeps, State.modPins_keeps]

theorem State.sensorStarts_ok (s : State) (h_s : s.Ok) : (State.sensorStarts s).Ok := by
  unfold State.sensorStarts
  grind [State.Ok, foldl_ok, State.decideNotice_ok, State.release_ok]

theorem State.sensorStarts_keeps {s0 : State} {ps : List Region} (s : State) (h_s : Keeps s0 s ps) (m_free :
    Region.free ∈ ps) (m_pins : Region.pins ∈ ps) (m_clk : Region.clk ∈ ps) (m_pwr : Region.pwr ∈ ps) (m_paths :
    Region.paths ∈ ps) (m_pcs : Region.pcs ∈ ps) (m_stack : Region.stack ∈ ps) (m_inbox : Region.inbox ∈ ps) (m_ring :
    Region.ring ∈ ps) (m_tags : Region.tags ∈ ps) (m_therm : Region.therm ∈ ps) (m_inj : Region.inj ∈ ps) : Keeps s0
    (State.sensorStarts s) ps := by
  unfold State.sensorStarts
  grind [foldl_keeps', State.decideNotice_keeps, State.release_keeps, Keeps.set_therm]

theorem sensorRelease_ok (s : State) (h_s : s.Ok) : (sensorRelease s).Ok := by
  unfold sensorRelease
  grind [State.Ok, foldl_ok, State.modPwr_ok, State.sensorStarts_ok, State.setDom_ok]

theorem sensorRelease_keeps {s0 : State} {ps : List Region} (s : State) (h_s : Keeps s0 s ps) (m_free : Region.free ∈
    ps) (m_pins : Region.pins ∈ ps) (m_clk : Region.clk ∈ ps) (m_pwr : Region.pwr ∈ ps) (m_paths : Region.paths ∈ ps)
    (m_pcs : Region.pcs ∈ ps) (m_stack : Region.stack ∈ ps) (m_inbox : Region.inbox ∈ ps) (m_ring : Region.ring ∈ ps)
    (m_tags : Region.tags ∈ ps) (m_therm : Region.therm ∈ ps) (m_inj : Region.inj ∈ ps) : Keeps s0 (sensorRelease s)
    ps := by
  unfold sensorRelease
  grind [foldl_keeps', State.modPwr_keeps, State.sensorStarts_keeps, State.setDom_keeps]

theorem execSensorIslandResetRelease_ok (s : State) (h_s : s.Ok) : ∀ x, (execSensorIslandResetRelease s) = .next x →
    x.Ok := by
  unfold execSensorIslandResetRelease
  grind [State.Ok, foldl_ok, sensorRelease_ok]

theorem execSensorIslandResetRelease_keeps {s0 : State} {ps : List Region} (s : State) (h_s : Keeps s0 s ps) (m_free :
    Region.free ∈ ps) (m_pins : Region.pins ∈ ps) (m_clk : Region.clk ∈ ps) (m_pwr : Region.pwr ∈ ps) (m_paths :
    Region.paths ∈ ps) (m_pcs : Region.pcs ∈ ps) (m_stack : Region.stack ∈ ps) (m_inbox : Region.inbox ∈ ps) (m_ring :
    Region.ring ∈ ps) (m_tags : Region.tags ∈ ps) (m_therm : Region.therm ∈ ps) (m_inj : Region.inj ∈ ps) : ∀ x,
    (execSensorIslandResetRelease s) = .next x → Keeps s0 x ps := by
  unfold execSensorIslandResetRelease
  grind [foldl_keeps', sensorRelease_keeps]

theorem State.withdrawNotice_ok (s : State) (h_s : s.Ok) : (State.withdrawNotice s).Ok := by
  unfold State.withdrawNotice
  grind [State.Ok, foldl_ok, State.modPc_ok, State.modPins_ok, State.modPwr_ok, State.putBurst_ok, State.resumePc_ok,
    State.selfRefreshExit_ok]

theorem State.withdrawNotice_keeps {s0 : State} {ps : List Region} (s : State) (h_s : Keeps s0 s ps) (m_pins :
    Region.pins ∈ ps) (m_pwr : Region.pwr ∈ ps) (m_pcs : Region.pcs ∈ ps) (m_stack : Region.stack ∈ ps) : Keeps s0
    (State.withdrawNotice s) ps := by
  unfold State.withdrawNotice
  grind [foldl_keeps', State.modPc_keeps, State.modPins_keeps, State.modPwr_keeps, State.putBurst_keeps,
    State.resumePc_keeps, State.selfRefreshExit_keeps]

theorem State.resumeNotice_ok (s : State) (h_s : s.Ok) : (State.resumeNotice s).Ok := by
  unfold State.resumeNotice
  grind [State.Ok, foldl_ok, State.warmNotice_ok, State.withdrawNotice_ok]

theorem State.resumeNotice_keeps {s0 : State} {ps : List Region} (s : State) (h_s : Keeps s0 s ps) (m_free :
    Region.free ∈ ps) (m_pins : Region.pins ∈ ps) (m_pwr : Region.pwr ∈ ps) (m_paths : Region.paths ∈ ps) (m_pcs :
    Region.pcs ∈ ps) (m_stack : Region.stack ∈ ps) (m_inbox : Region.inbox ∈ ps) (m_ring : Region.ring ∈ ps) (m_tags :
    Region.tags ∈ ps) (m_inj : Region.inj ∈ ps) : Keeps s0 (State.resumeNotice s) ps := by
  unfold State.resumeNotice
  grind [foldl_keeps', State.warmNotice_keeps, State.withdrawNotice_keeps]

theorem dieWrstReqRise_ok (s : State) (h_s : s.Ok) : (dieWrstReqRise s).Ok := by
  unfold dieWrstReqRise
  grind [State.Ok, foldl_ok, State.modPins_ok, State.withdrawNotice_ok]

theorem dieWrstReqRise_keeps {s0 : State} {ps : List Region} (s : State) (h_s : Keeps s0 s ps) (m_pins : Region.pins ∈
    ps) (m_pwr : Region.pwr ∈ ps) (m_pcs : Region.pcs ∈ ps) (m_stack : Region.stack ∈ ps) : Keeps s0 (dieWrstReqRise
    s) ps := by
  unfold dieWrstReqRise
  grind [foldl_keeps', State.modPins_keeps, State.withdrawNotice_keeps]

theorem execDieWrstReqRise_ok (s : State) (h_s : s.Ok) : ∀ x, (execDieWrstReqRise s) = .next x → x.Ok := by
  unfold execDieWrstReqRise
  grind [State.Ok, foldl_ok, dieWrstReqRise_ok, State.modPins_ok]

theorem execDieWrstReqRise_keeps {s0 : State} {ps : List Region} (s : State) (h_s : Keeps s0 s ps) (m_pins :
    Region.pins ∈ ps) (m_pwr : Region.pwr ∈ ps) (m_pcs : Region.pcs ∈ ps) (m_stack : Region.stack ∈ ps) : ∀ x,
    (execDieWrstReqRise s) = .next x → Keeps s0 x ps := by
  unfold execDieWrstReqRise
  grind [foldl_keeps', dieWrstReqRise_keeps, State.modPins_keeps]

theorem dieRstNAssert_ok (behind : BitVec 64) (s : State) (h_s : s.Ok) : (dieRstNAssert behind s).Ok := by
  unfold dieRstNAssert
  grind [State.Ok, foldl_ok, State.reset_ok, State.setDom_ok, State.modPc_ok, State.raise_ok, State.loseRank_ok]

theorem execDieRstNAssert_ok (behind : BitVec 64) (s : State) (h_s : s.Ok) : ∀ x, (execDieRstNAssert behind s) = .next
    x → x.Ok := by
  unfold execDieRstNAssert
  grind [State.Ok, foldl_ok, dieRstNAssert_ok]

theorem clockLoss_ok (p : Fin 64) (cut : Bool) (oscBad : Bool) (s : State) (h_s : s.Ok) : (clockLoss p cut oscBad
    s).Ok := by
  unfold clockLoss
  grind [State.Ok, foldl_ok, State.putBurst_ok, State.modPc_ok, State.writeMarker_ok, State.selfRefreshEnter_ok]

theorem clockLoss_keeps {s0 : State} {ps : List Region} (p : Fin 64) (cut : Bool) (oscBad : Bool) (s : State) (h_s :
    Keeps s0 s ps) (m_free : Region.free ∈ ps) (m_pcs : Region.pcs ∈ ps) (m_stack : Region.stack ∈ ps) : Keeps s0
    (clockLoss p cut oscBad s) ps := by
  unfold clockLoss
  grind [foldl_keeps', State.putBurst_keeps, State.modPc_keeps, State.writeMarker_keeps, State.selfRefreshEnter_keeps]

theorem execClockLoss_ok (p : Fin 64) (cut : Bool) (oscBad : Bool) (s : State) (h_s : s.Ok) : ∀ x, (execClockLoss p
    cut oscBad s) = .next x → x.Ok := by
  unfold execClockLoss
  grind [State.Ok, foldl_ok, State.onLive_ok, clockLoss_ok]

theorem execClockLoss_keeps {s0 : State} {ps : List Region} (p : Fin 64) (cut : Bool) (oscBad : Bool) (s : State) (h_s
    : Keeps s0 s ps) (m_free : Region.free ∈ ps) (m_pcs : Region.pcs ∈ ps) (m_stack : Region.stack ∈ ps) : ∀ x,
    (execClockLoss p cut oscBad s) = .next x → Keeps s0 x ps := by
  unfold execClockLoss
  grind [foldl_keeps', State.onLive_keeps, clockLoss_keeps]

theorem localTime_ok (i : Island) (s : State) (h_s : s.Ok) : (localTime i s).Ok := by
  unfold localTime
  grind [State.Ok, foldl_ok]

theorem localTime_keeps {s0 : State} {ps : List Region} (i : Island) (s : State) (h_s : Keeps s0 s ps) (m_clk :
    Region.clk ∈ ps) : Keeps s0 (localTime i s) ps := by
  unfold localTime
  grind [foldl_keeps', Keeps.set_clk]

theorem execLocalTimeCorrection_ok (i : Island) (s : State) (h_s : s.Ok) : ∀ x, (execLocalTimeCorrection i s) = .next
    x → x.Ok := by
  unfold execLocalTimeCorrection
  grind [State.Ok, foldl_ok, State.onLive_ok, localTime_ok]

theorem execLocalTimeCorrection_keeps {s0 : State} {ps : List Region} (i : Island) (s : State) (h_s : Keeps s0 s ps)
    (m_clk : Region.clk ∈ ps) : ∀ x, (execLocalTimeCorrection i s) = .next x → Keeps s0 x ps := by
  unfold execLocalTimeCorrection
  grind [foldl_keeps', State.onLive_keeps, localTime_keeps]

end Sys2Proof.Machine
end

