-- ==== Sys2Proof/Laws/PkgOps.lean ====
section
/-! SUPPORT. Two lemmas for every operation of Machine/PkgOps.lean. `…_ok`: the register table and the stack's memory stay
canonical. `…_keeps`: what agrees with a state outside a list of regions that holds those the operation can change still
agrees afterwards. -/

namespace Sys2Proof.Machine

set_option Elab.async false

theorem State.ringWrite_ok (s : State) (src : Src) (reg : Nat) (n : Nat) (b : List Byte) (h_s : s.Ok) :
    (State.ringWrite s src reg n b).Ok := by
  unfold State.ringWrite
  grind [State.Ok, foldl_ok, State.issueWrite_ok]

theorem State.ringWrite_keeps {s0 : State} {ps : List Region} (s : State) (src : Src) (reg : Nat) (n : Nat) (b : List
    Byte) (h_s : Keeps s0 s ps) (m_paths : Region.paths ∈ ps) (m_ring : Region.ring ∈ ps) (m_tags : Region.tags ∈ ps)
    (m_inj : Region.inj ∈ ps) : Keeps s0 (State.ringWrite s src reg n b) ps := by
  unfold State.ringWrite
  grind [foldl_keeps', State.issueWrite_keeps]

theorem State.modChain_ok (s : State) (f : Chain → Chain) (h_s : s.Ok) : (State.modChain s f).Ok := by
  unfold State.modChain
  grind [State.Ok, foldl_ok]

theorem State.modChain_keeps {s0 : State} {ps : List Region} (s : State) (f : Chain → Chain) (h_s : Keeps s0 s ps)
    (m_chain : Region.chain ∈ ps) : Keeps s0 (State.modChain s f) ps := by
  unfold State.modChain
  grind [foldl_keeps', Keeps.set_chain]

theorem State.modPkg_ok (s : State) (f : Package → Package) (h_s : s.Ok) : (State.modPkg s f).Ok := by
  unfold State.modPkg
  grind [State.Ok, foldl_ok]

theorem State.modPkg_keeps {s0 : State} {ps : List Region} (s : State) (f : Package → Package) (h_s : Keeps s0 s ps)
    (m_pkg : Region.pkg ∈ ps) : Keeps s0 (State.modPkg s f) ps := by
  unfold State.modPkg
  grind [foldl_keeps', Keeps.set_pkg]

theorem State.modFw_ok (s : State) (f : Fw → Fw) (h_s : s.Ok) : (State.modFw s f).Ok := by
  unfold State.modFw
  grind [State.Ok, foldl_ok]

theorem State.modFw_keeps {s0 : State} {ps : List Region} (s : State) (f : Fw → Fw) (h_s : Keeps s0 s ps) (m_fw :
    Region.fw ∈ ps) : Keeps s0 (State.modFw s f) ps := by
  unfold State.modFw
  grind [foldl_keeps', Keeps.set_fw]

theorem State.chainPump_ok (s : State) (h_s : s.Ok) : (State.chainPump s).Ok := by
  unfold State.chainPump
  grind [State.Ok, foldl_ok, State.modChain_ok, State.modPins_ok]

theorem State.chainPump_keeps {s0 : State} {ps : List Region} (s : State) (h_s : Keeps s0 s ps) (m_pins : Region.pins
    ∈ ps) (m_chain : Region.chain ∈ ps) : Keeps s0 (State.chainPump s) ps := by
  unfold State.chainPump
  grind [foldl_keeps', State.modChain_keeps, State.modPins_keeps]

theorem State.chainDown_ok (s : State) (w : Word) (h_s : s.Ok) : (State.chainDown s w).Ok := by
  unfold State.chainDown
  grind [State.Ok, foldl_ok, State.chainPump_ok, State.modChain_ok]

theorem State.chainDown_keeps {s0 : State} {ps : List Region} (s : State) (w : Word) (h_s : Keeps s0 s ps) (m_pins :
    Region.pins ∈ ps) (m_chain : Region.chain ∈ ps) : Keeps s0 (State.chainDown s w) ps := by
  unfold State.chainDown
  grind [foldl_keeps', State.chainPump_keeps, State.modChain_keeps]

theorem State.chainUp_ok (s : State) (w : Word) (h_s : s.Ok) : (State.chainUp s w).Ok := by
  unfold State.chainUp
  grind [State.Ok, foldl_ok, State.modChain_ok]

theorem State.chainUp_keeps {s0 : State} {ps : List Region} (s : State) (w : Word) (h_s : Keeps s0 s ps) (m_chain :
    Region.chain ∈ ps) : Keeps s0 (State.chainUp s w) ps := by
  unfold State.chainUp
  grind [foldl_keeps', State.modChain_keeps]

theorem State.reportPhase_ok (s : State) (h_s : s.Ok) : (State.reportPhase s).Ok := by
  unfold State.reportPhase
  grind [State.Ok, foldl_ok, State.modPkg_ok, State.chainUp_ok]

theorem State.reportPhase_keeps {s0 : State} {ps : List Region} (s : State) (h_s : Keeps s0 s ps) (m_chain :
    Region.chain ∈ ps) (m_pkg : Region.pkg ∈ ps) : Keeps s0 (State.reportPhase s) ps := by
  unfold State.reportPhase
  grind [foldl_keeps', State.modPkg_keeps, State.chainUp_keeps]

theorem State.setPhase_ok (s : State) (p : Nat) (h_s : s.Ok) : (State.setPhase s p).Ok := by
  unfold State.setPhase
  grind [State.Ok, foldl_ok, State.sf_ok, State.reportPhase_ok]

theorem State.setPhase_keeps {s0 : State} {ps : List Region} (s : State) (p : Nat) (h_s : Keeps s0 s ps) (m_chain :
    Region.chain ∈ ps) (m_pkg : Region.pkg ∈ ps) : Keeps s0 (State.setPhase s p) ps := by
  unfold State.setPhase
  grind [foldl_keeps', State.sf_keeps, State.reportPhase_keeps]

theorem State.bootFault_ok (s : State) (cause : Nat) (h_s : s.Ok) : (State.bootFault s cause).Ok := by
  unfold State.bootFault
  grind [State.Ok, foldl_ok, State.setPhase_ok, State.sf_ok]

theorem State.bootFault_keeps {s0 : State} {ps : List Region} (s : State) (cause : Nat) (h_s : Keeps s0 s ps) (m_chain
    : Region.chain ∈ ps) (m_pkg : Region.pkg ∈ ps) : Keeps s0 (State.bootFault s cause) ps := by
  unfold State.bootFault
  grind [foldl_keeps', State.setPhase_keeps, State.sf_keeps]

theorem State.faultStop_ok (s : State) (cause : Nat) (h_s : s.Ok) : (State.faultStop s cause).Ok := by
  unfold State.faultStop
  grind [State.Ok, foldl_ok, State.bootFault_ok, State.cause_ok, State.selfRefreshEnter_ok]

theorem State.faultStop_keeps {s0 : State} {ps : List Region} (s : State) (cause : Nat) (h_s : Keeps s0 s ps) (m_pcs :
    Region.pcs ∈ ps) (m_inbox : Region.inbox ∈ ps) (m_chain : Region.chain ∈ ps) (m_pkg : Region.pkg ∈ ps) : Keeps s0
    (State.faultStop s cause) ps := by
  unfold State.faultStop
  grind [foldl_keeps', State.bootFault_keeps, State.cause_keeps, State.selfRefreshEnter_keeps]

theorem State.setRoles_ok (s : State) (captain : Nat) (deputy : Option Nat) (epoch : Nat) (h_s : s.Ok) :
    (State.setRoles s captain deputy epoch).Ok := by
  unfold State.setRoles
  grind [State.Ok, foldl_ok, State.sf_ok, State.modPkg_ok]

theorem State.setRoles_keeps {s0 : State} {ps : List Region} (s : State) (captain : Nat) (deputy : Option Nat) (epoch
    : Nat) (h_s : Keeps s0 s ps) (m_pkg : Region.pkg ∈ ps) : Keeps s0 (State.setRoles s captain deputy epoch) ps := by
  unfold State.setRoles
  grind [foldl_keeps', State.sf_keeps, State.modPkg_keeps]

theorem State.startHandover_ok (s : State) (successor : Nat) (cause : Nat) (h_s : s.Ok) : (State.startHandover s
    successor cause).Ok := by
  unfold State.startHandover
  grind [State.Ok, foldl_ok, State.modPkg_ok, State.sendCtl_ok]

theorem State.startHandover_keeps {s0 : State} {ps : List Region} (s : State) (successor : Nat) (cause : Nat) (h_s :
    Keeps s0 s ps) (m_ring : Region.ring ∈ ps) (m_pkg : Region.pkg ∈ ps) (m_inj : Region.inj ∈ ps) : Keeps s0
    (State.startHandover s successor cause) ps := by
  unfold State.startHandover
  grind [foldl_keeps', State.modPkg_keeps, State.sendCtl_keeps]

end Sys2Proof.Machine
end

