-- ==== Sys2Proof/Laws/Thermal.lean ====
section
/-! SUPPORT. Two lemmas for every operation of Machine/Thermal.lean. `…_ok`: the register table and the stack's memory stay
canonical. `…_keeps`: what agrees with a state outside a list of regions that holds those the operation can change still
agrees afterwards. -/

namespace Sys2Proof.Machine

set_option Elab.async false

theorem State.modTherm_ok (s : State) (f : Thermal → Thermal) (h_s : s.Ok) : (State.modTherm s f).Ok := by
  unfold State.modTherm
  grind [State.Ok, foldl_ok]

theorem State.modTherm_keeps {s0 : State} {ps : List Region} (s : State) (f : Thermal → Thermal) (h_s : Keeps s0 s ps)
    (m_therm : Region.therm ∈ ps) : Keeps s0 (State.modTherm s f) ps := by
  unfold State.modTherm
  grind [foldl_keeps', Keeps.set_therm]

theorem State.modSensor_ok (s : State) (i : Fin 33) (f : Sensor → Sensor) (h_s : s.Ok) : (State.modSensor s i f).Ok :=
    by
  unfold State.modSensor
  grind [State.Ok, foldl_ok, State.modTherm_ok]

theorem State.modSensor_keeps {s0 : State} {ps : List Region} (s : State) (i : Fin 33) (f : Sensor → Sensor) (h_s :
    Keeps s0 s ps) (m_therm : Region.therm ∈ ps) : Keeps s0 (State.modSensor s i f) ps := by
  unfold State.modSensor
  grind [foldl_keeps', State.modTherm_keeps]

theorem State.modZone_ok (s : State) (z : Fin 6) (f : Zone → Zone) (h_s : s.Ok) : (State.modZone s z f).Ok := by
  unfold State.modZone
  grind [State.Ok, foldl_ok, State.modTherm_ok]

theorem State.modZone_keeps {s0 : State} {ps : List Region} (s : State) (z : Fin 6) (f : Zone → Zone) (h_s : Keeps s0
    s ps) (m_therm : Region.therm ∈ ps) : Keeps s0 (State.modZone s z f) ps := by
  unfold State.modZone
  grind [foldl_keeps', State.modTherm_keeps]

theorem State.sensorRead_ok (s : State) (i : Nat) (v : Option Int) (cause : Nat) (h_s : s.Ok) : (State.sensorRead s i
    v cause).Ok := by
  unfold State.sensorRead
  grind [State.Ok, foldl_ok, State.modZone_ok, State.modSensor_ok, State.sf_ok, State.raise_ok, State.raiseIf_ok]

theorem State.sensorRead_keeps {s0 : State} {ps : List Region} (s : State) (i : Nat) (v : Option Int) (cause : Nat)
    (h_s : Keeps s0 s ps) (m_therm : Region.therm ∈ ps) : Keeps s0 (State.sensorRead s i v cause) ps := by
  unfold State.sensorRead
  dsimp only
  repeat' first
      | with_reducible assumption
      | with_reducible apply ite_keeps
      | with_reducible refine foldl_keeps' (fun _ _ _ => ?_) _ ?_
      | with_reducible apply State.modZone_keeps
      | with_reducible apply State.modSensor_keeps
      | with_reducible apply State.sf_keeps
      | with_reducible apply State.raise_keeps
      | with_reducible apply State.raiseIf_keeps
      | split

theorem sensorConversion_ok (n : Fin 8) (low : BitVec 22) (high : BitVec 22) (v : BitVec 12) (s : State) (h_s : s.Ok)
    : (sensorConversion n low high v s).Ok := by
  unfold sensorConversion
  grind [State.Ok, foldl_ok, State.modSensor_ok, State.sensorRead_ok]

theorem sensorConversion_keeps {s0 : State} {ps : List Region} (n : Fin 8) (low : BitVec 22) (high : BitVec 22) (v :
    BitVec 12) (s : State) (h_s : Keeps s0 s ps) (m_therm : Region.therm ∈ ps) : Keeps s0 (sensorConversion n low high
    v s) ps := by
  unfold sensorConversion
  grind [foldl_keeps', State.modSensor_keeps, State.sensorRead_keeps]

theorem execSensorConversion_ok (n : Fin 8) (ends : BitVec 22 × BitVec 22) (v : BitVec 12) (s : State) (h_s : s.Ok) :
    ∀ x, (execSensorConversion n ends v s) = .next x → x.Ok := by
  unfold execSensorConversion
  grind [State.Ok, foldl_ok, State.onLive_ok, sensorConversion_ok]

theorem execSensorConversion_keeps {s0 : State} {ps : List Region} (n : Fin 8) (ends : BitVec 22 × BitVec 22) (v :
    BitVec 12) (s : State) (h_s : Keeps s0 s ps) (m_therm : Region.therm ∈ ps) : ∀ x, (execSensorConversion n ends v s) = .next x → Keeps s0 x ps := by
  unfold execSensorConversion
  grind [foldl_keeps', State.onLive_keeps, sensorConversion_keeps]

theorem execLocalSensorRead_ok (k : Fin 24) (v : BitVec 12) (s : State) (h_s : s.Ok) : ∀ x, (execLocalSensorRead k v
    s) = .next x → x.Ok := by
  unfold execLocalSensorRead
  grind [State.Ok, foldl_ok, State.onLive_ok, State.sensorRead_ok]

theorem execLocalSensorRead_keeps {s0 : State} {ps : List Region} (k : Fin 24) (v : BitVec 12) (s : State) (h_s :
    Keeps s0 s ps) (m_therm : Region.therm ∈ ps) : ∀ x, (execLocalSensorRead k v s) = .next x → Keeps s0 x ps := by
  unfold execLocalSensorRead
  grind [foldl_keeps', State.onLive_keeps, State.sensorRead_keeps]

theorem State.stackReading_ok (s : State) (v : BitVec 12) (ok : Bool) (h_s : s.Ok) : (State.stackReading s v ok).Ok :=
    by
  unfold State.stackReading
  grind [State.Ok, foldl_ok, State.sensorRead_ok, State.rateFromReading_ok]

theorem State.stackReading_keeps {s0 : State} {ps : List Region} (s : State) (v : BitVec 12) (ok : Bool) (h_s : Keeps
    s0 s ps) (m_refresh : Region.refresh ∈ ps) (m_therm : Region.therm ∈ ps) : Keeps s0 (State.stackReading s v ok) ps
    := by
  unfold State.stackReading
  grind [foldl_keeps', State.sensorRead_keeps, State.rateFromReading_keeps, Keeps.set_refresh]

theorem State.readStack_ok (s : State) (v : BitVec 12) (ok : Bool) (h_s : s.Ok) : (State.readStack s v ok).Ok := by
  unfold State.readStack
  grind [State.Ok, foldl_ok, State.modSensor_ok, State.stackReading_ok]

theorem State.readStack_keeps {s0 : State} {ps : List Region} (s : State) (v : BitVec 12) (ok : Bool) (h_s : Keeps s0
    s ps) (m_refresh : Region.refresh ∈ ps) (m_therm : Region.therm ∈ ps) : Keeps s0 (State.readStack s v ok) ps := by
  unfold State.readStack
  grind [foldl_keeps', State.modSensor_keeps, State.stackReading_keeps]

theorem execStackTemperatureRead_ok (v : BitVec 12) (ok : Bool) (s : State) (h_s : s.Ok) : ∀ x,
    (execStackTemperatureRead v ok s) = .next x → x.Ok := by
  unfold execStackTemperatureRead
  grind [State.Ok, foldl_ok, State.onLive_ok, State.readStack_ok, State.when_ok]

theorem execStackTemperatureRead_keeps {s0 : State} {ps : List Region} (v : BitVec 12) (ok : Bool) (s : State) (h_s :
    Keeps s0 s ps) (m_refresh : Region.refresh ∈ ps) (m_therm : Region.therm ∈ ps) : ∀ x, (execStackTemperatureRead v
    ok s) = .next x → Keeps s0 x ps := by
  unfold execStackTemperatureRead
  grind [foldl_keeps', State.onLive_keeps, State.readStack_keeps, State.when_keeps]

theorem sensorStale_ok (i : Fin 33) (s : State) (h_s : s.Ok) : (sensorStale i s).Ok := by
  unfold sensorStale
  grind [State.Ok, foldl_ok, State.sensorRead_ok]

theorem sensorStale_keeps {s0 : State} {ps : List Region} (i : Fin 33) (s : State) (h_s : Keeps s0 s ps) (m_refresh :
    Region.refresh ∈ ps) (m_therm : Region.therm ∈ ps) : Keeps s0 (sensorStale i s) ps := by
  unfold sensorStale
  grind [foldl_keeps', State.sensorRead_keeps, Keeps.set_refresh]

theorem execSensorStale_ok (i : Fin 33) (s : State) (h_s : s.Ok) : ∀ x, (execSensorStale i s) = .next x → x.Ok := by
  unfold execSensorStale
  grind [State.Ok, foldl_ok, State.onLive_ok, sensorStale_ok]

theorem execSensorStale_keeps {s0 : State} {ps : List Region} (i : Fin 33) (s : State) (h_s : Keeps s0 s ps)
    (m_refresh : Region.refresh ∈ ps) (m_therm : Region.therm ∈ ps) : ∀ x, (execSensorStale i s) = .next x → Keeps s0
    x ps := by
  unfold execSensorStale
  grind [foldl_keeps', State.onLive_keeps, sensorStale_keeps]

theorem execOscillatorCompensation_ok (s : State) (h_s : s.Ok) : ∀ x, (execOscillatorCompensation s) = .next x → x.Ok
    := by
  unfold execOscillatorCompensation
  grind [State.Ok, foldl_ok]

theorem execOscillatorCompensation_keeps {s0 : State} {ps : List Region} (s : State) (h_s : Keeps s0 s ps) : ∀ x,
    (execOscillatorCompensation s) = .next x → Keeps s0 x ps := by
  unfold execOscillatorCompensation
  grind [foldl_keeps']

theorem State.colMove_ok (s : State) (h_s : s.Ok) : (State.colMove s).Ok := by
  unfold State.colMove
  grind [State.Ok, foldl_ok, State.modTherm_ok, State.modPins_ok]

theorem State.colMove_keeps {s0 : State} {ps : List Region} (s : State) (h_s : Keeps s0 s ps) (m_pins : Region.pins ∈
    ps) (m_therm : Region.therm ∈ ps) : Keeps s0 (State.colMove s) ps := by
  unfold State.colMove
  grind [foldl_keeps', State.modTherm_keeps, State.modPins_keeps]

theorem execColThrCodeStep_ok (s : State) (h_s : s.Ok) : ∀ x, (execColThrCodeStep s) = .next x → x.Ok := by
  unfold execColThrCodeStep
  grind [State.Ok, foldl_ok, State.onLive_ok, State.colMove_ok]

theorem execColThrCodeStep_keeps {s0 : State} {ps : List Region} (s : State) (h_s : Keeps s0 s ps) (m_pins :
    Region.pins ∈ ps) (m_therm : Region.therm ∈ ps) : ∀ x, (execColThrCodeStep s) = .next x → Keeps s0 x ps := by
  unfold execColThrCodeStep
  grind [foldl_keeps', State.onLive_keeps, State.colMove_keeps]

theorem State.applyStep_ok (s : State) (h_s : s.Ok) : (State.applyStep s).Ok := by
  unfold State.applyStep
  grind [State.Ok, foldl_ok, State.sf_ok, State.colMove_ok, State.calm_ok]

theorem State.applyStep_keeps {s0 : State} {ps : List Region} (s : State) (h_s : Keeps s0 s ps) (m_pins : Region.pins
    ∈ ps) (m_fw : Region.fw ∈ ps) (m_therm : Region.therm ∈ ps) : Keeps s0 (State.applyStep s) ps := by
  unfold State.applyStep
  grind [foldl_keeps', State.sf_keeps, State.colMove_keeps, State.calm_keeps]

theorem State.setZstep_ok (s : State) (z : Nat) (k : Nat) (h_s : s.Ok) : (State.setZstep s z k).Ok := by
  unfold State.setZstep
  grind [State.Ok, foldl_ok, State.modZone_ok, State.sf_ok]

theorem State.setZstep_keeps {s0 : State} {ps : List Region} (s : State) (z : Nat) (k : Nat) (h_s : Keeps s0 s ps)
    (m_therm : Region.therm ∈ ps) : Keeps s0 (State.setZstep s z k) ps := by
  unfold State.setZstep
  grind [foldl_keeps', State.modZone_keeps, State.sf_keeps]

theorem State.setTstep_ok (s : State) (h_s : s.Ok) : (State.setTstep s).Ok := by
  unfold State.setTstep
  grind [State.Ok, foldl_ok, State.sf_ok]

theorem State.setTstep_keeps {s0 : State} {ps : List Region} (s : State) (h_s : Keeps s0 s ps) : Keeps s0
    (State.setTstep s) ps := by
  unfold State.setTstep
  grind [foldl_keeps', State.sf_keeps]

theorem State.rezone_ok (s : State) (h_s : s.Ok) : (State.rezone s).Ok := by
  unfold State.rezone
  grind [State.Ok, foldl_ok, State.modZone_ok, State.setTstep_ok, State.wr_ok]

theorem State.rezone_keeps {s0 : State} {ps : List Region} (s : State) (h_s : Keeps s0 s ps) (m_therm : Region.therm ∈
    ps) : Keeps s0 (State.rezone s) ps := by
  unfold State.rezone
  grind [foldl_keeps', State.modZone_keeps, State.setTstep_keeps, State.wr_keeps]

theorem State.zoneStep_ok (s : State) (z : Nat) (r : Int) (h_s : s.Ok) : (State.zoneStep s z r).Ok := by
  unfold State.zoneStep
  generalize (s.dwell) = k
  grind [State.Ok, State.modZone_ok, State.setZstep_ok]

theorem State.zoneStep_keeps {s0 : State} {ps : List Region} (s : State) (z : Nat) (r : Int) (h_s : Keeps s0 s ps)
    (m_therm : Region.therm ∈ ps) : Keeps s0 (State.zoneStep s z r) ps := by
  unfold State.zoneStep
  dsimp only
  repeat' first
      | with_reducible assumption
      | with_reducible apply ite_keeps
      | with_reducible refine foldl_keeps' (fun _ _ _ => ?_) _ ?_
      | with_reducible apply State.modZone_keeps
      | with_reducible apply State.setZstep_keeps
      | split

theorem State.critical_ok (s : State) (cause : Nat) (h_s : s.Ok) : (State.critical s cause).Ok := by
  unfold State.critical
  grind [State.Ok, foldl_ok, State.modTherm_ok, State.raise_ok, State.sf_ok]

theorem State.critical_keeps {s0 : State} {ps : List Region} (s : State) (cause : Nat) (h_s : Keeps s0 s ps) (m_therm
    : Region.therm ∈ ps) : Keeps s0 (State.critical s cause) ps := by
  unfold State.critical
  grind [foldl_keeps', State.modTherm_keeps, State.raise_keeps, State.sf_keeps]

theorem State.holdEval_ok (s : State) (h_s : s.Ok) : (State.holdEval s).Ok := by
  unfold State.holdEval
  grind [State.Ok, foldl_ok, State.raise_ok, State.modTherm_ok, State.sf_ok]

theorem State.holdEval_keeps {s0 : State} {ps : List Region} (s : State) (h_s : Keeps s0 s ps) (m_therm : Region.therm
    ∈ ps) : Keeps s0 (State.holdEval s) ps := by
  unfold State.holdEval
  grind [foldl_keeps', State.raise_keeps, State.modTherm_keeps, State.sf_keeps]

theorem State.lowEval_ok (s : State) (h_s : s.Ok) : (State.lowEval s).Ok := by
  unfold State.lowEval
  grind [State.Ok, foldl_ok, State.raise_ok, State.sf_ok]

theorem State.lowEval_keeps {s0 : State} {ps : List Region} (s : State) (h_s : Keeps s0 s ps) : Keeps s0
    (State.lowEval s) ps := by
  unfold State.lowEval
  grind [foldl_keeps', State.raise_keeps, State.sf_keeps]

theorem State.showZone_ok (s : State) (z : Nat) (r : Int) (h_s : s.Ok) : (State.showZone s z r).Ok := by
  unfold State.showZone
  grind [State.Ok, foldl_ok, State.sf_ok, State.raise_ok]

theorem State.showZone_keeps {s0 : State} {ps : List Region} (s : State) (z : Nat) (r : Int) (h_s : Keeps s0 s ps) :
    Keeps s0 (State.showZone s z r) ps := by
  unfold State.showZone
  grind [foldl_keeps', State.sf_keeps, State.raise_keeps]

theorem zoneReadingRow_ok (z : Fin 6) (s : State) (h_s : s.Ok) : (zoneReadingRow z s).Ok := by
  unfold zoneReadingRow
  grind [State.Ok, foldl_ok, State.showZone_ok, State.modZone_ok, State.raiseIf_ok, State.setTstep_ok,
      State.zoneStep_ok, State.critical_ok, State.applyStep_ok, State.lowEval_ok, State.holdEval_ok]

theorem zoneReadingRow_keeps {s0 : State} {ps : List Region} (z : Fin 6) (s : State) (h_s : Keeps s0 s ps) (m_pins :
    Region.pins ∈ ps) (m_fw : Region.fw ∈ ps) (m_therm : Region.therm ∈ ps) : Keeps s0 (zoneReadingRow z s) ps := by
  unfold zoneReadingRow
  dsimp only
  repeat' first
      | with_reducible assumption
      | with_reducible apply ite_keeps
      | with_reducible refine foldl_keeps' (fun _ _ _ => ?_) _ ?_
      | with_reducible apply State.showZone_keeps
      | with_reducible apply State.modZone_keeps
      | with_reducible apply State.raiseIf_keeps
      | with_reducible apply State.setTstep_keeps
      | with_reducible apply State.zoneStep_keeps
      | with_reducible apply State.critical_keeps
      | with_reducible apply State.applyStep_keeps
      | with_reducible apply State.lowEval_keeps
      | with_reducible apply State.holdEval_keeps
      | split

theorem execZoneReading_ok (z : Fin 6) (s : State) (h_s : s.Ok) : ∀ x, (execZoneReading z s) = .next x → x.Ok := by
  unfold execZoneReading
  grind [State.Ok, foldl_ok, State.onLive_ok, zoneReadingRow_ok]

theorem execZoneReading_keeps {s0 : State} {ps : List Region} (z : Fin 6) (s : State) (h_s : Keeps s0 s ps) (m_pins :
    Region.pins ∈ ps) (m_fw : Region.fw ∈ ps) (m_therm : Region.therm ∈ ps) : ∀ x, (execZoneReading z s) = .next x →
    Keeps s0 x ps := by
  unfold execZoneReading
  grind [foldl_keeps', State.onLive_keeps, zoneReadingRow_keeps]

theorem execMemCattripRise_ok (s : State) (h_s : s.Ok) : ∀ x, (execMemCattripRise s) = .next x → x.Ok := by
  unfold execMemCattripRise
  grind [State.Ok, foldl_ok, State.modPins_ok, State.holdEval_ok, State.critical_ok]

theorem execMemCattripRise_keeps {s0 : State} {ps : List Region} (s : State) (h_s : Keeps s0 s ps) (m_pins :
    Region.pins ∈ ps) (m_therm : Region.therm ∈ ps) : ∀ x, (execMemCattripRise s) = .next x → Keeps s0 x ps := by
  unfold execMemCattripRise
  grind [foldl_keeps', State.modPins_keeps, State.holdEval_keeps, State.critical_keeps]

theorem execMemCattripFall_ok (s : State) (h_s : s.Ok) : ∀ x, (execMemCattripFall s) = .next x → x.Ok := by
  unfold execMemCattripFall
  grind [State.Ok, foldl_ok, State.modPins_ok, State.holdEval_ok]

theorem execMemCattripFall_keeps {s0 : State} {ps : List Region} (s : State) (h_s : Keeps s0 s ps) (m_pins :
    Region.pins ∈ ps) (m_therm : Region.therm ∈ ps) : ∀ x, (execMemCattripFall s) = .next x → Keeps s0 x ps := by
  unfold execMemCattripFall
  grind [foldl_keeps', State.modPins_keeps, State.holdEval_keeps]

theorem State.shutReqs_ok (s : State) (l : List Req) (h_s : s.Ok) : (State.shutReqs s l).Ok := by
  unfold State.shutReqs
  grind [State.Ok, foldl_ok, State.complete_ok, State.modPaths_ok]

theorem State.shutReqs_keeps {s0 : State} {ps : List Region} (s : State) (l : List Req) (h_s : Keeps s0 s ps) (m_paths
    : Region.paths ∈ ps) (m_ring : Region.ring ∈ ps) (m_tags : Region.tags ∈ ps) (m_inj : Region.inj ∈ ps) : Keeps s0
    (State.shutReqs s l) ps := by
  unfold State.shutReqs
  grind [foldl_keeps', State.complete_keeps, State.modPaths_keeps]

theorem State.shutSlice_ok (s : State) (sl : Fin 16) (h_s : s.Ok) : (State.shutSlice s sl).Ok := by
  unfold State.shutSlice
  grind [State.Ok, foldl_ok, State.modSlice_ok, State.shutReqs_ok]

theorem State.shutSlice_keeps {s0 : State} {ps : List Region} (s : State) (sl : Fin 16) (h_s : Keeps s0 s ps) (m_paths
    : Region.paths ∈ ps) (m_ring : Region.ring ∈ ps) (m_tags : Region.tags ∈ ps) (m_inj : Region.inj ∈ ps) : Keeps s0
    (State.shutSlice s sl) ps := by
  unfold State.shutSlice
  grind [foldl_keeps', State.modSlice_keeps, State.shutReqs_keeps]

theorem State.shutPannier_ok (s : State) (p : Fin 64) (h_s : s.Ok) : (State.shutPannier s p).Ok := by
  unfold State.shutPannier
  grind [State.Ok, foldl_ok, State.modPc_ok, State.shutReqs_ok]

theorem State.shutPannier_keeps {s0 : State} {ps : List Region} (s : State) (p : Fin 64) (h_s : Keeps s0 s ps)
    (m_paths : Region.paths ∈ ps) (m_pcs : Region.pcs ∈ ps) (m_ring : Region.ring ∈ ps) (m_tags : Region.tags ∈ ps)
    (m_inj : Region.inj ∈ ps) : Keeps s0 (State.shutPannier s p) ps := by
  unfold State.shutPannier
  grind [foldl_keeps', State.modPc_keeps, State.shutReqs_keeps]

theorem State.keepReference_ok (s : State) (w : Truing) (h_s : s.Ok) : (State.keepReference s w).Ok := by
  unfold State.keepReference
  grind [State.Ok, foldl_ok, State.putBurst_ok]

theorem State.keepReference_keeps {s0 : State} {ps : List Region} (s : State) (w : Truing) (h_s : Keeps s0 s ps)
    (m_stack : Region.stack ∈ ps) : Keeps s0 (State.keepReference s w) ps := by
  unfold State.keepReference
  grind [foldl_keeps', State.putBurst_keeps]

theorem State.restoreDelays_ok (s : State) (w : Truing) (h_s : s.Ok) : (State.restoreDelays s w).Ok := by
  unfold State.restoreDelays
  grind [State.Ok, foldl_ok, State.wr_ok]

theorem State.restoreDelays_keeps {s0 : State} {ps : List Region} (s : State) (w : Truing) (h_s : Keeps s0 s ps) :
    Keeps s0 (State.restoreDelays s w) ps := by
  unfold State.restoreDelays
  grind [foldl_keeps', State.wr_keeps]

theorem State.endWindow_ok (s : State) (p : Fin 64) (h_s : s.Ok) : (State.endWindow s p).Ok := by
  unfold State.endWindow
  grind [State.Ok, foldl_ok, State.bump_ok, State.keepReference_ok, State.modPc_ok, State.restoreDelays_ok,
    State.sf_ok]

theorem State.endWindow_keeps {s0 : State} {ps : List Region} (s : State) (p : Fin 64) (h_s : Keeps s0 s ps) (m_pcs :
    Region.pcs ∈ ps) (m_stack : Region.stack ∈ ps) : Keeps s0 (State.endWindow s p) ps := by
  unfold State.endWindow
  grind [foldl_keeps', State.bump_keeps, State.keepReference_keeps, State.modPc_keeps, State.restoreDelays_keeps,
    State.sf_keeps]

theorem State.finishGranted_ok (s : State) (p : Fin 64) (h_s : s.Ok) : (State.finishGranted s p).Ok := by
  unfold State.finishGranted
  grind [State.Ok, foldl_ok, State.drainWrites_ok, State.modPc_ok, State.drainReads_ok]

theorem State.finishGranted_keeps {s0 : State} {ps : List Region} (s : State) (p : Fin 64) (h_s : Keeps s0 s ps)
    (m_free : Region.free ∈ ps) (m_paths : Region.paths ∈ ps) (m_pcs : Region.pcs ∈ ps) (m_stack : Region.stack ∈ ps)
    (m_inbox : Region.inbox ∈ ps) (m_ring : Region.ring ∈ ps) (m_tags : Region.tags ∈ ps) (m_inj : Region.inj ∈ ps) :
    Keeps s0 (State.finishGranted s p) ps := by
  unfold State.finishGranted
  grind [foldl_keeps', State.drainWrites_keeps, State.modPc_keeps, State.drainReads_keeps]

theorem State.shutBags_ok (s : State) (h_s : s.Ok) : (State.shutBags s).Ok := by
  unfold State.shutBags
  grind [State.Ok, foldl_ok, State.modSeq_ok]

theorem State.shutBags_keeps {s0 : State} {ps : List Region} (s : State) (h_s : Keeps s0 s ps) (m_seq : Region.seq ∈
    ps) : Keeps s0 (State.shutBags s) ps := by
  unfold State.shutBags
  grind [foldl_keeps', State.modSeq_keeps]

theorem State.shutPackets_ok (s : State) (h_s : s.Ok) : (State.shutPackets s).Ok := by
  unfold State.shutPackets
  grind [State.Ok, foldl_ok, State.complete'_ok]

theorem State.shutPackets_keeps {s0 : State} {ps : List Region} (s : State) (h_s : Keeps s0 s ps) (m_sched :
    Region.sched ∈ ps) : Keeps s0 (State.shutPackets s) ps := by
  unfold State.shutPackets
  grind [foldl_keeps', State.complete'_keeps]

theorem State.shutPools_ok (s : State) (keep : Access → Option Access) (h_s : s.Ok) : (State.shutPools s keep).Ok :=
    by
  unfold State.shutPools
  grind [State.Ok, foldl_ok, State.modPaths_ok]

theorem State.shutPools_keeps {s0 : State} {ps : List Region} (s : State) (keep : Access → Option Access) (h_s : Keeps
    s0 s ps) (m_paths : Region.paths ∈ ps) (m_pcs : Region.pcs ∈ ps) (m_copiers : Region.copiers ∈ ps) : Keeps s0
    (State.shutPools s keep) ps := by
  unfold State.shutPools
  grind [foldl_keeps', State.modPaths_keeps, Keeps.set_pcs_copiers]

theorem State.shutUngranted_ok (s : State) (h_s : s.Ok) : (State.shutUngranted s).Ok := by
  unfold State.shutUngranted
  grind [State.Ok, foldl_ok, State.modPaths_ok, State.shutPannier_ok, State.shutReqs_ok, State.shutSlice_ok]

theorem State.shutUngranted_keeps {s0 : State} {ps : List Region} (s : State) (h_s : Keeps s0 s ps) (m_paths :
    Region.paths ∈ ps) (m_pcs : Region.pcs ∈ ps) (m_ring : Region.ring ∈ ps) (m_tags : Region.tags ∈ ps) (m_inj :
    Region.inj ∈ ps) : Keeps s0 (State.shutUngranted s) ps := by
  unfold State.shutUngranted
  grind [foldl_keeps', State.modPaths_keeps, State.shutPannier_keeps, State.shutReqs_keeps, State.shutSlice_keeps]

theorem State.shutEngines_ok (s : State) (h_s : s.Ok) : (State.shutEngines s).Ok := by
  unfold State.shutEngines
  grind [State.Ok, foldl_ok, State.endOp_ok, State.setBack_ok, State.shutBags_ok, State.shutColls_ok,
    State.shutPackets_ok]

theorem State.shutEngines_keeps {s0 : State} {ps : List Region} (s : State) (h_s : Keeps s0 s ps) (m_free :
    Region.free ∈ ps) (m_sched : Region.sched ∈ ps) (m_seq : Region.seq ∈ ps) : Keeps s0 (State.shutEngines s) ps :=
    by
  unfold State.shutEngines
  grind [foldl_keeps', State.endOp_keeps, State.setBack_keeps, State.shutBags_keeps, State.shutColls_keeps,
    State.shutPackets_keeps]

theorem thermalShutdown_ok (s : State) (h_s : s.Ok) : (thermalShutdown s).Ok := by
  unfold thermalShutdown
  grind [State.Ok, foldl_ok, State.calm_ok, State.colMove_ok, State.endWindow_ok, State.finishGranted_ok,
    State.holdEval_ok, State.modPins_ok, State.modTherm_ok, State.raise_ok, State.selfRefreshEnter_ok,
    State.shutEngines_ok, State.shutPools_ok, State.shutUngranted_ok]

theorem thermalShutdown_keeps {s0 : State} {ps : List Region} (s : State) (h_s : Keeps s0 s ps) (m_free : Region.free
    ∈ ps) (m_pins : Region.pins ∈ ps) (m_paths : Region.paths ∈ ps) (m_pcs : Region.pcs ∈ ps) (m_copiers :
    Region.copiers ∈ ps) (m_stack : Region.stack ∈ ps) (m_inbox : Region.inbox ∈ ps) (m_ring : Region.ring ∈ ps) (m_fw
    : Region.fw ∈ ps) (m_sched : Region.sched ∈ ps) (m_seq : Region.seq ∈ ps) (m_tags : Region.tags ∈ ps) (m_therm :
    Region.therm ∈ ps) (m_inj : Region.inj ∈ ps) : Keeps s0 (thermalShutdown s) ps := by
  unfold thermalShutdown
  dsimp only
  repeat' first
      | with_reducible assumption
      | with_reducible apply ite_keeps
      | with_reducible refine foldl_keeps' (fun _ _ _ => ?_) _ ?_
      | with_reducible apply State.calm_keeps
      | with_reducible apply State.colMove_keeps
      | with_reducible apply State.endWindow_keeps
      | with_reducible apply State.finishGranted_keeps
      | with_reducible apply State.holdEval_keeps
      | with_reducible apply State.modPins_keeps
      | with_reducible apply State.modTherm_keeps
      | with_reducible apply State.raise_keeps
      | with_reducible apply State.selfRefreshEnter_keeps
      | with_reducible apply State.shutEngines_keeps
      | with_reducible apply State.shutPools_keeps
      | with_reducible apply State.shutUngranted_keeps
      | with_reducible apply Keeps.set_pcs
      | split

theorem execThermalShutdown_ok (s : State) (h_s : s.Ok) : ∀ x, (execThermalShutdown s) = .next x → x.Ok := by
  unfold execThermalShutdown
  grind [State.Ok, foldl_ok, State.onLive_ok, thermalShutdown_ok]

theorem execThermalShutdown_keeps {s0 : State} {ps : List Region} (s : State) (h_s : Keeps s0 s ps) (m_free :
    Region.free ∈ ps) (m_pins : Region.pins ∈ ps) (m_paths : Region.paths ∈ ps) (m_pcs : Region.pcs ∈ ps) (m_copiers :
    Region.copiers ∈ ps) (m_stack : Region.stack ∈ ps) (m_inbox : Region.inbox ∈ ps) (m_ring : Region.ring ∈ ps) (m_fw
    : Region.fw ∈ ps) (m_sched : Region.sched ∈ ps) (m_seq : Region.seq ∈ ps) (m_tags : Region.tags ∈ ps) (m_therm :
    Region.therm ∈ ps) (m_inj : Region.inj ∈ ps) : ∀ x, (execThermalShutdown s) = .next x → Keeps s0 x ps := by
  unfold execThermalShutdown
  grind [foldl_keeps', State.onLive_keeps, thermalShutdown_keeps]

theorem execComputeOffAckRise_ok (s : State) (h_s : s.Ok) : ∀ x, (execComputeOffAckRise s) = .next x → x.Ok := by
  unfold execComputeOffAckRise
  grind [State.Ok, foldl_ok, State.modPins_ok, State.modTherm_ok]

theorem execComputeOffAckRise_keeps {s0 : State} {ps : List Region} (s : State) (h_s : Keeps s0 s ps) (m_pins :
    Region.pins ∈ ps) (m_therm : Region.therm ∈ ps) : ∀ x, (execComputeOffAckRise s) = .next x → Keeps s0 x ps := by
  unfold execComputeOffAckRise
  grind [foldl_keeps', State.modPins_keeps, State.modTherm_keeps]

theorem computeOffLate_ok (s : State) (h_s : s.Ok) : (computeOffLate s).Ok := by
  unfold computeOffLate
  repeat' split
  all_goals grind [State.Ok, State.raise_ok, State.modTherm_ok, foldl_ok]

theorem computeOffLate_keeps {s0 : State} {ps : List Region} (s : State) (h_s : Keeps s0 s ps) (m_therm : Region.therm
    ∈ ps) : Keeps s0 (computeOffLate s) ps := by
  unfold computeOffLate
  repeat' split
  all_goals grind [foldl_keeps', State.raise_keeps, State.modTherm_keeps]

theorem execComputeOffLate_ok (s : State) (h_s : s.Ok) : ∀ x, (execComputeOffLate s) = .next x → x.Ok := by
  unfold execComputeOffLate
  grind [State.Ok, foldl_ok, State.onLive_ok, computeOffLate_ok]

theorem execComputeOffLate_keeps {s0 : State} {ps : List Region} (s : State) (h_s : Keeps s0 s ps) (m_therm :
    Region.therm ∈ ps) : ∀ x, (execComputeOffLate s) = .next x → Keeps s0 x ps := by
  unfold execComputeOffLate
  grind [foldl_keeps', State.onLive_keeps, computeOffLate_keeps]

theorem restartExpiry_ok (s : State) (h_s : s.Ok) : (restartExpiry s).Ok := by
  unfold restartExpiry
  grind [State.Ok, foldl_ok, State.modTherm_ok, State.selfRefreshExit_ok, State.setTstep_ok, State.setZstep_ok,
    State.sf_ok]

theorem restartExpiry_keeps {s0 : State} {ps : List Region} (s : State) (h_s : Keeps s0 s ps) (m_pcs : Region.pcs ∈
    ps) (m_stack : Region.stack ∈ ps) (m_therm : Region.therm ∈ ps) : Keeps s0 (restartExpiry s) ps := by
  unfold restartExpiry
  grind [foldl_keeps', State.modTherm_keeps, State.selfRefreshExit_keeps, State.setTstep_keeps, State.setZstep_keeps,
    State.sf_keeps]

theorem execRestartHoldExpiry_ok (s : State) (h_s : s.Ok) : ∀ x, (execRestartHoldExpiry s) = .next x → x.Ok := by
  unfold execRestartHoldExpiry
  grind [State.Ok, foldl_ok, State.onLive_ok, restartExpiry_ok]

theorem execRestartHoldExpiry_keeps {s0 : State} {ps : List Region} (s : State) (h_s : Keeps s0 s ps) (m_pcs :
    Region.pcs ∈ ps) (m_stack : Region.stack ∈ ps) (m_therm : Region.therm ∈ ps) : ∀ x, (execRestartHoldExpiry s) =
    .next x → Keeps s0 x ps := by
  unfold execRestartHoldExpiry
  grind [foldl_keeps', State.onLive_keeps, restartExpiry_keeps]

theorem thermalRestart_ok (s : State) (h_s : s.Ok) : (thermalRestart s).Ok := by
  unfold thermalRestart
  grind [State.Ok, foldl_ok, State.applyStep_ok, State.leaveIngress_ok, State.modPins_ok, State.modTherm_ok,
    State.resumeNotice_ok, State.resumePc_ok, State.sf_ok]

theorem thermalRestart_keeps {s0 : State} {ps : List Region} (s : State) (h_s : Keeps s0 s ps) (m_free : Region.free ∈
    ps) (m_pins : Region.pins ∈ ps) (m_pwr : Region.pwr ∈ ps) (m_paths : Region.paths ∈ ps) (m_pcs : Region.pcs ∈ ps)
    (m_stack : Region.stack ∈ ps) (m_inbox : Region.inbox ∈ ps) (m_ring : Region.ring ∈ ps) (m_fw : Region.fw ∈ ps)
    (m_tags : Region.tags ∈ ps) (m_therm : Region.therm ∈ ps) (m_inj : Region.inj ∈ ps) : Keeps s0 (thermalRestart s)
    ps := by
  unfold thermalRestart
  grind [foldl_keeps', State.applyStep_keeps, State.leaveIngress_keeps, State.modPins_keeps, State.modTherm_keeps,
    State.resumeNotice_keeps, State.resumePc_keeps, State.sf_keeps]

theorem execThermalRestart_ok (s : State) (h_s : s.Ok) : ∀ x, (execThermalRestart s) = .next x → x.Ok := by
  unfold execThermalRestart
  grind [State.Ok, foldl_ok, State.onLive_ok, thermalRestart_ok]

theorem execThermalRestart_keeps {s0 : State} {ps : List Region} (s : State) (h_s : Keeps s0 s ps) (m_free :
    Region.free ∈ ps) (m_pins : Region.pins ∈ ps) (m_pwr : Region.pwr ∈ ps) (m_paths : Region.paths ∈ ps) (m_pcs :
    Region.pcs ∈ ps) (m_stack : Region.stack ∈ ps) (m_inbox : Region.inbox ∈ ps) (m_ring : Region.ring ∈ ps) (m_fw :
    Region.fw ∈ ps) (m_tags : Region.tags ∈ ps) (m_therm : Region.therm ∈ ps) (m_inj : Region.inj ∈ ps) : ∀ x,
    (execThermalRestart s) = .next x → Keeps s0 x ps := by
  unfold execThermalRestart
  grind [foldl_keeps', State.onLive_keeps, thermalRestart_keeps]

theorem powerWindow_ok (mem : BitVec 16) (s : State) (h_s : s.Ok) : (powerWindow mem s).Ok := by
  unfold powerWindow
  repeat' split
  all_goals grind [State.Ok, State.sf_ok, State.applyStep_ok, State.modTherm_ok, foldl_ok]

theorem powerWindow_keeps {s0 : State} {ps : List Region} (mem : BitVec 16) (s : State) (h_s : Keeps s0 s ps) (m_pins
    : Region.pins ∈ ps) (m_fw : Region.fw ∈ ps) (m_therm : Region.therm ∈ ps) : Keeps s0 (powerWindow mem s) ps := by
  unfold powerWindow
  repeat' split
  all_goals grind [foldl_keeps', State.sf_keeps, State.applyStep_keeps, State.modTherm_keeps]

theorem execPowerWindowEnd_ok (mem : BitVec 16) (s : State) (h_s : s.Ok) : ∀ x, (execPowerWindowEnd mem s) = .next x →
    x.Ok := by
  unfold execPowerWindowEnd
  grind [State.Ok, foldl_ok, State.onLive_ok, powerWindow_ok]

theorem execPowerWindowEnd_keeps {s0 : State} {ps : List Region} (mem : BitVec 16) (s : State) (h_s : Keeps s0 s ps)
    (m_pins : Region.pins ∈ ps) (m_fw : Region.fw ∈ ps) (m_therm : Region.therm ∈ ps) : ∀ x, (execPowerWindowEnd mem
    s) = .next x → Keeps s0 x ps := by
  unfold execPowerWindowEnd
  grind [foldl_keeps', State.onLive_keeps, powerWindow_keeps]

theorem computePower_ok (v : Word) (s : State) (h_s : s.Ok) : (computePower v s).Ok := by
  unfold computePower
  grind [State.Ok, foldl_ok, State.modTherm_ok, State.sf_ok]

theorem computePower_keeps {s0 : State} {ps : List Region} (v : Word) (s : State) (h_s : Keeps s0 s ps) (m_therm :
    Region.therm ∈ ps) : Keeps s0 (computePower v s) ps := by
  unfold computePower
  grind [foldl_keeps', State.modTherm_keeps, State.sf_keeps]

theorem execComputePowerWrite_ok (v : Word) (s : State) (h_s : s.Ok) : ∀ x, (execComputePowerWrite v s) = .next x →
    x.Ok := by
  unfold execComputePowerWrite
  grind [State.Ok, foldl_ok, State.mgtWrite_ok, computePower_ok]

theorem execComputePowerWrite_keeps {s0 : State} {ps : List Region} (v : Word) (s : State) (h_s : Keeps s0 s ps)
    (m_mgt : Region.mgt ∈ ps) (m_therm : Region.therm ∈ ps) : ∀ x, (execComputePowerWrite v s) = .next x → Keeps s0 x
    ps := by
  unfold execComputePowerWrite
  grind [foldl_keeps', State.mgtWrite_keeps, computePower_keeps]

theorem computeStale_ok (s : State) (h_s : s.Ok) : (computeStale s).Ok := by
  unfold computeStale
  repeat' split
  all_goals grind [State.Ok, State.modTherm_ok, State.raise_ok, foldl_ok]

theorem computeStale_keeps {s0 : State} {ps : List Region} (s : State) (h_s : Keeps s0 s ps) (m_therm : Region.therm ∈
    ps) : Keeps s0 (computeStale s) ps := by
  unfold computeStale
  repeat' split
  all_goals grind [foldl_keeps', State.modTherm_keeps, State.raise_keeps]

theorem execComputeReportStale_ok (s : State) (h_s : s.Ok) : ∀ x, (execComputeReportStale s) = .next x → x.Ok := by
  unfold execComputeReportStale
  grind [State.Ok, foldl_ok, State.onLive_ok, computeStale_ok]

theorem execComputeReportStale_keeps {s0 : State} {ps : List Region} (s : State) (h_s : Keeps s0 s ps) (m_therm :
    Region.therm ∈ ps) : ∀ x, (execComputeReportStale s) = .next x → Keeps s0 x ps := by
  unfold execComputeReportStale
  grind [foldl_keeps', State.onLive_keeps, computeStale_keeps]

theorem State.orderedWrite_ok (s : State) (off : Nat) (v : Word) (h_s : s.Ok) : (State.orderedWrite s off v).Ok := by
  unfold State.orderedWrite
  grind [State.Ok, foldl_ok, State.wr_ok, State.raise_ok]

theorem State.orderedWrite_keeps {s0 : State} {ps : List Region} (s : State) (off : Nat) (v : Word) (h_s : Keeps s0 s
    ps) : Keeps s0 (State.orderedWrite s off v) ps := by
  unfold State.orderedWrite
  grind [foldl_keeps', State.wr_keeps, State.raise_keeps]

theorem execThresholdWrite_ok (k : Fin 27) (v : Word) (s : State) (h_s : s.Ok) : ∀ x, (execThresholdWrite k v s) =
    .next x → x.Ok := by
  unfold execThresholdWrite
  grind [State.Ok, foldl_ok, State.mgtWrite_ok, State.orderedWrite_ok]

theorem execThresholdWrite_keeps {s0 : State} {ps : List Region} (k : Fin 27) (v : Word) (s : State) (h_s : Keeps s0 s
    ps) (m_mgt : Region.mgt ∈ ps) : ∀ x, (execThresholdWrite k v s) = .next x → Keeps s0 x ps := by
  unfold execThresholdWrite
  grind [foldl_keeps', State.mgtWrite_keeps, State.orderedWrite_keeps]

end Sys2Proof.Machine
end

