-- ==== Sys2Proof/Laws/RmtOps.lean ====
section
/-! SUPPORT. Two lemmas for every operation of Machine/RmtOps.lean. `…_ok`: the register table and the stack's memory stay
canonical. `…_keeps`: what agrees with a state outside a list of regions that holds those the operation can change still
agrees afterwards. -/

namespace Sys2Proof.Machine

set_option Elab.async false

theorem State.modRmt_ok (s : State) (f : Rmt → Rmt) (h_s : s.Ok) : (State.modRmt s f).Ok := by
  unfold State.modRmt
  grind [State.Ok, foldl_ok]

theorem State.modRmt_keeps {s0 : State} {ps : List Region} (s : State) (f : Rmt → Rmt) (h_s : Keeps s0 s ps) (m_rmt :
    Region.rmt ∈ ps) : Keeps s0 (State.modRmt s f) ps := by
  unfold State.modRmt
  grind [foldl_keeps', Keeps.set_rmt]

theorem State.modSub_ok (s : State) (n : Fin 8) (f : SubPort → SubPort) (h_s : s.Ok) : (State.modSub s n f).Ok := by
  unfold State.modSub
  grind [State.Ok, foldl_ok, State.modRmt_ok]

theorem State.modSub_keeps {s0 : State} {ps : List Region} (s : State) (n : Fin 8) (f : SubPort → SubPort) (h_s :
    Keeps s0 s ps) (m_rmt : Region.rmt ∈ ps) : Keeps s0 (State.modSub s n f) ps := by
  unfold State.modSub
  grind [foldl_keeps', State.modRmt_keeps]

theorem State.ptPut_ok (s : State) (p : Nat) (v : Nat) (h_s : s.Ok) : (State.ptPut s p v).Ok := by
  unfold State.ptPut
  grind [State.Ok, foldl_ok, State.modRmt_ok]

theorem State.ptPut_keeps {s0 : State} {ps : List Region} (s : State) (p : Nat) (v : Nat) (h_s : Keeps s0 s ps) (m_rmt
    : Region.rmt ∈ ps) : Keeps s0 (State.ptPut s p v) ps := by
  unfold State.ptPut
  grind [foldl_keeps', State.modRmt_keeps]

theorem State.ptSet_ok (s : State) (p : Nat) (lo : Nat) (width : Nat) (v : Nat) (h_s : s.Ok) : (State.ptSet s p lo
    width v).Ok := by
  unfold State.ptSet
  grind [State.Ok, foldl_ok, State.ptPut_ok]

theorem State.ptSet_keeps {s0 : State} {ps : List Region} (s : State) (p : Nat) (lo : Nat) (width : Nat) (v : Nat)
    (h_s : Keeps s0 s ps) (m_rmt : Region.rmt ∈ ps) : Keeps s0 (State.ptSet s p lo width v) ps := by
  unfold State.ptSet
  grind [foldl_keeps', State.ptPut_keeps]

theorem State.takeSeq_ok (s : State) (p : Nat) (h_s : s.Ok) : (State.takeSeq s p).2.Ok := by
  unfold State.takeSeq
  grind [State.Ok, foldl_ok, State.ptSet_ok]

theorem State.takeSeq_keeps {s0 : State} {ps : List Region} (s : State) (p : Nat) (h_s : Keeps s0 s ps) (m_rmt :
    Region.rmt ∈ ps) : Keeps s0 (State.takeSeq s p).2 ps := by
  unfold State.takeSeq
  grind [foldl_keeps', State.ptSet_keeps]

theorem State.freeRx_ok (s : State) (x : RxFrame) (h_s : s.Ok) : (State.freeRx s x).Ok := by
  unfold State.freeRx
  grind [State.Ok, foldl_ok, State.modSub_ok]

theorem State.freeRx_keeps {s0 : State} {ps : List Region} (s : State) (x : RxFrame) (h_s : Keeps s0 s ps) (m_rmt :
    Region.rmt ∈ ps) : Keeps s0 (State.freeRx s x) ps := by
  unfold State.freeRx
  grind [foldl_keeps', State.modSub_keeps]

theorem State.control_ok (s : State) (n : Fin 8) (f : Frame) (h_s : s.Ok) : (State.control s n f).Ok := by
  unfold State.control
  grind [State.Ok, foldl_ok, State.modSub_ok]

theorem State.control_keeps {s0 : State} {ps : List Region} (s : State) (n : Fin 8) (f : Frame) (h_s : Keeps s0 s ps)
    (m_rmt : Region.rmt ∈ ps) : Keeps s0 (State.control s n f) ps := by
  unfold State.control
  grind [foldl_keeps', State.modSub_keeps]

theorem State.sendAck_ok (s : State) (p : Nat) (seq : Nat) (h_s : s.Ok) : (State.sendAck s p seq).Ok := by
  unfold State.sendAck
  grind [State.Ok, foldl_ok, State.control_ok]

theorem State.sendAck_keeps {s0 : State} {ps : List Region} (s : State) (p : Nat) (seq : Nat) (h_s : Keeps s0 s ps)
    (m_rmt : Region.rmt ∈ ps) : Keeps s0 (State.sendAck s p seq) ps := by
  unfold State.sendAck
  grind [foldl_keeps', State.control_keeps]

theorem State.settleTo_ok (s : State) (n : Fin 8) (now : Nat) (h_s : s.Ok) : (State.settleTo s n now).Ok := by
  unfold State.settleTo
  grind [State.Ok, foldl_ok, State.modSub_ok]

theorem State.settleTo_keeps {s0 : State} {ps : List Region} (s : State) (n : Fin 8) (now : Nat) (h_s : Keeps s0 s ps)
    (m_rmt : Region.rmt ∈ ps) : Keeps s0 (State.settleTo s n now) ps := by
  unfold State.settleTo
  grind [foldl_keeps', State.modSub_keeps]

theorem State.applyShapers_ok (s : State) (n : Fin 8) (h_s : s.Ok) : (State.applyShapers s n).Ok := by
  unfold State.applyShapers
  grind [State.Ok, foldl_ok, State.modSub_ok]

theorem State.applyShapers_keeps {s0 : State} {ps : List Region} (s : State) (n : Fin 8) (h_s : Keeps s0 s ps) (m_rmt
    : Region.rmt ∈ ps) : Keeps s0 (State.applyShapers s n) ps := by
  unfold State.applyShapers
  grind [foldl_keeps', State.modSub_keeps]

theorem State.settleSub_ok (s : State) (n : Fin 8) (h_s : s.Ok) : (State.settleSub s n).Ok := by
  unfold State.settleSub
  grind [State.Ok, foldl_ok, State.applyShapers_ok, State.settleTo_ok]

theorem State.settleSub_keeps {s0 : State} {ps : List Region} (s : State) (n : Fin 8) (h_s : Keeps s0 s ps) (m_rmt :
    Region.rmt ∈ ps) : Keeps s0 (State.settleSub s n) ps := by
  unfold State.settleSub
  grind [foldl_keeps', State.applyShapers_keeps, State.settleTo_keeps]

theorem State.ackFailed_ok (s : State) (partner : Nat) (coll : Option (Nat × Nat)) (h_s : s.Ok) : (State.ackFailed s
    partner coll).Ok := by
  unfold State.ackFailed
  grind [State.Ok, foldl_ok]

theorem State.ackFailed_keeps {s0 : State} {ps : List Region} (s : State) (partner : Nat) (coll : Option (Nat × Nat))
    (h_s : Keeps s0 s ps) (m_sched : Region.sched ∈ ps) : Keeps s0 (State.ackFailed s partner coll) ps := by
  unfold State.ackFailed
  grind [foldl_keeps', Keeps.set_sched]

theorem State.refuseTx_ok (s : State) (n : Fin 8) (x : Tx) (h_s : s.Ok) : (State.refuseTx s n x).2.Ok := by
  unfold State.refuseTx
  dsimp only
  repeat' first
      | with_reducible assumption
      | with_reducible apply ite_ok
      | with_reducible refine foldl_ok (fun _ _ _ => ?_) _ ?_
      | with_reducible apply State.ackFailed_ok
      | with_reducible apply State.countPort_ok
      | with_reducible apply State.modRmt_ok
      | with_reducible apply State.raise_ok
      | with_reducible apply State.reply_ok
      | split

theorem State.refuseTx_keeps {s0 : State} {ps : List Region} (s : State) (n : Fin 8) (x : Tx) (h_s : Keeps s0 s ps)
    (m_sched : Region.sched ∈ ps) (m_rmt : Region.rmt ∈ ps) : Keeps s0 (State.refuseTx s n x).2 ps := by
  unfold State.refuseTx
  dsimp only
  repeat' first
      | with_reducible assumption
      | with_reducible apply ite_keeps
      | with_reducible refine foldl_keeps' (fun _ _ _ => ?_) _ ?_
      | with_reducible apply State.ackFailed_keeps
      | with_reducible apply State.countPort_keeps
      | with_reducible apply State.modRmt_keeps
      | with_reducible apply State.raise_keeps
      | with_reducible apply State.reply_keeps
      | split

theorem State.enqueue_ok (s : State) (n : Fin 8) (x : Tx) (h_s : s.Ok) : (State.enqueue s n x).Ok := by
  unfold State.enqueue
  grind [State.Ok, foldl_ok, State.settleSub_ok, State.refuseTx_ok, State.modSub_ok]

theorem State.enqueue_keeps {s0 : State} {ps : List Region} (s : State) (n : Fin 8) (x : Tx) (h_s : Keeps s0 s ps)
    (m_sched : Region.sched ∈ ps) (m_rmt : Region.rmt ∈ ps) : Keeps s0 (State.enqueue s n x) ps := by
  unfold State.enqueue
  grind [foldl_keeps', State.settleSub_keeps, State.refuseTx_keeps, State.modSub_keeps]

theorem State.reply_ok (s : State) (p : Nat) (req : Frame) (st : Status) (detail : Nat) (deckle : Nat) (payload : List
    Byte) (h_s : s.Ok) : (State.reply s p req st detail deckle payload).Ok := by
  unfold State.reply
  grind [State.Ok, foldl_ok, State.takeSeq_ok, State.enqueue_ok]

theorem State.reply_keeps {s0 : State} {ps : List Region} (s : State) (p : Nat) (req : Frame) (st : Status) (detail :
    Nat) (deckle : Nat) (payload : List Byte) (h_s : Keeps s0 s ps) (m_sched : Region.sched ∈ ps) (m_rmt : Region.rmt
    ∈ ps) : Keeps s0 (State.reply s p req st detail deckle payload) ps := by
  unfold State.reply
  grind [foldl_keeps', State.takeSeq_keeps, State.enqueue_keeps]

theorem State.originate_ok (s : State) (p : Nat) (ackReq : Bool) (coll : Option (Nat × Nat)) (f : Frame) (h_s : s.Ok)
    : (State.originate s p ackReq coll f).Ok := by
  unfold State.originate
  grind [State.Ok, foldl_ok, State.takeSeq_ok, State.enqueue_ok]

theorem State.originate_keeps {s0 : State} {ps : List Region} (s : State) (p : Nat) (ackReq : Bool) (coll : Option
    (Nat × Nat)) (f : Frame) (h_s : Keeps s0 s ps) (m_sched : Region.sched ∈ ps) (m_rmt : Region.rmt ∈ ps) : Keeps s0
    (State.originate s p ackReq coll f) ps := by
  unfold State.originate
  grind [foldl_keeps', State.takeSeq_keeps, State.enqueue_keeps]

theorem State.holdClasses_ok (s : State) (n : Fin 8) (h_s : s.Ok) : (State.holdClasses s n).Ok := by
  unfold State.holdClasses
  grind [State.Ok, foldl_ok, State.modSub_ok]

theorem State.holdClasses_keeps {s0 : State} {ps : List Region} (s : State) (n : Fin 8) (h_s : Keeps s0 s ps) (m_rmt :
    Region.rmt ∈ ps) : Keeps s0 (State.holdClasses s n) ps := by
  unfold State.holdClasses
  grind [foldl_keeps', State.modSub_keeps]

theorem State.openGates_ok (s : State) (n : Fin 8) (old : Fin 8 → Bool) (h_s : s.Ok) : (State.openGates s n old).Ok :=
    by
  unfold State.openGates
  grind [State.Ok, foldl_ok, State.modSub_ok]

theorem State.openGates_keeps {s0 : State} {ps : List Region} (s : State) (n : Fin 8) (old : Fin 8 → Bool) (h_s :
    Keeps s0 s ps) (m_rmt : Region.rmt ∈ ps) : Keeps s0 (State.openGates s n old) ps := by
  unfold State.openGates
  grind [foldl_keeps', State.modSub_keeps]

theorem State.settleAlt_ok (s : State) (h_s : s.Ok) : (State.settleAlt s).Ok := by
  unfold State.settleAlt
  grind [State.Ok, foldl_ok, State.ptSet_ok]

theorem State.settleAlt_keeps {s0 : State} {ps : List Region} (s : State) (h_s : Keeps s0 s ps) (m_rmt : Region.rmt ∈
    ps) : Keeps s0 (State.settleAlt s) ps := by
  unfold State.settleAlt
  grind [foldl_keeps', State.ptSet_keeps]

theorem State.ringFrame_ok (s : State) (x : RxFrame) (dst : Nat × Option Nat) (h_s : s.Ok) : (State.ringFrame s x
    dst).Ok := by
  unfold State.ringFrame
  grind [State.Ok, foldl_ok, State.freeRx_ok, State.modRing_ok, State.modRmt_ok, State.onPort_ok, State.tick_ok]

theorem State.ringFrame_keeps {s0 : State} {ps : List Region} (s : State) (x : RxFrame) (dst : Nat × Option Nat) (h_s :
    Keeps s0 s ps) (m_free : Region.free ∈ ps) (m_ring : Region.ring ∈ ps) (m_rmt : Region.rmt ∈ ps) (m_inj :
    Region.inj ∈ ps) : Keeps s0 (State.ringFrame s x dst) ps := by
  unfold State.ringFrame
  grind [foldl_keeps', State.freeRx_keeps, State.modRing_keeps, State.modRmt_keeps, State.onPort_keeps,
    State.tick_keeps]

theorem State.pumpRing_ok (s : State) (h_s : s.Ok) : (State.pumpRing s).Ok := by
  unfold State.pumpRing
  grind [State.Ok, foldl_ok, State.modRmt_ok, State.ringFrame_ok]

theorem State.pumpRing_keeps {s0 : State} {ps : List Region} (s : State) (h_s : Keeps s0 s ps) (m_free : Region.free ∈
    ps) (m_ring : Region.ring ∈ ps) (m_rmt : Region.rmt ∈ ps) (m_inj : Region.inj ∈ ps) : Keeps s0 (State.pumpRing s)
    ps := by
  unfold State.pumpRing
  grind [foldl_keeps', State.modRmt_keeps, State.ringFrame_keeps]

theorem State.pumpFwd_ok (s : State) (h_s : s.Ok) : (State.pumpFwd s).Ok := by
  unfold State.pumpFwd
  grind [State.Ok, foldl_ok, State.freeRx_ok, State.enqueue_ok, State.modRmt_ok]

theorem State.pumpFwd_keeps {s0 : State} {ps : List Region} (s : State) (h_s : Keeps s0 s ps) (m_sched : Region.sched
    ∈ ps) (m_rmt : Region.rmt ∈ ps) : Keeps s0 (State.pumpFwd s) ps := by
  unfold State.pumpFwd
  grind [foldl_keeps', State.freeRx_keeps, State.enqueue_keeps, State.modRmt_keeps]

theorem State.toForward_ok (s : State) (n : Fin 8) (x : RxFrame) (h_s : s.Ok) : (State.toForward s n x).Ok := by
  unfold State.toForward
  grind [State.Ok, foldl_ok, State.pumpFwd_ok, State.modRmt_ok]

theorem State.toForward_keeps {s0 : State} {ps : List Region} (s : State) (n : Fin 8) (x : RxFrame) (h_s : Keeps s0 s
    ps) (m_sched : Region.sched ∈ ps) (m_rmt : Region.rmt ∈ ps) : Keeps s0 (State.toForward s n x) ps := by
  unfold State.toForward
  grind [foldl_keeps', State.pumpFwd_keeps, State.modRmt_keeps]

theorem State.forward_ok (s : State) (x : RxFrame) (h_s : s.Ok) : (State.forward s x).Ok := by
  unfold State.forward
  grind [State.Ok, foldl_ok, State.countPort_ok, State.freeRx_ok, State.raise_ok, State.ringFrame_ok,
    State.toForward_ok]

theorem State.forward_keeps {s0 : State} {ps : List Region} (s : State) (x : RxFrame) (h_s : Keeps s0 s ps) (m_free :
    Region.free ∈ ps) (m_ring : Region.ring ∈ ps) (m_sched : Region.sched ∈ ps) (m_rmt : Region.rmt ∈ ps) (m_inj :
    Region.inj ∈ ps) : Keeps s0 (State.forward s x) ps := by
  unfold State.forward
  grind [foldl_keeps', State.countPort_keeps, State.freeRx_keeps, State.raise_keeps, State.ringFrame_keeps,
    State.toForward_keeps]

theorem State.takeFrame_ok (s : State) (x : RxFrame) (h_s : s.Ok) : (State.takeFrame s x).2.Ok := by
  unfold State.takeFrame
  grind [State.Ok, foldl_ok, State.ptSet_ok, State.modRmt_ok, State.sendAck_ok]

theorem State.takeFrame_keeps {s0 : State} {ps : List Region} (s : State) (x : RxFrame) (h_s : Keeps s0 s ps) (m_rmt :
    Region.rmt ∈ ps) : Keeps s0 (State.takeFrame s x).2 ps := by
  unfold State.takeFrame
  grind [foldl_keeps', State.ptSet_keeps, State.modRmt_keeps, State.sendAck_keeps]

theorem State.takeHeld_ok (u0 : Nat) (u1 : Nat) (u2 : State) (h_u2 : u2.Ok) : (State.takeHeld u0 u1 u2).Ok := by
  induction u0 generalizing u1 u2 with
  | zero => unfold State.takeHeld; grind [State.Ok, foldl_ok, State.freeRx_ok, State.modRmt_ok, State.takeFrame_ok]
  | succ n ih => unfold State.takeHeld; grind [State.Ok, foldl_ok, State.freeRx_ok, State.modRmt_ok, State.takeFrame_ok]

theorem State.takeHeld_keeps {s0 : State} {ps : List Region} (u0 : Nat) (u1 : Nat) (u2 : State) (h_u2 : Keeps s0 u2
    ps) (m_rmt : Region.rmt ∈ ps) : Keeps s0 (State.takeHeld u0 u1 u2) ps := by
  induction u0 generalizing u1 u2 with
  | zero => unfold State.takeHeld; grind [foldl_keeps', State.freeRx_keeps, State.modRmt_keeps, State.takeFrame_keeps]
  | succ n ih => unfold State.takeHeld; grind [foldl_keeps', State.freeRx_keeps, State.modRmt_keeps, State.takeFrame_keeps]

theorem State.receive_ok (s : State) (x : RxFrame) (h_s : s.Ok) : (State.receive s x).Ok := by
  unfold State.receive
  dsimp only
  repeat' first
      | with_reducible assumption
      | with_reducible apply ite_ok
      | with_reducible refine foldl_ok (fun _ _ _ => ?_) _ ?_
      | with_reducible apply State.countPort_ok
      | with_reducible apply State.freeRx_ok
      | with_reducible apply State.modRmt_ok
      | with_reducible apply State.raise_ok
      | with_reducible apply State.sendAck_ok
      | with_reducible apply State.takeFrame_ok
      | with_reducible apply State.takeHeld_ok
      | split

theorem State.receive_keeps {s0 : State} {ps : List Region} (s : State) (x : RxFrame) (h_s : Keeps s0 s ps) (m_rmt :
    Region.rmt ∈ ps) : Keeps s0 (State.receive s x) ps := by
  unfold State.receive
  dsimp only
  repeat' first
      | with_reducible assumption
      | with_reducible apply ite_keeps
      | with_reducible refine foldl_keeps' (fun _ _ _ => ?_) _ ?_
      | with_reducible apply State.countPort_keeps
      | with_reducible apply State.freeRx_keeps
      | with_reducible apply State.modRmt_keeps
      | with_reducible apply State.raise_keeps
      | with_reducible apply State.sendAck_keeps
      | with_reducible apply State.takeFrame_keeps
      | with_reducible apply State.takeHeld_keeps
      | split

theorem State.route'_ok (s : State) (x : RxFrame) (h_s : s.Ok) : (State.route' s x).Ok := by
  unfold State.route'
  grind [State.Ok, foldl_ok, State.forward_ok, State.receive_ok, State.ringFrame_ok]

theorem State.route'_keeps {s0 : State} {ps : List Region} (s : State) (x : RxFrame) (h_s : Keeps s0 s ps) (m_free :
    Region.free ∈ ps) (m_ring : Region.ring ∈ ps) (m_sched : Region.sched ∈ ps) (m_rmt : Region.rmt ∈ ps) (m_inj :
    Region.inj ∈ ps) : Keeps s0 (State.route' s x) ps := by
  unfold State.route'
  grind [foldl_keeps', State.forward_keeps, State.receive_keeps, State.ringFrame_keeps]

theorem State.frameFromRing_ok (s : State) (east : Bool) (bytes : List Byte) (sub : Option Nat) (h_s : s.Ok) :
    (State.frameFromRing s east bytes sub).Ok := by
  unfold State.frameFromRing
  grind [State.Ok, foldl_ok, State.route'_ok, State.toForward_ok]

theorem State.frameFromRing_keeps {s0 : State} {ps : List Region} (s : State) (east : Bool) (bytes : List Byte) (sub :
    Option Nat) (h_s : Keeps s0 s ps) (m_free : Region.free ∈ ps) (m_ring : Region.ring ∈ ps) (m_sched : Region.sched
    ∈ ps) (m_rmt : Region.rmt ∈ ps) (m_inj : Region.inj ∈ ps) : Keeps s0 (State.frameFromRing s east bytes sub) ps :=
    by
  unfold State.frameFromRing
  grind [foldl_keeps', State.route'_keeps, State.toForward_keeps]

end Sys2Proof.Machine
end

