-- ==== Sys2Proof/Laws/Chain.lean ====
section
/-! SUPPORT. Two lemmas for every operation of Machine/Chain.lean. `…_ok`: the register table and the stack's memory stay
canonical. `…_keeps`: what agrees with a state outside a list of regions that holds those the operation can change still
agrees afterwards. -/

namespace Sys2Proof.Machine

set_option Elab.async false

theorem State.takeWord_ok (s : State) (down : Bool) (f : Word → Bool) (h_s : s.Ok) : ∀ a b, (State.takeWord s down f)
    = some (a, b) → b.Ok := by
  intro a b hx
  obtain ⟨x, -, hx⟩ := Option.map_eq_some_iff.mp hx
  grind [State.modChain_ok]

theorem State.takeWord_keeps {s0 : State} {ps : List Region} (s : State) (down : Bool) (f : Word → Bool) (h_s : Keeps
    s0 s ps) (m_chain : Region.chain ∈ ps) : ∀ a b, (State.takeWord s down f) = some (a, b) → Keeps s0 b ps := by
  intro a b hx
  obtain ⟨x, -, hx⟩ := Option.map_eq_some_iff.mp hx
  grind [State.modChain_keeps]

theorem State.takeKind_ok (s : State) (down : Bool) (kind : Nat) (h_s : s.Ok) : ∀ a b, (State.takeKind s down kind) =
    some (a, b) → b.Ok := by
  exact fun a b hx => State.takeWord_ok _ _ _ h_s a b hx

theorem State.takeKind_keeps {s0 : State} {ps : List Region} (s : State) (down : Bool) (kind : Nat) (h_s : Keeps s0 s
    ps) (m_chain : Region.chain ∈ ps) : ∀ a b, (State.takeKind s down kind) = some (a, b) → Keeps s0 b ps := by
  unfold State.takeKind
  grind [foldl_keeps', State.takeWord_keeps]

theorem chainReceive_ok (down : Bool) (w : Word) (parity : Bool) (stop : Bool) (s : State) (h_s : s.Ok) :
    (chainReceive down w parity stop s).Ok := by
  unfold chainReceive
  grind [State.Ok, foldl_ok, State.bumpSat_ok, State.chainDown_ok, State.chainUp_ok, State.modChain_ok]

theorem chainReceive_keeps {s0 : State} {ps : List Region} (down : Bool) (w : Word) (parity : Bool) (stop : Bool) (s :
    State) (h_s : Keeps s0 s ps) (m_pins : Region.pins ∈ ps) (m_chain : Region.chain ∈ ps) : Keeps s0 (chainReceive
    down w parity stop s) ps := by
  unfold chainReceive
  grind [foldl_keeps', State.bumpSat_keeps, State.chainDown_keeps, State.chainUp_keeps, State.modChain_keeps]

theorem execChainWordReceive_ok (down : Bool) (w : Word) (parity : Bool) (stop : Bool) (s : State) (h_s : s.Ok) : ∀ x,
    (execChainWordReceive down w parity stop s) = .next x → x.Ok := by
  unfold execChainWordReceive
  grind [State.Ok, foldl_ok, State.onLive_ok, chainReceive_ok]

theorem execChainWordReceive_keeps {s0 : State} {ps : List Region} (down : Bool) (w : Word) (parity : Bool) (stop :
    Bool) (s : State) (h_s : Keeps s0 s ps) (m_pins : Region.pins ∈ ps) (m_chain : Region.chain ∈ ps) : ∀ x,
    (execChainWordReceive down w parity stop s) = .next x → Keeps s0 x ps := by
  unfold execChainWordReceive
  grind [foldl_keeps', State.onLive_keeps, chainReceive_keeps]

theorem State.sendEnum_ok (s : State) (h_s : s.Ok) : (State.sendEnum s).Ok := by
  unfold State.sendEnum
  grind [State.Ok, foldl_ok, State.chainDown_ok, State.modChain_ok]

theorem State.sendEnum_keeps {s0 : State} {ps : List Region} (s : State) (h_s : Keeps s0 s ps) (m_pins : Region.pins ∈
    ps) (m_chain : Region.chain ∈ ps) : Keeps s0 (State.sendEnum s) ps := by
  unfold State.sendEnum
  grind [foldl_keeps', State.chainDown_keeps, State.modChain_keeps]

theorem State.enumFault_ok (s : State) (h_s : s.Ok) : (State.enumFault s).Ok := by
  unfold State.enumFault
  grind [State.Ok, foldl_ok, State.raise_ok]

theorem State.enumFault_keeps {s0 : State} {ps : List Region} (s : State) (h_s : Keeps s0 s ps) : Keeps s0
    (State.enumFault s) ps := by
  unfold State.enumFault
  grind [foldl_keeps', State.raise_keeps]

theorem State.setNumbers_ok (s : State) (inst : Nat) (die : Nat) (h_s : s.Ok) : (State.setNumbers s inst die).Ok := by
  unfold State.setNumbers
  grind [State.Ok, foldl_ok, State.raise_ok, State.sf_ok]

theorem State.setNumbers_keeps {s0 : State} {ps : List Region} (s : State) (inst : Nat) (die : Nat) (h_s : Keeps s0 s
    ps) : Keeps s0 (State.setNumbers s inst die) ps := by
  unfold State.setNumbers
  grind [foldl_keeps', State.raise_keeps, State.sf_keeps]

theorem enumStart_ok (s : State) (h_s : s.Ok) : (enumStart s).Ok := by
  unfold enumStart
  grind [State.Ok, foldl_ok, State.modChain_ok, State.sendEnum_ok, State.setNumbers_ok]

theorem enumStart_keeps {s0 : State} {ps : List Region} (s : State) (h_s : Keeps s0 s ps) (m_pins : Region.pins ∈ ps)
    (m_chain : Region.chain ∈ ps) : Keeps s0 (enumStart s) ps := by
  unfold enumStart
  grind [foldl_keeps', State.modChain_keeps, State.sendEnum_keeps, State.setNumbers_keeps]

theorem execEnumerationStart_ok (s : State) (h_s : s.Ok) : ∀ x, (execEnumerationStart s) = .next x → x.Ok := by
  unfold execEnumerationStart
  grind [State.Ok, foldl_ok, State.onLive_ok, enumStart_ok]

theorem execEnumerationStart_keeps {s0 : State} {ps : List Region} (s : State) (h_s : Keeps s0 s ps) (m_pins :
    Region.pins ∈ ps) (m_chain : Region.chain ∈ ps) : ∀ x, (execEnumerationStart s) = .next x → Keeps s0 x ps := by
  unfold execEnumerationStart
  grind [foldl_keeps', State.onLive_keeps, enumStart_keeps]

theorem enum_ok (s : State) (h_s : s.Ok) : (enum s).Ok := by
  unfold enum
  grind [State.Ok, foldl_ok, State.enumFault_ok, State.sendEnum_ok, State.setNumbers_ok, State.takeKind_ok]

theorem enum_keeps {s0 : State} {ps : List Region} (s : State) (h_s : Keeps s0 s ps) (m_pins : Region.pins ∈ ps)
    (m_chain : Region.chain ∈ ps) : Keeps s0 (enum s) ps := by
  unfold enum
  grind [foldl_keeps', State.enumFault_keeps, State.sendEnum_keeps, State.setNumbers_keeps, State.takeKind_keeps]

theorem execEnum_ok (s : State) (h_s : s.Ok) : ∀ x, (execEnum s) = .next x → x.Ok := by
  unfold execEnum
  grind [State.Ok, foldl_ok, State.onLive_ok, enum_ok]

theorem execEnum_keeps {s0 : State} {ps : List Region} (s : State) (h_s : Keeps s0 s ps) (m_pins : Region.pins ∈ ps)
    (m_chain : Region.chain ∈ ps) : ∀ x, (execEnum s) = .next x → Keeps s0 x ps := by
  unfold execEnum
  grind [foldl_keeps', State.onLive_keeps, enum_keeps]

theorem State.setTime_ok (s : State) (t : Nat) (h_s : s.Ok) : (State.setTime s t).Ok := by
  unfold State.setTime
  grind [State.Ok, foldl_ok]

theorem State.setTime_keeps {s0 : State} {ps : List Region} (s : State) (t : Nat) (h_s : Keeps s0 s ps) (m_clk :
    Region.clk ∈ ps) : Keeps s0 (State.setTime s t) ps := by
  unfold State.setTime
  grind [foldl_keeps', Keeps.set_clk]

theorem State.timeZero_ok (s : State) (h_s : s.Ok) : (State.timeZero s).Ok := by
  unfold State.timeZero
  grind [State.Ok, foldl_ok, State.setTime_ok]

theorem State.timeZero_keeps {s0 : State} {ps : List Region} (s : State) (h_s : Keeps s0 s ps) (m_clk : Region.clk ∈
    ps) : Keeps s0 (State.timeZero s) ps := by
  unfold State.timeZero
  grind [foldl_keeps', State.setTime_keeps]

theorem State.headLast_ok (s : State) (n : Nat) (h_s : s.Ok) : (State.headLast s n).Ok := by
  unfold State.headLast
  grind [State.Ok, foldl_ok, State.chainDown_ok, State.modChain_ok, State.sf_ok, State.timeZero_ok]

theorem State.headLast_keeps {s0 : State} {ps : List Region} (s : State) (n : Nat) (h_s : Keeps s0 s ps) (m_pins :
    Region.pins ∈ ps) (m_clk : Region.clk ∈ ps) (m_chain : Region.chain ∈ ps) : Keeps s0 (State.headLast s n) ps := by
  unfold State.headLast
  grind [foldl_keeps', State.chainDown_keeps, State.modChain_keeps, State.sf_keeps, State.timeZero_keeps]

theorem State.rdyHigh_ok (s : State) (h_s : s.Ok) : (State.rdyHigh s).Ok := by
  unfold State.rdyHigh
  grind [State.Ok, foldl_ok, State.modChain_ok, State.modPins_ok, State.tick_ok]

theorem State.rdyHigh_keeps {s0 : State} {ps : List Region} (s : State) (h_s : Keeps s0 s ps) (m_pins : Region.pins
    ∈ ps) (m_chain : Region.chain ∈ ps) (m_free : Region.free ∈ ps) : Keeps s0 (State.rdyHigh s) ps := by
  unfold State.rdyHigh
  grind [foldl_keeps', State.modChain_keeps, State.modPins_keeps, State.tick_keeps]

theorem chainRdyRise_ok (s : State) (h_s : s.Ok) : (chainRdyRise s).Ok := by
  unfold chainRdyRise
  grind [State.Ok, foldl_ok, State.chainPump_ok, State.rdyHigh_ok, State.sendEnum_ok]

theorem chainRdyRise_keeps {s0 : State} {ps : List Region} (s : State) (h_s : Keeps s0 s ps) (m_pins : Region.pins ∈ ps)
    (m_chain : Region.chain ∈ ps) (m_free : Region.free ∈ ps) : Keeps s0 (chainRdyRise s) ps := by
  unfold chainRdyRise
  grind [foldl_keeps', State.chainPump_keeps, State.rdyHigh_keeps, State.sendEnum_keeps]

theorem execChainERdyRise_ok (s : State) (h_s : s.Ok) : ∀ x, (execChainERdyRise s) =
    .next x → x.Ok := by
  unfold execChainERdyRise
  grind [State.Ok, foldl_ok, State.rdyHigh_ok, chainRdyRise_ok]

theorem execChainERdyRise_keeps {s0 : State} {ps : List Region} (s : State) (h_s : Keeps s0 s ps) (m_pins : Region.pins ∈
    ps) (m_chain : Region.chain ∈ ps) (m_free : Region.free ∈ ps) : ∀ x, (execChainERdyRise s) = .next x → Keeps s0 x ps := by
  unfold execChainERdyRise
  grind [foldl_keeps', State.rdyHigh_keeps, chainRdyRise_keeps]

theorem enumLastTimeout_ok (s : State) (h_s : s.Ok) : (enumLastTimeout s).Ok := by
  unfold enumLastTimeout
  repeat' split
  all_goals grind [State.chainUp_ok, State.headLast_ok, State.modChain_ok, State.raise_ok]

theorem enumLastTimeout_keeps {s0 : State} {ps : List Region} (s : State) (h_s : Keeps s0 s ps) (m_pins : Region.pins
    ∈ ps) (m_clk : Region.clk ∈ ps) (m_chain : Region.chain ∈ ps) : Keeps s0 (enumLastTimeout s) ps := by
  unfold enumLastTimeout
  repeat' split
  all_goals grind [State.chainUp_keeps, State.headLast_keeps, State.modChain_keeps, State.raise_keeps]

theorem execEnumLastTimeout_ok (s : State) (h_s : s.Ok) : ∀ x, (execEnumLastTimeout s) = .next x → x.Ok := by
  unfold execEnumLastTimeout
  grind [State.Ok, foldl_ok, State.onLive_ok, enumLastTimeout_ok]

theorem execEnumLastTimeout_keeps {s0 : State} {ps : List Region} (s : State) (h_s : Keeps s0 s ps) (m_pins :
    Region.pins ∈ ps) (m_clk : Region.clk ∈ ps) (m_chain : Region.chain ∈ ps) : ∀ x, (execEnumLastTimeout s) = .next x
    → Keeps s0 x ps := by
  unfold execEnumLastTimeout
  grind [foldl_keeps', State.onLive_keeps, enumLastTimeout_keeps]

theorem enumHeadTimeout_ok (s : State) (h_s : s.Ok) : (enumHeadTimeout s).Ok := by
  unfold enumHeadTimeout
  repeat' split
  all_goals grind [State.Ok, State.enumFault_ok, State.modChain_ok, foldl_ok]

theorem enumHeadTimeout_keeps {s0 : State} {ps : List Region} (s : State) (h_s : Keeps s0 s ps) (m_chain :
    Region.chain ∈ ps) : Keeps s0 (enumHeadTimeout s) ps := by
  unfold enumHeadTimeout
  repeat' split
  all_goals grind [foldl_keeps', State.enumFault_keeps, State.modChain_keeps]

theorem execEnumHeadTimeout_ok (s : State) (h_s : s.Ok) : ∀ x, (execEnumHeadTimeout s) = .next x → x.Ok := by
  unfold execEnumHeadTimeout
  grind [State.Ok, foldl_ok, State.onLive_ok, enumHeadTimeout_ok]

theorem execEnumHeadTimeout_keeps {s0 : State} {ps : List Region} (s : State) (h_s : Keeps s0 s ps) (m_chain :
    Region.chain ∈ ps) : ∀ x, (execEnumHeadTimeout s) = .next x → Keeps s0 x ps := by
  unfold execEnumHeadTimeout
  grind [foldl_keeps', State.onLive_keeps, enumHeadTimeout_keeps]

theorem lastWord_ok (s : State) (h_s : s.Ok) : (lastWord s).Ok := by
  unfold lastWord
  grind [State.Ok, foldl_ok, State.headLast_ok, State.takeKind_ok]

theorem lastWord_keeps {s0 : State} {ps : List Region} (s : State) (h_s : Keeps s0 s ps) (m_pins : Region.pins ∈ ps)
    (m_clk : Region.clk ∈ ps) (m_chain : Region.chain ∈ ps) : Keeps s0 (lastWord s) ps := by
  unfold lastWord
  grind [foldl_keeps', State.headLast_keeps, State.takeKind_keeps]

theorem execLast_ok (s : State) (h_s : s.Ok) : ∀ x, (execLast s) = .next x → x.Ok := by
  unfold execLast
  grind [State.Ok, foldl_ok, State.onLive_ok, lastWord_ok]

theorem execLast_keeps {s0 : State} {ps : List Region} (s : State) (h_s : Keeps s0 s ps) (m_pins : Region.pins ∈ ps)
    (m_clk : Region.clk ∈ ps) (m_chain : Region.chain ∈ ps) : ∀ x, (execLast s) = .next x → Keeps s0 x ps := by
  unfold execLast
  grind [foldl_keeps', State.onLive_keeps, lastWord_keeps]

theorem sizeWord_ok (s : State) (h_s : s.Ok) : (sizeWord s).Ok := by
  unfold sizeWord
  repeat' split
  all_goals grind [State.Ok, State.takeKind_ok, State.sf_ok, foldl_ok]

theorem sizeWord_keeps {s0 : State} {ps : List Region} (s : State) (h_s : Keeps s0 s ps) (m_chain : Region.chain ∈ ps)
    : Keeps s0 (sizeWord s) ps := by
  unfold sizeWord
  grind [foldl_keeps', State.takeKind_keeps, State.sf_keeps]

theorem execSize_ok (s : State) (h_s : s.Ok) : ∀ x, (execSize s) = .next x → x.Ok := by
  unfold execSize
  grind [State.Ok, foldl_ok, State.onLive_ok, sizeWord_ok]

theorem execSize_keeps {s0 : State} {ps : List Region} (s : State) (h_s : Keeps s0 s ps) (m_chain : Region.chain ∈ ps)
    : ∀ x, (execSize s) = .next x → Keeps s0 x ps := by
  unfold execSize
  grind [foldl_keeps', State.onLive_keeps, sizeWord_keeps]

theorem execTimeZero_ok (s : State) (h_s : s.Ok) : ∀ x, (execTimeZero s) = .next x → x.Ok := by
  unfold execTimeZero
  repeat' split
  all_goals grind [State.Ok, State.onLive_ok, State.takeKind_ok, State.timeZero_ok, foldl_ok]

theorem execTimeZero_keeps {s0 : State} {ps : List Region} (s : State) (h_s : Keeps s0 s ps) (m_clk : Region.clk ∈ ps)
    (m_chain : Region.chain ∈ ps) : ∀ x, (execTimeZero s) = .next x → Keeps s0 x ps := by
  unfold execTimeZero
  grind [foldl_keeps', State.onLive_keeps, State.takeKind_keeps, State.timeZero_keeps]

theorem rejoin_ok (s : State) (h_s : s.Ok) : (rejoin s).Ok := by
  unfold rejoin
  grind [State.Ok, foldl_ok, State.chainDown_ok, State.chainUp_ok, State.takeKind_ok]

theorem rejoin_keeps {s0 : State} {ps : List Region} (s : State) (h_s : Keeps s0 s ps) (m_pins : Region.pins ∈ ps)
    (m_chain : Region.chain ∈ ps) : Keeps s0 (rejoin s) ps := by
  unfold rejoin
  grind [foldl_keeps', State.chainDown_keeps, State.chainUp_keeps, State.takeKind_keeps]

theorem execRejoin_ok (s : State) (h_s : s.Ok) : ∀ x, (execRejoin s) = .next x → x.Ok := by
  unfold execRejoin
  grind [State.Ok, foldl_ok, State.onLive_ok, rejoin_ok]

theorem execRejoin_keeps {s0 : State} {ps : List Region} (s : State) (h_s : Keeps s0 s ps) (m_pins : Region.pins ∈ ps)
    (m_chain : Region.chain ∈ ps) : ∀ x, (execRejoin s) = .next x → Keeps s0 x ps := by
  unfold execRejoin
  grind [foldl_keeps', State.onLive_keeps, rejoin_keeps]

end Sys2Proof.Machine
end

