-- ==== Sys2Proof/Laws/D2d.lean ====
section
/-! SUPPORT. Two lemmas for every operation of Machine/D2d.lean. `…_ok`: the register table and the stack's memory stay
canonical. `…_keeps`: what agrees with a state outside a list of regions that holds those the operation can change still
agrees afterwards. -/

namespace Sys2Proof.Machine

set_option Elab.async false

theorem State.modModule_ok (s : State) (east : Bool) (m : Fin 2) (f : D2dModule → D2dModule) (h_s : s.Ok) :
    (State.modModule s east m f).Ok := by
  unfold State.modModule
  grind [State.Ok, foldl_ok, State.modD2d_ok]

theorem State.modModule_keeps {s0 : State} {ps : List Region} (s : State) (east : Bool) (m : Fin 2) (f : D2dModule →
    D2dModule) (h_s : Keeps s0 s ps) (m_ring : Region.ring ∈ ps) : Keeps s0 (State.modModule s east m f) ps := by
  unfold State.modModule
  grind [foldl_keeps', State.modD2d_keeps]

theorem State.endLanes_ok (s : State) (east : Bool) (m : Fin 2) (sound : Bool) (failed : List Nat) (h_s : s.Ok) :
    (State.endLanes s east m sound failed).Ok := by
  unfold State.endLanes
  grind [State.Ok, foldl_ok, State.fec_ok, State.logRec_ok, State.modModule_ok, State.raise_ok, State.sf_ok]

theorem State.endLanes_keeps {s0 : State} {ps : List Region} (s : State) (east : Bool) (m : Fin 2) (sound : Bool)
    (failed : List Nat) (h_s : Keeps s0 s ps) (m_inbox : Region.inbox ∈ ps) (m_ring : Region.ring ∈ ps) : Keeps s0
    (State.endLanes s east m sound failed) ps := by
  unfold State.endLanes
  dsimp only
  repeat' first
      | with_reducible assumption
      | with_reducible apply ite_keeps
      | with_reducible refine foldl_keeps' (fun _ _ _ => ?_) _ ?_
      | with_reducible apply State.fec_keeps
      | with_reducible apply State.logRec_keeps
      | with_reducible apply State.modModule_keeps
      | with_reducible apply State.raise_keeps
      | with_reducible apply State.sf_keeps
      | split

theorem State.shapeRing_ok (s : State) (h_s : s.Ok) : (State.shapeRing s).Ok := by
  unfold State.shapeRing
  grind [State.Ok, foldl_ok, State.sf_ok]

theorem State.shapeRing_keeps {s0 : State} {ps : List Region} (s : State) (h_s : Keeps s0 s ps) : Keeps s0
    (State.shapeRing s) ps := by
  unfold State.shapeRing
  grind [foldl_keeps', State.sf_keeps]

theorem State.setLink_ok (s : State) (i : Nat) (up : Bool) (h_s : s.Ok) : (State.setLink s i up).Ok := by
  unfold State.setLink
  dsimp only
  repeat' first
      | with_reducible assumption
      | with_reducible apply ite_ok
      | with_reducible refine foldl_ok (fun _ _ _ => ?_) _ ?_
      | with_reducible apply State.modPkg_ok
      | with_reducible apply State.modRing_ok
      | with_reducible apply State.shapeRing_ok
      | split

theorem State.setLink_keeps {s0 : State} {ps : List Region} (s : State) (i : Nat) (up : Bool) (h_s : Keeps s0 s ps)
    (m_ring : Region.ring ∈ ps) (m_pkg : Region.pkg ∈ ps) : Keeps s0 (State.setLink s i up) ps := by
  unfold State.setLink
  dsimp only
  repeat' first
      | with_reducible assumption
      | with_reducible apply ite_keeps
      | with_reducible refine foldl_keeps' (fun _ _ _ => ?_) _ ?_
      | with_reducible apply State.modPkg_keeps
      | with_reducible apply State.modRing_keeps
      | with_reducible apply State.shapeRing_keeps
      | split

theorem State.refuseRing_ok (s : State) (f : Flit) (st : Status) (h_s : s.Ok) : (State.refuseRing s f st).Ok := by
  unfold State.refuseRing
  grind [State.Ok, foldl_ok, State.onPort_ok, State.modRing_ok]

theorem State.refuseRing_keeps {s0 : State} {ps : List Region} (s : State) (f : Flit) (st : Status) (h_s : Keeps s0 s
    ps) (m_ring : Region.ring ∈ ps) (m_inj : Region.inj ∈ ps) : Keeps s0 (State.refuseRing s f st) ps := by
  unfold State.refuseRing
  grind [foldl_keeps', State.onPort_keeps, State.modRing_keeps]

theorem State.reroute_ok (s : State) (f : Flit) (h_s : s.Ok) : (State.reroute s f).Ok := by
  unfold State.reroute
  grind [State.Ok, foldl_ok, State.onPort_ok, State.returnCredit_ok, State.refuseRing_ok]

theorem State.reroute_keeps {s0 : State} {ps : List Region} (s : State) (f : Flit) (h_s : Keeps s0 s ps) (m_ring :
    Region.ring ∈ ps) (m_inj : Region.inj ∈ ps) : Keeps s0 (State.reroute s f) ps := by
  unfold State.reroute
  grind [foldl_keeps', State.onPort_keeps, State.returnCredit_keeps, State.refuseRing_keeps]

theorem State.sendAgain_ok (s : State) (f : Flit) (h_s : s.Ok) : (State.sendAgain s f).Ok := by
  unfold State.sendAgain
  grind [State.Ok, foldl_ok, State.complete_ok, State.modD2d_ok, State.onPort_ok, State.reroute_ok]

theorem State.sendAgain_keeps {s0 : State} {ps : List Region} (s : State) (f : Flit) (h_s : Keeps s0 s ps) (m_paths :
    Region.paths ∈ ps) (m_ring : Region.ring ∈ ps) (m_tags : Region.tags ∈ ps) (m_inj : Region.inj ∈ ps) : Keeps s0
    (State.sendAgain s f) ps := by
  unfold State.sendAgain
  grind [foldl_keeps', State.complete_keeps, State.modD2d_keeps, State.onPort_keeps, State.reroute_keeps]

theorem State.linkDown_ok (s : State) (east : Bool) (h_s : s.Ok) : (State.linkDown s east).Ok := by
  unfold State.linkDown
  grind [State.Ok, foldl_ok, State.broadcast_ok, State.complete_ok, State.modD2d_ok, State.pumpRing_ok,
    State.refuseRing_ok, State.sendAgain_ok, State.setLink_ok, State.sf_ok]

theorem State.linkDown_keeps {s0 : State} {ps : List Region} (s : State) (east : Bool) (h_s : Keeps s0 s ps) (m_free :
    Region.free ∈ ps) (m_paths : Region.paths ∈ ps) (m_ring : Region.ring ∈ ps) (m_pkg : Region.pkg ∈ ps) (m_tags :
    Region.tags ∈ ps) (m_rmt : Region.rmt ∈ ps) (m_inj : Region.inj ∈ ps) : Keeps s0 (State.linkDown s east) ps := by
  unfold State.linkDown
  grind [foldl_keeps', State.broadcast_keeps, State.complete_keeps, State.modD2d_keeps, State.pumpRing_keeps,
    State.refuseRing_keeps, State.sendAgain_keeps, State.setLink_keeps, State.sf_keeps]

theorem d2dLinkDown_ok (east : Bool) (s : State) (h_s : s.Ok) : (d2dLinkDown east s).Ok := by
  unfold d2dLinkDown
  grind [State.Ok, foldl_ok, State.fec_ok, State.linkDown_ok]

theorem d2dLinkDown_keeps {s0 : State} {ps : List Region} (east : Bool) (s : State) (h_s : Keeps s0 s ps) (m_free :
    Region.free ∈ ps) (m_paths : Region.paths ∈ ps) (m_ring : Region.ring ∈ ps) (m_pkg : Region.pkg ∈ ps) (m_tags :
    Region.tags ∈ ps) (m_rmt : Region.rmt ∈ ps) (m_inj : Region.inj ∈ ps) : Keeps s0 (d2dLinkDown east s) ps := by
  unfold d2dLinkDown
  grind [foldl_keeps', State.fec_keeps, State.linkDown_keeps]

theorem execD2dLinkDown_ok (east : Bool) (s : State) (h_s : s.Ok) : ∀ x, (execD2dLinkDown east s) = .next x → x.Ok :=
    by
  unfold execD2dLinkDown
  grind [State.Ok, foldl_ok, State.onLive_ok, d2dLinkDown_ok]

theorem execD2dLinkDown_keeps {s0 : State} {ps : List Region} (east : Bool) (s : State) (h_s : Keeps s0 s ps) (m_free
    : Region.free ∈ ps) (m_paths : Region.paths ∈ ps) (m_ring : Region.ring ∈ ps) (m_pkg : Region.pkg ∈ ps) (m_tags :
    Region.tags ∈ ps) (m_rmt : Region.rmt ∈ ps) (m_inj : Region.inj ∈ ps) : ∀ x, (execD2dLinkDown east s) = .next x →
    Keeps s0 x ps := by
  unfold execD2dLinkDown
  grind [foldl_keeps', State.onLive_keeps, d2dLinkDown_keeps]

theorem State.answerD2d_ok (s : State) (h_s : s.Ok) : (State.answerD2d s).Ok := by
  unfold State.answerD2d
  grind [State.Ok, foldl_ok, State.modPkg_ok, State.chainUp_ok]

theorem State.answerD2d_keeps {s0 : State} {ps : List Region} (s : State) (h_s : Keeps s0 s ps) (m_chain :
    Region.chain ∈ ps) (m_pkg : Region.pkg ∈ ps) : Keeps s0 (State.answerD2d s) ps := by
  unfold State.answerD2d
  grind [foldl_keeps', State.modPkg_keeps, State.chainUp_keeps]

theorem State.portIn_ok (s : State) (east : Bool) (h_s : s.Ok) : (State.portIn s east).Ok := by
  unfold State.portIn
  grind [State.Ok, foldl_ok, State.broadcast_ok, State.modD2d_ok, State.pumpRing_ok, State.setLink_ok, State.sf_ok]

theorem State.portIn_keeps {s0 : State} {ps : List Region} (s : State) (east : Bool) (h_s : Keeps s0 s ps) (m_free :
    Region.free ∈ ps) (m_ring : Region.ring ∈ ps) (m_pkg : Region.pkg ∈ ps) (m_rmt : Region.rmt ∈ ps) (m_inj :
    Region.inj ∈ ps) : Keeps s0 (State.portIn s east) ps := by
  unfold State.portIn
  grind [foldl_keeps', State.broadcast_keeps, State.modD2d_keeps, State.pumpRing_keeps, State.setLink_keeps,
    State.sf_keeps]

theorem State.freshModules_ok (s : State) (east : Bool) (h_s : s.Ok) : (State.freshModules s east).Ok := by
  unfold State.freshModules
  grind [State.Ok, foldl_ok, State.modD2d_ok]

theorem State.freshModules_keeps {s0 : State} {ps : List Region} (s : State) (east : Bool) (h_s : Keeps s0 s ps)
    (m_ring : Region.ring ∈ ps) : Keeps s0 (State.freshModules s east) ps := by
  unfold State.freshModules
  grind [foldl_keeps', State.modD2d_keeps]

theorem d2dExchange_ok (east : Bool) (n : BitVec 4) (failed : BitVec 79 × BitVec 79) (s : State) (h_s : s.Ok) :
    (d2dExchange east n failed s).Ok := by
  unfold d2dExchange
  grind [State.Ok, foldl_ok, State.answerD2d_ok, State.endLanes_ok, State.freshModules_ok, State.modD2d_ok,
    State.portIn_ok, State.raise_ok]

theorem d2dExchange_keeps {s0 : State} {ps : List Region} (east : Bool) (n : BitVec 4) (failed : BitVec 79 × BitVec
    79) (s : State) (h_s : Keeps s0 s ps) (m_free : Region.free ∈ ps) (m_inbox : Region.inbox ∈ ps) (m_ring :
    Region.ring ∈ ps) (m_chain : Region.chain ∈ ps) (m_pkg : Region.pkg ∈ ps) (m_rmt : Region.rmt ∈ ps) (m_inj :
    Region.inj ∈ ps) : Keeps s0 (d2dExchange east n failed s) ps := by
  unfold d2dExchange
  dsimp only
  repeat' first
      | with_reducible assumption
      | with_reducible apply ite_keeps
      | with_reducible refine foldl_keeps' (fun _ _ _ => ?_) _ ?_
      | with_reducible apply State.answerD2d_keeps
      | with_reducible apply State.endLanes_keeps
      | with_reducible apply State.freshModules_keeps
      | with_reducible apply State.modD2d_keeps
      | with_reducible apply State.portIn_keeps
      | with_reducible apply State.raise_keeps
      | split

theorem execD2dTrainExchange_ok (east : Bool) (n : BitVec 4) (failed : BitVec 79 × BitVec 79) (s : State) (h_s : s.Ok)
    : ∀ x, (execD2dTrainExchange east n failed s) = .next x → x.Ok := by
  unfold execD2dTrainExchange
  grind [State.Ok, foldl_ok, State.onLive_ok, d2dExchange_ok]

theorem execD2dTrainExchange_keeps {s0 : State} {ps : List Region} (east : Bool) (n : BitVec 4) (failed : BitVec 79 ×
    BitVec 79) (s : State) (h_s : Keeps s0 s ps) (m_free : Region.free ∈ ps) (m_inbox : Region.inbox ∈ ps) (m_ring :
    Region.ring ∈ ps) (m_chain : Region.chain ∈ ps) (m_pkg : Region.pkg ∈ ps) (m_rmt : Region.rmt ∈ ps) (m_inj :
    Region.inj ∈ ps) : ∀ x, (execD2dTrainExchange east n failed s) = .next x → Keeps s0 x ps := by
  unfold execD2dTrainExchange
  grind [foldl_keeps', State.onLive_keeps, d2dExchange_keeps]

theorem d2dTrainTimeout_ok (east : Bool) (s : State) (h_s : s.Ok) : (d2dTrainTimeout east s).Ok := by
  unfold d2dTrainTimeout
  repeat' split
  all_goals grind [State.Ok, State.answerD2d_ok, State.modD2d_ok, foldl_ok]

theorem d2dTrainTimeout_keeps {s0 : State} {ps : List Region} (east : Bool) (s : State) (h_s : Keeps s0 s ps) (m_ring
    : Region.ring ∈ ps) (m_chain : Region.chain ∈ ps) (m_pkg : Region.pkg ∈ ps) : Keeps s0 (d2dTrainTimeout east s) ps
    := by
  unfold d2dTrainTimeout
  repeat' split
  all_goals grind [foldl_keeps', State.answerD2d_keeps, State.modD2d_keeps]

theorem execD2dTrainTimeout_ok (east : Bool) (s : State) (h_s : s.Ok) : ∀ x, (execD2dTrainTimeout east s) = .next x →
    x.Ok := by
  unfold execD2dTrainTimeout
  grind [State.Ok, foldl_ok, State.onLive_ok, d2dTrainTimeout_ok]

theorem execD2dTrainTimeout_keeps {s0 : State} {ps : List Region} (east : Bool) (s : State) (h_s : Keeps s0 s ps)
    (m_ring : Region.ring ∈ ps) (m_chain : Region.chain ∈ ps) (m_pkg : Region.pkg ∈ ps) : ∀ x, (execD2dTrainTimeout
    east s) = .next x → Keeps s0 x ps := by
  unfold execD2dTrainTimeout
  grind [foldl_keeps', State.onLive_keeps, d2dTrainTimeout_keeps]

theorem d2dRetrain_ok (east : Bool) (m : Fin 2) (s : State) (h_s : s.Ok) : (d2dRetrain east m s).Ok := by
  unfold d2dRetrain
  grind [State.Ok, foldl_ok, State.startRetrain_ok]

theorem d2dRetrain_keeps {s0 : State} {ps : List Region} (east : Bool) (m : Fin 2) (s : State) (h_s : Keeps s0 s ps)
    (m_ring : Region.ring ∈ ps) : Keeps s0 (d2dRetrain east m s) ps := by
  unfold d2dRetrain
  grind [foldl_keeps', State.startRetrain_keeps]

theorem execD2dRetrain_ok (east : Bool) (m : Fin 2) (s : State) (h_s : s.Ok) : ∀ x, (execD2dRetrain east m s) = .next
    x → x.Ok := by
  unfold execD2dRetrain
  grind [State.Ok, foldl_ok, State.onLive_ok, d2dRetrain_ok]

theorem execD2dRetrain_keeps {s0 : State} {ps : List Region} (east : Bool) (m : Fin 2) (s : State) (h_s : Keeps s0 s
    ps) (m_ring : Region.ring ∈ ps) : ∀ x, (execD2dRetrain east m s) = .next x → Keeps s0 x ps := by
  unfold execD2dRetrain
  grind [foldl_keeps', State.onLive_keeps, d2dRetrain_keeps]

theorem d2dRetrainEnd_ok (east : Bool) (m : Fin 2) (failed : Option (BitVec 79)) (s : State) (h_s : s.Ok) :
    (d2dRetrainEnd east m failed s).Ok := by
  unfold d2dRetrainEnd
  grind [State.Ok, foldl_ok, State.endLanes_ok, State.linkDown_ok]

theorem d2dRetrainEnd_keeps {s0 : State} {ps : List Region} (east : Bool) (m : Fin 2) (failed : Option (BitVec 79)) (s
    : State) (h_s : Keeps s0 s ps) (m_free : Region.free ∈ ps) (m_paths : Region.paths ∈ ps) (m_inbox : Region.inbox ∈
    ps) (m_ring : Region.ring ∈ ps) (m_pkg : Region.pkg ∈ ps) (m_tags : Region.tags ∈ ps) (m_rmt : Region.rmt ∈ ps)
    (m_inj : Region.inj ∈ ps) : Keeps s0 (d2dRetrainEnd east m failed s) ps := by
  unfold d2dRetrainEnd
  grind [foldl_keeps', State.endLanes_keeps, State.linkDown_keeps]

theorem execD2dRetrainEnd_ok (east : Bool) (m : Fin 2) (failed : Option (BitVec 79)) (s : State) (h_s : s.Ok) : ∀ x,
    (execD2dRetrainEnd east m failed s) = .next x → x.Ok := by
  unfold execD2dRetrainEnd
  grind [State.Ok, foldl_ok, State.onLive_ok, d2dRetrainEnd_ok]

theorem execD2dRetrainEnd_keeps {s0 : State} {ps : List Region} (east : Bool) (m : Fin 2) (failed : Option (BitVec
    79)) (s : State) (h_s : Keeps s0 s ps) (m_free : Region.free ∈ ps) (m_paths : Region.paths ∈ ps) (m_inbox :
    Region.inbox ∈ ps) (m_ring : Region.ring ∈ ps) (m_pkg : Region.pkg ∈ ps) (m_tags : Region.tags ∈ ps) (m_rmt :
    Region.rmt ∈ ps) (m_inj : Region.inj ∈ ps) : ∀ x, (execD2dRetrainEnd east m failed s) = .next x → Keeps s0 x ps :=
    by
  unfold execD2dRetrainEnd
  grind [foldl_keeps', State.onLive_keeps, d2dRetrainEnd_keeps]

theorem State.ranged_ok (s : State) (h_s : s.Ok) : (State.ranged s).Ok := by
  unfold State.ranged
  grind [State.Ok, foldl_ok, State.logRec_ok, State.raise_ok, State.setPhase_ok, State.wr_ok]

theorem State.ranged_keeps {s0 : State} {ps : List Region} (s : State) (h_s : Keeps s0 s ps) (m_inbox : Region.inbox ∈
    ps) (m_chain : Region.chain ∈ ps) (m_pkg : Region.pkg ∈ ps) : Keeps s0 (State.ranged s) ps := by
  unfold State.ranged
  grind [foldl_keeps', State.logRec_keeps, State.raise_keeps, State.setPhase_keeps, State.wr_keeps]

theorem State.applyRange_ok (s : State) (inst : Nat) (base : Nat) (ranks : Nat) (valid : Bool) (h_s : s.Ok) :
    (State.applyRange s inst base ranks valid).Ok := by
  unfold State.applyRange
  grind [State.Ok, foldl_ok, State.ranged_ok, State.sf_ok]

theorem State.applyRange_keeps {s0 : State} {ps : List Region} (s : State) (inst : Nat) (base : Nat) (ranks : Nat)
    (valid : Bool) (h_s : Keeps s0 s ps) (m_inbox : Region.inbox ∈ ps) (m_chain : Region.chain ∈ ps) (m_pkg :
    Region.pkg ∈ ps) : Keeps s0 (State.applyRange s inst base ranks valid) ps := by
  unfold State.applyRange
  grind [foldl_keeps', State.ranged_keeps, State.sf_keeps]

theorem State.applyHall_ok (s : State) (id : Nat) (size : Nat) (dirs : List Nat) (h_s : s.Ok) : (State.applyHall s id
    size dirs).Ok := by
  unfold State.applyHall
  grind [State.Ok, foldl_ok, State.wr_ok]

theorem State.applyHall_keeps {s0 : State} {ps : List Region} (s : State) (id : Nat) (size : Nat) (dirs : List Nat)
    (h_s : Keeps s0 s ps) : Keeps s0 (State.applyHall s id size dirs) ps := by
  unfold State.applyHall
  grind [foldl_keeps', State.wr_keeps]

theorem State.setBudget_ok (s : State) (w : Nat) (h_s : s.Ok) : (State.setBudget s w).Ok := by
  unfold State.setBudget
  grind [State.Ok, foldl_ok, State.sf_ok]

theorem State.setBudget_keeps {s0 : State} {ps : List Region} (s : State) (w : Nat) (h_s : Keeps s0 s ps) : Keeps s0
    (State.setBudget s w) ps := by
  unfold State.setBudget
  grind [foldl_keeps', State.sf_keeps]

theorem State.obey_ok (s : State) (c : Ctl) (h_s : s.Ok) : ∀ x, (State.obey s c) = some x → x.Ok := by
  unfold State.obey
  grind [State.Ok, foldl_ok, State.applyHall_ok, State.applyRange_ok, State.setBudget_ok]

theorem State.obey_keeps {s0 : State} {ps : List Region} (s : State) (c : Ctl) (h_s : Keeps s0 s ps) (m_inbox :
    Region.inbox ∈ ps) (m_chain : Region.chain ∈ ps) (m_pkg : Region.pkg ∈ ps) : ∀ x, (State.obey s c) = some x →
    Keeps s0 x ps := by
  unfold State.obey
  grind [foldl_keeps', State.applyHall_keeps, State.applyRange_keeps, State.setBudget_keeps]

theorem State.obeyAll_ok (s : State) (h_s : s.Ok) : (State.obeyAll s).Ok := by
  unfold State.obeyAll
  grind [State.Ok, foldl_ok, State.modRing_ok, State.obey_ok]

theorem State.obeyAll_keeps {s0 : State} {ps : List Region} (s : State) (h_s : Keeps s0 s ps) (m_inbox : Region.inbox
    ∈ ps) (m_ring : Region.ring ∈ ps) (m_chain : Region.chain ∈ ps) (m_pkg : Region.pkg ∈ ps) : Keeps s0
    (State.obeyAll s) ps := by
  unfold State.obeyAll
  grind [foldl_keeps', State.modRing_keeps, State.obey_keeps]

theorem State.hearAligned_ok (s : State) (i : Nat) (h_s : s.Ok) : (State.hearAligned s i).Ok := by
  unfold State.hearAligned
  grind [State.Ok, foldl_ok, State.modPkg_ok, State.sendCtl_ok]

theorem State.hearAligned_keeps {s0 : State} {ps : List Region} (s : State) (i : Nat) (h_s : Keeps s0 s ps) (m_ring :
    Region.ring ∈ ps) (m_pkg : Region.pkg ∈ ps) (m_inj : Region.inj ∈ ps) : Keeps s0 (State.hearAligned s i) ps := by
  unfold State.hearAligned
  grind [foldl_keeps', State.modPkg_keeps, State.sendCtl_keeps]

theorem State.hearCtl_ok (s : State) (src : Nat) (c : Ctl) (h_s : s.Ok) : (State.hearCtl s src c).Ok := by
  unfold State.hearCtl
  grind [State.Ok, foldl_ok, State.hearAligned_ok, State.modPkg_ok, State.modRing_ok, State.obeyAll_ok, State.raise_ok,
    State.sendCtl_ok, State.setLink_ok]

theorem State.hearCtl_keeps {s0 : State} {ps : List Region} (s : State) (src : Nat) (c : Ctl) (h_s : Keeps s0 s ps)
    (m_inbox : Region.inbox ∈ ps) (m_ring : Region.ring ∈ ps) (m_chain : Region.chain ∈ ps) (m_pkg : Region.pkg ∈ ps)
    (m_inj : Region.inj ∈ ps) : Keeps s0 (State.hearCtl s src c) ps := by
  unfold State.hearCtl
  repeat' split
  all_goals grind [foldl_keeps', State.hearAligned_keeps, State.modPkg_keeps, State.modRing_keeps, State.obeyAll_keeps,
    State.raise_keeps, State.sendCtl_keeps, State.setLink_keeps]

theorem State.ringResponse_ok (s : State) (id : Nat) (part : Nat) (st : Status) (data : List Byte) (h_s : s.Ok) :
    (State.ringResponse s id part st data).Ok := by
  unfold State.ringResponse
  grind [State.Ok, foldl_ok, State.complete_ok, State.modD2d_ok]

theorem State.ringResponse_keeps {s0 : State} {ps : List Region} (s : State) (id : Nat) (part : Nat) (st : Status)
    (data : List Byte) (h_s : Keeps s0 s ps) (m_paths : Region.paths ∈ ps) (m_ring : Region.ring ∈ ps) (m_tags :
    Region.tags ∈ ps) (m_inj : Region.inj ∈ ps) : Keeps s0 (State.ringResponse s id part st data) ps := by
  unfold State.ringResponse
  grind [foldl_keeps', State.complete_keeps, State.modD2d_keeps]

theorem State.deliverFlit_ok (s : State) (east : Bool) (f : Flit) (h_s : s.Ok) : (State.deliverFlit s east f).Ok := by
  unfold State.deliverFlit
  grind [State.Ok, foldl_ok, State.frameFromRing_ok, State.hearCtl_ok, State.ingress_ok, State.modRing_ok,
    State.ringResponse_ok, State.skipIds_ok]

theorem State.deliverFlit_keeps {s0 : State} {ps : List Region} (s : State) (east : Bool) (f : Flit) (h_s : Keeps s0 s
    ps) (m_free : Region.free ∈ ps) (m_paths : Region.paths ∈ ps) (m_inbox : Region.inbox ∈ ps) (m_ring : Region.ring
    ∈ ps) (m_chain : Region.chain ∈ ps) (m_pkg : Region.pkg ∈ ps) (m_sched : Region.sched ∈ ps) (m_tags : Region.tags
    ∈ ps) (m_rmt : Region.rmt ∈ ps) (m_inj : Region.inj ∈ ps) : Keeps s0 (State.deliverFlit s east f) ps := by
  unfold State.deliverFlit
  grind [foldl_keeps', State.frameFromRing_keeps, State.hearCtl_keeps, State.ingress_keeps, State.modRing_keeps,
    State.ringResponse_keeps, State.skipIds_keeps]

theorem State.noteResponse_ok (s : State) (f : Flit) (h_s : s.Ok) : (State.noteResponse s f).Ok := by
  unfold State.noteResponse
  grind [State.Ok, foldl_ok, State.modD2d_ok]

theorem State.noteResponse_keeps {s0 : State} {ps : List Region} (s : State) (f : Flit) (h_s : Keeps s0 s ps) (m_ring
    : Region.ring ∈ ps) : Keeps s0 (State.noteResponse s f) ps := by
  unfold State.noteResponse
  grind [foldl_keeps', State.modD2d_keeps]

theorem d2dReceive_ok (east : Bool) (f : Flit) (s : State) (h_s : s.Ok) : (d2dReceive east f s).Ok := by
  unfold d2dReceive
  grind [State.Ok, foldl_ok, State.deliverFlit_ok, State.noteResponse_ok, State.onPort_ok, State.reroute_ok,
    State.returnCredit_ok]

theorem d2dReceive_keeps {s0 : State} {ps : List Region} (east : Bool) (f : Flit) (s : State) (h_s : Keeps s0 s ps)
    (m_free : Region.free ∈ ps) (m_paths : Region.paths ∈ ps) (m_inbox : Region.inbox ∈ ps) (m_ring : Region.ring ∈
    ps) (m_chain : Region.chain ∈ ps) (m_pkg : Region.pkg ∈ ps) (m_sched : Region.sched ∈ ps) (m_tags : Region.tags ∈
    ps) (m_rmt : Region.rmt ∈ ps) (m_inj : Region.inj ∈ ps) : Keeps s0 (d2dReceive east f s) ps := by
  unfold d2dReceive
  grind [foldl_keeps', State.deliverFlit_keeps, State.noteResponse_keeps, State.onPort_keeps, State.reroute_keeps,
    State.returnCredit_keeps]

theorem execD2dFlitReceive_ok (east : Bool) (f : Flit) (s : State) (h_s : s.Ok) : ∀ x, (execD2dFlitReceive east f s) =
    .next x → x.Ok := by
  unfold execD2dFlitReceive
  grind [State.Ok, foldl_ok, State.onLive_ok, d2dReceive_ok]

theorem execD2dFlitReceive_keeps {s0 : State} {ps : List Region} (east : Bool) (f : Flit) (s : State) (h_s : Keeps s0
    s ps) (m_free : Region.free ∈ ps) (m_paths : Region.paths ∈ ps) (m_inbox : Region.inbox ∈ ps) (m_ring :
    Region.ring ∈ ps) (m_chain : Region.chain ∈ ps) (m_pkg : Region.pkg ∈ ps) (m_sched : Region.sched ∈ ps) (m_tags :
    Region.tags ∈ ps) (m_rmt : Region.rmt ∈ ps) (m_inj : Region.inj ∈ ps) : ∀ x, (execD2dFlitReceive east f s) = .next
    x → Keeps s0 x ps := by
  unfold execD2dFlitReceive
  grind [foldl_keeps', State.onLive_keeps, d2dReceive_keeps]

theorem d2dCredit_ok (east : Bool) (vc : Fin 3) (n : BitVec 8) (s : State) (h_s : s.Ok) : (d2dCredit east vc n s).Ok
    := by
  unfold d2dCredit
  grind [State.Ok, foldl_ok, State.modD2d_ok, State.pumpPort_ok, State.pumpRing_ok]

theorem d2dCredit_keeps {s0 : State} {ps : List Region} (east : Bool) (vc : Fin 3) (n : BitVec 8) (s : State) (h_s :
    Keeps s0 s ps) (m_free : Region.free ∈ ps) (m_ring : Region.ring ∈ ps) (m_rmt : Region.rmt ∈ ps) (m_inj :
    Region.inj ∈ ps) : Keeps s0 (d2dCredit east vc n s) ps := by
  unfold d2dCredit
  grind [foldl_keeps', State.modD2d_keeps, State.pumpPort_keeps, State.pumpRing_keeps]

theorem execD2dCreditReturn_ok (east : Bool) (vc : Fin 3) (n : BitVec 8) (s : State) (h_s : s.Ok) : ∀ x,
    (execD2dCreditReturn east vc n s) = .next x → x.Ok := by
  unfold execD2dCreditReturn
  grind [State.Ok, foldl_ok, State.onLive_ok, d2dCredit_ok]

theorem execD2dCreditReturn_keeps {s0 : State} {ps : List Region} (east : Bool) (vc : Fin 3) (n : BitVec 8) (s :
    State) (h_s : Keeps s0 s ps) (m_free : Region.free ∈ ps) (m_ring : Region.ring ∈ ps) (m_rmt : Region.rmt ∈ ps)
    (m_inj : Region.inj ∈ ps) : ∀ x, (execD2dCreditReturn east vc n s) = .next x → Keeps s0 x ps := by
  unfold execD2dCreditReturn
  grind [foldl_keeps', State.onLive_keeps, d2dCredit_keeps]

theorem escSwitch_ok (east : Bool) (s : State) (h_s : s.Ok) : (escSwitch east s).Ok := by
  unfold escSwitch
  grind [State.Ok, foldl_ok, State.onPort_ok, State.modD2d_ok]

theorem escSwitch_keeps {s0 : State} {ps : List Region} (east : Bool) (s : State) (h_s : Keeps s0 s ps) (m_ring :
    Region.ring ∈ ps) (m_inj : Region.inj ∈ ps) : Keeps s0 (escSwitch east s) ps := by
  unfold escSwitch
  grind [foldl_keeps', State.onPort_keeps, State.modD2d_keeps]

theorem execEscSwitch_ok (east : Bool) (s : State) (h_s : s.Ok) : ∀ x, (execEscSwitch east s) = .next x → x.Ok := by
  unfold execEscSwitch
  grind [State.Ok, foldl_ok, State.onLive_ok, escSwitch_ok]

theorem execEscSwitch_keeps {s0 : State} {ps : List Region} (east : Bool) (s : State) (h_s : Keeps s0 s ps) (m_ring :
    Region.ring ∈ ps) (m_inj : Region.inj ∈ ps) : ∀ x, (execEscSwitch east s) = .next x → Keeps s0 x ps := by
  unfold execEscSwitch
  grind [foldl_keeps', State.onLive_keeps, escSwitch_keeps]

theorem State.returnFrame_ok (s : State) (via : Nat) (f : Frame) (h_s : s.Ok) : (State.returnFrame s via f).Ok := by
  unfold State.returnFrame
  grind [State.Ok, foldl_ok, State.countPort_ok, State.modRing_ok, State.reply_ok, State.route'_ok]

theorem State.returnFrame_keeps {s0 : State} {ps : List Region} (s : State) (via : Nat) (f : Frame) (h_s : Keeps s0 s
    ps) (m_free : Region.free ∈ ps) (m_ring : Region.ring ∈ ps) (m_sched : Region.sched ∈ ps) (m_rmt : Region.rmt ∈
    ps) (m_inj : Region.inj ∈ ps) : Keeps s0 (State.returnFrame s via f) ps := by
  unfold State.returnFrame
  grind [foldl_keeps', State.countPort_keeps, State.modRing_keeps, State.reply_keeps, State.route'_keeps]

theorem State.stallNote_ok (s : State) (port : Nat) (ch : Nat) (h_s : s.Ok) : (State.stallNote s port ch).Ok := by
  unfold State.stallNote
  grind [State.Ok, foldl_ok, State.logRec_ok, State.raise_ok]

theorem State.stallNote_keeps {s0 : State} {ps : List Region} (s : State) (port : Nat) (ch : Nat) (h_s : Keeps s0 s
    ps) (m_inbox : Region.inbox ∈ ps) : Keeps s0 (State.stallNote s port ch) ps := by
  unfold State.stallNote
  grind [foldl_keeps', State.logRec_keeps, State.raise_keeps]

theorem State.stallEsc_ok (s : State) (east : Bool) (h_s : s.Ok) : (State.stallEsc s east).Ok := by
  unfold State.stallEsc
  grind [State.Ok, foldl_ok, State.modD2d_ok, State.refuseRing_ok, State.returnCredit_ok, State.returnFrame_ok,
    State.stallNote_ok]

theorem State.stallEsc_keeps {s0 : State} {ps : List Region} (s : State) (east : Bool) (h_s : Keeps s0 s ps) (m_free :
    Region.free ∈ ps) (m_inbox : Region.inbox ∈ ps) (m_ring : Region.ring ∈ ps) (m_sched : Region.sched ∈ ps) (m_rmt :
    Region.rmt ∈ ps) (m_inj : Region.inj ∈ ps) : Keeps s0 (State.stallEsc s east) ps := by
  unfold State.stallEsc
  grind [foldl_keeps', State.modD2d_keeps, State.refuseRing_keeps, State.returnCredit_keeps, State.returnFrame_keeps,
    State.stallNote_keeps]

theorem State.stallSent_ok (s : State) (n : Fin 8) (vc : Nat) (h_s : s.Ok) : ∀ x, (State.stallSent s n vc) = some x →
    x.Ok := by
  intro x hx
  simp only [State.stallSent, Option.map_eq_some_iff] at hx
  obtain ⟨y, -, rfl⟩ := hx
  grind [State.Ok, foldl_ok, State.modSub_ok, State.pumpFwd_ok, State.returnFrame_ok, State.stallNote_ok]

theorem State.stallSent_keeps {s0 : State} {ps : List Region} (s : State) (n : Fin 8) (vc : Nat) (h_s : Keeps s0 s ps)
    (m_free : Region.free ∈ ps) (m_inbox : Region.inbox ∈ ps) (m_ring : Region.ring ∈ ps) (m_sched : Region.sched ∈
    ps) (m_rmt : Region.rmt ∈ ps) (m_inj : Region.inj ∈ ps) : ∀ x, (State.stallSent s n vc) = some x → Keeps s0 x ps
    := by
  intro x hx
  simp only [State.stallSent, Option.map_eq_some_iff] at hx
  obtain ⟨y, -, rfl⟩ := hx
  grind [foldl_keeps', State.modSub_keeps, State.pumpFwd_keeps, State.returnFrame_keeps, State.stallNote_keeps]

theorem State.stallHeld_ok (s : State) (n : Fin 8) (vc : Nat) (h_s : s.Ok) : (State.stallHeld s n vc).Ok := by
  unfold State.stallHeld
  grind [State.Ok, foldl_ok, State.freeRx_ok, State.modRmt_ok, State.pumpFwd_ok, State.pumpRing_ok,
    State.returnFrame_ok, State.stallNote_ok]

theorem State.stallHeld_keeps {s0 : State} {ps : List Region} (s : State) (n : Fin 8) (vc : Nat) (h_s : Keeps s0 s ps)
    (m_free : Region.free ∈ ps) (m_inbox : Region.inbox ∈ ps) (m_ring : Region.ring ∈ ps) (m_sched : Region.sched ∈
    ps) (m_rmt : Region.rmt ∈ ps) (m_inj : Region.inj ∈ ps) : Keeps s0 (State.stallHeld s n vc) ps := by
  unfold State.stallHeld
  grind [foldl_keeps', State.freeRx_keeps, State.modRmt_keeps, State.pumpFwd_keeps, State.pumpRing_keeps,
    State.returnFrame_keeps, State.stallNote_keeps]

theorem State.stallFwd_ok (s : State) (n : Fin 8) (vc : Nat) (h_s : s.Ok) : (State.stallFwd s n vc).Ok := by
  unfold State.stallFwd
  grind [State.Ok, foldl_ok, State.stallHeld_ok, State.stallSent_ok]

theorem State.stallFwd_keeps {s0 : State} {ps : List Region} (s : State) (n : Fin 8) (vc : Nat) (h_s : Keeps s0 s ps)
    (m_free : Region.free ∈ ps) (m_inbox : Region.inbox ∈ ps) (m_ring : Region.ring ∈ ps) (m_sched : Region.sched ∈
    ps) (m_rmt : Region.rmt ∈ ps) (m_inj : Region.inj ∈ ps) : Keeps s0 (State.stallFwd s n vc) ps := by
  unfold State.stallFwd
  grind [foldl_keeps', State.stallHeld_keeps, State.stallSent_keeps]

theorem stallWatchdog_ok (port : Fin 10) (fwd1 : Bool) (s : State) (h_s : s.Ok) : (stallWatchdog port fwd1 s).Ok := by
  unfold stallWatchdog
  grind [State.Ok, foldl_ok, State.stallEsc_ok, State.stallFwd_ok]

theorem stallWatchdog_keeps {s0 : State} {ps : List Region} (port : Fin 10) (fwd1 : Bool) (s : State) (h_s : Keeps s0
    s ps) (m_free : Region.free ∈ ps) (m_inbox : Region.inbox ∈ ps) (m_ring : Region.ring ∈ ps) (m_sched :
    Region.sched ∈ ps) (m_rmt : Region.rmt ∈ ps) (m_inj : Region.inj ∈ ps) : Keeps s0 (stallWatchdog port fwd1 s) ps
    := by
  unfold stallWatchdog
  grind [foldl_keeps', State.stallEsc_keeps, State.stallFwd_keeps]

theorem execStallWatchdog_ok (port : Fin 10) (fwd1 : Bool) (s : State) (h_s : s.Ok) : ∀ x, (execStallWatchdog port
    fwd1 s) = .next x → x.Ok := by
  unfold execStallWatchdog
  grind [State.Ok, foldl_ok, State.onLive_ok, stallWatchdog_ok]

theorem execStallWatchdog_keeps {s0 : State} {ps : List Region} (port : Fin 10) (fwd1 : Bool) (s : State) (h_s : Keeps
    s0 s ps) (m_free : Region.free ∈ ps) (m_inbox : Region.inbox ∈ ps) (m_ring : Region.ring ∈ ps) (m_sched :
    Region.sched ∈ ps) (m_rmt : Region.rmt ∈ ps) (m_inj : Region.inj ∈ ps) : ∀ x, (execStallWatchdog port fwd1 s) =
    .next x → Keeps s0 x ps := by
  unfold execStallWatchdog
  grind [foldl_keeps', State.onLive_keeps, stallWatchdog_keeps]

theorem State.lockTime_ok (s : State) (h_s : s.Ok) : (State.lockTime s).Ok := by
  unfold State.lockTime
  grind [State.Ok, foldl_ok, State.broadcast_ok, State.raise_ok]

theorem State.lockTime_keeps {s0 : State} {ps : List Region} (s : State) (h_s : Keeps s0 s ps) (m_ring : Region.ring ∈
    ps) (m_inj : Region.inj ∈ ps) : Keeps s0 (State.lockTime s) ps := by
  unfold State.lockTime
  grind [foldl_keeps', State.broadcast_keeps, State.raise_keeps]

theorem State.align_ok (s : State) (east : Bool) (nb : BitVec 64) (rtt : BitVec 32) (h_s : s.Ok) : (State.align s east
    nb rtt).Ok := by
  unfold State.align
  grind [State.Ok, foldl_ok, State.broadcast_ok, State.lockTime_ok, State.modPkg_ok, State.setTime_ok, State.sf_ok]

theorem State.align_keeps {s0 : State} {ps : List Region} (s : State) (east : Bool) (nb : BitVec 64) (rtt : BitVec 32)
    (h_s : Keeps s0 s ps) (m_clk : Region.clk ∈ ps) (m_ring : Region.ring ∈ ps) (m_pkg : Region.pkg ∈ ps) (m_inj :
    Region.inj ∈ ps) : Keeps s0 (State.align s east nb rtt) ps := by
  unfold State.align
  grind [foldl_keeps', State.broadcast_keeps, State.lockTime_keeps, State.modPkg_keeps, State.setTime_keeps,
    State.sf_keeps]

theorem State.askTime_ok (s : State) (east : Bool) (h_s : s.Ok) : (State.askTime s east).Ok := by
  unfold State.askTime
  grind [State.Ok, foldl_ok, State.sendCtl_ok]

theorem State.askTime_keeps {s0 : State} {ps : List Region} (s : State) (east : Bool) (h_s : Keeps s0 s ps) (m_ring :
    Region.ring ∈ ps) (m_inj : Region.inj ∈ ps) : Keeps s0 (State.askTime s east) ps := by
  unfold State.askTime
  grind [foldl_keeps', State.sendCtl_keeps]

theorem timeAlign_ok (east : Bool) (nb : BitVec 64) (rtt : BitVec 32) (s : State) (h_s : s.Ok) : (timeAlign east nb
    rtt s).Ok := by
  unfold timeAlign
  grind [State.Ok, foldl_ok, State.align_ok, State.askTime_ok]

theorem timeAlign_keeps {s0 : State} {ps : List Region} (east : Bool) (nb : BitVec 64) (rtt : BitVec 32) (s : State)
    (h_s : Keeps s0 s ps) (m_clk : Region.clk ∈ ps) (m_ring : Region.ring ∈ ps) (m_pkg : Region.pkg ∈ ps) (m_inj :
    Region.inj ∈ ps) : Keeps s0 (timeAlign east nb rtt s) ps := by
  unfold timeAlign
  grind [foldl_keeps', State.align_keeps, State.askTime_keeps]

theorem execTimeAlign_ok (east : Bool) (nb : BitVec 64) (rtt : BitVec 32) (s : State) (h_s : s.Ok) : ∀ x,
    (execTimeAlign east nb rtt s) = .next x → x.Ok := by
  unfold execTimeAlign
  grind [State.Ok, foldl_ok, State.onLive_ok, timeAlign_ok]

theorem execTimeAlign_keeps {s0 : State} {ps : List Region} (east : Bool) (nb : BitVec 64) (rtt : BitVec 32) (s :
    State) (h_s : Keeps s0 s ps) (m_clk : Region.clk ∈ ps) (m_ring : Region.ring ∈ ps) (m_pkg : Region.pkg ∈ ps)
    (m_inj : Region.inj ∈ ps) : ∀ x, (execTimeAlign east nb rtt s) = .next x → Keeps s0 x ps := by
  unfold execTimeAlign
  grind [foldl_keeps', State.onLive_keeps, timeAlign_keeps]

end Sys2Proof.Machine
end

