-- ==== Sys2Proof/Laws/Training.lean ====
section
/-! SUPPORT. Two lemmas for every operation of Machine/Training.lean. `…_ok`: the register table and the stack's memory stay
canonical. `…_keeps`: what agrees with a state outside a list of regions that holds those the operation can change still
agrees afterwards. -/

namespace Sys2Proof.Machine

set_option Elab.async false

theorem State.modAge_ok (s : State) (f : Ageing → Ageing) (h_s : s.Ok) : (State.modAge s f).Ok := by
  unfold State.modAge
  grind [State.Ok, foldl_ok]

theorem State.modAge_keeps {s0 : State} {ps : List Region} (s : State) (f : Ageing → Ageing) (h_s : Keeps s0 s ps)
    (m_age : Region.age ∈ ps) : Keeps s0 (State.modAge s f) ps := by
  unfold State.modAge
  grind [foldl_keeps', Keeps.set_age]

theorem State.setCentre_ok (s : State) (p : Nat) (kind : Nat) (lane : Nat) (v : Nat) (h_s : s.Ok) : (State.setCentre s
    p kind lane v).Ok := by
  unfold State.setCentre
  grind [State.Ok, foldl_ok, State.sf_ok]

theorem State.setCentre_keeps {s0 : State} {ps : List Region} (s : State) (p : Nat) (kind : Nat) (lane : Nat) (v :
    Nat) (h_s : Keeps s0 s ps) : Keeps s0 (State.setCentre s p kind lane v) ps := by
  unfold State.setCentre
  grind [foldl_keeps', State.sf_keeps]

theorem delayWrite_ok (p : Fin 64) (i : Nat) (v : Word) (s : State) (h_s : s.Ok) : (delayWrite p i v s).Ok := by
  unfold delayWrite
  grind [State.Ok, foldl_ok, State.wr_ok, State.raise_ok]

theorem delayWrite_keeps {s0 : State} {ps : List Region} (p : Fin 64) (i : Nat) (v : Word) (s : State) (h_s : Keeps s0
    s ps) : Keeps s0 (delayWrite p i v s) ps := by
  unfold delayWrite
  grind [foldl_keeps', State.wr_keeps, State.raise_keeps]

theorem execDelayRegisterWrite_ok (p : Fin 64) (i : Fin 60) (v : Word) (s : State) (h_s : s.Ok) : ∀ x,
    (execDelayRegisterWrite p i v s) = .next x → x.Ok := by
  unfold execDelayRegisterWrite
  grind [State.Ok, foldl_ok, State.onLive_ok, delayWrite_ok]

theorem execDelayRegisterWrite_keeps {s0 : State} {ps : List Region} (p : Fin 64) (i : Fin 60) (v : Word) (s : State)
    (h_s : Keeps s0 s ps) : ∀ x, (execDelayRegisterWrite p i v s) = .next x → Keeps s0 x ps := by
  unfold execDelayRegisterWrite
  grind [foldl_keeps', State.onLive_keeps, delayWrite_keeps]

theorem State.setEdge_ok (s : State) (p : Nat) (kind : Nat) (group : Nat) (lane : Nat) (run : Option (Nat × Nat)) (h_s
    : s.Ok) : (State.setEdge s p kind group lane run).Ok := by
  unfold State.setEdge
  grind [State.Ok, foldl_ok]

theorem State.setEdge_keeps {s0 : State} {ps : List Region} (s : State) (p : Nat) (kind : Nat) (group : Nat) (lane :
    Nat) (run : Option (Nat × Nat)) (h_s : Keeps s0 s ps) (m_margins : Region.margins ∈ ps) : Keeps s0 (State.setEdge
    s p kind group lane run) ps := by
  unfold State.setEdge
  grind [foldl_keeps', Keeps.set_margins]

theorem State.setSpare_ok (s : State) (p : Nat) (spare : Nat) (lane : Nat) (h_s : s.Ok) : (State.setSpare s p spare
    lane).Ok := by
  unfold State.setSpare
  grind [State.Ok, foldl_ok, State.sf_ok]

theorem State.setSpare_keeps {s0 : State} {ps : List Region} (s : State) (p : Nat) (spare : Nat) (lane : Nat) (h_s :
    Keeps s0 s ps) : Keeps s0 (State.setSpare s p spare lane) ps := by
  unfold State.setSpare
  grind [foldl_keeps', State.sf_keeps]

theorem State.crossing_ok (s : State) (rank : Nat) (h_s : s.Ok) : (State.crossing s rank).Ok := by
  unfold State.crossing
  grind [State.Ok, foldl_ok, State.repairEvent_ok, State.cause_ok, State.modAge_ok]

theorem State.crossing_keeps {s0 : State} {ps : List Region} (s : State) (rank : Nat) (h_s : Keeps s0 s ps) (m_inbox :
    Region.inbox ∈ ps) (m_age : Region.age ∈ ps) : Keeps s0 (State.crossing s rank) ps := by
  unfold State.crossing
  grind [foldl_keeps', State.repairEvent_keeps, State.cause_keeps, State.modAge_keeps]

theorem State.takeRepair_ok (s : State) (info : Option RepairInfo) (h_s : s.Ok) : (State.takeRepair s info).Ok := by
  unfold State.takeRepair
  grind [State.Ok, foldl_ok, State.modAge_ok, State.logRec_ok, State.raise_ok]

theorem State.takeRepair_keeps {s0 : State} {ps : List Region} (s : State) (info : Option RepairInfo) (h_s : Keeps s0
    s ps) (m_inbox : Region.inbox ∈ ps) (m_age : Region.age ∈ ps) : Keeps s0 (State.takeRepair s info) ps := by
  unfold State.takeRepair
  grind [foldl_keeps', State.modAge_keeps, State.logRec_keeps, State.raise_keeps]

theorem State.restoreLanes_ok (s : State) (h_s : s.Ok) : (State.restoreLanes s).Ok := by
  unfold State.restoreLanes
  grind [State.Ok, foldl_ok, State.modAge_ok, State.wr_ok]

theorem State.restoreLanes_keeps {s0 : State} {ps : List Region} (s : State) (h_s : Keeps s0 s ps) (m_age : Region.age
    ∈ ps) : Keeps s0 (State.restoreLanes s) ps := by
  unfold State.restoreLanes
  grind [foldl_keeps', State.modAge_keeps, State.wr_keeps]

theorem State.writeCentres_ok (s : State) (r : TrainRun) (p : Nat) (h_s : s.Ok) : (State.writeCentres s r p).Ok := by
  unfold State.writeCentres
  grind [State.Ok, foldl_ok, State.setCentre_ok]

theorem State.writeCentres_keeps {s0 : State} {ps : List Region} (s : State) (r : TrainRun) (p : Nat) (h_s : Keeps s0
    s ps) : Keeps s0 (State.writeCentres s r p) ps := by
  unfold State.writeCentres
  dsimp only
  repeat' first
      | with_reducible assumption
      | with_reducible apply ite_keeps
      | with_reducible refine foldl_keeps' (fun _ _ _ => ?_) _ ?_
      | with_reducible apply State.setCentre_keeps
      | split

theorem State.assignSpares_ok (s : State) (p : Nat) (ca : Bool) (failed : List Nat) (h_s : s.Ok) : (State.assignSpares
    s p ca failed).1.Ok := by
  exact foldl_keeps (P := fun a : State × Option Nat => a.1.Ok)
    (fun b g h => by
      show (match b.1.freeSpare p ca with
        | some k => (b.1.setSpare p k g, b.2)
        | none => (b.1, b.2.or (some g))).1.Ok
      split
      · exact State.setSpare_ok _ _ _ _ h
      · exact h) _ h_s

theorem State.assignSpares_keeps {s0 : State} {ps : List Region} (s : State) (p : Nat) (ca : Bool) (failed : List Nat)
    (h_s : Keeps s0 s ps) : Keeps s0 (State.assignSpares s p ca failed).1 ps := by
  exact foldl_keeps (P := fun a : State × Option Nat => Keeps s0 a.1 ps)
    (fun b g h => by
      show Keeps s0 (match b.1.freeSpare p ca with
        | some k => (b.1.setSpare p k g, b.2)
        | none => (b.1, b.2.or (some g))).1 ps
      split
      · exact State.setSpare_keeps _ _ _ _ h
      · exact h) _ h_s

theorem State.trainPc_ok (s : State) (r : TrainRun) (p : Nat) (h_s : s.Ok) : (State.trainPc s r p).1.Ok := by
  unfold State.trainPc
  grind [State.Ok, foldl_ok, State.writeCentres_ok, State.assignSpares_ok]

theorem State.trainPc_keeps {s0 : State} {ps : List Region} (s : State) (r : TrainRun) (p : Nat) (h_s : Keeps s0 s ps)
    : Keeps s0 (State.trainPc s r p).1 ps := by
  unfold State.trainPc
  grind [foldl_keeps', State.writeCentres_keeps, State.assignSpares_keeps]

theorem State.trainAll_ok (s : State) (r : TrainRun) (h_s : s.Ok) : (State.trainAll s r).1.Ok := by
  unfold State.trainAll
  extract_lets t
  have h : t.Ok := ⟨h_s.1, h_s.2⟩
  clear_value t
  refine foldl_keeps (P := fun a : State × List (Nat × Nat) => a.1.Ok) (fun b g hb => ?_) s.livePcs h
  have hx := State.trainPc_ok b.1 r g.val hb
  dsimp only
  generalize State.trainPc b.1 r g.val = x at hx ⊢
  exact hx

theorem State.trainAll_keeps {s0 : State} {ps : List Region} (s : State) (r : TrainRun) (h_s : Keeps s0 s ps)
    (m_margins : Region.margins ∈ ps) : Keeps s0 (State.trainAll s r).1 ps := by
  unfold State.trainAll
  refine foldl_keeps (P := fun a : State × List (Nat × Nat) => Keeps s0 a.1 ps) (fun b g hb => ?_) s.livePcs ?_
  · have hx := State.trainPc_keeps b.1 r g.val hb
    dsimp only
    generalize State.trainPc b.1 r g.val = x at hx ⊢
    exact hx
  · with_reducible exact Keeps.set_margins h_s m_margins _

theorem State.addGuard_ok (s : State) (p : Nat) (g : Nat) (h_s : s.Ok) : (State.addGuard s p g).Ok := by
  unfold State.addGuard
  extract_lets fs t low
  exact State.raiseIf_ok t _ _ _ (foldl_ok (fun b _ hb => State.sf_ok b _ _ _ hb) fs h_s)

theorem State.addGuard_keeps {s0 : State} {ps : List Region} (s : State) (p : Nat) (g : Nat) (h_s : Keeps s0 s ps) :
    Keeps s0 (State.addGuard s p g) ps := by
  unfold State.addGuard
  extract_lets fs t low
  exact State.raiseIf_keeps t _ _ _ (foldl_keeps' (fun b _ hb => State.sf_keeps b _ _ _ hb) fs h_s)

theorem State.writeTiming_ok (s : State) (r : TrainRun) (p : Fin 64) (h_s : s.Ok) : (State.writeTiming s r p).Ok := by
  unfold State.writeTiming
  grind [State.Ok, foldl_ok, State.addGuard_ok, timingWrite_ok]

theorem State.writeTiming_keeps {s0 : State} {ps : List Region} (s : State) (r : TrainRun) (p : Fin 64) (h_s : Keeps
    s0 s ps) : Keeps s0 (State.writeTiming s r p) ps := by
  unfold State.writeTiming
  grind [foldl_keeps', State.addGuard_keeps, timingWrite_keeps]

theorem State.trainRates_ok (s : State) (attempts : List TrainRun) (u0 : Nat) (u1 : Nat) (h_s : s.Ok) :
    (State.trainRates s attempts u0 u1).1.Ok := by
  induction u0 generalizing u1 s with
  | zero => unfold State.trainRates; grind [State.Ok, foldl_ok, State.trainAll_ok]
  | succ n ih => unfold State.trainRates; grind [State.Ok, foldl_ok, State.trainAll_ok]

theorem State.trainRates_keeps {s0 : State} {ps : List Region} (s : State) (attempts : List TrainRun) (u0 : Nat) (u1 :
    Nat) (h_s : Keeps s0 s ps) (m_margins : Region.margins ∈ ps) : Keeps s0 (State.trainRates s attempts u0 u1).1 ps
    := by
  induction u0 generalizing u1 s with
  | zero => unfold State.trainRates; grind [foldl_keeps', State.trainAll_keeps]
  | succ n ih => unfold State.trainRates; grind [foldl_keeps', State.trainAll_keeps]

theorem State.trainResult_ok (s : State) (h_s : s.Ok) : (State.trainResult s).Ok := by
  unfold State.trainResult
  grind [State.Ok, foldl_ok, State.chainUp_ok]

theorem State.trainResult_keeps {s0 : State} {ps : List Region} (s : State) (h_s : Keeps s0 s ps) (m_chain :
    Region.chain ∈ ps) : Keeps s0 (State.trainResult s) ps := by
  unfold State.trainResult
  grind [foldl_keeps', State.chainUp_keeps]

theorem State.sweeps_ok (s : State) (attempts : List TrainRun) (h_s : s.Ok) : (State.sweeps s attempts).Ok := by
  unfold State.sweeps
  dsimp only
  repeat' first
      | with_reducible assumption
      | with_reducible apply ite_ok
      | with_reducible refine foldl_ok (fun _ _ _ => ?_) _ ?_
      | with_reducible apply State.logRec_ok
      | with_reducible apply State.modAge_ok
      | with_reducible apply State.restoreLanes_ok
      | with_reducible apply State.setPhase_ok
      | with_reducible apply State.settleCycles_ok
      | with_reducible apply State.sf_ok
      | with_reducible apply State.startRefresh_ok
      | with_reducible apply State.storeInterval_ok
      | with_reducible apply State.trainRates_ok
      | with_reducible apply State.trainResult_ok
      | with_reducible apply State.writeTiming_ok
      | split

theorem State.sweeps_keeps {s0 : State} {ps : List Region} (s : State) (attempts : List TrainRun) (h_s : Keeps s0 s
    ps) (m_pcs : Region.pcs ∈ ps) (m_stack : Region.stack ∈ ps) (m_inbox : Region.inbox ∈ ps) (m_chain : Region.chain
    ∈ ps) (m_pkg : Region.pkg ∈ ps) (m_margins : Region.margins ∈ ps) (m_age : Region.age ∈ ps) : Keeps s0
    (State.sweeps s attempts) ps := by
  unfold State.sweeps
  dsimp only
  repeat' first
      | with_reducible assumption
      | with_reducible apply ite_keeps
      | with_reducible refine foldl_keeps' (fun _ _ _ => ?_) _ ?_
      | with_reducible apply State.logRec_keeps
      | with_reducible apply State.modAge_keeps
      | with_reducible apply State.restoreLanes_keeps
      | with_reducible apply State.setPhase_keeps
      | with_reducible apply State.settleCycles_keeps
      | with_reducible apply State.sf_keeps
      | with_reducible apply State.startRefresh_keeps
      | with_reducible apply State.storeInterval_keeps
      | with_reducible apply State.trainRates_keeps
      | with_reducible apply State.trainResult_keeps
      | with_reducible apply State.writeTiming_keeps
      | split

theorem State.sweepsOrWait_ok (s : State) (attempts : List TrainRun) (h_s : s.Ok) : (State.sweepsOrWait s attempts).Ok
    := by
  unfold State.sweepsOrWait
  grind [State.Ok, foldl_ok, State.logRec_ok, State.modAge_ok, State.sweeps_ok]

theorem State.sweepsOrWait_keeps {s0 : State} {ps : List Region} (s : State) (attempts : List TrainRun) (h_s : Keeps
    s0 s ps) (m_pcs : Region.pcs ∈ ps) (m_stack : Region.stack ∈ ps) (m_inbox : Region.inbox ∈ ps) (m_chain :
    Region.chain ∈ ps) (m_pkg : Region.pkg ∈ ps) (m_margins : Region.margins ∈ ps) (m_age : Region.age ∈ ps) : Keeps
    s0 (State.sweepsOrWait s attempts) ps := by
  unfold State.sweepsOrWait
  grind [foldl_keeps', State.logRec_keeps, State.modAge_keeps, State.sweeps_keeps]

theorem State.checkMarkers_ok (s : State) (h_s : s.Ok) : (State.checkMarkers s).Ok := by
  unfold State.checkMarkers
  grind [State.Ok, foldl_ok, State.leaveSelfRefresh_ok, State.logRec_ok, State.loseRank_ok, State.modPc_ok,
    State.modPwr_ok, State.putBurst_ok, State.restoreLanes_ok, State.resumePc_ok, State.sf_ok]

theorem State.checkMarkers_keeps {s0 : State} {ps : List Region} (s : State) (h_s : Keeps s0 s ps) (m_pwr : Region.pwr
    ∈ ps) (m_pcs : Region.pcs ∈ ps) (m_stack : Region.stack ∈ ps) (m_inbox : Region.inbox ∈ ps) (m_age : Region.age ∈
    ps) : Keeps s0 (State.checkMarkers s) ps := by
  unfold State.checkMarkers
  dsimp only
  repeat' first
      | with_reducible assumption
      | with_reducible apply ite_keeps
      | with_reducible refine foldl_keeps' (fun _ _ _ => ?_) _ ?_
      | with_reducible apply State.leaveSelfRefresh_keeps
      | with_reducible apply State.logRec_keeps
      | with_reducible apply State.loseRank_keeps
      | with_reducible apply State.modPc_keeps
      | with_reducible apply State.modPwr_keeps
      | with_reducible apply State.putBurst_keeps
      | with_reducible apply State.restoreLanes_keeps
      | with_reducible apply State.resumePc_keeps
      | with_reducible apply State.sf_keeps
      | split

theorem State.unsupported_ok (s : State) (h_s : s.Ok) : (State.unsupported s).Ok := by
  unfold State.unsupported
  grind [State.Ok, foldl_ok, State.faultStop_ok, State.trainResult_ok]

theorem State.unsupported_keeps {s0 : State} {ps : List Region} (s : State) (h_s : Keeps s0 s ps) (m_pcs : Region.pcs
    ∈ ps) (m_inbox : Region.inbox ∈ ps) (m_chain : Region.chain ∈ ps) (m_pkg : Region.pkg ∈ ps) : Keeps s0
    (State.unsupported s) ps := by
  unfold State.unsupported
  grind [foldl_keeps', State.faultStop_keeps, State.trainResult_keeps]

theorem State.takeCmd_ok (s : State) (code : Nat) (h_s : s.Ok) : ∀ a b, (State.takeCmd s code) = some (a, b) → b.Ok :=
    by
  intro a b hx
  obtain ⟨⟨w, t⟩, ht, hx⟩ := Option.map_eq_some_iff.mp hx
  grind [State.takeWord_ok]

theorem State.takeCmd_keeps {s0 : State} {ps : List Region} (s : State) (code : Nat) (h_s : Keeps s0 s ps) (m_chain :
    Region.chain ∈ ps) : ∀ a b, (State.takeCmd s code) = some (a, b) → Keeps s0 b ps := by
  intro a b hx
  obtain ⟨⟨w, t⟩, ht, hx⟩ := Option.map_eq_some_iff.mp hx
  grind [State.takeWord_keeps]

theorem State.identify_ok (s : State) (height : Nat) (temp : BitVec 12) (ok : Bool) (info : Option RepairInfo)
    (attempts : List TrainRun) (h_s : s.Ok) : (State.identify s height temp ok info attempts).Ok := by
  unfold State.identify
  grind [State.Ok, foldl_ok, State.checkMarkers_ok, State.modPins_ok, State.modSensor_ok, State.readStack_ok,
    State.setPhase_ok, State.sf_ok, State.sweepsOrWait_ok, State.takeRepair_ok, State.unsupported_ok]

theorem State.identify_keeps {s0 : State} {ps : List Region} (s : State) (height : Nat) (temp : BitVec 12) (ok : Bool)
    (info : Option RepairInfo) (attempts : List TrainRun) (h_s : Keeps s0 s ps) (m_pins : Region.pins ∈ ps) (m_pwr :
    Region.pwr ∈ ps) (m_pcs : Region.pcs ∈ ps) (m_stack : Region.stack ∈ ps) (m_refresh : Region.refresh ∈ ps)
    (m_inbox : Region.inbox ∈ ps) (m_chain : Region.chain ∈ ps) (m_pkg : Region.pkg ∈ ps) (m_margins : Region.margins
    ∈ ps) (m_age : Region.age ∈ ps) (m_therm : Region.therm ∈ ps) : Keeps s0 (State.identify s height temp ok info
    attempts) ps := by
  unfold State.identify
  dsimp only
  repeat' first
      | with_reducible assumption
      | with_reducible apply ite_keeps
      | with_reducible refine foldl_keeps' (fun _ _ _ => ?_) _ ?_
      | with_reducible apply State.checkMarkers_keeps
      | with_reducible apply State.modPins_keeps
      | with_reducible apply State.modSensor_keeps
      | with_reducible apply State.readStack_keeps
      | with_reducible apply State.setPhase_keeps
      | with_reducible apply State.sf_keeps
      | with_reducible apply State.sweepsOrWait_keeps
      | with_reducible apply State.takeRepair_keeps
      | with_reducible apply State.unsupported_keeps
      | with_reducible apply Keeps.set_stack
      | split

theorem trainStack_ok (height : BitVec 8) (temp : BitVec 12) (ok : Bool) (info : Option RepairInfo) (attempts : List
    TrainRun) (s : State) (h_s : s.Ok) : (trainStack height temp ok info attempts s).Ok := by
  unfold trainStack
  grind [State.Ok, foldl_ok, State.identify_ok, State.raise_ok, State.takeCmd_ok, State.trainResult_ok]

theorem trainStack_keeps {s0 : State} {ps : List Region} (height : BitVec 8) (temp : BitVec 12) (ok : Bool) (info :
    Option RepairInfo) (attempts : List TrainRun) (s : State) (h_s : Keeps s0 s ps) (m_pins : Region.pins ∈ ps) (m_pwr
    : Region.pwr ∈ ps) (m_pcs : Region.pcs ∈ ps) (m_stack : Region.stack ∈ ps) (m_refresh : Region.refresh ∈ ps)
    (m_inbox : Region.inbox ∈ ps) (m_chain : Region.chain ∈ ps) (m_pkg : Region.pkg ∈ ps) (m_margins : Region.margins
    ∈ ps) (m_age : Region.age ∈ ps) (m_therm : Region.therm ∈ ps) : Keeps s0 (trainStack height temp ok info attempts
    s) ps := by
  unfold trainStack
  grind [foldl_keeps', State.identify_keeps, State.raise_keeps, State.takeCmd_keeps, State.trainResult_keeps]

theorem execTrainStack_ok (height : BitVec 8) (temp : BitVec 12) (ok : Bool) (info : Option RepairInfo) (attempts :
    List TrainRun) (s : State) (h_s : s.Ok) : ∀ x, (execTrainStack height temp ok info attempts s) = .next x → x.Ok :=
    by
  unfold execTrainStack
  grind [State.Ok, foldl_ok, State.onCore_ok, trainStack_ok]

theorem execTrainStack_keeps {s0 : State} {ps : List Region} (height : BitVec 8) (temp : BitVec 12) (ok : Bool) (info
    : Option RepairInfo) (attempts : List TrainRun) (s : State) (h_s : Keeps s0 s ps) (m_pins : Region.pins ∈ ps)
    (m_pwr : Region.pwr ∈ ps) (m_pcs : Region.pcs ∈ ps) (m_stack : Region.stack ∈ ps) (m_refresh : Region.refresh ∈
    ps) (m_inbox : Region.inbox ∈ ps) (m_chain : Region.chain ∈ ps) (m_pkg : Region.pkg ∈ ps) (m_margins :
    Region.margins ∈ ps) (m_age : Region.age ∈ ps) (m_therm : Region.therm ∈ ps) : ∀ x, (execTrainStack height temp ok
    info attempts s) = .next x → Keeps s0 x ps := by
  unfold execTrainStack
  grind [foldl_keeps', State.onCore_keeps, trainStack_keeps]

theorem execTrainingWaitTemperature_ok (attempts : List TrainRun) (s : State) (h_s : s.Ok) : ∀ x,
    (execTrainingWaitTemperature attempts s) = .next x → x.Ok := by
  unfold execTrainingWaitTemperature
  grind [State.Ok, foldl_ok, State.onCore_ok, State.sweepsOrWait_ok, State.when_ok]

theorem execTrainingWaitTemperature_keeps {s0 : State} {ps : List Region} (attempts : List TrainRun) (s : State) (h_s
    : Keeps s0 s ps) (m_pcs : Region.pcs ∈ ps) (m_stack : Region.stack ∈ ps) (m_inbox : Region.inbox ∈ ps) (m_chain :
    Region.chain ∈ ps) (m_pkg : Region.pkg ∈ ps) (m_margins : Region.margins ∈ ps) (m_age : Region.age ∈ ps) : ∀ x,
    (execTrainingWaitTemperature attempts s) = .next x → Keeps s0 x ps := by
  unfold execTrainingWaitTemperature
  grind [foldl_keeps', State.onCore_keeps, State.sweepsOrWait_keeps, State.when_keeps]

theorem State.startWindows_ok (s : State) (h_s : s.Ok) : (State.startWindows s).Ok := by
  unfold State.startWindows
  grind [State.Ok, foldl_ok, State.modAge_ok]

theorem State.startWindows_keeps {s0 : State} {ps : List Region} (s : State) (h_s : Keeps s0 s ps) (m_age : Region.age
    ∈ ps) : Keeps s0 (State.startWindows s) ps := by
  unfold State.startWindows
  grind [foldl_keeps', State.modAge_keeps]

theorem State.skipWindow_ok (s : State) (p : Fin 64) (reason : Nat) (h_s : s.Ok) : (State.skipWindow s p reason).Ok :=
    by
  unfold State.skipWindow
  grind [State.Ok, foldl_ok, State.logRec_ok, State.bumpSat_ok]

theorem State.skipWindow_keeps {s0 : State} {ps : List Region} (s : State) (p : Fin 64) (reason : Nat) (h_s : Keeps s0
    s ps) (m_inbox : Region.inbox ∈ ps) : Keeps s0 (State.skipWindow s p reason) ps := by
  unfold State.skipWindow
  grind [foldl_keeps', State.logRec_keeps, State.bumpSat_keeps]

theorem State.armWindow_ok (s : State) (p : Fin 64) (t : Nat) (expedited : Bool) (h_s : s.Ok) : (State.armWindow s p t
    expedited).Ok := by
  unfold State.armWindow
  grind [State.Ok, foldl_ok, State.modPc_ok]

theorem State.armWindow_keeps {s0 : State} {ps : List Region} (s : State) (p : Fin 64) (t : Nat) (expedited : Bool)
    (h_s : Keeps s0 s ps) (m_pcs : Region.pcs ∈ ps) : Keeps s0 (State.armWindow s p t expedited) ps := by
  unfold State.armWindow
  grind [foldl_keeps', State.modPc_keeps]

theorem State.armScheduled_ok (s : State) (p : Fin 64) (h_s : s.Ok) : (State.armScheduled s p).Ok := by
  unfold State.armScheduled
  dsimp only
  split
  · exact h_s
  split
  · exact State.skipWindow_ok _ _ _ (State.modAge_ok _ _ h_s)
  split
  · exact h_s
  split
  · exact State.skipWindow_ok _ _ _ (State.modAge_ok _ _ h_s)
  · exact h_s

theorem State.armScheduled_keeps {s0 : State} {ps : List Region} (s : State) (p : Fin 64) (h_s : Keeps s0 s ps) (m_pcs
    : Region.pcs ∈ ps) (m_inbox : Region.inbox ∈ ps) (m_age : Region.age ∈ ps) : Keeps s0 (State.armScheduled s p) ps
    := by
  unfold State.armScheduled
  dsimp only
  have hw : Keeps s0 (s.modAge fun a => { a with windows := a.windows.set p (a.windows[p] + 1) }) ps :=
    State.modAge_keeps _ _ h_s m_age
  refine ite_keeps h_s (ite_keeps (State.skipWindow_keeps _ _ _ hw m_inbox) (ite_keeps h_s ?_))
  split
  · exact State.skipWindow_keeps _ _ _ hw m_inbox
  · exact Keeps.set_pcs hw m_pcs _

theorem State.armExpedited_ok (s : State) (p : Fin 64) (h_s : s.Ok) : (State.armExpedited s p).Ok := by
  unfold State.armExpedited
  grind [State.Ok, foldl_ok, State.modAge_ok, State.modPc_ok, State.skipWindow_ok, State.armWindow_ok]

theorem State.armExpedited_keeps {s0 : State} {ps : List Region} (s : State) (p : Fin 64) (h_s : Keeps s0 s ps) (m_pcs
    : Region.pcs ∈ ps) (m_inbox : Region.inbox ∈ ps) (m_age : Region.age ∈ ps) : Keeps s0 (State.armExpedited s p) ps
    := by
  unfold State.armExpedited
  grind [foldl_keeps', State.modAge_keeps, State.modPc_keeps, State.skipWindow_keeps, State.armWindow_keeps]

theorem truingArm_ok (p : Fin 64) (expedited : Bool) (s : State) (h_s : s.Ok) : (truingArm p expedited s).Ok := by
  unfold truingArm
  grind [State.Ok, foldl_ok, State.armExpedited_ok, State.armScheduled_ok]

theorem truingArm_keeps {s0 : State} {ps : List Region} (p : Fin 64) (expedited : Bool) (s : State) (h_s : Keeps s0 s
    ps) (m_pcs : Region.pcs ∈ ps) (m_inbox : Region.inbox ∈ ps) (m_age : Region.age ∈ ps) : Keeps s0 (truingArm p
    expedited s) ps := by
  unfold truingArm
  grind [foldl_keeps', State.armExpedited_keeps, State.armScheduled_keeps]

theorem execTruingArm_ok (p : Fin 64) (expedited : Bool) (s : State) (h_s : s.Ok) : ∀ x, (execTruingArm p expedited s)
    = .next x → x.Ok := by
  unfold execTruingArm
  grind [State.Ok, foldl_ok, State.onCore_ok, truingArm_ok]

theorem execTruingArm_keeps {s0 : State} {ps : List Region} (p : Fin 64) (expedited : Bool) (s : State) (h_s : Keeps
    s0 s ps) (m_pcs : Region.pcs ∈ ps) (m_inbox : Region.inbox ∈ ps) (m_age : Region.age ∈ ps) : ∀ x, (execTruingArm p
    expedited s) = .next x → Keeps s0 x ps := by
  unfold execTruingArm
  grind [foldl_keeps', State.onCore_keeps, truingArm_keeps]

theorem truingOpen_ok (p : Fin 64) (s : State) (h_s : s.Ok) : (truingOpen p s).Ok := by
  unfold truingOpen
  grind [State.Ok, foldl_ok, State.skipWindow_ok, State.modPc_ok, State.raise_ok]

theorem truingOpen_keeps {s0 : State} {ps : List Region} (p : Fin 64) (s : State) (h_s : Keeps s0 s ps) (m_pcs :
    Region.pcs ∈ ps) (m_inbox : Region.inbox ∈ ps) : Keeps s0 (truingOpen p s) ps := by
  unfold truingOpen
  grind [foldl_keeps', State.skipWindow_keeps, State.modPc_keeps, State.raise_keeps]

theorem execTruingWindowOpen_ok (p : Fin 64) (s : State) (h_s : s.Ok) : ∀ x, (execTruingWindowOpen p s) = .next x →
    x.Ok := by
  unfold execTruingWindowOpen
  grind [State.Ok, foldl_ok, State.onLive_ok, truingOpen_ok]

theorem execTruingWindowOpen_keeps {s0 : State} {ps : List Region} (p : Fin 64) (s : State) (h_s : Keeps s0 s ps)
    (m_pcs : Region.pcs ∈ ps) (m_inbox : Region.inbox ∈ ps) : ∀ x, (execTruingWindowOpen p s) = .next x → Keeps s0 x
    ps := by
  unfold execTruingWindowOpen
  grind [foldl_keeps', State.onLive_keeps, truingOpen_keeps]

theorem probesPosted_ok (p : Fin 64) (r : Probes) (s : State) (h_s : s.Ok) : (probesPosted p r s).Ok := by
  unfold probesPosted
  grind [State.Ok, foldl_ok, State.modPc_ok]

theorem probesPosted_keeps {s0 : State} {ps : List Region} (p : Fin 64) (r : Probes) (s : State) (h_s : Keeps s0 s ps)
    (m_pcs : Region.pcs ∈ ps) : Keeps s0 (probesPosted p r s) ps := by
  unfold probesPosted
  grind [foldl_keeps', State.modPc_keeps]

theorem execTruingProbesPosted_ok (p : Fin 64) (r : Probes) (s : State) (h_s : s.Ok) : ∀ x, (execTruingProbesPosted p
    r s) = .next x → x.Ok := by
  unfold execTruingProbesPosted
  grind [State.Ok, foldl_ok, State.onLive_ok, probesPosted_ok]

theorem execTruingProbesPosted_keeps {s0 : State} {ps : List Region} (p : Fin 64) (r : Probes) (s : State) (h_s :
    Keeps s0 s ps) (m_pcs : Region.pcs ∈ ps) : ∀ x, (execTruingProbesPosted p r s) = .next x → Keeps s0 x ps := by
  unfold execTruingProbesPosted
  grind [foldl_keeps', State.onLive_keeps, probesPosted_keeps]

theorem State.stepCentre_ok (s : State) (p : Nat) (lane : Nat) (group : Nat) (kind : Nat) (high : Bool) (h_s : s.Ok) :
    (State.stepCentre s p lane group kind high).Ok := by
  unfold State.stepCentre
  grind [State.Ok, foldl_ok, State.setEdge_ok, State.setCentre_ok]

theorem State.stepCentre_keeps {s0 : State} {ps : List Region} (s : State) (p : Nat) (lane : Nat) (group : Nat) (kind
    : Nat) (high : Bool) (h_s : Keeps s0 s ps) (m_margins : Region.margins ∈ ps) : Keeps s0 (State.stepCentre s p lane
    group kind high) ps := by
  unfold State.stepCentre
  grind [foldl_keeps', State.setEdge_keeps, State.setCentre_keeps]

theorem State.recompute_ok (s : State) (p : Nat) (kind : Nat) (lane : Nat) (lanes : List Nat) (h_s : s.Ok) :
    (State.recompute s p kind lane lanes).Ok := by
  unfold State.recompute
  grind [State.Ok, foldl_ok, State.setCentre_ok]

theorem State.recompute_keeps {s0 : State} {ps : List Region} (s : State) (p : Nat) (kind : Nat) (lane : Nat) (lanes :
    List Nat) (h_s : Keeps s0 s ps) : Keeps s0 (State.recompute s p kind lane lanes) ps := by
  unfold State.recompute
  grind [foldl_keeps', State.setCentre_keeps]

theorem State.trackEdge_ok (s : State) (r : Probes) (p : Nat) (w : Nat) (ca : Bool) (lane : Nat) (h_s : s.Ok) :
    (State.trackEdge s r p w ca lane).Ok := by
  unfold State.trackEdge
  grind [State.Ok, foldl_ok, State.recompute_ok, State.setEdge_ok]

theorem State.trackEdge_keeps {s0 : State} {ps : List Region} (s : State) (r : Probes) (p : Nat) (w : Nat) (ca : Bool)
    (lane : Nat) (h_s : Keeps s0 s ps) (m_margins : Region.margins ∈ ps) : Keeps s0 (State.trackEdge s r p w ca lane)
    ps := by
  unfold State.trackEdge
  grind [foldl_keeps', State.recompute_keeps, State.setEdge_keeps]

theorem State.shareCentre_ok (s : State) (r : Probes) (p : Nat) (w : Nat) (h_s : s.Ok) : (State.shareCentre s r p
    w).Ok := by
  unfold State.shareCentre
  grind [State.Ok, foldl_ok, State.recompute_ok, State.setCentre_ok]

theorem State.shareCentre_keeps {s0 : State} {ps : List Region} (s : State) (r : Probes) (p : Nat) (w : Nat) (h_s :
    Keeps s0 s ps) : Keeps s0 (State.shareCentre s r p w) ps := by
  unfold State.shareCentre
  grind [foldl_keeps', State.recompute_keeps, State.setCentre_keeps]

theorem State.swapLane_ok (s : State) (p : Nat) (lane : Nat) (spare : Nat) (projected : Bool) (h_s : s.Ok) :
    (State.swapLane s p lane spare projected).Ok := by
  unfold State.swapLane
  grind [State.Ok, foldl_ok, State.repairEvent_ok, State.logRec_ok, State.setSpare_ok]

theorem State.swapLane_keeps {s0 : State} {ps : List Region} (s : State) (p : Nat) (lane : Nat) (spare : Nat)
    (projected : Bool) (h_s : Keeps s0 s ps) (m_inbox : Region.inbox ∈ ps) (m_age : Region.age ∈ ps) : Keeps s0
    (State.swapLane s p lane spare projected) ps := by
  unfold State.swapLane
  grind [foldl_keeps', State.repairEvent_keeps, State.logRec_keeps, State.setSpare_keeps]

theorem State.recentre_ok (s : State) (r : Probes) (p : Nat) (w : Nat) (ca : Bool) (lane : Nat) (h_s : s.Ok) :
    (State.recentre s r p w ca lane).Ok := by
  unfold State.recentre
  grind [State.Ok, foldl_ok, State.stepCentre_ok, State.trackEdge_ok]

theorem State.recentre_keeps {s0 : State} {ps : List Region} (s : State) (r : Probes) (p : Nat) (w : Nat) (ca : Bool)
    (lane : Nat) (h_s : Keeps s0 s ps) (m_margins : Region.margins ∈ ps) : Keeps s0 (State.recentre s r p w ca lane)
    ps := by
  unfold State.recentre
  grind [foldl_keeps', State.stepCentre_keeps, State.trackEdge_keeps]

theorem State.laneOutcome_ok (s : State) (r : Probes) (p : Nat) (w : Nat) (ca : Bool) (lane : Nat) (h_s : s.Ok) :
    (State.laneOutcome s r p w ca lane).1.Ok := by
  unfold State.laneOutcome
  grind [State.Ok, foldl_ok, State.recentre_ok, State.swapLane_ok]

theorem State.laneOutcome_keeps {s0 : State} {ps : List Region} (s : State) (r : Probes) (p : Nat) (w : Nat) (ca :
    Bool) (lane : Nat) (h_s : Keeps s0 s ps) (m_inbox : Region.inbox ∈ ps) (m_margins : Region.margins ∈ ps) (m_age :
    Region.age ∈ ps) : Keeps s0 (State.laneOutcome s r p w ca lane).1 ps := by
  unfold State.laneOutcome
  grind [foldl_keeps', State.recentre_keeps, State.swapLane_keeps]

theorem State.trackSpares_ok (s : State) (r : Probes) (p : Nat) (w : Nat) (h_s : s.Ok) : (State.trackSpares s r p
    w).Ok := by
  unfold State.trackSpares
  grind [State.Ok, foldl_ok, State.recentre_ok]

theorem State.trackSpares_keeps {s0 : State} {ps : List Region} (s : State) (r : Probes) (p : Nat) (w : Nat) (h_s :
    Keeps s0 s ps) (m_margins : Region.margins ∈ ps) : Keeps s0 (State.trackSpares s r p w) ps := by
  unfold State.trackSpares
  grind [foldl_keeps', State.recentre_keeps]

theorem decideLane_ok (r : Probes) (p w : Nat) (ca : Bool) (lanes : List Nat) (a : State × Option Nat) (h_a : a.1.Ok) :
    (lanes.foldl (decideLane r p w ca) a).1.Ok :=
  foldl_keeps (P := fun a : State × Option Nat => a.1.Ok)
    (fun b k hb => by unfold decideLane; exact State.laneOutcome_ok b.1 r p w ca k hb) lanes h_a

theorem decideLane_keeps {s0 : State} {ps : List Region} (r : Probes) (p w : Nat) (ca : Bool) (lanes : List Nat)
    (a : State × Option Nat) (h_a : Keeps s0 a.1 ps) (m_inbox : Region.inbox ∈ ps) (m_margins : Region.margins ∈ ps)
    (m_age : Region.age ∈ ps) : Keeps s0 (lanes.foldl (decideLane r p w ca) a).1 ps :=
  foldl_keeps (P := fun a : State × Option Nat => Keeps s0 a.1 ps)
    (fun b k hb => by unfold decideLane; exact State.laneOutcome_keeps b.1 r p w ca k hb m_inbox m_margins m_age)
    lanes h_a

theorem State.decideLanes_ok (s : State) (r : Probes) (p : Nat) (w : Nat) (h_s : s.Ok) : (State.decideLanes s r p
    w).1.Ok := by
  unfold State.decideLanes
  exact State.trackSpares_ok _ _ _ _ (State.shareCentre_ok _ _ _ _ (decideLane_ok _ _ _ _ _ _
    (decideLane_ok _ _ _ _ _ _ h_s)))

theorem State.decideLanes_keeps {s0 : State} {ps : List Region} (s : State) (r : Probes) (p : Nat) (w : Nat) (h_s :
    Keeps s0 s ps) (m_inbox : Region.inbox ∈ ps) (m_margins : Region.margins ∈ ps) (m_age : Region.age ∈ ps) : Keeps
    s0 (State.decideLanes s r p w).1 ps := by
  unfold State.decideLanes
  exact State.trackSpares_keeps _ _ _ _ (State.shareCentre_keeps _ _ _ _ (decideLane_keeps _ _ _ _ _ _
    (decideLane_keeps _ _ _ _ _ _ h_s m_inbox m_margins m_age) m_inbox m_margins m_age)) m_margins

theorem State.swapProjected_ok (s : State) (p : Nat) (h_s : s.Ok) : (State.swapProjected s p).Ok := by
  unfold State.swapProjected
  grind [State.Ok, foldl_ok, State.modAge_ok, State.swapLane_ok]

theorem State.swapProjected_keeps {s0 : State} {ps : List Region} (s : State) (p : Nat) (h_s : Keeps s0 s ps) (m_inbox
    : Region.inbox ∈ ps) (m_age : Region.age ∈ ps) : Keeps s0 (State.swapProjected s p) ps := by
  unfold State.swapProjected
  grind [foldl_keeps', State.modAge_keeps, State.swapLane_keeps]

theorem State.truingFailed_ok (s : State) (p : Fin 64) (lane : Nat) (h_s : s.Ok) : (State.truingFailed s p lane).Ok :=
    by
  unfold State.truingFailed
  grind [State.Ok, foldl_ok, State.modInbox_ok, State.logRec_ok, State.raise_ok]

theorem State.truingFailed_keeps {s0 : State} {ps : List Region} (s : State) (p : Fin 64) (lane : Nat) (h_s : Keeps s0
    s ps) (m_inbox : Region.inbox ∈ ps) : Keeps s0 (State.truingFailed s p lane) ps := by
  unfold State.truingFailed
  grind [foldl_keeps', State.modInbox_keeps, State.logRec_keeps, State.raise_keeps]

theorem truingDone_ok (p : Fin 64) (confirm : Option (Fin 38)) (s : State) (h_s : s.Ok) : (truingDone p confirm s).Ok
    := by
  unfold truingDone
  grind [State.Ok, foldl_ok, State.decideLanes_ok, State.swapProjected_ok, State.modPc_ok, State.truingFailed_ok,
      State.modAge_ok, State.addGuard_ok, State.logRec_ok, State.crossing_ok]

theorem truingDone_keeps {s0 : State} {ps : List Region} (p : Fin 64) (confirm : Option (Fin 38)) (s : State) (h_s :
    Keeps s0 s ps) (m_pcs : Region.pcs ∈ ps) (m_inbox : Region.inbox ∈ ps) (m_margins : Region.margins ∈ ps) (m_age :
    Region.age ∈ ps) : Keeps s0 (truingDone p confirm s) ps := by
  unfold truingDone
  repeat' split
  all_goals grind [foldl_keeps', State.decideLanes_keeps, State.swapProjected_keeps, State.modPc_keeps,
      State.truingFailed_keeps, State.modAge_keeps, State.addGuard_keeps, State.logRec_keeps, State.crossing_keeps]

theorem execTruingDone_ok (p : Fin 64) (confirm : Option (Fin 38)) (s : State) (h_s : s.Ok) : ∀ x, (execTruingDone p
    confirm s) = .next x → x.Ok := by
  unfold execTruingDone
  grind [State.Ok, foldl_ok, State.onCore_ok, truingDone_ok]

theorem execTruingDone_keeps {s0 : State} {ps : List Region} (p : Fin 64) (confirm : Option (Fin 38)) (s : State) (h_s
    : Keeps s0 s ps) (m_pcs : Region.pcs ∈ ps) (m_inbox : Region.inbox ∈ ps) (m_margins : Region.margins ∈ ps) (m_age
    : Region.age ∈ ps) : ∀ x, (execTruingDone p confirm s) = .next x → Keeps s0 x ps := by
  unfold execTruingDone
  grind [foldl_keeps', State.onCore_keeps, truingDone_keeps]

theorem truingDoneTimeout_ok (p : Fin 64) (s : State) (h_s : s.Ok) : (truingDoneTimeout p s).Ok := by
  unfold truingDoneTimeout
  grind [State.Ok, foldl_ok, State.modPc_ok, State.restoreDelays_ok]

theorem truingDoneTimeout_keeps {s0 : State} {ps : List Region} (p : Fin 64) (s : State) (h_s : Keeps s0 s ps) (m_pcs
    : Region.pcs ∈ ps) : Keeps s0 (truingDoneTimeout p s) ps := by
  unfold truingDoneTimeout
  grind [foldl_keeps', State.modPc_keeps, State.restoreDelays_keeps]

theorem execTruingDoneTimeout_ok (p : Fin 64) (s : State) (h_s : s.Ok) : ∀ x, (execTruingDoneTimeout p s) = .next x →
    x.Ok := by
  unfold execTruingDoneTimeout
  grind [State.Ok, foldl_ok, State.onLive_ok, truingDoneTimeout_ok]

theorem execTruingDoneTimeout_keeps {s0 : State} {ps : List Region} (p : Fin 64) (s : State) (h_s : Keeps s0 s ps)
    (m_pcs : Region.pcs ∈ ps) : ∀ x, (execTruingDoneTimeout p s) = .next x → Keeps s0 x ps := by
  unfold execTruingDoneTimeout
  grind [foldl_keeps', State.onLive_keeps, truingDoneTimeout_keeps]

theorem truingEnd_ok (p : Fin 64) (s : State) (h_s : s.Ok) : (truingEnd p s).Ok := by
  unfold truingEnd
  grind [State.Ok, foldl_ok, State.bump_ok, State.keepReference_ok, State.modPc_ok, State.restoreDelays_ok,
    State.sf_ok]

theorem truingEnd_keeps {s0 : State} {ps : List Region} (p : Fin 64) (s : State) (h_s : Keeps s0 s ps) (m_pcs :
    Region.pcs ∈ ps) (m_stack : Region.stack ∈ ps) : Keeps s0 (truingEnd p s) ps := by
  unfold truingEnd
  grind [foldl_keeps', State.bump_keeps, State.keepReference_keeps, State.modPc_keeps, State.restoreDelays_keeps,
    State.sf_keeps]

theorem execTruingWindowEnd_ok (p : Fin 64) (s : State) (h_s : s.Ok) : ∀ x, (execTruingWindowEnd p s) = .next x → x.Ok
    := by
  unfold execTruingWindowEnd
  grind [State.Ok, foldl_ok, State.onLive_ok, truingEnd_ok]

theorem execTruingWindowEnd_keeps {s0 : State} {ps : List Region} (p : Fin 64) (s : State) (h_s : Keeps s0 s ps)
    (m_pcs : Region.pcs ∈ ps) (m_stack : Region.stack ∈ ps) : ∀ x, (execTruingWindowEnd p s) = .next x → Keeps s0 x ps
    := by
  unfold execTruingWindowEnd
  grind [foldl_keeps', State.onLive_keeps, truingEnd_keeps]

theorem laneCeWindow_ok (p : Fin 64) (s : State) (h_s : s.Ok) : (laneCeWindow p s).Ok := by
  unfold laneCeWindow
  grind [State.Ok, foldl_ok, State.modPc_ok]

theorem laneCeWindow_keeps {s0 : State} {ps : List Region} (p : Fin 64) (s : State) (h_s : Keeps s0 s ps) (m_pcs :
    Region.pcs ∈ ps) : Keeps s0 (laneCeWindow p s) ps := by
  unfold laneCeWindow
  grind [foldl_keeps', State.modPc_keeps]

theorem execLaneCeWindow_ok (p : Fin 64) (s : State) (h_s : s.Ok) : ∀ x, (execLaneCeWindow p s) = .next x → x.Ok := by
  unfold execLaneCeWindow
  grind [State.Ok, foldl_ok, State.onLive_ok, laneCeWindow_ok]

theorem execLaneCeWindow_keeps {s0 : State} {ps : List Region} (p : Fin 64) (s : State) (h_s : Keeps s0 s ps) (m_pcs :
    Region.pcs ∈ ps) : ∀ x, (execLaneCeWindow p s) = .next x → Keeps s0 x ps := by
  unfold execLaneCeWindow
  grind [foldl_keeps', State.onLive_keeps, laneCeWindow_keeps]

theorem trueCfg_ok (v : Word) (s : State) (h_s : s.Ok) : (trueCfg v s).Ok := by
  have h : (s.wr Reg.FW_TRUE_CFG (trueCfgWord v)).Ok := State.wr_ok _ _ _ h_s
  unfold trueCfg
  generalize s.wr Reg.FW_TRUE_CFG (trueCfgWord v) = t at h
  exact ite_ok ⟨h.1, h.2⟩ (State.startWindows_ok _ ⟨h.1, h.2⟩)

theorem trueCfg_keeps {s0 : State} {ps : List Region} (v : Word) (s : State) (h_s : Keeps s0 s ps) (m_pcs : Region.pcs
    ∈ ps) (m_age : Region.age ∈ ps) : Keeps s0 (trueCfg v s) ps := by
  unfold trueCfg
  dsimp only
  repeat' first
      | with_reducible assumption
      | with_reducible apply ite_keeps
      | with_reducible refine foldl_keeps' (fun _ _ _ => ?_) _ ?_
      | with_reducible apply State.wr_keeps
      | with_reducible apply State.startWindows_keeps
      | with_reducible apply Keeps.set_pcs
      | split

theorem execFwTrueCfgWrite_ok (v : Word) (s : State) (h_s : s.Ok) : ∀ x, (execFwTrueCfgWrite v s) = .next x → x.Ok :=
    by
  unfold execFwTrueCfgWrite
  grind [State.Ok, foldl_ok, State.emuWrite_ok, trueCfg_ok]

theorem execFwTrueCfgWrite_keeps {s0 : State} {ps : List Region} (v : Word) (s : State) (h_s : Keeps s0 s ps) (m_mgt :
    Region.mgt ∈ ps) (m_pcs : Region.pcs ∈ ps) (m_age : Region.age ∈ ps) : ∀ x, (execFwTrueCfgWrite v s) = .next x →
    Keeps s0 x ps := by
  unfold execFwTrueCfgWrite
  grind [foldl_keeps', State.emuWrite_keeps, trueCfg_keeps]

end Sys2Proof.Machine
end

