-- ==== Sys2Proof/Laws/Ledger.lean ====
section
/-! SUPPORT. Two lemmas for every operation of Machine/Ledger.lean. `…_ok`: the register table and the stack's memory stay
canonical. `…_keeps`: what agrees with a state outside a list of regions that holds those the operation can change still
agrees afterwards. -/

namespace Sys2Proof.Machine

set_option Elab.async false

theorem monitorRead_ok (f : List (BitVec 32)) (s : State) (h_s : s.Ok) : (monitorRead f s).Ok := by
  unfold monitorRead
  grind [State.Ok, foldl_ok, State.sf_ok, State.modAge_ok]

theorem monitorRead_keeps {s0 : State} {ps : List Region} (f : List (BitVec 32)) (s : State) (h_s : Keeps s0 s ps)
    (m_age : Region.age ∈ ps) : Keeps s0 (monitorRead f s) ps := by
  unfold monitorRead
  grind [foldl_keeps', State.sf_keeps, State.modAge_keeps]

theorem execMonitorRead_ok (f : List (BitVec 32)) (s : State) (h_s : s.Ok) : ∀ x, (execMonitorRead f s) = .next x →
    x.Ok := by
  unfold execMonitorRead
  grind [State.Ok, foldl_ok, State.onCore_ok, monitorRead_ok]

theorem execMonitorRead_keeps {s0 : State} {ps : List Region} (f : List (BitVec 32)) (s : State) (h_s : Keeps s0 s ps)
    (m_age : Region.age ∈ ps) : ∀ x, (execMonitorRead f s) = .next x → Keeps s0 x ps := by
  unfold execMonitorRead
  grind [foldl_keeps', State.onCore_keeps, monitorRead_keeps]

theorem State.showHorizon_ok (s : State) (h_s : s.Ok) : (State.showHorizon s).Ok := by
  unfold State.showHorizon
  grind [State.Ok, foldl_ok, State.sf_ok]

theorem State.showHorizon_keeps {s0 : State} {ps : List Region} (s : State) (h_s : Keeps s0 s ps) : Keeps s0
    (State.showHorizon s) ps := by
  unfold State.showHorizon
  grind [foldl_keeps', State.sf_keeps]

theorem State.planRank_ok (s : State) (rank : Nat) (h_s : s.Ok) : (State.planRank s rank).Ok := by
  unfold State.planRank
  grind [State.Ok, foldl_ok, State.modAge_ok, State.logRec_ok]

theorem State.planRank_keeps {s0 : State} {ps : List Region} (s : State) (rank : Nat) (h_s : Keeps s0 s ps) (m_inbox :
    Region.inbox ∈ ps) (m_age : Region.age ∈ ps) : Keeps s0 (State.planRank s rank) ps := by
  unfold State.planRank
  grind [foldl_keeps', State.modAge_keeps, State.logRec_keeps]

theorem State.planRequests_ok (s : State) (before : List Nat) (h_s : s.Ok) : (State.planRequests s before).Ok := by
  unfold State.planRequests
  grind [State.Ok, foldl_ok, State.modInbox_ok, State.cause_ok]

theorem State.planRequests_keeps {s0 : State} {ps : List Region} (s : State) (before : List Nat) (h_s : Keeps s0 s ps)
    (m_inbox : Region.inbox ∈ ps) : Keeps s0 (State.planRequests s before) ps := by
  unfold State.planRequests
  grind [foldl_keeps', State.modInbox_keeps, State.cause_keeps]

theorem State.planGuard_ok (s : State) (h_s : s.Ok) : (State.planGuard s).Ok := by
  unfold State.planGuard
  grind [State.Ok, foldl_ok, State.logRec_ok, State.sf_ok]

theorem State.planGuard_keeps {s0 : State} {ps : List Region} (s : State) (h_s : Keeps s0 s ps) (m_inbox :
    Region.inbox ∈ ps) : Keeps s0 (State.planGuard s) ps := by
  unfold State.planGuard
  grind [foldl_keeps', State.logRec_keeps, State.sf_keeps]

theorem State.planRows_ok (s : State) (h_s : s.Ok) : (State.planRows s).Ok := by
  unfold State.planRows
  grind [State.Ok, foldl_ok]

theorem State.planRows_keeps {s0 : State} {ps : List Region} (s : State) (h_s : Keeps s0 s ps) (m_pcs : Region.pcs ∈
    ps) : Keeps s0 (State.planRows s) ps := by
  unfold State.planRows
  grind [foldl_keeps', Keeps.set_pcs]

theorem State.replan_ok (s : State) (h_s : s.Ok) : (State.replan s).Ok := by
  unfold State.replan
  grind [State.Ok, foldl_ok, State.planRank_ok, State.showHorizon_ok, State.planRows_ok, State.planGuard_ok,
      State.planRequests_ok]

theorem State.replan_keeps {s0 : State} {ps : List Region} (s : State) (h_s : Keeps s0 s ps) (m_pcs : Region.pcs ∈ ps)
    (m_inbox : Region.inbox ∈ ps) (m_age : Region.age ∈ ps) : Keeps s0 (State.replan s) ps := by
  unfold State.replan
  grind [foldl_keeps', State.planRank_keeps, State.showHorizon_keeps, State.planRows_keeps, State.planGuard_keeps,
      State.planRequests_keeps]

theorem State.appendPoints_ok (s : State) (h_s : s.Ok) : (State.appendPoints s).Ok := by
  unfold State.appendPoints
  grind [State.Ok, foldl_ok, State.modAge_ok]

theorem State.appendPoints_keeps {s0 : State} {ps : List Region} (s : State) (h_s : Keeps s0 s ps) (m_age : Region.age
    ∈ ps) : Keeps s0 (State.appendPoints s) ps := by
  unfold State.appendPoints
  grind [foldl_keeps', State.modAge_keeps]

theorem historyPoint_ok (s : State) (h_s : s.Ok) : (historyPoint s).Ok := by
  unfold historyPoint
  grind [State.Ok, foldl_ok, State.replan_ok, State.appendPoints_ok]

theorem historyPoint_keeps {s0 : State} {ps : List Region} (s : State) (h_s : Keeps s0 s ps) (m_pcs : Region.pcs ∈ ps)
    (m_inbox : Region.inbox ∈ ps) (m_age : Region.age ∈ ps) : Keeps s0 (historyPoint s) ps := by
  unfold historyPoint
  grind [foldl_keeps', State.replan_keeps, State.appendPoints_keeps]

theorem execHistoryPoint_ok (s : State) (h_s : s.Ok) : ∀ x, (execHistoryPoint s) = .next x → x.Ok := by
  unfold execHistoryPoint
  grind [State.Ok, foldl_ok, State.onCore_ok, historyPoint_ok]

theorem execHistoryPoint_keeps {s0 : State} {ps : List Region} (s : State) (h_s : Keeps s0 s ps) (m_pcs : Region.pcs ∈
    ps) (m_inbox : Region.inbox ∈ ps) (m_age : Region.age ∈ ps) : ∀ x, (execHistoryPoint s) = .next x → Keeps s0 x ps
    := by
  unfold execHistoryPoint
  grind [foldl_keeps', State.onCore_keeps, historyPoint_keeps]

theorem State.snapWrite_ok (s : State) (x : Snap) (off : Nat) (b : List Byte) (h_s : s.Ok) : (State.snapWrite s x off
    b).Ok := by
  unfold State.snapWrite
  grind [State.Ok, foldl_ok, State.modAge_ok, State.issueWrite_ok]

theorem State.snapWrite_keeps {s0 : State} {ps : List Region} (s : State) (x : Snap) (off : Nat) (b : List Byte) (h_s
    : Keeps s0 s ps) (m_paths : Region.paths ∈ ps) (m_ring : Region.ring ∈ ps) (m_tags : Region.tags ∈ ps) (m_age :
    Region.age ∈ ps) (m_inj : Region.inj ∈ ps) : Keeps s0 (State.snapWrite s x off b) ps := by
  unfold State.snapWrite
  grind [foldl_keeps', State.modAge_keeps, State.issueWrite_keeps]

theorem ledgerSnapshot_ok (s : State) (h_s : s.Ok) : (ledgerSnapshot s).Ok := by
  unfold ledgerSnapshot
  dsimp only
  repeat' first
      | with_reducible assumption
      | with_reducible apply ite_ok
      | with_reducible refine foldl_ok (fun _ _ _ => ?_) _ ?_
      | with_reducible apply State.dropDone_ok
      | with_reducible apply State.logRec_ok
      | with_reducible apply State.modAge_ok
      | with_reducible apply State.snapWrite_ok
      | with_reducible apply State.tick_ok
      | with_reducible apply State.wr_ok
      | with_reducible apply snap_ok
      | split

theorem ledgerSnapshot_keeps {s0 : State} {ps : List Region} (s : State) (h_s : Keeps s0 s ps) (m_free : Region.free ∈
    ps) (m_paths : Region.paths ∈ ps) (m_inbox : Region.inbox ∈ ps) (m_ring : Region.ring ∈ ps) (m_tags : Region.tags
    ∈ ps) (m_age : Region.age ∈ ps) (m_inj : Region.inj ∈ ps) : Keeps s0 (ledgerSnapshot s) ps := by
  unfold ledgerSnapshot
  dsimp only
  repeat' first
      | with_reducible assumption
      | with_reducible apply ite_keeps
      | with_reducible refine foldl_keeps' (fun _ _ _ => ?_) _ ?_
      | with_reducible apply State.dropDone_keeps
      | with_reducible apply State.logRec_keeps
      | with_reducible apply State.modAge_keeps
      | with_reducible apply State.snapWrite_keeps
      | with_reducible apply State.tick_keeps
      | with_reducible apply State.wr_keeps
      | with_reducible apply snap_keeps
      | split

theorem execLedgerSnapshot_ok (s : State) (h_s : s.Ok) : ∀ x, (execLedgerSnapshot s) = .next x → x.Ok := by
  unfold execLedgerSnapshot
  grind [State.Ok, foldl_ok, State.onCore_ok, ledgerSnapshot_ok]

theorem execLedgerSnapshot_keeps {s0 : State} {ps : List Region} (s : State) (h_s : Keeps s0 s ps) (m_free :
    Region.free ∈ ps) (m_paths : Region.paths ∈ ps) (m_inbox : Region.inbox ∈ ps) (m_ring : Region.ring ∈ ps) (m_tags
    : Region.tags ∈ ps) (m_age : Region.age ∈ ps) (m_inj : Region.inj ∈ ps) : ∀ x, (execLedgerSnapshot s) = .next x →
    Keeps s0 x ps := by
  unfold execLedgerSnapshot
  grind [foldl_keeps', State.onCore_keeps, ledgerSnapshot_keeps]

theorem snapshotPeriod_ok (s : State) (h_s : s.Ok) : (snapshotPeriod s).Ok := by
  unfold snapshotPeriod
  grind [State.Ok, foldl_ok, State.modAge_ok]

theorem snapshotPeriod_keeps {s0 : State} {ps : List Region} (s : State) (h_s : Keeps s0 s ps) (m_age : Region.age ∈
    ps) : Keeps s0 (snapshotPeriod s) ps := by
  unfold snapshotPeriod
  grind [foldl_keeps', State.modAge_keeps]

theorem execSnapshotPeriodExpiry_ok (s : State) (h_s : s.Ok) : ∀ x, (execSnapshotPeriodExpiry s) = .next x → x.Ok :=
    by
  unfold execSnapshotPeriodExpiry
  grind [State.Ok, foldl_ok, State.onCore_ok, snapshotPeriod_ok]

theorem execSnapshotPeriodExpiry_keeps {s0 : State} {ps : List Region} (s : State) (h_s : Keeps s0 s ps) (m_age :
    Region.age ∈ ps) : ∀ x, (execSnapshotPeriodExpiry s) = .next x → Keeps s0 x ps := by
  unfold execSnapshotPeriodExpiry
  grind [foldl_keeps', State.onCore_keeps, snapshotPeriod_keeps]

theorem snap_ok (w : Word) (s : State) (h_s : s.Ok) : (snap w s).Ok := by
  unfold snap
  grind [State.Ok, foldl_ok, State.modAge_ok, State.wr_ok]

theorem snap_keeps {s0 : State} {ps : List Region} (w : Word) (s : State) (h_s : Keeps s0 s ps) (m_age : Region.age ∈
    ps) : Keeps s0 (snap w s) ps := by
  unfold snap
  grind [foldl_keeps', State.modAge_keeps, State.wr_keeps]

theorem execSnap_ok (v : Word) (s : State) (h_s : s.Ok) : ∀ x, (execSnap v s) = .next x → x.Ok := by
  unfold execSnap
  grind [State.Ok, foldl_ok, State.emuWrite_ok, snap_ok]

theorem execSnap_keeps {s0 : State} {ps : List Region} (v : Word) (s : State) (h_s : Keeps s0 s ps) (m_mgt :
    Region.mgt ∈ ps) (m_age : Region.age ∈ ps) : ∀ x, (execSnap v s) = .next x → Keeps s0 x ps := by
  unfold execSnap
  grind [foldl_keeps', State.emuWrite_keeps, snap_keeps]

end Sys2Proof.Machine
end

