-- ==== Sys2Proof/Laws/Repair.lean ====
section
/-! SUPPORT. Two lemmas for every operation of Machine/Repair.lean. `…_ok`: the register table and the stack's memory stay
canonical. `…_keeps`: what agrees with a state outside a list of regions that holds those the operation can change still
agrees afterwards. -/

namespace Sys2Proof.Machine

set_option Elab.async false

theorem execCaParityError_ok (p : Fin 64) (group : Fin 4) (s : State) (h_s : s.Ok) : ∀ x, (execCaParityError p group
    s) = .next x → x.Ok := by
  unfold execCaParityError
  grind [State.Ok, foldl_ok, State.caParity_ok, State.onLive_ok]

theorem execCaParityError_keeps {s0 : State} {ps : List Region} (p : Fin 64) (group : Fin 4) (s : State) (h_s : Keeps
    s0 s ps) (m_paths : Region.paths ∈ ps) (m_pcs : Region.pcs ∈ ps) (m_inbox : Region.inbox ∈ ps) (m_ring :
    Region.ring ∈ ps) (m_tags : Region.tags ∈ ps) (m_age : Region.age ∈ ps) (m_inj : Region.inj ∈ ps) : ∀ x,
    (execCaParityError p group s) = .next x → Keeps s0 x ps := by
  unfold execCaParityError
  grind [foldl_keeps', State.caParity_keeps, State.onLive_keeps]

theorem State.askMove_ok (s : State) (rank : Nat) (cause : Nat) (h_s : s.Ok) : (State.askMove s rank cause).Ok := by
  unfold State.askMove
  grind [State.Ok, foldl_ok, State.modAge_ok, State.modRing_ok, State.sendCtl_ok]

theorem State.askMove_keeps {s0 : State} {ps : List Region} (s : State) (rank : Nat) (cause : Nat) (h_s : Keeps s0 s
    ps) (m_ring : Region.ring ∈ ps) (m_age : Region.age ∈ ps) (m_inj : Region.inj ∈ ps) : Keeps s0 (State.askMove s
    rank cause) ps := by
  unfold State.askMove
  grind [foldl_keeps', State.modAge_keeps, State.modRing_keeps, State.sendCtl_keeps]

theorem State.wantMove_ok (s : State) (rank : Nat) (cause : Nat) (h_s : s.Ok) : (State.wantMove s rank cause).Ok := by
  unfold State.wantMove
  grind [State.Ok, foldl_ok, State.modAge_ok, State.askMove_ok]

theorem State.wantMove_keeps {s0 : State} {ps : List Region} (s : State) (rank : Nat) (cause : Nat) (h_s : Keeps s0 s
    ps) (m_ring : Region.ring ∈ ps) (m_age : Region.age ∈ ps) (m_inj : Region.inj ∈ ps) : Keeps s0 (State.wantMove s
    rank cause) ps := by
  unfold State.wantMove
  grind [foldl_keeps', State.modAge_keeps, State.askMove_keeps]

theorem State.takeCause_ok (s : State) (rank : Nat) (cause : Nat) (h_s : s.Ok) : (State.takeCause s rank cause).Ok :=
    by
  simp only [State.takeCause]
  split
  all_goals try split
  all_goals grind [State.Ok, foldl_ok, State.cause_ok, State.iff_ok, State.logRec_ok, State.modAge_ok, State.modInbox_ok,
    State.wantMove_ok]

theorem State.takeCause_keeps {s0 : State} {ps : List Region} (s : State) (rank : Nat) (cause : Nat) (h_s : Keeps s0 s
    ps) (m_paths : Region.paths ∈ ps) (m_pcs : Region.pcs ∈ ps) (m_copiers : Region.copiers ∈ ps) (m_tests :
    Region.tests ∈ ps) (m_inbox : Region.inbox ∈ ps) (m_ring : Region.ring ∈ ps) (m_age : Region.age ∈ ps) (m_inj :
    Region.inj ∈ ps) : Keeps s0 (State.takeCause s rank cause) ps := by
  unfold State.takeCause
  repeat' split
  all_goals grind [foldl_keeps', State.cause_keeps, State.iff_keeps, State.logRec_keeps, State.modAge_keeps,
    State.modInbox_keeps, State.wantMove_keeps]

theorem repairCause_ok (s : State) (h_s : s.Ok) : (repairCause s).Ok := by
  unfold repairCause
  grind [State.Ok, foldl_ok, State.modInbox_ok, State.takeCause_ok]

theorem repairCause_keeps {s0 : State} {ps : List Region} (s : State) (h_s : Keeps s0 s ps) (m_paths : Region.paths ∈
    ps) (m_pcs : Region.pcs ∈ ps) (m_copiers : Region.copiers ∈ ps) (m_tests : Region.tests ∈ ps) (m_inbox :
    Region.inbox ∈ ps) (m_ring : Region.ring ∈ ps) (m_age : Region.age ∈ ps) (m_inj : Region.inj ∈ ps) : Keeps s0
    (repairCause s) ps := by
  unfold repairCause
  grind [foldl_keeps', State.modInbox_keeps, State.takeCause_keeps]

theorem execRepairCause_ok (s : State) (h_s : s.Ok) : ∀ x, (execRepairCause s) = .next x → x.Ok := by
  unfold execRepairCause
  grind [State.Ok, foldl_ok, State.onCore_ok, repairCause_ok]

theorem execRepairCause_keeps {s0 : State} {ps : List Region} (s : State) (h_s : Keeps s0 s ps) (m_paths :
    Region.paths ∈ ps) (m_pcs : Region.pcs ∈ ps) (m_copiers : Region.copiers ∈ ps) (m_tests : Region.tests ∈ ps)
    (m_inbox : Region.inbox ∈ ps) (m_ring : Region.ring ∈ ps) (m_age : Region.age ∈ ps) (m_inj : Region.inj ∈ ps) : ∀
    x, (execRepairCause s) = .next x → Keeps s0 x ps := by
  unfold execRepairCause
  grind [foldl_keeps', State.onCore_keeps, repairCause_keeps]

theorem State.approve_ok (s : State) (others : Nat) (given : List Nat) (inst : Nat) (rank : Nat) (cause : Nat) (h_s :
    s.Ok) : (State.approve s others given inst rank cause).2.Ok := by
  unfold State.approve
  grind [State.Ok, foldl_ok, State.cause_ok, State.logRec_ok, State.modPkg_ok, State.modRing_ok, State.sendCtl_ok]

theorem State.approve_keeps {s0 : State} {ps : List Region} (s : State) (others : Nat) (given : List Nat) (inst : Nat)
    (rank : Nat) (cause : Nat) (h_s : Keeps s0 s ps) (m_inbox : Region.inbox ∈ ps) (m_ring : Region.ring ∈ ps) (m_pkg
    : Region.pkg ∈ ps) (m_inj : Region.inj ∈ ps) : Keeps s0 (State.approve s others given inst rank cause).2 ps := by
  unfold State.approve
  grind [foldl_keeps', State.cause_keeps, State.logRec_keeps, State.modPkg_keeps, State.modRing_keeps,
    State.sendCtl_keeps]

theorem State.approveAll_ok (s : State) (others : Nat) (u0 : List (Nat × Nat × Nat)) (u1 : List Nat) (h_s : s.Ok) :
    (State.approveAll s others u0 u1).Ok := by
  induction u0 generalizing u1 s with
  | nil => unfold State.approveAll; grind [State.Ok, foldl_ok, State.approve_ok, State.cause_ok]
  | cons x l ih => unfold State.approveAll; grind [State.Ok, foldl_ok, State.approve_ok, State.cause_ok]

theorem State.approveAll_keeps {s0 : State} {ps : List Region} (s : State) (others : Nat) (u0 : List (Nat × Nat ×
    Nat)) (u1 : List Nat) (h_s : Keeps s0 s ps) (m_inbox : Region.inbox ∈ ps) (m_ring : Region.ring ∈ ps) (m_pkg :
    Region.pkg ∈ ps) (m_inj : Region.inj ∈ ps) : Keeps s0 (State.approveAll s others u0 u1) ps := by
  induction u0 generalizing u1 s with
  | nil => unfold State.approveAll; grind [foldl_keeps', State.approve_keeps, State.cause_keeps]
  | cons x l ih => unfold State.approveAll; grind [foldl_keeps', State.approve_keeps, State.cause_keeps]

theorem moveApproval_ok (others : BitVec 8) (s : State) (h_s : s.Ok) : (moveApproval others s).Ok := by
  unfold moveApproval
  grind [State.Ok, foldl_ok, State.approveAll_ok, State.modPkg_ok, State.modRing_ok]

theorem moveApproval_keeps {s0 : State} {ps : List Region} (others : BitVec 8) (s : State) (h_s : Keeps s0 s ps)
    (m_inbox : Region.inbox ∈ ps) (m_ring : Region.ring ∈ ps) (m_pkg : Region.pkg ∈ ps) (m_inj : Region.inj ∈ ps) :
    Keeps s0 (moveApproval others s) ps := by
  unfold moveApproval
  grind [foldl_keeps', State.approveAll_keeps, State.modPkg_keeps, State.modRing_keeps]

theorem execMoveApproval_ok (others : BitVec 8) (s : State) (h_s : s.Ok) : ∀ x, (execMoveApproval others s) = .next x
    → x.Ok := by
  unfold execMoveApproval
  grind [State.Ok, foldl_ok, State.onCore_ok, moveApproval_ok]

theorem execMoveApproval_keeps {s0 : State} {ps : List Region} (others : BitVec 8) (s : State) (h_s : Keeps s0 s ps)
    (m_inbox : Region.inbox ∈ ps) (m_ring : Region.ring ∈ ps) (m_pkg : Region.pkg ∈ ps) (m_inj : Region.inj ∈ ps) : ∀
    x, (execMoveApproval others s) = .next x → Keeps s0 x ps := by
  unfold execMoveApproval
  grind [foldl_keeps', State.onCore_keeps, moveApproval_keeps]

theorem State.pickTarget_ok (s : State) (src : Nat) (h_s : s.Ok) : ∀ a b, (State.pickTarget s src) = some (a, b) →
    b.Ok := by
  intro a b hx
  simp only [State.pickTarget] at hx
  split at hx
  · grind
  · obtain ⟨r, -, hr⟩ := Option.map_eq_some_iff.mp hx
    grind [State.endTest_ok]

theorem State.pickTarget_keeps {s0 : State} {ps : List Region} (s : State) (src : Nat) (h_s : Keeps s0 s ps) (m_tests
    : Region.tests ∈ ps) : ∀ a b, (State.pickTarget s src) = some (a, b) → Keeps s0 b ps := by
  intro a b hx
  simp only [State.pickTarget] at hx
  split at hx
  · grind
  · obtain ⟨r, -, hr⟩ := Option.map_eq_some_iff.mp hx
    grind [State.endTest_keeps]

theorem State.exhausted_ok (s : State) (rank : Nat) (h_s : s.Ok) : (State.exhausted s rank).Ok := by
  unfold State.exhausted
  grind [State.Ok, foldl_ok, State.logRec_ok, State.raise_ok, State.setRank_ok]

theorem State.exhausted_keeps {s0 : State} {ps : List Region} (s : State) (rank : Nat) (h_s : Keeps s0 s ps) (m_inbox
    : Region.inbox ∈ ps) : Keeps s0 (State.exhausted s rank) ps := by
  unfold State.exhausted
  grind [foldl_keeps', State.logRec_keeps, State.raise_keeps, State.setRank_keeps]

theorem State.enterCopying_ok (s : State) (e : Nat) (h_s : s.Ok) : (State.enterCopying s e).Ok := by
  unfold State.enterCopying
  grind [State.Ok, foldl_ok, State.modCopier_ok, State.setRedir_ok, State.repairEvent_ok, State.logRec_ok,
      State.raise_ok]

theorem State.enterCopying_keeps {s0 : State} {ps : List Region} (s : State) (e : Nat) (h_s : Keeps s0 s ps)
    (m_copiers : Region.copiers ∈ ps) (m_inbox : Region.inbox ∈ ps) (m_age : Region.age ∈ ps) : Keeps s0
    (State.enterCopying s e) ps := by
  unfold State.enterCopying
  grind [foldl_keeps', State.modCopier_keeps, State.setRedir_keeps, State.repairEvent_keeps, State.logRec_keeps,
      State.raise_keeps]

theorem State.startMove_ok (s : State) (rank : Nat) (cause : Nat) (h_s : s.Ok) : (State.startMove s rank cause).Ok :=
    by
  unfold State.startMove
  repeat' split
  all_goals grind [State.Ok, State.modAge_ok, State.pickTarget_ok, State.exhausted_ok, State.enterCopying_ok,
      State.setRank_ok, State.setRedir_ok, foldl_ok]

theorem State.startMove_keeps {s0 : State} {ps : List Region} (s : State) (rank : Nat) (cause : Nat) (h_s : Keeps s0 s
    ps) (m_copiers : Region.copiers ∈ ps) (m_tests : Region.tests ∈ ps) (m_inbox : Region.inbox ∈ ps) (m_age :
    Region.age ∈ ps) : Keeps s0 (State.startMove s rank cause) ps := by
  unfold State.startMove
  repeat' split
  all_goals grind [foldl_keeps', State.modAge_keeps, State.pickTarget_keeps, State.exhausted_keeps,
      State.enterCopying_keeps, State.setRank_keeps, State.setRedir_keeps]

theorem State.takeAnswers_ok (s : State) (h_s : s.Ok) : (State.takeAnswers s).Ok := by
  unfold State.takeAnswers
  grind [State.Ok, foldl_ok, State.modAge_ok, State.modRing_ok]

theorem State.takeAnswers_keeps {s0 : State} {ps : List Region} (s : State) (h_s : Keeps s0 s ps) (m_ring :
    Region.ring ∈ ps) (m_age : Region.age ∈ ps) : Keeps s0 (State.takeAnswers s) ps := by
  unfold State.takeAnswers
  grind [foldl_keeps', State.modAge_keeps, State.modRing_keeps]

theorem moveStart_ok (s : State) (h_s : s.Ok) : (moveStart s).Ok := by
  unfold moveStart
  grind [State.Ok, foldl_ok, State.takeAnswers_ok, State.modAge_ok, State.startMove_ok, State.enterCopying_ok]

theorem moveStart_keeps {s0 : State} {ps : List Region} (s : State) (h_s : Keeps s0 s ps) (m_copiers : Region.copiers
    ∈ ps) (m_tests : Region.tests ∈ ps) (m_inbox : Region.inbox ∈ ps) (m_ring : Region.ring ∈ ps) (m_age : Region.age
    ∈ ps) : Keeps s0 (moveStart s) ps := by
  unfold moveStart
  grind [foldl_keeps', State.takeAnswers_keeps, State.modAge_keeps, State.startMove_keeps, State.enterCopying_keeps]

theorem execMoveStart_ok (s : State) (h_s : s.Ok) : ∀ x, (execMoveStart s) = .next x → x.Ok := by
  unfold execMoveStart
  grind [State.Ok, foldl_ok, State.onCore_ok, moveStart_ok]

theorem execMoveStart_keeps {s0 : State} {ps : List Region} (s : State) (h_s : Keeps s0 s ps) (m_copiers :
    Region.copiers ∈ ps) (m_tests : Region.tests ∈ ps) (m_inbox : Region.inbox ∈ ps) (m_ring : Region.ring ∈ ps)
    (m_age : Region.age ∈ ps) : ∀ x, (execMoveStart s) = .next x → Keeps s0 x ps := by
  unfold execMoveStart
  grind [foldl_keeps', State.onCore_keeps, moveStart_keeps]

theorem State.collect_ok (s : State) (e : Fin 16) (h_s : s.Ok) : (State.collect s e).Ok := by
  unfold State.collect
  grind [State.Ok, foldl_ok, State.modCopier_ok, State.modPaths_ok]

theorem State.collect_keeps {s0 : State} {ps : List Region} (s : State) (e : Fin 16) (h_s : Keeps s0 s ps) (m_paths :
    Region.paths ∈ ps) (m_copiers : Region.copiers ∈ ps) : Keeps s0 (State.collect s e) ps := by
  unfold State.collect
  grind [foldl_keeps', State.modCopier_keeps, State.modPaths_keeps]

theorem copierRun_ok (e : Fin 16) (s : State) (h_s : s.Ok) : (copierRun e s).Ok := by
  unfold copierRun
  grind [State.Ok, foldl_ok, State.collect_ok, State.modCopier_ok, State.submitRun_ok]

theorem copierRun_keeps {s0 : State} {ps : List Region} (e : Fin 16) (s : State) (h_s : Keeps s0 s ps) (m_paths :
    Region.paths ∈ ps) (m_pcs : Region.pcs ∈ ps) (m_copiers : Region.copiers ∈ ps) : Keeps s0 (copierRun e s) ps := by
  unfold copierRun
  grind [foldl_keeps', State.collect_keeps, State.modCopier_keeps, State.submitRun_keeps]

theorem execCopierRun_ok (e : Fin 16) (s : State) (h_s : s.Ok) : ∀ x, (execCopierRun e s) = .next x → x.Ok := by
  unfold execCopierRun
  grind [State.Ok, foldl_ok, State.onLive_ok, copierRun_ok]

theorem execCopierRun_keeps {s0 : State} {ps : List Region} (e : Fin 16) (s : State) (h_s : Keeps s0 s ps) (m_paths :
    Region.paths ∈ ps) (m_pcs : Region.pcs ∈ ps) (m_copiers : Region.copiers ∈ ps) : ∀ x, (execCopierRun e s) = .next
    x → Keeps s0 x ps := by
  unfold execCopierRun
  grind [foldl_keeps', State.onLive_keeps, copierRun_keeps]

theorem wmAdvance_ok (e : Fin 16) (s : State) (h_s : s.Ok) : (wmAdvance e s).Ok := by
  unfold wmAdvance
  grind [State.Ok, foldl_ok, State.modCopier_ok, State.setRedir_ok]

theorem wmAdvance_keeps {s0 : State} {ps : List Region} (e : Fin 16) (s : State) (h_s : Keeps s0 s ps) (m_copiers :
    Region.copiers ∈ ps) : Keeps s0 (wmAdvance e s) ps := by
  unfold wmAdvance
  grind [foldl_keeps', State.modCopier_keeps, State.setRedir_keeps]

theorem execWmAdvance_ok (e : Fin 16) (s : State) (h_s : s.Ok) : ∀ x, (execWmAdvance e s) = .next x → x.Ok := by
  unfold execWmAdvance
  grind [State.Ok, foldl_ok, State.onLive_ok, wmAdvance_ok]

theorem execWmAdvance_keeps {s0 : State} {ps : List Region} (e : Fin 16) (s : State) (h_s : Keeps s0 s ps) (m_copiers
    : Region.copiers ∈ ps) : ∀ x, (execWmAdvance e s) = .next x → Keeps s0 x ps := by
  unfold execWmAdvance
  grind [foldl_keeps', State.onLive_keeps, wmAdvance_keeps]

theorem moveBind_ok (e : Fin 16) (s : State) (h_s : s.Ok) : (moveBind e s).Ok := by
  unfold moveBind
  grind [State.Ok, foldl_ok, State.setRank_ok, State.setRedir_ok, State.modPc_ok, State.repairEvent_ok,
      State.logRec_ok, State.raise_ok, State.modAge_ok, State.wantMove_ok]

theorem moveBind_keeps {s0 : State} {ps : List Region} (e : Fin 16) (s : State) (h_s : Keeps s0 s ps) (m_pcs :
    Region.pcs ∈ ps) (m_inbox : Region.inbox ∈ ps) (m_ring : Region.ring ∈ ps) (m_age : Region.age ∈ ps) (m_inj :
    Region.inj ∈ ps) : Keeps s0 (moveBind e s) ps := by
  unfold moveBind
  dsimp only
  repeat' first
      | with_reducible assumption
      | with_reducible apply ite_keeps
      | with_reducible refine foldl_keeps' (fun _ _ _ => ?_) _ ?_
      | with_reducible apply State.setRank_keeps
      | with_reducible apply State.setRedir_keeps
      | with_reducible apply State.modPc_keeps
      | with_reducible apply State.repairEvent_keeps
      | with_reducible apply State.logRec_keeps
      | with_reducible apply State.raise_keeps
      | with_reducible apply State.modAge_keeps
      | with_reducible apply State.wantMove_keeps
      | split

theorem execMoveBind_ok (e : Fin 16) (s : State) (h_s : s.Ok) : ∀ x, (execMoveBind e s) = .next x → x.Ok := by
  unfold execMoveBind
  grind [State.Ok, foldl_ok, State.onCore_ok, moveBind_ok]

theorem execMoveBind_keeps {s0 : State} {ps : List Region} (e : Fin 16) (s : State) (h_s : Keeps s0 s ps) (m_pcs :
    Region.pcs ∈ ps) (m_inbox : Region.inbox ∈ ps) (m_ring : Region.ring ∈ ps) (m_age : Region.age ∈ ps) (m_inj :
    Region.inj ∈ ps) : ∀ x, (execMoveBind e s) = .next x → Keeps s0 x ps := by
  unfold execMoveBind
  grind [foldl_keeps', State.onCore_keeps, moveBind_keeps]

theorem State.dropCopy_ok (s : State) (e : Fin 16) (h_s : s.Ok) : (State.dropCopy s e).Ok := by
  unfold State.dropCopy
  grind [State.Ok, foldl_ok, State.modPc_ok, State.modPaths_ok, State.modCopier_ok]

theorem State.dropCopy_keeps {s0 : State} {ps : List Region} (s : State) (e : Fin 16) (h_s : Keeps s0 s ps) (m_paths :
    Region.paths ∈ ps) (m_pcs : Region.pcs ∈ ps) (m_copiers : Region.copiers ∈ ps) : Keeps s0 (State.dropCopy s e) ps
    := by
  unfold State.dropCopy
  grind [foldl_keeps', State.modPc_keeps, State.modPaths_keeps, State.modCopier_keeps]

theorem State.requeue_ok (s : State) (e : Fin 16) (h_s : s.Ok) : (State.requeue s e).Ok := by
  unfold State.requeue
  repeat' split
  all_goals grind [State.Ok, State.setRank_ok, State.dropCopy_ok, State.modAge_ok, State.pickTarget_ok,
      State.setRedir_ok, State.exhausted_ok, foldl_ok]

theorem State.requeue_keeps {s0 : State} {ps : List Region} (s : State) (e : Fin 16) (h_s : Keeps s0 s ps) (m_paths :
    Region.paths ∈ ps) (m_pcs : Region.pcs ∈ ps) (m_copiers : Region.copiers ∈ ps) (m_tests : Region.tests ∈ ps)
    (m_inbox : Region.inbox ∈ ps) (m_age : Region.age ∈ ps) : Keeps s0 (State.requeue s e) ps := by
  have hp : Keeps s0 (((s.dropCopy e).setRank (s.redir ↑e).dst 8).modAge fun a =>
      { a with recorded := a.recorded.filter (· ≠ e.val), later := a.later.filter fun x => x.1 ≠ (s.redir ↑e).dst })
          ps := by
    apply State.modAge_keeps
    · apply State.setRank_keeps
      apply State.dropCopy_keeps <;> assumption
    · assumption
  unfold State.requeue
  extract_lets r t1 t2
  split
  · rename_i tgt u heq
    exact State.setRank_keeps _ _ _ (State.setRedir_keeps _ _ _ (State.pickTarget_keeps _ _ hp m_tests _ _ heq))
  · apply State.exhausted_keeps <;> first
      | with_reducible assumption
      | exact State.setRedir_keeps _ _ _ hp

theorem unlace_ok (s : State) (h_s : s.Ok) : (unlace s).Ok := by
  unfold unlace
  grind [State.Ok, foldl_ok, State.modInbox_ok, State.wr64_ok, State.repairEvent_ok, State.logRec_ok, State.raise_ok,
      State.setRank_ok, State.endTest_ok, State.requeue_ok, State.modAge_ok]

theorem unlace_keeps {s0 : State} {ps : List Region} (s : State) (h_s : Keeps s0 s ps) (m_paths : Region.paths ∈ ps)
    (m_pcs : Region.pcs ∈ ps) (m_copiers : Region.copiers ∈ ps) (m_tests : Region.tests ∈ ps) (m_inbox : Region.inbox
    ∈ ps) (m_age : Region.age ∈ ps) : Keeps s0 (unlace s) ps := by
  unfold unlace
  dsimp only
  repeat' first
      | with_reducible assumption
      | with_reducible apply ite_keeps
      | with_reducible refine foldl_keeps' (fun _ _ _ => ?_) _ ?_
      | with_reducible apply State.modInbox_keeps
      | with_reducible apply State.wr64_keeps
      | with_reducible apply State.repairEvent_keeps
      | with_reducible apply State.logRec_keeps
      | with_reducible apply State.raise_keeps
      | with_reducible apply State.setRank_keeps
      | with_reducible apply State.endTest_keeps
      | with_reducible apply State.requeue_keeps
      | with_reducible apply State.modAge_keeps
      | split

theorem execUnlace_ok (s : State) (h_s : s.Ok) : ∀ x, (execUnlace s) = .next x → x.Ok := by
  unfold execUnlace
  grind [State.Ok, foldl_ok, State.onCore_ok, unlace_ok]

theorem execUnlace_keeps {s0 : State} {ps : List Region} (s : State) (h_s : Keeps s0 s ps) (m_paths : Region.paths ∈
    ps) (m_pcs : Region.pcs ∈ ps) (m_copiers : Region.copiers ∈ ps) (m_tests : Region.tests ∈ ps) (m_inbox :
    Region.inbox ∈ ps) (m_age : Region.age ∈ ps) : ∀ x, (execUnlace s) = .next x → Keeps s0 x ps := by
  unfold execUnlace
  grind [foldl_keeps', State.onCore_keeps, unlace_keeps]

theorem unlaceComplete_ok (p : Fin 64) (s : State) (h_s : s.Ok) : (unlaceComplete p s).Ok := by
  unfold unlaceComplete
  grind [State.Ok, foldl_ok, State.wr64_ok, State.logRec_ok, State.raise_ok, State.modPwr_ok, State.fwDom_ok]

theorem unlaceComplete_keeps {s0 : State} {ps : List Region} (p : Fin 64) (s : State) (h_s : Keeps s0 s ps) (m_pwr :
    Region.pwr ∈ ps) (m_inbox : Region.inbox ∈ ps) (m_fw : Region.fw ∈ ps) : Keeps s0 (unlaceComplete p s) ps := by
  unfold unlaceComplete
  grind [foldl_keeps', State.wr64_keeps, State.logRec_keeps, State.raise_keeps, State.modPwr_keeps, State.fwDom_keeps]

theorem execUnlaceComplete_ok (p : Fin 64) (s : State) (h_s : s.Ok) : ∀ x, (execUnlaceComplete p s) = .next x → x.Ok
    := by
  unfold execUnlaceComplete
  grind [State.Ok, foldl_ok, State.onCore_ok, unlaceComplete_ok]

theorem execUnlaceComplete_keeps {s0 : State} {ps : List Region} (p : Fin 64) (s : State) (h_s : Keeps s0 s ps) (m_pwr
    : Region.pwr ∈ ps) (m_inbox : Region.inbox ∈ ps) (m_fw : Region.fw ∈ ps) : ∀ x, (execUnlaceComplete p s) = .next x
    → Keeps s0 x ps := by
  unfold execUnlaceComplete
  grind [foldl_keeps', State.onCore_keeps, unlaceComplete_keeps]

theorem State.sliceFails_ok (s : State) (sl : Fin 16) (cond : Nat) (h_s : s.Ok) : (State.sliceFails s sl cond).Ok :=
    by
  unfold State.sliceFails
  grind [State.Ok, foldl_ok, State.fec_ok, State.logRec_ok, State.modPwr_ok, State.raise_ok, sliceFence_ok]

theorem State.sliceFails_keeps {s0 : State} {ps : List Region} (s : State) (sl : Fin 16) (cond : Nat) (h_s : Keeps s0
    s ps) (m_pwr : Region.pwr ∈ ps) (m_paths : Region.paths ∈ ps) (m_inbox : Region.inbox ∈ ps) (m_sched :
    Region.sched ∈ ps) : Keeps s0 (State.sliceFails s sl cond) ps := by
  unfold State.sliceFails
  grind [foldl_keeps', State.fec_keeps, State.logRec_keeps, State.modPwr_keeps, State.raise_keeps, sliceFence_keeps]

theorem State.silent_ok (s : State) (sl : Fin 16) (cond : Nat) (h_s : s.Ok) : (State.silent s sl cond).Ok := by
  unfold State.silent
  grind [State.Ok, foldl_ok, State.modSlice_ok]

theorem State.silent_keeps {s0 : State} {ps : List Region} (s : State) (sl : Fin 16) (cond : Nat) (h_s : Keeps s0 s
    ps) (m_paths : Region.paths ∈ ps) : Keeps s0 (State.silent s sl cond) ps := by
  unfold State.silent
  grind [foldl_keeps', State.modSlice_keeps]

theorem State.dataError_ok (s : State) (sl : Fin 16) (addr : Nat) (h_s : s.Ok) : (State.dataError s sl addr).Ok := by
  unfold State.dataError
  grind [State.Ok, foldl_ok, State.fec_ok, State.modSlice_ok]

theorem State.dataError_keeps {s0 : State} {ps : List Region} (s : State) (sl : Fin 16) (addr : Nat) (h_s : Keeps s0 s
    ps) (m_paths : Region.paths ∈ ps) : Keeps s0 (State.dataError s sl addr) ps := by
  unfold State.dataError
  grind [foldl_keeps', State.fec_keeps, State.modSlice_keeps]

theorem execSliceFail_ok (sl : Fin 16) (cond : Fin 4) (addr : BitVec 52) (s : State) (h_s : s.Ok) : ∀ x,
    (execSliceFail sl cond addr s) = .next x → x.Ok := by
  unfold execSliceFail
  grind [State.Ok, foldl_ok, State.dataError_ok, State.onLive_ok, State.silent_ok, State.sliceFails_ok, State.when_ok]

theorem execSliceFail_keeps {s0 : State} {ps : List Region} (sl : Fin 16) (cond : Fin 4) (addr : BitVec 52) (s :
    State) (h_s : Keeps s0 s ps) (m_pwr : Region.pwr ∈ ps) (m_paths : Region.paths ∈ ps) (m_inbox : Region.inbox ∈ ps)
    (m_sched : Region.sched ∈ ps) : ∀ x, (execSliceFail sl cond addr s) = .next x → Keeps s0 x ps := by
  unfold execSliceFail
  grind [foldl_keeps', State.dataError_keeps, State.onLive_keeps, State.silent_keeps, State.sliceFails_keeps,
    State.when_keeps]

theorem State.instanceFails_ok (s : State) (crossbar : Bool) (h_s : s.Ok) : (State.instanceFails s crossbar).Ok := by
  unfold State.instanceFails
  grind [State.Ok, foldl_ok, State.raise_ok, State.modPwr_ok, State.logRec_ok, State.complete_ok, State.modPaths_ok]

theorem State.instanceFails_keeps {s0 : State} {ps : List Region} (s : State) (crossbar : Bool) (h_s : Keeps s0 s ps)
    (m_pwr : Region.pwr ∈ ps) (m_paths : Region.paths ∈ ps) (m_inbox : Region.inbox ∈ ps) (m_ring : Region.ring ∈ ps)
    (m_tags : Region.tags ∈ ps) (m_inj : Region.inj ∈ ps) : Keeps s0 (State.instanceFails s crossbar) ps := by
  unfold State.instanceFails
  grind [foldl_keeps', State.raise_keeps, State.modPwr_keeps, State.logRec_keeps, State.complete_keeps,
      State.modPaths_keeps]

theorem execInstanceFail_ok (crossbar : Bool) (s : State) (h_s : s.Ok) : ∀ x, (execInstanceFail crossbar s) = .next x
    → x.Ok := by
  unfold execInstanceFail
  grind [State.Ok, foldl_ok, State.onCore_ok, State.instanceFails_ok]

theorem execInstanceFail_keeps {s0 : State} {ps : List Region} (crossbar : Bool) (s : State) (h_s : Keeps s0 s ps)
    (m_pwr : Region.pwr ∈ ps) (m_paths : Region.paths ∈ ps) (m_inbox : Region.inbox ∈ ps) (m_ring : Region.ring ∈ ps)
    (m_tags : Region.tags ∈ ps) (m_inj : Region.inj ∈ ps) : ∀ x, (execInstanceFail crossbar s) = .next x → Keeps s0 x
    ps := by
  unfold execInstanceFail
  grind [foldl_keeps', State.onCore_keeps, State.instanceFails_keeps]

theorem parityInjection_ok (v : Word) (s : State) (h_s : s.Ok) : (parityInjection v s).Ok := by
  unfold parityInjection
  grind [State.Ok, foldl_ok, State.wr_ok]

theorem parityInjection_keeps {s0 : State} {ps : List Region} (v : Word) (s : State) (h_s : Keeps s0 s ps) : Keeps s0
    (parityInjection v s) ps := by
  unfold parityInjection
  grind [foldl_keeps', State.wr_keeps]

theorem execParityInjection_ok (v : Word) (s : State) (h_s : s.Ok) : ∀ x, (execParityInjection v s) = .next x → x.Ok
    := by
  unfold execParityInjection
  grind [State.Ok, foldl_ok, State.mgtWrite_ok, parityInjection_ok]

theorem execParityInjection_keeps {s0 : State} {ps : List Region} (v : Word) (s : State) (h_s : Keeps s0 s ps) (m_mgt
    : Region.mgt ∈ ps) : ∀ x, (execParityInjection v s) = .next x → Keeps s0 x ps := by
  unfold execParityInjection
  grind [foldl_keeps', State.mgtWrite_keeps, parityInjection_keeps]

theorem d2dInjection_ok (east : Bool) (v : Word) (s : State) (h_s : s.Ok) : (d2dInjection east v s).Ok := by
  unfold d2dInjection
  grind [State.Ok, foldl_ok, State.wr_ok, State.sf_ok, State.raiseIf_ok]

theorem d2dInjection_keeps {s0 : State} {ps : List Region} (east : Bool) (v : Word) (s : State) (h_s : Keeps s0 s ps)
    : Keeps s0 (d2dInjection east v s) ps := by
  unfold d2dInjection
  grind [foldl_keeps', State.wr_keeps, State.sf_keeps, State.raiseIf_keeps]

theorem execD2dInjection_ok (east : Bool) (v : Word) (s : State) (h_s : s.Ok) : ∀ x, (execD2dInjection east v s) =
    .next x → x.Ok := by
  unfold execD2dInjection
  grind [State.Ok, foldl_ok, State.mgtWrite_ok, d2dInjection_ok]

theorem execD2dInjection_keeps {s0 : State} {ps : List Region} (east : Bool) (v : Word) (s : State) (h_s : Keeps s0 s
    ps) (m_mgt : Region.mgt ∈ ps) : ∀ x, (execD2dInjection east v s) = .next x → Keeps s0 x ps := by
  unfold execD2dInjection
  grind [foldl_keeps', State.mgtWrite_keeps, d2dInjection_keeps]

theorem remoteInjection_ok (n : Fin 8) (v : Word) (s : State) (h_s : s.Ok) : (remoteInjection n v s).Ok := by
  unfold remoteInjection
  grind [State.Ok, foldl_ok, State.wr_ok, State.sf_ok, State.raiseIf_ok]

theorem remoteInjection_keeps {s0 : State} {ps : List Region} (n : Fin 8) (v : Word) (s : State) (h_s : Keeps s0 s ps)
    : Keeps s0 (remoteInjection n v s) ps := by
  unfold remoteInjection
  grind [foldl_keeps', State.wr_keeps, State.sf_keeps, State.raiseIf_keeps]

theorem execRemoteInjection_ok (n : Fin 8) (v : Word) (s : State) (h_s : s.Ok) : ∀ x, (execRemoteInjection n v s) =
    .next x → x.Ok := by
  unfold execRemoteInjection
  grind [State.Ok, foldl_ok, State.mgtWrite_ok, remoteInjection_ok]

theorem execRemoteInjection_keeps {s0 : State} {ps : List Region} (n : Fin 8) (v : Word) (s : State) (h_s : Keeps s0 s
    ps) (m_mgt : Region.mgt ∈ ps) : ∀ x, (execRemoteInjection n v s) = .next x → Keeps s0 x ps := by
  unfold execRemoteInjection
  grind [foldl_keeps', State.mgtWrite_keeps, remoteInjection_keeps]

end Sys2Proof.Machine
end

