-- ==== Sys2Proof/Laws/Firmware.lean ====
section
/-! SUPPORT. Two lemmas for every operation of Machine/Firmware.lean. `…_ok`: the register table and the stack's memory stay
canonical. `…_keeps`: what agrees with a state outside a list of regions that holds those the operation can change still
agrees afterwards. -/

namespace Sys2Proof.Machine

set_option Elab.async false

theorem State.setFw_ok (s : State) (n : Nat) (h_s : s.Ok) : (State.setFw s n).Ok := by
  unfold State.setFw
  grind [State.Ok, foldl_ok, State.sf_ok]

theorem State.setFw_keeps {s0 : State} {ps : List Region} (s : State) (n : Nat) (h_s : Keeps s0 s ps) : Keeps s0
    (State.setFw s n) ps := by
  unfold State.setFw
  grind [foldl_keeps', State.sf_keeps]

theorem State.modCore_ok (s : State) (k : Fin 4) (f : FwCore → FwCore) (h_s : s.Ok) : (State.modCore s k f).Ok := by
  unfold State.modCore
  grind [State.Ok, foldl_ok, State.modFw_ok]

theorem State.modCore_keeps {s0 : State} {ps : List Region} (s : State) (k : Fin 4) (f : FwCore → FwCore) (h_s : Keeps
    s0 s ps) (m_fw : Region.fw ∈ ps) : Keeps s0 (State.modCore s k f) ps := by
  unfold State.modCore
  grind [foldl_keeps', State.modFw_keeps]

theorem State.modCores_ok (s : State) (f : FwCore → FwCore) (h_s : s.Ok) : (State.modCores s f).Ok := by
  unfold State.modCores
  grind [State.Ok, foldl_ok, State.modFw_ok]

theorem State.modCores_keeps {s0 : State} {ps : List Region} (s : State) (f : FwCore → FwCore) (h_s : Keeps s0 s ps)
    (m_fw : Region.fw ∈ ps) : Keeps s0 (State.modCores s f) ps := by
  unfold State.modCores
  grind [foldl_keeps', State.modFw_keeps]

theorem State.startCore_ok (s : State) (k : Fin 4) (pc : Nat) (h_s : s.Ok) : (State.startCore s k pc).Ok := by
  unfold State.startCore
  grind [State.Ok, foldl_ok, State.modCore_ok]

theorem State.startCore_keeps {s0 : State} {ps : List Region} (s : State) (k : Fin 4) (pc : Nat) (h_s : Keeps s0 s ps)
    (m_fw : Region.fw ∈ ps) : Keeps s0 (State.startCore s k pc) ps := by
  unfold State.startCore
  grind [foldl_keeps', State.modCore_keeps]

theorem fwLoadStart_ok (s : State) (h_s : s.Ok) : (fwLoadStart s).Ok := by
  unfold fwLoadStart
  grind [State.Ok, foldl_ok, State.sf_ok, State.setFw_ok, State.modFw_ok, State.modCores_ok, State.raise_ok]

theorem fwLoadStart_keeps {s0 : State} {ps : List Region} (s : State) (h_s : Keeps s0 s ps) (m_fw : Region.fw ∈ ps) :
    Keeps s0 (fwLoadStart s) ps := by
  unfold fwLoadStart
  grind [foldl_keeps', State.sf_keeps, State.setFw_keeps, State.modFw_keeps, State.modCores_keeps, State.raise_keeps]

theorem execFwLoadStart_ok (s : State) (h_s : s.Ok) : ∀ x, (execFwLoadStart s) = .next x → x.Ok := by
  unfold execFwLoadStart
  grind [State.Ok, foldl_ok, State.mgtWrite_ok, fwLoadStart_ok]

theorem execFwLoadStart_keeps {s0 : State} {ps : List Region} (s : State) (h_s : Keeps s0 s ps) (m_mgt : Region.mgt ∈
    ps) (m_fw : Region.fw ∈ ps) : ∀ x, (execFwLoadStart s) = .next x → Keeps s0 x ps := by
  unfold execFwLoadStart
  grind [foldl_keeps', State.mgtWrite_keeps, fwLoadStart_keeps]

theorem fwLoadData_ok (v : Word) (s : State) (h_s : s.Ok) : (fwLoadData v s).Ok := by
  unfold fwLoadData
  grind [State.Ok, foldl_ok, State.modFw_ok, State.modCore_ok, State.sf_ok, State.raise_ok]

theorem fwLoadData_keeps {s0 : State} {ps : List Region} (v : Word) (s : State) (h_s : Keeps s0 s ps) (m_fw :
    Region.fw ∈ ps) : Keeps s0 (fwLoadData v s) ps := by
  unfold fwLoadData
  grind [foldl_keeps', State.modFw_keeps, State.modCore_keeps, State.sf_keeps, State.raise_keeps]

theorem execFwLoadData_ok (v : Word) (s : State) (h_s : s.Ok) : ∀ x, (execFwLoadData v s) = .next x → x.Ok := by
  unfold execFwLoadData
  grind [State.Ok, foldl_ok, State.mgtWrite_ok, fwLoadData_ok]

theorem execFwLoadData_keeps {s0 : State} {ps : List Region} (v : Word) (s : State) (h_s : Keeps s0 s ps) (m_mgt :
    Region.mgt ∈ ps) (m_fw : Region.fw ∈ ps) : ∀ x, (execFwLoadData v s) = .next x → Keeps s0 x ps := by
  unfold execFwLoadData
  grind [foldl_keeps', State.mgtWrite_keeps, fwLoadData_keeps]

theorem fwLoadCommit_ok (s : State) (h_s : s.Ok) : (fwLoadCommit s).Ok := by
  unfold fwLoadCommit
  grind [State.Ok, foldl_ok, State.modFw_ok, State.raise_ok]

theorem fwLoadCommit_keeps {s0 : State} {ps : List Region} (s : State) (h_s : Keeps s0 s ps) (m_fw : Region.fw ∈ ps) :
    Keeps s0 (fwLoadCommit s) ps := by
  unfold fwLoadCommit
  grind [foldl_keeps', State.modFw_keeps, State.raise_keeps]

theorem execFwLoadCommit_ok (s : State) (h_s : s.Ok) : ∀ x, (execFwLoadCommit s) = .next x → x.Ok := by
  unfold execFwLoadCommit
  grind [State.Ok, foldl_ok, State.mgtWrite_ok, fwLoadCommit_ok]

theorem execFwLoadCommit_keeps {s0 : State} {ps : List Region} (s : State) (h_s : Keeps s0 s ps) (m_mgt : Region.mgt ∈
    ps) (m_fw : Region.fw ∈ ps) : ∀ x, (execFwLoadCommit s) = .next x → Keeps s0 x ps := by
  unfold execFwLoadCommit
  grind [foldl_keeps', State.mgtWrite_keeps, fwLoadCommit_keeps]

theorem authDone_ok (s : State) (h_s : s.Ok) : (authDone s).Ok := by
  unfold authDone
  grind [State.Ok, foldl_ok, State.sf_ok, State.modFw_ok, State.startCore_ok, State.modCore_ok, State.wr64_ok,
      State.setFw_ok, State.wr_ok, State.modCores_ok]

theorem authDone_keeps {s0 : State} {ps : List Region} (s : State) (h_s : Keeps s0 s ps) (m_fw : Region.fw ∈ ps) :
    Keeps s0 (authDone s) ps := by
  unfold authDone
  grind [foldl_keeps', State.sf_keeps, State.modFw_keeps, State.startCore_keeps, State.modCore_keeps,
      State.wr64_keeps, State.setFw_keeps, State.wr_keeps, State.modCores_keeps]

theorem execAuthenticationDone_ok (s : State) (h_s : s.Ok) : ∀ x, (execAuthenticationDone s) = .next x → x.Ok := by
  unfold execAuthenticationDone
  grind [State.Ok, foldl_ok, State.onLive_ok, authDone_ok]

theorem execAuthenticationDone_keeps {s0 : State} {ps : List Region} (s : State) (h_s : Keeps s0 s ps) (m_fw :
    Region.fw ∈ ps) : ∀ x, (execAuthenticationDone s) = .next x → Keeps s0 x ps := by
  unfold execAuthenticationDone
  grind [foldl_keeps', State.onLive_keeps, authDone_keeps]

theorem State.takePicture_ok (s : State) (h_s : s.Ok) : (State.takePicture s).Ok := by
  unfold State.takePicture
  grind [State.Ok, foldl_ok, State.modFw_ok]

theorem State.takePicture_keeps {s0 : State} {ps : List Region} (s : State) (h_s : Keeps s0 s ps) (m_fw : Region.fw ∈
    ps) : Keeps s0 (State.takePicture s) ps := by
  unfold State.takePicture
  grind [foldl_keeps', State.modFw_keeps]

theorem census_ok (s : State) (h_s : s.Ok) : (census s).Ok := by
  unfold census
  grind [State.Ok, foldl_ok, State.tick_ok, State.logRec_ok, State.takePicture_ok, State.raiseIf_ok]

theorem census_keeps {s0 : State} {ps : List Region} (s : State) (h_s : Keeps s0 s ps) (m_free : Region.free ∈ ps)
    (m_inbox : Region.inbox ∈ ps) (m_fw : Region.fw ∈ ps) : Keeps s0 (census s) ps := by
  unfold census
  grind [foldl_keeps', State.tick_keeps, State.logRec_keeps, State.takePicture_keeps, State.raiseIf_keeps]

theorem execCensus_ok (s : State) (h_s : s.Ok) : ∀ x, (execCensus s) = .next x → x.Ok := by
  unfold execCensus
  grind [State.Ok, foldl_ok, State.onCore_ok, census_ok]

theorem execCensus_keeps {s0 : State} {ps : List Region} (s : State) (h_s : Keeps s0 s ps) (m_free : Region.free ∈ ps)
    (m_inbox : Region.inbox ∈ ps) (m_fw : Region.fw ∈ ps) : ∀ x, (execCensus s) = .next x → Keeps s0 x ps := by
  unfold execCensus
  grind [foldl_keeps', State.onCore_keeps, census_keeps]

theorem coresInService_ok (s : State) (h_s : s.Ok) : (coresInService s).Ok := by
  unfold coresInService
  grind [State.Ok, foldl_ok, State.faultStop_ok, State.logRec_ok, State.modFw_ok, State.raiseIf_ok, State.setFw_ok,
    State.setPhase_ok, State.takePicture_ok, State.wr_ok]

theorem coresInService_keeps {s0 : State} {ps : List Region} (s : State) (h_s : Keeps s0 s ps) (m_pcs : Region.pcs ∈
    ps) (m_inbox : Region.inbox ∈ ps) (m_chain : Region.chain ∈ ps) (m_pkg : Region.pkg ∈ ps) (m_fw : Region.fw ∈ ps)
    : Keeps s0 (coresInService s) ps := by
  unfold coresInService
  dsimp only
  repeat' first
      | with_reducible assumption
      | with_reducible apply ite_keeps
      | with_reducible refine foldl_keeps' (fun _ _ _ => ?_) _ ?_
      | with_reducible apply State.faultStop_keeps
      | with_reducible apply State.logRec_keeps
      | with_reducible apply State.modFw_keeps
      | with_reducible apply State.raiseIf_keeps
      | with_reducible apply State.setFw_keeps
      | with_reducible apply State.setPhase_keeps
      | with_reducible apply State.takePicture_keeps
      | with_reducible apply State.wr_keeps
      | with_reducible apply Keeps.set_pcs
      | split

theorem execCoresInService_ok (s : State) (h_s : s.Ok) : ∀ x, (execCoresInService s) = .next x → x.Ok := by
  unfold execCoresInService
  grind [State.Ok, foldl_ok, State.onLive_ok, coresInService_ok]

theorem execCoresInService_keeps {s0 : State} {ps : List Region} (s : State) (h_s : Keeps s0 s ps) (m_pcs : Region.pcs
    ∈ ps) (m_inbox : Region.inbox ∈ ps) (m_chain : Region.chain ∈ ps) (m_pkg : Region.pkg ∈ ps) (m_fw : Region.fw ∈
    ps) : ∀ x, (execCoresInService s) = .next x → Keeps s0 x ps := by
  unfold execCoresInService
  grind [foldl_keeps', State.onLive_keeps, coresInService_keeps]

theorem State.reloadTimer_ok (s : State) (h_s : s.Ok) : (State.reloadTimer s).Ok := by
  unfold State.reloadTimer
  grind [State.Ok, foldl_ok, State.modFw_ok]

theorem State.reloadTimer_keeps {s0 : State} {ps : List Region} (s : State) (h_s : Keeps s0 s ps) (m_fw : Region.fw ∈
    ps) : Keeps s0 (State.reloadTimer s) ps := by
  unfold State.reloadTimer
  grind [foldl_keeps', State.modFw_keeps]

theorem execHeartbeat_ok (s : State) (h_s : s.Ok) : ∀ x, (execHeartbeat s) = .next x → x.Ok := by
  unfold execHeartbeat
  grind [State.Ok, foldl_ok, State.mgtWrite_ok, State.reloadTimer_ok]

theorem execHeartbeat_keeps {s0 : State} {ps : List Region} (s : State) (h_s : Keeps s0 s ps) (m_mgt : Region.mgt ∈
    ps) (m_fw : Region.fw ∈ ps) : ∀ x, (execHeartbeat s) = .next x → Keeps s0 x ps := by
  unfold execHeartbeat
  grind [foldl_keeps', State.mgtWrite_keeps, State.reloadTimer_keeps]

theorem hostTimeout_ok (ms : BitVec 16) (s : State) (h_s : s.Ok) : (hostTimeout ms s).Ok := by
  unfold hostTimeout
  grind [State.Ok, foldl_ok, State.reloadTimer_ok, State.sf_ok]

theorem hostTimeout_keeps {s0 : State} {ps : List Region} (ms : BitVec 16) (s : State) (h_s : Keeps s0 s ps) (m_fw :
    Region.fw ∈ ps) : Keeps s0 (hostTimeout ms s) ps := by
  unfold hostTimeout
  grind [foldl_keeps', State.reloadTimer_keeps, State.sf_keeps]

theorem execHostTimeoutWrite_ok (ms : BitVec 16) (s : State) (h_s : s.Ok) : ∀ x, (execHostTimeoutWrite ms s) = .next x
    → x.Ok := by
  unfold execHostTimeoutWrite
  grind [State.Ok, foldl_ok, State.mgtWrite_ok, hostTimeout_ok]

theorem execHostTimeoutWrite_keeps {s0 : State} {ps : List Region} (ms : BitVec 16) (s : State) (h_s : Keeps s0 s ps)
    (m_mgt : Region.mgt ∈ ps) (m_fw : Region.fw ∈ ps) : ∀ x, (execHostTimeoutWrite ms s) = .next x → Keeps s0 x ps :=
    by
  unfold execHostTimeoutWrite
  grind [foldl_keeps', State.mgtWrite_keeps, hostTimeout_keeps]

theorem hostLossExpiry_ok (s : State) (h_s : s.Ok) : (hostLossExpiry s).Ok := by
  unfold hostLossExpiry
  grind [State.Ok, foldl_ok, State.logRec_ok, State.modFw_ok, State.setFw_ok]

theorem hostLossExpiry_keeps {s0 : State} {ps : List Region} (s : State) (h_s : Keeps s0 s ps) (m_inbox : Region.inbox
    ∈ ps) (m_fw : Region.fw ∈ ps) : Keeps s0 (hostLossExpiry s) ps := by
  unfold hostLossExpiry
  grind [foldl_keeps', State.logRec_keeps, State.modFw_keeps, State.setFw_keeps]

theorem execHostLossExpiry_ok (s : State) (h_s : s.Ok) : ∀ x, (execHostLossExpiry s) = .next x → x.Ok := by
  unfold execHostLossExpiry
  grind [State.Ok, foldl_ok, State.onLive_ok, hostLossExpiry_ok]

theorem execHostLossExpiry_keeps {s0 : State} {ps : List Region} (s : State) (h_s : Keeps s0 s ps) (m_inbox :
    Region.inbox ∈ ps) (m_fw : Region.fw ∈ ps) : ∀ x, (execHostLossExpiry s) = .next x → Keeps s0 x ps := by
  unfold execHostLossExpiry
  grind [foldl_keeps', State.onLive_keeps, hostLossExpiry_keeps]

theorem attach_ok (v : Word) (s : State) (h_s : s.Ok) : (attach v s).Ok := by
  unfold attach
  grind [State.Ok, foldl_ok, State.logRec_ok, State.reloadTimer_ok, State.setFw_ok, State.wr_ok]

theorem attach_keeps {s0 : State} {ps : List Region} (v : Word) (s : State) (h_s : Keeps s0 s ps) (m_inbox :
    Region.inbox ∈ ps) (m_fw : Region.fw ∈ ps) : Keeps s0 (attach v s) ps := by
  unfold attach
  grind [foldl_keeps', State.logRec_keeps, State.reloadTimer_keeps, State.setFw_keeps, State.wr_keeps]

theorem execAttach_ok (v : Word) (s : State) (h_s : s.Ok) : ∀ x, (execAttach v s) = .next x → x.Ok := by
  unfold execAttach
  grind [State.Ok, foldl_ok, State.emuAccess_ok, attach_ok]

theorem execAttach_keeps {s0 : State} {ps : List Region} (v : Word) (s : State) (h_s : Keeps s0 s ps) (m_mgt :
    Region.mgt ∈ ps) (m_inbox : Region.inbox ∈ ps) (m_fw : Region.fw ∈ ps) : ∀ x, (execAttach v s) = .next x → Keeps
    s0 x ps := by
  unfold execAttach
  grind [foldl_keeps', State.emuAccess_keeps, attach_keeps]

theorem State.schedulerReset_ok (s : State) (h_s : s.Ok) : (State.schedulerReset s).Ok := by
  unfold State.schedulerReset
  grind [State.Ok, foldl_ok, State.endRunning_ok]

theorem State.schedulerReset_keeps {s0 : State} {ps : List Region} (s : State) (h_s : Keeps s0 s ps) (m_free :
    Region.free ∈ ps) (m_paths : Region.paths ∈ ps) (m_sched : Region.sched ∈ ps) (m_seq : Region.seq ∈ ps) : Keeps s0
    (State.schedulerReset s) ps := by
  unfold State.schedulerReset
  grind [foldl_keeps', State.endRunning_keeps]

theorem State.upkeepReset_ok (s : State) (h_s : s.Ok) : (State.upkeepReset s).Ok := by
  unfold State.upkeepReset
  grind [State.Ok, foldl_ok, State.writeInhibit_ok]

theorem State.upkeepReset_keeps {s0 : State} {ps : List Region} (s : State) (h_s : Keeps s0 s ps) : Keeps s0
    (State.upkeepReset s) ps := by
  unfold State.upkeepReset
  grind [foldl_keeps', State.writeInhibit_keeps]

theorem State.liaisonReset_ok (s : State) (h_s : s.Ok) : (State.liaisonReset s).Ok := by
  unfold State.liaisonReset
  grind [State.Ok, foldl_ok, State.wr_ok, State.modFw_ok, State.modInbox_ok]

theorem State.liaisonReset_keeps {s0 : State} {ps : List Region} (s : State) (h_s : Keeps s0 s ps) (m_inbox :
    Region.inbox ∈ ps) (m_fw : Region.fw ∈ ps) : Keeps s0 (State.liaisonReset s) ps := by
  unfold State.liaisonReset
  grind [foldl_keeps', State.wr_keeps, State.modFw_keeps, State.modInbox_keeps]

theorem State.coreResetEffects_ok (s : State) (k : Fin 4) (h_s : s.Ok) : (State.coreResetEffects s k).Ok := by
  unfold State.coreResetEffects
  grind [State.Ok, foldl_ok, State.schedulerReset_ok, State.upkeepReset_ok, State.liaisonReset_ok]

theorem State.coreResetEffects_keeps {s0 : State} {ps : List Region} (s : State) (k : Fin 4) (h_s : Keeps s0 s ps)
    (m_free : Region.free ∈ ps) (m_paths : Region.paths ∈ ps) (m_inbox : Region.inbox ∈ ps) (m_fw : Region.fw ∈ ps)
    (m_sched : Region.sched ∈ ps) (m_seq : Region.seq ∈ ps) : Keeps s0 (State.coreResetEffects s k) ps := by
  unfold State.coreResetEffects
  grind [foldl_keeps', State.schedulerReset_keeps, State.upkeepReset_keeps, State.liaisonReset_keeps]

theorem State.resetCore_ok (s : State) (k : Fin 4) (cause : Nat) (h_s : s.Ok) : (State.resetCore s k cause).Ok := by
  unfold State.resetCore
  grind [State.Ok, foldl_ok, State.modFw_ok, State.modCore_ok, State.coreResetEffects_ok, State.logRec_ok,
      State.bumpSat_ok, State.raise_ok]

theorem State.resetCore_keeps {s0 : State} {ps : List Region} (s : State) (k : Fin 4) (cause : Nat) (h_s : Keeps s0 s
    ps) (m_free : Region.free ∈ ps) (m_paths : Region.paths ∈ ps) (m_inbox : Region.inbox ∈ ps) (m_fw : Region.fw ∈
    ps) (m_sched : Region.sched ∈ ps) (m_seq : Region.seq ∈ ps) : Keeps s0 (State.resetCore s k cause) ps := by
  unfold State.resetCore
  dsimp only
  repeat' first
      | with_reducible assumption
      | with_reducible apply ite_keeps
      | with_reducible refine foldl_keeps' (fun _ _ _ => ?_) _ ?_
      | with_reducible apply State.modFw_keeps
      | with_reducible apply State.modCore_keeps
      | with_reducible apply State.coreResetEffects_keeps
      | with_reducible apply State.logRec_keeps
      | with_reducible apply State.bumpSat_keeps
      | with_reducible apply State.raise_keeps
      | split

theorem watchdogExpiry_ok (k : Fin 4) (s : State) (h_s : s.Ok) : (watchdogExpiry k s).Ok := by
  unfold watchdogExpiry
  grind [State.Ok, foldl_ok, State.resetCore_ok]

theorem watchdogExpiry_keeps {s0 : State} {ps : List Region} (k : Fin 4) (s : State) (h_s : Keeps s0 s ps) (m_free :
    Region.free ∈ ps) (m_paths : Region.paths ∈ ps) (m_inbox : Region.inbox ∈ ps) (m_fw : Region.fw ∈ ps) (m_sched :
    Region.sched ∈ ps) (m_seq : Region.seq ∈ ps) : Keeps s0 (watchdogExpiry k s) ps := by
  unfold watchdogExpiry
  grind [foldl_keeps', State.resetCore_keeps]

theorem execWatchdogExpiry_ok (k : Fin 4) (s : State) (h_s : s.Ok) : ∀ x, (execWatchdogExpiry k s) = .next x → x.Ok :=
    by
  unfold execWatchdogExpiry
  grind [State.Ok, foldl_ok, State.onLive_ok, watchdogExpiry_ok]

theorem execWatchdogExpiry_keeps {s0 : State} {ps : List Region} (k : Fin 4) (s : State) (h_s : Keeps s0 s ps) (m_free
    : Region.free ∈ ps) (m_paths : Region.paths ∈ ps) (m_inbox : Region.inbox ∈ ps) (m_fw : Region.fw ∈ ps) (m_sched :
    Region.sched ∈ ps) (m_seq : Region.seq ∈ ps) : ∀ x, (execWatchdogExpiry k s) = .next x → Keeps s0 x ps := by
  unfold execWatchdogExpiry
  grind [foldl_keeps', State.onLive_keeps, watchdogExpiry_keeps]

theorem execCoreTrap_ok (k : Fin 4) (s : State) (h_s : s.Ok) : ∀ x, (execCoreTrap k s) = .next x → x.Ok := by
  unfold execCoreTrap
  grind [State.Ok, foldl_ok, State.onLive_ok, State.resetCore_ok]

theorem execCoreTrap_keeps {s0 : State} {ps : List Region} (k : Fin 4) (s : State) (h_s : Keeps s0 s ps) (m_free :
    Region.free ∈ ps) (m_paths : Region.paths ∈ ps) (m_inbox : Region.inbox ∈ ps) (m_fw : Region.fw ∈ ps) (m_sched :
    Region.sched ∈ ps) (m_seq : Region.seq ∈ ps) : ∀ x, (execCoreTrap k s) = .next x → Keeps s0 x ps := by
  unfold execCoreTrap
  grind [foldl_keeps', State.onLive_keeps, State.resetCore_keeps]

theorem resetNamed_ok (mask : BitVec 4) (s : State) (h_s : s.Ok) : (resetNamed mask s).Ok := by
  unfold resetNamed
  grind [State.Ok, foldl_ok, State.resetCore_ok]

theorem resetNamed_keeps {s0 : State} {ps : List Region} (mask : BitVec 4) (s : State) (h_s : Keeps s0 s ps) (m_free :
    Region.free ∈ ps) (m_paths : Region.paths ∈ ps) (m_inbox : Region.inbox ∈ ps) (m_fw : Region.fw ∈ ps) (m_sched :
    Region.sched ∈ ps) (m_seq : Region.seq ∈ ps) : Keeps s0 (resetNamed mask s) ps := by
  unfold resetNamed
  grind [foldl_keeps', State.resetCore_keeps]

theorem execResetCore_ok (mask : BitVec 4) (s : State) (h_s : s.Ok) : ∀ x, (execResetCore mask s) = .next x → x.Ok :=
    by
  unfold execResetCore
  grind [State.Ok, foldl_ok, State.mgtWrite_ok, resetNamed_ok]

theorem execResetCore_keeps {s0 : State} {ps : List Region} (mask : BitVec 4) (s : State) (h_s : Keeps s0 s ps)
    (m_free : Region.free ∈ ps) (m_mgt : Region.mgt ∈ ps) (m_paths : Region.paths ∈ ps) (m_inbox : Region.inbox ∈ ps)
    (m_fw : Region.fw ∈ ps) (m_sched : Region.sched ∈ ps) (m_seq : Region.seq ∈ ps) : ∀ x, (execResetCore mask s) =
    .next x → Keeps s0 x ps := by
  unfold execResetCore
  grind [foldl_keeps', State.mgtWrite_keeps, resetNamed_keeps]

theorem coreRestart_ok (k : Fin 4) (damage : List (BitVec 18 × Byte)) (s : State) (h_s : s.Ok) : (coreRestart k damage
    s).Ok := by
  unfold coreRestart
  generalize sha384 = f
  repeat' split
  all_goals grind [State.Ok, State.modCore_ok, State.startCore_ok, State.logRec_ok, State.raise_ok, State.sf_ok]

theorem coreRestart_keeps {s0 : State} {ps : List Region} (k : Fin 4) (damage : List (BitVec 18 × Byte)) (s : State)
    (h_s : Keeps s0 s ps) (m_inbox : Region.inbox ∈ ps) (m_fw : Region.fw ∈ ps) : Keeps s0 (coreRestart k damage s) ps
    := by
  unfold coreRestart
  dsimp only
  repeat' first
      | with_reducible assumption
      | with_reducible apply ite_keeps
      | with_reducible refine foldl_keeps' (fun _ _ _ => ?_) _ ?_
      | with_reducible apply State.modCore_keeps
      | with_reducible apply State.startCore_keeps
      | with_reducible apply State.logRec_keeps
      | with_reducible apply State.raise_keeps
      | with_reducible apply State.sf_keeps
      | split

theorem execCoreRestart_ok (k : Fin 4) (damage : List (BitVec 18 × Byte)) (s : State) (h_s : s.Ok) : ∀ x,
    (execCoreRestart k damage s) = .next x → x.Ok := by
  unfold execCoreRestart
  grind [State.Ok, foldl_ok, State.onLive_ok, coreRestart_ok]

theorem execCoreRestart_keeps {s0 : State} {ps : List Region} (k : Fin 4) (damage : List (BitVec 18 × Byte)) (s :
    State) (h_s : Keeps s0 s ps) (m_inbox : Region.inbox ∈ ps) (m_fw : Region.fw ∈ ps) : ∀ x, (execCoreRestart k
    damage s) = .next x → Keeps s0 x ps := by
  unfold execCoreRestart
  grind [foldl_keeps', State.onLive_keeps, coreRestart_keeps]

theorem State.cancelAll_ok (s : State) (h_s : s.Ok) : (State.cancelAll s).Ok := by
  unfold State.cancelAll
  grind [State.Ok, foldl_ok, State.modSeq_ok, State.skipIds_ok, State.endOp_ok]

theorem State.cancelAll_keeps {s0 : State} {ps : List Region} (s : State) (h_s : Keeps s0 s ps) (m_paths :
    Region.paths ∈ ps) (m_sched : Region.sched ∈ ps) (m_seq : Region.seq ∈ ps) : Keeps s0 (State.cancelAll s) ps := by
  unfold State.cancelAll
  grind [foldl_keeps', State.modSeq_keeps, State.skipIds_keeps, State.endOp_keeps]

theorem State.resetAll_ok (s : State) (h_s : s.Ok) : (State.resetAll s).Ok := by
  unfold State.resetAll
  grind [State.Ok, foldl_ok, State.cancelAll_ok, State.modPaths_ok, State.repowerCores_ok, State.resetRegs_ok,
    State.setFw_ok, State.sf_ok, State.upkeepReset_ok]

theorem resetAllCores_ok (orderly : Bool) (s : State) (h_s : s.Ok) : (resetAllCores orderly s).Ok := by
  unfold resetAllCores
  grind [State.Ok, foldl_ok, State.qReset_ok, State.modFw_ok, State.resetAll_ok]

theorem execResetAll_ok (orderly : Bool) (s : State) (h_s : s.Ok) : ∀ x, (execResetAll orderly s) = .next x → x.Ok :=
    by
  unfold execResetAll
  grind [State.Ok, foldl_ok, State.mgtWrite_ok, resetAllCores_ok]

theorem orderlyResetDone_ok (s : State) (h_s : s.Ok) : (orderlyResetDone s).Ok := by
  unfold orderlyResetDone
  grind [State.Ok, foldl_ok, State.resetAll_ok]

theorem execOrderlyResetDone_ok (s : State) (h_s : s.Ok) : ∀ x, (execOrderlyResetDone s) = .next x → x.Ok := by
  unfold execOrderlyResetDone
  grind [State.Ok, foldl_ok, State.onLive_ok, orderlyResetDone_ok]

theorem wdogCfg_ok (ms : BitVec 7) (s : State) (h_s : s.Ok) : (wdogCfg ms s).Ok := by
  unfold wdogCfg
  grind [State.Ok, foldl_ok, State.sf_ok]

theorem wdogCfg_keeps {s0 : State} {ps : List Region} (ms : BitVec 7) (s : State) (h_s : Keeps s0 s ps) : Keeps s0
    (wdogCfg ms s) ps := by
  unfold wdogCfg
  grind [foldl_keeps', State.sf_keeps]

theorem execWdogCfgWrite_ok (ms : BitVec 7) (s : State) (h_s : s.Ok) : ∀ x, (execWdogCfgWrite ms s) = .next x → x.Ok
    := by
  unfold execWdogCfgWrite
  grind [State.Ok, foldl_ok, State.mgtWrite_ok, wdogCfg_ok]

theorem execWdogCfgWrite_keeps {s0 : State} {ps : List Region} (ms : BitVec 7) (s : State) (h_s : Keeps s0 s ps)
    (m_mgt : Region.mgt ∈ ps) : ∀ x, (execWdogCfgWrite ms s) = .next x → Keeps s0 x ps := by
  unfold execWdogCfgWrite
  grind [foldl_keeps', State.mgtWrite_keeps, wdogCfg_keeps]

theorem State.setStage_ok (s : State) (st : Nat) (status : Nat) (reason : Nat) (h_s : s.Ok) : (State.setStage s st
    status reason).Ok := by
  unfold State.setStage
  grind [State.Ok, foldl_ok, State.sf_ok]

theorem State.setStage_keeps {s0 : State} {ps : List Region} (s : State) (st : Nat) (status : Nat) (reason : Nat) (h_s
    : Keeps s0 s ps) : Keeps s0 (State.setStage s st status reason) ps := by
  unfold State.setStage
  grind [foldl_keeps', State.sf_keeps]

theorem State.verifyStage_ok (s : State) (h_s : s.Ok) : (State.verifyStage s).Ok := by
  unfold State.verifyStage
  grind [State.Ok, foldl_ok, State.logRec_ok, State.modFw_ok, State.setStage_ok]

theorem State.verifyStage_keeps {s0 : State} {ps : List Region} (s : State) (h_s : Keeps s0 s ps) (m_inbox :
    Region.inbox ∈ ps) (m_fw : Region.fw ∈ ps) : Keeps s0 (State.verifyStage s) ps := by
  unfold State.verifyStage
  grind [foldl_keeps', State.logRec_keeps, State.modFw_keeps, State.setStage_keeps]

theorem stageVerify_ok (len : BitVec 20) (s : State) (h_s : s.Ok) : (stageVerify len s).Ok := by
  unfold stageVerify
  grind [State.Ok, foldl_ok, State.verifyStage_ok, State.wr_ok]

theorem stageVerify_keeps {s0 : State} {ps : List Region} (len : BitVec 20) (s : State) (h_s : Keeps s0 s ps) (m_inbox
    : Region.inbox ∈ ps) (m_fw : Region.fw ∈ ps) : Keeps s0 (stageVerify len s) ps := by
  unfold stageVerify
  grind [foldl_keeps', State.verifyStage_keeps, State.wr_keeps]

theorem execStageVerify_ok (len : BitVec 20) (s : State) (h_s : s.Ok) : ∀ x, (execStageVerify len s) = .next x → x.Ok
    := by
  unfold execStageVerify
  grind [State.Ok, foldl_ok, State.emuWrite_ok, stageVerify_ok]

theorem execStageVerify_keeps {s0 : State} {ps : List Region} (len : BitVec 20) (s : State) (h_s : Keeps s0 s ps)
    (m_mgt : Region.mgt ∈ ps) (m_inbox : Region.inbox ∈ ps) (m_fw : Region.fw ∈ ps) : ∀ x, (execStageVerify len s) =
    .next x → Keeps s0 x ps := by
  unfold execStageVerify
  grind [foldl_keeps', State.emuWrite_keeps, stageVerify_keeps]

theorem stageVerifyDone_ok (s : State) (h_s : s.Ok) : (stageVerifyDone s).Ok := by
  unfold stageVerifyDone
  grind [State.Ok, foldl_ok, State.fetch_ok, State.logRec_ok, State.modFw_ok, State.setStage_ok]

theorem stageVerifyDone_keeps {s0 : State} {ps : List Region} (s : State) (h_s : Keeps s0 s ps) (m_free : Region.free
    ∈ ps) (m_paths : Region.paths ∈ ps) (m_inbox : Region.inbox ∈ ps) (m_ring : Region.ring ∈ ps) (m_fw : Region.fw ∈
    ps) (m_tags : Region.tags ∈ ps) (m_inj : Region.inj ∈ ps) : Keeps s0 (stageVerifyDone s) ps := by
  unfold stageVerifyDone
  grind [foldl_keeps', State.fetch_keeps, State.logRec_keeps, State.modFw_keeps, State.setStage_keeps]

theorem execStageVerifyDone_ok (s : State) (h_s : s.Ok) : ∀ x, (execStageVerifyDone s) = .next x → x.Ok := by
  unfold execStageVerifyDone
  grind [State.Ok, foldl_ok, State.onCore_ok, stageVerifyDone_ok]

theorem execStageVerifyDone_keeps {s0 : State} {ps : List Region} (s : State) (h_s : Keeps s0 s ps) (m_free :
    Region.free ∈ ps) (m_paths : Region.paths ∈ ps) (m_inbox : Region.inbox ∈ ps) (m_ring : Region.ring ∈ ps) (m_fw :
    Region.fw ∈ ps) (m_tags : Region.tags ∈ ps) (m_inj : Region.inj ∈ ps) : ∀ x, (execStageVerifyDone s) = .next x →
    Keeps s0 x ps := by
  unfold execStageVerifyDone
  grind [foldl_keeps', State.onCore_keeps, stageVerifyDone_keeps]

theorem State.activateStage_ok (s : State) (h_s : s.Ok) : (State.activateStage s).Ok := by
  unfold State.activateStage
  grind [State.Ok, foldl_ok, State.modFw_ok, State.setStage_ok]

theorem State.activateStage_keeps {s0 : State} {ps : List Region} (s : State) (h_s : Keeps s0 s ps) (m_fw : Region.fw
    ∈ ps) : Keeps s0 (State.activateStage s) ps := by
  unfold State.activateStage
  grind [foldl_keeps', State.modFw_keeps, State.setStage_keeps]

theorem stageActivate_ok (len : BitVec 20) (s : State) (h_s : s.Ok) : (stageActivate len s).Ok := by
  unfold stageActivate
  grind [State.Ok, foldl_ok, State.activateStage_ok, State.wr_ok]

theorem stageActivate_keeps {s0 : State} {ps : List Region} (len : BitVec 20) (s : State) (h_s : Keeps s0 s ps) (m_fw
    : Region.fw ∈ ps) : Keeps s0 (stageActivate len s) ps := by
  unfold stageActivate
  grind [foldl_keeps', State.activateStage_keeps, State.wr_keeps]

theorem execStageActivate_ok (len : BitVec 20) (s : State) (h_s : s.Ok) : ∀ x, (execStageActivate len s) = .next x →
    x.Ok := by
  unfold execStageActivate
  grind [State.Ok, foldl_ok, State.emuWrite_ok, stageActivate_ok]

theorem execStageActivate_keeps {s0 : State} {ps : List Region} (len : BitVec 20) (s : State) (h_s : Keeps s0 s ps)
    (m_mgt : Region.mgt ∈ ps) (m_fw : Region.fw ∈ ps) : ∀ x, (execStageActivate len s) = .next x → Keeps s0 x ps := by
  unfold execStageActivate
  grind [foldl_keeps', State.emuWrite_keeps, stageActivate_keeps]

theorem State.commitActivation_ok (s : State) (img : List Byte) (h_s : s.Ok) : (State.commitActivation s img).Ok := by
  unfold State.commitActivation
  grind [State.Ok, foldl_ok, State.tick_ok, State.issueWrite_ok, State.modFw_ok, State.modCores_ok, State.setFw_ok]

theorem State.commitActivation_keeps {s0 : State} {ps : List Region} (s : State) (img : List Byte) (h_s : Keeps s0 s
    ps) (m_free : Region.free ∈ ps) (m_paths : Region.paths ∈ ps) (m_ring : Region.ring ∈ ps) (m_fw : Region.fw ∈ ps)
    (m_tags : Region.tags ∈ ps) (m_inj : Region.inj ∈ ps) : Keeps s0 (State.commitActivation s img) ps := by
  unfold State.commitActivation
  grind [foldl_keeps', State.tick_keeps, State.issueWrite_keeps, State.modFw_keeps, State.modCores_keeps,
      State.setFw_keeps]

theorem commitPoint_ok (s : State) (h_s : s.Ok) : (commitPoint s).Ok := by
  unfold commitPoint
  grind [State.Ok, foldl_ok, State.commitActivation_ok, State.calm_ok, State.logRec_ok, State.modFw_ok,
      State.setStage_ok, State.startHandover_ok]

theorem commitPoint_keeps {s0 : State} {ps : List Region} (s : State) (h_s : Keeps s0 s ps) (m_free : Region.free ∈
    ps) (m_paths : Region.paths ∈ ps) (m_inbox : Region.inbox ∈ ps) (m_ring : Region.ring ∈ ps) (m_pkg : Region.pkg ∈
    ps) (m_fw : Region.fw ∈ ps) (m_tags : Region.tags ∈ ps) (m_inj : Region.inj ∈ ps) : Keeps s0 (commitPoint s) ps :=
    by
  unfold commitPoint
  grind [foldl_keeps', State.commitActivation_keeps, State.calm_keeps, State.logRec_keeps, State.modFw_keeps,
      State.setStage_keeps, State.startHandover_keeps]

theorem execActivationCommitPoint_ok (s : State) (h_s : s.Ok) : ∀ x, (execActivationCommitPoint s) = .next x → x.Ok :=
    by
  unfold execActivationCommitPoint
  grind [State.Ok, foldl_ok, State.onCore_ok, commitPoint_ok]

theorem execActivationCommitPoint_keeps {s0 : State} {ps : List Region} (s : State) (h_s : Keeps s0 s ps) (m_free :
    Region.free ∈ ps) (m_paths : Region.paths ∈ ps) (m_inbox : Region.inbox ∈ ps) (m_ring : Region.ring ∈ ps) (m_pkg :
    Region.pkg ∈ ps) (m_fw : Region.fw ∈ ps) (m_tags : Region.tags ∈ ps) (m_inj : Region.inj ∈ ps) : ∀ x,
    (execActivationCommitPoint s) = .next x → Keeps s0 x ps := by
  unfold execActivationCommitPoint
  grind [foldl_keeps', State.onCore_keeps, commitPoint_keeps]

theorem activationRetry_ok (s : State) (h_s : s.Ok) : (activationRetry s).Ok := by
  unfold activationRetry
  grind [State.Ok, foldl_ok, State.modFw_ok, State.setStage_ok]

theorem activationRetry_keeps {s0 : State} {ps : List Region} (s : State) (h_s : Keeps s0 s ps) (m_fw : Region.fw ∈
    ps) : Keeps s0 (activationRetry s) ps := by
  unfold activationRetry
  grind [foldl_keeps', State.modFw_keeps, State.setStage_keeps]

theorem execActivationRetry_ok (s : State) (h_s : s.Ok) : ∀ x, (execActivationRetry s) = .next x → x.Ok := by
  unfold execActivationRetry
  grind [State.Ok, foldl_ok, State.onCore_ok, activationRetry_ok]

theorem execActivationRetry_keeps {s0 : State} {ps : List Region} (s : State) (h_s : Keeps s0 s ps) (m_fw : Region.fw
    ∈ ps) : ∀ x, (execActivationRetry s) = .next x → Keeps s0 x ps := by
  unfold execActivationRetry
  grind [foldl_keeps', State.onCore_keeps, activationRetry_keeps]

theorem activationLoadDone_ok (s : State) (h_s : s.Ok) : (activationLoadDone s).Ok := by
  unfold activationLoadDone
  generalize imgDigest = f
  generalize (1000000 : Nat) = k
  repeat' split
  all_goals grind [State.Ok, State.fetch_ok, State.startCore_ok, State.modCore_ok, State.wr64_ok, State.wr_ok,
      State.setFw_ok, State.modFw_ok, State.setStage_ok, State.logRec_ok, census_ok, State.raise_ok,
      State.resetAll_ok, foldl_ok]

theorem execActivationLoadDone_ok (s : State) (h_s : s.Ok) : ∀ x, (execActivationLoadDone s) = .next x → x.Ok := by
  unfold execActivationLoadDone
  grind [State.Ok, foldl_ok, State.onLive_ok, activationLoadDone_ok]

theorem State.cancelStage_ok (s : State) (h_s : s.Ok) : (State.cancelStage s).Ok := by
  unfold State.cancelStage
  grind [State.Ok, foldl_ok, State.modFw_ok, State.setStage_ok]

theorem State.cancelStage_keeps {s0 : State} {ps : List Region} (s : State) (h_s : Keeps s0 s ps) (m_fw : Region.fw ∈
    ps) : Keeps s0 (State.cancelStage s) ps := by
  unfold State.cancelStage
  grind [foldl_keeps', State.modFw_keeps, State.setStage_keeps]

theorem stageCancel_ok (len : BitVec 20) (s : State) (h_s : s.Ok) : (stageCancel len s).Ok := by
  unfold stageCancel
  grind [State.Ok, foldl_ok, State.cancelStage_ok, State.wr_ok]

theorem stageCancel_keeps {s0 : State} {ps : List Region} (len : BitVec 20) (s : State) (h_s : Keeps s0 s ps) (m_fw :
    Region.fw ∈ ps) : Keeps s0 (stageCancel len s) ps := by
  unfold stageCancel
  grind [foldl_keeps', State.cancelStage_keeps, State.wr_keeps]

theorem execStageCancel_ok (len : BitVec 20) (s : State) (h_s : s.Ok) : ∀ x, (execStageCancel len s) = .next x → x.Ok
    := by
  unfold execStageCancel
  grind [State.Ok, foldl_ok, State.emuWrite_ok, stageCancel_ok]

theorem execStageCancel_keeps {s0 : State} {ps : List Region} (len : BitVec 20) (s : State) (h_s : Keeps s0 s ps)
    (m_mgt : Region.mgt ∈ ps) (m_fw : Region.fw ∈ ps) : ∀ x, (execStageCancel len s) = .next x → Keeps s0 x ps := by
  unfold execStageCancel
  grind [foldl_keeps', State.emuWrite_keeps, stageCancel_keeps]

theorem State.flushLog_ok (s : State) (h_s : s.Ok) : (State.flushLog s).Ok := by
  unfold State.flushLog
  grind [State.Ok, foldl_ok, State.modFw_ok, State.ringWrite_ok]

theorem State.flushLog_keeps {s0 : State} {ps : List Region} (s : State) (h_s : Keeps s0 s ps) (m_paths : Region.paths
    ∈ ps) (m_ring : Region.ring ∈ ps) (m_fw : Region.fw ∈ ps) (m_tags : Region.tags ∈ ps) (m_inj : Region.inj ∈ ps) :
    Keeps s0 (State.flushLog s) ps := by
  unfold State.flushLog
  grind [foldl_keeps', State.modFw_keeps, State.ringWrite_keeps]

theorem logRecord_ok (s : State) (h_s : s.Ok) : (logRecord s).Ok := by
  unfold logRecord
  grind [State.Ok, foldl_ok, State.flushLog_ok, State.wr_ok, State.modInbox_ok, State.ringWrite_ok, State.modFw_ok]

theorem logRecord_keeps {s0 : State} {ps : List Region} (s : State) (h_s : Keeps s0 s ps) (m_paths : Region.paths ∈
    ps) (m_inbox : Region.inbox ∈ ps) (m_ring : Region.ring ∈ ps) (m_fw : Region.fw ∈ ps) (m_tags : Region.tags ∈ ps)
    (m_inj : Region.inj ∈ ps) : Keeps s0 (logRecord s) ps := by
  unfold logRecord
  grind [foldl_keeps', State.flushLog_keeps, State.wr_keeps, State.modInbox_keeps, State.ringWrite_keeps,
      State.modFw_keeps]

theorem execLogRecord_ok (s : State) (h_s : s.Ok) : ∀ x, (execLogRecord s) = .next x → x.Ok := by
  unfold execLogRecord
  grind [State.Ok, foldl_ok, State.onCore_ok, logRecord_ok]

theorem execLogRecord_keeps {s0 : State} {ps : List Region} (s : State) (h_s : Keeps s0 s ps) (m_paths : Region.paths
    ∈ ps) (m_inbox : Region.inbox ∈ ps) (m_ring : Region.ring ∈ ps) (m_fw : Region.fw ∈ ps) (m_tags : Region.tags ∈
    ps) (m_inj : Region.inj ∈ ps) : ∀ x, (execLogRecord s) = .next x → Keeps s0 x ps := by
  unfold execLogRecord
  grind [foldl_keeps', State.onCore_keeps, logRecord_keeps]

theorem tracePoint_ok (point : BitVec 16) (core : Fin 4) (arg : Word) (s : State) (h_s : s.Ok) : (tracePoint point
    core arg s).Ok := by
  unfold tracePoint
  grind [State.Ok, foldl_ok, State.modFw_ok]

theorem tracePoint_keeps {s0 : State} {ps : List Region} (point : BitVec 16) (core : Fin 4) (arg : Word) (s : State)
    (h_s : Keeps s0 s ps) (m_fw : Region.fw ∈ ps) : Keeps s0 (tracePoint point core arg s) ps := by
  unfold tracePoint
  grind [foldl_keeps', State.modFw_keeps]

theorem execTracePoint_ok (point : BitVec 16) (core : Fin 4) (arg : Word) (s : State) (h_s : s.Ok) : ∀ x,
    (execTracePoint point core arg s) = .next x → x.Ok := by
  unfold execTracePoint
  grind [State.Ok, foldl_ok, State.onCore_ok, tracePoint_ok]

theorem execTracePoint_keeps {s0 : State} {ps : List Region} (point : BitVec 16) (core : Fin 4) (arg : Word) (s :
    State) (h_s : Keeps s0 s ps) (m_fw : Region.fw ∈ ps) : ∀ x, (execTracePoint point core arg s) = .next x → Keeps s0
    x ps := by
  unfold execTracePoint
  grind [foldl_keeps', State.onCore_keeps, tracePoint_keeps]

theorem traceFlush_ok (s : State) (h_s : s.Ok) : (traceFlush s).Ok := by
  unfold traceFlush
  grind [State.Ok, foldl_ok, State.issueWrite_ok, State.modFw_ok]

theorem traceFlush_keeps {s0 : State} {ps : List Region} (s : State) (h_s : Keeps s0 s ps) (m_paths : Region.paths ∈
    ps) (m_ring : Region.ring ∈ ps) (m_fw : Region.fw ∈ ps) (m_tags : Region.tags ∈ ps) (m_inj : Region.inj ∈ ps) :
    Keeps s0 (traceFlush s) ps := by
  unfold traceFlush
  grind [foldl_keeps', State.issueWrite_keeps, State.modFw_keeps]

theorem execTraceFlush_ok (s : State) (h_s : s.Ok) : ∀ x, (execTraceFlush s) = .next x → x.Ok := by
  unfold execTraceFlush
  grind [State.Ok, foldl_ok, State.onCore_ok, traceFlush_ok]

theorem execTraceFlush_keeps {s0 : State} {ps : List Region} (s : State) (h_s : Keeps s0 s ps) (m_paths : Region.paths
    ∈ ps) (m_ring : Region.ring ∈ ps) (m_fw : Region.fw ∈ ps) (m_tags : Region.tags ∈ ps) (m_inj : Region.inj ∈ ps) :
    ∀ x, (execTraceFlush s) = .next x → Keeps s0 x ps := by
  unfold execTraceFlush
  grind [foldl_keeps', State.onCore_keeps, traceFlush_keeps]

end Sys2Proof.Machine
end

