-- ==== Sys2Proof/Laws/Captain.lean ====
section
/-! SUPPORT. Two lemmas for every operation of Machine/Captain.lean. `…_ok`: the register table and the stack's memory stay
canonical. `…_keeps`: what agrees with a state outside a list of regions that holds those the operation can change still
agrees afterwards. -/

namespace Sys2Proof.Machine

set_option Elab.async false

theorem State.noteEligible_ok (s : State) (i : Nat) (yes : Bool) (h_s : s.Ok) : (State.noteEligible s i yes).Ok := by
  unfold State.noteEligible
  grind [State.Ok, foldl_ok, State.modPkg_ok]

theorem State.noteEligible_keeps {s0 : State} {ps : List Region} (s : State) (i : Nat) (yes : Bool) (h_s : Keeps s0 s
    ps) (m_pkg : Region.pkg ∈ ps) : Keeps s0 (State.noteEligible s i yes) ps := by
  unfold State.noteEligible
  grind [foldl_keeps', State.modPkg_keeps]

theorem State.heardChain_ok (s : State) (i : Nat) (h_s : s.Ok) : (State.heardChain s i).Ok := by
  unfold State.heardChain
  grind [State.Ok, foldl_ok, State.modPkg_ok]

theorem State.heardChain_keeps {s0 : State} {ps : List Region} (s : State) (i : Nat) (h_s : Keeps s0 s ps) (m_pkg :
    Region.pkg ∈ ps) : Keeps s0 (State.heardChain s i) ps := by
  unfold State.heardChain
  grind [foldl_keeps', State.modPkg_keeps]

theorem State.command_ok (s : State) (i : Nat) (code : Nat) (arg : Nat) (h_s : s.Ok) : (State.command s i code arg).Ok
    := by
  unfold State.command
  grind [State.Ok, foldl_ok, State.chainDown_ok]

theorem State.command_keeps {s0 : State} {ps : List Region} (s : State) (i : Nat) (code : Nat) (arg : Nat) (h_s :
    Keeps s0 s ps) (m_pins : Region.pins ∈ ps) (m_chain : Region.chain ∈ ps) : Keeps s0 (State.command s i code arg)
    ps := by
  unfold State.command
  grind [foldl_keeps', State.chainDown_keeps]

theorem State.captainDuty_ok (s : State) (i : Nat) (h_s : s.Ok) : (State.captainDuty s i).Ok := by
  unfold State.captainDuty
  grind [State.Ok, foldl_ok, State.command_ok, State.trainPort_ok]

theorem State.captainDuty_keeps {s0 : State} {ps : List Region} (s : State) (i : Nat) (h_s : Keeps s0 s ps) (m_pins :
    Region.pins ∈ ps) (m_ring : Region.ring ∈ ps) (m_chain : Region.chain ∈ ps) : Keeps s0 (State.captainDuty s i) ps
    := by
  unfold State.captainDuty
  grind [foldl_keeps', State.command_keeps, State.trainPort_keeps]

theorem State.sendBeat_ok (s : State) (h_s : s.Ok) : (State.sendBeat s).Ok := by
  unfold State.sendBeat
  grind [State.Ok, foldl_ok, State.broadcast_ok, State.chainDown_ok, State.chainUp_ok, State.modPkg_ok]

theorem State.sendBeat_keeps {s0 : State} {ps : List Region} (s : State) (h_s : Keeps s0 s ps) (m_pins : Region.pins ∈
    ps) (m_ring : Region.ring ∈ ps) (m_chain : Region.chain ∈ ps) (m_pkg : Region.pkg ∈ ps) (m_inj : Region.inj ∈ ps)
    : Keeps s0 (State.sendBeat s) ps := by
  unfold State.sendBeat
  grind [foldl_keeps', State.broadcast_keeps, State.chainDown_keeps, State.chainUp_keeps, State.modPkg_keeps]

theorem State.sendHall_ok (s : State) (h_s : s.Ok) : (State.sendHall s).Ok := by
  unfold State.sendHall
  grind [State.Ok, foldl_ok, State.broadcast_ok, State.applyHall_ok]

theorem State.sendHall_keeps {s0 : State} {ps : List Region} (s : State) (h_s : Keeps s0 s ps) (m_ring : Region.ring ∈
    ps) (m_inj : Region.inj ∈ ps) : Keeps s0 (State.sendHall s) ps := by
  unfold State.sendHall
  grind [foldl_keeps', State.broadcast_keeps, State.applyHall_keeps]

theorem State.askAgain_ok (s : State) (h_s : s.Ok) : (State.askAgain s).Ok := by
  unfold State.askAgain
  grind [State.Ok, foldl_ok, State.modRing_ok, State.sendCtl_ok]

theorem State.askAgain_keeps {s0 : State} {ps : List Region} (s : State) (h_s : Keeps s0 s ps) (m_ring : Region.ring ∈
    ps) (m_inj : Region.inj ∈ ps) : Keeps s0 (State.askAgain s) ps := by
  unfold State.askAgain
  grind [foldl_keeps', State.modRing_keeps, State.sendCtl_keeps]

theorem State.becomeCaptain_ok (s : State) (epoch : Nat) (h_s : s.Ok) : (State.becomeCaptain s epoch).Ok := by
  unfold State.becomeCaptain
  grind [State.Ok, foldl_ok, State.askAgain_ok, State.captainDuty_ok, State.modPkg_ok, State.sendBeat_ok,
    State.sendHall_ok, State.setRoles_ok]

theorem State.becomeCaptain_keeps {s0 : State} {ps : List Region} (s : State) (epoch : Nat) (h_s : Keeps s0 s ps)
    (m_pins : Region.pins ∈ ps) (m_ring : Region.ring ∈ ps) (m_chain : Region.chain ∈ ps) (m_pkg : Region.pkg ∈ ps)
    (m_inj : Region.inj ∈ ps) : Keeps s0 (State.becomeCaptain s epoch) ps := by
  unfold State.becomeCaptain
  grind [foldl_keeps', State.askAgain_keeps, State.captainDuty_keeps, State.modPkg_keeps, State.sendBeat_keeps,
    State.sendHall_keeps, State.setRoles_keeps]

theorem State.adopt_ok (s : State) (epoch : Nat) (captain : Nat) (deputy : Option Nat) (h_s : s.Ok) : (State.adopt s
    epoch captain deputy).Ok := by
  unfold State.adopt
  grind [State.Ok, foldl_ok, State.modPkg_ok, State.setRoles_ok, State.askAgain_ok]

theorem State.adopt_keeps {s0 : State} {ps : List Region} (s : State) (epoch : Nat) (captain : Nat) (deputy : Option
    Nat) (h_s : Keeps s0 s ps) (m_ring : Region.ring ∈ ps) (m_pkg : Region.pkg ∈ ps) (m_inj : Region.inj ∈ ps) : Keeps
    s0 (State.adopt s epoch captain deputy) ps := by
  unfold State.adopt
  grind [foldl_keeps', State.modPkg_keeps, State.setRoles_keeps, State.askAgain_keeps]

theorem State.result_ok (s : State) (code : Nat) (r : Nat) (h_s : s.Ok) : (State.result s code r).Ok := by
  unfold State.result
  grind [State.Ok, foldl_ok, State.chainUp_ok]

theorem State.result_keeps {s0 : State} {ps : List Region} (s : State) (code : Nat) (r : Nat) (h_s : Keeps s0 s ps)
    (m_chain : Region.chain ∈ ps) : Keeps s0 (State.result s code r) ps := by
  unfold State.result
  grind [foldl_keeps', State.chainUp_keeps]

theorem cmdStatus_ok (s : State) (h_s : s.Ok) : (cmdStatus s).Ok := by
  unfold cmdStatus
  repeat' split
  all_goals grind [State.Ok, State.takeCmd_ok, State.result_ok, foldl_ok]

theorem cmdStatus_keeps {s0 : State} {ps : List Region} (s : State) (h_s : Keeps s0 s ps) (m_chain : Region.chain ∈
    ps) : Keeps s0 (cmdStatus s) ps := by
  unfold cmdStatus
  grind [foldl_keeps', State.takeCmd_keeps, State.result_keeps]

theorem execCmdStatus_ok (s : State) (h_s : s.Ok) : ∀ x, (execCmdStatus s) = .next x → x.Ok := by
  unfold execCmdStatus
  grind [State.Ok, foldl_ok, State.onCore_ok, cmdStatus_ok]

theorem execCmdStatus_keeps {s0 : State} {ps : List Region} (s : State) (h_s : Keeps s0 s ps) (m_chain : Region.chain
    ∈ ps) : ∀ x, (execCmdStatus s) = .next x → Keeps s0 x ps := by
  unfold execCmdStatus
  grind [foldl_keeps', State.onCore_keeps, cmdStatus_keeps]

theorem trainD2d_ok (s : State) (h_s : s.Ok) : (trainD2d s).Ok := by
  unfold trainD2d
  repeat' split
  all_goals grind [State.Ok, State.takeCmd_ok, State.modPkg_ok, State.answerD2d_ok, State.trainPort_ok, foldl_ok]

theorem trainD2d_keeps {s0 : State} {ps : List Region} (s : State) (h_s : Keeps s0 s ps) (m_ring : Region.ring ∈ ps)
    (m_chain : Region.chain ∈ ps) (m_pkg : Region.pkg ∈ ps) : Keeps s0 (trainD2d s) ps := by
  unfold trainD2d
  grind [foldl_keeps', State.takeCmd_keeps, State.modPkg_keeps, State.answerD2d_keeps, State.trainPort_keeps]

theorem execTrainD2d_ok (s : State) (h_s : s.Ok) : ∀ x, (execTrainD2d s) = .next x → x.Ok := by
  unfold execTrainD2d
  grind [State.Ok, foldl_ok, State.onCore_ok, trainD2d_ok]

theorem execTrainD2d_keeps {s0 : State} {ps : List Region} (s : State) (h_s : Keeps s0 s ps) (m_ring : Region.ring ∈
    ps) (m_chain : Region.chain ∈ ps) (m_pkg : Region.pkg ∈ ps) : ∀ x, (execTrainD2d s) = .next x → Keeps s0 x ps :=
    by
  unfold execTrainD2d
  grind [foldl_keeps', State.onCore_keeps, trainD2d_keeps]

theorem retrainD2d_ok (s : State) (h_s : s.Ok) : (retrainD2d s).Ok := by
  unfold retrainD2d
  grind [State.Ok, foldl_ok, State.answerD2d_ok, State.linkDown_ok, State.modPkg_ok, State.takeCmd_ok,
    State.trainPort_ok]

theorem retrainD2d_keeps {s0 : State} {ps : List Region} (s : State) (h_s : Keeps s0 s ps) (m_free : Region.free ∈ ps)
    (m_paths : Region.paths ∈ ps) (m_ring : Region.ring ∈ ps) (m_chain : Region.chain ∈ ps) (m_pkg : Region.pkg ∈ ps)
    (m_tags : Region.tags ∈ ps) (m_rmt : Region.rmt ∈ ps) (m_inj : Region.inj ∈ ps) : Keeps s0 (retrainD2d s) ps := by
  unfold retrainD2d
  grind [foldl_keeps', State.answerD2d_keeps, State.linkDown_keeps, State.modPkg_keeps, State.takeCmd_keeps,
    State.trainPort_keeps]

theorem execRetrainD2d_ok (s : State) (h_s : s.Ok) : ∀ x, (execRetrainD2d s) = .next x → x.Ok := by
  unfold execRetrainD2d
  grind [State.Ok, foldl_ok, State.onCore_ok, retrainD2d_ok]

theorem execRetrainD2d_keeps {s0 : State} {ps : List Region} (s : State) (h_s : Keeps s0 s ps) (m_free : Region.free ∈
    ps) (m_paths : Region.paths ∈ ps) (m_ring : Region.ring ∈ ps) (m_chain : Region.chain ∈ ps) (m_pkg : Region.pkg ∈
    ps) (m_tags : Region.tags ∈ ps) (m_rmt : Region.rmt ∈ ps) (m_inj : Region.inj ∈ ps) : ∀ x, (execRetrainD2d s) =
    .next x → Keeps s0 x ps := by
  unfold execRetrainD2d
  grind [foldl_keeps', State.onCore_keeps, retrainD2d_keeps]

theorem resetCores_ok (s : State) (h_s : s.Ok) : (resetCores s).Ok := by
  unfold resetCores
  repeat' split
  all_goals grind [State.Ok, State.takeCmd_ok, resetAllCores_ok, State.result_ok, foldl_ok]

theorem execResetCores_ok (s : State) (h_s : s.Ok) : ∀ x, (execResetCores s) = .next x → x.Ok := by
  unfold execResetCores
  grind [State.Ok, foldl_ok, State.onCore_ok, resetCores_ok]

theorem reservedCommand_ok (s : State) (h_s : s.Ok) : (reservedCommand s).Ok := by
  unfold reservedCommand
  repeat' split
  all_goals grind [State.Ok, State.takeWord_ok, State.result_ok, foldl_ok]

theorem reservedCommand_keeps {s0 : State} {ps : List Region} (s : State) (h_s : Keeps s0 s ps) (m_chain :
    Region.chain ∈ ps) : Keeps s0 (reservedCommand s) ps := by
  unfold reservedCommand
  grind [foldl_keeps', State.takeWord_keeps, State.result_keeps]

theorem execReservedChainCommand_ok (s : State) (h_s : s.Ok) : ∀ x, (execReservedChainCommand s) = .next x → x.Ok :=
    by
  unfold execReservedChainCommand
  grind [State.Ok, foldl_ok, State.onCore_ok, reservedCommand_ok]

theorem execReservedChainCommand_keeps {s0 : State} {ps : List Region} (s : State) (h_s : Keeps s0 s ps) (m_chain :
    Region.chain ∈ ps) : ∀ x, (execReservedChainCommand s) = .next x → Keeps s0 x ps := by
  unfold execReservedChainCommand
  grind [foldl_keeps', State.onCore_keeps, reservedCommand_keeps]

theorem State.headCommand_ok (s : State) (code : Nat) (arg : Nat) (h_s : s.Ok) : (State.headCommand s code arg).Ok :=
    by
  unfold State.headCommand
  grind [State.Ok, foldl_ok, State.chainDown_ok, State.modChain_ok]

theorem State.headCommand_keeps {s0 : State} {ps : List Region} (s : State) (code : Nat) (arg : Nat) (h_s : Keeps s0 s
    ps) (m_pins : Region.pins ∈ ps) (m_chain : Region.chain ∈ ps) : Keeps s0 (State.headCommand s code arg) ps := by
  unfold State.headCommand
  grind [foldl_keeps', State.chainDown_keeps, State.modChain_keeps]

theorem State.sendTrainStack_ok (s : State) (h_s : s.Ok) : (State.sendTrainStack s).Ok := by
  unfold State.sendTrainStack
  grind [State.Ok, foldl_ok, State.headCommand_ok, State.modPkg_ok]

theorem State.sendTrainStack_keeps {s0 : State} {ps : List Region} (s : State) (h_s : Keeps s0 s ps) (m_pins :
    Region.pins ∈ ps) (m_chain : Region.chain ∈ ps) (m_pkg : Region.pkg ∈ ps) : Keeps s0 (State.sendTrainStack s) ps
    := by
  unfold State.sendTrainStack
  grind [foldl_keeps', State.headCommand_keeps, State.modPkg_keeps]

theorem State.headDuty_ok (s : State) (h_s : s.Ok) : (State.headDuty s).Ok := by
  unfold State.headDuty
  grind [State.Ok, foldl_ok, State.headCommand_ok, State.modPkg_ok, State.sendTrainStack_ok]

theorem State.headDuty_keeps {s0 : State} {ps : List Region} (s : State) (h_s : Keeps s0 s ps) (m_pins : Region.pins ∈
    ps) (m_chain : Region.chain ∈ ps) (m_pkg : Region.pkg ∈ ps) : Keeps s0 (State.headDuty s) ps := by
  unfold State.headDuty
  grind [foldl_keeps', State.headCommand_keeps, State.modPkg_keeps, State.sendTrainStack_keeps]

theorem resultWord_ok (s : State) (h_s : s.Ok) : (resultWord s).Ok := by
  unfold resultWord
  grind [State.Ok, foldl_ok, State.captainDuty_ok, State.headDuty_ok, State.modPkg_ok, State.takeKind_ok]

theorem resultWord_keeps {s0 : State} {ps : List Region} (s : State) (h_s : Keeps s0 s ps) (m_pins : Region.pins ∈ ps)
    (m_ring : Region.ring ∈ ps) (m_chain : Region.chain ∈ ps) (m_pkg : Region.pkg ∈ ps) : Keeps s0 (resultWord s) ps
    := by
  unfold resultWord
  grind [foldl_keeps', State.captainDuty_keeps, State.headDuty_keeps, State.modPkg_keeps, State.takeKind_keeps]

theorem execResult_ok (s : State) (h_s : s.Ok) : ∀ x, (execResult s) = .next x → x.Ok := by
  unfold execResult
  grind [State.Ok, foldl_ok, State.onCore_ok, resultWord_ok]

theorem execResult_keeps {s0 : State} {ps : List Region} (s : State) (h_s : Keeps s0 s ps) (m_pins : Region.pins ∈ ps)
    (m_ring : Region.ring ∈ ps) (m_chain : Region.chain ∈ ps) (m_pkg : Region.pkg ∈ ps) : ∀ x, (execResult s) = .next
    x → Keeps s0 x ps := by
  unfold execResult
  grind [foldl_keeps', State.onCore_keeps, resultWord_keeps]

theorem beat_ok (s : State) (h_s : s.Ok) : (beat s).Ok := by
  unfold beat
  split
  · rename_i w t h
    have ht : t.Ok := by
      rcases h1 : s.takeKind true 8 with _ | ⟨a, b⟩ <;> simp_all [Option.or] <;> grind [State.takeKind_ok]
    exact State.adopt_ok _ _ _ _ (State.heardChain_ok _ _ ht) 
  · assumption

theorem beat_keeps {s0 : State} {ps : List Region} (s : State) (h_s : Keeps s0 s ps) (m_ring : Region.ring ∈ ps)
    (m_chain : Region.chain ∈ ps) (m_pkg : Region.pkg ∈ ps) (m_inj : Region.inj ∈ ps) : Keeps s0 (beat s) ps := by
  unfold beat
  split
  · rename_i w t h
    have ht : Keeps s0 t ps := by
      rcases h1 : s.takeKind true 8 with _ | ⟨a, b⟩ <;> simp_all [Option.or] <;> grind [State.takeKind_keeps]
    exact State.adopt_keeps _ _ _ _ (State.heardChain_keeps _ _ ht (by assumption)) (by assumption) (by assumption) (by assumption)
  · assumption

theorem execBeat_ok (s : State) (h_s : s.Ok) : ∀ x, (execBeat s) = .next x → x.Ok := by
  unfold execBeat
  grind [State.Ok, foldl_ok, State.onCore_ok, beat_ok]

theorem execBeat_keeps {s0 : State} {ps : List Region} (s : State) (h_s : Keeps s0 s ps) (m_ring : Region.ring ∈ ps)
    (m_chain : Region.chain ∈ ps) (m_pkg : Region.pkg ∈ ps) (m_inj : Region.inj ∈ ps) : ∀ x, (execBeat s) = .next x →
    Keeps s0 x ps := by
  unfold execBeat
  grind [foldl_keeps', State.onCore_keeps, beat_keeps]

theorem State.relayed_ok (s : State) (parts : List Nat) (h_s : s.Ok) : (State.relayed s parts).Ok := by
  unfold State.relayed
  grind [State.Ok, foldl_ok, State.heardChain_ok, State.modRing_ok]

theorem State.relayed_keeps {s0 : State} {ps : List Region} (s : State) (parts : List Nat) (h_s : Keeps s0 s ps)
    (m_ring : Region.ring ∈ ps) (m_pkg : Region.pkg ∈ ps) : Keeps s0 (State.relayed s parts) ps := by
  unfold State.relayed
  grind [foldl_keeps', State.heardChain_keeps, State.modRing_keeps]

theorem relay_ok (s : State) (h_s : s.Ok) : (relay s).Ok := by
  unfold relay
  grind [State.Ok, foldl_ok, State.modChain_ok, State.relayed_ok, State.takeKind_ok]

theorem relay_keeps {s0 : State} {ps : List Region} (s : State) (h_s : Keeps s0 s ps) (m_ring : Region.ring ∈ ps)
    (m_chain : Region.chain ∈ ps) (m_pkg : Region.pkg ∈ ps) : Keeps s0 (relay s) ps := by
  unfold relay
  grind [foldl_keeps', State.modChain_keeps, State.relayed_keeps, State.takeKind_keeps]

theorem execRelay_ok (s : State) (h_s : s.Ok) : ∀ x, (execRelay s) = .next x → x.Ok := by
  unfold execRelay
  grind [State.Ok, foldl_ok, State.onCore_ok, relay_ok]

theorem execRelay_keeps {s0 : State} {ps : List Region} (s : State) (h_s : Keeps s0 s ps) (m_ring : Region.ring ∈ ps)
    (m_chain : Region.chain ∈ ps) (m_pkg : Region.pkg ∈ ps) : ∀ x, (execRelay s) = .next x → Keeps s0 x ps := by
  unfold execRelay
  grind [foldl_keeps', State.onCore_keeps, relay_keeps]

theorem State.sendRelay_ok (s : State) (dst : Nat) (b : List Byte) (h_s : s.Ok) : (State.sendRelay s dst b).Ok := by
  unfold State.sendRelay
  grind [State.Ok, foldl_ok, State.chainDown_ok, State.chainUp_ok]

theorem State.sendRelay_keeps {s0 : State} {ps : List Region} (s : State) (dst : Nat) (b : List Byte) (h_s : Keeps s0
    s ps) (m_pins : Region.pins ∈ ps) (m_chain : Region.chain ∈ ps) : Keeps s0 (State.sendRelay s dst b) ps := by
  unfold State.sendRelay
  grind [foldl_keeps', State.chainDown_keeps, State.chainUp_keeps]

theorem State.takeEligibility_ok (s : State) (h_s : s.Ok) : (State.takeEligibility s).Ok := by
  unfold State.takeEligibility
  grind [State.Ok, foldl_ok, State.noteEligible_ok, State.modRing_ok]

theorem State.takeEligibility_keeps {s0 : State} {ps : List Region} (s : State) (h_s : Keeps s0 s ps) (m_ring :
    Region.ring ∈ ps) (m_pkg : Region.pkg ∈ ps) : Keeps s0 (State.takeEligibility s) ps := by
  unfold State.takeEligibility
  grind [foldl_keeps', State.noteEligible_keeps, State.modRing_keeps]

theorem State.choose_ok (s : State) (h_s : s.Ok) : (State.choose s).Ok := by
  unfold State.choose
  grind [State.Ok, foldl_ok, State.becomeCaptain_ok, State.logRec_ok, State.modPkg_ok, State.setRoles_ok]

theorem State.choose_keeps {s0 : State} {ps : List Region} (s : State) (h_s : Keeps s0 s ps) (m_pins : Region.pins ∈
    ps) (m_inbox : Region.inbox ∈ ps) (m_ring : Region.ring ∈ ps) (m_chain : Region.chain ∈ ps) (m_pkg : Region.pkg ∈
    ps) (m_inj : Region.inj ∈ ps) : Keeps s0 (State.choose s) ps := by
  unfold State.choose
  grind [foldl_keeps', State.becomeCaptain_keeps, State.logRec_keeps, State.modPkg_keeps, State.setRoles_keeps]

theorem election_ok (s : State) (h_s : s.Ok) : (election s).Ok := by
  unfold election
  grind [State.Ok, foldl_ok, State.broadcast_ok, State.choose_ok, State.modPkg_ok, State.setPhase_ok,
    State.takeEligibility_ok]

theorem election_keeps {s0 : State} {ps : List Region} (s : State) (h_s : Keeps s0 s ps) (m_pins : Region.pins ∈ ps)
    (m_inbox : Region.inbox ∈ ps) (m_ring : Region.ring ∈ ps) (m_chain : Region.chain ∈ ps) (m_pkg : Region.pkg ∈ ps)
    (m_inj : Region.inj ∈ ps) : Keeps s0 (election s) ps := by
  unfold election
  grind [foldl_keeps', State.broadcast_keeps, State.choose_keeps, State.modPkg_keeps, State.setPhase_keeps,
    State.takeEligibility_keeps]

theorem execElection_ok (s : State) (h_s : s.Ok) : ∀ x, (execElection s) = .next x → x.Ok := by
  unfold execElection
  grind [State.Ok, foldl_ok, State.onCore_ok, election_ok]

theorem execElection_keeps {s0 : State} {ps : List Region} (s : State) (h_s : Keeps s0 s ps) (m_pins : Region.pins ∈
    ps) (m_inbox : Region.inbox ∈ ps) (m_ring : Region.ring ∈ ps) (m_chain : Region.chain ∈ ps) (m_pkg : Region.pkg ∈
    ps) (m_inj : Region.inj ∈ ps) : ∀ x, (execElection s) = .next x → Keeps s0 x ps := by
  unfold execElection
  grind [foldl_keeps', State.onCore_keeps, election_keeps]

theorem electionTimeout_ok (s : State) (h_s : s.Ok) : (electionTimeout s).Ok := by
  unfold electionTimeout
  grind [State.Ok, foldl_ok, State.choose_ok, State.takeEligibility_ok]

theorem electionTimeout_keeps {s0 : State} {ps : List Region} (s : State) (h_s : Keeps s0 s ps) (m_pins : Region.pins
    ∈ ps) (m_inbox : Region.inbox ∈ ps) (m_ring : Region.ring ∈ ps) (m_chain : Region.chain ∈ ps) (m_pkg : Region.pkg
    ∈ ps) (m_inj : Region.inj ∈ ps) : Keeps s0 (electionTimeout s) ps := by
  unfold electionTimeout
  grind [foldl_keeps', State.choose_keeps, State.takeEligibility_keeps]

theorem execElectionTimeout_ok (s : State) (h_s : s.Ok) : ∀ x, (execElectionTimeout s) = .next x → x.Ok := by
  unfold execElectionTimeout
  grind [State.Ok, foldl_ok, State.onCore_ok, electionTimeout_ok]

theorem execElectionTimeout_keeps {s0 : State} {ps : List Region} (s : State) (h_s : Keeps s0 s ps) (m_pins :
    Region.pins ∈ ps) (m_inbox : Region.inbox ∈ ps) (m_ring : Region.ring ∈ ps) (m_chain : Region.chain ∈ ps) (m_pkg :
    Region.pkg ∈ ps) (m_inj : Region.inj ∈ ps) : ∀ x, (execElectionTimeout s) = .next x → Keeps s0 x ps := by
  unfold execElectionTimeout
  grind [foldl_keeps', State.onCore_keeps, electionTimeout_keeps]

theorem heartbeatSend_ok (s : State) (h_s : s.Ok) : (heartbeatSend s).Ok := by
  unfold heartbeatSend
  grind [State.Ok, foldl_ok, State.sendBeat_ok, State.setRoles_ok]

theorem heartbeatSend_keeps {s0 : State} {ps : List Region} (s : State) (h_s : Keeps s0 s ps) (m_pins : Region.pins ∈
    ps) (m_ring : Region.ring ∈ ps) (m_chain : Region.chain ∈ ps) (m_pkg : Region.pkg ∈ ps) (m_inj : Region.inj ∈ ps)
    : Keeps s0 (heartbeatSend s) ps := by
  unfold heartbeatSend
  grind [foldl_keeps', State.sendBeat_keeps, State.setRoles_keeps]

theorem execHeartbeatSend_ok (s : State) (h_s : s.Ok) : ∀ x, (execHeartbeatSend s) = .next x → x.Ok := by
  unfold execHeartbeatSend
  grind [State.Ok, foldl_ok, State.onCore_ok, heartbeatSend_ok]

theorem execHeartbeatSend_keeps {s0 : State} {ps : List Region} (s : State) (h_s : Keeps s0 s ps) (m_pins :
    Region.pins ∈ ps) (m_ring : Region.ring ∈ ps) (m_chain : Region.chain ∈ ps) (m_pkg : Region.pkg ∈ ps) (m_inj :
    Region.inj ∈ ps) : ∀ x, (execHeartbeatSend s) = .next x → Keeps s0 x ps := by
  unfold execHeartbeatSend
  grind [foldl_keeps', State.onCore_keeps, heartbeatSend_keeps]

theorem heartbeatReceive_ok (s : State) (h_s : s.Ok) : (heartbeatReceive s).Ok := by
  unfold heartbeatReceive
  grind [State.Ok, foldl_ok, State.adopt_ok, State.modRing_ok]

theorem heartbeatReceive_keeps {s0 : State} {ps : List Region} (s : State) (h_s : Keeps s0 s ps) (m_ring : Region.ring
    ∈ ps) (m_pkg : Region.pkg ∈ ps) (m_inj : Region.inj ∈ ps) : Keeps s0 (heartbeatReceive s) ps := by
  unfold heartbeatReceive
  grind [foldl_keeps', State.adopt_keeps, State.modRing_keeps]

theorem execCaptainHeartbeatReceive_ok (s : State) (h_s : s.Ok) : ∀ x, (execCaptainHeartbeatReceive s) = .next x →
    x.Ok := by
  unfold execCaptainHeartbeatReceive
  grind [State.Ok, foldl_ok, State.onCore_ok, heartbeatReceive_ok]

theorem execCaptainHeartbeatReceive_keeps {s0 : State} {ps : List Region} (s : State) (h_s : Keeps s0 s ps) (m_ring :
    Region.ring ∈ ps) (m_pkg : Region.pkg ∈ ps) (m_inj : Region.inj ∈ ps) : ∀ x, (execCaptainHeartbeatReceive s) =
    .next x → Keeps s0 x ps := by
  unfold execCaptainHeartbeatReceive
  grind [foldl_keeps', State.onCore_keeps, heartbeatReceive_keeps]

theorem State.forgetSilent_ok (s : State) (h_s : s.Ok) : (State.forgetSilent s).Ok := by
  unfold State.forgetSilent
  grind [State.Ok, foldl_ok, State.modPkg_ok]

theorem State.forgetSilent_keeps {s0 : State} {ps : List Region} (s : State) (h_s : Keeps s0 s ps) (m_pkg : Region.pkg
    ∈ ps) : Keeps s0 (State.forgetSilent s) ps := by
  unfold State.forgetSilent
  grind [foldl_keeps', State.modPkg_keeps]

theorem silenceExpiry_ok (s : State) (h_s : s.Ok) : (silenceExpiry s).Ok := by
  unfold silenceExpiry
  grind [State.Ok, foldl_ok, State.becomeCaptain_ok, State.forgetSilent_ok, State.logRec_ok]

theorem silenceExpiry_keeps {s0 : State} {ps : List Region} (s : State) (h_s : Keeps s0 s ps) (m_pins : Region.pins ∈
    ps) (m_inbox : Region.inbox ∈ ps) (m_ring : Region.ring ∈ ps) (m_chain : Region.chain ∈ ps) (m_pkg : Region.pkg ∈
    ps) (m_inj : Region.inj ∈ ps) : Keeps s0 (silenceExpiry s) ps := by
  unfold silenceExpiry
  grind [foldl_keeps', State.becomeCaptain_keeps, State.forgetSilent_keeps, State.logRec_keeps]

theorem execCaptainSilenceExpiry_ok (s : State) (h_s : s.Ok) : ∀ x, (execCaptainSilenceExpiry s) = .next x → x.Ok :=
    by
  unfold execCaptainSilenceExpiry
  grind [State.Ok, foldl_ok, State.onCore_ok, silenceExpiry_ok]

theorem execCaptainSilenceExpiry_keeps {s0 : State} {ps : List Region} (s : State) (h_s : Keeps s0 s ps) (m_pins :
    Region.pins ∈ ps) (m_inbox : Region.inbox ∈ ps) (m_ring : Region.ring ∈ ps) (m_chain : Region.chain ∈ ps) (m_pkg :
    Region.pkg ∈ ps) (m_inj : Region.inj ∈ ps) : ∀ x, (execCaptainSilenceExpiry s) = .next x → Keeps s0 x ps := by
  unfold execCaptainSilenceExpiry
  grind [foldl_keeps', State.onCore_keeps, silenceExpiry_keeps]

theorem handover_ok (s : State) (h_s : s.Ok) : (handover s).Ok := by
  unfold handover
  grind [State.Ok, foldl_ok, State.startHandover_ok]

theorem handover_keeps {s0 : State} {ps : List Region} (s : State) (h_s : Keeps s0 s ps) (m_ring : Region.ring ∈ ps)
    (m_pkg : Region.pkg ∈ ps) (m_inj : Region.inj ∈ ps) : Keeps s0 (handover s) ps := by
  unfold handover
  grind [foldl_keeps', State.startHandover_keeps]

theorem execHandover_ok (s : State) (h_s : s.Ok) : ∀ x, (execHandover s) = .next x → x.Ok := by
  unfold execHandover
  grind [State.Ok, foldl_ok, State.onCore_ok, handover_ok]

theorem execHandover_keeps {s0 : State} {ps : List Region} (s : State) (h_s : Keeps s0 s ps) (m_ring : Region.ring ∈
    ps) (m_pkg : Region.pkg ∈ ps) (m_inj : Region.inj ∈ ps) : ∀ x, (execHandover s) = .next x → Keeps s0 x ps := by
  unfold execHandover
  grind [foldl_keeps', State.onCore_keeps, handover_keeps]

theorem handoverAck_ok (s : State) (h_s : s.Ok) : (handoverAck s).Ok := by
  unfold handoverAck
  grind [State.Ok, foldl_ok, State.adopt_ok, State.becomeCaptain_ok, State.cause_ok, State.logRec_ok, State.modPkg_ok,
    State.modRing_ok, State.sendCtl_ok, handover_ok]

theorem handoverAck_keeps {s0 : State} {ps : List Region} (s : State) (h_s : Keeps s0 s ps) (m_pins : Region.pins ∈
    ps) (m_inbox : Region.inbox ∈ ps) (m_ring : Region.ring ∈ ps) (m_chain : Region.chain ∈ ps) (m_pkg : Region.pkg ∈
    ps) (m_inj : Region.inj ∈ ps) : Keeps s0 (handoverAck s) ps := by
  unfold handoverAck
  grind [foldl_keeps', State.adopt_keeps, State.becomeCaptain_keeps, State.cause_keeps, State.logRec_keeps,
    State.modPkg_keeps, State.modRing_keeps, State.sendCtl_keeps, handover_keeps]

theorem execHandoverAck_ok (s : State) (h_s : s.Ok) : ∀ x, (execHandoverAck s) = .next x → x.Ok := by
  unfold execHandoverAck
  grind [State.Ok, foldl_ok, State.onCore_ok, handoverAck_ok]

theorem execHandoverAck_keeps {s0 : State} {ps : List Region} (s : State) (h_s : Keeps s0 s ps) (m_pins : Region.pins
    ∈ ps) (m_inbox : Region.inbox ∈ ps) (m_ring : Region.ring ∈ ps) (m_chain : Region.chain ∈ ps) (m_pkg : Region.pkg
    ∈ ps) (m_inj : Region.inj ∈ ps) : ∀ x, (execHandoverAck s) = .next x → Keeps s0 x ps := by
  unfold execHandoverAck
  grind [foldl_keeps', State.onCore_keeps, handoverAck_keeps]

theorem handoverTimeout_ok (s : State) (h_s : s.Ok) : (handoverTimeout s).Ok := by
  unfold handoverTimeout
  grind [State.Ok, foldl_ok, State.logRec_ok, State.modPkg_ok]

theorem handoverTimeout_keeps {s0 : State} {ps : List Region} (s : State) (h_s : Keeps s0 s ps) (m_inbox :
    Region.inbox ∈ ps) (m_pkg : Region.pkg ∈ ps) : Keeps s0 (handoverTimeout s) ps := by
  unfold handoverTimeout
  grind [foldl_keeps', State.logRec_keeps, State.modPkg_keeps]

theorem execHandoverTimeout_ok (s : State) (h_s : s.Ok) : ∀ x, (execHandoverTimeout s) = .next x → x.Ok := by
  unfold execHandoverTimeout
  grind [State.Ok, foldl_ok, State.onCore_ok, handoverTimeout_ok]

theorem execHandoverTimeout_keeps {s0 : State} {ps : List Region} (s : State) (h_s : Keeps s0 s ps) (m_inbox :
    Region.inbox ∈ ps) (m_pkg : Region.pkg ∈ ps) : ∀ x, (execHandoverTimeout s) = .next x → Keeps s0 x ps := by
  unfold execHandoverTimeout
  grind [foldl_keeps', State.onCore_keeps, handoverTimeout_keeps]

theorem State.report_ok (s : State) (dst : Nat) (c : Ctl) (b : List Byte) (ring : Bool) (chain : Bool) (h_s : s.Ok) :
    (State.report s dst c b ring chain).Ok := by
  unfold State.report
  grind [State.Ok, foldl_ok, State.sendCtl_ok, State.sendRelay_ok]

theorem State.report_keeps {s0 : State} {ps : List Region} (s : State) (dst : Nat) (c : Ctl) (b : List Byte) (ring :
    Bool) (chain : Bool) (h_s : Keeps s0 s ps) (m_pins : Region.pins ∈ ps) (m_ring : Region.ring ∈ ps) (m_chain :
    Region.chain ∈ ps) (m_inj : Region.inj ∈ ps) : Keeps s0 (State.report s dst c b ring chain) ps := by
  unfold State.report
  grind [foldl_keeps', State.sendCtl_keeps, State.sendRelay_keeps]

theorem telemetrySend_ok (s : State) (h_s : s.Ok) : (telemetrySend s).Ok := by
  unfold telemetrySend
  split
  · assumption
  · exact State.modPkg_ok _ _ (foldl_ok (fun t d ht => State.report_ok _ _ _ _ _ _ ht) _ h_s)

theorem telemetrySend_keeps {s0 : State} {ps : List Region} (s : State) (h_s : Keeps s0 s ps) (m_pins : Region.pins ∈
    ps) (m_ring : Region.ring ∈ ps) (m_chain : Region.chain ∈ ps) (m_pkg : Region.pkg ∈ ps) (m_inj : Region.inj ∈ ps)
    : Keeps s0 (telemetrySend s) ps := by
  unfold telemetrySend
  split
  · assumption
  · exact State.modPkg_keeps _ _ (foldl_keeps' (fun t d ht => State.report_keeps _ _ _ _ _ _ ht (by assumption)
      (by assumption) (by assumption) (by assumption)) _ h_s) (by assumption)

theorem execTelemetrySend_ok (s : State) (h_s : s.Ok) : ∀ x, (execTelemetrySend s) = .next x → x.Ok := by
  unfold execTelemetrySend
  grind [State.Ok, foldl_ok, State.onCore_ok, telemetrySend_ok]

theorem execTelemetrySend_keeps {s0 : State} {ps : List Region} (s : State) (h_s : Keeps s0 s ps) (m_pins :
    Region.pins ∈ ps) (m_ring : Region.ring ∈ ps) (m_chain : Region.chain ∈ ps) (m_pkg : Region.pkg ∈ ps) (m_inj :
    Region.inj ∈ ps) : ∀ x, (execTelemetrySend s) = .next x → Keeps s0 x ps := by
  unfold execTelemetrySend
  grind [foldl_keeps', State.onCore_keeps, telemetrySend_keeps]

theorem telemetryReceive_ok (s : State) (h_s : s.Ok) : (telemetryReceive s).Ok := by
  unfold telemetryReceive
  grind [State.Ok, foldl_ok, State.modRing_ok, State.noteEligible_ok, State.modPkg_ok]

theorem telemetryReceive_keeps {s0 : State} {ps : List Region} (s : State) (h_s : Keeps s0 s ps) (m_ring : Region.ring
    ∈ ps) (m_pkg : Region.pkg ∈ ps) : Keeps s0 (telemetryReceive s) ps := by
  unfold telemetryReceive
  grind [foldl_keeps', State.modRing_keeps, State.noteEligible_keeps, State.modPkg_keeps]

theorem execTelemetryReceive_ok (s : State) (h_s : s.Ok) : ∀ x, (execTelemetryReceive s) = .next x → x.Ok := by
  unfold execTelemetryReceive
  grind [State.Ok, foldl_ok, State.onCore_ok, telemetryReceive_ok]

theorem execTelemetryReceive_keeps {s0 : State} {ps : List Region} (s : State) (h_s : Keeps s0 s ps) (m_ring :
    Region.ring ∈ ps) (m_pkg : Region.pkg ∈ ps) : ∀ x, (execTelemetryReceive s) = .next x → Keeps s0 x ps := by
  unfold execTelemetryReceive
  grind [foldl_keeps', State.onCore_keeps, telemetryReceive_keeps]

theorem budgetBalance_ok (s : State) (h_s : s.Ok) : (budgetBalance s).Ok := by
  unfold budgetBalance
  grind [State.Ok, foldl_ok, State.modPkg_ok, State.setBudget_ok, State.sendCtl_ok]

theorem budgetBalance_keeps {s0 : State} {ps : List Region} (s : State) (h_s : Keeps s0 s ps) (m_ring : Region.ring ∈
    ps) (m_pkg : Region.pkg ∈ ps) (m_inj : Region.inj ∈ ps) : Keeps s0 (budgetBalance s) ps := by
  unfold budgetBalance
  grind [foldl_keeps', State.modPkg_keeps, State.setBudget_keeps, State.sendCtl_keeps]

theorem execBudgetBalance_ok (s : State) (h_s : s.Ok) : ∀ x, (execBudgetBalance s) = .next x → x.Ok := by
  unfold execBudgetBalance
  grind [State.Ok, foldl_ok, State.onCore_ok, budgetBalance_ok]

theorem execBudgetBalance_keeps {s0 : State} {ps : List Region} (s : State) (h_s : Keeps s0 s ps) (m_ring :
    Region.ring ∈ ps) (m_pkg : Region.pkg ∈ ps) (m_inj : Region.inj ∈ ps) : ∀ x, (execBudgetBalance s) = .next x →
    Keeps s0 x ps := by
  unfold execBudgetBalance
  grind [foldl_keeps', State.onCore_keeps, budgetBalance_keeps]

theorem State.setRange_ok (s : State) (i : Nat) (base : Nat) (ranks : Nat) (valid : Bool) (h_s : s.Ok) :
    (State.setRange s i base ranks valid).Ok := by
  unfold State.setRange
  grind [State.Ok, foldl_ok, State.applyRange_ok, State.broadcast_ok]

theorem State.setRange_keeps {s0 : State} {ps : List Region} (s : State) (i : Nat) (base : Nat) (ranks : Nat) (valid :
    Bool) (h_s : Keeps s0 s ps) (m_inbox : Region.inbox ∈ ps) (m_ring : Region.ring ∈ ps) (m_chain : Region.chain ∈
    ps) (m_pkg : Region.pkg ∈ ps) (m_inj : Region.inj ∈ ps) : Keeps s0 (State.setRange s i base ranks valid) ps := by
  unfold State.setRange
  grind [foldl_keeps', State.applyRange_keeps, State.broadcast_keeps]

theorem instanceLost_ok (k : Fin 16) (s : State) (h_s : s.Ok) : (instanceLost k s).Ok := by
  unfold instanceLost
  grind [State.Ok, foldl_ok, State.captainDuty_ok, State.logRec_ok, State.modPkg_ok, State.noteEligible_ok,
    State.setRange_ok]

theorem instanceLost_keeps {s0 : State} {ps : List Region} (k : Fin 16) (s : State) (h_s : Keeps s0 s ps) (m_pins :
    Region.pins ∈ ps) (m_inbox : Region.inbox ∈ ps) (m_ring : Region.ring ∈ ps) (m_chain : Region.chain ∈ ps) (m_pkg :
    Region.pkg ∈ ps) (m_inj : Region.inj ∈ ps) : Keeps s0 (instanceLost k s) ps := by
  unfold instanceLost
  grind [foldl_keeps', State.captainDuty_keeps, State.logRec_keeps, State.modPkg_keeps, State.noteEligible_keeps,
    State.setRange_keeps]

theorem execInstanceLost_ok (k : Fin 16) (s : State) (h_s : s.Ok) : ∀ x, (execInstanceLost k s) = .next x → x.Ok := by
  unfold execInstanceLost
  grind [State.Ok, foldl_ok, State.onCore_ok, instanceLost_ok]

theorem execInstanceLost_keeps {s0 : State} {ps : List Region} (k : Fin 16) (s : State) (h_s : Keeps s0 s ps) (m_pins
    : Region.pins ∈ ps) (m_inbox : Region.inbox ∈ ps) (m_ring : Region.ring ∈ ps) (m_chain : Region.chain ∈ ps) (m_pkg
    : Region.pkg ∈ ps) (m_inj : Region.inj ∈ ps) : ∀ x, (execInstanceLost k s) = .next x → Keeps s0 x ps := by
  unfold execInstanceLost
  grind [foldl_keeps', State.onCore_keeps, instanceLost_keeps]

theorem State.holdFor_ok (s : State) (rank : Nat) (h_s : s.Ok) : (State.holdFor s rank).Ok := by
  unfold State.holdFor
  grind [State.Ok, foldl_ok, State.cause_ok, State.loseRank_ok, State.modPkg_ok, State.setRank_ok, State.setRedir_ok,
    State.wr64_ok]

theorem State.holdFor_keeps {s0 : State} {ps : List Region} (s : State) (rank : Nat) (h_s : Keeps s0 s ps) (m_stack :
    Region.stack ∈ ps) (m_inbox : Region.inbox ∈ ps) (m_pkg : Region.pkg ∈ ps) : Keeps s0 (State.holdFor s rank) ps :=
    by
  unfold State.holdFor
  grind [foldl_keeps', State.cause_keeps, State.loseRank_keeps, State.modPkg_keeps, State.setRank_keeps,
    State.setRedir_keeps, State.wr64_keeps]

theorem State.bindAway_ok (s : State) (rank : Nat) (h_s : s.Ok) : (State.bindAway s rank).Ok := by
  unfold State.bindAway
  grind [State.Ok, foldl_ok, State.cause_ok, State.holdFor_ok, State.pickTarget_ok, State.setRank_ok,
    State.setRedir_ok]

theorem State.bindAway_keeps {s0 : State} {ps : List Region} (s : State) (rank : Nat) (h_s : Keeps s0 s ps) (m_stack :
    Region.stack ∈ ps) (m_tests : Region.tests ∈ ps) (m_inbox : Region.inbox ∈ ps) (m_pkg : Region.pkg ∈ ps) : Keeps
    s0 (State.bindAway s rank) ps := by
  unfold State.bindAway
  grind [foldl_keeps', State.cause_keeps, State.holdFor_keeps, State.pickTarget_keeps, State.setRank_keeps,
    State.setRedir_keeps]

theorem State.replayRedir_ok (s : State) (e : Nat) (w : Nat) (h_s : s.Ok) : (State.replayRedir s e w).Ok := by
  unfold State.replayRedir
  grind [State.Ok, foldl_ok, State.wr64_ok, State.setRank_ok, State.setRedir_ok]

theorem State.replayRedir_keeps {s0 : State} {ps : List Region} (s : State) (e : Nat) (w : Nat) (h_s : Keeps s0 s ps)
    : Keeps s0 (State.replayRedir s e w) ps := by
  unfold State.replayRedir
  grind [foldl_keeps', State.wr64_keeps, State.setRank_keeps, State.setRedir_keeps]

theorem State.freshRanks_ok (s : State) (mask : Nat) (h_s : s.Ok) : (State.freshRanks s mask).Ok := by
  unfold State.freshRanks
  grind [State.Ok, foldl_ok, State.setRank_ok]

theorem State.freshRanks_keeps {s0 : State} {ps : List Region} (s : State) (mask : Nat) (h_s : Keeps s0 s ps) : Keeps
    s0 (State.freshRanks s mask) ps := by
  unfold State.freshRanks
  grind [foldl_keeps', State.setRank_keeps]

theorem State.formMask_ok (s : State) (snapshot : List (Fin 16 × BitVec 64)) (h_s : s.Ok) : (State.formMask s
    snapshot).Ok := by
  unfold State.formMask
  dsimp only
  repeat' first
      | with_reducible assumption
      | with_reducible apply ite_ok
      | with_reducible refine foldl_ok (fun _ _ _ => ?_) _ ?_
      | with_reducible apply State.bindAway_ok
      | with_reducible apply State.freshRanks_ok
      | with_reducible apply State.holdFor_ok
      | with_reducible apply State.replayRedir_ok
      | with_reducible apply State.wr64_ok
      | split

theorem State.formMask_keeps {s0 : State} {ps : List Region} (s : State) (snapshot : List (Fin 16 × BitVec 64)) (h_s :
    Keeps s0 s ps) (m_stack : Region.stack ∈ ps) (m_tests : Region.tests ∈ ps) (m_inbox : Region.inbox ∈ ps) (m_pkg :
    Region.pkg ∈ ps) : Keeps s0 (State.formMask s snapshot) ps := by
  unfold State.formMask
  dsimp only
  repeat' first
      | with_reducible assumption
      | with_reducible apply ite_keeps
      | with_reducible refine foldl_keeps' (fun _ _ _ => ?_) _ ?_
      | with_reducible apply State.bindAway_keeps
      | with_reducible apply State.freshRanks_keeps
      | with_reducible apply State.holdFor_keeps
      | with_reducible apply State.replayRedir_keeps
      | with_reducible apply State.wr64_keeps
      | split

theorem State.keepReport_ok (s : State) (b : List Byte) (h_s : s.Ok) : (State.keepReport s b).Ok := by
  unfold State.keepReport
  grind [State.Ok, foldl_ok, State.modPkg_ok]

theorem State.keepReport_keeps {s0 : State} {ps : List Region} (s : State) (b : List Byte) (h_s : Keeps s0 s ps)
    (m_pkg : Region.pkg ∈ ps) : Keeps s0 (State.keepReport s b) ps := by
  unfold State.keepReport
  grind [foldl_keeps', State.modPkg_keeps]

theorem State.takeReports_ok (s : State) (h_s : s.Ok) : (State.takeReports s).Ok := by
  unfold State.takeReports
  grind [State.Ok, foldl_ok, State.keepReport_ok, State.modRing_ok]

theorem State.takeReports_keeps {s0 : State} {ps : List Region} (s : State) (h_s : Keeps s0 s ps) (m_ring :
    Region.ring ∈ ps) (m_pkg : Region.pkg ∈ ps) : Keeps s0 (State.takeReports s) ps := by
  unfold State.takeReports
  grind [foldl_keeps', State.keepReport_keeps, State.modRing_keeps]

theorem State.sendReport_ok (s : State) (h_s : s.Ok) : (State.sendReport s).Ok := by
  unfold State.sendReport
  grind [State.Ok, foldl_ok, State.keepReport_ok, State.modPkg_ok, State.report_ok, State.sendCtl_ok]

theorem State.sendReport_keeps {s0 : State} {ps : List Region} (s : State) (h_s : Keeps s0 s ps) (m_pins : Region.pins
    ∈ ps) (m_ring : Region.ring ∈ ps) (m_chain : Region.chain ∈ ps) (m_pkg : Region.pkg ∈ ps) (m_inj : Region.inj ∈
    ps) : Keeps s0 (State.sendReport s) ps := by
  unfold State.sendReport
  grind [foldl_keeps', State.keepReport_keeps, State.modPkg_keeps, State.report_keeps, State.sendCtl_keeps]

theorem rangeReport_ok (snapshot : List (Fin 16 × BitVec 64)) (s : State) (h_s : s.Ok) : (rangeReport snapshot s).Ok
    := by
  unfold rangeReport
  grind [State.Ok, foldl_ok, State.formMask_ok, State.sendReport_ok]

theorem rangeReport_keeps {s0 : State} {ps : List Region} (snapshot : List (Fin 16 × BitVec 64)) (s : State) (h_s :
    Keeps s0 s ps) (m_pins : Region.pins ∈ ps) (m_stack : Region.stack ∈ ps) (m_tests : Region.tests ∈ ps) (m_inbox :
    Region.inbox ∈ ps) (m_ring : Region.ring ∈ ps) (m_chain : Region.chain ∈ ps) (m_pkg : Region.pkg ∈ ps) (m_inj :
    Region.inj ∈ ps) : Keeps s0 (rangeReport snapshot s) ps := by
  unfold rangeReport
  grind [foldl_keeps', State.formMask_keeps, State.sendReport_keeps]

theorem execRangeReport_ok (snapshot : List (Fin 16 × BitVec 64)) (s : State) (h_s : s.Ok) : ∀ x, (execRangeReport
    snapshot s) = .next x → x.Ok := by
  unfold execRangeReport
  grind [State.Ok, foldl_ok, State.onCore_ok, rangeReport_ok]

theorem execRangeReport_keeps {s0 : State} {ps : List Region} (snapshot : List (Fin 16 × BitVec 64)) (s : State) (h_s
    : Keeps s0 s ps) (m_pins : Region.pins ∈ ps) (m_stack : Region.stack ∈ ps) (m_tests : Region.tests ∈ ps) (m_inbox
    : Region.inbox ∈ ps) (m_ring : Region.ring ∈ ps) (m_chain : Region.chain ∈ ps) (m_pkg : Region.pkg ∈ ps) (m_inj :
    Region.inj ∈ ps) : ∀ x, (execRangeReport snapshot s) = .next x → Keeps s0 x ps := by
  unfold execRangeReport
  grind [foldl_keeps', State.onCore_keeps, rangeReport_keeps]

theorem State.assignOne_ok (s : State) (i : Nat) (h_s : s.Ok) : (State.assignOne s i).Ok := by
  unfold State.assignOne
  grind [State.Ok, foldl_ok, State.logRec_ok, State.setRange_ok]

theorem State.assignOne_keeps {s0 : State} {ps : List Region} (s : State) (i : Nat) (h_s : Keeps s0 s ps) (m_inbox :
    Region.inbox ∈ ps) (m_ring : Region.ring ∈ ps) (m_chain : Region.chain ∈ ps) (m_pkg : Region.pkg ∈ ps) (m_inj :
    Region.inj ∈ ps) : Keeps s0 (State.assignOne s i) ps := by
  unfold State.assignOne
  grind [foldl_keeps', State.logRec_keeps, State.setRange_keeps]

theorem State.assignRanges_ok (s : State) (h_s : s.Ok) : (State.assignRanges s).Ok := by
  unfold State.assignRanges
  grind [State.Ok, foldl_ok, State.assignOne_ok, State.modPkg_ok, State.ranged_ok, State.sendHall_ok,
    State.takeReports_ok]

theorem State.assignRanges_keeps {s0 : State} {ps : List Region} (s : State) (h_s : Keeps s0 s ps) (m_inbox :
    Region.inbox ∈ ps) (m_ring : Region.ring ∈ ps) (m_chain : Region.chain ∈ ps) (m_pkg : Region.pkg ∈ ps) (m_inj :
    Region.inj ∈ ps) : Keeps s0 (State.assignRanges s) ps := by
  unfold State.assignRanges
  grind [foldl_keeps', State.assignOne_keeps, State.modPkg_keeps, State.ranged_keeps, State.sendHall_keeps,
    State.takeReports_keeps]

theorem rangeAssignment_ok (s : State) (h_s : s.Ok) : (rangeAssignment s).Ok := by
  unfold rangeAssignment
  grind [State.Ok, foldl_ok, State.assignRanges_ok, State.ranged_ok]

theorem rangeAssignment_keeps {s0 : State} {ps : List Region} (s : State) (h_s : Keeps s0 s ps) (m_inbox :
    Region.inbox ∈ ps) (m_ring : Region.ring ∈ ps) (m_chain : Region.chain ∈ ps) (m_pkg : Region.pkg ∈ ps) (m_inj :
    Region.inj ∈ ps) : Keeps s0 (rangeAssignment s) ps := by
  unfold rangeAssignment
  grind [foldl_keeps', State.assignRanges_keeps, State.ranged_keeps]

theorem execRangeAssignment_ok (s : State) (h_s : s.Ok) : ∀ x, (execRangeAssignment s) = .next x → x.Ok := by
  unfold execRangeAssignment
  grind [State.Ok, foldl_ok, State.onCore_ok, rangeAssignment_ok]

theorem execRangeAssignment_keeps {s0 : State} {ps : List Region} (s : State) (h_s : Keeps s0 s ps) (m_inbox :
    Region.inbox ∈ ps) (m_ring : Region.ring ∈ ps) (m_chain : Region.chain ∈ ps) (m_pkg : Region.pkg ∈ ps) (m_inj :
    Region.inj ∈ ps) : ∀ x, (execRangeAssignment s) = .next x → Keeps s0 x ps := by
  unfold execRangeAssignment
  grind [foldl_keeps', State.onCore_keeps, rangeAssignment_keeps]

theorem instanceRejoin_ok (k : Fin 16) (s : State) (h_s : s.Ok) : (instanceRejoin k s).Ok := by
  unfold instanceRejoin
  grind [State.Ok, foldl_ok, State.assignOne_ok, State.logRec_ok, State.sendHall_ok, State.setRange_ok,
    State.takeReports_ok]

theorem instanceRejoin_keeps {s0 : State} {ps : List Region} (k : Fin 16) (s : State) (h_s : Keeps s0 s ps) (m_inbox :
    Region.inbox ∈ ps) (m_ring : Region.ring ∈ ps) (m_chain : Region.chain ∈ ps) (m_pkg : Region.pkg ∈ ps) (m_inj :
    Region.inj ∈ ps) : Keeps s0 (instanceRejoin k s) ps := by
  unfold instanceRejoin
  grind [foldl_keeps', State.assignOne_keeps, State.logRec_keeps, State.sendHall_keeps, State.setRange_keeps,
    State.takeReports_keeps]

theorem execInstanceRejoin_ok (k : Fin 16) (s : State) (h_s : s.Ok) : ∀ x, (execInstanceRejoin k s) = .next x → x.Ok
    := by
  unfold execInstanceRejoin
  grind [State.Ok, foldl_ok, State.onCore_ok, instanceRejoin_ok]

theorem execInstanceRejoin_keeps {s0 : State} {ps : List Region} (k : Fin 16) (s : State) (h_s : Keeps s0 s ps)
    (m_inbox : Region.inbox ∈ ps) (m_ring : Region.ring ∈ ps) (m_chain : Region.chain ∈ ps) (m_pkg : Region.pkg ∈ ps)
    (m_inj : Region.inj ∈ ps) : ∀ x, (execInstanceRejoin k s) = .next x → Keeps s0 x ps := by
  unfold execInstanceRejoin
  grind [foldl_keeps', State.onCore_keeps, instanceRejoin_keeps]

end Sys2Proof.Machine
end

