-- ==== Sys2Proof/Laws/Boot.lean ====
section
/-! SUPPORT. Two lemmas for every operation of Machine/Boot.lean. `…_ok`: the register table and the stack's memory stay
canonical. `…_keeps`: what agrees with a state outside a list of regions that holds those the operation can change still
agrees afterwards. -/

namespace Sys2Proof.Machine

set_option Elab.async false

theorem go_ok (v : Word) (s : State) (h_s : s.Ok) : (go v s).Ok := by
  unfold go
  grind [State.Ok, foldl_ok, State.headDuty_ok, State.modPkg_ok, State.reportPhase_ok, State.wr_ok]

theorem go_keeps {s0 : State} {ps : List Region} (v : Word) (s : State) (h_s : Keeps s0 s ps) (m_pins : Region.pins ∈
    ps) (m_chain : Region.chain ∈ ps) (m_pkg : Region.pkg ∈ ps) : Keeps s0 (go v s) ps := by
  unfold go
  grind [foldl_keeps', State.headDuty_keeps, State.modPkg_keeps, State.reportPhase_keeps, State.wr_keeps]

theorem execGo_ok (v : Word) (s : State) (h_s : s.Ok) : ∀ x, (execGo v s) = .next x → x.Ok := by
  unfold execGo
  grind [State.Ok, foldl_ok, State.emuWrite_ok, go_ok]

theorem execGo_keeps {s0 : State} {ps : List Region} (v : Word) (s : State) (h_s : Keeps s0 s ps) (m_mgt : Region.mgt
    ∈ ps) (m_pins : Region.pins ∈ ps) (m_chain : Region.chain ∈ ps) (m_pkg : Region.pkg ∈ ps) : ∀ x, (execGo v s) =
    .next x → Keeps s0 x ps := by
  unfold execGo
  grind [foldl_keeps', State.emuWrite_keeps, go_keeps]

theorem goWaitExpiry_ok (s : State) (h_s : s.Ok) : (goWaitExpiry s).Ok := by
  unfold goWaitExpiry
  grind [State.Ok, foldl_ok, State.sendTrainStack_ok]

theorem goWaitExpiry_keeps {s0 : State} {ps : List Region} (s : State) (h_s : Keeps s0 s ps) (m_pins : Region.pins ∈
    ps) (m_chain : Region.chain ∈ ps) (m_pkg : Region.pkg ∈ ps) : Keeps s0 (goWaitExpiry s) ps := by
  unfold goWaitExpiry
  grind [foldl_keeps', State.sendTrainStack_keeps]

theorem execGoWaitExpiry_ok (s : State) (h_s : s.Ok) : ∀ x, (execGoWaitExpiry s) = .next x → x.Ok := by
  unfold execGoWaitExpiry
  grind [State.Ok, foldl_ok, State.onCore_ok, goWaitExpiry_ok]

theorem execGoWaitExpiry_keeps {s0 : State} {ps : List Region} (s : State) (h_s : Keeps s0 s ps) (m_pins : Region.pins
    ∈ ps) (m_chain : Region.chain ∈ ps) (m_pkg : Region.pkg ∈ ps) : ∀ x, (execGoWaitExpiry s) = .next x → Keeps s0 x
    ps := by
  unfold execGoWaitExpiry
  grind [foldl_keeps', State.onCore_keeps, goWaitExpiry_keeps]

theorem ledgerPort_ok (v : Word) (s : State) (h_s : s.Ok) : (ledgerPort v s).Ok := by
  unfold ledgerPort
  grind [State.Ok, foldl_ok, State.modAge_ok]

theorem ledgerPort_keeps {s0 : State} {ps : List Region} (v : Word) (s : State) (h_s : Keeps s0 s ps) (m_age :
    Region.age ∈ ps) : Keeps s0 (ledgerPort v s) ps := by
  unfold ledgerPort
  grind [foldl_keeps', State.modAge_keeps]

theorem execLedgerPortWrite_ok (v : Word) (s : State) (h_s : s.Ok) : ∀ x, (execLedgerPortWrite v s) = .next x → x.Ok
    := by
  unfold execLedgerPortWrite
  grind [State.Ok, foldl_ok, State.emuWrite_ok, ledgerPort_ok]

theorem execLedgerPortWrite_keeps {s0 : State} {ps : List Region} (v : Word) (s : State) (h_s : Keeps s0 s ps) (m_mgt
    : Region.mgt ∈ ps) (m_age : Region.age ∈ ps) : ∀ x, (execLedgerPortWrite v s) = .next x → Keeps s0 x ps := by
  unfold execLedgerPortWrite
  grind [foldl_keeps', State.emuWrite_keeps, ledgerPort_keeps]

theorem ledgerClear_ok (w : Word) (s : State) (h_s : s.Ok) : (ledgerClear w s).Ok := by
  unfold ledgerClear
  grind [State.Ok, foldl_ok, State.modAge_ok, State.wr_ok]

theorem ledgerClear_keeps {s0 : State} {ps : List Region} (w : Word) (s : State) (h_s : Keeps s0 s ps) (m_age :
    Region.age ∈ ps) : Keeps s0 (ledgerClear w s) ps := by
  unfold ledgerClear
  grind [foldl_keeps', State.modAge_keeps, State.wr_keeps]

theorem execLedgerClear_ok (len : BitVec 24) (s : State) (h_s : s.Ok) : ∀ x, (execLedgerClear len s) = .next x → x.Ok
    := by
  unfold execLedgerClear
  grind [State.Ok, foldl_ok, State.emuWrite_ok, ledgerClear_ok]

theorem execLedgerClear_keeps {s0 : State} {ps : List Region} (len : BitVec 24) (s : State) (h_s : Keeps s0 s ps)
    (m_mgt : Region.mgt ∈ ps) (m_age : Region.age ∈ ps) : ∀ x, (execLedgerClear len s) = .next x → Keeps s0 x ps := by
  unfold execLedgerClear
  grind [foldl_keeps', State.emuWrite_keeps, ledgerClear_keeps]

theorem State.memTest_ok (s : State) (fails : List MemFail) (h_s : s.Ok) : (State.memTest s fails).Ok := by
  unfold State.memTest
  grind [State.Ok, foldl_ok, State.loseRank_ok, State.classifyHold_ok, State.modAge_ok]

theorem State.memTest_keeps {s0 : State} {ps : List Region} (s : State) (fails : List MemFail) (h_s : Keeps s0 s ps)
    (m_pcs : Region.pcs ∈ ps) (m_stack : Region.stack ∈ ps) (m_inbox : Region.inbox ∈ ps) (m_age : Region.age ∈ ps) :
    Keeps s0 (State.memTest s fails) ps := by
  unfold State.memTest
  grind [foldl_keeps', State.loseRank_keeps, State.classifyHold_keeps, State.modAge_keeps]

theorem cmdMemtest_ok (fails : List MemFail) (s : State) (h_s : s.Ok) : (cmdMemtest fails s).Ok := by
  unfold cmdMemtest
  repeat' split
  all_goals grind [State.Ok, State.takeCmd_ok, State.memTest_ok, State.result_ok, foldl_ok]

theorem cmdMemtest_keeps {s0 : State} {ps : List Region} (fails : List MemFail) (s : State) (h_s : Keeps s0 s ps)
    (m_pcs : Region.pcs ∈ ps) (m_stack : Region.stack ∈ ps) (m_inbox : Region.inbox ∈ ps) (m_chain : Region.chain ∈
    ps) (m_age : Region.age ∈ ps) : Keeps s0 (cmdMemtest fails s) ps := by
  unfold cmdMemtest
  grind [foldl_keeps', State.takeCmd_keeps, State.memTest_keeps, State.result_keeps]

theorem execCmdMemtest_ok (fails : List MemFail) (s : State) (h_s : s.Ok) : ∀ x, (execCmdMemtest fails s) = .next x →
    x.Ok := by
  unfold execCmdMemtest
  grind [State.Ok, foldl_ok, State.onCore_ok, cmdMemtest_ok]

theorem execCmdMemtest_keeps {s0 : State} {ps : List Region} (fails : List MemFail) (s : State) (h_s : Keeps s0 s ps)
    (m_pcs : Region.pcs ∈ ps) (m_stack : Region.stack ∈ ps) (m_inbox : Region.inbox ∈ ps) (m_chain : Region.chain ∈
    ps) (m_age : Region.age ∈ ps) : ∀ x, (execCmdMemtest fails s) = .next x → Keeps s0 x ps := by
  unfold execCmdMemtest
  grind [foldl_keeps', State.onCore_keeps, cmdMemtest_keeps]

theorem State.becomeReady_ok (s : State) (h_s : s.Ok) : (State.becomeReady s).Ok := by
  unfold State.becomeReady
  grind [State.Ok, foldl_ok, State.setPhase_ok, State.startWindows_ok, State.modAge_ok, State.sf_ok]

theorem State.becomeReady_keeps {s0 : State} {ps : List Region} (s : State) (h_s : Keeps s0 s ps) (m_chain :
    Region.chain ∈ ps) (m_pkg : Region.pkg ∈ ps) (m_age : Region.age ∈ ps) : Keeps s0 (State.becomeReady s) ps := by
  unfold State.becomeReady
  grind [foldl_keeps', State.setPhase_keeps, State.startWindows_keeps, State.modAge_keeps, State.sf_keeps]

theorem State.endReplay_ok (s : State) (fails : List MemFail) (h_s : s.Ok) : (State.endReplay s fails).Ok := by
  unfold State.endReplay
  grind [State.Ok, foldl_ok, State.becomeReady_ok, State.memTest_ok, State.setPhase_ok]

theorem State.endReplay_keeps {s0 : State} {ps : List Region} (s : State) (fails : List MemFail) (h_s : Keeps s0 s ps)
    (m_pcs : Region.pcs ∈ ps) (m_stack : Region.stack ∈ ps) (m_inbox : Region.inbox ∈ ps) (m_chain : Region.chain ∈
    ps) (m_pkg : Region.pkg ∈ ps) (m_age : Region.age ∈ ps) : Keeps s0 (State.endReplay s fails) ps := by
  unfold State.endReplay
  grind [foldl_keeps', State.becomeReady_keeps, State.memTest_keeps, State.setPhase_keeps]

theorem execExitScrubComplete_ok (p : Fin 64) (errs : List (Nat × List Byte)) (fails : List MemFail) (s : State) (h_s
    : s.Ok) : ∀ x, (execExitScrubComplete p errs fails s) = .next x → x.Ok := by
  unfold execExitScrubComplete
  grind [State.Ok, foldl_ok, State.endReplay_ok, State.onLive_ok, exitScrub_ok]

theorem execExitScrubComplete_keeps {s0 : State} {ps : List Region} (p : Fin 64) (errs : List (Nat × List Byte))
    (fails : List MemFail) (s : State) (h_s : Keeps s0 s ps) (m_free : Region.free ∈ ps) (m_pcs : Region.pcs ∈ ps)
    (m_stack : Region.stack ∈ ps) (m_inbox : Region.inbox ∈ ps) (m_chain : Region.chain ∈ ps) (m_pkg : Region.pkg ∈
    ps) (m_age : Region.age ∈ ps) : ∀ x, (execExitScrubComplete p errs fails s) = .next x → Keeps s0 x ps := by
  unfold execExitScrubComplete
  grind [foldl_keeps', State.endReplay_keeps, State.onLive_keeps, exitScrub_keeps]

theorem State.part_ok (s : State) (l : List (Nat × Bool × List Byte)) (id : Nat) (f : List Byte → State → State) (h_s
    : s.Ok) (h_f : ∀ b y0, y0.Ok → (f b y0).Ok) : (State.part s l id f).Ok := by
  unfold State.part
  split
  · exact h_f _ _ h_s
  · exact State.logRec_ok _ _ _ h_s
  · exact h_s

theorem State.part_keeps {s0 : State} {ps : List Region} (s : State) (l : List (Nat × Bool × List Byte)) (id : Nat) (f
    : List Byte → State → State) (h_s : Keeps s0 s ps) (h_f : ∀ b y0, Keeps s0 y0 ps → Keeps s0 (f b y0) ps) (m_inbox :
    Region.inbox ∈ ps) : Keeps s0 (State.part s l id f) ps := by
  unfold State.part
  split
  · exact h_f _ _ h_s
  · exact State.logRec_keeps _ _ _ h_s m_inbox
  · exact h_s

theorem State.replay_ok (s : State) (b : List Byte) (info : Option LedgerInfo) (h_s : s.Ok) : (State.replay s b
    info).Ok := by
  unfold State.replay
  grind [State.Ok, foldl_ok, State.modAge_ok, State.modPc_ok, State.part_ok, State.sf_ok]

theorem State.replay_keeps {s0 : State} {ps : List Region} (s : State) (b : List Byte) (info : Option LedgerInfo) (h_s
    : Keeps s0 s ps) (m_free : Region.free ∈ ps) (m_pcs : Region.pcs ∈ ps) (m_inbox : Region.inbox ∈ ps) (m_age :
    Region.age ∈ ps) : Keeps s0 (State.replay s b info) ps := by
  unfold State.replay
  repeat' split
  all_goals grind [foldl_keeps', State.modAge_keeps, State.modPc_keeps, State.part_keeps, State.sf_keeps, Keeps.set_pcs_free]

theorem State.startScrub_ok (s : State) (h_s : s.Ok) : (State.startScrub s).Ok := by
  unfold State.startScrub
  grind [State.Ok, foldl_ok, State.modPwr_ok, State.raise_ok]

theorem State.startScrub_keeps {s0 : State} {ps : List Region} (s : State) (h_s : Keeps s0 s ps) (m_pwr : Region.pwr ∈
    ps) : Keeps s0 (State.startScrub s) ps := by
  unfold State.startScrub
  grind [foldl_keeps', State.modPwr_keeps, State.raise_keeps]

theorem State.readLedger_ok (s : State) (len : Nat) (h_s : s.Ok) : (State.readLedger s len).2.Ok := by
  unfold State.readLedger
  grind [State.Ok, foldl_ok, State.fetch_ok]

theorem State.readLedger_keeps {s0 : State} {ps : List Region} (s : State) (len : Nat) (h_s : Keeps s0 s ps) (m_free :
    Region.free ∈ ps) (m_paths : Region.paths ∈ ps) (m_ring : Region.ring ∈ ps) (m_tags : Region.tags ∈ ps) (m_inj :
    Region.inj ∈ ps) : Keeps s0 (State.readLedger s len).2 ps := by
  unfold State.readLedger
  grind [foldl_keeps', State.fetch_keeps]

theorem State.startReplay_ok (s : State) (len : BitVec 24) (info : Option LedgerInfo) (repair : Option RepairInfo)
    (fails : List MemFail) (h_s : s.Ok) : (State.startReplay s len info repair fails).Ok := by
  unfold State.startReplay
  grind [State.Ok, foldl_ok, State.endReplay_ok, State.logRec_ok, State.modAge_ok, State.readLedger_ok,
    State.replan_ok, State.replay_ok, State.setPhase_ok, State.sf_ok, State.startScrub_ok, State.takeRepair_ok]

theorem State.startReplay_keeps {s0 : State} {ps : List Region} (s : State) (len : BitVec 24) (info : Option
    LedgerInfo) (repair : Option RepairInfo) (fails : List MemFail) (h_s : Keeps s0 s ps) (m_free : Region.free ∈ ps)
    (m_pwr : Region.pwr ∈ ps) (m_paths : Region.paths ∈ ps) (m_pcs : Region.pcs ∈ ps) (m_stack : Region.stack ∈ ps)
    (m_inbox : Region.inbox ∈ ps) (m_ring : Region.ring ∈ ps) (m_chain : Region.chain ∈ ps) (m_pkg : Region.pkg ∈ ps)
    (m_tags : Region.tags ∈ ps) (m_age : Region.age ∈ ps) (m_inj : Region.inj ∈ ps) : Keeps s0 (State.startReplay s
    len info repair fails) ps := by
  unfold State.startReplay
  dsimp only
  repeat' first
      | with_reducible assumption
      | with_reducible apply ite_keeps
      | with_reducible refine foldl_keeps' (fun _ _ _ => ?_) _ ?_
      | with_reducible apply State.endReplay_keeps
      | with_reducible apply State.logRec_keeps
      | with_reducible apply State.modAge_keeps
      | with_reducible apply State.readLedger_keeps
      | with_reducible apply State.replan_keeps
      | with_reducible apply State.replay_keeps
      | with_reducible apply State.setPhase_keeps
      | with_reducible apply State.sf_keeps
      | with_reducible apply State.startScrub_keeps
      | with_reducible apply State.takeRepair_keeps
      | split

theorem ledgerReplay_ok (len : BitVec 24) (info : Option LedgerInfo) (repair : Option RepairInfo) (fails : List
    MemFail) (s : State) (h_s : s.Ok) : (ledgerReplay len info repair fails s).Ok := by
  unfold ledgerReplay
  grind [State.Ok, foldl_ok, State.startReplay_ok, State.wr_ok]

theorem ledgerReplay_keeps {s0 : State} {ps : List Region} (len : BitVec 24) (info : Option LedgerInfo) (repair :
    Option RepairInfo) (fails : List MemFail) (s : State) (h_s : Keeps s0 s ps) (m_free : Region.free ∈ ps) (m_pwr :
    Region.pwr ∈ ps) (m_paths : Region.paths ∈ ps) (m_pcs : Region.pcs ∈ ps) (m_stack : Region.stack ∈ ps) (m_inbox :
    Region.inbox ∈ ps) (m_ring : Region.ring ∈ ps) (m_chain : Region.chain ∈ ps) (m_pkg : Region.pkg ∈ ps) (m_tags :
    Region.tags ∈ ps) (m_age : Region.age ∈ ps) (m_inj : Region.inj ∈ ps) : Keeps s0 (ledgerReplay len info repair
    fails s) ps := by
  unfold ledgerReplay
  grind [foldl_keeps', State.startReplay_keeps, State.wr_keeps]

theorem execLedgerReplay_ok (len : BitVec 24) (info : Option LedgerInfo) (repair : Option RepairInfo) (fails : List
    MemFail) (s : State) (h_s : s.Ok) : ∀ x, (execLedgerReplay len info repair fails s) = .next x → x.Ok := by
  unfold execLedgerReplay
  grind [State.Ok, foldl_ok, State.emuWrite_ok, ledgerReplay_ok]

theorem execLedgerReplay_keeps {s0 : State} {ps : List Region} (len : BitVec 24) (info : Option LedgerInfo) (repair :
    Option RepairInfo) (fails : List MemFail) (s : State) (h_s : Keeps s0 s ps) (m_free : Region.free ∈ ps) (m_mgt :
    Region.mgt ∈ ps) (m_pwr : Region.pwr ∈ ps) (m_paths : Region.paths ∈ ps) (m_pcs : Region.pcs ∈ ps) (m_stack :
    Region.stack ∈ ps) (m_inbox : Region.inbox ∈ ps) (m_ring : Region.ring ∈ ps) (m_chain : Region.chain ∈ ps) (m_pkg
    : Region.pkg ∈ ps) (m_tags : Region.tags ∈ ps) (m_age : Region.age ∈ ps) (m_inj : Region.inj ∈ ps) : ∀ x,
    (execLedgerReplay len info repair fails s) = .next x → Keeps s0 x ps := by
  unfold execLedgerReplay
  grind [foldl_keeps', State.emuWrite_keeps, ledgerReplay_keeps]

theorem phaseFault_ok (s : State) (h_s : s.Ok) : (phaseFault s).Ok := by
  unfold phaseFault
  grind [State.Ok, foldl_ok, State.faultStop_ok]

theorem phaseFault_keeps {s0 : State} {ps : List Region} (s : State) (h_s : Keeps s0 s ps) (m_pcs : Region.pcs ∈ ps)
    (m_inbox : Region.inbox ∈ ps) (m_chain : Region.chain ∈ ps) (m_pkg : Region.pkg ∈ ps) : Keeps s0 (phaseFault s) ps
    := by
  unfold phaseFault
  grind [foldl_keeps', State.faultStop_keeps]

theorem execPhaseFault_ok (s : State) (h_s : s.Ok) : ∀ x, (execPhaseFault s) = .next x → x.Ok := by
  unfold execPhaseFault
  grind [State.Ok, foldl_ok, State.onCore_ok, phaseFault_ok]

theorem execPhaseFault_keeps {s0 : State} {ps : List Region} (s : State) (h_s : Keeps s0 s ps) (m_pcs : Region.pcs ∈
    ps) (m_inbox : Region.inbox ∈ ps) (m_chain : Region.chain ∈ ps) (m_pkg : Region.pkg ∈ ps) : ∀ x, (execPhaseFault
    s) = .next x → Keeps s0 x ps := by
  unfold execPhaseFault
  grind [foldl_keeps', State.onCore_keeps, phaseFault_keeps]

theorem warmReturn_ok (repair : Option RepairInfo) (s : State) (h_s : s.Ok) : (warmReturn repair s).Ok := by
  unfold warmReturn
  grind [State.Ok, foldl_ok, State.checkMarkers_ok, State.modPins_ok, State.modPwr_ok, State.sensorStarts_ok,
    State.takeRepair_ok]

theorem warmReturn_keeps {s0 : State} {ps : List Region} (repair : Option RepairInfo) (s : State) (h_s : Keeps s0 s
    ps) (m_free : Region.free ∈ ps) (m_pins : Region.pins ∈ ps) (m_clk : Region.clk ∈ ps) (m_pwr : Region.pwr ∈ ps)
    (m_paths : Region.paths ∈ ps) (m_pcs : Region.pcs ∈ ps) (m_stack : Region.stack ∈ ps) (m_inbox : Region.inbox ∈
    ps) (m_ring : Region.ring ∈ ps) (m_tags : Region.tags ∈ ps) (m_age : Region.age ∈ ps) (m_therm : Region.therm ∈
    ps) (m_inj : Region.inj ∈ ps) : Keeps s0 (warmReturn repair s) ps := by
  unfold warmReturn
  grind [foldl_keeps', State.checkMarkers_keeps, State.modPins_keeps, State.modPwr_keeps, State.sensorStarts_keeps,
    State.takeRepair_keeps]

theorem execWarmReturn_ok (repair : Option RepairInfo) (s : State) (h_s : s.Ok) : ∀ x, (execWarmReturn repair s) =
    .next x → x.Ok := by
  unfold execWarmReturn
  grind [State.Ok, foldl_ok, warmReturn_ok]

theorem execWarmReturn_keeps {s0 : State} {ps : List Region} (repair : Option RepairInfo) (s : State) (h_s : Keeps s0
    s ps) (m_free : Region.free ∈ ps) (m_pins : Region.pins ∈ ps) (m_clk : Region.clk ∈ ps) (m_pwr : Region.pwr ∈ ps)
    (m_paths : Region.paths ∈ ps) (m_pcs : Region.pcs ∈ ps) (m_stack : Region.stack ∈ ps) (m_inbox : Region.inbox ∈
    ps) (m_ring : Region.ring ∈ ps) (m_tags : Region.tags ∈ ps) (m_age : Region.age ∈ ps) (m_therm : Region.therm ∈
    ps) (m_inj : Region.inj ∈ ps) : ∀ x, (execWarmReturn repair s) = .next x → Keeps s0 x ps := by
  unfold execWarmReturn
  grind [foldl_keeps', warmReturn_keeps]

end Sys2Proof.Machine
end

