-- ==== Sys2Proof/Laws/Counters.lean ====
section
/-! SUPPORT. Two lemmas for every operation of Machine/Counters.lean. `…_ok`: the register table and the stack's memory stay
canonical. `…_keeps`: what agrees with a state outside a list of regions that holds those the operation can change still
agrees afterwards. -/

namespace Sys2Proof.Machine

set_option Elab.async false

theorem State.modCnt_ok (s : State) (f : Counters → Counters) (h_s : s.Ok) : (State.modCnt s f).Ok := by
  unfold State.modCnt
  grind [State.Ok, foldl_ok]

theorem State.modCnt_keeps {s0 : State} {ps : List Region} (s : State) (f : Counters → Counters) (h_s : Keeps s0 s ps)
    (m_cnt : Region.cnt ∈ ps) : Keeps s0 (State.modCnt s f) ps := by
  unfold State.modCnt
  grind [foldl_keeps', Keeps.set_cnt]

theorem counterEvent_ok (u : Fin 4) (e : BitVec 10) (src : BitVec 7) (qty : BitVec 32) (s : State) (h_s : s.Ok) :
    (counterEvent u e src qty s).Ok := by
  unfold counterEvent
  grind [State.Ok, foldl_ok, State.countIn_ok]

theorem counterEvent_keeps {s0 : State} {ps : List Region} (u : Fin 4) (e : BitVec 10) (src : BitVec 7) (qty : BitVec
    32) (s : State) (h_s : Keeps s0 s ps) : Keeps s0 (counterEvent u e src qty s) ps := by
  unfold counterEvent
  grind [foldl_keeps', State.countIn_keeps]

theorem execCounterEvent_ok (u : Fin 4) (e : BitVec 10) (src : BitVec 7) (qty : BitVec 32) (s : State) (h_s : s.Ok) :
    ∀ x, (execCounterEvent u e src qty s) = .next x → x.Ok := by
  unfold execCounterEvent
  grind [State.Ok, foldl_ok, State.onLive_ok, counterEvent_ok]

theorem execCounterEvent_keeps {s0 : State} {ps : List Region} (u : Fin 4) (e : BitVec 10) (src : BitVec 7) (qty :
    BitVec 32) (s : State) (h_s : Keeps s0 s ps) : ∀ x, (execCounterEvent u e src qty s) = .next x → Keeps s0 x ps :=
    by
  unfold execCounterEvent
  grind [foldl_keeps', State.onLive_keeps, counterEvent_keeps]

theorem State.cntCtrl_ok (s : State) (v : Word) (h_s : s.Ok) : (State.cntCtrl s v).Ok := by
  unfold State.cntCtrl
  grind [State.Ok, foldl_ok, State.modCnt_ok, State.wr_ok]

theorem State.cntCtrl_keeps {s0 : State} {ps : List Region} (s : State) (v : Word) (h_s : Keeps s0 s ps) (m_cnt :
    Region.cnt ∈ ps) : Keeps s0 (State.cntCtrl s v) ps := by
  unfold State.cntCtrl
  grind [foldl_keeps', State.modCnt_keeps, State.wr_keeps]

theorem execCntRun_ok (run : BitVec 4) (s : State) (h_s : s.Ok) : ∀ x, (execCntRun run s) = .next x → x.Ok := by
  unfold execCntRun
  grind [State.Ok, foldl_ok, State.mgtWrite_ok, State.cntCtrl_ok]

theorem execCntRun_keeps {s0 : State} {ps : List Region} (run : BitVec 4) (s : State) (h_s : Keeps s0 s ps) (m_mgt :
    Region.mgt ∈ ps) (m_cnt : Region.cnt ∈ ps) : ∀ x, (execCntRun run s) = .next x → Keeps s0 x ps := by
  unfold execCntRun
  grind [foldl_keeps', State.mgtWrite_keeps, State.cntCtrl_keeps]

theorem execCntClear_ok (units : BitVec 4) (s : State) (h_s : s.Ok) : ∀ x, (execCntClear units s) = .next x → x.Ok :=
    by
  unfold execCntClear
  grind [State.Ok, foldl_ok, State.mgtWrite_ok, State.cntCtrl_ok]

theorem execCntClear_keeps {s0 : State} {ps : List Region} (units : BitVec 4) (s : State) (h_s : Keeps s0 s ps) (m_mgt
    : Region.mgt ∈ ps) (m_cnt : Region.cnt ∈ ps) : ∀ x, (execCntClear units s) = .next x → Keeps s0 x ps := by
  unfold execCntClear
  grind [foldl_keeps', State.mgtWrite_keeps, State.cntCtrl_keeps]

theorem execCntSnap_ok (s : State) (h_s : s.Ok) : ∀ x, (execCntSnap s) = .next x → x.Ok := by
  unfold execCntSnap
  grind [State.Ok, foldl_ok, State.mgtWrite_ok, State.cntCtrl_ok]

theorem execCntSnap_keeps {s0 : State} {ps : List Region} (s : State) (h_s : Keeps s0 s ps) (m_mgt : Region.mgt ∈ ps)
    (m_cnt : Region.cnt ∈ ps) : ∀ x, (execCntSnap s) = .next x → Keeps s0 x ps := by
  unfold execCntSnap
  grind [foldl_keeps', State.mgtWrite_keeps, State.cntCtrl_keeps]

theorem State.setRun_ok (s : State) (t : Nat) (units : Nat) (h_s : s.Ok) : (State.setRun s t units).Ok := by
  unfold State.setRun
  grind [State.Ok, foldl_ok, State.modCnt_ok, State.wr64_ok]

theorem State.setRun_keeps {s0 : State} {ps : List Region} (s : State) (t : Nat) (units : Nat) (h_s : Keeps s0 s ps)
    (m_cnt : Region.cnt ∈ ps) : Keeps s0 (State.setRun s t units) ps := by
  unfold State.setRun
  grind [foldl_keeps', State.modCnt_keeps, State.wr64_keeps]

theorem State.clearUnits_ok (s : State) (t : Nat) (units : Nat) (h_s : s.Ok) : (State.clearUnits s t units).Ok := by
  unfold State.clearUnits
  grind [State.Ok, foldl_ok, State.wr64_ok, State.modCnt_ok]

theorem State.clearUnits_keeps {s0 : State} {ps : List Region} (s : State) (t : Nat) (units : Nat) (h_s : Keeps s0 s
    ps) (m_cnt : Region.cnt ∈ ps) : Keeps s0 (State.clearUnits s t units) ps := by
  unfold State.clearUnits
  grind [foldl_keeps', State.wr64_keeps, State.modCnt_keeps]

theorem State.act_ok (s : State) (t : Nat) (a : CntAct) (h_s : s.Ok) : (State.act s t a).Ok := by
  unfold State.act
  grind [State.Ok, foldl_ok, State.setRun_ok, State.clearUnits_ok, State.raise_ok, State.modCnt_ok]

theorem State.act_keeps {s0 : State} {ps : List Region} (s : State) (t : Nat) (a : CntAct) (h_s : Keeps s0 s ps)
    (m_cnt : Region.cnt ∈ ps) : Keeps s0 (State.act s t a) ps := by
  unfold State.act
  grind [foldl_keeps', State.setRun_keeps, State.clearUnits_keeps, State.raise_keeps, State.modCnt_keeps]

theorem counterCapture_ok (s : State) (h_s : s.Ok) : (counterCapture s).Ok := by
  unfold counterCapture
  grind [State.Ok, foldl_ok, State.act_ok, State.modCnt_ok]

theorem counterCapture_keeps {s0 : State} {ps : List Region} (s : State) (h_s : Keeps s0 s ps) (m_cnt : Region.cnt ∈
    ps) : Keeps s0 (counterCapture s) ps := by
  unfold counterCapture
  grind [foldl_keeps', State.act_keeps, State.modCnt_keeps]

theorem execCounterCapture_ok (s : State) (h_s : s.Ok) : ∀ x, (execCounterCapture s) = .next x → x.Ok := by
  unfold execCounterCapture
  grind [State.Ok, foldl_ok, State.onLive_ok, counterCapture_ok]

theorem execCounterCapture_keeps {s0 : State} {ps : List Region} (s : State) (h_s : Keeps s0 s ps) (m_cnt : Region.cnt
    ∈ ps) : ∀ x, (execCounterCapture s) = .next x → Keeps s0 x ps := by
  unfold execCounterCapture
  grind [foldl_keeps', State.onLive_keeps, counterCapture_keeps]

theorem State.settleDump_ok (s : State) (h_s : s.Ok) : (State.settleDump s).1.Ok := by
  unfold State.settleDump
  grind [State.Ok, foldl_ok, State.dropDone_ok, State.modCnt_ok, State.raise_ok, State.wr_ok]

theorem State.settleDump_keeps {s0 : State} {ps : List Region} (s : State) (h_s : Keeps s0 s ps) (m_paths :
    Region.paths ∈ ps) (m_cnt : Region.cnt ∈ ps) : Keeps s0 (State.settleDump s).1 ps := by
  unfold State.settleDump
  grind [foldl_keeps', State.dropDone_keeps, State.modCnt_keeps, State.raise_keeps, State.wr_keeps]

theorem State.writeDump_ok (s : State) (t : Nat) (h_s : s.Ok) : (State.writeDump s t).Ok := by
  unfold State.writeDump
  grind [State.Ok, foldl_ok, State.modCnt_ok, State.issueWrite_ok]

theorem State.writeDump_keeps {s0 : State} {ps : List Region} (s : State) (t : Nat) (h_s : Keeps s0 s ps) (m_paths :
    Region.paths ∈ ps) (m_ring : Region.ring ∈ ps) (m_tags : Region.tags ∈ ps) (m_cnt : Region.cnt ∈ ps) (m_inj :
    Region.inj ∈ ps) : Keeps s0 (State.writeDump s t) ps := by
  unfold State.writeDump
  grind [foldl_keeps', State.modCnt_keeps, State.issueWrite_keeps]

theorem counterDump_ok (s : State) (h_s : s.Ok) : (counterDump s).Ok := by
  unfold counterDump
  grind [State.Ok, foldl_ok, State.modCnt_ok, State.settleDump_ok, State.writeDump_ok]

theorem counterDump_keeps {s0 : State} {ps : List Region} (s : State) (h_s : Keeps s0 s ps) (m_paths : Region.paths ∈
    ps) (m_ring : Region.ring ∈ ps) (m_tags : Region.tags ∈ ps) (m_cnt : Region.cnt ∈ ps) (m_inj : Region.inj ∈ ps) :
    Keeps s0 (counterDump s) ps := by
  unfold counterDump
  grind [foldl_keeps', State.modCnt_keeps, State.settleDump_keeps, State.writeDump_keeps]

theorem execCounterDump_ok (s : State) (h_s : s.Ok) : ∀ x, (execCounterDump s) = .next x → x.Ok := by
  unfold execCounterDump
  grind [State.Ok, foldl_ok, State.onLive_ok, counterDump_ok]

theorem execCounterDump_keeps {s0 : State} {ps : List Region} (s : State) (h_s : Keeps s0 s ps) (m_paths :
    Region.paths ∈ ps) (m_ring : Region.ring ∈ ps) (m_tags : Region.tags ∈ ps) (m_cnt : Region.cnt ∈ ps) (m_inj :
    Region.inj ∈ ps) : ∀ x, (execCounterDump s) = .next x → Keeps s0 x ps := by
  unfold execCounterDump
  grind [foldl_keeps', State.onLive_keeps, counterDump_keeps]

theorem State.settleTags_ok (s : State) (h_s : s.Ok) : (State.settleTags s).Ok := by
  unfold State.settleTags
  grind [State.Ok, foldl_ok, State.dropDone_ok, State.raiseIf_ok, State.modCnt_ok]

theorem State.settleTags_keeps {s0 : State} {ps : List Region} (s : State) (h_s : Keeps s0 s ps) (m_paths :
    Region.paths ∈ ps) (m_cnt : Region.cnt ∈ ps) : Keeps s0 (State.settleTags s) ps := by
  unfold State.settleTags
  grind [foldl_keeps', State.dropDone_keeps, State.raiseIf_keeps, State.modCnt_keeps]

theorem sampleRecord_ok (s : State) (h_s : s.Ok) : (sampleRecord s).Ok := by
  unfold sampleRecord
  grind [State.Ok, foldl_ok, State.settleTags_ok, State.modCnt_ok, State.issueWrite_ok]

theorem sampleRecord_keeps {s0 : State} {ps : List Region} (s : State) (h_s : Keeps s0 s ps) (m_paths : Region.paths ∈
    ps) (m_ring : Region.ring ∈ ps) (m_tags : Region.tags ∈ ps) (m_cnt : Region.cnt ∈ ps) (m_inj : Region.inj ∈ ps) :
    Keeps s0 (sampleRecord s) ps := by
  unfold sampleRecord
  grind [foldl_keeps', State.settleTags_keeps, State.modCnt_keeps, State.issueWrite_keeps, Keeps.set_tags]

theorem execSampleRecord_ok (s : State) (h_s : s.Ok) : ∀ x, (execSampleRecord s) = .next x → x.Ok := by
  unfold execSampleRecord
  grind [State.Ok, foldl_ok, State.onLive_ok, sampleRecord_ok]

theorem execSampleRecord_keeps {s0 : State} {ps : List Region} (s : State) (h_s : Keeps s0 s ps) (m_paths :
    Region.paths ∈ ps) (m_ring : Region.ring ∈ ps) (m_tags : Region.tags ∈ ps) (m_cnt : Region.cnt ∈ ps) (m_inj :
    Region.inj ∈ ps) : ∀ x, (execSampleRecord s) = .next x → Keeps s0 x ps := by
  unfold execSampleRecord
  grind [foldl_keeps', State.onLive_keeps, sampleRecord_keeps]

end Sys2Proof.Machine
end

