-- ==== Sys2Proof/Laws/Signature.lean ====
section
/-! SUPPORT. Two lemmas for every operation of Machine/Signature.lean. `…_ok`: the register table and the stack's memory stay
canonical. `…_keeps`: what agrees with a state outside a list of regions that holds those the operation can change still
agrees afterwards. -/

namespace Sys2Proof.Machine

set_option Elab.async false

theorem State.dealReads_ok (s : State) (hint : Hint) (units : List (Nat × Nat)) (h_s : s.Ok) : (State.dealReads s hint
    units).Ok := by
  unfold State.dealReads
  grind [State.Ok, foldl_ok, State.dropDone_ok, State.ingress_ok, State.skipIds_ok, State.usedPeek_ok]

theorem State.dealReads_keeps {s0 : State} {ps : List Region} (s : State) (hint : Hint) (units : List (Nat × Nat))
    (h_s : Keeps s0 s ps) (m_free : Region.free ∈ ps) (m_paths : Region.paths ∈ ps) (m_ring : Region.ring ∈ ps)
    (m_tags : Region.tags ∈ ps) (m_inj : Region.inj ∈ ps) : Keeps s0 (State.dealReads s hint units) ps := by
  unfold State.dealReads
  grind [foldl_keeps', State.dropDone_keeps, State.ingress_keeps, State.skipIds_keeps, State.usedPeek_keeps]

theorem State.bmeFetch_ok (s : State) (hint : Hint) (addr : Nat) (len : Nat) (h_s : s.Ok) : (State.bmeFetch s hint
    addr len).2.Ok := by
  unfold State.bmeFetch
  grind [State.Ok, foldl_ok, State.dealReads_ok]

theorem State.bmeFetch_keeps {s0 : State} {ps : List Region} (s : State) (hint : Hint) (addr : Nat) (len : Nat) (h_s :
    Keeps s0 s ps) (m_free : Region.free ∈ ps) (m_paths : Region.paths ∈ ps) (m_ring : Region.ring ∈ ps) (m_tags :
    Region.tags ∈ ps) (m_inj : Region.inj ∈ ps) : Keeps s0 (State.bmeFetch s hint addr len).2 ps := by
  unfold State.bmeFetch
  grind [foldl_keeps', State.dealReads_keeps]

theorem State.sigArrays_ok (s : State) (k : Pk) (a : SigParams) (d : Desc) (h_s : s.Ok) : (State.sigArrays s k a d).Ok
    := by
  unfold State.sigArrays
  dsimp only
  repeat' first
      | with_reducible assumption
      | with_reducible apply ite_ok
      | with_reducible refine foldl_ok (fun _ _ _ => ?_) _ ?_
      | with_reducible apply State.bmeFetch_ok
      | with_reducible apply State.finish_ok
      | with_reducible apply State.loadPk_ok
      | with_reducible apply State.modSeq_ok
      | split

theorem State.sigArrays_keeps {s0 : State} {ps : List Region} (s : State) (k : Pk) (a : SigParams) (d : Desc) (h_s :
    Keeps s0 s ps) (m_free : Region.free ∈ ps) (m_paths : Region.paths ∈ ps) (m_ring : Region.ring ∈ ps) (m_sched :
    Region.sched ∈ ps) (m_seq : Region.seq ∈ ps) (m_tags : Region.tags ∈ ps) (m_inj : Region.inj ∈ ps) : Keeps s0
    (State.sigArrays s k a d) ps := by
  unfold State.sigArrays
  dsimp only
  repeat' first
      | with_reducible assumption
      | with_reducible apply ite_keeps
      | with_reducible refine foldl_keeps' (fun _ _ _ => ?_) _ ?_
      | with_reducible apply State.bmeFetch_keeps
      | with_reducible apply State.finish_keeps
      | with_reducible apply State.loadPk_keeps
      | with_reducible apply State.modSeq_keeps
      | split

theorem signature_ok (s : State) (h_s : s.Ok) : (signature s).Ok := by
  unfold signature
  grind [State.Ok, foldl_ok, State.readDesc_ok, State.finish_ok, State.sigArrays_ok]

theorem signature_keeps {s0 : State} {ps : List Region} (s : State) (h_s : Keeps s0 s ps) (m_free : Region.free ∈ ps)
    (m_paths : Region.paths ∈ ps) (m_ring : Region.ring ∈ ps) (m_sched : Region.sched ∈ ps) (m_seq : Region.seq ∈ ps)
    (m_tags : Region.tags ∈ ps) (m_inj : Region.inj ∈ ps) : Keeps s0 (signature s) ps := by
  unfold signature
  grind [foldl_keeps', State.readDesc_keeps, State.finish_keeps, State.sigArrays_keeps]

theorem execSignature_ok (s : State) (h_s : s.Ok) : ∀ x, (execSignature s) = .next x → x.Ok := by
  unfold execSignature
  grind [State.Ok, foldl_ok, State.onLive_ok, signature_ok]

theorem execSignature_keeps {s0 : State} {ps : List Region} (s : State) (h_s : Keeps s0 s ps) (m_free : Region.free ∈
    ps) (m_paths : Region.paths ∈ ps) (m_ring : Region.ring ∈ ps) (m_sched : Region.sched ∈ ps) (m_seq : Region.seq ∈
    ps) (m_tags : Region.tags ∈ ps) (m_inj : Region.inj ∈ ps) : ∀ x, (execSignature s) = .next x → Keeps s0 x ps := by
  unfold execSignature
  grind [foldl_keeps', State.onLive_keeps, signature_keeps]

theorem State.ordered_ok (s : State) (b : Bag) (h_s : s.Ok) : (State.ordered s b).Ok := by
  unfold State.ordered
  grind [State.Ok, foldl_ok, State.modSeq_ok]

theorem State.ordered_keeps {s0 : State} {ps : List Region} (s : State) (b : Bag) (h_s : Keeps s0 s ps) (m_seq :
    Region.seq ∈ ps) : Keeps s0 (State.ordered s b) ps := by
  unfold State.ordered
  grind [foldl_keeps', State.modSeq_keeps]

theorem State.dealHost_ok (s : State) (o : SigOp) (h_s : s.Ok) : (State.dealHost s o).Ok := by
  unfold State.dealHost
  grind [State.Ok, foldl_ok, State.dealReads_ok, State.ordered_ok, State.putSig_ok]

theorem State.dealHost_keeps {s0 : State} {ps : List Region} (s : State) (o : SigOp) (h_s : Keeps s0 s ps) (m_free :
    Region.free ∈ ps) (m_paths : Region.paths ∈ ps) (m_ring : Region.ring ∈ ps) (m_seq : Region.seq ∈ ps) (m_tags :
    Region.tags ∈ ps) (m_inj : Region.inj ∈ ps) : Keeps s0 (State.dealHost s o) ps := by
  unfold State.dealHost
  grind [foldl_keeps', State.dealReads_keeps, State.ordered_keeps, State.putSig_keeps]

theorem State.dealRemote_ok (s : State) (o : SigOp) (h_s : s.Ok) : (State.dealRemote s o).Ok := by
  unfold State.dealRemote
  grind [State.Ok, foldl_ok, State.modSeq_ok, State.ordered_ok]

theorem State.dealRemote_keeps {s0 : State} {ps : List Region} (s : State) (o : SigOp) (h_s : Keeps s0 s ps) (m_seq :
    Region.seq ∈ ps) : Keeps s0 (State.dealRemote s o) ps := by
  unfold State.dealRemote
  grind [foldl_keeps', State.modSeq_keeps, State.ordered_keeps]

theorem bagDeal_ok (s : State) (h_s : s.Ok) : (bagDeal s).Ok := by
  unfold bagDeal
  grind [State.Ok, foldl_ok, State.modSeq_ok, State.dealHost_ok, State.dealRemote_ok]

theorem bagDeal_keeps {s0 : State} {ps : List Region} (s : State) (h_s : Keeps s0 s ps) (m_free : Region.free ∈ ps)
    (m_paths : Region.paths ∈ ps) (m_ring : Region.ring ∈ ps) (m_seq : Region.seq ∈ ps) (m_tags : Region.tags ∈ ps)
    (m_inj : Region.inj ∈ ps) : Keeps s0 (bagDeal s) ps := by
  unfold bagDeal
  grind [foldl_keeps', State.modSeq_keeps, State.dealHost_keeps, State.dealRemote_keeps]

theorem execBagDeal_ok (s : State) (h_s : s.Ok) : ∀ x, (execBagDeal s) = .next x → x.Ok := by
  unfold execBagDeal
  grind [State.Ok, foldl_ok, State.onLive_ok, bagDeal_ok]

theorem execBagDeal_keeps {s0 : State} {ps : List Region} (s : State) (h_s : Keeps s0 s ps) (m_free : Region.free ∈
    ps) (m_paths : Region.paths ∈ ps) (m_ring : Region.ring ∈ ps) (m_seq : Region.seq ∈ ps) (m_tags : Region.tags ∈
    ps) (m_inj : Region.inj ∈ ps) : ∀ x, (execBagDeal s) = .next x → Keeps s0 x ps := by
  unfold execBagDeal
  grind [foldl_keeps', State.onLive_keeps, bagDeal_keeps]

theorem State.readBlock_ok (s : State) (d : Desc) (b : Fin 32) (addr : Nat) (id : Nat) (h_s : s.Ok) : (State.readBlock
    s d b addr id).Ok := by
  unfold State.readBlock
  grind [State.Ok, foldl_ok, State.ingress_ok, State.sendAccess_ok]

theorem State.readBlock_keeps {s0 : State} {ps : List Region} (s : State) (d : Desc) (b : Fin 32) (addr : Nat) (id :
    Nat) (h_s : Keeps s0 s ps) (m_paths : Region.paths ∈ ps) (m_ring : Region.ring ∈ ps) (m_tags : Region.tags ∈ ps)
    (m_inj : Region.inj ∈ ps) : Keeps s0 (State.readBlock s d b addr id) ps := by
  unfold State.readBlock
  grind [foldl_keeps', State.ingress_keeps, State.sendAccess_keeps]

theorem State.readBlocks_ok (s : State) (d : Desc) (b : Fin 32) (row : Nat) (base : Nat) (k : Nat) (u0 : List Nat)
    (h_s : s.Ok) : (State.readBlocks s d b row base k u0).2.Ok := by
  induction u0 generalizing s k with
  | nil => exact h_s
  | cons j r ih =>
    unfold State.readBlocks
    split
    · exact ih _ _ (State.readBlock_ok _ _ _ _ _ h_s)
    · exact h_s

theorem State.readBlocks_keeps {s0 : State} {ps : List Region} (s : State) (d : Desc) (b : Fin 32) (row : Nat) (base :
    Nat) (k : Nat) (u0 : List Nat) (h_s : Keeps s0 s ps) (m_paths : Region.paths ∈ ps) (m_ring : Region.ring ∈ ps)
    (m_tags : Region.tags ∈ ps) (m_inj : Region.inj ∈ ps) : Keeps s0 (State.readBlocks s d b row base k u0).2 ps := by
  induction u0 generalizing s k with
  | nil => exact h_s
  | cons j r ih =>
    unfold State.readBlocks
    split
    · exact ih _ _ (State.readBlock_keeps _ _ _ _ _ h_s (by assumption) (by assumption) (by assumption) (by assumption))
    · exact h_s

theorem fetchOrder_ok (b : Fin 32) (s : State) (h_s : s.Ok) : (fetchOrder b s).Ok := by
  unfold fetchOrder
  grind [State.Ok, foldl_ok, State.progressed_ok, State.putSig_ok, State.readBlocks_ok, State.skipIds_ok]

theorem fetchOrder_keeps {s0 : State} {ps : List Region} (b : Fin 32) (s : State) (h_s : Keeps s0 s ps) (m_paths :
    Region.paths ∈ ps) (m_ring : Region.ring ∈ ps) (m_seq : Region.seq ∈ ps) (m_tags : Region.tags ∈ ps) (m_inj :
    Region.inj ∈ ps) : Keeps s0 (fetchOrder b s) ps := by
  unfold fetchOrder
  grind [foldl_keeps', State.progressed_keeps, State.putSig_keeps, State.readBlocks_keeps, State.skipIds_keeps]

theorem execFetchOrder_ok (b : Fin 32) (s : State) (h_s : s.Ok) : ∀ x, (execFetchOrder b s) = .next x → x.Ok := by
  unfold execFetchOrder
  grind [State.Ok, foldl_ok, State.onLive_ok, fetchOrder_ok]

theorem execFetchOrder_keeps {s0 : State} {ps : List Region} (b : Fin 32) (s : State) (h_s : Keeps s0 s ps) (m_paths :
    Region.paths ∈ ps) (m_ring : Region.ring ∈ ps) (m_seq : Region.seq ∈ ps) (m_tags : Region.tags ∈ ps) (m_inj :
    Region.inj ∈ ps) : ∀ x, (execFetchOrder b s) = .next x → Keeps s0 x ps := by
  unfold execFetchOrder
  grind [foldl_keeps', State.onLive_keeps, fetchOrder_keeps]

theorem State.arrived_ok (s : State) (tag : Nat) (st : Status) (data : List Byte) (h_s : s.Ok) : (State.arrived s tag
    st data).Ok := by
  unfold State.arrived
  grind [State.Ok, foldl_ok, State.putSig_ok]

theorem State.arrived_keeps {s0 : State} {ps : List Region} (s : State) (tag : Nat) (st : Status) (data : List Byte)
    (h_s : Keeps s0 s ps) (m_seq : Region.seq ∈ ps) : Keeps s0 (State.arrived s tag st data) ps := by
  unfold State.arrived
  grind [foldl_keeps', State.putSig_keeps]

theorem rowPartArrival_ok (b : Fin 32) (s : State) (h_s : s.Ok) : (rowPartArrival b s).Ok := by
  unfold rowPartArrival
  grind [State.Ok, foldl_ok, State.modPaths_ok, State.progressed_ok, State.arrived_ok]

theorem rowPartArrival_keeps {s0 : State} {ps : List Region} (b : Fin 32) (s : State) (h_s : Keeps s0 s ps) (m_paths :
    Region.paths ∈ ps) (m_seq : Region.seq ∈ ps) : Keeps s0 (rowPartArrival b s) ps := by
  unfold rowPartArrival
  grind [foldl_keeps', State.modPaths_keeps, State.progressed_keeps, State.arrived_keeps]

theorem execRowPartArrival_ok (b : Fin 32) (s : State) (h_s : s.Ok) : ∀ x, (execRowPartArrival b s) = .next x → x.Ok
    := by
  unfold execRowPartArrival
  grind [State.Ok, foldl_ok, State.onLive_ok, rowPartArrival_ok]

theorem execRowPartArrival_keeps {s0 : State} {ps : List Region} (b : Fin 32) (s : State) (h_s : Keeps s0 s ps)
    (m_paths : Region.paths ∈ ps) (m_seq : Region.seq ∈ ps) : ∀ x, (execRowPartArrival b s) = .next x → Keeps s0 x ps
    := by
  unfold execRowPartArrival
  grind [foldl_keeps', State.onLive_keeps, rowPartArrival_keeps]

theorem bagCommit_ok (s : State) (h_s : s.Ok) : (bagCommit s).Ok := by
  unfold bagCommit
  grind [State.Ok, foldl_ok, State.modSeq_ok, State.putSig_ok]

theorem bagCommit_keeps {s0 : State} {ps : List Region} (s : State) (h_s : Keeps s0 s ps) (m_seq : Region.seq ∈ ps) :
    Keeps s0 (bagCommit s) ps := by
  unfold bagCommit
  grind [foldl_keeps', State.modSeq_keeps, State.putSig_keeps]

theorem execBagCommit_ok (s : State) (h_s : s.Ok) : ∀ x, (execBagCommit s) = .next x → x.Ok := by
  unfold execBagCommit
  grind [State.Ok, foldl_ok, State.onLive_ok, bagCommit_ok]

theorem execBagCommit_keeps {s0 : State} {ps : List Region} (s : State) (h_s : Keeps s0 s ps) (m_seq : Region.seq ∈
    ps) : ∀ x, (execBagCommit s) = .next x → Keeps s0 x ps := by
  unfold execBagCommit
  grind [foldl_keeps', State.onLive_keeps, bagCommit_keeps]

theorem spineStage_ok (k : Fin 5) (s : State) (h_s : s.Ok) : (spineStage k s).Ok := by
  unfold spineStage
  grind [State.Ok, foldl_ok, State.modSeq_ok, State.putSig_ok]

theorem spineStage_keeps {s0 : State} {ps : List Region} (k : Fin 5) (s : State) (h_s : Keeps s0 s ps) (m_seq :
    Region.seq ∈ ps) : Keeps s0 (spineStage k s) ps := by
  unfold spineStage
  grind [foldl_keeps', State.modSeq_keeps, State.putSig_keeps]

theorem execSpineStage_ok (k : Fin 5) (s : State) (h_s : s.Ok) : ∀ x, (execSpineStage k s) = .next x → x.Ok := by
  unfold execSpineStage
  grind [State.Ok, foldl_ok, State.onLive_ok, spineStage_ok]

theorem execSpineStage_keeps {s0 : State} {ps : List Region} (k : Fin 5) (s : State) (h_s : Keeps s0 s ps) (m_seq :
    Region.seq ∈ ps) : ∀ x, (execSpineStage k s) = .next x → Keeps s0 x ps := by
  unfold execSpineStage
  grind [foldl_keeps', State.onLive_keeps, spineStage_keeps]

theorem State.bagWrites_ok (s : State) (o : SigOp) (g : Bag) (h_s : s.Ok) : (State.bagWrites s o g).2.Ok := by
  exact foldl_keeps (P := fun a : Written × State => a.2.Ok) (fun b x h => State.pkWrite_ok _ _ _ _ _ _ h) _ h_s

theorem State.bagWrites_keeps {s0 : State} {ps : List Region} (s : State) (o : SigOp) (g : Bag) (h_s : Keeps s0 s ps)
    (m_paths : Region.paths ∈ ps) (m_ring : Region.ring ∈ ps) (m_sched : Region.sched ∈ ps) (m_tags : Region.tags ∈
    ps) (m_inj : Region.inj ∈ ps) : Keeps s0 (State.bagWrites s o g).2 ps := by
  exact foldl_keeps (P := fun a : Written × State => Keeps s0 a.2 ps) (fun b x h => State.pkWrite_keeps _ _ _ _ _ _ h (by assumption) (by assumption) (by assumption) (by assumption) (by assumption)) _ h_s

theorem State.finishHost_ok (s : State) (o : SigOp) (g : Bag) (h_s : s.Ok) : (State.finishHost s o g).Ok := by
  unfold State.finishHost
  grind [State.Ok, foldl_ok, State.bagWrites_ok, State.sigEnd_ok]

theorem State.finishHost_keeps {s0 : State} {ps : List Region} (s : State) (o : SigOp) (g : Bag) (h_s : Keeps s0 s ps)
    (m_paths : Region.paths ∈ ps) (m_ring : Region.ring ∈ ps) (m_sched : Region.sched ∈ ps) (m_seq : Region.seq ∈ ps)
    (m_tags : Region.tags ∈ ps) (m_inj : Region.inj ∈ ps) : Keeps s0 (State.finishHost s o g) ps := by
  unfold State.finishHost
  grind [foldl_keeps', State.bagWrites_keeps, State.sigEnd_keeps]

theorem State.finishRemote_ok (s : State) (o : SigOp) (g : Bag) (r : Nat) (h_s : s.Ok) : (State.finishRemote s o g
    r).Ok := by
  unfold State.finishRemote
  grind [State.Ok, foldl_ok, State.modSeq_ok]

theorem State.finishRemote_keeps {s0 : State} {ps : List Region} (s : State) (o : SigOp) (g : Bag) (r : Nat) (h_s :
    Keeps s0 s ps) (m_seq : Region.seq ∈ ps) : Keeps s0 (State.finishRemote s o g r) ps := by
  unfold State.finishRemote
  grind [foldl_keeps', State.modSeq_keeps]

theorem bagFinish_ok (s : State) (h_s : s.Ok) : (bagFinish s).Ok := by
  unfold bagFinish
  grind [State.Ok, foldl_ok, State.finishHost_ok, State.finishRemote_ok, State.settleOps_ok]

theorem bagFinish_keeps {s0 : State} {ps : List Region} (s : State) (h_s : Keeps s0 s ps) (m_paths : Region.paths ∈
    ps) (m_ring : Region.ring ∈ ps) (m_sched : Region.sched ∈ ps) (m_seq : Region.seq ∈ ps) (m_tags : Region.tags ∈
    ps) (m_inj : Region.inj ∈ ps) : Keeps s0 (bagFinish s) ps := by
  unfold bagFinish
  grind [foldl_keeps', State.finishHost_keeps, State.finishRemote_keeps, State.settleOps_keeps]

theorem execBagFinish_ok (s : State) (h_s : s.Ok) : ∀ x, (execBagFinish s) = .next x → x.Ok := by
  unfold execBagFinish
  grind [State.Ok, foldl_ok, State.onLive_ok, bagFinish_ok]

theorem execBagFinish_keeps {s0 : State} {ps : List Region} (s : State) (h_s : Keeps s0 s ps) (m_paths : Region.paths
    ∈ ps) (m_ring : Region.ring ∈ ps) (m_sched : Region.sched ∈ ps) (m_seq : Region.seq ∈ ps) (m_tags : Region.tags ∈
    ps) (m_inj : Region.inj ∈ ps) : ∀ x, (execBagFinish s) = .next x → Keeps s0 x ps := by
  unfold execBagFinish
  grind [foldl_keeps', State.onLive_keeps, bagFinish_keeps]

theorem bagPrefetch_ok (s : State) (h_s : s.Ok) : (bagPrefetch s).Ok := by
  unfold bagPrefetch
  grind [State.Ok, foldl_ok, State.dealReads_ok, State.ingress_ok, State.putSig_ok, State.skipIds_ok]

theorem bagPrefetch_keeps {s0 : State} {ps : List Region} (s : State) (h_s : Keeps s0 s ps) (m_free : Region.free ∈
    ps) (m_paths : Region.paths ∈ ps) (m_ring : Region.ring ∈ ps) (m_seq : Region.seq ∈ ps) (m_tags : Region.tags ∈
    ps) (m_inj : Region.inj ∈ ps) : Keeps s0 (bagPrefetch s) ps := by
  unfold bagPrefetch
  grind [foldl_keeps', State.dealReads_keeps, State.ingress_keeps, State.putSig_keeps, State.skipIds_keeps]

theorem execBagPrefetch_ok (s : State) (h_s : s.Ok) : ∀ x, (execBagPrefetch s) = .next x → x.Ok := by
  unfold execBagPrefetch
  grind [State.Ok, foldl_ok, State.onLive_ok, bagPrefetch_ok]

theorem execBagPrefetch_keeps {s0 : State} {ps : List Region} (s : State) (h_s : Keeps s0 s ps) (m_free : Region.free
    ∈ ps) (m_paths : Region.paths ∈ ps) (m_ring : Region.ring ∈ ps) (m_seq : Region.seq ∈ ps) (m_tags : Region.tags ∈
    ps) (m_inj : Region.inj ∈ ps) : ∀ x, (execBagPrefetch s) = .next x → Keeps s0 x ps := by
  unfold execBagPrefetch
  grind [foldl_keeps', State.onLive_keeps, bagPrefetch_keeps]

theorem State.restartSig_ok (s : State) (o' : SigOp) (h_s : s.Ok) : (State.restartSig s o').Ok := by
  unfold State.restartSig
  grind [State.Ok, foldl_ok, State.putSig_ok]

theorem State.restartSig_keeps {s0 : State} {ps : List Region} (s : State) (o' : SigOp) (h_s : Keeps s0 s ps) (m_seq :
    Region.seq ∈ ps) : Keeps s0 (State.restartSig s o') ps := by
  unfold State.restartSig
  grind [foldl_keeps', State.putSig_keeps]

theorem State.restartPress_ok (s : State) (o : PressOp) (b : Fin 32) (h_s : s.Ok) : (State.restartPress s o b).Ok :=
    by
  unfold State.restartPress
  grind [State.Ok, foldl_ok, State.modSeq_ok, State.putPress_ok]

theorem State.restartPress_keeps {s0 : State} {ps : List Region} (s : State) (o : PressOp) (b : Fin 32) (h_s : Keeps
    s0 s ps) (m_seq : Region.seq ∈ ps) : Keeps s0 (State.restartPress s o b) ps := by
  unfold State.restartPress
  grind [foldl_keeps', State.modSeq_keeps, State.putPress_keeps]

theorem bmeFail_ok (b : Fin 32) (cond : Nat) (s : State) (h_s : s.Ok) : (bmeFail b cond s).Ok := by
  unfold bmeFail
  grind [State.Ok, foldl_ok, State.fec_ok, State.fwDom_ok, State.known_ok, State.logRec_ok, State.modPwr_ok,
    State.modSeq_ok, State.raise_ok, State.restartPress_ok, State.restartSig_ok, State.sf_ok]

theorem bmeFail_keeps {s0 : State} {ps : List Region} (b : Fin 32) (cond : Nat) (s : State) (h_s : Keeps s0 s ps)
    (m_pwr : Region.pwr ∈ ps) (m_inbox : Region.inbox ∈ ps) (m_fw : Region.fw ∈ ps) (m_seq : Region.seq ∈ ps) : Keeps
    s0 (bmeFail b cond s) ps := by
  unfold bmeFail
  dsimp only
  repeat' first
      | with_reducible assumption
      | with_reducible apply ite_keeps
      | with_reducible refine foldl_keeps' (fun _ _ _ => ?_) _ ?_
      | with_reducible apply State.fec_keeps
      | with_reducible apply State.fwDom_keeps
      | with_reducible apply State.known_keeps
      | with_reducible apply State.logRec_keeps
      | with_reducible apply State.modPwr_keeps
      | with_reducible apply State.modSeq_keeps
      | with_reducible apply State.raise_keeps
      | with_reducible apply State.restartPress_keeps
      | with_reducible apply State.restartSig_keeps
      | with_reducible apply State.sf_keeps
      | split

theorem execBmeFail_ok (b : Fin 32) (cond : BitVec 2) (s : State) (h_s : s.Ok) : ∀ x, (execBmeFail b cond s) = .next x
    → x.Ok := by
  unfold execBmeFail
  grind [State.Ok, foldl_ok, State.onLive_ok, bmeFail_ok]

theorem execBmeFail_keeps {s0 : State} {ps : List Region} (b : Fin 32) (cond : BitVec 2) (s : State) (h_s : Keeps s0 s
    ps) (m_pwr : Region.pwr ∈ ps) (m_inbox : Region.inbox ∈ ps) (m_fw : Region.fw ∈ ps) (m_seq : Region.seq ∈ ps) : ∀
    x, (execBmeFail b cond s) = .next x → Keeps s0 x ps := by
  unfold execBmeFail
  grind [foldl_keeps', State.onLive_keeps, bmeFail_keeps]

theorem bmeProgressTimeout_ok (b : Fin 32) (s : State) (h_s : s.Ok) : (bmeProgressTimeout b s).Ok := by
  unfold bmeProgressTimeout
  grind [State.Ok, foldl_ok, bmeFail_ok]

theorem bmeProgressTimeout_keeps {s0 : State} {ps : List Region} (b : Fin 32) (s : State) (h_s : Keeps s0 s ps) (m_pwr
    : Region.pwr ∈ ps) (m_inbox : Region.inbox ∈ ps) (m_fw : Region.fw ∈ ps) (m_seq : Region.seq ∈ ps) : Keeps s0
    (bmeProgressTimeout b s) ps := by
  unfold bmeProgressTimeout
  grind [foldl_keeps', bmeFail_keeps]

theorem execBmeProgressTimeout_ok (b : Fin 32) (s : State) (h_s : s.Ok) : ∀ x, (execBmeProgressTimeout b s) = .next x
    → x.Ok := by
  unfold execBmeProgressTimeout
  grind [State.Ok, foldl_ok, State.onLive_ok, bmeProgressTimeout_ok]

theorem execBmeProgressTimeout_keeps {s0 : State} {ps : List Region} (b : Fin 32) (s : State) (h_s : Keeps s0 s ps)
    (m_pwr : Region.pwr ∈ ps) (m_inbox : Region.inbox ∈ ps) (m_fw : Region.fw ∈ ps) (m_seq : Region.seq ∈ ps) : ∀ x,
    (execBmeProgressTimeout b s) = .next x → Keeps s0 x ps := by
  unfold execBmeProgressTimeout
  grind [foldl_keeps', State.onLive_keeps, bmeProgressTimeout_keeps]

end Sys2Proof.Machine
end

