-- ==== Sys2Proof/Laws/Elementwise.lean ====
section
/-! SUPPORT. Two lemmas for every operation of Machine/Elementwise.lean. `…_ok`: the register table and the stack's memory stay
canonical. `…_keeps`: what agrees with a state outside a list of regions that holds those the operation can change still
agrees afterwards. -/

namespace Sys2Proof.Machine

set_option Elab.async false

theorem State.ewStart_ok (s : State) (o : EwOp) (h_s : s.Ok) : (State.ewStart s o).Ok := by
  unfold State.ewStart
  grind [State.Ok, foldl_ok, State.loadPk_ok, State.modSeq_ok]

theorem State.ewStart_keeps {s0 : State} {ps : List Region} (s : State) (o : EwOp) (h_s : Keeps s0 s ps) (m_sched :
    Region.sched ∈ ps) (m_seq : Region.seq ∈ ps) : Keeps s0 (State.ewStart s o) ps := by
  unfold State.ewStart
  grind [foldl_keeps', State.loadPk_keeps, State.modSeq_keeps]

theorem State.ewBlocks_ok (s : State) (p : Packet) (h_s : s.Ok) : (State.ewBlocks s p).Ok := by
  unfold State.ewBlocks
  grind [State.Ok, foldl_ok, State.finish_ok, State.ewStart_ok]

theorem State.ewBlocks_keeps {s0 : State} {ps : List Region} (s : State) (p : Packet) (h_s : Keeps s0 s ps) (m_sched :
    Region.sched ∈ ps) (m_seq : Region.seq ∈ ps) : Keeps s0 (State.ewBlocks s p) ps := by
  unfold State.ewBlocks
  grind [foldl_keeps', State.finish_keeps, State.ewStart_keeps]

theorem State.ewQuantise_ok (s : State) (p : Packet) (h_s : s.Ok) : (State.ewQuantise s p).Ok := by
  unfold State.ewQuantise
  grind [State.Ok, foldl_ok, State.readDesc_ok, State.finish_ok, State.ewStart_ok]

theorem State.ewQuantise_keeps {s0 : State} {ps : List Region} (s : State) (p : Packet) (h_s : Keeps s0 s ps) (m_free
    : Region.free ∈ ps) (m_paths : Region.paths ∈ ps) (m_ring : Region.ring ∈ ps) (m_sched : Region.sched ∈ ps) (m_seq
    : Region.seq ∈ ps) (m_tags : Region.tags ∈ ps) (m_inj : Region.inj ∈ ps) : Keeps s0 (State.ewQuantise s p) ps :=
    by
  unfold State.ewQuantise
  grind [foldl_keeps', State.readDesc_keeps, State.finish_keeps, State.ewStart_keeps]

theorem State.ewUpdate_ok (s : State) (p : Packet) (h_s : s.Ok) : (State.ewUpdate s p).Ok := by
  unfold State.ewUpdate
  have h1 := State.readDesc_ok s (p.nat 16 2) h_s
  dsimp only
  generalize s.readDesc (p.nat 16 2) = q at h1 ⊢
  obtain ⟨d, u⟩ := q
  dsimp only at h1 ⊢
  have fin (a : State) (k : Pk) (st : Status) (x y : Nat) (h : a.Ok) := State.finish_ok a k st x y h
  cases d with
  | none => exact fin _ _ _ _ _ h1
  | some d =>
    dsimp only
    refine ite_ok (fin _ _ _ _ _ h1) (ite_ok (fin _ _ _ _ _ h1) (ite_ok (fin _ _ _ _ _ h1) (ite_ok (fin _ _ _ _ _ h1)
      (ite_ok (fin _ _ _ _ _ h1) (ite_ok (fin _ _ _ _ _ h1) ?_)))))
    split
    · exact fin _ _ _ _ _ h1
    refine ite_ok (fin _ _ _ _ _ h1) (ite_ok (fin _ _ _ _ _ h1) (ite_ok (fin _ _ _ _ _ (State.bmeFetch_ok _ _ _ _ h1))
        ?_))
    split
    · exact fin _ _ _ _ _ (State.bmeFetch_ok _ _ _ _ h1)
    · exact State.ewStart_ok _ _ (State.bmeFetch_ok _ _ _ _ h1)

theorem State.ewUpdate_keeps {s0 : State} {ps : List Region} (s : State) (p : Packet) (h_s : Keeps s0 s ps) (m_free :
    Region.free ∈ ps) (m_paths : Region.paths ∈ ps) (m_ring : Region.ring ∈ ps) (m_sched : Region.sched ∈ ps) (m_seq :
    Region.seq ∈ ps) (m_tags : Region.tags ∈ ps) (m_inj : Region.inj ∈ ps) : Keeps s0 (State.ewUpdate s p) ps := by
  unfold State.ewUpdate
  dsimp only
  repeat' first
      | with_reducible assumption
      | with_reducible apply ite_keeps
      | with_reducible refine foldl_keeps' (fun _ _ _ => ?_) _ ?_
      | with_reducible apply State.readDesc_keeps
      | with_reducible apply State.finish_keeps
      | with_reducible apply State.bmeFetch_keeps
      | with_reducible apply State.ewStart_keeps
      | split

theorem State.ewIntake_ok (s : State) (p : Packet) (h_s : s.Ok) : (State.ewIntake s p).Ok := by
  unfold State.ewIntake
  grind [State.Ok, foldl_ok, State.ewBlocks_ok, State.ewQuantise_ok, State.ewUpdate_ok, State.finish_ok]

theorem State.ewIntake_keeps {s0 : State} {ps : List Region} (s : State) (p : Packet) (h_s : Keeps s0 s ps) (m_free :
    Region.free ∈ ps) (m_paths : Region.paths ∈ ps) (m_ring : Region.ring ∈ ps) (m_sched : Region.sched ∈ ps) (m_seq :
    Region.seq ∈ ps) (m_tags : Region.tags ∈ ps) (m_inj : Region.inj ∈ ps) : Keeps s0 (State.ewIntake s p) ps := by
  unfold State.ewIntake
  grind [foldl_keeps', State.ewBlocks_keeps, State.ewQuantise_keeps, State.ewUpdate_keeps, State.finish_keeps]

theorem State.ewNext_ok (s : State) (o : EwOp) (h_s : s.Ok) : (State.ewNext s o).Ok := by
  unfold State.ewNext
  grind [State.Ok, foldl_ok, State.putEw_ok, State.ewEnd_ok]

theorem State.ewNext_keeps {s0 : State} {ps : List Region} (s : State) (o : EwOp) (h_s : Keeps s0 s ps) (m_sched :
    Region.sched ∈ ps) (m_seq : Region.seq ∈ ps) : Keeps s0 (State.ewNext s o) ps := by
  unfold State.ewNext
  grind [foldl_keeps', State.putEw_keeps, State.ewEnd_keeps]

theorem State.readElems_ok (s : State) (b : Fin 32) (f : Format) (addr : Nat) (i : Nat) (n : Nat) (h_s : s.Ok) :
    (State.readElems s b f addr i n).2.Ok := by
  unfold State.readElems
  grind [State.Ok, foldl_ok, State.fetch_ok]

theorem State.readElems_keeps {s0 : State} {ps : List Region} (s : State) (b : Fin 32) (f : Format) (addr : Nat) (i :
    Nat) (n : Nat) (h_s : Keeps s0 s ps) (m_free : Region.free ∈ ps) (m_paths : Region.paths ∈ ps) (m_ring :
    Region.ring ∈ ps) (m_tags : Region.tags ∈ ps) (m_inj : Region.inj ∈ ps) : Keeps s0 (State.readElems s b f addr i
    n).2 ps := by
  unfold State.readElems
  grind [foldl_keeps', State.fetch_keeps]

theorem State.readOperand_ok (s : State) (b : Fin 32) (f : Format) (addr : Nat) (total : Nat) (i : Nat) (n : Nat) (h_s
    : s.Ok) : (State.readOperand s b f addr total i n).2.Ok := by
  unfold State.readOperand
  grind [State.Ok, foldl_ok, State.readElems_ok, State.fetch_ok]

theorem State.readOperand_keeps {s0 : State} {ps : List Region} (s : State) (b : Fin 32) (f : Format) (addr : Nat)
    (total : Nat) (i : Nat) (n : Nat) (h_s : Keeps s0 s ps) (m_free : Region.free ∈ ps) (m_paths : Region.paths ∈ ps)
    (m_ring : Region.ring ∈ ps) (m_tags : Region.tags ∈ ps) (m_inj : Region.inj ∈ ps) : Keeps s0 (State.readOperand s
    b f addr total i n).2 ps := by
  unfold State.readOperand
  grind [foldl_keeps', State.readElems_keeps, State.fetch_keeps]

theorem State.ewBlock_ok (s : State) (o : EwOp) (h_s : s.Ok) : (State.ewBlock s o).Ok := by
  unfold State.ewBlock
  grind [State.Ok, foldl_ok, State.readOperand_ok, State.ewNext_ok, State.pkWrite_ok, State.tick_ok]

theorem State.ewBlock_keeps {s0 : State} {ps : List Region} (s : State) (o : EwOp) (h_s : Keeps s0 s ps) (m_free :
    Region.free ∈ ps) (m_paths : Region.paths ∈ ps) (m_ring : Region.ring ∈ ps) (m_sched : Region.sched ∈ ps) (m_seq :
    Region.seq ∈ ps) (m_tags : Region.tags ∈ ps) (m_inj : Region.inj ∈ ps) : Keeps s0 (State.ewBlock s o) ps := by
  unfold State.ewBlock
  grind [foldl_keeps', State.readOperand_keeps, State.ewNext_keeps, State.pkWrite_keeps, State.tick_keeps]

theorem State.ewQuantRow_ok (s : State) (o : EwOp) (h_s : s.Ok) : (State.ewQuantRow s o).Ok := by
  unfold State.ewQuantRow
  grind [State.Ok, foldl_ok, State.fetch_ok, State.ewNext_ok, State.pkWrite_ok, State.tick_ok]

theorem State.ewQuantRow_keeps {s0 : State} {ps : List Region} (s : State) (o : EwOp) (h_s : Keeps s0 s ps) (m_free :
    Region.free ∈ ps) (m_paths : Region.paths ∈ ps) (m_ring : Region.ring ∈ ps) (m_sched : Region.sched ∈ ps) (m_seq :
    Region.seq ∈ ps) (m_tags : Region.tags ∈ ps) (m_inj : Region.inj ∈ ps) : Keeps s0 (State.ewQuantRow s o) ps := by
  unfold State.ewQuantRow
  grind [foldl_keeps', State.fetch_keeps, State.ewNext_keeps, State.pkWrite_keeps, State.tick_keeps]

theorem State.ewPart_ok (s : State) (o : EwOp) (d : Desc) (row : Nat) (gr : Nat) (e : Nat) (n : Nat) (h_s : s.Ok) :
    (State.ewPart s o d row gr e n).1.Ok := by
  unfold State.ewPart
  grind [State.Ok, foldl_ok, State.fetch_ok, State.pkWrite_ok, State.tick_ok]

theorem State.ewPart_keeps {s0 : State} {ps : List Region} (s : State) (o : EwOp) (d : Desc) (row : Nat) (gr : Nat) (e
    : Nat) (n : Nat) (h_s : Keeps s0 s ps) (m_free : Region.free ∈ ps) (m_paths : Region.paths ∈ ps) (m_ring :
    Region.ring ∈ ps) (m_sched : Region.sched ∈ ps) (m_tags : Region.tags ∈ ps) (m_inj : Region.inj ∈ ps) : Keeps s0
    (State.ewPart s o d row gr e n).1 ps := by
  unfold State.ewPart
  grind [foldl_keeps', State.fetch_keeps, State.pkWrite_keeps, State.tick_keeps]

theorem State.ewPosition_ok (s : State) (o : EwOp) (h_s : s.Ok) : (State.ewPosition s o).Ok := by
  unfold State.ewPosition
  split
  · exact h_s
  · dsimp only
    split
    · exact h_s
    · refine State.ewNext_ok _ _ (foldl_keeps (P := fun a : State × EwOp × Val × Option Status => a.1.Ok) (fun b j h
        => ?_) _ h_s)
      exact State.ewPart_ok b.1 _ _ _ _ _ _ h

theorem State.ewPosition_keeps {s0 : State} {ps : List Region} (s : State) (o : EwOp) (h_s : Keeps s0 s ps) (m_free :
    Region.free ∈ ps) (m_paths : Region.paths ∈ ps) (m_ring : Region.ring ∈ ps) (m_sched : Region.sched ∈ ps) (m_seq :
    Region.seq ∈ ps) (m_tags : Region.tags ∈ ps) (m_inj : Region.inj ∈ ps) : Keeps s0 (State.ewPosition s o) ps := by
  unfold State.ewPosition
  split
  · exact h_s
  · dsimp only
    split
    · exact h_s
    · apply State.ewNext_keeps <;> try assumption
      refine foldl_keeps (P := fun a : State × EwOp × Val × Option Status => Keeps s0 a.1 ps) (fun b j h => ?_) _ h_s
      apply State.ewPart_keeps <;> assumption

theorem ewStep_ok (mine : Nat → Bool) (step : State → EwOp → State) (s : State) (h_step : ∀ y0 y1, y0.Ok → (step y0
    y1).Ok) (h_s : s.Ok) : (ewStep mine step s).Ok := by
  unfold ewStep
  grind [State.Ok, foldl_ok, State.ewIntake_ok]

theorem ewStep_keeps {s0 : State} {ps : List Region} (mine : Nat → Bool) (step : State → EwOp → State) (s : State)
    (h_step : ∀ y0 y1, Keeps s0 y0 ps → Keeps s0 (step y0 y1) ps) (h_s : Keeps s0 s ps) (m_free : Region.free ∈ ps)
    (m_paths : Region.paths ∈ ps) (m_ring : Region.ring ∈ ps) (m_sched : Region.sched ∈ ps) (m_seq : Region.seq ∈ ps)
    (m_tags : Region.tags ∈ ps) (m_inj : Region.inj ∈ ps) : Keeps s0 (ewStep mine step s) ps := by
  unfold ewStep
  grind [foldl_keeps', State.ewIntake_keeps]

theorem execScaleAdd_ok (s : State) (h_s : s.Ok) : ∀ x, (execScaleAdd s) = .next x → x.Ok := by
  unfold execScaleAdd
  grind [State.Ok, foldl_ok, State.onLive_ok, ewStep_ok, State.ewBlock_ok]

theorem execScaleAdd_keeps {s0 : State} {ps : List Region} (s : State) (h_s : Keeps s0 s ps) (m_free : Region.free ∈
    ps) (m_paths : Region.paths ∈ ps) (m_ring : Region.ring ∈ ps) (m_sched : Region.sched ∈ ps) (m_seq : Region.seq ∈
    ps) (m_tags : Region.tags ∈ ps) (m_inj : Region.inj ∈ ps) : ∀ x, (execScaleAdd s) = .next x → Keeps s0 x ps := by
  unfold execScaleAdd
  grind [foldl_keeps', State.onLive_keeps, ewStep_keeps, State.ewBlock_keeps]

theorem execMul_ok (s : State) (h_s : s.Ok) : ∀ x, (execMul s) = .next x → x.Ok := by
  unfold execMul
  grind [State.Ok, foldl_ok, State.onLive_ok, ewStep_ok, State.ewBlock_ok]

theorem execMul_keeps {s0 : State} {ps : List Region} (s : State) (h_s : Keeps s0 s ps) (m_free : Region.free ∈ ps)
    (m_paths : Region.paths ∈ ps) (m_ring : Region.ring ∈ ps) (m_sched : Region.sched ∈ ps) (m_seq : Region.seq ∈ ps)
    (m_tags : Region.tags ∈ ps) (m_inj : Region.inj ∈ ps) : ∀ x, (execMul s) = .next x → Keeps s0 x ps := by
  unfold execMul
  grind [foldl_keeps', State.onLive_keeps, ewStep_keeps, State.ewBlock_keeps]

theorem execRelu_ok (s : State) (h_s : s.Ok) : ∀ x, (execRelu s) = .next x → x.Ok := by
  unfold execRelu
  grind [State.Ok, foldl_ok, State.onLive_ok, ewStep_ok, State.ewBlock_ok]

theorem execRelu_keeps {s0 : State} {ps : List Region} (s : State) (h_s : Keeps s0 s ps) (m_free : Region.free ∈ ps)
    (m_paths : Region.paths ∈ ps) (m_ring : Region.ring ∈ ps) (m_sched : Region.sched ∈ ps) (m_seq : Region.seq ∈ ps)
    (m_tags : Region.tags ∈ ps) (m_inj : Region.inj ∈ ps) : ∀ x, (execRelu s) = .next x → Keeps s0 x ps := by
  unfold execRelu
  grind [foldl_keeps', State.onLive_keeps, ewStep_keeps, State.ewBlock_keeps]

theorem execConvert_ok (s : State) (h_s : s.Ok) : ∀ x, (execConvert s) = .next x → x.Ok := by
  unfold execConvert
  grind [State.Ok, foldl_ok, State.onLive_ok, ewStep_ok, State.ewBlock_ok]

theorem execConvert_keeps {s0 : State} {ps : List Region} (s : State) (h_s : Keeps s0 s ps) (m_free : Region.free ∈
    ps) (m_paths : Region.paths ∈ ps) (m_ring : Region.ring ∈ ps) (m_sched : Region.sched ∈ ps) (m_seq : Region.seq ∈
    ps) (m_tags : Region.tags ∈ ps) (m_inj : Region.inj ∈ ps) : ∀ x, (execConvert s) = .next x → Keeps s0 x ps := by
  unfold execConvert
  grind [foldl_keeps', State.onLive_keeps, ewStep_keeps, State.ewBlock_keeps]

theorem execRowQuantise_ok (s : State) (h_s : s.Ok) : ∀ x, (execRowQuantise s) = .next x → x.Ok := by
  unfold execRowQuantise
  grind [State.Ok, foldl_ok, State.onLive_ok, ewStep_ok, State.ewQuantRow_ok]

theorem execRowQuantise_keeps {s0 : State} {ps : List Region} (s : State) (h_s : Keeps s0 s ps) (m_free : Region.free
    ∈ ps) (m_paths : Region.paths ∈ ps) (m_ring : Region.ring ∈ ps) (m_sched : Region.sched ∈ ps) (m_seq : Region.seq
    ∈ ps) (m_tags : Region.tags ∈ ps) (m_inj : Region.inj ∈ ps) : ∀ x, (execRowQuantise s) = .next x → Keeps s0 x ps
    := by
  unfold execRowQuantise
  grind [foldl_keeps', State.onLive_keeps, ewStep_keeps, State.ewQuantRow_keeps]

theorem execRowUpdate_ok (s : State) (h_s : s.Ok) : ∀ x, (execRowUpdate s) = .next x → x.Ok := by
  unfold execRowUpdate
  grind [State.Ok, foldl_ok, State.onLive_ok, ewStep_ok, State.ewPosition_ok]

theorem execRowUpdate_keeps {s0 : State} {ps : List Region} (s : State) (h_s : Keeps s0 s ps) (m_free : Region.free ∈
    ps) (m_paths : Region.paths ∈ ps) (m_ring : Region.ring ∈ ps) (m_sched : Region.sched ∈ ps) (m_seq : Region.seq ∈
    ps) (m_tags : Region.tags ∈ ps) (m_inj : Region.inj ∈ ps) : ∀ x, (execRowUpdate s) = .next x → Keeps s0 x ps := by
  unfold execRowUpdate
  grind [foldl_keeps', State.onLive_keeps, ewStep_keeps, State.ewPosition_keeps]

end Sys2Proof.Machine
end

