-- ==== Sys2Proof/Laws/HostPort.lean ====
section
/-! SUPPORT. Two lemmas for every operation of Machine/HostPort.lean. `…_ok`: the register table and the stack's memory stay
canonical. `…_keeps`: what agrees with a state outside a list of regions that holds those the operation can change still
agrees afterwards. -/

namespace Sys2Proof.Machine

set_option Elab.async false

theorem State.launch_ok (s : State) (t : HostTxn) (sizeOk : Bool) (h_s : s.Ok) : (State.launch s t sizeOk).Ok := by
  unfold State.launch
  grind [State.Ok, foldl_ok, State.modPort_ok, State.modTag_ok, State.ingress_ok]

theorem State.launch_keeps {s0 : State} {ps : List Region} (s : State) (t : HostTxn) (sizeOk : Bool) (h_s : Keeps s0 s
    ps) (m_paths : Region.paths ∈ ps) (m_ring : Region.ring ∈ ps) (m_tags : Region.tags ∈ ps) (m_inj : Region.inj ∈
    ps) : Keeps s0 (State.launch s t sizeOk) ps := by
  unfold State.launch
  grind [foldl_keeps', State.modPort_keeps, State.modTag_keeps, State.ingress_keeps]

theorem State.launchAll_ok (u0 : Nat) (u1 : Fin 16) (u2 : State) (h_u2 : u2.Ok) : (State.launchAll u0 u1 u2).Ok := by
  induction u0 generalizing u2 with
  | zero => exact h_u2
  | succ n ih =>
    unfold State.launchAll
    split
    · exact h_u2
    · exact ih _ (State.launch_ok _ _ _ h_u2)

theorem State.launchAll_keeps {s0 : State} {ps : List Region} (u0 : Nat) (u1 : Fin 16) (u2 : State) (h_u2 : Keeps s0
    u2 ps) (m_paths : Region.paths ∈ ps) (m_ring : Region.ring ∈ ps) (m_tags : Region.tags ∈ ps) (m_inj : Region.inj ∈
    ps) : Keeps s0 (State.launchAll u0 u1 u2) ps := by
  induction u0 generalizing u2 with
  | zero => exact h_u2
  | succ n ih =>
    unfold State.launchAll
    split
    · exact h_u2
    · exact ih _ (by apply State.launch_keeps <;> assumption)

theorem hostRequest_ok (p : Fin 16) (addr : BitVec 52) (op : BitVec 4) (size : BitVec 3) (hint : BitVec 2) (discard :
    Bool) (urgent : Bool) (tag : BitVec 7) (attr : BitVec 16) (s : State) (h_s : s.Ok) : (hostRequest p addr op size
    hint discard urgent tag attr s).Ok := by
  unfold hostRequest
  grind [State.Ok, foldl_ok, State.modPort_ok, State.draw_ok, State.launchAll_ok, State.skipIds_ok]

theorem hostRequest_keeps {s0 : State} {ps : List Region} (p : Fin 16) (addr : BitVec 52) (op : BitVec 4) (size :
    BitVec 3) (hint : BitVec 2) (discard : Bool) (urgent : Bool) (tag : BitVec 7) (attr : BitVec 16) (s : State) (h_s
    : Keeps s0 s ps) (m_paths : Region.paths ∈ ps) (m_ring : Region.ring ∈ ps) (m_tags : Region.tags ∈ ps) (m_inj :
    Region.inj ∈ ps) : Keeps s0 (hostRequest p addr op size hint discard urgent tag attr s) ps := by
  unfold hostRequest
  grind [foldl_keeps', State.modPort_keeps, State.draw_keeps, State.launchAll_keeps, State.skipIds_keeps]

theorem execHostRequest_ok (p : Fin 16) (addr : BitVec 52) (op : BitVec 4) (size : BitVec 3) (hint : BitVec 2)
    (discard : Bool) (urgent : Bool) (tag : BitVec 7) (attr : BitVec 16) (s : State) (h_s : s.Ok) : ∀ x,
    (execHostRequest p addr op size hint discard urgent tag attr s) = .next x → x.Ok := by
  unfold execHostRequest
  grind [State.Ok, foldl_ok, State.onLive_ok, hostRequest_ok]

theorem execHostRequest_keeps {s0 : State} {ps : List Region} (p : Fin 16) (addr : BitVec 52) (op : BitVec 4) (size :
    BitVec 3) (hint : BitVec 2) (discard : Bool) (urgent : Bool) (tag : BitVec 7) (attr : BitVec 16) (s : State) (h_s
    : Keeps s0 s ps) (m_paths : Region.paths ∈ ps) (m_ring : Region.ring ∈ ps) (m_tags : Region.tags ∈ ps) (m_inj :
    Region.inj ∈ ps) : ∀ x, (execHostRequest p addr op size hint discard urgent tag attr s) = .next x → Keeps s0 x ps
    := by
  unfold execHostRequest
  grind [foldl_keeps', State.onLive_keeps, hostRequest_keeps]

theorem hostWriteDataBeat_ok (p : Fin 16) (data : List Byte) (strb : List Bool) (last : Bool) (s : State) (h_s : s.Ok)
    : (hostWriteDataBeat p data strb last s).Ok := by
  unfold hostWriteDataBeat
  grind [State.Ok, foldl_ok, State.launchAll_ok, State.modPort_ok]

theorem hostWriteDataBeat_keeps {s0 : State} {ps : List Region} (p : Fin 16) (data : List Byte) (strb : List Bool)
    (last : Bool) (s : State) (h_s : Keeps s0 s ps) (m_paths : Region.paths ∈ ps) (m_ring : Region.ring ∈ ps) (m_tags
    : Region.tags ∈ ps) (m_inj : Region.inj ∈ ps) : Keeps s0 (hostWriteDataBeat p data strb last s) ps := by
  unfold hostWriteDataBeat
  grind [foldl_keeps', State.launchAll_keeps, State.modPort_keeps]

theorem execHostWriteDataBeat_ok (p : Fin 16) (data : List Byte) (strb : List Bool) (last : Bool) (s : State) (h_s :
    s.Ok) : ∀ x, (execHostWriteDataBeat p data strb last s) = .next x → x.Ok := by
  unfold execHostWriteDataBeat
  grind [State.Ok, foldl_ok, State.onLive_ok, hostWriteDataBeat_ok]

theorem execHostWriteDataBeat_keeps {s0 : State} {ps : List Region} (p : Fin 16) (data : List Byte) (strb : List Bool)
    (last : Bool) (s : State) (h_s : Keeps s0 s ps) (m_paths : Region.paths ∈ ps) (m_ring : Region.ring ∈ ps) (m_tags
    : Region.tags ∈ ps) (m_inj : Region.inj ∈ ps) : ∀ x, (execHostWriteDataBeat p data strb last s) = .next x → Keeps
    s0 x ps := by
  unfold execHostWriteDataBeat
  grind [foldl_keeps', State.onLive_keeps, hostWriteDataBeat_keeps]

theorem hostResponseBeat_ok (p : Fin 16) (tag : BitVec 7) (s : State) (h_s : s.Ok) : (hostResponseBeat p tag s).Ok :=
    by
  unfold hostResponseBeat
  grind [State.Ok, foldl_ok, State.modPort_ok, State.endTag_ok]

theorem hostResponseBeat_keeps {s0 : State} {ps : List Region} (p : Fin 16) (tag : BitVec 7) (s : State) (h_s : Keeps
    s0 s ps) (m_paths : Region.paths ∈ ps) (m_tags : Region.tags ∈ ps) : Keeps s0 (hostResponseBeat p tag s) ps := by
  unfold hostResponseBeat
  grind [foldl_keeps', State.modPort_keeps, State.endTag_keeps]

theorem execHostResponseBeat_ok (p : Fin 16) (tag : BitVec 7) (s : State) (h_s : s.Ok) : ∀ x, (execHostResponseBeat p
    tag s) = .next x → x.Ok := by
  unfold execHostResponseBeat
  grind [State.Ok, foldl_ok, State.onLive_ok, hostResponseBeat_ok]

theorem execHostResponseBeat_keeps {s0 : State} {ps : List Region} (p : Fin 16) (tag : BitVec 7) (s : State) (h_s :
    Keeps s0 s ps) (m_paths : Region.paths ∈ ps) (m_tags : Region.tags ∈ ps) : ∀ x, (execHostResponseBeat p tag s) =
    .next x → Keeps s0 x ps := by
  unfold execHostResponseBeat
  grind [foldl_keeps', State.onLive_keeps, hostResponseBeat_keeps]

end Sys2Proof.Machine
end

