-- ==== Sys2Proof/Laws/Remote.lean ====
section
/-! SUPPORT. Two lemmas for every operation of Machine/Remote.lean. `…_ok`: the register table and the stack's memory stay
canonical. `…_keeps`: what agrees with a state outside a list of regions that holds those the operation can change still
agrees afterwards. -/

namespace Sys2Proof.Machine

set_option Elab.async false

theorem State.rxBytes_ok (s : State) (n : Fin 8) (b : List Byte) (err : Bool) (h_s : s.Ok) : (State.rxBytes s n b
    err).Ok := by
  unfold State.rxBytes
  grind [State.Ok, foldl_ok, State.control_ok, State.countPort_ok, State.fec_ok, State.freeRx_ok, State.modSub_ok,
    State.raise_ok, State.route'_ok]

theorem State.rxBytes_keeps {s0 : State} {ps : List Region} (s : State) (n : Fin 8) (b : List Byte) (err : Bool) (h_s
    : Keeps s0 s ps) (m_free : Region.free ∈ ps) (m_ring : Region.ring ∈ ps) (m_sched : Region.sched ∈ ps) (m_rmt :
    Region.rmt ∈ ps) (m_inj : Region.inj ∈ ps) : Keeps s0 (State.rxBytes s n b err) ps := by
  unfold State.rxBytes
  grind [foldl_keeps', State.control_keeps, State.countPort_keeps, State.fec_keeps, State.freeRx_keeps,
    State.modSub_keeps, State.raise_keeps, State.route'_keeps]

theorem State.rmtInject_ok (s : State) (n : Fin 8) (tx : Bool) (cls : Nat) (h_s : s.Ok) : (State.rmtInject s n tx
    cls).2.Ok := by
  unfold State.rmtInject
  grind [State.Ok, foldl_ok, State.iff_ok, State.bumpSat_ok, State.sf_ok]

theorem State.rmtInject_keeps {s0 : State} {ps : List Region} (s : State) (n : Fin 8) (tx : Bool) (cls : Nat) (h_s :
    Keeps s0 s ps) (m_inj : Region.inj ∈ ps) : Keeps s0 (State.rmtInject s n tx cls).2 ps := by
  unfold State.rmtInject
  grind [foldl_keeps', State.iff_keeps, State.bumpSat_keeps, State.sf_keeps, Keeps.set_inj]

theorem frameReceive_ok (n : Fin 8) (b : List Byte) (err : Bool) (s : State) (h_s : s.Ok) : (frameReceive n b err
    s).Ok := by
  unfold frameReceive
  grind [State.Ok, foldl_ok, State.control_ok, State.freeRx_ok, State.modSub_ok, State.rmtInject_ok, State.rxBytes_ok]

theorem frameReceive_keeps {s0 : State} {ps : List Region} (n : Fin 8) (b : List Byte) (err : Bool) (s : State) (h_s :
    Keeps s0 s ps) (m_free : Region.free ∈ ps) (m_ring : Region.ring ∈ ps) (m_sched : Region.sched ∈ ps) (m_rmt :
    Region.rmt ∈ ps) (m_inj : Region.inj ∈ ps) : Keeps s0 (frameReceive n b err s) ps := by
  unfold frameReceive
  grind [foldl_keeps', State.control_keeps, State.freeRx_keeps, State.modSub_keeps, State.rmtInject_keeps,
    State.rxBytes_keeps]

theorem execRemoteFrameReceive_ok (n : Fin 8) (b : List Byte) (err : Bool) (s : State) (h_s : s.Ok) : ∀ x,
    (execRemoteFrameReceive n b err s) = .next x → x.Ok := by
  unfold execRemoteFrameReceive
  grind [State.Ok, foldl_ok, State.onLive_ok, frameReceive_ok]

theorem execRemoteFrameReceive_keeps {s0 : State} {ps : List Region} (n : Fin 8) (b : List Byte) (err : Bool) (s :
    State) (h_s : Keeps s0 s ps) (m_free : Region.free ∈ ps) (m_ring : Region.ring ∈ ps) (m_sched : Region.sched ∈ ps)
    (m_rmt : Region.rmt ∈ ps) (m_inj : Region.inj ∈ ps) : ∀ x, (execRemoteFrameReceive n b err s) = .next x → Keeps s0
    x ps := by
  unfold execRemoteFrameReceive
  grind [foldl_keeps', State.onLive_keeps, frameReceive_keeps]

theorem reorderTimeout_ok (s : State) (h_s : s.Ok) : (reorderTimeout s).Ok := by
  unfold reorderTimeout
  grind [State.Ok, foldl_ok, State.modRmt_ok, State.ptSet_ok, State.raiseIf_ok, State.takeHeld_ok]

theorem reorderTimeout_keeps {s0 : State} {ps : List Region} (s : State) (h_s : Keeps s0 s ps) (m_rmt : Region.rmt ∈
    ps) : Keeps s0 (reorderTimeout s) ps := by
  unfold reorderTimeout
  grind [foldl_keeps', State.modRmt_keeps, State.ptSet_keeps, State.raiseIf_keeps, State.takeHeld_keeps]

theorem execReorderTimeout_ok (s : State) (h_s : s.Ok) : ∀ x, (execReorderTimeout s) = .next x → x.Ok := by
  unfold execReorderTimeout
  grind [State.Ok, foldl_ok, State.onLive_ok, reorderTimeout_ok]

theorem execReorderTimeout_keeps {s0 : State} {ps : List Region} (s : State) (h_s : Keeps s0 s ps) (m_rmt : Region.rmt
    ∈ ps) : ∀ x, (execReorderTimeout s) = .next x → Keeps s0 x ps := by
  unfold execReorderTimeout
  grind [foldl_keeps', State.onLive_keeps, reorderTimeout_keeps]

theorem State.dropReq_ok (s : State) (r : RmtReq) (h_s : s.Ok) : (State.dropReq s r).Ok := by
  unfold State.dropReq
  grind [State.Ok, foldl_ok, State.modRmt_ok]

theorem State.dropReq_keeps {s0 : State} {ps : List Region} (s : State) (r : RmtReq) (h_s : Keeps s0 s ps) (m_rmt :
    Region.rmt ∈ ps) : Keeps s0 (State.dropReq s r) ps := by
  unfold State.dropReq
  grind [foldl_keeps', State.modRmt_keeps]

theorem State.answerReq_ok (s : State) (r : RmtReq) (st : Status) (detail : Nat) (h_s : s.Ok) : (State.answerReq s r
    st detail).Ok := by
  unfold State.answerReq
  grind [State.Ok, foldl_ok, State.freeRx_ok, State.reply_ok, State.dropReq_ok]

theorem State.answerReq_keeps {s0 : State} {ps : List Region} (s : State) (r : RmtReq) (st : Status) (detail : Nat)
    (h_s : Keeps s0 s ps) (m_sched : Region.sched ∈ ps) (m_rmt : Region.rmt ∈ ps) : Keeps s0 (State.answerReq s r st
    detail) ps := by
  unfold State.answerReq
  grind [foldl_keeps', State.freeRx_keeps, State.reply_keeps, State.dropReq_keeps]

theorem requestCheck_ok (s : State) (h_s : s.Ok) : (requestCheck s).Ok := by
  unfold requestCheck
  grind [State.Ok, foldl_ok, State.modRmt_ok, State.answerReq_ok]

theorem requestCheck_keeps {s0 : State} {ps : List Region} (s : State) (h_s : Keeps s0 s ps) (m_sched : Region.sched ∈
    ps) (m_rmt : Region.rmt ∈ ps) : Keeps s0 (requestCheck s) ps := by
  unfold requestCheck
  grind [foldl_keeps', State.modRmt_keeps, State.answerReq_keeps]

theorem execRemoteRequestCheck_ok (s : State) (h_s : s.Ok) : ∀ x, (execRemoteRequestCheck s) = .next x → x.Ok := by
  unfold execRemoteRequestCheck
  grind [State.Ok, foldl_ok, State.onLive_ok, requestCheck_ok]

theorem execRemoteRequestCheck_keeps {s0 : State} {ps : List Region} (s : State) (h_s : Keeps s0 s ps) (m_sched :
    Region.sched ∈ ps) (m_rmt : Region.rmt ∈ ps) : ∀ x, (execRemoteRequestCheck s) = .next x → Keeps s0 x ps := by
  unfold execRemoteRequestCheck
  grind [foldl_keeps', State.onLive_keeps, requestCheck_keeps]

theorem State.markIssued_ok (s : State) (r : RmtReq) (id : Nat) (pieces : Nat) (reserve : Nat) (h_s : s.Ok) :
    (State.markIssued s r id pieces reserve).Ok := by
  unfold State.markIssued
  grind [State.Ok, foldl_ok, State.freeRx_ok, State.modRmt_ok]

theorem State.markIssued_keeps {s0 : State} {ps : List Region} (s : State) (r : RmtReq) (id : Nat) (pieces : Nat)
    (reserve : Nat) (h_s : Keeps s0 s ps) (m_rmt : Region.rmt ∈ ps) : Keeps s0 (State.markIssued s r id pieces
    reserve) ps := by
  unfold State.markIssued
  grind [foldl_keeps', State.freeRx_keeps, State.modRmt_keeps]

theorem State.issueReq_ok (s : State) (op : Nat) (hop : HostOp) (n : Frame → Nat) (m : Frame → Nat) (h_s : s.Ok) :
    (State.issueReq s op hop n m).Ok := by
  unfold State.issueReq
  grind [State.Ok, foldl_ok, State.ingress_ok, State.markIssued_ok, State.skipIds_ok]

theorem State.issueReq_keeps {s0 : State} {ps : List Region} (s : State) (op : Nat) (hop : HostOp) (n : Frame → Nat)
    (m : Frame → Nat) (h_s : Keeps s0 s ps) (m_paths : Region.paths ∈ ps) (m_ring : Region.ring ∈ ps) (m_tags :
    Region.tags ∈ ps) (m_rmt : Region.rmt ∈ ps) (m_inj : Region.inj ∈ ps) : Keeps s0 (State.issueReq s op hop n m) ps
    := by
  unfold State.issueReq
  grind [foldl_keeps', State.ingress_keeps, State.markIssued_keeps, State.skipIds_keeps]

theorem execRemoteRead_ok (s : State) (h_s : s.Ok) : ∀ x, (execRemoteRead s) = .next x → x.Ok := by
  unfold execRemoteRead
  grind [State.Ok, foldl_ok, State.onLive_ok, State.issueReq_ok]

theorem execRemoteRead_keeps {s0 : State} {ps : List Region} (s : State) (h_s : Keeps s0 s ps) (m_paths : Region.paths
    ∈ ps) (m_ring : Region.ring ∈ ps) (m_tags : Region.tags ∈ ps) (m_rmt : Region.rmt ∈ ps) (m_inj : Region.inj ∈ ps)
    : ∀ x, (execRemoteRead s) = .next x → Keeps s0 x ps := by
  unfold execRemoteRead
  grind [foldl_keeps', State.onLive_keeps, State.issueReq_keeps]

theorem execRemoteWrite_ok (s : State) (h_s : s.Ok) : ∀ x, (execRemoteWrite s) = .next x → x.Ok := by
  unfold execRemoteWrite
  grind [State.Ok, foldl_ok, State.onLive_ok, State.issueReq_ok]

theorem execRemoteWrite_keeps {s0 : State} {ps : List Region} (s : State) (h_s : Keeps s0 s ps) (m_paths :
    Region.paths ∈ ps) (m_ring : Region.ring ∈ ps) (m_tags : Region.tags ∈ ps) (m_rmt : Region.rmt ∈ ps) (m_inj :
    Region.inj ∈ ps) : ∀ x, (execRemoteWrite s) = .next x → Keeps s0 x ps := by
  unfold execRemoteWrite
  grind [foldl_keeps', State.onLive_keeps, State.issueReq_keeps]

theorem execRemoteAtomic_ok (s : State) (h_s : s.Ok) : ∀ x, (execRemoteAtomic s) = .next x → x.Ok := by
  unfold execRemoteAtomic
  grind [State.Ok, foldl_ok, State.onLive_ok, State.issueReq_ok]

theorem execRemoteAtomic_keeps {s0 : State} {ps : List Region} (s : State) (h_s : Keeps s0 s ps) (m_paths :
    Region.paths ∈ ps) (m_ring : Region.ring ∈ ps) (m_tags : Region.tags ∈ ps) (m_rmt : Region.rmt ∈ ps) (m_inj :
    Region.inj ∈ ps) : ∀ x, (execRemoteAtomic s) = .next x → Keeps s0 x ps := by
  unfold execRemoteAtomic
  grind [foldl_keeps', State.onLive_keeps, State.issueReq_keeps]

theorem execRemoteReduceInto_ok (s : State) (h_s : s.Ok) : ∀ x, (execRemoteReduceInto s) = .next x → x.Ok := by
  unfold execRemoteReduceInto
  grind [State.Ok, foldl_ok, State.onLive_ok, State.issueReq_ok]

theorem execRemoteReduceInto_keeps {s0 : State} {ps : List Region} (s : State) (h_s : Keeps s0 s ps) (m_paths :
    Region.paths ∈ ps) (m_ring : Region.ring ∈ ps) (m_tags : Region.tags ∈ ps) (m_rmt : Region.rmt ∈ ps) (m_inj :
    Region.inj ∈ ps) : ∀ x, (execRemoteReduceInto s) = .next x → Keeps s0 x ps := by
  unfold execRemoteReduceInto
  grind [foldl_keeps', State.onLive_keeps, State.issueReq_keeps]

theorem remoteSignature_ok (s : State) (h_s : s.Ok) : (remoteSignature s).Ok := by
  unfold remoteSignature
  grind [State.Ok, foldl_ok, State.readDesc_ok, State.answerReq_ok, State.markIssued_ok, State.modSeq_ok,
      State.skipIds_ok]

theorem remoteSignature_keeps {s0 : State} {ps : List Region} (s : State) (h_s : Keeps s0 s ps) (m_free : Region.free
    ∈ ps) (m_paths : Region.paths ∈ ps) (m_ring : Region.ring ∈ ps) (m_sched : Region.sched ∈ ps) (m_seq : Region.seq
    ∈ ps) (m_tags : Region.tags ∈ ps) (m_rmt : Region.rmt ∈ ps) (m_inj : Region.inj ∈ ps) : Keeps s0 (remoteSignature
    s) ps := by
  unfold remoteSignature
  repeat' split
  all_goals grind [foldl_keeps', State.readDesc_keeps, State.answerReq_keeps, State.markIssued_keeps,
      State.modSeq_keeps, State.skipIds_keeps]

theorem execRemoteSignature_ok (s : State) (h_s : s.Ok) : ∀ x, (execRemoteSignature s) = .next x → x.Ok := by
  unfold execRemoteSignature
  grind [State.Ok, foldl_ok, State.onLive_ok, remoteSignature_ok]

theorem execRemoteSignature_keeps {s0 : State} {ps : List Region} (s : State) (h_s : Keeps s0 s ps) (m_free :
    Region.free ∈ ps) (m_paths : Region.paths ∈ ps) (m_ring : Region.ring ∈ ps) (m_sched : Region.sched ∈ ps) (m_seq :
    Region.seq ∈ ps) (m_tags : Region.tags ∈ ps) (m_rmt : Region.rmt ∈ ps) (m_inj : Region.inj ∈ ps) : ∀ x,
    (execRemoteSignature s) = .next x → Keeps s0 x ps := by
  unfold execRemoteSignature
  grind [foldl_keeps', State.onLive_keeps, remoteSignature_keeps]

theorem remoteReply_ok (s : State) (h_s : s.Ok) : (remoteReply s).Ok := by
  unfold remoteReply
  grind [State.Ok, foldl_ok, State.dropReq_ok, State.reply_ok, State.modSeq_ok, State.dropDone_ok]

theorem remoteReply_keeps {s0 : State} {ps : List Region} (s : State) (h_s : Keeps s0 s ps) (m_paths : Region.paths ∈
    ps) (m_sched : Region.sched ∈ ps) (m_seq : Region.seq ∈ ps) (m_rmt : Region.rmt ∈ ps) : Keeps s0 (remoteReply s)
    ps := by
  unfold remoteReply
  grind [foldl_keeps', State.dropReq_keeps, State.reply_keeps, State.modSeq_keeps, State.dropDone_keeps]

theorem execRemoteReply_ok (s : State) (h_s : s.Ok) : ∀ x, (execRemoteReply s) = .next x → x.Ok := by
  unfold execRemoteReply
  grind [State.Ok, foldl_ok, State.onLive_ok, remoteReply_ok]

theorem execRemoteReply_keeps {s0 : State} {ps : List Region} (s : State) (h_s : Keeps s0 s ps) (m_paths :
    Region.paths ∈ ps) (m_sched : Region.sched ∈ ps) (m_seq : Region.seq ∈ ps) (m_rmt : Region.rmt ∈ ps) : ∀ x,
    (execRemoteReply s) = .next x → Keeps s0 x ps := by
  unfold execRemoteReply
  grind [foldl_keeps', State.onLive_keeps, remoteReply_keeps]

theorem State.ackGood_ok (s : State) (partner : Nat) (coll : Option (Nat × Nat)) (h_s : s.Ok) : (State.ackGood s
    partner coll).Ok := by
  unfold State.ackGood
  grind [State.Ok, foldl_ok, State.modSched_ok]

theorem State.ackGood_keeps {s0 : State} {ps : List Region} (s : State) (partner : Nat) (coll : Option (Nat × Nat))
    (h_s : Keeps s0 s ps) (m_sched : Region.sched ∈ ps) : Keeps s0 (State.ackGood s partner coll) ps := by
  unfold State.ackGood
  grind [foldl_keeps', State.modSched_keeps]

theorem ackReceive_ok (n : Fin 8) (s : State) (h_s : s.Ok) : (ackReceive n s).Ok := by
  unfold ackReceive
  grind [State.Ok, foldl_ok, State.modSub_ok, State.ackGood_ok, State.modRmt_ok]

theorem ackReceive_keeps {s0 : State} {ps : List Region} (n : Fin 8) (s : State) (h_s : Keeps s0 s ps) (m_sched :
    Region.sched ∈ ps) (m_rmt : Region.rmt ∈ ps) : Keeps s0 (ackReceive n s) ps := by
  unfold ackReceive
  repeat' split
  all_goals grind [foldl_keeps', State.modSub_keeps, State.ackGood_keeps, State.modRmt_keeps]

theorem execAckReceive_ok (n : Fin 8) (s : State) (h_s : s.Ok) : ∀ x, (execAckReceive n s) = .next x → x.Ok := by
  unfold execAckReceive
  grind [State.Ok, foldl_ok, State.onLive_ok, ackReceive_ok]

theorem execAckReceive_keeps {s0 : State} {ps : List Region} (n : Fin 8) (s : State) (h_s : Keeps s0 s ps) (m_sched :
    Region.sched ∈ ps) (m_rmt : Region.rmt ∈ ps) : ∀ x, (execAckReceive n s) = .next x → Keeps s0 x ps := by
  unfold execAckReceive
  grind [foldl_keeps', State.onLive_keeps, ackReceive_keeps]

theorem ackTimerExpiry_ok (s : State) (h_s : s.Ok) : (ackTimerExpiry s).Ok := by
  unfold ackTimerExpiry
  grind [State.Ok, foldl_ok, State.enqueue_ok, State.modRmt_ok, State.ackFailed_ok]

theorem ackTimerExpiry_keeps {s0 : State} {ps : List Region} (s : State) (h_s : Keeps s0 s ps) (m_sched : Region.sched
    ∈ ps) (m_rmt : Region.rmt ∈ ps) : Keeps s0 (ackTimerExpiry s) ps := by
  unfold ackTimerExpiry
  grind [foldl_keeps', State.enqueue_keeps, State.modRmt_keeps, State.ackFailed_keeps]

theorem execAckTimerExpiry_ok (s : State) (h_s : s.Ok) : ∀ x, (execAckTimerExpiry s) = .next x → x.Ok := by
  unfold execAckTimerExpiry
  grind [State.Ok, foldl_ok, State.onLive_ok, ackTimerExpiry_ok]

theorem execAckTimerExpiry_keeps {s0 : State} {ps : List Region} (s : State) (h_s : Keeps s0 s ps) (m_sched :
    Region.sched ∈ ps) (m_rmt : Region.rmt ∈ ps) : ∀ x, (execAckTimerExpiry s) = .next x → Keeps s0 x ps := by
  unfold execAckTimerExpiry
  grind [foldl_keeps', State.onLive_keeps, ackTimerExpiry_keeps]

theorem creditReceive_ok (n : Fin 8) (s : State) (h_s : s.Ok) : (creditReceive n s).Ok := by
  unfold creditReceive
  grind [State.Ok, foldl_ok, State.modSub_ok]

theorem creditReceive_keeps {s0 : State} {ps : List Region} (n : Fin 8) (s : State) (h_s : Keeps s0 s ps) (m_rmt :
    Region.rmt ∈ ps) : Keeps s0 (creditReceive n s) ps := by
  unfold creditReceive
  grind [foldl_keeps', State.modSub_keeps]

theorem execCreditReceive_ok (n : Fin 8) (s : State) (h_s : s.Ok) : ∀ x, (execCreditReceive n s) = .next x → x.Ok :=
    by
  unfold execCreditReceive
  grind [State.Ok, foldl_ok, State.onLive_ok, creditReceive_ok]

theorem execCreditReceive_keeps {s0 : State} {ps : List Region} (n : Fin 8) (s : State) (h_s : Keeps s0 s ps) (m_rmt :
    Region.rmt ∈ ps) : ∀ x, (execCreditReceive n s) = .next x → Keeps s0 x ps := by
  unfold execCreditReceive
  grind [foldl_keeps', State.onLive_keeps, creditReceive_keeps]

theorem State.sendCredit_ok (s : State) (n : Fin 8) (h_s : s.Ok) : (State.sendCredit s n).Ok := by
  unfold State.sendCredit
  grind [State.Ok, foldl_ok, State.control_ok]

theorem State.sendCredit_keeps {s0 : State} {ps : List Region} (s : State) (n : Fin 8) (h_s : Keeps s0 s ps) (m_rmt :
    Region.rmt ∈ ps) : Keeps s0 (State.sendCredit s n) ps := by
  unfold State.sendCredit
  grind [foldl_keeps', State.control_keeps]

theorem creditReturnTimer_ok (n : Fin 8) (s : State) (h_s : s.Ok) : (creditReturnTimer n s).Ok := by
  unfold creditReturnTimer
  grind [State.Ok, foldl_ok, State.sendCredit_ok]

theorem creditReturnTimer_keeps {s0 : State} {ps : List Region} (n : Fin 8) (s : State) (h_s : Keeps s0 s ps) (m_rmt :
    Region.rmt ∈ ps) : Keeps s0 (creditReturnTimer n s) ps := by
  unfold creditReturnTimer
  grind [foldl_keeps', State.sendCredit_keeps]

theorem execCreditReturnTimer_ok (n : Fin 8) (s : State) (h_s : s.Ok) : ∀ x, (execCreditReturnTimer n s) = .next x →
    x.Ok := by
  unfold execCreditReturnTimer
  grind [State.Ok, foldl_ok, State.onLive_ok, creditReturnTimer_ok]

theorem execCreditReturnTimer_keeps {s0 : State} {ps : List Region} (n : Fin 8) (s : State) (h_s : Keeps s0 s ps)
    (m_rmt : Region.rmt ∈ ps) : ∀ x, (execCreditReturnTimer n s) = .next x → Keeps s0 x ps := by
  unfold execCreditReturnTimer
  grind [foldl_keeps', State.onLive_keeps, creditReturnTimer_keeps]

theorem State.startTx_ok (s : State) (n : Fin 8) (x : Tx) (h_s : s.Ok) : (State.startTx s n x).Ok := by
  unfold State.startTx
  grind [State.Ok, foldl_ok, State.settleSub_ok, State.modSub_ok, State.modRmt_ok]

theorem State.startTx_keeps {s0 : State} {ps : List Region} (s : State) (n : Fin 8) (x : Tx) (h_s : Keeps s0 s ps)
    (m_rmt : Region.rmt ∈ ps) : Keeps s0 (State.startTx s n x) ps := by
  unfold State.startTx
  grind [foldl_keeps', State.settleSub_keeps, State.modSub_keeps, State.modRmt_keeps]

theorem State.launchTx_ok (s : State) (n : Fin 8) (x : Tx) (h_s : s.Ok) : (State.launchTx s n x).Ok := by
  unfold State.launchTx
  grind [State.Ok, foldl_ok, State.rmtInject_ok, State.modSub_ok, State.startTx_ok]

theorem State.launchTx_keeps {s0 : State} {ps : List Region} (s : State) (n : Fin 8) (x : Tx) (h_s : Keeps s0 s ps)
    (m_rmt : Region.rmt ∈ ps) (m_inj : Region.inj ∈ ps) : Keeps s0 (State.launchTx s n x) ps := by
  unfold State.launchTx
  grind [foldl_keeps', State.rmtInject_keeps, State.modSub_keeps, State.startTx_keeps]

theorem State.startData_ok (s : State) (n : Fin 8) (h_s : s.Ok) : (State.startData s n).Ok := by
  unfold State.startData
  grind [State.Ok, foldl_ok, State.modSub_ok, State.startTx_ok, State.launchTx_ok]

theorem State.startData_keeps {s0 : State} {ps : List Region} (s : State) (n : Fin 8) (h_s : Keeps s0 s ps) (m_rmt :
    Region.rmt ∈ ps) (m_inj : Region.inj ∈ ps) : Keeps s0 (State.startData s n) ps := by
  unfold State.startData
  grind [foldl_keeps', State.modSub_keeps, State.startTx_keeps, State.launchTx_keeps]

theorem frameStart_ok (n : Fin 8) (s : State) (h_s : s.Ok) : (frameStart n s).Ok := by
  unfold frameStart
  grind [State.Ok, foldl_ok, State.holdClasses_ok, State.modSub_ok, State.reply_ok, State.settleSub_ok,
    State.startData_ok, State.startTx_ok]

theorem frameStart_keeps {s0 : State} {ps : List Region} (n : Fin 8) (s : State) (h_s : Keeps s0 s ps) (m_sched :
    Region.sched ∈ ps) (m_rmt : Region.rmt ∈ ps) (m_inj : Region.inj ∈ ps) : Keeps s0 (frameStart n s) ps := by
  unfold frameStart
  grind [foldl_keeps', State.holdClasses_keeps, State.modSub_keeps, State.reply_keeps, State.settleSub_keeps,
    State.startData_keeps, State.startTx_keeps]

theorem execSubportFrameStart_ok (n : Fin 8) (s : State) (h_s : s.Ok) : ∀ x, (execSubportFrameStart n s) = .next x →
    x.Ok := by
  unfold execSubportFrameStart
  grind [State.Ok, foldl_ok, State.onLive_ok, frameStart_ok]

theorem execSubportFrameStart_keeps {s0 : State} {ps : List Region} (n : Fin 8) (s : State) (h_s : Keeps s0 s ps)
    (m_sched : Region.sched ∈ ps) (m_rmt : Region.rmt ∈ ps) (m_inj : Region.inj ∈ ps) : ∀ x, (execSubportFrameStart n
    s) = .next x → Keeps s0 x ps := by
  unfold execSubportFrameStart
  grind [foldl_keeps', State.onLive_keeps, frameStart_keeps]

theorem frameSent_ok (n : Fin 8) (s : State) (h_s : s.Ok) : (frameSent n s).Ok := by
  unfold frameSent
  grind [State.Ok, foldl_ok, State.settleSub_ok, State.modSub_ok, State.modRmt_ok, State.settleAlt_ok,
      State.pumpFwd_ok, State.applyShapers_ok]

theorem frameSent_keeps {s0 : State} {ps : List Region} (n : Fin 8) (s : State) (h_s : Keeps s0 s ps) (m_sched :
    Region.sched ∈ ps) (m_rmt : Region.rmt ∈ ps) : Keeps s0 (frameSent n s) ps := by
  unfold frameSent
  grind [foldl_keeps', State.settleSub_keeps, State.modSub_keeps, State.modRmt_keeps, State.settleAlt_keeps,
      State.pumpFwd_keeps, State.applyShapers_keeps]

theorem execFrameSent_ok (n : Fin 8) (s : State) (h_s : s.Ok) : ∀ x, (execFrameSent n s) = .next x → x.Ok := by
  unfold execFrameSent
  grind [State.Ok, foldl_ok, State.onLive_ok, frameSent_ok]

theorem execFrameSent_keeps {s0 : State} {ps : List Region} (n : Fin 8) (s : State) (h_s : Keeps s0 s ps) (m_sched :
    Region.sched ∈ ps) (m_rmt : Region.rmt ∈ ps) : ∀ x, (execFrameSent n s) = .next x → Keeps s0 x ps := by
  unfold execFrameSent
  grind [foldl_keeps', State.onLive_keeps, frameSent_keeps]

theorem gateRefusal_ok (n : Fin 8) (s : State) (h_s : s.Ok) : (gateRefusal n s).Ok := by
  unfold gateRefusal
  grind [State.Ok, foldl_ok, State.modSub_ok, State.pumpFwd_ok, State.refuseTx_ok, State.settleAlt_ok,
    State.settleSub_ok]

theorem gateRefusal_keeps {s0 : State} {ps : List Region} (n : Fin 8) (s : State) (h_s : Keeps s0 s ps) (m_sched :
    Region.sched ∈ ps) (m_rmt : Region.rmt ∈ ps) : Keeps s0 (gateRefusal n s) ps := by
  unfold gateRefusal
  grind [foldl_keeps', State.modSub_keeps, State.pumpFwd_keeps, State.refuseTx_keeps, State.settleAlt_keeps,
    State.settleSub_keeps]

theorem execGateRefusal_ok (n : Fin 8) (s : State) (h_s : s.Ok) : ∀ x, (execGateRefusal n s) = .next x → x.Ok := by
  unfold execGateRefusal
  grind [State.Ok, foldl_ok, State.onLive_ok, gateRefusal_ok]

theorem execGateRefusal_keeps {s0 : State} {ps : List Region} (n : Fin 8) (s : State) (h_s : Keeps s0 s ps) (m_sched :
    Region.sched ∈ ps) (m_rmt : Region.rmt ∈ ps) : ∀ x, (execGateRefusal n s) = .next x → Keeps s0 x ps := by
  unfold execGateRefusal
  grind [foldl_keeps', State.onLive_keeps, gateRefusal_keeps]

theorem gateAdvance_ok (n : Fin 8) (s : State) (h_s : s.Ok) : (gateAdvance n s).Ok := by
  unfold gateAdvance
  grind [State.Ok, foldl_ok, State.modSub_ok, State.openGates_ok, State.settleSub_ok, State.sf_ok]

theorem gateAdvance_keeps {s0 : State} {ps : List Region} (n : Fin 8) (s : State) (h_s : Keeps s0 s ps) (m_rmt :
    Region.rmt ∈ ps) : Keeps s0 (gateAdvance n s) ps := by
  unfold gateAdvance
  grind [foldl_keeps', State.modSub_keeps, State.openGates_keeps, State.settleSub_keeps, State.sf_keeps]

theorem execGateEntryAdvance_ok (n : Fin 8) (s : State) (h_s : s.Ok) : ∀ x, (execGateEntryAdvance n s) = .next x →
    x.Ok := by
  unfold execGateEntryAdvance
  grind [State.Ok, foldl_ok, State.onLive_ok, gateAdvance_ok]

theorem execGateEntryAdvance_keeps {s0 : State} {ps : List Region} (n : Fin 8) (s : State) (h_s : Keeps s0 s ps)
    (m_rmt : Region.rmt ∈ ps) : ∀ x, (execGateEntryAdvance n s) = .next x → Keeps s0 x ps := by
  unfold execGateEntryAdvance
  grind [foldl_keeps', State.onLive_keeps, gateAdvance_keeps]

theorem gateCtrlWrite_ok (n : Fin 8) (v : Word) (s : State) (h_s : s.Ok) : (gateCtrlWrite n v s).Ok := by
  unfold gateCtrlWrite
  grind [State.Ok, foldl_ok, State.iff_ok, State.raise_ok, State.raiseIf_ok, State.sf_ok]

theorem gateCtrlWrite_keeps {s0 : State} {ps : List Region} (n : Fin 8) (v : Word) (s : State) (h_s : Keeps s0 s ps) :
    Keeps s0 (gateCtrlWrite n v s) ps := by
  unfold gateCtrlWrite
  grind [foldl_keeps', State.iff_keeps, State.raise_keeps, State.raiseIf_keeps, State.sf_keeps]

theorem execGateArm_ok (n : Fin 8) (v : Word) (s : State) (h_s : s.Ok) : ∀ x, (execGateArm n v s) = .next x → x.Ok :=
    by
  unfold execGateArm
  grind [State.Ok, foldl_ok, State.mgtWrite_ok, gateCtrlWrite_ok]

theorem execGateArm_keeps {s0 : State} {ps : List Region} (n : Fin 8) (v : Word) (s : State) (h_s : Keeps s0 s ps)
    (m_mgt : Region.mgt ∈ ps) : ∀ x, (execGateArm n v s) = .next x → Keeps s0 x ps := by
  unfold execGateArm
  grind [foldl_keeps', State.mgtWrite_keeps, gateCtrlWrite_keeps]

theorem execGateDisarm_ok (n : Fin 8) (v : Word) (s : State) (h_s : s.Ok) : ∀ x, (execGateDisarm n v s) = .next x →
    x.Ok := by
  unfold execGateDisarm
  grind [State.Ok, foldl_ok, State.mgtWrite_ok, gateCtrlWrite_ok]

theorem execGateDisarm_keeps {s0 : State} {ps : List Region} (n : Fin 8) (v : Word) (s : State) (h_s : Keeps s0 s ps)
    (m_mgt : Region.mgt ∈ ps) : ∀ x, (execGateDisarm n v s) = .next x → Keeps s0 x ps := by
  unfold execGateDisarm
  grind [foldl_keeps', State.mgtWrite_keeps, gateCtrlWrite_keeps]

theorem gateShift_ok (n : Fin 8) (s : State) (h_s : s.Ok) : (gateShift n s).Ok := by
  unfold gateShift
  grind [State.Ok, foldl_ok, State.bump_ok, State.modSub_ok, State.openGates_ok, State.settleSub_ok, State.sf_ok,
    State.wr_ok]

theorem gateShift_keeps {s0 : State} {ps : List Region} (n : Fin 8) (s : State) (h_s : Keeps s0 s ps) (m_rmt :
    Region.rmt ∈ ps) : Keeps s0 (gateShift n s) ps := by
  unfold gateShift
  dsimp only
  repeat' first
      | with_reducible assumption
      | with_reducible apply ite_keeps
      | with_reducible refine foldl_keeps' (fun _ _ _ => ?_) _ ?_
      | with_reducible apply State.bump_keeps
      | with_reducible apply State.modSub_keeps
      | with_reducible apply State.openGates_keeps
      | with_reducible apply State.settleSub_keeps
      | with_reducible apply State.sf_keeps
      | with_reducible apply State.wr_keeps
      | split

theorem execGateShift_ok (n : Fin 8) (s : State) (h_s : s.Ok) : ∀ x, (execGateShift n s) = .next x → x.Ok := by
  unfold execGateShift
  grind [State.Ok, foldl_ok, State.onLive_ok, gateShift_ok]

theorem execGateShift_keeps {s0 : State} {ps : List Region} (n : Fin 8) (s : State) (h_s : Keeps s0 s ps) (m_rmt :
    Region.rmt ∈ ps) : ∀ x, (execGateShift n s) = .next x → Keeps s0 x ps := by
  unfold execGateShift
  grind [foldl_keeps', State.onLive_keeps, gateShift_keeps]

theorem shaperWrite_ok (n : Fin 8) (c : Fin 8) (limit : Bool) (v : Word) (s : State) (h_s : s.Ok) : (shaperWrite n c
    limit v s).Ok := by
  unfold shaperWrite
  grind [State.Ok, foldl_ok, State.settleSub_ok, State.modSub_ok, State.wr_ok, State.applyShapers_ok]

theorem shaperWrite_keeps {s0 : State} {ps : List Region} (n : Fin 8) (c : Fin 8) (limit : Bool) (v : Word) (s :
    State) (h_s : Keeps s0 s ps) (m_rmt : Region.rmt ∈ ps) : Keeps s0 (shaperWrite n c limit v s) ps := by
  unfold shaperWrite
  grind [foldl_keeps', State.settleSub_keeps, State.modSub_keeps, State.wr_keeps, State.applyShapers_keeps]

theorem execShaperReconfigure_ok (n : Fin 8) (c : Fin 8) (limit : Bool) (v : Word) (s : State) (h_s : s.Ok) : ∀ x,
    (execShaperReconfigure n c limit v s) = .next x → x.Ok := by
  unfold execShaperReconfigure
  grind [State.Ok, foldl_ok, State.mgtWrite_ok, shaperWrite_ok]

theorem execShaperReconfigure_keeps {s0 : State} {ps : List Region} (n : Fin 8) (c : Fin 8) (limit : Bool) (v : Word)
    (s : State) (h_s : Keeps s0 s ps) (m_mgt : Region.mgt ∈ ps) (m_rmt : Region.rmt ∈ ps) : ∀ x,
    (execShaperReconfigure n c limit v s) = .next x → Keeps s0 x ps := by
  unfold execShaperReconfigure
  grind [foldl_keeps', State.mgtWrite_keeps, shaperWrite_keeps]

theorem partnerCommit_ok (v : Word) (s : State) (h_s : s.Ok) : (partnerCommit v s).Ok := by
  unfold partnerCommit
  dsimp only
  repeat' first
      | with_reducible assumption
      | with_reducible apply ite_ok
      | with_reducible refine foldl_ok (fun _ _ _ => ?_) _ ?_
      | with_reducible apply State.ackFailed_ok
      | with_reducible apply State.modRmt_ok
      | with_reducible apply State.ptPut_ok
      | with_reducible apply State.raise_ok
      | with_reducible apply State.raiseIf_ok
      | with_reducible apply State.settleAlt_ok
      | with_reducible apply State.settleSub_ok
      | with_reducible apply State.wr_ok
      | split

theorem partnerCommit_keeps {s0 : State} {ps : List Region} (v : Word) (s : State) (h_s : Keeps s0 s ps) (m_sched :
    Region.sched ∈ ps) (m_rmt : Region.rmt ∈ ps) : Keeps s0 (partnerCommit v s) ps := by
  unfold partnerCommit
  dsimp only
  repeat' first
      | with_reducible assumption
      | with_reducible apply ite_keeps
      | with_reducible refine foldl_keeps' (fun _ _ _ => ?_) _ ?_
      | with_reducible apply State.ackFailed_keeps
      | with_reducible apply State.modRmt_keeps
      | with_reducible apply State.ptPut_keeps
      | with_reducible apply State.raise_keeps
      | with_reducible apply State.raiseIf_keeps
      | with_reducible apply State.settleAlt_keeps
      | with_reducible apply State.settleSub_keeps
      | with_reducible apply State.wr_keeps
      | split

theorem execPartnerCommit_ok (v : Word) (s : State) (h_s : s.Ok) : ∀ x, (execPartnerCommit v s) = .next x → x.Ok := by
  unfold execPartnerCommit
  grind [State.Ok, foldl_ok, State.mgtWrite_ok, partnerCommit_ok]

theorem execPartnerCommit_keeps {s0 : State} {ps : List Region} (v : Word) (s : State) (h_s : Keeps s0 s ps) (m_mgt :
    Region.mgt ∈ ps) (m_sched : Region.sched ∈ ps) (m_rmt : Region.rmt ∈ ps) : ∀ x, (execPartnerCommit v s) = .next x
    → Keeps s0 x ps := by
  unfold execPartnerCommit
  grind [foldl_keeps', State.mgtWrite_keeps, partnerCommit_keeps]

theorem State.mgtRead_ok (s : State) (i : Island) (t : State) (v : Word) (h_s : s.Ok) (h_t : t.Ok) : (State.mgtRead s
    i t v).Ok := by
  unfold State.mgtRead
  grind [State.Ok, foldl_ok, State.mgtDone_ok]

theorem State.mgtRead_keeps {s0 : State} {ps : List Region} (s : State) (i : Island) (t : State) (v : Word) (h_s :
    Keeps s0 s ps) (h_t : Keeps s0 t ps) (m_mgt : Region.mgt ∈ ps) : Keeps s0 (State.mgtRead s i t v) ps := by
  unfold State.mgtRead
  grind [foldl_keeps', State.mgtDone_keeps]

theorem execPartnerEntryRead_ok (s : State) (h_s : s.Ok) : ∀ x, (execPartnerEntryRead s) = .next x → x.Ok := by
  unfold execPartnerEntryRead
  grind [State.Ok, foldl_ok, State.mgtRead_ok, State.modRmt_ok]

theorem execPartnerEntryRead_keeps {s0 : State} {ps : List Region} (s : State) (h_s : Keeps s0 s ps) (m_mgt :
    Region.mgt ∈ ps) (m_rmt : Region.rmt ∈ ps) : ∀ x, (execPartnerEntryRead s) = .next x → Keeps s0 x ps := by
  unfold execPartnerEntryRead
  grind [foldl_keeps', State.mgtRead_keeps, State.modRmt_keeps]

theorem collectiveNotify_ok (s : State) (h_s : s.Ok) : (collectiveNotify s).Ok := by
  unfold collectiveNotify
  grind [State.Ok, foldl_ok, State.modSched_ok, State.originate_ok]

theorem collectiveNotify_keeps {s0 : State} {ps : List Region} (s : State) (h_s : Keeps s0 s ps) (m_sched :
    Region.sched ∈ ps) (m_rmt : Region.rmt ∈ ps) : Keeps s0 (collectiveNotify s) ps := by
  unfold collectiveNotify
  grind [foldl_keeps', State.modSched_keeps, State.originate_keeps]

theorem execCollectiveNotify_ok (s : State) (h_s : s.Ok) : ∀ x, (execCollectiveNotify s) = .next x → x.Ok := by
  unfold execCollectiveNotify
  grind [State.Ok, foldl_ok, State.onLive_ok, collectiveNotify_ok]

theorem execCollectiveNotify_keeps {s0 : State} {ps : List Region} (s : State) (h_s : Keeps s0 s ps) (m_sched :
    Region.sched ∈ ps) (m_rmt : Region.rmt ∈ ps) : ∀ x, (execCollectiveNotify s) = .next x → Keeps s0 x ps := by
  unfold execCollectiveNotify
  grind [foldl_keeps', State.onLive_keeps, collectiveNotify_keeps]

theorem slowdownSend_ok (s : State) (h_s : s.Ok) : (slowdownSend s).Ok := by
  unfold slowdownSend
  grind [State.Ok, foldl_ok, State.modRmt_ok, State.originate_ok]

theorem slowdownSend_keeps {s0 : State} {ps : List Region} (s : State) (h_s : Keeps s0 s ps) (m_sched : Region.sched ∈
    ps) (m_rmt : Region.rmt ∈ ps) : Keeps s0 (slowdownSend s) ps := by
  unfold slowdownSend
  grind [foldl_keeps', State.modRmt_keeps, State.originate_keeps]

theorem execSlowdownSend_ok (s : State) (h_s : s.Ok) : ∀ x, (execSlowdownSend s) = .next x → x.Ok := by
  unfold execSlowdownSend
  grind [State.Ok, foldl_ok, State.onLive_ok, slowdownSend_ok]

theorem execSlowdownSend_keeps {s0 : State} {ps : List Region} (s : State) (h_s : Keeps s0 s ps) (m_sched :
    Region.sched ∈ ps) (m_rmt : Region.rmt ∈ ps) : ∀ x, (execSlowdownSend s) = .next x → Keeps s0 x ps := by
  unfold execSlowdownSend
  grind [foldl_keeps', State.onLive_keeps, slowdownSend_keeps]

theorem State.pauseAcks_ok (s : State) (p : Nat) (now : Nat) (h_s : s.Ok) : (State.pauseAcks s p now).Ok := by
  unfold State.pauseAcks
  grind [State.Ok, foldl_ok, State.modRmt_ok]

theorem State.pauseAcks_keeps {s0 : State} {ps : List Region} (s : State) (p : Nat) (now : Nat) (h_s : Keeps s0 s ps)
    (m_rmt : Region.rmt ∈ ps) : Keeps s0 (State.pauseAcks s p now) ps := by
  unfold State.pauseAcks
  grind [foldl_keeps', State.modRmt_keeps]

theorem State.resumeAcks_ok (s : State) (p : Nat) (now : Nat) (h_s : s.Ok) : (State.resumeAcks s p now).Ok := by
  unfold State.resumeAcks
  grind [State.Ok, foldl_ok, State.modRmt_ok]

theorem State.resumeAcks_keeps {s0 : State} {ps : List Region} (s : State) (p : Nat) (now : Nat) (h_s : Keeps s0 s ps)
    (m_rmt : Region.rmt ∈ ps) : Keeps s0 (State.resumeAcks s p now) ps := by
  unfold State.resumeAcks
  grind [foldl_keeps', State.modRmt_keeps]

theorem State.slowFrom_ok (s : State) (p : Nat) (detail : Nat) (at_ : Nat) (h_s : s.Ok) : (State.slowFrom s p detail
    at_).Ok := by
  unfold State.slowFrom
  grind [State.Ok, foldl_ok, State.modRmt_ok, State.pauseAcks_ok, State.ptSet_ok, State.resumeAcks_ok]

theorem State.slowFrom_keeps {s0 : State} {ps : List Region} (s : State) (p : Nat) (detail : Nat) (at_ : Nat) (h_s :
    Keeps s0 s ps) (m_rmt : Region.rmt ∈ ps) : Keeps s0 (State.slowFrom s p detail at_) ps := by
  unfold State.slowFrom
  grind [foldl_keeps', State.modRmt_keeps, State.pauseAcks_keeps, State.ptSet_keeps, State.resumeAcks_keeps]

theorem State.writeNotice_ok (s : State) (b : List Byte) (ack : Option (Nat × Nat)) (h_s : s.Ok) : (State.writeNotice
    s b ack).Ok := by
  unfold State.writeNotice
  grind [State.Ok, foldl_ok, State.wr_ok, State.ringWrite_ok, State.modRmt_ok]

theorem State.writeNotice_keeps {s0 : State} {ps : List Region} (s : State) (b : List Byte) (ack : Option (Nat × Nat))
    (h_s : Keeps s0 s ps) (m_paths : Region.paths ∈ ps) (m_ring : Region.ring ∈ ps) (m_tags : Region.tags ∈ ps) (m_rmt
    : Region.rmt ∈ ps) (m_inj : Region.inj ∈ ps) : Keeps s0 (State.writeNotice s b ack) ps := by
  unfold State.writeNotice
  grind [foldl_keeps', State.wr_keeps, State.ringWrite_keeps, State.modRmt_keeps]

theorem noticeReceive_ok (s : State) (h_s : s.Ok) : (noticeReceive s).Ok := by
  unfold noticeReceive
  grind [State.Ok, foldl_ok, State.dropDone_ok, State.freeRx_ok, State.modRmt_ok, State.sendAck_ok, State.slowFrom_ok,
    State.writeNotice_ok]

theorem noticeReceive_keeps {s0 : State} {ps : List Region} (s : State) (h_s : Keeps s0 s ps) (m_paths : Region.paths
    ∈ ps) (m_ring : Region.ring ∈ ps) (m_tags : Region.tags ∈ ps) (m_rmt : Region.rmt ∈ ps) (m_inj : Region.inj ∈ ps)
    : Keeps s0 (noticeReceive s) ps := by
  unfold noticeReceive
  dsimp only
  repeat' first
      | with_reducible assumption
      | with_reducible apply ite_keeps
      | with_reducible refine foldl_keeps' (fun _ _ _ => ?_) _ ?_
      | with_reducible apply State.dropDone_keeps
      | with_reducible apply State.freeRx_keeps
      | with_reducible apply State.modRmt_keeps
      | with_reducible apply State.sendAck_keeps
      | with_reducible apply State.slowFrom_keeps
      | with_reducible apply State.writeNotice_keeps
      | split

theorem execNoticeReceive_ok (s : State) (h_s : s.Ok) : ∀ x, (execNoticeReceive s) = .next x → x.Ok := by
  unfold execNoticeReceive
  grind [State.Ok, foldl_ok, State.onLive_ok, noticeReceive_ok]

theorem execNoticeReceive_keeps {s0 : State} {ps : List Region} (s : State) (h_s : Keeps s0 s ps) (m_paths :
    Region.paths ∈ ps) (m_ring : Region.ring ∈ ps) (m_tags : Region.tags ∈ ps) (m_rmt : Region.rmt ∈ ps) (m_inj :
    Region.inj ∈ ps) : ∀ x, (execNoticeReceive s) = .next x → Keeps s0 x ps := by
  unfold execNoticeReceive
  grind [foldl_keeps', State.onLive_keeps, noticeReceive_keeps]

theorem slowdownHoldExpiry_ok (s : State) (h_s : s.Ok) : (slowdownHoldExpiry s).Ok := by
  unfold slowdownHoldExpiry
  grind [State.Ok, foldl_ok, State.modRmt_ok, State.resumeAcks_ok]

theorem slowdownHoldExpiry_keeps {s0 : State} {ps : List Region} (s : State) (h_s : Keeps s0 s ps) (m_rmt : Region.rmt
    ∈ ps) : Keeps s0 (slowdownHoldExpiry s) ps := by
  unfold slowdownHoldExpiry
  grind [foldl_keeps', State.modRmt_keeps, State.resumeAcks_keeps]

theorem execSlowdownHoldExpiry_ok (s : State) (h_s : s.Ok) : ∀ x, (execSlowdownHoldExpiry s) = .next x → x.Ok := by
  unfold execSlowdownHoldExpiry
  grind [State.Ok, foldl_ok, State.onLive_ok, slowdownHoldExpiry_ok]

theorem execSlowdownHoldExpiry_keeps {s0 : State} {ps : List Region} (s : State) (h_s : Keeps s0 s ps) (m_rmt :
    Region.rmt ∈ ps) : ∀ x, (execSlowdownHoldExpiry s) = .next x → Keeps s0 x ps := by
  unfold execSlowdownHoldExpiry
  grind [foldl_keeps', State.onLive_keeps, slowdownHoldExpiry_keeps]

theorem State.toAlt_ok (s : State) (n : Fin 8) (p : Nat) (h_s : s.Ok) : (State.toAlt s n p).Ok := by
  unfold State.toAlt
  grind [State.Ok, foldl_ok, State.modSub_ok, State.ptSet_ok, State.settleSub_ok]

theorem State.toAlt_keeps {s0 : State} {ps : List Region} (s : State) (n : Fin 8) (p : Nat) (h_s : Keeps s0 s ps)
    (m_rmt : Region.rmt ∈ ps) : Keeps s0 (State.toAlt s n p) ps := by
  unfold State.toAlt
  grind [foldl_keeps', State.modSub_keeps, State.ptSet_keeps, State.settleSub_keeps]

theorem rmtLinkDown_ok (n : Fin 8) (s : State) (h_s : s.Ok) : (rmtLinkDown n s).Ok := by
  unfold rmtLinkDown
  grind [State.Ok, foldl_ok, State.settleSub_ok, State.fec_ok, State.sf_ok, State.modSub_ok, State.modRmt_ok,
      State.toAlt_ok]

theorem rmtLinkDown_keeps {s0 : State} {ps : List Region} (n : Fin 8) (s : State) (h_s : Keeps s0 s ps) (m_rmt :
    Region.rmt ∈ ps) : Keeps s0 (rmtLinkDown n s) ps := by
  unfold rmtLinkDown
  grind [foldl_keeps', State.settleSub_keeps, State.fec_keeps, State.sf_keeps, State.modSub_keeps, State.modRmt_keeps,
      State.toAlt_keeps]

theorem execRmtLinkDown_ok (n : Fin 8) (s : State) (h_s : s.Ok) : ∀ x, (execRmtLinkDown n s) = .next x → x.Ok := by
  unfold execRmtLinkDown
  grind [State.Ok, foldl_ok, State.onLive_ok, rmtLinkDown_ok]

theorem execRmtLinkDown_keeps {s0 : State} {ps : List Region} (n : Fin 8) (s : State) (h_s : Keeps s0 s ps) (m_rmt :
    Region.rmt ∈ ps) : ∀ x, (execRmtLinkDown n s) = .next x → Keeps s0 x ps := by
  unfold execRmtLinkDown
  grind [foldl_keeps', State.onLive_keeps, rmtLinkDown_keeps]

theorem rmtLinkUp_ok (n : Fin 8) (s : State) (h_s : s.Ok) : (rmtLinkUp n s).Ok := by
  unfold rmtLinkUp
  grind [State.Ok, foldl_ok, State.modSub_ok, State.raise_ok, State.settleSub_ok, State.settleAlt_ok,
      State.sendCredit_ok]

theorem rmtLinkUp_keeps {s0 : State} {ps : List Region} (n : Fin 8) (s : State) (h_s : Keeps s0 s ps) (m_rmt :
    Region.rmt ∈ ps) : Keeps s0 (rmtLinkUp n s) ps := by
  unfold rmtLinkUp
  grind [foldl_keeps', State.modSub_keeps, State.raise_keeps, State.settleSub_keeps, State.settleAlt_keeps,
      State.sendCredit_keeps]

theorem execRmtLinkUp_ok (n : Fin 8) (s : State) (h_s : s.Ok) : ∀ x, (execRmtLinkUp n s) = .next x → x.Ok := by
  unfold execRmtLinkUp
  grind [State.Ok, foldl_ok, State.onLive_ok, rmtLinkUp_ok]

theorem execRmtLinkUp_keeps {s0 : State} {ps : List Region} (n : Fin 8) (s : State) (h_s : Keeps s0 s ps) (m_rmt :
    Region.rmt ∈ ps) : ∀ x, (execRmtLinkUp n s) = .next x → Keeps s0 x ps := by
  unfold execRmtLinkUp
  grind [foldl_keeps', State.onLive_keeps, rmtLinkUp_keeps]

theorem histogramSample_ok (s : State) (h_s : s.Ok) : (histogramSample s).Ok := by
  unfold histogramSample
  grind [State.Ok, foldl_ok, State.modRmt_ok]

theorem histogramSample_keeps {s0 : State} {ps : List Region} (s : State) (h_s : Keeps s0 s ps) (m_rmt : Region.rmt ∈
    ps) : Keeps s0 (histogramSample s) ps := by
  unfold histogramSample
  grind [foldl_keeps', State.modRmt_keeps]

theorem execHistogramSample_ok (s : State) (h_s : s.Ok) : ∀ x, (execHistogramSample s) = .next x → x.Ok := by
  unfold execHistogramSample
  grind [State.Ok, foldl_ok, State.onLive_ok, histogramSample_ok]

theorem execHistogramSample_keeps {s0 : State} {ps : List Region} (s : State) (h_s : Keeps s0 s ps) (m_rmt :
    Region.rmt ∈ ps) : ∀ x, (execHistogramSample s) = .next x → Keeps s0 x ps := by
  unfold execHistogramSample
  grind [foldl_keeps', State.onLive_keeps, histogramSample_keeps]

theorem histogramClear_ok (v : Word) (s : State) (h_s : s.Ok) : (histogramClear v s).Ok := by
  unfold histogramClear
  grind [State.Ok, foldl_ok, State.wr_ok, State.modRmt_ok]

theorem histogramClear_keeps {s0 : State} {ps : List Region} (v : Word) (s : State) (h_s : Keeps s0 s ps) (m_rmt :
    Region.rmt ∈ ps) : Keeps s0 (histogramClear v s) ps := by
  unfold histogramClear
  grind [foldl_keeps', State.wr_keeps, State.modRmt_keeps]

theorem execHistogramClear_ok (v : Word) (s : State) (h_s : s.Ok) : ∀ x, (execHistogramClear v s) = .next x → x.Ok :=
    by
  unfold execHistogramClear
  grind [State.Ok, foldl_ok, State.mgtWrite_ok, histogramClear_ok]

theorem execHistogramClear_keeps {s0 : State} {ps : List Region} (v : Word) (s : State) (h_s : Keeps s0 s ps) (m_mgt :
    Region.mgt ∈ ps) (m_rmt : Region.rmt ∈ ps) : ∀ x, (execHistogramClear v s) = .next x → Keeps s0 x ps := by
  unfold execHistogramClear
  grind [foldl_keeps', State.mgtWrite_keeps, histogramClear_keeps]

theorem execHistogramBucketRead_ok (s : State) (h_s : s.Ok) : ∀ x, (execHistogramBucketRead s) = .next x → x.Ok := by
  unfold execHistogramBucketRead
  grind [State.Ok, foldl_ok, State.mgtRead_ok, State.modRmt_ok]

theorem execHistogramBucketRead_keeps {s0 : State} {ps : List Region} (s : State) (h_s : Keeps s0 s ps) (m_mgt :
    Region.mgt ∈ ps) (m_rmt : Region.rmt ∈ ps) : ∀ x, (execHistogramBucketRead s) = .next x → Keeps s0 x ps := by
  unfold execHistogramBucketRead
  grind [foldl_keeps', State.mgtRead_keeps, State.modRmt_keeps]

end Sys2Proof.Machine
end

