-- ==== Sys2Proof/Laws/Press.lean ====
section
/-! SUPPORT. Two lemmas for every operation of Machine/Press.lean. `…_ok`: the register table and the stack's memory stay
canonical. `…_keeps`: what agrees with a state outside a list of regions that holds those the operation can change still
agrees afterwards. -/

namespace Sys2Proof.Machine

set_option Elab.async false

theorem State.pressAreas_ok (s : State) (o : PressOp) (h_s : s.Ok) : (State.pressAreas s o).Ok := by
  unfold State.pressAreas
  grind [State.Ok, foldl_ok, State.finish_ok, State.loadPk_ok, State.modSeq_ok]

theorem State.pressAreas_keeps {s0 : State} {ps : List Region} (s : State) (o : PressOp) (h_s : Keeps s0 s ps)
    (m_sched : Region.sched ∈ ps) (m_seq : Region.seq ∈ ps) : Keeps s0 (State.pressAreas s o) ps := by
  unfold State.pressAreas
  grind [foldl_keeps', State.finish_keeps, State.loadPk_keeps, State.modSeq_keeps]

theorem State.pressIntake_ok (s : State) (p : Packet) (h_s : s.Ok) : (State.pressIntake s p).Ok := by
  unfold State.pressIntake
  grind [State.Ok, foldl_ok, State.finish_ok, State.pressAreas_ok]

theorem State.pressIntake_keeps {s0 : State} {ps : List Region} (s : State) (p : Packet) (h_s : Keeps s0 s ps)
    (m_sched : Region.sched ∈ ps) (m_seq : Region.seq ∈ ps) : Keeps s0 (State.pressIntake s p) ps := by
  unfold State.pressIntake
  grind [foldl_keeps', State.finish_keeps, State.pressAreas_keeps]

theorem pressPacket_ok (opcode : Nat) (s : State) (h_s : s.Ok) : (pressPacket opcode s).Ok := by
  unfold pressPacket
  grind [State.Ok, foldl_ok, State.pressIntake_ok]

theorem pressPacket_keeps {s0 : State} {ps : List Region} (opcode : Nat) (s : State) (h_s : Keeps s0 s ps) (m_sched :
    Region.sched ∈ ps) (m_seq : Region.seq ∈ ps) : Keeps s0 (pressPacket opcode s) ps := by
  unfold pressPacket
  grind [foldl_keeps', State.pressIntake_keeps]

theorem execPressProject_ok (s : State) (h_s : s.Ok) : ∀ x, (execPressProject s) = .next x → x.Ok := by
  unfold execPressProject
  grind [State.Ok, foldl_ok, State.onLive_ok, pressPacket_ok]

theorem execPressProject_keeps {s0 : State} {ps : List Region} (s : State) (h_s : Keeps s0 s ps) (m_sched :
    Region.sched ∈ ps) (m_seq : Region.seq ∈ ps) : ∀ x, (execPressProject s) = .next x → Keeps s0 x ps := by
  unfold execPressProject
  grind [foldl_keeps', State.onLive_keeps, pressPacket_keeps]

theorem execPressGram_ok (s : State) (h_s : s.Ok) : ∀ x, (execPressGram s) = .next x → x.Ok := by
  unfold execPressGram
  grind [State.Ok, foldl_ok, State.onLive_ok, pressPacket_ok]

theorem execPressGram_keeps {s0 : State} {ps : List Region} (s : State) (h_s : Keeps s0 s ps) (m_sched : Region.sched
    ∈ ps) (m_seq : Region.seq ∈ ps) : ∀ x, (execPressGram s) = .next x → Keeps s0 x ps := by
  unfold execPressGram
  grind [foldl_keeps', State.onLive_keeps, pressPacket_keeps]

theorem State.maskBits_ok (s : State) (b : Fin 32) (use : Bool) (addr : Nat) (first : Nat) (n : Nat) (h_s : s.Ok) :
    (State.maskBits s b use addr first n).2.Ok := by
  unfold State.maskBits
  grind [State.Ok, foldl_ok, State.fetch_ok]

theorem State.maskBits_keeps {s0 : State} {ps : List Region} (s : State) (b : Fin 32) (use : Bool) (addr : Nat) (first
    : Nat) (n : Nat) (h_s : Keeps s0 s ps) (m_free : Region.free ∈ ps) (m_paths : Region.paths ∈ ps) (m_ring :
    Region.ring ∈ ps) (m_tags : Region.tags ∈ ps) (m_inj : Region.inj ∈ ps) : Keeps s0 (State.maskBits s b use addr
    first n).2 ps := by
  unfold State.maskBits
  grind [foldl_keeps', State.fetch_keeps]

theorem State.newJob_ok (s : State) (o : PressOp) (b : Fin 32) (bank : Nat) (no : Nat) (h_s : s.Ok) : (State.newJob s
    o b bank no).2.Ok := by
  unfold State.newJob
  dsimp only
  split
  · grind [State.maskBits_ok]
  · exact foldl_keeps (P := fun a : Status × List Bool × List Bool × State => a.2.2.2.Ok)
      (fun b g h => State.maskBits_ok _ _ _ _ _ _ h) _ h_s

theorem State.newJob_keeps {s0 : State} {ps : List Region} (s : State) (o : PressOp) (b : Fin 32) (bank : Nat) (no :
    Nat) (h_s : Keeps s0 s ps) (m_free : Region.free ∈ ps) (m_paths : Region.paths ∈ ps) (m_ring : Region.ring ∈ ps)
    (m_tags : Region.tags ∈ ps) (m_inj : Region.inj ∈ ps) : Keeps s0 (State.newJob s o b bank no).2 ps := by
  unfold State.newJob
  dsimp only
  split
  · grind [State.maskBits_keeps]
  · exact foldl_keeps (P := fun a : Status × List Bool × List Bool × State => Keeps s0 a.2.2.2 ps)
      (fun b g h => by apply State.maskBits_keeps <;> assumption) _ h_s

theorem State.tileRow_ok (s : State) (b : Fin 32) (f : Format) (row : Nat) (k : Nat) (t : Nat) (blk : Nat) (h_s :
    s.Ok) : (State.tileRow s b f row k t blk).2.Ok := by
  unfold State.tileRow
  grind [State.Ok, foldl_ok, State.fetch_ok]

theorem State.tileRow_keeps {s0 : State} {ps : List Region} (s : State) (b : Fin 32) (f : Format) (row : Nat) (k :
    Nat) (t : Nat) (blk : Nat) (h_s : Keeps s0 s ps) (m_free : Region.free ∈ ps) (m_paths : Region.paths ∈ ps) (m_ring
    : Region.ring ∈ ps) (m_tags : Region.tags ∈ ps) (m_inj : Region.inj ∈ ps) : Keeps s0 (State.tileRow s b f row k t
    blk).2 ps := by
  unfold State.tileRow
  grind [foldl_keeps', State.fetch_keeps]

theorem State.tileRows_ok (s : State) (b : Fin 32) (f : Format) (k : Nat) (t : Nat) (blk : Nat) (u0 : List (Bool ×
    Nat)) (h_s : s.Ok) : (State.tileRows s b f k t blk u0).2.Ok := by
  induction u0 generalizing s with
  | nil => unfold State.tileRows; grind [State.Ok, foldl_ok, State.tileRow_ok]
  | cons x l ih => unfold State.tileRows; grind [State.Ok, foldl_ok, State.tileRow_ok]

theorem State.tileRows_keeps {s0 : State} {ps : List Region} (s : State) (b : Fin 32) (f : Format) (k : Nat) (t : Nat)
    (blk : Nat) (u0 : List (Bool × Nat)) (h_s : Keeps s0 s ps) (m_free : Region.free ∈ ps) (m_paths : Region.paths ∈
    ps) (m_ring : Region.ring ∈ ps) (m_tags : Region.tags ∈ ps) (m_inj : Region.inj ∈ ps) : Keeps s0 (State.tileRows s
    b f k t blk u0).2 ps := by
  induction u0 generalizing s with
  | nil => unfold State.tileRows; grind [foldl_keeps', State.tileRow_keeps]
  | cons x l ih => unfold State.tileRows; grind [foldl_keeps', State.tileRow_keeps]

theorem State.loadPass_ok (s : State) (o : PressOp) (j : Job) (h_s : s.Ok) : (State.loadPass s o j).Ok := by
  unfold State.loadPass
  grind [State.Ok, foldl_ok, State.modSeq_ok, State.tileRows_ok]

theorem State.loadPass_keeps {s0 : State} {ps : List Region} (s : State) (o : PressOp) (j : Job) (h_s : Keeps s0 s ps)
    (m_free : Region.free ∈ ps) (m_paths : Region.paths ∈ ps) (m_ring : Region.ring ∈ ps) (m_seq : Region.seq ∈ ps)
    (m_tags : Region.tags ∈ ps) (m_inj : Region.inj ∈ ps) : Keeps s0 (State.loadPass s o j) ps := by
  unfold State.loadPass
  grind [foldl_keeps', State.modSeq_keeps, State.tileRows_keeps]

theorem State.feedPass_ok (s : State) (o : PressOp) (j : Job) (h_s : s.Ok) : (State.feedPass s o j).2.Ok := by
  unfold State.feedPass
  grind [State.Ok, foldl_ok, State.modSeq_ok, State.sf_ok, State.tileRows_ok]

theorem State.feedPass_keeps {s0 : State} {ps : List Region} (s : State) (o : PressOp) (j : Job) (h_s : Keeps s0 s ps)
    (m_free : Region.free ∈ ps) (m_paths : Region.paths ∈ ps) (m_ring : Region.ring ∈ ps) (m_seq : Region.seq ∈ ps)
    (m_tags : Region.tags ∈ ps) (m_inj : Region.inj ∈ ps) : Keeps s0 (State.feedPass s o j).2 ps := by
  unfold State.feedPass
  grind [foldl_keeps', State.modSeq_keeps, State.sf_keeps, State.tileRows_keeps]

theorem State.pressNext_ok (s : State) (b : Fin 32) (h_s : s.Ok) (o : PressOp) (j : Job) (t : State)
    (h : s.pressNext b = some (o, j, t)) : t.Ok := by
  unfold State.pressNext at h
  split at h
  · grind
  · split at h
    · grind
    · obtain ⟨x, -, hx⟩ := Option.map_eq_some_iff.mp h
      grind [State.putPress_ok, State.newJob_ok]

theorem State.pressNext_keeps {s0 : State} {ps : List Region} (s : State) (b : Fin 32) (h_s : Keeps s0 s ps) (o : PressOp)
    (j : Job) (t : State) (h : s.pressNext b = some (o, j, t)) (m_free : Region.free ∈ ps) (m_paths : Region.paths ∈ ps) (m_ring : Region.ring ∈ ps) (m_seq : Region.seq ∈ ps)
    (m_tags : Region.tags ∈ ps) (m_inj : Region.inj ∈ ps) : Keeps s0 t ps := by
  unfold State.pressNext at h
  split at h
  · grind
  · split at h
    · grind
    · obtain ⟨x, -, hx⟩ := Option.map_eq_some_iff.mp h
      grind [State.putPress_keeps, State.newJob_keeps]

theorem pressPass_ok (b : Fin 32) (s : State) (h_s : s.Ok) : (pressPass b s).Ok := by
  unfold pressPass
  grind [State.Ok, foldl_ok, State.feedPass_ok, State.loadPass_ok, State.pressNext_ok, State.putPress_ok]

theorem pressPass_keeps {s0 : State} {ps : List Region} (b : Fin 32) (s : State) (h_s : Keeps s0 s ps) (m_free :
    Region.free ∈ ps) (m_paths : Region.paths ∈ ps) (m_ring : Region.ring ∈ ps) (m_seq : Region.seq ∈ ps) (m_tags :
    Region.tags ∈ ps) (m_inj : Region.inj ∈ ps) : Keeps s0 (pressPass b s) ps := by
  unfold pressPass
  grind [foldl_keeps', State.feedPass_keeps, State.loadPass_keeps, State.pressNext_keeps, State.putPress_keeps]

theorem execPressPass_ok (b : Fin 32) (s : State) (h_s : s.Ok) : ∀ x, (execPressPass b s) = .next x → x.Ok := by
  unfold execPressPass
  grind [State.Ok, foldl_ok, State.onLive_ok, pressPass_ok]

theorem execPressPass_keeps {s0 : State} {ps : List Region} (b : Fin 32) (s : State) (h_s : Keeps s0 s ps) (m_free :
    Region.free ∈ ps) (m_paths : Region.paths ∈ ps) (m_ring : Region.ring ∈ ps) (m_seq : Region.seq ∈ ps) (m_tags :
    Region.tags ∈ ps) (m_inj : Region.inj ∈ ps) : ∀ x, (execPressPass b s) = .next x → Keeps s0 x ps := by
  unfold execPressPass
  grind [foldl_keeps', State.onLive_keeps, pressPass_keeps]

theorem State.loadNext_ok (s : State) (b : Fin 32) (h_s : s.Ok) : (State.loadNext s b).Ok := by
  unfold State.loadNext
  grind [State.Ok, foldl_ok, State.loadPass_ok, State.pressNext_ok]

theorem State.loadNext_keeps {s0 : State} {ps : List Region} (s : State) (b : Fin 32) (h_s : Keeps s0 s ps) (m_free :
    Region.free ∈ ps) (m_paths : Region.paths ∈ ps) (m_ring : Region.ring ∈ ps) (m_seq : Region.seq ∈ ps) (m_tags :
    Region.tags ∈ ps) (m_inj : Region.inj ∈ ps) : Keeps s0 (State.loadNext s b) ps := by
  unfold State.loadNext
  grind [foldl_keeps', State.loadPass_keeps, State.pressNext_keeps]

theorem tileSwap_ok (b : Fin 32) (s : State) (h_s : s.Ok) : (tileSwap b s).Ok := by
  unfold tileSwap
  grind [State.Ok, foldl_ok, State.loadNext_ok, State.modSeq_ok]

theorem tileSwap_keeps {s0 : State} {ps : List Region} (b : Fin 32) (s : State) (h_s : Keeps s0 s ps) (m_free :
    Region.free ∈ ps) (m_paths : Region.paths ∈ ps) (m_ring : Region.ring ∈ ps) (m_seq : Region.seq ∈ ps) (m_tags :
    Region.tags ∈ ps) (m_inj : Region.inj ∈ ps) : Keeps s0 (tileSwap b s) ps := by
  unfold tileSwap
  grind [foldl_keeps', State.loadNext_keeps, State.modSeq_keeps]

theorem execTileSwap_ok (b : Fin 32) (s : State) (h_s : s.Ok) : ∀ x, (execTileSwap b s) = .next x → x.Ok := by
  unfold execTileSwap
  grind [State.Ok, foldl_ok, State.onLive_ok, tileSwap_ok]

theorem execTileSwap_keeps {s0 : State} {ps : List Region} (b : Fin 32) (s : State) (h_s : Keeps s0 s ps) (m_free :
    Region.free ∈ ps) (m_paths : Region.paths ∈ ps) (m_ring : Region.ring ∈ ps) (m_seq : Region.seq ∈ ps) (m_tags :
    Region.tags ∈ ps) (m_inj : Region.inj ∈ ps) : ∀ x, (execTileSwap b s) = .next x → Keeps s0 x ps := by
  unfold execTileSwap
  grind [foldl_keeps', State.onLive_keeps, tileSwap_keeps]

theorem State.drainRow_ok (s : State) (o : PressOp) (j : Job) (i : Nat) (h_s : s.Ok) : (State.drainRow s o j i).1.Ok
    := by
  unfold State.drainRow
  grind [State.Ok, foldl_ok, State.pkWrite_ok]

theorem State.drainRow_keeps {s0 : State} {ps : List Region} (s : State) (o : PressOp) (j : Job) (i : Nat) (h_s :
    Keeps s0 s ps) (m_paths : Region.paths ∈ ps) (m_ring : Region.ring ∈ ps) (m_sched : Region.sched ∈ ps) (m_tags :
    Region.tags ∈ ps) (m_inj : Region.inj ∈ ps) : Keeps s0 (State.drainRow s o j i).1 ps := by
  unfold State.drainRow
  grind [foldl_keeps', State.pkWrite_keeps]

theorem State.deckleRow_ok (s : State) (o : PressOp) (j : Job) (row : Nat) (d : Val) (h_s : s.Ok) : (State.deckleRow s
    o j row d).Ok := by
  unfold State.deckleRow
  grind [State.Ok, foldl_ok, State.pkWrite_ok]

theorem State.deckleRow_keeps {s0 : State} {ps : List Region} (s : State) (o : PressOp) (j : Job) (row : Nat) (d :
    Val) (h_s : Keeps s0 s ps) (m_paths : Region.paths ∈ ps) (m_ring : Region.ring ∈ ps) (m_sched : Region.sched ∈ ps)
    (m_tags : Region.tags ∈ ps) (m_inj : Region.inj ∈ ps) : Keeps s0 (State.deckleRow s o j row d) ps := by
  unfold State.deckleRow
  grind [foldl_keeps', State.pkWrite_keeps]

theorem State.rowBound_ok (s : State) (o : PressOp) (j : Job) (i : Nat) (d : Val) (h_s : s.Ok) : (State.rowBound s o j
    i d).1.Ok := by
  unfold State.rowBound
  grind [State.Ok, foldl_ok, State.deckleRow_ok]

theorem State.rowBound_keeps {s0 : State} {ps : List Region} (s : State) (o : PressOp) (j : Job) (i : Nat) (d : Val)
    (h_s : Keeps s0 s ps) (m_paths : Region.paths ∈ ps) (m_ring : Region.ring ∈ ps) (m_sched : Region.sched ∈ ps)
    (m_tags : Region.tags ∈ ps) (m_inj : Region.inj ∈ ps) : Keeps s0 (State.rowBound s o j i d).1 ps := by
  unfold State.rowBound
  grind [foldl_keeps', State.deckleRow_keeps]

theorem State.bandDeckles_ok (s : State) (o : PressOp) (j : Job) (h_s : s.Ok) : (State.bandDeckles s o j).Ok := by
  unfold State.bandDeckles
  grind [State.Ok, foldl_ok, State.deckleRow_ok]

theorem State.bandDeckles_keeps {s0 : State} {ps : List Region} (s : State) (o : PressOp) (j : Job) (h_s : Keeps s0 s
    ps) (m_paths : Region.paths ∈ ps) (m_ring : Region.ring ∈ ps) (m_sched : Region.sched ∈ ps) (m_tags : Region.tags
    ∈ ps) (m_inj : Region.inj ∈ ps) : Keeps s0 (State.bandDeckles s o j) ps := by
  unfold State.bandDeckles
  grind [foldl_keeps', State.deckleRow_keeps]

theorem State.drainNext_ok (j : Job) (acc : State × PressOp × Val) (i : Nat) (h : acc.1.Ok) :
    (State.drainNext j acc i).1.Ok := by
  unfold State.drainNext
  grind [State.drainRow_ok, State.rowBound_ok]

theorem State.drainNext_keeps {s0 : State} {ps : List Region} (j : Job) (acc : State × PressOp × Val) (i : Nat)
    (h : Keeps s0 acc.1 ps) (m_paths : Region.paths ∈ ps) (m_ring : Region.ring ∈ ps) (m_sched : Region.sched ∈ ps)
    (m_tags : Region.tags ∈ ps) (m_inj : Region.inj ∈ ps) : Keeps s0 (State.drainNext j acc i).1 ps := by
  unfold State.drainNext
  grind [State.drainRow_keeps, State.rowBound_keeps]

theorem State.drainBank_ok (s : State) (o : PressOp) (j : Job) (h_s : s.Ok) : (State.drainBank s o j).1.Ok := by
  exact foldl_keeps (P := fun a : State × PressOp × Val => a.1.Ok) (fun b i h => State.drainNext_ok j b i h) _ h_s

theorem State.drainBank_keeps {s0 : State} {ps : List Region} (s : State) (o : PressOp) (j : Job) (h_s : Keeps s0 s ps)
    (m_paths : Region.paths ∈ ps) (m_ring : Region.ring ∈ ps) (m_sched : Region.sched ∈ ps) (m_tags : Region.tags ∈ ps)
    (m_inj : Region.inj ∈ ps) : Keeps s0 (State.drainBank s o j).1 ps := by
  exact foldl_keeps (P := fun a : State × PressOp × Val => Keeps s0 a.1 ps)
    (fun b i h => State.drainNext_keeps j b i h (by assumption) (by assumption) (by assumption) (by assumption)
      (by assumption)) _ h_s

theorem State.commitJob_ok (s : State) (o : PressOp) (j : Job) (h_s : s.Ok) : (State.commitJob s o j).Ok := by
  unfold State.commitJob
  grind [State.Ok, foldl_ok, State.bandDeckles_ok, State.bump_ok, State.drainBank_ok, State.putPress_ok]

theorem State.commitJob_keeps {s0 : State} {ps : List Region} (s : State) (o : PressOp) (j : Job) (h_s : Keeps s0 s
    ps) (m_paths : Region.paths ∈ ps) (m_ring : Region.ring ∈ ps) (m_sched : Region.sched ∈ ps) (m_seq : Region.seq ∈
    ps) (m_tags : Region.tags ∈ ps) (m_inj : Region.inj ∈ ps) : Keeps s0 (State.commitJob s o j) ps := by
  unfold State.commitJob
  grind [foldl_keeps', State.bandDeckles_keeps, State.bump_keeps, State.drainBank_keeps, State.putPress_keeps]

theorem jobCommit_ok (s : State) (h_s : s.Ok) : (jobCommit s).Ok := by
  unfold jobCommit
  grind [State.Ok, foldl_ok, State.commitJob_ok, State.dropDone_ok]

theorem jobCommit_keeps {s0 : State} {ps : List Region} (s : State) (h_s : Keeps s0 s ps) (m_paths : Region.paths ∈
    ps) (m_ring : Region.ring ∈ ps) (m_sched : Region.sched ∈ ps) (m_seq : Region.seq ∈ ps) (m_tags : Region.tags ∈
    ps) (m_inj : Region.inj ∈ ps) : Keeps s0 (jobCommit s) ps := by
  unfold jobCommit
  grind [foldl_keeps', State.commitJob_keeps, State.dropDone_keeps]

theorem execJobCommit_ok (s : State) (h_s : s.Ok) : ∀ x, (execJobCommit s) = .next x → x.Ok := by
  unfold execJobCommit
  grind [State.Ok, foldl_ok, State.onLive_ok, jobCommit_ok]

theorem execJobCommit_keeps {s0 : State} {ps : List Region} (s : State) (h_s : Keeps s0 s ps) (m_paths : Region.paths
    ∈ ps) (m_ring : Region.ring ∈ ps) (m_sched : Region.sched ∈ ps) (m_seq : Region.seq ∈ ps) (m_tags : Region.tags ∈
    ps) (m_inj : Region.inj ∈ ps) : ∀ x, (execJobCommit s) = .next x → Keeps s0 x ps := by
  unfold execJobCommit
  grind [foldl_keeps', State.onLive_keeps, jobCommit_keeps]

theorem drainComplete_ok (b : Fin 32) (s : State) (h_s : s.Ok) : (drainComplete b s).Ok := by
  unfold drainComplete
  grind [State.Ok, foldl_ok, State.pressEnd_ok, State.putPress_ok]

theorem drainComplete_keeps {s0 : State} {ps : List Region} (b : Fin 32) (s : State) (h_s : Keeps s0 s ps) (m_sched :
    Region.sched ∈ ps) (m_seq : Region.seq ∈ ps) : Keeps s0 (drainComplete b s) ps := by
  unfold drainComplete
  grind [foldl_keeps', State.pressEnd_keeps, State.putPress_keeps]

theorem execDrainComplete_ok (b : Fin 32) (s : State) (h_s : s.Ok) : ∀ x, (execDrainComplete b s) = .next x → x.Ok :=
    by
  unfold execDrainComplete
  grind [State.Ok, foldl_ok, State.onLive_ok, drainComplete_ok]

theorem execDrainComplete_keeps {s0 : State} {ps : List Region} (b : Fin 32) (s : State) (h_s : Keeps s0 s ps)
    (m_sched : Region.sched ∈ ps) (m_seq : Region.seq ∈ ps) : ∀ x, (execDrainComplete b s) = .next x → Keeps s0 x ps
    := by
  unfold execDrainComplete
  grind [foldl_keeps', State.onLive_keeps, drainComplete_keeps]

end Sys2Proof.Machine
end

