-- ==== Sys2Proof/Laws/Management.lean ====
section
/-! SUPPORT. Two lemmas for every operation of Machine/Management.lean. `…_ok`: the register table and the stack's memory stay
canonical. `…_keeps`: what agrees with a state outside a list of regions that holds those the operation can change still
agrees afterwards. -/

namespace Sys2Proof.Machine

set_option Elab.async false

theorem State.modMgt_ok (s : State) (f : MgtPort → MgtPort) (h_s : s.Ok) : (State.modMgt s f).Ok := by
  unfold State.modMgt
  grind [State.Ok, foldl_ok]

theorem State.modMgt_keeps {s0 : State} {ps : List Region} (s : State) (f : MgtPort → MgtPort) (h_s : Keeps s0 s ps)
    (m_mgt : Region.mgt ∈ ps) : Keeps s0 (State.modMgt s f) ps := by
  unfold State.modMgt
  grind [foldl_keeps', Keeps.set_mgt]

theorem State.latchPartner_ok (s : State) (h_s : s.Ok) : (State.latchPartner s).Ok := by
  unfold State.latchPartner
  grind [State.Ok, foldl_ok, State.modRmt_ok]

theorem State.latchPartner_keeps {s0 : State} {ps : List Region} (s : State) (h_s : Keeps s0 s ps) (m_rmt : Region.rmt
    ∈ ps) : Keeps s0 (State.latchPartner s) ps := by
  unfold State.latchPartner
  grind [foldl_keeps', State.modRmt_keeps]

theorem State.latchHist_ok (s : State) (h_s : s.Ok) : (State.latchHist s).Ok := by
  unfold State.latchHist
  grind [State.Ok, foldl_ok, State.modRmt_ok]

theorem State.latchHist_keeps {s0 : State} {ps : List Region} (s : State) (h_s : Keeps s0 s ps) (m_rmt : Region.rmt ∈
    ps) : Keeps s0 (State.latchHist s) ps := by
  unfold State.latchHist
  grind [foldl_keeps', State.modRmt_keeps]

theorem State.readReg_ok (s : State) (r : RegRow) (off : Nat) (i : Nat) (j : Nat) (high : Bool) (h_s : s.Ok) :
    (State.readReg s r off i j high).1.Ok := by
  unfold State.readReg
  grind [State.Ok, foldl_ok, State.latchPartner_ok, State.latchHist_ok]

theorem State.readReg_keeps {s0 : State} {ps : List Region} (s : State) (r : RegRow) (off : Nat) (i : Nat) (j : Nat)
    (high : Bool) (h_s : Keeps s0 s ps) (m_mgt : Region.mgt ∈ ps) (m_rmt : Region.rmt ∈ ps) : Keeps s0 (State.readReg
    s r off i j high).1 ps := by
  unfold State.readReg
  grind [foldl_keeps', State.latchPartner_keeps, State.latchHist_keeps, Keeps.set_mgt]

theorem rowpolWrite_ok (p : Nat) (v : Word) (s : State) (h_s : s.Ok) : (rowpolWrite p v s).Ok := by
  unfold rowpolWrite
  grind [State.Ok, foldl_ok, State.raiseIf_ok, State.wr_ok]

theorem rowpolWrite_keeps {s0 : State} {ps : List Region} (p : Nat) (v : Word) (s : State) (h_s : Keeps s0 s ps) :
    Keeps s0 (rowpolWrite p v s) ps := by
  unfold rowpolWrite
  grind [foldl_keeps', State.raiseIf_keeps, State.wr_keeps]

theorem armedWrite_ok (armed : Bool) (st : Nat) (refused : Fld) (t : State) (s : State) (h_t : t.Ok) (h_s : s.Ok) :
    (armedWrite armed st refused t s).Ok := by
  unfold armedWrite
  grind [State.Ok, foldl_ok, State.raise_ok]

theorem armedWrite_keeps {s0 : State} {ps : List Region} (armed : Bool) (st : Nat) (refused : Fld) (t : State) (s :
    State) (h_t : Keeps s0 t ps) (h_s : Keeps s0 s ps) : Keeps s0 (armedWrite armed st refused t s) ps := by
  unfold armedWrite
  grind [foldl_keeps', State.raise_keeps]

theorem tagCfgWrite_ok (w : Nat) (s : State) (h_s : s.Ok) : (tagCfgWrite w s).Ok := by
  unfold tagCfgWrite
  extract_lets c was t
  have h : t.Ok := State.wr_ok _ _ _ h_s
  clear_value t
  split
  · exact ⟨h.1, h.2⟩
  · exact h

theorem tagCfgWrite_keeps {s0 : State} {ps : List Region} (w : Nat) (s : State) (h_s : Keeps s0 s ps) (m_tags :
    Region.tags ∈ ps) : Keeps s0 (tagCfgWrite w s) ps := by
  unfold tagCfgWrite
  dsimp only
  repeat' first
      | with_reducible assumption
      | with_reducible apply ite_keeps
      | with_reducible refine foldl_keeps' (fun _ _ _ => ?_) _ ?_
      | with_reducible apply State.wr_keeps
      | with_reducible apply Keeps.set_tags
      | split

theorem coreCtrlWrite_ok (v : Nat) (s : State) (h_s : s.Ok) : (coreCtrlWrite v s).Ok := by
  unfold coreCtrlWrite
  grind [State.Ok, foldl_ok, resetAllCores_ok, resetNamed_ok]

theorem loadCtrlWrite_ok (v : Nat) (s : State) (h_s : s.Ok) : (loadCtrlWrite v s).Ok := by
  unfold loadCtrlWrite
  grind [State.Ok, foldl_ok, fwLoadStart_ok, fwLoadCommit_ok]

theorem loadCtrlWrite_keeps {s0 : State} {ps : List Region} (v : Nat) (s : State) (h_s : Keeps s0 s ps) (m_fw :
    Region.fw ∈ ps) : Keeps s0 (loadCtrlWrite v s) ps := by
  unfold loadCtrlWrite
  grind [foldl_keeps', fwLoadStart_keeps, fwLoadCommit_keeps]

theorem State.writeHw_ok (s : State) (r : RegRow) (off : Nat) (i : Nat) (j : Nat) (v : Word) (events : Word) (h_s :
    s.Ok) : (State.writeHw s r off i j v events).Ok := by
  unfold State.writeHw
  dsimp only
  repeat' first
      | with_reducible assumption
      | with_reducible apply ite_ok
      | with_reducible refine foldl_ok (fun _ _ _ => ?_) _ ?_
      | with_reducible apply State.cntCtrl_ok
      | with_reducible apply State.iff_ok
      | with_reducible apply State.orderedWrite_ok
      | with_reducible apply State.reloadTimer_ok
      | with_reducible apply State.rezone_ok
      | with_reducible apply State.sf_ok
      | with_reducible apply State.wr_ok
      | with_reducible apply armedWrite_ok
      | with_reducible apply cacheCtrlWrite_ok
      | with_reducible apply computePower_ok
      | with_reducible apply coreCtrlWrite_ok
      | with_reducible apply d2dInjection_ok
      | with_reducible apply drainWrite_ok
      | with_reducible apply fwLoadData_ok
      | with_reducible apply gateCtrlWrite_ok
      | with_reducible apply histogramClear_ok
      | with_reducible apply hostTimeout_ok
      | with_reducible apply laceWrite_ok
      | with_reducible apply loadCtrlWrite_ok
      | with_reducible apply parityInjection_ok
      | with_reducible apply partnerCommit_ok
      | with_reducible apply refCtrlWrite_ok
      | with_reducible apply refTempWrite_ok
      | with_reducible apply remoteInjection_ok
      | with_reducible apply rowpolWrite_ok
      | with_reducible apply shaperWrite_ok
      | with_reducible apply slotCtrlWrite_ok
      | with_reducible apply tagCfgWrite_ok
      | with_reducible apply timingWrite_ok
      | with_reducible apply wdogCfg_ok
      | split
  all_goals grind [State.Ok, foldl_ok, State.cntCtrl_ok, State.iff_ok, State.orderedWrite_ok, State.reloadTimer_ok,
    State.rezone_ok, State.sf_ok, State.wr_ok, armedWrite_ok, cacheCtrlWrite_ok, computePower_ok, coreCtrlWrite_ok,
    d2dInjection_ok, drainWrite_ok, fwLoadData_ok, gateCtrlWrite_ok, histogramClear_ok, hostTimeout_ok, laceWrite_ok,
    loadCtrlWrite_ok, parityInjection_ok, partnerCommit_ok, refCtrlWrite_ok, refTempWrite_ok, remoteInjection_ok,
    rowpolWrite_ok, shaperWrite_ok, slotCtrlWrite_ok, tagCfgWrite_ok, timingWrite_ok, wdogCfg_ok]

theorem State.holdLow_ok (s : State) (off : Nat) (v : Word) (h_s : s.Ok) : (State.holdLow s off v).Ok := by
  unfold State.holdLow
  grind [State.Ok, foldl_ok]

theorem State.holdLow_keeps {s0 : State} {ps : List Region} (s : State) (off : Nat) (v : Word) (h_s : Keeps s0 s ps)
    (m_mgt : Region.mgt ∈ ps) : Keeps s0 (State.holdLow s off v) ps := by
  unfold State.holdLow
  grind [foldl_keeps', Keeps.set_mgt]

theorem State.commit64_ok (s : State) (r : RegRow) (off : Nat) (i : Nat) (lo : Word) (hi : Word) (h_s : s.Ok) :
    (State.commit64 s r off i lo hi).Ok := by
  unfold State.commit64
  grind [State.Ok, foldl_ok, armedWrite_ok, State.wr64_ok, State.wr_ok]

theorem State.commit64_keeps {s0 : State} {ps : List Region} (s : State) (r : RegRow) (off : Nat) (i : Nat) (lo :
    Word) (hi : Word) (h_s : Keeps s0 s ps) : Keeps s0 (State.commit64 s r off i lo hi) ps := by
  unfold State.commit64
  grind [foldl_keeps', armedWrite_keeps, State.wr64_keeps, State.wr_keeps]

theorem State.commitHigh_ok (s : State) (r : RegRow) (off : Nat) (i : Nat) (hi : Word) (h_s : s.Ok) :
    (State.commitHigh s r off i hi).Ok := by
  unfold State.commitHigh
  grind [State.Ok, foldl_ok, State.modMgt_ok, State.commit64_ok]

theorem State.commitHigh_keeps {s0 : State} {ps : List Region} (s : State) (r : RegRow) (off : Nat) (i : Nat) (hi :
    Word) (h_s : Keeps s0 s ps) (m_mgt : Region.mgt ∈ ps) : Keeps s0 (State.commitHigh s r off i hi) ps := by
  unfold State.commitHigh
  grind [foldl_keeps', State.modMgt_keeps, State.commit64_keeps]

theorem stageCtrlWrite_ok (v : Word) (s : State) (h_s : s.Ok) : (stageCtrlWrite v s).Ok := by
  unfold stageCtrlWrite
  grind [State.Ok, foldl_ok, State.activateStage_ok, State.cancelStage_ok, State.iff_ok, State.verifyStage_ok,
    State.wr_ok]

theorem stageCtrlWrite_keeps {s0 : State} {ps : List Region} (v : Word) (s : State) (h_s : Keeps s0 s ps) (m_inbox :
    Region.inbox ∈ ps) (m_fw : Region.fw ∈ ps) : Keeps s0 (stageCtrlWrite v s) ps := by
  unfold stageCtrlWrite
  grind [foldl_keeps', State.activateStage_keeps, State.cancelStage_keeps, State.iff_keeps, State.verifyStage_keeps,
    State.wr_keeps]

theorem ledgerCtrlWrite_ok (v : Word) (s : State) (h_s : s.Ok) : (ledgerCtrlWrite v s).Ok := by
  unfold ledgerCtrlWrite
  grind [State.Ok, foldl_ok, State.iff_ok, State.modAge_ok, State.startReplay_ok, State.wr_ok]

theorem ledgerCtrlWrite_keeps {s0 : State} {ps : List Region} (v : Word) (s : State) (h_s : Keeps s0 s ps) (m_free :
    Region.free ∈ ps) (m_pwr : Region.pwr ∈ ps) (m_paths : Region.paths ∈ ps) (m_pcs : Region.pcs ∈ ps) (m_stack :
    Region.stack ∈ ps) (m_inbox : Region.inbox ∈ ps) (m_ring : Region.ring ∈ ps) (m_chain : Region.chain ∈ ps) (m_pkg
    : Region.pkg ∈ ps) (m_tags : Region.tags ∈ ps) (m_age : Region.age ∈ ps) (m_inj : Region.inj ∈ ps) : Keeps s0
    (ledgerCtrlWrite v s) ps := by
  unfold ledgerCtrlWrite
  grind [foldl_keeps', State.iff_keeps, State.modAge_keeps, State.startReplay_keeps, State.wr_keeps]

theorem State.emuEffect_ok (s : State) (r : RegRow) (off : Nat) (i : Nat) (high : Bool) (v : Word) (h_s : s.Ok) :
    (State.emuEffect s r off i high v).2.Ok := by
  unfold State.emuEffect
  repeat' first
      | with_reducible assumption
      | with_reducible apply ite_snd_ok
      | with_reducible apply ite_ok
      | with_reducible apply State.commitHigh_ok
      | with_reducible apply State.holdLow_ok
      | with_reducible apply attach_ok
      | with_reducible apply stageCtrlWrite_ok
      | with_reducible apply State.qcfg_ok
      | with_reducible apply go_ok
      | with_reducible apply ledgerPort_ok
      | with_reducible apply ledgerCtrlWrite_ok
      | with_reducible apply snap_ok
      | with_reducible apply trueCfg_ok
      | with_reducible apply State.wr_ok
  cases h : doorbell (qFin i) v s with
  | none => exact h_s
  | some x => exact doorbell_ok _ _ _ h_s x h

theorem State.emuEffect_keeps {s0 : State} {ps : List Region} (s : State) (r : RegRow) (off : Nat) (i : Nat) (high :
    Bool) (v : Word) (h_s : Keeps s0 s ps) (m_free : Region.free ∈ ps) (m_mgt : Region.mgt ∈ ps) (m_pins : Region.pins
    ∈ ps) (m_pwr : Region.pwr ∈ ps) (m_paths : Region.paths ∈ ps) (m_pcs : Region.pcs ∈ ps) (m_stack : Region.stack ∈ ps) (m_inbox :
    Region.inbox ∈ ps) (m_ring : Region.ring ∈ ps) (m_chain : Region.chain ∈ ps) (m_pkg : Region.pkg ∈ ps) (m_fw :
    Region.fw ∈ ps) (m_sched : Region.sched ∈ ps) (m_seq : Region.seq ∈ ps) (m_tags : Region.tags ∈ ps) (m_age :
    Region.age ∈ ps) (m_inj : Region.inj ∈ ps) : Keeps s0 (State.emuEffect s r off i high v).2 ps := by
  unfold State.emuEffect
  repeat' first
      | with_reducible assumption
      | with_reducible apply ite_snd_keeps
      | with_reducible apply ite_keeps
      | with_reducible apply State.commitHigh_keeps
      | with_reducible apply State.holdLow_keeps
      | with_reducible apply attach_keeps
      | with_reducible apply stageCtrlWrite_keeps
      | with_reducible apply State.qcfg_keeps
      | with_reducible apply go_keeps
      | with_reducible apply ledgerPort_keeps
      | with_reducible apply ledgerCtrlWrite_keeps
      | with_reducible apply snap_keeps
      | with_reducible apply trueCfg_keeps
      | with_reducible apply State.wr_keeps
  cases h : doorbell (qFin i) v s with
  | none => exact h_s
  | some x => exact doorbell_keeps _ _ _ h_s (by assumption) x h

theorem State.emuAnswer_ok (s : State) (r : RegRow) (off : Nat) (i : Nat) (j : Nat) (high : Bool) (write : Bool) (v :
    Word) (h_s : s.Ok) : (State.emuAnswer s r off i j high write v).Ok := by
  unfold State.emuAnswer
  grind [State.Ok, foldl_ok, State.emuEffect_ok, State.mgtDone_ok, State.readReg_ok]

theorem State.emuAnswer_keeps {s0 : State} {ps : List Region} (s : State) (r : RegRow) (off : Nat) (i : Nat) (j : Nat)
    (high : Bool) (write : Bool) (v : Word) (h_s : Keeps s0 s ps) (m_free : Region.free ∈ ps) (m_mgt : Region.mgt ∈
    ps) (m_pins : Region.pins ∈ ps) (m_pwr : Region.pwr ∈ ps) (m_paths : Region.paths ∈ ps) (m_pcs : Region.pcs ∈ ps) (m_stack : Region.stack ∈
    ps) (m_inbox : Region.inbox ∈ ps) (m_ring : Region.ring ∈ ps) (m_chain : Region.chain ∈ ps) (m_pkg : Region.pkg ∈
    ps) (m_fw : Region.fw ∈ ps) (m_sched : Region.sched ∈ ps) (m_seq : Region.seq ∈ ps) (m_tags : Region.tags ∈ ps)
    (m_rmt : Region.rmt ∈ ps) (m_age : Region.age ∈ ps) (m_inj : Region.inj ∈ ps) : Keeps s0 (State.emuAnswer s r off
    i j high write v) ps := by
  unfold State.emuAnswer
  grind [foldl_keeps', State.emuEffect_keeps, State.mgtDone_keeps, State.readReg_keeps]

theorem State.emulated_ok (s : State) (r : RegRow) (off : Nat) (i : Nat) (j : Nat) (high : Bool) (write : Bool) (v :
    Word) (h_s : s.Ok) : (State.emulated s r off i j high write v).Ok := by
  unfold State.emulated
  grind [State.Ok, foldl_ok, State.emuAnswer_ok, State.mgtDone_ok, State.modMgt_ok]

theorem State.emulated_keeps {s0 : State} {ps : List Region} (s : State) (r : RegRow) (off : Nat) (i : Nat) (j : Nat)
    (high : Bool) (write : Bool) (v : Word) (h_s : Keeps s0 s ps) (m_free : Region.free ∈ ps) (m_mgt : Region.mgt ∈
    ps) (m_pins : Region.pins ∈ ps) (m_pwr : Region.pwr ∈ ps) (m_paths : Region.paths ∈ ps) (m_pcs : Region.pcs ∈ ps)
    (m_stack : Region.stack ∈ ps) (m_inbox : Region.inbox ∈ ps) (m_ring : Region.ring ∈ ps) (m_chain : Region.chain ∈
    ps) (m_pkg : Region.pkg ∈ ps) (m_fw : Region.fw ∈ ps) (m_sched : Region.sched ∈ ps) (m_seq : Region.seq ∈ ps)
    (m_tags : Region.tags ∈ ps) (m_rmt : Region.rmt ∈ ps) (m_age : Region.age ∈ ps) (m_inj : Region.inj ∈ ps) : Keeps
    s0 (State.emulated s r off i j high write v) ps := by
  unfold State.emulated
  grind [foldl_keeps', State.emuAnswer_keeps, State.mgtDone_keeps, State.modMgt_keeps]

theorem State.portWrite_ok (s : State) (off : Nat) (v : Word) (events : Word) (h_s : s.Ok) : (State.portWrite s off v
    events).Ok := by
  unfold State.portWrite
  grind [State.Ok, foldl_ok, State.mgtDone_ok, State.emulated_ok, State.commitHigh_ok, State.holdLow_ok,
      State.writeHw_ok]

theorem State.portRead_ok (s : State) (off : Nat) (h_s : s.Ok) : (State.portRead s off).Ok := by
  unfold State.portRead
  grind [State.Ok, foldl_ok, State.emulated_ok, State.mgtDone_ok, State.readReg_ok]

theorem State.portRead_keeps {s0 : State} {ps : List Region} (s : State) (off : Nat) (h_s : Keeps s0 s ps) (m_free :
    Region.free ∈ ps) (m_mgt : Region.mgt ∈ ps) (m_pins : Region.pins ∈ ps) (m_pwr : Region.pwr ∈ ps) (m_paths :
    Region.paths ∈ ps) (m_pcs : Region.pcs ∈ ps) (m_stack : Region.stack ∈ ps) (m_inbox : Region.inbox ∈ ps) (m_ring :
    Region.ring ∈ ps) (m_chain : Region.chain ∈ ps) (m_pkg : Region.pkg ∈ ps) (m_fw : Region.fw ∈ ps) (m_sched :
    Region.sched ∈ ps) (m_seq : Region.seq ∈ ps) (m_tags : Region.tags ∈ ps) (m_rmt : Region.rmt ∈ ps) (m_age :
    Region.age ∈ ps) (m_inj : Region.inj ∈ ps) : Keeps s0 (State.portRead s off) ps := by
  unfold State.portRead
  grind [foldl_keeps', State.emulated_keeps, State.mgtDone_keeps, State.readReg_keeps]

theorem execRegisterWrite_ok (off : BitVec 24) (v : Word) (events : Word) (s : State) (h_s : s.Ok) : ∀ x,
    (execRegisterWrite off v events s) = .next x → x.Ok := by
  unfold execRegisterWrite
  grind [State.Ok, foldl_ok, State.when_ok, State.portWrite_ok]

theorem execLowWordRead_ok (off : BitVec 24) (s : State) (h_s : s.Ok) : ∀ x, (execLowWordRead off s) = .next x → x.Ok
    := by
  unfold execLowWordRead
  grind [State.Ok, foldl_ok, State.portRead_ok]

theorem execLowWordRead_keeps {s0 : State} {ps : List Region} (off : BitVec 24) (s : State) (h_s : Keeps s0 s ps)
    (m_free : Region.free ∈ ps) (m_mgt : Region.mgt ∈ ps) (m_pins : Region.pins ∈ ps) (m_pwr : Region.pwr ∈ ps)
    (m_paths : Region.paths ∈ ps) (m_pcs : Region.pcs ∈ ps) (m_stack : Region.stack ∈ ps) (m_inbox : Region.inbox ∈
    ps) (m_ring : Region.ring ∈ ps) (m_chain : Region.chain ∈ ps) (m_pkg : Region.pkg ∈ ps) (m_fw : Region.fw ∈ ps)
    (m_sched : Region.sched ∈ ps) (m_seq : Region.seq ∈ ps) (m_tags : Region.tags ∈ ps) (m_rmt : Region.rmt ∈ ps)
    (m_age : Region.age ∈ ps) (m_inj : Region.inj ∈ ps) : ∀ x, (execLowWordRead off s) = .next x → Keeps s0 x ps := by
  unfold execLowWordRead
  grind [foldl_keeps', State.portRead_keeps]

theorem execLowWordWrite_ok (off : BitVec 24) (v : Word) (s : State) (h_s : s.Ok) : ∀ x, (execLowWordWrite off v s) =
    .next x → x.Ok := by
  unfold execLowWordWrite
  grind [State.Ok, foldl_ok, State.when_ok, State.portWrite_ok]

theorem execHighWordWrite_ok (off : BitVec 24) (v : Word) (s : State) (h_s : s.Ok) : ∀ x, (execHighWordWrite off v s)
    = .next x → x.Ok := by
  unfold execHighWordWrite
  grind [State.Ok, foldl_ok, State.when_ok, State.portWrite_ok]

theorem emulatedAccess_ok (write : Bool) (off : Nat) (v : Word) (s : State) (h_s : s.Ok) : (emulatedAccess write off v
    s).Ok := by
  unfold emulatedAccess
  grind [State.Ok, foldl_ok, State.emuAnswer_ok, State.mgtDone_ok, State.portRead_ok, State.portWrite_ok,
    State.when_ok]

theorem execEmulatedAccess_ok (write : Bool) (off : BitVec 24) (v : Word) (s : State) (h_s : s.Ok) : ∀ x,
    (execEmulatedAccess write off v s) = .next x → x.Ok := by
  unfold execEmulatedAccess
  grind [State.Ok, foldl_ok, State.onLive_ok, emulatedAccess_ok]

theorem emulatedTimeout_ok (s : State) (h_s : s.Ok) : (emulatedTimeout s).Ok := by
  unfold emulatedTimeout
  repeat' split
  all_goals grind [State.Ok, State.mgtDone_ok, foldl_ok]

theorem emulatedTimeout_keeps {s0 : State} {ps : List Region} (s : State) (h_s : Keeps s0 s ps) (m_mgt : Region.mgt ∈
    ps) : Keeps s0 (emulatedTimeout s) ps := by
  unfold emulatedTimeout
  repeat' split
  all_goals grind [foldl_keeps', State.mgtDone_keeps]

theorem execEmulatedAccessTimeout_ok (s : State) (h_s : s.Ok) : ∀ x, (execEmulatedAccessTimeout s) = .next x → x.Ok :=
    by
  unfold execEmulatedAccessTimeout
  grind [State.Ok, foldl_ok, State.onLive_ok, emulatedTimeout_ok]

theorem execEmulatedAccessTimeout_keeps {s0 : State} {ps : List Region} (s : State) (h_s : Keeps s0 s ps) (m_mgt :
    Region.mgt ∈ ps) : ∀ x, (execEmulatedAccessTimeout s) = .next x → Keeps s0 x ps := by
  unfold execEmulatedAccessTimeout
  grind [foldl_keeps', State.onLive_keeps, emulatedTimeout_keeps]

end Sys2Proof.Machine
end

