-- ==== Sys2Proof/Laws/Supply.lean ====
section
/-! SUPPORT. Two lemmas for every operation of Machine/Supply.lean. `…_ok`: the register table and the stack's memory stay
canonical. `…_keeps`: what agrees with a state outside a list of regions that holds those the operation can change still
agrees afterwards. -/

namespace Sys2Proof.Machine

set_option Elab.async false

theorem State.isolate_ok (s : State) (d : Nat) (h_s : s.Ok) : (State.isolate s d).Ok := by
  unfold State.isolate
  grind [State.Ok, foldl_ok, State.modPwr_ok, State.setDom_ok]

theorem State.isolate_keeps {s0 : State} {ps : List Region} (s : State) (d : Nat) (h_s : Keeps s0 s ps) (m_pwr :
    Region.pwr ∈ ps) : Keeps s0 (State.isolate s d) ps := by
  unfold State.isolate
  grind [foldl_keeps', State.modPwr_keeps, State.setDom_keeps]

theorem State.isolatePorts_ok (s : State) (d : Nat) (h_s : s.Ok) : (State.isolatePorts s d).Ok := by
  unfold State.isolatePorts
  grind [State.Ok, foldl_ok, State.modPort_ok, State.isolate_ok]

theorem State.isolatePorts_keeps {s0 : State} {ps : List Region} (s : State) (d : Nat) (h_s : Keeps s0 s ps) (m_pwr :
    Region.pwr ∈ ps) (m_paths : Region.paths ∈ ps) : Keeps s0 (State.isolatePorts s d) ps := by
  unfold State.isolatePorts
  grind [foldl_keeps', State.modPort_keeps, State.isolate_keeps]

theorem State.isolateRemote_ok (s : State) (h_s : s.Ok) : (State.isolateRemote s).Ok := by
  unfold State.isolateRemote
  grind [State.Ok, foldl_ok, State.isolate_ok, State.resetRegs_ok, rmtLinkDown_ok]

theorem State.isolateRemote_keeps {s0 : State} {ps : List Region} (s : State) (h_s : Keeps s0 s ps) (m_mgt :
    Region.mgt ∈ ps) (m_pwr : Region.pwr ∈ ps) (m_rmt : Region.rmt ∈ ps) : Keeps s0 (State.isolateRemote s) ps := by
  unfold State.isolateRemote
  grind [foldl_keeps', State.isolate_keeps, State.resetRegs_keeps, rmtLinkDown_keeps, Keeps.set_rmt]

theorem State.isolateD2d_ok (s : State) (east : Bool) (h_s : s.Ok) : (State.isolateD2d s east).Ok := by
  unfold State.isolateD2d
  grind [State.Ok, foldl_ok, State.isolate_ok, State.linkDown_ok, State.modD2d_ok, State.resetRegs_ok]

theorem State.isolateD2d_keeps {s0 : State} {ps : List Region} (s : State) (east : Bool) (h_s : Keeps s0 s ps) (m_free
    : Region.free ∈ ps) (m_mgt : Region.mgt ∈ ps) (m_pwr : Region.pwr ∈ ps) (m_paths : Region.paths ∈ ps) (m_ring :
    Region.ring ∈ ps) (m_pkg : Region.pkg ∈ ps) (m_tags : Region.tags ∈ ps) (m_rmt : Region.rmt ∈ ps) (m_inj :
    Region.inj ∈ ps) : Keeps s0 (State.isolateD2d s east) ps := by
  unfold State.isolateD2d
  grind [foldl_keeps', State.isolate_keeps, State.linkDown_keeps, State.modD2d_keeps, State.resetRegs_keeps]

theorem State.haltCore_ok (s : State) (k : Fin 4) (h_s : s.Ok) : (State.haltCore s k).Ok := by
  unfold State.haltCore
  grind [State.Ok, foldl_ok, State.modFw_ok, State.setDom_ok, State.raise_ok, State.sf_ok]

theorem State.haltCore_keeps {s0 : State} {ps : List Region} (s : State) (k : Fin 4) (h_s : Keeps s0 s ps) (m_fw :
    Region.fw ∈ ps) : Keeps s0 (State.haltCore s k) ps := by
  unfold State.haltCore
  grind [foldl_keeps', State.modFw_keeps, State.setDom_keeps, State.raise_keeps, State.sf_keeps]

theorem State.supplyEffect_ok (s : State) (d : Nat) (h_s : s.Ok) : (State.supplyEffect s d).Ok := by
  unfold State.supplyEffect
  grind [State.Ok, foldl_ok, State.critical_ok, State.haltCore_ok, State.isolateD2d_ok, State.isolatePorts_ok,
    State.isolateRemote_ok, State.sliceFails_ok, bmeFail_ok, clockLoss_ok]

theorem State.supplyEffect_keeps {s0 : State} {ps : List Region} (s : State) (d : Nat) (h_s : Keeps s0 s ps) (m_free :
    Region.free ∈ ps) (m_mgt : Region.mgt ∈ ps) (m_pwr : Region.pwr ∈ ps) (m_paths : Region.paths ∈ ps) (m_pcs :
    Region.pcs ∈ ps) (m_stack : Region.stack ∈ ps) (m_inbox : Region.inbox ∈ ps) (m_ring : Region.ring ∈ ps) (m_pkg :
    Region.pkg ∈ ps) (m_fw : Region.fw ∈ ps) (m_sched : Region.sched ∈ ps) (m_seq : Region.seq ∈ ps) (m_tags :
    Region.tags ∈ ps) (m_rmt : Region.rmt ∈ ps) (m_therm : Region.therm ∈ ps) (m_inj : Region.inj ∈ ps) : Keeps s0
    (State.supplyEffect s d) ps := by
  unfold State.supplyEffect
  grind [foldl_keeps', State.critical_keeps, State.haltCore_keeps, State.isolateD2d_keeps, State.isolatePorts_keeps,
    State.isolateRemote_keeps, State.sliceFails_keeps, bmeFail_keeps, clockLoss_keeps]

theorem supplyFault_ok (d : Fin 127) (s : State) (h_s : s.Ok) : (supplyFault d s).Ok := by
  unfold supplyFault
  grind [State.Ok, foldl_ok, State.calm_ok, State.holdEval_ok, State.modPwr_ok, State.raise_ok, State.sf_ok,
    State.supplyEffect_ok]

theorem supplyFault_keeps {s0 : State} {ps : List Region} (d : Fin 127) (s : State) (h_s : Keeps s0 s ps) (m_free :
    Region.free ∈ ps) (m_mgt : Region.mgt ∈ ps) (m_pwr : Region.pwr ∈ ps) (m_paths : Region.paths ∈ ps) (m_pcs :
    Region.pcs ∈ ps) (m_stack : Region.stack ∈ ps) (m_inbox : Region.inbox ∈ ps) (m_ring : Region.ring ∈ ps) (m_pkg :
    Region.pkg ∈ ps) (m_fw : Region.fw ∈ ps) (m_sched : Region.sched ∈ ps) (m_seq : Region.seq ∈ ps) (m_tags :
    Region.tags ∈ ps) (m_rmt : Region.rmt ∈ ps) (m_therm : Region.therm ∈ ps) (m_inj : Region.inj ∈ ps) : Keeps s0
    (supplyFault d s) ps := by
  unfold supplyFault
  grind [foldl_keeps', State.calm_keeps, State.holdEval_keeps, State.modPwr_keeps, State.raise_keeps, State.sf_keeps,
    State.supplyEffect_keeps]

theorem execSupplyFault_ok (d : Fin 127) (s : State) (h_s : s.Ok) : ∀ x, (execSupplyFault d s) = .next x → x.Ok := by
  unfold execSupplyFault
  grind [State.Ok, foldl_ok, State.onLive_ok, supplyFault_ok]

theorem execSupplyFault_keeps {s0 : State} {ps : List Region} (d : Fin 127) (s : State) (h_s : Keeps s0 s ps) (m_free
    : Region.free ∈ ps) (m_mgt : Region.mgt ∈ ps) (m_pwr : Region.pwr ∈ ps) (m_paths : Region.paths ∈ ps) (m_pcs :
    Region.pcs ∈ ps) (m_stack : Region.stack ∈ ps) (m_inbox : Region.inbox ∈ ps) (m_ring : Region.ring ∈ ps) (m_pkg :
    Region.pkg ∈ ps) (m_fw : Region.fw ∈ ps) (m_sched : Region.sched ∈ ps) (m_seq : Region.seq ∈ ps) (m_tags :
    Region.tags ∈ ps) (m_rmt : Region.rmt ∈ ps) (m_therm : Region.therm ∈ ps) (m_inj : Region.inj ∈ ps) : ∀ x,
    (execSupplyFault d s) = .next x → Keeps s0 x ps := by
  unfold execSupplyFault
  grind [foldl_keeps', State.onLive_keeps, supplyFault_keeps]

theorem supplyBack_ok (d : Fin 127) (s : State) (h_s : s.Ok) : (supplyBack d s).Ok := by
  unfold supplyBack
  grind [State.Ok, foldl_ok, State.holdEval_ok, State.calm_ok, State.modPwr_ok]

theorem supplyBack_keeps {s0 : State} {ps : List Region} (d : Fin 127) (s : State) (h_s : Keeps s0 s ps) (m_pwr :
    Region.pwr ∈ ps) (m_fw : Region.fw ∈ ps) (m_therm : Region.therm ∈ ps) : Keeps s0 (supplyBack d s) ps := by
  unfold supplyBack
  grind [foldl_keeps', State.holdEval_keeps, State.calm_keeps, State.modPwr_keeps]

theorem execSupplyBackInRegulation_ok (d : Fin 127) (s : State) (h_s : s.Ok) : ∀ x, (execSupplyBackInRegulation d s) =
    .next x → x.Ok := by
  unfold execSupplyBackInRegulation
  grind [State.Ok, foldl_ok, State.onLive_ok, supplyBack_ok]

theorem execSupplyBackInRegulation_keeps {s0 : State} {ps : List Region} (d : Fin 127) (s : State) (h_s : Keeps s0 s
    ps) (m_pwr : Region.pwr ∈ ps) (m_fw : Region.fw ∈ ps) (m_therm : Region.therm ∈ ps) : ∀ x,
    (execSupplyBackInRegulation d s) = .next x → Keeps s0 x ps := by
  unfold execSupplyBackInRegulation
  grind [foldl_keeps', State.onLive_keeps, supplyBack_keeps]

theorem domainRepower_ok (d : Fin 124) (s : State) (h_s : s.Ok) : (domainRepower d s).Ok := by
  unfold domainRepower
  grind [State.Ok, foldl_ok, State.beginRepower_ok]

theorem domainRepower_keeps {s0 : State} {ps : List Region} (d : Fin 124) (s : State) (h_s : Keeps s0 s ps) (m_pwr :
    Region.pwr ∈ ps) (m_fw : Region.fw ∈ ps) : Keeps s0 (domainRepower d s) ps := by
  unfold domainRepower
  grind [foldl_keeps', State.beginRepower_keeps]

theorem execDomainRepower_ok (d : Fin 124) (s : State) (h_s : s.Ok) : ∀ x, (execDomainRepower d s) = .next x → x.Ok :=
    by
  unfold execDomainRepower
  grind [State.Ok, foldl_ok, State.onLive_ok, domainRepower_ok]

theorem execDomainRepower_keeps {s0 : State} {ps : List Region} (d : Fin 124) (s : State) (h_s : Keeps s0 s ps) (m_pwr
    : Region.pwr ∈ ps) (m_fw : Region.fw ∈ ps) : ∀ x, (execDomainRepower d s) = .next x → Keeps s0 x ps := by
  unfold execDomainRepower
  grind [foldl_keeps', State.onLive_keeps, domainRepower_keeps]

end Sys2Proof.Machine
end

