-- ==== Sys2Proof/Laws/Tick.lean ====
section
/-! SUPPORT. Two lemmas for every operation of Machine/Tick.lean. `…_ok`: the register table and the stack's memory stay
canonical. `…_keeps`: what agrees with a state outside a list of regions that holds those the operation can change still
agrees afterwards. -/

namespace Sys2Proof.Machine

set_option Elab.async false

theorem State.passTime_ok (s : State) (h_s : s.Ok) : (State.passTime s).Ok := by
  unfold State.passTime
  grind [State.Ok, foldl_ok]

theorem State.passTime_keeps {s0 : State} {ps : List Region} (s : State) (h_s : Keeps s0 s ps) (m_clk : Region.clk ∈
    ps) (m_pkg : Region.pkg ∈ ps) : Keeps s0 (State.passTime s) ps := by
  exact fun r hr => by cases r <;> first | exact absurd m_clk hr | exact absurd m_pkg hr | exact h_s _ hr

end Sys2Proof.Machine
end

