-- ==== Sys2Proof/Laws/Bits.lean ====
section
/-! SUPPORT. Setting and reading bit fields of registers and the states of power domains. -/

namespace Sys2Proof.Machine

set_option Elab.async false

theorem natBits_lt (x lo w : Nat) : natBits x lo w < 2 ^ w := Nat.mod_lt _ (Nat.two_pow_pos w)

/-- A number as the part above a field, the field and the part below it. -/
theorem natBits_split (x lo w : Nat) : x = x / 2 ^ (lo + w) * 2 ^ (lo + w) + natBits x lo w * 2 ^ lo + x % 2 ^ lo := by
  have h1 := Nat.div_add_mod x (2 ^ lo)
  have h2 := Nat.div_add_mod (x / 2 ^ lo) (2 ^ w)
  rw [Nat.div_div_eq_div_mul, ← Nat.pow_add] at h2
  unfold natBits
  rw [Nat.pow_add] at h2 ⊢
  generalize x / (2 ^ lo * 2 ^ w) = q at *
  generalize x / 2 ^ lo % 2 ^ w = m at *
  generalize x % 2 ^ lo = r at *
  rw [← h1, ← h2]
  ring_nf

theorem natSetBits_split (x lo w v : Nat) :
    natSetBits x lo w v = x / 2 ^ (lo + w) * 2 ^ (lo + w) + v % 2 ^ w * 2 ^ lo + x % 2 ^ lo := by
  have h := natBits_split x lo w
  unfold natSetBits
  omega

/-- A field set reads back the low bits of the value. -/
theorem natBits_set_same (x lo w v : Nat) : natBits (natSetBits x lo w v) lo w = v % 2 ^ w := by
  rw [natSetBits_split, natBits, Nat.pow_add]
  have hl : x % 2 ^ lo < 2 ^ lo := Nat.mod_lt _ (Nat.two_pow_pos lo)
  have : x / (2 ^ lo * 2 ^ w) * (2 ^ lo * 2 ^ w) + v % 2 ^ w * 2 ^ lo + x % 2 ^ lo =
      x % 2 ^ lo + 2 ^ lo * (v % 2 ^ w + 2 ^ w * (x / (2 ^ lo * 2 ^ w))) := by ring
  rw [this, Nat.add_mul_div_left _ _ (Nat.two_pow_pos lo), Nat.div_eq_of_lt hl, Nat.zero_add, Nat.add_mul_mod_self_left,
    Nat.mod_mod]

/-- A field above the one that is set keeps its value. -/
theorem natBits_set_above (x lo w v lo' w' : Nat) (h : lo + w ≤ lo') :
    natBits (natSetBits x lo w v) lo' w' = natBits x lo' w' := by
  have key (y : Nat) (hy : y < 2 ^ (lo + w)) :
      (x / 2 ^ (lo + w) * 2 ^ (lo + w) + y) / 2 ^ lo' = x / 2 ^ lo' := by
    obtain ⟨d, rfl⟩ := Nat.exists_eq_add_of_le h
    rw [Nat.pow_add 2 (lo + w) d, ← Nat.div_div_eq_div_mul, ← Nat.div_div_eq_div_mul x, Nat.add_comm,
      Nat.add_mul_div_right _ _ (Nat.two_pow_pos (lo + w)), Nat.div_eq_of_lt hy, Nat.zero_add]
  have hl : x % 2 ^ lo < 2 ^ lo := Nat.mod_lt _ (Nat.two_pow_pos lo)
  have hv : v % 2 ^ w < 2 ^ w := Nat.mod_lt _ (Nat.two_pow_pos w)
  have hs : v % 2 ^ w * 2 ^ lo + x % 2 ^ lo < 2 ^ (lo + w) := by
    rw [Nat.pow_add]
    nlinarith [Nat.two_pow_pos lo, Nat.two_pow_pos w]
  rw [natSetBits_split, natBits, natBits, Nat.add_assoc, key _ hs]

/-- A field below the one that is set keeps its value. -/
theorem natBits_set_below (x lo w v lo' w' : Nat) (h : lo' + w' ≤ lo) :
    natBits (natSetBits x lo w v) lo' w' = natBits x lo' w' := by
  obtain ⟨d, rfl⟩ := Nat.exists_eq_add_of_le h
  have e : natSetBits x (lo' + w' + d) w v % 2 ^ (lo' + w') = x % 2 ^ (lo' + w') := by
    rw [natSetBits_split]
    have : x / 2 ^ (lo' + w' + d + w) * 2 ^ (lo' + w' + d + w) + v % 2 ^ w * 2 ^ (lo' + w' + d) + x % 2 ^ (lo' + w' + d)
        = x % 2 ^ (lo' + w' + d) + 2 ^ (lo' + w') *
          (2 ^ d * (v % 2 ^ w + 2 ^ w * (x / 2 ^ (lo' + w' + d + w)))) := by
      simp only [Nat.pow_add]; ring
    rw [this, Nat.add_mul_mod_self_left]
    exact Nat.mod_mod_of_dvd _ (Nat.pow_dvd_pow 2 (Nat.le_add_right _ _))
  have f (y : Nat) : natBits y lo' w' = natBits (y % 2 ^ (lo' + w')) lo' w' := by
    unfold natBits
    rw [Nat.pow_add, ← Nat.mod_mul_right_div_self, ← Nat.mod_mul_right_div_self, Nat.mod_mod]
  rw [f, e, ← f]

theorem natSetBits_lt (x lo w v n : Nat) (hx : x < 2 ^ n) (h : lo + w ≤ n) : natSetBits x lo w v < 2 ^ n := by
  obtain ⟨d, rfl⟩ := Nat.exists_eq_add_of_le h
  rw [natSetBits_split]
  have h1 : x / 2 ^ (lo + w) < 2 ^ d := by
    rw [Nat.div_lt_iff_lt_mul (Nat.two_pow_pos _), ← Nat.pow_add, Nat.add_comm]; exact hx
  have hl : x % 2 ^ lo < 2 ^ lo := Nat.mod_lt _ (Nat.two_pow_pos lo)
  have hv : v % 2 ^ w < 2 ^ w := Nat.mod_lt _ (Nat.two_pow_pos w)
  have hs : v % 2 ^ w * 2 ^ lo + x % 2 ^ lo < 2 ^ (lo + w) := by
    rw [Nat.pow_add]
    nlinarith [Nat.two_pow_pos lo, Nat.two_pow_pos w]
  rw [Nat.pow_add (2) (lo + w) d]
  nlinarith [Nat.two_pow_pos (lo + w)]

/-- The field just set reads the value's low bits. -/
theorem State.gf_sf_same (s : State) (o : Nat) (f : Fld) (v : Nat) (h : f.lo + f.width ≤ 32) :
    (s.sf o f v).gf o f = v % 2 ^ f.width := by
  have hb := natSetBits_lt (s.rd o).toNat f.lo f.width v 32 (s.rd o).isLt h
  simp only [State.gf, State.sf, State.rd_wr, if_true, BitVec.toNat_ofNat, Nat.mod_eq_of_lt hb]
  exact natBits_set_same ..

/-- A field of the same register that lies apart from the one set reads as before. -/
theorem State.gf_sf_apart (s : State) (o : Nat) (f g : Fld) (v : Nat) (h : f.lo + f.width ≤ 32)
    (hd : g.lo + g.width ≤ f.lo ∨ f.lo + f.width ≤ g.lo) : (s.sf o f v).gf o g = s.gf o g := by
  have hb := natSetBits_lt (s.rd o).toNat f.lo f.width v 32 (s.rd o).isLt h
  simp only [State.gf, State.sf, State.rd_wr, if_true, BitVec.toNat_ofNat, Nat.mod_eq_of_lt hb]
  rcases hd with hd | hd
  · exact natBits_set_below _ _ _ _ _ _ hd
  · exact natBits_set_above _ _ _ _ _ _ hd

/-- A field of another register reads as before. -/
theorem State.gf_sf_other (s : State) (o a : Nat) (f g : Fld) (v : Nat) (h : a ≠ o) :
    (s.sf o f v).gf a g = s.gf a g := by
  simp [State.gf, State.rd_sf_ne s o f v h]

theorem State.bit_raise (s : State) (o : Nat) (f : Fld) (h : f.lo + f.width ≤ 32) (hw : f.width = 1) :
    (s.raise o f).bit o f = true := by
  simp [State.bit, State.raise, State.gf_sf_same s o f 1 h, hw]

theorem DomState.ofCode_code (v : DomState) : DomState.ofCode v.code = v := by cases v <;> rfl

theorem DomState.code_lt (v : DomState) : v.code < 4 := by cases v <;> decide

/-- A power domain takes the state it is given. -/
theorem State.dom_setDom_same (s : State) (d : Nat) (v : DomState) : (s.setDom d v).dom d = v := by
  have h := State.gf_sf_same s (Reg.THERM_DOM_STATE (d / 16)) ⟨2 * (d % 16), 2⟩ v.code (by simp; omega)
  have e : (s.setDom d v).dom d =
      DomState.ofCode ((s.sf (Reg.THERM_DOM_STATE (d / 16)) ⟨2 * (d % 16), 2⟩ v.code).gf
        (Reg.THERM_DOM_STATE (d / 16)) ⟨2 * (d % 16), 2⟩) := rfl
  rw [e, h]
  have := v.code_lt
  rw [Nat.mod_eq_of_lt (by simpa using this), DomState.ofCode_code]

/-- Every other power domain keeps its state. -/
theorem State.dom_setDom_other (s : State) (d e : Nat) (v : DomState) (h : e ≠ d) : (s.setDom d v).dom e = s.dom e := by
  have k (t : State) (x : Nat) : t.dom x =
      DomState.ofCode (t.gf (Reg.THERM_DOM_STATE (x / 16)) ⟨2 * (x % 16), 2⟩) := rfl
  have e' : s.setDom d v = s.sf (Reg.THERM_DOM_STATE (d / 16)) ⟨2 * (d % 16), 2⟩ v.code := rfl
  rw [k, k, e']
  by_cases hq : e / 16 = d / 16
  · rw [hq, State.gf_sf_apart _ _ _ _ _ (by simp; omega) (by simp; omega)]
  · rw [State.gf_sf_other _ _ _ _ _ _ (by simp [Reg.THERM_DOM_STATE]; omega)]
end Sys2Proof.Machine
end

