-- ==== Sys2Proof/Laws/Units.lean ====
section
/-! SUPPORT. Islands and power domains: what setting domains and releasing an island leaves. -/

namespace Sys2Proof.Machine

set_option Elab.async false

/-- Putting domains into a state puts exactly those domains into it. -/
theorem State.dom_setDoms (ds : List Nat) (v : DomState) (s : State) (d : Nat) : (s.setDoms ds v).dom d = if d ∈ ds then v else s.dom d := by
  unfold State.setDoms
  induction ds generalizing s with
  | nil => simp
  | cons e ds ih =>
    simp only [List.foldl_cons, ih, List.mem_cons]
    by_cases h : d ∈ ds
    · simp [h]
    · by_cases h' : d = e
      · subst h'; simp [h, State.dom_setDom_same]
      · simp [h, h', State.dom_setDom_other]
theorem State.rd_setDoms (ds : List Nat) (v : DomState) (s : State) (o : Nat) (h : ∀ d ∈ ds, o ≠ Reg.THERM_DOM_STATE (d / 16)) : (s.setDoms ds v).rd o = s.rd o := by
  unfold State.setDoms
  induction ds generalizing s with
  | nil => simp
  | cons e ds ih =>
    simp only [List.foldl_cons]
    rw [ih]
    · exact State.rd_wr_ne _ _ _ (h e (by simp))
    · exact fun d hd => h d (by simp [hd])
theorem State.setDoms_same (ds : List Nat) (v : DomState) (s : State) : Keeps s (s.setDoms ds v) [] := by
  unfold State.setDoms
  induction ds generalizing s with
  | nil => intro p _; cases p <;> rfl
  | cons e ds ih => intro p hp; have := ih (s.setDom e v) p hp; cases p <;> simp_all [State.same]
theorem State.dom_congr {s t : State} (h : t.regs = s.regs) (d) : t.dom d = s.dom d := by simp [State.dom, State.rd, h]
theorem State.rd_congr {s t : State} (h : t.regs = s.regs) (d) : t.rd d = s.rd d := by simp [State.rd, h]
theorem up_set (v : Vector Bool 133) (i j : Island) (b : Bool) : (v.set (Fin.ofNat 133 i.index) b).toList.getD j.index false = if i.index = j.index then b else v.toList.getD j.index false := by
  have hi : i.index < 133 := by cases i <;> simp [Island.index] <;> (try omega) ; rename_i e; cases e <;> simp [Island.index]
  simp [Fin.ofNat, Nat.mod_eq_of_lt hi]
  rcases v with ⟨⟨l⟩, hl⟩
  simp at hl
  simp [List.getElem?_set]
  by_cases h : i.index = j.index
  · have : j.index < l.length := by omega
    simp [h, this]
  · simp [h]
theorem Island.index_inj {i j : Island} (h : i.index = j.index) : i = j := by
  have e0 : Island.index (.d2d false) = 130 := rfl
  have e1 : Island.index (.d2d true) = 131 := rfl
  rcases i with i | i | i | i | _ | _ | (_ | _) | _ <;> rcases j with j | j | j | j | _ | _ | (_ | _) | _ <;>
    simp only [Island.index] at h <;> first | rfl | (exfalso; omega) | (congr 1; exact Fin.ext (by omega))

theorem Island.index_lt (i : Island) : i.index < 133 := by
  have e0 : Island.index (.d2d false) = 130 := rfl
  have e1 : Island.index (.d2d true) = 131 := rfl
  rcases i with i | i | i | i | _ | _ | (_ | _) | _ <;> simp only [Island.index] <;> omega

theorem State.pwr_release (s : State) (i : Island) :
    (s.release i).pwr = { s.pwr with up := s.pwr.up.set (Fin.ofNat 133 i.index) true } := by
  cases i <;> simp [State.release]

/-- Releasing an island takes it, and no other, out of reset. -/
theorem State.up_release (s : State) (i j : Island) : (s.release i).up j = (decide (j = i) || s.up j) := by
  unfold State.up
  rw [State.pwr_release, up_set]
  by_cases h : j = i
  · subst h; simp
  · have : ¬ i.index = j.index := fun e => h (Island.index_inj e.symm)
    simp [h, this]

@[simp] theorem State.rd_release (s : State) (i : Island) (o : Nat) : (s.release i).rd o = s.rd o := by
  cases i <;> simp [State.release] <;> rfl

@[simp] theorem State.dom_release (s : State) (i : Island) (d : Nat) : (s.release i).dom d = s.dom d := by
  simp [State.dom]

end Sys2Proof.Machine
end

