-- ==== Sys2Proof/WellFormed.lean ====
section
/-! DEFINITION. When a command is well formed: operands that no sender of the command could give are refused. -/

namespace Sys2Proof

open Machine

/-- A physical row of a bank is one of 24,576 (R92, R161). -/
def rowOk (r : BitVec 15) : Bool := decide (r.toNat < 24576)

/-- Where a register offset stands in the register map: its row, if it is listed and aligned, and whether it is a high
word (R57, R522, R524). -/
def offsetRow (off : Nat) : Option (RegRow × Bool) :=
  if off % 4 = 0 then (regLookup off).map fun x => (x.1, x.2.2.2) else none

/-- An offset of a 32-bit hardware register, or one that nothing is mapped at. -/
def plainOffset (off : Nat) : Bool :=
  match offsetRow off with
  | some (r, _) => !r.emu && !r.wide
  | none => true

/-- The low word, or the high word, of a 64-bit register. -/
def wideOffset (off : Nat) (high : Bool) : Bool :=
  match offsetRow off with
  | some (r, h) => r.wide && (h == high)
  | none => false

/-- An emulated register. -/
def emulatedOffset (off : Nat) : Bool :=
  match offsetRow off with
  | some (r, _) => r.emu
  | none => false

/-- Bits that a burst's transfer may change: at most 72 bytes (R433). -/
def burstError (b : List Byte) : Bool := decide (b.length ≤ 72)

/-- A training run gives the five kinds' usual edges and all four timing registers or none (R104, R410). -/
def TrainRun.ok (r : TrainRun) : Bool := decide (r.usual.length = 5) && (decide (r.timing.length = 4) || r.timing.isEmpty)

/-- Traffic of the ring: a channel and instances that exist (R6, R374, R375). -/
def Flit.ok (f : Flit) : Bool := decide (f.vc < 3) && decide (f.src < 16) && decide (f.dst < 16)

/-- The check of a command's operands. -/
def WellFormed : Instr → Bool
  | .registerWrite off _ _ => plainOffset off.toNat
  | .lowWordWrite off _ => wideOffset off.toNat false
  | .highWordWrite off _ => wideOffset off.toNat true
  | .emulatedAccess _ off _ => emulatedOffset off.toNat
  | .hostWriteDataBeat _ data strb _ => decide (data.length = 128) && decide (strb.length = 128)
  | .readDataReturn _ err => burstError err
  | .mergeReadReturn _ err => burstError err
  | .debugMemoryAccess _ _ _ row _ write data => rowOk row && (!write || decide (data.length = 64))
  | .runSubmit _ _ write _ _ _ row col len data =>
    rowOk row && decide (1 ≤ len.toNat ∧ len.toNat + col.toNat ≤ 16) &&
      (!write || (decide (data.length = len.toNat) && data.all fun b => decide (b.length = 64)))
  | .rowHealthFwWrite _ _ _ _ _ _ _ row _ => rowOk row
  | .rowClassify _ _ _ _ row _ => rowOk row
  | .retentionHoldExpiry _ failed => failed.all fun e => rowOk e.2.2
  | .exitScrubComplete _ errs fails => (errs.all fun e => burstError e.2) && fails.all fun f => rowOk f.row
  | .trainStack _ _ _ _ attempts => attempts.all TrainRun.ok
  | .trainingWaitTemperature attempts => attempts.all TrainRun.ok
  | .cmdMemtest fails => fails.all fun f => rowOk f.row
  | .ledgerReplay _ _ _ fails => fails.all fun f => rowOk f.row
  | .d2dFlitReceive _ f => Flit.ok f
  | .monitorRead f => decide (f.length = 48)
  | _ => true

end Sys2Proof
end

