-- ==== Sys2Proof/Tests/Slice0.lean ====
section
/-! SUPPORT. Tests: ill-formed commands that WellFormed refuses, a few results that the spec gives, and for each clause of
the statements a concrete state and operands that meet its hypotheses. -/

namespace Sys2Proof.Tests

set_option Elab.async false
set_option linter.unusedVariables false

open Sys2Proof Sys2Proof.Machine

/-! ### Each check of WellFormed refuses an ill-formed command (operand ranges of R50, R53, R57, R92, R375, R433, R524) -/

theorem test_wf_registerWrite : WellFormed (.registerWrite 0x58 0 0) = false := by decide +kernel
theorem test_wf_lowWordWrite : WellFormed (.lowWordWrite 0x5C 0) = false := by decide +kernel
theorem test_wf_highWordWrite : WellFormed (.highWordWrite 0x58 0) = false := by decide +kernel
theorem test_wf_emulatedAccess : WellFormed (.emulatedAccess true 0x50 0) = false := by decide +kernel
theorem test_wf_hostWriteDataBeat : WellFormed (.hostWriteDataBeat 0 [0] [true] true) = false := by decide +kernel
theorem test_wf_hostWriteDataBeat_strobes :
    WellFormed (.hostWriteDataBeat 0 (List.replicate 128 0) [true] true) = false := by decide +kernel
theorem test_wf_readDataReturn : WellFormed (.readDataReturn 0 (List.replicate 73 0)) = false := by decide +kernel
theorem test_wf_mergeReadReturn : WellFormed (.mergeReadReturn 0 (List.replicate 73 0)) = false := by decide +kernel
theorem test_wf_debugMemoryAccess : WellFormed (.debugMemoryAccess 0 0 0 24576 0 false []) = false := by decide +kernel
theorem test_wf_debugMemoryAccess_data : WellFormed (.debugMemoryAccess 0 0 0 0 0 true []) = false := by decide +kernel
theorem test_wf_runSubmit_row : WellFormed (.runSubmit 0 none false 0 0 0 24576 0 1 []) = false := by decide +kernel
theorem test_wf_runSubmit_len : WellFormed (.runSubmit 0 none false 0 0 0 0 15 2 []) = false := by decide +kernel
theorem test_wf_runSubmit_data : WellFormed (.runSubmit 0 none true 0 0 0 0 0 1 []) = false := by decide +kernel
theorem test_wf_rowHealthFwWrite : WellFormed (.rowHealthFwWrite 0 0 true 0 0 0 0 24576 false) = false := by decide +kernel
theorem test_wf_rowClassify : WellFormed (.rowClassify 0 0 0 0 24576 none) = false := by decide +kernel
theorem test_wf_retentionHoldExpiry : WellFormed (.retentionHoldExpiry 0 [(0, 0, 24576)]) = false := by decide +kernel
theorem test_wf_exitScrubComplete_fails :
    WellFormed (.exitScrubComplete 0 [] [{ rank := 0, bg := 0, bank := 0, row := 24576, hold := 0 }]) = false := by
  decide +kernel
theorem test_wf_exitScrubComplete : WellFormed (.exitScrubComplete 0 [(0, List.replicate 73 0)] []) = false := by
  decide +kernel
theorem test_wf_trainStack :
    WellFormed (.trainStack 16 0 true none
      [{ usual := [], lanes := [], strobe := 0, confirm := [], timing := [], interval := none }]) = false := by decide +kernel
theorem test_wf_trainingWaitTemperature :
    WellFormed (.trainingWaitTemperature
      [{ usual := [], lanes := [], strobe := 0, confirm := [], timing := [], interval := none }]) = false := by decide +kernel
theorem test_wf_cmdMemtest :
    WellFormed (.cmdMemtest [{ rank := 0, bg := 0, bank := 0, row := 24576, hold := 0 }]) = false := by decide +kernel
theorem test_wf_ledgerReplay :
    WellFormed (.ledgerReplay 0 none none [{ rank := 0, bg := 0, bank := 0, row := 24576, hold := 0 }]) = false := by
  decide +kernel
theorem test_wf_d2dFlitReceive :
    WellFormed (.d2dFlitReceive true { vc := 3, src := 0, dst := 0, body := .ctl .locked, since := 0 }) = false := by
  decide +kernel
theorem test_wf_monitorRead : WellFormed (.monitorRead []) = false := by decide +kernel

/-- A command with every operand in range is well formed. -/
theorem test_wf_accepts : WellFormed (.registerWrite 0x50 0x40A 0) = true := by decide +kernel

/-! ### No row of the opcode table has word bits -/

theorem test_decode_none : decodeTableWord 32 0x12345678 = none := by decide

/-- What a check of each element finds holds of every element. -/
theorem all_of_check {α : Type} {l : List α} {p : α → Prop} [DecidablePred p] (h : (l.all fun x => decide (p x)) = true) :
    ∀ x ∈ l, p x := by simpa using h

/-! ### States for the witnesses -/

/-- A block in service: every island out of reset with its domain ON, firmware running, the stack held and defined. -/
def bench : State :=
  [(Reg.ID_CONFIG, 0x80000410), (Reg.PC_RANGE 0, 0x800000FC), (Reg.PC_HELD_MASK, 0xFFFFFFFF),
    (Reg.PC_HELD_MASK + 4, 0xFFFFFFFF), (Reg.D2D_RING_STATUS, 0x01000000), (Reg.THERM_DOM_STATE 0, 0xAAAAAAAA),
    (Reg.THERM_DOM_STATE 1, 0xAAAAAAAA), (Reg.THERM_DOM_STATE 2, 0xAAAAAAAA), (Reg.THERM_DOM_STATE 3, 0xAAAAAAAA),
    (Reg.THERM_DOM_STATE 4, 0xAAAAAAAA), (Reg.THERM_DOM_STATE 5, 0xAAAAAAAA), (Reg.THERM_DOM_STATE 6, 0xAAAAAAAA),
    (Reg.THERM_DOM_STATE 7, 0x00AAAAAA), (Reg.FW_PKG_PRESENT, 1), (Reg.FW_BOOT_STATUS, 0x80000000),
    (Reg.FW_STATUS, 0x40000000)].foldl (fun (t : State) (e : Nat × Word) => t.wr e.1 e.2)
    { State.reset with
      pins := { State.reset.pins with porstN := true }
      pwr := { State.reset.pwr with up := Vector.replicate 133 true, seqDone := true, nextStage := 11 }
      fw := { State.reset.fw with cores := Vector.replicate 4 { FwCore.init with run := true } }
      pcs := State.reset.pcs.map fun (c : Pc) => { c with due := 10 }
      stack := { State.reset.stack with undef := [], refreshed := true } }

/-- A block whose sensor and management domain is ramping up. -/
def ramping : State :=
  (State.reset.modPins fun p => { p with porstN := true }).modPwr fun w => { w with sensorRamp := true }

/-- A block in the middle of the handshake of a power stage. -/
def staging (n t0 : Nat) (acked : Bool) : State :=
  (bench.modPins fun p => { p with stgReq := !acked, stgNum := n, stgAck := acked }).modPwr fun w =>
    { w with stageReqAt := some t0, acked := acked, repower := if n = 15 then some 120 else none }

/-- The bench with remote inputs 0 and 1 used and the stack's temperature in reach. -/
def snsBench : State :=
  { bench.modPins (fun p => { p with memResetN := true }) with straps := { bench.straps with snsUse := 3 } }

/-- The bench with a fresh reading of 120 °C in the zone of the local sensors. -/
def zoneBench : State :=
  match execLocalSensorRead 0 480 bench with
  | .next t => t
  | _ => bench
/-- A row of PC 0 in layer group 1. -/
def badLoc : Loc := { rank := 64, bg := 2, bank := 3, row := 100, col := 0 }

/-- The bench with that row entered as BAD in entry 0 of the row health table. -/
def badRow : State := bench.modPc 0 fun c => c.setRow 0 (newRow badLoc true 0)

/-- The local time of PC 0 moved to a targeted tick. -/
def atTick (s : State) : State :=
  { s with clk := { s.clk with locals := s.clk.locals.set 0 (s.intervalOf 0 / 4) } }

/-- A truing window that has opened. -/
def openWindow : Truing :=
  { at_ := 0, expedited := false, opened := true, posted := false, done := false, timedOut := false, no := 0,
    place := none, timing := (0, 0), probes := none, saved := [] }

/-- A check-code event of that row. -/
def badEvent (ue : Bool) : RowEvent := { loc := badLoc, uncorrectable := ue, time := 9 }

/-- A retention test of rank 64 whose hold is over. -/
def heldTest : RetTest := { rank := 64, hold := 0, temp := 300, startAt := 0, holding := true, failed := [] }

/-- Accesses of the debug port to the first burst of the stack. -/
def benchRead : Access :=
  { id := 9, cls := 1, loc := { rank := 0, bg := 0, bank := 0, row := 0, col := 0 }, addr := none, write := false,
    data := [], mask := [], poison := false, owner := .debug }
def benchWrite : Access := { benchRead with write := true, data := zeros 64, mask := List.replicate 64 true }

/-- Entries whose command issued at cycle 5: a read of zeros, a poisoned read, a merge read, a write. -/
def cleanEntry : RqEntry := RqEntry.mk benchRead 4 0 5 (some 5) 8 none (codedBurst (zeros 64) false)
def poisonEntry : RqEntry := RqEntry.mk benchRead 4 0 5 (some 5) 8 none (codedBurst (zeros 64) true)
def mergeEntry : RqEntry :=
  RqEntry.mk { benchRead with owner := .mergeRead 9 } 4 0 5 (some 5) 8 none (codedBurst (zeros 64) false)
def poolRead : PoolEntry := PoolEntry.mk benchRead 4 0 none
def poolWrite : PoolEntry := PoolEntry.mk benchWrite 4 0 none
def partWrite : WqEntry := WqEntry.mk { benchWrite with mask := List.replicate 8 true } 4 none 0 true [(.debug, 1)] false
def drivenEntry : WqEntry := WqEntry.mk benchWrite 4 (some 5) 8 false [(.debug, 1)] false

/-- PC 0 with a merge read whose data is due. -/
def mergeBench : State := bench.modPc 0 fun c => { c with cycle := 100, rq := [mergeEntry], wq := [partWrite] }

/-- A narrow read of one address, and an entry of half-pannier 3. -/
def benchNarrow : Narrow :=
  { req := quietRead 1 0 (.host 0) .stream 4 0 64, slice := 0, burst := 5, offset := 0 }
def panEntry (placed : Bool) : PanEntry :=
  { id := 2, loc := { rank := 3, bg := 0, bank := 0, row := 0, col := 5 }, openAt := 0, closed := true, placed := placed,
    reqs := [benchNarrow], bursts := [5], left := [] }
def panBench (placed : Bool) : State := bench.modPc 3 fun c => { c with pan := [panEntry placed] }

/-- A suspended run of the copier. -/
def benchRun : Run :=
  { write := false, loc := { rank := 3, bg := 0, bank := 0, row := 0, col := 0 }, len := 16, suspended := true, done := 0,
    submitted := 16, progress := 4, startAt := 0 }

/-- Transactions of port 3: a write of one line whose data is still to come, and a read with its response ready. -/
def benchTxn (beats : Nat) : HostTxn :=
  { id := 1, port := 3, tag := 5, op := .write, addr := 128, size := 128, hint := .normal, discard := false,
    urgent := false, attr := 0, beatsLeft := beats, discardBeats := false, strobeOut := false, data := [], strb := [],
    sent := false, partsLeft := 0, status := .ok, hasData := false, rsp := [], ready := false, beatsOut := 0 }
def readyTxn : HostTxn :=
  { benchTxn 0 with op := .read, sent := true, ready := true, hasData := true, rsp := List.replicate 128 3 }

/-- The bench with its host ports ready, and with a full read queue at port 3. -/
def portBench : State := bench.modPort 3 fun h => { h with reqReady := true }
def fullPort : State := portBench.modPort 3 fun h => { h with txns := List.replicate 64 readyTxn }

/-- A request of port 3 to line 0. -/
def hostReq (op : HostOp) (size attr : Nat) (data : List Byte) (strb : List Bool) : Req :=
  { id := 1, part := 0, src := .host 3, op := op, addr := 0, size := size, hint := .normal, discard := false,
    urgent := false, attr := attr, cls := 1, data := data, strb := strb, prefetch := false, count := natBits attr 8 8, deckle := 0 }

/-- Line 0 in way 0 of slice 0 with both sectors there. -/
def benchLine (dirty : Bool) : Line :=
  { Line.init with
    used := true
    lo := { valid := true, dirty := dirty, poison := false, data := List.replicate 64 1 }
    hi := { valid := true, dirty := dirty, poison := false, data := List.replicate 64 2 } }
def lineBench (dirty : Bool) (input : List Req) (misses : List Miss) : State :=
  (bench.modSlice 0 fun x => { x with input := input, misses := misses, ways := [(0, benchLine dirty)] }).modPort 3
    fun h => { h with txns := [{ benchTxn 0 with sent := true, partsLeft := 1 }] }
def cacheBench (r : Req) : State := lineBench false [r] []
def dirtyBench (r : Req) : State := lineBench true [r] []
def benchRed : RedEntry :=
  { line := 0, func := 0, format := 0, count := 3, expected := 4, m := 0, d := 0, complete := false }
def redBench (r : Req) : State := (cacheBench r).modSlice 0 fun x => { x with reds := [benchRed] }
def waitBench : State := lineBench false [] [Miss.mk' 0 .waiting none [] false [hostReq .read 64 0 [] []]]
def fillMiss : Miss := Miss.mk' 0 .fill (some (hostReq .read 64 0 [] [])) [0] true []
def fillData : Ret64 :=
  { owner := .fill 0 0 0, loc := { rank := 0, bg := 0, bank := 0, row := 0, col := 0 }, data := List.replicate 64 9,
    bad := false }
def fillBench : State := (lineBench false [] [fillMiss]).modPaths fun x => { x with rets := [fillData] }
/-- A packet of queue 3 with an opcode, a length and a stage; the bench with some packets, and with queue 3 running. -/
def benchPk (op len : Nat) (st : PkStage) : Packet :=
  { Packet.new 3 0 ([BitVec.ofNat 8 op, 0] ++ leBytes 2 len ++ leBytes 4 7 ++ zeros 120) with stage := st }
def pkBench (l : List Packet) : State := bench.modSched fun c => { c with packets := l }
def queueBench : State := (bench.wr (Reg.FW_QSTATUS 3) 0).qSet 3 1 0 |>.wr (Reg.FW_QCFG 3) 0x80040000
/-- A COLLECTIVE of one line at address 0. -/
def benchColl (phase : CollPhase) (timeout : Nat) : Coll :=
  { (benchPk 7 5 .running).coll with phase := phase, lines := 1, expected := 1, timeoutUs := timeout }
/-- A CLEAN_RANGE of the first 128 bytes, without DROP. -/
def benchClean : CleanOp := { pk := (3, 0), addr := 0, bytes := 128, drop := false, discard := false, count := 0 }
def cleanBench : State := (dirtyBench (hostReq .read 64 0 [] [])).modSlice 0 (fun x =>
  { x with input := [], sweep := some (0, 0, 128, false, false) }) |>.modSched fun c => { c with clean := some benchClean }
/-- The bench with 128 bytes at line 0 of the cache, and the packets and operations given. -/
def engBench (data : List Byte) (packets : List Packet) (ops : List EngOp) : State :=
  (((bench.modSlice 0 fun x =>
    { x with ways := [(0, { benchLine false with lo := { (benchLine false).lo with data := data.take 64 },
                                                 hi := { (benchLine false).hi with data := data.drop 64 } })] }).wr
      Reg.BME_TDT_SIZE 1).modSched fun c => { c with packets := packets }).modSeq fun q => { q with ops := ops }
/-- A descriptor of one row of 16 binary32 elements at address 4096, then offsets 0 and 1, then index 0. -/
def tableLine : List Byte :=
  leBytes 8 4096 ++ leBytes 4 1 ++ leBytes 4 0 ++ leBytes 4 64 ++ leBytes 2 16 ++ [1, 1] ++ zeros 8 ++ leBytes 4 0 ++
    leBytes 4 1 ++ leBytes 4 0 ++ zeros 84
/-- A running packet with the bytes given in place of those from `i` on. -/
def benchOp (op i : Nat) (b : List Byte) : Packet :=
  { benchPk op 12 .running with bytes := patch (benchPk op 12 .running).bytes i b }
/-- A signature of one bag over that table. -/
def sigPacket : Packet :=
  benchOp 2 12 (leBytes 2 0 ++ [1, 0] ++ leBytes 3 1 ++ [0] ++ leBytes 4 64 ++ leBytes 8 32 ++ leBytes 8 40 ++ zeros 8 ++
    leBytes 8 8192)
def sigDesc : Desc :=
  { base := 4096, rows := 1, first := 0, stride := 64, dim := 16, format := .binary32, direct := false, remoteOk := false }
def sigOp : SigOp := sigPacket.sigParams.op (3, 0) sigDesc [0, 1] [0]
/-- Its bag: one part of one block, read as number 9, and the sum of that block. -/
def sigPart (i : Option Nat) : Part := { role := 0, row := 4096, weight := 0, blocks := [0], issued := i, asked := i.elim 0 fun _ => 1, got := [] }
def sigBag (left : List Part) (stage : Nat) : Bag :=
  { no := 0, terms := 1, left := left, sums := [], marks := [], mark := none, stage := stage }
def sigBench (o : SigOp) : State := engBench tableLine [{ sigPacket with loaded := true }] [.sig o]
/-- An element-wise operation on 32 binary32 elements from address 0, with its result at 64. -/
def ewOp (op : Nat) : EwOp :=
  { (benchOp 3 12 [BitVec.ofNat 8 op]).ewNew with count := 32, yAddr := 64, total := 2, alpha := 0x3F800000, beta := 0x3F800000 }
def ewBench (op : Nat) : State := engBench (zeros 128) [{ benchOp 3 12 [BitVec.ofNat 8 op] with loaded := true }] [.ew (ewOp op)]
/-- A projection of one row and one column with K = 64 in e4m3, its output at 8192. -/
def pressPacket' (op : Nat) : Packet :=
  benchOp op 12 ([4, 4, 1, 0] ++ leBytes 4 1 ++ leBytes 4 1 ++ leBytes 4 64 ++ [1, 0, 0, 0] ++ leBytes 8 0 ++ leBytes 4 64 ++
    leBytes 4 64 ++ leBytes 8 64 ++ leBytes 4 64 ++ leBytes 4 64 ++ zeros 8 ++ leBytes 8 8192)
def benchJob (pass : Nat) : Job :=
  { no := 0, bme := 0, bank := 0, pass := pass, passes := 1, rows := [true], cols := [true], reads := [], marks := [], mark := none }
def benchPress (active draining : List Job) : PressOp :=
  { (pressPacket' 4).press .e4m3 .e4m3 .binary32 (upto 32) with active := active, draining := draining, limit := 2 }
def pressBench (active draining : List Job) : State :=
  engBench (zeros 128) [pressPacket' 4] [.press (benchPress active draining)]
/-- The bench with firmware in a state, and with a staged image under activation. -/
def fwBench (n : Nat) : State := bench.sf Reg.FW_STATUS Fld.FW_STATUS_STATE n
def stageBench (n : Nat) : State :=
  (bench.setStage n 0 0).modFw fun w => { w with staged := some { image := [], digest := sha384 [] } }
def resetCoreBench (digest : Nat) : State :=
  bench.modCore 2 fun c => { c with resetAt := some 0, digest := digest, recovery := 64 }

/-- The bench later by some nanoseconds. -/
def later (n : Nat) (s : State) : State :=
  { s with clk := { s.clk with pkg := s.clk.pkg + n, raw := s.clk.raw + n, locals := s.clk.locals.map (· + n) } }
/-- The bench with partner 5 at another package: every permission, class 4, HOME sub-port 2, ALT 3, RX_SEQ 7; the link of
sub-port 2 is up with credit in hand. -/
def rmtBench : State :=
  ((bench.ptPut 5 (31 * 2 ^ 123 + 4 * 2 ^ 120 + 2 ^ 119 + 3 * 2 ^ 116 + 2 * 2 ^ 112 + 4224 * 2 ^ 96 + 7 * 2 ^ 48 + 0x01000000)).raise
    (Reg.RMT_SUBPORT_STATUS 2) Fld.RMT_SUBPORT_STATUS_LINK_UP).modSub 2 fun p => { p with credit := Vector.replicate 4 100 }
/-- A frame of that partner: a read of 64 bytes when its opcode is 1. -/
def benchFrame (op seq : Nat) : Frame :=
  { rmtBench.newFrame op 0 4 0 with src := 0x01000000, seq := seq, count := 64, credit := [0, 0, 0, 0] }
def benchRx (f : Frame) : RxFrame := { frame := f, sub := some 2, via := 2, at_ := 0, partner := 5 }
/-- A wait for an acknowledgement, a checked request, and the bench with a taken request. -/
def benchAck : AckWait :=
  { partner := 5, frame := { benchFrame 0x10 3 with ackReq := true }, coll := none, retries := 0, left := 0, from_ := none }
def doneReq (f : Frame) : RmtReq :=
  { rx := { benchRx f with sub := none }, checked := true, issued := none, pieces := 0, reserve := 0 }
def reqBench (r : RmtReq) : State := rmtBench.modRmt fun q => { q with reqs := [r] }
/-- A bag of one index, over the table of `tableLine` with REMOTE_OK set. -/
def sigFrame : Frame :=
  { benchFrame 5 7 with payload := leBytes 2 0 ++ [0, 1] ++ leBytes 2 1 ++ zeros 26 ++ leBytes 4 0, payBytes := 36 }
def sigReqBench : State :=
  (engBench (patch tableLine 23 [5]) [] []).ptPut 5 (rmtBench.ptEntry 5) |>.modRmt fun q => { q with reqs := [doneReq sigFrame] }
def sigOfFrame : SigOp :=
  match (sigReqBench.readDesc 0).2.remoteBag sigFrame { sigDesc with remoteOk := true } sigReqBench.freshId with
  | .inr (o, _) => o
  | .inl _ => sigOp
def benchDone (id : Nat) : Completion :=
  { req := { quietRead id 0 .remote .normal 5 0 64 with quiet := false }, status := .ok, data := List.replicate 64 7, at_ := 0 }
/-- The bench with a truing window at PC 0. -/
def truingBench (w : Truing) : State := bench.modPc 0 fun c => { c with truing := some w }
/-- Queued frames of partner 5, the bench with them at sub-port 2, with one on its wire, and with one gate entry. -/
def benchTx (cls seq : Nat) : Tx :=
  { key := 5, cls := cls, frame := { benchFrame 0x81 seq with vc := 1 }, at_ := 0, reply := true, coll := none }
def ackTx (cls seq : Nat) : Tx := { benchTx cls seq with reply := false, frame := { benchAck.frame with seq := seq } }
def bigTx (reply : Bool) : Tx :=
  { benchTx 3 1 with reply := reply, frame := { benchFrame 0x81 1 with payload := zeros 512, payBytes := 512 } }
def txBench (l : List Tx) : State := rmtBench.modSub 2 fun p => { p with tx := l }
def sendingBench (x : Tx) : State := rmtBench.modSub 2 fun p => { p with sending := some x, busy := 3 }
def gateBench (e : Word) (s : State) : State :=
  (s.sf (Reg.RMT_GATE_STATUS 2) Fld.RMT_GATE_STATUS_ACTIVE_LEN 1).wr (Reg.RMT_GATE_ACTIVE 2 0) e
def twoGates (s : State) : State :=
  ((s.sf (Reg.RMT_GATE_STATUS 2) Fld.RMT_GATE_STATUS_ACTIVE_LEN 2).wr (Reg.RMT_GATE_ACTIVE 2 0) 0x08000003).wr
    (Reg.RMT_GATE_ACTIVE 2 1) 0xF7000003
/-- A COLLECTIVE with a partner to notify, and a received notice of partner 5. -/
def collNote (p : Nat) : State :=
  rmtBench.modSched fun c => { c with colls := [{ benchColl .notifying 0 with toNotify := [p] }], packets := [benchPk 7 5 .running] }
def benchNote (op : Nat) : RxFrame :=
  { benchRx { benchFrame op 7 with ackReq := decide (op = 0x10), detail := 3 } with sub := none }
def noteBench (op : Nat) : State := rmtBench.modRmt fun r => { r with notices := [benchNote op] }
/-- The bench at or below the head of the chain, with CHAIN_E_RDY and with chain words taken; one without a number yet. -/
def chainBench (head rdy : Bool) (taken : List (Bool × Word)) : State :=
  { (bench.modPins fun p => { p with chainERdy := rdy }).modChain (fun c => { c with taken := taken, waitE := [7] }) with
    straps := { bench.straps with chainHead := head } }
def unnumbered (s : State) : State := s.wr Reg.ID_CONFIG 0x410
/-- The bench as one of two instances with UCIe links, its east port in service with all credit, and with traffic there. -/
def pairBench : State :=
  ({ (bench.sf Reg.D2D_RING_STATUS Fld.D2D_RING_STATUS_COUNT 2).raise Reg.D2D_RING_STATUS Fld.D2D_RING_STATUS_EAST_UP with
    straps := { bench.straps with wMode := 1, eMode := 1 } }).modD2d true fun p =>
    { p with trained := true, credits := fullCredit, mods := p.mods.map fun (m : D2dModule) => { m with inService := true } }
def training (s : State) : State :=
  (s.sf Reg.D2D_RING_STATUS Fld.D2D_RING_STATUS_EAST_UP 0).modD2d true fun p => { p with trained := false, trainFrom := some 0 }
def ringFlit (vc src dst : Nat) (b : Body) : Flit := { vc := vc, src := src, dst := dst, body := b, since := 0 }
def ringReq : Req := { hostReq .read 64 0 [] [] with id := 1, addr := 0 }
/-- The pair with one chain word taken, with one control message come in, and this instance as captain or stoker. -/
def wordBench (down : Bool) (v : Word) : State := pairBench.modChain fun c => { c with taken := [(down, v)] }
def ctlBench (c : Ctl) (s : State) : State := s.modRing fun g => { g with inbox := [(1, c)] }
def captBench : State := pairBench.setRoles 0 (some 1) 5
def stokerBench : State := later 300000 ((pairBench.setRoles 1 none 5).sf Reg.FW_BOOT_STATUS Fld.FW_BOOT_STATUS_PHASE 8)
def headBench (s : State) : State := { s with straps := { s.straps with chainHead := true } }
def handoverBench : State := captBench.modPkg fun p => { p with handover := some { successor := 1, since := 0, cause := 2 } }
def beatMsg (epoch : Nat) : Ctl := .heartbeat epoch 1 (some 0)
/-- A range report of instance k: 188 ranks of three layer groups, PCs 0, 16, 32 and 48 held; the bench as a captain that awaits one. -/
def rangeRep (k : Nat) : List Byte :=
  leBytes 1 k ++ [0, 0, 1] ++ leBytes 2 252 ++ [4, 0] ++ leBytes 8 0x0001000100010001 ++ zeros 48
def unranged (s : State) : State :=
  (((List.range 2).foldl (fun (t : State) i => t.wr (Reg.PC_RANGE i) 0) s).wr Reg.FW_PKG_PRESENT 0).sf Reg.PC_LACE Fld.PC_LACE_LOCK 0
def rangeBench (n : Nat) (s : State) : State :=
  ((s.modPkg fun p => { p with beatHeard := true }).sf Reg.FW_BOOT_STATUS Fld.FW_BOOT_STATUS_PHASE n).wr Reg.FW_ADDR_ORIGIN 3
def teleBytes (k : Nat) : List Byte := leBytes 1 k ++ [0x44] ++ zeros 62
/-- The counters with actions waiting; the bench ready for a dump, a sample record, or a ledger snapshot. -/
def actBench (l : List (Nat × CntAct)) : State :=
  { later 2048 bench with cnt := { bench.cnt with acts := l, since := #v[some 0, none, some 0, none] } }
def dumpBench : State :=
  (later 5000 bench).sf64 Reg.CNT_DUMP_RING Fld.CNT_DUMP_RING_ENABLE 1 |>.sf Reg.CNT_DUMP_CFG Fld.CNT_DUMP_CFG_INTERVAL 2
def snapBench (x : Option Snap) : State :=
  let s := (later 5000 bench).sf Reg.FW_BOOT_STATUS Fld.FW_BOOT_STATUS_PHASE 8 |>.sf Reg.FW_LEDGER_XCTRL Fld.FW_LEDGER_XCTRL_ENABLE 1
  { s with age := { s.age with wantSnap := true, snap := x } }
def benchSnap (step : Nat) : Snap := { gen := 4, step := step, id := 7, header := zeros 64, body := zeros 128, bound := [3] }
/-- The bench with reserve ranks 193 (PC 1) and 200 (PC 8) free and nothing held; one redirect entry from rank 5 to rank 193. -/
def moveBench : State := (bench.setRank 193 4).setRank 200 4
def benchMove (st : MoveState) (wm : Nat) : Redir :=
  { valid := true, state := st, cause := 4, origin := 5, src := 5, dst := 193, redo := false, wm := wm }
def movingBench (st : MoveState) (wm : Nat) (c : CopyChan) : State :=
  (((bench.setRedir 3 (benchMove st wm)).setRank 5 1).setRank 193 6).modCopier 3 fun _ => c
def copyChan (phase : CopyPhase) (n : Nat) : CopyChan :=
  { CopyChan.init with phase := phase, written := n, got := if phase = .reading then (upto 16).map fun i => (i, false, List.replicate 64 (BitVec.ofNat 8 i)) else [] }
def startBench (r cause : Nat) (s : State) : State := s.modAge fun a => { a with starting := [(r, cause)] }
def parityBench (e : List RqEntry) (w : List WqEntry) : State := bench.modPc 0 fun c => { c with cycle := 60, rq := e, wq := w }
/-- A column command driven in cycle 5, PC 0 after such commands, and with a replay of one in progress. -/
def drove (write : Bool) (a : Access) : Driven := { at_ := 5, write := write, acc := a }
def driven (l : List Driven) (s : State) : State := s.modPc 0 fun c => { c with recent := l }
def retry (d : Driven) (failed : Bool) : Replay := { items := [d], left := [d], closing := true, failed := failed }
def replaying (x : Replay) (s : State) : State := s.modPc 0 fun c => { c with replay := some x }
/-- The bench about to train its stack, and with truing windows due; probe results with nothing failed. -/
def trainBench (s : State) : State :=
  { s.sf Reg.FW_BOOT_CTRL Fld.FW_BOOT_CTRL_RATE 0 with
    pkg := { s.pkg with goAt := some 0 }, pins := { s.pins with memResetN := false } }
def passing (a b : Nat) : Passes := (BitVec.allOnes 128 <<< a) &&& (BitVec.allOnes 128 >>> (127 - b))
def benchTrain : TrainRun :=
  { usual := [passing 10 101, passing 20 127, passing 4 60, passing 0 57, passing 30 120], lanes := [],
    strobe := 0, confirm := [], timing := [], interval := none }
def dueBench (n : Nat) : State :=
  (later n bench).sf Reg.FW_BOOT_STATUS Fld.FW_BOOT_STATUS_PHASE 8 |>.wr Reg.FW_TRUE_CFG 0xC0400100
def noProbe : FloorProbe := { low := 0, high := 0 }
def benchProbes (reference : BitVec 38) (rx : FloorProbe) : Probes :=
  { reference := reference, rx := rx, tx := noProbe, vref := noProbe, ca := noProbe, outside := 0, atEdge := 0 }
def probeBench (r : Probes) : State := truingBench { openWindow with posted := true, probes := some r }
def probed (r : Probes) : Truing := { openWindow with posted := true, probes := some r }


/-! ### Witnesses: every clause of the statements has a state that meets its hypotheses -/

theorem wit_IdleStepPassesTime_1 : ∃ (s : State), s.pending = [] ∧ s.pkg.slew = 0 :=
  ⟨bench, by decide +kernel⟩

theorem wit_SlewIsBounded_1 : ∃ (s : State), s.pending = [] :=
  ⟨bench, by decide +kernel⟩

theorem wit_StepKeepsCanonicalForm_1 : ∃ (s : State) (t : State), s.Ok ∧ step s = .next t :=
  ⟨State.reset, _, ⟨rfl, rfl⟩, rfl⟩

theorem wit_ColdResetAndRelease_3 : ∃ (s : State) (head : Bool) (west : BitVec 2) (east : BitVec 2) (use : BitVec 8)
    (kind : BitVec 8), s.pins.porstN = false :=
  ⟨State.reset, true, 3, 1, 5, 1, by decide +kernel⟩

theorem wit_ColdResetAndRelease_4 : ∃ (s : State), s.pwr.sensorRamp = true ∧ s.pins.porstN = true ∧ s.pins.vddOk =
    true ∧ s.up .sensor = false ∧ s.clk.releasedAt + 35000 ≤ s.clk.pkg ∧ s.pins.dieWrstReqN = true :=
  ⟨{ ramping with clk := { ramping.clk with pkg := 35000 } }, by decide +kernel⟩

theorem wit_ColdResetAndRelease_5 : ∃ (s : State), s.clk.pkg < s.clk.releasedAt + 35000 :=
  ⟨{ ramping with clk := { ramping.clk with pkg := 34999 } }, by decide +kernel⟩

theorem wit_ColdResetAndRelease_6 : ∃ (s : State), s.pwr.sensorRamp = true ∧ s.pins.porstN = true ∧ s.pins.vddOk =
    true ∧ s.up .sensor = false ∧ s.clk.releasedAt + 35000 ≤ s.clk.pkg ∧ s.pins.dieWrstReqN = false ∧
    s.pins.dieWrstAck = false ∧ s.pins.computeOffReq = false :=
  ⟨(ramping.modPins fun p => { p with dieWrstReqN := false }) |> fun s =>
      { s with clk := { s.clk with pkg := 35000 } }, by decide +kernel⟩

theorem wit_PowerStages_1 : ∃ (s : State) (n : Nat), s.live .sensor = true ∧ s.pwr.stageReqAt = none ∧ s.pins.stgAck =
    false ∧ s.released = true ∧ s.pwr.repower = none ∧ s.pwr.seqStopped = false ∧ s.pwr.seqDone = false ∧
    s.pwr.nextStage = n ∧ n < 11 :=
  ⟨bench.modPwr (fun w => { w with seqDone := false, nextStage := 3 }), 3, by decide +kernel⟩

theorem wit_PowerStages_2 : ∃ (s : State) (t0 : Nat), s.up .sensor = true ∧ s.pwr.stageReqAt = some t0 ∧ s.pwr.acked =
    false ∧ s.pins.stgNum < 12 :=
  ⟨staging 3 7 false, 7, by decide +kernel⟩

theorem wit_PowerStages_3 : ∃ (s : State) (t0 : Nat), s.up .sensor = true ∧ s.pwr.stageReqAt = some t0 ∧ s.pwr.acked =
    true ∧ s.pins.stgNum < 12 :=
  ⟨staging 11 7 true, 7, by decide +kernel⟩

theorem wit_PowerStages_4 : ∃ (s : State) (t0 : Nat), s.up .sensor = true ∧ s.pwr.stageReqAt = some t0 ∧ s.pwr.acked =
    true ∧ s.pins.stgNum = 15 :=
  ⟨staging 15 7 true, 7, by decide +kernel⟩

theorem wit_PowerStages_5 : ∃ (s : State) (t0 : Nat), s.live .sensor = true ∧ s.pwr.stageReqAt = some t0 ∧ s.pwr.acked
    = false ∧ t0 + 1000000 ≤ s.clk.pkg ∧ s.pins.stgNum < 12 :=
  ⟨{ staging 5 7 false with clk := { bench.clk with pkg := 1000007 } }, 7, by decide +kernel⟩

theorem wit_PowerStages_6 : ∃ (s : State) (t0 : Nat) (d : Nat), s.live .sensor = true ∧ s.pwr.stageReqAt = some t0 ∧
    s.pwr.acked = false ∧ t0 + 1000000 ≤ s.clk.pkg ∧ s.pins.stgNum = 15 ∧ s.pwr.repower = some d ∧ d < 124 :=
  ⟨{ staging 15 7 false with clk := { bench.clk with pkg := 1000007 } }, 7, 120, by decide +kernel⟩

theorem wit_PowerStages_7 : ∃ (s : State) (i : Island), s.live .sensor = true ∧ s.dom i.domain = .on ∧ s.up i = false
    ∧ i ≠ .sensor ∧ s.pins.porstN = true ∧ s.pins.vddOk = true ∧ s.pins.dieRstN = true :=
  ⟨bench.modPwr (fun w => { w with up := w.up.set 129 false }), .remote, by decide +kernel⟩

theorem wit_PowerStages_8 : ∃ (s : State) (n : Nat), s.live .sensor = true ∧ s.pwr.stageReqAt = none ∧ s.pins.stgAck =
    false ∧ s.released = true ∧ s.stageNow = some n ∧ (n = 15 ∨ (s.pwr.seqStopped = false ∧ s.pwr.seqDone = false)) ∧
    (∀ d ∈ s.stageDomains n, d < 124) :=
  ⟨(bench.modPwr fun w => { w with repower := some 120 }), 15, by decide +kernel⟩

theorem wit_PowerStages_9 : ∃ (s : State), s.live .sensor = true ∧ s.pwr.stageReqAt = none ∧ s.pins.stgAck = false ∧
    s.released = true ∧ s.stageNow = none ∧ s.pwr.seqStopped = false ∧ s.pwr.seqDone = false :=
  ⟨bench.modPwr fun w => { w with seqDone := false, nextStage := 11 }, by decide +kernel⟩

theorem wit_PowerStages_10 : ∃ (s : State) (t0 : Nat) (d : Nat), s.up .sensor = true ∧ s.pwr.stageReqAt = some t0 ∧
    s.pwr.acked = false ∧ s.pins.stgNum = 15 ∧ s.pwr.repower = some d ∧ d < 124 :=
  ⟨staging 15 7 false, 7, 120, by decide +kernel⟩

theorem wit_WarmResetAndClockLoss_1 : ∃ (s : State), s.live .sensor = true ∧ s.pins.dieWrstReqN = true ∧
    s.pins.dieWrstAck = false ∧ s.pins.computeOffReq = true :=
  ⟨bench.modPins (fun p => { p with computeOffReq := true }), by decide +kernel⟩

theorem wit_WarmResetAndClockLoss_2 : ∃ (s : State), s.live .sensor = true ∧ s.pins.dieWrstReqN = true ∧
    s.pins.dieWrstAck = false ∧ s.pins.computeOffReq = false :=
  ⟨bench, by decide +kernel⟩

theorem wit_WarmResetAndClockLoss_3 : ∃ (s : State), s.live .sensor = true ∧ s.pins.dieWrstAck = false :=
  ⟨bench, by decide +kernel⟩

theorem wit_WarmResetAndClockLoss_4 : ∃ (s : State), s.live .sensor = true ∧ s.pins.dieWrstAck = true ∧ s.pins.dieRstN
    = true :=
  ⟨bench.modPins (fun p => { p with dieWrstAck := true, dieWrstReqN := false }), by decide +kernel⟩

theorem wit_WarmResetAndClockLoss_5 : ∃ (s : State) (behind : BitVec 64), s.pins.porstN = true ∧ s.pins.vddOk = true
    :=
  ⟨bench, 0, by decide +kernel⟩

theorem wit_WarmResetAndClockLoss_6 : ∃ (s : State) (p : Fin 64) (cut : Bool) (bad : Bool), s.live (.pc p) = true ∧
    s.pcs[p].clockLost = false :=
  ⟨bench, 3, false, true, by decide +kernel⟩

theorem wit_WarmResetAndClockLoss_7 : ∃ (s : State) (i : Island), s.live i = true ∧ i ≠ .sensor :=
  ⟨bench, .bme 4, by decide +kernel⟩

theorem wit_SupplyFaults_1 : ∃ (s : State) (d : Fin 127), s.live .sensor = true ∧ d.val ∉ s.pwr.badSupply ∧ 112 ≤
    d.val ∧ d.val < 116 ∧ s.dom d = .on :=
  ⟨bench, 113, by decide +kernel⟩

theorem wit_SupplyFaults_2 : ∃ (s : State) (d : Fin 127), s.live .sensor = true ∧ d.val ∉ s.pwr.badSupply ∧ 116 ≤
    d.val ∧ d.val < 120 ∧ s.dom d = .on :=
  ⟨bench, 117, by decide +kernel⟩

theorem wit_SupplyFaults_3 : ∃ (s : State) (d : Fin 127), s.live .sensor = true :=
  ⟨bench.modPwr (fun w => { w with badSupply := [5, 113] }), 113, by decide +kernel⟩

theorem wit_SupplyFaults_4 : ∃ (s : State) (d : Fin 124), s.live .sensor = true ∧ s.mayRepower d = true :=
  ⟨(bench.setDom 120 .isolated), 120, by decide +kernel⟩

theorem wit_SupplyFaults_5 : ∃ (s : State) (d : Fin 127), s.live .sensor = true ∧ d.val ∉ s.pwr.badSupply ∧ (124 ≤
    d.val ∨ s.dom d = .on) :=
  ⟨bench, 70, by decide +kernel⟩

theorem wit_SensorReadings_1 : ∃ (s : State) (n : Fin 8) (low : BitVec 22) (high : BitVec 22) (v : BitVec 12) (x :
    Int), s.live .sensor = true ∧ s.inputUsed n = true ∧ (∀ t0, s.therm.sensors[sensorFin n].convAt = some t0 → t0 +
    500000 ≤ s.clk.pkg) ∧ brokenCause (s.isThermistor n) s.therm.sensors[sensorFin n].drive low.toNat high.toNat =
    none ∧ x = s.trimmed n low high v + signedOf 8 (s.gf (Reg.THERM_SNS_CFG n) Fld.THERM_SNS_CFG_OFFSET) ∧ -160 ≤ x ∧
    x ≤ 600 :=
  ⟨snsBench, 1, 500000, 500000, 300, 300, by decide +kernel⟩

theorem wit_SensorReadings_2 : ∃ (s : State) (n : Fin 8) (low : BitVec 22) (high : BitVec 22) (v : BitVec 12) (c :
    Nat), s.live .sensor = true ∧ s.inputUsed n = true ∧ (∀ t0, s.therm.sensors[sensorFin n].convAt = some t0 → t0 +
    500000 ≤ s.clk.pkg) ∧ brokenCause (s.isThermistor n) s.therm.sensors[sensorFin n].drive low.toNat high.toNat =
    some c :=
  ⟨snsBench, 0, 2000000, 2000000, 0, 0, by decide +kernel⟩

theorem wit_SensorReadings_3 : ∃ (s : State) (k : Fin 24) (v : BitVec 12), s.live .sensor = true ∧ -160 ≤ v.toInt ∧
    v.toInt ≤ 600 :=
  ⟨snsBench, 23, 4000, by decide +kernel⟩

theorem wit_SensorReadings_4 : ∃ (s : State) (k : Fin 24) (v : BitVec 12), s.live .sensor = true ∧ (v.toInt < -160 ∨
    600 < v.toInt) :=
  ⟨snsBench, 0, 601, by decide +kernel⟩

theorem wit_SensorReadings_5 : ∃ (s : State) (v : BitVec 12), s.live .sensor = true ∧ s.pins.memResetN = true ∧
    s.stackReadDue = true ∧ (s.snsBroken 32 = true → 2 ≤ s.therm.sensors[sensorFin 32].streak) ∧ -160 ≤ v.toInt ∧
    v.toInt ≤ 600 :=
  ⟨snsBench, 350, by decide +kernel⟩

theorem wit_SensorReadings_6 : ∃ (s : State) (v : BitVec 12), s.live .sensor = true ∧ s.pins.memResetN = true ∧
    s.stackReadDue = true ∧ (s.snsValid 32 = true ∨ s.snsBroken 32 = true) :=
  ⟨snsBench.raise (Reg.THERM_SNS_READ 32) Fld.THERM_SNS_READ_VALID, 350, by decide +kernel⟩

theorem wit_SensorReadings_7 : ∃ (s : State) (k : Fin 24) (t0 : Nat), s.live .sensor = true ∧ s.snsBroken (8 + k) =
    false ∧ s.therm.sensors[sensorFin (8 + k)].readAt = some t0 ∧ t0 + 10000000 ≤ s.clk.raw :=
  ⟨later 10000005 (snsBench.modSensor 9 (fun x => { x with readAt := some 5 })), 1, 5, by decide +kernel⟩

theorem wit_SensorReadings_8 : ∃ (s : State) (v : BitVec 12), s.live .sensor = true ∧ s.pins.memResetN = true ∧
    s.stackReadDue = true ∧ s.snsValid 32 = false ∧ s.snsBroken 32 = false :=
  ⟨snsBench, 350, by decide +kernel⟩

theorem wit_SensorReadings_9 : ∃ (s : State) (v : BitVec 12) (ok : Bool), (s.pins.memResetN = false ∨ s.stackReadDue =
    false) :=
  ⟨bench.modPins (fun p => { p with memResetN := false }), 5, true, by decide +kernel⟩

theorem wit_SensorReadings_10 : ∃ (s : State) (n : Fin 8) (t0 : Nat), s.live .sensor = true ∧ s.inputUsed n = true ∧
    s.snsBroken n = false ∧ s.therm.sensors[sensorFin n].readAt = some t0 ∧ t0 + 10000000 ≤ s.clk.raw :=
  ⟨later 10000005 (snsBench.modSensor 1 (fun x => { x with readAt := some 5 })), 1, 5, by decide +kernel⟩

theorem wit_SensorReadings_11 : ∃ (s : State) (t0 : Nat), s.live .sensor = true ∧ s.pins.memResetN = true ∧
    s.snsBroken 32 = false ∧ s.therm.sensors[sensorFin 32].readAt = some t0 ∧ t0 + 10000000 ≤ s.clk.raw :=
  ⟨later 10000005 (snsBench.modSensor 32 (fun x => { x with readAt := some 5 })), 5, by decide +kernel⟩

theorem wit_ZoneSteps_1 : ∃ (s : State) (z : Fin 6) (r : Int), s.live .sensor = true ∧ s.zoneReading z = some r ∧
    s.therm.zones[z].fresh = true ∧ s.gf (Reg.THERM_ZONE_READ z) Fld.THERM_ZONE_READ_ZSTEP < s.stepFor z r 0 :=
  ⟨zoneBench, 1, 480, by decide +kernel⟩

theorem wit_ZoneSteps_2 : ∃ (s : State) (z : Fin 6) (r : Int), s.live .sensor = true ∧ s.zoneReading z = some r ∧
    s.therm.zones[z].fresh = true ∧ (s.allBroken z = true ∨ s.threshold z 9 ≤ r) ∧ s.shutdown = false ∧ s.therm.due =
    false :=
  ⟨zoneBench, 1, 480, by decide +kernel⟩

theorem wit_ZoneSteps_3 : ∃ (s : State) (mem : BitVec 16), s.live .sensor = true ∧ s.therm.windowNo < s.clk.pkg /
    100000 ∧ s.reportStale = false ∧ s.pStep < 8 ∧ s.limitOf s.pStep < 1000 * min 65535 (mem.toNat + s.gf
    Reg.THERM_COMPUTE_W Fld.THERM_COMPUTE_W_POWER) :=
  ⟨{ bench with clk := { bench.clk with pkg := 100000 } }, 2000, by decide +kernel⟩

theorem wit_ZoneSteps_4 : ∃ (s : State), s.live .sensor = true ∧ s.pins.colStep ≠ s.colTarget ∧ s.therm.colAt + 40 ≤
    s.clk.pkg ∧ s.pins.colStep ≤ 8 ∧ s.colTarget ≤ 8 :=
  ⟨{ bench.sf Reg.THERM_STATUS Fld.THERM_STATUS_STEP 5 with clk := { bench.clk with pkg := 40 } }, by decide +kernel⟩

theorem wit_ZoneSteps_5 : ∃ (s : State) (z : Fin 6) (r : Int), s.live .sensor = true ∧ s.zoneReading z = some r ∧
    s.therm.zones[z].fresh = true :=
  ⟨zoneBench, 1, 480, by decide +kernel⟩

theorem wit_ZoneSteps_6 : ∃ (s : State) (mem : BitVec 16), s.live .sensor = true ∧ s.therm.windowNo < s.clk.pkg /
    100000 :=
  ⟨later 100000 bench, 3, by decide +kernel⟩

theorem wit_ThermalRegisters_1 : ∃ (s : State) (k : Fin 27) (v : Word), s.mgtReady = true ∧ s.live .sensor = true ∧
    (s.wr (thrReg k).1 (v &&& BitVec.ofNat 32 (thrReg k).2)).thresholdsOk = true ∧ (s.wr (thrReg k).1 (v &&&
    BitVec.ofNat 32 (thrReg k).2)).admitOk = true :=
  ⟨zoneBench, 3, State.reset.rd (thrReg 3).1, by decide +kernel⟩

theorem wit_ThermalRegisters_2 : ∃ (s : State) (k : Fin 27) (v : Word), s.mgtReady = true ∧ s.live .sensor = true ∧
    (s.wr (thrReg k).1 (v &&& BitVec.ofNat 32 (thrReg k).2)).thresholdsOk = false :=
  ⟨zoneBench, 4, 0, by decide +kernel⟩

theorem wit_ThermalRegisters_3 : ∃ (s : State) (v : Word), s.mgtReady = true ∧ s.live .sensor = true :=
  ⟨bench, 777, by decide +kernel⟩

theorem wit_ThermalRegisters_4 : ∃ (s : State), s.live .sensor = true ∧ s.therm.reportAt + 10000000 ≤ s.clk.raw ∧
    s.therm.stale = false :=
  ⟨later 10000000 bench, by decide +kernel⟩

theorem wit_ThermalRegisters_5 : ∃ (s : State) (k : Fin 27) (v : Word), s.mgtReady = true ∧ s.live .sensor = true ∧
    (s.wr (thrReg k).1 (v &&& BitVec.ofNat 32 (thrReg k).2)).admitOk = false :=
  ⟨bench, 25, 0x01020304, by decide +kernel⟩

theorem wit_ThermalShutdownAndRestart_1 : ∃ (s : State), s.live .sensor = true ∧ s.pins.memCattrip = false ∧
    s.shutdown = false ∧ s.therm.due = false :=
  ⟨bench, by decide +kernel⟩

theorem wit_ThermalShutdownAndRestart_2 : ∃ (s : State), s.shutdown = false :=
  ⟨bench.modPins (fun p => { p with memCattrip := true }), by decide +kernel⟩

theorem wit_ThermalShutdownAndRestart_3 : ∃ (s : State), s.live .sensor = true ∧ s.therm.due = true :=
  ⟨bench.modTherm (fun x => { x with due := true }), by decide +kernel⟩

theorem wit_ThermalShutdownAndRestart_4 : ∃ (s : State), s.live .sensor = true ∧ s.therm.due = true ∧ Quiet s :=
  ⟨bench.modTherm (fun x => { x with due := true }), by decide, by decide, rfl, rfl, rfl, rfl, rfl, rfl,
      by decide +kernel⟩

theorem wit_ThermalShutdownAndRestart_5 : ∃ (s : State), s.live .sensor = true :=
  ⟨bench, by decide +kernel⟩

theorem wit_ThermalShutdownAndRestart_6 : ∃ (s : State) (t0 : Nat), s.live .sensor = true ∧ s.therm.offAt = some t0 ∧
    t0 + 1000000 ≤ s.clk.pkg ∧ s.pins.computeOffAck = false :=
  ⟨{ bench.modTherm (fun x => { x with offAt := some 0 }) with clk := { bench.clk with pkg := 1000000 } }, 0,
      by decide +kernel⟩

theorem wit_ThermalShutdownAndRestart_7 : ∃ (s : State) (t0 : Nat), s.live .sensor = true ∧ s.therm.holdFrom = some t0
    ∧ s.shutdown = true ∧ t0 + s.gf Reg.THERM_GUARD_CFG Fld.THERM_GUARD_CFG_RESTART_HOLD_MS * 1000000 ≤ s.clk.pkg :=
  ⟨{ (bench.sf Reg.THERM_STATUS Fld.THERM_STATUS_SHUTDOWN 1).modTherm (fun x => { x with holdFrom := some 0 }) with
          clk := { bench.clk with pkg := 1000000000 } }, 0, by decide +kernel⟩

theorem wit_ThermalShutdownAndRestart_8 : ∃ (s : State), s.live .sensor = true ∧ s.shutdown = true ∧
    s.therm.restarting = true ∧ s.therm.due = false ∧ s.pwr.noticeHeld = false ∧ s.pwr.quiesced = false ∧
    (s.livePcs.all fun p => !s.bit (Reg.PC_REF_STATUS p) Fld.PC_REF_STATUS_SCRUB) = true :=
  ⟨(bench.sf Reg.THERM_STATUS Fld.THERM_STATUS_SHUTDOWN 1).modTherm (fun x => { x with restarting := true }),
      by decide +kernel⟩

theorem wit_ThermalShutdownAndRestart_9 : ∃ (s : State), s.live .sensor = true ∧ s.pins.memCattrip = false :=
  ⟨bench.sf Reg.THERM_STATUS Fld.THERM_STATUS_SHUTDOWN 1, by decide +kernel⟩

theorem wit_ThermalShutdownAndRestart_10 : ∃ (s : State), s.live .sensor = true :=
  ⟨(bench.sf Reg.THERM_STATUS Fld.THERM_STATUS_SHUTDOWN 1).modPins (fun p => { p with memCattrip := true }),
      by decide +kernel⟩

theorem wit_ThermalShutdownAndRestart_11 : ∃ (s : State), s.live .sensor = true ∧ s.shutdown = true ∧
    s.therm.restarting = true ∧ s.therm.due = false ∧ (s.livePcs.all fun p => !s.bit (Reg.PC_REF_STATUS p)
    Fld.PC_REF_STATUS_SCRUB) = true :=
  ⟨((bench.sf Reg.THERM_STATUS Fld.THERM_STATUS_SHUTDOWN 1).modTherm (fun x => { x with restarting := true })).modPwr
      (fun w => { w with noticeHeld := true }), by decide +kernel⟩

theorem wit_ThermalShutdownAndRestart_12 : ∃ (s : State), (s.shutdown = false ∨ s.therm.restarting = false ∨
    s.therm.due = true) :=
  ⟨bench, by decide +kernel⟩

theorem wit_RefreshSchedule_1 : ∃ (s : State) (p : Fin 64) (k : Fin 64), s.live (.pc p) = true ∧ s.engineRuns p = true
    ∧ s.isDue p k = true ∧ s.inhibited p (k / 16) = false ∧ s.inWindow p = false ∧ (s.pcs[p].bankOf k).claim = .none
    :=
  ⟨bench, 0, 0, by decide +kernel⟩

theorem wit_RefreshSchedule_2 : ∃ (s : State) (p : Fin 64) (k : Fin 64), s.live (.pc p) = true ∧ s.engineRuns p = true
    ∧ s.isDue p k = true ∧ s.inhibited p (k / 16) = false ∧ (s.inWindow p = true ∨ (s.pcs[p].bankOf k).claim ≠ .none)
    :=
  ⟨bench.modPc 0 (fun c => c.modBank 0 fun x => { x with claim := .refresh, owed := 7 }), 0, 0, by decide +kernel⟩

theorem wit_RefreshSchedule_3 : ∃ (s : State) (p : Fin 64) (k : Fin 64), s.live (.pc p) = true ∧ s.inWindow p = false
    ∧ (s.pcs[p].bankOf k).claim = .refresh ∧ (s.pcs[p].bankOf k).refreshing = true ∧ (s.pcs[p].bankOf k).readyAt ≤
    s.pcs[p].cycle ∧ (s.pcs[p].bankOf k).owed = 0 ∧ s.pcs[p].lateTicks = [] :=
  ⟨bench.modPc 0 (fun c => c.modBank 0 fun x => { x with claim := .refresh, refreshing := true }), 0, 0,
      by decide +kernel⟩

theorem wit_RefreshSchedule_4 : ∃ (s : State) (p : Fin 64), s.live (.pc p) = true ∧ s.isTick p = true ∧ s.engineRuns p
    = true ∧ s.inWindow p = false ∧ (s.pcs[p].rowEntry (s.pcs[p].tick % 2048)).valid = true ∧ (s.pcs[p].rowEntry
    (s.pcs[p].tick % 2048)).cls = 4 ∧ s.inhibited p (s.pcs[p].rowEntry (s.pcs[p].tick % 2048)).layer = false ∧
    (s.pcs[p].bankOf (s.pcs[p].rowEntry (s.pcs[p].tick % 2048)).bankIx).claim = .none ∧ (s.pcs[p].bankOf
    (s.pcs[p].rowEntry (s.pcs[p].tick % 2048)).bankIx).readyAt ≤ s.pcs[p].cycle ∧ s.pcs[p].owing = [] :=
  ⟨(atTick badRow), 0, by decide +kernel⟩

theorem wit_RefreshSchedule_5 : ∃ (s : State) (p : Fin 64), s.live (.pc p) = true ∧ s.isTick p = true ∧ s.engineRuns p
    = true ∧ s.inWindow p = true ∧ (s.pcs[p].rowEntry (s.pcs[p].tick % 2048)).valid = true ∧ (s.pcs[p].rowEntry
    (s.pcs[p].tick % 2048)).cls = 4 ∧ s.inhibited p (s.pcs[p].rowEntry (s.pcs[p].tick % 2048)).layer = false :=
  ⟨(atTick badRow).modPc 0 fun c => { c with truing := some openWindow }, 0, by decide +kernel⟩

theorem wit_RefreshSchedule_6 : ∃ (s : State) (p : Fin 64), s.live (.pc p) = true ∧ s.refreshPhase p s.interval = 0 :=
  ⟨bench, 0, by decide +kernel⟩

theorem wit_RefreshSchedule_7 : ∃ (s : State) (p : Fin 64) (k : Fin 64), s.live (.pc p) = true ∧ s.inWindow p = false
    ∧ (s.pcs[p].bankOf k).claim = .refresh ∧ (s.pcs[p].bankOf k).refreshing = true ∧ (s.pcs[p].bankOf k).readyAt ≤
    s.pcs[p].cycle ∧ 0 < (s.pcs[p].bankOf k).owed :=
  ⟨bench.modPc 0 (fun c => c.modBank 0 fun x => { x with claim := .refresh, refreshing := true, owed := 3 }), 0, 0,
      by decide +kernel⟩

theorem wit_RefreshSchedule_8 : ∃ (s : State) (p : Fin 64) (k : Fin 64), s.live (.pc p) = true ∧ s.inWindow p = false
    ∧ (s.pcs[p].bankOf k).claim = .refresh ∧ (s.pcs[p].bankOf k).refreshing = true ∧ (s.pcs[p].bankOf k).readyAt ≤
    s.pcs[p].cycle :=
  ⟨bench.modPc 0 (fun c => c.modBank 9 fun x => { x with claim := .refresh, refreshing := true }), 0, 9,
      by decide +kernel⟩

theorem wit_RefreshSchedule_9 : ∃ (s : State) (p : Fin 64), s.live (.pc p) = true ∧ s.isTick p = true :=
  ⟨atTick bench, 0, by decide +kernel⟩

theorem wit_RefreshRegisters_1 : ∃ (s : State) (v : Word) (events : Word), s.mgtReady = true ∧ s.live .sensor = true ∧
    s.bit Reg.PC_LACE Fld.PC_LACE_LOCK = false :=
  ⟨bench, 0xf3e, 0, by decide +kernel⟩

theorem wit_RefreshRegisters_2 : ∃ (s : State) (v : Word) (events : Word), s.mgtReady = true ∧ s.live .sensor = true ∧
    s.bit Reg.PC_LACE Fld.PC_LACE_LOCK = true ∧ max 1000 (min 3900 (v.toNat % 8192 / 2 * 2)) ≠ s.interval :=
  ⟨bench.raise Reg.PC_LACE Fld.PC_LACE_LOCK, 0xf00, 0, by decide +kernel⟩

theorem wit_RefreshRegisters_3 : ∃ (s : State) (v : Word), s.mgtReady = true ∧ s.live .sensor = true :=
  ⟨bench, 0x012C0100, by decide +kernel⟩

theorem wit_RefreshRegisters_4 : ∃ (s : State) (v : Word), s.mgtReady = true ∧ s.live .sensor = true ∧ s.bit
    Reg.PC_LACE Fld.PC_LACE_LOCK = false :=
  ⟨bench, 0x413, by decide +kernel⟩

theorem wit_RefreshRegisters_5 : ∃ (s : State) (v : Word), s.mgtReady = true ∧ s.live .sensor = true ∧ s.bit
    Reg.PC_LACE Fld.PC_LACE_LOCK = true :=
  ⟨bench.raise Reg.PC_LACE Fld.PC_LACE_LOCK, 0x413, by decide +kernel⟩

theorem wit_RowHealth_1 : ∃ (s : State) (p : Fin 64) (ev : RowEvent) (rest : List RowEvent) (i : Nat), s.live (.pc p)
    = true ∧ s.pcs[p].events = ev :: rest ∧ s.pcs[p].rowIndex ev.loc = some i :=
  ⟨badRow.modPc 0 (fun c => { c with events := [badEvent true] }), 0, badEvent true, [], 0, by decide +kernel⟩

theorem wit_RowHealth_2 : ∃ (s : State) (p : Fin 64) (ev : RowEvent) (rest : List RowEvent) (i : Nat), s.live (.pc p)
    = true ∧ s.pcs[p].events = ev :: rest ∧ s.pcs[p].rowIndex ev.loc = none ∧ s.pcs[p].freeRow = some i :=
  ⟨bench.modPc 0 (fun c => { c with events := [badEvent false] }), 0, badEvent false, [], 0, by decide +kernel⟩

theorem wit_RowHealth_3 : ∃ (s : State) (p : Fin 64) (i : Fin 2048) (valid : Bool) (cls : Fin 6) (ms : BitVec 7)
    (layer : Fin 4) (unit : Fin 16) (row : BitVec 15), s.fwRuns .upkeep = true ∧ s.live (.pc p) = true :=
  ⟨bench, 0, 7, true, 2, 20, 1, 11, 100, by decide +kernel⟩

theorem wit_RowHealth_4 : ∃ (s : State) (p : Fin 64) (layer : Fin 4) (bg : Fin 4) (bank : Fin 4) (row : BitVec 15) (i
    : Nat), s.fwRuns .upkeep = true ∧ s.live (.pc p) = true ∧ s.pcs[p].rowIndex (rowLoc p layer bg bank row) = some i
    :=
  ⟨badRow, 0, 1, 2, 3, 100, 0, by decide +kernel⟩

theorem wit_RowHealth_5 : ∃ (s : State) (p : Fin 64) (layer : Fin 4) (bg : Fin 4) (bank : Fin 4) (row : BitVec 15) (h
    : Fin 4) (temp : BitVec 10), s.fwRuns .upkeep = true ∧ s.live (.pc p) = true ∧ s.projectedMs (rowLoc p layer bg
    bank row) (s.shortestMs (rowLoc p layer bg bank row) (retentionMs (holdMs h) (signedOf 10 temp.toNat))) < 8 :=
  ⟨bench, 0, 1, 2, 3, 100, 0, 216, by decide +kernel⟩

theorem wit_RowHealth_6 : ∃ (s : State) (p : Fin 64) (i : Fin 2048) (valid : Bool) (cls : Fin 6) (ms : BitVec 7)
    (layer : Fin 4) (unit : Fin 16) (row : BitVec 15) (ev : RowEvent) (rest : List RowEvent), s.fwRuns .upkeep = true
    ∧ s.live (.pc p) = true ∧ s.pcs[p].events = ev :: rest ∧ ev.uncorrectable = true ∧ s.pcs[p].rowIndex ev.loc = some
    i.val ∧ (s.pcs[p].rowEntry i).cls ≠ 5 :=
  ⟨(badRow.modPc 0 fun c => { (c.setRow 0 { c.rowEntry 0 with cls := 2 }) with events := [badEvent true] }), 0, 0,
      false, 1, 9, 1, 11, 100, badEvent true, [], by decide +kernel⟩

theorem wit_RowHealth_7 : ∃ (s : State) (p : Fin 64) (layer : Fin 4) (bg : Fin 4) (bank : Fin 4) (row : BitVec 15) (h
    : Fin 4) (temp : BitVec 10) (i : Nat) (c : Nat), s.fwRuns .upkeep = true ∧ s.live (.pc p) = true ∧ retentionClass
    (s.projectedMs (rowLoc p layer bg bank row) (s.shortestMs (rowLoc p layer bg bank row) (retentionMs (holdMs h)
    (signedOf 10 temp.toNat)))) = some c ∧ s.pcs[p].rowIndex (rowLoc p layer bg bank row) = some i ∧
    (s.pcs[p].rowEntry i).cls ≠ 4 :=
  ⟨(bench.modPc 0 fun c => c.setRow 0 (newRow badLoc false 0)), 0, 1, 2, 3, 100, 3, 200, 0, 1, by decide +kernel⟩

theorem wit_RetentionTests_1 : ∃ (s : State) (p : Fin 64) (g : BitVec 4), s.fwRuns .upkeep = true ∧ s.live (.pc p) =
    true ∧ (∀ j : Fin 4, g.getLsbD j = true → s.inhibitRefused (j.val * 64 + p.val) = false) :=
  ⟨bench.setRank 64 4, 0, 2, by decide +kernel⟩

theorem wit_RetentionTests_2 : ∃ (s : State) (p : Fin 64) (g : BitVec 4) (j : Fin 4), s.fwRuns .upkeep = true ∧ s.live
    (.pc p) = true ∧ g.getLsbD j = true ∧ s.inhibitRefused (j.val * 64 + p.val) = true :=
  ⟨bench, 0, 2, 1, by decide +kernel⟩

theorem wit_RetentionTests_3 : ∃ (s : State) (p : Fin 64) (layer : Fin 4) (hold : Fin 4) (temp : Int) (r : Nat),
    s.fwRuns .upkeep = true ∧ s.live (.pc p) = true ∧ r = layer.val * 64 + p.val ∧ s.testTemp = some temp ∧
    s.rankState r = 4 ∧ s.holdInOrder r hold = true :=
  ⟨(((bench.raise (Reg.THERM_SNS_READ 32) Fld.THERM_SNS_READ_VALID).sf (Reg.THERM_SNS_READ 32) Fld.THERM_SNS_READ_TEMP
      300).setRank 64 4), 0, 1, 0, 300, 64, by decide +kernel⟩

theorem wit_RetentionTests_4 : ∃ (s : State) (rank : BitVec 8) (x : RetTest), s.fwRuns .upkeep = true ∧ s.live (.pc
    (pcFin rank.toNat)) = true ∧ s.testOf rank.toNat = some x ∧ x.holding = true ∧ x.startAt + holdMs (Fin.ofNat 4
    x.hold) * 1000000 ≤ s.now .firmware ∧ s.rankState rank.toNat = 5 :=
  ⟨{ (later 64000000 bench).setRank 64 5 with tests := [heldTest] }, 64, heldTest, by decide +kernel⟩

theorem wit_RetentionTests_5 : ∃ (s : State) (p : Fin 64) (errs : List (Nat × List Byte)) (fails : List MemFail),
    s.live (.pc p) = true ∧ s.phase ≠ 6 ∧ s.bit (Reg.PC_REF_STATUS p) Fld.PC_REF_STATUS_SCRUB = true ∧ s.bit
    (Reg.PC_REF_STATUS p) Fld.PC_REF_STATUS_SELF_REFRESH = false ∧ s.pcs[p].scrubBursts p = [] ∧ s.pcs[p].events = []
    :=
  ⟨bench.raise (Reg.PC_REF_STATUS 0) Fld.PC_REF_STATUS_SCRUB, 0, [], [], by decide +kernel⟩

theorem wit_RetentionTests_6 : ∃ (s : State) (p : Fin 64) (errs : List (Nat × List Byte)) (fails : List MemFail),
    s.live (.pc p) = true ∧ s.phase ≠ 6 ∧ s.bit (Reg.PC_REF_STATUS p) Fld.PC_REF_STATUS_SCRUB = true ∧ s.bit
    (Reg.PC_REF_STATUS p) Fld.PC_REF_STATUS_SELF_REFRESH = false :=
  ⟨(bench.raise (Reg.PC_REF_STATUS 9) Fld.PC_REF_STATUS_SCRUB), 9, [], [], by decide +kernel⟩

theorem wit_RetentionTests_7 : ∃ (s : State) (p : Fin 64) (layer : Fin 4) (hold : Fin 4) (temp : Int) (r : Nat),
    s.fwRuns .upkeep = true ∧ s.live (.pc p) = true ∧ r = layer.val * 64 + p.val ∧ s.testTemp = some temp ∧ s.testable
    r = true ∧ s.inhibitRefused r = false ∧ s.holdInOrder r hold = true :=
  ⟨(((bench.raise (Reg.THERM_SNS_READ 32) Fld.THERM_SNS_READ_VALID).sf (Reg.THERM_SNS_READ 32) Fld.THERM_SNS_READ_TEMP
      300).sf Reg.FW_BOOT_STATUS Fld.FW_BOOT_STATUS_PHASE 7), 5, 0, 0, 300, 5, by decide +kernel⟩

theorem wit_RetentionTests_8 : ∃ (s : State) (rank : BitVec 8) (failed : List (Fin 4 × Fin 4 × BitVec 15)) (x :
    RetTest), s.fwRuns .upkeep = true ∧ s.live (.pc (pcFin rank.toNat)) = true ∧ s.testOf rank.toNat = some x ∧
    x.holding = true ∧ x.startAt + holdMs (Fin.ofNat 4 x.hold) * 1000000 ≤ s.now .firmware :=
  ⟨{ (later 64000000 bench).setRank 64 5 with tests := [heldTest] }, 64, [(1, 2, 77)], heldTest, by decide +kernel⟩

theorem wit_AccessPath_1 : ∃ (s : State) (p : Fin 64) (a : Access), s.live (.pc p) = true ∧ firstIntake s p []
    s.paths.memXbar = some a ∧ a.owner = .debug ∧ s.redirOf a.loc.rank = none ∧ s.originOf a.loc.rank = none :=
  ⟨bench.modPaths (fun x => { x with memXbar := [(0, benchRead)] }), 0, benchRead, by decide +kernel⟩

theorem wit_AccessPath_2 : ∃ (s : State) (p : Fin 64) (e : PoolEntry), s.live (.pc p) = true ∧ s.cycleRuns p = true ∧
    s.grantsRun p = true ∧ s.pcs[p].mayGrant = true ∧ s.pcs[p].debugAcc = none ∧ arbiterPick s p = some e ∧
    e.acc.write = false ∧ e.acc.owner = .debug ∧ e.run = none ∧ s.pcs[p].matching e.acc.loc = none ∧
    s.pcs[p].knownBad.contains e.acc.loc.burst = false :=
  ⟨bench.modPc 0 (fun c => { c with cycle := 6, slotAt := 5, pool := [poolRead] }), 0, poolRead, by decide +kernel⟩

theorem wit_AccessPath_3 : ∃ (s : State) (p : Fin 64) (e : PoolEntry), s.live (.pc p) = true ∧ s.cycleRuns p = true ∧
    s.grantsRun p = true ∧ s.pcs[p].mayGrant = true ∧ s.pcs[p].debugAcc = none ∧ arbiterPick s p = some e ∧
    e.acc.write = true ∧ fullMask e.acc.mask = true ∧ e.acc.owner = .debug ∧ e.run = none ∧ (s.pcs[p].wq.all fun w =>
    decide (w.acc.loc ≠ e.acc.loc) || w.issuedAt.isSome) = true ∧ (∀ w ∈ s.pcs[p].wq, w.grantAt ≤ s.pcs[p].cycle) :=
  ⟨bench.modPc 0 (fun c => { c with cycle := 6, slotAt := 5, pool := [poolWrite] }), 0, poolWrite, by decide +kernel⟩

theorem wit_AccessPath_4 : ∃ (s : State) (p : Fin 64), s.live (.pc p) = true ∧ s.cycleRuns p = true ∧ s.pcs[p].slotAt
    + 2 ≤ s.pcs[p].cycle :=
  ⟨(bench.sf (Reg.SLOT_STATUS 5) Fld.SLOT_STATUS_SLOT 255).modPc 5 (fun c => { c with cycle := 2 }), 5,
      by decide +kernel⟩

theorem wit_AccessPath_5 : ∃ (s : State) (p : Fin 64), s.live (.pc p) = true ∧ s.cycleRuns p = true ∧ s.commandsRun p
    = false ∧ s.inWindow p = false ∧ s.pcs[p].fwd = [] :=
  ⟨bench.modPc 0 (fun c => { c with clockLost := true }), 0, by decide +kernel⟩

theorem wit_AccessPath_6 : ∃ (s : State) (p : Fin 64) (a : Access), s.live (.pc p) = true ∧ s.cycleRuns p = true ∧
    s.commandsRun p = true ∧ s.pcs[p].fwd = [] ∧ s.pcs[p].replay = none ∧ s.bit Reg.PC_INJ Fld.PC_INJ_ENABLE = false ∧
    (drainMode s p s.pcs[p].engineClaims).writeMode = false ∧ columnPick s p (drainMode s p s.pcs[p].engineClaims) =
    some a ∧ a.owner = .debug :=
  ⟨bench.modPc 0 (fun c => { c.modBank 0 (fun b => { b with row := some 0 }) with
          cycle := 100, rq := [RqEntry.mk benchRead 4 0 5 none 0 none []] }), 0, benchRead, by decide +kernel⟩

theorem wit_AccessPath_7 : ∃ (s : State) (p : Fin 64) (r : RqEntry) (err : List Byte), s.live (.pc p) = true ∧
    firstReturn s p false err = some r ∧ r.acc.owner = .debug ∧ decodeImage (withErrors r.image err) = .clean :=
  ⟨bench.modPc 0 (fun c => { c with cycle := 100, rq := [cleanEntry] }), 0, cleanEntry, [], by decide +kernel⟩

theorem wit_AccessPath_8 : ∃ (s : State) (p : Fin 64) (r : RqEntry) (err : List Byte), s.live (.pc p) = true ∧
    firstReturn s p false err = some r ∧ r.acc.owner = .debug ∧ decodeImage (withErrors r.image err) = .poisoned :=
  ⟨bench.modPc 0 (fun c => { c with cycle := 100, rq := [poisonEntry] }), 0, poisonEntry, [], by decide +kernel⟩

theorem wit_AccessPath_9 : ∃ (s : State) (p : Fin 64) (r : RqEntry) (err : List Byte) (n : Nat) (w : WqEntry), s.live
    (.pc p) = true ∧ firstReturn s p true err = some r ∧ r.acc.owner = .mergeRead n ∧ decodeImage (withErrors r.image
    err) = .clean ∧ (s.pcs[p].wq.find? fun w => w.acc.id = n) = some w ∧ (s.pcs[p].rq.all fun x => decide (x.acc.loc ≠
    w.acc.loc) || x.issuedAt.isSome) = true :=
  ⟨mergeBench, 0, mergeEntry, [], 9, partWrite, by decide +kernel⟩

theorem wit_AccessPath_10 : ∃ (s : State) (p : Fin 64) (w : WqEntry), s.live (.pc p) = true ∧ firstDriven s p = some w
    ∧ w.retryFailed = false ∧ w.acc.owner = .debug :=
  ⟨bench.modPc 0 (fun c => { c with cycle := 100, wq := [drivenEntry] }), 0, drivenEntry, by decide +kernel⟩

theorem wit_AccessPath_11 : ∃ (s : State) (p : Fin 64) (a : Access), s.live (.pc p) = true ∧ firstIntake s p []
    s.paths.memXbar = some a ∧ (a.owner.inRun = true ∨ (s.redirOf a.loc.rank = none ∧ s.originOf a.loc.rank = none))
    :=
  ⟨bench.modPaths (fun x => { x with memXbar := [(0, { benchRead with owner := .margin, cls := 7 })] }), 0,
      { benchRead with owner := .margin, cls := 7 }, by decide +kernel⟩

theorem wit_AccessPath_12 : ∃ (s : State) (p : Fin 64) (e : PoolEntry), s.live (.pc p) = true ∧ s.cycleRuns p = true ∧
    s.grantsRun p = true ∧ s.pcs[p].mayGrant = true ∧ s.pcs[p].debugAcc = none ∧ arbiterPick s p = some e :=
  ⟨bench.modPc 0 (fun c => { c with cycle := 6, slotAt := 5, pool := [{ poolRead with run := some 3 }] }), 0,
      { poolRead with run := some 3 }, by decide +kernel⟩

theorem wit_AccessPath_13 : ∃ (s : State) (p : Fin 64) (a : Access), s.live (.pc p) = true ∧ s.cycleRuns p = true ∧
    s.grantsRun p = true ∧ s.pcs[p].mayGrant = true ∧ s.pcs[p].debugAcc = some a ∧ s.queueFree p a = true :=
  ⟨bench.modPc 0 (fun c => { c with cycle := 6, slotAt := 5, debugAcc := some benchWrite }), 0, benchWrite,
      by decide +kernel⟩

theorem wit_AccessPath_14 : ∃ (s : State) (p : Fin 64), s.live (.pc p) = true ∧ s.cycleRuns p = true :=
  ⟨bench.modPc 0 (fun c =>
      { c with fwd := [{ acc := benchRead, grantAt := 0, data := zeros 64, bad := false }], cycle := 9 }), 0,
      by decide +kernel⟩

theorem wit_AccessPath_15 : ∃ (s : State) (p : Fin 64) (r : RqEntry) (err : List Byte), s.live (.pc p) = true ∧
    firstReturn s p false err = some r :=
  ⟨bench.modPc 0 (fun c => { c with cycle := 100, rq := [cleanEntry] }), 0, cleanEntry, [255, 255], by decide +kernel⟩

theorem wit_AccessPath_16 : ∃ (s : State) (p : Fin 64) (r : RqEntry) (err : List Byte) (n : Nat) (w : WqEntry), s.live
    (.pc p) = true ∧ firstReturn s p true err = some r ∧ r.acc.owner = .mergeRead n ∧ (s.pcs[p].wq.find? fun w =>
    w.acc.id = n) = some w :=
  ⟨mergeBench, 0, mergeEntry, [], 9, partWrite, by decide +kernel⟩

theorem wit_AccessPath_17 : ∃ (s : State) (p : Fin 64) (w : WqEntry), s.live (.pc p) = true ∧ firstDriven s p = some w
    :=
  ⟨bench.modPc 0 (fun c => { c with cycle := 100, wq := [{ drivenEntry with retryFailed := true }] }), 0,
      { drivenEntry with retryFailed := true }, by decide +kernel⟩

theorem wit_PannierPath_1 : ∃ (s : State) (p : Fin 64) (n : Narrow), s.live (.pc p) = true ∧ (s.paths.panXbar.find?
    fun x => x.1 = p.val) = some (p.val, n) ∧ s.pcs[p].pan = [] :=
  ⟨bench.modPaths (fun x => { x with panXbar := [(3, benchNarrow)] }), 3, benchNarrow, by decide +kernel⟩

theorem wit_PannierPath_2 : ∃ (s : State) (p : Fin 64) (x : PanEntry) (col : Nat), s.live (.pc p) = true ∧
    s.pcs[p].pan = [x] ∧ x.placed = false ∧ x.closed = true ∧ x.bursts = [col] ∧ s.pcs[p].held 4 < 8 ∧ x.loc.rank % 64
    = p.val ∧ s.redirOf x.loc.rank = none ∧ s.originOf x.loc.rank = none ∧ s.tags.live = [] :=
  ⟨panBench false, 3, panEntry false, 5, by decide +kernel⟩

theorem wit_PannierPath_3 : ∃ (s : State) (p : Fin 64) (x : PanEntry), s.live (.pc p) = true ∧ (s.pcs[p].pan.find? fun
    y => y.placed && y.left.isEmpty) = some x :=
  ⟨panBench true, 3, panEntry true, by decide +kernel⟩

theorem wit_PannierPath_4 : ∃ (s : State) (p : Fin 64) (n : Narrow), s.live (.pc p) = true ∧ (s.paths.panXbar.find?
    fun x => x.1 = p.val) = some (p.val, n) ∧ s.pcs[p].pan.length < 32 :=
  ⟨(panBench false).modPaths (fun x => { x with panXbar := [(3, benchNarrow)] }), 3, benchNarrow, by decide +kernel⟩

theorem wit_PannierPath_5 : ∃ (s : State) (p : Fin 64) (x : PanEntry), s.live (.pc p) = true ∧ (s.pcs[p].pan.find? fun
    y => !y.placed && (y.closed || decide (y.openAt + s.gf (Reg.PC_PANNIER p) Fld.PC_PANNIER_WINDOW ≤
    s.pcs[p].cycle))) = some x ∧ s.pcs[p].held 4 + x.bursts.length ≤ 8 :=
  ⟨panBench false, 3, panEntry false, by decide +kernel⟩

theorem wit_ControllerRegisters_1 : ∃ (s : State) (p : Fin 64) (r : TimReg) (v : Word), s.mgtReady = true ∧ s.live
    (.pc p) = true ∧ s.pcs[p].granted = false :=
  ⟨bench, 4, .col, 0, by decide +kernel⟩

theorem wit_ControllerRegisters_2 : ∃ (s : State) (p : Fin 64) (r : TimReg) (v : Word), s.mgtReady = true ∧ s.live
    (.pc p) = true ∧ s.pcs[p].granted = true ∧ s.bit (Reg.PC_SCHED_STATUS p) Fld.PC_SCHED_STATUS_TRUING = false :=
  ⟨bench.modPc 4 (fun c => { c with granted := true }), 4, .row, 0, by decide +kernel⟩

theorem wit_ControllerRegisters_3 : ∃ (s : State) (p : Fin 64) (v : Word), s.mgtReady = true ∧ s.live (.pc p) = true
    :=
  ⟨bench, 4, 0xFFFFFFFF, by decide +kernel⟩

theorem wit_ControllerRegisters_4 : ∃ (s : State) (p : Fin 64) (v : Word), s.mgtReady = true ∧ s.live (.pc p) = true ∧
    s.bit (Reg.SLOT_STATUS p) Fld.SLOT_STATUS_ARMED = false ∧ s.now (.pc p) + 1000 ≤ s.rd64 (Reg.SLOT_SHIFT_TIME p) :=
  ⟨bench.wr64 (Reg.SLOT_SHIFT_TIME 4) 1000, 4, 16, by decide +kernel⟩

theorem wit_ControllerRegisters_5 : ∃ (s : State) (p : Fin 64) (v : Word), s.mgtReady = true ∧ s.live (.pc p) = true ∧
    s.bit (Reg.SLOT_STATUS p) Fld.SLOT_STATUS_ARMED = false ∧ s.rd64 (Reg.SLOT_SHIFT_TIME p) < s.now (.pc p) + 1000 :=
  ⟨bench, 4, 16, by decide +kernel⟩

theorem wit_ControllerRegisters_6 : ∃ (s : State) (p : Fin 64) (v : Word), s.mgtReady = true ∧ s.live (.pc p) = true
    :=
  ⟨bench.raise (Reg.SLOT_STATUS 4) Fld.SLOT_STATUS_ARMED, 4, 200, by decide +kernel⟩

theorem wit_ControllerRegisters_7 : ∃ (s : State) (p : Fin 64) (v : Word), s.mgtReady = true ∧ s.live (.pc p) = true
    :=
  ⟨bench, 4, 3, by decide +kernel⟩

theorem wit_ControllerRegisters_8 : ∃ (s : State) (v : Word), s.mgtReady = true ∧ s.live .sensor = true :=
  ⟨bench, 0x76543210, by decide +kernel⟩

theorem wit_SlotShift_1 : ∃ (s : State) (p : Fin 64), s.live (.pc p) = true ∧ s.bit (Reg.SLOT_STATUS p)
    Fld.SLOT_STATUS_ARMED = true ∧ s.rd64 (Reg.SLOT_SHIFT_TIME p) ≤ s.now (.pc p) :=
  ⟨(bench.raise (Reg.SLOT_STATUS 4) Fld.SLOT_STATUS_ARMED).wr (Reg.SLOT_SHADOW 4 31) 5, 4, by decide +kernel⟩

theorem wit_DebugAndRuns_1 : ∃ (s : State) (rank : BitVec 8) (bg : BitVec 2) (bank : BitVec 2) (row : BitVec 15) (col
    : BitVec 4) (write : Bool) (data : List Byte), row.toNat < rowsPerBank ∧ s.live (.pc (pcFin (rank.toNat % 64))) =
    true ∧ s.pcs[pcFin (rank.toNat % 64)].debugAcc = none :=
  ⟨bench, 255, 3, 3, 24575, 15, false, [], by decide +kernel⟩

theorem wit_DebugAndRuns_2 : ∃ (s : State) (rank : BitVec 8) (bg : BitVec 2) (bank : BitVec 2) (row : BitVec 15) (col
    : BitVec 4) (write : Bool) (data : List Byte), (rowsPerBank ≤ row.toNat ∨ s.live (.pc (pcFin (rank.toNat % 64))) =
    false ∨ s.pcs[pcFin (rank.toNat % 64)].debugAcc ≠ none) :=
  ⟨bench, 255, 3, 3, 24576, 15, false, [], by decide +kernel⟩

theorem wit_DebugAndRuns_3 : ∃ (s : State) (p : Fin 64) (e : Fin 16) (write : Bool) (group : Fin 4) (bg : Fin 4) (bank
    : Fin 4) (row : BitVec 15) (col : BitVec 4) (len : BitVec 5) (data : List (List Byte)), s.live (.pc p) = true ∧
    s.pcs[p].run6 = none ∧ 0 < len.toNat ∧ col.toNat + len.toNat ≤ 16 :=
  ⟨bench, 3, 7, false, 1, 2, 3, 5, 0, 16, [], by decide +kernel⟩

theorem wit_DebugAndRuns_4 : ∃ (s : State) (p : Fin 64) (r : Run), s.live (.pc p) = true ∧ s.pcs[p].run6 = some r ∧
    (s.pcs[p].bankOf r.loc.bankIx).claim = .none ∧ s.pcs[p].debugBusy = false :=
  ⟨bench.modPc 3 (fun c => { c with run6 := some benchRun }), 3, benchRun, by decide +kernel⟩

theorem wit_DebugAndRuns_5 : ∃ (s : State) (p : Fin 64) (write : Bool) (group : Fin 4) (bg : Fin 4) (bank : Fin 4)
    (row : BitVec 15) (col : BitVec 4) (len : BitVec 5) (data : List (List Byte)), s.live (.pc p) = true ∧
    s.pcs[p].run7 = none ∧ 0 < len.toNat ∧ col.toNat + len.toNat ≤ 16 :=
  ⟨bench, 3, true, 1, 2, 3, 100, 4, 12, [], by decide +kernel⟩

theorem wit_DebugAndRuns_6 : ∃ (s : State) (p : Fin 64) (r : Run), s.live (.pc p) = true ∧ s.pcs[p].run7 = some r ∧
    (s.pcs[p].bankOf r.loc.bankIx).claim = .none ∧ s.pcs[p].debugBusy = false :=
  ⟨bench.modPc 3 (fun c => { c with run7 := some benchRun }), 3, benchRun, by decide +kernel⟩

theorem wit_HostPortTraffic_1 : ∃ (s : State) (n : Fin 16) (addr : BitVec 52) (size : BitVec 3) (hint : BitVec 2)
    (disc : Bool) (urg : Bool) (tag : BitVec 7) (attr : BitVec 16) (sz : Nat) (l : Nat), s.live (.hostPort n) = true ∧
    s.portReady n = true ∧ s.paths.ports[n].txns = [] ∧ sizeOfCode size.toNat = some sz ∧ sz ≤ 128 ∧ addr.toNat % sz =
    0 ∧ s.route addr.toNat = .own l ∧ s.shutdown = false ∧ s.pwr.failed = false ∧ (s.gf Reg.CACHE_FENCE
    Fld.CACHE_FENCE_PENDING).testBit (s.sliceOf addr.toNat) = false :=
  ⟨portBench, 3, 64, 3, 0, false, true, 5, 0, 64, 64, by decide +kernel⟩

theorem wit_HostPortTraffic_2 : ∃ (s : State) (n : Fin 16) (addr : BitVec 52) (size : BitVec 3) (hint : BitVec 2)
    (disc : Bool) (urg : Bool) (tag : BitVec 7) (attr : BitVec 16) (sz : Nat), s.live (.hostPort n) = true ∧
    s.portReady n = true ∧ s.paths.ports[n].txns = [] ∧ sizeOfCode size.toNat = some sz ∧ addr.toNat % sz = 0 ∧
    s.route addr.toNat = .hole :=
  ⟨portBench, 3, 0x8000000000000, 3, 0, false, true, 5, 0, 64, by decide +kernel⟩

theorem wit_HostPortTraffic_3 : ∃ (s : State) (n : Fin 16) (addr : BitVec 52) (size : BitVec 3) (hint : BitVec 2)
    (disc : Bool) (urg : Bool) (tag : BitVec 7) (attr : BitVec 16), s.live (.hostPort n) = true ∧ s.portReady n = true
    ∧ s.paths.ports[n].txns = [] ∧ sizeOfCode size.toNat = none :=
  ⟨portBench, 3, 0, 7, 0, false, true, 5, 0, by decide +kernel⟩

theorem wit_HostPortTraffic_4 : ∃ (s : State) (n : Fin 16) (addr : BitVec 52) (size : BitVec 3) (hint : BitVec 2)
    (disc : Bool) (urg : Bool) (tag : BitVec 7) (attr : BitVec 16) (sz : Nat), s.live (.hostPort n) = true ∧
    s.portReady n = true ∧ s.paths.ports[n].txns = [] ∧ sizeOfCode size.toNat = some sz :=
  ⟨portBench, 3, 0, 5, 0, false, true, 5, 0, 256, by decide +kernel⟩

theorem wit_HostPortTraffic_5 : ∃ (s : State) (n : Fin 16) (addr : BitVec 52) (op : BitVec 4) (size : BitVec 3) (hint
    : BitVec 2) (disc : Bool) (urg : Bool) (tag : BitVec 7) (attr : BitVec 16), 64 ≤ s.paths.ports[n].queued
    (HostOp.ofCode op.toNat).writes :=
  ⟨fullPort, 3, 0, 0, 5, 0, false, true, 5, 0, by decide +kernel⟩

theorem wit_HostPortTraffic_6 : ∃ (s : State) (n : Fin 16) (x : HostTxn) (data : List Byte) (strb : List Bool) (last :
    Bool) (l : Nat), s.live (.hostPort n) = true ∧ s.paths.ports[n].txns = [x] ∧ x.port = n ∧ x.op = .write ∧ x.size =
    128 ∧ x.addr % 128 = 0 ∧ x.beatsLeft = 1 ∧ x.discardBeats = false ∧ x.strobeOut = false ∧ x.data = [] ∧ x.strb =
    [] ∧ x.sent = false ∧ data.length = 128 ∧ strb.length = 128 ∧ s.route x.addr = .own l ∧ s.shutdown = false ∧
    s.pwr.failed = false ∧ (s.gf Reg.CACHE_FENCE Fld.CACHE_FENCE_PENDING).testBit (s.sliceOf x.addr) = false :=
  ⟨portBench.modPort 3 (fun h => { h with txns := [benchTxn 1] }), 3, benchTxn 1, List.replicate 128 7, List.replicate
      128 true, true, 128, by decide +kernel⟩

theorem wit_HostPortTraffic_7 : ∃ (s : State) (n : Fin 16) (x : HostTxn) (tag : BitVec 7), s.live (.hostPort n) = true
    ∧ s.paths.ports[n].answering tag.toNat = some x ∧ x.beats ≤ x.beatsOut + 1 ∧ s.tags.live = [] :=
  ⟨portBench.modPort 3 (fun h => { h with txns := [readyTxn] }), 3, readyTxn, 5, by decide +kernel⟩

theorem wit_HostPortTraffic_8 : ∃ (s : State) (n : Fin 16) (addr : BitVec 52) (op : BitVec 4) (size : BitVec 3) (hint
    : BitVec 2) (disc : Bool) (urg : Bool) (tag : BitVec 7) (attr : BitVec 16), s.live (.hostPort n) = true ∧
    s.portReady n = true ∧ s.paths.ports[n].queued (HostOp.ofCode op.toNat).writes < 64 :=
  ⟨portBench, 3, 128, 2, 4, 1, true, false, 9, 0, by decide +kernel⟩

theorem wit_HostPortTraffic_9 : ∃ (s : State) (n : Fin 16) (x : HostTxn) (data : List Byte) (strb : List Bool) (last :
    Bool), s.live (.hostPort n) = true ∧ (s.paths.ports[n].txns.find? fun y => y.discardBeats || decide (0 <
    y.beatsLeft)) = some x :=
  ⟨portBench.modPort 3 (fun h => { h with txns := [{ benchTxn 2 with size := 256, addr := 256 }] }), 3,
      { benchTxn 2 with size := 256, addr := 256 }, List.replicate 128 7, List.replicate 128 true, true,
      by decide +kernel⟩

theorem wit_HostPortTraffic_10 : ∃ (s : State) (n : Fin 16) (x : HostTxn) (tag : BitVec 7), s.live (.hostPort n) =
    true ∧ s.paths.ports[n].answering tag.toNat = some x :=
  ⟨portBench.modPort 3 (fun h => { h with txns := [{ readyTxn with rsp := List.replicate 256 3 }] }), 3,
      { readyTxn with rsp := List.replicate 256 3 }, 5, by decide +kernel⟩

theorem wit_CacheReadsAndWrites_1 : ∃ (s : State) (sl : Fin 16) (n : Fin 16) (r : Req) (rest : List Req) (k : Nat),
    AtHead s sl r rest k ∧ r.op = .read ∧ r.src = .host n ∧ r.hint = .normal ∧ r.prefetch = false ∧
    s.paths.slices[sl].red (lineNo r.addr) = none :=
  ⟨cacheBench (hostReq .read 64 0 [] []), 0, 3, hostReq .read 64 0 [] [], [], 0, by decide +kernel⟩

theorem wit_CacheReadsAndWrites_2 : ∃ (s : State) (sl : Fin 16) (n : Fin 16) (r : Req) (rest : List Req) (k : Nat),
    AtHead s sl r rest k ∧ r.op = .write ∧ r.src = .host n ∧ r.hint = .normal ∧ r.prefetch = false ∧
    s.paths.slices[sl].red (lineNo r.addr) = none :=
  ⟨cacheBench (hostReq .write 64 0 (zeros 64) (List.replicate 64 true)), 0, 3, hostReq .write 64 0 (zeros 64)
      (List.replicate 64 true), [], 0, by decide +kernel⟩

theorem wit_CacheReadsAndWrites_3 : ∃ (s : State) (sl : Fin 16) (n : Fin 16) (r : Req) (rest : List Req) (k : Nat) (e
    : RedEntry), AtHead s sl r rest k ∧ r.op = .write ∧ r.src = .host n ∧ s.paths.slices[sl].red (lineNo r.addr) =
    some e :=
  ⟨redBench (hostReq .write 64 0 (zeros 64) (List.replicate 64 true)), 0, 3, hostReq .write 64 0 (zeros 64)
      (List.replicate 64 true), [], 0, benchRed, by decide +kernel⟩

theorem wit_CacheReadsAndWrites_4 : ∃ (s : State) (sl : Fin 16) (n : Fin 16) (r : Req) (rest : List Req) (k : Nat),
    AtHead s sl r rest k ∧ r.op = .clean ∧ r.src = .host n ∧ r.hint = .normal ∧ (s.paths.slices[sl].way k).isDirty =
    false :=
  ⟨cacheBench (hostReq .clean 64 0 [] []), 0, 3, hostReq .clean 64 0 [] [], [], 0, by decide +kernel⟩

theorem wit_CacheReadsAndWrites_5 : ∃ (s : State) (sl : Fin 16) (n : Fin 16) (r : Req) (rest : List Req) (k : Nat),
    AtHead s sl r rest k ∧ r.op = .clean ∧ r.src = .host n ∧ r.hint = .normal ∧ (s.paths.slices[sl].way k).isDirty =
    true :=
  ⟨dirtyBench (hostReq .clean 64 0 [] []), 0, 3, hostReq .clean 64 0 [] [], [], 0, by decide +kernel⟩

theorem wit_CacheReadsAndWrites_6 : ∃ (s : State) (sl : Fin 16) (r : Req) (rest : List Req), HeadFits s sl r rest ∧
    r.op = .read :=
  ⟨cacheBench { hostReq .read 64 0 [] [] with hint := .last }, 0, { hostReq .read 64 0 [] [] with hint := .last }, [],
      by decide +kernel⟩

theorem wit_CacheReadsAndWrites_7 : ∃ (s : State) (sl : Fin 16) (r : Req) (rest : List Req), HeadFits s sl r rest ∧
    r.op = .write :=
  ⟨cacheBench { hostReq .write 64 0 (zeros 64) (List.replicate 64 true) with hint := .stream }, 0,
      { hostReq .write 64 0 (zeros 64) (List.replicate 64 true) with hint := .stream }, [], by decide +kernel⟩

theorem wit_CacheReadsAndWrites_8 : ∃ (s : State) (sl : Fin 16) (r : Req) (rest : List Req), HeadFits s sl r rest ∧
    r.op = .clean :=
  ⟨dirtyBench { hostReq .clean 64 0 [] [] with hint := .last }, 0, { hostReq .clean 64 0 [] [] with hint := .last },
      [], by decide +kernel⟩

theorem wit_CacheAtomics_1 : ∃ (s : State) (sl : Fin 16) (n : Fin 16) (r : Req) (rest : List Req) (k : Nat) (fmt :
    AtomFormat), AtHead s sl r rest k ∧ r.op = .atomic ∧ r.func = 0 ∧ r.src = .host n ∧ r.hint = .normal ∧ r.prefetch
    = false ∧ r.badAtomic = false ∧ AtomFormat.ofCode r.format = some fmt ∧ s.paths.slices[sl].red (lineNo r.addr) =
    none :=
  ⟨cacheBench (hostReq .atomic 8 256 (leBytes 8 5) (List.replicate 8 true)), 0, 3, hostReq .atomic 8 256 (leBytes 8 5)
      (List.replicate 8 true), [], 0, .int32, by decide +kernel⟩

theorem wit_CacheAtomics_2 : ∃ (s : State) (sl : Fin 16) (n : Fin 16) (r : Req) (rest : List Req) (k : Nat) (fmt :
    AtomFormat), AtHead s sl r rest k ∧ r.op = .atomic ∧ r.func = 1 ∧ r.src = .host n ∧ r.hint = .normal ∧ r.prefetch
    = false ∧ r.badAtomic = false ∧ AtomFormat.ofCode r.format = some fmt ∧ s.paths.slices[sl].red (lineNo r.addr) =
    none :=
  ⟨cacheBench (hostReq .atomic 8 257 (leBytes 8 5) (List.replicate 8 true)), 0, 3, hostReq .atomic 8 257 (leBytes 8 5)
      (List.replicate 8 true), [], 0, .int32, by decide +kernel⟩

theorem wit_CacheAtomics_3 : ∃ (s : State) (sl : Fin 16) (n : Fin 16) (r : Req) (rest : List Req) (k : Nat) (fmt :
    AtomFormat), AtHead s sl r rest k ∧ r.op = .atomic ∧ r.func = 2 ∧ r.src = .host n ∧ r.hint = .normal ∧ r.prefetch
    = false ∧ r.badAtomic = false ∧ AtomFormat.ofCode r.format = some fmt ∧ s.paths.slices[sl].red (lineNo r.addr) =
    none :=
  ⟨cacheBench (hostReq .atomic 8 258 (leBytes 8 5) (List.replicate 8 true)), 0, 3, hostReq .atomic 8 258 (leBytes 8 5)
      (List.replicate 8 true), [], 0, .int32, by decide +kernel⟩

theorem wit_CacheAtomics_4 : ∃ (s : State) (sl : Fin 16) (n : Fin 16) (r : Req) (rest : List Req) (k : Nat) (fmt :
    AtomFormat), AtHead s sl r rest k ∧ r.op = .atomic ∧ r.func = 3 ∧ r.src = .host n ∧ r.hint = .normal ∧ r.prefetch
    = false ∧ r.badAtomic = false ∧ AtomFormat.ofCode r.format = some fmt ∧ s.paths.slices[sl].red (lineNo r.addr) =
    none :=
  ⟨cacheBench (hostReq .atomic 8 259 (leBytes 8 5) (List.replicate 8 true)), 0, 3, hostReq .atomic 8 259 (leBytes 8 5)
      (List.replicate 8 true), [], 0, .int32, by decide +kernel⟩

theorem wit_CacheAtomics_5 : ∃ (s : State) (sl : Fin 16) (n : Fin 16) (r : Req) (rest : List Req) (k : Nat), AtHead s
    sl r rest k ∧ r.op = .atomic ∧ r.func = 4 ∧ r.src = .host n ∧ r.hint = .normal ∧ r.prefetch = false ∧ r.badAtomic
    = false ∧ r.attr.testBit 10 = false ∧ s.paths.slices[sl].red (lineNo r.addr) = none :=
  ⟨cacheBench (hostReq .atomic 16 0x14 (leBytes 16 0) (List.replicate 16 true)), 0, 3, hostReq .atomic 16 0x14
      (leBytes 16 0) (List.replicate 16 true), [], 0, by decide +kernel⟩

theorem wit_CacheAtomics_6 : ∃ (s : State) (sl : Fin 16) (r : Req) (rest : List Req), HeadFits s sl r rest ∧ r.op =
    .atomic ∧ r.func = 0 :=
  ⟨cacheBench { hostReq .atomic 8 256 (leBytes 8 5) (List.replicate 8 true) with hint := .keep }, 0,
      { hostReq .atomic 8 256 (leBytes 8 5) (List.replicate 8 true) with hint := .keep }, [], by decide +kernel⟩

theorem wit_CacheAtomics_7 : ∃ (s : State) (sl : Fin 16) (r : Req) (rest : List Req), HeadFits s sl r rest ∧ r.op =
    .atomic ∧ r.func = 1 :=
  ⟨cacheBench { hostReq .atomic 8 257 (leBytes 8 5) (List.replicate 8 true) with hint := .keep }, 0,
      { hostReq .atomic 8 257 (leBytes 8 5) (List.replicate 8 true) with hint := .keep }, [], by decide +kernel⟩

theorem wit_CacheAtomics_8 : ∃ (s : State) (sl : Fin 16) (r : Req) (rest : List Req), HeadFits s sl r rest ∧ r.op =
    .atomic ∧ r.func = 2 :=
  ⟨cacheBench { hostReq .atomic 8 258 (leBytes 8 5) (List.replicate 8 true) with hint := .keep }, 0,
      { hostReq .atomic 8 258 (leBytes 8 5) (List.replicate 8 true) with hint := .keep }, [], by decide +kernel⟩

theorem wit_CacheAtomics_9 : ∃ (s : State) (sl : Fin 16) (r : Req) (rest : List Req), HeadFits s sl r rest ∧ r.op =
    .atomic ∧ r.func = 3 :=
  ⟨cacheBench { hostReq .atomic 8 259 (leBytes 8 5) (List.replicate 8 true) with hint := .keep }, 0,
      { hostReq .atomic 8 259 (leBytes 8 5) (List.replicate 8 true) with hint := .keep }, [], by decide +kernel⟩

theorem wit_CacheAtomics_10 : ∃ (s : State) (sl : Fin 16) (r : Req) (rest : List Req), HeadFits s sl r rest ∧ r.op =
    .atomic ∧ r.func = 4 :=
  ⟨cacheBench { hostReq .atomic 16 0x414 (leBytes 16 0) (List.replicate 16 true) with hint := .keep }, 0,
      { hostReq .atomic 16 0x414 (leBytes 16 0) (List.replicate 16 true) with hint := .keep }, [], by decide +kernel⟩

theorem wit_CacheReductions_1 : ∃ (s : State) (sl : Fin 16) (n : Fin 16) (r : Req) (rest : List Req) (k : Nat) (fn :
    AtomFunc) (fmt : AtomFormat), AtHead s sl r rest k ∧ r.op = .reduceInto ∧ AtomFunc.ofCode r.func = some fn ∧
    AtomFormat.ofCode r.format = some fmt ∧ r.src = .host n ∧ r.hint = .normal ∧ r.prefetch = false ∧ r.badReduce =
    false ∧ r.contributions ≤ 255 ∧ (s.paths.slices[sl].way k).line = lineNo r.addr ∧ s.paths.slices[sl].red (lineNo
    r.addr) = none ∧ s.paths.slices[sl].redRoom (lineNo r.addr) = true :=
  ⟨cacheBench (hostReq .reduceInto 8 0x100 (leBytes 8 5) (List.replicate 8 true)), 0, 3, hostReq .reduceInto 8 0x100
      (leBytes 8 5) (List.replicate 8 true), [], 0, .add, .int32, by decide +kernel⟩

theorem wit_CacheReductions_2 : ∃ (s : State) (sl : Fin 16) (n : Fin 16) (r : Req) (rest : List Req) (k : Nat) (fn :
    AtomFunc) (fmt : AtomFormat) (e : RedEntry), AtHead s sl r rest k ∧ r.op = .reduceInto ∧ AtomFunc.ofCode r.func =
    some fn ∧ AtomFormat.ofCode r.format = some fmt ∧ r.src = .host n ∧ r.hint = .normal ∧ r.prefetch = false ∧
    r.badReduce = false ∧ (s.paths.slices[sl].way k).line = lineNo r.addr ∧ s.paths.slices[sl].red (lineNo r.addr) =
    some e ∧ e.line = lineNo r.addr ∧ e.func = r.func ∧ e.format = r.format ∧ e.complete = false ∧ e.count +
    r.contributions = e.expected ∧ e.expected ≤ 16777215 :=
  ⟨redBench (hostReq .reduceInto 8 0x100 (leBytes 8 5) (List.replicate 8 true)), 0, 3, hostReq .reduceInto 8 0x100
      (leBytes 8 5) (List.replicate 8 true), [], 0, .add, .int32, benchRed, by decide +kernel⟩

theorem wit_CacheReductions_3 : ∃ (s : State) (sl : Fin 16) (n : Fin 16) (r : Req) (rest : List Req) (k : Nat), AtHead
    s sl r rest k ∧ r.op = .reduceInto ∧ r.func = 8 ∧ r.src = .host n ∧ r.hint = .normal ∧ r.prefetch = false ∧
    r.badReduce = false ∧ (s.paths.slices[sl].way k).line = lineNo r.addr ∧ s.paths.slices[sl].red (lineNo r.addr) =
    none ∧ s.paths.slices[sl].redRoom (lineNo r.addr) = true ∧ 0 < leNat (sliceBytes r.data 0 4) ∧ leNat (sliceBytes
    r.data 0 4) ≤ 16777215 :=
  ⟨cacheBench (hostReq .reduceInto 16 8 (leBytes 16 5) (List.replicate 16 true)), 0, 3, hostReq .reduceInto 16 8
      (leBytes 16 5) (List.replicate 16 true), [], 0, by decide +kernel⟩

theorem wit_CacheReductions_4 : ∃ (s : State) (sl : Fin 16) (n : Fin 16) (r : Req) (rest : List Req) (k : Nat) (e :
    RedEntry), AtHead s sl r rest k ∧ r.op = .reduceInto ∧ r.func = 9 ∧ r.size = 16 ∧ r.src = .host n ∧
    s.paths.slices[sl].red (lineNo r.addr) = some e :=
  ⟨redBench (hostReq .reduceInto 16 9 [] []), 0, 3, hostReq .reduceInto 16 9 [] [], [], 0, benchRed,
      by decide +kernel⟩

theorem wit_CacheReductions_5 : ∃ (s : State) (sl : Fin 16) (n : Fin 16) (r : Req) (rest : List Req) (k : Nat) (e :
    RedEntry), AtHead s sl r rest k ∧ r.op = .reduceInto ∧ r.func = 10 ∧ r.src = .host n ∧ (s.paths.slices[sl].way
    k).deferDrop = false ∧ r.hint ≠ .last ∧ s.paths.slices[sl].red (lineNo r.addr) = some e :=
  ⟨redBench (hostReq .reduceInto 16 10 [] []), 0, 3, hostReq .reduceInto 16 10 [] [], [], 0, benchRed,
      by decide +kernel⟩

theorem wit_CacheReductions_6 : ∃ (s : State) (sl : Fin 16) (r : Req) (rest : List Req), HeadFits s sl r rest ∧ r.op =
    .reduceInto ∧ r.func < 8 :=
  ⟨cacheBench { hostReq .reduceInto 8 256 (leBytes 8 5) (List.replicate 8 true) with hint := .last }, 0,
      { hostReq .reduceInto 8 256 (leBytes 8 5) (List.replicate 8 true) with hint := .last }, [], by decide +kernel⟩

theorem wit_CacheReductions_7 : ∃ (s : State) (sl : Fin 16) (r : Req) (rest : List Req), HeadFits s sl r rest ∧ r.op =
    .reduceInto ∧ r.func = 8 :=
  ⟨cacheBench { hostReq .reduceInto 16 8 (leBytes 16 5) (List.replicate 16 true) with hint := .last }, 0,
      { hostReq .reduceInto 16 8 (leBytes 16 5) (List.replicate 16 true) with hint := .last }, [], by decide +kernel⟩

theorem wit_CacheReductions_8 : ∃ (s : State) (sl : Fin 16) (r : Req) (rest : List Req), HeadFits s sl r rest ∧ r.op =
    .reduceInto ∧ r.func = 9 :=
  ⟨redBench { hostReq .reduceInto 16 9 (leBytes 16 5) (List.replicate 16 true) with hint := .last }, 0,
      { hostReq .reduceInto 16 9 (leBytes 16 5) (List.replicate 16 true) with hint := .last }, [], by decide +kernel⟩

theorem wit_CacheReductions_9 : ∃ (s : State) (sl : Fin 16) (r : Req) (rest : List Req), HeadFits s sl r rest ∧ r.op =
    .reduceInto ∧ r.func = 10 :=
  ⟨redBench { hostReq .reduceInto 16 10 (leBytes 16 5) (List.replicate 16 true) with hint := .last }, 0,
      { hostReq .reduceInto 16 10 (leBytes 16 5) (List.replicate 16 true) with hint := .last }, [], by decide +kernel⟩

theorem wit_CacheQueues_1 : ∃ (s : State) (sl : Fin 16) (r : Req), s.answers sl = true ∧ s.paths.reqXbar = [r] ∧
    s.sliceOf r.addr = sl ∧ s.paths.slices[sl].input.length < 128 ∧ s.paths.slices[sl].misses.length < 256 :=
  ⟨bench.modPaths (fun x => { x with reqXbar := [hostReq .read 64 0 [] []] }), 0, hostReq .read 64 0 [] [],
      by decide +kernel⟩

theorem wit_CacheQueues_2 : ∃ (s : State) (sl : Fin 16) (n : Fin 16) (r : Req) (m : Miss) (k : Nat), s.answers sl =
    true ∧ s.wbLines sl = [] ∧ s.paths.slices[sl].misses = [m] ∧ m.kind = .waiting ∧ m.queue = [r] ∧ m.line = lineNo
    r.addr ∧ r.op = .read ∧ r.src = .host n ∧ r.hint = .normal ∧ r.prefetch = false ∧ s.paths.slices[sl].find (lineNo
    r.addr) = some k ∧ (s.paths.slices[sl].way k).lo.valid = true ∧ (s.paths.slices[sl].way k).hi.valid = true ∧
    (s.paths.slices[sl].way k).lo.poison = false ∧ (s.paths.slices[sl].way k).hi.poison = false ∧
    s.paths.slices[sl].red (lineNo r.addr) = none :=
  ⟨waitBench, 0, 3, hostReq .read 64 0 [] [], (Miss.mk' 0 .waiting none [] false [hostReq .read 64 0 [] []]), 0,
      by decide +kernel⟩

theorem wit_CacheQueues_3 : ∃ (s : State) (sl : Fin 16) (n : Fin 16) (r : Req) (m : Miss) (k : Nat) (i : Nat) (d :
    Ret64), s.answers sl = true ∧ s.wbLines sl = [] ∧ s.paths.rets = [d] ∧ d.owner = .fill sl m.line i ∧ d.bad = false
    ∧ s.paths.slices[sl].misses = [m] ∧ m.kind = .fill ∧ m.current = some r ∧ m.queue = [] ∧ m.sectorsLeft = [i] ∧
    s.paths.slices[sl].find m.line = some k ∧ r.op = .read ∧ r.src = .host n ∧ r.hint = .normal ∧ r.prefetch = false ∧
    r.touched = [i] ∧ i < 2 ∧ s.paths.slices[sl].reds = [] :=
  ⟨fillBench, 0, 3, hostReq .read 64 0 [] [], fillMiss, 0, 0, fillData, by decide +kernel⟩

theorem wit_CacheQueues_4 : ∃ (s : State) (v : Word), s.mgtReady = true ∧ s.live .sensor = true :=
  ⟨bench, 31, by decide +kernel⟩

theorem wit_CacheQueues_5 : ∃ (s : State) (sl : Fin 16), s.live .firmware = true ∧ s.fenced.testBit sl = false ∧
    s.fencePending.testBit sl = false ∧ onesBelow 16 (s.fenced ||| s.fencePending) < 4 ∧ s.sliceIdle sl = false :=
  ⟨cacheBench (hostReq .read 64 0 [] []), 0, by decide +kernel⟩

theorem wit_CacheQueues_6 : ∃ (s : State) (sl : Fin 16), s.live .firmware = true ∧ 4 ≤ onesBelow 16 (s.fenced |||
    s.fencePending) :=
  ⟨bench.sf Reg.CACHE_FENCE Fld.CACHE_FENCE_FENCED 15, 9, by decide +kernel⟩

theorem wit_CacheQueues_7 : ∃ (s : State) (sl : Fin 16) (t0 : Nat), s.live .firmware = true ∧ s.answers sl = false ∧
    s.paths.slices[sl].fence = .draining t0 ∧ t0 + 1000000 ≤ s.clk.pkg :=
  ⟨{ (redBench (hostReq .read 64 0 [] [])).modSlice 0 (fun x => { x with fence := .draining 0, alive := false }) with
          clk := { bench.clk with pkg := 1000000 } }, 0, 0, by decide +kernel⟩

theorem wit_CacheQueues_8 : ∃ (s : State) (sl : Fin 16), s.live .firmware = true ∧ s.paths.slices[sl].fence = .fenced
    ∧ s.fencePending.testBit sl = true ∧ s.straying sl (s.fenced ||| 2 ^ sl.val) = false ∧ s.housed (s.fenced ||| 2 ^
    sl.val) = true ∧ (∀ (i : Fin 16) (ln : Nat), ln ∈ s.paths.slices[i].lines → strays s.fenced (s.fenced ||| 2 ^
    sl.val) (128 * ln) = false) :=
  ⟨(bench.modSlice 5 (fun x => { x with fence := .fenced })).sf Reg.CACHE_FENCE Fld.CACHE_FENCE_PENDING 32, 5,
      by decide +kernel⟩

theorem wit_CacheQueues_9 : ∃ (s : State) (sl : Fin 16), s.answers sl = true ∧ s.paths.slices[sl].fence ≠ .fenced ∧
    s.paths.slices[sl].reds.length < 512 :=
  ⟨(dirtyBench (hostReq .read 64 0 [] [])), 0, by decide +kernel⟩

theorem wit_CacheQueues_10 : ∃ (s : State) (sl : Fin 16) (r : Req), s.answers sl = true ∧ firstForSlice s sl = some r
    ∧ s.paths.slices[sl].input.length < 128 ∧ s.paths.slices[sl].misses.length < 256 :=
  ⟨bench.modPaths (fun x => { x with reqXbar := [hostReq .read 64 0 [] [], hostReq .read 64 0 [] []] }), 0, hostReq
      .read 64 0 [] [], by decide +kernel⟩

theorem wit_CacheQueues_11 : ∃ (s : State) (sl : Fin 16) (m : Miss) (r : Req) (rest : List Req), s.answers sl = true ∧
    (s.paths.slices[sl].misses.find? fun m => m.kind = .waiting ∧ !m.queue.isEmpty) = some m ∧ m.queue = r :: rest ∧
    (((((s.modSlice sl fun x => { x with misses := x.misses.filter fun y => y.line ≠ m.line }).serve sl r).tagPath sl
    r).reattach sl m.line rest).sliceFits sl) = true :=
  ⟨waitBench, 0, (Miss.mk' 0 .waiting none [] false [hostReq .read 64 0 [] []]), hostReq .read 64 0 [] [], [],
      by decide +kernel⟩

theorem wit_CacheQueues_12 : ∃ (s : State) (sl : Fin 16) (m : Miss) (d : Ret64) (ln : Nat) (i : Nat), s.answers sl =
    true ∧ (s.paths.rets.find? fun d => (d.owner.ofSlice sl).isSome) = some d ∧ d.owner.ofSlice sl = some (ln, i) ∧
    (s.paths.slices[sl].misses.find? fun m => m.line = ln ∧ (m.kind = .fill ∨ m.kind = .readThrough)) = some m ∧ ((if
    m.kind = .fill then (s.modPaths fun x => { x with rets := x.rets.erase d }).fillSector sl m i d else (s.modPaths
    fun x => { x with rets := x.rets.erase d }).throughSector sl m i d).sliceFits sl) = true :=
  ⟨fillBench, 0, fillMiss, fillData, 0, 0, by decide +kernel⟩

theorem wit_CacheQueues_13 : ∃ (s : State) (sl : Fin 16), s.live .firmware = true ∧ s.fenced.testBit sl = false ∧
    s.fencePending.testBit sl = false ∧ onesBelow 16 (s.fenced ||| s.fencePending) < 4 :=
  ⟨dirtyBench (hostReq .read 64 0 [] []) |>.modSlice 0 (fun x => { x with input := [] }), 0, by decide +kernel⟩

theorem wit_CacheQueues_14 : ∃ (s : State) (sl : Fin 16), s.live .firmware = true ∧ s.paths.slices[sl].fence = .fenced
    ∧ s.fencePending.testBit sl = true ∧ s.straying sl (s.fenced ||| 2 ^ sl.val) = false ∧ (s.rehouse s.fenced
    (s.fenced ||| 2 ^ sl.val)).housed (s.fenced ||| 2 ^ sl.val) = true :=
  ⟨(bench.modSlice 5 (fun x => { x with fence := .fenced })).sf Reg.CACHE_FENCE Fld.CACHE_FENCE_PENDING 32, 5,
      by decide +kernel⟩

theorem wit_ManagementAccesses_1 : ∃ (s : State) (off : BitVec 24) (v : Word) (events : Word), s.mgtReady = true ∧
    mapped off.toNat = none :=
  ⟨bench, 0x1, 5, 0, by decide +kernel⟩

theorem wit_ManagementAccesses_2 : ∃ (s : State) (off : BitVec 24) (v : Word) (events : Word) (r : RegRow) (i : Nat)
    (j : Nat), s.mgtReady = true ∧ mapped off.toNat = some (r, i, j, false) ∧ r.wide = false ∧ r.emu = false ∧ s.live
    (r.home.island i) = false :=
  ⟨bench.modPwr (fun w => { w with up := Vector.replicate 133 false |>.set 132 true }), BitVec.ofNat 24
      (Reg.PC_TIM_ROW 3), 5, 0, ((mapped (Reg.PC_TIM_ROW 3)).get rfl).1, 3, 0, by decide +kernel⟩

theorem wit_ManagementAccesses_3 : ∃ (s : State) (v : Word) (events : Word), s.mgtReady = true ∧ s.live .sensor = true
    :=
  ⟨bench, 0xFFFF, 0, by decide +kernel⟩

theorem wit_ManagementAccesses_4 : ∃ (s : State), s.mgtReady = true ∧ s.live .sensor = true :=
  ⟨{ bench with clk := { bench.clk with pkg := 5000000000 } }, by decide +kernel⟩

theorem wit_ManagementAccesses_5 : ∃ (s : State), s.mgtReady = true ∧ s.live .sensor = true :=
  ⟨bench, by decide +kernel⟩

theorem wit_ManagementAccesses_6 : ∃ (s : State) (p : Fin 64) (v : Word), s.mgtReady = true ∧ s.live (.pc p) = true :=
  ⟨bench, 3, 77, by decide +kernel⟩

theorem wit_ManagementAccesses_7 : ∃ (s : State) (p : Fin 64) (v : Word) (lo : Word) (rest : List (Nat × Word)),
    s.mgtReady = true ∧ s.live (.pc p) = true ∧ s.bit (Reg.SLOT_STATUS p) Fld.SLOT_STATUS_ARMED = false ∧ s.mgt.hold =
    (Reg.SLOT_SHIFT_TIME p, lo) :: rest :=
  ⟨{ bench with mgt := { bench.mgt with hold := [(Reg.SLOT_SHIFT_TIME 3, 77)] } }, 3, 5, 77, [], by decide +kernel⟩

theorem wit_ManagementAccesses_8 : ∃ (s : State) (v : Word), s.live .sensor = true ∧ s.mgt.waiting = none ∧ s.fwRuns
    .liaison = true :=
  ⟨bench, 0, by decide +kernel⟩

theorem wit_ManagementAccesses_9 : ∃ (s : State) (v : Word) (write : Bool), s.live .sensor = true ∧ s.mgt.waiting =
    none ∧ s.live .firmware = true ∧ s.fwRuns .liaison = false ∧ 4 ≤ s.fwState :=
  ⟨bench.sf Reg.FW_STATUS Fld.FW_STATUS_STATE 6, 0, true, by decide +kernel⟩

theorem wit_ManagementAccesses_10 : ∃ (s : State) (v : Word) (write : Bool), s.live .sensor = true ∧ s.mgt.waiting =
    none ∧ s.fwRuns .liaison = false ∧ s.fwState < 4 :=
  ⟨bench.sf Reg.FW_STATUS Fld.FW_STATUS_STATE 0, 0, true, by decide +kernel⟩

theorem wit_ManagementAccesses_11 : ∃ (s : State) (w : EmuAccess), s.live .sensor = true ∧ s.mgt.waiting = some w ∧
    w.since + 100000 ≤ s.clk.pkg :=
  ⟨{ bench with
          mgt := { bench.mgt with waiting := some (EmuAccess.mk false 0 0 0) },
          clk := { bench.clk with pkg := 100000 } }, (EmuAccess.mk false 0 0 0), by decide +kernel⟩

theorem wit_ManagementAccesses_12 : ∃ (s : State) (off : BitVec 24) (v : Word) (events : Word) (r : RegRow) (i : Nat)
    (j : Nat), s.mgtReady = true ∧ mapped off.toNat = some (r, i, j, false) ∧ r.wide = false ∧ r.emu = false ∧ s.live
    (r.home.island i) = true :=
  ⟨bench, BitVec.ofNat 24 (Reg.PC_ROWPOL 3), 5, 0, ((mapped (Reg.PC_ROWPOL 3)).get rfl).1, 3, 0, by decide +kernel⟩

theorem wit_ManagementAccesses_13 : ∃ (s : State) (off : BitVec 24) (v : Word) (events : Word) (r : RegRow) (i : Nat)
    (j : Nat), s.mgtReady = true ∧ mapped off.toNat = some (r, i, j, false) ∧ off.toNat ∈ limitTable.map (·.1) ∧ r.emu
    = false ∧ s.live (r.home.island i) = true :=
  ⟨bench, BitVec.ofNat 24 Reg.RMT_SLOW_CFG, 5, 0, ((mapped Reg.RMT_SLOW_CFG).get rfl).1, 0, 0, by decide +kernel⟩

theorem wit_ManagementAccesses_14 : ∃ (s : State) (p : Fin 64) (v : Word) (events : Word) (b : Bool), s.mgtReady =
    true ∧ s.live (.pc p) = true ∧ b = s.bit (Reg.PC_SCHED_STATUS p) Fld.PC_SCHED_STATUS_TIMING_CLAMPED :=
  ⟨bench, 3, 0x80000000, 0x80000000, false, by decide +kernel⟩

theorem wit_ManagementAccesses_15 : ∃ (s : State) (off : BitVec 24) (r : RegRow) (i : Nat) (j : Nat), s.mgtReady =
    true ∧ mapped off.toNat = some (r, i, j, false) ∧ r.wide = false ∧ r.emu = false ∧ s.live (r.home.island i) = true
    ∧ off.toNat ≠ Reg.RMT_PT_DATA 0 ∧ off.toNat ≠ Reg.RMT_HIST_DATA 0 :=
  ⟨bench, BitVec.ofNat 24 (Reg.PC_ROWPOL 3), ((mapped (Reg.PC_ROWPOL 3)).get rfl).1, 3, 0, by decide +kernel⟩

theorem wit_ManagementAccesses_16 : ∃ (s : State) (off : BitVec 24) (r : RegRow) (i : Nat) (j : Nat), s.mgtReady =
    true ∧ mapped off.toNat = some (r, i, j, false) ∧ r.wide = true ∧ r.emu = false ∧ s.live (r.home.island i) = true
    :=
  ⟨bench, BitVec.ofNat 24 (Reg.CNT_VAL 1 2), ((mapped (Reg.CNT_VAL 1 2)).get rfl).1, 1, 2, by decide +kernel⟩

theorem wit_ManagementAccesses_17 : ∃ (s : State) (off : BitVec 24) (v : Word) (r : RegRow) (i : Nat) (j : Nat),
    s.mgtReady = true ∧ mapped off.toNat = some (r, i, j, false) ∧ r.wide = true ∧ r.emu = false ∧ s.live
    (r.home.island i) = true :=
  ⟨bench, BitVec.ofNat 24 (Reg.SLOT_SHIFT_TIME 3), 77, ((mapped (Reg.SLOT_SHIFT_TIME 3)).get rfl).1, 3, 0,
      by decide +kernel⟩

theorem wit_ManagementAccesses_18 : ∃ (s : State) (off : BitVec 24) (v : Word) (r : RegRow) (i : Nat) (j : Nat) (lo :
    Word) (rest : List (Nat × Word)), s.mgtReady = true ∧ mapped off.toNat = some (r, i, j, true) ∧ r.emu = false ∧
    s.live (r.home.island i) = true ∧ r.base ≠ Reg.SLOT_SHIFT_TIME 0 ∧ r.base ≠ Reg.RMT_GATE_SHIFT_TIME 0 ∧ off.toNat
    - 4 ∉ ringRegs ∧ s.mgt.hold = (off.toNat - 4, lo) :: rest :=
  ⟨{ bench with mgt := { bench.mgt with hold := [(Reg.BME_TDT_BASE, 0x12345678)] } }, BitVec.ofNat 24
      (Reg.BME_TDT_BASE + 4), 5, ((mapped Reg.BME_TDT_BASE).get rfl).1, 0, 0, 0x12345678, [], by decide +kernel⟩

theorem wit_ManagementAccesses_19 : ∃ (s : State) (off : BitVec 24) (v : Word) (r : RegRow) (i : Nat) (j : Nat),
    s.mgtReady = true ∧ s.live .sensor = true ∧ s.fwRuns .liaison = true ∧ mapped off.toNat = some (r, i, j, false) ∧
    r.emu = true ∧ r.wide = false ∧ off.toNat ≠ Reg.RMT_PT_DATA 0 ∧ off.toNat ≠ Reg.RMT_HIST_DATA 0 :=
  ⟨bench, BitVec.ofNat 24 Reg.FW_AGEING_CFG, 0, ((mapped Reg.FW_AGEING_CFG).get rfl).1, 0, 0, by decide +kernel⟩

theorem wit_ManagementAccesses_20 : ∃ (s : State) (off : BitVec 24) (v : Word) (r : RegRow) (i : Nat) (j : Nat),
    s.mgtReady = true ∧ s.live .sensor = true ∧ s.fwRuns .liaison = true ∧ mapped off.toNat = some (r, i, j, false) ∧
    off.toNat ∈ [Reg.FW_MARGIN_CFG, Reg.FW_AGEING_CFG] :=
  ⟨bench, BitVec.ofNat 24 Reg.FW_AGEING_CFG, 0xFFFF, ((mapped Reg.FW_AGEING_CFG).get rfl).1, 0, 0, by decide +kernel⟩

theorem wit_BootAndReplay_1 : ∃ (s : State) (v : Word), Reached s ∧ s.straps.chainHead = false ∧ s.pkg.goAt = none :=
  ⟨bench, 0, by decide +kernel⟩

theorem wit_BootAndReplay_2 : ∃ (s : State) (v : Word), Reached s ∧ s.pkg.goAt.isSome = true :=
  ⟨bench.modPkg (fun x => { x with goAt := some 0 }), 3, by decide +kernel⟩

theorem wit_BootAndReplay_3 : ∃ (s : State) (t0 : Nat), s.fwRuns .steward = true ∧ s.straps.chainHead = true ∧
    s.numbered = true ∧ s.pkg.trainSent = false ∧ s.pkg.goAt = some t0 ∧ t0 + s.gf Reg.FW_BOOT_CTRL
    Fld.FW_BOOT_CTRL_GO_WAIT_MS * 1000000 ≤ s.clk.pkg :=
  ⟨{ bench.modPkg (fun x => { x with goAt := some 0 }) with
          straps := { bench.straps with chainHead := true }, clk := { bench.clk with pkg := 65536000000 } }, 0,
      by decide +kernel⟩

theorem wit_BootAndReplay_4 : ∃ (s : State) (v : Word), Reached s :=
  ⟨bench, 0x01020304, by decide +kernel⟩

theorem wit_BootAndReplay_5 : ∃ (s : State) (len : BitVec 24), Reached s :=
  ⟨bench, 5, by decide +kernel⟩

theorem wit_BootAndReplay_6 : ∃ (s : State) (len : BitVec 24) (info : Option LedgerInfo) (repair : Option RepairInfo)
    (fails : List MemFail), Reached s ∧ s.phase ≠ 5 :=
  ⟨bench, 5, none, none, [], by decide +kernel⟩

theorem wit_BootAndReplay_7 : ∃ (s : State) (info : Option LedgerInfo) (repair : Option RepairInfo) (fails : List
    MemFail), Reached s ∧ s.phase = 5 ∧ s.bit Reg.FW_BOOT_CTRL Fld.FW_BOOT_CTRL_LEDGER = false ∧ s.bit
    Reg.FW_BOOT_CTRL Fld.FW_BOOT_CTRL_MEMTEST = false ∧ s.gf Reg.PC_MARK_STATUS Fld.PC_MARK_STATUS_RESULT = 0 ∧
    s.scrubbing = false :=
  ⟨bench.sf Reg.FW_BOOT_STATUS Fld.FW_BOOT_STATUS_PHASE 5, none, none, [], by decide +kernel⟩

theorem wit_BootAndReplay_8 : ∃ (s : State) (w : Word), s.fwRuns .upkeep = true ∧ s.chain.taken = [(true, w)] ∧ cwKind
    w = 6 ∧ natBits (cwArg w) 16 7 = 5 ∧ s.straps.chainHead = false :=
  ⟨((bench.sf Reg.FW_BOOT_STATUS Fld.FW_BOOT_STATUS_PHASE 7).wr (Reg.THERM_SNS_READ 32) 0x8000012C).modChain (fun c =>
      { c with taken := [(true, chainWord 6 true 0 0x50000)] }), chainWord 6 true 0 0x50000, by decide +kernel⟩

theorem wit_BootAndReplay_9 : ∃ (s : State), s.fwRuns .steward = true ∧ s.phase = 1 ∧ s.enumFailed = true ∧ s.pkg.goAt
    = none :=
  ⟨(bench.sf Reg.FW_BOOT_STATUS Fld.FW_BOOT_STATUS_PHASE 1).raise Reg.D2D_RING_STATUS Fld.D2D_RING_STATUS_ENUM_FAULT,
      by decide +kernel⟩

theorem wit_BootAndReplay_10 : ∃ (s : State) (repair : Option RepairInfo), s.pins.porstN = true ∧ s.pins.vddOk = true
    ∧ s.pins.dieRstN = false ∧ s.pins.dieWrstReqN = true :=
  ⟨(bench.modPins (fun p => { p with dieRstN := false })).modPwr (fun w =>
      { w with up := Vector.replicate 133 false }), none, by decide +kernel⟩

theorem wit_BootAndReplay_11 : ∃ (s : State) (v : Word), Reached s :=
  ⟨bench, 7, by decide +kernel⟩

theorem wit_BootAndReplay_12 : ∃ (s : State) (len : BitVec 24) (info : Option LedgerInfo) (repair : Option RepairInfo)
    (fails : List MemFail), Reached s ∧ s.phase = 5 :=
  ⟨bench.sf Reg.FW_BOOT_STATUS Fld.FW_BOOT_STATUS_PHASE 5, 1, none, none, [], by decide +kernel⟩

theorem wit_BootAndReplay_13 : ∃ (s : State) (fails : List MemFail), s.fwRuns .upkeep = true ∧ (s.takeCmd 5).isSome =
    true :=
  ⟨(bench.wr (Reg.THERM_SNS_READ 32) 0x8000012C).modChain (fun c =>
      { c with taken := [(true, chainWord 6 true 0 0x50000)] }), [MemFail.mk 64 0 0 5 0], by decide +kernel⟩

theorem wit_BootAndReplay_14 : ∃ (s : State), s.fwRuns .steward = true ∧ s.phase = 4 ∧ s.pkg.noRange = true ∧
    s.pkg.reported = true :=
  ⟨(bench.sf Reg.FW_BOOT_STATUS Fld.FW_BOOT_STATUS_PHASE 4).modPkg (fun x =>
      { x with noRange := true, reported := true }), by decide +kernel⟩

theorem wit_QueueControl_1 : ∃ (s : State) (q : Fin 64) (tail : Word), Reached s ∧ s.fwState = 4 ∧ s.qState q = 1 ∧
    ahead (s.qHead q) tail.toNat ≤ s.qSlots q ∧ ahead (s.qTail q) tail.toNat < 2 ^ 31 ∧ tail.toNat ≠ s.qTail q :=
  ⟨queueBench, 3, 5, by decide +kernel⟩

theorem wit_QueueControl_2 : ∃ (s : State) (q : Fin 64) (tail : Word), Reached s ∧ s.fwState = 4 ∧ s.qState q = 1 ∧
    s.qSlots q < ahead (s.qHead q) tail.toNat :=
  ⟨queueBench, 3, 17, by decide +kernel⟩

theorem wit_QueueControl_3 : ∃ (s : State) (q : Fin 64) (tail : Word), Reached s ∧ s.fwState = 5 :=
  ⟨queueBench.sf Reg.FW_STATUS Fld.FW_STATUS_STATE 5, 3, 5, by decide +kernel⟩

theorem wit_QueueControl_4 : ∃ (s : State) (q : Fin 64) (v : Word), Reached s ∧ s.bit (Reg.FW_QCFG q)
    Fld.FW_QCFG_ENABLE = false ∧ s.qState q = 0 ∧ 4 ≤ natBits v.toNat Fld.FW_QCFG_LOG2_ENTRIES.lo
    Fld.FW_QCFG_LOG2_ENTRIES.width ∧ natBits v.toNat Fld.FW_QCFG_LOG2_ENTRIES.lo Fld.FW_QCFG_LOG2_ENTRIES.width ≤ 16 ∧
    s.inOwn (s.qBase (Reg.FW_QRING q)) (256 * 2 ^ natBits v.toNat Fld.FW_QCFG_LOG2_ENTRIES.lo
    Fld.FW_QCFG_LOG2_ENTRIES.width) = true ∧ s.inOwn (s.qBase (Reg.FW_QREPLY q)) (32 * 2 ^ natBits v.toNat
    Fld.FW_QCFG_LOG2_ENTRIES.lo Fld.FW_QCFG_LOG2_ENTRIES.width) = true :=
  ⟨bench, 3, 0x40000, by decide +kernel⟩

theorem wit_QueueControl_5 : ∃ (s : State) (q : Fin 64) (v : Word), Reached s ∧ s.bit (Reg.FW_QCFG q)
    Fld.FW_QCFG_ENABLE = false ∧ s.qState q = 0 ∧ natBits v.toNat Fld.FW_QCFG_LOG2_ENTRIES.lo
    Fld.FW_QCFG_LOG2_ENTRIES.width < 4 :=
  ⟨bench, 3, 0, by decide +kernel⟩

theorem wit_QueueControl_6 : ∃ (s : State) (q : Fin 64) (v : Word), Reached s ∧ s.qState q ≠ 3 ∧ (∀ x ∈
    s.sched.packets, x.queue ≠ q) :=
  ⟨queueBench, 3, 0, by decide +kernel⟩

theorem wit_QueueControl_7 : ∃ (s : State) (q : Fin 64) (ack : Word), Reached s :=
  ⟨bench, 3, 5, by decide +kernel⟩

theorem wit_QueueControl_8 : ∃ (s : State) (q : Fin 64) (v : Word), Reached s ∧ s.qState q ≠ 3 :=
  ⟨queueBench.modSched (fun c =>
      { c with packets := [benchPk 0 4 .taken, { benchPk 1 4 .running with index := 1 }] }), 3, 0, by decide +kernel⟩

theorem wit_PacketsThroughAQueue_1 : ∃ (s : State) (q : Fin 64), s.fetches = true ∧ s.sched.packets.length < 256 ∧ (∀
    x ∈ s.sched.packets, x.stage ≠ .fetched) ∧ s.nextQueue = some q ∧ OwnLine s (s.qBase (Reg.FW_QRING q) + 256 *
    (s.qHead q % s.qSlots q)) ∧ (s.peek (s.qBase (Reg.FW_QRING q) + 256 * (s.qHead q % s.qSlots q)) 128).1 = .ok ∧
    leNat (sliceBytes (s.peek (s.qBase (Reg.FW_QRING q) + 256 * (s.qHead q % s.qSlots q)) 128).2 2 2) ≤ 16 :=
  ⟨queueBench.wr (Reg.FW_QDB 3) 2, 3, by decide +kernel⟩

theorem wit_PacketsThroughAQueue_2 : ∃ (s : State) (q : Fin 64), s.fetches = true ∧ s.sched.packets.length < 256 ∧ (∀
    x ∈ s.sched.packets, x.stage ≠ .fetched) ∧ s.nextQueue = some q ∧ OwnLine s (s.qBase (Reg.FW_QRING q) + 256 *
    (s.qHead q % s.qSlots q)) ∧ (s.peek (s.qBase (Reg.FW_QRING q) + 256 * (s.qHead q % s.qSlots q)) 128).1 ≠ .ok :=
  ⟨{ queueBench.wr (Reg.FW_QDB 3) 2 with stack := { bench.stack with cells := [(0, 255)] } }, 3, by decide +kernel⟩

theorem wit_PacketsThroughAQueue_3 : ∃ (s : State) (p : Packet), s.fwRuns .scheduler = true ∧ s.sched.packets.find?
    (fun x => x.stage = .fetched) = some p ∧ (p.reads.all fun i => s.doneStatus i = .ok) = true ∧ s.travels (fun r =>
    p.reads.contains r.id) = false ∧ p.headerRefusal = none ∧ p.isNoop = false :=
  ⟨pkBench [benchPk 0 4 .fetched], benchPk 0 4 .fetched, by decide +kernel⟩

theorem wit_PacketsThroughAQueue_4 : ∃ (s : State) (p : Packet), s.fwRuns .scheduler = true ∧ s.sched.packets.find?
    (fun x => x.stage = .fetched) = some p ∧ (p.reads.all fun i => s.doneStatus i = .ok) = true ∧ s.travels (fun r =>
    p.reads.contains r.id) = false ∧ p.seq ≠ p.index ∧ s.qState p.queue = 1 :=
  ⟨queueBench.modSched (fun c => { c with packets := [{ benchPk 0 4 .fetched with index := 5 }] }),
      { benchPk 0 4 .fetched with index := 5 }, by decide +kernel⟩

theorem wit_PacketsThroughAQueue_5 : ∃ (s : State) (q : Fin 64) (p : Packet), s.fwRuns .scheduler = true ∧ s.front q =
    some p ∧ p.cancelled = false ∧ (p.fenceBefore = true → ∀ x ∈ s.earlier p, s.completed x = true) ∧ (∀ x ∈ s.earlier
    p, x.opcode = 1 → s.completed x = true) ∧ s.engineFree p.opcode = true ∧ s.shutdown = false :=
  ⟨pkBench [benchPk 0 4 .taken], 3, benchPk 0 4 .taken, by decide +kernel⟩

theorem wit_PacketsThroughAQueue_6 : ∃ (s : State) (q : Fin 64) (p : Packet) (x : Packet), s.fwRuns .scheduler = true
    ∧ s.front q = some p ∧ p.cancelled = false ∧ x ∈ s.earlier p ∧ x.opcode = 1 ∧ s.completed x = false :=
  ⟨pkBench [benchPk 1 4 .running, { benchPk 0 4 .taken with index := 1 }], 3, { benchPk 0 4 .taken with index := 1 },
      benchPk 1 4 .running, by decide +kernel⟩

theorem wit_PacketsThroughAQueue_7 : ∃ (s : State) (p : Packet), s.fwRuns .scheduler = true ∧ s.shutdown = false ∧
    s.settleOps = s ∧ s.sched.replies.find? (fun r => !s.inFlight r.1) = none ∧ s.sched.packets.find? (fun x =>
    s.completed x ∧ !(s.sched.replies.any fun r => r.2 = x.key)) = some p ∧ OwnAt s (s.qBase (Reg.FW_QREPLY p.queue) +
    32 * (p.index % s.qSlots p.queue)) :=
  ⟨pkBench [benchPk 0 4 (.done .ok 0 0)], benchPk 0 4 (.done .ok 0 0), by decide +kernel⟩

theorem wit_PacketsThroughAQueue_8 : ∃ (s : State) (i : Nat) (k : Pk), s.fwRuns .scheduler = true ∧ s.settleOps = s ∧
    s.sched.replies.find? (fun r => !s.inFlight r.1) = some (i, k) ∧ s.doneStatus i = .ok ∧ s.qState (qFin k.1) ≠ 3 :=
  ⟨(pkBench [benchPk 0 4 (.done .ok 0 0)]).modSched (fun c => { c with replies := [(0, (3, 0))] }), 0, (3, 0),
      by decide +kernel⟩

theorem wit_PacketsThroughAQueue_9 : ∃ (s : State) (p : Packet), s.fwRuns .scheduler = true ∧ s.waitingPk (fun x =>
    x.opcode = 0) = some p :=
  ⟨pkBench [benchPk 0 4 .running], benchPk 0 4 .running, by decide +kernel⟩

theorem wit_PacketsThroughAQueue_10 : ∃ (s : State) (p : Packet), s.fwRuns .scheduler = true ∧ p ∈ s.sched.packets ∧
    p.opcode = 1 ∧ p.stage = .running ∧ (∀ x ∈ s.sched.packets, x.opcode = 1 → x.stage = .running → x = p) ∧ (p.nat 12
    1).testBit 1 = false ∧ s.fenceMet p = true :=
  ⟨pkBench [benchPk 1 4 .running], benchPk 1 4 .running, by decide +kernel⟩

theorem wit_PacketsThroughAQueue_11 : ∃ (s : State) (p : Packet), s.fwRuns .scheduler = true ∧ p ∈ s.sched.packets ∧
    p.opcode = 1 ∧ p.stage = .running ∧ (∀ x ∈ s.sched.packets, x.opcode = 1 → x.stage = .running → x = p) ∧ (p.nat 12
    1).testBit 1 = true ∧ p.addr 16 % 8 ≠ 0 :=
  ⟨pkBench [{ benchPk 1 4 .running with bytes := patch (benchPk 1 4 .running).bytes 12 [2, 0, 0, 0, 1] }],
      { benchPk 1 4 .running with bytes := patch (benchPk 1 4 .running).bytes 12 [2, 0, 0, 0, 1] }, by decide +kernel⟩

theorem wit_PacketsThroughAQueue_12 : ∃ (s : State) (p : Packet), s.fwRuns .scheduler = true ∧ s.sched.packets.find?
    (fun x => x.stage = .fetched) = some p ∧ (p.reads.any fun i => s.doneStatus i ≠ .ok) = true ∧ s.travels (fun r =>
    p.reads.contains r.id) = false ∧ s.qState p.queue = 1 :=
  ⟨(queueBench.modSched (fun c => { c with packets := [{ benchPk 0 4 .fetched with reads := [7] }] })).modPaths (fun x
      => { x with
          done := [{ req := quietRead 7 0 .firmware .last 1 0 128, status := .poisoned, data := [], at_ := 0 }] }),
      { benchPk 0 4 .fetched with reads := [7] }, by decide +kernel⟩

theorem wit_PacketsThroughAQueue_13 : ∃ (s : State) (p : Packet), s.fwRuns .scheduler = true ∧ p ∈ s.sched.packets ∧
    p.opcode = 1 ∧ p.stage = .running ∧ (∀ x ∈ s.sched.packets, x.opcode = 1 → x.stage = .running → x = p) ∧ (p.nat 12
    1).testBit 1 = true ∧ p.addr 16 % 8 = 0 ∧ s.fenceMet p = true ∧ p.writes = [] ∧ OwnAt s (p.addr 16) :=
  ⟨pkBench [{ benchPk 1 4 .running with bytes := patch (benchPk 1 4 .running).bytes 12 [2], writes := [] }],
      { benchPk 1 4 .running with bytes := patch (benchPk 1 4 .running).bytes 12 [2], writes := [] },
      by decide +kernel⟩

theorem wit_PacketsThroughAQueue_14 : ∃ (s : State) (p : Packet) (i : Nat), s.fwRuns .scheduler = true ∧ p ∈
    s.sched.packets ∧ p.opcode = 1 ∧ p.stage = .running ∧ (∀ x ∈ s.sched.packets, x.opcode = 1 → x.stage = .running →
    x = p) ∧ (p.nat 12 1).testBit 1 = true ∧ p.addr 16 % 8 = 0 ∧ s.fenceMet p = true ∧ p.writes = [i] ∧ s.inFlight i =
    false :=
  ⟨pkBench [{ benchPk 1 4 .running with bytes := patch (benchPk 1 4 .running).bytes 12 [2], writes := [7] }],
      { benchPk 1 4 .running with bytes := patch (benchPk 1 4 .running).bytes 12 [2], writes := [7] }, 7,
      by decide +kernel⟩

theorem wit_CleansCollectivesAndCancel_1 : ∃ (s : State) (p : Packet), s.fwRuns .scheduler = true ∧ s.sched.clean =
    none ∧ s.waitingPk (fun x => x.opcode = 6) = some p ∧ s.cleanRefusal (p.addr 16) (natBits (p.nat 24 8) 0 38) =
    none :=
  ⟨pkBench [{ benchPk 6 4 .running with bytes := patch (benchPk 6 4 .running).bytes 24 [128] }],
      { benchPk 6 4 .running with bytes := patch (benchPk 6 4 .running).bytes 24 [128] }, by decide +kernel⟩

theorem wit_CleansCollectivesAndCancel_2 : ∃ (s : State) (c : CleanOp), s.fwRuns .scheduler = true ∧ s.sched.clean =
    some c ∧ (∀ sl : Fin 16, s.paths.slices[sl].sweep = none) ∧ s.paths.memXbar = [] :=
  ⟨(pkBench [benchPk 6 4 .running]).modSched (fun x => { x with clean := some benchClean }), benchClean,
      by decide +kernel⟩

theorem wit_CleansCollectivesAndCancel_3 : ∃ (s : State) (sl : Fin 16) (k : Nat) (st : Nat) (addr : Nat) (bytes :
    Nat), s.answers sl = true ∧ s.paths.slices[sl].sweep = some (st, addr, bytes, false, false) ∧
    s.paths.slices[sl].input = [] ∧ s.paths.slices[sl].misses = [] ∧ (setKeys st).filter (fun j =>
    (s.paths.slices[sl].way j).used && inRange addr bytes (s.paths.slices[sl].way j).base) = [k] ∧
    (s.paths.slices[sl].way k).isDirty = true ∧ s.wbUsed sl < 64 :=
  ⟨cleanBench, 0, 0, 0, 0, 128, by decide +kernel⟩

theorem wit_CleansCollectivesAndCancel_4 : ∃ (s : State) (p : Packet), s.fwRuns .scheduler = true ∧ s.waitingPk (fun x
    => x.opcode = 7) = some p ∧ s.collRefusal p = none :=
  ⟨pkBench [{ benchPk 7 5 .running with bytes := patch (benchPk 7 5 .running).bytes 14 [1, 0, 4] }],
      { benchPk 7 5 .running with bytes := patch (benchPk 7 5 .running).bytes 14 [1, 0, 4] }, by decide +kernel⟩

theorem wit_CleansCollectivesAndCancel_5 : ∃ (s : State) (c : Coll) (rest : List Coll), s.fwRuns .scheduler = true ∧
    s.waitingPk (fun x => x.opcode = 7) = none ∧ s.sched.colls = c :: rest ∧ c.phase = .notifying ∧ c.toNotify = [] ∧
    c.awaiting = [] ∧ c.overcount = none ∧ c.failed = none :=
  ⟨bench.modSched (fun x => { x with colls := [benchColl .notifying 0] }), benchColl .notifying 0, [],
      by decide +kernel⟩

theorem wit_CleansCollectivesAndCancel_6 : ∃ (s : State) (c : Coll) (a : Nat) (rest : List Nat), s.fwRuns .scheduler =
    true ∧ s.inbox.notices = a :: rest ∧ s.sched.colls = [c] ∧ c.phase = .waiting ∧ c.addr ≤ a ∧ (a - c.addr) / 128 <
    c.lines ∧ (a - c.addr) / 128 ∉ c.complete ∧ c.complete.length + 1 = c.lines ∧ c.release = false :=
  ⟨(bench.modSched (fun x => { x with colls := [benchColl .waiting 0] })).modInbox (fun b =>
      { b with notices := [0] }), benchColl .waiting 0, 0, [], by decide +kernel⟩

theorem wit_CleansCollectivesAndCancel_7 : ∃ (s : State) (c : Coll), s.fwRuns .scheduler = true ∧ s.sched.colls = [c]
    ∧ c.phase = .waiting ∧ c.timeoutUs ≠ 0 ∧ ((AtomFormat.ofCode c.format).bind AtomFormat.shape).isSome = true ∧ (0 <
    c.armed ∨ c.arm.isSome = true) ∧ c.armedAt + c.timeoutUs * 1000 ≤ s.now .firmware :=
  ⟨{ bench with clk := { bench.clk with locals := Vector.replicate 132 5000 } }.modSched (fun x =>
      { x with colls := [{ benchColl .waiting 1 with format := 2, armed := 1 }] }),
      { benchColl .waiting 1 with format := 2, armed := 1 }, by decide +kernel⟩

theorem wit_CleansCollectivesAndCancel_8 : ∃ (s : State) (p : Packet), s.fwRuns .scheduler = true ∧
    s.sched.packets.find? (fun x => x.opcode = 8 ∧ x.stage = .taken) = some p ∧ p.cancelled = false ∧ s.cancelTarget p
    = none :=
  ⟨pkBench [benchPk 8 4 .taken], benchPk 8 4 .taken, by decide +kernel⟩

theorem wit_CleansCollectivesAndCancel_9 : ∃ (s : State) (p : Packet) (x : Packet), s.fwRuns .scheduler = true ∧
    s.sched.packets.find? (fun y => y.opcode = 8 ∧ y.stage = .taken) = some p ∧ p.cancelled = false ∧ s.cancelTarget p
    = some x ∧ x.stage = .taken :=
  ⟨pkBench [{ benchPk 8 4 .taken with bytes := patch (benchPk 8 4 .taken).bytes 12 [3, 0, 0, 0, 9] },
      { benchPk 0 4 .taken with index := 1, bytes := patch (benchPk 0 4 .taken).bytes 4 [9] }],
      { benchPk 8 4 .taken with bytes := patch (benchPk 8 4 .taken).bytes 12 [3, 0, 0, 0, 9] },
      { benchPk 0 4 .taken with index := 1, bytes := patch (benchPk 0 4 .taken).bytes 4 [9] }, by decide +kernel⟩

theorem wit_CleansCollectivesAndCancel_10 : ∃ (s : State) (c : Coll), s.fwRuns .scheduler = true ∧ s.sched.colls.find?
    (fun c => c.phase = .waiting ∧ c.timeoutUs ≠ 0 ∧ c.armedAt + c.timeoutUs * 1000 ≤ s.now .firmware) = some c ∧
    ((AtomFormat.ofCode c.format).bind AtomFormat.shape).isNone = true :=
  ⟨{ bench with clk := { bench.clk with locals := Vector.replicate 132 5000 } }.modSched (fun x =>
      { x with colls := [benchColl .waiting 1] }), benchColl .waiting 1, by decide +kernel⟩

theorem wit_CleansCollectivesAndCancel_11 : ∃ (s : State) (sl : Fin 16) (st : Nat) (addr : Nat) (bytes : Nat) (drop :
    Bool) (discard : Bool), s.answers sl = true ∧ s.paths.slices[sl].sweep = some (st, addr, bytes, drop, discard) ∧
    (∀ r ∈ s.paths.slices[sl].input, ¬ (setOfLine (lineNo r.addr) = st ∧ inRange addr bytes (r.addr / 128 * 128) =
    true)) ∧ s.paths.slices[sl].misses = [] ∧ s.wbUsed sl + 16 ≤ 64 :=
  ⟨cleanBench, 0, 0, 0, 128, false, false, by decide +kernel⟩

theorem wit_CleansCollectivesAndCancel_12 : ∃ (s : State) (c : Coll) (rest : List Coll), s.fwRuns .scheduler = true ∧
    s.waitingPk (fun x => x.opcode = 7) = none ∧ s.sched.colls = c :: rest ∧ c.phase = .arming ∧ s.collLost c = none ∧
    c.arm = none ∧ c.armed < c.lines ∧ OwnAt s (c.addr + 128 * c.armed) :=
  ⟨bench.modSched (fun x => { x with colls := [benchColl .arming 0] }), benchColl .arming 0, [], by decide +kernel⟩

theorem wit_CleansCollectivesAndCancel_13 : ∃ (s : State) (c : Coll) (a : Nat) (rest : List Nat), s.fwRuns .scheduler
    = true ∧ s.inbox.notices = a :: rest ∧ s.sched.colls.find? (fun c => c.phase ≠ .notifying ∧ c.addr ≤ a ∧ (a -
    c.addr) / 128 < c.lines ∧ (a - c.addr) / 128 ∉ c.complete) = some c ∧ (c.phase = .waiting → c.complete.length + 1
    < c.lines) :=
  ⟨(bench.modSched (fun x => { x with colls := [{ benchColl .waiting 0 with lines := 3 }] })).modInbox (fun b =>
      { b with notices := [128] }), { benchColl .waiting 0 with lines := 3 }, 128, [], by decide +kernel⟩

theorem wit_CleansCollectivesAndCancel_14 : ∃ (s : State) (p : Packet) (x : Packet), s.fwRuns .scheduler = true ∧
    s.sched.packets.find? (fun y => y.opcode = 8 ∧ y.stage = .taken) = some p ∧ p.cancelled = false ∧ s.cancelTarget p
    = some x ∧ x.isDone = true :=
  ⟨pkBench [{ benchPk 8 4 .taken with bytes := patch (benchPk 8 4 .taken).bytes 12 [3, 0, 0, 0, 9] },
      { benchPk 0 4 (.done .ok 0 0) with index := 1, bytes := patch (benchPk 0 4 (.done .ok 0 0)).bytes 4 [9] }],
      { benchPk 8 4 .taken with bytes := patch (benchPk 8 4 .taken).bytes 12 [3, 0, 0, 0, 9] },
      { benchPk 0 4 (.done .ok 0 0) with index := 1, bytes := patch (benchPk 0 4 (.done .ok 0 0)).bytes 4 [9] },
      by decide +kernel⟩

theorem wit_CleansCollectivesAndCancel_15 : ∃ (s : State) (p : Packet) (x : Packet), s.fwRuns .scheduler = true ∧
    s.sched.packets.find? (fun y => y.opcode = 8 ∧ y.stage = .taken) = some p ∧ p.cancelled = false ∧ s.cancelTarget p
    = some x ∧ x.stage = .running ∧ s.seq.ops.all (fun o => o.pk ≠ x.key) = true ∧ s.sched.colls.all (fun c => c.pk ≠
    x.key) = true ∧ (∀ c, s.sched.clean = some c → c.pk ≠ x.key) :=
  ⟨pkBench [{ benchPk 8 4 .taken with bytes := patch (benchPk 8 4 .taken).bytes 12 [3, 0, 0, 0, 9] },
      { benchPk 0 4 .running with index := 1, bytes := patch (benchPk 0 4 .running).bytes 4 [9] }],
      { benchPk 8 4 .taken with bytes := patch (benchPk 8 4 .taken).bytes 12 [3, 0, 0, 0, 9] },
      { benchPk 0 4 .running with index := 1, bytes := patch (benchPk 0 4 .running).bytes 4 [9] }, by decide +kernel⟩

theorem wit_SignatureIntakeAndGather_1 : ∃ (s : State) (p : Packet), s.live .firmware = true ∧ s.waitingPk (fun x =>
    x.opcode = 2) = some p ∧ s.gf Reg.BME_TDT_SIZE Fld.BME_TDT_SIZE_ENTRIES ≤ p.nat 12 2 :=
  ⟨engBench tableLine [{ sigPacket with bytes := patch sigPacket.bytes 12 [7] }] [],
      { sigPacket with bytes := patch sigPacket.bytes 12 [7] }, by decide +kernel⟩

theorem wit_SignatureIntakeAndGather_2 : ∃ (s : State) (p : Packet) (d0 : Desc) (u : State) (v : State) (w : State)
    (ob : List Byte) (ib : List Byte), s.live .firmware = true ∧ s.waitingPk (fun x => x.opcode = 2) = some p ∧
    s.readDesc p.sigParams.table = (some d0, u) ∧ p.sigParams.bad d0 = none ∧ u.outside [(6, .flat p.sigParams.offs (4
    * (p.sigParams.bags + 1)))] = none ∧ u.bmeFetch .normal p.sigParams.offs (4 * (p.sigParams.bags + 1)) = ((.ok,
    ob), v) ∧ v.outside (p.sigParams.arrays ((words32 ob).getD 0 0) ((words32 ob).getD p.sigParams.bags 0) ++
    p.sigParams.writes d0) = none ∧ firstOverlap (d0.area :: .flat p.sigParams.offs (4 * (p.sigParams.bags + 1)) ::
    (p.sigParams.arrays ((words32 ob).getD 0 0) ((words32 ob).getD p.sigParams.bags 0)).map (·.2)) (p.sigParams.writes
    d0) = none ∧ v.noSubstitute = false ∧ badOffset (words32 ob) = none ∧ v.bmeFetch .normal (p.sigParams.inds + 4 *
    (words32 ob).getD 0 0) (4 * ((words32 ob).getD p.sigParams.bags 0 - (words32 ob).getD 0 0)) = ((.ok, ib), w) ∧ (∀
    i, i < (words32 ob).getD p.sigParams.bags 0 - (words32 ob).getD 0 0 → d0.first ≤ (words32 ib).getD i 0 ∧ (words32
    ib).getD i 0 < d0.first + d0.rows) :=
  ⟨engBench tableLine [sigPacket] [], sigPacket, sigDesc, ((engBench tableLine [sigPacket] []).readDesc 0).2,
      (((engBench tableLine [sigPacket] []).readDesc 0).2.bmeFetch .normal 32 8).2, ((((engBench tableLine [sigPacket]
      []).readDesc 0).2.bmeFetch .normal 32 8).2.bmeFetch .normal 40 4).2, leBytes 4 0 ++ leBytes 4 1, leBytes 4 0,
      by decide +kernel⟩

theorem wit_SignatureIntakeAndGather_3 : ∃ (s : State) (o : SigOp), s.live .firmware = true ∧ OneSig s o ∧
    s.seq.remoteQueue = [] ∧ o.gather.length < 4 ∧ s.shutdown = false ∧ (o.next < o.limit ∨ o.redo ≠ []) ∧ o.mode ≠
    .weighted :=
  ⟨sigBench sigOp, sigOp, by decide +kernel⟩

theorem wit_SignatureIntakeAndGather_4 : ∃ (s : State) (r : SigOp) (rest : List SigOp), s.live .firmware = true ∧
    s.seq.ops = [] ∧ s.seq.remoteRun = [] ∧ s.seq.remoteQueue = r :: rest ∧ s.shutdown = false :=
  ⟨(engBench tableLine [] []).modSeq (fun q => { q with remoteQueue := [{ sigOp with remote := some 4 }] }),
      { sigOp with remote := some 4 }, [], by decide +kernel⟩

theorem wit_SignatureIntakeAndGather_5 : ∃ (s : State) (b : Fin 32) (o : SigOp) (g : Bag) (p : Part) (rest : List
    Part) (j : Nat) (l : Nat), s.live (.bme b) = true ∧ OneSig s o ∧ o.gather = [g] ∧ g.left = p :: rest ∧ p.issued =
    none ∧ p.asked = 0 ∧ s.rowRoom o.table b (p.row + 64 * j) = true ∧ p.blocks = [j] ∧ s.bmeOf p.role = some b ∧
    o.table.direct = false ∧ s.route (p.row + 64 * j) = .own l ∧ s.shutdown = false ∧ s.pwr.failed = false ∧ (s.gf
    Reg.CACHE_FENCE Fld.CACHE_FENCE_PENDING).testBit (s.sliceOf (p.row + 64 * j)) = false :=
  ⟨sigBench { sigOp with gather := [sigBag [sigPart none] 5] }, 0, { sigOp with gather := [sigBag [sigPart none] 5] },
      sigBag [sigPart none] 5, sigPart none, [], 0, 4096, by decide +kernel⟩

theorem wit_SignatureIntakeAndGather_6 : ∃ (s : State) (b : Fin 32) (o : SigOp) (g : Bag) (p : Part) (c : Completion)
    (j : Nat), s.live (.bme b) = true ∧ s.paths.rets = [] ∧ s.paths.done = [c] ∧ c.req.src = .bme b ∧ c.req.op = .read
    ∧ OneSig s o ∧ o.gather = [g] ∧ g.left = [p] ∧ p.issued = some c.req.id ∧ p.blocks = [j] ∧ p.got = [] :=
  ⟨(sigBench { sigOp with gather := [sigBag [sigPart (some 9)] 5] }).modPaths (fun x => { x with
          done :=
            [{ req := { quietRead 9 0 (.bme 0) .last 3 4096 64 with quiet := false }, status := .ok, data := zeros 64, at_ := 0 }] }),
      0, { sigOp with gather := [sigBag [sigPart (some 9)] 5] }, sigBag [sigPart (some 9)] 5, sigPart (some 9), {
          req := { quietRead 9 0 (.bme 0) .last 3 4096 64 with quiet := false }, status := .ok, data := zeros 64,
          at_ := 0 }, 0, by decide +kernel⟩

theorem wit_SignatureIntakeAndGather_7 : ∃ (s : State) (o : SigOp), s.live .firmware = true ∧ OneSig s o ∧ max o.next
    o.prefetched < min o.limit (o.next + s.gf Reg.BME_CTRL Fld.BME_CTRL_RUNAHEAD) :=
  ⟨(sigBench sigOp).wr Reg.BME_CTRL 1, sigOp, by decide +kernel⟩

theorem wit_SignatureIntakeAndGather_8 : ∃ (s : State) (o : SigOp) (g : Bag) (rest : List Bag), s.live .firmware =
    true ∧ OneSig s o ∧ o.gather = g :: rest ∧ g.left = [] ∧ s.inSpine < 8 :=
  ⟨sigBench { sigOp with gather := [sigBag [] 5] }, { sigOp with gather := [sigBag [] 5] }, sigBag [] 5, [],
      by decide +kernel⟩

theorem wit_SpineFinishAndFailure_1 : ∃ (s : State) (k : Fin 5) (o : SigOp) (g : Bag) (rest : List Bag), s.live
    .firmware = true ∧ OneSig s o ∧ o.spine = g :: rest ∧ g.stage = k + 1 :=
  ⟨sigBench { sigOp with spine := [sigBag [] 5] }, 4, { sigOp with spine := [sigBag [] 5] }, sigBag [] 5, [],
      by decide +kernel⟩

theorem wit_SpineFinishAndFailure_2 : ∃ (s : State) (u : State) (o : SigOp) (g : Bag) (w : Written), s.live .firmware
    = true ∧ OneSig s o ∧ o.spine = [g] ∧ g.stage = 0 ∧ o.writing = [] ∧ s.settleOps = s ∧ s.bagWrites o g = (w, u) ∧
    u.unwritten w = true :=
  ⟨sigBench { sigOp with spine := [sigBag [] 0], limit := 2, bags := 2 }, ((sigBench
      { sigOp with spine := [sigBag [] 0], limit := 2, bags := 2 }).bagWrites
      ({ sigOp with spine := [sigBag [] 0], limit := 2, bags := 2 }) (sigBag [] 0)).2,
      { sigOp with spine := [sigBag [] 0], limit := 2, bags := 2 }, sigBag [] 0, ((sigBench
      { sigOp with spine := [sigBag [] 0], limit := 2, bags := 2 }).bagWrites
      ({ sigOp with spine := [sigBag [] 0], limit := 2, bags := 2 }) (sigBag [] 0)).1, by decide +kernel⟩

theorem wit_SpineFinishAndFailure_3 : ∃ (s : State) (o : SigOp) (g : Bag) (r : Nat), s.live .firmware = true ∧
    s.seq.ops = [] ∧ s.seq.remoteRun = [o] ∧ o.remote = some r ∧ o.spine = [g] ∧ g.stage = 0 ∧ o.edeckleAddr = none :=
  ⟨(engBench tableLine [] []).modSeq (fun q =>
      { q with remoteRun := [{ sigOp with remote := some 4, spine := [sigBag [] 0] }] }),
      { sigOp with remote := some 4, spine := [sigBag [] 0] }, sigBag [] 0, 4, by decide +kernel⟩

theorem wit_SpineFinishAndFailure_4 : ∃ (s : State) (b : Fin 32) (cond : BitVec 2), s.live (.bme b) = true ∧ s.bmeOk b
    = true :=
  ⟨bench, 3, 1, by decide +kernel⟩

theorem wit_SpineFinishAndFailure_5 : ∃ (s : State) (b : Fin 32), s.live .firmware = true ∧ s.bmeStuck b = true ∧
    s.bmeOk b = true :=
  ⟨{ sigBench { sigOp with gather := [sigBag [sigPart none] 5] } with clk := { bench.clk with pkg := 100000 } }, 0,
      by decide +kernel⟩

theorem wit_SpineFinishAndFailure_6 : ∃ (s : State) (b : Fin 32), s.live .firmware = true ∧ s.bmeStuck b = false :=
  ⟨bench, 3, by decide +kernel⟩

theorem wit_SpineFinishAndFailure_7 : ∃ (s : State) (o : SigOp), s.live .firmware = true ∧ OneSig s o ∧ o.writing = []
    ∧ o.over = true ∧ o.stop = none ∧ o.mark = none :=
  ⟨sigBench { sigOp with next := 1 }, { sigOp with next := 1 }, by decide +kernel⟩

theorem wit_ElementwiseSteps_1 : ∃ (s : State) (p : Packet) (f : Format) (g : Format), s.live .firmware = true ∧
    s.waitingPk (fun x => decide (x.opcode = 3) && decide (x.ewOp = 0 ∨ 5 < x.ewOp)) = some p ∧ p.ewOp = 0 ∧
    Format.ofCode (p.nat 13 1) = some f ∧ Format.ofCode (p.nat 14 1) = some g ∧ f.isPlain = true ∧ g.isPlain = true ∧
    p.addr 32 % 64 = 0 ∧ p.addr 40 % 64 = 0 ∧ s.outside [(9, .flat (p.addr 32) (f.extent (p.nat 16 4))), (10, .flat
    (p.addr 40) (g.extent (p.nat 16 4)))] = none ∧ (p.addr 32 = p.addr 40 ∨ overlap (.flat (p.addr 32) (f.extent
    (p.nat 16 4))) (.flat (p.addr 40) (g.extent (p.nat 16 4))) = false) ∧ s.noSubstitute = false :=
  ⟨engBench (zeros 128) [benchOp 3 12 ([0, 1, 1, 0] ++ leBytes 4 16 ++ zeros 20 ++ leBytes 8 64)] [], benchOp 3 12
      ([0, 1, 1, 0] ++ leBytes 4 16 ++ zeros 20 ++ leBytes 8 64), .binary32, .binary32, by decide +kernel⟩

theorem wit_ElementwiseSteps_2 : ∃ (s : State) (o : EwOp) (u : State) (w : State) (xs : List Val) (ys : List Val) (b :
    Fin 32) (acc : Acc) (i : Nat) (n : Nat), s.live .firmware = true ∧ s.shutdown = false ∧ s.waitingPk (fun x =>
    decide (x.opcode = 3) && decide (x.ewOp = 0 ∨ 5 < x.ewOp)) = none ∧ s.seq.ops = [.ew o] ∧ o.op = 0 ∧ acc = (if
    o.xf = .binary64 ∨ o.yf = .binary64 then Acc.acc64 else Acc.acc32) ∧ i = o.next * o.yf.perBlock ∧ n = min
    o.yf.perBlock (o.count - i) ∧ s.bmeOf (s.roleOf (o.yAddr + 64 * o.next)) = some b ∧ s.readOperand b o.xf o.xAddr
    o.count i n = ((.ok, xs), u) ∧ u.readOperand b o.yf o.yAddr o.count i n = ((.ok, ys), w) :=
  ⟨ewBench 0, ewOp 0, ((ewBench 0).readOperand 0 .binary32 0 32 0 16).2, (((ewBench 0).readOperand 0 .binary32 0 32 0
      16).2.readOperand 0 .binary32 64 32 0 16).2, ((ewBench 0).readOperand 0 .binary32 0 32 0 16).1.2, (((ewBench
      0).readOperand 0 .binary32 0 32 0 16).2.readOperand 0 .binary32 64 32 0 16).1.2, 0, .acc32, 0, 16,
      by decide +kernel⟩

theorem wit_ElementwiseSteps_3 : ∃ (s : State) (o : EwOp) (u : State) (w : State) (xs : List Val) (ys : List Val) (b :
    Fin 32) (acc : Acc) (i : Nat) (n : Nat), s.live .firmware = true ∧ s.shutdown = false ∧ s.waitingPk (fun x =>
    decide (x.opcode = 3) && decide (x.ewOp = 1)) = none ∧ s.seq.ops = [.ew o] ∧ o.op = 1 ∧ acc = (if o.xf = .binary64
    ∨ o.yf = .binary64 then Acc.acc64 else Acc.acc32) ∧ i = o.next * o.yf.perBlock ∧ n = min o.yf.perBlock (o.count -
    i) ∧ s.bmeOf (s.roleOf (o.yAddr + 64 * o.next)) = some b ∧ s.readOperand b o.xf o.xAddr o.count i n = ((.ok, xs),
    u) ∧ u.readOperand b o.yf o.yAddr o.count i n = ((.ok, ys), w) :=
  ⟨ewBench 1, ewOp 1, ((ewBench 1).readOperand 0 .binary32 0 32 0 16).2, (((ewBench 1).readOperand 0 .binary32 0 32 0
      16).2.readOperand 0 .binary32 64 32 0 16).2, ((ewBench 1).readOperand 0 .binary32 0 32 0 16).1.2, (((ewBench
      1).readOperand 0 .binary32 0 32 0 16).2.readOperand 0 .binary32 64 32 0 16).1.2, 0, .acc32, 0, 16,
      by decide +kernel⟩

theorem wit_ElementwiseSteps_4 : ∃ (s : State) (o : EwOp) (u : State) (xs : List Val) (b : Fin 32) (acc : Acc) (i :
    Nat) (n : Nat), s.live .firmware = true ∧ s.shutdown = false ∧ s.waitingPk (fun x => decide (x.opcode = 3) &&
    decide (x.ewOp = 2)) = none ∧ s.seq.ops = [.ew o] ∧ o.op = 2 ∧ acc = (if o.xf = .binary64 ∨ o.yf = .binary64 then
    Acc.acc64 else Acc.acc32) ∧ i = o.next * o.yf.perBlock ∧ n = min o.yf.perBlock (o.count - i) ∧ s.bmeOf (s.roleOf
    (o.yAddr + 64 * o.next)) = some b ∧ s.readOperand b o.xf o.xAddr o.count i n = ((.ok, xs), u) :=
  ⟨ewBench 2, ewOp 2, ((ewBench 2).readOperand 0 .binary32 0 32 0 16).2, ((ewBench 2).readOperand 0 .binary32 0 32 0
      16).1.2, 0, .acc32, 0, 16, by decide +kernel⟩

theorem wit_ElementwiseSteps_5 : ∃ (s : State) (o : EwOp) (u : State) (xs : List Val) (b : Fin 32) (acc : Acc) (i :
    Nat) (n : Nat), s.live .firmware = true ∧ s.shutdown = false ∧ s.waitingPk (fun x => decide (x.opcode = 3) &&
    decide (x.ewOp = 3)) = none ∧ s.seq.ops = [.ew o] ∧ o.op = 3 ∧ acc = (if o.xf = .binary64 ∨ o.yf = .binary64 then
    Acc.acc64 else Acc.acc32) ∧ i = o.next * o.yf.perBlock ∧ n = min o.yf.perBlock (o.count - i) ∧ s.bmeOf (s.roleOf
    (o.yAddr + 64 * o.next)) = some b ∧ s.readOperand b o.xf o.xAddr o.count i n = ((.ok, xs), u) :=
  ⟨(engBench (zeros 128) [{ benchOp 3 12 [3] with loaded := true }] [.ew { ewOp 3 with total := 1, count := 16 }]),
      { ewOp 3 with total := 1, count := 16 }, (((engBench (zeros 128) [{ benchOp 3 12 [3] with loaded := true }] [.ew
      { ewOp 3 with total := 1, count := 16 }])).readOperand 0 .binary32 0 16 0 16).2, (((engBench (zeros 128)
      [{ benchOp 3 12 [3] with loaded := true }] [.ew { ewOp 3 with total := 1, count := 16 }])).readOperand 0
      .binary32 0 16 0 16).1.2, 0, .acc32, 0, 16, by decide +kernel⟩

theorem wit_ElementwiseSteps_6 : ∃ (s : State) (o : EwOp) (x : Desc) (y : Desc) (b : Fin 32) (d : List Byte) (u :
    State) (l : List Nat) (z : Nat), s.live .firmware = true ∧ s.shutdown = false ∧ s.waitingPk (fun q => decide
    (q.opcode = 3) && decide (q.ewOp = 4)) = none ∧ s.seq.ops = [.ew o] ∧ o.op = 4 ∧ o.src = some x ∧ o.dst = some y ∧
    s.bmeOf (s.roleOf (y.rowAddr (o.firstRow + o.next))) = some b ∧ s.fetch (.bme b) .normal 3 64 (x.rowAddr
    (o.firstRow + o.next)) (x.format.rowBytes x.dim) = ((.ok, d), u) ∧ (l, z) = (if o.stochastic = true then draws
    x.dim o.lfsr[b] else ([], o.lfsr[b])) ∧ o.next + 1 < o.total :=
  ⟨engBench (zeros 128) [] [.ew { ewOp 4 with
          src := some { sigDesc with base := 0, dim := 4 }, dst := some { sigDesc with dim := 4, format := .int8r } }],
      { ewOp 4 with
          src := some { sigDesc with base := 0, dim := 4 }, dst := some { sigDesc with dim := 4, format := .int8r } },
      { sigDesc with base := 0, dim := 4 }, { sigDesc with dim := 4, format := .int8r }, 0, zeros 16, ((engBench
      (zeros 128) [] [.ew { ewOp 4 with
          src := some { sigDesc with base := 0, dim := 4 }, dst := some { sigDesc with dim := 4, format := .int8r } }]).fetch
      (.bme 0) .normal 3 64 0 16).2, [], 1, by decide +kernel⟩

theorem wit_ElementwiseSteps_7 : ∃ (s : State) (o : EwOp) (q : EwOp) (d0 : Desc) (u : State) (bound : Val) (row : Nat)
    (per : Nat), s.live .firmware = true ∧ s.shutdown = false ∧ s.waitingPk (fun x => decide (x.opcode = 3) && decide
    (x.ewOp = 5)) = none ∧ s.seq.ops = [.ew o] ∧ o.op = 5 ∧ o.src = some d0 ∧ row = d0.rowAddr (o.indices.getD o.next
    0 - d0.first) ∧ per = 512 / d0.format.bits ∧ 0 < d0.dim ∧ d0.dim ≤ per ∧ (∀ a ∈ unitsOf 64 row (d0.format.rowBytes
    d0.dim), (s.bmeOf (s.roleOf a)).isSome = true) ∧ s.bmeWriting row (d0.format.rowBytes d0.dim) = false ∧ s.ewPart o
    d0 row (o.gradAddr + o.next * o.gradPitch) 0 d0.dim = (u, q, bound, none) ∧ o.next + 1 < o.total :=
  ⟨engBench (zeros 128) [] [.ew { ewOp 5 with src := some { sigDesc with base := 0 }, gradAddr := 64 }],
      { ewOp 5 with src := some { sigDesc with base := 0 }, gradAddr := 64 }, ((engBench (zeros 128) [] [.ew
      { ewOp 5 with src := some { sigDesc with base := 0 }, gradAddr := 64 }]).ewPart
      { ewOp 5 with src := some { sigDesc with base := 0 }, gradAddr := 64 } { sigDesc with base := 0 } 0 64 0
      16).2.1, { sigDesc with base := 0 }, ((engBench (zeros 128) [] [.ew
      { ewOp 5 with src := some { sigDesc with base := 0 }, gradAddr := 64 }]).ewPart
      { ewOp 5 with src := some { sigDesc with base := 0 }, gradAddr := 64 } { sigDesc with base := 0 } 0 64 0 16).1,
      ((engBench (zeros 128) [] [.ew { ewOp 5 with src := some { sigDesc with base := 0 }, gradAddr := 64 }]).ewPart
      { ewOp 5 with src := some { sigDesc with base := 0 }, gradAddr := 64 } { sigDesc with base := 0 } 0 64 0
      16).2.2.1, 0, 16, by decide +kernel⟩

theorem wit_ElementwiseSteps_8 : ∃ (s : State) (p : Packet) (f : Format) (g : Format), s.live .firmware = true ∧
    s.waitingPk (fun x => decide (x.opcode = 3) && decide (x.ewOp = 1)) = some p ∧ p.ewOp = 1 ∧ Format.ofCode (p.nat
    13 1) = some f ∧ Format.ofCode (p.nat 14 1) = some g ∧ f.isPlain = true ∧ g.isPlain = true ∧ p.addr 32 % 64 = 0 ∧
    p.addr 40 % 64 = 0 ∧ s.outside [(9, .flat (p.addr 32) (f.extent (p.nat 16 4))), (10, .flat (p.addr 40) (g.extent
    (p.nat 16 4)))] = none ∧ (p.addr 32 = p.addr 40 ∨ overlap (.flat (p.addr 32) (f.extent (p.nat 16 4))) (.flat
    (p.addr 40) (g.extent (p.nat 16 4))) = false) ∧ s.noSubstitute = false :=
  ⟨engBench (zeros 128) [benchOp 3 12 ([1, 1, 1, 0] ++ leBytes 4 16 ++ zeros 20 ++ leBytes 8 64)] [], benchOp 3 12
      ([1, 1, 1, 0] ++ leBytes 4 16 ++ zeros 20 ++ leBytes 8 64), .binary32, .binary32, by decide +kernel⟩

theorem wit_ElementwiseSteps_9 : ∃ (s : State) (p : Packet) (f : Format) (g : Format), s.live .firmware = true ∧
    s.waitingPk (fun x => decide (x.opcode = 3) && decide (x.ewOp = 2)) = some p ∧ p.ewOp = 2 ∧ Format.ofCode (p.nat
    13 1) = some f ∧ Format.ofCode (p.nat 14 1) = some g ∧ f.isPlain = true ∧ g.isPlain = true ∧ p.addr 32 % 64 = 0 ∧
    p.addr 40 % 64 = 0 ∧ s.outside [(9, .flat (p.addr 32) (f.extent (p.nat 16 4))), (10, .flat (p.addr 40) (g.extent
    (p.nat 16 4)))] = none ∧ (p.addr 32 = p.addr 40 ∨ overlap (.flat (p.addr 32) (f.extent (p.nat 16 4))) (.flat
    (p.addr 40) (g.extent (p.nat 16 4))) = false) ∧ s.noSubstitute = false :=
  ⟨engBench (zeros 128) [benchOp 3 12 ([2, 1, 1, 0] ++ leBytes 4 16 ++ zeros 20 ++ leBytes 8 64)] [], benchOp 3 12
      ([2, 1, 1, 0] ++ leBytes 4 16 ++ zeros 20 ++ leBytes 8 64), .binary32, .binary32, by decide +kernel⟩

theorem wit_ElementwiseSteps_10 : ∃ (s : State) (p : Packet) (f : Format) (g : Format), s.live .firmware = true ∧
    s.waitingPk (fun x => decide (x.opcode = 3) && decide (x.ewOp = 3)) = some p ∧ p.ewOp = 3 ∧ Format.ofCode (p.nat
    13 1) = some f ∧ Format.ofCode (p.nat 14 1) = some g ∧ p.addr 32 % 64 = 0 ∧ p.addr 40 % 64 = 0 ∧ s.outside [(9,
    .flat (p.addr 32) (f.extent (p.nat 16 4))), (10, .flat (p.addr 40) (g.extent (p.nat 16 4)))] = none ∧ (p.addr 32 =
    p.addr 40 ∨ overlap (.flat (p.addr 32) (f.extent (p.nat 16 4))) (.flat (p.addr 40) (g.extent (p.nat 16 4))) =
    false) ∧ s.noSubstitute = false :=
  ⟨engBench (zeros 128) [benchOp 3 12 ([3, 1, 1, 0] ++ leBytes 4 16 ++ zeros 20 ++ leBytes 8 64)] [], benchOp 3 12
      ([3, 1, 1, 0] ++ leBytes 4 16 ++ zeros 20 ++ leBytes 8 64), .binary32, .binary32, by decide +kernel⟩

theorem wit_ElementwiseSteps_11 : ∃ (s : State) (o : EwOp) (u : State) (st : Status) (xs : List Val) (b : Fin 32) (acc
    : Acc) (i : Nat) (n : Nat), s.live .firmware = true ∧ s.shutdown = false ∧ s.waitingPk (fun x => decide (x.opcode
    = 3) && decide (x.ewOp = 3)) = none ∧ s.seq.ops = [.ew o] ∧ o.op = 3 ∧ acc = (if o.xf = .binary64 ∨ o.yf =
    .binary64 then Acc.acc64 else Acc.acc32) ∧ i = o.next * o.yf.perBlock ∧ n = min o.yf.perBlock (o.count - i) ∧
    s.bmeOf (s.roleOf (o.yAddr + 64 * o.next)) = some b ∧ s.readOperand b o.xf o.xAddr o.count i n = ((st, xs), u) ∧
    st ≠ .ok ∧ o.next + 1 < o.total :=
  ⟨(ewBench 3).modSlice 0 (fun x =>
      { x with ways := [(0, { benchLine false with lo := { (benchLine false).lo with poison := true } })] }), ewOp 3,
      (((ewBench 3).modSlice 0 (fun x => { x with
          ways := [(0, { benchLine false with lo := { (benchLine false).lo with poison := true } })] })).readOperand 0
      .binary32 0 32 0 16).2, .poisoned, (((ewBench 3).modSlice 0 (fun x => { x with
          ways := [(0, { benchLine false with lo := { (benchLine false).lo with poison := true } })] })).readOperand 0
      .binary32 0 32 0 16).1.2, 0, .acc32, 0, 16, by decide +kernel⟩

theorem wit_PressSteps_1 : ∃ (s : State) (p : Packet) (fa : Format) (fb : Format) (f : Format) (c : Bool) (o :
    PressOp), s.live .firmware = true ∧ s.waitingPk (fun x => x.opcode = 4) = some p ∧ Format.ofCode (p.nat 12 1) =
    some fa ∧ Format.ofCode (p.nat 13 1) = some fb ∧ fa.eightBit = some c ∧ fb.eightBit = some c ∧ pressOut (p.nat 14
    1) = some f ∧ o = p.press fa fb f s.dealList ∧ o.bad = none ∧ s.outside (o.reads ++ o.writes) = none ∧
    firstOverlap (o.reads.map (·.2)) o.writes = none ∧ s.noSubstitute = false :=
  ⟨engBench (zeros 128) [pressPacket' 4] [], pressPacket' 4, .e4m3, .e4m3, .binary32, true, (pressPacket' 4).press
      .e4m3 .e4m3 .binary32 (upto 32), by decide +kernel⟩

theorem wit_PressSteps_2 : ∃ (s : State) (p : Packet) (fa : Format) (f : Format) (c : Bool) (o : PressOp), s.live
    .firmware = true ∧ s.waitingPk (fun x => x.opcode = 5) = some p ∧ Format.ofCode (p.nat 12 1) = some fa ∧
    fa.eightBit = some c ∧ pressOut (p.nat 14 1) = some f ∧ o = p.press fa fa f s.dealList ∧ o.bad = none ∧ s.outside
    (o.reads ++ o.writes) = none ∧ firstOverlap (o.reads.map (·.2)) o.writes = none ∧ s.noSubstitute = false :=
  ⟨engBench (zeros 128) [pressPacket' 5] [], pressPacket' 5, .e4m3, .binary32, true, (pressPacket' 5).press .e4m3
      .e4m3 .binary32 (upto 32), by decide +kernel⟩

theorem wit_PressSteps_3 : ∃ (s : State) (u : State) (b : Fin 32) (o : PressOp) (j : Job), s.live (.bme b) = true ∧
    s.shutdown = false ∧ s.seq.ops = [.press o] ∧ o.active = [j] ∧ j.bme = b ∧ j.pass < j.passes ∧
    s.seq.presses[b].inArray.length < 2 ∧ u = (if s.isLoaded j then s else s.loadPass o j) :=
  ⟨pressBench [benchJob 0] [], (pressBench [benchJob 0] []).loadPass (benchPress [benchJob 0] []) (benchJob 0), 0,
      benchPress [benchJob 0] [], benchJob 0, by decide +kernel⟩

theorem wit_PressSteps_4 : ∃ (s : State) (b : Fin 32), s.live (.bme b) = true :=
  ⟨pressBench [benchJob 0] [], 0, by decide +kernel⟩

theorem wit_PressSteps_5 : ∃ (s : State) (o : PressOp) (j : Job), s.live .firmware = true ∧ s.seq.ops = [.press o] ∧
    o.active = [j] ∧ s.jobReady o j = true :=
  ⟨pressBench [benchJob 1] [], benchPress [benchJob 1] [], benchJob 1, by decide +kernel⟩

theorem wit_PressSteps_6 : ∃ (s : State) (b : Fin 32) (o : PressOp) (j : Job), s.live (.bme b) = true ∧ s.seq.ops =
    [.press o] ∧ o.draining.find? (fun x => x.bme = b.val) = some j ∧ (o.committed < o.limit ∨ o.redo ≠ [] ∨ o.active
    ≠ []) :=
  ⟨pressBench [] [benchJob 1], 0, benchPress [] [benchJob 1], benchJob 1, by decide +kernel⟩

theorem wit_PressSteps_7 : ∃ (s : State) (b : Fin 32) (o : PressOp) (j : Job), s.live (.bme b) = true ∧ s.seq.ops =
    [.press o] ∧ o.draining = [j] ∧ j.bme = b ∧ o.limit ≤ o.committed ∧ o.redo = [] ∧ o.active = [] ∧ o.stop = none ∧
    o.mark = none :=
  ⟨engBench (zeros 128) [pressPacket' 4] [.press { benchPress [] [benchJob 1] with committed := 2 }], 0,
      { benchPress [] [benchJob 1] with committed := 2 }, benchJob 1, by decide +kernel⟩

theorem wit_PressSteps_8 : ∃ (s : State) (u : State) (b : Fin 32) (o : PressOp) (j : Job), s.live (.bme b) = true ∧
    s.shutdown = false ∧ s.seq.presses[b].inArray.length < 2 ∧ s.pressNext b = some (o, j, u) :=
  ⟨pressBench [] [], (((pressBench [] []).pressNext 0).get (by decide)).2.2, 0, (((pressBench [] []).pressNext 0).get
      (by decide)).1, (((pressBench [] []).pressNext 0).get (by decide)).2.1, by decide +kernel⟩

theorem wit_FirmwareLoadAndStart_1 : ∃ (s : State), Taken s ∧ (s.fwState = 0 ∨ s.fwState = 2) :=
  ⟨fwBench 0, by decide +kernel⟩

theorem wit_FirmwareLoadAndStart_2 : ∃ (s : State), Taken s ∧ s.fwState ≠ 0 ∧ s.fwState ≠ 2 :=
  ⟨bench, by decide +kernel⟩

theorem wit_FirmwareLoadAndStart_3 : ∃ (s : State) (v : Word), Taken s ∧ s.fw.dataPhase = true ∧ s.fw.image.length + 4
    ≤ 787040 :=
  ⟨(fwBench 1).modFw (fun w => { w with dataPhase := true }), 0x31, by decide +kernel⟩

theorem wit_FirmwareLoadAndStart_4 : ∃ (s : State) (v : Word), Taken s ∧ s.fw.dataPhase = false :=
  ⟨bench, 0x31, by decide +kernel⟩

theorem wit_FirmwareLoadAndStart_5 : ∃ (s : State), Taken s ∧ s.fw.dataPhase = true :=
  ⟨(fwBench 1).modFw (fun w => { w with dataPhase := true }), by decide +kernel⟩

theorem wit_FirmwareLoadAndStart_6 : ∃ (s : State), s.live .firmware = true ∧ s.fw.checking = true :=
  ⟨(fwBench 1).modFw (fun w => { w with checking := true }), by decide +kernel⟩

theorem wit_FirmwareLoadAndStart_7 : ∃ (s : State), s.live .firmware = true ∧ s.fwState = 3 ∧ (∀ k : Fin 4,
    s.fw.cores[k].run = true ∧ s.fw.cores[k].resetAt = none) ∧ s.bit Reg.PC_LACE Fld.PC_LACE_LOCK = false ∧ s.bit
    Reg.D2D_RING_STATUS Fld.D2D_RING_STATUS_ENUM_FAULT = false ∧ s.pkg.goAt = none :=
  ⟨fwBench 3, by decide +kernel⟩

theorem wit_FirmwareLoadAndStart_8 : ∃ (s : State), s.live .firmware = true ∧ s.fwState = 3 ∧ (∀ k : Fin 4,
    s.fw.cores[k].run = true ∧ s.fw.cores[k].resetAt = none) :=
  ⟨(fwBench 3).raise Reg.PC_LACE Fld.PC_LACE_LOCK, by decide +kernel⟩

theorem wit_FirmwareService_1 : ∃ (s : State), Taken s ∧ s.fwState = 4 :=
  ⟨bench, by decide +kernel⟩

theorem wit_FirmwareService_2 : ∃ (s : State) (ms : BitVec 16), Taken s ∧ s.fwState = 4 :=
  ⟨bench, 20, by decide +kernel⟩

theorem wit_FirmwareService_3 : ∃ (s : State) (t0 : Nat), s.live .firmware = true ∧ s.fwState = 4 ∧ s.gf
    Reg.FW_HOST_TIMEOUT Fld.FW_HOST_TIMEOUT_MS ≠ 0 ∧ s.fw.hostTimer = some t0 ∧ t0 + s.gf Reg.FW_HOST_TIMEOUT
    Fld.FW_HOST_TIMEOUT_MS * 1000000 ≤ s.clk.raw :=
  ⟨later 1000000 ((bench.sf Reg.FW_HOST_TIMEOUT Fld.FW_HOST_TIMEOUT_MS 1).modFw (fun w =>
      { w with hostTimer := some 0 })), 0, by decide +kernel⟩

theorem wit_FirmwareService_4 : ∃ (s : State), Reached s ∧ s.fwState = 5 :=
  ⟨fwBench 5, by decide +kernel⟩

theorem wit_FirmwareService_5 : ∃ (s : State) (v : Word), Reached s ∧ v ≠ s.rd Reg.FW_VERSION :=
  ⟨bench, 0x12345, by decide +kernel⟩

theorem wit_FirmwareService_6 : ∃ (s : State), s.fwRuns .steward = true ∧ s.fw.picture = ((censusUnits.map
    (·.1)).eraseDups).map (fun r => (r, s.rd r)) :=
  ⟨bench.takePicture, by decide +kernel⟩

theorem wit_FirmwareService_7 : ∃ (s : State) (w : Word), s.fwRuns .steward = true ∧ s.fw.picture =
    [(Reg.RMT_SUBPORT_STATUS 0, w)] ∧ natBits w.toNat 0 1 ≠ natBits (s.rd (Reg.RMT_SUBPORT_STATUS 0)).toNat 0 1 :=
  ⟨bench.modFw (fun w => { w with picture := [(Reg.RMT_SUBPORT_STATUS 0, 1)] }), 1, by decide +kernel⟩

theorem wit_FirmwareService_8 : ∃ (s : State) (x : LogItem) (rest : List LogItem), s.fwRuns .liaison = true ∧
    s.ringOpen Reg.FW_LOG_RING = false ∧ s.inbox.log = x :: rest ∧ s.fw.logWait.length < 256 :=
  ⟨bench.logRec 0x0010 [3], LogItem.mk 0x0010 [3] 0, [], by decide +kernel⟩

theorem wit_FirmwareService_9 : ∃ (s : State) (point : BitVec 16) (core : Fin 4) (arg : Word), s.fwRuns .liaison =
    true ∧ (s.rd Reg.FW_TRACE_MASK).toNat.testBit (natBits point.toNat 11 5) = true ∧ s.fw.trace.length < 16 :=
  ⟨bench.wr Reg.FW_TRACE_MASK 1, 7, 2, 99, by decide +kernel⟩

theorem wit_FirmwareService_10 : ∃ (s : State), s.fwRuns .liaison = true ∧ s.fw.trace ≠ [] ∧ s.ringOpen
    Reg.FW_TRACE_RING = true ∧ (s.fw.trace.length = 16 ∨ s.fw.traceAt + 10000 ≤ s.fwNow) :=
  ⟨{ (bench.sf64 Reg.FW_TRACE_RING Fld.FW_LOG_RING_ENABLE 1).modFw (fun w => { w with trace := [zeros 16] }) with
          clk := { bench.clk with locals := Vector.replicate 132 10000 } }, by decide +kernel⟩

theorem wit_FirmwareService_11 : ∃ (s : State), Reached s ∧ s.fwState = 4 :=
  ⟨bench, by decide +kernel⟩

theorem wit_FirmwareService_12 : ∃ (s : State), s.fwRuns .steward = true :=
  ⟨bench.modFw (fun w => { w with picture := [(Reg.RMT_SUBPORT_STATUS 0, 1)] }), by decide +kernel⟩

theorem wit_FirmwareService_13 : ∃ (s : State) (x : LogItem) (rest : List LogItem), s.fwRuns .liaison = true ∧
    s.ringOpen Reg.FW_LOG_RING = true ∧ s.fw.logWait = [] ∧ s.inbox.log = x :: rest :=
  ⟨(bench.sf64 Reg.FW_LOG_RING Fld.FW_LOG_RING_ENABLE 1).logRec 0x0010 [3], LogItem.mk 0x0010 [3] 0, [],
      by decide +kernel⟩

theorem wit_FirmwareService_14 : ∃ (s : State) (point : BitVec 16) (core : Fin 4) (arg : Word), (s.rd
    Reg.FW_TRACE_MASK).toNat.testBit (natBits point.toNat 11 5) = false :=
  ⟨bench, 7, 2, 99, by decide +kernel⟩

theorem wit_FirmwareResets_1 : ∃ (s : State) (k : Fin 4), s.live .firmware = true ∧ s.fw.cores[k].run = true ∧
    s.fw.cores[k].resetAt = none ∧ 3 ≤ s.fwState ∧ s.fwState ≠ 6 ∧ s.fw.cores[k].wdogFrom + s.gf Reg.FW_WDOG_CFG
    Fld.FW_WDOG_CFG_MS * 1000000 ≤ s.clk.raw :=
  ⟨later 10000000 bench, 2, by decide +kernel⟩

theorem wit_FirmwareResets_2 : ∃ (s : State) (k : Fin 4), s.live .firmware = true ∧ s.fw.cores[k].run = true ∧
    s.fw.cores[k].resetAt = none ∧ 3 ≤ s.fwState ∧ s.fwState ≠ 6 :=
  ⟨bench, 0, by decide +kernel⟩

theorem wit_FirmwareResets_3 : ∃ (s : State) (mask : BitVec 4), Taken s ∧ 3 ≤ s.fwState ∧ s.fwState ≠ 6 :=
  ⟨bench, 6, by decide +kernel⟩

theorem wit_FirmwareResets_4 : ∃ (s : State) (k : Fin 4) (damage : List (BitVec 18 × Byte)) (m : List (Nat × Byte)),
    s.live .firmware = true ∧ s.fw.cores[k].run = true ∧ s.fw.cores[k].resetAt.isSome = true ∧ s.dom (112 + k) = .on ∧
    m = damage.foldl (fun m e => cset cellReset m e.1.toNat e.2) s.fw.cores[k].sram ∧ sha384
    ({ s.fw.cores[k] with sram := m } : FwCore).section = s.fw.cores[k].digest :=
  ⟨resetCoreBench (sha384 []), 2, [(3, 5)], [(3, 5)], by decide +kernel⟩

theorem wit_FirmwareResets_5 : ∃ (s : State) (k : Fin 4) (damage : List (BitVec 18 × Byte)) (m : List (Nat × Byte)),
    s.live .firmware = true ∧ s.fw.cores[k].run = true ∧ s.fw.cores[k].resetAt.isSome = true ∧ m = damage.foldl (fun m
    e => cset cellReset m e.1.toNat e.2) s.fw.cores[k].sram ∧ sha384 ({ s.fw.cores[k] with sram := m } :
    FwCore).section ≠ s.fw.cores[k].digest :=
  ⟨resetCoreBench 5, 2, [(3, 5)], [(3, 5)], by decide +kernel⟩

theorem wit_FirmwareResets_6 : ∃ (s : State), Taken s ∧ s.fwState ≠ 6 :=
  ⟨bench, by decide +kernel⟩

theorem wit_FirmwareResets_7 : ∃ (s : State), Taken s ∧ s.fwState ≠ 6 ∧ (∀ q : Fin 64, s.bit (Reg.FW_QCFG q)
    Fld.FW_QCFG_ENABLE = false) :=
  ⟨bench, by decide +kernel⟩

theorem wit_FirmwareResets_8 : ∃ (s : State) (t0 : Nat), s.live .firmware = true ∧ s.fw.orderlyAt = some t0 ∧
    s.fwState ≠ 6 ∧ ((∀ q : Fin 64, s.qState q = 0) ∨ t0 + 10000000 ≤ s.fwNow) :=
  ⟨{ bench.modFw (fun w => { w with orderlyAt := some 0 }) with
          clk := { bench.clk with locals := Vector.replicate 132 10000000 } }, 0, by decide +kernel⟩

theorem wit_FirmwareResets_9 : ∃ (s : State) (ms : BitVec 7), Taken s :=
  ⟨bench, 0, by decide +kernel⟩

theorem wit_FirmwareResets_10 : ∃ (s : State), Taken s ∧ s.fwState ≠ 6 :=
  ⟨queueBench, by decide +kernel⟩

theorem wit_StagedActivation_1 : ∃ (s : State) (len : BitVec 20), Reached s ∧ s.stageState ∈ [0, 2, 3] ∧ s.inOwn
    s.stageBase (up4k len.toNat + 65536) = true :=
  ⟨bench, 5, by decide +kernel⟩

theorem wit_StagedActivation_2 : ∃ (s : State) (len : BitVec 20), Reached s ∧ s.stageState ∈ [0, 2, 3] ∧ s.inOwn
    s.stageBase (up4k len.toNat + 65536) = false :=
  ⟨bench.wr (Reg.PC_RANGE 0) 0, 5, by decide +kernel⟩

theorem wit_StagedActivation_3 : ∃ (s : State) (img : List Byte) (st : Status) (u : State), s.fwRuns .liaison = true ∧
    s.stageState = 1 ∧ s.fetch .firmware .normal 1 128 s.stageBase (s.gf Reg.FW_STAGE_CTRL Fld.FW_STAGE_CTRL_LEN) =
    ((st, img), u) :=
  ⟨bench.setStage 1 0 0, [], .ok, ((bench.setStage 1 0 0).fetch .firmware .normal 1 128 0 0).2, by decide +kernel⟩

theorem wit_StagedActivation_4 : ∃ (s : State) (len : BitVec 20), Reached s ∧ s.stageState = 2 :=
  ⟨stageBench 2, 0, by decide +kernel⟩

theorem wit_StagedActivation_5 : ∃ (s : State) (g : Staged), s.fwRuns .scheduler = true ∧ s.fw.staged = some g ∧
    s.stageState = 4 ∧ s.sched.packets = [] ∧ s.fw.commitAt = none ∧ s.fw.handed = false ∧ s.emergency = false ∧
    (s.isCaptain = false ∨ s.deputy = none) :=
  ⟨stageBench 4, { image := [], digest := sha384 [] }, by decide +kernel⟩

theorem wit_StagedActivation_6 : ∃ (s : State) (g : Staged), s.fwRuns .scheduler = true ∧ s.fw.staged = some g ∧
    s.stageState = 4 ∧ s.sched.packets = [] ∧ s.fw.commitAt = none ∧ s.fw.handed = false ∧ s.emergency = true :=
  ⟨(stageBench 4).modPwr (fun w => { w with badSupply := [1] }), { image := [], digest := sha384 [] },
      by decide +kernel⟩

theorem wit_StagedActivation_7 : ∃ (s : State) (t0 : Nat), s.fwRuns .scheduler = true ∧ s.fw.calmSince = some t0 ∧
    s.stageState = 5 ∧ s.emergency = false ∧ t0 + 100000000 ≤ s.clk.pkg :=
  ⟨{ (stageBench 5).modFw (fun w => { w with calmSince := some 0 }) with clk := { bench.clk with pkg := 100000000 } },
      0, by decide +kernel⟩

theorem wit_StagedActivation_8 : ∃ (s : State) (n : Nat) (t0 : Nat) (g : Staged) (img : List Byte) (st : Status) (u :
    State), s.live .firmware = true ∧ s.fw.commitAt = some n ∧ s.fw.staged = some g ∧ s.fetch .firmware .normal 1 128
    s.stageBase g.image.length = ((st, img), u) ∧ imgDigest img g.image.length = g.digest ∧ s.fw.hostTimer = some t0 ∧
    s.clk.raw < t0 + s.gf Reg.FW_HOST_TIMEOUT Fld.FW_HOST_TIMEOUT_MS * 1000000 ∧ s.fw.picture = [] :=
  ⟨((stageBench 4).sf Reg.FW_HOST_TIMEOUT Fld.FW_HOST_TIMEOUT_MS 5).modFw (fun w =>
      { w with commitAt := some 0, hostTimer := some 0 }), 0, 0, { image := [], digest := sha384 [] }, [], .ok,
      (((stageBench 4).sf Reg.FW_HOST_TIMEOUT Fld.FW_HOST_TIMEOUT_MS 5).modFw (fun w =>
      { w with commitAt := some 0, hostTimer := some 0 }) |>.fetch .firmware .normal 1 128 0 0).2, by decide +kernel⟩

theorem wit_StagedActivation_9 : ∃ (s : State) (n : Nat) (g : Staged) (img : List Byte) (st : Status) (u : State),
    s.live .firmware = true ∧ s.fw.commitAt = some n ∧ s.fw.staged = some g ∧ s.fetch .firmware .normal 1 128
    s.stageBase g.image.length = ((st, img), u) ∧ imgDigest img g.image.length ≠ g.digest :=
  ⟨(stageBench 4).modFw (fun w => { w with commitAt := some 0, staged := some { image := [], digest := 5 } }), 0,
      { image := [], digest := 5 }, [], .ok, ((stageBench 4).modFw (fun w =>
      { w with commitAt := some 0, staged := some { image := [], digest := 5 } }) |>.fetch .firmware .normal 1 128 0
      0).2, by decide +kernel⟩

theorem wit_StagedActivation_10 : ∃ (s : State) (len : BitVec 20), Reached s ∧ (s.stageState = 2 ∨ s.stageState = 4 ∨
    s.stageState = 5) ∧ s.fw.handed = false :=
  ⟨stageBench 4, 0, by decide +kernel⟩

theorem wit_StagedActivation_11 : ∃ (s : State) (n : Nat) (g : Staged) (img : List Byte) (st : Status) (u : State),
    s.live .firmware = true ∧ s.fw.commitAt = some n ∧ s.fw.staged = some g ∧ s.fetch .firmware .normal 1 128
    s.stageBase g.image.length = ((st, img), u) ∧ imgDigest img g.image.length = g.digest :=
  ⟨((stageBench 4).sf Reg.FW_HOST_TIMEOUT Fld.FW_HOST_TIMEOUT_MS 5).modFw (fun w =>
      { w with commitAt := some 0, hostTimer := some 0 }), 0, { image := [], digest := sha384 [] }, [], .ok,
      (((stageBench 4).sf Reg.FW_HOST_TIMEOUT Fld.FW_HOST_TIMEOUT_MS 5).modFw (fun w =>
      { w with commitAt := some 0, hostTimer := some 0 }) |>.fetch .firmware .normal 1 128 0 0).2, by decide +kernel⟩

theorem wit_RemoteReceiving_1 : ∃ (s : State) (n : Fin 8) (b : List Byte), Arrives s n b :=
  ⟨rmtBench, 2, (benchFrame 1 7).bytes, by decide +kernel⟩

theorem wit_RemoteReceiving_2 : ∃ (s : State) (n : Fin 8) (b : List Byte) (p : Nat), Arrives s n b ∧ ForUs s
    (Frame.ofBytes b) ∧ s.partnerOf (Frame.ofBytes b).src = some p ∧ s.seqAhead p (Frame.ofBytes b).seq = 0 ∧
    (Frame.ofBytes b).isNotice = false ∧ (Frame.ofBytes b).ackReq = false ∧ (∀ y ∈ s.rmt.held, y.partner ≠ p) :=
  ⟨rmtBench, 2, (benchFrame 1 7).bytes, 5, by decide +kernel⟩

theorem wit_RemoteReceiving_3 : ∃ (s : State) (n : Fin 8) (b : List Byte) (p : Nat), Arrives s n b ∧ ForUs s
    (Frame.ofBytes b) ∧ s.partnerOf (Frame.ofBytes b).src = some p ∧ 1 ≤ s.seqAhead p (Frame.ofBytes b).seq ∧
    s.seqAhead p (Frame.ofBytes b).seq ≤ 255 ∧ s.rmt.held.length < 64 ∧ (∀ y ∈ s.rmt.held, y.partner = p → y.frame.seq
    ≠ (Frame.ofBytes b).seq) :=
  ⟨rmtBench, 2, (benchFrame 1 9).bytes, 5, by decide +kernel⟩

theorem wit_RemoteReceiving_4 : ∃ (s : State) (n : Fin 8) (b : List Byte) (p : Nat), Arrives s n b ∧ ForUs s
    (Frame.ofBytes b) ∧ s.partnerOf (Frame.ofBytes b).src = some p ∧ 2 ^ 23 ≤ s.seqAhead p (Frame.ofBytes b).seq ∧
    (Frame.ofBytes b).ackReq = true :=
  ⟨rmtBench, 2, { benchFrame 1 5 with ackReq := true }.bytes, 5, by decide +kernel⟩

theorem wit_RemoteReceiving_5 : ∃ (s : State) (n : Fin 8) (b : List Byte) (p : Nat), Arrives s n b ∧ ForUs s
    (Frame.ofBytes b) ∧ s.partnerOf (Frame.ofBytes b).src = some p ∧ 256 ≤ s.seqAhead p (Frame.ofBytes b).seq ∧
    s.seqAhead p (Frame.ofBytes b).seq < 2 ^ 23 :=
  ⟨rmtBench, 2, (benchFrame 1 2000).bytes, 5, by decide +kernel⟩

theorem wit_RemoteReceiving_6 : ∃ (s : State) (n : Fin 8) (b : List Byte), Arrives s n b ∧ ForUs s (Frame.ofBytes b) ∧
    s.partnerOf (Frame.ofBytes b).src = none :=
  ⟨rmtBench, 2, { benchFrame 1 7 with src := 0x02000000 }.bytes, by decide +kernel⟩

theorem wit_RemoteReceiving_7 : ∃ (s : State) (n : Fin 8) (b : List Byte), Arrives s n b ∧ (Frame.ofBytes b).dst / 256
    ≠ s.endpoint / 256 ∧ (Frame.ofBytes b).hops = 0 :=
  ⟨rmtBench, 2, { benchFrame 1 7 with dst := 0x03000000, hops := 0 }.bytes, by decide +kernel⟩

theorem wit_RemoteReceiving_8 : ∃ (s : State) (n : Fin 8) (b : List Byte), s.live .remote = true ∧ s.rmtUp n = true ∧
    s.rxReady n = true ∧ b.length = 64 ∧ (Frame.ofBytes b).opcode = 0x14 ∧ (s.sub n).rxHeld = none ∧ (Frame.ofBytes
    b).credit.all (fun c => c = 0) = false :=
  ⟨rmtBench, 2, { benchFrame 0x14 0 with credit := [3, 0, 0, 0] }.bytes, by decide +kernel⟩

theorem wit_RemoteReceiving_9 : ∃ (s : State) (n : Fin 8) (c : List Nat) (rest : List (List Nat)), s.live .remote =
    true ∧ (s.sub n).creditIn = c :: rest :=
  ⟨rmtBench.modSub 2 (fun p => { p with creditIn := [[4, 3, 2, 1]] }), 2, [4, 3, 2, 1], [], by decide +kernel⟩

theorem wit_RemoteReceiving_10 : ∃ (s : State) (n : Fin 8) (t0 : Nat), s.live .remote = true ∧ (s.sub n).owedAt = some
    t0 ∧ t0 + 1000 ≤ s.now .remote ∧ (s.sub n).ctl.any (fun f => f.opcode = 0x14) = false :=
  ⟨(later 1000 rmtBench).modSub 2 (fun p => { p with owedAt := some 0 }), 2, 0, by decide +kernel⟩

theorem wit_RemoteReceiving_11 : ∃ (s : State) (x : RxFrame), s.live .remote = true ∧ s.rmt.held = [x] ∧ x.at_ + s.gf
    Reg.RMT_PORT_CFG Fld.RMT_PORT_CFG_REORDER_US * 1000 ≤ s.now .remote ∧ 0 < s.seqAhead x.partner x.frame.seq ∧
    x.frame.seq < 2 ^ 24 ∧ x.frame.isNotice = false ∧ x.frame.ackReq = false :=
  ⟨(later 10000000 rmtBench).modRmt (fun r => { r with held := [benchRx (benchFrame 1 9)] }), benchRx (benchFrame 1
      9), by decide +kernel⟩

theorem wit_RemoteReceiving_12 : ∃ (s : State) (n : Fin 8) (src : Nat) (seq : Nat) (p : Nat) (rest : List (Nat × Nat))
    (a : AckWait), s.live .remote = true ∧ (s.sub n).acksIn = (src, seq) :: rest ∧ s.partnerOf src = some p ∧
    s.rmt.acks = [a] ∧ a.partner = p ∧ a.frame.seq = seq :=
  ⟨rmtBench.modSub 2 (fun p => { p with acksIn := [(0x01000000, 3)] }) |>.modRmt (fun r =>
      { r with acks := [benchAck] }), 2, 0x01000000, 3, 5, [], benchAck, by decide +kernel⟩

theorem wit_RemoteReceiving_13 : ∃ (s : State) (a : AckWait) (t0 : Nat), s.live .remote = true ∧ s.rmt.acks = [a] ∧
    a.from_ = some t0 ∧ t0 + a.left ≤ s.now .remote ∧ a.retries < s.gf Reg.RMT_PORT_CFG Fld.RMT_PORT_CFG_RETRIES ∧
    s.gateList (s.ptSub a.partner) = [] :=
  ⟨(later 5 rmtBench).modRmt (fun r => { r with acks := [{ benchAck with left := 5, from_ := some 0 }] }),
      { benchAck with left := 5, from_ := some 0 }, 0, by decide +kernel⟩

theorem wit_RemoteReceiving_14 : ∃ (s : State) (a : AckWait) (t0 : Nat), s.live .remote = true ∧ s.rmt.acks = [a] ∧
    a.from_ = some t0 ∧ t0 + a.left ≤ s.now .remote ∧ s.gf Reg.RMT_PORT_CFG Fld.RMT_PORT_CFG_RETRIES ≤ a.retries :=
  ⟨(later 5 rmtBench).modRmt (fun r =>
      { r with acks := [{ benchAck with left := 5, from_ := some 0, retries := 255 }] }),
      { benchAck with left := 5, from_ := some 0, retries := 255 }, 0, by decide +kernel⟩

theorem wit_RemoteReceiving_15 : ∃ (s : State) (n : Fin 8) (b : List Byte) (err : Bool), s.live .remote = true ∧
    s.rmtUp n = true ∧ s.rxReady n = true :=
  ⟨rmtBench, 2, (benchFrame 1 7).bytes, true, by decide +kernel⟩

theorem wit_RemoteReceiving_16 : ∃ (s : State) (n : Fin 8) (b : List Byte) (err : Bool), (s.rmtUp n = false ∨
    s.rxReady n = false) :=
  ⟨rmtBench, 3, (benchFrame 1 7).bytes, false, by decide +kernel⟩

theorem wit_RemoteReceiving_17 : ∃ (s : State) (x : RxFrame) (y : RxFrame), s.live .remote = true ∧ (s.rmt.held.find?
    fun z => decide (z.at_ + s.gf Reg.RMT_PORT_CFG Fld.RMT_PORT_CFG_REORDER_US * 1000 ≤ s.now .remote)) = some x ∧ y ∈
    s.rmt.held ∧ y.partner = x.partner ∧ y.frame.seq < 2 ^ 24 ∧ s.noticeFull y.frame = false ∧ (∀ z ∈ s.rmt.held,
    z.partner = x.partner → s.seqAhead x.partner y.frame.seq ≤ s.seqAhead x.partner z.frame.seq ∧ (z.frame.seq =
    y.frame.seq → z = y)) :=
  ⟨(later 10000000 rmtBench).modRmt (fun r => { r with held := [benchRx (benchFrame 1 9)] }), benchRx (benchFrame 1
      9), benchRx (benchFrame 1 9), by decide +kernel⟩

theorem wit_RemoteReceiving_18 : ∃ (s : State) (n : Fin 8) (src : Nat) (seq : Nat) (p : Nat) (rest : List (Nat × Nat))
    (a : AckWait), s.live .remote = true ∧ (s.sub n).acksIn = (src, seq) :: rest ∧ s.partnerOf src = some p ∧
    (s.rmt.acks.find? fun x => x.partner = p ∧ x.frame.seq = seq) = some a :=
  ⟨rmtBench.modSub 2 (fun p => { p with acksIn := [(0x01000000, 3)] }) |>.modRmt (fun r =>
      { r with acks := [benchAck] }), 2, 0x01000000, 3, 5, [], benchAck, by decide +kernel⟩

theorem wit_RemoteReceiving_19 : ∃ (s : State) (n : Fin 8) (src : Nat) (seq : Nat) (p : Nat) (rest : List (Nat ×
    Nat)), s.live .remote = true ∧ (s.sub n).acksIn = (src, seq) :: rest ∧ s.partnerOf src = some p ∧
    (s.rmt.acks.find? fun x => x.partner = p ∧ x.frame.seq = seq) = none :=
  ⟨rmtBench.modSub 2 (fun p => { p with acksIn := [(0x01000000, 4)] }) |>.modRmt (fun r =>
      { r with acks := [benchAck] }), 2, 0x01000000, 4, 5, [], by decide +kernel⟩

theorem wit_RemoteReceiving_20 : ∃ (s : State) (a : AckWait), s.live .remote = true ∧ RanOut s a ∧ a.retries < s.gf
    Reg.RMT_PORT_CFG Fld.RMT_PORT_CFG_RETRIES ∧ s.oversize (s.ptSub a.partner) (againTx s a) = false :=
  ⟨(later 5 rmtBench).modRmt (fun r => { r with acks := [{ benchAck with left := 5, from_ := some 0 }] }),
      { benchAck with left := 5, from_ := some 0 }, by decide +kernel⟩

theorem wit_RemoteReceiving_21 : ∃ (s : State) (a : AckWait), s.live .remote = true ∧ RanOut s a ∧ s.gf
    Reg.RMT_PORT_CFG Fld.RMT_PORT_CFG_RETRIES ≤ a.retries :=
  ⟨(later 5 rmtBench).modRmt (fun r =>
      { r with acks := [{ benchAck with left := 5, from_ := some 0, retries := 255 }] }),
      { benchAck with left := 5, from_ := some 0, retries := 255 }, by decide +kernel⟩

theorem wit_RemoteRequests_1 : ∃ (s : State) (r : RmtReq), s.live .remote = true ∧ s.rmt.reqs = [r] ∧ r.checked =
    false ∧ r.rx.frame.opcode = 1 ∧ r.rx.frame.payload = [] ∧ r.rx.frame.payBytes = 0 ∧ (s.ptEntry
    r.rx.partner).testBit 124 = true ∧ r.rx.frame.count = 64 ∧ r.rx.frame.addr % 64 = 0 ∧ s.shutdown = false :=
  ⟨reqBench (newReq (benchRx (benchFrame 1 7))), newReq (benchRx (benchFrame 1 7)), by decide +kernel⟩

theorem wit_RemoteRequests_2 : ∃ (s : State) (r : RmtReq), s.live .remote = true ∧ s.rmt.reqs = [r] ∧ r.checked =
    false ∧ r.issued = none ∧ r.rx.sub = none ∧ r.rx.frame.opcode = 2 ∧ (s.ptEntry r.rx.partner).testBit 125 = false ∧
    s.txRoom (s.ptSub r.rx.partner) 64 = true ∧ s.gateList (s.ptSub r.rx.partner) = [] :=
  ⟨reqBench (newReq { benchRx (benchFrame 2 7) with partner := 6, sub := none }), newReq
      { benchRx (benchFrame 2 7) with partner := 6, sub := none }, by decide +kernel⟩

theorem wit_RemoteRequests_3 : ∃ (s : State) (r : RmtReq), s.live .remote = true ∧ s.rmt.reqs = [r] ∧ r.checked =
    false ∧ r.issued = none ∧ r.rx.sub = none ∧ r.rx.frame.opcode = 1 ∧ r.rx.frame.payload = [] ∧ r.rx.frame.payBytes
    = 0 ∧ (s.ptEntry r.rx.partner).testBit 124 = true ∧ r.rx.frame.count = 64 ∧ r.rx.frame.addr % 64 = 0 ∧ s.shutdown
    = true ∧ s.txRoom (s.ptSub r.rx.partner) 64 = true ∧ s.gateList (s.ptSub r.rx.partner) = [] :=
  ⟨(reqBench (newReq { benchRx (benchFrame 1 7) with sub := none })).raise Reg.THERM_STATUS Fld.THERM_STATUS_SHUTDOWN,
      newReq { benchRx (benchFrame 1 7) with sub := none }, by decide +kernel⟩

theorem wit_RemoteRequests_4 : ∃ (s : State) (r : RmtReq), OneReq s r 1 r.rx.frame.count ∧ (r.rx.frame.count + 255) /
    256 ≤ 1024 ∧ s.bit Reg.CNT_TAG_CFG Fld.CNT_TAG_CFG_ENABLE = false ∧ s.tags.live = [] ∧ (∀ x ∈ frameParts
    r.rx.frame.addr r.rx.frame.count, s.route x.1 = .own (natBits x.1 0 37) ∧ (s.gf Reg.CACHE_FENCE
    Fld.CACHE_FENCE_PENDING).testBit (s.sliceOf x.1) = false) ∧ s.shutdown = false ∧ s.pwr.failed = false :=
  ⟨reqBench (doneReq { benchFrame 1 7 with count := 256 }), doneReq { benchFrame 1 7 with count := 256 },
      by decide +kernel⟩

theorem wit_RemoteRequests_5 : ∃ (s : State) (r : RmtReq), OneReq s r 2 0 ∧ (r.rx.frame.payBytes + 255) / 256 ≤ 1024 ∧
    s.bit Reg.CNT_TAG_CFG Fld.CNT_TAG_CFG_ENABLE = false ∧ s.tags.live = [] ∧ (∀ x ∈ frameParts r.rx.frame.addr
    r.rx.frame.payBytes, s.route x.1 = .own (natBits x.1 0 37) ∧ (s.gf Reg.CACHE_FENCE
    Fld.CACHE_FENCE_PENDING).testBit (s.sliceOf x.1) = false) ∧ s.shutdown = false ∧ s.pwr.failed = false :=
  ⟨reqBench (doneReq { benchFrame 2 7 with payBytes := 256, payload := zeros 256 }), doneReq
      { benchFrame 2 7 with payBytes := 256, payload := zeros 256 }, by decide +kernel⟩

theorem wit_RemoteRequests_6 : ∃ (s : State) (r : RmtReq), OneReq s r 3 r.rx.frame.replyBytes ∧ (r.rx.frame.payBytes +
    255) / 256 ≤ 1024 ∧ s.bit Reg.CNT_TAG_CFG Fld.CNT_TAG_CFG_ENABLE = false ∧ s.tags.live = [] ∧ (∀ x ∈ frameParts
    r.rx.frame.addr r.rx.frame.payBytes, s.route x.1 = .own (natBits x.1 0 37) ∧ (s.gf Reg.CACHE_FENCE
    Fld.CACHE_FENCE_PENDING).testBit (s.sliceOf x.1) = false) ∧ s.shutdown = false ∧ s.pwr.failed = false :=
  ⟨reqBench (doneReq { benchFrame 3 7 with payBytes := 8, payload := zeros 8, attr := 0x100 }), doneReq
      { benchFrame 3 7 with payBytes := 8, payload := zeros 8, attr := 0x100 }, by decide +kernel⟩

theorem wit_RemoteRequests_7 : ∃ (s : State) (r : RmtReq), OneReq s r 4 r.rx.frame.replyBytes ∧ (r.rx.frame.payBytes +
    255) / 256 ≤ 1024 ∧ s.bit Reg.CNT_TAG_CFG Fld.CNT_TAG_CFG_ENABLE = false ∧ s.tags.live = [] ∧ (∀ x ∈ frameParts
    r.rx.frame.addr r.rx.frame.payBytes, s.route x.1 = .own (natBits x.1 0 37) ∧ (s.gf Reg.CACHE_FENCE
    Fld.CACHE_FENCE_PENDING).testBit (s.sliceOf x.1) = false) ∧ s.shutdown = false ∧ s.pwr.failed = false :=
  ⟨reqBench (doneReq { benchFrame 4 7 with payBytes := 8, payload := zeros 8, count := 1 }), doneReq
      { benchFrame 4 7 with payBytes := 8, payload := zeros 8, count := 1 }, by decide +kernel⟩

theorem wit_RemoteRequests_8 : ∃ (s : State) (r : RmtReq), OneReq s r 5 4096 ∧ s.gf Reg.BME_TDT_SIZE
    Fld.BME_TDT_SIZE_ENTRIES ≤ r.rx.frame.sigField 0 2 ∧ r.rx.sub = none ∧ s.gateList (s.ptSub r.rx.partner) = [] :=
  ⟨reqBench (doneReq { benchFrame 5 7 with payload := zeros 36, payBytes := 36 }), doneReq
      { benchFrame 5 7 with payload := zeros 36, payBytes := 36 }, by decide +kernel⟩

theorem wit_RemoteRequests_9 : ∃ (s : State) (r : RmtReq) (d0 : Desc) (u : State) (o : SigOp) (total : Nat), OneReq s
    r 5 4096 ∧ s.readDesc (r.rx.frame.sigField 0 2) = (some d0, u) ∧ u.remoteBag r.rx.frame d0 s.freshId = .inr (o,
    total) ∧ s.seq.remoteQueue.length < 64 ∧ r.rx.sub = none :=
  ⟨sigReqBench, doneReq sigFrame, { sigDesc with remoteOk := true }, (sigReqBench.readDesc 0).2, sigOfFrame, 64,
      by decide +kernel⟩

theorem wit_RemoteRequests_10 : ∃ (s : State) (r : RmtReq) (e : Nat) (c : Completion), s.live .remote = true ∧
    s.rmt.reqs = [r] ∧ r.issued = some e ∧ r.rx.frame.opcode = 1 ∧ r.rx.frame.count ≤ 128 ∧ s.inFlight e = false ∧
    s.paths.done = [c] ∧ c.req.id = e ∧ c.req.part = 0 ∧ s.gateList (s.ptSub r.rx.partner) = [] :=
  ⟨(reqBench { doneReq (benchFrame 1 7) with issued := some 3 }).modPaths (fun x => { x with done := [benchDone 3] }),
      { doneReq (benchFrame 1 7) with issued := some 3 }, 3, benchDone 3, by decide +kernel⟩

theorem wit_RemoteRequests_11 : ∃ (s : State) (r : RmtReq) (e : Nat) (st : Status) (d : Nat) (pay : List Byte), s.live
    .remote = true ∧ s.rmt.reqs = [r] ∧ r.issued = some e ∧ r.rx.frame.opcode = 5 ∧ s.seq.answers = [(e, st, d, pay)]
    ∧ s.gateList (s.ptSub r.rx.partner) = [] :=
  ⟨(reqBench { doneReq sigFrame with issued := some 3 }).modSeq (fun q =>
      { q with answers := [(3, .ok, 9, zeros 64)] }), { doneReq sigFrame with issued := some 3 }, 3, .ok, 9, zeros 64,
      by decide +kernel⟩

theorem wit_RemoteRequests_12 : ∃ (s : State) (r : RmtReq), s.live .remote = true ∧ (s.rmt.reqs.find? fun x =>
    !x.checked) = some r ∧ s.requestRefusal r.rx = none :=
  ⟨reqBench (newReq (benchRx (benchFrame 1 7))), newReq (benchRx (benchFrame 1 7)), by decide +kernel⟩

theorem wit_RemoteRequests_13 : ∃ (s : State) (r : RmtReq) (st : Status), s.live .remote = true ∧ (s.rmt.reqs.find?
    fun x => !x.checked) = some r ∧ s.requestRefusal r.rx = some st ∧ s.txRoom (s.ptSub r.rx.partner) 64 = true ∧
    s.oversize (s.ptSub r.rx.partner) (replyOf s r.rx st 0 0 []) = false :=
  ⟨reqBench (newReq { benchRx (benchFrame 2 7) with partner := 6, sub := none }), newReq
      { benchRx (benchFrame 2 7) with partner := 6, sub := none }, .badRequest, by decide +kernel⟩

theorem wit_RemoteRequests_14 : ∃ (s : State) (r : RmtReq), NextOf s r 1 r.rx.frame.count r.rx.frame.count :=
  ⟨reqBench (doneReq { benchFrame 1 7 with count := 256 }), doneReq { benchFrame 1 7 with count := 256 },
      by decide +kernel⟩

theorem wit_RemoteRequests_15 : ∃ (s : State) (r : RmtReq), NextOf s r 2 r.rx.frame.payBytes 0 :=
  ⟨reqBench (doneReq { benchFrame 2 7 with payBytes := 256, payload := zeros 256 }), doneReq
      { benchFrame 2 7 with payBytes := 256, payload := zeros 256 }, by decide +kernel⟩

theorem wit_RemoteRequests_16 : ∃ (s : State) (r : RmtReq), NextOf s r 3 r.rx.frame.payBytes r.rx.frame.replyBytes :=
  ⟨reqBench (doneReq { benchFrame 3 7 with payBytes := 8, payload := zeros 8, attr := 0x100 }), doneReq
      { benchFrame 3 7 with payBytes := 8, payload := zeros 8, attr := 0x100 }, by decide +kernel⟩

theorem wit_RemoteRequests_17 : ∃ (s : State) (r : RmtReq), NextOf s r 4 r.rx.frame.payBytes r.rx.frame.replyBytes :=
  ⟨reqBench (doneReq { benchFrame 4 7 with payBytes := 8, payload := zeros 8, count := 1 }), doneReq
      { benchFrame 4 7 with payBytes := 8, payload := zeros 8, count := 1 }, by decide +kernel⟩

theorem wit_RemoteRequests_18 : ∃ (s : State) (r : RmtReq) (d0 : Desc) (u : State) (o : SigOp) (total : Nat), NextSig
    s r ∧ s.readDesc (r.rx.frame.sigField 0 2) = (some d0, u) ∧ u.remoteBag r.rx.frame d0 s.freshId = .inr (o, total)
    ∧ s.seq.remoteQueue.length < 64 :=
  ⟨sigReqBench, doneReq sigFrame, { sigDesc with remoteOk := true }, (sigReqBench.readDesc 0).2, sigOfFrame, 64,
      by decide +kernel⟩

theorem wit_RemoteRequests_19 : ∃ (s : State) (r : RmtReq) (d0 : Desc) (u : State) (st : Status) (det : Nat), NextSig
    s r ∧ s.readDesc (r.rx.frame.sigField 0 2) = (some d0, u) ∧ u.remoteBag r.rx.frame d0 s.freshId = .inl (st, det) ∧
    s.oversize (s.ptSub r.rx.partner) (replyOf s r.rx st det 0 []) = false :=
  ⟨sigReqBench.modRmt (fun q =>
      { q with reqs := [doneReq { sigFrame with payload := patch sigFrame.payload 32 (leBytes 4 9) }] }), doneReq
      { sigFrame with payload := patch sigFrame.payload 32 (leBytes 4 9) }, { sigDesc with remoteOk := true },
      ((sigReqBench.modRmt (fun q =>
      { q with reqs := [doneReq { sigFrame with payload := patch sigFrame.payload 32 (leBytes 4 9) }] })).readDesc
      0).2, .indexOutOfRange, 0, by decide +kernel⟩

theorem wit_RemoteRequests_20 : ∃ (s : State) (r : RmtReq) (i : Nat), s.live .remote = true ∧ (s.rmt.reqs.find?
    s.reqDone) = some r ∧ r.issued = some i ∧ r.rx.frame.opcode ≠ 5 ∧ s.oversize (s.ptSub r.rx.partner) (replyOf s
    r.rx (s.gatherReq r i).1 0 0 (s.gatherReq r i).2) = false :=
  ⟨(reqBench { doneReq (benchFrame 1 7) with issued := some 3 }).modPaths (fun x => { x with done := [benchDone 3] }),
      { doneReq (benchFrame 1 7) with issued := some 3 }, 3, by decide +kernel⟩

theorem wit_SendingFrames_1 : ∃ (s : State) (n : Fin 8) (x : Tx), FreeSub s n ∧ MaySend s n x ∧ (s.sub n).tx = [x] ∧
    s.gateList n = [] :=
  ⟨txBench [benchTx 3 1], 2, benchTx 3 1, by decide +kernel⟩

theorem wit_SendingFrames_2 : ∃ (s : State) (n : Fin 8) (x : Tx) (y : Tx), FreeSub s n ∧ MaySend s n y ∧ (s.sub n).tx
    = [x, y] ∧ x.cls < y.cls ∧ s.gateList n = [] :=
  ⟨txBench [benchTx 3 1, benchTx 6 2], 2, benchTx 3 1, benchTx 6 2, by decide +kernel⟩

theorem wit_SendingFrames_3 : ∃ (s : State) (n : Fin 8) (f : Frame) (rest : List Frame), s.live .remote = true ∧
    s.rmtUp n = true ∧ (s.sub n).sending = none ∧ (s.sub n).startAt + (s.sub n).busy ≤ s.now .remote ∧ (s.sub n).ctl =
    f :: rest ∧ ((s.sub n).ctlAt.all fun t0 => decide (t0 + 32 ≤ s.now .remote)) = true ∧ f.ackReq = false :=
  ⟨(txBench [benchTx 3 1]).control 2 (rmtBench.newFrame 0x14 0 0 0), 2, rmtBench.newFrame 0x14 0 0 0, [],
      by decide +kernel⟩

theorem wit_SendingFrames_4 : ∃ (s : State) (n : Fin 8) (x : Tx), FreeSub s n ∧ (s.sub n).tx = [x] ∧ s.gateOpen n
    x.cls = false :=
  ⟨gateBench 0xFD000064 (txBench [benchTx 1 1]), 2, benchTx 1 1, by decide +kernel⟩

theorem wit_SendingFrames_5 : ∃ (s : State) (n : Fin 8) (x : Tx), s.live .remote = true ∧ s.rmtUp n = true ∧ (s.sub
    n).sending = some x ∧ (s.sub n).startAt + (x.frame.len + 127) / 128 ≤ s.now .remote ∧ (s.sub n).txDrop = false ∧
    x.frame.ackReq = false ∧ s.rmt.fwd = [] :=
  ⟨later 9 (sendingBench (benchTx 3 1)), 2, benchTx 3 1, by decide +kernel⟩

theorem wit_SendingFrames_6 : ∃ (s : State) (n : Fin 8) (x : Tx) (a : AckWait), s.live .remote = true ∧ s.rmtUp n =
    true ∧ (s.sub n).sending = some x ∧ (s.sub n).startAt + (x.frame.len + 127) / 128 ≤ s.now .remote ∧ (s.sub
    n).txDrop = false ∧ x.frame.ackReq = true ∧ s.rmt.acks = [a] ∧ a.partner = x.key ∧ a.frame.seq = x.frame.seq ∧
    s.rmt.fwd = [] :=
  ⟨(later 9 (sendingBench (ackTx 3 1))).modRmt (fun r =>
      { r with acks := [{ benchAck with frame := (ackTx 3 1).frame }] }), 2, ackTx 3 1,
      { benchAck with frame := (ackTx 3 1).frame }, by decide +kernel⟩

theorem wit_SendingFrames_7 : ∃ (s : State) (n : Fin 8) (c : Fin 8) (x : Tx) (d : List (Nat × Nat)), FreeSub s n ∧
    (looking s n).bestClass n = some (c, x, d) :=
  ⟨txBench [benchTx 3 1], 2, 3, benchTx 3 1, ((looking (txBench [benchTx 3 1]) 2).bestClass 2).elim [] (fun x =>
      x.2.2), by decide +kernel⟩

theorem wit_SendingFrames_8 : ∃ (s : State) (n : Fin 8), FreeSub s n ∧ (looking s n).bestClass n = none :=
  ⟨txBench [], 2, by decide +kernel⟩

theorem wit_SendingFrames_9 : ∃ (s : State) (n : Fin 8) (x : Tx), s.live .remote = true ∧ s.rmtUp n = true ∧ (s.sub
    n).sending = some x ∧ (s.sub n).startAt + (x.frame.len + 127) / 128 ≤ s.now .remote :=
  ⟨(later 9 (sendingBench (ackTx 3 1))).modRmt (fun r =>
      { r with acks := [{ benchAck with frame := (ackTx 3 1).frame }] }), 2, ackTx 3 1, by decide +kernel⟩

theorem wit_GateLists_1 : ∃ (s : State) (n : Fin 8) (x : Tx), s.live .remote = true ∧ (s.sub n).tx = [x] ∧ x.cls < 8 ∧
    x.reply = true ∧ s.oversize n x = true ∧ s.oversize n
    { x with frame := { x.frame with payload := [], payBytes := 0, status := Status.oversizeForGate.code } } = false
    :=
  ⟨twoGates (txBench [bigTx true]), 2, bigTx true, by decide +kernel⟩

theorem wit_GateLists_2 : ∃ (s : State) (n : Fin 8) (x : Tx), s.live .remote = true ∧ (s.sub n).tx = [x] ∧ x.cls < 8 ∧
    x.reply = false ∧ x.key < 8192 ∧ x.coll = none ∧ s.oversize n x = true :=
  ⟨twoGates (txBench [bigTx false]), 2, bigTx false, by decide +kernel⟩

theorem wit_GateLists_3 : ∃ (s : State) (n : Fin 8), s.live .remote = true ∧ s.gateList n ≠ [] ∧ s.gateLen n ≤ 256 ∧
    (s.sub n).entryAt + (s.gateEntry n (s.gateAt n)).2 ≤ s.now .remote :=
  ⟨later 100 (gateBench 0xFD000064 rmtBench), 2, by decide +kernel⟩

theorem wit_GateLists_4 : ∃ (s : State) (n : Fin 8) (v : Word), s.mgtReady = true ∧ s.live .remote = true ∧ s.bit
    (Reg.RMT_GATE_STATUS n) Fld.RMT_GATE_STATUS_ARMED = false ∧ s.now .remote + 1000 ≤ s.rd64 (Reg.RMT_GATE_SHIFT_TIME
    n) :=
  ⟨rmtBench.wr64 (Reg.RMT_GATE_SHIFT_TIME 2) 1000, 2, 3, by decide +kernel⟩

theorem wit_GateLists_5 : ∃ (s : State) (n : Fin 8) (v : Word), s.mgtReady = true ∧ s.live .remote = true ∧ s.bit
    (Reg.RMT_GATE_STATUS n) Fld.RMT_GATE_STATUS_ARMED = false ∧ s.rd64 (Reg.RMT_GATE_SHIFT_TIME n) < s.now .remote +
    1000 :=
  ⟨rmtBench.wr64 (Reg.RMT_GATE_SHIFT_TIME 2) 999, 2, 3, by decide +kernel⟩

theorem wit_GateLists_6 : ∃ (s : State) (n : Fin 8) (v : Word), s.mgtReady = true ∧ s.live .remote = true ∧ s.bit
    (Reg.RMT_GATE_STATUS n) Fld.RMT_GATE_STATUS_ARMED = true ∧ v.getLsbD 30 = false :=
  ⟨rmtBench.raise (Reg.RMT_GATE_STATUS 2) Fld.RMT_GATE_STATUS_ARMED, 2, 3, by decide +kernel⟩

theorem wit_GateLists_7 : ∃ (s : State) (n : Fin 8) (v : Word), s.mgtReady = true ∧ s.live .remote = true ∧ s.bit
    (Reg.RMT_GATE_STATUS n) Fld.RMT_GATE_STATUS_ARMED = true :=
  ⟨rmtBench.raise (Reg.RMT_GATE_STATUS 2) Fld.RMT_GATE_STATUS_ARMED, 2, 3, by decide +kernel⟩

theorem wit_GateLists_8 : ∃ (s : State) (n : Fin 8), s.live .remote = true ∧ s.bit (Reg.RMT_GATE_STATUS n)
    Fld.RMT_GATE_STATUS_ARMED = true ∧ s.rd64 (Reg.RMT_GATE_SHIFT_TIME n) ≤ s.now .remote ∧ s.gf (Reg.RMT_GATE_CTRL n)
    Fld.RMT_GATE_CTRL_SHADOW_LEN ≤ 256 :=
  ⟨(gateBench 0xFD000064 rmtBench).raise (Reg.RMT_GATE_STATUS 2) Fld.RMT_GATE_STATUS_ARMED, 2, by decide +kernel⟩

theorem wit_GateLists_9 : ∃ (s : State) (n : Fin 8) (x : Tx), s.live .remote = true ∧ HeadLong s n x :=
  ⟨twoGates (txBench [bigTx true]), 2, bigTx true, by decide +kernel⟩

theorem wit_GateLists_10 : ∃ (s : State) (n : Fin 8) (v : Word), s.mgtReady = true ∧ s.live .remote = true ∧ s.bit
    (Reg.RMT_GATE_STATUS n) Fld.RMT_GATE_STATUS_ARMED = true ∧ v.getLsbD 30 = true :=
  ⟨rmtBench.raise (Reg.RMT_GATE_STATUS 2) Fld.RMT_GATE_STATUS_ARMED, 2, 0x40000003, by decide +kernel⟩

theorem wit_GateLists_11 : ∃ (s : State) (n : Fin 8) (v : Word), s.mgtReady = true ∧ s.live .remote = true ∧ s.bit
    (Reg.RMT_GATE_STATUS n) Fld.RMT_GATE_STATUS_ARMED = false :=
  ⟨rmtBench, 2, 3, by decide +kernel⟩

theorem wit_ShaperReconfiguration_1 : ∃ (s : State) (n : Fin 8) (c : Fin 8) (lim : Bool) (v : Word), s.mgtReady = true
    ∧ s.live .remote = true ∧ (s.sub n).idleAt (s.now .remote) = true :=
  ⟨rmtBench, 2, 5, true, 0xC0018001, by decide +kernel⟩

theorem wit_ShaperReconfiguration_2 : ∃ (s : State) (n : Fin 8) (c : Fin 8) (lim : Bool) (v : Word), s.mgtReady = true
    ∧ s.live .remote = true ∧ (s.sub n).idleAt (s.now .remote) = false :=
  ⟨later 3 (sendingBench (benchTx 3 1)), 2, 3, false, 0x00200010, by decide +kernel⟩

theorem wit_ShaperReconfiguration_3 : ∃ (s : State) (n : Fin 8) (c : Fin 8) (x : Tx), s.live .remote = true ∧ s.rmtUp
    n = true ∧ (s.sub n).sending = some x ∧ (s.sub n).startAt + (x.frame.len + 127) / 128 ≤ s.now .remote ∧ (s.sub
    n).startAt + (s.sub n).busy ≤ s.now .remote ∧ (s.sub n).shapers[c].pending = true ∧ s.rmt.fwd = [] :=
  ⟨(later 9 (sendingBench (benchTx 3 1))).modSub 2 (fun p =>
      { p with shapers := p.shapers.set 3 { p.shapers[3] with pending := true } }), 2, 3, benchTx 3 1,
      by decide +kernel⟩

theorem wit_PartnersAndNotices_1 : ∃ (s : State) (v : Word), s.mgtReady = true ∧ s.live .remote = true ∧
    s.rmt.subs.toList.all (fun q => q.tx.all fun x => decide (x.key ≠ s.gf Reg.RMT_PT_INDEX Fld.RMT_PT_INDEX_ENTRY)) =
    true ∧ s.rmt.pt.all (fun e => decide (e.1 = s.gf Reg.RMT_PT_INDEX Fld.RMT_PT_INDEX_ENTRY) || decide (s.ptEndpoint
    e.1 ≠ (s.rd (Reg.RMT_PT_DATA 0)).toNat)) = true ∧ v.getLsbD 31 = true ∧ s.ptEndpoint (s.gf Reg.RMT_PT_INDEX
    Fld.RMT_PT_INDEX_ENTRY) ≠ (s.rd (Reg.RMT_PT_DATA 0)).toNat :=
  ⟨(rmtBench.wr Reg.RMT_PT_INDEX 6).wr (Reg.RMT_PT_DATA 0) 0x02000000, 0x84320010, by decide +kernel⟩

theorem wit_PartnersAndNotices_2 : ∃ (s : State) (v : Word), s.mgtReady = true ∧ s.live .remote = true ∧
    s.rmt.subs.toList.any (fun q => q.tx.any fun x => decide (x.key = s.gf Reg.RMT_PT_INDEX Fld.RMT_PT_INDEX_ENTRY)) =
    true ∧ ¬ Placed s s.ptIndex v :=
  ⟨(txBench [benchTx 3 1]).wr Reg.RMT_PT_INDEX 5, 0x84330010, by decide +kernel⟩

theorem wit_PartnersAndNotices_3 : ∃ (s : State), s.mgtReady = true ∧ s.live .remote = true :=
  ⟨rmtBench.wr Reg.RMT_PT_INDEX 5, by decide +kernel⟩

theorem wit_PartnersAndNotices_4 : ∃ (s : State) (c : Coll) (p : Nat) (rest : List Nat), s.live .remote = true ∧
    (s.sched.colls.find? fun y => !y.toNotify.isEmpty) = some c ∧ c.toNotify = p :: rest ∧ s.ptValid p = true ∧
    s.txRoom (s.ptSub p) 64 = true ∧ s.oversize (s.ptSub p) (ownTx s p true (some c.pk) (doneFrame s c)) = false :=
  ⟨collNote 5, { benchColl .notifying 0 with toNotify := [5] }, 5, [], by decide +kernel⟩

theorem wit_PartnersAndNotices_5 : ∃ (s : State) (c : Coll) (p : Nat) (rest : List Nat), s.live .remote = true ∧
    (s.sched.colls.find? fun y => !y.toNotify.isEmpty) = some c ∧ c.toNotify = p :: rest ∧ s.ptValid p = false :=
  ⟨collNote 6, { benchColl .notifying 0 with toNotify := [6] }, 6, [], by decide +kernel⟩

theorem wit_PartnersAndNotices_6 : ∃ (s : State) (p : Nat), s.live .remote = true ∧ s.gf Reg.THERM_STATUS
    Fld.THERM_STATUS_STEP ≠ s.rmt.slowStep ∧ s.sched.colls = [] ∧ s.rmt.pt.map (·.1) = [p] ∧ s.ptValid p = true ∧
    (s.ptEntry p).testBit 123 = true ∧ s.txRoom (s.ptSub p) 64 = true ∧ s.gateList (s.ptSub p) = [] :=
  ⟨rmtBench.sf Reg.THERM_STATUS Fld.THERM_STATUS_STEP 2, 5, by decide +kernel⟩

theorem wit_PartnersAndNotices_7 : ∃ (s : State), s.live .remote = true ∧ s.gf Reg.THERM_STATUS Fld.THERM_STATUS_STEP
    = s.rmt.slowStep ∧ (s.rmt.slowStep = 0 ∨ s.now .remote < s.rmt.slowAt + s.gf Reg.RMT_SLOW_CFG
    Fld.RMT_SLOW_CFG_SLOW_REPEAT_US * 1000) :=
  ⟨rmtBench, by decide +kernel⟩

theorem wit_PartnersAndNotices_8 : ∃ (s : State) (x : RxFrame) (rest : List RxFrame), s.live .remote = true ∧
    s.rmt.noticeAcks = [] ∧ s.rmt.noticeHeld = [] ∧ s.rmt.notices = x :: rest ∧ x.frame.opcode = 0x10 ∧ x.frame.ackReq
    = true ∧ x.sub = none ∧ s.ringOn Reg.RMT_NOTICE_RING = false :=
  ⟨noteBench 0x10, benchNote 0x10, [], by decide +kernel⟩

theorem wit_PartnersAndNotices_9 : ∃ (s : State) (x : RxFrame) (rest : List RxFrame), s.live .remote = true ∧
    s.rmt.noticeAcks = [] ∧ s.rmt.noticeHeld = [] ∧ s.rmt.notices = x :: rest ∧ x.frame.opcode = 0x10 ∧ x.frame.ackReq
    = true ∧ x.sub = none ∧ s.ringOn Reg.RMT_NOTICE_RING = true ∧ s.shutdown = false ∧ s.bit Reg.CNT_TAG_CFG
    Fld.CNT_TAG_CFG_ENABLE = false ∧ s.tags.live = [] ∧ s.route (s.ringBase Reg.RMT_NOTICE_RING + 32 * ((s.rd
    Reg.RMT_NOTICE_SEQ).toNat % s.ringSlots Reg.RMT_NOTICE_RING)) ≠ .hole :=
  ⟨(noteBench 0x10).wr Reg.RMT_NOTICE_RING 0x40 |>.wr (Reg.RMT_NOTICE_RING + 4) 0 |>.sf64 Reg.RMT_NOTICE_RING
      Fld.RMT_NOTICE_RING_ENABLE 1, benchNote 0x10, [], by decide +kernel⟩

theorem wit_PartnersAndNotices_10 : ∃ (s : State) (x : RxFrame) (rest : List RxFrame), s.live .remote = true ∧
    s.rmt.noticeAcks = [] ∧ s.rmt.noticeHeld.length < 256 ∧ s.rmt.notices = x :: rest ∧ x.frame.opcode = 0x10 ∧
    x.frame.ackReq = true ∧ x.sub = none ∧ s.ringOn Reg.RMT_NOTICE_RING = true ∧ s.shutdown = true :=
  ⟨((noteBench 0x10).sf64 Reg.RMT_NOTICE_RING Fld.RMT_NOTICE_RING_ENABLE 1).raise Reg.THERM_STATUS
      Fld.THERM_STATUS_SHUTDOWN, benchNote 0x10, [], by decide +kernel⟩

theorem wit_PartnersAndNotices_11 : ∃ (s : State) (e : Nat) (p : Nat) (q : Nat), s.live .remote = true ∧
    s.rmt.noticeAcks = [(e, (p, q))] ∧ p < 8192 ∧ s.inFlight e = false ∧ s.rmt.notices = [] ∧ s.rmt.noticeHeld = [] :=
  ⟨rmtBench.modRmt (fun r => { r with noticeAcks := [(3, (5, 8))] }), 3, 5, 8, by decide +kernel⟩

theorem wit_PartnersAndNotices_12 : ∃ (s : State) (x : RxFrame) (a : AckWait) (t0 : Nat), s.live .remote = true ∧
    s.rmt.noticeAcks = [] ∧ s.rmt.noticeHeld = [] ∧ s.rmt.slowed = [] ∧ s.rmt.notices = [x] ∧ x.frame.opcode = 0x12 ∧
    x.frame.ackReq = false ∧ x.sub = none ∧ 1 ≤ x.frame.detail % 16 ∧ x.frame.detail % 16 ≤ 8 ∧ s.rmt.acks = [a] ∧
    a.partner = x.partner ∧ a.from_ = some t0 ∧ x.at_ < t0 + a.left ∧ s.ringOn Reg.RMT_NOTICE_RING = false :=
  ⟨(later 7 (noteBench 0x12)).modRmt (fun r => { r with acks := [{ benchAck with left := 100, from_ := some 3 }] }),
      benchNote 0x12, { benchAck with left := 100, from_ := some 3 }, 3, by decide +kernel⟩

theorem wit_PartnersAndNotices_13 : ∃ (s : State) (p : Nat) (t0 : Nat), s.live .remote = true ∧ (s.rmt.slowed.find?
    fun e => decide (e.2 + s.gf Reg.RMT_SLOW_CFG Fld.RMT_SLOW_CFG_SLOW_HOLD_US * 1000 ≤ s.now .remote)) = some (p, t0)
    :=
  ⟨(later 1000000000 rmtBench).modRmt (fun r => { r with slowed := [(5, 0)], acks := [{ benchAck with left := 4 }] }),
      5, 0, by decide +kernel⟩

theorem wit_PartnersAndNotices_14 : ∃ (s : State) (v : Word), s.mgtReady = true ∧ s.live .remote = true ∧
    ((s.rmt.subs.toList.all (fun q => q.tx.all fun x => decide (x.key ≠ s.ptIndex)) = true) ∨ Placed s s.ptIndex v) :=
  ⟨rmtBench.wr Reg.RMT_PT_INDEX 5, 0x04330010, by decide +kernel⟩

theorem wit_PartnersAndNotices_15 : ∃ (s : State) (p : Nat) (a : Nat) (n : Nat) (tag : Nat) (rest : List (Nat × Nat ×
    Nat × Nat)), s.live .remote = true ∧ (s.sched.colls.find? fun y => !y.toNotify.isEmpty) = none ∧ s.sched.aborts =
    (p, a, n, tag) :: rest ∧ s.ptValid p = true ∧ s.txRoom (s.ptSub p) 64 = true ∧ s.oversize (s.ptSub p) (ownTx s p
    true none (abortFrame s a n tag)) = false :=
  ⟨rmtBench.modSched (fun c => { c with aborts := [(5, 0, 1, 7)] }), 5, 0, 1, 7, [], by decide +kernel⟩

theorem wit_PartnersAndNotices_16 : ∃ (s : State), s.live .remote = true ∧ (s.gf Reg.THERM_STATUS
    Fld.THERM_STATUS_STEP ≠ s.rmt.slowStep ∨ (0 < s.rmt.slowStep ∧ s.rmt.slowAt + s.gf Reg.RMT_SLOW_CFG
    Fld.RMT_SLOW_CFG_SLOW_REPEAT_US * 1000 ≤ s.now .remote)) :=
  ⟨rmtBench.sf Reg.THERM_STATUS Fld.THERM_STATUS_STEP 2, by decide +kernel⟩

theorem wit_PartnersAndNotices_17 : ∃ (s : State) (x : RxFrame) (rest : List RxFrame), s.live .remote = true ∧
    s.rmt.notices = x :: rest :=
  ⟨noteBench 0x12, benchNote 0x12, [], by decide +kernel⟩

theorem wit_LinksAndHistograms_1 : ∃ (s : State) (n : Fin 8) (x : Tx), s.live .remote = true ∧ s.rmtUp n = true ∧
    (s.sub n).sending = some x ∧ x.key ≠ 8193 ∧ s.rmt.pt = [] :=
  ⟨(sendingBench (benchTx 3 1)).modRmt (fun r => { r with pt := [] }), 2, benchTx 3 1, by decide +kernel⟩

theorem wit_LinksAndHistograms_2 : ∃ (s : State) (n : Fin 8) (p : Nat), s.live .remote = true ∧ s.rmtUp n = true ∧
    (s.sub n).sending = none ∧ s.rmt.pt.map (·.1) = [p] ∧ s.ptValid p = true ∧ s.ptHome p = n ∧ s.ptAltValid p = true
    ∧ s.ptOnAlt p = false ∧ s.ptAlt p ≠ n ∧ s.rmtUp (s.ptAlt p) = true :=
  ⟨(txBench [benchTx 3 1]).raise (Reg.RMT_SUBPORT_STATUS 3) Fld.RMT_SUBPORT_STATUS_LINK_UP, 2, 5, by decide +kernel⟩

theorem wit_LinksAndHistograms_3 : ∃ (s : State) (n : Fin 8) (p : Nat), s.live .remote = true ∧ s.rmtUp n = false ∧
    s.rmt.pt.map (·.1) = [p] ∧ s.ptHome p = n ∧ s.ptOnAlt p = true ∧ (s.sub (subFin (s.ptAlt p))).tx.all (fun x =>
    decide (x.key ≠ p)) = true ∧ (s.sub (subFin (s.ptAlt p))).sending = none :=
  ⟨(rmtBench.ptSet 5 115 1 1).wr (Reg.RMT_SUBPORT_STATUS 2) 0, 2, 5, by decide +kernel⟩

theorem wit_LinksAndHistograms_4 : ∃ (s : State) (p : Nat), s.live .remote = true ∧ s.rmt.histNext ≤ s.now .remote ∧ p
    < 8192 :=
  ⟨txBench [benchTx 3 1], 5, by decide +kernel⟩

theorem wit_LinksAndHistograms_5 : ∃ (s : State) (v : Word), s.mgtReady = true ∧ s.live .remote = true :=
  ⟨rmtBench.modRmt (fun r => { r with hist := [(3, 5), (84, 2)] }), 0x80000005, by decide +kernel⟩

theorem wit_LinksAndHistograms_6 : ∃ (s : State), s.mgtReady = true ∧ s.live .remote = true :=
  ⟨rmtBench.modRmt (fun r => { r with hist := [(0, 5), (84, 2)] }), by decide +kernel⟩

theorem wit_LinksAndHistograms_7 : ∃ (s : State) (n : Fin 8), s.live .remote = true ∧ s.rmtUp n = true :=
  ⟨txBench [benchTx 3 1], 2, by decide +kernel⟩

theorem wit_LinksAndHistograms_8 : ∃ (s : State) (n : Fin 8), s.live .remote = true ∧ s.rmtUp n = false :=
  ⟨(rmtBench.ptSet 5 115 1 1).wr (Reg.RMT_SUBPORT_STATUS 2) 0, 2, by decide +kernel⟩

theorem wit_ChainAndEnumeration_1 : ∃ (s : State) (down : Bool) (parity : Bool) (stop : Bool) (v : Word), s.live
    .sensor = true ∧ ¬ (down = true ∧ s.straps.chainHead = true) ∧ (parity ≠ evenParity v ∨ stop = false) :=
  ⟨chainBench false true [], true, true, true, 0x40000001, by decide +kernel⟩

theorem wit_ChainAndEnumeration_2 : ∃ (s : State) (parity : Bool) (stop : Bool) (v : Word), s.live .sensor = true ∧
    s.straps.chainHead = true :=
  ⟨chainBench true true [], true, true, 0x40000001, by decide +kernel⟩

theorem wit_ChainAndEnumeration_3 : ∃ (s : State) (parity : Bool) (stop : Bool) (v : Word), s.live .sensor = true ∧
    s.straps.chainHead = false ∧ Sound v parity stop ∧ cwKind v ∈ [3, 4, 6, 8, 9] ∧ cwBcast v = false ∧ cwInst v =
    s.self :=
  ⟨chainBench false true [], true, true, 0x60010000, by decide +kernel⟩

theorem wit_ChainAndEnumeration_4 : ∃ (s : State) (parity : Bool) (stop : Bool) (v : Word), s.live .sensor = true ∧
    s.straps.chainHead = false ∧ Sound v parity stop ∧ cwKind v ∈ [3, 4, 6, 8, 9] ∧ cwBcast v = true :=
  ⟨chainBench false true [], false, true, 0x68010000, by decide +kernel⟩

theorem wit_ChainAndEnumeration_5 : ∃ (s : State) (parity : Bool) (stop : Bool) (v : Word), s.live .sensor = true ∧
    s.straps.chainHead = false ∧ Sound v parity stop ∧ cwKind v ∈ [3, 4, 6, 8, 9] ∧ cwBcast v = false ∧ cwInst v ≠
    s.self :=
  ⟨chainBench false false [], false, true, 0x61010000, by decide +kernel⟩

theorem wit_ChainAndEnumeration_6 : ∃ (s : State) (parity : Bool) (stop : Bool) (v : Word), s.live .sensor = true ∧
    Sound v parity stop ∧ cwKind v = 2 :=
  ⟨chainBench false true [], false, true, 0x20000001, by decide +kernel⟩

theorem wit_ChainAndEnumeration_7 : ∃ (s : State) (parity : Bool) (stop : Bool) (v : Word), s.live .sensor = true ∧
    Sound v parity stop :=
  ⟨chainBench true true [], false, true, 0x20000001, by decide +kernel⟩

theorem wit_ChainAndEnumeration_8 : ∃ (s : State), s.live .sensor = true ∧ s.straps.chainHead = true ∧ TakesPart s ∧
    s.enumerated = false ∧ (s.pwr.warm = true ∨ s.pwr.seqDoneAt + 1000000 ≤ s.clk.pkg) :=
  ⟨unnumbered (later 1000000 (chainBench true true [])), by decide +kernel⟩

theorem wit_ChainAndEnumeration_9 : ∃ (s : State), (s.enumerated = true ∨ s.straps.chainHead = false) :=
  ⟨chainBench true true [], by decide +kernel⟩

theorem wit_ChainAndEnumeration_10 : ∃ (s : State) (v : Word), s.live .sensor = true ∧ s.straps.chainHead = false ∧
    TakesPart s ∧ s.enumerated = false ∧ Oldest s true 1 v ∧ enumSelf v ≤ 15 ∧ enumDie s v ≤ 7 :=
  ⟨unnumbered (chainBench false false [(true, 0x1000006E)]), 0x1000006E, by decide +kernel⟩

theorem wit_ChainAndEnumeration_11 : ∃ (s : State) (v : Word), s.live .sensor = true ∧ s.straps.chainHead = false ∧
    TakesPart s ∧ Oldest s true 1 v ∧ ((s.enumerated = true ∧ enumSelf v ≠ s.self) ∨ (s.enumerated = false ∧ (15 <
    enumSelf v ∨ 7 < enumDie s v))) :=
  ⟨chainBench false false [(true, 0x10000003)], 0x10000003, by decide +kernel⟩

theorem wit_ChainAndEnumeration_12 : ∃ (s : State) (t0 : Nat), s.live .sensor = true ∧ s.straps.chainHead = false ∧
    s.chain.enumSince = some t0 ∧ t0 + 1000000 ≤ s.clk.pkg :=
  ⟨(later 1000000 (chainBench false false [])).modChain (fun c => { c with enumSince := some 0 }), 0,
      by decide +kernel⟩

theorem wit_ChainAndEnumeration_13 : ∃ (s : State) (t0 : Nat), s.live .sensor = true ∧ s.straps.chainHead = true ∧
    s.chain.enumSince = some t0 ∧ t0 + 1000000 ≤ s.clk.pkg ∧ s.bit Reg.D2D_RING_STATUS Fld.D2D_RING_STATUS_ENUM_FAULT
    = false :=
  ⟨(later 1000000 (chainBench true false [])).modChain (fun c => { c with enumSince := some 0, headSince := some 0 }),
      0, by decide +kernel⟩

theorem wit_ChainAndEnumeration_14 : ∃ (s : State) (t0 : Nat), s.chain.enumSince = some t0 ∧ s.clk.pkg < t0 + 1000000
    :=
  ⟨(later 999999 (chainBench true false [])).modChain (fun c => { c with enumSince := some 0, headSince := some 0 }),
      0, by decide +kernel⟩

theorem wit_ChainAndEnumeration_15 : ∃ (s : State) (t0 : Nat), s.live .sensor = true ∧ s.chain.headSince = some t0 ∧
    t0 + 10000000 ≤ s.clk.pkg :=
  ⟨(later 10000000 (chainBench true false [])).modChain (fun c => { c with headSince := some 0 }), 0,
      by decide +kernel⟩

theorem wit_ChainAndEnumeration_16 : ∃ (s : State) (t0 : Nat), s.chain.headSince = some t0 ∧ s.clk.pkg < t0 + 10000000
    :=
  ⟨(later 9999999 (chainBench true false [])).modChain (fun c => { c with headSince := some 0 }), 0,
      by decide +kernel⟩

theorem wit_ChainAndEnumeration_17 : ∃ (s : State) (v : Word), s.live .sensor = true ∧ Oldest s false 2 v ∧
    s.straps.chainHead = true ∧ s.enumerated = true ∧ s.bit Reg.D2D_RING_STATUS Fld.D2D_RING_STATUS_ENUM_FAULT = false
    :=
  ⟨(chainBench true true [(false, 0x20000004)]).modChain (fun c => { c with headSince := some 0 }), 0x20000004,
      by decide +kernel⟩

theorem wit_ChainAndEnumeration_18 : ∃ (s : State) (v : Word), s.live .sensor = true ∧ Oldest s false 2 v ∧
    s.straps.chainHead = true ∧ s.enumerated = true ∧ s.bit Reg.D2D_RING_STATUS Fld.D2D_RING_STATUS_ENUM_FAULT = true
    :=
  ⟨((chainBench true true [(false, 0x20000004)]).modChain (fun c => { c with headSince := some 0 })).raise
      Reg.D2D_RING_STATUS Fld.D2D_RING_STATUS_ENUM_FAULT, 0x20000004, by decide +kernel⟩

theorem wit_ChainAndEnumeration_19 : ∃ (s : State) (v : Word), s.live .sensor = true ∧ Oldest s true 3 v :=
  ⟨chainBench false true [(true, 0x38000010)], 0x38000010, by decide +kernel⟩

theorem wit_ChainAndEnumeration_20 : ∃ (s : State) (v : Word), s.live .sensor = true ∧ Oldest s true 4 v :=
  ⟨(later 5000 (chainBench false true [(true, 0x48000000)])).sf Reg.ID_CONFIG Fld.ID_CONFIG_INSTANCE 3, 0x48000000,
      by decide +kernel⟩

theorem wit_ChainAndEnumeration_21 : ∃ (s : State) (v : Word), s.live .sensor = true ∧ Oldest s false 5 v ∧
    s.enumerated = true :=
  ⟨chainBench false true [(false, 0x50000000)], 0x50000000, by decide +kernel⟩

theorem wit_ChainAndEnumeration_22 : ∃ (s : State), s.live .sensor = true ∧ s.straps.chainHead = false ∧ TakesPart s ∧
    s.pwr.warm = true ∧ (∀ x ∈ s.chain.taken, x.1 = true ∨ cwKind x.2 ≠ 5) ∧ s.enumerated = false :=
  ⟨(unnumbered (chainBench false true [])).modPwr fun w => { w with warm := true }, by decide +kernel,
      by decide +kernel, by decide +kernel, by decide +kernel, all_of_check (by decide +kernel), by decide +kernel⟩

theorem wit_ChainAndEnumeration_23 : ∃ (s : State), s.live .sensor = true ∧ s.chain.enumSince = none :=
  ⟨chainBench false false [], by decide +kernel⟩

theorem wit_ChainAndEnumeration_24 : ∃ (s : State) (t0 : Nat), s.live .sensor = true ∧ s.chain.enumSince = some t0 :=
  ⟨(chainBench false false []).modChain (fun c => { c with enumSince := some 5 }), 5, by decide +kernel⟩

theorem wit_ChainAndEnumeration_25 : ∃ (s : State) (parity : Bool) (stop : Bool) (v : Word), s.live .sensor = true ∧
    s.straps.chainHead = false ∧ Sound v parity stop ∧ cwKind v = 1 :=
  ⟨chainBench false true [], true, true, 0x10000003, by decide +kernel⟩

theorem wit_ChainAndEnumeration_26 : ∃ (s : State) (v : Word), s.live .sensor = true ∧ s.straps.chainHead = false ∧
    TakesPart s ∧ s.enumerated = true ∧ Oldest s true 1 v ∧ enumSelf v = s.self :=
  ⟨(chainBench false false [(true, 0x10000003)]).sf Reg.ID_CONFIG Fld.ID_CONFIG_INSTANCE 4, 0x10000003,
      by decide +kernel⟩

theorem wit_ChainAndEnumeration_27 : ∃ (s : State) (t0 : Nat), s.live .sensor = true ∧ s.straps.chainHead = true ∧
    s.chain.enumSince = some t0 ∧ t0 + 1000000 ≤ s.clk.pkg ∧ s.bit Reg.D2D_RING_STATUS Fld.D2D_RING_STATUS_ENUM_FAULT
    = true :=
  ⟨((later 1000000 (chainBench true false [])).modChain (fun c =>
      { c with enumSince := some 0, headSince := some 0 })).raise Reg.D2D_RING_STATUS Fld.D2D_RING_STATUS_ENUM_FAULT,
      0, by decide +kernel⟩

theorem wit_ChainAndEnumeration_28 : ∃ (s : State), s.live .sensor = false :=
  ⟨{ bench with pwr := { bench.pwr with up := Vector.replicate 133 false } }, by decide +kernel⟩

theorem wit_ChainAndEnumeration_29 : ∃ (s : State), s.straps.chainHead = true :=
  ⟨headBench bench, by decide +kernel⟩

theorem wit_RingTrafficAndLinks_1 : ∃ (s : State) (east : Bool) (m : BitVec 4) (x : BitVec 79 × BitVec 79) (t0 : Nat),
    s.live (.d2d east) = true ∧ (s.port east).trainFrom = some t0 ∧ m.toNat = s.expected east ∧ s.pkg.d2dCmd = none ∧
    (s.port east).waiting = [] ∧ (s.port (!east)).waiting = [] ∧ s.rmt.ringWait = [] ∧ trainedAs s east x 0 ≤ 1 ∧
    trainedAs s east x 1 ≤ 1 :=
  ⟨training pairBench, true, 1, (0, 0), 0, by decide +kernel⟩

theorem wit_RingTrafficAndLinks_2 : ∃ (s : State) (east : Bool) (m : BitVec 4) (x : BitVec 79 × BitVec 79) (code :
    Nat) (ports : Nat) (t0 : Nat) (t1 : Nat), s.live (.d2d east) = true ∧ (s.port east).trainFrom = some t0 ∧ m.toNat
    ≠ s.expected east ∧ s.pkg.d2dCmd = some (code, ports, t1) ∧ (s.port (!east)).trainFrom = none ∧ trainedAs s east x
    0 ≤ 1 ∧ trainedAs s east x 1 ≤ 1 :=
  ⟨(training pairBench).modPkg (fun p => { p with d2dCmd := some (3, 3, 0) }), true, 0, (0, 0), 3, 3, 0, 0,
      by decide +kernel⟩

theorem wit_RingTrafficAndLinks_3 : ∃ (s : State) (east : Bool) (code : Nat) (ports : Nat) (t0 : Nat) (t1 : Nat),
    s.live .sensor = true ∧ (s.port east).trainFrom = some t0 ∧ t0 + 30000000 ≤ s.clk.pkg ∧ s.pkg.d2dCmd = some (code,
    ports, t1) ∧ (s.port (!east)).trainFrom = none :=
  ⟨(later 30000000 (training pairBench)).modPkg (fun p => { p with d2dCmd := some (4, 2, 0) }), true, 4, 2, 0, 0,
      by decide +kernel⟩

theorem wit_RingTrafficAndLinks_4 : ∃ (s : State) (east : Bool) (t0 : Nat), (s.port east).trainFrom = some t0 ∧
    s.clk.pkg < t0 + 30000000 :=
  ⟨later 29999999 (training pairBench), true, 0, by decide +kernel⟩

theorem wit_RingTrafficAndLinks_5 : ∃ (s : State) (east : Bool) (f : Flit), s.live (.d2d east) = true ∧ s.portUp east
    = true ∧ f.dst = s.self ∧ f.body = .ctl .locked :=
  ⟨pairBench, true, ringFlit 1 1 0 (.ctl .locked), by decide +kernel⟩

theorem wit_RingTrafficAndLinks_6 : ∃ (s : State) (east : Bool) (f : Flit) (b : List Byte), s.live (.d2d east) = true
    ∧ s.portUp east = true ∧ f.dst = s.self ∧ f.body = .ctl (.telemetry b) ∧ NoCommands s :=
  ⟨pairBench, true, ringFlit 1 1 0 (.ctl (.telemetry (zeros 64))), zeros 64, by decide +kernel⟩

theorem wit_RingTrafficAndLinks_7 : ∃ (s : State) (east : Bool) (f : Flit) (n : Nat), s.live (.d2d east) = true ∧
    s.portUp east = true ∧ s.fwRuns .steward = true ∧ f.dst = s.self ∧ f.body = .ctl (.setBudget s.self n) ∧
    NoCommands s :=
  ⟨pairBench, true, ringFlit 1 1 0 (.ctl (.setBudget 0 300)), 300, by decide +kernel⟩

theorem wit_RingTrafficAndLinks_8 : ∃ (s : State) (east : Bool) (f : Flit) (r : Req) (st : Status) (data : List Byte)
    (i : Fin 16) (a : Nat), s.live (.d2d east) = true ∧ s.portUp east = true ∧ f.dst = s.self ∧ f.vc = 1 ∧ f.body =
    .response r.id r.part a st data ∧ s.ring.west.outstanding ++ s.ring.east.outstanding = [r] ∧ r.src = .host i :=
  ⟨(portBench.modRing fun _ =>
      { pairBench.ring with east := { pairBench.ring.east with outstanding := [ringReq] } }).modPort 3 (fun h =>
      { h with txns := [{ readyTxn with ready := false, hasData := false, rsp := [], partsLeft := 1 }] }) |>.wr
      Reg.D2D_RING_STATUS 0x22000000, true, ringFlit 1 1 0 (.response 1 0 0 .ok (List.replicate 64 6)), ringReq, .ok,
      List.replicate 64 6, 3, 0, by decide +kernel⟩

theorem wit_RingTrafficAndLinks_9 : ∃ (s : State) (east : Bool) (f : Flit) (r : Req), s.live (.d2d east) = true ∧
    s.portUp east = true ∧ f.dst = s.self ∧ f.vc = 0 ∧ f.body = .request r ∧ s.route r.addr = .own (natBits r.addr 0
    37) ∧ s.shutdown = false ∧ s.pwr.failed = false ∧ (s.gf Reg.CACHE_FENCE Fld.CACHE_FENCE_PENDING).testBit
    (s.sliceOf r.addr) = false ∧ s.bit Reg.CNT_TAG_CFG Fld.CNT_TAG_CFG_ENABLE = false :=
  ⟨pairBench, true, ringFlit 0 1 0 (.request ringReq), ringReq, by decide +kernel⟩

theorem wit_RingTrafficAndLinks_10 : ∃ (s : State) (east : Bool) (f : Flit) (r : Req), s.live (.d2d east) = true ∧
    s.portUp east = true ∧ f.dst ≠ s.self ∧ f.vc = 0 ∧ f.body = .request r ∧ s.hops (!east) f.dst ≠ none ∧ (s.port
    (!east)).waiting = [] ∧ 1 ≤ (s.port (!east)).credits[0] :=
  ⟨(pairBench.raise Reg.D2D_RING_STATUS Fld.D2D_RING_STATUS_WEST_UP), false, ringFlit 0 3 1 (.request ringReq),
      ringReq, by decide +kernel⟩

theorem wit_RingTrafficAndLinks_11 : ∃ (s : State) (east : Bool) (vc : Fin 3) (m : BitVec 8), s.live (.d2d east) =
    true ∧ s.portUp east = true ∧ (s.port east).waiting = [] ∧ s.rmt.ringWait = [] :=
  ⟨pairBench.modD2d true (fun p => { p with credits := #v[0, 118, 3] }), true, 1, 5, by decide +kernel⟩

theorem wit_RingTrafficAndLinks_12 : ∃ (s : State) (f : Flit) (east : Bool), s.live (.d2d east) = true ∧ (s.port
    east).waiting = [f] ∧ f.vc = 0 ∧ f.since + 1000 ≤ s.clk.pkg ∧ f.came = some (!east, 0) ∧ s.hops (decide (s.self <
    f.dst)) f.dst ≠ none ∧ east = decide (s.self < f.dst) ∧ f.body.flits ≤ (s.port east).credits[2] :=
  ⟨(later 1000 pairBench).modD2d true (fun p =>
      { p with waiting := [{ ringFlit 0 3 1 (.request ringReq) with came := some (false, 0) }] }),
      { ringFlit 0 3 1 (.request ringReq) with came := some (false, 0) }, true, by decide +kernel⟩

theorem wit_RingTrafficAndLinks_13 : ∃ (s : State) (east : Bool) (r : Req) (i : Fin 16), s.live .sensor = true ∧
    s.portUp east = true ∧ s.portUp (!east) = false ∧ s.self < s.count ∧ (s.port east).mods.toList.all (fun m =>
    m.retrainFrom.isNone) = true ∧ (s.port east).outstanding = [r] ∧ r.src = .host i ∧ (s.port east).waiting = [] ∧
    (s.port east).transit = [] ∧ s.rmt.ringWait = [] ∧ s.bit Reg.PC_FEC_INFO Fld.PC_FEC_INFO_VALID = false :=
  ⟨(portBench.modRing fun _ =>
      { pairBench.ring with east := { pairBench.ring.east with outstanding := [ringReq] } }).modPort 3 (fun h =>
      { h with txns := [{ readyTxn with ready := false, hasData := false, rsp := [], partsLeft := 1 }] }) |>.wr
      Reg.D2D_RING_STATUS 0x22000000, true, ringReq, 3, by decide +kernel⟩

theorem wit_RingTrafficAndLinks_14 : ∃ (s : State) (east : Bool) (m : Fin 2), s.live (.d2d east) = true ∧ s.portMode
    east = 1 ∧ s.portUp east = true ∧ (s.port east).mods[m].inService = true ∧ (s.port east).mods[m].retrainFrom =
    none :=
  ⟨pairBench, true, 1, by decide +kernel⟩

theorem wit_RingTrafficAndLinks_15 : ∃ (s : State) (east : Bool) (m : Fin 2) (x : BitVec 64) (t0 : Nat), s.live (.d2d
    east) = true ∧ (s.port east).mods[m].retrainFrom = some t0 ∧ (s.port east).mods[m].failed = [] ∧ s.bit
    (Reg.D2D_INJ (portNo east)) Fld.D2D_INJ_ENABLE = false ∧ 1 ≤ ((upto 64).filter fun i => x.toNat.testBit i).length
    ∧ ((upto 64).filter fun i => x.toNat.testBit i).length ≤ 4 :=
  ⟨pairBench.modModule true 1 (fun d => { d with retrainFrom := some 0 }), true, 1, 0x8000000000000101, 0,
      by decide +kernel⟩

theorem wit_RingTrafficAndLinks_16 : ∃ (s : State) (east : Bool) (m : Fin 2) (t0 : Nat), s.live (.d2d east) = true ∧
    (s.port east).mods[m].retrainFrom = some t0 ∧ (s.port east).mods[1 - m].inService = true ∧ s.gf
    (Reg.D2D_LANE_STATUS (portNo east)) (laneState m) ≠ 3 ∧ s.bit Reg.PC_FEC_INFO Fld.PC_FEC_INFO_VALID = false :=
  ⟨pairBench.modModule true 1 (fun d => { d with retrainFrom := some 0 }), true, 1, 0, by decide +kernel⟩

theorem wit_RingTrafficAndLinks_17 : ∃ (s : State) (nb : BitVec 64) (rtt : BitVec 32), s.live .sensor = true ∧
    s.portUp false = true ∧ s.self ≠ 0 ∧ (s.self = 1 ∨ s.pkg.aligned.contains (s.expected false) = true) ∧ s.bit
    Reg.D2D_TIME_STATUS Fld.D2D_TIME_STATUS_LOCKED = false :=
  ⟨later 500 ((pairBench.raise Reg.D2D_RING_STATUS Fld.D2D_RING_STATUS_WEST_UP).sf Reg.ID_CONFIG
      Fld.ID_CONFIG_INSTANCE 1), 100, 61, by decide +kernel⟩

theorem wit_RingTrafficAndLinks_18 : ∃ (s : State) (east : Bool) (nb : BitVec 64) (rtt : BitVec 32), s.live .sensor =
    true ∧ s.portUp east = true ∧ s.bit Reg.D2D_TIME_STATUS Fld.D2D_TIME_STATUS_LOCKED = true ∧ east = !s.portUp false
    ∧ s.pkg.alignAt + 1000000 ≤ s.clk.pkg :=
  ⟨later 1000000 (pairBench.raise Reg.D2D_TIME_STATUS Fld.D2D_TIME_STATUS_LOCKED), true, 999900, 61,
      by decide +kernel⟩

theorem wit_RingTrafficAndLinks_19 : ∃ (s : State) (east : Bool) (nb : BitVec 64) (rtt : BitVec 32), s.live .sensor =
    true ∧ s.straps.chainHead = true ∧ s.self = 0 ∧ 1 ≤ s.count ∧ (∀ i, i < s.count → (i = 0 ∧ s.pwr.warm = false) ∨
    s.pkg.aligned.contains i = true) ∧ s.bit Reg.D2D_TIME_STATUS Fld.D2D_TIME_STATUS_LOCKED = false :=
  ⟨{ pairBench with straps := { pairBench.straps with chainHead := true } }.modPkg (fun p =>
      { p with aligned := [1] }), true, 5, 6, by decide +kernel⟩

theorem wit_RingTrafficAndLinks_20 : ∃ (s : State) (f : Flit) (r : Req) (cut : Bool), s.live .sensor = true ∧
    s.ring.west.waiting = [f] ∧ f.vc = 2 ∧ f.body = .request r ∧ f.came = none ∧ max f.since s.ring.west.headSince +
    s.gf Reg.D2D_STALL_CFG Fld.D2D_STALL_CFG_US * 1000 ≤ s.clk.pkg ∧ s.towards f.src = some true ∧ s.ring.east.waiting
    = [] ∧ 1 ≤ s.ring.east.credits[1] :=
  ⟨(later 70000000 pairBench).modD2d false (fun p => { p with waiting := [ringFlit 2 1 0 (.request ringReq)] }),
      ringFlit 2 1 0 (.request ringReq), ringReq, false, by decide +kernel⟩

theorem wit_RingTrafficAndLinks_21 : ∃ (s : State) (n : Fin 10) (x : Tx) (cut : Bool), s.live .sensor = true ∧ 2 ≤
    n.val ∧ (s.sub (subFin (n.val - 2))).tx = [x] ∧ x.key = 8192 ∧ x.frame.vc = (if cut then 3 else 2) ∧
    (x.frame.opcode = 0 ∨ 5 < x.frame.opcode) ∧ max x.at_ (if cut then (s.sub (subFin (n.val - 2))).fwdAt.2 else
    (s.sub (subFin (n.val - 2))).fwdAt.1) + s.gf Reg.D2D_STALL_CFG Fld.D2D_STALL_CFG_US * 1000 ≤ s.now .remote ∧
    s.rmt.fwd = [] :=
  ⟨later 70000000 (txBench [{ benchTx 3 1 with key := 8192, frame := { benchFrame 0x81 1 with vc := 3 } }]), 4,
      { benchTx 3 1 with key := 8192, frame := { benchFrame 0x81 1 with vc := 3 } }, true, by decide +kernel⟩

theorem wit_RingTrafficAndLinks_22 : ∃ (s : State) (n : Fin 10) (cut : Bool), s.ring.west.waiting = [] ∧
    s.ring.east.waiting = [] ∧ s.rmt.subs.toList.all (fun p => p.tx.isEmpty) = true :=
  ⟨pairBench, 4, true, by decide +kernel⟩

theorem wit_RingTrafficAndLinks_23 : ∃ (s : State) (east : Bool) (m : BitVec 4) (x : BitVec 79 × BitVec 79) (t0 :
    Nat), s.live (.d2d east) = true ∧ (s.port east).trainFrom = some t0 ∧ m.toNat = s.expected east ∧ ¬(trainedAs s
    east x 0 = 3 ∧ trainedAs s east x 1 = 3) :=
  ⟨training pairBench, true, 1, (0, 0), 0, by decide +kernel⟩

theorem wit_RingTrafficAndLinks_24 : ∃ (s : State) (east : Bool) (m : BitVec 4) (x : BitVec 79 × BitVec 79) (t0 :
    Nat), s.live (.d2d east) = true ∧ (s.port east).trainFrom = some t0 ∧ trainedAs s east x 0 = 3 ∧ trainedAs s east
    x 1 = 3 :=
  ⟨training pairBench, true, 1, (BitVec.allOnes 79, BitVec.allOnes 79), 0, by decide +kernel⟩

theorem wit_RingTrafficAndLinks_25 : ∃ (s : State) (east : Bool) (m : BitVec 4) (x : BitVec 79 × BitVec 79) (t0 :
    Nat), s.live (.d2d east) = true ∧ (s.port east).trainFrom = some t0 ∧ m.toNat ≠ s.expected east ∧ ¬(trainedAs s
    east x 0 = 3 ∧ trainedAs s east x 1 = 3) :=
  ⟨training pairBench, true, 0, (0, 0), 0, by decide +kernel⟩

theorem wit_RingTrafficAndLinks_26 : ∃ (s : State) (east : Bool) (t0 : Nat), s.live .sensor = true ∧ (s.port
    east).trainFrom = some t0 ∧ t0 + 30000000 ≤ s.clk.pkg :=
  ⟨later 30000000 (training pairBench), true, 0, by decide +kernel⟩

theorem wit_RingTrafficAndLinks_27 : ∃ (s : State) (east : Bool) (f : Flit) (i : Nat) (up : Bool), s.live (.d2d east)
    = true ∧ s.portUp east = true ∧ f.dst = s.self ∧ f.body = .ctl (.link i up) :=
  ⟨pairBench, true, ringFlit 1 1 0 (.ctl (.link 1 true)), 1, true, by decide +kernel⟩

theorem wit_RingTrafficAndLinks_28 : ∃ (s : State) (east : Bool) (f : Flit) (b : List Byte) (n : Nat), s.live (.d2d
    east) = true ∧ s.live .remote = true ∧ s.portUp east = true ∧ f.dst = s.self ∧ f.body = .frame b (some n) ∧
    s.rmt.fwd = [] ∧ s.fwdUsed (subFin n) + (Frame.ofBytes b).len ≤ 32768 ∧ s.txRoom (subFin n) (Frame.ofBytes b).len
    = true ∧ s.oversize (subFin n) (fwdTx s (Frame.ofBytes b)) = false :=
  ⟨pairBench, true, ringFlit 2 1 0 (.frame (benchFrame 1 7).bytes (some 3)), (benchFrame 1 7).bytes, 3,
      by decide +kernel⟩

theorem wit_RingTrafficAndLinks_29 : ∃ (s : State) (east : Bool) (f : Flit), s.portUp east = false :=
  ⟨pairBench, false, ringFlit 0 1 0 (.request ringReq), by decide +kernel⟩

theorem wit_RingTrafficAndLinks_30 : ∃ (s : State) (east : Bool) (f : Flit), s.live (.d2d east) = true ∧ s.portUp east
    = true ∧ s.ring.inbox = [] :=
  ⟨pairBench, true, ringFlit 0 1 0 (.request ringReq), by decide +kernel⟩

theorem wit_RingTrafficAndLinks_31 : ∃ (s : State) (east : Bool) (vc : Fin 3) (m : BitVec 8), s.live (.d2d east) =
    true ∧ s.portUp east = true ∧ s.rmt.ringWait = [] :=
  ⟨pairBench.modD2d true (fun p =>
      { p with credits := #v[0, 118, 3], waiting := [ringFlit 0 0 1 (.request ringReq)] }), true, 0, 5,
      by decide +kernel⟩

theorem wit_RingTrafficAndLinks_32 : ∃ (s : State) (east : Bool) (f : Flit), s.live (.d2d east) = true ∧ (f.vc = 0 ∨
    (f.vc = 1 ∧ ∀ g ∈ (s.port east).waiting, g.vc ≠ 0)) ∧ ((s.port east).waiting.find? fun g => decide (g.vc = f.vc)
    && g.came.isSome) = some f ∧ f.since + 1000 ≤ s.clk.pkg ∧ s.hops (decide (s.self < f.dst)) f.dst ≠ none :=
  ⟨(later 1000 pairBench).modD2d true (fun p =>
      { p with waiting := [{ ringFlit 0 3 1 (.request ringReq) with came := some (false, 0) }] }), true,
      { ringFlit 0 3 1 (.request ringReq) with came := some (false, 0) }, by decide +kernel⟩

theorem wit_RingTrafficAndLinks_33 : ∃ (s : State) (east : Bool), s.live .sensor = true ∧ s.portUp east = true ∧
    (s.port east).mods.toList.all (fun m => m.retrainFrom.all fun t0 => decide (t0 + 1000000 ≤ s.clk.pkg)) = true :=
  ⟨(portBench.modRing fun _ =>
      { pairBench.ring with east := { pairBench.ring.east with outstanding := [ringReq] } }).modPort 3 (fun h =>
      { h with txns := [{ readyTxn with ready := false, hasData := false, rsp := [], partsLeft := 1 }] }) |>.wr
      Reg.D2D_RING_STATUS 0x22000000, true, by decide +kernel⟩

theorem wit_RingTrafficAndLinks_34 : ∃ (s : State) (east : Bool) (m : Fin 2) (x : BitVec 79) (t0 : Nat), s.live (.d2d
    east) = true ∧ (s.port east).mods[m].retrainFrom = some t0 :=
  ⟨pairBench.modModule true 1 (fun d => { d with retrainFrom := some 0 }), true, 1, 0x0040000000000000101, 0,
      by decide +kernel⟩

theorem wit_RingTrafficAndLinks_35 : ∃ (s : State) (east : Bool) (m : Fin 2) (t0 : Nat), s.live (.d2d east) = true ∧
    (s.port east).mods[m].retrainFrom = some t0 ∧ (s.port east).mods[1 - m].inService = false :=
  ⟨(pairBench.modModule true 1 (fun d => { d with retrainFrom := some 0 })).modModule true 0 (fun d =>
      { d with inService := false }), true, 1, 0, by decide +kernel⟩

theorem wit_RingTrafficAndLinks_36 : ∃ (s : State) (east : Bool) (nb : BitVec 64) (rtt : BitVec 32), s.live .sensor =
    true ∧ s.straps.chainHead = false ∧ s.locked = false ∧ s.portUp east = false :=
  ⟨pairBench, false, 5, 6, by decide +kernel⟩

theorem wit_RingTrafficAndLinks_37 : ∃ (s : State) (east : Bool) (nb : BitVec 64) (rtt : BitVec 32), s.live .sensor =
    true ∧ s.straps.chainHead = false ∧ s.locked = false ∧ s.portUp east = true ∧ s.mayStep east = false :=
  ⟨pairBench, true, 5, 6, by decide +kernel⟩

theorem wit_RingTrafficAndLinks_38 : ∃ (s : State) (n : Fin 10) (f : Flit) (cut : Bool), s.live .sensor = true ∧ n.val
    < 2 ∧ ((s.port (decide (n.val = 1))).waiting.find? fun g => g.vc = 2) = some f ∧ max f.since (s.port (decide
    (n.val = 1))).headSince + s.gf Reg.D2D_STALL_CFG Fld.D2D_STALL_CFG_US * 1000 ≤ s.clk.pkg :=
  ⟨(later 70000000 pairBench).modD2d false (fun p => { p with waiting := [ringFlit 2 1 0 (.request ringReq)] }), 0,
      ringFlit 2 1 0 (.request ringReq), false, by decide +kernel⟩

theorem wit_RingTrafficAndLinks_39 : ∃ (s : State) (n : Fin 10) (x : Tx) (cut : Bool), s.live .sensor = true ∧ 2 ≤
    n.val ∧ ((s.sub (subFin (n.val - 2))).tx.find? fun y => y.key = 8192 ∧ y.frame.vc = (if cut then 3 else 2)) = some
    x ∧ max x.at_ (if cut then (s.sub (subFin (n.val - 2))).fwdAt.2 else (s.sub (subFin (n.val - 2))).fwdAt.1) + s.gf
    Reg.D2D_STALL_CFG Fld.D2D_STALL_CFG_US * 1000 ≤ s.now .remote :=
  ⟨later 70000000 (txBench [{ benchTx 3 1 with key := 8192, frame := { benchFrame 0x81 1 with vc := 3 } }]), 4,
      { benchTx 3 1 with key := 8192, frame := { benchFrame 0x81 1 with vc := 3 } }, true, by decide +kernel⟩

theorem wit_ChainCommands_1 : ∃ (s : State) (v : Word), Command s v 1 :=
  ⟨wordBench true (chainWord 6 true 0 0x10000), chainWord 6 true 0 0x10000, by decide +kernel⟩

theorem wit_ChainCommands_2 : ∃ (s : State) (v : Word), Command s v 3 ∧ ObeysTraining s ∧ cwArg v % 4 ≠ 0 ∧ (∀ e :
    Bool, s.strapped e = true ∧ s.live (.d2d e) = true ∧ s.portUp e = false) :=
  ⟨((wordBench true (chainWord 6 true 0 0x30001)).sf Reg.D2D_RING_STATUS Fld.D2D_RING_STATUS_EAST_UP 0).modPkg (fun p
      => { p with goAt := some 0 }), chainWord 6 true 0 0x30001, by decide +kernel⟩

theorem wit_ChainCommands_3 : ∃ (s : State) (v : Word), Command s v 3 ∧ ¬ObeysTraining s :=
  ⟨wordBench true (chainWord 6 true 0 0x30003), chainWord 6 true 0 0x30003, by decide +kernel⟩

theorem wit_ChainCommands_4 : ∃ (s : State) (v : Word), Command s v 4 ∧ cwArg v % 4 = 2 ∧ s.portUp true = true ∧
    s.portUp false = false ∧ s.self < s.count ∧ s.strapped true = true ∧ s.live (.d2d true) = true ∧
    s.ring.east.waiting = [] ∧ s.ring.east.outstanding = [] ∧ s.ring.east.transit = [] ∧ s.rmt.ringWait = [] :=
  ⟨wordBench true (chainWord 6 true 0 0x40002), chainWord 6 true 0 0x40002, by decide +kernel⟩

theorem wit_ChainCommands_5 : ∃ (s : State) (v : Word), Command s v 6 ∧ (cwArg v).testBit 0 = false :=
  ⟨wordBench true (chainWord 6 true 0 0x60000), chainWord 6 true 0 0x60000, by decide +kernel⟩

theorem wit_ChainCommands_6 : ∃ (s : State) (v : Word), Command s v 6 ∧ (cwArg v).testBit 0 = true ∧ (∀ q : Fin 64,
    s.bit (Reg.FW_QCFG q) Fld.FW_QCFG_ENABLE = false) :=
  ⟨wordBench true (chainWord 6 true 0 0x60001), chainWord 6 true 0 0x60001, by decide +kernel⟩

theorem wit_ChainCommands_7 : ∃ (s : State) (v : Word), s.fwRuns .steward = true ∧ (s.chain.taken.find? reservedWord)
    = some (true, v) :=
  ⟨wordBench true (chainWord 6 true 0 0x70001), chainWord 6 true 0 0x70001, by decide +kernel⟩

theorem wit_ChainCommands_8 : ∃ (s : State) (v : Word), s.fwRuns .steward = true ∧ Oldest s false 7 v ∧ NoDuty s
    (cwInst v) ∧ cwArg v / 65536 = 1 ∧ s.pkg.goAt = none :=
  ⟨headBench (wordBench false (chainWord 7 false 1 0x10402)), chainWord 7 false 1 0x10402, by decide +kernel⟩

theorem wit_ChainCommands_9 : ∃ (s : State) (v : Word), s.fwRuns .steward = true ∧ Oldest s false 7 v ∧ NoDuty s
    (cwInst v) ∧ cwArg v / 65536 = 1 ∧ s.straps.chainHead = true ∧ s.pkg.goAt ≠ none ∧ s.pkg.trainSent = false ∧
    s.numbered = true ∧ (∀ i, i < s.count → i = cwInst v ∨ ∃ e ∈ s.pkg.phases, e.1 = i) :=
  ⟨(headBench (wordBench false (chainWord 7 false 1 0x10401))).modPkg (fun p =>
      { p with goAt := some 0, phases := [(0, 1)] }), chainWord 7 false 1 0x10401, by decide +kernel⟩

theorem wit_ChainCommands_10 : ∃ (s : State) (v : Word), s.fwRuns .steward = true ∧ Oldest s true 9 v ∧ (cwArg
    v).testBit 21 = false :=
  ⟨(wordBench true (chainWord 9 false 0 0x201234)).modChain (fun c =>
      { c with taken := [(true, chainWord 9 false 0 0x1234)], relayDown := [5] }), chainWord 9 false 0 0x1234,
      by decide +kernel⟩

theorem wit_ChainCommands_11 : ∃ (s : State) (v : Word) (b : List Byte), s.fwRuns .steward = true ∧ Oldest s true 9 v
    ∧ (cwArg v).testBit 21 = true ∧ b = (partsWith s.chain.relayDown v).flatMap (leBytes 2) ∧ b.length = 64 ∧ b.getD 3
    0 = 0 :=
  ⟨(wordBench true (chainWord 9 false 0 0x200007)).modChain (fun c =>
      { c with relayDown := 3 :: List.replicate 30 0 }), chainWord 9 false 0 0x200007, 3 :: zeros 61 ++ [7, 0],
      by decide +kernel⟩

theorem wit_ChainCommands_12 : ∃ (s : State) (v : Word), Command s v 3 ∧ ObeysTraining s :=
  ⟨((wordBench true (chainWord 6 true 0 0x30001)).sf Reg.D2D_RING_STATUS Fld.D2D_RING_STATUS_EAST_UP 0).modPkg (fun p
      => { p with goAt := some 0 }), chainWord 6 true 0 0x30001, by decide +kernel⟩

theorem wit_ChainCommands_13 : ∃ (s : State) (v : Word), Command s v 4 :=
  ⟨wordBench true (chainWord 6 true 0 0x40002), chainWord 6 true 0 0x40002, by decide +kernel⟩

theorem wit_ChainCommands_14 : ∃ (s : State) (v : Word), Command s v 6 ∧ (cwArg v).testBit 0 = true :=
  ⟨wordBench true (chainWord 6 true 0 0x60001), chainWord 6 true 0 0x60001, by decide +kernel⟩

theorem wit_ChainCommands_15 : ∃ (s : State) (v : Word), s.fwRuns .steward = true ∧ Oldest s false 7 v :=
  ⟨headBench (wordBench false (chainWord 7 false 1 0x10402)), chainWord 7 false 1 0x10402, by decide +kernel⟩

theorem wit_ChainCommands_16 : ∃ (s : State) (v : Word), s.fwRuns .steward = true ∧ Oldest s true 9 v ∧ (cwArg
    v).testBit 21 = true :=
  ⟨(wordBench true (chainWord 9 false 0 0x200007)).modChain (fun c =>
      { c with relayDown := 3 :: List.replicate 30 0 }), chainWord 9 false 0 0x200007, by decide +kernel⟩

theorem wit_ChainCommands_17 : ∃ (s : State) (v : Word), s.fwRuns .steward = true ∧ Oldest s false 9 v ∧ (∀ x ∈
    s.chain.taken, x.1 = false ∨ cwKind x.2 ≠ 9) ∧ (cwArg v).testBit 21 = false :=
  ⟨wordBench false (chainWord 9 false 1 0x401234), chainWord 9 false 1 0x401234, by decide +kernel, by decide +kernel,
      all_of_check (by decide +kernel), by decide +kernel⟩

theorem wit_ChainCommands_18 : ∃ (s : State) (v : Word) (b : List Byte), s.fwRuns .steward = true ∧ Oldest s false 9 v
    ∧ (∀ x ∈ s.chain.taken, x.1 = false ∨ cwKind x.2 ≠ 9) ∧ (cwArg v).testBit 21 = true ∧ b = (partsWith
    (((s.chain.relayUp.find? fun e => e.1 = cwInst v).map (·.2)).getD []) v).flatMap (leBytes 2) ∧ b.length = 64 ∧
    b.getD 3 0 = 0 ∧ s.role ≠ 0 :=
  ⟨({ captBench with chain := (wordBench false (chainWord 9 false 1 0x200007)).chain }).modChain (fun c =>
      { c with relayUp := [(1, 3 :: List.replicate 30 0)] }), chainWord 9 false 1 0x200007, 3 :: zeros 61 ++ [7, 0],
      by decide +kernel, by decide +kernel, all_of_check (by decide +kernel), by decide +kernel⟩

theorem wit_Captaincy_1 : ∃ (s : State), s.fwRuns .steward = true ∧ s.ring.inbox = [] ∧ s.pkg.elected = false ∧
    s.pkg.electionSince = none ∧ s.pkg.heard = [] ∧ s.pkg.goAt = none ∧ s.phase = 3 ∧ s.bit Reg.D2D_TIME_STATUS
    Fld.D2D_TIME_STATUS_LOCKED = true ∧ 2 ≤ s.count ∧ s.self < s.count :=
  ⟨(pairBench.sf Reg.FW_BOOT_STATUS Fld.FW_BOOT_STATUS_PHASE 3).raise Reg.D2D_TIME_STATUS Fld.D2D_TIME_STATUS_LOCKED,
      by decide +kernel⟩

theorem wit_Captaincy_2 : ∃ (s : State) (t0 : Nat), s.fwRuns .steward = true ∧ s.ring.inbox = [(0, .eligible 0 true)]
    ∧ s.pkg.elected = false ∧ s.pkg.electionSince = some t0 ∧ s.count = 2 ∧ s.self = 1 ∧ s.reaches 0 = true ∧
    s.age.asked = [] :=
  ⟨(ctlBench (.eligible 0 true) (pairBench.sf Reg.ID_CONFIG Fld.ID_CONFIG_INSTANCE 1)).modPkg (fun p =>
      { p with electionSince := some 0 }) |>.modRing (fun g => { g with inbox := [(0, .eligible 0 true)] }), 0,
      by decide +kernel⟩

theorem wit_Captaincy_3 : ∃ (s : State) (t0 : Nat), s.fwRuns .steward = true ∧ s.ring.inbox = [] ∧ s.pkg.elected =
    false ∧ s.pkg.electionSince = some t0 ∧ t0 + 100000 ≤ s.clk.pkg ∧ s.eligibles.head? = some s.self ∧ s.count ≤ 16
    :=
  ⟨(later 100000 pairBench).modPkg (fun p => { p with electionSince := some 0, heard := [(1, true)] }), 0,
      by decide +kernel⟩

theorem wit_Captaincy_4 : ∃ (s : State) (t0 : Nat), s.pkg.electionSince = some t0 ∧ s.clk.pkg < t0 + 100000 :=
  ⟨(later 99999 pairBench).modPkg (fun p => { p with electionSince := some 0 }), 0, by decide +kernel⟩

theorem wit_Captaincy_5 : ∃ (s : State), s.fwRuns .steward = true ∧ s.isCaptain = true ∧ s.captain = s.self ∧
    s.pkg.sentAt + 10000 ≤ s.clk.pkg ∧ s.count ≤ 16 :=
  ⟨later 10000 (captBench.modPkg fun p => { p with heard := [(1, true)] }), by decide +kernel⟩

theorem wit_Captaincy_6 : ∃ (s : State), (s.isCaptain = false ∨ s.clk.pkg < s.pkg.sentAt + 10000) :=
  ⟨later 9999 captBench, by decide +kernel⟩

theorem wit_Captaincy_7 : ∃ (s : State) (e : Nat) (k : Nat) (i : Nat) (d' : Option Nat), s.fwRuns .steward = true ∧
    s.ring.inbox.find? isBeat = some (i, .heartbeat e k d') ∧ s.age.asked = [] ∧ k < 16 ∧ (∀ j ∈ d', j < 16) ∧ Wins s
    e k :=
  ⟨ctlBench (beatMsg 6) captBench, 6, 1, 1, some 0, by decide +kernel⟩

theorem wit_Captaincy_8 : ∃ (s : State) (e : Nat) (k : Nat) (i : Nat) (d' : Option Nat), s.fwRuns .steward = true ∧
    s.ring.inbox.find? isBeat = some (i, .heartbeat e k d') ∧ s.pkg.elected = true ∧ (e < s.pkg.epoch ∨ (e =
    s.pkg.epoch ∧ s.captain < k)) :=
  ⟨ctlBench (beatMsg 5) captBench, 5, 1, 1, some 0, by decide +kernel⟩

theorem wit_Captaincy_9 : ∃ (s : State), s.fwRuns .steward = true ∧ s.pkg.elected = true ∧ s.isCaptain = false ∧
    s.eligible = true ∧ s.pkg.heartbeatAt + 50000 * s.rankOf ≤ s.clk.pkg ∧ s.count ≤ 16 :=
  ⟨later 100000 stokerBench, by decide +kernel⟩

theorem wit_Captaincy_10 : ∃ (s : State), (s.clk.pkg < s.pkg.heartbeatAt + 50000 * s.rankOf ∨ s.isCaptain = true ∨
    s.eligible = false ∨ s.pkg.elected = false) :=
  ⟨stokerBench.modPkg fun p => { p with heartbeatAt := 200001 }, by decide +kernel⟩

theorem wit_Captaincy_11 : ∃ (s : State) (i : Nat) (e : Bool), s.fwRuns .steward = true ∧ s.isCaptain = true ∧
    s.pkg.handover = none ∧ s.pins.dieWrstReqN = false ∧ s.eligibles.find? (fun j => !s.sameDie j) = some i ∧
    s.towards i = some e ∧ (s.port e).waiting = [] :=
  ⟨(captBench.modPkg fun p => { p with heard := [(1, true)] }).modPins (fun p => { p with dieWrstReqN := false }), 1,
      true, by decide +kernel⟩

theorem wit_Captaincy_12 : ∃ (s : State), (s.isCaptain = false ∨ s.pkg.handover ≠ none) :=
  ⟨stokerBench, by decide +kernel⟩

theorem wit_Captaincy_13 : ∃ (s : State) (ep : Nat) (k : Nat) (i : Nat) (q : Nat) (c : CaptainState) (e : Bool),
    s.fwRuns .steward = true ∧ s.ring.inbox.find? isHand = some (i, .handover ep k s.self q c) ∧ s.eligible = true ∧
    s.pkg.epoch ≤ ep ∧ s.age.asked = [] ∧ s.towards k = some e ∧ s.count ≤ 16 :=
  ⟨ctlBench (.handover 5 1 0 2 pairBench.pkg.captaincy) stokerBench, 5, 1, 1, 2, pairBench.pkg.captaincy, true,
      by decide +kernel⟩

theorem wit_Captaincy_14 : ∃ (s : State) (ep : Nat) (k : Nat) (i : Nat), s.fwRuns .steward = true ∧ s.ring.inbox.find?
    isHand = some (i, .handoverAck ep k) ∧ s.pkg.handover ≠ none ∧ s.age.asked = [] ∧ k < 16 ∧ s.count ≤ 16 ∧ Wins s
    ep k :=
  ⟨ctlBench (.handoverAck 6 1) handoverBench, 6, 1, 1, by decide +kernel⟩

theorem wit_Captaincy_15 : ∃ (s : State) (h : Handover), s.fwRuns .steward = true ∧ s.pkg.handover = some h ∧ h.since
    + 20000 ≤ s.clk.pkg :=
  ⟨later 20000 handoverBench, { successor := 1, since := 0, cause := 2 }, by decide +kernel⟩

theorem wit_Captaincy_16 : ∃ (s : State) (h : Handover), s.pkg.handover = some h ∧ s.clk.pkg < h.since + 20000 :=
  ⟨later 19999 handoverBench, { successor := 1, since := 0, cause := 2 }, by decide +kernel⟩

theorem wit_Captaincy_17 : ∃ (s : State) (v : Word), s.fwRuns .steward = true ∧ Oldest s true 8 v ∧ s.age.asked = [] ∧
    s.count ≤ 16 ∧ (s.pkg.elected = false ∨ s.pkg.epoch < nearEpoch s.pkg.epoch (cwArg v / 16 % 65536)) :=
  ⟨captBench.modChain (fun c => { c with taken := [(true, chainWord 8 true 1 0x61)] }), chainWord 8 true 1 0x61,
      by decide +kernel⟩

theorem wit_Captaincy_18 : ∃ (s : State), s.fwRuns .steward = true ∧ s.pkg.elected = false ∧ s.pkg.electionSince =
    none ∧ (s.phase = 3 ∨ s.phase = 9) ∧ (s.bit Reg.D2D_TIME_STATUS Fld.D2D_TIME_STATUS_LOCKED = true ∨ s.count ≤ 1) ∧
    s.takeEligibility.allHeard = false :=
  ⟨(pairBench.sf Reg.FW_BOOT_STATUS Fld.FW_BOOT_STATUS_PHASE 3).raise Reg.D2D_TIME_STATUS Fld.D2D_TIME_STATUS_LOCKED,
      by decide +kernel⟩

theorem wit_Captaincy_19 : ∃ (s : State) (c : Nat), s.fwRuns .steward = true ∧ s.pkg.elected = false ∧
    s.pkg.electionSince ≠ none ∧ s.takeEligibility.allHeard = true ∧ s.takeEligibility.eligibles.head? = some c ∧ c ≠
    s.self ∧ s.count ≤ 16 :=
  ⟨(pairBench.sf Reg.ID_CONFIG Fld.ID_CONFIG_INSTANCE 1).modPkg (fun p => { p with electionSince := some 0 })
      |>.modRing (fun g => { g with inbox := [(0, .eligible 0 true)] }), 0, by decide +kernel⟩

theorem wit_Captaincy_20 : ∃ (s : State), s.fwRuns .steward = true ∧ s.pkg.elected = false ∧ s.pkg.electionSince ≠
    none ∧ s.takeEligibility.allHeard = true ∧ s.takeEligibility.eligibles.head? = some s.self ∧ s.count ≤ 16 :=
  ⟨pairBench.modPkg (fun p => { p with electionSince := some 0, heard := [(1, true)] }), by decide +kernel⟩

theorem wit_Captaincy_21 : ∃ (s : State) (t0 : Nat) (c : Nat), s.fwRuns .steward = true ∧ s.pkg.elected = false ∧
    s.pkg.electionSince = some t0 ∧ t0 + 100000 ≤ s.clk.pkg ∧ s.takeEligibility.eligibles.head? = some c ∧ c ≠ s.self
    ∧ s.count ≤ 16 :=
  ⟨(later 100000 (pairBench.sf Reg.ID_CONFIG Fld.ID_CONFIG_INSTANCE 1)).modPkg (fun p =>
      { p with electionSince := some 0 }) |>.modRing (fun g => { g with inbox := [(0, .eligible 0 true)] }), 0, 0,
      by decide +kernel⟩

theorem wit_Captaincy_22 : ∃ (s : State) (t0 : Nat), s.fwRuns .steward = true ∧ s.pkg.elected = false ∧
    s.pkg.electionSince = some t0 ∧ t0 + 100000 ≤ s.clk.pkg ∧ s.takeEligibility.eligibles.head? = some s.self ∧
    s.count ≤ 16 :=
  ⟨(later 100000 pairBench).modPkg (fun p => { p with electionSince := some 0, heard := [(1, true)] }), 0,
      by decide +kernel⟩

theorem wit_Captaincy_23 : ∃ (s : State) (e : Nat) (k : Nat) (i : Nat) (d' : Option Nat), s.fwRuns .steward = true ∧
    s.ring.inbox.find? isBeat = some (i, .heartbeat e k d') ∧ k < 16 ∧ (∀ j ∈ d', j < 16) ∧ Wins s e k :=
  ⟨ctlBench (beatMsg 6) captBench, 6, 1, 1, some 0, by decide +kernel⟩

theorem wit_Captaincy_24 : ∃ (s : State) (i : Nat) (cause : Nat), s.fwRuns .steward = true ∧ s.isCaptain = true ∧
    s.pkg.handover = none ∧ ((s.pins.dieWrstReqN = false ∧ cause = 1 ∧ s.eligibles.find? (fun j => !s.sameDie j) =
    some i) ∨ (s.pins.dieWrstReqN = true ∧ cause = 2 ∧ ((upto s.self).find? fun j => s.eligibles.contains j &&
    (s.pkg.eligibleSince.any fun e => decide (e.1 = j ∧ e.2 + 100000000 ≤ s.clk.pkg))) = some i)) :=
  ⟨(captBench.modPkg fun p => { p with heard := [(1, true)] }).modPins (fun p => { p with dieWrstReqN := false }), 1,
      1, by decide +kernel⟩

theorem wit_Captaincy_25 : ∃ (s : State) (v : Word), s.fwRuns .steward = true ∧ Oldest s false 8 v ∧ (∀ x ∈
    s.chain.taken, x.1 = false ∨ cwKind x.2 ≠ 8) ∧ s.count ≤ 16 ∧ (s.pkg.elected = false ∨ s.pkg.epoch < nearEpoch
    s.pkg.epoch (cwArg v / 16 % 65536)) :=
  ⟨captBench.modChain (fun c => { c with taken := [(false, chainWord 8 false 1 0x61)] }), chainWord 8 false 1 0x61,
      by decide +kernel, by decide +kernel, all_of_check (by decide +kernel), by decide +kernel⟩

theorem wit_Captaincy_26 : ∃ (s : State) (v : Word), s.fwRuns .steward = true ∧ Oldest s true 8 v ∧ s.pkg.elected =
    true ∧ (nearEpoch s.pkg.epoch (cwArg v / 16 % 65536) < s.pkg.epoch ∨ (nearEpoch s.pkg.epoch (cwArg v / 16 % 65536)
    = s.pkg.epoch ∧ s.captain < cwArg v % 16)) :=
  ⟨captBench.modChain (fun c => { c with taken := [(true, chainWord 8 true 1 0x51)] }), chainWord 8 true 1 0x51,
      by decide +kernel⟩

theorem wit_TelemetryAndBudgets_1 : ∃ (s : State) (e : Bool), s.fwRuns .steward = true ∧ s.pkg.elected = true ∧
    s.isCaptain = false ∧ s.pwr.failed = false ∧ s.captain ≠ s.self ∧ s.deputy = none ∧ s.pkg.telemetryAt + 100000 ≤
    s.clk.pkg ∧ s.towards s.captain = some e ∧ (s.port e).waiting = [] :=
  ⟨stokerBench, true, by decide +kernel⟩

theorem wit_TelemetryAndBudgets_2 : ∃ (s : State), s.fwRuns .steward = true ∧ s.pkg.elected = true ∧ s.isCaptain =
    false ∧ s.pwr.failed = false ∧ s.self < s.captain ∧ s.deputy = none ∧ s.pkg.relayAt + 1000000 ≤ s.clk.pkg ∧
    s.towards s.captain = none :=
  ⟨(later 700000 stokerBench).sf Reg.D2D_RING_STATUS Fld.D2D_RING_STATUS_EAST_UP 0, by decide +kernel⟩

theorem wit_TelemetryAndBudgets_3 : ∃ (s : State), (s.pkg.elected = false ∨ s.isCaptain = true ∨ s.pwr.failed = true)
    :=
  ⟨captBench, by decide +kernel⟩

theorem wit_TelemetryAndBudgets_4 : ∃ (s : State) (i : Nat) (b : List Byte), s.fwRuns .steward = true ∧
    s.ring.inbox.find? isTelemetry = some (i, .telemetry b) ∧ s.role ≠ 0 :=
  ⟨ctlBench (.telemetry (teleBytes 1)) captBench, 1, teleBytes 1, by decide +kernel⟩

theorem wit_TelemetryAndBudgets_5 : ∃ (s : State) (i : Nat) (b : List Byte), s.fwRuns .steward = true ∧
    s.ring.inbox.find? isTelemetry = some (i, .telemetry b) ∧ s.role = 0 :=
  ⟨ctlBench (.telemetry (teleBytes 1)) (pairBench.setRoles 1 none 5), 1, teleBytes 1, by decide +kernel⟩

theorem wit_TelemetryAndBudgets_6 : ∃ (s : State) (want : Nat) (p : Nat), s.fwRuns .steward = true ∧ s.isCaptain =
    true ∧ s.bit Reg.FW_PKG_BUDGET Fld.FW_PKG_BUDGET_MODE = true ∧ s.pkg.balanceAt + 1000000 ≤ s.clk.pkg ∧ s.count = 1
    ∧ s.self = 0 ∧ s.bit (Reg.PC_RANGE 0) Fld.PC_RANGE_VALID = true ∧ s.pkg.budgets = [] ∧ p = (if s.gf
    Reg.FW_PKG_BUDGET Fld.FW_PKG_BUDGET_PKG_W = 0 then 120 else s.gf Reg.FW_PKG_BUDGET Fld.FW_PKG_BUDGET_PKG_W) ∧ want
    = max (1600 * s.gf Reg.FW_PKG_BUDGET Fld.FW_PKG_BUDGET_MIN_W) (min (1600 * s.gf Reg.FW_PKG_BUDGET
    Fld.FW_PKG_BUDGET_MAX_W) (if 0 < s.stepNow then s.gf Reg.THERM_BUDGET Fld.THERM_BUDGET_BUDGET_W * 1840 else s.gf
    Reg.THERM_POWER Fld.THERM_POWER_COLUMN * 110 + 8000)) :=
  ⟨((later 1000000 captBench).sf Reg.D2D_RING_STATUS Fld.D2D_RING_STATUS_COUNT 1).raise Reg.FW_PKG_BUDGET
      Fld.FW_PKG_BUDGET_MODE |>.sf Reg.THERM_POWER Fld.THERM_POWER_COLUMN 1600, 184000, 120, by decide +kernel⟩

theorem wit_TelemetryAndBudgets_7 : ∃ (s : State), (s.isCaptain = false ∨ s.bit Reg.FW_PKG_BUDGET
    Fld.FW_PKG_BUDGET_MODE = false ∨ s.clk.pkg < s.pkg.balanceAt + 1000000) :=
  ⟨captBench.sf Reg.FW_PKG_BUDGET Fld.FW_PKG_BUDGET_MODE 0, by decide +kernel⟩

theorem wit_TelemetryAndBudgets_8 : ∃ (s : State), s.fwRuns .steward = true ∧ s.pkg.elected = true ∧ s.isCaptain =
    false ∧ s.pwr.failed = false ∧ s.captain < s.self ∧ s.deputy = none ∧ s.pkg.relayAt + 1000000 ≤ s.clk.pkg ∧
    s.towards s.captain = none ∧ s.straps.chainHead = false :=
  ⟨((later 700000 (pairBench.setRoles 0 none 5)).sf Reg.ID_CONFIG Fld.ID_CONFIG_INSTANCE 1).sf Reg.D2D_RING_STATUS
      Fld.D2D_RING_STATUS_EAST_UP 0 |>.sf Reg.FW_PKG_STATUS Fld.FW_PKG_STATUS_ROLE 0 |> later 300000,
      by decide +kernel⟩

theorem wit_TelemetryAndBudgets_9 : ∃ (s : State), s.fwRuns .steward = true ∧ s.pkg.elected = true ∧ s.isCaptain =
    false ∧ s.pwr.failed = false :=
  ⟨stokerBench, by decide +kernel⟩

theorem wit_TelemetryAndBudgets_10 : ∃ (s : State), s.fwRuns .steward = true ∧ s.isCaptain = true ∧ s.bit
    Reg.FW_PKG_BUDGET Fld.FW_PKG_BUDGET_MODE = true ∧ s.pkg.balanceAt + 1000000 ≤ s.clk.pkg :=
  ⟨((later 1000000 captBench).raise Reg.FW_PKG_BUDGET Fld.FW_PKG_BUDGET_MODE).wr (Reg.PC_RANGE 1) 0x800004FC,
      by decide +kernel⟩

theorem wit_RangesAndLoss_1 : ∃ (s : State) (snap : List (Fin 16 × BitVec 64)) (k : Nat), s.fwRuns .upkeep = true ∧
    s.pkg.elected = true ∧ s.pkg.beatHeard = true ∧ s.pkg.reported = false ∧ s.pkg.noRange = false ∧ s.isCaptain =
    true ∧ s.captain = s.self ∧ s.deputy = none ∧ s.phase = 4 ∧ s.bit Reg.PC_LACE Fld.PC_LACE_LOCK = false ∧ s.groups
    ≤ 4 ∧ s.age.repair = none ∧ s.age.unlacedAt = [] ∧ k = s.gf Reg.PC_LACE Fld.PC_LACE_RESERVE ∧ 1 ≤ k ∧ k ≤ 16 ∧
    s.rd64 Reg.PC_UNLACING = 0 :=
  ⟨unranged (rangeBench 4 (pairBench.setRoles 0 none 5)), [], 4, by decide +kernel⟩

theorem wit_RangesAndLoss_2 : ∃ (s : State) (snap : List (Fin 16 × BitVec 64)) (e : Bool), s.fwRuns .upkeep = true ∧
    s.pkg.elected = true ∧ s.pkg.beatHeard = true ∧ s.pwr.warm = false ∧ s.isCaptain = false ∧ s.captain ≠ s.self ∧
    s.deputy = none ∧ 5 ≤ s.phase ∧ s.phase ≤ 8 ∧ s.bit (Reg.PC_RANGE s.self) Fld.PC_RANGE_VALID = false ∧ s.towards
    s.captain = some e ∧ (s.port e).waiting = [] :=
  ⟨unranged (rangeBench 8 stokerBench), [], true, by decide +kernel⟩

theorem wit_RangesAndLoss_3 : ∃ (s : State) (snap : List (Fin 16 × BitVec 64)), (s.pkg.elected = false ∨
    s.pkg.beatHeard = false) :=
  ⟨pairBench, [], by decide +kernel⟩

theorem wit_RangesAndLoss_4 : ∃ (s : State) (b : List Byte), s.fwRuns .steward = true ∧ s.ring.inbox = [(s.self,
    .rangeReport b)] ∧ s.isCaptain = true ∧ s.pkg.ranged = false ∧ s.pkg.goAt = none ∧ s.phase = 4 ∧ s.count = 1 ∧
    s.self = 0 ∧ s.eligible = true ∧ s.bit (Reg.PC_RANGE 0) Fld.PC_RANGE_VALID = false ∧ (b.getD 0 0).toNat = 0 ∧
    (b.getD 1 0).toNat.testBit 0 = false ∧ leNat (sliceBytes b 4 2) ≤ 256 ∧ onesBelow 64 (leNat (sliceBytes b 8 8)) ≤
    s.reserveCount ∧ laceInUse (s.rd Reg.PC_LACE) = s.rd Reg.PC_LACE ∧ s.bit Reg.PC_LACE Fld.PC_LACE_LOCK = false :=
  ⟨(unranged (rangeBench 4 (captBench.sf Reg.D2D_RING_STATUS Fld.D2D_RING_STATUS_COUNT 1))).modRing (fun g =>
      { g with inbox := [(0, .rangeReport (rangeRep 0))] }), rangeRep 0, by decide +kernel⟩

theorem wit_RangesAndLoss_5 : ∃ (s : State), s.fwRuns .steward = true ∧ s.ring.inbox = [] ∧ s.isCaptain = false ∧
    s.pkg.goAt = none ∧ s.phase = 4 ∧ s.bit (Reg.PC_RANGE s.self) Fld.PC_RANGE_VALID = true ∧ s.bit Reg.PC_LACE
    Fld.PC_LACE_LOCK = false ∧ laceInUse (s.rd Reg.PC_LACE) = s.rd Reg.PC_LACE :=
  ⟨((rangeBench 4 stokerBench).sf Reg.PC_LACE Fld.PC_LACE_LOCK 0).raise (Reg.PC_RANGE 0) Fld.PC_RANGE_VALID,
      by decide +kernel⟩

theorem wit_RangesAndLoss_6 : ∃ (s : State) (sl : Fin 16), s.fwRuns .steward = true ∧ s.isCaptain = true ∧ sl.val ≠
    s.self ∧ s.bit (Reg.PC_RANGE sl) Fld.PC_RANGE_VALID = true ∧ s.towards sl = none :=
  ⟨(captBench.sf Reg.D2D_RING_STATUS Fld.D2D_RING_STATUS_COUNT 4).wr (Reg.PC_RANGE 2) 0x800004FC |>.wr
      Reg.FW_PKG_PRESENT 5, 2, by decide +kernel⟩

theorem wit_RangesAndLoss_7 : ∃ (s : State) (sl : Fin 16), (s.isCaptain = false ∨ (sl.val = s.self ∧ s.pwr.failed =
    false) ∨ s.bit (Reg.PC_RANGE sl) Fld.PC_RANGE_VALID = false ∨ s.lossOf sl = none) :=
  ⟨captBench, 0, by decide +kernel⟩

theorem wit_RangesAndLoss_8 : ∃ (s : State) (sl : Fin 16) (b : List Byte), s.fwRuns .steward = true ∧
    (s.takeReports.pkg.reports.find? fun e => e.1 = sl.val) = some (sl.val, b) ∧ s.isCaptain = true ∧ sl.val ≠ s.self
    ∧ 5 ≤ s.phase ∧ s.phase ≤ 8 ∧ s.bit (Reg.PC_RANGE sl) Fld.PC_RANGE_VALID = false ∧ s.towards sl ≠ none ∧ s.count ≤
    16 ∧ (b.getD 1 0).toNat.testBit 0 = false ∧ leNat (sliceBytes b 4 2) ≤ 256 ∧ onesBelow 64 (leNat (sliceBytes b 8
    8)) ≤ s.reserveCount ∧ s.gf Reg.FW_ADDR_ORIGIN Fld.FW_ADDR_ORIGIN_ORIGIN < 2047 :=
  ⟨((rangeBench 8 captBench).wr (Reg.PC_RANGE 1) 0).modRing (fun g =>
      { g with inbox := [(1, .rangeReport (rangeRep 1))] }), 1, rangeRep 1, by decide +kernel⟩

theorem wit_RangesAndLoss_9 : ∃ (s : State) (snap : List (Fin 16 × BitVec 64)), s.fwRuns .upkeep = true ∧
    s.pkg.elected = true ∧ s.pkg.beatHeard = true ∧ ((s.phase = 9 ∧ s.pkg.reported = false) ∨ (s.phase = 4 ∧
    s.pkg.reported = true ∧ s.bit Reg.PC_LACE Fld.PC_LACE_LOCK = false ∧ s.bit (Reg.PC_RANGE s.self)
    Fld.PC_RANGE_VALID = false) ∨ (5 ≤ s.phase ∧ s.phase ≤ 8 ∧ (s.bit (Reg.PC_RANGE s.self) Fld.PC_RANGE_VALID = false
    ∨ s.pkg.reported = false ∨ (s.pkg.cutOff = true ∧ (s.captain = s.self ∨ s.towards s.captain ≠ none))))) :=
  ⟨unranged (rangeBench 8 stokerBench), [], by decide +kernel⟩

theorem wit_RangesAndLoss_10 : ∃ (s : State) (snap : List (Fin 16 × BitVec 64)), s.fwRuns .upkeep = true ∧
    s.pkg.elected = true ∧ s.pkg.beatHeard = true ∧ s.pkg.reported = false ∧ s.phase = 4 ∧ s.bit Reg.PC_LACE
    Fld.PC_LACE_LOCK = false :=
  ⟨unranged (rangeBench 4 (pairBench.setRoles 0 none 5)), [], by decide +kernel⟩

theorem wit_RangesAndLoss_11 : ∃ (s : State), s.fwRuns .steward = true ∧ s.isCaptain = false ∧ s.phase = 4 ∧ s.bit
    (Reg.PC_RANGE s.self) Fld.PC_RANGE_VALID = true ∧ s.bit Reg.PC_LACE Fld.PC_LACE_LOCK = false :=
  ⟨((rangeBench 4 stokerBench).sf Reg.PC_LACE Fld.PC_LACE_LOCK 0).raise (Reg.PC_RANGE 0) Fld.PC_RANGE_VALID,
      by decide +kernel⟩

theorem wit_RangesAndLoss_12 : ∃ (s : State), s.fwRuns .steward = true ∧ s.isCaptain = true ∧ s.pkg.ranged = false ∧
    s.phase = 4 ∧ s.count ≤ 16 ∧ s.gf Reg.FW_ADDR_ORIGIN Fld.FW_ADDR_ORIGIN_ORIGIN < 2047 ∧ (∀ i ∈
    s.takeReports.eligibles, s.takeReports.rangeReady i = true) :=
  ⟨((unranged (rangeBench 4 captBench)).modRing (fun g =>
      { g with inbox := [(0, .rangeReport (rangeRep 0)), (1, .rangeReport (rangeRep 1))] })).modPkg (fun p =>
      { p with phases := [(1, 4)] }), by decide +kernel⟩

theorem wit_RangesAndLoss_13 : ∃ (s : State) (sl : Fin 16) (c : Nat), s.fwRuns .steward = true ∧ s.isCaptain = true ∧
    s.bit (Reg.PC_RANGE sl) Fld.PC_RANGE_VALID = true ∧ s.lossOf sl = some c :=
  ⟨(captBench.sf Reg.D2D_RING_STATUS Fld.D2D_RING_STATUS_COUNT 4).wr (Reg.PC_RANGE 2) 0x800004FC |>.wr
      Reg.FW_PKG_PRESENT 5, 2, 0, by decide +kernel⟩

theorem wit_HistorySnapshotsCounters_1 : ∃ (s : State) (f : List (BitVec 32)), s.fwRuns .steward = true ∧
    s.age.baselines = [] :=
  ⟨bench, [5, 7], by decide +kernel⟩

theorem wit_HistorySnapshotsCounters_2 : ∃ (s : State) (x : BitVec 32) (y : Nat), s.fwRuns .steward = true ∧
    s.age.baselines = List.replicate 48 y ∧ 0 < y :=
  ⟨{ bench with age := { bench.age with baselines := List.replicate 48 4000 } }, 3877, 4000, by decide +kernel⟩

theorem wit_HistorySnapshotsCounters_3 : ∃ (s : State), s.fwRuns .upkeep = true ∧ s.age.pointDay.all (fun n => decide
    (n + s.gf Reg.FW_AGEING_CFG Fld.FW_AGEING_CFG_REC_DAYS ≤ s.serviceDay)) = true ∧ s.phase = 8 :=
  ⟨snapBench none, by decide +kernel⟩

theorem wit_HistorySnapshotsCounters_4 : ∃ (s : State) (n : Nat), s.age.pointDay = some n ∧ s.serviceDay < n + s.gf
    Reg.FW_AGEING_CFG Fld.FW_AGEING_CFG_REC_DAYS :=
  ⟨{ bench with age := { bench.age with pointDay := some 0 } }.wr Reg.FW_AGEING_CFG 7, 0, by decide +kernel⟩

theorem wit_HistorySnapshotsCounters_5 : ∃ (s : State), s.fwRuns .upkeep = true ∧ s.age.snap = none ∧ s.exportOn =
    true ∧ s.inOwn s.exportBase 8388608 = true ∧ s.snapDue = true ∧ s.phase = 8 ∧ OwnLine s (s.halfBase s.nextGen) :=
  ⟨snapBench none, by decide +kernel⟩

theorem wit_HistorySnapshotsCounters_6 : ∃ (s : State) (x : Snap), s.fwRuns .upkeep = true ∧ s.age.snap = some x ∧
    x.step = 2 ∧ s.inFlight x.id = false ∧ s.doneStatus x.id = .ok ∧ OwnLine s (s.halfBase x.gen) ∧ x.header.length =
    64 :=
  ⟨snapBench (some (benchSnap 2)), benchSnap 2, by decide +kernel⟩

theorem wit_HistorySnapshotsCounters_7 : ∃ (s : State) (x : Snap), s.fwRuns .upkeep = true ∧ s.age.snap = some x ∧
    x.step = 3 ∧ s.inFlight x.id = false ∧ s.doneStatus x.id = .ok :=
  ⟨snapBench (some (benchSnap 3)), benchSnap 3, by decide +kernel⟩

theorem wit_HistorySnapshotsCounters_8 : ∃ (s : State) (x : Snap), s.fwRuns .upkeep = true ∧ s.age.snap = some x ∧
    s.inFlight x.id = false ∧ s.doneStatus x.id ≠ .ok :=
  ⟨(snapBench (some (benchSnap 1))).modPaths (fun y => { y with done := [{ benchDone 7 with status := .absent }] }),
      benchSnap 1, by decide +kernel⟩

theorem wit_HistorySnapshotsCounters_9 : ∃ (s : State) (t0 : Nat), s.fwRuns .upkeep = true ∧ s.exportOn = true ∧
    s.age.snapAt.getD s.age.serviceAt = t0 ∧ t0 + s.gf Reg.FW_LEDGER_XCTRL Fld.FW_LEDGER_XCTRL_PERIOD_MIN *
    60000000000 ≤ s.clk.pkg :=
  ⟨{ later 60000000000 ((snapBench none).sf Reg.FW_LEDGER_XCTRL Fld.FW_LEDGER_XCTRL_PERIOD_MIN 1) with
          age := { bench.age with snapAt := some 4000 } }, 4000, by decide +kernel⟩

theorem wit_HistorySnapshotsCounters_10 : ∃ (s : State), (s.exportOn = false ∨ s.clk.pkg < s.age.snapAt.getD
    s.age.serviceAt + s.gf Reg.FW_LEDGER_XCTRL Fld.FW_LEDGER_XCTRL_PERIOD_MIN * 60000000000) :=
  ⟨bench, by decide +kernel⟩

theorem wit_HistorySnapshotsCounters_11 : ∃ (s : State) (v : Word), Reached s :=
  ⟨bench, 0x40000000, by decide +kernel⟩

theorem wit_HistorySnapshotsCounters_12 : ∃ (s : State) (x : BitVec 4), Taken s :=
  ⟨later 525 bench, 5, by decide +kernel⟩

theorem wit_HistorySnapshotsCounters_13 : ∃ (s : State) (x : BitVec 4), Taken s ∧ x ≠ 0 :=
  ⟨later 524 bench, 5, by decide +kernel⟩

theorem wit_HistorySnapshotsCounters_14 : ∃ (s : State), Taken s :=
  ⟨(later 5 bench).raise Reg.CNT_CTRL Fld.CNT_CTRL_SNAP_DONE, by decide +kernel⟩

theorem wit_HistorySnapshotsCounters_15 : ∃ (s : State) (t0 : Nat) (l : List (Nat × CntAct)), s.live .sensor = true ∧
    s.cnt.acts = (t0, .snap) :: l ∧ t0 ≤ s.clk.pkg ∧ (∀ e ∈ l, s.clk.pkg < e.1) :=
  ⟨(actBench [(1024, .snap)]).wr64 (Reg.CNT_VAL 1 2) 9, 1024, [], by decide +kernel⟩

theorem wit_HistorySnapshotsCounters_16 : ∃ (s : State) (t0 : Nat) (n : Nat) (l : List (Nat × CntAct)), s.live .sensor
    = true ∧ s.cnt.acts = (t0, .clear n) :: l ∧ t0 ≤ s.clk.pkg ∧ (∀ e ∈ l, s.clk.pkg < e.1) :=
  ⟨((actBench [(1024, .clear 3), (9216, .snap)]).wr64 (Reg.CNT_VAL 1 2) 9).wr64 (Reg.CNT_VAL 2 2) 9, 1024, 3, [(9216,
      .snap)], by decide +kernel⟩

theorem wit_HistorySnapshotsCounters_17 : ∃ (s : State) (t0 : Nat) (n : Nat) (l : List (Nat × CntAct)), s.live .sensor
    = true ∧ s.cnt.acts = (t0, .run n) :: l ∧ t0 ≤ s.clk.pkg ∧ (∀ e ∈ l, s.clk.pkg < e.1) :=
  ⟨actBench [(2048, .run 3)], 2048, 3, [], by decide +kernel⟩

theorem wit_HistorySnapshotsCounters_18 : ∃ (s : State), (∀ e ∈ s.cnt.acts, s.clk.pkg < e.1) :=
  ⟨actBench [(3072, .clear 3)], by decide +kernel⟩

theorem wit_HistorySnapshotsCounters_19 : ∃ (s : State) (u : Fin 4) (e : BitVec 10) (x : BitVec 7) (v : Word), s.live
    .sensor = true ∧ s.cnt.since[u] ≠ none ∧ (∀ i : Fin 8, s.chained u i = false) :=
  ⟨((actBench []).wr (Reg.CNT_SEL 2 3) 0x7F0010).wr64 (Reg.CNT_VAL 2 3) (2 ^ 48 - 5), 2, 0x010, 4, 7,
      by decide +kernel⟩

theorem wit_HistorySnapshotsCounters_20 : ∃ (s : State) (u : Fin 4) (e : BitVec 10) (x : BitVec 7) (v : Word),
    s.cnt.since[u] = none :=
  ⟨actBench [], 1, 1, 0, 7, by decide +kernel⟩

theorem wit_HistorySnapshotsCounters_21 : ∃ (s : State) (a : Nat) (t0 : Nat), s.live .sensor = true ∧ s.ringOn
    Reg.CNT_DUMP_RING = true ∧ 0 < s.dumpNs ∧ t0 = s.clk.pkg / s.dumpNs * s.dumpNs ∧ s.cnt.dumpAt < t0 ∧ s.cnt.dumpIds
    = [] ∧ a = s.ringBase Reg.CNT_DUMP_RING + 384 * ((s.rd Reg.CNT_DUMP_SEQ).toNat % s.ringSlots Reg.CNT_DUMP_RING) ∧
    OwnLine s a ∧ OwnLine s (a + 128) ∧ OwnLine s (a + 256) :=
  ⟨dumpBench, 0, 4000, by decide +kernel⟩

theorem wit_HistorySnapshotsCounters_22 : ∃ (s : State), s.live .sensor = true ∧ s.ringOn Reg.CNT_DUMP_RING = true ∧ 0
    < s.dumpNs ∧ s.cnt.dumpAt < s.clk.pkg / s.dumpNs * s.dumpNs ∧ s.cnt.dumpIds = [] ∧ s.shutdown = true :=
  ⟨dumpBench.raise Reg.THERM_STATUS Fld.THERM_STATUS_SHUTDOWN, by decide +kernel⟩

theorem wit_HistorySnapshotsCounters_23 : ∃ (s : State) (b : List Byte) (rest : List (List Byte)) (a : Nat), s.live
    .sensor = true ∧ s.tags.wait = b :: rest ∧ s.tags.live = [] ∧ s.cnt.tagIds = [] ∧ s.ringOpen Reg.CNT_TAG_RING =
    true ∧ a = s.ringBase Reg.CNT_TAG_RING + 64 * (leNat (sliceBytes b 52 4) % s.ringSlots Reg.CNT_TAG_RING) ∧ OwnLine
    s a ∧ b.length = 64 :=
  ⟨{ bench.sf64 Reg.CNT_TAG_RING Fld.CNT_TAG_RING_ENABLE 1 with tags := { bench.tags with wait := [zeros 64] } },
      zeros 64, [], 0, by decide +kernel⟩

theorem wit_HistorySnapshotsCounters_24 : ∃ (s : State), s.live .sensor = true ∧ s.tags.wait = [] ∧ s.cnt.tagIds = []
    :=
  ⟨bench, by decide +kernel⟩

theorem wit_HistorySnapshotsCounters_25 : ∃ (s : State) (f : List (BitVec 32)), s.fwRuns .steward = true ∧
    s.age.baselines ≠ [] :=
  ⟨{ bench with age := { bench.age with baselines := [10, 20, 30] } }, [9, 19, 20], by decide +kernel⟩

theorem wit_HistorySnapshotsCounters_26 : ∃ (s : State) (x : Snap), s.fwRuns .upkeep = true ∧ s.age.snap = some x ∧
    x.step = 1 ∧ s.inFlight x.id = false ∧ s.doneStatus x.id = .ok :=
  ⟨(snapBench (some (benchSnap 1))).modPaths (fun y => { y with done := [benchDone 7] }), benchSnap 1,
      by decide +kernel⟩

theorem wit_HistorySnapshotsCounters_27 : ∃ (s : State), s.age.snap = none ∧ (s.exportOn = false ∨ s.snapDue = false ∨
    s.phase ≠ 8) :=
  ⟨(snapBench none).sf Reg.FW_LEDGER_XCTRL Fld.FW_LEDGER_XCTRL_ENABLE 0, by decide +kernel⟩

theorem wit_HistorySnapshotsCounters_28 : ∃ (s : State), Taken s :=
  ⟨later 524 bench, by decide +kernel⟩

theorem wit_HistorySnapshotsCounters_29 : ∃ (s : State) (e : BitVec 10) (x : BitVec 7) (v : Word) (u : Fin 4) (q :
    Nat), s.live .sensor = true ∧ s.cnt.since[u] ≠ none ∧ s.chained u 1 = true ∧ q = (if s.cntMatches u 0 e.toNat
    x.toNat then v.toNat else 0) :=
  ⟨((actBench []).wr (Reg.CNT_SEL 2 0) 0x7F0010).wr (Reg.CNT_SEL 2 1) 0x80000000 |>.wr64 (Reg.CNT_VAL 2 0) (2 ^ 48 -
      5), 0x010, 4, 7, 2, 7, by decide +kernel⟩

theorem wit_HistorySnapshotsCounters_30 : ∃ (s : State), s.live .sensor = true ∧ s.ringOn Reg.CNT_DUMP_RING = true ∧ 0
    < s.dumpNs ∧ s.cnt.dumpAt < s.clk.pkg / s.dumpNs * s.dumpNs ∧ s.dumpDone = false :=
  ⟨dumpBench.modCnt (fun c => { c with dumpIds := [7] }) |>.modPaths (fun y =>
      { y with reqXbar := [quietRead 7 0 .firmware .normal 5 0 64] }), by decide +kernel⟩

theorem wit_HistorySnapshotsCounters_31 : ∃ (s : State), s.live .sensor = true ∧ s.ringOn Reg.CNT_DUMP_RING = true ∧ 0
    < s.dumpNs ∧ s.cnt.dumpAt < s.clk.pkg / s.dumpNs * s.dumpNs ∧ s.cnt.dumpIds ≠ [] ∧ s.dumpDone = true ∧ (∀ i ∈
    s.cnt.dumpIds, s.doneStatus i = .ok) :=
  ⟨dumpBench.modCnt (fun c => { c with dumpIds := [7] }) |>.modPaths (fun y => { y with done := [benchDone 7] }),
      by decide +kernel⟩

theorem wit_HistorySnapshotsCounters_32 : ∃ (s : State) (i : Nat), s.live .sensor = true ∧ s.ringOn Reg.CNT_DUMP_RING
    = true ∧ 0 < s.dumpNs ∧ s.cnt.dumpAt < s.clk.pkg / s.dumpNs * s.dumpNs ∧ i ∈ s.cnt.dumpIds ∧ s.dumpDone = true ∧
    s.doneStatus i ≠ .ok :=
  ⟨dumpBench.modCnt (fun c => { c with dumpIds := [7] }) |>.modPaths (fun y =>
      { y with done := [{ benchDone 7 with status := .absent }] }), 7, by decide +kernel⟩

theorem wit_HistorySnapshotsCounters_33 : ∃ (s : State), (s.ringOn Reg.CNT_DUMP_RING = false ∨ (0 < s.dumpNs ∧
    s.clk.pkg / s.dumpNs * s.dumpNs ≤ s.cnt.dumpAt)) :=
  ⟨bench, by decide +kernel⟩

theorem wit_HistorySnapshotsCounters_34 : ∃ (s : State) (i : Nat), s.live .sensor = true ∧ s.tags.wait = [] ∧
    s.cnt.tagIds = [i] ∧ s.inFlight i = false ∧ s.doneStatus i ≠ .ok :=
  ⟨bench.modCnt (fun c => { c with tagIds := [7] }) |>.modPaths (fun y =>
      { y with done := [{ benchDone 7 with status := .absent }] }), 7, by decide +kernel⟩

theorem wit_HistorySnapshotsCounters_35 : ∃ (s : State), s.live .sensor = true ∧ s.cnt.tagIds = [] ∧ s.ringOpen
    Reg.CNT_TAG_RING = false :=
  ⟨{ bench with tags := { bench.tags with wait := [zeros 64] } }, by decide +kernel⟩

theorem wit_HistorySnapshotsCounters_36 : ∃ (s : State) (x : Snap), s.age.snap = some x ∧ s.inFlight x.id = true :=
  ⟨(snapBench (some (benchSnap 1))).modPaths (fun y =>
      { y with reqXbar := [quietRead 7 0 .firmware .normal 5 0 64] }), benchSnap 1, by decide +kernel⟩

theorem wit_RepairAndFailures_1 : ∃ (s : State) (p : Fin 64) (k : Fin 4) (r : RqEntry) (d : Driven), s.live (.pc p) =
    true ∧ s.pcs[p].replay = none ∧ s.pcs[p].rq = [r] ∧ s.pcs[p].wq = [] ∧ s.pcs[p].recent = [d] ∧ d.write = false ∧
    d.acc = r.acc ∧ s.pcs[p].cycle ≤ d.at_ + 64 ∧ s.bit Reg.PC_FEC_INFO Fld.PC_FEC_INFO_VALID = false ∧ s.inbox.parity
    = [] ∧ s.gf Reg.FW_REPAIR_CFG Fld.FW_REPAIR_CFG_CA_RANK_LIMIT ≥ 2 :=
  ⟨driven [drove false benchRead] (parityBench [cleanEntry] []), 0, 1, cleanEntry, drove false benchRead,
      by decide +kernel⟩

theorem wit_RepairAndFailures_2 : ∃ (s : State) (p : Fin 64) (k : Fin 4) (w : WqEntry) (d : Driven) (x : Replay),
    s.live (.pc p) = true ∧ s.pcs[p].replay = some x ∧ x.failed = false ∧ x.items = [d] ∧ d.write = true ∧ d.acc.id =
    w.acc.id ∧ d.acc.owner = w.acc.owner ∧ s.pcs[p].rq = [] ∧ s.pcs[p].wq = [w] ∧ s.inbox.parity = [] :=
  ⟨replaying (retry (drove true benchWrite) false) (parityBench [] [drivenEntry]), 0, 1, drivenEntry, drove true
      benchWrite, retry (drove true benchWrite) false, by decide +kernel⟩

theorem wit_RepairAndFailures_3 : ∃ (s : State) (r : Nat) (q : Nat) (j : Nat) (l : List (Nat × Nat)), s.fwRuns .upkeep
    = true ∧ s.inbox.causes = (r, q) :: l ∧ q ≤ 3 ∧ MayMove s r j :=
  ⟨(bench.cause 5 2), 5, 2, 1, [], by decide +kernel⟩

theorem wit_RepairAndFailures_4 : ∃ (s : State) (r : Nat) (q : Nat) (j : Nat) (l : List (Nat × Nat)), s.fwRuns .upkeep
    = true ∧ s.inbox.causes = (r, q) :: l ∧ 4 ≤ q ∧ MayMove s r j ∧ (s.isCaptain = true ∨ s.count ≤ 1) :=
  ⟨(bench.cause 5 4), 5, 4, 1, [], by decide +kernel⟩

theorem wit_RepairAndFailures_5 : ∃ (s : State) (r : Nat) (q : Nat) (l : List (Nat × Nat)), s.fwRuns .upkeep = true ∧
    s.inbox.causes = (r, q) :: l ∧ s.rankState r ≠ 0 ∧ s.rankState r ≠ 7 :=
  ⟨(bench.cause 5 4).setRank 5 6, 5, 4, [], by decide +kernel⟩

theorem wit_RepairAndFailures_6 : ∃ (s : State) (r : Nat) (q : Nat) (i : Nat) (x : BitVec 8), s.fwRuns .steward = true
    ∧ (s.isCaptain = true ∨ s.count ≤ 1) ∧ s.ring.inbox = [(i, .rebindRequest s.self r q)] ∧ s.pkg.deferred = [] ∧
    s.movesRunning + x.toNat < s.gf Reg.FW_REPAIR_CFG Fld.FW_REPAIR_CFG_PKG_PLANNED ∧ s.gf Reg.FW_REPAIR_CFG
    Fld.FW_REPAIR_CFG_RESERVE_KEEP + 1 ≤ s.freeReserve s.self :=
  ⟨(ctlBench (.rebindRequest 0 5 4) moveBench).wr Reg.FW_REPAIR_CFG 0x20100, 5, 4, 1, 1, by decide +kernel⟩

theorem wit_RepairAndFailures_7 : ∃ (s : State) (r : Nat) (q : Nat) (i : Nat) (x : BitVec 8), s.fwRuns .steward = true
    ∧ (s.isCaptain = true ∨ s.count ≤ 1) ∧ s.ring.inbox = [(i, .rebindRequest s.self r q)] ∧ s.pkg.deferred = [] ∧
    s.freeReserve s.self ≤ s.gf Reg.FW_REPAIR_CFG Fld.FW_REPAIR_CFG_RESERVE_KEEP :=
  ⟨(ctlBench (.rebindRequest 0 5 4) moveBench).wr Reg.FW_REPAIR_CFG 0x20200, 5, 4, 1, 1, by decide +kernel⟩

theorem wit_RepairAndFailures_8 : ∃ (s : State) (r : Nat) (q : Nat) (g : Nat) (l : List (Nat × Nat)), s.fwRuns .upkeep
    = true ∧ s.ring.inbox = [] ∧ s.age.starting = (r, q) :: l ∧ r < 256 ∧ q < 16 ∧ s.rankState r = 0 ∧ s.groups ≤ 4 ∧
    g < 64 * s.groups ∧ (∀ e, e < 16 → (s.redir e).valid = false) ∧ s.rankState g = 4 ∧ g % 64 ≠ r % 64 ∧ s.leaving (g
    % 64) = false ∧ (∀ h, h < g → ¬ (s.rankState h = 4 ∧ h % 64 ≠ r % 64 ∧ s.leaving (h % 64) = false)) :=
  ⟨startBench 1 4 moveBench, 1, 4, 200, [], by decide +kernel⟩

theorem wit_RepairAndFailures_9 : ∃ (s : State) (r : Nat) (q : Nat) (l : List (Nat × Nat)), s.fwRuns .upkeep = true ∧
    s.ring.inbox = [] ∧ s.age.starting = (r, q) :: l ∧ s.rankState r = 0 ∧ s.groups ≤ 4 ∧ (∀ e, e < 16 → (s.redir
    e).valid = false) ∧ (∀ g, g < 256 → s.rankState g ≠ 4 ∧ s.rankState g ≠ 5) :=
  ⟨startBench 9 4 bench, 9, 4, [], by decide +kernel⟩

theorem wit_RepairAndFailures_10 : ∃ (s : State) (sl : Fin 16) (r : Redir) (p : Fin 64), r = s.redir sl ∧ p = pcFin
    r.src ∧ s.live (.pc p) = true ∧ r.valid = true ∧ r.state = .copying ∧ r.wm < 393216 ∧ s.shutdown = false ∧
    s.pwr.quiesced = false ∧ s.fwRuns .upkeep = true ∧ s.copiers[sl].phase = .idle ∧ (s.paths.rets.filter fun x =>
    x.owner = .copyRead sl) = [] ∧ s.runFree p = true :=
  ⟨movingBench .copying 37 (copyChan .idle 0), 3, benchMove .copying 37, 5, by decide +kernel⟩

theorem wit_RepairAndFailures_11 : ∃ (s : State) (sl : Fin 16) (r : Redir) (g : Nat → Bool) (f : Nat → List Byte), r =
    s.redir sl ∧ s.live (.pc (pcFin r.src)) = true ∧ r.valid = true ∧ r.state = .copying ∧ r.wm < 393216 ∧ s.shutdown
    = false ∧ s.pwr.quiesced = false ∧ s.fwRuns .upkeep = true ∧ s.copiers[sl].phase = .reading ∧ s.copiers[sl].got =
    (upto 16).map (fun i => (i, g i, f i)) ∧ (s.paths.rets.filter fun x => x.owner = .copyRead sl) = [] ∧ s.runFree
    (pcFin r.dst) = true :=
  ⟨movingBench .copying 37 (copyChan .reading 0), 3, benchMove .copying 37, fun _ => false, fun i => List.replicate 64
      (BitVec.ofNat 8 i), by decide +kernel⟩

theorem wit_RepairAndFailures_12 : ∃ (s : State) (sl : Fin 16), ((s.redir sl).valid = false ∨ s.shutdown = true ∨
    s.fwRuns .upkeep = false) :=
  ⟨bench, 2, by decide +kernel⟩

theorem wit_RepairAndFailures_13 : ∃ (s : State) (sl : Fin 16) (r : Redir), r = s.redir sl ∧ s.live (.pc (pcFin
    r.src)) = true ∧ r.valid = true ∧ r.state = .copying ∧ r.wm < 393216 ∧ s.copiers[sl].phase = .writing ∧ 16 ≤
    s.copiers[sl].written :=
  ⟨movingBench .copying 393215 (copyChan .writing 16), 3, benchMove .copying 393215, by decide +kernel⟩

theorem wit_RepairAndFailures_14 : ∃ (s : State) (sl : Fin 16) (r : Redir), s.fwRuns .upkeep = true ∧ r = s.redir sl ∧
    r.valid = true ∧ r.state = .synced ∧ r.src ≠ r.dst ∧ (s.exportOn = false ∨ s.age.recorded.contains sl.val = true)
    ∧ s.age.later = [] :=
  ⟨movingBench .synced 393216 CopyChan.init, 3, benchMove .synced 393216, by decide +kernel⟩

theorem wit_RepairAndFailures_15 : ∃ (s : State) (l : List Nat) (p : Fin 64), s.fwRuns .upkeep = true ∧ s.inbox.unlace
    = p.val :: l ∧ s.leaving p = false ∧ (∀ e, e < 16 → (s.redir e).valid = false) ∧ (∀ j, j < s.groups → s.rankState
    (j * 64 + p.val) = 0) :=
  ⟨bench.modInbox (fun b => { b with unlace := [9] }), [], 9, by decide +kernel⟩

theorem wit_RepairAndFailures_16 : ∃ (s : State) (p : Fin 64), s.fwRuns .upkeep = true ∧ (s.rd64
    Reg.PC_UNLACING).testBit p = true ∧ (∀ j, j < s.groups → s.rankState (j * 64 + p.val) ∈ [2, 4, 5, 8, 9]) :=
  ⟨((List.range 4).foldl (fun (t : State) j => t.setRank (j * 64 + 9) 2) bench).wr64 Reg.PC_UNLACING 0x200, 9,
      by decide +kernel⟩

theorem wit_RepairAndFailures_17 : ∃ (s : State) (sl : Fin 16) (k : Fin 4) (x : BitVec 52), s.live (.slice sl) = true
    ∧ MayFence s sl ∧ s.sliceIdle sl = false ∧ (k = 0 ∨ k = 3) :=
  ⟨cacheBench (hostReq .read 64 0 [] []), 0, 0, 0x1234, by decide +kernel⟩

theorem wit_RepairAndFailures_18 : ∃ (s : State) (sl : Fin 16) (k : Fin 4) (x : BitVec 52), s.pwr.sliceFailed.contains
    sl.val = true ∧ (k = 0 ∨ k = 3) :=
  ⟨bench.modPwr (fun w => { w with sliceFailed := [4] }), 4, 0, 0, by decide +kernel⟩

theorem wit_RepairAndFailures_19 : ∃ (s : State) (cut : Bool) (r : Req) (i : Fin 16), s.fwRuns .upkeep = true ∧
    s.pwr.failed = false ∧ (cut = true ∨ 5 ≤ s.pwr.sliceFailed.length) ∧ s.paths.reqXbar = [r] ∧ s.paths.fenceWait =
    [] ∧ r.src = .host i :=
  ⟨(lineBench false [] []).modPaths (fun x => { x with reqXbar := [hostReq .read 64 0 [] []] }), true, hostReq .read
      64 0 [] [], 3, by decide +kernel⟩

theorem wit_RepairAndFailures_20 : ∃ (s : State) (cut : Bool), (s.pwr.failed = true ∨ (cut = false ∧
    s.pwr.sliceFailed.length < 5)) :=
  ⟨bench, false, by decide +kernel⟩

theorem wit_RepairAndFailures_21 : ∃ (s : State) (v : Word), Taken s :=
  ⟨bench, 0xFFF51234, by decide +kernel⟩

theorem wit_RepairAndFailures_22 : ∃ (s : State) (east : Bool) (v : Word), s.mgtReady = true ∧ s.live (.d2d east) =
    true :=
  ⟨pairBench, true, 0xA03F0005, by decide +kernel⟩

theorem wit_RepairAndFailures_23 : ∃ (s : State) (n : Fin 8) (v : Word), s.mgtReady = true ∧ s.live .remote = true :=
  ⟨bench, 6, 0xB3FF8000, by decide +kernel⟩

theorem wit_RepairAndFailures_24 : ∃ (s : State) (p : Fin 64) (k : Fin 4), s.live (.pc p) = true ∧ s.pcs[p].replay =
    none :=
  ⟨driven [drove false benchRead] (parityBench [cleanEntry] [drivenEntry]), 0, 1, by decide +kernel⟩

theorem wit_RepairAndFailures_25 : ∃ (s : State) (p : Fin 64) (k : Fin 4) (x : Replay), s.live (.pc p) = true ∧
    s.pcs[p].replay = some x ∧ x.failed = false ∧ (∀ r ∈ s.pcs[p].rq, ∀ d ∈ x.items, d.acc.id ≠ r.acc.id) :=
  ⟨replaying (retry (drove true benchWrite) false) (parityBench [] [drivenEntry]), 0, 1, retry (drove true benchWrite)
      false, by decide +kernel⟩

theorem wit_RepairAndFailures_26 : ∃ (s : State) (p : Fin 64) (k : Fin 4) (r : RqEntry) (b : Fin 32) (tag : Nat) (x :
    Replay) (d : Driven), s.live (.pc p) = true ∧ s.pcs[p].rq = [r] ∧ s.pcs[p].replay = some x ∧ x.failed = false ∧
    x.items = [d] ∧ d.write = false ∧ d.acc = r.acc ∧ r.acc.owner = .bme b tag :=
  ⟨replaying (retry (drove false { benchRead with owner := .bme 3 7 }) false) (parityBench
      [{ cleanEntry with acc := { benchRead with owner := .bme 3 7 } }] []), 0, 1,
      { cleanEntry with acc := { benchRead with owner := .bme 3 7 } }, 3, 7, retry (drove false
      { benchRead with owner := .bme 3 7 }) false, drove false { benchRead with owner := .bme 3 7 },
      by decide +kernel⟩

theorem wit_RepairAndFailures_27 : ∃ (s : State) (p : Fin 64) (k : Fin 4), s.live (.pc p) = true ∧ (∃ e ∈
    s.inbox.parity, s.clk.pkg ≤ e.2 + 1000000000 ∧ e.1 % 64 = p.val ∧ e.1 ≠ k.val * 64 + p.val) :=
  ⟨bench.modInbox (fun b => { b with parity := [(128, 0)] }), 0, 1, by decide +kernel⟩

theorem wit_RepairAndFailures_28 : ∃ (s : State) (p : Fin 64) (k : Fin 4) (x : Replay), s.live (.pc p) = true ∧
    s.pcs[p].replay = some x ∧ x.failed = true :=
  ⟨replaying (retry (drove true benchWrite) true) (parityBench [] [drivenEntry]), 0, 1, retry (drove true benchWrite)
      true, by decide +kernel⟩

theorem wit_RepairAndFailures_29 : ∃ (s : State) (p : Fin 64), s.pcs[p].replay ≠ none :=
  ⟨replaying (retry (drove true benchWrite) true) (parityBench [] [drivenEntry]), 0, by decide +kernel⟩

theorem wit_RepairAndFailures_30 : ∃ (s : State) (p : Fin 64) (x : Replay) (d : Driven), s.live (.pc p) = true ∧
    s.pcs[p].replay = some x ∧ s.cycleRuns p = true ∧ s.commandsRun p = true ∧ replayColumn s p s.pcs[p] x = some d ∧
    s.pcs[p].holds d = false ∧ s.pcs[p].fwd = [] ∧ s.bit Reg.PC_INJ Fld.PC_INJ_ENABLE = false :=
  ⟨(replaying ({ retry (drove true benchWrite) true with closing := false }) (parityBench [] [])).modPc 0 (fun c =>
      c.modBank 0 fun b => { b with row := some 0 }), 0, { retry (drove true benchWrite) true with closing := false },
      drove true benchWrite, by decide +kernel⟩

theorem wit_RepairAndFailures_31 : ∃ (s : State) (r : Nat) (q : Nat) (j : Nat) (l : List (Nat × Nat)), s.fwRuns
    .upkeep = true ∧ s.inbox.causes = (r, q) :: l ∧ 4 ≤ q ∧ MayMove s r j ∧ s.isCaptain = false ∧ 1 < s.count :=
  ⟨stokerBench.cause 5 4, 5, 4, 1, [], by decide +kernel⟩

theorem wit_RepairAndFailures_32 : ∃ (s : State) (r : Nat) (q : Nat) (l : List (Nat × Nat)), s.fwRuns .upkeep = true ∧
    s.inbox.causes = (r, q) :: l ∧ (s.rankState r = 0 ∨ s.rankState r = 7) ∧ (s.leaving (r % 64) = true ∨
    s.inbox.unlace.contains (r % 64) = true) :=
  ⟨(bench.cause 5 4).wr64 Reg.PC_UNLACING 0x20, 5, 4, [], by decide +kernel⟩

theorem wit_RepairAndFailures_33 : ∃ (s : State) (r : Nat) (q : Nat) (l : List (Nat × Nat)), s.fwRuns .upkeep = true ∧
    s.inbox.causes = (r, q) :: l ∧ (s.rankState r = 0 ∨ s.rankState r = 7) ∧ r / 64 < s.groups ∧ s.leaving (r % 64) =
    false ∧ s.inbox.unlace.contains (r % 64) = false ∧ (∀ j, j < s.groups → s.inService (j * 64 + r % 64) = true → j *
    64 + r % 64 = r ∨ (∃ e ∈ s.age.causeAt, e.1 = j * 64 + r % 64 ∧ s.clk.pkg ≤ e.2 + 1000000000)) :=
  ⟨(bench.cause 5 4).modAge (fun a => { a with causeAt := [(69, 0), (133, 0), (197, 0)] }), 5, 4, [],
      by decide +kernel⟩

theorem wit_RepairAndFailures_34 : ∃ (s : State), s.inbox.causes = [] :=
  ⟨bench, by decide +kernel⟩

theorem wit_RepairAndFailures_35 : ∃ (s : State) (r : Nat) (q : Nat) (i : Nat) (j : Nat) (x : BitVec 8), s.fwRuns
    .steward = true ∧ (s.isCaptain = true ∨ s.count ≤ 1) ∧ s.ring.inbox = [(i, .rebindRequest j r q)] ∧ s.pkg.deferred
    = [] ∧ j ≠ s.self ∧ s.movesRunning + x.toNat < s.gf Reg.FW_REPAIR_CFG Fld.FW_REPAIR_CFG_PKG_PLANNED ∧ s.gf
    Reg.FW_REPAIR_CFG Fld.FW_REPAIR_CFG_RESERVE_KEEP + 1 ≤ s.freeReserve j :=
  ⟨(ctlBench (.rebindRequest 1 5 4) (captBench.modPkg fun p =>
      { p with telemetry := [(1, 0, List.replicate 64 9)] })).wr Reg.FW_REPAIR_CFG 0x20100, 5, 4, 1, 1, 1,
      by decide +kernel⟩

theorem wit_RepairAndFailures_36 : ∃ (s : State) (x : BitVec 8), ((s.isCaptain = false ∧ 1 < s.count) ∨
    (s.ring.inbox.any isRebindRequest = false ∧ (∀ e ∈ s.pkg.deferred, s.clk.pkg < e.2.2.2 + 1000000))) :=
  ⟨bench, 3, by decide +kernel⟩

theorem wit_RepairAndFailures_37 : ∃ (s : State) (e : Fin 16) (r : Redir), s.fwRuns .upkeep = true ∧ s.ring.inbox = []
    ∧ r = s.redir e ∧ r.valid = true ∧ r.state = .queued ∧ (∀ k, k < e.val → ¬ ((s.redir k).valid = true ∧ (s.redir
    k).state = .queued)) ∧ s.copying < 4 :=
  ⟨bench.setRedir 3 (benchMove .queued 0), 3, benchMove .queued 0, by decide +kernel⟩

theorem wit_RepairAndFailures_38 : ∃ (s : State), s.ring.inbox = [] ∧ s.age.starting = [] ∧ (s.copying = 4 ∨ (∀ k, k <
    16 → ¬ ((s.redir k).valid = true ∧ (s.redir k).state = .queued))) :=
  ⟨bench, by decide +kernel⟩

theorem wit_RepairAndFailures_39 : ∃ (s : State) (r : Nat) (q : Nat) (e : Nat) (g : Nat) (l : List (Nat × Nat)),
    s.fwRuns .upkeep = true ∧ s.ring.inbox = [] ∧ s.age.starting = (r, q) :: l ∧ r < 256 ∧ q < 16 ∧ s.rankState r = 7
    ∧ s.groups ≤ 4 ∧ g < 64 * s.groups ∧ e < 16 ∧ (s.redir e).valid = true ∧ (s.redir e).dst = r ∧ (s.redir e).state =
    .bound ∧ (∀ k, k < e → ¬ ((s.redir k).valid = true ∧ (s.redir k).dst = r ∧ (s.redir k).state = .bound)) ∧
    s.rankState g = 4 ∧ g % 64 ≠ r % 64 ∧ s.leaving (g % 64) = false ∧ (∀ h, h < g → ¬ (s.rankState h = 4 ∧ h % 64 ≠ r
    % 64 ∧ s.leaving (h % 64) = false)) ∧ s.copying < 4 ∧ (∀ k, k < 16 → ¬ ((s.redir k).valid = true ∧ (s.redir
    k).state = .queued)) :=
  ⟨startBench 193 5 (((moveBench.setRank 193 7).setRank 5 2).setRedir 3 (benchMove .bound 393216)), 193, 5, 3, 200,
      [], by decide +kernel⟩

theorem wit_RepairAndFailures_40 : ∃ (s : State) (sl : Fin 16) (r : Redir), r = s.redir sl ∧ s.live (.pc (pcFin
    r.src)) = true ∧ r.valid = true ∧ r.state = .copying ∧ r.wm < 393216 ∧ s.shutdown = false ∧ s.pwr.quiesced = false
    ∧ s.fwRuns .upkeep = true ∧ s.copiers[sl].phase = .reading ∧ (s.copiers[sl].got ++ (s.paths.rets.filter fun x =>
    x.owner = .copyRead sl).map fun x => (x.loc.col, x.bad, x.data)).length < 16 :=
  ⟨(movingBench .copying 37 { CopyChan.init with phase := .reading }).modPaths (fun x =>
      { x with rets := [{ owner := .copyRead 3, loc := badLoc, data := zeros 64, bad := false }] }), 3, benchMove
      .copying 37, by decide +kernel⟩

theorem wit_RepairAndFailures_41 : ∃ (s : State) (sl : Fin 16), ((s.redir sl).valid = false ∨ (s.redir sl).state ≠
    .copying ∨ s.copiers[sl].phase ≠ .writing ∨ s.copiers[sl].written < 16) :=
  ⟨bench, 2, by decide +kernel⟩

theorem wit_RepairAndFailures_42 : ∃ (s : State) (sl : Fin 16), ((s.redir sl).valid = false ∨ (s.redir sl).state ≠
    .synced ∨ (s.exportOn = true ∧ s.age.recorded.contains sl.val = false)) :=
  ⟨bench, 2, by decide +kernel⟩

theorem wit_RepairAndFailures_43 : ∃ (s : State) (l : List Nat) (p : Fin 64), s.fwRuns .upkeep = true ∧ s.inbox.unlace
    = p.val :: l ∧ s.leaving p = false ∧ s.groups ≤ 4 ∧ (∀ e, e < 16 → (s.redir e).valid = true → (s.redir e).state =
    .bound ∨ (s.redir e).dst % 64 ≠ p.val) ∧ (∀ j, j < s.groups → s.rankState (j * 64 + p.val) ≠ 5) :=
  ⟨(bench.setRank 201 4).modInbox (fun b => { b with unlace := [9] }), [], 9, by decide +kernel⟩

theorem wit_RepairAndFailures_44 : ∃ (s : State) (l : List Nat) (p : Fin 64) (e : Fin 16) (r : Redir) (g : Nat),
    s.fwRuns .upkeep = true ∧ s.inbox.unlace = p.val :: l ∧ s.leaving p = false ∧ s.groups ≤ 4 ∧ r = s.redir e ∧
    r.valid = true ∧ r.state ≠ .bound ∧ r.dst % 64 = p.val ∧ (∀ k, k < 16 → k ≠ e.val → (s.redir k).valid = false) ∧
    (∀ j, j < s.groups → s.rankState (j * 64 + p.val) ≠ 4 ∧ s.rankState (j * 64 + p.val) ≠ 5) ∧ g < 64 * s.groups ∧
    s.rankState g = 4 ∧ g % 64 ≠ r.src % 64 ∧ s.leaving (g % 64) = false ∧ (∀ h, h < g → ¬ (s.rankState h = 4 ∧ h % 64
    ≠ r.src % 64 ∧ s.leaving (h % 64) = false)) :=
  ⟨((movingBench .copying 37 (copyChan .idle 0)).setRank 200 4).modInbox (fun b => { b with unlace := [1] }), [], 1,
      3, benchMove .copying 37, 200, by decide +kernel⟩

theorem wit_RepairAndFailures_45 : ∃ (s : State) (l : List Nat) (p : Nat), s.fwRuns .upkeep = true ∧ s.inbox.unlace =
    p :: l ∧ s.leaving p = true :=
  ⟨(bench.wr64 Reg.PC_UNLACED 0x200).modInbox (fun b => { b with unlace := [9] }), [], 9, by decide +kernel⟩

theorem wit_RepairAndFailures_46 : ∃ (s : State) (p : Fin 64), ((s.rd64 Reg.PC_UNLACING).testBit p = false ∨ (∃ j, j <
    s.groups ∧ s.rankState (j * 64 + p.val) ∈ [0, 1, 3, 6, 7])) :=
  ⟨bench, 2, by decide +kernel⟩

theorem wit_RepairAndFailures_47 : ∃ (s : State) (sl : Fin 16) (x : BitVec 52), s.live (.slice sl) = true ∧ MayFence s
    sl :=
  ⟨bench, 0, 0x1234, by decide +kernel⟩

theorem wit_RepairAndFailures_48 : ∃ (s : State) (sl : Fin 16) (x : BitVec 52), s.live (.slice sl) = true ∧
    s.pwr.sliceFailed.contains sl.val = true :=
  ⟨bench.modPwr (fun w => { w with sliceFailed := [4] }), 4, 0, by decide +kernel⟩

theorem wit_RepairAndFailures_49 : ∃ (s : State) (sl : Fin 16) (x : BitVec 52), s.live (.slice sl) = true ∧
    (s.pwr.sliceFailed.contains sl.val = true ∨ (s.dataErrors sl).length ≤ 4) :=
  ⟨lineBench false [] [], 0, 64, by decide +kernel⟩

theorem wit_RepairAndFailures_50 : ∃ (s : State) (sl : Fin 16) (x : BitVec 52), s.live (.slice sl) = true ∧ MayFence s
    sl ∧ s.sliceIdle sl = false ∧ 4 < (s.dataErrors sl).length :=
  ⟨(cacheBench (hostReq .read 64 0 [] [])).modSlice 0 (fun x => { x with errs := [0, 0, 0, 0] }), 0, 64,
      by decide +kernel⟩

theorem wit_RepairAndFailures_51 : ∃ (s : State) (sl : Fin 16) (k : Fin 4) (x : BitVec 52), s.live (.slice sl) = true
    ∧ MayFence s sl ∧ s.sliceIdle sl = true ∧ s.answers sl = true ∧ (k = 0 ∨ k = 3) ∧ s.paths.slices[sl].ways = [] ∧
    s.paths.slices[sl].reds = [] ∧ s.paths.slices[sl].sweep = none :=
  ⟨bench, 0, 3, 0x1234, by decide +kernel⟩

theorem wit_RepairAndFailures_52 : ∃ (s : State) (sl : Fin 16) (k : Fin 4) (x : BitVec 52), s.live (.slice sl) = true
    ∧ s.pwr.sliceFailed.contains sl.val = false ∧ (k = 0 ∨ k = 3) ∧ (s.fenced.testBit sl = true ∨
    s.fencePending.testBit sl = true ∨ 4 ≤ onesBelow 16 (s.fenced ||| s.fencePending)) :=
  ⟨bench.wr Reg.CACHE_FENCE 0x1E, 0, 3, 0x1234, by decide +kernel⟩

theorem wit_RepairAndFailures_53 : ∃ (s : State) (cut : Bool), s.fwRuns .upkeep = true ∧ s.pwr.failed = false ∧ (cut =
    true ∨ 5 ≤ s.pwr.sliceFailed.length) :=
  ⟨(lineBench false [] []).modPaths (fun x => { x with reqXbar := [hostReq .read 64 0 [] []] }), true,
      by decide +kernel⟩

theorem wit_TrainingAndTruing_1 : ∃ (s : State) (v : Word) (a : Passes) (b : Passes) (d' : Passes) (e' : Passes) (g :
    Passes) (r : TrainRun) (x : BitVec 12) (t0 : Nat), s.fwRuns .upkeep = true ∧ s.chain.taken = [(true, v)] ∧ cwKind
    v = 6 ∧ cwArg v / 65536 = 2 ∧ s.straps.chainHead = false ∧ s.count ≠ 0 ∧ s.pkg.goAt = some t0 ∧ s.phase ≠ 9 ∧
    s.age.trained = false ∧ s.pwr.warm = false ∧ s.bit Reg.FW_BOOT_CTRL Fld.FW_BOOT_CTRL_LEDGER = false ∧ s.age.repair
    = none ∧ s.gf Reg.FW_BOOT_CTRL Fld.FW_BOOT_CTRL_RATE = 0 ∧ EvenRun s r a b d' e' g ∧ s.age.guards =
    Vector.replicate 64 0 ∧ Ungranted s ∧ WarmStack s x :=
  ⟨(trainBench bench).modChain (fun y => { y with taken := [(true, chainWord 6 true 0 0x20000)] }), chainWord 6 true 0
      0x20000, passing 10 101, passing 20 127, passing 4 60, passing 0 57, passing 30 120, benchTrain, 350, 0,
      by decide +kernel⟩

theorem wit_TrainingAndTruing_2 : ∃ (s : State) (v : Word) (height : BitVec 8) (x : BitVec 12) (ok : Bool) (info :
    Option RepairInfo) (l : List TrainRun), s.fwRuns .upkeep = true ∧ s.chain.taken = [(true, v)] ∧ cwKind v = 6 ∧
    cwArg v / 65536 = 2 ∧ s.count ≠ 0 ∧ s.pkg.goAt = none :=
  ⟨wordBench true (chainWord 6 true 0 0x20000), chainWord 6 true 0 0x20000, 16, 350, true, none, [benchTrain],
      by decide +kernel⟩

theorem wit_TrainingAndTruing_3 : ∃ (s : State) (v : Word) (t0 : Nat) (height : BitVec 8) (x : BitVec 12) (ok : Bool)
    (info : Option RepairInfo) (l : List TrainRun), s.fwRuns .upkeep = true ∧ s.chain.taken = [(true, v)] ∧ cwKind v =
    6 ∧ cwArg v / 65536 = 2 ∧ s.count ≠ 0 ∧ s.pkg.goAt = some t0 ∧ s.phase ≠ 9 ∧ s.age.trained = false ∧ height ≠ 12 ∧
    height ≠ 16 :=
  ⟨(trainBench bench).modChain (fun y => { y with taken := [(true, chainWord 6 true 0 0x20000)] }), chainWord 6 true 0
      0x20000, 0, 8, 350, true, none, [benchTrain], by decide +kernel⟩

theorem wit_TrainingAndTruing_4 : ∃ (s : State) (a : Passes) (b : Passes) (d' : Passes) (e' : Passes) (g : Passes) (r
    : TrainRun) (t0 : Nat), s.fwRuns .upkeep = true ∧ s.age.waiting = true ∧ s.trainWarm = true ∧ s.shutdown = false ∧
    s.age.repair = none ∧ s.gf Reg.FW_BOOT_CTRL Fld.FW_BOOT_CTRL_RATE = 0 ∧ s.pkg.goAt = some t0 ∧ s.straps.chainHead
    = false ∧ EvenRun s r a b d' e' g ∧ s.age.guards = Vector.replicate 64 0 ∧ Ungranted s :=
  ⟨{ trainBench bench with age := { bench.age with waiting := true } }, passing 10 101, passing 20 127, passing 4 60,
      passing 0 57, passing 30 120, benchTrain, 0, by decide +kernel⟩

theorem wit_TrainingAndTruing_5 : ∃ (s : State) (l : List TrainRun), (s.age.waiting = false ∨ s.shutdown = true ∨
    s.trainWarm = false) :=
  ⟨bench, [benchTrain], by decide +kernel⟩

theorem wit_TrainingAndTruing_6 : ∃ (s : State) (p : Fin 64) (i : Fin 60) (v : Word), s.live (.pc p) = true ∧
    s.pcs[p].granted = false ∧ s.pcs[p].truing = none :=
  ⟨bench, 3, 40, 0xFFFFFFFF, by decide +kernel⟩

theorem wit_TrainingAndTruing_7 : ∃ (s : State) (p : Fin 64) (n0 : Nat) (n1 : Nat), s.fwRuns .upkeep = true ∧ s.phase
    = 8 ∧ s.bit Reg.FW_TRUE_CFG Fld.FW_TRUE_CFG_ENABLE = true ∧ s.pcs[p].truing = none ∧ s.pcs[p].truingNext = none ∧
    s.skipReason p = none ∧ n0 = s.gf Reg.FW_TRUE_CFG Fld.FW_TRUE_CFG_PERIOD_MS * 1000000 ∧ n1 = s.age.windows[p] * n0
    + p.val * n0 / 64 + s.self * n0 / 1024 ∧ s.clk.pkg + 100000 ≤ n1 ∧ n1 ≤ s.clk.pkg + 1000000 :=
  ⟨dueBench 3000000, 1, 256000000, 4000000, by decide +kernel⟩

theorem wit_TrainingAndTruing_8 : ∃ (s : State) (p : Fin 64) (n0 : Nat) (n1 : Nat), s.fwRuns .upkeep = true ∧ s.phase
    = 8 ∧ s.bit Reg.FW_TRUE_CFG Fld.FW_TRUE_CFG_ENABLE = true ∧ n0 = s.gf Reg.FW_TRUE_CFG Fld.FW_TRUE_CFG_PERIOD_MS *
    1000000 ∧ n1 = s.age.windows[p] * n0 + p.val * n0 / 64 + s.self * n0 / 1024 ∧ n1 < s.clk.pkg + 100000 :=
  ⟨dueBench 3900001, 1, 256000000, 4000000, by decide +kernel⟩

theorem wit_TrainingAndTruing_9 : ∃ (s : State) (p : Fin 64) (n0 : Nat), s.fwRuns .upkeep = true ∧ s.phase = 8 ∧ s.bit
    Reg.FW_TRUE_CFG Fld.FW_TRUE_CFG_ENABLE = true ∧ s.bit Reg.FW_TRUE_CFG Fld.FW_TRUE_CFG_EXPEDITE = true ∧
    (s.pcs[p].laneSuspect ≠ [] ∨ s.age.expedite.contains p.val = true) ∧ s.pcs[p].truing = none ∧ s.pcs[p].truingNext
    = none ∧ s.skipReason p = none ∧ s.expediteTime = some n0 :=
  ⟨(dueBench 5000000).modPc 1 (fun y => { y with laneSuspect := [4] }), 1, 6000000, by decide +kernel⟩

theorem wit_TrainingAndTruing_10 : ∃ (s : State) (p : Fin 64) (cut : Bool), (s.phase ≠ 8 ∨ s.bit Reg.FW_TRUE_CFG
    Fld.FW_TRUE_CFG_ENABLE = false) :=
  ⟨bench.sf Reg.FW_BOOT_STATUS Fld.FW_BOOT_STATUS_PHASE 4, 1, false, by decide +kernel⟩

theorem wit_TrainingAndTruing_11 : ∃ (s : State) (p : Fin 64) (w : Truing) (r : Probes), s.live (.pc p) = true ∧
    s.pcs[p].truing = some w ∧ w.opened = true ∧ w.posted = false ∧ w.at_ + 1000 ≤ s.now (.pc p) :=
  ⟨later 1000 (truingBench openWindow), 0, openWindow, benchProbes 0 noProbe, by decide +kernel⟩

theorem wit_TrainingAndTruing_12 : ∃ (s : State) (p : Fin 64) (w : Truing) (r : Probes), Deciding s p w r ∧
    r.reference = 0 ∧ OnlyRx r 0 0 ∧ s.margins = { usual := [], edges := [] } :=
  ⟨probeBench (benchProbes 0 noProbe), 0, probed (benchProbes 0 noProbe), benchProbes 0 noProbe, by decide +kernel⟩

theorem wit_TrainingAndTruing_13 : ∃ (s : State) (p : Fin 64) (w : Truing) (r : Probes) (lane : Fin 38), Deciding s p
    w r ∧ r.reference = 0 ∧ OnlyRx r 0 0 ∧ s.margins = { usual := [], edges := [] } :=
  ⟨probeBench (benchProbes 0 noProbe), 0, probed (benchProbes 0 noProbe), benchProbes 0 noProbe, 7, by decide +kernel⟩

theorem wit_TrainingAndTruing_14 : ∃ (s : State) (p : Fin 64) (w : Truing) (r : Probes) (lane : Fin 36), Deciding s p
    w r ∧ r.reference = 0 ∧ OnlyRx r (BitVec.ofNat 38 (2 ^ lane.val)) 0 ∧ s.margins = { usual := [], edges := [] } ∧
    s.dqLanes p = upto 36 ∧ s.gf (Reg.PC_DLY_DQ p lane) Fld.PC_DLY_DQ_RX_DLY < 1023 :=
  ⟨(probeBench (benchProbes 0 { noProbe with low := 32 })).sf (Reg.PC_DLY_DQ 0 5) Fld.PC_DLY_DQ_RX_DLY 400, 0, probed
      (benchProbes 0 { noProbe with low := 32 }), benchProbes 0 { noProbe with low := 32 }, 5, by decide +kernel⟩

theorem wit_TrainingAndTruing_15 : ∃ (s : State) (p : Fin 64) (w : Truing) (r : Probes) (lane : Fin 36), Deciding s p
    w r ∧ r.reference = BitVec.ofNat 38 (2 ^ lane.val) ∧ OnlyRx r 0 0 ∧ s.margins = { usual := [], edges := [] } ∧
    s.dqLanes p = upto 36 :=
  ⟨probeBench (benchProbes 512 noProbe), 0, probed (benchProbes 512 noProbe), benchProbes 512 noProbe, 9,
      by decide +kernel⟩

theorem wit_TrainingAndTruing_16 : ∃ (s : State) (p : Fin 64) (w : Truing) (r : Probes) (a : Nat) (b : Nat), Deciding
    s p w r ∧ r.reference = 0 ∧ OnlyRx r 0 0 ∧ w.no = 0 ∧ 2 ≤ s.groups ∧ s.dqLanes p = upto 36 ∧ s.margins =
    { usual := [], edges := [{ pc := p, kind := 0, group := 0, lane := 3, run := some (a, b) }] } ∧ r.outside.getLsbD
    3 = false :=
  ⟨{ probeBench (benchProbes 0 noProbe) with
          margins := { usual := [], edges := [{ pc := 0, kind := 0, group := 0, lane := 3, run := some (80, 300) }] } },
      0, probed (benchProbes 0 noProbe), benchProbes 0 noProbe, 80, 300, by decide +kernel⟩

theorem wit_TrainingAndTruing_17 : ∃ (s : State) (p : Fin 64) (w : Truing), s.live (.pc p) = true ∧ s.pcs[p].truing =
    some w ∧ w.opened = true ∧ (w.done = true ∨ w.timedOut = true) ∧ w.at_ + 1600 ≤ s.now (.pc p) :=
  ⟨later 1600 ((truingBench { openWindow with done := true }).raise (Reg.PC_SCHED_STATUS 0)
      Fld.PC_SCHED_STATUS_TRUING), 0, { openWindow with done := true }, by decide +kernel⟩

theorem wit_TrainingAndTruing_18 : ∃ (s : State) (u : State) (p : Fin 64) (w : Truing), s.live (.pc p) = true ∧
    s.pcs[p].truing = some w ∧ w.opened = true ∧ w.done = false ∧ w.timedOut = false ∧ w.at_ + 1600 ≤ s.now (.pc p) ∧
    w.saved = u.delays p :=
  ⟨(truingBench { openWindow with saved := bench.delays 0 }).wr (dlyReg 0 5) 77 |> later 1600, bench, 0,
      { openWindow with saved := bench.delays 0 }, by decide +kernel⟩

theorem wit_TrainingAndTruing_19 : ∃ (s : State) (p : Fin 64), s.live (.pc p) = true ∧ s.pcs[p].ceWindow < s.now (.pc
    p) / 1000000000 :=
  ⟨(later 1000000000 bench).modPc 2 (fun y => { y with ceNext := 9, laneCe := Vector.replicate 36 4 }), 2,
      by decide +kernel⟩

theorem wit_TrainingAndTruing_20 : ∃ (s : State) (v : Word), Reached s ∧ s.gf Reg.FW_TRUE_CFG
    Fld.FW_TRUE_CFG_PERIOD_MS = max 256 (v.toNat % 65536) ∧ (s.bit Reg.FW_TRUE_CFG Fld.FW_TRUE_CFG_ENABLE = true ∨
    v.getLsbD 31 = false) :=
  ⟨dueBench 0, 0x80050003, by decide +kernel⟩

theorem wit_TrainingAndTruing_21 : ∃ (s : State) (height : BitVec 8) (x : BitVec 12) (ok : Bool) (info : Option
    RepairInfo) (l : List TrainRun), s.chain.taken.any isTrain = false :=
  ⟨bench, 16, 350, true, none, [], by decide +kernel⟩

theorem wit_TrainingAndTruing_22 : ∃ (s : State) (height : BitVec 8) (x : BitVec 12) (ok : Bool) (info : Option
    RepairInfo) (l : List TrainRun), s.fwRuns .upkeep = true ∧ s.count = 0 :=
  ⟨(wordBench true (chainWord 6 true 0 0x20000)).sf Reg.D2D_RING_STATUS Fld.D2D_RING_STATUS_COUNT 0, 16, 350, true,
      none, [benchTrain], by decide +kernel⟩

theorem wit_TrainingAndTruing_23 : ∃ (s : State) (height : BitVec 8) (x : BitVec 12) (ok : Bool) (info : Option
    RepairInfo) (l : List TrainRun), s.fwRuns .upkeep = true ∧ Ordered s ∧ s.pkg.goAt ≠ none ∧ (s.phase = 9 ∨
    s.age.trained = true) ∧ s.straps.chainHead = false :=
  ⟨(((trainBench bench).modChain (fun y => { y with taken := [(true, chainWord 6 true 0 0x20000)] })).modAge fun a =>
      { a with trained := true }), 16, 350, true, none, [], by decide +kernel⟩

theorem wit_TrainingAndTruing_24 : ∃ (s : State) (height : BitVec 8) (x : BitVec 12) (l : List TrainRun), s.fwRuns
    .upkeep = true ∧ Ordered s ∧ s.pkg.goAt ≠ none ∧ s.phase ≠ 9 ∧ s.age.trained = false ∧ s.pwr.warm = false ∧ s.bit
    Reg.FW_BOOT_CTRL Fld.FW_BOOT_CTRL_LEDGER = false ∧ s.age.repair = none ∧ (height = 12 ∨ height = 16) ∧ WarmStack s
    x ∧ s.age.guards = Vector.replicate 64 0 :=
  ⟨(trainBench bench).modChain (fun y => { y with taken := [(true, chainWord 6 true 0 0x20000)] }), 12, 350,
      [benchTrain], by decide +kernel⟩

theorem wit_TrainingAndTruing_25 : ∃ (s : State) (height : BitVec 8) (x : BitVec 12) (l : List TrainRun), s.fwRuns
    .upkeep = true ∧ Ordered s ∧ s.pkg.goAt ≠ none ∧ s.phase ≠ 9 ∧ s.age.trained = false ∧ s.pwr.warm = false ∧ s.bit
    Reg.FW_BOOT_CTRL Fld.FW_BOOT_CTRL_LEDGER = false ∧ s.age.repair = none ∧ s.age.waiting = false ∧ (height = 12 ∨
    height = 16) ∧ s.snsBroken 32 = false ∧ s.zoneUsed 0 = true ∧ x.toInt < s.lowTrain ∧ -160 ≤ x.toInt ∧ x.toInt ≤
    600 :=
  ⟨(trainBench bench).modChain (fun y => { y with taken := [(true, chainWord 6 true 0 0x20000)] }), 12, -40,
      [benchTrain], by decide +kernel⟩

theorem wit_TrainingAndTruing_26 : ∃ (s : State) (l : List TrainRun), s.fwRuns .upkeep = true ∧ s.age.waiting = true ∧
    s.trainWarm = true ∧ s.shutdown = false ∧ s.age.repair = none :=
  ⟨{ trainBench bench with age := { bench.age with waiting := true } }, [benchTrain], by decide +kernel⟩

theorem wit_TrainingAndTruing_27 : ∃ (s : State) (p : Fin 64) (i : Fin 60) (v : Word), s.live (.pc p) = true ∧
    DelaysOpen s p :=
  ⟨later 1299 (truingBench openWindow), 0, 40, 0xFFFFFFFF, by decide +kernel⟩

theorem wit_TrainingAndTruing_28 : ∃ (s : State) (p : Fin 64) (i : Fin 60) (v : Word), s.live (.pc p) = true ∧
    s.pcs[p].granted = true ∧ s.bit (Reg.PC_SCHED_STATUS p) Fld.PC_SCHED_STATUS_TRUING = false :=
  ⟨bench.modPc 3 (fun c => { c with granted := true }), 3, 40, 0xFFFFFFFF, by decide +kernel⟩

theorem wit_TrainingAndTruing_29 : ∃ (s : State) (p : Fin 64) (k : Nat) (n0 : Nat) (n1 : Nat), s.fwRuns .upkeep = true
    ∧ s.phase = 8 ∧ s.bit Reg.FW_TRUE_CFG Fld.FW_TRUE_CFG_ENABLE = true ∧ s.pcs[p].truingNext = none ∧ s.skipReason p
    = some k ∧ n0 = s.gf Reg.FW_TRUE_CFG Fld.FW_TRUE_CFG_PERIOD_MS * 1000000 ∧ n1 = s.age.windows[p] * n0 + p.val * n0
    / 64 + s.self * n0 / 1024 ∧ s.clk.pkg + 100000 ≤ n1 ∧ n1 ≤ s.clk.pkg + 1000000 :=
  ⟨(dueBench 3000000).raise Reg.THERM_STATUS Fld.THERM_STATUS_SHUTDOWN, 1, 1, 256000000, 4000000, by decide +kernel⟩

theorem wit_TrainingAndTruing_30 : ∃ (s : State) (p : Fin 64) (n0 : Nat) (n1 : Nat), n0 = s.gf Reg.FW_TRUE_CFG
    Fld.FW_TRUE_CFG_PERIOD_MS * 1000000 ∧ n1 = s.age.windows[p] * n0 + p.val * n0 / 64 + s.self * n0 / 1024 ∧
    s.clk.pkg + 1000000 < n1 :=
  ⟨dueBench 0, 1, 256000000, 4000000, by decide +kernel⟩

theorem wit_TrainingAndTruing_31 : ∃ (s : State) (p : Fin 64) (k : Nat), s.fwRuns .upkeep = true ∧ s.phase = 8 ∧ s.bit
    Reg.FW_TRUE_CFG Fld.FW_TRUE_CFG_ENABLE = true ∧ s.bit Reg.FW_TRUE_CFG Fld.FW_TRUE_CFG_EXPEDITE = true ∧
    (s.pcs[p].laneSuspect ≠ [] ∨ s.age.expedite.contains p.val = true) ∧ s.pcs[p].expediteArmed = false ∧
    s.pcs[p].truingNext = none ∧ s.skipReason p = some k :=
  ⟨((dueBench 3000000).raise Reg.THERM_STATUS Fld.THERM_STATUS_SHUTDOWN).modPc 1 (fun y =>
      { y with laneSuspect := [4] }), 1, 1, by decide +kernel⟩

theorem wit_TrainingAndTruing_32 : ∃ (s : State) (p : Fin 64), s.fwRuns .upkeep = true ∧ s.phase = 8 ∧ s.bit
    Reg.FW_TRUE_CFG Fld.FW_TRUE_CFG_ENABLE = true ∧ s.bit Reg.FW_TRUE_CFG Fld.FW_TRUE_CFG_EXPEDITE = false ∧
    (s.pcs[p].laneSuspect ≠ [] ∨ s.age.expedite.contains p.val = true) ∧ s.pcs[p].expediteArmed = false ∧
    s.pcs[p].truingNext = none :=
  ⟨((dueBench 3000000).wr Reg.FW_TRUE_CFG 0x80400100).modPc 1 (fun y => { y with laneSuspect := [4] }), 1,
      by decide +kernel⟩

theorem wit_TrainingAndTruing_33 : ∃ (s : State) (p : Fin 64), s.pcs[p].laneSuspect = [] ∧ s.age.expedite.contains
    p.val = false :=
  ⟨dueBench 0, 1, by decide +kernel⟩

theorem wit_TrainingAndTruing_34 : ∃ (s : State) (p : Fin 64), (s.pcs[p].expediteArmed = true ∨ s.pcs[p].truingNext ≠
    none) :=
  ⟨(dueBench 5000000).modPc 1 (fun y => { y with laneSuspect := [4], truingNext := some openWindow }), 1,
      by decide +kernel⟩

theorem wit_TrainingAndTruing_35 : ∃ (s : State) (p : Fin 64) (w : Truing) (n0 : Nat) (n1 : Nat), s.fwRuns .upkeep =
    true ∧ s.phase = 8 ∧ s.bit Reg.FW_TRUE_CFG Fld.FW_TRUE_CFG_ENABLE = true ∧ s.pcs[p].truing = some w ∧
    s.pcs[p].truingNext = none ∧ s.skipReason p = none ∧ n0 = s.gf Reg.FW_TRUE_CFG Fld.FW_TRUE_CFG_PERIOD_MS * 1000000
    ∧ n1 = s.age.windows[p] * n0 + p.val * n0 / 64 + s.self * n0 / 1024 ∧ s.clk.pkg + 100000 ≤ n1 ∧ n1 ≤ s.clk.pkg +
    1000000 :=
  ⟨(dueBench 3000000).modPc 1 (fun y => { y with truing := some openWindow }), 1, openWindow, 256000000, 4000000,
      by decide +kernel⟩

theorem wit_TrainingAndTruing_36 : ∃ (s : State) (p : Fin 64) (w : Truing), s.live (.pc p) = true ∧ s.pcs[p].truing =
    some w ∧ w.opened = false ∧ w.at_ ≤ s.now (.pc p) ∧ s.shutdown = true :=
  ⟨(truingBench { openWindow with opened := false }).raise Reg.THERM_STATUS Fld.THERM_STATUS_SHUTDOWN, 0,
      { openWindow with opened := false }, by decide +kernel⟩

theorem wit_TrainingAndTruing_37 : ∃ (s : State) (p : Fin 64), s.pcs[p].truing.all (fun w => w.opened || decide (s.now
    (.pc p) < w.at_)) = true :=
  ⟨bench, 1, by decide +kernel⟩

theorem wit_TrainingAndTruing_38 : ∃ (s : State) (p : Fin 64) (r : Probes), s.pcs[p].truing.all (fun w => !w.opened ||
    w.posted || decide (s.now (.pc p) < w.at_ + 1000)) = true :=
  ⟨truingBench openWindow, 0, benchProbes 0 noProbe, by decide +kernel⟩

theorem wit_TrainingAndTruing_39 : ∃ (s : State) (p : Fin 64) (w : Truing) (r : Probes) (lane : Option (Fin 38)),
    s.fwRuns .upkeep = true ∧ s.pcs[p].truing = some w ∧ w.probes = some r ∧ w.opened = true ∧ w.done = false ∧
    w.timedOut = false ∧ s.now (.pc p) < w.at_ + 1300 :=
  ⟨probeBench (benchProbes 1 noProbe), 0, probed (benchProbes 1 noProbe), benchProbes 1 noProbe, some 7,
      by decide +kernel⟩

theorem wit_TrainingAndTruing_40 : ∃ (s : State) (p : Fin 64) (w : Truing) (r : Probes) (g : Nat), s.fwRuns .upkeep =
    true ∧ s.pcs[p].truing = some w ∧ w.probes = some r ∧ w.opened = true ∧ w.done = false ∧ w.timedOut = false ∧
    s.now (.pc p) < w.at_ + 1300 ∧ s.age.guards[p] + g = s.guardInForce ∧ 0 < g ∧ s.age.swap = [] ∧ r.reference = 0 ∧
    OnlyRx r 0 0 ∧ s.margins = { usual := [], edges := [] } :=
  ⟨(probeBench (benchProbes 0 noProbe)).sf Reg.FW_AGEING_STATUS Fld.FW_AGEING_STATUS_GUARD 2, 0, probed (benchProbes 0
      noProbe), benchProbes 0 noProbe, 2, by decide +kernel⟩

theorem wit_TrainingAndTruing_41 : ∃ (s : State) (p : Fin 64) (lane : Option (Fin 38)), s.pcs[p].truing.all (fun w =>
    w.probes.isNone || !w.opened || w.done || w.timedOut || decide (w.at_ + 1300 ≤ s.now (.pc p))) = true :=
  ⟨truingBench openWindow, 0, none, by decide +kernel⟩

theorem wit_TrainingAndTruing_42 : ∃ (s : State) (p : Fin 64), s.pcs[p].truing.all (fun w => !w.opened || decide
    (s.now (.pc p) < w.at_ + 1600)) = true :=
  ⟨later 1599 (truingBench openWindow), 0, by decide +kernel⟩

theorem wit_TrainingAndTruing_43 : ∃ (s : State) (p : Fin 64), s.now (.pc p) / 1000000000 ≤ s.pcs[p].ceWindow :=
  ⟨bench, 2, by decide +kernel⟩

theorem wit_TrainingAndTruing_44 : ∃ (s : State) (v : Word), Reached s :=
  ⟨dueBench 0, 0x80050203, by decide +kernel⟩

theorem wit_DisarmAgainstShift_1 : ∃ (s : State) (p : Fin 64) (v : Word), s.mgtReady = true ∧ s.live (.pc p) = true ∧
    s.bit (Reg.SLOT_STATUS p) Fld.SLOT_STATUS_ARMED = true :=
  ⟨bench.raise (Reg.SLOT_STATUS 4) Fld.SLOT_STATUS_ARMED, 4, 200, by decide +kernel⟩

theorem wit_DisarmAgainstShift_2 : ∃ (s : State) (p : Fin 64) (v : Word), s.mgtReady = true ∧ s.live (.pc p) = true ∧
    s.bit (Reg.SLOT_STATUS p) Fld.SLOT_STATUS_ARMED = true ∧ s.rd64 (Reg.SLOT_SHIFT_TIME p) ≤ s.now (.pc p) :=
  ⟨(bench.raise (Reg.SLOT_STATUS 4) Fld.SLOT_STATUS_ARMED).wr (Reg.SLOT_SHADOW 4 31) 5, 4, 200, by decide +kernel⟩

theorem wit_DisarmAgainstShift_3 : ∃ (s : State) (p : Fin 64) (v : Word), s.bit (Reg.SLOT_STATUS p)
    Fld.SLOT_STATUS_ARMED = false :=
  ⟨bench, 4, 200, by decide +kernel⟩

theorem wit_LateTruingResult_1 : ∃ (s : State) (p : Fin 64) (w : Truing), s.live (.pc p) = true ∧ s.pcs[p].truing =
    some w ∧ w.opened = false ∧ w.at_ ≤ s.now (.pc p) ∧ s.shutdown = false :=
  ⟨truingBench { openWindow with opened := false }, 0, { openWindow with opened := false }, by decide +kernel⟩

theorem wit_LateTruingResult_2 : ∃ (s : State) (u : State) (p : Fin 64) (w : Truing), s.live (.pc p) = true ∧
    s.pcs[p].truing = some w ∧ w.saved = u.delays p ∧ w.opened = true ∧ w.done = false ∧ w.timedOut = false ∧ w.at_ +
    1300 ≤ s.now (.pc p) :=
  ⟨(truingBench { openWindow with saved := bench.delays 0 }).wr (dlyReg 0 5) 77 |> later 1300, bench, 0,
      { openWindow with saved := bench.delays 0 }, by decide +kernel⟩

theorem wit_LateTruingResult_3 : ∃ (s : State) (p : Fin 64) (w : Truing), s.live (.pc p) = true ∧ s.pcs[p].truing =
    some w ∧ w.done = true :=
  ⟨later 1300 (truingBench { openWindow with done := true }), 0, { openWindow with done := true }, by decide +kernel⟩

theorem wit_LateTruingResult_4 : ∃ (s : State) (p : Fin 64) (w : Truing) (i : Fin 60) (v : Word), s.live (.pc p) =
    true ∧ s.pcs[p].truing = some w ∧ w.opened = true ∧ w.at_ + 1300 ≤ s.now (.pc p) :=
  ⟨later 1300 (truingBench openWindow), 0, openWindow, 5, 77, by decide +kernel⟩

end Sys2Proof.Tests
end

section
/-! SUPPORT. Registers that an operation leaves as they were, and where the register map lists an offset. -/

namespace Sys2Proof.Machine

/-! ### Registers that an operation leaves as they were -/

theorem KeepsRegs.refl (s : State) (rs : List Nat) : KeepsRegs s s rs := fun _ _ => rfl

theorem KeepsRegs.trans {s t u : State} {rs : List Nat} (h : KeepsRegs s t rs) (h' : KeepsRegs t u rs) :
    KeepsRegs s u rs := fun o ho => (h' o ho).trans (h o ho)

theorem KeepsRegs.mono {s t : State} {rs rs' : List Nat} (h : KeepsRegs s t rs) (hs : rs ⊆ rs') : KeepsRegs s t rs' :=
  fun o ho => h o fun m => ho (hs m)

/-- An update of anything but the register table keeps what the registers keep. -/
theorem KeepsRegs.of_regs {s t u : State} {rs : List Nat} (h : KeepsRegs s t rs) (e : u.regs = t.regs) :
    KeepsRegs s u rs := fun o ho => (State.rd_congr e o).trans (h o ho)

theorem KeepsRegs.wr {s t : State} {rs : List Nat} (h : KeepsRegs s t rs) {o : Nat} (m : o ∈ rs) (v : Word) :
    KeepsRegs s (t.wr o v) rs := fun a ha => by
  rw [State.rd_wr_ne _ _ _ (by rintro rfl; exact ha m), h a ha]

theorem KeepsRegs.wr64 {s t : State} {rs : List Nat} (h : KeepsRegs s t rs) {o : Nat} (m : o ∈ rs) (m' : o + 4 ∈ rs)
    (v : Nat) : KeepsRegs s (t.wr64 o v) rs := (h.wr m _).wr m' _

theorem KeepsRegs.sf {s t : State} {rs : List Nat} (h : KeepsRegs s t rs) {o : Nat} (m : o ∈ rs) (f : Fld) (v : Nat) :
    KeepsRegs s (t.sf o f v) rs := h.wr m _

theorem KeepsRegs.raise {s t : State} {rs : List Nat} (h : KeepsRegs s t rs) {o : Nat} (m : o ∈ rs) (f : Fld) :
    KeepsRegs s (t.raise o f) rs := h.sf m _ _

/-! ### Where the register map lists an offset -/

theorem regFind_eq_some {off : Nat} {rs : List RegRow} {r : RegRow} {i j : Nat} {h : Bool}
    (e : regFind off rs = some (r, i, j, h)) : r ∈ rs ∧ r.locate off = some (i, j, h) := by
  induction rs with
  | nil => simp [regFind] at e
  | cons q rs ih =>
    unfold regFind at e
    split at e
    · next hq =>
      obtain ⟨rfl, rfl, rfl, rfl⟩ := by simpa using e
      exact ⟨by simp, hq⟩
    · exact ⟨List.mem_cons_of_mem _ (ih e).1, (ih e).2⟩

theorem regRegion_subset (off : Nat) : regRegion off ⊆ regTable := by
  unfold regRegion regTable
  intro r hr
  simp only [List.mem_append]
  repeat' split at hr
  all_goals simp [hr]

/-- The high word of a register stands 4 above the low word of a wide one (R524). -/
theorem RegRow.locate_high {r : RegRow} {off i j : Nat} (e : r.locate off = some (i, j, true)) :
    r.wide = true ∧ 4 ≤ off := by
  unfold RegRow.locate at e
  split at e
  · simp at e
  · dsimp only at e
    split at e <;> [skip; simp at e]
    split at e
    · simp at e
    · split at e
      · next hq =>
        refine ⟨hq.2, ?_⟩
        have := Nat.mod_le ((off - r.base) % r.s1) r.s2
        have := Nat.mod_le (off - r.base) r.s1
        omega
      · simp at e

theorem mapped_mem {off : Nat} {r : RegRow} {i j : Nat} {h : Bool} (e : mapped off = some (r, i, j, h)) :
    r ∈ regTable ∧ r.locate off = some (i, j, h) := by
  unfold mapped at e
  split at e
  · exact ⟨regRegion_subset off (regFind_eq_some e).1, (regFind_eq_some e).2⟩
  · simp at e

/-- The rings of the queues are emulated registers (R287, R319). -/
theorem queueRing_emulated : ∀ r ∈ regTable, r.base = Reg.FW_QRING 0 ∨ r.base = Reg.FW_QREPLY 0 → r.emu = true := by
  decide +kernel

theorem wideWord_of_mapped {off : Nat} {r : RegRow} {i j : Nat} {h : Bool} (e : mapped off = some (r, i, j, h))
    (high : Bool) : wideWord off high = (r.wide && (h == high)) := by
  simp [wideWord, e]

theorem emulatedReg_of_mapped {off : Nat} {r : RegRow} {i j : Nat} {h : Bool} (e : mapped off = some (r, i, j, h)) :
    emulatedReg off = r.emu := by
  simp [emulatedReg, e]

end Sys2Proof.Machine
end

section
/-! SUPPORT. The management port: what each access does, by what the map lists at its offset. -/

namespace Sys2Proof.Machine

/-! ### The management port (R56, R57, R523) -/

theorem mgtReady_of_live {s : State} (hl : s.live .sensor = true) (hw : s.mgt.waiting = none) : s.mgtReady = true := by
  simp_all [State.mgtReady, State.live]

section port

variable {s : State} {off i j : Nat} {v events : Word} {r : RegRow} {high : Bool}

theorem portWrite_unmapped (hr : s.mgtReady = true) (hm : mapped off = none) :
    s.portWrite off v events = s.mgtDone true 0 := by
  simp [State.portWrite, hr, hm]

theorem portWrite_emulated (hr : s.mgtReady = true) (hm : mapped off = some (r, i, j, high)) (he : r.emu = true) :
    s.portWrite off v events = s.emulated r off i j high true v := by
  simp [State.portWrite, hr, hm, he]

theorem portRead_emulated (hr : s.mgtReady = true) (hm : mapped off = some (r, i, j, high)) (he : r.emu = true) :
    s.portRead off = s.emulated r off i j high false 0 := by
  simp [State.portRead, hr, hm, he]

theorem portWrite_dead (hr : s.mgtReady = true) (hm : mapped off = some (r, i, j, high)) (he : r.emu = false)
    (hl : s.live (r.home.island i) = false) : s.portWrite off v events = s.mgtDone true 0 := by
  simp [State.portWrite, hr, hm, he, hl]

theorem portWrite_plain (hr : s.mgtReady = true) (hm : mapped off = some (r, i, j, false)) (he : r.emu = false)
    (hw : r.wide = false) (hl : s.live (r.home.island i) = true) :
    s.portWrite off v events = (s.writeHw r off i j v events).mgtDone false 0 := by
  simp [State.portWrite, hr, hm, he, hw, hl]

theorem portWrite_low (hr : s.mgtReady = true) (hm : mapped off = some (r, i, j, false)) (he : r.emu = false)
    (hw : r.wide = true) (hl : s.live (r.home.island i) = true) :
    s.portWrite off v events = (s.holdLow off v).mgtDone false 0 := by
  simp [State.portWrite, hr, hm, he, hw, hl]

theorem portWrite_high (hr : s.mgtReady = true) (hm : mapped off = some (r, i, j, true)) (he : r.emu = false)
    (hl : s.live (r.home.island i) = true) :
    s.portWrite off v events = (s.commitHigh r (off - 4) i v).mgtDone false 0 := by
  simp [State.portWrite, hr, hm, he, hl]

theorem portRead_hardware (hr : s.mgtReady = true) (hm : mapped off = some (r, i, j, high)) (he : r.emu = false)
    (hl : s.live (r.home.island i) = true) :
    s.portRead off = (s.readReg r off i j high).1.mgtDone false (s.readReg r off i j high).2 := by
  simp [State.portRead, hr, hm, he, hl]

theorem readReg_high : s.readReg r off i j true = (s, cget regReset s.mgt.latch off) := by
  simp [State.readReg]

theorem readReg_wide (hw : r.wide = true) : s.readReg r off i j false =
    ({ s with mgt := { s.mgt with
        latch := cset regReset s.mgt.latch (off + 4) (BitVec.ofNat 32 (s.read64 r off i j / 2 ^ 32)) } },
      BitVec.ofNat 32 (s.read64 r off i j)) := by
  simp [State.readReg, hw]

/-- Any other word but the first one of a partner entry and of a histogram, whose reads latch the rest (R339, R368). -/
theorem readReg_plain (hw : r.wide = false) (h1 : off ≠ Reg.RMT_PT_DATA 0) (h2 : off ≠ Reg.RMT_HIST_DATA 0) :
    s.readReg r off i j false = (s, BitVec.ofNat 32 (s.read32 r off i j)) := by
  simp [State.readReg, hw, h1, h2]

theorem emulated_serving (hf : s.fwRuns .liaison = true) (write : Bool) :
    s.emulated r off i j high write v = s.emuAnswer r off i j high write v := by
  have hl : s.live .firmware = true := by simp_all [State.fwRuns]
  simp [State.emulated, hf, hl]

end port

/-! ### The rows of the port, by what the map lists at their offset -/

section rows

variable {s : State} {off : BitVec 24} {i j : Nat} {v events : Word} {r : RegRow} {high : Bool}

theorem exec_registerWrite_unmapped (hm : mapped off.toNat = none) :
    exec (.registerWrite off v events) s = .next (s.portWrite off.toNat v events) := by
  simp [exec, execRegisterWrite, State.when, wideWord, emulatedReg, hm]

theorem exec_registerWrite_plain (hm : mapped off.toNat = some (r, i, j, high)) (hw : r.wide = false)
    (he : r.emu = false) : exec (.registerWrite off v events) s = .next (s.portWrite off.toNat v events) := by
  simp [exec, execRegisterWrite, State.when, wideWord_of_mapped hm, emulatedReg_of_mapped hm, hw, he]

theorem exec_lowWordRead : exec (.lowWordRead off) s = .next (s.portRead off.toNat) := rfl

theorem exec_lowWordWrite_wide (hm : mapped off.toNat = some (r, i, j, false)) (hw : r.wide = true) :
    exec (.lowWordWrite off v) s = .next (s.portWrite off.toNat v 0) := by
  simp [exec, execLowWordWrite, State.when, wideWord_of_mapped hm, hw]

theorem exec_highWordWrite_wide (hm : mapped off.toNat = some (r, i, j, true)) :
    exec (.highWordWrite off v) s = .next (s.portWrite off.toNat v 0) := by
  have hw : r.wide = true := (RegRow.locate_high (mapped_mem hm).2).1
  simp [exec, execHighWordWrite, State.when, wideWord_of_mapped hm, hw]

theorem exec_emulatedAccess_idle (hl : s.live .sensor = true) (hw : s.mgt.waiting = none)
    (hm : mapped off.toNat = some (r, i, j, high)) (he : r.emu = true) (write : Bool) :
    exec (.emulatedAccess write off v) s = .next (s.emulated r off.toNat i j high write (if write then v else 0)) := by
  have hr := mgtReady_of_live hl hw
  cases write <;>
    simp [exec, execEmulatedAccess, emulatedAccess, hl, hw, State.when, emulatedReg_of_mapped hm, he,
      portWrite_emulated hr hm he, portRead_emulated hr hm he]

end rows

end Sys2Proof.Machine
end

section
/-! SUPPORT. Bits of fields and of written words. -/

namespace Sys2Proof.Machine

/-! ### Bits of fields and of written words (R14, R15, R17, R18) -/

theorem testBit_natBits (x lo w k : Nat) : (natBits x lo w).testBit k = (decide (k < w) && x.testBit (lo + k)) := by
  simp [natBits, Nat.testBit_mod_two_pow, Nat.testBit_div_two_pow, Nat.add_comm]

/-- Two numbers whose bits agree over a field have the same field. -/
theorem natBits_congr {x y lo lo' w : Nat} (h : ∀ k, k < w → x.testBit (lo + k) = y.testBit (lo' + k)) :
    natBits x lo w = natBits y lo' w := by
  refine Nat.eq_of_testBit_eq fun k => ?_
  rw [testBit_natBits, testBit_natBits]
  by_cases hk : k < w
  · rw [h k hk]
  · simp [hk]

/-- A field within a word is the same in the number that the word was made of. -/
theorem natBits_mod (x : Nat) {lo w n : Nat} (h : lo + w ≤ n) : natBits (x % 2 ^ n) lo w = natBits x lo w :=
  natBits_congr fun k hk => by
    rw [Nat.testBit_mod_two_pow, decide_eq_true (by omega : lo + k < n), Bool.true_and]

theorem natBits_one (x lo : Nat) : decide (natBits x lo 1 = 1) = x.testBit lo := by
  simp [natBits, Nat.testBit_eq_decide_div_mod_eq]

/-- A one-bit field is a bit of its register. -/
theorem State.bit_eq_testBit (s : State) (o : Nat) {f : Fld} (hw : f.width = 1) :
    s.bit o f = (s.rd o).toNat.testBit f.lo := by
  rw [State.bit, State.gf, hw]
  exact natBits_one _ _

/-- A field of a register just written. -/
theorem State.gf_wr_ofNat (s : State) (o x : Nat) {f : Fld} (h : f.lo + f.width ≤ 32) :
    (s.wr o (BitVec.ofNat 32 x)).gf o f = natBits x f.lo f.width := by
  rw [State.gf, State.rd_wr_self, BitVec.toNat_ofNat, natBits_mod x h]

theorem clearBits_le (x m : Nat) : clearBits x m ≤ x := Nat.sub_le _ _

theorem testBit_clearBits (x m k : Nat) : (clearBits x m).testBit k = (x.testBit k && !m.testBit k) := by
  induction k generalizing x m with
  | zero =>
    have hle : x &&& m ≤ x := Nat.and_le_left
    have parity : (x &&& m) % 2 = 1 ↔ x % 2 = 1 ∧ m % 2 = 1 := Nat.and_mod_two_eq_one
    rw [Bool.eq_iff_iff]
    simp only [Nat.testBit_zero, clearBits, Bool.and_eq_true, Bool.not_eq_true', decide_eq_true_eq,
      decide_eq_false_iff_not]
    omega
  | succ k ih =>
    have half : clearBits x m / 2 = clearBits (x / 2) (m / 2) := by
      have hle : x &&& m ≤ x := Nat.and_le_left
      have hd : (x &&& m) / 2 = x / 2 &&& m / 2 := Nat.and_div_two ..
      have parity : (x &&& m) % 2 = 1 ↔ x % 2 = 1 ∧ m % 2 = 1 := Nat.and_mod_two_eq_one
      unfold clearBits
      omega
    rw [Nat.testBit_succ, half, ih, Nat.testBit_succ, Nat.testBit_succ]

/-- Bit by bit, what a write leaves: the value where it is RW; where it is W1C the event, or the old bit unless 1 was
written; else the old bit (R15, R17, R18). -/
theorem testBit_writtenWord (r : RegRow) (old v events : Nat) {k : Nat} (hk : k < 32) :
    (writtenWord r false old v events).testBit k =
      if r.rw.testBit k then v.testBit k
      else if r.w1c.testBit k then events.testBit k || (old.testBit k && !v.testBit k) else old.testBit k := by
  simp only [writtenWord, Bool.false_eq_true, if_false, Nat.testBit_or, Nat.testBit_and, testBit_clearBits,
    Nat.testBit_mod_two_pow, hk, decide_true, Bool.true_and]
  cases r.rw.testBit k <;> cases r.w1c.testBit k <;> cases v.testBit k <;> cases events.testBit k <;>
    cases old.testBit k <;> rfl

/-- A field all of whose bits are RW takes the value written. -/
theorem natBits_writtenWord (r : RegRow) (old v events : Nat) {lo w : Nat} (h : lo + w ≤ 32)
    (hrw : ∀ k, k < w → r.rw.testBit (lo + k) = true) :
    natBits (writtenWord r false old v events) lo w = natBits v lo w :=
  natBits_congr fun k hk => by
    rw [testBit_writtenWord r old v events (by omega), hrw k hk, if_pos rfl]

end Sys2Proof.Machine
end

section
/-! SUPPORT. Hardware registers that store the written word, completed accesses, and commits of 64-bit registers. -/

namespace Sys2Proof.Machine

/-! ### Hardware registers whose write stores the written word (R17, R18) -/

/-- The registers with a row of their own among the hardware registers, by the base of their row. -/
def ownBases : List Nat :=
  [Reg.PC_TIM_ROW 0, Reg.PC_TIM_COL 0, Reg.PC_TIM_TURN 0, Reg.PC_TIM_REF 0, Reg.PC_ROWPOL 0, Reg.PC_DRAIN 0,
    Reg.SLOT_CTRL 0, Reg.SLOT_SHADOW 0 0, Reg.RMT_GATE_CTRL 0, Reg.RMT_GATE_SHADOW 0 0, Reg.RMT_INJ 0,
    Reg.RMT_SHAPER_SLOPE 0 0, Reg.RMT_SHAPER_LIMIT 0 0, Reg.D2D_INJ 0, Reg.THERM_SNS_CFG 0, Reg.THERM_ADMIT 0,
    Reg.THERM_ZTHR 0 0]

/-- The registers with a row of their own among the hardware registers, by their offset. -/
def ownOffsets : List Nat :=
  [Reg.PC_LACE, Reg.PC_REF_CTRL, Reg.PC_REF_TEMP, Reg.PC_INJ, Reg.PC_FEC_INFO, Reg.CACHE_CTRL, Reg.RMT_PT_DATA 3,
    Reg.RMT_HIST_SEL, Reg.THERM_COMPUTE_W, Reg.THERM_GUARD_CFG, Reg.THERM_LOW, Reg.CNT_CTRL, Reg.CNT_TAG_CFG,
    Reg.FW_CORE_CTRL, Reg.FW_HEARTBEAT, Reg.FW_HOST_TIMEOUT, Reg.FW_WDOG_CFG, Reg.FW_LOAD_CTRL, Reg.FW_LOAD_DATA]

/-- A register without a row of its own stores the written word, each field at its nearer limit. -/
theorem writeHw_stores {s : State} {r : RegRow} {off : Nat} (i j : Nat) (v events : Word) (hb : r.base ∉ ownBases)
    (ho : off ∉ ownOffsets) : s.writeHw r off i j v events =
      s.wr off (BitVec.ofNat 32 (limited off (writtenWord r false (s.rd off).toNat v.toNat events.toNat))) := by
  simp only [ownBases, ownOffsets, List.mem_cons, List.not_mem_nil, or_false, not_or] at hb ho
  simp [State.writeHw, hb, ho]

/-- A register with limits is the first of its row, and has no row of its own. -/
theorem limitTable_base : ∀ o ∈ limitTable.map (·.1), ∀ x ∈ mapped o,
    x.1.base = o ∧ x.1.wide = false ∧ o ∉ ownBases ∧ o ∉ ownOffsets := by
  decide +kernel

/-- The row of PC_SCHED_STATUS, which has no writable bit and two W1C bits. -/
def schedStatusRow : RegRow := ⟨Reg.PC_SCHED_STATUS 0, 64, 0x1000, 1, 4096, false, false, .pc, 0, 0, 0xc0000000⟩

theorem mapped_schedStatus : ∀ p : Fin 64, mapped (Reg.PC_SCHED_STATUS p) = some (schedStatusRow, p.val, 0, false) ∧
    Reg.PC_SCHED_STATUS p ∉ ownOffsets ∧ Reg.PC_SCHED_STATUS p ∉ limitTable.map (·.1) := by
  decide +kernel

/-- The row of SLOT_SHIFT_TIME, of which every bit is RW. -/
def slotShiftTimeRow : RegRow :=
  ⟨Reg.SLOT_SHIFT_TIME 0, 64, 0x1000, 1, 4096, true, false, .pc, 0, 0xffffffffffffffff, 0⟩

theorem mapped_slotShiftTime : ∀ p : Fin 64,
    mapped (Reg.SLOT_SHIFT_TIME p) = some (slotShiftTimeRow, p.val, 0, false) ∧
      mapped (Reg.SLOT_SHIFT_TIME p + 4) = some (slotShiftTimeRow, p.val, 0, true) := by
  decide +kernel

/-- The row of D2D_TIME, which nothing can write. -/
def d2dTimeRow : RegRow := ⟨Reg.D2D_TIME, 1, 8, 1, 8, true, false, .sensor, 0, 0, 0⟩

theorem mapped_d2dTime : mapped Reg.D2D_TIME = some (d2dTimeRow, 0, 0, false) ∧
    mapped (Reg.D2D_TIME + 4) = some (d2dTimeRow, 0, 0, true) := by
  decide +kernel

/-- The row of BME_TDT_SIZE. -/
def tdtSizeRow : RegRow := ⟨Reg.BME_TDT_SIZE, 1, 8, 1, 8, false, false, .sensor, 0, 0x1fff, 0⟩

theorem mapped_tdtSize : mapped Reg.BME_TDT_SIZE = some (tdtSizeRow, 0, 0, false) := by decide +kernel

/-- The row of FW_AGEING_CFG. -/
def ageingCfgRow : RegRow := ⟨Reg.FW_AGEING_CFG, 1, 8, 1, 8, false, true, .liaison, 0x10407, 0x1ffff, 0⟩

theorem mapped_ageingCfg : mapped Reg.FW_AGEING_CFG = some (ageingCfgRow, 0, 0, false) := by decide +kernel

theorem limited_unlisted {off : Nat} (h : off ∉ limitTable.map (·.1)) (w : Nat) : limited off w = w := by
  have : (limitTable.find? fun e => e.1 = off) = none := by
    rw [List.find?_eq_none]
    intro e he
    simpa using fun eq : e.1 = off => h (List.mem_map.mpr ⟨e, he, eq⟩)
  simp [limited, this]

/-- An offset of the map fits its 24 bits. -/
theorem toNat_offset {o : Nat} (h : o < 2 ^ 24) : (BitVec.ofNat 24 o).toNat = o := by
  rw [BitVec.toNat_ofNat, Nat.mod_eq_of_lt h]

/-! ### What a completed access leaves -/

section completed

variable {s t : State}

theorem keeps_mgtDone (hk : Keeps s t [.mgt]) (err : Bool) (x : Word) : Keeps s (t.mgtDone err x) [.mgt] :=
  State.mgtDone_keeps _ _ _ hk (List.mem_singleton.mpr rfl)

theorem keepsRegs_mgtDone {rs : List Nat} (hk : KeepsRegs s t rs) (err : Bool) (x : Word) :
    KeepsRegs s (t.mgtDone err x) rs := hk.of_regs rfl

theorem answered_mgtDone (h : t.mgt = s.mgt) (err : Bool) : Answered s (t.mgtDone err 0) err := by
  simp [Answered, State.mgtDone, h]

/-- An access that is answered with an error changes nothing else (R57, R523). -/
theorem refusedAccess (s : State) :
    Answered s (s.mgtDone true 0) true ∧ Keeps s (s.mgtDone true 0) [.mgt] ∧ KeepsRegs s (s.mgtDone true 0) [] :=
  ⟨answered_mgtDone rfl _, keeps_mgtDone (Keeps.refl _ _) _ _, keepsRegs_mgtDone (KeepsRegs.refl _ _) _ _⟩

/-- An access that stores a word is answered without error and changes no other register. -/
theorem storedAccess (s : State) (o : Nat) (v : Word) :
    Answered s ((s.wr o v).mgtDone false 0) false ∧ Keeps s ((s.wr o v).mgtDone false 0) [.mgt] ∧
      KeepsRegs s ((s.wr o v).mgtDone false 0) [o] :=
  ⟨answered_mgtDone (by simp) _, keeps_mgtDone (State.wr_keeps _ _ _ (Keeps.refl _ _)) _ _,
    keepsRegs_mgtDone ((KeepsRegs.refl _ _).wr (List.mem_singleton.mpr rfl) _) _ _⟩

/-- An access that changes the management port alone changes nothing else. -/
theorem portOnly (s : State) (m : MgtPort) : Keeps s { s with mgt := m } [.mgt] ∧ KeepsRegs s { s with mgt := m } [] :=
  ⟨(Keeps.refl s _).set_mgt (List.mem_singleton.mpr rfl) _, (KeepsRegs.refl _ _).of_regs rfl⟩

end completed

/-! ### Both words of a 64-bit register (R524) -/

theorem State.rd64_lt (s : State) (o : Nat) : s.rd64 o < 2 ^ 64 := by
  have := (s.rd o).isLt
  have := (s.rd (o + 4)).isLt
  unfold State.rd64
  omega

theorem State.rd64_wr64 (s : State) (o : Nat) {v : Nat} (h : v < 2 ^ 64) : (s.wr64 o v).rd64 o = v := by
  simp [State.rd64, State.wr64]
  omega

/-- A commit of a register without a rule of its own takes the RW bits of the two words. -/
theorem commit64_stores {s : State} {r : RegRow} {off i : Nat} (lo hi : Word) (h1 : r.base ≠ Reg.SLOT_SHIFT_TIME 0)
    (h2 : r.base ≠ Reg.RMT_GATE_SHIFT_TIME 0) (h3 : r.base ≠ Reg.FW_QRING 0) (h4 : r.base ≠ Reg.FW_QREPLY 0)
    (h5 : off ∉ ringRegs) : s.commit64 r off i lo hi =
      s.wr64 off (clearBits (s.rd64 off) r.rw ||| ((lo.toNat + 2 ^ 32 * hi.toNat) &&& r.rw)) := by
  simp [State.commit64, h1, h2, h3, h4, h5]

/-- A high-word write commits the low word that is held for it. -/
theorem commitHigh_held {s : State} {r : RegRow} {off i : Nat} {lo : Word} {rest : List (Nat × Word)} (hi : Word)
    (hh : s.mgt.hold = (off, lo) :: rest) : s.commitHigh r off i hi =
      (s.commit64 r off i lo hi).modMgt fun m => { m with hold := m.hold.filter fun e => e.1 ≠ off } := by
  simp [State.commitHigh, hh]

end Sys2Proof.Machine
end

section
/-! SUPPORT. The management accesses of O30, clause by clause. -/

namespace Sys2Proof.Machine

/-! ### The clauses of ManagementAccesses -/

/-- A register with limits takes the written word with every field at its nearer limit (R18). -/
theorem gives_limitedWrite {s : State} {off : BitVec 24} {r : RegRow} {i j : Nat} (v events : Word)
    (hr : s.mgtReady = true) (hm : mapped off.toNat = some (r, i, j, false)) (ho : off.toNat ∈ limitTable.map (·.1))
    (he : r.emu = false) (hl : s.live (r.home.island i) = true) :
    Gives (.registerWrite off v events) s fun t =>
      t = (s.wr off.toNat (BitVec.ofNat 32 (limited off.toNat (writtenWord r false (s.rd off.toNat).toNat v.toNat
        events.toNat)))).mgtDone false 0 := by
  obtain ⟨hbase, hw, hb, hoff⟩ := limitTable_base _ ho _ hm
  refine ⟨_, exec_registerWrite_plain hm hw he, ?_⟩
  rw [portWrite_plain hr hm he hw hl, writeHw_stores i j v events (hbase ▸ hb) hoff]

/-- The size of BME_TDT_SIZE is written at most 4,096 (R241). -/
theorem gives_tdtSizeWrite (s : State) (v events : Word) (hr : s.mgtReady = true) (hl : s.live .sensor = true) :
    Gives (.registerWrite (BitVec.ofNat 24 Reg.BME_TDT_SIZE) v events) s fun t =>
      t.gf Reg.BME_TDT_SIZE Fld.BME_TDT_SIZE_ENTRIES = min 4096 (v.toNat % 8192) ∧ Answered s t false ∧
        Keeps s t [.mgt] ∧ KeepsRegs s t [Reg.BME_TDT_SIZE] := by
  have ho : (BitVec.ofNat 24 Reg.BME_TDT_SIZE).toNat = Reg.BME_TDT_SIZE := rfl
  obtain ⟨t, ht, rfl⟩ := gives_limitedWrite (off := BitVec.ofNat 24 Reg.BME_TDT_SIZE) v events hr mapped_tdtSize
    (by decide) rfl hl
  refine ⟨_, ht, ?_, storedAccess s Reg.BME_TDT_SIZE _⟩
  have hf : Fld.BME_TDT_SIZE_ENTRIES.lo + Fld.BME_TDT_SIZE_ENTRIES.width ≤ 32 := by decide
  have key (w : Nat) : limited Reg.BME_TDT_SIZE w = clampFld w 0 13 0 4096 := rfl
  have hv : natBits (writtenWord tdtSizeRow false (s.rd Reg.BME_TDT_SIZE).toNat v.toNat events.toNat) 0 13 =
      v.toNat % 8192 := by
    rw [natBits_writtenWord _ _ _ _ (by decide) (by decide)]
    simp [natBits]
  calc _ = natBits (clampFld _ 0 13 0 4096) 0 13 := by
        rw [ho, key]
        exact State.gf_wr_ofNat s _ _ hf
    _ = min 4096 (v.toNat % 8192) := by
        rw [clampFld, natBits_set_same, hv]
        omega

/-- TIMING_CLAMPED is cleared by a 1 unless a timing is clamped in the same cycle (R18). -/
theorem gives_schedStatusWrite (s : State) (p : Fin 64) (v events : Word) (hr : s.mgtReady = true)
    (hl : s.live (.pc p) = true) :
    Gives (.registerWrite (BitVec.ofNat 24 (Reg.PC_SCHED_STATUS p)) v events) s fun t =>
      t.bit (Reg.PC_SCHED_STATUS p) Fld.PC_SCHED_STATUS_TIMING_CLAMPED = (events.getLsbD 31 ||
        (s.bit (Reg.PC_SCHED_STATUS p) Fld.PC_SCHED_STATUS_TIMING_CLAMPED && !v.getLsbD 31)) ∧
        Answered s t false ∧ Keeps s t [.mgt] ∧ KeepsRegs s t [Reg.PC_SCHED_STATUS p] := by
  obtain ⟨hm, hoff, hlim⟩ := mapped_schedStatus p
  have ho : (BitVec.ofNat 24 (Reg.PC_SCHED_STATUS p)).toNat = Reg.PC_SCHED_STATUS p :=
    toNat_offset (by simp only [Reg.PC_SCHED_STATUS]; omega)
  rw [← ho] at hm
  have hl' : s.live (schedStatusRow.home.island p) = true := by
    simpa [schedStatusRow, Home.island, pcFin] using hl
  refine ⟨_, exec_registerWrite_plain hm rfl rfl, ?_⟩
  rw [portWrite_plain hr hm rfl rfl hl', ho, writeHw_stores _ _ _ _ (by decide) hoff, limited_unlisted hlim]
  refine ⟨?_, storedAccess s _ _⟩
  have hw : Fld.PC_SCHED_STATUS_TIMING_CLAMPED.width = 1 := rfl
  have lo : Fld.PC_SCHED_STATUS_TIMING_CLAMPED.lo = 31 := rfl
  rw [State.bit_eq_testBit _ _ hw, State.bit_eq_testBit s _ hw]
  simp only [State.mgtDone_fields, State.rd_wr_self]
  rw [BitVec.toNat_ofNat, lo, Nat.testBit_mod_two_pow, testBit_writtenWord _ _ _ _ (by decide)]
  have hc : schedStatusRow.rw.testBit 31 = false ∧ schedStatusRow.w1c.testBit 31 = true := by decide
  simp [hc, BitVec.getLsbD]

/-- A read of a low word returns it and latches the high word of the same state (R16). -/
theorem gives_wideRead {s : State} {off : BitVec 24} {r : RegRow} {i j : Nat} (hr : s.mgtReady = true)
    (hm : mapped off.toNat = some (r, i, j, false)) (hw : r.wide = true) (he : r.emu = false)
    (hl : s.live (r.home.island i) = true) :
    Gives (.lowWordRead off) s fun t =>
      t.mgt.rdata = BitVec.ofNat 32 (s.read64 r off.toNat i j) ∧
        cget regReset t.mgt.latch (off.toNat + 4) = BitVec.ofNat 32 (s.read64 r off.toNat i j / 2 ^ 32) ∧
        t.mgt.err = false ∧ t.mgt.doneCount = s.mgt.doneCount + 1 ∧ Keeps s t [.mgt] ∧ KeepsRegs s t [] := by
  refine ⟨_, exec_lowWordRead, ?_⟩
  rw [portRead_hardware hr hm he hl, readReg_wide hw]
  have hp := portOnly s
  refine ⟨rfl, ?_, rfl, rfl, (hp _).1, (hp _).2⟩
  exact cget_cset.trans (if_pos rfl)

/-- A read of the high word returns the latch (R16). -/
theorem gives_highRead {s : State} {off : BitVec 24} {r : RegRow} {i j : Nat} (hr : s.mgtReady = true)
    (hm : mapped off.toNat = some (r, i, j, true)) (he : r.emu = false) (hl : s.live (r.home.island i) = true) :
    Gives (.lowWordRead off) s fun t =>
      t.mgt.rdata = cget regReset s.mgt.latch off.toNat ∧ t.mgt.latch = s.mgt.latch ∧ t.mgt.err = false ∧
        t.mgt.doneCount = s.mgt.doneCount + 1 ∧ Keeps s t [.mgt] ∧ KeepsRegs s t [] := by
  refine ⟨_, exec_lowWordRead, ?_⟩
  rw [portRead_hardware hr hm he hl, readReg_high]
  exact ⟨rfl, rfl, rfl, rfl, (portOnly s _).1, (portOnly s _).2⟩

/-- A read of a 32-bit hardware register returns it and touches no latch (R17). -/
theorem gives_plainRead {s : State} {off : BitVec 24} {r : RegRow} {i j : Nat} (hr : s.mgtReady = true)
    (hm : mapped off.toNat = some (r, i, j, false)) (hw : r.wide = false) (he : r.emu = false)
    (hl : s.live (r.home.island i) = true) (h1 : off.toNat ≠ Reg.RMT_PT_DATA 0) (h2 : off.toNat ≠ Reg.RMT_HIST_DATA 0) :
    Gives (.lowWordRead off) s fun t =>
      t.mgt.rdata = BitVec.ofNat 32 (s.read32 r off.toNat i j) ∧ t.mgt.latch = s.mgt.latch ∧ t.mgt.err = false ∧
        t.mgt.doneCount = s.mgt.doneCount + 1 ∧ Keeps s t [.mgt] ∧ KeepsRegs s t [] := by
  refine ⟨_, exec_lowWordRead, ?_⟩
  rw [portRead_hardware hr hm he hl, readReg_plain hw h1 h2]
  exact ⟨rfl, rfl, rfl, rfl, (portOnly s _).1, (portOnly s _).2⟩

/-- A low word written is held, and what was held of it before is dropped (R524). -/
theorem gives_lowWrite {s : State} {off : BitVec 24} {r : RegRow} {i j : Nat} (v : Word) (hr : s.mgtReady = true)
    (hm : mapped off.toNat = some (r, i, j, false)) (hw : r.wide = true) (he : r.emu = false)
    (hl : s.live (r.home.island i) = true) :
    Gives (.lowWordWrite off v) s fun t =>
      t.mgt.hold = (off.toNat, v) :: s.mgt.hold.filter (fun e => e.1 ≠ off.toNat) ∧ t.mgt.err = false ∧
        t.mgt.doneCount = s.mgt.doneCount + 1 ∧ Keeps s t [.mgt] ∧ KeepsRegs s t [] := by
  refine ⟨_, exec_lowWordWrite_wide hm hw, ?_⟩
  rw [portWrite_low hr hm he hw hl]
  exact ⟨rfl, rfl, rfl, (portOnly s _).1, (portOnly s _).2⟩

/-- The state after both words of a register have been committed and the access is answered (R524). -/
def State.committed (s : State) (off x : Nat) : State :=
  ((s.wr64 off x).modMgt fun m => { m with hold := m.hold.filter fun e => e.1 ≠ off }).mgtDone false 0

theorem rd_committed (s : State) (off x a : Nat) : (s.committed off x).rd a = (s.wr64 off x).rd a := rfl

/-- A commit drops what was held of its register and changes its two words alone (R524). -/
theorem committed_frame (s : State) (off x : Nat) :
    (∀ e ∈ (s.committed off x).mgt.hold, e.1 ≠ off) ∧ (s.committed off x).mgt.err = false ∧
      (s.committed off x).mgt.doneCount = s.mgt.doneCount + 1 ∧ Keeps s (s.committed off x) [.mgt] ∧
      KeepsRegs s (s.committed off x) [off, off + 4] := by
  refine ⟨fun e he => by simpa using (List.mem_filter.mp he).2, rfl, rfl, ?_, ?_⟩
  · exact keeps_mgtDone (State.modMgt_keeps _ _ (State.wr64_keeps _ _ _ (Keeps.refl _ _)) (by simp)) _ _
  · exact ((KeepsRegs.refl s _).wr64 (by simp) (by simp) x).of_regs rfl

/-- The high word's write commits the RW bits of both words (R524). -/
theorem gives_highWrite {s : State} {off : BitVec 24} {r : RegRow} {i j : Nat} {lo : Word} {rest : List (Nat × Word)}
    (v : Word) (hr : s.mgtReady = true) (hm : mapped off.toNat = some (r, i, j, true)) (he : r.emu = false)
    (hl : s.live (r.home.island i) = true) (h1 : r.base ≠ Reg.SLOT_SHIFT_TIME 0)
    (h2 : r.base ≠ Reg.RMT_GATE_SHIFT_TIME 0) (h3 : off.toNat - 4 ∉ ringRegs)
    (hh : s.mgt.hold = (off.toNat - 4, lo) :: rest) :
    Gives (.highWordWrite off v) s fun t =>
      t.rd64 (off.toNat - 4) = clearBits (s.rd64 (off.toNat - 4)) r.rw ||| ((lo.toNat + 2 ^ 32 * v.toNat) &&& r.rw) ∧
        (∀ e ∈ t.mgt.hold, e.1 ≠ off.toNat - 4) ∧ t.mgt.err = false ∧ t.mgt.doneCount = s.mgt.doneCount + 1 ∧
        Keeps s t [.mgt] ∧ KeepsRegs s t [off.toNat - 4, off.toNat] := by
  obtain ⟨hmem, hloc⟩ := mapped_mem hm
  obtain ⟨-, hoff⟩ := RegRow.locate_high hloc
  have hq : ¬ (r.base = Reg.FW_QRING 0 ∨ r.base = Reg.FW_QREPLY 0) := fun h => by
    simp [queueRing_emulated r hmem h] at he
  obtain ⟨hq1, hq2⟩ := not_or.mp hq
  refine ⟨_, exec_highWordWrite_wide hm, ?_⟩
  rw [portWrite_high hr hm he hl, commitHigh_held v hh, commit64_stores lo v h1 h2 hq1 hq2 h3]
  have hframe := committed_frame s (off.toNat - 4)
    (clearBits (s.rd64 (off.toNat - 4)) r.rw ||| ((lo.toNat + 2 ^ 32 * v.toNat) &&& r.rw))
  rw [Nat.sub_add_cancel hoff] at hframe
  refine ⟨State.rd64_wr64 s _ ?_, hframe⟩
  have h64 := s.rd64_lt (off.toNat - 4)
  have hlo := lo.isLt
  have hhi := v.isLt
  exact Nat.or_lt_two_pow ((clearBits_le _ _).trans_lt h64) (Nat.and_le_left.trans_lt (by omega))

/-- A shift time is written whole while no shift is armed (R141, R524). -/
theorem gives_shiftTimeWrite {s : State} {p : Fin 64} {lo : Word} {rest : List (Nat × Word)} (v : Word)
    (hr : s.mgtReady = true) (hl : s.live (.pc p) = true)
    (ha : s.bit (Reg.SLOT_STATUS p) Fld.SLOT_STATUS_ARMED = false)
    (hh : s.mgt.hold = (Reg.SLOT_SHIFT_TIME p, lo) :: rest) :
    Gives (.highWordWrite (BitVec.ofNat 24 (Reg.SLOT_SHIFT_TIME p + 4)) v) s fun t =>
      t.rd (Reg.SLOT_SHIFT_TIME p) = lo ∧ t.rd (Reg.SLOT_SHIFT_TIME p + 4) = v ∧
        (∀ e ∈ t.mgt.hold, e.1 ≠ Reg.SLOT_SHIFT_TIME p) ∧ t.mgt.err = false ∧ Keeps s t [.mgt] ∧
        KeepsRegs s t [Reg.SLOT_SHIFT_TIME p, Reg.SLOT_SHIFT_TIME p + 4] := by
  have ho : (BitVec.ofNat 24 (Reg.SLOT_SHIFT_TIME p + 4)).toNat = Reg.SLOT_SHIFT_TIME p + 4 :=
    toNat_offset (by simp only [Reg.SLOT_SHIFT_TIME]; omega)
  have hm := (mapped_slotShiftTime p).2
  have hl' : s.live (slotShiftTimeRow.home.island p) = true := by
    simpa [slotShiftTimeRow, Home.island, pcFin] using hl
  rw [← ho] at hm
  refine ⟨_, exec_highWordWrite_wide hm, ?_⟩
  have hlo := lo.isLt
  have hv := v.isLt
  have hc : s.commit64 slotShiftTimeRow (Reg.SLOT_SHIFT_TIME p) p lo v =
      s.wr64 (Reg.SLOT_SHIFT_TIME p) (lo.toNat + 2 ^ 32 * v.toNat) := by
    have hall (x : Nat) (hx : x < 2 ^ 64) : x &&& slotShiftTimeRow.rw = x :=
      (Nat.and_two_pow_sub_one_eq_mod x 64).trans (Nat.mod_eq_of_lt hx)
    have hnone : clearBits (s.rd64 (Reg.SLOT_SHIFT_TIME p)) slotShiftTimeRow.rw = 0 := by
      rw [clearBits, hall _ (s.rd64_lt _), Nat.sub_self]
    simp only [State.commit64, hnone, hall _ (by omega : lo.toNat + 2 ^ 32 * v.toNat < 2 ^ 64), Nat.zero_or]
    simp [slotShiftTimeRow, armedWrite, ha]
  rw [portWrite_high hr hm rfl hl', ho, Nat.add_sub_cancel, commitHigh_held v hh, hc]
  obtain ⟨hhold, herr, -, hk, hregs⟩ := committed_frame s (Reg.SLOT_SHIFT_TIME p) (lo.toNat + 2 ^ 32 * v.toNat)
  refine ⟨?_, ?_, hhold, herr, hk, hregs⟩
  · refine (rd_committed ..).trans ?_
    simp only [State.wr64, State.rd_wr]
    rw [if_neg (by omega), if_pos True.intro]
    exact BitVec.eq_of_toNat_eq (by rw [BitVec.toNat_ofNat]; omega)
  · refine (rd_committed ..).trans ?_
    simp only [State.wr64, State.rd_wr]
    rw [if_pos True.intro]
    exact BitVec.eq_of_toNat_eq (by rw [BitVec.toNat_ofNat]; omega)

/-! ### Emulated registers (R57, R319, R496) -/

/-- The emulated registers with a row of their own, those of a queue by the first of their row. -/
def emuOwnOffsets : List Nat :=
  [Reg.FW_ATTACH, Reg.FW_STAGE_CTRL, Reg.FW_QCFG 0, Reg.FW_QDB 0, Reg.FW_BOOT_CTRL, Reg.FW_LEDGER_PORT,
    Reg.FW_LEDGER_CTRL, Reg.FW_LEDGER_XCTRL, Reg.FW_TRUE_CFG]

theorem emuEffect_stores {s : State} {r : RegRow} {off : Nat} (i : Nat) (v : Word) (hw : r.wide = false)
    (ho : off ∉ emuOwnOffsets) (hb : r.base ∉ emuOwnOffsets) : s.emuEffect r off i false v =
      (false, s.wr off (BitVec.ofNat 32 (limited off (writtenWord r false (s.rd off).toNat v.toNat 0)))) := by
  simp only [emuOwnOffsets, List.mem_cons, List.not_mem_nil, or_false, not_or] at ho hb
  simp [State.emuEffect, hw, ho, hb]

section emulated

variable {s : State} {off : BitVec 24} {r : RegRow} {i j : Nat} {v : Word}

/-- A read of an emulated word while the liaison core serves returns it (R319). -/
theorem gives_emulatedRead (hl : s.live .sensor = true) (hq : s.mgt.waiting = none) (hf : s.fwRuns .liaison = true)
    (hm : mapped off.toNat = some (r, i, j, false)) (he : r.emu = true) (hw : r.wide = false)
    (h1 : off.toNat ≠ Reg.RMT_PT_DATA 0) (h2 : off.toNat ≠ Reg.RMT_HIST_DATA 0) :
    Gives (.emulatedAccess false off v) s fun t =>
      t.mgt.rdata = BitVec.ofNat 32 (s.read32 r off.toNat i j) ∧ t.mgt.err = false ∧
        t.mgt.doneCount = s.mgt.doneCount + 1 ∧ t.mgt.waiting = none ∧ Keeps s t [.mgt] ∧ KeepsRegs s t [] := by
  refine ⟨_, exec_emulatedAccess_idle hl hq hm he false, ?_⟩
  have ha (x : Word) : s.emulated r off.toNat i j false false x =
      s.mgtDone false (BitVec.ofNat 32 (s.read32 r off.toNat i j)) := by
    simp [emulated_serving hf, State.emuAnswer, readReg_plain hw h1 h2]
  rw [ha]
  exact ⟨rfl, rfl, rfl, rfl, (portOnly s _).1, (portOnly s _).2⟩

/-- An access waits while the liaison core is in reset or the block is ACTIVATING (R57, R319). -/
theorem gives_emulatedWait (hl : s.live .sensor = true) (hq : s.mgt.waiting = none) (hfw : s.live .firmware = true)
    (hf : s.fwRuns .liaison = false) (hs : 4 ≤ s.fwState) (hm : mapped off.toNat = some (r, i, j, false))
    (he : r.emu = true) (write : Bool) :
    Gives (.emulatedAccess write off v) s fun t =>
      t.mgt.waiting.isSome = true ∧ t.mgt.doneCount = s.mgt.doneCount ∧ Keeps s t [.mgt] ∧ KeepsRegs s t [] := by
  refine ⟨_, exec_emulatedAccess_idle hl hq hm he write, ?_⟩
  have ha (x : Word) : s.emulated r off.toNat i j false write x = s.modMgt fun m =>
      { m with waiting := some { write := write, off := off.toNat, value := x, since := s.clk.pkg } } := by
    simp [State.emulated, hfw, hf, hs]
  rw [ha]
  exact ⟨rfl, rfl, (portOnly s _).1, (portOnly s _).2⟩

/-- Before firmware runs a read returns zero and a write is answered with MGT_ERR (R57). -/
theorem gives_emulatedBefore (hl : s.live .sensor = true) (hq : s.mgt.waiting = none)
    (hf : s.fwRuns .liaison = false) (hs : s.fwState < 4) (hm : mapped off.toNat = some (r, i, j, false))
    (he : r.emu = true) (write : Bool) :
    Gives (.emulatedAccess write off v) s fun t =>
      t.mgt.rdata = 0 ∧ t.mgt.doneCount = s.mgt.doneCount + 1 ∧ (write = true → t.mgt.err = true) ∧
        Keeps s t [.mgt] ∧ KeepsRegs s t [] := by
  refine ⟨_, exec_emulatedAccess_idle hl hq hm he write, ?_⟩
  have ha (x : Word) : s.emulated r off.toNat i j false write x = s.mgtDone (!s.live .firmware || write) 0 := by
    cases hfw : s.live .firmware <;> simp [State.emulated, hfw, hf, Nat.not_le.mpr hs]
  rw [ha]
  exact ⟨rfl, rfl, fun h => by simp [State.mgtDone, h], (portOnly s _).1, (portOnly s _).2⟩

/-- A write of an emulated word without a row of its own is answered with the written word stored, each field at its
nearer limit (R17, R319). -/
theorem gives_emulatedWrite (hl : s.live .sensor = true) (hq : s.mgt.waiting = none) (hf : s.fwRuns .liaison = true)
    (hm : mapped off.toNat = some (r, i, j, false)) (he : r.emu = true) (hw : r.wide = false)
    (ho : off.toNat ∉ emuOwnOffsets) (hb : r.base ∉ emuOwnOffsets) :
    Gives (.emulatedAccess true off v) s fun t =>
      t.rd off.toNat = BitVec.ofNat 32 (limited off.toNat (writtenWord r false (s.rd off.toNat).toNat v.toNat 0)) ∧
        Answered s t false ∧ Keeps s t [.mgt] ∧ KeepsRegs s t [off.toNat] := by
  refine ⟨_, exec_emulatedAccess_idle hl hq hm he true, ?_⟩
  rw [if_pos rfl, emulated_serving hf, State.emuAnswer, if_pos rfl, emuEffect_stores i v hw ho hb]
  exact ⟨State.rd_wr_self .., storedAccess s off.toNat _⟩

end emulated

/-- The margin and ageing configurations are emulated 32-bit registers whose writes have no rule but their limits. -/
theorem margin_ageing_stored : ∀ o ∈ [Reg.FW_MARGIN_CFG, Reg.FW_AGEING_CFG], ∀ x ∈ mapped o,
    x.1.emu = true ∧ x.1.wide = false ∧ o ∉ emuOwnOffsets ∧ x.1.base ∉ emuOwnOffsets := by
  decide +kernel

/-- Settles O30: each clause is the row's equation at the offset that the map lists, with the frame of a completed
access. -/
theorem managementAccesses : Obligations.ManagementAccesses := by
  unfold Obligations.ManagementAccesses
  refine ⟨?_, ?_, ?_, ?_, ?_, ?_, ?_, ?_, ?_, ?_, ?_, ?_, ?_, ?_, ?_, ?_, ?_, ?_, ?_, ?_⟩
  · intro s off v events hr hm
    refine ⟨_, exec_registerWrite_unmapped hm, ?_⟩
    rw [portWrite_unmapped hr hm]
    exact refusedAccess s
  · intro s off v events r i j hr hm hw he hl
    refine ⟨_, exec_registerWrite_plain hm hw he, ?_⟩
    rw [portWrite_dead hr hm he hl]
    exact refusedAccess s
  · exact fun s v events hr hl => gives_tdtSizeWrite s v events hr hl
  · intro s hr hl
    obtain ⟨t, ht, hx, hy, hrest⟩ := gives_wideRead (off := BitVec.ofNat 24 Reg.D2D_TIME) hr mapped_d2dTime.1 rfl rfl hl
    refine ⟨t, ht, ?_, ?_, hrest⟩
    · rw [hx, BitVec.toNat_ofNat]; rfl
    · exact (congrArg BitVec.toNat hy).trans (BitVec.toNat_ofNat ..)
  · exact fun s hr hl => gives_highRead (off := BitVec.ofNat 24 (Reg.D2D_TIME + 4)) hr mapped_d2dTime.2 rfl hl
  · intro s p v hr hl
    have ho : (BitVec.ofNat 24 (Reg.SLOT_SHIFT_TIME p)).toNat = Reg.SLOT_SHIFT_TIME p :=
      toNat_offset (by simp only [Reg.SLOT_SHIFT_TIME]; omega)
    have hm := (mapped_slotShiftTime p).1
    rw [← ho] at hm
    obtain ⟨t, ht, hh, hrest⟩ := gives_lowWrite v hr hm rfl rfl
      (by simpa [slotShiftTimeRow, Home.island, pcFin] using hl)
    exact ⟨t, ht, by simp [hh, ho], hrest⟩
  · exact fun s p v lo rest hr hl ha hh => gives_shiftTimeWrite v hr hl ha hh
  · intro s v hl hq hf
    obtain ⟨t, ht, hx, hrest⟩ := gives_emulatedRead (off := BitVec.ofNat 24 Reg.FW_AGEING_CFG) (v := v) hl hq hf
      mapped_ageingCfg rfl rfl (by decide) (by decide)
    refine ⟨t, ht, hx.trans ?_, hrest⟩
    exact BitVec.ofNat_toNat 32 (s.rd Reg.FW_AGEING_CFG)
  · exact fun s v write hl hq hfw hf hs => gives_emulatedWait (off := BitVec.ofNat 24 Reg.FW_AGEING_CFG) hl hq hfw hf hs
      mapped_ageingCfg rfl write
  · exact fun s v write hl hq hf hs => gives_emulatedBefore (off := BitVec.ofNat 24 Reg.FW_AGEING_CFG) hl hq hf hs
      mapped_ageingCfg rfl write
  · intro s w hl hw ht
    refine ⟨s.mgtDone true 0, ?_, refusedAccess s⟩
    simp [exec, execEmulatedAccessTimeout, emulatedTimeout, hl, hw, ht]
  · exact fun s off v events r i j hr hm hw he hl =>
      ⟨_, exec_registerWrite_plain hm hw he, portWrite_plain hr hm he hw hl⟩
  · intro s off v events r i j hr hm ho he hl
    obtain ⟨t, ht, rfl⟩ := gives_limitedWrite v events hr hm ho he hl
    exact ⟨_, ht, State.rd_wr_self .., storedAccess s off.toNat _⟩
  · rintro s p v events b hr hl rfl
    exact gives_schedStatusWrite s p v events hr hl
  · exact fun s off r i j hr hm hw he hl h1 h2 => gives_plainRead hr hm hw he hl h1 h2
  · exact fun s off r i j hr hm hw he hl => gives_wideRead hr hm hw he hl
  · exact fun s off v r i j hr hm hw he hl => gives_lowWrite v hr hm hw he hl
  · exact fun s off v r i j lo rest hr hm he hl h1 h2 h3 hh => gives_highWrite v hr hm he hl h1 h2 h3 hh
  · intro s off v r i j hr hl hf hm he hw h1 h2
    have hq : s.mgt.waiting = none := by simp_all [State.mgtReady]
    exact gives_emulatedRead hl hq hf hm he hw h1 h2
  · intro s off v r i j hr hl hf hm ho
    have hq : s.mgt.waiting = none := by simp_all [State.mgtReady]
    obtain ⟨he, hw, hoff, hb⟩ := margin_ageing_stored _ ho _ hm
    exact gives_emulatedWrite hl hq hf hm he hw hoff hb

end Sys2Proof.Machine
end

section
/-! SUPPORT. The counterexample to O58: a truing window of a block without layer groups. -/

namespace Sys2Proof.Machine

/-! ### A truing window of a block whose stack has no layer group -/

/-- Probes of a window of which none has failed. -/
def passedProbes : Probes :=
  { reference := 0, rx := { low := 0, high := 0 }, tx := { low := 0, high := 0 }, vref := { low := 0, high := 0 },
    ca := { low := 0, high := 0 }, outside := 0, atEdge := 0 }

/-- An open window whose number selects the low edge of RD_VREF as the tracked edge (R417). -/
def vrefWindow : Truing :=
  { at_ := 0, expedited := false, opened := true, posted := true, done := false, timedOut := false, no := 4,
    place := none, timing := (0, 0), probes := some passedProbes, saved := [] }

/-- A state in which the upkeep core runs, a guard band of 2 is due and the window stands at PC 0, while ID_CONFIG shows
no layer group, as it does until TRAIN_STACK has identified the stack. -/
def noGroupsState : State :=
  let s : State := { State.reset with
    pwr := { State.reset.pwr with up := Vector.replicate 133 true },
    fw := { Fw.init with cores := Vector.replicate 4 { FwCore.init with run := true } },
    pcs := State.reset.pcs.set 0 { Pc.init with truing := some vrefWindow } }
  (s.sf Reg.FW_STATUS Fld.FW_STATUS_STATE 4).sf Reg.FW_AGEING_STATUS Fld.FW_AGEING_STATUS_GUARD 2

/-- The window's outcome moves RD_VREF of PC 0, of which every probe has passed and no margin is known: the centre is
recomputed from the runs of no layer group, as the middle of the delays, 511, of which the field takes the low
8 bits. -/
theorem noGroupsState_moves_vref : noGroupsState.rd (Reg.PC_VREF 0) = 0xC8C8C8 ∧
    (truingDone 0 none noGroupsState).rd (Reg.PC_VREF 0) = 0xC8C8FF := by
  decide +kernel

/-- Refutes O58: the clause on a guard band that is due (its fortieth) does not ask for a layer group, as the clauses
with `Deciding` do, and says that no register but the timing registers and PC_SCHED_STATUS changes. In `noGroupsState`
PC_VREF of PC 0 changes too. The clause speaks of every state; no claim is made that this one is reached. -/
theorem not_trainingAndTruing : ¬ Obligations.TrainingAndTruing := by
  unfold Obligations.TrainingAndTruing
  rintro ⟨-, -, -, -, -, -, -, -, -, -, -, -, -, -, -, -, -, -, -, -, -, -, -, -, -, -, -, -, -, -, -, -, -, -, -, -, -,
    -, -, hguard, -⟩
  have hdue : noGroupsState.fwRuns .upkeep = true ∧ noGroupsState.pcs[(0 : Fin 64)].truing = some vrefWindow ∧
      vrefWindow.probes = some passedProbes ∧ vrefWindow.opened = true ∧ vrefWindow.done = false ∧
      vrefWindow.timedOut = false ∧ noGroupsState.now (.pc 0) < vrefWindow.at_ + 1300 := by
    decide +kernel
  have hband : noGroupsState.age.guards[(0 : Fin 64)] + 2 = noGroupsState.guardInForce ∧ 0 < 2 ∧
      noGroupsState.age.swap = [] := by
    decide +kernel
  obtain ⟨t, ht, -, -, -, -, -, hregs⟩ :=
    hguard noGroupsState 0 vrefWindow passedProbes 2 hdue hband (by decide) (by decide +kernel)
  have hexec : exec (.truingDone 0 none) noGroupsState = .next (truingDone 0 none noGroupsState) :=
    congrArg Host.Outcome.next (State.onCore_true hdue.1)
  obtain rfl : truingDone 0 none noGroupsState = t := by simpa [hexec] using ht
  have hkept := hregs (Reg.PC_VREF 0) (by decide)
  obtain ⟨hbefore, hafter⟩ := noGroupsState_moves_vref
  rw [hbefore, hafter] at hkept
  exact absurd hkept (by decide)

end Sys2Proof.Machine
end

section
/-! SUPPORT. Idle time, and the registers that the operations of the request paths can change: every lemma
`KeepsRegs.…` says that what agrees with a state outside a list of registers still agrees after the operation, when the
list holds the registers that the operation writes. -/

namespace Sys2Proof.Machine

/-! ### Idle time (R27; log entry 2) -/

/-- With no correction pending a nanosecond moves package time by 1, and no correction is left (R378). -/
theorem slewStep_zero (t : Nat) : slewStep t 0 = (1, 0) := by
  simp [slewStep]

/-- With no correction pending, a nanosecond moves the clocks by 1 and changes nothing else. -/
theorem passTime_of_no_slew {s : State} (h : s.pkg.slew = 0) :
    s.passTime = { s with clk := { s.clk with pkg := s.clk.pkg + 1, raw := s.clk.raw + 1,
                                              locals := s.clk.locals.map (· + 1) } } := by
  have hpkg : { s.pkg with slew := 0 } = s.pkg := by rw [← h]
  simp only [State.passTime, h, slewStep_zero, hpkg]

/-- Settles O2: the step on an empty queue is `State.passTime`, and no correction is pending. -/
theorem idleStepPassesTime : Obligations.IdleStepPassesTime := by
  unfold Obligations.IdleStepPassesTime
  intro s hpend hslew
  refine ⟨s.passTime, by simp [step, hpend], ?_⟩
  rw [passTime_of_no_slew hslew]
  exact ⟨rfl, fun i => by simp, rfl, rfl, rfl, Keeps.set_clk (Keeps.refl _ _) (by simp) _, KeepsRegs.refl _ _⟩

/-! ### Walks and choices -/

section

variable {s0 s t : State} {rs : List Nat}

/-- A walk over a list keeps what each of its steps on the list's elements keeps. -/
theorem KeepsRegs.foldl {α : Type} {f : State → α → State} (l : List α)
    (hf : ∀ u, ∀ a ∈ l, KeepsRegs s0 u rs → KeepsRegs s0 (f u a) rs) (h : KeepsRegs s0 s rs) :
    KeepsRegs s0 (l.foldl f s) rs :=
  List.foldlRecOn (motive := fun u => KeepsRegs s0 u rs) l f h fun u hu a ha => hf u a ha hu

theorem KeepsRegs.ite {c : Prop} [Decidable c] (hs : KeepsRegs s0 s rs) (ht : KeepsRegs s0 t rs) :
    KeepsRegs s0 (if c then s else t) rs := by
  split <;> assumption

theorem KeepsRegs.iff (c : Bool) {f : State → State} (hs : KeepsRegs s0 s rs) (hf : KeepsRegs s0 (f s) rs) :
    KeepsRegs s0 (s.iff c f) rs := hf.ite hs

theorem KeepsRegs.raiseIf (h : KeepsRegs s0 s rs) {o : Nat} (m : o ∈ rs) (c : Bool) (f : Fld) :
    KeepsRegs s0 (s.raiseIf c o f) rs := (h.raise m f).ite h

theorem KeepsRegs.bumpSat (h : KeepsRegs s0 s rs) {o : Nat} (m : o ∈ rs) (f : Fld) :
    KeepsRegs s0 (s.bumpSat o f) rs := h.sf m _ _

/-! ### Counters (R509 to R512) -/

/-- CNT_STATUS and the words of the counters of a unit. -/
abbrev counterRegs (u : Nat) : List Nat := Reg.CNT_STATUS :: (upto 16).map fun i => Reg.CNT_VAL u 0 + 4 * i

theorem cntVal_mem_counterRegs (u : Nat) {n : Nat} (hn : n < 8) :
    Reg.CNT_VAL u n ∈ counterRegs u ∧ Reg.CNT_VAL u n + 4 ∈ counterRegs u := by
  simp only [List.mem_cons, List.mem_map, List.mem_range, Reg.CNT_VAL]
  exact ⟨.inr ⟨2 * n, by omega, by omega⟩, .inr ⟨2 * n + 1, by omega, by omega⟩⟩

theorem KeepsRegs.addCounter (h : KeepsRegs s0 s rs) {u n : Nat} (m : counterRegs u ⊆ rs) (hn : n < 8) (qty : Nat) :
    KeepsRegs s0 (s.addCounter u n qty).1 rs := by
  obtain ⟨hlo, hhi⟩ := cntVal_mem_counterRegs u hn
  have hval := h.wr64 (m hlo) (m hhi) ((s.rd64 (Reg.CNT_VAL u n) + qty) % 2 ^ 48)
  exact (hval.wr (m (by simp)) _).ite hval

theorem KeepsRegs.countEvent (h : KeepsRegs s0 s rs) {u : Nat} (m : counterRegs u ⊆ rs) (e src qty : Nat) :
    KeepsRegs s0 (s.countEvent u e src qty) rs :=
  List.foldlRecOn (motive := fun (a : State × Nat) => KeepsRegs s0 a.1 rs) _ _ h
    fun _ ha _ hn => ha.addCounter m (List.mem_range.mp hn) _

theorem KeepsRegs.countIn (h : KeepsRegs s0 s rs) {u : Fin 4} (m : counterRegs u ⊆ rs) (e src qty : Nat) :
    KeepsRegs s0 (s.countIn u e src qty) rs := (h.countEvent m _ _ _).ite h

/-! ### Traffic of the ring (R375, R465, R467) -/

theorem laneStatus_mem_injRegs (east : Bool) : Reg.D2D_LANE_STATUS (portNo east) ∈ injRegs := by
  cases east <;> simp [portNo]

theorem d2dInj_mem_injRegs (east : Bool) : Reg.D2D_INJ (portNo east) ∈ injRegs := by
  cases east <;> simp [portNo]

theorem counterRegs_subset_injRegs : counterRegs 3 ⊆ injRegs := List.subset_append_right _ _

theorem KeepsRegs.startRetrain (h : KeepsRegs s0 s rs) (m : injRegs ⊆ rs) (east : Bool) (k : Fin 2) :
    KeepsRegs s0 (s.startRetrain east k) rs := by
  unfold State.startRetrain
  exact KeepsRegs.ite (KeepsRegs.bumpSat (h.of_regs rfl) (m (laneStatus_mem_injRegs east)) _) h

theorem KeepsRegs.crcError (h : KeepsRegs s0 s rs) (m : injRegs ⊆ rs) (east : Bool) (k : Fin 2) :
    KeepsRegs s0 (s.crcError east k) rs := by
  unfold State.crcError
  refine KeepsRegs.ite (KeepsRegs.startRetrain ?_ m east k) ?_ <;> exact h.of_regs rfl

theorem KeepsRegs.injectedFault (h : KeepsRegs s0 s rs) (m : injRegs ⊆ rs) (east : Bool) :
    KeepsRegs s0 (s.injectedFault east) rs := by
  have mc : counterRegs 3 ⊆ rs := List.Subset.trans counterRegs_subset_injRegs m
  have hcount := (h.countIn (u := 3) mc 0x042 (8 + portNo east) 1).countIn (u := 3) mc 0x050 (8 + portNo east) 1
  exact (hcount.crcError m east _).ite hcount

theorem KeepsRegs.injectFlit (h : KeepsRegs s0 s rs) (m : injRegs ⊆ rs) (east : Bool) :
    KeepsRegs s0 (s.injectFlit east) rs := by
  have mi := m (d2dInj_mem_injRegs east)
  have hfault {u : State} (hu : KeepsRegs s0 u rs) := (hu.bumpSat mi Fld.D2D_INJ_INJECTED).injectedFault m east
  have hdrawn (x : Nat) : KeepsRegs s0 { s with inj := s.inj.set (Fin.ofNat 11 (1 + portNo east)) x } rs :=
    h.of_regs rfl
  unfold State.injectFlit
  refine KeepsRegs.ite ?_ h
  dsimp only
  refine KeepsRegs.ite (KeepsRegs.ite (KeepsRegs.sf ?_ mi _ _) ?_) (hdrawn _)
  · exact hfault (hdrawn _)
  · exact hfault (hdrawn _)

theorem KeepsRegs.returnCredit (h : KeepsRegs s0 s rs) (came : Option (Bool × Nat)) (flits : Nat) :
    KeepsRegs s0 (s.returnCredit came flits) rs := by
  cases came <;> exact h.of_regs rfl

theorem KeepsRegs.pumpPort (h : KeepsRegs s0 s rs) (m : injRegs ⊆ rs) (east : Bool) :
    KeepsRegs s0 (s.pumpPort east) rs := by
  unfold State.pumpPort
  refine KeepsRegs.foldl _ (fun u f _ hu => ?_) (h.of_regs rfl)
  exact (KeepsRegs.foldl _ (fun _ _ _ hv => hv.injectFlit m east) hu).returnCredit _ _

theorem KeepsRegs.onPort (h : KeepsRegs s0 s rs) (m : injRegs ⊆ rs) (east : Bool) (f : Flit) :
    KeepsRegs s0 (s.onPort east f) rs := by
  unfold State.onPort
  refine KeepsRegs.pumpPort ?_ m east
  exact h.of_regs rfl

/-! ### Tagged requests (R519 to R521) -/

theorem counterRegs_subset_tagRegs : counterRegs 1 ⊆ tagRegs := List.subset_cons_self _ _

theorem KeepsRegs.draw (h : KeepsRegs s0 s rs) (m : tagRegs ⊆ rs) (port kind : Nat) (rec : TagRec) :
    KeepsRegs s0 (s.draw port kind rec) rs := by
  unfold State.draw
  refine KeepsRegs.ite (KeepsRegs.ite (KeepsRegs.countIn ?_ ?_ _ _ _) (h.of_regs rfl)) h
  · exact h.of_regs rfl
  · exact List.Subset.trans counterRegs_subset_tagRegs m

theorem KeepsRegs.drawFor (h : KeepsRegs s0 s rs) (m : tagRegs ⊆ rs) (r : Req) : KeepsRegs s0 (s.drawFor r) rs := by
  unfold State.drawFor
  split
  · exact (h.draw m _ _ _).ite h
  · exact h

theorem KeepsRegs.stamp (h : KeepsRegs s0 s rs) (id stage time : Nat) : KeepsRegs s0 (s.stamp id stage time) rs :=
  h.of_regs rfl

theorem KeepsRegs.stampAccess (h : KeepsRegs s0 s rs) (p : Fin 64) (o : Owner) (stage : Nat) :
    KeepsRegs s0 (s.stampAccess p o stage) rs := by
  unfold State.stampAccess
  split
  · exact h.of_regs rfl
  · exact h

theorem KeepsRegs.endTag (h : KeepsRegs s0 s rs) (m : tagRegs ⊆ rs) (id time : Nat) (st : Status) :
    KeepsRegs s0 (s.endTag id time st) rs := by
  unfold State.endTag
  split
  · exact h
  · have hseq {u : State} (hu : KeepsRegs s0 u rs) (v : Word) := hu.wr (m (List.mem_cons_self (a := Reg.CNT_TAG_SEQ))) v
    have hended (l w) : KeepsRegs s0 { s with tags := { s.tags with live := l, wait := w } } rs := h.of_regs rfl
    refine KeepsRegs.ite (hseq (hended _ _) _) (KeepsRegs.countIn (hseq (hended _ _) _) ?_ _ _ _)
    exact List.Subset.trans counterRegs_subset_tagRegs m

/-! ### Responses and ingress (R28, R54, R376) -/

theorem tagRegs_subset_pathRegs : tagRegs ⊆ pathRegs := List.subset_append_left _ _

theorem injRegs_subset_pathRegs : injRegs ⊆ pathRegs := List.subset_append_right _ _

theorem KeepsRegs.complete (h : KeepsRegs s0 s rs) (m : pathRegs ⊆ rs) (r : Req) (st : Status) (data : List Byte) :
    KeepsRegs s0 (s.complete r st data) rs := by
  have mi : injRegs ⊆ rs := List.Subset.trans injRegs_subset_pathRegs m
  have hst := h.stamp r.id 8 (s.now (.slice (s.sliceOf r.addr)))
  unfold State.complete
  dsimp only
  split
  · exact hst.of_regs rfl
  · split
    · exact hst
    · split
      · refine KeepsRegs.onPort ?_ mi _ _
        exact hst.of_regs rfl
      · exact hst.of_regs rfl
  · have hend (time : Nat) := hst.endTag (List.Subset.trans tagRegs_subset_pathRegs m) r.id time st
    refine KeepsRegs.ite (hst.ite (hend _)) (KeepsRegs.of_regs ?_ rfl)
    exact hst.ite (hend _)

theorem KeepsRegs.ingress (h : KeepsRegs s0 s rs) (m : pathRegs ⊆ rs) (r : Req) : KeepsRegs s0 (s.ingress r) rs := by
  have hs := (h.drawFor (List.Subset.trans tagRegs_subset_pathRegs m) r).stamp r.id 1 (s.now r.src.island)
  unfold State.ingress
  dsimp only
  refine KeepsRegs.ite (hs.complete m r _ _) ?_
  split
  · exact hs.complete m r _ _
  · exact KeepsRegs.ite (KeepsRegs.ite (hs.of_regs rfl) (hs.complete m r _ _))
      (KeepsRegs.ite (hs.of_regs rfl) (hs.of_regs rfl))
  · split
    · exact hs.complete m r _ _
    · refine KeepsRegs.onPort ?_ (List.Subset.trans injRegs_subset_pathRegs m) _ _
      exact hs.of_regs rfl

end

end Sys2Proof.Machine
end

section
/-! SUPPORT. Host ports: what a launch, a request, a beat of write data and a beat of a response do (02: R50 to R55). -/

namespace Sys2Proof.Machine

/-! ### What every launch carries along -/

/-- A request as its port took it, with the write data so far: all of a transaction but what its launch and its
responses set. -/
def HostTxn.asked (t : HostTxn) : HostTxn :=
  { t with sent := false, partsLeft := 0, status := .ok, hasData := false, rsp := [], ready := false }

/-- The slices are as they were, and every port holds the requests it held. -/
def Carries (s t : State) : Prop :=
  t.paths.slices = s.paths.slices ∧
    ∀ m : Fin 16, t.paths.ports[m].txns.map HostTxn.asked = s.paths.ports[m].txns.map HostTxn.asked

/-- Transactions that ask the same agree on what a port was asked and on the data that has come. -/
theorem HostTxn.asked_inj {x y : HostTxn} (h : x.asked = y.asked) :
    x.id = y.id ∧ x.tag = y.tag ∧ x.op = y.op ∧ x.addr = y.addr ∧ x.size = y.size ∧ x.beatsLeft = y.beatsLeft ∧
      x.discardBeats = y.discardBeats ∧ x.data = y.data := by
  simp_all [HostTxn.asked]

theorem Carries.exists_txn {s t : State} (h : Carries s t) {n : Fin 16} {x : HostTxn}
    (hx : x ∈ s.paths.ports[n].txns) : ∃ y ∈ t.paths.ports[n].txns, y.asked = x.asked :=
  List.mem_map.mp (h.2 n ▸ List.mem_map_of_mem hx)

theorem Carries.length_txns {s t : State} (h : Carries s t) (n : Fin 16) :
    t.paths.ports[n].txns.length = s.paths.ports[n].txns.length := by
  simpa only [List.length_map] using congrArg List.length (h.2 n)

theorem Carries.refl (s : State) : Carries s s := ⟨rfl, fun _ => rfl⟩

theorem Carries.trans {s t u : State} (h : Carries s t) (h' : Carries t u) : Carries s u :=
  ⟨h'.1.trans h.1, fun m => (h'.2 m).trans (h.2 m)⟩

/-- An operation that leaves slices and ports alone carries everything. -/
theorem Carries.of_paths {s t u : State} (h : Carries s t) (hs : u.paths.slices = t.paths.slices)
    (hp : u.paths.ports = t.paths.ports) : Carries s u :=
  h.trans ⟨hs, fun m => by rw [hp]⟩

/-- A change of the transactions of a port that leaves what was asked carries everything. -/
theorem Carries.modPort {s t : State} (h : Carries s t) (p : Fin 16) {f : HostTxn → HostTxn}
    (hf : ∀ x, (f x).asked = x.asked) :
    Carries s (t.modPort p fun x => { x with txns := x.txns.map f }) :=
  h.trans ⟨rfl, fun m => by
    rw [State.ports_modPort]
    split
    · next hm => subst hm; simp [hf]
    · rfl⟩

theorem State.paths_onPort (s : State) (east : Bool) (f : Flit) : (s.onPort east f).paths = s.paths :=
  State.onPort_keeps s east f (Keeps.refl s [.ring, .inj]) (by simp) (by simp) .paths (by simp)

theorem State.paths_endTag (s : State) (id time : Nat) (st : Status) : (s.endTag id time st).paths = s.paths :=
  State.endTag_keeps s id time st (Keeps.refl s [.tags]) (by simp) .paths (by simp)

theorem State.paths_draw (s : State) (port kind : Nat) (rec : TagRec) : (s.draw port kind rec).paths = s.paths :=
  State.draw_keeps s port kind rec (Keeps.refl s [.tags]) (by simp) .paths (by simp)

theorem State.paths_drawFor (s : State) (r : Req) : (s.drawFor r).paths = s.paths :=
  State.drawFor_keeps s r (Keeps.refl s [.tags]) (by simp) .paths (by simp)

theorem Carries.complete {s t : State} (h : Carries s t) (r : Req) (st : Status) (data : List Byte) :
    Carries s (t.complete r st data) := by
  have hst : Carries s (t.stamp r.id 8 (t.now (.slice (t.sliceOf r.addr)))) := h.of_paths rfl rfl
  unfold State.complete
  dsimp only
  split
  · exact hst.modPort _ fun x => by split <;> rfl
  · split
    · exact hst
    · split
      · exact hst.of_paths (by rw [State.paths_onPort]; rfl) (by rw [State.paths_onPort]; rfl)
      · exact hst.of_paths rfl rfl
  · split <;> split <;> exact hst.of_paths (by simp [State.paths_endTag]) (by simp [State.paths_endTag])

theorem Carries.ingress {s t : State} (h : Carries s t) (r : Req) : Carries s (t.ingress r) := by
  have hs : Carries s ((t.drawFor r).stamp r.id 1 (t.now r.src.island)) :=
    h.of_paths (by simp [State.paths_drawFor]) (by simp [State.paths_drawFor])
  unfold State.ingress
  dsimp only
  split
  · exact hs.complete r _ _
  · split
    · exact hs.complete r _ _
    · split
      · split
        · exact hs.of_paths rfl rfl
        · exact hs.complete r _ _
      · split <;> exact hs.of_paths rfl rfl
    · split
      · exact hs.complete r _ _
      · exact hs.of_paths (by rw [State.paths_onPort]; rfl) (by rw [State.paths_onPort]; rfl)

theorem Carries.launch {s t : State} (h : Carries s t) (x : HostTxn) (sizeOk : Bool) :
    Carries s (t.launch x sizeOk) := by
  unfold State.launch
  dsimp only
  split
  · exact (h.modPort x.port fun y => by split <;> rfl).of_paths rfl rfl
  · exact List.foldlRecOn (motive := Carries s) _ _ (h.modPort x.port fun y => by split <;> rfl)
      fun u hu r _ => hu.ingress r

theorem Carries.launchAll {s t : State} (h : Carries s t) (n : Nat) (p : Fin 16) :
    Carries s (State.launchAll n p t) := by
  induction n generalizing t with
  | zero => exact h
  | succ n ih =>
    unfold State.launchAll
    split
    · exact h
    · exact ih (h.launch _ _)

theorem KeepsRegs.launch {s t : State} {rs : List Nat} (h : KeepsRegs s t rs) (m : pathRegs ⊆ rs) (x : HostTxn)
    (sizeOk : Bool) : KeepsRegs s (t.launch x sizeOk) rs := by
  unfold State.launch
  dsimp only
  split
  · exact h.of_regs rfl
  · exact KeepsRegs.foldl _ (fun _ _ _ hu => hu.ingress m _) (h.of_regs rfl)

theorem KeepsRegs.launchAll {s t : State} {rs : List Nat} (h : KeepsRegs s t rs) (m : pathRegs ⊆ rs) (n : Nat)
    (p : Fin 16) : KeepsRegs s (State.launchAll n p t) rs := by
  induction n generalizing t with
  | zero => exact h
  | succ n ih =>
    unfold State.launchAll
    split
    · exact h
    · exact ih (h.launch m _ _)

end Sys2Proof.Machine
end

section
/-! SUPPORT. The requests, write data and responses of O25, clause by clause. -/

namespace Sys2Proof.Machine

/-! ### Registers that the tags leave as they were -/

theorem tagRegs_high : ∀ o ∈ tagRegs, 0x1a0000 ≤ o := by decide

/-- Drawing or ending a tag leaves the registers of every other unit. -/
theorem rd_of_keepsTagRegs {s t : State} (h : KeepsRegs s t tagRegs) {o : Nat} (ho : o < 0x1a0000) : t.rd o = s.rd o :=
  h o fun m => absurd (tagRegs_high o m) (by omega)

theorem route_of_keepsTagRegs {s t : State} (h : KeepsRegs s t tagRegs) (a : Nat) : t.route a = s.route a := by
  have hn : natBits a 37 4 < 16 := natBits_lt a 37 4
  have hself := rd_of_keepsTagRegs h (o := Reg.ID_CONFIG) (by decide)
  have hrange := rd_of_keepsTagRegs h (o := Reg.PC_RANGE (natBits a 37 4)) (by simp only [Reg.PC_RANGE]; omega)
  simp only [State.route, State.self, State.bit, State.gf, hself, hrange]
  exact if_congr Iff.rfl (if_congr Iff.rfl rfl rfl) rfl

/-! ### Which request leaves a port (R53) -/

section leaving

variable {s : State} {t : HostTxn} {n : Nat} {p : Fin 16}

theorem launchAll_none (h : firstLaunch [] s.paths.ports[p].txns = none) : State.launchAll n p s = s := by
  cases n with
  | zero => rfl
  | succ n => rw [State.launchAll, h]

theorem launchAll_some (h : firstLaunch [] s.paths.ports[p].txns = some t) :
    State.launchAll (n + 1) p s = State.launchAll n p (s.launch t (decide (t.size ≠ 0))) := by
  rw [State.launchAll, h]

theorem firstLaunch_sent (h : t.sent = true) : firstLaunch [] [t] = none := by
  simp [firstLaunch, h]

theorem firstLaunch_waiting (h : t.beatsLeft ≠ 0) : firstLaunch [] [t] = none := by
  simp [firstLaunch, h]

theorem firstLaunch_ready (hs : t.sent = false) (hb : t.beatsLeft = 0) (hd : t.discardBeats = false) :
    firstLaunch [] [t] = some t := by
  simp [firstLaunch, blockedBy, hs, hb, hd]

end leaving

/-! ### A launch of the only request of a port (R28, R50, R51) -/

/-- A request that the ingress has answered at once (R51). -/
def HostTxn.refusedWith (t : HostTxn) (st : Status) : HostTxn := { t with sent := true, ready := true, status := st }

/-- A request that has left its port, its responses outstanding (R53). -/
def HostTxn.launched (t : HostTxn) : HostTxn :=
  { t with sent := true, partsLeft := t.parts.length, rsp := zeros t.size }

/-- A port whose transactions are replaced. -/
def State.setTxns (s : State) (p : Fin 16) (l : List HostTxn) : State := s.modPort p fun h => { h with txns := l }

/-- The answer `st` at the port of its only transaction `t`. -/
def State.refused (s : State) (t : HostTxn) (st : Status) : State :=
  (s.setTxns t.port [t.refusedWith st]).modTag t.id fun r => { r with path := 6 }

section single

variable {s : State} {t : HostTxn} {r : Req} {st : Status} {l : Nat}

theorem State.txns_setTxns (s : State) (p : Fin 16) (l : List HostTxn) :
    (s.setTxns p l).paths.ports[p].txns = l := by
  rw [State.setTxns, State.ports_modPort, if_pos rfl]

theorem State.ports_setTxns_ne (s : State) {p m : Fin 16} (l : List HostTxn) (h : m ≠ p) :
    (s.setTxns p l).paths.ports[m] = s.paths.ports[m] := by
  rw [State.setTxns, State.ports_modPort, if_neg h]

theorem setTxns_keeps (s : State) (p : Fin 16) (l : List HostTxn) : Keeps s (s.setTxns p l) [.paths, .tags] :=
  State.modPort_keeps _ _ _ (Keeps.refl _ _) (by simp)

theorem launchAll_refused (hp : s.paths.ports[t.port].txns = [t]) (hs : t.sent = false) (hb : t.beatsLeft = 0)
    (hd : t.discardBeats = false) (hr : s.hostRefusal t (decide (t.size ≠ 0)) = some st) :
    State.launchAll 128 t.port s = s.refused t st := by
  have hl : s.launch t (decide (t.size ≠ 0)) = s.refused t st := by
    simp only [State.refused, State.launch, hr, State.setTxns, State.modPort, hp, List.map_cons, List.map_nil, if_true]
    rfl
  rw [launchAll_some (by rw [hp]; exact firstLaunch_ready hs hb hd), hl]
  exact launchAll_none ((congrArg _ (State.txns_setTxns s t.port _)).trans
    (firstLaunch_sent (t := t.refusedWith st) rfl))

/-- A request of this die's own range goes onto the crossbar (R28). -/
theorem ingress_own (hk : r.src.kind = none) (hf : s.pwr.failed = false) (hr : s.route r.addr = .own l)
    (hsd : s.shutdown = false)
    (hp : (s.gf Reg.CACHE_FENCE Fld.CACHE_FENCE_PENDING).testBit (s.sliceOf r.addr) = false) :
    s.ingress r = (s.stamp r.id 1 (s.now r.src.island)).modPaths fun x => { x with reqXbar := x.reqXbar ++ [r] } := by
  have hd : s.drawFor r = s := by simp [State.drawFor, hk]
  have hr' (i k z : Nat) : (s.stamp i k z).route r.addr = .own l := hr
  have hsd' (i k z : Nat) : (s.stamp i k z).shutdown = false := hsd
  have hp' (i k z : Nat) : ((s.stamp i k z).gf Reg.CACHE_FENCE Fld.CACHE_FENCE_PENDING).testBit
      ((s.stamp i k z).sliceOf r.addr) = false := hp
  simp [State.ingress, hd, hr', hsd', hp', hf]

/-- The request of a transaction of one line. -/
def HostTxn.lineReq (t : HostTxn) : Req :=
  { id := t.id, part := 0, src := .host t.port, op := t.op, addr := t.addr, size := min t.size 128,
    hint := t.hint, discard := t.discard && decide (t.hint = .last), urgent := t.urgent && decide (t.op = .read),
    attr := t.attr, cls := hostClass t.op t.urgent, data := t.data.take 128, strb := t.strb.take 128,
    prefetch := false, count := natBits t.attr 8 8, deckle := 0, torn := t.torn }

/-- The request of `t`, the only transaction of its port, on the crossbar, its responses outstanding. -/
def State.sentOwn (s : State) (t : HostTxn) : State :=
  ((s.setTxns t.port [t.launched]).stamp t.id 1 (s.now (.hostPort t.port))).modPaths fun x =>
    { x with reqXbar := x.reqXbar ++ [t.lineReq] }

theorem parts_of_line (h : t.size ≤ 128) : t.parts = [t.lineReq] := by
  simp [HostTxn.parts, lineParts, h, HostTxn.lineReq]

theorem launchAll_own (hp : s.paths.ports[t.port].txns = [t]) (hs : t.sent = false) (hb : t.beatsLeft = 0)
    (hd : t.discardBeats = false) (hz : t.size ≤ 128) (hr : s.hostRefusal t (decide (t.size ≠ 0)) = none)
    (hf : s.pwr.failed = false) (ho : s.route t.addr = .own l) (hsd : s.shutdown = false)
    (hpend : (s.gf Reg.CACHE_FENCE Fld.CACHE_FENCE_PENDING).testBit (s.sliceOf t.addr) = false) :
    State.launchAll 128 t.port s = s.sentOwn t := by
  have hl : s.launch t (decide (t.size ≠ 0)) = (s.setTxns t.port [t.launched]).ingress t.lineReq := by
    simp only [State.launch, hr, parts_of_line hz, State.setTxns, State.modPort, hp, List.map_cons, List.map_nil,
      if_true, List.foldl_cons, List.foldl_nil, HostTxn.launched]
  have hin : (s.setTxns t.port [t.launched]).ingress t.lineReq = s.sentOwn t :=
    ingress_own (s := s.setTxns t.port [t.launched]) (r := t.lineReq) rfl hf ho hsd hpend
  rw [launchAll_some (by rw [hp]; exact firstLaunch_ready hs hb hd), hl, hin]
  exact launchAll_none ((congrArg _ (State.txns_setTxns s t.port _)).trans (firstLaunch_sent (t := t.launched) rfl))

end single

/-! ### HOST_REQUEST (R50 to R53) -/

/-- The transaction that a HOST_REQUEST begins. -/
def State.newTxn (s : State) (n : Fin 16) (addr : BitVec 52) (op : BitVec 4) (size : BitVec 3) (hint : BitVec 2)
    (disc urg : Bool) (tag : BitVec 7) (attr : BitVec 16) : HostTxn :=
  let o := HostOp.ofCode op.toNat
  let sz := (sizeOfCode size.toNat).getD 0
  { id := s.paths.nextId, port := n, tag := tag.toNat, op := o, addr := addr.toNat, size := sz,
    hint := Hint.ofCode hint.toNat, discard := disc, urgent := urg, attr := attr.toNat,
    beatsLeft := if sz = 0 then 0 else if !o.writes then 0 else if sz = 256 then 2 else 1,
    discardBeats := o.writes && decide (sz = 0), strobeOut := false, data := [], strb := [],
    sent := false, partsLeft := 0, status := .ok, hasData := false, rsp := [], ready := false, beatsOut := 0 }

/-- A port has taken a transaction; its request may have been tagged (R519). -/
def State.taken (s : State) (n : Fin 16) (x : HostTxn) (rec : TagRec) : State :=
  ((s.draw n 0 rec).modPort n fun h => { h with txns := h.txns ++ [x] }).skipIds 1

section request

variable {s : State} {n : Fin 16} {addr : BitVec 52} {op : BitVec 4} {size : BitVec 3} {hint : BitVec 2}
  {disc urg : Bool} {tag : BitVec 7} {attr : BitVec 16}

theorem exec_hostRequest (hl : s.live (.hostPort n) = true) (hr : s.portReady n = true)
    (hq : s.paths.ports[n].queued (HostOp.ofCode op.toNat).writes < 64) :
    ∃ rec, exec (.hostRequest n addr op size hint disc urg tag attr) s =
      .next (State.launchAll 128 n (s.taken n (s.newTxn n addr op size hint disc urg tag attr) rec)) := by
  have hc : s.portReady n = true ∧ s.paths.ports[n].queued (HostOp.ofCode op.toNat).writes < 64 := ⟨hr, hq⟩
  exact ⟨_, congrArg Host.Outcome.next ((State.onLive_true hl).trans (if_pos hc))⟩

theorem exec_hostRequest_full (hq : 64 ≤ s.paths.ports[n].queued (HostOp.ofCode op.toNat).writes) :
    exec (.hostRequest n addr op size hint disc urg tag attr) s = .next s := by
  have hc : ¬(s.portReady n = true ∧ s.paths.ports[n].queued (HostOp.ofCode op.toNat).writes < 64) := by omega
  have hs : hostRequest n addr op size hint disc urg tag attr s = s := if_neg hc
  show Host.Outcome.next (s.onLive _ (hostRequest n addr op size hint disc urg tag attr s)) = _
  rw [hs, State.onLive, ite_self]

variable {x : HostTxn} {rec : TagRec}

theorem taken_txns : (s.taken n x rec).paths.ports[n].txns = s.paths.ports[n].txns ++ [x] := by
  have hport := State.ports_modPort (s.draw n 0 rec) n n fun h => { h with txns := h.txns ++ [x] }
  rw [if_pos rfl, State.paths_draw] at hport
  exact congrArg HostPort.txns hport

theorem taken_ports_ne {m : Fin 16} (h : m ≠ n) : (s.taken n x rec).paths.ports[m] = s.paths.ports[m] := by
  have hport := State.ports_modPort (s.draw n 0 rec) n m fun h => { h with txns := h.txns ++ [x] }
  rwa [if_neg h, State.paths_draw] at hport

theorem taken_reqXbar : (s.taken n x rec).paths.reqXbar = s.paths.reqXbar := by
  simp [State.taken, State.skipIds, State.modPort, State.paths_draw]

theorem taken_slices : (s.taken n x rec).paths.slices = s.paths.slices := by
  simp [State.taken, State.skipIds, State.modPort, State.paths_draw]

theorem taken_keeps : Keeps s (s.taken n x rec) [.paths, .tags] :=
  State.skipIds_keeps _ _ (State.modPort_keeps _ _ _ (State.draw_keeps _ _ _ _ (Keeps.refl _ _) (by simp)) (by simp))
    (by simp)

theorem taken_keepsRegs : KeepsRegs s (s.taken n x rec) tagRegs :=
  ((KeepsRegs.refl s _).draw (List.Subset.refl _) _ _ _).of_regs rfl

end request

end Sys2Proof.Machine
end

section
/-! SUPPORT. The clauses of O25, and the obligation. -/

namespace Sys2Proof.Machine

/-! ### The checks of the ingress (R51) -/

theorem sizeOfCode_ne_zero {c sz : Nat} (h : sizeOfCode c = some sz) : sz ≠ 0 := by
  unfold sizeOfCode at h
  split at h <;> simp at h <;> omega

section refusal

variable {s : State} {t : HostTxn} {l : Nat}

theorem hostRefusal_own (hop : t.op ≠ .reserved) (hz : t.size ≠ 0) (ha : t.addr % t.size = 0)
    (hs : t.strobeOut = false) (hr : s.route t.addr = .own l) (hsd : s.shutdown = false) :
    s.hostRefusal t (decide (t.size ≠ 0)) = none := by
  simp [State.hostRefusal, hop, hz, ha, hs, hr, hsd]

theorem hostRefusal_hole (hop : t.op ≠ .reserved) (hz : t.size ≠ 0) (ha : t.addr % t.size = 0)
    (hs : t.strobeOut = false) (hr : s.route t.addr = .hole) :
    s.hostRefusal t (decide (t.size ≠ 0)) = some .absent := by
  simp [State.hostRefusal, hop, hz, ha, hs, hr]

theorem hostRefusal_size (hz : t.size = 0) : s.hostRefusal t (decide (t.size ≠ 0)) = some .badRequest := by
  simp [State.hostRefusal, hz]

end refusal

/-! ### A port whose only request leaves it, or is answered at once (R51, R53) -/

section

variable {s0 s : State} {t : HostTxn} {st : Status} {ps : List Region}

theorem sentOwn_keeps (h : Keeps s0 s ps) (mp : Region.paths ∈ ps) (mt : Region.tags ∈ ps) :
    Keeps s0 (s.sentOwn t) ps :=
  State.modPaths_keeps _ _ (State.stamp_keeps _ _ _ _ (State.modPort_keeps _ _ _ h mp) mt) mp

theorem refused_keeps (h : Keeps s0 s ps) (mp : Region.paths ∈ ps) (mt : Region.tags ∈ ps) :
    Keeps s0 (s.refused t st) ps :=
  State.modTag_keeps _ _ _ (State.modPort_keeps _ _ _ h mp) mt

theorem sentOwn_txns : (s.sentOwn t).paths.ports[t.port].txns = [t.launched] := State.txns_setTxns s t.port _

theorem refused_txns : (s.refused t st).paths.ports[t.port].txns = [t.refusedWith st] :=
  State.txns_setTxns s t.port _

theorem sentOwn_ports_ne {m : Fin 16} (h : m ≠ t.port) : (s.sentOwn t).paths.ports[m] = s.paths.ports[m] :=
  State.ports_setTxns_ne s _ h

theorem refused_ports_ne {m : Fin 16} (h : m ≠ t.port) : (s.refused t st).paths.ports[m] = s.paths.ports[m] :=
  State.ports_setTxns_ne s _ h

theorem sentOwn_regs : (s.sentOwn t).regs = s.regs := rfl

theorem refused_regs : (s.refused t st).regs = s.regs := rfl

theorem sentOwn_slices : (s.sentOwn t).paths.slices = s.paths.slices := rfl

theorem sentOwn_reqXbar : (s.sentOwn t).paths.reqXbar = s.paths.reqXbar ++ [t.lineReq] := rfl

theorem refused_reqXbar : (s.refused t st).paths.reqXbar = s.paths.reqXbar := rfl

end

/-! ### A request at an idle port (R28, R50, R51, R53) -/

section request

variable {s : State} {n : Fin 16} {x : HostTxn} {rec : TagRec} {st : Status} {l : Nat}

theorem rd_taken {o : Nat} (ho : o < 0x1a0000) : (s.taken n x rec).rd o = s.rd o :=
  rd_of_keepsTagRegs taken_keepsRegs ho

theorem route_taken (a : Nat) : (s.taken n x rec).route a = s.route a := route_of_keepsTagRegs taken_keepsRegs a

theorem shutdown_taken : (s.taken n x rec).shutdown = s.shutdown := by
  have hrd : (s.taken n x rec).rd Reg.THERM_STATUS = s.rd Reg.THERM_STATUS := rd_taken (by decide)
  unfold State.shutdown State.bit State.gf
  rw [hrd]

theorem fence_taken (f : Fld) : (s.taken n x rec).gf Reg.CACHE_FENCE f = s.gf Reg.CACHE_FENCE f := by
  simp only [State.gf, rd_taken (o := Reg.CACHE_FENCE) (by decide)]

theorem sliceOf_taken (a : Nat) : (s.taken n x rec).sliceOf a = s.sliceOf a := by
  simp only [State.sliceOf, State.fenced, fence_taken]

theorem taken_only (he : s.paths.ports[n].txns = []) : (s.taken n x rec).paths.ports[n].txns = [x] := by
  rw [taken_txns, he, List.nil_append]

/-- A request of this die's own range that an idle port takes leaves it (R53). -/
theorem gives_sentOwn {c : Instr} (hport : x.port = n)
    (hex : ∃ rec, exec c s = .next (State.launchAll 128 n (s.taken n x rec)))
    (he : s.paths.ports[n].txns = []) (hs : x.sent = false) (hb : x.beatsLeft = 0) (hd : x.discardBeats = false)
    (hop : x.op ≠ .reserved) (hz : x.size ≠ 0) (hz' : x.size ≤ 128) (ha : x.addr % x.size = 0)
    (ho : x.strobeOut = false) (hr : s.route x.addr = .own l) (hsd : s.shutdown = false) (hf : s.pwr.failed = false)
    (hp : (s.gf Reg.CACHE_FENCE Fld.CACHE_FENCE_PENDING).testBit (s.sliceOf x.addr) = false) :
    Gives c s fun t => t.paths.reqXbar = s.paths.reqXbar ++ [x.lineReq] ∧ t.paths.ports[n].txns = [x.launched] ∧
      (∀ m, m ≠ n → t.paths.ports[m] = s.paths.ports[m]) ∧ t.paths.slices = s.paths.slices ∧
      Keeps s t [.paths, .tags] ∧ KeepsRegs s t tagRegs := by
  subst hport
  obtain ⟨rec, hex⟩ := hex
  have hroute : (s.taken x.port x rec).route x.addr = .own l := (route_taken _).trans hr
  have hdown : (s.taken x.port x rec).shutdown = false := shutdown_taken.trans hsd
  have hpwr : (s.taken x.port x rec).pwr = s.pwr := taken_keeps .pwr (by simp)
  have hgo : State.launchAll 128 x.port (s.taken x.port x rec) = (s.taken x.port x rec).sentOwn x :=
    launchAll_own (taken_only he) hs hb hd hz' (hostRefusal_own hop hz ha ho hroute hdown) (by rw [hpwr, hf]) hroute
      hdown (by rw [fence_taken, sliceOf_taken, hp])
  refine ⟨_, hex.trans (congrArg Host.Outcome.next hgo), ?_, sentOwn_txns, fun m hm =>
    (sentOwn_ports_ne hm).trans (taken_ports_ne hm), sentOwn_slices.trans taken_slices,
    sentOwn_keeps taken_keeps (by simp) (by simp), taken_keepsRegs.of_regs sentOwn_regs⟩
  rw [sentOwn_reqXbar, taken_reqXbar]

/-- A request that the ingress refuses is answered at once (R51). -/
theorem gives_refused {c : Instr} (hport : x.port = n)
    (hex : ∃ rec, exec c s = .next (State.launchAll 128 n (s.taken n x rec)))
    (he : s.paths.ports[n].txns = []) (hs : x.sent = false) (hb : x.beatsLeft = 0) (hd : x.discardBeats = false)
    (hr : ∀ rec, (s.taken n x rec).hostRefusal x (decide (x.size ≠ 0)) = some st) :
    Gives c s fun t => t.paths.reqXbar = s.paths.reqXbar ∧ t.paths.ports[n].txns = [x.refusedWith st] ∧
      (∀ m, m ≠ n → t.paths.ports[m] = s.paths.ports[m]) ∧ Keeps s t [.paths, .tags] ∧ KeepsRegs s t tagRegs := by
  subst hport
  obtain ⟨rec, hex⟩ := hex
  have hgo : State.launchAll 128 x.port (s.taken x.port x rec) = (s.taken x.port x rec).refused x st :=
    launchAll_refused (taken_only he) hs hb hd (hr rec)
  exact ⟨_, hex.trans (congrArg Host.Outcome.next hgo), refused_reqXbar.trans taken_reqXbar, refused_txns, fun m hm =>
    (refused_ports_ne hm).trans (taken_ports_ne hm), refused_keeps taken_keeps (by simp) (by simp),
    taken_keepsRegs.of_regs refused_regs⟩

/-- A request that waits for its data stays where it is (R53). -/
theorem gives_waiting {c : Instr} (hex : ∃ rec, exec c s = .next (State.launchAll 128 n (s.taken n x rec)))
    (he : s.paths.ports[n].txns = []) (hb : x.beatsLeft ≠ 0) :
    Gives c s fun t => t.paths.reqXbar = s.paths.reqXbar ∧ t.paths.ports[n].txns = [x] ∧
      (∀ m, m ≠ n → t.paths.ports[m] = s.paths.ports[m]) ∧ Keeps s t [.paths, .tags] ∧ KeepsRegs s t tagRegs := by
  obtain ⟨rec, hex⟩ := hex
  have hstay : State.launchAll 128 n (s.taken n x rec) = s.taken n x rec :=
    launchAll_none (by rw [taken_only he]; exact firstLaunch_waiting hb)
  exact ⟨_, hex.trans (congrArg Host.Outcome.next hstay), taken_reqXbar, taken_only he, fun m hm => taken_ports_ne hm,
    taken_keeps, taken_keepsRegs⟩

end request

section clauses

variable (s : State) (n : Fin 16) (addr : BitVec 52) (size : BitVec 3) (hint : BitVec 2) (disc urg : Bool)
  (tag : BitVec 7) (attr : BitVec 16)

theorem queued_of_idle {s : State} {n : Fin 16} (he : s.paths.ports[n].txns = []) (w : Bool) :
    s.paths.ports[n].queued w < 64 := by
  rw [HostPort.queued, he, List.filter_nil, List.length_nil]
  decide

theorem newTxn_size {op : BitVec 4} {sz : Nat} (hsz : sizeOfCode size.toNat = some sz) :
    (s.newTxn n addr op size hint disc urg tag attr).size = sz := by
  simp [State.newTxn, hsz]

theorem newTxn_read : (s.newTxn n addr 0 size hint disc urg tag attr).op = .read ∧
    (s.newTxn n addr 0 size hint disc urg tag attr).beatsLeft = 0 := by
  simp [State.newTxn, HostOp.ofCode, HostOp.writes]

theorem hostRequest_read_own (sz l : Nat) (hl : s.live (.hostPort n) = true) (hr : s.portReady n = true)
    (he : s.paths.ports[n].txns = []) (hsz : sizeOfCode size.toNat = some sz) (hle : sz ≤ 128)
    (ha : addr.toNat % sz = 0) (ho : s.route addr.toNat = .own l) (hsd : s.shutdown = false)
    (hf : s.pwr.failed = false)
    (hp : (s.gf Reg.CACHE_FENCE Fld.CACHE_FENCE_PENDING).testBit (s.sliceOf addr.toNat) = false) :
    Gives (.hostRequest n addr 0 size hint disc urg tag attr) s fun t =>
      t.paths.reqXbar.length = s.paths.reqXbar.length + 1 ∧ t.paths.reqXbar.getLast?.map (fun r => (r.src, r.op,
        r.addr, r.size, r.hint, r.cls)) = some (Src.host n, HostOp.read, addr.toNat, sz, Hint.ofCode hint.toNat, if urg
        then 0 else 1) ∧ t.paths.ports[n].txns.map (fun x => (x.tag, x.sent, x.partsLeft, x.ready)) = [(tag.toNat,
        true, 1, false)] ∧ (∀ m, m ≠ n → t.paths.ports[m] = s.paths.ports[m]) ∧ t.paths.slices = s.paths.slices ∧ Keeps
        s t [.paths, .tags] ∧ KeepsRegs s t tagRegs := by
  have hxz := newTxn_size s n addr size hint disc urg tag attr (op := 0) hsz
  obtain ⟨hop, hbeats⟩ := newTxn_read s n addr size hint disc urg tag attr
  obtain ⟨t, ht, hreq, htxns, hrest⟩ := gives_sentOwn
    (x := s.newTxn n addr 0 size hint disc urg tag attr) (l := l) (n := n) rfl
    (exec_hostRequest hl hr (queued_of_idle he _)) he rfl hbeats rfl (by rw [hop]; nofun)
    (hxz ▸ sizeOfCode_ne_zero hsz) (hxz ▸ hle) (hxz.symm ▸ ha) rfl ho hsd hf hp
  refine ⟨t, ht, ?_, ?_, ?_, hrest⟩
  · rw [hreq, List.length_append, List.length_singleton]
  · rw [hreq, List.getLast?_concat]
    simp only [Option.map_some, HostTxn.lineReq, hostClass, hop, hxz, Nat.min_eq_left hle, true_and]
    rfl
  · rw [htxns]
    simp only [HostTxn.launched, parts_of_line (hxz.le.trans hle), List.length_singleton]
    rfl

theorem hostRequest_read_hole (sz : Nat) (hl : s.live (.hostPort n) = true) (hr : s.portReady n = true)
    (he : s.paths.ports[n].txns = []) (hsz : sizeOfCode size.toNat = some sz) (ha : addr.toNat % sz = 0)
    (ho : s.route addr.toNat = .hole) :
    Gives (.hostRequest n addr 0 size hint disc urg tag attr) s fun t =>
      t.paths.reqXbar = s.paths.reqXbar ∧ t.paths.ports[n].txns.map (fun x => (x.tag, x.ready, x.status, x.hasData)) =
        [(tag.toNat, true, Status.absent, false)] ∧ (∀ m, m ≠ n → t.paths.ports[m] = s.paths.ports[m]) ∧ Keeps s t
        [.paths, .tags] ∧ KeepsRegs s t tagRegs := by
  have hxz := newTxn_size s n addr size hint disc urg tag attr (op := 0) hsz
  obtain ⟨hop, hbeats⟩ := newTxn_read s n addr size hint disc urg tag attr
  obtain ⟨t, ht, hreq, htxns, hrest⟩ := gives_refused (x := s.newTxn n addr 0 size hint disc urg tag attr) (n := n) rfl
    (exec_hostRequest hl hr (queued_of_idle he _)) he rfl hbeats rfl fun rec =>
      hostRefusal_hole (by rw [hop]; nofun) (hxz ▸ sizeOfCode_ne_zero hsz) (hxz.symm ▸ ha) rfl
        ((route_taken _).trans ho)
  exact ⟨t, ht, hreq, by rw [htxns]; rfl, hrest⟩

theorem hostRequest_read_badSize (hl : s.live (.hostPort n) = true) (hr : s.portReady n = true)
    (he : s.paths.ports[n].txns = []) (hsz : sizeOfCode size.toNat = none) :
    Gives (.hostRequest n addr 0 size hint disc urg tag attr) s fun t =>
      t.paths.reqXbar = s.paths.reqXbar ∧ t.paths.ports[n].txns.map (fun x => (x.tag, x.ready, x.status)) =
        [(tag.toNat, true, Status.badRequest)] ∧ (∀ m, m ≠ n → t.paths.ports[m] = s.paths.ports[m]) ∧ Keeps s t
        [.paths, .tags] ∧ KeepsRegs s t tagRegs := by
  obtain ⟨-, hbeats⟩ := newTxn_read s n addr size hint disc urg tag attr
  obtain ⟨t, ht, hreq, htxns, hrest⟩ := gives_refused (x := s.newTxn n addr 0 size hint disc urg tag attr) (n := n) rfl
    (exec_hostRequest hl hr (queued_of_idle he _)) he rfl hbeats rfl fun rec =>
      hostRefusal_size (by simp [State.newTxn, hsz])
  exact ⟨t, ht, hreq, by rw [htxns]; rfl, hrest⟩

theorem hostRequest_write_waits (sz : Nat) (hl : s.live (.hostPort n) = true) (hr : s.portReady n = true)
    (he : s.paths.ports[n].txns = []) (hsz : sizeOfCode size.toNat = some sz) :
    Gives (.hostRequest n addr 1 size hint disc urg tag attr) s fun t =>
      t.paths.reqXbar = s.paths.reqXbar ∧ t.paths.ports[n].txns.map (fun x => (x.tag, x.op, x.addr, x.size,
        x.beatsLeft, x.sent)) = [(tag.toNat, HostOp.write, addr.toNat, sz, if sz = 256 then 2 else 1, false)] ∧ (∀ m, m
        ≠ n → t.paths.ports[m] = s.paths.ports[m]) ∧ Keeps s t [.paths, .tags] ∧ KeepsRegs s t tagRegs := by
  have hbeats : (s.newTxn n addr 1 size hint disc urg tag attr).beatsLeft = if sz = 256 then 2 else 1 := by
    simp [State.newTxn, hsz, sizeOfCode_ne_zero hsz, HostOp.ofCode, HostOp.writes]
  obtain ⟨t, ht, hreq, htxns, hrest⟩ := gives_waiting (x := s.newTxn n addr 1 size hint disc urg tag attr)
    (exec_hostRequest hl hr (queued_of_idle he _)) he (by rw [hbeats]; split <;> simp)
  refine ⟨t, ht, hreq, ?_, hrest⟩
  rw [htxns, List.map_singleton, hbeats]
  simp [State.newTxn, hsz, HostOp.ofCode]

theorem hostRequest_any (op : BitVec 4) (hl : s.live (.hostPort n) = true) (hr : s.portReady n = true)
    (hq : s.paths.ports[n].queued (HostOp.ofCode op.toNat).writes < 64) :
    Gives (.hostRequest n addr op size hint disc urg tag attr) s fun t =>
      (∃ x ∈ t.paths.ports[n].txns, x.tag = tag.toNat ∧ x.op = HostOp.ofCode op.toNat ∧ x.addr = addr.toNat ∧ x.size =
        (sizeOfCode size.toNat).getD 0) ∧ t.paths.ports[n].txns.length = s.paths.ports[n].txns.length + 1 ∧
        t.paths.slices = s.paths.slices ∧ Keeps s t [.inj, .paths, .ring, .tags] ∧ KeepsRegs s t pathRegs := by
  obtain ⟨rec, hex⟩ := exec_hostRequest (addr := addr) (size := size) (hint := hint) (disc := disc) (urg := urg)
    (tag := tag) (attr := attr) hl hr hq
  have hcarries := Carries.launchAll
    (Carries.refl (s.taken n (s.newTxn n addr op size hint disc urg tag attr) rec)) 128 n
  refine ⟨_, hex, ?_, ?_, hcarries.1.trans taken_slices, ?_,
    (taken_keepsRegs.mono tagRegs_subset_pathRegs).launchAll (List.Subset.refl _) _ _⟩
  · obtain ⟨y, hy, hyx⟩ := hcarries.exists_txn (n := n) (x := s.newTxn n addr op size hint disc urg tag attr)
      (by rw [taken_txns]; exact List.mem_append_right _ List.mem_cons_self)
    obtain ⟨-, htag, hop, haddr, hsize, -⟩ := HostTxn.asked_inj hyx
    exact ⟨y, hy, htag, hop, haddr, hsize⟩
  · rw [hcarries.length_txns, taken_txns, List.length_append, List.length_singleton]
  · exact State.launchAll_keeps _ _ _ (fun r hr => taken_keeps r (by simp_all)) (by simp) (by simp) (by simp) (by simp)

end clauses

/-! ### Write data (R50, R53) -/

section beat

variable {x : HostTxn} {data : List Byte} {strb : List Bool}

theorem map_getD_upto {α : Type} {l : List α} {n : Nat} (h : l.length = n) (d : α) :
    (upto n).map (fun b => l.getD (b % n) d) = l := by
  subst h
  refine List.ext_getElem (by simp) fun i hi _ => ?_
  have hlt : i < l.length := by simpa using hi
  simp [Nat.mod_eq_of_lt hlt, hlt]

/-- A whole line's beat gives its lanes in order, and no strobe can lie outside the line. -/
theorem takeBeat_line (hz : x.size = 128) (ha : x.addr % 128 = 0) (hb : x.beatsLeft = 1) (hs : x.strobeOut = false)
    (hd : x.data = []) (ht : x.strb = []) (hdl : data.length = 128) (htl : strb.length = 128) :
    x.takeBeat data strb = { x with beatsLeft := 0, data := data, strb := strb } := by
  have hin : ∀ l < 128, ((upto 128).any fun b => decide (b % 128 = l)) = true := fun l hl =>
    List.any_eq_true.mpr ⟨l, List.mem_range.mpr hl, decide_eq_true (Nat.mod_eq_of_lt hl)⟩
  have hout : ((upto 128).any fun l =>
      strb.getD l false && !((upto 128).any fun b => decide (b % 128 = l))) = false := by
    rw [List.any_eq_false]
    intro l hl
    rw [hin l (List.mem_range.mp hl)]
    simp
  simp only [HostTxn.takeBeat, hz, ha, hb, hs, hd, ht, Nat.zero_add, Nat.min_self, List.nil_append, hout,
    map_getD_upto hdl, map_getD_upto htl, Bool.or_false, Nat.sub_self]

end beat

section writeData

variable (s : State) (n : Fin 16) (x : HostTxn) (data : List Byte) (strb : List Bool) (last : Bool)

/-- A transaction after one more beat of its data, or of what is thrown away. -/
def HostTxn.withBeat (x : HostTxn) (data : List Byte) (strb : List Bool) (last : Bool) : HostTxn :=
  if x.discardBeats then { x with discardBeats := !last } else x.takeBeat data strb

theorem exec_hostWriteDataBeat (hl : s.live (.hostPort n) = true)
    (hx : (s.paths.ports[n].txns.find? fun y => y.discardBeats || decide (0 < y.beatsLeft)) = some x) :
    exec (.hostWriteDataBeat n data strb last) s = .next (State.launchAll 128 n (s.modPort n fun h =>
      { h with txns := h.txns.map fun y => if y.id = x.id then x.withBeat data strb last else y })) := by
  refine congrArg Host.Outcome.next ((State.onLive_true hl).trans ?_)
  unfold hostWriteDataBeat
  rw [hx]
  rfl

theorem hostWriteDataBeat_line (l : Nat) (hl : s.live (.hostPort n) = true) (htx : s.paths.ports[n].txns = [x])
    (hxp : x.port = n) (hop : x.op = .write) (hz : x.size = 128) (ha : x.addr % 128 = 0) (hb : x.beatsLeft = 1)
    (hdb : x.discardBeats = false) (hso : x.strobeOut = false) (hd : x.data = []) (hst : x.strb = [])
    (hsent : x.sent = false) (hdl : data.length = 128) (hsl : strb.length = 128) (ho : s.route x.addr = .own l)
    (hsd : s.shutdown = false) (hf : s.pwr.failed = false)
    (hp : (s.gf Reg.CACHE_FENCE Fld.CACHE_FENCE_PENDING).testBit (s.sliceOf x.addr) = false) :
    Gives (.hostWriteDataBeat n data strb last) s fun t =>
      t.paths.reqXbar.length = s.paths.reqXbar.length + 1 ∧ t.paths.reqXbar.getLast?.map (fun r => (r.src, r.op,
        r.addr, r.size, r.data, r.strb)) = some (Src.host n, HostOp.write, x.addr, 128, data, strb) ∧
        t.paths.ports[n].txns.map (fun y => (y.tag, y.sent, y.partsLeft)) = [(x.tag, true, 1)] ∧ (∀ m, m ≠ n →
        t.paths.ports[m] = s.paths.ports[m]) ∧ Keeps s t [.paths, .tags] ∧ KeepsRegs s t [] := by
  subst hxp
  have hfull : x.withBeat data strb last = { x with beatsLeft := 0, data := data, strb := strb } := by
    simp only [HostTxn.withBeat, hdb, Bool.false_eq_true, if_false, takeBeat_line hz ha hb hso hd hst hdl hsl]
  have hex := exec_hostWriteDataBeat s x.port x data strb last hl (by rw [htx]; simp [hb])
  rw [hfull] at hex
  set y : HostTxn := { x with beatsLeft := 0, data := data, strb := strb } with hy
  have hbeaten : (s.modPort x.port fun h => { h with txns := h.txns.map fun y' => if y'.id = x.id then y else y' }) =
      s.setTxns x.port [y] := by
    simp only [State.modPort, State.setTxns, htx, List.map_cons, List.map_nil, if_true]
  have hgo : State.launchAll 128 x.port (s.setTxns x.port [y]) = (s.setTxns x.port [y]).sentOwn y :=
    launchAll_own (t := y) (State.txns_setTxns s x.port _) hsent rfl hdb hz.le
      (hostRefusal_own (t := y) (by simp [hy, hop]) (by simp [hy, hz]) (by simp [hy, hz, ha]) hso ho hsd) hf ho hsd hp
  refine ⟨_, hex.trans (congrArg Host.Outcome.next ((congrArg _ hbeaten).trans hgo)), ?_, ?_, ?_, fun m hm => ?_,
    sentOwn_keeps (setTxns_keeps s x.port _) (by simp) (by simp), (KeepsRegs.refl _ _).of_regs rfl⟩
  · simp [sentOwn_reqXbar, State.setTxns, State.modPort]
  · have hline : (y.lineReq.src, y.lineReq.op, y.lineReq.addr, y.lineReq.size, y.lineReq.data, y.lineReq.strb) =
        (Src.host x.port, HostOp.write, x.addr, 128, data, strb) := by
      simp [HostTxn.lineReq, hy, hop, hz, hdl, hsl]
    simp only [sentOwn_reqXbar, List.getLast?_append, List.getLast?_singleton, Option.some_or, Option.map_some, hline]
  · have htxns : ((s.setTxns x.port [y]).sentOwn y).paths.ports[x.port].txns = [y.launched] := sentOwn_txns (t := y)
    have hparts : y.launched.partsLeft = 1 := by simp [HostTxn.launched, parts_of_line (t := y) hz.le]
    rw [htxns, List.map_singleton, hparts]
    rfl
  · exact (sentOwn_ports_ne (t := y) hm).trans (State.ports_setTxns_ne s _ hm)

theorem hostWriteDataBeat_any (hl : s.live (.hostPort n) = true)
    (hx : (s.paths.ports[n].txns.find? fun y => y.discardBeats || decide (0 < y.beatsLeft)) = some x) :
    Gives (.hostWriteDataBeat n data strb last) s fun t =>
      (∃ y ∈ t.paths.ports[n].txns, y.id = x.id ∧ (x.discardBeats = true → y.discardBeats = !last) ∧ (x.discardBeats =
        false → y.beatsLeft = x.beatsLeft - 1 ∧ y.data.length = x.data.length + min x.size 128)) ∧
        t.paths.ports[n].txns.length = s.paths.ports[n].txns.length ∧ t.paths.slices = s.paths.slices ∧ Keeps s t
        [.inj, .paths, .ring, .tags] ∧ KeepsRegs s t pathRegs := by
  set u := s.modPort n fun h =>
    { h with txns := h.txns.map fun y => if y.id = x.id then x.withBeat data strb last else y } with hu
  have hutx : u.paths.ports[n].txns =
      s.paths.ports[n].txns.map fun y => if y.id = x.id then x.withBeat data strb last else y := by
    rw [hu, State.ports_modPort, if_pos rfl]
  have hcarries := Carries.launchAll (Carries.refl u) 128 n
  refine ⟨_, exec_hostWriteDataBeat s n x data strb last hl hx, ?_, ?_, hcarries.1, ?_,
    KeepsRegs.launchAll (t := u) ((KeepsRegs.refl s _).of_regs rfl) (List.Subset.refl _) _ _⟩
  · obtain ⟨y, hy, hyx⟩ := hcarries.exists_txn (n := n) (x := x.withBeat data strb last)
      (by rw [hutx]; exact List.mem_map.mpr ⟨x, List.mem_of_find?_eq_some hx, if_pos rfl⟩)
    obtain ⟨hid, -, -, -, -, hleft, hdisc, hdata⟩ := HostTxn.asked_inj hyx
    refine ⟨y, hy, hid.trans ?_, fun hd => hdisc.trans ?_, fun hd => ⟨hleft.trans ?_, ?_⟩⟩
    · unfold HostTxn.withBeat
      split <;> rfl
    · rw [HostTxn.withBeat, if_pos hd]
    · simp [HostTxn.withBeat, hd, HostTxn.takeBeat]
    · simp [hdata, HostTxn.withBeat, hd, HostTxn.takeBeat]
  · exact (hcarries.length_txns n).trans (by rw [hutx, List.length_map])
  · exact State.launchAll_keeps _ _ u (State.modPort_keeps _ _ _ (Keeps.refl _ _) (by simp)) (by simp) (by simp)
      (by simp) (by simp)

end writeData

/-! ### Responses (R54) -/

section response

variable (s : State) (n : Fin 16) (x : HostTxn) (tag : BitVec 7)

/-- The next beat of a response (R54). -/
def HostTxn.nextBeat (x : HostTxn) : RspBeat :=
  { tag := x.tag, status := x.status, hasData := x.hasData,
    data := if x.hasData then (x.rsp.drop (128 * x.beatsOut)).take 128 else [],
    last := decide (x.beats ≤ x.beatsOut + 1) }

/-- A port after a beat of the response of `x`. -/
def State.beatOut (s : State) (n : Fin 16) (x : HostTxn) : State :=
  s.modPort n fun h =>
    { h with out := h.out ++ [x.nextBeat],
             txns := if x.beats ≤ x.beatsOut + 1 then h.txns.filter fun y => y.id ≠ x.id
               else h.txns.map fun y => if y.id = x.id then { y with beatsOut := y.beatsOut + 1 } else y }

theorem hostResponseBeat_eq (hx : s.paths.ports[n].answering tag.toNat = some x) :
    hostResponseBeat n tag s = if x.beats ≤ x.beatsOut + 1 then
      (s.beatOut n x).endTag x.id ((s.beatOut n x).now (.hostPort n)) x.status else s.beatOut n x := by
  unfold hostResponseBeat
  rw [hx]
  simp only [decide_eq_true_eq]
  rfl

theorem exec_hostResponseBeat (hl : s.live (.hostPort n) = true) :
    exec (.hostResponseBeat n tag) s = .next (hostResponseBeat n tag s) :=
  congrArg Host.Outcome.next (State.onLive_true hl)

theorem beatOut_port : (s.beatOut n x).paths.ports[n].out = s.paths.ports[n].out ++ [x.nextBeat] ∧
    (s.beatOut n x).paths.ports[n].txns =
      if x.beats ≤ x.beatsOut + 1 then s.paths.ports[n].txns.filter fun y => y.id ≠ x.id
      else s.paths.ports[n].txns.map fun y => if y.id = x.id then { y with beatsOut := y.beatsOut + 1 } else y := by
  rw [State.beatOut, State.ports_modPort, if_pos rfl]
  exact ⟨rfl, rfl⟩

theorem beatOut_ports_ne {m : Fin 16} (h : m ≠ n) : (s.beatOut n x).paths.ports[m] = s.paths.ports[m] := by
  rw [State.beatOut, State.ports_modPort, if_neg h]

theorem paths_hostResponseBeat (hx : s.paths.ports[n].answering tag.toNat = some x) :
    (hostResponseBeat n tag s).paths = (s.beatOut n x).paths := by
  rw [hostResponseBeat_eq s n x tag hx]
  split
  · exact State.paths_endTag _ _ _ _
  · rfl

theorem hostResponseBeat_last (hl : s.live (.hostPort n) = true)
    (hx : s.paths.ports[n].answering tag.toNat = some x) (hlast : x.beats ≤ x.beatsOut + 1) (ht : s.tags.live = []) :
    Gives (.hostResponseBeat n tag) s fun t =>
      t.paths.ports[n].out = s.paths.ports[n].out ++ [RspBeat.mk x.tag x.status x.hasData (if x.hasData then
        (x.rsp.drop (128 * x.beatsOut)).take 128 else []) true] ∧ t.paths.ports[n].txns = s.paths.ports[n].txns.filter
        (fun y => y.id ≠ x.id) ∧ (∀ m, m ≠ n → t.paths.ports[m] = s.paths.ports[m]) ∧ Keeps s t [.paths] ∧ KeepsRegs s
        t [] := by
  have hsame : hostResponseBeat n tag s = s.beatOut n x := by
    have htags : (s.beatOut n x).tags.live = [] := ht
    rw [hostResponseBeat_eq s n x tag hx, if_pos hlast]
    simp [State.endTag, htags]
  obtain ⟨hout, htxns⟩ := beatOut_port s n x
  refine ⟨_, (exec_hostResponseBeat s n tag hl).trans (congrArg Host.Outcome.next hsame), ?_, ?_, fun m hm =>
    beatOut_ports_ne s n x hm, State.modPort_keeps _ _ _ (Keeps.refl _ _) (by simp), (KeepsRegs.refl _ _).of_regs rfl⟩
  · rw [hout, HostTxn.nextBeat, decide_eq_true hlast]
  · rw [htxns, if_pos hlast]

theorem hostResponseBeat_any (hl : s.live (.hostPort n) = true)
    (hx : s.paths.ports[n].answering tag.toNat = some x) :
    Gives (.hostResponseBeat n tag) s fun t =>
      t.paths.ports[n].out = s.paths.ports[n].out ++ [RspBeat.mk x.tag x.status x.hasData (if x.hasData then
        (x.rsp.drop (128 * x.beatsOut)).take 128 else []) (decide (x.beats ≤ x.beatsOut + 1))] ∧ (x.beatsOut + 1 <
        x.beats → t.paths.ports[n].txns = s.paths.ports[n].txns.map (fun y => if y.id = x.id then
        { y with beatsOut := y.beatsOut + 1 } else y)) ∧ (∀ m, m ≠ n → t.paths.ports[m] = s.paths.ports[m]) ∧ Keeps s t
        [.paths, .tags] ∧ KeepsRegs s t tagRegs := by
  obtain ⟨hout, htxns⟩ := beatOut_port s n x
  have hp := paths_hostResponseBeat s n x tag hx
  have hregs : KeepsRegs s (s.beatOut n x) tagRegs := (KeepsRegs.refl _ _).of_regs rfl
  refine ⟨_, exec_hostResponseBeat s n tag hl, ?_, fun hmore => ?_, fun m hm => ?_,
    hostResponseBeat_keeps n tag s (Keeps.refl _ _) (by simp) (by simp), ?_⟩
  · rw [hp, hout]
    rfl
  · rw [hp, htxns, if_neg (by omega)]
  · rw [hp]
    exact beatOut_ports_ne s n x hm
  · rw [hostResponseBeat_eq s n x tag hx]
    exact (hregs.endTag (List.Subset.refl _) _ _ _).ite hregs

end response

/-- Settles O25, clause by clause. -/
theorem hostPortTraffic : Obligations.HostPortTraffic := by
  unfold Obligations.HostPortTraffic
  exact ⟨hostRequest_read_own, hostRequest_read_hole, hostRequest_read_badSize, hostRequest_write_waits,
    fun s n addr op size hint disc urg tag attr hq => ⟨s, exec_hostRequest_full hq, rfl⟩,
    fun s n x data strb last l => hostWriteDataBeat_line s n x data strb last l, hostResponseBeat_last,
    fun s n addr op size hint disc urg tag attr => hostRequest_any s n addr size hint disc urg tag attr op,
    hostWriteDataBeat_any, hostResponseBeat_any⟩

end Sys2Proof.Machine
end

section
/-! SUPPORT. The registers that the drain of everything that waits for the stack can change (R46, R195, R434). -/

namespace Sys2Proof.Machine

section

variable {s0 s : State} {rs : List Nat}

/-! ### Error status and redirect entries (R434 to R451) -/

theorem KeepsRegs.fec (h : KeepsRegs s0 s rs) (m : fecRegs ⊆ rs) (k : FecKind) (phys : Bool) (unit addr : Nat) :
    KeepsRegs s0 (s.fec k phys unit addr) rs :=
  (h.bumpSat (m (by simp)) _).ite
    (((h.wr (m (by simp)) _).wr64 (m (by simp)) (m (by simp)) _).wr64 (m (by simp)) (m (by simp)) _)

theorem KeepsRegs.fecAccess (h : KeepsRegs s0 s rs) (m : fecRegs ⊆ rs) (k : FecKind) (a : Access) :
    KeepsRegs s0 (s.fecAccess k a) rs := by
  unfold State.fecAccess
  split <;> exact h.fec m _ _ _ _

theorem KeepsRegs.rowEvent (h : KeepsRegs s0 s rs) {l : Loc} (m : Reg.PC_REF_STATUS (pcFin l.pc) ∈ rs) (ue : Bool) :
    KeepsRegs s0 (s.rowEvent l ue) rs :=
  KeepsRegs.ite (h.of_regs rfl) (h.raise m _)

theorem redirRegs_subset_allRedirs {e : Nat} (he : e < 16) : redirRegs e ⊆ allRedirs := fun _ ho =>
  List.mem_flatMap.mpr ⟨e, List.mem_range.mpr he, ho⟩

theorem KeepsRegs.setRedir (h : KeepsRegs s0 s rs) (m : allRedirs ⊆ rs) {e : Nat} (he : e < 16) (r : Redir) :
    KeepsRegs s0 (s.setRedir e r) rs :=
  h.wr64 (m (redirRegs_subset_allRedirs he (by simp))) (m (redirRegs_subset_allRedirs he (by simp))) _

/-- A redirect entry that carries a rank is one of the table's 16 (R448). -/
theorem redirOf_lt {rank e : Nat} (h : s.redirOf rank = some e) : e < 16 :=
  List.mem_range.mp (List.mem_of_find?_eq_some h)

theorem KeepsRegs.redoFor (h : KeepsRegs s0 s rs) (m : allRedirs ⊆ rs) (l : Loc) : KeepsRegs s0 (s.redoFor l) rs := by
  unfold State.redoFor
  split
  · next he => exact (h.setRedir m (redirOf_lt he) _).ite h
  · exact h

theorem KeepsRegs.logRec (h : KeepsRegs s0 s rs) (code : Nat) (args : List Nat) :
    KeepsRegs s0 (s.logRec code args) rs := h.of_regs rfl

theorem KeepsRegs.kbAdd (h : KeepsRegs s0 s rs) {l : Loc} (me : Reg.PC_ECC_STATUS (pcFin l.pc) ∈ rs)
    (mf : fecRegs ⊆ rs) (mr : allRedirs ⊆ rs) (addr : Option Nat) : KeepsRegs s0 (s.kbAdd l addr) rs := by
  unfold State.kbAdd
  refine h.ite (KeepsRegs.ite (KeepsRegs.logRec ?_ _ _) (KeepsRegs.logRec ?_ _ _))
  · exact (h.redoFor mr l).of_regs rfl
  · cases addr <;> exact (h.raise me _).fec mf _ _ _ _

theorem KeepsRegs.laneCount (h : KeepsRegs s0 s rs) {p : Fin 64} (m : Reg.PC_TRUE_STATUS p ∈ rs) (lane : Nat) :
    KeepsRegs s0 (s.laneCount p lane) rs := by
  have hcount (v : Vector Nat 36) : KeepsRegs s0 (s.modPc p fun c => { c with laneCe := v }) rs := h.of_regs rfl
  exact KeepsRegs.of_regs ((hcount _).raiseIf m _ Fld.PC_TRUE_STATUS_LANE_SUSPECT) rfl

theorem KeepsRegs.readEffects (h : KeepsRegs s0 s rs) {a : Access} (m : checkRegs (pcFin a.loc.pc) ⊆ rs) (d : Decode) :
    KeepsRegs s0 (s.readEffects a d) rs := by
  have me : Reg.PC_ECC_STATUS (pcFin a.loc.pc) ∈ rs := m (by simp)
  have mr : Reg.PC_REF_STATUS (pcFin a.loc.pc) ∈ rs := m (by simp)
  have mt : Reg.PC_TRUE_STATUS (pcFin a.loc.pc) ∈ rs := m (by simp)
  have mf : fecRegs ⊆ rs := fun o ho => m (List.mem_append_left _ (List.mem_append_right _ ho))
  have ma : allRedirs ⊆ rs := fun o ho => m (List.mem_append_right _ ho)
  cases d with
  | clean => exact h
  | corrected lane _ => exact (((h.raise me _).sf me _ _).laneCount mt lane).rowEvent mr false
  | poisoned => exact h.raise me _
  | uncorrectable =>
    have hbad := ((h.raise me Fld.PC_ECC_STATUS_UE).rowEvent mr true).kbAdd me mf ma a.addr
    have hfec := hbad.fecAccess mf .uncorrectable a
    exact KeepsRegs.ite (hfec.of_regs rfl) hfec

/-! ### Accesses that arrive at a PC (R189, R450) -/

theorem KeepsRegs.wroteThrough (h : KeepsRegs s0 s rs) (m : pathRegs ⊆ rs) (sl : Fin 16) (line : Nat) :
    KeepsRegs s0 (s.wroteThrough sl line) rs := by
  unfold State.wroteThrough
  split
  · exact h
  · dsimp only
    refine KeepsRegs.ite ?_ (h.of_regs rfl)
    split
    · refine KeepsRegs.complete ?_ m _ _ _
      exact h.of_regs rfl
    · exact h.of_regs rfl

theorem KeepsRegs.wroteBack (h : KeepsRegs s0 s rs) (m : pathRegs ⊆ rs) (line : Nat) :
    KeepsRegs s0 (s.wroteBack line) rs := by
  unfold State.wroteBack
  refine h.ite ?_
  split
  · exact h.wroteThrough m _ _
  · exact h

theorem KeepsRegs.poolPush (h : KeepsRegs s0 s rs) (m : pathRegs ⊆ rs) (p : Fin 64) (a : Access) :
    KeepsRegs s0 (s.poolPush p a) rs := by
  have hp : KeepsRegs s0 ((s.stampAccess p a.owner 4).modPc p fun c => c.enterPool a) rs :=
    (h.stampAccess p a.owner 4).of_regs rfl
  unfold State.poolPush
  dsimp only
  split
  · exact hp.wroteThrough m _ _
  · exact hp.wroteBack m _
  · exact hp

theorem KeepsRegs.arrive (h : KeepsRegs s0 s rs) (mr : allRedirs ⊆ rs) (m : pathRegs ⊆ rs) (p : Fin 64) (a : Access) :
    KeepsRegs s0 (s.arrive p a) rs := by
  unfold State.arrive
  refine (h.poolPush m p a).ite ?_
  split
  · split
    · exact h.of_regs rfl
    · exact h.poolPush m p a
  · next e he =>
    have hs (c : Prop) [Decidable c] (r : Redir) : KeepsRegs s0 (if c then s.setRedir e r else s) rs :=
      (h.setRedir mr (redirOf_lt he) r).ite h
    dsimp only
    exact KeepsRegs.ite (((hs _ _).poolPush m p _).of_regs rfl)
      (KeepsRegs.ite ((hs _ _).of_regs rfl) ((hs _ _).poolPush m p a))

/-! ### Data to its owner (R100, R114, R119) -/

theorem KeepsRegs.narrowDone (h : KeepsRegs s0 s rs) (m : pathRegs ⊆ rs) (n : Narrow) (st : Status) (data : List Byte) :
    KeepsRegs s0 (s.narrowDone n st data) rs :=
  (h.complete m n.req _ _).of_regs rfl

theorem KeepsRegs.pannierBurst (h : KeepsRegs s0 s rs) (m : pathRegs ⊆ rs) (p home : Fin 64) (a : Access)
    (entry burst g : Nat) (data : List Byte) (bad : Bool) :
    KeepsRegs s0 (s.pannierBurst p home a entry burst g data bad) rs := by
  unfold State.pannierBurst
  split
  · exact h
  · dsimp only
    refine KeepsRegs.foldl _ (fun u nd _ hu => (hu.narrowDone m _ _ _).ite (hu.narrowDone m _ _ _)) ?_
    split <;> split <;> exact h.of_regs rfl

theorem KeepsRegs.deliver (h : KeepsRegs s0 s rs) (m : pathRegs ⊆ rs) (p : Fin 64) (a : Access) (g : Nat)
    (data : List Byte) (bad : Bool) : KeepsRegs s0 (s.deliver p a g data bad) rs := by
  unfold State.deliver
  split
  · exact h.pannierBurst m _ _ _ _ _ _ _ _
  · exact KeepsRegs.ite (h.of_regs rfl) (h.of_regs rfl)

theorem KeepsRegs.settleMerge (h : KeepsRegs s0 s rs) (m : pathRegs ⊆ rs) (p : Fin 64) (wid : Nat) (data : List Byte)
    (bad : Bool) : KeepsRegs s0 (s.settleMerge p wid data bad) rs := by
  unfold State.settleMerge
  split
  · exact h
  · exact KeepsRegs.foldl _ (fun _ _ _ hu => hu.deliver m _ _ _ _ _) (h.of_regs rfl)

theorem KeepsRegs.serveRead (h : KeepsRegs s0 s rs) (m : pathRegs ⊆ rs) (p : Fin 64) (a : Access) (g : Nat)
    (data : List Byte) (bad : Bool) : KeepsRegs s0 (s.serveRead p a g data bad) rs := by
  unfold State.serveRead
  split
  · exact h.settleMerge m _ _ _ _
  · exact h.deliver m _ _ _ _ _

/-! ### The drain (R46) -/

theorem checkRegs_subset_drainRegs (p : Fin 64) : checkRegs p ⊆ drainRegs := by
  intro o ho
  simp only [checkRegs, drainRegs, List.mem_append, List.mem_flatMap, List.mem_range] at ho ⊢
  rcases ho with (ho | ho) | ho
  · exact .inl (.inl (.inl ⟨p, p.isLt, ho⟩))
  · exact .inl (.inl (.inr ho))
  · exact .inl (.inr ho)

theorem fecRegs_subset_checkRegs (p : Fin 64) : fecRegs ⊆ checkRegs p := fun _ ho =>
  List.mem_append_left _ (List.mem_append_right _ ho)

theorem allRedirs_subset_checkRegs (p : Fin 64) : allRedirs ⊆ checkRegs p := List.subset_append_right _ _

theorem pathRegs_subset_drainRegs : pathRegs ⊆ drainRegs := List.subset_append_right _ _

theorem KeepsRegs.redrive (h : KeepsRegs s0 s rs) (m : drainRegs ⊆ rs) (d : Driven) (failed : Bool) :
    KeepsRegs s0 (s.redrive d failed) rs := by
  have mc := List.Subset.trans (checkRegs_subset_drainRegs (pcFin d.acc.loc.pc)) m
  have hput : KeepsRegs s0 (s.putBurst d.acc.loc d.acc.data d.acc.poison) rs := h.of_regs rfl
  refine KeepsRegs.ite (KeepsRegs.ite (hput.kbAdd (mc (by simp)) ?_ ?_ _) hput) h
  · exact List.Subset.trans (fecRegs_subset_checkRegs _) mc
  · exact List.Subset.trans (allRedirs_subset_checkRegs _) mc

theorem KeepsRegs.finishReplay (h : KeepsRegs s0 s rs) (m : drainRegs ⊆ rs) (p : Fin 64) :
    KeepsRegs s0 (s.finishReplay p) rs := by
  unfold State.finishReplay
  split
  · exact h
  · exact KeepsRegs.foldl _ (fun _ _ _ hu => hu.redrive m _ _) (h.of_regs rfl)

theorem KeepsRegs.drainWrites (h : KeepsRegs s0 s rs) (m : drainRegs ⊆ rs) (p : Fin 64) :
    KeepsRegs s0 (s.drainWrites p) rs := by
  refine KeepsRegs.of_regs (KeepsRegs.foldl _ (fun u a _ hu => ?_) (h.finishReplay m p)) rfl
  have ht (c : Bool) : KeepsRegs s0 (u.iff c State.tick) rs := KeepsRegs.iff c hu (hu.of_regs rfl)
  exact KeepsRegs.iff _ ((ht _).of_regs rfl) ((ht _).of_regs rfl)

theorem KeepsRegs.drainReads (h : KeepsRegs s0 s rs) (m : drainRegs ⊆ rs) (p : Fin 64) :
    KeepsRegs s0 (s.drainReads p) rs := by
  have mp : pathRegs ⊆ rs := List.Subset.trans pathRegs_subset_drainRegs m
  unfold State.drainReads
  dsimp only
  have serve (u : State) (r : RqEntry) (hu : KeepsRegs s0 u rs) (c : Bool) (d : Decode) (data : List Byte)
      (bad : Bool) :
      KeepsRegs s0 (((u.iff c State.tick).readEffects r.acc d).serveRead p r.acc r.grantAt data bad) rs :=
    have hticked : KeepsRegs s0 (u.iff c State.tick) rs := KeepsRegs.iff c hu (hu.of_regs rfl)
    (hticked.readEffects (List.Subset.trans (checkRegs_subset_drainRegs _) m) d).serveRead mp _ _ _ _ _
  refine KeepsRegs.foldl _ (fun u r _ hu => serve u r hu _ _ _ _) (KeepsRegs.of_regs ?_ rfl)
  refine KeepsRegs.foldl _ (fun u r _ hu => serve u r hu _ _ _ _) (KeepsRegs.of_regs ?_ rfl)
  exact KeepsRegs.foldl _ (fun u f _ hu => hu.serveRead mp _ _ _ _ _) (h.of_regs rfl)

theorem KeepsRegs.landWrites (h : KeepsRegs s0 s rs) (m : drainRegs ⊆ rs) : KeepsRegs s0 s.landWrites rs := by
  have mc : checkRegs 0 ⊆ rs := List.Subset.trans (checkRegs_subset_drainRegs 0) m
  have ma : allRedirs ⊆ rs := List.Subset.trans (allRedirs_subset_checkRegs 0) mc
  have mp : pathRegs ⊆ rs := List.Subset.trans pathRegs_subset_drainRegs m
  refine KeepsRegs.foldl _ (fun _ _ _ hu => hu.arrive ma mp _ _) (KeepsRegs.of_regs ?_ rfl)
  exact KeepsRegs.foldl _ (fun _ _ _ hu => hu.arrive ma mp _ _) (h.of_regs rfl)

theorem KeepsRegs.drainAll (h : KeepsRegs s0 s rs) (m : drainRegs ⊆ rs) : KeepsRegs s0 s.drainAll rs :=
  KeepsRegs.foldl _ (fun _ _ _ hu => (hu.drainReads m _).drainWrites m _) (h.landWrites m)

theorem KeepsRegs.writeBackLine (h : KeepsRegs s0 s rs) (l : Line) (o : Owner) :
    KeepsRegs s0 (s.writeBackLine l o) rs :=
  KeepsRegs.foldl _ (fun _ _ _ hu => KeepsRegs.ite (hu.of_regs rfl) hu) h

theorem KeepsRegs.cleanAll (h : KeepsRegs s0 s rs) : KeepsRegs s0 s.cleanAll rs :=
  KeepsRegs.foldl _ (fun _ _ _ hu =>
    KeepsRegs.of_regs (KeepsRegs.foldl _ (fun _ _ _ hv => hv.writeBackLine _ _) hu) rfl) h

/-! ### Self-refresh and markers (R171, R172, R387) -/

theorem KeepsRegs.writeMarker (h : KeepsRegs s0 s rs) (p : Fin 64) (k : Marker) :
    KeepsRegs s0 (s.writeMarker p k) rs :=
  (KeepsRegs.iff (s.stack.isUndef (s.markerLoc p)) h (h.of_regs rfl)).of_regs rfl

theorem KeepsRegs.selfRefreshEnter (h : KeepsRegs s0 s rs) {p : Fin 64} (m : Reg.PC_REF_STATUS p ∈ rs) :
    KeepsRegs s0 (s.selfRefreshEnter p) rs :=
  (KeepsRegs.raise (h.of_regs rfl) m _).sf m _ _

theorem KeepsRegs.selfRefreshExit (h : KeepsRegs s0 s rs) {p : Fin 64} (m : Reg.PC_REF_STATUS p ∈ rs) :
    KeepsRegs s0 (s.selfRefreshExit p) rs :=
  (KeepsRegs.sf (h.of_regs rfl) m _ _).raise m _

theorem KeepsRegs.resumePc (h : KeepsRegs s0 s rs) (p : Fin 64) : KeepsRegs s0 (s.resumePc p) rs :=
  KeepsRegs.iff _ h (h.of_regs rfl)

theorem KeepsRegs.loseRank (h : KeepsRegs s0 s rs) (rank : Nat) : KeepsRegs s0 (s.loseRank rank) rs := h.of_regs rfl

/-! ### The notice and its withdrawal (R46, R48) -/

theorem KeepsRegs.modPins (h : KeepsRegs s0 s rs) (f : Pins → Pins) : KeepsRegs s0 (s.modPins f) rs := h.of_regs rfl

/-- The notice is decided: admission is to stop (R46). -/
def State.noticeBegun (s : State) : State :=
  s.modPwr fun w => { w with quiesced := true, noticeHeld := false, noticeAt := some s.clk.raw }

/-- Every PC admits no more. -/
def State.stopAdmission (s : State) : State :=
  { s with pcs := s.pcs.map fun (c : Pc) => { c with stopped := true } }

/-- What waits for the stack is carried out, dirty lines included (R46). -/
def State.drained (s : State) : State := (s.drainAll.cleanAll).drainAll

theorem warmNotice_eq (s : State) : s.warmNotice =
    State.modPins (s.clockedPcs.foldl (fun t p => t.selfRefreshEnter p)
      (if 5 ≤ s.phase ∧ s.phase ≤ 8 then
        s.clockedPcs.foldl (fun t p => t.writeMarker p .markW) s.noticeBegun.stopAdmission.drained
      else s.noticeBegun.stopAdmission.drained)) fun x => { x with dieWrstAck := true } := by
  simp only [State.warmNotice, decide_eq_true_eq]
  rfl

theorem KeepsRegs.drained (h : KeepsRegs s0 s rs) (m : drainRegs ⊆ rs) : KeepsRegs s0 s.drained rs :=
  (h.drainAll m).cleanAll.drainAll m

theorem KeepsRegs.warmNotice (h : KeepsRegs s0 s rs) (m : drainRegs ⊆ rs) : KeepsRegs s0 s.warmNotice rs := by
  have hstopped : KeepsRegs s0 s.noticeBegun.stopAdmission rs := h.of_regs rfl
  rw [warmNotice_eq]
  refine KeepsRegs.modPins (KeepsRegs.foldl _ (fun u p _ hu => ?_) (KeepsRegs.ite ?_ (hstopped.drained m))) _
  · exact hu.selfRefreshEnter (m (checkRegs_subset_drainRegs p (by simp)))
  · exact KeepsRegs.foldl _ (fun _ p _ hu => hu.writeMarker p _) (hstopped.drained m)

theorem refStatus_mem (p : Fin 64) : Reg.PC_REF_STATUS p ∈ (upto 64).map Reg.PC_REF_STATUS :=
  List.mem_map_of_mem (List.mem_range.mpr p.isLt)

theorem KeepsRegs.withdrawNotice (h : KeepsRegs s0 s rs) (m : (upto 64).map Reg.PC_REF_STATUS ⊆ rs) :
    KeepsRegs s0 s.withdrawNotice rs := by
  unfold State.withdrawNotice
  refine KeepsRegs.foldl _ (fun u p _ hu => hu.resumePc _) (KeepsRegs.of_regs ?_ rfl)
  refine KeepsRegs.foldl _ (fun u p _ hu => ?_) ?_
  · split
    · exact hu.of_regs rfl
    · exact hu
  · exact h.ite (KeepsRegs.foldl _ (fun u p _ hu => hu.selfRefreshExit (m (refStatus_mem p))) h)

end

end Sys2Proof.Machine
end

section
/-! SUPPORT. The warm-reset notice, the warm die reset, clock loss and the correction of local time: what each leaves
(R27, R46 to R48, R388, R501). -/

namespace Sys2Proof.Machine

/-! ### The fall of DIE_WRST_REQ_N (R46, R501) -/

/-- DIE_WRST_REQ_N as its edge leaves it. -/
def State.reqPin (s : State) (b : Bool) : State := s.modPins fun x => { x with dieWrstReqN := b }

theorem reqPin_keeps (s : State) (b : Bool) : Keeps s (s.reqPin b) [.pins] :=
  State.modPins_keeps s _ (Keeps.refl _ _) (by simp)

theorem dieWrstReqFall_held {s : State} (hr : s.pins.dieWrstReqN = true) (ha : s.pins.dieWrstAck = false)
    (hc : s.pins.computeOffReq = true) :
    dieWrstReqFall s = (s.reqPin false).modPwr fun w => { w with noticeHeld := true } := by
  simp [dieWrstReqFall, State.decideNotice, State.reqPin, hr, ha, hc]

theorem dieWrstReqFall_runs {s : State} (hr : s.pins.dieWrstReqN = true) (ha : s.pins.dieWrstAck = false)
    (hc : s.pins.computeOffReq = false) : dieWrstReqFall s = (s.reqPin false).warmNotice := by
  simp [dieWrstReqFall, State.decideNotice, State.reqPin, hr, ha, hc]

theorem exec_dieWrstReqFall {s : State} (hl : s.live .sensor = true) :
    exec .dieWrstReqFall s = .next (dieWrstReqFall s) := congrArg Host.Outcome.next (if_pos hl)

theorem exec_dieWrstReqRise {s : State} (hl : s.live .sensor = true) :
    exec .dieWrstReqRise s = .next (dieWrstReqRise s) := congrArg Host.Outcome.next (if_pos hl)

theorem drained_keeps {s0 u : State} {ps : List Region} (hu : Keeps s0 u ps)
    (m : [.free, .inbox, .inj, .paths, .pcs, .ring, .stack, .tags] ⊆ ps) : Keeps s0 u.drained ps := by
  have drain {v : State} (hv : Keeps s0 v ps) : Keeps s0 v.drainAll ps :=
    State.drainAll_keeps v hv (m (by simp)) (m (by simp)) (m (by simp)) (m (by simp)) (m (by simp)) (m (by simp))
      (m (by simp)) (m (by simp))
  exact drain (State.cleanAll_keeps _ (drain hu) (m (by simp)))

/-- The notice ends with the rise of DIE_WRST_ACK; from its first step on it touches neither pins nor power (R46). -/
theorem warmNotice_shape (s : State) : ∃ u, s.warmNotice = u.modPins (fun x => { x with dieWrstAck := true }) ∧
    Keeps s.noticeBegun u [.free, .inbox, .inj, .paths, .pcs, .ring, .stack, .tags] := by
  have hdrained : Keeps s.noticeBegun s.noticeBegun.stopAdmission.drained
      [.free, .inbox, .inj, .paths, .pcs, .ring, .stack, .tags] :=
    drained_keeps (Keeps.set_pcs (Keeps.refl s.noticeBegun _) (by simp) _) (List.Subset.refl _)
  refine ⟨_, warmNotice_eq s, foldl_keeps' (fun u p hu => State.selfRefreshEnter_keeps u p hu (by simp)) _ ?_⟩
  split
  · exact foldl_keeps' (fun u p hu => State.writeMarker_keeps u p _ hu (by simp) (by simp) (by simp)) _ hdrained
  · exact hdrained

theorem warmNotice_pins (s : State) : s.warmNotice.pins = { s.pins with dieWrstAck := true } := by
  obtain ⟨u, hu, hk⟩ := warmNotice_shape s
  have hpins : u.pins = s.pins := hk .pins (by simp)
  rw [hu]
  simp [State.modPins, hpins]

theorem warmNotice_quiesced (s : State) : s.warmNotice.pwr.quiesced = true := by
  obtain ⟨u, hu, hk⟩ := warmNotice_shape s
  have hpwr : u.pwr = _ := hk .pwr (by simp)
  rw [hu]
  simp [State.modPins, hpwr, State.noticeBegun, State.modPwr]

theorem gives_dieWrstReqFall_held (s : State) (hl : s.live .sensor = true) (hr : s.pins.dieWrstReqN = true)
    (ha : s.pins.dieWrstAck = false) (hc : s.pins.computeOffReq = true) :
    Gives .dieWrstReqFall s fun t =>
      t.pins.dieWrstReqN = false ∧ t.pins.dieWrstAck = false ∧ t.pwr.noticeHeld = true ∧ Keeps s t [.pins, .pwr] ∧
        KeepsRegs s t [] := by
  refine ⟨_, exec_dieWrstReqFall hl, ?_⟩
  rw [dieWrstReqFall_held hr ha hc]
  exact ⟨rfl, ha, rfl, State.modPwr_keeps _ _ (State.modPins_keeps _ _ (Keeps.refl _ _) (by simp)) (by simp),
    (KeepsRegs.refl _ _).of_regs rfl⟩

theorem gives_dieWrstReqFall_runs (s : State) (hl : s.live .sensor = true) (hr : s.pins.dieWrstReqN = true)
    (ha : s.pins.dieWrstAck = false) (hc : s.pins.computeOffReq = false) :
    Gives .dieWrstReqFall s fun t =>
      t.pins.dieWrstReqN = false ∧ t.pins.dieWrstAck = true ∧ t.pins.computeOffReq = false ∧ t.pwr.quiesced = true ∧
        Keeps s t [.free, .inbox, .inj, .paths, .pcs, .pins, .pwr, .ring, .stack, .tags] ∧
        KeepsRegs s t drainRegs := by
  refine ⟨_, exec_dieWrstReqFall hl, ?_⟩
  have hk : Keeps s (dieWrstReqFall s) [.free, .inbox, .inj, .paths, .pcs, .pins, .pwr, .ring, .stack, .tags] :=
    dieWrstReqFall_keeps s (Keeps.refl _ _) (by simp) (by simp) (by simp) (by simp) (by simp) (by simp) (by simp)
      (by simp) (by simp) (by simp)
  rw [dieWrstReqFall_runs hr ha hc] at hk ⊢
  refine ⟨?_, ?_, ?_, warmNotice_quiesced _, hk,
    KeepsRegs.warmNotice ((KeepsRegs.refl s _).of_regs rfl) (List.Subset.refl _)⟩
  · rw [warmNotice_pins]; rfl
  · rw [warmNotice_pins]
  · rw [warmNotice_pins]; exact hc

/-! ### The rise of DIE_WRST_REQ_N (R48) -/

theorem gives_dieWrstReqRise_early (s : State) (hl : s.live .sensor = true) (ha : s.pins.dieWrstAck = false) :
    Gives .dieWrstReqRise s fun t =>
      t.pins.dieWrstReqN = true ∧ t.pins.dieWrstAck = false ∧ t.pwr.noticeHeld = s.pwr.noticeHeld ∧ Keeps s t [.pins] ∧
        KeepsRegs s t [] := by
  refine ⟨s.reqPin true, ?_, rfl, ha, rfl, reqPin_keeps s true, (KeepsRegs.refl _ _).of_regs rfl⟩
  rw [exec_dieWrstReqRise hl]
  simp [dieWrstReqRise, State.reqPin, ha]

/-- The withdrawal drops DIE_WRST_ACK and opens admission; its other steps touch neither pins nor power (R48). -/
theorem withdrawNotice_shape (s : State) : ∃ u, Keeps s u [.pcs, .stack] ∧
    Keeps ((u.modPins fun x => { x with dieWrstAck := false }).modPwr fun w =>
      { w with quiesced := false, noticeAt := none }) s.withdrawNotice [.pcs] := by
  refine ⟨_, ?_, foldl_keeps' (fun u n hu => State.resumePc_keeps u _ hu (by simp)) _ (Keeps.refl _ _)⟩
  refine foldl_keeps' (fun u p hu => ?_) _ ?_
  · split
    · exact State.modPc_keeps _ _ _ (State.putBurst_keeps _ _ _ _ hu (by simp)) (by simp)
    · exact hu
  · split
    · exact Keeps.refl _ _
    · exact foldl_keeps' (fun u p hu => State.selfRefreshExit_keeps u p hu (by simp) (by simp)) _ (Keeps.refl _ _)

theorem withdrawNotice_pins (s : State) : s.withdrawNotice.pins = { s.pins with dieWrstAck := false } := by
  obtain ⟨u, hu, hk⟩ := withdrawNotice_shape s
  have hpins : u.pins = s.pins := hu .pins (by simp)
  have hpins' : s.withdrawNotice.pins = _ := hk .pins (by simp)
  rw [hpins']
  simp [State.modPwr, State.modPins, hpins]

theorem withdrawNotice_quiesced (s : State) : s.withdrawNotice.pwr.quiesced = false := by
  obtain ⟨u, -, hk⟩ := withdrawNotice_shape s
  have hpwr : s.withdrawNotice.pwr = _ := hk .pwr (by simp)
  rw [hpwr]
  rfl

theorem gives_dieWrstReqRise_ends (s : State) (hl : s.live .sensor = true) (ha : s.pins.dieWrstAck = true)
    (hr : s.pins.dieRstN = true) :
    Gives .dieWrstReqRise s fun t =>
      t.pins.dieWrstReqN = true ∧ t.pins.dieWrstAck = false ∧ t.pwr.quiesced = false ∧
        Keeps s t [.pcs, .pins, .pwr, .stack] ∧ KeepsRegs s t ((upto 64).map Reg.PC_REF_STATUS) := by
  have hrise : dieWrstReqRise s = (s.reqPin true).withdrawNotice := by
    simp [dieWrstReqRise, State.reqPin, ha, hr]
  refine ⟨_, exec_dieWrstReqRise hl, ?_⟩
  have hk : Keeps s (dieWrstReqRise s) [.pcs, .pins, .pwr, .stack] :=
    dieWrstReqRise_keeps s (Keeps.refl _ _) (by simp) (by simp) (by simp) (by simp)
  rw [hrise] at hk ⊢
  refine ⟨?_, ?_, withdrawNotice_quiesced _, hk,
    KeepsRegs.withdrawNotice ((KeepsRegs.refl s _).of_regs rfl) (List.Subset.refl _)⟩
  · rw [withdrawNotice_pins]; rfl
  · rw [withdrawNotice_pins]

/-! ### The warm die reset (R47, R401, R495) -/

/-- A domain that was ON or isolated is so again after the reset (R401). -/
def State.restoreDom (t : State) (e : Nat × DomState) : State :=
  if e.2 = .on then t.setDom e.1 .on else if e.2 = .isolated then t.setDom e.1 .isolated else t

/-- What the reset leaves of PC `n` and of the stack behind it, `kept` in self-refresh or not (R47). -/
def State.restartPc (kept : Fin 64 → Bool) (marker : Fin 64 → Marker) (t : State) (n : Nat) : State :=
  if kept (pcFin n) then
    (t.raise (Reg.PC_REF_STATUS (pcFin n)) Fld.PC_REF_STATUS_SELF_REFRESH).modPc (pcFin n) fun c =>
      { c with marker := marker (pcFin n), stopped := true }
  else (upto 4).foldl (fun t g => t.loseRank (g * 64 + n)) t

/-- The contents behind PC `p` are kept through DIE_RST_N: it was in self-refresh, and the reset did not meet it before
it had written its marker (R47, R495). -/
def State.keptBehind (s : State) (behind : BitVec 64) (p : Fin 64) : Bool :=
  s.bit (Reg.PC_REF_STATUS p) Fld.PC_REF_STATUS_SELF_REFRESH &&
    !(behind.getLsbD p && s.noticeRuns && !s.pcs[p].clockLost)

/-- The reset state with what stands through DIE_RST_N, before the domains and the PCs. -/
def State.rstBase (s : State) : State := { State.reset with
  pending := s.pending, free := s.free, straps := s.straps, stack := { s.stack with refreshed := false },
  pins := { s.pins with dieRstN := false, dieWrstAck := false, stgReq := false, stgNum := 0, computeOffReq := false,
                        computeOffAck := false, colThrOn := false, colThr := 0 },
  clk := { State.reset.clk with pkg := 0 },
  pwr := { State.reset.pwr with seqDone := s.pwr.seqDone, seqStopped := s.pwr.seqStopped, warm := true,
                                strapInvalid := s.pwr.strapInvalid, nextStage := s.pwr.nextStage,
                                clockLoss := s.pcs.any fun (c : Pc) => c.clockLost } }

theorem dieRstNAssert_eq (behind : BitVec 64) (s : State) :
    dieRstNAssert behind s =
      (upto 64).foldl (State.restartPc (s.keptBehind behind) fun p => s.pcs[p].marker)
        (((upto 124).map fun d => (d, s.dom d)).foldl State.restoreDom s.rstBase) := rfl

section rst

variable {s0 t : State} {ps : List Region} {kept : Fin 64 → Bool} {marker : Fin 64 → Marker}

theorem restoreDom_keeps (h : Keeps s0 t ps) (e : Nat × DomState) : Keeps s0 (t.restoreDom e) ps := by
  unfold State.restoreDom
  split
  · exact State.setDom_keeps _ _ _ h
  · split
    · exact State.setDom_keeps _ _ _ h
    · exact h

theorem restartPc_keeps (h : Keeps s0 t ps) (mp : Region.pcs ∈ ps) (ms : Region.stack ∈ ps) (n : Nat) :
    Keeps s0 (t.restartPc kept marker n) ps := by
  unfold State.restartPc
  split
  · exact State.modPc_keeps _ _ _ (State.raise_keeps _ _ _ h) mp
  · exact foldl_keeps' (fun _ _ hu => State.loseRank_keeps _ _ hu ms) _ h

/-- Domains and PCs apart, DIE_RST_N leaves the base. -/
theorem dieRstNAssert_keeps (behind : BitVec 64) (s : State) :
    Keeps s.rstBase (dieRstNAssert behind s) [.pcs, .stack] := by
  rw [dieRstNAssert_eq]
  exact foldl_keeps' (fun _ n hu => restartPc_keeps hu (by simp) (by simp) n) _
    (foldl_keeps' (fun _ e hu => restoreDom_keeps hu e) _ (Keeps.refl _ _))

/-! #### The stack behind the PCs -/

theorem undef_loseRank (t : State) (r : Nat) : r ∈ (t.loseRank r).stack.undef := List.mem_cons_self

theorem undef_loseRank_of_mem (r : Nat) {r' : Nat} (h : r' ∈ t.stack.undef) : r' ∈ (t.loseRank r).stack.undef := by
  by_cases e : r' = r
  · exact e ▸ undef_loseRank t r
  · exact List.mem_cons_of_mem _ (List.mem_filter.mpr ⟨h, by simpa using e⟩)

/-- What a step of a walk brings about and every step keeps holds at the end. -/
theorem foldl_reaches {α β : Type} {P : β → Prop} {f : β → α → β} {a : α} {l : List α} (ha : a ∈ l)
    (hreach : ∀ b, P (f b a)) (hkeep : ∀ b c, P b → P (f b c)) (b : β) : P (l.foldl f b) := by
  induction l generalizing b with
  | nil => simp at ha
  | cons c l ih =>
    rcases List.mem_cons.mp ha with rfl | hl
    · exact foldl_keeps hkeep l (hreach b)
    · exact ih hl _

theorem regs_modPc (t : State) (p : Fin 64) (f : Pc → Pc) : (t.modPc p f).regs = t.regs := rfl

theorem restartPc_of_kept {n : Nat} (h : kept (pcFin n) = true) :
    (t.restartPc kept marker n).stack = t.stack ∧ ∀ d < 124, (t.restartPc kept marker n).dom d = t.dom d := by
  have hraise : Keeps t (t.raise (Reg.PC_REF_STATUS (pcFin n)) Fld.PC_REF_STATUS_SELF_REFRESH) [.pcs] :=
    State.raise_keeps _ _ _ (Keeps.refl _ _)
  rw [State.restartPc, if_pos h]
  refine ⟨State.modPc_keeps _ _ _ hraise (by simp) .stack (by simp), fun d hd => ?_⟩
  have hreg : Reg.THERM_DOM_STATE (d / 16) ≠ Reg.PC_REF_STATUS (pcFin n) := by
    simp only [Reg.THERM_DOM_STATE, Reg.PC_REF_STATUS]
    have := (pcFin n).isLt
    omega
  refine (State.dom_congr (regs_modPc _ _ _) d).trans ?_
  rw [State.raise, State.dom, State.rd_sf_ne _ _ _ _ hreg, State.dom]

theorem restartPc_of_lost {n : Nat} (h : kept (pcFin n) = false) :
    t.restartPc kept marker n = (upto 4).foldl (fun u g => u.loseRank (g * 64 + n)) t := by
  rw [State.restartPc, if_neg (by simp [h])]

theorem restartPc_cells (t : State) (n : Nat) : (t.restartPc kept marker n).stack.cells = t.stack.cells := by
  cases h : kept (pcFin n) with
  | true => rw [(restartPc_of_kept h).1]
  | false =>
    rw [restartPc_of_lost h]
    refine foldl_keeps (P := fun u : State => u.stack.cells = t.stack.cells) (fun u g hu => ?_) _ rfl
    exact hu

theorem restartPc_undef_of_mem (n : Nat) {r : Nat} (h : r ∈ t.stack.undef) :
    r ∈ (t.restartPc kept marker n).stack.undef := by
  cases hk : kept (pcFin n) with
  | true => rwa [(restartPc_of_kept hk).1]
  | false =>
    rw [restartPc_of_lost hk]
    exact foldl_keeps (P := fun u : State => r ∈ u.stack.undef) (fun _ g hu => undef_loseRank_of_mem _ hu) _ h

theorem restartPc_undef (t : State) (p : Fin 64) (g : Fin 4) (hk : kept p = false) :
    g.val * 64 + p.val ∈ (t.restartPc kept marker p.val).stack.undef := by
  have hp : pcFin p.val = p := Fin.ext (Nat.mod_eq_of_lt p.isLt)
  rw [restartPc_of_lost (by rw [hp, hk])]
  exact foldl_reaches (P := fun u : State => g.val * 64 + p.val ∈ u.stack.undef) (List.mem_range.mpr g.isLt)
    (fun u => undef_loseRank u _) (fun u k hu => undef_loseRank_of_mem _ hu) t

theorem dieRstNAssert_cells (behind : BitVec 64) (s : State) :
    (dieRstNAssert behind s).stack.cells = s.stack.cells := by
  rw [dieRstNAssert_eq]
  refine foldl_keeps (P := fun u : State => u.stack.cells = s.stack.cells)
    (fun u n hu => (restartPc_cells u n).trans hu) _ ?_
  have hbase : (((upto 124).map fun d => (d, s.dom d)).foldl State.restoreDom s.rstBase).stack = s.rstBase.stack :=
    foldl_keeps' (s0 := s.rstBase) (ps := []) (fun _ e hu => restoreDom_keeps hu e) _ (Keeps.refl _ _) .stack (by simp)
  rw [hbase]
  rfl

theorem dieRstNAssert_undef {behind : BitVec 64} {s : State} {p : Fin 64} (hk : s.keptBehind behind p = false)
    (g : Fin 4) : g.val * 64 + p.val ∈ (dieRstNAssert behind s).stack.undef := by
  rw [dieRstNAssert_eq]
  exact foldl_reaches (P := fun u : State => g.val * 64 + p.val ∈ u.stack.undef) (List.mem_range.mpr p.isLt)
    (fun u => restartPc_undef u p g hk) (fun u n hu => restartPc_undef_of_mem n hu) _

/-! #### The power domains -/

theorem restoreDom_same (t : State) (d : Nat) (v : DomState) (h : t.dom d ≠ .on) :
    (t.restoreDom (d, v)).dom d = .on ↔ v = .on := by
  unfold State.restoreDom
  split
  · next hv => simp_all [State.dom_setDom_same]
  · next hv =>
    split
    · simp_all [State.dom_setDom_same]
    · simp_all

theorem restoreDom_other (t : State) {d : Nat} (e : Nat × DomState) (h : d ≠ e.1) :
    (t.restoreDom e).dom d = t.dom d := by
  unfold State.restoreDom
  split
  · exact State.dom_setDom_other _ _ _ _ h
  · split
    · exact State.dom_setDom_other _ _ _ _ h
    · rfl

theorem restoreDoms_other {l : List Nat} {d : Nat} (f : Nat → DomState) (h : d ∉ l) (t : State) :
    ((l.map fun e => (e, f e)).foldl State.restoreDom t).dom d = t.dom d := by
  induction l generalizing t with
  | nil => rfl
  | cons e l ih =>
    simp only [List.mem_cons, not_or] at h
    exact (ih h.2 _).trans (restoreDom_other t _ h.1)

/-- Of domains none of which is ON, those are ON after the walk that were to be. -/
theorem restoreDoms_on {l : List Nat} (hn : l.Nodup) (f : Nat → DomState) {t : State} (ht : ∀ d ∈ l, t.dom d ≠ .on)
    {d : Nat} (hd : d ∈ l) :
    ((l.map fun e => (e, f e)).foldl State.restoreDom t).dom d = .on ↔ f d = .on := by
  induction l generalizing t with
  | nil => simp at hd
  | cons e l ih =>
    obtain ⟨he, hl⟩ := List.nodup_cons.mp hn
    rw [List.map_cons, List.foldl_cons]
    rcases List.mem_cons.mp hd with rfl | hd'
    · rw [restoreDoms_other f he]
      exact restoreDom_same t _ _ (ht _ List.mem_cons_self)
    · refine ih hl (fun x hx => ?_) hd'
      rw [restoreDom_other _ _ (by rintro rfl; exact he hx)]
      exact ht x (List.mem_cons_of_mem _ hx)

theorem restartPc_dom (t : State) (n : Nat) {d : Nat} (hd : d < 124) : (t.restartPc kept marker n).dom d = t.dom d := by
  cases h : kept (pcFin n) with
  | true => exact (restartPc_of_kept h).2 d hd
  | false =>
    rw [restartPc_of_lost h]
    refine foldl_keeps (P := fun u : State => u.dom d = t.dom d) (fun u g hu => ?_) _ rfl
    exact (State.dom_congr rfl d).trans hu

theorem restartPcs_dom (l : List Nat) (t : State) {d : Nat} (hd : d < 124) :
    (l.foldl (State.restartPc kept marker) t).dom d = t.dom d :=
  foldl_keeps (P := fun u : State => u.dom d = t.dom d) (fun u n hu => (restartPc_dom u n hd).trans hu) l rfl

/-- At PORST_N no domain is ON (R45). -/
theorem reset_dom_ne_on : ∀ d ∈ upto 124, State.reset.dom d ≠ .on := by decide +kernel

theorem dieRstNAssert_dom (behind : BitVec 64) (s : State) {d : Nat} (hd : d < 124) :
    (dieRstNAssert behind s).dom d = .on ↔ s.dom d = .on := by
  have hoff : ∀ e ∈ upto 124, s.rstBase.dom e ≠ .on := fun e he =>
    State.dom_congr (s := State.reset) (t := s.rstBase) rfl e ▸ reset_dom_ne_on e he
  rw [dieRstNAssert_eq, restartPcs_dom _ _ hd]
  exact restoreDoms_on List.nodup_range (fun d => s.dom d) hoff (List.mem_range.mpr hd)

end rst

theorem rstBase_keeps (s : State) : Keeps State.reset s.rstBase [.pending, .free, .straps, .stack, .pins, .pwr, .pcs] :=
  fun r hr => by cases r <;> simp at hr <;> rfl

theorem gives_dieRstNAssert (s : State) (behind : BitVec 64) (hp : s.pins.porstN = true) (hv : s.pins.vddOk = true) :
    Gives (.dieRstNAssert behind) s fun t =>
      (∀ i, t.up i = false) ∧ t.straps = s.straps ∧ t.stack.cells = s.stack.cells ∧ (∀ (p : Fin 64) (g : Fin 4), s.bit
        (Reg.PC_REF_STATUS p) Fld.PC_REF_STATUS_SELF_REFRESH = false ∨ (behind.getLsbD p = true ∧ s.noticeRuns = true ∧
        s.pcs[p].clockLost = false) → g.val * 64 + p.val ∈ t.stack.undef) ∧ t.pins.dieRstN = false ∧ t.pins.dieWrstAck
        = false ∧ t.clk.pkg = 0 ∧ t.pending = s.pending ∧ (∀ d, d < 124 → (t.dom d = .on ↔ s.dom d = .on)) ∧ Keeps
        State.reset t [.pending, .free, .straps, .stack, .pins, .pwr, .pcs] := by
  have hk := dieRstNAssert_keeps behind s
  have hpins : (dieRstNAssert behind s).pins = s.rstBase.pins := hk .pins (by simp)
  have hpwr : (dieRstNAssert behind s).pwr = s.rstBase.pwr := hk .pwr (by simp)
  have hclk : (dieRstNAssert behind s).clk = s.rstBase.clk := hk .clk (by simp)
  refine ⟨_, congrArg Host.Outcome.next (if_pos ⟨hp, hv⟩), fun i => ?_, hk .straps (by simp), dieRstNAssert_cells _ _,
    fun p g hlost => dieRstNAssert_undef ?_ g, ?_, ?_, ?_, hk .pending (by simp), fun d hd => dieRstNAssert_dom _ _ hd,
    fun r hr => ?_⟩
  · rw [State.up, hpwr]
    show (Vector.replicate 133 false).toList.getD i.index false = false
    rw [Vector.toList_replicate, List.getD_eq_getElem?_getD, List.getElem?_replicate]
    split <;> rfl
  · rcases hlost with h | ⟨hb, hn, hc⟩
    · simp [State.keptBehind, h]
    · rw [State.keptBehind, hb, hn, hc]
      exact Bool.and_false _
  · rw [hpins]; rfl
  · rw [hpins]; rfl
  · rw [hclk]; rfl
  · have hbase := rstBase_keeps s r hr
    have hthen := hk r (by simp only [List.mem_cons, not_or] at hr ⊢; tauto)
    cases r <;> exact hthen.trans hbase

/-! ### Clock loss (R388) -/

/-- The banks of a PC that enters self-refresh: precharged, nothing owed (R171). -/
def Pc.precharged (c : Pc) : Pc :=
  { c with banks := c.banks.map fun b =>
      { b with row := none, preAt := some c.cycle, hits := 0, claim := .none, owed := 0, refreshing := false },
           owing := [] }

theorem selfRefreshEnter_bit (s : State) (p : Fin 64) :
    (s.selfRefreshEnter p).bit (Reg.PC_REF_STATUS p) Fld.PC_REF_STATUS_SELF_REFRESH = true := by
  have hraised := State.bit_raise (s.modPc p Pc.precharged) (Reg.PC_REF_STATUS p) Fld.PC_REF_STATUS_SELF_REFRESH
    (by decide) rfl
  have hapart := State.gf_sf_apart ((s.modPc p Pc.precharged).raise (Reg.PC_REF_STATUS p)
    Fld.PC_REF_STATUS_SELF_REFRESH) (Reg.PC_REF_STATUS p) Fld.PC_REF_STATUS_SCRUB Fld.PC_REF_STATUS_SELF_REFRESH 0
    (by decide) (by decide)
  exact (congrArg (fun v : Nat => decide (v = 1)) hapart).trans hraised

theorem selfRefreshEnter_pcs (s : State) (p q : Fin 64) :
    (s.selfRefreshEnter p).pcs[q] = if q = p then s.pcs[p].precharged else s.pcs[q] :=
  State.pcs_modPc s p q Pc.precharged

theorem writeMarker_pcs (s : State) (p q : Fin 64) (m : Marker) :
    (s.writeMarker p m).pcs[q] = if q = p then { s.pcs[p] with marker := m } else s.pcs[q] := by
  unfold State.writeMarker
  rw [State.pcs_modPc]
  cases s.stack.isUndef (s.markerLoc p) <;> rfl

/-- A PC that has lost its clock: no access is left in its queues, and admission is closed. -/
def Pc.cutOff (c : Pc) : Pc :=
  { c with rq := [], wq := [], fwd := [], wqStart := [], replay := none, clockLost := true, stopped := true }

/-- The write bursts whose data has begun complete, unless the loss cut one (R388). -/
def State.finishBegun (s : State) (p : Fin 64) (cut : Bool) : State :=
  if cut then s
  else (s.pcs[p].wq.filter fun w => w.issuedAt.isSome && decide (w.endAt ≤ s.pcs[p].cycle + 2)).foldl
    (fun t w => t.putBurst w.acc.loc w.acc.data w.acc.poison) s

/-- The state `u` with the marker that PC `p` leaves at its clock loss in `s`, if it can write one (R388). -/
def State.lossMarker (s u : State) (p : Fin 64) (cut bad : Bool) : State :=
  if cut ∨ bad ∨ !s.pins.vddOk then u else u.writeMarker p (if s.allClean then .markC0 else .markC1)

theorem putBursts_keeps (s : State) (l : List WqEntry) :
    Keeps s (l.foldl (fun t w => t.putBurst w.acc.loc w.acc.data w.acc.poison) s) [.stack] :=
  foldl_keeps' (fun _ _ hu => State.putBurst_keeps _ _ _ _ hu (by simp)) _ (Keeps.refl _ _)

section clock

variable (s : State) (p : Fin 64) (cut bad : Bool)

theorem finishBegun_keeps : Keeps s (s.finishBegun p cut) [.stack] := by
  unfold State.finishBegun
  split
  · exact Keeps.refl _ _
  · exact putBursts_keeps _ _

theorem finishBegun_regs : (s.finishBegun p cut).regs = s.regs := by
  unfold State.finishBegun
  split
  · rfl
  · refine foldl_keeps (P := fun u : State => u.regs = s.regs) (fun u w hu => ?_) _ rfl
    exact hu

theorem clockLoss_eq (hc : s.pcs[p].clockLost = false) :
    clockLoss p cut bad s = (s.lossMarker ((s.finishBegun p cut).modPc p Pc.cutOff) p cut bad).selfRefreshEnter p :=
  if_neg (by rw [hc]; exact Bool.false_ne_true)

theorem lossMarker_pcs (u : State) (q : Fin 64) : ∃ m,
    (s.lossMarker u p cut bad).pcs[q] = if q = p then { u.pcs[p] with marker := m } else u.pcs[q] := by
  unfold State.lossMarker
  split
  · exact ⟨u.pcs[p].marker, by split <;> simp_all⟩
  · exact ⟨_, writeMarker_pcs u p q _⟩

theorem clockLoss_pcs (hc : s.pcs[p].clockLost = false) (q : Fin 64) : ∃ m,
    (clockLoss p cut bad s).pcs[q] =
      if q = p then Pc.precharged { s.pcs[p].cutOff with marker := m } else s.pcs[q] := by
  have hpcs : (s.finishBegun p cut).pcs = s.pcs := finishBegun_keeps s p cut .pcs (by simp)
  obtain ⟨m, hm⟩ := lossMarker_pcs s p cut bad ((s.finishBegun p cut).modPc p Pc.cutOff) q
  simp only [State.pcs_modPc, hpcs, if_true] at hm
  refine ⟨m, ?_⟩
  rw [clockLoss_eq s p cut bad hc, selfRefreshEnter_pcs]
  by_cases hq : q = p
  · subst hq
    rw [if_pos rfl] at hm ⊢
    rw [if_pos rfl, hm]
  · rw [if_neg hq] at hm ⊢
    rw [if_neg hq, hm, if_neg hq]

theorem clockLoss_keepsRegs (hc : s.pcs[p].clockLost = false) :
    KeepsRegs s (clockLoss p cut bad s) [Reg.PC_REF_STATUS p] := by
  rw [clockLoss_eq s p cut bad hc]
  have hoff : KeepsRegs s ((s.finishBegun p cut).modPc p Pc.cutOff) [Reg.PC_REF_STATUS p] :=
    (KeepsRegs.refl s _).of_regs (finishBegun_regs s p cut)
  exact KeepsRegs.selfRefreshEnter (hoff.ite (hoff.writeMarker p _)) (by simp)

theorem gives_clockLoss (hl : s.live (.pc p) = true) (hc : s.pcs[p].clockLost = false) :
    Gives (.clockLoss p cut bad) s fun t =>
      t.pcs[p].clockLost = true ∧ t.pcs[p].stopped = true ∧ t.pcs[p].rq = [] ∧ t.pcs[p].wq = [] ∧ t.bit
        (Reg.PC_REF_STATUS p) Fld.PC_REF_STATUS_SELF_REFRESH = true ∧ (∀ q, q ≠ p → t.pcs[q] = s.pcs[q]) ∧ Keeps s t
        [.free, .pcs, .stack] ∧ KeepsRegs s t [Reg.PC_REF_STATUS p] := by
  obtain ⟨m, hown⟩ := clockLoss_pcs s p cut bad hc p
  rw [if_pos rfl] at hown
  refine ⟨_, congrArg Host.Outcome.next (State.onLive_true hl), congrArg Pc.clockLost hown, congrArg Pc.stopped hown,
    congrArg Pc.rq hown, congrArg Pc.wq hown, ?_, fun q hq => ?_,
    clockLoss_keeps p cut bad s (Keeps.refl _ _) (by simp) (by simp) (by simp), clockLoss_keepsRegs s p cut bad hc⟩
  · rw [clockLoss_eq s p cut bad hc]
    exact selfRefreshEnter_bit _ p
  · obtain ⟨m', hother⟩ := clockLoss_pcs s p cut bad hc q
    simpa [hq] using hother

end clock

/-! ### Local time (R27) -/

/-- Every island but the sensor and management island has a copy of its own. -/
theorem Island.index_lt_of_ne_sensor {i : Island} (h : i ≠ .sensor) : i.index < 132 := by
  have hlt := i.index_lt
  have hne : i.index ≠ Island.index .sensor := fun e => h (Island.index_inj e)
  have hs : Island.index .sensor = 132 := rfl
  omega

theorem State.now_of_ne_sensor (s : State) {i : Island} (h : i ≠ .sensor) :
    s.now i = s.clk.locals.toList.getD i.index 0 := by
  cases i with
  | sensor => exact absurd rfl h
  | _ => rfl

theorem localTime_locals {s : State} {i : Island} (h : i ≠ .sensor) (n : Nat) :
    (localTime i s).clk.locals.toList.getD n 0 = if n = i.index then s.clk.pkg else s.clk.locals.toList.getD n 0 := by
  have hi := Island.index_lt_of_ne_sensor h
  have hm : (Fin.ofNat 132 i.index).val = i.index := Nat.mod_eq_of_lt hi
  simp only [localTime, h, if_false, Vector.toList_set, hm]
  by_cases hn : n = i.index
  · subst hn; simp [hi]
  · simp [hn, List.getD, Ne.symm hn]

theorem gives_localTimeCorrection (s : State) (i : Island) (hl : s.live i = true) (hi : i ≠ .sensor) :
    Gives (.localTimeCorrection i) s fun t =>
      t.now i = s.clk.pkg ∧ t.clk.pkg = s.clk.pkg ∧ (∀ j, j ≠ i → t.now j = s.now j) ∧ Keeps s t [.clk] ∧
        KeepsRegs s t [] := by
  refine ⟨localTime i s, congrArg Host.Outcome.next (State.onLive_true hl), ?_, ?_, fun j hj => ?_,
    localTime_keeps i s (Keeps.refl _ _) (by simp), (KeepsRegs.refl _ _).of_regs ?_⟩
  · rw [State.now_of_ne_sensor _ hi, localTime_locals hi, if_pos rfl]
  · simp [localTime, hi]
  · by_cases hs : j = .sensor
    · subst hs; simp [State.now, localTime, hi]
    · rw [State.now_of_ne_sensor _ hs, State.now_of_ne_sensor _ hs, localTime_locals hi,
        if_neg fun e => hj (Island.index_inj e)]
  · simp [localTime, hi]

/-- Settles O10, clause by clause; the compensation of the oscillators changes nothing in the model. -/
theorem warmResetAndClockLoss : Obligations.WarmResetAndClockLoss := by
  unfold Obligations.WarmResetAndClockLoss
  exact ⟨gives_dieWrstReqFall_held, gives_dieWrstReqFall_runs, gives_dieWrstReqRise_early,
    gives_dieWrstReqRise_ends, gives_dieRstNAssert, gives_clockLoss, gives_localTimeCorrection, fun s => ⟨s, rfl, rfl⟩⟩

end Sys2Proof.Machine
end

section
/-! SUPPORT. The counterexamples to O29 and O21: a drop that waited for a line lock, and a burst that the redirect stage
holds. -/

namespace Sys2Proof.Machine

/-! ### A drop that waited for the release of a line lock (R188) -/

/-- A READ of 64 bytes at host port 0. -/
def waitingRead : Req :=
  { id := 0, part := 0, src := .host 0, op := .read, addr := 0, size := 64, hint := .normal, discard := false,
    urgent := false, attr := 0, cls := 1, data := [], strb := [], prefetch := false, count := 0, deckle := 0 }

/-- A released line lock with a drop to carry out, as a narrow LAST request with DISCARD leaves it (R187, R188), and
`waitingRead` behind it. -/
def dropMiss : Miss := { Miss.mk' 0 .waiting none [] false [waitingRead] with drop := some true }

/-- A line of which both sectors are there. -/
def wholeLine : Line :=
  let there : Sector := { valid := true, dirty := false, poison := false, data := zeros 64 }
  { Line.init with used := true, lo := there, hi := there }

/-- A state in which slice 0 answers, holds line 0 and has released its lock with `dropMiss` left. -/
def dropWaitsState : State :=
  let s : State := { State.reset with pwr := { State.reset.pwr with up := Vector.replicate 133 true } }
  (s.setDom 96 .on).modSlice 0 fun x => { x with misses := [dropMiss], ways := [(0, wholeLine)] }

/-- The drop comes first, and the READ then misses: a miss entry is left, in which it waits for its fill. -/
theorem dropWaitsState_misses : (missRelease 0 dropWaitsState).paths.slices[(0 : Fin 16)].misses ≠ [] := by
  decide +kernel

/-- Refutes O29: the clause on a request that waited for its line (its second) does not ask that no drop waits with it.
In `dropWaitsState` the drop of R188 is carried out first, so the READ finds no line and no answer is given. -/
theorem not_cacheQueues : ¬ Obligations.CacheQueues := by
  unfold Obligations.CacheQueues
  rintro ⟨-, hrelease, -⟩
  have hans : dropWaitsState.answers 0 = true := by decide +kernel
  have hslice : dropWaitsState.wbLines 0 = [] ∧ dropWaitsState.paths.slices[(0 : Fin 16)].misses = [dropMiss] ∧
      dropWaitsState.paths.slices[(0 : Fin 16)].find (lineNo waitingRead.addr) = some 0 ∧
      dropWaitsState.paths.slices[(0 : Fin 16)].way 0 = wholeLine ∧
      dropWaitsState.paths.slices[(0 : Fin 16)].red (lineNo waitingRead.addr) = none := by decide +kernel
  obtain ⟨hwb, hmiss, hfind, hway, hred⟩ := hslice
  obtain ⟨t, ht, -, hnone, -⟩ := hrelease dropWaitsState 0 0 waitingRead dropMiss 0 hans hwb hmiss rfl rfl rfl rfl
    rfl rfl rfl hfind (by rw [hway]; rfl) (by rw [hway]; rfl) (by rw [hway]; rfl) (by rw [hway]; rfl) hred
  have hexec : exec (.missEntryRelease 0) dropWaitsState = .next (missRelease 0 dropWaitsState) :=
    congrArg Host.Outcome.next (if_pos hans)
  obtain rfl : missRelease 0 dropWaitsState = t := by simpa [hexec] using ht
  exact dropWaitsState_misses hnone

/-! ### A burst that the redirect stage holds (R451) -/

/-- A closed entry of the half-pannier of PC 0 with one narrow write. -/
def heldEntry : PanEntry :=
  let write : Req := { waitingRead with op := .write, size := 8, hint := .stream, data := zeros 8,
                                        strb := List.replicate 8 true }
  { id := 0, loc := { rank := 0, bg := 0, bank := 0, row := 0, col := 0 }, openAt := 0, closed := true, placed := false,
    reqs := [{ req := write, slice := 0, burst := 0, offset := 0 }], bursts := [0], left := [] }

/-- A state in which rank 0 is being moved, the unit of `heldEntry` is the one at WM and has been copied four times. -/
def copiedUnitState : State :=
  let s : State := { State.reset with
    pwr := { State.reset.pwr with up := Vector.replicate 133 true },
    copiers := Vector.replicate 16 { CopyChan.init with copies := 4 } }
  ((s.setDom 0 .on).setRedir 0 { valid := true, state := .copying, cause := 0, origin := 0, src := 0, dst := 64,
                                 redo := false, wm := 0 }).modPc 0 fun c => { c with pan := [heldEntry] }

/-- The redirect stage holds the burst, so that the entry may not place it yet. -/
theorem copiedUnitState_holds : copiedUnitState.pcs[(0 : Fin 64)].pan.find? (copiedUnitState.mayPlace 0) = none := by
  decide +kernel

/-- Refutes O21: the clause on any entry whose window is over (its fifth) does not ask that the redirect stage lets its
bursts go on (R451). In `copiedUnitState` the entry's write is held after four copies, and the step changes nothing. -/
theorem not_pannierPath : ¬ Obligations.PannierPath := by
  unfold Obligations.PannierPath
  rintro ⟨-, -, -, -, hclose⟩
  have hlive : copiedUnitState.live (.pc 0) = true := by decide +kernel
  have hpan : copiedUnitState.pcs[(0 : Fin 64)].pan = [heldEntry] ∧
      copiedUnitState.pcs[(0 : Fin 64)].held 4 + heldEntry.bursts.length ≤ 8 := by decide +kernel
  obtain ⟨hpan, hroom⟩ := hpan
  obtain ⟨t, ht, hplaced, -⟩ := hclose copiedUnitState 0 heldEntry hlive (by rw [hpan]; rfl) hroom
  have hstays : pannierWindowClose 0 copiedUnitState = copiedUnitState := by
    simp only [pannierWindowClose, copiedUnitState_holds]
  have hexec : exec (.pannierWindowClose 0) copiedUnitState = .next copiedUnitState :=
    congrArg Host.Outcome.next ((State.onLive_true hlive).trans hstays)
  obtain rfl : copiedUnitState = t := by simpa [hexec] using ht
  exact absurd (hplaced heldEntry (by rw [hpan]; exact List.mem_singleton_self _) rfl).2.1 (by decide)

end Sys2Proof.Machine
end

section
/-! SUPPORT. The state at reset (O4), and the counterexamples to O9, O15, O26, O43 and O45. -/

namespace Sys2Proof.Machine

set_option Elab.async false

/-! ### The state at reset (R41, R44, R45) -/

theorem State.up_reset (i : Island) : State.reset.up i = false := by
  rw [State.up, State.reset, Vector.toList_replicate, List.getD_replicate (h := i.index_lt)]

/-- The words of the power domains read 0 at reset, the code of OFF (R494). -/
theorem regReset_domState : ∀ w < 8, regReset (Reg.THERM_DOM_STATE w) = 0 := by decide +kernel

theorem State.dom_reset {d : Nat} (hd : d < 124) : State.reset.dom d = .off := by
  have hword : State.reset.rd (Reg.THERM_DOM_STATE (d / 16)) = 0 := regReset_domState _ (by omega)
  simp [State.dom, hword, natBits, DomState.ofCode]

/-- Every island is in reset, so every output but MEM_RESET_N shows its reset level, and MEM_RESET_N is low (R41). -/
theorem State.outLevel_reset (p : OutPin) : State.reset.outLevel p = p.resetLevel := by
  unfold State.outLevel
  by_cases hp : p = .memResetN
  · subst hp; rfl
  · rw [if_neg (by simp [State.up_reset, hp])]

/-- Settles O4: no island is up at reset, so that every output shows the Reset column, and no register is written. -/
theorem resetState : Obligations.ResetState := by
  unfold Obligations.ResetState
  exact ⟨rfl, State.up_reset, fun d hd => State.dom_reset hd, fun o => rfl, rfl, rfl, rfl, rfl, rfl, State.outLevel_reset,
    rfl, rfl, rfl, rfl, rfl, fun p => ⟨rfl, rfl, rfl⟩, fun n => rfl, fun n => rfl⟩

/-! ### The end of the handshake of a re-power (R494) -/

/-- The handshake of stage 15 has been acknowledged while the domain of the scheduler core is isolated: the re-power that
ends is that of the domain of the upkeep core. -/
def repowerTwoState : State :=
  let s : State := { State.reset with
    pwr := { State.reset.pwr with up := Vector.replicate 133 true, stageReqAt := some 0, acked := true,
                                  repower := some 113 },
    pins := { State.reset.pins with stgNum := 15, stgAck := true } }
  (s.setDom 112 .isolated).setDom 113 .on

/-- The fall of the acknowledgement ends one re-power and begins that of the other isolated core domain at once. -/
theorem repowerTwoState_begins : (stageAckFall repowerTwoState).pwr.repower = some 112 := by decide +kernel

/-- Refutes O9: the clause on the end of the handshake of stage 15 (its fourth) does not ask that no other domain of a
firmware core is isolated. In `repowerTwoState` the re-power of the next one begins with the same step (R494). -/
theorem not_powerStages : ¬ Obligations.PowerStages := by
  unfold Obligations.PowerStages
  rintro ⟨-, -, -, hfall, -⟩
  have hup : repowerTwoState.up .sensor = true := by decide +kernel
  obtain ⟨t, ht, -, -, -, hnone, -⟩ := hfall repowerTwoState 0 hup rfl rfl rfl
  have hexec : exec .pwrStgAckFall repowerTwoState = .next (stageAckFall repowerTwoState) :=
    congrArg Host.Outcome.next (if_pos hup)
  obtain rfl : stageAckFall repowerTwoState = t := by simpa [hexec] using ht
  rw [repowerTwoState_begins] at hnone
  exact absurd hnone (by decide)

/-! ### The end of the restart hold with a PC that has lost its clock (R388) -/

/-- The restart hold of a shutdown is over, and PC 0, which is in service, has lost its clock. -/
def lostClockState : State :=
  let s : State := { State.reset with
    pwr := { State.reset.pwr with up := Vector.replicate 133 true },
    pcs := State.reset.pcs.set 0 { Pc.init with clockLost := true },
    clk := { State.reset.clk with pkg := 2 ^ 32 },
    therm := { Thermal.init with holdFrom := some 0 } }
  ((s.setDom 123 .on).setDom 0 .on).raise Reg.THERM_STATUS Fld.THERM_STATUS_SHUTDOWN

/-- The stack behind a PC without a clock stays in self-refresh: its exit scrub does not begin (R388). -/
theorem lostClockState_noScrub :
    (restartExpiry lostClockState).bit (Reg.PC_REF_STATUS 0) Fld.PC_REF_STATUS_SCRUB = false := by decide +kernel

/-- Refutes O15: the clause on the end of the restart hold (its seventh) speaks of every PC in service, and one that has
lost its clock leaves self-refresh only at DIE_RST_N (R388). In `lostClockState` PC 0 is such a PC. -/
theorem not_thermalShutdownAndRestart : ¬ Obligations.ThermalShutdownAndRestart := by
  unfold Obligations.ThermalShutdownAndRestart
  rintro ⟨-, -, -, -, -, -, hexpiry, -⟩
  have hlive : lostClockState.live .sensor = true ∧ lostClockState.live (.pc 0) = true := by decide +kernel
  have hover : lostClockState.shutdown = true ∧ 0 + lostClockState.gf Reg.THERM_GUARD_CFG
      Fld.THERM_GUARD_CFG_RESTART_HOLD_MS * 1000000 ≤ lostClockState.clk.pkg := by decide +kernel
  obtain ⟨t, ht, -, -, -, hwakes, -⟩ := hexpiry lostClockState 0 hlive.1 rfl hover.1 hover.2
  have hexec : exec .restartHoldExpiry lostClockState = .next (restartExpiry lostClockState) :=
    congrArg Host.Outcome.next (State.onLive_true hlive.1)
  obtain rfl : restartExpiry lostClockState = t := by simpa [hexec] using ht
  have hscrub := (hwakes 0 hlive.2).1
  rw [show Reg.PC_REF_STATUS ((0 : Fin 64) : Nat) = Reg.PC_REF_STATUS 0 from rfl, lostClockState_noScrub] at hscrub
  exact absurd hscrub (by decide)

/-! ### A CLEAN of a line with a write-back that another slice has sent (R189) -/

/-- A CLEAN of line 0 from host port 0. -/
def cleanReq : Req := { waitingRead with op := .clean, size := 128 }

/-- A write-back of line 0 that slice 1 has sent, as before a change of the fences. -/
def otherWriteBack : Access :=
  { id := 0, cls := 2, loc := { rank := 0, bg := 0, bank := 0, row := 0, col := 0 }, addr := some 0, write := true,
    data := zeros 64, mask := List.replicate 64 true, poison := false, owner := .writeBack 1 0 }

/-- Slice 0 holds line 0 clean with `cleanReq` at the head of its queue, and `otherWriteBack` is on the crossbar. -/
def otherSliceState : State :=
  let s : State := { State.reset with pwr := { State.reset.pwr with up := Vector.replicate 133 true } }
  ((s.setDom 96 .on).modSlice 0 fun x => { x with input := [cleanReq], ways := [(0, wholeLine)] }).modPaths fun x =>
    { x with memXbar := [(0, otherWriteBack)] }

/-- The CLEAN waits for the write-back under a lock of its line. -/
theorem otherSliceState_waits :
    (otherSliceState.takeHead 0 fun r => decide (r.op = .clean ∨ r.op = .reserved)).paths.slices[(0 : Fin 16)].misses ≠
      [] := by decide +kernel

/-- Refutes O26: the clause on a CLEAN of a clean line (its fourth) asks that the slice itself has sent no write-back,
but a CLEAN waits for those of its line that any slice has sent (R189). In `otherSliceState` slice 1 has sent one. -/
theorem not_cacheReadsAndWrites : ¬ Obligations.CacheReadsAndWrites := by
  unfold Obligations.CacheReadsAndWrites
  rintro ⟨-, -, -, hclean, -⟩
  have hans : otherSliceState.answers 0 = true := by decide +kernel
  have hslice : otherSliceState.paths.slices[(0 : Fin 16)].input = [cleanReq] ∧
      otherSliceState.paths.slices[(0 : Fin 16)].misses = [] ∧ otherSliceState.wbLines 0 = [] ∧
      otherSliceState.paths.slices[(0 : Fin 16)].find (lineNo cleanReq.addr) = some 0 ∧
      otherSliceState.paths.slices[(0 : Fin 16)].way 0 = wholeLine := by decide +kernel
  obtain ⟨hinput, hmiss, hwb, hfind, hway⟩ := hslice
  have hhead : AtHead otherSliceState 0 cleanReq [] 0 :=
    ⟨hans, hinput, hmiss, hwb, hfind, by rw [hway]; rfl, by rw [hway]; rfl, by rw [hway]; rfl, by rw [hway]; rfl⟩
  obtain ⟨t, ht, -, -, -, -, hnone, -⟩ := hclean otherSliceState 0 0 cleanReq [] 0 hhead rfl rfl rfl (by rw [hway]; rfl)
  have hexec : exec (.clean 0) otherSliceState =
      .next (otherSliceState.takeHead 0 fun r => decide (r.op = .clean ∨ r.op = .reserved)) :=
    congrArg Host.Outcome.next (if_pos hans)
  obtain rfl : _ = t := by simpa [hexec] using ht
  exact otherSliceState_waits hnone

/-! ### A frame for another instance of the package (R348, R376) -/

/-- A frame of 64 bytes for instance 1 of this package. -/
def passingBytes : List Byte := zeros 12 ++ [1] ++ zeros 51

/-- Instance 0 of two with its east port in service, sub-port 0 up, and an older frame for instance 1 that waits for
space there. -/
def ringWaitState : State :=
  let x : RxFrame := { frame := Frame.ofBytes passingBytes, sub := none, via := 0, at_ := 0, partner := 0 }
  let s : State := { State.reset with
    pwr := { State.reset.pwr with up := Vector.replicate 133 true },
    rmt := { Rmt.init with ringWait := [(x, (1, none))] } }
  (((s.setDom 120 .on).raise (Reg.RMT_SUBPORT_STATUS 0) Fld.RMT_SUBPORT_STATUS_LINK_UP).sf Reg.D2D_RING_STATUS
    Fld.D2D_RING_STATUS_COUNT 2).raise Reg.D2D_RING_STATUS Fld.D2D_RING_STATUS_EAST_UP

/-- The attempt to reserve space at the other instance uses up a free value. -/
theorem ringWaitState_free : (frameReceive 0 passingBytes false ringWaitState).free = 1 := by decide +kernel

/-- Refutes O43: the clause on any frame at a link that is up (its fifteenth) says that the model's count of free values
stays. In `ringWaitState` the frame goes to the ring, and each attempt to reserve space at the other instance takes one
(R376; log entry 49). -/
theorem not_remoteReceiving : ¬ Obligations.RemoteReceiving := by
  unfold Obligations.RemoteReceiving
  rintro ⟨-, -, -, -, -, -, -, -, -, -, -, -, -, -, hany, -⟩
  have hlive : ringWaitState.live .remote = true := by decide +kernel
  have hup : ringWaitState.rmtUp (0 : Fin 8) = true ∧ ringWaitState.rxReady 0 = true := by decide +kernel
  obtain ⟨t, ht, -, -, -, hkeeps, -⟩ := hany ringWaitState 0 passingBytes false hlive hup.1 hup.2
  have hexec : exec (.remoteFrameReceive 0 passingBytes false) ringWaitState =
      .next (frameReceive 0 passingBytes false ringWaitState) :=
    congrArg Host.Outcome.next (State.onLive_true hlive)
  obtain rfl : frameReceive 0 passingBytes false ringWaitState = t := by simpa [hexec] using ht
  have hfree : (frameReceive 0 passingBytes false ringWaitState).free = ringWaitState.free := hkeeps .free (by simp)
  rw [ringWaitState_free] at hfree
  exact absurd hfree (by decide)

/-! ### A data frame under the key of the control frames (R347, R351) -/

/-- A header-only frame of class 0 on REQ that stands in a transmit queue under the key 8193 of control frames. -/
def controlKeyTx : Tx :=
  { key := 8193, cls := 0, frame := { Frame.ofBytes (zeros 64) with credit := [] }, at_ := 0, reply := false,
    coll := none }

/-- Sub-port 0 is up and free with a credit for each channel and `controlKeyTx` in its queue. -/
def controlKeyState : State :=
  let s : State := { State.reset with pwr := { State.reset.pwr with up := Vector.replicate 133 true } }
  (((s.setDom 120 .on).raise (Reg.RMT_SUBPORT_STATUS 0) Fld.RMT_SUBPORT_STATUS_LINK_UP)).modSub 0 fun p =>
    { p with tx := [controlKeyTx], credit := Vector.replicate 4 1 }

/-- The frame starts as a control frame does: it takes no credit. -/
theorem controlKeyState_credit :
    ((frameStart 0 controlKeyState).sub 0).credit = Vector.replicate 4 1 := by decide +kernel

/-- Deficit round robin chooses the frame. -/
theorem controlKeyState_best : ∃ d, (looking controlKeyState 0).bestClass 0 = some (0, controlKeyTx, d) :=
  ⟨[(8193, 4160)], by decide +kernel⟩

/-- Refutes O45: the clause on the choice among the queues (its seventh) does not ask that the frame's key is that of a
partner or of the forward queue. In `controlKeyState` it is that of control frames, which take no credit (R347). The
clause speaks of every state; no claim is made that this one is reached. -/
theorem not_sendingFrames : ¬ Obligations.SendingFrames := by
  unfold Obligations.SendingFrames
  rintro ⟨-, -, -, -, -, -, hchoice, -⟩
  obtain ⟨d, hbest⟩ := controlKeyState_best
  have hlive : controlKeyState.live .remote = true := by decide +kernel
  have hfree : FreeSub controlKeyState 0 := by decide +kernel
  obtain ⟨t, ht, ⟨-, -, -, -, -, hcredit⟩, -⟩ := hchoice controlKeyState 0 0 controlKeyTx d hfree hbest
  have hexec : exec (.subportFrameStart 0) controlKeyState = .next (frameStart 0 controlKeyState) :=
    congrArg Host.Outcome.next (State.onLive_true hlive)
  obtain rfl : frameStart 0 controlKeyState = t := by simpa [hexec] using ht
  have hreq := hcredit 0
  rw [controlKeyState_credit] at hreq
  exact absurd hreq (by decide +kernel)

end Sys2Proof.Machine
end

section
/-! SUPPORT. The cold reset, the release of PORST_N and of the sensor and management island (O8). -/

namespace Sys2Proof.Machine

set_option Elab.async false

/-! ### The cold reset (R45, R401) -/

theorem State.cold_keeps (s : State) : Keeps State.reset s.cold [.pending, .free, .pins, .stack] := by
  intro r hr
  cases r <;> first | rfl | simp at hr

theorem cold_cold (s : State) : Cold s s.cold := by
  refine ⟨State.up_reset, fun l hl => ?_, rfl, rfl, rfl, s.cold_keeps, KeepsRegs.of_regs (KeepsRegs.refl _ _) rfl⟩
  simp [State.cold, Stack.isUndef, upto, hl]

/-- The levels of the pins are no part of what a cold reset leaves. -/
theorem Cold.modPins {s t : State} (h : Cold s t) (f : Pins → Pins) : Cold s (t.modPins f) := by
  obtain ⟨hup, hundef, hheight, hpending, hfree, hkeeps, hregs⟩ := h
  exact ⟨hup, hundef, hheight, hpending, hfree, State.modPins_keeps t f hkeeps (by simp), hregs.modPins f⟩

/-! ### The release of PORST_N (R44, R393) -/

theorem KeepsRegs.setDom {s0 s : State} {rs : List Nat} (h : KeepsRegs s0 s rs) {d : Nat}
    (m : Reg.THERM_DOM_STATE (d / 16) ∈ rs) (v : DomState) : KeepsRegs s0 (s.setDom d v) rs := h.wr m _

theorem strap_eq_three_iff (m : BitVec 2) : m.toNat = 3 ↔ m = 3 := by bv_omega

/-- What the release of PORST_N leaves when a domain begins to ramp: the domain is a parameter, so that the facts on the
parts of the state do not evaluate its register. -/
def State.porstReleased (s : State) (d : Nat) (straps : Straps) (invalid : Bool) : State :=
  let t := (s.modPins fun p => { p with porstN := true, vddOk := true }).modPwr fun w =>
    { w with sensorRamp := true, strapInvalid := invalid }
  { t.setDom d .staging with straps := straps, clk := { s.clk with releasedAt := s.clk.pkg } }

/-- The straps as they are sampled: a reserved die-to-die mode counts as unused (R44). -/
def sampledStraps (head : Bool) (west east : BitVec 2) (use kind : BitVec 8) : Straps :=
  { chainHead := head, wMode := if west = 3 then 0 else west.toNat,
    eMode := if east = 3 then 0 else east.toNat, snsUse := use, snsKind := kind }

theorem porstNRelease_low {head : Bool} {west east : BitVec 2} {use kind : BitVec 8} {s : State}
    (hlow : s.pins.porstN = false) : porstNRelease head west east use kind s =
      s.porstReleased 123 (sampledStraps head west east use kind)
        (decide (west = 3) || decide (east = 3)) := by
  unfold porstNRelease
  simp only [strap_eq_three_iff]
  exact if_neg (by simp [hlow])

section

variable (s : State) (d : Nat) (straps : Straps) (invalid : Bool)

theorem porstReleased_porstN : (s.porstReleased d straps invalid).pins.porstN = true := rfl

theorem porstReleased_straps : (s.porstReleased d straps invalid).straps = straps := rfl

theorem porstReleased_strapInvalid : (s.porstReleased d straps invalid).pwr.strapInvalid = invalid := rfl

theorem porstReleased_up : (s.porstReleased d straps invalid).pwr.up = s.pwr.up := rfl

theorem porstReleased_clk : (s.porstReleased d straps invalid).clk = { s.clk with releasedAt := s.clk.pkg } := rfl

theorem porstReleased_regs : (s.porstReleased d straps invalid).regs = (s.setDom d .staging).regs := rfl

end

theorem gives_porstNRelease (s : State) (head : Bool) (west east : BitVec 2) (use kind : BitVec 8)
    (hlow : s.pins.porstN = false) : Gives (.porstNRelease head west east use kind) s fun t =>
      t.pins.porstN = true ∧ t.straps.chainHead = head ∧ t.straps.snsUse = use ∧ t.straps.snsKind = kind ∧
        t.straps.wMode = (if west = 3 then 0 else west.toNat) ∧ t.straps.eMode = (if east = 3 then 0 else east.toNat) ∧
        (t.pwr.strapInvalid = true ↔ west = 3 ∨ east = 3) ∧ t.pwr.up = s.pwr.up ∧ t.dom 123 = .staging ∧
        (∀ d, d ≠ 123 → t.dom d = s.dom d) ∧ t.clk.pkg = s.clk.pkg ∧ t.clk.releasedAt = s.clk.pkg ∧
        Keeps s t [.pins, .pwr, .straps, .clk] ∧ KeepsRegs s t [Reg.THERM_DOM_STATE 7] := by
  refine ⟨porstNRelease head west east use kind s, rfl, ?_⟩
  have hkeeps : Keeps s (porstNRelease head west east use kind s) [.pins, .pwr, .straps, .clk] :=
    porstNRelease_keeps head west east use kind s (Keeps.refl _ _) (by simp) (by simp) (by simp) (by simp)
  rw [porstNRelease_low hlow] at hkeeps ⊢
  beta_reduce
  have hregs := porstReleased_regs s 123 (sampledStraps head west east use kind)
    (decide (west = 3) || decide (east = 3))
  rw [porstReleased_straps, porstReleased_clk, porstReleased_strapInvalid]
  refine ⟨porstReleased_porstN .., rfl, rfl, rfl, rfl, rfl, by simp, porstReleased_up .., ?_, fun d hd => ?_, rfl, rfl,
    hkeeps, ?_⟩
  · exact (State.dom_congr hregs 123).trans (State.dom_setDom_same s 123 .staging)
  · exact (State.dom_congr hregs d).trans (State.dom_setDom_other s 123 d .staging hd)
  · exact ((KeepsRegs.refl s _).setDom (d := 123) (by simp) .staging).of_regs hregs

/-! ### The release of the sensor and management island (R393, R474, R476) -/

/-- The island is out of reset and every sensor's reading is awaited from a time on. -/
def State.sensorAwaits (s : State) (time : Nat) : State :=
  let t := s.release .sensor
  { t with therm := { t.therm with sensors := t.therm.sensors.map fun x => { x with readAt := some time } } }

theorem release_sensor (s : State) :
    s.release .sensor = s.modPwr fun w => { w with up := w.up.set (Fin.ofNat 133 Island.sensor.index) true } := rfl

theorem sensorAwaits_eq (s : State) (time : Nat) : s.sensorAwaits time = { s with
    pwr := { s.pwr with up := s.pwr.up.set (Fin.ofNat 133 Island.sensor.index) true },
    therm := { s.therm with sensors := s.therm.sensors.map fun x => { x with readAt := some time } } } := by
  rw [State.sensorAwaits, release_sensor]
  rfl

theorem sensorAwaits_up (s : State) (time : Nat) (i : Island) :
    (s.sensorAwaits time).up i = (decide (i = .sensor) || s.up i) := State.up_release s .sensor i

theorem sensorStarts_eq (s : State) : s.sensorStarts =
    if s.pins.dieWrstReqN then s.sensorAwaits s.clk.raw else (s.sensorAwaits s.clk.raw).decideNotice := rfl

/-- A domain is ON and its ramp over. -/
def State.rampEnds (s : State) (d : Nat) : State := (s.setDom d .on).modPwr fun w => { w with sensorRamp := false }

theorem rampEnds_regs (s : State) (d : Nat) : (s.rampEnds d).regs = (s.setDom d .on).regs := rfl

theorem rampEnds_up (s : State) (d : Nat) (i : Island) : (s.rampEnds d).up i = s.up i := rfl

theorem rampEnds_eq (s : State) (d : Nat) :
    s.rampEnds d = { s with regs := (s.rampEnds d).regs, pwr := { s.pwr with sensorRamp := false } } := rfl

/-- The island and its domain are in service; the notice is still to be looked at. -/
def State.sensorUp (s : State) : State := (s.rampEnds 123).sensorAwaits s.clk.raw

theorem sensorUp_eq (s : State) : s.sensorUp = { s with
    regs := (s.rampEnds 123).regs,
    pwr := { s.pwr with sensorRamp := false, up := s.pwr.up.set (Fin.ofNat 133 Island.sensor.index) true },
    therm := { s.therm with sensors := s.therm.sensors.map fun x => { x with readAt := some s.clk.raw } } } := by
  rw [State.sensorUp, sensorAwaits_eq]
  generalize 123 = d
  rw [rampEnds_eq]

theorem sensorRelease_due {s : State} (hramp : s.pwr.sensorRamp = true) (hporst : s.pins.porstN = true)
    (hvdd : s.pins.vddOk = true) (hdown : s.up .sensor = false) (hpll : s.clk.releasedAt + 35000 ≤ s.clk.pkg) :
    sensorRelease s = if s.pins.dieWrstReqN then s.sensorUp else s.sensorUp.decideNotice := by
  have hstarts : sensorRelease s = (s.rampEnds 123).sensorStarts := by
    unfold sensorRelease
    exact if_pos (by simp [hramp, hporst, hvdd, hdown, hpll])
  rw [hstarts, sensorStarts_eq, State.sensorUp]
  generalize 123 = d
  rw [rampEnds_eq]

theorem sensorRelease_early {s : State} (hpll : s.clk.pkg < s.clk.releasedAt + 35000) : sensorRelease s = s := by
  unfold sensorRelease
  exact if_neg fun h => by omega

theorem sensorUp_regs (s : State) : s.sensorUp.regs = (s.setDom 123 .on).regs := by
  rw [sensorUp_eq, ← rampEnds_regs]

theorem sensorUp_pins (s : State) : s.sensorUp.pins = s.pins := by rw [sensorUp_eq]

theorem sensorUp_ramp (s : State) : s.sensorUp.pwr.sensorRamp = false := by rw [sensorUp_eq]

theorem sensorUp_sensors (s : State) :
    s.sensorUp.therm.sensors = s.therm.sensors.map fun x => { x with readAt := some s.clk.raw } := by rw [sensorUp_eq]

theorem sensorUp_up (s : State) (i : Island) : s.sensorUp.up i = (decide (i = .sensor) || s.up i) :=
  (sensorAwaits_up (s.rampEnds 123) _ i).trans (by rw [rampEnds_up])

theorem sensorUp_dom_sensor (s : State) : s.sensorUp.dom 123 = .on :=
  (State.dom_congr (sensorUp_regs s) _).trans (State.dom_setDom_same s 123 .on)

theorem sensorUp_dom_other (s : State) {d : Nat} (hd : d ≠ 123) : s.sensorUp.dom d = s.dom d :=
  (State.dom_congr (sensorUp_regs s) _).trans (State.dom_setDom_other s 123 d .on hd)

theorem sensorUp_keeps (s : State) : Keeps s s.sensorUp [.pwr, .therm] := by
  rw [sensorUp_eq]
  intro r hr
  cases r <;> first | rfl | simp at hr

theorem sensorUp_keepsRegs (s : State) : KeepsRegs s s.sensorUp [Reg.THERM_DOM_STATE 7] :=
  ((KeepsRegs.refl s _).setDom (d := 123) (by simp) .on).of_regs (sensorUp_regs s)

theorem exec_sensorRelease (s : State) : exec .sensorIslandResetRelease s = .next (sensorRelease s) := rfl

/-- The word with the state of the sensor and management domain is none that the drain of a notice can change. -/
theorem domState_notMem_drainRegs : Reg.THERM_DOM_STATE 7 ∉ drainRegs := by decide +kernel

section released

variable {s : State} (hramp : s.pwr.sensorRamp = true) (hporst : s.pins.porstN = true) (hvdd : s.pins.vddOk = true)
  (hdown : s.up .sensor = false) (hpll : s.clk.releasedAt + 35000 ≤ s.clk.pkg)

include hramp hporst hvdd hdown hpll

theorem gives_sensorRelease (hreq : s.pins.dieWrstReqN = true) : Gives .sensorIslandResetRelease s fun t =>
      t.up .sensor = true ∧ t.dom 123 = .on ∧ (∀ d, d ≠ 123 → t.dom d = s.dom d) ∧
        (∀ i, i ≠ .sensor → t.up i = s.up i) ∧ t.pwr.sensorRamp = false ∧
        (∀ i : Fin 33, t.therm.sensors[i].readAt = some s.clk.raw) ∧ Keeps s t [.pwr, .therm] ∧
        KeepsRegs s t [Reg.THERM_DOM_STATE 7] := by
  refine ⟨_, exec_sensorRelease s, ?_⟩
  rw [sensorRelease_due hramp hporst hvdd hdown hpll, if_pos hreq]
  exact ⟨by simp [sensorUp_up], sensorUp_dom_sensor s, fun d hd => sensorUp_dom_other s hd,
    fun i hi => by simp [sensorUp_up, hi], sensorUp_ramp s, fun i => by simp [sensorUp_sensors], sensorUp_keeps s,
    sensorUp_keepsRegs s⟩

theorem gives_sensorRelease_notice (hreq : s.pins.dieWrstReqN = false) (hack : s.pins.dieWrstAck = false)
    (hoff : s.pins.computeOffReq = false) : Gives .sensorIslandResetRelease s fun t =>
      t.up .sensor = true ∧ t.dom 123 = .on ∧ t.pins.dieWrstAck = true ∧ t.pwr.quiesced = true ∧
        t.therm.sensors = s.therm.sensors.map (fun x => { x with readAt := some s.clk.raw }) ∧
        Keeps s t [.free, .inbox, .inj, .paths, .pcs, .pins, .pwr, .ring, .stack, .tags, .therm] ∧
        KeepsRegs s t (Reg.THERM_DOM_STATE 7 :: drainRegs) := by
  refine ⟨_, exec_sensorRelease s, ?_⟩
  have hnotice : sensorRelease s = s.sensorUp.warmNotice := by
    rw [sensorRelease_due hramp hporst hvdd hdown hpll]
    simp [State.decideNotice, sensorUp_pins, hreq, hack, hoff]
  rw [hnotice]
  have hkeeps : Keeps s s.sensorUp.warmNotice
      [.free, .inbox, .inj, .paths, .pcs, .pins, .pwr, .ring, .stack, .tags, .therm] :=
    State.warmNotice_keeps _ (fun r hr => sensorUp_keeps s r fun h => hr (by simp_all)) (by simp) (by simp) (by simp)
      (by simp) (by simp) (by simp) (by simp) (by simp) (by simp) (by simp)
  obtain ⟨u, hu, hshape⟩ := warmNotice_shape s.sensorUp
  have hpwr : u.pwr = s.sensorUp.noticeBegun.pwr := hshape .pwr (by simp)
  have htherm : u.therm = s.sensorUp.therm := hshape .therm (by simp)
  have hdom : s.sensorUp.warmNotice.rd (Reg.THERM_DOM_STATE 7) = s.sensorUp.rd (Reg.THERM_DOM_STATE 7) :=
    (KeepsRegs.refl s.sensorUp drainRegs).warmNotice (List.Subset.refl _) _ domState_notMem_drainRegs
  refine ⟨?_, ?_, ?_, warmNotice_quiesced _, ?_, hkeeps, ?_⟩
  · have hup : s.sensorUp.warmNotice.up .sensor = s.sensorUp.up .sensor := by
      rw [hu]
      simp only [State.up, State.modPins, hpwr, State.noticeBegun, State.modPwr]
    simpa [sensorUp_up] using hup
  · have hsame : s.sensorUp.warmNotice.dom 123 = s.sensorUp.dom 123 := by simp only [State.dom, Nat.reduceDiv, hdom]
    exact hsame.trans (sensorUp_dom_sensor s)
  · rw [warmNotice_pins]
  · rw [hu]
    exact (congrArg Thermal.sensors htherm).trans (sensorUp_sensors s)
  · exact KeepsRegs.warmNotice ((sensorUp_keepsRegs s).mono (by simp)) (by simp)

end released

/-- Settles O8, clause by clause. -/
theorem coldResetAndRelease : Obligations.ColdResetAndRelease := by
  unfold Obligations.ColdResetAndRelease
  exact ⟨fun s => ⟨_, rfl, cold_cold s, rfl, rfl⟩,
    fun s => ⟨_, rfl, (cold_cold s).modPins _, rfl, rfl⟩,
    fun s head west east use kind hlow => gives_porstNRelease s head west east use kind hlow,
    fun _ hramp hporst hvdd hdown hpll hreq => gives_sensorRelease hramp hporst hvdd hdown hpll hreq,
    fun _ hpll => ⟨_, exec_sensorRelease _, sensorRelease_early hpll⟩,
    fun _ hramp hporst hvdd hdown hpll hreq hack hoff =>
      gives_sensorRelease_notice hramp hporst hvdd hdown hpll hreq hack hoff⟩

end Sys2Proof.Machine
end

section
/-! SUPPORT. What a reading does to its sensor, to the zone and, for the stack, to the refresh rate (O12). -/

namespace Sys2Proof.Machine

set_option Elab.async false

/-! ### Fields of one register, apart and in other registers -/

section fields

variable (s : State) (o a : Nat) (f g : Fld) (v : Nat)

theorem State.bit_sf_apart (h : f.lo + f.width ≤ 32) (hd : g.lo + g.width ≤ f.lo ∨ f.lo + f.width ≤ g.lo) :
    (s.sf o f v).bit o g = s.bit o g := by
  rw [State.bit, State.bit, State.gf_sf_apart s o f g v h hd]

theorem State.bit_sf_other (h : a ≠ o) : (s.sf o f v).bit a g = s.bit a g := by
  rw [State.bit, State.bit, State.gf_sf_other s o a f g v h]

theorem State.gf_congr {s t : State} {o : Nat} (h : t.rd o = s.rd o) (f : Fld) : t.gf o f = s.gf o f := by
  rw [State.gf, State.gf, h]

theorem State.bit_congr {s t : State} {o : Nat} (h : t.rd o = s.rd o) (f : Fld) : t.bit o f = s.bit o f := by
  rw [State.bit, State.bit, State.gf_congr h f]

theorem State.rd_raiseIf_ne (c : Bool) (h : a ≠ o) : (s.raiseIf c o f).rd a = s.rd a := by
  cases c
  · rfl
  · exact State.rd_sf_ne s o f 1 h

theorem State.bit_raiseIf (c : Bool) (h : f.lo + f.width ≤ 32) (hw : f.width = 1) (hc : c = true ∨ s.bit o f = true) :
    (s.raiseIf c o f).bit o f = true := by
  cases c
  · exact hc.resolve_left (by simp)
  · exact State.bit_raise s o f h hw

end fields

/-! ### A reading of a sensor (R474) -/

/-- The zone of the sensor is to be evaluated anew, and the sensor takes what the reading says about it. -/
def State.heard (s : State) (i : Nat) (f : Sensor → Sensor) : State :=
  (s.modZone (zoneFin (s.zoneOf i)) fun z => { z with fresh := true }).modSensor (sensorFin i) f

/-- What a valid reading leaves of a sensor. -/
def Sensor.read (y : Sensor) (time : Nat) : Sensor := { y with readAt := some time, streak := y.streak + 1 }

/-- What a reading out of range, or none at all, leaves of a sensor. -/
def Sensor.failed (y : Sensor) : Sensor := { y with streak := 0 }

/-- A valid reading, before the end of a broken state. -/
def State.validRead (s : State) (i : Nat) (x : Int) : State :=
  ((s.heard i fun y => y.read s.clk.raw).raise (Reg.THERM_SNS_READ i) Fld.THERM_SNS_READ_VALID).sf
    (Reg.THERM_SNS_READ i) Fld.THERM_SNS_READ_TEMP (temp10 x)

/-- The end of the broken state of a sensor. -/
def State.mended (s : State) (i : Nat) : State :=
  (s.sf (Reg.THERM_SNS_READ i) Fld.THERM_SNS_READ_BROKEN 0).sf (Reg.THERM_SNS_READ i) Fld.THERM_SNS_READ_CAUSE 0

/-- A sensor breaks, or stays broken, with a cause. -/
def State.brokenRead (s : State) (i c : Nat) : State :=
  (((s.heard i Sensor.failed).raise (Reg.THERM_SNS_READ i) Fld.THERM_SNS_READ_BROKEN).sf (Reg.THERM_SNS_READ i)
    Fld.THERM_SNS_READ_CAUSE c).raiseIf (!s.snsBroken i) Reg.THERM_STATUS Fld.THERM_STATUS_SNS_BROKEN

theorem sensorRead_valid (s : State) (i : Nat) {x : Int} (c : Nat) (hlo : -160 ≤ x) (hhi : x ≤ 600) :
    s.sensorRead i (some x) c =
      if s.snsBroken i ∧ 3 ≤ s.therm.sensors[sensorFin i].streak + 1 then (s.validRead i x).mended i
      else s.validRead i x := by
  have hrange : (some x).filter (fun x => decide (-160 ≤ x ∧ x ≤ 600)) = some x := by simp [Option.filter, hlo, hhi]
  unfold State.sensorRead
  rw [hrange]
  rfl

theorem sensorRead_none (s : State) (i c : Nat) : s.sensorRead i none c = s.brokenRead i c := rfl

theorem sensorRead_outside (s : State) (i : Nat) {x : Int} (c : Nat) (hx : x < -160 ∨ 600 < x) :
    s.sensorRead i (some x) c = s.brokenRead i 2 := by
  have hrange : (some x).filter (fun x => decide (-160 ≤ x ∧ x ≤ 600)) = none := by
    simp only [Option.filter, decide_eq_true_eq]
    exact if_neg (by omega)
  unfold State.sensorRead
  rw [hrange]
  rfl

theorem heard_regs (s : State) (i : Nat) (f : Sensor → Sensor) : (s.heard i f).regs = s.regs := rfl

theorem heard_therm (s : State) (i : Nat) (f : Sensor → Sensor) : (s.heard i f).therm =
    { s.therm with
      zones := s.therm.zones.set (zoneFin (s.zoneOf i))
        { s.therm.zones[zoneFin (s.zoneOf i)] with fresh := true },
      sensors := s.therm.sensors.set (sensorFin i) (f s.therm.sensors[sensorFin i]) } := rfl

theorem validRead_therm (s : State) (i : Nat) (x : Int) :
    (s.validRead i x).therm = (s.heard i fun y => y.read s.clk.raw).therm := rfl

theorem mended_therm (s : State) (i : Nat) : (s.mended i).therm = s.therm :=
  State.sf_keeps _ _ _ _ (State.sf_keeps s _ _ _ (Keeps.refl s [])) .therm (by simp)

theorem brokenRead_therm (s : State) (i c : Nat) : (s.brokenRead i c).therm = (s.heard i Sensor.failed).therm := by
  unfold State.brokenRead
  cases s.snsBroken i <;> rfl

theorem temp10_lt (v : Int) : temp10 v < 1024 := by unfold temp10; omega

/-! ### A valid reading -/

section valid

variable (s : State) (i : Nat) (x : Int)

theorem validRead_gf_temp :
    (s.validRead i x).gf (Reg.THERM_SNS_READ i) Fld.THERM_SNS_READ_TEMP = temp10 x := by
  rw [State.validRead, State.gf_sf_same _ _ _ _ (by decide)]
  exact Nat.mod_eq_of_lt (temp10_lt x)

theorem validRead_snsValid : (s.validRead i x).snsValid i = true := by
  rw [State.snsValid, State.validRead, State.bit_sf_apart _ _ _ _ _ (by decide) (by decide)]
  exact State.bit_raise _ _ _ (by decide) rfl

theorem validRead_snsBroken : (s.validRead i x).snsBroken i = s.snsBroken i := by
  rw [State.snsBroken, State.validRead, State.bit_sf_apart _ _ _ _ _ (by decide) (by decide)]
  exact State.bit_sf_apart _ _ _ _ _ (by decide) (by decide)

theorem mended_gf_temp : (s.mended i).gf (Reg.THERM_SNS_READ i) Fld.THERM_SNS_READ_TEMP =
    s.gf (Reg.THERM_SNS_READ i) Fld.THERM_SNS_READ_TEMP := by
  rw [State.mended, State.gf_sf_apart _ _ _ _ _ (by decide) (by decide)]
  exact State.gf_sf_apart _ _ _ _ _ (by decide) (by decide)

theorem mended_snsValid : (s.mended i).snsValid i = s.snsValid i := by
  rw [State.snsValid, State.mended, State.bit_sf_apart _ _ _ _ _ (by decide) (by decide)]
  exact State.bit_sf_apart _ _ _ _ _ (by decide) (by decide)

theorem mended_snsBroken : (s.mended i).snsBroken i = false := by
  rw [State.snsBroken, State.mended, State.bit_sf_apart _ _ _ _ _ (by decide) (by decide), State.bit,
    State.gf_sf_same _ _ _ _ (by decide)]
  decide

theorem KeepsRegs.validRead {s0 : State} {rs : List Nat} (h : KeepsRegs s0 s rs) (m : Reg.THERM_SNS_READ i ∈ rs) :
    KeepsRegs s0 (s.validRead i x) rs :=
  ((h.of_regs (heard_regs s i _)).raise m _).sf m _ _

/-- What a valid reading leaves: the third in a row ends the broken state (R474). -/
structure ValidReading (s t : State) (i : Nat) (x : Int) : Prop where
  valid : t.snsValid i = true
  broken : t.snsBroken i = (s.snsBroken i && decide (s.therm.sensors[sensorFin i].streak < 2))
  temp : t.gf (Reg.THERM_SNS_READ i) Fld.THERM_SNS_READ_TEMP = temp10 x
  therm : t.therm = (s.heard i fun y => y.read s.clk.raw).therm
  regs : KeepsRegs s t [Reg.THERM_SNS_READ i]

theorem validReading (c : Nat) (hlo : -160 ≤ x) (hhi : x ≤ 600) : ValidReading s (s.sensorRead i (some x) c) i x := by
  have hregs : KeepsRegs s (s.validRead i x) [Reg.THERM_SNS_READ i] :=
    (KeepsRegs.refl s _).validRead s i x (by simp)
  rw [sensorRead_valid s i c hlo hhi]
  split
  · next h =>
    obtain ⟨-, hstreak⟩ := h
    have hover : decide (s.therm.sensors[sensorFin i].streak < 2) = false := decide_eq_false (by omega)
    exact
      { valid := (mended_snsValid _ i).trans (validRead_snsValid s i x)
        broken := by rw [mended_snsBroken, hover, Bool.and_false]
        temp := (mended_gf_temp _ i).trans (validRead_gf_temp s i x)
        therm := (mended_therm _ i).trans (validRead_therm s i x)
        regs := (hregs.sf (by simp) _ _).sf (by simp) _ _ }
  · next h =>
    have hsame : s.snsBroken i = (s.snsBroken i && decide (s.therm.sensors[sensorFin i].streak < 2)) := by
      cases hb : s.snsBroken i
      · rfl
      · have hfew : s.therm.sensors[sensorFin i].streak < 2 := by
          by_contra hn
          exact h ⟨hb, by omega⟩
        rw [decide_eq_true hfew, Bool.and_true]
    exact
      { valid := validRead_snsValid s i x
        broken := (validRead_snsBroken s i x).trans hsame
        temp := validRead_gf_temp s i x
        therm := validRead_therm s i x
        regs := hregs }

end valid

/-! ### A reading that breaks its sensor -/

/-- What a reading that fails leaves: the sensor is broken with its cause, and a new fault is reported (R474). -/
structure BrokenReading (s t : State) (i c : Nat) : Prop where
  broken : t.snsBroken i = true
  cause : t.gf (Reg.THERM_SNS_READ i) Fld.THERM_SNS_READ_CAUSE = c
  report : s.snsBroken i = false → t.bit Reg.THERM_STATUS Fld.THERM_STATUS_SNS_BROKEN = true
  therm : t.therm = (s.heard i Sensor.failed).therm
  regs : KeepsRegs s t [Reg.THERM_SNS_READ i, Reg.THERM_STATUS]

/-- The status register is none of the sensors'. -/
theorem snsRead_ne_status (i : Nat) : Reg.THERM_SNS_READ i ≠ Reg.THERM_STATUS := by
  unfold Reg.THERM_SNS_READ Reg.THERM_STATUS
  omega

theorem brokenReading (s : State) (i : Nat) {c : Nat} (hc : c < 4) : BrokenReading s (s.brokenRead i c) i c where
  broken := by
    rw [State.snsBroken, State.brokenRead, State.bit_congr (State.rd_raiseIf_ne _ _ _ _ _ (snsRead_ne_status i)),
      State.bit_sf_apart _ _ _ _ _ (by decide) (by decide)]
    exact State.bit_raise _ _ _ (by decide) rfl
  cause := by
    rw [State.brokenRead, State.gf_congr (State.rd_raiseIf_ne _ _ _ _ _ (snsRead_ne_status i)),
      State.gf_sf_same _ _ _ _ (by decide)]
    exact Nat.mod_eq_of_lt hc
  report hb := State.bit_raiseIf _ _ _ _ (by decide) rfl (.inl (by simp [hb]))
  therm := brokenRead_therm s i c
  regs := ((((KeepsRegs.refl s _).of_regs (heard_regs s i _)).raise (by simp) _).sf (by simp) _ _).raiseIf (by simp) _ _

/-- An open or a shorted input has a cause that its field holds (R72, R73). -/
theorem brokenCause_lt {thermistor : Bool} {d : Fin 4} {low high c : Nat}
    (h : brokenCause thermistor d low high = some c) : c < 4 := by
  unfold brokenCause at h
  split_ifs at h <;> simp_all <;> omega

/-! ### The parts of the thermal guard that a reading changes -/

section heard

variable (s : State) (i : Nat) (f : Sensor → Sensor)

theorem heard_sensor : (s.heard i f).therm.sensors[sensorFin i] = f s.therm.sensors[sensorFin i] := by
  simp [heard_therm]

theorem heard_fresh {z : Nat} (hz : s.zoneOf i = z) : (s.heard i f).therm.zones[zoneFin z].fresh = true := by
  subst hz
  simp [heard_therm]

end heard

theorem zoneOf_local (s : State) (k : Fin 24) : s.zoneOf (8 + k) = 1 := by
  simp only [State.zoneOf]
  rw [if_neg (by omega), if_pos (by omega)]

/-! ### Remote inputs (R72, R73, R472) -/

/-- A conversion of a remote input has begun; it will drive a thermistor anew. -/
def State.converted (s : State) (n : Fin 8) (low : BitVec 22) : State :=
  s.modSensor (sensorFin n) fun x =>
    { x with convAt := some s.clk.pkg, drive := if s.isThermistor n then nextDrive x.drive low.toNat else x.drive }

theorem converted_regs (s : State) (n : Fin 8) (low : BitVec 22) : (s.converted n low).regs = s.regs := rfl

theorem converted_snsBroken (s : State) (n : Fin 8) (low : BitVec 22) (i : Nat) :
    (s.converted n low).snsBroken i = s.snsBroken i := State.bit_congr (State.rd_congr (converted_regs s n low) _) _

theorem converted_keeps (s : State) (n : Fin 8) (low : BitVec 22) : Keeps s (s.converted n low) [.therm] :=
  State.modSensor_keeps s _ _ (Keeps.refl _ _) (by simp)

theorem converted_streak (s : State) (n : Fin 8) (low : BitVec 22) :
    (s.converted n low).therm.sensors[sensorFin n].streak = s.therm.sensors[sensorFin n].streak := by
  simp [State.converted, State.modSensor, State.modTherm]

theorem converted_convAt (s : State) (n : Fin 8) (low : BitVec 22) :
    (s.converted n low).therm.sensors[sensorFin n].convAt = some s.clk.pkg := by
  simp [State.converted, State.modSensor, State.modTherm]

theorem converted_zoneOf (s : State) (n : Fin 8) (low : BitVec 22) (i : Nat) :
    (s.converted n low).zoneOf i = s.zoneOf i := rfl

theorem sensorConversion_due {s : State} {n : Fin 8} {low high : BitVec 22} {v : BitVec 12}
    (hused : s.inputUsed n = true)
    (hdue : ∀ t0, s.therm.sensors[sensorFin n].convAt = some t0 → t0 + 500000 ≤ s.clk.pkg) :
    sensorConversion n low high v s =
      match brokenCause (s.isThermistor n) s.therm.sensors[sensorFin n].drive low.toNat high.toNat with
      | some c => (s.converted n low).sensorRead n none c
      | none => (s.converted n low).sensorRead n (some (s.trimmed n low high v +
          signedOf 8 (s.gf (Reg.THERM_SNS_CFG n) Fld.THERM_SNS_CFG_OFFSET))) 2 := by
  unfold sensorConversion
  refine if_neg ?_
  cases hconv : s.therm.sensors[sensorFin n].convAt with
  | none => simp [hused]
  | some t0 => simp [hused, hdue t0 hconv]

theorem gives_sensorConversion_valid (s : State) (n : Fin 8) (low high : BitVec 22) (v : BitVec 12) (x : Int)
    (hlive : s.live .sensor = true) (hused : s.inputUsed n = true)
    (hdue : ∀ t0, s.therm.sensors[sensorFin n].convAt = some t0 → t0 + 500000 ≤ s.clk.pkg)
    (hfound : brokenCause (s.isThermistor n) s.therm.sensors[sensorFin n].drive low.toNat high.toNat = none)
    (hx : x = s.trimmed n low high v + signedOf 8 (s.gf (Reg.THERM_SNS_CFG n) Fld.THERM_SNS_CFG_OFFSET))
    (hlo : -160 ≤ x) (hhi : x ≤ 600) :
    Gives (.sensorConversion n (low, high) v) s fun t =>
      t.snsValid n = true ∧
        t.snsBroken n = (s.snsBroken n && decide (s.therm.sensors[sensorFin n].streak < 2)) ∧
        t.gf (Reg.THERM_SNS_READ n) Fld.THERM_SNS_READ_TEMP = temp10 x ∧
        t.therm.sensors[sensorFin n].readAt = some s.clk.raw ∧
        t.therm.sensors[sensorFin n].convAt = some s.clk.pkg ∧
        t.therm.zones[zoneFin (s.zoneOf n)].fresh = true ∧ Keeps s t [.therm] ∧
        KeepsRegs s t [Reg.THERM_SNS_READ n] := by
  refine ⟨_, congrArg Host.Outcome.next (State.onLive_true hlive), ?_⟩
  have hread : sensorConversion n low high v s = (s.converted n low).sensorRead n (some x) 2 := by
    rw [sensorConversion_due hused hdue, hfound, hx]
  obtain ⟨hvalid, hbroken, htemp, htherm, hregs⟩ := validReading (s.converted n low) n x 2 hlo hhi
  rw [hread]
  refine ⟨hvalid, ?_, htemp, ?_, ?_, ?_, State.sensorRead_keeps _ _ _ _ (converted_keeps s n low) (by simp),
    (KeepsRegs.refl s _).of_regs (converted_regs s n low) |>.trans hregs⟩
  · rw [hbroken, converted_snsBroken, converted_streak]
  · rw [htherm, heard_sensor]
    rfl
  · rw [htherm, heard_sensor]
    exact converted_convAt s n low
  · rw [htherm, heard_fresh _ _ _ (converted_zoneOf s n low n)]

theorem gives_sensorConversion_broken (s : State) (n : Fin 8) (low high : BitVec 22) (v : BitVec 12) (c : Nat)
    (hlive : s.live .sensor = true) (hused : s.inputUsed n = true)
    (hdue : ∀ t0, s.therm.sensors[sensorFin n].convAt = some t0 → t0 + 500000 ≤ s.clk.pkg)
    (hfault : brokenCause (s.isThermistor n) s.therm.sensors[sensorFin n].drive low.toNat high.toNat = some c) :
    Gives (.sensorConversion n (low, high) v) s fun t =>
      t.snsBroken n = true ∧ t.gf (Reg.THERM_SNS_READ n) Fld.THERM_SNS_READ_CAUSE = c ∧
        t.therm.sensors[sensorFin n].streak = 0 ∧ t.therm.sensors[sensorFin n].convAt = some s.clk.pkg ∧
        t.therm.zones[zoneFin (s.zoneOf n)].fresh = true ∧
        (s.snsBroken n = false → t.bit Reg.THERM_STATUS Fld.THERM_STATUS_SNS_BROKEN = true) ∧ Keeps s t [.therm] ∧
        KeepsRegs s t [Reg.THERM_SNS_READ n, Reg.THERM_STATUS] := by
  refine ⟨_, congrArg Host.Outcome.next (State.onLive_true hlive), ?_⟩
  have hread : sensorConversion n low high v s = (s.converted n low).sensorRead n none c := by
    rw [sensorConversion_due hused hdue, hfault]
  obtain ⟨hbroken, hcause, hreport, htherm, hregs⟩ := brokenReading (s.converted n low) n (brokenCause_lt hfault)
  rw [← sensorRead_none] at hbroken hcause hreport htherm hregs
  rw [hread]
  refine ⟨hbroken, hcause, ?_, ?_, ?_, fun hb => hreport ((converted_snsBroken s n low n).trans hb),
    State.sensorRead_keeps _ _ _ _ (converted_keeps s n low) (by simp),
    (KeepsRegs.refl s _).of_regs (converted_regs s n low) |>.trans hregs⟩
  · rw [htherm, heard_sensor]
    rfl
  · rw [htherm, heard_sensor]
    exact converted_convAt s n low
  · rw [htherm, heard_fresh _ _ _ (converted_zoneOf s n low n)]

/-! ### Local sensors (R471) -/

theorem gives_localSensorRead_valid (s : State) (k : Fin 24) (v : BitVec 12) (hlive : s.live .sensor = true)
    (hlo : -160 ≤ v.toInt) (hhi : v.toInt ≤ 600) :
    Gives (.localSensorRead k v) s fun t =>
      t.snsValid (8 + k) = true ∧
        t.snsBroken (8 + k) = (s.snsBroken (8 + k) && decide (s.therm.sensors[sensorFin (8 + k)].streak < 2)) ∧
        t.gf (Reg.THERM_SNS_READ (8 + k)) Fld.THERM_SNS_READ_TEMP = temp10 v.toInt ∧
        t.therm.sensors[sensorFin (8 + k)].readAt = some s.clk.raw ∧ t.therm.zones[zoneFin 1].fresh = true ∧
        Keeps s t [.therm] ∧ KeepsRegs s t [Reg.THERM_SNS_READ (8 + k)] := by
  refine ⟨_, congrArg Host.Outcome.next (State.onLive_true hlive), ?_⟩
  obtain ⟨hvalid, hbroken, htemp, htherm, hregs⟩ := validReading s (8 + k) v.toInt 2 hlo hhi
  refine ⟨hvalid, hbroken, htemp, ?_, ?_, State.sensorRead_keeps _ _ _ _ (Keeps.refl _ _) (by simp), hregs⟩
  · rw [htherm, heard_sensor]
    rfl
  · rw [htherm, heard_fresh _ _ _ (zoneOf_local s k)]

theorem gives_localSensorRead_outside (s : State) (k : Fin 24) (v : BitVec 12) (hlive : s.live .sensor = true)
    (hv : v.toInt < -160 ∨ 600 < v.toInt) :
    Gives (.localSensorRead k v) s fun t =>
      t.snsBroken (8 + k) = true ∧ t.gf (Reg.THERM_SNS_READ (8 + k)) Fld.THERM_SNS_READ_CAUSE = 2 ∧
        t.therm.zones[zoneFin 1].fresh = true ∧ Keeps s t [.therm] ∧
        KeepsRegs s t [Reg.THERM_SNS_READ (8 + k), Reg.THERM_STATUS] := by
  refine ⟨_, congrArg Host.Outcome.next (State.onLive_true hlive), ?_⟩
  obtain ⟨hbroken, hcause, -, htherm, hregs⟩ := brokenReading s (8 + k) (c := 2) (by decide)
  rw [← sensorRead_outside s (8 + k) 2 hv] at hbroken hcause htherm hregs
  refine ⟨hbroken, hcause, ?_, State.sensorRead_keeps _ _ _ _ (Keeps.refl _ _) (by simp), hregs⟩
  rw [htherm, heard_fresh _ _ _ (zoneOf_local s k)]

/-! ### The stack (R62, R156) -/

/-- A reading of the stack has been asked for. -/
def State.stackAsked (s : State) : State :=
  s.modSensor (sensorFin 32) fun x => { x with convAt := some s.clk.raw }

theorem readStack_eq (s : State) (v : BitVec 12) (ok : Bool) : s.readStack v ok = s.stackAsked.stackReading v ok := rfl

theorem stackAsked_regs (s : State) : s.stackAsked.regs = s.regs := rfl

theorem stackAsked_refresh (s : State) : s.stackAsked.refresh = s.refresh := rfl

theorem stackAsked_snsBroken (s : State) (i : Nat) : s.stackAsked.snsBroken i = s.snsBroken i :=
  State.bit_congr (State.rd_congr (stackAsked_regs s) _) _

theorem stackAsked_snsValid (s : State) (i : Nat) : s.stackAsked.snsValid i = s.snsValid i :=
  State.bit_congr (State.rd_congr (stackAsked_regs s) _) _

theorem stackAsked_keeps (s : State) : Keeps s s.stackAsked [.therm] :=
  State.modSensor_keeps s _ _ (Keeps.refl _ _) (by simp)

theorem stackAsked_streak (s : State) :
    s.stackAsked.therm.sensors[sensorFin 32].streak = s.therm.sensors[sensorFin 32].streak := by
  simp [State.stackAsked, State.modSensor, State.modTherm]

/-- No reading came of it: only the time of the transfer is kept. -/
theorem stackAsked_notDue (s : State) : s.stackAsked.stackReadDue = false := by
  have hconv : s.stackAsked.therm.sensors[sensorFin 32].convAt = some s.clk.raw := by
    simp [State.stackAsked, State.modSensor, State.modTherm]
  have hraw : s.stackAsked.clk.raw = s.clk.raw := rfl
  rw [State.stackReadDue, hconv, hraw]
  exact decide_eq_false (by omega)

/-- A broken stack sensor makes the rate stale. -/
def State.rateStale (s : State) : State := { s with refresh := { s.refresh with stale := true } }

theorem rateStale_warm (s : State) : s.rateStale.refresh.warm = s.refresh.warm := rfl

theorem stackReading_valid {s : State} {v : BitVec 12} (hlo : -160 ≤ v.toInt) (hhi : v.toInt ≤ 600)
    (hwhole : (s.sensorRead 32 (some v.toInt) 2).snsBroken 32 = false) :
    s.stackReading v true = (s.sensorRead 32 (some v.toInt) 2).rateFromReading v.toInt := by
  unfold State.stackReading
  simp [hlo, hhi, hwhole]

theorem stackReading_failed {s : State} (v : BitVec 12) (hknown : s.snsValid 32 = true ∨ s.snsBroken 32 = true)
    (hbroken : (s.sensorRead 32 none 2).snsBroken 32 = true) :
    s.stackReading v false = (s.sensorRead 32 none 2).rateStale := by
  unfold State.stackReading
  rw [if_neg (by rcases hknown with h | h <;> simp [h])]
  exact if_pos hbroken

theorem stackReading_unread {s : State} (v : BitVec 12) (hvalid : s.snsValid 32 = false)
    (hbroken : s.snsBroken 32 = false) : s.stackReading v false = s := by
  unfold State.stackReading
  exact if_pos (by simp [hvalid, hbroken])

theorem exec_stackTemperatureRead {s : State} (v : BitVec 12) (ok : Bool) (hlive : s.live .sensor = true)
    (hreset : s.pins.memResetN = true) (hdue : s.stackReadDue = true) :
    exec (.stackTemperatureRead v ok) s = .next (s.stackAsked.stackReading v ok) :=
  congrArg Host.Outcome.next ((State.onLive_true hlive).trans (by rw [hreset, hdue]; rfl))

theorem gives_stackTemperatureRead_valid (s : State) (v : BitVec 12) (hlive : s.live .sensor = true)
    (hreset : s.pins.memResetN = true) (hdue : s.stackReadDue = true)
    (hmends : s.snsBroken 32 = true → 2 ≤ s.therm.sensors[sensorFin 32].streak) (hlo : -160 ≤ v.toInt)
    (hhi : v.toInt ≤ 600) :
    Gives (.stackTemperatureRead v true) s fun t =>
      t.snsValid 32 = true ∧ t.snsBroken 32 = false ∧
        t.gf (Reg.THERM_SNS_READ 32) Fld.THERM_SNS_READ_TEMP = temp10 v.toInt ∧ t.refresh.stale = false ∧
        ((s.gf Reg.PC_REF_TEMP Fld.PC_REF_TEMP_DOUBLE_TEMP : Int) ≤ v.toInt → t.refresh.warm = true) ∧
        (v.toInt < (s.gf Reg.PC_REF_TEMP Fld.PC_REF_TEMP_DOUBLE_TEMP : Int) →
          v.toInt < (s.gf Reg.PC_REF_TEMP Fld.PC_REF_TEMP_BASE_TEMP : Int) → t.refresh.warm = false) ∧
        Keeps s t [.therm, .refresh] ∧ KeepsRegs s t [Reg.THERM_SNS_READ 32] := by
  refine ⟨_, exec_stackTemperatureRead v true hlive hreset hdue, ?_⟩
  obtain ⟨hvalid, hbroken, htemp, -, hregs⟩ := validReading s.stackAsked 32 v.toInt 2 hlo hhi
  have hwhole : (s.stackAsked.sensorRead 32 (some v.toInt) 2).snsBroken 32 = false := by
    rw [hbroken, stackAsked_snsBroken, stackAsked_streak]
    cases hb : s.snsBroken 32
    · rfl
    · exact decide_eq_false (by have := hmends hb; omega)
  have hkeeps : KeepsRegs s (s.stackAsked.sensorRead 32 (some v.toInt) 2) [Reg.THERM_SNS_READ 32] :=
    ((KeepsRegs.refl s _).of_regs (stackAsked_regs s)).trans hregs
  have hrate (f : Fld) : (s.stackAsked.sensorRead 32 (some v.toInt) 2).gf Reg.PC_REF_TEMP f = s.gf Reg.PC_REF_TEMP f :=
    State.gf_congr (hkeeps _ (by decide)) f
  rw [stackReading_valid hlo hhi hwhole]
  refine ⟨hvalid, hwhole, htemp, rfl, fun h => ?_, fun h h' => ?_,
    State.rateFromReading_keeps _ _ (State.sensorRead_keeps _ _ _ _ (fun r hr => stackAsked_keeps s r ?_) (by simp))
      (by simp), hkeeps.of_regs rfl⟩
  · simp only [State.rateFromReading, hrate]
    exact if_pos h
  · simp only [State.rateFromReading, hrate]
    rw [if_neg (by omega), if_pos h']
  · simp_all

theorem gives_stackTemperatureRead_failed (s : State) (v : BitVec 12) (hlive : s.live .sensor = true)
    (hreset : s.pins.memResetN = true) (hdue : s.stackReadDue = true)
    (hknown : s.snsValid 32 = true ∨ s.snsBroken 32 = true) :
    Gives (.stackTemperatureRead v false) s fun t =>
      t.snsBroken 32 = true ∧ t.refresh.stale = true ∧ t.refresh.warm = s.refresh.warm ∧
        Keeps s t [.therm, .refresh] ∧ KeepsRegs s t [Reg.THERM_SNS_READ 32, Reg.THERM_STATUS] := by
  refine ⟨_, exec_stackTemperatureRead v false hlive hreset hdue, ?_⟩
  obtain ⟨hbroken, -, -, -, hregs⟩ := brokenReading s.stackAsked 32 (c := 2) (by decide)
  rw [← sensorRead_none] at hbroken hregs
  rw [← stackAsked_snsValid, ← stackAsked_snsBroken] at hknown
  have hkeeps : Keeps s (s.stackAsked.sensorRead 32 none 2) [.therm] :=
    State.sensorRead_keeps _ _ _ _ (stackAsked_keeps s) (by simp)
  have hwarm : (s.stackAsked.sensorRead 32 none 2).refresh = s.refresh := hkeeps .refresh (by simp)
  rw [stackReading_failed v hknown hbroken]
  exact ⟨hbroken, rfl, (rateStale_warm _).trans (congrArg RefreshCtl.warm hwarm),
    Keeps.set_refresh (fun r hr => hkeeps r (by simp_all)) (by simp) _,
    (((KeepsRegs.refl s _).of_regs (stackAsked_regs s)).trans hregs).of_regs rfl⟩

theorem gives_stackTemperatureRead_unread (s : State) (v : BitVec 12) (hlive : s.live .sensor = true)
    (hreset : s.pins.memResetN = true) (hdue : s.stackReadDue = true) (hvalid : s.snsValid 32 = false)
    (hbroken : s.snsBroken 32 = false) :
    Gives (.stackTemperatureRead v false) s fun t =>
      t.therm = { s.therm with sensors := t.therm.sensors } ∧
        (∀ n, n ≠ sensorFin 32 → t.therm.sensors[n] = s.therm.sensors[n]) ∧ t.stackReadDue = false ∧
        Keeps s t [.therm] ∧ KeepsRegs s t [] := by
  refine ⟨_, exec_stackTemperatureRead v false hlive hreset hdue, ?_⟩
  rw [stackReading_unread v ((stackAsked_snsValid s 32).trans hvalid) ((stackAsked_snsBroken s 32).trans hbroken)]
  refine ⟨rfl, fun n hn => ?_, stackAsked_notDue s, stackAsked_keeps s,
    (KeepsRegs.refl s _).of_regs (stackAsked_regs s)⟩
  have hne : ¬ (sensorFin 32 : Nat) = n := fun h => hn (Fin.ext h).symm
  simp [State.stackAsked, State.modSensor, State.modTherm, hne]

/-! ### Ten silent milliseconds (R474, R476) -/

theorem sensorFin_local (k : Fin 24) : (sensorFin (8 + k)).val = 8 + k := Nat.mod_eq_of_lt (by omega)

theorem sensorFin_remote (n : Fin 8) : (sensorFin n).val = n := Nat.mod_eq_of_lt (by omega)

/-- Whether a sensor's silence counts: an unused input has none to give, nor has the stack before its release. -/
def State.heeds (s : State) (i : Nat) : Bool :=
  if i < 8 then s.inputUsed i else if i < 32 then true else s.pins.memResetN

theorem sensorStale_silent {s : State} {i : Fin 33} {t0 : Nat} (hheeds : s.heeds i = true)
    (hread : s.therm.sensors[i].readAt = some t0) (hsilent : t0 + 10000000 ≤ s.clk.raw)
    (hwhole : s.snsBroken i = false) :
    sensorStale i s = if i.val = 32 then (s.brokenRead i 3).rateStale else s.brokenRead i 3 := by
  unfold State.heeds at hheeds
  unfold sensorStale
  rw [hread]
  refine if_pos ?_
  rw [Bool.and_eq_true, Bool.and_eq_true]
  exact ⟨⟨hheeds, decide_eq_true hsilent⟩, by simp [hwhole]⟩

theorem gives_sensorStale_local (s : State) (k : Fin 24) (t0 : Nat) (hlive : s.live .sensor = true)
    (hwhole : s.snsBroken (8 + k) = false) (hread : s.therm.sensors[sensorFin (8 + k)].readAt = some t0)
    (hsilent : t0 + 10000000 ≤ s.clk.raw) :
    Gives (.sensorStale (sensorFin (8 + k))) s fun t =>
      t.snsBroken (8 + k) = true ∧ t.gf (Reg.THERM_SNS_READ (8 + k)) Fld.THERM_SNS_READ_CAUSE = 3 ∧
        t.bit Reg.THERM_STATUS Fld.THERM_STATUS_SNS_BROKEN = true ∧ Keeps s t [.therm] ∧
        KeepsRegs s t [Reg.THERM_SNS_READ (8 + k), Reg.THERM_STATUS] := by
  refine ⟨_, congrArg Host.Outcome.next (State.onLive_true hlive), ?_⟩
  have hheeds : s.heeds (sensorFin (8 + k)) = true := by
    rw [sensorFin_local, State.heeds, if_neg (by omega), if_pos (by omega)]
  rw [sensorStale_silent hheeds hread hsilent (by rw [sensorFin_local]; exact hwhole), sensorFin_local,
    if_neg (by omega)]
  obtain ⟨hbroken, hcause, hreport, -, hregs⟩ := brokenReading s (8 + k) (c := 3) (by decide)
  exact ⟨hbroken, hcause, hreport hwhole, State.sensorRead_keeps s _ none 3 (Keeps.refl _ _) (by simp), hregs⟩

theorem gives_sensorStale_remote (s : State) (n : Fin 8) (t0 : Nat) (hlive : s.live .sensor = true)
    (hused : s.inputUsed n = true) (hwhole : s.snsBroken n = false)
    (hread : s.therm.sensors[sensorFin n].readAt = some t0) (hsilent : t0 + 10000000 ≤ s.clk.raw) :
    Gives (.sensorStale (sensorFin n)) s fun t =>
      t.snsBroken n = true ∧ t.gf (Reg.THERM_SNS_READ n) Fld.THERM_SNS_READ_CAUSE = 3 ∧
        t.bit Reg.THERM_STATUS Fld.THERM_STATUS_SNS_BROKEN = true ∧
        t.therm.zones[zoneFin (s.zoneOf n)].fresh = true ∧ Keeps s t [.therm] ∧
        KeepsRegs s t [Reg.THERM_SNS_READ n, Reg.THERM_STATUS] := by
  refine ⟨_, congrArg Host.Outcome.next (State.onLive_true hlive), ?_⟩
  have hheeds : s.heeds (sensorFin n) = true := by rw [sensorFin_remote, State.heeds, if_pos n.isLt, hused]
  rw [sensorStale_silent hheeds hread hsilent (by rw [sensorFin_remote]; exact hwhole), sensorFin_remote,
    if_neg (by omega)]
  obtain ⟨hbroken, hcause, hreport, htherm, hregs⟩ := brokenReading s n (c := 3) (by decide)
  refine ⟨hbroken, hcause, hreport hwhole, ?_, State.sensorRead_keeps s _ none 3 (Keeps.refl _ _) (by simp), hregs⟩
  rw [htherm, heard_fresh _ _ _ rfl]

theorem gives_sensorStale_stack (s : State) (t0 : Nat) (hlive : s.live .sensor = true)
    (hreset : s.pins.memResetN = true) (hwhole : s.snsBroken 32 = false)
    (hread : s.therm.sensors[sensorFin 32].readAt = some t0) (hsilent : t0 + 10000000 ≤ s.clk.raw) :
    Gives (.sensorStale 32) s fun t =>
      t.snsBroken 32 = true ∧ t.gf (Reg.THERM_SNS_READ 32) Fld.THERM_SNS_READ_CAUSE = 3 ∧ t.refresh.stale = true ∧
        t.refresh.warm = s.refresh.warm ∧ Keeps s t [.therm, .refresh] ∧
        KeepsRegs s t [Reg.THERM_SNS_READ 32, Reg.THERM_STATUS] := by
  refine ⟨_, congrArg Host.Outcome.next (State.onLive_true hlive), ?_⟩
  rw [sensorStale_silent (i := 32) hreset hread hsilent hwhole, if_pos (by decide)]
  obtain ⟨hbroken, hcause, -, -, hregs⟩ := brokenReading s 32 (c := 3) (by decide)
  have hkeeps : Keeps s (s.brokenRead 32 3) [.therm] := State.sensorRead_keeps s _ none 3 (Keeps.refl _ _) (by simp)
  have hwarm : (s.brokenRead 32 3).refresh = s.refresh := hkeeps .refresh (by simp)
  exact ⟨hbroken, hcause, rfl, (rateStale_warm _).trans (congrArg RefreshCtl.warm hwarm),
    Keeps.set_refresh (fun r hr => hkeeps r (by simp_all)) (by simp) _, hregs.of_regs rfl⟩

theorem gives_stackTemperatureRead_notDue (s : State) (v : BitVec 12) (ok : Bool)
    (h : s.pins.memResetN = false ∨ s.stackReadDue = false) : Gives (.stackTemperatureRead v ok) s fun t => t = s := by
  have hnone : (s.pins.memResetN && s.stackReadDue) = false := by rcases h with h | h <;> simp [h]
  refine ⟨_, rfl, ?_⟩
  rw [hnone]
  cases hlive : s.live .sensor
  · exact State.onLive_false hlive
  · exact State.onLive_true hlive

/-- Settles O12, clause by clause. -/
theorem sensorReadings : Obligations.SensorReadings := by
  unfold Obligations.SensorReadings
  exact ⟨gives_sensorConversion_valid, gives_sensorConversion_broken, gives_localSensorRead_valid,
    gives_localSensorRead_outside, gives_stackTemperatureRead_valid, gives_stackTemperatureRead_failed,
    gives_sensorStale_local, gives_stackTemperatureRead_unread, gives_stackTemperatureRead_notDue,
    gives_sensorStale_remote, gives_sensorStale_stack⟩

end Sys2Proof.Machine
end

section
/-! SUPPORT. The throttle outputs, the step in force, a zone's reading and the power windows (O13). -/

namespace Sys2Proof.Machine

set_option Elab.async false

/-! ### What a step leaves of one register -/

/-- Two fields of a register have no bit in common. -/
def Fld.apart (f g : Fld) : Bool := decide (g.lo + g.width ≤ f.lo) || decide (f.lo + f.width ≤ g.lo)

/-- Every field of a register that lies apart from those listed is as it was. -/
def KeepsFields (s t : State) (o : Nat) (fs : List Fld) : Prop :=
  ∀ g : Fld, fs.all (fun f => f.apart g) = true → t.gf o g = s.gf o g

section fields

variable {s0 s t : State} {o : Nat} {fs : List Fld}

theorem KeepsFields.refl (s : State) (o : Nat) (fs : List Fld) : KeepsFields s s o fs := fun _ _ => rfl

theorem KeepsFields.trans {u : State} (h : KeepsFields s0 t o fs) (h' : KeepsFields t u o fs) :
    KeepsFields s0 u o fs := fun g hg => (h' g hg).trans (h g hg)

theorem KeepsFields.of_rd (h : KeepsFields s0 s o fs) (e : t.rd o = s.rd o) : KeepsFields s0 t o fs :=
  fun g hg => (State.gf_congr e g).trans (h g hg)

theorem KeepsFields.of_regs (h : KeepsFields s0 s o fs) (e : t.regs = s.regs) : KeepsFields s0 t o fs :=
  h.of_rd (State.rd_congr e o)

theorem KeepsFields.sf (h : KeepsFields s0 s o fs) {f : Fld} (m : f ∈ fs) (hf : f.lo + f.width ≤ 32) (v : Nat) :
    KeepsFields s0 (s.sf o f v) o fs := fun g hg => by
  have hapart : f.apart g = true := List.all_eq_true.mp hg f m
  exact (State.gf_sf_apart s o f g v hf (by simpa [Fld.apart] using hapart)).trans (h g hg)

theorem KeepsFields.raise (h : KeepsFields s0 s o fs) {f : Fld} (m : f ∈ fs) (hf : f.lo + f.width ≤ 32) :
    KeepsFields s0 (s.raise o f) o fs := h.sf m hf 1

theorem KeepsFields.ite {c : Prop} [Decidable c] (hs : KeepsFields s0 s o fs) (ht : KeepsFields s0 t o fs) :
    KeepsFields s0 (if c then s else t) o fs := by
  split <;> assumption

theorem KeepsFields.bit (h : KeepsFields s0 s o fs) {g : Fld} (hg : fs.all (fun f => f.apart g) = true) :
    s.bit o g = s0.bit o g := by
  rw [State.bit, State.bit, h g hg]

end fields

/-- A field never exceeds its width. -/
theorem State.gf_lt (s : State) (o : Nat) (f : Fld) : s.gf o f < 2 ^ f.width := Nat.mod_lt _ (Nat.two_pow_pos _)

/-! ### The throttle outputs (R75) -/

/-- The outputs as they show a step. -/
def Pins.showStep (p : Pins) (k : Nat) : Pins :=
  { p with colThrOn := decide (0 < k), colThr := colCodes.getD (k - 1) 0 }

/-- The eight codes are distinct, so that the outputs read back as the step they show. -/
theorem colCodes_findIdx : ∀ k < 8, colCodes.findIdx (· = colCodes.getD k 0) = k := by decide

theorem colStep_showStep (p : Pins) {k : Nat} (hk : k ≤ 8) : (p.showStep k).colStep = k := by
  cases k with
  | zero => rfl
  | succ k =>
    have hon : (p.showStep (k + 1)).colThrOn = true := by simp [Pins.showStep]
    rw [Pins.colStep, if_pos hon]
    exact congrArg (· + 1) (colCodes_findIdx k (by omega))

/-- The step next to one, on the way to another. -/
def stepTowards (now target : Nat) : Nat := if now < target then now + 1 else now - 1

theorem colMove_moves {s : State} (hne : s.pins.colStep ≠ s.colTarget) (hat : s.therm.colAt + 40 ≤ s.clk.pkg) :
    s.colMove = (s.modPins fun p => p.showStep (stepTowards s.pins.colStep s.colTarget)).modTherm fun t =>
      { t with colAt := s.clk.pkg } := if_pos ⟨hne, hat⟩

theorem colMove_stays {s : State} (h : ¬(s.pins.colStep ≠ s.colTarget ∧ s.therm.colAt + 40 ≤ s.clk.pkg)) :
    s.colMove = s := if_neg h

theorem colMove_regs (s : State) : s.colMove.regs = s.regs := by
  by_cases h : s.pins.colStep ≠ s.colTarget ∧ s.therm.colAt + 40 ≤ s.clk.pkg
  · rw [colMove_moves h.1 h.2]
    rfl
  · rw [colMove_stays h]

theorem colMove_therm (s : State) : ∃ a, s.colMove.therm = { s.therm with colAt := a } := by
  by_cases h : s.pins.colStep ≠ s.colTarget ∧ s.therm.colAt + 40 ≤ s.clk.pkg
  · rw [colMove_moves h.1 h.2]
    exact ⟨_, rfl⟩
  · rw [colMove_stays h]
    exact ⟨s.therm.colAt, rfl⟩

theorem gives_colThrCodeStep (s : State) (hlive : s.live .sensor = true) (hne : s.pins.colStep ≠ s.colTarget)
    (hat : s.therm.colAt + 40 ≤ s.clk.pkg) (hnow : s.pins.colStep ≤ 8) (htarget : s.colTarget ≤ 8) :
    Gives .colThrCodeStep s fun t =>
      t.pins.colStep = (if s.pins.colStep < s.colTarget then s.pins.colStep + 1 else s.pins.colStep - 1) ∧
        t.therm.colAt = s.clk.pkg ∧ t.pins.computeOffReq = s.pins.computeOffReq ∧ Keeps s t [.pins, .therm] ∧
        KeepsRegs s t [] := by
  refine ⟨_, congrArg Host.Outcome.next (State.onLive_true hlive), ?_⟩
  have hkeeps : Keeps s s.colMove [.pins, .therm] := State.colMove_keeps s (Keeps.refl _ _) (by simp) (by simp)
  have hregs : KeepsRegs s s.colMove [] := (KeepsRegs.refl s _).of_regs (colMove_regs s)
  rw [colMove_moves hne hat] at hkeeps hregs ⊢
  refine ⟨colStep_showStep s.pins ?_, rfl, rfl, hkeeps, hregs⟩
  unfold stepTowards
  split <;> omega

/-! ### The step in force (R481, R482, R485) -/

/-- The registers of the arbiters that show the step in force. -/
def slotRegs : List Nat := (upto 64).map Reg.SLOT_STATUS

theorem notMem_slotRegs {o : Nat} (h : 0x180000 ≤ o) : o ∉ slotRegs := by
  simp only [slotRegs, upto, List.mem_map, List.mem_range, Reg.SLOT_STATUS, not_exists, not_and]
  omega

/-- The higher of the steps of the temperature and of the power. -/
def State.stepDue (s : State) : Nat :=
  max (s.gf Reg.THERM_STATUS Fld.THERM_STATUS_T_STEP) (s.gf Reg.THERM_STATUS Fld.THERM_STATUS_P_STEP)

/-- The step in force stands in THERM_STATUS. -/
def State.stepShown (s : State) : State := s.sf Reg.THERM_STATUS Fld.THERM_STATUS_STEP s.stepDue

/-- The arbiter of a PC takes the step in force. -/
def State.slotDriven (s : State) (hold : Bool) (step p : Nat) : State :=
  (s.sf (Reg.SLOT_STATUS p) Fld.SLOT_STATUS_BG_HOLD (if hold ∨ 0 < step then 1 else 0)).sf (Reg.SLOT_STATUS p)
    Fld.SLOT_STATUS_ADMIT (if hold then 0 else s.admitOf step)

/-- Every arbiter takes the step in force. -/
def State.slotsDriven (s : State) : State :=
  (upto 64).foldl (fun t p => t.slotDriven (s.stepShown.bit Reg.THERM_STATUS Fld.THERM_STATUS_LOW_HOLD) s.stepDue p)
    s.stepShown

theorem applyStep_eq (s : State) : s.applyStep = s.slotsDriven.calm.colMove := rfl

theorem slotsDriven_keepsRegs (s : State) : KeepsRegs s.stepShown s.slotsDriven slotRegs :=
  KeepsRegs.foldl _ (fun _ _ hp hu => (hu.sf (List.mem_map_of_mem hp) _ _).sf (List.mem_map_of_mem hp) _ _)
    (KeepsRegs.refl _ _)

theorem stepShown_keeps (s : State) : Keeps s s.stepShown [] := State.sf_keeps s _ _ _ (Keeps.refl _ _)

theorem slotsDriven_keeps (s : State) : Keeps s s.slotsDriven [] :=
  foldl_keeps' (fun _ _ hu => State.sf_keeps _ _ _ _ (State.sf_keeps _ _ _ _ hu)) _ (stepShown_keeps s)

theorem calm_regs (s : State) : s.calm.regs = s.regs := by
  unfold State.calm
  split_ifs <;> rfl

theorem applyStep_regs (s : State) : s.applyStep.regs = s.slotsDriven.regs := by
  rw [applyStep_eq, colMove_regs, calm_regs]

theorem applyStep_keepsRegs (s : State) : KeepsRegs s s.applyStep (Reg.THERM_STATUS :: slotRegs) :=
  (((KeepsRegs.refl s _).sf (by simp) _ _).trans ((slotsDriven_keepsRegs s).mono (by simp))).of_regs (applyStep_regs s)

theorem applyStep_status (s : State) : s.applyStep.rd Reg.THERM_STATUS = s.stepShown.rd Reg.THERM_STATUS :=
  (State.rd_congr (applyStep_regs s) _).trans (slotsDriven_keepsRegs s _ (notMem_slotRegs (by decide)))

theorem applyStep_keepsFields (s : State) :
    KeepsFields s s.applyStep Reg.THERM_STATUS [Fld.THERM_STATUS_STEP] :=
  ((KeepsFields.refl s _ _).sf (by simp) (by decide) _).of_rd (applyStep_status s)

theorem stepDue_lt (s : State) : s.stepDue < 16 :=
  max_lt (State.gf_lt s _ Fld.THERM_STATUS_T_STEP) (State.gf_lt s _ Fld.THERM_STATUS_P_STEP)

theorem applyStep_stepNow (s : State) : s.applyStep.stepNow = s.stepDue := by
  rw [State.stepNow, State.gf_congr (applyStep_status s), State.stepShown, State.gf_sf_same _ _ _ _ (by decide)]
  exact Nat.mod_eq_of_lt (stepDue_lt s)

theorem applyStep_therm (s : State) : ∃ a, s.applyStep.therm = { s.therm with colAt := a } := by
  obtain ⟨a, ha⟩ := colMove_therm s.slotsDriven.calm
  have hcalm : s.slotsDriven.calm.therm = s.slotsDriven.therm :=
    State.calm_keeps s.slotsDriven (Keeps.refl _ [.fw]) (by simp) .therm (by simp)
  have hslots : s.slotsDriven.therm = s.therm := slotsDriven_keeps s .therm (by simp)
  exact ⟨a, by rw [applyStep_eq, ha, hcalm, hslots]⟩

/-! ### The restart hold and the low-temperature hold (R485, R489) -/

theorem holdEval_keepsRegs (s : State) : KeepsRegs s s.holdEval [Reg.THERM_STATUS] := by
  have h (f : Thermal → Thermal) : KeepsRegs s (s.modTherm f) [Reg.THERM_STATUS] := (KeepsRegs.refl s _).of_regs rfl
  exact (KeepsRegs.refl s _).ite (((h _).raise (by simp) _).ite ((h _).sf (by simp) _ _))

theorem holdEval_keepsFields (s : State) :
    KeepsFields s s.holdEval Reg.THERM_STATUS [Fld.THERM_STATUS_RESTART_HOLD] := by
  have h (f : Thermal → Thermal) : KeepsFields s (s.modTherm f) Reg.THERM_STATUS [Fld.THERM_STATUS_RESTART_HOLD] :=
    (KeepsFields.refl s _ _).of_regs rfl
  exact (KeepsFields.refl s _ _).ite
    (((h _).raise (by simp) (by decide)).ite ((h _).sf (by simp) (by decide) _))

theorem sf_therm (s : State) (o : Nat) (f : Fld) (v : Nat) : (s.sf o f v).therm = s.therm := rfl

theorem holdEval_therm (s : State) : ∃ h, s.holdEval.therm = { s.therm with holdFrom := h } := by
  unfold State.holdEval
  split_ifs
  · exact ⟨s.therm.holdFrom, rfl⟩
  · exact ⟨_, sf_therm ..⟩
  · exact ⟨_, sf_therm ..⟩

theorem lowEval_keepsRegs (s : State) : KeepsRegs s s.lowEval [Reg.THERM_STATUS] :=
  ((KeepsRegs.refl s _).raise (by simp) _).ite (((KeepsRegs.refl s _).sf (by simp) _ _).ite (KeepsRegs.refl s _))

theorem lowEval_keepsFields (s : State) : KeepsFields s s.lowEval Reg.THERM_STATUS [Fld.THERM_STATUS_LOW_HOLD] :=
  ((KeepsFields.refl s _ _).raise (by simp) (by decide)).ite
    (((KeepsFields.refl s _ _).sf (by simp) (by decide) _).ite (KeepsFields.refl s _ _))

theorem lowEval_therm (s : State) : s.lowEval.therm = s.therm :=
  State.lowEval_keeps s (Keeps.refl s []) .therm (by simp)

/-! ### What follows every change of a zone: the holds and the step in force -/

/-- The holds are evaluated and the step in force is driven. -/
def State.guardSettled (s : State) : State := s.holdEval.lowEval.applyStep

/-- The fields that settling changes. -/
def settleFields : List Fld :=
  [Fld.THERM_STATUS_RESTART_HOLD, Fld.THERM_STATUS_LOW_HOLD, Fld.THERM_STATUS_STEP]

theorem KeepsFields.mono {s t : State} {o : Nat} {fs fs' : List Fld} (h : KeepsFields s t o fs) (m : fs ⊆ fs') :
    KeepsFields s t o fs' := fun g hg =>
  h g (List.all_eq_true.mpr fun f hf => List.all_eq_true.mp hg f (m hf))

theorem guardSettled_keepsFields (s : State) : KeepsFields s s.guardSettled Reg.THERM_STATUS settleFields :=
  (((holdEval_keepsFields s).mono (by simp [settleFields])).trans
    ((lowEval_keepsFields _).mono (by simp [settleFields]))).trans
    ((applyStep_keepsFields _).mono (by simp [settleFields]))

theorem guardSettled_keepsRegs (s : State) : KeepsRegs s s.guardSettled (Reg.THERM_STATUS :: slotRegs) :=
  (((holdEval_keepsRegs s).mono (by simp)).trans ((lowEval_keepsRegs _).mono (by simp))).trans (applyStep_keepsRegs _)

theorem guardSettled_therm (s : State) : ∃ h a, s.guardSettled.therm = { s.therm with holdFrom := h, colAt := a } := by
  obtain ⟨h, hh⟩ := holdEval_therm s
  obtain ⟨a, ha⟩ := applyStep_therm s.holdEval.lowEval
  exact ⟨h, a, by rw [State.guardSettled, ha, lowEval_therm, hh]⟩

/-! ### The highest of a list -/

section highest

variable {α : Type} (f : α → Nat)

theorem le_foldl_max_init (l : List α) (m : Nat) : m ≤ l.foldl (fun x a => max x (f a)) m := by
  induction l generalizing m with
  | nil => exact Nat.le_refl m
  | cons a l ih => exact (Nat.le_max_left m (f a)).trans (ih _)

theorem le_foldl_max {l : List α} {a : α} (ha : a ∈ l) (m : Nat) : f a ≤ l.foldl (fun x a => max x (f a)) m := by
  induction l generalizing m with
  | nil => simp at ha
  | cons b l ih =>
    rcases List.mem_cons.mp ha with rfl | ha
    · exact (Nat.le_max_right m (f a)).trans (le_foldl_max_init f l _)
    · exact ih ha _

theorem foldl_max_lt {l : List α} {m b : Nat} (hm : m < b) (hl : ∀ a ∈ l, f a < b) :
    l.foldl (fun x a => max x (f a)) m < b := by
  induction l generalizing m with
  | nil => exact hm
  | cons a l ih =>
    exact ih (max_lt hm (hl a List.mem_cons_self)) fun c hc => hl c (List.mem_cons_of_mem _ hc)

end highest

/-! ### The step that a reading reaches (R479) -/

/-- The highest of the first `n` steps whose threshold, lowered by `h`, a reading reaches. -/
def State.stepAmong (s : State) (z : Nat) (r h : Int) (n : Nat) : Nat :=
  (upto n).foldl (fun m k => if s.threshold z (k + 1) - h ≤ r then k + 1 else m) 0

theorem stepFor_eq (s : State) (z : Nat) (r h : Int) : s.stepFor z r h = s.stepAmong z r h 8 := rfl

theorem stepAmong_succ (s : State) (z : Nat) (r h : Int) (n : Nat) : s.stepAmong z r h (n + 1) =
    if s.threshold z (n + 1) - h ≤ r then n + 1 else s.stepAmong z r h n := by
  simp [State.stepAmong, upto, List.range_succ]

theorem stepAmong_le (s : State) (z : Nat) (r h : Int) (n : Nat) : s.stepAmong z r h n ≤ n := by
  induction n with
  | zero => exact Nat.le_refl 0
  | succ n ih =>
    rw [stepAmong_succ]
    split <;> omega

/-- A lowered threshold is reached by whatever reaches the threshold itself. -/
theorem stepAmong_mono (s : State) (z : Nat) (r : Int) {h : Int} (hh : 0 ≤ h) (n : Nat) :
    s.stepAmong z r 0 n ≤ s.stepAmong z r h n := by
  induction n with
  | zero => exact Nat.le_refl 0
  | succ n ih =>
    have hle := stepAmong_le s z r 0 n
    rw [stepAmong_succ, stepAmong_succ]
    split_ifs <;> omega

theorem stepFor_lt (s : State) (z : Nat) (r h : Int) : s.stepFor z r h < 16 := by
  have h8 := stepAmong_le s z r h 8
  rw [stepFor_eq]
  omega

theorem stepFor_le_hyst (s : State) (z : Nat) (r : Int) : s.stepFor z r 0 ≤ s.stepFor z r s.hyst :=
  stepAmong_mono s z r (Int.natCast_nonneg _) 8

/-! ### A zone as its sensors and its thresholds make it (R471, R473, R475, R477) -/

/-- The registers that the reading of a zone changes outside the arbiters. -/
def zoneRegs (z : Nat) : List Nat := [Reg.THERM_STATUS, Reg.THERM_ZONE_READ z]

theorem snsCfg_notMem (z : Nat) {i : Nat} (hi : i < 8) : Reg.THERM_SNS_CFG i ∉ zoneRegs z := by
  simp only [zoneRegs, Reg.THERM_SNS_CFG, Reg.THERM_STATUS, Reg.THERM_ZONE_READ, List.mem_cons, List.not_mem_nil,
    or_false, not_or]
  omega

theorem snsRead_notMem (z : Nat) {i : Nat} (hi : i < 33) : Reg.THERM_SNS_READ i ∉ zoneRegs z := by
  simp only [zoneRegs, Reg.THERM_SNS_READ, Reg.THERM_STATUS, Reg.THERM_ZONE_READ, List.mem_cons, List.not_mem_nil,
    or_false, not_or]
  omega

theorem zthr_notMem {z : Nat} (hz : z < 6) (y k : Nat) : Reg.THERM_ZTHR y k ∉ zoneRegs z := by
  simp only [zoneRegs, Reg.THERM_ZTHR, Reg.THERM_STATUS, Reg.THERM_ZONE_READ, List.mem_cons, List.not_mem_nil,
    or_false, not_or]
  omega

section congr

variable {s t : State} {z : Nat} (h : KeepsRegs s t (zoneRegs z))

include h

theorem threshold_congr (hz : z < 6) (y k : Nat) : t.threshold y k = s.threshold y k := by
  rw [State.threshold, State.threshold, h _ (zthr_notMem hz y (k / 3))]

theorem stepFor_congr (hz : z < 6) (y : Nat) (r x : Int) : t.stepFor y r x = s.stepFor y r x := by
  simp only [State.stepFor, threshold_congr h hz]

theorem zoneOf_congr (i : Nat) : t.zoneOf i = s.zoneOf i := by
  unfold State.zoneOf
  by_cases hi : i < 8
  · rw [if_pos hi, if_pos hi, State.gf_congr (h _ (snsCfg_notMem z hi))]
  · rw [if_neg hi, if_neg hi]

theorem zoneSensors_congr (hstraps : t.straps = s.straps) (y : Nat) : t.zoneSensors y = s.zoneSensors y := by
  simp only [State.zoneSensors, State.inputUsed, hstraps, zoneOf_congr h]

theorem zoneUsed_congr (hstraps : t.straps = s.straps) (y : Nat) : t.zoneUsed y = s.zoneUsed y := by
  rw [State.zoneUsed, State.zoneUsed, zoneSensors_congr h hstraps]

theorem allBroken_congr (hstraps : t.straps = s.straps) (y : Nat) : t.allBroken y = s.allBroken y := by
  have hlt (i : Nat) (hi : i ∈ s.zoneSensors y) : i < 33 := List.mem_range.mp (List.mem_filter.mp hi).1
  have hall : (s.zoneSensors y).all t.snsBroken = (s.zoneSensors y).all s.snsBroken := by
    rw [Bool.eq_iff_iff, List.all_eq_true, List.all_eq_true]
    exact forall₂_congr fun i hi => by
      rw [State.snsBroken, State.snsBroken, State.bit_congr (h _ (snsRead_notMem z (hlt i hi)))]
  rw [State.allBroken, State.allBroken, zoneUsed_congr h hstraps, zoneSensors_congr h hstraps, hall]

end congr

/-- A zone that has a reading has a sensor. -/
theorem zoneUsed_of_reading {s : State} {z : Nat} {r : Int} (h : s.zoneReading z = some r) : s.zoneUsed z = true := by
  by_contra hn
  have hnone : s.zoneSensors z = [] := by simpa [State.zoneUsed] using hn
  simp [State.zoneReading, hnone] at h

/-! ### What the guard keeps of the zones -/

/-- Nothing of the guard changed but one zone's history, whose reading is as fresh as it was. -/
structure ZoneKept (s t : State) (z : Fin 6) : Prop where
  rest : t.therm = { s.therm with zones := t.therm.zones }
  others : ∀ y, y ≠ z → t.therm.zones[y] = s.therm.zones[y]
  fresh : t.therm.zones[z].fresh = s.therm.zones[z].fresh

theorem modZone_zones_other (s : State) {z y : Fin 6} (f : Zone → Zone) (hy : y ≠ z) :
    (s.modZone z f).therm.zones[y] = s.therm.zones[y] := by
  have hne : ¬ (z : Nat) = y := fun h => hy (Fin.ext h).symm
  simp [State.modZone, State.modTherm, hne]

theorem modZone_zones_same (s : State) (z : Fin 6) (f : Zone → Zone) :
    (s.modZone z f).therm.zones[z] = f s.therm.zones[z] := by
  simp [State.modZone, State.modTherm]

theorem ZoneKept.refl (s : State) (z : Fin 6) : ZoneKept s s z := ⟨rfl, fun _ _ => rfl, rfl⟩

theorem ZoneKept.of_therm {s t u : State} {z : Fin 6} (h : ZoneKept s t z) (e : u.therm = t.therm) :
    ZoneKept s u z := by
  obtain ⟨hrest, hothers, hfresh⟩ := h
  exact ⟨by rw [e, ← hrest], by rw [e]; exact hothers, by rw [e]; exact hfresh⟩

theorem ZoneKept.modZone {s t : State} {z : Fin 6} (h : ZoneKept s t z) {f : Zone → Zone}
    (hf : ∀ y, (f y).fresh = y.fresh) : ZoneKept s (t.modZone z f) z where
  rest := by
    have hother : (t.modZone z f).therm = { t.therm with zones := (t.modZone z f).therm.zones } := rfl
    rw [hother, h.rest]
  others y hy := (modZone_zones_other t f hy).trans (h.others y hy)
  fresh := by rw [modZone_zones_same, hf, h.fresh]

/-! ### The step of a zone (R479) -/

/-- The lowered steps of the readings of the dwell time, the newest last. -/
def State.zoneDowns (s : State) (z : Nat) (r : Int) : List (Nat × Nat) :=
  (s.therm.zones[zoneFin z].downs.filter fun d => decide (s.clk.pkg ≤ d.1 + s.dwell)) ++
    [(s.clk.pkg, s.stepFor z r s.hyst)]

/-- The reading is kept for the dwell time. -/
def State.downsKept (s : State) (z : Nat) (r : Int) : State :=
  s.modZone (zoneFin z) fun y => { y with downs := s.zoneDowns z r }

/-- The zone step in force. -/
def State.zstep (s : State) (z : Nat) : Nat := s.gf (Reg.THERM_ZONE_READ z) Fld.THERM_ZONE_READ_ZSTEP

theorem zoneStep_eq (s : State) (z : Nat) (r : Int) : s.zoneStep z r =
    if s.zstep z < s.stepFor z r 0 then (s.downsKept z r).setZstep z (s.stepFor z r 0)
    else if s.therm.zones[zoneFin z].setAt + s.dwell ≤ s.clk.pkg ∧
        (s.zoneDowns z r).all (fun d => decide (d.2 < s.zstep z)) then
      (s.downsKept z r).setZstep z ((s.zoneDowns z r).foldl (fun m d => max m d.2) 0)
    else s.downsKept z r := rfl

theorem setZstep_regs (s : State) (z k : Nat) :
    (s.setZstep z k).regs = (s.sf (Reg.THERM_ZONE_READ z) Fld.THERM_ZONE_READ_ZSTEP k).regs := rfl

theorem setZstep_zstep (s : State) (z : Nat) {k : Nat} (hk : k < 16) : (s.setZstep z k).zstep z = k := by
  have hset : (s.setZstep z k).zstep z =
      (s.sf (Reg.THERM_ZONE_READ z) Fld.THERM_ZONE_READ_ZSTEP k).zstep z := 
    State.gf_congr (State.rd_congr (setZstep_regs s z k) _) _
  rw [hset, State.zstep, State.gf_sf_same _ _ _ _ (by decide)]
  exact Nat.mod_eq_of_lt hk

theorem setZstep_zoneKept {s t : State} {z : Nat} (h : ZoneKept s t (zoneFin z)) (k : Nat) :
    ZoneKept s (t.setZstep z k) (zoneFin z) :=
  (h.of_therm (sf_therm t _ _ _)).modZone fun _ => rfl

theorem setZstep_setAt (s : State) (z k : Nat) : (s.setZstep z k).therm.zones[zoneFin z].setAt = s.clk.pkg := by
  rw [State.setZstep, modZone_zones_same]

/-- What a reading leaves of its zone: a step that it reaches is in force. -/
structure ZoneStepped (s t : State) (z : Nat) (r : Int) : Prop where
  reached : s.stepFor z r 0 ≤ t.zstep z
  raised : s.zstep z < s.stepFor z r 0 → t.zstep z = s.stepFor z r 0 ∧ t.therm.zones[zoneFin z].setAt = s.clk.pkg
  fields : KeepsFields s t (Reg.THERM_ZONE_READ z) [Fld.THERM_ZONE_READ_ZSTEP]
  regs : KeepsRegs s t [Reg.THERM_ZONE_READ z]
  kept : ZoneKept s t (zoneFin z)

theorem downsKept_regs (s : State) (z : Nat) (r : Int) : (s.downsKept z r).regs = s.regs := rfl

theorem downsKept_clk (s : State) (z : Nat) (r : Int) : (s.downsKept z r).clk = s.clk := rfl

theorem downsKept_zoneKept (s : State) (z : Nat) (r : Int) : ZoneKept s (s.downsKept z r) (zoneFin z) :=
  (ZoneKept.refl s _).modZone fun _ => rfl

/-- The zone step is set with the readings of the dwell time kept. -/
theorem zoneStepped_setZstep {s : State} {z : Nat} {r : Int} {k : Nat} (hk : k < 16) (hreached : s.stepFor z r 0 ≤ k)
    (hraised : s.zstep z < s.stepFor z r 0 → k = s.stepFor z r 0) :
    ZoneStepped s ((s.downsKept z r).setZstep z k) z r where
  reached := by rwa [setZstep_zstep _ z hk]
  raised h := ⟨(setZstep_zstep _ z hk).trans (hraised h), (setZstep_setAt _ z k).trans (by rw [downsKept_clk])⟩
  fields := (((KeepsFields.refl s _ _).of_regs (downsKept_regs s z r)).sf (by simp) (by decide) k).of_regs
    (setZstep_regs _ z k)
  regs := (((KeepsRegs.refl s _).of_regs (downsKept_regs s z r)).sf (by simp) _ k).of_regs (setZstep_regs _ z k)
  kept := setZstep_zoneKept (downsKept_zoneKept s z r) k

theorem zoneStepped_zoneStep (s : State) (z : Nat) (r : Int) : ZoneStepped s (s.zoneStep z r) z r := by
  rw [zoneStep_eq]
  split_ifs with hup hdown
  · exact zoneStepped_setZstep (stepFor_lt s z r 0) (Nat.le_refl _) fun _ => rfl
  · obtain ⟨-, hall⟩ := hdown
    have hbelow : ∀ d ∈ s.zoneDowns z r, d.2 < 16 := fun d hd => by
      have hd' := List.all_eq_true.mp hall d hd
      have hcur : s.zstep z < 16 := State.gf_lt s _ Fld.THERM_ZONE_READ_ZSTEP
      simp only [decide_eq_true_eq] at hd'
      omega
    have hnewest : s.stepFor z r s.hyst ≤ (s.zoneDowns z r).foldl (fun m d => max m d.2) 0 :=
      le_foldl_max (fun d : Nat × Nat => d.2) (a := (s.clk.pkg, s.stepFor z r s.hyst)) (by simp [State.zoneDowns]) 0
    exact zoneStepped_setZstep (foldl_max_lt _ (by decide) hbelow) ((stepFor_le_hyst s z r).trans hnewest)
      fun h => absurd h hup
  · exact
      { reached := Nat.le_of_not_lt hup
        raised := fun h => absurd h hup
        fields := (KeepsFields.refl s _ _).of_regs (downsKept_regs s z r)
        regs := (KeepsRegs.refl s _).of_regs (downsKept_regs s z r)
        kept := downsKept_zoneKept s z r }

/-! ### The highest zone step and the guard's decision (R479, R487) -/

theorem setTstep_keepsRegs (s : State) : KeepsRegs s s.setTstep [Reg.THERM_STATUS] :=
  (KeepsRegs.refl s _).sf (by simp) _ _

theorem setTstep_keepsFields (s : State) : KeepsFields s s.setTstep Reg.THERM_STATUS [Fld.THERM_STATUS_T_STEP] :=
  (KeepsFields.refl s _ _).sf (by simp) (by decide) _

theorem zstep_le_setTstep {s : State} {z : Nat} (hz : z < 6) (hused : s.zoneUsed z = true) :
    s.zstep z ≤ s.setTstep.gf Reg.THERM_STATUS Fld.THERM_STATUS_T_STEP := by
  have hmem : z ∈ (upto 6).filter s.zoneUsed := List.mem_filter.mpr ⟨List.mem_range.mpr hz, hused⟩
  have hlt : ((upto 6).filter s.zoneUsed).foldl (fun m z => max m (s.zstep z)) 0 < 16 :=
    foldl_max_lt s.zstep (by decide) fun y _ => State.gf_lt s _ Fld.THERM_ZONE_READ_ZSTEP
  have hset : s.setTstep.gf Reg.THERM_STATUS Fld.THERM_STATUS_T_STEP =
      ((upto 6).filter s.zoneUsed).foldl (fun m z => max m (s.zstep z)) 0 % 16 :=
    State.gf_sf_same s Reg.THERM_STATUS Fld.THERM_STATUS_T_STEP _ (by decide)
  rw [hset, Nat.mod_eq_of_lt hlt]
  exact le_foldl_max s.zstep hmem 0

/-- A decision is taken: the cause is reported and the shutdown is due. -/
def State.decided (s : State) (c : Nat) : State :=
  ((s.sf Reg.THERM_STATUS Fld.THERM_STATUS_CRIT_CAUSE c).raise Reg.THERM_STATUS Fld.THERM_STATUS_CRIT_EVENT).modTherm
    fun t => { t with due := true }

theorem critical_free {s : State} (c : Nat) (hshut : s.shutdown = false) (hdue : s.therm.due = false) :
    s.critical c = s.decided c := if_neg (by simp [hshut, hdue])

theorem critical_cases (s : State) (c : Nat) : s.critical c = s ∨ s.critical c = s.decided c := by
  by_cases h : (s.shutdown = true ∧ (!s.therm.restarting) = true) ∨ s.therm.due = true
  · exact .inl (if_pos h)
  · exact .inr (if_neg h)

theorem modTherm_regs (s : State) (f : Thermal → Thermal) : (s.modTherm f).regs = s.regs := rfl

theorem modTherm_therm (s : State) (f : Thermal → Thermal) : (s.modTherm f).therm = f s.therm := rfl

theorem raise_therm (s : State) (o : Nat) (f : Fld) : (s.raise o f).therm = s.therm := rfl

theorem decided_regs (s : State) (c : Nat) : (s.decided c).regs =
    ((s.sf Reg.THERM_STATUS Fld.THERM_STATUS_CRIT_CAUSE c).raise Reg.THERM_STATUS
      Fld.THERM_STATUS_CRIT_EVENT).regs := modTherm_regs _ _

theorem decided_therm (s : State) (c : Nat) : (s.decided c).therm = { s.therm with due := true } := by
  rw [State.decided, modTherm_therm, raise_therm, sf_therm]

theorem decided_event (s : State) (c : Nat) :
    (s.decided c).bit Reg.THERM_STATUS Fld.THERM_STATUS_CRIT_EVENT = true :=
  (State.bit_congr (State.rd_congr (decided_regs s c) _) _).trans (State.bit_raise _ _ _ (by decide) rfl)

theorem decided_cause (s : State) {c : Nat} (hc : c < 16) :
    (s.decided c).gf Reg.THERM_STATUS Fld.THERM_STATUS_CRIT_CAUSE = c := by
  rw [State.gf_congr (State.rd_congr (decided_regs s c) _), State.raise,
    State.gf_sf_apart _ _ _ _ _ (by decide) (by decide), State.gf_sf_same _ _ _ _ (by decide)]
  exact Nat.mod_eq_of_lt hc

theorem critical_keepsRegs (s : State) (c : Nat) : KeepsRegs s (s.critical c) [Reg.THERM_STATUS] := by
  rcases critical_cases s c with h | h <;> rw [h]
  · exact KeepsRegs.refl s _
  · exact (((KeepsRegs.refl s _).sf (by simp) _ _).raise (by simp) _).of_regs (decided_regs s c)

/-- The fields that a decision changes. -/
def critFields : List Fld := [Fld.THERM_STATUS_CRIT_CAUSE, Fld.THERM_STATUS_CRIT_EVENT]

theorem critical_keepsFields (s : State) (c : Nat) : KeepsFields s (s.critical c) Reg.THERM_STATUS critFields := by
  rcases critical_cases s c with h | h <;> rw [h]
  · exact KeepsFields.refl s _ _
  · exact (((KeepsFields.refl s _ _).sf (by simp [critFields]) (by decide) _).raise (by simp [critFields])
      (by decide)).of_regs (decided_regs s c)

theorem critical_therm (s : State) (c : Nat) : ∃ d, (s.critical c).therm = { s.therm with due := d } := by
  rcases critical_cases s c with h | h <;> rw [h]
  · exact ⟨s.therm.due, rfl⟩
  · exact ⟨true, decided_therm s c⟩

/-- The guard looks at a zone that has been read. -/
def State.zoneChecked (s : State) (z : Nat) (r : Int) : State :=
  if s.allBroken z then s.critical 3 else if s.threshold z 9 ≤ r then s.critical 1 else s

theorem zoneChecked_keepsRegs (s : State) (z : Nat) (r : Int) :
    KeepsRegs s (s.zoneChecked z r) [Reg.THERM_STATUS] :=
  (critical_keepsRegs s 3).ite ((critical_keepsRegs s 1).ite (KeepsRegs.refl s _))

theorem zoneChecked_keepsFields (s : State) (z : Nat) (r : Int) :
    KeepsFields s (s.zoneChecked z r) Reg.THERM_STATUS critFields :=
  (critical_keepsFields s 3).ite ((critical_keepsFields s 1).ite (KeepsFields.refl s _ _))

theorem zoneChecked_therm (s : State) (z : Nat) (r : Int) :
    ∃ d, (s.zoneChecked z r).therm = { s.therm with due := d } := by
  unfold State.zoneChecked
  split_ifs
  · exact critical_therm s 3
  · exact critical_therm s 1
  · exact ⟨s.therm.due, rfl⟩

theorem zoneChecked_decides {s : State} {z : Nat} {r : Int} (hcrit : s.allBroken z = true ∨ s.threshold z 9 ≤ r)
    (hshut : s.shutdown = false) (hdue : s.therm.due = false) :
    s.zoneChecked z r = s.decided (if s.allBroken z then 3 else 1) := by
  unfold State.zoneChecked
  rw [critical_free 3 hshut hdue, critical_free 1 hshut hdue]
  by_cases hb : s.allBroken z = true
  · rw [if_pos hb, if_pos hb]
  · rw [if_neg hb, if_neg hb, if_pos (hcrit.resolve_left hb)]

/-! ### A zone as it shows itself (R471, R473, R477) -/

theorem showZone_keepsRegs (s : State) (z : Nat) (r : Int) :
    KeepsRegs s (s.showZone z r) [Reg.THERM_ZONE_READ z] :=
  (((((KeepsRegs.refl s _).raise (by simp) _).sf (by simp) _ _).sf (by simp) _ _).sf (by simp) _ _).sf (by simp) _ _

theorem showZone_zstep (s : State) (z : Nat) (r : Int) : (s.showZone z r).zstep z = s.zstep z := by
  have h : KeepsFields s (s.showZone z r) (Reg.THERM_ZONE_READ z)
      [Fld.THERM_ZONE_READ_USED, Fld.THERM_ZONE_READ_ALL_BROKEN, Fld.THERM_ZONE_READ_BROKEN,
        Fld.THERM_ZONE_READ_SENSORS, Fld.THERM_ZONE_READ_READING] :=
    (((((KeepsFields.refl s _ _).raise (by simp) (by decide)).sf (by simp) (by decide) _).sf (by simp) (by decide) _).sf
      (by simp) (by decide) _).sf (by simp) (by decide) _
  exact h Fld.THERM_ZONE_READ_ZSTEP (by decide)

theorem showZone_reading (s : State) (z : Nat) (r : Int) :
    (s.showZone z r).gf (Reg.THERM_ZONE_READ z) Fld.THERM_ZONE_READ_READING = temp10 r := by
  unfold State.showZone
  rw [State.gf_sf_same _ _ _ _ (by decide)]
  exact Nat.mod_eq_of_lt (temp10_lt r)

theorem showZone_used (s : State) (z : Nat) (r : Int) :
    (s.showZone z r).bit (Reg.THERM_ZONE_READ z) Fld.THERM_ZONE_READ_USED = true := by
  unfold State.showZone
  rw [State.bit_sf_apart _ _ _ _ _ (by decide) (by decide), State.bit_sf_apart _ _ _ _ _ (by decide) (by decide),
    State.bit_sf_apart _ _ _ _ _ (by decide) (by decide), State.bit_sf_apart _ _ _ _ _ (by decide) (by decide)]
  exact State.bit_raise _ _ _ (by decide) rfl

/-- The reading is taken up: it is shown, and a warning is given. -/
def State.zoneShown (s : State) (z : Fin 6) (r : Int) : State :=
  let t := (s.modZone z fun x => { x with fresh := false }).showZone z r
  t.raiseIf (decide (t.threshold z 0 ≤ r)) Reg.THERM_STATUS Fld.THERM_STATUS_WARN

theorem zoneFin_val (z : Fin 6) : zoneFin z = z := by simp [zoneFin]

/-- A zone's register is neither the status register nor an arbiter's. -/
theorem zoneRead_notMem (z : Nat) : Reg.THERM_ZONE_READ z ∉ Reg.THERM_STATUS :: slotRegs := by
  rw [List.mem_cons, not_or]
  constructor
  · simp only [Reg.THERM_ZONE_READ, Reg.THERM_STATUS]
    omega
  · exact notMem_slotRegs (by simp only [Reg.THERM_ZONE_READ]; omega)

theorem zoneRead_ne_status (z : Nat) : Reg.THERM_ZONE_READ z ≠ Reg.THERM_STATUS := fun h =>
  zoneRead_notMem z (h ▸ List.mem_cons_self)

section shown

variable (s : State) (z : Fin 6) (r : Int)

theorem zoneShown_keeps : Keeps s (s.zoneShown z r) [.therm] :=
  State.raiseIf_keeps _ _ _ _ (State.showZone_keeps _ _ _ (State.modZone_keeps s z _ (Keeps.refl _ _) (by simp)))

theorem zoneShown_keepsRegs : KeepsRegs s (s.zoneShown z r) (zoneRegs z) := by
  have hmod (f : Zone → Zone) : KeepsRegs s (s.modZone z f) (zoneRegs z) := (KeepsRegs.refl s _).of_regs rfl
  exact ((hmod _).trans ((showZone_keepsRegs _ z r).mono (by simp [zoneRegs]))).raiseIf (by simp [zoneRegs]) _ _

theorem zoneShown_rd : (s.zoneShown z r).rd (Reg.THERM_ZONE_READ z) =
    ((s.modZone z fun x => { x with fresh := false }).showZone z r).rd (Reg.THERM_ZONE_READ z) :=
  State.rd_raiseIf_ne _ _ _ _ _ (zoneRead_ne_status z)

theorem zoneShown_zstep : (s.zoneShown z r).zstep z = s.zstep z :=
  (State.gf_congr (zoneShown_rd s z r) _).trans (showZone_zstep _ z r)

theorem zoneShown_reading :
    (s.zoneShown z r).gf (Reg.THERM_ZONE_READ z) Fld.THERM_ZONE_READ_READING = temp10 r :=
  (State.gf_congr (zoneShown_rd s z r) _).trans (showZone_reading _ z r)

theorem zoneShown_used : (s.zoneShown z r).bit (Reg.THERM_ZONE_READ z) Fld.THERM_ZONE_READ_USED = true :=
  (State.bit_congr (zoneShown_rd s z r) _).trans (showZone_used _ z r)

theorem zoneShown_keepsFields : KeepsFields s (s.zoneShown z r) Reg.THERM_STATUS [Fld.THERM_STATUS_WARN] := by
  have hmod (f : Zone → Zone) : KeepsFields s (s.modZone z f) Reg.THERM_STATUS [Fld.THERM_STATUS_WARN] :=
    (KeepsFields.refl s _ _).of_regs rfl
  have hshow : KeepsFields s ((s.modZone z fun x => { x with fresh := false }).showZone z r) Reg.THERM_STATUS
      [Fld.THERM_STATUS_WARN] :=
    (hmod _).of_rd (showZone_keepsRegs _ z r _ (by simpa using (zoneRead_ne_status z).symm))
  exact (hshow.raise (by simp) (by decide)).ite hshow

theorem zoneShown_therm : (s.zoneShown z r).therm = (s.modZone z fun x => { x with fresh := false }).therm :=
  State.raiseIf_keeps _ _ _ _ (State.showZone_keeps _ _ _ (Keeps.refl _ [])) .therm (by simp)

end shown

/-! ### The whole of a zone reading -/

/-- What follows the step of a zone: T_STEP, the guard's decision, the holds and the step in force. -/
def State.zoneWeighed (s : State) (z : Nat) (r : Int) : State := (s.setTstep.zoneChecked z r).guardSettled

section weighed

variable (s : State) (z : Nat) (r : Int)

theorem zoneWeighed_keepsRegs : KeepsRegs s (s.zoneWeighed z r) (Reg.THERM_STATUS :: slotRegs) :=
  (((setTstep_keepsRegs s).mono (by simp)).trans ((zoneChecked_keepsRegs _ z r).mono (by simp))).trans
    (guardSettled_keepsRegs _)

theorem zoneWeighed_zones : (s.zoneWeighed z r).therm.zones = s.therm.zones := by
  obtain ⟨d, hd⟩ := zoneChecked_therm s.setTstep z r
  obtain ⟨h, a, hset⟩ := guardSettled_therm (s.setTstep.zoneChecked z r)
  have htstep : s.setTstep.therm = s.therm := sf_therm ..
  rw [State.zoneWeighed, hset, hd, htstep]

theorem zoneWeighed_tstep : (s.zoneWeighed z r).gf Reg.THERM_STATUS Fld.THERM_STATUS_T_STEP =
    s.setTstep.gf Reg.THERM_STATUS Fld.THERM_STATUS_T_STEP :=
  (guardSettled_keepsFields _ Fld.THERM_STATUS_T_STEP (by decide)).trans
    (zoneChecked_keepsFields _ z r Fld.THERM_STATUS_T_STEP (by decide))

theorem zoneWeighed_zstep : (s.zoneWeighed z r).zstep z = s.zstep z :=
  State.gf_congr (zoneWeighed_keepsRegs s z r _ (zoneRead_notMem z)) _

end weighed

/-- What the reading of a zone leaves. -/
structure ZoneRead (s t : State) (z : Fin 6) (r : Int) : Prop where
  reading : t.gf (Reg.THERM_ZONE_READ z) Fld.THERM_ZONE_READ_READING = temp10 r
  used : t.bit (Reg.THERM_ZONE_READ z) Fld.THERM_ZONE_READ_USED = true
  reached : s.stepFor z r 0 ≤ t.zstep z
  raised : s.zstep z < s.stepFor z r 0 → t.zstep z = s.stepFor z r 0 ∧ t.therm.zones[z].setAt = s.clk.pkg
  tstep : t.zstep z ≤ t.gf Reg.THERM_STATUS Fld.THERM_STATUS_T_STEP
  fresh : t.therm.zones[z].fresh = false
  others : ∀ y, y ≠ z → t.therm.zones[y] = s.therm.zones[y]
  keeps : Keeps s t [.fw, .pins, .therm]
  regs : KeepsRegs s t (Reg.THERM_STATUS :: Reg.THERM_ZONE_READ z :: slotRegs)

section read

variable {s : State} {z : Fin 6} {r : Int}

theorem zoneReadingRow_eq (hread : s.zoneReading z = some r) (hfresh : s.therm.zones[z].fresh = true) :
    zoneReadingRow z s = ((s.zoneShown z r).zoneStep z r).zoneWeighed z r := by
  unfold zoneReadingRow
  rw [hread]
  exact if_pos hfresh

theorem zoneStepped_keepsRegs : KeepsRegs s ((s.zoneShown z r).zoneStep z r) (zoneRegs z) :=
  (zoneShown_keepsRegs s z r).trans ((zoneStepped_zoneStep (s.zoneShown z r) z r).regs.mono (by simp [zoneRegs]))

theorem zoneStepped_keeps : Keeps s ((s.zoneShown z r).zoneStep z r) [.therm] :=
  State.zoneStep_keeps _ _ _ (zoneShown_keeps s z r) (by simp)

theorem zoneRead (hread : s.zoneReading z = some r) (hfresh : s.therm.zones[z].fresh = true) :
    ZoneRead s (zoneReadingRow z s) z r := by
  have hkeeps : Keeps s (zoneReadingRow z s) [.fw, .pins, .therm] :=
    zoneReadingRow_keeps z s (Keeps.refl _ _) (by simp) (by simp) (by simp)
  rw [zoneReadingRow_eq hread hfresh] at hkeeps ⊢
  obtain ⟨hreached, hraised, hfields, hregs, -, hothers, hkept⟩ := zoneStepped_zoneStep (s.zoneShown z r) z r
  have hstep : (s.zoneShown z r).stepFor z r 0 = s.stepFor z r 0 :=
    stepFor_congr (zoneShown_keepsRegs s z r) z.isLt z r 0
  have hclk : (s.zoneShown z r).clk = s.clk := zoneShown_keeps s z r .clk (by simp)
  have hread' := zoneWeighed_keepsRegs ((s.zoneShown z r).zoneStep z r) z r _ (zoneRead_notMem z)
  have hused : ((s.zoneShown z r).zoneStep z r).zoneUsed z = true :=
    (zoneUsed_congr zoneStepped_keepsRegs (zoneStepped_keeps .straps (by simp)) z).trans (zoneUsed_of_reading hread)
  rw [zoneShown_zstep, hstep, hclk] at hraised
  simp only [zoneFin_val] at hraised hothers hkept
  exact
    { reading := ((State.gf_congr hread' _).trans (hfields _ (by decide))).trans (zoneShown_reading s z r)
      used := ((State.bit_congr hread' _).trans (hfields.bit (by decide))).trans (zoneShown_used s z r)
      reached := by rw [zoneWeighed_zstep, ← hstep]; exact hreached
      raised := by rw [zoneWeighed_zstep, zoneWeighed_zones]; exact hraised
      tstep := by rw [zoneWeighed_zstep, zoneWeighed_tstep]; exact zstep_le_setTstep z.isLt hused
      fresh := by rw [zoneWeighed_zones, hkept, zoneShown_therm, modZone_zones_same]
      others := fun y hy => by rw [zoneWeighed_zones, hothers y hy, zoneShown_therm, modZone_zones_other _ _ hy]
      keeps := hkeeps
      regs := (zoneStepped_keepsRegs.mono (by simp [zoneRegs])).trans
        ((zoneWeighed_keepsRegs _ z r).mono (by simp)) }

end read

section clauses

variable (s : State) (z : Fin 6) (r : Int) (hlive : s.live .sensor = true) (hread : s.zoneReading z = some r)
  (hfresh : s.therm.zones[z].fresh = true)

include hlive hread hfresh

theorem gives_zoneReading_raises
    (hup : s.gf (Reg.THERM_ZONE_READ z) Fld.THERM_ZONE_READ_ZSTEP < s.stepFor z r 0) :
    Gives (.zoneReading z) s fun t =>
      t.gf (Reg.THERM_ZONE_READ z) Fld.THERM_ZONE_READ_ZSTEP = s.stepFor z r 0 ∧
        t.gf (Reg.THERM_ZONE_READ z) Fld.THERM_ZONE_READ_READING = temp10 r ∧
        s.stepFor z r 0 ≤ t.gf Reg.THERM_STATUS Fld.THERM_STATUS_T_STEP ∧ t.therm.zones[z].fresh = false ∧
        t.therm.zones[z].setAt = s.clk.pkg ∧ Keeps s t [.fw, .pins, .therm] ∧
        KeepsRegs s t (Reg.THERM_STATUS :: Reg.THERM_ZONE_READ z :: (upto 64).map Reg.SLOT_STATUS) := by
  refine ⟨_, congrArg Host.Outcome.next (State.onLive_true hlive), ?_⟩
  obtain ⟨hreading, -, -, hraised, htstep, hdone, -, hkeeps, hregs⟩ := zoneRead hread hfresh
  obtain ⟨hzstep, hset⟩ := hraised hup
  exact ⟨hzstep, hreading, hzstep ▸ htstep, hdone, hset, hkeeps, hregs⟩

theorem gives_zoneReading :
    Gives (.zoneReading z) s fun t =>
      t.gf (Reg.THERM_ZONE_READ z) Fld.THERM_ZONE_READ_READING = temp10 r ∧
        t.bit (Reg.THERM_ZONE_READ z) Fld.THERM_ZONE_READ_USED = true ∧ t.therm.zones[z].fresh = false ∧
        s.stepFor z r 0 ≤ t.gf (Reg.THERM_ZONE_READ z) Fld.THERM_ZONE_READ_ZSTEP ∧
        (∀ y, y ≠ z → t.therm.zones[y] = s.therm.zones[y]) ∧ Keeps s t [.fw, .pins, .therm] ∧
        KeepsRegs s t (Reg.THERM_STATUS :: Reg.THERM_ZONE_READ z :: (upto 64).map Reg.SLOT_STATUS) := by
  refine ⟨_, congrArg Host.Outcome.next (State.onLive_true hlive), ?_⟩
  obtain ⟨hreading, hused, hreached, -, -, hdone, hothers, hkeeps, hregs⟩ := zoneRead hread hfresh
  exact ⟨hreading, hused, hdone, hreached, hothers, hkeeps, hregs⟩

theorem gives_zoneReading_critical (hcrit : s.allBroken z = true ∨ s.threshold z 9 ≤ r) (hshut : s.shutdown = false)
    (hdue : s.therm.due = false) :
    Gives (.zoneReading z) s fun t =>
      t.therm.due = true ∧ t.bit Reg.THERM_STATUS Fld.THERM_STATUS_CRIT_EVENT = true ∧
        t.gf Reg.THERM_STATUS Fld.THERM_STATUS_CRIT_CAUSE = (if s.allBroken z then 3 else 1) ∧
        Keeps s t [.fw, .pins, .therm] ∧
        KeepsRegs s t (Reg.THERM_STATUS :: Reg.THERM_ZONE_READ z :: (upto 64).map Reg.SLOT_STATUS) := by
  refine ⟨_, congrArg Host.Outcome.next (State.onLive_true hlive), ?_⟩
  obtain ⟨-, -, -, -, -, -, -, hkeeps, hregs⟩ := zoneRead hread hfresh
  rw [zoneReadingRow_eq hread hfresh] at hkeeps hregs ⊢
  have hsame : KeepsRegs s ((s.zoneShown z r).zoneStep z r).setTstep (zoneRegs z) :=
    zoneStepped_keepsRegs.trans ((setTstep_keepsRegs _).mono (by simp [zoneRegs]))
  have hstraps : ((s.zoneShown z r).zoneStep z r).setTstep.straps = s.straps :=
    State.setTstep_keeps _ zoneStepped_keeps .straps (by simp)
  have hbroken := allBroken_congr hsame hstraps z
  have hthr := threshold_congr hsame z.isLt z 9
  obtain ⟨-, -, -, hzregs, hrest, -, -⟩ := zoneStepped_zoneStep (s.zoneShown z r) z r
  have hstatus := hzregs Reg.THERM_STATUS (by simpa using (zoneRead_ne_status z).symm)
  have hfields : KeepsFields s ((s.zoneShown z r).zoneStep z r).setTstep Reg.THERM_STATUS
      [Fld.THERM_STATUS_WARN, Fld.THERM_STATUS_T_STEP] :=
    (((zoneShown_keepsFields s z r).mono (by simp)).of_rd hstatus).trans ((setTstep_keepsFields _).mono (by simp))
  have hnodue : ((s.zoneShown z r).zoneStep z r).setTstep.therm.due = false := by
    have htstep : ((s.zoneShown z r).zoneStep z r).setTstep.therm = ((s.zoneShown z r).zoneStep z r).therm :=
      sf_therm ..
    rw [htstep, hrest, zoneShown_therm]
    exact hdue
  have hdecided := zoneChecked_decides (s := ((s.zoneShown z r).zoneStep z r).setTstep) (z := z) (r := r)
    (by rwa [hbroken, hthr]) ((hfields.bit (by decide)).trans hshut) hnodue
  rw [hbroken] at hdecided
  obtain ⟨h, a, hset⟩ := guardSettled_therm ((((s.zoneShown z r).zoneStep z r).setTstep).zoneChecked z r)
  have hcause : (if s.allBroken z = true then 3 else 1) < 16 := by split <;> decide
  refine ⟨?_, ?_, ?_, hkeeps, hregs⟩
  · rw [State.zoneWeighed, hset, hdecided, decided_therm]
  · rw [State.zoneWeighed, (guardSettled_keepsFields _).bit (by decide), hdecided, decided_event]
  · rw [State.zoneWeighed, guardSettled_keepsFields _ _ (by decide), hdecided, decided_cause _ hcause]

end clauses

/-! ### Power windows (R480, R483, R484) -/

/-- The power of the column in a window: what the stack took and what the footprint reports, or may take while its
report is stale. -/
def State.windowPower (s : State) (mem : BitVec 16) : Nat :=
  min 65535 (mem.toNat +
    if s.reportStale then s.computeLimit s.stepNow else s.gf Reg.THERM_COMPUTE_W Fld.THERM_COMPUTE_W_POWER)

/-- The powers of a window are shown. -/
def State.powerShown (s : State) (mem : BitVec 16) : State :=
  (s.sf Reg.THERM_POWER Fld.THERM_POWER_COLUMN (s.windowPower mem)).sf Reg.THERM_POWER Fld.THERM_POWER_MEM mem.toNat

/-- The next window begins with a power step. -/
def State.windowBegun (s : State) (mem : BitVec 16) (k : Nat) (ws : List Nat) : State :=
  ((s.powerShown mem).modTherm fun x => { x with windowNo := s.clk.pkg / 100000, windows := ws }).sf Reg.THERM_STATUS
    Fld.THERM_STATUS_P_STEP k

/-- The window's powers are shown, and the next window begins with a power step, which is driven. -/
def State.windowClosed (s : State) (mem : BitVec 16) (k : Nat) (ws : List Nat) : State :=
  (s.windowBegun mem k ws).applyStep

/-- A window whose power exceeds the limit in force raises the power step. -/
def State.overLimit (s : State) (mem : BitVec 16) : Prop :=
  s.limitOf s.pStep < 1000 * s.windowPower mem ∧ s.pStep < 8

/-- A window raises the power step by one, lowers it by one or leaves it. -/
theorem powerWindow_cases {s : State} (mem : BitVec 16) (hno : s.therm.windowNo < s.clk.pkg / 100000) :
    (s.overLimit mem ∧ powerWindow mem s = s.windowClosed mem (s.pStep + 1) []) ∨
    (¬ s.overLimit mem ∧ 0 < s.pStep ∧ powerWindow mem s = s.windowClosed mem (s.pStep - 1) []) ∨
    (¬ s.overLimit mem ∧ ∃ ws, powerWindow mem s = s.windowClosed mem s.pStep ws) := by
  unfold powerWindow
  rw [if_neg (Nat.not_le.mpr hno)]
  extract_lets c p t k half ws low
  by_cases hover : s.limitOf k < 1000 * p ∧ k < 8
  · rw [if_pos hover]
    exact .inl ⟨hover, rfl⟩
  · rw [if_neg hover]
    by_cases hlow : 0 < k ∧ low = true
    · rw [if_pos hlow]
      exact .inr (.inl ⟨hover, hlow.1, rfl⟩)
    · rw [if_neg hlow]
      exact .inr (.inr ⟨hover, ws, rfl⟩)

section window

variable (s : State) (mem : BitVec 16) (k : Nat) (ws : List Nat)

theorem powerShown_mem : (s.powerShown mem).gf Reg.THERM_POWER Fld.THERM_POWER_MEM = mem.toNat := by
  rw [State.powerShown, State.gf_sf_same _ _ _ _ (by decide)]
  exact Nat.mod_eq_of_lt mem.isLt

theorem powerShown_column : (s.powerShown mem).gf Reg.THERM_POWER Fld.THERM_POWER_COLUMN = s.windowPower mem := by
  have hlt : s.windowPower mem < 65536 := Nat.lt_succ_of_le (Nat.min_le_left 65535 _)
  rw [State.powerShown, State.gf_sf_apart _ _ _ _ _ (by decide) (by decide), State.gf_sf_same _ _ _ _ (by decide)]
  exact Nat.mod_eq_of_lt hlt

theorem powerShown_keepsRegs : KeepsRegs s (s.powerShown mem) [Reg.THERM_POWER] :=
  ((KeepsRegs.refl s _).sf (by simp) _ _).sf (by simp) _ _

theorem powerShown_therm : (s.powerShown mem).therm = s.therm := by rw [State.powerShown, sf_therm, sf_therm]

theorem windowBegun_keepsRegs : KeepsRegs (s.powerShown mem) (s.windowBegun mem k ws) [Reg.THERM_STATUS] :=
  ((KeepsRegs.refl _ _).of_regs (modTherm_regs _ _)).sf (by simp) _ k

theorem windowBegun_keepsFields :
    KeepsFields s (s.windowBegun mem k ws) Reg.THERM_STATUS [Fld.THERM_STATUS_P_STEP] :=
  ((((KeepsFields.refl s _ _).of_rd (powerShown_keepsRegs s mem _ (by decide))).of_regs (modTherm_regs _ _))).sf
    (by simp) (by decide) k

theorem windowBegun_pStep (hk : k < 16) : (s.windowBegun mem k ws).pStep = k := by
  rw [State.pStep, State.windowBegun, State.gf_sf_same _ _ _ _ (by decide)]
  exact Nat.mod_eq_of_lt hk

theorem windowBegun_therm : (s.windowBegun mem k ws).therm =
    { s.therm with windowNo := s.clk.pkg / 100000, windows := ws } := by
  rw [State.windowBegun, sf_therm, modTherm_therm, powerShown_therm]

/-- The powers stand in a register that neither the power step nor the step in force touches. -/
theorem windowClosed_power : (s.windowClosed mem k ws).rd Reg.THERM_POWER = (s.powerShown mem).rd Reg.THERM_POWER := by
  have hpower : Reg.THERM_POWER ∉ Reg.THERM_STATUS :: slotRegs := by
    rw [List.mem_cons, not_or]
    exact ⟨by decide, notMem_slotRegs (by decide)⟩
  exact (applyStep_keepsRegs _ _ hpower).trans (windowBegun_keepsRegs s mem k ws _ (by decide))

theorem windowClosed_pStep (hk : k < 16) : (s.windowClosed mem k ws).pStep = k :=
  (applyStep_keepsFields _ Fld.THERM_STATUS_P_STEP (by decide)).trans (windowBegun_pStep s mem k ws hk)

theorem windowClosed_stepNow (hk : k < 16) :
    (s.windowClosed mem k ws).stepNow = max (s.gf Reg.THERM_STATUS Fld.THERM_STATUS_T_STEP) k := by
  have htstep := windowBegun_keepsFields s mem k ws Fld.THERM_STATUS_T_STEP (by decide)
  have hpstep := windowBegun_pStep s mem k ws hk
  rw [State.windowClosed, applyStep_stepNow, State.stepDue, htstep]
  exact congrArg _ hpstep

theorem windowClosed_therm : ∃ a, (s.windowClosed mem k ws).therm =
    { s.therm with windowNo := s.clk.pkg / 100000, windows := ws, colAt := a } := by
  obtain ⟨a, ha⟩ := applyStep_therm (s.windowBegun mem k ws)
  exact ⟨a, by rw [State.windowClosed, ha, windowBegun_therm]⟩

theorem windowClosed_keepsRegs :
    KeepsRegs s (s.windowClosed mem k ws) (Reg.THERM_STATUS :: Reg.THERM_POWER :: slotRegs) :=
  (((powerShown_keepsRegs s mem).mono (by simp)).trans ((windowBegun_keepsRegs s mem k ws).mono (by simp))).trans
    ((applyStep_keepsRegs _).mono (by simp))

end window

theorem pStep_lt (s : State) : s.pStep < 16 := State.gf_lt s _ Fld.THERM_STATUS_P_STEP

theorem powerWindow_keeps_guard (s : State) (mem : BitVec 16) : Keeps s (powerWindow mem s) [.fw, .pins, .therm] :=
  powerWindow_keeps mem s (Keeps.refl _ _) (by simp) (by simp) (by simp)

theorem gives_powerWindowEnd_raises (s : State) (mem : BitVec 16) (hlive : s.live .sensor = true)
    (hno : s.therm.windowNo < s.clk.pkg / 100000) (hreport : s.reportStale = false) (hk : s.pStep < 8)
    (hover : s.limitOf s.pStep < 1000 * min 65535 (mem.toNat + s.gf Reg.THERM_COMPUTE_W Fld.THERM_COMPUTE_W_POWER)) :
    Gives (.powerWindowEnd mem) s fun t =>
      t.pStep = s.pStep + 1 ∧ t.therm.windows = [] ∧ t.therm.windowNo = s.clk.pkg / 100000 ∧
        t.gf Reg.THERM_POWER Fld.THERM_POWER_MEM = mem.toNat ∧
        t.gf Reg.THERM_POWER Fld.THERM_POWER_COLUMN =
          min 65535 (mem.toNat + s.gf Reg.THERM_COMPUTE_W Fld.THERM_COMPUTE_W_POWER) ∧
        t.stepNow = max (s.gf Reg.THERM_STATUS Fld.THERM_STATUS_T_STEP) (s.pStep + 1) ∧
        Keeps s t [.fw, .pins, .therm] ∧
        KeepsRegs s t (Reg.THERM_STATUS :: Reg.THERM_POWER :: (upto 64).map Reg.SLOT_STATUS) := by
  refine ⟨_, congrArg Host.Outcome.next (State.onLive_true hlive), ?_⟩
  have hpower : s.windowPower mem = min 65535 (mem.toNat + s.gf Reg.THERM_COMPUTE_W Fld.THERM_COMPUTE_W_POWER) := by
    rw [State.windowPower, hreport]
    rfl
  have hraise : s.overLimit mem := ⟨hpower ▸ hover, hk⟩
  have hkeeps := powerWindow_keeps_guard s mem
  have hrow : powerWindow mem s = s.windowClosed mem (s.pStep + 1) [] := by
    rcases powerWindow_cases mem hno with ⟨-, h⟩ | ⟨hn, -⟩ | ⟨hn, -⟩
    · exact h
    · exact absurd hraise hn
    · exact absurd hraise hn
  rw [hrow] at hkeeps ⊢
  obtain ⟨a, htherm⟩ := windowClosed_therm s mem (s.pStep + 1) []
  refine ⟨windowClosed_pStep s mem _ _ (by omega), by rw [htherm], by rw [htherm], ?_, ?_,
    windowClosed_stepNow s mem _ _ (by omega), hkeeps, windowClosed_keepsRegs s mem _ _⟩
  · exact (State.gf_congr (windowClosed_power s mem _ _) _).trans (powerShown_mem s mem)
  · exact ((State.gf_congr (windowClosed_power s mem _ _) _).trans (powerShown_column s mem)).trans hpower

/-- The power step moves by one at most and never above 8 (R480). -/
theorem powerWindow_closes {s : State} (mem : BitVec 16) (hno : s.therm.windowNo < s.clk.pkg / 100000) :
    ∃ k ws, powerWindow mem s = s.windowClosed mem k ws ∧ k ≤ s.pStep + 1 ∧ s.pStep ≤ k + 1 ∧
      (s.pStep ≤ 8 → k ≤ 8) ∧ k < 16 := by
  have hlt := pStep_lt s
  rcases powerWindow_cases mem hno with ⟨⟨-, h8⟩, h⟩ | ⟨-, hpos, h⟩ | ⟨-, ws, h⟩
  · exact ⟨_, _, h, by omega, by omega, by omega, by omega⟩
  · exact ⟨_, _, h, by omega, by omega, by omega, by omega⟩
  · exact ⟨_, _, h, by omega, by omega, by omega, by omega⟩

theorem gives_powerWindowEnd (s : State) (mem : BitVec 16) (hlive : s.live .sensor = true)
    (hno : s.therm.windowNo < s.clk.pkg / 100000) :
    Gives (.powerWindowEnd mem) s fun t =>
      t.gf Reg.THERM_POWER Fld.THERM_POWER_MEM = mem.toNat ∧ t.therm.windowNo = s.clk.pkg / 100000 ∧
        t.pStep ≤ s.pStep + 1 ∧ s.pStep ≤ t.pStep + 1 ∧ (s.pStep ≤ 8 → t.pStep ≤ 8) ∧
        Keeps s t [.fw, .pins, .therm] ∧
        KeepsRegs s t (Reg.THERM_STATUS :: Reg.THERM_POWER :: (upto 64).map Reg.SLOT_STATUS) := by
  refine ⟨_, congrArg Host.Outcome.next (State.onLive_true hlive), ?_⟩
  have hkeeps := powerWindow_keeps_guard s mem
  obtain ⟨k, ws, hrow, hup, hdown, h8, hlt⟩ := powerWindow_closes mem hno
  rw [hrow] at hkeeps ⊢
  beta_reduce
  rw [windowClosed_pStep s mem k ws hlt]
  obtain ⟨a, htherm⟩ := windowClosed_therm s mem k ws
  exact ⟨(State.gf_congr (windowClosed_power s mem _ _) _).trans (powerShown_mem s mem), by rw [htherm], hup, hdown, h8,
    hkeeps, windowClosed_keepsRegs s mem k ws⟩

/-- Settles O13, clause by clause. -/
theorem zoneSteps : Obligations.ZoneSteps := by
  unfold Obligations.ZoneSteps
  exact ⟨fun s z r hlive hread hfresh hup => gives_zoneReading_raises s z r hlive hread hfresh hup,
    fun s z r hlive hread hfresh hcrit hshut hdue =>
      gives_zoneReading_critical s z r hlive hread hfresh hcrit hshut hdue,
    gives_powerWindowEnd_raises, gives_colThrCodeStep,
    fun s z r hlive hread hfresh => gives_zoneReading s z r hlive hread hfresh, gives_powerWindowEnd⟩

end Sys2Proof.Machine
end

section
/-! SUPPORT. What the steward core takes from the chain and answers over it (O52). -/

namespace Sys2Proof.Machine

set_option Elab.async false

/-! ### Words (R369, R400) -/

theorem cwArg_lt (v : Word) : cwArg v < 2 ^ 23 := natBits_lt _ _ _

/-- The low half of a command's argument is its own argument. -/
theorem natBits_cwArg_low (v : Word) : natBits (cwArg v) 0 16 = cwArg v % 65536 := by simp [natBits]

/-- The part above it is the command's code. -/
theorem natBits_cwArg_code (v : Word) : natBits (cwArg v) 16 7 = cwArg v / 65536 := by
  have h := cwArg_lt v
  unfold natBits
  omega

theorem testBit_mod_two_pow_of_lt (x : Nat) {i n : Nat} (hi : i < n) : (x % 2 ^ n).testBit i = x.testBit i := by
  simp [Nat.testBit_mod_two_pow, hi]

/-! ### What a taken word leaves (R370) -/

/-- The words that are left once one has been taken up. -/
def State.taking (s : State) (l : List (Bool × Word)) : State := s.modChain fun c => { c with taken := l }

theorem taking_chain (s : State) (l : List (Bool × Word)) : (s.taking l).chain = { s.chain with taken := l } := rfl

theorem taking_regs (s : State) (l : List (Bool × Word)) : (s.taking l).regs = s.regs := rfl

theorem taking_pkg (s : State) (l : List (Bool × Word)) : (s.taking l).pkg = s.pkg := rfl

theorem taking_keeps (s : State) (l : List (Bool × Word)) : Keeps s (s.taking l) [.chain] :=
  State.modChain_keeps s _ (Keeps.refl _ _) (by simp)

theorem taking_keepsRegs (s : State) (l : List (Bool × Word)) (rs : List Nat) : KeepsRegs s (s.taking l) rs :=
  (KeepsRegs.refl s rs).of_regs (taking_regs s l)

theorem takeWord_some {s : State} {down : Bool} {f : Word → Bool} {x : Bool × Word}
    (h : s.chain.taken.find? (fun x => decide (x.1 = down) && f x.2) = some x) :
    s.takeWord down f =
      some (x.2, s.taking (dropFirst (fun x => decide (x.1 = down) && f x.2) s.chain.taken)) := by
  unfold State.takeWord
  dsimp only
  rw [h]
  rfl

theorem takeKind_oldest {s : State} {down : Bool} {k : Nat} {v : Word} (h : Oldest s down k v) :
    s.takeKind down k = some (v, s.taking (s.others down k)) :=
  takeWord_some (f := fun w => decide (cwKind w = k)) h

theorem takeKind_none {s : State} {down : Bool} {k : Nat} (h : ∀ x ∈ s.chain.taken, x.1 = !down ∨ cwKind x.2 ≠ k) :
    s.takeKind down k = none := by
  have hnone : s.chain.taken.find? (fun x => decide (x.1 = down) && decide (cwKind x.2 = k)) = none := by
    refine List.find?_eq_none.mpr fun x hx => ?_
    rcases h x hx with hx' | hx' <;> simp [hx']
  unfold State.takeKind State.takeWord
  dsimp only
  rw [hnone]
  rfl

theorem isCommand_eq (code : Nat) : isCommand code =
    fun x : Bool × Word =>
      decide (x.1 = true) && (decide (cwKind x.2 = 6) && decide (natBits (cwArg x.2) 16 7 = code)) := by
  funext x
  rw [natBits_cwArg_code]

theorem takeCmd_command {s : State} {v : Word} {code : Nat} (h : Command s v code) :
    s.takeCmd code = some (cwArg v % 65536, s.taking (s.noCommand code)) := by
  obtain ⟨-, hfind⟩ := h
  unfold State.noCommand
  rw [isCommand_eq] at hfind ⊢
  rw [State.takeCmd, takeWord_some hfind, ← natBits_cwArg_low]
  rfl

/-! ### Words that go upstream (R69) -/

theorem chainUp_chain (s : State) (w : Word) : (s.chainUp w).chain =
    { s.chain with outW := if s.straps.chainHead then s.chain.outW else s.chain.outW ++ [w] } := by
  unfold State.chainUp
  split <;> rfl

theorem chainUp_regs (s : State) (w : Word) : (s.chainUp w).regs = s.regs := by
  unfold State.chainUp
  split <;> rfl

theorem chainUp_keeps (s : State) (w : Word) : Keeps s (s.chainUp w) [.chain] :=
  State.chainUp_keeps s w (Keeps.refl _ _) (by simp)

/-- The answer to a word that has been taken up. -/
theorem taking_result (s : State) (l : List (Bool × Word)) (code : Nat) {r : Nat} (hr : r < 65536) :
    ResultSent s ((s.taking l).result code r) code r ∧
      ((s.taking l).result code r).chain = { s.chain with
        taken := l, outW := ((s.taking l).result code r).chain.outW } ∧
      Keeps s ((s.taking l).result code r) [.chain] ∧ KeepsRegs s ((s.taking l).result code r) [] := by
  have hchain := chainUp_chain (s.taking l) (chainWord 7 false (s.taking l).self (code * 65536 + r % 65536))
  rw [Nat.mod_eq_of_lt hr] at hchain
  rw [State.result, Nat.mod_eq_of_lt hr]
  refine ⟨(congrArg Chain.outW hchain).trans rfl, by rw [hchain, taking_chain],
    State.chainUp_keeps _ _ (taking_keeps s l) (by simp), ?_⟩
  exact (taking_keepsRegs s l []).of_regs (chainUp_regs _ _)

/-! ### STATUS and codes without a meaning (R400) -/

theorem statusResult_lt (s : State) : s.statusResult < 65536 := by
  have hphase := State.gf_lt s Reg.FW_BOOT_STATUS Fld.FW_BOOT_STATUS_PHASE
  have hcause := State.gf_lt s Reg.FW_BOOT_STATUS Fld.FW_BOOT_STATUS_FAULT_CAUSE
  have hstate := State.gf_lt s Reg.FW_STATUS Fld.FW_STATUS_STATE
  simp only [Fld.FW_BOOT_STATUS_PHASE, Fld.FW_BOOT_STATUS_FAULT_CAUSE, Fld.FW_STATUS_STATE] at hphase hcause hstate
  simp only [State.statusResult, State.phase, State.fwState, Fld.FW_BOOT_STATUS_PHASE, Fld.FW_BOOT_STATUS_FAULT_CAUSE,
    Fld.FW_STATUS_STATE]
  omega

theorem gives_cmdStatus (s : State) (v : Word) (h : Command s v 1) : Gives .cmdStatus s fun t =>
      ResultSent s t 1 (s.phase + s.gf Reg.FW_BOOT_STATUS Fld.FW_BOOT_STATUS_FAULT_CAUSE * 16 + s.fwState * 256) ∧
        t.chain.taken = s.noCommand 1 ∧ t.chain.outE = s.chain.outE ∧ t.chain.waitE = s.chain.waitE ∧
        Keeps s t [.chain] ∧ KeepsRegs s t [] := by
  refine ⟨_, congrArg Host.Outcome.next (State.onCore_true h.1), ?_⟩
  have hrow : cmdStatus s = (s.taking (s.noCommand 1)).result 1 s.statusResult := by
    unfold cmdStatus
    rw [takeCmd_command h]
    rfl
  obtain ⟨hsent, hchain, hkeeps, hregs⟩ := taking_result s (s.noCommand 1) 1 (statusResult_lt s)
  rw [hrow]
  exact ⟨hsent, by rw [hchain], by rw [hchain], by rw [hchain], hkeeps, hregs⟩

theorem reservedWord_eq : reservedWord = fun x : Bool × Word => decide (x.1 = true) && (decide (cwKind x.2 = 6) &&
    !(decide (1 ≤ natBits (cwArg x.2) 16 7) && decide (natBits (cwArg x.2) 16 7 ≤ 6))) := by
  funext x
  rw [natBits_cwArg_code]

theorem gives_reservedChainCommand (s : State) (v : Word) (hruns : s.fwRuns .steward = true)
    (hfind : s.chain.taken.find? reservedWord = some (true, v)) : Gives .reservedChainCommand s fun t =>
      ResultSent s t (cwArg v / 65536) 0xFFFF ∧ t.chain.taken = dropFirst reservedWord s.chain.taken ∧
        t.chain.outE = s.chain.outE ∧ Keeps s t [.chain] ∧ KeepsRegs s t [] := by
  refine ⟨_, congrArg Host.Outcome.next (State.onCore_true hruns), ?_⟩
  have hrow : reservedCommand s =
      (s.taking (dropFirst reservedWord s.chain.taken)).result (cwArg v / 65536) 0xFFFF := by
    rw [reservedWord_eq] at hfind ⊢
    rw [reservedCommand, takeWord_some hfind, ← natBits_cwArg_code]
  obtain ⟨hsent, hchain, hkeeps, hregs⟩ :=
    taking_result s (dropFirst reservedWord s.chain.taken) (cwArg v / 65536) (r := 0xFFFF) (by decide)
  rw [hrow]
  exact ⟨hsent, by rw [hchain], by rw [hchain], hkeeps, hregs⟩

/-! ### RELAY (R369, R370) -/

theorem relayParts_eq (old : List Nat) (v : Word) : relayParts old v = partsWith old v := by
  unfold relayParts
  rw [natBits_cwArg_low]

/-- A telemetry message that came whole goes where those of the ring go, and its sender has been heard. -/
def State.gotTelemetry (s : State) (b : List Byte) : State :=
  (s.modRing fun g => { g with inbox := g.inbox ++ [((b.getD 0 0).toNat, .telemetry b)] }).heardChain (b.getD 0 0).toNat

theorem relayed_telemetry (s : State) (parts : List Nat) {b : List Byte} (hb : b = parts.flatMap (leBytes 2))
    (hlen : b.length = 64) (htype : b.getD 3 0 = 0) : s.relayed parts = s.gotTelemetry b := by
  have hbytes : relayBytes parts = b := hb.symm
  unfold State.relayed
  simp only [hbytes, hlen, htype]
  rfl

theorem relayed_chain (s : State) (parts : List Nat) : (s.relayed parts).chain = s.chain := by
  unfold State.relayed
  dsimp only
  split <;> rfl

theorem relayed_regs (s : State) (parts : List Nat) : (s.relayed parts).regs = s.regs := by
  unfold State.relayed
  dsimp only
  split <;> rfl

theorem exec_relay {s : State} (hruns : s.fwRuns .steward = true) : exec .relay s = .next (relay s) :=
  congrArg Host.Outcome.next (State.onCore_true hruns)

theorem relay_keeps_all (s : State) : Keeps s (relay s) [.chain, .ring, .pkg] :=
  relay_keeps s (Keeps.refl _ _) (by simp) (by simp) (by simp)

section down

variable {s : State} {v : Word} (hold : Oldest s true 9 v)

include hold

theorem relay_down_part (hlast : (cwArg v).testBit 21 = false) : relay s =
    (s.taking (s.others true 9)).modChain fun c => { c with relayDown := partsWith s.chain.relayDown v } := by
  unfold relay
  rw [takeKind_oldest hold]
  simp only [hlast, relayParts_eq]
  rfl

theorem relay_down_last (hlast : (cwArg v).testBit 21 = true) : relay s =
    ((s.taking (s.others true 9)).modChain fun c => { c with relayDown := [] }).relayed
      (partsWith s.chain.relayDown v) := by
  unfold relay
  rw [takeKind_oldest hold]
  simp only [hlast, relayParts_eq]
  rfl

end down

theorem gives_relay_down_part (s : State) (v : Word) (h : s.fwRuns .steward = true ∧ Oldest s true 9 v)
    (hlast : (cwArg v).testBit 21 = false) : Gives .relay s fun t =>
      t.chain = { s.chain with taken := s.others true 9, relayDown := partsWith s.chain.relayDown v } ∧
        Keeps s t [.chain] ∧ KeepsRegs s t [] := by
  obtain ⟨hruns, hold⟩ := h
  refine ⟨_, exec_relay hruns, ?_⟩
  rw [relay_down_part hold hlast]
  exact ⟨rfl, State.modChain_keeps _ _ (taking_keeps s _) (by simp),
    (taking_keepsRegs s (s.others true 9) []).of_regs rfl⟩

theorem gives_relay_down_last (s : State) (v : Word) (h : s.fwRuns .steward = true ∧ Oldest s true 9 v)
    (hlast : (cwArg v).testBit 21 = true) : Gives .relay s fun t =>
      t.chain = { s.chain with taken := s.others true 9, relayDown := [] } ∧ Keeps s t [.chain, .ring, .pkg] ∧
        KeepsRegs s t [] := by
  obtain ⟨hruns, hold⟩ := h
  refine ⟨_, exec_relay hruns, ?_⟩
  have hkeeps := relay_keeps_all s
  rw [relay_down_last hold hlast] at hkeeps ⊢
  exact ⟨(relayed_chain _ _).trans rfl, hkeeps, (taking_keepsRegs s (s.others true 9) []).of_regs (relayed_regs _ _)⟩

theorem gives_relay_down_telemetry (s : State) (v : Word) (b : List Byte)
    (h : s.fwRuns .steward = true ∧ Oldest s true 9 v) (hlast : (cwArg v).testBit 21 = true)
    (hb : b = (partsWith s.chain.relayDown v).flatMap (leBytes 2)) (hwhole : b.length = 64 ∧ b.getD 3 0 = 0) :
    Gives .relay s fun t =>
      t.chain = { s.chain with taken := s.others true 9, relayDown := [] } ∧
        t.ring = { s.ring with inbox := s.ring.inbox ++ [((b.getD 0 0).toNat, .telemetry b)] } ∧
        t.pkg = { s.pkg with chainHeard := s.heardNow (b.getD 0 0).toNat } ∧ Keeps s t [.chain, .ring, .pkg] ∧
        KeepsRegs s t [] := by
  obtain ⟨t, ht, hchain, hkeeps, hregs⟩ := gives_relay_down_last s v h hlast
  obtain ⟨hruns, hold⟩ := h
  rw [exec_relay hruns] at ht
  obtain rfl : relay s = t := by simpa using ht
  refine ⟨_, exec_relay hruns, hchain, ?_, ?_, hkeeps, hregs⟩
  · rw [relay_down_last hold hlast, relayed_telemetry _ _ hb hwhole.1 hwhole.2]
    rfl
  · rw [relay_down_last hold hlast, relayed_telemetry _ _ hb hwhole.1 hwhole.2]
    rfl

section up

variable {s : State} {v : Word} (hold : Oldest s false 9 v) (hnone : ∀ x ∈ s.chain.taken, x.1 = false ∨ cwKind x.2 ≠ 9)

include hold hnone

theorem relay_up : relay s =
    let t := (s.taking (s.others false 9)).modChain fun c =>
      { c with relayUp := c.relayUp.filter fun e => e.1 ≠ cwInst v }
    let parts := partsWith (((s.chain.relayUp.find? fun e => e.1 = cwInst v).map (·.2)).getD []) v
    if (cwArg v).testBit 21 then (if s.role = 0 then t else t.relayed parts)
    else t.modChain fun c => { c with relayUp := c.relayUp ++ [(cwInst v, parts)] } := by
  unfold relay
  rw [takeKind_none hnone, takeKind_oldest hold]
  simp only [relayParts_eq]
  rfl

end up

theorem gives_relay_up_part (s : State) (v : Word) (h : s.fwRuns .steward = true ∧ Oldest s false 9 v)
    (hnone : ∀ x ∈ s.chain.taken, x.1 = false ∨ cwKind x.2 ≠ 9) (hlast : (cwArg v).testBit 21 = false) :
    Gives .relay s fun t =>
      t.chain = { s.chain with
            taken := s.others false 9,
            relayUp := (s.chain.relayUp.filter fun e => e.1 ≠ cwInst v) ++ [(cwInst v, partsWith
              (((s.chain.relayUp.find? fun e => e.1 = cwInst v).map (·.2)).getD []) v)] } ∧ Keeps s t [.chain] ∧
        KeepsRegs s t [] := by
  obtain ⟨hruns, hold⟩ := h
  refine ⟨_, exec_relay hruns, ?_⟩
  rw [relay_up hold hnone, if_neg (by simp [hlast])]
  exact ⟨rfl, State.modChain_keeps _ _ (State.modChain_keeps _ _ (taking_keeps s _) (by simp)) (by simp),
    (taking_keepsRegs s (s.others false 9) []).of_regs rfl⟩

theorem gives_relay_up_telemetry (s : State) (v : Word) (b : List Byte)
    (h : s.fwRuns .steward = true ∧ Oldest s false 9 v) (hnone : ∀ x ∈ s.chain.taken, x.1 = false ∨ cwKind x.2 ≠ 9)
    (hlast : (cwArg v).testBit 21 = true)
    (hb : b = (partsWith (((s.chain.relayUp.find? fun e => e.1 = cwInst v).map (·.2)).getD []) v).flatMap (leBytes 2))
    (hwhole : b.length = 64 ∧ b.getD 3 0 = 0) (hrole : s.role ≠ 0) :
    Gives .relay s fun t =>
      t.chain = { s.chain with taken := s.others false 9, relayUp := s.chain.relayUp.filter fun e => e.1 ≠ cwInst v } ∧
        t.ring = { s.ring with inbox := s.ring.inbox ++ [((b.getD 0 0).toNat, .telemetry b)] } ∧
        t.pkg = { s.pkg with chainHeard := s.heardNow (b.getD 0 0).toNat } ∧ Keeps s t [.chain, .ring, .pkg] ∧
        KeepsRegs s t [] := by
  obtain ⟨hruns, hold⟩ := h
  refine ⟨_, exec_relay hruns, ?_⟩
  have hkeeps := relay_keeps_all s
  rw [relay_up hold hnone, if_pos hlast, if_neg hrole, relayed_telemetry _ _ hb hwhole.1 hwhole.2] at hkeeps ⊢
  exact ⟨rfl, rfl, rfl, hkeeps, (taking_keepsRegs s (s.others false 9) []).of_regs rfl⟩

/-! ### Words that go downstream (R71) -/

theorem chainERdy_eta {p : Pins} {b : Bool} (h : p.chainERdy = b) : { p with chainERdy := b } = p := by
  subst h
  rfl

theorem chainDown_sends (s : State) (w : Word) : (s.chainDown w).chain = s.chain.sends s.pins.chainERdy [w] ∧
    (s.chainDown w).pins = { s.pins with chainERdy := s.chain.stillRdy s.pins.chainERdy [w] } := by
  unfold State.chainDown State.chainPump Chain.sends Chain.stillRdy
  cases hrdy : s.pins.chainERdy with
  | false => exact ⟨by simp [State.modChain, hrdy], by simp [State.modChain, hrdy, chainERdy_eta hrdy]⟩
  | true =>
    cases hroom : s.chain.room with
    | none =>
      exact ⟨by simp [State.modChain, hrdy, hroom], by simp [State.modChain, hrdy, hroom, chainERdy_eta hrdy]⟩
    | some k =>
      exact ⟨by simp [State.modChain, State.modPins, hrdy, hroom],
        by simp [State.modChain, State.modPins, hrdy, hroom]⟩

theorem sends_taken (c : Chain) (rdy : Bool) (ws : List Word) : (c.sends rdy ws).taken = c.taken := by
  unfold Chain.sends
  cases rdy <;> cases c.room <;> rfl

theorem sends_outW (c : Chain) (rdy : Bool) (ws : List Word) : (c.sends rdy ws).outW = c.outW := by
  unfold Chain.sends
  cases rdy <;> cases c.room <;> rfl

theorem chainDown_regs (s : State) (w : Word) : (s.chainDown w).regs = s.regs := by
  unfold State.chainDown State.chainPump
  split_ifs
  · split <;> rfl
  · rfl

/-- Nothing but words for the instances downstream and the training of a port. -/
structure SentOnly (s t : State) : Prop where
  taken : t.chain.taken = s.chain.taken
  outW : t.chain.outW = s.chain.outW
  regs : t.regs = s.regs

theorem SentOnly.refl (s : State) : SentOnly s s := ⟨rfl, rfl, rfl⟩

theorem SentOnly.trans {s t u : State} (h : SentOnly s t) (h' : SentOnly t u) : SentOnly s u :=
  ⟨h'.taken.trans h.taken, h'.outW.trans h.outW, h'.regs.trans h.regs⟩

theorem SentOnly.ite {s t u : State} {c : Prop} [Decidable c] (h : SentOnly s t) (h' : SentOnly s u) :
    SentOnly s (if c then t else u) := by
  split <;> assumption

theorem SentOnly.chainDown {s t : State} (h : SentOnly s t) (w : Word) : SentOnly s (t.chainDown w) :=
  h.trans ⟨by rw [(chainDown_sends t w).1, sends_taken], by rw [(chainDown_sends t w).1, sends_outW],
    chainDown_regs t w⟩

theorem SentOnly.command {s t : State} (h : SentOnly s t) (i code arg : Nat) : SentOnly s (t.command i code arg) :=
  h.chainDown _

theorem SentOnly.trainPort {s t : State} (h : SentOnly s t) (e : Bool) : SentOnly s (t.trainPort e) :=
  SentOnly.ite (h.trans ⟨rfl, rfl, rfl⟩) h

/-! ### The captain's duty for an instance that the ring does not reach (R386, R395) -/

theorem captainDuty_sentOnly (s : State) (i : Nat) : SentOnly s (s.captainDuty i) := by
  have hbring (code : Nat) : SentOnly s (
      let t := s.command i code 3
      let t := if i = s.self + 1 then t.trainPort true else t.command (i - 1) code 2
      if i + 1 < s.count then t.command (i + 1) code 1 else if s.self = 0 then t.trainPort false else t) := by
    have htold := (SentOnly.refl s).command i code 3
    have hjoined := SentOnly.ite (c := i = s.self + 1) (htold.trainPort true) (htold.command (i - 1) code 2)
    exact SentOnly.ite (hjoined.command _ _ _) (SentOnly.ite (hjoined.trainPort false) hjoined)
  exact SentOnly.ite (SentOnly.refl s) (SentOnly.ite ((SentOnly.refl s).command _ _ _)
    (SentOnly.ite (hbring 3) (SentOnly.ite (hbring 4) (SentOnly.refl s))))

theorem captainDuty_idle {s : State} {i : Nat} (h : NoDuty s i) : s.captainDuty i = s := by
  refine if_pos ?_
  rcases h with h | h | h
  · exact .inl (by simp [h])
  · exact .inr (.inl h)
  · exact .inr (.inr h)

section congr

variable {s t : State} (hregs : t.regs = s.regs)

include hregs

theorem self_congr : t.self = s.self := State.gf_congr (State.rd_congr hregs _) _

theorem count_congr : t.count = s.count := State.gf_congr (State.rd_congr hregs _) _

theorem portUp_congr (e : Bool) : t.portUp e = s.portUp e := by
  cases e
  · exact State.bit_congr (State.rd_congr hregs _) _
  · exact State.bit_congr (State.rd_congr hregs _) _

theorem linkUp_congr (hring : t.ring = s.ring) : t.linkUp = s.linkUp := by
  funext i
  rw [State.linkUp, State.linkUp, self_congr hregs, count_congr hregs, portUp_congr hregs, portUp_congr hregs, hring]

theorem hops_congr (hring : t.ring = s.ring) (e : Bool) (j : Nat) : t.hops e j = s.hops e j := by
  rw [State.hops, State.hops, self_congr hregs, count_congr hregs, linkUp_congr hregs hring]

theorem towards_congr (hring : t.ring = s.ring) (j : Nat) : t.towards j = s.towards j := by
  rw [State.towards, State.towards, hops_congr hregs hring, hops_congr hregs hring]

theorem NoDuty.congr {i : Nat} (h : NoDuty s i) (hring : t.ring = s.ring) (helected : t.pkg.elected = s.pkg.elected) :
    NoDuty t i := by
  have hrole : t.role = s.role := State.gf_congr (State.rd_congr hregs _) _
  have hcaptain : t.isCaptain = s.isCaptain := by rw [State.isCaptain, State.isCaptain, hrole, helected]
  rw [NoDuty, hcaptain, self_congr hregs, towards_congr hregs hring]
  exact h

end congr

/-! ### The head's duty (R395, R396) -/

theorem headDuty_idle {s : State} (h : s.straps.chainHead = false ∨ s.pkg.goAt = none ∨ s.numbered = false) :
    s.headDuty = s := by
  refine if_pos ?_
  rcases h with h | h | h
  · exact .inl (by simp [h])
  · exact .inr (.inl (by simp [h]))
  · exact .inr (.inr (by simp [h]))

theorem headDuty_trains {s : State} (hhead : s.straps.chainHead = true) (hgo : s.pkg.goAt ≠ none)
    (hnum : s.numbered = true) (hunsent : s.pkg.trainSent = false) (hall : ∀ i < s.count, (s.phaseOf i).isSome) :
    s.headDuty = s.sendTrainStack := by
  unfold State.headDuty
  rw [if_neg (by simp [hhead, hgo, hnum]), if_pos (by simp [hunsent]),
    if_pos (List.all_eq_true.mpr fun i hi => hall i (List.mem_range.mp hi))]

/-- The word of a command that the head broadcasts. -/
def headWord (code arg : Nat) : Word := chainWord 6 true 0 (code * 65536 + arg)

theorem headCommand_chain (s : State) (code arg : Nat) : (s.headCommand code arg).chain =
    { s.chain.sends s.pins.chainERdy [headWord code arg] with
      taken := s.chain.taken ++ [(true, headWord code arg)] } := by
  have hchain := (chainDown_sends s (headWord code arg)).1
  have htaken := sends_taken s.chain s.pins.chainERdy [headWord code arg]
  unfold State.headCommand State.modChain
  dsimp only
  rw [← headWord, hchain, htaken]

theorem headCommand_pins (s : State) (code arg : Nat) : (s.headCommand code arg).pins =
    { s.pins with chainERdy := s.chain.stillRdy s.pins.chainERdy [headWord code arg] } :=
  (chainDown_sends s (headWord code arg)).2

theorem headCommand_regs (s : State) (code arg : Nat) : (s.headCommand code arg).regs = s.regs :=
  chainDown_regs s (headWord code arg)

/-- The head sends TRAIN_STACK, or TRAIN_D2D, or nothing. -/
theorem headDuty_cases (s : State) : s.headDuty = s ∨
    ∃ code arg f, s.headDuty = (s.headCommand code arg).modPkg f ∧ ∀ p, (f p).phases = p.phases := by
  unfold State.headDuty
  split_ifs
  · exact .inl rfl
  · exact .inr ⟨2, 0, _, rfl, fun _ => rfl⟩
  · exact .inl rfl
  · exact .inr ⟨3, 3, _, rfl, fun _ => rfl⟩
  · exact .inl rfl

/-- What the head's duty leaves, whatever it is. -/
structure HeadDone (s t : State) : Prop where
  taken : ∃ l, t.chain.taken = s.chain.taken ++ l
  outW : t.chain.outW = s.chain.outW
  phases : t.pkg.phases = s.pkg.phases
  regs : t.regs = s.regs

theorem headDone (s : State) : HeadDone s s.headDuty := by
  rcases headDuty_cases s with h | ⟨code, arg, f, h, hf⟩ <;> rw [h]
  · exact ⟨⟨[], (List.append_nil _).symm⟩, rfl, rfl, rfl⟩
  · have hchain : ((s.headCommand code arg).modPkg f).chain = _ := headCommand_chain s code arg
    have hpkg : (s.headCommand code arg).pkg = s.pkg :=
      State.headCommand_keeps s code arg (Keeps.refl s [.chain, .pins]) (by simp) (by simp) .pkg (by simp)
    exact
      { taken := ⟨_, by rw [hchain]⟩
        outW := by rw [hchain, sends_outW]
        phases := (hf _).trans (congrArg Package.phases hpkg)
        regs := headCommand_regs s code arg }

/-! ### RESULT (R395) -/

/-- A phase that a RESULT of STATUS reports is kept. -/
def State.heardPhase (s : State) (v : Word) : State := s.modPkg fun p => { p with phases := s.reported v }

theorem exec_result {s : State} (hruns : s.fwRuns .steward = true) : exec .result s = .next (resultWord s) :=
  congrArg Host.Outcome.next (State.onCore_true hruns)

section result

variable {s : State} {v : Word} (hold : Oldest s false 7 v)

include hold

theorem resultWord_status (hcode : cwArg v / 65536 = 1) : resultWord s =
    ((s.taking (s.others false 7)).heardPhase v).headDuty.captainDuty (cwInst v) := by
  unfold resultWord
  rw [takeKind_oldest hold]
  simp only [natBits_cwArg_code, natBits_cwArg_low, hcode]
  rfl

theorem resultWord_other (hcode : cwArg v / 65536 ≠ 1) : resultWord s =
    (s.taking (s.others false 7)).headDuty := by
  unfold resultWord
  rw [takeKind_oldest hold]
  simp only [natBits_cwArg_code]
  exact if_neg hcode

end result

theorem resultWord_keeps_all (s : State) : Keeps s (resultWord s) [.pkg, .chain, .pins, .ring] :=
  resultWord_keeps s (Keeps.refl _ _) (by simp) (by simp) (by simp) (by simp)

theorem gives_result (s : State) (v : Word) (h : s.fwRuns .steward = true ∧ Oldest s false 7 v) :
    Gives .result s fun t =>
      t.pkg.phases = (if cwArg v / 65536 = 1 then s.reported v else s.pkg.phases) ∧
        (t.chain.taken.take (s.others false 7).length = s.others false 7) ∧ t.chain.outW = s.chain.outW ∧
        Keeps s t [.pkg, .chain, .pins, .ring] ∧ KeepsRegs s t [] := by
  obtain ⟨hruns, hold⟩ := h
  refine ⟨_, exec_result hruns, ?_⟩
  have hkeeps := resultWord_keeps_all s
  by_cases hcode : cwArg v / 65536 = 1
  · rw [resultWord_status hold hcode] at hkeeps ⊢
    obtain ⟨⟨l, htaken⟩, houtW, hphases, hregs⟩ := headDone ((s.taking (s.others false 7)).heardPhase v)
    obtain ⟨htaken', houtW', hregs'⟩ :=
      captainDuty_sentOnly ((s.taking (s.others false 7)).heardPhase v).headDuty (cwInst v)
    have hpkg : (((s.taking (s.others false 7)).heardPhase v).headDuty.captainDuty (cwInst v)).pkg = _ :=
      State.captainDuty_keeps _ (cwInst v) (Keeps.refl _ [.pins, .ring, .chain]) (by simp) (by simp) (by simp) .pkg
        (by simp)
    refine ⟨?_, ?_, houtW'.trans houtW, hkeeps, (KeepsRegs.refl s []).of_regs (hregs'.trans hregs)⟩
    · rw [if_pos hcode, hpkg, hphases]
      rfl
    · rw [htaken', htaken]
      exact List.take_left
  · rw [resultWord_other hold hcode] at hkeeps ⊢
    obtain ⟨⟨l, htaken⟩, houtW, hphases, hregs⟩ := headDone (s.taking (s.others false 7))
    refine ⟨?_, ?_, houtW, hkeeps, (KeepsRegs.refl s []).of_regs hregs⟩
    · rw [if_neg hcode, hphases, taking_pkg]
    · rw [htaken]
      exact List.take_left

theorem heardPhase_noDuty {s : State} {v : Word} {i : Nat} (h : NoDuty s i) (l : List (Bool × Word)) :
    NoDuty ((s.taking l).heardPhase v) i := NoDuty.congr (taking_regs s l) h rfl rfl

theorem gives_result_beforeGo (s : State) (v : Word)
    (h : s.fwRuns .steward = true ∧ Oldest s false 7 v ∧ NoDuty s (cwInst v)) (hcode : cwArg v / 65536 = 1)
    (hgo : s.pkg.goAt = none) : Gives .result s fun t =>
      t.pkg = { s.pkg with phases := s.reported v } ∧ t.chain = { s.chain with taken := s.others false 7 } ∧
        Keeps s t [.pkg, .chain] ∧ KeepsRegs s t [] := by
  obtain ⟨hruns, hold, hduty⟩ := h
  refine ⟨_, exec_result hruns, ?_⟩
  have hkeeps : Keeps s ((s.taking (s.others false 7)).heardPhase v) [.pkg, .chain] :=
    Keeps.set_pkg (Keeps.set_chain (Keeps.refl s _) (by simp) _) (by simp) _
  have hquiet : ((s.taking (s.others false 7)).heardPhase v).headDuty = (s.taking (s.others false 7)).heardPhase v :=
    headDuty_idle (.inr (.inl hgo))
  rw [resultWord_status hold hcode, hquiet, captainDuty_idle (heardPhase_noDuty hduty _)]
  exact ⟨rfl, rfl, hkeeps, (taking_keepsRegs s (s.others false 7) []).of_regs rfl⟩

/-- An instance whose phase stands in the list has reported. -/
theorem phaseOf_isSome {s : State} {i : Nat} (h : ∃ e ∈ s.pkg.phases, e.1 = i) : (s.phaseOf i).isSome := by
  obtain ⟨e, he, hi⟩ := h
  rw [State.phaseOf, Option.isSome_map, List.find?_isSome]
  exact ⟨e, he, by simp [hi]⟩

/-- The reports with one more hold what they held and the new one. -/
theorem mem_reported {s : State} {v : Word} {i : Nat} (h : i = cwInst v ∨ ∃ e ∈ s.pkg.phases, e.1 = i) :
    ∃ e ∈ s.reported v, e.1 = i := by
  by_cases hi : i = cwInst v
  · exact ⟨(cwInst v, cwArg v % 65536), by simp, hi.symm⟩
  · obtain ⟨e, he, rfl⟩ := h.resolve_left hi
    exact ⟨e, List.mem_append_left _ (List.mem_filter.mpr ⟨he, by simp [hi]⟩), rfl⟩

theorem gives_result_trains (s : State) (v : Word)
    (h : s.fwRuns .steward = true ∧ Oldest s false 7 v ∧ NoDuty s (cwInst v)) (hcode : cwArg v / 65536 = 1)
    (hready : s.straps.chainHead = true ∧ s.pkg.goAt ≠ none ∧ s.pkg.trainSent = false ∧ s.numbered = true)
    (hall : ∀ i, i < s.count → i = cwInst v ∨ ∃ e ∈ s.pkg.phases, e.1 = i) : Gives .result s fun t =>
      SentDown s { t with chain := { t.chain with taken := s.others false 7 } }
        { s.chain with taken := s.others false 7 } [chainWord 6 true 0 (2 * 65536)] ∧
        t.chain.taken = s.others false 7 ++ [(true, chainWord 6 true 0 (2 * 65536))] ∧ t.pkg.trainSent = true ∧
        t.pkg.commanded = t.pkg.phases.map (·.1) ∧ t.pkg.phases = s.reported v ∧ Keeps s t [.pkg, .chain, .pins] ∧
        KeepsRegs s t [] := by
  obtain ⟨hruns, hold, hduty⟩ := h
  obtain ⟨hhead, hgo, hunsent, hnum⟩ := hready
  refine ⟨_, exec_result hruns, ?_⟩
  have hsends : ((s.taking (s.others false 7)).heardPhase v).headDuty =
      ((s.taking (s.others false 7)).heardPhase v).sendTrainStack :=
    headDuty_trains hhead hgo hnum hunsent fun i hi => phaseOf_isSome (mem_reported (hall i hi))
  have hstart : Keeps s ((s.taking (s.others false 7)).heardPhase v) [.pkg, .chain, .pins] :=
    Keeps.set_pkg (Keeps.set_chain (Keeps.refl s _) (by simp) _) (by simp) _
  have hkeeps : Keeps s ((s.taking (s.others false 7)).heardPhase v).sendTrainStack [.pkg, .chain, .pins] :=
    State.sendTrainStack_keeps _ hstart (by simp) (by simp) (by simp)
  have hregs : ((s.taking (s.others false 7)).heardPhase v).sendTrainStack.regs = s.regs :=
    headCommand_regs ((s.taking (s.others false 7)).heardPhase v) 2 0
  have hpkg : (((s.taking (s.others false 7)).heardPhase v).headCommand 2 0).pkg =
      ((s.taking (s.others false 7)).heardPhase v).pkg :=
    State.headCommand_keeps _ 2 0 (Keeps.refl _ [.chain, .pins]) (by simp) (by simp) .pkg (by simp)
  have hsent : ((s.taking (s.others false 7)).heardPhase v).sendTrainStack.pkg =
      { ((s.taking (s.others false 7)).heardPhase v).pkg with
        trainSent := true,
        commanded := ((s.taking (s.others false 7)).heardPhase v).pkg.phases.map (·.1) } := by
    rw [← hpkg]
    rfl
  have hchain : ((s.taking (s.others false 7)).heardPhase v).sendTrainStack.chain = _ :=
    headCommand_chain ((s.taking (s.others false 7)).heardPhase v) 2 0
  have hpins : ((s.taking (s.others false 7)).heardPhase v).sendTrainStack.pins = _ :=
    headCommand_pins ((s.taking (s.others false 7)).heardPhase v) 2 0
  have hidle : NoDuty ((s.taking (s.others false 7)).heardPhase v).sendTrainStack (cwInst v) :=
    NoDuty.congr hregs hduty (hkeeps .ring (by simp)) (by rw [hsent]; rfl)
  rw [resultWord_status hold hcode, hsends, captainDuty_idle hidle]
  refine ⟨⟨?_, hpins⟩, by rw [hchain]; rfl, by rw [hsent], by rw [hsent], by rw [hsent]; rfl, hkeeps,
    (KeepsRegs.refl s []).of_regs hregs⟩
  have htaken := sends_taken { s.chain with taken := s.others false 7 } s.pins.chainERdy [headWord 2 0]
  rw [hchain]
  exact congrArg (fun l => ({ Chain.sends { s.chain with taken := s.others false 7 } s.pins.chainERdy [headWord 2 0]
    with taken := l } : Chain)) htaken.symm

/-! ### Ports in training (R44, R396) -/

theorem port_modD2d (s : State) (e : Bool) (f : D2dPort → D2dPort) (x : Bool) :
    (s.modD2d e f).port x = if x = e then f (s.port e) else s.port x := by
  cases e <;> cases x <;> rfl

/-- A port is free to train. -/
def State.canTrain (s : State) (e : Bool) : Bool := s.strapped e && s.live (.d2d e) && !s.portUp e

/-- A port as its training begins. -/
def D2dPort.begun (p : D2dPort) (time : Nat) : D2dPort := { p with trainFrom := some time, refused := false }

theorem canTrain_iff (s : State) (e : Bool) :
    s.canTrain e = true ↔ s.strapped e = true ∧ s.live (.d2d e) = true ∧ s.portUp e = false := by
  simp [State.canTrain, and_assoc]

theorem trainPort_eq (s : State) (e : Bool) :
    s.trainPort e = if s.canTrain e then s.modD2d e fun p => p.begun s.clk.pkg else s := by
  unfold State.trainPort
  exact if_congr (by simp [State.canTrain, and_assoc]) rfl rfl

theorem trainPort_port (s : State) (e x : Bool) :
    (s.trainPort e).port x = if x = e ∧ s.canTrain e = true then (s.port x).begun s.clk.pkg else s.port x := by
  rw [trainPort_eq]
  by_cases hc : s.canTrain e = true
  · rw [if_pos hc, port_modD2d]
    by_cases hx : x = e
    · subst hx
      rw [if_pos rfl, if_pos ⟨rfl, hc⟩]
    · rw [if_neg hx, if_neg fun h => hx h.1]
  · rw [if_neg hc, if_neg fun h => hc h.2]

theorem trainPort_regs (s : State) (e : Bool) : (s.trainPort e).regs = s.regs := by
  rw [trainPort_eq]
  split <;> rfl

theorem trainPort_keeps_ring (s : State) (e : Bool) : Keeps s (s.trainPort e) [.ring] :=
  State.trainPort_keeps s e (Keeps.refl _ _) (by simp)

/-- What makes a port free to train is no part of the ring. -/
theorem canTrain_congr {s t : State} (hstraps : t.straps = s.straps) (hpwr : t.pwr = s.pwr)
    (hdom : ∀ d, t.dom d = s.dom d) {e : Bool} (hup : t.portUp e = s.portUp e) : t.canTrain e = s.canTrain e := by
  rw [State.canTrain, State.canTrain, State.strapped, State.strapped, State.live, State.live, State.up, State.up,
    hstraps, hpwr, hdom, hup]

theorem trainPort_canTrain (s : State) (e x : Bool) : (s.trainPort e).canTrain x = s.canTrain x :=
  canTrain_congr (trainPort_keeps_ring s e .straps (by simp)) (trainPort_keeps_ring s e .pwr (by simp))
    (State.dom_congr (trainPort_regs s e)) (portUp_congr (trainPort_regs s e) x)

/-! ### The ports that a command names (R400) -/

/-- The named ports begin to train. -/
def State.trainNamed (s : State) (arg : Nat) : State := (namedPorts arg).foldl (fun t e => t.trainPort e) s

theorem trainNamed_eq (s : State) (arg : Nat) : s.trainNamed arg =
    let t := if arg.testBit 0 then s.trainPort false else s
    if arg.testBit 1 then t.trainPort true else t := by
  unfold State.trainNamed namedPorts
  cases arg.testBit 0 <;> cases arg.testBit 1 <;> rfl

theorem trainNamed_port (s : State) (arg : Nat) (e : Bool) : (s.trainNamed arg).port e =
    if arg.testBit (portNo e) = true ∧ s.canTrain e = true then (s.port e).begun s.clk.pkg else s.port e := by
  have hclk : (s.trainPort false).clk = s.clk := trainPort_keeps_ring s false .clk (by simp)
  rw [trainNamed_eq]
  dsimp only
  cases e <;> cases h0 : arg.testBit 0 <;> cases h1 : arg.testBit 1 <;>
    simp [portNo, h0, h1, trainPort_port, trainPort_canTrain, hclk]

theorem trainNamed_keeps (s : State) (arg : Nat) : Keeps s (s.trainNamed arg) [.ring] :=
  foldl_keeps' (fun t e ht => State.trainPort_keeps t e ht (by simp)) _ (Keeps.refl _ _)

theorem trainNamed_regs (s : State) (arg : Nat) : (s.trainNamed arg).regs = s.regs :=
  List.foldlRecOn (motive := fun t : State => t.regs = s.regs) _ _ rfl fun t ht e _ => (trainPort_regs t e).trans ht

/-! ### The answer of a training (R400) -/

/-- A port that the command in hand names is in training. -/
def State.d2dBusy (s : State) (ports : Nat) : Prop :=
  ∃ e : Bool, ports.testBit (portNo e) = true ∧ (s.port e).trainFrom.isSome = true

theorem answerD2d_busy {s : State} {code ports time : Nat} (hcmd : s.pkg.d2dCmd = some (code, ports, time))
    (hbusy : s.d2dBusy ports) : s.answerD2d = s := by
  unfold State.answerD2d
  rw [hcmd]
  obtain ⟨e, hnamed, hfrom⟩ := hbusy
  refine if_pos (Bool.or_eq_true_iff.mpr ?_)
  cases e
  · exact .inl (by simpa [hfrom] using hnamed)
  · exact .inr (by simpa [hfrom] using hnamed)

/-- An answer goes out, or it is too early for it. -/
theorem answerD2d_cases (s : State) : s.answerD2d = s ∨ ∃ w f, s.answerD2d = (s.chainUp w).modPkg f := by
  unfold State.answerD2d
  split
  · dsimp only
    split
    · exact .inl rfl
    · exact .inr ⟨_, _, rfl⟩
  · exact .inl rfl

/-- What the answer, whether it goes out or not, leaves as it was. -/
structure AnswerDone (s t : State) : Prop where
  ring : t.ring = s.ring
  taken : t.chain.taken = s.chain.taken
  outE : t.chain.outE = s.chain.outE
  regs : t.regs = s.regs

theorem answerDone (s : State) : AnswerDone s s.answerD2d := by
  rcases answerD2d_cases s with h | ⟨w, f, h⟩ <;> rw [h]
  · exact ⟨rfl, rfl, rfl, rfl⟩
  · have hchain : ((s.chainUp w).modPkg f).chain = _ := chainUp_chain s w
    exact ⟨chainUp_keeps s w .ring (by simp), by rw [hchain], by rw [hchain], chainUp_regs s w⟩

theorem port_congr {s t : State} (h : t.ring = s.ring) (e : Bool) : t.port e = s.port e := by
  rw [State.port, State.port, h]

/-! ### TRAIN_D2D (R395, R396, R400) -/

/-- A command for the ports is in hand. -/
def State.d2dOrdered (s : State) (code : Nat) (v : Word) : State :=
  (s.taking (s.noCommand code)).modPkg fun p => { p with d2dCmd := some (code, cwArg v % 65536 % 4, s.clk.pkg) }

theorem d2dOrdered_keeps (s : State) (code : Nat) (v : Word) : Keeps s (s.d2dOrdered code v) [.ring, .pkg, .chain] :=
  Keeps.set_pkg (Keeps.set_chain (Keeps.refl s _) (by simp) _) (by simp) _

theorem testBit_cwArg (v : Word) (e : Bool) : (cwArg v % 65536).testBit (portNo e) = (cwArg v).testBit (portNo e) :=
  testBit_mod_two_pow_of_lt (n := 16) (cwArg v) (by cases e <;> decide)

theorem testBit_cwArg_named (v : Word) (e : Bool) :
    (cwArg v % 65536 % 4).testBit (portNo e) = (cwArg v).testBit (portNo e) :=
  (testBit_mod_two_pow_of_lt (n := 2) (cwArg v % 65536) (by cases e <;> decide)).trans (testBit_cwArg v e)

theorem exec_trainD2d {s : State} {v : Word} (h : Command s v 3) : exec .trainD2d s = .next (trainD2d s) :=
  congrArg Host.Outcome.next (State.onCore_true h.1)

theorem trainD2d_obeyed {s : State} {v : Word} (h : Command s v 3) (hobeys : ObeysTraining s) :
    trainD2d s = ((s.d2dOrdered 3 v).trainNamed (cwArg v % 65536)).answerD2d := by
  obtain ⟨hgo, hin⟩ := hobeys
  unfold trainD2d
  rw [takeCmd_command h]
  refine if_neg ?_
  have hgo' : (s.taking (s.noCommand 3)).pkg.goAt.isNone = false := by simp [taking_pkg, Option.isSome_iff_ne_none, hgo]
  have hleft : (s.taking (s.noCommand 3)).bit Reg.FW_BOOT_STATUS Fld.FW_BOOT_STATUS_LEFT_OUT =
      s.bit Reg.FW_BOOT_STATUS Fld.FW_BOOT_STATUS_LEFT_OUT := rfl
  have hage : (s.taking (s.noCommand 3)).age = s.age := rfl
  rw [hgo', hleft, hage]
  rcases hin with hin | hin <;> simp [hin]

theorem trainD2d_ignored {s : State} {v : Word} (h : Command s v 3) (hobeys : ¬ObeysTraining s) :
    trainD2d s = s.taking (s.noCommand 3) := by
  unfold trainD2d
  rw [takeCmd_command h]
  refine if_pos ?_
  have hleft : (s.taking (s.noCommand 3)).bit Reg.FW_BOOT_STATUS Fld.FW_BOOT_STATUS_LEFT_OUT =
      s.bit Reg.FW_BOOT_STATUS Fld.FW_BOOT_STATUS_LEFT_OUT := rfl
  have hage : (s.taking (s.noCommand 3)).age = s.age := rfl
  rw [taking_pkg, hleft, hage]
  by_cases hgo : s.pkg.goAt = none
  · exact .inl (by simp [hgo])
  · refine .inr ⟨?_, ?_⟩
    · by_contra hl
      exact hobeys ⟨hgo, .inl (by simpa using hl)⟩
    · by_contra hl
      exact hobeys ⟨hgo, .inr (by simpa using hl)⟩

theorem d2dOrdered_canTrain (s : State) (code : Nat) (v : Word) (e : Bool) :
    (s.d2dOrdered code v).canTrain e = s.canTrain e := rfl

theorem d2dOrdered_port (s : State) (code : Nat) (v : Word) (e : Bool) :
    (s.d2dOrdered code v).port e = s.port e := rfl

/-- The ports after TRAIN_D2D. -/
theorem trainNamed_ordered_port (s : State) (v : Word) (e : Bool) :
    ((s.d2dOrdered 3 v).trainNamed (cwArg v % 65536)).port e =
      if Trains s v e ∧ s.portUp e = false then { s.port e with trainFrom := some s.clk.pkg, refused := false }
      else s.port e := by
  rw [trainNamed_port, d2dOrdered_canTrain, d2dOrdered_port, testBit_cwArg]
  refine if_congr ((and_congr_right fun _ => canTrain_iff s e).trans ?_) rfl rfl
  exact ⟨fun ⟨hn, hs, hl, hu⟩ => ⟨⟨hn, hs, hl⟩, hu⟩, fun ⟨⟨hn, hs, hl⟩, hu⟩ => ⟨hn, hs, hl, hu⟩⟩

theorem gives_trainD2d_ignored (s : State) (v : Word) (h : Command s v 3) (hobeys : ¬ObeysTraining s) :
    Gives .trainD2d s fun t =>
      t.chain = { s.chain with taken := s.noCommand 3 } ∧ Keeps s t [.chain] ∧ KeepsRegs s t [] := by
  refine ⟨_, exec_trainD2d h, ?_⟩
  rw [trainD2d_ignored h hobeys]
  exact ⟨rfl, taking_keeps s _, taking_keepsRegs s _ []⟩

theorem trainNamed_ordered_keeps (s : State) (v : Word) :
    Keeps s ((s.d2dOrdered 3 v).trainNamed (cwArg v % 65536)) [.ring, .pkg, .chain] := fun r hr =>
  foldl_keeps' (fun t e ht => State.trainPort_keeps t e ht (by simp)) _ (d2dOrdered_keeps s 3 v) r hr

theorem gives_trainD2d (s : State) (v : Word) (h : Command s v 3) (hobeys : ObeysTraining s) :
    Gives .trainD2d s fun t =>
      (∀ e : Bool, t.port e = if Trains s v e ∧ s.portUp e = false then
        { s.port e with trainFrom := some s.clk.pkg, refused := false } else s.port e) ∧
        t.chain.taken = s.noCommand 3 ∧ t.chain.outE = s.chain.outE ∧ Keeps s t [.ring, .pkg, .chain] ∧
        KeepsRegs s t [] := by
  refine ⟨_, exec_trainD2d h, ?_⟩
  obtain ⟨hring, htaken, houtE, hregs⟩ := answerDone ((s.d2dOrdered 3 v).trainNamed (cwArg v % 65536))
  have hchain : ((s.d2dOrdered 3 v).trainNamed (cwArg v % 65536)).chain = (s.d2dOrdered 3 v).chain :=
    trainNamed_keeps _ _ .chain (by simp)
  rw [trainD2d_obeyed h hobeys]
  refine ⟨fun e => (port_congr hring e).trans (trainNamed_ordered_port s v e), ?_, ?_,
    State.answerD2d_keeps _ (trainNamed_ordered_keeps s v) (by simp) (by simp), ?_⟩
  · rw [htaken, hchain]
    rfl
  · rw [houtE, hchain]
    rfl
  · exact (taking_keepsRegs s (s.noCommand 3) []).of_regs (hregs.trans (trainNamed_regs _ _))

/-- One of the two ports is named. -/
theorem exists_named (v : Word) (h : cwArg v % 4 ≠ 0) : ∃ e : Bool, (cwArg v).testBit (portNo e) = true := by
  by_contra hn
  have h0 := fun h' => hn ⟨false, h'⟩
  have h1 := fun h' => hn ⟨true, h'⟩
  simp only [portNo, Nat.testBit_eq_decide_div_mod_eq, decide_eq_true_eq] at h0 h1
  simp at h0 h1
  omega

theorem gives_trainD2d_both (s : State) (v : Word) (h : Command s v 3) (hobeys : ObeysTraining s)
    (hnamed : cwArg v % 4 ≠ 0)
    (hfree : ∀ e : Bool, s.strapped e = true ∧ s.live (.d2d e) = true ∧ s.portUp e = false) :
    Gives .trainD2d s fun t =>
      (∀ e : Bool, t.port e = if (cwArg v).testBit (portNo e) then
        { s.port e with trainFrom := some s.clk.pkg, refused := false } else s.port e) ∧
        t.pkg = { s.pkg with d2dCmd := some (3, cwArg v % 4, s.clk.pkg) } ∧
        t.chain = { s.chain with taken := s.noCommand 3 } ∧ Keeps s t [.ring, .pkg, .chain] ∧ KeepsRegs s t [] := by
  refine ⟨_, exec_trainD2d h, ?_⟩
  have hports (e : Bool) : ((s.d2dOrdered 3 v).trainNamed (cwArg v % 65536)).port e =
      if (cwArg v).testBit (portNo e) then { s.port e with trainFrom := some s.clk.pkg, refused := false }
      else s.port e := by
    rw [trainNamed_ordered_port]
    exact if_congr ⟨fun h => h.1.1, fun h => ⟨⟨h, (hfree e).1, (hfree e).2.1⟩, (hfree e).2.2⟩⟩ rfl rfl
  have hpkg : ((s.d2dOrdered 3 v).trainNamed (cwArg v % 65536)).pkg = (s.d2dOrdered 3 v).pkg :=
    trainNamed_keeps _ _ .pkg (by simp)
  have hchain : ((s.d2dOrdered 3 v).trainNamed (cwArg v % 65536)).chain = (s.d2dOrdered 3 v).chain :=
    trainNamed_keeps _ _ .chain (by simp)
  have hbusy : ((s.d2dOrdered 3 v).trainNamed (cwArg v % 65536)).d2dBusy (cwArg v % 65536 % 4) := by
    obtain ⟨e, he⟩ := exists_named v hnamed
    exact ⟨e, (testBit_cwArg_named v e).trans he, by rw [hports, if_pos he]; rfl⟩
  have hlow : cwArg v % 65536 % 4 = cwArg v % 4 := by omega
  rw [trainD2d_obeyed h hobeys, answerD2d_busy (by rw [hpkg]; rfl) hbusy]
  refine ⟨hports, ?_, hchain, trainNamed_ordered_keeps s v,
    (taking_keepsRegs s (s.noCommand 3) []).of_regs (trainNamed_regs _ _)⟩
  rw [hpkg, ← hlow]
  rfl

/-! ### What is done around a port while its link goes down (R377) -/

/-- The ports train as before, and no register has been written but those of tags and injectors. -/
structure Passed (s0 s : State) : Prop where
  regs : KeepsRegs s0 s pathRegs
  training : ∀ e, (s.port e).trainFrom = (s0.port e).trainFrom

section

variable {s0 s t : State}

theorem Passed.refl (s : State) : Passed s s := ⟨KeepsRegs.refl _ _, fun _ => rfl⟩

theorem Passed.trans {u : State} (h : Passed s0 t) (h' : Passed t u) : Passed s0 u :=
  ⟨h.regs.trans h'.regs, fun e => (h'.training e).trans (h.training e)⟩

theorem Passed.ite {c : Prop} [Decidable c] (hs : Passed s0 s) (ht : Passed s0 t) :
    Passed s0 (if c then s else t) := by
  split <;> assumption

theorem Passed.foldl {α : Type} {f : State → α → State} (l : List α) (hf : ∀ u a, Passed s0 u → Passed s0 (f u a))
    (h : Passed s0 s) : Passed s0 (l.foldl f s) :=
  List.foldlRecOn (motive := Passed s0) l f h fun u hu a _ => hf u a hu

theorem Passed.of_ring (h : Passed s0 s) (hregs : KeepsRegs s t pathRegs) (hring : t.ring = s.ring) : Passed s0 t :=
  ⟨h.regs.trans hregs, fun e => (congrArg D2dPort.trainFrom (port_congr hring e)).trans (h.training e)⟩

theorem Passed.modD2d (h : Passed s0 s) (east : Bool) {f : D2dPort → D2dPort}
    (hf : ∀ p, (f p).trainFrom = p.trainFrom := by exact fun _ => rfl) : Passed s0 (s.modD2d east f) :=
  h.trans ⟨(KeepsRegs.refl s _).of_regs rfl, fun e => by
    rw [port_modD2d]
    split
    next he => rw [hf, he]
    · rfl⟩

theorem Passed.modRing (h : Passed s0 s) {f : Ring → Ring} (hwest : ∀ g, (f g).west = g.west := by exact fun _ => rfl)
    (heast : ∀ g, (f g).east = g.east := by exact fun _ => rfl) : Passed s0 (s.modRing f) :=
  h.trans ⟨(KeepsRegs.refl s _).of_regs rfl, fun e => by
    cases e
    · exact congrArg D2dPort.trainFrom (hwest s.ring)
    · exact congrArg D2dPort.trainFrom (heast s.ring)⟩

theorem Passed.bumpSat (h : Passed s0 s) {o : Nat} (m : o ∈ pathRegs) (f : Fld) : Passed s0 (s.bumpSat o f) :=
  h.of_ring ((KeepsRegs.refl s _).bumpSat m f) rfl

theorem Passed.sf (h : Passed s0 s) {o : Nat} (m : o ∈ pathRegs) (f : Fld) (v : Nat) : Passed s0 (s.sf o f v) :=
  h.of_ring ((KeepsRegs.refl s _).sf m f v) rfl

theorem Passed.countIn (h : Passed s0 s) {u : Fin 4} (m : counterRegs u ⊆ pathRegs) (e src qty : Nat) :
    Passed s0 (s.countIn u e src qty) :=
  h.of_ring ((KeepsRegs.refl s _).countIn m e src qty) (State.countIn_keeps s u e src qty (Keeps.refl s []) .ring
    (by simp))

/-! #### Traffic of the ring (R375, R465, R467) -/

theorem Passed.startRetrain (h : Passed s0 s) (east : Bool) (m : Fin 2) : Passed s0 (s.startRetrain east m) :=
  ((h.modD2d east).bumpSat (injRegs_subset_pathRegs (laneStatus_mem_injRegs east)) _).ite h

theorem Passed.crcError (h : Passed s0 s) (east : Bool) (m : Fin 2) : Passed s0 (s.crcError east m) :=
  ((h.modD2d east).startRetrain east m).ite (h.modD2d east)

theorem Passed.injectedFault (h : Passed s0 s) (east : Bool) : Passed s0 (s.injectedFault east) := by
  have mc : counterRegs 3 ⊆ pathRegs := List.Subset.trans counterRegs_subset_injRegs injRegs_subset_pathRegs
  have hcount := (h.countIn (u := 3) mc 0x042 (8 + portNo east) 1).countIn (u := 3) mc 0x050 (8 + portNo east) 1
  exact (hcount.crcError east _).ite hcount

theorem Passed.injectFlit (h : Passed s0 s) (east : Bool) : Passed s0 (s.injectFlit east) := by
  have mi := injRegs_subset_pathRegs (d2dInj_mem_injRegs east)
  have hdrawn (x : Nat) : Passed s0 { s with inj := s.inj.set (Fin.ofNat 11 (1 + portNo east)) x } :=
    h.of_ring ((KeepsRegs.refl s _).of_regs rfl) rfl
  have hfault (x : Nat) := ((hdrawn x).bumpSat mi Fld.D2D_INJ_INJECTED).injectedFault east
  exact Passed.ite (Passed.ite (Passed.ite ((hfault _).sf mi _ _) (hfault _)) (hdrawn _)) h

theorem Passed.returnCredit (h : Passed s0 s) (came : Option (Bool × Nat)) (flits : Nat) :
    Passed s0 (s.returnCredit came flits) := by
  cases came with
  | none => exact h
  | some c =>
    unfold State.returnCredit
    exact h.modD2d _

theorem Passed.pumpPort (h : Passed s0 s) (east : Bool) : Passed s0 (s.pumpPort east) :=
  Passed.foldl _ (fun _ f hu => (Passed.foldl _ (fun _ _ hv => hv.injectFlit east) hu).returnCredit f.came _)
    (h.modD2d east)

theorem Passed.onPort (h : Passed s0 s) (east : Bool) (f : Flit) : Passed s0 (s.onPort east f) :=
  (h.modD2d east).pumpPort east

theorem Passed.sendCtl (h : Passed s0 s) (dst : Nat) (c : Ctl) : Passed s0 (s.sendCtl dst c) := by
  unfold State.sendCtl
  split
  · exact h.onPort _ _
  · exact h

theorem Passed.broadcast (h : Passed s0 s) (c : Ctl) : Passed s0 (s.broadcast c) :=
  Passed.foldl _ (fun _ _ hu => hu.ite (hu.sendCtl _ c)) h

/-! #### Requests that end (R54, R377) -/

theorem Passed.stamp (h : Passed s0 s) (id stage time : Nat) : Passed s0 (s.stamp id stage time) :=
  h.of_ring ((KeepsRegs.refl s _).stamp id stage time) rfl

theorem Passed.endTag (h : Passed s0 s) (id time : Nat) (st : Status) : Passed s0 (s.endTag id time st) :=
  h.of_ring ((KeepsRegs.refl s _).endTag tagRegs_subset_pathRegs id time st)
    (State.endTag_keeps s id time st (Keeps.refl s [.tags]) (by simp) .ring (by simp))

theorem Passed.complete (h : Passed s0 s) (r : Req) (st : Status) (data : List Byte) :
    Passed s0 (s.complete r st data) := by
  have hst := h.stamp r.id 8 (s.now (.slice (s.sliceOf r.addr)))
  have hdropped {u : State} (hu : Passed s0 u) : Passed s0 (u.modRing fun g => { g with dropped := g.dropped + 1 }) :=
    hu.modRing
  unfold State.complete
  dsimp only
  split
  · exact hst.of_ring ((KeepsRegs.refl _ _).of_regs rfl) rfl
  · split
    · exact hst
    · split
      · exact Passed.onPort (hst.modRing) _ _
      · exact hdropped (hst.modRing)
  · have hend (time : Nat) := hst.endTag r.id time st
    have hpaths {u : State} (hu : Passed s0 u) (f : Paths → Paths) : Passed s0 (u.modPaths f) :=
      hu.of_ring ((KeepsRegs.refl _ _).of_regs rfl) rfl
    exact (hst.ite (hend _)).ite (hpaths (hst.ite (hend _)) _)

/-! #### Dropping and rerouting (R376, R377) -/

theorem Passed.drop (h : Passed s0 s) : Passed s0 (s.modRing fun g => { g with dropped := g.dropped + 1 }) :=
  h.modRing

theorem Passed.refuseRing (h : Passed s0 s) (f : Flit) (st : Status) : Passed s0 (s.refuseRing f st) := by
  unfold State.refuseRing
  split
  · split
    · exact h.onPort _ _
    · exact h.drop
  · exact h.drop

theorem Passed.reroute (h : Passed s0 s) (f : Flit) : Passed s0 (s.reroute f) := by
  unfold State.reroute
  dsimp only
  split
  · exact h.onPort _ _
  · exact (h.refuseRing f .absent).returnCredit _ _

theorem Passed.sendAgain (h : Passed s0 s) (f : Flit) : Passed s0 (s.sendAgain f) := by
  unfold State.sendAgain
  split
  · split
    · exact h.reroute f
    · split
      · exact (h.modD2d _).onPort _ f
      · exact h.complete _ _ _
  · exact h.reroute f

theorem Passed.modRmt (h : Passed s0 s) (f : Rmt → Rmt) : Passed s0 (s.modRmt f) :=
  h.of_ring ((KeepsRegs.refl _ _).of_regs rfl) rfl

theorem Passed.tick (h : Passed s0 s) : Passed s0 s.tick := h.of_ring ((KeepsRegs.refl _ _).of_regs rfl) rfl

theorem Passed.freeRx (h : Passed s0 s) (x : RxFrame) : Passed s0 (s.freeRx x) := by
  unfold State.freeRx
  split
  · exact h
  · exact h.modRmt _

theorem Passed.ringFrame (h : Passed s0 s) (x : RxFrame) (dst : Nat × Option Nat) : Passed s0 (s.ringFrame x dst) :=
  (h.drop.freeRx _).ite ((h.tick.modRmt _).ite ((h.tick.onPort _ _).freeRx _))

theorem Passed.pumpRing (h : Passed s0 s) : Passed s0 s.pumpRing :=
  Passed.foldl _ (fun _ e hu => hu.ringFrame e.1 e.2) (h.modRmt _)

end

/-! ### A port's link goes down (R377) -/

/-- A port whose link is down. -/
def D2dPort.lost (q : D2dPort) : D2dPort :=
  { q with trained := false, trainFrom := none, credits := Vector.replicate 3 0, waiting := [], outstanding := [],
           transit := [], mods := q.mods.map fun (m : D2dModule) => { m with retrainFrom := none } }

/-- The link is down and the ring's shape is known; what went through the port has not been seen to. -/
def State.linkLost (s : State) (east : Bool) : State :=
  ((s.sf Reg.D2D_RING_STATUS (upFld east) 0).modD2d east D2dPort.lost).setLink (s.linkNo east) false

/-- What went through a lost port is seen to. -/
def State.lossServed (s : State) (p : D2dPort) (unsent : List Req) : State :=
  let t := (p.outstanding.filter fun r => !unsent.contains r).foldl (fun t r => t.complete r .absent []) s
  let t := p.transit.foldl (fun t f => t.refuseRing f .absent) t
  p.waiting.foldl State.sendAgain t

theorem linkDown_eq (s : State) (east : Bool) : s.linkDown east =
    ((s.linkLost east).lossServed (s.port east)
      ((s.port east).waiting.filterMap (Flit.ownRequest s.self))).pumpRing.broadcast (.link (s.linkNo east) false) :=
  rfl

theorem Passed.lossServed {s0 s : State} (h : Passed s0 s) (p : D2dPort) (unsent : List Req) :
    Passed s0 (s.lossServed p unsent) :=
  Passed.foldl _ (fun _ f hu => hu.sendAgain f) (Passed.foldl _ (fun _ f hu => hu.refuseRing f _)
    (Passed.foldl _ (fun _ r hu => hu.complete r _ _) h))

theorem linkDown_passed (s : State) (east : Bool) : Passed (s.linkLost east) (s.linkDown east) := by
  rw [linkDown_eq]
  exact (((Passed.refl _).lossServed _ _).pumpRing).broadcast _

/-- The fields of D2D_RING_STATUS that the loss of a port's link writes. -/
def lossFields (east : Bool) : List Fld := [upFld east, Fld.D2D_RING_STATUS_CLOSED]

theorem upFld_in (e : Bool) : (upFld e).lo + (upFld e).width ≤ 32 := by cases e <;> decide

theorem portUp_eq (s : State) (e : Bool) : s.portUp e = s.bit Reg.D2D_RING_STATUS (upFld e) := by cases e <;> rfl

/-- The ring with a link noted, and whether it is closed. -/
def State.linkNoted (s : State) (i : Nat) (up : Bool) : State :=
  (s.modRing fun g => { g with links := (if up then [i] else []) ++ g.links.filter (· ≠ i) }).shapeRing

theorem setLink_cases (s : State) (i : Nat) (up : Bool) : s.setLink i up = s.linkNoted i up ∨
    s.setLink i up = (s.linkNoted i up).modPkg fun p => { p with cutOff := true } := ite_eq_or_eq _ _ _

theorem shapeRing_ring (s : State) : s.shapeRing.ring = s.ring :=
  State.shapeRing_keeps s (Keeps.refl s []) .ring (by simp)

theorem linkNoted_ring (s : State) (i : Nat) (up : Bool) : (s.linkNoted i up).ring =
    { s.ring with links := (if up then [i] else []) ++ s.ring.links.filter (· ≠ i) } := shapeRing_ring _

theorem setLink_ring (s : State) (i : Nat) (up : Bool) : (s.setLink i up).ring =
    { s.ring with links := (if up then [i] else []) ++ s.ring.links.filter (· ≠ i) } := by
  rcases setLink_cases s i up with h | h
  · exact (congrArg State.ring h).trans (linkNoted_ring s i up)
  · exact (congrArg State.ring h).trans (linkNoted_ring s i up)

theorem setLink_port (s : State) (i : Nat) (up e : Bool) : (s.setLink i up).port e = s.port e := by
  unfold State.port
  rw [setLink_ring]

theorem linkNoted_regs (s : State) (i : Nat) (up : Bool) : ∃ v, (s.linkNoted i up).regs =
    (s.sf Reg.D2D_RING_STATUS Fld.D2D_RING_STATUS_CLOSED v).regs := by
  unfold State.linkNoted State.shapeRing
  exact ⟨_, rfl⟩

theorem setLink_regs (s : State) (i : Nat) (up : Bool) : (s.setLink i up).regs = (s.linkNoted i up).regs := by
  rcases setLink_cases s i up with h | h
  · rw [h]
  · rw [h]
    rfl

section

variable (s : State) (east : Bool)

theorem linkLost_regs : ∃ v, (s.linkLost east).regs =
    ((s.sf Reg.D2D_RING_STATUS (upFld east) 0).sf Reg.D2D_RING_STATUS Fld.D2D_RING_STATUS_CLOSED v).regs := by
  obtain ⟨v, hv⟩ := linkNoted_regs ((s.sf Reg.D2D_RING_STATUS (upFld east) 0).modD2d east D2dPort.lost)
    (s.linkNo east) false
  exact ⟨v, (setLink_regs _ _ _).trans hv⟩

theorem linkLost_keepsRegs : KeepsRegs s (s.linkLost east) [Reg.D2D_RING_STATUS] := by
  obtain ⟨v, hv⟩ := linkLost_regs s east
  exact (((KeepsRegs.refl s _).sf (by simp) _ _).sf (by simp) _ _).of_regs hv

theorem linkLost_portUp (e : Bool) : (s.linkLost east).portUp e = if e = east then false else s.portUp e := by
  obtain ⟨v, hv⟩ := linkLost_regs s east
  have hclosed : (s.linkLost east).portUp e = (s.sf Reg.D2D_RING_STATUS (upFld east) 0).portUp e := by
    rw [portUp_congr hv, portUp_eq, portUp_eq]
    exact State.bit_sf_apart _ _ _ _ _ (by decide) (by cases e <;> decide)
  rw [hclosed, portUp_eq, portUp_eq]
  by_cases he : e = east
  · subst he
    rw [if_pos rfl]
    simp [State.bit, State.gf_sf_same s _ _ _ (upFld_in e)]
  · rw [if_neg he]
    exact State.bit_sf_apart _ _ _ _ _ (upFld_in east) (by revert he; cases e <;> cases east <;> decide)

theorem linkLost_port (e : Bool) : (s.linkLost east).port e = if e = east then (s.port e).lost else s.port e := by
  rw [State.linkLost, setLink_port, port_modD2d]
  by_cases he : e = east
  · subst he
    rw [if_pos rfl, if_pos rfl]
    rfl
  · rw [if_neg he, if_neg he]
    rfl

theorem ringStatus_notMem_pathRegs : Reg.D2D_RING_STATUS ∉ pathRegs := by decide +kernel

theorem linkDown_keepsRegs : KeepsRegs s (s.linkDown east) (Reg.D2D_RING_STATUS :: pathRegs) :=
  ((linkLost_keepsRegs s east).mono (by simp)).trans ((linkDown_passed s east).regs.mono (List.subset_cons_self _ _))

theorem linkDown_portUp (e : Bool) : (s.linkDown east).portUp e = if e = east then false else s.portUp e := by
  rw [← linkLost_portUp, portUp_eq, portUp_eq]
  exact State.bit_congr ((linkDown_passed s east).regs _ ringStatus_notMem_pathRegs) _

theorem linkDown_trainFrom (e : Bool) : ((s.linkDown east).port e).trainFrom =
    if e = east then none else (s.port e).trainFrom := by
  rw [(linkDown_passed s east).training, linkLost_port]
  split <;> rfl

end

/-! ### RETRAIN_D2D (R400) -/

/-- A port trains after it has been taken down. -/
def State.retrainPort (s : State) (e : Bool) : State := (if s.portUp e then s.linkDown e else s).trainPort e

/-- The regions that the loss of a link may change. -/
abbrev lossRegions : List Region := [.ring, .pkg, .paths, .tags, .inj, .free, .rmt]

/-- The ports of the list are down and train; the others are as they were. -/
structure Retrained (s t : State) (l : List Bool) : Prop where
  regs : KeepsRegs s t (Reg.D2D_RING_STATUS :: pathRegs)
  keeps : Keeps s t lossRegions
  down : ∀ e ∈ l, t.portUp e = false
  same : ∀ e, e ∉ l → t.portUp e = s.portUp e ∧ (t.port e).trainFrom = (s.port e).trainFrom
  begun : ∀ e ∈ l, s.strapped e = true → s.live (.d2d e) = true → (t.port e).trainFrom = some s.clk.pkg

theorem domState_notMem : Reg.THERM_DOM_STATE 7 ∉ Reg.D2D_RING_STATUS :: pathRegs := by decide +kernel

section

variable {s t : State} {l : List Bool}

theorem Keeps.trans {u : State} {ps : List Region} (h : Keeps s t ps) (h' : Keeps t u ps) : Keeps s u ps :=
  fun r hr => by
    have hs := h r hr
    have ht := h' r hr
    cases r <;> exact Eq.trans ht hs

theorem strapped_congr (h : t.straps = s.straps) (e : Bool) : t.strapped e = s.strapped e := by
  rw [State.strapped, State.strapped, h]

theorem live_d2d_congr (hpwr : t.pwr = s.pwr) (hregs : KeepsRegs s t (Reg.D2D_RING_STATUS :: pathRegs)) (e : Bool) :
    t.live (.d2d e) = s.live (.d2d e) := by
  have hdom : t.dom (Island.d2d e).domain = s.dom (Island.d2d e).domain := by
    have hword : (Island.d2d e).domain / 16 = 7 := by cases e <;> rfl
    rw [State.dom, State.dom, hword, hregs _ domState_notMem]
  rw [State.live, State.live, State.up, State.up, hpwr, hdom]

theorem Retrained.nil (s : State) : Retrained s s [] :=
  ⟨KeepsRegs.refl _ _, Keeps.refl _ _, by simp, fun _ _ => ⟨rfl, rfl⟩, by simp⟩

theorem Retrained.cons {u : State} {e : Bool} (h : Retrained s t [e]) (h' : Retrained t u l) :
    Retrained s u (e :: l) where
  regs := h.regs.trans h'.regs
  keeps := h.keeps.trans h'.keeps
  down x hx := by
    by_cases hl : x ∈ l
    · exact h'.down x hl
    · exact (h'.same x hl).1.trans (h.down x (by simpa [hl] using hx))
  same x hx := by
    obtain ⟨hne, hl⟩ := not_or.mp (List.mem_cons.not.mp hx)
    obtain ⟨hup, hfrom⟩ := h.same x (by simpa using hne)
    obtain ⟨hup', hfrom'⟩ := h'.same x hl
    exact ⟨hup'.trans hup, hfrom'.trans hfrom⟩
  begun x hx hs hlive := by
    by_cases hl : x ∈ l
    · rw [h'.begun x hl ((strapped_congr (h.keeps .straps (by simp)) x).trans hs)
        ((live_d2d_congr (h.keeps .pwr (by simp)) h.regs x).trans hlive), h.keeps .clk (by simp)]
    · exact (h'.same x hl).2.trans (h.begun x (by simpa [hl] using hx) hs hlive)

end

/-- A port taken down before its training, if it was in service. -/
def State.takenDown (s : State) (e : Bool) : State := if s.portUp e then s.linkDown e else s

section

variable (s : State) (e : Bool)

theorem takenDown_portUp (x : Bool) : (s.takenDown e).portUp x = if x = e then false else s.portUp x := by
  unfold State.takenDown
  by_cases hup : s.portUp e = true
  · rw [if_pos hup, linkDown_portUp]
  · rw [if_neg hup]
    by_cases hx : x = e
    · rw [if_pos hx, hx]
      simpa using hup
    · rw [if_neg hx]

theorem takenDown_trainFrom {x : Bool} (hx : x ≠ e) :
    ((s.takenDown e).port x).trainFrom = (s.port x).trainFrom := by
  unfold State.takenDown
  split
  · rw [linkDown_trainFrom, if_neg hx]
  · rfl

theorem takenDown_keepsRegs : KeepsRegs s (s.takenDown e) (Reg.D2D_RING_STATUS :: pathRegs) :=
  (linkDown_keepsRegs s e).ite (KeepsRegs.refl _ _)

theorem takenDown_keeps : Keeps s (s.takenDown e) lossRegions :=
  ite_keeps (State.linkDown_keeps s e (Keeps.refl _ _) (by simp) (by simp) (by simp) (by simp) (by simp) (by simp)
    (by simp)) (Keeps.refl _ _)

theorem retrainPort_retrained : Retrained s (s.retrainPort e) [e] := by
  have hup (x : Bool) : (s.retrainPort e).portUp x = if x = e then false else s.portUp x :=
    (portUp_congr (trainPort_regs (s.takenDown e) e) x).trans (takenDown_portUp s e x)
  have hregs : KeepsRegs s (s.retrainPort e) (Reg.D2D_RING_STATUS :: pathRegs) :=
    (takenDown_keepsRegs s e).of_regs (trainPort_regs (s.takenDown e) e)
  have hkeeps : Keeps s (s.retrainPort e) lossRegions :=
    State.trainPort_keeps _ e (takenDown_keeps s e) (by simp)
  have hport (x : Bool) : (s.retrainPort e).port x =
      if x = e ∧ (s.takenDown e).canTrain e = true then ((s.takenDown e).port x).begun (s.takenDown e).clk.pkg
      else (s.takenDown e).port x := trainPort_port (s.takenDown e) e x
  refine ⟨hregs, hkeeps, fun x hx => ?_, fun x hx => ?_, fun x hx hs hl => ?_⟩
  · rw [hup, if_pos (List.mem_singleton.mp hx)]
  · have hne : x ≠ e := by simpa using hx
    rw [hup, if_neg hne, hport, if_neg fun h => hne h.1]
    exact ⟨rfl, takenDown_trainFrom s e hne⟩
  · obtain rfl := List.mem_singleton.mp hx
    have hcan : (s.takenDown x).canTrain x = true := by
      refine (canTrain_iff _ x).mpr ⟨(strapped_congr (takenDown_keeps s x .straps (by simp)) x).trans hs, ?_, ?_⟩
      · exact (live_d2d_congr (takenDown_keeps s x .pwr (by simp)) (takenDown_keepsRegs s x) x).trans hl
      · rw [takenDown_portUp, if_pos rfl]
    rw [hport, if_pos ⟨rfl, hcan⟩, takenDown_keeps s x .clk (by simp)]
    rfl

end

theorem retrainPorts_retrained (l : List Bool) (s : State) : Retrained s (l.foldl State.retrainPort s) l := by
  induction l generalizing s with
  | nil => exact Retrained.nil s
  | cons e l ih => exact (retrainPort_retrained s e).cons (ih _)

theorem mem_namedPorts (arg : Nat) (e : Bool) : e ∈ namedPorts arg ↔ arg.testBit (portNo e) = true := by
  unfold namedPorts
  cases e <;> cases h0 : arg.testBit 0 <;> cases h1 : arg.testBit 1 <;> simp [portNo, h0, h1]

theorem exec_retrainD2d {s : State} {v : Word} (h : Command s v 4) : exec .retrainD2d s = .next (retrainD2d s) :=
  congrArg Host.Outcome.next (State.onCore_true h.1)

theorem retrainD2d_command {s : State} {v : Word} (h : Command s v 4) :
    retrainD2d s = ((namedPorts (cwArg v % 65536)).foldl State.retrainPort (s.d2dOrdered 4 v)).answerD2d := by
  unfold retrainD2d
  rw [takeCmd_command h]
  rfl

theorem gives_retrainD2d (s : State) (v : Word) (h : Command s v 4) : Gives .retrainD2d s fun t =>
      (∀ e : Bool, (cwArg v).testBit (portNo e) = true → t.portUp e = false) ∧
        (∀ e : Bool, Trains s v e → (t.port e).trainFrom = some s.clk.pkg) ∧
        (∀ e : Bool, (cwArg v).testBit (portNo e) = false → t.portUp e = s.portUp e) ∧
        t.chain.taken = s.noCommand 4 ∧ Keeps s t [.ring, .pkg, .chain, .paths, .tags, .inj, .free, .rmt] ∧
        KeepsRegs s t (Reg.D2D_RING_STATUS :: pathRegs) := by
  refine ⟨_, exec_retrainD2d h, ?_⟩
  have hmem (e : Bool) : e ∈ namedPorts (cwArg v % 65536) ↔ (cwArg v).testBit (portNo e) = true := by
    rw [mem_namedPorts, testBit_cwArg]
  have hkeeps := retrainD2d_keeps s (Keeps.refl s [.ring, .pkg, .chain, .paths, .tags, .inj, .free, .rmt]) (by simp)
    (by simp) (by simp) (by simp) (by simp) (by simp) (by simp) (by simp)
  have hports := retrainPorts_retrained (namedPorts (cwArg v % 65536)) (s.d2dOrdered 4 v)
  obtain ⟨hring, htaken, -, hregs⟩ :=
    answerDone ((namedPorts (cwArg v % 65536)).foldl State.retrainPort (s.d2dOrdered 4 v))
  rw [retrainD2d_command h] at hkeeps ⊢
  refine ⟨fun e he => ?_, fun e he => ?_, fun e he => ?_, ?_, hkeeps, hports.regs.of_regs hregs⟩
  · exact (portUp_congr hregs e).trans (hports.down e ((hmem e).mpr he))
  · obtain ⟨hnamed, hs, hl⟩ := he
    rw [port_congr hring]
    exact hports.begun e ((hmem e).mpr hnamed) hs hl
  · exact (portUp_congr hregs e).trans (hports.same e fun hm => by simp [(hmem e).mp hm] at he).1
  · rw [htaken, hports.keeps .chain (by simp)]
    rfl

/-! ### A port that carried nothing goes down (R377) -/

theorem linkLost_keeps (s : State) (east : Bool) : Keeps s (s.linkLost east) [.ring, .pkg] :=
  State.setLink_keeps _ _ _ (State.modD2d_keeps _ east D2dPort.lost (State.sf_keeps s _ _ _ (Keeps.refl _ _)) (by simp))
    (by simp) (by simp)

theorem setLink_pkg (s : State) (i : Nat) (up : Bool) :
    (s.setLink i up).pkg = { s.pkg with cutOff := (s.setLink i up).pkg.cutOff } := by
  have hnoted : (s.linkNoted i up).pkg = s.pkg :=
    State.shapeRing_keeps _ (State.modRing_keeps s _ (Keeps.refl s [.ring]) (by simp)) .pkg (by simp)
  rcases setLink_cases s i up with h | h
  · rw [h, hnoted]
  · rw [h]
    exact congrArg (fun p : Package => { p with cutOff := true }) hnoted

theorem linkLost_pkg (s : State) (east : Bool) :
    (s.linkLost east).pkg = { s.pkg with cutOff := (s.linkLost east).pkg.cutOff } := by
  have hpkg : ((s.sf Reg.D2D_RING_STATUS (upFld east) 0).modD2d east D2dPort.lost).pkg = s.pkg :=
    State.modD2d_keeps _ east _ (State.sf_keeps s _ _ _ (Keeps.refl s [.ring])) (by simp) .pkg (by simp)
  have h := setLink_pkg ((s.sf Reg.D2D_RING_STATUS (upFld east) 0).modD2d east D2dPort.lost) (s.linkNo east) false
  rwa [hpkg] at h

theorem port_true (s : State) : s.port true = s.ring.east := rfl

theorem port_false (s : State) : s.port false = s.ring.west := rfl

theorem modD2d_pkg (s : State) (e : Bool) (f : D2dPort → D2dPort) : (s.modD2d e f).pkg = s.pkg := rfl

theorem modD2d_chain (s : State) (e : Bool) (f : D2dPort → D2dPort) : (s.modD2d e f).chain = s.chain := rfl

theorem modD2d_regs (s : State) (e : Bool) (f : D2dPort → D2dPort) : (s.modD2d e f).regs = s.regs := rfl

theorem modD2d_inbox (s : State) (e : Bool) (f : D2dPort → D2dPort) : (s.modD2d e f).ring.inbox = s.ring.inbox := by
  cases e <;> rfl

theorem linkLost_inbox (s : State) (east : Bool) : (s.linkLost east).ring.inbox = s.ring.inbox := by
  have hsf : (s.sf Reg.D2D_RING_STATUS (upFld east) 0).ring = s.ring :=
    State.sf_keeps s _ _ _ (Keeps.refl s []) .ring (by simp)
  rw [State.linkLost, setLink_ring]
  exact (modD2d_inbox _ east D2dPort.lost).trans (congrArg Ring.inbox hsf)

theorem linkLost_keepsFields (s : State) (east : Bool) :
    KeepsFields s (s.linkLost east) Reg.D2D_RING_STATUS (lossFields east) := by
  obtain ⟨v, hv⟩ := linkLost_regs s east
  exact (((KeepsFields.refl s _ _).sf (by simp [lossFields]) (upFld_in east) 0).sf (by simp [lossFields]) (by decide)
    v).of_regs hv

theorem linkLost_count (s : State) (east : Bool) : (s.linkLost east).count = s.count :=
  linkLost_keepsFields s east Fld.D2D_RING_STATUS_COUNT (by cases east <;> decide)

theorem linkLost_self (s : State) (east : Bool) : (s.linkLost east).self = s.self :=
  State.gf_congr (linkLost_keepsRegs s east _ (by decide)) _

/-! ### An instance that no link reaches (R28, R374) -/

/-- Another place on a ring is some hops away. -/
theorem hopCount_pos {n a b : Nat} (ha : a < n) (hb : b < n) (hne : b ≠ a) : 0 < (b + n - a) % n := by
  rcases Nat.lt_or_gt_of_ne hne with h | h
  · rw [Nat.mod_eq_of_lt (by omega)]
    omega
  · rw [show b + n - a = b - a + n by omega, Nat.add_mod_right, Nat.mod_eq_of_lt (by omega)]
    omega

/-- The link to the west of a place on a ring of two or more leads to it and begins elsewhere. -/
theorem westLink {n a : Nat} (ha : a < n) (hn : 2 ≤ n) : (a + n - 1) % n ≠ a ∧ ((a + n - 1) % n + 1) % n = a := by
  cases a with
  | zero =>
    rw [Nat.zero_add, Nat.mod_eq_of_lt (by omega)]
    exact ⟨by omega, by rw [Nat.sub_add_cancel (by omega), Nat.mod_self]⟩
  | succ a =>
    rw [show a + 1 + n - 1 = a + n by omega, Nat.add_mod_right, Nat.mod_eq_of_lt (by omega : a < n)]
    exact ⟨by omega, Nat.mod_eq_of_lt ha⟩

section

variable {s : State} (heast : s.portUp true = false) (hwest : s.portUp false = false) (hself : s.self < s.count)

include heast hself

theorem hops_east_none {j : Nat} (hj : j ≠ s.self) : s.hops true j = none := by
  have hmax : max 1 s.count = s.count := Nat.max_eq_right (by omega)
  refine if_neg fun ⟨hlt, hok⟩ => ?_
  rw [hmax] at hlt hok
  have hup := List.all_eq_true.mp hok 0 (List.mem_range.mpr (hopCount_pos hself hlt hj))
  have hlink : (s.self + 0) % s.count = s.self := Nat.mod_eq_of_lt hself
  rw [if_pos rfl, hlink, State.linkUp, if_pos rfl, heast] at hup
  exact absurd hup (by decide)

omit heast in
include hwest in
theorem hops_west_none {j : Nat} (hj : j ≠ s.self) : s.hops false j = none := by
  have hmax : max 1 s.count = s.count := Nat.max_eq_right (by omega)
  refine if_neg fun ⟨hlt, hok⟩ => ?_
  rw [hmax] at hlt hok
  have hup := List.all_eq_true.mp hok 0 (List.mem_range.mpr (hopCount_pos hlt hself hj.symm))
  obtain ⟨hne, hback⟩ := westLink hself (by omega)
  rw [if_neg (by decide), Nat.sub_zero, State.linkUp, if_neg hne, hmax, if_pos hback, hwest] at hup
  exact absurd hup (by decide)

include hwest

theorem towards_none {j : Nat} (hj : j ≠ s.self) : s.towards j = none := by
  rw [State.towards, hops_east_none heast hself hj, hops_west_none hwest hself hj]

theorem broadcast_alone (c : Ctl) : s.broadcast c = s :=
  List.foldl_fixed' (fun j => by
    split
    · rfl
    next hj => rw [State.sendCtl, towards_none heast hwest hself hj]) _

end

theorem pumpRing_idle {s : State} (h : s.rmt.ringWait = []) : s.pumpRing = s := by
  unfold State.pumpRing State.modRmt
  rw [h]
  dsimp only [List.foldl_nil]
  rw [← h]

theorem lossServed_idle (s : State) {p : D2dPort} (hwait : p.waiting = []) (hout : p.outstanding = [])
    (htransit : p.transit = []) (unsent : List Req) : s.lossServed p unsent = s := by
  unfold State.lossServed
  rw [hwait, hout, htransit]
  rfl

theorem linkDown_idle {s : State} {east : Bool} (hwait : (s.port east).waiting = [])
    (hout : (s.port east).outstanding = []) (htransit : (s.port east).transit = []) (hring : s.rmt.ringWait = [])
    (hother : s.portUp (!east) = false) (hself : s.self < s.count) : s.linkDown east = s.linkLost east := by
  have hup (e : Bool) : (s.linkLost east).portUp e = false := by
    rw [linkLost_portUp]
    split
    · rfl
    next he => rwa [(Bool.eq_not_of_ne he : e = !east)]
  have hkept : (s.linkLost east).rmt.ringWait = [] := by rw [linkLost_keeps s east .rmt (by simp), hring]
  rw [linkDown_eq, lossServed_idle _ hwait hout htransit, pumpRing_idle hkept]
  exact broadcast_alone (hup true) (hup false) (by rwa [linkLost_self, linkLost_count]) _

/-! ### RETRAIN_D2D of a port that carries nothing (R400) -/

/-- Only the port to the east is named. -/
theorem namedPorts_east (v : Word) (h : cwArg v % 4 = 2) : namedPorts (cwArg v % 65536) = [true] := by
  have h0 : (cwArg v % 65536).testBit 0 = false := by
    rw [Nat.testBit_zero, decide_eq_false_iff_not]
    omega
  have h1 : (cwArg v % 65536).testBit 1 = true := by
    rw [Nat.testBit_succ, Nat.testBit_zero, decide_eq_true_iff]
    omega
  rw [namedPorts, h0, h1]
  rfl

section

variable {s : State} {v : Word} (hcmd : Command s v 4) (hnamed : cwArg v % 4 = 2) (heast : s.portUp true = true)
  (hwest : s.portUp false = false) (hself : s.self < s.count) (hstrap : s.strapped true = true)
  (hlive : s.live (.d2d true) = true) (hwait : s.ring.east.waiting = []) (hout : s.ring.east.outstanding = [])
  (htransit : s.ring.east.transit = []) (hring : s.rmt.ringWait = [])

/-- The state when the port to the east is down. -/
def State.eastLost (s : State) (v : Word) : State := (s.d2dOrdered 4 v).linkLost true

theorem eastLost_keeps : Keeps s (s.eastLost v) [.ring, .pkg, .chain] := fun r hr =>
  State.setLink_keeps _ _ _ (State.modD2d_keeps _ true D2dPort.lost
    (State.sf_keeps _ _ _ _ (d2dOrdered_keeps s 4 v)) (by simp)) (by simp) (by simp) r hr

theorem eastLost_keepsRegs : KeepsRegs s (s.eastLost v) [Reg.D2D_RING_STATUS] :=
  linkLost_keepsRegs (s.d2dOrdered 4 v) true

/-- RETRAIN_D2D of the port to the east is in hand. -/
theorem eastLost_pkg (hnamed : cwArg v % 4 = 2) : (s.eastLost v).pkg =
    { s.pkg with d2dCmd := some (4, 2, s.clk.pkg), cutOff := (s.eastLost v).pkg.cutOff } := by
  have hports : cwArg v % 65536 % 4 = 2 := by omega
  have hordered : (s.d2dOrdered 4 v).pkg = { s.pkg with d2dCmd := some (4, 2, s.clk.pkg) } := by
    rw [State.d2dOrdered, hports]
    rfl
  have hlost := linkLost_pkg (s.d2dOrdered 4 v) true
  rw [hordered] at hlost
  exact hlost

theorem eastLost_port (e : Bool) : (s.eastLost v).port e = if e = true then (s.port e).lost else s.port e := by
  have h := linkLost_port (s.d2dOrdered 4 v) true e
  rwa [d2dOrdered_port] at h

include heast hwest hself hwait hout htransit hring in
theorem takenDown_ordered : (s.d2dOrdered 4 v).takenDown true = s.eastLost v :=
  (if_pos heast).trans (linkDown_idle (s := s.d2dOrdered 4 v) hwait hout htransit hring hwest hself)

include hstrap hlive in
theorem eastLost_canTrain : (s.eastLost v).canTrain true = true := by
  refine (canTrain_iff _ true).mpr ⟨(strapped_congr (eastLost_keeps .straps (by simp)) true).trans hstrap, ?_, ?_⟩
  · exact (live_d2d_congr (eastLost_keeps .pwr (by simp)) (eastLost_keepsRegs.mono (by simp)) true).trans hlive
  · exact (linkLost_portUp (s.d2dOrdered 4 v) true true).trans (if_pos rfl)

include hcmd hnamed heast hwest hself hstrap hlive hwait hout htransit hring

theorem retrainD2d_east : retrainD2d s = (s.eastLost v).modD2d true fun p => p.begun s.clk.pkg := by
  have hclk : (s.eastLost v).clk = s.clk := eastLost_keeps .clk (by simp)
  have hport : ((namedPorts (cwArg v % 65536)).foldl State.retrainPort (s.d2dOrdered 4 v)) =
      (s.eastLost v).modD2d true fun p => p.begun s.clk.pkg := by
    rw [namedPorts_east v hnamed]
    change ((s.d2dOrdered 4 v).takenDown true).trainPort true = _
    rw [takenDown_ordered heast hwest hself hwait hout htransit hring, trainPort_eq,
      if_pos (eastLost_canTrain hstrap hlive), hclk]
  have hd2d : ((s.eastLost v).modD2d true fun p => p.begun s.clk.pkg).pkg.d2dCmd =
      some (4, 2, s.clk.pkg) := by rw [modD2d_pkg, eastLost_pkg hnamed]
  rw [retrainD2d_command hcmd, hport]
  exact answerD2d_busy hd2d ⟨true, by decide, by rw [port_modD2d, if_pos rfl]; rfl⟩

theorem gives_retrainD2d_east : Gives .retrainD2d s fun t =>
      t.portUp true = false ∧ t.ring.east.trained = false ∧ t.ring.east.trainFrom = some s.clk.pkg ∧
        t.ring.east.credits = Vector.replicate 3 0 ∧ t.ring.west = s.ring.west ∧ t.ring.inbox = s.ring.inbox ∧
        t.pkg = { s.pkg with d2dCmd := some (4, 2, s.clk.pkg), cutOff := t.pkg.cutOff } ∧
        t.chain = { s.chain with taken := s.noCommand 4 } ∧ Keeps s t [.ring, .pkg, .chain] ∧
        KeepsRegs s t [Reg.D2D_RING_STATUS] := by
  refine ⟨_, exec_retrainD2d hcmd, ?_⟩
  rw [retrainD2d_east hcmd hnamed heast hwest hself hstrap hlive hwait hout htransit hring]
  have hport (e : Bool) := port_modD2d (s.eastLost v) true (fun p => p.begun s.clk.pkg) e
  have heastPort := hport true
  have hwestPort := hport false
  rw [if_pos rfl, eastLost_port, if_pos rfl, port_true, port_true] at heastPort
  rw [if_neg (by decide), eastLost_port, if_neg (by decide), port_false, port_false] at hwestPort
  beta_reduce
  rw [heastPort, hwestPort, modD2d_pkg, modD2d_inbox, modD2d_chain, portUp_congr (modD2d_regs _ _ _)]
  exact ⟨(linkLost_portUp (s.d2dOrdered 4 v) true true).trans (if_pos rfl), rfl, rfl, rfl, rfl,
    linkLost_inbox (s.d2dOrdered 4 v) true, eastLost_pkg hnamed,
    linkLost_keeps (s.d2dOrdered 4 v) true .chain (by simp),
    State.modD2d_keeps _ _ _ eastLost_keeps (by simp), eastLost_keepsRegs.of_regs (modD2d_regs _ _ _)⟩

end

/-! ### Operations that end (R228, R241, R256, R308) -/

theorem complete'_regs (s : State) (k : Pk) (st : Status) (detail deckle : Nat) :
    (s.complete' k st detail deckle).regs = s.regs := rfl

theorem modSched_regs (s : State) (f : Sched → Sched) : (s.modSched f).regs = s.regs := rfl

theorem modSeq_regs (s : State) (f : Sequencer → Sequencer) : (s.modSeq f).regs = s.regs := rfl

theorem putSig_regs (s : State) (o : SigOp) : (s.putSig o).regs = s.regs := by
  unfold State.putSig
  split <;> rfl

theorem sigEnd_regs (s : State) (o : SigOp) : (s.sigEnd o).regs = s.regs := by
  unfold State.sigEnd
  dsimp only
  split
  · rfl
  · split
    · exact putSig_regs _ _
    · split <;> rfl

theorem pressEnd_regs (s : State) (o : PressOp) : (s.pressEnd o).regs = s.regs := by
  unfold State.pressEnd
  dsimp only
  split
  · rfl
  · split <;> rfl

theorem endOp_regs (s : State) (e : EngOp) (st : Status) : (s.endOp e st).regs = s.regs := by
  cases e with
  | sig o =>
    unfold State.endOp
    dsimp only
    split
    · rfl
    · exact (sigEnd_regs _ _).trans (putSig_regs _ _)
  | ew o => rfl
  | press o =>
    unfold State.endOp
    dsimp only
    split
    · rfl
    · exact pressEnd_regs _ _

theorem collStop_regs (s : State) (c : Coll) (st : Status) (detail : Nat) : (s.collStop c st detail).regs = s.regs := by
  unfold State.collStop
  dsimp only
  split_ifs <;> rfl

theorem endHeld_regs (s : State) (p : Packet) (st : Status) : (s.endHeld p st).regs = s.regs := by
  unfold State.endHeld
  split <;> rfl

theorem endRunning_regs (s : State) (p : Packet) (st : Status) : (s.endRunning p st).regs = s.regs := by
  unfold State.endRunning
  dsimp only
  split
  · exact endOp_regs _ _ _
  · split
    · exact collStop_regs _ _ _ _
    · split
      · split
        · rfl
        · exact endHeld_regs _ _ _
      · exact endHeld_regs _ _ _

/-! ### Queues that are reset (R308) -/

theorem KeepsRegs.qSet {s0 s : State} {rs : List Nat} {q : Fin 64} (h : KeepsRegs s0 s rs) (m : queueRegs q ⊆ rs)
    (st cause : Nat) : KeepsRegs s0 (s.qSet q st cause) rs := by
  have mstatus : Reg.FW_QSTATUS q ∈ rs := m (by simp)
  exact (h.sf mstatus _ _).sf mstatus _ _

theorem KeepsRegs.qResetEnd {s0 s : State} {rs : List Nat} {q : Fin 64} (h : KeepsRegs s0 s rs)
    (m : queueRegs q ⊆ rs) : KeepsRegs s0 (s.qResetEnd q) rs := by
  have hzero : KeepsRegs s0 (s.qZero q) rs :=
    KeepsRegs.of_regs (((h.wr (m (by simp)) 0).wr (m (by simp)) 0).wr (m (by simp)) 0) rfl
  exact KeepsRegs.ite (((hzero.qSet m 0 0).sf (m (by simp)) _ _).wr64 (m (by simp)) (m (by simp)) 0) h

theorem KeepsRegs.qReset {s0 s : State} {rs : List Nat} {q : Fin 64} (h : KeepsRegs s0 s rs)
    (m : queueRegs q ⊆ rs) : KeepsRegs s0 (s.qReset q) rs := by
  have mcfg : Reg.FW_QCFG q ∈ rs := m (by simp)
  have hset := ((h.qSet m 3 (s.gf (Reg.FW_QSTATUS q) Fld.FW_QSTATUS_HALT_CAUSE)).sf mcfg Fld.FW_QCFG_ENABLE 0).sf mcfg
    Fld.FW_QCFG_RESET 1
  unfold State.qReset
  refine KeepsRegs.qResetEnd (KeepsRegs.foldl _ (fun u p _ hu => hu.of_regs (endRunning_regs u p .cancelled)) ?_) m
  exact hset.of_regs (modSched_regs _ _)

/-! ### RESET_CORES (R327, R400) -/

/-- The answer to RESET_CORES has gone out. -/
def State.resetAnswered (s : State) : State := (s.taking (s.noCommand 6)).result 6 0

theorem exec_resetCores {s : State} {v : Word} (h : Command s v 6) : exec .resetCores s = .next (resetCores s) :=
  congrArg Host.Outcome.next (State.onCore_true h.1)

theorem resetCores_command {s : State} {v : Word} (h : Command s v 6) :
    resetCores s = resetAllCores ((cwArg v).testBit 0) s.resetAnswered := by
  unfold resetCores
  rw [takeCmd_command h]
  exact congrArg (resetAllCores · s.resetAnswered) (testBit_mod_two_pow_of_lt (n := 16) (cwArg v) (by decide))

theorem resetAnswered_regs (s : State) : s.resetAnswered.regs = s.regs := chainUp_regs _ _

theorem resetAnswered_keeps (s : State) : Keeps s s.resetAnswered [.chain] :=
  (taking_result s (s.noCommand 6) 6 (r := 0) (by decide)).2.2.1

theorem fwState_congr {s t : State} (h : t.regs = s.regs) : t.fwState = s.fwState :=
  State.gf_congr (State.rd_congr h _) _

/-- A core serves only in RUNNING or FREEWHEEL. -/
theorem fwState_of_fwRuns {s : State} {k : Core} (h : s.fwRuns k = true) : s.fwState ≠ 6 := by
  intro h6
  simp [State.fwRuns, h6] at h

/-- The answer is all that the chain sees of it. -/
theorem resetAnswered_sent {s t : State} (h : t.chain = s.resetAnswered.chain) :
    ResultSent s t 6 0 ∧ t.chain.taken = s.noCommand 6 := by
  obtain ⟨hsent, hchain, -, -⟩ := taking_result s (s.noCommand 6) 6 (r := 0) (by decide)
  refine ⟨(congrArg Chain.outW h).trans hsent, ?_⟩
  rw [h, State.resetAnswered, hchain]

theorem State.resetAnswered_fwState {s : State} {v : Word} (h : Command s v 6) : s.resetAnswered.fwState ≠ 6 := by
  rw [fwState_congr (resetAnswered_regs s)]
  exact fwState_of_fwRuns h.1

/-! #### The orderly reset (R327) -/

/-- A queue in service is reset. -/
def State.qOrderly (s : State) (q : Nat) : State :=
  if s.bit (Reg.FW_QCFG (qFin q)) Fld.FW_QCFG_ENABLE ∧ s.qState (qFin q) ≠ 3 then s.qReset (qFin q) else s

/-- The queues are reset when the core that serves them runs. -/
def State.queuesOrderly (s : State) : State :=
  if s.fwRuns .scheduler then (upto 64).foldl State.qOrderly s else s

theorem resetAllCores_orderly {s : State} (h : s.fwState ≠ 6) :
    resetAllCores true s = s.queuesOrderly.modFw fun w => { w with orderlyAt := some s.fwNow } := by
  unfold resetAllCores
  rw [if_neg h, if_pos rfl]
  rfl

theorem qFin_queueRegs_subset (q : Nat) (hq : q ∈ upto 64) : queueRegs (qFin q) ⊆ (upto 64).flatMap queueRegs := by
  have hval : (qFin q).val = q := Nat.mod_eq_of_lt (List.mem_range.mp hq)
  rw [hval]
  exact fun o ho => List.mem_flatMap.mpr ⟨q, hq, ho⟩

theorem queuesOrderly_keepsRegs (s : State) : KeepsRegs s s.queuesOrderly ((upto 64).flatMap queueRegs) :=
  KeepsRegs.ite (KeepsRegs.foldl _ (fun _ q hq hu => (hu.qReset (qFin_queueRegs_subset q hq)).ite hu)
    (KeepsRegs.refl _ _)) (KeepsRegs.refl _ _)

theorem queuesOrderly_keeps (s : State) : Keeps s s.queuesOrderly [.free, .paths, .sched, .seq] :=
  ite_keeps (foldl_keeps' (fun u q hu => ite_keeps (State.qReset_keeps u (qFin q) hu (by simp) (by simp) (by simp)
    (by simp)) hu) _ (Keeps.refl _ _)) (Keeps.refl _ _)

theorem queuesOrderly_none {s : State} (h : ∀ q : Fin 64, s.bit (Reg.FW_QCFG q) Fld.FW_QCFG_ENABLE = false) :
    s.queuesOrderly = s := by
  have hfold : (upto 64).foldl State.qOrderly s = s :=
    List.foldl_fixed' (fun q => if_neg fun hq => by simp [h (qFin q)] at hq) _
  unfold State.queuesOrderly
  rw [hfold, ite_self]

theorem fwStatus_notMem_queueRegs : Reg.FW_STATUS ∉ (upto 64).flatMap queueRegs := by decide +kernel

theorem resetCores_orderly {s : State} {v : Word} (h : Command s v 6) (horderly : (cwArg v).testBit 0 = true) :
    resetCores s = s.resetAnswered.queuesOrderly.modFw fun w => { w with orderlyAt := some s.fwNow } := by
  have hnow : s.resetAnswered.fwNow = s.fwNow := by
    have hclk : s.resetAnswered.clk = s.clk := resetAnswered_keeps s .clk (by simp)
    simp only [State.fwNow, State.now, hclk]
  rw [resetCores_command h, horderly, resetAllCores_orderly (State.resetAnswered_fwState h), hnow]

theorem gives_resetCores_orderly (s : State) (v : Word) (h : Command s v 6) (horderly : (cwArg v).testBit 0 = true) :
    Gives .resetCores s fun t =>
      ResultSent s t 6 0 ∧ t.chain.taken = s.noCommand 6 ∧ t.fw.orderlyAt = some s.fwNow ∧ t.fwState = s.fwState ∧
        t.pkg = s.pkg ∧ Keeps s t [.chain, .free, .fw, .paths, .sched, .seq] ∧
        KeepsRegs s t ((upto 64).flatMap queueRegs) := by
  refine ⟨_, exec_resetCores h, ?_⟩
  rw [resetCores_orderly h horderly]
  beta_reduce
  have hqueues := queuesOrderly_keeps s.resetAnswered
  have hkeeps : Keeps s (s.resetAnswered.queuesOrderly.modFw fun w => { w with orderlyAt := some s.fwNow })
      [.chain, .free, .fw, .paths, .sched, .seq] := by
    refine Keeps.trans (t := s.resetAnswered.queuesOrderly) (Keeps.trans (t := s.resetAnswered) ?_ ?_) ?_
    · exact fun r hr => resetAnswered_keeps s r (by simp_all)
    · exact fun r hr => hqueues r (by simp_all)
    · exact State.modFw_keeps _ _ (Keeps.refl _ _) (by simp)
  have hregs : KeepsRegs s (s.resetAnswered.queuesOrderly.modFw fun w => { w with orderlyAt := some s.fwNow })
      ((upto 64).flatMap queueRegs) :=
    ((KeepsRegs.refl s _).of_regs (resetAnswered_regs s)).trans ((queuesOrderly_keepsRegs _).of_regs rfl)
  obtain ⟨hsent, htaken⟩ := resetAnswered_sent
    (t := s.resetAnswered.queuesOrderly.modFw fun w => { w with orderlyAt := some s.fwNow }) (hqueues .chain (by simp))
  exact ⟨hsent, htaken, rfl, State.gf_congr (hregs _ fwStatus_notMem_queueRegs) _, hkeeps .pkg (by simp), hkeeps, hregs⟩

theorem gives_resetCores_idle (s : State) (v : Word) (h : Command s v 6) (horderly : (cwArg v).testBit 0 = true)
    (hidle : ∀ q : Fin 64, s.bit (Reg.FW_QCFG q) Fld.FW_QCFG_ENABLE = false) : Gives .resetCores s fun t =>
      ResultSent s t 6 0 ∧ t.chain.taken = s.noCommand 6 ∧ t.fw = { s.fw with orderlyAt := some s.fwNow } ∧
        Keeps s t [.chain, .fw] ∧ KeepsRegs s t [] := by
  refine ⟨_, exec_resetCores h, ?_⟩
  have hnone : s.resetAnswered.queuesOrderly = s.resetAnswered := queuesOrderly_none fun q =>
    (State.bit_congr (State.rd_congr (resetAnswered_regs s) _) _).trans (hidle q)
  rw [resetCores_orderly h horderly, hnone]
  beta_reduce
  obtain ⟨hsent, htaken⟩ := resetAnswered_sent
    (t := s.resetAnswered.modFw fun w => { w with orderlyAt := some s.fwNow }) rfl
  have hfw : s.resetAnswered.fw = s.fw := resetAnswered_keeps s .fw (by simp)
  refine ⟨hsent, htaken, congrArg (fun w : Fw => { w with orderlyAt := some s.fwNow }) hfw, ?_,
    (KeepsRegs.refl s []).of_regs (resetAnswered_regs s)⟩
  exact State.modFw_keeps _ _ (fun r hr => resetAnswered_keeps s r (by simp_all)) (by simp)

/-! #### The reset of all cores (R327) -/

/-- Every operation is cancelled and no inhibit stands. -/
def State.opsEnded (s : State) : State :=
  s.cancelAll.upkeepReset.modPaths fun x => { x with slices := x.slices.map fun y => { y with sweep := none } }

/-- The emulated registers are cleared and no core is halted or the instance degraded. -/
def State.emuCleared (s : State) : State :=
  (((s.resetRegs emulatedOff).sf Reg.FW_STATUS Fld.FW_STATUS_DEGRADED 0).sf Reg.FW_STATUS
    Fld.FW_STATUS_CORE_HALTED 0).setFw 0

/-- The cores hold nothing. -/
def State.coresEmpty (s s0 : State) : State :=
  { s with fw := { Fw.init with calmSince := s0.fw.calmSince }, sched := Sched.init, pkg := Package.init,
           inbox := State.reset.inbox, tests := [],
           age := { Ageing.init with rate := s0.age.rate, guards := s0.age.guards } }

theorem resetAll_eq (s : State) : s.resetAll = (s.opsEnded.emuCleared.coresEmpty s).repowerCores := rfl

theorem cancelAll_regs (s : State) : s.cancelAll.regs = s.regs :=
  List.foldlRecOn (motive := fun t : State => t.regs = s.regs) _ _ rfl fun t ht e _ =>
    (endOp_regs t e .cancelled).trans ht

theorem KeepsRegs.writeInhibit {s0 s : State} {rs : List Nat} (h : KeepsRegs s0 s rs) {p : Fin 64}
    (mi : Reg.PC_REF_INHIBIT p ∈ rs) (ms : Reg.PC_REF_STATUS p ∈ rs) (g : Nat) :
    KeepsRegs s0 (s.writeInhibit p g) rs :=
  KeepsRegs.raiseIf ((h.sf mi _ _).sf ms _ _) ms _ _

theorem modPaths_regs (s : State) (f : Paths → Paths) : (s.modPaths f).regs = s.regs := rfl

theorem opsEnded_keepsRegs (s : State) : KeepsRegs s s.opsEnded inhibitRegs := by
  have hcancel : KeepsRegs s s.cancelAll inhibitRegs := (KeepsRegs.refl s _).of_regs (cancelAll_regs s)
  have hinhibit : KeepsRegs s s.cancelAll.upkeepReset inhibitRegs := KeepsRegs.foldl _ (fun u p hp hu => by
    have hval : (pcFin p).val = p := Nat.mod_eq_of_lt (List.mem_range.mp hp)
    refine hu.writeInhibit ?_ ?_ 0 <;> rw [hval] <;> exact List.mem_flatMap.mpr ⟨p, hp, by simp⟩) hcancel
  exact hinhibit.of_regs (modPaths_regs _ _)

theorem opsEnded_keeps (s : State) : Keeps s s.opsEnded [.paths, .sched, .seq] :=
  State.modPaths_keeps _ _ (State.upkeepReset_keeps _ (State.cancelAll_keeps s (Keeps.refl _ _) (by simp) (by simp)
    (by simp))) (by simp)

theorem rd_resetRegs (s : State) (drop : Nat → Bool) (o : Nat) :
    (s.resetRegs drop).rd o = if drop o then regReset o else s.rd o := by
  unfold State.rd State.resetRegs
  split
  next h =>
    refine cget_unlisted fun e he heq => ?_
    simp [heq, h] at he
  next h => exact cget_filter fun _ => by simpa using h

theorem fwStatus_notEmulated : emulatedOff Reg.FW_STATUS = false := by decide

theorem emuCleared_keepsRegs (s : State) : KeepsRegs (s.resetRegs emulatedOff) s.emuCleared [Reg.FW_STATUS] :=
  (((KeepsRegs.refl _ _).sf (by simp) _ _).sf (by simp) _ _).sf (by simp) _ _

theorem emuCleared_fwState (s : State) : s.emuCleared.fwState = 0 := by
  unfold State.emuCleared State.setFw State.fwState
  rw [State.gf_sf_same _ _ _ _ (by decide)]
  rfl

theorem emuCleared_mgt (s : State) : s.emuCleared.mgt = s.mgt.emptied := by
  have h : s.emuCleared.mgt = (s.resetRegs emulatedOff).mgt :=
    State.setFw_keeps _ _ (State.sf_keeps _ _ _ _ (State.sf_keeps _ _ _ _ (Keeps.refl _ []))) .mgt (by simp)
  rw [h]
  rfl

theorem emuCleared_keeps (s : State) : Keeps s s.emuCleared [.mgt] :=
  State.setFw_keeps _ _ (State.sf_keeps _ _ _ _ (State.sf_keeps _ _ _ _ (State.resetRegs_keeps s _ (Keeps.refl _ _)
    (by simp))))

theorem coresEmpty_keeps (s s0 : State) : Keeps s (s.coresEmpty s0) [.fw, .sched, .pkg, .inbox, .tests, .age] :=
  fun r hr => by cases r <;> simp [State.same, State.coresEmpty] at hr ⊢

theorem calm_cores (s : State) : s.calm.fw.cores = s.fw.cores := by
  unfold State.calm
  split_ifs <;> rfl

/-- A re-power that begins is all that may follow. -/
theorem repowerCores_cases (s : State) : s.repowerCores = s ∨ ∃ d, s.repowerCores = s.beginRepower d := by
  unfold State.repowerCores
  split
  · exact .inr ⟨_, rfl⟩
  · exact .inl rfl

theorem repowerCores_cores (s : State) : s.repowerCores.fw.cores = s.fw.cores := by
  rcases repowerCores_cases s with h | ⟨d, h⟩
  · rw [h]
  · rw [h]
    unfold State.beginRepower
    rw [calm_cores]
    exact congrArg Fw.cores
      (State.raise_keeps _ _ _ (State.modPwr_keeps s _ (Keeps.refl s [.pwr]) (by simp)) .fw (by simp))

theorem repowerCores_keepsRegs (s : State) : KeepsRegs s s.repowerCores [Reg.THERM_PWR_STATUS] := by
  rcases repowerCores_cases s with h | ⟨d, h⟩ <;> rw [h]
  · exact KeepsRegs.refl _ _
  · unfold State.beginRepower
    refine KeepsRegs.of_regs (KeepsRegs.raise ?_ (by simp) _) (calm_regs _)
    exact (KeepsRegs.refl s _).of_regs rfl

/-- What the reset of all cores leaves (R327). -/
structure AllReset (s t : State) : Prop where
  fwState : t.fwState = 0
  halted : ∀ k : Fin 4, t.fw.cores[k].run = false
  sched : t.sched = Sched.init
  pkg : t.pkg = Package.init
  mgt : t.mgt = s.mgt.emptied
  cleared : ∀ o, emulatedOff o = true → t.rd o = regReset o
  kept : ∀ o, emulatedOff o = false → o ∉ Reg.FW_STATUS :: Reg.THERM_PWR_STATUS :: inhibitRegs → t.rd o = s.rd o
  keeps : Keeps s t [.mgt, .paths, .seq, .fw, .sched, .pkg, .inbox, .tests, .age, .pwr]

theorem thermPwrStatus_notEmulated : emulatedOff Reg.THERM_PWR_STATUS = false := by decide

theorem coresEmpty_regs (s s0 : State) : (s.coresEmpty s0).regs = s.regs := rfl

theorem fwInit_run : ∀ k : Fin 4, Fw.init.cores[k].run = false := by decide

theorem coresEmpty_halted (s s0 : State) (k : Fin 4) : (s.coresEmpty s0).fw.cores[k].run = false := fwInit_run k

theorem coresEmpty_sched (s s0 : State) : (s.coresEmpty s0).sched = Sched.init := rfl

theorem coresEmpty_pkg (s s0 : State) : (s.coresEmpty s0).pkg = Package.init := rfl

theorem resetAll_rd (s : State) {o : Nat} (hstatus : o ≠ Reg.FW_STATUS) (hpwr : o ≠ Reg.THERM_PWR_STATUS) :
    s.resetAll.rd o = if emulatedOff o then regReset o else s.opsEnded.rd o := by
  rw [resetAll_eq, repowerCores_keepsRegs _ o (by simpa using hpwr), State.rd_congr (coresEmpty_regs _ _),
    emuCleared_keepsRegs _ o (by simpa using hstatus), rd_resetRegs]

theorem resetAll_allReset (s : State) : AllReset s s.resetAll := by
  have hpower : Keeps (s.opsEnded.emuCleared.coresEmpty s) s.resetAll [.pwr, .fw] := by
    rw [resetAll_eq]
    exact State.repowerCores_keeps _ (Keeps.refl _ _) (by simp) (by simp)
  have hempty := coresEmpty_keeps s.opsEnded.emuCleared s
  refine ⟨?_, fun k => ?_, ?_, ?_, ?_, fun o ho => ?_, fun o ho hnot => ?_, ?_⟩
  · have hregs := repowerCores_keepsRegs (s.opsEnded.emuCleared.coresEmpty s) Reg.FW_STATUS (by decide)
    rw [← resetAll_eq] at hregs
    exact (State.gf_congr hregs _).trans ((fwState_congr (coresEmpty_regs _ _)).trans (emuCleared_fwState _))
  · rw [resetAll_eq, repowerCores_cores]
    exact coresEmpty_halted _ _ k
  · exact (hpower .sched (by simp)).trans (coresEmpty_sched _ _)
  · exact (hpower .pkg (by simp)).trans (coresEmpty_pkg _ _)
  · refine (hpower .mgt (by simp)).trans ((hempty .mgt (by simp)).trans ((emuCleared_mgt _).trans ?_))
    exact congrArg MgtPort.emptied (opsEnded_keeps s .mgt (by simp))
  · have hstatus : o ≠ Reg.FW_STATUS := fun h => by simp [h, fwStatus_notEmulated] at ho
    have hpwr : o ≠ Reg.THERM_PWR_STATUS := fun h => by simp [h, thermPwrStatus_notEmulated] at ho
    rw [resetAll_rd s hstatus hpwr, if_pos ho]
  · obtain ⟨hstatus, hpwr, hinhibit⟩ : o ≠ Reg.FW_STATUS ∧ o ≠ Reg.THERM_PWR_STATUS ∧ o ∉ inhibitRegs :=
      ⟨List.ne_of_not_mem_cons hnot, List.ne_of_not_mem_cons (List.not_mem_of_not_mem_cons hnot),
        List.not_mem_of_not_mem_cons (List.not_mem_of_not_mem_cons hnot)⟩
    rw [resetAll_rd s hstatus hpwr, if_neg (by simp [ho]), opsEnded_keepsRegs s o hinhibit]
  · refine Keeps.trans (t := s.opsEnded.emuCleared) (Keeps.trans (t := s.opsEnded) ?_ ?_)
      (Keeps.trans (t := s.opsEnded.emuCleared.coresEmpty s) ?_ ?_)
    · exact fun r hr => opsEnded_keeps s r (by simp_all)
    · exact fun r hr => emuCleared_keeps s.opsEnded r (by simp_all)
    · exact fun r hr => hempty r (by simp_all)
    · exact fun r hr => hpower r (by simp_all)

theorem resetAllCores_all {s : State} (h : s.fwState ≠ 6) : resetAllCores false s = s.resetAll := by
  unfold resetAllCores
  rw [if_neg h, if_neg (by decide)]

theorem gives_resetCores (s : State) (v : Word) (h : Command s v 6) (hall : (cwArg v).testBit 0 = false) :
    Gives .resetCores s fun t =>
      ResultSent s t 6 0 ∧ t.chain.taken = s.noCommand 6 ∧ t.fwState = 0 ∧ (∀ k : Fin 4, t.fw.cores[k].run = false) ∧
        t.sched = Sched.init ∧ t.pkg = Package.init ∧ t.mgt = s.mgt.emptied ∧
        (∀ o, emulatedOff o = true → t.rd o = regReset o) ∧
        (∀ o, emulatedOff o = false → o ∉ Reg.FW_STATUS :: Reg.THERM_PWR_STATUS :: inhibitRegs → t.rd o = s.rd o) ∧
        Keeps s t [.chain, .mgt, .free, .paths, .seq, .fw, .sched, .pkg, .inbox, .tests, .age, .pwr] := by
  refine ⟨_, exec_resetCores h, ?_⟩
  rw [resetCores_command h, hall, resetAllCores_all (State.resetAnswered_fwState h)]
  have hreset := resetAll_allReset s.resetAnswered
  obtain ⟨hsent, htaken⟩ := resetAnswered_sent (hreset.keeps .chain (by simp))
  have hmgt : s.resetAnswered.mgt = s.mgt := resetAnswered_keeps s .mgt (by simp)
  refine ⟨hsent, htaken, hreset.fwState, hreset.halted, hreset.sched, hreset.pkg, ?_, hreset.cleared, ?_, ?_⟩
  · rw [hreset.mgt, hmgt]
  · exact fun o ho hnot => (hreset.kept o ho hnot).trans (State.rd_congr (resetAnswered_regs s) o)
  · exact Keeps.trans (t := s.resetAnswered) (fun r hr => resetAnswered_keeps s r (by simp_all))
      fun r hr => hreset.keeps r (by simp_all)

/-- Settles O52: each command's row is taken apart into the word it takes, what it does and the answer it sends. -/
theorem chainCommands : Obligations.ChainCommands :=
  ⟨gives_cmdStatus, gives_trainD2d_both, gives_trainD2d_ignored,
    fun _ _ h hnamed ⟨heast, hwest, hself⟩ ⟨hstrap, hlive⟩ ⟨hwait, hout, htransit, hring⟩ =>
      gives_retrainD2d_east h hnamed heast hwest hself hstrap hlive hwait hout htransit hring,
    gives_resetCores, gives_resetCores_idle, gives_reservedChainCommand, gives_result_beforeGo, gives_result_trains,
    gives_relay_down_part, gives_relay_down_telemetry, gives_trainD2d, gives_retrainD2d, gives_resetCores_orderly,
    gives_result, gives_relay_down_last, gives_relay_up_part, gives_relay_up_telemetry⟩

end Sys2Proof.Machine
end

section
/-! SUPPORT. The clamps and refusals of PC_REF_CTRL, PC_REF_TEMP and PC_LACE (O17). -/

namespace Sys2Proof.Machine

/-! ### Writes that the sensor and management island takes (R56, R523) -/

section taken

variable {s t : State} {rs : List Nat}

theorem mgtWrite_taken (hr : s.mgtReady = true) (hl : s.live .sensor = true) (t : State) :
    s.mgtWrite .sensor t = t.mgtDone false 0 := by
  simp [State.mgtWrite, hr, hl]

theorem exec_pcRefCtrlWrite (hr : s.mgtReady = true) (hl : s.live .sensor = true) (v events : Word) :
    exec (.pcRefCtrlWrite v events) s = .next ((refCtrlWrite v events s).mgtDone false 0) :=
  congrArg Host.Outcome.next (mgtWrite_taken hr hl _)

theorem exec_pcRefTempWrite (hr : s.mgtReady = true) (hl : s.live .sensor = true) (v : Word) :
    exec (.pcRefTempWrite v) s = .next ((refTempWrite v s).mgtDone false 0) :=
  congrArg Host.Outcome.next (mgtWrite_taken hr hl _)

theorem exec_pcLaceWrite (hr : s.mgtReady = true) (hl : s.live .sensor = true) (v : Word) :
    exec (.pcLaceWrite v) s = .next ((laceWrite v s).mgtDone false 0) :=
  congrArg Host.Outcome.next (mgtWrite_taken hr hl _)

/-- A completed write whose effect stays within registers is answered, and nothing else changes. -/
theorem registersAnswered (hk : Keeps s t []) (hregs : KeepsRegs s t rs) :
    Answered s (t.mgtDone false 0) false ∧ Keeps s (t.mgtDone false 0) [.mgt] ∧ KeepsRegs s (t.mgtDone false 0) rs :=
  ⟨answered_mgtDone (hk .mgt (by simp)) _, keeps_mgtDone (fun r _ => hk r (by simp)) _ _, keepsRegs_mgtDone hregs _ _⟩

theorem rd_mgtDone (t : State) (err : Bool) (x : Word) (o : Nat) : (t.mgtDone err x).rd o = t.rd o :=
  State.rd_congr rfl o

theorem gf_mgtDone (t : State) (err : Bool) (x : Word) (o : Nat) (f : Fld) : (t.mgtDone err x).gf o f = t.gf o f :=
  State.gf_congr (rd_mgtDone t err x o) f

theorem bit_mgtDone (t : State) (err : Bool) (x : Word) (o : Nat) (f : Fld) : (t.mgtDone err x).bit o f = t.bit o f :=
  State.bit_congr (rd_mgtDone t err x o) f

theorem interval_mgtDone (t : State) (err : Bool) (x : Word) : (t.mgtDone err x).interval = t.interval :=
  gf_mgtDone ..

theorem State.raiseIf_false (s : State) (o : Nat) (f : Fld) : s.raiseIf false o f = s := rfl

theorem State.gf_raiseIf_apart (s : State) (c : Bool) (o : Nat) (f g : Fld) (h : f.lo + f.width ≤ 32)
    (hd : g.lo + g.width ≤ f.lo ∨ f.lo + f.width ≤ g.lo) : (s.raiseIf c o f).gf o g = s.gf o g := by
  cases c
  · rfl
  · exact State.gf_sf_apart s o f g 1 h hd

theorem State.gf_raiseIf_other (s : State) (c : Bool) (o : Nat) {a : Nat} (f g : Fld) (h : a ≠ o) :
    (s.raiseIf c o f).gf a g = s.gf a g :=
  State.gf_congr (State.rd_raiseIf_ne _ _ _ _ c h) g

theorem State.raiseIf_keeps_all (s : State) (c : Bool) (o : Nat) (f : Fld) : Keeps s (s.raiseIf c o f) [] := by
  cases c
  · exact Keeps.refl _ _
  · exact State.sf_keeps _ _ _ _ (Keeps.refl _ _)

theorem State.bit_sf_same (s : State) (o : Nat) {f : Fld} (v : Nat) (h : f.lo + f.width ≤ 32) (hw : f.width = 1) :
    (s.sf o f v).bit o f = decide (v % 2 = 1) := by
  simp [State.bit, State.gf_sf_same s o f v h, hw]

end taken

/-! ### PC_REF_CTRL (R18, R158, R175) -/

/-- The interval that a written value stands for: even, and at the nearer limit (R158). -/
def evenInterval (raw : Nat) : Nat := max 1000 (min 3900 (raw / 2 * 2))

/-- A W1C flag of PC_REF_CTRL after a write: set by an event of the same cycle, or kept where no 1 was written (R18). -/
def flagLeft (old v events : Word) (k : Nat) : Nat :=
  if events.getLsbD k ∨ old.getLsbD k ∧ !v.getLsbD k then 1 else 0

/-- PC_REF_CTRL with the flags and FORCE_DOUBLE written, before INTERVAL (R18, R175). -/
def State.refFlagged (s : State) (v events : Word) : State :=
  ((s.sf Reg.PC_REF_CTRL Fld.PC_REF_CTRL_FORCE_DOUBLE (natBits v.toNat 31 1)).sf Reg.PC_REF_CTRL
    Fld.PC_REF_CTRL_REF_CLAMPED (flagLeft (s.rd Reg.PC_REF_CTRL) v events 30)).sf Reg.PC_REF_CTRL
    Fld.PC_REF_CTRL_REF_WRITE_REFUSED (flagLeft (s.rd Reg.PC_REF_CTRL) v events 29)

theorem refCtrlWrite_eq (v events : Word) (s : State) :
    refCtrlWrite v events s = (s.refFlagged v events).storeInterval (natBits v.toNat 0 13) := rfl

section refCtrl

variable (s : State) (v events : Word) (raw : Nat)

/-- The written flags leave every field but themselves. -/
theorem refFlagged_keepsFields : KeepsFields s (s.refFlagged v events) Reg.PC_REF_CTRL
    [Fld.PC_REF_CTRL_FORCE_DOUBLE, Fld.PC_REF_CTRL_REF_CLAMPED, Fld.PC_REF_CTRL_REF_WRITE_REFUSED] :=
  (((KeepsFields.refl _ _ _).sf (by simp) (by decide) _).sf (by simp) (by decide) _).sf (by simp) (by decide) _

theorem refFlagged_keeps : Keeps s (s.refFlagged v events) [] :=
  State.sf_keeps _ _ _ _ (State.sf_keeps _ _ _ _ (State.sf_keeps _ _ _ _ (Keeps.refl _ _)))

theorem refFlagged_keepsRegs : KeepsRegs s (s.refFlagged v events) [Reg.PC_REF_CTRL] :=
  (((KeepsRegs.refl _ _).sf (by simp) _ _).sf (by simp) _ _).sf (by simp) _ _

theorem refFlagged_forceDouble :
    (s.refFlagged v events).bit Reg.PC_REF_CTRL Fld.PC_REF_CTRL_FORCE_DOUBLE = v.getLsbD 31 := by
  rw [State.refFlagged, State.bit_sf_apart _ _ _ _ _ (by decide) (by decide),
    State.bit_sf_apart _ _ _ _ _ (by decide) (by decide), State.bit_sf_same _ _ _ (by decide) rfl]
  simp [natBits, BitVec.getLsbD, Nat.testBit_eq_decide_div_mod_eq]

/-- An event in the cycle of the write leaves REF_CLAMPED set (R18). -/
theorem refFlagged_clamped (he : events.getLsbD 30 = true) :
    (s.refFlagged v events).bit Reg.PC_REF_CTRL Fld.PC_REF_CTRL_REF_CLAMPED = true := by
  rw [State.refFlagged, State.bit_sf_apart _ _ _ _ _ (by decide) (by decide),
    State.bit_sf_same _ _ _ (by decide) rfl, flagLeft, if_pos (.inl he)]
  rfl

theorem refFlagged_interval : (s.refFlagged v events).interval = s.interval :=
  refFlagged_keepsFields s v events _ (by decide)

theorem refFlagged_locked :
    (s.refFlagged v events).bit Reg.PC_LACE Fld.PC_LACE_LOCK = s.bit Reg.PC_LACE Fld.PC_LACE_LOCK :=
  State.bit_congr (refFlagged_keepsRegs s v events _ (by decide)) _

theorem storeInterval_keeps : Keeps s (s.storeInterval raw) [] :=
  ite_keeps (State.sf_keeps _ _ _ _ (Keeps.refl _ _))
    (Keeps.trans (State.sf_keeps _ _ _ _ (Keeps.refl _ _)) (State.raiseIf_keeps_all _ _ _ _))

theorem storeInterval_keepsRegs : KeepsRegs s (s.storeInterval raw) [Reg.PC_REF_CTRL] :=
  ((KeepsRegs.refl _ _).raise (by simp) _).ite
    (((KeepsRegs.refl _ _).sf (by simp) _ _).raiseIf (by simp) _ _)

/-- Neither a stored nor a refused value of INTERVAL touches FORCE_DOUBLE. -/
theorem storeInterval_forceDouble : (s.storeInterval raw).bit Reg.PC_REF_CTRL Fld.PC_REF_CTRL_FORCE_DOUBLE =
    s.bit Reg.PC_REF_CTRL Fld.PC_REF_CTRL_FORCE_DOUBLE := by
  unfold State.storeInterval
  dsimp only
  split
  · exact State.bit_sf_apart _ _ _ _ _ (by decide) (by decide)
  · rw [State.bit, State.gf_raiseIf_apart _ _ _ _ _ (by decide) (by decide)]
    exact State.bit_sf_apart _ _ _ _ _ (by decide) (by decide)

variable {s}

/-- While LOCK is 0, or with no change, a value of INTERVAL is stored (R158, R175). -/
theorem storeInterval_open (hlock : s.bit Reg.PC_LACE Fld.PC_LACE_LOCK = false) : s.storeInterval raw =
    (s.sf Reg.PC_REF_CTRL Fld.PC_REF_CTRL_INTERVAL (evenInterval raw)).raiseIf
      (decide (raw < 1000) || decide (3900 < raw / 2 * 2)) Reg.PC_REF_CTRL Fld.PC_REF_CTRL_REF_CLAMPED := by
  simp [State.storeInterval, hlock, evenInterval]

theorem storeInterval_locked (hlock : s.bit Reg.PC_LACE Fld.PC_LACE_LOCK = true) (hne : evenInterval raw ≠ s.interval) :
    s.storeInterval raw = s.raise Reg.PC_REF_CTRL Fld.PC_REF_CTRL_REF_WRITE_REFUSED := by
  have hne' : max 1000 (min 3900 (raw / 2 * 2)) ≠ s.interval := hne
  simp [State.storeInterval, hlock, hne']

theorem storeInterval_interval (hlock : s.bit Reg.PC_LACE Fld.PC_LACE_LOCK = false) :
    (s.storeInterval raw).interval = evenInterval raw := by
  rw [storeInterval_open raw hlock, State.interval, State.gf_raiseIf_apart _ _ _ _ _ (by decide) (by decide),
    State.gf_sf_same _ _ _ _ (by decide)]
  exact Nat.mod_eq_of_lt (by simp only [evenInterval, Fld.PC_REF_CTRL_INTERVAL]; omega)

theorem storeInterval_clamped (hlock : s.bit Reg.PC_LACE Fld.PC_LACE_LOCK = false)
    (hc : raw < 1000 ∨ 3901 < raw ∨ s.bit Reg.PC_REF_CTRL Fld.PC_REF_CTRL_REF_CLAMPED = true) :
    (s.storeInterval raw).bit Reg.PC_REF_CTRL Fld.PC_REF_CTRL_REF_CLAMPED = true := by
  rw [storeInterval_open raw hlock]
  refine State.bit_raiseIf _ _ _ _ (by decide) rfl ?_
  rw [State.bit_sf_apart _ _ _ _ _ (by decide) (by decide)]
  rcases hc with hc | hc | hc
  · exact .inl (by simp [hc])
  · exact .inl (by simp; omega)
  · exact .inr hc

end refCtrl

theorem written_interval (v : Word) : natBits v.toNat 0 13 = v.toNat % 8192 := by simp [natBits]

theorem refCtrlWrite_frame (s : State) (v events : Word) :
    Keeps s (refCtrlWrite v events s) [] ∧ KeepsRegs s (refCtrlWrite v events s) [Reg.PC_REF_CTRL] :=
  ⟨Keeps.trans (refFlagged_keeps s v events) (storeInterval_keeps _ _),
    (refFlagged_keepsRegs s v events).trans (storeInterval_keepsRegs _ _)⟩

theorem refCtrlWrite_interval {s : State} (v events : Word) (hlock : s.bit Reg.PC_LACE Fld.PC_LACE_LOCK = false) :
    (refCtrlWrite v events s).interval = evenInterval (v.toNat % 8192) := by
  rw [refCtrlWrite_eq, storeInterval_interval _ ((refFlagged_locked s v events).trans hlock), written_interval]

/-- A clamped write, and an event in the cycle of the write, leave REF_CLAMPED set (R18, R158). -/
theorem refCtrlWrite_clamped {s : State} (v events : Word) (hlock : s.bit Reg.PC_LACE Fld.PC_LACE_LOCK = false)
    (hc : v.toNat % 8192 < 1000 ∨ 3901 < v.toNat % 8192 ∨ events.getLsbD 30 = true) :
    (refCtrlWrite v events s).bit Reg.PC_REF_CTRL Fld.PC_REF_CTRL_REF_CLAMPED = true := by
  rw [refCtrlWrite_eq, written_interval]
  exact storeInterval_clamped _ ((refFlagged_locked s v events).trans hlock)
    (hc.imp_right (Or.imp_right (refFlagged_clamped s v events)))

/-- While LOCK is 1 a write that would change INTERVAL sets REF_WRITE_REFUSED instead (R175). -/
theorem refCtrlWrite_locked {s : State} (v events : Word) (hlock : s.bit Reg.PC_LACE Fld.PC_LACE_LOCK = true)
    (hne : evenInterval (v.toNat % 8192) ≠ s.interval) : refCtrlWrite v events s =
      (s.refFlagged v events).raise Reg.PC_REF_CTRL Fld.PC_REF_CTRL_REF_WRITE_REFUSED := by
  rw [refCtrlWrite_eq, written_interval]
  exact storeInterval_locked _ ((refFlagged_locked s v events).trans hlock) (by rwa [refFlagged_interval])

theorem refCtrlWrite_forceDouble (s : State) (v events : Word) :
    (refCtrlWrite v events s).bit Reg.PC_REF_CTRL Fld.PC_REF_CTRL_FORCE_DOUBLE = v.getLsbD 31 :=
  (storeInterval_forceDouble _ _).trans (refFlagged_forceDouble s v events)

/-- While LOCK is 0 INTERVAL takes the value written, clamped and even (R158, R175). -/
theorem gives_pcRefCtrlWrite_open (s : State) (v events : Word) (hr : s.mgtReady = true)
    (hl : s.live .sensor = true) (hlock : s.bit Reg.PC_LACE Fld.PC_LACE_LOCK = false) :
    Gives (.pcRefCtrlWrite v events) s fun t =>
      t.interval = evenInterval (v.toNat % 8192) ∧
        t.bit Reg.PC_REF_CTRL Fld.PC_REF_CTRL_FORCE_DOUBLE = v.getLsbD 31 ∧
        (v.toNat % 8192 < 1000 ∨ 3901 < v.toNat % 8192 ∨ events.getLsbD 30 = true →
          t.bit Reg.PC_REF_CTRL Fld.PC_REF_CTRL_REF_CLAMPED = true) ∧
        Answered s t false ∧ Keeps s t [.mgt] ∧ KeepsRegs s t [Reg.PC_REF_CTRL] := by
  obtain ⟨hk, hregs⟩ := refCtrlWrite_frame s v events
  refine ⟨_, exec_pcRefCtrlWrite hr hl v events, ?_⟩
  simp only [interval_mgtDone, bit_mgtDone]
  exact ⟨refCtrlWrite_interval v events hlock, refCtrlWrite_forceDouble s v events,
    refCtrlWrite_clamped v events hlock, registersAnswered hk hregs⟩

/-- While LOCK is 1 a change of INTERVAL is refused (R175). -/
theorem gives_pcRefCtrlWrite_locked (s : State) (v events : Word) (hr : s.mgtReady = true)
    (hl : s.live .sensor = true) (hlock : s.bit Reg.PC_LACE Fld.PC_LACE_LOCK = true)
    (hne : evenInterval (v.toNat % 8192) ≠ s.interval) :
    Gives (.pcRefCtrlWrite v events) s fun t =>
      t.interval = s.interval ∧ t.bit Reg.PC_REF_CTRL Fld.PC_REF_CTRL_REF_WRITE_REFUSED = true ∧
        t.bit Reg.PC_REF_CTRL Fld.PC_REF_CTRL_FORCE_DOUBLE = v.getLsbD 31 ∧
        Answered s t false ∧ Keeps s t [.mgt] ∧ KeepsRegs s t [Reg.PC_REF_CTRL] := by
  obtain ⟨hk, hregs⟩ := refCtrlWrite_frame s v events
  have hrefused := refCtrlWrite_locked v events hlock hne
  refine ⟨_, exec_pcRefCtrlWrite hr hl v events, ?_⟩
  simp only [interval_mgtDone, bit_mgtDone]
  refine ⟨?_, ?_, refCtrlWrite_forceDouble s v events, registersAnswered hk hregs⟩
  · rw [hrefused, State.interval, State.raise, State.gf_sf_apart _ _ _ _ _ (by decide) (by decide)]
    exact refFlagged_interval s v events
  · rw [hrefused]
    exact State.bit_raise _ _ _ (by decide) rfl

/-! ### PC_REF_TEMP (R176) -/

/-- DOUBLE_TEMP as a written value leaves it: the nearer limit of 20.0 to 34.0 °C above the base (R176). -/
def doubleTemp (v : Word) : Int := max 200 (min 340 (signedOf 10 (natBits v.toNat 16 10)))

/-- BASE_TEMP as a written value leaves it: in its range, and at least 4 below DOUBLE_TEMP (R176). -/
def baseTemp (v : Word) : Int := min (max 180 (min 336 (signedOf 10 (natBits v.toNat 0 10)))) (doubleTemp v - 4)

theorem refTempWrite_eq (v : Word) (s : State) : refTempWrite v s =
    (s.wr Reg.PC_REF_TEMP (BitVec.ofNat 32 ((doubleTemp v).toNat * 2 ^ 16 + (baseTemp v).toNat))).raiseIf
      (decide (signedOf 10 (natBits v.toNat 16 10) ≠ doubleTemp v) ||
        decide (signedOf 10 (natBits v.toNat 0 10) ≠ baseTemp v)) Reg.PC_REF_CTRL Fld.PC_REF_CTRL_REF_CLAMPED := rfl

theorem doubleTemp_range (v : Word) : 200 ≤ doubleTemp v ∧ doubleTemp v ≤ 340 := by
  unfold doubleTemp
  omega

theorem baseTemp_range (v : Word) : 180 ≤ baseTemp v ∧ baseTemp v + 4 ≤ doubleTemp v := by
  have := doubleTemp_range v
  unfold baseTemp
  omega

/-- A threshold below 512 is not negative. -/
theorem signedOf_small {x : Nat} (h : x < 512) : signedOf 10 x = x := by
  simp only [signedOf]
  rw [Nat.mod_eq_of_lt (by omega), if_pos (by omega)]

section refTemp

variable (s : State) (v : Word)

theorem refTempWrite_double :
    (refTempWrite v s).gf Reg.PC_REF_TEMP Fld.PC_REF_TEMP_DOUBLE_TEMP = (doubleTemp v).toNat := by
  obtain ⟨hd, hd'⟩ := doubleTemp_range v
  obtain ⟨hb, hb'⟩ := baseTemp_range v
  rw [refTempWrite_eq, State.gf_raiseIf_other _ _ _ _ _ (by decide), State.gf_wr_ofNat _ _ _ (by decide)]
  simp only [natBits, Fld.PC_REF_TEMP_DOUBLE_TEMP]
  omega

theorem refTempWrite_base : (refTempWrite v s).gf Reg.PC_REF_TEMP Fld.PC_REF_TEMP_BASE_TEMP = (baseTemp v).toNat := by
  obtain ⟨hd, hd'⟩ := doubleTemp_range v
  obtain ⟨hb, hb'⟩ := baseTemp_range v
  rw [refTempWrite_eq, State.gf_raiseIf_other _ _ _ _ _ (by decide), State.gf_wr_ofNat _ _ _ (by decide)]
  simp only [natBits, Fld.PC_REF_TEMP_BASE_TEMP]
  omega

/-- Thresholds within their ranges are taken as written, without REF_CLAMPED (R176). -/
theorem refTempWrite_unclamped (hd : 200 ≤ natBits v.toNat 16 10) (hd' : natBits v.toNat 16 10 ≤ 340)
    (hb : 180 ≤ natBits v.toNat 0 10) (hb' : natBits v.toNat 0 10 + 4 ≤ natBits v.toNat 16 10) :
    doubleTemp v = natBits v.toNat 16 10 ∧ baseTemp v = natBits v.toNat 0 10 ∧
      (refTempWrite v s).rd Reg.PC_REF_CTRL = s.rd Reg.PC_REF_CTRL := by
  have hsd : signedOf 10 (natBits v.toNat 16 10) = natBits v.toNat 16 10 := signedOf_small (by omega)
  have hsb : signedOf 10 (natBits v.toNat 0 10) = natBits v.toNat 0 10 := signedOf_small (by omega)
  have hdouble : doubleTemp v = natBits v.toNat 16 10 := by rw [doubleTemp, hsd]; omega
  have hbase : baseTemp v = natBits v.toNat 0 10 := by rw [baseTemp, hdouble, hsb]; omega
  refine ⟨hdouble, hbase, ?_⟩
  rw [refTempWrite_eq, hsd, hsb, hdouble, hbase]
  simp only [ne_eq, not_true_eq_false, decide_false, Bool.or_false, State.raiseIf_false]
  exact State.rd_wr_ne _ _ _ (by decide)

theorem refTempWrite_frame : Keeps s (refTempWrite v s) [] ∧
    KeepsRegs s (refTempWrite v s) [Reg.PC_REF_TEMP, Reg.PC_REF_CTRL] :=
  ⟨Keeps.trans (State.wr_keeps _ _ _ (Keeps.refl _ _)) (State.raiseIf_keeps_all _ _ _ _),
    ((KeepsRegs.refl _ _).wr (by simp) _).raiseIf (by simp) _ _⟩

end refTemp

/-- The thresholds stay in their ranges, and those written within them are taken (R176). -/
theorem gives_pcRefTempWrite (s : State) (v : Word) (hr : s.mgtReady = true) (hl : s.live .sensor = true) :
    Gives (.pcRefTempWrite v) s fun t =>
      200 ≤ t.gf Reg.PC_REF_TEMP Fld.PC_REF_TEMP_DOUBLE_TEMP ∧ t.gf Reg.PC_REF_TEMP Fld.PC_REF_TEMP_DOUBLE_TEMP ≤ 340 ∧
        t.gf Reg.PC_REF_TEMP Fld.PC_REF_TEMP_BASE_TEMP + 4 ≤ t.gf Reg.PC_REF_TEMP Fld.PC_REF_TEMP_DOUBLE_TEMP ∧
        (200 ≤ v.toNat / 65536 % 1024 ∧ v.toNat / 65536 % 1024 ≤ 340 ∧ 180 ≤ v.toNat % 1024 ∧
            v.toNat % 1024 + 4 ≤ v.toNat / 65536 % 1024 →
          t.gf Reg.PC_REF_TEMP Fld.PC_REF_TEMP_DOUBLE_TEMP = v.toNat / 65536 % 1024 ∧
            t.gf Reg.PC_REF_TEMP Fld.PC_REF_TEMP_BASE_TEMP = v.toNat % 1024 ∧
            t.rd Reg.PC_REF_CTRL = s.rd Reg.PC_REF_CTRL) ∧
        Answered s t false ∧ Keeps s t [.mgt] ∧ KeepsRegs s t [Reg.PC_REF_TEMP, Reg.PC_REF_CTRL] := by
  obtain ⟨hk, hregs⟩ := refTempWrite_frame s v
  obtain ⟨hd, hd'⟩ := doubleTemp_range v
  obtain ⟨hb, hb'⟩ := baseTemp_range v
  have hdouble : natBits v.toNat 16 10 = v.toNat / 65536 % 1024 := rfl
  have hbase : natBits v.toNat 0 10 = v.toNat % 1024 := by simp [natBits]
  refine ⟨_, exec_pcRefTempWrite hr hl v, ?_⟩
  simp only [gf_mgtDone, rd_mgtDone, refTempWrite_double, refTempWrite_base]
  refine ⟨by omega, by omega, by omega, fun ⟨h1, h2, h3, h4⟩ => ?_, registersAnswered hk hregs⟩
  obtain ⟨e1, e2, hctrl⟩ := refTempWrite_unclamped s v (hdouble ▸ h1) (hdouble ▸ h2) (hbase ▸ h3) (by omega)
  exact ⟨by rw [e1, hdouble]; rfl, by rw [e2, hbase]; rfl, hctrl⟩

/-! ### PC_LACE (R90) -/

theorem gives_pcLaceWrite_open (s : State) (v : Word) (hr : s.mgtReady = true) (hl : s.live .sensor = true)
    (hlock : s.bit Reg.PC_LACE Fld.PC_LACE_LOCK = false) :
    Gives (.pcLaceWrite v) s fun t =>
      t.rd Reg.PC_LACE = v &&& 0x1F3F#32 ∧ Answered s t false ∧ Keeps s t [.mgt] ∧ KeepsRegs s t [Reg.PC_LACE] := by
  have hw : laceWrite v s = s.wr Reg.PC_LACE (v &&& 0x1F3F#32) := by simp [laceWrite, hlock]
  refine ⟨_, exec_pcLaceWrite hr hl v, ?_⟩
  rw [hw]
  exact ⟨State.rd_wr_self s .., storedAccess ..⟩

theorem gives_pcLaceWrite_locked (s : State) (v : Word) (hr : s.mgtReady = true) (hl : s.live .sensor = true)
    (hlock : s.bit Reg.PC_LACE Fld.PC_LACE_LOCK = true) :
    Gives (.pcLaceWrite v) s fun t => Answered s t false ∧ Keeps s t [.mgt] ∧ KeepsRegs s t [] := by
  have hw : laceWrite v s = s := by simp [laceWrite, hlock]
  refine ⟨_, exec_pcLaceWrite hr hl v, ?_⟩
  rw [hw]
  exact registersAnswered (Keeps.refl _ _) (KeepsRegs.refl _ _)

/-- Settles O17: each clause is the row's, with the clamp of its register. -/
theorem refreshRegisters : Obligations.RefreshRegisters :=
  ⟨gives_pcRefCtrlWrite_open, gives_pcRefCtrlWrite_locked, gives_pcRefTempWrite, gives_pcLaceWrite_open,
    gives_pcLaceWrite_locked⟩

end Sys2Proof.Machine
end

section
/-! SUPPORT. The debug port, and the runs of the copier and the margin engine (O24). -/

namespace Sys2Proof.Machine

/-- A location names a row of its own PC, so that the PC of its rank is that PC (R83). -/
theorem pc_ofGroup (g : Fin 4) (p : Fin 64) : (g.val * 64 + p.val) % 64 = p.val := by
  have := p.isLt
  omega

/-! ### Changes of one PC -/

section onePc

variable {s : State} {p : Fin 64} {f : Pc → Pc}

theorem pcs_modPc_same : (s.modPc p f).pcs[p] = f s.pcs[p] := by rw [State.pcs_modPc, if_pos rfl]

theorem pcs_modPc_other {q : Fin 64} (h : q ≠ p) : (s.modPc p f).pcs[q] = s.pcs[q] := by rw [State.pcs_modPc, if_neg h]

end onePc

/-! ### Debug accesses (R147) -/

section debug

variable {s : State} {l : Loc} {write : Bool} {data : List Byte}

/-- The access that the debug port puts before a PC (R147). -/
def debugPending (id : Nat) (l : Loc) (write : Bool) (data : List Byte) : Access :=
  { id := id, cls := 1, loc := l, addr := none, write := write, data := data, mask := List.replicate 64 true,
    poison := false, owner := .debug }

theorem debugAccess_pending (hrow : l.row < rowsPerBank) (hfree : s.pcs[pcFin l.pc].debugAcc = none) :
    debugAccess l write data s = (s.skipIds 1).modPc (pcFin l.pc) fun c =>
      { c.suspendRuns none with debugAcc := some (debugPending s.paths.nextId l write data) } := by
  simp only [debugAccess, hfree, Option.isSome_none, Bool.false_eq_true, false_or, if_neg (Nat.not_le.mpr hrow)]
  rfl

theorem debugAccess_ignored (h : rowsPerBank ≤ l.row ∨ s.pcs[pcFin l.pc].debugAcc ≠ none) :
    debugAccess l write data s = s :=
  if_pos (h.symm.imp_left Option.isSome_iff_ne_none.mpr)

end debug

theorem gives_debugMemoryAccess (s : State) (rank : BitVec 8) (bg bank : BitVec 2) (row : BitVec 15) (col : BitVec 4)
    (write : Bool) (data : List Byte) (hrow : row.toNat < rowsPerBank)
    (hlive : s.live (.pc (pcFin (rank.toNat % 64))) = true)
    (hfree : s.pcs[pcFin (rank.toNat % 64)].debugAcc = none) :
    Gives (.debugMemoryAccess rank bg bank row col write data) s fun t =>
      t.pcs[pcFin (rank.toNat % 64)].debugAcc.map (fun a => (a.loc, a.write, a.data, a.owner)) =
          some (Loc.mk rank.toNat bg.toNat bank.toNat row.toNat col.toNat, write, data, Owner.debug) ∧
        (∀ q, q ≠ pcFin (rank.toNat % 64) → t.pcs[q] = s.pcs[q]) ∧ Keeps s t [.paths, .pcs] ∧ KeepsRegs s t [] := by
  let l : Loc := ⟨rank.toNat, bg.toNat, bank.toNat, row.toNat, col.toNat⟩
  have hlive' : s.live (.pc (pcFin l.pc)) = true := hlive
  refine ⟨_, congrArg Host.Outcome.next ((State.onLive_true hlive').trans
    (debugAccess_pending (l := l) hrow hfree)), ?_, fun q hq => ?_, ?_, ?_⟩
  · exact congrArg (fun c : Pc => c.debugAcc.map fun a => (a.loc, a.write, a.data, a.owner)) pcs_modPc_same
  · exact (pcs_modPc_other hq).trans rfl
  · exact State.modPc_keeps _ _ _ (State.skipIds_keeps _ _ (Keeps.refl _ _) (by simp)) (by simp)
  · exact (KeepsRegs.refl _ _).of_regs rfl

theorem gives_debugMemoryAccess_ignored (s : State) (rank : BitVec 8) (bg bank : BitVec 2) (row : BitVec 15)
    (col : BitVec 4) (write : Bool) (data : List Byte)
    (h : rowsPerBank ≤ row.toNat ∨ s.live (.pc (pcFin (rank.toNat % 64))) = false ∨
      s.pcs[pcFin (rank.toNat % 64)].debugAcc ≠ none) :
    Gives (.debugMemoryAccess rank bg bank row col write data) s fun t => t = s := by
  let l : Loc := ⟨rank.toNat, bg.toNat, bank.toNat, row.toNat, col.toNat⟩
  suffices hsame : s.onLive (.pc (pcFin l.pc)) (debugAccess l write data s) = s from
    ⟨_, congrArg Host.Outcome.next hsame, rfl⟩
  rcases h with hrow | hdead | hbusy
  · rw [debugAccess_ignored (.inl hrow), State.onLive, ite_self]
  · exact State.onLive_false hdead
  · rw [debugAccess_ignored (.inr hbusy), State.onLive, ite_self]

/-! ### Accesses put on the memory crossbar one after another (R100, R148) -/

/-- A list's accesses, sent in its order. -/
def State.sendAll (s : State) (f : Nat → Access) (l : List Nat) : State := l.foldl (fun t i => t.sendAccess (f i)) s

section sendAll

variable (f : Nat → Access)

/-- Each access stands behind those sent before it, under a number of its own. -/
theorem sendAll_memXbar (l : List Nat) (s : State) : (s.sendAll f l).paths.memXbar =
    s.paths.memXbar ++ (l.zipIdx s.paths.nextId).map fun e => ((f e.1).loc.pc, { f e.1 with id := e.2 }) := by
  induction l generalizing s with
  | nil => simp [State.sendAll]
  | cons i l ih =>
    rw [show s.sendAll f (i :: l) = (s.sendAccess (f i)).sendAll f l from rfl, ih]
    rw [List.zipIdx_cons, List.map_cons, List.append_cons]
    rfl

theorem sendAll_length (l : List Nat) (s : State) :
    (s.sendAll f l).paths.memXbar.length = s.paths.memXbar.length + l.length := by
  rw [sendAll_memXbar, List.length_append, List.length_map, List.length_zipIdx]

/-- Every access of the list is on its way. -/
theorem sendAll_sent {l : List Nat} (s : State) {i : Nat} (hi : i ∈ l) :
    ∃ n, ((f i).loc.pc, { f i with id := n }) ∈ (s.sendAll f l).paths.memXbar := by
  obtain ⟨k, hk, rfl⟩ := List.getElem_of_mem hi
  refine ⟨s.paths.nextId + k, ?_⟩
  rw [sendAll_memXbar, List.mem_append, List.mem_map]
  exact .inr ⟨(l[k], s.paths.nextId + k), List.mk_add_mem_zipIdx_iff_getElem?.mpr (List.getElem?_eq_getElem hk), rfl⟩

/-- What is on its way afterwards was on its way before, or is an access of the list. -/
theorem mem_sendAll {l : List Nat} {s : State} {a : Nat × Access} (ha : a ∈ (s.sendAll f l).paths.memXbar) :
    a ∈ s.paths.memXbar ∨ ∃ i n, a = ((f i).loc.pc, { f i with id := n }) := by
  rw [sendAll_memXbar, List.mem_append, List.mem_map] at ha
  exact ha.imp_right fun ⟨e, _, he⟩ => ⟨e.1, e.2, he.symm⟩

theorem sendAll_pcs (l : List Nat) (s : State) : (s.sendAll f l).pcs = s.pcs :=
  foldl_keeps' (ps := [.paths]) (fun _ _ h => State.sendAccess_keeps _ _ h (by simp)) l (Keeps.refl s _) .pcs (by simp)

theorem sendAll_keepsRegs (l : List Nat) (s : State) : KeepsRegs s (s.sendAll f l) [] :=
  KeepsRegs.foldl l (fun _ _ _ h => h.of_regs rfl) (KeepsRegs.refl _ _)

end sendAll

/-! ### RUN_SUBMIT (R148) -/

/-- A run as it begins: none of its accesses has come back (R148). -/
def newRun (s : State) (p : Fin 64) (write : Bool) (l : Loc) (len : Nat) : Run :=
  { write := write, loc := l, len := len, suspended := false, done := 0, submitted := len, progress := 0,
    startAt := s.pcs[p].cycle }

/-- Access `i` of a run: the burst at the run's column + i, with the run's data (R148). -/
def runAccess (cls : Nat) (owner : Owner) (write : Bool) (l : Loc) (data : List (Bool × List Byte))
    (i : Nat) : Access :=
  { id := 0, cls := cls, loc := { l with col := l.col + i }, addr := none, write := write,
    data := (data.getD i (false, zeros 64)).2, mask := List.replicate 64 true,
    poison := (data.getD i (false, zeros 64)).1, owner := owner }

section submit

variable {s : State} {p : Fin 64} {write : Bool} {l : Loc} {len : Nat} {data : List (Bool × List Byte)}

/-- A PC that has taken a run of a class. -/
def State.holdRun (s : State) (p : Fin 64) (cls : Nat) (r : Run) : State :=
  s.modPc p fun c => if cls = 6 then { c with run6 := some r, lastRun6 := some c.cycle } else { c with run7 := some r }

theorem submitRun_eq (cls : Nat) (owner : Owner) : s.submitRun p cls owner write l len data =
    (s.holdRun p cls (newRun s p write l len)).sendAll (runAccess cls owner write l data) (upto len) := rfl

/-- The fate of a submitted run: the PC holds it, and its accesses are on their way one behind the other (R148). -/
structure Submitted (s t : State) (p : Fin 64) (cls : Nat) (write : Bool) (l : Loc) (len : Nat) : Prop where
  held : t.pcs[p] = (s.holdRun p cls (newRun s p write l len)).pcs[p]
  length : t.paths.memXbar.length = s.paths.memXbar.length + len
  sent : ∀ k, k < len → ∃ a ∈ t.paths.memXbar, a.1 = l.pc ∧ a.2.write = write ∧ a.2.cls = cls ∧
    a.2.loc = { l with col := l.col + k }
  only : ∀ a ∈ t.paths.memXbar, a ∈ s.paths.memXbar ∨ (a.1 = l.pc ∧ a.2.cls = cls ∧ a.2.write = write)
  others : ∀ q, q ≠ p → t.pcs[q] = s.pcs[q]
  keeps : Keeps s t [.paths, .pcs]
  regs : KeepsRegs s t []

theorem submitRun_submitted (cls : Nat) (owner : Owner) :
    Submitted s (s.submitRun p cls owner write l len data) p cls write l len where
  held := by rw [submitRun_eq, sendAll_pcs]
  length := by
    rw [submitRun_eq, sendAll_length, List.length_range]
    rfl
  sent k hk := by
    obtain ⟨n, hn⟩ := sendAll_sent (runAccess cls owner write l data) (s.holdRun p cls (newRun s p write l len))
      (List.mem_range.mpr hk)
    exact ⟨_, hn, rfl, rfl, rfl, rfl⟩
  only a ha := (mem_sendAll _ ha).imp_right fun ⟨_, _, e⟩ => by subst e; exact ⟨rfl, rfl, rfl⟩
  others q hq := by
    rw [submitRun_eq, sendAll_pcs]
    exact pcs_modPc_other hq
  keeps := State.submitRun_keeps _ _ _ _ _ _ _ _ (Keeps.refl _ _) (by simp) (by simp)
  regs := ((KeepsRegs.refl _ _).of_regs (u := s.holdRun p cls (newRun s p write l len)) rfl).trans
    (sendAll_keepsRegs _ _ _)

theorem runSubmit_copier (e : Fin 16) (hfree : s.pcs[p].run6 = none) (hlen : 0 < len) (hfit : l.col + len ≤ 16)
    (hpc : l.pc = p.val) : runSubmit p (some e) write l len data s =
      s.submitRun p 6 (if write then .copyWrite e else .copyRead e) write l len data := by
  simp [-Fin.getElem_fin, runSubmit, hfree, hlen, hfit, hpc, show len ≤ 16 by omega]

theorem runSubmit_margin (hfree : s.pcs[p].run7 = none) (hlen : 0 < len) (hfit : l.col + len ≤ 16)
    (hpc : l.pc = p.val) : runSubmit p none write l len data s = s.submitRun p 7 .margin write l len data := by
  simp [-Fin.getElem_fin, runSubmit, hfree, hlen, hfit, hpc, show len ≤ 16 by omega]

end submit

section clauses

variable (s : State) (p : Fin 64) (write : Bool) (group bg bank : Fin 4) (row : BitVec 15) (col : BitVec 4)
  (len : BitVec 5) (data : List (List Byte))

theorem gives_runSubmit_copier (e : Fin 16) (hlive : s.live (.pc p) = true)
    (hfree : s.pcs[p].run6 = none) (hlen : 0 < len.toNat) (hfit : col.toNat + len.toNat ≤ 16) :
    Gives (.runSubmit p (some e) write group bg bank row col len data) s fun t =>
      t.pcs[p].run6.map (fun r => (r.len, r.write, r.suspended, r.done, r.loc)) =
          some (len.toNat, write, false, 0, Loc.mk (group.val * 64 + p.val) bg bank row.toNat col.toNat) ∧
        t.paths.memXbar.length = s.paths.memXbar.length + len.toNat ∧
        (∀ k : Nat, k < len.toNat → (t.paths.memXbar.any fun a => decide (a.1 = p.val ∧ a.2.write = write ∧
          a.2.cls = 6 ∧ a.2.loc = Loc.mk (group.val * 64 + p.val) bg bank row.toNat (col.toNat + k))) = true) ∧
        (∀ q, q ≠ p → t.pcs[q] = s.pcs[q]) ∧ Keeps s t [.paths, .pcs] ∧ KeepsRegs s t [] := by
  have hpc : (Loc.mk (group.val * 64 + p.val) bg bank row.toNat col.toNat).pc = p.val := pc_ofGroup group p
  refine ⟨_, congrArg Host.Outcome.next ((State.onLive_true hlive).trans
    (runSubmit_copier e hfree hlen hfit hpc)), ?_⟩
  obtain ⟨held, length, sent, -, others, keeps, regs⟩ := submitRun_submitted (s := s) (p := p) (write := write)
    (l := Loc.mk (group.val * 64 + p.val) bg bank row.toNat col.toNat) (len := len.toNat)
    (data := data.map fun d => (false, d)) 6 (if write then .copyWrite e else .copyRead e)
  refine ⟨?_, length, fun k hk => ?_, others, keeps, regs⟩
  · rw [held, State.holdRun, pcs_modPc_same]
    rfl
  · obtain ⟨a, ha, h1, h2, h3, h4⟩ := sent k hk
    exact List.any_eq_true.mpr ⟨a, ha, decide_eq_true ⟨h1.trans hpc, h2, h3, h4⟩⟩

theorem gives_runSubmit_margin (hlive : s.live (.pc p) = true)
    (hfree : s.pcs[p].run7 = none) (hlen : 0 < len.toNat) (hfit : col.toNat + len.toNat ≤ 16) :
    Gives (.runSubmit p none write group bg bank row col len data) s fun t =>
      t.pcs[p].run7.map (fun r => (r.len, r.write, r.suspended, r.done, r.loc)) =
          some (len.toNat, write, false, 0, Loc.mk (group.val * 64 + p.val) bg bank row.toNat col.toNat) ∧
        t.paths.memXbar.length = s.paths.memXbar.length + len.toNat ∧
        (∀ a ∈ t.paths.memXbar, a ∈ s.paths.memXbar ∨ (a.1 = p.val ∧ a.2.cls = 7 ∧ a.2.write = write)) ∧
        (∀ q, q ≠ p → t.pcs[q] = s.pcs[q]) ∧ Keeps s t [.paths, .pcs] ∧ KeepsRegs s t [] := by
  have hpc : (Loc.mk (group.val * 64 + p.val) bg bank row.toNat col.toNat).pc = p.val := pc_ofGroup group p
  refine ⟨_, congrArg Host.Outcome.next ((State.onLive_true hlive).trans
    (runSubmit_margin hfree hlen hfit hpc)), ?_⟩
  obtain ⟨held, length, -, only, others, keeps, regs⟩ := submitRun_submitted (s := s) (p := p) (write := write)
    (l := Loc.mk (group.val * 64 + p.val) bg bank row.toNat col.toNat) (len := len.toNat)
    (data := data.map fun d => (false, d)) 7 .margin
  refine ⟨?_, length, ?_, others, keeps, regs⟩
  · rw [held, State.holdRun, pcs_modPc_same]
    rfl
  · exact fun a ha => (only a ha).imp_right fun ⟨h1, h2⟩ => ⟨h1.trans hpc, h2⟩

end clauses

/-! ### RUN_RESUME (R149) -/

/-- A run that goes on (R149). -/
def Run.resumed (r : Run) : Run := { r with suspended := false }

/-- A run of a PC goes on once its bank is free and no debug access is pending (R149). -/
def Pc.resumeRun (c : Pc) (r : Run) : Run :=
  if (c.bankOf r.loc.bankIx).claim = .none ∧ !c.debugBusy then r.resumed else r

theorem runResume_eq (s : State) (p : Fin 64) (cls7 : Bool) : runResume p cls7 s = s.modPc p fun c =>
    if cls7 then { c with run7 := c.run7.map c.resumeRun } else { c with run6 := c.run6.map c.resumeRun } := rfl

theorem resumeRun_free {c : Pc} {r : Run} (hbank : (c.bankOf r.loc.bankIx).claim = .none)
    (hbusy : c.debugBusy = false) : c.resumeRun r = r.resumed :=
  if_pos ⟨hbank, by simp [hbusy]⟩

section resume

variable (s : State) (p : Fin 64) (r : Run)

theorem runResume_frame (cls7 : Bool) : (∀ q, q ≠ p → (runResume p cls7 s).pcs[q] = s.pcs[q]) ∧
    Keeps s (runResume p cls7 s) [.pcs] ∧ KeepsRegs s (runResume p cls7 s) [] :=
  ⟨fun _ hq => pcs_modPc_other hq, State.modPc_keeps _ _ _ (Keeps.refl _ _) (by simp),
    (KeepsRegs.refl _ _).of_regs rfl⟩

theorem gives_runResume_copier (hlive : s.live (.pc p) = true) (hrun : s.pcs[p].run6 = some r)
    (hbank : (s.pcs[p].bankOf r.loc.bankIx).claim = .none) (hbusy : s.pcs[p].debugBusy = false) :
    Gives (.runResume p false) s fun t =>
      t.pcs[p].run6.map (fun x => (x.suspended, x.progress, x.loc, x.len)) = some (false, r.progress, r.loc, r.len) ∧
        t.pcs[p].run7 = s.pcs[p].run7 ∧ (∀ q, q ≠ p → t.pcs[q] = s.pcs[q]) ∧ Keeps s t [.pcs] ∧ KeepsRegs s t [] := by
  refine ⟨_, congrArg Host.Outcome.next (State.onLive_true hlive), ?_, ?_, runResume_frame s p false⟩
  · rw [runResume_eq, pcs_modPc_same]
    simp [-Fin.getElem_fin, hrun, resumeRun_free hbank hbusy, Run.resumed]
  · rw [runResume_eq, pcs_modPc_same]
    rfl

theorem gives_runResume_margin (hlive : s.live (.pc p) = true) (hrun : s.pcs[p].run7 = some r)
    (hbank : (s.pcs[p].bankOf r.loc.bankIx).claim = .none) (hbusy : s.pcs[p].debugBusy = false) :
    Gives (.runResume p true) s fun t =>
      t.pcs[p].run7.map (fun x => (x.suspended, x.progress, x.loc, x.len)) = some (false, r.progress, r.loc, r.len) ∧
        t.pcs[p].run6 = s.pcs[p].run6 ∧ (∀ q, q ≠ p → t.pcs[q] = s.pcs[q]) ∧ Keeps s t [.pcs] ∧ KeepsRegs s t [] := by
  refine ⟨_, congrArg Host.Outcome.next (State.onLive_true hlive), ?_, ?_, runResume_frame s p true⟩
  · rw [runResume_eq, pcs_modPc_same]
    simp [-Fin.getElem_fin, hrun, resumeRun_free hbank hbusy, Run.resumed]
  · rw [runResume_eq, pcs_modPc_same]
    rfl

end resume

/-- Settles O24, clause by clause: a debug access that becomes pending or is dropped, a run of each class that is
submitted, and one that goes on. -/
theorem debugAndRuns : Obligations.DebugAndRuns :=
  ⟨gives_debugMemoryAccess, gives_debugMemoryAccess_ignored,
    fun s p e write group bg bank row col len data => gives_runSubmit_copier s p write group bg bank row col len data e,
    gives_runResume_copier, gives_runSubmit_margin, gives_runResume_margin⟩

end Sys2Proof.Machine
end

section
/-! SUPPORT. The counterexample to O31: a REPLAY after a warm return, which owes an exit scrub. -/

namespace Sys2Proof.Machine

/-! ### The exit scrub that a warm return owes (R172, R173, R402) -/

/-- Once the start of the owed exit scrub has had its turn, none is owed. -/
theorem startScrub_scrubDue (s : State) : s.startScrub.pwr.scrubDue = false := by
  unfold State.startScrub
  split
  case isTrue => rfl
  case isFalse hnone => exact eq_false_of_ne_true hnone

theorem endReplay_pwr (s : State) (fails : List MemFail) : (s.endReplay fails).pwr = s.pwr :=
  State.endReplay_keeps (ps := [.pcs, .stack, .inbox, .chain, .pkg, .age]) s fails (Keeps.refl _ _) (by simp) (by simp)
    (by simp) (by simp) (by simp) (by simp) .pwr (by simp)

section replay

variable {s : State} (len : BitVec 24) (info : Option LedgerInfo) (repair : Option RepairInfo) (fails : List MemFail)

/-- What follows the replanning of a replay leaves no scrub owed: the scrub runs, or the replay ends (R173). -/
theorem scrubOrEnd_scrubDue (u : State) :
    (if u.startScrub.scrubbing then u.startScrub else u.startScrub.endReplay fails).pwr.scrubDue = false := by
  split
  · exact startScrub_scrubDue u
  · rw [endReplay_pwr]
    exact startScrub_scrubDue u

/-- A replay in PHASE RANGED starts the exit scrub that is owed, whatever the ledger holds (R173, R397). -/
theorem startReplay_scrubDue (hphase : s.phase = 5) :
    (s.startReplay len info repair fails).pwr.scrubDue = false := by
  rw [State.startReplay, if_neg (not_not_intro hphase)]
  exact scrubOrEnd_scrubDue fails _

theorem ledgerReplay_scrubDue (hphase : s.phase = 5) :
    (ledgerReplay len info repair fails s).pwr.scrubDue = false :=
  startReplay_scrubDue len info repair fails
    ((State.gf_congr (State.rd_wr_ne s _ _ (by decide)) _).trans hphase)

/-- A driver's REPLAY that reaches the liaison core is carried out and answered (R319, R397). -/
theorem exec_ledgerReplay (h : Reached s) : exec (.ledgerReplay len info repair fails) s =
    .next ((ledgerReplay len info repair fails s).mgtDone false 0) := by
  obtain ⟨hready, hruns⟩ := h
  have hlive : s.live .firmware = true := by simp_all [State.fwRuns]
  refine congrArg Host.Outcome.next ?_
  simp [State.emuWrite, State.emuAccess, hready, hlive, hruns]

end replay

/-- A block in PHASE RANGED after a warm return whose marker check has found the contents kept: firmware runs, and the
exit scrub is still owed (R389, R402). -/
def warmRangedState : State :=
  let s : State := { State.reset with
    pwr := { State.reset.pwr with up := Vector.replicate 133 true, warm := true, scrubDue := true },
    fw := { Fw.init with cores := Vector.replicate 4 { FwCore.init with run := true } } }
  ((s.sf Reg.FW_STATUS Fld.FW_STATUS_STATE 4).sf Reg.FW_BOOT_STATUS Fld.FW_BOOT_STATUS_PHASE 5).sf Reg.PC_MARK_STATUS
    Fld.PC_MARK_STATUS_RESULT 1

/-- Refutes O31: the clause on any REPLAY in PHASE RANGED (its twelfth) does not list the power state among what may
change. In `warmRangedState` the replay starts the exit scrub that the warm return owes, which the power state holds
(R173, R402). -/
theorem not_bootAndReplay : ¬ Obligations.BootAndReplay := by
  unfold Obligations.BootAndReplay
  rintro ⟨-, -, -, -, -, -, -, -, -, -, -, hreplay, -⟩
  have hreached : Reached warmRangedState := by decide +kernel
  have hphase : warmRangedState.phase = 5 := by decide +kernel
  have howed : warmRangedState.pwr.scrubDue = true := rfl
  obtain ⟨t, ht, -, -, -, hkeeps, -⟩ := hreplay warmRangedState 0 none none [] hreached hphase
  have hpwr : t.pwr = (ledgerReplay 0 none none [] warmRangedState).pwr := by
    rw [← Host.Outcome.next.inj ((exec_ledgerReplay 0 none none [] hreached).symm.trans ht)]
    exact keeps_mgtDone (Keeps.refl _ _) false 0 .pwr (by decide)
  have hkept : t.pwr = warmRangedState.pwr := hkeeps .pwr (by decide)
  have hstarted := ledgerReplay_scrubDue 0 none none [] hphase
  rw [← hpwr, hkept, howed] at hstarted
  exact absurd hstarted (by decide)

end Sys2Proof.Machine
end

section
/-! SUPPORT. The counterexample to O55: a range report of a block whose ID_CONFIG shows five layer groups. -/

namespace Sys2Proof.Machine

/-! ### The held mask of a stack of five layer groups (R85 to R87, R460) -/

/-- A block in PHASE ELECTION that has not reported yet, with PC 0 unlaced at training; ID_CONFIG shows five layer
groups, of which the rank states have room for four. -/
def fiveGroupsState : State :=
  let s : State := { State.reset with
    pwr := { State.reset.pwr with up := Vector.replicate 133 true },
    fw := { Fw.init with cores := Vector.replicate 4 { FwCore.init with run := true } },
    pkg := { Package.init with elected := true, beatHeard := true },
    age := { Ageing.init with unlacedAt := [0] } }
  ((s.sf Reg.FW_STATUS Fld.FW_STATUS_STATE 4).sf Reg.FW_BOOT_STATUS Fld.FW_BOOT_STATUS_PHASE 4).sf Reg.ID_CONFIG
    Fld.ID_CONFIG_LAYER_GROUPS 5

/-- The ranks of PC 0 are bound to healthy ranks of the fifth group, whose states would stand behind those of the 256
ranks. -/
theorem fiveGroupsState_binds : fiveGroupsState.rd (Reg.PC_RANK_STATE 32) = 0 ∧
    (rangeReport [] fiveGroupsState).rd (Reg.PC_RANK_STATE 32) ≠ 0 := by
  decide +kernel

/-- Refutes O55: the clause on any first range report (its tenth) does not ask for at most four layer groups, as its
first clause does, and says that no register but those of the ranks and ranges of the block changes. In
`fiveGroupsState` a word behind the rank states changes too. The clause speaks of every state; no claim is made that
this one is reached: a stack in service has three or four layer groups (R3). -/
theorem not_rangesAndLoss : ¬ Obligations.RangesAndLoss := by
  unfold Obligations.RangesAndLoss
  rintro ⟨-, -, -, -, -, -, -, -, -, hreport, -⟩
  have hruns : fiveGroupsState.fwRuns .upkeep = true := by decide +kernel
  have hphase : fiveGroupsState.phase = 4 ∧ fiveGroupsState.bit Reg.PC_LACE Fld.PC_LACE_LOCK = false := by
    decide +kernel
  obtain ⟨t, ht, -, -, -, -, hregs⟩ := hreport fiveGroupsState [] hruns ⟨rfl, rfl, rfl⟩ hphase
  have hexec : exec (.rangeReport []) fiveGroupsState = .next (rangeReport [] fiveGroupsState) :=
    congrArg Host.Outcome.next (State.onCore_true hruns)
  obtain rfl : rangeReport [] fiveGroupsState = t := by simpa [hexec] using ht
  have hkept := hregs (Reg.PC_RANK_STATE 32) (by decide)
  obtain ⟨hbefore, hafter⟩ := fiveGroupsState_binds
  exact hafter (hkept.trans hbefore)

end Sys2Proof.Machine
end

section
/-! SUPPORT. The counterexamples to O16 and O20: a free bank that owes a refresh while another completes, and a read at one
PC whose location is another PC's. -/

namespace Sys2Proof.Machine

/-! ### A free bank that owes a refresh (R124, R153, R160) -/

/-- A bank under its targeted refresh whose own refresh has fallen due meanwhile, so that it owes one (R153, R160). -/
def owingTargetedBank : Bank :=
  { Bank.init with row := some 0, claim := .targeted 0, refreshing := true, owed := 1 }

/-- A PC whose bank 0 completes a per-bank refresh just after the precharge that ends the targeted refresh of bank 1. -/
def owingPc : Pc :=
  ((Pc.init.modBank 0 fun b => { b with claim := .refresh, refreshing := true }).modBank 1 fun _ =>
    owingTargetedBank).precharge 1

/-- A state in which PC 0 is live and stands as `owingPc`. -/
def owingNeighbourState : State :=
  let s : State := { State.reset with pwr := { State.reset.pwr with up := Vector.replicate 133 true } }
  (s.setDom 0 .on).modPc 0 fun _ => owingPc

/-- Bank 1 is free before, and the completion of bank 0's refresh claims it for the refresh it owes. -/
theorem owingNeighbourState_claims : (owingNeighbourState.pcs[(0 : Fin 64)].bankOf (1 : Fin 64)).claim = .none ∧
    ((refreshComplete 0 0 owingNeighbourState).pcs[(0 : Fin 64)].bankOf (1 : Fin 64)).claim = .refresh := by
  decide +kernel

/-- Refutes O16: the clause on a refresh that completes at a bank that owes nothing (its third) says that every other bank
stays as it was, and does not ask that no free bank owes a refresh. In `owingNeighbourState` bank 1 does, and the
completion of bank 0's refresh claims it (R124). The clause speaks of every state; no claim is made that this one is
reached. -/
theorem not_refreshSchedule : ¬ Obligations.RefreshSchedule := by
  unfold Obligations.RefreshSchedule
  rintro ⟨-, -, hcomplete, -⟩
  have hlive : owingNeighbourState.live (.pc 0) = true := by decide +kernel
  have hwindow : owingNeighbourState.inWindow 0 = false := by decide +kernel
  have hbank : (owingNeighbourState.pcs[(0 : Fin 64)].bankOf (0 : Fin 64)).claim = .refresh ∧
      (owingNeighbourState.pcs[(0 : Fin 64)].bankOf (0 : Fin 64)).refreshing = true ∧
      (owingNeighbourState.pcs[(0 : Fin 64)].bankOf (0 : Fin 64)).readyAt ≤
        owingNeighbourState.pcs[(0 : Fin 64)].cycle ∧
      (owingNeighbourState.pcs[(0 : Fin 64)].bankOf (0 : Fin 64)).owed = 0 ∧
      owingNeighbourState.pcs[(0 : Fin 64)].lateTicks = [] := by decide +kernel
  obtain ⟨hclaim, hrefreshing, hready, howed, hlate⟩ := hbank
  obtain ⟨t, ht, -, -, hothers, -⟩ :=
    hcomplete owingNeighbourState 0 0 hlive hwindow hclaim hrefreshing hready howed hlate
  have hexec : exec (.refreshComplete 0 0) owingNeighbourState = .next (refreshComplete 0 0 owingNeighbourState) :=
    congrArg Host.Outcome.next (State.onLive_true hlive)
  obtain rfl : refreshComplete 0 0 owingNeighbourState = t := by simpa [hexec] using ht
  have hkept := congrArg Bank.claim (hothers 1 (by decide))
  obtain ⟨hbefore, hafter⟩ := owingNeighbourState_claims
  exact absurd (hafter.symm.trans (hkept.trans hbefore)) (by decide)

/-! ### A read that stands at another PC than its location's (R434) -/

/-- A debug read of rank 1, which is PC 1's, whose burst was written with the poison code (R436). -/
def strayRead : RqEntry :=
  { acc := { id := 0, cls := 1, loc := { rank := 1, bg := 0, bank := 0, row := 0, col := 0 }, addr := none,
             write := false, data := [], mask := [], poison := false, owner := .debug },
    poolAt := 0, poolNo := 0, grantAt := 0, issuedAt := some 0, dataAt := 0, run := none,
    image := codedBurst (zeros 64) true }

/-- A state in which PC 0 is live and holds `strayRead`, 2 cycles after its data has arrived. -/
def strayReadState : State :=
  let s : State := { State.reset with pwr := { State.reset.pwr with up := Vector.replicate 133 true } }
  (s.setDom 0 .on).modPc 0 fun c => { c with cycle := 2, rq := [strayRead] }

/-- The read leaves PC 0, and POISON_READ is set at PC 1. -/
theorem strayReadState_raises : strayReadState.rd (Reg.PC_ECC_STATUS 1) = 0 ∧
    (readDataReturn 0 [] strayReadState).rd (Reg.PC_ECC_STATUS 1) ≠ 0 := by
  decide +kernel

/-- Refutes O20: the clause on any read that returns (its fifteenth) lists the status registers of the PC that the read
stands at, and does not ask that its location is of that PC; its eighth clause lists those of the location's PC. In
`strayReadState` a poisoned read at PC 0 names rank 1, and PC_ECC_STATUS of PC 1 changes. The clause speaks of every
state; no claim is made that this one is reached. -/
theorem not_accessPath : ¬ Obligations.AccessPath := by
  unfold Obligations.AccessPath
  rintro ⟨-, -, -, -, -, -, -, -, -, -, -, -, -, -, hreturn, -⟩
  have hlive : strayReadState.live (.pc 0) = true := by decide +kernel
  have hfirst : firstReturn strayReadState 0 false [] = some strayRead := by decide +kernel
  obtain ⟨t, ht, -, -, -, hregs⟩ := hreturn strayReadState 0 strayRead [] hlive hfirst
  have hexec : exec (.readDataReturn 0 []) strayReadState = .next (readDataReturn 0 [] strayReadState) :=
    congrArg Host.Outcome.next (State.onLive_true hlive)
  obtain rfl : readDataReturn 0 [] strayReadState = t := by simpa [hexec] using ht
  have hkept := hregs (Reg.PC_ECC_STATUS 1) (by decide +kernel)
  obtain ⟨hbefore, hafter⟩ := strayReadState_raises
  exact hafter (hkept.trans hbefore)

end Sys2Proof.Machine
end

section
/-! SUPPORT. The armed shift of a slot table, and the write of SLOT_CTRL that disarms it (O23, O59). -/

namespace Sys2Proof.Machine

/-! ### The two banks of a slot table (R133, R142) -/

section banks

variable (s : State) (p : Fin 64)

/-- The words of the two banks of a slot table, up to word `n`. -/
def bankRegs (n : Nat) : List Nat := (upto n).flatMap fun w => [Reg.SLOT_ACTIVE p w, Reg.SLOT_SHADOW p w]

theorem mem_bankRegs {n o : Nat} : o ∈ bankRegs p n ↔ ∃ w < n, o = Reg.SLOT_ACTIVE p w ∨ o = Reg.SLOT_SHADOW p w := by
  simp [bankRegs]

/-- The banks stand in the registers of their PC, above SLOT_STATUS. -/
theorem bankRegs_range {n o : Nat} (hn : n ≤ 32) (h : o ∈ bankRegs p n) :
    0x100100 + 4096 * p.val ≤ o ∧ o < 0x100200 + 4096 * p.val := by
  obtain ⟨w, hw, rfl | rfl⟩ := (mem_bankRegs p).mp h
  · unfold Reg.SLOT_ACTIVE; omega
  · unfold Reg.SLOT_SHADOW; omega

/-- A word behind the first `n` of its bank is none of them. -/
theorem notMem_bankRegs {n w : Nat} (hn : n ≤ w) (hw : w < 32) :
    Reg.SLOT_ACTIVE p w ∉ bankRegs p n ∧ Reg.SLOT_SHADOW p w ∉ bankRegs p n := by
  simp only [mem_bankRegs, Reg.SLOT_ACTIVE, Reg.SLOT_SHADOW]
  constructor <;> rintro ⟨v, hv, e | e⟩ <;> omega

/-- Words `w` of the two banks have changed places. -/
def WordSwapped (s t : State) (p : Fin 64) (w : Nat) : Prop :=
  t.rd (Reg.SLOT_ACTIVE p w) = s.rd (Reg.SLOT_SHADOW p w) ∧ t.rd (Reg.SLOT_SHADOW p w) = s.rd (Reg.SLOT_ACTIVE p w)

theorem swapWord_swaps (w : Nat) : WordSwapped s (swapWord p s w) p w := by
  have hne : Reg.SLOT_ACTIVE p w ≠ Reg.SLOT_SHADOW p w := by unfold Reg.SLOT_ACTIVE Reg.SLOT_SHADOW; omega
  exact ⟨(State.rd_wr_ne _ _ _ hne).trans (State.rd_wr_self ..), State.rd_wr_self ..⟩

theorem WordSwapped.congr {s s' t t' : State} {p : Fin 64} {w : Nat} (h : WordSwapped s t p w)
    (hs : s.rd (Reg.SLOT_ACTIVE p w) = s'.rd (Reg.SLOT_ACTIVE p w) ∧
      s.rd (Reg.SLOT_SHADOW p w) = s'.rd (Reg.SLOT_SHADOW p w))
    (ht : t'.rd (Reg.SLOT_ACTIVE p w) = t.rd (Reg.SLOT_ACTIVE p w) ∧
      t'.rd (Reg.SLOT_SHADOW p w) = t.rd (Reg.SLOT_SHADOW p w)) : WordSwapped s' t' p w :=
  ⟨(ht.1.trans h.1).trans hs.2, (ht.2.trans h.2).trans hs.1⟩

/-- The banks with their first `n` words swapped (R142). -/
def State.wordsSwapped (n : Nat) : State := (upto n).foldl (swapWord p) s

theorem wordsSwapped_succ (n : Nat) : s.wordsSwapped p (n + 1) = swapWord p (s.wordsSwapped p n) n := by
  simp [State.wordsSwapped, List.range_succ]

theorem wordsSwapped_keepsRegs (n : Nat) : KeepsRegs s (s.wordsSwapped p n) (bankRegs p n) :=
  KeepsRegs.foldl _ (fun _ w hw h =>
    have hlt := List.mem_range.mp hw
    (h.wr ((mem_bankRegs p).mpr ⟨w, hlt, .inl rfl⟩) _).wr ((mem_bankRegs p).mpr ⟨w, hlt, .inr rfl⟩) _)
    (KeepsRegs.refl _ _)

theorem wordsSwapped_keeps (n : Nat) : Keeps s (s.wordsSwapped p n) [] :=
  foldl_keeps' (swapWord_keeps p) _ (Keeps.refl _ _)

/-- Each swap moves its own words and finds them as they were at first. -/
theorem wordsSwapped_swaps {n w : Nat} (hn : n ≤ 32) (hw : w < n) : WordSwapped s (s.wordsSwapped p n) p w := by
  induction n with
  | zero => omega
  | succ n ih =>
    rw [wordsSwapped_succ]
    obtain rfl | hlt : w = n ∨ w < n := by omega
    · obtain ⟨ha, hs⟩ := notMem_bankRegs p (le_refl w) (by omega)
      have hkept := wordsSwapped_keepsRegs s p w
      exact (swapWord_swaps _ p w).congr ⟨hkept _ ha, hkept _ hs⟩ ⟨rfl, rfl⟩
    · have hstep : KeepsRegs (s.wordsSwapped p n) (swapWord p (s.wordsSwapped p n) n)
          [Reg.SLOT_ACTIVE p n, Reg.SLOT_SHADOW p n] :=
        ((KeepsRegs.refl _ _).wr (by simp) _).wr (by simp) _
      refine (ih (by omega) hlt).congr ⟨rfl, rfl⟩ ⟨hstep _ ?_, hstep _ ?_⟩ <;>
        simp only [List.mem_cons, List.not_mem_nil, or_false, Reg.SLOT_ACTIVE, Reg.SLOT_SHADOW] <;> omega

end banks

/-! ### SLOT_SHIFT (R142) -/

/-- SLOT_STATUS as the shift leaves it: ARMED falls, SHIFT_COUNT increments, the other bank is active and slot 0 begins
(R142). -/
def State.shiftShown (s : State) (p : Fin 64) (bank : Nat) : State :=
  (((s.sf (Reg.SLOT_STATUS p) Fld.SLOT_STATUS_ARMED 0).bump (Reg.SLOT_STATUS p) Fld.SLOT_STATUS_SHIFT_COUNT).sf
    (Reg.SLOT_STATUS p) Fld.SLOT_STATUS_ACTIVE_BANK bank).sf (Reg.SLOT_STATUS p) Fld.SLOT_STATUS_SLOT 0

section shown

variable (s : State) (p : Fin 64) (bank : Nat)

theorem shiftShown_keepsRegs : KeepsRegs s (s.shiftShown p bank) [Reg.SLOT_STATUS p] :=
  have hm : Reg.SLOT_STATUS p ∈ [Reg.SLOT_STATUS p] := List.mem_singleton_self _
  ((((KeepsRegs.refl _ _).sf hm _ _).sf hm _ _).sf hm _ _).sf hm _ _

theorem shiftShown_keeps {s0 : State} (h : Keeps s0 s []) : Keeps s0 (s.shiftShown p bank) [] :=
  State.sf_keeps _ _ _ _ (State.sf_keeps _ _ _ _ (State.bump_keeps _ _ _ (State.sf_keeps _ _ _ _ h)))

theorem shiftShown_armed : (s.shiftShown p bank).bit (Reg.SLOT_STATUS p) Fld.SLOT_STATUS_ARMED = false := by
  rw [State.shiftShown, State.bump, State.bit_sf_apart _ _ _ _ _ (by decide) (by decide),
    State.bit_sf_apart _ _ _ _ _ (by decide) (by decide), State.bit_sf_apart _ _ _ _ _ (by decide) (by decide),
    State.bit_sf_same _ _ _ (by decide) rfl]
  rfl

theorem shiftShown_slot : (s.shiftShown p bank).gf (Reg.SLOT_STATUS p) Fld.SLOT_STATUS_SLOT = 0 :=
  State.gf_sf_same _ _ _ _ (by decide)

theorem shiftShown_count : (s.shiftShown p bank).gf (Reg.SLOT_STATUS p) Fld.SLOT_STATUS_SHIFT_COUNT =
    (s.gf (Reg.SLOT_STATUS p) Fld.SLOT_STATUS_SHIFT_COUNT + 1) % 2 ^ Fld.SLOT_STATUS_SHIFT_COUNT.width := by
  rw [State.shiftShown, State.gf_sf_apart _ _ _ _ _ (by decide) (by decide),
    State.gf_sf_apart _ _ _ _ _ (by decide) (by decide), State.bump, State.gf_sf_same _ _ _ _ (by decide),
    State.gf_sf_apart _ _ _ _ _ (by decide) (by decide)]

theorem shiftShown_bank (h : bank < 2) :
    (s.shiftShown p bank).gf (Reg.SLOT_STATUS p) Fld.SLOT_STATUS_ACTIVE_BANK = bank := by
  rw [State.shiftShown, State.gf_sf_apart _ _ _ _ _ (by decide) (by decide), State.gf_sf_same _ _ _ _ (by decide)]
  exact Nat.mod_eq_of_lt h

end shown

/-- What the armed shift leaves of a PC's slot table and of all else (R142). -/
structure Shifted (s t : State) (p : Fin 64) : Prop where
  banks : ∀ w, w < 32 → WordSwapped s t p w
  armed : t.bit (Reg.SLOT_STATUS p) Fld.SLOT_STATUS_ARMED = false
  slot : t.gf (Reg.SLOT_STATUS p) Fld.SLOT_STATUS_SLOT = 0
  count : t.gf (Reg.SLOT_STATUS p) Fld.SLOT_STATUS_SHIFT_COUNT =
    (s.gf (Reg.SLOT_STATUS p) Fld.SLOT_STATUS_SHIFT_COUNT + 1) % 2 ^ Fld.SLOT_STATUS_SHIFT_COUNT.width
  bank : t.gf (Reg.SLOT_STATUS p) Fld.SLOT_STATUS_ACTIVE_BANK =
    1 - s.gf (Reg.SLOT_STATUS p) Fld.SLOT_STATUS_ACTIVE_BANK
  others : ∀ q, q ≠ p → t.pcs[q] = s.pcs[q]
  keeps : Keeps s t [.pcs]
  regs : KeepsRegs s t (Reg.SLOT_STATUS p :: bankRegs p 32)

section shift

variable {s : State} {p : Fin 64}

/-- The registers after the shift: the banks swapped and the status shown. -/
def State.shiftRegs (s : State) (p : Fin 64) : State :=
  (s.wordsSwapped p 32).shiftShown p (1 - s.gf (Reg.SLOT_STATUS p) Fld.SLOT_STATUS_ACTIVE_BANK)

theorem slotShift_due (ha : s.bit (Reg.SLOT_STATUS p) Fld.SLOT_STATUS_ARMED = true)
    (ht : s.rd64 (Reg.SLOT_SHIFT_TIME p) ≤ s.now (.pc p)) :
    slotShift p s = ((s.shiftRegs p).modPc p fun c => { c with slotAt := c.cycle }).beginSlot p :=
  if_pos ⟨ha, ht⟩

theorem slotShift_unarmed (ha : s.bit (Reg.SLOT_STATUS p) Fld.SLOT_STATUS_ARMED = false) : slotShift p s = s :=
  if_neg fun h => by simp [ha] at h

theorem beginSlot_rd (s : State) (p : Fin 64) (o : Nat) : (s.beginSlot p).rd o = s.rd o :=
  State.rd_congr (regs_modPc ..) o

theorem status_notMem_bankRegs : Reg.SLOT_STATUS p ∉ bankRegs p 32 := fun h => by
  have hr := bankRegs_range p (le_refl 32) h
  unfold Reg.SLOT_STATUS at hr
  omega

theorem word_ne_status {w : Nat} : Reg.SLOT_ACTIVE p w ≠ Reg.SLOT_STATUS p ∧
    Reg.SLOT_SHADOW p w ≠ Reg.SLOT_STATUS p := by
  unfold Reg.SLOT_ACTIVE Reg.SLOT_SHADOW Reg.SLOT_STATUS
  omega

theorem shiftRegs_swaps {w : Nat} (hw : w < 32) : WordSwapped s (s.shiftRegs p) p w :=
  have hshown := shiftShown_keepsRegs (s.wordsSwapped p 32) p
    (1 - s.gf (Reg.SLOT_STATUS p) Fld.SLOT_STATUS_ACTIVE_BANK)
  (wordsSwapped_swaps s p (le_refl 32) hw).congr ⟨rfl, rfl⟩
    ⟨hshown _ (by simpa using word_ne_status.1), hshown _ (by simpa using word_ne_status.2)⟩

theorem shiftRegs_keepsRegs : KeepsRegs s (s.shiftRegs p) (Reg.SLOT_STATUS p :: bankRegs p 32) :=
  have hshown := shiftShown_keepsRegs (s.wordsSwapped p 32) p
    (1 - s.gf (Reg.SLOT_STATUS p) Fld.SLOT_STATUS_ACTIVE_BANK)
  ((wordsSwapped_keepsRegs s p 32).mono (List.subset_cons_self _ _)).trans (hshown.mono (by simp))

theorem shiftRegs_keeps : Keeps s (s.shiftRegs p) [] :=
  shiftShown_keeps _ _ _ (wordsSwapped_keeps s p 32)

theorem shifted_slotShift (ha : s.bit (Reg.SLOT_STATUS p) Fld.SLOT_STATUS_ARMED = true)
    (ht : s.rd64 (Reg.SLOT_SHIFT_TIME p) ≤ s.now (.pc p)) : Shifted s (slotShift p s) p := by
  have hkeeps : Keeps s (slotShift p s) [.pcs] := slotShift_keeps p s (Keeps.refl _ _) (by simp)
  have hrd : ∀ o, (slotShift p s).rd o = (s.shiftRegs p).rd o := fun o => by
    rw [slotShift_due ha ht, beginSlot_rd]
    exact State.rd_congr (regs_modPc ..) o
  have hstatus : (s.wordsSwapped p 32).rd (Reg.SLOT_STATUS p) = s.rd (Reg.SLOT_STATUS p) :=
    wordsSwapped_keepsRegs s p 32 _ status_notMem_bankRegs
  have hpcs : (s.shiftRegs p).pcs = s.pcs := shiftRegs_keeps .pcs (by simp)
  exact
    { banks := fun w hw => (shiftRegs_swaps hw).congr ⟨rfl, rfl⟩ ⟨hrd _, hrd _⟩
      armed := (State.bit_congr (hrd _) _).trans (shiftShown_armed ..)
      slot := (State.gf_congr (hrd _) _).trans (shiftShown_slot ..)
      count := ((State.gf_congr (hrd _) _).trans (shiftShown_count ..)).trans (by rw [State.gf_congr hstatus])
      bank := (State.gf_congr (hrd _) _).trans (shiftShown_bank _ _ _ (by omega))
      others := fun q hq => by
        rw [slotShift_due ha ht, State.beginSlot, pcs_modPc_other hq, pcs_modPc_other hq, hpcs]
      keeps := hkeeps
      regs := fun o ho => (hrd o).trans (shiftRegs_keepsRegs o ho) }

theorem exec_slotShift (hl : s.live (.pc p) = true) : exec (.slotShift p) s = .next (slotShift p s) :=
  congrArg Host.Outcome.next (State.onLive_true hl)

/-- Registers of no other PC change, and none outside the PCs. -/
theorem Shifted.elsewhere {t : State} (h : Shifted s t p) {o : Nat}
    (ho : o < 0x100000 + 4096 * p.val ∨ 0x100000 + 4096 * p.val + 4096 ≤ o) : t.rd o = s.rd o := by
  refine h.regs o fun hm => ?_
  rcases List.mem_cons.mp hm with rfl | hb
  · unfold Reg.SLOT_STATUS at ho
    omega
  · have hr := bankRegs_range p (le_refl 32) hb
    omega

end shift

/-- Settles O23: each word of a bank is swapped once, and SLOT_STATUS shows the shift. -/
theorem slotShift_swapsBanks : Obligations.SlotShift := fun _ _ hl ha ht =>
  have h := shifted_slotShift ha ht
  ⟨_, exec_slotShift hl, h.banks, h.armed, h.slot, h.count, h.bank, h.others, h.keeps, fun _ => h.elsewhere⟩

/-! ### SLOT_CTRL without ARM (R136, R143) -/

/-- STARVE_N of a write of SLOT_CTRL, at the nearer limit (R136). -/
def State.starveNStored (s : State) (p : Fin 64) (n : Nat) : State :=
  (s.sf (Reg.SLOT_CTRL p) Fld.SLOT_CTRL_STARVE_N (max 4 (min 64 n))).raiseIf (decide (n < 4) || decide (64 < n))
    (Reg.SLOT_STATUS p) Fld.SLOT_STATUS_STARVE_N_CLAMPED

/-- The shift is armed no longer (R143). -/
def State.disarmed (s : State) (p : Fin 64) : State := s.sf (Reg.SLOT_STATUS p) Fld.SLOT_STATUS_ARMED 0

/-- The registers that a write of SLOT_CTRL can change. -/
abbrev slotCtrlRegs (p : Fin 64) : List Nat := [Reg.SLOT_STATUS p, Reg.SLOT_CTRL p]

section ctrl

variable {s s0 : State} {p : Fin 64} {v : Word}

theorem slotCtrlWrite_disarms (harm : v.getLsbD 31 = false) (hdisarm : v.getLsbD 30 = true)
    (ha : s.bit (Reg.SLOT_STATUS p) Fld.SLOT_STATUS_ARMED = true) :
    slotCtrlWrite p v s = (s.disarmed p).starveNStored p (natBits v.toNat 0 7) := by
  simp only [slotCtrlWrite, harm, hdisarm, ha, Bool.and_self, if_true, Bool.false_eq_true, if_false]
  rfl

/-- While ARMED is 0, DISARM has no effect (R143). -/
theorem slotCtrlWrite_unarmed (harm : v.getLsbD 31 = false)
    (ha : s.bit (Reg.SLOT_STATUS p) Fld.SLOT_STATUS_ARMED = false) :
    slotCtrlWrite p v s = s.starveNStored p (natBits v.toNat 0 7) := by
  simp only [slotCtrlWrite, harm, ha, Bool.and_false, Bool.false_eq_true, if_false]
  rfl

theorem starveNStored_keeps (n : Nat) (h : Keeps s0 s []) : Keeps s0 (s.starveNStored p n) [] :=
  State.raiseIf_keeps _ _ _ _ (State.sf_keeps _ _ _ _ h)

theorem starveNStored_keepsRegs (n : Nat) (h : KeepsRegs s0 s (slotCtrlRegs p)) :
    KeepsRegs s0 (s.starveNStored p n) (slotCtrlRegs p) :=
  (h.sf (by simp) _ _).raiseIf (by simp) _ _

theorem ctrl_ne_status : Reg.SLOT_STATUS p ≠ Reg.SLOT_CTRL p := by
  unfold Reg.SLOT_STATUS Reg.SLOT_CTRL
  omega

/-- Of SLOT_STATUS the stored STARVE_N can change its clamp bit alone. -/
theorem starveNStored_status (s : State) (p : Fin 64) (n : Nat) :
    KeepsFields s (s.starveNStored p n) (Reg.SLOT_STATUS p) [Fld.SLOT_STATUS_STARVE_N_CLAMPED] :=
  have h := (KeepsFields.refl s (Reg.SLOT_STATUS p) [Fld.SLOT_STATUS_STARVE_N_CLAMPED]).of_rd
    (State.rd_sf_ne s (Reg.SLOT_CTRL p) Fld.SLOT_CTRL_STARVE_N (max 4 (min 64 n)) ctrl_ne_status)
  (h.raise (by simp) (by decide)).ite h

theorem disarmed_armed (s : State) (p : Fin 64) :
    (s.disarmed p).bit (Reg.SLOT_STATUS p) Fld.SLOT_STATUS_ARMED = false :=
  State.bit_sf_same s _ 0 (by decide) rfl

theorem disarmed_status (s : State) (p : Fin 64) :
    KeepsFields s (s.disarmed p) (Reg.SLOT_STATUS p) [Fld.SLOT_STATUS_ARMED] :=
  (KeepsFields.refl _ _ _).sf (List.mem_singleton_self _) (by decide) _

theorem disarmed_keeps (s : State) (p : Fin 64) : Keeps s (s.disarmed p) [] := State.sf_keeps _ _ _ _ (Keeps.refl _ _)

theorem disarmed_keepsRegs (s : State) (p : Fin 64) : KeepsRegs s (s.disarmed p) (slotCtrlRegs p) :=
  (KeepsRegs.refl _ _).sf (List.mem_cons_self ..) _ _

/-- The words of both banks stand apart from SLOT_STATUS and SLOT_CTRL. -/
theorem word_notMem_slotCtrlRegs (w : Nat) : Reg.SLOT_ACTIVE p w ∉ slotCtrlRegs p ∧
    Reg.SLOT_SHADOW p w ∉ slotCtrlRegs p := by
  simp only [List.mem_cons, List.not_mem_nil, or_false, Reg.SLOT_ACTIVE, Reg.SLOT_SHADOW, Reg.SLOT_STATUS, Reg.SLOT_CTRL]
  omega

end ctrl

/-! ### The written words of SLOT_DISARM and STARVE_N_WRITE (R136, R143) -/

/-- The word of SLOT_DISARM: DISARM is 1 and ARM is 0. -/
abbrev disarmWord (v : Word) : Word := (v ||| 0x40000000#32) &&& 0x7FFFFFFF#32

/-- The word of STARVE_N_WRITE: DISARM and ARM are 0. -/
abbrev plainWord (v : Word) : Word := v &&& 0x3FFFFFFF#32

theorem disarmWord_arm (v : Word) : (disarmWord v).getLsbD 31 = false := by simp

theorem disarmWord_disarm (v : Word) : (disarmWord v).getLsbD 30 = true := by simp

theorem plainWord_arm (v : Word) : (plainWord v).getLsbD 31 = false := by simp

/-- Both words hold the same STARVE_N. -/
theorem disarmWord_starveN (v : Word) : natBits (disarmWord v).toNat 0 7 = natBits (plainWord v).toNat 0 7 := by
  have hmasks : ∀ k < 7, (0x40000000#32).getLsbD k = false ∧ (0x7FFFFFFF#32).getLsbD k = true ∧
      (0x3FFFFFFF#32).getLsbD k = true := by decide
  refine natBits_congr fun k hk => ?_
  obtain ⟨hor, hand, hplain⟩ := hmasks k hk
  rw [Nat.zero_add, ← BitVec.getLsbD, ← BitVec.getLsbD, BitVec.getLsbD_and, BitVec.getLsbD_or, BitVec.getLsbD_and,
    hor, hand, hplain, Bool.or_false]

/-! ### DISARM before and after the shift (R143) -/

/-- A write of SLOT_CTRL that has stored its STARVE_N is answered (R56, R136). -/
def State.ctrlTaken (s : State) (p : Fin 64) (v : Word) : State :=
  (s.starveNStored p (natBits (disarmWord v).toNat 0 7)).mgtDone false 0

section order

variable {s t : State} {p : Fin 64}

theorem ctrlTaken_status (s : State) (p : Fin 64) (v : Word) :
    KeepsFields s (s.ctrlTaken p v) (Reg.SLOT_STATUS p) [Fld.SLOT_STATUS_STARVE_N_CLAMPED] :=
  (starveNStored_status s p _).of_regs rfl

theorem ctrlTaken_answered (v : Word) (hk : Keeps s t []) (hregs : KeepsRegs s t (slotCtrlRegs p)) :
    Answered s (t.ctrlTaken p v) false ∧ Keeps s (t.ctrlTaken p v) [.mgt] ∧
      KeepsRegs s (t.ctrlTaken p v) (slotCtrlRegs p) :=
  registersAnswered (starveNStored_keeps _ hk) (starveNStored_keepsRegs _ hregs)

theorem exec_slotDisarm (v : Word) (hr : s.mgtReady = true) (hl : s.live (.pc p) = true) :
    exec (.slotDisarm p v) s = .next ((slotCtrlWrite p (disarmWord v) s).mgtDone false 0) := by
  refine congrArg Host.Outcome.next ?_
  simp [State.mgtWrite, hr, hl]

theorem exec_slotDisarm_armed (v : Word) (hr : s.mgtReady = true) (hl : s.live (.pc p) = true)
    (ha : s.bit (Reg.SLOT_STATUS p) Fld.SLOT_STATUS_ARMED = true) :
    exec (.slotDisarm p v) s = .next ((s.disarmed p).ctrlTaken p v) := by
  rw [exec_slotDisarm v hr hl, slotCtrlWrite_disarms (disarmWord_arm v) (disarmWord_disarm v) ha, State.ctrlTaken]

theorem exec_slotDisarm_unarmed (v : Word) (hr : s.mgtReady = true) (hl : s.live (.pc p) = true)
    (ha : s.bit (Reg.SLOT_STATUS p) Fld.SLOT_STATUS_ARMED = false) :
    exec (.slotDisarm p v) s = .next (s.ctrlTaken p v) := by
  rw [exec_slotDisarm v hr hl, slotCtrlWrite_unarmed (disarmWord_arm v) ha, State.ctrlTaken]

/-- A shift that is not armed changes nothing, in service or not. -/
theorem gives_slotShift_unarmed (ha : s.bit (Reg.SLOT_STATUS p) Fld.SLOT_STATUS_ARMED = false) :
    Gives (.slotShift p) s fun t => t = s := by
  refine ⟨_, rfl, ?_⟩
  rw [slotShift_unarmed ha]
  exact ite_self s

theorem Shifted.mgtReady (h : Shifted s t p) : t.mgtReady = s.mgtReady := by
  have hpwr : t.pwr = s.pwr := h.keeps .pwr (by simp)
  have hmgt : t.mgt = s.mgt := h.keeps .mgt (by simp)
  rw [State.mgtReady, State.mgtReady, State.up, State.up, hpwr, hmgt]

/-- Power domains have their state in registers behind those of the PCs. -/
theorem Shifted.live (h : Shifted s t p) (i : Island) : t.live i = s.live i := by
  have hpwr : t.pwr = s.pwr := h.keeps .pwr (by simp)
  have hdom : t.dom i.domain = s.dom i.domain := by
    rw [State.dom, State.dom, h.elsewhere (by unfold Reg.THERM_DOM_STATE; omega)]
  rw [State.live, State.live, State.up, State.up, hpwr, hdom]

/-- DISARM decided first: the shift is cancelled (R143). -/
theorem gives_slotDisarm_first (s : State) (p : Fin 64) (v : Word) (hr : s.mgtReady = true)
    (hl : s.live (.pc p) = true) (ha : s.bit (Reg.SLOT_STATUS p) Fld.SLOT_STATUS_ARMED = true) :
    Gives (.slotDisarm p v) s fun t =>
      t.bit (Reg.SLOT_STATUS p) Fld.SLOT_STATUS_ARMED = false ∧
        t.gf (Reg.SLOT_STATUS p) Fld.SLOT_STATUS_SHIFT_COUNT = s.gf (Reg.SLOT_STATUS p) Fld.SLOT_STATUS_SHIFT_COUNT ∧
        t.gf (Reg.SLOT_STATUS p) Fld.SLOT_STATUS_ACTIVE_BANK = s.gf (Reg.SLOT_STATUS p) Fld.SLOT_STATUS_ACTIVE_BANK ∧
        (∀ w, w < 32 → t.rd (Reg.SLOT_ACTIVE p w) = s.rd (Reg.SLOT_ACTIVE p w) ∧
          t.rd (Reg.SLOT_SHADOW p w) = s.rd (Reg.SLOT_SHADOW p w)) ∧
        (Gives (.slotShift p) t fun u => u = t) ∧ Answered s t false ∧ Keeps s t [.mgt] ∧
        KeepsRegs s t (slotCtrlRegs p) := by
  have hstatus := ctrlTaken_status (s.disarmed p) p v
  have harmed := (hstatus.bit (by decide)).trans (disarmed_armed s p)
  obtain ⟨hanswered, hkeeps, hregs⟩ := ctrlTaken_answered v (disarmed_keeps s p) (disarmed_keepsRegs s p)
  refine ⟨_, exec_slotDisarm_armed v hr hl ha, harmed, ?_, ?_, fun w _ => ⟨?_, ?_⟩, gives_slotShift_unarmed harmed,
    hanswered, hkeeps, hregs⟩
  · exact (hstatus _ (by decide)).trans (disarmed_status s p _ (by decide))
  · exact (hstatus _ (by decide)).trans (disarmed_status s p _ (by decide))
  · exact hregs _ (word_notMem_slotCtrlRegs w).1
  · exact hregs _ (word_notMem_slotCtrlRegs w).2

/-- DISARM of a shift that has taken place leaves it as it is (R143). -/
theorem Shifted.gives_slotDisarm (h : Shifted s t p) (v : Word) (hr : s.mgtReady = true)
    (hl : s.live (.pc p) = true) :
    Gives (.slotDisarm p v) t fun u =>
      u.bit (Reg.SLOT_STATUS p) Fld.SLOT_STATUS_ARMED = false ∧
        u.gf (Reg.SLOT_STATUS p) Fld.SLOT_STATUS_SHIFT_COUNT =
          (s.gf (Reg.SLOT_STATUS p) Fld.SLOT_STATUS_SHIFT_COUNT + 1) % 2 ^ Fld.SLOT_STATUS_SHIFT_COUNT.width ∧
        u.gf (Reg.SLOT_STATUS p) Fld.SLOT_STATUS_ACTIVE_BANK =
          1 - s.gf (Reg.SLOT_STATUS p) Fld.SLOT_STATUS_ACTIVE_BANK ∧
        (∀ w, w < 32 → WordSwapped s u p w) ∧
        Answered t u false ∧ Keeps t u [.mgt] ∧ KeepsRegs t u (slotCtrlRegs p) := by
  have hstatus := ctrlTaken_status t p v
  obtain ⟨hanswered, hkeeps, hregs⟩ := ctrlTaken_answered v (Keeps.refl t []) (KeepsRegs.refl t (slotCtrlRegs p))
  have hwords (w : Nat) := word_notMem_slotCtrlRegs (p := p) w
  exact ⟨_, exec_slotDisarm_unarmed v (h.mgtReady.trans hr) ((h.live _).trans hl) h.armed,
    (hstatus.bit (by decide)).trans h.armed, (hstatus _ (by decide)).trans h.count,
    (hstatus _ (by decide)).trans h.bank,
    fun w hw => (h.banks w hw).congr ⟨rfl, rfl⟩ ⟨hregs _ (hwords w).1, hregs _ (hwords w).2⟩,
    hanswered, hkeeps, hregs⟩

/-- While ARMED is 0, the write with DISARM is the write without it (R143). -/
theorem slotDisarm_unarmed (s : State) (p : Fin 64) (v : Word)
    (ha : s.bit (Reg.SLOT_STATUS p) Fld.SLOT_STATUS_ARMED = false) :
    Gives (.slotDisarm p v) s fun t => Gives (.starveNWrite p v) s fun u => u = t := by
  refine ⟨_, rfl, _, rfl, congrArg (s.mgtWrite (.pc p)) ?_⟩
  rw [slotCtrlWrite_unarmed (plainWord_arm v) ha, slotCtrlWrite_unarmed (disarmWord_arm v) ha, disarmWord_starveN]

end order

/-- Settles O59: the two orders of DISARM and the shift, and DISARM while ARMED is 0. -/
theorem disarmAgainstShift : Obligations.DisarmAgainstShift :=
  ⟨gives_slotDisarm_first,
    fun _ _ v hr hl ha ht =>
      have h := shifted_slotShift ha ht
      ⟨_, exec_slotShift hl, h.armed, h.gives_slotDisarm v hr hl⟩,
    slotDisarm_unarmed⟩

end Sys2Proof.Machine
end

section
/-! SUPPORT. The counterexample to O46: a refused reply frees transmit space, which a forwarded frame has waited for. -/

namespace Sys2Proof.Machine

/-! ### A forwarded frame that waits for the space a refused reply frees (R351, R359) -/

/-- A READ's reply with 128 bytes, in the transmit queue of partner 0. -/
def longReply : Tx :=
  { key := 0, cls := 0, frame := { State.reset.newFrame 0x81 0 0 1 with payBytes := 128, payload := zeros 128 },
    at_ := 0, reply := true, coll := none }

/-- A READ of partner 0 that has been issued, with the space that its reply needs reserved (R345). -/
def issuedRead (id bytes : Nat) : RmtReq :=
  { rx := { frame := { State.reset.newFrame 1 0 0 0 with count := bytes }, sub := some 0, via := 0, at_ := 0, partner := 0 },
    checked := true, issued := some id, pieces := bytes / 256, reserve := 64 + bytes }

/-- A WRITE in transit that came in at sub-port 1. -/
def transitWrite : RxFrame :=
  { frame := { State.reset.newFrame 2 0 0 2 with payBytes := 64, payload := zeros 64 }, sub := some 1, via := 1, at_ := 0,
    partner := 0 }

/-- A live remote port with the transmit buffer of sub-port 0 filled by `longReply` and by what its issued READs reserve,
so that `transitWrite` waits. The gate list of sub-port 0 opens class 0 for 1 ns in 2. -/
def fullSubportState : State :=
  let s : State := { State.reset with
    pwr := { State.reset.pwr with up := Vector.replicate 133 true },
    rmt := { Rmt.init with
      reqs := (upto 31).map (issuedRead · 4096) ++ [issuedRead 31 1792], fwd := [(transitWrite, 0)] } }
  ((((s.setDom 120 .on).sf (Reg.RMT_GATE_STATUS 0) Fld.RMT_GATE_STATUS_ACTIVE_LEN 2).wr (Reg.RMT_GATE_ACTIVE 0 0)
    0x01000001).wr (Reg.RMT_GATE_ACTIVE 0 1) 0x00000001).modSub 0 fun q => { q with tx := [longReply] }

/-- The reply is longer than its class's longest window, and its header alone is not. -/
theorem longReply_oversize : fullSubportState.oversize 0 longReply = true ∧
    fullSubportState.oversize 0 (shortTx longReply) = false := by
  decide +kernel

/-- There is no room for the forwarded frame before the refusal, and the refusal makes room for it. -/
theorem transitWrite_enters : fullSubportState.txRoom 0 transitWrite.frame.len = false ∧
    ((gateRefusal 0 fullSubportState).sub 0).tx.length = 2 := by
  decide +kernel

/-- Refutes O46: the clause on the refusal of a reply (its first) says that the sub-port's queue then holds the shortened
reply and nothing else, and does not ask that no forwarded frame waits. In `fullSubportState` one does, and it enters the
queue in the space that the refusal frees (R351). The clause speaks of every state; no claim is made that this one is
reached. -/
theorem not_gateLists : ¬ Obligations.GateLists := by
  unfold Obligations.GateLists
  rintro ⟨hrefusal, -⟩
  have hlive : fullSubportState.live .remote = true := by decide +kernel
  have hqueue : (fullSubportState.sub 0).tx = [longReply] := by decide +kernel
  obtain ⟨hlong, hshort⟩ := longReply_oversize
  obtain ⟨t, ht, htx, -⟩ := hrefusal fullSubportState 0 longReply hlive hqueue ⟨by decide, rfl⟩ hlong hshort
  have hexec : exec (.gateRefusal 0) fullSubportState = .next (gateRefusal 0 fullSubportState) :=
    congrArg Host.Outcome.next (State.onLive_true hlive)
  obtain rfl : gateRefusal 0 fullSubportState = t := by simpa [hexec] using ht
  obtain ⟨-, hentered⟩ := transitWrite_enters
  exact absurd (hentered.symm.trans (congrArg List.length htx)) (by decide)

end Sys2Proof.Machine
end

section
/-! SUPPORT. The counterexample to O18: a row health partition that lists one entry twice. -/

namespace Sys2Proof.Machine

/-! ### An uncorrectable event of a row that is listed behind an invalid entry of its index (R162 to R164) -/

/-- An uncorrectable event of row 0 of bank 0, in the lowest layer group of PC 0. -/
def listedRowEvent : RowEvent :=
  { loc := { rank := 0, bg := 0, bank := 0, row := 0, col := 0 }, uncorrectable := true, time := 0 }

/-- A PC whose oldest event is `listedRowEvent` and whose partition lists entry 0 twice: as an invalid one, which a read
of the entry gives, and behind it as the WATCH entry of that row, which the search for the row finds. -/
def twiceListedPc : Pc :=
  { Pc.init with
    rowh := [(0, RowEntry.none), (0, newRow listedRowEvent.loc false 0)], events := [listedRowEvent] }

/-- A state in which the upkeep core runs, PC 0 is live and stands as `twiceListedPc`. -/
def twiceListedState : State :=
  let s : State := { State.reset with
    pwr := { State.reset.pwr with up := Vector.replicate 133 true },
    fw := { Fw.init with cores := Vector.replicate 4 { FwCore.init with run := true } } }
  ((s.sf Reg.FW_STATUS Fld.FW_STATUS_STATE 4).setDom 0 .on).modPc 0 fun _ => twiceListedPc

/-- The event finds entry 0, and leaves the invalid entry that it reads there invalid; firmware's write of row 1 then
enters its own row (R162). -/
theorem twiceListedState_renames : (twiceListedState.pcs[(0 : Fin 64)].rowEntry (0 : Fin 2048)).row = 0 ∧
    ((rowFwWrite 0 0 true 2 20 { rank := 0, bg := 0, bank := 0, row := 1, col := 0 } true
      twiceListedState).pcs[(0 : Fin 64)].rowEntry (0 : Fin 2048)).row = 1 := by
  decide +kernel

/-- Refutes O18: the clause on a write that ties with an uncorrectable event (its sixth) says that the entry keeps its
row, and does not ask that the partition lists every entry once. In `twiceListedState` it lists entry 0 twice, and the
row changes. The clause speaks of every state; no claim is made that this one is reached. -/
theorem not_rowHealth : ¬ Obligations.RowHealth := by
  unfold Obligations.RowHealth
  rintro ⟨-, -, -, -, -, htie, -⟩
  have hruns : twiceListedState.fwRuns .upkeep = true := by decide +kernel
  have hlive : twiceListedState.live (.pc 0) = true := by decide +kernel
  have hfound : twiceListedState.pcs[(0 : Fin 64)].rowIndex listedRowEvent.loc = some 0 := by decide +kernel
  have hclass : (twiceListedState.pcs[(0 : Fin 64)].rowEntry (0 : Fin 2048)).cls ≠ 5 := by decide +kernel
  obtain ⟨t, ht, -, hrow, -⟩ :=
    htie twiceListedState 0 0 true 2 20 0 0 1 listedRowEvent [] hruns hlive rfl rfl hfound hclass
  have hexec : exec (.rowHealthFwWrite 0 0 true 2 20 0 0 1 true) twiceListedState = .next
      (rowFwWrite 0 0 true 2 20 { rank := 0, bg := 0, bank := 0, row := 1, col := 0 } true twiceListedState) :=
    congrArg Host.Outcome.next ((State.onCore_true hruns).trans (State.onLive_true hlive))
  obtain rfl := Host.Outcome.next.inj (hexec.symm.trans ht)
  obtain ⟨hbefore, hafter⟩ := twiceListedState_renames
  exact absurd (hafter.symm.trans (hrow.trans hbefore)) (by decide)

end Sys2Proof.Machine
end

section
/-! SUPPORT. Firmware's inhibits of layer groups, and the states of ranks (O19). -/

namespace Sys2Proof.Machine

/-! ### Single bits of a number -/

/-- Clearing one bit leaves the others. -/
theorem testBit_natSetBits_zero (x j k : Nat) :
    (natSetBits x j 1 0).testBit k = (x.testBit k && !decide (k = j)) := by
  rw [← natBits_one, ← natBits_one x]
  rcases Nat.lt_trichotomy k j with hlt | rfl | hgt
  · rw [natBits_set_below _ _ _ _ _ _ (by omega : k + 1 ≤ j)]
    simp [hlt.ne]
  · simp [natBits_set_same]
  · rw [natBits_set_above _ _ _ _ _ _ (by omega : j + 1 ≤ k)]
    simp [hgt.ne']

/-- Clearing the bits of a list leaves the others. -/
theorem testBit_clearAll (l : List Nat) (x k : Nat) :
    (l.foldl (fun acc j => natSetBits acc j 1 0) x).testBit k = (x.testBit k && !decide (k ∈ l)) := by
  induction l generalizing x with
  | nil => simp
  | cons j l ih =>
    rw [List.foldl_cons, ih, testBit_natSetBits_zero]
    simp [Bool.and_assoc]

/-! ### The layer groups of a PC whose inhibit is taken (R170, R178) -/

section inhibit

variable (s : State) (p : Fin 64) (g : Nat)

/-- The layer groups whose inhibit the block refuses of those that firmware names at a PC (R170). -/
def State.refusedGroups : List Nat := (upto 4).filter fun j => g.testBit j && s.inhibitRefused (j * 64 + p)

/-- The layer groups that firmware names, without the refused ones (R178). -/
def State.takenGroups : Nat := (s.refusedGroups p g).foldl (fun acc j => natSetBits acc j 1 0) g

theorem writeInhibit_eq : s.writeInhibit p g =
    ((s.sf (Reg.PC_REF_INHIBIT p) Fld.PC_REF_INHIBIT_GROUP (s.takenGroups p g)).sf (Reg.PC_REF_STATUS p)
      Fld.PC_REF_STATUS_INHIBITED (s.takenGroups p g)).raiseIf (!(s.refusedGroups p g).isEmpty) (Reg.PC_REF_STATUS p)
      Fld.PC_REF_STATUS_REF_INHIBIT_REFUSED := rfl

theorem mem_refusedGroups {j : Nat} :
    j ∈ s.refusedGroups p g ↔ j < 4 ∧ g.testBit j = true ∧ s.inhibitRefused (j * 64 + p) = true := by
  simp [State.refusedGroups]

theorem testBit_takenGroups {j : Nat} (hj : j < 4) :
    (s.takenGroups p g).testBit j = (g.testBit j && !s.inhibitRefused (j * 64 + p)) := by
  rw [State.takenGroups, testBit_clearAll]
  simp only [mem_refusedGroups, hj, true_and]
  cases g.testBit j <;> cases s.inhibitRefused (j * 64 + p) <;> rfl

/-- The inhibits in force are those that firmware names and the block does not refuse (R170). -/
theorem inhibited_writeInhibit {j : Nat} (hj : j < 4) :
    (s.writeInhibit p g).inhibited p j = (g.testBit j && !s.inhibitRefused (j * 64 + p)) := by
  have hoff : Reg.PC_REF_INHIBIT p ≠ Reg.PC_REF_STATUS p := by simp [Reg.PC_REF_INHIBIT, Reg.PC_REF_STATUS]
  have hgroup : (s.writeInhibit p g).gf (Reg.PC_REF_INHIBIT p) Fld.PC_REF_INHIBIT_GROUP = s.takenGroups p g % 2 ^ 4 := by
    rw [writeInhibit_eq, State.gf_raiseIf_other _ _ _ _ _ hoff, State.gf_sf_other _ _ _ _ _ _ hoff]
    exact State.gf_sf_same _ _ _ _ (by decide)
  rw [State.inhibited, hgroup, testBit_mod_two_pow_of_lt _ hj, testBit_takenGroups s p g hj]

/-- PC_REF_STATUS shows a copy of the inhibits in force (R178). -/
theorem gf_inhibited_writeInhibit :
    (s.writeInhibit p g).gf (Reg.PC_REF_STATUS p) Fld.PC_REF_STATUS_INHIBITED = s.takenGroups p g % 16 := by
  rw [writeInhibit_eq, State.gf_raiseIf_apart _ _ _ _ _ (by decide) (by decide)]
  exact State.gf_sf_same _ _ _ _ (by decide)

/-- A refused group sets REF_INHIBIT_REFUSED (R170). -/
theorem bit_refused_writeInhibit {j : Nat} (hj : j ∈ s.refusedGroups p g) :
    (s.writeInhibit p g).bit (Reg.PC_REF_STATUS p) Fld.PC_REF_STATUS_REF_INHIBIT_REFUSED = true := by
  rw [writeInhibit_eq]
  refine State.bit_raiseIf _ _ _ _ (by decide) rfl (.inl ?_)
  simpa using List.ne_nil_of_mem hj

theorem keepsRegs_writeInhibit : KeepsRegs s (s.writeInhibit p g) [Reg.PC_REF_INHIBIT p, Reg.PC_REF_STATUS p] :=
  (KeepsRegs.refl s _).writeInhibit (by simp) (by simp) g

end inhibit

/-! ### The states of ranks (R470) -/

section ranks

variable {s t : State} {r : Nat}

theorem rankState_congr (h : t.rd (Reg.PC_RANK_STATE (r / 8)) = s.rd (Reg.PC_RANK_STATE (r / 8))) :
    t.rankState r = s.rankState r :=
  State.gf_congr (f := ⟨4 * (r % 8), 4⟩) h

theorem rankState_setRank_same (s : State) (r v : Nat) : (s.setRank r v).rankState r = v % 16 :=
  State.gf_sf_same s (Reg.PC_RANK_STATE (r / 8)) ⟨4 * (r % 8), 4⟩ v (by dsimp only; omega)

/-- The rank states stand below the registers of the PCs (R470, R522). -/
theorem rankReg_lt (hr : r < 256) : Reg.PC_RANK_STATE (r / 8) < 0x100000 := by
  unfold Reg.PC_RANK_STATE
  omega

/-- An inhibit leaves the state of every rank. -/
theorem rankState_writeInhibit (s : State) (p : Fin 64) (g : Nat) (hr : r < 256) :
    (s.writeInhibit p g).rankState r = s.rankState r := by
  have hlow := rankReg_lt hr
  refine rankState_congr (keepsRegs_writeInhibit s p g _ ?_)
  simp only [List.mem_cons, List.not_mem_nil, or_false, Reg.PC_REF_INHIBIT, Reg.PC_REF_STATUS]
  omega

/-- A new state of a rank leaves every inhibit. -/
theorem inhibited_setRank (s : State) (p : Fin 64) (j v : Nat) (hr : r < 256) :
    (s.setRank r v).inhibited p j = s.inhibited p j := by
  have hlow := rankReg_lt hr
  have hoff : Reg.PC_REF_INHIBIT p ≠ Reg.PC_RANK_STATE (r / 8) := by
    unfold Reg.PC_REF_INHIBIT
    omega
  exact congrArg (·.testBit j) (State.gf_congr (State.rd_wr_ne s _ _ hoff) Fld.PC_REF_INHIBIT_GROUP)

/-- A rank outside the range carries no data, so that its inhibit is taken (R170). -/
theorem inhibitRefused_of_reserve (h : s.rankState r = 4 ∨ s.rankState r = 5) : s.inhibitRefused r = false := by
  rcases h with h | h <;> simp [State.inhibitRefused, h]

end ranks

/-! ### REF_INHIBIT_WRITE (R170, R178) -/

section write

variable {s : State} {p : Fin 64}

theorem exec_refInhibitWrite (hruns : s.fwRuns .upkeep = true) (hlive : s.live (.pc p) = true) (g : BitVec 4) :
    exec (.refInhibitWrite p g) s = .next (s.writeInhibit p g.toNat) :=
  congrArg Host.Outcome.next ((State.onCore_true hruns).trans (State.onLive_true hlive))

theorem gives_refInhibitWrite (s : State) (p : Fin 64) (g : BitVec 4) (hruns : s.fwRuns .upkeep = true)
    (hlive : s.live (.pc p) = true)
    (htaken : ∀ j : Fin 4, g.getLsbD j = true → s.inhibitRefused (j.val * 64 + p.val) = false) :
    Gives (.refInhibitWrite p g) s fun t =>
      (∀ j : Nat, j < 4 → t.inhibited p j = g.getLsbD j) ∧ t.gf (Reg.PC_REF_STATUS p) Fld.PC_REF_STATUS_INHIBITED =
        g.toNat ∧ Keeps s t [] ∧ KeepsRegs s t [Reg.PC_REF_INHIBIT p, Reg.PC_REF_STATUS p] := by
  have hnone : s.refusedGroups p g.toNat = [] := List.eq_nil_iff_forall_not_mem.mpr fun j hj => by
    obtain ⟨hj4, hbit, href⟩ := (mem_refusedGroups s p _).mp hj
    simp [htaken ⟨j, hj4⟩ hbit] at href
  have hall : s.takenGroups p g.toNat = g.toNat := by rw [State.takenGroups, hnone, List.foldl_nil]
  refine ⟨_, exec_refInhibitWrite hruns hlive g, fun j hj => ?_, ?_, State.writeInhibit_keeps _ _ _ (Keeps.refl _ _),
    keepsRegs_writeInhibit _ _ _⟩
  · rw [inhibited_writeInhibit s p _ hj, ← testBit_takenGroups s p _ hj, hall, BitVec.testBit_toNat]
  · rw [gf_inhibited_writeInhibit, hall, Nat.mod_eq_of_lt g.isLt]

theorem gives_refInhibitWrite_refused (s : State) (p : Fin 64) (g : BitVec 4) (j : Fin 4)
    (hruns : s.fwRuns .upkeep = true) (hlive : s.live (.pc p) = true) (hnamed : g.getLsbD j = true)
    (href : s.inhibitRefused (j.val * 64 + p.val) = true) :
    Gives (.refInhibitWrite p g) s fun t =>
      t.inhibited p j = false ∧ t.bit (Reg.PC_REF_STATUS p) Fld.PC_REF_STATUS_REF_INHIBIT_REFUSED = true ∧ Keeps s t []
        ∧ KeepsRegs s t [Reg.PC_REF_INHIBIT p, Reg.PC_REF_STATUS p] := by
  have hmem : j.val ∈ s.refusedGroups p g.toNat := (mem_refusedGroups s p _).mpr ⟨j.isLt, hnamed, href⟩
  refine ⟨_, exec_refInhibitWrite hruns hlive g, ?_, bit_refused_writeInhibit s p _ hmem,
    State.writeInhibit_keeps _ _ _ (Keeps.refl _ _), keepsRegs_writeInhibit _ _ _⟩
  rw [inhibited_writeInhibit s p _ j.isLt, href, Bool.not_true, Bool.and_false]

end write

end Sys2Proof.Machine
end

section
/-! SUPPORT. Retention tests of a rank: how a hold begins and how it ends (O19). -/

namespace Sys2Proof.Machine

theorem pcFin_ofGroup (g : Fin 4) (p : Fin 64) : pcFin (g.val * 64 + p.val) = p := Fin.ext (pc_ofGroup g p)

theorem div_ofGroup (g : Fin 4) (p : Fin 64) : (g.val * 64 + p.val) / 64 = g.val := by
  have := p.isLt
  omega

/-- A rank is the one of its layer group at its PC (R83). -/
theorem group_mul_add_pcFin (r : Nat) : r / 64 * 64 + (pcFin r).val = r := by
  have hval : (pcFin r).val = r % 64 := rfl
  omega

section

variable {s0 s : State} {rs : List Nat}

theorem KeepsRegs.setRank (h : KeepsRegs s0 s rs) {r : Nat} (m : Reg.PC_RANK_STATE (r / 8) ∈ rs) (v : Nat) :
    KeepsRegs s0 (s.setRank r v) rs := h.wr m _

theorem KeepsRegs.freeRank (h : KeepsRegs s0 s rs) {r : Nat} (mr : Reg.PC_RANK_STATE (r / 8) ∈ rs)
    (mi : Reg.PC_REF_INHIBIT (pcFin r) ∈ rs) (ms : Reg.PC_REF_STATUS (pcFin r) ∈ rs) : KeepsRegs s0 (s.freeRank r) rs :=
  KeepsRegs.iff _ (h.writeInhibit mi ms _) ((h.writeInhibit mi ms _).setRank mr _)

end

/-! ### The start of a hold (R168, R169) -/

section start

variable {s : State} {p : Fin 64} {layer hold : Fin 4} {temp : Int}

/-- The rank of a test has lost its contents, and one of the reserve is under test (R168). -/
def State.rankTaken (s : State) (r : Nat) : State :=
  (s.loseRank r).iff (decide (s.rankState r = 4)) fun t => t.setRank r 5

/-- Refresh of a rank's layer group is inhibited beside the groups that already are (R168). -/
def State.inhibitRank (s : State) (r : Nat) : State :=
  s.writeInhibit (pcFin r) (s.gf (Reg.PC_REF_INHIBIT (pcFin r)) Fld.PC_REF_INHIBIT_GROUP ||| 2 ^ (r / 64))

/-- The test of a rank with its hold begun (R168). -/
def State.holdBegun (s : State) (r hold : Nat) (temp : Int) : RetTest :=
  { rank := r, hold := hold, temp := temp, startAt := s.now .firmware, holding := true,
    failed := if hold = 0 then [] else ((s.testOf r).map (·.failed)).getD [] }

theorem rankTaken_keeps (s : State) (r : Nat) : Keeps s (s.rankTaken r) [.stack] :=
  State.iff_keeps _ _ _ (State.loseRank_keeps _ _ (Keeps.refl _ _) (by simp))
    fun _ h => State.setRank_keeps _ _ _ h

theorem rankTaken_stack (s : State) (r : Nat) : (s.rankTaken r).stack = (s.loseRank r).stack := by
  unfold State.rankTaken
  cases decide (s.rankState r = 4) <;> rfl

theorem keepsRegs_rankTaken (s : State) (r : Nat) : KeepsRegs s (s.rankTaken r) [Reg.PC_RANK_STATE (r / 8)] :=
  have hlost := (KeepsRegs.refl s _).loseRank r
  KeepsRegs.iff _ hlost (hlost.setRank (by simp) 5)

theorem rankState_rankTaken (s : State) (r : Nat) (h : s.rankState r = 4) : (s.rankTaken r).rankState r = 5 := by
  rw [State.rankTaken, h]
  exact rankState_setRank_same _ r 5

theorem inhibitRank_keeps (s : State) (r : Nat) : Keeps s (s.inhibitRank r) [] :=
  State.writeInhibit_keeps _ _ _ (Keeps.refl _ _)

theorem keepsRegs_inhibitRank (s : State) (r : Nat) :
    KeepsRegs s (s.inhibitRank r) [Reg.PC_REF_INHIBIT (pcFin r), Reg.PC_REF_STATUS (pcFin r)] :=
  keepsRegs_writeInhibit _ _ _

theorem inhibited_inhibitRank (s : State) {r : Nat} (hr : r < 256) (h : s.inhibitRefused r = false) :
    (s.inhibitRank r).inhibited (pcFin r) (r / 64) = true := by
  rw [State.inhibitRank, inhibited_writeInhibit _ _ _ (by omega), group_mul_add_pcFin, h]
  simp [Nat.testBit_or, Nat.testBit_two_pow_self]

theorem retentionTest_eq {r : Nat} (htemp : s.testTemp = some temp) (htestable : s.testable r = true)
    (href : s.inhibitRefused r = false) (horder : s.holdInOrder r hold = true) : retentionTest r hold s =
      { (s.rankTaken r).inhibitRank r with
        tests := s.holdBegun r hold temp :: s.tests.filter fun x => x.rank ≠ r } := by
  simp only [retentionTest, htemp, htestable, href, horder]
  unfold State.inhibitRank State.rankTaken
  cases decide (s.rankState r = 4) <;> rfl

/-- What the start of a hold does at every rank that may be tested (R168, R169). -/
theorem retentionTest_begins (s : State) (p : Fin 64) (layer hold : Fin 4) (temp : Int) (r : Nat)
    (hrank : r = layer.val * 64 + p.val) (htemp : s.testTemp = some temp) (htestable : s.testable r = true)
    (href : s.inhibitRefused r = false) (horder : s.holdInOrder r hold = true) :
    r ∈ (retentionTest r hold s).stack.undef ∧ (∃ x ∈ (retentionTest r hold s).tests, x.rank = r ∧ x.hold = hold.val ∧
      x.temp = temp ∧ x.holding = true ∧ x.startAt = s.now .firmware) ∧
      (retentionTest r hold s).stack.cells = s.stack.cells ∧ Keeps s (retentionTest r hold s) [.stack, .tests] ∧
      KeepsRegs s (retentionTest r hold s)
        [Reg.PC_RANK_STATE (r / 8), Reg.PC_REF_INHIBIT p, Reg.PC_REF_STATUS p] := by
  have hpc : pcFin r = p := hrank ▸ pcFin_ofGroup layer p
  have hstack : ((s.rankTaken r).inhibitRank r).stack = (s.loseRank r).stack :=
    (inhibitRank_keeps _ r .stack (by simp)).trans (rankTaken_stack s r)
  have hregs : KeepsRegs s ((s.rankTaken r).inhibitRank r)
      [Reg.PC_RANK_STATE (r / 8), Reg.PC_REF_INHIBIT p, Reg.PC_REF_STATUS p] :=
    ((keepsRegs_rankTaken s r).mono (by simp)).trans ((keepsRegs_inhibitRank _ r).mono (by simp [hpc]))
  have hkeeps : Keeps s ((s.rankTaken r).inhibitRank r) [.stack, .tests] :=
    State.writeInhibit_keeps _ _ _ fun q hq => rankTaken_keeps s r q (by simp_all)
  rw [retentionTest_eq htemp htestable href horder]
  refine ⟨?_, ⟨_, List.mem_cons_self, rfl, rfl, rfl, rfl, rfl⟩, (congrArg Stack.cells hstack :),
    hkeeps.set_tests (by simp) _, hregs.of_regs rfl⟩
  simp only [hstack, State.loseRank, List.mem_cons, true_or]

theorem exec_retentionTest {r : Nat} (hruns : s.fwRuns .upkeep = true) (hlive : s.live (.pc p) = true)
    (hrank : r = layer.val * 64 + p.val) :
    exec (.retentionTest p layer hold) s = .next (retentionTest r hold s) := by
  subst hrank
  exact congrArg Host.Outcome.next ((State.onCore_true hruns).trans (State.onLive_true hlive))

theorem gives_retentionTest_reserve (s : State) (p : Fin 64) (layer hold : Fin 4) (temp : Int) (r : Nat)
    (hruns : s.fwRuns .upkeep = true) (hlive : s.live (.pc p) = true) (hrank : r = layer.val * 64 + p.val)
    (htemp : s.testTemp = some temp) (hstate : s.rankState r = 4) (horder : s.holdInOrder r hold = true) :
    Gives (.retentionTest p layer hold) s fun t =>
      r ∈ t.stack.undef ∧ t.inhibited p layer = true ∧ t.rankState r = 5 ∧ (∃ x ∈ t.tests, x.rank = r ∧ x.hold =
        hold.val ∧ x.temp = temp ∧ x.holding = true ∧ x.startAt = s.now .firmware) ∧ t.stack.cells = s.stack.cells ∧
        Keeps s t [.stack, .tests] ∧ KeepsRegs s t [Reg.PC_RANK_STATE (r / 8), Reg.PC_REF_INHIBIT p, Reg.PC_REF_STATUS
        p] := by
  have hr : r < 256 := by omega
  have htestable : s.testable r = true := by simp [State.testable, hstate]
  have href : s.inhibitRefused r = false := inhibitRefused_of_reserve (.inl hstate)
  have htaken : (s.rankTaken r).rankState r = 5 := rankState_rankTaken s r hstate
  have hinhibited : ((s.rankTaken r).inhibitRank r).inhibited p layer = true := by
    have h := inhibited_inhibitRank (s.rankTaken r) hr (inhibitRefused_of_reserve (.inr htaken))
    rwa [hrank, pcFin_ofGroup, div_ofGroup, ← hrank] at h
  obtain ⟨hundef, hbegun, hcells, hkeeps, hregs⟩ :=
    retentionTest_begins s p layer hold temp r hrank htemp htestable href horder
  refine ⟨_, exec_retentionTest hruns hlive hrank, hundef, ?_, ?_, hbegun, hcells, hkeeps, hregs⟩
  · rw [retentionTest_eq htemp htestable href horder]
    exact hinhibited
  · rw [retentionTest_eq htemp htestable href horder]
    exact (rankState_writeInhibit _ _ _ hr).trans htaken

theorem gives_retentionTest (s : State) (p : Fin 64) (layer hold : Fin 4) (temp : Int) (r : Nat)
    (hruns : s.fwRuns .upkeep = true) (hlive : s.live (.pc p) = true) (hrank : r = layer.val * 64 + p.val)
    (htemp : s.testTemp = some temp) (htestable : s.testable r = true) (href : s.inhibitRefused r = false)
    (horder : s.holdInOrder r hold = true) :
    Gives (.retentionTest p layer hold) s fun t =>
      r ∈ t.stack.undef ∧ (∃ x ∈ t.tests, x.rank = r ∧ x.hold = hold.val ∧ x.temp = temp ∧ x.holding = true ∧ x.startAt
        = s.now .firmware) ∧ t.stack.cells = s.stack.cells ∧ Keeps s t [.stack, .tests] ∧ KeepsRegs s t
        [Reg.PC_RANK_STATE (r / 8), Reg.PC_REF_INHIBIT p, Reg.PC_REF_STATUS p] :=
  ⟨_, exec_retentionTest hruns hlive hrank, retentionTest_begins s p layer hold temp r hrank htemp htestable href horder⟩

end start

/-! ### The end of a hold (R165, R168) -/

section expiry

variable {s : State} {rank : Nat} {x : RetTest}

/-- What is left of a test whose hold has ended: nothing after the last hold (R168). -/
def RetTest.held (x : RetTest) (failed : List (Fin 4 × Fin 4 × BitVec 15)) : List RetTest :=
  if x.hold = 3 then [] else [{ x with holding := false, failed := x.failed ++ x.newly failed }]

/-- The rows that a hold has tested and failed are classified, with refresh of the rank enabled again (R165, R168). -/
def State.rowsJudged (s : State) (rank : Nat) (x : RetTest) (failed : List (Fin 4 × Fin 4 × BitVec 15)) : State :=
  (x.newly failed).foldl (fun t (bg, bank, row) =>
    t.classifyHold { rank := rank, bg := bg, bank := bank, row := row.toNat, col := 0 } (holdMs (Fin.ofNat 4 x.hold))
      x.temp) (s.freeRank rank)

theorem retentionExpiry_eq (htest : s.testOf rank = some x) (hholding : x.holding = true)
    (hover : x.startAt + holdMs (Fin.ofNat 4 x.hold) * 1000000 ≤ s.now .firmware)
    (failed : List (Fin 4 × Fin 4 × BitVec 15)) : retentionExpiry rank failed s =
      { s.rowsJudged rank x failed with tests := x.held failed ++ s.tests.filter fun y => y.rank ≠ rank } := by
  simp only [retentionExpiry, htest, hholding, hover]
  rfl

theorem mem_held {failed : List (Fin 4 × Fin 4 × BitVec 15)} {y : RetTest} (hy : y ∈ x.held failed) :
    x.hold ≠ 3 ∧ y = { x with holding := false, failed := x.failed ++ x.newly failed } := by
  unfold RetTest.held at hy
  split at hy
  · simp at hy
  · next hlast => exact ⟨hlast, List.mem_singleton.mp hy⟩

/-- A test of the rank that stands after the end of its hold is what the hold has left of it. -/
theorem mem_tests_of_rank {failed : List (Fin 4 × Fin 4 × BitVec 15)} {y : RetTest}
    (hy : y ∈ x.held failed ++ s.tests.filter fun y => y.rank ≠ rank) (hrank : y.rank = rank) : y ∈ x.held failed :=
  (List.mem_append.mp hy).resolve_right fun h => by simp [hrank] at h

theorem clearRowClass_regs (s : State) (l : Loc) (ms : Nat) : (s.clearRowClass l ms).regs = s.regs := by
  unfold State.clearRowClass
  dsimp only
  split <;> rfl

theorem setRowClass_regs (s : State) (l : Loc) (c ms : Nat) : (s.setRowClass l c ms).regs = s.regs := by
  unfold State.setRowClass
  dsimp only
  split <;> rfl

theorem KeepsRegs.classifyHold {s0 : State} {rs : List Nat} (h : KeepsRegs s0 s rs) (l : Loc) (hold : Nat)
    (temp : Int) : KeepsRegs s0 (s.classifyHold l hold temp) rs := by
  unfold State.classifyHold
  dsimp only
  split
  · exact h.of_regs (clearRowClass_regs _ _ _)
  · exact KeepsRegs.iff _ (h.of_regs (setRowClass_regs _ _ _ _)) (h.of_regs (setRowClass_regs _ _ _ _))

theorem keepsRegs_rowsJudged (s : State) (rank : Nat) (x : RetTest) (failed : List (Fin 4 × Fin 4 × BitVec 15)) :
    KeepsRegs s (s.rowsJudged rank x failed) [Reg.PC_RANK_STATE (rank / 8), Reg.PC_REF_INHIBIT (pcFin rank),
      Reg.PC_REF_STATUS (pcFin rank)] :=
  KeepsRegs.foldl _ (fun _ _ _ hu => hu.classifyHold _ _ _)
    ((KeepsRegs.refl s _).freeRank (by simp) (by simp) (by simp))

/-- A rank that was under test is free, and its layer group is refreshed again (R168). -/
theorem freeRank_frees (s : State) {rank : Nat} (hr : rank < 256) (hstate : s.rankState rank = 5) :
    (s.freeRank rank).inhibited (pcFin rank) (rank / 64) = false ∧ (s.freeRank rank).rankState rank = 4 := by
  simp only [State.freeRank, State.iff, hstate, decide_true, if_true]
  refine ⟨?_, rankState_setRank_same _ rank 4⟩
  rw [inhibited_setRank _ _ _ _ hr, inhibited_writeInhibit _ _ _ (by omega), testBit_natSetBits_zero]
  simp

theorem exec_retentionHoldExpiry {rank : BitVec 8} (hruns : s.fwRuns .upkeep = true)
    (hlive : s.live (.pc (pcFin rank.toNat)) = true) (failed : List (Fin 4 × Fin 4 × BitVec 15)) :
    exec (.retentionHoldExpiry rank failed) s = .next (retentionExpiry rank.toNat failed s) :=
  congrArg Host.Outcome.next ((State.onCore_true hruns).trans (State.onLive_true hlive))

theorem gives_retentionHoldExpiry (s : State) (rank : BitVec 8) (failed : List (Fin 4 × Fin 4 × BitVec 15))
    (x : RetTest) (hruns : s.fwRuns .upkeep = true) (hlive : s.live (.pc (pcFin rank.toNat)) = true)
    (htest : s.testOf rank.toNat = some x) (hholding : x.holding = true)
    (hover : x.startAt + holdMs (Fin.ofNat 4 x.hold) * 1000000 ≤ s.now .firmware) :
    Gives (.retentionHoldExpiry rank failed) s fun t =>
      (∀ y ∈ t.tests, y.rank = rank.toNat → y.holding = false ∧ y.hold = x.hold ∧ y.failed = x.failed ++ x.newly
        failed) ∧ (∀ y ∈ s.tests, y.rank ≠ rank.toNat → y ∈ t.tests) ∧ Keeps s t [.age, .inbox, .pcs, .tests] ∧
        KeepsRegs s t [Reg.PC_RANK_STATE (rank.toNat / 8), Reg.PC_REF_INHIBIT (pcFin rank.toNat), Reg.PC_REF_STATUS
        (pcFin rank.toNat)] := by
  refine ⟨_, exec_retentionHoldExpiry hruns hlive failed, ?_, ?_,
    retentionExpiry_keeps _ _ _ (Keeps.refl _ _) (by simp) (by simp) (by simp) (by simp), ?_⟩ <;>
    rw [retentionExpiry_eq htest hholding hover]
  · intro y hy hrank
    obtain ⟨-, rfl⟩ := mem_held (mem_tests_of_rank hy hrank)
    exact ⟨rfl, rfl, rfl⟩
  · exact fun y hy hrank => List.mem_append_right _ (by simpa [hrank] using hy)
  · exact (keepsRegs_rowsJudged _ _ _ _).of_regs rfl

theorem gives_retentionHoldExpiry_passed (s : State) (rank : BitVec 8) (x : RetTest) (hruns : s.fwRuns .upkeep = true)
    (hlive : s.live (.pc (pcFin rank.toNat)) = true) (htest : s.testOf rank.toNat = some x) (hholding : x.holding = true)
    (hover : x.startAt + holdMs (Fin.ofNat 4 x.hold) * 1000000 ≤ s.now .firmware) (hstate : s.rankState rank.toNat = 5) :
    Gives (.retentionHoldExpiry rank []) s fun t =>
      t.inhibited (pcFin rank.toNat) (rank.toNat / 64) = false ∧ t.rankState rank.toNat = 4 ∧ (∀ y ∈ t.tests, y.rank =
        rank.toNat → y.holding = false ∧ y.hold = x.hold) ∧ (x.hold = 3 → ∀ y ∈ t.tests, y.rank ≠ rank.toNat) ∧ Keeps s
        t [.tests] ∧ KeepsRegs s t [Reg.PC_RANK_STATE (rank.toNat / 8), Reg.PC_REF_INHIBIT (pcFin rank.toNat),
        Reg.PC_REF_STATUS (pcFin rank.toNat)] := by
  have hnone : s.rowsJudged rank.toNat x [] = s.freeRank rank.toNat := rfl
  obtain ⟨hinhibit, hfree⟩ := freeRank_frees s rank.isLt hstate
  refine ⟨_, exec_retentionHoldExpiry hruns hlive [], ?_⟩
  rw [retentionExpiry_eq htest hholding hover, hnone]
  refine ⟨hinhibit, hfree, fun y hy hrank => ?_, fun hlast y hy hrank => ?_,
    Keeps.set_tests (State.freeRank_keeps _ _ (Keeps.refl _ _)) (by simp) _, ?_⟩
  · obtain ⟨-, rfl⟩ := mem_held (mem_tests_of_rank hy hrank)
    exact ⟨rfl, rfl⟩
  · exact (mem_held (mem_tests_of_rank hy hrank)).1 hlast
  · exact (keepsRegs_rowsJudged s rank.toNat x []).of_regs rfl

end expiry

end Sys2Proof.Machine
end

section
/-! SUPPORT. The exit scrub of a PC: what its reads change, and how it ends (O19). -/

namespace Sys2Proof.Machine

/-! ### What the scrub leaves of the other PCs (R172) -/

/-- Every PC but one stands as it was. -/
def OtherPcsKept (s t : State) (p : Fin 64) : Prop := ∀ q, q ≠ p → t.pcs[q] = s.pcs[q]

section others

variable {s0 s t : State} {p : Fin 64}

theorem OtherPcsKept.refl (s : State) (p : Fin 64) : OtherPcsKept s s p := fun _ _ => rfl

theorem OtherPcsKept.of_pcs (h : OtherPcsKept s0 s p) (e : t.pcs = s.pcs) : OtherPcsKept s0 t p := fun q hq => by
  rw [e, h q hq]

theorem OtherPcsKept.modPc (h : OtherPcsKept s0 s p) (f : Pc → Pc) : OtherPcsKept s0 (s.modPc p f) p := fun q hq =>
  (pcs_modPc_other hq).trans (h q hq)

theorem OtherPcsKept.ite {c : Prop} [Decidable c] (hs : OtherPcsKept s0 s p) (ht : OtherPcsKept s0 t p) :
    OtherPcsKept s0 (if c then s else t) p := by
  split <;> assumption

theorem OtherPcsKept.of_keeps {ps : List Region} (h : OtherPcsKept s0 s p) (hk : Keeps s t ps) (m : .pcs ∉ ps) :
    OtherPcsKept s0 t p := h.of_pcs (hk .pcs m)

theorem OtherPcsKept.sf (h : OtherPcsKept s0 s p) (o : Nat) (f : Fld) (v : Nat) : OtherPcsKept s0 (s.sf o f v) p :=
  h.of_pcs rfl

theorem OtherPcsKept.raise (h : OtherPcsKept s0 s p) (o : Nat) (f : Fld) : OtherPcsKept s0 (s.raise o f) p :=
  h.sf _ _ _

theorem OtherPcsKept.logRec (h : OtherPcsKept s0 s p) (code : Nat) (args : List Nat) :
    OtherPcsKept s0 (s.logRec code args) p := h.of_pcs rfl

theorem OtherPcsKept.rowEvent (h : OtherPcsKept s0 s p) {l : Loc} (hl : pcFin l.pc = p) (ue : Bool) :
    OtherPcsKept s0 (s.rowEvent l ue) p := by
  subst hl
  exact (h.modPc _).ite (h.raise _ _)

theorem OtherPcsKept.kbAdd (h : OtherPcsKept s0 s p) {l : Loc} (hl : pcFin l.pc = p) (addr : Option Nat) :
    OtherPcsKept s0 (s.kbAdd l addr) p := by
  subst hl
  unfold State.kbAdd
  refine h.ite (OtherPcsKept.ite (OtherPcsKept.logRec ?_ _ _) (OtherPcsKept.logRec ?_ _ _))
  · exact (h.of_keeps (State.redoFor_keeps s l (Keeps.refl _ [])) (by simp)).modPc _
  · have hraised := h.raise (Reg.PC_ECC_STATUS (pcFin l.pc)) Fld.PC_ECC_STATUS_KB_OVERFLOW
    cases addr <;> exact hraised.of_keeps (State.fec_keeps _ _ _ _ _ (Keeps.refl _ [])) (by simp)

theorem OtherPcsKept.laneCount (h : OtherPcsKept s0 s p) (lane : Nat) : OtherPcsKept s0 (s.laneCount p lane) p :=
  OtherPcsKept.modPc ((h.modPc _).of_keeps
    (State.raiseIf_keeps_all _ _ _ Fld.PC_TRUE_STATUS_LANE_SUSPECT) (by simp)) _

theorem OtherPcsKept.readEffects (h : OtherPcsKept s0 s p) {a : Access} (ha : pcFin a.loc.pc = p) (d : Decode) :
    OtherPcsKept s0 (s.readEffects a d) p := by
  cases d with
  | clean => exact h
  | corrected lane _ =>
    subst ha
    exact (((h.raise _ _).sf _ _ _).laneCount lane).rowEvent rfl false
  | poisoned => exact h.raise _ _
  | uncorrectable =>
    have hbad := ((h.raise (Reg.PC_ECC_STATUS (pcFin a.loc.pc)) Fld.PC_ECC_STATUS_UE).rowEvent ha true).kbAdd ha a.addr
    have hfec := hbad.of_keeps (State.fecAccess_keeps _ .uncorrectable a (Keeps.refl _ [])) (by simp)
    exact OtherPcsKept.ite (hfec.of_pcs rfl) hfec

theorem OtherPcsKept.putBurst (h : OtherPcsKept s0 s p) (l : Loc) (data : List Byte) (poison : Bool) :
    OtherPcsKept s0 (s.putBurst l data poison) p := h.of_pcs rfl

end others

/-! ### The scrub's reads and the events they queue (R163, R172, R434) -/

/-- What the scrub of a PC leaves until it ends: the other PCs, and the registers beside those of the check code. -/
structure ScrubFrame (s t : State) (p : Fin 64) : Prop where
  others : OtherPcsKept s t p
  regs : KeepsRegs s t (checkRegs p)

section scrub

variable {s0 s t : State} {p : Fin 64}

theorem ScrubFrame.refl (s : State) (p : Fin 64) : ScrubFrame s s p := ⟨.refl s p, .refl s _⟩

theorem ScrubFrame.of_fields (h : ScrubFrame s0 s p) (hpcs : t.pcs = s.pcs) (hregs : t.regs = s.regs) :
    ScrubFrame s0 t p := ⟨h.others.of_pcs hpcs, h.regs.of_regs hregs⟩

theorem ScrubFrame.ite {c : Prop} [Decidable c] (hs : ScrubFrame s0 s p) (ht : ScrubFrame s0 t p) :
    ScrubFrame s0 (if c then s else t) p := by
  split <;> assumption

theorem ScrubFrame.modPc (h : ScrubFrame s0 s p) (f : Pc → Pc) : ScrubFrame s0 (s.modPc p f) p :=
  ⟨h.others.modPc f, h.regs.of_regs rfl⟩

theorem ScrubFrame.putBurst (h : ScrubFrame s0 s p) (l : Loc) (data : List Byte) (poison : Bool) :
    ScrubFrame s0 (s.putBurst l data poison) p := h.of_fields rfl rfl

theorem ScrubFrame.rowHealthEvent (h : ScrubFrame s0 s p) : ScrubFrame s0 (rowHealthEvent p s) p := by
  have hput (f : Pc → Pc) (c : Bool) : ScrubFrame s0 ((s.modPc p f).iff c State.repairEvent) p :=
    ScrubFrame.ite ((h.modPc f).of_fields rfl rfl) (h.modPc f)
  have hfull (f : Pc → Pc) :
      ScrubFrame s0 ((s.modPc p f).raise (Reg.PC_REF_STATUS p) Fld.PC_REF_STATUS_ROWH_FULL) p :=
    ⟨(h.modPc f).others.raise _ _, (h.modPc f).regs.raise (by simp) _⟩
  unfold Machine.rowHealthEvent
  dsimp only
  split
  · exact h
  · split
    · exact hput _ _
    · split
      · exact hput _ _
      · split
        · exact (hput _ _).ite (hfull _)
        · exact hfull _

theorem ScrubFrame.takeEvents (h : ScrubFrame s0 s p) (n : Nat) : ScrubFrame s0 (State.takeEvents p n s) p := by
  induction n generalizing s with
  | zero => exact h
  | succ n ih => exact ih h.rowHealthEvent

theorem ScrubFrame.scrubBurst (h : ScrubFrame s0 s p) {l : Loc} (hl : pcFin l.pc = p) (err : List Byte) :
    ScrubFrame s0 (s.scrubBurst l err) p := by
  have hread (a : Access) (ha : a.loc = l) (d : Decode) (c : Bool) :
      ScrubFrame s0 ((s.readEffects a d).iff c State.tick) p :=
    have hpc : pcFin a.loc.pc = p := ha ▸ hl
    have he : ScrubFrame s0 (s.readEffects a d) p :=
      ⟨h.others.readEffects hpc d, h.regs.readEffects (by rw [hpc]; exact List.Subset.refl _) d⟩
    ScrubFrame.ite (he.of_fields rfl rfl) he
  unfold State.scrubBurst
  dsimp only
  split
  · exact hread _ rfl _ _
  · exact (hread _ rfl _ _).putBurst _ _ _
  · exact hread _ rfl _ _
  · exact (hread _ rfl _ _).putBurst _ _ _

/-- The scrub of a PC reads bursts of that PC (R172). -/
theorem pc_of_mem_scrubBursts {c : Pc} {p : Fin 64} {l : Loc} (hl : l ∈ c.scrubBursts p) : pcFin l.pc = p := by
  simp only [Pc.scrubBursts, List.mem_flatMap, List.mem_map] at hl
  obtain ⟨e, -, col, -, rfl⟩ := hl
  refine Fin.ext ?_
  simp only [pcFin, Loc.pc, Fin.val_ofNat]
  omega

/-- Every burst of the weak and bad rows of a PC is read, with the queued events before and after each (R163, R172). -/
def State.scrubbed (s : State) (p : Fin 64) (errs : List (Nat × List Byte)) : State :=
  (s.pcs[p].scrubBursts p).foldl (fun t l =>
    State.takeEvents p 16 (t.scrubBurst l (((errs.find? fun e => e.1 = l.burst).map (·.2)).getD [])))
    (State.takeEvents p 16 s)

theorem scrubbed_frame (s : State) (p : Fin 64) (errs : List (Nat × List Byte)) : ScrubFrame s (s.scrubbed p errs) p :=
  List.foldlRecOn (motive := fun u => ScrubFrame s u p) _ _ ((ScrubFrame.refl s p).takeEvents 16)
    fun _ hu _ hl => (hu.scrubBurst (pc_of_mem_scrubBursts hl) _).takeEvents 16

theorem takeEvents_of_no_events (h : s.pcs[p].events = []) (n : Nat) : State.takeEvents p n s = s := by
  have hone : rowHealthEvent p s = s := by simp only [rowHealthEvent, h]
  induction n with
  | zero => rfl
  | succ n ih => rw [State.takeEvents, hone, ih]

/-- A PC without a weak or bad row and without a queued event has nothing to scrub. -/
theorem scrubbed_of_nothing (hbursts : s.pcs[p].scrubBursts p = []) (hevents : s.pcs[p].events = [])
    (errs : List (Nat × List Byte)) : s.scrubbed p errs = s := by
  rw [State.scrubbed, hbursts, List.foldl_nil, takeEvents_of_no_events hevents]

/-! ### The end of the scrub (R172) -/

theorem resumePc_regs (s : State) (p : Fin 64) : (s.resumePc p).regs = s.regs := by
  unfold State.resumePc State.iff
  split <;> rfl

theorem resumePc_opens (h : s.mayAdmit p = true) : (s.resumePc p).pcs[p].stopped = false := by
  rw [State.resumePc, h]
  exact congrArg Pc.stopped (pcs_modPc_same (s := s) (f := fun c => { c with stopped := false }))

theorem OtherPcsKept.resumePc (h : OtherPcsKept s0 s p) : OtherPcsKept s0 (s.resumePc p) p :=
  OtherPcsKept.ite (h.modPc _) h

/-- The scrub of a PC is over: SCRUB is cleared, and admission resumes where nothing stops it (R172). -/
def State.scrubEnded (s : State) (p : Fin 64) : State :=
  (s.sf (Reg.PC_REF_STATUS p) Fld.PC_REF_STATUS_SCRUB 0).resumePc p

theorem exitScrub_eq (hscrub : s.bit (Reg.PC_REF_STATUS p) Fld.PC_REF_STATUS_SCRUB = true)
    (hself : s.bit (Reg.PC_REF_STATUS p) Fld.PC_REF_STATUS_SELF_REFRESH = false) (errs : List (Nat × List Byte)) :
    exitScrub p errs s = (s.scrubbed p errs).scrubEnded p :=
  if_pos ⟨hscrub, by rw [hself, Bool.not_false]⟩

theorem ScrubFrame.scrubEnded (h : ScrubFrame s0 s p) : ScrubFrame s0 (s.scrubEnded p) p :=
  ⟨(h.others.sf _ _ _).resumePc, (h.regs.sf (by simp) _ _).of_regs (resumePc_regs _ p)⟩

theorem bit_scrub_scrubEnded (s : State) (p : Fin 64) :
    (s.scrubEnded p).bit (Reg.PC_REF_STATUS p) Fld.PC_REF_STATUS_SCRUB = false :=
  (State.bit_congr (State.rd_congr (resumePc_regs _ p) _) _).trans (State.bit_sf_same _ _ 0 (by decide) rfl)

theorem scrubEnded_opens (hself : s.bit (Reg.PC_REF_STATUS p) Fld.PC_REF_STATUS_SELF_REFRESH = false)
    (hshutdown : s.shutdown = false) (hquiet : s.pwr.quiesced = false) :
    (s.scrubEnded p).pcs[p].stopped = false := by
  have hoff : Reg.THERM_STATUS ≠ Reg.PC_REF_STATUS p := by
    unfold Reg.THERM_STATUS Reg.PC_REF_STATUS
    omega
  have hshut := (State.bit_sf_other s _ _ Fld.PC_REF_STATUS_SCRUB Fld.THERM_STATUS_SHUTDOWN 0 hoff).trans hshutdown
  have hleft := (State.bit_sf_apart s (Reg.PC_REF_STATUS p) Fld.PC_REF_STATUS_SCRUB Fld.PC_REF_STATUS_SELF_REFRESH 0
    (by decide) (by decide)).trans hself
  have hdone := State.bit_sf_same s (Reg.PC_REF_STATUS p) (f := Fld.PC_REF_STATUS_SCRUB) 0 (by decide) rfl
  exact resumePc_opens (by simp [State.mayAdmit, State.shutdown, hshut, hquiet, hleft, hdone])

/-- The check code's registers of a PC do not hold the phase of the start-up (R470, R522). -/
theorem bootStatus_not_checkReg : ∀ p : Fin 64, Reg.FW_BOOT_STATUS ∉ checkRegs p := by
  decide +kernel

/-- Beside PHASE REPLAY nothing follows the scrub (R172, R173). -/
theorem exec_exitScrubComplete (hlive : s.live (.pc p) = true) (hphase : s.phase ≠ 6)
    (hscrub : s.bit (Reg.PC_REF_STATUS p) Fld.PC_REF_STATUS_SCRUB = true)
    (hself : s.bit (Reg.PC_REF_STATUS p) Fld.PC_REF_STATUS_SELF_REFRESH = false) (errs : List (Nat × List Byte))
    (fails : List MemFail) :
    exec (.exitScrubComplete p errs fails) s = .next ((s.scrubbed p errs).scrubEnded p) := by
  have hframe : ScrubFrame s ((s.scrubbed p errs).scrubEnded p) p := (scrubbed_frame s p errs).scrubEnded
  have hkept : ((s.scrubbed p errs).scrubEnded p).phase = s.phase :=
    State.gf_congr (hframe.regs _ (bootStatus_not_checkReg p)) _
  refine congrArg Host.Outcome.next ((State.onLive_true hlive).trans ?_)
  rw [exitScrub_eq hscrub hself, if_neg (by simp [hkept, hphase])]

theorem gives_exitScrubComplete_nothing (s : State) (p : Fin 64) (errs : List (Nat × List Byte)) (fails : List MemFail)
    (hlive : s.live (.pc p) = true) (hphase : s.phase ≠ 6)
    (hscrub : s.bit (Reg.PC_REF_STATUS p) Fld.PC_REF_STATUS_SCRUB = true)
    (hself : s.bit (Reg.PC_REF_STATUS p) Fld.PC_REF_STATUS_SELF_REFRESH = false)
    (hbursts : s.pcs[p].scrubBursts p = []) (hevents : s.pcs[p].events = []) :
    Gives (.exitScrubComplete p errs fails) s fun t =>
      t.bit (Reg.PC_REF_STATUS p) Fld.PC_REF_STATUS_SCRUB = false ∧ (s.shutdown = false → s.pwr.quiesced = false →
        t.pcs[p].stopped = false) ∧ (∀ q, q ≠ p → t.pcs[q] = s.pcs[q]) ∧ Keeps s t [.pcs] ∧ KeepsRegs s t
        [Reg.PC_REF_STATUS p] := by
  refine ⟨_, exec_exitScrubComplete hlive hphase hscrub hself errs fails, ?_⟩
  rw [scrubbed_of_nothing hbursts hevents]
  refine ⟨bit_scrub_scrubEnded s p, scrubEnded_opens hself, (ScrubFrame.refl s p).scrubEnded.others, ?_, ?_⟩
  · exact State.resumePc_keeps _ _ (State.sf_keeps _ _ _ _ (Keeps.refl _ _)) (by simp)
  · exact ((KeepsRegs.refl s _).sf (by simp) _ _).of_regs (resumePc_regs _ p)

theorem gives_exitScrubComplete (s : State) (p : Fin 64) (errs : List (Nat × List Byte)) (fails : List MemFail)
    (hlive : s.live (.pc p) = true) (hphase : s.phase ≠ 6)
    (hscrub : s.bit (Reg.PC_REF_STATUS p) Fld.PC_REF_STATUS_SCRUB = true)
    (hself : s.bit (Reg.PC_REF_STATUS p) Fld.PC_REF_STATUS_SELF_REFRESH = false) :
    Gives (.exitScrubComplete p errs fails) s fun t =>
      t.bit (Reg.PC_REF_STATUS p) Fld.PC_REF_STATUS_SCRUB = false ∧ (∀ q, q ≠ p → t.pcs[q].rowh = s.pcs[q].rowh) ∧
        Keeps s t [.age, .free, .inbox, .pcs, .stack] ∧ KeepsRegs s t (checkRegs p) := by
  have hframe : ScrubFrame s ((s.scrubbed p errs).scrubEnded p) p := (scrubbed_frame s p errs).scrubEnded
  refine ⟨_, exec_exitScrubComplete hlive hphase hscrub hself errs fails, bit_scrub_scrubEnded _ p,
    fun q hq => congrArg Pc.rowh (hframe.others q hq), ?_, hframe.regs⟩
  rw [← exitScrub_eq hscrub hself]
  exact exitScrub_keeps p errs s (Keeps.refl _ _) (by simp) (by simp) (by simp) (by simp) (by simp)

end scrub

/-- Settles O19, clause by clause: inhibits taken and refused, a hold that begins and one that ends, and the exit
scrub. -/
theorem retentionTests : Obligations.RetentionTests :=
  ⟨gives_refInhibitWrite, gives_refInhibitWrite_refused, gives_retentionTest_reserve, gives_retentionHoldExpiry_passed,
    gives_exitScrubComplete_nothing, gives_exitScrubComplete, gives_retentionTest, gives_retentionHoldExpiry⟩

end Sys2Proof.Machine
end

section
/-! SUPPORT. The head of a slice's input queue is served: what every service leaves of the queue and of the registers
(O27, O28). -/

namespace Sys2Proof.Machine

/-! ### Ways of a slice (R180, R181) -/

theorem Slice.way_setWay (x : Slice) (k j : Nat) (l : Line) :
    (x.setWay k l).way j = if j = k then l else x.way j := cget_cset

@[simp] theorem Slice.way_setWay_same (x : Slice) (k : Nat) (l : Line) : (x.setWay k l).way k = l := by
  simp [Slice.way_setWay]

/-- What setWay leaves as it was. -/
@[simp] theorem Slice.setWay_fields (x : Slice) (k : Nat) (l : Line) :
    (x.setWay k l).input = x.input ∧ (x.setWay k l).misses = x.misses ∧ (x.setWay k l).reds = x.reds ∧
      (x.setWay k l).sweep = x.sweep ∧ (∀ ln, (x.setWay k l).red ln = x.red ln) :=
  ⟨rfl, rfl, rfl, rfl, fun _ => rfl⟩

/-- The way that is found for a line holds it. -/
theorem Slice.line_of_find {x : Slice} {ln k : Nat} (h : x.find ln = some k) : (x.way k).line = ln := by
  have hway := List.find?_some h
  simp only [decide_eq_true_eq] at hway
  exact hway.2

theorem State.slices_modSlice_same (s : State) (sl : Fin 16) (f : Slice → Slice) :
    (s.modSlice sl f).paths.slices[sl] = f s.paths.slices[sl] := by
  rw [State.slices_modSlice, if_pos rfl]

theorem State.slices_modSlice_other (s : State) {sl x : Fin 16} (h : x ≠ sl) (f : Slice → Slice) :
    (s.modSlice sl f).paths.slices[x] = s.paths.slices[x] := by
  rw [State.slices_modSlice, if_neg h]

theorem Slice.input_age (x : Slice) (st : Nat) : (x.age st).input = x.input :=
  List.foldlRecOn (motive := fun y : Slice => y.input = x.input) _ _ rfl fun y hy k _ => by
    dsimp only
    split
    · exact hy
    · exact hy

theorem Slice.input_victim {x y : Slice} {n st k : Nat} (h : victimN n x st = some (k, y)) : y.input = x.input := by
  induction n generalizing x with
  | zero => simp [victimN] at h
  | succ n ih =>
    unfold victimN at h
    dsimp only at h
    split at h
    · cases h; rfl
    · split at h
      · cases h; rfl
      · split at h
        · cases h
        · split at h
          · obtain ⟨_, -, h⟩ := Option.map_eq_some_iff.mp h
            cases h; rfl
          · exact (ih h).trans (x.input_age st)

/-! ### What every service leaves (R192, R521) -/

/-- The input queue of a slice is as it was, and so is every register beside those of requests on their way. -/
structure ServeFrame (s t : State) (sl : Fin 16) : Prop where
  input : t.paths.slices[sl].input = s.paths.slices[sl].input
  regs : KeepsRegs s t pathRegs

section frame

variable {s t u : State} {sl : Fin 16}

theorem ServeFrame.refl (s : State) (sl : Fin 16) : ServeFrame s s sl := ⟨rfl, KeepsRegs.refl _ _⟩

/-- An operation that leaves slices and registers alone. -/
theorem ServeFrame.of_fields (h : ServeFrame s t sl) (hs : u.paths.slices = t.paths.slices) (hr : u.regs = t.regs) :
    ServeFrame s u sl := ⟨(congrArg (fun v => v[sl].input) hs).trans h.input, h.regs.of_regs hr⟩

theorem ServeFrame.modSlice (h : ServeFrame s t sl) {f : Slice → Slice}
    (hf : ∀ x, (f x).input = x.input := by intro _; rfl) : ServeFrame s (t.modSlice sl f) sl :=
  ⟨by rw [State.slices_modSlice_same, hf]; exact h.input, h.regs.of_regs rfl⟩

theorem ServeFrame.ite {c : Prop} [Decidable c] (ht : ServeFrame s t sl) (hu : ServeFrame s u sl) :
    ServeFrame s (if c then t else u) sl := by
  split <;> assumption

theorem ServeFrame.foldl {α : Type} {f : State → α → State} (l : List α)
    (hf : ∀ u a, ServeFrame s u sl → ServeFrame s (f u a) sl) (h : ServeFrame s t sl) :
    ServeFrame s (l.foldl f t) sl := foldl_keeps hf l h

theorem ServeFrame.complete (h : ServeFrame s t sl) (r : Req) (st : Status) (data : List Byte) :
    ServeFrame s (t.complete r st data) sl :=
  ⟨(congrArg (fun v => v[sl].input) ((Carries.refl t).complete r st data).1).trans h.input,
    h.regs.complete (List.Subset.refl _) r st data⟩

theorem ServeFrame.sendSector (h : ServeFrame s t sl) (base i cls : Nat) (data : List Byte) (mask : List Bool)
    (poison : Bool) (o : Owner) : ServeFrame s (t.sendSector base i cls data mask poison o) sl := h.of_fields rfl rfl

theorem ServeFrame.askSector (h : ServeFrame s t sl) (base i cls : Nat) (o : Owner) :
    ServeFrame s (t.askSector base i cls o) sl := h.of_fields rfl rfl

theorem ServeFrame.writeBackLine (h : ServeFrame s t sl) (l : Line) (o : Owner) :
    ServeFrame s (t.writeBackLine l o) sl :=
  ServeFrame.foldl _ (fun _ _ hu => (hu.sendSector _ _ _ _ _ _ _).ite hu) h

theorem ServeFrame.dropWay (h : ServeFrame s t sl) (k : Nat) (discard : Bool) :
    ServeFrame s (t.dropWay sl k discard) sl :=
  h.modSlice.ite (h.ite (h.writeBackLine _ _)).modSlice

theorem ServeFrame.touchRet (h : ServeFrame s t sl) (k : Nat) (r : Req) (fresh : Bool) :
    ServeFrame s (t.touchRet sl k r fresh) sl := h.modSlice

theorem ServeFrame.dropIfLast (h : ServeFrame s t sl) (k : Nat) (r : Req) : ServeFrame s (t.dropIfLast sl k r) sl :=
  (h.dropWay _ _).ite h

theorem ServeFrame.notice (h : ServeFrame s t sl) (base : Nat) : ServeFrame s (t.notice base) sl := h.of_fields rfl rfl

theorem ServeFrame.lineRead (h : ServeFrame s t sl) (k : Nat) (r : Req) (fresh : Bool) :
    ServeFrame s (t.lineRead sl k r fresh) sl := by
  have ht := (h.touchRet k r fresh).dropIfLast k r
  exact ht.ite ((ht.complete _ _ _).ite (ht.complete _ _ _))

theorem ServeFrame.lineWrite (h : ServeFrame s t sl) (k : Nat) (r : Req) (fresh : Bool) :
    ServeFrame s (t.lineWrite sl k r fresh) sl := by
  have ht (l : Line) := (h.modSlice (f := fun x => x.setWay k l)).touchRet k r fresh
  refine (h.complete _ _ _).ite (ServeFrame.complete (ServeFrame.ite ?_ ((ht _).dropIfLast k r)) _ _ _)
  exact ((ht _).writeBackLine _ _).modSlice

/-- The line is replaced, takes its RET, and is dropped where the hint says so. -/
theorem ServeFrame.replaced (h : ServeFrame s t sl) (k : Nat) (l : Line) (r : Req) (fresh : Bool) :
    ServeFrame s (((t.modSlice sl fun x => x.setWay k l).touchRet sl k r fresh).dropIfLast sl k r) sl :=
  (h.modSlice.touchRet k r fresh).dropIfLast k r

theorem ServeFrame.lineAtomic (h : ServeFrame s t sl) (k : Nat) (fn : AtomFunc) (r : Req) (fresh : Bool) :
    ServeFrame s (t.lineAtomic sl k fn r fresh) sl := by
  unfold State.lineAtomic
  dsimp only
  split
  · exact h.complete _ _ _
  · exact (h.complete _ _ _).ite ((h.complete _ _ _).ite ((h.replaced k _ r fresh).complete _ _ _))

theorem ServeFrame.lineCas (h : ServeFrame s t sl) (k : Nat) (r : Req) (fresh : Bool) :
    ServeFrame s (t.lineCas sl k r fresh) sl :=
  (h.complete _ _ _).ite ((h.complete _ _ _).ite ((h.replaced k _ r fresh).complete _ _ _))

theorem ServeFrame.lineContribute (h : ServeFrame s t sl) (k : Nat) (r : Req) (fresh : Bool) :
    ServeFrame s (t.lineContribute sl k r fresh) sl := by
  have hover (f : Slice → Slice) (st : Status) (hf : ∀ x, (f x).input = x.input := by intro _; rfl) :=
    (h.modSlice hf).complete r st []
  have hdone (e : RedEntry) (l : Line) :=
    ((h.modSlice (f := fun y => (y.setWay k l).setRed e)).touchRet k r fresh).dropIfLast k r
  unfold State.lineContribute
  dsimp only
  split
  · refine (hover _ _).ite ((h.complete _ _ _).ite ((hover _ _).ite ((hover _ _).ite ((h.complete _ _ _).ite ?_))))
    exact (((hdone _ _).notice _).ite (hdone _ _)).complete _ _ _
  · exact h.complete _ _ _

theorem ServeFrame.lineArm (h : ServeFrame s t sl) (k : Nat) (r : Req) (fresh : Bool) :
    ServeFrame s (t.lineArm sl k r fresh) sl := by
  unfold State.lineArm
  dsimp only
  refine (h.modSlice.complete _ _ _).ite ((h.complete _ _ _).ite ((h.complete _ _ _).ite ?_))
  have harmed (e : RedEntry) (ov : Bool) :=
    ((h.modSlice (f := fun y => { y.setRed e with overcount := y.overcount || ov })).touchRet k r fresh).dropIfLast k r
  exact (((harmed _ _).notice _).ite (harmed _ _)).complete _ _ _

theorem ServeFrame.hintOnly (h : ServeFrame s t sl) (r : Req) : ServeFrame s (t.hintOnly sl r) sl := by
  unfold State.hintOnly
  split
  · exact (h.touchRet _ r false).dropIfLast _ r
  · exact h

theorem ServeFrame.lineQuery (h : ServeFrame s t sl) (r : Req) : ServeFrame s (t.lineQuery sl r) sl := by
  unfold State.lineQuery
  dsimp only
  split
  · exact h.complete _ _ _
  · exact (h.complete _ _ _).ite ((h.hintOnly r).complete _ _ _)

theorem ServeFrame.lineRelease (h : ServeFrame s t sl) (r : Req) : ServeFrame s (t.lineRelease sl r) sl := by
  have hfreed := h.modSlice (f := fun x => { x with reds := x.reds.filter fun e => e.line ≠ lineNo r.addr })
  unfold State.lineRelease
  dsimp only
  split
  · exact h.complete _ _ _
  · refine (h.complete _ _ _).ite (ServeFrame.complete (ServeFrame.hintOnly ?_ r) _ _ _)
    split
    · exact (hfreed.dropWay _ _).ite hfreed
    · exact hfreed

theorem ServeFrame.lineOp (h : ServeFrame s t sl) (k : Nat) (r : Req) (fresh : Bool) :
    ServeFrame s (t.lineOp sl k r fresh) sl := by
  unfold State.lineOp
  split
  · exact h.lineRead k r fresh
  · exact h.lineWrite k r fresh
  · refine (h.lineCas k r fresh).ite ?_
    split
    · exact h.lineAtomic k _ r fresh
    · exact h.complete _ _ _
  · exact (h.lineArm k r fresh).ite (h.lineContribute k r fresh)
  · exact h.complete _ _ _

theorem ServeFrame.addMiss (h : ServeFrame s t sl) (m : Miss) : ServeFrame s (t.addMiss sl m) sl := h.modSlice

theorem ServeFrame.toPannier (h : ServeFrame s t sl) (r : Req) : ServeFrame s (t.toPannier sl r) sl :=
  h.of_fields rfl rfl

theorem ServeFrame.readThrough (h : ServeFrame s t sl) (r : Req) (missing : List Nat) :
    ServeFrame s (t.readThrough sl r missing) sl :=
  ServeFrame.foldl _ (fun _ _ hu => hu.askSector _ _ _ _) (h.addMiss _)

theorem ServeFrame.writeThrough (h : ServeFrame s t sl) (r : Req) : ServeFrame s (t.writeThrough sl r) sl := by
  have hsent (f : State → Nat → State) (hf : ∀ u i, ServeFrame s u sl → ServeFrame s (f u i) sl) (m : Miss) :
      ServeFrame s (r.touched.foldl f (t.addMiss sl m)) sl := ServeFrame.foldl _ hf (h.addMiss m)
  unfold State.writeThrough
  dsimp only
  split
  · refine ServeFrame.modSlice (hsent _ (fun u i hu => ?_) _)
    split
    · exact (hu.sendSector _ _ _ _ _ _ _).ite (hu.sendSector _ _ _ _ _ _ _)
    · exact hu.sendSector _ _ _ _ _ _ _
  · refine hsent _ (fun u i hu => ?_) _
    split
    · exact (hu.sendSector _ _ _ _ _ _ _).ite (hu.sendSector _ _ _ _ _ _ _)
    · exact hu.sendSector _ _ _ _ _ _ _

theorem ServeFrame.allocate (h : ServeFrame s t sl) {r : Req} {k : Nat} (ha : t.allocate sl r = some (k, u)) :
    ServeFrame s u sl := by
  unfold State.allocate at ha
  split at ha
  · cases ha
  · next hvictim =>
    cases ha
    have hset (l : Line) (y : Slice) (hy : y.input = t.paths.slices[sl].input) :
        ServeFrame s (t.modSlice sl fun _ => y.setWay k l) sl :=
      ⟨by rw [State.slices_modSlice_same]; exact hy.trans h.input, h.regs.of_regs rfl⟩
    have hy (l : Line) := hset l _ (Slice.input_victim hvictim)
    exact ((hy _).writeBackLine _ _).ite (hy _)

theorem ServeFrame.fillThenOp (h : ServeFrame s t sl) (k : Nat) (r : Req) (missing : List Nat) (fresh : Bool) :
    ServeFrame s (t.fillThenOp sl k r missing fresh) sl :=
  (h.lineOp k r fresh).ite (ServeFrame.foldl _ (fun _ _ hu => hu.askSector _ _ _ _) (h.addMiss _))

theorem ServeFrame.cleanWay (h : ServeFrame s t sl) (k : Nat) (drop discard : Bool) :
    ServeFrame s (t.cleanWay sl k drop discard) sl :=
  (h.dropWay k discard).ite (h.writeBackLine _ _).modSlice

theorem ServeFrame.lineClean (h : ServeFrame s t sl) (r : Req) : ServeFrame s (t.lineClean sl r) sl := by
  unfold State.lineClean
  dsimp only
  split
  · exact (h.addMiss _).ite (h.complete _ _ _)
  · have hc := h.cleanWay ‹Nat› (decide (r.hint = Hint.last)) r.discard
    exact (hc.addMiss _).ite (hc.complete _ _ _)

theorem ServeFrame.serve (h : ServeFrame s t sl) (r : Req) : ServeFrame s (t.serve sl r) sl := by
  unfold State.serve
  refine (h.lineClean r).ite ((h.complete _ _ _).ite ((h.complete _ _ _).ite ((h.lineQuery r).ite
    ((h.lineRelease r).ite ((h.complete _ _ _).ite (ServeFrame.ite ?here (((h.addMiss _).toPannier r).ite
      ((h.readThrough r _).ite ((h.writeThrough r).ite ((h.addMiss _).ite ?miss))))))))))
  case here =>
    split
    · exact h.lineOp _ r false
    · exact h
  case miss =>
    split
    · exact h.fillThenOp _ r _ false
    · split
      · exact h.addMiss _
      · next ha => exact (h.allocate ha).fillThenOp _ r _ true

theorem ServeFrame.meetMiss (h : ServeFrame s t sl) (m : Miss) (r : Req) : ServeFrame s (t.meetMiss sl m r) sl :=
  (h.modSlice.toPannier r).ite h.modSlice

theorem ServeFrame.dispatchReq (h : ServeFrame s t sl) (r : Req) : ServeFrame s (t.dispatchReq sl r) sl := by
  unfold State.dispatchReq
  split
  · exact h.meetMiss _ r
  · exact h.serve r

theorem ServeFrame.tagPath (h : ServeFrame s t sl) (r : Req) : ServeFrame s (t.tagPath sl r) sl := h.of_fields rfl rfl

end frame

/-! ### The head of the input queue (R191, R192) -/

section head

variable {s : State} {sl : Fin 16} {r : Req} {rest : List Req} {c : Instr} {p : Req → Bool}

/-- The head of the queue has left it, and its record names the slice (R520). -/
def State.headGone (s : State) (sl : Fin 16) (r : Req) (rest : List Req) : State :=
  ((s.stamp r.id 3 (s.now (.slice sl))).modTag r.id fun t => { t with slice := sl, cls := r.cls }).modSlice sl
    fun x => { x with input := rest }

theorem takeHead_eq (hinput : s.paths.slices[sl].input = r :: rest) (hp : p r = true) :
    s.takeHead sl p = s.ifFits sl (((s.headGone sl r rest).dispatchReq sl r).tagPath sl r) := by
  rw [State.takeHead, hinput]
  exact if_pos hp

/-- A row of the cache takes the head of the queue when it is of its kind and what it leaves has room (R36, R192). -/
theorem gives_headFits (hc : exec c s = .next (s.onSlice sl (s.takeHead sl p))) (hp : p r = true)
    (h : HeadFits s sl r rest) :
    Gives c s fun t =>
      t.paths.slices[sl].input = rest ∧ Keeps s t [.inbox, .inj, .paths, .ring, .tags] ∧ KeepsRegs s t pathRegs := by
  obtain ⟨hans, hinput, hfits⟩ := h
  have hgone : ServeFrame (s.headGone sl r rest) (((s.headGone sl r rest).dispatchReq sl r).tagPath sl r) sl :=
    ((ServeFrame.refl _ sl).dispatchReq r).tagPath r
  have hkeeps := State.takeHead_keeps s sl p (Keeps.refl s [.inbox, .inj, .paths, .ring, .tags]) (by simp) (by simp)
    (by simp) (by simp) (by simp)
  have hserved : s.takeHead sl p = ((s.headGone sl r rest).dispatchReq sl r).tagPath sl r :=
    (takeHead_eq hinput hp).trans (if_pos hfits)
  refine ⟨s.takeHead sl p, hc.trans (congrArg Host.Outcome.next (if_pos hans)), ?_, hkeeps, ?_⟩ <;> rw [hserved]
  · rw [hgone.input, State.headGone, State.slices_modSlice_same]
  · exact (KeepsRegs.of_regs (KeepsRegs.refl s _) rfl).trans hgone.regs

end head

end Sys2Proof.Machine
end

section
/-! SUPPORT. ATOMIC operations and CAS on a line that is there (O27). -/

namespace Sys2Proof.Machine

/-! ### A line that is there, no sector of it poisoned (R185, R200) -/

section there

variable {s : State} {sl : Fin 16} {k : Nat} {r : Req} {l : Line}

theorem Line.sector_valid (hlo : l.lo.valid = true) (hhi : l.hi.valid = true) (i : Nat) :
    (l.sector i).valid = true := by
  unfold Line.sector
  split <;> assumption

theorem Line.poisonedFor_eq_false (hlo : l.lo.poison = false) (hhi : l.hi.poison = false) (r : Req) :
    l.poisonedFor r = false := by
  have hsector (i : Nat) : (l.sector i).poison = false := by
    unfold Line.sector
    split <;> assumption
  simp [Line.poisonedFor, hsector]

theorem needs_there (hlo : l.lo.valid = true) (hhi : l.hi.valid = true) (r : Req) :
    (r.needs.filter fun i => !(l.sector i).valid) = [] := by
  simp [Line.sector_valid hlo hhi]

/-- A way that holds its line with both sectors there. -/
structure There (s : State) (sl : Fin 16) (k : Nat) (r : Req) : Prop where
  found : s.paths.slices[sl].find (lineNo r.addr) = some k
  lo : (s.paths.slices[sl].way k).lo.valid = true
  hi : (s.paths.slices[sl].way k).hi.valid = true
  loPoison : (s.paths.slices[sl].way k).lo.poison = false
  hiPoison : (s.paths.slices[sl].way k).hi.poison = false

theorem There.line (h : There s sl k r) : (s.paths.slices[sl].way k).line = lineNo r.addr :=
  Slice.line_of_find h.found

theorem There.poisonedFor (h : There s sl k r) : (s.paths.slices[sl].way k).poisonedFor r = false :=
  Line.poisonedFor_eq_false h.loPoison h.hiPoison r

theorem There.poisons (h : There s sl k r) : s.paths.slices[sl].poisons r = false := by
  simp only [Slice.poisons, h.found, Option.any_some, h.poisonedFor]

/-- An ATOMIC on a line that is there acts at once (R195). -/
theorem There.serve_atomic (h : There s sl k r) (hop : r.op = .atomic) (hbad : r.badAtomic = false)
    (hred : s.paths.slices[sl].red (lineNo r.addr) = none) : s.serve sl r = s.lineOp sl k r false := by
  have hneeds := needs_there h.lo h.hi r
  simp only [State.serve, h.found, hneeds, hop, hbad, hred]
  simp

end there

/-! ### What a service of a line that is there leaves of its slice -/

/-- RET of a way after a hit (R185). -/
def Slice.retouched (x : Slice) (k keepWays : Nat) (r : Req) : Slice :=
  x.setWay k { x.way k with ret := nextRet x k keepWays r false }

@[simp] theorem Slice.retouched_fields (x : Slice) (k keepWays : Nat) (r : Req) :
    (x.retouched k keepWays r).input = x.input ∧ (x.retouched k keepWays r).misses = x.misses ∧
      (x.retouched k keepWays r).reds = x.reds ∧ (∀ ln, (x.retouched k keepWays r).red ln = x.red ln) ∧
      ((x.retouched k keepWays r).way k).lo = (x.way k).lo ∧ ((x.retouched k keepWays r).way k).hi = (x.way k).hi ∧
      ((x.retouched k keepWays r).way k).used = (x.way k).used ∧
      ((x.retouched k keepWays r).way k).line = (x.way k).line ∧
      ((x.retouched k keepWays r).way k).bytes = (x.way k).bytes := by
  simp [Slice.retouched, Line.bytes]

theorem State.modSlice_modSlice (s : State) (sl : Fin 16) (f g : Slice → Slice) :
    (s.modSlice sl f).modSlice sl g = s.modSlice sl fun x => g (f x) := by
  simp [State.modSlice]

theorem State.touchRet_eq (s : State) (sl : Fin 16) (k : Nat) (r : Req) :
    s.touchRet sl k r false = s.modSlice sl fun x => x.retouched k s.keepWays r := rfl

/-- A slice that changes and is then touched by a hit. -/
theorem State.touchRet_modSlice (s : State) (sl : Fin 16) (f : Slice → Slice) (k : Nat) (r : Req) :
    (s.modSlice sl f).touchRet sl k r false = s.modSlice sl fun x => (f x).retouched k s.keepWays r :=
  State.modSlice_modSlice s sl f _

/-- Only what a change makes of the present slice counts. -/
theorem State.modSlice_congr {s : State} {sl : Fin 16} {f g : Slice → Slice}
    (h : f s.paths.slices[sl] = g s.paths.slices[sl]) : s.modSlice sl f = s.modSlice sl g := by
  simp only [State.modSlice, h]

theorem State.dropIfLast_of_ne (s : State) (sl : Fin 16) (k : Nat) {r : Req} (h : r.hint ≠ .last) :
    s.dropIfLast sl k r = s := if_neg fun hc => h hc.1

section served

variable {s : State} {sl n : Fin 16} {r : Req} {rest : List Req} {k : Nat} {c : Instr} {p : Req → Bool}

theorem headGone_slice (s : State) (sl : Fin 16) (r : Req) (rest : List Req) :
    (s.headGone sl r rest).paths.slices[sl] = { s.paths.slices[sl] with input := rest } :=
  State.slices_modSlice_same _ sl _

theorem AtHead.there (h : AtHead s sl r rest k) : There (s.headGone sl r rest) sl k r := by
  obtain ⟨-, -, -, -, hfind, hlo, hhi, hplo, hphi⟩ := h
  constructor <;> rw [headGone_slice] <;> assumption

/-- A service changes its slice by `f`, and beside it the notices at most. -/
structure Worked (s u : State) (sl : Fin 16) (f : Slice → Slice) : Prop where
  slices : u.paths.slices = (s.modSlice sl f).paths.slices
  lines : u.wbLines sl = s.wbLines sl
  ports : u.paths.ports = s.paths.ports
  keeps : Keeps s u [.inbox, .paths, .tags]
  regs : u.regs = s.regs

theorem Worked.modSlice (s : State) (sl : Fin 16) (f : Slice → Slice) : Worked s (s.modSlice sl f) sl f :=
  ⟨rfl, rfl, rfl, State.modSlice_keeps _ _ _ (Keeps.refl _ _) (by simp), rfl⟩

theorem Worked.notice {s u : State} {sl : Fin 16} {f : Slice → Slice} (h : Worked s u sl f) (base : Nat) :
    Worked s (u.notice base) sl f :=
  ⟨h.slices, h.lines, h.ports, State.notice_keeps _ _ h.keeps (by simp), h.regs⟩

/-- A host port with the answer to one of its parts taken up (R54). -/
def HostPort.takesUp (h : HostPort) (r : Req) (st : Status) (data : List Byte) : HostPort :=
  { h with txns := h.txns.map fun t => if t.id = r.id then t.part r.addr st data else t }

/-- The answer to a request of a host port changes that port and the tags (R54). -/
theorem complete_host (u : State) (hsrc : r.src = .host n) (st : Status) (data : List Byte) :
    u.complete r st data = (u.stamp r.id 8 (u.now (.slice (u.sliceOf r.addr)))).modPort n fun h =>
      h.takesUp r st data := by
  simp only [State.complete, hsrc, HostPort.takesUp]

/-- A host port has been answered: nothing but that port and the tags has changed. -/
structure HostAnswered (u t : State) (sl n : Fin 16) (r : Req) (st : Status) (data : List Byte) : Prop where
  slices : t.paths.slices = u.paths.slices
  lines : t.wbLines sl = u.wbLines sl
  answers : Answers u t n r st data
  inbox : t.inbox = u.inbox
  keeps : Keeps u t [.inbox, .paths, .tags]
  regs : t.regs = u.regs

theorem complete_hostAnswered (u : State) (sl : Fin 16) (hsrc : r.src = .host n) (st : Status) (data : List Byte) :
    HostAnswered u ((u.complete r st data).tagPath sl r) sl n r st data := by
  rw [complete_host u hsrc]
  have hports (m : Fin 16) := State.ports_modPort (u.stamp r.id 8 (u.now (.slice (u.sliceOf r.addr)))) n m fun h =>
    h.takesUp r st data
  refine ⟨rfl, rfl, ⟨(congrArg HostPort.txns (hports n)).trans (by rw [if_pos rfl]; rfl),
    (congrArg HostPort.out (hports n)).trans (by rw [if_pos rfl]; rfl), fun m hm => (hports m).trans (if_neg hm)⟩, rfl,
    ?_, rfl⟩
  exact State.tagPath_keeps _ _ _ (State.modPort_keeps _ _ _ (State.stamp_keeps _ _ _ _ (Keeps.refl _ _) (by simp))
    (by simp)) (by simp)

theorem headGone_keeps (s : State) (sl : Fin 16) (r : Req) (rest : List Req) :
    Keeps s (s.headGone sl r rest) [.inbox, .paths, .tags] :=
  State.modSlice_keeps _ _ _ (State.modTag_keeps _ _ _ (State.stamp_keeps _ _ _ _ (Keeps.refl _ _) (by simp)) (by simp))
    (by simp)

theorem headGone_slice_other (s : State) {sl x : Fin 16} (hx : x ≠ sl) (r : Req) (rest : List Req) :
    (s.headGone sl r rest).paths.slices[x] = s.paths.slices[x] := State.slices_modSlice_other _ hx _

/-- What a row of the cache leaves that takes the head of the queue, changes its slice by `f`, answers a host port. -/
theorem gives_served (hc : exec c s = .next (s.onSlice sl (s.takeHead sl p))) (hp : p r = true)
    (h : AtHead s sl r rest k) (hsrc : r.src = .host n) {f : Slice → Slice} {u : State} {st : Status} {data : List Byte}
    (hu : Worked (s.headGone sl r rest) u sl f)
    (hserve : (s.headGone sl r rest).serve sl r = u.complete r st data) (hmiss : ∀ x, (f x).misses = x.misses) :
    Gives c s fun t =>
      t.paths.slices[sl] = f { s.paths.slices[sl] with input := rest } ∧
        (∀ x, x ≠ sl → t.paths.slices[x] = s.paths.slices[x]) ∧ Answers s t n r st data ∧ t.inbox = u.inbox ∧
        Keeps s t [.inbox, .paths, .tags] ∧ KeepsRegs s t [] := by
  obtain ⟨hans, hinput, hnone, hwb, -⟩ := h
  have hdone := complete_hostAnswered u sl hsrc st data
  generalize ht : (u.complete r st data).tagPath sl r = t at hdone
  have hdispatch : ((s.headGone sl r rest).dispatchReq sl r).tagPath sl r = t := by
    rw [State.dispatchReq, headGone_slice, hnone, ← ht, ← hserve]
    rfl
  have hslices := hdone.slices.trans hu.slices
  have hslice : t.paths.slices[sl] = f { s.paths.slices[sl] with input := rest } := by
    rw [hslices, State.slices_modSlice_same, headGone_slice]
  have hfits : t.sliceFits sl = true := by
    have hlines : t.wbLines sl = [] := (hdone.lines.trans hu.lines).trans hwb
    have hmisses : t.paths.slices[sl].misses = [] := by rw [hslice, hmiss, hnone]
    simp only [State.sliceFits, State.wbUsed, hlines, hmisses]
    rfl
  obtain ⟨htxns, hout, hother⟩ := hdone.answers
  refine ⟨t, ?_, hslice, fun x hx => ?_, ⟨?_, ?_, fun m hm => ?_⟩, hdone.inbox, ?_, fun o _ => ?_⟩
  · rw [hc, State.onSlice, if_pos hans, takeHead_eq hinput hp, hdispatch, State.ifFits, if_pos hfits]
  · rw [hslices, State.slices_modSlice_other _ hx, headGone_slice_other s hx]
  · rw [htxns, hu.ports]
    rfl
  · rw [hout, hu.ports]
    rfl
  · rw [hother m hm, hu.ports]
    rfl
  · exact ((headGone_keeps s sl r rest).trans hu.keeps).trans hdone.keeps
  · exact (State.rd_congr hdone.regs o).trans (State.rd_congr hu.regs o)

/-- Nothing but the notices tells the two apart. -/
theorem Keeps.of_inbox {s t : State} {ps : List Region} (h : Keeps s t (.inbox :: ps)) (hb : t.inbox = s.inbox) :
    Keeps s t ps := fun p hp => by
  by_cases hi : p = .inbox
  · subst hi; exact hb
  · exact h p (by simp [hi, hp])

end served

/-! ### ATOMIC (R195, R196, R198) -/

section atomic

variable {s : State} {sl n : Fin 16} {r : Req} {rest : List Req} {k : Nat} {c : Instr} {p : Req → Bool}

/-- The line with the bytes `new` in the place of `off`, touched by a hit. -/
def Slice.replacedAt (x : Slice) (k keepWays off : Nat) (r : Req) (new : List Byte) : Slice :=
  (x.setWay k ((x.way k).written r (patch (x.way k).bytes off new) false)).retouched k keepWays r

theorem There.lineAtomic {u : State} (h : There u sl k r) (fn : AtomFunc) {fmt : AtomFormat}
    (hfmt : AtomFormat.ofCode r.format = some fmt) (hred : u.paths.slices[sl].red (lineNo r.addr) = none)
    (hhint : r.hint = .normal) :
    u.lineAtomic sl k fn r false = (u.modSlice sl fun x => x.replacedAt k u.keepWays r.offset r
      (atomBytes fn fmt (r.attr.testBit 9) r (sliceBytes (u.paths.slices[sl].way k).bytes r.offset r.size))).complete r
        .ok (if r.attr.testBit 8 || decide (fn = .swap)
          then atomOld r fmt.bytes (sliceBytes (u.paths.slices[sl].way k).bytes r.offset r.size) else []) := by
  have hne : r.hint ≠ .last := by simp [hhint]
  simp only [State.lineAtomic, hfmt, h.line, hred, h.poisonedFor, State.dropIfLast_of_ne _ _ _ hne,
    State.touchRet_modSlice]
  rw [if_neg (by simp), if_neg (by simp)]
  exact congrArg (fun t : State => t.complete r _ _) (State.modSlice_congr rfl)

theorem Slice.replacedAt_fields (x : Slice) (k keepWays off : Nat) (r : Req) (new : List Byte) :
    (x.replacedAt k keepWays off r new).input = x.input ∧ (x.replacedAt k keepWays off r new).misses = x.misses ∧
      ((x.replacedAt k keepWays off r new).way k).lo =
        ((x.way k).written r (patch (x.way k).bytes off new) false).lo ∧
      ((x.replacedAt k keepWays off r new).way k).hi =
        ((x.way k).written r (patch (x.way k).bytes off new) false).hi := by
  simp [Slice.replacedAt]

/-- An ATOMIC of an element operation on a line that is there: the clauses of ADD, MIN, MAX and SWAP. -/
theorem gives_atomic (hc : exec c s = .next (s.onSlice sl (s.takeHead sl p))) (hp : p r = true) {fn : AtomFunc}
    {fmt : AtomFormat} (hfn : AtomFunc.ofCode r.func = some fn) (h : AtHead s sl r rest k) (hop : r.op = .atomic)
    (hsrc : r.src = .host n) (hhint : r.hint = .normal) (hbad : r.badAtomic = false)
    (hfmt : AtomFormat.ofCode r.format = some fmt) (hred : s.paths.slices[sl].red (lineNo r.addr) = none) :
    Gives c s fun t =>
      ((t.paths.slices[sl].way k).lo.data, (t.paths.slices[sl].way k).hi.data) = areaSet s sl k r.offset r (atomBytes
        fn fmt (r.attr.testBit 9) r (sliceBytes (lineOf s sl k) r.offset r.size)) ∧ Answers s t n r .ok (if
        r.attr.testBit 8 || decide (fn = .swap) then atomOld r fmt.bytes (sliceBytes (lineOf s sl k) r.offset r.size)
        else []) ∧ t.paths.slices[sl].input = rest ∧ (∀ x, x ≠ sl → t.paths.slices[x] = s.paths.slices[x]) ∧
        Keeps s t [.paths, .tags] ∧ KeepsRegs s t [] := by
  have h4 : r.func ≠ 4 := by
    intro h4
    simp [h4, AtomFunc.ofCode] at hfn
  have hthere := h.there
  have hred' : (s.headGone sl r rest).paths.slices[sl].red (lineNo r.addr) = none := by rw [headGone_slice]; exact hred
  have hop' (u : State) : u.lineOp sl k r false = u.lineAtomic sl k fn r false := by
    simp only [State.lineOp, hop, hfn, if_neg h4]
  have hserve := (hthere.serve_atomic hop hbad hred').trans ((hop' _).trans (hthere.lineAtomic fn hfmt hred' hhint))
  rw [headGone_slice] at hserve
  obtain ⟨t, ht, hslice, hothers, hans, hinbox, hkeeps, hregs⟩ := gives_served hc hp h hsrc (Worked.modSlice ..) hserve
    fun _ => rfl
  obtain ⟨hinput, -, hlo, hhi⟩ := Slice.replacedAt_fields { s.paths.slices[sl] with input := rest } k s.keepWays r.offset
    r (atomBytes fn fmt (r.attr.testBit 9) r (sliceBytes (lineOf s sl k) r.offset r.size))
  refine ⟨t, ht, ?_, hans, (congrArg Slice.input hslice).trans hinput, hothers, hkeeps.of_inbox hinbox, hregs⟩
  exact Prod.ext ((congrArg (fun x : Slice => (x.way k).lo.data) hslice).trans (congrArg Sector.data hlo))
    ((congrArg (fun x : Slice => (x.way k).hi.data) hslice).trans (congrArg Sector.data hhi))

/-! ### CAS (R197) -/

/-- What a CAS leaves of its slice: the line is replaced at its 8 bytes when they equal the compare value. -/
def Slice.swapped (x : Slice) (k keepWays : Nat) (r : Req) : Slice :=
  (x.setWay k (if sliceBytes (x.way k).bytes r.offset 8 = sliceBytes r.data 0 8
    then (x.way k).written r (patch (x.way k).bytes r.offset (sliceBytes r.data 8 8)) false
    else x.way k)).retouched k keepWays r

theorem Slice.swapped_hit (x : Slice) (k keepWays : Nat) (r : Req)
    (h : sliceBytes (x.way k).bytes r.offset 8 = sliceBytes r.data 0 8) :
    ((x.swapped k keepWays r).way k).lo =
        ((x.way k).written r (patch (x.way k).bytes r.offset (sliceBytes r.data 8 8)) false).lo ∧
      ((x.swapped k keepWays r).way k).hi =
        ((x.way k).written r (patch (x.way k).bytes r.offset (sliceBytes r.data 8 8)) false).hi := by
  simp [Slice.swapped, h]

theorem Slice.swapped_miss (x : Slice) (k keepWays : Nat) (r : Req)
    (h : sliceBytes (x.way k).bytes r.offset 8 ≠ sliceBytes r.data 0 8) :
    ((x.swapped k keepWays r).way k).bytes = (x.way k).bytes := by
  simp [Slice.swapped, h]

theorem There.lineCas {u : State} (h : There u sl k r) (hlow : r.attr.testBit 10 = false)
    (hred : u.paths.slices[sl].red (lineNo r.addr) = none) (hhint : r.hint ≠ .last) :
    u.lineCas sl k r false = (u.modSlice sl fun x => x.swapped k u.keepWays r).complete r .ok
      (sliceBytes (u.paths.slices[sl].way k).bytes r.offset 8 ++ zeros 8) := by
  simp only [State.lineCas, hlow, h.line, hred, h.poisonedFor, State.dropIfLast_of_ne _ _ _ hhint,
    State.touchRet_modSlice]
  rw [if_neg (by simp), if_neg (by simp)]
  refine congrArg (fun t : State => t.complete r _ _) (State.modSlice_congr ?_)
  simp [Slice.swapped]

theorem gives_cas (s : State) (sl n : Fin 16) (r : Req) (rest : List Req) (k : Nat) (h : AtHead s sl r rest k)
    (hop : r.op = .atomic) (h4 : r.func = 4) (hsrc : r.src = .host n) (hhint : r.hint = .normal)
    (_hprefetch : r.prefetch = false) (hbad : r.badAtomic = false) (hlow : r.attr.testBit 10 = false)
    (hred : s.paths.slices[sl].red (lineNo r.addr) = none) :
    Gives (.atomicCas sl) s fun t =>
      (sliceBytes (lineOf s sl k) r.offset 8 = sliceBytes r.data 0 8 → ((t.paths.slices[sl].way k).lo.data,
        (t.paths.slices[sl].way k).hi.data) = areaSet s sl k r.offset r (sliceBytes r.data 8 8)) ∧ (sliceBytes (lineOf
        s sl k) r.offset 8 ≠ sliceBytes r.data 0 8 → lineOf t sl k = lineOf s sl k) ∧ Answers s t n r .ok (sliceBytes
        (lineOf s sl k) r.offset 8 ++ zeros 8) ∧ t.paths.slices[sl].input = rest ∧ (∀ x, x ≠ sl → t.paths.slices[x] =
        s.paths.slices[x]) ∧ Keeps s t [.paths, .tags] ∧ KeepsRegs s t [] := by
  have hthere := h.there
  have hred' : (s.headGone sl r rest).paths.slices[sl].red (lineNo r.addr) = none := by rw [headGone_slice]; exact hred
  have hop' (u : State) : u.lineOp sl k r false = u.lineCas sl k r false := by
    simp only [State.lineOp, hop, if_pos h4]
  have hserve := (hthere.serve_atomic hop hbad hred').trans
    ((hop' _).trans (hthere.lineCas hlow hred' (by simp [hhint])))
  rw [headGone_slice] at hserve
  obtain ⟨t, ht, hslice, hothers, hans, hinbox, hkeeps, hregs⟩ := gives_served (c := .atomicCas sl) (p := Req.isAtomic 4)
    rfl (by simp [Req.isAtomic, hop, h4]) h hsrc (Worked.modSlice ..) hserve fun _ => rfl
  refine ⟨t, ht, fun hhit => ?_, fun hmiss => ?_, hans, by rw [hslice]; rfl, hothers, hkeeps.of_inbox hinbox, hregs⟩
  · obtain ⟨hlo, hhi⟩ := Slice.swapped_hit { s.paths.slices[sl] with input := rest } k s.keepWays r hhit
    exact Prod.ext ((congrArg (fun x : Slice => (x.way k).lo.data) hslice).trans (congrArg Sector.data hlo))
      ((congrArg (fun x : Slice => (x.way k).hi.data) hslice).trans (congrArg Sector.data hhi))
  · exact (congrArg (fun x : Slice => (x.way k).bytes) hslice).trans
      (Slice.swapped_miss { s.paths.slices[sl] with input := rest } k s.keepWays r hmiss)

end atomic

/-- Settles O27: the element operations and CAS by what their line becomes, any atomic at the head by what every service
leaves. -/
theorem cacheAtomics : Obligations.CacheAtomics := by
  unfold Obligations.CacheAtomics
  refine ⟨?_, ?_, ?_, ?_, gives_cas, ?_, ?_, ?_, ?_, ?_⟩
  · intro s sl n r rest k fmt h hop hfunc hsrc hhint _ hbad hfmt hred
    simpa using gives_atomic (c := .atomicAdd sl) rfl (by simp [Req.isAtomic, hop, hfunc]) (fn := .add)
      (by rw [hfunc]; rfl) h hop hsrc hhint hbad hfmt hred
  · intro s sl n r rest k fmt h hop hfunc hsrc hhint _ hbad hfmt hred
    simpa using gives_atomic (c := .atomicMin sl) rfl (by simp [Req.isAtomic, hop, hfunc]) (fn := .min)
      (by rw [hfunc]; rfl) h hop hsrc hhint hbad hfmt hred
  · intro s sl n r rest k fmt h hop hfunc hsrc hhint _ hbad hfmt hred
    simpa using gives_atomic (c := .atomicMax sl) rfl (by simp [Req.isAtomic, hop, hfunc]) (fn := .max)
      (by rw [hfunc]; rfl) h hop hsrc hhint hbad hfmt hred
  · intro s sl n r rest k fmt h hop hfunc hsrc hhint _ hbad hfmt hred
    simpa using gives_atomic (c := .atomicSwap sl) rfl (by simp [Req.isAtomic, hop, hfunc]) (fn := .swap)
      (by rw [hfunc]; rfl) h hop hsrc hhint hbad hfmt hred
  · exact fun s sl r rest h hop hfunc => gives_headFits rfl (by simp [Req.isAtomic, hop, hfunc]) h
  · exact fun s sl r rest h hop hfunc => gives_headFits rfl (by simp [Req.isAtomic, hop, hfunc]) h
  · exact fun s sl r rest h hop hfunc => gives_headFits rfl (by simp [Req.isAtomic, hop, hfunc]) h
  · exact fun s sl r rest h hop hfunc => gives_headFits rfl (by simp [Req.isAtomic, hop, hfunc]) h
  · exact fun s sl r rest h hop hfunc => gives_headFits rfl (by simp [Req.isAtomic, hop, hfunc]) h

end Sys2Proof.Machine
end

section
/-! SUPPORT. Reduction entries: contribution, ARM, QUERY and RELEASE on a line that is there (O28). -/

namespace Sys2Proof.Machine

/-! ### Entries (R201 to R203) -/

theorem Slice.red_setRed (x : Slice) (e : RedEntry) : (x.setRed e).red e.line = some e := by
  simp [Slice.setRed, Slice.red]

@[simp] theorem Slice.setRed_fields (x : Slice) (e : RedEntry) :
    (x.setRed e).input = x.input ∧ (x.setRed e).misses = x.misses ∧ (∀ k, (x.setRed e).way k = x.way k) :=
  ⟨rfl, rfl, fun _ => rfl⟩

/-- A FUNC of an element operation is none of ARM, QUERY and RELEASE (R194). -/
theorem AtomFunc.code_lt {f : Nat} {fn : AtomFunc} (h : AtomFunc.ofCode f = some fn) : f < 4 := by
  unfold AtomFunc.ofCode at h
  split at h
  case h_5 => cases h
  all_goals decide

/-- A contribution carries at least one (R202). -/
theorem Req.contributions_pos {r : Req} (hf : r.func < 4) (h : r.badReduce = false) : 0 < r.contributions := by
  unfold Req.badReduce at h
  split at h
  case h_1 h8 => omega
  case h_2 h9 => omega
  case h_3 h10 => omega
  case h_4 =>
    simp only [Bool.or_eq_false_iff, decide_eq_false_iff_not] at h
    omega

/-- The entry that a first contribution or an ARM opens. -/
def openedEntry (line func format : Nat) : RedEntry :=
  { line := line, func := func, format := format, count := 0, expected := 0, m := 0, d := 0, complete := false }

/-- An entry after a contribution (R202, R204). -/
def RedEntry.contributed (e : RedEntry) (fmt : AtomFormat) (r : Req) : RedEntry :=
  { e with count := e.count + r.contributions, complete := decide (e.count + r.contributions = e.expected),
           m := deckleWord (addUp (ofB32 e.m) (contributionMag fmt r.data r.strb)),
           d := deckleWord (addUp (ofB32 e.d) (ofB32 r.deckle)) }

/-- A slice whose line has taken the elements of a contribution, with its entry. -/
def Slice.combined (x : Slice) (k keepWays : Nat) (fn : AtomFunc) (fmt : AtomFormat) (r : Req) (e : RedEntry) : Slice :=
  ((x.setWay k ((x.way k).written r (patch (x.way k).bytes r.offset
    (atomBytes fn fmt false r (sliceBytes (x.way k).bytes r.offset r.size))) false)).setRed e).retouched k keepWays r

/-- A slice with an armed entry. -/
def Slice.armed (x : Slice) (k keepWays : Nat) (r : Req) (e : RedEntry) : Slice :=
  (x.setRed e).retouched k keepWays r

theorem Slice.red_armed (x : Slice) (k keepWays : Nat) (r : Req) (e : RedEntry) :
    (x.armed k keepWays r e).red e.line = some e := x.red_setRed e

theorem Slice.armed_bytes (x : Slice) (k keepWays : Nat) (r : Req) (e : RedEntry) :
    ((x.armed k keepWays r e).way k).bytes = (x.way k).bytes := by
  obtain ⟨-, -, -, -, -, -, -, -, hbytes⟩ :=
    Slice.retouched_fields (x.setRed e) k keepWays r
  exact hbytes

/-- A slice after a QUERY or a RELEASE of a line: RET as for a hit, and a drop asked for waits while `reds` holds the
line's entry (R185, R188). -/
def Slice.hinted (x : Slice) (k keepWays : Nat) (r : Req) : Slice :=
  let y := x.retouched k keepWays r
  if r.hint = .last ∧ !r.prefetch then y.setWay k ((y.way k).deferred (r.discard && decide (r.op = .read))) else y

theorem Line.deferred_bytes (l : Line) (discard : Bool) : (l.deferred discard).bytes = l.bytes := by
  unfold Line.deferred
  split <;> rfl

theorem Slice.hinted_fields (x : Slice) (k keepWays : Nat) (r : Req) :
    (x.hinted k keepWays r).input = x.input ∧ (x.hinted k keepWays r).misses = x.misses ∧
      (x.hinted k keepWays r).reds = x.reds ∧ ((x.hinted k keepWays r).way k).bytes = (x.way k).bytes := by
  unfold Slice.hinted
  dsimp only
  split <;> simp [Line.deferred_bytes]

theorem Slice.hinted_misses (x : Slice) (k keepWays : Nat) (r : Req) : (x.hinted k keepWays r).misses = x.misses := by
  obtain ⟨-, hmisses, -⟩ := x.hinted_fields k keepWays r
  exact hmisses

section there

variable {s : State} {sl : Fin 16} {k : Nat} {r : Req}

/-- A REDUCE_INTO that contributes or arms, on a line that is there, acts at once (R202, R203). -/
theorem There.serve_reduce (h : There s sl k r) (hop : r.op = .reduceInto) (hbad : r.badReduce = false)
    (h9 : r.func ≠ 9) (h10 : r.func ≠ 10) : s.serve sl r = s.lineOp sl k r false := by
  have hneeds := needs_there h.lo h.hi r
  simp only [State.serve, h.found, hneeds, hop, hbad, h9, h10]
  simp

theorem serve_query (hop : r.op = .reduceInto) (h9 : r.func = 9) (hsize : r.size = 16) :
    s.serve sl r = s.lineQuery sl r := by
  have hbad : r.badReduce = false := by simp [Req.badReduce, h9, hsize]
  simp only [State.serve, hop, hbad, h9]
  simp

theorem serve_release (hop : r.op = .reduceInto) (h10 : r.func = 10) : s.serve sl r = s.lineRelease sl r := by
  have hbad : r.badReduce = false := by simp [Req.badReduce, h10]
  simp only [State.serve, hop, hbad, h10]
  simp

/-- A contribution that its entry takes (R202, R204). -/
theorem There.lineContribute (h : There s sl k r) {fn : AtomFunc} {fmt : AtomFormat} {e : RedEntry}
    (hfn : AtomFunc.ofCode r.func = some fn) (hfmt : AtomFormat.ofCode r.format = some fmt)
    (he : (s.paths.slices[sl].red (lineNo r.addr)).getD (openedEntry (lineNo r.addr) r.func r.format) = e)
    (hroom : ¬((s.paths.slices[sl].red (lineNo r.addr)).isNone ∧ !s.paths.slices[sl].redRoom (lineNo r.addr)))
    (hfunc : e.func = r.func) (hformat : e.format = r.format) (hopen : e.complete = false)
    (hover : ¬((0 < e.expected ∧ e.expected < e.count + r.contributions) ∨ 16777215 < e.count + r.contributions))
    (hhint : r.hint ≠ .last) :
    s.lineContribute sl k r false =
      (if decide (e.count + r.contributions = e.expected)
        then (s.modSlice sl fun x => x.combined k s.keepWays fn fmt r (e.contributed fmt r)).notice
          (s.paths.slices[sl].way k).base
        else s.modSlice sl fun x => x.combined k s.keepWays fn fmt r (e.contributed fmt r)).complete r .ok [] := by
  have hopened : openedEntry (lineNo r.addr) r.func r.format =
      { line := lineNo r.addr, func := r.func, format := r.format, count := 0, expected := 0, m := 0, d := 0,
        complete := false } := rfl
  rw [hopened] at he
  simp only [State.lineContribute, hfn, hfmt, h.line, he, h.poisonedFor, State.dropIfLast_of_ne _ _ _ hhint]
  rw [if_neg hroom, if_neg (by simp [hfunc, hformat]), if_neg (by simp [hopen]), if_neg hover, if_neg (by simp)]
  rw [State.touchRet_modSlice]
  exact congrArg (fun u : State => (if decide (e.count + r.contributions = e.expected)
    then u.notice (s.paths.slices[sl].way k).base else u).complete r .ok []) (State.modSlice_congr rfl)

theorem There.lineArm (h : There s sl k r) {exp : Nat} (hexp : leNat (sliceBytes r.data 0 4) = exp)
    (hred : s.paths.slices[sl].red (lineNo r.addr) = none)
    (hroom : s.paths.slices[sl].redRoom (lineNo r.addr) = true) (hpos : 0 < exp) (hmax : exp ≤ 16777215)
    (hhint : r.hint ≠ .last) :
    s.lineArm sl k r false = (s.modSlice sl fun x => x.armed k s.keepWays r
      { openedEntry (lineNo r.addr) (natBits r.attr 8 4) r.format with expected := exp }).complete r .ok [] := by
  have hne : ¬exp ≤ 0 := by omega
  have hlt : ¬exp < 0 := by omega
  simp only [State.lineArm, hexp, h.line, hred, hroom, h.poisonedFor, State.dropIfLast_of_ne _ _ _ hhint,
    Option.getD_none, hne, hlt]
  rw [if_neg (by simp), if_neg (by simp; omega), if_neg (by simp)]
  simp only [decide_false, Bool.or_false, Bool.false_eq_true, if_false, State.touchRet_modSlice]
  rfl

/-- The hint of a QUERY of a line with an entry (R188). -/
theorem There.hintOnly (h : There s sl k r) (hred : (s.paths.slices[sl].red (lineNo r.addr)).isSome ∨ r.hint ≠ .last) :
    s.hintOnly sl r = s.modSlice sl fun x => x.hinted k s.keepWays r := by
  simp only [State.hintOnly, h.found, State.dropIfLast, Slice.hinted]
  by_cases hlast : r.hint = .last ∧ !r.prefetch
  · have hsome := hred.resolve_right (not_not_intro hlast.1)
    have hline := h.line
    simp only [if_pos hlast, State.dropWay, State.touchRet_eq, State.slices_modSlice_same, Slice.retouched_fields,
      hline, if_pos hsome, State.modSlice_modSlice]
    exact State.modSlice_congr rfl
  · simp only [if_neg hlast, State.touchRet_eq]

theorem There.lineQuery (h : There s sl k r) {e : RedEntry}
    (hred : s.paths.slices[sl].red (lineNo r.addr) = some e) :
    s.lineQuery sl r = (s.modSlice sl fun x => x.hinted k s.keepWays r).complete r .ok e.bytes := by
  simp only [State.lineQuery, hred, h.poisons, h.hintOnly (.inl (by rw [hred]; rfl))]
  exact if_neg (by simp)

/-- A slice without the entry of a line. -/
def Slice.freed (x : Slice) (ln : Nat) : Slice := { x with reds := x.reds.filter fun e => e.line ≠ ln }

theorem Slice.red_freed (x : Slice) (ln : Nat) : (x.freed ln).red ln = none := by
  simp [Slice.red, Slice.freed]

theorem There.lineRelease (h : There s sl k r) {e : RedEntry}
    (hred : s.paths.slices[sl].red (lineNo r.addr) = some e)
    (hdefer : (s.paths.slices[sl].way k).deferDrop = false) (hhint : r.hint ≠ .last) :
    s.lineRelease sl r =
      (s.modSlice sl fun x => (x.freed (lineNo r.addr)).hinted k s.keepWays r).complete r .ok [] := by
  have hslice := State.slices_modSlice_same s sl fun x => x.freed (lineNo r.addr)
  have hfreed : There (s.modSlice sl fun x => x.freed (lineNo r.addr)) sl k r := by
    constructor <;> rw [hslice]
    exacts [h.found, h.lo, h.hi, h.loPoison, h.hiPoison]
  have hkept : ((s.modSlice sl fun x => x.freed (lineNo r.addr)).paths.slices[sl].way k).deferDrop = false := by
    rw [hslice]; exact hdefer
  have hhinted := hfreed.hintOnly (.inr hhint)
  simp only [Slice.freed] at hfreed hkept hhinted
  simp only [State.lineRelease, hred, h.poisons, hfreed.found, hkept]
  rw [if_neg (by simp), if_neg (by simp), hhinted, State.modSlice_modSlice]
  rfl

end there

/-! ### The clauses of CacheReductions -/

section clauses

variable {s : State} {sl n : Fin 16} {r : Req} {rest : List Req} {k : Nat}

/-- A REDUCE_INTO that is none of ARM, QUERY and RELEASE (R202). -/
def Req.contributes (r : Req) : Bool :=
  decide (r.op = .reduceInto) && !(Req.isReduce 8 r || Req.isReduce 9 r || Req.isReduce 10 r)

theorem exec_reduceContribution (s : State) (sl : Fin 16) :
    exec (.reduceContribution sl) s = .next (s.onSlice sl (s.takeHead sl Req.contributes)) := rfl

theorem Req.contributes_of_lt (hop : r.op = .reduceInto) (hlt : r.func < 8) : r.contributes = true := by
  have h8 : r.func ≠ 8 := by omega
  have h9 : r.func ≠ 9 := by omega
  have h10 : r.func ≠ 10 := by omega
  simp [Req.contributes, Req.isReduce, hop, h8, h9, h10]

theorem Slice.combined_fields (x : Slice) (k keepWays : Nat) (fn : AtomFunc) (fmt : AtomFormat) (r : Req)
    (e : RedEntry) :
    (x.combined k keepWays fn fmt r e).input = x.input ∧ (x.combined k keepWays fn fmt r e).misses = x.misses ∧
      (x.combined k keepWays fn fmt r e).red e.line = some e ∧
      ((x.combined k keepWays fn fmt r e).way k).lo = ((x.way k).written r (patch (x.way k).bytes r.offset
        (atomBytes fn fmt false r (sliceBytes (x.way k).bytes r.offset r.size))) false).lo ∧
      ((x.combined k keepWays fn fmt r e).way k).hi = ((x.way k).written r (patch (x.way k).bytes r.offset
        (atomBytes fn fmt false r (sliceBytes (x.way k).bytes r.offset r.size))) false).hi := by
  simp [Slice.combined, Slice.red_setRed]

/-- The slice tells the scheduler core of a line whose entry is complete (R204). -/
def State.noticeIf (u : State) (done : Bool) (base : Nat) : State := if done then u.notice base else u

/-- The notices after the one of a line whose entry is complete. -/
def noticed (b : Inbox) (done : Bool) (base : Nat) : Inbox :=
  if done then { b with notices := b.notices ++ [base] } else b

theorem noticeIf_inbox (u : State) (done : Bool) (base : Nat) :
    (u.noticeIf done base).inbox = noticed u.inbox done base := by
  cases done <;> rfl

theorem Worked.noticeIf {s u : State} {f : Slice → Slice} (h : Worked s u sl f) (done : Bool) (base : Nat) :
    Worked s (u.noticeIf done base) sl f := by
  cases done
  · exact h
  · exact h.notice base

/-- A contribution that its entry takes: the line, the entry and the notice. -/
theorem gives_contribution {fn : AtomFunc} {fmt : AtomFormat} {e : RedEntry} (h : AtHead s sl r rest k)
    (hop : r.op = .reduceInto) (hfn : AtomFunc.ofCode r.func = some fn) (hfmt : AtomFormat.ofCode r.format = some fmt)
    (hsrc : r.src = .host n) (hhint : r.hint = .normal) (hbad : r.badReduce = false)
    (he : (s.paths.slices[sl].red (lineNo r.addr)).getD (openedEntry (lineNo r.addr) r.func r.format) = e)
    (hroom : ¬((s.paths.slices[sl].red (lineNo r.addr)).isNone ∧ !s.paths.slices[sl].redRoom (lineNo r.addr)))
    (hline : e.line = lineNo r.addr) (hfunc : e.func = r.func) (hformat : e.format = r.format)
    (hopen : e.complete = false)
    (hover : ¬((0 < e.expected ∧ e.expected < e.count + r.contributions) ∨ 16777215 < e.count + r.contributions)) :
    Gives (.reduceContribution sl) s fun t =>
      t.paths.slices[sl].red (lineNo r.addr) = some (e.contributed fmt r) ∧ ((t.paths.slices[sl].way k).lo.data,
        (t.paths.slices[sl].way k).hi.data) = areaSet s sl k r.offset r (atomBytes fn fmt false r (sliceBytes (lineOf s
        sl k) r.offset r.size)) ∧ Answers s t n r .ok [] ∧ t.paths.slices[sl].input = rest ∧
        t.inbox = noticed s.inbox (decide (e.count + r.contributions = e.expected)) (s.paths.slices[sl].way k).base ∧
        (∀ x, x ≠ sl → t.paths.slices[x] = s.paths.slices[x]) ∧ Keeps s t [.inbox, .paths, .tags] ∧
        KeepsRegs s t [] := by
  have hlt := AtomFunc.code_lt hfn
  have hthere := h.there
  have hslice := headGone_slice s sl r rest
  have hop' (u : State) : u.lineOp sl k r false = u.lineContribute sl k r false := by
    simp only [State.lineOp, hop, if_neg (show r.func ≠ 8 by omega)]
  have hserve := (hthere.serve_reduce hop hbad (by omega) (by omega)).trans ((hop' _).trans (hthere.lineContribute hfn
    hfmt (by rw [hslice]; exact he) (by rw [hslice]; exact hroom) hfunc hformat hopen hover (by simp [hhint])))
  rw [hslice] at hserve
  have hmod := Worked.modSlice (s.headGone sl r rest) sl fun x =>
    x.combined k (s.headGone sl r rest).keepWays fn fmt r (e.contributed fmt r)
  obtain ⟨t, ht, hafter, hothers, hans, hinbox, hkeeps, hregs⟩ := gives_served (exec_reduceContribution s sl)
    (Req.contributes_of_lt hop (by omega)) h hsrc (hmod.noticeIf _ _) hserve fun _ => rfl
  obtain ⟨hinput, -, hred, hlo, hhi⟩ := Slice.combined_fields { s.paths.slices[sl] with input := rest } k s.keepWays fn
    fmt r (e.contributed fmt r)
  refine ⟨t, ht, ?_, ?_, hans, (congrArg Slice.input hafter).trans hinput, ?_, hothers, hkeeps, hregs⟩
  · rw [hafter, ← hline]
    exact hred
  · exact Prod.ext ((congrArg (fun x : Slice => (x.way k).lo.data) hafter).trans (congrArg Sector.data hlo))
      ((congrArg (fun x : Slice => (x.way k).hi.data) hafter).trans (congrArg Sector.data hhi))
  · exact hinbox.trans (noticeIf_inbox ..)

theorem gives_firstContribution (s : State) (sl n : Fin 16) (r : Req) (rest : List Req) (k : Nat) (fn : AtomFunc)
    (fmt : AtomFormat) (h : AtHead s sl r rest k) (hop : r.op = .reduceInto) (hfn : AtomFunc.ofCode r.func = some fn)
    (hfmt : AtomFormat.ofCode r.format = some fmt) (hsrc : r.src = .host n) (hhint : r.hint = .normal)
    (_hprefetch : r.prefetch = false) (hbad : r.badReduce = false) (hcount : r.contributions ≤ 255)
    (_hline : (s.paths.slices[sl].way k).line = lineNo r.addr)
    (hred : s.paths.slices[sl].red (lineNo r.addr) = none)
    (hroom : s.paths.slices[sl].redRoom (lineNo r.addr) = true) :
    Gives (.reduceContribution sl) s fun t =>
      (t.paths.slices[sl].red (lineNo r.addr)).map (fun e => (e.func, e.format, e.count, e.expected, e.complete)) =
        some (r.func, r.format, r.contributions, 0, false) ∧ ((t.paths.slices[sl].way k).lo.data,
        (t.paths.slices[sl].way k).hi.data) = areaSet s sl k r.offset r (atomBytes fn fmt false r (sliceBytes (lineOf s
        sl k) r.offset r.size)) ∧ Answers s t n r .ok [] ∧ t.paths.slices[sl].input = rest ∧ t.inbox = s.inbox ∧ (∀ x,
        x ≠ sl → t.paths.slices[x] = s.paths.slices[x]) ∧ Keeps s t [.paths, .tags] ∧ KeepsRegs s t [] := by
  have hpos := Req.contributions_pos (AtomFunc.code_lt hfn) hbad
  have hopen : decide ((openedEntry (lineNo r.addr) r.func r.format).count + r.contributions =
      (openedEntry (lineNo r.addr) r.func r.format).expected) = false :=
    decide_eq_false (by simp only [openedEntry]; omega)
  obtain ⟨t, ht, hentry, hdata, hans, hinput, hinbox, hothers, hkeeps, hregs⟩ := gives_contribution
    (e := openedEntry (lineNo r.addr) r.func r.format) h hop hfn hfmt hsrc hhint hbad (by rw [hred]; rfl)
    (by rw [hroom]; simp) rfl rfl rfl rfl (by simp only [openedEntry]; omega)
  rw [hopen] at hinbox
  refine ⟨t, ht, ?_, hdata, hans, hinput, hinbox, hothers, hkeeps.of_inbox hinbox, hregs⟩
  rw [hentry, Option.map_some, RedEntry.contributed, hopen]
  simp [openedEntry]

theorem gives_lastContribution (s : State) (sl n : Fin 16) (r : Req) (rest : List Req) (k : Nat) (fn : AtomFunc)
    (fmt : AtomFormat) (e : RedEntry) (h : AtHead s sl r rest k) (hop : r.op = .reduceInto)
    (hfn : AtomFunc.ofCode r.func = some fn) (hfmt : AtomFormat.ofCode r.format = some fmt) (hsrc : r.src = .host n)
    (hhint : r.hint = .normal) (_hprefetch : r.prefetch = false) (hbad : r.badReduce = false)
    (_hline : (s.paths.slices[sl].way k).line = lineNo r.addr)
    (hred : s.paths.slices[sl].red (lineNo r.addr) = some e) (heline : e.line = lineNo r.addr) (hfunc : e.func = r.func)
    (hformat : e.format = r.format) (hopen : e.complete = false) (hlast : e.count + r.contributions = e.expected)
    (hmax : e.expected ≤ 16777215) :
    Gives (.reduceContribution sl) s fun t =>
      (t.paths.slices[sl].red (lineNo r.addr)).map (fun x => (x.count, x.expected, x.complete)) = some (e.expected,
        e.expected, true) ∧ t.inbox.notices = s.inbox.notices ++ [(s.paths.slices[sl].way k).base] ∧ Answers s t n r
        .ok [] ∧ t.paths.slices[sl].input = rest ∧ Keeps s t [.inbox, .paths, .tags] ∧ KeepsRegs s t [] := by
  obtain ⟨t, ht, hentry, -, hans, hinput, hinbox, -, hkeeps, hregs⟩ := gives_contribution (e := e) h hop hfn hfmt hsrc
    hhint hbad (by rw [hred]; rfl) (by rw [hred]; simp) heline hfunc hformat hopen (by omega)
  rw [decide_eq_true hlast] at hinbox
  refine ⟨t, ht, ?_, congrArg Inbox.notices hinbox, hans, hinput, hkeeps, hregs⟩
  rw [hentry, Option.map_some, RedEntry.contributed, decide_eq_true hlast, hlast]

theorem gives_reduceArm (s : State) (sl n : Fin 16) (r : Req) (rest : List Req) (k : Nat) (h : AtHead s sl r rest k)
    (hop : r.op = .reduceInto) (h8 : r.func = 8) (hsrc : r.src = .host n) (hhint : r.hint = .normal)
    (_hprefetch : r.prefetch = false) (hbad : r.badReduce = false)
    (_hline : (s.paths.slices[sl].way k).line = lineNo r.addr)
    (hred : s.paths.slices[sl].red (lineNo r.addr) = none)
    (hroom : s.paths.slices[sl].redRoom (lineNo r.addr) = true) (hpos : 0 < leNat (sliceBytes r.data 0 4))
    (hmax : leNat (sliceBytes r.data 0 4) ≤ 16777215) :
    Gives (.reduceArm sl) s fun t =>
      (t.paths.slices[sl].red (lineNo r.addr)).map (fun e => (e.func, e.format, e.count, e.expected, e.complete)) =
        some (natBits r.attr 8 4, r.format, 0, leNat (sliceBytes r.data 0 4), false) ∧ lineOf t sl k = lineOf s sl k ∧
        Answers s t n r .ok [] ∧ t.paths.slices[sl].input = rest ∧ Keeps s t [.paths, .tags] ∧ KeepsRegs s t [] := by
  have hthere := h.there
  have hslice := headGone_slice s sl r rest
  have hop' (u : State) : u.lineOp sl k r false = u.lineArm sl k r false := by
    simp only [State.lineOp, hop, if_pos h8]
  have hserve := (hthere.serve_reduce hop hbad (by omega) (by omega)).trans ((hop' _).trans (hthere.lineArm rfl
    (by rw [hslice]; exact hred) (by rw [hslice]; exact hroom) hpos hmax (by simp [hhint])))
  obtain ⟨t, ht, hafter, -, hans, hinbox, hkeeps, hregs⟩ := gives_served (c := .reduceArm sl) (p := Req.isReduce 8) rfl
    (by simp [Req.isReduce, hop, h8]) h hsrc (Worked.modSlice ..) hserve fun _ => rfl
  refine ⟨t, ht, ?_, ?_, hans, congrArg Slice.input hafter, hkeeps.of_inbox hinbox, hregs⟩
  · have hentry := (congrArg (fun x : Slice => x.red (lineNo r.addr)) hafter).trans
      (Slice.red_armed _ _ _ _ { openedEntry (lineNo r.addr) (natBits r.attr 8 4) r.format with
        expected := leNat (sliceBytes r.data 0 4) })
    exact congrArg (Option.map _) hentry
  · exact (congrArg (fun x : Slice => (x.way k).bytes) hafter).trans (Slice.armed_bytes ..)

theorem gives_reduceQuery (s : State) (sl n : Fin 16) (r : Req) (rest : List Req) (k : Nat) (e : RedEntry)
    (h : AtHead s sl r rest k) (hop : r.op = .reduceInto) (h9 : r.func = 9) (hsize : r.size = 16)
    (hsrc : r.src = .host n) (hred : s.paths.slices[sl].red (lineNo r.addr) = some e) :
    Gives (.reduceQuery sl) s fun t =>
      Answers s t n r .ok e.bytes ∧ t.paths.slices[sl].reds = s.paths.slices[sl].reds ∧ lineOf t sl k = lineOf s sl k ∧
        t.paths.slices[sl].input = rest ∧ Keeps s t [.paths, .tags] ∧ KeepsRegs s t [] := by
  have hserve := (serve_query hop h9 hsize).trans (h.there.lineQuery (by rw [headGone_slice]; exact hred))
  obtain ⟨t, ht, hafter, -, hans, hinbox, hkeeps, hregs⟩ := gives_served (c := .reduceQuery sl) (p := Req.isReduce 9)
    rfl (by simp [Req.isReduce, hop, h9]) h hsrc (Worked.modSlice ..) hserve fun x => x.hinted_misses ..
  obtain ⟨hinput, -, hreds, hbytes⟩ := Slice.hinted_fields { s.paths.slices[sl] with input := rest } k s.keepWays r
  exact ⟨t, ht, hans, (congrArg Slice.reds hafter).trans hreds,
    (congrArg (fun x : Slice => (x.way k).bytes) hafter).trans hbytes, (congrArg Slice.input hafter).trans hinput,
    hkeeps.of_inbox hinbox, hregs⟩

theorem gives_reduceRelease (s : State) (sl n : Fin 16) (r : Req) (rest : List Req) (k : Nat) (e : RedEntry)
    (h : AtHead s sl r rest k) (hop : r.op = .reduceInto) (h10 : r.func = 10) (hsrc : r.src = .host n)
    (hdefer : (s.paths.slices[sl].way k).deferDrop = false) (hhint : r.hint ≠ .last)
    (hred : s.paths.slices[sl].red (lineNo r.addr) = some e) :
    Gives (.reduceRelease sl) s fun t =>
      Answers s t n r .ok [] ∧ t.paths.slices[sl].red (lineNo r.addr) = none ∧ (∀ x ∈ s.paths.slices[sl].reds, x.line =
        lineNo r.addr ∨ x ∈ t.paths.slices[sl].reds) ∧ lineOf t sl k = lineOf s sl k ∧ (t.paths.slices[sl].way k).used
        = (s.paths.slices[sl].way k).used ∧ t.paths.slices[sl].input = rest ∧ Keeps s t [.paths, .tags] ∧ KeepsRegs s t
        [] := by
  have hslice := headGone_slice s sl r rest
  have hserve := (serve_release hop h10).trans (h.there.lineRelease (by rw [hslice]; exact hred)
    (by rw [hslice]; exact hdefer) hhint)
  obtain ⟨t, ht, hafter, -, hans, hinbox, hkeeps, hregs⟩ := gives_served (c := .reduceRelease sl) (p := Req.isReduce 10)
    rfl (by simp [Req.isReduce, hop, h10]) h hsrc (Worked.modSlice ..) hserve fun x => Slice.hinted_misses ..
  rw [Slice.hinted, if_neg fun hc => hhint hc.1] at hafter
  obtain ⟨hinput, -, -, hreds, -, -, hused, -, hbytes⟩ := Slice.retouched_fields
    ({ s.paths.slices[sl] with input := rest }.freed (lineNo r.addr)) k s.keepWays r
  refine ⟨t, ht, hans, ?_, fun x hx => ?_, (congrArg (fun x : Slice => (x.way k).bytes) hafter).trans hbytes,
    (congrArg (fun x : Slice => (x.way k).used) hafter).trans hused, (congrArg Slice.input hafter).trans hinput,
    hkeeps.of_inbox hinbox, hregs⟩
  · exact (congrArg (fun x : Slice => x.red (lineNo r.addr)) hafter).trans ((hreds _).trans (Slice.red_freed ..))
  · refine (em (x.line = lineNo r.addr)).imp_right fun hne => ?_
    rw [hafter]
    exact List.mem_filter.mpr ⟨hx, decide_eq_true hne⟩

end clauses

/-- Settles O28: a contribution, an ARM, a QUERY and a RELEASE by what their entry and line become, any REDUCE_INTO at
the head by what every service leaves. -/
theorem cacheReductions : Obligations.CacheReductions := by
  unfold Obligations.CacheReductions
  refine ⟨gives_firstContribution, gives_lastContribution, gives_reduceArm, gives_reduceQuery, gives_reduceRelease,
    ?_, ?_, ?_, ?_⟩
  · exact fun s sl r rest h hop hlt => gives_headFits (exec_reduceContribution s sl) (Req.contributes_of_lt hop hlt) h
  · exact fun s sl r rest h hop hfunc => gives_headFits rfl (by simp [Req.isReduce, hop, hfunc]) h
  · exact fun s sl r rest h hop hfunc => gives_headFits rfl (by simp [Req.isReduce, hop, hfunc]) h
  · exact fun s sl r rest h hop hfunc => gives_headFits rfl (by simp [Req.isReduce, hop, hfunc]) h

end Sys2Proof.Machine
end

section
/-! SUPPORT. CLEAN_RANGE, COLLECTIVE and CANCEL: the end of a packet and the sweeps of the slices (O34). -/

namespace Sys2Proof.Machine

/-! ### The end of a packet (R290, R291) -/

/-- Changing the packets of one key leaves the keys. -/
theorem map_key_modified {l : List Packet} {k : Pk} {f : Packet → Packet} (hf : ∀ p, (f p).key = p.key) :
    (l.map fun p => if p.key = k then f p else p).map Packet.key = l.map Packet.key := by
  rw [List.map_map]
  refine List.map_congr_left fun p _ => ?_
  simp only [Function.comp_apply]
  split
  · exact hf p
  · rfl

/-- Changing the packets of one key leaves those that a test selects, when it selects none of that key. -/
theorem filter_modified {l : List Packet} {k : Pk} {f : Packet → Packet} {q : Packet → Bool}
    (hq : ∀ p : Packet, p.key = k → q p = false ∧ q (f p) = false) :
    (l.map fun p => if p.key = k then f p else p).filter q = l.filter q := by
  induction l with
  | nil => rfl
  | cons p l ih =>
    rw [List.map_cons, List.filter_cons, List.filter_cons, ih]
    by_cases hp : p.key = k
    · simp [hp, hq p hp]
    · simp [hp]

/-- Time is as it was, and so is every packet that has not the key `k`. -/
structure OthersKept (s t : State) (k : Pk) : Prop where
  clk : t.clk = s.clk
  keys : t.sched.packets.map Packet.key = s.sched.packets.map Packet.key
  others : t.sched.packets.filter (fun x => x.key ≠ k) = s.sched.packets.filter fun x => x.key ≠ k

section others

variable {s t u : State} {k : Pk}

theorem OthersKept.refl (s : State) (k : Pk) : OthersKept s s k := ⟨rfl, rfl, rfl⟩

theorem OthersKept.of_fields (h : OthersKept s t k) (hc : u.clk = t.clk) (hp : u.sched.packets = t.sched.packets) :
    OthersKept s u k := ⟨hc.trans h.clk, by rw [hp]; exact h.keys, by rw [hp]; exact h.others⟩

theorem OthersKept.modPk (h : OthersKept s t k) {f : Packet → Packet} (hf : ∀ p, (f p).key = p.key) :
    OthersKept s (t.modPk k f) k :=
  ⟨h.clk, (map_key_modified hf).trans h.keys,
    (filter_modified fun p hp => by simp [hf, hp]).trans h.others⟩

/-- A packet that ends has completed, whatever happened to it before (R290). -/
theorem OthersKept.completes (h : OthersKept s t k) (st : Status) (detail deckle : Nat) :
    Completes s (t.finish k st detail deckle) k st detail deckle := by
  have hnow : t.now .firmware = s.now .firmware := by simp [State.now, h.clk]
  have hdone : OthersKept s (t.finish k st detail deckle) k := h.modPk fun _ => rfl
  refine ⟨fun x hx hk => ?_, hdone.keys, hdone.others⟩
  obtain ⟨p, -, rfl⟩ := List.mem_map.mp hx
  split at hk
  · next hp => rw [if_pos hp]; exact ⟨rfl, hnow⟩
  · next hp => exact absurd hk hp

theorem completes_finish (s : State) (k : Pk) (st : Status) (detail deckle : Nat) :
    Completes s (s.finish k st detail deckle) k st detail deckle := (OthersKept.refl s k).completes st detail deckle

theorem OthersKept.completes' (h : OthersKept s t k) (st : Status) (detail deckle : Nat) :
    Completes s (t.complete' k st detail deckle) k st detail deckle :=
  OthersKept.completes (h.modPk (by intro _; rfl)) st detail deckle

/-- A collective that ends completes its packet and is gone (R305, R306). -/
theorem OthersKept.collEnd (h : OthersKept s t k) (st : Status) (detail deckle : Nat) :
    Completes s (t.collEnd k st detail deckle) k st detail deckle :=
  OthersKept.completes' (h.of_fields rfl rfl) st detail deckle

end others

/-! ### CLEAN_RANGE (R303, R304) -/

/-- A range that a sweep covers: the next set, the range, and what becomes of its lines. -/
abbrev SweepRange := Nat × Nat × Nat × Bool × Bool

/-- The sweeps of the unfenced ones of the first `n` slices have begun. -/
def State.sweepsBegun (s : State) (v : SweepRange) (n : Nat) : State :=
  (upto n).foldl (fun t i => if t.fenced.testBit i then t
    else t.modSlice (sliceFin i) fun x => { x with sweep := some v }) s

section sweeps

variable (s : State) (v : SweepRange) (n : Nat)

theorem sweepsBegun_succ : s.sweepsBegun v (n + 1) =
    if (s.sweepsBegun v n).fenced.testBit n then s.sweepsBegun v n
    else (s.sweepsBegun v n).modSlice (sliceFin n) fun x => { x with sweep := some v } := by
  rw [State.sweepsBegun, upto, List.range_succ, List.foldl_append]
  rfl

theorem sweepsBegun_regs : (s.sweepsBegun v n).regs = s.regs := by
  induction n with
  | zero => rfl
  | succ n ih =>
    rw [sweepsBegun_succ]
    split <;> exact ih

theorem sweepsBegun_fenced : (s.sweepsBegun v n).fenced = s.fenced :=
  State.gf_congr (State.rd_congr (sweepsBegun_regs s v n) _) _

theorem sweepsBegun_keeps {s0 : State} {ps : List Region} (h : Keeps s0 s ps) (m : Region.paths ∈ ps) :
    Keeps s0 (s.sweepsBegun v n) ps :=
  foldl_keeps' (fun u _ hu => ite_keeps hu (State.modSlice_keeps u _ _ hu m)) _ h

/-- Each slice up to `n` that is not fenced has its sweep, and nothing else of any slice changes (R304). -/
theorem sweepsBegun_slice {n : Nat} (hn : n ≤ 16) (sl : Fin 16) : (s.sweepsBegun v n).paths.slices[sl] =
    if sl.val < n ∧ s.fenced.testBit sl = false then { s.paths.slices[sl] with sweep := some v }
    else s.paths.slices[sl] := by
  induction n with
  | zero => simp [State.sweepsBegun]
  | succ n ih =>
    have ih := ih (by omega)
    have hval : (sliceFin n).val = n := Nat.mod_eq_of_lt (by omega)
    rw [sweepsBegun_succ, sweepsBegun_fenced]
    by_cases hsl : sl = sliceFin n
    · have hn' : sl.val = n := by rw [hsl, hval]
      have hfsl : s.fenced.testBit sl = s.fenced.testBit n := by rw [hn']
      have hbefore : (s.sweepsBegun v n).paths.slices[sl] = s.paths.slices[sl] :=
        ih.trans (if_neg fun h => absurd h.1 (by omega))
      cases hf : s.fenced.testBit n
      · rw [if_neg (by simp), ← hsl, State.slices_modSlice_same, hbefore, if_pos ⟨by omega, hfsl.trans hf⟩]
      · rw [if_pos rfl, hbefore, if_neg fun h => by simp [hfsl, hf] at h]
    · have hne : sl.val ≠ n := fun e => hsl (Fin.ext (e.trans hval.symm))
      have hiff : (sl.val < n + 1 ∧ s.fenced.testBit sl = false) = (sl.val < n ∧ s.fenced.testBit sl = false) := by
        rw [Nat.lt_succ_iff_lt_or_eq, or_iff_left hne]
      simp only [hiff]
      split
      · exact ih
      · rw [State.slices_modSlice_other _ hsl]
        exact ih

end sweeps

theorem gives_cleanRange_begins (s : State) (p : Packet) (hruns : s.fwRuns .scheduler = true)
    (hidle : s.sched.clean = none) (hwaits : s.waitingPk (fun x => x.opcode = 6) = some p)
    (hok : s.cleanRefusal (p.addr 16) (natBits (p.nat 24 8) 0 38) = none) :
    Gives .cleanRange s fun t =>
      t.sched.clean.map (fun c => (c.pk, c.addr, c.bytes, c.count)) = some (p.key, p.addr 16, natBits (p.nat 24 8) 0
        38, 0) ∧ (∀ sl : Fin 16, s.fenced.testBit sl = false → t.paths.slices[sl].sweep.map (fun x => (x.1, x.2.1,
        x.2.2.1)) = some (0, p.addr 16, natBits (p.nat 24 8) 0 38)) ∧ (∀ sl : Fin 16, s.fenced.testBit sl = true →
        t.paths.slices[sl] = s.paths.slices[sl]) ∧ (∀ sl : Fin 16, t.paths.slices[sl].ways = s.paths.slices[sl].ways) ∧
        Keeps s t [.paths, .sched] ∧ KeepsRegs s t [] := by
  let drop : Bool := p.nat 12 1 % 4 = 3
  let discard : Bool := drop && (p.nat 12 1).testBit 2
  let c : CleanOp := { pk := p.key, addr := p.addr 16, bytes := natBits (p.nat 24 8) 0 38, drop := drop,
                       discard := discard, count := 0 }
  let u : State := (s.loadPk p.key).modSched fun x => { x with clean := some c }
  have hu : Keeps s u [.paths, .sched] := State.modSched_keeps _ _ (State.loadPk_keeps _ _ (Keeps.refl _ _) (by simp))
    (by simp)
  have hswept : cleanRange s = u.sweepsBegun (0, c.addr, c.bytes, drop, discard) 16 := by
    simp only [cleanRange, hidle, hwaits, hok]
    rfl
  have hclean : (u.sweepsBegun (0, c.addr, c.bytes, drop, discard) 16).sched.clean = some c :=
    congrArg Sched.clean (sweepsBegun_keeps u _ 16 (Keeps.refl u [.paths]) (by simp) .sched (by simp))
  have hslice (sl : Fin 16) := sweepsBegun_slice u (0, c.addr, c.bytes, drop, discard) (le_refl 16) sl
  refine ⟨cleanRange s, congrArg Host.Outcome.next (State.onCore_true hruns), ?_⟩
  rw [hswept]
  refine ⟨by rw [hclean]; rfl, fun sl hf => ?_, fun sl hf => ?_, fun sl => ?_,
    sweepsBegun_keeps u _ 16 hu (by simp), ?_⟩
  · rw [hslice, if_pos ⟨sl.isLt, hf⟩]
    rfl
  · rw [hslice, if_neg fun h => absurd (hf.symm.trans h.2) (by simp)]
    rfl
  · rw [hslice]
    split <;> rfl
  · exact (KeepsRegs.refl s _).of_regs (sweepsBegun_regs u _ 16)

theorem gives_cleanRange_ends (s : State) (c : CleanOp) (hruns : s.fwRuns .scheduler = true)
    (hclean : s.sched.clean = some c) (hswept : ∀ sl : Fin 16, s.paths.slices[sl].sweep = none)
    (hwritten : s.paths.memXbar = []) :
    Gives .cleanRange s fun t =>
      Completes s t c.pk .ok (min c.count (2 ^ 32 - 1)) 0 ∧ t.sched.clean = none ∧ Keeps s t [.sched] ∧ KeepsRegs s t
        [] := by
  have hnone : (s.paths.slices.toList.any fun x => x.sweep.isSome) = false := by
    rw [List.any_eq_false]
    intro x hx
    obtain ⟨i, hi, rfl⟩ := List.getElem_of_mem hx
    have := hswept ⟨i, by simpa using hi⟩
    simp_all
  have hends : cleanRange s =
      (s.modSched fun x => { x with clean := none }).complete' c.pk .ok (min c.count (2 ^ 32 - 1)) 0 := by
    simp [cleanRange, hclean, hnone, hwritten]
  refine ⟨cleanRange s, congrArg Host.Outcome.next (State.onCore_true hruns), ?_⟩
  rw [hends]
  exact ⟨OthersKept.completes' ((OthersKept.refl s c.pk).of_fields rfl rfl) _ _ _, rfl,
    State.complete'_keeps _ _ _ _ _ (State.modSched_keeps _ _ (Keeps.refl _ _) (by simp)) (by simp), fun _ _ => rfl⟩

/-! ### The next set of a sweep (R304) -/

section sweep

variable {s : State} {sl : Fin 16} {st addr bytes : Nat} {drop discard : Bool}

/-- The ways of a set that hold lines of a range. -/
def Slice.rangeKeys (x : Slice) (st addr bytes : Nat) : List Nat :=
  (setKeys st).filter fun k => (x.way k).used && inRange addr bytes (x.way k).base

/-- Every other slice is as it was, and nothing but the ways of the slice itself changes in it. -/
structure WaysOnly (s t : State) (sl : Fin 16) : Prop where
  own : ∃ w, t.paths.slices[sl] = { s.paths.slices[sl] with ways := w }
  others : ∀ x, x ≠ sl → t.paths.slices[x] = s.paths.slices[x]
  packets : t.sched.packets = s.sched.packets
  regs : t.regs = s.regs

theorem WaysOnly.refl (s : State) (sl : Fin 16) : WaysOnly s s sl := ⟨⟨_, rfl⟩, fun _ _ => rfl, rfl, rfl⟩

theorem WaysOnly.of_fields {t u : State} (h : WaysOnly s t sl) (hs : u.paths.slices = t.paths.slices)
    (hp : u.sched.packets = t.sched.packets) (hr : u.regs = t.regs) : WaysOnly s u sl := by
  obtain ⟨hown, hothers, hpackets, hregs⟩ := h
  refine ⟨?_, ?_, hp.trans hpackets, hr.trans hregs⟩
  · rw [hs]; exact hown
  · rw [hs]; exact hothers

theorem WaysOnly.setWay {t : State} (h : WaysOnly s t sl) (k : Nat) (f : Slice → Line) :
    WaysOnly s (t.modSlice sl fun y => y.setWay k (f y)) sl := by
  obtain ⟨⟨w, hown⟩, hothers, hpackets, hregs⟩ := h
  refine ⟨?_, fun x hx => (State.slices_modSlice_other t hx _).trans (hothers x hx), hpackets, hregs⟩
  exact ⟨_, (State.slices_modSlice_same t sl _).trans (by rw [hown]; rfl)⟩

theorem WaysOnly.ite {t u : State} {c : Prop} [Decidable c] (ht : WaysOnly s t sl) (hu : WaysOnly s u sl) :
    WaysOnly s (if c then t else u) sl := by
  split <;> assumption

theorem WaysOnly.sendSector {t : State} (h : WaysOnly s t sl) (base i cls : Nat) (data : List Byte) (mask : List Bool)
    (poison : Bool) (o : Owner) : WaysOnly s (t.sendSector base i cls data mask poison o) sl := h.of_fields rfl rfl rfl

theorem WaysOnly.writeBackLine {t : State} (h : WaysOnly s t sl) (l : Line) (o : Owner) :
    WaysOnly s (t.writeBackLine l o) sl :=
  foldl_keeps (P := fun u => WaysOnly s u sl) (fun _ _ hu => (hu.sendSector _ _ _ _ _ _ _).ite hu) _ h

theorem WaysOnly.cleanWay {t : State} (h : WaysOnly s t sl) (k : Nat) (drop discard : Bool) :
    WaysOnly s (t.cleanWay sl k drop discard) sl := by
  have hdrop : WaysOnly s (t.dropWay sl k discard) sl :=
    (h.setWay k _).ite ((h.ite (h.writeBackLine _ _)).setWay k fun _ => Line.init)
  exact hdrop.ite ((h.writeBackLine _ _).setWay k _)

theorem WaysOnly.sweepWays {t : State} (h : WaysOnly s t sl) (keys : List Nat) (drop discard : Bool) :
    WaysOnly s (t.sweepWays sl keys drop discard) sl :=
  (foldl_keeps (P := fun u => WaysOnly s u sl) (fun _ k hu => hu.cleanWay k drop discard) keys h).of_fields rfl rfl rfl

/-- The set of a sweep is swept when no request waits for one of its lines and the write-back buffer has room (R304). -/
theorem cleanSweepSet_eq (hsweep : s.paths.slices[sl].sweep = some (st, addr, bytes, drop, discard))
    (hinput : ∀ r ∈ s.paths.slices[sl].input, ¬ (setOfLine (lineNo r.addr) = st ∧ inRange addr bytes
      (r.addr / 128 * 128) = true)) (hmiss : s.paths.slices[sl].misses = [])
    (hroom : s.wbUsed sl + ((s.paths.slices[sl].rangeKeys st addr bytes).filter fun k =>
      (s.paths.slices[sl].way k).isDirty).length ≤ 64) :
    cleanSweepSet sl s = (s.sweepWays sl (s.paths.slices[sl].rangeKeys st addr bytes) drop discard).modSlice sl fun y =>
      { y with sweep := if st + 1 < 3072 then some (st + 1, addr, bytes, drop, discard) else none } := by
  have hidle : (s.paths.slices[sl].input.any fun r =>
      decide (setOfLine (lineNo r.addr) = st ∧ inRange addr bytes (r.addr / 128 * 128) = true)) = false := by
    rw [List.any_eq_false]
    exact fun r hr => by simpa using hinput r hr
  have hfull : ¬64 < s.wbUsed sl + ((s.paths.slices[sl].rangeKeys st addr bytes).filter fun k =>
      (s.paths.slices[sl].way k).isDirty).length := by omega
  simp only [cleanSweepSet, hsweep]
  simp only [hidle, hmiss, List.any_nil, Bool.or_false, Bool.false_eq_true, false_or]
  exact if_neg fun h => hfull h.2

theorem gives_cleanSweepSet (s : State) (sl : Fin 16) (st addr bytes : Nat) (drop discard : Bool)
    (hans : s.answers sl = true) (hsweep : s.paths.slices[sl].sweep = some (st, addr, bytes, drop, discard))
    (hinput : ∀ r ∈ s.paths.slices[sl].input, ¬ (setOfLine (lineNo r.addr) = st ∧ inRange addr bytes
      (r.addr / 128 * 128) = true)) (hmiss : s.paths.slices[sl].misses = []) (hroom : s.wbUsed sl + 16 ≤ 64) :
    Gives (.cleanSweepSet sl) s fun t =>
      t.paths.slices[sl].sweep = (if st + 1 < 3072 then some (st + 1, addr, bytes, drop, discard) else none) ∧
        t.paths.slices[sl].input = s.paths.slices[sl].input ∧ (∀ x, x ≠ sl → t.paths.slices[x] = s.paths.slices[x]) ∧
        t.sched.packets = s.sched.packets ∧ Keeps s t [.paths, .sched] ∧ KeepsRegs s t [] := by
  have hdirty : ((s.paths.slices[sl].rangeKeys st addr bytes).filter fun k =>
      (s.paths.slices[sl].way k).isDirty).length ≤ 16 :=
    calc _ ≤ (s.paths.slices[sl].rangeKeys st addr bytes).length := List.length_filter_le _ _
      _ ≤ (setKeys st).length := List.length_filter_le _ _
      _ = 16 := by simp [setKeys]
  obtain ⟨⟨w, hown⟩, hothers, hpackets, hregs⟩ :=
    (WaysOnly.refl s sl).sweepWays (s.paths.slices[sl].rangeKeys st addr bytes) drop discard
  refine ⟨cleanSweepSet sl s, congrArg Host.Outcome.next (if_pos hans), ?_⟩
  rw [cleanSweepSet_eq hsweep hinput hmiss (by omega)]
  have hkept := congrArg Slice.input hown
  refine ⟨congrArg Slice.sweep (State.slices_modSlice_same _ sl _), ?_, fun x hx => ?_, hpackets, ?_, ?_⟩
  · exact (congrArg Slice.input (State.slices_modSlice_same _ sl _)).trans hkept
  · exact (State.slices_modSlice_other _ hx _).trans (hothers x hx)
  · exact State.modSlice_keeps _ _ _ (State.sweepWays_keeps _ _ _ _ _ (Keeps.refl _ _) (by simp) (by simp)) (by simp)
  · exact (KeepsRegs.refl s _).of_regs hregs

/-- A write-back sends each dirty sector of its line, and leaves the slices alone (R183). -/
theorem length_writeBackLine (s : State) (l : Line) (o : Owner) :
    (s.writeBackLine l o).paths.memXbar.length = s.paths.memXbar.length + l.dirtySectors.length := by
  have hwalk (is : List Nat) (u : State) : (is.foldl (fun t i => if (l.sector i).valid ∧ (l.sector i).dirty then
      t.sendSector l.base i 2 (l.sector i).data (List.replicate 64 true) (l.sector i).poison o else t)
      u).paths.memXbar.length = u.paths.memXbar.length +
        (is.filter fun i => (l.sector i).valid && (l.sector i).dirty).length := by
    induction is generalizing u with
    | nil => rfl
    | cons i is ih =>
      rw [List.foldl_cons, ih, List.filter_cons]
      by_cases hd : (l.sector i).valid ∧ (l.sector i).dirty
      · have ht : ((l.sector i).valid && (l.sector i).dirty) = true := by simpa using hd
        rw [if_pos hd, if_pos ht]
        simp only [State.sendSector, State.sendAccess, List.length_append, List.length_cons, List.length_nil]
        omega
      · have hf : ((l.sector i).valid && (l.sector i).dirty) = false := by simpa using hd
        simp [hd, hf]
  exact hwalk _ s

theorem Line.cleaned_facts (l : Line) : l.cleaned.isDirty = false ∧ l.cleaned.bytes = l.bytes := by
  simp [Line.cleaned, Line.isDirty, Line.bytes]

/-- A dirty line that a sweep only cleans: written back, kept, and counted (R185, R304). -/
theorem sweepWays_clean (s : State) (sl : Fin 16) (k : Nat) (hd : (s.paths.slices[sl].way k).isDirty = true) :
    ((s.sweepWays sl [k] false false).paths.slices[sl].way k) = (s.paths.slices[sl].way k).cleaned ∧
      (s.sweepWays sl [k] false false).paths.memXbar.length =
        s.paths.memXbar.length + (s.paths.slices[sl].way k).dirtySectors.length ∧
      (s.sweepWays sl [k] false false).sched.clean.map (·.count) = s.sched.clean.map fun c => c.count + 1 := by
  have hcount : ([k].filter fun j => (false && (s.paths.slices[sl].red (s.paths.slices[sl].way j).line).isNone) ||
      ((s.paths.slices[sl].way j).isDirty && !(false && false))).length = 1 := by
    simp only [List.filter_cons, List.filter_nil, hd, Bool.false_and, Bool.false_or, Bool.not_false, Bool.and_true,
      if_true]
    rfl
  refine ⟨?_, ?_, ?_⟩
  · have hclean : (s.cleanWay sl k false false).paths.slices[sl].way k = (s.paths.slices[sl].way k).cleaned := by
      simp only [State.cleanWay, Bool.false_eq_true, false_and, if_false, State.slices_modSlice_same,
        Slice.way_setWay_same]
    exact hclean
  · exact length_writeBackLine _ _ _
  · have hsched : (s.cleanWay sl k false false).sched = s.sched :=
      State.cleanWay_keeps s sl k false false (Keeps.refl s [.paths]) (by simp) .sched (by simp)
    simp only [State.sweepWays, hcount, List.foldl_cons, List.foldl_nil, hsched, Option.map_map]
    rfl

theorem gives_cleanSweepSet_dirty (s : State) (sl : Fin 16) (k st addr bytes : Nat) (hans : s.answers sl = true)
    (hsweep : s.paths.slices[sl].sweep = some (st, addr, bytes, false, false)) (hinput : s.paths.slices[sl].input = [])
    (hmiss : s.paths.slices[sl].misses = [])
    (hkeys : (setKeys st).filter (fun j => (s.paths.slices[sl].way j).used && inRange addr bytes
      (s.paths.slices[sl].way j).base) = [k])
    (hdirty : (s.paths.slices[sl].way k).isDirty = true) (hroom : s.wbUsed sl < 64) :
    Gives (.cleanSweepSet sl) s fun t =>
      (t.paths.slices[sl].way k).isDirty = false ∧ lineOf t sl k = lineOf s sl k ∧ t.paths.memXbar.length =
        s.paths.memXbar.length + (s.paths.slices[sl].way k).dirtySectors.length ∧ t.sched.clean.map (·.count) =
        s.sched.clean.map (fun c => c.count + 1) ∧ t.paths.slices[sl].sweep.map (·.1) = (if st + 1 < 3072 then some (st
        + 1) else none) ∧ (∀ x, x ≠ sl → t.paths.slices[x] = s.paths.slices[x]) ∧ Keeps s t [.paths, .sched] ∧
        KeepsRegs s t [] := by
  have hrange : s.paths.slices[sl].rangeKeys st addr bytes = [k] := hkeys
  obtain ⟨hway, hlength, hcount⟩ := sweepWays_clean s sl k hdirty
  obtain ⟨hnotDirty, hbytes⟩ := (s.paths.slices[sl].way k).cleaned_facts
  have hswept := cleanSweepSet_eq hsweep (by rw [hinput]; simp) hmiss (by
    rw [hrange, List.filter_cons, if_pos hdirty, List.filter_nil, List.length_singleton]
    omega)
  rw [hrange] at hswept
  obtain ⟨-, hothers, -, hregs⟩ := (WaysOnly.refl s sl).sweepWays [k] false false
  have hslice := State.slices_modSlice_same (s.sweepWays sl [k] false false) sl fun y =>
    { y with sweep := if st + 1 < 3072 then some (st + 1, addr, bytes, false, false) else none }
  have hafter := (congrArg (fun x : Slice => x.way k) hslice).trans hway
  refine ⟨cleanSweepSet sl s, congrArg Host.Outcome.next (if_pos hans), ?_⟩
  rw [hswept]
  refine ⟨(congrArg Line.isDirty hafter).trans hnotDirty, (congrArg Line.bytes hafter).trans hbytes, hlength, hcount,
    ?_, fun x hx => ?_, ?_, ?_⟩
  · refine (congrArg (fun x : Slice => x.sweep.map (·.1)) hslice).trans ?_
    dsimp only
    split <;> rfl
  · exact (State.slices_modSlice_other _ hx _).trans (hothers x hx)
  · exact State.modSlice_keeps _ _ _ (State.sweepWays_keeps _ _ _ _ _ (Keeps.refl _ _) (by simp) (by simp)) (by simp)
  · exact (KeepsRegs.refl s _).of_regs hregs

end sweep

end Sys2Proof.Machine
end

section
/-! SUPPORT. The steps of a collective, and CANCEL (O34). -/

namespace Sys2Proof.Machine

/-! ### A request to a line in the own range (R28, R51) -/

/-- A request that nothing keeps from its slice goes onto the crossbar once its draw has been made (R28, R519). -/
theorem ingress_ownAt {s : State} {r : Req} (h : OwnAt s r.addr) :
    s.ingress r = ((s.drawFor r).stamp r.id 1 (s.now r.src.island)).modPaths fun x =>
      { x with reqXbar := x.reqXbar ++ [r] } := by
  obtain ⟨hroute, hshut, hfailed, hfence⟩ := h
  have hregs : KeepsRegs s (s.drawFor r) tagRegs := (KeepsRegs.refl s _).drawFor (List.Subset.refl _) r
  have hrd (o : Nat) (ho : o < 0x1a0000) : (s.drawFor r).rd o = s.rd o := rd_of_keepsTagRegs hregs ho
  have hroute' (i k z : Nat) : ((s.drawFor r).stamp i k z).route r.addr = .own (natBits r.addr 0 37) :=
    (route_of_keepsTagRegs hregs r.addr).trans hroute
  have hshut' (i k z : Nat) : ((s.drawFor r).stamp i k z).shutdown = false :=
    (State.bit_congr (hrd _ (by decide)) _).trans hshut
  have hpwr : (s.drawFor r).pwr = s.pwr := State.drawFor_keeps s r (Keeps.refl s [.tags]) (by simp) .pwr (by simp)
  have hfence' (i k z : Nat) : (((s.drawFor r).stamp i k z).gf Reg.CACHE_FENCE Fld.CACHE_FENCE_PENDING).testBit
      (((s.drawFor r).stamp i k z).sliceOf r.addr) = false := by
    have hreg : (s.drawFor r).rd Reg.CACHE_FENCE = s.rd Reg.CACHE_FENCE := hrd _ (by decide)
    have hslice : ((s.drawFor r).stamp i k z).sliceOf r.addr = s.sliceOf r.addr :=
      congrArg (fun f => sliceFin (lineSlice f r.addr)) (State.gf_congr hreg _)
    rw [hslice]
    exact (congrArg (fun v => v.testBit (s.sliceOf r.addr)) (State.gf_congr hreg _)).trans hfence
  simp [State.ingress, hroute', hshut', hfence', hpwr, hfailed]

/-! ### COLLECTIVE (R305, R306) -/

section collective

variable {s : State} {c : Coll}

theorem exec_collective (hruns : s.fwRuns .scheduler = true) : exec .collective s = .next (collective s) :=
  congrArg Host.Outcome.next (State.onCore_true hruns)

theorem gives_collective_takenUp (s : State) (p : Packet) (hruns : s.fwRuns .scheduler = true)
    (hwaits : s.waitingPk (fun x => x.opcode = 7) = some p) (hok : s.collRefusal p = none) :
    Gives .collective s fun t =>
      t.sched.colls = s.sched.colls ++ [p.coll] ∧ t.sched.packets = s.sched.packets.map (fun x => if x.key = p.key then
        { x with loaded := true } else x) ∧ t.inbox.notices = s.inbox.notices ∧ Keeps s t [.inbox, .sched] ∧ KeepsRegs
        s t [] := by
  refine ⟨collective s, exec_collective hruns, ?_⟩
  simp only [collective, hwaits, hok]
  exact ⟨rfl, rfl, rfl, State.modInbox_keeps _ _ (State.modSched_keeps _ _ (State.loadPk_keeps _ _ (Keeps.refl _ _)
    (by simp)) (by simp)) (by simp), fun _ _ => rfl⟩

/-- With no packet to be taken up the first collective that can go on does. -/
theorem collective_step {rest : List Coll} {t : State} (hnone : s.waitingPk (fun x => x.opcode = 7) = none)
    (hcolls : s.sched.colls = c :: rest) (hstep : s.collStep c = some t) : collective s = t := by
  simp only [collective, hnone, hcolls, List.findSome?_cons, hstep, Option.getD_some]

theorem gives_collective_replies (s : State) (c : Coll) (rest : List Coll) (hruns : s.fwRuns .scheduler = true)
    (hnone : s.waitingPk (fun x => x.opcode = 7) = none) (hcolls : s.sched.colls = c :: rest)
    (hphase : c.phase = .notifying) (hnotified : c.toNotify = []) (hacked : c.awaiting = [])
    (hover : c.overcount = none) (hfailed : c.failed = none) :
    Gives .collective s fun t =>
      Completes s t c.pk .ok c.lines c.deckle ∧ t.sched.colls = rest.filter (fun x => x.pk ≠ c.pk) ∧ Keeps s t [.sched]
        ∧ KeepsRegs s t [] := by
  have hstep : s.collStep c = some (s.collEnd c.pk .ok c.lines c.deckle) := by
    simp [State.collStep, State.collReply, hphase, hnotified, hacked, hover, hfailed]
  refine ⟨collective s, exec_collective hruns, ?_⟩
  rw [collective_step hnone hcolls hstep]
  refine ⟨(OthersKept.refl s c.pk).collEnd _ _ _, ?_, State.collEnd_keeps _ _ _ _ _ (Keeps.refl _ _) (by simp),
    fun _ _ => rfl⟩
  show s.sched.colls.filter (fun x => x.pk ≠ c.pk) = _
  rw [hcolls, List.filter_cons_of_neg (by simp)]

theorem gives_collective_arms (s : State) (c : Coll) (rest : List Coll) (hruns : s.fwRuns .scheduler = true)
    (hnone : s.waitingPk (fun x => x.opcode = 7) = none) (hcolls : s.sched.colls = c :: rest)
    (hphase : c.phase = .arming) (hlost : s.collLost c = none) (harm : c.arm = none) (hleft : c.armed < c.lines)
    (hown : OwnAt s (c.addr + 128 * c.armed)) :
    Gives .collective s fun t =>
      t.paths.reqXbar = s.paths.reqXbar ++ [redReq s.freshId 0 (c.addr + 128 * c.armed) (8 + c.format * 16 + c.func *
        256) (leBytes 4 c.expected ++ zeros 12)] ∧ t.sched.colls.head? = some { c with arm := some s.freshId } ∧
        t.sched.packets = s.sched.packets ∧ Keeps s t [.paths, .sched, .tags] ∧ KeepsRegs s t tagRegs := by
  let r : Req := redReq s.freshId 0 (c.addr + 128 * c.armed) (8 + c.format * 16 + c.func * 256)
    (leBytes 4 c.expected ++ zeros 12)
  let u : State := (s.putColl { c with arm := some s.freshId }).skipIds 1
  have hu : Keeps s u [.paths, .sched, .tags] := State.skipIds_keeps _ _ (State.putColl_keeps _ _ (Keeps.refl _ _)
    (by simp)) (by simp)
  have hstep : s.collStep c = some (u.ingress r) := by
    simp [State.collStep, State.collArm, hphase, hlost, harm, hleft, u, r]
  have hgone : u.ingress r = ((u.drawFor r).stamp r.id 1 (u.now r.src.island)).modPaths fun x =>
      { x with reqXbar := x.reqXbar ++ [r] } := ingress_ownAt (s := u) (r := r) hown
  have hdraw := State.drawFor_keeps u r (Keeps.refl u [.tags]) (by simp)
  have hsched : (u.drawFor r).sched = u.sched := hdraw .sched (by simp)
  refine ⟨collective s, exec_collective hruns, ?_⟩
  rw [collective_step hnone hcolls hstep, hgone]
  refine ⟨?_, ?_, (congrArg Sched.packets hsched).trans rfl, ?_, ?_⟩
  · show (u.drawFor r).paths.reqXbar ++ [r] = _
    rw [State.paths_drawFor]
    rfl
  · refine (congrArg (fun x : Sched => x.colls.head?) hsched).trans ?_
    show (s.sched.colls.map _).head? = _
    rw [hcolls, List.map_cons, List.head?_cons, if_pos rfl]
  · exact State.modPaths_keeps _ _ (State.stamp_keeps _ _ _ _ (State.drawFor_keeps u r hu (by simp)) (by simp))
      (by simp)
  · exact (((KeepsRegs.refl s tagRegs).of_regs (u := u) rfl).drawFor (List.Subset.refl _) r).of_regs rfl

/-! ### COMPLETION_NOTICE (R204, R305) -/

/-- A notice of an address is for a collective that has not seen its line complete (R305). -/
def Coll.hears (a : Nat) (c : Coll) : Bool :=
  decide (c.phase ≠ .notifying ∧ c.addr ≤ a ∧ (a - c.addr) / 128 < c.lines ∧ (a - c.addr) / 128 ∉ c.complete)

/-- A collective with one more line complete, its bound grown (R281, R305). -/
def Coll.heard (c : Coll) (a deckle : Nat) : Coll :=
  { c with complete := (a - c.addr) / 128 :: c.complete, deckle := deckle }

/-- The oldest notice has been taken up. -/
def State.noticeTaken (s : State) (rest : List Nat) : State := s.modInbox fun b => { b with notices := rest }

/-- A notice that a collective hears adds its line, and the last line of a waiting one completes it (R305). -/
theorem completionNotice_heard {a : Nat} {rest : List Nat} (hnotices : s.inbox.notices = a :: rest)
    (hfind : s.sched.colls.find? (Coll.hears a) = some c) :
    ∃ d, completionNotice s = if c.phase = .waiting ∧ c.complete.length + 1 = c.lines
      then ((s.noticeTaken rest).putColl (c.heard a d)).collComplete (c.heard a d)
      else (s.noticeTaken rest).putColl (c.heard a d) := by
  have hfind' : (s.noticeTaken rest).sched.colls.find? (fun c => decide (c.phase ≠ .notifying ∧ c.addr ≤ a ∧
      (a - c.addr) / 128 < c.lines ∧ (a - c.addr) / 128 ∉ c.complete)) = some c := hfind
  simp only [State.noticeTaken] at hfind'
  refine ⟨deckleWord (worse (ofB32 c.deckle) (redBound c (s.paths.slices[s.sliceOf a].red (lineNo a)))), ?_⟩
  simp only [completionNotice, hnotices, hfind']
  rfl

theorem exec_completionNotice (hruns : s.fwRuns .scheduler = true) :
    exec .completionNotice s = .next (completionNotice s) := congrArg Host.Outcome.next (State.onCore_true hruns)

theorem noticeTaken_putColl_keeps (s : State) (rest : List Nat) (c : Coll) :
    Keeps s ((s.noticeTaken rest).putColl c) [.inbox, .sched] :=
  State.putColl_keeps _ _ (State.modInbox_keeps _ _ (Keeps.refl _ _) (by simp)) (by simp)

theorem gives_completionNotice_last (s : State) (c : Coll) (a : Nat) (rest : List Nat)
    (hruns : s.fwRuns .scheduler = true) (hnotices : s.inbox.notices = a :: rest) (hcolls : s.sched.colls = [c])
    (hphase : c.phase = .waiting) (haddr : c.addr ≤ a) (hline : (a - c.addr) / 128 < c.lines)
    (hnew : (a - c.addr) / 128 ∉ c.complete) (hlast : c.complete.length + 1 = c.lines) (hrelease : c.release = false) :
    Gives .completionNotice s fun t =>
      t.inbox.notices = rest ∧ t.sched.colls.map (fun x => (x.pk, x.phase, x.complete, x.toNotify)) = [(c.pk,
        .notifying, (a - c.addr) / 128 :: c.complete, (upto c.notifyCount).map fun j => c.notifyFirst + j)] ∧
        t.sched.packets = s.sched.packets ∧ Keeps s t [.inbox, .sched] ∧ KeepsRegs s t [] := by
  have hfind : s.sched.colls.find? (Coll.hears a) = some c := by
    rw [hcolls]
    exact List.find?_cons_of_pos (by simp [Coll.hears, hphase, haddr, hline, hnew])
  obtain ⟨d, hd⟩ := completionNotice_heard hnotices hfind
  have hcomplete (u : State) : u.collComplete (c.heard a d) = u.putColl { c.heard a d with
      phase := .notifying, toNotify := (upto c.notifyCount).map fun k => c.notifyFirst + k } := by
    simp [State.collComplete, Coll.heard, hrelease]
  refine ⟨completionNotice s, exec_completionNotice hruns, ?_⟩
  rw [hd, if_pos ⟨hphase, hlast⟩, hcomplete]
  refine ⟨rfl, ?_, rfl, State.putColl_keeps _ _ (noticeTaken_putColl_keeps s rest _) (by simp), fun _ _ => rfl⟩
  simp [State.putColl, State.modSched, State.noticeTaken, State.modInbox, hcolls, Coll.heard]

theorem gives_completionNotice (s : State) (c : Coll) (a : Nat) (rest : List Nat) (hruns : s.fwRuns .scheduler = true)
    (hnotices : s.inbox.notices = a :: rest)
    (hfind : s.sched.colls.find? (fun c => c.phase ≠ .notifying ∧ c.addr ≤ a ∧ (a - c.addr) / 128 < c.lines ∧
      (a - c.addr) / 128 ∉ c.complete) = some c) (hmore : c.phase = .waiting → c.complete.length + 1 < c.lines) :
    Gives .completionNotice s fun t =>
      t.inbox.notices = rest ∧ (∀ x ∈ t.sched.colls, x.pk = c.pk → x.complete = (a - c.addr) / 128 :: c.complete ∧
        x.phase = c.phase) ∧ t.sched.packets = s.sched.packets ∧ Keeps s t [.inbox, .sched] ∧ KeepsRegs s t [] := by
  obtain ⟨d, hd⟩ := completionNotice_heard hnotices hfind
  refine ⟨completionNotice s, exec_completionNotice hruns, ?_⟩
  rw [hd, if_neg fun h => absurd (hmore h.1) (by omega)]
  refine ⟨rfl, fun x hx hpk => ?_, rfl, noticeTaken_putColl_keeps s rest _, fun _ _ => rfl⟩
  obtain ⟨y, -, rfl⟩ := List.mem_map.mp hx
  split at hpk
  · next hy => rw [if_pos hy]; exact ⟨rfl, rfl⟩
  · next hy => exact absurd hpk hy

/-! ### COLLECTIVE_TIMEOUT (R306) -/

theorem collectiveTimeout_eq (hruns : s.fwRuns .scheduler = true)
    (hfind : s.sched.colls.find? (fun c => c.phase = .waiting ∧ c.timeoutUs ≠ 0 ∧
      c.armedAt + c.timeoutUs * 1000 ≤ s.now .firmware) = some c) :
    exec .collectiveTimeout s = .next (s.collStop c .timedOut c.complete.length) := by
  refine congrArg Host.Outcome.next ((State.onCore_true hruns).trans ?_)
  simp only [collectiveTimeout, hfind]

theorem gives_collectiveTimeout_inexact (s : State) (c : Coll) (hruns : s.fwRuns .scheduler = true)
    (hcolls : s.sched.colls = [c]) (hphase : c.phase = .waiting) (htimeout : c.timeoutUs ≠ 0)
    (hshape : ((AtomFormat.ofCode c.format).bind AtomFormat.shape).isSome = true)
    (harmed : 0 < c.armed ∨ c.arm.isSome = true) (hdue : c.armedAt + c.timeoutUs * 1000 ≤ s.now .firmware) :
    Gives .collectiveTimeout s fun t =>
      Completes s t c.pk .timedOut c.complete.length ((Config.openValue s.free).toNat % 2 ^ 32) ∧ t.sched.colls = [] ∧
        t.free = s.free + 1 ∧ Keeps s t [.free, .sched] ∧ KeepsRegs s t [] := by
  have hstop : s.collStop c .timedOut c.complete.length =
      s.tick.collEnd c.pk .timedOut c.complete.length ((Config.openValue s.free).toNat % 2 ^ 32) := by
    have hexact : ((AtomFormat.ofCode c.format).bind AtomFormat.shape).isNone = false := by
      rw [← Option.not_isSome, hshape]; rfl
    have hsome : ¬(c.armed = 0 ∧ c.arm.isNone = true) := by
      rintro ⟨h0, hnone⟩
      rcases harmed with h | h
      · omega
      · simp_all
    simp only [State.collStop, hphase, hexact]
    rw [if_neg (by simp), if_neg fun h => h.elim (by simp) hsome]
  refine ⟨_, collectiveTimeout_eq hruns (c := c) ?_, ?_⟩
  · rw [hcolls]
    exact List.find?_cons_of_pos (by simp [hphase, htimeout, hdue])
  · rw [hstop]
    refine ⟨((OthersKept.refl s c.pk).of_fields rfl rfl).collEnd _ _ _, ?_, rfl,
      State.collEnd_keeps _ _ _ _ _ (State.tick_keeps _ (Keeps.refl _ _) (by simp)) (by simp), fun _ _ => rfl⟩
    show s.sched.colls.filter (fun x => x.pk ≠ c.pk) = []
    simp [hcolls]

theorem gives_collectiveTimeout_exact (s : State) (c : Coll) (hruns : s.fwRuns .scheduler = true)
    (hfind : s.sched.colls.find? (fun c => c.phase = .waiting ∧ c.timeoutUs ≠ 0 ∧ c.armedAt + c.timeoutUs * 1000 ≤
      s.now .firmware) = some c)
    (hexact : ((AtomFormat.ofCode c.format).bind AtomFormat.shape).isNone = true) :
    Gives .collectiveTimeout s fun t =>
      Completes s t c.pk .timedOut c.complete.length 0 ∧ t.sched.colls = s.sched.colls.filter (fun x => x.pk ≠ c.pk) ∧
        Keeps s t [.sched] ∧ KeepsRegs s t [] := by
  have hphase : c.phase = .waiting := by
    have h := List.find?_some hfind
    exact (of_decide_eq_true h).1
  have hstop : s.collStop c .timedOut c.complete.length = s.collEnd c.pk .timedOut c.complete.length 0 := by
    simp [State.collStop, hphase, hexact]
  refine ⟨_, collectiveTimeout_eq hruns hfind, ?_⟩
  rw [hstop]
  exact ⟨(OthersKept.refl s c.pk).collEnd _ _ _, rfl, State.collEnd_keeps _ _ _ _ _ (Keeps.refl _ _) (by simp),
    fun _ _ => rfl⟩

end collective

/-! ### CANCEL (R307) -/

section cancel

variable {s : State} {p x : Packet}

/-- Every packet of a key has a property. -/
def PacketsOf (s : State) (k : Pk) (q : Packet → Prop) : Prop := ∀ y ∈ s.sched.packets, y.key = k → q y

theorem PacketsOf.modPk_other {k k' : Pk} {q : Packet → Prop} (h : PacketsOf s k q) (hk : k ≠ k')
    {f : Packet → Packet} (hf : ∀ y, (f y).key = y.key) : PacketsOf (s.modPk k' f) k q := by
  intro y hy hky
  obtain ⟨z, hz, rfl⟩ := List.mem_map.mp hy
  split at hky
  · next hz' => exact absurd (hky.symm.trans ((hf z).trans hz')) hk
  · next hz' => rw [if_neg hz']; exact h z hz hky

theorem PacketsOf.modPk_same {k : Pk} {q q' : Packet → Prop} (h : PacketsOf s k q) {f : Packet → Packet}
    (hf : ∀ y, q y → q' (f y)) : PacketsOf (s.modPk k f) k q' := by
  intro y hy hky
  obtain ⟨z, hz, rfl⟩ := List.mem_map.mp hy
  split at hky
  · next hz' => rw [if_pos hz']; exact hf z (h z hz hz')
  · next hz' => exact absurd hky hz'

theorem packetsOf_trivial (s : State) (k : Pk) : PacketsOf s k fun _ => True := fun _ _ _ => trivial

theorem keys_modPk (s : State) (k : Pk) {f : Packet → Packet} (hf : ∀ y, (f y).key = y.key) :
    (s.modPk k f).sched.packets.map Packet.key = s.sched.packets.map Packet.key := map_key_modified hf

/-- The packet that a CANCEL names is another one than the CANCEL (R307). -/
theorem cancelTarget_key_ne (h : s.cancelTarget p = some x) : x.key ≠ p.key := by
  let l := s.sched.packets.filter fun x => x.queue.val = p.nat 12 1 % 64 ∧ x.tag = p.nat 16 4 ∧ x.key ≠ p.key ∧
    x.stage ≠ .fetched ∧ !x.cancelled
  let older : Option Packet → Packet → Option Packet := fun b x => match b with
    | some y => if x.taken < y.taken then some x else some y
    | none => some x
  have hmem : ∀ y, l.foldl older none = some y → y ∈ l :=
    List.foldlRecOn (motive := fun b => ∀ y, b = some y → y ∈ l) l older (fun _ hb => by cases hb)
      fun b hb a ha y hy => by
        cases b with
        | none =>
          obtain rfl : a = y := Option.some.inj hy
          exact ha
        | some z =>
          by_cases hlt : a.taken < z.taken
          · obtain rfl : a = y := Option.some.inj ((if_pos hlt).symm.trans hy)
            exact ha
          · obtain rfl : z = y := Option.some.inj ((if_neg hlt).symm.trans hy)
            exact hb z rfl
  exact (of_decide_eq_true (List.mem_filter.mp (hmem x h)).2).2.2.1

theorem exec_cancel (hruns : s.fwRuns .scheduler = true) : exec .cancel s = .next (cancelPacket s) :=
  congrArg Host.Outcome.next (State.onCore_true hruns)

variable (hruns : s.fwRuns .scheduler = true)
  (hfind : s.sched.packets.find? (fun y => y.opcode = 8 ∧ y.stage = .taken) = some p) (hlive : p.cancelled = false)

include hfind hlive

theorem cancelPacket_none (htarget : s.cancelTarget p = none) : cancelPacket s = s.finish p.key .ok 0 0 := by
  simp only [cancelPacket, hfind, hlive, htarget, Bool.false_eq_true, if_false]

theorem cancelPacket_done (htarget : s.cancelTarget p = some x) (hdone : x.isDone = true) :
    cancelPacket s = s.finish p.key .ok 0 0 := by
  simp only [cancelPacket, hfind, hlive, htarget, hdone, Bool.false_eq_true, if_false, if_true]

theorem cancelPacket_taken (htarget : s.cancelTarget p = some x) (hstage : x.stage = .taken) :
    cancelPacket s = (s.modPk x.key fun y => { y with cancelled := true }).finish p.key .ok 1 0 := by
  have hdone : x.isDone = false := by simp only [Packet.isDone, hstage]
  simp only [cancelPacket, hfind, hlive, htarget, hdone, hstage, Bool.false_eq_true, if_false, reduceCtorEq]

theorem cancelPacket_running (htarget : s.cancelTarget p = some x) (hstage : x.stage = .running) :
    cancelPacket s = (s.endRunning x .cancelled).finish p.key .ok 1 0 := by
  have hdone : x.isDone = false := by simp only [Packet.isDone, hstage]
  simp only [cancelPacket, hfind, hlive, htarget, hdone, hstage, Bool.false_eq_true, if_false, if_true]

end cancel

theorem gives_cancel_none (s : State) (p : Packet) (hruns : s.fwRuns .scheduler = true)
    (hfind : s.sched.packets.find? (fun x => x.opcode = 8 ∧ x.stage = .taken) = some p) (hlive : p.cancelled = false)
    (htarget : s.cancelTarget p = none) :
    Gives .cancel s fun t => Completes s t p.key .ok 0 0 ∧ Keeps s t [.sched] ∧ KeepsRegs s t [] := by
  refine ⟨_, exec_cancel hruns, ?_⟩
  rw [cancelPacket_none hfind hlive htarget]
  exact ⟨completes_finish s _ _ _ _, State.finish_keeps _ _ _ _ _ (Keeps.refl _ _) (by simp), fun _ _ => rfl⟩

theorem gives_cancel_done (s : State) (p x : Packet) (hruns : s.fwRuns .scheduler = true)
    (hfind : s.sched.packets.find? (fun y => y.opcode = 8 ∧ y.stage = .taken) = some p) (hlive : p.cancelled = false)
    (htarget : s.cancelTarget p = some x) (hdone : x.isDone = true) :
    Gives .cancel s fun t => Completes s t p.key .ok 0 0 ∧ Keeps s t [.sched] ∧ KeepsRegs s t [] := by
  refine ⟨_, exec_cancel hruns, ?_⟩
  rw [cancelPacket_done hfind hlive htarget hdone]
  exact ⟨completes_finish s _ _ _ _, State.finish_keeps _ _ _ _ _ (Keeps.refl _ _) (by simp), fun _ _ => rfl⟩

theorem gives_cancel_taken (s : State) (p x : Packet) (hruns : s.fwRuns .scheduler = true)
    (hfind : s.sched.packets.find? (fun y => y.opcode = 8 ∧ y.stage = .taken) = some p) (hlive : p.cancelled = false)
    (htarget : s.cancelTarget p = some x) (hstage : x.stage = .taken) :
    Gives .cancel s fun t =>
      (∀ y ∈ t.sched.packets, (y.key = p.key → y.stage = .done .ok 1 0) ∧ (y.key = x.key → y.cancelled = true)) ∧
        t.sched.packets.map Packet.key = s.sched.packets.map Packet.key ∧ t.sched.packets.filter (fun y => y.key ≠
        p.key ∧ y.key ≠ x.key) = s.sched.packets.filter (fun y => y.key ≠ p.key ∧ y.key ≠ x.key) ∧ Keeps s t [.sched] ∧
        KeepsRegs s t [] := by
  have hmarked : PacketsOf (s.modPk x.key fun y => { y with cancelled := true }) x.key fun y => y.cancelled = true :=
    (packetsOf_trivial s x.key).modPk_same fun _ _ => rfl
  obtain ⟨hdone, hkeys, -⟩ := completes_finish (s.modPk x.key fun y => { y with cancelled := true }) p.key .ok 1 0
  refine ⟨_, exec_cancel hruns, ?_⟩
  rw [cancelPacket_taken hfind hlive htarget hstage]
  refine ⟨fun y hy => ⟨fun hk => (hdone y hy hk).1, ?_⟩, hkeys.trans (keys_modPk s _ fun _ => rfl), ?_,
    State.finish_keeps _ _ _ _ _ (State.modPk_keeps _ _ _ (Keeps.refl _ _) (by simp)) (by simp), fun _ _ => rfl⟩
  · exact hmarked.modPk_other (cancelTarget_key_ne htarget) (by intro _; rfl) y hy
  · refine (filter_modified fun y hy => ?_).trans (filter_modified fun y hy => ?_) <;> simp_all [Packet.key]

/-- A running packet that no engine holds completes at once, marked as cancelled (R307). -/
theorem endRunning_held {s : State} {x : Packet} (hops : s.seq.ops.all (fun o => o.pk ≠ x.key) = true)
    (hcolls : s.sched.colls.all (fun c => c.pk ≠ x.key) = true) (hclean : ∀ c, s.sched.clean = some c → c.pk ≠ x.key)
    (st : Status) : s.endRunning x st = (s.modPk x.key fun y => { y with cancelled := true }).endHeld x st := by
  have hop : (s.modPk x.key fun y => { y with cancelled := true }).seq.ops.find? (fun o => o.pk = x.key) = none :=
    List.find?_eq_none.mpr fun o ho => by simpa using List.all_eq_true.mp hops o ho
  have hcoll : (s.modPk x.key fun y => { y with cancelled := true }).sched.colls.find? (fun c => c.pk = x.key) = none :=
    List.find?_eq_none.mpr fun c hc => by simpa using List.all_eq_true.mp hcolls c hc
  have hsweep : (s.modPk x.key fun y => { y with cancelled := true }).sched.clean = s.sched.clean := rfl
  simp only [State.endRunning, hop, hcoll, hsweep]
  cases hc : s.sched.clean with
  | none => rfl
  | some c => exact if_neg (hclean c hc)

/-- A packet that no engine holds, once ended, is done with the status and stays marked. -/
theorem endHeld_packets {s : State} {x : Packet} (h : PacketsOf s x.key fun y => y.cancelled = true) (st : Status) :
    PacketsOf (s.endHeld x st) x.key (fun y => y.cancelled = true ∧ y.stage = .done st 0 0) ∧
      (s.endHeld x st).sched.packets.map Packet.key = s.sched.packets.map Packet.key := by
  unfold State.endHeld
  split
  · exact ⟨h.modPk_same fun _ hy => ⟨hy, rfl⟩, keys_modPk s _ fun _ => rfl⟩
  · have hloaded : PacketsOf (s.loadPk x.key) x.key fun y => y.cancelled = true := h.modPk_same fun _ hy => hy
    exact ⟨hloaded.modPk_same fun _ hy => ⟨hy, rfl⟩,
      (keys_modPk (s.loadPk x.key) _ (by intro _; rfl)).trans (keys_modPk s _ (by intro _; rfl))⟩

theorem gives_cancel_running (s : State) (p x : Packet) (hruns : s.fwRuns .scheduler = true)
    (hfind : s.sched.packets.find? (fun y => y.opcode = 8 ∧ y.stage = .taken) = some p) (hlive : p.cancelled = false)
    (htarget : s.cancelTarget p = some x) (hstage : x.stage = .running)
    (hops : s.seq.ops.all (fun o => o.pk ≠ x.key) = true) (hcolls : s.sched.colls.all (fun c => c.pk ≠ x.key) = true)
    (hclean : ∀ c, s.sched.clean = some c → c.pk ≠ x.key) :
    Gives .cancel s fun t =>
      (∀ y ∈ t.sched.packets, (y.key = p.key → y.stage = .done .ok 1 0) ∧ (y.key = x.key → y.cancelled = true ∧ y.stage
        = .done .cancelled 0 0)) ∧ t.sched.packets.map Packet.key = s.sched.packets.map Packet.key ∧ Keeps s t [.sched]
        ∧ KeepsRegs s t [] := by
  have hmarked : PacketsOf (s.modPk x.key fun y => { y with cancelled := true }) x.key fun y => y.cancelled = true :=
    (packetsOf_trivial s x.key).modPk_same fun _ _ => rfl
  obtain ⟨hended, hkeysEnded⟩ := endHeld_packets hmarked .cancelled
  obtain ⟨hdone, hkeys, -⟩ := completes_finish
    ((s.modPk x.key fun y => { y with cancelled := true }).endHeld x .cancelled) p.key .ok 1 0
  refine ⟨_, exec_cancel hruns, ?_⟩
  rw [cancelPacket_running hfind hlive htarget hstage, endRunning_held hops hcolls hclean]
  refine ⟨fun y hy => ⟨fun hk => (hdone y hy hk).1, ?_⟩,
    hkeys.trans (hkeysEnded.trans (keys_modPk s _ fun _ => rfl)), ?_, ?_⟩
  · exact hended.modPk_other (cancelTarget_key_ne htarget) (by intro _; rfl) y hy
  · exact State.finish_keeps _ _ _ _ _ (State.endHeld_keeps _ _ _ (State.modPk_keeps _ _ _ (Keeps.refl _ _) (by simp))
      (by simp)) (by simp)
  · exact (KeepsRegs.refl s []).of_regs (endHeld_regs _ _ _)

/-- Settles O34, clause by clause. -/
theorem cleansCollectivesAndCancel : Obligations.CleansCollectivesAndCancel :=
  ⟨gives_cleanRange_begins, gives_cleanRange_ends, gives_cleanSweepSet_dirty, gives_collective_takenUp,
    gives_collective_replies, gives_completionNotice_last, gives_collectiveTimeout_inexact, gives_cancel_none,
    gives_cancel_taken, gives_collectiveTimeout_exact, gives_cleanSweepSet, gives_collective_arms,
    gives_completionNotice, gives_cancel_done, gives_cancel_running⟩

end Sys2Proof.Machine
end

section
/-! SUPPORT. The remote port: what a reply, an issue and the freeing of receive space leave of the port (O44). -/

namespace Sys2Proof.Machine

/-- What is as it was outside a list of regions is so outside a longer one. -/
theorem Keeps.mono {s t : State} {ps qs : List Region} (h : Keeps s t ps) (m : ps ⊆ qs) : Keeps s t qs :=
  fun q hq => h q fun hc => hq (m hc)

/-! ### Registers below the die-to-die ports (R359) -/

theorem pathRegs_high : ∀ o ∈ pathRegs, 0x180000 ≤ o := by decide

/-- Requests on their way leave the registers of the remote port and of the identity alone. -/
theorem rd_of_keepsPathRegs {s t : State} (h : KeepsRegs s t pathRegs) (o : Nat) (ho : o < 0x180000) :
    t.rd o = s.rd o :=
  h o fun m => absurd (pathRegs_high o m) (by omega)

theorem gateLen_lt (s : State) (n : Nat) : s.gateLen n < 512 := natBits_lt _ _ _

section windows

variable {s t : State} (h : ∀ o, o < 0x180000 → t.rd o = s.rd o)

include h

theorem gateLen_congr (n : Fin 8) : t.gateLen n = s.gateLen n :=
  State.gf_congr (h _ (by simp only [Reg.RMT_GATE_STATUS]; omega)) _

theorem gateEntry_congr (n : Fin 8) {e : Nat} (he : e < 512) : t.gateEntry n e = s.gateEntry n e := by
  have hreg : t.rd (Reg.RMT_GATE_ACTIVE n e) = s.rd (Reg.RMT_GATE_ACTIVE n e) :=
    h _ (by simp only [Reg.RMT_GATE_ACTIVE]; omega)
  exact Prod.ext (State.gf_congr hreg _) (State.gf_congr hreg _)

theorem gateList_congr (n : Fin 8) : t.gateList n = s.gateList n := by
  have hentries : (upto (t.gateLen n)).map (t.gateEntry n) = (upto (s.gateLen n)).map (s.gateEntry n) := by
    rw [gateLen_congr h]
    refine List.map_congr_left fun e he => gateEntry_congr h n ?_
    exact (List.mem_range.mp he).trans (gateLen_lt s n)
  exact congrArg (List.filter _) hentries

theorem oversize_congr (n : Fin 8) (x : Tx) : t.oversize n x = s.oversize n x := by
  have hlongest : t.longest n x.cls = s.longest n x.cls := by
    simp only [State.longest, gateList_congr h]
  have hcfg : t.rd (Reg.RMT_SUBPORT_CFG n) = s.rd (Reg.RMT_SUBPORT_CFG n) :=
    h _ (by simp only [Reg.RMT_SUBPORT_CFG]; omega)
  simp only [State.oversize, hlongest, State.countedTime, State.counted, State.bit_congr hcfg, State.gf_congr hcfg]

theorem newFrame_congr (hclk : t.clk = s.clk) (opcode dst cls vc : Nat) :
    t.newFrame opcode dst cls vc = s.newFrame opcode dst cls vc := by
  have hhops := State.gf_congr (h Reg.RMT_PORT_CFG (by decide)) Fld.RMT_PORT_CFG_HOPS
  have hhall := h Reg.RMT_HALL_ID (by decide)
  have hself := State.gf_congr (h Reg.ID_CONFIG (by decide)) Fld.ID_CONFIG_INSTANCE
  simp only [State.newFrame, State.endpoint, State.self, State.now, hhops, hhall, hself, hclk]

end windows

/-- Without gates no window is too short (R358, R359). -/
theorem oversize_of_noGates {s : State} {n : Fin 8} (h : s.gateList n = []) (x : Tx) : s.oversize n x = false := by
  simp [State.oversize, State.longest, h, fits]

/-! ### Sub-ports -/

theorem State.sub_modSub (s : State) (n m : Fin 8) (f : SubPort → SubPort) :
    (s.modSub n f).sub m = if m = n then f (s.sub n) else s.sub m := by
  simp only [State.modSub, State.modRmt, State.sub, Fin.getElem_fin, Vector.getElem_set]
  by_cases hm : m = n
  · subst hm; simp
  · simp [hm, Fin.val_ne_of_ne (Ne.symm hm)]

/-- The partner table, the requests and the queues of the sub-ports are as they were, and so is all beside the port. -/
structure PortKept (s t : State) : Prop where
  keeps : Keeps s t [.rmt]
  regs : t.regs = s.regs
  pt : t.rmt.pt = s.rmt.pt
  reqs : t.rmt.reqs = s.rmt.reqs
  held : t.rmt.held = s.rmt.held
  queues : ∀ m, (t.sub m).tx = (s.sub m).tx

section kept

variable {s t u : State}

theorem PortKept.refl (s : State) : PortKept s s := ⟨Keeps.refl s _, rfl, rfl, rfl, rfl, fun _ => rfl⟩

theorem PortKept.modSub (h : PortKept s t) (n : Fin 8) {f : SubPort → SubPort}
    (hf : ∀ p, (f p).tx = p.tx := by intro _; rfl) : PortKept s (t.modSub n f) := by
  refine ⟨State.modSub_keeps _ _ _ h.keeps (by simp), h.regs, h.pt, h.reqs, h.held, fun m => ?_⟩
  rw [State.sub_modSub]
  split
  · next hm => rw [hf, ← hm]; exact h.queues m
  · exact h.queues m

theorem PortKept.settleTo (h : PortKept s t) (n : Fin 8) (now : Nat) : PortKept s (t.settleTo n now) := by
  unfold State.settleTo
  dsimp only
  exact h.modSub n

theorem PortKept.applyShapers (h : PortKept s t) (n : Fin 8) : PortKept s (t.applyShapers n) := by
  unfold State.applyShapers
  dsimp only
  exact h.modSub n

theorem PortKept.settleSub (h : PortKept s t) (n : Fin 8) : PortKept s (t.settleSub n) := by
  unfold State.settleSub
  dsimp only
  split
  · exact ((h.settleTo n _).applyShapers n).settleTo n _
  · exact h.settleTo n _

theorem PortKept.freeRx (h : PortKept s t) (x : RxFrame) : PortKept s (t.freeRx x) := by
  unfold State.freeRx
  split
  · exact h
  · exact h.modSub _

end kept

/-! ### The partner table (R337, R339) -/

theorem ptEntry_congr {s t : State} (h : t.rmt.pt = s.rmt.pt) (p : Nat) : t.ptEntry p = s.ptEntry p := by
  rw [State.ptEntry, State.ptEntry, h]

/-- TX_SEQ of a partner has moved on; its other fields, the other partners and all beside the table are as they were. -/
structure SeqTaken (s t : State) (p : Nat) : Prop where
  keeps : Keeps s t [.rmt]
  regs : t.regs = s.regs
  reqs : t.rmt.reqs = s.rmt.reqs
  subs : ∀ m, t.sub m = s.sub m
  tx : t.ptTxSeq p = (s.ptTxSeq p + 1) % 2 ^ 24
  rx : t.ptRxSeq p = s.ptRxSeq p
  sub : t.ptSub p = s.ptSub p
  others : ∀ q, q ≠ p → t.ptEntry q = s.ptEntry q

/-- What a change of the partner table leaves, whatever it makes of the table. -/
theorem modPt_fields (s : State) (g : List (Nat × Nat) → List (Nat × Nat)) :
    (s.modRmt fun r => { r with pt := g r.pt }).regs = s.regs ∧
      (s.modRmt fun r => { r with pt := g r.pt }).rmt.reqs = s.rmt.reqs ∧
      ∀ m, (s.modRmt fun r => { r with pt := g r.pt }).sub m = s.sub m := ⟨rfl, rfl, fun _ => rfl⟩

theorem ptEntry_ptSet (s : State) (p lo w v q : Nat) :
    (s.ptSet p lo w v).ptEntry q = if q = p then natSetBits (s.ptEntry p) lo w v else s.ptEntry q := cget_cset

theorem takeSeq_seqTaken (s : State) (p : Nat) : SeqTaken s (s.takeSeq p).2 p := by
  have hentry : (s.takeSeq p).2.ptEntry p = natSetBits (s.ptEntry p) 72 24 (s.ptTxSeq p + 1) :=
    (ptEntry_ptSet s p 72 24 _ p).trans (if_pos rfl)
  have habove (lo w : Nat) (hlo : 96 ≤ lo) :
      natBits ((s.takeSeq p).2.ptEntry p) lo w = natBits (s.ptEntry p) lo w := by
    rw [hentry, natBits_set_above _ _ _ _ _ _ hlo]
  have honAlt : (s.takeSeq p).2.ptOnAlt p = s.ptOnAlt p := by
    rw [State.ptOnAlt, State.ptOnAlt, ← natBits_one, ← natBits_one, habove 115 1 (by omega)]
  obtain ⟨hregs, hreqs, hsubs⟩ := modPt_fields s fun l =>
    cset ptReset l p (natSetBits (s.ptEntry p) 72 24 (s.ptTxSeq p + 1))
  refine ⟨State.ptSet_keeps _ _ _ _ _ (Keeps.refl _ _) (by simp), hregs, hreqs, hsubs, ?_, ?_, ?_,
    fun q hq => (ptEntry_ptSet s p 72 24 _ q).trans (if_neg hq)⟩
  · rw [State.ptTxSeq, hentry, natBits_set_same]
  · rw [State.ptRxSeq, hentry, natBits_set_below _ _ _ _ _ _ (by omega), State.ptRxSeq]
  · rw [State.ptSub, State.ptSub, honAlt, State.ptAlt, State.ptHome, habove 116 3 (by omega), habove 112 3 (by omega)]
    rfl

/-! ### Replies (R337, R344, R351) -/

/-- A reply that its class's windows hold stands at the end of its queue, and no other region has changed. -/
structure ReplyQueued (s t : State) (x : RxFrame) (y : Tx) : Prop where
  replied : Replied s t x y
  reqs : t.rmt.reqs = s.rmt.reqs
  keeps : Keeps s t [.rmt]
  regs : t.regs = s.regs

section reply

variable {s t u : State} {x : RxFrame} {y : Tx}

theorem ReplyQueued.portKept (h : ReplyQueued s t x y) (hk : PortKept t u) : ReplyQueued s u x y := by
  obtain ⟨⟨htx, hseq, hrx, hothers⟩, hreqs, hkeeps, hregs⟩ := h
  have hentry := ptEntry_congr hk.pt
  refine ⟨⟨(hk.queues _).trans htx, ?_, ?_, fun q hq => (hentry q).trans (hothers q hq)⟩, hk.reqs.trans hreqs,
    hkeeps.trans hk.keeps, hk.regs.trans hregs⟩
  · rw [State.ptTxSeq, hentry]; exact hseq
  · rw [State.ptRxSeq, hentry]; exact hrx

/-- A reply is queued in the state in which its SEQ is taken. -/
theorem reply_eq (s : State) (x : RxFrame) (st : Status) (detail deckle : Nat) (pay : List Byte) :
    ∃ t, SeqTaken s t x.partner ∧ s.reply x.partner x.frame st detail deckle pay =
      t.enqueue (s.ptSub x.partner) (replyOf s x st detail deckle pay) := by
  have htaken := takeSeq_seqTaken s x.partner
  refine ⟨(s.takeSeq x.partner).2, htaken, ?_⟩
  have hfst : (s.takeSeq x.partner).1 = s.ptTxSeq x.partner := rfl
  unfold State.reply
  generalize s.takeSeq x.partner = q at htaken hfst
  obtain ⟨v, t⟩ := q
  have hclk : t.clk = s.clk := htaken.keeps .clk (by simp)
  have hnow : t.now .remote = s.now .remote := by simp only [State.now, hclk]
  have hsub : t.ptSub x.partner = s.ptSub x.partner := htaken.sub
  have hv : v = s.ptTxSeq x.partner := hfst
  dsimp only
  rw [hsub, hnow, hv, newFrame_congr (fun o _ => State.rd_congr htaken.regs o) hclk]

theorem reply_queued (s : State) (x : RxFrame) (st : Status) (detail deckle : Nat) (pay : List Byte)
    (hfits : s.oversize (s.ptSub x.partner) (replyOf s x st detail deckle pay) = false) :
    ReplyQueued s (s.reply x.partner x.frame st detail deckle pay) x (replyOf s x st detail deckle pay) := by
  obtain ⟨t, ⟨hset, hregs, hreqs, hsubs, htx, hrx, -, hothers⟩, hreply⟩ := reply_eq s x st detail deckle pay
  generalize replyOf s x st detail deckle pay = y at hfits hreply ⊢
  generalize hn : s.ptSub x.partner = n at hfits hreply
  have hk : PortKept t (t.settleSub n) := (PortKept.refl t).settleSub n
  have hover : (t.settleSub n).oversize n y = false :=
    (oversize_congr (s := s) (fun o _ => State.rd_congr (hk.regs.trans hregs) o) n y).trans hfits
  have henqueue : t.enqueue n y = (t.settleSub n).modSub n fun p => { p with tx := p.tx ++ [y] } := by
    simp only [State.enqueue, hover, Bool.false_eq_true, if_false]
  have hpt : ((t.settleSub n).modSub n fun p => { p with tx := p.tx ++ [y] }).rmt.pt = t.rmt.pt := hk.pt
  rw [hreply, henqueue]
  refine ⟨⟨?_, ?_, ?_, fun q hq => (ptEntry_congr hpt q).trans (hothers q hq)⟩, hk.reqs.trans hreqs,
    hset.trans (State.modSub_keeps _ _ _ hk.keeps (by simp)), hk.regs.trans hregs⟩
  · rw [hn, State.sub_modSub, if_pos rfl]
    exact congrArg (· ++ [y]) ((hk.queues n).trans (congrArg SubPort.tx (hsubs n)))
  · rw [State.ptTxSeq, ptEntry_congr hpt]; exact htx
  · rw [State.ptRxSeq, ptEntry_congr hpt]; exact hrx

/-- What a request that is answered at once leaves (R343). -/
theorem answerReq_queued (s : State) (r : RmtReq) (st : Status) (detail : Nat)
    (hfits : s.oversize (s.ptSub r.rx.partner) (replyOf s r.rx st detail 0 []) = false) :
    ReplyQueued (s.dropReq r) (s.answerReq r st detail) r.rx (replyOf s r.rx st detail 0 []) :=
  (reply_queued (s.dropReq r) r.rx st detail 0 [] hfits).portKept ((PortKept.refl _).freeRx r.rx)

theorem dropReq_keeps_rmt (s : State) (r : RmtReq) : Keeps s (s.dropReq r) [.rmt] :=
  State.dropReq_keeps _ _ (Keeps.refl _ _) (by simp)

end reply

/-! ### Requests that enter the crossbar (R344, R345) -/

theorem complete_nextId (s : State) (r : Req) (st : Status) (data : List Byte) :
    (s.complete r st data).paths.nextId = s.paths.nextId := by
  unfold State.complete
  dsimp only
  split
  · rfl
  · split
    · rfl
    · split
      · rw [State.paths_onPort]; rfl
      · rfl
  · split <;> split <;> simp [State.paths_endTag]

theorem ingress_nextId (s : State) (r : Req) : (s.ingress r).paths.nextId = s.paths.nextId := by
  have hdraw (f : Paths → Paths) (i k z : Nat) : (((s.drawFor r).stamp i k z).modPaths f).paths = f s.paths :=
    congrArg f (State.paths_drawFor s r)
  have hdone (i k z : Nat) (st : Status) : (((s.drawFor r).stamp i k z).complete r st []).paths.nextId =
      s.paths.nextId :=
    (complete_nextId _ _ _ _).trans (congrArg Paths.nextId (State.paths_drawFor s r))
  unfold State.ingress
  dsimp only
  split
  · exact hdone _ _ _ _
  · split
    · exact hdone _ _ _ _
    · split
      · split
        · rw [hdraw]
        · exact hdone _ _ _ _
      · split <;> rw [hdraw]
    · split
      · exact hdone _ _ _ _
      · rw [State.paths_onPort]
        exact congrArg Paths.nextId (State.paths_drawFor s r)

/-- What a walk of requests onto the crossbar leaves. -/
structure Entering (s t : State) : Prop where
  keeps : Keeps s t pathRegions
  regs : KeepsRegs s t pathRegs
  nextId : t.paths.nextId = s.paths.nextId

theorem foldl_ingress_entering (s : State) (l : List Req) : Entering s (l.foldl (fun t q => t.ingress q) s) :=
  List.foldlRecOn (motive := Entering s) l _ ⟨Keeps.refl _ _, KeepsRegs.refl _ _, rfl⟩ fun u hu q _ =>
    ⟨State.ingress_keeps _ _ hu.keeps (by simp) (by simp) (by simp) (by simp), hu.regs.ingress (List.Subset.refl _) q,
      (ingress_nextId u q).trans hu.nextId⟩

/-- With tagging off and no record open, a request in the own range only joins the crossbar (R28, R519). -/
theorem ingress_quiet {s : State} {r : Req} (h : OwnAt s r.addr)
    (hoff : s.bit Reg.CNT_TAG_CFG Fld.CNT_TAG_CFG_ENABLE = false) (hlive : s.tags.live = []) :
    s.ingress r = s.modPaths fun x => { x with reqXbar := x.reqXbar ++ [r] } := by
  have hdraw : s.drawFor r = s := by
    unfold State.drawFor State.draw
    split <;> simp [hoff]
  have hstamp (i k z : Nat) : s.stamp i k z = s := by
    simp only [State.stamp, hlive, List.map_nil]
    rw [← hlive]
  rw [ingress_ownAt h, hdraw, hstamp]

theorem foldl_ingress_quiet {s : State} (l : List Req) (h : ∀ r ∈ l, OwnAt s r.addr)
    (hoff : s.bit Reg.CNT_TAG_CFG Fld.CNT_TAG_CFG_ENABLE = false) (hlive : s.tags.live = []) :
    l.foldl (fun t q => t.ingress q) s = s.modPaths fun x => { x with reqXbar := x.reqXbar ++ l } := by
  induction l generalizing s with
  | nil => simp [State.modPaths]
  | cons r l ih =>
    have htail : ∀ q ∈ l, OwnAt (s.modPaths fun x => { x with reqXbar := x.reqXbar ++ [r] }) q.addr :=
      fun q hq => h q (List.mem_cons_of_mem r hq)
    rw [List.foldl_cons, ingress_quiet (h r List.mem_cons_self) hoff hlive, ih htail hoff hlive]
    simp [State.modPaths]

/-- A crossbar request of a remote request is for one of its line parts (R344). -/
theorem Frame.addr_of_mem_reqs {f : Frame} {id n : Nat} {op : HostOp} {q : Req} (h : q ∈ f.reqs id n op) :
    ∃ x ∈ frameParts f.addr n, q.addr = x.1 := by
  obtain ⟨⟨x, k⟩, hx, rfl⟩ := List.mem_map.mp h
  exact ⟨x, List.fst_mem_of_mem_zipIdx hx, rfl⟩

/-! ### Issuing (R344, R345) -/

section issue

variable {s : State} {r : RmtReq} {op : Nat}

/-- The next request of an opcode has been checked, not issued, and has that opcode. -/
theorem nextReq_some {busy : List Nat} {l : List RmtReq} (h : nextReq op busy l = some r) :
    r.checked = true ∧ r.rx.frame.opcode = op := by
  induction l generalizing busy with
  | nil => cases h
  | cons y l ih =>
    unfold nextReq at h
    split at h
    · exact ih h
    · split at h
      · next hy =>
        cases h
        exact ⟨hy.1, hy.2.1⟩
      · exact ih h

/-- A request is marked as issued under a number, its reply's space reserved, and its receive space is free. -/
structure Marked (s t : State) (r : RmtReq) (id pieces reserve : Nat) : Prop where
  reqs : t.rmt.reqs = s.rmt.reqs.map fun y =>
    if y = r then { y with issued := some id, pieces := pieces, reserve := reserve } else y
  pt : t.rmt.pt = s.rmt.pt
  held : t.rmt.held = s.rmt.held
  queues : ∀ m, (t.sub m).tx = (s.sub m).tx
  keeps : Keeps s t [.rmt]
  regs : t.regs = s.regs

theorem markIssued_marked (s : State) (r : RmtReq) (id pieces reserve : Nat) :
    Marked s (s.markIssued r id pieces reserve) r id pieces reserve := by
  obtain ⟨-, hregs, hpt, hreqs, hheld, hqueues⟩ := (PortKept.refl (s.modRmt fun q =>
    { q with reqs := q.reqs.map fun y =>
      if y = r then { y with issued := some id, pieces := pieces, reserve := reserve } else y })).freeRx r.rx
  exact ⟨hreqs, hpt, hheld, hqueues, State.markIssued_keeps _ _ _ _ _ (Keeps.refl _ _) (by simp), hregs⟩

theorem issueReq_eq {hop : HostOp} {n m : Frame → Nat} (hnext : nextReq op [] s.rmt.reqs = some r)
    (hheld : s.rmtHeld + (n r.rx.frame + 255) / 256 ≤ 1024)
    (hroom : s.txRoom (s.ptSub r.rx.partner) (64 + m r.rx.frame) = true) :
    s.issueReq op hop n m = (r.rx.frame.reqs s.freshId (n r.rx.frame) hop).foldl (fun t q => t.ingress q)
      ((s.skipIds 1).markIssued r s.freshId ((n r.rx.frame + 255) / 256) (64 + m r.rx.frame)) := by
  simp only [State.issueReq, hnext]
  exact if_pos ⟨hheld, hroom⟩

end issue

end Sys2Proof.Machine
end

section
/-! SUPPORT. Requests of a partner: checked, issued and answered (O44). -/

namespace Sys2Proof.Machine

/-! ### Checking (R343) -/

section check

variable {s : State} {r : RmtReq}

theorem exec_remoteRequestCheck (hlive : s.live .remote = true) :
    exec .remoteRequestCheck s = .next (requestCheck s) := congrArg Host.Outcome.next (State.onLive_true hlive)

theorem find_unchecked (hreqs : s.rmt.reqs = [r]) (hnew : r.checked = false) :
    (s.rmt.reqs.find? fun x => !x.checked) = some r := by
  rw [hreqs]
  exact List.find?_cons_of_pos (by simp [hnew])

/-- A request answered at once is gone, its reply queued. -/
theorem answerReq_answered (s : State) (r : RmtReq) (st : Status) (detail : Nat)
    (hfits : s.oversize (s.ptSub r.rx.partner) (replyOf s r.rx st detail 0 []) = false) :
    (s.answerReq r st detail).rmt.reqs = dropFirst (fun y => decide (y = r)) s.rmt.reqs ∧
      Replied s (s.answerReq r st detail) r.rx (replyOf s r.rx st detail 0 []) ∧
      Keeps s (s.answerReq r st detail) [.rmt] ∧ (s.answerReq r st detail).regs = s.regs := by
  obtain ⟨hreplied, hreqs, hkeeps, hregs⟩ := answerReq_queued s r st detail hfits
  exact ⟨hreqs, hreplied, (dropReq_keeps_rmt s r).trans hkeeps, hregs⟩

theorem gives_check_passed (s : State) (r : RmtReq) (hlive : s.live .remote = true)
    (hfind : (s.rmt.reqs.find? fun x => !x.checked) = some r) (hok : s.requestRefusal r.rx = none) :
    Gives .remoteRequestCheck s fun t =>
      t.rmt = { s.rmt with reqs := s.rmt.reqs.map fun y => if y = r then { y with checked := true } else y } ∧ Keeps s
        t [.rmt] ∧ KeepsRegs s t [] := by
  refine ⟨_, exec_remoteRequestCheck hlive, ?_⟩
  simp only [requestCheck, hfind, hok]
  exact ⟨rfl, State.modRmt_keeps _ _ (Keeps.refl _ _) (by simp), fun _ _ => rfl⟩

theorem gives_check_refused (s : State) (r : RmtReq) (st : Status) (hlive : s.live .remote = true)
    (hfind : (s.rmt.reqs.find? fun x => !x.checked) = some r) (hbad : s.requestRefusal r.rx = some st)
    (hroom : s.txRoom (s.ptSub r.rx.partner) 64 = true)
    (hfits : s.oversize (s.ptSub r.rx.partner) (replyOf s r.rx st 0 0 []) = false) :
    Gives .remoteRequestCheck s fun t =>
      t.rmt.reqs = dropFirst (fun y => decide (y = r)) s.rmt.reqs ∧ Replied s t r.rx (replyOf s r.rx st 0 0 []) ∧ Keeps
        s t [.rmt] ∧ KeepsRegs s t [] := by
  obtain ⟨hreqs, hreplied, hkeeps, hregs⟩ := answerReq_answered s r st 0 hfits
  refine ⟨_, exec_remoteRequestCheck hlive, ?_⟩
  simp only [requestCheck, hfind, hbad, hroom, if_true]
  exact ⟨hreqs, hreplied, hkeeps, (KeepsRegs.refl s []).of_regs hregs⟩

theorem dropFirst_single (r : RmtReq) : dropFirst (fun y => decide (y = r)) [r] = [] := by
  simp [dropFirst]

/-- A sole request that is refused leaves none. -/
theorem gives_check_refusedSole (s : State) (r : RmtReq) (st : Status) (hlive : s.live .remote = true)
    (hreqs : s.rmt.reqs = [r]) (hnew : r.checked = false) (hbad : s.requestRefusal r.rx = some st)
    (hroom : s.txRoom (s.ptSub r.rx.partner) 64 = true) (hgates : s.gateList (s.ptSub r.rx.partner) = []) :
    Gives .remoteRequestCheck s fun t =>
      t.rmt.reqs = [] ∧ Replied s t r.rx (replyOf s r.rx st 0 0 []) ∧ Keeps s t [.rmt] ∧ KeepsRegs s t [] := by
  have h := gives_check_refused s r st hlive (find_unchecked hreqs hnew) hbad hroom (oversize_of_noGates hgates _)
  rwa [hreqs, dropFirst_single] at h

/-- A READ of 64 bytes that its partner may make meets thermal shutdown only (R338, R343). -/
theorem requestRefusal_read {x : RxFrame} (hform : x.frame.opcode = 1 ∧ x.frame.payload = [] ∧ x.frame.payBytes = 0)
    (hperm : (s.ptEntry x.partner).testBit 124 = true) (hsize : x.frame.count = 64 ∧ x.frame.addr % 64 = 0) :
    s.requestRefusal x = if s.shutdown then some .thermalShutdown else none := by
  obtain ⟨hop, hpay, hbytes⟩ := hform
  obtain ⟨hcount, haddr⟩ := hsize
  have hrw : rwRefusal x.frame.addr 64 = none := by
    have hlength : rwLength 64 = true := by decide
    simp [rwRefusal, hlength, haddr]
  simp [State.requestRefusal, hop, hpay, hbytes, hperm, hcount, hrw]

theorem requestRefusal_writeDenied {x : RxFrame} (hop : x.frame.opcode = 2)
    (hperm : (s.ptEntry x.partner).testBit 125 = false) : s.requestRefusal x = some .badRequest := by
  simp [State.requestRefusal, hop, hperm]

theorem gives_check_read (s : State) (r : RmtReq) (hlive : s.live .remote = true) (hreqs : s.rmt.reqs = [r])
    (hnew : r.checked = false) (hform : r.rx.frame.opcode = 1 ∧ r.rx.frame.payload = [] ∧ r.rx.frame.payBytes = 0)
    (hperm : (s.ptEntry r.rx.partner).testBit 124 = true) (hsize : r.rx.frame.count = 64 ∧ r.rx.frame.addr % 64 = 0)
    (hup : s.shutdown = false) :
    Gives .remoteRequestCheck s fun t =>
      t.rmt = { s.rmt with reqs := [{ r with checked := true }] } ∧ Keeps s t [.rmt] ∧ KeepsRegs s t [] := by
  have h := gives_check_passed s r hlive (find_unchecked hreqs hnew)
    ((requestRefusal_read hform hperm hsize).trans (by simp [hup]))
  rwa [hreqs, List.map_singleton, if_pos rfl] at h

theorem gives_check_writeDenied (s : State) (r : RmtReq) (hlive : s.live .remote = true) (hreqs : s.rmt.reqs = [r])
    (hnew : r.checked = false ∧ r.issued = none ∧ r.rx.sub = none) (hop : r.rx.frame.opcode = 2)
    (hperm : (s.ptEntry r.rx.partner).testBit 125 = false) (hroom : s.txRoom (s.ptSub r.rx.partner) 64 = true)
    (hgates : s.gateList (s.ptSub r.rx.partner) = []) :
    Gives .remoteRequestCheck s fun t =>
      t.rmt.reqs = [] ∧ Replied s t r.rx (replyOf s r.rx .badRequest 0 0 []) ∧ Keeps s t [.rmt] ∧ KeepsRegs s t [] :=
  gives_check_refusedSole s r _ hlive hreqs hnew.1 (requestRefusal_writeDenied hop hperm) hroom hgates

theorem gives_check_shutdown (s : State) (r : RmtReq) (hlive : s.live .remote = true) (hreqs : s.rmt.reqs = [r])
    (hnew : r.checked = false ∧ r.issued = none ∧ r.rx.sub = none)
    (hform : r.rx.frame.opcode = 1 ∧ r.rx.frame.payload = [] ∧ r.rx.frame.payBytes = 0)
    (hperm : (s.ptEntry r.rx.partner).testBit 124 = true) (hsize : r.rx.frame.count = 64 ∧ r.rx.frame.addr % 64 = 0)
    (hdown : s.shutdown = true) (hroom : s.txRoom (s.ptSub r.rx.partner) 64 = true)
    (hgates : s.gateList (s.ptSub r.rx.partner) = []) :
    Gives .remoteRequestCheck s fun t =>
      t.rmt.reqs = [] ∧ Replied s t r.rx (replyOf s r.rx .thermalShutdown 0 0 []) ∧ Keeps s t [.rmt] ∧ KeepsRegs s t
        [] :=
  gives_check_refusedSole s r _ hlive hreqs hnew.1 ((requestRefusal_read hform hperm hsize).trans (by simp [hdown]))
    hroom hgates

end check

/-! ### Issuing (R344, R345) -/

section issue

variable {s t : State} {r : RmtReq} {op reply : Nat} {c : Instr} {hop : HostOp} {n : Frame → Nat}

theorem ownAt_congr (hregs : t.regs = s.regs) (hpwr : t.pwr = s.pwr) {a : Nat} (h : OwnAt s a) : OwnAt t a := by
  obtain ⟨hroute, hshut, hfailed, hfence⟩ := h
  have hrd (o : Nat) : t.rd o = s.rd o := State.rd_congr hregs o
  refine ⟨(route_of_keepsTagRegs ((KeepsRegs.refl s _).of_regs hregs) a).trans hroute,
    (State.bit_congr (hrd _) _).trans hshut, (congrArg Power.failed hpwr).trans hfailed, ?_⟩
  have hslice : t.sliceOf a = s.sliceOf a := congrArg (fun f => sliceFin (lineSlice f a)) (State.gf_congr (hrd _) _)
  rw [hslice, State.gf_congr (hrd _)]
  exact hfence

theorem OneReq.next (h : OneReq s r op reply) : nextReq op [] s.rmt.reqs = some r := by
  obtain ⟨-, hreqs, hissued, hchecked, hopcode, -⟩ := h
  rw [hreqs]
  simp [nextReq, hissued, hchecked, hopcode]

theorem OneReq.held (h : OneReq s r op reply) : s.rmtHeld = 0 := by
  obtain ⟨-, hreqs, hissued, -⟩ := h
  simp [State.rmtHeld, hreqs, hissued]

theorem OneReq.opcode (h : OneReq s r op reply) : r.rx.frame.opcode = op := by
  obtain ⟨-, -, -, -, hopcode, -⟩ := h
  exact hopcode

/-- A sole request with tagging off enters the own slices: the clauses of READ, WRITE, ATOMIC and REDUCE_INTO. -/
theorem gives_issued (hexec : s.live .remote = true → exec c s = .next (s.issueReq op hop n Frame.replyBytes))
    (h : OneReq s r op reply) (hreply : r.rx.frame.replyBytes = reply) (hpieces : (n r.rx.frame + 255) / 256 ≤ 1024)
    (hquiet : s.bit Reg.CNT_TAG_CFG Fld.CNT_TAG_CFG_ENABLE = false ∧ s.tags.live = [])
    (hown : ∀ x ∈ frameParts r.rx.frame.addr (n r.rx.frame), s.route x.1 = .own (natBits x.1 0 37) ∧
      (s.gf Reg.CACHE_FENCE Fld.CACHE_FENCE_PENDING).testBit (s.sliceOf x.1) = false)
    (hup : s.shutdown = false ∧ s.pwr.failed = false) :
    Gives c s fun t =>
      Issued s t r (r.rx.frame.reqs s.freshId (n r.rx.frame) hop) ((n r.rx.frame + 255) / 256) reply ∧
        Keeps s t [.rmt, .paths] ∧ KeepsRegs s t [] := by
  have hnext := h.next
  have hheld := h.held
  obtain ⟨hlive, hreqs, -, -, -, hroom⟩ := h
  subst hreply
  let id := s.freshId
  let l := r.rx.frame.reqs id (n r.rx.frame) hop
  let u := (s.skipIds 1).markIssued r id ((n r.rx.frame + 255) / 256) (64 + r.rx.frame.replyBytes)
  have hm : Marked (s.skipIds 1) u r id ((n r.rx.frame + 255) / 256) (64 + r.rx.frame.replyBytes) :=
    markIssued_marked _ _ _ _ _
  have hregs : u.regs = s.regs := hm.regs
  have hku : Keeps s u [.rmt, .paths] :=
    State.markIssued_keeps _ _ _ _ _ (State.skipIds_keeps _ _ (Keeps.refl _ _) (by simp)) (by simp)
  have htags : u.tags = s.tags := hku .tags (by simp)
  have hpaths : u.paths = (s.skipIds 1).paths := hm.keeps .paths (by simp)
  have hparts : ∀ q ∈ l, OwnAt u q.addr := fun q hq => by
    obtain ⟨x, hx, ha⟩ := Frame.addr_of_mem_reqs hq
    obtain ⟨hroute, hfence⟩ := hown x hx
    rw [ha]
    exact ownAt_congr hregs (hku .pwr (by simp)) ⟨hroute, hup.1, hup.2, hfence⟩
  have hentered : l.foldl (fun t q => t.ingress q) u = u.modPaths fun x => { x with reqXbar := x.reqXbar ++ l } :=
    foldl_ingress_quiet l hparts ((State.bit_congr (State.rd_congr hregs _) _).trans hquiet.1)
      ((congrArg Tagging.live htags).trans hquiet.2)
  have hissue := (issueReq_eq (hop := hop) hnext (by omega) hroom).trans hentered
  refine ⟨_, hexec hlive, ?_⟩
  rw [hissue]
  refine ⟨⟨(congrArg (fun x : Paths => x.reqXbar ++ l) hpaths).trans rfl, congrArg Paths.nextId hpaths,
    hm.reqs.trans ?_, hm.pt, (congrArg Paths.slices hpaths).trans rfl, (congrArg Paths.ports hpaths).trans rfl⟩,
    State.modPaths_keeps _ _ hku (by simp), (KeepsRegs.refl s []).of_regs hregs⟩
  show s.rmt.reqs.map _ = _
  rw [hreqs, List.map_singleton, if_pos rfl]

/-- The next request of an opcode enters the crossbar, wherever its parts go. -/
theorem gives_entered (hexec : s.live .remote = true → exec c s = .next (s.issueReq op hop n Frame.replyBytes))
    (h : NextOf s r op (n r.rx.frame) reply) (hreply : r.rx.frame.opcode = op → r.rx.frame.replyBytes = reply) :
    Gives c s fun t => Entered s t r ((n r.rx.frame + 255) / 256) reply := by
  obtain ⟨hlive, hnext, hheld, hroom⟩ := h
  have hreply := hreply (nextReq_some hnext).2
  subst hreply
  let u := (s.skipIds 1).markIssued r s.freshId ((n r.rx.frame + 255) / 256) (64 + r.rx.frame.replyBytes)
  have hm : Marked (s.skipIds 1) u r s.freshId ((n r.rx.frame + 255) / 256) (64 + r.rx.frame.replyBytes) :=
    markIssued_marked _ _ _ _ _
  have hku : Keeps s u (.rmt :: pathRegions) :=
    State.markIssued_keeps _ _ _ _ _ (State.skipIds_keeps _ _ (Keeps.refl _ _) (by simp)) (by simp)
  have hpaths : u.paths = (s.skipIds 1).paths := hm.keeps .paths (by simp)
  obtain ⟨hkt, hrt, hid⟩ := foldl_ingress_entering u (r.rx.frame.reqs s.freshId (n r.rx.frame) hop)
  refine ⟨_, hexec hlive, ?_⟩
  rw [issueReq_eq hnext hheld hroom]
  generalize (r.rx.frame.reqs s.freshId (n r.rx.frame) hop).foldl (fun t q => t.ingress q) u = t at hkt hrt hid ⊢
  have hrmt : t.rmt = u.rmt := hkt .rmt (by simp)
  refine ⟨(congrArg Rmt.reqs hrmt).trans hm.reqs, hid.trans (congrArg Paths.nextId hpaths),
    (congrArg Rmt.pt hrmt).trans hm.pt, (congrArg Rmt.held hrmt).trans hm.held, fun m => ?_,
    hku.trans (hkt.mono (List.subset_cons_self _ _)), ?_⟩
  · exact (congrArg (fun x : Rmt => x.subs[m].tx) hrmt).trans (hm.queues m)
  · exact ((KeepsRegs.refl s _).of_regs hm.regs).trans hrt

theorem exec_remoteRead (hlive : s.live .remote = true) :
    exec .remoteRead s = .next (s.issueReq 1 .read (·.count) Frame.replyBytes) :=
  congrArg Host.Outcome.next (State.onLive_true hlive)

theorem exec_remoteWrite (hlive : s.live .remote = true) :
    exec .remoteWrite s = .next (s.issueReq 2 .write (·.payBytes) Frame.replyBytes) :=
  congrArg Host.Outcome.next (State.onLive_true hlive)

theorem exec_remoteAtomic (hlive : s.live .remote = true) :
    exec .remoteAtomic s = .next (s.issueReq 3 .atomic (·.payBytes) Frame.replyBytes) :=
  congrArg Host.Outcome.next (State.onLive_true hlive)

theorem exec_remoteReduceInto (hlive : s.live .remote = true) :
    exec .remoteReduceInto s = .next (s.issueReq 4 .reduceInto (·.payBytes) Frame.replyBytes) :=
  congrArg Host.Outcome.next (State.onLive_true hlive)

/-! #### Payload bytes of the replies (R337) -/

section replyBytes

variable {f : Frame}

theorem replyBytes_read (h : f.opcode = 1) : f.replyBytes = f.count := if_pos h

theorem replyBytes_write (h : f.opcode = 2) : f.replyBytes = 0 := by simp [Frame.replyBytes, h]

theorem replyBytes_atomic (h : f.opcode = 3) :
    f.replyBytes = if f.attr.testBit 8 ∨ f.attr % 16 = 3 ∨ f.attr % 16 = 4 then f.payBytes else 0 := by
  simp [Frame.replyBytes, h, Frame.fetches, natBits]

theorem replyBytes_reduce (h : f.opcode = 4) : f.replyBytes = if f.attr % 16 = 9 then 16 else 0 := by
  simp [Frame.replyBytes, h, natBits]

end replyBytes

end issue

/-! ### SIGNATURE (R234, R235) -/

section signature

variable {s u : State} {r : RmtReq}

theorem KeepsRegs.fetch {s0 s : State} {rs : List Nat} (h : KeepsRegs s0 s rs) (m : pathRegs ⊆ rs) (src : Src)
    (hint : Hint) (cls unit addr len : Nat) : KeepsRegs s0 (s.fetch src hint cls unit addr len).2 rs := by
  have hdrop {t : State} (ht : KeepsRegs s0 t rs) (id : Nat) : KeepsRegs s0 (t.dropDone id) rs := ht.of_regs rfl
  have hused : KeepsRegs s0 (s.skipIds 1).usedPeek rs := h.of_regs rfl
  exact hdrop (KeepsRegs.foldl _ (fun _ _ _ hu => hu.ingress m _) hused) _

theorem KeepsRegs.readDesc {s0 s : State} {rs : List Nat} (h : KeepsRegs s0 s rs) (m : pathRegs ⊆ rs) (tb : Nat) :
    KeepsRegs s0 (s.readDesc tb).2 rs := by
  have hfetch (a : Nat) := h.fetch m .firmware .normal 3 64 a 32
  unfold State.readDesc
  dsimp only
  split
  · exact h
  · split <;> exact hfetch _

/-- A descriptor read leaves the remote port, the sequencer and the registers of the port alone. -/
theorem readDesc_entering {tb : Nat} {d : Option Desc} (h : s.readDesc tb = (d, u)) :
    Keeps s u pathRegions ∧ KeepsRegs s u pathRegs := by
  have hu : u = (s.readDesc tb).2 := by rw [h]
  rw [hu]
  exact ⟨State.readDesc_keeps _ _ (Keeps.refl _ _) (by simp) (by simp) (by simp) (by simp) (by simp),
    (KeepsRegs.refl s _).readDesc (List.Subset.refl _) _⟩

theorem ptSub_congr {s t : State} (h : t.rmt.pt = s.rmt.pt) (p : Nat) : t.ptSub p = s.ptSub p := by
  have hentry := ptEntry_congr h p
  have honAlt : t.ptOnAlt p = s.ptOnAlt p := congrArg (·.testBit 115) hentry
  have halt : t.ptAlt p = s.ptAlt p := congrArg (natBits · 116 3) hentry
  have hhome : t.ptHome p = s.ptHome p := congrArg (natBits · 112 3) hentry
  simp only [State.ptSub, honAlt, halt, hhome]

theorem inr_of_ite {α β : Type} {c : Prop} [Decidable c] {a : α} {b : β} {y : α ⊕ β}
    (h : (if c then .inl a else y) = Sum.inr b) : ¬c ∧ y = .inr b := by
  split at h
  · cases h
  · next hc => exact ⟨hc, h⟩

/-- A bag that passes the checks of R234 and R235: one bag of the request's terms, of a reply of 4,096 bytes at most. -/
theorem remoteBag_queued {f : Frame} {d : Desc} {id total : Nat} {o : SigOp}
    (h : u.remoteBag f d id = .inr (o, total)) :
    o.remote = some id ∧ o.bags = 1 ∧ o.indices.length = f.sigField 4 2 ∧ total ≤ 4096 := by
  unfold State.remoteBag at h
  dsimp only at h
  obtain ⟨-, h⟩ := inr_of_ite h
  split at h
  · cases h
  · cases h
  · obtain ⟨-, h⟩ := inr_of_ite h
    obtain ⟨-, h⟩ := inr_of_ite h
    split at h
    · cases h
    · obtain ⟨hsize, h⟩ := inr_of_ite h
      cases h
      exact ⟨rfl, rfl, by simp, Nat.le_of_not_lt hsize⟩

theorem exec_remoteSignature (hlive : s.live .remote = true) :
    exec .remoteSignature s = .next (remoteSignature s) := congrArg Host.Outcome.next (State.onLive_true hlive)

theorem remoteSignature_badTable (hnext : nextReq 5 [] s.rmt.reqs = some r)
    (hroom : s.txRoom (s.ptSub r.rx.partner) 4160 = true) (hread : s.readDesc (r.rx.frame.sigField 0 2) = (none, u)) :
    remoteSignature s = u.answerReq r .badTable (r.rx.frame.sigField 0 2) := by
  simp only [remoteSignature, hnext, hroom, hread, Bool.not_true, Bool.false_eq_true, if_false]

theorem remoteSignature_refused {d0 : Desc} {st : Status} {det : Nat} (hnext : nextReq 5 [] s.rmt.reqs = some r)
    (hroom : s.txRoom (s.ptSub r.rx.partner) 4160 = true) (hread : s.readDesc (r.rx.frame.sigField 0 2) = (some d0, u))
    (hbag : u.remoteBag r.rx.frame d0 s.freshId = .inl (st, det)) : remoteSignature s = u.answerReq r st det := by
  simp only [remoteSignature, hnext, hroom, hread, hbag, Bool.not_true, Bool.false_eq_true, if_false]

theorem remoteSignature_queued {d0 : Desc} {o : SigOp} {total : Nat} (hnext : nextReq 5 [] s.rmt.reqs = some r)
    (hroom : s.txRoom (s.ptSub r.rx.partner) 4160 = true) (hread : s.readDesc (r.rx.frame.sigField 0 2) = (some d0, u))
    (hbag : u.remoteBag r.rx.frame d0 s.freshId = .inr (o, total)) (hlength : u.seq.remoteQueue.length < 64) :
    remoteSignature s = ((u.skipIds 1).modSeq fun q => { q with remoteQueue := q.remoteQueue ++ [o] }).markIssued r
      s.freshId 0 (64 + total) := by
  simp only [remoteSignature, hnext, hroom, hread, hbag, Bool.not_true, Bool.false_eq_true, if_false]
  exact if_neg (by omega)

theorem gives_signature_badTable (s : State) (r : RmtReq) (h : OneReq s r 5 4096)
    (htable : s.gf Reg.BME_TDT_SIZE Fld.BME_TDT_SIZE_ENTRIES ≤ r.rx.frame.sigField 0 2) (_hsub : r.rx.sub = none)
    (hgates : s.gateList (s.ptSub r.rx.partner) = []) :
    Gives .remoteSignature s fun t =>
      t.rmt.reqs = [] ∧ Replied s t r.rx (replyOf s r.rx .badTable (r.rx.frame.sigField 0 2) 0 []) ∧ t.seq = s.seq ∧
        Keeps s t [.rmt] ∧ KeepsRegs s t [] := by
  have hnext := h.next
  obtain ⟨hlive, hsole, -, -, -, hroom⟩ := h
  have hread : s.readDesc (r.rx.frame.sigField 0 2) = (none, s) := if_pos (.inl htable)
  obtain ⟨hreqs, hreplied, hkeeps, hregs⟩ := answerReq_answered s r .badTable (r.rx.frame.sigField 0 2)
    (oversize_of_noGates hgates _)
  refine ⟨_, exec_remoteSignature hlive, ?_⟩
  rw [remoteSignature_badTable hnext hroom hread]
  rw [hsole, dropFirst_single] at hreqs
  exact ⟨hreqs, hreplied, hkeeps .seq (by simp), hkeeps, (KeepsRegs.refl s []).of_regs hregs⟩

theorem gives_signature_queued (s : State) (r : RmtReq) (d0 : Desc) (u : State) (o : SigOp) (total : Nat)
    (h : NextSig s r) (hread : s.readDesc (r.rx.frame.sigField 0 2) = (some d0, u))
    (hbag : u.remoteBag r.rx.frame d0 s.freshId = .inr (o, total)) (hlength : s.seq.remoteQueue.length < 64) :
    Gives .remoteSignature s fun t =>
      t.seq = { s.seq with remoteQueue := s.seq.remoteQueue ++ [o] } ∧ t.rmt.reqs = s.rmt.reqs.map (fun y => if y = r
        then { y with issued := some s.freshId, pieces := 0, reserve := 64 + total } else y) ∧ t.rmt.pt = s.rmt.pt ∧
        Keeps s t ([.rmt, .seq] ++ pathRegions) ∧ KeepsRegs s t pathRegs := by
  obtain ⟨hlive, hnext, hroom⟩ := h
  obtain ⟨hku, hregs⟩ := readDesc_entering hread
  have hseq : u.seq = s.seq := hku .seq (by simp)
  have hrmt : u.rmt = s.rmt := hku .rmt (by simp)
  have hm := markIssued_marked ((u.skipIds 1).modSeq fun q => { q with remoteQueue := q.remoteQueue ++ [o] }) r s.freshId
    0 (64 + total)
  have hksu : Keeps s u ([.rmt, .seq] ++ pathRegions) :=
    hku.mono (List.subset_append_right _ _)
  refine ⟨_, exec_remoteSignature hlive, ?_⟩
  rw [remoteSignature_queued hnext hroom hread hbag (by rw [hseq]; exact hlength)]
  refine ⟨(hm.keeps .seq (by simp)).trans ?_, hm.reqs.trans ?_, hm.pt.trans (congrArg Rmt.pt hrmt), ?_, ?_⟩
  · rw [← hseq]
    rfl
  · rw [← hrmt]
    rfl
  · exact State.markIssued_keeps _ _ _ _ _ (State.modSeq_keeps _ _ (State.skipIds_keeps _ _ hksu (by simp)) (by simp))
      (by simp)
  · exact hregs.of_regs hm.regs

theorem gives_signature_queuedSole (s : State) (r : RmtReq) (d0 : Desc) (u : State) (o : SigOp) (total : Nat)
    (h : OneReq s r 5 4096) (hread : s.readDesc (r.rx.frame.sigField 0 2) = (some d0, u))
    (hbag : u.remoteBag r.rx.frame d0 s.freshId = .inr (o, total)) (hlength : s.seq.remoteQueue.length < 64)
    (_hsub : r.rx.sub = none) :
    Gives .remoteSignature s fun t =>
      t.seq.remoteQueue = s.seq.remoteQueue ++ [o] ∧ o.remote = some s.freshId ∧ o.bags = 1 ∧ o.indices.length =
        r.rx.frame.sigField 4 2 ∧ total ≤ 4096 ∧ t.rmt.reqs =
        [{ r with issued := some s.freshId, pieces := 0, reserve := 64 + total }] ∧ t.seq.ops = s.seq.ops ∧ t.rmt.pt =
        s.rmt.pt ∧ Keeps s t ([.rmt, .seq] ++ pathRegions) ∧ KeepsRegs s t pathRegs := by
  have hnext := h.next
  obtain ⟨hlive, hsole, -, -, -, hroom⟩ := h
  obtain ⟨hremote, hbags, hinds, htotal⟩ := remoteBag_queued hbag
  obtain ⟨t, ht, hseq, hreqs, hpt, hkeeps, hregs⟩ := gives_signature_queued s r d0 u o total ⟨hlive, hnext, hroom⟩ hread
    hbag hlength
  rw [hsole, List.map_singleton, if_pos rfl] at hreqs
  exact ⟨t, ht, congrArg Sequencer.remoteQueue hseq, hremote, hbags, hinds, htotal, hreqs,
    (congrArg Sequencer.ops hseq).trans rfl, hpt, hkeeps, hregs⟩

theorem gives_signature_refused (s : State) (r : RmtReq) (d0 : Desc) (u : State) (st : Status) (det : Nat)
    (h : NextSig s r) (hread : s.readDesc (r.rx.frame.sigField 0 2) = (some d0, u))
    (hbag : u.remoteBag r.rx.frame d0 s.freshId = .inl (st, det))
    (hfits : s.oversize (s.ptSub r.rx.partner) (replyOf s r.rx st det 0 []) = false) :
    Gives .remoteSignature s fun t =>
      t.rmt.reqs = dropFirst (fun y => decide (y = r)) s.rmt.reqs ∧ Replied s t r.rx (replyOf s r.rx st det 0 []) ∧
        Keeps s t (.rmt :: pathRegions) ∧ KeepsRegs s t pathRegs := by
  obtain ⟨hlive, hnext, hroom⟩ := h
  obtain ⟨hku, hregs⟩ := readDesc_entering hread
  have hlow := rd_of_keepsPathRegs hregs
  have hrmt : u.rmt = s.rmt := hku .rmt (by simp)
  have hclk : u.clk = s.clk := hku .clk (by simp)
  have hentry (q : Nat) : u.ptEntry q = s.ptEntry q := ptEntry_congr (congrArg Rmt.pt hrmt) q
  have hsub (m : Fin 8) : u.sub m = s.sub m := congrArg (fun x : Rmt => x.subs[m]) hrmt
  have hptSub (q : Nat) : u.ptSub q = s.ptSub q := ptSub_congr (congrArg Rmt.pt hrmt) q
  have hreply : replyOf u r.rx st det 0 [] = replyOf s r.rx st det 0 [] := by
    simp only [replyOf, newFrame_congr hlow hclk, State.ptTxSeq, hentry, State.now, hclk]
  have hfits' : u.oversize (u.ptSub r.rx.partner) (replyOf u r.rx st det 0 []) = false := by
    rw [hptSub, hreply, oversize_congr hlow]
    exact hfits
  obtain ⟨hreqs, ⟨htx, hseq, hrx, hothers⟩, hkeeps, hregs'⟩ := answerReq_answered u r st det hfits'
  refine ⟨_, exec_remoteSignature hlive, ?_⟩
  rw [remoteSignature_refused hnext hroom hread hbag]
  refine ⟨by rw [hreqs, hrmt], ⟨?_, ?_, ?_, fun q hq => (hothers q hq).trans (hentry q)⟩, ?_, ?_⟩
  · rw [← hptSub, ← hsub, ← hreply]; exact htx
  · rw [hseq, State.ptTxSeq, hentry]; rfl
  · rw [hrx, State.ptRxSeq, hentry]; rfl
  · exact (hku.mono (List.subset_cons_self _ _)).trans (hkeeps.mono (by simp))
  · exact hregs.of_regs hregs'

end signature

/-! ### Answering (R235, R344) -/

section answer

variable {s : State} {r : RmtReq} {i : Nat}

theorem exec_remoteReply (hlive : s.live .remote = true) : exec .remoteReply s = .next (remoteReply s) :=
  congrArg Host.Outcome.next (State.onLive_true hlive)

theorem remoteReply_gathered (hfind : s.rmt.reqs.find? s.reqDone = some r) (hissued : r.issued = some i)
    (hop : r.rx.frame.opcode ≠ 5) :
    remoteReply s = ((s.dropReq r).dropDone i).reply r.rx.partner r.rx.frame (s.gatherReq r i).1 0 0
      (s.gatherReq r i).2 := by
  unfold remoteReply
  dsimp only
  split
  · next hnone => exact absurd (hfind.symm.trans hnone) (by simp)
  · next r' hsome =>
    obtain rfl : r = r' := Option.some.inj (hfind.symm.trans hsome)
    rw [if_neg hop, hissued]
    rfl

theorem remoteReply_answer {st : Status} {d : Nat} {pay : List Byte} (hfind : s.rmt.reqs.find? s.reqDone = some r)
    (hissued : r.issued = some i) (hop : r.rx.frame.opcode = 5)
    (hanswer : s.seq.answers.find? (fun a => a.1 = i) = some (i, st, d, pay)) :
    remoteReply s = ((s.dropReq r).modSeq fun q => { q with answers := q.answers.filter fun a => a.1 ≠ i }).reply
      r.rx.partner r.rx.frame st 0 d pay := by
  unfold remoteReply
  dsimp only
  split
  · next hnone => exact absurd (hfind.symm.trans hnone) (by simp)
  · next r' hsome =>
    obtain rfl : r = r' := Option.some.inj (hfind.symm.trans hsome)
    rw [if_pos hop, hissued]
    simp only [Option.getD_some, hanswer]

theorem gives_reply_gathered (s : State) (r : RmtReq) (i : Nat) (hlive : s.live .remote = true)
    (hfind : s.rmt.reqs.find? s.reqDone = some r) (hissued : r.issued = some i) (hop : r.rx.frame.opcode ≠ 5)
    (hfits : s.oversize (s.ptSub r.rx.partner) (replyOf s r.rx (s.gatherReq r i).1 0 0 (s.gatherReq r i).2) = false) :
    Gives .remoteReply s fun t =>
      t.rmt.reqs = dropFirst (fun y => decide (y = r)) s.rmt.reqs ∧ t.paths =
        { s.paths with done := s.paths.done.filter fun c => c.req.id ≠ i } ∧ Replied s t r.rx (replyOf s r.rx
        (s.gatherReq r i).1 0 0 (s.gatherReq r i).2) ∧ Keeps s t [.rmt, .paths] ∧ KeepsRegs s t [] := by
  obtain ⟨hreplied, hreqs, hkeeps, hregs⟩ := reply_queued ((s.dropReq r).dropDone i) r.rx (s.gatherReq r i).1 0 0
    (s.gatherReq r i).2 hfits
  have hk : Keeps s ((s.dropReq r).dropDone i) [.rmt, .paths] :=
    State.dropDone_keeps _ _ (State.dropReq_keeps _ _ (Keeps.refl _ _) (by simp)) (by simp)
  refine ⟨_, exec_remoteReply hlive, ?_⟩
  rw [remoteReply_gathered hfind hissued hop]
  exact ⟨hreqs, hkeeps .paths (by simp), hreplied, hk.trans (hkeeps.mono (by simp)),
    (KeepsRegs.refl s []).of_regs hregs⟩

/-- The parts of a request have gone, and it is the only one: it is answered. -/
theorem find_reqDone (hreqs : s.rmt.reqs = [r]) (hdone : s.reqDone r = true) :
    s.rmt.reqs.find? s.reqDone = some r := by
  rw [hreqs]
  exact List.find?_cons_of_pos hdone

theorem sliceBytes_sliceBytes (l : List Byte) (n : Nat) : sliceBytes (sliceBytes l 0 n) 0 n = sliceBytes l 0 n := by
  refine List.map_congr_left fun k hk => ?_
  simp [sliceBytes, slicePad, List.mem_range.mp hk]

theorem sliceBytes_zeros (n : Nat) : sliceBytes (zeros n) 0 n = zeros n := by
  refine List.ext_getElem (by simp [sliceBytes, slicePad, zeros]) fun k hk _ => ?_
  simp [sliceBytes, slicePad, zeros]

/-- A READ of one line: its part's status, and its data when that is OK (R344). -/
theorem gatherReq_read {c : Completion} (hop : r.rx.frame.opcode = 1) (hcount : r.rx.frame.count ≤ 128)
    (hdone : s.paths.done = [c]) (hid : c.req.id = i) (hpart : c.req.part = 0) :
    s.gatherReq r i = (c.status, if c.status = .ok then sliceBytes c.data 0 r.rx.frame.count
      else zeros r.rx.frame.count) := by
  have hpieces : frameParts r.rx.frame.addr r.rx.frame.count = [(r.rx.frame.addr, 0, r.rx.frame.count)] := if_pos hcount
  have hbytes := replyBytes_read hop
  simp only [State.gatherReq, hop, hbytes, hpieces, hdone, if_true]
  by_cases hok : c.status = .ok
  · simp [hid, hpart, hok, sliceBytes_sliceBytes]
  · simp [hid, hpart, hok, sliceBytes_zeros]

theorem gives_reply_read (s : State) (r : RmtReq) (e : Nat) (c : Completion) (hlive : s.live .remote = true)
    (hreqs : s.rmt.reqs = [r]) (hissued : r.issued = some e) (hform : r.rx.frame.opcode = 1 ∧ r.rx.frame.count ≤ 128)
    (hgone : s.inFlight e = false) (hdone : s.paths.done = [c]) (hc : c.req.id = e ∧ c.req.part = 0)
    (hgates : s.gateList (s.ptSub r.rx.partner) = []) :
    Gives .remoteReply s fun t =>
      t.rmt.reqs = [] ∧ t.paths = { s.paths with done := [] } ∧ Replied s t r.rx (replyOf s r.rx c.status 0 0 (if
        c.status = .ok then sliceBytes c.data 0 r.rx.frame.count else zeros r.rx.frame.count)) ∧ Keeps s t [.rmt,
        .paths] ∧ KeepsRegs s t [] := by
  have hop : r.rx.frame.opcode ≠ 5 := by omega
  have hready : s.reqDone r = true := by simp [State.reqDone, hissued, hop, hgone]
  have h := gives_reply_gathered s r e hlive (find_reqDone hreqs hready) hissued hop (oversize_of_noGates hgates _)
  have htaken : s.paths.done.filter (fun c => c.req.id ≠ e) = [] := by simp [hdone, hc.1]
  rwa [gatherReq_read hform.1 hform.2 hdone hc.1 hc.2, htaken, hreqs, dropFirst_single] at h

theorem gives_reply_signature (s : State) (r : RmtReq) (e : Nat) (st : Status) (d : Nat) (pay : List Byte)
    (hlive : s.live .remote = true) (hreqs : s.rmt.reqs = [r]) (hissued : r.issued = some e)
    (hop : r.rx.frame.opcode = 5) (hanswer : s.seq.answers = [(e, st, d, pay)])
    (hgates : s.gateList (s.ptSub r.rx.partner) = []) :
    Gives .remoteReply s fun t =>
      t.rmt.reqs = [] ∧ t.seq = { s.seq with answers := [] } ∧ Replied s t r.rx (replyOf s r.rx st 0 d pay) ∧ Keeps s t
        [.rmt, .seq] ∧ KeepsRegs s t [] := by
  have hready : s.reqDone r = true := by simp [State.reqDone, hissued, hop, hanswer]
  let u := (s.dropReq r).modSeq fun q => { q with answers := q.answers.filter fun a => a.1 ≠ e }
  have hfound : s.seq.answers.find? (fun a => a.1 = e) = some (e, st, d, pay) := by
    rw [hanswer]
    exact List.find?_cons_of_pos (by simp)
  have hreply : remoteReply s = u.reply r.rx.partner r.rx.frame st 0 d pay :=
    remoteReply_answer (find_reqDone hreqs hready) hissued hop hfound
  obtain ⟨hreplied, hreqs', hkeeps, hregs⟩ := reply_queued u r.rx st 0 d pay (oversize_of_noGates hgates _)
  have hk : Keeps s u [.rmt, .seq] :=
    State.modSeq_keeps _ _ (State.dropReq_keeps _ _ (Keeps.refl _ _) (by simp)) (by simp)
  refine ⟨_, exec_remoteReply hlive, ?_⟩
  rw [hreply]
  refine ⟨hreqs'.trans ?_, (hkeeps .seq (by simp)).trans ?_, hreplied,
    hk.trans (hkeeps.mono (by simp)), (KeepsRegs.refl s []).of_regs hregs⟩
  · show dropFirst (fun y => decide (y = r)) s.rmt.reqs = []
    rw [hreqs, dropFirst_single]
  · show { s.seq with answers := s.seq.answers.filter fun a => a.1 ≠ e } = _
    rw [hanswer]
    simp

end answer

/-- Settles O44: the clauses of the check, then the four operations that enter the crossbar, alone with tagging off and
in general, then SIGNATURE and the replies. -/
theorem remoteRequests : Obligations.RemoteRequests := by
  unfold Obligations.RemoteRequests
  refine ⟨gives_check_read, gives_check_writeDenied, gives_check_shutdown, ?_, ?_, ?_, ?_, gives_signature_badTable,
    gives_signature_queuedSole, gives_reply_read, gives_reply_signature, gives_check_passed, gives_check_refused, ?_,
    ?_, ?_, ?_, gives_signature_queued, gives_signature_refused, gives_reply_gathered⟩
  · exact fun s r h hpieces hquiet hown hup =>
      gives_issued exec_remoteRead h (replyBytes_read (OneReq.opcode h)) hpieces hquiet hown hup
  · exact fun s r h hpieces hquiet hown hup =>
      gives_issued exec_remoteWrite h (replyBytes_write (OneReq.opcode h)) hpieces hquiet hown hup
  · intro s r h hpieces hquiet hown hup
    rw [← replyBytes_atomic (OneReq.opcode h)]
    exact gives_issued exec_remoteAtomic h rfl hpieces hquiet hown hup
  · intro s r h hpieces hquiet hown hup
    rw [← replyBytes_reduce (OneReq.opcode h)]
    exact gives_issued exec_remoteReduceInto h rfl hpieces hquiet hown hup
  · exact fun s r h => gives_entered exec_remoteRead h replyBytes_read
  · exact fun s r h => gives_entered exec_remoteWrite h replyBytes_write
  · exact fun s r h => gives_entered exec_remoteAtomic h fun _ => rfl
  · exact fun s r h => gives_entered exec_remoteReduceInto h fun _ => rfl

end Sys2Proof.Machine
end

section
/-! SUPPORT. The counterexamples to O35 and O38: a failed quiet read under the number of a row part's read, and a job
whose BME number no BME has. The kernel evaluates the states, so no code is made of them. -/

namespace Sys2Proof.Machine

set_option Elab.async false

/-! ### A quiet read that fails under the number of a row part (R221; log entry 18) -/

/-- A quiet read of BME 0, whose value was taken as it was issued: only its failure comes back. -/
noncomputable def quietFailure : Completion :=
  { req := quietRead 9 0 (.bme 0) .last 3 4096 64, status := .sliceFenced, data := [], at_ := 0 }

/-- A part of one block that BME 0 has asked for under the number of `quietFailure`. -/
noncomputable def sameNumberPart : Part :=
  { role := 0, row := 4096, weight := 0, blocks := [0], issued := some 9, asked := 1, got := [] }

/-- A bag of one term that waits for `sameNumberPart`. -/
noncomputable def sameNumberBag : Bag :=
  { no := 0, terms := 1, sums := [], stage := 5, marks := [], mark := none, left := [sameNumberPart] }

/-- A table of one row of 16 binary32 elements. -/
noncomputable def oneRowTable : Desc :=
  { base := 4096, rows := 1, first := 0, stride := 64, dim := 16, format := .binary32, direct := false,
    remoteOk := false }

/-- A signature of one bag over `oneRowTable`, which gathers `sameNumberBag`. -/
noncomputable def sameNumberSig : SigOp :=
  let a : SigParams := { table := 0, mode := 0, out := 1, hint := .normal, bags := 1, offs := 0, inds := 64, wts := 0,
                         outAddr := 8192, pitch := 64, deck := none, edeck := none }
  { a.op (0, 0) oneRowTable [0, 1] [0] with next := 1, gather := [sameNumberBag] }

/-- BME 0 is in service, `sameNumberSig` is in the sequencer, and `quietFailure` has come back. -/
noncomputable def quietFailureState : State :=
  let s : State := { State.reset with
    pwr := { State.reset.pwr with up := Vector.replicate 133 true },
    paths := { State.reset.paths with done := [quietFailure] },
    seq := { State.reset.seq with ops := [.sig sameNumberSig] } }
  s.setDom 64 .on

/-- The failure of the quiet read stays for its engine. -/
theorem quietFailureState_stays : (rowPartArrival 0 quietFailureState).paths.done ≠ [] := by decide +kernel

/-- Refutes O35: the clause on arrived data (its sixth) does not exclude the completion of a quiet read, whose failure
is no row data and stays (R221; log entry 18). In `quietFailureState` it is one. The clause speaks of every state; no
claim is made that this one is reached. -/
theorem not_signatureIntakeAndGather : ¬ Obligations.SignatureIntakeAndGather := by
  unfold Obligations.SignatureIntakeAndGather
  rintro ⟨-, -, -, -, -, harrival, -⟩
  have hlive : quietFailureState.live (.bme 0) = true := by decide +kernel
  obtain ⟨t, ht, hdone, -⟩ := harrival quietFailureState 0 sameNumberSig sameNumberBag sameNumberPart quietFailure 0
    hlive rfl rfl rfl rfl ⟨rfl, rfl, rfl⟩ rfl rfl rfl rfl rfl
  have hexec : exec (.rowPartArrival 0) quietFailureState = .next (rowPartArrival 0 quietFailureState) :=
    congrArg Host.Outcome.next (State.onLive_true hlive)
  obtain rfl : rowPartArrival 0 quietFailureState = t := by simpa [hexec] using ht
  exact quietFailureState_stays hdone

/-! ### A job at a number that no BME has (R257, R521) -/

/-- A finished job of one enabled position, which is marked. Its BME number is that for which the formula of
PRESS_STATUS gives CNT_TAG_SEQ; BMEs have the numbers 0 to 31. -/
noncomputable def tagSeqJob : Job :=
  { no := 0, bme := (Reg.CNT_TAG_SEQ - Reg.PRESS_STATUS 0) / 4, bank := 0, pass := 1, passes := 1, rows := [true],
    cols := [true], reads := [], marks := [0], mark := some .poisoned }

/-- A projection of one row and one column with `tagSeqJob` active. -/
noncomputable def tagSeqPress : PressOp :=
  { pk := (0, 0), project := true, fa := .e4m3, fb := .e4m3, out := .binary32, hint := .normal, m := 1, n := 1, k := 64,
    feat := 0, aAddr := 0, aPitch := 64, bAddr := 64, bPitch := 64, samplePitch := 0, maskAddr := 0, layout := 0,
    outAddr := 8192, outPitch := 64, deckleAddr := none, edeckleAddr := none, jobs := 1, limit := 1, deal := [],
    begun := [], redo := [], active := [tagSeqJob], draining := [], committed := 0, rowMax := [], stop := none,
    marked := [], deckles := [] }

/-- The record of a tagged request of number 0, the number of the next write. -/
noncomputable def nextWriteTag : TagRec :=
  { id := 0, port := 0, op := 1, hint := 0, addr := 0, cls := 3, path := 0, pc := 255, slice := 255, status := 0,
    stamps := [(0, 0)] }

/-- A power-failed state with `tagSeqPress` in the sequencer and `nextWriteTag` open: a write completes at once with
ABSENT (R463), and its record ends. -/
noncomputable def tagSeqState : State :=
  { State.reset with
    pwr := { State.reset.pwr with up := Vector.replicate 133 true, failed := true },
    tags := { State.reset.tags with live := [nextWriteTag] },
    seq := { State.reset.seq with ops := [.press tagSeqPress] } }

/-- The commit adds one to the register twice: for the record that its write ends, and for the job. -/
theorem tagSeqState_counts :
    tagSeqState.gf (Reg.PRESS_STATUS tagSeqJob.bme) Fld.PRESS_STATUS_JOBS = 0 ∧
      (jobCommit tagSeqState).gf (Reg.PRESS_STATUS tagSeqJob.bme) Fld.PRESS_STATUS_JOBS = 2 := by decide +kernel

/-- Refutes O38: the clause on a job that commits (its fifth) does not ask that the job's BME number is below 32. In
`tagSeqState` its PRESS_STATUS would be CNT_TAG_SEQ, which the job's own writes count too (R521). The clause speaks of
every state; no claim is made that this one is reached. -/
theorem not_pressSteps : ¬ Obligations.PressSteps := by
  unfold Obligations.PressSteps
  rintro ⟨-, -, -, -, hcommit, -⟩
  have hlive : tagSeqState.live .firmware = true := by decide +kernel
  have hready : tagSeqState.jobReady tagSeqPress tagSeqJob = true := by decide +kernel
  obtain ⟨t, ht, -, hjobs, -⟩ := hcommit tagSeqState tagSeqPress tagSeqJob hlive rfl rfl hready
  have hexec : exec .jobCommit tagSeqState = .next (jobCommit tagSeqState) :=
    congrArg Host.Outcome.next (State.onLive_true hlive)
  obtain rfl : jobCommit tagSeqState = t := by simpa [hexec] using ht
  obtain ⟨hbefore, hafter⟩ := tagSeqState_counts
  rw [hbefore, hafter] at hjobs
  exact absurd hjobs (by decide)

end Sys2Proof.Machine
end
